-- ==== Sys2Proof/Word.lean ====
section
/-! DEFINITION. The word types of the module's registers (32 bits, R480 and its like) and its bytes. -/

namespace Sys2Proof

/-- A 32-bit register word. -/
abbrev Word := BitVec 32

/-- A byte. -/
abbrev Byte := BitVec 8

/-- The value of a 4 KiB block, as one number: byte i of the block is bits [8i+7:8i] (R1). -/
abbrev Block := Nat

end Sys2Proof
end

