-- ==== Sys2Proof/Config.lean ====
section
/-! DEFINITION. What an implementation fixes and the spec leaves open: the free values. None has a body, so nothing can
be proved of the numbers they stand for. -/

namespace Sys2Proof.Config

/-- A fresh free value: the n-th value the model reads where the spec states no value (log entry 4). -/
opaque freeValue : Nat → Nat

/-- The wall clock, in milliseconds of UTC, at a reading of CCH_MTIME: the spec gives TIME fields no source (log entry 5). -/
opaque utcMs : Nat → Nat

/-- The SHA-256 digest of an image or certificate given as a number; signature checks are the sender's input (log entry 6). -/
opaque digest : Nat → Nat

/-- The 8 bytes of ASCII that name the revision of a firmware image, by the image's number: the spec gives no revision. -/
opaque fwRev : Nat → Nat

/-- The SAS world-wide name of the drive in a physical slot: what a drive is called comes with it. -/
opaque wwn : Nat → Nat

/-- A byte of the boot ROM, which the spec does not give. -/
opaque romByte : Nat → Nat

end Sys2Proof.Config
end

