-- ==== Sys2Proof/Machine/Assoc.lean ====
section
/-! DEFINITION. Sparse data: lists of key and value pairs in one canonical form (keys strictly rising, no pair that holds
what an absent key reads as). Registers, memory and the tables of the module are kept so. -/

namespace Sys2Proof.Machine

/-- The value listed under a key. -/
def Assoc.find {α : Type} : List (Nat × α) → Nat → Option α
  | [], _ => none
  | (a, v) :: t, k => if a = k then some v else Assoc.find t k

/-- Every pair but those of a key. -/
def Assoc.erase {α : Type} : List (Nat × α) → Nat → List (Nat × α)
  | [], _ => []
  | (a, v) :: t, k => if a = k then Assoc.erase t k else (a, v) :: Assoc.erase t k

/-- A pair put in its place among rising keys. -/
def Assoc.insert {α : Type} (k : Nat) (v : α) : List (Nat × α) → List (Nat × α)
  | [] => [(k, v)]
  | (a, w) :: t => if k < a then (k, v) :: (a, w) :: t else (a, w) :: Assoc.insert k v t

/-- The value read under a key: `d` where none is listed. -/
def Assoc.getD {α : Type} (m : List (Nat × α)) (k : Nat) (d : α) : α := (Assoc.find m k).getD d

/-- The map with `v` under `k`. -/
def Assoc.set {α : Type} (m : List (Nat × α)) (k : Nat) (v : α) : List (Nat × α) :=
  Assoc.insert k v (Assoc.erase m k)

/-- The map with `v` under `k`, where an absent key reads as `d`: writing `d` removes the pair. -/
def Assoc.put {α : Type} [DecidableEq α] (m : List (Nat × α)) (d : α) (k : Nat) (v : α) : List (Nat × α) :=
  if v = d then Assoc.erase m k else Assoc.set m k v

/-- Keys strictly rising, all above a bound. -/
def Assoc.risingFrom {α : Type} : Nat → List (Nat × α) → Bool
  | _, [] => true
  | b, (a, _) :: t => decide (b ≤ a) && Assoc.risingFrom (a + 1) t

/-- The canonical order: keys strictly rising. -/
def Assoc.rising {α : Type} (m : List (Nat × α)) : Bool := Assoc.risingFrom 0 m

/-- A list as a set: an element added once, at the end. -/
def addOnce (l : List Nat) (x : Nat) : List Nat := if x ∈ l then l else l ++ [x]

/-- A list as a set: an element removed. -/
def remove (l : List Nat) (x : Nat) : List Nat := l.filter (fun y => y != x)

/-- An element put before the first one that it does not exceed. -/
def insertBy {α : Type} (le : α → α → Bool) (x : α) : List α → List α
  | [] => [x]
  | y :: t => if le x y then x :: y :: t else y :: insertBy le x t

/-- A list in ascending order; equal elements keep their order. -/
def sortBy {α : Type} (le : α → α → Bool) : List α → List α
  | [] => []
  | x :: t => insertBy le x (sortBy le t)

/-- Elements once each, in the order in which they first stand. -/
def once (l : List Nat) : List Nat := l.foldl addOnce []

end Sys2Proof.Machine
end

