-- ==== Sys2Proof/Machine/Bits.lean ====
section
/-! DEFINITION. Bit fields, byte order (R1), two's complement, checks and finite-field arithmetic over plain numbers. -/

namespace Sys2Proof.Machine

/-- Bits [lo+w-1:lo] of a number. -/
def bits (n lo w : Nat) : Nat := (n / 2 ^ lo) % 2 ^ w

/-- Bit b of a number, as 0 or 1. -/
def bitOf (n b : Nat) : Nat := bits n b 1

/-- 1 for true. -/
def b2n (b : Bool) : Nat := if b then 1 else 0

/-- A number with its bit b set or cleared. -/
def setBit (n b : Nat) (v : Bool) : Nat := if v then n ||| 2 ^ b else (n ||| 2 ^ b) - 2 ^ b

/-- The least integer not below a quotient. -/
def ceilDiv (a b : Nat) : Nat := (a + b - 1) / b

/-- A number rounded up to a multiple. -/
def roundUp (a m : Nat) : Nat := ceilDiv a m * m

/-- A w-bit word as a two's complement integer. -/
def toSigned (w n : Nat) : Int := if 2 ^ (w - 1) ≤ n % 2 ^ w then (n % 2 ^ w : Int) - 2 ^ w else (n % 2 ^ w : Int)

/-- An integer as a w-bit two's complement word. -/
def ofSigned (w : Nat) (i : Int) : Nat := (i % 2 ^ w).toNat

/-- The integer square root, bit by bit from bit n - 1. -/
def isqrtFrom : Nat → Nat → Nat → Nat
  | 0, _, r => r
  | n + 1, x, r => isqrtFrom n x (if (r + 2 ^ n) * (r + 2 ^ n) ≤ x then r + 2 ^ n else r)
def isqrt (x : Nat) : Nat := isqrtFrom 32 x 0

/-- The n low bytes of a number, lowest first (R1). -/
def leBytes : Nat → Nat → List Nat
  | 0, _ => []
  | n + 1, v => v % 256 :: leBytes n (v / 256)

/-- The number whose bytes, lowest first, are given (R1). -/
def leNat : List Nat → Nat
  | [] => 0
  | b :: t => b % 256 + 256 * leNat t

/-- A range cut at the multiples of a unit: address, length and offset in the range of each part. -/
def cutAt (unit : Nat) : Nat → Nat → Nat → Nat → List (Nat × (Nat × Nat))
  | 0, _, _, _ => []
  | fuel + 1, a, n, done =>
    let k := min n (unit - a % unit)
    if n = 0 then [] else (a, (k, done)) :: cutAt unit fuel (a + k) (n - k) (done + k)

/-- A sequence number is newer than another: it exceeds it by 1 to 2^31 - 1, modulo 2^32 (R331). -/
def seqNewer (a b : Nat) : Bool := let d := (a + 2 ^ 32 - b) % 2 ^ 32; decide (1 ≤ d) && decide (d < 2 ^ 31)

/-- The elements of a list that are numbered by the set bits of a word, for `n` bits from bit `base`. -/
def slotsOf (w base : Nat) : Nat → List Nat
  | 0 => []
  | n + 1 => slotsOf w base n ++ (if bitOf w n = 1 then [base + n] else [])

/-- One step of a most-significant-bit-first remainder: `w` bits wide, polynomial `poly` without its top bit. -/
def crcStep (w poly reg bit : Nat) : Nat :=
  let top := bitOf reg (w - 1)
  let sh := (2 * reg) % 2 ^ w
  if (top + bit) % 2 = 1 then Nat.xor sh poly else sh

/-- One byte, most significant bit first. -/
def crcByteMsb (w poly reg b : Nat) : Nat :=
  [7, 6, 5, 4, 3, 2, 1, 0].foldl (fun r i => crcStep w poly r (bitOf b i)) reg

/-- A most-significant-bit-first remainder over bytes. -/
def crcMsb (w poly init : Nat) (bs : List Nat) : Nat := bs.foldl (crcByteMsb w poly) init

/-- One byte of a reflected remainder (least significant bit first), `poly` in reflected form. -/
def crcByteLsb (poly reg b : Nat) : Nat :=
  [0, 1, 2, 3, 4, 5, 6, 7].foldl (fun r _ => if r % 2 = 1 then Nat.xor (r / 2) poly else r / 2) (Nat.xor reg b)

/-- CRC-32C over bytes: reflected, initial value and final inversion all ones. -/
def crc32c (bs : List Nat) : Nat := Nat.xor (bs.foldl (crcByteLsb 0x82F63B78) 0xFFFFFFFF) 0xFFFFFFFF

/-- Carry-less product of two field elements reduced by a polynomial with top bit `w`, by shift and add over `n` bits of b. -/
def gfMulGo (w poly : Nat) : Nat → Nat → Nat → Nat
  | 0, _, _ => 0
  | n + 1, a, b =>
    let rest := gfMulGo w poly n (let d := 2 * a; if 2 ^ w ≤ d then Nat.xor d poly else d) (b / 2)
    if b % 2 = 1 then Nat.xor a rest else rest

/-- Product in GF(2^8) with polynomial 0x11D (L-GEN1). -/
def gf8Mul (a b : Nat) : Nat := gfMulGo 8 0x11D 8 a b

/-- Product in GF(2^16) with polynomial 0x1100B. -/
def gf16Mul (a b : Nat) : Nat := gfMulGo 16 0x1100B 16 a b

/-- Power by square and multiply over the n low bits of the exponent. -/
def gfPowGo (mul : Nat → Nat → Nat) : Nat → Nat → Nat → Nat
  | 0, _, _ => 1
  | n + 1, a, e => let r := gfPowGo mul n (mul a a) (e / 2); if e % 2 = 1 then mul a r else r

/-- Power of an element of GF(2^16), the exponent below 2^16. -/
def gf16Pow (a e : Nat) : Nat := gfPowGo gf16Mul 16 a e

/-- Power of an element of GF(2^8), the exponent below 2^8. -/
def gf8Pow (a e : Nat) : Nat := gfPowGo gf8Mul 8 a e

/-- Inverses: the power that is one short of the group's order. -/
def gf16Inv (a : Nat) : Nat := gf16Pow a 65534
def gf8Inv (a : Nat) : Nat := gf8Pow a 254

/-- Rank of a matrix over GF(2^16), by elimination over at most `c` columns. -/
def gfRank : Nat → List (List Nat) → Nat
  | 0, _ => 0
  | c + 1, rows =>
    let keep := rows.filter (fun r => r.headD 0 == 0)
    match rows.filter (fun r => r.headD 0 != 0) with
    | [] => gfRank c (keep.map List.tail)
    | p :: others =>
      let f := gf16Inv (p.headD 0)
      let reduce (r : List Nat) : List Nat :=
        let k := gf16Mul (r.headD 0) f
        List.zipWith (fun x y => Nat.xor x (gf16Mul k y)) r.tail p.tail
      1 + gfRank c (keep.map List.tail ++ others.map reduce)

/-- A block times a coefficient, symbol by symbol: w bits a symbol, n symbols from the lowest (R57, R74). -/
def symbolsMul (w : Nat) (mul : Nat → Nat → Nat) (c : Nat) : Nat → Nat → Nat
  | 0, _ => 0
  | n + 1, x => mul c (x % 2 ^ w) + 2 ^ w * symbolsMul w mul c n (x / 2 ^ w)

/-- A 4 KiB block times a coefficient in the field of a job; the coefficient 1 adds the source unchanged. -/
def blockMul (field16 : Bool) (c x : Nat) : Nat :=
  if c = 1 then x else if c = 0 then 0
  else if field16 then symbolsMul 16 gf16Mul c 2048 x else symbolsMul 8 gf8Mul (c % 256) 4096 x

end Sys2Proof.Machine
end

