-- ==== Sys2Proof/Machine/Field.lean ====
section
/-! DEFINITION. Register fields: where a field stands, how software may access it (R5) and what it holds after reset. -/

namespace Sys2Proof.Machine

/-- The access codes of R5. -/
inductive Access where
  | rw | ro | wo | w1c | w1s | rwl
  deriving DecidableEq, Repr

/-- One field of one 32-bit register: `off` is the register's BAR0 offset, `lo` the field's lowest bit. -/
structure Field where
  off : Nat
  lo : Nat
  width : Nat
  acc : Access
  reset : Nat
  deriving DecidableEq, Repr

/-- The key under which the register map holds a field: its bit's own number in the register space. -/
def Field.key (f : Field) : Nat := f.off * 32 + f.lo

/-- A field that repeats: instance i is `field i`, at `stride` bytes from the one before, for i below `count`. -/
structure FieldRow where
  stride : Nat
  count : Nat
  field : Nat → Field

/-- The instance of a row that stands in the register at BAR0 offset `off`, if one does. -/
def FieldRow.at? (r : FieldRow) (off : Nat) : Option Field :=
  let base := (r.field 0).off
  if base ≤ off ∧ (off - base) % r.stride = 0 ∧ (off - base) / r.stride < r.count then
    some (r.field ((off - base) / r.stride))
  else none

end Sys2Proof.Machine
end

