-- ==== Sys2Proof/Machine/Registers.lean ====
section
/-! DEFINITION. Every register field of the module, written from the register tables of the spec's chapters 02 to 17:
offset, lowest bit, width, access code (R5) and reset value. `fieldTable` is the whole register index (R495, R496). -/

namespace Sys2Proof.Machine


/-! Stripe geometry and the layered code: STP_CTRL — 0x0003_0000 -/
def Reg.STP_CTRL_LOCK : Field := ⟨0x30000, 0, 1, .rw, 0⟩
def Reg.STP_CTRL_ENABLE : Field := ⟨0x30000, 1, 1, .rw, 0⟩

/-! Stripe geometry and the layered code: STP_XLATE_CTRL — 0x0003_0010 -/
def Reg.STP_XLATE_CTRL_VOL : Field := ⟨0x30010, 0, 6, .rw, 0⟩
def Reg.STP_XLATE_CTRL_BUSY : Field := ⟨0x30010, 30, 1, .ro, 0⟩
def Reg.STP_XLATE_CTRL_GO : Field := ⟨0x30010, 31, 1, .w1s, 0⟩

/-! Stripe geometry and the layered code: STP_XLATE_RES — 0x0003_0014 -/
def Reg.STP_XLATE_RES_SLOT : Field := ⟨0x30014, 0, 7, .ro, 0⟩
def Reg.STP_XLATE_RES_PAR_SLOT : Field := ⟨0x30014, 7, 7, .ro, 0⟩
def Reg.STP_XLATE_RES_DATA_IDX : Field := ⟨0x30014, 14, 7, .ro, 0⟩
def Reg.STP_XLATE_RES_GROUP : Field := ⟨0x30014, 21, 4, .ro, 0⟩
def Reg.STP_XLATE_RES_OUT_OF_RANGE : Field := ⟨0x30014, 29, 1, .ro, 0⟩
def Reg.STP_XLATE_RES_NO_VOLUME : Field := ⟨0x30014, 30, 1, .ro, 0⟩
def Reg.STP_XLATE_RES_DONE : Field := ⟨0x30014, 31, 1, .ro, 0⟩

/-! Stripe geometry and the layered code: STP_XLATE_OFF_LO — 0x0003_0018, STP_XLATE_OFF_HI — 0x0003_001C -/
def Reg.STP_XLATE_OFF_LO_OFF : Field := ⟨0x30018, 0, 32, .rw, 0⟩
def Reg.STP_XLATE_OFF_HI_OFF : Field := ⟨0x3001C, 0, 32, .rw, 0⟩

/-! Stripe geometry and the layered code: STP_XLATE_MOFF_LO — 0x0003_0020, STP_XLATE_MOFF_HI — 0x0003_0024 -/
def Reg.STP_XLATE_MOFF_LO_MOFF : Field := ⟨0x30020, 0, 32, .ro, 0⟩
def Reg.STP_XLATE_MOFF_HI_MOFF : Field := ⟨0x30024, 0, 32, .ro, 0⟩

/-! Stripe geometry and the layered code: STP_ARRAYn_CFG — 0x0003_0100 + 0x40 × n -/
def Reg.STP_ARRAY_CFG_VALID (i : Nat) : Field := ⟨0x30100 + 0x40 * i, 0, 1, .rw, 0⟩
def Reg.STP_ARRAY_CFG_GEN1 (i : Nat) : Field := ⟨0x30100 + 0x40 * i, 1, 1, .rwl, 0⟩
def Reg.STP_ARRAY_CFG_LAYOUT (i : Nat) : Field := ⟨0x30100 + 0x40 * i, 2, 2, .rwl, 0⟩
def Reg.STP_ARRAY_CFG_UNIT_SHIFT (i : Nat) : Field := ⟨0x30100 + 0x40 * i, 4, 5, .rwl, 0x10⟩
def Reg.STP_ARRAY_CFG_NGROUP_M1 (i : Nat) : Field := ⟨0x30100 + 0x40 * i, 9, 3, .rwl, 0⟩
def Reg.STP_ARRAY_CFG_DPG_M1 (i : Nat) : Field := ⟨0x30100 + 0x40 * i, 12, 7, .rwl, 0⟩
def Reg.STP_ARRAY_CFG_NGLOBAL (i : Nat) : Field := ⟨0x30100 + 0x40 * i, 19, 4, .rwl, 0⟩
def Reg.STP_ARRAY_CFG_TOL (i : Nat) : Field := ⟨0x30100 + 0x40 * i, 23, 4, .rwl, 0⟩
def Reg.STP_ARRAY_CFG_CFG_ERR (i : Nat) : Field := ⟨0x30100 + 0x40 * i, 31, 1, .ro, 0⟩

/-! Stripe geometry and the layered code: STP_ARRAYn_HDR — 0x0003_0104 + 0x40 × n -/
def Reg.STP_ARRAY_HDR_HDR_MIB (i : Nat) : Field := ⟨0x30104 + 0x40 * i, 0, 16, .rwl, 0x400⟩

/-! Stripe geometry and the layered code: STP_ARRAYn_ROWS_LO — 0x0003_0108 + 0x40 × n, STP_ARRAYn_ROWS_HI — 0x0003_010C + 0x40 × n -/
def Reg.STP_ARRAY_ROWS_LO_ROWS (i : Nat) : Field := ⟨0x30108 + 0x40 * i, 0, 32, .rwl, 0⟩
def Reg.STP_ARRAY_ROWS_HI_ROWS (i : Nat) : Field := ⟨0x3010C + 0x40 * i, 0, 8, .rwl, 0⟩

/-! Stripe geometry and the layered code: STP_ARRAYn_SLOTMAPk — 0x0003_0110 + 0x40 × n + 4 × k -/
def Reg.STP_ARRAY_SLOTMAP_SLOTS (n : Nat) (k : Nat) : Field := ⟨0x30110 + 0x40 * n + 0x4 * k, 0, (if k = 3 then 12 else 32), .rwl, 0⟩

/-! Stripe geometry and the layered code: STP_ARRAYn_ERASEDk — 0x0003_0120 + 0x40 × n + 4 × k -/
def Reg.STP_ARRAY_ERASED_SLOTS (n : Nat) (k : Nat) : Field := ⟨0x30120 + 0x40 * n + 0x4 * k, 0, (if k = 3 then 12 else 32), .rw, 0⟩

/-! Stripe geometry and the layered code: STP_ARRAYn_EVAL — 0x0003_0130 + 0x40 × n -/
def Reg.STP_ARRAY_EVAL_PHASE_FAIL (i : Nat) : Field := ⟨0x30130 + 0x40 * i, 0, 13, .ro, 0⟩
def Reg.STP_ARRAY_EVAL_MAX_DEFICIT (i : Nat) : Field := ⟨0x30130 + 0x40 * i, 13, 4, .ro, 0⟩
def Reg.STP_ARRAY_EVAL_STALE (i : Nat) : Field := ⟨0x30130 + 0x40 * i, 28, 1, .ro, 0⟩
def Reg.STP_ARRAY_EVAL_BUSY (i : Nat) : Field := ⟨0x30130 + 0x40 * i, 30, 1, .ro, 0⟩
def Reg.STP_ARRAY_EVAL_START (i : Nat) : Field := ⟨0x30130 + 0x40 * i, 31, 1, .w1s, 0⟩

/-! Stripe geometry and the layered code: STP_VOLv_CFG — 0x0003_1000 + 0x20 × v -/
def Reg.STP_VOL_CFG_VALID (i : Nat) : Field := ⟨0x31000 + 0x20 * i, 0, 1, .rw, 0⟩
def Reg.STP_VOL_CFG_ARRAY (i : Nat) : Field := ⟨0x31000 + 0x20 * i, 1, 2, .rwl, 0⟩
def Reg.STP_VOL_CFG_RANGE_ERR (i : Nat) : Field := ⟨0x31000 + 0x20 * i, 31, 1, .ro, 0⟩

/-! Stripe geometry and the layered code: STP_VOLv_BASE_LO — 0x0003_1008 + 0x20 × v, STP_VOLv_BASE_HI — 0x0003_100C + 0x20 × v -/
def Reg.STP_VOL_BASE_LO_BASE (i : Nat) : Field := ⟨0x31008 + 0x20 * i, 0, 32, .rwl, 0⟩
def Reg.STP_VOL_BASE_HI_BASE (i : Nat) : Field := ⟨0x3100C + 0x20 * i, 0, 8, .rwl, 0⟩

/-! Stripe geometry and the layered code: STP_VOLv_ROWS_LO — 0x0003_1010 + 0x20 × v, STP_VOLv_ROWS_HI — 0x0003_1014 + 0x20 × v -/
def Reg.STP_VOL_ROWS_LO_ROWS (i : Nat) : Field := ⟨0x31010 + 0x20 * i, 0, 32, .rwl, 0⟩
def Reg.STP_VOL_ROWS_HI_ROWS (i : Nat) : Field := ⟨0x31014 + 0x20 * i, 0, 8, .rwl, 0⟩

/-! Swikaes coding unit and Ox engines: OXE_CTRL — 0x0004_0000 -/
def Reg.OXE_CTRL_ENABLE : Field := ⟨0x40000, 0, 1, .rw, 0⟩
def Reg.OXE_CTRL_SHADOW_SHIFT : Field := ⟨0x40000, 1, 4, .rw, 6⟩
def Reg.OXE_CTRL_TARGET : Field := ⟨0x40000, 5, 5, .rw, 0x18⟩

/-! Swikaes coding unit and Ox engines: OXE_STATUS — 0x0004_0004 -/
def Reg.OXE_STATUS_NSERVICE : Field := ⟨0x40004, 0, 5, .ro, 0x18⟩
def Reg.OXE_STATUS_NSPARE : Field := ⟨0x40004, 5, 5, .ro, 4⟩
def Reg.OXE_STATUS_NRETIRED : Field := ⟨0x40004, 10, 5, .ro, 0⟩

/-! Swikaes coding unit and Ox engines: OXE_AGE — 0x0004_0008 -/
def Reg.OXE_AGE_LIMIT : Field := ⟨0x40008, 0, 16, .rw, 0x2710⟩

/-! Swikaes coding unit and Ox engines: OXE_SIDECAR_BASE_LO — 0x0004_0010, _HI — 0x0004_0014; OXE_DIGEST_BASE_LO — 0x0004_0018, _HI — 0x0004_001C -/
def Reg.OXE_SIDECAR_BASE_LO_LOWZERO : Field := ⟨0x40010, 0, 6, .ro, 0⟩
def Reg.OXE_SIDECAR_BASE_LO_BASE : Field := ⟨0x40010, 6, 26, .rw, 0⟩
def Reg.OXE_SIDECAR_BASE_HI_BASE : Field := ⟨0x40014, 0, 4, .rw, 0⟩
def Reg.OXE_DIGEST_BASE_LO_LOWZERO : Field := ⟨0x40018, 0, 6, .ro, 0⟩
def Reg.OXE_DIGEST_BASE_LO_BASE : Field := ⟨0x40018, 6, 26, .rw, 0⟩
def Reg.OXE_DIGEST_BASE_HI_BASE : Field := ⟨0x4001C, 0, 4, .rw, 0⟩

/-! Swikaes coding unit and Ox engines: OXE_ENG_STATEk — 0x0004_0020 + 4 × k -/
def Reg.OXE_ENG_STATE_STATE0 (i : Nat) : Field := ⟨0x40020 + 0x4 * i, 0, 4, .ro, (if 8 * i + 0 < 24 then 2 else 0)⟩
def Reg.OXE_ENG_STATE_STATE1 (i : Nat) : Field := ⟨0x40020 + 0x4 * i, 4, 4, .ro, (if 8 * i + 1 < 24 then 2 else 0)⟩
def Reg.OXE_ENG_STATE_STATE2 (i : Nat) : Field := ⟨0x40020 + 0x4 * i, 8, 4, .ro, (if 8 * i + 2 < 24 then 2 else 0)⟩
def Reg.OXE_ENG_STATE_STATE3 (i : Nat) : Field := ⟨0x40020 + 0x4 * i, 12, 4, .ro, (if 8 * i + 3 < 24 then 2 else 0)⟩
def Reg.OXE_ENG_STATE_STATE4 (i : Nat) : Field := ⟨0x40020 + 0x4 * i, 16, 4, .ro, (if 8 * i + 4 < 24 then 2 else 0)⟩
def Reg.OXE_ENG_STATE_STATE5 (i : Nat) : Field := ⟨0x40020 + 0x4 * i, 20, 4, .ro, (if 8 * i + 5 < 24 then 2 else 0)⟩
def Reg.OXE_ENG_STATE_STATE6 (i : Nat) : Field := ⟨0x40020 + 0x4 * i, 24, 4, .ro, (if 8 * i + 6 < 24 then 2 else 0)⟩
def Reg.OXE_ENG_STATE_STATE7 (i : Nat) : Field := ⟨0x40020 + 0x4 * i, 28, 4, .ro, (if 8 * i + 7 < 24 then 2 else 0)⟩

/-! Swikaes coding unit and Ox engines: OXE_EVENT — 0x0004_0030, OXE_EVENT_EN — 0x0004_0034 -/
def Reg.OXE_EVENT_DESC_ERROR : Field := ⟨0x40030, 0, 1, .w1c, 0⟩
def Reg.OXE_EVENT_EN_DESC_ERROR : Field := ⟨0x40034, 0, 1, .rw, 0⟩
def Reg.OXE_EVENT_SHADOW_MISMATCH : Field := ⟨0x40030, 1, 1, .w1c, 0⟩
def Reg.OXE_EVENT_EN_SHADOW_MISMATCH : Field := ⟨0x40034, 1, 1, .rw, 0⟩
def Reg.OXE_EVENT_ENGINE_RETIRED : Field := ⟨0x40030, 2, 1, .w1c, 0⟩
def Reg.OXE_EVENT_EN_ENGINE_RETIRED : Field := ⟨0x40034, 2, 1, .rw, 0⟩
def Reg.OXE_EVENT_SPARE_IN : Field := ⟨0x40030, 3, 1, .w1c, 0⟩
def Reg.OXE_EVENT_EN_SPARE_IN : Field := ⟨0x40034, 3, 1, .rw, 0⟩
def Reg.OXE_EVENT_PLAN_MISS : Field := ⟨0x40030, 4, 1, .w1c, 0⟩
def Reg.OXE_EVENT_EN_PLAN_MISS : Field := ⟨0x40034, 4, 1, .rw, 0⟩
def Reg.OXE_EVENT_ACC_UE : Field := ⟨0x40030, 5, 1, .w1c, 0⟩
def Reg.OXE_EVENT_EN_ACC_UE : Field := ⟨0x40034, 5, 1, .rw, 0⟩

/-! Swikaes coding unit and Ox engines: OXE counters — 0x0004_0040 to 0x0004_0064 -/
def Reg.OXE_JOB_CNT : Field := ⟨0x40040, 0, 32, .ro, 0⟩
def Reg.OXE_SHADOW_JOB_CNT : Field := ⟨0x40044, 0, 32, .ro, 0⟩
def Reg.OXE_SHADOW_MISMATCH_CNT : Field := ⟨0x40048, 0, 32, .ro, 0⟩
def Reg.OXE_SHADOW_TRANSIENT_CNT : Field := ⟨0x4004C, 0, 32, .ro, 0⟩
def Reg.OXE_RETIRE_CNT : Field := ⟨0x40050, 0, 32, .ro, 0⟩
def Reg.OXE_SPARE_IN_CNT : Field := ⟨0x40054, 0, 32, .ro, 0⟩
def Reg.OXE_DESC_ERROR_CNT : Field := ⟨0x40058, 0, 32, .ro, 0⟩
def Reg.OXE_PLAN_MISS_CNT : Field := ⟨0x4005C, 0, 32, .ro, 0⟩
def Reg.OXE_ACC_UE_CNT : Field := ⟨0x40060, 0, 32, .ro, 0⟩
def Reg.OXE_ACC_REFUSED_CNT : Field := ⟨0x40064, 0, 32, .ro, 0⟩

/-! Swikaes coding unit and Ox engines: OXE_COEF_ADDR — 0x0004_0080, OXE_COEF_DATA — 0x0004_0084 -/
def Reg.OXE_COEF_ADDR_LOWZERO : Field := ⟨0x40080, 0, 2, .ro, 0⟩
def Reg.OXE_COEF_ADDR_ADDR : Field := ⟨0x40080, 2, 17, .rw, 0⟩
def Reg.OXE_COEF_DATA_DATA : Field := ⟨0x40084, 0, 32, .rw, 0⟩

/-! Swikaes coding unit and Ox engines: OXE_COEF_BUSYk — 0x0004_0090 + 4 × k -/
def Reg.OXE_COEF_BUSY_BUSY (i : Nat) : Field := ⟨0x40090 + 0x4 * i, 0, 32, .ro, 0⟩

/-! Swikaes coding unit and Ox engines: OXE_ARRAYn_PLAN_CFG — 0x0004_0100 + 0x20 × n -/
def Reg.OXE_ARRAY_PLAN_CFG_GEN (i : Nat) : Field := ⟨0x40100 + 0x20 * i, 0, 8, .rw, 0⟩
def Reg.OXE_ARRAY_PLAN_CFG_RETRY (i : Nat) : Field := ⟨0x40100 + 0x20 * i, 31, 1, .w1s, 0⟩

/-! Swikaes coding unit and Ox engines: OXE_ARRAYn_PLAN_LO — 0x0004_0104 + 0x20 × n, _HI — 0x0004_0108 + 0x20 × n -/
def Reg.OXE_ARRAY_PLAN_LO_LOWZERO (i : Nat) : Field := ⟨0x40104 + 0x20 * i, 0, 5, .ro, 0⟩
def Reg.OXE_ARRAY_PLAN_LO_PLAN (i : Nat) : Field := ⟨0x40104 + 0x20 * i, 5, 27, .rw, 0⟩
def Reg.OXE_ARRAY_PLAN_HI_PLAN (i : Nat) : Field := ⟨0x40108 + 0x20 * i, 0, 4, .rw, 0⟩

/-! Swikaes coding unit and Ox engines: OXE_ARRAYn_MISS — 0x0004_010C + 0x20 × n -/
def Reg.OXE_ARRAY_MISS_PHASE (i : Nat) : Field := ⟨0x4010C + 0x20 * i, 0, 7, .ro, 0⟩
def Reg.OXE_ARRAY_MISS_GROUP (i : Nat) : Field := ⟨0x4010C + 0x20 * i, 7, 4, .ro, 0⟩

/-! Swikaes coding unit and Ox engines: Ring registers — 0x0004_1000 + 0x40 × r -/
def Reg.OXE_RING_CFG_ENABLE (i : Nat) : Field := ⟨0x41000 + 0x40 * i, 0, 1, .rw, 0⟩
def Reg.OXE_RING_CFG_CLASS (i : Nat) : Field := ⟨0x41000 + 0x40 * i, 1, 2, .rw, (if i = 0 then 0 else if i = 1 then 1 else 3)⟩
def Reg.OXE_RING_CFG_SIZE_M1 (i : Nat) : Field := ⟨0x41000 + 0x40 * i, 3, 12, .rw, 0⟩
def Reg.OXE_RING_MASK_MASK (i : Nat) : Field := ⟨0x41004 + 0x40 * i, 0, 28, .rw, 0xFFFFFFF⟩
def Reg.OXE_RING_BASE_LO_LOWZERO (i : Nat) : Field := ⟨0x41008 + 0x40 * i, 0, 6, .ro, 0⟩
def Reg.OXE_RING_BASE_LO_BASE (i : Nat) : Field := ⟨0x41008 + 0x40 * i, 6, 26, .rw, 0⟩
def Reg.OXE_RING_BASE_HI_BASE (i : Nat) : Field := ⟨0x4100C + 0x40 * i, 0, 4, .rw, 0⟩
def Reg.OXE_RING_CQ_BASE_LO_LOWZERO (i : Nat) : Field := ⟨0x41010 + 0x40 * i, 0, 6, .ro, 0⟩
def Reg.OXE_RING_CQ_BASE_LO_BASE (i : Nat) : Field := ⟨0x41010 + 0x40 * i, 6, 26, .rw, 0⟩
def Reg.OXE_RING_CQ_BASE_HI_BASE (i : Nat) : Field := ⟨0x41014 + 0x40 * i, 0, 4, .rw, 0⟩
def Reg.OXE_RING_TAIL_TAIL (i : Nat) : Field := ⟨0x41018 + 0x40 * i, 0, 12, .rw, 0⟩
def Reg.OXE_RING_HEAD_HEAD (i : Nat) : Field := ⟨0x4101C + 0x40 * i, 0, 12, .ro, 0⟩
def Reg.OXE_RING_CQ_TAIL_CQ_TAIL (i : Nat) : Field := ⟨0x41020 + 0x40 * i, 0, 12, .ro, 0⟩
def Reg.OXE_RING_CQ_HEAD_CQ_HEAD (i : Nat) : Field := ⟨0x41024 + 0x40 * i, 0, 12, .rw, 0⟩
def Reg.OXE_RING_STATUS_DONE (i : Nat) : Field := ⟨0x41028 + 0x40 * i, 0, 1, .w1c, 0⟩
def Reg.OXE_RING_STATUS_MASK_FALLBACK (i : Nat) : Field := ⟨0x41028 + 0x40 * i, 1, 1, .w1c, 0⟩
def Reg.OXE_RING_DONE_CNT (i : Nat) : Field := ⟨0x4102C + 0x40 * i, 0, 32, .ro, 0⟩
def Reg.OXE_RING_FALLBACK_CNT (i : Nat) : Field := ⟨0x41030 + 0x40 * i, 0, 32, .ro, 0⟩

/-! Swikaes coding unit and Ox engines: Engine registers — 0x0004_8000 + 0x100 × e -/
def Reg.OXE_ENG_CTRL_PAUSE (i : Nat) : Field := ⟨0x48000 + 0x100 * i, 0, 1, .rw, 0⟩
def Reg.OXE_ENG_CTRL_RETIRE (i : Nat) : Field := ⟨0x48000 + 0x100 * i, 1, 1, .w1s, 0⟩
def Reg.OXE_ENG_CTRL_TEST (i : Nat) : Field := ⟨0x48000 + 0x100 * i, 2, 1, .w1s, 0⟩
def Reg.OXE_ENG_INFO_QDEPTH (i : Nat) : Field := ⟨0x48004 + 0x100 * i, 0, 3, .ro, 0⟩
def Reg.OXE_ENG_INFO_BUSY (i : Nat) : Field := ⟨0x48004 + 0x100 * i, 3, 1, .ro, 0⟩
def Reg.OXE_ENG_INFO_SLOT (i : Nat) : Field := ⟨0x48004 + 0x100 * i, 4, 7, .ro, 0⟩
def Reg.OXE_ENG_INFO_TEST_DONE (i : Nat) : Field := ⟨0x48004 + 0x100 * i, 11, 1, .ro, 0⟩
def Reg.OXE_ENG_INFO_TEST_PASS (i : Nat) : Field := ⟨0x48004 + 0x100 * i, 12, 1, .ro, 0⟩
def Reg.OXE_ENG_JOB_CNT (i : Nat) : Field := ⟨0x48008 + 0x100 * i, 0, 32, .ro, 0⟩
def Reg.OXE_ENG_BLOCK_CNT (i : Nat) : Field := ⟨0x4800C + 0x100 * i, 0, 32, .ro, 0⟩
def Reg.OXE_ENG_STALL_US_CNT (i : Nat) : Field := ⟨0x48010 + 0x100 * i, 0, 32, .ro, 0⟩
def Reg.OXE_ENG_ACC_CE_CNT (i : Nat) : Field := ⟨0x48014 + 0x100 * i, 0, 32, .ro, 0⟩
def Reg.OXE_ENG_ACC_UE_CNT (i : Nat) : Field := ⟨0x48018 + 0x100 * i, 0, 32, .ro, 0⟩
def Reg.OXE_ENG_STRIKE_CNT (i : Nat) : Field := ⟨0x4801C + 0x100 * i, 0, 32, .ro, 0⟩

/-! Write path, protected cache and intent journal: JNL_CTRL — 0x0005_0000 -/
def Reg.JNL_CTRL_ENABLE : Field := ⟨0x50000, 0, 1, .rw, 0⟩
def Reg.JNL_CTRL_REPLAY_DONE : Field := ⟨0x50000, 1, 1, .rw, 0⟩
def Reg.JNL_CTRL_FORCE_WT : Field := ⟨0x50000, 2, 1, .rw, 0⟩
def Reg.JNL_CTRL_PARTNER_LIVE : Field := ⟨0x50000, 3, 1, .rw, 0⟩
def Reg.JNL_CTRL_PACK_HEALTHY : Field := ⟨0x50000, 4, 1, .rw, 0⟩

/-! Write path, protected cache and intent journal: JNL_STATUS — 0x0005_0004 -/
def Reg.JNL_STATUS_LEVEL : Field := ⟨0x50004, 0, 2, .ro, 1⟩
def Reg.JNL_STATUS_EXPOSED : Field := ⟨0x50004, 2, 1, .ro, 0⟩
def Reg.JNL_STATUS_STAGING_FULL : Field := ⟨0x50004, 3, 1, .ro, 0⟩
def Reg.JNL_STATUS_TABLE_FULL : Field := ⟨0x50004, 4, 1, .ro, 0⟩
def Reg.JNL_STATUS_ADMIT_STOP : Field := ⟨0x50004, 5, 1, .ro, 0⟩
def Reg.JNL_STATUS_ALLOC_BLOCKED : Field := ⟨0x50004, 6, 1, .ro, 1⟩

/-! Write path, protected cache and intent journal: JNL_EVENT — 0x0005_0008, JNL_EVENT_EN — 0x0005_000C -/
def Reg.JNL_EVENT_LEVEL_CHANGE : Field := ⟨0x50008, 0, 1, .w1c, 0⟩
def Reg.JNL_EVENT_EN_LEVEL_CHANGE : Field := ⟨0x5000C, 0, 1, .rw, 0⟩
def Reg.JNL_EVENT_EXPOSED : Field := ⟨0x50008, 1, 1, .w1c, 0⟩
def Reg.JNL_EVENT_EN_EXPOSED : Field := ⟨0x5000C, 1, 1, .rw, 0⟩
def Reg.JNL_EVENT_STAGING_FULL : Field := ⟨0x50008, 2, 1, .w1c, 0⟩
def Reg.JNL_EVENT_EN_STAGING_FULL : Field := ⟨0x5000C, 2, 1, .rw, 0⟩
def Reg.JNL_EVENT_TABLE_FULL : Field := ⟨0x50008, 3, 1, .w1c, 0⟩
def Reg.JNL_EVENT_EN_TABLE_FULL : Field := ⟨0x5000C, 3, 1, .rw, 0⟩
def Reg.JNL_EVENT_IMAGE_LOST : Field := ⟨0x50008, 4, 1, .w1c, 0⟩
def Reg.JNL_EVENT_EN_IMAGE_LOST : Field := ⟨0x5000C, 4, 1, .rw, 0⟩
def Reg.JNL_EVENT_ENTRY_CRC : Field := ⟨0x50008, 5, 1, .w1c, 0⟩
def Reg.JNL_EVENT_EN_ENTRY_CRC : Field := ⟨0x5000C, 5, 1, .rw, 0⟩

/-! Write path, protected cache and intent journal: JNL_CEILING — 0x0005_0010 -/
def Reg.JNL_CEILING_CEIL_MIB : Field := ⟨0x50010, 0, 16, .rw, 0⟩

/-! Write path, protected cache and intent journal: JNL_DIRTY — 0x0005_0014 -/
def Reg.JNL_DIRTY_DIRTY_MIB : Field := ⟨0x50014, 0, 16, .ro, 0⟩

/-! Write path, protected cache and intent journal: JNL_SEQ — 0x0005_0018 -/
def Reg.JNL_SEQ_SEQ : Field := ⟨0x50018, 0, 32, .rw, 0⟩

/-! Write path, protected cache and intent journal: JNL_OPEN — 0x0005_001C -/
def Reg.JNL_OPEN_ENTRIES : Field := ⟨0x5001C, 0, 17, .ro, 0⟩

/-! Write path, protected cache and intent journal: JNL_STAGE_USED — 0x0005_0020 -/
def Reg.JNL_STAGE_USED_USED_MIB : Field := ⟨0x50020, 0, 15, .ro, 0⟩

/-! Write path, protected cache and intent journal: JNL_ALLOC — 0x0005_0024, JNL_ALLOC_RES — 0x0005_0028 -/
def Reg.JNL_ALLOC_NEXT : Field := ⟨0x50024, 0, 2, .rw, 0⟩
def Reg.JNL_ALLOC_GO : Field := ⟨0x50024, 31, 1, .w1s, 0⟩
def Reg.JNL_ALLOC_RES_INDEX : Field := ⟨0x50028, 0, 16, .ro, 0⟩
def Reg.JNL_ALLOC_RES_VALID : Field := ⟨0x50028, 31, 1, .ro, 0⟩

/-! Write path, protected cache and intent journal: JNL_IMAGE — 0x0005_002C -/
def Reg.JNL_IMAGE_PRESENT : Field := ⟨0x5002C, 0, 1, .ro, 0⟩
def Reg.JNL_IMAGE_SEALED : Field := ⟨0x5002C, 1, 1, .ro, 0⟩
def Reg.JNL_IMAGE_VALID : Field := ⟨0x5002C, 2, 1, .ro, 0⟩

/-! Write path, protected cache and intent journal: JNL counters — 0x0005_0040 to 0x0005_005C -/
def Reg.JNL_OPENED_CNT : Field := ⟨0x50040, 0, 32, .ro, 0⟩
def Reg.JNL_RETIRED_CNT : Field := ⟨0x50044, 0, 32, .ro, 0⟩
def Reg.JNL_LEVEL_CHANGE_CNT : Field := ⟨0x50048, 0, 32, .ro, 0⟩
def Reg.JNL_EXPOSED_CNT : Field := ⟨0x5004C, 0, 32, .ro, 0⟩
def Reg.JNL_STAGING_FULL_CNT : Field := ⟨0x50050, 0, 32, .ro, 0⟩
def Reg.JNL_TABLE_FULL_CNT : Field := ⟨0x50054, 0, 32, .ro, 0⟩
def Reg.JNL_IMAGE_LOST_CNT : Field := ⟨0x50058, 0, 32, .ro, 0⟩
def Reg.JNL_ENTRY_CRC_CNT : Field := ⟨0x5005C, 0, 32, .ro, 0⟩

/-! Reads, rebuild and grazing: SAS_CTRL — 0x000A_0000 -/
def Reg.SAS_CTRL_ENABLE : Field := ⟨0xA0000, 0, 1, .rw, 0⟩
def Reg.SAS_CTRL_RIW_EN : Field := ⟨0xA0000, 1, 1, .rw, 1⟩

/-! Reads, rebuild and grazing: SAS_TIMEOUT — 0x000A_0004 -/
def Reg.SAS_TIMEOUT_CMD_MS : Field := ⟨0xA0004, 0, 16, .rw, 0x1F40⟩

/-! Reads, rebuild and grazing: SAS_EVENT — 0x000A_0008, SAS_EVENT_EN — 0x000A_000C -/
def Reg.SAS_EVENT_WAKE_REQ : Field := ⟨0xA0008, 0, 1, .w1c, 0⟩
def Reg.SAS_EVENT_EN_WAKE_REQ : Field := ⟨0xA000C, 0, 1, .rw, 0⟩
def Reg.SAS_EVENT_ESCALATE : Field := ⟨0xA0008, 1, 1, .w1c, 0⟩
def Reg.SAS_EVENT_EN_ESCALATE : Field := ⟨0xA000C, 1, 1, .rw, 0⟩
def Reg.SAS_EVENT_MEDIA_ERR : Field := ⟨0xA0008, 2, 1, .w1c, 0⟩
def Reg.SAS_EVENT_EN_MEDIA_ERR : Field := ⟨0xA000C, 2, 1, .rw, 0⟩
def Reg.SAS_EVENT_TIMEOUT : Field := ⟨0xA0008, 3, 1, .w1c, 0⟩
def Reg.SAS_EVENT_EN_TIMEOUT : Field := ⟨0xA000C, 3, 1, .rw, 0⟩
def Reg.SAS_EVENT_LINK_DOWN : Field := ⟨0xA0008, 4, 1, .w1c, 0⟩
def Reg.SAS_EVENT_EN_LINK_DOWN : Field := ⟨0xA000C, 4, 1, .rw, 0⟩
def Reg.SAS_EVENT_FW_DONE : Field := ⟨0xA0008, 5, 1, .w1c, 0⟩
def Reg.SAS_EVENT_EN_FW_DONE : Field := ⟨0xA000C, 5, 1, .rw, 0⟩
def Reg.SAS_EVENT_FRONTIER_DONE : Field := ⟨0xA0008, 6, 1, .w1c, 0⟩
def Reg.SAS_EVENT_EN_FRONTIER_DONE : Field := ⟨0xA000C, 6, 1, .rw, 0⟩

/-! Reads, rebuild and grazing: SAS_WAKE_PENDk — 0x000A_0010 + 4 × k -/
def Reg.SAS_WAKE_PEND_SLOTS (i : Nat) : Field := ⟨0xA0010 + 0x4 * i, 0, (if i = 3 then 12 else 32), .ro, 0⟩

/-! Reads, rebuild and grazing: SAS_WAKE_RETRY — 0x000A_0020 -/
def Reg.SAS_WAKE_RETRY_SLOT : Field := ⟨0xA0020, 0, 7, .rw, 0⟩
def Reg.SAS_WAKE_RETRY_DENY : Field := ⟨0xA0020, 30, 1, .rw, 0⟩
def Reg.SAS_WAKE_RETRY_GO : Field := ⟨0xA0020, 31, 1, .w1s, 0⟩

/-! Reads, rebuild and grazing: SAS counters — 0x000A_0040 to 0x000A_0068 -/
def Reg.SAS_WAKE_REQ_CNT : Field := ⟨0xA0040, 0, 32, .ro, 0⟩
def Reg.SAS_ESCALATE_CNT : Field := ⟨0xA0044, 0, 32, .ro, 0⟩
def Reg.SAS_MEDIA_ERR_CNT : Field := ⟨0xA0048, 0, 32, .ro, 0⟩
def Reg.SAS_TIMEOUT_CNT : Field := ⟨0xA004C, 0, 32, .ro, 0⟩
def Reg.SAS_LINK_DOWN_CNT : Field := ⟨0xA0050, 0, 32, .ro, 0⟩
def Reg.SAS_FW_DONE_CNT : Field := ⟨0xA0054, 0, 32, .ro, 0⟩
def Reg.SAS_FRONTIER_DONE_CNT : Field := ⟨0xA0058, 0, 32, .ro, 0⟩
def Reg.SAS_RIW_UNIT_CNT : Field := ⟨0xA005C, 0, 32, .ro, 0⟩
def Reg.SAS_DEGRADED_UNIT_CNT : Field := ⟨0xA0060, 0, 32, .ro, 0⟩
def Reg.SAS_LOST_READ_CNT : Field := ⟨0xA0064, 0, 32, .ro, 0⟩
def Reg.SAS_HOLD_FULL_CNT : Field := ⟨0xA0068, 0, 32, .ro, 0⟩

/-! Reads, rebuild and grazing: Firmware command ring — 0x000A_0080 to 0x000A_00A0 -/
def Reg.SAS_FW_CFG_ENABLE : Field := ⟨0xA0080, 0, 1, .rw, 0⟩
def Reg.SAS_FW_CFG_SIZE_M1 : Field := ⟨0xA0080, 3, 12, .rw, 0⟩
def Reg.SAS_FW_BASE_LO_LOWZERO : Field := ⟨0xA0084, 0, 6, .ro, 0⟩
def Reg.SAS_FW_BASE_LO_BASE : Field := ⟨0xA0084, 6, 26, .rw, 0⟩
def Reg.SAS_FW_BASE_HI_BASE : Field := ⟨0xA0088, 0, 4, .rw, 0⟩
def Reg.SAS_FW_TAIL_TAIL : Field := ⟨0xA008C, 0, 12, .rw, 0⟩
def Reg.SAS_FW_HEAD_HEAD : Field := ⟨0xA0090, 0, 12, .ro, 0⟩
def Reg.SAS_FW_CQ_BASE_LO_LOWZERO : Field := ⟨0xA0094, 0, 6, .ro, 0⟩
def Reg.SAS_FW_CQ_BASE_LO_BASE : Field := ⟨0xA0094, 6, 26, .rw, 0⟩
def Reg.SAS_FW_CQ_BASE_HI_BASE : Field := ⟨0xA0098, 0, 4, .rw, 0⟩
def Reg.SAS_FW_CQ_TAIL_CQ_TAIL : Field := ⟨0xA009C, 0, 12, .ro, 0⟩
def Reg.SAS_FW_CQ_HEAD_CQ_HEAD : Field := ⟨0xA00A0, 0, 12, .rw, 0⟩

/-! Reads, rebuild and grazing: Escalation ring — 0x000A_00C0 to 0x000A_00D4 -/
def Reg.SAS_ESC_CFG_SIZE_M1 : Field := ⟨0xA00C0, 0, 12, .rw, 0⟩
def Reg.SAS_ESC_BASE_LO_LOWZERO : Field := ⟨0xA00C4, 0, 6, .ro, 0⟩
def Reg.SAS_ESC_BASE_LO_BASE : Field := ⟨0xA00C4, 6, 26, .rw, 0⟩
def Reg.SAS_ESC_BASE_HI_BASE : Field := ⟨0xA00C8, 0, 4, .rw, 0⟩
def Reg.SAS_ESC_TAIL_TAIL : Field := ⟨0xA00CC, 0, 12, .ro, 0⟩
def Reg.SAS_ESC_HEAD_HEAD : Field := ⟨0xA00D0, 0, 12, .rw, 0⟩
def Reg.SAS_ESC_DONE_PIECE : Field := ⟨0xA00D4, 0, 24, .rw, 0⟩
def Reg.SAS_ESC_DONE_OUTCOME : Field := ⟨0xA00D4, 24, 2, .rw, 0⟩
def Reg.SAS_ESC_DONE_GO : Field := ⟨0xA00D4, 31, 1, .w1s, 0⟩

/-! Reads, rebuild and grazing: SAS_SUBk — 0x000A_0100 + 4 × k -/
def Reg.SAS_SUB_LOGICAL (i : Nat) : Field := ⟨0xA0100 + 0x4 * i, 0, 7, .rw, 0⟩
def Reg.SAS_SUB_PHYSICAL (i : Nat) : Field := ⟨0xA0100 + 0x4 * i, 8, 7, .rw, 0⟩
def Reg.SAS_SUB_VALID (i : Nat) : Field := ⟨0xA0100 + 0x4 * i, 31, 1, .rw, 0⟩

/-! Reads, rebuild and grazing: Rebuild and copy frontiers — 0x000A_0200 + 0x20 × k -/
def Reg.SAS_RBD_CFG_ENABLE (i : Nat) : Field := ⟨0xA0200 + 0x20 * i, 0, 1, .rw, 0⟩
def Reg.SAS_RBD_CFG_MODE (i : Nat) : Field := ⟨0xA0200 + 0x20 * i, 1, 1, .rw, 0⟩
def Reg.SAS_RBD_CFG_ARRAY (i : Nat) : Field := ⟨0xA0200 + 0x20 * i, 2, 2, .rw, 0⟩
def Reg.SAS_RBD_CFG_SLOT (i : Nat) : Field := ⟨0xA0200 + 0x20 * i, 4, 7, .rw, 0⟩
def Reg.SAS_RBD_CFG_DONE (i : Nat) : Field := ⟨0xA0200 + 0x20 * i, 30, 1, .ro, 0⟩
def Reg.SAS_RBD_FRONT_LO_FRONT (i : Nat) : Field := ⟨0xA0204 + 0x20 * i, 0, 32, .rw, 0⟩
def Reg.SAS_RBD_FRONT_HI_FRONT (i : Nat) : Field := ⟨0xA0208 + 0x20 * i, 0, 8, .rw, 0⟩
def Reg.SAS_RBD_WIN_LO_WIN (i : Nat) : Field := ⟨0xA020C + 0x20 * i, 0, 32, .ro, 0⟩
def Reg.SAS_RBD_WIN_HI_WIN (i : Nat) : Field := ⟨0xA0210 + 0x20 * i, 0, 32, .ro, 0⟩

/-! Reads, rebuild and grazing: Slot registers — 0x000A_1000 + 0x40 × s -/
def Reg.SAS_SLOT_CTRL_AWAKE (i : Nat) : Field := ⟨0xA1000 + 0x40 * i, 0, 1, .rw, 0⟩
def Reg.SAS_SLOT_STATUS_LINK_UP (i : Nat) : Field := ⟨0xA1004 + 0x40 * i, 0, 1, .ro, 0⟩
def Reg.SAS_SLOT_STATUS_RATE (i : Nat) : Field := ⟨0xA1004 + 0x40 * i, 1, 2, .ro, 0⟩
def Reg.SAS_SLOT_STATUS_OPEN (i : Nat) : Field := ⟨0xA1004 + 0x40 * i, 8, 6, .ro, 0⟩
def Reg.SAS_SLOT_READ_BLK_CNT (i : Nat) : Field := ⟨0xA1008 + 0x40 * i, 0, 32, .ro, 0⟩
def Reg.SAS_SLOT_WRITE_BLK_CNT (i : Nat) : Field := ⟨0xA100C + 0x40 * i, 0, 32, .ro, 0⟩
def Reg.SAS_SLOT_MEDIA_ERR_CNT (i : Nat) : Field := ⟨0xA1010 + 0x40 * i, 0, 32, .ro, 0⟩
def Reg.SAS_SLOT_TIMEOUT_CNT (i : Nat) : Field := ⟨0xA1014 + 0x40 * i, 0, 32, .ro, 0⟩
def Reg.SAS_SLOT_LINK_DOWN_CNT (i : Nat) : Field := ⟨0xA1018 + 0x40 * i, 0, 32, .ro, 0⟩
def Reg.SAS_SLOT_RIW_BLK_CNT (i : Nat) : Field := ⟨0xA101C + 0x40 * i, 0, 32, .ro, 0⟩

/-! End-to-end integrity chain: INT_CTRL — 0x0006_0000 -/
def Reg.INT_CTRL_EGRESS_REREAD : Field := ⟨0x60000, 0, 1, .rw, 1⟩

/-! End-to-end integrity chain: INT_INJECT — 0x0006_0004 -/
def Reg.INT_INJECT_KIND : Field := ⟨0x60004, 0, 3, .rw, 0⟩
def Reg.INT_INJECT_GO : Field := ⟨0x60004, 31, 1, .w1s, 0⟩

/-! End-to-end integrity chain: INT_EVENT — 0x0006_0008, INT_EVENT_EN — 0x0006_000C -/
def Reg.INT_EVENT_HOST_GUARD : Field := ⟨0x60008, 0, 1, .w1c, 0⟩
def Reg.INT_EVENT_EN_HOST_GUARD : Field := ⟨0x6000C, 0, 1, .rw, 0⟩
def Reg.INT_EVENT_REF_TAG : Field := ⟨0x60008, 1, 1, .w1c, 0⟩
def Reg.INT_EVENT_EN_REF_TAG : Field := ⟨0x6000C, 1, 1, .rw, 0⟩
def Reg.INT_EVENT_MIRROR_CRC : Field := ⟨0x60008, 2, 1, .w1c, 0⟩
def Reg.INT_EVENT_EN_MIRROR_CRC : Field := ⟨0x6000C, 2, 1, .rw, 0⟩
def Reg.INT_EVENT_STAGING_CRC : Field := ⟨0x60008, 3, 1, .w1c, 0⟩
def Reg.INT_EVENT_EN_STAGING_CRC : Field := ⟨0x6000C, 3, 1, .rw, 0⟩
def Reg.INT_EVENT_SIDECAR_ENGINE : Field := ⟨0x60008, 4, 1, .w1c, 0⟩
def Reg.INT_EVENT_EN_SIDECAR_ENGINE : Field := ⟨0x6000C, 4, 1, .rw, 0⟩
def Reg.INT_EVENT_T10_RX : Field := ⟨0x60008, 5, 1, .w1c, 0⟩
def Reg.INT_EVENT_EN_T10_RX : Field := ⟨0x6000C, 5, 1, .rw, 0⟩
def Reg.INT_EVENT_APP_TAG : Field := ⟨0x60008, 6, 1, .w1c, 0⟩
def Reg.INT_EVENT_EN_APP_TAG : Field := ⟨0x6000C, 6, 1, .rw, 0⟩
def Reg.INT_EVENT_SIDECAR_EGRESS : Field := ⟨0x60008, 7, 1, .w1c, 0⟩
def Reg.INT_EVENT_EN_SIDECAR_EGRESS : Field := ⟨0x6000C, 7, 1, .rw, 0⟩
def Reg.INT_EVENT_DIRTY_LOST : Field := ⟨0x60008, 8, 1, .w1c, 0⟩
def Reg.INT_EVENT_EN_DIRTY_LOST : Field := ⟨0x6000C, 8, 1, .rw, 0⟩

/-! End-to-end integrity chain: INT_LAST_HOST — 0x0006_0010 -/
def Reg.INT_LAST_HOST_VOL : Field := ⟨0x60010, 0, 6, .ro, 0⟩
def Reg.INT_LAST_HOST_KIND : Field := ⟨0x60010, 6, 2, .ro, 0⟩
def Reg.INT_LAST_HOST_SQ_ID : Field := ⟨0x60010, 8, 11, .ro, 0⟩

/-! End-to-end integrity chain: INT_LAST_LBA_LO — 0x0006_0014, INT_LAST_LBA_HI — 0x0006_0018 -/
def Reg.INT_LAST_LBA_LO_LBA : Field := ⟨0x60014, 0, 32, .ro, 0⟩
def Reg.INT_LAST_LBA_HI_LBA : Field := ⟨0x60018, 0, 32, .ro, 0⟩

/-! End-to-end integrity chain: INT counters — 0x0006_0040 to 0x0006_0064 -/
def Reg.INT_HOST_GUARD_CNT : Field := ⟨0x60040, 0, 32, .ro, 0⟩
def Reg.INT_REF_TAG_CNT : Field := ⟨0x60044, 0, 32, .ro, 0⟩
def Reg.INT_MIRROR_CRC_CNT : Field := ⟨0x60048, 0, 32, .ro, 0⟩
def Reg.INT_STAGING_CRC_CNT : Field := ⟨0x6004C, 0, 32, .ro, 0⟩
def Reg.INT_SIDECAR_ENGINE_CNT : Field := ⟨0x60050, 0, 32, .ro, 0⟩
def Reg.INT_T10_RX_CNT : Field := ⟨0x60054, 0, 32, .ro, 0⟩
def Reg.INT_APP_TAG_CNT : Field := ⟨0x60058, 0, 32, .ro, 0⟩
def Reg.INT_SIDECAR_EGRESS_CNT : Field := ⟨0x6005C, 0, 32, .ro, 0⟩
def Reg.INT_DIRTY_LOST_CNT : Field := ⟨0x60060, 0, 32, .ro, 0⟩
def Reg.INT_BLOCKS_CHECKED_CNT : Field := ⟨0x60064, 0, 32, .ro, 0⟩

/-! Queue interface: QMX_CTRL — 0x0002_0000 -/
def Reg.QMX_CTRL_EN : Field := ⟨0x20000, 0, 1, .rw, 0⟩

/-! Queue interface: QMX_STATUS — 0x0002_0004 -/
def Reg.QMX_STATUS_RDY : Field := ⟨0x20004, 0, 1, .ro, 0⟩
def Reg.QMX_STATUS_CQ_STALL : Field := ⟨0x20004, 1, 1, .ro, 0⟩
def Reg.QMX_STATUS_SLOTS_FULL : Field := ⟨0x20004, 2, 1, .ro, 0⟩
def Reg.QMX_STATUS_CFG_ERR : Field := ⟨0x20004, 31, 1, .ro, 0⟩

/-! Queue interface: QMX_ADMIN_CFG — 0x0002_0008 -/
def Reg.QMX_ADMIN_CFG_SIZE_M1 : Field := ⟨0x20008, 0, 12, .rwl, 0⟩

/-! Queue interface: QMX_ADMIN_SQ_BASE_LO — 0x0002_0010, _HI — 0x0002_0014; QMX_ADMIN_CQ_BASE_LO — 0x0002_0018, _HI — 0x0002_001C; QMX_DB_BASE_LO — 0x0002_0028, _HI — 0x0002_002C -/
def Reg.QMX_ADMIN_SQ_BASE_LO_LOWZERO : Field := ⟨0x20010, 0, 12, .ro, 0⟩
def Reg.QMX_ADMIN_SQ_BASE_LO_BASE : Field := ⟨0x20010, 12, 20, .rwl, 0⟩
def Reg.QMX_ADMIN_SQ_BASE_HI_BASE : Field := ⟨0x20014, 0, 32, .rwl, 0⟩
def Reg.QMX_ADMIN_CQ_BASE_LO_LOWZERO : Field := ⟨0x20018, 0, 12, .ro, 0⟩
def Reg.QMX_ADMIN_CQ_BASE_LO_BASE : Field := ⟨0x20018, 12, 20, .rwl, 0⟩
def Reg.QMX_ADMIN_CQ_BASE_HI_BASE : Field := ⟨0x2001C, 0, 32, .rwl, 0⟩
def Reg.QMX_DB_BASE_LO_LOWZERO : Field := ⟨0x20028, 0, 12, .ro, 0⟩
def Reg.QMX_DB_BASE_LO_BASE : Field := ⟨0x20028, 12, 20, .rwl, 0⟩
def Reg.QMX_DB_BASE_HI_BASE : Field := ⟨0x2002C, 0, 32, .rwl, 0⟩

/-! Queue interface: QMX_ADMIN_SQ_TAIL — 0x0002_0020, QMX_ADMIN_CQ_HEAD — 0x0002_0024 -/
def Reg.QMX_ADMIN_SQ_TAIL_INDEX : Field := ⟨0x20020, 0, 32, .rw, 0⟩
def Reg.QMX_ADMIN_CQ_HEAD_INDEX : Field := ⟨0x20024, 0, 32, .rw, 0⟩

/-! Queue interface: QMX_POLL_STATUS — 0x0002_0030 -/
def Reg.QMX_POLL_STATUS_INTERVAL_US : Field := ⟨0x20030, 0, 16, .ro, 0⟩
def Reg.QMX_POLL_STATUS_QUEUES : Field := ⟨0x20030, 16, 11, .ro, 0⟩

/-! Queue interface: QMX_KICK — 0x0002_0034 -/
def Reg.QMX_KICK_KICK : Field := ⟨0x20034, 0, 1, .wo, 0⟩

/-! Queue interface: QMX_EVENT — 0x0002_0038, QMX_EVENT_EN — 0x0002_003C -/
def Reg.QMX_EVENT_IGNORED : Field := ⟨0x20038, 0, 1, .w1c, 0⟩
def Reg.QMX_EVENT_EN_IGNORED : Field := ⟨0x2003C, 0, 1, .rw, 0⟩
def Reg.QMX_EVENT_CQ_STALL : Field := ⟨0x20038, 1, 1, .w1c, 0⟩
def Reg.QMX_EVENT_EN_CQ_STALL : Field := ⟨0x2003C, 1, 1, .rw, 0⟩
def Reg.QMX_EVENT_HB_SKIP : Field := ⟨0x20038, 2, 1, .w1c, 0⟩
def Reg.QMX_EVENT_EN_HB_SKIP : Field := ⟨0x2003C, 2, 1, .rw, 0⟩

/-! Queue interface: QMX_IGN_LAST — 0x0002_0040 -/
def Reg.QMX_IGN_LAST_KIND : Field := ⟨0x20040, 0, 4, .ro, 0⟩
def Reg.QMX_IGN_LAST_QID : Field := ⟨0x20040, 16, 11, .ro, 0⟩

/-! Queue interface: QMX_QSEL — 0x0002_0048 and QMX_QSTATE0 to QMX_QSTATE3 — 0x0002_004C to 0x0002_0058 -/
def Reg.QMX_QSEL_QID : Field := ⟨0x20048, 0, 11, .rw, 0⟩
def Reg.QMX_QSTATE0_VALID : Field := ⟨0x2004C, 0, 1, .ro, 0⟩
def Reg.QMX_QSTATE0_WEIGHT : Field := ⟨0x2004C, 1, 8, .ro, 0⟩
def Reg.QMX_QSTATE0_BURST_M1 : Field := ⟨0x2004C, 9, 6, .ro, 0⟩
def Reg.QMX_QSTATE0_SIZE_M1 : Field := ⟨0x2004C, 15, 12, .ro, 0⟩
def Reg.QMX_QSTATE1_SQ_HEAD : Field := ⟨0x20050, 0, 12, .ro, 0⟩
def Reg.QMX_QSTATE1_SQ_TAIL : Field := ⟨0x20050, 16, 12, .ro, 0⟩
def Reg.QMX_QSTATE2_CQ_TAIL : Field := ⟨0x20054, 0, 12, .ro, 0⟩
def Reg.QMX_QSTATE2_CQ_HEAD : Field := ⟨0x20054, 16, 12, .ro, 0⟩
def Reg.QMX_QSTATE3_IN_FLIGHT : Field := ⟨0x20058, 0, 12, .ro, 0⟩
def Reg.QMX_QSTATE3_PHASE : Field := ⟨0x20058, 12, 1, .ro, 0⟩

/-! Queue interface: QMX counters — 0x0002_0080 to 0x0002_00A0 -/
def Reg.QMX_IGNORED_CNT : Field := ⟨0x20080, 0, 32, .ro, 0⟩
def Reg.QMX_CMD_FETCHED_CNT : Field := ⟨0x20084, 0, 32, .ro, 0⟩
def Reg.QMX_CMD_DONE_CNT : Field := ⟨0x20088, 0, 32, .ro, 0⟩
def Reg.QMX_CQ_STALL_CNT : Field := ⟨0x2008C, 0, 32, .ro, 0⟩
def Reg.QMX_POLL_CNT : Field := ⟨0x20090, 0, 32, .ro, 0⟩
def Reg.QMX_HB_CNT : Field := ⟨0x20094, 0, 32, .ro, 0⟩
def Reg.QMX_HB_SKIP_CNT : Field := ⟨0x20098, 0, 32, .ro, 0⟩
def Reg.QMX_DELAYED_CNT : Field := ⟨0x2009C, 0, 32, .ro, 0⟩
def Reg.QMX_FENCE_WAIT_CNT : Field := ⟨0x200A0, 0, 32, .ro, 0⟩

/-! PCI Express endpoint: HIF_LINK_STATUS — 0x0001_0000 -/
def Reg.HIF_LINK_STATUS_SPEED : Field := ⟨0x10000, 0, 4, .ro, 0⟩
def Reg.HIF_LINK_STATUS_WIDTH : Field := ⟨0x10000, 4, 5, .ro, 0⟩
def Reg.HIF_LINK_STATUS_REVERSED : Field := ⟨0x10000, 9, 1, .ro, 0⟩
def Reg.HIF_LINK_STATUS_DEGRADED : Field := ⟨0x10000, 10, 1, .ro, 0⟩
def Reg.HIF_LINK_STATUS_FAILED_LANES : Field := ⟨0x10000, 16, 16, .ro, 0⟩

/-! PCI Express endpoint: HIF_LINK_CTRL — 0x0001_0004 -/
def Reg.HIF_LINK_CTRL_LANE_ERR_LIMIT : Field := ⟨0x10004, 0, 8, .rw, 0x10⟩
def Reg.HIF_LINK_CTRL_RESTORE : Field := ⟨0x10004, 8, 1, .w1s, 0⟩

/-! PCI Express endpoint: HIF_HOST_EVENT — 0x0001_0010, HIF_HOST_EVENT_EN — 0x0001_0014 -/
def Reg.HIF_HOST_EVENT_ADMIN_CQ : Field := ⟨0x10010, 0, 1, .w1c, 0⟩
def Reg.HIF_HOST_EVENT_EN_ADMIN_CQ : Field := ⟨0x10014, 0, 1, .rw, 0⟩
def Reg.HIF_HOST_EVENT_FAULT : Field := ⟨0x10010, 1, 1, .w1c, 0⟩
def Reg.HIF_HOST_EVENT_EN_FAULT : Field := ⟨0x10014, 1, 1, .rw, 0⟩
def Reg.HIF_HOST_EVENT_ROLE : Field := ⟨0x10010, 2, 1, .w1c, 0⟩
def Reg.HIF_HOST_EVENT_EN_ROLE : Field := ⟨0x10014, 2, 1, .rw, 0⟩
def Reg.HIF_HOST_EVENT_PACK : Field := ⟨0x10010, 3, 1, .w1c, 0⟩
def Reg.HIF_HOST_EVENT_EN_PACK : Field := ⟨0x10014, 3, 1, .rw, 0⟩
def Reg.HIF_HOST_EVENT_FABRIC : Field := ⟨0x10010, 4, 1, .w1c, 0⟩
def Reg.HIF_HOST_EVENT_EN_FABRIC : Field := ⟨0x10014, 4, 1, .rw, 0⟩
def Reg.HIF_HOST_EVENT_POWER : Field := ⟨0x10010, 5, 1, .w1c, 0⟩
def Reg.HIF_HOST_EVENT_EN_POWER : Field := ⟨0x10014, 5, 1, .rw, 0⟩

/-! PCI Express endpoint: HIF_HOST_RAISE — 0x0001_0018 -/
def Reg.HIF_HOST_RAISE_RAISE : Field := ⟨0x10018, 1, 5, .wo, 0⟩

/-! PCI Express endpoint: HIF_FW_EVENT — 0x0001_0020, HIF_FW_EVENT_EN — 0x0001_0024 -/
def Reg.HIF_FW_EVENT_LINK_DOWN : Field := ⟨0x10020, 0, 1, .w1c, 0⟩
def Reg.HIF_FW_EVENT_EN_LINK_DOWN : Field := ⟨0x10024, 0, 1, .rw, 0⟩
def Reg.HIF_FW_EVENT_LINK_DEGRADED : Field := ⟨0x10020, 1, 1, .w1c, 0⟩
def Reg.HIF_FW_EVENT_EN_LINK_DEGRADED : Field := ⟨0x10024, 1, 1, .rw, 0⟩
def Reg.HIF_FW_EVENT_FLR : Field := ⟨0x10020, 2, 1, .w1c, 0⟩
def Reg.HIF_FW_EVENT_EN_FLR : Field := ⟨0x10024, 2, 1, .rw, 0⟩
def Reg.HIF_FW_EVENT_BME_CLEARED : Field := ⟨0x10020, 3, 1, .w1c, 0⟩
def Reg.HIF_FW_EVENT_EN_BME_CLEARED : Field := ⟨0x10024, 3, 1, .rw, 0⟩
def Reg.HIF_FW_EVENT_XLAT_FAULT : Field := ⟨0x10020, 4, 1, .w1c, 0⟩
def Reg.HIF_FW_EVENT_EN_XLAT_FAULT : Field := ⟨0x10024, 4, 1, .rw, 0⟩
def Reg.HIF_FW_EVENT_HOST_READ_ERR : Field := ⟨0x10020, 5, 1, .w1c, 0⟩
def Reg.HIF_FW_EVENT_EN_HOST_READ_ERR : Field := ⟨0x10024, 5, 1, .rw, 0⟩
def Reg.HIF_FW_EVENT_LANE_ERR : Field := ⟨0x10020, 6, 1, .w1c, 0⟩
def Reg.HIF_FW_EVENT_EN_LANE_ERR : Field := ⟨0x10024, 6, 1, .rw, 0⟩

/-! PCI Express endpoint: HIF_IRQ_CTRL — 0x0001_0030 -/
def Reg.HIF_IRQ_CTRL_SUMMARY_ON_MSIX : Field := ⟨0x10030, 0, 1, .rw, 0⟩
def Reg.HIF_IRQ_CTRL_ASSERTED : Field := ⟨0x10030, 1, 1, .ro, 0⟩

/-! PCI Express endpoint: HIF_INTX_BITMAP_LO — 0x0001_0038, HIF_INTX_BITMAP_HI — 0x0001_003C -/
def Reg.HIF_INTX_BITMAP_LO_LOWZERO : Field := ⟨0x10038, 0, 7, .ro, 0⟩
def Reg.HIF_INTX_BITMAP_LO_ADDR : Field := ⟨0x10038, 7, 25, .rw, 0⟩
def Reg.HIF_INTX_BITMAP_HI_ADDR : Field := ⟨0x1003C, 0, 32, .rw, 0⟩

/-! PCI Express endpoint: HIF_INTX_ACK — 0x0001_0040 -/
def Reg.HIF_INTX_ACK_ACK : Field := ⟨0x10040, 0, 1, .w1s, 0⟩

/-! PCI Express endpoint: HIF_XLAT_CTRL — 0x0001_0080 -/
def Reg.HIF_XLAT_CTRL_HOST_WR_OK : Field := ⟨0x10080, 0, 1, .rw, 0⟩

/-! PCI Express endpoint: HIF_XLAT_SEL — 0x0001_0084, HIF_XLAT_STAGE — 0x0001_0088 -/
def Reg.HIF_XLAT_SEL_INDEX : Field := ⟨0x10084, 0, 8, .rw, 0⟩
def Reg.HIF_XLAT_STAGE_STAGE : Field := ⟨0x10088, 0, 32, .rw, 0⟩

/-! PCI Express endpoint: HIF_XLAT_COMMIT — 0x0001_008C -/
def Reg.HIF_XLAT_COMMIT_BUSY : Field := ⟨0x1008C, 0, 1, .ro, 0⟩
def Reg.HIF_XLAT_COMMIT_REFUSED : Field := ⟨0x1008C, 1, 1, .ro, 0⟩
def Reg.HIF_XLAT_COMMIT_GO : Field := ⟨0x1008C, 31, 1, .w1s, 0⟩

/-! PCI Express endpoint: HIF_XLAT_ENTRYk — 0x0001_0400 + 4 × k -/
def Reg.HIF_XLAT_ENTRY_VALID (i : Nat) : Field := ⟨0x10400 + 0x4 * i, 0, 1, .ro, 0⟩
def Reg.HIF_XLAT_ENTRY_RD_EN (i : Nat) : Field := ⟨0x10400 + 0x4 * i, 1, 1, .ro, 0⟩
def Reg.HIF_XLAT_ENTRY_WR_EN (i : Nat) : Field := ⟨0x10400 + 0x4 * i, 2, 1, .ro, 0⟩
def Reg.HIF_XLAT_ENTRY_TARGET (i : Nat) : Field := ⟨0x10400 + 0x4 * i, 20, 12, .ro, i⟩

/-! PCI Express endpoint: HIF counters — 0x0001_0100 to 0x0001_0134 -/
def Reg.HIF_ADMIN_IRQ_CNT : Field := ⟨0x10100, 0, 32, .ro, 0⟩
def Reg.HIF_FAULT_CNT : Field := ⟨0x10104, 0, 32, .ro, 0⟩
def Reg.HIF_ROLE_CNT : Field := ⟨0x10108, 0, 32, .ro, 0⟩
def Reg.HIF_PACK_CNT : Field := ⟨0x1010C, 0, 32, .ro, 0⟩
def Reg.HIF_FABRIC_CNT : Field := ⟨0x10110, 0, 32, .ro, 0⟩
def Reg.HIF_POWER_CNT : Field := ⟨0x10114, 0, 32, .ro, 0⟩
def Reg.HIF_LINK_DOWN_CNT : Field := ⟨0x10118, 0, 32, .ro, 0⟩
def Reg.HIF_DEGRADE_CNT : Field := ⟨0x1011C, 0, 32, .ro, 0⟩
def Reg.HIF_FLR_CNT : Field := ⟨0x10120, 0, 32, .ro, 0⟩
def Reg.HIF_BME_CLEAR_CNT : Field := ⟨0x10124, 0, 32, .ro, 0⟩
def Reg.HIF_XLAT_FAULT_CNT : Field := ⟨0x10128, 0, 32, .ro, 0⟩
def Reg.HIF_HOST_READ_ERR_CNT : Field := ⟨0x1012C, 0, 32, .ro, 0⟩
def Reg.HIF_INTX_ASSERT_CNT : Field := ⟨0x10130, 0, 32, .ro, 0⟩
def Reg.HIF_LANE_ERR_CNT : Field := ⟨0x10134, 0, 32, .ro, 0⟩

/-! Mains conversion, slot power and park: SLT_CTRL — 0x000B_0000 + 8 × slot -/
def Reg.SLT_CTRL_EN12 (i : Nat) : Field := ⟨0xB0000 + 0x8 * i, 0, 1, .rw, 0⟩
def Reg.SLT_CTRL_EN5 (i : Nat) : Field := ⟨0xB0000 + 0x8 * i, 1, 1, .rw, 0⟩
def Reg.SLT_CTRL_SPIN (i : Nat) : Field := ⟨0xB0000 + 0x8 * i, 2, 1, .rw, 0⟩
def Reg.SLT_CTRL_SHED_OK (i : Nat) : Field := ⟨0xB0000 + 0x8 * i, 3, 1, .rw, 0⟩
def Reg.SLT_CTRL_ILIM12 (i : Nat) : Field := ⟨0xB0000 + 0x8 * i, 4, 4, .rw, 8⟩
def Reg.SLT_CTRL_ILIM5 (i : Nat) : Field := ⟨0xB0000 + 0x8 * i, 8, 4, .rw, 4⟩

/-! Mains conversion, slot power and park: SLT_STATUS — 0x000B_0004 + 8 × slot -/
def Reg.SLT_STATUS_ON12 (i : Nat) : Field := ⟨0xB0004 + 0x8 * i, 0, 1, .ro, 0⟩
def Reg.SLT_STATUS_ON5 (i : Nat) : Field := ⟨0xB0004 + 0x8 * i, 1, 1, .ro, 0⟩
def Reg.SLT_STATUS_QUEUED (i : Nat) : Field := ⟨0xB0004 + 0x8 * i, 2, 1, .ro, 0⟩
def Reg.SLT_STATUS_SPIN_QUEUED (i : Nat) : Field := ⟨0xB0004 + 0x8 * i, 3, 1, .ro, 0⟩
def Reg.SLT_STATUS_SURGING (i : Nat) : Field := ⟨0xB0004 + 0x8 * i, 4, 1, .ro, 0⟩
def Reg.SLT_STATUS_PRESENT (i : Nat) : Field := ⟨0xB0004 + 0x8 * i, 5, 1, .ro, 0⟩
def Reg.SLT_STATUS_COOLDOWN (i : Nat) : Field := ⟨0xB0004 + 0x8 * i, 6, 1, .ro, 0⟩
def Reg.SLT_STATUS_PARTNER_ON (i : Nat) : Field := ⟨0xB0004 + 0x8 * i, 7, 1, .ro, 0⟩
def Reg.SLT_STATUS_FAULT12 (i : Nat) : Field := ⟨0xB0004 + 0x8 * i, 8, 1, .w1c, 0⟩
def Reg.SLT_STATUS_FAULT5 (i : Nat) : Field := ⟨0xB0004 + 0x8 * i, 9, 1, .w1c, 0⟩
def Reg.SLT_STATUS_SHED (i : Nat) : Field := ⟨0xB0004 + 0x8 * i, 10, 1, .w1c, 0⟩
def Reg.SLT_STATUS_SPIN_TIMEOUT (i : Nat) : Field := ⟨0xB0004 + 0x8 * i, 11, 1, .w1c, 0⟩

/-! Mains conversion, slot power and park: SLT_EVENT — 0x000B_0400, SLT_EVENT_EN — 0x000B_0404 -/
def Reg.SLT_EVENT_PRESENT_CHANGE : Field := ⟨0xB0400, 0, 1, .w1c, 0⟩
def Reg.SLT_EVENT_EN_PRESENT_CHANGE : Field := ⟨0xB0404, 0, 1, .rw, 0⟩
def Reg.SLT_EVENT_FAULT : Field := ⟨0xB0400, 1, 1, .w1c, 0⟩
def Reg.SLT_EVENT_EN_FAULT : Field := ⟨0xB0404, 1, 1, .rw, 0⟩
def Reg.SLT_EVENT_SHED : Field := ⟨0xB0400, 2, 1, .w1c, 0⟩
def Reg.SLT_EVENT_EN_SHED : Field := ⟨0xB0404, 2, 1, .rw, 0⟩
def Reg.SLT_EVENT_SPIN_TIMEOUT : Field := ⟨0xB0400, 3, 1, .w1c, 0⟩
def Reg.SLT_EVENT_EN_SPIN_TIMEOUT : Field := ⟨0xB0404, 3, 1, .rw, 0⟩

/-! Mains conversion, slot power and park: SLT_CFG — 0x000B_0408 -/
def Reg.SLT_CFG_SPIN_HOLD : Field := ⟨0xB0408, 0, 6, .rw, 0x1E⟩
def Reg.SLT_CFG_STAGGER_MS : Field := ⟨0xB0408, 8, 8, .rw, 0x32⟩

/-! Mains conversion, slot power and park: SLT_PRESENTk — 0x000B_0410 + 4 × k -/
def Reg.SLT_PRESENT_SLOTS (i : Nat) : Field := ⟨0xB0410 + 0x4 * i, 0, (if i = 3 then 12 else 32), .ro, 0⟩

/-! Mains conversion, slot power and park: SLT counters — 0x000B_0440 to 0x000B_0450 -/
def Reg.SLT_PRESENT_CHANGE_CNT : Field := ⟨0xB0440, 0, 32, .ro, 0⟩
def Reg.SLT_FAULT_CNT : Field := ⟨0xB0444, 0, 32, .ro, 0⟩
def Reg.SLT_SHED_CNT : Field := ⟨0xB0448, 0, 32, .ro, 0⟩
def Reg.SLT_SPIN_TIMEOUT_CNT : Field := ⟨0xB044C, 0, 32, .ro, 0⟩
def Reg.SLT_BAR0_DROP_CNT : Field := ⟨0xB0450, 0, 32, .ro, 0⟩

/-! Mains conversion, slot power and park: PWR_CTRL — 0x000C_0000 -/
def Reg.PWR_CTRL_CONV_EN : Field := ⟨0xC0000, 0, 1, .rw, 0⟩
def Reg.PWR_CTRL_STANDBY_OFFSET : Field := ⟨0xC0000, 1, 1, .rw, 0⟩
def Reg.PWR_CTRL_SHED_EN : Field := ⟨0xC0000, 2, 1, .rw, 1⟩
def Reg.PWR_CTRL_GATE_EN : Field := ⟨0xC0000, 3, 1, .rw, 0⟩

/-! Mains conversion, slot power and park: PWR_STATUS — 0x000C_0004 -/
def Reg.PWR_STATUS_CONV_STATE : Field := ⟨0xC0004, 0, 3, .ro, 0⟩
def Reg.PWR_STATUS_LINE_RANGE : Field := ⟨0xC0004, 3, 2, .ro, 0⟩
def Reg.PWR_STATUS_MAINS_OK : Field := ⟨0xC0004, 5, 1, .ro, 0⟩
def Reg.PWR_STATUS_OVERLOAD : Field := ⟨0xC0004, 6, 1, .ro, 0⟩
def Reg.PWR_STATUS_DERATING : Field := ⟨0xC0004, 7, 1, .ro, 0⟩

/-! Mains conversion, slot power and park: PWR measurement registers — 0x000C_0008 to 0x000C_0018 -/
def Reg.PWR_LINE_VRMS : Field := ⟨0xC0008, 0, 12, .ro, 0⟩
def Reg.PWR_LINE_FREQ : Field := ⟨0xC0008, 12, 10, .ro, 0⟩
def Reg.PWR_CAP_CAP_W : Field := ⟨0xC000C, 0, 12, .ro, 0⟩
def Reg.PWR_CAP_INLET : Field := ⟨0xC000C, 16, 12, .ro, 0⟩
def Reg.PWR_OUT_BUS_MV : Field := ⟨0xC0010, 0, 16, .ro, 0⟩
def Reg.PWR_OUT_OUT_DA : Field := ⟨0xC0010, 16, 12, .ro, 0⟩
def Reg.PWR_DRAW_P_MOD_DW : Field := ⟨0xC0014, 0, 12, .ro, 0⟩
def Reg.PWR_DRAW_P_SHELF_W : Field := ⟨0xC0014, 16, 12, .ro, 0⟩
def Reg.PWR_FAN_W_P_FAN_DW : Field := ⟨0xC0018, 0, 14, .ro, 0⟩

/-! Mains conversion, slot power and park: PWR budget registers — 0x000C_0020 to 0x000C_0028 -/
def Reg.PWR_BUDGET_GRANT_W : Field := ⟨0xC0020, 0, 12, .rw, 0⟩
def Reg.PWR_BUDGET_MARGIN_W : Field := ⟨0xC0020, 16, 8, .rw, 0x28⟩
def Reg.PWR_SPIN_P_DRIVE_DW : Field := ⟨0xC0024, 0, 10, .rw, 0x4B⟩
def Reg.PWR_SPIN_P_SURGE_DW : Field := ⟨0xC0024, 10, 10, .rw, 0xFA⟩
def Reg.PWR_SPIN_SURGE_W : Field := ⟨0xC0024, 20, 12, .rw, 0x12C⟩
def Reg.PWR_SPIN_STATUS_N_ON : Field := ⟨0xC0028, 0, 7, .ro, 0⟩
def Reg.PWR_SPIN_STATUS_N_SURGE : Field := ⟨0xC0028, 7, 7, .ro, 0⟩
def Reg.PWR_SPIN_STATUS_N_QUEUED : Field := ⟨0xC0028, 14, 7, .ro, 0⟩
def Reg.PWR_SPIN_STATUS_HEADROOM_W : Field := ⟨0xC0028, 21, 11, .ro, 0⟩

/-! Mains conversion, slot power and park: PWR_EVENT — 0x000C_0030, PWR_EVENT_EN — 0x000C_0034 -/
def Reg.PWR_EVENT_MAINS_LOST : Field := ⟨0xC0030, 0, 1, .w1c, 0⟩
def Reg.PWR_EVENT_EN_MAINS_LOST : Field := ⟨0xC0034, 0, 1, .rw, 0⟩
def Reg.PWR_EVENT_MAINS_RETURN : Field := ⟨0xC0030, 1, 1, .w1c, 0⟩
def Reg.PWR_EVENT_EN_MAINS_RETURN : Field := ⟨0xC0034, 1, 1, .rw, 0⟩
def Reg.PWR_EVENT_RANGE_CHANGE : Field := ⟨0xC0030, 2, 1, .w1c, 0⟩
def Reg.PWR_EVENT_EN_RANGE_CHANGE : Field := ⟨0xC0034, 2, 1, .rw, 0⟩
def Reg.PWR_EVENT_CAP_CHANGE : Field := ⟨0xC0030, 3, 1, .w1c, 0⟩
def Reg.PWR_EVENT_EN_CAP_CHANGE : Field := ⟨0xC0034, 3, 1, .rw, 0⟩
def Reg.PWR_EVENT_OVERLOAD : Field := ⟨0xC0030, 4, 1, .w1c, 0⟩
def Reg.PWR_EVENT_EN_OVERLOAD : Field := ⟨0xC0034, 4, 1, .rw, 0⟩
def Reg.PWR_EVENT_CONV_FAULT : Field := ⟨0xC0030, 5, 1, .w1c, 0⟩
def Reg.PWR_EVENT_EN_CONV_FAULT : Field := ⟨0xC0034, 5, 1, .rw, 0⟩

/-! Mains conversion, slot power and park: PWR counters — 0x000C_0040 to 0x000C_0058 -/
def Reg.PWR_MAINS_LOST_CNT : Field := ⟨0xC0040, 0, 32, .ro, 0⟩
def Reg.PWR_MAINS_RETURN_CNT : Field := ⟨0xC0044, 0, 32, .ro, 0⟩
def Reg.PWR_RANGE_CHANGE_CNT : Field := ⟨0xC0048, 0, 32, .ro, 0⟩
def Reg.PWR_CAP_CHANGE_CNT : Field := ⟨0xC004C, 0, 32, .ro, 0⟩
def Reg.PWR_OVERLOAD_CNT : Field := ⟨0xC0050, 0, 32, .ro, 0⟩
def Reg.PWR_CONV_FAULT_CNT : Field := ⟨0xC0054, 0, 32, .ro, 0⟩
def Reg.PWR_BAR0_DROP_CNT : Field := ⟨0xC0058, 0, 32, .ro, 0⟩

/-! Mains conversion, slot power and park: PWR_SLOTs_MEAS — 0x000C_1000 + 4 × s -/
def Reg.PWR_SLOT_MEAS_I12_MA (i : Nat) : Field := ⟨0xC1000 + 0x4 * i, 0, 16, .ro, 0⟩
def Reg.PWR_SLOT_MEAS_I5_MA (i : Nat) : Field := ⟨0xC1000 + 0x4 * i, 16, 16, .ro, 0⟩

/-! Backup pack and charge estimation: BAT_CTRL — 0x000D_0000 -/
def Reg.BAT_CTRL_CHG_EN : Field := ⟨0xD0000, 0, 1, .rw, 0⟩
def Reg.BAT_CTRL_LEARN : Field := ⟨0xD0000, 1, 1, .rw, 0⟩

/-! Backup pack and charge estimation: BAT_STATUS — 0x000D_0004 -/
def Reg.BAT_STATUS_PRESENT : Field := ⟨0xD0004, 0, 1, .ro, 0⟩
def Reg.BAT_STATUS_CHARGING : Field := ⟨0xD0004, 1, 1, .ro, 0⟩
def Reg.BAT_STATUS_CHG_DONE : Field := ⟨0xD0004, 2, 1, .ro, 0⟩
def Reg.BAT_STATUS_AT_REST : Field := ⟨0xD0004, 3, 1, .ro, 0⟩
def Reg.BAT_STATUS_REST_VALID : Field := ⟨0xD0004, 4, 1, .ro, 0⟩
def Reg.BAT_STATUS_EOD : Field := ⟨0xD0004, 5, 1, .ro, 0⟩
def Reg.BAT_STATUS_RATE : Field := ⟨0xD0004, 6, 2, .ro, 0⟩
def Reg.BAT_STATUS_KEEP_OK : Field := ⟨0xD0004, 8, 1, .ro, 0⟩
def Reg.BAT_STATUS_CHG_INHIBIT : Field := ⟨0xD0004, 9, 1, .ro, 0⟩

/-! Backup pack and charge estimation: BAT_EVENT — 0x000D_0008, BAT_EVENT_EN — 0x000D_000C -/
def Reg.BAT_EVENT_PRESENT_CHANGE : Field := ⟨0xD0008, 0, 1, .w1c, 0⟩
def Reg.BAT_EVENT_EN_PRESENT_CHANGE : Field := ⟨0xD000C, 0, 1, .rw, 0⟩
def Reg.BAT_EVENT_REST_VALID : Field := ⟨0xD0008, 1, 1, .w1c, 0⟩
def Reg.BAT_EVENT_EN_REST_VALID : Field := ⟨0xD000C, 1, 1, .rw, 0⟩
def Reg.BAT_EVENT_EOD : Field := ⟨0xD0008, 2, 1, .w1c, 0⟩
def Reg.BAT_EVENT_EN_EOD : Field := ⟨0xD000C, 2, 1, .rw, 0⟩
def Reg.BAT_EVENT_CHG_DONE : Field := ⟨0xD0008, 3, 1, .w1c, 0⟩
def Reg.BAT_EVENT_EN_CHG_DONE : Field := ⟨0xD000C, 3, 1, .rw, 0⟩
def Reg.BAT_EVENT_CHG_FAULT : Field := ⟨0xD0008, 4, 1, .w1c, 0⟩
def Reg.BAT_EVENT_EN_CHG_FAULT : Field := ⟨0xD000C, 4, 1, .rw, 0⟩
def Reg.BAT_EVENT_KEEP_LOW : Field := ⟨0xD0008, 5, 1, .w1c, 0⟩
def Reg.BAT_EVENT_EN_KEEP_LOW : Field := ⟨0xD000C, 5, 1, .rw, 0⟩
def Reg.BAT_EVENT_STEP : Field := ⟨0xD0008, 6, 1, .w1c, 0⟩
def Reg.BAT_EVENT_EN_STEP : Field := ⟨0xD000C, 6, 1, .rw, 0⟩

/-! Backup pack and charge estimation: BAT measurement registers — 0x000D_0010 to 0x000D_0020 -/
def Reg.BAT_VOLT_V_MV : Field := ⟨0xD0010, 0, 16, .ro, 0⟩
def Reg.BAT_VOLT_TEMP : Field := ⟨0xD0010, 16, 12, .ro, 0⟩
def Reg.BAT_CURR_I_MA : Field := ⟨0xD0014, 0, 16, .ro, 0⟩
def Reg.BAT_COUNT_Q_UAH : Field := ⟨0xD0018, 0, 32, .rw, 0⟩
def Reg.BAT_STEP_DV_MV : Field := ⟨0xD001C, 0, 16, .ro, 0⟩
def Reg.BAT_STEP_DI_MA : Field := ⟨0xD001C, 16, 16, .ro, 0⟩
def Reg.BAT_REST_REST_S : Field := ⟨0xD0020, 0, 16, .ro, 0⟩
def Reg.BAT_REST_LIMIT_S : Field := ⟨0xD0020, 16, 16, .ro, 0x708⟩

/-! Backup pack and charge estimation: BAT estimate registers — 0x000D_0024 to 0x000D_002C -/
def Reg.BAT_EOD_R_EST_DMOHM : Field := ⟨0xD0024, 0, 16, .rw, 0x1C2⟩
def Reg.BAT_EOD_V_SHUT_MV : Field := ⟨0xD0024, 16, 16, .rw, 0x13EC⟩
def Reg.BAT_EST_RSOC : Field := ⟨0xD0028, 0, 14, .rw, 0⟩
def Reg.BAT_EST_E_U : Field := ⟨0xD0028, 14, 14, .rw, 0⟩
def Reg.BAT_EST_CAP_SUSPECT : Field := ⟨0xD0028, 28, 1, .rw, 0⟩
def Reg.BAT_EST_CAP_UNLEARNED : Field := ⟨0xD0028, 29, 1, .rw, 1⟩
def Reg.BAT_CAP_FCC_DMAH : Field := ⟨0xD002C, 0, 16, .rw, 0⟩
def Reg.BAT_CAP_DESIGN_DMAH : Field := ⟨0xD002C, 16, 16, .rw, 0⟩

/-! Backup pack and charge estimation: BAT_SMB_CTRL — 0x000D_0030, BAT_SMB_DATA — 0x000D_0034 -/
def Reg.BAT_SMB_CTRL_CMD : Field := ⟨0xD0030, 0, 8, .rw, 0⟩
def Reg.BAT_SMB_CTRL_LEN : Field := ⟨0xD0030, 8, 8, .rw, 0⟩
def Reg.BAT_SMB_CTRL_READ : Field := ⟨0xD0030, 16, 1, .rw, 0⟩
def Reg.BAT_SMB_CTRL_ERR : Field := ⟨0xD0030, 30, 1, .ro, 0⟩
def Reg.BAT_SMB_CTRL_GO : Field := ⟨0xD0030, 31, 1, .w1s, 0⟩
def Reg.BAT_SMB_DATA_DATA : Field := ⟨0xD0034, 0, 32, .rw, 0⟩

/-! Backup pack and charge estimation: BAT_KEEP — 0x000D_0038 -/
def Reg.BAT_KEEP_KEEP_MV : Field := ⟨0xD0038, 0, 12, .ro, 0⟩
def Reg.BAT_KEEP_OK_MV : Field := ⟨0xD0038, 16, 12, .rw, 0xC4E⟩

/-! Backup pack and charge estimation: BAT counters — 0x000D_0040 to 0x000D_005C -/
def Reg.BAT_PRESENT_CHANGE_CNT : Field := ⟨0xD0040, 0, 32, .ro, 0⟩
def Reg.BAT_REST_VALID_CNT : Field := ⟨0xD0044, 0, 32, .ro, 0⟩
def Reg.BAT_EOD_CNT : Field := ⟨0xD0048, 0, 32, .ro, 0⟩
def Reg.BAT_CHG_DONE_CNT : Field := ⟨0xD004C, 0, 32, .ro, 0⟩
def Reg.BAT_CHG_FAULT_CNT : Field := ⟨0xD0050, 0, 32, .ro, 0⟩
def Reg.BAT_KEEP_LOW_CNT : Field := ⟨0xD0054, 0, 32, .ro, 0⟩
def Reg.BAT_STEP_CNT : Field := ⟨0xD0058, 0, 32, .ro, 0⟩
def Reg.BAT_BAR0_DROP_CNT : Field := ⟨0xD005C, 0, 32, .ro, 0⟩

/-! Fan motor drive: FAN_CTRL — 0x000E_0000 -/
def Reg.FAN_CTRL_ENABLE : Field := ⟨0xE0000, 0, 1, .rw, 0⟩
def Reg.FAN_CTRL_FIXED_EN : Field := ⟨0xE0000, 1, 1, .rw, 0⟩
def Reg.FAN_CTRL_WDOG_EN : Field := ⟨0xE0000, 2, 1, .rw, 1⟩

/-! Fan motor drive: FAN_CFG — 0x000E_0004 -/
def Reg.FAN_CFG_FIXED_PCT : Field := ⟨0xE0004, 0, 10, .rw, 0x2BC⟩
def Reg.FAN_CFG_FAILSAFE_PCT : Field := ⟨0xE0004, 10, 10, .rw, 0x2BC⟩
def Reg.FAN_CFG_FAULT_FLOOR_PCT : Field := ⟨0xE0004, 20, 10, .rw, 0x352⟩

/-! Fan motor drive: FAN_WDOG — 0x000E_0008 -/
def Reg.FAN_WDOG_PERIOD_S : Field := ⟨0xE0008, 0, 8, .rw, 0xA⟩
def Reg.FAN_WDOG_EXPIRED : Field := ⟨0xE0008, 8, 1, .ro, 0⟩

/-! Fan motor drive: FAN_TOKEN — 0x000E_000C -/
def Reg.FAN_TOKEN_HELD : Field := ⟨0xE000C, 0, 1, .ro, 0⟩
def Reg.FAN_TOKEN_PARTNER : Field := ⟨0xE000C, 1, 1, .ro, 0⟩
def Reg.FAN_TOKEN_CLAIM : Field := ⟨0xE000C, 2, 1, .w1s, 0⟩
def Reg.FAN_TOKEN_RELEASE : Field := ⟨0xE000C, 3, 1, .w1s, 0⟩
def Reg.FAN_TOKEN_REFUSED : Field := ⟨0xE000C, 4, 1, .ro, 0⟩

/-! Fan motor drive: FAN_EVENT — 0x000E_0010, FAN_EVENT_EN — 0x000E_0014 -/
def Reg.FAN_EVENT_OBS_LOSS : Field := ⟨0xE0010, 0, 1, .w1c, 0⟩
def Reg.FAN_EVENT_EN_OBS_LOSS : Field := ⟨0xE0014, 0, 1, .rw, 0⟩
def Reg.FAN_EVENT_FAN_FAULT : Field := ⟨0xE0010, 1, 1, .w1c, 0⟩
def Reg.FAN_EVENT_EN_FAN_FAULT : Field := ⟨0xE0014, 1, 1, .rw, 0⟩
def Reg.FAN_EVENT_MISSING_PHASE : Field := ⟨0xE0010, 2, 1, .w1c, 0⟩
def Reg.FAN_EVENT_EN_MISSING_PHASE : Field := ⟨0xE0014, 2, 1, .rw, 0⟩
def Reg.FAN_EVENT_START_FAIL : Field := ⟨0xE0010, 3, 1, .w1c, 0⟩
def Reg.FAN_EVENT_EN_START_FAIL : Field := ⟨0xE0014, 3, 1, .rw, 0⟩
def Reg.FAN_EVENT_VOLT_LIMIT : Field := ⟨0xE0010, 4, 1, .w1c, 0⟩
def Reg.FAN_EVENT_EN_VOLT_LIMIT : Field := ⟨0xE0014, 4, 1, .rw, 0⟩
def Reg.FAN_EVENT_TOKEN_CHANGE : Field := ⟨0xE0010, 5, 1, .w1c, 0⟩
def Reg.FAN_EVENT_EN_TOKEN_CHANGE : Field := ⟨0xE0014, 5, 1, .rw, 0⟩
def Reg.FAN_EVENT_WDOG : Field := ⟨0xE0010, 6, 1, .w1c, 0⟩
def Reg.FAN_EVENT_EN_WDOG : Field := ⟨0xE0014, 6, 1, .rw, 0⟩

/-! Fan motor drive: FAN_STATUS — 0x000E_0018 -/
def Reg.FAN_STATUS_FAULT : Field := ⟨0xE0018, 0, 6, .ro, 0⟩
def Reg.FAN_STATUS_VOLT_LIMIT : Field := ⟨0xE0018, 8, 6, .ro, 0⟩
def Reg.FAN_STATUS_FLOOR_ACTIVE : Field := ⟨0xE0018, 16, 1, .ro, 0⟩

/-! Fan motor drive: FAN counters — 0x000E_0040 to 0x000E_0060 -/
def Reg.FAN_OBS_LOSS_CNT : Field := ⟨0xE0040, 0, 32, .ro, 0⟩
def Reg.FAN_FAULT_CNT : Field := ⟨0xE0044, 0, 32, .ro, 0⟩
def Reg.FAN_MISSING_PHASE_CNT : Field := ⟨0xE0048, 0, 32, .ro, 0⟩
def Reg.FAN_START_FAIL_CNT : Field := ⟨0xE004C, 0, 32, .ro, 0⟩
def Reg.FAN_VOLT_LIMIT_CNT : Field := ⟨0xE0050, 0, 32, .ro, 0⟩
def Reg.FAN_TOKEN_CHANGE_CNT : Field := ⟨0xE0054, 0, 32, .ro, 0⟩
def Reg.FAN_WDOG_CNT : Field := ⟨0xE0058, 0, 32, .ro, 0⟩
def Reg.FAN_OVERCURRENT_CNT : Field := ⟨0xE005C, 0, 32, .ro, 0⟩
def Reg.FAN_BAR0_DROP_CNT : Field := ⟨0xE0060, 0, 32, .ro, 0⟩

/-! Fan motor drive: Channel registers — 0x000E_0100 + 0x40 × c -/
def Reg.FAN_CH_CFG_POLE_PAIRS (i : Nat) : Field := ⟨0xE0100 + 0x40 * i, 0, 4, .rw, 1⟩
def Reg.FAN_CH_CFG_P_RATED_W (i : Nat) : Field := ⟨0xE0100 + 0x40 * i, 4, 8, .rw, 0x64⟩
def Reg.FAN_CH_CFG_FULL_RPM_100 (i : Nat) : Field := ⟨0xE0100 + 0x40 * i, 12, 8, .rw, 0x60⟩
def Reg.FAN_CH_CFG_ACCEL_100 (i : Nat) : Field := ⟨0xE0100 + 0x40 * i, 20, 8, .rw, 0x28⟩
def Reg.FAN_CH_CFG2_ILIM_DA (i : Nat) : Field := ⟨0xE0104 + 0x40 * i, 0, 7, .rw, 0x5A⟩
def Reg.FAN_CH_CFG2_RES_LIMIT (i : Nat) : Field := ⟨0xE0104 + 0x40 * i, 8, 8, .rw, 0x40⟩
def Reg.FAN_CH_DEMAND_DEMAND (i : Nat) : Field := ⟨0xE0108 + 0x40 * i, 0, 10, .rw, 0⟩
def Reg.FAN_CH_CTRL_RUN (i : Nat) : Field := ⟨0xE010C + 0x40 * i, 0, 1, .rw, 0⟩
def Reg.FAN_CH_CTRL_RESTART (i : Nat) : Field := ⟨0xE010C + 0x40 * i, 1, 1, .w1s, 0⟩
def Reg.FAN_CH_STATE_STATE (i : Nat) : Field := ⟨0xE0110 + 0x40 * i, 0, 4, .ro, 0⟩
def Reg.FAN_CH_STATE_DIR (i : Nat) : Field := ⟨0xE0110 + 0x40 * i, 4, 1, .ro, 0⟩
def Reg.FAN_CH_STATE_VOLT_LIMIT (i : Nat) : Field := ⟨0xE0110 + 0x40 * i, 5, 1, .ro, 0⟩
def Reg.FAN_CH_STATE_FAULT_CAUSE (i : Nat) : Field := ⟨0xE0110 + 0x40 * i, 8, 3, .ro, 0⟩
def Reg.FAN_CH_STATE_APPLIED (i : Nat) : Field := ⟨0xE0110 + 0x40 * i, 16, 10, .ro, 0⟩
def Reg.FAN_CH_SPEED_RPM (i : Nat) : Field := ⟨0xE0114 + 0x40 * i, 0, 16, .ro, 0⟩
def Reg.FAN_CH_SPEED_REF (i : Nat) : Field := ⟨0xE0114 + 0x40 * i, 16, 16, .ro, 0⟩
def Reg.FAN_CH_POWER_P_REP_DW (i : Nat) : Field := ⟨0xE0118 + 0x40 * i, 0, 12, .ro, 0⟩
def Reg.FAN_CH_POWER_P_MEAS_DW (i : Nat) : Field := ⟨0xE0118 + 0x40 * i, 16, 12, .ro, 0⟩
def Reg.FAN_CH_IRMS_IA (i : Nat) : Field := ⟨0xE011C + 0x40 * i, 0, 10, .ro, 0⟩
def Reg.FAN_CH_IRMS_IB (i : Nat) : Field := ⟨0xE011C + 0x40 * i, 10, 10, .ro, 0⟩
def Reg.FAN_CH_IRMS_IC (i : Nat) : Field := ⟨0xE011C + 0x40 * i, 20, 10, .ro, 0⟩
def Reg.FAN_CH_ANGLE_ANGLE (i : Nat) : Field := ⟨0xE0120 + 0x40 * i, 0, 16, .ro, 0⟩
def Reg.FAN_CH_LOSS_CNT (i : Nat) : Field := ⟨0xE0124 + 0x40 * i, 0, 32, .ro, 0⟩
def Reg.FAN_CH_PRED_CNT (i : Nat) : Field := ⟨0xE0128 + 0x40 * i, 0, 32, .ro, 0⟩

/-! Active and standby modules: FOV_CTRL — 0x000F_0000 -/
def Reg.FOV_CTRL_HB_EN : Field := ⟨0xF0000, 0, 1, .rw, 1⟩
def Reg.FOV_CTRL_CLAIM : Field := ⟨0xF0000, 1, 1, .w1s, 0⟩
def Reg.FOV_CTRL_RELEASE : Field := ⟨0xF0000, 2, 1, .w1s, 0⟩
def Reg.FOV_CTRL_RELINQUISH : Field := ⟨0xF0000, 3, 1, .w1s, 0⟩
def Reg.FOV_CTRL_HOLD : Field := ⟨0xF0000, 4, 1, .rw, 0⟩
def Reg.FOV_CTRL_STANDBY_ROLE : Field := ⟨0xF0000, 5, 1, .rw, 0⟩
def Reg.FOV_CTRL_PREF_B : Field := ⟨0xF0000, 6, 1, .rw, 0⟩
def Reg.FOV_CTRL_REASON : Field := ⟨0xF0000, 8, 4, .rw, 0⟩

/-! Active and standby modules: FOV_STATUS — 0x000F_0004 -/
def Reg.FOV_STATUS_ACTIVE_HELD : Field := ⟨0xF0004, 0, 1, .ro, 0⟩
def Reg.FOV_STATUS_ACTIVE_LINE : Field := ⟨0xF0004, 1, 1, .ro, 0⟩
def Reg.FOV_STATUS_REFUSED : Field := ⟨0xF0004, 2, 1, .ro, 0⟩
def Reg.FOV_STATUS_LINE_OK : Field := ⟨0xF0004, 3, 1, .ro, 0⟩
def Reg.FOV_STATUS_MIR_OK : Field := ⟨0xF0004, 4, 1, .ro, 0⟩
def Reg.FOV_STATUS_PARTNER_LOST : Field := ⟨0xF0004, 5, 1, .ro, 0⟩
def Reg.FOV_STATUS_FW_ALIVE : Field := ⟨0xF0004, 6, 1, .ro, 0⟩
def Reg.FOV_STATUS_KEEPER_RELEASED : Field := ⟨0xF0004, 7, 1, .ro, 0⟩
def Reg.FOV_STATUS_POSITION : Field := ⟨0xF0004, 8, 1, .ro, 0⟩

/-! Active and standby modules: FOV_CFG — 0x000F_0008 -/
def Reg.FOV_CFG_MISS_LIMIT : Field := ⟨0xF0008, 0, 8, .rw, 0xA⟩
def Reg.FOV_CFG_FW_WDOG_MS : Field := ⟨0xF0008, 8, 8, .rw, 0x64⟩
def Reg.FOV_CFG_GRACE_MS : Field := ⟨0xF0008, 16, 16, .rw, 0x7D0⟩

/-! Active and standby modules: FOV_KICK — 0x000F_000C -/
def Reg.FOV_KICK_KICK : Field := ⟨0xF000C, 0, 1, .wo, 0⟩

/-! Active and standby modules: FOV_EVENT — 0x000F_0010, FOV_EVENT_EN — 0x000F_0014 -/
def Reg.FOV_EVENT_PARTNER_LOST : Field := ⟨0xF0010, 0, 1, .w1c, 0⟩
def Reg.FOV_EVENT_EN_PARTNER_LOST : Field := ⟨0xF0014, 0, 1, .rw, 0⟩
def Reg.FOV_EVENT_RELINQUISH_RX : Field := ⟨0xF0010, 1, 1, .w1c, 0⟩
def Reg.FOV_EVENT_EN_RELINQUISH_RX : Field := ⟨0xF0014, 1, 1, .rw, 0⟩
def Reg.FOV_EVENT_PATH_LOST : Field := ⟨0xF0010, 2, 1, .w1c, 0⟩
def Reg.FOV_EVENT_EN_PATH_LOST : Field := ⟨0xF0014, 2, 1, .rw, 0⟩
def Reg.FOV_EVENT_PATH_RESTORED : Field := ⟨0xF0010, 3, 1, .w1c, 0⟩
def Reg.FOV_EVENT_EN_PATH_RESTORED : Field := ⟨0xF0014, 3, 1, .rw, 0⟩
def Reg.FOV_EVENT_ACTIVE_CHANGE : Field := ⟨0xF0010, 4, 1, .w1c, 0⟩
def Reg.FOV_EVENT_EN_ACTIVE_CHANGE : Field := ⟨0xF0014, 4, 1, .rw, 0⟩
def Reg.FOV_EVENT_FW_WDOG : Field := ⟨0xF0010, 5, 1, .w1c, 0⟩
def Reg.FOV_EVENT_EN_FW_WDOG : Field := ⟨0xF0014, 5, 1, .rw, 0⟩
def Reg.FOV_EVENT_KEEPER_RELEASE : Field := ⟨0xF0010, 6, 1, .w1c, 0⟩
def Reg.FOV_EVENT_EN_KEEPER_RELEASE : Field := ⟨0xF0014, 6, 1, .rw, 0⟩
def Reg.FOV_EVENT_BEAT_CRC : Field := ⟨0xF0010, 7, 1, .w1c, 0⟩
def Reg.FOV_EVENT_EN_BEAT_CRC : Field := ⟨0xF0014, 7, 1, .rw, 0⟩

/-! Active and standby modules: FOV_BEAT_RX — 0x000F_0018, FOV_MISS — 0x000F_001C -/
def Reg.FOV_BEAT_RX_BEAT : Field := ⟨0xF0018, 0, 32, .ro, 0⟩
def Reg.FOV_MISS_LINE_MISS : Field := ⟨0xF001C, 0, 8, .ro, 0⟩
def Reg.FOV_MISS_MIR_MISS : Field := ⟨0xF001C, 8, 8, .ro, 0⟩

/-! Active and standby modules: FOV counters — 0x000F_0040 to 0x000F_0060 -/
def Reg.FOV_PARTNER_LOST_CNT : Field := ⟨0xF0040, 0, 32, .ro, 0⟩
def Reg.FOV_RELINQUISH_RX_CNT : Field := ⟨0xF0044, 0, 32, .ro, 0⟩
def Reg.FOV_PATH_LOST_CNT : Field := ⟨0xF0048, 0, 32, .ro, 0⟩
def Reg.FOV_PATH_RESTORED_CNT : Field := ⟨0xF004C, 0, 32, .ro, 0⟩
def Reg.FOV_ACTIVE_CHANGE_CNT : Field := ⟨0xF0050, 0, 32, .ro, 0⟩
def Reg.FOV_FW_WDOG_CNT : Field := ⟨0xF0054, 0, 32, .ro, 0⟩
def Reg.FOV_KEEPER_RELEASE_CNT : Field := ⟨0xF0058, 0, 32, .ro, 0⟩
def Reg.FOV_BEAT_CRC_CNT : Field := ⟨0xF005C, 0, 32, .ro, 0⟩
def Reg.FOV_BAR0_DROP_CNT : Field := ⟨0xF0060, 0, 32, .ro, 0⟩

/-! Active and standby modules: FOV_MIR_CTRL — 0x000F_1000, FOV_MIR_STATUS — 0x000F_1004 -/
def Reg.FOV_MIR_CTRL_ENABLE : Field := ⟨0xF1000, 0, 1, .rw, 0⟩
def Reg.FOV_MIR_CTRL_RESYNC_DONE : Field := ⟨0xF1000, 1, 1, .rw, 0⟩
def Reg.FOV_MIR_STATUS_LINK_UP : Field := ⟨0xF1004, 0, 1, .ro, 0⟩
def Reg.FOV_MIR_STATUS_LANES : Field := ⟨0xF1004, 1, 4, .ro, 0⟩

/-! Active and standby modules: FOV_MIR counters — 0x000F_1040 to 0x000F_1050 -/
def Reg.FOV_MIR_TX_CNT : Field := ⟨0xF1040, 0, 32, .ro, 0⟩
def Reg.FOV_MIR_RX_CNT : Field := ⟨0xF1044, 0, 32, .ro, 0⟩
def Reg.FOV_MIR_RETRY_CNT : Field := ⟨0xF1048, 0, 32, .ro, 0⟩
def Reg.FOV_MIR_CRC_CNT : Field := ⟨0xF104C, 0, 32, .ro, 0⟩
def Reg.FOV_MIR_LINK_DOWN_CNT : Field := ⟨0xF1050, 0, 32, .ro, 0⟩

/-! Bruntlink fabric: FAB_CTRL — 0x0010_0000 -/
def Reg.FAB_CTRL_ENABLE : Field := ⟨0x100000, 0, 1, .rw, 0⟩
def Reg.FAB_CTRL_BLEAT_EN : Field := ⟨0x100000, 1, 1, .rw, 0⟩
def Reg.FAB_CTRL_ROOT_PORT : Field := ⟨0x100000, 2, 2, .rw, 0⟩
def Reg.FAB_CTRL_ROOT_PORT_VALID : Field := ⟨0x100000, 4, 1, .rw, 0⟩
def Reg.FAB_CTRL_KEEP_PORTS : Field := ⟨0x100000, 5, 4, .rw, 0xF⟩

/-! Bruntlink fabric: FAB_ADDR — 0x0010_0004 -/
def Reg.FAB_ADDR_ADDR : Field := ⟨0x100004, 0, 12, .rw, 0⟩
def Reg.FAB_ADDR_VALID : Field := ⟨0x100004, 31, 1, .rw, 0⟩

/-! Bruntlink fabric: FAB_UID_LO — 0x0010_0008, FAB_UID_HI — 0x0010_000C -/
def Reg.FAB_UID_LO_UID : Field := ⟨0x100008, 0, 32, .ro, 0⟩
def Reg.FAB_UID_HI_UID : Field := ⟨0x10000C, 0, 32, .ro, 0⟩

/-! Bruntlink fabric: FAB_EVENT — 0x0010_0010, FAB_EVENT_EN — 0x0010_0014 -/
def Reg.FAB_EVENT_LINK_DOWN : Field := ⟨0x100010, 0, 1, .w1c, 0⟩
def Reg.FAB_EVENT_EN_LINK_DOWN : Field := ⟨0x100014, 0, 1, .rw, 0⟩
def Reg.FAB_EVENT_LINK_UP : Field := ⟨0x100010, 1, 1, .w1c, 0⟩
def Reg.FAB_EVENT_EN_LINK_UP : Field := ⟨0x100014, 1, 1, .rw, 0⟩
def Reg.FAB_EVENT_RX : Field := ⟨0x100010, 2, 1, .w1c, 0⟩
def Reg.FAB_EVENT_EN_RX : Field := ⟨0x100014, 2, 1, .rw, 0⟩
def Reg.FAB_EVENT_ALT_USED : Field := ⟨0x100010, 3, 1, .w1c, 0⟩
def Reg.FAB_EVENT_EN_ALT_USED : Field := ⟨0x100014, 3, 1, .rw, 0⟩
def Reg.FAB_EVENT_DROP : Field := ⟨0x100010, 4, 1, .w1c, 0⟩
def Reg.FAB_EVENT_EN_DROP : Field := ⟨0x100014, 4, 1, .rw, 0⟩

/-! Bruntlink fabric: FAB firmware frame rings — 0x0010_0180 to 0x0010_01A8 -/
def Reg.FAB_TX_CFG_ENABLE : Field := ⟨0x100180, 0, 1, .rw, 0⟩
def Reg.FAB_TX_CFG_SIZE_M1 : Field := ⟨0x100180, 1, 11, .rw, 0⟩
def Reg.FAB_TX_BASE_LO_LOWZERO : Field := ⟨0x100184, 0, 6, .ro, 0⟩
def Reg.FAB_TX_BASE_LO_BASE : Field := ⟨0x100184, 6, 26, .rw, 0⟩
def Reg.FAB_TX_BASE_HI_BASE : Field := ⟨0x100188, 0, 4, .rw, 0⟩
def Reg.FAB_TX_TAIL_TAIL : Field := ⟨0x10018C, 0, 11, .rw, 0⟩
def Reg.FAB_TX_HEAD_HEAD : Field := ⟨0x100190, 0, 11, .ro, 0⟩
def Reg.FAB_RX_CFG_ENABLE : Field := ⟨0x100194, 0, 1, .rw, 0⟩
def Reg.FAB_RX_CFG_SIZE_M1 : Field := ⟨0x100194, 1, 11, .rw, 0⟩
def Reg.FAB_RX_BASE_LO_LOWZERO : Field := ⟨0x100198, 0, 6, .ro, 0⟩
def Reg.FAB_RX_BASE_LO_BASE : Field := ⟨0x100198, 6, 26, .rw, 0⟩
def Reg.FAB_RX_BASE_HI_BASE : Field := ⟨0x10019C, 0, 4, .rw, 0⟩
def Reg.FAB_RX_TAIL_TAIL : Field := ⟨0x1001A0, 0, 11, .rw, 0⟩
def Reg.FAB_RX_HEAD_HEAD : Field := ⟨0x1001A4, 0, 11, .ro, 0⟩
def Reg.FAB_RX_CQ_HEAD_CQ_HEAD : Field := ⟨0x1001A8, 0, 11, .rw, 0⟩

/-! Bruntlink fabric: FAB counters — 0x0010_0040 to 0x0010_0058 -/
def Reg.FAB_LINK_DOWN_CNT : Field := ⟨0x100040, 0, 32, .ro, 0⟩
def Reg.FAB_LINK_UP_CNT : Field := ⟨0x100044, 0, 32, .ro, 0⟩
def Reg.FAB_RX_FRAME_CNT : Field := ⟨0x100048, 0, 32, .ro, 0⟩
def Reg.FAB_ALT_CNT : Field := ⟨0x10004C, 0, 32, .ro, 0⟩
def Reg.FAB_DROP_CNT : Field := ⟨0x100050, 0, 32, .ro, 0⟩
def Reg.FAB_FWD_CNT : Field := ⟨0x100054, 0, 32, .ro, 0⟩
def Reg.FAB_BAR0_DROP_CNT : Field := ⟨0x100058, 0, 32, .ro, 0⟩

/-! Bruntlink fabric: Port registers — 0x0010_0200 + 0x40 × p -/
def Reg.FAB_PORT_STATUS_LINK_UP (i : Nat) : Field := ⟨0x100200 + 0x40 * i, 0, 1, .ro, 0⟩
def Reg.FAB_PORT_STATUS_LANES (i : Nat) : Field := ⟨0x100200 + 0x40 * i, 1, 3, .ro, 0⟩
def Reg.FAB_PORT_STATUS_SLOW (i : Nat) : Field := ⟨0x100200 + 0x40 * i, 4, 1, .ro, 0⟩
def Reg.FAB_PORT_STATUS_NEIGH_ADDR (i : Nat) : Field := ⟨0x100200 + 0x40 * i, 16, 12, .ro, 0⟩
def Reg.FAB_PORT_NEIGH_UID_LO_UID (i : Nat) : Field := ⟨0x100204 + 0x40 * i, 0, 32, .ro, 0⟩
def Reg.FAB_PORT_NEIGH_UID_HI_UID (i : Nat) : Field := ⟨0x100208 + 0x40 * i, 0, 32, .ro, 0⟩
def Reg.FAB_PORT_CRC_ERR_CNT (i : Nat) : Field := ⟨0x10020C + 0x40 * i, 0, 32, .ro, 0⟩
def Reg.FAB_PORT_REPLAY_CNT (i : Nat) : Field := ⟨0x100210 + 0x40 * i, 0, 32, .ro, 0⟩
def Reg.FAB_PORT_TX_CNT (i : Nat) : Field := ⟨0x100214 + 0x40 * i, 0, 32, .ro, 0⟩
def Reg.FAB_PORT_RX_CNT (i : Nat) : Field := ⟨0x100218 + 0x40 * i, 0, 32, .ro, 0⟩

/-! Bruntlink fabric: FAB_ROUTEa — 0x0010_4000 + 4 × a -/
def Reg.FAB_ROUTE_VALID (i : Nat) : Field := ⟨0x104000 + 0x4 * i, 0, 1, .rw, 0⟩
def Reg.FAB_ROUTE_PRIMARY (i : Nat) : Field := ⟨0x104000 + 0x4 * i, 1, 2, .rw, 0⟩
def Reg.FAB_ROUTE_ALT_VALID (i : Nat) : Field := ⟨0x104000 + 0x4 * i, 3, 1, .rw, 0⟩
def Reg.FAB_ROUTE_ALT (i : Nat) : Field := ⟨0x104000 + 0x4 * i, 4, 2, .rw, 0⟩
def Reg.FAB_ROUTE_COST (i : Nat) : Field := ⟨0x104000 + 0x4 * i, 16, 16, .rw, 0⟩

/-! Control cores, cluster cache, mailboxes and DMA: CCH_CTRL — 0x0008_0000 -/
def Reg.CCH_CTRL_HUM : Field := ⟨0x80000, 0, 1, .rw, 0⟩
def Reg.CCH_CTRL_PF_EN : Field := ⟨0x80000, 1, 1, .rw, 1⟩
def Reg.CCH_CTRL_OFFER_CLEAN : Field := ⟨0x80000, 2, 1, .rw, 1⟩
def Reg.CCH_CTRL_MRAM_WB : Field := ⟨0x80000, 3, 1, .rw, 0⟩

/-! Control cores, cluster cache, mailboxes and DMA: CCH_STATUS — 0x0008_0004, CCH_CORES — 0x0008_0008 -/
def Reg.CCH_STATUS_DATA_LOST : Field := ⟨0x80004, 0, 1, .ro, 0⟩
def Reg.CCH_CORES_IN_SERVICE : Field := ⟨0x80008, 0, 9, .ro, 0xFF⟩
def Reg.CCH_CORES_SPARE : Field := ⟨0x80008, 16, 9, .ro, 0x100⟩

/-! Control cores, cluster cache, mailboxes and DMA: CCH maintenance registers — 0x0008_0010 to 0x0008_001C -/
def Reg.CCH_MAINT_ADDR_LO_ADDR : Field := ⟨0x80010, 0, 32, .rw, 0⟩
def Reg.CCH_MAINT_ADDR_HI_ADDR : Field := ⟨0x80014, 0, 8, .rw, 0⟩
def Reg.CCH_MAINT_LEN_LEN : Field := ⟨0x80018, 0, 32, .rw, 0⟩
def Reg.CCH_MAINT_CTRL_OP : Field := ⟨0x8001C, 0, 3, .rw, 0⟩
def Reg.CCH_MAINT_CTRL_BUSY : Field := ⟨0x8001C, 30, 1, .ro, 0⟩
def Reg.CCH_MAINT_CTRL_GO : Field := ⟨0x8001C, 31, 1, .w1s, 0⟩

/-! Control cores, cluster cache, mailboxes and DMA: CCH_EVENT — 0x0008_0020, CCH_EVENT_EN — 0x0008_0024 -/
def Reg.CCH_EVENT_CE : Field := ⟨0x80020, 0, 1, .w1c, 0⟩
def Reg.CCH_EVENT_EN_CE : Field := ⟨0x80024, 0, 1, .rw, 0⟩
def Reg.CCH_EVENT_UE : Field := ⟨0x80020, 1, 1, .w1c, 0⟩
def Reg.CCH_EVENT_EN_UE : Field := ⟨0x80024, 1, 1, .rw, 0⟩
def Reg.CCH_EVENT_TAG_PE : Field := ⟨0x80020, 2, 1, .w1c, 0⟩
def Reg.CCH_EVENT_EN_TAG_PE : Field := ⟨0x80024, 2, 1, .rw, 0⟩
def Reg.CCH_EVENT_TAG_UE : Field := ⟨0x80020, 3, 1, .w1c, 0⟩
def Reg.CCH_EVENT_EN_TAG_UE : Field := ⟨0x80024, 3, 1, .rw, 0⟩
def Reg.CCH_EVENT_MAINT_DONE : Field := ⟨0x80020, 4, 1, .w1c, 0⟩
def Reg.CCH_EVENT_EN_MAINT_DONE : Field := ⟨0x80024, 4, 1, .rw, 0⟩

/-! Control cores, cluster cache, mailboxes and DMA: CCH_LAST_ERR_LO — 0x0008_0028, CCH_LAST_ERR_HI — 0x0008_002C -/
def Reg.CCH_LAST_ERR_LO_ADDR : Field := ⟨0x80028, 6, 26, .ro, 0⟩
def Reg.CCH_LAST_ERR_HI_ADDR : Field := ⟨0x8002C, 0, 8, .ro, 0⟩
def Reg.CCH_LAST_ERR_HI_WAY : Field := ⟨0x8002C, 16, 4, .ro, 0⟩
def Reg.CCH_LAST_ERR_HI_TAG : Field := ⟨0x8002C, 20, 1, .ro, 0⟩

/-! Control cores, cluster cache, mailboxes and DMA: CCH counters — 0x0008_0040 to 0x0008_0064 -/
def Reg.CCH_CE_CNT : Field := ⟨0x80040, 0, 32, .ro, 0⟩
def Reg.CCH_UE_CNT : Field := ⟨0x80044, 0, 32, .ro, 0⟩
def Reg.CCH_TAG_PE_CNT : Field := ⟨0x80048, 0, 32, .ro, 0⟩
def Reg.CCH_TAG_UE_CNT : Field := ⟨0x8004C, 0, 32, .ro, 0⟩
def Reg.CCH_MAINT_DONE_CNT : Field := ⟨0x80050, 0, 32, .ro, 0⟩
def Reg.CCH_OFFER_DECLINED_CNT : Field := ⟨0x80054, 0, 32, .ro, 0⟩
def Reg.CCH_VICTIM_HIT_CNT : Field := ⟨0x80058, 0, 32, .ro, 0⟩
def Reg.CCH_PF_HIT_CNT : Field := ⟨0x8005C, 0, 32, .ro, 0⟩
def Reg.CCH_MISS_CNT : Field := ⟨0x80060, 0, 32, .ro, 0⟩
def Reg.CCH_BAR0_DROP_CNT : Field := ⟨0x80064, 0, 32, .ro, 0⟩

/-! Control cores, cluster cache, mailboxes and DMA: CCH_MTIME_LO — 0x0008_0080, _HI — 0x0008_0084; CCH_COREn_MTIMECMP_LO — 0x0008_0100 + 8 × n, _HI — 0x0008_0104 + 8 × n -/
def Reg.CCH_MTIME_LO_MTIME : Field := ⟨0x80080, 0, 32, .ro, 0⟩
def Reg.CCH_MTIME_HI_MTIME : Field := ⟨0x80084, 0, 32, .ro, 0⟩
def Reg.CCH_CORE_MTIMECMP_LO_CMP (i : Nat) : Field := ⟨0x80100 + 0x8 * i, 0, 32, .rw, 0xFFFFFFFF⟩
def Reg.CCH_CORE_MTIMECMP_HI_CMP (i : Nat) : Field := ⟨0x80104 + 0x8 * i, 0, 32, .rw, 0xFFFFFFFF⟩

/-! Control cores, cluster cache, mailboxes and DMA: Mailbox registers — 0x0009_0000 + 0x20 × m -/
def Reg.MBX_BOX_CFG_SENDER (i : Nat) : Field := ⟨0x90000 + 0x20 * i, 0, 8, .rw, 0⟩
def Reg.MBX_BOX_CFG_RECEIVER (i : Nat) : Field := ⟨0x90000 + 0x20 * i, 8, 8, .rw, 0⟩
def Reg.MBX_BOX_CFG_IRQ_EN (i : Nat) : Field := ⟨0x90000 + 0x20 * i, 16, 1, .rw, 0⟩
def Reg.MBX_BOX_STATUS_FULL (i : Nat) : Field := ⟨0x90004 + 0x20 * i, 0, 1, .ro, 0⟩
def Reg.MBX_BOX_STATUS_TIMEOUT (i : Nat) : Field := ⟨0x90004 + 0x20 * i, 1, 1, .w1c, 0⟩
def Reg.MBX_BOX_STATUS_DROPPED (i : Nat) : Field := ⟨0x90004 + 0x20 * i, 2, 1, .w1c, 0⟩
def Reg.MBX_BOX_STATUS_RECALLED (i : Nat) : Field := ⟨0x90004 + 0x20 * i, 3, 1, .ro, 0⟩
def Reg.MBX_BOX_DATA_LO_DATA (i : Nat) : Field := ⟨0x90008 + 0x20 * i, 0, 32, .rw, 0⟩
def Reg.MBX_BOX_DATA_HI_DATA (i : Nat) : Field := ⟨0x9000C + 0x20 * i, 0, 32, .rw, 0⟩
def Reg.MBX_BOX_LOCK_OWNER (i : Nat) : Field := ⟨0x90010 + 0x20 * i, 0, 8, .rw, 0⟩
def Reg.MBX_BOX_CTRL_RECALL (i : Nat) : Field := ⟨0x90014 + 0x20 * i, 0, 1, .w1s, 0⟩

/-! Control cores, cluster cache, mailboxes and DMA: MBX global registers — 0x0009_1000 to 0x0009_14FF -/
def Reg.MBX_TIMEOUT_MS : Field := ⟨0x91000, 0, 16, .rw, 0xA⟩
def Reg.MBX_LOCK_FORCE_BOX : Field := ⟨0x91004, 0, 6, .rw, 0⟩
def Reg.MBX_LOCK_FORCE_GO : Field := ⟨0x91004, 31, 1, .w1s, 0⟩
def Reg.MBX_CORE_FULL_LO_BOXES (i : Nat) : Field := ⟨0x91100 + 0x10 * i, 0, 32, .ro, 0⟩
def Reg.MBX_CORE_FULL_HI_BOXES (i : Nat) : Field := ⟨0x91104 + 0x10 * i, 0, 32, .ro, 0⟩
def Reg.MBX_CORE_TMO_LO_BOXES (i : Nat) : Field := ⟨0x91108 + 0x10 * i, 0, 32, .ro, 0⟩
def Reg.MBX_CORE_TMO_HI_BOXES (i : Nat) : Field := ⟨0x9110C + 0x10 * i, 0, 32, .ro, 0⟩
def Reg.MBX_IRQ_ROUTE_CORES (i : Nat) : Field := ⟨0x91200 + 0x4 * i, 0, 9, .rw, 1⟩
def Reg.MBX_CORE_PEND_SOURCES (i : Nat) : Field := ⟨0x91300 + 0x4 * i, 0, 17, .ro, 0⟩
def Reg.MBX_CORE_PEND_MBX (i : Nat) : Field := ⟨0x91300 + 0x4 * i, 31, 1, .ro, 0⟩
def Reg.MBX_PEER_LOCK_OWNER (i : Nat) : Field := ⟨0x91400 + 0x4 * i, 0, 8, .rw, 0⟩

/-! Control cores, cluster cache, mailboxes and DMA: MBX counters — 0x0009_1040 to 0x0009_1050 -/
def Reg.MBX_DROP_CNT : Field := ⟨0x91040, 0, 32, .ro, 0⟩
def Reg.MBX_TIMEOUT_CNT : Field := ⟨0x91044, 0, 32, .ro, 0⟩
def Reg.MBX_SENT_CNT : Field := ⟨0x91048, 0, 32, .ro, 0⟩
def Reg.MBX_LOCK_FORCE_CNT : Field := ⟨0x9104C, 0, 32, .ro, 0⟩
def Reg.MBX_BAR0_DROP_CNT : Field := ⟨0x91050, 0, 32, .ro, 0⟩

/-! Control cores, cluster cache, mailboxes and DMA: DMA_CTRL — 0x0007_0000, DMA_EVENT — 0x0007_0010, DMA_EVENT_EN — 0x0007_0014 -/
def Reg.DMA_CTRL_ENABLE : Field := ⟨0x70000, 0, 1, .rw, 0⟩
def Reg.DMA_EVENT_DONE : Field := ⟨0x70010, 0, 1, .w1c, 0⟩
def Reg.DMA_EVENT_EN_DONE : Field := ⟨0x70014, 0, 1, .rw, 0⟩
def Reg.DMA_EVENT_HALTED : Field := ⟨0x70010, 1, 1, .w1c, 0⟩
def Reg.DMA_EVENT_EN_HALTED : Field := ⟨0x70014, 1, 1, .rw, 0⟩

/-! Control cores, cluster cache, mailboxes and DMA: DMA counters — 0x0007_0040 to 0x0007_004C -/
def Reg.DMA_DESC_DONE_CNT : Field := ⟨0x70040, 0, 32, .ro, 0⟩
def Reg.DMA_HALT_CNT : Field := ⟨0x70044, 0, 32, .ro, 0⟩
def Reg.DMA_ADDR_ERR_CNT : Field := ⟨0x70048, 0, 32, .ro, 0⟩
def Reg.DMA_BAR0_DROP_CNT : Field := ⟨0x7004C, 0, 32, .ro, 0⟩

/-! Control cores, cluster cache, mailboxes and DMA: Channel registers — 0x0007_1000 + 0x40 × c -/
def Reg.DMA_CH_CFG_ENABLE (i : Nat) : Field := ⟨0x71000 + 0x40 * i, 0, 1, .rw, 0⟩
def Reg.DMA_CH_CFG_SIZE_M1 (i : Nat) : Field := ⟨0x71000 + 0x40 * i, 1, 12, .rw, 0⟩
def Reg.DMA_CH_RATE_SHARE (i : Nat) : Field := ⟨0x71004 + 0x40 * i, 0, 8, .rw, 0⟩
def Reg.DMA_CH_RATE_BURST_SHIFT (i : Nat) : Field := ⟨0x71004 + 0x40 * i, 8, 4, .rw, 0xC⟩
def Reg.DMA_CH_BASE_LO_LOWZERO (i : Nat) : Field := ⟨0x71008 + 0x40 * i, 0, 6, .ro, 0⟩
def Reg.DMA_CH_BASE_LO_BASE (i : Nat) : Field := ⟨0x71008 + 0x40 * i, 6, 26, .rw, 0⟩
def Reg.DMA_CH_BASE_HI_BASE (i : Nat) : Field := ⟨0x7100C + 0x40 * i, 0, 4, .rw, 0⟩
def Reg.DMA_CH_CQ_BASE_LO_LOWZERO (i : Nat) : Field := ⟨0x71010 + 0x40 * i, 0, 6, .ro, 0⟩
def Reg.DMA_CH_CQ_BASE_LO_BASE (i : Nat) : Field := ⟨0x71010 + 0x40 * i, 6, 26, .rw, 0⟩
def Reg.DMA_CH_CQ_BASE_HI_BASE (i : Nat) : Field := ⟨0x71014 + 0x40 * i, 0, 4, .rw, 0⟩
def Reg.DMA_CH_TAIL_TAIL (i : Nat) : Field := ⟨0x71018 + 0x40 * i, 0, 12, .rw, 0⟩
def Reg.DMA_CH_HEAD_HEAD (i : Nat) : Field := ⟨0x7101C + 0x40 * i, 0, 12, .ro, 0⟩
def Reg.DMA_CH_CQ_TAIL_CQ_TAIL (i : Nat) : Field := ⟨0x71020 + 0x40 * i, 0, 12, .ro, 0⟩
def Reg.DMA_CH_CQ_HEAD_CQ_HEAD (i : Nat) : Field := ⟨0x71024 + 0x40 * i, 0, 12, .rw, 0⟩
def Reg.DMA_CH_STATUS_BUSY (i : Nat) : Field := ⟨0x71028 + 0x40 * i, 0, 1, .ro, 0⟩
def Reg.DMA_CH_STATUS_HALTED (i : Nat) : Field := ⟨0x71028 + 0x40 * i, 1, 1, .ro, 0⟩
def Reg.DMA_CH_STATUS_DONE (i : Nat) : Field := ⟨0x71028 + 0x40 * i, 2, 1, .w1c, 0⟩
def Reg.DMA_CH_CTRL_RESUME (i : Nat) : Field := ⟨0x7102C + 0x40 * i, 0, 1, .w1s, 0⟩
def Reg.DMA_CH_DONE_CNT (i : Nat) : Field := ⟨0x71030 + 0x40 * i, 0, 32, .ro, 0⟩

/-! Self-repair and aging: RPR_CTRL — 0x0011_0000, RPR_POST — 0x0011_0004, RPR_SRAM_CFG — 0x0011_0008 -/
def Reg.RPR_CTRL_FIELD_REMAP_EN : Field := ⟨0x110000, 0, 1, .rw, 1⟩
def Reg.RPR_CTRL_PPR_EN : Field := ⟨0x110000, 1, 1, .rw, 1⟩
def Reg.RPR_CTRL_LANE_RESTORE : Field := ⟨0x110000, 2, 1, .w1s, 0⟩
def Reg.RPR_POST_DONE : Field := ⟨0x110004, 0, 1, .ro, 0⟩
def Reg.RPR_POST_FATAL : Field := ⟨0x110004, 1, 1, .ro, 0⟩
def Reg.RPR_POST_ENGINES : Field := ⟨0x110004, 2, 5, .ro, 0⟩
def Reg.RPR_POST_CORES : Field := ⟨0x110004, 7, 4, .ro, 0⟩
def Reg.RPR_POST_REMAPS : Field := ⟨0x110004, 11, 10, .ro, 0⟩
def Reg.RPR_SRAM_CFG_CE_LIMIT : Field := ⟨0x110008, 0, 8, .rw, 4⟩
def Reg.RPR_SRAM_CFG_WINDOW_H : Field := ⟨0x110008, 8, 8, .rw, 0x18⟩
def Reg.RPR_SRAM_CFG_DRAM_CE_LIMIT : Field := ⟨0x110008, 16, 8, .rw, 3⟩

/-! Self-repair and aging: RPR_EVENT — 0x0011_0010, RPR_EVENT_EN — 0x0011_0014 -/
def Reg.RPR_EVENT_REC_READY : Field := ⟨0x110010, 0, 1, .w1c, 0⟩
def Reg.RPR_EVENT_EN_REC_READY : Field := ⟨0x110014, 0, 1, .rw, 0⟩
def Reg.RPR_EVENT_REC_OVERFLOW : Field := ⟨0x110010, 1, 1, .w1c, 0⟩
def Reg.RPR_EVENT_EN_REC_OVERFLOW : Field := ⟨0x110014, 1, 1, .rw, 0⟩
def Reg.RPR_EVENT_SPARE_EXHAUSTED : Field := ⟨0x110010, 2, 1, .w1c, 0⟩
def Reg.RPR_EVENT_EN_SPARE_EXHAUSTED : Field := ⟨0x110014, 2, 1, .rw, 0⟩
def Reg.RPR_EVENT_LANE_CHANGE : Field := ⟨0x110010, 3, 1, .w1c, 0⟩
def Reg.RPR_EVENT_EN_LANE_CHANGE : Field := ⟨0x110014, 3, 1, .rw, 0⟩

/-! Self-repair and aging: Record FIFO and array status — 0x0011_0018 to 0x0011_0028 -/
def Reg.RPR_REC_LO_KIND : Field := ⟨0x110018, 0, 8, .ro, 0⟩
def Reg.RPR_REC_LO_CLASS : Field := ⟨0x110018, 8, 8, .ro, 0⟩
def Reg.RPR_REC_LO_INSTANCE : Field := ⟨0x110018, 16, 8, .ro, 0⟩
def Reg.RPR_REC_LO_RESULT : Field := ⟨0x110018, 24, 8, .ro, 0⟩
def Reg.RPR_REC_HI_DETAIL : Field := ⟨0x11001C, 0, 32, .ro, 0⟩
def Reg.RPR_REC_CTRL_POP : Field := ⟨0x110020, 0, 1, .w1s, 0⟩
def Reg.RPR_REC_CTRL_DEPTH : Field := ⟨0x110020, 1, 6, .ro, 0⟩
def Reg.RPR_ARRAY_SEL_ARRAY : Field := ⟨0x110024, 0, 16, .rw, 0⟩
def Reg.RPR_ARRAY_STAT_CE_CNT : Field := ⟨0x110028, 0, 16, .ro, 0⟩
def Reg.RPR_ARRAY_STAT_ROWS_LEFT : Field := ⟨0x110028, 16, 8, .ro, 0⟩
def Reg.RPR_ARRAY_STAT_COLS_LEFT : Field := ⟨0x110028, 24, 2, .ro, 0⟩
def Reg.RPR_ARRAY_STAT_EXHAUSTED : Field := ⟨0x110028, 26, 1, .ro, 0⟩
def Reg.RPR_ARRAY_STAT_NONE : Field := ⟨0x110028, 27, 1, .ro, 0⟩

/-! Self-repair and aging: RPR counters — 0x0011_0040 to 0x0011_0054 -/
def Reg.RPR_REC_CNT : Field := ⟨0x110040, 0, 32, .ro, 0⟩
def Reg.RPR_REC_LOST_CNT : Field := ⟨0x110044, 0, 32, .ro, 0⟩
def Reg.RPR_EXHAUSTED_CNT : Field := ⟨0x110048, 0, 32, .ro, 0⟩
def Reg.RPR_LANE_CHANGE_CNT : Field := ⟨0x11004C, 0, 32, .ro, 0⟩
def Reg.RPR_ROW_REMAP_CNT : Field := ⟨0x110050, 0, 32, .ro, 0⟩
def Reg.RPR_BAR0_DROP_CNT : Field := ⟨0x110054, 0, 32, .ro, 0⟩

/-! Self-repair and aging: DRAM registers — 0x0011_1000 to 0x0011_104C -/
def Reg.RPR_DRAM_EVENT_CE : Field := ⟨0x111000, 0, 1, .w1c, 0⟩
def Reg.RPR_DRAM_EVENT_EN_CE : Field := ⟨0x111004, 0, 1, .rw, 0⟩
def Reg.RPR_DRAM_EVENT_UE : Field := ⟨0x111000, 1, 1, .w1c, 0⟩
def Reg.RPR_DRAM_EVENT_EN_UE : Field := ⟨0x111004, 1, 1, .rw, 0⟩
def Reg.RPR_DRAM_EVENT_PPR_DONE : Field := ⟨0x111000, 2, 1, .w1c, 0⟩
def Reg.RPR_DRAM_EVENT_EN_PPR_DONE : Field := ⟨0x111004, 2, 1, .rw, 0⟩
def Reg.RPR_DRAM_EVENT_ROW_LIMIT : Field := ⟨0x111000, 3, 1, .w1c, 0⟩
def Reg.RPR_DRAM_EVENT_EN_ROW_LIMIT : Field := ⟨0x111004, 3, 1, .rw, 0⟩
def Reg.RPR_DRAM_LAST_LOC : Field := ⟨0x111008, 0, 14, .ro, 0⟩
def Reg.RPR_DRAM_LAST_ROW_ROW : Field := ⟨0x11100C, 0, 18, .ro, 0⟩
def Reg.RPR_DRAM_PPR_LOC : Field := ⟨0x111010, 0, 13, .rw, 0⟩
def Reg.RPR_DRAM_PPR_HARD : Field := ⟨0x111010, 13, 1, .rw, 0⟩
def Reg.RPR_DRAM_PPR_FAIL : Field := ⟨0x111010, 29, 1, .ro, 0⟩
def Reg.RPR_DRAM_PPR_BUSY : Field := ⟨0x111010, 30, 1, .ro, 0⟩
def Reg.RPR_DRAM_PPR_GO : Field := ⟨0x111010, 31, 1, .w1s, 0⟩
def Reg.RPR_DRAM_PPR_ROW_ROW : Field := ⟨0x111014, 0, 18, .rw, 0⟩
def Reg.RPR_DRAM_LEFT_SOFT_LEFT (i : Nat) : Field := ⟨0x111020 + 0x4 * i, 0, 8, .ro, 0⟩
def Reg.RPR_DRAM_LEFT_HARD_LEFT (i : Nat) : Field := ⟨0x111020 + 0x4 * i, 8, 8, .ro, 0⟩
def Reg.RPR_DRAM_CE_CNT : Field := ⟨0x111040, 0, 32, .ro, 0⟩
def Reg.RPR_DRAM_UE_CNT : Field := ⟨0x111044, 0, 32, .ro, 0⟩
def Reg.RPR_DRAM_PPR_CNT : Field := ⟨0x111048, 0, 32, .ro, 0⟩
def Reg.RPR_DRAM_ROW_LIMIT_CNT : Field := ⟨0x11104C, 0, 32, .ro, 0⟩

/-! Resets, start-up and compatibility: SYS_MODE — 0x0000_0000 -/
def Reg.SYS_MODE_MODE : Field := ⟨0x0, 0, 4, .rw, 0⟩
def Reg.SYS_MODE_STARTING : Field := ⟨0x0, 4, 1, .rw, 1⟩

/-! Resets, start-up and compatibility: SYS_STRAP — 0x0000_0004 -/
def Reg.SYS_STRAP_POS : Field := ⟨0x4, 0, 1, .ro, 0⟩
def Reg.SYS_STRAP_COMPAT : Field := ⟨0x4, 1, 1, .ro, 0⟩
def Reg.SYS_STRAP_SHELF_ID : Field := ⟨0x4, 2, 6, .ro, 0⟩
def Reg.SYS_STRAP_POS_LIVE : Field := ⟨0x4, 8, 1, .ro, 0⟩
def Reg.SYS_STRAP_COMPAT_N_LIVE : Field := ⟨0x4, 9, 1, .ro, 1⟩
def Reg.SYS_STRAP_SHELF_LIVE : Field := ⟨0x4, 10, 6, .ro, 0⟩

/-! Resets, start-up and compatibility: SYS_RESET — 0x0000_0008 -/
def Reg.SYS_RESET_SCOPE : Field := ⟨0x8, 0, 2, .rw, 0⟩
def Reg.SYS_RESET_KEY : Field := ⟨0x8, 16, 8, .rw, 0⟩
def Reg.SYS_RESET_GO : Field := ⟨0x8, 31, 1, .w1s, 0⟩

/-! Resets, start-up and compatibility: SYS_RESET_CAUSE — 0x0000_000C -/
def Reg.SYS_RESET_CAUSE_KIND : Field := ⟨0xC, 0, 2, .ro, 0⟩
def Reg.SYS_RESET_CAUSE_SOURCE : Field := ⟨0xC, 4, 4, .ro, 0⟩

/-! Resets, start-up and compatibility: SYS_BOOT — 0x0000_0010 -/
def Reg.SYS_BOOT_SLOT : Field := ⟨0x10, 0, 2, .ro, 0⟩
def Reg.SYS_BOOT_NEXT_SLOT : Field := ⟨0x10, 2, 2, .rw, 1⟩
def Reg.SYS_BOOT_TRIES : Field := ⟨0x10, 4, 2, .ro, 0⟩
def Reg.SYS_BOOT_FALLBACK : Field := ⟨0x10, 6, 1, .w1c, 0⟩
def Reg.SYS_BOOT_NO_IMAGE : Field := ⟨0x10, 7, 1, .ro, 0⟩

/-! Resets, start-up and compatibility: SYS_CFG — 0x0000_0014, SYS_COMPAT — 0x0000_0018 -/
def Reg.SYS_CFG_RESTART_MS : Field := ⟨0x14, 0, 16, .rw, 0x1F4⟩
def Reg.SYS_CFG_BOOT_S : Field := ⟨0x14, 16, 8, .rw, 0x3C⟩
def Reg.SYS_CFG_AUTO_RESTART_EN : Field := ⟨0x14, 24, 1, .rw, 1⟩
def Reg.SYS_COMPAT_JNL_FMT1 : Field := ⟨0x18, 0, 1, .ro, 0⟩
def Reg.SYS_COMPAT_MIXED : Field := ⟨0x18, 1, 1, .ro, 0⟩

/-! Resets, start-up and compatibility: SYS_EVENT — 0x0000_0020, SYS_EVENT_EN — 0x0000_0024 -/
def Reg.SYS_EVENT_STRAP_CHANGE : Field := ⟨0x20, 0, 1, .w1c, 0⟩
def Reg.SYS_EVENT_EN_STRAP_CHANGE : Field := ⟨0x24, 0, 1, .rw, 0⟩
def Reg.SYS_EVENT_POS_CONFLICT : Field := ⟨0x20, 1, 1, .w1c, 0⟩
def Reg.SYS_EVENT_EN_POS_CONFLICT : Field := ⟨0x24, 1, 1, .rw, 0⟩
def Reg.SYS_EVENT_COMPAT_CONFLICT : Field := ⟨0x20, 2, 1, .w1c, 0⟩
def Reg.SYS_EVENT_EN_COMPAT_CONFLICT : Field := ⟨0x24, 2, 1, .rw, 0⟩
def Reg.SYS_EVENT_BOOT_FALLBACK : Field := ⟨0x20, 3, 1, .w1c, 0⟩
def Reg.SYS_EVENT_EN_BOOT_FALLBACK : Field := ⟨0x24, 3, 1, .rw, 0⟩
def Reg.SYS_EVENT_RETIRED_ACCESS : Field := ⟨0x20, 4, 1, .w1c, 0⟩
def Reg.SYS_EVENT_EN_RETIRED_ACCESS : Field := ⟨0x24, 4, 1, .rw, 0⟩
def Reg.SYS_EVENT_RESET_TIMEOUT : Field := ⟨0x20, 5, 1, .w1c, 0⟩
def Reg.SYS_EVENT_EN_RESET_TIMEOUT : Field := ⟨0x24, 5, 1, .rw, 0⟩

/-! Resets, start-up and compatibility: SYS counters — 0x0000_0040 to 0x0000_005C -/
def Reg.SYS_RETIRED_ACCESS_CNT : Field := ⟨0x40, 0, 32, .ro, 0⟩
def Reg.SYS_RESET_TIMEOUT_CNT : Field := ⟨0x44, 0, 32, .ro, 0⟩
def Reg.SYS_STRAP_CHANGE_CNT : Field := ⟨0x48, 0, 32, .ro, 0⟩
def Reg.SYS_CONFLICT_CNT : Field := ⟨0x4C, 0, 32, .ro, 0⟩
def Reg.SYS_CORE_RESTART_CNT : Field := ⟨0x50, 0, 32, .ro, 0⟩
def Reg.SYS_WARM_RESET_CNT : Field := ⟨0x54, 0, 32, .ro, 0⟩
def Reg.SYS_BOOT_FALLBACK_CNT : Field := ⟨0x58, 0, 32, .ro, 0⟩
def Reg.SYS_BAR0_DROP_CNT : Field := ⟨0x5C, 0, 32, .ro, 0⟩

/-! Bruntlink fabric: FAB_BLEAT_TPLk — 0x0010_0100 + 4 × k -/
def Reg.FAB_BLEAT_TPL_BYTES (i : Nat) : Field := ⟨0x100100 + 0x4 * i, 0, 32, .rw, 0⟩

/-! PCI Express endpoint: MSI-X table -/
def Reg.MSIX_ADDR_LO_ADDR (i : Nat) : Field := ⟨0x300000 + 0x10 * i, 0, 32, .rw, 0⟩
def Reg.MSIX_ADDR_HI_ADDR (i : Nat) : Field := ⟨0x300004 + 0x10 * i, 0, 32, .rw, 0⟩
def Reg.MSIX_DATA_DATA (i : Nat) : Field := ⟨0x300008 + 0x10 * i, 0, 32, .rw, 0⟩
def Reg.MSIX_CTRL_MASK (i : Nat) : Field := ⟨0x30000C + 0x10 * i, 0, 1, .rw, 1⟩

/-! PCI Express endpoint: PBA -/
def Reg.MSIX_PBA_LO_PENDING : Field := ⟨0x301000, 0, 32, .ro, 0⟩
def Reg.MSIX_PBA_HI_PENDING : Field := ⟨0x301004, 0, 32, .ro, 0⟩

/-- Rows 0 and on of chapter 02. -/
def Reg.rows02_0 : List FieldRow :=
  [ ⟨4, 1, fun _ => Reg.STP_CTRL_LOCK⟩,
    ⟨4, 1, fun _ => Reg.STP_CTRL_ENABLE⟩,
    ⟨4, 1, fun _ => Reg.STP_XLATE_CTRL_VOL⟩,
    ⟨4, 1, fun _ => Reg.STP_XLATE_CTRL_BUSY⟩,
    ⟨4, 1, fun _ => Reg.STP_XLATE_CTRL_GO⟩,
    ⟨4, 1, fun _ => Reg.STP_XLATE_RES_SLOT⟩,
    ⟨4, 1, fun _ => Reg.STP_XLATE_RES_PAR_SLOT⟩,
    ⟨4, 1, fun _ => Reg.STP_XLATE_RES_DATA_IDX⟩,
    ⟨4, 1, fun _ => Reg.STP_XLATE_RES_GROUP⟩,
    ⟨4, 1, fun _ => Reg.STP_XLATE_RES_OUT_OF_RANGE⟩,
    ⟨4, 1, fun _ => Reg.STP_XLATE_RES_NO_VOLUME⟩,
    ⟨4, 1, fun _ => Reg.STP_XLATE_RES_DONE⟩,
    ⟨4, 1, fun _ => Reg.STP_XLATE_OFF_LO_OFF⟩,
    ⟨4, 1, fun _ => Reg.STP_XLATE_OFF_HI_OFF⟩,
    ⟨4, 1, fun _ => Reg.STP_XLATE_MOFF_LO_MOFF⟩,
    ⟨4, 1, fun _ => Reg.STP_XLATE_MOFF_HI_MOFF⟩,
    ⟨0x40, 4, Reg.STP_ARRAY_CFG_VALID⟩,
    ⟨0x40, 4, Reg.STP_ARRAY_CFG_GEN1⟩,
    ⟨0x40, 4, Reg.STP_ARRAY_CFG_LAYOUT⟩,
    ⟨0x40, 4, Reg.STP_ARRAY_CFG_UNIT_SHIFT⟩,
    ⟨0x40, 4, Reg.STP_ARRAY_CFG_NGROUP_M1⟩,
    ⟨0x40, 4, Reg.STP_ARRAY_CFG_DPG_M1⟩,
    ⟨0x40, 4, Reg.STP_ARRAY_CFG_NGLOBAL⟩,
    ⟨0x40, 4, Reg.STP_ARRAY_CFG_TOL⟩ ]

/-- Rows 24 and on of chapter 02. -/
def Reg.rows02_1 : List FieldRow :=
  [ ⟨0x40, 4, Reg.STP_ARRAY_CFG_CFG_ERR⟩,
    ⟨0x40, 4, Reg.STP_ARRAY_HDR_HDR_MIB⟩,
    ⟨0x40, 4, Reg.STP_ARRAY_ROWS_LO_ROWS⟩,
    ⟨0x40, 4, Reg.STP_ARRAY_ROWS_HI_ROWS⟩,
    ⟨4, 4, Reg.STP_ARRAY_SLOTMAP_SLOTS 0⟩,
    ⟨4, 4, Reg.STP_ARRAY_SLOTMAP_SLOTS 1⟩,
    ⟨4, 4, Reg.STP_ARRAY_SLOTMAP_SLOTS 2⟩,
    ⟨4, 4, Reg.STP_ARRAY_SLOTMAP_SLOTS 3⟩,
    ⟨4, 4, Reg.STP_ARRAY_ERASED_SLOTS 0⟩,
    ⟨4, 4, Reg.STP_ARRAY_ERASED_SLOTS 1⟩,
    ⟨4, 4, Reg.STP_ARRAY_ERASED_SLOTS 2⟩,
    ⟨4, 4, Reg.STP_ARRAY_ERASED_SLOTS 3⟩,
    ⟨0x40, 4, Reg.STP_ARRAY_EVAL_PHASE_FAIL⟩,
    ⟨0x40, 4, Reg.STP_ARRAY_EVAL_MAX_DEFICIT⟩,
    ⟨0x40, 4, Reg.STP_ARRAY_EVAL_STALE⟩,
    ⟨0x40, 4, Reg.STP_ARRAY_EVAL_BUSY⟩,
    ⟨0x40, 4, Reg.STP_ARRAY_EVAL_START⟩,
    ⟨0x20, 64, Reg.STP_VOL_CFG_VALID⟩,
    ⟨0x20, 64, Reg.STP_VOL_CFG_ARRAY⟩,
    ⟨0x20, 64, Reg.STP_VOL_CFG_RANGE_ERR⟩,
    ⟨0x20, 64, Reg.STP_VOL_BASE_LO_BASE⟩,
    ⟨0x20, 64, Reg.STP_VOL_BASE_HI_BASE⟩,
    ⟨0x20, 64, Reg.STP_VOL_ROWS_LO_ROWS⟩,
    ⟨0x20, 64, Reg.STP_VOL_ROWS_HI_ROWS⟩ ]

/-- Rows 0 and on of chapter 03. -/
def Reg.rows03_0 : List FieldRow :=
  [ ⟨4, 1, fun _ => Reg.OXE_CTRL_ENABLE⟩,
    ⟨4, 1, fun _ => Reg.OXE_CTRL_SHADOW_SHIFT⟩,
    ⟨4, 1, fun _ => Reg.OXE_CTRL_TARGET⟩,
    ⟨4, 1, fun _ => Reg.OXE_STATUS_NSERVICE⟩,
    ⟨4, 1, fun _ => Reg.OXE_STATUS_NSPARE⟩,
    ⟨4, 1, fun _ => Reg.OXE_STATUS_NRETIRED⟩,
    ⟨4, 1, fun _ => Reg.OXE_AGE_LIMIT⟩,
    ⟨4, 1, fun _ => Reg.OXE_SIDECAR_BASE_LO_LOWZERO⟩,
    ⟨4, 1, fun _ => Reg.OXE_SIDECAR_BASE_LO_BASE⟩,
    ⟨4, 1, fun _ => Reg.OXE_SIDECAR_BASE_HI_BASE⟩,
    ⟨4, 1, fun _ => Reg.OXE_DIGEST_BASE_LO_LOWZERO⟩,
    ⟨4, 1, fun _ => Reg.OXE_DIGEST_BASE_LO_BASE⟩,
    ⟨4, 1, fun _ => Reg.OXE_DIGEST_BASE_HI_BASE⟩,
    ⟨0x4, 4, Reg.OXE_ENG_STATE_STATE0⟩,
    ⟨0x4, 4, Reg.OXE_ENG_STATE_STATE1⟩,
    ⟨0x4, 4, Reg.OXE_ENG_STATE_STATE2⟩,
    ⟨0x4, 4, Reg.OXE_ENG_STATE_STATE3⟩,
    ⟨0x4, 3, Reg.OXE_ENG_STATE_STATE4⟩,
    ⟨0x4, 3, Reg.OXE_ENG_STATE_STATE5⟩,
    ⟨0x4, 3, Reg.OXE_ENG_STATE_STATE6⟩,
    ⟨0x4, 3, Reg.OXE_ENG_STATE_STATE7⟩,
    ⟨4, 1, fun _ => Reg.OXE_EVENT_DESC_ERROR⟩,
    ⟨4, 1, fun _ => Reg.OXE_EVENT_EN_DESC_ERROR⟩,
    ⟨4, 1, fun _ => Reg.OXE_EVENT_SHADOW_MISMATCH⟩ ]

/-- Rows 24 and on of chapter 03. -/
def Reg.rows03_1 : List FieldRow :=
  [ ⟨4, 1, fun _ => Reg.OXE_EVENT_EN_SHADOW_MISMATCH⟩,
    ⟨4, 1, fun _ => Reg.OXE_EVENT_ENGINE_RETIRED⟩,
    ⟨4, 1, fun _ => Reg.OXE_EVENT_EN_ENGINE_RETIRED⟩,
    ⟨4, 1, fun _ => Reg.OXE_EVENT_SPARE_IN⟩,
    ⟨4, 1, fun _ => Reg.OXE_EVENT_EN_SPARE_IN⟩,
    ⟨4, 1, fun _ => Reg.OXE_EVENT_PLAN_MISS⟩,
    ⟨4, 1, fun _ => Reg.OXE_EVENT_EN_PLAN_MISS⟩,
    ⟨4, 1, fun _ => Reg.OXE_EVENT_ACC_UE⟩,
    ⟨4, 1, fun _ => Reg.OXE_EVENT_EN_ACC_UE⟩,
    ⟨4, 1, fun _ => Reg.OXE_JOB_CNT⟩,
    ⟨4, 1, fun _ => Reg.OXE_SHADOW_JOB_CNT⟩,
    ⟨4, 1, fun _ => Reg.OXE_SHADOW_MISMATCH_CNT⟩,
    ⟨4, 1, fun _ => Reg.OXE_SHADOW_TRANSIENT_CNT⟩,
    ⟨4, 1, fun _ => Reg.OXE_RETIRE_CNT⟩,
    ⟨4, 1, fun _ => Reg.OXE_SPARE_IN_CNT⟩,
    ⟨4, 1, fun _ => Reg.OXE_DESC_ERROR_CNT⟩,
    ⟨4, 1, fun _ => Reg.OXE_PLAN_MISS_CNT⟩,
    ⟨4, 1, fun _ => Reg.OXE_ACC_UE_CNT⟩,
    ⟨4, 1, fun _ => Reg.OXE_ACC_REFUSED_CNT⟩,
    ⟨4, 1, fun _ => Reg.OXE_COEF_ADDR_LOWZERO⟩,
    ⟨4, 1, fun _ => Reg.OXE_COEF_ADDR_ADDR⟩,
    ⟨4, 1, fun _ => Reg.OXE_COEF_DATA_DATA⟩,
    ⟨0x4, 4, Reg.OXE_COEF_BUSY_BUSY⟩,
    ⟨0x20, 4, Reg.OXE_ARRAY_PLAN_CFG_GEN⟩ ]

/-- Rows 48 and on of chapter 03. -/
def Reg.rows03_2 : List FieldRow :=
  [ ⟨0x20, 4, Reg.OXE_ARRAY_PLAN_CFG_RETRY⟩,
    ⟨0x20, 4, Reg.OXE_ARRAY_PLAN_LO_LOWZERO⟩,
    ⟨0x20, 4, Reg.OXE_ARRAY_PLAN_LO_PLAN⟩,
    ⟨0x20, 4, Reg.OXE_ARRAY_PLAN_HI_PLAN⟩,
    ⟨0x20, 4, Reg.OXE_ARRAY_MISS_PHASE⟩,
    ⟨0x20, 4, Reg.OXE_ARRAY_MISS_GROUP⟩,
    ⟨0x40, 16, Reg.OXE_RING_CFG_ENABLE⟩,
    ⟨0x40, 16, Reg.OXE_RING_CFG_CLASS⟩,
    ⟨0x40, 16, Reg.OXE_RING_CFG_SIZE_M1⟩,
    ⟨0x40, 16, Reg.OXE_RING_MASK_MASK⟩,
    ⟨0x40, 16, Reg.OXE_RING_BASE_LO_LOWZERO⟩,
    ⟨0x40, 16, Reg.OXE_RING_BASE_LO_BASE⟩,
    ⟨0x40, 16, Reg.OXE_RING_BASE_HI_BASE⟩,
    ⟨0x40, 16, Reg.OXE_RING_CQ_BASE_LO_LOWZERO⟩,
    ⟨0x40, 16, Reg.OXE_RING_CQ_BASE_LO_BASE⟩,
    ⟨0x40, 16, Reg.OXE_RING_CQ_BASE_HI_BASE⟩,
    ⟨0x40, 16, Reg.OXE_RING_TAIL_TAIL⟩,
    ⟨0x40, 16, Reg.OXE_RING_HEAD_HEAD⟩,
    ⟨0x40, 16, Reg.OXE_RING_CQ_TAIL_CQ_TAIL⟩,
    ⟨0x40, 16, Reg.OXE_RING_CQ_HEAD_CQ_HEAD⟩,
    ⟨0x40, 16, Reg.OXE_RING_STATUS_DONE⟩,
    ⟨0x40, 16, Reg.OXE_RING_STATUS_MASK_FALLBACK⟩,
    ⟨0x40, 16, Reg.OXE_RING_DONE_CNT⟩,
    ⟨0x40, 16, Reg.OXE_RING_FALLBACK_CNT⟩ ]

/-- Rows 72 and on of chapter 03. -/
def Reg.rows03_3 : List FieldRow :=
  [ ⟨0x100, 28, Reg.OXE_ENG_CTRL_PAUSE⟩,
    ⟨0x100, 28, Reg.OXE_ENG_CTRL_RETIRE⟩,
    ⟨0x100, 28, Reg.OXE_ENG_CTRL_TEST⟩,
    ⟨0x100, 28, Reg.OXE_ENG_INFO_QDEPTH⟩,
    ⟨0x100, 28, Reg.OXE_ENG_INFO_BUSY⟩,
    ⟨0x100, 28, Reg.OXE_ENG_INFO_SLOT⟩,
    ⟨0x100, 28, Reg.OXE_ENG_INFO_TEST_DONE⟩,
    ⟨0x100, 28, Reg.OXE_ENG_INFO_TEST_PASS⟩,
    ⟨0x100, 28, Reg.OXE_ENG_JOB_CNT⟩,
    ⟨0x100, 28, Reg.OXE_ENG_BLOCK_CNT⟩,
    ⟨0x100, 28, Reg.OXE_ENG_STALL_US_CNT⟩,
    ⟨0x100, 28, Reg.OXE_ENG_ACC_CE_CNT⟩,
    ⟨0x100, 28, Reg.OXE_ENG_ACC_UE_CNT⟩,
    ⟨0x100, 28, Reg.OXE_ENG_STRIKE_CNT⟩ ]

/-- Rows 0 and on of chapter 04. -/
def Reg.rows04_0 : List FieldRow :=
  [ ⟨4, 1, fun _ => Reg.JNL_CTRL_ENABLE⟩,
    ⟨4, 1, fun _ => Reg.JNL_CTRL_REPLAY_DONE⟩,
    ⟨4, 1, fun _ => Reg.JNL_CTRL_FORCE_WT⟩,
    ⟨4, 1, fun _ => Reg.JNL_CTRL_PARTNER_LIVE⟩,
    ⟨4, 1, fun _ => Reg.JNL_CTRL_PACK_HEALTHY⟩,
    ⟨4, 1, fun _ => Reg.JNL_STATUS_LEVEL⟩,
    ⟨4, 1, fun _ => Reg.JNL_STATUS_EXPOSED⟩,
    ⟨4, 1, fun _ => Reg.JNL_STATUS_STAGING_FULL⟩,
    ⟨4, 1, fun _ => Reg.JNL_STATUS_TABLE_FULL⟩,
    ⟨4, 1, fun _ => Reg.JNL_STATUS_ADMIT_STOP⟩,
    ⟨4, 1, fun _ => Reg.JNL_STATUS_ALLOC_BLOCKED⟩,
    ⟨4, 1, fun _ => Reg.JNL_EVENT_LEVEL_CHANGE⟩,
    ⟨4, 1, fun _ => Reg.JNL_EVENT_EN_LEVEL_CHANGE⟩,
    ⟨4, 1, fun _ => Reg.JNL_EVENT_EXPOSED⟩,
    ⟨4, 1, fun _ => Reg.JNL_EVENT_EN_EXPOSED⟩,
    ⟨4, 1, fun _ => Reg.JNL_EVENT_STAGING_FULL⟩,
    ⟨4, 1, fun _ => Reg.JNL_EVENT_EN_STAGING_FULL⟩,
    ⟨4, 1, fun _ => Reg.JNL_EVENT_TABLE_FULL⟩,
    ⟨4, 1, fun _ => Reg.JNL_EVENT_EN_TABLE_FULL⟩,
    ⟨4, 1, fun _ => Reg.JNL_EVENT_IMAGE_LOST⟩,
    ⟨4, 1, fun _ => Reg.JNL_EVENT_EN_IMAGE_LOST⟩,
    ⟨4, 1, fun _ => Reg.JNL_EVENT_ENTRY_CRC⟩,
    ⟨4, 1, fun _ => Reg.JNL_EVENT_EN_ENTRY_CRC⟩,
    ⟨4, 1, fun _ => Reg.JNL_CEILING_CEIL_MIB⟩ ]

/-- Rows 24 and on of chapter 04. -/
def Reg.rows04_1 : List FieldRow :=
  [ ⟨4, 1, fun _ => Reg.JNL_DIRTY_DIRTY_MIB⟩,
    ⟨4, 1, fun _ => Reg.JNL_SEQ_SEQ⟩,
    ⟨4, 1, fun _ => Reg.JNL_OPEN_ENTRIES⟩,
    ⟨4, 1, fun _ => Reg.JNL_STAGE_USED_USED_MIB⟩,
    ⟨4, 1, fun _ => Reg.JNL_ALLOC_NEXT⟩,
    ⟨4, 1, fun _ => Reg.JNL_ALLOC_GO⟩,
    ⟨4, 1, fun _ => Reg.JNL_ALLOC_RES_INDEX⟩,
    ⟨4, 1, fun _ => Reg.JNL_ALLOC_RES_VALID⟩,
    ⟨4, 1, fun _ => Reg.JNL_IMAGE_PRESENT⟩,
    ⟨4, 1, fun _ => Reg.JNL_IMAGE_SEALED⟩,
    ⟨4, 1, fun _ => Reg.JNL_IMAGE_VALID⟩,
    ⟨4, 1, fun _ => Reg.JNL_OPENED_CNT⟩,
    ⟨4, 1, fun _ => Reg.JNL_RETIRED_CNT⟩,
    ⟨4, 1, fun _ => Reg.JNL_LEVEL_CHANGE_CNT⟩,
    ⟨4, 1, fun _ => Reg.JNL_EXPOSED_CNT⟩,
    ⟨4, 1, fun _ => Reg.JNL_STAGING_FULL_CNT⟩,
    ⟨4, 1, fun _ => Reg.JNL_TABLE_FULL_CNT⟩,
    ⟨4, 1, fun _ => Reg.JNL_IMAGE_LOST_CNT⟩,
    ⟨4, 1, fun _ => Reg.JNL_ENTRY_CRC_CNT⟩ ]

/-- Rows 0 and on of chapter 05. -/
def Reg.rows05_0 : List FieldRow :=
  [ ⟨4, 1, fun _ => Reg.SAS_CTRL_ENABLE⟩,
    ⟨4, 1, fun _ => Reg.SAS_CTRL_RIW_EN⟩,
    ⟨4, 1, fun _ => Reg.SAS_TIMEOUT_CMD_MS⟩,
    ⟨4, 1, fun _ => Reg.SAS_EVENT_WAKE_REQ⟩,
    ⟨4, 1, fun _ => Reg.SAS_EVENT_EN_WAKE_REQ⟩,
    ⟨4, 1, fun _ => Reg.SAS_EVENT_ESCALATE⟩,
    ⟨4, 1, fun _ => Reg.SAS_EVENT_EN_ESCALATE⟩,
    ⟨4, 1, fun _ => Reg.SAS_EVENT_MEDIA_ERR⟩,
    ⟨4, 1, fun _ => Reg.SAS_EVENT_EN_MEDIA_ERR⟩,
    ⟨4, 1, fun _ => Reg.SAS_EVENT_TIMEOUT⟩,
    ⟨4, 1, fun _ => Reg.SAS_EVENT_EN_TIMEOUT⟩,
    ⟨4, 1, fun _ => Reg.SAS_EVENT_LINK_DOWN⟩,
    ⟨4, 1, fun _ => Reg.SAS_EVENT_EN_LINK_DOWN⟩,
    ⟨4, 1, fun _ => Reg.SAS_EVENT_FW_DONE⟩,
    ⟨4, 1, fun _ => Reg.SAS_EVENT_EN_FW_DONE⟩,
    ⟨4, 1, fun _ => Reg.SAS_EVENT_FRONTIER_DONE⟩,
    ⟨4, 1, fun _ => Reg.SAS_EVENT_EN_FRONTIER_DONE⟩,
    ⟨0x4, 4, Reg.SAS_WAKE_PEND_SLOTS⟩,
    ⟨4, 1, fun _ => Reg.SAS_WAKE_RETRY_SLOT⟩,
    ⟨4, 1, fun _ => Reg.SAS_WAKE_RETRY_DENY⟩,
    ⟨4, 1, fun _ => Reg.SAS_WAKE_RETRY_GO⟩,
    ⟨4, 1, fun _ => Reg.SAS_WAKE_REQ_CNT⟩,
    ⟨4, 1, fun _ => Reg.SAS_ESCALATE_CNT⟩,
    ⟨4, 1, fun _ => Reg.SAS_MEDIA_ERR_CNT⟩ ]

/-- Rows 24 and on of chapter 05. -/
def Reg.rows05_1 : List FieldRow :=
  [ ⟨4, 1, fun _ => Reg.SAS_TIMEOUT_CNT⟩,
    ⟨4, 1, fun _ => Reg.SAS_LINK_DOWN_CNT⟩,
    ⟨4, 1, fun _ => Reg.SAS_FW_DONE_CNT⟩,
    ⟨4, 1, fun _ => Reg.SAS_FRONTIER_DONE_CNT⟩,
    ⟨4, 1, fun _ => Reg.SAS_RIW_UNIT_CNT⟩,
    ⟨4, 1, fun _ => Reg.SAS_DEGRADED_UNIT_CNT⟩,
    ⟨4, 1, fun _ => Reg.SAS_LOST_READ_CNT⟩,
    ⟨4, 1, fun _ => Reg.SAS_HOLD_FULL_CNT⟩,
    ⟨4, 1, fun _ => Reg.SAS_FW_CFG_ENABLE⟩,
    ⟨4, 1, fun _ => Reg.SAS_FW_CFG_SIZE_M1⟩,
    ⟨4, 1, fun _ => Reg.SAS_FW_BASE_LO_LOWZERO⟩,
    ⟨4, 1, fun _ => Reg.SAS_FW_BASE_LO_BASE⟩,
    ⟨4, 1, fun _ => Reg.SAS_FW_BASE_HI_BASE⟩,
    ⟨4, 1, fun _ => Reg.SAS_FW_TAIL_TAIL⟩,
    ⟨4, 1, fun _ => Reg.SAS_FW_HEAD_HEAD⟩,
    ⟨4, 1, fun _ => Reg.SAS_FW_CQ_BASE_LO_LOWZERO⟩,
    ⟨4, 1, fun _ => Reg.SAS_FW_CQ_BASE_LO_BASE⟩,
    ⟨4, 1, fun _ => Reg.SAS_FW_CQ_BASE_HI_BASE⟩,
    ⟨4, 1, fun _ => Reg.SAS_FW_CQ_TAIL_CQ_TAIL⟩,
    ⟨4, 1, fun _ => Reg.SAS_FW_CQ_HEAD_CQ_HEAD⟩,
    ⟨4, 1, fun _ => Reg.SAS_ESC_CFG_SIZE_M1⟩,
    ⟨4, 1, fun _ => Reg.SAS_ESC_BASE_LO_LOWZERO⟩,
    ⟨4, 1, fun _ => Reg.SAS_ESC_BASE_LO_BASE⟩,
    ⟨4, 1, fun _ => Reg.SAS_ESC_BASE_HI_BASE⟩ ]

/-- Rows 48 and on of chapter 05. -/
def Reg.rows05_2 : List FieldRow :=
  [ ⟨4, 1, fun _ => Reg.SAS_ESC_TAIL_TAIL⟩,
    ⟨4, 1, fun _ => Reg.SAS_ESC_HEAD_HEAD⟩,
    ⟨4, 1, fun _ => Reg.SAS_ESC_DONE_PIECE⟩,
    ⟨4, 1, fun _ => Reg.SAS_ESC_DONE_OUTCOME⟩,
    ⟨4, 1, fun _ => Reg.SAS_ESC_DONE_GO⟩,
    ⟨0x4, 8, Reg.SAS_SUB_LOGICAL⟩,
    ⟨0x4, 8, Reg.SAS_SUB_PHYSICAL⟩,
    ⟨0x4, 8, Reg.SAS_SUB_VALID⟩,
    ⟨0x20, 8, Reg.SAS_RBD_CFG_ENABLE⟩,
    ⟨0x20, 8, Reg.SAS_RBD_CFG_MODE⟩,
    ⟨0x20, 8, Reg.SAS_RBD_CFG_ARRAY⟩,
    ⟨0x20, 8, Reg.SAS_RBD_CFG_SLOT⟩,
    ⟨0x20, 8, Reg.SAS_RBD_CFG_DONE⟩,
    ⟨0x20, 8, Reg.SAS_RBD_FRONT_LO_FRONT⟩,
    ⟨0x20, 8, Reg.SAS_RBD_FRONT_HI_FRONT⟩,
    ⟨0x20, 8, Reg.SAS_RBD_WIN_LO_WIN⟩,
    ⟨0x20, 8, Reg.SAS_RBD_WIN_HI_WIN⟩,
    ⟨0x40, 108, Reg.SAS_SLOT_CTRL_AWAKE⟩,
    ⟨0x40, 108, Reg.SAS_SLOT_STATUS_LINK_UP⟩,
    ⟨0x40, 108, Reg.SAS_SLOT_STATUS_RATE⟩,
    ⟨0x40, 108, Reg.SAS_SLOT_STATUS_OPEN⟩,
    ⟨0x40, 108, Reg.SAS_SLOT_READ_BLK_CNT⟩,
    ⟨0x40, 108, Reg.SAS_SLOT_WRITE_BLK_CNT⟩,
    ⟨0x40, 108, Reg.SAS_SLOT_MEDIA_ERR_CNT⟩ ]

/-- Rows 72 and on of chapter 05. -/
def Reg.rows05_3 : List FieldRow :=
  [ ⟨0x40, 108, Reg.SAS_SLOT_TIMEOUT_CNT⟩,
    ⟨0x40, 108, Reg.SAS_SLOT_LINK_DOWN_CNT⟩,
    ⟨0x40, 108, Reg.SAS_SLOT_RIW_BLK_CNT⟩ ]

/-- Rows 0 and on of chapter 06. -/
def Reg.rows06_0 : List FieldRow :=
  [ ⟨4, 1, fun _ => Reg.INT_CTRL_EGRESS_REREAD⟩,
    ⟨4, 1, fun _ => Reg.INT_INJECT_KIND⟩,
    ⟨4, 1, fun _ => Reg.INT_INJECT_GO⟩,
    ⟨4, 1, fun _ => Reg.INT_EVENT_HOST_GUARD⟩,
    ⟨4, 1, fun _ => Reg.INT_EVENT_EN_HOST_GUARD⟩,
    ⟨4, 1, fun _ => Reg.INT_EVENT_REF_TAG⟩,
    ⟨4, 1, fun _ => Reg.INT_EVENT_EN_REF_TAG⟩,
    ⟨4, 1, fun _ => Reg.INT_EVENT_MIRROR_CRC⟩,
    ⟨4, 1, fun _ => Reg.INT_EVENT_EN_MIRROR_CRC⟩,
    ⟨4, 1, fun _ => Reg.INT_EVENT_STAGING_CRC⟩,
    ⟨4, 1, fun _ => Reg.INT_EVENT_EN_STAGING_CRC⟩,
    ⟨4, 1, fun _ => Reg.INT_EVENT_SIDECAR_ENGINE⟩,
    ⟨4, 1, fun _ => Reg.INT_EVENT_EN_SIDECAR_ENGINE⟩,
    ⟨4, 1, fun _ => Reg.INT_EVENT_T10_RX⟩,
    ⟨4, 1, fun _ => Reg.INT_EVENT_EN_T10_RX⟩,
    ⟨4, 1, fun _ => Reg.INT_EVENT_APP_TAG⟩,
    ⟨4, 1, fun _ => Reg.INT_EVENT_EN_APP_TAG⟩,
    ⟨4, 1, fun _ => Reg.INT_EVENT_SIDECAR_EGRESS⟩,
    ⟨4, 1, fun _ => Reg.INT_EVENT_EN_SIDECAR_EGRESS⟩,
    ⟨4, 1, fun _ => Reg.INT_EVENT_DIRTY_LOST⟩,
    ⟨4, 1, fun _ => Reg.INT_EVENT_EN_DIRTY_LOST⟩,
    ⟨4, 1, fun _ => Reg.INT_LAST_HOST_VOL⟩,
    ⟨4, 1, fun _ => Reg.INT_LAST_HOST_KIND⟩,
    ⟨4, 1, fun _ => Reg.INT_LAST_HOST_SQ_ID⟩ ]

/-- Rows 24 and on of chapter 06. -/
def Reg.rows06_1 : List FieldRow :=
  [ ⟨4, 1, fun _ => Reg.INT_LAST_LBA_LO_LBA⟩,
    ⟨4, 1, fun _ => Reg.INT_LAST_LBA_HI_LBA⟩,
    ⟨4, 1, fun _ => Reg.INT_HOST_GUARD_CNT⟩,
    ⟨4, 1, fun _ => Reg.INT_REF_TAG_CNT⟩,
    ⟨4, 1, fun _ => Reg.INT_MIRROR_CRC_CNT⟩,
    ⟨4, 1, fun _ => Reg.INT_STAGING_CRC_CNT⟩,
    ⟨4, 1, fun _ => Reg.INT_SIDECAR_ENGINE_CNT⟩,
    ⟨4, 1, fun _ => Reg.INT_T10_RX_CNT⟩,
    ⟨4, 1, fun _ => Reg.INT_APP_TAG_CNT⟩,
    ⟨4, 1, fun _ => Reg.INT_SIDECAR_EGRESS_CNT⟩,
    ⟨4, 1, fun _ => Reg.INT_DIRTY_LOST_CNT⟩,
    ⟨4, 1, fun _ => Reg.INT_BLOCKS_CHECKED_CNT⟩ ]

/-- Rows 0 and on of chapter 07. -/
def Reg.rows07_0 : List FieldRow :=
  [ ⟨4, 1, fun _ => Reg.QMX_CTRL_EN⟩,
    ⟨4, 1, fun _ => Reg.QMX_STATUS_RDY⟩,
    ⟨4, 1, fun _ => Reg.QMX_STATUS_CQ_STALL⟩,
    ⟨4, 1, fun _ => Reg.QMX_STATUS_SLOTS_FULL⟩,
    ⟨4, 1, fun _ => Reg.QMX_STATUS_CFG_ERR⟩,
    ⟨4, 1, fun _ => Reg.QMX_ADMIN_CFG_SIZE_M1⟩,
    ⟨4, 1, fun _ => Reg.QMX_ADMIN_SQ_BASE_LO_LOWZERO⟩,
    ⟨4, 1, fun _ => Reg.QMX_ADMIN_SQ_BASE_LO_BASE⟩,
    ⟨4, 1, fun _ => Reg.QMX_ADMIN_SQ_BASE_HI_BASE⟩,
    ⟨4, 1, fun _ => Reg.QMX_ADMIN_CQ_BASE_LO_LOWZERO⟩,
    ⟨4, 1, fun _ => Reg.QMX_ADMIN_CQ_BASE_LO_BASE⟩,
    ⟨4, 1, fun _ => Reg.QMX_ADMIN_CQ_BASE_HI_BASE⟩,
    ⟨4, 1, fun _ => Reg.QMX_DB_BASE_LO_LOWZERO⟩,
    ⟨4, 1, fun _ => Reg.QMX_DB_BASE_LO_BASE⟩,
    ⟨4, 1, fun _ => Reg.QMX_DB_BASE_HI_BASE⟩,
    ⟨4, 1, fun _ => Reg.QMX_ADMIN_SQ_TAIL_INDEX⟩,
    ⟨4, 1, fun _ => Reg.QMX_ADMIN_CQ_HEAD_INDEX⟩,
    ⟨4, 1, fun _ => Reg.QMX_POLL_STATUS_INTERVAL_US⟩,
    ⟨4, 1, fun _ => Reg.QMX_POLL_STATUS_QUEUES⟩,
    ⟨4, 1, fun _ => Reg.QMX_KICK_KICK⟩,
    ⟨4, 1, fun _ => Reg.QMX_EVENT_IGNORED⟩,
    ⟨4, 1, fun _ => Reg.QMX_EVENT_EN_IGNORED⟩,
    ⟨4, 1, fun _ => Reg.QMX_EVENT_CQ_STALL⟩,
    ⟨4, 1, fun _ => Reg.QMX_EVENT_EN_CQ_STALL⟩ ]

/-- Rows 24 and on of chapter 07. -/
def Reg.rows07_1 : List FieldRow :=
  [ ⟨4, 1, fun _ => Reg.QMX_EVENT_HB_SKIP⟩,
    ⟨4, 1, fun _ => Reg.QMX_EVENT_EN_HB_SKIP⟩,
    ⟨4, 1, fun _ => Reg.QMX_IGN_LAST_KIND⟩,
    ⟨4, 1, fun _ => Reg.QMX_IGN_LAST_QID⟩,
    ⟨4, 1, fun _ => Reg.QMX_QSEL_QID⟩,
    ⟨4, 1, fun _ => Reg.QMX_QSTATE0_VALID⟩,
    ⟨4, 1, fun _ => Reg.QMX_QSTATE0_WEIGHT⟩,
    ⟨4, 1, fun _ => Reg.QMX_QSTATE0_BURST_M1⟩,
    ⟨4, 1, fun _ => Reg.QMX_QSTATE0_SIZE_M1⟩,
    ⟨4, 1, fun _ => Reg.QMX_QSTATE1_SQ_HEAD⟩,
    ⟨4, 1, fun _ => Reg.QMX_QSTATE1_SQ_TAIL⟩,
    ⟨4, 1, fun _ => Reg.QMX_QSTATE2_CQ_TAIL⟩,
    ⟨4, 1, fun _ => Reg.QMX_QSTATE2_CQ_HEAD⟩,
    ⟨4, 1, fun _ => Reg.QMX_QSTATE3_IN_FLIGHT⟩,
    ⟨4, 1, fun _ => Reg.QMX_QSTATE3_PHASE⟩,
    ⟨4, 1, fun _ => Reg.QMX_IGNORED_CNT⟩,
    ⟨4, 1, fun _ => Reg.QMX_CMD_FETCHED_CNT⟩,
    ⟨4, 1, fun _ => Reg.QMX_CMD_DONE_CNT⟩,
    ⟨4, 1, fun _ => Reg.QMX_CQ_STALL_CNT⟩,
    ⟨4, 1, fun _ => Reg.QMX_POLL_CNT⟩,
    ⟨4, 1, fun _ => Reg.QMX_HB_CNT⟩,
    ⟨4, 1, fun _ => Reg.QMX_HB_SKIP_CNT⟩,
    ⟨4, 1, fun _ => Reg.QMX_DELAYED_CNT⟩,
    ⟨4, 1, fun _ => Reg.QMX_FENCE_WAIT_CNT⟩ ]

/-- Rows 0 and on of chapter 09. -/
def Reg.rows09_0 : List FieldRow :=
  [ ⟨4, 1, fun _ => Reg.HIF_LINK_STATUS_SPEED⟩,
    ⟨4, 1, fun _ => Reg.HIF_LINK_STATUS_WIDTH⟩,
    ⟨4, 1, fun _ => Reg.HIF_LINK_STATUS_REVERSED⟩,
    ⟨4, 1, fun _ => Reg.HIF_LINK_STATUS_DEGRADED⟩,
    ⟨4, 1, fun _ => Reg.HIF_LINK_STATUS_FAILED_LANES⟩,
    ⟨4, 1, fun _ => Reg.HIF_LINK_CTRL_LANE_ERR_LIMIT⟩,
    ⟨4, 1, fun _ => Reg.HIF_LINK_CTRL_RESTORE⟩,
    ⟨4, 1, fun _ => Reg.HIF_HOST_EVENT_ADMIN_CQ⟩,
    ⟨4, 1, fun _ => Reg.HIF_HOST_EVENT_EN_ADMIN_CQ⟩,
    ⟨4, 1, fun _ => Reg.HIF_HOST_EVENT_FAULT⟩,
    ⟨4, 1, fun _ => Reg.HIF_HOST_EVENT_EN_FAULT⟩,
    ⟨4, 1, fun _ => Reg.HIF_HOST_EVENT_ROLE⟩,
    ⟨4, 1, fun _ => Reg.HIF_HOST_EVENT_EN_ROLE⟩,
    ⟨4, 1, fun _ => Reg.HIF_HOST_EVENT_PACK⟩,
    ⟨4, 1, fun _ => Reg.HIF_HOST_EVENT_EN_PACK⟩,
    ⟨4, 1, fun _ => Reg.HIF_HOST_EVENT_FABRIC⟩,
    ⟨4, 1, fun _ => Reg.HIF_HOST_EVENT_EN_FABRIC⟩,
    ⟨4, 1, fun _ => Reg.HIF_HOST_EVENT_POWER⟩,
    ⟨4, 1, fun _ => Reg.HIF_HOST_EVENT_EN_POWER⟩,
    ⟨4, 1, fun _ => Reg.HIF_HOST_RAISE_RAISE⟩,
    ⟨4, 1, fun _ => Reg.HIF_FW_EVENT_LINK_DOWN⟩,
    ⟨4, 1, fun _ => Reg.HIF_FW_EVENT_EN_LINK_DOWN⟩,
    ⟨4, 1, fun _ => Reg.HIF_FW_EVENT_LINK_DEGRADED⟩,
    ⟨4, 1, fun _ => Reg.HIF_FW_EVENT_EN_LINK_DEGRADED⟩ ]

/-- Rows 24 and on of chapter 09. -/
def Reg.rows09_1 : List FieldRow :=
  [ ⟨4, 1, fun _ => Reg.HIF_FW_EVENT_FLR⟩,
    ⟨4, 1, fun _ => Reg.HIF_FW_EVENT_EN_FLR⟩,
    ⟨4, 1, fun _ => Reg.HIF_FW_EVENT_BME_CLEARED⟩,
    ⟨4, 1, fun _ => Reg.HIF_FW_EVENT_EN_BME_CLEARED⟩,
    ⟨4, 1, fun _ => Reg.HIF_FW_EVENT_XLAT_FAULT⟩,
    ⟨4, 1, fun _ => Reg.HIF_FW_EVENT_EN_XLAT_FAULT⟩,
    ⟨4, 1, fun _ => Reg.HIF_FW_EVENT_HOST_READ_ERR⟩,
    ⟨4, 1, fun _ => Reg.HIF_FW_EVENT_EN_HOST_READ_ERR⟩,
    ⟨4, 1, fun _ => Reg.HIF_FW_EVENT_LANE_ERR⟩,
    ⟨4, 1, fun _ => Reg.HIF_FW_EVENT_EN_LANE_ERR⟩,
    ⟨4, 1, fun _ => Reg.HIF_IRQ_CTRL_SUMMARY_ON_MSIX⟩,
    ⟨4, 1, fun _ => Reg.HIF_IRQ_CTRL_ASSERTED⟩,
    ⟨4, 1, fun _ => Reg.HIF_INTX_BITMAP_LO_LOWZERO⟩,
    ⟨4, 1, fun _ => Reg.HIF_INTX_BITMAP_LO_ADDR⟩,
    ⟨4, 1, fun _ => Reg.HIF_INTX_BITMAP_HI_ADDR⟩,
    ⟨4, 1, fun _ => Reg.HIF_INTX_ACK_ACK⟩,
    ⟨4, 1, fun _ => Reg.HIF_XLAT_CTRL_HOST_WR_OK⟩,
    ⟨4, 1, fun _ => Reg.HIF_XLAT_SEL_INDEX⟩,
    ⟨4, 1, fun _ => Reg.HIF_XLAT_STAGE_STAGE⟩,
    ⟨4, 1, fun _ => Reg.HIF_XLAT_COMMIT_BUSY⟩,
    ⟨4, 1, fun _ => Reg.HIF_XLAT_COMMIT_REFUSED⟩,
    ⟨4, 1, fun _ => Reg.HIF_XLAT_COMMIT_GO⟩,
    ⟨0x4, 256, Reg.HIF_XLAT_ENTRY_VALID⟩,
    ⟨0x4, 256, Reg.HIF_XLAT_ENTRY_RD_EN⟩ ]

/-- Rows 48 and on of chapter 09. -/
def Reg.rows09_2 : List FieldRow :=
  [ ⟨0x4, 256, Reg.HIF_XLAT_ENTRY_WR_EN⟩,
    ⟨0x4, 256, Reg.HIF_XLAT_ENTRY_TARGET⟩,
    ⟨4, 1, fun _ => Reg.HIF_ADMIN_IRQ_CNT⟩,
    ⟨4, 1, fun _ => Reg.HIF_FAULT_CNT⟩,
    ⟨4, 1, fun _ => Reg.HIF_ROLE_CNT⟩,
    ⟨4, 1, fun _ => Reg.HIF_PACK_CNT⟩,
    ⟨4, 1, fun _ => Reg.HIF_FABRIC_CNT⟩,
    ⟨4, 1, fun _ => Reg.HIF_POWER_CNT⟩,
    ⟨4, 1, fun _ => Reg.HIF_LINK_DOWN_CNT⟩,
    ⟨4, 1, fun _ => Reg.HIF_DEGRADE_CNT⟩,
    ⟨4, 1, fun _ => Reg.HIF_FLR_CNT⟩,
    ⟨4, 1, fun _ => Reg.HIF_BME_CLEAR_CNT⟩,
    ⟨4, 1, fun _ => Reg.HIF_XLAT_FAULT_CNT⟩,
    ⟨4, 1, fun _ => Reg.HIF_HOST_READ_ERR_CNT⟩,
    ⟨4, 1, fun _ => Reg.HIF_INTX_ASSERT_CNT⟩,
    ⟨4, 1, fun _ => Reg.HIF_LANE_ERR_CNT⟩,
    ⟨0x10, 32, Reg.MSIX_ADDR_LO_ADDR⟩,
    ⟨0x10, 32, Reg.MSIX_ADDR_HI_ADDR⟩,
    ⟨0x10, 32, Reg.MSIX_DATA_DATA⟩,
    ⟨0x10, 32, Reg.MSIX_CTRL_MASK⟩,
    ⟨4, 1, fun _ => Reg.MSIX_PBA_LO_PENDING⟩,
    ⟨4, 1, fun _ => Reg.MSIX_PBA_HI_PENDING⟩ ]

/-- Rows 0 and on of chapter 10. -/
def Reg.rows10_0 : List FieldRow :=
  [ ⟨0x8, 108, Reg.SLT_CTRL_EN12⟩,
    ⟨0x8, 108, Reg.SLT_CTRL_EN5⟩,
    ⟨0x8, 108, Reg.SLT_CTRL_SPIN⟩,
    ⟨0x8, 108, Reg.SLT_CTRL_SHED_OK⟩,
    ⟨0x8, 108, Reg.SLT_CTRL_ILIM12⟩,
    ⟨0x8, 108, Reg.SLT_CTRL_ILIM5⟩,
    ⟨0x8, 108, Reg.SLT_STATUS_ON12⟩,
    ⟨0x8, 108, Reg.SLT_STATUS_ON5⟩,
    ⟨0x8, 108, Reg.SLT_STATUS_QUEUED⟩,
    ⟨0x8, 108, Reg.SLT_STATUS_SPIN_QUEUED⟩,
    ⟨0x8, 108, Reg.SLT_STATUS_SURGING⟩,
    ⟨0x8, 108, Reg.SLT_STATUS_PRESENT⟩,
    ⟨0x8, 108, Reg.SLT_STATUS_COOLDOWN⟩,
    ⟨0x8, 108, Reg.SLT_STATUS_PARTNER_ON⟩,
    ⟨0x8, 108, Reg.SLT_STATUS_FAULT12⟩,
    ⟨0x8, 108, Reg.SLT_STATUS_FAULT5⟩,
    ⟨0x8, 108, Reg.SLT_STATUS_SHED⟩,
    ⟨0x8, 108, Reg.SLT_STATUS_SPIN_TIMEOUT⟩,
    ⟨4, 1, fun _ => Reg.SLT_EVENT_PRESENT_CHANGE⟩,
    ⟨4, 1, fun _ => Reg.SLT_EVENT_EN_PRESENT_CHANGE⟩,
    ⟨4, 1, fun _ => Reg.SLT_EVENT_FAULT⟩,
    ⟨4, 1, fun _ => Reg.SLT_EVENT_EN_FAULT⟩,
    ⟨4, 1, fun _ => Reg.SLT_EVENT_SHED⟩,
    ⟨4, 1, fun _ => Reg.SLT_EVENT_EN_SHED⟩ ]

/-- Rows 24 and on of chapter 10. -/
def Reg.rows10_1 : List FieldRow :=
  [ ⟨4, 1, fun _ => Reg.SLT_EVENT_SPIN_TIMEOUT⟩,
    ⟨4, 1, fun _ => Reg.SLT_EVENT_EN_SPIN_TIMEOUT⟩,
    ⟨4, 1, fun _ => Reg.SLT_CFG_SPIN_HOLD⟩,
    ⟨4, 1, fun _ => Reg.SLT_CFG_STAGGER_MS⟩,
    ⟨0x4, 4, Reg.SLT_PRESENT_SLOTS⟩,
    ⟨4, 1, fun _ => Reg.SLT_PRESENT_CHANGE_CNT⟩,
    ⟨4, 1, fun _ => Reg.SLT_FAULT_CNT⟩,
    ⟨4, 1, fun _ => Reg.SLT_SHED_CNT⟩,
    ⟨4, 1, fun _ => Reg.SLT_SPIN_TIMEOUT_CNT⟩,
    ⟨4, 1, fun _ => Reg.SLT_BAR0_DROP_CNT⟩,
    ⟨4, 1, fun _ => Reg.PWR_CTRL_CONV_EN⟩,
    ⟨4, 1, fun _ => Reg.PWR_CTRL_STANDBY_OFFSET⟩,
    ⟨4, 1, fun _ => Reg.PWR_CTRL_SHED_EN⟩,
    ⟨4, 1, fun _ => Reg.PWR_CTRL_GATE_EN⟩,
    ⟨4, 1, fun _ => Reg.PWR_STATUS_CONV_STATE⟩,
    ⟨4, 1, fun _ => Reg.PWR_STATUS_LINE_RANGE⟩,
    ⟨4, 1, fun _ => Reg.PWR_STATUS_MAINS_OK⟩,
    ⟨4, 1, fun _ => Reg.PWR_STATUS_OVERLOAD⟩,
    ⟨4, 1, fun _ => Reg.PWR_STATUS_DERATING⟩,
    ⟨4, 1, fun _ => Reg.PWR_LINE_VRMS⟩,
    ⟨4, 1, fun _ => Reg.PWR_LINE_FREQ⟩,
    ⟨4, 1, fun _ => Reg.PWR_CAP_CAP_W⟩,
    ⟨4, 1, fun _ => Reg.PWR_CAP_INLET⟩,
    ⟨4, 1, fun _ => Reg.PWR_OUT_BUS_MV⟩ ]

/-- Rows 48 and on of chapter 10. -/
def Reg.rows10_2 : List FieldRow :=
  [ ⟨4, 1, fun _ => Reg.PWR_OUT_OUT_DA⟩,
    ⟨4, 1, fun _ => Reg.PWR_DRAW_P_MOD_DW⟩,
    ⟨4, 1, fun _ => Reg.PWR_DRAW_P_SHELF_W⟩,
    ⟨4, 1, fun _ => Reg.PWR_FAN_W_P_FAN_DW⟩,
    ⟨4, 1, fun _ => Reg.PWR_BUDGET_GRANT_W⟩,
    ⟨4, 1, fun _ => Reg.PWR_BUDGET_MARGIN_W⟩,
    ⟨4, 1, fun _ => Reg.PWR_SPIN_P_DRIVE_DW⟩,
    ⟨4, 1, fun _ => Reg.PWR_SPIN_P_SURGE_DW⟩,
    ⟨4, 1, fun _ => Reg.PWR_SPIN_SURGE_W⟩,
    ⟨4, 1, fun _ => Reg.PWR_SPIN_STATUS_N_ON⟩,
    ⟨4, 1, fun _ => Reg.PWR_SPIN_STATUS_N_SURGE⟩,
    ⟨4, 1, fun _ => Reg.PWR_SPIN_STATUS_N_QUEUED⟩,
    ⟨4, 1, fun _ => Reg.PWR_SPIN_STATUS_HEADROOM_W⟩,
    ⟨4, 1, fun _ => Reg.PWR_EVENT_MAINS_LOST⟩,
    ⟨4, 1, fun _ => Reg.PWR_EVENT_EN_MAINS_LOST⟩,
    ⟨4, 1, fun _ => Reg.PWR_EVENT_MAINS_RETURN⟩,
    ⟨4, 1, fun _ => Reg.PWR_EVENT_EN_MAINS_RETURN⟩,
    ⟨4, 1, fun _ => Reg.PWR_EVENT_RANGE_CHANGE⟩,
    ⟨4, 1, fun _ => Reg.PWR_EVENT_EN_RANGE_CHANGE⟩,
    ⟨4, 1, fun _ => Reg.PWR_EVENT_CAP_CHANGE⟩,
    ⟨4, 1, fun _ => Reg.PWR_EVENT_EN_CAP_CHANGE⟩,
    ⟨4, 1, fun _ => Reg.PWR_EVENT_OVERLOAD⟩,
    ⟨4, 1, fun _ => Reg.PWR_EVENT_EN_OVERLOAD⟩,
    ⟨4, 1, fun _ => Reg.PWR_EVENT_CONV_FAULT⟩ ]

/-- Rows 72 and on of chapter 10. -/
def Reg.rows10_3 : List FieldRow :=
  [ ⟨4, 1, fun _ => Reg.PWR_EVENT_EN_CONV_FAULT⟩,
    ⟨4, 1, fun _ => Reg.PWR_MAINS_LOST_CNT⟩,
    ⟨4, 1, fun _ => Reg.PWR_MAINS_RETURN_CNT⟩,
    ⟨4, 1, fun _ => Reg.PWR_RANGE_CHANGE_CNT⟩,
    ⟨4, 1, fun _ => Reg.PWR_CAP_CHANGE_CNT⟩,
    ⟨4, 1, fun _ => Reg.PWR_OVERLOAD_CNT⟩,
    ⟨4, 1, fun _ => Reg.PWR_CONV_FAULT_CNT⟩,
    ⟨4, 1, fun _ => Reg.PWR_BAR0_DROP_CNT⟩,
    ⟨0x4, 108, Reg.PWR_SLOT_MEAS_I12_MA⟩,
    ⟨0x4, 108, Reg.PWR_SLOT_MEAS_I5_MA⟩ ]

/-- Rows 0 and on of chapter 11. -/
def Reg.rows11_0 : List FieldRow :=
  [ ⟨4, 1, fun _ => Reg.BAT_CTRL_CHG_EN⟩,
    ⟨4, 1, fun _ => Reg.BAT_CTRL_LEARN⟩,
    ⟨4, 1, fun _ => Reg.BAT_STATUS_PRESENT⟩,
    ⟨4, 1, fun _ => Reg.BAT_STATUS_CHARGING⟩,
    ⟨4, 1, fun _ => Reg.BAT_STATUS_CHG_DONE⟩,
    ⟨4, 1, fun _ => Reg.BAT_STATUS_AT_REST⟩,
    ⟨4, 1, fun _ => Reg.BAT_STATUS_REST_VALID⟩,
    ⟨4, 1, fun _ => Reg.BAT_STATUS_EOD⟩,
    ⟨4, 1, fun _ => Reg.BAT_STATUS_RATE⟩,
    ⟨4, 1, fun _ => Reg.BAT_STATUS_KEEP_OK⟩,
    ⟨4, 1, fun _ => Reg.BAT_STATUS_CHG_INHIBIT⟩,
    ⟨4, 1, fun _ => Reg.BAT_EVENT_PRESENT_CHANGE⟩,
    ⟨4, 1, fun _ => Reg.BAT_EVENT_EN_PRESENT_CHANGE⟩,
    ⟨4, 1, fun _ => Reg.BAT_EVENT_REST_VALID⟩,
    ⟨4, 1, fun _ => Reg.BAT_EVENT_EN_REST_VALID⟩,
    ⟨4, 1, fun _ => Reg.BAT_EVENT_EOD⟩,
    ⟨4, 1, fun _ => Reg.BAT_EVENT_EN_EOD⟩,
    ⟨4, 1, fun _ => Reg.BAT_EVENT_CHG_DONE⟩,
    ⟨4, 1, fun _ => Reg.BAT_EVENT_EN_CHG_DONE⟩,
    ⟨4, 1, fun _ => Reg.BAT_EVENT_CHG_FAULT⟩,
    ⟨4, 1, fun _ => Reg.BAT_EVENT_EN_CHG_FAULT⟩,
    ⟨4, 1, fun _ => Reg.BAT_EVENT_KEEP_LOW⟩,
    ⟨4, 1, fun _ => Reg.BAT_EVENT_EN_KEEP_LOW⟩,
    ⟨4, 1, fun _ => Reg.BAT_EVENT_STEP⟩ ]

/-- Rows 24 and on of chapter 11. -/
def Reg.rows11_1 : List FieldRow :=
  [ ⟨4, 1, fun _ => Reg.BAT_EVENT_EN_STEP⟩,
    ⟨4, 1, fun _ => Reg.BAT_VOLT_V_MV⟩,
    ⟨4, 1, fun _ => Reg.BAT_VOLT_TEMP⟩,
    ⟨4, 1, fun _ => Reg.BAT_CURR_I_MA⟩,
    ⟨4, 1, fun _ => Reg.BAT_COUNT_Q_UAH⟩,
    ⟨4, 1, fun _ => Reg.BAT_STEP_DV_MV⟩,
    ⟨4, 1, fun _ => Reg.BAT_STEP_DI_MA⟩,
    ⟨4, 1, fun _ => Reg.BAT_REST_REST_S⟩,
    ⟨4, 1, fun _ => Reg.BAT_REST_LIMIT_S⟩,
    ⟨4, 1, fun _ => Reg.BAT_EOD_R_EST_DMOHM⟩,
    ⟨4, 1, fun _ => Reg.BAT_EOD_V_SHUT_MV⟩,
    ⟨4, 1, fun _ => Reg.BAT_EST_RSOC⟩,
    ⟨4, 1, fun _ => Reg.BAT_EST_E_U⟩,
    ⟨4, 1, fun _ => Reg.BAT_EST_CAP_SUSPECT⟩,
    ⟨4, 1, fun _ => Reg.BAT_EST_CAP_UNLEARNED⟩,
    ⟨4, 1, fun _ => Reg.BAT_CAP_FCC_DMAH⟩,
    ⟨4, 1, fun _ => Reg.BAT_CAP_DESIGN_DMAH⟩,
    ⟨4, 1, fun _ => Reg.BAT_SMB_CTRL_CMD⟩,
    ⟨4, 1, fun _ => Reg.BAT_SMB_CTRL_LEN⟩,
    ⟨4, 1, fun _ => Reg.BAT_SMB_CTRL_READ⟩,
    ⟨4, 1, fun _ => Reg.BAT_SMB_CTRL_ERR⟩,
    ⟨4, 1, fun _ => Reg.BAT_SMB_CTRL_GO⟩,
    ⟨4, 1, fun _ => Reg.BAT_SMB_DATA_DATA⟩,
    ⟨4, 1, fun _ => Reg.BAT_KEEP_KEEP_MV⟩ ]

/-- Rows 48 and on of chapter 11. -/
def Reg.rows11_2 : List FieldRow :=
  [ ⟨4, 1, fun _ => Reg.BAT_KEEP_OK_MV⟩,
    ⟨4, 1, fun _ => Reg.BAT_PRESENT_CHANGE_CNT⟩,
    ⟨4, 1, fun _ => Reg.BAT_REST_VALID_CNT⟩,
    ⟨4, 1, fun _ => Reg.BAT_EOD_CNT⟩,
    ⟨4, 1, fun _ => Reg.BAT_CHG_DONE_CNT⟩,
    ⟨4, 1, fun _ => Reg.BAT_CHG_FAULT_CNT⟩,
    ⟨4, 1, fun _ => Reg.BAT_KEEP_LOW_CNT⟩,
    ⟨4, 1, fun _ => Reg.BAT_STEP_CNT⟩,
    ⟨4, 1, fun _ => Reg.BAT_BAR0_DROP_CNT⟩ ]

/-- Rows 0 and on of chapter 12. -/
def Reg.rows12_0 : List FieldRow :=
  [ ⟨4, 1, fun _ => Reg.FAN_CTRL_ENABLE⟩,
    ⟨4, 1, fun _ => Reg.FAN_CTRL_FIXED_EN⟩,
    ⟨4, 1, fun _ => Reg.FAN_CTRL_WDOG_EN⟩,
    ⟨4, 1, fun _ => Reg.FAN_CFG_FIXED_PCT⟩,
    ⟨4, 1, fun _ => Reg.FAN_CFG_FAILSAFE_PCT⟩,
    ⟨4, 1, fun _ => Reg.FAN_CFG_FAULT_FLOOR_PCT⟩,
    ⟨4, 1, fun _ => Reg.FAN_WDOG_PERIOD_S⟩,
    ⟨4, 1, fun _ => Reg.FAN_WDOG_EXPIRED⟩,
    ⟨4, 1, fun _ => Reg.FAN_TOKEN_HELD⟩,
    ⟨4, 1, fun _ => Reg.FAN_TOKEN_PARTNER⟩,
    ⟨4, 1, fun _ => Reg.FAN_TOKEN_CLAIM⟩,
    ⟨4, 1, fun _ => Reg.FAN_TOKEN_RELEASE⟩,
    ⟨4, 1, fun _ => Reg.FAN_TOKEN_REFUSED⟩,
    ⟨4, 1, fun _ => Reg.FAN_EVENT_OBS_LOSS⟩,
    ⟨4, 1, fun _ => Reg.FAN_EVENT_EN_OBS_LOSS⟩,
    ⟨4, 1, fun _ => Reg.FAN_EVENT_FAN_FAULT⟩,
    ⟨4, 1, fun _ => Reg.FAN_EVENT_EN_FAN_FAULT⟩,
    ⟨4, 1, fun _ => Reg.FAN_EVENT_MISSING_PHASE⟩,
    ⟨4, 1, fun _ => Reg.FAN_EVENT_EN_MISSING_PHASE⟩,
    ⟨4, 1, fun _ => Reg.FAN_EVENT_START_FAIL⟩,
    ⟨4, 1, fun _ => Reg.FAN_EVENT_EN_START_FAIL⟩,
    ⟨4, 1, fun _ => Reg.FAN_EVENT_VOLT_LIMIT⟩,
    ⟨4, 1, fun _ => Reg.FAN_EVENT_EN_VOLT_LIMIT⟩,
    ⟨4, 1, fun _ => Reg.FAN_EVENT_TOKEN_CHANGE⟩ ]

/-- Rows 24 and on of chapter 12. -/
def Reg.rows12_1 : List FieldRow :=
  [ ⟨4, 1, fun _ => Reg.FAN_EVENT_EN_TOKEN_CHANGE⟩,
    ⟨4, 1, fun _ => Reg.FAN_EVENT_WDOG⟩,
    ⟨4, 1, fun _ => Reg.FAN_EVENT_EN_WDOG⟩,
    ⟨4, 1, fun _ => Reg.FAN_STATUS_FAULT⟩,
    ⟨4, 1, fun _ => Reg.FAN_STATUS_VOLT_LIMIT⟩,
    ⟨4, 1, fun _ => Reg.FAN_STATUS_FLOOR_ACTIVE⟩,
    ⟨4, 1, fun _ => Reg.FAN_OBS_LOSS_CNT⟩,
    ⟨4, 1, fun _ => Reg.FAN_FAULT_CNT⟩,
    ⟨4, 1, fun _ => Reg.FAN_MISSING_PHASE_CNT⟩,
    ⟨4, 1, fun _ => Reg.FAN_START_FAIL_CNT⟩,
    ⟨4, 1, fun _ => Reg.FAN_VOLT_LIMIT_CNT⟩,
    ⟨4, 1, fun _ => Reg.FAN_TOKEN_CHANGE_CNT⟩,
    ⟨4, 1, fun _ => Reg.FAN_WDOG_CNT⟩,
    ⟨4, 1, fun _ => Reg.FAN_OVERCURRENT_CNT⟩,
    ⟨4, 1, fun _ => Reg.FAN_BAR0_DROP_CNT⟩,
    ⟨0x40, 6, Reg.FAN_CH_CFG_POLE_PAIRS⟩,
    ⟨0x40, 6, Reg.FAN_CH_CFG_P_RATED_W⟩,
    ⟨0x40, 6, Reg.FAN_CH_CFG_FULL_RPM_100⟩,
    ⟨0x40, 6, Reg.FAN_CH_CFG_ACCEL_100⟩,
    ⟨0x40, 6, Reg.FAN_CH_CFG2_ILIM_DA⟩,
    ⟨0x40, 6, Reg.FAN_CH_CFG2_RES_LIMIT⟩,
    ⟨0x40, 6, Reg.FAN_CH_DEMAND_DEMAND⟩,
    ⟨0x40, 6, Reg.FAN_CH_CTRL_RUN⟩,
    ⟨0x40, 6, Reg.FAN_CH_CTRL_RESTART⟩ ]

/-- Rows 48 and on of chapter 12. -/
def Reg.rows12_2 : List FieldRow :=
  [ ⟨0x40, 6, Reg.FAN_CH_STATE_STATE⟩,
    ⟨0x40, 6, Reg.FAN_CH_STATE_DIR⟩,
    ⟨0x40, 6, Reg.FAN_CH_STATE_VOLT_LIMIT⟩,
    ⟨0x40, 6, Reg.FAN_CH_STATE_FAULT_CAUSE⟩,
    ⟨0x40, 6, Reg.FAN_CH_STATE_APPLIED⟩,
    ⟨0x40, 6, Reg.FAN_CH_SPEED_RPM⟩,
    ⟨0x40, 6, Reg.FAN_CH_SPEED_REF⟩,
    ⟨0x40, 6, Reg.FAN_CH_POWER_P_REP_DW⟩,
    ⟨0x40, 6, Reg.FAN_CH_POWER_P_MEAS_DW⟩,
    ⟨0x40, 6, Reg.FAN_CH_IRMS_IA⟩,
    ⟨0x40, 6, Reg.FAN_CH_IRMS_IB⟩,
    ⟨0x40, 6, Reg.FAN_CH_IRMS_IC⟩,
    ⟨0x40, 6, Reg.FAN_CH_ANGLE_ANGLE⟩,
    ⟨0x40, 6, Reg.FAN_CH_LOSS_CNT⟩,
    ⟨0x40, 6, Reg.FAN_CH_PRED_CNT⟩ ]

/-- Rows 0 and on of chapter 13. -/
def Reg.rows13_0 : List FieldRow :=
  [ ⟨4, 1, fun _ => Reg.FOV_CTRL_HB_EN⟩,
    ⟨4, 1, fun _ => Reg.FOV_CTRL_CLAIM⟩,
    ⟨4, 1, fun _ => Reg.FOV_CTRL_RELEASE⟩,
    ⟨4, 1, fun _ => Reg.FOV_CTRL_RELINQUISH⟩,
    ⟨4, 1, fun _ => Reg.FOV_CTRL_HOLD⟩,
    ⟨4, 1, fun _ => Reg.FOV_CTRL_STANDBY_ROLE⟩,
    ⟨4, 1, fun _ => Reg.FOV_CTRL_PREF_B⟩,
    ⟨4, 1, fun _ => Reg.FOV_CTRL_REASON⟩,
    ⟨4, 1, fun _ => Reg.FOV_STATUS_ACTIVE_HELD⟩,
    ⟨4, 1, fun _ => Reg.FOV_STATUS_ACTIVE_LINE⟩,
    ⟨4, 1, fun _ => Reg.FOV_STATUS_REFUSED⟩,
    ⟨4, 1, fun _ => Reg.FOV_STATUS_LINE_OK⟩,
    ⟨4, 1, fun _ => Reg.FOV_STATUS_MIR_OK⟩,
    ⟨4, 1, fun _ => Reg.FOV_STATUS_PARTNER_LOST⟩,
    ⟨4, 1, fun _ => Reg.FOV_STATUS_FW_ALIVE⟩,
    ⟨4, 1, fun _ => Reg.FOV_STATUS_KEEPER_RELEASED⟩,
    ⟨4, 1, fun _ => Reg.FOV_STATUS_POSITION⟩,
    ⟨4, 1, fun _ => Reg.FOV_CFG_MISS_LIMIT⟩,
    ⟨4, 1, fun _ => Reg.FOV_CFG_FW_WDOG_MS⟩,
    ⟨4, 1, fun _ => Reg.FOV_CFG_GRACE_MS⟩,
    ⟨4, 1, fun _ => Reg.FOV_KICK_KICK⟩,
    ⟨4, 1, fun _ => Reg.FOV_EVENT_PARTNER_LOST⟩,
    ⟨4, 1, fun _ => Reg.FOV_EVENT_EN_PARTNER_LOST⟩,
    ⟨4, 1, fun _ => Reg.FOV_EVENT_RELINQUISH_RX⟩ ]

/-- Rows 24 and on of chapter 13. -/
def Reg.rows13_1 : List FieldRow :=
  [ ⟨4, 1, fun _ => Reg.FOV_EVENT_EN_RELINQUISH_RX⟩,
    ⟨4, 1, fun _ => Reg.FOV_EVENT_PATH_LOST⟩,
    ⟨4, 1, fun _ => Reg.FOV_EVENT_EN_PATH_LOST⟩,
    ⟨4, 1, fun _ => Reg.FOV_EVENT_PATH_RESTORED⟩,
    ⟨4, 1, fun _ => Reg.FOV_EVENT_EN_PATH_RESTORED⟩,
    ⟨4, 1, fun _ => Reg.FOV_EVENT_ACTIVE_CHANGE⟩,
    ⟨4, 1, fun _ => Reg.FOV_EVENT_EN_ACTIVE_CHANGE⟩,
    ⟨4, 1, fun _ => Reg.FOV_EVENT_FW_WDOG⟩,
    ⟨4, 1, fun _ => Reg.FOV_EVENT_EN_FW_WDOG⟩,
    ⟨4, 1, fun _ => Reg.FOV_EVENT_KEEPER_RELEASE⟩,
    ⟨4, 1, fun _ => Reg.FOV_EVENT_EN_KEEPER_RELEASE⟩,
    ⟨4, 1, fun _ => Reg.FOV_EVENT_BEAT_CRC⟩,
    ⟨4, 1, fun _ => Reg.FOV_EVENT_EN_BEAT_CRC⟩,
    ⟨4, 1, fun _ => Reg.FOV_BEAT_RX_BEAT⟩,
    ⟨4, 1, fun _ => Reg.FOV_MISS_LINE_MISS⟩,
    ⟨4, 1, fun _ => Reg.FOV_MISS_MIR_MISS⟩,
    ⟨4, 1, fun _ => Reg.FOV_PARTNER_LOST_CNT⟩,
    ⟨4, 1, fun _ => Reg.FOV_RELINQUISH_RX_CNT⟩,
    ⟨4, 1, fun _ => Reg.FOV_PATH_LOST_CNT⟩,
    ⟨4, 1, fun _ => Reg.FOV_PATH_RESTORED_CNT⟩,
    ⟨4, 1, fun _ => Reg.FOV_ACTIVE_CHANGE_CNT⟩,
    ⟨4, 1, fun _ => Reg.FOV_FW_WDOG_CNT⟩,
    ⟨4, 1, fun _ => Reg.FOV_KEEPER_RELEASE_CNT⟩,
    ⟨4, 1, fun _ => Reg.FOV_BEAT_CRC_CNT⟩ ]

/-- Rows 48 and on of chapter 13. -/
def Reg.rows13_2 : List FieldRow :=
  [ ⟨4, 1, fun _ => Reg.FOV_BAR0_DROP_CNT⟩,
    ⟨4, 1, fun _ => Reg.FOV_MIR_CTRL_ENABLE⟩,
    ⟨4, 1, fun _ => Reg.FOV_MIR_CTRL_RESYNC_DONE⟩,
    ⟨4, 1, fun _ => Reg.FOV_MIR_STATUS_LINK_UP⟩,
    ⟨4, 1, fun _ => Reg.FOV_MIR_STATUS_LANES⟩,
    ⟨4, 1, fun _ => Reg.FOV_MIR_TX_CNT⟩,
    ⟨4, 1, fun _ => Reg.FOV_MIR_RX_CNT⟩,
    ⟨4, 1, fun _ => Reg.FOV_MIR_RETRY_CNT⟩,
    ⟨4, 1, fun _ => Reg.FOV_MIR_CRC_CNT⟩,
    ⟨4, 1, fun _ => Reg.FOV_MIR_LINK_DOWN_CNT⟩ ]

/-- Rows 0 and on of chapter 14. -/
def Reg.rows14_0 : List FieldRow :=
  [ ⟨4, 1, fun _ => Reg.FAB_CTRL_ENABLE⟩,
    ⟨4, 1, fun _ => Reg.FAB_CTRL_BLEAT_EN⟩,
    ⟨4, 1, fun _ => Reg.FAB_CTRL_ROOT_PORT⟩,
    ⟨4, 1, fun _ => Reg.FAB_CTRL_ROOT_PORT_VALID⟩,
    ⟨4, 1, fun _ => Reg.FAB_CTRL_KEEP_PORTS⟩,
    ⟨4, 1, fun _ => Reg.FAB_ADDR_ADDR⟩,
    ⟨4, 1, fun _ => Reg.FAB_ADDR_VALID⟩,
    ⟨4, 1, fun _ => Reg.FAB_UID_LO_UID⟩,
    ⟨4, 1, fun _ => Reg.FAB_UID_HI_UID⟩,
    ⟨4, 1, fun _ => Reg.FAB_EVENT_LINK_DOWN⟩,
    ⟨4, 1, fun _ => Reg.FAB_EVENT_EN_LINK_DOWN⟩,
    ⟨4, 1, fun _ => Reg.FAB_EVENT_LINK_UP⟩,
    ⟨4, 1, fun _ => Reg.FAB_EVENT_EN_LINK_UP⟩,
    ⟨4, 1, fun _ => Reg.FAB_EVENT_RX⟩,
    ⟨4, 1, fun _ => Reg.FAB_EVENT_EN_RX⟩,
    ⟨4, 1, fun _ => Reg.FAB_EVENT_ALT_USED⟩,
    ⟨4, 1, fun _ => Reg.FAB_EVENT_EN_ALT_USED⟩,
    ⟨4, 1, fun _ => Reg.FAB_EVENT_DROP⟩,
    ⟨4, 1, fun _ => Reg.FAB_EVENT_EN_DROP⟩,
    ⟨4, 1, fun _ => Reg.FAB_TX_CFG_ENABLE⟩,
    ⟨4, 1, fun _ => Reg.FAB_TX_CFG_SIZE_M1⟩,
    ⟨4, 1, fun _ => Reg.FAB_TX_BASE_LO_LOWZERO⟩,
    ⟨4, 1, fun _ => Reg.FAB_TX_BASE_LO_BASE⟩,
    ⟨4, 1, fun _ => Reg.FAB_TX_BASE_HI_BASE⟩ ]

/-- Rows 24 and on of chapter 14. -/
def Reg.rows14_1 : List FieldRow :=
  [ ⟨4, 1, fun _ => Reg.FAB_TX_TAIL_TAIL⟩,
    ⟨4, 1, fun _ => Reg.FAB_TX_HEAD_HEAD⟩,
    ⟨4, 1, fun _ => Reg.FAB_RX_CFG_ENABLE⟩,
    ⟨4, 1, fun _ => Reg.FAB_RX_CFG_SIZE_M1⟩,
    ⟨4, 1, fun _ => Reg.FAB_RX_BASE_LO_LOWZERO⟩,
    ⟨4, 1, fun _ => Reg.FAB_RX_BASE_LO_BASE⟩,
    ⟨4, 1, fun _ => Reg.FAB_RX_BASE_HI_BASE⟩,
    ⟨4, 1, fun _ => Reg.FAB_RX_TAIL_TAIL⟩,
    ⟨4, 1, fun _ => Reg.FAB_RX_HEAD_HEAD⟩,
    ⟨4, 1, fun _ => Reg.FAB_RX_CQ_HEAD_CQ_HEAD⟩,
    ⟨4, 1, fun _ => Reg.FAB_LINK_DOWN_CNT⟩,
    ⟨4, 1, fun _ => Reg.FAB_LINK_UP_CNT⟩,
    ⟨4, 1, fun _ => Reg.FAB_RX_FRAME_CNT⟩,
    ⟨4, 1, fun _ => Reg.FAB_ALT_CNT⟩,
    ⟨4, 1, fun _ => Reg.FAB_DROP_CNT⟩,
    ⟨4, 1, fun _ => Reg.FAB_FWD_CNT⟩,
    ⟨4, 1, fun _ => Reg.FAB_BAR0_DROP_CNT⟩,
    ⟨0x40, 4, Reg.FAB_PORT_STATUS_LINK_UP⟩,
    ⟨0x40, 4, Reg.FAB_PORT_STATUS_LANES⟩,
    ⟨0x40, 4, Reg.FAB_PORT_STATUS_SLOW⟩,
    ⟨0x40, 4, Reg.FAB_PORT_STATUS_NEIGH_ADDR⟩,
    ⟨0x40, 4, Reg.FAB_PORT_NEIGH_UID_LO_UID⟩,
    ⟨0x40, 4, Reg.FAB_PORT_NEIGH_UID_HI_UID⟩,
    ⟨0x40, 4, Reg.FAB_PORT_CRC_ERR_CNT⟩ ]

/-- Rows 48 and on of chapter 14. -/
def Reg.rows14_2 : List FieldRow :=
  [ ⟨0x40, 4, Reg.FAB_PORT_REPLAY_CNT⟩,
    ⟨0x40, 4, Reg.FAB_PORT_TX_CNT⟩,
    ⟨0x40, 4, Reg.FAB_PORT_RX_CNT⟩,
    ⟨0x4, 4096, Reg.FAB_ROUTE_VALID⟩,
    ⟨0x4, 4096, Reg.FAB_ROUTE_PRIMARY⟩,
    ⟨0x4, 4096, Reg.FAB_ROUTE_ALT_VALID⟩,
    ⟨0x4, 4096, Reg.FAB_ROUTE_ALT⟩,
    ⟨0x4, 4096, Reg.FAB_ROUTE_COST⟩,
    ⟨0x4, 12, Reg.FAB_BLEAT_TPL_BYTES⟩ ]

/-- Rows 0 and on of chapter 15. -/
def Reg.rows15_0 : List FieldRow :=
  [ ⟨4, 1, fun _ => Reg.CCH_CTRL_HUM⟩,
    ⟨4, 1, fun _ => Reg.CCH_CTRL_PF_EN⟩,
    ⟨4, 1, fun _ => Reg.CCH_CTRL_OFFER_CLEAN⟩,
    ⟨4, 1, fun _ => Reg.CCH_CTRL_MRAM_WB⟩,
    ⟨4, 1, fun _ => Reg.CCH_STATUS_DATA_LOST⟩,
    ⟨4, 1, fun _ => Reg.CCH_CORES_IN_SERVICE⟩,
    ⟨4, 1, fun _ => Reg.CCH_CORES_SPARE⟩,
    ⟨4, 1, fun _ => Reg.CCH_MAINT_ADDR_LO_ADDR⟩,
    ⟨4, 1, fun _ => Reg.CCH_MAINT_ADDR_HI_ADDR⟩,
    ⟨4, 1, fun _ => Reg.CCH_MAINT_LEN_LEN⟩,
    ⟨4, 1, fun _ => Reg.CCH_MAINT_CTRL_OP⟩,
    ⟨4, 1, fun _ => Reg.CCH_MAINT_CTRL_BUSY⟩,
    ⟨4, 1, fun _ => Reg.CCH_MAINT_CTRL_GO⟩,
    ⟨4, 1, fun _ => Reg.CCH_EVENT_CE⟩,
    ⟨4, 1, fun _ => Reg.CCH_EVENT_EN_CE⟩,
    ⟨4, 1, fun _ => Reg.CCH_EVENT_UE⟩,
    ⟨4, 1, fun _ => Reg.CCH_EVENT_EN_UE⟩,
    ⟨4, 1, fun _ => Reg.CCH_EVENT_TAG_PE⟩,
    ⟨4, 1, fun _ => Reg.CCH_EVENT_EN_TAG_PE⟩,
    ⟨4, 1, fun _ => Reg.CCH_EVENT_TAG_UE⟩,
    ⟨4, 1, fun _ => Reg.CCH_EVENT_EN_TAG_UE⟩,
    ⟨4, 1, fun _ => Reg.CCH_EVENT_MAINT_DONE⟩,
    ⟨4, 1, fun _ => Reg.CCH_EVENT_EN_MAINT_DONE⟩,
    ⟨4, 1, fun _ => Reg.CCH_LAST_ERR_LO_ADDR⟩ ]

/-- Rows 24 and on of chapter 15. -/
def Reg.rows15_1 : List FieldRow :=
  [ ⟨4, 1, fun _ => Reg.CCH_LAST_ERR_HI_ADDR⟩,
    ⟨4, 1, fun _ => Reg.CCH_LAST_ERR_HI_WAY⟩,
    ⟨4, 1, fun _ => Reg.CCH_LAST_ERR_HI_TAG⟩,
    ⟨4, 1, fun _ => Reg.CCH_CE_CNT⟩,
    ⟨4, 1, fun _ => Reg.CCH_UE_CNT⟩,
    ⟨4, 1, fun _ => Reg.CCH_TAG_PE_CNT⟩,
    ⟨4, 1, fun _ => Reg.CCH_TAG_UE_CNT⟩,
    ⟨4, 1, fun _ => Reg.CCH_MAINT_DONE_CNT⟩,
    ⟨4, 1, fun _ => Reg.CCH_OFFER_DECLINED_CNT⟩,
    ⟨4, 1, fun _ => Reg.CCH_VICTIM_HIT_CNT⟩,
    ⟨4, 1, fun _ => Reg.CCH_PF_HIT_CNT⟩,
    ⟨4, 1, fun _ => Reg.CCH_MISS_CNT⟩,
    ⟨4, 1, fun _ => Reg.CCH_BAR0_DROP_CNT⟩,
    ⟨4, 1, fun _ => Reg.CCH_MTIME_LO_MTIME⟩,
    ⟨4, 1, fun _ => Reg.CCH_MTIME_HI_MTIME⟩,
    ⟨0x8, 9, Reg.CCH_CORE_MTIMECMP_LO_CMP⟩,
    ⟨0x8, 9, Reg.CCH_CORE_MTIMECMP_HI_CMP⟩,
    ⟨0x20, 64, Reg.MBX_BOX_CFG_SENDER⟩,
    ⟨0x20, 64, Reg.MBX_BOX_CFG_RECEIVER⟩,
    ⟨0x20, 64, Reg.MBX_BOX_CFG_IRQ_EN⟩,
    ⟨0x20, 64, Reg.MBX_BOX_STATUS_FULL⟩,
    ⟨0x20, 64, Reg.MBX_BOX_STATUS_TIMEOUT⟩,
    ⟨0x20, 64, Reg.MBX_BOX_STATUS_DROPPED⟩,
    ⟨0x20, 64, Reg.MBX_BOX_STATUS_RECALLED⟩ ]

/-- Rows 48 and on of chapter 15. -/
def Reg.rows15_2 : List FieldRow :=
  [ ⟨0x20, 64, Reg.MBX_BOX_DATA_LO_DATA⟩,
    ⟨0x20, 64, Reg.MBX_BOX_DATA_HI_DATA⟩,
    ⟨0x20, 64, Reg.MBX_BOX_LOCK_OWNER⟩,
    ⟨0x20, 64, Reg.MBX_BOX_CTRL_RECALL⟩,
    ⟨4, 1, fun _ => Reg.MBX_TIMEOUT_MS⟩,
    ⟨4, 1, fun _ => Reg.MBX_LOCK_FORCE_BOX⟩,
    ⟨4, 1, fun _ => Reg.MBX_LOCK_FORCE_GO⟩,
    ⟨0x10, 9, Reg.MBX_CORE_FULL_LO_BOXES⟩,
    ⟨0x10, 9, Reg.MBX_CORE_FULL_HI_BOXES⟩,
    ⟨0x10, 9, Reg.MBX_CORE_TMO_LO_BOXES⟩,
    ⟨0x10, 9, Reg.MBX_CORE_TMO_HI_BOXES⟩,
    ⟨0x4, 17, Reg.MBX_IRQ_ROUTE_CORES⟩,
    ⟨0x4, 9, Reg.MBX_CORE_PEND_SOURCES⟩,
    ⟨0x4, 9, Reg.MBX_CORE_PEND_MBX⟩,
    ⟨0x4, 64, Reg.MBX_PEER_LOCK_OWNER⟩,
    ⟨4, 1, fun _ => Reg.MBX_DROP_CNT⟩,
    ⟨4, 1, fun _ => Reg.MBX_TIMEOUT_CNT⟩,
    ⟨4, 1, fun _ => Reg.MBX_SENT_CNT⟩,
    ⟨4, 1, fun _ => Reg.MBX_LOCK_FORCE_CNT⟩,
    ⟨4, 1, fun _ => Reg.MBX_BAR0_DROP_CNT⟩,
    ⟨4, 1, fun _ => Reg.DMA_CTRL_ENABLE⟩,
    ⟨4, 1, fun _ => Reg.DMA_EVENT_DONE⟩,
    ⟨4, 1, fun _ => Reg.DMA_EVENT_EN_DONE⟩,
    ⟨4, 1, fun _ => Reg.DMA_EVENT_HALTED⟩ ]

/-- Rows 72 and on of chapter 15. -/
def Reg.rows15_3 : List FieldRow :=
  [ ⟨4, 1, fun _ => Reg.DMA_EVENT_EN_HALTED⟩,
    ⟨4, 1, fun _ => Reg.DMA_DESC_DONE_CNT⟩,
    ⟨4, 1, fun _ => Reg.DMA_HALT_CNT⟩,
    ⟨4, 1, fun _ => Reg.DMA_ADDR_ERR_CNT⟩,
    ⟨4, 1, fun _ => Reg.DMA_BAR0_DROP_CNT⟩,
    ⟨0x40, 16, Reg.DMA_CH_CFG_ENABLE⟩,
    ⟨0x40, 16, Reg.DMA_CH_CFG_SIZE_M1⟩,
    ⟨0x40, 16, Reg.DMA_CH_RATE_SHARE⟩,
    ⟨0x40, 16, Reg.DMA_CH_RATE_BURST_SHIFT⟩,
    ⟨0x40, 16, Reg.DMA_CH_BASE_LO_LOWZERO⟩,
    ⟨0x40, 16, Reg.DMA_CH_BASE_LO_BASE⟩,
    ⟨0x40, 16, Reg.DMA_CH_BASE_HI_BASE⟩,
    ⟨0x40, 16, Reg.DMA_CH_CQ_BASE_LO_LOWZERO⟩,
    ⟨0x40, 16, Reg.DMA_CH_CQ_BASE_LO_BASE⟩,
    ⟨0x40, 16, Reg.DMA_CH_CQ_BASE_HI_BASE⟩,
    ⟨0x40, 16, Reg.DMA_CH_TAIL_TAIL⟩,
    ⟨0x40, 16, Reg.DMA_CH_HEAD_HEAD⟩,
    ⟨0x40, 16, Reg.DMA_CH_CQ_TAIL_CQ_TAIL⟩,
    ⟨0x40, 16, Reg.DMA_CH_CQ_HEAD_CQ_HEAD⟩,
    ⟨0x40, 16, Reg.DMA_CH_STATUS_BUSY⟩,
    ⟨0x40, 16, Reg.DMA_CH_STATUS_HALTED⟩,
    ⟨0x40, 16, Reg.DMA_CH_STATUS_DONE⟩,
    ⟨0x40, 16, Reg.DMA_CH_CTRL_RESUME⟩,
    ⟨0x40, 16, Reg.DMA_CH_DONE_CNT⟩ ]

/-- Rows 0 and on of chapter 16. -/
def Reg.rows16_0 : List FieldRow :=
  [ ⟨4, 1, fun _ => Reg.RPR_CTRL_FIELD_REMAP_EN⟩,
    ⟨4, 1, fun _ => Reg.RPR_CTRL_PPR_EN⟩,
    ⟨4, 1, fun _ => Reg.RPR_CTRL_LANE_RESTORE⟩,
    ⟨4, 1, fun _ => Reg.RPR_POST_DONE⟩,
    ⟨4, 1, fun _ => Reg.RPR_POST_FATAL⟩,
    ⟨4, 1, fun _ => Reg.RPR_POST_ENGINES⟩,
    ⟨4, 1, fun _ => Reg.RPR_POST_CORES⟩,
    ⟨4, 1, fun _ => Reg.RPR_POST_REMAPS⟩,
    ⟨4, 1, fun _ => Reg.RPR_SRAM_CFG_CE_LIMIT⟩,
    ⟨4, 1, fun _ => Reg.RPR_SRAM_CFG_WINDOW_H⟩,
    ⟨4, 1, fun _ => Reg.RPR_SRAM_CFG_DRAM_CE_LIMIT⟩,
    ⟨4, 1, fun _ => Reg.RPR_EVENT_REC_READY⟩,
    ⟨4, 1, fun _ => Reg.RPR_EVENT_EN_REC_READY⟩,
    ⟨4, 1, fun _ => Reg.RPR_EVENT_REC_OVERFLOW⟩,
    ⟨4, 1, fun _ => Reg.RPR_EVENT_EN_REC_OVERFLOW⟩,
    ⟨4, 1, fun _ => Reg.RPR_EVENT_SPARE_EXHAUSTED⟩,
    ⟨4, 1, fun _ => Reg.RPR_EVENT_EN_SPARE_EXHAUSTED⟩,
    ⟨4, 1, fun _ => Reg.RPR_EVENT_LANE_CHANGE⟩,
    ⟨4, 1, fun _ => Reg.RPR_EVENT_EN_LANE_CHANGE⟩,
    ⟨4, 1, fun _ => Reg.RPR_REC_LO_KIND⟩,
    ⟨4, 1, fun _ => Reg.RPR_REC_LO_CLASS⟩,
    ⟨4, 1, fun _ => Reg.RPR_REC_LO_INSTANCE⟩,
    ⟨4, 1, fun _ => Reg.RPR_REC_LO_RESULT⟩,
    ⟨4, 1, fun _ => Reg.RPR_REC_HI_DETAIL⟩ ]

/-- Rows 24 and on of chapter 16. -/
def Reg.rows16_1 : List FieldRow :=
  [ ⟨4, 1, fun _ => Reg.RPR_REC_CTRL_POP⟩,
    ⟨4, 1, fun _ => Reg.RPR_REC_CTRL_DEPTH⟩,
    ⟨4, 1, fun _ => Reg.RPR_ARRAY_SEL_ARRAY⟩,
    ⟨4, 1, fun _ => Reg.RPR_ARRAY_STAT_CE_CNT⟩,
    ⟨4, 1, fun _ => Reg.RPR_ARRAY_STAT_ROWS_LEFT⟩,
    ⟨4, 1, fun _ => Reg.RPR_ARRAY_STAT_COLS_LEFT⟩,
    ⟨4, 1, fun _ => Reg.RPR_ARRAY_STAT_EXHAUSTED⟩,
    ⟨4, 1, fun _ => Reg.RPR_ARRAY_STAT_NONE⟩,
    ⟨4, 1, fun _ => Reg.RPR_REC_CNT⟩,
    ⟨4, 1, fun _ => Reg.RPR_REC_LOST_CNT⟩,
    ⟨4, 1, fun _ => Reg.RPR_EXHAUSTED_CNT⟩,
    ⟨4, 1, fun _ => Reg.RPR_LANE_CHANGE_CNT⟩,
    ⟨4, 1, fun _ => Reg.RPR_ROW_REMAP_CNT⟩,
    ⟨4, 1, fun _ => Reg.RPR_BAR0_DROP_CNT⟩,
    ⟨4, 1, fun _ => Reg.RPR_DRAM_EVENT_CE⟩,
    ⟨4, 1, fun _ => Reg.RPR_DRAM_EVENT_EN_CE⟩,
    ⟨4, 1, fun _ => Reg.RPR_DRAM_EVENT_UE⟩,
    ⟨4, 1, fun _ => Reg.RPR_DRAM_EVENT_EN_UE⟩,
    ⟨4, 1, fun _ => Reg.RPR_DRAM_EVENT_PPR_DONE⟩,
    ⟨4, 1, fun _ => Reg.RPR_DRAM_EVENT_EN_PPR_DONE⟩,
    ⟨4, 1, fun _ => Reg.RPR_DRAM_EVENT_ROW_LIMIT⟩,
    ⟨4, 1, fun _ => Reg.RPR_DRAM_EVENT_EN_ROW_LIMIT⟩,
    ⟨4, 1, fun _ => Reg.RPR_DRAM_LAST_LOC⟩,
    ⟨4, 1, fun _ => Reg.RPR_DRAM_LAST_ROW_ROW⟩ ]

/-- Rows 48 and on of chapter 16. -/
def Reg.rows16_2 : List FieldRow :=
  [ ⟨4, 1, fun _ => Reg.RPR_DRAM_PPR_LOC⟩,
    ⟨4, 1, fun _ => Reg.RPR_DRAM_PPR_HARD⟩,
    ⟨4, 1, fun _ => Reg.RPR_DRAM_PPR_FAIL⟩,
    ⟨4, 1, fun _ => Reg.RPR_DRAM_PPR_BUSY⟩,
    ⟨4, 1, fun _ => Reg.RPR_DRAM_PPR_GO⟩,
    ⟨4, 1, fun _ => Reg.RPR_DRAM_PPR_ROW_ROW⟩,
    ⟨0x4, 4, Reg.RPR_DRAM_LEFT_SOFT_LEFT⟩,
    ⟨0x4, 4, Reg.RPR_DRAM_LEFT_HARD_LEFT⟩,
    ⟨4, 1, fun _ => Reg.RPR_DRAM_CE_CNT⟩,
    ⟨4, 1, fun _ => Reg.RPR_DRAM_UE_CNT⟩,
    ⟨4, 1, fun _ => Reg.RPR_DRAM_PPR_CNT⟩,
    ⟨4, 1, fun _ => Reg.RPR_DRAM_ROW_LIMIT_CNT⟩ ]

/-- Rows 0 and on of chapter 17. -/
def Reg.rows17_0 : List FieldRow :=
  [ ⟨4, 1, fun _ => Reg.SYS_MODE_MODE⟩,
    ⟨4, 1, fun _ => Reg.SYS_MODE_STARTING⟩,
    ⟨4, 1, fun _ => Reg.SYS_STRAP_POS⟩,
    ⟨4, 1, fun _ => Reg.SYS_STRAP_COMPAT⟩,
    ⟨4, 1, fun _ => Reg.SYS_STRAP_SHELF_ID⟩,
    ⟨4, 1, fun _ => Reg.SYS_STRAP_POS_LIVE⟩,
    ⟨4, 1, fun _ => Reg.SYS_STRAP_COMPAT_N_LIVE⟩,
    ⟨4, 1, fun _ => Reg.SYS_STRAP_SHELF_LIVE⟩,
    ⟨4, 1, fun _ => Reg.SYS_RESET_SCOPE⟩,
    ⟨4, 1, fun _ => Reg.SYS_RESET_KEY⟩,
    ⟨4, 1, fun _ => Reg.SYS_RESET_GO⟩,
    ⟨4, 1, fun _ => Reg.SYS_RESET_CAUSE_KIND⟩,
    ⟨4, 1, fun _ => Reg.SYS_RESET_CAUSE_SOURCE⟩,
    ⟨4, 1, fun _ => Reg.SYS_BOOT_SLOT⟩,
    ⟨4, 1, fun _ => Reg.SYS_BOOT_NEXT_SLOT⟩,
    ⟨4, 1, fun _ => Reg.SYS_BOOT_TRIES⟩,
    ⟨4, 1, fun _ => Reg.SYS_BOOT_FALLBACK⟩,
    ⟨4, 1, fun _ => Reg.SYS_BOOT_NO_IMAGE⟩,
    ⟨4, 1, fun _ => Reg.SYS_CFG_RESTART_MS⟩,
    ⟨4, 1, fun _ => Reg.SYS_CFG_BOOT_S⟩,
    ⟨4, 1, fun _ => Reg.SYS_CFG_AUTO_RESTART_EN⟩,
    ⟨4, 1, fun _ => Reg.SYS_COMPAT_JNL_FMT1⟩,
    ⟨4, 1, fun _ => Reg.SYS_COMPAT_MIXED⟩,
    ⟨4, 1, fun _ => Reg.SYS_EVENT_STRAP_CHANGE⟩ ]

/-- Rows 24 and on of chapter 17. -/
def Reg.rows17_1 : List FieldRow :=
  [ ⟨4, 1, fun _ => Reg.SYS_EVENT_EN_STRAP_CHANGE⟩,
    ⟨4, 1, fun _ => Reg.SYS_EVENT_POS_CONFLICT⟩,
    ⟨4, 1, fun _ => Reg.SYS_EVENT_EN_POS_CONFLICT⟩,
    ⟨4, 1, fun _ => Reg.SYS_EVENT_COMPAT_CONFLICT⟩,
    ⟨4, 1, fun _ => Reg.SYS_EVENT_EN_COMPAT_CONFLICT⟩,
    ⟨4, 1, fun _ => Reg.SYS_EVENT_BOOT_FALLBACK⟩,
    ⟨4, 1, fun _ => Reg.SYS_EVENT_EN_BOOT_FALLBACK⟩,
    ⟨4, 1, fun _ => Reg.SYS_EVENT_RETIRED_ACCESS⟩,
    ⟨4, 1, fun _ => Reg.SYS_EVENT_EN_RETIRED_ACCESS⟩,
    ⟨4, 1, fun _ => Reg.SYS_EVENT_RESET_TIMEOUT⟩,
    ⟨4, 1, fun _ => Reg.SYS_EVENT_EN_RESET_TIMEOUT⟩,
    ⟨4, 1, fun _ => Reg.SYS_RETIRED_ACCESS_CNT⟩,
    ⟨4, 1, fun _ => Reg.SYS_RESET_TIMEOUT_CNT⟩,
    ⟨4, 1, fun _ => Reg.SYS_STRAP_CHANGE_CNT⟩,
    ⟨4, 1, fun _ => Reg.SYS_CONFLICT_CNT⟩,
    ⟨4, 1, fun _ => Reg.SYS_CORE_RESTART_CNT⟩,
    ⟨4, 1, fun _ => Reg.SYS_WARM_RESET_CNT⟩,
    ⟨4, 1, fun _ => Reg.SYS_BOOT_FALLBACK_CNT⟩,
    ⟨4, 1, fun _ => Reg.SYS_BAR0_DROP_CNT⟩ ]

/-- Every register field row of the spec (R495, R496). -/
def fieldTable : List FieldRow :=
  Reg.rows02_0 ++
  Reg.rows02_1 ++
  Reg.rows03_0 ++
  Reg.rows03_1 ++
  Reg.rows03_2 ++
  Reg.rows03_3 ++
  Reg.rows04_0 ++
  Reg.rows04_1 ++
  Reg.rows05_0 ++
  Reg.rows05_1 ++
  Reg.rows05_2 ++
  Reg.rows05_3 ++
  Reg.rows06_0 ++
  Reg.rows06_1 ++
  Reg.rows07_0 ++
  Reg.rows07_1 ++
  Reg.rows09_0 ++
  Reg.rows09_1 ++
  Reg.rows09_2 ++
  Reg.rows10_0 ++
  Reg.rows10_1 ++
  Reg.rows10_2 ++
  Reg.rows10_3 ++
  Reg.rows11_0 ++
  Reg.rows11_1 ++
  Reg.rows11_2 ++
  Reg.rows12_0 ++
  Reg.rows12_1 ++
  Reg.rows12_2 ++
  Reg.rows13_0 ++
  Reg.rows13_1 ++
  Reg.rows13_2 ++
  Reg.rows14_0 ++
  Reg.rows14_1 ++
  Reg.rows14_2 ++
  Reg.rows15_0 ++
  Reg.rows15_1 ++
  Reg.rows15_2 ++
  Reg.rows15_3 ++
  Reg.rows16_0 ++
  Reg.rows16_1 ++
  Reg.rows16_2 ++
  Reg.rows17_0 ++
  Reg.rows17_1

end Sys2Proof.Machine
end

