-- ==== Sys2Proof/Syntax.lean ====
section
/-! DEFINITION. The commands the module takes: one constructor of `Instr` for each row of the spec's table of operations and
events. Operands carry what arrives from outside with the command: a value written, a message, a sample, the content of
host memory, the status of a drive. -/

namespace Sys2Proof

/-- The islands of R10. -/
inductive Island where
  | keep | host | qmx | ctrl | mem | nvm | fab | mir | pwr | fan
  | ox (e : Fin 28)
  | sas (k : Fin 18)
  deriving DecidableEq, Repr

/-- Who makes a register access (R15, R277): the host through BAR0, a control core, a DMA channel, or the console. -/
inductive Requester where
  | host | core (n : Fin 9) | dma (c : Fin 16) | console
  deriving DecidableEq, Repr

/-- What a core does with memory (R421). -/
inductive AccessKind where
  | load | store | fetch
  deriving DecidableEq, Repr

/-- Mirror-link message kinds (R366), and the lock requests of R442. -/
inductive MirKind where
  | beat | data | commit | commitAck | intent | intentAck | ceiling | slotState | slotAck | fanState | config | token
  | relinquish | handover | resync | blockNak
  deriving DecidableEq, Repr

/-- KIND of a message's header (R366). -/
def MirKind.code : MirKind → Nat
  | .beat => 0x01 | .data => 0x02 | .commit => 0x03 | .commitAck => 0x04 | .intent => 0x05 | .intentAck => 0x06 | .ceiling => 0x07
  | .slotState => 0x08 | .slotAck => 0x09 | .fanState => 0x0A | .config => 0x0B | .token => 0x0C | .relinquish => 0x0D
  | .handover => 0x0E | .resync => 0x0F | .blockNak => 0x10

/-- What the mirror link's link-control traffic carries (R442). -/
inductive MirCtl where
  | lockRequest | lockAnswer
  deriving DecidableEq, Repr

/-- The kinds that go out on the ordered stream (R117, R366). -/
def MirKind.ordered : MirKind → Bool
  | .data | .commit | .intent | .ceiling => true
  | _ => false

/-- Fabric frame types (R386); `other` is any other value of TYPE. -/
inductive FabKind where
  | bleat | linkCtl | lsa | addrReq | addrAssign | budget | tokenReq | tokenGrant | tokenReport | tokenRelease | leaseMove
  | copyDesc | copyData | copyAck | peerRead | peerData | deltaDesc | deltaData | deltaAck | wakeReq | group
  | other (type : Nat)
  deriving DecidableEq, Repr

/-- A fabric frame (R383): its header, and its payload: bytes where the spec lays the payload out, else the values it carries. -/
structure Frame where
  type : FabKind
  linkLocal : Bool := false
  flood : Bool := false
  ackValid : Bool := false
  dst : Nat := 0
  cls : Nat := 0
  src : Nat := 0
  lseq : Nat := 0
  lack : Nat := 0
  hops : Nat := 32
  xseq : Nat := 0
  payload : List Nat := []
  deriving DecidableEq, Repr

/-- A bleat's payload (R387). -/
structure Bleat where
  uid : Nat
  addr : Nat
  pref : Nat
  rootUid : Nat
  rootDist : Nat
  rootElig : Bool
  bwElig : Bool
  parked : Bool
  parent : Bool
  bwPrio : Nat
  mode : Nat
  bwAddr : Nat
  port : Nat
  shelf : Nat
  partner : Nat
  lsaSeq : Nat
  budgetVer : Nat
  deriving DecidableEq, Repr

/-- A link of an LSA (R391). -/
structure LsaLink where
  addr : Nat
  port : Nat
  lanes : Nat
  cost : Nat
  deriving DecidableEq, Repr

/-- What a BUDGET frame carries (R395, R396): a record, or what a node asks of the bellwether. -/
inductive BudgetMsg where
  | record (watts isolated nReg version uid : Nat)
  | set (src watts isolated : Nat)
  | forget (src uid : Nat)
  deriving DecidableEq, Repr

/-- What a GROUP frame carries (R404, R408, R409, R411): a group's record, its deletion, staleness or frontier, its being current, the end of a
recovery's reads, a node's report that it holds the record, or the mode of a parity volume's node. -/
inductive GroupMsg where
  | record (id : Nat) (parity : Nat × Nat) (members : List (Nat × Nat))
  | deleted (id : Nat)
  | stale (id : Nat)
  | front (id f : Nat)
  | current (id : Nat)
  | released (id : Nat)
  | stored (id uid : Nat)
  | mode (uid mode : Nat)
  deriving DecidableEq, Repr

/-- What the nodes named in a GROUP_CREATE answer for a volume (R404, R415): it is valid and in no group, its blocks, and the
UID of its module's partner. -/
structure VolFacts where
  free : Bool
  blocks : Nat
  partner : Nat
  deriving DecidableEq, Repr

/-- Commands the module sends to a drive; every write goes out with FUA (R123, R143). -/
inductive DriveKind where
  | read | writeFua | verify | writeHeader | readHeader | notifySpin | stopUnit | abort | unitReset | linkReset
  deriving DecidableEq, Repr

/-- The admin commands (chapter 08). -/
inductive AdminOp where
  | identify | getFeature | setFeature | getLog | createIoQueue | deleteIoQueue | arrayCreate | arrayDelete | volumeCreate
  | volumeDelete | memberReplace | selfTest | powerState | roleControl | firmwareStage | firmwareCommit | packAuth
  | fabricControl | abort
  deriving DecidableEq, Repr

/-- What the firmware finds on a drive that has become ready (R161, R244): it is formatted 4,096 + 8 with T10 type 1, it has two
ports, the ARRAY_UUID of a valid header that it holds, and its size in bytes. -/
structure DriveFacts where
  format : Bool
  dual : Bool
  header : Option Nat
  bytes : Nat
  deriving DecidableEq, Repr

/-- A submission entry (R206), with the queue it was read from. -/
structure Entry where
  qid : Nat
  cid : Nat
  opcode : Nat
  /-- The admin command that OPCODE names; the spec gives the code of IDENTIFY alone. -/
  admin : Option AdminOp
  /-- FLAGS: bit 0 INDIRECT, bit 1 PI_ENABLE, bit 2 FUA, bit 3 FENCE_AFTER. -/
  flags : Nat
  vol : Nat
  slba : Nat
  nlbM1 : Nat
  options : Nat
  dptr : Nat
  dlen : Nat
  piCtrl : Nat
  /-- CMD_SPECIFIC: bytes 40 to 63. -/
  spec : List Nat
  /-- The fragment tables the module reads from host memory when INDIRECT is 1 (R210): address, length, flags. -/
  tables : List (List (Nat × (Nat × Nat)))
  deriving DecidableEq, Repr

/-- A submission entry as it lies in host memory (R206): its 64 bytes and the bytes of the fragment tables that its DPTR and their CHAIN
entries lead to (R210). `admin` names the admin command of OPCODE, for the spec gives the code of IDENTIFY alone (log entry 23). -/
structure RawEntry where
  bytes : List Nat
  admin : Option AdminOp
  tables : List (List Nat)
  deriving DecidableEq, Repr

/-- A 4 KiB block with its host protection information as it crosses the host buffer (R184): guard and reference tag. -/
structure HostBlock where
  data : Block
  guard : Nat
  refTag : Nat
  deriving DecidableEq, Repr

/-- A block with the 8 bytes of protection information that a drive keeps with it (R190). -/
structure DriveBlock where
  data : Block
  guard : Nat
  appTag : Nat
  refTag : Nat
  deriving DecidableEq, Repr

/-- The status with which a drive answers a member command (R497): GOOD, BUSY or TASK SET FULL, CHECK CONDITION with its sense key and
additional sense code, or any other. -/
inductive DriveReply where
  | good
  | busy
  | check (key asc : Nat)
  | other
  deriving DecidableEq, Repr

/-- A drive command's status as the SAS port reports it (R146, R497). -/
inductive DriveStatus where
  | good | media | timeout | link | t10 | aborted | notAwake | invalid
  deriving DecidableEq, Repr

/-- The descriptor of a pack as the secure element gives it (R312, R319), and the root its chain reaches (R332). -/
structure PackInfo where
  serial : Nat
  designDmah : Nat
  r25Dmohm : Nat
  ocvCold : List (Nat × Nat)
  ocvRoom : List (Nat × Nat)
  ocvHot : List (Nat × Nat)
  root : Nat
  rootDigest : Nat
  deriving DecidableEq, Repr

/-- What a fan channel's sensors and its observer give in one PWM period (R339 to R342, R351): the phases skipped, the currents sampled
and those predicted in 10 mA, speed in rpm, angle and load angle in 1/65,536 turn (in SHADOW the angle of the partner's applied voltage),
the voltage vector in 0.1 % of the linear range. -/
structure FocSample where
  skipA : Bool
  skipB : Bool
  skipC : Bool
  ia : Int
  ib : Int
  ic : Int
  predA : Int
  predB : Int
  predC : Int
  rpm : Int
  angle : Nat
  load : Nat
  vector : Nat
  deriving DecidableEq, Repr

/-- One reading of a temperature source (R355), in 0.1 °C. -/
structure TempReadings where
  /-- Awake drives read in this second: slot and temperature, or none where the read failed. -/
  drives : List (Nat × Option Int)
  die : Int
  converter : Int
  inlet : Int
  deriving DecidableEq, Repr

/-- A range of the lost-block list (R158, R240). -/
structure LostRange where
  row : Nat
  d : Nat
  first : Nat
  vol : Nat
  nblk : Nat
  deriving DecidableEq, Repr

/-- A volume of an array's metadata (R501). -/
structure FoundVolume where
  vol : Nat
  uuid : Nat
  base : Nat
  rows : Nat
  /-- Rows still to format, from this one on, where formatting had not ended (R246). -/
  formatting : Option Nat
  deriving DecidableEq, Repr

/-- The metadata of an array in a member's header area (R53, R158, R168, R172, R246, R501); its layout is no part of the interface. -/
structure HeaderRecord where
  index : Nat := 0
  /-- The array's slots (R45). -/
  slots : List Nat := []
  /-- The GENERATION at which each slot last took a new drive. -/
  slotGen : List (Nat × Nat) := []
  vols : List FoundVolume := []
  lost : List LostRange := []
  /-- Next rows to graze, by group. -/
  graze : List (Nat × Nat) := []
  /-- Rebuild checkpoints, by logical slot. -/
  rebuilds : List (Nat × Nat) := []
  deriving DecidableEq, Repr

/-- A drive found at start-up: its physical slot, both copies of its member header as they read (R53, R54), and the metadata beside them. -/
structure FoundDrive where
  slot : Nat
  first : Block
  second : Block
  record : HeaderRecord
  deriving DecidableEq, Repr

/-- What an engine meets in a run of a job (R79, R94): nothing, or at a block of a source a sidecar that is wrong, a DRAM error, or an
error of its accumulator. -/
inductive JobEnd where
  | done
  | srcCrc (source block : Nat)
  | memError (source block : Nat)
  | accUe (source block : Nat)
  deriving DecidableEq, Repr

/-- Blocks of a member's range, in an intent at replay, whose T10 guard is neither the old nor the new one (R137). -/
structure StrangeBlocks where
  intent : Nat
  member : Nat
  blocks : List Nat
  deriving DecidableEq, Repr

/-- What members of a row read over a range of blocks: by member index, each block, or none where its read or its guard fails. -/
abbrev RowReads := List (Nat × List (Option Block))

/-- A row that is read twice (R175): as a graze step reads it, and again under its lock. -/
structure RowTwice where
  row : Nat
  first : RowReads
  again : RowReads
  deriving DecidableEq, Repr

/-- What the steps of a SHORT self-test find (R250): the step that failed outside the model, 0 for none, the engines and the cores that failed
their tests, a core with its spare's own test. -/
structure ShortFindings where
  failStep : Nat := 0
  engines : List (Fin 28) := []
  cores : List (Fin 9 × Bool) := []
  deriving DecidableEq, Repr

/-- A command at its commit (R115): its identifier, and how often its staging record did not read back as written (R192). -/
structure CommitFacts where
  cid : Nat
  fails : Nat
  deriving DecidableEq, Repr

/-- A FIRMWARE_STAGE: its identifier, and the bytes of its host buffer (R259). -/
structure StagePiece where
  cid : Nat
  data : List Nat
  deriving DecidableEq, Repr

/-- What the firmware finds when it verifies a staged or stored image or certificate (R260): its length in bytes as its own header
states it, whether its signature verifies, whether it is for the MXZ-9108-A, and its number. -/
structure ImageFacts where
  length : Nat
  signed : Bool
  ours : Bool
  number : Nat
  deriving DecidableEq, Repr

/-- A read of host memory that failed (R284). -/
inductive HostRead where
  | doorbells | entries
  /-- A fragment table, or the source data of a command. -/
  | data (qid cid : Nat)
  deriving DecidableEq, Repr


/-- The commands: one constructor for each row of the table, those with operands first (the compiler of Lean
bounds the number of these that it can build). Each docstring is the row's rule. -/
inductive Instr where
  /-- REGISTER_WRITE (R5). -/
  | registerWrite (r : Requester) (off be : Nat) (value : Word)
  /-- ARRAY_VALID_WRITE (R71). -/
  | arrayValidWrite (n : Fin 4) (valid : Bool)
  /-- VOLUME_VALID_WRITE (R72). -/
  | volumeValidWrite (v : Fin 64) (valid : Bool)
  /-- XLATE_GO (R51). -/
  | xlateGo (vol : Fin 64)
  /-- EVAL_START (R68). -/
  | evalStart (n : Fin 4)
  /-- RING_TAIL_WRITE (R96). -/
  | ringTailWrite (r : Fin 16) (tail : Nat)
  /-- COEF_DATA_ACCESS (R83). -/
  | coefDataAccess (write : Option Word)
  /-- PLAN_RETRY (R102). -/
  | planRetry (n : Fin 4)
  /-- ENGINE_PAUSE (R100). -/
  | enginePause (e : Fin 28) (pause : Bool)
  /-- ENGINE_RETIRE (R108). -/
  | engineRetire (e : Fin 28)
  /-- ENGINE_TEST (R107). -/
  | engineTest (e : Fin 28)
  /-- FORCE_WT_WRITE (R113). -/
  | forceWtWrite (v : Bool)
  /-- PACK_HEALTHY_WRITE (R111). -/
  | packHealthyWrite (v : Bool)
  /-- PARTNER_LIVE_WRITE (R111). -/
  | partnerLiveWrite (v : Bool)
  /-- JNL_ALLOC (R129). -/
  | jnlAlloc (next : Fin 4)
  /-- WAKE_RETRY (R150). -/
  | wakeRetry (slot : Fin 108)
  /-- WAKE_DENY (R150). -/
  | wakeDeny (slot : Fin 108)
  /-- AWAKE_WRITE (R142). -/
  | awakeWrite (slot : Fin 108) (awake : Bool)
  /-- ESC_DONE (R154). -/
  | escDone (piece : Nat) (outcome : Fin 4) (reads : RowReads)
  /-- FRONTIER_ENABLE (R163). -/
  | frontierEnable (k : Fin 8) (enable : Bool)
  /-- INT_INJECT (R186). -/
  | intInject (kind : Fin 8)
  /-- ADMIN_SQ_TAIL_WRITE (R203). -/
  | adminSqTailWrite (index : Nat)
  /-- ADMIN_CQ_HEAD_WRITE (R202). -/
  | adminCqHeadWrite (index : Nat)
  /-- XLAT_COMMIT (R280). -/
  | xlatCommit (r : Requester)
  /-- HOST_RAISE (R282). -/
  | hostRaise (r : Requester) (mask : Nat)
  /-- CONVERTER_ENABLE (R295). -/
  | converterEnable (en : Bool)
  /-- STANDBY_OFFSET_WRITE (R303). -/
  | standbyOffsetWrite (v : Bool)
  /-- SLOT_ENABLE_WRITE (R305). -/
  | slotEnableWrite (slot : Fin 108) (en12 en5 : Bool)
  /-- SLOT_DISABLE_WRITE (R302). -/
  | slotDisableWrite (slot : Fin 108) (en12 en5 : Bool)
  /-- SPIN_WRITE (R305). -/
  | spinWrite (slot : Fin 108)
  /-- CHARGE_ENABLE (R314). -/
  | chargeEnable (en : Bool)
  /-- BAT_COUNT_WRITE (R317). -/
  | batCountWrite (value : Word)
  /-- SMBUS_TRANSACTION (R312). -/
  | smbusTransaction (cmd len : Nat) (read : Bool)
  /-- FAN_RUN_WRITE (R344). -/
  | fanRunWrite (c : Fin 6) (run : Bool)
  /-- FAN_RESTART (R349). -/
  | fanRestart (c : Fin 6)
  /-- FAN_DEMAND_WRITE (R353). -/
  | fanDemandWrite (c : Fin 6) (value : Nat)
  /-- LINE_BEAT (R360). -/
  | lineBeat (word : Nat)
  /-- DATA (R117). -/
  | data (lines : List (Nat × (Block × Nat)))
  /-- FAB_TX_TAIL (R385). -/
  | fabTxTail (tail : Nat)
  /-- MAILBOX_SEND (R434). -/
  | mailboxSend (m : Fin 64) (r : Requester) (hi : Word)
  /-- MAILBOX_TAKE (R435). -/
  | mailboxTake (m : Fin 64) (r : Requester)
  /-- RECALL (R438). -/
  | boxRecall (m : Fin 64) (r : Requester)
  /-- LOCK_READ (R439). -/
  | lockRead (m : Fin 64) (r : Requester)
  /-- LOCK_RELEASE (R439). -/
  | lockRelease (m : Fin 64) (r : Requester) (value : Nat)
  /-- LOCK_FORCE (R440). -/
  | lockForce (m : Fin 64) (r : Requester)
  /-- PEER_LOCK_READ (R442). -/
  | peerLockRead (core : Fin 9) (m : Fin 64) (answer : Option Nat)
  /-- PEER_LOCK_RELEASE (R442). -/
  | peerLockRelease (core : Fin 9) (m : Fin 64)
  /-- DMA_RESUME (R450). -/
  | dmaResume (c : Fin 16)
  /-- DMA_CHANNEL_DISABLE (R450). -/
  | dmaChannelDisable (c : Option (Fin 16))
  /-- DRAM_PPR (R457). -/
  | dramPpr (loc row : Nat) (hard : Bool)
  /-- COLD_RESET (R467). -/
  | coldReset (key : Nat)
  /-- WARM_RESET (R467). -/
  | warmReset (key : Nat)
  /-- CORE_RESTART (R466). -/
  | coreRestart (key : Nat)
  /-- CORE_ACCESS (R423). -/
  | coreAccess (core : Fin 9) (kind : AccessKind) (addr size value : Nat) (evict : List Nat) (issued : Bool)
  /-- ISLAND_REGATE (R11). -/
  | islandRegate (n : Island)
  /-- LOOP_EVALUATION (R38). -/
  | loopEvaluation (pModDw : Nat)
  /-- EVAL_DONE (R68). -/
  | evalDone (n : Fin 4)
  /-- ARRAY_ASSEMBLY (R501). -/
  | arrayAssembly (found : List FoundDrive)
  /-- JOB_START (R84). -/
  | jobStart (e : Fin 28)
  /-- JOB_COMPLETE (R93). -/
  | jobComplete (e : Fin 28) (x : JobEnd) (noise : List (Nat × List Block)) (delivered : List Nat) (corrected stallUs : Nat)
      (partner : List (Nat × (Block × Nat)))
  /-- SHADOW_ARBITRATION_DONE (R105). -/
  | shadowArbitrationDone (primary shadow : Fin 28)
  /-- JOB_AGE_PROMOTION (R98). -/
  | jobAgePromotion (r : Fin 16)
  /-- KAT_DONE (R107). -/
  | katDone (e : Fin 28) (pass : Bool)
  /-- ACCUMULATOR_ACCESS (R109). -/
  | accumulatorAccess (e : Fin 28) (off : Nat) (write : Option Word)
  /-- HOST_DATA_INGEST (R187). -/
  | hostDataIngest (qid cid : Nat) (blocks : List HostBlock)
  /-- WRITE_COMMIT (R115). -/
  | writeCommit (qid : Nat) (commit : CommitFacts)
  /-- WT_HOLD_TIMEOUT (R113). -/
  | wtHoldTimeout (qid cid : Nat)
  /-- WRITEBACK_AGE_EXPIRY (R121). -/
  | writebackAgeExpiry (array : Fin 4) (row : Nat)
  /-- WRITEBACK_START (R502). -/
  | writebackStart (array : Fin 4) (row : Nat)
  /-- ROW_LOCK_GRANT (R127). -/
  | rowLockGrant (array : Fin 4) (row : Nat)
  /-- INTENT_LANDED (R124). -/
  | intentLanded (index : Nat)
  /-- INTENT_RETIRE (R132). -/
  | intentRetire (index : Nat)
  /-- JOURNAL_REPLAY (R136). -/
  | journalReplay (reads rows : List (Nat × RowReads)) (strange : List StrangeBlocks) (badDirs : List Nat) (partnerSeq : Option Nat)
  /-- MEMBER_COMMAND_COMPLETE (R497). -/
  | memberCommandComplete (slot : Fin 108) (tag : Nat) (reply : DriveReply) (blocks : List DriveBlock) (info : Option Nat) (capacity : Nat)
  /-- MEMBER_COMMAND_TIMEOUT (R144). -/
  | memberCommandTimeout (slot : Fin 108) (tag : Nat)
  /-- SLOT_LINK_DOWN (R144). -/
  | slotLinkDown (slot : Fin 108)
  /-- SLOT_LINK_UP (R309). -/
  | slotLinkUp (slot : Fin 108) (rate : Fin 4)
  /-- LINK_DOWN_ERASE_TIMER (R147). -/
  | linkDownEraseTimer (slot : Fin 108)
  /-- REBUILD_ROW (R167). -/
  | rebuildRow (k : Fin 8) (reads : RowReads)
  /-- REBUILD_CHECKPOINT (R168). -/
  | rebuildCheckpoint (k : Fin 8)
  /-- GRAZE_STEP (R172). -/
  | grazeStep (array : Fin 4) (group : Option (Fin 8)) (first again : List (Nat × RowReads))
  /-- GRAZE_RESUME (R174). -/
  | grazeResume (array : Fin 4) (group : Fin 9)
  /-- HOST_DATA_EGRESS (R188). -/
  | hostDataEgress (qid cid : Nat) (bad : List Nat) (partner : List (Nat × (Block × Nat)))
  /-- DOORBELL_POLL (R203). -/
  | doorbellPoll (tails heads : List (Nat × Nat))
  /-- COMMAND_FETCH (R218). -/
  | commandFetch (entries : List RawEntry)
  /-- IDENTIFY (R229). -/
  | identify (cid : Nat)
  /-- GET_FEATURE (R233). -/
  | getFeature (cid : Nat)
  /-- SET_FEATURE (R235). -/
  | setFeature (cid : Nat)
  /-- SET_FEATURE_WRITE_THROUGH (R235). -/
  | setFeatureWriteThrough (cid : Nat)
  /-- GET_LOG (R236). -/
  | getLog (cid : Nat)
  /-- CREATE_IO_QUEUE (R241). -/
  | createIoQueue (cid : Nat)
  /-- DELETE_IO_QUEUE (R242). -/
  | deleteIoQueue (cid : Nat)
  /-- QUEUE_DELETE_DRAINED (R242). -/
  | queueDeleteDrained (qid : Nat)
  /-- ARRAY_CREATE (R243). -/
  | arrayCreate (cid uuid : Nat) (drives : List (Nat × Option DriveFacts))
  /-- ARRAY_DELETE (R245). -/
  | arrayDelete (cid : Nat)
  /-- VOLUME_CREATE (R246). -/
  | volumeCreate (cid uuid : Nat)
  /-- VOLUME_FORMAT (R246). -/
  | volumeFormat (vol : Fin 64)
  /-- VOLUME_DELETE (R247). -/
  | volumeDelete (cid : Nat)
  /-- VOLUME_DELETE_DRAINED (R247). -/
  | volumeDeleteDrained (vol : Fin 64)
  /-- MEMBER_REPLACE (R248). -/
  | memberReplace (cid : Nat) (drive : Option DriveFacts)
  /-- SELF_TEST_SHORT (R250). -/
  | selfTestShort (cid : Nat)
  /-- SELF_TEST_EXTENDED (R251). -/
  | selfTestExtended (cid : Nat)
  /-- SELF_TEST_ABORT (R253). -/
  | selfTestAbort (cid : Nat)
  /-- SELF_TEST_DONE (R254). -/
  | selfTestDone (found : ShortFindings) (reads : List (Nat × RowTwice))
  /-- POWER_STATE_QUERY (R255). -/
  | powerStateQuery (cid : Nat)
  /-- POWER_STATE_PARK (R255). -/
  | powerStatePark (cid : Nat)
  /-- POWER_STATE_WAKE (R255). -/
  | powerStateWake (cid : Nat)
  /-- SWAP (R258). -/
  | swap (cid : Nat)
  /-- ENTER_SERVICE (R258). -/
  | enterService (cid : Nat)
  /-- LEAVE_SERVICE (R258). -/
  | leaveService (cid : Nat)
  /-- SET_PREFERRED (R258). -/
  | setPreferred (cid : Nat)
  /-- REVERT_NOW (R258). -/
  | revertNow (cid : Nat) (tested persists : Bool)
  /-- FIRMWARE_STAGE (R259). -/
  | firmwareStage (piece : StagePiece)
  /-- FW_COMMIT_STORE (R260). -/
  | fwCommitStore (cid : Nat) (image : ImageFacts)
  /-- FW_COMMIT_STORE_ACTIVATE_NEXT (R260). -/
  | fwCommitStoreActivateNext (cid : Nat) (image : ImageFacts)
  /-- FW_COMMIT_ACTIVATE_NEXT (R260). -/
  | fwCommitActivateNext (cid : Nat)
  /-- FW_COMMIT_ACTIVATE_NOW (R260). -/
  | fwCommitActivateNow (cid : Nat) (image : ImageFacts)
  /-- FW_COMMIT_INSTALL_ROOT (R260). -/
  | fwCommitInstallRoot (cid : Nat) (image : ImageFacts)
  /-- PACK_AUTHENTICATE (R261). -/
  | packAuthenticate (cid : Nat) (ok : Bool)
  /-- PACK_INSTALL_ROOT (R333). -/
  | packInstallRoot (cid root : Nat) (ok : Bool)
  /-- PACK_REMOVE_ROOT (R333). -/
  | packRemoveRoot (cid : Nat) (ok : Bool)
  /-- SET_BUDGET (R395). -/
  | setBudget (cid : Nat) (buffer : List Nat)
  /-- SET_ELIGIBILITY (R414). -/
  | setEligibility (cid : Nat) (buffer : List Nat)
  /-- GROUP_CREATE (R404). -/
  | groupCreate (cid : Nat) (buffer : List Nat) (facts : List VolFacts)
  /-- GROUP_DELETE (R414). -/
  | groupDelete (cid : Nat) (buffer : List Nat)
  /-- GROUP_RESYNC (R411). -/
  | groupResync (cid : Nat) (buffer : List Nat)
  /-- GROUP_RECOVER (R413). -/
  | groupRecover (cid : Nat) (buffer : List Nat)
  /-- FORGET_NODE (R396). -/
  | forgetNode (cid : Nat) (buffer : List Nat)
  /-- WAKE_NODE (R414). -/
  | wakeNode (cid : Nat) (buffer : List Nat)
  /-- ABORT (R263). -/
  | abort (cid : Nat)
  /-- READ (R264). -/
  | read (qid cid : Nat)
  /-- WRITE (R264). -/
  | write (qid cid : Nat)
  /-- VERIFY (R264). -/
  | verify (qid cid : Nat) (reads : List (Nat × RowReads))
  /-- FLUSH (R116). -/
  | flush (qid cid : Nat)
  /-- FLUSH_COMPLETE (R116). -/
  | flushComplete (qid cid : Nat)
  /-- FLUSH_WAKE_TIMEOUT (R264). -/
  | flushWakeTimeout (qid cid : Nat)
  /-- WRITE_ZEROES (R264). -/
  | writeZeroes (qid cid : Nat)
  /-- COPY (R266). -/
  | copy (qid cid : Nat) (bad : List Nat) (partner : List (Nat × (Block × Nat)))
  /-- LANE_FAILURE (R269). -/
  | laneFailure (lane : Fin 16) (errors : Nat)
  /-- LINK_TRAINED (R269). -/
  | linkTrained (speed : Fin 6) (lanes : List (Fin 16))
  /-- BAR2_ACCESS (R278). -/
  | bar2Access (addr len : Nat) (write : Option (List Nat))
  /-- HOST_READ_ERROR (R284). -/
  | hostReadError (what : HostRead)
  /-- LINE_EVALUATION (R292). -/
  | lineEvaluation (vrms freq : Nat) (inlet : Int)
  /-- SLOT_SHED (R293). -/
  | slotShed (busLow : Bool)
  /-- SLOT_TRIP (R298). -/
  | slotTrip (slot : Fin 108) (rail12 : Bool)
  /-- COOLDOWN_END (R298). -/
  | cooldownEnd (slot : Fin 108)
  /-- SLOT_PRESENT_CHANGE (R299). -/
  | slotPresentChange (slot : Fin 108) (present : Bool) (drive : DriveFacts)
  /-- SPIN_TIMEOUT (R305). -/
  | spinTimeout (slot : Fin 108)
  /-- DRIVE_READY (R498). -/
  | driveReady (slot : Fin 108)
  /-- SLOT_LINK_TIMEOUT (R498). -/
  | slotLinkTimeout (slot : Fin 108)
  /-- SPINUP_RETRY (R498). -/
  | spinupRetry (slot : Fin 108)
  /-- SLOT_OFF_TIMEOUT (R302). -/
  | slotOffTimeout (slot : Fin 108)
  /-- STOP_UNIT_TIMEOUT (R310). -/
  | stopUnitTimeout (slot : Fin 108)
  /-- PACK_INSERTED (R313). -/
  | packInserted (p : PackInfo) (mv : Nat) (temp : Int) (authOk : Bool)
  /-- CHARGE_WINDOW_EXIT (R314). -/
  | chargeWindowExit (temp : Int)
  /-- COULOMB_CONVERSION (R317). -/
  | coulombConversion (uah ma : Int) (mv : Nat) (temp : Int) (keepMv : Nat)
  /-- CURRENT_STEP (R320). -/
  | currentStep (dvMv diMa : Nat)
  /-- EOD (R321). -/
  | eod (mv idMa : Nat)
  /-- AUTH_PERIODIC (R333). -/
  | authPeriodic (ok : Bool)
  /-- AUTH_RETRY (R333). -/
  | authRetry (ok : Bool)
  /-- SMBUS_DONE (R312). -/
  | smbusDone (err : Bool) (bytes : List Nat)
  /-- KEEP_LOW (R330). -/
  | keepLow (mv : Nat)
  /-- FOC_PERIOD (R341). -/
  | focPeriod (c : Fin 6) (x : FocSample)
  /-- VOLT_LIMIT_CLEAR (R342). -/
  | voltLimitClear (c : Fin 6)
  /-- OBSERVER_LOSS (R346). -/
  | observerLoss (c : Fin 6)
  /-- COAST_RESTART (R346). -/
  | coastRestart (c : Fin 6)
  /-- SENSE_DONE (R344). -/
  | senseDone (c : Fin 6) (rpm : Int)
  /-- BRAKE_DONE (R344). -/
  | brakeDone (c : Fin 6)
  /-- ALIGN_DONE (R344). -/
  | alignDone (c : Fin 6)
  /-- OPEN_RAMP_DONE (R344). -/
  | openRampDone (c : Fin 6)
  /-- SYNC_DONE (R344). -/
  | syncDone (c : Fin 6)
  /-- START_FAIL (R344). -/
  | startFail (c : Fin 6)
  /-- START_RETRY (R344). -/
  | startRetry (c : Fin 6)
  /-- MISSING_PHASE (R347). -/
  | missingPhase (c : Fin 6)
  /-- FAN_OVERCURRENT (R348). -/
  | fanOvercurrent (c : Fin 6)
  /-- FAN_FAULT_RESTART (R349). -/
  | fanFaultRestart (c : Fin 6)
  /-- FAN_TOKEN_CLAIM_DONE (R350). -/
  | fanTokenClaimDone (samples : List Bool)
  /-- FAN_TOKEN_LINE_CHANGE (R350). -/
  | fanTokenLineChange (low : Bool)
  /-- FAN_POWER_REPORT (R354). -/
  | fanPowerReport (pMeasDw : List Nat) (irms : List (Nat × (Nat × Nat)))
  /-- FAN_DEMAND_COMPUTE (R355). -/
  | fanDemandCompute (t : TempReadings)
  /-- BEAT (R366). -/
  | beat (word seq dirtyMib : Nat) (hostUp : Bool)
  /-- BEAT_MISS (R361). -/
  | beatMiss (mirror : Bool)
  /-- ACTIVE_CLAIM_DONE (R358). -/
  | activeClaimDone (samples : List Bool)
  /-- ACTIVE_LINE_CHANGE (R362). -/
  | activeLineChange (low : Bool)
  /-- POWER_CHECK (R370). -/
  | powerCheck (ok : Bool)
  /-- REVERT_HOLDOFF_EXPIRY (R372). -/
  | revertHoldoffExpiry (tested persists : Bool)
  /-- HOLD_SELF_CHECK (R375). -/
  | holdSelfCheck (clear : Bool)
  /-- COMMIT (R117). -/
  | commit (number : Nat)
  /-- COMMIT_ACK (R117). -/
  | commitAck (number : Nat)
  /-- INTENT (R117). -/
  | intent (index : Nat) (entry : List Nat)
  /-- INTENT_ACK (R124). -/
  | intentAck (index : Nat)
  /-- CEILING (R117). -/
  | ceiling (mib : Nat) (healthy : Bool)
  /-- SLOT_STATE (R302). -/
  | slotState (en12 en5 spin awake : Nat)
  /-- SLOT_ACK (R302). -/
  | slotAck (on : Nat)
  /-- FAN_STATE (R351). -/
  | fanState (chans : List (Nat × Nat))
  /-- CONFIG (R366). -/
  | config (what : List Nat)
  /-- TOKEN (R398). -/
  | token (watts leaseMs addr : Nat)
  /-- RELINQUISH_MESSAGE (R362). -/
  | relinquishMessage (reason : Fin 16)
  /-- RESYNC (R367). -/
  | resync (lines : List (Nat × (Block × Nat))) (entries : List (Nat × List Nat))
  /-- BLOCK_NAK (R193). -/
  | blockNak (key : Nat)
  /-- FABRIC_LINK_UP (R380): the lanes that cable and partner allow; whether the cable identifies as passive copper, and the type it
  identifies as (R483). -/
  | fabricLinkUp (p : Fin 4) (lanes : Nat) (passive : Bool) (cable : Nat)
  /-- FABRIC_LINK_DOWN (R382). -/
  | fabricLinkDown (p : Fin 4)
  /-- FABRIC_BLEAT_TIMEOUT (R382). -/
  | fabricBleatTimeout (p : Fin 4)
  /-- PARKED_LISTEN (R381). -/
  | parkedListen (p : Fin 4)
  /-- BLEAT (R387). -/
  | bleat (p : Fin 4) (good : Bool) (b : Bleat)
  /-- LINK_CTL (R384). -/
  | linkCtl (p : Fin 4) (ack : Nat) (nak : Option Nat)
  /-- LINK_REPLAY (R384). -/
  | linkReplay (p : Fin 4)
  /-- FRAME_FORWARD (R385). -/
  | frameForward (p : Fin 4) (good : Bool) (f : Frame)
  /-- LSA (R391). -/
  | lsa (p : Fin 4) (uid addr seq : Nat) (links : List LsaLink)
  /-- LSA_EXPIRY (R391). -/
  | lsaExpiry (uid : Nat)
  /-- ADDR_REQ (R389). -/
  | addrReq (p : Fin 4) (src : Option Nat) (uid pref : Nat)
  /-- ADDR_ASSIGN (R389). -/
  | addrAssign (p : Fin 4) (src : Option Nat) (uid : Nat) (addr : Option Nat)
  /-- BUDGET (R395). -/
  | budget (p : Option (Fin 4)) (msg : BudgetMsg)
  /-- TOKEN_REQ (R397). -/
  | tokenReq (p : Option (Fin 4)) (src xseq want min cls : Nat)
  /-- TOKEN_GRANT (R398). -/
  | tokenGrant (p : Option (Fin 4)) (xseq watts leaseMs : Nat)
  /-- TOKEN_REPORT (R398). -/
  | tokenReport (p : Option (Fin 4)) (src xseq heldW drawDw : Nat)
  /-- TOKEN_RELEASE (R398). -/
  | tokenRelease (p : Option (Fin 4)) (src : Nat)
  /-- LEASE_MOVE (R401). -/
  | leaseMove (p : Option (Fin 4)) (src xseq lost : Nat)
  /-- TOKEN_REQUEST_DROP (R397). -/
  | tokenRequestDrop (src : Nat)
  /-- COPY_DESC (R403). -/
  | copyDesc (p : Option (Fin 4)) (src batch id lba vol nblkM1 : Nat) (pi : Bool) (crcs guards : List Nat)
  /-- COPY_DATA (R403). -/
  | copyData (p : Option (Fin 4)) (src batch idx : Nat) (data : Block)
  /-- COPY_ACK (R403). -/
  | copyAck (p : Option (Fin 4)) (id batch status level : Nat)
  /-- COPY_BATCH_TIMEOUT (R403). -/
  | copyBatchTimeout (id batch : Nat)
  /-- PEER_READ (R411). -/
  | peerRead (p : Option (Fin 4)) (src group member lba nblk : Nat) (data : List Block)
  /-- PEER_DATA (R411). -/
  | peerData (p : Option (Fin 4)) (src group member lba : Nat) (blocks : List (Block × Nat))
  /-- FLOCK_RESYNC_CHUNK (R411). -/
  | flockResyncChunk (group : Nat)
  /-- DELTA_DESC (R407). -/
  | deltaDesc (p : Option (Fin 4)) (src group member : Nat) (seqs : Nat × Nat) (lba nblk crc : Nat)
  /-- DELTA_DATA (R407). -/
  | deltaData (p : Option (Fin 4)) (src xseq : Nat) (data old : Block)
  /-- DELTA_ACK (R407). -/
  | deltaAck (p : Option (Fin 4)) (group member dseq : Nat)
  /-- WAKE_REQ (R408). -/
  | wakeReq (p : Option (Fin 4)) (src : Nat)
  /-- GROUP (R404). -/
  | group (p : Option (Fin 4)) (msg : GroupMsg)
  /-- GROUP_STALE_TIMER (R409). -/
  | groupStaleTimer (group : Nat)
  /-- CBO_CLEAN (R430). -/
  | cboClean (core : Fin 9) (addr : Nat)
  /-- CBO_FLUSH (R430). -/
  | cboFlush (core : Fin 9) (addr : Nat)
  /-- CBO_INVAL (R430). -/
  | cboInval (core : Fin 9) (addr : Nat)
  /-- CACHE_CE (R427). -/
  | cacheCe (addr : Nat)
  /-- CACHE_UE (R427). -/
  | cacheUe (core : Option (Fin 9)) (addr : Nat)
  /-- TAG_PARITY_ERROR (R428). -/
  | tagParityError (index : Fin 4096) (way : Fin 16)
  /-- MTIME_COMPARE (R419). -/
  | mtimeCompare (core : Fin 9)
  /-- MAILBOX_TIMEOUT (R437). -/
  | mailboxTimeout (m : Fin 64)
  /-- PEER_LOCK_REQUEST (R442). -/
  | peerLockRequest (m : Fin 64) (release : Bool)
  /-- DMA_DESCRIPTOR (R445). -/
  | dmaDescriptor (c : Fin 16) (host : List Nat) (dstFail limit : Option Nat)
  /-- DMA_DESCRIPTOR_DONE (R447). -/
  | dmaDescriptorDone (c : Fin 16)
  /-- SRAM_ROW_REMAP (R455). -/
  | sramRowRemap (array row : Nat)
  /-- DRAM_ROW_LIMIT (R457). -/
  | dramRowLimit (loc row : Nat) (ue : Bool)
  /-- DRAM_PPR_DONE (R457). -/
  | dramPprDone (region : Nat)
  /-- POST_DONE (R456). -/
  | postDone (engines cores : List Nat) (rows : List (Nat × Nat)) (columns : List Nat)
  /-- CORE_PERIODIC_TEST (R458). -/
  | corePeriodicTest (core : Fin 9) (pass sparePass : Bool)
  /-- FABRIC_LANE_FAILURE (R460). -/
  | fabricLaneFailure (port : Fin 7) (lane : Fin 4)
  /-- STRAP_CHANGE (R473). -/
  | strapChange (posB compatN : Bool) (shelf : Fin 64)
  /-- CONSOLE_IMAGE_LOAD (R484). -/
  | consoleImageLoad (image : ImageFacts) (slot : Fin 2)
  /-- CACHE_FILL_COMPLETE (R423). -/
  | cacheFillComplete (line : Nat)
  /-- VICTIM_WRITEBACK_LANDED (R425). -/
  | victimWritebackLanded (line : Nat)
  /-- SPINUP_FAILURE (R498). -/
  | spinupFailure (slot : Fin 108)
  /-- MIRROR_LINK_UP (R367). -/
  | mirrorLinkUp (lanes : Fin 13)
  /-- CHARGE_WINDOW_ENTRY (R314). -/
  | chargeWindowEntry (temp : Int)
  /-- GRAZE_OVERDUE (R179). -/
  | grazeOverdue (array : Fin 4) (group : Fin 8) (whole : Bool)
  /-- NODE_UNHEARD_EXPIRY (R396). -/
  | nodeUnheardExpiry (uid : Nat)
  /-- COPY_WAKE_TIMEOUT (R403). -/
  | copyWakeTimeout (qid cid : Nat)
  /-- RESET_ACCESS_TIMEOUT (R13). -/
  | resetAccessTimeout
  /-- SPIN_DOWN_EXCESS (R36). -/
  | spinDownExcess
  /-- IDLE_PARK_EXPIRY (R234). -/
  | idleParkExpiry
  /-- ENTER_SERVING (R307). -/
  | enterServing
  /-- DRAIN_COMPLETE (R310). -/
  | drainComplete
  /-- DESTAGE_COMPLETE (R134). -/
  | destageComplete
  /-- WAKE_DENIED (R256). -/
  | wakeDenied
  /-- XLATE_DONE (R51). -/
  | xlateDone
  /-- JOB_DISPATCH (R99). -/
  | jobDispatch
  /-- WRITE_THROUGH_REACHED (R113). -/
  | writeThroughReached
  /-- REPLAY_DONE_WRITE (R129). -/
  | replayDoneWrite
  /-- FW_COMMAND_ENTRY (R145). -/
  | fwCommandEntry
  /-- QUEUE_ENABLE (R198). -/
  | queueEnable
  /-- QUEUE_READY (R198). -/
  | queueReady
  /-- QUEUE_DISABLE (R226). -/
  | queueDisable
  /-- QUEUE_STOPPED (R226). -/
  | queueStopped
  /-- KICK (R204). -/
  | kick
  /-- HEARTBEAT_RECORD (R224). -/
  | heartbeatRecord
  /-- SELF_TEST_RESUME (R252). -/
  | selfTestResume
  /-- LINK_RESTORE (R269). -/
  | linkRestore
  /-- BUS_MASTER_DISABLE (R285). -/
  | busMasterDisable
  /-- BUS_MASTER_ENABLE (R285). -/
  | busMasterEnable
  /-- FLR (R287). -/
  | flr
  /-- FLR_COMPLETE (R287). -/
  | flrComplete
  /-- PERST (R288). -/
  | perst
  /-- HOT_RESET (R286). -/
  | hotReset
  /-- DL_DOWN (R286). -/
  | dlDown
  /-- D3HOT_ENTRY (R275). -/
  | d3hotEntry
  /-- D0_RETURN (R275). -/
  | d0Return
  /-- XLAT_DRAIN_DONE (R280). -/
  | xlatDrainDone
  /-- INTX_ACK (R283). -/
  | intxAck
  /-- MAINS_LOST (R295). -/
  | mainsLost
  /-- MAINS_RETURN (R295). -/
  | mainsReturn
  /-- CONVERTER_OVERLOAD (R293). -/
  | converterOverload
  /-- OVERLOAD_CLEAR (R293). -/
  | overloadClear
  /-- CONVERTER_REGULATING (R291). -/
  | converterRegulating
  /-- CONV_FAULT (R364). -/
  | convFault
  /-- GATE1_ADMIT (R305). -/
  | gate1Admit
  /-- GATE2_ADMIT (R305). -/
  | gate2Admit
  /-- MODULE_UNMATE (R488). -/
  | moduleUnmate
  /-- PACK_REMOVED (R313). -/
  | packRemoved
  /-- CHARGE_TERMINATION (R314). -/
  | chargeTermination
  /-- CHARGE_TIMEOUT (R314). -/
  | chargeTimeout
  /-- CHG_FAULT_RETRY (R315). -/
  | chgFaultRetry
  /-- REST_VALID (R318). -/
  | restValid
  /-- PACK_ESTIMATE (R323). -/
  | packEstimate
  /-- LEARN_START (R326). -/
  | learnStart
  /-- LEARN_TIMEOUT (R326). -/
  | learnTimeout
  /-- FAN_TOKEN_CLAIM (R350). -/
  | fanTokenClaim
  /-- FAN_TOKEN_RELEASE (R350). -/
  | fanTokenRelease
  /-- FAN_WATCHDOG_EXPIRY (R353). -/
  | fanWatchdogExpiry
  /-- BEAT_SEND (R360). -/
  | beatSend
  /-- ROLE_TAKE (R359). -/
  | roleTake
  /-- ACTIVE_CLAIM (R358). -/
  | activeClaim
  /-- ACTIVE_RELEASE (R358). -/
  | activeRelease
  /-- RELINQUISH (R31). -/
  | relinquish
  /-- TAKEOVER_COMPLETE (R369). -/
  | takeoverComplete
  /-- WATCHDOG_KICK (R363). -/
  | watchdogKick
  /-- FW_WATCHDOG_EXPIRY (R363). -/
  | fwWatchdogExpiry
  /-- KEEPER_RELEASE (R363). -/
  | keeperRelease
  /-- WATCHDOG_RESTART (R470). -/
  | watchdogRestart
  /-- HANDOVER_BEGIN (R370). -/
  | handoverBegin
  /-- HANDOVER_POWER_OK (R370). -/
  | handoverPowerOk
  /-- HANDOVER_POWER_FAIL (R371). -/
  | handoverPowerFail
  /-- HANDOVER_COMMIT (R370). -/
  | handoverCommit
  /-- RESYNC_COMPLETE (R367). -/
  | resyncComplete
  /-- SWAP_DUE (R373). -/
  | swapDue
  /-- HOLD_UNSYNCED_TIMEOUT (R375). -/
  | holdUnsyncedTimeout
  /-- MIRROR_LINK_DOWN (R367). -/
  | mirrorLinkDown
  /-- SLOT_STATE_SEND (R366). -/
  | slotStateSend
  /-- FAN_STATE_SEND (R351). -/
  | fanStateSend
  /-- BLEAT_SEND (R387). -/
  | bleatSend
  /-- LSA_REFRESH (R391). -/
  | lsaRefresh
  /-- ADDR_RETRY (R389). -/
  | addrRetry
  /-- TOKEN_REPORT_TIMER (R398). -/
  | tokenReportTimer
  /-- LEASE_EXPIRY (R400). -/
  | leaseExpiry
  /-- BELLWETHER_GRANT_START (R399). -/
  | bellwetherGrantStart
  /-- DELTA_RESEND (R407). -/
  | deltaResend
  /-- CLEAN (R431). -/
  | clean
  /-- INVAL (R431). -/
  | inval
  /-- CACHE_FLUSH (R431). -/
  | cacheFlush
  /-- CLEAN_ALL (R431). -/
  | cleanAll
  /-- FLUSH_ALL (R431). -/
  | flushAll
  /-- INVAL_ALL (R431). -/
  | invalAll
  /-- MAINT_DONE (R431). -/
  | maintDone
  /-- LANE_RESTORE (R460). -/
  | laneRestore
  /-- REPAIR_RECORD_POP (R462). -/
  | repairRecordPop
  /-- POWER_ON_RESET (R466). -/
  | powerOnReset
  /-- BOOT_TIMEOUT (R471). -/
  | bootTimeout
  /-- CONSOLE_COLD_RESET (R484). -/
  | consoleColdReset
  /-- CONSOLE_WARM_RESET (R484). -/
  | consoleWarmReset
  /-- CONSOLE_DUMP (R484). -/
  | consoleDump
  /-- HOST_LINK_DOWN_FAULT (R364). -/
  | hostLinkDownFault
  /-- PACK_CUTOFF (R312). -/
  | packCutoff
  deriving DecidableEq, Repr

end Sys2Proof
end

