-- ==== Sys2Proof/Machine/Parts.lean ====
section
/-! DEFINITION. The module's state outside its registers, one structure per block: what the chapters of the spec give the
machine beside register fields. Times are readings of CCH_MTIME in microseconds unless a field says otherwise. -/

namespace Sys2Proof.Machine

/-- The attributes of a request to the host (R273): ID-Based Ordering and the width of its tag; Relaxed Ordering and No Snoop are never
set. -/
structure HostAttr where
  ido : Bool
  tagBits : Nat
  relaxedOrdering : Bool := false
  noSnoop : Bool := false
  deriving DecidableEq, Repr

/-- Something the module sends out: the observations of a run, newest first in the state (log entry 2). -/
inductive Out where
  /-- A posted write into host memory (R273). -/
  | hostWrite (addr : Nat) (bytes : List Nat) (attr : HostAttr)
  /-- A read request to host memory (R273). -/
  | hostRead (addr len : Nat) (attr : HostAttr)
  /-- An MSI-X message of a vector (R282). -/
  | msix (vector : Nat)
  /-- Assert_INTA (R283). -/
  | assertInta
  /-- Deassert_INTA (R283). -/
  | deassertInta
  /-- A read completion of a BAR2 TLP: the bytes, or none for Unsupported Request (R278). -/
  | tlpCompletion (bytes : Option (List Nat))
  /-- An LTR message, as its field encoding (R274). -/
  | ltr (encoding : Nat)
  /-- A mirror-link message with its sequence number in the stream that its kind goes on, ordered or not (R366). -/
  | mirror (kind : MirKind) (seq : Nat) (args : List Nat)
  /-- A lock's request or answer in the mirror link's link-control traffic (R442). -/
  | mirrorControl (kind : MirCtl) (args : List Nat)
  /-- A beat word on the line path (R360). -/
  | lineBeat (word : Nat)
  /-- A fabric frame sent through a port, or to the node itself (R383). -/
  | fabric (port : Option Nat) (f : Frame)
  /-- A command to a drive, with block address and count, and with the blocks that a header write carries (R143). -/
  | drive (slot : Nat) (kind : DriveKind) (lba count : Nat) (data : List Block)
  /-- The metadata of an array, written into the header area of a drive (R158, R168, R172, R246, R501). -/
  | headerRecord (slot : Nat) (record : HeaderRecord)
  /-- Blocks of an open write on their way to a drive, with their protection information (R190). -/
  | driveData (slot tag : Nat) (blocks : List DriveBlock)
  /-- An SMBus transaction with the pack (R312). -/
  | smbus (cmd len : Nat) (read : Bool) (bytes : List Nat)
  /-- Text or data on the service console (R484). -/
  | console (words : List Nat)
  /-- A value returned to the requester of a register or memory read. -/
  | readValue (value : Nat)
  /-- An access fault of a core (R421, R427). -/
  | accessFault (core : Nat) (kind : AccessKind) (addr : Nat)
  /-- Bytes that a core's load or fetch gets (R422). -/
  | coreData (core addr : Nat) (bytes : List Nat)
  /-- The machine timer interrupt of a core becomes pending (R419). -/
  | timer (core : Nat)
  deriving DecidableEq, Repr

/-- Islands and modes (chapter 01), resets (chapter 17). -/
structure SysPart where
  /-- Islands retired until the next power-on self-test (R12). -/
  retired : List Island := []
  /-- Islands held in reset (R13). -/
  inReset : List Island := [.host, .fab]
  /-- Islands whose clock is gated (R11). -/
  gated : List Island := [.ox 24, .ox 25, .ox 26, .ox 27]
  /-- The module has power; an unpowered module reports no mode (R25). -/
  powered : Bool := true
  /-- A park request held until a mode accepts it (R32, R33). -/
  parkPending : Bool := false
  /-- A wake cause held until a mode accepts it (R32, R33). -/
  wakePending : Bool := false
  /-- A ROLE_CONTROL request for SERVICE held (R32). -/
  servicePending : Bool := false
  /-- The loop of R38 is due at once. -/
  loopDue : Bool := false
  /-- The heartbeat record is due at once (R224). -/
  hbDue : Bool := false
  /-- The FAULT LED as firmware lit it (R485). -/
  faultLed : Bool := false
  /-- Watts of tokens requested for a shortfall and not yet granted (R36). -/
  shortfall : Nat := 0
  /-- A wake is under way: watts that must be granted before PARKED is left (R306). -/
  wakeBudget : Option Nat := none
  /-- Clock of the last access of each drive, for R36. -/
  lastAccess : List (Nat × Nat) := []
  /-- The slot start failures seen for both firmware slots since the last success (R471). -/
  slotsFailed : List Nat := []
  /-- The reset straps' live position conflict stands until a cold reset (R474). -/
  posConflict : Bool := false
  /-- The cores are held in reset or in the boot ROM: firmware has not kicked since (R471). -/
  firmwareUp : Bool := false
  /-- Arrays have been assembled since the firmware last started (R501). -/
  assembled : Bool := false
  /-- What MRAM configuration holds of the registers, by key, until the firmware restores it after a reset (R141, R168, R472). -/
  config : Option (List (Nat × Nat)) := some []
  /-- Firmware images held by the two slots, as numbers; `none` where none is stored (R259). -/
  images : List (Nat × Nat) := [(1, 0)]
  deriving DecidableEq, Repr

/-- One fan channel beyond its registers (chapter 12). -/
structure FanChan where
  /-- The speed reference in 1/400 rpm, the step of one PWM period at 100 rpm/s (R342). -/
  refQ : Nat := 0
  /-- Clock readings of observer losses (R346). -/
  losses : List Nat := []
  /-- START_FAILs in a row (R344). -/
  startFails : Nat := 0
  /-- Clock readings of entries into FAULT (R349). -/
  faults : List Nat := []
  /-- The load angle and current vector of the channel that drives the fan: its own, or as last received from the active (R351). -/
  loadAngle : Nat := 0
  loadVec : Nat := 0
  /-- Magnitudes of measured minus predicted current in the last 8 PWM periods, newest first, in 10 mA / 768 (R341). -/
  residuals : List Nat := []
  /-- The observer residual is above RES_LIMIT (R341). -/
  aboveLimit : Bool := false
  /-- Milliseconds of UTC at the last fault, 0 for none (R356). -/
  lastFault : Nat := 0
  deriving DecidableEq, Repr

/-- The fan drive (chapter 12). -/
structure FanPart where
  chans : List (Nat × FanChan) := []
  /-- A claim of FAN_TOKEN_N is under way (R350). -/
  claiming : Bool := false
  /-- Source that sets demand and its temperature in 0.1 °C (R355, R356). -/
  demandSrc : Nat := 0x82
  srcTemp : Int := 0
  /-- Last temperature read from each drive in 0.1 °C and failed reads since (R355). -/
  driveTemps : List (Nat × (Int × Nat)) := []
  /-- T_lo and T_hi in 0.1 °C of drives, die, converter, inlet and pack (R355). -/
  limits : List (Int × Int) := [(350, 500), (750, 1000), (700, 950), (300, 550), (350, 500)]
  deriving DecidableEq, Repr

/-- What the pack's secure element holds (R312). -/
structure PackDesc where
  serial : Nat
  /-- Design capacity in 0.1 mAh and initial resistance in 0.1 mΩ. -/
  designDmah : Nat
  r25Dmohm : Nat
  /-- Open-circuit points (fraction in 1/1,024, mV) for -20, 25 and 60 °C (R319). -/
  ocvCold : List (Nat × Nat)
  ocvRoom : List (Nat × Nat)
  ocvHot : List (Nat × Nat)
  /-- The root its chain reaches: 1 Tamend, 2 the operator root whose digest is `rootDigest`, 0 none (R332). -/
  root : Nat
  rootDigest : Nat
  deriving DecidableEq, Repr

/-- A learned-capacity record (R329). -/
structure LcapRec where
  seq : Nat
  serial : Nat
  fccDmah : Nat
  r25Dmohm : Nat
  cycles : Nat
  time : Nat
  method : Nat
  deriving DecidableEq, Repr

/-- One valid rest kept for a REST_PAIR learn (R327). -/
structure RestRec where
  frac : Nat
  temp : Int
  time : Nat
  /-- BAT_COUNT at the rest, in µAh. -/
  count : Int
  deriving DecidableEq, Repr

/-- The pack and its gauge (chapter 11). -/
structure BatPart where
  desc : Option PackDesc := none
  /-- Authenticated, the root that vouches (0 none, 1 Tamend, 2 operator), failures in a row, time of the last success. -/
  auth : Bool := false
  authRoot : Nat := 0
  authFails : Nat := 0
  /-- The firmware has started, and the exchange of its start has not completed (R333). -/
  authDue : Bool := false
  lastAuth : Nat := 0
  /-- Digest of the operator pack root in MRAM (R333). -/
  operatorRoot : Option Nat := none
  /-- Remaining charge in µAh (R319). -/
  qRem : Int := 0
  /-- R_est25 in 0.1 mΩ (R320). -/
  r25 : Nat := 450
  /-- Weighted charge time in quarter seconds (R314). -/
  chargeQ : Nat := 0
  /-- A charge fault stands until CHG_EN is written 0 and then 1 (R314); clocks of the faults (R315). -/
  chgFault : Bool := false
  chgFaultTimes : List Nat := []
  /-- Charging is left off after a second fault in 24 h (R315). -/
  chgLeftOff : Bool := false
  /-- Charge counted out in µAh and start clock of the learn under way (R326). -/
  learnOut : Nat := 0
  learnStart : Nat := 0
  lastLearn : Nat := 0
  lastMethod : Nat := 0
  /-- Charge taken out since the pack was new, in µAh: 100 × this / FCC are the equivalent full cycles × 100 (R329). -/
  discharged : Nat := 0
  /-- Temperature at the start of the rest and its length in ms (R318). -/
  restTemp : Int := 250
  restMs : Nat := 0
  lastRest : Option RestRec := none
  /-- A store waits for KEEP_OK (R330). -/
  storeDue : Bool := false
  worn : Bool := false
  /-- The SMBus FIFO (BAT_SMB_DATA). -/
  smbFifo : List Nat := []
  /-- E_u at the last run of the loop (R323). -/
  lastEu : Nat := 0
  /-- Milliseconds of conversions below the threshold of the present rate (R317). -/
  quietMs : Nat := 0
  deriving DecidableEq, Repr

/-- One drive slot beyond its registers (chapters 05 and 10). -/
structure SlotRec where
  /-- Order in which the request bits of gates 1 and 2 were set (R305). -/
  order1 : Option Nat := none
  order2 : Option Nat := none
  /-- A power-off waits for the standby's report (R302): rails to open, as bits 12 V and 5 V. -/
  offWait : Nat := 0
  /-- The enable bit was cleared since the last trip (R298): bit 0 for 12 V, bit 1 for 5 V. -/
  tripHeld : Nat := 0
  /-- Failed spin-up attempts in a row (R498), and a failure of this wake's first attempt. -/
  attemptFails : Nat := 0
  failedThisWake : Bool := false
  /-- Left unpowered until PRESENT next shows an insertion (R498). -/
  leftOff : Bool := false
  /-- A retry waits for 5 s with the rails off (R498). -/
  retryDue : Bool := false
  /-- Clocks of command timeouts in the last 10 min and media errors in the last 24 h (R147). -/
  timeouts : List Nat := []
  mediaErrs : List Nat := []
  /-- A spin-up attempt is under way; the drive reported ready. -/
  attempting : Bool := false
  /-- STOP UNIT was sent and has not completed (R310). -/
  stopSent : Bool := false
  /-- Its STOP UNIT waits until no command is open on it (R142). -/
  stopDue : Bool := false
  /-- What the firmware found on the drive put into the bay, as R161 asks; none once that drive has failed as a member. -/
  drive : Option DriveFacts := none
  deriving DecidableEq, Repr

/-- Mains, converter and slots (chapter 10). -/
structure PwrPart where
  slots : List (Nat × SlotRec) := []
  /-- Next number in the order of request bits (R305). -/
  nextOrder : Nat := 0
  /-- When each gate last admitted a slot (R305). -/
  gate1At : Option Nat := none
  gate2At : Option Nat := none
  /-- C at the last CAP_CHANGE (R292). -/
  capAtChange : Nat := 0
  /-- The bus setpoint the ramp of R303 runs to, in mV. -/
  setpoint : Nat := 12000
  /-- Members of the wake set (R306). -/
  wakeSet : List Nat := []
  /-- MATE_N is high: the module is not mated (R488). -/
  unmated : Bool := false
  deriving DecidableEq, Repr

/-- A line of the cache directory: one 4 KiB block (R115, chapter 04). -/
structure Line where
  data : Block := 0
  dirty : Bool := false
  /-- The data also stands in MRAM staging (R119). -/
  staged : Bool := false
  /-- The level under which it was acknowledged (R112). -/
  level : Nat := 0
  /-- Clock at which it became dirty (R121). -/
  since : Nat := 0
  /-- Number of the commit that made it: a later write commits into a line of its own (R191). -/
  ver : Nat := 0
  /-- A mirrored copy held as standby (R367). -/
  mirrored : Bool := false
  /-- Its DRAM sidecar word (R78, R182). -/
  sidecar : Nat := crc32c (leBytes 4096 data)
  deriving DecidableEq, Repr

/-- A check of the line's sidecar fails: it is not the CRC-32C of the data (R183). -/
def Line.bad (l : Line) : Bool := l.sidecar != crc32c (leBytes 4096 l.data)

/-- A record of the staging log (R119). -/
structure StageRec where
  seq : Nat
  vol : Nat
  lba : Nat
  nblk : Nat
  crc : Nat
  /-- Blocks of the record whose intents have not retired. -/
  left : List Nat
  /-- Where it lies in the area, in units of 4 KiB. -/
  place : Nat
  deriving DecidableEq, Repr

/-- An intent of the journal, head and extensions as one record (R130, R131). -/
structure Intent where
  /-- 1 OPEN, 2 PARITY, 3 CLOSING. -/
  state : Nat
  /-- 0 FULL, 1 RMW, 2 RCW, 3 REPAIR. -/
  method : Nat
  level : Nat
  flock : Bool
  parValid : Bool
  next : Nat
  array : Nat
  seq : Nat
  row : Nat
  generation : Nat
  members : List Nat
  firstBlk : Nat
  nblkM1 : Nat
  cacheRef : Nat
  vol : Nat
  newCrc : List Nat
  oldCrc : List Nat
  /-- Format 1 of MXZ-7072 (R476). -/
  fmt1 : Bool
  deriving DecidableEq, Repr

/-- The shape of an array (R41, R42): group count, data per group, global parities, unit, header, rows and slots. -/
structure Geo where
  layout : Nat := 0
  shift : Nat := 0
  groups : Nat := 0
  dpg : Nat := 0
  globals : Nat := 0
  hdr : Nat := 0
  rows : Nat := 0
  slots : List Nat := []
  deriving DecidableEq, Repr

/-- A stripe update under way (R124). -/
structure Update where
  array : Nat
  row : Nat
  vol : Nat
  /-- Data indices touched, and the block range (R125). -/
  units : List Nat
  firstBlk : Nat
  nblkM1 : Nat
  method : Nat
  /-- 10 waiting for room in the deferred-delta log (R408), 0 waiting for the lock, 1 locked and reading, 2 intent written, 3 intent landed and mirror report awaited,
  4 job issued, 5 member writes under way, 6 closing, 7 waiting for a run of intent entries, 8 waiting for a plan, 9 waiting
  for a source block to be settled (R194), 11 DELTA jobs of a flock member under way (R405). -/
  step : Nat
  /-- Index of its intent's head. -/
  head : Option Nat
  /-- Members whose write is not yet confirmed, once for each drive that takes it (R165). -/
  waiting : List Nat
  /-- Configuration captured at dispatch (R73): the members erased in the row, which one whose write fails joins, and the array's shape. -/
  erased : List Nat
  geo : Geo
  /-- Cache lines the update carries (R191). -/
  lines : List (Nat × Line)
  /-- Units of a lost row that take zeros (R171). -/
  lost : List Nat := []
  /-- Sources and coefficients that give each erased member the update needs, captured at the grant (R102). -/
  plans : List (Nat × List (Nat × Nat)) := []
  /-- Members whose read is not yet in, and those whose read ended with MEDIA or T10 (R156). -/
  reading : List Nat := []
  unreadable : List Nat := []
  /-- Old or untouched content read in step 2, by member index. -/
  reads : List (Nat × List Block) := []
  /-- Slot and tag of each of its member reads and writes (R88, R89). -/
  rx : List (Nat × Nat) := []
  tx : List (Nat × (Nat × Nat)) := []
  /-- What the members take, from its job: the new content by member index. -/
  writes : List (Nat × List Block) := []
  /-- Parities still to be written once the engine job has ended OK (R126). -/
  parityLeft : List Nat := []
  /-- Units whose DELTA job has not ended OK, and what the others gave: old ⊕ new (R405). -/
  deltaLeft : List Nat := []
  deltas : List (Nat × List Block) := []
  deriving DecidableEq, Repr

/-- Who asks for a row lock (R127): a stripe update, or a repair of the firmware (R156, R167, R176). -/
inductive LockUser where
  | update (u : Nat)
  | repair (r : Nat)
  deriving DecidableEq, Repr

/-- A NAND image (R134, R135, R503). -/
structure Image where
  seqAtLoss : Nat
  sealed : Bool
  dirOk : Bool
  /-- A replay has left it in place for intents that it still covers (R135, R136). -/
  kept : Bool := false
  /-- Dirty and mirrored lines it holds. -/
  lines : List (Nat × Line)
  deriving DecidableEq, Repr

/-- A write whose data is in DRAM and which is not yet acknowledged (R113, R116, R118). -/
structure Flight where
  /-- The command's number. -/
  cmd : Nat
  keys : List Nat
  /-- Waits for the partner's COMMIT_ACK of this commit number (R117). -/
  ack : Option Nat
  /-- Held for the transition to WRITE_THROUGH or for admission (R113, R120). -/
  held : Bool
  /-- Its data waits for room in MRAM staging (R118, R119). -/
  toStage : Bool := false
  deriving DecidableEq, Repr

/-- The write path and the journal (chapter 04). -/
structure JnlPart where
  lines : List (Nat × Line) := []
  flights : List Flight := []
  staging : List StageRec := []
  stageSeq : Nat := 0
  /-- Where the next record of the staging log goes, in units of 4 KiB (R119). -/
  stageNext : Nat := 0
  /-- The highest SEQ of any intent head in MRAM (R135). -/
  topSeq : Option Nat := none
  /-- Runs given out through JNL_ALLOC whose head has not landed: index and extension entries (R132). -/
  reserved : List (Nat × Nat) := []
  intents : List (Nat × Intent) := []
  updates : List (Nat × Update) := []
  nextUpdate : Nat := 0
  /-- Row locks by row key: the holder, if one is granted, and the requests in order (R127). -/
  locks : List (Nat × (Option LockUser × List LockUser)) := []
  /-- Number of the latest commit. -/
  commits : Nat := 0
  /-- The two NAND image areas (R503); a third image is never written. -/
  images : List (Nat × Image) := []
  /-- A transition to WRITE_THROUGH is under way (R113). -/
  toWt : Bool := false
  /-- The own pack's ceiling and the partner's, in MiB (R120). -/
  ownCeiling : Nat := 0
  partnerCeiling : Nat := 0
  partnerPackHealthy : Bool := false
  /-- Rows due for write-back and rows demanded (R121, R37, R114, FLUSH, FUA), as keys. -/
  dueRows : List Nat := []
  demandRows : List Nat := []
  /-- Requests for intent entries that wait, in order (R129): an update or a repair, or none for JNL_ALLOC. -/
  stalled : List (Option LockUser) := []
  /-- The image area that is being written (R134). -/
  imageArea : Option Nat := none
  /-- Number of the last commit record acknowledged (R117). -/
  commitAcked : Nat := 0
  deriving DecidableEq, Repr

/-- Who a member command serves (R143). -/
inductive Owner where
  /-- A stripe update and a member index. -/
  | update (u member : Nat)
  /-- A read piece, its attempt, and a member index. -/
  | piece (p attempt member : Nat)
  /-- The firmware command ring, with the entry's SLOT byte (R145). -/
  | firmware (slotByte : Nat)
  /-- A repair of the firmware and a member index. -/
  | repair (r member : Nat)
  /-- The firmware's own writes and reads. -/
  | own
  deriving DecidableEq, Repr

/-- A member command (R143): open at a port, or waiting to be opened while SAS_CTRL.ENABLE is 0. -/
structure MemCmd where
  phys : Nat
  logical : Nat
  /-- It is addressed to the physical slot, whatever the substitutions say (R140, R145). -/
  fixed : Bool
  tag : Nat
  write : Bool
  lba : Nat
  nblk : Nat
  owner : Owner
  /-- The blocks of a write, once a job has brought them. -/
  data : List Block
  deriving DecidableEq, Repr

/-- A read piece (R148): one block range of one data unit in one row. -/
structure Piece where
  /-- The command's number, and the block's index in it. -/
  cmd : Nat
  idx : Nat
  array : Nat
  row : Nat
  d : Nat
  first : Nat
  nblk : Nat
  /-- 0 to be served, 1 read from its member, 2 local decode, 3 plan decode, 4 held for a wake, 5 held for a plan,
  6 escalated, 7 waiting for room in the escalation ring, 8 waiting for room among the held pieces. -/
  state : Nat := 0
  attempt : Nat := 0
  /-- Physical slots it waits on (R150). -/
  needs : List Nat := []
  /-- The member indices it failed on, with the reason of each (R155), and the first of its attempt with the status that its read ended with. -/
  failed : List (Nat × Nat) := []
  err : Option (Nat × DriveStatus) := none
  /-- Reason of its escalation and the logical slot that failed (R155). -/
  reason : Nat := 0
  lastSlot : Nat := 0
  /-- It has been counted as read degraded (R153). -/
  counted : Bool := false
  /-- It was served by decoding for an erased or failing member (R153). -/
  degraded : Bool := false
  /-- It is a re-read after an egress failure (R194). -/
  reread : Bool := false
  /-- DRAM address of its buffer (R155), once it has one. -/
  dest : Option Nat := none
  /-- The reads of its attempt: member index, slot and tag. -/
  rx : List (Nat × (Nat × Nat)) := []
  /-- Matrix slot of its decode job, and whether the job is a DECODE (R92). -/
  slot : Nat := 4
  byPlan : Bool := false
  /-- Row of that slot. -/
  outRow : Nat := 0
  deriving DecidableEq, Repr

/-- A write of the firmware to members of one row under a REPAIR intent (R156, R167, R176). -/
structure Repair where
  array : Nat
  row : Nat
  /-- Member index, first block, blocks. -/
  writes : List (Nat × (Nat × List Block))
  /-- The frontier it rebuilds a row for. -/
  frontier : Option Nat := none
  /-- It formats a row of a new volume (R246). -/
  format : Bool := false
  /-- Index of its intent, once one is open. -/
  head : Option Nat := none
  /-- Members whose write is not yet confirmed. -/
  waiting : List Nat := []
  deriving DecidableEq, Repr

/-- What the firmware keeps for one array (chapter 05). -/
structure ArrayCare where
  lost : List LostRange := []
  /-- The lost-block list holds merged ranges. -/
  merged : Bool := false
  /-- The twelve counts of R180. -/
  stats : List (Nat × Nat) := []
  /-- Next rows to graze and clocks at which the period last started, by group; 8 is the global graze. -/
  next : List (Nat × Nat) := []
  started : List (Nat × Nat) := []
  overdue : List Nat := []
  /-- The graze priority queue (R178): a row, or none for the whole array. -/
  queue : List (Option Nat) := []
  /-- Rows that a step skipped because of an open intent, by group, to be taken by its next step (R175; log entry 122). -/
  skipped : List (Nat × Nat) := []
  /-- Groups whose grazing has yielded to host I/O (R174). -/
  yielded : List Nat := []
  deriving DecidableEq, Repr

/-- The SAS ports, reads, rebuild and grazing (chapter 05). -/
structure SasPart where
  cmds : List MemCmd := []
  /-- Commands needed while SAS_CTRL.ENABLE is 0, oldest first (R143). -/
  unopened : List MemCmd := []
  nextTag : Nat := 0
  /-- Data of completed member reads, by slot * 65536 + tag, until a job takes it. -/
  rx : List (Nat × List Block) := []
  pieces : List (Nat × Piece) := []
  nextPiece : Nat := 0
  /-- WAKE_PEND bits as the hardware last showed them, for the 0 to 1 edge of R150. -/
  wakePend : List Nat := []
  arrays : List (Nat × ArrayCare) := []
  /-- Blocks reconstructed instead of waking a slot: slot, with clock and blocks of each piece in the last 60 s (R152). -/
  riw : List (Nat × List (Nat × Nat)) := []
  /-- Rebuild checkpoints, by frontier: F (R168). -/
  checkpoints : List (Nat × Nat) := []
  /-- Repairs under way. -/
  repairs : List (Nat × Repair) := []
  nextRepair : Nat := 0
  /-- Member commands that ended as soon as they were opened (R144), still to be acted on. -/
  failed : List (MemCmd × DriveStatus) := []
  /-- Rebuild targets that take the rows of each frontier: F last checkpointed is in `checkpoints`. -/
  lastCheckpoint : List (Nat × Nat) := []
  deriving DecidableEq, Repr

/-- What a job serves. -/
inductive JobOwner where
  | firmware
  | update (u : Nat)
  /-- The DELTA job of one unit of a flock member's update (R405). -/
  | delta (u d : Nat)
  | piece (p attempt : Nat)
  deriving DecidableEq, Repr

/-- A source entry (R88). -/
structure Src where
  addr : Nat
  kind : Nat
  pass : Bool
  chk : Bool
  passIdx : Nat
  column : Nat
  deriving DecidableEq, Repr

/-- A destination entry (R89). -/
structure Dst where
  addr : Nat
  kind : Nat
  gen : Bool
  digest : Bool
  digestIdx : Nat
  deriving DecidableEq, Repr

/-- How a run of a job ended: STATUS, MISMATCH and DETAIL (R93, R94), and the digests of its outputs (R103). -/
structure RunEnd where
  status : Nat
  mismatch : Nat
  detail : Nat
  digests : List Nat
  deriving DecidableEq, Repr

/-- A job (R87) fetched from a ring, or written by the stripe manager. -/
structure Job where
  ring : Nat
  owner : JobOwner
  op : Nat
  field16 : Bool
  shadowForce : Bool
  shadowNever : Bool
  irq : Bool
  fence : Bool
  tag : Nat
  slot : Nat
  array : Nat
  row : Nat
  len : Nat
  phase : Nat
  pairs : Nat
  srcs : List Src
  dsts : List Dst
  outRow : List Nat
  /-- It is shadowed (R103). -/
  shadowed : Bool := false
  /-- The engines of its runs: the primary, the shadow, and the third run of R104. -/
  engine : Option Nat := none
  shadow : Option Nat := none
  arbiter : Option Nat := none
  /-- How its runs ended, by run: 0 primary, 1 shadow, 2 third run. -/
  ended : List (Nat × RunEnd) := []
  /-- Coefficients that each run captured as it started (R84), by matrix entry. -/
  coef : List (Nat × List (Nat × Nat)) := []
  /-- What its sources held when its runs disagreed: what the third run of a stripe manager's job reads. -/
  kept : List (List Block) := []
  deriving DecidableEq, Repr

/-- One Ox engine beyond its registers. -/
structure Engine where
  /-- Jobs dispatched to it and not ended, in order; the first runs if `running`. -/
  queue : List Nat := []
  running : Bool := false
  /-- RETIRE or TEST was written and waits for the running job. -/
  retireDue : Bool := false
  /-- Matrix slot in its coefficient buffer, if one is and has not been written since. -/
  buffer : Option Nat := none
  strikes : List Nat := []
  /-- Why it is being tested: 0 not, 1 the TEST bit, 2 to come into service, 3 a shadow mismatch. -/
  testFor : Nat := 0
  testPassed : Option Bool := none
  /-- State to return to after the test. -/
  back : Nat := 0
  /-- Words that software has written into its accumulator SRAM since its last job (R109). -/
  acc : List (Nat × Nat) := []
  deriving DecidableEq, Repr

/-- The coding unit (chapter 03). -/
structure OxePart where
  engines : List (Nat × Engine) := []
  jobs : List (Nat × Job) := []
  nextJob : Nat := 0
  /-- Jobs the stripe manager has written into rings 0 and 1, by ring: place in the ring and job; and those that wait for room in them (R96). -/
  written : List (Nat × List (Nat × Job)) := []
  backlog : List (Nat × List Job) := []
  /-- Plan misses that the firmware has still to answer (R102): array, phase and group; and the matrix slots of its plans, oldest first:
  slot, and array with the place of the record. -/
  plansDue : List (Nat × (Nat × Nat)) := []
  planSlots : List (Nat × (Nat × Nat)) := []
  /-- Runs returned to the front of the dispatch order (R100): job, and 0 primary, 1 shadow, 2 third run. -/
  returned : List (Nat × Nat) := []
  /-- Last ring dispatched of each class, for the round robin. -/
  lastRing : List (Nat × Nat) := []
  /-- Classes the head job of a ring has risen (R98). -/
  risen : List (Nat × Nat) := []
  /-- Phase tags of the completion rings that differ from 1. -/
  phases : List (Nat × Nat) := []
  /-- Shadow-eligible jobs dispatched. -/
  eligible : Nat := 0
  /-- Coefficient RAM: entries by matrix entry number, slot * 2048 + row * 128 + column. -/
  coef : List (Nat × Nat) := []
  /-- Shadow mismatches under arbitration: the job. -/
  arbitrating : List Nat := []
  deriving DecidableEq, Repr

/-- Stripe geometry: operations under way (chapter 02). -/
structure StpPart where
  /-- Erased slots captured at START, by array (R68). -/
  evals : List (Nat × List Nat) := []
  /-- Offset captured at GO (R51). -/
  xlateOff : Nat := 0
  deriving DecidableEq, Repr

/-- The role, the partner and the mirror (chapter 13). -/
structure FovPart where
  /-- SEQ of the beats on the line and mirror paths. -/
  lineSeq : Nat := 0
  mirSeq : Nat := 0
  /-- A path is lost until 10 consecutive good beats, counted here (R361): bit 0 line, bit 1 mirror. -/
  lostPaths : Nat := 0
  lineGood : Nat := 0
  mirGood : Nat := 0
  /-- Beats still to carry RELINQUISH. -/
  relqLeft : Nat := 0
  /-- A beat with RELINQUISH or a RELINQUISH message was received (R362), and the reason it gave. -/
  relqHeard : Bool := false
  partnerReason : Nat := 0
  /-- The partner's host link is up (R366 BEAT). -/
  partnerHost : Bool := false
  /-- The partner has been reported as silent (R362). -/
  silent : Bool := false
  /-- Sequence numbers of the next message of the ordered stream and of the other one (R366). -/
  ordSeq : Nat := 0
  othSeq : Nat := 0
  /-- A resync is under way (R367). -/
  resyncing : Bool := false
  /-- As standby: lines received whose commit record has not landed (R117). -/
  received : List (Nat × Line) := []
  /-- Failed sends by line (R193). -/
  naks : List (Nat × Nat) := []
  /-- Handover: 0 none, 1 outgoing after BEGIN, 2 outgoing after POWER_OK, 3 incoming, 4 incoming after POWER_OK. -/
  handover : Nat := 0
  /-- The outgoing module goes to SERVICE and not to STANDBY (R364 reason 10). -/
  toService : Bool := false
  /-- Latest good beat word of each path. -/
  lineWord : Nat := 0
  mirWord : Nat := 0
  /-- The hold-off has run out and led to no handover (R372). -/
  holdoffOver : Bool := false
  /-- As standby: commits whose data is being sent again (R193). -/
  commitsDue : List Nat := []
  /-- A planned handover waits for a mode that accepts it (R32). -/
  handoverDue : Bool := false
  /-- A good beat of the partner has been heard since it was last lost (R359). -/
  heard : Bool := false
  /-- Fetching is stopped for a handover (R370). -/
  fetchStopped : Bool := false
  /-- Takeover steps done: fans caught, lease moved, replayed. -/
  replayed : Bool := false
  detectedAt : Nat := 0
  /-- Reasons of faults that stand and are not yet acted on (R32). -/
  faults : List Nat := []
  /-- Reasons of R365 that persist. -/
  persists : List Nat := []
  holdCause : Nat := 0
  lastReason : Nat := 0
  lastAbandon : Nat := 0
  holdoffStart : Option Nat := none
  lastSwap : Nat := 0
  lastTakeover : Nat := 0
  tClaim : Nat := 0
  tFans : Nat := 0
  tReplay : Nat := 0
  tServing : Nat := 0
  takeovers : Nat := 0
  handovers : Nat := 0
  abandoned : Nat := 0
  powerFaults : Nat := 0
  swapDue : Bool := false
  /-- The mirror copy is complete: no beat of a serving partner was heard while the mirror was broken (R367, R374). -/
  synced : Bool := false
  deriving DecidableEq, Repr

/-- A flock parity group's record (R404). -/
structure FlockGroup where
  id : Nat
  /-- Node UID and volume of the parity volume and of each member. -/
  parity : Nat × Nat
  members : List (Nat × Nat)
  /-- No deltas are shipped until a resync completes (R409). -/
  stale : Bool := true
  /-- The resync frontier F, while a resync runs (R411). -/
  front : Option Nat := none
  /-- As parity node: the highest DSEQ committed of each member (R407). -/
  applied : List (Nat × Nat) := []
  /-- As a member's node: the next DSEQ of each member of this node (R406). -/
  nextSeq : List (Nat × Nat) := []
  deriving DecidableEq, Repr

/-- A record of the deferred-delta log (R406): what names it, and the page of the log it begins at, counted without wrapping. Its header and its
data are the bytes of its pages. -/
structure Delta where
  group : Nat
  member : Nat
  dseq : Nat
  lba : Nat
  nblk : Nat
  intentSeq : Nat
  place : Nat
  shipped : Bool := false
  freed : Bool := false
  deriving DecidableEq, Repr

/-- A fabric port beyond its registers (R380 to R385). -/
structure FabPort where
  /-- Lanes it trained with since it last went down, 0 for none, and the good bleats carried since, up to 2. -/
  trained : Nat := 0
  good : Nat := 0
  /-- The last bleat received (R387). -/
  last : Option Bleat := none
  /-- It listens in PARKED for 10 ms (R381). -/
  listening : Bool := false
  /-- Next LSEQ to send and to receive; a NAK has been sent for the latter (R384). -/
  nextSeq : Nat := 0
  expect : Nat := 0
  nakked : Bool := false
  /-- The replay buffer, oldest first, frames that wait for room in it, and replays in a row without progress. -/
  unacked : List Frame := []
  waiting : List Frame := []
  replays : Nat := 0
  /-- Times the link went down (R416). -/
  downs : Nat := 0
  /-- Class 2 or 3 last served (R385). -/
  lastShare : Nat := 3
  deriving DecidableEq, Repr

/-- What the link-state database and the bleats tell of a node (R387, R391). -/
structure FabNode where
  uid : Nat
  addr : Nat
  /-- The last mode it showed; 15 where none is known. -/
  mode : Nat := 15
  partner : Nat := 0
  /-- Sequence of the last LSA held of it, and its links. -/
  lsa : Option Nat := none
  links : List LsaLink := []
  /-- Clock at which it was last heard. -/
  heard : Nat := 0
  deriving DecidableEq, Repr

/-- A holding in the bellwether's ledger (R397 to R401), in tokens. -/
structure Holder where
  uid : Nat
  held : Nat
  leaseEnd : Nat
  deriving DecidableEq, Repr

/-- A queued token request (R397). -/
structure TokenReq where
  src : Nat
  xseq : Nat
  want : Nat
  min : Nat
  cls : Nat
  deriving DecidableEq, Repr

/-- A batch of a remote COPY on its way (R402, R403): its first block's index, its blocks, how often it was sent, and whether it went to
the partner's node. -/
structure CopyBatch where
  first : Nat
  nblk : Nat
  sends : Nat := 1
  moved : Bool := false
  deriving DecidableEq, Repr

/-- A remote COPY at its source (R402, R403). -/
structure CopyOut where
  /-- The command's number, its COPY_ID, and the address it sends to now. -/
  cmd : Nat
  id : Nat
  addr : Nat
  /-- The batches are sent on to the partner's node (R403). -/
  redirected : Bool := false
  /-- Next block and batch to send; unacknowledged batches by number. -/
  next : Nat := 0
  batch : Nat := 0
  out : List (Nat × CopyBatch) := []
  level : Nat := 0
  deriving DecidableEq, Repr

/-- A batch at a COPY's destination (R403). -/
structure CopyIn where
  src : Nat
  id : Nat
  batch : Nat
  vol : Nat
  lba : Nat
  nblk : Nat
  pi : Bool
  crcs : List Nat
  guards : List Nat
  blocks : List (Nat × Block) := []
  deriving DecidableEq, Repr

/-- A delta record on its way into the parity volume (R407): its blocks, and what the parity volume's members hold under them. -/
structure DeltaIn where
  src : Nat
  group : Nat
  member : Nat
  dseq : Nat
  lba : Nat
  nblk : Nat
  crc : Nat
  blocks : List Block := []
  olds : List Block := []
  deriving DecidableEq, Repr

/-- Blocks gathered from the members of a group for a chunk (R411, R413). -/
structure Gather where
  group : Nat
  lba : Nat
  /-- Recovery: the command's number, the member rebuilt and the target volume. -/
  recover : Option (Nat × (Nat × Nat)) := none
  /-- By member index, 15 for the parity volume. -/
  got : List (Nat × List Block) := []
  deriving DecidableEq, Repr

/-- The fabric beyond its registers (chapter 14). -/
structure FabPart where
  groups : List FlockGroup := []
  deltas : List Delta := []
  /-- The page of the deferred-delta log that the next record begins at, counted without wrapping. -/
  deltaNext : Nat := 0
  ports : List (Nat × FabPort) := []
  nodes : List FabNode := []
  /-- Sequence of the latest own LSA. -/
  lsaSeq : Nat := 0
  /-- The address-preference record (R389), a refusal that stands, a request under way, and requests relayed: UID and port. -/
  pref : Option Nat := none
  refused : Bool := false
  asked : Bool := false
  relays : List (Nat × Nat) := []
  /-- As root: the address table: UID and clock last heard by address (R389). -/
  table : List (Nat × (Nat × Nat)) := []
  /-- Eligibility and priority, in MRAM (R388, R396). -/
  rootElig : Bool := true
  bwElig : Bool := true
  bwPrio : Nat := 128
  /-- The budget record, in MRAM (R395), and the UID that flooded it. -/
  budgetW : Nat := 0
  isolatedW : Nat := 0
  nReg : Nat := 0
  version : Nat := 0
  versionUid : Nat := 0
  /-- Address of the bellwether, as elected. -/
  bellwether : Option Nat := none
  /-- As a holder: next XSEQ, frames sent to the bellwether with their clocks, and the lease's end (R398). -/
  nextX : Nat := 0
  sent : List (Nat × Nat) := []
  leaseEnd : Nat := 0
  /-- As standby: the active's grant, its lease end and its address (R366, R401). -/
  inherited : Option (Nat × (Nat × Nat)) := none
  /-- As bellwether: the ledger by address, the queue in order of arrival, the start of office, whether grants have begun, nodes
  that reported, and registered nodes by UID (R396 to R399). -/
  ledger : List (Nat × Holder) := []
  queue : List TokenReq := []
  office : Option Nat := none
  granting : Bool := false
  reported : List Nat := []
  registered : List Nat := []
  /-- FABRIC_CONTROL commands that wait for the flock: the command's number and sub-operation. -/
  cmds : List (Nat × Nat) := []
  /-- Nodes that have still to store a new group's record, by group (R404). -/
  storing : List (Nat × List Nat) := []
  copies : List CopyOut := []
  copyCount : Nat := 0
  batches : List CopyIn := []
  /-- Batches committed: COPY_ID, number, first block and level. -/
  doneBatches : List (Nat × (Nat × (Nat × Nat))) := []
  /-- Ranges that admit no write-back while they are read (R411): group and first block. -/
  gates : List (Nat × Nat) := []
  gathers : List Gather := []
  deltasIn : List DeltaIn := []
  deriving DecidableEq, Repr

/-- The regions of the internal address map (R420). -/
inductive Region where
  | dram | mram | nand | regs | acc | rom | none
  deriving DecidableEq, Repr

/-- A line of the cluster cache (R422): its way, its number (address / 64), its bytes. -/
structure CacheLine where
  way : Nat
  line : Nat
  data : List Nat
  dirty : Bool
  deriving DecidableEq, Repr

/-- A line of a core's L1 cache. -/
structure CoreLine where
  core : Nat
  line : Nat
  data : List Nat
  dirty : Bool
  deriving DecidableEq, Repr

/-- An entry of a victim buffer (R425). -/
structure Victim where
  line : Nat
  data : List Nat
  issued : Bool := false
  deriving DecidableEq, Repr

/-- An outstanding fill (R423, R426): a prefetch into the side buffer or a miss; `ready` once its data waits for a victim entry; the
maintenance operations that met it (R432): 1 clean, 2 invalidate, 3 flush. -/
structure Miss where
  line : Nat
  prefetch : Bool := false
  ready : Bool := false
  ops : List Nat := []
  deriving DecidableEq, Repr

/-- A core's access within one line, waiting at its bank. -/
structure CoreReq where
  core : Nat
  kind : AccessKind
  addr : Nat
  size : Nat
  value : Nat
  /-- Lines that leave the core's L1 to make room. -/
  evict : List Nat
  /-- A victim-buffer writeback of the line has been issued. -/
  issued : Bool
  deriving DecidableEq, Repr

/-- The control cluster's caches (chapter 15). -/
structure CchPart where
  lines : List CacheLine := []
  l1d : List CoreLine := []
  l1i : List CoreLine := []
  victims : List Victim := []
  /-- The side buffer, oldest first. -/
  side : List (Nat × List Nat) := []
  misses : List Miss := []
  waiting : List CoreReq := []
  /-- Last line missed, by core (R426). -/
  lastMiss : List (Nat × Nat) := []
  /-- HUM as it acts (R423). -/
  humOn : Bool := false
  /-- Ways disabled (R454): bank, segment and way. -/
  waysOff : List (Nat × (Nat × Nat)) := []
  /-- Lines whose memory carries the poison marking (R427). -/
  poison : List Nat := []
  deriving DecidableEq, Repr

/-- A DMA descriptor that runs (R445 to R447). -/
structure DmaRun where
  tag : Nat
  irq : Bool
  length : Nat
  status : Nat := 0
  bytes : Nat := 0
  crc : Nat := 0
  fail : Nat := 0
  deriving DecidableEq, Repr

/-- A repair record (R462, R464). -/
structure RepRec where
  kind : Nat
  cls : Nat
  inst : Nat
  result : Nat
  detail : Nat
  deriving DecidableEq, Repr

/-- A ledger entry (R464). -/
structure LedgerEntry where
  time : Nat
  eseq : Nat
  record : RepRec
  detail2 : Nat
  sparesLeft : Nat
  deriving DecidableEq, Repr

/-- A repair table entry (R463): type, array identifier, place, DRAM row and time. -/
structure RepairRow where
  type : Nat
  ident : Nat
  place : Nat
  dramRow : Nat
  time : Nat
  deriving DecidableEq, Repr

/-- A table copy of the repair ledger (R463). -/
structure RepairTable where
  seq : Nat
  total : Nat
  rows : List RepairRow
  deriving DecidableEq, Repr

/-- Self-repair (chapter 16); the ledger itself is bytes of MRAM. -/
structure RprPart where
  /-- The record FIFO, oldest first. -/
  fifo : List RepRec := []
  /-- Records of the firmware's own (cores, R462) and repair table entries that wait to be stored. -/
  owed : List RepRec := []
  owedRows : List RepairRow := []
  /-- Corrected errors by array; spare rows used by array * 65536 + segment; spare columns used by array. -/
  ce : List (Nat × Nat) := []
  rowsUsed : List (Nat × Nat) := []
  colsUsed : List (Nat × Nat) := []
  exhausted : List Nat := []
  /-- Clocks of corrected errors by array * 65536 + row, and rows queued for remapping (R455), of the cluster cache's arrays. -/
  rowErrs : List (Nat × List Nat) := []
  queued : List Nat := []
  /-- Soft and hard DRAM repairs used, by channel, sub-channel, device and bank group as one number. -/
  softUsed : List Nat := []
  hardUsed : List Nat := []
  /-- DRAM regions retired. -/
  regions : List Nat := []
  /-- Failed lanes: fabric port p lane l as 4 p + l, mirror lanes from 16. -/
  lanes : List Nat := []
  /-- Clocks of uncorrectable DRAM errors (R364 reason 4). -/
  dramUes : List Nat := []
  /-- Cores retired. -/
  coresRetired : List Nat := []
  deriving DecidableEq, Repr

/-- A queue pair (R196, R241). Indices are the module's. -/
structure Pair where
  sizeM1 : Nat := 1
  sqBase : Nat := 0
  cqBase : Nat := 0
  sqHead : Nat := 0
  sqTail : Nat := 0
  cqTail : Nat := 0
  cqHead : Nat := 0
  phase : Nat := 1
  weight : Nat := 0
  burstM1 : Nat := 0
  credit : Nat := 0
  /-- The IRQ byte of R241. -/
  irq : Nat := 0
  /-- DELETE_IO_QUEUE runs, for this command number (R242). -/
  deleting : Option Nat := none
  /-- Number of the latest command fetched with FENCE_AFTER whose completion is not written (R220). -/
  fence : Option Nat := none
  /-- Doorbell words read at the last poll. -/
  rawTail : Nat := 0
  rawHead : Nat := 0
  deriving DecidableEq, Repr

/-- A command in flight (R215, R242). -/
structure Cmd where
  e : Entry
  /-- The mode in force at its fetch (R26). -/
  fetchMode : Nat := 2
  /-- The command whose completion it waits for (R220). -/
  fence : Option Nat := none
  /-- Its run has started; whether it has begun as R242 means it is `State.hasBegun`. -/
  begun : Bool := false
  /-- A member command has been opened for it. -/
  opened : Bool := false
  /-- Held by the mode (R26), so its completion carries DELAYED (R33). -/
  held : Bool := false
  delayed : Bool := false
  /-- Its host data has fully moved (R285). -/
  moved : Bool := false
  /-- Some of its blocks have committed; all of them have. -/
  committed : Bool := false
  final : Bool := false
  /-- Blocks committed so far, of a command that commits row by row. -/
  next : Nat := 0
  /-- Level of acknowledgement (R112). -/
  level : Nat := 0
  /-- Blocks still owed to a FLUSH, a FUA write or a WRITE_THROUGH write, with the commit each must carry at least (R116). -/
  owed : List (Nat × Nat) := []
  /-- Pieces not yet served, and the first failure: block index, status, result (R265). -/
  pieces : Nat := 0
  status : Nat := 0
  result : Nat := 0
  failIdx : Nat := 0
  degraded : Bool := false
  deferred : Bool := false
  /-- Data of the command in DRAM: ingested blocks not yet committed, or read blocks not yet at the host, by block index. -/
  buf : List (Nat × Line) := []
  /-- Block indices that cannot be read (R157). -/
  lost : List Nat := []
  /-- A command has been split into pieces (R148). -/
  split : Bool := false
  /-- Block indices that have been read again after an egress failure (R194). -/
  reread : List Nat := []
  deriving DecidableEq, Repr

/-- A completion entry still to be written (R215, R285). -/
structure Post where
  /-- The command's number. -/
  cmd : Nat
  qid : Nat
  cid : Nat
  status : Nat
  result : Nat
  flags : Nat
  deriving DecidableEq, Repr

/-- The queue manager (chapter 07). -/
structure QmxPart where
  /-- Pairs by identifier; 0 is the admin pair. -/
  pairs : List (Nat × Pair) := []
  cmds : List (Nat × Cmd) := []
  nextCmd : Nat := 0
  /-- Completions waiting on a full CQ (R215). -/
  stalled : List Post := []
  /-- Completions held while Bus Master Enable is 0, oldest first (R285). -/
  heldOut : List Post := []
  /-- Last doorbell values seen of identifiers not created (R223 kind 3). -/
  strayDoorbells : List (Nat × Nat) := []
  /-- The queue last visited by the arbitration of R218. -/
  lastVisit : Nat := 0
  /-- Enabled and becoming ready, or stopping (R198, R226). -/
  starting : Bool := false
  stopping : Bool := false
  hbSeq : Nat := 1
  /-- The adaptive poll interval in µs (R204), and a poll that KICK asked for. -/
  interval : Nat := 2
  deriving DecidableEq, Repr

/-- An event of the MRAM event log (R238). -/
structure LogEvent where
  time : Nat
  seq : Nat
  code : Nat
  array : Nat
  row : Nat
  detail : List Nat
  deriving DecidableEq, Repr

/-- A self-test result (R254). -/
structure TestResult where
  type : Nat
  result : Nat
  failStep : Nat
  endTime : Nat
  rows : Nat
  mismatch : Nat
  deriving DecidableEq, Repr

/-- An array as the firmware holds it beside the STP registers (R53, R180, R245). -/
structure ArrayMeta where
  uuid : Nat := 0
  generation : Nat := 0
  /-- Seconds since 1970 at its creation. -/
  created : Nat := 0
  /-- GENERATION at which each member slot last took a new drive (R136). -/
  slotGen : List (Nat × Nat) := []
  misplaced : List Nat := []
  stale : List Nat := []
  deriving DecidableEq, Repr

/-- A volume as the firmware holds it beside the STP registers (R246). -/
structure VolMeta where
  bound : Bool := false
  uuid : Nat := 0
  array : Nat := 0
  base : Nat := 0
  rows : Nat := 0
  /-- Next row to format, while formatting. -/
  formatting : Option Nat := none
  /-- VOLUME_DELETE runs, for this command number (R247). -/
  deleting : Option Nat := none
  /-- Flock parity group it belongs to, as a member or as its parity volume. -/
  flock : Option Nat := none
  parity : Bool := false
  deriving DecidableEq, Repr

/-- What the command set keeps (chapter 08). -/
structure CmdPart where
  /-- Feature values in force and saved in MRAM, by code * 256 + selector (R234, R235). -/
  features : List (Nat × Nat) := []
  saved : List (Nat × Nat) := []
  log : List LogEvent := []
  logSeq : Nat := 0
  arrays : List (Nat × ArrayMeta) := []
  vols : List (Nat × VolMeta) := []
  /-- UUIDs of the 64 most recently deleted arrays (R245). -/
  deleted : List Nat := []
  /-- Last-assembled UUID of each array index (R501). -/
  lastAssembled : List (Nat × Nat) := []
  /-- Self-test: 0 none, 1 SHORT, 2 EXTENDED; suspended, and since when; start clock, later by the time it stood suspended (R252). -/
  testRunning : Nat := 0
  testSuspended : Bool := false
  testPaused : Nat := 0
  testStart : Nat := 0
  /-- EXTENDED has ended its SHORT part and grazes; arrays still to graze, the one under way first (R251); the first step that failed; rows,
  mismatches. -/
  testGrazes : Bool := false
  testLeft : List Nat := []
  testFail : Nat := 0
  testRows : Nat := 0
  testMismatch : Nat := 0
  testResults : List TestResult := []
  /-- Staged firmware: pieces by offset (R259). -/
  staged : List (Nat × List Nat) := []
  operatorFwRoot : Option Nat := none
  /-- Rebuilds queued for a frontier: array, target (R248). -/
  rebuildQueue : List (Nat × Nat) := []
  /-- POWER_STATE PARK and WAKE commands waiting (R255). -/
  parkCmds : List Nat := []
  wakeCmds : List Nat := []
  /-- SET_FEATURE WRITE_THROUGH commands waiting for the transition (R235). -/
  wtCmds : List Nat := []
  /-- ROLE_CONTROL commands waiting for their handover or mode: number and action (R258). -/
  roleCmds : List (Nat × Nat) := []
  /-- FIRMWARE_COMMIT action 3 waiting for the new firmware (R260). -/
  commitCmd : Option Nat := none
  deriving DecidableEq, Repr

/-- The PCI Express endpoint beyond its registers (chapter 09). -/
structure HifPart where
  busMaster : Bool := false
  intDisable : Bool := false
  msixEnable : Bool := false
  msixMask : Bool := false
  ltrEnable : Bool := false
  maxSnoop : Nat := 0
  maxNoSnoop : Nat := 0
  d3hot : Bool := false
  /-- A function-level reset runs (R287). -/
  flr : Bool := false
  /-- Heartbeat address (R276). -/
  hbAddr : Nat := 0
  /-- The pending and announced sets of R283. -/
  pend : List Nat := []
  announced : List Nat := []
  /-- Messages held while Bus Master Enable is 0 (R285): how many held completions go before, and the vector. -/
  heldMsgs : List (Nat × Nat) := []
  /-- CQs written in the microsecond that runs, with their vectors: one message each follows (R282). -/
  vecDue : List (Nat × Nat) := []
  /-- Writable words of configuration space, by their offset (R270, R272). -/
  cfg : List (Nat × Nat) := []
  /-- Advisory non-fatal and host-read errors logged in AER, newest first: 1 advisory, 2 host read. -/
  aer : List Nat := []
  /-- The link trains; lanes present, lanes failed (R269). -/
  training : Bool := false
  lanesFailed : List Nat := []
  /-- The link is up. -/
  up : Bool := false
  deriving DecidableEq, Repr

end Sys2Proof.Machine
end

