-- ==== Sys2Proof/Machine/State.lean ====
section
/-! DEFINITION. The state of the module: every register field (in `regs`), the internal memory, the state of each block
beside its registers, and the queue of commands that wait. -/

namespace Sys2Proof.Machine

/-- The module's state. `regs` holds register fields by `Field.key`; a field not listed reads its reset value. -/
structure State where
  regs : List (Nat × Nat)
  /-- Internal memory: DRAM, MRAM and accumulator SRAM bytes that are not zero (log entry 3). -/
  mem : List Host.Cell
  /-- CCH_MTIME: microseconds since the last power-on (R419). -/
  clock : Nat
  /-- How many free values have been read (log entry 4). The model's own field. -/
  free : Nat
  sys : SysPart
  fan : FanPart
  bat : BatPart
  pwr : PwrPart
  jnl : JnlPart
  stp : StpPart
  oxe : OxePart
  sas : SasPart
  fov : FovPart
  fab : FabPart
  rpr : RprPart
  cch : CchPart
  /-- Descriptors that run, by DMA channel. -/
  dma : List (Nat × DmaRun)
  qmx : QmxPart
  cmd : CmdPart
  hif : HifPart
  /-- Everything sent out, newest first (log entry 2). The model's own field. -/
  out : List Out
  /-- Register accesses that wait for an island in reset, oldest first, each with the offset it addresses (R13). -/
  waiting : List (Nat × Instr)
  /-- Commands that wait, first in, first out. -/
  pending : List Instr
  deriving DecidableEq, Repr

/-- The module right after a power-on reset: every register at its reset value, PARKED with STARTING set (R472). -/
def State.reset : State where
  regs := []
  mem := []
  clock := 0
  free := 0
  sys := {}
  fan := {}
  bat := {}
  pwr := {}
  jnl := {}
  stp := {}
  oxe := {}
  sas := {}
  fov := {}
  fab := {}
  rpr := {}
  cch := {}
  dma := []
  qmx := {}
  cmd := {}
  hif := {}
  out := []
  waiting := []
  pending := []

/-- Why a step stops with a fault. -/
inductive Fault where
  /-- REGISTER_WRITE at an offset that is not a word of BAR0 (R277): no such access exists. Raised by execRegisterWrite. Safe. -/
  | noSuchAddress
  deriving DecidableEq, Repr

/-- Why a command has no meaning. -/
inductive Refusal where
  /-- The row of this mnemonic has no meaning yet. Raised by exec's refused arms only. Safe. -/
  | notModelled (mnemonic : String)
  deriving DecidableEq, Repr

/-- The outcome of a command. -/
abbrev Result := Host.Outcome State Fault Refusal

end Sys2Proof.Machine
end

