-- ==== Sys2Proof/Machine/Ops.lean ====
section
/-! DEFINITION. The operations every meaning is built from: register fields, memory, events and counters, what is sent
out, free values, the event log, the mode, and the gate that a register access passes on its way to an island. -/

namespace Sys2Proof.Machine

/-! Register fields -/

/-- The value of a field; a field never written holds its reset value. -/
def State.get (s : State) (f : Field) : Nat := Assoc.getD s.regs f.key f.reset

/-- A field's bits taken from a value and stored. -/
def setF (f : Field) (v : Nat) (s : State) : State :=
  { s with regs := Assoc.put s.regs f.reset f.key (v % 2 ^ f.width) }

/-- The field is not 0. -/
def State.on (s : State) (f : Field) : Bool := s.get f != 0

/-- An event counter steps by one, wrapping (R20, R21). -/
def bump (f : Field) (s : State) : State := setF f (s.get f + 1) s

/-- A counter steps by n. -/
def bumpBy (f : Field) (n : Nat) (s : State) : State := setF f (s.get f + n) s

/-- A recurring event: its flag is set, its companion counter steps (R20). The interrupt to the control cores is the level
of flag and enable (R443). -/
def event (flag cnt : Field) (s : State) : State := bump cnt (setF flag 1 s)

/-- A 64-bit value across a _LO and a _HI register. -/
def State.get64 (s : State) (lo hi : Field) : Nat := s.get lo * 2 ^ lo.lo + s.get hi * 2 ^ 32

/-- A 64-bit value stored across a _LO and a _HI register. -/
def set64 (lo hi : Field) (v : Nat) (s : State) : State := setF hi (v / 2 ^ 32) (setF lo (v / 2 ^ lo.lo) s)

/-- A state change made only when a condition holds. -/
def when (c : Bool) (f : State → State) (s : State) : State := if c then f s else s

/-- A state change for each element of a list, in order. -/
def forEach {α : Type} (l : List α) (f : α → State → State) (s : State) : State := l.foldl (fun t x => f x t) s

/-! Memory -/

/-- A byte of internal memory: a byte not listed reads 0 (log entry 3). -/
def State.readByte (s : State) (a : Nat) : BitVec 8 := Assoc.getD s.mem a 0#8

/-- A byte stored. -/
def writeByte (a : Nat) (v : BitVec 8) (s : State) : State := { s with mem := Assoc.put s.mem 0#8 a v }

/-- n bytes from an address, lowest first. -/
def State.readBytes (s : State) (a : Nat) : Nat → List Nat
  | 0 => []
  | n + 1 => (s.readByte a).toNat :: s.readBytes (a + 1) n

/-- Bytes stored from an address, lowest first. -/
def writeBytes (a : Nat) : List Nat → State → State
  | [], s => s
  | b :: t, s => writeBytes (a + 1) t (writeByte a (BitVec.ofNat 8 b) s)

/-! Engine states -/

/-- Engine states (R106). -/
def EngSt.spare : Nat := 0
def EngSt.testing : Nat := 1
def EngSt.inService : Nat := 2
def EngSt.paused : Nat := 3
def EngSt.quarantined : Nat := 4
def EngSt.retired : Nat := 5

/-- The field of OXE_ENG_STATEk that shows an engine. -/
def engField (e : Nat) : Field := ⟨0x40020 + 4 * (e / 8), 4 * (e % 8), 4, .ro, if e < 24 then 2 else 0⟩

/-- An engine's state. -/
def State.engState (s : State) (e : Nat) : Nat := s.get (engField e)

/-! What is sent out, free values, time -/

/-- Something is sent out. -/
def emit (o : Out) (s : State) : State := { s with out := o :: s.out }

/-- The sequence number of the next message of a kind's stream (R366). -/
def State.mirStream (s : State) (kind : MirKind) : Nat := if kind.ordered then s.fov.ordSeq else s.fov.othSeq

/-- A message takes its stream's sequence number, 4 bytes wide (R366). -/
def passStream (kind : MirKind) (s : State) : State :=
  if kind.ordered then { s with fov := { s.fov with ordSeq := (s.fov.ordSeq + 1) % 2 ^ 32 } }
  else { s with fov := { s.fov with othSeq := (s.fov.othSeq + 1) % 2 ^ 32 } }

/-- A mirror-link message goes out where the link is up (R366). -/
def sendMir (kind : MirKind) (args : List Nat) (s : State) : State :=
  if s.on Reg.FOV_MIR_STATUS_LINK_UP && s.on Reg.FOV_MIR_CTRL_ENABLE then
    bump Reg.FOV_MIR_TX_CNT (emit (.mirror kind (s.mirStream kind) args) (passStream kind s))
  else s

/-- The i-th free value from here, cut to a width (log entry 4). -/
def State.freeAt (s : State) (i w : Nat) : Nat := Config.freeValue (s.free + i) % 2 ^ w

/-- The next free value, cut to a width. -/
def State.freeVal (s : State) (w : Nat) : Nat := s.freeAt 0 w

/-- n free values have been used. -/
def useFrees (n : Nat) (s : State) : State := { s with free := s.free + n }

/-- A free value has been used. -/
def useFree (s : State) : State := useFrees 1 s

/-- Milliseconds of UTC now (log entry 5). -/
def State.nowMs (s : State) : Nat := Config.utcMs s.clock

/-- Seconds, hours and days in microseconds of CCH_MTIME. -/
def sec (n : Nat) : Nat := n * 1000000

/-- Clock readings of a list that lie within a window up to now. -/
def State.within (s : State) (w : Nat) (l : List Nat) : List Nat := l.filter (fun t => decide (s.clock ≤ t + w))

/-! Modes (R24) -/

/-- The mode codes of R24. -/
def Mode.parked : Nat := 0
def Mode.waking : Nat := 1
def Mode.serving : Nat := 2
def Mode.draining : Nat := 3
def Mode.standby : Nat := 4
def Mode.takeover : Nat := 5
def Mode.destaging : Nat := 6
def Mode.service : Nat := 7

/-- The mode in force (R25). -/
def State.mode (s : State) : Nat := s.get Reg.SYS_MODE_MODE

/-- The mode is one of a list. -/
def State.modeIn (s : State) (l : List Nat) : Bool := l.contains s.mode

/-- The conditions under which the firmware stores into MRAM (R330, R462). -/
def State.mayStore (s : State) : Bool := s.on Reg.BAT_STATUS_KEEP_OK && s.mode != Mode.destaging

/-- The partner is live as firmware wrote it (R111). -/
def State.partnerLive (s : State) : Bool := s.on Reg.JNL_CTRL_PARTNER_LIVE

/-- This module holds ACTIVE_N. -/
def State.active (s : State) : Bool := s.on Reg.FOV_STATUS_ACTIVE_HELD

/-- The 12 V bus is up: the converter is regulating or in current limit (R291, R293). -/
def State.busUp (s : State) : Bool := s.get Reg.PWR_STATUS_CONV_STATE == 2 || s.get Reg.PWR_STATUS_CONV_STATE == 3

/-- The LTR encoding of a mode (R274). -/
def ltrOf (m : Nat) : Nat := if m = 0 then 0x900A else if m = 4 ∨ m = 7 then 0x8C1E else 0x880A

/-- Nanoseconds that an LTR encoding stands for: a 10-bit value and a scale of 2^5 per step. -/
def ltrNs (e : Nat) : Nat := bits e 0 10 * 2 ^ (5 * bits e 10 3)

/-- The latency the module reports in a mode, lowered to a Max Snoop Latency the host has written (R274). -/
def State.ltr (s : State) (m : Nat) : Nat :=
  let e := ltrOf m
  let lower (x host : Nat) : Nat := if host ≠ 0 ∧ ltrNs host < ltrNs x then host else x
  lower (lower e s.hif.maxSnoop) s.hif.maxNoSnoop

/-- A mode keeps an island clocked (R26); a spare engine's is gated in every mode (R106). -/
def State.clockedIn (s : State) (m : Nat) (i : Island) : Bool :=
  if m = Mode.parked then [Island.keep, Island.host, Island.fab].contains i
  else if m = Mode.destaging then [Island.keep, Island.ctrl, Island.mem, Island.nvm].contains i
  else match i with
    | .ox e => s.engState e.val != EngSt.spare
    | _ => true

/-- An entry of the event log (R238), newest first; the log keeps the latest 4,096. -/
def logEvent (code array row : Nat) (detail : List Nat) (s : State) : State :=
  { s with cmd := { s.cmd with
      log := (⟨s.nowMs, s.cmd.logSeq, code, array, row, detail⟩ :: s.cmd.log).take 4096,
      logSeq := s.cmd.logSeq + 1 } }

/-- An event of the log that concerns no array. -/
def logPlain (code : Nat) (detail : List Nat) (s : State) : State := logEvent code 0xFF 0 detail s

/-- A mode is committed to (R25): SYS_MODE shows it, the LTR message goes out (R274), the heartbeat record is due (R224), polling
starts at 2 µs where it becomes adaptive (R203), the
change is logged (R238), the islands that the mode clocks run (R26), and a park request is dropped on entry to STANDBY or SERVICE (R32). -/
def enterMode (m : Nat) (s : State) : State :=
  if s.mode = m then s
  else
    let s1 := logPlain 1 [s.mode, m] (setF Reg.SYS_MODE_MODE m s)
    let s2 := when (s.hif.ltrEnable && !s.hif.d3hot) (emit (.ltr (s.ltr m))) s1
    let adaptive (x : Nat) : Bool := [Mode.waking, Mode.serving, Mode.draining, Mode.standby, Mode.takeover].contains x
    { s2 with
      qmx := { s2.qmx with interval := if adaptive m && !adaptive s.mode then 2 else s2.qmx.interval }
      sys := { s2.sys with
        gated := s2.sys.gated.filter (fun i => !s.clockedIn m i),
        hbDue := true,
        parkPending := s2.sys.parkPending && !(m == Mode.standby || m == Mode.service) } }

/-- The loop of R38 is due at once. -/
def loopAtOnce (s : State) : State := { s with sys := { s.sys with loopDue := true } }

/-- Firmware lights the FAULT LED (R485). -/
def lightFault (s : State) : State := { s with sys := { s.sys with faultLed := true } }

/-! Ignored sequences -/

/-- A sequence that is ignored and counted (R223): kind and queue identifier are shown in QMX_IGN_LAST. -/
def ignored (kind qid : Nat) (s : State) : State :=
  event Reg.QMX_EVENT_IGNORED Reg.QMX_IGNORED_CNT (setF Reg.QMX_IGN_LAST_QID qid (setF Reg.QMX_IGN_LAST_KIND kind s))

/-! Islands (R10 to R13) -/

/-- The island of a register (R10, R495). -/
def islandOf (off : Nat) : Island :=
  let b := off / 0x10000
  let r := off % 0x10000
  if b = 0x0 then .keep
  else if b = 0x1 then .host
  else if b = 0x2 ∨ b = 0x3 ∨ b = 0x6 then .qmx
  else if b = 0x4 then (if h : 0x8000 ≤ r ∧ (r - 0x8000) / 0x100 < 28 then .ox ⟨(r - 0x8000) / 0x100, h.2⟩ else .qmx)
  else if b = 0x5 then .nvm
  else if b = 0x7 ∨ b = 0x8 ∨ b = 0x9 then .ctrl
  else if b = 0xA then
    (if h : 0x1000 ≤ r ∧ (r - 0x1000) / 0x40 / 6 < 18 then .sas ⟨(r - 0x1000) / 0x40 / 6, h.2⟩ else .sas 0)
  else if b = 0xB ∨ b = 0xD then .keep
  else if b = 0xC then .pwr
  else if b = 0xE then .fan
  else if b = 0xF then (if 0x1000 ≤ r then .mir else .keep)
  else if b = 0x10 then .fab
  else if b = 0x11 then (if 0x1000 ≤ r then .mem else .keep)
  else .host

/-- An earlier access to the register's island still waits: what reaches the crossing after it lands after it (R15, R17). -/
def State.queuedAt (s : State) (off : Nat) : Bool := s.waiting.any (fun w => islandOf w.1 == islandOf off)

/-- An access to the register lands: its island is neither retired nor held in reset, and no earlier access to it waits. -/
def State.lands (s : State) (off : Nat) : Bool :=
  !(s.sys.retired.contains (islandOf off)) && !(s.sys.inReset.contains (islandOf off)) && !s.queuedAt off

/-- An access ungates the clock of its island (R11). -/
def ungate (i : Island) (s : State) : State :=
  { s with sys := { s.sys with gated := s.sys.gated.filter (fun j => j != i) } }

/-- An access to a retired island: discarded and counted (R12). -/
def retiredAccess (s : State) : State := event Reg.SYS_EVENT_RETIRED_ACCESS Reg.SYS_RETIRED_ACCESS_CNT s

/-- A register access of a command, on its way to the island of `off`: a retired island discards it (R12), an island in
reset makes it wait (R13), as does an earlier access that still waits for that island (R15, R17), and otherwise the island's
clock runs (R11) and the access lands with its effect. -/
def land (off : Nat) (c : Instr) (k : State → State) (s : State) : Result :=
  if s.sys.retired.contains (islandOf off) then .next (retiredAccess s)
  else if s.sys.inReset.contains (islandOf off) || s.queuedAt off then .next { s with waiting := s.waiting ++ [(off, c)] }
  else .next (k (ungate (islandOf off) s))

/-! Slots -/

/-- Every slot number. -/
def allSlots : List Nat := List.range 108

/-- A slot's record. -/
def State.slot (s : State) (n : Nat) : SlotRec := Assoc.getD s.pwr.slots n {}

/-- A slot's record changed. -/
def onSlot (n : Nat) (f : SlotRec → SlotRec) (s : State) : State :=
  { s with pwr := { s.pwr with slots := Assoc.put s.pwr.slots {} n (f (s.slot n)) } }

end Sys2Proof.Machine
end

