-- ==== Sys2Proof/Machine/Entries.lean ====
section
/-! DEFINITION. Intent entries as they stand in MRAM (R130, R131): an intent's head and extension entries as bytes, their writing, their
mirroring (R117), and intents read back from them. -/

namespace Sys2Proof.Machine

/-- Where entry i of the journal lies (R130). -/
def entryAt (i : Nat) : Nat := 0x1040000000 + 256 * i

/-- An entry with its ENTRY_CRC. -/
def sealEntry (body : List Nat) : List Nat := body ++ leBytes 4 (crc32c body)

/-- The ENTRY_CRC of an entry's 256 bytes is right. -/
def entrySealed (b : List Nat) : Bool := leNat (b.drop 252) == crc32c (b.take 252)

/-- CRC words of an intent (R131): the new ones, then the old ones. -/
def Intent.words (t : Intent) : List Nat := t.newCrc ++ t.oldCrc

/-- n words as bytes; a word that is not there is 0. -/
def wordBytes (l : List Nat) (n : Nat) : List Nat := (List.range n).flatMap (fun i => leBytes 4 (l.getD i 0))

/-- The head entry of an intent with a STATE (R130). -/
def Intent.headBytes (t : Intent) (state : Nat) : List Nat :=
  sealEntry ([state, t.method + 4 * t.level + 16 * b2n t.flock + 32 * b2n t.parValid, t.next, t.array] ++ leBytes 4 t.seq
    ++ leBytes 8 t.row ++ leBytes 8 t.generation ++ leBytes 14 ((t.members.map (fun m => 2 ^ m)).sum) ++ [t.firstBlk, t.nblkM1]
    ++ leBytes 4 t.cacheRef ++ [t.vol, 0] ++ leBytes 2 t.oldCrc.length ++ wordBytes t.words 51)

/-- Extension entry k of an intent. -/
def Intent.extBytes (t : Intent) (k : Nat) : List Nat :=
  sealEntry ([4, k, 0, 0] ++ leBytes 4 t.seq ++ wordBytes (t.words.drop (51 + 61 * (k - 1))) 61)

/-- The entries of an intent in the order of their writing (R132): extensions first, the head last. -/
def Intent.entries (t : Intent) : List (Nat × List Nat) :=
  (List.range t.next).map (fun k => (k + 1, t.extBytes (k + 1))) ++ [(0, t.headBytes t.state)]

/-- One entry written: it lands in MRAM, and the active sends it to the partner (R117). -/
def landEntry (i : Nat) (b : List Nat) (s : State) : State :=
  when s.active (sendMir .intent (i :: b)) (writeBytes (entryAt i) b s)

/-- The highest SEQ of any intent head in MRAM (R135). -/
def noteSeq (q : Nat) (s : State) : State := { s with jnl := { s.jnl with topSeq := some (max q (s.jnl.topSeq.getD 0)) } }

/-- An intent takes its entries: all of them are written. -/
def putIntent (i : Nat) (t : Intent) (s : State) : State :=
  let s1 := forEach t.entries (fun e u => landEntry (i + e.1) e.2 u) s
  noteSeq t.seq { s1 with jnl := { s1.jnl with intents := Assoc.set s1.jnl.intents i t } }

/-- The head of an intent is written anew (R132). -/
def putHead (i : Nat) (t : Intent) (s : State) : State :=
  let s1 := landEntry i (t.headBytes t.state) s
  { s1 with jnl := { s1.jnl with intents := Assoc.set s1.jnl.intents i t } }

/-- The head of an intent is written FREE (R132). -/
def clearEntry (i : Nat) (s : State) : State :=
  match Assoc.find s.jnl.intents i with
  | none => s
  | some t =>
    let s1 := landEntry i (t.headBytes 0) s
    { s1 with jnl := { s1.jnl with intents := Assoc.erase s1.jnl.intents i } }

/-! Intents read from MRAM -/

/-- The 256 bytes of an entry. -/
def State.entryBytes (s : State) (i : Nat) : List Nat := s.readBytes (entryAt i) 256

/-- Extension entry k of the head at i is valid: STATE 4, its index, the head's SEQ and its CRC (R132). -/
def State.extValid (s : State) (i k : Nat) : Bool :=
  let b := s.entryBytes (i + k)
  b.getD 0 0 == 4 && b.getD 1 0 == k && (b.drop 4).take 4 == ((s.entryBytes i).drop 4).take 4 && entrySealed b

/-- Extension entries that the head at i names. -/
def State.headNext (s : State) (i : Nat) : Nat := bits ((s.entryBytes i).getD 2 0) 0 2

/-- The head at i and its extensions are good (R136). -/
def State.entryGood (s : State) (i : Nat) : Bool :=
  entrySealed (s.entryBytes i) && (List.range (s.headNext i)).all (fun k => s.extValid i (k + 1))

/-- The intent that the head at i and its extensions hold. -/
def State.parseIntent (s : State) (i : Nat) : Intent :=
  let b := s.entryBytes i
  let num (from' len : Nat) : Nat := leNat ((b.drop from').take len)
  let mask := num 24 14
  let ms := (List.range 108).filter (fun m => bitOf mask m == 1)
  let wordsOf (x : List Nat) (n : Nat) : List Nat := (List.range n).map (fun j => leNat ((x.drop (4 * j)).take 4))
  let words := wordsOf (b.drop 48) 51 ++ (List.range (s.headNext i)).flatMap (fun k => wordsOf ((s.entryBytes (i + k + 1)).drop 8) 61)
  { state := num 0 1, method := bits (num 1 1) 0 2, level := bits (num 1 1) 2 2, flock := bitOf (num 1 1) 4 == 1,
    parValid := bitOf (num 1 1) 5 == 1, next := s.headNext i, array := bits (num 3 1) 0 2, seq := num 4 4, row := num 8 5,
    generation := num 16 8, members := ms, firstBlk := num 38 1, nblkM1 := num 39 1, cacheRef := num 40 4, vol := bits (num 44 1) 0 6,
    newCrc := words.take ms.length, oldCrc := (words.drop ms.length).take (num 46 2), fmt1 := s.on Reg.SYS_STRAP_COMPAT }

/-- Entry i was written from outside the journal's own operations: a head that is good and not FREE is an intent, a FREE one none (R132). -/
def readEntry (i : Nat) (s : State) : State :=
  let st := (s.entryBytes i).getD 0 0
  if st = 0 then { s with jnl := { s.jnl with intents := Assoc.erase s.jnl.intents i } }
  else if 1 ≤ st && decide (st ≤ 3) && s.entryGood i then
    let t := s.parseIntent i
    noteSeq t.seq { s with jnl := { s.jnl with
      intents := Assoc.set s.jnl.intents i t, reserved := s.jnl.reserved.filter (fun r => r.1 != i) } }
  else s

/-- A control core or a DMA channel has written entry i, as firmware does that opens and retires an intent it was given a run for
(R132): intents opened and retired count, and the write is mirrored (R117). -/
def entryWritten (i : Nat) (s : State) : State :=
  let had := (Assoc.find s.jnl.intents i).isSome
  let s1 := readEntry i s
  let has := (Assoc.find s1.jnl.intents i).isSome
  let s2 := when (!had && has) (bump Reg.JNL_OPENED_CNT) (when (had && !has) (bump Reg.JNL_RETIRED_CNT) s1)
  when s2.active (sendMir .intent (i :: s2.entryBytes i)) s2

/-- Bytes that a core, a channel or the host stores in memory; those that fall in the journal are entry writes. -/
def storeBytes (a : Nat) (bytes : List Nat) (s : State) : State :=
  let s1 := writeBytes a bytes s
  if 0x1040000000 ≤ a ∧ a < 0x1041000000 then
    forEach ((List.range (bytes.length / 256 + 2)).map (fun k => (a - 0x1040000000) / 256 + k)) (fun i t =>
      if entryAt i < a + bytes.length then entryWritten i t else t) s1
  else s1

end Sys2Proof.Machine
end

