-- ==== Sys2Proof/Machine/Queues.lean ====
section
/-! DEFINITION. Interrupts to the host (R282, R283), completion entries (R213 to R217) and the commands in flight. -/

namespace Sys2Proof.Machine

/-- The module issues requests to the host: Bus Master Enable is set, and the function is neither in D3hot nor in a reset (R285,
R275, R287). -/
def State.masters (s : State) : Bool := s.hif.busMaster && !s.hif.d3hot && !s.hif.flr

/-! Requests to the host (R273) -/

/-- What a word of configuration space reads before it is written: Max_Read_Request_Size resets to 512 bytes (R272). -/
def cfgReset (off : Nat) : Nat := if off = 0x78 then 0x2000 else 0

/-- A writable word of configuration space. -/
def State.cfgWord (s : State) (off : Nat) : Nat := Assoc.getD s.hif.cfg off (cfgReset off)

/-- The attributes of the requests (R273): the fields of Device Control and Device Control 2 stand where PCI Express has them (log entry 126). -/
def State.hostAttr (s : State) : HostAttr where
  ido := bitOf (s.cfgWord 0x98) 8 == 1
  tagBits := if bitOf (s.cfgWord 0x98) 12 = 1 then 10 else if bitOf (s.cfgWord 0x78) 8 = 1 then 8 else 5

/-- Max_Payload_Size, up to 512 bytes, and Max_Read_Request_Size, up to 4,096 (R272). -/
def State.maxPayload (s : State) : Nat := 128 * 2 ^ min 2 (bits (s.cfgWord 0x78) 5 3)
def State.maxRead (s : State) : Nat := 128 * 2 ^ min 5 (bits (s.cfgWord 0x78) 12 3)

/-- Bytes written into host memory, in requests that keep to Max_Payload_Size (R273), cut at its multiples (log entry 126). -/
def postHost (a : Nat) (bytes : List Nat) (s : State) : State :=
  forEach (cutAt s.maxPayload (bytes.length + 1) a bytes.length 0)
    (fun p => emit (.hostWrite p.1 ((bytes.drop p.2.2).take p.2.1) s.hostAttr)) s

/-- Host memory read, in requests that keep to Max_Read_Request_Size (R273), cut at its multiples (log entry 126). -/
def readHost (a n : Nat) (s : State) : State :=
  forEach (cutAt s.maxRead (n + 1) a n 0) (fun p => emit (.hostRead p.1 p.2.1 s.hostAttr)) s

/-! Interrupts -/

/-- An MSI-X message: pending while masked (R282), held while Bus Master Enable is 0 (R285). -/
def sendMsix (v : Nat) (s : State) : State :=
  if !s.hif.msixEnable then s
  else if s.hif.msixMask || s.on (Reg.MSIX_CTRL_MASK v) then
    setF Reg.MSIX_PBA_LO_PENDING (s.get Reg.MSIX_PBA_LO_PENDING ||| 2 ^ v) s
  else if !s.masters then { s with hif := { s.hif with heldMsgs := s.hif.heldMsgs ++ [(s.qmx.heldOut.length, v)] } }
  else emit (.msix v) s

/-- A CQ has been written: its message follows at the end of the microsecond, one for all that is written in it (R282). -/
def owe (q v : Nat) (s : State) : State :=
  if s.hif.vecDue.contains (q, v) then s else { s with hif := { s.hif with vecDue := s.hif.vecDue ++ [(q, v)] } }

/-- The messages of the CQs written in the last microsecond go out. -/
def sendVectors (s : State) : State :=
  forEach s.hif.vecDue (fun p t => sendMsix p.2 t) { s with hif := { s.hif with vecDue := [] } }

/-- The flag, enable and counter of each cause of HIF_HOST_EVENT, by vector (R282). -/
def hostCause (v : Nat) : Field × (Field × Field) :=
  if v = 0 then (Reg.HIF_HOST_EVENT_ADMIN_CQ, Reg.HIF_HOST_EVENT_EN_ADMIN_CQ, Reg.HIF_ADMIN_IRQ_CNT)
  else if v = 1 then (Reg.HIF_HOST_EVENT_FAULT, Reg.HIF_HOST_EVENT_EN_FAULT, Reg.HIF_FAULT_CNT)
  else if v = 2 then (Reg.HIF_HOST_EVENT_ROLE, Reg.HIF_HOST_EVENT_EN_ROLE, Reg.HIF_ROLE_CNT)
  else if v = 3 then (Reg.HIF_HOST_EVENT_PACK, Reg.HIF_HOST_EVENT_EN_PACK, Reg.HIF_PACK_CNT)
  else if v = 4 then (Reg.HIF_HOST_EVENT_FABRIC, Reg.HIF_HOST_EVENT_EN_FABRIC, Reg.HIF_FABRIC_CNT)
  else (Reg.HIF_HOST_EVENT_POWER, Reg.HIF_HOST_EVENT_EN_POWER, Reg.HIF_POWER_CNT)

/-- Some HIF_HOST_EVENT flag is set with its enable bit set. -/
def State.hostEventDue (s : State) : Bool :=
  [0, 1, 2, 3, 4, 5].any (fun v => s.on (hostCause v).1 && s.on (hostCause v).2.1)

/-- The 128 bytes of the summary bitmap of a set of CQs (R283). -/
def summaryBitmap (w : List Nat) : List Nat :=
  (List.range 128).map (fun b =>
    w.foldl (fun acc q => if 1 ≤ q ∧ (q - 1) / 8 = b then acc ||| 2 ^ ((q - 1) % 8) else acc) 0)

/-- The INTx line is due (R283). -/
def State.lineDue (s : State) : Bool :=
  s.hif.pend.any (fun q => !(s.hif.announced.contains q)) || s.hostEventDue

/-- The INTx line is evaluated (R283): when due, not asserted, not disabled and with Bus Master Enable set, the pending set
is announced, its bitmap written, and only then the line asserted, or vector 0 sent in its place. -/
def evalLine (s : State) : State :=
  if s.lineDue && !s.on Reg.HIF_IRQ_CTRL_ASSERTED && !s.hif.intDisable && s.masters then
    let addr := s.get64 Reg.HIF_INTX_BITMAP_LO_ADDR Reg.HIF_INTX_BITMAP_HI_ADDR
    let s1 : State := { s with hif := { s.hif with announced := s.hif.pend } }
    let s2 := when (addr != 0) (postHost addr (summaryBitmap s.hif.pend)) s1
    let s3 := bump Reg.HIF_INTX_ASSERT_CNT (setF Reg.HIF_IRQ_CTRL_ASSERTED 1 s2)
    if s.on Reg.HIF_IRQ_CTRL_SUMMARY_ON_MSIX && s.hif.msixEnable then sendMsix 0 s3 else emit .assertInta s3
  else s

/-- A cause of HIF_HOST_EVENT is raised: flag, counter, and its vector or the line (R282). -/
def hostEvent (v : Nat) (s : State) : State :=
  let c := hostCause v
  let s1 := event c.1 c.2.2 s
  evalLine (when (s.on c.2.1) (if v = 0 then owe 0 0 else sendMsix v) s1)

/-- The CQ of a pair has new entries: its vector is owed, it joins the summary, or nothing follows (R241, R282, R283). -/
def announce (q : Nat) (irq : Nat) (s : State) : State :=
  if q = 0 then hostEvent 0 s
  else if bitOf irq 6 = 1 ∧ bitOf irq 7 = 0 then s
  else if bitOf irq 7 = 1 ∧ s.hif.msixEnable then owe q (8 + bits irq 0 3) s
  else evalLine { s with hif := { s.hif with pend := addOnce s.hif.pend q } }

/-! Fields of an entry (R206) -/

/-- A field of n bytes at an offset of an entry or a fragment table. -/
def byteField (b : List Nat) (at' n : Nat) : Nat := leNat ((b.drop at').take n)

/-- A field of CMD_SPECIFIC: `at'` is its first byte in the entry, from 40. -/
def specField (e : Entry) (at' n : Nat) : Nat := byteField e.spec (at' - 40) n

/-- Destination of a COPY (R266): block, node, REMOTE and volume. -/
def copyLba (e : Entry) : Nat := specField e 40 8
def copyNode (e : Entry) : Nat := bits (specField e 48 2) 0 12
def copyRemote (e : Entry) : Bool := bitOf (specField e 48 2) 15 == 1
def copyVol (e : Entry) : Nat := specField e 52 4

/-- Blocks that a command has still to commit, of one that writes to this module: volume, first block, count. -/
def Cmd.toCommit (c : Cmd) : Option (Nat × (Nat × Nat)) :=
  let n := c.e.nlbM1 + 1
  if c.e.opcode = 0x21 then (if c.committed then none else some (c.e.vol, c.e.slba, n))
  else if c.e.opcode = 0x24 then some (c.e.vol, c.e.slba + c.next, n - c.next)
  else if c.e.opcode = 0x25 ∧ copyRemote c.e = false then some (copyVol c.e, copyLba c.e + c.next, n - c.next)
  else none

/-- An earlier-fetched command of the same I/O queue has yet to commit one of some blocks of a volume (R221). -/
def State.mustFollow (s : State) (n v lba k : Nat) : Bool :=
  match Assoc.find s.qmx.cmds n with
  | none => false
  | some c => s.qmx.cmds.any (fun p => decide (p.1 < n) && p.2.e.qid == c.e.qid && c.e.qid != 0 && (match p.2.toCommit with
    | some (w, f, m) => w == v && decide (f < lba + k) && decide (lba < f + m)
    | none => false))

/-! Queue pairs -/

/-- A created pair. -/
def State.pair? (s : State) (q : Nat) : Option Pair := Assoc.find s.qmx.pairs q

/-- A created pair changed. -/
def onPair (q : Nat) (f : Pair → Pair) (s : State) : State :=
  match s.pair? q with
  | none => s
  | some p => { s with qmx := { s.qmx with pairs := Assoc.set s.qmx.pairs q (f p) } }

/-- Commands of a pair in flight, from fetch until the completion is written (R215). -/
def State.inFlight (s : State) (q : Nat) : Nat :=
  (s.qmx.cmds.filter (fun c => c.2.e.qid == q)).length + (s.qmx.stalled.filter (fun p => p.qid == q)).length
    + (s.qmx.heldOut.filter (fun p => p.qid == q)).length

/-- Commands in flight of every pair. -/
def State.allInFlight (s : State) : Nat := s.qmx.cmds.length + s.qmx.stalled.length + s.qmx.heldOut.length

/-- The 16 bytes of a completion entry (R213). -/
def entryBytes (p : Post) (pr : Pair) : List Nat :=
  leBytes 4 p.result ++ leBytes 2 pr.sqHead ++ leBytes 2 p.qid ++ leBytes 2 p.cid ++ leBytes 2 p.status
    ++ [p.flags ||| pr.phase, 0, 0, 0]

/-- The CQ has no released slot (R215). -/
def Pair.cqFull (p : Pair) : Bool := (p.cqTail + 1) % (p.sizeM1 + 1) == p.cqHead

/-- One completion entry written: one posted write of 16 bytes into host memory (R217), the tail moved with PHASE inverted at the wrap (R214), a fence of
this command lifted (R220), and the CQ announced (R217). -/
def writeEntry (p : Post) (pr : Pair) (s : State) : State :=
  let wrap := pr.cqTail = pr.sizeM1
  let pr1 : Pair := { pr with
    cqTail := if wrap then 0 else pr.cqTail + 1,
    phase := if wrap then 1 - pr.phase else pr.phase,
    fence := if pr.fence = some p.cmd then none else pr.fence }
  let s1 := emit (.hostWrite (pr.cqBase + 16 * pr.cqTail) (entryBytes p pr) s.hostAttr) s
  let s2 : State := { s1 with qmx := { s1.qmx with pairs := Assoc.set s1.qmx.pairs p.qid pr1 } }
  let s3 := bump Reg.QMX_CMD_DONE_CNT (when (bitOf p.flags 1 == 1) (bump Reg.QMX_DELAYED_CNT) s2)
  announce p.qid pr.irq s3

/-- A completion on its way to its CQ: dropped where the pair is gone, held while Bus Master Enable is 0 (R285), waiting
where the CQ is full (R215), dropped there while the pair is being deleted (R242), and written otherwise. -/
def deliver (p : Post) (s : State) : State :=
  match s.pair? p.qid with
  | none => s
  | some pr =>
    if !s.masters then { s with qmx := { s.qmx with heldOut := s.qmx.heldOut ++ [p] } }
    else if pr.cqFull then
      (if pr.deleting.isSome then s
       else event Reg.QMX_EVENT_CQ_STALL Reg.QMX_CQ_STALL_CNT (setF Reg.QMX_STATUS_CQ_STALL 1
              { s with qmx := { s.qmx with stalled := s.qmx.stalled ++ [p] } }))
    else writeEntry p pr s

/-- A command in flight. -/
def State.cmd? (s : State) (n : Nat) : Option Cmd := Assoc.find s.qmx.cmds n

/-- A command in flight changed. -/
def onCmd (n : Nat) (f : Cmd → Cmd) (s : State) : State :=
  match s.cmd? n with
  | none => s
  | some c => { s with qmx := { s.qmx with cmds := Assoc.set s.qmx.cmds n (f c) } }

/-- A command has begun (R242): an I/O command once it has moved host data, committed, or opened a member command; a FLUSH or an admin command
with its run. -/
def State.hasBegun (s : State) (n : Nat) (c : Cmd) : Bool :=
  c.begun && (c.e.qid == 0 || c.e.opcode == 0x23 || c.moved || c.committed || c.opened || c.next != 0 || s.fab.copies.any (fun x => x.cmd == n))

/-- The read pieces of a command are dropped. -/
def dropPieces (n : Nat) (s : State) : State :=
  { s with sas := { s.sas with pieces := s.sas.pieces.filter (fun p => p.2.cmd != n) } }

/-- A command ends: it leaves the commands in flight and its completion goes out (R213). -/
def finish (n status result : Nat) (s : State) : State :=
  match s.cmd? n with
  | none => s
  | some c =>
    let flags := 2 * b2n c.delayed + 4 * b2n c.degraded + 8 * b2n c.deferred
    let s1 : State := { s with qmx := { s.qmx with cmds := Assoc.erase s.qmx.cmds n } }
    deliver ⟨n, c.e.qid, c.e.cid, status, result, flags⟩ s1

/-- Status codes (R267). -/
def St.success : Nat := 0x0
def St.invalidOpcode : Nat := 0x1
def St.invalidField : Nat := 0x2
def St.invalidLength : Nat := 0x3
def St.fragmentError : Nat := 0x4
def St.lbaOutOfRange : Nat := 0x5
def St.abortedByRequest : Nat := 0x6
def St.abortedByReset : Nat := 0x7
def St.hostGuard : Nat := 0x8
def St.refTag : Nat := 0x9
def St.unrecovered : Nat := 0xA
def St.arrayOffline : Nat := 0xB
def St.notActive : Nat := 0xC
def St.budgetDenied : Nat := 0xD
def St.internalData : Nat := 0xE
def St.selfTest : Nat := 0xF
def St.dataPath : Nat := 0x10

/-- Every command of a list ends with one status. -/
def finishAll (l : List Nat) (status result : Nat) (s : State) : State :=
  forEach l (fun n => finish n status result) s

/-- Every command of a list, none of which has begun, ends with ABORTED_BY_REQUEST (R242). -/
def abortAll (l : List Nat) (s : State) : State := finishAll l St.abortedByRequest 0 (forEach l dropPieces s)

/-- Numbers of the commands in flight that satisfy a test, in fetch order. -/
def State.cmdsWhere (s : State) (p : Cmd → Bool) : List Nat :=
  (s.qmx.cmds.filter (fun c => p c.2)).map Prod.fst

/-- Some I/O command is in flight. -/
def State.ioInFlight (s : State) : Bool :=
  s.qmx.cmds.any (fun c => c.2.e.qid != 0) || s.qmx.stalled.any (fun p => p.qid != 0) || s.qmx.heldOut.any (fun p => p.qid != 0)

end Sys2Proof.Machine
end

