-- ==== Sys2Proof/Machine/Level.lean ====
section
/-! DEFINITION. Features in force, the dirty ceiling (R120), the health of the pack and the acceptance level (R111 to R118). -/

namespace Sys2Proof.Machine

/-! Features (R234) -/

/-- The key of a feature and selector. -/
def featKey (code sel : Nat) : Nat := code * 256 + sel

/-- Default value of a feature (R234). -/
def featDefault (code sel : Nat) : Nat :=
  if code = 2 then 5
  else if code = 3 then (if sel = 0 then 128 else if sel = 1 then 200 else if sel = 2 then 30 else 49152)
  else if code = 4 then 1
  else if code = 6 then 30 + 120 * 65536
  else if code = 7 then 1
  else if code = 8 then 600
  else if code = 9 then 6
  else if code = 0xA then 10
  else if code = 0xB then (if sel = 0 then 75 else 40)
  else 0

/-- The value of a feature in force. -/
def State.feature (s : State) (code sel : Nat) : Nat :=
  Assoc.getD s.cmd.features (featKey code sel) (featDefault code sel)

/-! Dirty data -/

/-- Lines of the cache that are dirty. -/
def State.dirtyLines (s : State) : List (Nat × Line) := s.jnl.lines.filter (fun l => l.2.dirty)

/-- DRAM holds dirty or mirrored data (R27). -/
def State.holdsData (s : State) : Bool := s.jnl.lines.any (fun l => l.2.dirty || l.2.mirrored)

/-- JNL_DIRTY: dirty data in MiB, rounded up. -/
def State.dirtyMib (s : State) : Nat := ceilDiv s.dirtyLines.length 256

/-- Dirty lines held only in DRAM (R114). -/
def State.dramOnly (s : State) : List Nat := (s.dirtyLines.filter (fun l => !l.2.staged)).map Prod.fst

/-- JNL_CEILING as it acts: at most 49,152 MiB. -/
def State.ceiling (s : State) : Nat := min (s.get Reg.JNL_CEILING_CEIL_MIB) 49152

/-- JNL_STATUS.ADMIT_STOP (R120). -/
def State.admitStop (s : State) : Bool :=
  s.get Reg.JNL_STATUS_LEVEL == 0 && decide (s.ceiling ≤ s.dirtyMib)

/-- The module holds more dirty data than the ceiling allows, and writes back the excess before any other drive work (R37). -/
def State.excess (s : State) : Bool := s.get Reg.JNL_STATUS_LEVEL == 0 && decide (s.ceiling < s.dirtyMib)

/-- The ceiling of one pack in MiB, from its usable energy (R120). -/
def ceilingOf (eu k256 eFix pds dirtyMax : Nat) : Nat :=
  min dirtyMax ((eu * k256 - eFix * 256) * 4000000000 / (256 * pds * 2 ^ 30) * 1024)

/-- The own pack's ceiling from BAT_EST and the features in force (R120). -/
def State.ownCeiling (s : State) : Nat :=
  ceilingOf (s.get Reg.BAT_EST_E_U) (s.feature 3 0) (s.feature 3 1) (s.feature 3 2) (s.feature 3 3)

/-- The highest SEQ of any intent head in MRAM (R135). -/
def State.highestSeq (s : State) : Nat := s.jnl.topSeq.getD 0

/-- An image is valid (R135): sealed, its directory good, its JNL_SEQ_AT_LOSS the highest SEQ of any intent head; one that a replay kept stays
valid across any number of starts (log entry 101). -/
def State.imageValid (s : State) (i : Image) : Bool := i.sealed && i.dirOk && (i.kept || i.seqAtLoss == s.highestSeq)

/-- NAND image areas that hold kept images (R503). -/
def State.areasKept (s : State) : Nat := (s.jnl.images.filter (fun p => s.imageValid p.2)).length

/-- The own pack is healthy (R111): present, authenticated, its ceiling at least 4 GiB, and an image area free (R503). -/
def State.packHealthy (s : State) : Bool :=
  s.on Reg.BAT_STATUS_PRESENT && s.bat.auth && decide (4096 ≤ s.ownCeiling) && decide (s.areasKept < 2)

/-- The ceiling in force (R120): the larger of the two with a live partner, DIRTY_MAX if neither pack is healthy. -/
def State.ceilingInForce (s : State) : Nat :=
  if s.partnerLive then
    (if !s.packHealthy && !s.jnl.partnerPackHealthy then s.feature 3 3 else max s.ownCeiling s.jnl.partnerCeiling)
  else s.ownCeiling

/-- The firmware writes the ceiling in force to JNL_CEILING, and sends the partner its own ceiling with its pack's health when it
changes (R117, R120). -/
def updateCeiling (s : State) : State :=
  let own := s.ownCeiling
  let s1 : State := { s with jnl := { s.jnl with ownCeiling := own } }
  let s2 := when (own != s.jnl.ownCeiling) (sendMir .ceiling [own, b2n s.packHealthy]) s1
  setF Reg.JNL_CEILING_CEIL_MIB s.ceilingInForce s2

/-! The level (R111, R113) -/

/-- The level that R111 selects: 0 CACHE_PROTECTED, 1 MRAM_STAGED, 2 WRITE_THROUGH. -/
def State.selected (s : State) : Nat :=
  if s.on Reg.JNL_CTRL_FORCE_WT then 2
  else if s.on Reg.JNL_CTRL_PACK_HEALTHY || s.partnerLive then 0 else 1

/-- The level in force changes (R113): LEVEL, the event with its counter, and the log (R238). -/
def setLevel (l : Nat) (s : State) : State :=
  event Reg.JNL_EVENT_LEVEL_CHANGE Reg.JNL_LEVEL_CHANGE_CNT
    (setF Reg.JNL_STATUS_LEVEL l (logPlain 2 [s.get Reg.JNL_STATUS_LEVEL, l] s))

/-- EXPOSED is entered when DRAM-only dirty data is held at the fall to MRAM_STAGED (R113, R114). -/
def expose (s : State) : State :=
  if s.dramOnly.isEmpty then s
  else event Reg.JNL_EVENT_EXPOSED Reg.JNL_EXPOSED_CNT (setF Reg.JNL_STATUS_EXPOSED 1 s)

/-- EXPOSED clears when no DRAM-only dirty line remains (R114). -/
def unexpose (s : State) : State :=
  if s.on Reg.JNL_STATUS_EXPOSED && s.dramOnly.isEmpty then setF Reg.JNL_STATUS_EXPOSED 0 s else s

/-- Everything the drives hold for the cache is settled: no dirty line, no intent, no update (R113 step 2). -/
def State.allClean (s : State) : Bool := s.dirtyLines.isEmpty && s.jnl.intents.isEmpty && s.jnl.updates.isEmpty

/-- Writes held for a transition or for admission may go on (R113, R120). -/
def releaseHeld (s : State) : State :=
  { s with jnl := { s.jnl with flights := s.jnl.flights.map (fun f => { f with held := false }) } }

/-- The level is selected again after one of its inputs changed (R111, R113). A change to WRITE_THROUGH waits for the
write-back of every dirty line; the way out of it, and between the other two, is at once. -/
def reselect (s : State) : State :=
  let cur := s.get Reg.JNL_STATUS_LEVEL
  let sel := s.selected
  if sel = 2 then (if cur = 2 then s else { s with jnl := { s.jnl with toWt := true } })
  else
    let s1 : State := if s.jnl.toWt then releaseHeld { s with jnl := { s.jnl with toWt := false } } else s
    if cur = sel then s1
    else if cur = 0 ∧ sel = 1 then expose (setLevel 1 s1)
    else setLevel sel s1

/-- WRITE_THROUGH is reached (R113): the level changes and held writes proceed. -/
def reachWt (s : State) : State :=
  if s.jnl.toWt && s.allClean then
    let s1 := setLevel 2 { s with jnl := { s.jnl with toWt := false } }
    let s2 := releaseHeld s1
    finishAll s2.cmd.wtCmds St.success 0 { s2 with cmd := { s2.cmd with wtCmds := [] } }
  else s

/-! Staging (R119) -/

/-- 4 KiB units of the staging area: 1 GiB. -/
def stagingUnits : Nat := 262144

/-- 4 KiB units a record takes: its 64-byte header and its data, rounded up. -/
def recordUnits (nblk : Nat) : Nat := nblk + 1

/-- 4 KiB units of staging in use. -/
def State.stagedUnits (s : State) : Nat := (s.jnl.staging.map (fun r => recordUnits r.nblk)).sum

/-- The key of a block of a volume in the cache directory. -/
def lineKey (vol lba : Nat) : Nat := vol + 64 * lba

/-- The volume and block of a key. -/
def keyVol (k : Nat) : Nat := k % 64
def keyLba (k : Nat) : Nat := k / 64

/-- Staging has room for a record of some blocks. -/
def State.stagingFits (s : State) (nblk : Nat) : Bool := decide (s.stagedUnits + recordUnits nblk ≤ stagingUnits)

/-- A stall of admission on full staging, counted once (R119). -/
def stagingStall (s : State) : State :=
  if s.on Reg.JNL_STATUS_STAGING_FULL then s
  else event Reg.JNL_EVENT_STAGING_FULL Reg.JNL_STAGING_FULL_CNT (setF Reg.JNL_STATUS_STAGING_FULL 1 s)

/-- The 64-byte header of a record (R119). -/
def StageRec.header (r : StageRec) : List Nat :=
  sealEntry ([83, 84, 71, 50] ++ leBytes 4 r.seq ++ leBytes 2 r.vol ++ [0, 0] ++ leBytes 4 r.nblk ++ leBytes 8 r.lba ++ leBytes 4 r.crc
    ++ List.replicate 32 0)

/-- Address in MRAM of byte i of the area, which is circular (R119). -/
def stageAddr (i : Nat) : Nat := 0x1000000000 + i % 0x40000000

/-- Bytes of a record. -/
def writeStage (at' : Nat) : List Nat → State → State
  | [], s => s
  | b :: t, s => writeStage (at' + 1) t (writeByte (stageAddr at') (BitVec.ofNat 8 b) s)
def State.readStage (s : State) (at' : Nat) : Nat → List Nat
  | 0 => []
  | n + 1 => (s.readByte (stageAddr at')).toNat :: s.readStage (at' + 1) n

/-- A record of some blocks is written at the next free position of the log (R119); `keys` are the blocks that it holds for their
intents. -/
def writeRecord (vol lba : Nat) (keys : List Nat) (blocks : List Block) (s : State) : State :=
  let bytes := blocks.flatMap (leBytes 4096)
  let r : StageRec := { seq := s.jnl.stageSeq, vol := vol, lba := lba, nblk := blocks.length, crc := crc32c bytes, left := keys,
                        place := s.jnl.stageNext }
  let s1 := writeStage (4096 * r.place) (r.header ++ bytes) s
  { s1 with jnl := { s1.jnl with
      staging := s1.jnl.staging ++ [r], stageSeq := s1.jnl.stageSeq + 1,
      stageNext := (r.place + recordUnits r.nblk) % stagingUnits,
      lines := s1.jnl.lines.map (fun l => if keys.contains l.1 then (l.1, { l.2 with staged := true }) else l) } }

/-- The blocks of a record as MRAM holds them, and whether DATA_CRC holds. -/
def State.recordBlock (s : State) (r : StageRec) (i : Nat) : Block := leNat (s.readStage (4096 * r.place + 64 + 4096 * i) 4096)
def State.recordGood (s : State) (r : StageRec) : Bool := crc32c (s.readStage (4096 * r.place + 64) (4096 * r.nblk)) == r.crc

/-- Some committed blocks go to staging. Their record is read back; one that fails is written again at the next free position, `fails` times
in all (R192). -/
def stage (vol lba : Nat) (blocks : List Block) (fails : Nat) (s : State) : State :=
  let again (t : State) : State := writeRecord vol lba [] blocks (event Reg.INT_EVENT_STAGING_CRC Reg.INT_STAGING_CRC_CNT t)
  writeRecord vol lba ((List.range blocks.length).map (fun i => lineKey vol (lba + i))) blocks
    (forEach (List.range fails) (fun _ t => again t) s)

/-- Blocks whose intents retired leave their staging records; the tail frees records that hold nothing more (R119). -/
def unstage (keys : List Nat) (s : State) : State :=
  let rs := s.jnl.staging.map (fun r => { r with left := r.left.filter (fun k => !keys.contains k) })
  let kept := rs.dropWhile (fun r => r.left.isEmpty)
  let s1 : State := { s with jnl := { s.jnl with staging := kept } }
  when (decide (kept.length < rs.length)) (setF Reg.JNL_STATUS_STAGING_FULL 0) s1

/-! Acknowledgement (R116, R118) -/

/-- A write reaches its acknowledgement point: its command ends with the level as RESULT (R112), unless it still owes blocks
to the drives (FUA, WRITE_THROUGH). -/
def acknowledge (f : Flight) (s : State) : State :=
  let s1 : State := { s with jnl := { s.jnl with flights := s.jnl.flights.filter (fun g => g != f) } }
  match s1.cmd? f.cmd with
  | none => s1
  | some c => if c.final && c.owed.isEmpty && !s1.jnl.flights.any (fun g => g.cmd == f.cmd) then finish f.cmd c.status (c.result ||| c.level) s1 else s1

/-- Runs of consecutive blocks of one volume among some keys. -/
def keyRuns : List Nat → List (List Nat)
  | [] => []
  | k :: t => match keyRuns t with
    | (j :: r) :: rest => if j = k + 64 then (k :: j :: r) :: rest else [k] :: (j :: r) :: rest
    | rest => [k] :: rest

/-- The blocks of a write that the cache still holds with a good sidecar (R187), as runs. -/
def State.flightRuns (s : State) (f : Flight) : List (List Nat) :=
  keyRuns (f.keys.filter (fun k => match Assoc.find s.jnl.lines k with | some l => l.dirty && !l.bad | none => false))

/-- The write's data goes to staging and it is acknowledged, where the area has room for all of it; otherwise it waits (R118, R119). -/
def stageFlight (f : Flight) (s : State) : State :=
  let runs := s.flightRuns f
  if s.stagedUnits + (runs.map (fun r => recordUnits r.length)).sum ≤ stagingUnits then
    acknowledge f (forEach runs (fun r t =>
      stage (keyVol (r.headD 0)) (keyLba (r.headD 0)) (r.map (fun k => (Assoc.getD t.jnl.lines k {}).data)) 0 t) s)
  else stagingStall s

/-- Writes that wait for room in staging go there as far as they can. -/
def stageWaiting (s : State) : State := forEach (s.jnl.flights.filter (fun f => f.toStage)) stageFlight s

/-- Commits that wait for a partner that is no longer live (R118): acknowledged under CACHE_PROTECTED with a healthy pack,
else copied to staging and acknowledged under MRAM_STAGED. -/
def settleWaiting (s : State) : State :=
  let waiting := s.jnl.flights.filter (fun f => f.ack.isSome)
  if s.on Reg.JNL_CTRL_PACK_HEALTHY then forEach waiting acknowledge s
  else
    let s1 := forEach waiting (fun f t => onCmd f.cmd (fun c => { c with level := max c.level 1 }) t) s
    unexpose (stageWaiting { s1 with jnl := { s1.jnl with flights := s1.jnl.flights.map (fun f =>
      if f.ack.isSome then { f with ack := none, toStage := true } else f) } })

/-- JNL_CTRL.PACK_HEALTHY written (R111). -/
def setPackHealthy (b : Bool) (s : State) : State :=
  if s.on Reg.JNL_CTRL_PACK_HEALTHY = b then s else reselect (setF Reg.JNL_CTRL_PACK_HEALTHY (b2n b) s)

/-- JNL_CTRL.PARTNER_LIVE written (R111, R118). -/
def setPartnerLive (b : Bool) (s : State) : State :=
  if s.partnerLive = b then s
  else
    let s1 := reselect (setF Reg.JNL_CTRL_PARTNER_LIVE (b2n b) s)
    loopAtOnce (if b then s1 else settleWaiting s1)

/-- The firmware writes PARTNER_LIVE, and JNL_CEILING before it and again with the other module's ceiling (R120). -/
def showPartnerLive (b : Bool) (s : State) : State := updateCeiling (setPartnerLive b (updateCeiling s))

/-- A PACK_CHANGE event of a kind, with the pack's serial (R335), raised to the host (R334). -/
def packChange (kind : Nat) (s : State) : State :=
  let serial := match s.bat.desc with | none => 0 | some d => d.serial
  hostEvent 3 (logPlain 0xE (kind :: List.replicate 7 0 ++ leBytes 8 serial) s)

/-- The firmware writes PACK_HEALTHY from R111 (R334), logging a change; JNL_CEILING is written before it (R120). Until the exchange of a start
has completed it stays as the reset left it (R333). -/
def writeHealth (s : State) : State :=
  let h := s.packHealthy
  if s.bat.authDue || s.on Reg.JNL_CTRL_PACK_HEALTHY == h then s
  else packChange (if h then 5 else 6) (setPackHealthy h (updateCeiling s))

end Sys2Proof.Machine
end

