-- ==== Sys2Proof/Machine/FanOps.lean ====
section
/-! DEFINITION. The fan drive (chapter 12): channel states, starting, faults, the fan token and demand. -/

namespace Sys2Proof.Machine

/-- Channel states (R343). -/
def FanSt.off : Nat := 0
def FanSt.sense : Nat := 1
def FanSt.sync : Nat := 2
def FanSt.brake : Nat := 3
def FanSt.align : Nat := 4
def FanSt.openRamp : Nat := 5
def FanSt.run : Nat := 6
def FanSt.coast : Nat := 7
def FanSt.fault : Nat := 8
def FanSt.shadow : Nat := 9

/-- The six channels. -/
def fanChannels : List Nat := List.range 6

/-- A channel's state. -/
def State.fanState (s : State) (c : Nat) : Nat := s.get (Reg.FAN_CH_STATE_STATE c)

/-- A channel's record beyond its registers. -/
def State.fanChan (s : State) (c : Nat) : FanChan := Assoc.getD s.fan.chans c {}

/-- A channel's record changed. -/
def onFanChan (c : Nat) (f : FanChan → FanChan) (s : State) : State :=
  { s with fan := { s.fan with chans := Assoc.put s.fan.chans {} c (f (s.fanChan c)) } }

/-- A channel enters a state. -/
def setFanState (c st : Nat) (s : State) : State := setF (Reg.FAN_CH_STATE_STATE c) st s

/-- The token is held and drive permitted: gate drivers may conduct (R350). -/
def State.fanDrive (s : State) : Bool := s.on Reg.FAN_TOKEN_HELD && s.on Reg.FAN_CTRL_ENABLE

/-- A channel wants to run: RUN set, ENABLE 1, the bus up. -/
def State.fanWants (s : State) (c : Nat) : Bool :=
  s.on (Reg.FAN_CH_CTRL_RUN c) && s.on Reg.FAN_CTRL_ENABLE && s.busUp

/-- Measured speed of a channel, signed. -/
def State.fanRpm (s : State) (c : Nat) : Int := toSigned 16 (s.get (Reg.FAN_CH_SPEED_RPM c))

/-- A measured speed stored, with its direction. -/
def setRpm (c : Nat) (rpm : Int) (s : State) : State :=
  setF (Reg.FAN_CH_STATE_DIR c) (b2n (decide (rpm < 0))) (setF (Reg.FAN_CH_SPEED_RPM c) (ofSigned 16 rpm) s)

/-- The state that follows the end of SENSE for a measured speed (R344). -/
def afterSense (rpm : Int) : Nat :=
  if 300 < rpm then FanSt.sync
  else if rpm < 60 ∧ -60 < rpm then FanSt.align
  else FanSt.brake

/-- The phase currents of a period (R339): a skipped phase is minus the sum of the other two, and with two skipped all three are the
observer's prediction. -/
def phaseCurrents (x : FocSample) : Int × (Int × Int) :=
  if 2 ≤ b2n x.skipA + b2n x.skipB + b2n x.skipC then (x.predA, x.predB, x.predC)
  else if x.skipA then (-(x.ib + x.ic), x.ib, x.ic)
  else if x.skipB then (x.ia, -(x.ia + x.ic), x.ic)
  else if x.skipC then (x.ia, x.ib, -(x.ia + x.ib))
  else (x.ia, x.ib, x.ic)

/-- The magnitude of three phase currents in the stationary frame, in 1/768 of their unit (log entry 94). -/
def currentMagnitude (a b c : Int) : Nat :=
  isqrt (65536 * ((2 * a - b - c).natAbs ^ 2 + 3 * (b - c).natAbs ^ 2))

/-- The current vector in the stationary frame: its two parts in the unit of the currents, 16 bits each (log entry 94). -/
def currentVector (a b c : Int) : Nat :=
  ofSigned 16 ((2 * a - b - c) / 3) + 65536 * ofSigned 16 (1000 * (b - c) / 1732)

/-- Channel states in which the gate drivers are on (R343). -/
def drivingStates : List Nat := [FanSt.sync, FanSt.brake, FanSt.align, FanSt.openRamp, FanSt.run]

/-- The observer of a channel after a period (R341): the residual is averaged over 8 periods and compared with RES_LIMIT times the larger
of the predicted magnitude and 0.5 A. -/
def observe (c : Nat) (x : FocSample) (s : State) : State :=
  let i := phaseCurrents x
  let d := currentMagnitude (i.1 - x.predA) (i.2.1 - x.predB) (i.2.2 - x.predC)
  let last := (d :: (s.fanChan c).residuals).take 8
  let scale := max (currentMagnitude x.predA x.predB x.predC) 38400
  onFanChan c (fun y => { y with
    residuals := last, aboveLimit := decide (s.get (Reg.FAN_CH_CFG2_RES_LIMIT c) * scale < 32 * last.sum),
    loadAngle := x.load % 65536, loadVec := currentVector i.1 i.2.1 i.2.2 }) s

/-- A channel's demand is raised to 40 % where it lies below; a change of 5 % of full speed or more runs the loop at once (R38). -/
def raiseDemand (c : Nat) (s : State) : State :=
  let old := s.get (Reg.FAN_CH_DEMAND_DEMAND c)
  when (decide (old + 50 ≤ 400)) loopAtOnce (setF (Reg.FAN_CH_DEMAND_DEMAND c) (max 400 old) s)

/-- A start command (R344): from SHADOW by the tracked speed, otherwise from SENSE. Demand is at least 40 % until the first
computation in RUN (R355). -/
def fanStart (c : Nat) (s : State) : State :=
  let st := if s.fanState c = FanSt.shadow then afterSense (s.fanRpm c) else FanSt.sense
  raiseDemand c (setF (Reg.FAN_CH_STATE_FAULT_CAUSE c) 0
    (setFanState c st (onFanChan c (fun x => { x with residuals := [], aboveLimit := false }) s)))

/-- A channel settles after RUN, ENABLE, the bus or the token changed (R343, R350, R351): FAULT stays; without RUN, ENABLE
or the bus it is OFF; with the token held a channel that does not drive starts; otherwise it shadows the partner, or senses
the coasting rotor while no module holds the token. -/
def fanSettle (c : Nat) (s : State) : State :=
  let st := s.fanState c
  if st = FanSt.fault then s
  else if !s.fanWants c then setFanState c FanSt.off s
  else if s.on Reg.FAN_TOKEN_HELD then
    (if st = FanSt.off ∨ st = FanSt.shadow then fanStart c (onFanChan c (fun x => { x with startFails := 0 }) s) else s)
  else if s.on Reg.FAN_TOKEN_PARTNER then setFanState c FanSt.shadow s
  else setFanState c FanSt.sense s

/-- Every channel settles. -/
def fanSettleAll (s : State) : State := forEach fanChannels fanSettle s

/-- The token is gained (R350, R351): channels that wait in SENSE or SHADOW go on from their measured speed, others settle. -/
def fanGain (s : State) : State :=
  let s1 := event Reg.FAN_EVENT_TOKEN_CHANGE Reg.FAN_TOKEN_CHANGE_CNT
    (setF Reg.FAN_TOKEN_PARTNER 0 (setF Reg.FAN_TOKEN_HELD 1 s))
  forEach fanChannels (fun c t =>
    if t.fanWants c && (t.fanState c == FanSt.sense || t.fanState c == FanSt.shadow) then
      raiseDemand c (setFanState c (afterSense (t.fanRpm c)) t)
    else fanSettle c t) s1

/-- The token is released (R350): every gate driver opens first, then the line. -/
def fanRelease (s : State) : State :=
  if s.on Reg.FAN_TOKEN_HELD then
    fanSettleAll (event Reg.FAN_EVENT_TOKEN_CHANGE Reg.FAN_TOKEN_CHANGE_CNT (setF Reg.FAN_TOKEN_HELD 0 s))
  else s

/-- Every channel with RUN set is in RUN or in FAULT (R499). -/
def State.fansCaught (s : State) : Bool :=
  fanChannels.all (fun c => !s.on (Reg.FAN_CH_CTRL_RUN c) || s.fanState c == FanSt.run || s.fanState c == FanSt.fault)

/-- The time from detection to caught fans is kept once in a takeover (R378). -/
def noteCaught (s : State) : State :=
  if s.mode = Mode.takeover ∧ s.fov.tFans = 0 ∧ s.fansCaught = true then
    { s with fov := { s.fov with tFans := (s.clock - s.fov.detectedAt) / 1000 } }
  else s

/-! Applied demand (R353) -/

/-- The demand a channel runs at, in 0.1 % (R353). -/
def State.fanApplied (s : State) (c : Nat) : Nat :=
  let demand := min 1000 (s.get (Reg.FAN_CH_DEMAND_DEMAND c))
  let base :=
    if s.on Reg.FAN_CTRL_FIXED_EN then min 1000 (s.get Reg.FAN_CFG_FIXED_PCT)
    else if s.on Reg.FAN_WDOG_EXPIRED then max demand (s.get Reg.FAN_CFG_FAILSAFE_PCT)
    else demand
  if s.fanState c != FanSt.fault && fanChannels.any (fun d => s.fanState d == FanSt.fault) then
    max base (s.get Reg.FAN_CFG_FAULT_FLOOR_PCT)
  else base

/-- A change of any fan's applied demand by 5 % of full speed or more runs the loop at once (R38, R355). -/
def demandMoved (before s : State) : State :=
  when (fanChannels.any (fun c => decide (50 ≤ s.fanApplied c - before.fanApplied c) || decide (50 ≤ before.fanApplied c - s.fanApplied c)))
    loopAtOnce s

/-! Faults (R349) -/

/-- A channel enters FAULT with a cause (R349): flags, counter, 0 W reported. After a second fault within 24 h the firmware
leaves it there, lights the FAULT LED and raises HIF_HOST_EVENT.FAULT. -/
def fanFault (c cause : Nat) (s : State) : State :=
  let recent := s.within (sec 86400) (s.fanChan c).faults
  let s1 := demandMoved s (noteCaught (setF (Reg.FAN_CH_STATE_FAULT_CAUSE c) cause (setFanState c FanSt.fault s)))
  let s2 := event Reg.FAN_EVENT_FAN_FAULT Reg.FAN_FAULT_CNT (setF (Reg.FAN_CH_POWER_P_REP_DW c) 0 s1)
  let s3 := onFanChan c (fun x => { x with faults := s.clock :: recent, lastFault := s.nowMs, startFails := 0 }) s2
  when (!recent.isEmpty) (fun t => hostEvent 1 (lightFault { t with fov := { t.fov with faults := addOnce t.fov.faults 7 } })) s3

/-- The state of channels in which a start step runs under a bound (R344). -/
def startingStates : List Nat := [FanSt.sense, FanSt.sync, FanSt.brake, FanSt.align, FanSt.openRamp]

/-- A start command is being carried out: a step of R344 runs with the drive permitted, or the next try is due. -/
def State.fanStarting (s : State) (c : Nat) : Bool :=
  s.fanDrive && (startingStates.contains (s.fanState c) || (s.fanState c == FanSt.coast && (s.fanChan c).startFails != 0))

/-- RUN is entered at a speed (R344): the attempt succeeded. -/
def enterRun (c : Nat) (rpm : Nat) (s : State) : State :=
  noteCaught (onFanChan c (fun x => { x with startFails := 0, refQ := 400 * rpm })
    (setF (Reg.FAN_CH_SPEED_REF c) rpm (setFanState c FanSt.run s)))

/-- FAN_STATUS.FAULT and FAN_STATUS.VOLT_LIMIT: one bit per channel. -/
def State.fanFaultBits (s : State) : Nat :=
  (fanChannels.map (fun c => if s.fanState c = FanSt.fault then 2 ^ c else 0)).sum
def State.fanLimitBits (s : State) : Nat := (fanChannels.map (fun c => s.get (Reg.FAN_CH_STATE_VOLT_LIMIT c) * 2 ^ c)).sum

/-- FAN_STATUS.FLOOR_ACTIVE: a floor raises some channel's demand. -/
def State.fanFloor (s : State) : Bool :=
  fanChannels.any (fun c => decide (min 1000 (s.get (Reg.FAN_CH_DEMAND_DEMAND c)) < s.fanApplied c)
    && !s.on Reg.FAN_CTRL_FIXED_EN)

/-- A demand is written (R353): the watchdog restarts and EXPIRED clears; a change of 5 % or more runs the loop (R38). -/
def writeDemand (c v : Nat) (s : State) : State :=
  let old := s.get (Reg.FAN_CH_DEMAND_DEMAND c)
  let s1 := setF Reg.FAN_WDOG_EXPIRED 0 (setF (Reg.FAN_CH_DEMAND_DEMAND c) v s)
  when (decide (50 ≤ v - old) || decide (50 ≤ old - v)) loopAtOnce s1

end Sys2Proof.Machine
end

