-- ==== Sys2Proof/Machine/Repair.lean ====
section
/-! DEFINITION. The repair record FIFO (R462) and the fault notices that other units raise through it. -/

namespace Sys2Proof.Machine

/-- A repair record is pushed, or lost and counted when 32 are held (R462). -/
def pushRecord (kind cls inst result detail : Nat) (s : State) : State :=
  if s.rpr.fifo.length < 32 then
    event Reg.RPR_EVENT_REC_READY Reg.RPR_REC_CNT
      { s with rpr := { s.rpr with fifo := s.rpr.fifo ++ [⟨kind, cls, inst, result, detail⟩] } }
  else event Reg.RPR_EVENT_REC_OVERFLOW Reg.RPR_REC_LOST_CNT s

/-- A fault for which the firmware gives up the role (R364) is pending (R32), and the host is told (R282). -/
def raiseFault (reason : Nat) (s : State) : State :=
  hostEvent 1 { s with fov := { s.fov with faults := addOnce s.fov.faults reason } }

/-- An island is retired (R12, R462). -/
def retireIsland (i : Island) (s : State) : State :=
  { s with sys := { s.sys with retired := if s.sys.retired.contains i then s.sys.retired else s.sys.retired ++ [i] } }

end Sys2Proof.Machine
end

