-- ==== Sys2Proof/Machine/FabOps.lean ====
section
/-! DEFINITION. Sending on the fabric: ports and their replay buffers (R383 to R386), routes (R385, R392), and what a node asks of the
bellwether (R397, R398). -/

namespace Sys2Proof.Machine

/-- This node's UID, and its address where it has one. -/
def State.ownUid (s : State) : Nat := s.get64 Reg.FAB_UID_LO_UID Reg.FAB_UID_HI_UID
def State.ownAddr? (s : State) : Option Nat := if s.on Reg.FAB_ADDR_VALID then some (s.get Reg.FAB_ADDR_ADDR) else none

/-- The address as messages carry it: 0xFFFF for none. -/
def State.addr16 (s : State) : Nat := s.ownAddr?.getD 0xFFFF

/-- A port, and a port changed. -/
def State.port (s : State) (p : Nat) : FabPort := Assoc.getD s.fab.ports p {}
def onPort (p : Nat) (f : FabPort → FabPort) (s : State) : State :=
  { s with fab := { s.fab with ports := Assoc.put s.fab.ports {} p (f (s.port p)) } }

/-- The port counts as up (R382). -/
def State.portUp (s : State) (p : Nat) : Bool := s.on (Reg.FAB_PORT_STATUS_LINK_UP p)

/-- Ports that are up. -/
def State.upPorts (s : State) : List Nat := [0, 1, 2, 3].filter s.portUp

/-- TYPE and CLASS of each kind of frame (R386). -/
def frameType : FabKind → Nat
  | .bleat => 0x01 | .linkCtl => 0x02 | .lsa => 0x03 | .addrReq => 0x04 | .addrAssign => 0x05 | .budget => 0x06
  | .tokenReq => 0x10 | .tokenGrant => 0x11 | .tokenReport => 0x12 | .tokenRelease => 0x13 | .leaseMove => 0x14
  | .copyDesc => 0x20 | .copyData => 0x21 | .copyAck => 0x22 | .peerRead => 0x23 | .peerData => 0x24
  | .deltaDesc => 0x30 | .deltaData => 0x31 | .deltaAck => 0x32 | .wakeReq => 0x33 | .group => 0x34
  | .other t => t
def frameClass (k : FabKind) : Nat :=
  let t := frameType k
  if t = 0x33 ∨ (0x10 ≤ t ∧ t < 0x20) then 1 else if 0x20 ≤ t ∧ t < 0x30 then 2 else if 0x30 ≤ t ∧ t < 0x33 then 3 else 0

/-- The kind of a TYPE. -/
def frameKind (t : Nat) : FabKind :=
  (([.bleat, .linkCtl, .lsa, .addrReq, .addrAssign, .budget, .tokenReq, .tokenGrant, .tokenReport, .tokenRelease, .leaseMove,
    .copyDesc, .copyData, .copyAck, .peerRead, .peerData, .deltaDesc, .deltaData, .deltaAck, .wakeReq, .group] : List FabKind).find?
      (fun k => frameType k == t)).getD (.other t)

/-- The 16 header bytes of a frame (R383); LEN counts the payload's bytes. -/
def frameHeader (f : Frame) : List Nat :=
  [frameType f.type % 256, b2n f.linkLocal + 2 * b2n f.flood + 4 * b2n f.ackValid] ++ leBytes 2 (f.dst % 4096 + 4096 * (f.cls % 4))
    ++ leBytes 2 (f.src % 4096) ++ leBytes 2 (f.payload.length % 8192) ++ leBytes 2 f.lseq ++ leBytes 2 f.lack ++ [f.hops % 256, 0]
    ++ leBytes 2 f.xseq

/-- A frame is discarded and counted (R385). -/
def dropFrame (s : State) : State := event Reg.FAB_EVENT_DROP Reg.FAB_DROP_CNT s

/-- A frame leaves through a port. -/
def sendOut (p : Nat) (f : Frame) (s : State) : State := bump (Reg.FAB_PORT_TX_CNT p) (emit (.fabric (some p) f) s)

/-- A frame through a port: with an LSEQ and into the replay buffer unless it is link-local; it waits while the buffer is full (R384). -/
def putOut (p : Nat) (f : Frame) (s : State) : State :=
  if f.linkLocal then sendOut p f s
  else
    let x := s.port p
    if 128 ≤ x.unacked.length ∨ x.waiting ≠ [] then onPort p (fun y => { y with waiting := y.waiting ++ [f] }) s
    else
      let f1 : Frame := { f with lseq := x.nextSeq, ackValid := true, lack := (x.expect + 65535) % 65536 }
      sendOut p f1 (onPort p (fun y => { y with nextSeq := (y.nextSeq + 1) % 65536, unacked := y.unacked ++ [f1] }) s)

/-- The frame that a port sends next of those that wait (R385): classes 0 and 1 first, 2 and 3 in turn. -/
def nextWaiting (x : FabPort) : Option Frame :=
  let of (c : Nat) : Option Frame := x.waiting.find? (fun f => f.cls == c)
  let share := if x.lastShare = 2 then (of 3).or (of 2) else (of 2).or (of 3)
  ((of 0).or (of 1)).or share

/-- Waiting frames go out while the replay buffer has room, at most `n` of them. -/
def pumpPort (p : Nat) : Nat → State → State
  | 0, s => s
  | n + 1, s =>
    let x := s.port p
    match nextWaiting x with
    | none => s
    | some f =>
      if 128 ≤ x.unacked.length then s
      else
        let rest := x.waiting.erase f
        let share := if 2 ≤ f.cls then f.cls else x.lastShare
        let s1 := putOut p f (onPort p (fun y => { y with waiting := [], lastShare := share }) s)
        pumpPort p n (onPort p (fun y => { y with waiting := rest }) s1)

/-- The port that a destination's frames take (R385, R392), and whether it is the alternate. -/
def State.hop (s : State) (a : Nat) : Option (Nat × Bool) :=
  let p := s.get (Reg.FAB_ROUTE_PRIMARY a)
  let alt := s.get (Reg.FAB_ROUTE_ALT a)
  if !s.on (Reg.FAB_ROUTE_VALID a) then none
  else if s.portUp p then some (p, false)
  else if s.on (Reg.FAB_ROUTE_ALT_VALID a) && s.portUp alt then some (alt, true)
  else none

/-- A frame takes its route, or is dropped. -/
def routeFrame (f : Frame) (s : State) : State :=
  match s.hop f.dst with
  | some (p, alt) => putOut p f (when alt (event Reg.FAB_EVENT_ALT_USED Reg.FAB_ALT_CNT) s)
  | none => dropFrame s

/-- A node is reachable. -/
def State.reach (s : State) (a : Nat) : Bool := s.ownAddr? == some a || (s.hop a).isSome

/-- The firmware sends a frame to a node; one to itself comes back to it. -/
def sendFrame (k : FabKind) (dst xseq : Nat) (payload : List Nat) (s : State) : State :=
  let f : Frame := { type := k, dst := dst, cls := frameClass k, src := s.addr16 % 4096, xseq := xseq % 65536, payload := payload }
  if !s.on Reg.FAB_CTRL_ENABLE then s
  else if s.ownAddr? = some dst then emit (.fabric none f) s
  else routeFrame f s

/-- The firmware floods a frame on every port that is up, but for the one it came from (R385). -/
def floodFrame (k : FabKind) (but : Option Nat) (payload : List Nat) (s : State) : State :=
  if !s.on Reg.FAB_CTRL_ENABLE then s
  else forEach (s.upPorts.filter (fun p => but != some p)) (fun p t =>
    putOut p { type := k, flood := true, cls := frameClass k, src := t.addr16 % 4096, payload := payload } t) s

/-- A frame for a neighbour only. -/
def sendLocal (p : Nat) (k : FabKind) (payload : List Nat) (s : State) : State :=
  putOut p { type := k, linkLocal := true, cls := frameClass k, src := s.addr16 % 4096, payload := payload } s

/-- A frame to the bellwether whose XSEQ a grant echoes (R398). -/
def askBellwether (k : FabKind) (payload : List Nat) (s : State) : State :=
  match s.fab.bellwether with
  | none => s
  | some b =>
    let x := s.fab.nextX % 65536
    let s1 := sendFrame k b x payload s
    { s1 with fab := { s1.fab with nextX := x + 1, sent := (x, s1.clock) :: s1.fab.sent.filter (fun e => decide (s1.clock ≤ e.2 + sec 60)) } }

/-- TOKEN_REQ (R397): WANT and MIN in tokens, and the class. -/
def askTokens (wantW minW cls : Nat) (s : State) : State := askBellwether .tokenReq [ceilDiv wantW 10, ceilDiv minW 10, cls] s

end Sys2Proof.Machine
end

