-- ==== Sys2Proof/Machine/Routes.lean ====
section
/-! DEFINITION. What a node tells of its links, the routes that it computes, and its ports in PARKED (R381, R387, R391, R392). -/

namespace Sys2Proof.Machine

/-! Payloads that the spec lays out -/

/-- The 48 bytes of a bleat (R387). -/
def bleatBytes (b : Bleat) : List Nat :=
  leBytes 8 b.uid ++ leBytes 2 b.addr ++ leBytes 2 b.pref ++ leBytes 8 b.rootUid
    ++ [b.rootDist % 256, b2n b.rootElig + 2 * b2n b.bwElig + 4 * b2n b.parked + 8 * b2n b.parent, b.bwPrio % 256, b.mode % 256]
    ++ leBytes 2 b.bwAddr ++ [b.port % 256, b.shelf % 64] ++ leBytes 8 b.partner ++ leBytes 4 b.lsaSeq ++ leBytes 4 b.budgetVer
    ++ [0, 0, 0, 0]

/-- The bytes of an LSA (R391). -/
def lsaBytes (uid addr seq : Nat) (links : List LsaLink) : List Nat :=
  leBytes 8 uid ++ leBytes 2 addr ++ [links.length % 256, 0] ++ leBytes 4 seq
    ++ links.flatMap (fun l => leBytes 2 l.addr ++ [l.port % 256, l.lanes % 256] ++ leBytes 2 l.cost ++ [0, 0])

/-! Nodes and routes (R391, R392) -/

/-- A node's record, made where there is none. -/
def onNode (uid : Nat) (f : FabNode → FabNode) (s : State) : State :=
  let ns := s.fab.nodes
  let ns1 := if ns.any (fun n => n.uid == uid) then ns.map (fun n => if n.uid = uid then f n else n)
    else ns ++ [f { uid := uid, addr := 0xFFFF }]
  { s with fab := { s.fab with nodes := ns1 } }

/-- Cost of a link (R391). -/
def linkCost (lanes : Nat) (slow : Bool) : Nat := if slow then 2000 else if lanes = 4 then 25 else if lanes = 2 then 50 else 100

/-- This node's own entries. -/
def State.ownLinks (s : State) : List LsaLink :=
  s.upPorts.map (fun p =>
    let lanes := s.get (Reg.FAB_PORT_STATUS_LANES p)
    ⟨s.get (Reg.FAB_PORT_STATUS_NEIGH_ADDR p), p, lanes, linkCost lanes (s.on (Reg.FAB_PORT_STATUS_SLOW p))⟩)

/-- Every node of the database with its links, this one first. -/
def State.allLinks (s : State) : List (Nat × List LsaLink) :=
  (s.addr16, s.ownLinks) :: (s.fab.nodes.filter (fun n => n.lsa.isSome)).map (fun n => (n.addr, n.links))

/-- A node's own view of its cheapest link to an address. -/
def viewCost (links : List LsaLink) (a : Nat) : Option Nat :=
  (links.filter (fun l => l.addr == a)).foldl (fun best l => match best with | none => some l.cost | some c => some (min c l.cost)) none

/-- Links that both ends advertise, at the higher of the two costs. -/
def edgesOf (all : List (Nat × List LsaLink)) : List (Nat × (Nat × Nat)) :=
  all.flatMap (fun x => x.2.filterMap (fun l =>
    match (all.find? (fun y => y.1 == l.addr)).bind (fun y => viewCost y.2 x.1) with
    | some c => some (x.1, l.addr, max l.cost c)
    | none => none))

/-- One round over all links. -/
def relax (edges : List (Nat × (Nat × Nat))) (d : List (Nat × Nat)) : List (Nat × Nat) :=
  edges.foldl (fun m e =>
    match Assoc.find m e.1 with
    | none => m
    | some x => match Assoc.find m e.2.1 with
      | some z => if x + e.2.2 < z then Assoc.set m e.2.1 (x + e.2.2) else m
      | none => Assoc.set m e.2.1 (x + e.2.2)) d

/-- Least costs from an address to every other, by address. -/
def distances (edges : List (Nat × (Nat × Nat))) (n src : Nat) : List (Nat × Nat) :=
  (List.range n).foldl (fun d _ => relax edges d) [(src, 0)]

/-- The least of some pairs of a cost and a port. -/
def leastPort (l : List (Nat × Nat)) : Option (Nat × Nat) :=
  l.foldl (fun best x => match best with | none => some x | some y => if x.1 < y.1 then some x else some y) none

/-- The route table is computed and written (R392). -/
def writeRoutes (s : State) : State :=
  let edges := edgesOf s.allLinks
  let n := s.fab.nodes.length + 1
  let own := s.addr16
  let dOwn := distances edges n own
  let hops := s.ownLinks.filterMap (fun l =>
    match (s.allLinks.find? (fun y => y.1 == l.addr)).bind (fun y => viewCost y.2 own) with
    | some c => some (l.port, max l.cost c, distances edges n l.addr)
    | none => none)
  forEach (s.fab.nodes.filter (fun x => x.addr != own && decide (x.addr < 4096))) (fun x t =>
    let a := x.addr
    let options := hops.filterMap (fun h => (Assoc.find h.2.2 a).map (fun d => (h.2.1 + d, h.1)))
    match leastPort options with
    | none => setF (Reg.FAB_ROUTE_VALID a) 0 t
    | some (cost, p) =>
      let free := hops.filterMap (fun h =>
        match Assoc.find h.2.2 a, Assoc.find h.2.2 own, Assoc.find dOwn a with
        | some d, some back, some mine => if h.1 != p && decide (d < back + mine) then some (h.2.1 + d, h.1) else none
        | _, _, _ => none)
      let t1 := setF (Reg.FAB_ROUTE_COST a) (min 65535 cost) (setF (Reg.FAB_ROUTE_PRIMARY a) p (setF (Reg.FAB_ROUTE_VALID a) 1 t))
      match leastPort free with
      | some (_, q) => setF (Reg.FAB_ROUTE_ALT a) q (setF (Reg.FAB_ROUTE_ALT_VALID a) 1 t1)
      | none => setF (Reg.FAB_ROUTE_ALT_VALID a) 0 t1) s

/-- This node floods its LSA (R391). -/
def floodLsa (s : State) : State :=
  let s1 : State := { s with fab := { s.fab with lsaSeq := s.fab.lsaSeq + 1 } }
  floodFrame .lsa none (lsaBytes s1.ownUid s1.addr16 s1.fab.lsaSeq s1.ownLinks) s1

/-! Ports in PARKED (R381) -/

/-- A port is kept while the node is PARKED. -/
def State.kept (s : State) (p : Nat) : Bool := bitOf (s.get Reg.FAB_CTRL_KEEP_PORTS) p == 1

/-- On entry to PARKED a kept port runs lane 0 at the parked rate, and any other port is off; what waits on it takes another route (R384). -/
def parkPort (p : Nat) (s : State) : State :=
  let x := s.port p
  if x.trained = 0 then s
  else if s.kept p then
    onPort p (fun y => { y with trained := 1 }) (when (s.portUp p)
      (fun t => setF (Reg.FAB_PORT_STATUS_SLOW p) 1 (setF (Reg.FAB_PORT_STATUS_LANES p) 1 t)) s)
  else
    let s1 := setF (Reg.FAB_PORT_STATUS_SLOW p) 0 (setF (Reg.FAB_PORT_STATUS_LANES p) 0 (setF (Reg.FAB_PORT_STATUS_LINK_UP p) 0
      (onPort p (fun y => { last := y.last, downs := y.downs }) s)))
    forEach ((x.unacked ++ x.waiting).filter (fun f => !f.flood)) routeFrame s1

/-- PARKED is entered: every port as R381 has it, and the node's new links are told (R391). -/
def parkPorts (s : State) : State :=
  if s.on Reg.FAB_CTRL_ENABLE && ([0, 1, 2, 3] : List Nat).any (fun p => (s.port p).trained != 0) then
    floodLsa (writeRoutes (forEach [0, 1, 2, 3] parkPort s))
  else s

end Sys2Proof.Machine
end

