-- ==== Sys2Proof/Machine/Geometry.lean ====
section
/-! DEFINITION. Stripe geometry (chapter 02): layouts, roles of members in a row, the address mapping, the erased set of an
array and its decodability. -/

namespace Sys2Proof.Machine

/-- The role of a member in a row; in L-GEN1 P is `par 0` and Q is `glob 0` (R47, R48). -/
inductive Role where
  | data (d : Nat)
  | par (g : Nat)
  | glob (i : Nat)
  deriving DecidableEq, Repr

/-- Bits of four registers as slot numbers. -/
def State.slotBits (s : State) (f : Nat → Field) : List Nat :=
  slotsOf (s.get (f 0)) 0 32 ++ slotsOf (s.get (f 1)) 32 32 ++ slotsOf (s.get (f 2)) 64 32 ++ slotsOf (s.get (f 3)) 96 12

/-- The shape that an array's registers give; NGROUP, DPG and NGLOBAL read as R41 fixes them in layouts 0 to 2. -/
def State.geo (s : State) (n : Nat) : Geo :=
  let l := s.get (Reg.STP_ARRAY_CFG_LAYOUT n)
  { layout := l
    shift := s.get (Reg.STP_ARRAY_CFG_UNIT_SHIFT n)
    groups := if l = 2 then 0 else if l = 3 then s.get (Reg.STP_ARRAY_CFG_NGROUP_M1 n) + 1 else 8
    dpg := if l = 0 then 12 else if l = 1 then 11 else s.get (Reg.STP_ARRAY_CFG_DPG_M1 n) + 1
    globals := if l = 2 then 0 else if l = 3 then s.get (Reg.STP_ARRAY_CFG_NGLOBAL n) else 4
    hdr := s.get (Reg.STP_ARRAY_HDR_HDR_MIB n) * 2 ^ 20
    rows := s.get (Reg.STP_ARRAY_ROWS_LO_ROWS n) + s.get (Reg.STP_ARRAY_ROWS_HI_ROWS n) * 2 ^ 32
    slots := s.slotBits (Reg.STP_ARRAY_SLOTMAP_SLOTS n) }

/-- Members of a local group, parity included. -/
def Geo.m (g : Geo) : Nat := g.dpg + 1

/-- Member count. -/
def Geo.members (g : Geo) : Nat := if g.layout = 2 then g.dpg + 2 else g.groups * g.m + g.globals

/-- Data members D. -/
def Geo.dataCount (g : Geo) : Nat := if g.layout = 2 then g.dpg else g.groups * g.dpg

/-- Bytes and 4 KiB blocks of a stripe unit. -/
def Geo.unit (g : Geo) : Nat := 2 ^ g.shift
def Geo.unitBlocks (g : Geo) : Nat := g.unit / 4096

/-- Row phases (R64). -/
def Geo.phases (g : Geo) : Nat := if g.layout = 2 then g.members else g.m
def Geo.phase (g : Geo) (row : Nat) : Nat := row % g.phases

/-- The role of a member index in a row (R46 to R48). -/
def Geo.role (g : Geo) (row i : Nat) : Role :=
  if g.layout = 2 then
    let n := g.members
    let p := n - 1 - row % n
    if i = p then .par 0 else if i = (p + 1) % n then .glob 0 else .data ((i + 2 * n - p - 2) % n)
  else if i < g.groups * g.m then
    let q := i % g.m
    let p := row % g.m
    if q = p then .par (i / g.m) else .data (g.dpg * (i / g.m) + (q + g.m - p - 1) % g.m)
  else .glob (i - g.groups * g.m)

/-- The member index that has a role in a row (R46 to R48). -/
def Geo.memberOf (g : Geo) (row : Nat) : Role → Nat
  | .data d =>
    if g.layout = 2 then (g.members - 1 - row % g.members + 2 + d) % g.members
    else g.m * (d / g.dpg) + (row % g.m + 1 + d % g.dpg) % g.m
  | .par k => if g.layout = 2 then g.members - 1 - row % g.members else g.m * k + row % g.m
  | .glob i => if g.layout = 2 then (g.members - 1 - row % g.members + 1) % g.members else g.groups * g.m + i

/-- The local group of a data index: 0 for L-GEN1. -/
def Geo.groupOf (g : Geo) (d : Nat) : Nat := if g.layout = 2 then 0 else d / g.dpg

/-- The group of a member index, if it lies in one: every data member and P in L-GEN1. -/
def Geo.memberGroup (g : Geo) (row i : Nat) : Option Nat :=
  match g.role row i with
  | .data d => some (g.groupOf d)
  | .par k => some k
  | .glob _ => none

/-- The number of global parities, 1 for the Q of L-GEN1 (R61). -/
def Geo.globalCount (g : Geo) : Nat := if g.layout = 2 then 1 else g.globals

/-- The slot of a member index and the member index of a slot (R45). -/
def Geo.slotOf (g : Geo) (i : Nat) : Nat := g.slots.getD i 0
def Geo.indexOf (g : Geo) (slot : Nat) : Nat := g.slots.idxOf slot

/-- Coefficient of data index d in global parity i (R59, R60). -/
def Geo.coef (g : Geo) (i d : Nat) : Nat :=
  if g.layout = 2 then gf8Pow 2 d else gf16Pow 2 ((d + 1) * 2 ^ i % 65535)

/-- Coefficient of data index d in the parity of a role: 1 in its own group's local parity. -/
def Geo.roleCoef (g : Geo) (r : Role) (d : Nat) : Nat :=
  match r with
  | .par k => if g.groupOf d = k then 1 else 0
  | .glob i => g.coef i d
  | .data _ => 0

/-- Member byte offset of block b of a row's unit, in 4 KiB blocks (R51). -/
def Geo.memberLba (g : Geo) (row b : Nat) : Nat := (g.hdr + row * g.unit) / 4096 + b

/-! Decodability (R61 to R65) -/

/-- The reduced coefficients of a group's unknowns in a phase, for some erased members (R62). -/
def Geo.unknowns (g : Geo) (phase : Nat) (erased : List Nat) (k : Nat) : List Nat :=
  let datas := erased.filterMap (fun i => match g.role phase i with
    | .data d => if g.groupOf d = k then some d else none
    | _ => none)
  let beta (d : Nat) : Nat := gf16Pow 2 (d + 1)
  if erased.contains (g.memberOf phase (.par k)) then datas.map beta
  else
    let r := datas.foldl max 0
    (datas.filter (fun d => d != r)).map (fun d => Nat.xor (beta d) (beta r))

/-- Local groups of the decodability rules: one for L-GEN1 (R61). -/
def Geo.evalGroups (g : Geo) : List Nat := if g.layout = 2 then [0] else List.range g.groups

/-- Total deficit u in a phase (R61). -/
def Geo.deficit (g : Geo) (phase : Nat) (erased : List Nat) : Nat :=
  (g.evalGroups.map (fun k => (g.unknowns phase erased k).length)).sum

/-- Surviving global parities in a phase. -/
def Geo.survivingGlobals (g : Geo) (phase : Nat) (erased : List Nat) : List Nat :=
  (List.range g.globalCount).filter (fun i => !erased.contains (g.memberOf phase (.glob i)))

/-- A row phase is decodable (R62, R65). -/
def Geo.decodable (g : Geo) (phase : Nat) (erased : List Nat) : Bool :=
  if g.layout = 2 then decide (erased.length ≤ 2)
  else
    let us := g.evalGroups.flatMap (g.unknowns phase erased)
    let hs := g.survivingGlobals phase erased
    decide (us.length ≤ hs.length) &&
      gfRank hs.length (us.map (fun x => hs.map (fun i => gf16Pow x (2 ^ i)))) == us.length

/-- Bits of PHASE_FAIL (R64, R68). -/
def Geo.phaseFail (g : Geo) (erased : List Nat) : Nat :=
  if g.layout = 2 then (if 2 < erased.length then 0x1FFF else 0)
  else ((List.range (min g.m 13)).map (fun p => if g.decodable p erased then 0 else 2 ^ p)).sum

/-- MAX_DEFICIT, saturating at 15. -/
def Geo.maxDeficit (g : Geo) (erased : List Nat) : Nat :=
  min 15 (((List.range g.phases).map (fun p => g.deficit p erased)).foldl max 0)

/-- Every set of t of the listed members. -/
def choose : Nat → List Nat → List (List Nat)
  | 0, _ => [[]]
  | _ + 1, [] => []
  | t + 1, x :: l => (choose t l).map (fun c => x :: c) ++ choose (t + 1) l

/-- TOL of R67: 5 in layouts 0 and 1, 2 in L-GEN1, and by exhaustive evaluation in a custom layout. -/
def Geo.tol (g : Geo) : Nat :=
  if g.layout = 2 then 2 else if g.layout < 2 then 5
  else
    let ok (t : Nat) : Bool := (choose t (List.range g.members)).all (fun e =>
      (List.range g.phases).all (fun p => g.decodable p e))
    ((List.range (min (g.globals + 1) 5)).takeWhile (fun t => ok (t + 1))).length

/-! The registers' view -/

/-- Arrays that are valid. -/
def State.validArrays (s : State) : List Nat := [0, 1, 2, 3].filter (fun n => s.on (Reg.STP_ARRAY_CFG_VALID n))

/-- Erased slots of an array: bits of slots outside its SLOTMAP are ignored (R73). -/
def State.erasedSlots (s : State) (n : Nat) : List Nat :=
  let sl := (s.geo n).slots
  (s.slotBits (Reg.STP_ARRAY_ERASED_SLOTS n)).filter (fun x => sl.contains x)

/-- Erased members, by index. -/
def State.erasedMembers (s : State) (n : Nat) : List Nat := (s.erasedSlots n).map (s.geo n).indexOf

/-- The physical slot that serves a logical slot: the first valid substitution that names it (R140). -/
def State.physOf (s : State) (slot : Nat) : Nat :=
  match (List.range 8).find? (fun k => s.on (Reg.SAS_SUB_VALID k) && s.get (Reg.SAS_SUB_LOGICAL k) == slot) with
  | some k => s.get (Reg.SAS_SUB_PHYSICAL k)
  | none => slot

/-- The logical slot that a physical slot serves: its own, one whose substitution names it, or none, 108, where another slot serves its own. -/
def State.logicalOf (s : State) (phys : Nat) : Nat :=
  match (List.range 108).find? (fun l => s.physOf l == phys && l != phys) with
  | some l => l
  | none => if s.physOf phys = phys then phys else 108

/-- The frontier and its window of SAS_RBDk. -/
def State.front (s : State) (k : Nat) : Nat := s.get64 (Reg.SAS_RBD_FRONT_LO_FRONT k) (Reg.SAS_RBD_FRONT_HI_FRONT k)
def State.win (s : State) (k : Nat) : Nat := s.get64 (Reg.SAS_RBD_WIN_LO_WIN k) (Reg.SAS_RBD_WIN_HI_WIN k)

/-- The enabled frontier that names a slot of an array in a mode: 0 REBUILD, 1 COPY. -/
def State.frontierOf (s : State) (mode n slot : Nat) : Option Nat :=
  (List.range 8).find? (fun k => s.on (Reg.SAS_RBD_CFG_ENABLE k) && s.get (Reg.SAS_RBD_CFG_MODE k) == mode
    && s.get (Reg.SAS_RBD_CFG_ARRAY k) == n && s.get (Reg.SAS_RBD_CFG_SLOT k) == slot)

/-- Row n lies behind frontier k or in its window (R163). -/
def State.behind (s : State) (k row : Nat) : Bool :=
  let f := s.front k
  decide (row < f) || (decide (row - f < 64) && bitOf (s.win k) (row - f) == 1)

/-- A logical slot is live for a row: not erased, or behind its rebuild frontier (R163). -/
def State.liveFor (s : State) (n row slot : Nat) : Bool :=
  match s.frontierOf 0 n slot with
  | some k => s.behind k row
  | none => !(s.erasedSlots n).contains slot

/-- The member indices treated as erased in a row (R163). -/
def State.erasedIn (s : State) (n row : Nat) : List Nat :=
  (List.range (s.geo n).members).filter (fun i => !s.liveFor n row ((s.geo n).slotOf i))

/-- The drive in a physical slot is ready (R142). -/
def State.awake (s : State) (phys : Nat) : Bool := s.on (Reg.SAS_SLOT_CTRL_AWAKE phys)

/-! Volumes -/

def State.volValid (s : State) (v : Nat) : Bool := s.on (Reg.STP_VOL_CFG_VALID v)
def State.volArray (s : State) (v : Nat) : Nat := s.get (Reg.STP_VOL_CFG_ARRAY v)
def State.volBase (s : State) (v : Nat) : Nat := s.get64 (Reg.STP_VOL_BASE_LO_BASE v) (Reg.STP_VOL_BASE_HI_BASE v)
def State.volRows (s : State) (v : Nat) : Nat := s.get64 (Reg.STP_VOL_ROWS_LO_ROWS v) (Reg.STP_VOL_ROWS_HI_ROWS v)

/-- Every volume number. -/
def allVols : List Nat := List.range 64

/-- Capacity of a volume in 4 KiB blocks (R50). -/
def State.volBlocks (s : State) (v : Nat) : Nat :=
  let g := s.geo (s.volArray v)
  s.volRows v * g.dataCount * g.unitBlocks

/-- Where a block of a volume lies: row, data index and block within the unit (R51, R52). -/
def State.locate (s : State) (v lba : Nat) : Nat × (Nat × Nat) :=
  let g := s.geo (s.volArray v)
  let full := g.dataCount * g.unitBlocks
  let a := s.volBase v * full + lba
  (a / full, (a % full / g.unitBlocks, a % g.unitBlocks))

/-- The block of a volume at a row, data index and block within the unit: the inverse of `locate`. -/
def State.lbaAt (s : State) (v row d b : Nat) : Nat :=
  let g := s.geo (s.volArray v)
  ((row - s.volBase v) * g.dataCount + d) * g.unitBlocks + b

/-- The valid volume that holds a row of an array. -/
def State.volAt (s : State) (n row : Nat) : Option Nat :=
  allVols.find? (fun v => s.volValid v && s.volArray v == n && decide (s.volBase v ≤ row)
    && decide (row < s.volBase v + s.volRows v))

/-- The key of a stripe row. -/
def rowKey (n row : Nat) : Nat := n + 4 * row

/-- What the firmware keeps of an array. -/
def State.care (s : State) (n : Nat) : ArrayCare := Assoc.getD s.sas.arrays n {}

/-- What the firmware keeps of an array, changed. -/
def onCare (n : Nat) (f : ArrayCare → ArrayCare) (s : State) : State :=
  { s with sas := { s.sas with arrays := Assoc.set s.sas.arrays n (f (s.care n)) } }

/-- One of the twelve counts of R180 grows. -/
def stat (n i by' : Nat) (s : State) : State :=
  onCare n (fun c => { c with stats := Assoc.set c.stats i (Assoc.getD c.stats i 0 + by') }) s

/-- The array's metadata as the firmware holds it. -/
def State.arrayMeta (s : State) (n : Nat) : ArrayMeta := Assoc.getD s.cmd.arrays n {}
def onArrayMeta (n : Nat) (f : ArrayMeta → ArrayMeta) (s : State) : State :=
  { s with cmd := { s.cmd with arrays := Assoc.set s.cmd.arrays n (f (s.arrayMeta n)) } }
def State.volMeta (s : State) (v : Nat) : VolMeta := Assoc.getD s.cmd.vols v {}
def onVolMeta (v : Nat) (f : VolMeta → VolMeta) (s : State) : State :=
  { s with cmd := { s.cmd with vols := Assoc.set s.cmd.vols v (f (s.volMeta v)) } }

/-! Member headers (R53) -/

/-- A member is being rebuilt, or waits for a frontier to be rebuilt (R163, R248). -/
def State.rebuildsSlot (s : State) (n slot : Nat) : Bool := (s.frontierOf 0 n slot).isSome || s.cmd.rebuildQueue.contains (n, slot)

/-- The member header of a logical slot of an array, as a block: format 1 in L-GEN1. -/
def State.headerBlock (s : State) (n slot : Nat) : Block :=
  let g := s.geo n
  let a := s.arrayMeta n
  let gen1 := g.layout == 2
  let flags := b2n (!(s.erasedSlots n).isEmpty) + 2 * b2n (s.rebuildsSlot n slot) + 4 * b2n gen1
  let magic := [77, 88, 90, 77, 69, 77, 66, if gen1 then 49 else 50]
  let body := magic ++ leBytes 2 (if gen1 then 1 else 2) ++ leBytes 2 (g.hdr / 2 ^ 20) ++ leBytes 4 flags ++ leBytes 16 a.uuid
    ++ leBytes 8 a.generation ++ leBytes 2 (g.indexOf slot) ++ [g.layout, g.shift, g.groups, g.dpg, g.globals, 0]
    ++ leBytes 8 g.rows ++ leBytes 8 a.created
    ++ (List.range 108).flatMap (fun i => leBytes 8 (if i < g.members then Config.wwn (s.physOf (g.slotOf i)) else 0))
    ++ List.replicate 3164 0
  leNat (body ++ leBytes 4 (crc32c body))

/-- The metadata that the header areas of an array's members hold. -/
def State.headerRecord (s : State) (n : Nat) : HeaderRecord :=
  let c := s.care n
  { index := n
    slots := (s.geo n).slots
    slotGen := (s.arrayMeta n).slotGen
    vols := allVols.filterMap (fun v =>
      let m := s.volMeta v
      if m.bound && m.array == n then some ⟨v, m.uuid, m.base, m.rows, m.formatting⟩ else none)
    lost := c.lost
    graze := c.next
    rebuilds := (List.range 8).filterMap (fun k =>
      if s.on (Reg.SAS_RBD_CFG_ENABLE k) && s.get (Reg.SAS_RBD_CFG_ARRAY k) == n && !s.on (Reg.SAS_RBD_CFG_MODE k) then
        some (s.get (Reg.SAS_RBD_CFG_SLOT k), Assoc.getD s.sas.checkpoints k 0) else none) }

/-- The metadata of an array is written to some of its members' drives that are awake; one that sleeps gets it once it is ready (log
entry 123). -/
def writeRecords (n : Nat) (slots : List Nat) (s : State) : State :=
  forEach ((slots.map s.physOf).filter (fun p => s.awake p)) (fun p t => emit (.headerRecord p (t.headerRecord n)) t) s

/-- Both copies of a header area's first block are written to a drive: at byte 0 and at H / 2. -/
def writeHeader (phys hdr : Nat) (b : Block) (s : State) : State :=
  emit (.drive phys .writeHeader (hdr / 8192) 1 [b]) (emit (.drive phys .writeHeader 0 1 [b]) s)

/-- A member has its header rewritten (R53): its drive is present, and it is not erased or is being rebuilt. An erased member keeps its old,
lower GENERATION (R55). -/
def State.takesHeader (s : State) (n slot : Nat) : Bool :=
  s.on (Reg.SLT_STATUS_PRESENT (s.physOf slot)) && (!(s.erasedSlots n).contains slot || s.rebuildsSlot n slot)

/-- The GENERATION of an array rises by one, and its members' headers are written anew (R53). -/
def raiseGeneration (n : Nat) (s : State) : State :=
  let s1 := onArrayMeta n (fun a => { a with generation := a.generation + 1 }) s
  forEach ((s1.geo n).slots.filter (s1.takesHeader n)) (fun x t => writeHeader (t.physOf x) (t.geo n).hdr (t.headerBlock n x) t) s1

/-- A new drive serves a member: the GENERATION rises (R53), and the drive gets its header before any row is rebuilt (R162). -/
def newDrive (n slot phys : Nat) (s : State) : State :=
  let s1 := raiseGeneration n s
  let s2 := onArrayMeta n (fun a => { a with slotGen := Assoc.set a.slotGen slot a.generation }) s1
  writeHeader phys (s2.geo n).hdr (s2.headerBlock n slot) s2

/-- State of an array (R159): 0 OPTIMAL, 1 DEGRADED, 2 CRITICAL, 3 PARTIAL, 4 OFFLINE. -/
def State.arrayState (s : State) (n : Nat) : Nat :=
  let g := s.geo n
  let e := s.erasedMembers n
  let fails := ((List.range g.phases).filter (fun p => !g.decodable p e)).length
  if !s.on (Reg.STP_ARRAY_CFG_VALID n) then 4
  else if e.isEmpty then 0
  else if fails = g.phases then 4
  else if 0 < fails then 3
  else if s.get (Reg.STP_ARRAY_CFG_TOL n) ≤ e.length then 2 else 1

end Sys2Proof.Machine
end

