-- ==== Sys2Proof/Machine/Stp.lean ====
section
/-! DEFINITION. The STP block's commands (chapter 02): array and volume validation, translation, evaluation. -/

namespace Sys2Proof.Machine

/-- Slots of an array: its members, and the spares of an L-100+8S array (R40). -/
def Geo.allSlots (g : Geo) : List Nat := if g.layout = 1 then g.slots ++ [100, 101, 102, 103, 104, 105, 106, 107] else g.slots

/-- A slot belongs to a valid array other than one. -/
def State.slotsTaken (s : State) (but : Option Nat) (x : Nat) : Bool :=
  s.validArrays.any (fun k => some k != but && (s.geo k).allSlots.contains x)

/-- Every check of R71 on an array's registers. -/
def State.arrayOk (s : State) (n : Nat) : Bool :=
  let g := s.geo n
  let shape :=
    if g.layout = 2 then decide (4 ≤ g.members) && decide (g.members ≤ 72)
    else if g.layout = 3 then decide (2 ≤ g.dpg) && decide (g.dpg ≤ 12) && decide (g.globals ≤ 8) && decide (g.members ≤ 108)
    else true
  let hdr := s.get (Reg.STP_ARRAY_HDR_HDR_MIB n)
  shape && decide (14 ≤ g.shift) && decide (g.shift ≤ 20)
    && (s.on (Reg.STP_ARRAY_CFG_GEN1 n) == (g.layout == 2))
    && g.slots.length == g.members && !(g.allSlots.any (s.slotsTaken (some n)))
    && g.rows != 0 && hdr != 0 && hdr % 2 == 0
    && (!s.on Reg.SYS_STRAP_COMPAT || g.layout == 2)

/-- Some volume of the array is valid. -/
def State.hasVolume (s : State) (n : Nat) : Bool := allVols.any (fun v => s.volValid v && s.volArray v == n)

/-- VALID of an array written (R71). -/
def writeArrayValid (n : Nat) (v : Bool) (s : State) : State :=
  if v then
    (if s.arrayOk n then setF (Reg.STP_ARRAY_CFG_CFG_ERR n) 0 (setF (Reg.STP_ARRAY_CFG_VALID n) 1 s)
     else setF (Reg.STP_ARRAY_CFG_CFG_ERR n) 1 (setF (Reg.STP_ARRAY_CFG_VALID n) 0 s))
  else if s.hasVolume n then setF (Reg.STP_ARRAY_CFG_CFG_ERR n) 1 s
  else setF (Reg.STP_ARRAY_CFG_CFG_ERR n) 0 (setF (Reg.STP_ARRAY_CFG_VALID n) 0 s)

/-- Every check of R72 on a volume's registers. -/
def State.volumeOk (s : State) (v : Nat) : Bool :=
  let n := s.volArray v
  let b := s.volBase v
  let e := b + s.volRows v
  s.on (Reg.STP_ARRAY_CFG_VALID n) && decide (e ≤ (s.geo n).rows) && s.volRows v != 0
    && allVols.all (fun w => w == v || !s.volValid w || s.volArray w != n
      || decide (e ≤ s.volBase w) || decide (s.volBase w + s.volRows w ≤ b))

/-- VALID of a volume written (R72). -/
def writeVolumeValid (v : Nat) (valid : Bool) (s : State) : State :=
  if !valid then setF (Reg.STP_VOL_CFG_RANGE_ERR v) 0 (setF (Reg.STP_VOL_CFG_VALID v) 0 s)
  else if s.volumeOk v then setF (Reg.STP_VOL_CFG_RANGE_ERR v) 0 (setF (Reg.STP_VOL_CFG_VALID v) 1 s)
  else setF (Reg.STP_VOL_CFG_RANGE_ERR v) 1 (setF (Reg.STP_VOL_CFG_VALID v) 0 s)

/-- The firmware writes RWL fields: while STP_CTRL.LOCK is 1 it clears the bit for that time (R70; log entry 125). -/
def unlocked (f : State → State) (s : State) : State := setF Reg.STP_CTRL_LOCK (s.get Reg.STP_CTRL_LOCK) (f (setF Reg.STP_CTRL_LOCK 0 s))

/-- Bits of the ERASED registers of an array written by the firmware; an evaluation under way turns stale (R68). -/
def writeErased (n slot : Nat) (v : Bool) (s : State) : State :=
  let f := Reg.STP_ARRAY_ERASED_SLOTS n (slot / 32)
  when (s.on (Reg.STP_ARRAY_EVAL_BUSY n)) (setF (Reg.STP_ARRAY_EVAL_STALE n) 1)
    (setF f (setBit (s.get f) (slot % 32) v) s)

/-- An evaluation starts on the erased set as it stands; a START while one runs is ignored (R68). -/
def startEval (n : Nat) (s : State) : State :=
  if s.on (Reg.STP_ARRAY_EVAL_BUSY n) then s
  else
  let s1 := setF (Reg.STP_ARRAY_EVAL_STALE n) 0 (setF (Reg.STP_ARRAY_EVAL_BUSY n) 1 (setF (Reg.STP_ARRAY_EVAL_START n) 1 s))
  { s1 with stp := { s1.stp with evals := Assoc.set s1.stp.evals n (s.erasedMembers n) } }

/-- ARRAY_VALID_WRITE (R71). -/
def execArrayValidWrite (n : Fin 4) (valid : Bool) (s : State) : Result :=
  land (0x30100 + 0x40 * n.val) (.arrayValidWrite n valid) (writeArrayValid n.val valid) s

/-- VOLUME_VALID_WRITE (R72). -/
def execVolumeValidWrite (v : Fin 64) (valid : Bool) (s : State) : Result :=
  land (0x31000 + 0x20 * v.val) (.volumeValidWrite v valid) (writeVolumeValid v.val valid) s

/-- XLATE_GO (R51): a GO while BUSY is ignored and counted. -/
def execXlateGo (vol : Fin 64) (s : State) : Result :=
  land 0x30010 (.xlateGo vol) (fun s =>
    if s.on Reg.STP_XLATE_CTRL_BUSY then ignored 6 0 s
    else
      let s1 := setF Reg.STP_XLATE_CTRL_BUSY 1 (setF Reg.STP_XLATE_CTRL_GO 1 (setF Reg.STP_XLATE_CTRL_VOL vol.val s))
      let s2 := setF Reg.STP_XLATE_RES_DONE 0 s1
      { s2 with stp := { s2.stp with xlateOff := s.get64 Reg.STP_XLATE_OFF_LO_OFF Reg.STP_XLATE_OFF_HI_OFF } }) s

/-- The result fields of a translation. -/
def setXlate (slot par d grp oor nov moff : Nat) (s : State) : State :=
  let s1 := setF Reg.STP_XLATE_RES_GROUP grp (setF Reg.STP_XLATE_RES_DATA_IDX d (setF Reg.STP_XLATE_RES_PAR_SLOT par
    (setF Reg.STP_XLATE_RES_SLOT slot s)))
  let s2 := setF Reg.STP_XLATE_RES_DONE 1 (setF Reg.STP_XLATE_RES_NO_VOLUME nov (setF Reg.STP_XLATE_RES_OUT_OF_RANGE oor s1))
  set64 Reg.STP_XLATE_MOFF_LO_MOFF Reg.STP_XLATE_MOFF_HI_MOFF moff s2

/-- XLATE_DONE (R51): the result lands, GO and BUSY clear. Where the volume is not valid or the offset lies outside it, the
spec states none of the other fields: they take free values (log entry 4). -/
def execXlateDone (s : State) : Result :=
  if s.on Reg.STP_XLATE_CTRL_BUSY then
    let v := s.get Reg.STP_XLATE_CTRL_VOL
    let n := s.volArray v
    let g := s.geo n
    let x := s.stp.xlateOff
    let s1 := setF Reg.STP_XLATE_CTRL_BUSY 0 (setF Reg.STP_XLATE_CTRL_GO 0 s)
    if !s.volValid v then
      .next (useFrees 6 (setXlate (s.freeAt 0 7) (s.freeAt 1 7) (s.freeAt 2 7) (s.freeAt 3 4) (s.freeAt 4 1) 1 (s.freeAt 5 64) s1))
    else if s.volBlocks v * 4096 ≤ x then
      .next (useFrees 5 (setXlate (s.freeAt 0 7) (s.freeAt 1 7) (s.freeAt 2 7) (s.freeAt 3 4) 1 0 (s.freeAt 4 64) s1))
    else
      let at' := s.locate v (x / 4096)
      let row := at'.1
      let d := at'.2.1
      .next (setXlate (g.slotOf (g.memberOf row (.data d))) (g.slotOf (g.memberOf row (.par (g.groupOf d)))) d (g.groupOf d) 0 0
        (g.memberLba row at'.2.2 * 4096 + x % 4096) s1)
  else .next s

/-- EVAL_START (R68): a START while BUSY is ignored and counted. -/
def execEvalStart (n : Fin 4) (s : State) : Result :=
  land (0x30130 + 0x40 * n.val) (.evalStart n) (fun s =>
    if s.on (Reg.STP_ARRAY_EVAL_BUSY n.val) then ignored 6 0 s else startEval n.val s) s

end Sys2Proof.Machine
end

