-- ==== Sys2Proof/Machine/Slots.lean ====
section
/-! DEFINITION. Slot power (R297 to R305, R498), the spin allowance (R35, R36), wakes of single drives (R151) and members
that are marked erased (R147, R170). -/

namespace Sys2Proof.Machine

/-! Counts and power (R304) -/

/-- A rail of the slot is on. -/
def State.slotOn (s : State) (n : Nat) : Bool := s.on (Reg.SLT_STATUS_ON12 n) || s.on (Reg.SLT_STATUS_ON5 n)

/-- Slots powered and slots surging. -/
def State.nOn (s : State) : Nat := (allSlots.filter s.slotOn).length
def State.nSurge (s : State) : Nat := (allSlots.filter (fun n => s.on (Reg.SLT_STATUS_SURGING n))).length

/-- Committed power P_c in 0.1 W. -/
def State.committedDw (s : State) : Int :=
  let drive : Int := (s.get Reg.PWR_SPIN_P_DRIVE_DW : Int)
  let surge : Int := (s.get Reg.PWR_SPIN_P_SURGE_DW : Int)
  (s.get Reg.PWR_DRAW_P_MOD_DW + s.get Reg.PWR_FAN_W_P_FAN_DW + 10 * s.get Reg.PWR_BUDGET_MARGIN_W : Nat)
    + (s.nOn : Int) * drive + (s.nSurge : Int) * (surge - drive)

/-- The budget B in 0.1 W (R34). -/
def State.budgetDw (s : State) : Nat := 10 * min (s.get Reg.PWR_BUDGET_GRANT_W) (s.get Reg.PWR_CAP_CAP_W)

/-- The spin allowance (R35); 0 where the budget does not cover the module, its fans and the margin. -/
def State.spinAllowance (s : State) : Nat :=
  (s.budgetDw - (s.get Reg.PWR_DRAW_P_MOD_DW + s.get Reg.PWR_FAN_W_P_FAN_DW + 10 * s.get Reg.PWR_BUDGET_MARGIN_W))
    / s.get Reg.PWR_SPIN_P_DRIVE_DW

/-- HEADROOM_W: B less P_c, from 0 to 2,047. -/
def State.headroom (s : State) : Nat := min 2047 (((s.budgetDw : Int) - s.committedDw).toNat / 10)

/-! Rails -/

/-- EN12, EN5, SPIN and AWAKE of every slot as four numbers: the body of SLOT_STATE (R366). An enable counts once its rail is closed and until it
is cleared or shed, for the partner's switch closes after this module's and opens before it (R294, R302; log entry 127). -/
def State.slotState (s : State) : List Nat :=
  let bitsOf (f : Nat → Nat) : Nat := (allSlots.map (fun n => f n * 2 ^ n)).sum
  [bitsOf (fun n => s.get (Reg.SLT_CTRL_EN12 n) * s.get (Reg.SLT_STATUS_ON12 n)),
   bitsOf (fun n => s.get (Reg.SLT_CTRL_EN5 n) * s.get (Reg.SLT_STATUS_ON5 n)),
   bitsOf (fun n => s.get (Reg.SLT_CTRL_SPIN n)), bitsOf (fun n => s.get (Reg.SAS_SLOT_CTRL_AWAKE n))]

/-- The active sends its slot state to a live partner or one in PARKED or STANDBY (R366). -/
def sendSlotState (s : State) : State := if s.active then sendMir .slotState s.slotState s else s

/-- A drive that lacks a rail while the partner does not feed its slot is no longer spun up: AWAKE clears (R142; log entry 50). -/
def dropAwake (n : Nat) (s : State) : State :=
  when (!(s.on (Reg.SLT_STATUS_ON12 n) && s.on (Reg.SLT_STATUS_ON5 n)) && !s.on (Reg.SLT_STATUS_PARTNER_ON n))
    (setF (Reg.SAS_SLOT_CTRL_AWAKE n) 0) s

/-- Rails opened: bit 0 of `rails` is 12 V, bit 1 is 5 V. With the 12 V rail the surge ends. -/
def openRails (n rails : Nat) (s : State) : State :=
  let s1 := when (bitOf rails 0 == 1) (fun t => setF (Reg.SLT_STATUS_SURGING n) 0 (setF (Reg.SLT_STATUS_ON12 n) 0 t)) s
  let s2 := when (bitOf rails 1 == 1) (setF (Reg.SLT_STATUS_ON5 n) 0) s1
  onSlot n (fun r => { r with offWait := 0 }) (dropAwake n s2)

/-- A slot is powered off (R302): with a live partner the active sends the new state and waits for its report; otherwise the
rails open at once. -/
def powerOff (n rails : Nat) (s : State) : State :=
  if s.active && s.partnerLive && s.slotOn n then
    onSlot n (fun r => { r with offWait := r.offWait ||| rails }) (sendSlotState s)
  else openRails n rails s

/-- Enable bits written (R298, R305): a bit set anew joins the order of gate 1; one cleared opens its rail under R302 and
releases a trip. -/
def writeEnables (n : Nat) (en12 en5 : Bool) (s : State) : State :=
  let old12 := s.on (Reg.SLT_CTRL_EN12 n)
  let old5 := s.on (Reg.SLT_CTRL_EN5 n)
  let s1 := setF (Reg.SLT_CTRL_EN5 n) (b2n en5) (setF (Reg.SLT_CTRL_EN12 n) (b2n en12) s)
  let cleared := b2n (old12 && !en12) + 2 * b2n (old5 && !en5)
  let r := s.slot n
  let held := r.tripHeld - (if bitOf cleared 0 = 1 ∧ bitOf r.tripHeld 0 = 1 then 1 else 0)
    - (if bitOf cleared 1 = 1 ∧ bitOf r.tripHeld 1 = 1 then 2 else 0)
  let order := if !en12 && !en5 then none
    else if (en12 && !old12) || (en5 && !old5) then some (r.order1.getD s.pwr.nextOrder) else r.order1
  let s2 := onSlot n (fun x => { x with tripHeld := held, order1 := order }) s1
  let s3 : State := { s2 with pwr := { s2.pwr with nextOrder := s.pwr.nextOrder + 1 } }
  if cleared = 0 then s3 else powerOff n cleared s3

/-- The SPIN bit written (R305). -/
def writeSpin (n : Nat) (v : Bool) (s : State) : State :=
  let r := s.slot n
  let s1 := setF (Reg.SLT_CTRL_SPIN n) (b2n v) s
  let s2 := onSlot n (fun x => { x with order2 := if v then some (r.order2.getD s.pwr.nextOrder) else none }) s1
  { s2 with pwr := { s2.pwr with nextOrder := s.pwr.nextOrder + 1 } }

/-- The firmware asks both gates for a slot. -/
def requestSlot (n : Nat) (s : State) : State := writeSpin n true (writeEnables n true true s)

/-- A slot waits at gate 1 (R305): an enabled rail is off, the drive present, no cool-down, no trip that still holds. -/
def State.waits1 (s : State) (n : Nat) : Bool :=
  let held := (s.slot n).tripHeld
  ((s.on (Reg.SLT_CTRL_EN12 n) && !s.on (Reg.SLT_STATUS_ON12 n) && bitOf held 0 == 0)
    || (s.on (Reg.SLT_CTRL_EN5 n) && !s.on (Reg.SLT_STATUS_ON5 n) && bitOf held 1 == 0))
  && s.on (Reg.SLT_STATUS_PRESENT n) && !s.on (Reg.SLT_STATUS_COOLDOWN n)

/-- A slot waits at gate 2 (R305). -/
def State.waits2 (s : State) (n : Nat) : Bool :=
  s.on (Reg.SLT_CTRL_SPIN n) && s.on (Reg.SLT_STATUS_ON12 n) && s.on (Reg.SAS_SLOT_STATUS_LINK_UP n)
    && !s.on (Reg.SLT_STATUS_SURGING n) && !s.awake n

/-- The slot at the head of a gate: the earliest request, ties in ascending slot order. -/
def earliest (order : Nat → Nat) : List Nat → Option Nat
  | [] => none
  | x :: t => match earliest order t with
    | none => some x
    | some y => if order x ≤ order y then some x else some y

def State.head1 (s : State) : Option Nat :=
  earliest (fun n => (s.slot n).order1.getD 0) (allSlots.filter s.waits1)
def State.head2 (s : State) : Option Nat :=
  earliest (fun n => (s.slot n).order2.getD 0) (allSlots.filter s.waits2)

/-- The gates admit: GATE_EN set, the converter regulating, the cores out of reset (R300, R305), HOLD not in force (R375). -/
def State.gatesOpen (s : State) : Bool :=
  s.on Reg.PWR_CTRL_GATE_EN && s.get Reg.PWR_STATUS_CONV_STATE == 2 && !s.sys.inReset.contains .ctrl
    && !s.on Reg.FOV_CTRL_HOLD

/-! Work on a drive -/

/-- Members that a stripe update or an intent touches, as physical slots. -/
def State.openIntentSlots (s : State) : List Nat :=
  s.jnl.intents.flatMap (fun p => p.2.members.map (fun i => s.physOf ((s.geo p.2.array).slotOf i)))

/-- A command is open on a physical slot. -/
def State.openOn (s : State) (phys : Nat) : Nat := (s.sas.cmds.filter (fun c => c.phys == phys)).length

/-- A drive has an open command or an open intent. -/
def State.busyDrive (s : State) (phys : Nat) : Bool :=
  s.openOn phys != 0 || s.openIntentSlots.contains phys

/-- The firmware sets SHED_OK on each awake slot that has no open command and no open intent, and clears it on all others (R293). -/
def writeShedOk (s : State) : State :=
  let intents := s.openIntentSlots
  forEach allSlots (fun n t =>
    setF (Reg.SLT_CTRL_SHED_OK n) (b2n (s.awake n && s.openOn n == 0 && !intents.contains n)) t) s

/-- When a drive was last accessed. -/
def State.lastUse (s : State) (phys : Nat) : Nat := Assoc.getD s.sys.lastAccess phys 0

/-- The drive's peers are serving a reconstruction (R151): a piece is being decoded from the drive's local group, or by a plan from
its array (log entry 100). -/
def State.reconstructing (s : State) (phys : Nat) : Bool :=
  let slot := s.logicalOf phys
  s.sas.pieces.any (fun p =>
    let g := s.geo p.2.array
    g.slots.contains slot && (p.2.state == 3 ||
      (p.2.state == 2 && g.memberGroup p.2.row (g.indexOf slot) == some (g.groupOf p.2.d))))

/-- Awake drives that may be spun down, least recently accessed first (R36, R151). -/
def State.spinDownOrder (s : State) : List Nat :=
  sortBy (fun a b => decide (s.lastUse a ≤ s.lastUse b))
    (allSlots.filter (fun n => s.awake n && !s.busyDrive n && !s.reconstructing n))

/-- STOP UNIT goes out to a drive that it is due for, once no command is open on it (R142). -/
def sendStop (n : Nat) (s : State) : State :=
  if (s.slot n).stopDue && s.openOn n == 0 then
    emit (.drive n .stopUnit 0 0 []) (onSlot n (fun r => { r with stopDue := false, stopSent := true }) s)
  else s

/-- A drive is spun down: AWAKE and SPIN clear, STOP UNIT follows; the rails open when it completes (R142, R310). -/
def spinDown (n : Nat) (s : State) : State :=
  sendStop n (onSlot n (fun r => { r with stopDue := true }) (writeSpin n false (setF (Reg.SAS_SLOT_CTRL_AWAKE n) 0 s)))

/-- Tokens are requested for a shortfall in 0.1 W, rounded up to 10 W (R36); one token more than is held is the least that helps. -/
def requestTokens (dw : Nat) (s : State) : State :=
  let w := roundUp (ceilDiv dw 10) 10
  let held := s.get Reg.PWR_BUDGET_GRANT_W
  askTokens (held + w) (held + 10) 1 { s with sys := { s.sys with shortfall := w } }

/-- EXTENDED holds the members of the array that it grazes awake (R251). -/
def State.testHolds (s : State) (phys : Nat) : Bool :=
  match s.cmd.testLeft with
  | n :: _ => (s.geo n).slots.contains (s.logicalOf phys)
  | [] => false

/-- No graze step may start on an array: SHORT runs, or EXTENDED grazes the array itself (R251, R252). -/
def State.testBars (s : State) (n : Nat) : Bool :=
  s.cmd.testRunning != 0 && (!s.cmd.testGrazes || s.cmd.testLeft.head? == some n)

/-- The physical slots that the write-back of a line needs: its unit's member and the parities of its row. -/
def State.lineSlots (s : State) (key : Nat) : List Nat :=
  let n := s.volArray (keyVol key)
  let g := s.geo n
  let at' := s.locate (keyVol key) (keyLba key)
  let d := at'.2.1
  (g.memberOf at'.1 (.data d) :: g.memberOf at'.1 (.par (g.groupOf d))
    :: (List.range g.globalCount).map (fun i => g.memberOf at'.1 (.glob i))).map (fun m => s.physOf (g.slotOf m))

/-- Sleeping drives that acknowledged data waits for (R37, R39, R114): those of every dirty line while EXPOSED is set or admission is
stopped, else those of the rows whose write-back is demanded. -/
def State.dataSlots (s : State) : List Nat :=
  let all := s.on Reg.JNL_STATUS_EXPOSED || s.admitStop
  let lines := s.dirtyLines.filter (fun l => all ||
    s.jnl.demandRows.contains (rowKey (s.volArray (keyVol l.1)) (s.locate (keyVol l.1) (keyLba l.1)).1))
  (once (lines.flatMap (fun l => s.lineSlots l.1))).filter (fun p => !s.awake p)

/-- A slot that acknowledged data waits for goes before the requests of all other causes (R37, R114): gate 1 admits in the order of its
requests (R305), so the firmware withdraws the later ones' request bits and sets them again behind it. -/
def requestAhead (n : Nat) (first : List Nat) (s : State) : State :=
  let later := sortBy (fun a b => decide ((s.slot a).order1.getD 0 ≤ (s.slot b).order1.getD 0))
    (allSlots.filter (fun m => m != n && s.waits1 m && !s.slotOn m && !first.contains m))
  let again (m : Nat) (t : State) : State :=
    writeSpin m (s.on (Reg.SLT_CTRL_SPIN m)) (writeEnables m (s.on (Reg.SLT_CTRL_EN12 m)) (s.on (Reg.SLT_CTRL_EN5 m)) t)
  forEach later again (requestSlot n (forEach later (fun m t => writeEnables m false false (writeSpin m false t)) s))

/-- The firmware answers a wake request of a physical slot (R151): it spins it up where the allowance has room beside what the slots that
acknowledged data waits for take first (R37, R114), frees room by spinning down an idle drive, or requests tokens. -/
def wakeSlot (n : Nat) (s : State) : State :=
  let asked := s.on (Reg.SLT_CTRL_SPIN n) && s.on (Reg.SLT_CTRL_EN12 n) && s.on (Reg.SLT_CTRL_EN5 n)
  let first := s.dataSlots
  let owed := if first.contains n then 0 else (first.filter (fun m => !s.slotOn m)).length
  let ask (t : State) : State := if first.contains n then requestAhead n first t else requestSlot n t
  if s.awake n || (s.slot n).leftOff then s
  else if asked then (if first.contains n && s.waits1 n then requestAhead n first s else s)
  else if s.nOn + owed < s.spinAllowance || s.slotOn n then ask s
  else match (s.spinDownOrder.filter (fun m => !s.testHolds m)).head? with
    | some m => ask (spinDown m s)
    | none => requestTokens (s.get Reg.PWR_SPIN_P_DRIVE_DW) (ask s)

/-! Erased members -/

/-- The array that a logical slot belongs to. -/
def State.arrayOf (s : State) (slot : Nat) : Option Nat := s.validArrays.find? (fun n => (s.geo n).slots.contains slot)

/-- What a CONFIG message carries (R366), by its first number: 4 a substitution, 5 an array's ERASED words, 6 a frontier, 7 a
checkpoint, 8 the images are erased (R376), 9 a volume's binding and the next row to format (R246), 10 the stored preference,
11 a feature, 12 an array's graze pointers, 13 an array's lost-block list. -/
def State.configArgs (s : State) (what : List Nat) : List Nat :=
  match what with
  | [4, j] => [4, j, s.get (Reg.SAS_SUB_VALID j), s.get (Reg.SAS_SUB_LOGICAL j), s.get (Reg.SAS_SUB_PHYSICAL j)]
  | [5, n, _] => [5, n] ++ [0, 1, 2, 3].map (fun k => s.get (Reg.STP_ARRAY_ERASED_SLOTS n k))
  | [6, k] => [6, k, s.get (Reg.SAS_RBD_CFG_ENABLE k), s.get (Reg.SAS_RBD_CFG_MODE k), s.get (Reg.SAS_RBD_CFG_ARRAY k),
      s.get (Reg.SAS_RBD_CFG_SLOT k), s.front k]
  | [10] => [10, s.get Reg.FOV_CTRL_PREF_B]
  | [12, n] => [12, n] ++ (s.care n).next.flatMap (fun p => [p.1, p.2])
  | [13, n] => [13, n] ++ (s.care n).lost.flatMap (fun r => [r.row, r.d, r.first, r.vol, r.nblk])
  | x => x

/-- A change of configuration is sent to the partner (R366). -/
def sendConfig (what : List Nat) (s : State) : State := if s.active then sendMir .config (s.configArgs what) s else s

/-- A frontier starts (R163): its window and DONE clear. -/
def enableFrontier (k : Nat) (s : State) : State :=
  setF (Reg.SAS_RBD_CFG_ENABLE k) 1 (setF (Reg.SAS_RBD_CFG_DONE k) 0
    (set64 (Reg.SAS_RBD_WIN_LO_WIN k) (Reg.SAS_RBD_WIN_HI_WIN k) 0 s))

/-- The firmware puts a frontier to work on a logical slot from row 0 (R163, R165), and asks for its drive. -/
def startFrontier (k mode n slot : Nat) (s : State) : State :=
  let s1 := setF (Reg.SAS_RBD_CFG_SLOT k) slot (setF (Reg.SAS_RBD_CFG_ARRAY k) n (setF (Reg.SAS_RBD_CFG_MODE k) mode
    (set64 (Reg.SAS_RBD_FRONT_LO_FRONT k) (Reg.SAS_RBD_FRONT_HI_FRONT k) 0 s)))
  let s2 := logEvent 6 n 0 [slot] (enableFrontier k s1)
  let s3 : State := { s2 with sas := { s2.sas with
    checkpoints := Assoc.set s2.sas.checkpoints k 0, lastCheckpoint := Assoc.set s2.sas.lastCheckpoint k s2.clock } }
  sendConfig [6, k] (wakeSlot (if mode = 1 then slot else s.physOf slot) s3)

/-- A frontier that is not enabled. -/
def State.freeFrontier (s : State) : Option Nat := (List.range 8).find? (fun k => !s.on (Reg.SAS_RBD_CFG_ENABLE k))

/-- A rebuild of an erased slot starts, or is queued while all eight frontiers are in use (R248). -/
def startRebuild (n slot : Nat) (s : State) : State :=
  match s.freeFrontier with
  | some k => startFrontier k 0 n slot s
  | none => { s with cmd := { s.cmd with rebuildQueue := s.cmd.rebuildQueue ++ [(n, slot)] } }

/-- Queued rebuilds start as frontiers come free. -/
def startQueued (s : State) : State :=
  match s.cmd.rebuildQueue, s.freeFrontier with
  | (n, slot) :: rest, some k =>
    let s1 : State := { s with cmd := { s.cmd with rebuildQueue := rest } }
    if (s.erasedSlots n).contains slot then startFrontier k 0 n slot s1 else s1
  | _, _ => s

/-- Physical slots that valid substitutions name. -/
def State.substitutes (s : State) : List Nat :=
  ((List.range 8).filter (fun j => s.on (Reg.SAS_SUB_VALID j))).map (fun j => s.get (Reg.SAS_SUB_PHYSICAL j))

/-- The substitution register that a logical slot takes: its own, or a free one. -/
def State.subFor (s : State) (slot : Nat) : Option Nat :=
  match (List.range 8).find? (fun j => s.on (Reg.SAS_SUB_VALID j) && s.get (Reg.SAS_SUB_LOGICAL j) == slot) with
  | some j => some j
  | none => (List.range 8).find? (fun j => !s.on (Reg.SAS_SUB_VALID j))

/-- A substitution is written (R140). -/
def writeSub (j slot phys : Nat) (s : State) : State :=
  sendConfig [4, j] (setF (Reg.SAS_SUB_VALID j) 1 (setF (Reg.SAS_SUB_PHYSICAL j) phys (setF (Reg.SAS_SUB_LOGICAL j) slot s)))

/-- The shelf holds two modules: beats of a partner are heard. -/
def State.twoModules (s : State) : Bool := !s.on Reg.FOV_STATUS_PARTNER_LOST

/-- A drive holds a valid header of an assembled array, other than one that may be overwritten. -/
def State.othersDrive (s : State) (own : Option Nat) (f : DriveFacts) : Bool :=
  match f.header with
  | none => false
  | some u => s.validArrays.any (fun k => some k != own && (s.arrayMeta k).uuid == u)

/-- The drive in a physical slot meets R161 for a member of an array. -/
def State.meets (s : State) (n phys : Nat) : Bool :=
  match (s.slot phys).drive with
  | none => false
  | some f => s.on (Reg.SLT_STATUS_PRESENT phys) && decide ((s.geo n).hdr + (s.geo n).rows * (s.geo n).unit ≤ f.bytes) && f.format
    && (f.dual || !s.twoModules) && !s.othersDrive (some n) f

/-- The lowest spare slot of an L-100+8S array whose drive meets R161 and that serves no member yet (R162). -/
def State.spareFor (s : State) (n : Nat) : Option Nat :=
  if (s.geo n).layout = 1 then
    [100, 101, 102, 103, 104, 105, 106, 107].find? (fun p =>
      s.meets n p && !s.substitutes.contains p)
  else none

/-- An erased slot of an L-100+8S array is rebuilt onto a spare (R162): substitution, rebuild, and the spare's header. -/
def takeSpare (n slot : Nat) (s : State) : State :=
  match s.feature 4 0, s.spareFor n, s.subFor slot with
  | 1, some p, some j => newDrive n slot p (startRebuild n slot (writeSub j slot p s))
  | _, _, _ => s

/-- A member is marked erased (R147): its frontier ends where it was a rebuild target (R170), the plan generation rises, the
ERASED bit is set, an evaluation starts (R102), the header GENERATION rises (R53), the event is logged, and a spare takes its
place where there is one (R162). -/
def markErased (slot : Nat) (s : State) : State :=
  match s.arrayOf slot with
  | none => s
  | some n =>
    let target := s.frontierOf 0 n slot
    if (s.erasedSlots n).contains slot && target.isNone then s
    else
      let s0 := onSlot (s.physOf slot) (fun r => { r with drive := none }) s
      let s1 := match target with
        | some k => stat n 9 1 (setF (Reg.SAS_RBD_CFG_ENABLE k) 0 s0)
        | none => (match s.frontierOf 1 n slot with
          | some k => setF (Reg.SAS_RBD_CFG_ENABLE k) 0 s0
          | none => s0)
      let s2 := setF (Reg.OXE_ARRAY_PLAN_CFG_GEN n) (s.get (Reg.OXE_ARRAY_PLAN_CFG_GEN n) + 1) s1
      let s3 := startEval n (writeErased n slot true s2)
      let s4 := raiseGeneration n s3
      takeSpare n slot (sendConfig [5, n, slot] (logEvent 5 n 0 [slot] s4))

/-- A member that a spare serves is copied back once a drive that meets R161 stands in its own bay (R166). -/
def State.copyBackDue (s : State) : Option (Nat × Nat) :=
  (List.range 8).findSome? (fun j =>
    let slot := s.get (Reg.SAS_SUB_LOGICAL j)
    match s.arrayOf slot with
    | some n =>
      if s.on (Reg.SAS_SUB_VALID j) && (s.geo n).layout == 1 && s.physOf slot != slot && !(s.erasedSlots n).contains slot
          && (s.frontierOf 0 n slot).isNone && (s.frontierOf 1 n slot).isNone
          && s.meets n slot then some (n, slot) else none
    | none => none)
def copyBack (s : State) : State :=
  match s.copyBackDue, s.freeFrontier with
  | some (n, slot), some k => startFrontier k 1 n slot s
  | _, _ => s

/-! Spin-up attempts (R498) -/

/-- An attempt has failed: SPIN, EN12 and EN5 clear; the second in a row marks the member erased and leaves the slot
unpowered, otherwise the retry is due. -/
def failAttempt (n : Nat) (s : State) : State :=
  let fails := (s.slot n).attemptFails + 1
  let s1 := writeEnables n false false (writeSpin n false s)
  let s2 := setF (Reg.SLT_STATUS_SURGING n) 0 s1
  if 2 ≤ fails then
    let s3 := onSlot n (fun r => { r with attemptFails := 0, attempting := false, retryDue := false, leftOff := true,
                                          failedThisWake := true }) s2
    match s.arrayOf (s.logicalOf n) with
    | some _ => markErased (s.logicalOf n) s3
    | none => logPlain 5 [n] s3
  else onSlot n (fun r => { r with attemptFails := fails, attempting := false, retryDue := true, failedThisWake := true }) s2

end Sys2Proof.Machine
end

