-- ==== Sys2Proof/Machine/Modes.lean ====
section
/-! DEFINITION. The transitions between modes (R24 to R33, R364, R369, R374, R375): what entering each mode does, and the order
in which pending triggers are taken. -/

namespace Sys2Proof.Machine

/-! Roles -/

/-- The role (R358): 0 none, 1 active, 2 standby. -/
def State.role (s : State) : Nat := if s.active then 1 else if s.on Reg.FOV_CTRL_STANDBY_ROLE then 2 else 0

/-- A change of role is shown: the heartbeat record is due (R224), the event logged with its reason in byte 26 (R378), and
HIF_HOST_EVENT.ROLE raised. -/
def roleChanged (old reason : Nat) (s : State) : State :=
  if s.role = old then s
  else hostEvent 2 (logPlain 3 [old, s.role, reason] { s with sys := { s.sys with hbDue := true } })

/-- HOLD begins or ends (R374), and HIF_HOST_EVENT.ROLE is raised (R282). -/
def setHold (b : Bool) (s : State) : State :=
  if s.on Reg.FOV_CTRL_HOLD = b then s else hostEvent 2 (setF Reg.FOV_CTRL_HOLD (b2n b) s)

/-- ACTIVE_N is released (R31). -/
def releaseActive (reason : Nat) (s : State) : State := roleChanged s.role reason (setF Reg.FOV_STATUS_ACTIVE_HELD 0 s)

/-- RELINQUISH goes out on both paths with a reason, then ACTIVE_N is released (R31, R360, R364). -/
def relinquish (reason : Nat) (s : State) : State :=
  if s.active then
    let s1 := sendMir .relinquish [reason] (setF Reg.FOV_CTRL_REASON reason s)
    releaseActive reason { s1 with fov := { s1.fov with relqLeft := 10, lastReason := reason } }
  else s

/-! Work that a mode ends -/

/-- A completion record of the firmware command ring (R146): 16 bytes at the ring's tail, FW_DONE raised. -/
def fwComplete (tag slotByte status errLba : Nat) (s : State) : State :=
  let size := s.get Reg.SAS_FW_CFG_SIZE_M1 + 1
  let t := s.get Reg.SAS_FW_CQ_TAIL_CQ_TAIL
  let phase := Assoc.getD s.oxe.phases 16 1
  let base := s.get64 Reg.SAS_FW_CQ_BASE_LO_BASE Reg.SAS_FW_CQ_BASE_HI_BASE
  let bytes := leBytes 2 tag ++ [slotByte, status] ++ leBytes 8 errLba ++ [0, 0, 0, phase]
  let s1 := setF Reg.SAS_FW_CQ_TAIL_CQ_TAIL ((t + 1) % size) (writeBytes (base + 16 * t) bytes s)
  let s2 := when (t + 1 == size) (fun u => { u with oxe := { u.oxe with phases := Assoc.set u.oxe.phases 16 (1 - phase) } }) s1
  event Reg.SAS_EVENT_FW_DONE Reg.SAS_FW_DONE_CNT s2

/-- The stripe manager's work ends with its pieces, repairs and updates; open intents stay for replay. -/
def dropWork (s : State) : State :=
  { s with
    sas := { s.sas with unopened := [], pieces := [], rx := [], repairs := [] }
    jnl := { s.jnl with updates := [], locks := [], stalled := s.jnl.stalled.filter (fun w => w.isNone) }
    oxe := { s.oxe with backlog := [] } }

/-- Every open member command is aborted (R363, R369, R370, R497): the firmware's complete with ABORTED, and the stripe manager's
work ends. -/
def abortMembers (s : State) : State :=
  let s1 := forEach s.sas.cmds (fun c t =>
    let t1 := emit (.drive c.phys .abort c.lba c.nblk []) t
    match c.owner with
    | .firmware b => fwComplete c.tag b 5 0 t1
    | _ => t1) s
  dropWork { s1 with sas := { s1.sas with cmds := [] } }

/-- Commands of I/O queues that have not committed, and shelf commands that are held, complete with NOT_ACTIVE (R26, R370). -/
def refuseIo (s : State) : State :=
  finishAll (s.cmdsWhere (fun c => c.held || (c.e.qid != 0 && !c.committed))) St.notActive 0 s

/-- The running self-test ends (R253, R254). -/
def endTest (result failStep : Nat) (s : State) : State :=
  if s.cmd.testRunning = 0 then s
  else
    let r : TestResult := ⟨s.cmd.testRunning, result, failStep, s.nowMs, s.cmd.testRows, s.cmd.testMismatch⟩
    logPlain 0xC [s.cmd.testRunning, result, failStep] { s with cmd := { s.cmd with
      testRunning := 0, testSuspended := false, testGrazes := false, testLeft := [], testFail := 0, testResults := (r :: s.cmd.testResults).take 16 } }

/-- A self-test begins; it stands suspended while an I/O command is in flight (R252). -/
def beginTest (kind : Nat) (s : State) : State :=
  { s with cmd := { s.cmd with
    testRunning := kind, testSuspended := s.ioInFlight, testPaused := s.clock, testStart := s.clock, testGrazes := false, testLeft := [],
    testFail := 0, testRows := 0, testMismatch := 0 } }

/-- A mode change ends EXTENDED, and DESTAGING and TAKEOVER end SHORT too (R253). -/
def testOnMode (m : Nat) (s : State) : State :=
  if s.cmd.testRunning = 2 ∨ (s.cmd.testRunning = 1 ∧ (m = Mode.destaging ∨ m = Mode.takeover)) then endTest 4 0 s else s

/-- The node of a parity volume tells its flock when it begins or ends to serve (R407, R410). -/
def tellParity (m : Nat) (s : State) : State :=
  if (m == Mode.serving) != (s.mode == Mode.serving) && s.fab.groups.any (fun g => g.parity.1 == s.ownUid) then
    floodFrame .group none [7, s.ownUid, m] s
  else s

/-- A mode is entered, with what every change of mode ends; in PARKED the fabric keeps its keep ports alone (R381). -/
def toMode (m : Nat) (s : State) : State :=
  when (m == Mode.parked) parkPorts (enterMode m (tellParity m (testOnMode m s)))

/-- POWER_STATE commands that wait complete with a status and the mode as their result (R255). -/
def finishPark (status : Nat) (s : State) : State :=
  finishAll s.cmd.parkCmds status s.mode { s with cmd := { s.cmd with parkCmds := [] } }
def finishWake (status : Nat) (s : State) : State :=
  finishAll s.cmd.wakeCmds status s.mode { s with cmd := { s.cmd with wakeCmds := [] } }

/-- ROLE_CONTROL commands of an action that wait complete with SUCCESS and the mode as their result (R258). -/
def finishRole (action : Nat) (s : State) : State :=
  let due := (s.cmd.roleCmds.filter (fun p => p.2 == action)).map Prod.fst
  finishAll due St.success s.mode { s with cmd := { s.cmd with roleCmds := s.cmd.roleCmds.filter (fun p => p.2 != action) } }

/-! Images (R134, R503) -/

/-- Lines that an image holds: dirty or mirrored. -/
def State.imageLines (s : State) : List (Nat × Line) := s.jnl.lines.filter (fun l => l.2.dirty || l.2.mirrored)

/-- An image is written into an area that holds no kept image, while DRAM holds a dirty or mirrored line (R134, R503). -/
def writeImage (sealed : Bool) (s : State) : State :=
  if !s.holdsData then { s with jnl := { s.jnl with imageArea := none } }
  else
    let image : Image := { seqAtLoss := s.highestSeq, sealed := sealed, dirOk := true, lines := s.imageLines }
    match [0, 1].find? (fun a => match Assoc.find s.jnl.images a with | some i => !s.imageValid i | none => true) with
    | some a => { s with jnl := { s.jnl with images := Assoc.set s.jnl.images a image, imageArea := if sealed then none else some a } }
    | none => s

/-- The image that is being written is sealed (R134 step 6). -/
def sealImage (s : State) : State :=
  match s.jnl.imageArea with
  | none => s
  | some a => { s with jnl := { s.jnl with
      images := s.jnl.images.map (fun p => if p.1 = a then (p.1, { p.2 with sealed := true }) else p), imageArea := none } }

/-! Entering modes -/

/-- The standby's bus setpoint (R301, R303). -/
def setOffset (v : Bool) (s : State) : State :=
  let s1 := setF Reg.PWR_CTRL_STANDBY_OFFSET (b2n v) s
  { s1 with pwr := { s1.pwr with setpoint := if v then 11800 else 12000 } }

/-- The intent belongs to an update or a repair of this module that is under way. -/
def State.ownIntent (s : State) (i : Nat) : Bool :=
  s.jnl.updates.any (fun p => p.2.head == some i) || s.sas.repairs.any (fun p => p.2.head == some i)

/-- FAN_TOKEN_N is claimed (R350). -/
def claimFans (s : State) : State :=
  if s.on Reg.FAN_TOKEN_HELD then s
  else setF Reg.FAN_TOKEN_CLAIM 1 (setF Reg.FAN_TOKEN_REFUSED 0 { s with fan := { s.fan with claiming := true } })

/-- The fan token on entry to SERVICE (R368): left to a live partner, claimed where no module holds ACTIVE_N. -/
def serviceFans (live : Bool) (s : State) : State :=
  if live then fanRelease s
  else if s.on Reg.FOV_STATUS_ACTIVE_LINE || s.sys.posConflict then s
  else claimFans s

/-- SERVICE is entered (R26, R30, R31): an active relinquishes with the reason; held I/O completes with NOT_ACTIVE, PARK and WAKE
too, and ENTER_SERVICE completes. -/
def enterService (reason : Nat) (s : State) : State :=
  let s1 := serviceFans (s.partnerLive && s.active) (toMode Mode.service (relinquish reason s))
  let s2 := roleChanged s.role reason (setF Reg.FOV_CTRL_STANDBY_ROLE 0 (setHold false s1))
  let s3 : State := { s2 with
    sys := { s2.sys with servicePending := false }
    fov := { s2.fov with holdCause := 0, handover := 0, handoverDue := false, toService := false, fetchStopped := false } }
  -- Intents of the partner that this module holds, and its mirrored lines, are replayed once no partner holds ACTIVE_N (R30).
  let s4 := when (s3.jnl.lines.any (fun l => l.2.mirrored) || s3.jnl.intents.any (fun p => !s3.ownIntent p.1)) (setF Reg.JNL_CTRL_REPLAY_DONE 0) s3
  finishRole 2 (finishWake St.notActive (finishPark St.notActive (refuseIo (when (s.partnerLive && s.active) abortMembers s4))))

/-- STANDBY is entered (R26): the bus is offset, fans released, held work refused. -/
def enterStandby (s : State) : State :=
  let s1 := setOffset true (fanRelease (toMode Mode.standby s))
  finishWake St.notActive (finishPark St.notActive (refuseIo (abortMembers s1)))

/-- STANDBY after a fault that the partner duplicates (R364, R365). -/
def faultStandby (reason : Nat) (s : State) : State :=
  let s1 : State := { s with fov := { s.fov with persists := addOnce s.fov.persists reason } }
  enterStandby (relinquish reason s1)

/-- DESTAGING is entered (R27, R31, R134, R368): RELINQUISH with reason 9, the fan token left to the partner, commands abandoned without status,
the image begun. -/
def enterDestaging (s : State) : State :=
  let s1 := fanRelease (toMode Mode.destaging (relinquish 9 s))
  let s2 := roleChanged s.role 9 (setF Reg.FOV_CTRL_STANDBY_ROLE 0 (setHold false s1))
  let s3 : State := { s2 with
    qmx := { s2.qmx with cmds := [], stalled := [], heldOut := [] },
    cmd := { s2.cmd with parkCmds := [], wakeCmds := [], wtCmds := [], roleCmds := [], commitCmd := none },
    hif := { s2.hif with up := false },
    sas := { s2.sas with cmds := [], unopened := [], pieces := [], rx := [] },
    jnl := { s2.jnl with flights := [], updates := [], locks := [], stalled := [], toWt := false },
    fov := { s2.fov with handover := 0, handoverDue := false, toService := false, fetchStopped := false, holdCause := 0 } }
  writeImage false (setF Reg.BAT_CTRL_LEARN 0 s3)

/-- Rows that hold dirty lines, as keys. -/
def State.dirtyRows (s : State) : List Nat :=
  once (s.dirtyLines.map (fun l =>
    let v := keyVol l.1
    rowKey (s.volArray v) (s.locate v (keyLba l.1)).1))

/-- Rows whose write-back something demands (R121). -/
def demand (rows : List Nat) (s : State) : State :=
  { s with jnl := { s.jnl with demandRows := rows.foldl addOnce s.jnl.demandRows } }

/-- DRAINING is entered (R310): EXTENDED ends by park, every dirty row's write-back is demanded (R121). -/
def enterDraining (s : State) : State :=
  let s1 := if s.cmd.testRunning = 2 then endTest 3 0 s else s
  let s2 := toMode Mode.draining s1
  demand s2.dirtyRows { s2 with sys := { s2.sys with parkPending := false } }

/-- The fans' power at the start demand of 40 %, in 0.1 W (R306, R354). -/
def State.startFanDw (s : State) : Nat :=
  (fanChannels.map (fun c => s.get (Reg.FAN_CH_CFG_P_RATED_W c) * 10 * 400 ^ 3 / 10 ^ 9)).sum

/-- W_req and W_min of a wake, in W rounded up to 10 W (R306). -/
def State.wakeReq (s : State) (n : Nat) : Nat :=
  let drive := s.get Reg.PWR_SPIN_P_DRIVE_DW
  let surge := s.get Reg.PWR_SPIN_P_SURGE_DW
  let ws := s.get Reg.PWR_SPIN_SURGE_W * 10 / surge
  roundUp (ceilDiv (620 + s.startFanDw + 10 * s.get Reg.PWR_BUDGET_MARGIN_W + n * drive + min n ws * (surge - drive)) 10) 10
def State.wakeMin (s : State) (n : Nat) : Nat :=
  let drive := s.get Reg.PWR_SPIN_P_DRIVE_DW
  let surge := s.get Reg.PWR_SPIN_P_SURGE_DW
  let more := if n = 0 then 0 else surge - drive
  roundUp (ceilDiv (620 + s.startFanDw + 10 * s.get Reg.PWR_BUDGET_MARGIN_W + n * drive + more) 10) 10

/-- Physical slots of the members that a range of a volume touches: the data members of a read, and with them the parities of a
write; an erased member brings its whole row. -/
def State.rangeSlots (s : State) (v lba nblk : Nat) (write : Bool) : List Nat :=
  if !s.volValid v then []
  else
    let n := s.volArray v
    let g := s.geo n
    once ((List.range nblk).flatMap (fun i =>
      let at' := s.locate v (lba + i)
      let row := at'.1
      let d := at'.2.1
      let m := g.memberOf row (.data d)
      let par := g.memberOf row (.par (g.groupOf d))
      let gl := (List.range g.globalCount).map (fun k => g.memberOf row (.glob k))
      let live := s.liveFor n row (g.slotOf m)
      let members := if !live then List.range g.members else if write then m :: par :: gl else [m]
      (members.filter (fun x => s.liveFor n row (g.slotOf x))).map (fun x => s.physOf (g.slotOf x))))

/-- Physical slots that a held command touches (R306): a COPY reads its source and writes a destination of its own shelf (R266). -/
def State.touchedSlots (s : State) (e : Entry) : List Nat :=
  let nblk := e.nlbM1 + 1
  if e.opcode = 0x25 then
    let local' := bitOf (leNat ((e.spec.drop 8).take 2)) 15 == 0
    s.rangeSlots e.vol e.slba nblk false
      ++ (if local' then s.rangeSlots (leNat ((e.spec.drop 12).take 4)) (leNat (e.spec.take 8)) nblk true else [])
  else s.rangeSlots e.vol e.slba nblk (e.opcode != 0x20)

/-- The wake set (R306): members of open intents, of the legible rows of damaged heads, and of held commands. -/
def State.wakeSetNow (s : State) : List Nat :=
  let ofIntent (i : Nat) (t : Intent) : List Nat :=
    if !s.on (Reg.STP_ARRAY_CFG_VALID t.array) then []
    else
      let g := s.geo t.array
      let ms := if s.entryGood i then t.members else if t.row < g.rows then List.range g.members else []
      ms.map (fun m => s.physOf (g.slotOf m))
  once (s.jnl.intents.flatMap (fun p => ofIntent p.1 (s.parseIntent p.1))
    ++ (s.qmx.cmds.filter (fun c => c.2.held && c.2.e.qid != 0)).flatMap (fun c => s.touchedSlots c.2.e))

/-- PARKED is left for WAKING (R27, R309): the converter is enabled; an image or open intents are to be replayed (R136, R310). -/
def leaveParked (s : State) : State :=
  let s0 := when (!s.jnl.images.isEmpty || !s.jnl.intents.isEmpty) (setF Reg.JNL_CTRL_REPLAY_DONE 0) s
  let s1 := setF Reg.PWR_CTRL_CONV_EN 1 (toMode Mode.waking s0)
  let s2 := when (s.on Reg.PWR_STATUS_MAINS_OK && s.get Reg.PWR_STATUS_CONV_STATE == 0) (setF Reg.PWR_STATUS_CONV_STATE 1) s1
  { s2 with
    sys := { s2.sys with wakePending := false, wakeBudget := none },
    pwr := { s2.pwr with slots := s2.pwr.slots.map (fun p => (p.1, { p.2 with failedThisWake := false })) } }

/-- A wake cause in PARKED (R27, R306): the wake set is fixed, W_req requested, and PARKED left once the grant covers W_min. -/
def startWake (s : State) : State :=
  let set' := s.wakeSetNow
  let need := s.wakeMin set'.length
  let s1 : State := { s with pwr := { s.pwr with wakeSet := set' }, sys := { s.sys with wakePending := true, wakeBudget := some need } }
  if need ≤ s.get Reg.PWR_BUDGET_GRANT_W then leaveParked s1
  else if s.sys.wakeBudget.isSome then s1
  else askTokens (s.wakeReq set'.length) need (if s.jnl.intents.isEmpty then 1 else 0) s1

/-- HOLD is entered in TAKEOVER (R374, R375). -/
def enterHold (cause : Nat) (s : State) : State :=
  let s1 := setF Reg.FAN_CTRL_FIXED_EN 1 (setHold true s)
  refuseIo { (demandMoved s s1) with fov := { s1.fov with holdCause := cause } }

/-- Both lines are claimed (R358, R350). -/
def claimLines (s : State) : State :=
  let s1 := setF Reg.FOV_STATUS_KEEPER_RELEASED 0 (setF Reg.FOV_STATUS_REFUSED 0 (setF Reg.FOV_CTRL_CLAIM 1 s))
  claimFans s1

/-- Every enabled frontier goes back to its last checkpoint, with its window clear (R168). -/
def restoreFronts (s : State) : State :=
  forEach ((List.range 8).filter (fun k => s.on (Reg.SAS_RBD_CFG_ENABLE k))) (fun k t =>
    set64 (Reg.SAS_RBD_WIN_LO_WIN k) (Reg.SAS_RBD_WIN_HI_WIN k) 0
      (set64 (Reg.SAS_RBD_FRONT_LO_FRONT k) (Reg.SAS_RBD_FRONT_HI_FRONT k) (Assoc.getD t.sas.checkpoints k 0) t)) s

/-- TAKEOVER is entered (R369): both lines claimed, allocation refused until the replay (R129), the bus raised, LOGICAL UNIT RESET
sent to every awake member, the lease asked for; a standby that was not yet synchronised goes into HOLD at once (R374). -/
def enterTakeover (s : State) : State :=
  let s1 := claimLines (setF Reg.JNL_CTRL_REPLAY_DONE 0 (toMode Mode.takeover s))
  let s2 := restoreFronts (setOffset false s1)
  let s3 := when (s.mode == Mode.parked) (fun t =>
    when (t.on Reg.PWR_STATUS_MAINS_OK && t.get Reg.PWR_STATUS_CONV_STATE == 0) (setF Reg.PWR_STATUS_CONV_STATE 1)
      (setF Reg.PWR_CTRL_CONV_EN 1 t)) s2
  let s4 := forEach (allSlots.filter s.awake) (fun n t => emit (.drive n .unitReset 0 0 []) t) s3
  let s5 := match s.fab.inherited with
    | some (w, _, lost) => askBellwether .leaseMove [lost] (loopAtOnce (setF Reg.PWR_BUDGET_GRANT_W w s4))
    | none => s4
  let s6 : State := { s5 with
    sys := { s5.sys with hbDue := true }
    fab := { s5.fab with leaseEnd := match s.fab.inherited with | some (_, e, _) => e | none => s5.fab.leaseEnd }
    fov := { s5.fov with
      relqHeard := false, silent := false, replayed := false, detectedAt := s.clock, tFans := 0,
      lastTakeover := s.nowMs, takeovers := s.fov.takeovers + 1, handover := 0 } }
  if s.fov.synced || s.on Reg.FOV_MIR_CTRL_RESYNC_DONE then s6 else enterHold 2 s6

/-- Detection (R362): a standby reads ACTIVE_N high and has lost the partner or heard RELINQUISH. -/
def State.detected (s : State) : Bool :=
  s.on Reg.FOV_CTRL_STANDBY_ROLE && !s.active && !s.on Reg.FOV_STATUS_ACTIVE_LINE
    && (s.on Reg.FOV_STATUS_PARTNER_LOST || s.fov.relqHeard)

/-- The outgoing module starts a planned handover (R370): it stops fetching and sends HANDOVER BEGIN. `toService` says that it goes to
SERVICE at its end. -/
def beginHandover (s : State) : State :=
  sendMir .handover [1] { s with fov := { s.fov with handover := 1, handoverDue := false, fetchStopped := true } }

/-- A planned handover is wanted (R32): it starts in SERVING, and from HOLD with a live partner. -/
def wantHandover (toService : Bool) (s : State) : State :=
  if s.fov.handover ≠ 0 then s
  else { s with fov := { s.fov with handoverDue := true, toService := s.fov.toService || toService } }

/-- A planned handover under way or wanted is abandoned (R371). -/
def abandonHandover (cause : Nat) (s : State) : State :=
  if s.fov.handover = 0 ∧ s.fov.handoverDue = false then s
  else
    let s1 := if s.fov.handover ≤ 2 then setOffset false s else setOffset true s
    let s2 : State := { s1 with fov := { s1.fov with
      handover := 0, handoverDue := false, fetchStopped := false, toService := false, lastAbandon := cause,
      abandoned := s1.fov.abandoned + 1 } }
    finishRole 5 (finishRole 2 (finishRole 1 s2))

/-- A self-diagnosed fault is acted on in a mode that accepts it (R27, R364, R374). -/
def takeFault (r : Nat) (s : State) : State :=
  let s := abandonHandover 2 s
  let live := s.partnerLive
  if s.mode = Mode.serving then
    (if r ≤ 2 then enterService r s
     else if r ≤ 4 then (if live then enterService r s else s)
     else if live then faultStandby r s else s)
  else if s.mode = Mode.takeover then enterHold 1 s
  else enterService r s

/-- The mode accepts a self-diagnosed fault (R27, R374); in HOLD it is held. -/
def State.acceptsFault (s : State) : Bool :=
  s.modeIn [Mode.parked, Mode.serving, Mode.standby] || (s.mode == Mode.takeover && !s.on Reg.FOV_CTRL_HOLD)

/-- The highest-ranked pending trigger that the mode accepts is taken (R32), once. -/
def settleOnce (s : State) : State :=
  match s.fov.faults with
  | r :: rest =>
    if s.acceptsFault then takeFault r { s with fov := { s.fov with faults := rest } }
    else if s.detected && (s.mode == Mode.standby || s.mode == Mode.parked) then enterTakeover s else s
  | [] =>
    if s.sys.posConflict && s.mode == Mode.parked && !s.on Reg.SYS_MODE_STARTING then enterService 0 s
    else if s.detected && (s.mode == Mode.standby || s.mode == Mode.parked) then enterTakeover s
    else if s.fov.handoverDue && s.partnerLive && s.active
        && (s.mode == Mode.serving || (s.mode == Mode.takeover && s.on Reg.FOV_CTRL_HOLD)) then beginHandover s
    else if s.sys.parkPending && s.mode == Mode.serving && s.fov.handover == 0 then enterDraining s
    else if s.sys.wakePending && s.sys.wakeBudget.isNone && s.mode == Mode.parked && s.active then startWake s
    else if s.sys.servicePending && s.modeIn [Mode.parked, Mode.serving, Mode.standby] then enterService 10 s
    else s

/-- Pending triggers are evaluated again in each new mode (R32). -/
def settle (s : State) : State := settleOnce (settleOnce (settleOnce s))

/-- SERVING is entered (R33, R255): WAKE completes, held commands may run, a park request that waited takes effect. -/
def enterServing (s : State) : State :=
  let s1 := toMode Mode.serving s
  let s2 : State := { s1 with qmx := { s1.qmx with cmds := s1.qmx.cmds.map (fun p => (p.1, { p.2 with held := false })) } }
  settle (finishWake St.success s2)

end Sys2Proof.Machine
end

