-- ==== Sys2Proof/Machine/Power.lean ====
section
/-! DEFINITION. Mains, converter and slot power (chapter 10), and the module's mating (R488). -/

namespace Sys2Proof.Machine

/-! Mains and converter -/

/-- P_line in W of a line range (R292). -/
def lineWatts (range : Nat) : Nat := if range = 2 then 2400 else 1400

/-- C in W for a line range and an inlet temperature in 0.1 °C (R292). -/
def capability (range : Nat) (inlet : Int) : Nat :=
  lineWatts range * (1000 - (min 250 (max 0 (inlet - 600))).toNat) / 1000

/-- The line range at the end of a block: high from 178 V, left below 172 V (R292); none while mains is lost. -/
def State.rangeAt (s : State) (vrms : Nat) : Nat :=
  if !s.on Reg.PWR_STATUS_MAINS_OK then 0
  else if 1780 ≤ vrms ∨ (s.get Reg.PWR_STATUS_LINE_RANGE = 2 ∧ 1720 ≤ vrms) then 2 else 1

/-- LINE_EVALUATION (R292): the range and C at the end of a 1 s block, `vrms` and `freq` in 0.1 V and 0.1 Hz. While no line
is present the spec states no P_line: C takes a free value (log entry 4). -/
def execLineEvaluation (vrms freq : Nat) (inlet : Int) (s : State) : Result :=
  let range := s.rangeAt vrms
  let cap := if range = 0 then s.freeVal 12 else capability range inlet
  let s0 := if range = 0 then useFree s else s
  let s1 := setF Reg.PWR_LINE_VRMS vrms (setF Reg.PWR_LINE_FREQ freq (setF Reg.PWR_CAP_INLET (ofSigned 12 inlet)
    (setF Reg.PWR_CAP_CAP_W cap (setF Reg.PWR_STATUS_DERATING (b2n (decide (600 < inlet)))
      (setF Reg.PWR_STATUS_LINE_RANGE range s0)))))
  let s2 := when (range != s.get Reg.PWR_STATUS_LINE_RANGE)
    (fun t => hostEvent 5 (loopAtOnce (event Reg.PWR_EVENT_RANGE_CHANGE Reg.PWR_RANGE_CHANGE_CNT t))) s1
  let moved := decide (10 ≤ cap - s.pwr.capAtChange) || decide (10 ≤ s.pwr.capAtChange - cap)
  .next (when moved (fun t => hostEvent 5 (event Reg.PWR_EVENT_CAP_CHANGE Reg.PWR_CAP_CHANGE_CNT
    { t with pwr := { t.pwr with capAtChange := cap } })) s2)

/-- Every slot switch of this module opens (R296, R488). -/
def openAll (s : State) : State := forEach (allSlots.filter s.slotOn) (fun n => openRails n 3) s

/-- MAINS_LOST (R295, R296, R27, R28): MAINS_OK and CONV_EN clear and the own switches open; a module whose DRAM holds dirty or
mirrored data enters DESTAGING, any other records the loss and goes unpowered. -/
def execMainsLost (s : State) : Result :=
  if !s.on Reg.PWR_STATUS_MAINS_OK then .next s
  else
    let s1 := setF Reg.PWR_CTRL_CONV_EN 0 (setF Reg.PWR_STATUS_MAINS_OK 0 s)
    let s2 := event Reg.PWR_EVENT_MAINS_LOST Reg.PWR_MAINS_LOST_CNT (setF Reg.PWR_STATUS_CONV_STATE 0 s1)
    let s4 := hostEvent 5 (logPlain 4 [] (fanSettleAll (openAll s2)))
    if s.mode = Mode.destaging then .next s4
    else if s.modeIn [Mode.serving, Mode.draining, Mode.standby, Mode.takeover, Mode.service] && s.holdsData then
      .next (enterDestaging s4)
    else .next { setF Reg.BAT_CTRL_LEARN 0 s4 with sys := { s4.sys with powered := false } }

/-- The soft-start begins where CONV_EN and MAINS_OK are both 1 and the converter is off (R295). -/
def softStart (s : State) : State :=
  when (s.on Reg.PWR_CTRL_CONV_EN && s.on Reg.PWR_STATUS_MAINS_OK && s.get Reg.PWR_STATUS_CONV_STATE == 0)
    (setF Reg.PWR_STATUS_CONV_STATE 1) s

/-- MAINS_RETURN (R295): MAINS_OK sets and a held CONV_EN starts the converter. -/
def execMainsReturn (s : State) : Result :=
  if s.on Reg.PWR_STATUS_MAINS_OK then .next s
  else .next (softStart (hostEvent 5 (event Reg.PWR_EVENT_MAINS_RETURN Reg.PWR_MAINS_RETURN_CNT (setF Reg.PWR_STATUS_MAINS_OK 1 s))))

/-- CONVERTER_OVERLOAD (R293): the current stood at its limit for 1 ms. -/
def execConverterOverload (s : State) : Result :=
  if s.busUp then
    .next (hostEvent 5 (event Reg.PWR_EVENT_OVERLOAD Reg.PWR_OVERLOAD_CNT (setF Reg.PWR_STATUS_OVERLOAD 1 (setF Reg.PWR_STATUS_CONV_STATE 3 s))))
  else .next s

/-- The next slot that shedding opens (R293): the highest with SHED_OK, then, with the bus low, the highest powered one. -/
def State.shedNext (s : State) (busLow : Bool) : Option Nat :=
  match (allSlots.filter (fun n => s.slotOn n && s.on (Reg.SLT_CTRL_SHED_OK n))).getLast? with
  | some n => some n
  | none => if busLow then (allSlots.filter s.slotOn).getLast? else none

/-- SHED_OK as running firmware keeps it; without firmware it stands as last written (R293). -/
def keepShedOk (s : State) : State := when s.sys.firmwareUp writeShedOk s

/-- SLOT_SHED (R293, R294): `busLow` says that the bus has stayed below 10.8 V for 50 ms. The partner learns at once, and the
firmware clears the slot's enable bits. -/
def execSlotShed (busLow : Bool) (s : State) : Result :=
  if s.on Reg.PWR_STATUS_OVERLOAD && s.on Reg.PWR_CTRL_SHED_EN then
    let s0 := keepShedOk s
    match s0.shedNext busLow with
    | none => .next s0
    | some n =>
      let s1 := setF (Reg.SLT_STATUS_SHED n) 1 (openRails n 3 s0)
      let s2 := event Reg.SLT_EVENT_SHED Reg.SLT_SHED_CNT s1
      let s3 := writeEnables n false false s2
      .next (sendSlotState s3)
  else .next s

/-- OVERLOAD_CLEAR (R293). -/
def execOverloadClear (s : State) : Result :=
  if s.on Reg.PWR_STATUS_OVERLOAD then
    let s1 := hostEvent 5 (setF Reg.PWR_STATUS_OVERLOAD 0 s)
    .next (when (s.get Reg.PWR_STATUS_CONV_STATE == 3) (setF Reg.PWR_STATUS_CONV_STATE 2) s1)
  else .next s

/-- CONVERTER_ENABLE (R295): a write of PWR_CTRL.CONV_EN. -/
def execConverterEnable (en : Bool) (s : State) : Result :=
  land 0xC0000 (.converterEnable en) (fun t =>
    let t1 := setF Reg.PWR_CTRL_CONV_EN (b2n en) t
    if en then softStart t1 else fanSettleAll (setF Reg.PWR_STATUS_OVERLOAD 0 (setF Reg.PWR_STATUS_CONV_STATE 0 t1))) s

/-- CONVERTER_REGULATING (R291, R309): the soft-start ends; channels with RUN set start, and in WAKING the firmware asks the gates
for the wake set. -/
def execConverterRegulating (s : State) : Result :=
  if s.get Reg.PWR_STATUS_CONV_STATE = 1 then
    let s1 := fanSettleAll (setF Reg.PWR_STATUS_CONV_STATE 2 s)
    .next (if s.mode = Mode.waking then forEach s.pwr.wakeSet requestSlot s1 else s1)
  else .next s

/-- CONV_FAULT (R364): the converter's protection trips, a self-diagnosed fault (reason 1). -/
def execConvFault (s : State) : Result :=
  let s1 := hostEvent 5 (event Reg.PWR_EVENT_CONV_FAULT Reg.PWR_CONV_FAULT_CNT (setF Reg.PWR_STATUS_CONV_STATE 4 s))
  .next (settle (raiseFault 1 (fanSettleAll s1)))

/-- STANDBY_OFFSET_WRITE (R301, R303). -/
def execStandbyOffsetWrite (v : Bool) (s : State) : Result := land 0xC0000 (.standbyOffsetWrite v) (setOffset v) s

/-! Slots -/

/-- SLOT_TRIP (R298): the rail opens, its fault is flagged and the cool-down runs; the firmware treats it as a failed spin-up
attempt. -/
def execSlotTrip (slot : Fin 108) (rail12 : Bool) (s : State) : Result :=
  let n := slot.val
  let on := if rail12 then s.on (Reg.SLT_STATUS_ON12 n) else s.on (Reg.SLT_STATUS_ON5 n)
  if !on then .next s
  else
    let s1 := openRails n (if rail12 then 1 else 2) s
    let s2 := setF (if rail12 then Reg.SLT_STATUS_FAULT12 n else Reg.SLT_STATUS_FAULT5 n) 1 s1
    let s3 := setF (Reg.SLT_STATUS_COOLDOWN n) 1 (event Reg.SLT_EVENT_FAULT Reg.SLT_FAULT_CNT s2)
    let s4 := onSlot n (fun r => { r with tripHeld := r.tripHeld ||| (if rail12 then 1 else 2) }) s3
    .next (failAttempt n s4)

/-- COOLDOWN_END (R298). -/
def execCooldownEnd (slot : Fin 108) (s : State) : Result := .next (setF (Reg.SLT_STATUS_COOLDOWN slot.val) 0 s)

/-- SLOT_ENABLE_WRITE (R305). -/
def execSlotEnableWrite (slot : Fin 108) (en12 en5 : Bool) (s : State) : Result :=
  land (0xB0000 + 8 * slot.val) (.slotEnableWrite slot en12 en5) (writeEnables slot.val en12 en5) s

/-- SLOT_DISABLE_WRITE (R302). -/
def execSlotDisableWrite (slot : Fin 108) (en12 en5 : Bool) (s : State) : Result :=
  land (0xB0000 + 8 * slot.val) (.slotDisableWrite slot en12 en5) (writeEnables slot.val en12 en5) s

/-- SPIN_WRITE (R305). -/
def execSpinWrite (slot : Fin 108) (s : State) : Result :=
  land (0xB0000 + 8 * slot.val) (.spinWrite slot) (writeSpin slot.val true) s

/-- Rails that gate 1 closes: enabled, off, and not held by a trip. -/
def closeRails (n : Nat) (s : State) : State :=
  let held := (s.slot n).tripHeld
  let s1 := when (s.on (Reg.SLT_CTRL_EN12 n) && bitOf held 0 == 0) (setF (Reg.SLT_STATUS_ON12 n) 1) s
  let s2 := when (s.on (Reg.SLT_CTRL_EN5 n) && bitOf held 1 == 0) (setF (Reg.SLT_STATUS_ON5 n) 1) s1
  onSlot n (fun r => { r with order1 := none, attempting := true }) s2

/-- A gate may admit again: STAGGER_MS have passed since it last did, values below 10 acting as 10 (R305). -/
def State.gateRested (s : State) (last : Option Nat) : Bool :=
  match last with
  | none => true
  | some t => decide (t + 1000 * max 10 (s.get Reg.SLT_CFG_STAGGER_MS) ≤ s.clock)

/-- Gate 1's test (R305): P_c + P_drive ≤ B, and its spacing. -/
def State.gate1Fits (s : State) : Bool :=
  s.gateRested s.pwr.gate1At && decide (s.committedDw + (s.get Reg.PWR_SPIN_P_DRIVE_DW : Int) ≤ (s.budgetDw : Int))

/-- GATE1_ADMIT (R305): the slot at the head of gate 1 is powered where the budget has room; it holds back those behind it. -/
def execGate1Admit (s : State) : Result :=
  match s.head1 with
  | none => .next s
  | some n =>
    if s.gatesOpen && s.gate1Fits then
      let s1 := closeRails n s
      .next (sendSlotState { s1 with pwr := { s1.pwr with gate1At := some s.clock } })
    else .next s

/-- Gate 2's tests (R305): P_c + P_surge − P_drive ≤ B, (N_surge + 1) × P_surge ≤ SURGE_W, and its spacing. -/
def State.gate2Fits (s : State) : Bool :=
  s.gateRested s.pwr.gate2At && decide (s.committedDw + (s.get Reg.PWR_SPIN_P_SURGE_DW : Int) - (s.get Reg.PWR_SPIN_P_DRIVE_DW : Int) ≤ (s.budgetDw : Int))
    && decide ((s.nSurge + 1) * s.get Reg.PWR_SPIN_P_SURGE_DW ≤ 10 * s.get Reg.PWR_SPIN_SURGE_W)

/-- GATE2_ADMIT (R305): NOTIFY (ENABLE SPINUP) goes to the slot at the head of gate 2, which starts surging. -/
def execGate2Admit (s : State) : Result :=
  match s.head2 with
  | none => .next s
  | some n =>
    if s.gatesOpen && s.gate2Fits then
      let s1 : State := { s with pwr := { s.pwr with gate2At := some s.clock } }
      .next (emit (.drive n .notifySpin 0 0 []) (setF (Reg.SLT_STATUS_SURGING n) 1 s1))
    else .next s

/-- SPIN_TIMEOUT (R305, R498): the surge ran to SPIN_HOLD; the attempt fails. -/
def execSpinTimeout (slot : Fin 108) (s : State) : Result :=
  let n := slot.val
  if s.on (Reg.SLT_STATUS_SURGING n) then
    let s1 := setF (Reg.SLT_STATUS_SPIN_TIMEOUT n) 1 (setF (Reg.SLT_STATUS_SURGING n) 0 s)
    .next (failAttempt n (event Reg.SLT_EVENT_SPIN_TIMEOUT Reg.SLT_SPIN_TIMEOUT_CNT s1))
  else .next s

/-- SLOT_LINK_TIMEOUT (R498): the link is not up 5 s after the slot's power. -/
def execSlotLinkTimeout (slot : Fin 108) (s : State) : Result :=
  if (s.slot slot.val).attempting && !s.on (Reg.SAS_SLOT_STATUS_LINK_UP slot.val) then .next (failAttempt slot.val s) else .next s

/-- SPINUP_RETRY (R498): both rails have read off for 5 s and any cool-down has ended. -/
def execSpinupRetry (slot : Fin 108) (s : State) : Result :=
  let n := slot.val
  if (s.slot n).retryDue && !s.slotOn n && !s.on (Reg.SLT_STATUS_COOLDOWN n) then
    .next (requestSlot n (onSlot n (fun r => { r with retryDue := false }) s))
  else .next s

/-- SPINUP_FAILURE (R498): the drive answers NOTIFY with a failure. -/
def execSpinupFailure (slot : Fin 108) (s : State) : Result :=
  if s.on (Reg.SLT_STATUS_SURGING slot.val) then .next (failAttempt slot.val s) else .next s

/-- SLOT_OFF_TIMEOUT (R302): 10 ms have passed without the standby's report. -/
def execSlotOffTimeout (slot : Fin 108) (s : State) : Result :=
  let w := (s.slot slot.val).offWait
  if w = 0 then .next s else .next (openRails slot.val w s)

/-- The rails of a slot whose STOP UNIT has ended are opened (R310). -/
def stopEnds (n : Nat) (s : State) : State :=
  writeEnables n false false (onSlot n (fun r => { r with stopSent := false }) s)

/-- STOP_UNIT_TIMEOUT (R310): 30 s after STOP UNIT the rails open without its completion. -/
def execStopUnitTimeout (slot : Fin 108) (s : State) : Result :=
  if (s.slot slot.val).stopSent then .next (stopEnds slot.val s) else .next s

/-- MODULE_UNMATE (R488): switches and gate drivers open, both lines are released, and CONV_FAULT is raised. -/
def execModuleUnmate (s : State) : Result :=
  if s.pwr.unmated then .next s
  else
    let s1 := fanRelease (openAll { s with pwr := { s.pwr with unmated := true } })
    let s2 : State := releaseActive 1 (setF Reg.FAN_TOKEN_CLAIM 0 { s1 with fan := { s1.fan with claiming := false } })
    .next (settle (raiseFault 1 (event Reg.PWR_EVENT_CONV_FAULT Reg.PWR_CONV_FAULT_CNT s2)))

/-- HOST_LINK_DOWN_FAULT (R364): the active's host link has been down for 10 s while the partner reports its own up. -/
def execHostLinkDownFault (s : State) : Result :=
  if s.active && !s.hif.up && s.fov.partnerHost then .next (settle (raiseFault 6 s)) else .next s

end Sys2Proof.Machine
end

