-- ==== Sys2Proof/Machine/Codes.lean ====
section
/-! DEFINITION. The codes of an array as its firmware computes with them (R57 to R62, R160, R176): members as sums of other members, the
content of a row from what its members read, and the arbitration of a mismatch. -/

namespace Sys2Proof.Machine

/-- The field of an array's code (R57): GF(2^8) for L-GEN1. -/
def Geo.field16 (g : Geo) : Bool := g.layout != 2

/-- Product and inverse in the field of an array's code. -/
def Geo.mul (g : Geo) (a b : Nat) : Nat := if g.field16 then gf16Mul a b else gf8Mul a b
def Geo.inv (g : Geo) (a : Nat) : Nat := if g.field16 then gf16Inv a else gf8Inv a

/-- Blocks summed with coefficients (R90). -/
def sumBlocks (f16 : Bool) (len : Nat) (terms : List (Nat × List Block)) : List Block :=
  (List.range len).map (fun i => terms.foldl (fun acc t => Nat.xor acc (blockMul f16 t.1 (t.2.getD i 0))) 0)

/-! Members as sums of members -/

/-- A sum with one term more; terms are member index and coefficient, none of them 0. -/
def addTerm (a : List (Nat × Nat)) (t : Nat × Nat) : List (Nat × Nat) :=
  Assoc.put a 0 t.1 (Nat.xor (Assoc.getD a t.1 0) t.2)

/-- A sum and a multiple of another. -/
def Geo.addScaled (g : Geo) (c : Nat) (a b : List (Nat × Nat)) : List (Nat × Nat) :=
  b.foldl (fun acc t => addTerm acc (t.1, g.mul c t.2)) a

/-- An equation over the lost data units of a row: their coefficients, and the sum of readable members that equals them. -/
structure Equation where
  coefs : List Nat
  sum : List (Nat × Nat)

/-- An equation and a multiple of another. -/
def Equation.add (g : Geo) (c : Nat) (a b : Equation) : Equation :=
  ⟨List.zipWith (fun x y => Nat.xor x (g.mul c y)) a.coefs b.coefs, g.addScaled c a.sum b.sum⟩

/-- An equation joins a reduced system, each of whose equations has the coefficient 1 at its own unknown, where no other has one. One that
follows from the others adds nothing. -/
def Geo.join (g : Geo) (system : List (Nat × Equation)) (e : Equation) : List (Nat × Equation) :=
  let r := system.foldl (fun x b => let c := x.coefs.getD b.1 0; if c = 0 then x else x.add g c b.2) e
  match r.coefs.findIdx? (fun c => c != 0) with
  | none => system
  | some j =>
    let f := g.inv (r.coefs.getD j 0)
    let unit : Equation := ⟨r.coefs.map (g.mul f), g.addScaled f [] r.sum⟩
    system.map (fun b => let c := b.2.coefs.getD j 0; (b.1, if c = 0 then b.2 else b.2.add g c unit)) ++ [(j, unit)]

/-- Data indices on some members of a row, in ascending order. -/
def Geo.dataOn (g : Geo) (row : Nat) (ms : List Nat) : List Nat :=
  (List.range g.dataCount).filter (fun d => ms.contains (g.memberOf row (.data d)))

/-- The equation of a parity that can be read, over the lost data units. -/
def Geo.parityEquation (g : Geo) (row : Nat) (lost : List Nat) (r : Role) : Equation :=
  let known := (List.range g.dataCount).filter (fun d => !lost.contains d)
  ⟨lost.map (g.roleCoef r), known.foldl (fun acc d => addTerm acc (g.memberOf row (.data d), g.roleCoef r d)) [(g.memberOf row r, 1)]⟩

/-- Every parity of a row: the local ones first, then the globals in ascending order. -/
def Geo.parityRoles (g : Geo) : List Role :=
  (if g.layout = 2 then [.par 0] else (List.range g.groups).map Role.par) ++ (List.range g.globalCount).map Role.glob

/-- The reduced system of a row with some members gone. Local equations go before the globals, and the globals in ascending order, so that
those used are the lowest ones for which the rank condition holds (R160). -/
def Geo.system (g : Geo) (row : Nat) (gone : List Nat) : List (Nat × Equation) :=
  let lost := g.dataOn row gone
  let left := g.parityRoles.filter (fun r => !gone.contains (g.memberOf row r))
  left.foldl (fun sys r => if sys.length = lost.length then sys else g.join sys (g.parityEquation row lost r)) []

/-- A lost data unit as a sum of readable members; none where the row cannot be decoded for it. -/
def Geo.solved (g : Geo) (row : Nat) (gone : List Nat) (d : Nat) : Option (List (Nat × Nat)) :=
  let i := (g.dataOn row gone).idxOf d
  ((g.system row gone).find? (fun e => e.1 == i && (e.2.coefs.zipIdx).all (fun c => c.1 == 0 || c.2 == i))).map (fun e => e.2.sum)

/-- A member of a row as a sum of readable ones (R160): itself where it is there, a lost data unit by the equations, a lost parity from
the data. L-GEN1 reads every survivor. -/
def Geo.recover (g : Geo) (row : Nat) (gone : List Nat) (m : Nat) : Option (List (Nat × Nat)) :=
  if !gone.contains m then some [(m, 1)]
  else
    let data (d : Nat) : Option (List (Nat × Nat)) :=
      let i := g.memberOf row (.data d)
      if gone.contains i then g.solved row gone d else some [(i, 1)]
    match g.role row m with
    | .data d => data d
    | r => (List.range g.dataCount).foldl (fun acc d =>
        let c := g.roleCoef r d
        if c = 0 then acc else acc.bind (fun a => (data d).map (fun b => g.addScaled c a b))) (some [])

/-- The members that a decode reads (R160). -/
def Geo.sources (g : Geo) (row : Nat) (gone : List Nat) (m : Nat) : Option (List Nat) :=
  (g.recover row gone m).map (fun terms =>
    if g.layout = 2 then (List.range g.members).filter (fun i => !gone.contains i) else terms.map Prod.fst)

/-! The content of a row -/

/-- A block as a member read it. -/
def blockRead (rd : RowReads) (m b : Nat) : Option Block := ((Assoc.find rd m).bind (fun l => l[b]?)).join

/-- Members whose block b is not there to be read. -/
def Geo.unread (g : Geo) (rd : RowReads) (b : Nat) : List Nat := (List.range g.members).filter (fun m => (blockRead rd m b).isNone)

/-- A block of a member: as read, or decoded from the others. -/
def Geo.blockOf (g : Geo) (row : Nat) (rd : RowReads) (gone : List Nat) (m b : Nat) : Option Block :=
  (g.recover row (once (gone ++ g.unread rd b)) m).map (fun terms =>
    terms.foldl (fun acc t => Nat.xor acc (blockMul g.field16 t.2 ((blockRead rd t.1 b).getD 0))) 0)

/-- The blocks of a member, where each of them can be read or decoded; members of `gone` are not read. -/
def Geo.contentOf (g : Geo) (row : Nat) (rd : RowReads) (gone : List Nat) (len m : Nat) : Option (List Block) :=
  (List.range len).mapM (fun b => g.blockOf row rd gone m b)

/-- A parity computed from the row's data. -/
def Geo.parityFrom (g : Geo) (r : Role) (len : Nat) (data : Nat → List Block) : List Block :=
  sumBlocks g.field16 len ((List.range g.dataCount).map (fun d => (g.roleCoef r d, data d)))

/-! Arbitration of a mismatch (R176) -/

/-- What arbitration finds in a row, with the content that the repair writes: a bad block, a wrong local parity, a wrong data unit, wrong
globals, or none of these. -/
inductive GrazeFinding where
  | badBlock (member first : Nat) (data : List Block)
  | localParity (group : Nat) (data : List Block)
  | dataUnit (d : Nat) (data : List Block)
  | globals (data : List (List Block))
  | notAttributable
  deriving DecidableEq, Repr

/-- What a row's reads show: a parity and the sum it should equal differ by this, block by block; zero where a member of the sum is not
there. -/
def Geo.differs (g : Geo) (row len : Nat) (rd : RowReads) (gone : List Nat) (r : Role) : List Block :=
  (List.range len).map (fun b =>
    let p := g.memberOf row r
    let part := (List.range g.dataCount).filter (fun d => g.roleCoef r d != 0)
    if (p :: part.map (fun d => g.memberOf row (.data d))).any (fun m => gone.contains m || (blockRead rd m b).isNone) then 0
    else part.foldl (fun acc d => Nat.xor acc (blockMul g.field16 (g.roleCoef r d) ((blockRead rd (g.memberOf row (.data d)) b).getD 0)))
      ((blockRead rd p b).getD 0))

/-- Failing blocks of the members that were read: member and block. -/
def Geo.badBlocks (g : Geo) (rd : RowReads) (gone : List Nat) (len : Nat) : List (Nat × Nat) :=
  (rd.filter (fun p => !gone.contains p.1 && decide (p.1 < g.members))).flatMap (fun p =>
    ((List.range len).filter (fun b => (blockRead rd p.1 b).isNone)).map (fun b => (p.1, b)))

/-- No block of a difference is other than 0. -/
def noneDiffer (l : List Block) : Bool := l.all (fun b => b == 0)

/-- The reads of a row show damage: a bad block, or a parity that differs from the sum of what was read. -/
def Geo.damaged (g : Geo) (row len : Nat) (rd : RowReads) (gone : List Nat) : Bool :=
  !(g.badBlocks rd gone len).isEmpty || g.parityRoles.any (fun r => !noneDiffer (g.differs row len rd gone r))

/-- The table of R176, in its order: bad blocks, then wrong local parities, one wrong data unit, wrong globals, and none of these. -/
def Geo.arbitrate (g : Geo) (row len : Nat) (rd : RowReads) (gone : List Nat) : List GrazeFinding :=
  let bad := g.badBlocks rd gone len
  if !bad.isEmpty then
    bad.map (fun p => match g.blockOf row rd gone p.1 p.2 with
      | some x => .badBlock p.1 p.2 [x]
      | none => .notAttributable)
  else
    let locals := (if g.layout = 2 then [0] else List.range g.groups).map (fun k => (k, g.differs row len rd gone (.par k)))
    let wrong := locals.filter (fun p => !noneDiffer p.2)
    let globals := (List.range g.globalCount).map (fun i => (i, g.differs row len rd gone (.glob i)))
    let left := globals.filter (fun p => !gone.contains (g.memberOf row (.glob p.1)))
    let dataOf (d : Nat) : List Block := (List.range len).map (fun b => (blockRead rd (g.memberOf row (.data d)) b).getD 0)
    let fits (k : Nat) (delta : List Block) (d : Nat) : Bool := g.groupOf d == k && left.all (fun p =>
      p.2 == delta.map (blockMul g.field16 (g.coef p.1 d)))
    if left.all (fun p => noneDiffer p.2) then
      wrong.map (fun p => .localParity p.1 (sumBlocks g.field16 len (((List.range g.dataCount).filter (fun d => g.groupOf d == p.1)).map
        (fun d => (1, dataOf d)))))
    else match wrong with
      | [] => [.globals (globals.map (fun p => if noneDiffer p.2 then [] else g.parityFrom (.glob p.1) len dataOf))]
      | [(k, delta)] =>
        (match (List.range g.dataCount).filter (fits k delta) with
         | [d] => [.dataUnit d (List.zipWith Nat.xor (dataOf d) delta)]
         | _ => [.notAttributable])
      | _ => [.notAttributable]

end Sys2Proof.Machine
end

