-- ==== Sys2Proof/Machine/Flock.lean ====
section
/-! DEFINITION. Flock parity groups as a member's node holds them (R404 to R410): the deferred-delta log and the status of a
write to a member volume. -/

namespace Sys2Proof.Machine

/-- The group that a volume of this node belongs to as a member, with its member index. -/
def State.groupOfVol (s : State) (v : Nat) : Option (FlockGroup × Nat) :=
  s.fab.groups.findSome? (fun g =>
    let i := g.members.idxOf (s.ownUid, v)
    if i < g.members.length then some (g, i) else none)

/-- A node is known to serve. -/
def State.nodeServing (s : State) (uid : Nat) : Bool :=
  (uid == s.ownUid && s.mode == Mode.serving) || s.fab.nodes.any (fun n => n.uid == uid && n.mode == Mode.serving)

/-- The address of a node. -/
def State.nodeAddr (s : State) (uid : Nat) : Option Nat := (s.fab.nodes.find? (fun n => n.uid == uid)).map (·.addr)

/-- Pages of the deferred-delta log: 512 MiB of 4 KiB, a header page and one page a block for each record (R406). -/
def logPages : Nat := 131072
def Delta.pages (d : Delta) : Nat := 1 + d.nblk

/-- Pages in use: from the tail, the oldest record that is not freed, to the next record's (R406). -/
def State.logUsed (s : State) : Nat := match s.fab.deltas.head? with | some d => s.fab.deltaNext - d.place | none => 0

/-- The address of a page of the log. -/
def logPage (p : Nat) : Nat := 0x1041000000 + 4096 * (p % logPages)

/-- Bytes of a record's header, and of one block of its data. -/
def State.deltaHead (s : State) (d : Delta) : List Nat := s.readBytes (logPage d.place) 64
def State.deltaBlock (s : State) (d : Delta) (b : Nat) : List Nat := s.readBytes (logPage (d.place + 1 + b)) 4096

/-- HDR_CRC and DATA_CRC of a record hold (R406). -/
def State.deltaGood (s : State) (d : Delta) : Bool :=
  let h := s.deltaHead d
  leNat (h.drop 60) == crc32c (h.take 60)
    && leNat ((h.drop 36).take 4) == crc32c ((List.range d.nblk).flatMap (s.deltaBlock d))

/-- The tail advances over freed records only (R406). -/
def dropFreed (s : State) : State := { s with fab := { s.fab with deltas := s.fab.deltas.dropWhile (fun d => d.freed) } }

/-- Records turn VOID in the log, and their room is free. -/
def voidRecords (which : Delta → Bool) (s : State) : State :=
  let s1 := forEach (s.fab.deltas.filter (fun d => which d && !d.freed)) (fun d t =>
    let h := ((t.deltaHead d).take 60).set 4 2
    writeBytes (logPage d.place) (h ++ leBytes 4 (crc32c h)) t) s
  dropFreed { s1 with fab := { s1.fab with deltas := s1.fab.deltas.map (fun d => if which d then { d with freed := true } else d) } }

/-- A write to the volume completes with PARITY_DEFERRED (R410). -/
def State.parityDeferred (s : State) (v : Nat) : Bool :=
  match s.groupOfVol v with
  | none => false
  | some (g, _) => g.stale || !s.nodeServing g.parity.1

/-- A group changed. -/
def onGroup (id : Nat) (f : FlockGroup → FlockGroup) (s : State) : State :=
  { s with fab := { s.fab with groups := s.fab.groups.map (fun g => if g.id = id then f g else g) } }

/-- The 64 header bytes of a VALID record (R406), with the CRC of its data. -/
def deltaRecord (member nblk group dseq lba intentSeq crc : Nat) : List Nat :=
  let h := [0x44, 0x44, 0x4C, 0x31, 1, member % 256] ++ leBytes 2 nblk ++ leBytes 8 group ++ leBytes 8 dseq ++ leBytes 8 lba
    ++ leBytes 4 intentSeq ++ leBytes 4 crc ++ List.replicate 20 0
  h ++ leBytes 4 (crc32c h)

/-- The header bytes of a record with its data. -/
def deltaHeader (d : Delta) (data : List Block) : List Nat :=
  deltaRecord d.member d.nblk d.group d.dseq d.lba d.intentSeq (crc32c (data.flatMap (leBytes 4096)))

/-- A record is written at the head of the log: a page with its header, then a page for each block. -/
def writeDelta (d : Delta) (data : List Block) (s : State) : State :=
  let s1 := writeBytes (logPage s.fab.deltaNext) (deltaHeader d data ++ List.replicate 4032 0) s
  let s2 := forEach data.zipIdx (fun b t => writeBytes (logPage (s.fab.deltaNext + 1 + b.2)) (leBytes 4096 b.1) t) s1
  { s2 with fab := { s2.fab with deltas := s2.fab.deltas ++ [{ d with place := s.fab.deltaNext }], deltaNext := s.fab.deltaNext + d.pages } }

/-- The address that a group's records go to, where its parity node serves and is reachable (R407). -/
def State.shipTo (s : State) (id : Nat) : Option Nat :=
  match s.fab.groups.find? (fun g => g.id == id) with
  | none => none
  | some g => if s.nodeServing g.parity.1 then (s.nodeAddr g.parity.1).filter s.reach else none

/-- A record goes out as it stands in the log: its header, then its blocks, with the low bits of DSEQ as XSEQ. -/
def shipDelta (a : Nat) (d : Delta) (s : State) : State :=
  forEach (List.range d.nblk) (fun b t => sendFrame .deltaData a d.dseq (s.deltaBlock d b) t) (sendFrame .deltaDesc a 0 (s.deltaHead d) s)

/-- Records not yet shipped, and with `again` unacknowledged ones too, go out oldest first (R407). -/
def shipDeltas (again : Bool) (s : State) : State :=
  let go (d : Delta) : Bool := !d.freed && (again || !d.shipped) && (s.shipTo d.group).isSome
  let s1 := forEach (s.fab.deltas.filter go) (fun d t => match s.shipTo d.group with | some a => shipDelta a d t | none => t) s
  { s1 with fab := { s1.fab with deltas := s1.fab.deltas.map (fun d => if go d then { d with shipped := true } else d) } }

/-- A group turns stale (R409): its records are voided, and a GROUP frame floods the change. -/
def markStale (id : Nat) (s : State) : State :=
  let s1 := onGroup id (fun g => { g with stale := true, front := none }) s
  hostEvent 4 (floodFrame .group none [2, id] (voidRecords (fun d => d.group == id) s1))

/-- The wake request of R408: the log has reached 90 %. -/
def wakeParity (s : State) : State :=
  if s.logUsed * 10 < logPages * 9 then s
  else match s.fab.deltas.find? (fun d => !d.shipped && !d.freed) with
    | none => s
    | some d =>
      match (s.fab.groups.find? (fun g => g.id == d.group)).bind (fun g => s.nodeAddr g.parity.1) with
      | some a => sendFrame .wakeReq a 0 [] s
      | none => s

/-- Blocks of a volume for which deltas are logged: none while the group is stale, and only those below F during a resync. -/
def FlockGroup.logs (g : FlockGroup) (lba : Nat) : Bool :=
  match g.front with
  | some f => decide (lba < f)
  | none => !g.stale

/-- Records of old ⊕ new for some units of a volume, in order: first block and delta blocks of each. -/
def logDeltas (v intentSeq : Nat) (units : List (Nat × List Block)) (s : State) : State :=
  match s.groupOfVol v with
  | none => s
  | some (g, i) =>
    let s1 := forEach (units.filter (fun u => g.logs u.1)) (fun u t =>
      let seq := match t.fab.groups.find? (fun x => x.id == g.id) with | some x => Assoc.getD x.nextSeq i 1 | none => 1
      let t1 := onGroup g.id (fun x => { x with nextSeq := Assoc.set x.nextSeq i (seq + 1) }) t
      writeDelta { group := g.id, member := i, dseq := seq, lba := u.1, nblk := u.2.length, intentSeq := intentSeq, place := 0 } u.2 t1) s
    shipDeltas false (wakeParity s1)

/-- A row of a member volume admits no write-back while a chunk of it is read for its group (R411). -/
def State.rowGated (s : State) (n row : Nat) : Bool :=
  match s.volAt n row with
  | none => false
  | some v =>
    match s.groupOfVol v with
    | none => false
    | some (g, _) =>
      let full := (s.geo n).dataCount * (s.geo n).unitBlocks
      let lo := s.lbaAt v row 0 0
      s.fab.gates.any (fun x => x.1 == g.id && decide (x.2 < lo + full) && decide (lo < x.2 + 64))

/-- Whether the records of some units fit in the log (R408). -/
def State.deltasFit (s : State) (v : Nat) (units : List (Nat × Nat)) : Bool :=
  match s.groupOfVol v with
  | none => true
  | some (g, _) =>
    decide (s.logUsed + ((units.filter (fun u => g.logs u.1)).map (fun u => 1 + u.2)).sum ≤ logPages)

end Sys2Proof.Machine
end

