-- ==== Sys2Proof/Machine/Oxe.lean ====
section
/-! DEFINITION. The Ox engines (chapter 03): engine states, rings and the scheduler, the coefficient RAM, known-answer tests and
the accumulator window. What a job computes is in Jobs.lean. -/

namespace Sys2Proof.Machine

/-! Engines -/

/-- Every engine. -/
def allEngines : List Nat := List.range 28

/-- An engine's record. -/
def State.eng (s : State) (e : Nat) : Engine := Assoc.getD s.oxe.engines e {}

/-- Its island, for an engine number below 28. -/
def engIsland (e : Nat) : Island := if h : e < 28 then .ox ⟨e, h⟩ else .qmx

/-- An engine's state and record changed; the island of a spare engine is clock-gated, that of any other runs (R106). -/
def setEng (e st : Nat) (s : State) : State :=
  let others := s.sys.gated.filter (fun i => i != engIsland e)
  setF (engField e) st { s with sys := { s.sys with gated := if st = EngSt.spare then others ++ [engIsland e] else others } }
def onEng (e : Nat) (f : Engine → Engine) (s : State) : State :=
  { s with oxe := { s.oxe with engines := Assoc.set s.oxe.engines e (f (s.eng e)) } }

/-- Engines in service. -/
def State.inService (s : State) : List Nat := allEngines.filter (fun e => s.engState e == EngSt.inService)

/-- Which run of a job an engine has: 0 primary, 1 shadow, 2 third run. -/
def Job.runOn (j : Job) (e : Nat) : Nat := if j.engine = some e then 0 else if j.shadow = some e then 1 else 2

/-- A job leaves the engine that a run of it was given to. -/
def Job.unplaced (j : Job) (run : Nat) : Job :=
  if run = 0 then { j with engine := none } else if run = 1 then { j with shadow := none } else { j with arbiter := none }

/-- The engine's queued jobs return to the front of the dispatch order (R100); the running one stays. -/
def returnQueue (e : Nat) (s : State) : State :=
  let g := s.eng e
  let back := if g.running then g.queue.drop 1 else g.queue
  let s1 := onEng e (fun x => { x with queue := if g.running then g.queue.take 1 else [] }) s
  let runs := back.filterMap (fun j => (Assoc.find s.oxe.jobs j).map (fun x => (j, x.runOn e)))
  { s1 with oxe := { s1.oxe with
      returned := runs ++ s1.oxe.returned
      jobs := s1.oxe.jobs.map (fun p => match runs.find? (fun r => r.1 == p.1) with | some r => (p.1, p.2.unplaced r.2) | none => p) } }

/-- The scheduler keeps TARGET engines in service (R108): spares, lowest number first, are tested to come in while there are too few, and
the highest-numbered engines that run no job become spares while there are too many (log entry 108). -/
def fillTarget : Nat → State → State
  | 0, s => s
  | n + 1, s =>
    let target := max 1 (s.get Reg.OXE_CTRL_TARGET)
    let coming := (allEngines.filter (fun e => s.engState e == EngSt.testing && (s.eng e).testFor == 2)).length
    if s.inService.length + coming < target then
      match allEngines.find? (fun e => s.engState e == EngSt.spare) with
      | none => s
      | some e => fillTarget n (ungate (engIsland e) (setEng e EngSt.testing (onEng e (fun x => { x with testFor := 2, back := EngSt.inService }) s)))
    else if target < s.inService.length then
      match s.inService.reverse.find? (fun e => !(s.eng e).running) with
      | none => s
      | some e => fillTarget n (setEng e EngSt.spare (onEng e (fun x => { x with buffer := none }) (returnQueue e s)))
    else s

/-- The number of engines in service is brought to TARGET as far as it can be. -/
def keepTarget (s : State) : State := fillTarget 28 s

/-- An engine retires (R106, R108, R462): its island with it; a spare comes in; below 12 in service the module gives up. -/
def retireEngine (e : Nat) (s : State) : State :=
  if s.engState e = EngSt.retired then s
  else
    -- A test for a shadow mismatch that the retirement cuts short counts as failed (R105; log entry 109).
    let s1 := returnQueue e (onEng e (fun x => { x with
      running := false, retireDue := false, testFor := 0, testPassed := if x.testFor = 3 then some false else x.testPassed }) s)
    let s2 := event Reg.OXE_EVENT_ENGINE_RETIRED Reg.OXE_RETIRE_CNT (setEng e EngSt.retired s1)
    let s3 := pushRecord 5 0x21 e 1 0 (retireIsland (engIsland e) s2)
    keepTarget (when (decide (s3.inService.length < 12)) (raiseFault 2) s3)

/-- An engine with PAUSE set and no job running is taken out of dispatch; one without it comes back (R100). -/
def settlePause (e : Nat) (s : State) : State :=
  let g := s.eng e
  keepTarget (
    if s.on (Reg.OXE_ENG_CTRL_PAUSE e) then
      (if s.engState e = EngSt.inService ∧ !g.running then setEng e EngSt.paused (returnQueue e s) else s)
    else if s.engState e = EngSt.paused then setEng e EngSt.inService s else s)

/-- An engine comes back into service after a test, or into PAUSED where PAUSE is set. -/
def backInService (e : Nat) (s : State) : State := settlePause e (setEng e EngSt.inService s)

/-- What waited for the end of an engine's running job (R100, R108). -/
def settleEngine (e : Nat) (s : State) : State :=
  if (s.eng e).running then s else if (s.eng e).retireDue then retireEngine e s else settlePause e s

/-! Jobs and rings -/

def State.job? (s : State) (j : Nat) : Option Job := Assoc.find s.oxe.jobs j

/-- A job changed. -/
def onJob (j : Nat) (f : Job → Job) (s : State) : State :=
  match s.job? j with
  | none => s
  | some x => { s with oxe := { s.oxe with jobs := Assoc.set s.oxe.jobs j (f x) } }

/-- Jobs of a ring fetched and not completed. -/
def State.ringOut (s : State) (r : Nat) : Nat :=
  (s.oxe.jobs.filter (fun p => p.2.ring == r && !s.oxe.arbitrating.contains p.1)).length

/-- Entries of a ring. -/
def State.ringSize (s : State) (r : Nat) : Nat := s.get (Reg.OXE_RING_CFG_SIZE_M1 r) + 1

/-- Free entries of the completion ring, one of which always stays unused. -/
def State.ringRoom (s : State) (r : Nat) : Nat :=
  let n := s.ringSize r
  n - 1 - (s.get (Reg.OXE_RING_CQ_TAIL_CQ_TAIL r) + n - s.get (Reg.OXE_RING_CQ_HEAD_CQ_HEAD r)) % n

/-- Jobs that the stripe manager has written into ring 0 or 1, by their places. -/
def State.writtenOf (s : State) (r : Nat) : List (Nat × Job) := Assoc.getD s.oxe.written r []

/-- Output count of a job. -/
def Job.nout (j : Job) : Nat := j.outRow.length

/-- The 64 bytes of a descriptor (R87) whose lists lie at two addresses. -/
def Job.bytes (j : Job) (srcList dstList : Nat) : List Nat :=
  let flags := b2n j.field16 + 2 * b2n j.shadowForce + 4 * b2n j.shadowNever + 8 * b2n j.irq + 16 * b2n j.fence
  [j.op, flags] ++ leBytes 2 j.tag ++ [j.srcs.length - 1, j.nout - 1, j.slot, j.array] ++ leBytes 8 j.row ++ leBytes 2 (j.len - 1)
    ++ [j.phase, j.pairs, 0, 0, 0, 0] ++ leBytes 8 srcList ++ leBytes 8 dstList
    ++ (List.range 16).map (fun o => j.outRow.getD o 0) ++ List.replicate 8 0

/-- The ring has no free entry (R96). -/
def State.ringFull (s : State) (r : Nat) : Bool :=
  (s.get (Reg.OXE_RING_TAIL_TAIL r) + 1) % s.ringSize r == s.get (Reg.OXE_RING_HEAD_HEAD r)

/-- A job of the stripe manager is written into its ring, and TAIL after it (R96). The addresses of its lists are free values; what stands in
them is kept with the job (log entry 16). -/
def placeJob (j : Job) (s : State) : State :=
  let r := j.ring
  let t := s.get (Reg.OXE_RING_TAIL_TAIL r)
  let base := s.get64 (Reg.OXE_RING_BASE_LO_BASE r) (Reg.OXE_RING_BASE_HI_BASE r)
  let s1 := useFree (writeBytes (base + 64 * t) (j.bytes (64 * s.freeVal 30) (64 * ((s.freeVal 30 + 64) % 2 ^ 30))) s)
  setF (Reg.OXE_RING_TAIL_TAIL r) ((t + 1) % s.ringSize r)
    { s1 with oxe := { s1.oxe with written := Assoc.set s1.oxe.written r (s.writtenOf r ++ [(t, j)]) } }

/-- A job of the stripe manager goes into its ring, where there is room for it and no other waits. -/
def postJob (j : Job) (s : State) : State :=
  let waits := Assoc.getD s.oxe.backlog j.ring []
  if s.ringFull j.ring || !waits.isEmpty then
    { s with oxe := { s.oxe with backlog := Assoc.put s.oxe.backlog [] j.ring (waits ++ [j]) } }
  else placeJob j s

/-- Jobs that wait for room in a ring go into it as far as they can. -/
def refillRing (r : Nat) (s : State) : State :=
  forEach (Assoc.getD s.oxe.backlog r []) (fun j t =>
    if t.ringFull r then t
    else placeJob j { t with oxe := { t.oxe with backlog := Assoc.put t.oxe.backlog [] r ((Assoc.getD t.oxe.backlog r []).drop 1) } }) s

/-- A source and a destination entry read from memory (R88, R89). -/
def State.readSrc (s : State) (a : Nat) : Src :=
  let f := (s.readByte (a + 9)).toNat
  ⟨leNat (s.readBytes a 8), (s.readByte (a + 8)).toNat, bitOf f 0 == 1, bitOf f 1 == 1, (s.readByte (a + 10)).toNat,
    (s.readByte (a + 11)).toNat⟩
def State.readDst (s : State) (a : Nat) : Dst :=
  let f := (s.readByte (a + 9)).toNat
  ⟨leNat (s.readBytes a 8), (s.readByte (a + 8)).toNat, bitOf f 0 == 1, bitOf f 1 == 1, leNat (s.readBytes (a + 12) 4)⟩

/-- A descriptor read from memory (R87). An OUTROW byte above 15 counts by its low four bits, and addresses are used as they are given,
aligned or not (log entry 110). -/
def State.readJob (s : State) (r a : Nat) : Job :=
  let b (i : Nat) : Nat := (s.readByte (a + i)).toNat
  let f := b 1
  let nsrc := bits (b 4) 0 7 + 1
  let nout := bits (b 5) 0 4 + 1
  let sl := leNat (s.readBytes (a + 24) 8)
  let dl := leNat (s.readBytes (a + 32) 8)
  let srcs := (List.range nsrc).map (fun i => s.readSrc (sl + 16 * i))
  let npass := (srcs.filter (fun x => x.pass)).length
  { ring := r, owner := .firmware, op := bits (b 0) 0 4, field16 := bitOf f 0 == 1, shadowForce := bitOf f 1 == 1,
    shadowNever := bitOf f 2 == 1, irq := bitOf f 3 == 1, fence := bitOf f 4 == 1, tag := leNat (s.readBytes (a + 2) 2),
    slot := bits (b 6) 0 7, array := bits (b 7) 0 2, row := leNat (s.readBytes (a + 8) 5), len := b 16 + 1,
    phase := b 18, pairs := b 19, srcs := srcs, dsts := (List.range (nout + npass)).map (fun i => s.readDst (dl + 16 * i)),
    outRow := (List.range nout).map (fun o => bits (b (40 + o)) 0 4) }

/-- The checks of R91. -/
def State.jobOk (s : State) (j : Job) : Bool :=
  let inDram (a : Nat) : Bool := decide (a + 4096 * j.len ≤ 2 ^ 36)
  let idx := (j.srcs.filter (fun x => x.pass)).map (fun x => x.passIdx)
  let nsrc := j.srcs.length
  let q := nsrc - 2 * j.pairs
  decide (1 ≤ j.op) && decide (j.op ≤ 5) && decide (j.len ≤ 256)
    && j.srcs.all (fun x => decide (x.kind ≤ 2) && (x.kind != 0 || inDram x.addr))
    && j.dsts.all (fun x => decide (x.kind ≤ 2) && (x.kind != 0 || inDram x.addr))
    && idx.all (fun i => decide (j.nout ≤ i) && decide (i < j.dsts.length)) && idx.Nodup
    && (j.op != 3 || (decide (1 ≤ j.pairs) && decide (j.pairs ≤ 63) && decide (2 * j.pairs ≤ nsrc) && decide (q ≤ j.nout)))
    && (j.op != 4 || decide (j.nout < nsrc))
    && (j.op != 5 || (nsrc == 1 && decide (j.nout ≤ 4)))
    && (j.op != 2 || s.on (Reg.STP_ARRAY_CFG_VALID j.array))

/-- The completion record of a job (R93), with the counters and the flag of R94. -/
def recordJob (j : Job) (engine status mismatch detail : Nat) (s : State) : State :=
  let r := j.ring
  let n := s.ringSize r
  let t := s.get (Reg.OXE_RING_CQ_TAIL_CQ_TAIL r)
  let phase := Assoc.getD s.oxe.phases r 1
  let base := s.get64 (Reg.OXE_RING_CQ_BASE_LO_BASE r) (Reg.OXE_RING_CQ_BASE_HI_BASE r)
  let bytes := leBytes 2 j.tag ++ [status, engine + (if j.shadowed then 128 else 0)] ++ leBytes 2 mismatch ++ [0, 0]
    ++ leBytes 4 detail ++ [0, 0, 0, phase]
  let t' := (t + 1) % n
  let s1 := setF (Reg.OXE_RING_CQ_TAIL_CQ_TAIL r) t' (writeBytes (base + 16 * t) bytes s)
  let s2 := when (t + 1 == n) (fun u => { u with oxe := { u.oxe with phases := Assoc.set u.oxe.phases r (1 - phase) } }) s1
  let s3 := when (decide (r < 2)) (setF (Reg.OXE_RING_CQ_HEAD_CQ_HEAD r) t') s2
  let s4 := when j.irq (fun u => event (Reg.OXE_RING_STATUS_DONE r) (Reg.OXE_RING_DONE_CNT r) u) s3
  let s5 := when (status == 1) (event Reg.OXE_EVENT_DESC_ERROR Reg.OXE_DESC_ERROR_CNT) s4
  bump Reg.OXE_JOB_CNT s5

/-- A job leaves the scheduler. -/
def dropJob (j : Nat) (s : State) : State := { s with oxe := { s.oxe with jobs := Assoc.erase s.oxe.jobs j } }

/-! Dispatch (R97 to R99, R103) -/

/-- The ring has a job to fetch (R97). -/
def State.hasHead (s : State) (r : Nat) : Bool := s.get (Reg.OXE_RING_HEAD_HEAD r) != s.get (Reg.OXE_RING_TAIL_TAIL r)

/-- The head job of a ring: the one that the stripe manager has written there, else what memory holds. -/
def State.headJob (s : State) (r : Nat) : Job :=
  let h := s.get (Reg.OXE_RING_HEAD_HEAD r)
  let base := s.get64 (Reg.OXE_RING_BASE_LO_BASE r) (Reg.OXE_RING_BASE_HI_BASE r)
  match (s.writtenOf r).find? (fun p => p.1 == h) with
  | some p => p.2
  | none => s.readJob r (base + 64 * h)

/-- A ring is ready (R97). -/
def State.ringReady (s : State) (r : Nat) : Bool :=
  s.on (Reg.OXE_RING_CFG_ENABLE r) && s.hasHead r
    && decide (s.ringOut r < s.ringRoom r)
    && (!(s.headJob r).fence || s.ringOut r == 0)

/-- Effective class of a ring (R98). -/
def State.ringClass (s : State) (r : Nat) : Nat := s.get (Reg.OXE_RING_CFG_CLASS r) - Assoc.getD s.oxe.risen r 0

/-- The next ready ring of a class, round robin. -/
def State.nextRing (s : State) (cls : Nat) : Option Nat :=
  let last := Assoc.getD s.oxe.lastRing cls 15
  ((List.range 16).map (fun i => (last + 1 + i) % 16)).find? (fun r => s.ringReady r && s.ringClass r == cls)

/-- Jobs that wait in an engine's queue; the one that runs has left it (R99, R100). -/
def State.queued (s : State) (e : Nat) : Nat := (s.eng e).queue.length - b2n (s.eng e).running

/-- The engine of a set with the fewest queued jobs; ties go to a buffer that holds the slot, then to the lowest number. -/
def State.fewest (s : State) (slot : Nat) (set' : List Nat) : Option Nat :=
  let cost (e : Nat) : Nat := 2 * s.queued e + (if (s.eng e).buffer = some slot then 0 else 1)
  earliest cost set'

/-- The engines that may run a job of a ring, some left out, and whether the mask had to be passed over. -/
def State.engineSet (s : State) (r : Nat) (without : List Nat) : List Nat × Bool :=
  let live := s.inService.filter (fun e => !without.contains e)
  let masked := live.filter (fun e => bitOf (s.get (Reg.OXE_RING_MASK_MASK r)) e == 1)
  (if masked.isEmpty then live else masked, masked.isEmpty)

/-- Engines of a set with room for one more job. -/
def State.withRoom (s : State) (l : List Nat) : List Nat := l.filter (fun e => decide (s.queued e < 4))

/-- A job is queued on an engine. -/
def enqueue (e j : Nat) (s : State) : State := onEng e (fun x => { x with queue := x.queue ++ [j] }) s

/-- Shadow eligibility and selection (R103). -/
def Job.eligible (j : Job) : Bool := j.srcs.all (fun x => x.kind != 1) && j.op != 5 && !j.shadowNever
def State.shadowDue (s : State) (j : Job) (count : Nat) : Bool :=
  let sh := s.get Reg.OXE_CTRL_SHADOW_SHIFT
  j.shadowForce || (decide (sh ≤ 7) && count % 2 ^ sh == 0)

/-- The head of a ring is fetched: HEAD advances and its promotion ends. -/
def fetchHead (r : Nat) (s : State) : State :=
  let s1 := setF (Reg.OXE_RING_HEAD_HEAD r) ((s.get (Reg.OXE_RING_HEAD_HEAD r) + 1) % s.ringSize r) s
  refillRing r { s1 with oxe := { s1.oxe with
      written := Assoc.put s1.oxe.written [] r ((s.writtenOf r).filter (fun p => p.1 != s.get (Reg.OXE_RING_HEAD_HEAD r))),
      risen := Assoc.erase s1.oxe.risen r } }

/-- A run returned to the front of the dispatch order and not held by its fence (R100). -/
def State.returnedNext (s : State) : Option ((Nat × Nat) × Job) :=
  (s.oxe.returned.filterMap (fun p => (s.job? p.1).map (fun x => (p, x)))).find? (fun p =>
    !p.2.fence || (s.oxe.jobs.all (fun q => q.1 == p.1.1 || q.2.ring != p.2.ring || decide (p.1.1 < q.1))))

/-- The engines that a run of a job must avoid (R103, R104): those of its other runs. -/
def Job.avoid (j : Job) (run : Nat) : List Nat :=
  (if run = 0 then [] else j.engine.toList) ++ (if run = 1 then [] else j.shadow.toList) ++ (if run = 2 then [] else j.arbiter.toList)

/-- A run of a job is queued on an engine of its set with room, if there is one. That such a run passes over its ring's mask sets no
MASK_FALLBACK (log entry 111). -/
def placeRun (id run : Nat) (j : Job) (s : State) : Option State :=
  match s.fewest j.slot (s.withRoom (s.engineSet j.ring (j.avoid run)).1) with
  | none => none
  | some e => some (enqueue e id (onJob id (fun x =>
      if run = 0 then { x with engine := some e } else if run = 1 then { x with shadow := some e }
      else { x with arbiter := some e }) s))

/-- A dispatched job is shadowed where R103 says so and a second engine is in service; the shadow waits at the front of the dispatch order
until an engine has room for it (R99; log entry 75). -/
def maybeShadow (id : Nat) (j : Job) (s : State) : State :=
  if !j.eligible then s
  else
    let s1 : State := { s with oxe := { s.oxe with eligible := s.oxe.eligible + 1 } }
    if !s1.shadowDue j s1.oxe.eligible || (s1.engineSet j.ring (j.avoid 1)).1.isEmpty then s1
    else
      let s2 := bump Reg.OXE_SHADOW_JOB_CNT (onJob id (fun x => { x with shadowed := true }) s1)
      match placeRun id 1 j s2 with
      | some t => t
      | none => { s2 with oxe := { s2.oxe with returned := s2.oxe.returned ++ [(id, 1)] } }

/-- One dispatch decision (R99). A returned run comes first. No engine runs a descriptor that fails R91: its record names the engine that R99
would have chosen (log entry 112). -/
def dispatchOnce (s : State) : State :=
  if !s.on Reg.OXE_CTRL_ENABLE then s
  else match s.returnedNext with
    | some ((id, run), j) =>
      (match placeRun id run j s with
       | none => s
       | some s1 => { s1 with oxe := { s1.oxe with returned := s1.oxe.returned.filter (fun p => p != (id, run)) } })
    | none =>
      match [0, 1, 2, 3].findSome? (fun c => (s.nextRing c).map (fun r => (c, r))) with
      | none => s
      | some (c, r) =>
        let es := s.engineSet r []
        let s1 := when es.2 (setF (Reg.OXE_RING_STATUS_MASK_FALLBACK r) 1) s
        let j := s.headJob r
        match s.fewest j.slot (s.withRoom es.1) with
        | none => s1
        | some e =>
          let s2 := when es.2 (bump (Reg.OXE_RING_FALLBACK_CNT r)) (fetchHead r s1)
          let s3 : State := { s2 with oxe := { s2.oxe with lastRing := Assoc.set s2.oxe.lastRing c r } }
          if !s.jobOk j then recordJob j e 1 0 0 s3
          else
            let id := s3.oxe.nextJob
            let x : Job := { j with engine := some e }
            let s4 : State := { s3 with oxe := { s3.oxe with jobs := Assoc.set s3.oxe.jobs id x, nextJob := id + 1 } }
            maybeShadow id x (enqueue e id s4)

/-- RING_TAIL_WRITE (R96): a TAIL above SIZE_M1 is ignored and counted. -/
def execRingTailWrite (r : Fin 16) (tail : Nat) (s : State) : Result :=
  land (0x41018 + 0x40 * r.val) (.ringTailWrite r tail) (fun t =>
    if t.get (Reg.OXE_RING_CFG_SIZE_M1 r.val) < tail then ignored 7 0 t else setF (Reg.OXE_RING_TAIL_TAIL r.val) tail t) s

/-- JOB_DISPATCH (R99). -/
def execJobDispatch (s : State) : Result := .next (dispatchOnce s)

/-- JOB_AGE_PROMOTION (R98): a head job that has waited a further LIMIT rises one class. -/
def execJobAgePromotion (r : Fin 16) (s : State) : Result :=
  if s.on Reg.OXE_AGE_LIMIT && s.hasHead r.val && decide (0 < s.ringClass r.val) then
    .next { s with oxe := { s.oxe with risen := Assoc.set s.oxe.risen r.val (Assoc.getD s.oxe.risen r.val 0 + 1) } }
  else .next s

/-! The coefficient RAM (R82 to R86) -/

/-- The number of a matrix entry. -/
def coefKey (slot row col : Nat) : Nat := slot * 2048 + row * 128 + col

/-- A matrix entry; an entry never written reads 0 (log entry 7). -/
def State.coefAt (s : State) (slot row col : Nat) : Nat := Assoc.getD s.oxe.coef (coefKey slot row col) 0

/-- Entry k of the RAM written; engines whose buffer holds its slot copy it again (R84). -/
def writeCoef (k v : Nat) (s : State) : State :=
  { s with oxe := { s.oxe with
      coef := Assoc.put s.oxe.coef 0 k (v % 65536),
      engines := s.oxe.engines.map (fun p => if p.2.buffer = some (k / 2048) then (p.1, { p.2 with buffer := none }) else p) } }

/-- COEF_DATA_ACCESS (R83): two entries at ADDR, which then advances by 4 and wraps at 512 KiB. -/
def execCoefDataAccess (write : Option Word) (s : State) : Result :=
  land 0x40084 (.coefDataAccess write) (fun t =>
    let k := 2 * t.get Reg.OXE_COEF_ADDR_ADDR
    let t1 := match write with
      | some v => writeCoef (k + 1) (v.toNat / 65536) (writeCoef k v.toNat t)
      | none => emit (.readValue (Assoc.getD t.oxe.coef k 0 + 65536 * Assoc.getD t.oxe.coef (k + 1) 0)) t
    setF Reg.OXE_COEF_ADDR_ADDR (t.get Reg.OXE_COEF_ADDR_ADDR + 1) t1) s

/-- Parity roles of an array in the row order of its encode matrix (R86). -/
def Geo.parities (g : Geo) : List Role :=
  if g.layout = 2 then [.par 0, .glob 0] else (List.range g.groups).map .par ++ (List.range g.globals).map .glob

/-- The matrix row of a parity role. -/
def Geo.matrixRow (g : Geo) (r : Role) : Nat := g.parities.idxOf r

/-- The firmware loads the encode matrix of an array into its slot, and row 0 of slot 4 with ones (R86). -/
def loadEncode (n : Nat) (s : State) : State :=
  let g := s.geo n
  let s1 := forEach (List.range g.parities.length) (fun o t =>
    forEach (List.range g.dataCount) (fun d u => writeCoef (coefKey n o d) (g.roleCoef (g.parities.getD o (.par 0)) d) u) t) s
  forEach (List.range 128) (fun c t => writeCoef (coefKey 4 0 c) 1 t) s1

/-! Engine commands -/

/-- Coefficients that a job uses, captured at its start (R84). A COLUMN above 127 names entries of the next row (log entry 113). -/
def State.captureCoef (s : State) (j : Job) : List (Nat × Nat) :=
  (List.range j.nout).flatMap (fun o => j.srcs.map (fun x =>
    (o * 128 + x.column, s.coefAt j.slot (j.outRow.getD o 0) x.column)))

/-- The phase check of a DECODE job (R92): `none` while the evaluation runs. -/
def State.decodeCheck (s : State) (j : Job) : Option Bool :=
  if j.op != 2 then some true
  else if s.on (Reg.STP_ARRAY_EVAL_BUSY j.array) then none
  else
    let b := if (s.geo j.array).layout = 2 then 0 else j.phase
    some (bitOf (s.get (Reg.STP_ARRAY_EVAL_PHASE_FAIL j.array)) b == 0)

/-- ENGINE_PAUSE (R100). -/
def execEnginePause (e : Fin 28) (pause : Bool) (s : State) : Result :=
  land (0x48000 + 0x100 * e.val) (.enginePause e pause) (fun t =>
    settlePause e.val (setF (Reg.OXE_ENG_CTRL_PAUSE e.val) (b2n pause) t)) s

/-- ENGINE_RETIRE (R100, R108). -/
def execEngineRetire (e : Fin 28) (s : State) : Result :=
  land (0x48000 + 0x100 * e.val) (.engineRetire e) (fun t =>
    settle (settleEngine e.val (setF (Reg.OXE_ENG_CTRL_RETIRE e.val) 1 (onEng e.val (fun x => { x with retireDue := true }) t)))) s

/-- ENGINE_TEST (R107): accepted in SPARE, or in PAUSED with an empty queue. -/
def execEngineTest (e : Fin 28) (s : State) : Result :=
  land (0x48000 + 0x100 * e.val) (.engineTest e) (fun t =>
    let st := t.engState e.val
    if st = EngSt.spare ∨ (st = EngSt.paused ∧ (t.eng e.val).queue = []) then
      let t1 := setF (Reg.OXE_ENG_INFO_TEST_DONE e.val) 0 (setF (Reg.OXE_ENG_CTRL_TEST e.val) 1 t)
      setEng e.val EngSt.testing (onEng e.val (fun x => { x with testFor := 1, back := st }) t1)
    else ignored 6 0 t) s

/-- A spare enters service (R108). -/
def spareIn (e : Nat) (s : State) : State :=
  pushRecord 6 0x21 e 0 0 (event Reg.OXE_EVENT_SPARE_IN Reg.OXE_SPARE_IN_CNT (backInService e s))

/-- KAT_DONE (R107, R108): the result is shown; a spare enters service or is retired, a quarantined engine waits for the
arbitration, any other returns to the state it was tested in. -/
def execKatDone (e : Fin 28) (pass : Bool) (s : State) : Result :=
  let n := e.val
  let g := s.eng n
  if g.testFor = 0 then .next s
  else
    let s1 := setF (Reg.OXE_ENG_INFO_TEST_PASS n) (b2n pass) (setF (Reg.OXE_ENG_INFO_TEST_DONE n) 1
      (setF (Reg.OXE_ENG_CTRL_TEST n) 0 s))
    if g.testFor = 3 then .next (onEng n (fun x => { x with testPassed := some pass }) s1)
    else
      let s2 := onEng n (fun x => { x with testFor := 0 }) s1
      if g.testFor = 2 then .next (settle (if pass then spareIn n s2 else retireEngine n s2))
      else if g.back = EngSt.spare then
        .next (settle (if pass then keepTarget (setEng n EngSt.spare s2) else retireEngine n s2))
      else .next (settlePause n (setEng n EngSt.paused s2))

/-- A strike is charged; the second within 24 h retires the engine (R105). -/
def strike (e : Nat) (s : State) : State :=
  let recent := s.within (sec 86400) (s.eng e).strikes
  let s1 := bump (Reg.OXE_ENG_STRIKE_CNT e) (onEng e (fun x => { x with strikes := s.clock :: recent }) s)
  if recent.isEmpty then s1 else retireEngine e s1

/-- An engine leaves quarantine for service, unless it has been retired. -/
def leaveQuarantine (e : Nat) (s : State) : State :=
  let s1 := onEng e (fun x => { x with testFor := 0, testPassed := none }) s
  if s.engState e = EngSt.quarantined then backInService e s1 else s1

/-- Two runs show the same: digests of their outputs and MISMATCH (R104). -/
def RunEnd.agrees (a b : RunEnd) : Bool := a.digests == b.digests && a.mismatch == b.mismatch

/-- The job whose mismatch on two engines is under arbitration (R105): quarantined engines take no other job. -/
def State.arbitration (s : State) (a b : Nat) : Option (Nat × Job) :=
  (s.oxe.arbitrating.filterMap (fun id => (s.job? id).map (fun j => (id, j)))).find? (fun p => p.2.engine == some a && p.2.shadow == some b)

/-- SHADOW_ARBITRATION_DONE (R105): both tests and the third run have ended, and what the third run shows is compared with the other two. -/
def execShadowArbitrationDone (primary shadow : Fin 28) (s : State) : Result :=
  let a := primary.val
  let b := shadow.val
  match s.arbitration a b with
  | none => .next s
  | some (job, j) =>
    match Assoc.find j.ended 2, (s.eng a).testPassed, (s.eng b).testPassed with
    | some third, some pa, some pb =>
      let like (run : Nat) : Bool := match Assoc.find j.ended run with | some r => third.agrees r | none => false
      let s1 := dropJob job { s with oxe := { s.oxe with arbitrating := remove s.oxe.arbitrating job } }
      let s2 := leaveQuarantine b (leaveQuarantine a s1)
      let s3 :=
        if !pa || !pb then when (!pb) (retireEngine b) (when (!pa) (retireEngine a) s2)
        else
          let s3 := bump Reg.OXE_SHADOW_TRANSIENT_CNT s2
          if like 0 then strike b s3
          else if like 1 then strike a s3
          else
            let s4 := strike b (strike a s3)
            match j.arbiter with
            | some c => strike c s4
            | none => s4
      .next (settle s3)
    | _, _, _ => .next s

/-- ACCUMULATOR_ACCESS (R109): served while the engine is PAUSED with an empty queue, refused and counted otherwise. A word that
software has not written since the engine's last job reads as a free value (log entry 4). Each access of a 32-bit word counts, so that a
refused access of 64 bits counts twice (log entry 114). -/
def execAccumulatorAccess (e : Fin 28) (off : Nat) (write : Option Word) (s : State) : Result :=
  let n := e.val
  let w := off % 0x100000 / 4
  if s.engState n = EngSt.paused ∧ (s.eng n).queue = [] then
    match write with
    | some v => .next (onEng n (fun x => { x with acc := Assoc.set x.acc w v.toNat }) s)
    | none =>
      match Assoc.find (s.eng n).acc w with
      | some v => .next (emit (.readValue v) s)
      | none => .next (useFree (emit (.readValue (s.freeVal 32)) s))
  else
    let s1 := bump Reg.OXE_ACC_REFUSED_CNT s
    .next (if write.isNone then emit (.readValue 0xFFFFFFFF) s1 else s1)

end Sys2Proof.Machine
end

