-- ==== Sys2Proof/Machine/Ports.lean ====
section
/-! DEFINITION. The SAS ports (R140 to R147, R189, R190): opening member commands, data blocks as they land in DRAM, fault
injection (INT_INJECT), and the lost-block list (R158). -/

namespace Sys2Proof.Machine

/-! Fault injection and landing blocks -/

/-- INT_INJECT is armed with a kind. -/
def State.armed (s : State) (k : Nat) : Bool := s.on Reg.INT_INJECT_GO && s.get Reg.INT_INJECT_KIND == k

/-- The armed fault has been applied: GO clears. -/
def disarm (s : State) : State := setF Reg.INT_INJECT_GO 0 s

/-- A check value of w bits that has been corrupted: any other than its own. -/
def State.spoiled (s : State) (w c : Nat) : Nat := Nat.xor c (1 + s.freeVal w % (2 ^ w - 1))

/-- Blocks land in DRAM, each with its sidecar (R187, R188); an armed kind 3 corrupts the first sidecar written. -/
def landBlocks (bs : List Block) (s : State) : List Line × State :=
  match bs with
  | [] => ([], s)
  | b :: t =>
    if s.armed 3 then
      ({ data := b, sidecar := s.spoiled 32 (crc32c (leBytes 4096 b)) } :: t.map (fun x => { data := x }), useFree (disarm s))
    else ((b :: t).map (fun x => { data := x }), s)

/-! Protection information of the drives (R183, R190) -/

/-- T10 CRC-16 over a block. -/
def t10Guard (b : Block) : Nat := crcMsb 16 0x8BB7 0 (leBytes 4096 b)

/-- The application tag of a member's blocks: its index and its array; a drive in no valid array has none (log entry 115). -/
def State.appTag (s : State) (logical : Nat) : Option Nat :=
  (s.arrayOf logical).map (fun n => (s.geo n).indexOf logical + 256 * n)

/-- Blocks with the protection information that the port generates for them from a drive block address on. -/
def State.tagged (s : State) (logical lba : Nat) (bs : List Block) : List DriveBlock :=
  (bs.zipIdx).map (fun b => ⟨b.1, t10Guard b.1, (s.appTag logical).getD 0, (lba + b.2) % 2 ^ 32⟩)

/-- How the port's check of received blocks ends (R190): the first that fails, and whether its application tag alone does. -/
def State.t10Check (s : State) (c : MemCmd) (bs : List DriveBlock) : Option (Nat × Bool) :=
  let whole (x : DriveBlock × Nat) : Bool := x.1.refTag == (c.lba + x.2) % 2 ^ 32 && x.1.guard == t10Guard x.1.data
  let named (x : DriveBlock × Nat) : Bool := match s.appTag c.logical with | some t => x.1.appTag == t | none => true
  ((bs.zipIdx).find? (fun x => !(whole x && named x))).map (fun x => (c.lba + x.2, whole x))

/-! Opening commands -/

/-- Tags of a slot that are open, wait to be opened, or are kept for a parity that is still to be written (R126). -/
def State.busyTags (s : State) (phys : Nat) : List Nat :=
  ((s.sas.cmds ++ s.sas.unopened).filter (fun c => c.phys == phys)).map (fun c => c.tag)
    ++ (s.jnl.updates.flatMap (fun u => (u.2.tx.filter (fun t => s.physOf t.2.1 == phys)).map (fun t => t.2.2)))

/-- The next tag of the stripe manager, below 0x8000 (R143), that is not in use on a slot. -/
def State.freeTag (s : State) (phys : Nat) : Nat :=
  let busy := s.busyTags phys
  ((List.range (busy.length + 1)).map (fun i => (s.sas.nextTag + i) % 32768)).find? (fun t => !busy.contains t) |>.getD 0

/-- The blocks of an open write go to its drive (R189); an armed kind 5 or 6 corrupts the guard or the application tag of the first. -/
def sendData (c : MemCmd) (s : State) : State :=
  let bs := s.tagged c.logical c.lba c.data
  let bad := s.armed 5 || s.armed 6
  let spoil (b : DriveBlock) : DriveBlock :=
    if s.armed 5 then { b with guard := s.spoiled 16 b.guard } else { b with appTag := s.spoiled 16 b.appTag }
  match bs with
  | [] => s
  | b :: t => emit (.driveData c.phys c.tag (if bad then spoil b :: t else b :: t)) (when bad (fun u => useFree (disarm u)) s)

/-- The drive command goes out, with its blocks where they are at hand. -/
def sendDrive (c : MemCmd) (s : State) : State :=
  sendData c (emit (.drive c.phys (if c.write then .writeFua else .read) c.lba c.nblk []) s)

/-- A job brings the blocks of an open write (R143). -/
def feed (c : MemCmd) (bs : List Block) (s : State) : State :=
  let d : MemCmd := { c with data := bs }
  sendData d { s with sas := { s.sas with cmds := s.sas.cmds.map (fun x => if x.phys == c.phys && x.tag == c.tag then d else x) } }

/-- A command of the firmware's ring. -/
def MemCmd.byFirmware (c : MemCmd) : Bool := match c.owner with | .firmware _ => true | _ => false

/-- A read of a piece. -/
def MemCmd.forPiece (c : MemCmd) : Bool := match c.owner with | .piece _ _ _ => true | _ => false

/-- A command ends as soon as it is opened (R144). -/
def failAtOnce (c : MemCmd) (st : DriveStatus) (s : State) : State :=
  { s with sas := { s.sas with failed := s.sas.failed ++ [(c, st)] } }

/-- A member command is opened (R143, R144), on the slot that the substitutions name now (R140). It waits while the ports are disabled or the
slot has 32 open, and ends at once on a slot without a drive or link. The stripe manager issues none to a drive that is not awake: a read
of a piece is served by the rules for such a drive (R142), any other command waits for the drive to be woken. -/
def openCmd (c0 : MemCmd) (s : State) : State :=
  let c : MemCmd := if c0.fixed then c0 else { c0 with phys := s.physOf c0.logical }
  let wait (t : State) : State := { t with sas := { t.sas with unopened := t.sas.unopened ++ [c] } }
  if !s.on Reg.SAS_CTRL_ENABLE || decide (32 ≤ s.openOn c.phys) then wait s
  else if !c.byFirmware && !s.awake c.phys && s.on (Reg.SLT_STATUS_PRESENT c.phys) then
    (if c.forPiece then failAtOnce c .notAwake s else wait (wakeSlot c.phys s))
  else if !s.on (Reg.SLT_STATUS_PRESENT c.phys) || !s.on (Reg.SAS_SLOT_STATUS_LINK_UP c.phys) then failAtOnce c .link s
  else
    sendDrive c { s with
      sas := { s.sas with cmds := s.sas.cmds ++ [c] }
      sys := { s.sys with lastAccess := Assoc.set s.sys.lastAccess c.phys s.clock } }

/-- The group that grazing counts a member under: its local group, 8 for a global parity. -/
def Geo.grazeGroup (g : Geo) (i : Nat) : Nat := if g.layout = 2 then 0 else if i < g.groups * g.m then i / g.m else 8

/-- Host I/O at a member makes the grazing of its group yield (R174). -/
def yieldGraze (logical : Nat) (owner : Owner) (s : State) : State :=
  let host := match owner with | .update _ _ => true | .piece _ _ _ => true | _ => false
  match host, s.arrayOf logical with
  | true, some n => onCare n (fun c => { c with yielded := addOnce c.yielded ((s.geo n).grazeGroup ((s.geo n).indexOf logical)) }) s
  | _, _ => s

/-- A command of the stripe manager or the firmware's own is opened under a tag of its own. -/
def openMember (phys logical : Nat) (write : Bool) (lba nblk : Nat) (owner : Owner) (data : List Block) (s : State) : State :=
  let tag := s.freeTag phys
  openCmd { phys := phys, logical := logical, fixed := decide (phys ≠ s.physOf logical), tag := tag, write := write, lba := lba, nblk := nblk,
            owner := owner, data := data }
    (yieldGraze logical owner { s with sas := { s.sas with nextTag := (tag + 1) % 32768 } })

/-- Commands that wait are opened as far as they can be, in order. -/
def openWaiting (s : State) : State :=
  forEach s.sas.unopened openCmd { s with sas := { s.sas with unopened := [] } }

/-- The key of a receive buffer, and the reference of an entry to a slot and tag (R88, R89). -/
def rxKey (phys tag : Nat) : Nat := phys * 65536 + tag
def sasAddr (slot tag : Nat) : Nat := slot + 65536 * tag

/-! Members -/

/-- The physical slot of a member, whether its drive is awake, whether it is live for a row. -/
def State.physMember (s : State) (n m : Nat) : Nat := s.physOf ((s.geo n).slotOf m)
def State.awakeMember (s : State) (n m : Nat) : Bool := s.awake (s.physMember n m)
def State.liveMember (s : State) (n row m : Nat) : Bool := s.liveFor n row ((s.geo n).slotOf m)

/-- The other members of the local group of a member in a row; in L-GEN1 every other data member with P. -/
def Geo.peers (g : Geo) (row m : Nat) : List Nat :=
  match g.memberGroup row m with
  | none => []
  | some k => (List.range g.members).filter (fun i => i != m && g.memberGroup row i == some k)

/-! The lost-block list (R158) -/

/-- First volume block of a lost range. -/
def State.lostStart (s : State) (r : LostRange) : Nat := s.lbaAt r.vol r.row r.d r.first

/-- A block of a volume is on its array's lost-block list. -/
def State.isLost (s : State) (v lba : Nat) : Bool :=
  (s.care (s.volArray v)).lost.any (fun r => r.vol == v && decide (s.lostStart r ≤ lba) && decide (lba < s.lostStart r + r.nblk))

/-- The range of a volume as an entry of the list. -/
def State.lostRange (s : State) (v lba nblk : Nat) : LostRange :=
  let at' := s.locate v lba
  ⟨at'.1, at'.2.1, at'.2.2, v, nblk⟩

/-- One block leaves a list of ranges, given as first block and length. -/
def cutBlock (lba : Nat) (r : Nat × Nat) : List (Nat × Nat) :=
  if r.1 ≤ lba ∧ lba < r.1 + r.2 then
    (if r.1 < lba then [(r.1, lba - r.1)] else []) ++ (if lba + 1 < r.1 + r.2 then [(lba + 1, r.1 + r.2 - lba - 1)] else [])
  else [r]

/-- A changed list goes to the partner (R366) and into the header areas of the members (R158). -/
def keepLost (n : Nat) (s : State) : State := writeRecords n (s.geo n).slots (sendConfig [13, n] s)

/-- A block leaves the list when an update that writes it retires. -/
def dropLost (v lba : Nat) (s : State) : State :=
  if !s.isLost v lba then s
  else
    let n := s.volArray v
    keepLost n (onCare n (fun c =>
      let left := c.lost.flatMap (fun r =>
        if r.vol = v then (cutBlock lba (s.lostStart r, r.nblk)).map (fun p => s.lostRange v p.1 p.2) else [r])
      { c with lost := left, merged := c.merged && !left.isEmpty }) s)

/-- The two entries of one volume that lie closest together, as their positions in a list sorted by volume and block: the gap and
the position of the first. -/
def closestPair (l : List (Nat × (Nat × Nat))) : Option (Nat × Nat) :=
  let gaps := (List.range (l.length - 1)).filterMap (fun i =>
    match l[i]?, l[i + 1]? with
    | some a, some b => if a.1 = b.1 then some (b.2.1 - (a.2.1 + a.2.2), i) else none
    | _, _ => none)
  gaps.foldl (fun best g => match best with | none => some g | some b => if g.1 < b.1 then some g else some b) none

/-- A range enters the list (R158); where the list would overflow, the two closest entries of one volume are merged. -/
def addLost (v lba nblk : Nat) (s : State) : State :=
  let n := s.volArray v
  let fresh := (List.range nblk).filter (fun i => !s.isLost v (lba + i))
  if fresh.isEmpty then s
  else
    let s1 := onCare n (fun c => { c with lost := c.lost ++ [s.lostRange v lba nblk] }) s
    let l := sortBy (fun a b => decide (a.1 < b.1) || (a.1 == b.1 && decide (a.2.1 ≤ b.2.1)))
      ((s1.care n).lost.map (fun r => (r.vol, s1.lostStart r, r.nblk)))
    if l.length ≤ 16384 then keepLost n s1
    else match closestPair l with
      | none => keepLost n s1
      | some (_, i) =>
        let merged := (l.take i) ++ (match l[i]?, l[i + 1]? with
          | some a, some b => [(a.1, a.2.1, max (a.2.1 + a.2.2) (b.2.1 + b.2.2) - a.2.1)]
          | _, _ => []) ++ l.drop (i + 2)
        keepLost n (onCare n (fun c => { c with merged := true, lost := merged.map (fun x => s1.lostRange x.1 x.2.1 x.2.2) }) s1)

/-! Plans (R101, R102) -/

/-- Set bits of a member map of a plan record. -/
def mapBits (v : Nat) : List Nat := (List.range 112).filter (fun i => bitOf v i == 1)

/-- The row phase, as plan records count it. -/
def State.planAddr (s : State) (n phase g : Nat) : Nat :=
  s.get64 (Reg.OXE_ARRAY_PLAN_LO_PLAN n) (Reg.OXE_ARRAY_PLAN_HI_PLAN n) + 32 * (9 * phase + g)

/-- The plan group of a member in a row: its local group, or 8 for a global parity; L-GEN1 uses 0 alone. -/
def Geo.planGroup (g : Geo) (row m : Nat) : Nat :=
  if g.layout = 2 then 0 else (g.memberGroup row m).getD 8

/-- The matrix slot, output row and sources of a usable plan record that produces a member. -/
def State.planFor (s : State) (n row m : Nat) : Option (Nat × (Nat × List Nat)) :=
  let g := s.geo n
  let a := s.planAddr n (g.phase row) (g.planGroup row m)
  let b (i : Nat) : Nat := (s.readByte (a + i)).toNat
  let outs := mapBits (leNat (s.readBytes (a + 18) 14))
  if bitOf (b 0) 7 = 1 ∧ b 3 = s.get (Reg.OXE_ARRAY_PLAN_CFG_GEN n) ∧ outs.contains m then
    some (bits (b 0) 0 7, outs.idxOf m, mapBits (leNat (s.readBytes (a + 4) 14)))
  else none

/-- A plan miss is recorded, and the firmware has it to answer (R102). -/
def planMiss (n phase g : Nat) (s : State) : State :=
  event Reg.OXE_EVENT_PLAN_MISS Reg.OXE_PLAN_MISS_CNT
    (setF (Reg.OXE_ARRAY_MISS_GROUP n) g (setF (Reg.OXE_ARRAY_MISS_PHASE n) phase
      { s with oxe := { s.oxe with plansDue := if s.oxe.plansDue.contains (n, phase, g) then s.oxe.plansDue else s.oxe.plansDue ++ [(n, phase, g)] } }))

/-! The firmware's plans (R102) -/

/-- The members that a record of a phase produces: the erased data and local parity of a group, the erased globals, or in L-GEN1 all. -/
def State.planOuts (s : State) (n phase g : Nat) : List Nat :=
  let e := s.geo n
  sortBy (fun a b => decide (a ≤ b)) ((s.erasedMembers n).filter (fun m => e.planGroup phase m == g))

/-- A matrix slot for a plan: the lowest of 8 to 127 that no plan has and no job uses, else the slot of the oldest plan (log entry 116). -/
def State.freeSlot (s : State) : Nat :=
  let used := s.oxe.planSlots.map Prod.fst ++ s.oxe.jobs.map (fun j => j.2.slot)
  ((List.range 120).map (fun i => 8 + i)).find? (fun k => !used.contains k) |>.getD ((s.oxe.planSlots.map Prod.fst).headD 8)

/-- The record of a plan is written: its slot, its sources and its outputs, with the generation in force (R101). -/
def writePlan (n at' slot : Nat) (srcs outs : List Nat) (s : State) : State :=
  let map (l : List Nat) : List Nat := leBytes 14 ((l.map (fun m => 2 ^ m)).sum)
  writeBytes at' ([128 + slot, outs.length - 1, srcs.length - 1, s.get (Reg.OXE_ARRAY_PLAN_CFG_GEN n)] ++ map srcs ++ map outs) s

/-- The firmware answers a plan miss (R102 step 4): the matrix goes into a free slot, and the record of the slot that it takes from another
plan is void. A row that cannot be decoded has no plan. -/
def buildPlan (n phase g : Nat) (s : State) : State :=
  let e := s.geo n
  let gone := s.erasedMembers n
  let outs := s.planOuts n phase g
  match outs.mapM (fun m => e.recover phase gone m), outs.mapM (fun m => e.sources phase gone m) with
  | some rows, some used =>
    let srcs := sortBy (fun a b => decide (a ≤ b)) (once used.flatten)
    let slot := s.freeSlot
    let at' := s.planAddr n phase g
    let s1 := forEach (s.oxe.planSlots.filter (fun p => p.1 == slot)) (fun p t => writeBytes p.2.2 [slot] t) s
    let s2 := forEach rows.zipIdx (fun r t => forEach srcs.zipIdx (fun c u =>
      writeCoef (coefKey slot r.2 c.2) (Assoc.getD r.1 c.1 0) u) t) s1
    writePlan n at' slot srcs outs { s2 with oxe := { s2.oxe with
      planSlots := s2.oxe.planSlots.filter (fun p => p.1 != slot && p.2.2 != at') ++ [(slot, n, at')] } }
  | _, _ => s

/-- The sources and coefficients that give an erased member of a row: its group's other members where it is their only loss,
else a plan record. -/
def State.decodeSources (s : State) (n row : Nat) (erased : List Nat) (m : Nat) : Option (List (Nat × Nat)) :=
  let peers := (s.geo n).peers row m
  if !peers.isEmpty && peers.all (fun i => !erased.contains i) then some (peers.map (fun i => (i, 1)))
  else (s.planFor n row m).map (fun p => (p.2.2.zipIdx).map (fun x => (x.1, s.coefAt p.1 p.2.1 x.2)))

end Sys2Proof.Machine
end

