-- ==== Sys2Proof/Machine/Intents.lean ====
section
/-! DEFINITION. Row locks (R127), intents of the journal (R129 to R132) and the repairs that firmware runs under REPAIR intents
(R156, R167, R176). -/

namespace Sys2Proof.Machine

/-! Row locks -/

/-- The lock of a row: its holder and the requests behind it. -/
def State.lockOf (s : State) (key : Nat) : Option LockUser × List LockUser := Assoc.getD s.jnl.locks key (none, [])

/-- A lock's record stored; a free lock with no request is not listed. -/
def setLock (key : Nat) (l : Option LockUser × List LockUser) (s : State) : State :=
  { s with jnl := { s.jnl with locks := Assoc.put s.jnl.locks (none, []) key l } }

/-- A request queues (R127). -/
def requestLock (key : Nat) (u : LockUser) (s : State) : State :=
  let l := s.lockOf key
  setLock key (l.1, l.2 ++ [u]) s

/-- The lock is released; the next request is granted by ROW_LOCK_GRANT. -/
def releaseLock (key : Nat) (s : State) : State := setLock key (none, (s.lockOf key).2) s

/-- Locks held. -/
def State.locksHeld (s : State) : Nat := (s.jnl.locks.filter (fun p => p.2.1.isSome)).length

/-- The first request of a free lock becomes its holder. -/
def takeLock (key : Nat) (s : State) : State × Option LockUser :=
  match s.lockOf key with
  | (none, u :: rest) => if s.locksHeld < 65536 then (setLock key (some u, rest) s, some u) else (s, none)
  | _ => (s, none)

/-! Intents -/

def State.intent? (s : State) (i : Nat) : Option Intent := Assoc.find s.jnl.intents i

/-- The head of an intent is changed and written anew (R132). -/
def onIntent (i : Nat) (f : Intent → Intent) (s : State) : State :=
  match s.intent? i with
  | none => s
  | some t => putHead i (f t) s

/-- Runs of entries that are not free: index and extension entries, of open intents and of runs given out (R129, R132). -/
def State.runs (s : State) : List (Nat × Nat) := s.jnl.intents.map (fun p => (p.1, p.2.next)) ++ s.jnl.reserved

/-- Entries in use (JNL_OPEN). -/
def State.entriesUsed (s : State) : Nat := (s.runs.map (fun p => p.2 + 1)).sum

/-- Allocation is refused (R129): JNL_STATUS.ALLOC_BLOCKED. -/
def State.allocBlocked (s : State) : Bool := !s.on Reg.JNL_CTRL_ENABLE || !s.on Reg.JNL_CTRL_REPLAY_DONE

/-- k consecutive entries from a start are free and do not run past entry 65,535. -/
def State.runFree (s : State) (start k : Nat) : Bool :=
  decide (start + k ≤ 65536) && s.runs.all (fun p => decide (start + k ≤ p.1) || decide (p.1 + p.2 < start))

/-- The lowest free run of k entries. -/
def State.freeRun (s : State) (k : Nat) : Option Nat :=
  let starts := (0 :: s.runs.map (fun p => p.1 + p.2 + 1)).filter (fun i => s.runFree i k)
  starts.foldl (fun best i => match best with | none => some i | some b => some (min b i)) none

/-- The smallest number of extension entries for a number of CRC words (R131). -/
def extensions (words : Nat) : Nat := min 3 (ceilDiv (words - 51) 61)

/-- CRC-32C over a run of blocks. -/
def blocksCrc (bs : List Block) : Nat := crc32c (bs.flatMap (leBytes 4096))

/-- A request for intent entries joins those that wait (R129). -/
def stall (who : Option LockUser) (s : State) : State :=
  if s.jnl.stalled.contains who then s else { s with jnl := { s.jnl with stalled := s.jnl.stalled ++ [who] } }

/-- A run of 1 + next entries for a request (R129): none while allocation is refused, while an earlier request stalls, or where no run fits,
which stalls every later request and is counted once. -/
def takeRun (who : Option LockUser) (next : Nat) (s : State) : State × Option Nat :=
  let waits := match s.jnl.stalled with | [] => false | w :: _ => w != who
  if s.allocBlocked || waits then (stall who s, none)
  else match s.freeRun (next + 1) with
    | none =>
      (stall who (when (!s.on Reg.JNL_STATUS_TABLE_FULL)
        (fun t => event Reg.JNL_EVENT_TABLE_FULL Reg.JNL_TABLE_FULL_CNT (setF Reg.JNL_STATUS_TABLE_FULL 1 t)) s), none)
    | some i =>
      (setF Reg.JNL_STATUS_TABLE_FULL 0 (setF Reg.JNL_SEQ_SEQ (s.get Reg.JNL_SEQ_SEQ + 1)
        { s with jnl := { s.jnl with stalled := s.jnl.stalled.filter (fun w => w != who) } }), some i)

/-- An intent is allocated and written (R129, R132). -/
def openIntent (who : Option LockUser) (t : Intent) (s : State) : State × Option Nat :=
  let r := takeRun who t.next s
  match r.2 with
  | none => r
  | some i => (bump Reg.JNL_OPENED_CNT (putIntent i { t with seq := s.get Reg.JNL_SEQ_SEQ } r.1), some i)

/-- A request of JNL_ALLOC is served (R129, R132): a run of entries for a REPAIR intent that software writes, or TABLE_FULL. -/
def allocRun (s : State) : State :=
  let next := s.get Reg.JNL_ALLOC_NEXT
  let r := if s.allocBlocked then (s, none) else takeRun none next s
  match r.2 with
  | none => setF Reg.JNL_ALLOC_GO (b2n (!s.allocBlocked)) r.1
  | some i =>
    setF Reg.JNL_ALLOC_RES_VALID 1 (setF Reg.JNL_ALLOC_RES_INDEX i (setF Reg.JNL_ALLOC_GO 0
      { r.1 with jnl := { r.1.jnl with reserved := r.1.jnl.reserved ++ [(i, next)] } }))

/-- An intent's head is written FREE and mirrored (R132). -/
def freeIntent (i : Nat) (s : State) : State := clearEntry i (bump Reg.JNL_RETIRED_CNT s)

/-! Repairs -/

def State.repair? (s : State) (r : Nat) : Option Repair := Assoc.find s.sas.repairs r
def onRepair (r : Nat) (f : Repair → Repair) (s : State) : State :=
  match s.repair? r with
  | none => s
  | some x => { s with sas := { s.sas with repairs := Assoc.set s.sas.repairs r (f x) } }

/-- The parity members of a row among some. -/
def Geo.isParity (g : Geo) (row m : Nat) : Bool := match g.role row m with | .data _ => false | _ => true

/-- The CRC words of a repair (R131): in ascending member index, those of parity members 0 until PAR_VALID is set. -/
def State.repairCrcs (s : State) (x : Repair) (parities : Bool) : List Nat :=
  x.writes.map (fun w => if (s.geo x.array).isParity x.row w.1 && !parities then 0 else blocksCrc w.2.2)

/-- The REPAIR intent of a repair: new CRCs only (R132). Its members share one block range (R131). -/
def State.repairIntent (s : State) (x : Repair) : Intent :=
  let w := x.writes.headD (0, 0, [])
  { state := 1, method := 3, level := s.get Reg.JNL_STATUS_LEVEL, flock := false, parValid := false,
    next := extensions x.writes.length, array := x.array, seq := 0, row := x.row,
    generation := (s.arrayMeta x.array).generation, members := x.writes.map Prod.fst, firstBlk := w.2.1,
    nblkM1 := w.2.2.length - 1, cacheRef := 0, vol := (s.volAt x.array x.row).getD 0,
    newCrc := s.repairCrcs x false, oldCrc := [], fmt1 := s.on Reg.SYS_STRAP_COMPAT }

/-- Physical slots that a member write of a repair goes to: the member's own, and with a COPY frontier behind which the row lies
the failed slot's bay too; a COPY row goes to the bay alone (R165). -/
def State.repairSlots (s : State) (x : Repair) (m : Nat) : List Nat :=
  let slot := (s.geo x.array).slotOf m
  match x.frontier with
  | some k => if s.on (Reg.SAS_RBD_CFG_MODE k) then [slot] else [s.physOf slot]
  | none => match s.frontierOf 1 x.array slot with
    | some k => if s.behind k x.row then [s.physOf slot, slot] else [s.physOf slot]
    | none => [s.physOf slot]

/-- A repair whose lock is held opens its intent through JNL_ALLOC (R132) and writes its members; it waits while no entry is free. -/
def beginRepair (r : Nat) (s : State) : State :=
  match s.repair? r with
  | none => s
  | some x =>
    let o := openIntent (some (.repair r)) (s.repairIntent x) s
    match o.2 with
    | none => o.1
    | some i =>
      let all := x.writes.flatMap (fun w => (s.repairSlots x w.1).map (fun p => (p, w)))
      let s1 := setF Reg.JNL_ALLOC_RES_VALID 1 (setF Reg.JNL_ALLOC_RES_INDEX i (setF Reg.JNL_ALLOC_NEXT (extensions x.writes.length) o.1))
      forEach all (fun a t =>
        let g := t.geo x.array
        openMember a.1 (g.slotOf a.2.1) true (g.memberLba x.row a.2.2.1) a.2.2.2.length (.repair r a.2.1) a.2.2.2 t)
        (onRepair r (fun y => { y with head := some i, waiting := all.map (fun a => a.2.1) }) s1)

/-- The firmware starts a repair of one block range of a row: at once where the row's lock is free, behind the holder otherwise. -/
def startRange (x : Repair) (s : State) : State :=
  let r := s.sas.nextRepair
  let key := rowKey x.array x.row
  let s1 := requestLock key (.repair r) { s with
    sas := { s.sas with repairs := Assoc.set s.sas.repairs r x, nextRepair := r + 1 } }
  match takeLock key s1 with
  | (s2, some (.repair q)) => if q = r then beginRepair r s2 else s2
  | _ => s1

/-- The firmware repairs a row: one repair for each block range that its writes have (R131), members in ascending order. -/
def startRepair (x : Repair) (s : State) : State :=
  let ranges := (x.writes.map (fun w => (w.2.1, w.2.2.length))).eraseDups
  forEach ranges (fun r t => startRange { x with
    writes := sortBy (fun a b => decide (a.1 ≤ b.1)) (x.writes.filter (fun w => w.2.1 == r.1 && w.2.2.length == r.2)) } t) s

/-- The CRC words of the parities and PAR_VALID are written, and the intent moves to CLOSING (R124 step 6); a format-1 intent does none of
it (R476). -/
def closeEntry (i : Nat) (words : List Nat) (s : State) : State :=
  match s.intent? i with
  | none => s
  | some t => if t.fmt1 then s else putIntent i { t with state := 3, parValid := true, newCrc := words } s

/-- A member write of a repair has ended. With the last one confirmed the intent is ready to retire. -/
def repairWritten (r m : Nat) (blocks : Nat) (ok : Bool) (s : State) : State :=
  match s.repair? r with
  | none => s
  | some x =>
    let s1 := onRepair r (fun y => { y with waiting := y.waiting.erase m }) s
    let s2 := when (ok && x.frontier.isNone && !x.format) (stat x.array 4 blocks) s1
    if (x.waiting.erase m).isEmpty then
      match x.head with
      | some i => closeEntry i (s2.repairCrcs x true) s2
      | none => s2
    else s2

end Sys2Proof.Machine
end

