-- ==== Sys2Proof/Machine/Reads.lean ====
section
/-! DEFINITION. Serving reads piece by piece (R148 to R157): from the cache, from the member, by decoding, or held for a wake or
a plan; failures, escalation, and the end of a command's pieces (R265). -/

namespace Sys2Proof.Machine

/-! Pieces and their commands -/

def State.piece? (s : State) (p : Nat) : Option Piece := Assoc.find s.sas.pieces p

/-- A piece changed. -/
def onPiece (p : Nat) (f : Piece → Piece) (s : State) : State :=
  match s.piece? p with
  | none => s
  | some x => { s with sas := { s.sas with pieces := Assoc.set s.sas.pieces p (f x) } }

/-- Volume and block of a piece's block i. -/
def State.pieceVol (s : State) (x : Piece) : Nat := match s.cmd? x.cmd with | some c => c.e.vol | none => 0
def State.pieceLba (s : State) (x : Piece) (i : Nat) : Nat :=
  match s.cmd? x.cmd with | some c => c.e.slba + x.idx + i | none => 0

/-- The piece belongs to a VERIFY, which reads every block from its members (R264). -/
def State.verifying (s : State) (x : Piece) : Bool := match s.cmd? x.cmd with | some c => c.e.opcode == 0x22 | none => false

/-- The first failing piece in LBA order decides a command's status (R265); bit 31 of a VERIFY's result stays (R264). -/
def Cmd.fail (c : Cmd) (idx status result : Nat) : Cmd :=
  if c.status = 0 ∨ idx < c.failIdx then
    { c with status := status, result := result + c.result / 2 ^ 31 * 2 ^ 31, failIdx := idx } else c

/-- A piece is done: it leaves its command. -/
def dropPiece (p : Nat) (x : Piece) (s : State) : State :=
  onCmd x.cmd (fun c => { c with pieces := c.pieces - 1 }) { s with sas := { s.sas with pieces := Assoc.erase s.sas.pieces p } }

/-- The pieces of a command are all done: one that moves nothing to the host ends here (R157, R264). -/
def endPieces (n : Nat) (s : State) : State :=
  match s.cmd? n with
  | none => s
  | some c =>
    if c.pieces = 0 ∧ (c.e.opcode = 0x22 ∨ (c.e.opcode = 0x20 ∧ c.buf = [])) then finish n c.status c.result s else s

/-- Lines of a piece arrive in the command's buffer. -/
def pieceData (p : Nat) (lines : List Line) (degraded : Bool) (s : State) : State :=
  match s.piece? p with
  | none => s
  | some x =>
    let keep := !s.verifying x
    let s1 := onCmd x.cmd (fun c => { c with
      degraded := c.degraded || degraded,
      buf := if keep then (lines.zipIdx).foldl (fun b l => Assoc.set b (x.idx + l.2) l.1) c.buf else c.buf }) s
    endPieces x.cmd (dropPiece p x s1)

/-- A piece ends without data, with a status for its command; a re-read ends so with INTERNAL_DATA_ERROR whatever it met (R194). -/
def pieceEnds (p st : Nat) (s : State) : State :=
  match s.piece? p with
  | none => s
  | some x =>
    let status := if x.reread then St.internalData else st
    let result := if status = St.unrecovered then x.idx else 0
    let s1 := onCmd x.cmd (fun c => { c.fail x.idx status result with
      lost := c.lost ++ (List.range x.nblk).map (fun i => x.idx + i) }) s
    endPieces x.cmd (dropPiece p x s1)

/-- A piece is unrecoverable (R157). -/
def pieceLost (p : Nat) (s : State) : State :=
  match s.piece? p with
  | none => s
  | some x => pieceEnds p St.unrecovered (bumpBy Reg.SAS_LOST_READ_CNT x.nblk s)

/-! Ways to serve a piece -/

/-- Every other member of the piece's local group is live for the row, awake, and not on the lost-block list for the range. -/
def State.peersReady (s : State) (x : Piece) (m : Nat) : Bool :=
  let g := s.geo x.array
  let peers := g.peers x.row m
  !peers.isEmpty && peers.all (fun i => s.liveMember x.array x.row i && s.awakeMember x.array i &&
    (match g.role x.row i with
     | .data d => (List.range x.nblk).all (fun b =>
         match s.volAt x.array x.row with
         | some v => !s.isLost v (s.lbaAt v x.row d (x.first + b))
         | none => true)
     | _ => true))

/-- The job of a piece (R148): a copy, a local decode on slot 4, or a plan's DECODE; its sources name the reads by slot and tag (R88). -/
def Piece.job (p : Nat) (x : Piece) (g : Geo) : Job :=
  { ring := 0, owner := .piece p x.attempt, op := if x.state = 1 then 5 else if x.byPlan then 2 else 1,
    field16 := x.byPlan && g.field16, shadowForce := false, shadowNever := false, irq := false, fence := false,
    tag := p % 65536, slot := x.slot, array := x.array, row := x.row, len := x.nblk, phase := g.phase x.row, pairs := 0,
    srcs := (x.rx.zipIdx).map (fun m => ⟨sasAddr m.1.2.1 m.1.2.2, 1, false, false, 0, m.2⟩),
    dsts := [⟨x.dest.getD 0, 0, true, false, 0⟩], outRow := [x.outRow] }

/-- A piece has a buffer in DRAM; its address is a free value, and what stands there is kept with the command (log entry 118). -/
def giveBuffer (p : Nat) (s : State) : State :=
  match s.piece? p with
  | none => s
  | some x => if x.dest.isSome then s else useFree (onPiece p (fun y => { y with dest := some (4096 * s.freeVal 24) }) s)

/-- Reads of some members are opened for a piece, and the job that takes them goes into ring 0. -/
def openPiece (p st : Nat) (members : List Nat) (slot outRow : Nat) (byPlan : Bool) (s : State) : State :=
  match s.piece? p with
  | none => s
  | some x =>
    let g := s.geo x.array
    let attempt := x.attempt + 1
    let s1 := giveBuffer p (onPiece p (fun y => { y with
      state := st, attempt := attempt, needs := [], err := none, rx := [], slot := slot, outRow := outRow, byPlan := byPlan })
      (onCmd x.cmd (fun c => { c with opened := true }) s))
    let s2 := forEach members (fun m t =>
      let l := g.slotOf m
      openMember (t.physOf l) l false (g.memberLba x.row x.first) x.nblk (.piece p attempt m) []
        (onPiece p (fun y => { y with rx := y.rx ++ [(m, l, t.freeTag (t.physOf l))] }) t)) s1
    match s2.piece? p with
    | some y => postJob (y.job p g) s2
    | none => s2

/-- Pieces held for a wake or a plan (R150). -/
def State.heldPieces (s : State) : Nat := (s.sas.pieces.filter (fun p => p.2.state == 4 || p.2.state == 5)).length

/-- A piece is held for drives, or waits because 4,096 are held (R150). -/
def holdPiece (p : Nat) (slots : List Nat) (s : State) : State :=
  if 4096 ≤ s.heldPieces then
    when (match s.piece? p with | some x => x.state != 8 | none => false) (bump Reg.SAS_HOLD_FULL_CNT)
      (onPiece p (fun x => { x with state := 8 }) s)
  else onPiece p (fun x => { x with state := 4, needs := slots }) s

/-- A piece is held for a plan (R102). -/
def holdForPlan (p : Nat) (x : Piece) (m : Nat) (s : State) : State :=
  let g := s.geo x.array
  planMiss x.array (g.phase x.row) (g.planGroup x.row m) (onPiece p (fun y => { y with state := 5 }) s)

/-- The row's phase cannot be decoded (R92, R157): bit 0 stands for every phase of an L-GEN1 array. -/
def State.phaseFails (s : State) (n row : Nat) : Bool :=
  let g := s.geo n
  bitOf (s.get (Reg.STP_ARRAY_EVAL_PHASE_FAIL n)) (if g.layout = 2 then 0 else g.phase row) == 1

/-- Blocks reconstructed instead of waking a slot in the last 60 s; past 65,536 the firmware wakes it (R152). -/
def countRiw (phys nblk : Nat) (s : State) : State :=
  let now := (s.clock, nblk) :: (Assoc.getD s.sas.riw phys []).filter (fun e => decide (s.clock ≤ e.1 + sec 60))
  let s1 : State := { s with sas := { s.sas with riw := Assoc.set s.sas.riw phys now } }
  let s2 := bump Reg.SAS_RIW_UNIT_CNT (bumpBy (Reg.SAS_SLOT_RIW_BLK_CNT phys) nblk s1)
  if 65536 < (now.map (fun e => e.2)).sum then wakeSlot phys s2 else s2

/-- A piece is decoded because its member is erased: it reads degraded, and is counted once (R153). -/
def readDegraded (p : Nat) (s : State) : State :=
  match s.piece? p with
  | none => s
  | some x => when (!x.counted) (bump Reg.SAS_DEGRADED_UNIT_CNT) (onPiece p (fun y => { y with degraded := true, counted := true }) s)

/-- Lines of the cache that hold a piece, if it holds all of them. -/
def State.cached (s : State) (x : Piece) : Option (List Line) :=
  (List.range x.nblk).mapM (fun i => Assoc.find s.jnl.lines (lineKey (s.pieceVol x) (s.pieceLba x i)))

/-- One piece served (R148); none of a volume that is not valid (R72). -/
def servePiece (p : Nat) (s : State) : State :=
  match s.piece? p with
  | none => s
  | some x =>
    if !s.on Reg.STP_CTRL_ENABLE || !s.volValid (s.pieceVol x) then onPiece p (fun y => { y with state := 0 }) s
    else match (if s.verifying x then none else s.cached x) with
    | some lines => pieceData p lines false s
    | none =>
      if s.excess then onPiece p (fun y => { y with state := 0 }) s
      else if (List.range x.nblk).any (fun i => s.isLost (s.pieceVol x) (s.pieceLba x i)) then pieceLost p s
      else
        let g := s.geo x.array
        let m := g.memberOf x.row (.data x.d)
        let phys := s.physMember x.array m
        let peers := g.peers x.row m
        if s.liveMember x.array x.row m then
          if s.awake phys then openPiece p 1 [m] 0 0 false s
          else if s.on Reg.SAS_CTRL_RIW_EN && s.peersReady x m then openPiece p 2 peers 4 0 false (countRiw phys x.nblk s)
          else holdPiece p [phys] s
        else
          let single := !peers.isEmpty && peers.all (fun i => s.liveMember x.array x.row i)
          if single && s.peersReady x m then
            readDegraded p (openPiece p 2 peers 4 0 false s)
          else if s.phaseFails x.array x.row && !s.on (Reg.STP_ARRAY_EVAL_BUSY x.array) then pieceLost p s
          else match s.planFor x.array x.row m with
            | none => holdForPlan p x m s
            | some (slot, out, srcs) =>
              let asleep := (srcs.filter (fun i => !s.awakeMember x.array i)).map (s.physMember x.array)
              if asleep.isEmpty then
                readDegraded p (openPiece p 3 srcs slot out true s)
              else holdPiece p asleep s

/-! Wakes (R150, R151) -/

/-- Slots on which held pieces wait. -/
def State.wakePending (s : State) : List Nat :=
  once ((s.sas.pieces.filter (fun p => p.2.state == 4)).flatMap (fun p => p.2.needs))

/-- SAS_WAKE_PEND follows the held pieces: a bit that goes from 0 to 1 raises WAKE_REQ, and the firmware answers it. -/
def refreshWake (s : State) : State :=
  let now := s.wakePending
  let fresh := now.filter (fun n => !s.sas.wakePend.contains n)
  let word (k : Nat) : Nat := ((now.filter (fun n => n / 32 == k)).map (fun n => 2 ^ (n % 32))).sum
  let s1 := forEach [0, 1, 2, 3] (fun k t => setF (Reg.SAS_WAKE_PEND_SLOTS k) (word k) t) { s with sas := { s.sas with wakePend := now } }
  forEach fresh (fun n t => wakeSlot n (event Reg.SAS_EVENT_WAKE_REQ Reg.SAS_WAKE_REQ_CNT t)) s1

/-- Pieces that wait for room or for the stripe manager are served as far as they can be. -/
def refill (s : State) : State :=
  forEach (s.sas.pieces.filter (fun p => p.2.state == 8 || p.2.state == 0)) (fun p t =>
    if p.2.state = 8 ∧ 4096 ≤ t.heldPieces then t else servePiece p.1 t) s

/-- What follows every change of the pieces. -/
def pump (s : State) : State := refreshWake (refill s)

/-! Escalation (R154, R155) -/

/-- The escalation ring has no free entry. -/
def State.escFull (s : State) : Bool :=
  (s.get Reg.SAS_ESC_TAIL_TAIL + 1) % (s.get Reg.SAS_ESC_CFG_SIZE_M1 + 1) == s.get Reg.SAS_ESC_HEAD_HEAD

/-- An escalation entry is written, or the piece waits for room in the ring. -/
def escalate (p reason slot : Nat) (s0 : State) : State :=
  let s := giveBuffer p s0
  match s.piece? p with
  | none => s
  | some x =>
    let s1 := onPiece p (fun y => { y with state := if s.escFull then 7 else 6, reason := reason, lastSlot := slot, attempt := y.attempt + 1 }) s
    if s.escFull then s1
    else
      let t := s.get Reg.SAS_ESC_TAIL_TAIL
      let base := s.get64 Reg.SAS_ESC_BASE_LO_BASE Reg.SAS_ESC_BASE_HI_BASE
      let bytes := leBytes 4 (p % 2 ^ 24) ++ [reason, slot, x.array, 0] ++ leBytes 8 x.row ++ [x.d, x.first, x.nblk - 1, 0]
        ++ leBytes 8 (x.dest.getD 0) ++ [0, 0, 0, 0]
      let s2 := setF Reg.SAS_ESC_TAIL_TAIL ((t + 1) % (s.get Reg.SAS_ESC_CFG_SIZE_M1 + 1)) (writeBytes (base + 32 * t) bytes s1)
      event Reg.SAS_EVENT_ESCALATE Reg.SAS_ESCALATE_CNT s2

/-- Pieces that waited for room in the escalation ring. -/
def escalateWaiting (s : State) : State :=
  forEach (s.sas.pieces.filter (fun p => p.2.state == 7)) (fun p t =>
    escalate p.1 p.2.reason p.2.lastSlot t) s

/-- The reason code of a failed member read (R155); the spec gives none for the other statuses: a free value. -/
def State.escReason (s : State) (st : DriveStatus) : Nat :=
  match st with
  | .media => 1 | .t10 => 2 | .timeout => 3 | .link => 5
  | _ => s.freeVal 8

/-- The job of a piece has ended on a member read that failed (R154): a drive that was not awake is woken (R142); the piece is retried as a
local decode where the rule allows it, and escalated otherwise. -/
def pieceFailed (p m : Nat) (st : DriveStatus) (s : State) : State :=
  match s.piece? p with
  | none => s
  | some x =>
    let slot := (s.geo x.array).slotOf m
    let retry := x.state == 1 && (st == .media || st == .t10 || st == .timeout) && s.peersReady x m
    let s1 := useFree (onPiece p (fun y => { y with failed := Assoc.set y.failed m (s.escReason st), degraded := true }) s)
    if st = .notAwake then servePiece p s
    else if retry then openPiece p 2 ((s.geo x.array).peers x.row m) 4 0 false s1
    else escalate p (if x.state = 1 then s.escReason st else 4) slot s1

/-- Recovered blocks are rewritten to the members that failed with MEDIA or T10 (R156). -/
def rewriteRecovered (n row first : Nat) (ms : List Nat) (content : Nat → Option (List Block)) (s : State) : State :=
  let ws := ms.filterMap (fun m => if s.liveMember n row m then (content m).map (fun bs => (m, first, bs)) else none)
  if ws.isEmpty then s else startRepair { array := n, row := row, writes := ws } s

/-- Members that a piece failed on with MEDIA or T10. -/
def Piece.toRewrite (x : Piece) : List Nat := (x.failed.filter (fun f => f.2 == 1 || f.2 == 2)).map Prod.fst

/-- The data of a piece is in DRAM: newer lines of the cache take its place, and what members failed to give is rewritten to them; `content`
gives what was recovered of each. -/
def pieceLanded (p : Nat) (data : List Block) (content : Nat → Option (List Block)) (s : State) : State :=
  match s.piece? p with
  | none => s
  | some x =>
    let landed := landBlocks data s
    let lines := (landed.1.zipIdx).map (fun l =>
      (Assoc.find s.jnl.lines (lineKey (s.pieceVol x) (s.pieceLba x l.2))).getD l.1)
    pieceData p lines x.degraded (rewriteRecovered x.array x.row x.first x.toRewrite content landed.2)

/-- Runs of consecutive numbers with one value: first and length, for n numbers from i. -/
def runsOf {β : Type} [DecidableEq β] (f : Nat → β) (i : Nat) : Nat → List (Nat × Nat)
  | 0 => []
  | n + 1 =>
    match runsOf f (i + 1) n with
    | [] => [(i, 1)]
    | (j, c) :: t => if f i = f j then (i, c + 1) :: t else (i, 1) :: (j, c) :: t

/-- A command's blocks as pieces (R52, R148): split at unit boundaries and where the cache or the lost-block list changes. -/
def splitPieces (n : Nat) (s : State) : State :=
  match s.cmd? n with
  | none => s
  | some c =>
    let v := c.e.vol
    let key (i : Nat) : (Nat × Nat) × (Bool × Bool) :=
      let at' := s.locate v (c.e.slba + i)
      let held := c.e.opcode != 0x22 && (Assoc.find s.jnl.lines (lineKey v (c.e.slba + i))).isSome
      ((at'.1, at'.2.1), (held, !held && s.isLost v (c.e.slba + i)))
    let runs := runsOf key 0 (c.e.nlbM1 + 1)
    let made := (runs.zipIdx).map (fun r =>
      let at' := s.locate v (c.e.slba + r.1.1)
      (s.sas.nextPiece + r.2, ({ cmd := n, idx := r.1.1, array := s.volArray v, row := at'.1, d := at'.2.1, first := at'.2.2,
                                  nblk := r.1.2 } : Piece)))
    let s1 := onCmd n (fun x => { x with pieces := runs.length, split := true }) s
    let s2 : State := { s1 with sas := { s1.sas with pieces := s1.sas.pieces ++ made, nextPiece := s.sas.nextPiece + runs.length } }
    pump (forEach made (fun p t => servePiece p.1 t) s2)

end Sys2Proof.Machine
end

