-- ==== Sys2Proof/Machine/Updates.lean ====
section
/-! DEFINITION. Stripe updates (R121 to R128, R502, R504): when a row's write-back starts, its method, the reads it needs, its
intent, its job, the member writes and its retirement. -/

namespace Sys2Proof.Machine

def State.update? (s : State) (u : Nat) : Option Update := Assoc.find s.jnl.updates u

/-- An update changed. -/
def onUpdate (u : Nat) (f : Update → Update) (s : State) : State :=
  match s.update? u with
  | none => s
  | some x => { s with jnl := { s.jnl with updates := Assoc.set s.jnl.updates u (f x) } }

/-! What a row holds -/

/-- A line that an open update already carries. -/
def State.carried (s : State) (key : Nat) (l : Line) : Bool :=
  s.jnl.updates.any (fun p => p.2.lines.any (fun q => q.1 == key && q.2.ver == l.ver))

/-- Dirty lines of a row not yet carried by an update: data index, block within the unit, key and line. -/
def State.rowLines (s : State) (n row : Nat) : List (Nat × (Nat × (Nat × Line))) :=
  s.dirtyLines.filterMap (fun p =>
    let v := keyVol p.1
    let at' := s.locate v (keyLba p.1)
    if s.volValid v && s.volArray v == n && at'.1 == row && !s.carried p.1 p.2 then some (at'.2.1, at'.2.2, p.1, p.2) else none)

/-- Clock at which the oldest dirty line of a row became dirty. -/
def State.rowSince (s : State) (n row : Nat) : Nat :=
  ((s.rowLines n row).map (fun l => l.2.2.2.since)).foldl min s.clock

/-- Every data unit of the row is dirty, in full or in part (R121, first cause). -/
def State.rowFull (s : State) (n row : Nat) : Bool :=
  let dirty := (s.rowLines n row).map Prod.fst
  (List.range (s.geo n).dataCount).all (fun d => dirty.contains d)

/-- JNL_DIRTY exceeds 75 % of JNL_CEILING (R121). -/
def State.overThreeQuarters (s : State) : Bool :=
  decide (3 * s.ceiling < 4 * s.dirtyMib)

/-- No row holds older dirty data (R121, third cause). -/
def State.oldestRow (s : State) (n row : Nat) : Bool :=
  s.dirtyRows.all (fun k => decide (s.rowSince n row ≤ s.rowSince (k % 4) (k / 4)))

/-- A module in SERVICE writes nothing to the drives while the partner holds ACTIVE_N, and every dirty line back while none does (R30). -/
def State.serviceHolds (s : State) : Bool := s.mode == Mode.service && s.on Reg.FOV_STATUS_ACTIVE_LINE
def State.serviceDrains (s : State) : Bool := s.mode == Mode.service && !s.on Reg.FOV_STATUS_ACTIVE_LINE

/-- One of the causes of R121 holds for a row. -/
def State.rowDue (s : State) (n row : Nat) : Bool :=
  s.jnl.dueRows.contains (rowKey n row) || s.jnl.demandRows.contains (rowKey n row) || s.rowFull n row
    || (s.overThreeQuarters && s.oldestRow n row) || s.on Reg.JNL_STATUS_EXPOSED || s.get Reg.JNL_STATUS_LEVEL == 2 || s.jnl.toWt || s.serviceDrains

/-! Methods (R122) -/

/-- Number of local groups touched; P of L-GEN1 counts as one. -/
def Geo.groupsTouched (g : Geo) (units : List Nat) : List Nat := once (units.map g.groupOf)

/-- Parity members of some groups, and every global. -/
def Geo.parityMembers (g : Geo) (row : Nat) (groups : List Nat) : List Nat :=
  groups.map (fun k => g.memberOf row (.par k)) ++ (List.range g.globalCount).map (fun i => g.memberOf row (.glob i))

/-- Data members of some units. -/
def Geo.dataMembers (g : Geo) (row : Nat) (units : List Nat) : List Nat := units.map (fun d => g.memberOf row (.data d))

/-- Every member of the array is spinning, none of them erased in the row (R122; log entry 104). -/
def State.allAwake (s : State) (n row : Nat) : Bool :=
  (List.range (s.geo n).members).all (fun m => s.liveMember n row m && s.awakeMember n m)

/-- The method of an update (R122, R126); a row whose phase fails is written by DELTA (R159, R504). -/
def State.method (s : State) (n row : Nat) (units : List Nat) (whole : Bool) : Nat :=
  let g := s.geo n
  let t := units.length
  if s.get Reg.JNL_STATUS_LEVEL = 2 ∨ s.phaseFails n row = true then 1
  else if t = g.dataCount ∧ whole then 0
  else if s.allAwake n row ∧ g.dataCount - t < t + (g.groupsTouched units).length + g.globalCount then 2 else 1

/-- Members whose old content an update needs: the touched data for RMW, the untouched for RCW, the surviving data of a lost row,
and the touched data of a flock member volume whatever the method (R405). -/
def State.contentMembers (s : State) (x : Update) : List Nat :=
  let g := x.geo
  let touched := g.dataMembers x.row x.units
  let others := (g.dataMembers x.row (List.range g.dataCount)).filter (fun m => !touched.contains m)
  let base := if x.method = 0 then [] else if x.method = 1 then touched else others
  if (s.groupOfVol x.vol).isSome && x.method != 3 then once (base ++ touched) else base

/-- Parity members that an update reads (RMW) and writes. -/
def Update.parityOf (x : Update) : List Nat :=
  let g := x.geo
  if x.method = 1 then g.parityMembers x.row (g.groupsTouched x.units)
  else g.parityMembers x.row (if g.layout = 2 then [0] else List.range g.groups)

/-- Members touched by an update (R130): those its intent names. -/
def Update.touchedMembers (x : Update) : List Nat :=
  sortBy (fun a b => decide (a ≤ b)) (once (x.geo.dataMembers x.row x.units ++ x.parityOf))

/-- Plans for the erased members whose content an update needs; `none` where one has no usable plan. -/
def State.updatePlans (s : State) (x : Update) : Option (List (Nat × List (Nat × Nat))) :=
  ((s.contentMembers x).filter (fun m => x.erased.contains m)).mapM (fun m =>
    (s.decodeSources x.array x.row x.erased m).map (fun p => (m, p)))

/-- Members an update reads. -/
def State.updateReads (s : State) (x : Update) (plans : List (Nat × List (Nat × Nat))) : List Nat :=
  let live (l : List Nat) : List Nat := l.filter (fun m => !x.erased.contains m)
  once (live (s.contentMembers x) ++ (if x.method = 1 then live x.parityOf else []) ++ plans.flatMap (fun p => p.2.map Prod.fst))

/-- Members that must be awake before an update may start (R502). -/
def State.updateNeeds (s : State) (x : Update) : List Nat :=
  let plans := (s.updatePlans x).getD []
  once ((x.touchedMembers).filter (fun m => !x.erased.contains m) ++ s.updateReads x plans)

/-! Content -/

/-- Content of a member as an update read it, or decoded it from what it read. -/
def Update.content (x : Update) (f16 : Bool) (m : Nat) : List Block :=
  match Assoc.find x.reads m with
  | some l => l
  | none =>
    match Assoc.find x.plans m with
    | some srcs => sumBlocks f16 (x.nblkM1 + 1) (srcs.map (fun p => (p.2, Assoc.getD x.reads p.1 [])))
    | none => List.replicate (x.nblkM1 + 1) 0

/-- The volume block at a place of an update's row. -/
def State.updateLba (s : State) (x : Update) (d b : Nat) : Nat :=
  ((x.row - s.volBase x.vol) * x.geo.dataCount + d) * x.geo.unitBlocks + b

/-- New content of a touched unit: its lines, and zeros for a unit of a lost row. -/
def State.newContent (s : State) (x : Update) (d : Nat) : List Block :=
  (List.range (x.nblkM1 + 1)).map (fun b =>
    match Assoc.find x.lines (lineKey x.vol (s.updateLba x d (x.firstBlk + b))) with
    | some l => l.data
    | none => 0)

/-- Members that take a unit of an update: live ones, and in a lost row the rebuilding members among the lost. -/
def State.takes (s : State) (x : Update) (m : Nat) : Bool :=
  !x.erased.contains m || (x.method == 3 && (s.frontierOf 0 x.array (x.geo.slotOf m)).isSome)

/-- Parity and data members that an update writes. -/
def State.parityTargets (s : State) (x : Update) : List Nat := x.parityOf.filter (s.takes x)
def State.dataTargets (s : State) (x : Update) : List Nat := (x.geo.dataMembers x.row x.units).filter (s.takes x)

/-! Intents of updates -/

/-- The intent of an update (R130, R131): new data CRCs, zeros for parities, old CRCs for RMW. -/
def State.updateIntent (s : State) (x : Update) : Intent :=
  let g := x.geo
  let ms := x.touchedMembers
  let newOf (m : Nat) : Nat := match g.role x.row m with
    | .data d => blocksCrc (s.newContent x d)
    | _ => 0
  let olds := if x.method = 1 then ms.map (fun m => blocksCrc (x.content g.field16 m)) else []
  { state := 1, method := x.method, level := s.get Reg.JNL_STATUS_LEVEL, flock := (s.groupOfVol x.vol).isSome && !s.on Reg.SYS_STRAP_COMPAT,
    parValid := false, next := extensions (ms.length + olds.length), array := x.array, seq := 0, row := x.row,
    generation := (s.arrayMeta x.array).generation, members := ms, firstBlk := x.firstBlk, nblkM1 := x.nblkM1,
    cacheRef := (x.lines.map Prod.fst).headD 0, vol := x.vol, newCrc := ms.map newOf, oldCrc := olds,
    fmt1 := s.on Reg.SYS_STRAP_COMPAT }

/-- A flock member's update, whose touched units each leave a delta (R405). -/
def State.deltaUpdate (s : State) (x : Update) : Bool := (s.groupOfVol x.vol).isSome && x.method != 3

/-- The deltas of a flock member's update: first block of each touched unit, and what its DELTA job gave. -/
def State.updateDeltas (s : State) (x : Update) : List (Nat × List Block) :=
  x.deltas.map (fun p => (s.updateLba x p.1 x.firstBlk, p.2))

/-- Step 3 of R124: the deltas of a flock member enter the log, and the intent is allocated and written; the update waits where
either finds no room. -/
def writeIntent (u : Nat) (s : State) : State :=
  match s.update? u with
  | none => s
  | some x =>
    let flock := s.deltaUpdate x
    if flock && !s.deltasFit x.vol ((s.updateDeltas x).map (fun d => (d.1, d.2.length))) then
      -- A row that must not wait marks its group stale instead (R408).
      (if s.on Reg.JNL_STATUS_EXPOSED || s.admitStop then
         (match s.groupOfVol x.vol with
          | some (g, _) => markStale g.id (onUpdate u (fun y => { y with step := 7 }) s)
          | none => s)
       else onUpdate u (fun y => { y with step := 10 }) s)
    else
      let o := openIntent (some (.update u)) (s.updateIntent x) s
      match o.2 with
      | none => onUpdate u (fun y => { y with step := 7 }) o.1
      | some i =>
        let s1 := onUpdate u (fun y => { y with step := 2, head := some i }) o.1
        if flock then logDeltas x.vol (s.get Reg.JNL_SEQ_SEQ) (s.updateDeltas x) s1 else s1

/-- What was read of a member as a source: through its SAS stream; what had to be decoded stands in DRAM. -/
def Update.oldSrc (x : Update) (m column : Nat) : Src × List Block :=
  let streams := (Assoc.find x.reads m).isSome
  (⟨if streams then Assoc.getD x.rx m 0 else 0, b2n streams, false, false, 0, column⟩, x.content x.geo.field16 m)

/-- The DELTA job of a unit (R405): on slot 4, K = 1, Q = 0 and one DRAM output, from the old content as it was read and the new. -/
def State.deltaSrcs (s : State) (x : Update) (d : Nat) : List (Src × List Block) :=
  [x.oldSrc (x.geo.memberOf x.row (.data d)) 0, (⟨0, 0, false, true, 0, d⟩, s.newContent x d)]
def State.deltaJob (s : State) (u : Nat) (x : Update) (d : Nat) : Job :=
  { ring := 1, owner := .delta u d, op := 3, field16 := false, shadowForce := false, shadowNever := false, irq := false, fence := false,
    tag := u % 65536, slot := 4, array := x.array, row := x.row, len := x.nblkM1 + 1, phase := x.geo.phase x.row, pairs := 1,
    srcs := (s.deltaSrcs x d).map Prod.fst, dsts := [⟨4096 * s.freeVal 28, 0, false, false, 0⟩], outRow := [0] }

/-- After step 2 of R124 every touched unit of a flock member's update gets its DELTA job, and step 3 waits for their results (R405). -/
def afterReads (u : Nat) (s : State) : State :=
  match s.update? u with
  | none => s
  | some x =>
    if s.deltaUpdate x then
      forEach x.units (fun d t => postJob (t.deltaJob u x d) (useFree t)) (onUpdate u (fun y => { y with step := 11, deltaLeft := x.units, deltas := [] }) s)
    else writeIntent u s

/-- A DELTA job has ended OK: with the last one in, step 3 follows. -/
def deltaDone (u d : Nat) (data : List Block) (s : State) : State :=
  let s1 := onUpdate u (fun y => { y with deltaLeft := y.deltaLeft.erase d, deltas := y.deltas ++ [(d, data)] }) s
  match s1.update? u with
  | some x => if x.step == 11 && x.deltaLeft.isEmpty then writeIntent u s1 else s1
  | none => s1

/-- Reads of an update are opened, and the reference of each is kept for its job (R88). -/
def openReads (u : Nat) (x : Update) (ms : List Nat) (s : State) : State :=
  forEach ms (fun m t =>
    let slot := x.geo.slotOf m
    let phys := t.physOf slot
    openMember phys slot false (x.geo.memberLba x.row x.firstBlk) (x.nblkM1 + 1) (.update u m) []
      (onUpdate u (fun y => { y with rx := Assoc.set y.rx m (sasAddr slot (t.freeTag phys)) }) t)) s

/-- Step 2 of R124: the reads an update needs are opened; with none needed the intent follows at once. A missing plan holds it. -/
def beginReads (u : Nat) (s : State) : State :=
  match s.update? u with
  | none => s
  | some x =>
    match s.updatePlans x with
    | none =>
      let g := x.geo
      let m := ((s.contentMembers x).find? (fun m => x.erased.contains m && (s.decodeSources x.array x.row x.erased m).isNone)).getD 0
      planMiss x.array (g.phase x.row) (g.planGroup x.row m) (onUpdate u (fun y => { y with step := 8 }) s)
    | some plans =>
      let ms := s.updateReads x plans
      let s1 := onUpdate u (fun y => { y with step := 1, plans := plans, reading := ms }) s
      if ms.isEmpty then afterReads u s1 else openReads u x ms s1

/-- The lock of an update is granted (R73, R127): the configuration and the erased set are captured, and its reads begin. The volume must still
be valid (R72): an update of one that is not is dispatched no more, and gives its lock back. -/
def grantUpdate (u : Nat) (s : State) : State :=
  match s.update? u with
  | none => s
  | some x =>
    if s.volValid x.vol then beginReads u (onUpdate u (fun y => { y with erased := s.erasedIn x.array x.row, geo := s.geo x.array }) s)
    else releaseLock (rowKey x.array x.row) { s with jnl := { s.jnl with updates := Assoc.erase s.jnl.updates u } }

/-- A request for intent entries is tried again. -/
def retryIntent (who : Option LockUser) (s : State) : State :=
  match who with
  | some (.update u) => writeIntent u s
  | some (.repair r) => beginRepair r s
  | none => allocRun s

/-- Requests for intent entries are served in order until one stalls (R129), and updates that wait for room in the deferred-delta log are
tried again (R408). -/
def retryIntents (s : State) : State :=
  let s1 := forEach (s.jnl.updates.filter (fun p => p.2.step == 10)) (fun p t => writeIntent p.1 t) s
  forEach s1.jnl.stalled (fun w t => if t.jnl.stalled.head? = some w then retryIntent w t else t) s1

/-- Updates that wait for a plan of an array are tried again. -/
def retryPlans (n : Nat) (s : State) : State :=
  forEach (s.jnl.updates.filter (fun p => p.2.step == 8 && p.2.array == n)) (fun p t => beginReads p.1 t) s

/-! The job -/

/-- A source of an update's job with its content: new data from DRAM, passed to the member that takes it, and zeros for a lost unit. -/
def State.newSrc (s : State) (x : Update) (passAt d : Nat) : Src × List Block :=
  let i := (s.dataTargets x).idxOf (x.geo.memberOf x.row (.data d))
  let pass := decide (i < (s.dataTargets x).length)
  (⟨0, if x.method = 3 then 2 else 0, pass, x.method != 3, if pass then passAt + i else 0, d⟩, s.newContent x d)

/-- Parities that an update's job puts out; one that goes nowhere where every parity is erased. -/
def State.jobOutputs (s : State) (x : Update) : List (Option Nat) :=
  if (s.parityTargets x).isEmpty then [none] else (s.parityTargets x).map some

/-- The sources of an update's job (R124): for DELTA the pairs and the old parities, else the row's data in order (R90). -/
def State.updateSrcs (s : State) (x : Update) : List (Src × List Block) :=
  let g := x.geo
  let out := (s.jobOutputs x).length
  if x.method = 1 then
    x.units.flatMap (fun d => [x.oldSrc (g.memberOf x.row (.data d)) 0, s.newSrc x out d]) ++ (s.parityTargets x).map (fun m => x.oldSrc m 0)
  else (List.range g.dataCount).map (fun d => if x.units.contains d then s.newSrc x out d else x.oldSrc (g.memberOf x.row (.data d)) d)

/-- The job of an update (R124): ENCODE, or DELTA for RMW, on the array's encode matrix (R86), in GF(2^8) where it is a pure XOR (R74). Its
digests take the indices of its destinations (log entry 117). -/
def State.updateJob (s : State) (u : Nat) (x : Update) : Job :=
  let g := x.geo
  let srcs := (s.updateSrcs x).map Prod.fst
  let row (o : Option Nat) : Nat := match o with | some m => g.matrixRow (g.role x.row m) | none => 0
  let rows := (s.jobOutputs x).map row
  let plain := rows.all (fun r => srcs.all (fun y => decide (s.coefAt x.array r y.column ≤ 1)))
  let dst (m : Option Nat) (i : Nat) : Dst := match m with
    | some m => let t := Assoc.getD x.tx m (0, 0); ⟨sasAddr t.1 t.2, 1, false, true, i⟩
    | none => ⟨0, 2, false, false, 0⟩
  { ring := 1, owner := .update u, op := if x.method = 1 then 3 else 1, field16 := g.field16 && !plain, shadowForce := false,
    shadowNever := false, irq := false, fence := false, tag := u % 65536, slot := x.array, array := x.array, row := x.row,
    len := x.nblkM1 + 1, phase := g.phase x.row, pairs := if x.method = 1 then x.units.length else 0, srcs := srcs,
    dsts := ((s.jobOutputs x ++ (s.dataTargets x).map some).zipIdx).map (fun p => dst p.1 p.2), outRow := rows }

/-- An update runs under WRITE_THROUGH: its parities are written after its data is confirmed (R126). -/
def State.wtUpdate (s : State) (x : Update) : Bool :=
  match x.head.bind s.intent? with | some t => t.level == 2 | none => false

/-- A member write of an update is opened under a tag, and in COPY mode for rows behind the frontier one to the failed slot's new drive too,
which the port feeds with the same blocks (R165). -/
def openWrite (u : Nat) (x : Update) (m tag : Nat) (data : List Block) (s : State) : State :=
  let slot := x.geo.slotOf m
  let lba := x.geo.memberLba x.row x.firstBlk
  let len := x.nblkM1 + 1
  let s1 := openCmd { phys := s.physOf slot, logical := slot, fixed := false, tag := tag, write := true, lba := lba, nblk := len,
                      owner := .update u m, data := data }
    (yieldGraze slot (.update u m) (onUpdate u (fun y => { y with waiting := y.waiting ++ [m] }) s))
  match s.frontierOf 1 x.array slot with
  | some k =>
    if s.behind k x.row then
      openMember slot slot true lba len (.update u m) data (onUpdate u (fun y => { y with waiting := y.waiting ++ [m] }) s1)
    else s1
  | none => s1

/-- The writes of an update get their tags and are opened, at WRITE_THROUGH those of the data alone. -/
def openWrites (u : Nat) (x : Update) (s : State) : State :=
  let first := if s.wtUpdate x then s.dataTargets x else s.parityTargets x ++ s.dataTargets x
  forEach (s.parityTargets x ++ s.dataTargets x) (fun m t =>
    let slot := x.geo.slotOf m
    let tag := t.freeTag (t.physOf slot)
    let t1 := onUpdate u (fun y => { y with tx := Assoc.set y.tx m (slot, tag) })
      { t with sas := { t.sas with nextTag := (tag + 1) % 32768 } }
    when (first.contains m) (openWrite u x m tag []) t1) s

/-- Step 5 of R124: the member writes are opened, and the job is written into ring 1. -/
def issueJob (u : Nat) (s : State) : State :=
  match s.update? u with
  | none => s
  | some x =>
    let s1 := openWrites u x (onUpdate u (fun y => { y with step := 4, waiting := [], tx := [] }) s)
    match s1.update? u with
    | none => s1
    | some y => postJob (s1.updateJob u y) s1

/-- The open writes of an update are aborted: its job has not ended OK (R189, R124). -/
def abortWrites (u : Nat) (s : State) : State :=
  let mine (c : MemCmd) : Bool := c.write && (match c.owner with | .update v _ => v == u | _ => false)
  let s1 := forEach (s.sas.cmds.filter mine) (fun c t => emit (.drive c.phys .abort c.lba c.nblk []) t) s
  { s1 with sas := { s1.sas with cmds := s1.sas.cmds.filter (fun c => !mine c), unopened := s1.sas.unopened.filter (fun c => !mine c) } }

/-! Member writes -/

/-- The CRCs of the parities are written and the intent moves to CLOSING (R124 step 6); a format-1 intent does neither (R476). -/
def closeIntent (u : Nat) (s : State) : State :=
  match s.update? u with
  | none => s
  | some x =>
    let s1 := onUpdate u (fun y => { y with step := 6 }) s
    match x.head with
    | none => s1
    | some i =>
      match s1.intent? i with
      | none => s1
      | some t => closeEntry i (List.zipWith (fun m c => match Assoc.find x.writes m with | some bs => blocksCrc bs | none => c)
          t.members t.newCrc) s1

/-- With every write of a phase confirmed the parities follow (WRITE_THROUGH, R126), and then the intent closes. -/
def advanceWrites (u : Nat) (s : State) : State :=
  match s.update? u with
  | none => s
  | some x =>
    if !(x.step == 5 && x.waiting.isEmpty) then s
    else if x.parityLeft.isEmpty then closeIntent u s
    else
      let s1 := onUpdate u (fun y => { y with parityLeft := [] }) s
      let s2 := match x.head with
        | some i => onIntent i (fun t => { t with state := 2 }) s1
        | none => s1
      forEach x.parityLeft (fun m t => openWrite u x m (Assoc.getD x.tx m (0, 0)).2 (Assoc.getD x.writes m []) t) s2

/-- The job of an update has ended OK and given the blocks of its members: the open writes take theirs, and at WRITE_THROUGH those of the
parities stay in their transmit buffers (R126). -/
def beginWrites (u : Nat) (ws : List (Nat × List Block)) (s : State) : State :=
  match s.update? u with
  | none => s
  | some x =>
    let later := if s.wtUpdate x then s.parityTargets x else []
    let s1 := onUpdate u (fun y => { y with step := 5, writes := ws, parityLeft := later }) s
    let s2 := forEach s.sas.cmds (fun c t => match c.owner with
      | .update v m => if c.write && v == u then feed c (Assoc.getD ws m []) t else t
      | _ => t) s1
    advanceWrites u s2

/-- A member write of an update has ended: it was confirmed, or its member is out of the update (R124). -/
def writeDone (u m : Nat) (good : Bool) (s : State) : State :=
  advanceWrites u (onUpdate u (fun y => { y with
    waiting := y.waiting.erase m, erased := if good then y.erased else addOnce y.erased m }) s)

/-! Starting a write-back (R502, R504) -/

/-- Groups of equal size from a list, in order. -/
def chunks (k : Nat) : Nat → List Nat → List (List Nat)
  | 0, _ => []
  | _ + 1, [] => []
  | f + 1, x :: t => (x :: t).take (max 1 k) :: chunks k f ((x :: t).drop (max 1 k))

/-- Units of a pass at WRITE_THROUGH (R126). -/
def State.passUnits (s : State) (n : Nat) : Nat :=
  max 1 (min 4 (s.get (Reg.STP_ARRAY_CFG_TOL n) - (s.erasedMembers n).length))

/-- The updates that a row's dirty lines make (R125, R126): one for each run of blocks with the same units, in ascending order,
and at WRITE_THROUGH one for each pass. -/
def State.rowUpdates (s : State) (n row : Nat) (lines : List (Nat × (Nat × (Nat × Line)))) : List Update :=
  let g := s.geo n
  let unitsAt (b : Nat) : List Nat := sortBy (fun x y => decide (x ≤ y)) ((lines.filter (fun l => l.2.1 == b)).map Prod.fst)
  let runs := (runsOf unitsAt 0 g.unitBlocks).filter (fun r => !(unitsAt r.1).isEmpty)
  let erased := s.erasedIn n row
  let v := (s.volAt n row).getD 0
  runs.flatMap (fun r =>
    let units := unitsAt r.1
    let passes := if s.get Reg.JNL_STATUS_LEVEL = 2 then chunks (s.passUnits n) units.length units else [units]
    passes.map (fun us =>
      { array := n, row := row, vol := v, units := us, firstBlk := r.1, nblkM1 := r.2 - 1,
        method := s.method n row us (r.1 == 0 && r.2 == g.unitBlocks), step := 0, head := none, waiting := [], erased := erased, geo := g,
        lines := (lines.filter (fun l => us.contains l.1 && decide (r.1 ≤ l.2.1) && decide (l.2.1 < r.1 + r.2))).map
          (fun l => (l.2.2.1, l.2.2.2)) }))

/-- Updates queue for their row's lock. -/
def queueUpdates (us : List Update) (s : State) : State :=
  forEach us (fun x t =>
    let u := t.jnl.nextUpdate
    requestLock (rowKey x.array x.row) (.update u) { t with
      jnl := { t.jnl with updates := Assoc.set t.jnl.updates u x, nextUpdate := u + 1 } }) s

/-- Units of a row that are lost (R171): data units on erased members in a group with a deficit. -/
def State.lostUnits (s : State) (n row : Nat) : List Nat :=
  let g := s.geo n
  let erased := s.erasedIn n row
  (List.range g.dataCount).filter (fun d =>
    erased.contains (g.memberOf row (.data d)) && !(g.unknowns (g.phase row) erased (g.groupOf d)).isEmpty)

/-- A lost range is logged (R238): slot, data index, first block, blocks less one. -/
def logLost (n row d first nblk : Nat) (s : State) : State :=
  let g := s.geo n
  logEvent 8 n row [g.slotOf (g.memberOf row (.data d)), d, first, nblk - 1] s

/-- Every block of some units of a row enters the lost-block list; the log names the ranges (R158, R238). -/
def loseUnits (n row : Nat) (units : List Nat) (s : State) : State :=
  match s.volAt n row with
  | none => s
  | some v =>
    forEach units (fun d t => logLost n row d 0 (t.geo n).unitBlocks (addLost v (t.lbaAt v row d 0) (t.geo n).unitBlocks t)) s

/-- The update that makes a lost row consistent again (R171): zeros for the lost units, parities from the surviving data. -/
def State.lostRowUpdate (s : State) (n row : Nat) (units : List Nat) : Update :=
  { array := n, row := row, vol := (s.volAt n row).getD 0, units := units, firstBlk := 0, nblkM1 := (s.geo n).unitBlocks - 1,
    method := 3, step := 0, head := none, waiting := [], erased := s.erasedIn n row, geo := s.geo n, lines := [], lost := units }

/-- Lines leave the cache. -/
def dropLines (keys : List Nat) (s : State) : State :=
  { s with jnl := { s.jnl with lines := s.jnl.lines.filter (fun l => !keys.contains l.1) } }

/-- Waking the sleeping members of a list; true when none sleeps. -/
def wakeMembers (n row : Nat) (ms : List Nat) (s : State) : State :=
  forEach (ms.filter (fun m => s.liveMember n row m && !s.awakeMember n m)) (fun m t => wakeSlot (t.physMember n m) t) s

/-- A row's write-back starts where every member it needs is awake or erased, and wakes are requested otherwise. -/
def startRow (n row : Nat) (s : State) : State :=
  let lines := s.rowLines n row
  let lost := if s.phaseFails n row then s.lostUnits n row else []
  let kept := lines.filter (fun l => !lost.contains l.1)
  let fix := if lost.any (fun d => lines.any (fun l => l.1 == d)) then [s.lostRowUpdate n row lost] else []
  let us := fix ++ s.rowUpdates n row kept
  let needs := once (us.flatMap s.updateNeeds)
  if needs.all (fun m => !s.liveMember n row m || s.awakeMember n m) then
    let s1 := if fix.isEmpty then s
      else dropLines ((lines.filter (fun l => lost.contains l.1)).map (fun l => l.2.2.1)) (loseUnits n row lost s)
    let s2 := queueUpdates us s1
    let key := rowKey n row
    { s2 with jnl := { s2.jnl with dueRows := remove s2.jnl.dueRows key, demandRows := remove s2.jnl.demandRows key } }
  else wakeMembers n row needs s

/-! Retirement (R124 step 7, R132, R164) -/

/-- A commit no longer owes the blocks that an update with its data or newer data has written (R116). -/
def payOwed (lines : List (Nat × Line)) (s : State) : State :=
  { s with qmx := { s.qmx with cmds := s.qmx.cmds.map (fun p => (p.1, { p.2 with
      owed := p.2.owed.filter (fun o => !lines.any (fun l => l.1 == o.1 && decide (o.2 ≤ l.2.ver))) })) } }

/-- Commands of a list that no acknowledgement holds back end with their own status and the level of the commit. -/
def finishAllWith (l : List Nat) (s : State) : State :=
  forEach l (fun n t =>
    if t.jnl.flights.any (fun f => f.cmd == n) then t
    else match t.cmd? n with
      | some c => finish n c.status (c.result ||| c.level) t
      | none => t) s

/-- Writes whose blocks are all paid complete (R116). -/
def finishPaid (s : State) : State :=
  finishAllWith (s.cmdsWhere (fun c => c.final && c.owed.isEmpty && c.e.qid != 0 && c.pieces == 0)) s

/-- The frontier of a rebuilt row (R164): its bit in the window is set, and F advances over the bits that begin at bit 0. -/
def advanceFront : Nat → Nat → Nat → Nat × Nat
  | 0, f, w => (f, w)
  | n + 1, f, w => if w % 2 = 1 then advanceFront n (f + 1) (w / 2) else (f, w)

/-- A frontier reaches the array's end (R164, R165): the event, the log, and its target takes its place. -/
def frontierDone (k n slot : Nat) (s : State) : State :=
  let s1 := event Reg.SAS_EVENT_FRONTIER_DONE Reg.SAS_FRONTIER_DONE_CNT (setF (Reg.SAS_RBD_CFG_DONE k) 1 (stat n 8 1 s))
  let s2 := logEvent 7 n 0 [slot] { s1 with sas := { s1.sas with checkpoints := Assoc.erase s1.sas.checkpoints k } }
  if s.on (Reg.SAS_RBD_CFG_MODE k) then
    -- COPY: the substitution's valid bit and ENABLE clear in one step (R165).
    let s3 := setF (Reg.SAS_RBD_CFG_ENABLE k) 0 s2
    match (List.range 8).find? (fun j => s.on (Reg.SAS_SUB_VALID j) && s.get (Reg.SAS_SUB_LOGICAL j) == slot) with
    | some j => sendConfig [4, j] (setF (Reg.SAS_SUB_VALID j) 0 s3)
    | none => s3
  else
    -- REBUILD: the erased set changes in the order of R102, and ENABLE clears after the ERASED bit (R164).
    let s3 := setF (Reg.OXE_ARRAY_PLAN_CFG_GEN n) (s2.get (Reg.OXE_ARRAY_PLAN_CFG_GEN n) + 1) s2
    let s4 := startEval n (writeErased n slot false s3)
    sendConfig [5, n, slot] (raiseGeneration n (setF (Reg.SAS_RBD_CFG_ENABLE k) 0 s4))

/-- A frontier and its window are written. -/
def writeFront (k : Nat) (fw : Nat × Nat) (s : State) : State :=
  set64 (Reg.SAS_RBD_WIN_LO_WIN k) (Reg.SAS_RBD_WIN_HI_WIN k) fw.2
    (set64 (Reg.SAS_RBD_FRONT_LO_FRONT k) (Reg.SAS_RBD_FRONT_HI_FRONT k) fw.1 s)

/-- A REPAIR retirement recorded at a frontier (R164, R165). -/
def recordRow (k row : Nat) (s : State) : State :=
  let f := s.front k
  if !(f ≤ row && row < f + 64) then s
  else
    let n := s.get (Reg.SAS_RBD_CFG_ARRAY k)
    let s1 := stat n 7 1 (writeFront k (advanceFront 64 f (setBit (s.win k) (row - f) true)) s)
    if s1.front k < (s.geo n).rows then s1 else frontierDone k n (s.get (Reg.SAS_RBD_CFG_SLOT k)) s1

/-- The enabled frontiers that a retiring REPAIR intent advances: those whose slot is in its mask. -/
def State.frontsOf (s : State) (t : Intent) : List Nat :=
  (List.range 8).filter (fun k => s.on (Reg.SAS_RBD_CFG_ENABLE k) && s.get (Reg.SAS_RBD_CFG_ARRAY k) == t.array
    && t.members.contains ((s.geo t.array).indexOf (s.get (Reg.SAS_RBD_CFG_SLOT k))))

/-- An update's lines are clean: those not committed again since leave the cache, and staging and the lost-block list let go of
their blocks. -/
def cleanLines (lines : List (Nat × Line)) (s : State) : State :=
  let done := (lines.filter (fun l => match Assoc.find s.jnl.lines l.1 with
    | some x => x.ver == l.2.ver
    | none => true)).map Prod.fst
  let s1 := unstage done (dropLines done s)
  unexpose (forEach (lines.map Prod.fst) (fun k => dropLost (keyVol k) (keyLba k)) s1)

/-- Repairs of a row that still wait for its lock take over the blocks that an update has written meanwhile. -/
def patchRepairs (x : Update) (s : State) : State :=
  let patch (w : Nat × (Nat × List Block)) : Nat × (Nat × List Block) :=
    match Assoc.find x.writes w.1 with
    | none => w
    | some bs => (w.1, w.2.1, (w.2.2.zipIdx).map (fun b =>
        let i := w.2.1 + b.2
        if x.firstBlk ≤ i then bs.getD (i - x.firstBlk) b.1 else b.1))
  { s with sas := { s.sas with repairs := s.sas.repairs.map (fun p =>
      if p.2.array = x.array ∧ p.2.row = x.row ∧ p.2.head = none then (p.1, { p.2 with writes := p.2.writes.map patch }) else p) } }

/-- A row of a new volume is formatted (R246): the next one is due, and after the last the volume turns valid. -/
def rowFormatted (n row : Nat) (s : State) : State :=
  match allVols.find? (fun v => (s.volMeta v).bound && (s.volMeta v).array == n && (s.volMeta v).formatting == some row) with
  | none => s
  | some v =>
    let m := s.volMeta v
    if row + 1 < m.base + m.rows then onVolMeta v (fun x => { x with formatting := some (row + 1) }) s
    else writeVolumeValid v true (onVolMeta v (fun x => { x with formatting := none }) s)

/-- Step 7 of R124. The next update of the row that one write made is granted the lock again (R125; log entry 103). -/
def retireIntent (i : Nat) (s : State) : State :=
  match s.intent? i with
  | none => s
  | some t =>
    let key := rowKey t.array t.row
    let fronts := if t.method = 3 then s.frontsOf t else []
    let s1 := freeIntent i s
    let done (s : State) : State := retryIntents (finishPaid s)
    match s.jnl.updates.find? (fun p => p.2.head == some i) with
    | some (u, x) =>
      let s2 : State := { s1 with jnl := { s1.jnl with updates := Assoc.erase s1.jnl.updates u } }
      let s3 := patchRepairs x (payOwed x.lines (cleanLines x.lines s2))
      done (forEach fronts (fun k => recordRow k t.row) (releaseLock key s3))
    | none =>
      match s.sas.repairs.find? (fun p => p.2.head == some i) with
      | some (r, x) =>
        let s2 : State := { s1 with sas := { s1.sas with repairs := Assoc.erase s1.sas.repairs r } }
        let s3 := when x.format (rowFormatted t.array t.row) s2
        done (forEach fronts (fun k => recordRow k t.row) (releaseLock key s3))
      | none => done (forEach fronts (fun k => recordRow k t.row) s1)

/-- The intent may retire: its update is closing, its repair's writes are all confirmed, or it was allocated by JNL_ALLOC. -/
def State.retirable (s : State) (i : Nat) : Bool :=
  match s.jnl.updates.find? (fun p => p.2.head == some i) with
  | some (_, x) => x.step == 6
  | none =>
    match s.sas.repairs.find? (fun p => p.2.head == some i) with
    | some (_, x) => x.waiting.isEmpty
    | none => match s.intent? i with
      | some t => t.method == 3
      | none => false

end Sys2Proof.Machine
end

