-- ==== Sys2Proof/Machine/Members.lean ====
section
/-! DEFINITION. Member commands as they end (R144 to R147, R497), the slots they run on, wakes of held pieces (R150), escalated
pieces (R154), rebuild and copy frontiers (R163 to R170) and grazing (R172 to R179). -/

namespace Sys2Proof.Machine

/-! How a member command ends -/

/-- Status codes of R146. -/
def driveCode (st : DriveStatus) : Nat :=
  match st with
  | .good => 0 | .media => 1 | .timeout => 2 | .link => 3 | .t10 => 4 | .aborted => 5 | .notAwake => 6 | .invalid => 7

/-- Counters of a command's end (R144, R190). -/
def countEnd (c : MemCmd) (st : DriveStatus) (appTag : Bool) (s : State) : State :=
  match st with
  | .good =>
    bumpBy (if c.write then Reg.SAS_SLOT_WRITE_BLK_CNT c.phys else Reg.SAS_SLOT_READ_BLK_CNT c.phys) c.nblk s
  | .media => event Reg.SAS_EVENT_MEDIA_ERR Reg.SAS_MEDIA_ERR_CNT (bump (Reg.SAS_SLOT_MEDIA_ERR_CNT c.phys) s)
  | .t10 =>
    let s1 := event Reg.SAS_EVENT_MEDIA_ERR Reg.SAS_MEDIA_ERR_CNT (bump (Reg.SAS_SLOT_MEDIA_ERR_CNT c.phys) s)
    if c.write then s1
    else if appTag then event Reg.INT_EVENT_APP_TAG Reg.INT_APP_TAG_CNT s1
    else event Reg.INT_EVENT_T10_RX Reg.INT_T10_RX_CNT s1
  | .timeout => event Reg.SAS_EVENT_TIMEOUT Reg.SAS_TIMEOUT_CNT (bump (Reg.SAS_SLOT_TIMEOUT_CNT c.phys) s)
  | _ => s

/-- Thresholds of R147: the third timeout in 10 min and the 64th read media error in 24 h mark the member erased. -/
def chargeEnd (c : MemCmd) (st : DriveStatus) (s : State) : State :=
  let r := s.slot c.phys
  match st with
  | .timeout =>
    let l := s.clock :: s.within (sec 600) r.timeouts
    let s1 := onSlot c.phys (fun x => { x with timeouts := l }) s
    if 3 ≤ l.length then markErased c.logical s1 else s1
  | .media =>
    if c.write then s
    else
      let l := s.clock :: s.within (sec 86400) r.mediaErrs
      let s1 := onSlot c.phys (fun x => { x with mediaErrs := l }) s
      if 64 ≤ l.length then markErased c.logical s1 else s1
  | _ => s

/-- The COPY frontier whose target a member write went to: the slot's own bay while a spare serves it (R165). -/
def State.copyTarget (s : State) (c : MemCmd) : Option Nat :=
  if c.phys = c.logical ∧ s.physOf c.logical ≠ c.logical then (s.arrayOf c.logical).bind (fun n => s.frontierOf 1 n c.logical)
  else none

/-- A member write has failed: a copy ends there (R165), any other member is marked erased (R147). -/
def writeFailed (c : MemCmd) (st : DriveStatus) (s : State) : State :=
  match s.copyTarget c with
  | some k =>
    let s1 := onSlot c.phys (fun r => { r with drive := none }) (setF (Reg.SAS_RBD_CFG_ENABLE k) 0 s)
    if st = .media ∨ st = .t10 then s1 else event Reg.SAS_EVENT_MEDIA_ERR Reg.SAS_MEDIA_ERR_CNT s1
  | none => markErased c.logical s

/-- The data of a read is kept for the job that names its slot and tag. -/
def putRx (c : MemCmd) (data : List Block) (s : State) : State :=
  { s with sas := { s.sas with rx := Assoc.set s.sas.rx (rxKey c.phys c.tag) data } }

/-- The reads of an update are all in: the blocks that a member failed to give are rewritten to it, unless the update itself writes them (R156),
and the DELTA jobs of R405 or step 3 of R124 follow. -/
def readsIn (u : Nat) (s : State) : State :=
  match s.update? u with
  | none => s
  | some x =>
    if x.step = 1 ∧ x.reading.isEmpty then
      let written := s.parityTargets x ++ s.dataTargets x
      let ms := x.unreadable.filter (fun m => !written.contains m)
      rewriteRecovered x.array x.row x.firstBlk ms (fun m => some (x.content x.geo.field16 m)) (afterReads u s)
    else s

/-- A read of an update has brought a member's content. -/
def updateGot (u m : Nat) (data : List Block) (s : State) : State :=
  readsIn u (onUpdate u (fun y => { y with reads := Assoc.set y.reads m data, reading := remove y.reading m }) s)

/-- A read of an update has failed: the member's content is decoded from others where sources are known, and otherwise the update
waits for a plan as a read does. -/
def updateReadFailed (u m : Nat) (st : DriveStatus) (s : State) : State :=
  match s.update? u with
  | none => s
  | some x =>
    let gone := once (x.erased ++ x.plans.map Prod.fst ++ [m])
    let bad := if st = .media ∨ st = .t10 then addOnce x.unreadable m else x.unreadable
    match s.decodeSources x.array x.row gone m with
    | some srcs =>
      let more := (srcs.map Prod.fst).filter (fun i => (Assoc.find x.reads i).isNone && !x.reading.contains i)
      let left := remove x.reading m ++ more
      readsIn u (openReads u x more (onUpdate u (fun y => { y with plans := Assoc.set y.plans m srcs, reading := left, unreadable := bad }) s))
    | none =>
      let g := x.geo
      planMiss x.array (g.phase x.row) (g.planGroup x.row m) (onUpdate u (fun y => { y with
        step := 8, reads := [], reading := [], unreadable := bad }) s)

/-- What a command's end means to the one it served. -/
def memberEnd (c : MemCmd) (st : DriveStatus) (errLba : Nat) (appTag : Bool) (data : List Block) (s : State) : State :=
  let s1 := chargeEnd c st (countEnd c st appTag s)
  let good := st == .good
  match c.owner with
  | .firmware b => fwComplete c.tag b (driveCode st) errLba (when (good && !c.write) (putRx c data) s1)
  | .own => s1
  | .update u m =>
    if c.write then writeDone u m good (when (!good) (writeFailed c st) s1)
    else if good then updateGot u m data s1 else updateReadFailed u m st s1
  | .piece p a m =>
    (match s1.piece? p with
     | none => s1
     | some x =>
       if x.attempt != a then s1
       else if good then putRx c data s1
       else onPiece p (fun y => { y with err := if y.err.isSome then y.err else some (m, st) }) s1)
  | .repair r m => repairWritten r m c.nblk good (when (!good) (writeFailed c st) s1)

/-- Commands that ended as soon as they were opened (R144) are acted on, in order. -/
def settleFailed (s : State) : State :=
  forEach s.sas.failed (fun f t => memberEnd f.1 f.2 0 false [] t) { s with sas := { s.sas with failed := [] } }

/-- Reads and updates held on a plan of an array are examined again (R102). -/
def retryHeld (n : Nat) (s : State) : State :=
  retryPlans n (forEach ((s.sas.pieces.filter (fun p => p.2.state == 5 && p.2.array == n)).map Prod.fst) servePiece s)

/-- The firmware answers the plan misses (R102 step 4) and writes RETRY for each array; it writes it too where an evaluation has shown that what
is held cannot be decoded. -/
def answerPlans (s : State) : State :=
  let due := s.oxe.plansDue
  let can (p : Nat × (Nat × Nat)) : Bool :=
    (s.planOuts p.1 p.2.1 p.2.2).all (fun m => ((s.geo p.1).recover p.2.1 (s.erasedMembers p.1) m).isSome)
  let lost := (s.sas.pieces.filter (fun p => p.2.state == 5 && s.phaseFails p.2.array p.2.row && !s.on (Reg.STP_ARRAY_EVAL_BUSY p.2.array))).map
    (fun p => p.2.array)
  let arrays := once ((due.filter can).map Prod.fst ++ lost)
  if !s.sys.firmwareUp || (due.isEmpty && arrays.isEmpty) then s
  else forEach arrays retryHeld
    (forEach (due.filter can) (fun p t => buildPlan p.1 p.2.1 p.2.2 t) { s with oxe := { s.oxe with plansDue := [] } })

/-- STOP UNIT goes to drives on which no command is open any more (R142). What waited for a partner that is live no more goes on: updates whose intent it was to report (R124 step 4), and writes that wait for
room in staging (R118, R119). -/
def goOn (s0 : State) : State :=
  let s := forEach (allSlots.filter (fun n => (s0.slot n).stopDue)) sendStop s0
  let s1 := if s.partnerLive then s else forEach (s.jnl.updates.filter (fun p => p.2.step == 3)) (fun p t => issueJob p.1 t) s
  if s1.jnl.flights.any (fun f => f.toStage) then unexpose (stageWaiting s1) else s1

/-- What follows every change of the members or of the work on them: waiting commands open, pieces are served, failures are
acted on, rebuilds and copies start, waiting updates and writes go on, pending triggers are taken. -/
def after (s : State) : State :=
  settle (copyBack (startQueued (settleFailed (pump (settleFailed (openWaiting (answerPlans (goOn s))))))))

/-- A command leaves its port. -/
def dropCmd (c : MemCmd) (s : State) : State :=
  { s with sas := { s.sas with cmds := s.sas.cmds.filter (fun d => !(d.phys == c.phys && d.tag == c.tag)) } }

/-- Every command open on a physical slot ends with a status. -/
def endAllOn (phys : Nat) (st : DriveStatus) (s : State) : State :=
  forEach (s.sas.cmds.filter (fun c => c.phys == phys)) (fun c t => memberEnd c st 0 false [] (dropCmd c t)) s

/-- The command open on a physical slot under a tag. -/
def State.openCmdOn (s : State) (phys tag : Nat) : Option MemCmd := s.sas.cmds.find? (fun c => c.phys == phys && c.tag == tag)

/-- How a drive's answer ends its command (R497): status, ERR_LBA, whether an application tag alone failed, and the blocks of a good read; none
where the port retries. The codes of sense keys and of LOGICAL BLOCK ADDRESS OUT OF RANGE are SCSI's (log entry 119). -/
def State.replyEnd (s : State) (c : MemCmd) (r : DriveReply) (bs : List DriveBlock) (info : Option Nat) (capacity : Nat) :
    Option (DriveStatus × (Nat × (Bool × List Block))) :=
  match r with
  | .good =>
    if c.write then some (.good, 0, false, [])
    else match s.t10Check c bs with
      | some (lba, app) => some (.t10, lba, app, [])
      | none => some (.good, 0, false, (List.range c.nblk).map (fun i => (bs.map (fun b => b.data)).getD i 0))
  | .busy => none
  | .check key asc =>
    if key = 6 then none
    else if key = 5 ∧ asc = 0x21 then some (.invalid, capacity, false, [])
    else if asc = 0x10 then some (.t10, info.getD c.lba, false, [])
    else if key = 5 then some (.invalid, 0, false, [])
    else if key = 2 then some (.notAwake, 0, false, [])
    else some (.media, info.getD c.lba, false, [])
  | .other => some (.media, c.lba, false, [])

/-- MEMBER_COMMAND_COMPLETE (R497): a drive answers, with the blocks of a read, the block address of its sense data and its block count. The port sends the command again after BUSY, TASK SET FULL and UNIT ATTENTION. A tag
that is not open on a slot whose drive is stopping is the end of its STOP UNIT (R310). -/
def execMemberCommandComplete (slot : Fin 108) (tag : Nat) (reply : DriveReply) (blocks : List DriveBlock) (info : Option Nat) (capacity : Nat)
    (s : State) : Result :=
  match s.openCmdOn slot.val tag with
  | some c =>
    (match s.replyEnd c reply blocks info capacity with
     | some (st, err, app, data) => .next (after (memberEnd c st err app data (dropCmd c s)))
     | none => .next (sendDrive c s))
  | none => .next (when (s.slot slot.val).stopSent (stopEnds slot.val) s)

/-- MEMBER_COMMAND_TIMEOUT (R144, R497): the command is aborted and the link reset, which aborts the slot's other commands. -/
def execMemberCommandTimeout (slot : Fin 108) (tag : Nat) (s : State) : Result :=
  match s.openCmdOn slot.val tag with
  | none => .next s
  | some c =>
    let s1 := emit (.drive c.phys .linkReset 0 0 []) (emit (.drive c.phys .abort c.lba c.nblk []) (dropCmd c s))
    .next (after (endAllOn slot.val .aborted (memberEnd c .timeout 0 false [] s1)))

/-! Slots -/

/-- A slot's link is down: every command open on it ends with LINK (R144). -/
def linkFalls (n : Nat) (s : State) : State :=
  let s1 := setF (Reg.SAS_SLOT_STATUS_RATE n) 0 (setF (Reg.SAS_SLOT_STATUS_LINK_UP n) 0 s)
  endAllOn n .link (event Reg.SAS_EVENT_LINK_DOWN Reg.SAS_LINK_DOWN_CNT (bump (Reg.SAS_SLOT_LINK_DOWN_CNT n) s1))

/-- SLOT_LINK_DOWN (R144). -/
def execSlotLinkDown (slot : Fin 108) (s : State) : Result :=
  if s.on (Reg.SAS_SLOT_STATUS_LINK_UP slot.val) then .next (after (linkFalls slot.val s)) else .next s

/-- SLOT_LINK_UP (R309 step 5): a powered slot's link comes up at a rate. -/
def execSlotLinkUp (slot : Fin 108) (rate : Fin 4) (s : State) : Result :=
  let n := slot.val
  if s.on (Reg.SLT_STATUS_PRESENT n) && s.slotOn n && rate.val != 0 then
    .next (after (setF (Reg.SAS_SLOT_STATUS_RATE n) rate.val (setF (Reg.SAS_SLOT_STATUS_LINK_UP n) 1 s)))
  else .next s

/-- LINK_DOWN_ERASE_TIMER (R147). -/
def execLinkDownEraseTimer (slot : Fin 108) (s : State) : Result :=
  let n := slot.val
  if s.on (Reg.SLT_STATUS_PRESENT n) && s.on (Reg.SLT_STATUS_ON12 n) && s.on (Reg.SLT_STATUS_ON5 n)
      && !s.on (Reg.SAS_SLOT_STATUS_LINK_UP n) then
    .next (after (markErased (s.logicalOf n) s))
  else .next s

/-- A drive has been taken out (R299, R144, R147): the rails open, its commands end with LINK, its member is erased. -/
def driveRemoved (n : Nat) (s : State) : State :=
  let s1 := openRails n 3 (event Reg.SLT_EVENT_PRESENT_CHANGE Reg.SLT_PRESENT_CHANGE_CNT (setF (Reg.SLT_STATUS_PRESENT n) 0 s))
  let s2 := setF (Reg.SAS_SLOT_CTRL_AWAKE n) 0 (onSlot n (fun r => { r with drive := none, attempting := false }) s1)
  markErased (s.logicalOf n) (endAllOn n .link s2)

/-- A drive has been put in (R299, R498): the slot may be powered again, and an erased member of that slot is rebuilt where the
drive meets R161 and automatic replacement is on (R162). -/
def driveInserted (n : Nat) (drive : DriveFacts) (s : State) : State :=
  let s1 := event Reg.SLT_EVENT_PRESENT_CHANGE Reg.SLT_PRESENT_CHANGE_CNT (setF (Reg.SLT_STATUS_PRESENT n) 1 s)
  let s2 := onSlot n (fun r => { r with drive := some drive, leftOff := false, attemptFails := 0, timeouts := [], mediaErrs := [] }) s1
  let slot := s2.logicalOf n
  match s2.arrayOf slot with
  | some a =>
    if s2.meets a n && s2.feature 4 0 == 1 && (s2.erasedSlots a).contains slot && !s2.rebuildsSlot a slot then
      newDrive a slot n (startRebuild a slot s2)
    else s2
  | none => s2

/-- SLOT_PRESENT_CHANGE (R299): the presence contact closes on a drive, or opens. -/
def execSlotPresentChange (slot : Fin 108) (present : Bool) (drive : DriveFacts) (s : State) : Result :=
  let n := slot.val
  if s.on (Reg.SLT_STATUS_PRESENT n) == present then .next s
  else .next (after (if present then driveInserted n drive s else driveRemoved n s))

/-! The firmware command ring (R145, R146) -/

/-- Firmware commands fetched and not completed. -/
def State.fwOpen (s : State) : Nat :=
  ((s.sas.cmds ++ s.sas.unopened).filter (fun c => match c.owner with | .firmware _ => true | _ => false)).length

/-- Free entries of the firmware completion ring, one of which always stays unused. -/
def State.fwRoom (s : State) : Nat :=
  let n := s.get Reg.SAS_FW_CFG_SIZE_M1 + 1
  n - 1 - (s.get Reg.SAS_FW_CQ_TAIL_CQ_TAIL + n - s.get Reg.SAS_FW_CQ_HEAD_CQ_HEAD) % n

/-- FW_COMMAND_ENTRY (R145, R497): the next entry of the ring is fetched, and opened or refused. -/
def execFwCommandEntry (s : State) : Result :=
  let h := s.get Reg.SAS_FW_HEAD_HEAD
  if s.on Reg.SAS_CTRL_ENABLE && s.on Reg.SAS_FW_CFG_ENABLE && h != s.get Reg.SAS_FW_TAIL_TAIL && decide (s.fwOpen < s.fwRoom) then
    let a := s.get64 Reg.SAS_FW_BASE_LO_BASE Reg.SAS_FW_BASE_HI_BASE + 32 * h
    let b (i : Nat) : Nat := (s.readByte (a + i)).toNat
    let op := b 0
    let tag := leNat (s.readBytes (a + 2) 2)
    let lba := leNat (s.readBytes (a + 8) 8)
    let nblkM1 := leNat (s.readBytes (a + 16) 4)
    let phys := if bitOf (b 1) 7 = 1 then bits (b 1) 0 7 else s.physOf (bits (b 1) 0 7)
    let logical := if bitOf (b 1) 7 = 1 then s.logicalOf phys else bits (b 1) 0 7
    let s1 := setF Reg.SAS_FW_HEAD_HEAD ((h + 1) % (s.get Reg.SAS_FW_CFG_SIZE_M1 + 1)) s
    let busy := (s.openCmdOn phys tag).isSome || s.sas.unopened.any (fun c => c.phys == phys && c.tag == tag)
    if (op ≠ 1 ∧ op ≠ 2) ∨ tag < 0x8000 ∨ busy = true ∨ 255 < nblkM1 then .next (fwComplete tag (b 1) 7 0 s1)
    else if !s.awake phys && bitOf (b 20) 0 == 0 then .next (fwComplete tag (b 1) 6 0 s1)
    else .next (after (openCmd { phys := phys, logical := logical, fixed := bitOf (b 1) 7 == 1, tag := tag, write := op == 2, lba := lba,
                                 nblk := nblkM1 + 1, owner := .firmware (b 1), data := [] } s1))
  else .next s

/-- EVAL_DONE (R68): PHASE_FAIL and MAX_DEFICIT describe the captured set; START and BUSY clear. The firmware has a set that has
changed meanwhile evaluated again. -/
def execEvalDone (n : Fin 4) (s : State) : Result :=
  if s.on (Reg.STP_ARRAY_EVAL_BUSY n.val) then
    let g := s.geo n.val
    let e := Assoc.getD s.stp.evals n.val []
    let s1 := setF (Reg.STP_ARRAY_EVAL_MAX_DEFICIT n.val) (g.maxDeficit e)
      (setF (Reg.STP_ARRAY_EVAL_PHASE_FAIL n.val) (g.phaseFail e) s)
    let s2 := setF (Reg.STP_ARRAY_EVAL_START n.val) 0 (setF (Reg.STP_ARRAY_EVAL_BUSY n.val) 0 s1)
    .next (after (when (s.sys.firmwareUp && s.on (Reg.STP_ARRAY_EVAL_STALE n.val)) (startEval n.val) s2))
  else .next s

/-! Wakes and escalations -/

/-- AWAKE_WRITE (R142). -/
def execAwakeWrite (slot : Fin 108) (awake : Bool) (s : State) : Result :=
  land (0xA1000 + 0x40 * slot.val) (.awakeWrite slot awake) (fun t => after (setF (Reg.SAS_SLOT_CTRL_AWAKE slot.val) (b2n awake) t)) s

/-- DRIVE_READY (R498): the drive is awake; the metadata in its header area catches up (log entry 123), and what waited for it goes on. -/
def execDriveReady (slot : Fin 108) (s : State) : Result :=
  let n := slot.val
  if s.on (Reg.SLT_STATUS_SURGING n) then
    let s1 := setF (Reg.SLT_STATUS_SURGING n) 0 (setF (Reg.SAS_SLOT_CTRL_AWAKE n) 1 s)
    let s2 := onSlot n (fun r => { r with attempting := false, attemptFails := 0 }) s1
    .next (after (match s2.arrayOf (s2.logicalOf n) with
      | some a => emit (.headerRecord n (s2.headerRecord a)) s2
      | none => s2))
  else .next s

/-- Pieces held on a physical slot. -/
def State.heldOn (s : State) (n : Nat) : List Nat :=
  (s.sas.pieces.filter (fun p => p.2.state == 4 && p.2.needs.contains n)).map Prod.fst

/-- WAKE_RETRY (R150): every piece held on the slot is served afresh; where its drive has been woken, the wake answered them (R180). -/
def execWakeRetry (slot : Fin 108) (s : State) : Result :=
  land 0xA0020 (.wakeRetry slot) (fun t =>
    let t1 := setF Reg.SAS_WAKE_RETRY_DENY 0 (setF Reg.SAS_WAKE_RETRY_SLOT slot.val t)
    let t2 := match t1.arrayOf (t1.logicalOf slot.val) with
      | some a => when (t1.awake slot.val && !(t1.heldOn slot.val).isEmpty) (stat a 10 1) t1
      | none => t1
    after (forEach (t2.heldOn slot.val) servePiece t2)) s

/-- WAKE_DENY (R150): the pieces held on the slot complete with POWER_BUDGET_DENIED. -/
def execWakeDeny (slot : Fin 108) (s : State) : Result :=
  land 0xA0020 (.wakeDeny slot) (fun t =>
    let t1 := setF Reg.SAS_WAKE_RETRY_DENY 1 (setF Reg.SAS_WAKE_RETRY_SLOT slot.val t)
    after (forEach (t1.heldOn slot.val) (fun p u =>
      let u1 := match u.piece? p with | some x => stat x.array 11 1 u | none => u
      pieceEnds p St.budgetDenied u1) t1)) s

/-- ESC_DONE (R154, R157): the firmware's own jobs have resolved a piece; `reads` is what they read of the row's members over the piece's
range, the failing blocks being further erasures of that row. Blocks that cannot be recovered so are a free value: the spec has the firmware
answer OK only where it holds the data. A number that no escalated piece has is ignored. -/
def execEscDone (piece : Nat) (outcome : Fin 4) (reads : List (Nat × List (Option Block))) (s : State) : Result :=
  land 0xA00D4 (.escDone piece outcome reads) (fun t =>
    let t1 := setF Reg.SAS_ESC_DONE_OUTCOME outcome.val (setF Reg.SAS_ESC_DONE_PIECE piece t)
    match t1.sas.pieces.find? (fun p => p.2.state == 6 && p.1 % 2 ^ 24 == piece % 2 ^ 24) with
    | none => ignored 6 0 t1
    | some (p, x) =>
      let g := t1.geo x.array
      let content (m : Nat) : Option (List Block) := g.contentOf x.row reads (t1.erasedIn x.array x.row) x.nblk m
      if outcome.val = 0 then
        let data := (content (g.memberOf x.row (.data x.d))).getD ((List.range x.nblk).map (fun i => t1.freeAt i 32768))
        after (pieceLanded p data content (useFrees x.nblk (onPiece p (fun y => { y with degraded := true }) t1)))
      else if outcome.val = 2 then after (servePiece p (onPiece p (fun y => { y with failed := [], reason := 0, degraded := false }) t1))
      else after (pieceLost p t1)) s

/-- PLAN_RETRY (R102): reads and updates held on a plan of the array are examined again. -/
def execPlanRetry (n : Fin 4) (s : State) : Result :=
  land (0x40100 + 0x20 * n.val) (.planRetry n) (fun t =>
    after (retryHeld n.val t)) s

/-! Rebuild and copy frontiers -/

/-- FRONTIER_ENABLE (R163). -/
def execFrontierEnable (k : Fin 8) (enable : Bool) (s : State) : Result :=
  land (0xA0200 + 0x20 * k.val) (.frontierEnable k enable) (fun t =>
    if enable then enableFrontier k.val t else after (setF (Reg.SAS_RBD_CFG_ENABLE k.val) 0 t)) s

/-- The next row of a frontier (R167): the first within its window that is neither rebuilt nor under way. -/
def State.nextRow (s : State) (k : Nat) : Option Nat :=
  let f := s.front k
  let n := s.get (Reg.SAS_RBD_CFG_ARRAY k)
  let underWay (row : Nat) : Bool := s.sas.repairs.any (fun p => p.2.frontier == some k && p.2.row == row)
    || s.jnl.updates.any (fun p => p.2.array == n && p.2.row == row && p.2.method == 3)
  ((List.range 64).map (fun i => f + i)).find? (fun row =>
    decide (row < (s.geo n).rows) && bitOf (s.win k) (row - f) == 0 && !underWay row)

/-- A unit that the rebuild of a row must not write: the row is lost, and the unit lies in the loss. -/
def State.inLoss (s : State) (n row m : Nat) : Bool :=
  let lost := if s.phaseFails n row then s.lostUnits n row else []
  match (s.geo n).role row m with
  | .data d => lost.contains d
  | _ => !lost.isEmpty

/-- Priorities of a rebuild (R169). -/
inductive Priority where
  | low | normal | high
  deriving DecidableEq, Repr

/-- The priority in force: the operator's, else as the array state sets it (R169, R170). -/
def State.rebuildPriority (s : State) (n : Nat) : Priority :=
  let f := s.feature 5 n
  if f = 1 then .low
  else if f = 2 ∨ s.arrayState n = 3 ∨ s.get (Reg.STP_ARRAY_CFG_TOL n) - (s.erasedMembers n).length ≤ 2 then .high
  else .normal

/-- A command of the host's is open or queued on a drive. -/
def State.hostOn (s : State) (phys : Nat) : Bool :=
  (s.sas.cmds ++ s.sas.unopened).any (fun c => c.phys == phys && (match c.owner with | .update _ _ | .piece _ _ _ => true | _ => false))

/-- The member that a frontier serves, and the physical slot of its target: in COPY mode the bay of the slot itself. -/
def State.frontMember (s : State) (k : Nat) : Nat := (s.geo (s.get (Reg.SAS_RBD_CFG_ARRAY k))).indexOf (s.get (Reg.SAS_RBD_CFG_SLOT k))
def State.frontTarget (s : State) (k : Nat) : Nat :=
  let slot := s.get (Reg.SAS_RBD_CFG_SLOT k)
  if s.on (Reg.SAS_RBD_CFG_MODE k) then slot else s.physOf slot

/-- Members whose reads give the unit of a row (R160): the member itself for COPY, which is live on its substituted slot (R165). -/
def State.frontSources (s : State) (k row : Nat) : List Nat :=
  let n := s.get (Reg.SAS_RBD_CFG_ARRAY k)
  ((s.geo n).sources row (s.erasedIn n row) (s.frontMember k)).getD []

/-- Drives that a rebuild of a row needs (R160). -/
def State.frontDrives (s : State) (k row : Nat) : List Nat :=
  once (s.frontTarget k :: (s.frontSources k row).map (s.physMember (s.get (Reg.SAS_RBD_CFG_ARRAY k))))

/-- Some blocks of a data unit cannot be had: each enters the lost-block list and is logged (R158, R238; log entry 121). -/
def loseBlocks (v n row d : Nat) (blocks : List Nat) (s : State) : State :=
  forEach blocks (fun b t => logLost n row d b 1 (addLost v (t.lbaAt v row d b) 1 t)) s

/-- The blocks that the reads of a row's sources give for a member, failing ones being further erasures of that row (R154, R170); where they
cannot be decoded a parity is computed with zeros for the data that is not there, and a data block is zero. -/
def Geo.rebuilt (g : Geo) (row : Nat) (rd : RowReads) (gone : List Nat) (m : Nat) : List (Option Block × Block) :=
  (List.range g.unitBlocks).map (fun b =>
    let dataOf (d : Nat) : List Block := [(g.blockOf row rd gone (g.memberOf row (.data d)) b).getD 0]
    let x := g.blockOf row rd gone m b
    (x, x.getD (match g.role row m with | .data _ => 0 | r => (g.parityFrom r 1 dataOf).headD 0)))

/-- The member that a frontier serves takes its unit of a row; a unit of a lost row takes zeros through an update. What survivors failed to
give and was recovered is rewritten to them (R156). -/
def rebuildRow (k row : Nat) (reads : RowReads) (s : State) : State :=
  let n := s.get (Reg.SAS_RBD_CFG_ARRAY k)
  let g := s.geo n
  let m := s.frontMember k
  if !s.on (Reg.SAS_RBD_CFG_MODE k) && s.inLoss n row m then
    queueUpdates [s.lostRowUpdate n row (s.lostUnits n row)] (loseUnits n row (s.lostUnits n row) s)
  else
    let gone := s.erasedIn n row
    let unit := g.rebuilt row reads gone m
    let missing := ((unit.zipIdx).filter (fun x => x.1.1.isNone)).map (fun x => x.2)
    let s1 := match g.role row m, s.volAt n row with | .data d, some v => loseBlocks v n row d missing s | _, _ => s
    let s2 := startRepair { array := n, row := row, writes := [(m, 0, unit.map (fun x => x.2))], frontier := some k } s1
    let failed := (g.badBlocks reads gone g.unitBlocks).filter (fun f => f.1 != m || s.on (Reg.SAS_RBD_CFG_MODE k))
    forEach failed (fun f t => rewriteRecovered n row f.2 [f.1] (fun i => (g.blockOf row reads gone i f.2).map (fun x => [x])) t) s2

/-- A frontier may rebuild a row now: it is enabled, the module serves, the array is not OFFLINE, nothing holds or asks for the row's lock; and
at priority LOW no command of the host's competes on its drives (R169). -/
def State.mayRebuild (s : State) (k row : Nat) : Bool :=
  let n := s.get (Reg.SAS_RBD_CFG_ARRAY k)
  s.on (Reg.SAS_RBD_CFG_ENABLE k) && s.mode == Mode.serving && s.arrayState n != 4 && !s.excess && s.lockOf (rowKey n row) == (none, [])
    && !(s.rebuildPriority n == .low && (s.frontDrives k row).any s.hostOn)

/-- The row that a frontier comes to is rebuilt, if there is one and it may be; drives that it needs and that sleep are woken. -/
def rebuildNext (k : Nat) (reads : RowReads) (row : Option Nat) (s : State) : State :=
  match row with
  | none => s
  | some r =>
    let asleep := (s.frontDrives k r).filter (fun p => !s.awake p)
    if !s.mayRebuild k r then s
    else if asleep.isEmpty then after (rebuildRow k r reads s)
    else after (forEach asleep wakeSlot s)

/-- REBUILD_ROW (R167, R165, R171): the next row of a frontier is read through the firmware's ring, decoded, and written to the target under a
REPAIR intent and the row's lock; a row whose phase fails is made consistent as a lost row where it holds the member's loss. `reads` is
what the members of R160 read. The row's lock must be free. -/
def execRebuildRow (k : Fin 8) (reads : RowReads) (s : State) : Result := .next (rebuildNext k.val reads (s.nextRow k.val) s)

/-- REBUILD_CHECKPOINT (R168): F goes to MRAM, to the partner and into the target's header area. -/
def execRebuildCheckpoint (k : Fin 8) (s : State) : Result :=
  if s.on (Reg.SAS_RBD_CFG_ENABLE k.val) then
    let f := s.front k.val
    let s1 : State := { s with sas := { s.sas with
      checkpoints := Assoc.set s.sas.checkpoints k.val f, lastCheckpoint := Assoc.set s.sas.lastCheckpoint k.val s.clock } }
    let t := s.frontTarget k.val
    .next (sendConfig [7, k.val, f] (when (s.awake t)
      (fun u => emit (.headerRecord t (u.headerRecord (s.get (Reg.SAS_RBD_CFG_ARRAY k.val)))) u) s1))
  else .next s

/-! Grazing -/

/-- Member indices of a grazed group; every member for the global graze. -/
def Geo.grazed (g : Geo) (grp : Option Nat) : List Nat :=
  (List.range g.members).filter (fun i => match grp with | none => true | some k => g.grazeGroup i == k)

/-- Every live one of some members is awake. -/
def State.membersAwake (s : State) (n : Nat) (ms : List Nat) : Bool :=
  ms.all (fun m => (s.erasedMembers n).contains m || s.awakeMember n m)

/-- Some member of the group is rebuilding. -/
def State.rebuilding (s : State) (n : Nat) (ms : List Nat) : Bool :=
  ms.any (fun m => (s.frontierOf 0 n ((s.geo n).slotOf m)).isSome)

/-- The graze may take a step (R172 to R174, R252): the module serves, the array is not OFFLINE, no member is rebuilding, no
group yields to host I/O or has a command of the host's open or queued, and no self-test bars it. -/
def State.mayGraze (s : State) (n : Nat) (grp : Option Nat) : Bool :=
  let ms := (s.geo n).grazed grp
  let yields := match grp with | some k => (s.care n).yielded.contains k | none => !(s.care n).yielded.isEmpty
  s.on (Reg.STP_ARRAY_CFG_VALID n) && s.mode == Mode.serving && s.arrayState n != 4 && !s.rebuilding n ms && !yields
    && !ms.any (fun m => s.hostOn (s.physMember n m)) && !s.testBars n && !s.excess

/-- The period of a graze (R172, R234): local days in the low half of GRAZE_PERIOD, global days in the high half; group 8 is the global
graze. -/
def State.grazePeriod (s : State) (n key : Nat) : Nat := sec 86400 * bits (s.feature 6 n) (if key = 8 then 16 else 0) 16

/-- How far a graze is past due. -/
def State.grazeLate (s : State) (n key : Nat) : Nat := s.clock - (Assoc.getD (s.care n).started key 0 + s.grazePeriod n key)

/-- A graze is behind schedule, or overdue (R172). -/
def State.grazeBehind (s : State) (n key : Nat) : Bool := decide (s.grazePeriod n key < 4 * s.grazeLate n key)
def State.grazeOverdue (s : State) (n key : Nat) : Bool := decide (s.grazePeriod n key < s.grazeLate n key)

/-- A whole-array graze from the priority queue is under way. -/
def ArrayCare.wholeUnderWay (c : ArrayCare) : Bool := c.queue.head? == some none && Assoc.getD c.next 9 0 != 0

/-- The entries that wait behind a whole-array graze under way. -/
def ArrayCare.waiting (c : ArrayCare) : List (Option Nat) := if c.wholeUnderWay then c.queue.drop 1 else c.queue

/-- An entry joins the graze priority queue (R178); a full queue becomes one whole-array entry behind a graze that is under way. An entry that
waits already is not added again (log entry 124). -/
def queueGraze (n : Nat) (entry : Option Nat) (s : State) : State :=
  onCare n (fun c =>
    if c.waiting.contains entry || c.waiting.contains none then c
    else if 4096 ≤ c.queue.length then { c with queue := (if c.wholeUnderWay then [none] else []) ++ [none] }
    else { c with queue := c.queue ++ [entry] }) s

/-- A confirmed mismatch is acted on (R176): a repair under a REPAIR intent, or the row is recorded as suspect. -/
def actOn (n row : Nat) (f : GrazeFinding) (s : State) : State :=
  let g := s.geo n
  let repair (ws : List (Nat × (Nat × List Block))) (t : State) : State := startRepair { array := n, row := row, writes := ws } t
  match f with
  | .badBlock m first data => repair [(m, first, data)] s
  | .localParity k data => repair [(g.memberOf row (.par k), 0, data)] s
  | .dataUnit d data => repair [(g.memberOf row (.data d), 0, data)] s
  | .globals data => repair ((data.zipIdx).filterMap (fun x => if x.1.isEmpty then none else some (g.memberOf row (.glob x.2), 0, x.1))) s
  | .notAttributable => logEvent 9 n row [] (stat n 5 1 s)

/-- Members of a row that a graze of a group does not read: erased ones, and those of other groups. -/
def State.notGrazed (s : State) (n row : Nat) (grp : Option Nat) : List Nat :=
  (List.range (s.geo n).members).filter (fun m => (s.erasedIn n row).contains m || !((s.geo n).grazed grp).contains m)

/-- Members of a row that the second reading cannot take in: erased ones, and those whose drives sleep. -/
def State.unreadable (s : State) (n row : Nat) : List Nat :=
  (List.range (s.geo n).members).filter (fun m => (s.erasedIn n row).contains m || !s.awakeMember n m)

/-- The row shows a mismatch on the first reading, and it remains on the second, under the row's lock (R175). -/
def State.mismatches (s : State) (n row : Nat) (grp : Option Nat) (rd : RowReads) : Bool :=
  (s.geo n).damaged row (s.geo n).unitBlocks rd (s.notGrazed n row grp)
def State.confirms (s : State) (n row : Nat) (rd : RowReads) : Bool :=
  (s.geo n).damaged row (s.geo n).unitBlocks rd (s.unreadable n row)

/-- A confirmed mismatch is arbitrated (R176) where every member is awake, or where it is of bad blocks that can be decoded; otherwise the row
waits in the priority queue (R177). -/
def arbitrateRow (n row : Nat) (rd : RowReads) (s : State) : State :=
  let g := s.geo n
  let gone := s.unreadable n row
  let found := g.arbitrate row g.unitBlocks rd gone
  let bad := !(g.badBlocks rd gone g.unitBlocks).isEmpty && !found.contains .notAttributable
  if bad || s.membersAwake n (List.range g.members) then forEach found (actOn n row) s else queueGraze n (some row) s

/-- One row checked: what it reads first, and again under its lock where the first reading shows a mismatch (R175). -/
def grazeRow (n : Nat) (grp : Option Nat) (row : Nat) (rd : RowTwice) (s : State) : State :=
  if !s.mismatches n row grp rd.first then s
  else if s.confirms n row rd.again then arbitrateRow n row rd.again (stat n 2 1 s)
  else stat n 3 1 s

/-- A row with an open intent, or whose lock is held, is skipped (R175). -/
def State.rowBusy (s : State) (n row : Nat) : Bool :=
  s.jnl.intents.any (fun p => p.2.array == n && p.2.row == row) || s.lockOf (rowKey n row) != (none, [])

/-- The rows of a step, each with the reads of its members: a row that `reads` does not list shows no mismatch. -/
def grazeRows (n : Nat) (grp : Option Nat) (rows : List Nat) (reads : List RowTwice) (s : State) : State :=
  forEach rows (fun r t => match reads.find? (fun x => x.row == r) with | some rd => grazeRow n grp r rd t | none => t) s

/-- Rows of a step of the graze of a group, key 8 for the global graze and 9 for a whole-array entry. -/
def State.stepRows (s : State) (n key : Nat) : List Nat :=
  let p := Assoc.getD (s.care n).next key 0
  (List.range 64).map (fun i => p + i) |>.filter (fun r => decide (r < (s.geo n).rows))

/-- A step moves the next-row pointer, which goes to the partner and into the group's header areas (R172); a completed pass starts the next
period, and an overdue graze has caught up (R179). -/
def advanceGraze (n key : Nat) (s : State) : State :=
  let p := Assoc.getD (s.care n).next key 0 + 64
  let grp := if key < 8 then some key else none
  writeRecords n (((s.geo n).grazed grp).map (s.geo n).slotOf) (sendConfig [12, n] (
    if p < (s.geo n).rows then onCare n (fun c => { c with next := Assoc.set c.next key p }) s
    else onCare n (fun c => { c with
      next := Assoc.set c.next key 0,
      started := if key = 9 then c.started else Assoc.set c.started key s.clock,
      overdue := remove c.overdue key,
      queue := if key = 9 then c.queue.drop 1 else c.queue }) s))

/-- What a step takes up (R178): a row of the priority queue, its whole-array graze, or the schedule; the rows, and the state with that taken up. A
local step cannot serve the queue. -/
def State.takeStep (s : State) (n : Nat) (grp : Option Nat) : List Nat × State :=
  match grp, (s.care n).queue with
  | none, some r :: rest => ([r], onCare n (fun c => { c with queue := rest }) s)
  | none, none :: _ => (s.stepRows n 9, advanceGraze n 9 s)
  | none, [] => (s.stepRows n 8, advanceGraze n 8 s)
  | some k, _ => (s.stepRows n k, advanceGraze n k s)

/-- The rows of a step, those that an earlier step skipped first: busy ones are skipped, the others checked and counted. -/
def grazeStep (n : Nat) (grp : Option Nat) (reads : List RowTwice) (s : State) : State :=
  let key := grp.getD 8
  let step := s.takeStep n grp
  let rows := once (((s.care n).skipped.filter (fun p => p.1 == key)).map (fun p => p.2) ++ step.1)
  let busy := rows.filter (s.rowBusy n)
  let clear := rows.filter (fun r => !s.rowBusy n r)
  let s1 := onCare n (fun c => { c with skipped := c.skipped.filter (fun p => p.1 != key) ++ busy.map (fun r => (key, r)) }) step.2
  grazeRows n grp clear reads (stat n (if grp.isNone then 1 else 0) clear.length s1)

/-- Rows with what their members read first, and again under the row's lock. -/
def rowsTwice (first again : List (Nat × RowReads)) : List RowTwice := first.map (fun r => ⟨r.1, r.2, Assoc.getD again r.1 []⟩)

/-- GRAZE_STEP (R172 to R178): what the members of the step's rows read first, and again under the row's lock. A global step serves the
priority queue first, and needs every member awake. In a window for a local graze the firmware wakes the members that sleep; for a group
behind schedule it asks for tokens where the allowance has no room (R173). -/
def execGrazeStep (array : Fin 4) (group : Option (Fin 8)) (first again : List (Nat × RowReads)) (s : State) : Result :=
  let n := array.val
  let grp := group.map (fun k => k.val)
  let ms := (s.geo n).grazed grp
  if !s.mayGraze n grp then .next s
  else if s.membersAwake n ms then .next (after (grazeStep n grp (rowsTwice first again) s))
  else
    let asleep := ((ms.filter (fun m => !(s.erasedMembers n).contains m && !s.awakeMember n m)).map (s.physMember n)).filter (fun p => !(s.slot p).leftOff)
    let off := (asleep.filter (fun p => !s.slotOn p)).length
    match grp with
    | none => .next s
    | some k =>
      if decide (s.nOn + off ≤ s.spinAllowance) then .next (after (forEach asleep requestSlot s))
      else if s.grazeBehind n k then
        .next (after (requestTokens ((s.nOn + off - s.spinAllowance) * s.get Reg.PWR_SPIN_P_DRIVE_DW) (forEach asleep requestSlot s)))
      else .next s

/-- GRAZE_RESUME (R174): 5 s without a host command at the members of a group; group 8 is the global parities. -/
def execGrazeResume (array : Fin 4) (group : Fin 9) (s : State) : Result :=
  .next (onCare array.val (fun c => { c with yielded := remove c.yielded group.val }) s)

/-- GRAZE_OVERDUE (R179): the condition of a group, or of the global graze, is looked at. -/
def execGrazeOverdue (array : Fin 4) (group : Fin 8) (whole : Bool) (s : State) : Result :=
  let key := if whole then 8 else group.val
  let late := s.on (Reg.STP_ARRAY_CFG_VALID array.val) && s.grazeOverdue array.val key
  .next (onCare array.val (fun c => { c with overdue := if late then addOnce c.overdue key else remove c.overdue key }) s)

end Sys2Proof.Machine
end

