-- ==== Sys2Proof/Machine/Jobs.lean ====
section
/-! DEFINITION. What an Ox job computes (R77, R90), how it ends (R93 to R95), and what the stripe manager does then (R124, R192,
R194, R104). -/

namespace Sys2Proof.Machine

/-! Jobs of the firmware: content in memory and in SAS buffers -/

/-- A 4 KiB block of internal memory. -/
def State.readBlock (s : State) (a : Nat) : Block := leNat (s.readBytes a 4096)

/-- The address of a block's sidecar entry, and of a digest (R78). -/
def State.sidecarAt (s : State) (a : Nat) : Nat :=
  s.get64 Reg.OXE_SIDECAR_BASE_LO_BASE Reg.OXE_SIDECAR_BASE_HI_BASE + 4 * (a / 4096)
def State.digestAt (s : State) (k : Nat) : Nat :=
  s.get64 Reg.OXE_DIGEST_BASE_LO_BASE Reg.OXE_DIGEST_BASE_HI_BASE + 4 * k

/-- The sidecar of a block holds its CRC-32C. -/
def State.sidecarGood (s : State) (a : Nat) : Bool := leNat (s.readBytes (s.sidecarAt a) 4) == crc32c (s.readBytes a 4096)

/-- Physical slot and tag that a SAS reference names (R88). -/
def State.sasRef (s : State) (a : Nat) : Nat × Nat := (s.physOf (bits a 0 7), bits a 16 16)

/-- The content of a source; none where its SAS stream has no data. -/
def State.srcBlocks (s : State) (j : Job) (x : Src) : Option (List Block) :=
  if x.kind = 0 then some ((List.range j.len).map (fun b => s.readBlock (x.addr + 4096 * b)))
  else if x.kind = 1 then Assoc.find s.sas.rx (rxKey (s.sasRef x.addr).1 (s.sasRef x.addr).2)
  else some (List.replicate j.len 0)

/-- The update that a job of the stripe manager serves. -/
def Job.update? (j : Job) : Option Nat := match j.owner with | .update u => some u | .delta u _ => some u | _ => none

/-- What the sources of a job hold: those of an update's jobs are its lines and what it read. -/
def State.jobContent (s : State) (j : Job) : List (List Block) :=
  match j.owner with
  | .update u => (match s.update? u with | some x => (s.updateSrcs x).map Prod.snd | none => [])
  | .delta u d => (match s.update? u with | some x => (s.deltaSrcs x d).map Prod.snd | none => [])
  | _ => j.srcs.map (fun x => (s.srcBlocks j x).getD [])

/-- A command is open, or waits to be opened, under a reference. -/
def State.refOpen (s : State) (a : Nat) : Bool :=
  (s.sas.cmds ++ s.sas.unopened).any (fun c => c.phys == (s.sasRef a).1 && c.tag == (s.sasRef a).2)

/-- A job still has a stream that its port has not opened or ended: a source that has brought no data, or a write that waits to be opened. -/
def State.streaming (s : State) (j : Job) : Bool :=
  (j.update?.isNone && j.srcs.any (fun x => x.kind == 1 && s.refOpen x.addr))
    || j.dsts.any (fun x => x.kind == 1 && s.sas.unopened.any (fun c => c.phys == (s.sasRef x.addr).1 && c.tag == (s.sasRef x.addr).2))

/-- The coefficient of a source for an output, as a run captured it (R84); in GF(2^8) bits [7:0] alone. -/
def Job.coefOf (j : Job) (run o : Nat) (x : Src) : Nat :=
  let c := Assoc.getD (Assoc.getD j.coef run []) (o * 128 + x.column) 0
  if j.field16 then c else c % 256

/-- Output o of a run of a job (R90), from the content of its sources. -/
def Job.output (j : Job) (run : Nat) (content : List (List Block)) (o : Nat) : List Block :=
  let at' (i : Nat) : List Block := content.getD i []
  let src (i : Nat) : Src := j.srcs.getD i ⟨0, 2, false, false, 0, 0⟩
  let term (i : Nat) : Nat × List Block := (j.coefOf run o (src i), at' i)
  let n := j.srcs.length
  if j.op = 5 then at' 0
  else if j.op = 3 then
    let pairs := (List.range j.pairs).flatMap (fun k =>
      [(j.coefOf run o (src (2 * k + 1)), at' (2 * k)), (j.coefOf run o (src (2 * k + 1)), at' (2 * k + 1))])
    sumBlocks j.field16 j.len ((if 2 * j.pairs + o < n then [(1, at' (2 * j.pairs + o))] else []) ++ pairs)
  else if j.op = 4 then sumBlocks j.field16 j.len ((List.range (n - j.nout)).map term)
  else sumBlocks j.field16 j.len ((List.range n).map term)

/-- The outputs that a run puts out: those of R90, with what a fault of its engine adds to them. -/
def Job.outputs (j : Job) (run : Nat) (noise : List (Nat × List Block)) (content : List (List Block)) : List (List Block) :=
  (List.range j.nout).map (fun o => (j.output run content o).zipIdx.map (fun b => Nat.xor b.1 ((Assoc.getD noise o []).getD b.2 0)))

/-- What each destination takes: the outputs, then the passed sources. -/
def Job.delivery (j : Job) (outs content : List (List Block)) (i : Nat) : List Block :=
  if i < j.nout then outs.getD i []
  else match (List.range j.srcs.length).find? (fun k => match j.srcs[k]? with | some x => x.pass && x.passIdx == i | none => false) with
    | some k => content.getD k []
    | none => []

/-- MISMATCH and the first block that differed of a VERIFY. -/
def Job.verify (j : Job) (outs content : List (List Block)) : Nat × Nat :=
  let stored (o : Nat) : List Block := content.getD (j.srcs.length - j.nout + o) []
  let bad (o b : Nat) : Bool := ((outs.getD o []).getD b 0) != ((stored o).getD b 0)
  let wrong := (List.range j.nout).filter (fun o => (List.range j.len).any (bad o))
  ((wrong.map (fun o => 2 ^ o)).sum,
    ((List.range j.len).find? (fun b => wrong.any (fun o => bad o b))).getD 0)

/-! Where a run stops (R75, R95) -/

/-- Blocks of a slice of the accumulator (R75): 1 MiB over the output rows rounded up to a power of two. -/
def Job.slice (j : Job) : Nat :=
  256 / (if j.nout ≤ 1 then 1 else if j.nout ≤ 2 then 2 else if j.nout ≤ 4 then 4 else if j.nout ≤ 8 then 8 else 16)

/-- Source blocks taken in once block b of source k is in (R75): segment by segment, and in a segment source by source. -/
def Job.takenAt (j : Job) (k b : Nat) : Nat :=
  let seg := b / j.slice * j.slice
  j.srcs.length * seg + k * min j.slice (j.len - seg) + (b - seg) + 1

/-- Blocks that a destination can have taken when a run stops at some source blocks taken in: of a passed source those before it, of an output those
of the segments before. -/
def Job.limit (j : Job) (taken i : Nat) : Nat :=
  if i < j.nout then
    ((List.range j.len).filter (fun b => decide (j.takenAt (j.srcs.length - 1) (min (j.len - 1) (b / j.slice * j.slice + j.slice - 1)) < taken))).length
  else match (List.range j.srcs.length).find? (fun k => match j.srcs[k]? with | some x => x.pass && x.passIdx == i | none => false) with
    | some k => ((List.range j.len).filter (fun b => decide (j.takenAt k b < taken))).length
    | none => 0

/-- A sidecar is written (R77, R78); an armed kind 3 corrupts it, by a free value. -/
def writeSidecar (a crc : Nat) (s : State) : State :=
  if s.armed 3 then
    useFree (disarm (writeBytes (s.sidecarAt a) (leBytes 4 (s.spoiled 32 crc)) s))
  else writeBytes (s.sidecarAt a) (leBytes 4 crc) s

/-- The blocks of one destination are delivered, with their sidecars, and the digest of the whole stream. -/
def deliverTo (x : Dst) (blocks : List Block) (whole : Bool) (s : State) : State :=
  let s1 :=
    if x.kind = 0 then
      forEach blocks.zipIdx (fun b t =>
        let a := x.addr + 4096 * b.2
        let t1 := writeBytes a (leBytes 4096 b.1) t
        if x.gen then writeSidecar a (crc32c (leBytes 4096 b.1)) t1 else t1) s
    else if x.kind = 1 then
      match s.openCmdOn (s.sasRef x.addr).1 (s.sasRef x.addr).2 with
      | some c => feed c blocks s
      | none => s
    else s
  if x.digest && whole then writeBytes (s.digestAt x.digestIdx) (leBytes 4 (blocksCrc blocks)) s1 else s1

/-- Every destination of a firmware job takes its blocks: all of them, or at most those that it could have when the engine stopped (R95);
`delivered` says how many. -/
def deliverAll (j : Job) (outs content : List (List Block)) (stop : Option (Nat × List Nat)) (s : State) : State :=
  forEach j.dsts.zipIdx (fun x t =>
    let all := j.delivery outs content x.2
    match stop with
    | none => deliverTo x.1 all true t
    | some (taken, delivered) => deliverTo x.1 (all.take (min (delivered.getD x.2 0) (j.limit taken x.2))) false t) s

/-- The digests of a stripe manager's job are written (R77); the blocks of its member writes go to them once it has ended. -/
def writeDigests (j : Job) (outs content : List (List Block)) (s : State) : State :=
  forEach j.dsts.zipIdx (fun x t =>
    if x.1.digest then writeBytes (t.digestAt x.1.digestIdx) (leBytes 4 (blocksCrc (j.delivery outs content x.2))) t else t) s

/-! What a run meets -/

/-- The cache line that a DRAM source of an update's job reads. -/
def State.lineOf (s : State) (x : Update) (j : Job) (k block : Nat) : Option Nat :=
  match j.srcs[k]? with
  | some src => if src.kind = 0 ∧ src.chk = true then some (lineKey x.vol (s.lbaAt x.vol x.row src.column (x.firstBlk + block))) else none
  | none => none

/-- Lines of an update that fail their check: those whose sidecar is wrong, and the one that the engine met. -/
def State.failing (s : State) (x : Update) (j : Job) (e : JobEnd) : List Nat :=
  let met := match e with
    | .srcCrc k b => (s.lineOf x j k b).toList
    | .memError k b => (s.lineOf x j k b).toList
    | _ => []
  once (met ++ (x.lines.filter (fun l => l.2.bad)).map Prod.fst)

/-- A source fails: at its first block where its stream has no data (SRC_ERROR), at the first block whose sidecar is wrong (SRC_CRC). -/
def State.srcFails (s : State) (j : Job) (k : Nat) (x : Src) : Option (Nat × Nat) :=
  match j.update? with
  | some u =>
    (match s.update? u with
     | none => none
     | some y => ((List.range j.len).find? (fun b => match s.lineOf y j k b with
         | some key => (match Assoc.find y.lines key with | some l => l.bad | none => false)
         | none => false)).map (fun b => (b, 3)))
  | none =>
    if (s.srcBlocks j x).isNone then some (0, 4)
    else if x.kind = 0 ∧ x.chk = true then ((List.range j.len).find? (fun b => !s.sidecarGood (x.addr + 4096 * b))).map (fun b => (b, 3))
    else none

/-- A destination refuses data: no member write is open under its tag. For an update at WRITE_THROUGH a parity's waits in its buffer (R126). -/
def State.dstFails (s : State) (j : Job) (i : Nat) (x : Dst) : Bool :=
  let kept := match j.owner with
    | .update u => (match s.update? u with | some y => s.wtUpdate y && decide (i < j.nout) | none => true)
    | _ => false
  x.kind == 1 && !kept && !(match s.openCmdOn (s.sasRef x.addr).1 (s.sasRef x.addr).2 with | some c => c.write | none => false)

/-- Where data of destination i first goes out: with the first block of the source passed to it, or with the end of the first segment. -/
def Job.firstOut (j : Job) (i : Nat) : Nat :=
  if i < j.nout then j.takenAt (j.srcs.length - 1) (min j.len j.slice - 1)
  else match (List.range j.srcs.length).find? (fun k => match j.srcs[k]? with | some x => x.pass && x.passIdx == i | none => false) with
    | some k => j.takenAt k 0
    | none => 0

/-- Everything that stops a run: source blocks taken in by then, STATUS and DETAIL (R93 to R95). -/
def State.stops (s : State) (j : Job) (x : JobEnd) : List (Nat × (Nat × Nat)) :=
  (match x with
   | .done => []
   | .srcCrc k b => [(j.takenAt k b, 3, k)]
   | .memError k b => [(j.takenAt k b, 6, 0)]
   | .accUe k b => [(j.takenAt k b, 9, 0)])
  ++ (j.srcs.zipIdx).filterMap (fun p => (s.srcFails j p.2 p.1).map (fun f => (j.takenAt p.2 f.1, f.2, p.2)))
  ++ (j.dsts.zipIdx).filterMap (fun p => if s.dstFails j p.2 p.1 then some (j.firstOut p.2, 5, p.2) else none)

/-- The first stop of a run, if anything stops it. -/
def State.firstStop (s : State) (j : Job) (x : JobEnd) : Option (Nat × (Nat × Nat)) :=
  (s.stops j x).foldl (fun best p => match best with | none => some p | some b => if p.1 < b.1 then some p else some b) none

/-- How a run ends (R93, R94, R103). The shadow and the third run discard their outputs and have no destination to fail. -/
def State.runEnd (s : State) (j : Job) (run : Nat) (x : JobEnd) (outs content : List (List Block)) : RunEnd × Option Nat :=
  match s.firstStop (if run = 0 then j else { j with dsts := [] }) x with
  | some (taken, st, detail) => (⟨st, 0, if st = 3 ∨ st = 4 ∨ st = 5 then detail else 0, []⟩, some taken)
  | none =>
    let v := if j.op = 4 then j.verify outs content else (0, 0)
    (⟨if v.1 = 0 then 0 else 7, v.1, v.2, outs.map blocksCrc⟩, none)

/-- The copy of a line that the partner's mirror holds, where it passes its check (R194). -/
def State.partnerCopy (s : State) (partner : List (Nat × (Block × Nat))) (key : Nat) : Option Line :=
  if s.partnerLive then
    (Assoc.find partner key).bind (fun c => let l : Line := { data := c.1, sidecar := c.2 }; if l.bad then none else some l)
  else none

/-- A failing dirty line, made by commit `ver`, is settled (R194): a line with the partner's copy takes its place where one passes its check, and
otherwise the line is discarded. Its block is lost unless a later write has committed to it (R191). -/
def settleBlock (key ver : Nat) (partner : List (Nat × (Block × Nat))) (s : State) : State :=
  let same (l : Nat × Line) : Bool := l.1 == key && l.2.ver == ver
  match s.partnerCopy partner key with
  | some c =>
    let fix (l : Nat × Line) : Nat × Line := if same l then (l.1, { l.2 with data := c.data, sidecar := c.sidecar }) else l
    { s with jnl := { s.jnl with
        lines := s.jnl.lines.map fix,
        updates := s.jnl.updates.map (fun p => (p.1, { p.2 with lines := p.2.lines.map fix })) } }
  | none =>
    let v := keyVol key
    let at' := s.locate v (keyLba key)
    let held := s.jnl.lines.any same
    let newer := s.jnl.lines.any (fun l => l.1 == key && l.2.ver != ver)
    let s1 : State := { s with jnl := { s.jnl with
      lines := s.jnl.lines.filter (fun p => !same p),
      updates := s.jnl.updates.map (fun p => (p.1, { p.2 with lines := p.2.lines.filter (fun l => !same l) })) } }
    let s2 := event Reg.INT_EVENT_DIRTY_LOST Reg.INT_DIRTY_LOST_CNT (when held (unstage [key]) s1)
    unexpose (if newer then s2 else logLost (s.volArray v) at'.1 at'.2.1 at'.2.2 1 (addLost v (keyLba key) 1 s2))

/-! Jobs of the stripe manager -/

/-- Receive buffers are given back. -/
def freeRx (keys : List Nat) (s : State) : State :=
  { s with sas := { s.sas with rx := s.sas.rx.filter (fun p => !keys.contains p.1) } }

/-- The SAS receive buffers that a job's sources name are given back. -/
def freeSources (j : Job) (s : State) : State :=
  freeRx ((j.srcs.filter (fun y => y.kind == 1)).map (fun y => rxKey (s.sasRef y.addr).1 (s.sasRef y.addr).2)) s

/-- A job as it was before any run of it. -/
def Job.fresh (j : Job) : Job :=
  { j with shadowed := false, engine := none, shadow := none, arbiter := none, ended := [], coef := [], kept := [] }

/-- What an update's members take from its job. -/
def State.jobWrites (s : State) (j : Job) (x : Update) (outs content : List (List Block)) : List (Nat × List Block) :=
  ((s.jobOutputs x ++ (s.dataTargets x).map some).zipIdx).filterMap (fun p => p.1.map (fun m => (m, j.delivery outs content p.2)))

/-- The lines that fail in a job of an update are settled (R192, R194). -/
def settleLines (y : Update) (j : Job) (x : JobEnd) (partner : List (Nat × (Block × Nat))) (s : State) : State :=
  let verOf (k : Nat) : Nat := ((Assoc.find y.lines k).map (fun l => l.ver)).getD 0
  forEach (s.failing y j x) (fun k t => settleBlock k (verOf k) partner
    (event Reg.INT_EVENT_SIDECAR_ENGINE Reg.INT_SIDECAR_ENGINE_CNT t)) s

/-- The stripe manager acts on the end of its job (R124, R157, R192, R104): OK moves the work on, UNDECODABLE loses the piece, SRC_ERROR acts on the
read that failed, a failing DRAM source is settled first, and any other status runs the job again in full. -/
def managerActs (j : Job) (status : Nat) (x : JobEnd) (outs content : List (List Block)) (partner : List (Nat × (Block × Nat)))
    (s : State) : State :=
  match j.owner with
  | .firmware => s
  | .update u =>
    match s.update? u with
    | none => s
    | some y =>
      if y.step ≠ 4 then s
      else if status = 0 then beginWrites u (s.jobWrites j y outs content) (writeDigests j outs content s)
      else if status = 3 ∨ status = 6 then
        issueJob u (settleLines y j x partner (abortWrites u s))
      else issueJob u (abortWrites u s)
  | .delta u d =>
    match s.update? u with
    | none => s
    | some y =>
      if !(y.step == 11 && y.deltaLeft.contains d) then s
      else if status = 0 then deltaDone u d (outs.getD 0 []) s
      else
        let s1 := when (status == 3 || status == 6) (settleLines y j x partner) s
        match s1.update? u with
        | some z => postJob (s1.deltaJob u z d) (useFree s1)
        | none => s1
  | .piece p a =>
    match s.piece? p with
    | none => freeSources j s
    | some y =>
      if y.attempt ≠ a then freeSources j s
      else if status = 0 then
        pieceLanded p (outs.getD 0 []) (fun m =>
          if (s.geo y.array).memberOf y.row (.data y.d) = m then some (outs.getD 0 []) else none) (freeSources j s)
      else if status = 2 then pieceLost p (freeSources j s)
      else match status, y.err with
        | 4, some (m, st) => pieceFailed p m st (freeSources j s)
        | _, _ => postJob j.fresh s

/-! The end of a run -/

/-- The two runs of a job disagree (R104): both engines are quarantined and tested, and a third run arbitrates. -/
def disagree (id : Nat) (j : Job) (content : List (List Block)) (s : State) : State :=
  let put (e : Nat) (t : State) : State :=
    setEng e EngSt.quarantined (onEng e (fun x => { x with testFor := 3, testPassed := none, back := EngSt.inService }) (returnQueue e t))
  let s1 := keepTarget (put (j.shadow.getD 0) (put (j.engine.getD 0) s))
  let s2 := onJob id (fun x => { x with kept := content }) (event Reg.OXE_EVENT_SHADOW_MISMATCH Reg.OXE_SHADOW_MISMATCH_CNT s1)
  let s3 : State := { s2 with oxe := { s2.oxe with arbitrating := addOnce s2.oxe.arbitrating id } }
  match placeRun id 2 j s3 with
  | some t => t
  | none => { s3 with oxe := { s3.oxe with returned := (id, 2) :: s3.oxe.returned } }

/-- A run has gone to its end. -/
def RunEnd.whole (r : RunEnd) : Bool := r.status == 0 || r.status == 7

/-- Every run that a job's record waits for has ended (R104): the record is written and the job acted on. Runs are compared where both went to
their end; where one was stopped by an error the primary's completion stands (log entry 120). A record of SHADOW_MISMATCH holds 0 in MISMATCH
and DETAIL (log entry 112). -/
def finalize (id : Nat) (j : Job) (x : JobEnd) (outs content : List (List Block)) (partner : List (Nat × (Block × Nat))) (s : State) : State :=
  match Assoc.find j.ended 0 with
  | none => s
  | some a =>
    let e := j.engine.getD 0
    let differ := match Assoc.find j.ended 1 with | some b => a.whole && b.whole && !a.agrees b | none => false
    if differ then managerActs j 8 x outs content partner (disagree id j content (recordJob j e 8 0 0 s))
    else managerActs j a.status x outs content partner (dropJob id (recordJob j e a.status a.mismatch a.detail s))

/-- A run of a job ends on its engine. -/
def endRun (e id run : Nat) (r : RunEnd) (x : JobEnd) (outs content : List (List Block)) (partner : List (Nat × (Block × Nat)))
    (s : State) : State :=
  let s1 := onEng e (fun g => { g with queue := g.queue.drop 1, running := false }) s
  let s2 := onJob id (fun j => { j with ended := Assoc.set j.ended run r }) s1
  settleEngine e (match s2.job? id with
    | none => s2
    | some j =>
      let done := run != 2 && (Assoc.find j.ended 0).isSome && (!j.shadowed || (Assoc.find j.ended 1).isSome)
      if done then finalize id j x outs content partner s2 else s2)

/-- JOB_START (R84, R92): the coefficients of the run are captured; a DECODE waits while the evaluation runs, and a phase that fails ends it
UNDECODABLE. -/
def execJobStart (e : Fin 28) (s : State) : Result :=
  let n := e.val
  let g := s.eng n
  let may := (s.engState n == EngSt.inService || s.engState n == EngSt.quarantined) && !g.running
  match (if may then g.queue.head? else none).bind (fun id => (s.job? id).map (fun j => (id, j))) with
  | none => .next s
  | some (id, j) =>
    match s.decodeCheck j with
    | none => .next s
    | some false => .next (after (endRun n id (j.runOn n) ⟨2, 0, 0, []⟩ .done [] [] [] (bump (Reg.OXE_ENG_JOB_CNT n) s)))
    | some true =>
      let s1 := onEng n (fun x => { x with running := true, acc := [], buffer := if j.op = 5 then x.buffer else some j.slot }) s
      let s2 := when (j.op != 5) (setF (Reg.OXE_ENG_INFO_SLOT n) j.slot) s1
      .next (onJob id (fun x => { x with coef := Assoc.set x.coef (j.runOn n) (s.captureCoef j) }) s2)

/-- The open writes that a firmware job was to feed are aborted where a sidecar failed (R189). -/
def abortFed (j : Job) (s : State) : State :=
  forEach ((j.dsts.filter (fun x => x.kind == 1)).map (fun x => s.sasRef x.addr)) (fun p t =>
    match t.openCmdOn p.1 p.2 with
    | some c => if c.write then memberEnd c .aborted 0 false [] (emit (.drive c.phys .abort c.lba c.nblk []) (dropCmd c t)) else t
    | none => t) s

/-- JOB_COMPLETE (R75, R93 to R95, R104): `x` is what the engine met in the run that it ends, `noise` what a fault of it adds to the outputs,
`delivered` the blocks each destination had taken when a firmware job was stopped, `corrected` and `stallUs` its counts, and `partner` the copies
of failing lines that the partner holds. A job whose SAS streams are still open has not ended. -/
def execJobComplete (e : Fin 28) (x : JobEnd) (noise : List (Nat × List Block)) (delivered : List Nat) (corrected stallUs : Nat)
    (partner : List (Nat × (Block × Nat))) (s : State) : Result :=
  let n := e.val
  let g := s.eng n
  match (if g.running then g.queue.head? else none).bind (fun id => (s.job? id).map (fun j => (id, j))) with
  | none => .next s
  | some (id, j) =>
    let run := j.runOn n
    if s.streaming j && run == 0 then .next s
    else
      let content := if run = 2 ∧ j.owner ≠ .firmware then j.kept else s.jobContent j
      let outs := j.outputs run noise content
      let r := s.runEnd j run x outs content
      let taken := match r.2 with | some t => t | none => j.srcs.length * j.len
      let s1 := bump (Reg.OXE_ENG_JOB_CNT n) (bumpBy (Reg.OXE_ENG_BLOCK_CNT n) taken
        (bumpBy (Reg.OXE_ENG_ACC_CE_CNT n) corrected (bumpBy (Reg.OXE_ENG_STALL_US_CNT n) stallUs s)))
      let s2 := when (r.1.status == 9) (fun t => event Reg.OXE_EVENT_ACC_UE Reg.OXE_ACC_UE_CNT (bump (Reg.OXE_ENG_ACC_UE_CNT n) t)) s1
      let mine := j.owner == .firmware && run == 0
      let s3 := when (mine && (r.1.status == 3 || r.1.status == 6)) (event Reg.INT_EVENT_SIDECAR_ENGINE Reg.INT_SIDECAR_ENGINE_CNT) s2
      let s4 := if mine then
          when (r.1.status == 3) (abortFed j) (freeSources j (deliverAll j outs content (r.2.map (fun t => (t, delivered))) s3))
        else s3
      .next (after (endRun n id run r.1 x outs content partner s4))

end Sys2Proof.Machine
end

