-- ==== Sys2Proof/Machine/Journal.lean ====
section
/-! DEFINITION. A write from the host buffer to its acknowledgement (R112 to R120, R187, R192), write-backs (R121, R502), intents
(R124, R129, R132), replay (R136, R137) and the data of reads on its way out (R188, R194). -/

namespace Sys2Proof.Machine

/-- The command in flight of a queue and identifier, the earliest fetched. -/
def State.cmdOf (s : State) (qid cid : Nat) : Option (Nat × Cmd) :=
  s.qmx.cmds.find? (fun c => c.2.e.qid == qid && c.2.e.cid == cid)

/-! Host protection information (R183, R184) -/

/-- CRC-64 over bytes: reflected, initial value and final inversion all ones. -/
def crc64 (bs : List Nat) : Nat :=
  Nat.xor (bs.foldl (crcByteLsb 0x9A6C9329AC4BC9B5) 0xFFFFFFFFFFFFFFFF) 0xFFFFFFFFFFFFFFFF

/-- The host guard of a block. -/
def hostGuard (b : Block) : Nat := crc64 (leBytes 4096 b)

/-- Source of the last host-visible mismatch: KIND 1 guard, 2 REF_TAG, 3 egress sidecar. -/
def lastHost (kind : Nat) (c : Cmd) (lba : Nat) (s : State) : State :=
  setF Reg.INT_LAST_HOST_VOL c.e.vol (setF Reg.INT_LAST_HOST_KIND kind (setF Reg.INT_LAST_HOST_SQ_ID c.e.qid
    (set64 Reg.INT_LAST_LBA_LO_LBA Reg.INT_LAST_LBA_HI_LBA lba s)))

/-- How the check of ingested blocks ends: none for all good, else the failing KIND and block index; and the state with an armed
fault used up. -/
def checkBlocks (c : Cmd) : List HostBlock → Nat → State → Option (Nat × Nat) × State
  | [], _, s => (none, s)
  | b :: t, i, s =>
    let s1 := bump Reg.INT_BLOCKS_CHECKED_CNT s
    let guard := bitOf c.e.piCtrl 0 = 0
    let ref := bitOf c.e.piCtrl 1 = 0
    if guard ∧ s1.armed 1 = true then (some (1, i), disarm s1)
    else if guard ∧ b.guard ≠ hostGuard b.data then (some (1, i), s1)
    else if ref ∧ s1.armed 2 = true then (some (2, i), disarm s1)
    else if ref ∧ b.refTag ≠ c.e.slba + i then (some (2, i), s1)
    else checkBlocks c t (i + 1) s1

/-- A command whose data fails a check ends without effect (R192). -/
def ingestFails (n : Nat) (c : Cmd) (kind i : Nat) (s : State) : State :=
  let s1 := lastHost kind c (c.e.slba + i) s
  if kind = 1 then finish n St.hostGuard 0 (event Reg.INT_EVENT_HOST_GUARD Reg.INT_HOST_GUARD_CNT s1)
  else finish n St.refTag 0 (event Reg.INT_EVENT_REF_TAG Reg.INT_REF_TAG_CNT s1)

/-- Address and length of the parts of a command's host buffer (R209, R210): CHAIN entries hold no data. -/
def hostParts (e : Entry) : List (Nat × Nat) :=
  if bitOf e.flags 0 = 0 then [(e.dptr, e.dlen)]
  else e.tables.flatMap (fun t => (t.filter (fun f => bitOf f.2.2 1 == 0)).map (fun f => (f.1, f.2.1)))

/-- The module reads the host buffer of a command. -/
def fromHost (e : Entry) (s : State) : State := forEach (hostParts e) (fun p => readHost p.1 p.2) s

/-- HOST_DATA_INGEST (R187): the blocks of a WRITE come in from the host buffer. Nothing moves while Bus Master Enable is 0 (R285)
or admission is stopped (R120). -/
def execHostDataIngest (qid cid : Nat) (blocks : List HostBlock) (s : State) : Result :=
  match s.cmdOf qid cid with
  | none => .next s
  | some (n, c) =>
    if c.begun && !c.held && c.e.opcode == 0x21 && !c.moved && s.masters && !s.admitStop
        && blocks.length == c.e.nlbM1 + 1 then
      let s1 := fromHost c.e s
      let chk := if bitOf c.e.flags 1 = 1 then checkBlocks c blocks 0 s1 else (none, s1)
      match chk.1 with
      | some (k, i) => .next (ingestFails n c k i chk.2)
      | none =>
        let landed := landBlocks (blocks.map (fun b => b.data)) chk.2
        .next (onCmd n (fun x => { x with moved := true, buf := (landed.1.zipIdx).map (fun l => (l.2, l.1)) }) landed.2)
    else .next s

/-! Commit (R112, R115, R116) -/

/-- A write to a block of the array completes with ARRAY_OFFLINE (R159): the array is OFFLINE, or the unit lies on an erased member
in a failing phase. -/
def State.writeRefused (s : State) (v lba nblk : Nat) : Bool :=
  let n := s.volArray v
  let g := s.geo n
  s.arrayState n == 4 || (s.arrayState n == 3 && (List.range nblk).any (fun i =>
    let at' := s.locate v (lba + i)
    s.phaseFails n at'.1 && !s.liveFor n at'.1 (g.slotOf (g.memberOf at'.1 (.data at'.2.1)))))

/-- Keys of a range. -/
def rangeKeys (v lba nblk : Nat) : List Nat := (List.range nblk).map (fun i => lineKey v (lba + i))

/-- Rows of a range, as keys. -/
def State.rangeRows (s : State) (v lba nblk : Nat) : List Nat :=
  once ((List.range nblk).map (fun i => rowKey (s.volArray v) (s.locate v (lba + i)).1))

/-- Lines become dirty in one step, with the next commit number (R115). -/
def putLines (v lba : Nat) (lines : List Line) (s : State) : State :=
  let ver := s.jnl.commits + 1
  let level := s.get Reg.JNL_STATUS_LEVEL
  { s with jnl := { s.jnl with
      commits := ver
      lines := (lines.zipIdx).foldl (fun m l => Assoc.set m (lineKey v (lba + l.2))
        { l.1 with dirty := true, staged := false, level := level, since := s.clock, ver := ver, mirrored := false }) s.jnl.lines } }

/-- Lines with their sidecars and their commit record go to a live partner (R117); an armed kind 4 corrupts the first sidecar sent. -/
def sendLines (v lba : Nat) (lines : List Line) (s : State) : State :=
  let ver := s.jnl.commits
  let bad := s.armed 4
  let checks := (lines.zipIdx).flatMap (fun l => [l.1.data, if bad && l.2 == 0 then s.spoiled 32 l.1.sidecar else l.1.sidecar])
  let s1 := sendMir .data ([v, lba] ++ checks) (when bad (fun t => useFree (disarm t)) s)
  sendMir .commit [v, lba, lines.length, ver] s1

/-- A range commits for a command, and waits for the acknowledgement point of its level (R116): the partner's report, at once, the
staging record, which is read back (R192) and fails `fails` times, or the retirement of every update that carries it. FUA adds the last to the
others. -/
def commitBlocks (n v lba : Nat) (lines : List Line) (fua : Bool) (fails : Nat) (s : State) : State :=
  let level := s.get Reg.JNL_STATUS_LEVEL
  let keys := rangeKeys v lba lines.length
  let s1 := putLines v lba lines s
  let ver := s1.jnl.commits
  let owes := fua || level == 2
  let s2 := onCmd n (fun c => { c with
    committed := true, next := c.next + lines.length, final := c.next + lines.length == c.e.nlbM1 + 1, level := max c.level (if owes then 2 else level),
    owed := if owes then c.owed ++ keys.map (fun k => (k, ver)) else c.owed,
    deferred := c.deferred || s.parityDeferred v }) s1
  let s3 := when owes (demand (s.rangeRows v lba lines.length)) s2
  if level = 0 then
    if s.partnerLive then
      let s4 := sendLines v lba lines s3
      { s4 with jnl := { s4.jnl with flights := s4.jnl.flights ++ [{ cmd := n, keys := keys, ack := some ver, held := false }] } }
    else s3
  else if level = 1 then stage v lba (lines.map (fun l => l.data)) fails s3
  else s3

/-- A committed command with nothing outstanding completes (R116). -/
def endWrite (n : Nat) (s : State) : State :=
  match s.cmd? n with
  | some c =>
    if c.final && c.owed.isEmpty && !(s.jnl.flights.any (fun f => f.cmd == n)) then finish n c.status (c.result ||| c.level) s
    else s
  | none => s

/-- WRITE_COMMIT (R115): held during the transition to WRITE_THROUGH (R113), while staging is full (R119), while an earlier write of its queue
to one of its blocks has not committed (R221), and refused where the
array cannot take it (R159). On its way to staging every sidecar is checked (R187; log entry 105), and the record is read back: `commit.fails` is how
often it did not match and was written again (R192). -/
def execWriteCommit (qid : Nat) (commit : CommitFacts) (s : State) : Result :=
  match s.cmdOf qid commit.cid with
  | none => .next s
  | some (n, c) =>
    let staged := s.get Reg.JNL_STATUS_LEVEL == 1
    if !(c.e.opcode == 0x21 && c.moved && !c.committed) || s.jnl.toWt || s.mustFollow n c.e.vol c.e.slba (c.e.nlbM1 + 1) then .next s
    else if s.writeRefused c.e.vol c.e.slba (c.e.nlbM1 + 1) then .next (finish n St.arrayOffline 0 s)
    else if staged && !s.stagingFits ((c.e.nlbM1 + 2) * (commit.fails + 1) - 1) then .next (stagingStall s)
    else if staged && c.buf.any (fun l => l.2.bad) then .next (finish n St.internalData 0 s)
    else
      let s1 := commitBlocks n c.e.vol c.e.slba (c.buf.map Prod.snd) (bitOf c.e.flags 2 == 1) commit.fails s
      .next (after (endWrite n (onCmd n (fun x => { x with buf := [] }) s1)))

/-! The level (R111, R113) -/

/-- FORCE_WT_WRITE (R113). -/
def execForceWtWrite (v : Bool) (s : State) : Result :=
  land 0x50000 (.forceWtWrite v) (fun t => reselect (setF Reg.JNL_CTRL_FORCE_WT (b2n v) t)) s

/-- WRITE_THROUGH_REACHED (R113). -/
def execWriteThroughReached (s : State) : Result := .next (reachWt s)

/-- WT_HOLD_TIMEOUT (R113): a write, WRITE_ZEROES or COPY held for 30 s by the transition to WRITE_THROUGH, none of which has committed. -/
def execWtHoldTimeout (qid cid : Nat) (s : State) : Result :=
  match s.cmdOf qid cid with
  | some (n, c) =>
    if s.jnl.toWt && [0x21, 0x24, 0x25].contains c.e.opcode && !c.committed then
      .next (after (finish n St.budgetDenied 0 { s with
        sas := { s.sas with pieces := s.sas.pieces.filter (fun p => p.2.cmd != n) }
        fab := { s.fab with copies := s.fab.copies.filter (fun x => x.cmd != n) } }))
    else .next s
  | none => .next s

/-- PACK_HEALTHY_WRITE (R111). -/
def execPackHealthyWrite (v : Bool) (s : State) : Result :=
  land 0x50000 (.packHealthyWrite v) (fun t => after (setPackHealthy v t)) s

/-- PARTNER_LIVE_WRITE (R111, R118). -/
def execPartnerLiveWrite (v : Bool) (s : State) : Result :=
  land 0x50000 (.partnerLiveWrite v) (fun t => after (setPartnerLive v t)) s

/-- REPLAY_DONE_WRITE (R129): what waits for an intent goes on. -/
def execReplayDoneWrite (s : State) : Result :=
  land 0x50000 .replayDoneWrite (fun t => after (retryIntents (setF Reg.JNL_CTRL_REPLAY_DONE 1 t))) s

/-! Write-back -/

/-- WRITEBACK_AGE_EXPIRY (R121): a dirty line of the row has reached the write-back age. -/
def execWritebackAgeExpiry (array : Fin 4) (row : Nat) (s : State) : Result :=
  if (s.rowLines array.val row).isEmpty then .next s
  else .next { s with jnl := { s.jnl with dueRows := addOnce s.jnl.dueRows (rowKey array.val row) } }

/-- WRITEBACK_START (R502): the write-back of a row for which a cause of R121 holds, unless its range is read for a flock parity
group (R411) or the partner of a module in SERVICE writes the drives (R30). -/
def execWritebackStart (array : Fin 4) (row : Nat) (s : State) : Result :=
  if !s.serviceHolds && s.rowDue array.val row && !(s.rowLines array.val row).isEmpty && !s.rowGated array.val row then .next (after (startRow array.val row s)) else .next s

/-- ROW_LOCK_GRANT (R127): the next request of a free lock is granted, once the drives that an update needs are awake; none while the partner of a module in SERVICE writes the drives
(R30). -/
def execRowLockGrant (array : Fin 4) (row : Nat) (s : State) : Result :=
  let asleep := match s.lockOf (rowKey array.val row) with
    | (none, .update u :: _) => (match s.update? u with
      | some x => (s.updateNeeds x).filter (fun m => s.liveMember array.val row m && !s.awakeMember array.val m)
      | none => [])
    | _ => []
  if s.serviceHolds then .next s
  else if !asleep.isEmpty then .next (wakeMembers array.val row asleep s)
  else match takeLock (rowKey array.val row) s with
  | (s1, some (.update u)) => .next (after (grantUpdate u s1))
  | (s1, some (.repair r)) => .next (after (beginRepair r s1))
  | (s1, none) => .next s1

/-- INTENT_LANDED (R124 steps 3 to 5): with a live partner its landing report is awaited, without one the job is issued. -/
def execIntentLanded (index : Nat) (s : State) : Result :=
  match s.jnl.updates.find? (fun p => p.2.head == some index && p.2.step == 2) with
  | none => .next s
  | some (u, _) =>
    if s.partnerLive then .next (onUpdate u (fun x => { x with step := 3 }) s) else .next (issueJob u s)

/-- JNL_ALLOC (R129): while allocation is refused the request ends without a run. -/
def execJnlAlloc (next : Fin 4) (s : State) : Result :=
  land 0x50024 (.jnlAlloc next) (fun t =>
    allocRun (setF Reg.JNL_ALLOC_GO 1 (setF Reg.JNL_ALLOC_RES_VALID 0 (setF Reg.JNL_ALLOC_NEXT next.val t)))) s

/-- INTENT_RETIRE (R132, R124 step 7): the entries come free, and what waited for them goes on. -/
def execIntentRetire (index : Nat) (s : State) : Result :=
  if s.retirable index then .next (after (retireIntent index s)) else .next s

/-! Replay (R135 to R137) -/

/-- The image with the higher JNL_SEQ_AT_LOSS. -/
def State.bestImage (s : State) : Option Image :=
  (s.jnl.images.map Prod.snd).foldl (fun b i => match b with
    | none => some i
    | some x => if x.seqAtLoss < i.seqAtLoss then some i else some x) none

/-- JNL_IMAGE shows the image found (R135). -/
def showImage (s : State) : State :=
  match s.bestImage with
  | none => setF Reg.JNL_IMAGE_VALID 0 (setF Reg.JNL_IMAGE_SEALED 0 (setF Reg.JNL_IMAGE_PRESENT 0 s))
  | some i => setF Reg.JNL_IMAGE_VALID (b2n (s.imageValid i)) (setF Reg.JNL_IMAGE_SEALED (b2n i.sealed)
      (setF Reg.JNL_IMAGE_PRESENT 1 s))

/-- Data is reported lost: the flag, its counter, and the log (R135, R137, R238). -/
def imageLost (s : State) : State :=
  logPlain 0xA [] (event Reg.JNL_EVENT_IMAGE_LOST Reg.JNL_IMAGE_LOST_CNT s)

/-- The directories of some image areas fail their CRC as they are read (R135). -/
def dirsFail (areas : List Nat) (s : State) : State :=
  { s with jnl := { s.jnl with images := s.jnl.images.map (fun p => if areas.contains p.1 then (p.1, { p.2 with dirOk := false }) else p) } }

/-- Lines become dirty lines of this module. -/
def takeLines (ls : List (Nat × Line)) (s : State) : State :=
  { s with jnl := { s.jnl with lines := ls.foldl (fun m l => Assoc.set m l.1 { l.2 with dirty := true, mirrored := false }) s.jnl.lines } }

/-- The content is loaded (R136): the lines of a valid image, or where there is none the mirrored lines: the partner's image, received by resync,
where its JNL_SEQ_AT_LOSS is the higher (R376). An image that is not valid is ignored (R135). -/
def loadContent (partnerSeq : Option Nat) (s : State) : State :=
  let mirrored := s.jnl.lines.filter (fun l => l.2.mirrored)
  let s1 := showImage s
  let fresh := (s.jnl.images.map Prod.snd).find? (fun i => s.imageValid i && !i.kept
    && (match partnerSeq with | some q => decide (q ≤ i.seqAtLoss) | none => true))
  match fresh with
  | some i => takeLines i.lines s1
  | none => takeLines mirrored (when (s.jnl.images.any (fun p => !s.imageValid p.2)) imageLost s1)

/-- The staging log is restored (R136, R192): blocks that neither an image nor a mirror covers become dirty, and lost where their
record's DATA_CRC is wrong. -/
def restoreStaging (s : State) : State :=
  let covered := s.jnl.lines.map Prod.fst
  forEach s.jnl.staging (fun r t =>
    let keys := r.left.filter (fun k => !covered.contains k)
    if !t.recordGood r then
      let t1 := event Reg.INT_EVENT_STAGING_CRC Reg.INT_STAGING_CRC_CNT t
      if keys.isEmpty then t1
      else forEach keys (fun k u =>
        let at' := u.locate (keyVol k) (keyLba k)
        logLost (u.volArray (keyVol k)) at'.1 at'.2.1 at'.2.2 1 (addLost (keyVol k) (keyLba k) 1 u)) (imageLost t1)
    else forEach keys (fun k u =>
      let line : Line := { data := u.recordBlock r (keyLba k - r.lba), dirty := true, staged := true, level := 1, since := u.clock }
      { u with jnl := { u.jnl with lines := Assoc.set u.jnl.lines k line } }) t) s

/-- The content of a member's range as it was read at replay; none where it could not be read. -/
def readAt (reads : RowReads) (m : Nat) : Option (List Block) :=
  (Assoc.find reads m).bind (fun bs => bs.mapM id)

/-- State of a member at replay: 0 OLD, 1 NEW, 2 MIXED; a member that cannot be read counts as MIXED. -/
def classify (t : Intent) (reads : RowReads) (m : Nat) : Nat :=
  let i := t.members.idxOf m
  match readAt reads m with
  | none => 2
  | some data =>
    let v := blocksCrc (data.take (t.nblkM1 + 1))
    if t.newCrc.getD i 0 = v then 1 else if t.oldCrc[i]? = some v then 0 else 2

/-- The member is touched and counts at replay: neither erased nor given a new drive since the intent opened (R136). -/
def State.replayMember (s : State) (t : Intent) (m : Nat) : Bool :=
  let slot := (s.geo t.array).slotOf m
  s.liveFor t.array t.row slot && !decide (t.generation < Assoc.getD (s.arrayMeta t.array).slotGen slot 0)

/-- The data members of an intent, with their data index. -/
def State.intentData (s : State) (t : Intent) : List (Nat × Nat) :=
  let g := s.geo t.array
  t.members.filterMap (fun m => match g.role t.row m with | .data d => some (m, d) | _ => none)

/-- Keys of the cache lines that an intent's data came from. -/
def State.intentKeys (s : State) (t : Intent) : List Nat :=
  (s.intentData t).flatMap (fun p => (List.range (t.nblkM1 + 1)).map (fun b =>
    lineKey t.vol (s.lbaAt t.vol t.row p.2 (t.firstBlk + b))))

/-- The new content of the intent is at hand (R136): every touched block of data is in the cache. -/
def State.hasSource (s : State) (t : Intent) : Bool :=
  let keys := s.intentKeys t
  t.method != 3 && !keys.isEmpty && keys.all (fun k => match Assoc.find s.jnl.lines k with | some l => l.dirty | none => false)

/-- What a data unit of an intent's row holds once it is resolved: what it is given, else what was read, or decoded where the member could not be
read; zeros where nothing gives it (log entry 102). -/
def State.replayData (s : State) (t : Intent) (reads : RowReads) (given : List (Nat × List Block)) (d : Nat) : List Block :=
  let g := s.geo t.array
  let len := t.nblkM1 + 1
  match Assoc.find given d with
  | some bs => bs
  | none => (g.contentOf t.row reads (s.erasedIn t.array t.row) len (g.memberOf t.row (.data d))).getD (List.replicate len 0)

/-- The firmware writes a member over an intent's range. -/
def replayWrite (t : Intent) (m : Nat) (data : List Block) (s : State) : State :=
  let g := s.geo t.array
  sendDrive { phys := s.physOf (g.slotOf m), logical := g.slotOf m, fixed := false, tag := 0x8000, write := true, lba := g.memberLba t.row t.firstBlk,
              nblk := data.length, owner := .own, data := data } s

/-- Members of an intent are written: the data units that are given, and where `parities` holds the parities computed from the row's data
(R136, R137); never an erased member or one with a new drive, nor one of `skip`. -/
def rewrite (t : Intent) (reads : RowReads) (given : List (Nat × List Block)) (parities : Bool) (skip : List Nat)
    (s : State) : State :=
  let g := s.geo t.array
  forEach (t.members.filter (fun m => s.replayMember t m && !skip.contains m)) (fun m u =>
    match g.role t.row m with
    | .data d => (match Assoc.find given d with | some bs => replayWrite t m bs u | none => u)
    | r => if parities then replayWrite t m (g.parityFrom r (t.nblkM1 + 1) (s.replayData t reads given)) u else u) s

/-- What a verification of a row finds is put right at once, under the intent that replay holds (R137, R176). -/
def redoGraze (t : Intent) (f : GrazeFinding) (s : State) : State :=
  let g := s.geo t.array
  match f with
  | .badBlock m b data => replayWrite { t with firstBlk := t.firstBlk + b } m data s
  | .localParity k data => replayWrite t (g.memberOf t.row (.par k)) data s
  | .dataUnit d data => replayWrite t (g.memberOf t.row (.data d)) data s
  | .globals data => forEach data.zipIdx (fun x u => if x.1.isEmpty then u else replayWrite t (g.memberOf t.row (.glob x.2)) x.1 u) s
  | .notAttributable => logEvent 9 t.array t.row [] (stat t.array 5 1 s)

/-- The repair that the array metadata names for a REPAIR intent's row is redone (R137): a formatting row takes zeros, a rebuild or copy row is
left to its rebuild, a lost row is resolved again under R171, and a graze repair is arbitrated again. -/
def redoRepair (t : Intent) (reads : RowReads) (s : State) : State :=
  let zeros := List.replicate (t.nblkM1 + 1) (0 : Block)
  let blank (ds : List Nat) : List (Nat × List Block) := ds.map (fun d => (d, zeros))
  let g := s.geo t.array
  if allVols.any (fun v => (s.volMeta v).bound && (s.volMeta v).array == t.array && (s.volMeta v).formatting == some t.row) then
    rewrite t reads (blank (List.range g.dataCount)) true [] s
  else if s.phaseFails t.array t.row then
    let lost := s.lostUnits t.array t.row
    rewrite t reads (blank lost) true [] (loseUnits t.array t.row lost s)
  else if !(s.frontsOf t).isEmpty then s
  else forEach (g.arbitrate t.row (t.nblkM1 + 1) reads (s.erasedIn t.array t.row)) (redoGraze t) s

/-- An intent without new content is resolved by the table of R137; a case that the table does not name keeps the data as it
stands, records what is MIXED as lost and recomputes the parities. A touched data member that cannot be read is lost, and takes zeros
(log entry 102). -/
def resolve (t : Intent) (reads : RowReads) (odd : List (Nat × List Nat)) (s : State) : State :=
  let g := s.geo t.array
  let there := t.members.filter (s.replayMember t)
  let st (m : Nat) : Nat := classify t reads m
  let data := (s.intentData t).filter (fun d => there.contains d.1)
  let mixed := data.filter (fun d => st d.1 == 2)
  let e := (s.erasedMembers t.array).length
  let tol := s.get (Reg.STP_ARRAY_CFG_TOL t.array)
  let pass := decide ((s.intentData t).length ≤ min 4 (tol - e))
  let gone := once (s.erasedIn t.array t.row ++ (data.filter (fun d => st d.1 != 0)).map Prod.fst)
  let old := (data.filter (fun d => st d.1 != 0)).mapM (fun d =>
    (g.contentOf t.row reads gone (t.nblkM1 + 1) d.1).map (fun bs => (d.2, bs)))
  let unread := (data.filter (fun d => (readAt reads d.1).isNone)).map (fun d => (d.2, List.replicate (t.nblkM1 + 1) (0 : Block)))
  let strange (m : Nat) : List Nat := if (readAt reads m).isSome then Assoc.getD odd m [] else List.range (t.nblkM1 + 1)
  if t.state = 3 ∧ t.parValid ∧ there.all (fun m => st m == 1) then s
  else if t.method = 3 then redoRepair t reads s
  else if t.level = 2 ∧ t.state = 1 ∧ data.all (fun d => st d.1 == 0) then s
  else if t.level = 2 ∧ t.state = 1 ∧ pass ∧ old.isSome then rewrite t reads (old.getD []) false [] s
  else if t.level = 2 ∧ t.state ≠ 1 ∧ data.all (fun d => st d.1 == 1) then rewrite t reads [] true [] s
  else if t.level = 2 then
    let s1 := forEach mixed (fun d u => loseBlocks t.vol t.array t.row d.2 ((strange d.1).map (fun b => t.firstBlk + b)) u) s
    rewrite t reads unread true [] (if mixed.isEmpty then s1 else bump Reg.JNL_IMAGE_LOST_CNT s1)
  else
    let s1 := forEach mixed (fun d u => loseBlocks t.vol t.array t.row d.2 ((List.range (t.nblkM1 + 1)).map (fun b => t.firstBlk + b)) u) s
    rewrite t reads unread true [] (imageLost s1)

/-- A FLOCK intent that replay resolves in any way but all new voids its records, and its group turns stale (R412). -/
def voidDeltas (t : Intent) (s : State) : State :=
  match s.groupOfVol t.vol with
  | none => s
  | some (g, _) =>
    markStale g.id (voidRecords (fun d => d.group == g.id && d.intentSeq == t.seq) s)

/-- A log record whose HDR_CRC or DATA_CRC fails marks its group stale (R412). -/
def checkDeltas (s : State) : State :=
  forEach (s.fab.deltas.filter (fun d => !d.freed && !s.deltaGood d)) (fun d t =>
    if t.fab.groups.any (fun g => g.id == d.group && !g.stale) then markStale d.group t else t) s

/-- The new content of an intent's data units from the cache lines that image, mirror or staging gave (R136). -/
def State.sourceData (s : State) (t : Intent) : List (Nat × List Block) :=
  (s.intentData t).map (fun p => (p.2, (List.range (t.nblkM1 + 1)).map (fun b =>
    (Assoc.getD s.jnl.lines (lineKey t.vol (s.lbaAt t.vol t.row p.2 (t.firstBlk + b))) {}).data)))

/-- One intent is replayed (R136): rewritten from its source, all but members that are NEW with PAR_VALID set, or resolved without one, and
retired. Lines that a kept image holds for it are its source too (R135). -/
def replayOne (reads : List (Nat × RowReads)) (strange : List StrangeBlocks) (i : Nat) (s : State) : State :=
  let t := s.parseIntent i
  let rd := Assoc.getD reads i []
  let odd := (strange.filter (fun x => x.intent == i)).map (fun x => (x.member, x.blocks))
  let keys := s.intentKeys t
  let kept := (s.jnl.images.filter (fun p => p.2.kept && decide (t.seq ≤ p.2.seqAtLoss))).flatMap (fun p => p.2.lines)
  let s0 := takeLines (kept.filter (fun l => keys.contains l.1 && (Assoc.find s.jnl.lines l.1).isNone)) s
  if s0.hasSource t then
    let skip := if t.parValid then t.members.filter (fun m => classify t rd m == 1) else []
    let s1 := rewrite t rd (s0.sourceData t) true skip s0
    freeIntent i (cleanLines (s1.jnl.lines.filter (fun l => keys.contains l.1)) s1)
  else
    let allNew := t.state == 3 && (t.members.filter (s0.replayMember t)).all (fun m => classify t rd m == 1)
    freeIntent i (resolve t rd odd (when (t.flock && !allNew) (voidDeltas t) s0))

/-- A damaged head (R136): a legible row is verified in full where every member is awake and none has failed, else queued for the graze; where
the row is not legible the whole array is, every valid array where ARRAY names none (log entry 106). -/
def replayDamaged (rows : List (Nat × RowReads)) (i : Nat) (s : State) : State :=
  let t := s.parseIntent i
  let s1 := event Reg.JNL_EVENT_ENTRY_CRC Reg.JNL_ENTRY_CRC_CNT s
  let g := s.geo t.array
  let legible := s.on (Reg.STP_ARRAY_CFG_VALID t.array) && decide (t.row < g.rows)
  let s2 :=
    if legible && (List.range g.members).all (fun m => s.liveMember t.array t.row m && s.awakeMember t.array m) then
      forEach (g.arbitrate t.row g.unitBlocks (Assoc.getD rows i []) []) (actOn t.array t.row) s1
    else if legible then queueGraze t.array (some t.row) s1
    else if s.on (Reg.STP_ARRAY_CFG_VALID t.array) then queueGraze t.array none s1
    else forEach s.validArrays (fun n u => queueGraze n none u) s1
  freeIntent i s2

/-- Once replay has retired every intent that an image covers, the image is erased; one that still covers an open intent is kept (R135). -/
def keepImages (s : State) : State :=
  let left := s.jnl.images.filter (fun p => s.imageValid p.2 && s.jnl.intents.any (fun t => decide (t.2.seq ≤ p.2.seqAtLoss)))
  let s1 : State := { s with jnl := { s.jnl with images := left.map (fun p => (p.1, { p.2 with kept := true })) } }
  when left.isEmpty (sendConfig [8]) s1

/-- JOURNAL_REPLAY (R136): `reads` gives, by intent, what the members of its row read over its range, `rows` by damaged head what those of its
row read over the whole unit, `strange` the blocks that match neither guard (R137), `badDirs` the image areas whose directory fails its CRC,
`partnerSeq` the JNL_SEQ_AT_LOSS of the partner's valid image (R376). It runs in WAKING, in TAKEOVER, and in SERVICE while no partner holds
ACTIVE_N (R30). -/
def execJournalReplay (reads rows : List (Nat × RowReads)) (strange : List StrangeBlocks) (badDirs : List Nat) (partnerSeq : Option Nat)
    (s : State) : Result :=
  if (s.modeIn [Mode.waking, Mode.takeover] || s.serviceDrains) && !s.on Reg.JNL_CTRL_REPLAY_DONE && !s.on Reg.FOV_CTRL_HOLD then
    let s1 := checkDeltas (restoreStaging (loadContent partnerSeq (dirsFail badDirs s)))
    let seqOf (i : Nat) : Nat := (s1.parseIntent i).seq
    let good := sortBy (fun a b => decide (seqOf a ≤ seqOf b)) ((s1.jnl.intents.map Prod.fst).filter (fun i =>
      s1.entryGood i && s1.on (Reg.STP_ARRAY_CFG_VALID (s1.parseIntent i).array)))
    let s2 := forEach good (replayOne reads strange) s1
    let s3 := forEach ((s2.jnl.intents.map Prod.fst).filter (fun i => !s2.entryGood i)) (replayDamaged rows) s2
    let s4 := keepImages (setF Reg.JNL_SEQ_SEQ (s.highestSeq + 1) s3)
    let s5 : State := { setF Reg.JNL_CTRL_REPLAY_DONE 1 s4 with fov := { s4.fov with
      replayed := true, tReplay := if s4.mode = Mode.takeover then (s.clock - s.fov.detectedAt) / 1000 else s4.fov.tReplay } }
    .next (after (retryIntents (unexpose s5)))
  else .next s

/-! Data on its way to the host (R188, R194) -/

/-- Bytes written at an offset of a host buffer made of parts. -/
def scatter : List (Nat × Nat) → Nat → List Nat → State → State
  | [], _, _, s => s
  | (a, n) :: t, off, bytes, s =>
    if bytes.isEmpty then s
    else if n ≤ off then scatter t (off - n) bytes s
    else
      let now := bytes.take (n - off)
      scatter t 0 (bytes.drop (n - off)) (postHost (a + off) now s)

/-- A block in its host form: with PI_ENABLE, its guard and REF_TAG follow the data (R184). -/
def hostBytes (e : Entry) (i : Nat) (b : Block) : List Nat :=
  leBytes 4096 b ++ (if bitOf e.flags 1 = 1 then leBytes 8 (hostGuard b) ++ leBytes 8 (e.slba + i) else [])

/-- Data of a command handed to the host buffer from byte 0. -/
def toHost (e : Entry) (bytes : List Nat) (s : State) : State := scatter (hostParts e) 0 bytes s

/-- The piece that a block of a command belongs to: the run of its blocks in one unit that no dirty line holds; first block and length. -/
def State.pieceAt (s : State) (c : Cmd) (i : Nat) : Nat × Nat :=
  let key (j : Nat) : (Nat × Nat) × Bool :=
    let at' := s.locate c.e.vol (c.e.slba + j)
    ((at'.1, at'.2.1), match Assoc.find s.jnl.lines (lineKey c.e.vol (c.e.slba + j)) with | some l => l.dirty | none => false)
  ((runsOf key 0 (c.e.nlbM1 + 1)).find? (fun r => decide (r.1 ≤ i) && decide (i < r.1 + r.2))).getD (i, 1)

/-- The piece of a block is read again from the members, as a new piece (R194); clean lines of it leave the cache. -/
def reread (n i : Nat) (s : State) : State :=
  match s.cmd? n with
  | none => s
  | some c =>
    let v := c.e.vol
    let r := s.pieceAt c i
    let blocks := (List.range r.2).map (fun k => r.1 + k)
    let at' := s.locate v (c.e.slba + r.1)
    let p := s.sas.nextPiece
    let x : Piece := { cmd := n, idx := r.1, array := s.volArray v, row := at'.1, d := at'.2.1, first := at'.2.2, nblk := r.2, reread := true }
    let keys := blocks.map (fun k => lineKey v (c.e.slba + k))
    let s1 := onCmd n (fun y => { y with
      pieces := y.pieces + 1, reread := blocks.foldl addOnce y.reread, buf := y.buf.filter (fun b => !blocks.contains b.1) }) s
    servePiece p { s1 with
      sas := { s1.sas with pieces := Assoc.set s1.sas.pieces p x, nextPiece := p + 1 }
      jnl := { s1.jnl with lines := s1.jnl.lines.filter (fun l => l.2.dirty || !keys.contains l.1) } }

/-- A block whose sidecar fails at egress is classed by its line (R194): a dirty line that the block was taken from, or a clean line or read
buffer. -/
def egressFails (n : Nat) (c : Cmd) (partner : List (Nat × (Block × Nat))) (i : Nat) (s : State) : State :=
  match Assoc.find c.buf i with
  | none => s
  | some held =>
    let key := lineKey c.e.vol (c.e.slba + i)
    let s1 := lastHost 3 c (c.e.slba + i) (event Reg.INT_EVENT_SIDECAR_EGRESS Reg.INT_SIDECAR_EGRESS_CNT s)
    let fails (t : State) : State := onCmd n (fun x => { x.fail i St.internalData 0 with buf := Assoc.erase x.buf i, lost := addOnce x.lost i }) t
    if held.dirty then
      match s.partnerCopy partner key with
      | some l => onCmd n (fun x => { x with buf := Assoc.set x.buf i l }) (settleBlock key held.ver partner s1)
      | none => fails (settleBlock key held.ver [] s1)
    else if s.on Reg.INT_CTRL_EGRESS_REREAD && !c.reread.contains i then reread n i s1
    else fails s1

/-- HOST_DATA_EGRESS (R188): `bad` are the block indices whose sidecar fails in DRAM, `partner` the copies of dirty lines that the
partner holds and that pass. A READ moves its blocks once every piece is done and no block has to be read again. -/
def execHostDataEgress (qid cid : Nat) (bad : List Nat) (partner : List (Nat × (Block × Nat))) (s : State) : Result :=
  match s.cmdOf qid cid with
  | none => .next s
  | some (n, c) =>
    if c.e.opcode == 0x20 && c.split && c.pieces == 0 && s.masters then
      let failing := (c.buf.filter (fun b => b.2.bad || bad.contains b.1)).map Prod.fst
      let s1 := forEach failing (fun i t => match t.cmd? n with | some x => egressFails n x partner i t | none => t)
        (bumpBy Reg.INT_BLOCKS_CHECKED_CNT c.buf.length s)
      match s1.cmd? n with
      | none => .next (after s1)
      | some x =>
        if x.pieces ≠ 0 then .next (after s1)
        else
          let size := if bitOf c.e.flags 1 = 1 then 4112 else 4096
          let s2 := forEach x.buf (fun b t => scatter (hostParts c.e) (size * b.1) (hostBytes c.e b.1 b.2.data) t) s1
          .next (after (finish n x.status x.result s2))
    else .next s

/-- INT_INJECT (R186): kinds 0 and 7 arm nothing, and GO clears at once. -/
def execIntInject (kind : Fin 8) (s : State) : Result :=
  land 0x60004 (.intInject kind) (fun t =>
    setF Reg.INT_INJECT_GO (b2n (kind.val != 0 && kind.val != 7)) (setF Reg.INT_INJECT_KIND kind.val t)) s

end Sys2Proof.Machine
end

