-- ==== Sys2Proof/Machine/Qmx.lean ====
section
/-! DEFINITION. The queue interface (chapter 07): enabling, doorbells and polls, the checks of an entry, arbitration, and the
heartbeat record. -/

namespace Sys2Proof.Machine

/-! Pairs -/

/-- Entries of a pair. -/
def Pair.size (p : Pair) : Nat := p.sizeM1 + 1

/-- Entries between the module's SQ head and tail. -/
def Pair.waits (p : Pair) : Nat := (p.sqTail + p.size - p.sqHead) % p.size

/-- Created I/O pairs, by ascending identifier. -/
def State.ioPairs (s : State) : List (Nat × Pair) := s.qmx.pairs.filter (fun p => p.1 != 0)

/-- Queues are being served, in a mode that fetches (R198, R203). -/
def State.serving (s : State) : Bool :=
  s.on Reg.QMX_CTRL_EN && s.on Reg.QMX_STATUS_RDY && s.mode != Mode.destaging && s.sys.powered && s.masters

/-- Completions that waited on a full CQ go out as far as released slots admit (R215). -/
def drainCq (q : Nat) (s : State) : State :=
  let s1 := forEach s.qmx.stalled (fun p t =>
    match t.pair? p.qid with
    | some pr =>
      if p.qid = q ∧ !pr.cqFull ∧ t.masters then
        writeEntry p pr { t with qmx := { t.qmx with stalled := t.qmx.stalled.erase p } }
      else t
    | none => t) s
  when s1.qmx.stalled.isEmpty (setF Reg.QMX_STATUS_CQ_STALL 0) s1

/-- A new SQ tail is taken, or ignored beyond the ring (R202). -/
def submit (q t : Nat) (s : State) : State :=
  match s.pair? q with
  | none => s
  | some p => if p.sizeM1 < t then ignored 1 q s else onPair q (fun x => { x with sqTail := t }) s

/-- A new CQ head is legal (R202): within the ring, and releasing only entries that were written. -/
def Pair.releases (p : Pair) (h : Nat) : Bool :=
  decide (h ≤ p.sizeM1) && decide ((h + p.size - p.cqHead) % p.size ≤ (p.cqTail + p.size - p.cqHead) % p.size)

/-- A new CQ head is taken, or ignored (R202). -/
def release (q h : Nat) (s : State) : State :=
  match s.pair? q with
  | none => s
  | some p => if p.releases h then drainCq q (onPair q (fun x => { x with cqHead := h }) s) else ignored 2 q s

/-! Enabling (R198, R226) -/

/-- QUEUE_ENABLE (R198): the size is checked; the bases are aligned by their fields. -/
def execQueueEnable (s : State) : Result :=
  land 0x20000 .queueEnable (fun t =>
    if t.on Reg.QMX_CTRL_EN then t
    else if t.get Reg.QMX_ADMIN_CFG_SIZE_M1 = 0 then setF Reg.QMX_STATUS_CFG_ERR 1 t
    else
      let t1 := setF Reg.QMX_STATUS_CFG_ERR 0 (setF Reg.QMX_CTRL_EN 1 t)
      { t1 with qmx := { t1.qmx with starting := true, stopping := false } }) s

/-- QUEUE_READY (R198): the admin pair is taken with both indices 0. -/
def execQueueReady (s : State) : Result :=
  if s.on Reg.QMX_CTRL_EN && s.qmx.starting then
    let p : Pair := {
      sizeM1 := s.get Reg.QMX_ADMIN_CFG_SIZE_M1
      sqBase := s.get64 Reg.QMX_ADMIN_SQ_BASE_LO_BASE Reg.QMX_ADMIN_SQ_BASE_HI_BASE
      cqBase := s.get64 Reg.QMX_ADMIN_CQ_BASE_LO_BASE Reg.QMX_ADMIN_CQ_BASE_HI_BASE }
    let s1 := setF Reg.QMX_STATUS_RDY 1 (setF Reg.QMX_ADMIN_SQ_TAIL_INDEX 0 (setF Reg.QMX_ADMIN_CQ_HEAD_INDEX 0 s))
    .next { s1 with qmx := { s1.qmx with pairs := Assoc.set s1.qmx.pairs 0 p, starting := false } }
  else .next s

/-- Every pair is deleted: completions still to be written are dropped, and no CQ is pending any more. -/
def deletePairs (s : State) : State :=
  { setF Reg.QMX_STATUS_CQ_STALL 0 s with
    qmx := { s.qmx with pairs := [], stalled := [], heldOut := [] }
    hif := { s.hif with pend := [], announced := [], vecDue := [] } }

/-- QUEUE_DISABLE (R226): commands in flight run on, and no completion is posted for them. -/
def execQueueDisable (s : State) : Result :=
  land 0x20000 .queueDisable (fun t =>
    if t.on Reg.QMX_CTRL_EN then
      let t1 := deletePairs (setF Reg.QMX_CTRL_EN 0 t)
      { t1 with qmx := { t1.qmx with starting := false, stopping := true } }
    else t) s

/-- QUEUE_STOPPED (R226). -/
def execQueueStopped (s : State) : Result :=
  if s.qmx.stopping then
    let s1 := setF Reg.QMX_STATUS_RDY 0 s
    .next { s1 with qmx := { s1.qmx with stopping := false } }
  else .next s

/-! Doorbells (R200 to R205) -/

/-- ADMIN_SQ_TAIL_WRITE (R202, R203): ignored in DESTAGING and before the admin pair is taken. -/
def execAdminSqTailWrite (index : Nat) (s : State) : Result :=
  land 0x20020 (.adminSqTailWrite index) (fun t =>
    match t.pair? 0 with
    | none => t
    | some p =>
      if t.mode = Mode.destaging then t
      else when (decide (index ≤ p.sizeM1)) (setF Reg.QMX_ADMIN_SQ_TAIL_INDEX index) (submit 0 index t)) s

/-- ADMIN_CQ_HEAD_WRITE (R202). -/
def execAdminCqHeadWrite (index : Nat) (s : State) : Result :=
  land 0x20024 (.adminCqHeadWrite index) (fun t =>
    match t.pair? 0 with
    | none => t
    | some p =>
      if t.mode = Mode.destaging then t
      else when (p.releases index) (setF Reg.QMX_ADMIN_CQ_HEAD_INDEX index) (release 0 index t)) s

/-- KICK (R204): the adaptive interval starts again at 2 µs; the poll within 1 µs is a DOORBELL_POLL of its own. -/
def execKick (s : State) : Result :=
  land 0x20034 .kick (fun t => { t with qmx := { t.qmx with interval := 2 } }) s

/-- The mode polls at an adaptive interval (R203). -/
def adaptive (m : Nat) : Bool := [Mode.waking, Mode.serving, Mode.draining, Mode.standby, Mode.takeover].contains m

/-- The poll interval in µs, 0 when not polling (R203, QMX_POLL_STATUS). -/
def State.pollInterval (s : State) : Nat :=
  if !s.serving then 0 else if s.mode = Mode.parked then 50000 else if s.mode = Mode.service then 1000 else s.qmx.interval

/-- Some I/O queue holds an entry that is not fetched. -/
def State.ioPending (s : State) : Bool := s.ioPairs.any (fun p => p.2.waits != 0)

/-- A running self-test suspends (R252). -/
def suspendTest (s : State) : State :=
  when (s.cmd.testRunning != 0 && !s.cmd.testSuspended)
    (fun t => { t with cmd := { t.cmd with testSuspended := true, testPaused := t.clock } }) s

/-- A doorbell word of an identifier that is not created: a change between two polls is ignored and counted (R223). -/
def strayDoorbell (q side v : Nat) (s : State) : State :=
  let key := 2 * q + side
  let s1 : State := { s with qmx := { s.qmx with strayDoorbells := Assoc.set s.qmx.strayDoorbells key v } }
  match Assoc.find s.qmx.strayDoorbells key with
  | some w => if w = v then s else ignored 3 q s1
  | none => s1

/-- The doorbell area's base, and the slots of an I/O pair's SQ tail and CQ head in it (R200). -/
def State.doorbellArea (s : State) : Nat := s.get64 Reg.QMX_DB_BASE_LO_BASE Reg.QMX_DB_BASE_HI_BASE
def State.tailSlot (s : State) (q : Nat) : Nat := s.doorbellArea + 4 * (q - 1)
def State.headSlot (s : State) (q : Nat) : Nat := s.doorbellArea + 4096 + 4 * (q - 1)

/-- The two doorbell words of an identifier as a poll reads them; a word that could not be read is unchanged (R284). -/
def pollPair (q : Nat) (t h : Option Nat) (s : State) : State :=
  match s.pair? q with
  | none =>
    let s1 := match t with | some v => strayDoorbell q 0 v s | none => s
    (match h with | some v => strayDoorbell q 1 v s1 | none => s1)
  | some p =>
    let s1 := match t with
      | some v => if v = p.rawTail then s else submit q v (onPair q (fun x => { x with rawTail := v }) s)
      | none => s
    match h with
    | some v => if v = p.rawHead then s1 else release q v (onPair q (fun x => { x with rawHead := v }) s1)
    | none => s1

/-- DOORBELL_POLL (R200, R203, R204): the tail and head slots of identifiers 1 to the highest created one are read; `words` is what host
memory holds there, by address. -/
def execDoorbellPoll (tails heads : List (Nat × Nat)) (s : State) : Result :=
  if s.serving then
    let top := (s.ioPairs.map Prod.fst).foldl max 0
    let s0 := readHost (s.headSlot 1) (4 * top) (readHost (s.tailSlot 1) (4 * top) (bump Reg.QMX_POLL_CNT s))
    let s1 := forEach ((List.range top).map (fun i => i + 1))
      (fun q t => pollPair q (Assoc.find tails (s.tailSlot q)) (Assoc.find heads (s.headSlot q)) t) s0
    let found := s1.ioPairs.any (fun p => match s.pair? p.1 with | some old => p.2.sqTail != old.sqTail | none => false)
    let next := if found then 2 else if s1.ioInFlight then s1.qmx.interval else min 1000 (2 * s1.qmx.interval)
    let s2 : State := { s1 with qmx := { s1.qmx with
      interval := if adaptive s.mode then next else s1.qmx.interval } }
    .next (when s2.ioPending suspendTest s2)
  else .next s

/-! What an entry asks for (R206 to R212, R228) -/

/-- The 16-byte entries of a fragment table (R210): address, length, flags. -/
def tableEntries (b : List Nat) : List (Nat × (Nat × Nat)) :=
  (List.range (b.length / 16)).map (fun i => (byteField b (16 * i) 8, byteField b (16 * i + 8) 4, byteField b (16 * i + 12) 4))

/-- The fields of a submission entry (R206), with the queue it was read from. -/
def decodeEntry (q : Nat) (x : RawEntry) : Entry where
  qid := q
  opcode := byteField x.bytes 0 1
  flags := byteField x.bytes 1 1
  cid := byteField x.bytes 2 2
  vol := byteField x.bytes 4 4
  slba := byteField x.bytes 8 8
  nlbM1 := byteField x.bytes 16 4
  options := byteField x.bytes 20 4
  dptr := byteField x.bytes 24 8
  dlen := byteField x.bytes 32 4
  piCtrl := byteField x.bytes 36 4
  spec := (x.bytes.drop 40).take 24
  admin := x.admin
  tables := x.tables.map tableEntries

/-- The admin command of an entry: 0x01 is IDENTIFY, and I/O opcodes are none. -/
def adminOf (e : Entry) : Option AdminOp :=
  if e.opcode = 1 then some .identify
  else if 0x20 ≤ e.opcode ∧ e.opcode ≤ 0x25 then none
  else match e.admin with
    | some .identify => none
    | x => x

/-- OPCODE belongs to the queue's kind (step 1 of R207). -/
def opcodeOk (e : Entry) : Bool :=
  if e.qid = 0 then (adminOf e).isSome else decide (0x20 ≤ e.opcode) && decide (e.opcode ≤ 0x25)

/-- Data fragments of a list of tables. -/
def dataFrags (e : Entry) : List (Nat × (Nat × Nat)) := e.tables.flatMap (fun t => t.filter (fun f => bitOf f.2.2 1 == 0))

/-- Bytes of the host buffer (R209, R210). -/
def bufferLen (e : Entry) : Nat := if bitOf e.flags 0 = 0 then e.dlen else ((dataFrags e).map (fun f => f.2.1)).sum

/-- Every table but the last ends in a good CHAIN entry to the next, and no other entry is a CHAIN (R211, R212). -/
def chainsOk : List (List (Nat × (Nat × Nat))) → Bool
  | [] => false
  | [t] => t.length != 0 && decide (t.length ≤ 256) && t.all (fun f => bitOf f.2.2 1 == 0)
  | t :: u :: rest =>
    let last := t.getLastD (0, 0, 0)
    t.length != 0 && decide (t.length ≤ 256) && t.dropLast.all (fun f => bitOf f.2.2 1 == 0)
      && bitOf last.2.2 1 == 1 && bitOf last.2.2 0 == 0 && last.1 % 16 == 0 && last.2.1 % 16 == 0 && decide (16 ≤ last.2.1)
      && decide (last.2.1 ≤ 4096) && u.length == last.2.1 / 16 && chainsOk (u :: rest)

/-- The buffer of an entry is valid for a transfer length (R209 to R212); under COMPAT no list is (R475). -/
def State.bufferOk (s : State) (e : Entry) (len : Nat) : Bool :=
  if bitOf e.flags 0 = 0 then e.dlen == len
  else
    let fs := dataFrags e
    !s.on Reg.SYS_STRAP_COMPAT && e.dptr % 16 == 0 && chainsOk e.tables && fs.all (fun f => f.2.1 != 0)
      && decide (e.dlen < 65536) && fs.length == e.dlen + 1 && bitOf (fs.getLastD (0, 0, 0)).2.2 0 == 1
      && fs.dropLast.all (fun f => bitOf f.2.2 0 == 0) && (fs.map (fun f => f.2.1)).sum == len

/-- Bytes of one block in the host buffer (R184). -/
def blockSize (e : Entry) : Nat := if bitOf e.flags 1 = 1 then 4112 else 4096

/-- Steps 1 to 5 of R207 for an I/O command: the status of the first check that fails. -/
def State.ioCheck (s : State) (e : Entry) : Option Nat :=
  let n := e.nlbM1 + 1
  let moves := e.opcode == 0x20 || e.opcode == 0x21
  if !opcodeOk e then some St.invalidOpcode
  else if !(decide (e.vol < 64) && s.volValid e.vol) then some St.invalidField
  else if e.opcode = 0x23 then none
  else if moves && decide (16384 < n) then some St.invalidLength
  else if s.volBlocks e.vol < e.slba + n then some St.lbaOutOfRange
  else if moves && !s.bufferOk e (n * blockSize e) then some St.fragmentError
  else none

/-- The command needs served arrays (R228): an I/O command, or one of the shelf class. -/
def shelfClass (e : Entry) : Bool :=
  match adminOf e with
  | some .arrayCreate | some .arrayDelete | some .volumeCreate | some .volumeDelete | some .memberReplace => true
  | some .selfTest => e.options % 16 == 2
  | _ => false

/-- How the mode treats a command (R26, R228): 0 served, 1 NOT_ACTIVE, 2 held and DELAYED, 3 held. A command fetched in SERVING
completes in the usual way in DRAINING (R255). -/
def State.treats (s : State) (c : Cmd) : Nat :=
  let io := c.e.qid != 0
  if !io && adminOf c.e == some .setFeature then (if s.mode = Mode.standby then 1 else 0)
  else if !io && !shelfClass c.e then 0
  else if s.mode = Mode.serving ∨ (s.mode = Mode.draining ∧ c.fetchMode = Mode.serving) then 0
  else if s.mode = Mode.service ∧ adminOf c.e = some .selfTest ∧ io = false ∧ s.on Reg.FOV_STATUS_ACTIVE_LINE = false then 0
  else if s.mode = Mode.standby ∨ s.mode = Mode.service then 1
  else if s.mode = Mode.takeover then (if io then (if s.on Reg.FOV_CTRL_HOLD then 1 else 3) else 2)
  else if s.mode = Mode.parked ∧ s.active = false then 1
  else 2

/-- A fence that a command waits for stands (R220): the fence's completion entry has not been written. -/
def State.fenced (s : State) (c : Cmd) : Bool :=
  match c.fence with
  | none => false
  | some f => (s.cmd? f).isSome || s.qmx.stalled.any (fun p => p.cmd == f) || s.qmx.heldOut.any (fun p => p.cmd == f)

/-- A command is held by the mode: in PARKED it starts a wake, in DRAINING it is a wake cause that waits (R26, R33). -/
def holdCmd (n : Nat) (delayed : Bool) (s : State) : State :=
  let s1 := onCmd n (fun c => { c with held := true, delayed := c.delayed || delayed }) s
  if s.mode = Mode.parked then startWake s1
  else if s.mode = Mode.draining then { s1 with sys := { s1.sys with wakePending := true } }
  else s1

/-- A command that has not begun and that no fence holds is examined: its opcode, the mode, and for an I/O command the checks of
R207. -/
def screen (n : Nat) (s : State) : State :=
  match s.cmd? n with
  | none => s
  | some c =>
    if c.begun || c.held || s.fenced c then s
    else if !opcodeOk c.e then finish n St.invalidOpcode 0 s
    else
      let how := s.treats c
      if how = 1 then finish n St.notActive 0 s
      else if how = 2 ∨ how = 3 then holdCmd n (how = 2) s
      else if c.e.qid = 0 then s
      else match s.ioCheck c.e with
        | some st => finish n st 0 s
        | none => s

/-! Arbitration (R218) -/

/-- Commands that a pair may still have in flight (R215). -/
def State.room (s : State) (q : Nat) (p : Pair) : Nat := p.sizeM1 - s.inFlight q

/-- The module may take a fetch decision. -/
def State.mayFetch (s : State) : Bool := s.serving && !s.fov.fetchStopped && decide (s.allInFlight < 16384)

/-- An I/O pair takes part in the round: not being deleted, with an entry and credit. -/
def Pair.takesPart (p : Pair) : Bool := p.deleting.isNone && p.waits != 0 && p.credit != 0

/-- The queue and the number of entries of the next fetch: the admin pair first, then the I/O pairs by ascending identifier after
the last one visited; a pair at its in-flight limit is skipped. -/
def State.fetchPick (s : State) : Option (Nat × Nat) :=
  let free := 16384 - s.allInFlight
  let admin := match s.pair? 0 with
    | some p => p.waits != 0 && s.room 0 p != 0
    | none => false
  if admin then some (0, 1)
  else
    let ready := s.ioPairs.filter (fun p => p.2.takesPart && s.room p.1 p.2 != 0)
    let order := ready.filter (fun p => decide (s.qmx.lastVisit < p.1)) ++ ready.filter (fun p => decide (p.1 ≤ s.qmx.lastVisit))
    order.head?.map (fun p =>
      (p.1, min free (min p.2.waits (min (p.2.burstM1 + 1) (min p.2.credit (s.room p.1 p.2))))))

/-- The round is over (R218): every I/O queue gets its weight as credit. -/
def newRound (s : State) : State :=
  if s.ioPairs.any (fun p => p.2.takesPart) then s
  else { s with qmx := { s.qmx with pairs := s.qmx.pairs.map (fun p => (p.1, { p.2 with credit := p.2.weight })) } }

/-- The fragment tables of an entry are read (R212): the first at DPTR, each later one where the CHAIN entry before it points. -/
def readTables (e : Entry) (s : State) : State :=
  if bitOf e.flags 0 = 0 then s
  else
    let starts := e.dptr :: e.tables.map (fun t => (t.getLastD (0, 0, 0)).1)
    forEach (starts.zip e.tables) (fun p => readHost p.1 (16 * p.2.length)) s

/-- One entry is fetched (R216, R218 to R220): it is numbered, and stands behind the last fence of its queue. A FLUSH owes the lines
of its volume that are dirty now (R116). -/
def fetchOne (q : Nat) (e : Entry) (s : State) : State :=
  match s.pair? q with
  | none => s
  | some p =>
    let n := s.qmx.nextCmd
    let c0 : Cmd := { e := e, fetchMode := s.mode, fence := p.fence }
    let owed := if q ≠ 0 ∧ e.opcode = 0x23 then
        (s.dirtyLines.filter (fun l => keyVol l.1 == e.vol)).map (fun l => (l.1, l.2.ver)) else []
    let c := { c0 with owed := owed }
    let p1 : Pair := { p with
      sqHead := if p.sqHead = p.sizeM1 then 0 else p.sqHead + 1
      fence := if bitOf e.flags 3 = 1 then some n else if s.fenced c then p.fence else none }
    let s1 : State := { s with qmx := { s.qmx with
      cmds := Assoc.set s.qmx.cmds n c, nextCmd := n + 1, pairs := Assoc.set s.qmx.pairs q p1 } }
    bump Reg.QMX_CMD_FETCHED_CNT (when (s.fenced c) (bump Reg.QMX_FENCE_WAIT_CNT) s1)

/-- The n entries from a pair's SQ head on are read from host memory, those before the ring's end and those after it. -/
def readEntries (q n : Nat) (s : State) : State :=
  match s.pair? q with
  | none => s
  | some p =>
    let k := min n (p.size - p.sqHead)
    readHost p.sqBase (64 * (n - k)) (readHost (p.sqBase + 64 * p.sqHead) (64 * k) s)

/-- Entries are fetched from a queue, and decoded; its credit falls. -/
def fetchInto (q : Nat) (es : List RawEntry) (s : State) : State :=
  let s1 := forEach (es.map (decodeEntry q)) (fun e t => fetchOne q e (readTables e t)) s
  if q = 0 then s1
  else
    let s2 := onPair q (fun p => { p with credit := p.credit - es.length }) s1
    suspendTest { s2 with qmx := { s2.qmx with lastVisit := q } }

/-- Every command that has not begun is examined, in fetch order. -/
def screenAll (s : State) : State := forEach (s.qmx.cmds.map Prod.fst) screen s

/-- COMMAND_FETCH (R206, R218): one fetch decision. `entries` is what host memory holds from the SQ head on; where it holds too few, the
read has failed and nothing is fetched (R284). -/
def execCommandFetch (entries : List RawEntry) (s : State) : Result :=
  if s.mayFetch then
    let s1 := newRound s
    match s1.fetchPick with
    | none => .next (settle (screenAll s1))
    | some (q, n) =>
      let s2 := readEntries q n s1
      if n ≤ entries.length then .next (after (screenAll (fetchInto q (entries.take n) s2))) else .next s2
  else .next s

/-! The heartbeat record (R224) -/

/-- The record's bytes 0 to 59. -/
def State.hbBody (s : State) : List Nat :=
  let flags := s.get Reg.FOV_CTRL_HOLD + 2 * s.get Reg.JNL_STATUS_EXPOSED + 4 * s.get Reg.JNL_CTRL_PACK_HEALTHY
    + 8 * b2n s.partnerLive + 16 * b2n s.sys.faultLed
  [77, 88, 72, 66] ++ leBytes 4 s.qmx.hbSeq ++ leBytes 8 (s.clock / 1000)
    ++ [s.mode, s.role, s.get Reg.SYS_STRAP_POS, s.get Reg.JNL_STATUS_LEVEL] ++ leBytes 2 flags
    ++ leBytes 2 (min 65535 s.pollInterval) ++ leBytes 8 s.ownUid ++ leBytes 4 s.allInFlight
    ++ leBytes 4 (s.get Reg.QMX_IGNORED_CNT) ++ List.replicate 20 0

/-- HEARTBEAT_RECORD (R224): one posted write of 64 bytes. -/
def execHeartbeatRecord (s : State) : Result :=
  let s0 : State := { s with sys := { s.sys with hbDue := false } }
  if s.hif.hbAddr = 0 ∨ s.mode = Mode.destaging ∨ s.hif.flr = true then .next s0
  else if s.hif.d3hot then .next s0
  else if !s.hif.busMaster then .next (event Reg.QMX_EVENT_HB_SKIP Reg.QMX_HB_SKIP_CNT s0)
  else
    let body := s.hbBody
    let s1 := emit (.hostWrite s.hif.hbAddr (body ++ leBytes 4 (crc32c body)) s.hostAttr) s0
    .next (bump Reg.QMX_HB_CNT { s1 with qmx := { s1.qmx with hbSeq := s1.qmx.hbSeq + 1 } })

end Sys2Proof.Machine
end

