-- ==== Sys2Proof/Machine/Commands.lean ====
section
/-! DEFINITION. How a command that was fetched comes to run (R207, R220, R222, R227, R242), and the I/O commands but COPY (R264,
R265), with ABORT (R263). -/

namespace Sys2Proof.Machine

/-! Running -/

/-- Admin commands that run at once (R222). -/
def exempt (e : Entry) : Bool :=
  match adminOf e with
  | some .identify | some .getFeature | some .getLog | some .abort => true
  | _ => false

/-- An admin command's turn (R222): no earlier one that must complete before it is still in flight. -/
def State.turn (s : State) (n : Nat) (c : Cmd) : Bool :=
  c.e.qid != 0 || exempt c.e || s.qmx.cmds.all (fun p => p.2.e.qid != 0 || exempt p.2.e || decide (n ≤ p.1))

/-- The earliest-fetched command of a queue and identifier that has not begun and satisfies a test. -/
def State.waitingCmd (s : State) (qid cid : Nat) (p : Cmd → Bool) : Option Nat :=
  (s.qmx.cmds.find? (fun c => c.2.e.qid == qid && c.2.e.cid == cid && !c.2.begun && p c.2)).map Prod.fst

/-- A command that passed its checks may begin: neither held, nor fenced, and its turn has come. -/
def State.mayBegin (s : State) (n : Nat) (c : Cmd) : Bool := !c.held && !s.fenced c && s.turn n c

/-- A command is examined, and begins with its effect where it may. -/
def run (n : Nat) (k : Nat → Cmd → State → State) (s : State) : State :=
  let s1 := screen n s
  match s1.cmd? n with
  | some c => if s1.mayBegin n c then k n c s1 else s1
  | none => s1

/-- An admin command with an identifier runs (R222). The firmware serves it once it runs itself (R472). -/
def runAdmin (cid : Nat) (op : AdminOp) (p : Entry → Bool) (k : Nat → Cmd → State → State) (s : State) : Result :=
  if !s.sys.firmwareUp then .next s
  else match s.waitingCmd 0 cid (fun c => decide (adminOf c.e = some op) && p c.e) with
    | some n => .next (after (run n k s))
    | none => .next s

/-- An I/O command runs. -/
def runIo (qid cid opcode : Nat) (k : Nat → Cmd → State → State) (s : State) : Result :=
  match s.waitingCmd qid cid (fun c => c.e.qid != 0 && c.e.opcode == opcode) with
  | some n => .next (after (run n k s))
  | none => .next s

/-- A refusal with INVALID_FIELD and a result. -/
def refuse (n result : Nat) (s : State) : State := finish n St.invalidField result s

/-- A command that moves data has the length of its buffer checked at step 6 of R207 (R227). -/
def withBuffer (n : Nat) (c : Cmd) (len : Nat) (k : State → State) (s : State) : State :=
  if s.bufferOk c.e len then k s else finish n St.fragmentError 0 s

/-- Data goes to the host, and the command completes. -/
def reply (n : Nat) (c : Cmd) (bytes : List Nat) (result : Nat) (s : State) : State :=
  finish n St.success result (toHost c.e bytes s)

/-- Bytes padded with zeros, or cut, to a length. -/
def padTo (len : Nat) (bytes : List Nat) : List Nat := bytes.take len ++ List.replicate (len - bytes.length) 0

/-! I/O commands -/

/-- READ (R264): its blocks are split into pieces and served. -/
def execRead (qid cid : Nat) (s : State) : Result :=
  runIo qid cid 0x20 (fun n _ t => splitPieces n (onCmd n (fun x => { x with begun := true }) t)) s

/-- New writes to a volume are held at fetch while its deltas find no room in the deferred-delta log (R408). -/
def State.volHeld (s : State) (v : Nat) : Bool := s.jnl.updates.any (fun p => p.2.step == 10 && p.2.vol == v)

/-- WRITE (R264): its host data may now come in (R187). -/
def execWrite (qid cid : Nat) (s : State) : Result :=
  runIo qid cid 0x21 (fun n c t => if t.volHeld c.e.vol then t else onCmd n (fun x => { x with begun := true }) t) s

/-- VERIFY (R264): with PARITY set the parities of the touched rows are verified, and mismatches arbitrated (R176); `reads` is what the rows'
members read under the row's lock. Every member must be awake for that. -/
def execVerify (qid cid : Nat) (reads : List (Nat × RowReads)) (s : State) : Result :=
  runIo qid cid 0x22 (fun n c t =>
    let a := t.volArray c.e.vol
    let parity := bitOf c.e.options 0 = 1
    let ms := List.range (t.geo a).members
    if parity ∧ !t.membersAwake a ms then
      forEach ((ms.filter (fun m => !(t.erasedMembers a).contains m && !t.awakeMember a m)).map (t.physMember a)) wakeSlot t
    else
      let rows := if parity then (t.rangeRows c.e.vol c.e.slba (c.e.nlbM1 + 1)).map (fun k => k / 4) else []
      let found := reads.filter (fun r => rows.contains r.1 && t.confirms a r.1 r.2)
      let t1 := onCmd n (fun x => { x with begun := true, result := if found.isEmpty then 0 else 2 ^ 31 }) t
      splitPieces n (forEach found (fun r u => arbitrateRow a r.1 r.2 (stat a 2 1 u)) t1)) s

/-- FLUSH (R116, R264): the lines of its volume that were dirty at its fetch are owed; with none left it completes. -/
def execFlush (qid cid : Nat) (s : State) : Result :=
  runIo qid cid 0x23 (fun n c t =>
    let rows := once (c.owed.map (fun o =>
      rowKey (t.volArray c.e.vol) (t.locate c.e.vol (keyLba o.1)).1))
    if c.owed.isEmpty then finish n St.success 0 t
    else demand rows (onCmd n (fun x => { x with begun := true, level := 0 }) t)) s

/-- FLUSH_COMPLETE (R116): the last owed line has retired. -/
def execFlushComplete (qid cid : Nat) (s : State) : Result :=
  match s.cmdOf qid cid with
  | some (n, c) => if c.e.opcode == 0x23 && c.begun && c.owed.isEmpty then .next (finish n St.success 0 s) else .next s
  | none => .next s

/-- FLUSH_WAKE_TIMEOUT (R264, R235): a FLUSH, a FUA write, WRITE_ZEROES with FUA or a SET_FEATURE WRITE_THROUGH whose drives cannot be
woken within 30 s; the data stays committed, and the command owes nothing more. The value 1 of WRITE_THROUGH stays in force. -/
def execFlushWakeTimeout (qid cid : Nat) (s : State) : Result :=
  match s.cmdOf qid cid with
  | some (n, c) =>
    if qid = 0 then
      (if s.cmd.wtCmds.contains n then
        .next (finish n St.budgetDenied 0 { s with cmd := { s.cmd with wtCmds := remove s.cmd.wtCmds n } })
       else .next s)
    else
    let fua := (c.e.opcode == 0x21 || c.e.opcode == 0x24) && bitOf c.e.flags 2 == 1 && c.final
    if !c.owed.isEmpty && ((c.e.opcode == 0x23 && c.begun) || fua) then
      let level := if c.e.opcode = 0x23 then 0 else c.level
      .next (finish n St.budgetDenied level { s with jnl := { s.jnl with flights := s.jnl.flights.filter (fun f => f.cmd != n) } })
    else .next s
  | none => .next s

/-- Blocks from a volume block to the end of its row. -/
def State.toRowEnd (s : State) (v lba : Nat) : Nat :=
  let g := s.geo (s.volArray v)
  let full := g.dataCount * g.unitBlocks
  full - (s.volBase v * full + lba) % full

/-- The next row of a command that commits row by row: its blocks commit where nothing holds or refuses them (R113, R119, R159,
R221). -/
def commitRow (n v lba : Nat) (lines : List Line) (fua : Bool) (s : State) : State :=
  if s.jnl.toWt || s.admitStop || s.volHeld v || s.mustFollow n v lba lines.length then s
  else if s.get Reg.JNL_STATUS_LEVEL == 1 && !s.stagingFits lines.length then stagingStall s
  else endWrite n (commitBlocks n v lba lines fua 0 s)

/-- WRITE_ZEROES (R264): each occurrence commits the next row; a command whose range the array cannot take is refused whole
(R159). -/
def execWriteZeroes (qid cid : Nat) (s : State) : Result :=
  match s.qmx.cmds.find? (fun c => c.2.e.qid == qid && qid != 0 && c.2.e.cid == cid && c.2.e.opcode == 0x24 && !c.2.final) with
  | none => .next s
  | some (n, _) => .next (after (
    let s1 := screen n s
    match s1.cmd? n with
    | none => s1
    | some c =>
      if !s1.mayBegin n c then s1
      else if c.next = 0 ∧ s1.writeRefused c.e.vol c.e.slba (c.e.nlbM1 + 1) = true then finish n St.arrayOffline 0 s1
      else
        let lba := c.e.slba + c.next
        let k := min (s1.toRowEnd c.e.vol lba) (c.e.nlbM1 + 1 - c.next)
        commitRow n c.e.vol lba (List.replicate k {}) (bitOf c.e.flags 2 == 1) (onCmd n (fun x => { x with begun := true }) s1)))

/-! ABORT -/

/-- A command that has not begun is ended at someone's request (R242, R263). -/
def abortCmd (n : Nat) (s : State) : State :=
  let s1 : State := { s with cmd := { s.cmd with
    parkCmds := remove s.cmd.parkCmds n, wakeCmds := remove s.cmd.wakeCmds n } }
  abortAll [n] s1

/-- ABORT (R263): a PARK or WAKE that waits has not begun in the sense of R242. -/
def execAbort (cid : Nat) (s : State) : Result :=
  runAdmin cid .abort (fun _ => true) (fun n c t =>
    let sq := specField c.e 40 2
    let id := specField c.e 42 2
    match t.qmx.cmds.find? (fun p => p.1 != n && p.2.e.qid == sq && p.2.e.cid == id
        && (!t.hasBegun p.1 p.2 || t.cmd.parkCmds.contains p.1 || t.cmd.wakeCmds.contains p.1)) with
    | some (m, _) => finish n St.success 0 (abortCmd m t)
    | none => finish n St.success 1 t) s

end Sys2Proof.Machine
end

