-- ==== Sys2Proof/Machine/Admin.lean ====
section
/-! DEFINITION. The admin commands for features, queue pairs, arrays, volumes and members (R233 to R235, R241 to R248). -/

namespace Sys2Proof.Machine

/-! Features (R233 to R235) -/

/-- The feature code, the selector and the value that an entry carries. -/
def featCode (e : Entry) : Nat := e.options % 256
def featSel (e : Entry) : Nat := specField e 40 1
def featVal (e : Entry) : Nat := specField e 44 4

/-- Selectors that a feature has; one without a selector takes 0 for it. -/
def selCount (code : Nat) : Nat := if code = 3 ∨ code = 5 ∨ code = 6 then 4 else if code = 0xB then 2 else 0

/-- The code and its selector are known. -/
def featKnown (code sel : Nat) : Bool :=
  decide (1 ≤ code) && decide (code ≤ 0xB) && (selCount code == 0 || decide (sel < selCount code))

/-- The selector under which a feature is kept. -/
def keptSel (code sel : Nat) : Nat := if selCount code = 0 then 0 else sel

/-- The value lies in the feature's range (R234). -/
def featRange (code sel v : Nat) : Bool :=
  let within (lo hi : Nat) : Bool := decide (lo ≤ v) && decide (v ≤ hi)
  if code = 1 ∨ code = 4 ∨ code = 7 then within 0 1
  else if code = 2 then within 1 600
  else if code = 3 then
    (if sel = 0 then within 1 256 else if sel = 1 then within 0 10000 else if sel = 2 then within 10 100 else within 4096 49152)
  else if code = 5 then within 0 2
  else if code = 6 then
    let l := v % 65536
    let g := v / 65536
    decide (1 ≤ l) && decide (l ≤ 365) && decide (l ≤ g) && decide (g ≤ 8 * l)
  else if code = 8 then v == 0 || within 60 86400
  else if code = 9 then within 0 7 || v == 15
  else if code = 0xA then within 1 1440
  else if sel = 0 then within 30 250 else within 0 200

/-- A feature's value comes into force (R234, R235). -/
def applyFeature (code sel v : Nat) (s : State) : State :=
  let s1 : State := { s with cmd := { s.cmd with features := Assoc.set s.cmd.features (featKey code sel) v } }
  if code = 1 then reselect (setF Reg.JNL_CTRL_FORCE_WT v s1)
  else if code = 3 then writeHealth (updateCeiling s1)
  else if code = 7 then setF Reg.SAS_CTRL_RIW_EN v s1
  else if code = 9 then setF Reg.OXE_CTRL_SHADOW_SHIFT v s1
  else if code = 0xB then
    loopAtOnce (if sel = 0 then setF Reg.PWR_SPIN_P_DRIVE_DW v s1 else setF Reg.PWR_BUDGET_MARGIN_W v s1)
  else s1

/-- A feature set by the host: saved in MRAM where the entry asks for it, and sent to a live partner (R235). -/
def setFeature (e : Entry) (s : State) : State :=
  let code := featCode e
  let sel := keptSel code (featSel e)
  let v := featVal e
  let save := bitOf e.options 31 == 1
  let s1 := applyFeature code sel v s
  let s2 := when save (fun t => { t with cmd := { t.cmd with saved := Assoc.set t.cmd.saved (featKey code sel) v } }) s1
  when s2.partnerLive (sendConfig [11, code, sel, v, b2n save]) s2

/-- The entry names a known feature with a value in range. -/
def featOk (e : Entry) : Bool := featKnown (featCode e) (featSel e) && featRange (featCode e) (featSel e) (featVal e)

/-- The entry sets WRITE_THROUGH to 1. -/
def setsWt (e : Entry) : Bool := featCode e == 1 && featVal e == 1

/-- GET_FEATURE (R233). -/
def execGetFeature (cid : Nat) (s : State) : Result :=
  runAdmin cid .getFeature (fun _ => true) (fun n c t =>
    let code := featCode c.e
    if featKnown code (featSel c.e) then finish n St.success (t.feature code (keptSel code (featSel c.e))) t
    else refuse n 0 t) s

/-- SET_FEATURE (R233, R235). -/
def execSetFeature (cid : Nat) (s : State) : Result :=
  runAdmin cid .setFeature (fun e => !setsWt e) (fun n c t =>
    if featOk c.e then finish n St.success 0 (setFeature c.e t) else refuse n 0 t) s

/-- SET_FEATURE_WRITE_THROUGH (R235): the value is in force at once; the command completes with the transition of R113. -/
def execSetFeatureWriteThrough (cid : Nat) (s : State) : Result :=
  runAdmin cid .setFeature setsWt (fun n c t =>
    let t1 := setFeature c.e (onCmd n (fun x => { x with begun := true }) t)
    let t2 : State := { t1 with cmd := { t1.cmd with wtCmds := addOnce t1.cmd.wtCmds n } }
    if t2.get Reg.JNL_STATUS_LEVEL = 2 then
      finish n St.success 0 { t2 with cmd := { t2.cmd with wtCmds := remove t2.cmd.wtCmds n } }
    else reachWt (demand t2.dirtyRows t2)) s

/-! Queue pairs (R241, R242) -/

/-- CREATE_IO_QUEUE's checks on its own fields. -/
def State.pairOk (s : State) (e : Entry) : Bool :=
  let q := specField e 40 2
  let size := specField e 42 2
  let irq := specField e 46 1
  let priv := bitOf irq 7 == 1
  decide (1 ≤ q) && decide (q ≤ 1024) && decide (1 ≤ size) && decide (size ≤ 0xFFF) && decide (1 ≤ specField e 44 1)
    && decide (specField e 45 1 ≤ 63) && specField e 48 8 % 4096 == 0 && specField e 56 8 % 4096 == 0
    && (!priv || (!s.on Reg.SYS_STRAP_COMPAT
      && !s.ioPairs.any (fun p => bitOf p.2.irq 7 == 1 && bits p.2.irq 0 3 == bits irq 0 3)))

/-- CREATE_IO_QUEUE (R241): for an identifier that exists the pair is unchanged, and RESULT bit 0 is set (R223 kind 4). -/
def execCreateIoQueue (cid : Nat) (s : State) : Result :=
  runAdmin cid .createIoQueue (fun _ => true) (fun n c t =>
    let q := specField c.e 40 2
    if q ≠ 0 ∧ (t.pair? q).isSome = true then finish n St.success 1 (ignored 4 q t)
    else if t.pairOk c.e then
      let w := specField c.e 44 1
      let p : Pair := {
        sizeM1 := specField c.e 42 2
        sqBase := specField c.e 48 8
        cqBase := specField c.e 56 8
        weight := w
        credit := w
        burstM1 := specField c.e 45 1
        irq := specField c.e 46 1 }
      finish n St.success 0 { t with qmx := { t.qmx with
        pairs := Assoc.set t.qmx.pairs q p
        strayDoorbells := t.qmx.strayDoorbells.filter (fun x => x.1 / 2 != q) } }
    else refuse n 0 t) s

/-- DELETE_IO_QUEUE (R242): fetching stops, commands that have not begun are aborted. -/
def execDeleteIoQueue (cid : Nat) (s : State) : Result :=
  runAdmin cid .deleteIoQueue (fun _ => true) (fun n c t =>
    let q := specField c.e 40 2
    match t.pair? q with
    | none => refuse n 0 t
    | some p =>
      if q = 0 ∨ p.deleting.isSome = true then refuse n 0 t
      else
        let t1 := onPair q (fun x => { x with deleting := some n }) (onCmd n (fun x => { x with begun := true }) t)
        let t2 : State := { t1 with qmx := { t1.qmx with stalled := t1.qmx.stalled.filter (fun x => x.qid != q) } }
        abortAll ((t2.qmx.cmds.filter (fun x => x.2.e.qid == q && !t2.hasBegun x.1 x.2)).map Prod.fst) t2) s

/-- QUEUE_DELETE_DRAINED (R242): the identifier is free, and its doorbell slots are no longer read. -/
def execQueueDeleteDrained (qid : Nat) (s : State) : Result :=
  match s.pair? qid with
  | some p =>
    match p.deleting with
    | some n =>
      if s.inFlight qid = 0 then
        let strays := Assoc.set (Assoc.set s.qmx.strayDoorbells (2 * qid) p.rawTail) (2 * qid + 1) p.rawHead
        .next (finish n St.success 0 { s with
          qmx := { s.qmx with pairs := Assoc.erase s.qmx.pairs qid, strayDoorbells := strays }
          hif := { s.hif with vecDue := s.hif.vecDue.filter (fun p => p.1 != qid), pend := remove s.hif.pend qid, announced := remove s.hif.announced qid } })
      else .next s
    | none => .next s
  | none => .next s

/-! Refusals with a reason (R243, R244, R500) -/

/-- RESULT of a refusal: the reason, and the failing slot where one is named. -/
def reasonResult (reason : Nat) (slot : Option Nat) : Nat :=
  match slot with
  | some x => x + 128 + reason * 256
  | none => reason * 256

/-- A refusal with a reason of R244. -/
def refuseWith (n reason : Nat) (slot : Option Nat) (s : State) : State := refuse n (reasonResult reason slot) s

/-- What a slot is found to be: its drive is still to be looked at, or the first reason against it. -/
inductive SlotCheck where
  | unknown | ok | bad (reason : Nat)
  deriving DecidableEq, Repr

/-- The facts of a drive that the checks of a physical slot may use: those of an awake drive. -/
def State.factsOf (s : State) (drives : List (Nat × Option DriveFacts)) (p : Nat) : Option (Option DriveFacts) :=
  match Assoc.find drives p with
  | some (some f) => if s.awake p then some (some f) else none
  | x => x

/-- The reasons 3 to 7 and 13 against a physical slot, in their order (R500); `taken` is reason 4, `own` the array whose own header may be
overwritten (R161). -/
def State.checkSlot (s : State) (drives : List (Nat × Option DriveFacts)) (own : Option Nat) (p : Nat) (taken overwrite : Bool) (need : Nat) :
    SlotCheck :=
  if !s.on (Reg.SLT_STATUS_PRESENT p) || (s.slot p).leftOff then .bad 3
  else match s.factsOf drives p with
    | some none => .bad 3
    | x =>
      if taken then .bad 4
      else match x with
        | some (some f) =>
          if !f.format then .bad 5
          else if !f.dual && s.twoModules then .bad 6
          else if s.othersDrive own f || (f.header.isSome && !overwrite) then .bad 7
          else if f.bytes < need then .bad 13
          else .ok
        | _ => .unknown

/-- The first slot that a check refuses or leaves open. -/
def firstBad (check : Nat → SlotCheck) : List Nat → Option (Nat × SlotCheck)
  | [] => none
  | x :: t => if check x = .ok then firstBad check t else some (x, check x)

/-! Arrays -/

/-- The shape that ARRAY_CREATE asks for; L-GEN1 takes k = N − 2 from the slot count (R243). -/
def createGeo (e : Entry) (rows : Nat) : Geo :=
  let l := specField e 41 1
  let mask := specField e 48 14
  let slots := slotsOf mask 0 108
  { layout := l
    shift := specField e 42 1
    groups := if l = 2 then 0 else if l = 3 then specField e 43 1 else 8
    dpg := if l = 0 then 12 else if l = 1 then 11 else if l = 2 then slots.length - 2 else specField e 44 1
    globals := if l = 2 then 0 else if l = 3 then specField e 45 1 else 4
    hdr := (if l = 2 then 256 else 1024) * 2 ^ 20
    rows := rows
    slots := slots }

/-- A layout field is out of range (R41 to R43). -/
def layoutBad (g : Geo) : Bool :=
  decide (3 < g.layout) || !(decide (14 ≤ g.shift) && decide (g.shift ≤ 20))
    || (g.layout == 3 && !(decide (1 ≤ g.groups) && decide (g.groups ≤ 8) && decide (2 ≤ g.dpg) && decide (g.dpg ≤ 12)
      && decide (g.globals ≤ 8) && decide (g.members ≤ 108)))

/-- The number of slots does not fit the layout. -/
def countBad (g : Geo) : Bool :=
  if g.layout = 2 then decide (g.slots.length < 4) || decide (72 < g.slots.length) else g.slots.length != g.members

/-- Rows by R49 for a smallest member. -/
def rowsFor (g : Geo) (cmin : Nat) : Nat := (cmin / 2 ^ 30 * 2 ^ 30 - g.hdr) / g.unit

/-- The registers of an array as the firmware writes them at its creation. -/
def arrayFields (n : Nat) (g : Geo) (s : State) : State :=
  let mask := (g.slots.map (fun x => 2 ^ x)).sum
  let s1 := setF (Reg.STP_ARRAY_CFG_GEN1 n) (b2n (g.layout == 2)) (setF (Reg.STP_ARRAY_CFG_LAYOUT n) g.layout
    (setF (Reg.STP_ARRAY_CFG_UNIT_SHIFT n) g.shift (setF (Reg.STP_ARRAY_CFG_NGROUP_M1 n) (g.groups - 1)
      (setF (Reg.STP_ARRAY_CFG_DPG_M1 n) (g.dpg - 1) (setF (Reg.STP_ARRAY_CFG_NGLOBAL n) g.globals
        (setF (Reg.STP_ARRAY_CFG_TOL n) g.tol s))))))
  let s2 := setF (Reg.STP_ARRAY_HDR_HDR_MIB n) (g.hdr / 2 ^ 20) (setF (Reg.STP_ARRAY_ROWS_LO_ROWS n) g.rows
    (setF (Reg.STP_ARRAY_ROWS_HI_ROWS n) (g.rows / 2 ^ 32) s1))
  let s3 := forEach [0, 1, 2, 3] (fun k t => setF (Reg.STP_ARRAY_SLOTMAP_SLOTS n k) (mask / 2 ^ (32 * k)) t) s2
  forEach [0, 1, 2, 3] (fun k t => setF (Reg.STP_ARRAY_ERASED_SLOTS n k) 0 t) s3

/-- The same, with the geometry's lock off for as long as it takes (log entry 125). -/
def writeArray (n : Nat) (g : Geo) (s : State) : State := unlocked (arrayFields n g) s

/-- An array is created (R243): headers with GENERATION 1, rows, TOL, matrix and VALID. -/
def createArray (a uuid : Nat) (g : Geo) (s : State) : State :=
  let dirty := !(s.slotBits (Reg.STP_ARRAY_ERASED_SLOTS a)).isEmpty
  let s1 := writeArrayValid a true (writeArray a g s)
  let m : ArrayMeta := {
    uuid := uuid
    generation := 1
    created := s.nowMs / 1000
    slotGen := g.slots.map (fun x => (x, 1)) }
  let s2 : State := { s1 with
    cmd := { s1.cmd with arrays := Assoc.set s1.cmd.arrays a m, lastAssembled := Assoc.set s1.cmd.lastAssembled a uuid }
    sas := { s1.sas with arrays := Assoc.set s1.sas.arrays a { started := (List.range 9).map (fun k => (k, s.clock)) } } }
  let s3 := writeRecords a g.slots (forEach g.slots (fun x t => writeHeader x g.hdr (t.headerBlock a x) t) s2)
  when dirty (startEval a) (loadEncode a s3)

/-- ARRAY_CREATE (R243, R244, R500): refused with the first reason that applies; members that are not yet awake are woken, and the
command goes on when its drives have been looked at. -/
def execArrayCreate (cid uuid : Nat) (drives : List (Nat × Option DriveFacts)) (s : State) : Result :=
  runAdmin cid .arrayCreate (fun _ => true) (fun n c t =>
    let a := specField c.e 40 1
    let g := createGeo c.e 0
    if 3 < a then refuseWith n 0 none t
    else if t.on (Reg.STP_ARRAY_CFG_VALID a) then refuseWith n 9 none t
    else if t.on Reg.SYS_STRAP_COMPAT && g.layout != 2 then refuseWith n 10 none t
    else if layoutBad g then refuseWith n 1 none t
    else if countBad g then refuseWith n 2 none t
    else
      let taken (x : Nat) : Bool := t.slotsTaken none x || t.substitutes.contains x || (g.layout == 1 && decide (100 ≤ x))
      let check (x : Nat) : SlotCheck := t.checkSlot drives none x (taken x) (bitOf (specField c.e 46 1) 0 == 1) 0
      match firstBad check g.slots with
      | some (x, .bad r) => refuseWith n r (some x) t
      | some _ => forEach (g.slots.filter (fun x => check x == .unknown && !t.awake x)) wakeSlot t
      | none =>
        let sizes := g.slots.filterMap (fun x => (t.factsOf drives x).join.map (fun f => f.bytes))
        let rows := rowsFor g (sizes.foldl min (sizes.headD 0))
        if rows = 0 then refuseWith n 8 none t
        else finish n St.success 0 (createArray a uuid (createGeo c.e rows) t)) s

/-- An array's substitutions, frontiers and queued rebuilds end. -/
def endRepairs (a : Nat) (slots : List Nat) (s : State) : State :=
  let s1 := forEach (List.range 8) (fun j t =>
    when (t.on (Reg.SAS_SUB_VALID j) && slots.contains (t.get (Reg.SAS_SUB_LOGICAL j))) (setF (Reg.SAS_SUB_VALID j) 0) t) s
  let s2 := forEach (List.range 8) (fun k t =>
    when (t.on (Reg.SAS_RBD_CFG_ENABLE k) && t.get (Reg.SAS_RBD_CFG_ARRAY k) == a) (setF (Reg.SAS_RBD_CFG_ENABLE k) 0) t) s1
  { s2 with cmd := { s2.cmd with rebuildQueue := s2.cmd.rebuildQueue.filter (fun r => r.1 != a) } }

/-- An array is deleted (R245). -/
def deleteArray (a : Nat) (s : State) : State :=
  let g := s.geo a
  let present := (g.slots.map s.physOf).filter (fun p => s.on (Reg.SLT_STATUS_PRESENT p))
  let uuid := (s.arrayMeta a).uuid
  let s1 := forEach present (fun p t => writeHeader p g.hdr 0 t) (writeArrayValid a false s)
  let s2 := endRepairs a g.slots s1
  { s2 with
    cmd := { s2.cmd with
      arrays := Assoc.erase s2.cmd.arrays a
      deleted := (uuid :: s2.cmd.deleted.filter (fun u => u != uuid)).take 64 }
    sas := { s2.sas with arrays := Assoc.erase s2.sas.arrays a } }

/-- Volumes of an array remain: valid ones, or ones that format. -/
def State.volumesRemain (s : State) (a : Nat) : Bool :=
  s.hasVolume a || allVols.any (fun v => (s.volMeta v).bound && (s.volMeta v).array == a)

/-- ARRAY_DELETE (R245, R249). -/
def execArrayDelete (cid : Nat) (s : State) : Result :=
  runAdmin cid .arrayDelete (fun _ => true) (fun n c t =>
    let a := specField c.e 40 1
    if 3 < a ∨ t.on (Reg.STP_ARRAY_CFG_VALID a) = false then refuseWith n 0 none t
    else if t.volumesRemain a then refuseWith n 14 none t
    else if t.cmd.testRunning = 2 then finish n St.selfTest 0 t
    else finish n St.success 0 (deleteArray a t)) s

/-! Volumes -/

/-- Row ranges that bound volumes of an array take: first row and number. -/
def State.boundRanges (s : State) (a : Nat) : List (Nat × Nat) :=
  (allVols.filter (fun v => (s.volMeta v).bound && (s.volMeta v).array == a)).map (fun v => ((s.volMeta v).base, (s.volMeta v).rows))

/-- A run of rows is free on an array. -/
def State.rowsFree (s : State) (a base rows : Nat) : Bool :=
  decide (base + rows ≤ (s.geo a).rows)
    && (s.boundRanges a).all (fun r => decide (base + rows ≤ r.1) || decide (r.1 + r.2 ≤ base))

/-- The lowest row that begins a free run. -/
def State.freeRows (s : State) (a rows : Nat) : Option Nat :=
  let starts := (0 :: (s.boundRanges a).map (fun r => r.1 + r.2)).filter (fun b => s.rowsFree a b rows)
  starts.foldl (fun best b => match best with | none => some b | some x => some (min x b)) none

/-- A volume is bound (R246): its registers are written, VALID stays 0, and it formats from its first row. -/
def bindVolume (v a base rows uuid : Nat) (s : State) : State :=
  let s1 := unlocked (fun t => setF (Reg.STP_VOL_CFG_ARRAY v) a (set64 (Reg.STP_VOL_BASE_LO_BASE v) (Reg.STP_VOL_BASE_HI_BASE v) base
    (set64 (Reg.STP_VOL_ROWS_LO_ROWS v) (Reg.STP_VOL_ROWS_HI_ROWS v) rows t))) s
  let s2 := onVolMeta v (fun _ =>
    { bound := true, uuid := uuid, array := a, base := base, rows := rows, formatting := some base }) s1
  writeRecords a (s.geo a).slots (sendConfig [9, v, a, base, rows] s2)

/-- VOLUME_CREATE (R246). -/
def execVolumeCreate (cid uuid : Nat) (s : State) : Result :=
  runAdmin cid .volumeCreate (fun _ => true) (fun n c t =>
    let v := specField c.e 40 1
    let a := specField c.e 41 1
    let blocks := specField c.e 48 8
    if 63 < v ∨ (t.volMeta v).bound = true ∨ t.volValid v = true ∨ 3 < a ∨ t.on (Reg.STP_ARRAY_CFG_VALID a) = false ∨ blocks = 0 then
      refuse n 0 t
    else
      let g := t.geo a
      let rows := ceilDiv (blocks * 4096) (g.dataCount * g.unit)
      let given := specField c.e 56 8
      let base := if bitOf (specField c.e 42 1) 0 = 1 then (if t.rowsFree a given rows then some given else none)
        else t.freeRows a rows
      match base with
      | none => refuse n 0 t
      | some b => finish n St.success 0 (bindVolume v a b rows uuid t)) s

/-- VOLUME_FORMAT (R246): the next row takes zeros in every live member, under a REPAIR intent; every member is woken first. -/
def execVolumeFormat (vol : Fin 64) (s : State) : Result :=
  let m := s.volMeta vol.val
  match m.formatting with
  | none => .next s
  | some row =>
    if s.mode = Mode.serving ∧ m.bound = true ∧ s.sas.repairs.all (fun r => !(r.2.array == m.array && r.2.row == row)) = true then
      let g := s.geo m.array
      let ms := List.range g.members
      if ms.all (fun i => !s.liveMember m.array row i || s.awakeMember m.array i) then
        let zeros := List.replicate g.unitBlocks 0
        let live := ms.filter (fun i => s.liveMember m.array row i)
        .next (after (startRepair { array := m.array, row := row, writes := live.map (fun i => (i, 0, zeros)), format := true }
          (writeRecords m.array g.slots (sendConfig [9, vol.val, m.array, m.base, m.rows, row] s))))
      else .next (wakeMembers m.array row ms s)
    else .next s

/-- A volume's dirty lines are discarded: they leave staging, and no command waits for them any more. -/
def discardLines (v : Nat) (s : State) : State :=
  let gone := s.jnl.lines.filter (fun l => keyVol l.1 == v)
  let s1 := unexpose (unstage (gone.map Prod.fst) (dropLines (gone.map Prod.fst) s))
  finishPaid { s1 with qmx := { s1.qmx with cmds := s1.qmx.cmds.map (fun p => (p.1, { p.2 with
    owed := p.2.owed.filter (fun o => keyVol o.1 != v) })) } }

/-- VOLUME_DELETE (R247). -/
def execVolumeDelete (cid : Nat) (s : State) : Result :=
  runAdmin cid .volumeDelete (fun _ => true) (fun n c t =>
    let v := specField c.e 40 1
    let m := t.volMeta v
    if 63 < v ∨ (m.bound = false ∧ t.volValid v = false) ∨ m.deleting.isSome = true then refuseWith n 0 none t
    else if m.flock.isSome then refuseWith n 15 none t
    else
      let t1 := writeVolumeValid v false (onCmd n (fun x => { x with begun := true }) t)
      let t2 := onVolMeta v (fun x => { x with formatting := none, deleting := some n }) t1
      let t3 := abortAll ((t2.qmx.cmds.filter (fun x => x.2.e.qid != 0 && x.2.e.vol == v && !t2.hasBegun x.1 x.2)).map Prod.fst) t2
      discardLines v t3) s

/-- VOLUME_DELETE_DRAINED (R247). -/
def execVolumeDeleteDrained (vol : Fin 64) (s : State) : Result :=
  match (s.volMeta vol.val).deleting with
  | none => .next s
  | some n =>
    if s.qmx.cmds.any (fun p => p.2.e.qid != 0 && p.2.e.vol == vol.val) then .next s
    else
      let a := s.volArray vol.val
      let s1 := onCare a (fun x => { x with lost := x.lost.filter (fun r => r.vol != vol.val) }) s
      let s2 : State := { s1 with cmd := { s1.cmd with vols := Assoc.erase s1.cmd.vols vol.val } }
      .next (finish n St.success 0 (writeRecords a (s.geo a).slots (sendConfig [9, vol.val] s2)))

/-! Members -/

/-- MEMBER_REPLACE (R248, R161, R500): `drive` is what the awake source drive is found to be. -/
def execMemberReplace (cid : Nat) (drive : Option DriveFacts) (s : State) : Result :=
  runAdmin cid .memberReplace (fun _ => true) (fun n c t =>
    let a := specField c.e 40 1
    let target := specField c.e 41 1
    let source := specField c.e 42 1
    if 3 < a ∨ t.on (Reg.STP_ARRAY_CFG_VALID a) = false ∨ 107 < source then refuseWith n 0 none t
    else
      let g := t.geo a
      if !(t.erasedSlots a).contains target || (t.frontierOf 0 a target).isSome || t.cmd.rebuildQueue.contains (a, target) then
        refuseWith n 12 (some (target % 128)) t
      else if source ≠ target ∧ (t.subFor target).isNone = true then refuseWith n 11 none t
      else
        let own := t.physOf target == source
        let taken := source != target && !own
          && (t.slotsTaken (some a) source || g.slots.contains source || t.substitutes.contains source)
        let facts := if t.awake source then [(source, drive)] else []
        match t.checkSlot facts (some a) source taken true (g.hdr + g.rows * g.unit) with
        | .bad r => refuseWith n r (some source) t
        | .unknown => wakeSlot source t
        | .ok =>
          let t1 := match t.subFor target with
            | some j => if source ≠ target then writeSub j target source t
                else if t.on (Reg.SAS_SUB_VALID j) = true then sendConfig [4, j] (setF (Reg.SAS_SUB_VALID j) 0 t) else t
            | none => t
          let queued := t1.freeFrontier.isNone
          finish n St.success (b2n queued) (newDrive a target source (startRebuild a target t1))) s

end Sys2Proof.Machine
end

