-- ==== Sys2Proof/Machine/Pack.lean ====
section
/-! DEFINITION. The backup pack (chapter 11): charging, the coulomb counter, rest, end of discharge, the charge estimate,
learning and authentication. Fractions of charge are in 1/1,024,000 of full charge, voltages in µV, charge in µAh. -/

namespace Sys2Proof.Machine

/-! The open-circuit table (R319) and the resistance (R320) -/

/-- The value at x on the line through two points. -/
def lerp (x x0 y0 x1 y1 : Int) : Int := if x1 = x0 then y0 else y0 + (y1 - y0) * (x - x0) / (x1 - x0)

/-- Linear interpolation in a table of ascending x, clamped at its ends. -/
def interp (x : Int) : List (Int × Int) → Int
  | [] => 0
  | [p] => p.2
  | p :: q :: t => if x ≤ p.1 then p.2 else if x ≤ q.1 then lerp x p.1 p.2 q.1 q.2 else interp x (q :: t)

/-- Open-circuit voltage in µV at a fraction, from one table. -/
def ocvVolt (tab : List (Nat × Nat)) (q : Int) : Int :=
  interp q (tab.map (fun p => ((p.1 * 1000 : Nat), (p.2 * 1000 : Nat))))

/-- Fraction at an open-circuit voltage in µV, from one table. -/
def ocvFrac (tab : List (Nat × Nat)) (v : Int) : Int :=
  interp v (tab.map (fun p => ((p.2 * 1000 : Nat), (p.1 * 1000 : Nat))))

/-- A reading of the three tables interpolated to a temperature in 0.1 °C, clamped to -20 and 60 °C (R319). -/
def byTemp (temp cold room hot : Int) : Int := interp temp [(-200, cold), (250, room), (600, hot)]

/-- Voltage at a fraction, and fraction at a voltage, at a temperature. -/
def packVolt (d : PackDesc) (temp q : Int) : Int :=
  byTemp temp (ocvVolt d.ocvCold q) (ocvVolt d.ocvRoom q) (ocvVolt d.ocvHot q)
def packFrac (d : PackDesc) (temp v : Int) : Int :=
  byTemp temp (ocvFrac d.ocvCold v) (ocvFrac d.ocvRoom v) (ocvFrac d.ocvHot v)

/-- The factor of R320 at a temperature in 0.1 °C, × 10,000. -/
def resistFactor (temp : Int) : Int :=
  interp temp [(-400, 50000), (-200, 30000), (0, 16000), (250, 10000), (600, 8000), (850, 7500)]

/-- The pack temperature and current as measured. -/
def State.packTemp (s : State) : Int := toSigned 12 (s.get Reg.BAT_VOLT_TEMP)

/-- R_est in 0.1 mΩ at the present temperature (R320). -/
def State.rEst (s : State) : Nat := ((s.bat.r25 : Int) * resistFactor s.packTemp / 10000).toNat

/-- FCC in µAh. -/
def State.fccUah (s : State) : Int := (s.get Reg.BAT_CAP_FCC_DMAH * 100 : Nat)

/-- The fraction at V_SHUT plus a current in mA times R_est (R322, R326). -/
def State.fracAtShut (s : State) (d : PackDesc) (ma : Nat) : Int :=
  packFrac d s.packTemp ((s.get Reg.BAT_EOD_V_SHUT_MV * 1000 + ma * s.rEst / 10 : Nat))

/-- The unusable charge Q_z (R322). -/
def State.qz (s : State) (d : PackDesc) : Int :=
  let iz := s.feature 3 2 * 1000000 / s.get Reg.BAT_EOD_V_SHUT_MV
  s.fracAtShut d iz * s.fccUah / 1024000

/-- Reported charge in 0.01 % of a remaining charge (R322). -/
def State.rsocOf (s : State) (d : PackDesc) (q : Int) : Nat :=
  let z := s.qz d
  if s.fccUah ≤ z then 0 else min 10000 ((q - z) * 10000 / (s.fccUah - z)).toNat

/-- Usable energy in J of a remaining charge (R323). -/
def State.euOf (s : State) (d : PackDesc) (q : Int) : Nat :=
  let z := s.qz d
  if q ≤ z ∨ s.fccUah ≤ 0 then 0
  else
    let mid := (z * 1024000 / s.fccUah + q * 1024000 / s.fccUah) / 2
    let vm := packVolt d s.packTemp mid
    let im := (s.feature 3 2 : Int) * 1000000000 / vm
    let drop := im * s.rEst / 10
    ((q - z) * (vm - drop) * 36 / 10000000000).toNat

/-! Charging (R314 to R316) -/

/-- Charging begins: EOD clears (R321), a learn under way is discarded (R326). -/
def chargeStart (s : State) : State :=
  let s1 := setF Reg.BAT_STATUS_EOD 0 (setF Reg.BAT_STATUS_CHG_DONE 0 (setF Reg.BAT_STATUS_CHARGING 1 s))
  { setF Reg.BAT_CTRL_LEARN 0 s1 with bat := { s1.bat with chargeQ := 0 } }

/-- Charging begins where it may: a pack present, CHG_EN set, inside the window, no fault standing. -/
def chargeIfAllowed (s : State) : State :=
  if s.on Reg.BAT_CTRL_CHG_EN && s.on Reg.BAT_STATUS_PRESENT && !s.on Reg.BAT_STATUS_CHG_INHIBIT && !s.bat.chgFault
      && !s.on Reg.BAT_STATUS_CHARGING then chargeStart s
  else s

/-- CHG_EN written: 0 stops charging; a change from 0 to 1 clears a standing fault and starts charging (R314). -/
def writeChgEn (en : Bool) (s : State) : State :=
  if !en then setF Reg.BAT_STATUS_CHARGING 0 (setF Reg.BAT_CTRL_CHG_EN 0 s)
  else if s.on Reg.BAT_CTRL_CHG_EN then s
  else chargeIfAllowed { setF Reg.BAT_CTRL_CHG_EN 1 s with bat := { s.bat with chgFault := false } }

/-! Learned capacity (R326 to R331) -/

/-- The 64 bytes of a record, and the address of a slot (R329). -/
def LcapRec.bytes (r : LcapRec) : List Nat :=
  sealEntry ([76, 67, 65, 80] ++ leBytes 4 r.seq ++ leBytes 8 r.serial ++ leBytes 2 r.fccDmah ++ leBytes 2 r.r25Dmohm ++ leBytes 4 r.cycles
    ++ leBytes 8 r.time ++ [r.method % 256] ++ List.replicate 27 0)
def lcapAt (i : Nat) : Nat := 0x1061080000 + 64 * i

/-- The slot's record, where MAGIC and CRC are right and it is the fitted pack's (R331). -/
def State.lcap (s : State) (i : Nat) : Option LcapRec :=
  let b := s.readBytes (lcapAt i) 64
  let f (at' n : Nat) : Nat := leNat ((b.drop at').take n)
  match s.bat.desc with
  | none => none
  | some d =>
    if b.take 4 = [76, 67, 65, 80] ∧ f 60 4 = crc32c (b.take 60) ∧ f 8 8 = d.serial % 2 ^ 64 then
      some ⟨f 4 4, f 8 8, f 16 2, f 18 2, f 20 4, f 24 8, f 32 1⟩
    else none

/-- The slot that holds the newest valid record, with it. -/
def State.newestLcap (s : State) : Option (Nat × LcapRec) :=
  match s.lcap 0, s.lcap 1 with
  | none, none => none
  | some a, none => some (0, a)
  | none, some b => some (1, b)
  | some a, some b => if seqNewer b.seq a.seq then some (1, b) else some (0, a)

/-- A record is stored into the slot that does not hold the newest valid one, only while KEEP_OK reads 1 and never in
DESTAGING; otherwise the store is deferred (R330). -/
def storeLcap (s : State) : State :=
  if !s.mayStore then { s with bat := { s.bat with storeDue := true } }
  else
    let n := s.newestLcap
    let target := match n with | some (0, _) => 1 | _ => 0
    let seq := match n with | some (_, r) => (r.seq + 1) % 2 ^ 32 | none => 1
    let serial := match s.bat.desc with | some d => d.serial | none => 0
    let fcc := s.get Reg.BAT_CAP_FCC_DMAH
    let rec' : LcapRec := ⟨seq, serial, fcc, s.bat.r25, s.bat.discharged / max 1 fcc, s.nowMs / 1000, s.bat.lastMethod⟩
    writeBytes (lcapAt target) rec'.bytes { s with bat := { s.bat with storeDue := false } }

/-- A fitted, learned pack has no valid slot (R331). -/
def State.lcapLost (s : State) : Bool := s.bat.desc.isSome && !s.on Reg.BAT_EST_CAP_UNLEARNED && s.newestLcap.isNone

/-- Step 2 of SHORT (R331): a failed slot is written again from its valid partner. -/
def healLcap (s : State) : State :=
  match s.lcap 0, s.lcap 1 with
  | some r, none => when s.mayStore (writeBytes (lcapAt 1) r.bytes) s
  | none, some r => when s.mayStore (writeBytes (lcapAt 0) r.bytes) s
  | _, _ => s

/-- A learned value in 0.1 mAh is accepted or refused (R328). -/
def acceptLearn (method value : Nat) (s : State) : State :=
  let design := s.get Reg.BAT_CAP_DESIGN_DMAH
  let fcc := s.get Reg.BAT_CAP_FCC_DMAH
  let inDesign := decide (design * 50 ≤ value * 100) && decide (value * 100 ≤ design * 105)
  let inFcc := s.on Reg.BAT_EST_CAP_UNLEARNED ||
    (decide (fcc * 85 ≤ value * 100) && decide (value * 100 ≤ fcc * 115))
  if !inDesign || !inFcc then s
  else
    let new := if method = 2 then (fcc + value) / 2 else value
    let s1 := setF Reg.BAT_CAP_FCC_DMAH new (setF Reg.BAT_EST_CAP_SUSPECT 0 (setF Reg.BAT_EST_CAP_UNLEARNED 0 s))
    let worn := decide (new * 100 < design * 70)
    let s2 := packChange 7 (storeLcap { s1 with bat := { s1.bat with
      lastLearn := s.nowMs / 1000, lastMethod := method, worn := worn } })
    when (worn && !s.bat.worn) (packChange 9) s2

/-- The capacity in force for a pack just fitted (R331): the newest valid record, else the descriptor's design value. -/
def loadLcap (d : PackDesc) (s : State) : State :=
  match s.newestLcap with
  | some (_, r) => { setF Reg.BAT_EST_CAP_UNLEARNED 0 (setF Reg.BAT_CAP_FCC_DMAH r.fccDmah s) with
      bat := { s.bat with
        r25 := r.r25Dmohm, discharged := r.cycles * r.fccDmah, lastLearn := r.time, lastMethod := r.method,
        worn := decide (r.fccDmah * 100 < d.designDmah * 70) } }
  | none => { setF Reg.BAT_EST_CAP_UNLEARNED 1 (setF Reg.BAT_CAP_FCC_DMAH d.designDmah s) with
      bat := { s.bat with r25 := d.r25Dmohm, discharged := 0, lastLearn := 0, lastMethod := 0, worn := false } }

/-- CAP_SUSPECT is set (R324, R325): a learn under way is discarded, the pair of rests broken, the change logged. -/
def capSuspect (s : State) : State :=
  packChange 8 { setF Reg.BAT_CTRL_LEARN 0 (setF Reg.BAT_EST_CAP_SUSPECT 1 s) with bat := { s.bat with lastRest := none } }

/-! Authentication (R332, R333) -/

/-- The pack's chain reaches an installed root: Tamend's, or the operator root now in MRAM. -/
def State.chainsToRoot (s : State) : Bool :=
  match s.bat.desc with
  | none => false
  | some d => d.root == 1 || (d.root == 2 && s.bat.operatorRoot == some d.rootDigest)

/-- The outcome of an exchange (R333): a success makes the pack authenticated; a failure is retried, and the third, or one
whose chain reaches no root, leaves it unauthenticated. PACK_HEALTHY follows at once (R334). -/
def authOutcome (ok : Bool) (s : State) : State :=
  if ok && s.chainsToRoot then
    let root := match s.bat.desc with | some d => d.root | none => 0
    let s1 : State := { s with bat := { s.bat with auth := true, authRoot := root, authFails := 0, authDue := false, lastAuth := s.nowMs / 1000 } }
    writeHealth (when (!s.bat.auth) (packChange 3) s1)
  else
    let fails := if s.chainsToRoot then s.bat.authFails + 1 else 3
    if fails < 3 then { s with bat := { s.bat with authFails := fails } }
    else
      let s1 : State := { s with bat := { s.bat with auth := false, authRoot := 0, authFails := 0, authDue := false } }
      writeHealth (when s.bat.auth (packChange 4) s1)

/-! Meanings -/

/-- PACK_INSERTED (R313): the descriptor is read, the charge taken from the voltage, the pack authenticated, charging
enabled. -/
def execPackInserted (p : PackInfo) (mv : Nat) (temp : Int) (authOk : Bool) (s : State) : Result :=
  let d : PackDesc := ⟨p.serial, p.designDmah, p.r25Dmohm, p.ocvCold, p.ocvRoom, p.ocvHot, p.root, p.rootDigest⟩
  let s1 := event Reg.BAT_EVENT_PRESENT_CHANGE Reg.BAT_PRESENT_CHANGE_CNT (setF Reg.BAT_STATUS_PRESENT 1 s)
  let s2 := setF Reg.BAT_VOLT_TEMP (ofSigned 12 temp) (setF Reg.BAT_VOLT_V_MV mv s1)
  let s3 := setF Reg.BAT_CAP_DESIGN_DMAH p.designDmah { s2 with bat := { s2.bat with desc := some d } }
  let s4 := loadLcap d s3
  let f := packFrac d temp (mv * 1000 : Nat)
  let s5 : State := { s4 with bat := { s4.bat with qRem := f * s4.fccUah / 1024000 } }
  .next (writeChgEn true (writeChgEn false (authOutcome authOk (packChange 1 s5))))

/-- PACK_REMOVED (R313): the charger disconnects, LEARN clears, PACK_HEALTHY is cleared. -/
def execPackRemoved (s : State) : Result :=
  let s1 := event Reg.BAT_EVENT_PRESENT_CHANGE Reg.BAT_PRESENT_CHANGE_CNT (setF Reg.BAT_STATUS_PRESENT 0 s)
  let s2 := setF Reg.BAT_CTRL_LEARN 0 (setF Reg.BAT_STATUS_CHARGING 0 s1)
  let s3 := packChange 2 s2
  .next (setPackHealthy false { s3 with bat := { s3.bat with
    desc := none, auth := false, authRoot := 0, authFails := 0, authDue := false, lastRest := none } })

/-- CHARGE_ENABLE (R314). -/
def execChargeEnable (en : Bool) (s : State) : Result := land 0xD0000 (.chargeEnable en) (writeChgEn en) s

/-- CHARGE_TERMINATION (R314). -/
def execChargeTermination (s : State) : Result :=
  if s.on Reg.BAT_STATUS_CHARGING then
    .next (event Reg.BAT_EVENT_CHG_DONE Reg.BAT_CHG_DONE_CNT
      (setF Reg.BAT_STATUS_CHG_DONE 1 (setF Reg.BAT_STATUS_CHARGING 0 s)))
  else .next s

/-- CHARGE_TIMEOUT (R314, R315): the weighted charge time has passed 4 h; charging stops with CHG_FAULT, and a second one within 24 h leaves
charging off. -/
def execChargeTimeout (s : State) : Result :=
  if s.on Reg.BAT_STATUS_CHARGING && decide (4 * 14400 < s.bat.chargeQ) then
    let recent := s.within (sec 86400) s.bat.chgFaultTimes
    let s1 := event Reg.BAT_EVENT_CHG_FAULT Reg.BAT_CHG_FAULT_CNT (setF Reg.BAT_STATUS_CHARGING 0 s)
    let s2 : State := { s1 with bat := { s1.bat with
      chgFault := true, chgFaultTimes := s.clock :: recent, chgLeftOff := !recent.isEmpty } }
    .next (when (!recent.isEmpty) (fun t => packChange 10 (lightFault t)) s2)
  else .next s

/-- CHARGE_WINDOW_EXIT (R314). -/
def execChargeWindowExit (temp : Int) (s : State) : Result :=
  .next (setF Reg.BAT_STATUS_CHARGING 0 (setF Reg.BAT_STATUS_CHG_INHIBIT 1 (setF Reg.BAT_VOLT_TEMP (ofSigned 12 temp) s)))

/-- CHARGE_WINDOW_ENTRY (R314): charging may resume. -/
def execChargeWindowEntry (temp : Int) (s : State) : Result :=
  .next (chargeIfAllowed (setF Reg.BAT_STATUS_CHG_INHIBIT 0 (setF Reg.BAT_VOLT_TEMP (ofSigned 12 temp) s)))

/-- CHG_FAULT_RETRY (R315): CHG_EN is written 0 and then 1, unless charging is left off. -/
def execChgFaultRetry (s : State) : Result :=
  if s.bat.chgFault && !s.bat.chgLeftOff then .next (writeChgEn true (writeChgEn false s)) else .next s

/-- Milliseconds of one conversion at a rate code (R317). -/
def conversionMs (rate : Nat) : Nat := if rate = 0 then 1 else if rate = 1 then 250 else 4000

/-- The rate that follows a conversion (R317), with the time below the present threshold. -/
def nextRate (rate quiet : Nat) (ma : Nat) : Nat × Nat :=
  if 50 ≤ ma then (0, 0)
  else if 5 ≤ ma ∧ rate = 2 then (1, 0)
  else if rate = 0 ∨ (rate = 1 ∧ ma < 5) then
    let q := quiet + conversionMs rate
    if 10000 ≤ q then (rate + 1, 0) else (rate, q)
  else (rate, 0)

/-- The rest needed at a temperature in 0.1 °C (R318). -/
def restLimit (temp : Int) : Nat := if 250 ≤ temp then 1800 else if 0 ≤ temp then 3600 else 7200

/-- COULOMB_CONVERSION (R317, R318): charge is added, the readings, the rate and the rest are updated. -/
def execCoulombConversion (uah ma : Int) (mv : Nat) (temp : Int) (keepMv : Nat) (s : State) : Result :=
  let mag := ma.natAbs
  let ms := conversionMs (s.get Reg.BAT_STATUS_RATE)
  let r := nextRate (s.get Reg.BAT_STATUS_RATE) s.bat.quietMs mag
  let rests := decide (mag < 5)
  let restart := !s.on Reg.BAT_STATUS_AT_REST || decide (50 < (temp - s.bat.restTemp).natAbs)
  let restMs := if !rests then 0 else if restart then 0 else s.bat.restMs + ms
  let restTemp := if rests && restart then temp else s.bat.restTemp
  let s1 := setF Reg.BAT_COUNT_Q_UAH (ofSigned 32 (toSigned 32 (s.get Reg.BAT_COUNT_Q_UAH) + uah)) s
  let s2 := setF Reg.BAT_CURR_I_MA (ofSigned 16 ma) (setF Reg.BAT_VOLT_TEMP (ofSigned 12 temp) (setF Reg.BAT_VOLT_V_MV mv s1))
  let s3 := setF Reg.BAT_STATUS_RATE r.1 (setF Reg.BAT_STATUS_AT_REST (b2n rests) s2)
  let s4 := setF Reg.BAT_REST_REST_S (min 65535 (restMs / 1000)) (setF Reg.BAT_REST_LIMIT_S (restLimit restTemp) s3)
  let s5 := when (!rests || restart) (setF Reg.BAT_STATUS_REST_VALID 0) s4
  let s6 := setF Reg.BAT_KEEP_KEEP_MV keepMv
    (when (decide (s.get Reg.BAT_KEEP_OK_MV ≤ keepMv)) (setF Reg.BAT_STATUS_KEEP_OK 1) s5)
  let out := (-uah).toNat
  let learnBroken := s.on Reg.BAT_CTRL_LEARN && (decide (0 < ma) || decide (temp < 100) || decide (450 < temp))
  .next { when learnBroken (setF Reg.BAT_CTRL_LEARN 0) s6 with bat := { s.bat with
    quietMs := r.2, restMs := restMs, restTemp := restTemp, qRem := s.bat.qRem + uah,
    discharged := s.bat.discharged + out,
    learnOut := if s.on Reg.BAT_CTRL_LEARN then s.bat.learnOut + out else s.bat.learnOut } }

/-- The count is written (R317): the charge counted since the last rest stays what it was (R327). -/
def writeCount (v : Nat) (s : State) : State :=
  let step := toSigned 32 v - toSigned 32 (s.get Reg.BAT_COUNT_Q_UAH)
  let s1 := setF Reg.BAT_COUNT_Q_UAH v s
  { s1 with bat := { s1.bat with lastRest := s1.bat.lastRest.map (fun r => { r with count := r.count + step }) } }

/-- BAT_COUNT_WRITE (R317). -/
def execBatCountWrite (value : Word) (s : State) : Result :=
  land 0xD0018 (.batCountWrite value) (writeCount value.toNat) s

/-- The table's slope at a fraction is at least 2 mV per 1 % of charge (R319). -/
def steepAt (d : PackDesc) (temp q : Int) : Bool :=
  decide (2000 ≤ packVolt d temp (q + 5120) - packVolt d temp (q - 5120))

/-- A REST_PAIR learn over two valid rests (R327): fractions at least 0.40 apart, at most 30 days and 10 °C apart. -/
def restPair (a b : RestRec) (s : State) : State :=
  let df := if a.frac ≤ b.frac then b.frac - a.frac else a.frac - b.frac
  if 409600 ≤ df ∧ b.time ≤ a.time + sec 2592000 ∧ (a.temp - b.temp).natAbs ≤ 100 then
    acceptLearn 2 ((b.count - a.count).natAbs * 10240 / df) s
  else s

/-- REST_VALID (R318, R319, R327): the flag and event; where the table is steep, Q_rem is set from the rested voltage, and
the rest is paired with the one before. -/
def execRestValid (s : State) : Result :=
  if s.on Reg.BAT_STATUS_AT_REST && !s.on Reg.BAT_STATUS_REST_VALID && decide (s.get Reg.BAT_REST_LIMIT_S ≤ s.get Reg.BAT_REST_REST_S) then
    let s1 := event Reg.BAT_EVENT_REST_VALID Reg.BAT_REST_VALID_CNT (setF Reg.BAT_STATUS_REST_VALID 1 s)
    match s.bat.desc with
    | none => .next s1
    | some d =>
      let f := packFrac d s.packTemp (s.get Reg.BAT_VOLT_V_MV * 1000 : Nat)
      if !steepAt d s.packTemp f then .next s1
      else
        let r : RestRec := ⟨f.toNat, s.packTemp, s.clock, toSigned 32 (s.get Reg.BAT_COUNT_Q_UAH)⟩
        let s2 := match s.bat.lastRest with | none => s1 | some a => restPair a r s1
        .next { s2 with bat := { s2.bat with qRem := f * s2.fccUah / 1024000, lastRest := some r } }
  else .next s

/-- CURRENT_STEP (R320): a step of 1 A or more is captured and R_est25 updated, within 20 to 200 mΩ. -/
def execCurrentStep (dvMv diMa : Nat) (s : State) : Result :=
  if diMa < 1000 then .next s
  else
    let s1 := event Reg.BAT_EVENT_STEP Reg.BAT_STEP_CNT (setF Reg.BAT_STEP_DI_MA diMa (setF Reg.BAT_STEP_DV_MV dvMv s))
    let new := ((dvMv * 10000 / diMa : Nat) : Int) * 10000 / resistFactor s.packTemp
    .next { s1 with bat := { s1.bat with r25 := min 2000 (max 200 ((3 * s.bat.r25 + new.toNat) / 4)) } }

/-- EOD (R321, R324 to R326): at or below V_SHUT + I_d × R_est the flag sets, RSOC and E_u become 0 and Q_rem becomes Q_z; a
FULL_CYCLE learn ends here. -/
def execEod (mv idMa : Nat) (s : State) : Result :=
  if s.get Reg.BAT_EOD_V_SHUT_MV * 10000 + idMa * s.get Reg.BAT_EOD_R_EST_DMOHM < mv * 10000 then .next s
  else
    let learning := s.on Reg.BAT_CTRL_LEARN
    let s1 := event Reg.BAT_EVENT_EOD Reg.BAT_EOD_CNT (setF Reg.BAT_STATUS_EOD 1 (setF Reg.BAT_VOLT_V_MV mv s))
    let s2 := setF Reg.BAT_EST_E_U 0 (setF Reg.BAT_EST_RSOC 0 (setF Reg.BAT_CTRL_LEARN 0 s1))
    match s.bat.desc with
    | none => .next (loopAtOnce s2)
    | some d =>
      let s3 : State := loopAtOnce { s2 with bat := { s2.bat with qRem := s.qz d } }
      if learning then
        let qe := s.fracAtShut d 1000
        .next (acceptLearn 1 (s.bat.learnOut * 10240 / (1024000 - qe).toNat) s3)
      else .next (when (decide (1000 < s.get Reg.BAT_EST_RSOC)) capSuspect s3)

/-- The weight of one second of charging in quarter seconds (R314). -/
def chargeWeight (parked : Bool) (temp : Int) : Nat := if parked then 1 else if temp < 0 then 2 else 4

/-- PACK_ESTIMATE (R320, R322 to R324, R316, R314): each second the firmware writes R_est, RSOC and E_u, holds RSOC at 1 %
while EOD is not set, runs the loop on a change of 1 %, limits an unauthenticated pack to 50 % and restarts charging below
95 %. -/
def execPackEstimate (s : State) : Result :=
  match s.bat.desc with
  | none =>
    let s1 := setF Reg.BAT_EST_E_U 0 (setF Reg.BAT_EST_RSOC 0 s)
    .next (when (s.bat.lastEu != 0) loopAtOnce { s1 with bat := { s1.bat with lastEu := 0 } })
  | some d =>
    let s0 := setF Reg.BAT_EOD_R_EST_DMOHM s.rEst s
    let hold := decide (s0.rsocOf d s0.bat.qRem < 100) && !s0.on Reg.BAT_STATUS_EOD
    let q := if hold then s0.qz d + (s0.fccUah - s0.qz d) / 100 else s0.bat.qRem
    let eod := s0.on Reg.BAT_STATUS_EOD
    let rsoc := if eod then 0 else if hold then 100 else s0.rsocOf d q
    let eu := if eod then 0 else s0.euOf d q
    let s1 := setF Reg.BAT_EST_E_U eu (setF Reg.BAT_EST_RSOC rsoc { s0 with bat := { s0.bat with
      qRem := q,
      chargeQ := if s0.on Reg.BAT_STATUS_CHARGING then s0.bat.chargeQ + chargeWeight (s.mode == Mode.parked) s.packTemp
                 else s0.bat.chargeQ } })
    let s2 := when (hold && !s0.on Reg.BAT_EST_CAP_SUSPECT) capSuspect s1
    let moved := decide (s.bat.lastEu ≤ 100 * (eu - s.bat.lastEu) ∨ s.bat.lastEu ≤ 100 * (s.bat.lastEu - eu))
    let s3 := if moved then loopAtOnce { s2 with bat := { s2.bat with lastEu := eu } } else s2
    let s4 :=
      if !s3.bat.auth && decide (5000 ≤ rsoc) then writeChgEn false s3
      else if !s3.bat.auth && decide (rsoc < 4500) then writeChgEn true s3
      else if decide (rsoc < 9500) then chargeIfAllowed s3
      else s3
    .next (when s4.bat.storeDue storeLcap s4)

/-- LEARN_START (R326): the learn load is connected and charging stops. -/
def execLearnStart (s : State) : Result :=
  land 0xD0000 .learnStart (fun t =>
    if t.on Reg.BAT_STATUS_PRESENT then
      let t1 := setF Reg.BAT_STATUS_CHARGING 0 (setF Reg.BAT_CTRL_LEARN 1 t)
      { t1 with bat := { t1.bat with learnOut := 0, learnStart := t.clock } }
    else t) s

/-- LEARN_TIMEOUT (R326): a learn beyond 60 min is discarded. -/
def execLearnTimeout (s : State) : Result := .next (setF Reg.BAT_CTRL_LEARN 0 s)

/-- AUTH_PERIODIC (R333): the exchange of every 24 h, and that of a start of the firmware. -/
def execAuthPeriodic (ok : Bool) (s : State) : Result :=
  if s.bat.desc.isSome then .next (authOutcome ok { s with bat := { s.bat with authFails := 0 } }) else .next s

/-- AUTH_RETRY (R333): the second and third exchange, 1 s apart. -/
def execAuthRetry (ok : Bool) (s : State) : Result :=
  if s.bat.desc.isSome && decide (0 < s.bat.authFails) then .next (authOutcome ok s) else .next s

/-- SMBUS_TRANSACTION (R312, BAT_SMB_CTRL): a GO starts the transaction; one written while busy is ignored (R223). -/
def execSmbusTransaction (cmd len : Nat) (read : Bool) (s : State) : Result :=
  land 0xD0030 (.smbusTransaction cmd len read) (fun t =>
    if t.on Reg.BAT_SMB_CTRL_GO then ignored 6 0 t
    else
      let n := max 1 (len % 256)
      let t1 := setF Reg.BAT_SMB_CTRL_READ (b2n read) (setF Reg.BAT_SMB_CTRL_LEN len (setF Reg.BAT_SMB_CTRL_CMD cmd t))
      let t2 := setF Reg.BAT_SMB_CTRL_GO 1 (setF Reg.BAT_SMB_CTRL_ERR 0 t1)
      emit (.smbus (cmd % 256) n read (if read then [] else t.bat.smbFifo.take n))
        { t2 with bat := { t2.bat with smbFifo := if read then [] else t2.bat.smbFifo.drop n } }) s

/-- SMBUS_DONE (BAT_SMB_CTRL): GO clears, ERR reports a failure, a read's bytes stand in the FIFO. -/
def execSmbusDone (err : Bool) (bytes : List Nat) (s : State) : Result :=
  if !s.on Reg.BAT_SMB_CTRL_GO then .next s
  else
    let s1 := setF Reg.BAT_SMB_CTRL_ERR (b2n err) (setF Reg.BAT_SMB_CTRL_GO 0 s)
    .next { s1 with bat := { s1.bat with
      smbFifo := if s.on Reg.BAT_SMB_CTRL_READ && !err then bytes.take 64 else s1.bat.smbFifo } }

/-- KEEP_LOW (R330): the KEEP rail has fallen below OK_MV. -/
def execKeepLow (mv : Nat) (s : State) : Result :=
  let s1 := setF Reg.BAT_KEEP_KEEP_MV mv s
  if mv < s.get Reg.BAT_KEEP_OK_MV then
    .next (event Reg.BAT_EVENT_KEEP_LOW Reg.BAT_KEEP_LOW_CNT (setF Reg.BAT_STATUS_KEEP_OK 0 s1))
  else .next s1

/-- PACK_CUTOFF (R312, R135): the pack's protection opens during DESTAGING; the module loses power and the image stays
unsealed. -/
def execPackCutoff (s : State) : Result :=
  if s.mode = Mode.destaging then .next { s with sys := { s.sys with powered := false } } else .next s

end Sys2Proof.Machine
end

