-- ==== Sys2Proof/Machine/CchOps.lean ====
section
/-! DEFINITION. The control cluster's caches: lookups, evictions, fills, the victim and side buffers and maintenance (R420 to R432). -/

namespace Sys2Proof.Machine

/-! Addresses (R420 to R422) -/

/-- The region of an internal address. -/
def regionOf (a : Nat) : Region :=
  if a < 0x1000000000 then .dram
  else if a < 0x1080000000 then .mram
  else if 0x1800000000 ≤ a ∧ a < 0x1810000000 then .nand
  else if 0x2000000000 ≤ a ∧ a < 0x2000400000 then .regs
  else if 0x3000000000 ≤ a ∧ a < 0x3001C00000 then .acc
  else if 0x3800000000 ≤ a ∧ a < 0x3800040000 then .rom
  else .none

/-- The region is cached. -/
def cacheable (r : Region) : Bool := r == .dram || r == .mram || r == .rom

/-- Set, bank and segment of a line (R422, R453). -/
def setOf (l : Nat) : Nat := l % 4096
def bankOf (l : Nat) : Nat := l % 4
def segmentOf (l : Nat) : Nat := setOf l / 4 / 512

/-- The 64 bytes of a line as memory holds them. -/
def State.lineBytes (s : State) (l : Nat) : List Nat :=
  if regionOf (64 * l) = .rom then (List.range 64).map (fun i => Config.romByte (64 * l + i) % 256) else s.readBytes (64 * l) 64

/-- A line lands in memory; the poison marking of what it replaces is gone. Nothing is ever written to the ROM. -/
def memLine (l : Nat) (data : List Nat) (s : State) : State :=
  if regionOf (64 * l) = .rom then s
  else storeBytes (64 * l) data { s with cch := { s.cch with poison := remove s.cch.poison l } }

/-- Bytes merged into a line. -/
def mergeBytes (data : List Nat) (off : Nat) (bytes : List Nat) : List Nat :=
  data.take off ++ bytes ++ data.drop (off + bytes.length)

/-! Copies of a line -/

/-- The cluster cache's copy, and a core's L1 copies. -/
def State.cchLine (s : State) (l : Nat) : Option CacheLine := s.cch.lines.find? (fun x => x.line == l)
def State.l1Line (s : State) (core l : Nat) : Option CoreLine := s.cch.l1d.find? (fun x => x.core == core && x.line == l)
def State.l1Fetch (s : State) (core l : Nat) : Option CoreLine := s.cch.l1i.find? (fun x => x.core == core && x.line == l)

/-- An entry of the victim buffer that holds the line, the latest. -/
def State.victim (s : State) (l : Nat) : Option Victim := (s.cch.victims.filter (fun v => v.line == l)).getLast?

/-- A victim buffer is full (R425). -/
def State.victimsFull (s : State) (b : Nat) : Bool := decide (8 ≤ (s.cch.victims.filter (fun v => bankOf v.line == b)).length)

/-- The line has a copy in some cache. -/
def State.lineHeld (s : State) (l : Nat) : Bool :=
  (s.cchLine l).isSome || s.cch.l1d.any (fun x => x.line == l) || s.cch.side.any (fun x => x.1 == l) || (s.victim l).isSome

/-- A line in a core's L1 data cache. -/
def l1Put (core l : Nat) (data : List Nat) (dirty : Bool) (s : State) : State :=
  let rest := s.cch.l1d.filter (fun x => !(x.core == core && x.line == l))
  { s with cch := { s.cch with l1d := rest ++ [⟨core, l, data, dirty⟩] } }

/-- A line in a core's L1 instruction cache. -/
def l1PutFetch (core l : Nat) (data : List Nat) (s : State) : State :=
  let rest := s.cch.l1i.filter (fun x => !(x.core == core && x.line == l))
  { s with cch := { s.cch with l1i := rest ++ [⟨core, l, data, false⟩] } }

/-- The L1 data caches of other cores lose their copies of a line that a core writes. -/
def dropOthers (core l : Nat) (s : State) : State :=
  { s with cch := { s.cch with l1d := s.cch.l1d.filter (fun x => x.core == core || x.line != l) } }

/-- The cluster cache loses a line. -/
def dropLine (l : Nat) (s : State) : State := { s with cch := { s.cch with lines := s.cch.lines.filter (fun x => x.line != l) } }

/-! Installing a line (R422, R425, R454) -/

/-- A row of an array, and the row of the cluster cache that holds a line (R454), as one number. -/
def sramRow (id row : Nat) : Nat := id * 65536 + row
def cacheRow (l : Nat) : Nat := sramRow (0x100 + bankOf l) (setOf l / 4)

/-- Ways of a line's set that are not disabled; a row queued for remapping takes no new line (R455). -/
def State.ways (s : State) (l : Nat) : List Nat :=
  if s.rpr.queued.contains (cacheRow l) then []
  else (List.range 16).filter (fun w => !s.cch.waysOff.contains (bankOf l, segmentOf l, w))

/-- A row is queued for remapping, unless FIELD_REMAP_EN is 0 (R455). -/
def queueRow (k : Nat) (s : State) : State :=
  when (s.on Reg.RPR_CTRL_FIELD_REMAP_EN) (fun t => { t with rpr := { t.rpr with queued := addOnce t.rpr.queued k } }) s

/-- A corrected error of a row is counted; CE_LIMIT of them within WINDOW_H hours queue the row (R455). -/
def countRowCe (k : Nat) (s : State) : State :=
  let now := s.clock :: s.within (sec (3600 * s.get Reg.RPR_SRAM_CFG_WINDOW_H)) (Assoc.getD s.rpr.rowErrs k [])
  let id := k / 65536
  let s1 : State := { s with rpr := { s.rpr with
    ce := Assoc.set s.rpr.ce id (Assoc.getD s.rpr.ce id 0 + 1), rowErrs := Assoc.set s.rpr.rowErrs k now } }
  when (decide (max 1 (s.get Reg.RPR_SRAM_CFG_CE_LIMIT) ≤ now.length)) (queueRow k) s1

/-- The lines in the set of a line. -/
def State.inSet (s : State) (l : Nat) : List CacheLine := s.cch.lines.filter (fun x => setOf x.line == setOf l)

/-- An invalid way, or the line that pseudo-LRU gives up, which the spec leaves open: a free value picks it. -/
def State.pickWay (s : State) (l : Nat) : Option (Nat × Option CacheLine) :=
  let ws := s.ways l
  let set' := s.inSet l
  match ws.find? (fun w => !set'.any (fun x => x.way == w)) with
  | some w => some (w, none)
  | none =>
    match ws[s.freeVal 32 % ws.length]? with
    | some w => some (w, set'.find? (fun x => x.way == w))
    | none => none

/-- A line is installed: a copy that is there is replaced, a dirty line that gives way goes to the victim buffer. None: it has to wait for an
entry there. With every way of its set disabled a dirty line goes to memory. -/
def install (l : Nat) (data : List Nat) (dirty : Bool) (s : State) : Option State :=
  match s.cchLine l with
  | some _ => some { s with cch := { s.cch with lines := s.cch.lines.map (fun x =>
      if x.line = l then { x with data := data, dirty := x.dirty || dirty } else x) } }
  | none =>
    match s.pickWay l with
    | none => some (when dirty (memLine l data) s)
    | some (w, none) => some { s with cch := { s.cch with lines := s.cch.lines ++ [⟨w, l, data, dirty⟩] } }
    | some (w, some old) =>
      let s1 := useFree (dropLine old.line s)
      let new : State := { s1 with cch := { s1.cch with lines := s1.cch.lines ++ [⟨w, l, data, dirty⟩] } }
      if !old.dirty then some new
      else if s.victimsFull (bankOf l) then none
      else some { new with cch := { new.cch with victims := new.cch.victims ++ [{ line := old.line, data := old.data }] } }

/-- A clean offer finds an invalid way or a clean line to replace (R424). -/
def State.cleanRoom (s : State) (l : Nat) : Bool :=
  match s.pickWay l with
  | some (_, none) => true
  | some (_, some old) => !old.dirty
  | none => false

/-- A line evicted from an L1 data cache is offered (R424): none where it has to wait. -/
def offer (core l : Nat) (s : State) : Option State :=
  match s.l1Line core l with
  | none => some s
  | some x =>
    let gone : State := { s with cch := { s.cch with l1d := s.cch.l1d.filter (fun y => !(y.core == core && y.line == l)) } }
    if x.dirty then install l x.data true gone
    else if s.on Reg.CCH_CTRL_OFFER_CLEAN && (s.cchLine l).isNone && s.cleanRoom l then install l x.data false gone
    else some (bump Reg.CCH_OFFER_DECLINED_CNT gone)

/-- Lines evicted one after another. -/
def offerAll (core : Nat) : List Nat → State → Option State
  | [], s => some s
  | l :: t, s => match offer core l s with
    | none => none
    | some s1 => offerAll core t s1

/-! Requests (R422 to R426) -/

/-- The line of a request. -/
def reqLine (r : CoreReq) : Nat := r.addr / 64

/-- A load or fetch gets its bytes from a line. -/
def answer (r : CoreReq) (data : List Nat) (s : State) : State :=
  emit (.coreData r.core r.addr ((data.drop (r.addr % 64)).take r.size)) s

/-- A store to a line of the core's L1: write-back, or with MRAM written through, in memory and in the cluster's copy at once (R420). -/
def storeTo (r : CoreReq) (data : List Nat) (wasDirty : Bool) (s : State) : State :=
  let l := reqLine r
  let new := mergeBytes data (r.addr % 64) (leBytes r.size r.value)
  let through := regionOf r.addr == .mram && !s.on Reg.CCH_CTRL_MRAM_WB
  let s1 := dropOthers r.core l s
  if through then
    let s2 := storeBytes r.addr (leBytes r.size r.value) s1
    let s3 : State := { s2 with cch := { s2.cch with lines := s2.cch.lines.map (fun x => if x.line = l then { x with data := new } else x) } }
    l1Put r.core l new wasDirty s3
  else l1Put r.core l new true s1

/-- A request is served with the line's data, which comes to the core's L1. -/
def serveWith (r : CoreReq) (data : List Nat) (s : State) : State :=
  match r.kind with
  | .load => answer r data (l1Put r.core (reqLine r) data false s)
  | .fetch => answer r data (l1PutFetch r.core (reqLine r) data s)
  | .store => storeTo r data false s

/-- A bank has a miss outstanding (R423). -/
def State.bankMiss (s : State) (b : Nat) : Bool := s.cch.misses.any (fun m => !m.prefetch && bankOf m.line == b)

/-- A fill of the line is outstanding. -/
def State.fillOut (s : State) (l : Nat) : Bool := s.cch.misses.any (fun m => m.line == l)

/-- A miss, and with a miss of the line before it prefetches of up to four further lines into the side buffer (R426); how many of the four is
left open: a free value. -/
def missLine (core l : Nat) (s : State) : State :=
  let s1 := bump Reg.CCH_MISS_CNT { s with cch := { s.cch with
    misses := s.cch.misses ++ [{ line := l }], lastMiss := Assoc.set s.cch.lastMiss core l } }
  if Assoc.find s.cch.lastMiss core = some (l - 1) ∧ 0 < l ∧ s.on Reg.CCH_CTRL_PF_EN = true then
    let ahead := ((List.range (s.freeVal 3 % 5)).map (fun i => l + 1 + i)).filter (fun x =>
      cacheable (regionOf (64 * x)) && !s1.lineHeld x && !s1.fillOut x)
    useFree { s1 with cch := { s1.cch with misses := s1.cch.misses ++ ahead.map (fun x => { line := x, prefetch := true }) } }
  else s1

/-- A write that hits the victim buffer (R425): the writeback is cancelled, or goes on where it was issued, and the line is installed dirty
again with the write merged. -/
def reinstall (r : CoreReq) (v : Victim) (s : State) : Option State :=
  let l := reqLine r
  let kept := if r.issued then s.cch.victims.map (fun x => if x = v then { x with issued := true } else x) else s.cch.victims.erase v
  let new := mergeBytes v.data (r.addr % 64) (leBytes r.size r.value)
  (install l new true { s with cch := { s.cch with victims := kept } }).map (fun t => l1Put r.core l new false (dropOthers r.core l t))

/-- Lines leave the requester's L1 to make room: instruction lines go, data lines are offered to the cluster cache. -/
def makeRoom (r : CoreReq) (s : State) : Option State :=
  if r.kind == .fetch then
    some { s with cch := { s.cch with l1i := s.cch.l1i.filter (fun x => !(x.core == r.core && r.evict.contains x.line)) } }
  else offerAll r.core (r.evict.filter (fun x => x != reqLine r)) s

/-- A request is served as far as it can be: the state after it, and whether it is done; if not it waits. -/
def serve (r : CoreReq) (s : State) : State × Bool :=
  let l := reqLine r
  let fetch := r.kind == .fetch
  match makeRoom r s with
  | none => (s, false)
  | some s1 =>
    let own := if fetch then s1.l1Fetch r.core l else s1.l1Line r.core l
    match own with
    | some x =>
      (match r.kind with
       | .store => storeTo r x.data x.dirty s1
       | _ => answer r x.data s1, true)
    | none =>
      match s1.cch.l1d.find? (fun x => x.line == l) with
      | some x =>
        -- Another L1 holds it; a store takes it over with its dirty state (R422).
        (if r.kind = .store then storeTo r x.data (s1.cch.l1d.any (fun y => y.line == l && y.dirty)) s1 else serveWith r x.data s1, true)
      | none =>
        if s1.fillOut l || (s1.bankMiss (bankOf l) && !s1.cch.humOn) then (s1, false)
        else match s1.cchLine l with
          | some x => (serveWith r x.data s1, true)
          | none =>
            match s1.cch.side.find? (fun x => x.1 == l) with
            | some x =>
              (match install l x.2 false { s1 with cch := { s1.cch with side := s1.cch.side.filter (fun y => y.1 != l) } } with
               | some s2 => (serveWith r x.2 (bump Reg.CCH_PF_HIT_CNT s2), true)
               | none => (s1, false))
            | none =>
              match s1.victim l with
              | some v =>
                if r.kind = .store then
                  (match reinstall r v s1 with
                   | some s2 => (bump Reg.CCH_VICTIM_HIT_CNT s2, true)
                   | none => (s1, false))
                else
                  let seen : Victim := { v with issued := v.issued || r.issued }
                  let s2 : State := { s1 with cch := { s1.cch with victims := s1.cch.victims.map (fun x => if x = v then seen else x) } }
                  (bump Reg.CCH_VICTIM_HIT_CNT (serveWith r v.data s2), true)
              | none => if s1.bankMiss (bankOf l) then (s1, false) else (missLine r.core l s1, false)

/-- A request is served, or waits at its bank. -/
def request (r : CoreReq) (s : State) : State :=
  match serve r s with
  | (t, true) => t
  | (t, false) => { t with cch := { t.cch with waiting := t.cch.waiting ++ [r] } }

/-- The requests that wait at a bank are served again, in order. -/
def serveBank (b : Nat) (s : State) : State :=
  let mine := s.cch.waiting.filter (fun r => bankOf (reqLine r) == b)
  forEach mine request { s with cch := { s.cch with waiting := s.cch.waiting.filter (fun r => bankOf (reqLine r) != b) } }

/-- HUM takes effect when no bank has a miss outstanding (R423). -/
def settleHum (s : State) : State :=
  if s.cch.misses.any (fun m => !m.prefetch) then s else { s with cch := { s.cch with humOn := s.on Reg.CCH_CTRL_HUM } }

/-! Maintenance (R430 to R432) -/

/-- Dirty data of a line, the newest: an L1's, else the cluster's. -/
def State.dirtyData (s : State) (l : Nat) : Option (List Nat) :=
  match s.cch.l1d.find? (fun x => x.line == l && x.dirty) with
  | some x => some x.data
  | none => (s.cch.lines.find? (fun x => x.line == l && x.dirty)).map (·.data)

/-- Writebacks of a line that stand in the victim buffer land, in order. -/
def landVictims (l : Nat) (issuedOnly : Bool) (s : State) : State :=
  let mine := s.cch.victims.filter (fun v => v.line == l)
  let s1 := forEach (mine.filter (fun v => !issuedOnly || v.issued)) (fun v t => memLine l v.data t) s
  { s1 with cch := { s1.cch with victims := s1.cch.victims.filter (fun v => v.line != l) } }

/-- One operation on one line: 1 clean, 2 invalidate, 3 flush. It acts on every copy but those in instruction caches; a fill that is outstanding
completes first (R432). -/
def maintLine (op l : Nat) (s : State) : State :=
  if s.fillOut l then
    { s with cch := { s.cch with misses := s.cch.misses.map (fun m => if m.line = l then { m with ops := m.ops ++ [op] } else m) } }
  else
    let gone (t : State) : State := { t with cch := { t.cch with
      lines := t.cch.lines.filter (fun x => x.line != l)
      l1d := t.cch.l1d.filter (fun x => x.line != l)
      side := t.cch.side.filter (fun x => x.1 != l) } }
    if op = 2 then gone (landVictims l true s)
    else
      let s1 := landVictims l false s
      let s2 := match s1.dirtyData l with
        | none => s1
        | some d =>
          let t := memLine l d s1
          { t with cch := { t.cch with
            lines := t.cch.lines.map (fun x => if x.line = l then { x with data := d, dirty := false } else x)
            l1d := t.cch.l1d.map (fun x => if x.line = l then { x with dirty := false } else x) } }
      if op = 3 then gone s2 else s2

/-- Lines with a copy or a fill somewhere. -/
def State.heldLines (s : State) : List Nat :=
  once (s.cch.lines.map (·.line) ++ s.cch.l1d.map (·.line) ++ s.cch.side.map Prod.fst ++ s.cch.victims.map (·.line) ++ s.cch.misses.map (·.line))

/-- Evictions that waited for a victim entry go on: fills first, then requests. -/
def retryBank (b : Nat) (s : State) : State :=
  let s1 := forEach (s.cch.misses.filter (fun m => m.ready && bankOf m.line == b)) (fun m t =>
    match install m.line (t.lineBytes m.line) false t with
    | none => t
    | some u => forEach m.ops (fun op => maintLine op m.line) (serveBank b { u with cch := { u.cch with misses := u.cch.misses.erase m } })) s
  serveBank b s1

/-- One operation on every held line of a set. -/
def maintain (op : Nat) (p : Nat → Bool) (s : State) : State :=
  let s1 := forEach (s.heldLines.filter p) (maintLine op) s
  forEach [0, 1, 2, 3] retryBank s1

/-! Fills (R423, R426, R427) -/

/-- A request whose line carries the poison marking faults (R427). -/
def faultReq (r : CoreReq) (s : State) : State := emit (.accessFault r.core r.kind r.addr) s

/-- A fill returns from memory: a prefetch goes to the side buffer, a miss is installed, unless it must wait for a victim entry; then what waited
at the bank is served. -/
def fillDone (l : Nat) (s : State) : State :=
  match s.cch.misses.find? (fun m => m.line == l && !m.ready) with
  | none => s
  | some m =>
    let b := bankOf l
    let free (t : State) : State := { t with cch := { t.cch with misses := t.cch.misses.erase m } }
    let ops (t : State) : State := forEach m.ops (fun op => maintLine op l) t
    let data := s.lineBytes l
    if s.cch.poison.contains l then
      let mine := s.cch.waiting.filter (fun r => reqLine r == l)
      let s1 := forEach mine faultReq { free s with cch := { (free s).cch with waiting := s.cch.waiting.filter (fun r => reqLine r != l) } }
      settleHum (serveBank b s1)
    else if m.prefetch then
      let side := s.cch.side ++ [(l, data)]
      let s1 : State := { free s with cch := { (free s).cch with side := side.drop (side.length - 16) } }
      settleHum (ops (serveBank b s1))
    else match install l data false (free s) with
      | some s1 => settleHum (ops (serveBank b s1))
      | none => { s with cch := { s.cch with misses := s.cch.misses.map (fun x => if x = m then { x with ready := true } else x) } }

/-- The cache of the control cluster starts empty (R466). -/
def clearCache (s : State) : State := { s with cch := { waysOff := s.cch.waysOff, poison := s.cch.poison } }

/-! DRAM errors (R364) -/

/-- An uncorrectable DRAM error is counted by the firmware: eight within an hour, or one in the cache directory, are a fault (reason 4). -/
def countDramUe (directory : Bool) (s : State) : State :=
  let recent := s.clock :: s.within (sec 3600) s.rpr.dramUes
  when (directory || decide (8 ≤ recent.length)) (raiseFault 4) { s with rpr := { s.rpr with dramUes := recent } }

end Sys2Proof.Machine
end

