-- ==== Sys2Proof/Machine/Fan.lean ====
section
/-! DEFINITION. The fan drive's commands (chapter 12). -/

namespace Sys2Proof.Machine

/-- FOC_PERIOD (R339, R341, R342): one PWM period of field-oriented control. In SHADOW the last load angle received is added to the
voltage's angle (R351). -/
def execFocPeriod (c : Fin 6) (x : FocSample) (s : State) : Result :=
  let n := c.val
  let skipped := b2n x.skipA + b2n x.skipB + b2n x.skipC
  let s1 := when (decide (2 ≤ skipped)) (bump (Reg.FAN_CH_PRED_CNT n)) s
  let angle := if s.fanState n = FanSt.shadow then x.angle + (s.fanChan n).loadAngle else x.angle
  let s2 := when (drivingStates.contains (s.fanState n)) (observe n x) (setF (Reg.FAN_CH_ANGLE_ANGLE n) angle (setRpm n x.rpm s1))
  if s.fanState n != FanSt.run then .next s2
  else
    let ch := s.fanChan n
    let full := s.get (Reg.FAN_CH_CFG_FULL_RPM_100 n) * 100
    let target := 400 * (full * s.fanApplied n / 1000)
    let step := max 1 (s.get (Reg.FAN_CH_CFG_ACCEL_100 n))
    let limited := decide (950 ≤ x.vector) || s.on (Reg.FAN_CH_STATE_VOLT_LIMIT n)
    let ref :=
      if target ≤ ch.refQ then max target (ch.refQ - step)
      else if limited then min ch.refQ (400 * x.rpm.toNat)
      else min target (ch.refQ + step)
    let s3 := onFanChan n (fun y => { y with refQ := ref }) (setF (Reg.FAN_CH_SPEED_REF n) (ref / 400) s2)
    .next (when (decide (950 ≤ x.vector) && !s.on (Reg.FAN_CH_STATE_VOLT_LIMIT n))
      (fun t => event Reg.FAN_EVENT_VOLT_LIMIT Reg.FAN_VOLT_LIMIT_CNT (setF (Reg.FAN_CH_STATE_VOLT_LIMIT n) 1 t)) s3)

/-- VOLT_LIMIT_CLEAR (R342). -/
def execVoltLimitClear (c : Fin 6) (s : State) : Result := .next (setF (Reg.FAN_CH_STATE_VOLT_LIMIT c.val) 0 s)

/-- OBSERVER_LOSS (R341, R346): the residual has stayed above RES_LIMIT for 2 ms; the channel coasts, or enters FAULT at the third loss within 60 s of the first. -/
def execObserverLoss (c : Fin 6) (s : State) : Result :=
  let n := c.val
  if s.fanState n != FanSt.run || !(s.fanChan n).aboveLimit then .next s
  else
    let recent := s.within (sec 60) (s.fanChan n).losses
    let s1 := event Reg.FAN_EVENT_OBS_LOSS Reg.FAN_OBS_LOSS_CNT (bump (Reg.FAN_CH_LOSS_CNT n) s)
    let s2 := onFanChan n (fun x => { x with losses := s.clock :: recent }) s1
    .next (if 2 ≤ recent.length then settle (fanFault n 1 (onFanChan n (fun x => { x with losses := [] }) s2))
           else setFanState n FanSt.coast s2)

/-- COAST_RESTART (R346): a start command 20 ms after a loss. -/
def execCoastRestart (c : Fin 6) (s : State) : Result :=
  if s.fanState c.val = FanSt.coast ∧ (s.fanChan c.val).startFails = 0 ∧ s.fanDrive then .next (fanStart c.val s)
  else .next s

/-- FAN_RUN_WRITE (R344): RUN is stored; set, it is a start command where the module holds the token. -/
def execFanRunWrite (c : Fin 6) (run : Bool) (s : State) : Result :=
  land 0xE010C (.fanRunWrite c run) (fun t => fanSettle c.val (setF (Reg.FAN_CH_CTRL_RUN c.val) (b2n run) t)) s

/-- SENSE_DONE (R344, R351): speed and direction are known; with the token held the channel goes on. -/
def execSenseDone (c : Fin 6) (rpm : Int) (s : State) : Result :=
  if s.fanState c.val = FanSt.sense then
    .next (when s.fanDrive (setFanState c.val (afterSense rpm)) (setRpm c.val rpm s))
  else .next s

/-- BRAKE_DONE (R344): the rotor turns below 60 rpm; the channel starts as from rest. -/
def execBrakeDone (c : Fin 6) (s : State) : Result :=
  if s.fanState c.val = FanSt.brake then .next (setFanState c.val FanSt.align s) else .next s

/-- ALIGN_DONE (R344). -/
def execAlignDone (c : Fin 6) (s : State) : Result :=
  if s.fanState c.val = FanSt.align then .next (setFanState c.val FanSt.openRamp s) else .next s

/-- OPEN_RAMP_DONE (R344): RUN from 500 rpm, the residual having stayed below RES_LIMIT for 16 ms. -/
def execOpenRampDone (c : Fin 6) (s : State) : Result :=
  if s.fanState c.val = FanSt.openRamp ∧ (s.fanChan c.val).aboveLimit = false then .next (enterRun c.val 500 s) else .next s

/-- SYNC_DONE (R344): RUN at the measured speed. -/
def execSyncDone (c : Fin 6) (s : State) : Result :=
  if s.fanState c.val = FanSt.sync then .next (enterRun c.val (s.fanRpm c.val).toNat s) else .next s

/-- START_FAIL (R344): a step bound has passed; COAST at the first failure in a row, FAULT at the second. -/
def execStartFail (c : Fin 6) (s : State) : Result :=
  let n := c.val
  if startingStates.contains (s.fanState n) && s.fanDrive then
    let s1 := event Reg.FAN_EVENT_START_FAIL Reg.FAN_START_FAIL_CNT s
    .next (if (s.fanChan n).startFails = 0 then
             setFanState n FanSt.coast (onFanChan n (fun x => { x with startFails := 1 }) s1)
           else settle (fanFault n 3 s1))
  else .next s

/-- START_RETRY (R344): the next try begins 1 s after a START_FAIL, from SENSE. -/
def execStartRetry (c : Fin 6) (s : State) : Result :=
  if s.fanState c.val = FanSt.coast ∧ (s.fanChan c.val).startFails ≠ 0 ∧ s.fanDrive then
    .next (setFanState c.val FanSt.sense s)
  else .next s

/-- MISSING_PHASE (R347). -/
def execMissingPhase (c : Fin 6) (s : State) : Result :=
  if s.fanState c.val = FanSt.run then
    .next (settle (fanFault c.val 2 (event Reg.FAN_EVENT_MISSING_PHASE Reg.FAN_MISSING_PHASE_CNT s)))
  else .next s

/-- FAN_OVERCURRENT (R348): the drivers of the channel open and it enters FAULT; none conducts where they are off. -/
def execFanOvercurrent (c : Fin 6) (s : State) : Result :=
  if !drivingStates.contains (s.fanState c.val) then .next s
  else .next (settle (fanFault c.val 4 (bump Reg.FAN_OVERCURRENT_CNT s)))

/-- A RESTART takes a channel out of FAULT with a start command; in any other state it is ignored and counted (R349). -/
def fanRestart (c : Nat) (s : State) : State :=
  if s.fanState c = FanSt.fault then
    fanSettle c (setF (Reg.FAN_CH_STATE_FAULT_CAUSE c) 0 (setFanState c FanSt.off s))
  else ignored 6 0 s

/-- FAN_RESTART (R349). -/
def execFanRestart (c : Fin 6) (s : State) : Result := land 0xE010C (.fanRestart c) (fanRestart c.val) s

/-- FAN_FAULT_RESTART (R349): the firmware writes one RESTART 5 min after a FAN_FAULT, and none after a second within 24 h. -/
def execFanFaultRestart (c : Fin 6) (s : State) : Result :=
  if s.fanState c.val = FanSt.fault ∧ (s.within (sec 86400) (s.fanChan c.val).faults).length < 2 then
    .next (fanRestart c.val s)
  else .next s

/-- FAN_TOKEN_CLAIM (R350): sampling of the line begins; a claim by the holder completes at once. -/
def execFanTokenClaim (s : State) : Result :=
  land 0xE000C .fanTokenClaim (fun t =>
    let t1 := setF Reg.FAN_TOKEN_REFUSED 0 t
    if t.on Reg.FAN_TOKEN_HELD then t1
    else setF Reg.FAN_TOKEN_CLAIM 1 { t1 with fan := { t1.fan with claiming := true } }) s

/-- Samples that a claim needs high (R350): two in position A; in position B two and the one that ends the check window. -/
def claimSamples (posB : Bool) : Nat := if posB then 3 else 2

/-- FAN_TOKEN_CLAIM_DONE (R350): with every sample high the token is held; otherwise REFUSED is set. -/
def execFanTokenClaimDone (samples : List Bool) (s : State) : Result :=
  if !s.fan.claiming then .next s
  else
    let s1 := setF Reg.FAN_TOKEN_CLAIM 0 { s with fan := { s.fan with claiming := false } }
    let need := claimSamples (s.on Reg.SYS_STRAP_POS)
    .next (if (samples.take need).all id && decide (need ≤ samples.length) then fanGain s1
           else setF Reg.FAN_TOKEN_REFUSED 1 s1)

/-- FAN_TOKEN_RELEASE (R350). -/
def execFanTokenRelease (s : State) : Result := land 0xE000C .fanTokenRelease fanRelease s

/-- FAN_TOKEN_LINE_CHANGE (R350, R351): the partner's hold of the line changed. -/
def execFanTokenLineChange (low : Bool) (s : State) : Result :=
  let p := low && !s.on Reg.FAN_TOKEN_HELD
  if s.on Reg.FAN_TOKEN_PARTNER = p then .next s
  else .next (fanSettleAll (event Reg.FAN_EVENT_TOKEN_CHANGE Reg.FAN_TOKEN_CHANGE_CNT
    (setF Reg.FAN_TOKEN_PARTNER (b2n p) s)))

/-- FAN_DEMAND_WRITE (R353). -/
def execFanDemandWrite (c : Fin 6) (value : Nat) (s : State) : Result :=
  land 0xE0108 (.fanDemandWrite c value) (fun t =>
    when (decide (1024 ≤ value)) (ignored 6 0) (writeDemand c.val (value % 1024) t)) s

/-- FAN_WATCHDOG_EXPIRY (R353): never while WDOG_EN is 0. -/
def execFanWatchdogExpiry (s : State) : Result :=
  if s.on Reg.FAN_CTRL_WDOG_EN then
    .next (demandMoved s (event Reg.FAN_EVENT_WDOG Reg.FAN_WDOG_CNT (setF Reg.FAN_WDOG_EXPIRED 1 s)))
  else .next s

/-- The power a channel reports, in 0.1 W (R354): the cube law of its applied demand or the measured power, the larger; 0 W
while its drivers are off. -/
def State.fanPower (s : State) (c meas : Nat) : Nat :=
  if [FanSt.off, FanSt.fault, FanSt.shadow, FanSt.sense, FanSt.coast].contains (s.fanState c) then 0
  else max (s.get (Reg.FAN_CH_CFG_P_RATED_W c) * 10 * s.fanApplied c ^ 3 / 10 ^ 9) meas

/-- FAN_POWER_REPORT (R354): every channel's power, and P_fan into PWR_FAN_W. -/
def execFanPowerReport (pMeasDw : List Nat) (irms : List (Nat × (Nat × Nat))) (s : State) : Result :=
  let s1 := forEach fanChannels (fun c t =>
    let m := pMeasDw.getD c 0
    let i := irms.getD c (0, 0, 0)
    setF (Reg.FAN_CH_IRMS_IA c) i.1 (setF (Reg.FAN_CH_IRMS_IB c) i.2.1 (setF (Reg.FAN_CH_IRMS_IC c) i.2.2
      (setF (Reg.FAN_CH_POWER_P_MEAS_DW c) m (setF (Reg.FAN_CH_POWER_P_REP_DW c) (t.fanPower c m) t))))) s
  .next (setF Reg.PWR_FAN_W_P_FAN_DW (fanChannels.map (fun c => s1.get (Reg.FAN_CH_POWER_P_REP_DW c))).sum s1)

/-- The speed a temperature asks for, in 0.1 % (R355). -/
def demandFor (lim : Int × Int) (t : Int) : Nat :=
  if t ≤ lim.1 then 300
  else if lim.2 ≤ t then 1000
  else (300 + 700 * (t - lim.1) / (lim.2 - lim.1)).toNat

/-- The larger of two demands with their sources; the first where they are equal. -/
def largerDemand (a b : Nat × (Nat × Int)) : Nat × (Nat × Int) := if a.1 < b.1 then b else a

/-- A drive's temperature as it counts (R355): a read, the last reading where one read failed, and that plus 5 °C where two
in a row did. -/
def countTemp (old : Int × Nat) : Option Int → Int × Nat
  | some t => (t, 0)
  | none => (old.1, old.2 + 1)

/-- FAN_DEMAND_COMPUTE (R355): the largest of the sources' demands, falling by at most 1 % of full speed, for every channel.
The pack's temperature is BAT_VOLT.TEMP. -/
def execFanDemandCompute (t : TempReadings) (s : State) : Result :=
  let awake := t.drives.filter (fun d => s.on (Reg.SAS_SLOT_CTRL_AWAKE d.1))
  let temps := awake.foldl (fun m d => Assoc.set m d.1 (countTemp (Assoc.getD m d.1 (0, 0)) d.2)) s.fan.driveTemps
  let lim (i : Nat) : Int × Int := s.fan.limits.getD i (0, 1)
  let driveDemand (p : Nat × (Int × Nat)) : Nat × (Nat × Int) :=
    let v := if 2 ≤ p.2.2 then p.2.1 + 50 else p.2.1
    (demandFor (lim 0) v, p.1, v)
  let drives := (temps.filter (fun p => s.on (Reg.SAS_SLOT_CTRL_AWAKE p.1))).map driveDemand
  let fixed := [(demandFor (lim 1) t.die, 0x80, t.die), (demandFor (lim 2) t.converter, 0x81, t.converter),
    (demandFor (lim 3) t.inlet, 0x82, t.inlet), (demandFor (lim 4) s.packTemp, 0x83, s.packTemp)]
  let best := (drives ++ fixed).foldl largerDemand (300, 0x82, t.inlet)
  let s1 : State := { s with fan := { s.fan with driveTemps := temps, demandSrc := best.2.1, srcTemp := best.2.2 } }
  .next (forEach fanChannels (fun c u =>
    let floor := if u.mode = Mode.waking ∨ u.fanStarting c = true then 400 else 0
    writeDemand c (max floor (max best.1 (u.get (Reg.FAN_CH_DEMAND_DEMAND c) - 10))) u) s1)

/-- The fan channels' record of a FAN_STATE message: the active's load angle and current vector (R351). -/
def storeFanState (c angle vec : Nat) (s : State) : State :=
  onFanChan c (fun x => { x with loadAngle := angle, loadVec := vec }) s

end Sys2Proof.Machine
end

