-- ==== Sys2Proof/Machine/Words.lean ====
section
/-! DEFINITION. Whole registers: the fields that stand at an offset, and the word they make as they are stored. -/

namespace Sys2Proof.Machine

/-- The fields of the register at a BAR0 offset. -/
def fieldsAt (off : Nat) : List Field := fieldTable.filterMap (fun r => r.at? off)

/-- The word that the stored fields of a register make; bits of no field read 0 (R7). -/
def State.rawWord (s : State) (off : Nat) : Nat := ((fieldsAt off).map (fun f => s.get f * 2 ^ f.lo)).sum

end Sys2Proof.Machine
end

