-- ==== Sys2Proof/Machine/Mbx.lean ====
section
/-! DEFINITION. Mailboxes, locks and the interrupts to the control cores (R433 to R443). -/

namespace Sys2Proof.Machine

/-- Owner number of a requester (R418, R433): DMA channels and the console have none. -/
def ownerOf : Requester → Nat
  | .host => 0x20
  | .core n => n.val + 1
  | .dma _ => 0
  | .console => 0

/-- The host's accesses to a mailbox that R441 keeps from it. -/
def hostKept (m : Nat) (r : Requester) : Bool := r == .host && decide (m < 56)

/-- A host write that R441 discards. -/
def mbxHostDrop (s : State) : State := bump Reg.MBX_BAR0_DROP_CNT s

/-- Sender and receiver of a mailbox (R433). -/
def State.boxSender (s : State) (m : Nat) : Nat := if 56 ≤ m ∧ m < 60 then 0x20 else s.get (Reg.MBX_BOX_CFG_SENDER m)
def State.boxReceiver (s : State) (m : Nat) : Nat := if 60 ≤ m then 0x20 else s.get (Reg.MBX_BOX_CFG_RECEIVER m)

/-- A DATA write is discarded (R434). -/
def dropBox (m : Nat) (s : State) : State := event (Reg.MBX_BOX_STATUS_DROPPED m) Reg.MBX_DROP_CNT s

/-- A write of a mailbox's data that R434 discards. -/
def State.boxRefuses (s : State) (m : Nat) (r : Requester) : Bool :=
  s.on (Reg.MBX_BOX_STATUS_FULL m) || ownerOf r == 0 || s.boxSender m != ownerOf r

/-- MAILBOX_SEND (R434, R438): the write of DATA_HI. The receiver's interrupt is the level of FULL and IRQ_EN (R443). -/
def execMailboxSend (m : Fin 64) (r : Requester) (hi : Word) (s : State) : Result :=
  let n := m.val
  land (0x9000C + 0x20 * n) (.mailboxSend m r hi) (fun t =>
    if hostKept n r then mbxHostDrop t
    else if t.boxRefuses n r then dropBox n t
    else bump Reg.MBX_SENT_CNT (setF (Reg.MBX_BOX_STATUS_RECALLED n) 0 (setF (Reg.MBX_BOX_STATUS_FULL n) 1
      (setF (Reg.MBX_BOX_DATA_HI_DATA n) hi.toNat t)))) s

/-- MAILBOX_TAKE (R435): a read of DATA_HI; the receiver's clears FULL. The host reads 0 from mailboxes it does not reach (R441). -/
def execMailboxTake (m : Fin 64) (r : Requester) (s : State) : Result :=
  let n := m.val
  land (0x9000C + 0x20 * n) (.mailboxTake m r) (fun t =>
    if hostKept n r then emit (.readValue 0) t
    else
      let t1 := emit (.readValue (t.get (Reg.MBX_BOX_DATA_HI_DATA n))) t
      when (ownerOf r != 0 && t.boxReceiver n == ownerOf r) (setF (Reg.MBX_BOX_STATUS_FULL n) 0) t1) s

/-- MAILBOX_TIMEOUT (R437): MBX_TIMEOUT.MS after FULL was set. -/
def execMailboxTimeout (m : Fin 64) (s : State) : Result :=
  if s.on (Reg.MBX_BOX_STATUS_FULL m.val) then .next (event (Reg.MBX_BOX_STATUS_TIMEOUT m.val) Reg.MBX_TIMEOUT_CNT s) else .next s

/-- RECALL (R438): accepted from the sender only. -/
def execBoxRecall (m : Fin 64) (r : Requester) (s : State) : Result :=
  let n := m.val
  land (0x90014 + 0x20 * n) (.boxRecall m r) (fun t =>
    if hostKept n r then mbxHostDrop t
    else if ownerOf r = 0 ∨ t.boxSender n ≠ ownerOf r then t
    else if t.on (Reg.MBX_BOX_STATUS_FULL n) then
      setF (Reg.MBX_BOX_STATUS_RECALLED n) 1 (setF (Reg.MBX_BOX_STATUS_FULL n) 0 t)
    else setF (Reg.MBX_BOX_STATUS_RECALLED n) 0 t) s

/-! Locks (R439 to R442) -/

/-- A read of a lock by an owner: its answer, and the lock after it. A requester without an owner number takes nothing. -/
def State.lockAnswer (s : State) (m : Nat) : Nat := s.get (Reg.MBX_BOX_LOCK_OWNER m)
def readBoxLock (m owner : Nat) (s : State) : State :=
  if s.lockAnswer m = 0 ∧ owner ≠ 0 then setF (Reg.MBX_BOX_LOCK_OWNER m) owner s else s

/-- A write to a lock: the owner's own number releases it, any other write is discarded. -/
def freeBoxLock (m owner value : Nat) (s : State) : State :=
  if owner ≠ 0 ∧ s.lockAnswer m = owner ∧ value = owner then setF (Reg.MBX_BOX_LOCK_OWNER m) 0 s else bump Reg.MBX_DROP_CNT s

/-- LOCK_READ (R439, R441). -/
def execLockRead (m : Fin 64) (r : Requester) (s : State) : Result :=
  let n := m.val
  land (0x90010 + 0x20 * n) (.lockRead m r) (fun t =>
    if hostKept n r then emit (.readValue 0) t else readBoxLock n (ownerOf r) (emit (.readValue (t.lockAnswer n)) t)) s

/-- LOCK_RELEASE (R439, R441). -/
def execLockRelease (m : Fin 64) (r : Requester) (value : Nat) (s : State) : Result :=
  let n := m.val
  land (0x90010 + 0x20 * n) (.lockRelease m r value) (fun t =>
    if hostKept n r then mbxHostDrop t else freeBoxLock n (ownerOf r) value t) s

/-- A held lock is released without a write (R440). -/
def forceLock (m : Nat) (s : State) : State :=
  if s.lockAnswer m = 0 then s else bump Reg.MBX_LOCK_FORCE_CNT (setF (Reg.MBX_BOX_LOCK_OWNER m) 0 s)

/-- Every lock of an owner is released (R440). -/
def forceOwner (owner : Nat) (s : State) : State :=
  forEach ((List.range 64).filter (fun m => s.lockAnswer m == owner)) forceLock s

/-- LOCK_FORCE (R440): by a core; a host write is discarded (R441). -/
def execLockForce (m : Fin 64) (r : Requester) (s : State) : Result :=
  land 0x91004 (.lockForce m r) (fun t =>
    match r with
    | .host => mbxHostDrop t
    | .core _ => forceLock m.val (setF Reg.MBX_LOCK_FORCE_GO 0 (setF Reg.MBX_LOCK_FORCE_BOX m.val t))
    | _ => t) s

/-- PEER_LOCK_READ (R442): `answer` is the partner's answer within 10 µs. -/
def execPeerLockRead (core : Fin 9) (m : Fin 64) (answer : Option Nat) (s : State) : Result :=
  land (0x91400 + 4 * m.val) (.peerLockRead core m answer) (fun t =>
    let up := t.on Reg.FOV_MIR_STATUS_LINK_UP && t.on Reg.FOV_MIR_CTRL_ENABLE
    emit (.readValue (if up then answer.getD 0xFF else 0xFF)) (when up (emit (.mirrorControl .lockRequest [m.val, 0])) t)) s

/-- PEER_LOCK_RELEASE (R442). -/
def execPeerLockRelease (_core : Fin 9) (m : Fin 64) (s : State) : Result :=
  land (0x91400 + 4 * m.val) (.peerLockRelease _core m) (fun t =>
    when (t.on Reg.FOV_MIR_STATUS_LINK_UP && t.on Reg.FOV_MIR_CTRL_ENABLE) (emit (.mirrorControl .lockRequest [m.val, 1])) t) s

/-- PEER_LOCK_REQUEST (R442): the partner's request, applied as an access of owner 0x21. -/
def execPeerLockRequest (m : Fin 64) (release : Bool) (s : State) : Result :=
  if !s.on Reg.FOV_MIR_STATUS_LINK_UP then .next s
  else if release then .next (freeBoxLock m.val 0x21 0x21 s)
  else .next (readBoxLock m.val 0x21 (emit (.mirrorControl .lockAnswer [m.val, s.lockAnswer m.val]) s))

/-! Interrupts to the cores (R443) -/

/-- Flag and enable registers of sources 0 and 2 to 16. -/
def sourceRegs (k : Nat) : Nat × Nat :=
  ([(0x40030, 0x40034), (0, 0), (0x50008, 0x5000C), (0xA0008, 0xA000C), (0x60008, 0x6000C), (0x20038, 0x2003C), (0x10020, 0x10024),
    (0xB0400, 0xB0404), (0xC0030, 0xC0034), (0xD0008, 0xD000C), (0xE0010, 0xE0014), (0xF0010, 0xF0014), (0x100010, 0x100014),
    (0x70010, 0x70014), (0x80020, 0x80024), (0x110010, 0x110014), (0x20, 0x24)] : List (Nat × Nat)).getD k (0, 0)

/-- A source is pending: a flag is set together with its enable bit. -/
def State.sourcePending (s : State) (k : Nat) : Bool :=
  if k = 1 then (List.range 16).any (fun r => s.on (Reg.OXE_RING_STATUS_DONE r))
  else (s.rawWord (sourceRegs k).1 &&& s.rawWord (sourceRegs k).2) != 0

/-- The cores that a source goes to: those its route names and that are in service, else the lowest-numbered one in service. -/
def State.routeTo (s : State) (k : Nat) : List Nat :=
  let serving := (List.range 9).filter (fun n => bitOf (s.get Reg.CCH_CORES_IN_SERVICE) n == 1)
  let named := serving.filter (fun n => bitOf (s.get (Reg.MBX_IRQ_ROUTE_CORES k)) n == 1)
  if named.isEmpty then serving.take 1 else named

/-- Mailboxes that are FULL with a receiver core, and those whose TIMEOUT is set with a sender core. -/
def State.fullFor (s : State) (n : Nat) : List Nat :=
  (List.range 64).filter (fun m => s.on (Reg.MBX_BOX_STATUS_FULL m) && s.boxReceiver m == n + 1)
def State.timeoutFor (s : State) (n : Nat) : List Nat :=
  (List.range 64).filter (fun m => s.on (Reg.MBX_BOX_STATUS_TIMEOUT m) && s.boxSender m == n + 1)

/-- MBX_COREn_PEND. -/
def State.corePend (s : State) (n : Nat) : Nat :=
  let sources := (List.range 17).filter (fun k => s.sourcePending k && (s.routeTo k).contains n)
  let mail := (s.fullFor n).any (fun m => s.on (Reg.MBX_BOX_CFG_IRQ_EN m)) || !(s.timeoutFor n).isEmpty
  (sources.map (fun k => 2 ^ k)).sum + 2 ^ 31 * b2n mail

/-- The machine timer interrupt of a core is pending (R419). -/
def State.timerPending (s : State) (n : Nat) : Bool :=
  decide (s.get64 (Reg.CCH_CORE_MTIMECMP_LO_CMP n) (Reg.CCH_CORE_MTIMECMP_HI_CMP n) ≤ s.clock)

/-- MTIME_COMPARE (R419). -/
def execMtimeCompare (core : Fin 9) (s : State) : Result :=
  if s.timerPending core.val then .next (emit (.timer core.val) s) else .next s

end Sys2Proof.Machine
end

