-- ==== Sys2Proof/Machine/Fov.lean ====
section
/-! DEFINITION. Active and standby modules (chapter 13): beats, roles, detection, takeover, planned handover, HOLD, revert and the
mirror link. -/

namespace Sys2Proof.Machine

/-! The beat word (R360) -/

/-- CRC-8, polynomial 0x07, over bits [23:0] taken as bytes in order (R1). -/
def beatCrc (w : Nat) : Nat := crcMsb 8 0x07 0 (leBytes 3 w)

/-- This module's beat word with a sequence number. -/
def State.beatWord (s : State) (seq : Nat) : Nat :=
  let w := s.mode + 2 ^ 4 * s.role + 2 ^ 6 * s.get Reg.FOV_STATUS_FW_ALIVE + 2 ^ 7 * s.get Reg.FOV_CTRL_HOLD
    + 2 ^ 8 * b2n (s.fov.relqLeft != 0) + 2 ^ 9 * s.get Reg.SYS_STRAP_POS + 2 ^ 10 * s.get Reg.FOV_CTRL_PREF_B
    + 2 ^ 11 * s.get Reg.FOV_MIR_CTRL_RESYNC_DONE + 2 ^ 12 * s.get Reg.FOV_CTRL_REASON + 2 ^ 16 * (seq % 256)
  w + 2 ^ 24 * beatCrc w

/-- Fields of a beat word. -/
def beatMode (w : Nat) : Nat := bits w 0 4
def beatRole (w : Nat) : Nat := bits w 4 2
def beatAlive (w : Nat) : Bool := bitOf w 6 == 1

/-- The latest good word of the partner. -/
def State.partnerWord (s : State) : Nat := s.get Reg.FOV_BEAT_RX_BEAT

/-- Either module is PARKED: the mirror link is gated (R361). -/
def State.mirrorGated (s : State) : Bool := s.mode == Mode.parked || (s.fov.heard && beatMode s.partnerWord == Mode.parked)

/-- BEAT_SEND (R360, R366). -/
def execBeatSend (s : State) : Result :=
  if s.on Reg.FOV_CTRL_HB_EN && s.sys.powered then
    let s1 := emit (.lineBeat (s.beatWord s.fov.lineSeq)) s
    let s2 := if s.mirrorGated then s1
      else sendMir .beat [s.beatWord s.fov.mirSeq, s.get Reg.JNL_SEQ_SEQ, s.dirtyMib, b2n s.hif.up] s1
    .next { s2 with fov := { s2.fov with
      lineSeq := (s.fov.lineSeq + 1) % 256
      mirSeq := if s.mirrorGated then s.fov.mirSeq else (s.fov.mirSeq + 1) % 256
      relqLeft := s.fov.relqLeft - 1 } }
  else .next s

/-! Misses (R361) -/

/-- MISS_LIMIT as it acts. -/
def State.missLimit (s : State) : Nat := max 4 (s.get Reg.FOV_CFG_MISS_LIMIT)

/-- A path is lost: 0 line, 1 mirror. -/
def State.pathLost (s : State) (path : Nat) : Bool := bitOf s.fov.lostPaths path == 1

/-- Fields of a path: its miss count and its OK bit. -/
def missField (path : Nat) : Field := if path = 0 then Reg.FOV_MISS_LINE_MISS else Reg.FOV_MISS_MIR_MISS
def okField (path : Nat) : Field := if path = 0 then Reg.FOV_STATUS_LINE_OK else Reg.FOV_STATUS_MIR_OK

/-- The partner is lost (R361): its locks are released (R440), a handover under way is abandoned, and a standby that still sees the line low reports the partner as
silent (R362). -/
def partnerLost (s : State) : State :=
  if s.on Reg.FOV_STATUS_PARTNER_LOST then s
  else
    let s1 := event Reg.FOV_EVENT_PARTNER_LOST Reg.FOV_PARTNER_LOST_CNT (setF Reg.FOV_STATUS_PARTNER_LOST 1 s)
    let s2 := abandonHandover 2 (forceOwner 0x21 { s1 with fov := { s1.fov with heard := false } })
    if s2.on Reg.FOV_CTRL_STANDBY_ROLE && !s2.active && s2.on Reg.FOV_STATUS_ACTIVE_LINE then
      hostEvent 1 { s2 with fov := { s2.fov with silent := true } }
    else s2

/-- A revert's hold-off ends when the preferred module stops being live (R372). -/
def partnerGone (s : State) : State :=
  showPartnerLive false { s with fov := { s.fov with holdoffStart := none, holdoffOver := false } }

/-- A path has missed a beat. -/
def missPath (path : Nat) (s : State) : State :=
  let f := missField path
  let n := min 255 (s.get f + 1)
  let s0 := setF f n s
  let s1 : State := { s0 with fov := { s0.fov with
    lineGood := if path = 0 then 0 else s0.fov.lineGood, mirGood := if path = 0 then s0.fov.mirGood else 0 } }
  let s2 :=
    if n < s.missLimit || s.pathLost path then s1
    else
      let t := event Reg.FOV_EVENT_PATH_LOST Reg.FOV_PATH_LOST_CNT (setF (okField path) 0 s1)
      partnerGone { t with fov := { t.fov with lostPaths := t.fov.lostPaths ||| 2 ^ path } }
  if s2.pathLost 0 && (s2.pathLost 1 || s2.mirrorGated) then partnerLost s2 else s2

/-- BEAT_MISS (R361): nothing is expected on a gated mirror link. -/
def execBeatMiss (mirror : Bool) (s : State) : Result :=
  if mirror && s.mirrorGated then .next s else .next (settle (missPath (b2n mirror) s))

/-! What a beat tells -/

/-- The shelf's preference (R359): where the two stored ones differ, position A's decides. True for B. -/
def State.prefB (s : State) : Bool :=
  if s.on Reg.SYS_STRAP_POS && s.fov.heard then bitOf s.partnerWord 10 == 1 else s.on Reg.FOV_CTRL_PREF_B

/-- This module is the preferred one. -/
def State.preferred (s : State) : Bool := s.prefB == s.on Reg.SYS_STRAP_POS

/-- The partner's last words on both paths show a live standby (R367). -/
def State.partnerShowsLive (s : State) : Bool :=
  let ok (w : Nat) : Bool := beatMode w == Mode.standby && beatAlive w && bitOf w 11 == 1
  !s.pathLost 0 && !s.pathLost 1 && ok s.fov.lineWord && ok s.fov.mirWord

/-- Resynchronisation of a partner that has entered STANDBY (R367): the straps (R474), every dirty line, every intent. -/
def startResync (s : State) : State :=
  let s1 := sendMir .config [14, s.get Reg.SYS_STRAP_POS, s.get Reg.SYS_STRAP_COMPAT, s.get Reg.SYS_STRAP_SHELF_ID] s
  let s2 := forEach s.dirtyLines (fun l t => sendMir .resync [0, l.1, l.2.data, l.2.sidecar] t) s1
  let entries := s.jnl.intents.flatMap (fun p => (List.range p.2.next).map (fun k => p.1 + k + 1) ++ [p.1])
  let s3 := forEach entries (fun i t => sendMir .resync (1 :: i :: s.entryBytes i) t) (sendMir .resync (2 :: s.dirtyLines.map Prod.fst) s2)
  { s3 with fov := { s3.fov with resyncing := true } }

/-- A module that hears its own position (R474): it claims neither line; SERVICE follows in the modes from which R27 has that transition, at
once or when one is reached (R32; log entry 99), and stays until a cold reset. -/
def positionConflict (s : State) : State :=
  if s.sys.posConflict then s
  else
    let s1 := lightFault (event Reg.SYS_EVENT_POS_CONFLICT Reg.SYS_CONFLICT_CNT
      { s with sys := { s.sys with posConflict := true } })
    setF Reg.FOV_CTRL_CLAIM 0 (setF Reg.FAN_TOKEN_CLAIM 0 { s1 with fan := { s1.fan with claiming := false } })

/-- The active acts on the partner's word (R111, R367, R372, R375). -/
def activeHears (s : State) : State :=
  let live := s.partnerShowsLive
  let s1 := if live then (if s.partnerLive then s else showPartnerLive true s) else if s.partnerLive then partnerGone s else s
  let w := s1.partnerWord
  let s2 := if beatMode w = Mode.standby ∧ bitOf w 11 = 0 ∧ s1.on Reg.FOV_MIR_STATUS_LINK_UP = true then
      (if s1.fov.resyncing then s1 else startResync s1)
    else if bitOf w 11 = 1 then { s1 with fov := { s1.fov with resyncing := false } } else s1
  let s3 := if live && !s2.preferred && s2.fov.holdoffStart.isNone && !s2.fov.holdoffOver then
      { s2 with fov := { s2.fov with holdoffStart := some s2.clock } } else s2
  if live && s3.mode == Mode.takeover && s3.on Reg.FOV_CTRL_HOLD && s3.fov.holdCause == 1 then wantHandover true s3 else s3

/-- The converter starts where it is off and mains is there. -/
def startConverter (s : State) : State := softStart (setF Reg.PWR_CTRL_CONV_EN 1 s)

/-- The converter stops. -/
def stopConverter (s : State) : State :=
  fanSettleAll (setF Reg.PWR_STATUS_OVERLOAD 0 (setF Reg.PWR_STATUS_CONV_STATE 0 (setF Reg.PWR_CTRL_CONV_EN 0 s)))

/-- A copy of the partner's data is discarded, with the journal entries (R30). -/
def discardCopy (s : State) : State :=
  { s with jnl := { s.jnl with
      lines := s.jnl.lines.filter (fun l => !(l.2.mirrored || l.2.dirty)), intents := [], staging := [] } }

/-- A module that is not active acts on the partner's word: the standby follows the active into STANDBY and back to PARKED (R27,
R359), a module in SERVICE discards the copy that a SERVING partner holds too (R30), and one in STANDBY without a role takes it
(R365). -/
def standbyHears (s : State) : State :=
  let w := s.partnerWord
  let m := beatMode w
  let leads := beatRole w == 1
  let s0 := if leads && m == Mode.serving && !s.on Reg.FOV_MIR_STATUS_LINK_UP && !s.on Reg.FOV_MIR_CTRL_RESYNC_DONE then
      { s with fov := { s.fov with synced := false } } else s
  if leads && s0.mode == Mode.parked && s0.on Reg.FOV_CTRL_STANDBY_ROLE && [1, 2, 3, 5].contains m then enterStandby (startConverter s0)
  else if leads && s0.mode == Mode.standby && m == Mode.parked then toMode Mode.parked (stopConverter s0)
  else if leads && s0.mode == Mode.service && m == Mode.serving && (s0.holdsData || !s0.jnl.intents.isEmpty) then discardCopy s0
  else if leads && s0.mode == Mode.standby && m == Mode.serving && !s0.on Reg.FOV_CTRL_STANDBY_ROLE then
    roleChanged s0.role 0 (setF Reg.FOV_CTRL_STANDBY_ROLE 1 s0)
  else s0

/-- RELINQUISH is heard (R362). -/
def hearRelinquish (reason : Nat) (s : State) : State :=
  if s.fov.relqHeard then s
  else event Reg.FOV_EVENT_RELINQUISH_RX Reg.FOV_RELINQUISH_RX_CNT
    { s with fov := { s.fov with relqHeard := true, partnerReason := reason } }

/-- A good beat on a path (R361). -/
def goodBeat (path w : Nat) (s : State) : State :=
  let good := min 10 ((if path = 0 then s.fov.lineGood else s.fov.mirGood) + 1)
  let s1 := setF Reg.FOV_BEAT_RX_BEAT w (setF (missField path) 0 s)
  let s2 : State := { s1 with fov := { s1.fov with
    heard := true
    lineGood := if path = 0 then good else s1.fov.lineGood
    mirGood := if path = 0 then s1.fov.mirGood else good
    lineWord := if path = 0 then w else s1.fov.lineWord
    mirWord := if path = 0 then s1.fov.mirWord else w } }
  let s3 :=
    if !s2.pathLost path then setF (okField path) 1 s2
    else if good < 10 then s2
    else
      let t := event Reg.FOV_EVENT_PATH_RESTORED Reg.FOV_PATH_RESTORED_CNT
        (setF Reg.FOV_STATUS_PARTNER_LOST 0 (setF (okField path) 1 s2))
      { t with fov := { t.fov with lostPaths := setBit t.fov.lostPaths path false, silent := false } }
  if bitOf w 9 = s3.get Reg.SYS_STRAP_POS then positionConflict s3
  else
    let s4 := if bitOf w 8 = 1 then hearRelinquish (bits w 12 4) s3
      else if beatRole w = 1 then { s3 with fov := { s3.fov with relqHeard := false } } else s3
    if s4.active then activeHears s4 else standbyHears s4

/-- A beat on a path, checked (R361). -/
def takeBeat (path w : Nat) (s : State) : State :=
  if beatCrc (w % 2 ^ 24) = bits w 24 8 then goodBeat path (w % 2 ^ 32) s
  else missPath path (event Reg.FOV_EVENT_BEAT_CRC Reg.FOV_BEAT_CRC_CNT s)

/-- LINE_BEAT (R360, R361). -/
def execLineBeat (word : Nat) (s : State) : Result := .next (settle (takeBeat 0 word s))

/-- BEAT (R366): the partner's word on the mirror path and its host link; no rule acts on the JNL_SEQ and JNL_DIRTY that it carries. -/
def execBeat (word _seq _dirtyMib : Nat) (hostUp : Bool) (s : State) : Result :=
  if !s.on Reg.FOV_MIR_STATUS_LINK_UP then .next s
  else
    let s1 := bump Reg.FOV_MIR_RX_CNT { s with fov := { s.fov with partnerHost := hostUp } }
    .next (settle (takeBeat 1 word s1))

/-! Roles (R358, R359) -/

/-- Start-up ends with the role taken (R472): for an active, a valid image or open intents are wake causes. -/
def endStart (s : State) : State :=
  let s1 := setF Reg.SYS_MODE_STARTING 0 s
  let image := s.jnl.images.any (fun p => s.imageValid p.2)
  if s.on Reg.SYS_MODE_STARTING && s.active && s.mode == Mode.parked && (image || !s.jnl.intents.isEmpty) then startWake s1 else s1

/-- The standby role is taken in PARKED. -/
def takeStandby (s : State) : State := endStart (roleChanged s.role 0 (setF Reg.FOV_CTRL_STANDBY_ROLE 1 s))

/-- ROLE_TAKE (R359): 100 ms of listening have passed; RPR_POST.FATAL takes the module to SERVICE instead (R27). A role held through a warm
reset stays (R468). -/
def execRoleTake (s : State) : Result :=
  if s.mode = Mode.parked ∧ (s.role = 0 ∨ s.on Reg.SYS_MODE_STARTING = true) ∧ s.sys.firmwareUp = true then
    let r := beatRole s.partnerWord
    if s.on Reg.RPR_POST_FATAL || s.sys.posConflict then .next (settle (enterService 0 (endStart s)))
    else if s.role ≠ 0 then .next (settle (endStart s))
    else if s.on Reg.FOV_STATUS_ACTIVE_LINE || (s.fov.heard && r == 1) then .next (settle (takeStandby s))
    else if s.fov.heard && r == 0 && !s.preferred then .next s
    else .next (claimLines s)
  else .next s

/-- ACTIVE_CLAIM (R358): a claim by the holder completes at once; a module in a position conflict claims nothing (R474). -/
def execActiveClaim (s : State) : Result :=
  land 0xF0000 .activeClaim (fun t =>
    let t1 := setF Reg.FOV_STATUS_KEEPER_RELEASED 0 (setF Reg.FOV_STATUS_REFUSED 0 t)
    if t1.active || t1.sys.posConflict then t1 else setF Reg.FOV_CTRL_CLAIM 1 t1) s

/-- ACTIVE_CLAIM_DONE (R358, R359): with every sample high the line is held; a module in PARKED that loses the claim takes the
standby role. -/
def execActiveClaimDone (samples : List Bool) (s : State) : Result :=
  if !s.on Reg.FOV_CTRL_CLAIM then .next s
  else
    let s1 := setF Reg.FOV_CTRL_CLAIM 0 s
    let need := claimSamples (s.on Reg.SYS_STRAP_POS)
    if (samples.take need).all id && decide (need ≤ samples.length) then
      let s2 := roleChanged s.role s.fov.partnerReason (setF Reg.FOV_STATUS_ACTIVE_HELD 1 s1)
      .next (settle <| endStart { s2 with fov := { s2.fov with
        tClaim := if s.mode = Mode.takeover then s.clock - s.fov.detectedAt else s2.fov.tClaim } })
    else
      let s2 := setF Reg.FOV_STATUS_REFUSED 1 s1
      .next (settle (if s2.mode = Mode.parked ∧ s2.role = 0 then takeStandby s2 else s2))

/-- ACTIVE_RELEASE (R358): without RELINQUISH. -/
def execActiveRelease (s : State) : Result := land 0xF0000 .activeRelease (releaseActive 0) s

/-- RELINQUISH (R31): REASON is the register's. -/
def execRelinquish (s : State) : Result :=
  land 0xF0000 .relinquish (fun t => relinquish (t.get Reg.FOV_CTRL_REASON) t) s

/-- ACTIVE_LINE_CHANGE (R358, R362): the filtered level changes; a module that waits for the preferred one takes the standby role
once it sees the line low (R359). -/
def execActiveLineChange (low : Bool) (s : State) : Result :=
  if s.on Reg.FOV_STATUS_ACTIVE_LINE = low then .next s
  else
    let s1 := event Reg.FOV_EVENT_ACTIVE_CHANGE Reg.FOV_ACTIVE_CHANGE_CNT (setF Reg.FOV_STATUS_ACTIVE_LINE (b2n low) s)
    let s2 := if low && !s1.active && s1.mode == Mode.parked && s1.role == 0 && s1.sys.firmwareUp && !s1.sys.posConflict then
      takeStandby s1 else s1
    .next (settle s2)

/-- TAKEOVER_COMPLETE (R369): claim made, fans caught, every intent replayed. -/
def execTakeoverComplete (s : State) : Result :=
  if s.mode = Mode.takeover ∧ s.on Reg.FOV_CTRL_HOLD = false ∧ s.active = true ∧ s.fansCaught = true ∧ s.fov.replayed = true
      ∧ s.jnl.intents.isEmpty = true then
    let s1 : State := { s with fov := { s.fov with tServing := (s.clock - s.fov.detectedAt) / 1000 } }
    .next (enterServing (noteCaught s1))
  else .next s

/-! Firmware watchdog and keeper (R363, R471) -/

/-- The journal's format (R476, R477): intents are written in the latched one; MIXED tells of open intents in the other. -/
def showCompat (s : State) : State :=
  let fmt1 := s.on Reg.SYS_STRAP_COMPAT
  setF Reg.SYS_COMPAT_MIXED (b2n (s.jnl.intents.any (fun p => p.2.fmt1 != fmt1))) (setF Reg.SYS_COMPAT_JNL_FMT1 (b2n fmt1) s)

/-- Register fields that MRAM configuration holds are written back (R472). -/
def restoreConfig (l : List (Nat × Nat)) (s : State) : State :=
  { s with regs := l.foldl (fun m p => Assoc.set m p.1 p.2) s.regs, sys := { s.sys with config := none } }

/-- The firmware starts after a reset that reached MRAM's users (R141, R168, R472): the mode is PARKED until the role is taken, MRAM
configuration is restored with every frontier at its last checkpoint, the saved features act, the image is looked at, the address taken. -/
def startFirmware (s : State) : State :=
  match s.sys.config with
  | none => s
  | some l =>
    let s1 := setF Reg.SYS_MODE_STARTING 1 (toMode Mode.parked s)
    let s2 := restoreConfig l s1
    let s3 := restoreFronts s2
    let s4 := forEach s3.cmd.features (fun p t => applyFeature (p.1 / 256) (p.1 % 256) p.2 t) s3
    let s5 := match s4.fab.pref with
      | some a => setF Reg.FAB_ADDR_VALID 1 (setF Reg.FAB_ADDR_ADDR a s4)
      | none => s4
    showCompat (showImage (setF Reg.FAN_CTRL_FIXED_EN 0 (setHold false s5)))

/-- WATCHDOG_KICK (R363, R471): the start has succeeded; firmware that a FIRMWARE_COMMIT activated, or that a fallback started, logs
FIRMWARE_ACTIVATED (R260). -/
def execWatchdogKick (s : State) : Result :=
  land 0xF000C .watchdogKick (fun t =>
    let first := !t.sys.firmwareUp
    let t1 := setF Reg.SYS_BOOT_TRIES 0 (setF Reg.FOV_STATUS_FW_ALIVE 1 t)
    let t2 := startFirmware { t1 with sys := { t1.sys with firmwareUp := true, slotsFailed := [] } }
    let t3 := when (first && (t.cmd.commitCmd.isSome || t.on Reg.SYS_BOOT_FALLBACK)) (logPlain 0xD [t.get Reg.SYS_BOOT_SLOT]) t2
    match t3.cmd.commitCmd with
    | some n => if first then finish n St.success 0 { t3 with cmd := { t3.cmd with commitCmd := none } } else t3
    | none => t3) s

/-- FW_WATCHDOG_EXPIRY (R363). -/
def execFwWatchdogExpiry (s : State) : Result :=
  if s.on Reg.FOV_STATUS_FW_ALIVE then
    .next (event Reg.FOV_EVENT_FW_WDOG Reg.FOV_FW_WDOG_CNT (setF Reg.FOV_STATUS_FW_ALIVE 0 s))
  else .next s

/-- The line path carries beats of a standby that can take over (R363). -/
def State.standbyHeard (s : State) : Bool :=
  let w := s.fov.lineWord
  !s.pathLost 0 && s.fov.heard && beatMode w == Mode.standby && beatRole w == 2 && beatAlive w

/-- KEEPER_RELEASE (R363): the grace period has passed with all conditions met. -/
def execKeeperRelease (s : State) : Result :=
  if !s.on Reg.FOV_STATUS_FW_ALIVE && (s.active || s.on Reg.FAN_TOKEN_HELD) && s.standbyHeard then
    let s1 := setOffset true (fanRelease (abortMembers (setF Reg.SAS_CTRL_ENABLE 0 s)))
    let s2 := sendMir .relinquish [8] (setF Reg.FOV_CTRL_REASON 8 s1)
    let s3 := releaseActive 8 { s2 with fov := { s2.fov with relqLeft := 10, lastReason := 8 } }
    .next (event Reg.FOV_EVENT_KEEPER_RELEASE Reg.FOV_KEEPER_RELEASE_CNT (setF Reg.FOV_STATUS_KEEPER_RELEASED 1 s3))
  else .next s

/-! Planned handover (R370, R371) -/

/-- HANDOVER_BEGIN (R370 step 2): the incoming module raises its bus. -/
def execHandoverBegin (s : State) : Result :=
  if s.mode = Mode.standby ∧ s.fov.handover = 0 then
    .next (setOffset false (bump Reg.FOV_MIR_RX_CNT { s with fov := { s.fov with handover := 3 } }))
  else .next s

/-- POWER_CHECK (R370 step 4, R371). -/
def execPowerCheck (ok : Bool) (s : State) : Result :=
  if s.fov.handover = 3 then
    if ok then .next (sendMir .handover [2] { s with fov := { s.fov with handover := 4 } })
    else
      let s1 := setOffset true (sendMir .handover [3] s)
      let s2 : State := { s1 with fov := { s1.fov with handover := 0, powerFaults := s1.fov.powerFaults + 1, lastAbandon := 1 } }
      .next (settle (enterService 0 s2))
  else .next s

/-- Commands that the outgoing module ends at step 5 of R370: those that have not committed or not finished moving their data, and
committed ones that still wait for the drives. -/
def endForHandover (s : State) : State :=
  let s1 := refuseIo s
  finishAll (s1.cmdsWhere (fun c => c.e.qid != 0 && (!c.final || !c.owed.isEmpty))) St.notActive 0 s1

/-- The data and intents that a module keeps when it becomes standby are copies of what the partner now owns. -/
def keepCopy (s : State) : State :=
  { s with jnl := { s.jnl with
      lines := s.jnl.lines.map (fun l => (l.1, { l.2 with mirrored := l.2.mirrored || l.2.dirty, dirty := false }))
      dueRows := [], demandRows := [], toWt := false } }

/-- HANDOVER_POWER_OK (R370 steps 3, 5 and 6): the outgoing module ends its commands and hands over. -/
def execHandoverPowerOk (s : State) : Result :=
  if s.fov.handover = 1 then
    let toService := s.fov.toService
    let s1 := endForHandover (setOffset true (bump Reg.FOV_MIR_RX_CNT s))
    let s2 := fanRelease (sendMir .handover [4] (abortMembers s1))
    let s3 : State := { s2 with fov := { s2.fov with
      handover := 0, fetchStopped := false, toService := false, lastSwap := s.nowMs, swapDue := false,
      handovers := s2.fov.handovers + 1, holdoffStart := none, holdoffOver := false, lastReason := if toService then 10 else 0 } }
    let s4 := setHold false (showPartnerLive false (keepCopy s3))
    let s5 := releaseActive (if toService then 10 else 0) s4
    let s6 := if toService then enterService 10 s5 else enterStandby (setF Reg.FOV_CTRL_STANDBY_ROLE 1 s5)
    .next (settle (finishRole 5 (finishRole 1 s6)))
  else .next s

/-- HANDOVER_POWER_FAIL (R371): the outgoing module restores its bus and fetches again. -/
def execHandoverPowerFail (s : State) : Result :=
  if s.fov.handover = 1 then .next (settle (abandonHandover 1 (bump Reg.FOV_MIR_RX_CNT s))) else .next s

/-- HANDOVER_COMMIT (R370 step 6): the incoming module claims both lines and enters TAKEOVER. -/
def execHandoverCommit (s : State) : Result :=
  if s.fov.handover = 4 then
    let s1 := enterTakeover (bump Reg.FOV_MIR_RX_CNT s)
    .next (settle { s1 with fov := { s1.fov with
      takeovers := s.fov.takeovers, lastTakeover := s.fov.lastTakeover, handovers := s.fov.handovers + 1, lastSwap := s.nowMs,
      swapDue := false } })
  else .next s

/-! Revert (R372, R373) -/

/-- The conditions of R372 for a revert: `tested` says that the preferred module passed its last SHORT, `persists` that its last
relinquish reason is a fault of R365 that persists. -/
def State.mayRevert (s : State) (tested persists : Bool) : Bool :=
  s.active && !s.preferred && s.partnerLive && tested && !persists && s.mode == Mode.serving && !s.on Reg.FOV_CTRL_HOLD

/-- Both modules are PARKED and the roles may be exchanged without a handover. -/
def State.mayExchange (s : State) : Bool :=
  s.active && !s.preferred && s.mode == Mode.parked && s.fov.heard && beatMode s.partnerWord == Mode.parked

/-- Roles exchanged in PARKED (R372): the active releases both lines and takes the standby role. -/
def exchangeRoles (s : State) : State :=
  let old := s.role
  roleChanged old 0 (setF Reg.FOV_CTRL_STANDBY_ROLE 1 (setF Reg.FOV_STATUS_ACTIVE_HELD 0 (fanRelease s)))

/-- REVERT_HOLDOFF_EXPIRY (R372). -/
def execRevertHoldoffExpiry (tested persists : Bool) (s : State) : Result :=
  if s.mayExchange then .next (exchangeRoles s)
  else if s.fov.holdoffStart.isSome then
    let s1 : State := { s with fov := { s.fov with holdoffStart := none, holdoffOver := true } }
    .next (settle (if s1.mayRevert tested persists then wantHandover false s1 else s1))
  else .next s

/-- SWAP_DUE (R373). -/
def execSwapDue (s : State) : Result := .next { s with fov := { s.fov with swapDue := true } }

/-! HOLD (R374, R375) -/

/-- HOLD ends: the fans run at their demand again, and TAKEOVER goes on at its replay. -/
def leaveHold (s : State) : State :=
  let s1 := demandMoved s (setF Reg.FAN_CTRL_FIXED_EN 0 (setHold false s))
  { s1 with fov := { s1.fov with holdCause := 0 } }

/-- HOLD is in force in TAKEOVER with a cause. -/
def State.inHold (s : State) (cause : Nat) : Bool :=
  s.mode == Mode.takeover && s.on Reg.FOV_CTRL_HOLD && s.fov.holdCause == cause

/-- HOLD_SELF_CHECK (R375). -/
def execHoldSelfCheck (clear : Bool) (s : State) : Result :=
  if s.inHold 1 && clear then .next (settle (leaveHold s)) else .next s

/-- HOLD_UNSYNCED_TIMEOUT (R375): the replay has no source for the partner's intents. -/
def execHoldUnsyncedTimeout (s : State) : Result :=
  if s.inHold 2 then .next (settle (imageLost (leaveHold s))) else .next s

/-! The mirror link (R366, R367) -/

/-- MIRROR_LINK_DOWN (R367): RESYNC_DONE clears, and the partner cannot be live. -/
def execMirrorLinkDown (s : State) : Result :=
  if s.on Reg.FOV_MIR_STATUS_LINK_UP then
    let s1 := setF Reg.FOV_MIR_CTRL_RESYNC_DONE 0 (setF Reg.FOV_MIR_STATUS_LANES 0 (setF Reg.FOV_MIR_STATUS_LINK_UP 0 s))
    let s2 := forceOwner 0x21 (bump Reg.FOV_MIR_LINK_DOWN_CNT s1)
    let s3 : State := { s2 with fov := { s2.fov with resyncing := false, received := [], naks := [], commitsDue := [] } }
    .next (settle (partnerGone s3))
  else .next s

/-- MIRROR_LINK_UP (R367). -/
def execMirrorLinkUp (lanes : Fin 13) (s : State) : Result :=
  if s.on Reg.FOV_MIR_CTRL_ENABLE then
    .next (setF Reg.FOV_MIR_STATUS_LANES lanes.val (setF Reg.FOV_MIR_STATUS_LINK_UP 1 s))
  else .next s

/-- A message of the mirror link is received where the link is up. -/
def receive (k : State → State) (s : State) : Result :=
  if s.on Reg.FOV_MIR_STATUS_LINK_UP then .next (settle (k (bump Reg.FOV_MIR_RX_CNT s))) else .next s

/-- A line that landed from the partner, checked against the sidecar that came with it and reported where it fails (R193). -/
def landLine (l : Nat × (Block × Nat)) (s : State) : State :=
  if crc32c (leBytes 4096 l.2.1) = l.2.2 then
    { s with fov := { s.fov with
      received := Assoc.set s.fov.received l.1 { data := l.2.1, mirrored := true, since := s.clock }
      naks := Assoc.erase s.fov.naks l.1 } }
  else
    sendMir .blockNak [l.1] { s with fov := { s.fov with naks := Assoc.set s.fov.naks l.1 1 } }

/-- Commits whose data has all landed are kept, and reported (R116, R117). -/
def ackCommits (s : State) : State :=
  if s.fov.naks.isEmpty then
    let s1 : State := { s with
      jnl := { s.jnl with lines := s.fov.received.foldl (fun m l => Assoc.set m l.1 l.2) s.jnl.lines }
      fov := { s.fov with received := [], commitsDue := [] } }
    forEach s.fov.commitsDue (fun n t => sendMir .commitAck [n] t) s1
  else s

/-- DATA (R117, R193). -/
def execData (lines : List (Nat × (Block × Nat))) (s : State) : Result :=
  receive (fun t => let t1 := forEach lines landLine t; if t1.fov.commitsDue.isEmpty then t1 else ackCommits t1) s

/-- COMMIT (R117): acknowledged after everything sent before it has landed. -/
def execCommit (number : Nat) (s : State) : Result :=
  receive (fun t => ackCommits { t with fov := { t.fov with commitsDue := t.fov.commitsDue ++ [number] } }) s

/-- COMMIT_ACK (R116, R117). -/
def execCommitAck (number : Nat) (s : State) : Result :=
  receive (fun t =>
    let done := t.jnl.flights.filter (fun f => match f.ack with | some a => decide (a ≤ number) | none => false)
    let t1 := forEach done acknowledge { t with jnl := { t.jnl with commitAcked := max number t.jnl.commitAcked } }
    -- What was sent before the commit has landed: sends of blocks that no waiting commit holds count no further (R193).
    let owed := t1.jnl.flights.flatMap (fun f => f.keys)
    after { t1 with fov := { t1.fov with naks := t1.fov.naks.filter (fun p => owed.contains p.1) } }) s

/-- A journal entry of the partner is written at the same index (R117). -/
def takeEntry (index : Nat) (entry : List Nat) (s : State) : State := readEntry index (writeBytes (entryAt index) (entry.take 256) s)

/-- INTENT (R117): the entry is written at the same index and reported. -/
def execIntent (index : Nat) (entry : List Nat) (s : State) : Result :=
  receive (fun t => sendMir .intentAck [index] (takeEntry index entry t)) s

/-- INTENT_ACK (R124): the update's job may be issued. -/
def execIntentAck (index : Nat) (s : State) : Result :=
  receive (fun t =>
    match t.jnl.updates.find? (fun p => p.2.head == some index && p.2.step == 3) with
    | some (u, _) => after (issueJob u t)
    | none => t) s

/-- CEILING (R117, R120). -/
def execCeiling (mib : Nat) (healthy : Bool) (s : State) : Result :=
  receive (fun t => updateCeiling { t with jnl := { t.jnl with partnerCeiling := mib, partnerPackHealthy := healthy } }) s

/-- A slot of the standby follows the active's (R302, R366): its switch closes or opens with the enables. -/
def followSlot (n : Nat) (en12 en5 spin aw : Bool) (s : State) : State :=
  let held := (s.slot n).tripHeld
  let closed (en : Bool) (bit : Nat) : Bool := en && s.busUp && bitOf held bit == 0
  let s1 := setF (Reg.SLT_CTRL_SPIN n) (b2n spin) (setF (Reg.SLT_CTRL_EN5 n) (b2n en5) (setF (Reg.SLT_CTRL_EN12 n) (b2n en12) s))
  setF (Reg.SAS_SLOT_CTRL_AWAKE n) (b2n aw) (setF (Reg.SLT_STATUS_ON5 n) (b2n (closed en5 1))
    (setF (Reg.SLT_STATUS_ON12 n) (b2n (closed en12 0)) s1))

/-- Slots that are on, as a bitmap: the body of SLOT_ACK. -/
def State.onBits (s : State) : Nat := (allSlots.map (fun n => b2n (s.slotOn n) * 2 ^ n)).sum

/-- SLOT_STATE (R302). -/
def execSlotState (en12 en5 spin awake : Nat) (s : State) : Result :=
  receive (fun t =>
    if t.mode = Mode.standby then
      let t1 := forEach allSlots (fun n u =>
        followSlot n (bitOf en12 n == 1) (bitOf en5 n == 1) (bitOf spin n == 1) (bitOf awake n == 1) u) t
      sendMir .slotAck [t1.onBits] t1
    else t) s

/-- SLOT_STATE_SEND (R366). -/
def execSlotStateSend (s : State) : Result := .next (sendSlotState s)

/-- SLOT_ACK (R302): PARTNER_ON is shown, and a power-off that waited for the report goes on; a slot that the partner has ceased to feed
and this module does not is no longer awake. -/
def execSlotAck (on : Nat) (s : State) : Result :=
  receive (fun t => forEach allSlots (fun n u =>
    let u1 := setF (Reg.SLT_STATUS_PARTNER_ON n) (bitOf on n) u
    let u2 := when (u.on (Reg.SLT_STATUS_PARTNER_ON n)) (dropAwake n) u1
    let w := (u2.slot n).offWait
    if w != 0 && bitOf on n == 0 then openRails n w u2 else u2) t) s

/-- FAN_STATE (R351). -/
def execFanState (chans : List (Nat × Nat)) (s : State) : Result :=
  receive (fun t => forEach chans.zipIdx (fun c u => if c.2 < 6 then storeFanState c.2 c.1.1 c.1.2 u else u) t) s

/-- FAN_STATE_SEND (R351, R366). -/
def execFanStateSend (s : State) : Result :=
  if s.active then
    .next (sendMir .fanState (fanChannels.flatMap (fun c => [(s.fanChan c).loadAngle, (s.fanChan c).loadVec])) s)
  else .next s

/-- Ranges of a lost-block list from the numbers of a CONFIG message. -/
def lostRanges : List Nat → List LostRange
  | row :: d :: first :: vol :: nblk :: t => ⟨row, d, first, vol, nblk⟩ :: lostRanges t
  | _ => []

/-- Pairs from the numbers of a CONFIG message. -/
def pairsOf : List Nat → List (Nat × Nat)
  | a :: b :: t => Assoc.set (pairsOf t) a b
  | _ => []

/-- The active's straps as the first CONFIG message of a resync gives them (R474). -/
def checkStraps (compat shelf : Nat) (s : State) : State :=
  let s1 := if shelf % 64 = s.get Reg.SYS_STRAP_SHELF_ID then s else logPlain 0xB [shelf] s
  if compat % 2 = s.get Reg.SYS_STRAP_COMPAT then s1
  else
    let s2 := event Reg.SYS_EVENT_COMPAT_CONFLICT Reg.SYS_CONFLICT_CNT s1
    if s2.mode = Mode.service then s2 else enterService 0 s2

/-- A CONFIG message takes effect (R366): the codes are those of `State.configArgs`. -/
def takeConfig (what : List Nat) (s : State) : State :=
  match what with
  | [4, j, v, l, p] => setF (Reg.SAS_SUB_VALID j) v (setF (Reg.SAS_SUB_LOGICAL j) l (setF (Reg.SAS_SUB_PHYSICAL j) p s))
  | [5, n, a, b, c, d] =>
    let s1 := when (s.on (Reg.STP_ARRAY_EVAL_BUSY n)) (setF (Reg.STP_ARRAY_EVAL_STALE n) 1) s
    startEval n (forEach [(0, a), (1, b), (2, c), (3, d)] (fun p t => setF (Reg.STP_ARRAY_ERASED_SLOTS n p.1) p.2 t) s1)
  | [6, k, en, mode, n, slot, f] =>
    let s1 := setF (Reg.SAS_RBD_CFG_ENABLE k) en (setF (Reg.SAS_RBD_CFG_MODE k) mode (setF (Reg.SAS_RBD_CFG_ARRAY k) n
      (setF (Reg.SAS_RBD_CFG_SLOT k) slot s)))
    set64 (Reg.SAS_RBD_WIN_LO_WIN k) (Reg.SAS_RBD_WIN_HI_WIN k) 0 (set64 (Reg.SAS_RBD_FRONT_LO_FRONT k) (Reg.SAS_RBD_FRONT_HI_FRONT k) f s1)
  | [7, k, f] =>
    let s1 := set64 (Reg.SAS_RBD_WIN_LO_WIN k) (Reg.SAS_RBD_WIN_HI_WIN k) 0 (set64 (Reg.SAS_RBD_FRONT_LO_FRONT k) (Reg.SAS_RBD_FRONT_HI_FRONT k) f s)
    { s1 with sas := { s1.sas with checkpoints := Assoc.set s1.sas.checkpoints k f } }
  | [8] => { s with jnl := { s.jnl with images := [] } }
  | [9, v] => { s with cmd := { s.cmd with vols := Assoc.erase s.cmd.vols v } }
  | [9, v, a, base, rows] => onVolMeta v (fun m =>
      { m with bound := true, array := a, base := base, rows := rows, formatting := some base }) s
  | [9, v, a, base, rows, next] => onVolMeta v (fun m =>
      { m with bound := true, array := a, base := base, rows := rows, formatting := some next }) s
  | [10, b] => setF Reg.FOV_CTRL_PREF_B b s
  | [11, code, sel, v, save] =>
    let s1 := applyFeature code sel v s
    when (save == 1) (fun t => { t with cmd := { t.cmd with saved := Assoc.set t.cmd.saved (featKey code sel) v } }) s1
  | 12 :: n :: rest => onCare n (fun c => { c with next := pairsOf rest }) s
  | 13 :: n :: rest => onCare n (fun c => { c with lost := lostRanges rest }) s
  | [14, _, compat, shelf] => checkStraps compat shelf s
  | _ => s

/-- CONFIG (R366). -/
def execConfig (what : List Nat) (s : State) : Result := receive (takeConfig what) s

/-- RELINQUISH_MESSAGE (R362). -/
def execRelinquishMessage (reason : Fin 16) (s : State) : Result := receive (hearRelinquish reason.val) s

/-- RESYNC (R367): what a module held before the first message of a resync is replaced by what comes. -/
def execResync (lines : List (Nat × (Block × Nat))) (entries : List (Nat × List Nat)) (s : State) : Result :=
  receive (fun t =>
    let t0 := if t.fov.resyncing then t
      else { discardCopy t with fov := { t.fov with resyncing := true, received := [], naks := [], commitsDue := [] } }
    let t1 := forEach lines landLine t0
    let t2 := if t1.fov.naks.isEmpty then ackCommits t1 else t1
    forEach entries (fun e u => takeEntry e.1 e.2 u) t2) s

/-- The preferred module runs a SHORT self-test when it becomes live as standby (R372). -/
def testPreferred (s : State) : State :=
  if s.preferred && s.cmd.testRunning == 0 then beginTest 1 s else s

/-- RESYNC_COMPLETE (R367): the standby sets RESYNC_DONE, and the preferred one tests itself (R372); a module in HOLD for want of the partner's data
goes on to its replay (R375); an active knows its partner resynchronised. -/
def execResyncComplete (s : State) : Result :=
  if !s.on Reg.FOV_MIR_STATUS_LINK_UP then .next s
  else
    let s1 : State := { s with fov := { s.fov with resyncing := false } }
    if s.active && !s.inHold 2 then .next s1
    else if s.inHold 2 then .next (settle (leaveHold { s1 with fov := { s1.fov with synced := true } }))
    else if s.mode = Mode.standby then
      .next (settle (testPreferred (setF Reg.FOV_MIR_CTRL_RESYNC_DONE 1 { s1 with fov := { s1.fov with synced := true } })))
    else .next s1

/-- BLOCK_NAK (R193): the active checks its own sidecar of the block and sends the block again, which counts; after three failed sends the
partner is no longer live, and a block whose own sidecar fails is settled as R194 has it, without a copy to take (log entry 107). -/
def execBlockNak (key : Nat) (s : State) : Result :=
  receive (fun t0 =>
    let t := setF Reg.INT_EVENT_MIRROR_CRC 1 t0
    let n := Assoc.getD t.fov.naks key 0 + 1
    let line := Assoc.find t.jnl.lines key
    if 3 ≤ n then
      let t1 : State := { t with fov := { t.fov with naks := Assoc.erase t.fov.naks key } }
      let t2 := match line with | some l => when l.bad (settleBlock key l.ver []) t1 | none => t1
      after (partnerGone t2)
    else
      let t1 : State := { t with fov := { t.fov with naks := Assoc.set t.fov.naks key n } }
      match line with
      | some l => bump Reg.INT_MIRROR_CRC_CNT (sendMir .data [keyVol key, keyLba key, l.data, l.sidecar] t1)
      | none => t1) s

end Sys2Proof.Machine
end

