-- ==== Sys2Proof/Machine/Fab.lean ====
section
/-! DEFINITION. The fabric's links, discovery, addresses, routes and power tokens (R380 to R401, chapter 14). -/

namespace Sys2Proof.Machine

/-! Root (R388) -/

/-- Last bleats of the ports that are up, and in PARKED of those turned off (R381). -/
def State.neighbours (s : State) : List (Nat × Bleat) :=
  (([0, 1, 2, 3] : List Nat).filter (fun p => s.portUp p || (s.mode == Mode.parked && (s.port p).trained == 0))).filterMap
    (fun p => (s.port p).last.map (fun b => (p, b)))

/-- The root as this node sees it: UID, distance, and the root port. UID 0 and distance 255 stand for none. -/
def State.rootView (s : State) : Nat × (Nat × Option Nat) :=
  let heard := (s.neighbours.filter (fun x => decide (x.2.rootDist < 254))).map (fun x => (x.2.rootUid, x.2.rootDist + 1, some x.1))
  let all : List (Nat × (Nat × Option Nat)) :=
    (if s.fab.rootElig then [(s.ownUid, 0, none)] else []) ++ heard.filter (fun x => x.1 != s.ownUid)
  all.foldl (fun best x => if x.1 < best.1 ∨ best.2.1 = 255 ∨ (x.1 = best.1 ∧ x.2.1 < best.2.1) then x else best) (0, 255, none)

/-- This node is root. -/
def State.isRoot (s : State) : Bool := s.rootView.2.1 == 0

/-- The root port is written, and in PARKED the ports to keep (R381). -/
def writeRoot (s : State) : State :=
  let rp := s.rootView.2.2
  let s1 := setF Reg.FAB_CTRL_ROOT_PORT_VALID (b2n rp.isSome) (setF Reg.FAB_CTRL_ROOT_PORT (rp.getD 0) s)
  let keep := ([0, 1, 2, 3] : List Nat).filter (fun p => rp == some p || s.neighbours.any (fun x => x.1 == p && x.2.parent))
  setF Reg.FAB_CTRL_KEEP_PORTS (laneBits keep) s1
where laneBits (l : List Nat) : Nat := (l.map (fun i => 2 ^ i)).sum

/-! Bellwether (R396, R399) -/

/-- UID of this node's partner: the neighbour of the same shelf, 0 if none is heard. -/
def State.partnerUid (s : State) : Nat :=
  match s.neighbours.find? (fun x => x.2.shelf == s.get Reg.SYS_STRAP_SHELF_ID && x.2.uid != s.ownUid) with
  | some (_, b) => b.uid
  | none => 0

/-- The bellwether as this node sees it: one that a neighbour names and that is no candidate here, else the best of this node and its
neighbours. -/
def State.bwView (s : State) : Option Nat :=
  let mine := match s.ownAddr? with
    | some a => if s.fab.bwElig then [(s.fab.bwPrio, s.ownUid, a)] else []
    | none => []
  let theirs := (s.neighbours.filter (fun x => x.2.bwElig && decide (x.2.addr < 4096))).map (fun x => (x.2.bwPrio, x.2.uid, x.2.addr))
  let known := (s.neighbours.map (fun x => x.2.addr)) ++ s.ownAddr?.toList
  let named := (s.neighbours.map (fun x => x.2.bwAddr)).filter (fun a => decide (a < 4096) && !known.contains a && s.reach a)
  let best := (mine ++ theirs).foldl (fun (b : Option (Nat × (Nat × Nat))) x =>
    match b with
    | none => some x
    | some y => if y.1 < x.1 ∨ (y.1 = x.1 ∧ x.2.1 < y.2.1) then some x else some y) none
  match named.head? with
  | some a => some a
  | none => best.map (fun b => b.2.2)

/-- A holder reports to the bellwether (R398). Its measured draw is not the model's to know. -/
def tokenReport (s : State) : State :=
  let w := s.get Reg.PWR_BUDGET_GRANT_W
  if w = 0 then s else useFree (askBellwether .tokenReport [w, s.freeVal 16] s)

/-- The elected bellwether changes (R399): holders report to it, a wake that waits asks again, and it starts its own office here if it is
this node. -/
def electBellwether (s : State) : State :=
  let new := s.bwView
  if new = s.fab.bellwether then s
  else
    let own := new.isSome && new == s.ownAddr?
    let s1 : State := { s with fab := { s.fab with
      bellwether := new
      office := if own then some s.clock else none
      granting := own && s.fab.nReg == 0
      ledger := [], queue := [], reported := [] } }
    let s2 := tokenReport (hostEvent 4 s1)
    match s2.sys.wakeBudget with
    | some need => askTokens (s2.wakeReq s2.pwr.wakeSet.length) need (if s2.jnl.intents.isEmpty then 1 else 0) s2
    | none => s2

/-! Addresses (R389, R390) -/

/-- The address that the root grants a node: its preference where no other reachable node holds it, the lowest one never assigned, or
that of the holder unheard the longest, for 7 days at least. -/
def State.grantAddr (s : State) (uid : Nat) (pref : Option Nat) : Option Nat :=
  let heldBy (a : Nat) : Bool := s.fab.nodes.any (fun n => n.addr == a && n.uid != uid && s.reach a) || (s.ownAddr? == some a && uid != s.ownUid)
  let wanted := pref.filter (fun a => decide (a < 4096) && !heldBy a)
  match wanted with
  | some a => some a
  | none =>
    match (List.range 4096).find? (fun a => (Assoc.find s.fab.table a).isNone && s.ownAddr? != some a) with
    | some a => some a
    | none =>
      let old := s.fab.table.filter (fun e => decide (e.2.2 + sec 604800 ≤ s.clock))
      (old.foldl (fun (b : Option (Nat × (Nat × Nat))) e => match b with | none => some e | some y => if e.2.2 < y.2.2 then some e else some y) none).map Prod.fst

/-- An assignment stands in the root's table. -/
def noteTable (a uid : Nat) (s : State) : State :=
  { s with fab := { s.fab with table := Assoc.set s.fab.table a (uid, s.clock) } }

/-- The node takes an address (R389): it is stored as its preference, and its LSA goes out. -/
def takeAddr (a : Nat) (s : State) : State :=
  let s1 := setF Reg.FAB_ADDR_VALID 1 (setF Reg.FAB_ADDR_ADDR a s)
  electBellwether (hostEvent 4 (floodLsa { s1 with fab := { s1.fab with pref := some a, refused := false, asked := false } }))

/-- A node without an address asks for one (R389): the root gives itself one, another node asks through a neighbour that has one. -/
def needAddr (s : State) : State :=
  if s.ownAddr?.isSome || s.fab.refused || !s.sys.firmwareUp then s
  else if s.isRoot then
    match s.grantAddr s.ownUid s.fab.pref with
    | some a => takeAddr a (noteTable a s.ownUid s)
    | none => { s with fab := { s.fab with refused := true } }
  else if s.fab.asked || s.rootView.2.1 == 255 then s
  else match s.neighbours.find? (fun x => decide (x.2.addr < 4096)) with
    | some (p, _) => sendLocal p .addrReq [s.ownUid, s.fab.pref.getD 0xFFFF] { s with fab := { s.fab with asked := true } }
    | none => s

/-- What changed on the fabric is acted on: routes, root, bellwether, address, and records that can now be shipped. -/
def fabRefresh (s : State) : State := shipDeltas false (needAddr (electBellwether (writeRoot (writeRoutes s))))

/-- The address that a node shows joins the root's table (R389); of two nodes with one address, the one already in the table keeps it and
the other gets a new one (R390). -/
def noteAddr (uid a : Nat) (s : State) : State :=
  if a ≥ 4096 then s
  else
    let clash := match Assoc.find s.fab.table a with
      | some (u, _) => u != uid && s.isRoot && (u == s.ownUid || s.fab.nodes.any (fun n => n.uid == u && n.addr == a))
      | none => s.isRoot && s.ownAddr? == some a
    if clash then
      match s.grantAddr uid none with
      | some b => floodFrame .addrAssign none [uid, b] (noteTable b uid s)
      | none => s
    else noteTable a uid s

/-! The receive ring (R385 to R387) -/

/-- A frame delivered to the RX ring; one that finds no posted buffer is dropped. The firmware takes it at once, posts its buffer again and
acts on it. -/
def rxDeliver (port : Nat) (f : Frame) (k : State → State) (s : State) : State :=
  let size := s.get Reg.FAB_RX_CFG_SIZE_M1 + 1
  let h := s.get Reg.FAB_RX_HEAD_HEAD
  if !s.on Reg.FAB_RX_CFG_ENABLE || h == s.get Reg.FAB_RX_TAIL_TAIL then dropFrame s
  else
    let e := s.get64 Reg.FAB_RX_BASE_LO_BASE Reg.FAB_RX_BASE_HI_BASE + 16 * h
    let bytes := frameHeader f ++ f.payload
    let phase := Assoc.getD s.oxe.phases 17 1
    let s1 := writeBytes (e + 8) (leBytes 2 bytes.length ++ [port, 0, 0, 0, 0, phase]) (writeBytes (leNat (s.readBytes e 8)) bytes s)
    let s2 := event Reg.FAB_EVENT_RX Reg.FAB_RX_FRAME_CNT (setF Reg.FAB_RX_HEAD_HEAD ((h + 1) % size) s1)
    let s3 := when (h + 1 == size) (fun u => { u with oxe := { u.oxe with phases := Assoc.set u.oxe.phases 17 (1 - phase) } }) s2
    if s3.sys.firmwareUp then
      k (setF Reg.FAB_RX_CQ_HEAD_CQ_HEAD ((h + 1) % size) (setF Reg.FAB_RX_TAIL_TAIL ((s3.get Reg.FAB_RX_TAIL_TAIL + 1) % size) s3))
    else s3

/-- Frames that an acknowledgement covers leave the replay buffer, and waiting ones follow (R384). -/
def ackUpTo (p ack : Nat) (s : State) : State :=
  let x := s.port p
  let left := x.unacked.filter (fun f => decide (32768 ≤ (ack + 65536 - f.lseq) % 65536))
  if left.length = x.unacked.length then s
  else pumpPort p 128 (onPort p (fun y => { y with unacked := left, replays := 0 }) s)

/-- A frame has come in in order: it is acknowledged (R384). -/
def ackIn (p : Nat) (s : State) : State :=
  let s1 := onPort p (fun y => { y with expect := (y.expect + 1) % 65536, nakked := false }) s
  sendLocal p .linkCtl [(s.port p).expect] s1

/-- A frame for this node arrives, good and in order, through a port that is up, or from the node itself. -/
def arrive (p : Option (Fin 4)) (f : Frame) (k : State → State) (s : State) : Result :=
  match p with
  | none => if s.on Reg.FAB_CTRL_ENABLE && s.ownAddr?.isSome then .next (after (rxDeliver 0 f k s)) else .next s
  | some q =>
    if s.on Reg.FAB_CTRL_ENABLE && s.portUp q.val then
      let s1 := bump (Reg.FAB_PORT_RX_CNT q.val) s
      .next (after (rxDeliver q.val f k (if f.linkLocal then s1 else ackIn q.val s1)))
    else .next s

/-- The header of a frame of a kind that a node sent to this one. -/
def State.frameFrom (s : State) (k : FabKind) (src xseq : Nat) : Frame :=
  { type := k, dst := s.addr16 % 4096, cls := frameClass k, src := src, xseq := xseq }

/-! Links (R380 to R384) -/

/-- The widest set of lanes of a port that uses no failed lane (R460). -/
def State.fabLanes (s : State) (p : Nat) : Nat :=
  let good (l : Nat) : Bool := !s.rpr.lanes.contains (4 * p + l)
  if good 0 && good 1 && good 2 && good 3 then 4
  else if (good 0 && good 1) || (good 2 && good 3) then 2
  else if good 0 || good 1 || good 2 || good 3 then 1 else 0

/-- FABRIC_LINK_UP (R380): the port has trained; it counts as up once it has carried two good bleats (R382). In PARKED lane 0 of a kept port
trains; a link that ran at the parked rate goes on at its full width once PARKED is left (R381). A port whose cable does not identify as passive
copper stays down, and the event log records the cable's type (R483); the spec gives that event no code (log entry 95). -/
def execFabricLinkUp (p : Fin 4) (lanes : Nat) (passive : Bool) (cable : Nat) (s : State) : Result :=
  let parked := s.mode == Mode.parked
  let fit := if parked then min 1 (s.fabLanes p.val) else min lanes (s.fabLanes p.val)
  let w := if fit = 3 then 2 else fit
  if !passive then .next (useFree (logPlain (s.freeVal 8) [cable] s))
  else if !s.on Reg.FAB_CTRL_ENABLE || !(lanes == 1 || lanes == 2 || lanes == 4) || w == 0 then .next s
  else if (s.port p.val).trained == 0 then
    .next (if parked && !s.kept p.val then s else onPort p.val (fun y => { trained := w, downs := y.downs }) s)
  else if !parked && s.on (Reg.FAB_PORT_STATUS_SLOW p.val) then
    .next (after (fabRefresh (floodLsa (setF (Reg.FAB_PORT_STATUS_SLOW p.val) 0 (setF (Reg.FAB_PORT_STATUS_LANES p.val) w
      (onPort p.val (fun y => { y with trained := w }) s))))))
  else .next s

/-- A port is marked down (R382): its unacknowledged frames take another route (R384). -/
def portDown (p : Nat) (s : State) : State :=
  let x := s.port p
  if x.trained = 0 then s
  else
    let up := s.portUp p
    let s1 := setF (Reg.FAB_PORT_STATUS_SLOW p) 0 (setF (Reg.FAB_PORT_STATUS_LANES p) 0 (setF (Reg.FAB_PORT_STATUS_LINK_UP p) 0
      (onPort p (fun y => { downs := y.downs + b2n up }) s)))
    if up then
      let s2 := event Reg.FAB_EVENT_LINK_DOWN Reg.FAB_LINK_DOWN_CNT s1
      let s3 := forEach ((x.unacked ++ x.waiting).filter (fun f => !f.flood)) routeFrame s2
      fabRefresh (floodLsa s3)
    else s1

/-- FABRIC_LINK_DOWN (R382). -/
def execFabricLinkDown (p : Fin 4) (s : State) : Result := .next (settle (portDown p.val s))

/-- FABRIC_BLEAT_TIMEOUT (R382). -/
def execFabricBleatTimeout (p : Fin 4) (s : State) : Result := .next (settle (portDown p.val s))

/-- PARKED_LISTEN (R381): lane 0 of a port that is not kept wakes for 10 ms. -/
def execParkedListen (p : Fin 4) (s : State) : Result :=
  if s.mode = Mode.parked ∧ s.on Reg.FAB_CTRL_ENABLE = true ∧ s.kept p.val = false ∧ s.portUp p.val = false then
    .next (onPort p.val (fun x => { x with listening := true, trained := min 1 (s.fabLanes p.val) }) s)
  else .next s

/-! Bleats (R387) -/

/-- The bleat that describes this node, on one port. -/
def State.ownBleat (s : State) : Bleat :=
  let r := s.rootView
  { uid := s.ownUid, addr := s.addr16, pref := s.fab.pref.getD 0xFFFF, rootUid := r.1, rootDist := r.2.1, rootElig := s.fab.rootElig,
    bwElig := s.fab.bwElig, parked := s.mode == Mode.parked, parent := false, bwPrio := s.fab.bwPrio, mode := s.mode,
    bwAddr := s.fab.bellwether.getD 0xFFFF, port := 0, shelf := s.get Reg.SYS_STRAP_SHELF_ID, partner := s.partnerUid,
    lsaSeq := s.fab.lsaSeq, budgetVer := s.fab.version }

/-- The firmware keeps the template current. -/
def writeTemplate (s : State) : State :=
  let bytes := bleatBytes s.ownBleat
  forEach (List.range 12) (fun k t => setF (Reg.FAB_BLEAT_TPL_BYTES k) (leNat ((bytes.drop (4 * k)).take 4)) t) s

/-- The payload that the hardware sends on a port: the template with PARENT and PORT replaced. -/
def State.bleatOn (s : State) (p : Nat) : List Nat :=
  let bytes := (List.range 12).flatMap (fun k => leBytes 4 (s.get (Reg.FAB_BLEAT_TPL_BYTES k)))
  let parent := s.on Reg.FAB_CTRL_ROOT_PORT_VALID && s.get Reg.FAB_CTRL_ROOT_PORT == p
  (bytes.set 21 (setBit (bytes.getD 21 0) 3 parent)).set 26 p

/-- BLEAT_SEND (R387): on every port that has trained, in PARKED on the kept ones. -/
def execBleatSend (s : State) : Result :=
  if s.on Reg.FAB_CTRL_ENABLE && s.on Reg.FAB_CTRL_BLEAT_EN then
    let s1 := if s.sys.firmwareUp then writeTemplate s else s
    let ports := ([0, 1, 2, 3] : List Nat).filter (fun p => (s.port p).trained != 0 && (s.mode != Mode.parked || s.kept p))
    .next (forEach ports (fun p t => sendLocal p .bleat (t.bleatOn p) t) s1)
  else .next s

/-- The firmware acts on a bleat whose payload is new: the node's record, the root's table, an older budget record (R395). -/
def heardBleat (p : Nat) (b : Bleat) (s : State) : State :=
  let s1 := onNode b.uid (fun n => { n with addr := b.addr, mode := b.mode, partner := b.partner, heard := s.clock }) s
  let s2 := noteAddr b.uid b.addr s1
  let s3 := if b.budgetVer < s2.fab.version ∧ s2.portUp p = true then
      putOut p { type := .budget, flood := true, src := s2.addr16 % 4096,
                 payload := [s2.fab.budgetW, s2.fab.isolatedW, s2.fab.nReg, s2.fab.version, s2.fab.versionUid] } s2
    else s2
  fabRefresh s3

/-- BLEAT (R382, R387): `good` says that its CRC is right. The second good one since training brings the port up; a listening port that
hears two comes to be kept. -/
def execBleat (p : Fin 4) (good : Bool) (b : Bleat) (s : State) : Result :=
  let x := s.port p.val
  if !s.on Reg.FAB_CTRL_ENABLE || x.trained == 0 || (s.mode == Mode.parked && !s.kept p.val && !x.listening) then .next s
  else if !good then .next (bump (Reg.FAB_PORT_CRC_ERR_CNT p.val) s)
  else
    let s1 := setF (Reg.FAB_PORT_STATUS_NEIGH_ADDR p.val) b.addr
      (set64 (Reg.FAB_PORT_NEIGH_UID_LO_UID p.val) (Reg.FAB_PORT_NEIGH_UID_HI_UID p.val) b.uid (bump (Reg.FAB_PORT_RX_CNT p.val) s))
    let n := min 2 (x.good + 1)
    let s2 := onPort p.val (fun y => { y with good := n, last := some b }) s1
    let comesUp := n == 2 && !s.portUp p.val
    let s3 := if comesUp then
        let t := setF (Reg.FAB_PORT_STATUS_SLOW p.val) (b2n (s.mode == Mode.parked)) (setF (Reg.FAB_PORT_STATUS_LANES p.val) x.trained
          (setF (Reg.FAB_PORT_STATUS_LINK_UP p.val) 1 (onPort p.val (fun y => { y with listening := false }) s2)))
        let t1 := when x.listening (setF Reg.FAB_CTRL_KEEP_PORTS (s.get Reg.FAB_CTRL_KEEP_PORTS ||| 2 ^ p.val)) t
        floodLsa (event Reg.FAB_EVENT_LINK_UP Reg.FAB_LINK_UP_CNT t1)
      else s2
    let f : Frame := { type := .bleat, linkLocal := true, src := b.addr % 4096, payload := bleatBytes b }
    if x.last != some b || comesUp then .next (after (rxDeliver p.val f (heardBleat p.val b) s3)) else .next s3

/-! The link protocol (R384) and forwarding (R385) -/

/-- Unacknowledged frames are sent again; the sixteenth time in a row without progress marks the link down. -/
def replayPort (p : Nat) (s : State) : State :=
  let x := s.port p
  if x.unacked.isEmpty then s
  else
    let s1 := onPort p (fun y => { y with replays := y.replays + 1 }) (bump (Reg.FAB_PORT_REPLAY_CNT p) s)
    if 16 ≤ x.replays + 1 then portDown p s1 else forEach x.unacked (sendOut p) s1

/-- LINK_CTL (R384): a cumulative acknowledgement, and a NAK. -/
def execLinkCtl (p : Fin 4) (ack : Nat) (nak : Option Nat) (s : State) : Result :=
  if s.on Reg.FAB_CTRL_ENABLE && s.portUp p.val then
    let s1 := ackUpTo p.val ack (bump (Reg.FAB_PORT_RX_CNT p.val) s)
    match nak with
    | some _ => .next (settle (replayPort p.val s1))
    | none => .next s1
  else .next s

/-- LINK_REPLAY (R384): 8 µs have passed without acknowledgement progress. -/
def execLinkReplay (p : Fin 4) (s : State) : Result :=
  if s.portUp p.val then .next (settle (replayPort p.val s)) else .next s

/-- A NAK names the first LSEQ that is lacking, once. -/
def sendNak (p : Nat) (s : State) : State :=
  let x := s.port p
  if x.nakked then s
  else sendLocal p .linkCtl [(x.expect + 65535) % 65536, x.expect] (onPort p (fun y => { y with nakked := true }) s)

/-- A frame on its way through this node (R385): delivered, flooded, routed or dropped. -/
def forwardFrame (p : Nat) (f : Frame) (s : State) : State :=
  let known := match f.type with | .other _ => false | _ => true
  if f.linkLocal ∨ (f.flood = false ∧ s.ownAddr? = some f.dst) then (if known then rxDeliver p f id s else dropFrame s)
  else if f.hops = 0 then dropFrame s
  else
    let f1 : Frame := { f with hops := f.hops - 1 }
    if f.flood then
      let s1 := bump Reg.FAB_FWD_CNT (forEach (s.upPorts.filter (fun q => q != p)) (fun q t => putOut q f1 t) s)
      if known then rxDeliver p f id s1 else s1
    else routeFrame f1 (when (s.hop f.dst).isSome (bump Reg.FAB_FWD_CNT) s)

/-- FRAME_FORWARD (R384, R385): a frame arrives; `good` says that its CRC is right. One that is bad or out of order is answered with a NAK,
one that came before is acknowledged again. -/
def execFrameForward (p : Fin 4) (good : Bool) (f : Frame) (s : State) : Result :=
  if !s.on Reg.FAB_CTRL_ENABLE || !s.portUp p.val then .next s
  else if !good then .next (sendNak p.val (bump (Reg.FAB_PORT_CRC_ERR_CNT p.val) s))
  else
    let s1 := bump (Reg.FAB_PORT_RX_CNT p.val) s
    let x := s1.port p.val
    if f.linkLocal then .next (forwardFrame p.val f s1)
    else if f.lseq = x.expect then
      let s2 := if f.ackValid then ackUpTo p.val f.lack (ackIn p.val s1) else ackIn p.val s1
      .next (forwardFrame p.val f s2)
    else if (x.expect + 65536 - f.lseq) % 65536 < 32768 then .next (sendLocal p.val .linkCtl [(x.expect + 65535) % 65536] s1)
    else .next (sendNak p.val s1)

/-- A frame of the TX ring, from its buffer: the hardware fills SRC, LSEQ, LACK, HOPS and the CRC. -/
def State.txFrame (s : State) (buf len : Nat) : Frame :=
  let h := s.readBytes buf 16
  let flags := h.getD 1 0
  let dst := leNat ((h.drop 2).take 2)
  { type := frameKind (h.getD 0 0), linkLocal := bitOf flags 0 == 1, flood := bitOf flags 1 == 1, dst := dst % 4096, cls := bits dst 12 2,
    src := s.addr16 % 4096, xseq := leNat ((h.drop 14).take 2), payload := s.readBytes (buf + 16) (len - 16) }

/-- Entries from HEAD up to TAIL are sent, at most `n`. -/
def sendRing : Nat → State → State
  | 0, s => s
  | n + 1, s =>
    let h := s.get Reg.FAB_TX_HEAD_HEAD
    if h = s.get Reg.FAB_TX_TAIL_TAIL then s
    else
      let e := s.get64 Reg.FAB_TX_BASE_LO_BASE Reg.FAB_TX_BASE_HI_BASE + 16 * h
      let f := s.txFrame (leNat (s.readBytes e 8)) (leNat (s.readBytes (e + 8) 2))
      let s1 := setF Reg.FAB_TX_HEAD_HEAD ((h + 1) % (s.get Reg.FAB_TX_CFG_SIZE_M1 + 1)) s
      sendRing n (
        if f.flood then forEach s1.upPorts (fun q t => putOut q f t) s1
        else if s1.ownAddr? = some f.dst ∧ f.linkLocal = false then emit (.fabric none f) s1
        else routeFrame f s1)

/-- FAB_TX_TAIL (R385). -/
def execFabTxTail (tail : Nat) (s : State) : Result :=
  land 0x10018C (.fabTxTail tail) (fun t =>
    if t.get Reg.FAB_TX_CFG_SIZE_M1 < tail then ignored 7 0 t
    else
      let t1 := setF Reg.FAB_TX_TAIL_TAIL tail t
      if t1.on Reg.FAB_TX_CFG_ENABLE && t1.on Reg.FAB_CTRL_ENABLE then sendRing 2048 t1 else t1) s

/-! Routing messages (R391) -/

/-- LSA (R391): one that is newer than the last held of its origin is stored and flooded on. -/
def execLsa (p : Fin 4) (uid addr seq : Nat) (links : List LsaLink) (s : State) : Result :=
  let payload := lsaBytes uid addr seq links
  let f : Frame := { s.frameFrom .lsa addr 0 with flood := true, payload := payload }
  arrive (some p) f (fun t =>
    let held := (t.fab.nodes.find? (fun n => n.uid == uid)).bind (fun n => n.lsa)
    let old := match held with | some q => decide (seq ≤ q) | none => false
    if uid == t.ownUid || old then t
    else
      let t1 := onNode uid (fun n => { n with addr := addr, lsa := some seq, links := links, heard := t.clock }) t
      fabRefresh (floodFrame .lsa (some p.val) payload (noteAddr uid addr t1))) s

/-- LSA_REFRESH (R391): every 30 s. -/
def execLsaRefresh (s : State) : Result :=
  if s.on Reg.FAB_CTRL_ENABLE && s.sys.firmwareUp then .next (floodLsa s) else .next s

/-- LSA_EXPIRY (R391): an LSA that was not refreshed for 90 s is discarded. -/
def execLsaExpiry (uid : Nat) (s : State) : Result :=
  if s.fab.nodes.any (fun n => n.uid == uid && n.lsa.isSome) then
    .next (settle (fabRefresh (onNode uid (fun n => { n with lsa := none, links := [] }) s)))
  else .next s

/-! Address messages (R389) -/

/-- An assignment, or a refusal as 0xFFFF, goes back the way the request came. -/
def answerAddr (p : Nat) (src : Option Nat) (uid : Nat) (a : Option Nat) (s : State) : State :=
  match src with
  | some d => sendFrame .addrAssign d 0 [uid, a.getD 0xFFFF] s
  | none => sendLocal p .addrAssign [uid, a.getD 0xFFFF] s

/-- The address that the root grants is noted in its table. -/
def noteGiven (a : Option Nat) (uid : Nat) (s : State) : State :=
  match a with
  | some x => noteTable x uid s
  | none => s

/-- A request goes on to the root, and the port it came from is kept for the answer; without a route to the root it ends here. -/
def relayAddr (p uid pref : Nat) (s : State) : State :=
  match s.fab.nodes.find? (fun n => n.uid == s.rootView.1) with
  | none => s
  | some root =>
    if s.ownAddr?.isNone then s
    else sendFrame .addrReq root.addr 0 [uid, pref] { s with fab := { s.fab with relays := Assoc.set s.fab.relays uid p } }

/-- ADDR_REQ (R389): link-local from a neighbour, or relayed by the node `src`. -/
def execAddrReq (p : Fin 4) (src : Option Nat) (uid pref : Nat) (s : State) : Result :=
  let f : Frame := { s.frameFrom .addrReq (src.getD 0) 0 with linkLocal := src.isNone }
  arrive (some p) f (fun t =>
    if t.isRoot then
      let a := t.grantAddr uid (if pref < 4096 then some pref else none)
      answerAddr p.val src uid a (noteGiven a uid t)
    else relayAddr p.val uid pref t) s

/-- ADDR_ASSIGN (R389, R390): for this node, or for one whose request it relayed. -/
def execAddrAssign (p : Fin 4) (src : Option Nat) (uid : Nat) (addr : Option Nat) (s : State) : Result :=
  let f : Frame := { s.frameFrom .addrAssign (src.getD 0) 0 with linkLocal := src.isNone }
  arrive (some p) f (fun t =>
    if uid = t.ownUid then
      match addr with
      | some a => takeAddr a t
      | none => { t with fab := { t.fab with refused := true, asked := false } }
    else
      match Assoc.find t.fab.relays uid with
      | some q => sendLocal q .addrAssign [uid, addr.getD 0xFFFF] { t with fab := { t.fab with relays := Assoc.erase t.fab.relays uid } }
      | none => t) s

/-- ADDR_RETRY (R389): a refused node asks again. -/
def execAddrRetry (s : State) : Result :=
  if s.fab.refused then .next (settle (needAddr { s with fab := { s.fab with refused := false, asked := false } })) else .next s

/-! The budget record (R395, R396) -/

/-- The record's values as a BUDGET frame carries them. -/
def State.budgetValues (s : State) : List Nat := [s.fab.budgetW, s.fab.isolatedW, s.fab.nReg, s.fab.version, s.fab.versionUid]

/-- The bellwether raises the version and floods the record. -/
def publishBudget (f : FabPart → FabPart) (s : State) : State :=
  let b := f s.fab
  let s1 : State := { s with fab := { b with version := s.fab.version + 1, versionUid := s.ownUid } }
  floodFrame .budget none s1.budgetValues s1

/-- SET_BUDGET commands that wait complete with the new version (R414). -/
def finishBudget (s : State) : State :=
  let due := (s.fab.cmds.filter (fun c => c.2 == 1)).map Prod.fst
  finishAll due St.success s.fab.version { s with fab := { s.fab with cmds := s.fab.cmds.filter (fun c => c.2 != 1) } }

/-- FORGET_NODE commands that wait complete once the record has changed. -/
def finishForget (s : State) : State :=
  let due := (s.fab.cmds.filter (fun c => c.2 == 7)).map Prod.fst
  finishAll due St.success 0 { s with fab := { s.fab with cmds := s.fab.cmds.filter (fun c => c.2 != 7) } }

/-- A node leaves the registered ones (R396). -/
def forgetNode (uid : Nat) (s : State) : State :=
  if s.fab.registered.contains uid || s.fab.nReg != 0 then
    publishBudget (fun b => { b with nReg := b.nReg - 1, registered := remove b.registered uid }) s
  else s

/-- This node is the bellwether. -/
def State.isBellwether (s : State) : Bool := s.fab.bellwether.isSome && s.fab.bellwether == s.ownAddr?

/-- The numbers of a request to the bellwether that travels in a BUDGET frame. -/
def budgetAsk : BudgetMsg → List Nat
  | .record w i n v u => [0, w, i, n, v, u]
  | .set src w i => [1, src, w, i]
  | .forget src uid => [2, src, uid]

/-- BUDGET (R395): the higher version wins, at equal versions the record of the lower UID; what wins is stored and flooded on. The
bellwether acts on what another node asks. -/
def execBudget (p : Option (Fin 4)) (msg : BudgetMsg) (s : State) : Result :=
  arrive p { s.frameFrom .budget 0 0 with flood := match msg with | .record _ _ _ _ _ => true | _ => false } (fun t =>
    match msg with
    | .record w i n v u =>
      if t.fab.version < v ∨ (v = t.fab.version ∧ u < t.fab.versionUid) then
        let t1 : State := { t with fab := { t.fab with budgetW := w, isolatedW := i, nReg := n, version := v, versionUid := u } }
        finishForget (finishBudget (floodFrame .budget (p.map Fin.val) t1.budgetValues t1))
      else t
    | .set _ w i => if t.isBellwether then finishBudget (publishBudget (fun b => { b with budgetW := w, isolatedW := i }) t) else t
    | .forget _ uid => if t.isBellwether then finishForget (forgetNode uid t) else t) s

/-- NODE_UNHEARD_EXPIRY (R396). -/
def execNodeUnheardExpiry (uid : Nat) (s : State) : Result :=
  if s.isBellwether && s.fab.registered.contains uid then .next (forgetNode uid s) else .next s

/-! The bellwether (R397 to R401) -/

/-- The bellwether reaches more than half as many nodes as are registered (R399 step 5). -/
def State.quorum (s : State) : Bool :=
  decide (s.fab.nReg < 2 * (1 + (s.fab.nodes.filter (fun n => n.uid != s.ownUid && s.reach n.addr)).length))

/-- A node unreachable and unheard for 62 s counts as holding ISOLATED_W (R400). -/
def State.isolated (s : State) (uid : Nat) : Bool :=
  match s.fab.nodes.find? (fun n => n.uid == uid) with
  | some n => uid != s.ownUid && !s.reach n.addr && decide (n.heard + sec 62 ≤ s.clock)
  | none => uid != s.ownUid

/-- Tokens that count as held: the ledger's, with isolated nodes at ISOLATED_W. -/
def State.heldTokens (s : State) : Nat :=
  let iso := s.fab.isolatedW / 10
  let listed := s.fab.ledger.map (fun e => if s.isolated e.2.uid then iso else e.2.held)
  let others := s.fab.registered.filter (fun u => s.isolated u && !s.fab.ledger.any (fun e => e.2.uid == u))
  listed.sum + others.length * iso

/-- The UID behind an address. -/
def State.uidOf (s : State) (a : Nat) : Nat :=
  if s.ownAddr? = some a then s.ownUid else match s.fab.nodes.find? (fun n => n.addr == a) with | some n => n.uid | none => 0

/-- A holding of an address in tokens. -/
def State.heldBy (s : State) (a : Nat) : Nat := match Assoc.find s.fab.ledger a with | some h => h.held | none => 0

/-- A grant goes out (R398): the ledger holds it with a lease of 60 s, and a node that holds tokens for the first time is registered
(R396). -/
def grantTo (a xseq tokens : Nat) (s : State) : State :=
  let uid := s.uidOf a
  let s1 : State := { s with fab := { s.fab with ledger := Assoc.set s.fab.ledger a ⟨uid, tokens, s.clock + sec 60⟩ } }
  let s2 := if tokens = 0 ∨ s.fab.registered.contains uid = true then s1
    else if s.fab.registered.length < s.fab.nReg then { s1 with fab := { s1.fab with registered := s1.fab.registered ++ [uid] } }
    else publishBudget (fun b => { b with nReg := b.nReg + 1, registered := b.registered ++ [uid] }) s1
  sendFrame .tokenGrant a xseq [tokens * 10, 60000] s2

/-- What a request would be granted now, if anything (R397). -/
def State.grantFor (s : State) (r : TokenReq) : Option Nat :=
  if s.fab.budgetW = 0 then some r.want
  else
    let held := s.heldBy r.src
    let room := held + (s.fab.budgetW / 10 - s.heldTokens)
    if r.want ≤ room then some r.want else if r.min ≤ room then some room else none

/-- Queued requests are served in class order, and in a class by arrival; one that cannot be met holds back all behind it (R397). -/
def serveList : List TokenReq → State → State
  | [], s => s
  | r :: rest, s =>
    match s.grantFor r with
    | some n => serveList rest (grantTo r.src r.xseq n { s with fab := { s.fab with queue := s.fab.queue.erase r } })
    | none => s
def serveQueue (s : State) : State :=
  if s.isBellwether && s.fab.granting && s.quorum then
    serveList ([0, 1, 2].flatMap (fun c => s.fab.queue.filter (fun r => r.cls == c))) s
  else s

/-- TOKEN_REQ (R397). -/
def execTokenReq (p : Option (Fin 4)) (src xseq want min cls : Nat) (s : State) : Result :=
  arrive p (s.frameFrom .tokenReq src xseq) (fun t =>
    if t.isBellwether then
      serveQueue { t with fab := { t.fab with queue := t.fab.queue ++ [⟨src, xseq, want, min, Nat.min cls 2⟩] } }
    else t) s

/-- TOKEN_REPORT (R398, R399): the lease is renewed, cut in proportion where more is held than the budget. -/
def execTokenReport (p : Option (Fin 4)) (src xseq heldW _drawDw : Nat) (s : State) : Result :=
  arrive p { s.frameFrom .tokenReport src xseq with payload := [] } (fun t =>
    if !t.isBellwether then t
    else
      let uid := t.uidOf src
      let known := t.fab.reported.contains uid || (Assoc.find t.fab.ledger src).isSome
      let held := if known then t.heldBy src else heldW / 10
      let t1 : State := { t with fab := { t.fab with
        reported := addOnce t.fab.reported uid
        registered := if heldW = 0 then t.fab.registered else addOnce t.fab.registered uid
        ledger := Assoc.set t.fab.ledger src ⟨uid, held, t.clock + sec 60⟩ } }
      let t2 : State := { t1 with fab := { t1.fab with granting := t1.fab.granting || decide (t1.fab.nReg ≤ t1.fab.reported.length) } }
      if t2.quorum then
        let sum := t2.heldTokens * 10
        let n := if t2.fab.budgetW ≠ 0 ∧ t2.fab.budgetW < sum then held * 10 * t2.fab.budgetW / sum / 10 else held
        serveQueue (grantTo src xseq n t2)
      else t2) s

/-- TOKEN_RELEASE (R398). -/
def execTokenRelease (p : Option (Fin 4)) (src : Nat) (s : State) : Result :=
  arrive p (s.frameFrom .tokenRelease src 0) (fun t =>
    if t.isBellwether then serveQueue { t with fab := { t.fab with ledger := Assoc.erase t.fab.ledger src } } else t) s

/-- LEASE_MOVE (R401): the holding of a lost module moves to its partner with its lease end. -/
def execLeaseMove (p : Option (Fin 4)) (src xseq lost : Nat) (s : State) : Result :=
  arrive p (s.frameFrom .leaseMove src xseq) (fun t =>
    match Assoc.find t.fab.ledger lost, t.fab.nodes.find? (fun n => n.addr == lost) with
    | some h, some n =>
      if t.isBellwether && n.partner == t.uidOf src then
        let t1 : State := { t with fab := { t.fab with
          ledger := Assoc.set (Assoc.erase t.fab.ledger lost) src ⟨t.uidOf src, h.held, h.leaseEnd⟩ } }
        sendFrame .tokenGrant src xseq [h.held * 10, (h.leaseEnd - t.clock) / 1000] t1
      else t
    | _, _ => t) s

/-- TOKEN_REQUEST_DROP (R397): 30 s after its arrival. -/
def execTokenRequestDrop (src : Nat) (s : State) : Result :=
  match s.fab.queue.find? (fun r => r.src == src) with
  | some r => .next (serveQueue { s with fab := { s.fab with queue := s.fab.queue.erase r } })
  | none => .next s

/-- BELLWETHER_GRANT_START (R399 step 4): 62 s after the new bellwether took office. -/
def execBellwetherGrantStart (s : State) : Result :=
  if s.isBellwether && s.fab.office.isSome then .next (serveQueue { s with fab := { s.fab with granting := true } }) else .next s

/-! The holder (R398 to R401) -/

/-- A holding comes into force: PWR_BUDGET.GRANT_W, the partner's TOKEN message, the loop, and a wake that waits for it (R306). -/
def takeHolding (w : Nat) (s : State) : State :=
  let s1 := hostEvent 5 (loopAtOnce (setF Reg.PWR_BUDGET_GRANT_W w s))
  let s2 := when s1.active (sendMir .token [w, (s1.fab.leaseEnd - s1.clock) / 1000, s1.addr16]) s1
  let s3 : State := { s2 with sys := { s2.sys with shortfall := 0 } }
  match s3.sys.wakeBudget with
  | some need => if s3.mode = Mode.parked ∧ need ≤ s3.get Reg.PWR_BUDGET_GRANT_W then leaveParked s3 else s3
  | none => s3

/-- TOKEN_GRANT (R398): one that answers no frame of the last 60 s is discarded; the lease counts from that frame. -/
def execTokenGrant (p : Option (Fin 4)) (xseq watts leaseMs : Nat) (s : State) : Result :=
  arrive p (s.frameFrom .tokenGrant (s.fab.bellwether.getD 0) xseq) (fun t =>
    match t.fab.sent.find? (fun e => e.1 == xseq && decide (t.clock ≤ e.2 + sec 60)) with
    | some (_, sentAt) => takeHolding watts { t with fab := { t.fab with leaseEnd := sentAt + leaseMs * 1000 } }
    | none => t) s

/-- TOKEN_REPORT_TIMER (R398): every 30 s. -/
def execTokenReportTimer (s : State) : Result := .next (tokenReport s)

/-- LEASE_EXPIRY (R400): the holding falls to ISOLATED_W. -/
def execLeaseExpiry (s : State) : Result :=
  let w := s.get Reg.PWR_BUDGET_GRANT_W
  if s.fab.isolatedW < w then .next (settle (takeHolding s.fab.isolatedW s)) else .next s

/-- TOKEN (R366, R401): the standby keeps the active's grant, lease and address. -/
def execToken (watts leaseMs addr : Nat) (s : State) : Result :=
  receive (fun t => { t with fab := { t.fab with inherited := some (watts, t.clock + leaseMs * 1000, addr) } }) s

end Sys2Proof.Machine
end

