-- ==== Sys2Proof/Machine/Hif.lean ====
section
/-! DEFINITION. The PCI Express endpoint (chapter 09): lanes and training, Bus Master Enable and power states, the resets that
arrive over the link, BAR2, and what the host acknowledges. -/

namespace Sys2Proof.Machine

/-! Lanes (R269) -/

/-- The widest configuration that uses no failed lane: its width, and whether lanes run reversed. -/
def linkWidth (failed : List Nat) : Nat × Bool :=
  let none' (lo hi : Nat) : Bool := failed.all (fun l => decide (l < lo) || decide (hi < l))
  if failed.isEmpty then (16, false)
  else if none' 0 7 then (8, false)
  else if none' 8 15 then (8, true)
  else if none' 0 3 then (4, false)
  else if none' 12 15 then (4, true)
  else (0, false)

/-- A set of lanes as a mask. -/
def laneMask (l : List Nat) : Nat := ((once l).map (fun i => 2 ^ i)).sum

/-- HIF_LINK_STATUS shows the failed lanes and the width they leave. -/
def showLanes (s : State) : State :=
  let w := linkWidth s.hif.lanesFailed
  setF Reg.HIF_LINK_STATUS_WIDTH w.1 (setF Reg.HIF_LINK_STATUS_REVERSED (b2n w.2)
    (setF Reg.HIF_LINK_STATUS_DEGRADED (b2n (!s.hif.lanesFailed.isEmpty))
      (setF Reg.HIF_LINK_STATUS_FAILED_LANES (laneMask s.hif.lanesFailed) s)))

/-- The host link goes down. -/
def hostLinkLost (s : State) : State :=
  if s.hif.up then
    let s1 := event Reg.HIF_FW_EVENT_LINK_DOWN Reg.HIF_LINK_DOWN_CNT
      (setF Reg.HIF_LINK_STATUS_SPEED 0 (setF Reg.HIF_LINK_STATUS_WIDTH 0 s))
    { s1 with hif := { s1.hif with up := false } }
  else s

/-- Lanes join the failed ones: the link narrows (R269), and the narrowing is recorded (R464); the spec gives no RESULT for a lane. -/
def failLanes (lanes : List Nat) (s : State) : State :=
  let new := lanes.filter (fun l => !s.hif.lanesFailed.contains l)
  if new.isEmpty then s
  else
    let s1 := showLanes { s with hif := { s.hif with lanesFailed := s.hif.lanesFailed ++ new } }
    let before := (linkWidth s.hif.lanesFailed).1
    let w := (linkWidth s1.hif.lanesFailed).1
    let s2 := if w < before then
        useFree (pushRecord 12 0x10 0 (s1.freeVal 8) (laneMask s1.hif.lanesFailed + 2 ^ 16 * w)
          (event Reg.HIF_FW_EVENT_LINK_DEGRADED Reg.HIF_DEGRADE_CNT s1))
      else s1
    if w = 0 then hostLinkLost s2 else s2

/-- LANE_FAILURE (R269): `errors` are the lane errors of the second that ends, 0 where training found the lane bad. Errors that do not
exceed the limit are counted only. -/
def execLaneFailure (lane : Fin 16) (errors : Nat) (s : State) : Result :=
  let limit := s.get Reg.HIF_LINK_CTRL_LANE_ERR_LIMIT
  let s1 := if errors = 0 then s else setF Reg.HIF_FW_EVENT_LANE_ERR 1 (bumpBy Reg.HIF_LANE_ERR_CNT errors s)
  if errors = 0 ∨ (limit ≠ 0 ∧ limit < errors) then .next (failLanes [lane.val] s1) else .next s1

/-- LINK_RESTORE (R269): every lane is tried again. -/
def execLinkRestore (s : State) : Result :=
  land 0x10004 .linkRestore (fun t =>
    if t.on Reg.HIF_LINK_CTRL_RESTORE then ignored 6 0 t
    else
      let t1 := if t.hif.lanesFailed.isEmpty then t else useFree (pushRecord 13 0x10 0 (t.freeVal 8) (2 ^ 16 * 16) t)
      setF Reg.HIF_LINK_CTRL_RESTORE 1 (setF Reg.HIF_LINK_STATUS_FAILED_LANES 0 (setF Reg.HIF_LINK_STATUS_DEGRADED 0
        { t1 with hif := { t1.hif with lanesFailed := [], training := true } }))) s

/-- LINK_TRAINED (R269, R288): `lanes` are those that trained; the others count as failed. The link is up where a width is left. -/
def execLinkTrained (speed : Fin 6) (lanes : List (Fin 16)) (s : State) : Result :=
  let bad := (List.range 16).filter (fun l => !(lanes.map Fin.val).contains l)
  let s1 := failLanes bad (setF Reg.HIF_LINK_CTRL_RESTORE 0 { s with hif := { s.hif with training := false } })
  let w := (linkWidth s1.hif.lanesFailed).1
  if speed.val = 0 ∨ w = 0 then .next (hostLinkLost s1)
  else
    let s2 := setF Reg.HIF_LINK_STATUS_SPEED speed.val (showLanes s1)
    .next { s2 with hif := { s2.hif with up := true } }

/-! Bus Master Enable and D3hot (R275, R285) -/

/-- The command moves data to or from host memory. -/
def movesHostData (e : Entry) : Bool :=
  if e.qid = 0 then
    match adminOf e with
    | some .identify | some .getLog | some .firmwareStage | some .fabricControl => true
    | some .packAuth => e.options % 16 == 2
    | _ => false
  else e.opcode == 0x20 || e.opcode == 0x21

/-- Requests to the host stop (R285): commands whose host data had not fully moved end. -/
def stopMastering (s : State) : State :=
  let l := s.cmdsWhere (fun c => movesHostData c.e && !c.moved)
  finishAll l St.dataPath 0 (forEach l dropPieces s)

/-- Messages held up to a place in the order go out. -/
def sendMsgs (upTo : Nat) (s : State) : State :=
  let due := s.hif.heldMsgs.filter (fun m => decide (m.1 ≤ upTo))
  forEach due (fun m t => sendMsix m.2 t)
    { s with hif := { s.hif with heldMsgs := s.hif.heldMsgs.filter (fun m => !decide (m.1 ≤ upTo)) } }

/-- Held completions and messages go out in their order (R285). -/
def sendHeldOut (i : Nat) : List Post → State → State
  | [], s => forEach s.hif.heldMsgs (fun m t => sendMsix m.2 t) { s with hif := { s.hif with heldMsgs := [] } }
  | p :: t, s => sendHeldOut (i + 1) t (deliver p (sendMsgs i s))

/-- Requests to the host resume: what was held goes out, queues that waited are drained, and the line is evaluated. -/
def resumeMastering (s : State) : State :=
  if s.masters then
    let s1 := sendHeldOut 0 s.qmx.heldOut { s with qmx := { s.qmx with heldOut := [] } }
    evalLine (forEach (s1.qmx.pairs.map Prod.fst) drainCq s1)
  else s

/-- BUS_MASTER_DISABLE (R285). -/
def execBusMasterDisable (s : State) : Result :=
  if s.hif.busMaster then
    let s1 := when s.masters (event Reg.HIF_FW_EVENT_BME_CLEARED Reg.HIF_BME_CLEAR_CNT) s
    let s2 := sendVectors s1
    .next (stopMastering { s2 with hif := { s2.hif with busMaster := false } })
  else .next s

/-- BUS_MASTER_ENABLE (R285). -/
def execBusMasterEnable (s : State) : Result :=
  if s.hif.busMaster then .next s
  else .next (resumeMastering { s with hif := { s.hif with busMaster := true } })

/-- D3HOT_ENTRY (R275): commands in flight are handled as for Bus Master Enable cleared. -/
def execD3hotEntry (s : State) : Result :=
  if s.hif.d3hot then .next s
  else
    let s1 := sendVectors s
    .next (stopMastering { s1 with hif := { s1.hif with d3hot := true } })

/-- D0_RETURN (R275). -/
def execD0Return (s : State) : Result :=
  if s.hif.d3hot then .next (resumeMastering { s with hif := { s.hif with d3hot := false } }) else .next s

/-! Resets over the link (R286 to R288) -/

/-- Every register whose offset a test names returns to its reset value. -/
def resetRegs (p : Nat → Bool) (s : State) : State := { s with regs := s.regs.filter (fun r => !p (r.1 / 32)) }

/-- Commands at a reset of the queues (R226, R286): those not begun are dropped, begun ones run on without a completion; one that
still needs host data can no longer move it, and ends. -/
def orphanCmds (s : State) : State :=
  let gone := (s.qmx.cmds.filter (fun c => !s.hasBegun c.1 c.2 || (movesHostData c.2.e && !c.2.moved))).map Prod.fst
  let s1 := forEach gone dropPieces s
  { s1 with qmx := { s1.qmx with cmds := s1.qmx.cmds.filter (fun c => !gone.contains c.1) } }

/-- The queue manager is reset: registers, pairs and what waits to go out. -/
def resetQueues (s : State) : State :=
  let s1 := resetRegs (fun off => decide (0x20000 ≤ off) && decide (off < 0x30000)) (orphanCmds s)
  { s1 with qmx := { s1.qmx with
    pairs := [], stalled := [], heldOut := [], strayDoorbells := [], lastVisit := 0, starting := false, stopping := false,
    hbSeq := 1, interval := 2 } }

/-- Configuration space returns to its reset values; the bits that AER keeps through a reset stay. -/
def resetConfig (s : State) : State :=
  let s1 := resetRegs (fun off => decide (0x300000 ≤ off)) s
  { s1 with hif := { aer := s.hif.aer, lanesFailed := s.hif.lanesFailed, training := s.hif.training, up := s.hif.up } }

/-- The INTx line falls, and messages that wait are dropped (R287). -/
def silence (s : State) : State :=
  let s1 := when (s.on Reg.HIF_IRQ_CTRL_ASSERTED && !(s.on Reg.HIF_IRQ_CTRL_SUMMARY_ON_MSIX && s.hif.msixEnable)) (emit .deassertInta) s
  let s2 := setF Reg.HIF_IRQ_CTRL_ASSERTED 0 (setF Reg.MSIX_PBA_LO_PENDING 0 s1)
  { s2 with hif := { s2.hif with heldMsgs := [], vecDue := [] } }

/-- FLR (R287): no further request, interrupts silent; the reset runs. The host's locks are released (R440). -/
def execFlr (s : State) : Result :=
  if s.hif.flr then .next s
  else
    let s1 := event Reg.HIF_FW_EVENT_FLR Reg.HIF_FLR_CNT (forceOwner 0x20 (silence s))
    .next { s1 with hif := { s1.hif with flr := true } }

/-- Registers of the HIF block that an FLR resets (R286). -/
def flrResets (off : Nat) : Bool :=
  decide (0x10000 ≤ off) && decide (off < 0x20000) && off != 0x10000 && off != 0x10004 && off != 0x10020
    && !(decide (0x10100 ≤ off) && decide (off < 0x10138))

/-- FLR_COMPLETE (R286, R287). -/
def execFlrComplete (s : State) : Result :=
  if s.hif.flr then .next (resetConfig (resetQueues (resetRegs flrResets s))) else .next s

/-- A reset of the HOST island over the link (R286, R288): the link retrains. LINK_DOWN shows what the registers would otherwise
lose. -/
def linkReset (s : State) : State :=
  let wasUp := s.hif.up
  let s1 := resetConfig (resetQueues (resetRegs (fun off => decide (0x10000 ≤ off) && decide (off < 0x20000)) s))
  let s2 : State := { s1 with hif := { s1.hif with up := false, training := true } }
  forceOwner 0x20 (when wasUp (event Reg.HIF_FW_EVENT_LINK_DOWN Reg.HIF_LINK_DOWN_CNT) s2)

/-- PERST (R286, R288), HOT_RESET (R286) and DL_DOWN (R286). -/
def execPerst (s : State) : Result := .next (linkReset s)
def execHotReset (s : State) : Result := .next (linkReset s)
def execDlDown (s : State) : Result := .next (linkReset s)

/-! BAR2 (R278 to R281) -/

/-- BAR2_ACCESS (R278): a TLP of `len` bytes at an offset, with what it writes. -/
def execBar2Access (addr len : Nat) (write : Option (List Nat)) (s : State) : Result :=
  let k := bits addr 28 8
  let ok := s.on (Reg.HIF_XLAT_ENTRY_VALID k) && !s.hif.flr && (match write with
    | some _ => s.on (Reg.HIF_XLAT_ENTRY_WR_EN k)
    | none => s.on (Reg.HIF_XLAT_ENTRY_RD_EN k))
  let at' := s.get (Reg.HIF_XLAT_ENTRY_TARGET k) * 2 ^ 28 + addr % 2 ^ 28
  if ok then
    match write with
    | some bytes => .next (storeBytes at' (bytes.take len) s)
    | none => .next (emit (.tlpCompletion (some (s.readBytes at' len))) s)
  else
    let s1 := event Reg.HIF_FW_EVENT_XLAT_FAULT Reg.HIF_XLAT_FAULT_CNT { s with hif := { s.hif with aer := 1 :: s.hif.aer } }
    .next (if write.isNone then emit (.tlpCompletion none) s1 else s1)

/-- XLAT_COMMIT (R280, R281). -/
def execXlatCommit (r : Requester) (s : State) : Result :=
  land 0x1008C (.xlatCommit r) (fun t =>
    let v := t.get Reg.HIF_XLAT_STAGE_STAGE
    let k := t.get Reg.HIF_XLAT_SEL_INDEX
    let target := bits v 20 12
    let restricted := r == .host && !t.on Reg.HIF_XLAT_CTRL_HOST_WR_OK && (bitOf v 2 == 1 || decide (0x100 ≤ target))
    if t.on Reg.HIF_XLAT_COMMIT_BUSY then ignored 6 0 t
    else if 0x107 < target ∨ restricted = true then setF Reg.HIF_XLAT_COMMIT_REFUSED 1 t
    else
      setF Reg.HIF_XLAT_COMMIT_BUSY 1 (setF Reg.HIF_XLAT_COMMIT_REFUSED 0
        (setF (Reg.HIF_XLAT_ENTRY_TARGET k) target (setF (Reg.HIF_XLAT_ENTRY_WR_EN k) (bitOf v 2)
          (setF (Reg.HIF_XLAT_ENTRY_RD_EN k) (bitOf v 1) (setF (Reg.HIF_XLAT_ENTRY_VALID k) (bitOf v 0) t)))))) s

/-- XLAT_DRAIN_DONE (R280). -/
def execXlatDrainDone (s : State) : Result := .next (setF Reg.HIF_XLAT_COMMIT_BUSY 0 s)

/-! Interrupts (R282, R283) -/

/-- INTX_ACK (R283). -/
def execIntxAck (s : State) : Result :=
  land 0x10040 .intxAck (fun t =>
    let t1 : State := { t with hif := { t.hif with
      pend := t.hif.pend.filter (fun q => !t.hif.announced.contains q), announced := [] } }
    let msix := t.on Reg.HIF_IRQ_CTRL_SUMMARY_ON_MSIX && t.hif.msixEnable
    let t2 := when (t.on Reg.HIF_IRQ_CTRL_ASSERTED && !msix) (emit .deassertInta) t1
    evalLine (setF Reg.HIF_IRQ_CTRL_ASSERTED 0 t2)) s

/-- HOST_RAISE (R282): a write through BAR0 is discarded. -/
def execHostRaise (r : Requester) (mask : Nat) (s : State) : Result :=
  land 0x10018 (.hostRaise r mask) (fun t =>
    if r = .host then t
    else
      let t1 := when (bitOf mask 0 == 1 || bits mask 6 26 != 0) (ignored 6 0) t
      forEach [1, 2, 3, 4, 5] (fun v u => when (bitOf mask v == 1) (hostEvent v) u) t1) s

/-- Messages that were pending under a mask go out once it is lifted (R282). -/
def flushMsix (s : State) : State :=
  forEach (List.range 32) (fun v t =>
    if bitOf (t.get Reg.MSIX_PBA_LO_PENDING) v == 1 && t.hif.msixEnable && !t.hif.msixMask && !t.on (Reg.MSIX_CTRL_MASK v) then
      sendMsix v (setF Reg.MSIX_PBA_LO_PENDING (setBit (t.get Reg.MSIX_PBA_LO_PENDING) v false) t)
    else t) s

/-- HOST_READ_ERROR (R284): doorbells and entries are read again at the next poll; a command whose table or data cannot be read ends
with FRAGMENT_ERROR, and nothing of it commits. -/
def execHostReadError (what : HostRead) (s : State) : Result :=
  if !s.masters then .next s
  else
    let s1 := event Reg.HIF_FW_EVENT_HOST_READ_ERR Reg.HIF_HOST_READ_ERR_CNT { s with hif := { s.hif with aer := 2 :: s.hif.aer } }
    match what with
    | .data qid cid =>
      match s1.cmdOf qid cid with
      | some (n, c) =>
        if c.committed || c.moved then .next s1 else .next (after (finish n St.fragmentError 0 (dropPieces n s1)))
      | none => .next s1
    | _ => .next s1

end Sys2Proof.Machine
end

