-- ==== Sys2Proof/Machine/Views.lean ====
section
/-! DEFINITION. What a read of a register returns: stored fields, and the fields that show other state (R5, R6). Also the LEDs (R485). -/

namespace Sys2Proof.Machine

/-! Self-repair views -/

/-- Instances of an array class (R454); 0 where there is no such class. -/
def arrayCount (cls : Nat) : Nat :=
  if cls = 1 ∨ cls = 6 then 4 else if cls = 2 ∨ cls = 3 then 9 else if cls = 4 then 28 else if cls = 7 then 18
  else if cls = 5 ∨ (8 ≤ cls ∧ cls ≤ 0xC) then 1 else 0

/-- An array identifier names an array (R454). -/
def arrayExists (id : Nat) : Bool := decide (id % 256 < arrayCount (id / 256))

/-- Spare rows used in an array, all segments. -/
def State.spareRowsUsed (s : State) (id : Nat) : Nat := ((s.rpr.rowsUsed.filter (fun p => p.1 / 65536 == id)).map Prod.snd).sum

/-- ROWS_LEFT of an array: a cluster cache bank has two segments (R453, R454); the spec gives the size of no other array, so theirs reads as a
free value. -/
def State.rowsLeft (s : State) (id : Nat) : Nat := if id / 256 = 1 then 8 - s.spareRowsUsed id else s.freeVal 8

/-- RPR_ARRAY_STAT of the array in RPR_ARRAY_SEL, by the field's lowest bit. -/
def State.arrayStat (s : State) (lo : Nat) : Nat :=
  let id := s.get Reg.RPR_ARRAY_SEL_ARRAY
  if !arrayExists id then (if lo = 27 then 1 else 0)
  else if lo = 0 then min 65535 (Assoc.getD s.rpr.ce id 0)
  else if lo = 16 then s.rowsLeft id
  else if lo = 24 then 2 - Assoc.getD s.rpr.colsUsed id 0
  else if lo = 26 then b2n (s.rpr.exhausted.contains id)
  else 0

/-- The head record of the repair FIFO. -/
def State.headRecord (s : State) : RepRec := s.rpr.fifo.headD ⟨0, 0, 0, 0, 0⟩

/-! Coding unit -/

/-- Engines in a state. -/
def State.countEngines (s : State) (st : Nat) : Nat := (allEngines.filter (fun e => s.engState e == st)).length

/-- Matrix slots named by a job that is queued on an engine or running (R85). -/
def State.busySlots (s : State) : List Nat :=
  (allEngines.flatMap (fun e => (s.eng e).queue)).filterMap (fun j => (s.job? j).map (·.slot))

/-- COEF_BUSYk. -/
def State.coefBusy (s : State) (k : Nat) : Nat :=
  ((once (s.busySlots.filter (fun x => x / 32 == k))).map (fun x => 2 ^ (x % 32))).sum

/-! Queue pairs -/

/-- A QMX_QSTATE field of the pair in QSEL: all 0 where there is none. -/
def State.qstate (s : State) (off lo : Nat) : Nat :=
  match s.pair? (s.get Reg.QMX_QSEL_QID) with
  | none => 0
  | some p =>
    if off = 0x2004C then (if lo = 0 then 1 else if lo = 1 then p.weight else if lo = 9 then p.burstM1 else p.sizeM1)
    else if off = 0x20050 then (if lo = 0 then p.sqHead else p.sqTail)
    else if off = 0x20054 then (if lo = 0 then p.cqTail else p.cqHead)
    else if lo = 0 then min 4095 (s.inFlight (s.get Reg.QMX_QSEL_QID)) else p.phase

/-! Reads -/

/-- 32 mailbox bits of a list, from a base. -/
def boxBits (l : List Nat) (base : Nat) : Nat := ((l.filter (fun m => m / 32 == base)).map (fun m => 2 ^ (m % 32))).sum

/-- A field of an array's STP_ARRAYn_CFG reads what its layout fixes (R41). -/
def State.layoutView (s : State) (n lo : Nat) (stored : Nat) : Nat :=
  let l := s.get (Reg.STP_ARRAY_CFG_LAYOUT n)
  if lo = 9 then (if l < 2 then 7 else if l = 2 then 0 else stored)
  else if lo = 12 then (if l = 0 then 11 else if l = 1 then 10 else stored)
  else if lo = 19 then (if l < 2 then 4 else if l = 2 then 0 else stored)
  else stored

/-- Fields of the KEEP, power and fan blocks that show other state. -/
def State.keepView (s : State) (o lo stored : Nat) : Nat :=
  if 0xB0000 ≤ o ∧ o < 0xB0360 ∧ o % 8 = 4 then
    let n := (o - 0xB0000) / 8
    if lo = 2 then b2n (s.waits1 n) else if lo = 3 then b2n (s.waits2 n) else stored
  else if o = 0xC0010 then (if lo = 0 then s.freeAt 0 16 else s.freeAt 1 12)
  else if o = 0xC0014 then (if lo = 16 then s.freeAt 0 12 else stored)
  else if o = 0xC0028 then
    (if lo = 0 then s.nOn else if lo = 7 then s.nSurge
     else if lo = 14 then (allSlots.filter (fun n => s.waits1 n || s.waits2 n)).length else s.headroom)
  else if 0xC1000 ≤ o ∧ o < 0xC11B0 then (if lo = 0 then s.freeAt 0 16 else s.freeAt 1 16)
  else if o = 0xE0018 then (if lo = 0 then s.fanFaultBits else if lo = 8 then s.fanLimitBits else b2n s.fanFloor)
  else if o = 0xD0034 then leNat (s.bat.smbFifo.take 4)
  else if 0xE0100 ≤ o ∧ o < 0xE0280 ∧ (o - 0xE0100) % 0x40 = 0x10 ∧ lo = 16 then s.fanApplied ((o - 0xE0100) / 0x40)
  else if o = 0xF0004 ∧ lo = 8 then s.get Reg.SYS_STRAP_POS
  else if o = 0x110018 then
    (let r := s.headRecord
     if lo = 0 then r.kind else if lo = 8 then r.cls else if lo = 16 then r.inst else r.result)
  else if o = 0x11001C then s.headRecord.detail
  else if o = 0x110020 then (if lo = 1 then s.rpr.fifo.length else 0)
  else if o = 0x110028 then s.arrayStat lo
  else if 0x111020 ≤ o ∧ o < 0x111030 then (if lo = 0 then s.freeAt 0 8 else s.freeAt 1 8)
  else stored

/-- Fields of the mailboxes and the timer that show other state. -/
def State.ctrlView (s : State) (o lo stored : Nat) : Nat :=
  if o = 0x80080 then s.clock
  else if o = 0x80084 then s.clock / 2 ^ 32
  else if 0x90000 ≤ o ∧ o < 0x90800 then
    let m := (o - 0x90000) / 0x20
    if o % 0x20 = 0 ∧ lo = 0 then s.boxSender m else if o % 0x20 = 0 ∧ lo = 8 then s.boxReceiver m else stored
  else if 0x91100 ≤ o ∧ o < 0x91190 then
    let n := (o - 0x91100) / 0x10
    if o % 0x10 = 0 then boxBits (s.fullFor n) 0 else if o % 0x10 = 4 then boxBits (s.fullFor n) 1
    else if o % 0x10 = 8 then boxBits (s.timeoutFor n) 0 else boxBits (s.timeoutFor n) 1
  else if 0x91300 ≤ o ∧ o < 0x91324 then
    (if lo = 0 then s.corePend ((o - 0x91300) / 4) else s.corePend ((o - 0x91300) / 4) / 2 ^ 31)
  else stored

/-- What a read of a field returns. -/
def State.seen (s : State) (f : Field) : Nat :=
  let stored := s.get f
  let v :=
    if f.acc = .wo then 0
    else if f.off = 0x40004 then
      (if f.lo = 0 then s.countEngines EngSt.inService else if f.lo = 5 then s.countEngines EngSt.spare else s.countEngines EngSt.retired)
    else if 0x40090 ≤ f.off ∧ f.off < 0x400A0 then s.coefBusy ((f.off - 0x40090) / 4)
    else if 0x48000 ≤ f.off ∧ f.off < 0x49C00 ∧ f.off % 0x100 = 4 then
      (let e := s.eng ((f.off - 0x48000) / 0x100)
       if f.lo = 0 then s.queued ((f.off - 0x48000) / 0x100) else if f.lo = 3 then b2n e.running else stored)
    else if f.off = 0x30100 ∨ f.off = 0x30140 ∨ f.off = 0x30180 ∨ f.off = 0x301C0 then
      s.layoutView ((f.off - 0x30100) / 0x40) f.lo stored
    else if f.off = 0x50004 then (if f.lo = 5 then b2n s.admitStop else if f.lo = 6 then b2n s.allocBlocked else stored)
    else if f.off = 0x50014 then s.dirtyMib
    else if f.off = 0x5001C then s.entriesUsed
    else if f.off = 0x50020 then ceilDiv s.stagedUnits 256
    else if 0xA1000 ≤ f.off ∧ f.off < 0xA2B00 ∧ f.off % 0x40 = 4 ∧ f.lo = 8 then s.openOn ((f.off - 0xA1000) / 0x40)
    else if f.off = 0x20004 ∧ f.lo = 2 then b2n (decide (16384 ≤ s.allInFlight))
    else if f.off = 0x20030 then (if f.lo = 0 then s.pollInterval else s.ioPairs.length)
    else if 0x2004C ≤ f.off ∧ f.off ≤ 0x20058 then s.qstate f.off f.lo
    else if 0x80000 ≤ f.off ∧ f.off < 0xA0000 then s.ctrlView f.off f.lo stored
    else s.keepView f.off f.lo stored
  v % 2 ^ f.width

/-- Free values that a read of a register uses. -/
def readsFree (off : Nat) : Nat :=
  if off = 0xC0010 ∨ off = 0xC0014 ∨ (0xC1000 ≤ off ∧ off < 0xC11B0) ∨ (0x111020 ≤ off ∧ off < 0x111030) then 2
  else if off = 0x110028 then 1 else 0

/-- The word that a read of a register returns (R5, R6). -/
def State.readWord (s : State) (off : Nat) : Nat := ((fieldsAt off).map (fun f => s.seen f * 2 ^ f.lo)).sum

/-! LEDs (R485) -/

/-- ROLE: 0 off, 1 green, 2 green blinking, 3 amber, 4 amber blinking. -/
def State.roleLed (s : State) : Nat :=
  if !s.sys.powered || s.on Reg.SYS_MODE_STARTING then 0
  else if s.modeIn [Mode.service, Mode.destaging] then 4
  else if s.active then (if s.modeIn [Mode.serving, Mode.takeover] then 1 else if s.modeIn [Mode.parked, Mode.waking, Mode.draining] then 2 else 0)
  else if s.on Reg.FOV_CTRL_STANDBY_ROLE then 3 else 0

/-- FAULT: 0 off, 1 amber, 2 amber blinking. -/
def State.faultLed (s : State) : Nat :=
  if s.on Reg.SYS_BOOT_NO_IMAGE || s.sys.posConflict then 2 else if s.sys.faultLed || s.on Reg.RPR_POST_FATAL then 1 else 0

/-- SAFE-TO-REMOVE is lit. -/
def State.safeLed (s : State) : Bool :=
  s.mode != Mode.destaging && !s.on Reg.FOV_CTRL_HOLD
    && ((s.on Reg.FOV_STATUS_ACTIVE_LINE && !s.active)
      || (s.dirtyMib == 0 && s.entriesUsed == 0 && !s.on Reg.JNL_IMAGE_VALID && allSlots.all (fun n => !s.slotOn n)
          && !s.on Reg.FAN_TOKEN_HELD))

end Sys2Proof.Machine
end

