-- ==== Sys2Proof/Machine/Rpr.lean ====
section
/-! DEFINITION. Self-repair (chapter 16): spare rows and columns, DRAM repairs, the power-on self-test, cores, lanes and the ledger. -/

namespace Sys2Proof.Machine

/-! The ledger (R462 to R464) -/

/-- Spares left of a record's kind for its unit (R464). -/
def State.sparesLeft (s : State) (r : RepRec) : Nat :=
  let id := r.cls * 256 + r.inst
  if r.kind = 1 then 4 - Assoc.getD s.rpr.rowsUsed (id * 65536 + r.detail / 512) 0
  else if r.kind = 2 then 2 - Assoc.getD s.rpr.colsUsed id 0
  else if r.kind = 5 ∨ r.kind = 6 then (allEngines.filter (fun e => s.engState e == EngSt.spare)).length
  else if r.kind = 7 ∨ r.kind = 8 then b2n (s.on Reg.CCH_CORES_SPARE)
  else 0

/-- The repair table entry that a stored record leads to, if one (R463): DRAM repairs are listed when they are made. -/
def RepRec.row (r : RepRec) (time : Nat) : Option RepairRow :=
  let id := r.cls * 256 + r.inst
  if r.result = 2 then none
  else if r.kind = 1 ∨ r.kind = 2 ∨ r.kind = 3 then some ⟨r.kind, id, r.detail, 0, time⟩
  else if r.kind = 4 then some ⟨4, id, 0, 0, time⟩
  else if r.kind = 5 then some ⟨4, 0x2100 + r.inst, 0, 0, time⟩
  else if r.kind = 7 then some ⟨4, 0x2200 + r.inst, 0, 0, time⟩
  else none

/-- The 64 bytes of a ledger entry (R464). -/
def LedgerEntry.bytes (e : LedgerEntry) : List Nat :=
  sealEntry (leBytes 8 e.time ++ leBytes 4 e.eseq ++ [e.record.kind % 256, e.record.cls % 256, e.record.inst % 256, e.record.result % 256]
    ++ leBytes 4 e.record.detail ++ leBytes 4 e.detail2 ++ leBytes 2 e.sparesLeft ++ List.replicate 34 0)

/-- The 16 bytes of a repair table entry, and the entry that 16 bytes hold (R463). -/
def RepairRow.bytes (r : RepairRow) : List Nat :=
  [r.type % 256, 0] ++ leBytes 2 r.ident ++ leBytes 4 r.place ++ leBytes 4 r.dramRow ++ leBytes 4 r.time
def repairRowAt (b : List Nat) (at' : Nat) : RepairRow :=
  ⟨byteField b at' 1, byteField b (at' + 2) 2, byteField b (at' + 4) 4, byteField b (at' + 8) 4, byteField b (at' + 12) 4⟩

/-- Addresses of the ledger (R463): table copy i, and the entry numbered n, in a circle of 8,064. -/
def repairCopyAt (i : Nat) : Nat := 0x1061000000 + 4096 * i
def ledgerEntryAt (n : Nat) : Nat := 0x1061002000 + 64 * (n % 8064)

/-- Table copy i, where its MAGIC and CRC are right (R463). -/
def State.repairCopy (s : State) (i : Nat) : Option RepairTable :=
  let h := s.readBytes (repairCopyAt i) 64
  if h.take 4 = [0x52, 0x50, 0x52, 0x4C] ∧ byteField h 60 4 = crc32c (h.take 60) then
    let b := s.readBytes (repairCopyAt i + 64) 4032
    some ⟨byteField h 4 4, byteField h 12 4, (List.range (min 252 (byteField h 16 2))).map (fun k => repairRowAt b (16 * k))⟩
  else none

/-- The copy that is in force: the newer of two valid ones, as in R331. -/
def State.newerCopy (s : State) : Nat :=
  match s.repairCopy 0, s.repairCopy 1 with
  | some a, some b => if seqNewer b.seq a.seq then 1 else 0
  | none, some _ => 1
  | _, none => 0

/-- The table in force; an empty one where neither copy is valid. -/
def State.repairTable (s : State) : RepairTable := (s.repairCopy s.newerCopy).getD ⟨0, 0, []⟩

/-- The table is written into the copy that is not in force (R463). -/
def writeTable (total : Nat) (rows : List RepairRow) (s : State) : State :=
  let target := if (s.repairCopy s.newerCopy).isSome then 1 - s.newerCopy else 0
  let head := [0x52, 0x50, 0x52, 0x4C] ++ leBytes 4 (s.repairTable.seq + 1) ++ leBytes 4 (total % 8064) ++ leBytes 4 total
    ++ leBytes 2 rows.length ++ [s.countEngines EngSt.retired, s.rpr.coresRetired.length, s.rpr.regions.length] ++ List.replicate 39 0
  writeBytes (repairCopyAt target) (sealEntry head ++ (rows.flatMap RepairRow.bytes ++ List.replicate (4032 - 16 * rows.length) 0)) s

/-- Entries join the repair table, which holds 252. -/
def listRows (es : List RepairRow) (s : State) : State :=
  if es.isEmpty then s else writeTable s.repairTable.total ((s.repairTable.rows ++ es).take 252) s

/-- An entry joins the repair table, at once or once the conditions hold. -/
def listRepair (e : RepairRow) (s : State) : State :=
  if s.mayStore then listRows [e] s else { s with rpr := { s.rpr with owedRows := s.rpr.owedRows ++ [e] } }

/-- A record becomes a ledger entry: stored before the table, logged, and raised to the host (R463, R464). -/
def storeRecord (r : RepRec) (s : State) : State :=
  let detail2 := if r.kind = 9 ∨ r.kind = 11 then s.get Reg.RPR_DRAM_PPR_ROW_ROW else 0
  let x := s.repairTable
  let e : LedgerEntry := ⟨s.nowMs, x.total, r, detail2, s.sparesLeft r⟩
  let rows := (x.rows ++ (r.row (s.nowMs / 1000 % 2 ^ 32)).toList).take 252
  let s1 := writeTable (x.total + 1) rows (writeBytes (ledgerEntryAt x.total) e.bytes s)
  hostEvent 1 (logPlain 0xB ([r.kind, r.cls, r.inst, r.result] ++ leBytes 4 r.detail) s1)

/-- Records of the firmware's own are stored once the conditions hold. -/
def storeOwed (s : State) : State :=
  if s.mayStore then forEach s.rpr.owed storeRecord (listRows s.rpr.owedRows { s with rpr := { s.rpr with owed := [], owedRows := [] } })
  else s

/-- REPAIR_RECORD_POP (R462): the entry is stored, then the head record removed; while storing is deferred there is no pop. -/
def execRepairRecordPop (s : State) : Result :=
  land 0x110020 .repairRecordPop (fun t =>
    let t1 := storeOwed t
    match t1.rpr.fifo with
    | [] => t1
    | r :: rest => if t1.mayStore then storeRecord r { t1 with rpr := { t1.rpr with fifo := rest } } else t1) s

/-! Cores (R458) -/

/-- A core retires: its locks are released (R440), its sources go elsewhere (R443), and the spare takes its work where it passes its own test;
without it fewer than eight cores are left (R364 reason 3). -/
def retireCore (n : Nat) (sparePass : Bool) (s : State) : State :=
  if bitOf (s.get Reg.CCH_CORES_IN_SERVICE) n = 0 then s
  else
    let spare := (List.range 9).find? (fun k => bitOf (s.get Reg.CCH_CORES_SPARE) k == 1)
    let left := setBit (s.get Reg.CCH_CORES_IN_SERVICE) n false
    let s1 : State := { s with rpr := { s.rpr with coresRetired := addOnce s.rpr.coresRetired n, owed := s.rpr.owed ++ [⟨7, 0x22, n, 1, 0⟩] } }
    let s2 := match spare with
      | some k =>
        let t := setF Reg.CCH_CORES_SPARE 0 s1
        if sparePass then
          setF Reg.CCH_CORES_IN_SERVICE (setBit left k true) { t with rpr := { t.rpr with owed := t.rpr.owed ++ [⟨8, 0x22, k, 0, 0⟩] } }
        else
          setF Reg.CCH_CORES_IN_SERVICE left { t with rpr := { t.rpr with
            coresRetired := addOnce t.rpr.coresRetired k, owed := t.rpr.owed ++ [⟨7, 0x22, k, 1, 0⟩] } }
      | none => setF Reg.CCH_CORES_IN_SERVICE left s1
    let count := (List.range 9).filter (fun k => bitOf (s2.get Reg.CCH_CORES_IN_SERVICE) k == 1)
    storeOwed (when (decide (count.length < 8)) (raiseFault 3) (forceOwner (n + 1) s2))

/-- CORE_PERIODIC_TEST (R458): `sparePass` is the spare's own test. -/
def execCorePeriodicTest (core : Fin 9) (pass sparePass : Bool) (s : State) : Result :=
  if pass then .next s else .next (settle (retireCore core.val sparePass s))

/-! SRAM (R453 to R455) -/

/-- The row stays in use under SECDED: the firmware lights the FAULT LED and raises the event. -/
def keepRow (kind id place : Nat) (s : State) : State :=
  hostEvent 1 (lightFault (pushRecord kind (id / 256) (id % 256) 2 place s))

/-- A way of a cluster-cache bank is disabled in the 512 sets of a segment: its lines leave, dirty ones for memory. -/
def disableWay (bank seg way : Nat) (s : State) : State :=
  let hit (x : CacheLine) : Bool := x.way == way && bankOf x.line == bank && segmentOf x.line == seg
  let s1 := forEach ((s.cch.lines.filter hit).filter (·.dirty)) (fun x t => memLine x.line x.data t) s
  { s1 with cch := { s1.cch with
    lines := s1.cch.lines.filter (fun x => !hit x)
    waysOff := if s1.cch.waysOff.contains (bank, seg, way) then s1.cch.waysOff else s1.cch.waysOff ++ [(bank, seg, way)] } }

/-- What R454 does for an array whose failing row or column finds no spare: `kind` is 1 for a row and 2 for a column. The way that fails in a
cluster-cache bank is left open: a free value; DETAIL gives it as 16 times the segment plus the way. -/
def noSpare (kind id place : Nat) (s : State) : State :=
  let s1 := event Reg.RPR_EVENT_SPARE_EXHAUSTED Reg.RPR_EXHAUSTED_CNT { s with rpr := { s.rpr with exhausted := addOnce s.rpr.exhausted id } }
  let cls := id / 256
  let inst := id % 256
  if cls = 1 then
    let way := s1.freeVal 4
    let seg := place / 512
    pushRecord 3 1 inst 1 (16 * seg + way) (disableWay inst seg way (useFree s1))
  else if cls = 2 ∨ cls = 3 then retireCore inst true s1
  else if cls = 4 then settleEngine inst (onEng inst (fun x => { x with retireDue := true }) s1)
  else if cls = 7 then
    (if h : inst < 18 then raiseFault 5 (pushRecord 4 7 inst 1 place (retireIsland (.sas ⟨inst, h⟩) s1)) else s1)
  else keepRow kind id place s1

/-- A spare row of the segment takes the place of a row: false where none is left. -/
def useSpareRow (id row : Nat) (s : State) : Option State :=
  let key := id * 65536 + row / 512
  let used := Assoc.getD s.rpr.rowsUsed key 0
  if used < 4 then
    some (pushRecord 1 (id / 256) (id % 256) 0 row { s with rpr := { s.rpr with rowsUsed := Assoc.set s.rpr.rowsUsed key (used + 1) } })
  else none

/-- A queued row is at its quiet point (R455): for the cluster cache, once it is queued and holds no dirty line. The errors and the uses of the
other arrays are outside the model, which takes the command as saying that their row is queued and quiet. -/
def State.rowQuiet (s : State) (array row : Nat) : Bool :=
  array / 256 != 1 || (s.rpr.queued.contains (sramRow array row) && s.cch.lines.all (fun x => !x.dirty || cacheRow x.line != sramRow array row))

/-- SRAM_ROW_REMAP (R454, R455): the quiet point of a queued row. -/
def execSramRowRemap (array row : Nat) (s : State) : Result :=
  if !s.on Reg.RPR_CTRL_FIELD_REMAP_EN || !arrayExists array || !s.rowQuiet array row then .next s
  else
    let k := sramRow array row
    let s0 : State := { s with rpr := { s.rpr with queued := remove s.rpr.queued k, rowErrs := Assoc.erase s.rpr.rowErrs k } }
    match useSpareRow array row s0 with
    | some s1 => .next (bump Reg.RPR_ROW_REMAP_CNT s1)
    | none => .next (settle (noSpare 1 array row s0))

/-! DRAM (R457) -/

/-- DRAM_ROW_LIMIT (R457): the error that brings a row to its limit is shown, as corrected or uncorrectable. -/
def execDramRowLimit (loc row : Nat) (ue : Bool) (s : State) : Result :=
  let s1 := setF Reg.RPR_DRAM_LAST_ROW_ROW row (setF Reg.RPR_DRAM_LAST_LOC (loc % 2 ^ 13 + 2 ^ 13 * b2n ue) s)
  let s2 := if ue then event Reg.RPR_DRAM_EVENT_UE Reg.RPR_DRAM_UE_CNT s1 else event Reg.RPR_DRAM_EVENT_CE Reg.RPR_DRAM_CE_CNT s1
  let s3 := event Reg.RPR_DRAM_EVENT_ROW_LIMIT Reg.RPR_DRAM_ROW_LIMIT_CNT s2
  .next (settle (if ue then countDramUe false s3 else s3))

/-- DRAM_PPR (R457): a hard repair outside the self-test is ignored, and so is a GO while a repair runs. -/
def execDramPpr (loc row : Nat) (hard : Bool) (s : State) : Result :=
  land 0x111010 (.dramPpr loc row hard) (fun t =>
    if hard || t.on Reg.RPR_DRAM_PPR_BUSY then ignored 6 0 t
    else
      let t1 := setF Reg.RPR_DRAM_PPR_ROW_ROW row (setF Reg.RPR_DRAM_PPR_HARD 0 (setF Reg.RPR_DRAM_PPR_LOC loc t))
      setF Reg.RPR_DRAM_PPR_FAIL 0 (setF Reg.RPR_DRAM_PPR_GO 1 (setF Reg.RPR_DRAM_PPR_BUSY 1 t1))) s

/-- Channel, sub-channel, device and bank group of a location: what one repair resource serves (R453). -/
def repairGroup (loc : Nat) : Nat := loc % 2 ^ 11

/-- DRAM_PPR_DONE (R457): the soft repair is listed; without one left the region that holds the row is retired, up to 64 of them. -/
def execDramPprDone (region : Nat) (s : State) : Result :=
  if !s.on Reg.RPR_DRAM_PPR_BUSY then .next s
  else
    let loc := s.get Reg.RPR_DRAM_PPR_LOC
    let row := s.get Reg.RPR_DRAM_PPR_ROW_ROW
    let chan := bits loc 0 2
    let time := s.nowMs / 1000 % 2 ^ 32
    let s1 := setF Reg.RPR_DRAM_PPR_GO 0 (setF Reg.RPR_DRAM_PPR_BUSY 0 s)
    let s2 :=
      if !s.rpr.softUsed.contains (repairGroup loc) then
        listRepair ⟨5, 0x2000 + chan, loc, row, time⟩ (pushRecord 9 0x20 chan 0 loc
          { s1 with rpr := { s1.rpr with softUsed := s1.rpr.softUsed ++ [repairGroup loc] } })
      else
        let t := setF Reg.RPR_DRAM_PPR_FAIL 1 s1
        if s.rpr.regions.contains region || decide (64 ≤ s.rpr.regions.length) then t
        else listRepair ⟨6, 0x2000 + chan, loc, row, time⟩ (pushRecord 11 0x20 chan 1 loc
          { t with rpr := { t.rpr with regions := t.rpr.regions ++ [region] } })
    .next (event Reg.RPR_DRAM_EVENT_PPR_DONE Reg.RPR_DRAM_PPR_CNT s2)

/-! The power-on self-test (R456) -/

/-- A unit listed as retired in the repair table. -/
def State.listed (s : State) (id : Nat) : Bool := s.repairTable.rows.any (fun e => e.type == 4 && e.ident == id)

/-- Step 1: the table's row, column and way repairs and retired SAS islands are applied again; retired DRAM regions stay so. -/
def reapply (e : RepairRow) (s : State) : State :=
  if e.type = 1 then
    let key := e.ident * 65536 + e.place / 512
    { s with rpr := { s.rpr with rowsUsed := Assoc.set s.rpr.rowsUsed key (Assoc.getD s.rpr.rowsUsed key 0 + 1) } }
  else if e.type = 2 then
    { s with rpr := { s.rpr with colsUsed := Assoc.set s.rpr.colsUsed e.ident (Assoc.getD s.rpr.colsUsed e.ident 0 + 1) } }
  else if e.type = 3 then { s with cch := { s.cch with waysOff := s.cch.waysOff ++ [(e.ident % 256, e.place / 16, e.place % 16)] } }
  else if e.type = 4 ∧ e.ident / 256 = 7 then
    (if h : e.ident % 256 < 18 then retireIsland (.sas ⟨e.ident % 256, h⟩) s else s)
  else s

/-- Classes whose failure without a spare is FATAL at power-on (R454). -/
def fatalClass (id : Nat) : Bool := decide (8 ≤ id / 256) && decide (id / 256 ≤ 0xC)

/-- Step 2: a failing row or column is mapped out. -/
def mapRow (id row : Nat) (s : State) : State :=
  match useSpareRow id row s with
  | some s1 => s1
  | none =>
    let s1 := noSpare 1 id row s
    if fatalClass id then setF Reg.RPR_POST_FATAL 1 s1 else s1
def mapColumn (id : Nat) (s : State) : State :=
  let used := Assoc.getD s.rpr.colsUsed id 0
  if used < 2 then pushRecord 2 (id / 256) (id % 256) 0 used { s with rpr := { s.rpr with colsUsed := Assoc.set s.rpr.colsUsed id (used + 1) } }
  else
    let s1 := noSpare 2 id 0 s
    if fatalClass id then setF Reg.RPR_POST_FATAL 1 s1 else s1

/-- Step 3: engines that pass fill the set in service up to TARGET, lowest numbers first; the others that pass are spares. -/
def placeEngines (passing : List Nat) (s : State) : State :=
  let good := allEngines.filter (fun e => passing.contains e && !s.listed (0x2100 + e) && !s.listed (0x400 + e) && s.engState e != EngSt.retired)
  let target := max 1 (s.get Reg.OXE_CTRL_TARGET)
  let s1 := forEach allEngines (fun e t =>
    if good.contains e then setEng e (if (good.take target).contains e then EngSt.inService else EngSt.spare) t
    else if t.listed (0x2100 + e) then setEng e EngSt.retired (retireIsland (engIsland e) t)
    else if t.engState e = EngSt.retired then t
    else pushRecord 5 0x21 e 1 0 (retireIsland (engIsland e) (setEng e EngSt.retired t))) s
  when (decide (s1.inService.length < 12)) (raiseFault 2) s1

/-- Step 4: cores that pass are in service, but the highest, which is the spare. -/
def placeCores (passing : List Nat) (s : State) : State :=
  let good := (List.range 9).filter (fun n => passing.contains n && !s.listed (0x2200 + n) && !s.rpr.coresRetired.contains n)
  let spare := good.getLast?
  let mask (l : List Nat) : Nat := (l.map (fun n => 2 ^ n)).sum
  setF Reg.CCH_CORES_SPARE (mask spare.toList) (setF Reg.CCH_CORES_IN_SERVICE (mask (good.filter (fun n => some n != spare))) s)

/-- Step 5: a hard repair for each soft one listed, whose entry is removed; where none is left, the soft repair is applied again. -/
def hardRepairs (s : State) : State :=
  let rows := s.repairTable.rows
  let first (e : RepairRow) : Bool := rows.find? (fun x => x.type == 5 && repairGroup x.place == repairGroup e.place) == some e
  let hard (e : RepairRow) : Bool := e.type == 5 && !s.rpr.hardUsed.contains (repairGroup e.place) && first e
  let s1 := forEach (rows.filter (fun e => e.type == 5)) (fun e t =>
    let k := repairGroup e.place
    if !hard e then { t with rpr := { t.rpr with softUsed := addOnce t.rpr.softUsed k } }
    else pushRecord 10 0x20 (e.ident - 0x2000) 0 e.place { t with rpr := { t.rpr with hardUsed := t.rpr.hardUsed ++ [k] } }) s
  let left := rows.filter (fun e => !hard e)
  when (s1.mayStore && decide (left.length < rows.length)) (writeTable s1.repairTable.total left) s1

/-- Rows, columns and ways mapped out. -/
def State.remaps (s : State) : Nat :=
  min 1023 ((s.rpr.rowsUsed.map Prod.snd).sum + (s.rpr.colsUsed.map Prod.snd).sum + s.cch.waysOff.length)

/-- POST_DONE (R456): `engines` and `cores` are those that pass their tests, `rows` and `columns` the new failures of the march test. HOST and FAB
leave reset, and training of the host link begins (R472). -/
def execPostDone (engines cores : List Nat) (rows : List (Nat × Nat)) (columns : List Nat) (s : State) : Result :=
  if s.on Reg.RPR_POST_DONE then .next s
  else
    let s1 := forEach columns mapColumn (forEach rows (fun r t => mapRow r.1 r.2 t) (forEach s.repairTable.rows reapply s))
    let s2 := hardRepairs (placeCores cores (placeEngines engines s1))
    let s3 := setF Reg.RPR_POST_REMAPS s2.remaps (setF Reg.RPR_POST_CORES
      ((List.range 9).filter (fun n => bitOf (s2.get Reg.CCH_CORES_IN_SERVICE) n == 1)).length
      (setF Reg.RPR_POST_ENGINES s2.inService.length (setF Reg.RPR_POST_DONE 1 s2)))
    let s4 := pushRecord 14 0 0 0 (s3.rawWord 0x110004) s3
    .next (settle { s4 with
      sys := { s4.sys with inReset := s4.sys.inReset.filter (fun i => i != .host && i != .fab) }
      hif := { s4.hif with training := true } })

/-! Lanes (R460, R461) -/

/-- Lanes in use of the three mirror ports. -/
def State.mirLanes (s : State) : Nat := s.fabLanes 4 + s.fabLanes 5 + s.fabLanes 6

/-- A port's width has changed: the record gives the port's failed lanes and its width; the spec gives no RESULT for a lane. -/
def recordLane (kind port : Nat) (s : State) : State :=
  let failed := (List.range 4).filter (fun l => s.rpr.lanes.contains (4 * port + l))
  let cls := if port < 4 then 0x11 else 0x12
  useFree (pushRecord kind cls (if port < 4 then port else port - 4) (s.freeVal 8) (laneMask failed + 2 ^ 16 * s.fabLanes port)
    (event Reg.RPR_EVENT_LANE_CHANGE Reg.RPR_LANE_CHANGE_CNT s))

/-- The mirror link carries on over the lanes that are left; with none it is down (R366, R460). -/
def showMirror (s : State) : State :=
  if !s.on Reg.FOV_MIR_STATUS_LINK_UP then s
  else if s.mirLanes = 0 then
    (match execMirrorLinkDown s with | .next t => t | _ => s)
  else setF Reg.FOV_MIR_STATUS_LANES s.mirLanes s

/-- FABRIC_LANE_FAILURE (R460): ports 0 to 3 are the fabric's, 4 to 6 the mirror's; the port retrains. -/
def execFabricLaneFailure (port : Fin 7) (lane : Fin 4) (s : State) : Result :=
  let l := 4 * port.val + lane.val
  if s.rpr.lanes.contains l then .next s
  else
    let before := s.fabLanes port.val
    let s1 : State := { s with rpr := { s.rpr with lanes := s.rpr.lanes ++ [l] } }
    let s2 := if s1.fabLanes port.val = before then s1 else recordLane 12 port.val s1
    .next (settle (if port.val < 4 then portDown port.val s2 else showMirror s2))

/-- LANE_RESTORE (R460): every fabric and mirror port retrains with all its lanes. -/
def execLaneRestore (s : State) : Result :=
  land 0x110000 .laneRestore (fun t =>
    let narrow := (List.range 7).filter (fun p => t.fabLanes p != 4)
    let t1 : State := { t with rpr := { t.rpr with lanes := [] } }
    let t2 := forEach narrow (recordLane 13) t1
    settle (showMirror (forEach [0, 1, 2, 3] portDown t2))) s

end Sys2Proof.Machine
end

