-- ==== Sys2Proof/Machine/Control.lean ====
section
/-! DEFINITION. The admin commands for self-tests, power state, roles, firmware storage and the pack (R249 to R261). -/

namespace Sys2Proof.Machine

/-- The code in OPTIONS bits [3:0]. -/
def optCode (e : Entry) : Nat := e.options % 16

/-! Self-tests (R249 to R254) -/

/-- A self-test starts where none runs (R249). -/
def startTest (n kind : Nat) (s : State) : State :=
  if s.cmd.testRunning ≠ 0 then finish n St.selfTest 0 s else finish n St.success 0 (beginTest kind s)

/-- SELF_TEST_SHORT (R249, R250): a code other than 1, 2 and 0xF is refused. -/
def execSelfTestShort (cid : Nat) (s : State) : Result :=
  runAdmin cid .selfTest (fun e => optCode e != 2 && optCode e != 15) (fun n c t =>
    if optCode c.e = 1 then startTest n 1 t else refuse n 0 t) s

/-- SELF_TEST_EXTENDED (R251): SHORT comes first. -/
def execSelfTestExtended (cid : Nat) (s : State) : Result :=
  runAdmin cid .selfTest (fun e => optCode e == 2) (fun n _ t => startTest n 2 t) s

/-- SELF_TEST_ABORT (R253). -/
def execSelfTestAbort (cid : Nat) (s : State) : Result :=
  runAdmin cid .selfTest (fun e => optCode e == 15) (fun n _ t => finish n St.success 0 (endTest 2 0 t)) s

/-- SELF_TEST_RESUME (R252): 5 s have passed with no entry pending and none in flight. Suspended time does not count as running time. -/
def execSelfTestResume (s : State) : Result :=
  if s.cmd.testSuspended && !s.ioPending && !s.ioInFlight then
    .next { s with cmd := { s.cmd with testSuspended := false, testStart := s.cmd.testStart + (s.clock - s.cmd.testPaused) } }
  else .next s

/-- The schedules of an array's grazes start (R251). -/
def restartGraze (a : Nat) (s : State) : State :=
  onCare a (fun c => { c with
    next := []
    started := (List.range 9).map (fun k => (k, s.clock))
    overdue := [] }) s

/-- EXTENDED has grazed every row of an array: `reads` is what the members of its rows read, first and under the row's lock. -/
def endExtendedOn (reads : List (Nat × RowTwice)) (a : Nat) (s : State) : State :=
  let mine := (reads.filter (fun r => r.1 == a && decide (r.2.row < (s.geo a).rows))).map (fun r => r.2)
  let found := (mine.filter (fun r => s.mismatches a r.row none r.first && s.confirms a r.row r.again)).length
  let s1 := grazeRows a none (mine.map (fun r => r.row)) mine (stat a 1 (s.geo a).rows s)
  restartGraze a { s1 with cmd := { s1.cmd with
    testRows := s1.cmd.testRows + (s.geo a).rows
    testMismatch := s1.cmd.testMismatch + found } }

/-- Members of an array that are not erased and not awake. -/
def State.asleepMembers (s : State) (a : Nat) : List Nat :=
  (List.range (s.geo a).members).filter (fun m => !(s.erasedMembers a).contains m && !s.awakeMember a m)

/-- The members of the array that EXTENDED grazes next are woken; after the last array the test ends. -/
def nextTestArray (s : State) : State :=
  match s.cmd.testLeft with
  | [] => endTest (if s.cmd.testFail = 0 then 0 else 1) s.cmd.testFail s
  | a :: _ => forEach ((s.asleepMembers a).map (s.physMember a)) wakeSlot s

/-- The first step of SHORT that fails, 0 for none (R250): what the steps find outside the model is `failStep`; step 2 fails where a fitted,
learned pack has no valid slot (R331), and an engine or a core that fails its test makes step 3 or 4 fail. -/
def State.shortFails (s : State) (f : ShortFindings) : Nat :=
  let fails := [f.failStep, if s.lcapLost then 2 else 0, if f.engines.isEmpty then 0 else 3, if f.cores.isEmpty then 0 else 4].filter (fun k => k != 0)
  fails.foldl min (fails.headD 0)

/-- The steps of SHORT have run: a learned-capacity slot is written again from its valid partner (R331), and engines and cores that failed are
retired (R108, R458). -/
def endShort (f : ShortFindings) (s : State) : State :=
  forEach f.cores (fun c t => retireCore c.1.val c.2 t)
    (forEach f.engines (fun e t => settleEngine e.val (onEng e.val (fun x => { x with retireDue := true }) t)) (healLcap s))

/-- SELF_TEST_DONE (R250, R251, R254): SHORT ends, of EXTENDED first its SHORT part and then the graze of each array in turn, whose members have to
be awake. `found` is what the steps of SHORT find, `reads` what the rows' members read, first and again under the lock.
A test that stands suspended does not end. -/
def execSelfTestDone (found : ShortFindings) (reads : List (Nat × RowTwice)) (s : State) : Result :=
  if s.cmd.testRunning = 0 ∨ s.cmd.testSuspended = true then .next s
  else if !s.cmd.testGrazes then
    let fail := s.shortFails found
    let s1 := endShort found s
    let left := if s.cmd.testRunning = 2 then s.validArrays else []
    .next (after (nextTestArray { s1 with cmd := { s1.cmd with testFail := fail, testGrazes := true, testLeft := left } }))
  else match s.cmd.testLeft with
  | [] => .next (after (nextTestArray s))
  | a :: rest =>
    if !(s.asleepMembers a).isEmpty then .next (after (nextTestArray s))
    else
      let s1 := endExtendedOn reads a s
      .next (after (nextTestArray { s1 with cmd := { s1.cmd with testLeft := rest } }))

/-! Power state (R255, R256) -/

/-- A command has begun and waits in a list of the firmware. -/
def beginCmd (n : Nat) (s : State) : State := onCmd n (fun x => { x with begun := true }) s

/-- A PARK or a WAKE waits for its mode. -/
def awaitPark (n : Nat) (s : State) : State :=
  beginCmd n { s with cmd := { s.cmd with parkCmds := addOnce s.cmd.parkCmds n } }
def awaitWake (n : Nat) (s : State) : State :=
  beginCmd n { s with cmd := { s.cmd with wakeCmds := addOnce s.cmd.wakeCmds n } }

/-- POWER_STATE_QUERY (R255): a code other than 0, 1 and 2 is refused. -/
def execPowerStateQuery (cid : Nat) (s : State) : Result :=
  runAdmin cid .powerState (fun e => optCode e != 1 && optCode e != 2) (fun n c t =>
    if optCode c.e = 0 then finish n St.success t.mode t else refuse n 0 t) s

/-- POWER_STATE_PARK (R255). -/
def execPowerStatePark (cid : Nat) (s : State) : Result :=
  runAdmin cid .powerState (fun e => optCode e == 1) (fun n _ t =>
    if t.mode = Mode.parked then finish n St.success t.mode t
    else if t.modeIn [Mode.waking, Mode.takeover, Mode.serving] then
      let t1 := awaitPark n t
      settle { t1 with sys := { t1.sys with parkPending := true } }
    else if t.mode = Mode.draining then awaitPark n t
    else finish n St.notActive t.mode t) s

/-- POWER_STATE_WAKE (R255): in DRAINING the wake takes effect after the park (R33). -/
def execPowerStateWake (cid : Nat) (s : State) : Result :=
  runAdmin cid .powerState (fun e => optCode e == 2) (fun n _ t =>
    if t.mode = Mode.serving then finish n St.success t.mode t
    else if t.mode = Mode.parked then (if t.active then startWake (awaitWake n t) else finish n St.notActive t.mode t)
    else if t.modeIn [Mode.waking, Mode.takeover] then awaitWake n t
    else if t.mode = Mode.draining then
      let t1 := awaitWake n t
      { t1 with sys := { t1.sys with wakePending := true } }
    else finish n St.notActive t.mode t) s

/-! Roles (R258) -/

/-- A refusal of ROLE_CONTROL: the reason above the mode. -/
def refuseRole (n reason : Nat) (s : State) : State := refuse n (reason * 256 + s.mode) s

/-- A ROLE_CONTROL waits for its handover or its mode. -/
def awaitRole (n action : Nat) (s : State) : State :=
  beginCmd n { s with cmd := { s.cmd with roleCmds := s.cmd.roleCmds ++ [(n, action)] } }

/-- Whether ROLE_CONTROL's code is this action. -/
def roleAction (a : Nat) (e : Entry) : Bool := optCode e == a

/-- SWAP (R258): a code that names no action is refused here. -/
def execSwap (cid : Nat) (s : State) : Result :=
  runAdmin cid .roleControl (fun e => decide (optCode e < 2) || decide (5 < optCode e)) (fun n c t =>
    if optCode c.e ≠ 1 then refuse n t.mode t
    else if !t.active then finish n St.notActive t.mode t
    else if t.on Reg.FOV_CTRL_HOLD then refuseRole n 4 t
    else if !t.partnerLive then refuseRole n 1 t
    else settle (wantHandover false (awaitRole n 1 t))) s

/-- ENTER_SERVICE (R258, R364 reason 10). -/
def execEnterService (cid : Nat) (s : State) : Result :=
  runAdmin cid .roleControl (roleAction 2) (fun n c t =>
    if t.mode = Mode.service then finish n St.success t.mode t
    else if t.on Reg.FOV_CTRL_HOLD then refuseRole n 4 t
    else if t.active && t.partnerLive then settle (wantHandover true (awaitRole n 2 t))
    else if t.active && bitOf c.e.options 8 == 0 then refuseRole n 2 t
    else
      let t1 := awaitRole n 2 t
      settle { t1 with sys := { t1.sys with servicePending := true } }) s

/-- LEAVE_SERVICE (R27, R258): into STANDBY while the partner holds ACTIVE_N, else into WAKING with both lines claimed. A position
conflict (R474) and RPR_POST.FATAL (R454) keep the module in SERVICE; the spec names no reason for that refusal. -/
def execLeaveService (cid : Nat) (s : State) : Result :=
  runAdmin cid .roleControl (roleAction 3) (fun n _ t =>
    if t.mode ≠ Mode.service then refuseRole n 3 t
    else if t.sys.posConflict || t.on Reg.RPR_POST_FATAL then useFree (refuseRole n (t.freeVal 8) t)
    else if t.on Reg.FOV_STATUS_ACTIVE_LINE then
      let t1 := enterStandby (roleChanged t.role 0 (setF Reg.FOV_CTRL_STANDBY_ROLE 1 t))
      settle (finish n St.success t1.mode t1)
    else
      let t1 := leaveParked (claimLines t)
      settle (finish n St.success t1.mode t1)) s

/-- SET_PREFERRED (R258, R359): stored in MRAM on both modules. -/
def execSetPreferred (cid : Nat) (s : State) : Result :=
  runAdmin cid .roleControl (roleAction 4) (fun n c t =>
    let b := specField c.e 40 1
    if 1 < b then refuse n t.mode t
    else
      let t1 := setF Reg.FOV_CTRL_PREF_B b t
      finish n St.success t1.mode (sendMir .config (t1.configArgs [10]) t1)) s

/-- REVERT_NOW (R258, R372): `tested` and `persists` as for the hold-off's end. Where nothing is to revert it completes at once. -/
def execRevertNow (cid : Nat) (tested persists : Bool) (s : State) : Result :=
  runAdmin cid .roleControl (roleAction 5) (fun n _ t =>
    if t.on Reg.FOV_CTRL_HOLD then refuseRole n 4 t
    else if !t.active then finish n St.success t.mode t
    else if t.mayExchange then
      let t1 := exchangeRoles t
      finish n St.success t1.mode t1
    else if !t.partnerLive then refuseRole n 1 t
    else
      let ended := t.fov.holdoffStart.isSome || t.fov.holdoffOver
      let t1 : State := { t with fov := { t.fov with holdoffStart := none, holdoffOver := ended } }
      if t1.mayRevert tested persists then settle (wantHandover false (awaitRole n 5 t1))
      else finish n St.success t1.mode t1) s

/-! Firmware storage (R259, R260) -/

/-- FIRMWARE_STAGE (R259): `data` is what the host buffer holds; a stage at offset 0 discards what was staged before. -/
def execFirmwareStage (piece : StagePiece) (s : State) : Result :=
  runAdmin piece.cid .firmwareStage (fun _ => true) (fun n c t =>
    let off := specField c.e 40 4
    let len := bufferLen c.e
    if off % 4096 ≠ 0 ∨ len % 4096 ≠ 0 ∨ 2 ^ 20 < len ∨ 2 ^ 26 < off + len then refuse n 0 t
    else withBuffer n c len (fun u0 =>
      let u := fromHost c.e u0
      finish n St.success 0 { u with cmd := { u.cmd with
        staged := (if off = 0 then [] else u.cmd.staged.filter (fun p => p.1 != off)) ++ [(off, padTo len piece.data)] } }) t) s

/-- The staged pieces cover an image of a length without a gap. -/
def covers (pieces : List (Nat × List Nat)) (len : Nat) : Bool :=
  let ends := (sortBy (fun a b => decide (a.1 ≤ b.1)) pieces).foldl (fun e p => if p.1 ≤ e then max e (p.1 + p.2.length) else e) 0
  decide (len ≤ ends)

/-- Slot and action of a FIRMWARE_COMMIT. -/
def commitSlot (e : Entry) : Nat := bits e.options 0 2
def commitAction (e : Entry) : Nat := bits e.options 4 3

/-- The first reason of R260 against a commit that stores the staged image, or 0. -/
def State.storeRefusal (s : State) (e : Entry) (x : ImageFacts) : Nat :=
  let slot := commitSlot e
  if slot ≠ 1 ∧ slot ≠ 2 then 6
  else if commitAction e = 3 ∧ s.mode ≠ Mode.service then 5
  else if slot = s.get Reg.SYS_BOOT_SLOT then 7
  else if s.cmd.staged.isEmpty then 1
  else if !covers s.cmd.staged x.length then 2
  else if !x.signed then 3
  else if !x.ours then 4
  else 0

/-- A verified image is stored in a slot. -/
def storeImage (slot number : Nat) (s : State) : State :=
  { s with sys := { s.sys with images := Assoc.set s.sys.images slot number } }

/-- FW_COMMIT_STORE (R260, action 0); an action that has no name is refused here. -/
def execFwCommitStore (cid : Nat) (image : ImageFacts) (s : State) : Result :=
  runAdmin cid .firmwareCommit (fun e => commitAction e == 0 || decide (4 < commitAction e)) (fun n c t =>
    if commitAction c.e ≠ 0 then refuse n 0 t
    else
      let r := t.storeRefusal c.e image
      if r ≠ 0 then refuse n (r * 256) t else finish n St.success 0 (storeImage (commitSlot c.e) image.number t)) s

/-- FW_COMMIT_STORE_ACTIVATE_NEXT (R260, action 1). -/
def execFwCommitStoreActivateNext (cid : Nat) (image : ImageFacts) (s : State) : Result :=
  runAdmin cid .firmwareCommit (fun e => commitAction e == 1) (fun n c t =>
    let r := t.storeRefusal c.e image
    if r ≠ 0 then refuse n (r * 256) t
    else finish n St.success 0 (setF Reg.SYS_BOOT_NEXT_SLOT (commitSlot c.e) (storeImage (commitSlot c.e) image.number t))) s

/-- FW_COMMIT_ACTIVATE_NEXT (R260, action 2). -/
def execFwCommitActivateNext (cid : Nat) (s : State) : Result :=
  runAdmin cid .firmwareCommit (fun e => commitAction e == 2) (fun n c t =>
    let slot := commitSlot c.e
    if slot ≠ 1 ∧ slot ≠ 2 then refuse n (6 * 256) t
    else if (Assoc.find t.sys.images slot).isNone then refuse n (1 * 256) t
    else finish n St.success 0 (setF Reg.SYS_BOOT_NEXT_SLOT slot t)) s

/-- FW_COMMIT_INSTALL_ROOT (R260, action 4): the staged certificate becomes the operator firmware root. -/
def execFwCommitInstallRoot (cid : Nat) (image : ImageFacts) (s : State) : Result :=
  runAdmin cid .firmwareCommit (fun e => commitAction e == 4) (fun n c t =>
    let slot := commitSlot c.e
    let r := if slot ≠ 1 ∧ slot ≠ 2 then 6 else if t.mode ≠ Mode.service then 5 else if t.cmd.staged.isEmpty then 1
      else if !covers t.cmd.staged image.length then 2 else if !image.signed then 3 else 0
    if r ≠ 0 then refuse n (r * 256) t
    else finish n St.success 0 { t with cmd := { t.cmd with operatorFwRoot := some (Config.digest image.number) } }) s

/-! The pack (R261, R333) -/

/-- PACK_AUTHENTICATE (R261, R333): a code that names no action is refused here. -/
def execPackAuthenticate (cid : Nat) (ok : Bool) (s : State) : Result :=
  runAdmin cid .packAuth (fun e => optCode e != 2 && optCode e != 3) (fun n c t =>
    if optCode c.e ≠ 1 then refuse n 0 t
    else if t.bat.desc.isNone then finish n St.success 2 t
    else
      let t1 := authOutcome ok { t with bat := { t.bat with authFails := 0 } }
      finish n St.success (b2n (!(ok && t.chainsToRoot))) t1) s

/-- The fitted pack is checked against the roots now installed, and authenticated again (R333). -/
def rootChanged (ok : Bool) (s : State) : State :=
  if s.bat.desc.isNone then s else authOutcome ok { s with bat := { s.bat with authFails := 0 } }

/-- PACK_INSTALL_ROOT (R261, R333): `root` is the certificate in the buffer. -/
def execPackInstallRoot (cid root : Nat) (ok : Bool) (s : State) : Result :=
  runAdmin cid .packAuth (fun e => optCode e == 2) (fun n c t =>
    if t.mode ≠ Mode.service then refuse n 0 t
    else if 4096 < bufferLen c.e then finish n St.fragmentError 0 t
    else withBuffer n c (bufferLen c.e) (fun u0 =>
      let u := fromHost c.e u0
      finish n St.success 3 (rootChanged ok { u with bat := { u.bat with operatorRoot := some (Config.digest root) } })) t) s

/-- PACK_REMOVE_ROOT (R261, R333). -/
def execPackRemoveRoot (cid : Nat) (ok : Bool) (s : State) : Result :=
  runAdmin cid .packAuth (fun e => optCode e == 3) (fun n _ t =>
    if t.mode ≠ Mode.service then refuse n 0 t
    else finish n St.success 3 (rootChanged ok { t with bat := { t.bat with operatorRoot := none } })) s

end Sys2Proof.Machine
end

