-- ==== Sys2Proof/Machine/Copy.lean ====
section
/-! DEFINITION. COPY (R266), and copies between shelves at their source and their destination (R402, R403). -/

namespace Sys2Proof.Machine

/-! The command -/

/-- COPY's own checks at step 6 of R207 (R266). A destination volume that is not valid is refused as any invalid volume. -/
def State.copyCheck (s : State) (e : Entry) : Option Nat :=
  let n := e.nlbM1 + 1
  if 262144 < n then some St.invalidLength
  else if copyRemote e then (if s.on Reg.SYS_STRAP_COMPAT || s.ownAddr?.isNone then some St.invalidField else none)
  else if !(decide (copyVol e < 64) && s.volValid (copyVol e)) then some St.invalidField
  else if s.volBlocks (copyVol e) < copyLba e + n then some St.lbaOutOfRange
  else if copyVol e = e.vol ∧ copyLba e < e.slba + n ∧ e.slba < copyLba e + n then some St.invalidField
  else none

/-- Blocks of a COPY that can be copied: all those before its first failing one (R266). -/
def Cmd.usable (c : Cmd) : Nat := if c.status = 0 then c.e.nlbM1 + 1 else c.failIdx

/-- A block of the command's buffer. -/
def Cmd.block (c : Cmd) (i : Nat) : Block := (Assoc.getD c.buf i {}).data

/-- RESULT of a COPY without its level: the index of the first block not copied, where it stops early (R266). -/
def Cmd.copyResult (c : Cmd) : Nat := if c.status = 0 then 0 else c.usable * 256

/-- A local COPY has committed every block it can. -/
def copyStop (n : Nat) (s : State) : State :=
  match s.cmd? n with
  | some c =>
    if c.usable ≤ c.next then endWrite n (onCmd n (fun x => { x with final := true, result := x.copyResult }) s) else s
  | none => s

/-- The guards and tags of a row's blocks are checked, where the command carries protection information. -/
def checkRow (c : Cmd) (blocks : List Block) (s : State) : Option (Nat × Nat) × State :=
  if bitOf c.e.flags 1 = 1 then
    checkBlocks c ((blocks.zipIdx).map (fun b => (⟨b.1, hostGuard b.1, c.e.slba + c.next + b.2⟩ : HostBlock))) c.next s
  else (none, s)

/-- Checked blocks land and commit; the first that failed its check ends the command. -/
def landRow (n : Nat) (c : Cmd) (v lba : Nat) (blocks : List Block) (bad : Option (Nat × Nat)) (s : State) : State :=
  match bad with
  | some (kind, i) => ingestFails n c kind i s
  | none => copyStop n (commitRow n v lba (landBlocks blocks s).1 false (landBlocks blocks s).2)

/-- The next destination row of a local COPY commits (R266): its guards are checked where the blocks land. -/
def copyRow (n : Nat) (c : Cmd) (s : State) : State :=
  let v := copyVol c.e
  let lba := copyLba c.e + c.next
  if c.usable ≤ c.next then copyStop n s
  else if s.writeRefused v lba (c.usable - c.next) then finish n St.arrayOffline 0 s
  else
    let blocks := (List.range (min (s.toRowEnd v lba) (c.usable - c.next))).map (fun i => c.block (c.next + i))
    landRow n c v lba blocks (checkRow c blocks s).1 (checkRow c blocks s).2

/-! At the source of a remote COPY (R402) -/

/-- A remote COPY changed, or gone. -/
def onCopy (id : Nat) (f : CopyOut → CopyOut) (s : State) : State :=
  { s with fab := { s.fab with copies := s.fab.copies.map (fun x => if x.id = id then f x else x) } }
def dropCopy (id : Nat) (s : State) : State := { s with fab := { s.fab with copies := s.fab.copies.filter (fun x => x.id != id) } }

/-- A remote COPY ends. -/
def endCopy (x : CopyOut) (status result : Nat) (s : State) : State := finish x.cmd status result (dropCopy x.id s)

/-- A batch is sent (R402): COPY_DESC, then COPY_DATA for each block. Guards go along with PI_ENABLE unless they are skipped. -/
def sendBatch (x : CopyOut) (c : Cmd) (batch : Nat) (b : CopyBatch) (s : State) : State :=
  let pi := bitOf c.e.flags 1 == 1 && bitOf c.e.piCtrl 0 == 0
  let blocks := (List.range b.nblk).map (fun i => c.block (b.first + i))
  let desc := leBytes 8 x.id ++ leBytes 8 (copyLba c.e + b.first) ++ [copyVol c.e % 64, b.nblk - 1, b2n pi, 0]
    ++ blocks.flatMap (fun d => leBytes 4 (crc32c (leBytes 4096 d)))
    ++ (if pi then blocks.flatMap (fun d => leBytes 8 (hostGuard d)) else [])
  let xseq := batch % 1024 * 64
  forEach blocks.zipIdx (fun d t => sendFrame .copyData x.addr (xseq + d.2) (leBytes 4096 d.1) t)
    (sendFrame .copyDesc x.addr xseq desc s)

/-- Batches go out while fewer than 16 are unacknowledged, at most `k` of them; a COPY with nothing more to send or to wait for
completes. -/
def copySend (id : Nat) : Nat → State → State
  | 0, s => s
  | k + 1, s =>
    match s.fab.copies.find? (fun x => x.id == id) with
    | none => s
    | some x =>
      match s.cmd? x.cmd with
      | none => dropCopy id s
      | some c =>
        if x.next < c.usable then
          (if 16 ≤ x.out.length then s
           else if !s.reach x.addr then endCopy x St.arrayOffline 0 s
           else
             let b : CopyBatch := { first := x.next, nblk := min 64 (c.usable - x.next), moved := x.redirected }
             let s1 := onCopy id (fun y => { y with
               next := y.next + b.nblk, batch := y.batch + 1, out := y.out ++ [(y.batch % 1024, b)] }) s
             copySend id k (sendBatch x c x.batch b s1))
        else if x.out.isEmpty then endCopy x c.status (c.copyResult ||| x.level) s else s

/-- A remote COPY begins: its COPY_ID is the UID with a per-copy counter (R402). -/
def copyStart (n : Nat) (c : Cmd) (s : State) : State :=
  let id := Nat.xor s.ownUid s.fab.copyCount
  let s1 : State := { s with fab := { s.fab with
    copies := s.fab.copies ++ [{ cmd := n, id := id, addr := copyNode c.e }], copyCount := s.fab.copyCount + 1 } }
  copySend id 17 s1

/-- What a COPY that has begun does next: once its pieces are in, failing sidecars are settled (R194), and the next row commits or the
remote copy goes on. -/
def copyNext (n : Nat) (c : Cmd) (bad : List Nat) (partner : List (Nat × (Block × Nat))) (s : State) : State :=
  if c.pieces ≠ 0 then s
  else match s.fab.copies.find? (fun x => x.cmd == n) with
    | some x => copySend x.id 17 s
    | none =>
      let failing := if c.next = 0 then (c.buf.filter (fun b => b.2.bad || bad.contains b.1)).map Prod.fst else []
      let s1 := forEach failing (fun i t => match t.cmd? n with | some x => egressFails n x partner i t | none => t) s
      match s1.cmd? n with
      | none => s1
      | some x => if x.pieces ≠ 0 then s1 else if copyRemote x.e then copyStart n x s1 else copyRow n x s1

/-- COPY (R266): it is checked and its source read in the first occurrence; each later one commits the next destination row, or sends what
a remote destination may still take. `bad` and `partner` are as for HOST_DATA_EGRESS. -/
def execCopy (qid cid : Nat) (bad : List Nat) (partner : List (Nat × (Block × Nat))) (s : State) : Result :=
  match s.qmx.cmds.find? (fun c => c.2.e.qid == qid && qid != 0 && c.2.e.cid == cid && c.2.e.opcode == 0x25 && !c.2.final) with
  | none => .next s
  | some (n, c) => .next (after (
    if c.begun then copyNext n c bad partner s
    else
      let s1 := screen n s
      match s1.cmd? n with
      | none => s1
      | some d =>
        if !s1.mayBegin n d then s1
        else match s1.copyCheck d.e with
          | some st => finish n st 0 s1
          | none => splitPieces n (onCmd n (fun x => { x with begun := true }) s1)))

/-- The node of a module's partner, for a batch that a standby turned away (R403). -/
def State.partnerOf (s : State) (a : Nat) : Option Nat :=
  match s.fab.nodes.find? (fun n => n.addr == a) with
  | some n => if n.partner = 0 then none else (s.fab.nodes.find? (fun m => m.uid == n.partner)).map (·.addr)
  | none => none

/-- An acknowledged batch of a remote COPY (R403). -/
def copyAcked (x : CopyOut) (c : Cmd) (batch : Nat) (b : CopyBatch) (status level : Nat) (s : State) : State :=
  let keep (f : CopyBatch → CopyBatch) : State := onCopy x.id (fun y => { y with out := Assoc.set y.out batch (f b) }) s
  if status = 0xFFFF then sendBatch x c batch b (keep (fun y => { y with sends := 1 }))
  else if status = St.success then
    copySend x.id 17 (onCopy x.id (fun y => { y with out := Assoc.erase y.out batch, level := max y.level level }) s)
  else if status = St.notActive ∧ b.moved = false then
    let to' := if x.redirected then some x.addr else s.partnerOf x.addr
    match to' with
    | some a =>
      if s.reach a then
        sendBatch { x with addr := a } c batch b (onCopy x.id (fun y => { y with
          addr := a, redirected := true, out := Assoc.set y.out batch { b with sends := 1, moved := true } }) s)
      else endCopy x St.notActive 0 s
    | none => endCopy x St.notActive 0 s
  else endCopy x status 0 s

/-- COPY_ACK (R403). -/
def execCopyAck (p : Option (Fin 4)) (id batch status level : Nat) (s : State) : Result :=
  arrive p { s.frameFrom .copyAck 0 0 with payload := leBytes 8 id ++ leBytes 2 batch ++ leBytes 2 status ++ [level % 256] } (fun t =>
    match t.fab.copies.find? (fun x => x.id == id) with
    | none => t
    | some x =>
      match t.cmd? x.cmd, Assoc.find x.out batch with
      | some c, some b => copyAcked x c batch b status level t
      | none, _ => dropCopy id t
      | _, none => t) s

/-- The destination is known to be asleep or on its way there or back: it holds its batches for a wake (R403). -/
def State.destWaits (s : State) (a : Nat) : Bool :=
  s.fab.nodes.any (fun n => n.addr == a && [Mode.parked, Mode.waking, Mode.draining].contains n.mode)

/-- COPY_BATCH_TIMEOUT (R403): 100 ms without an answer; five sends in vain end the COPY, unless the destination waits for its wake. -/
def execCopyBatchTimeout (id batch : Nat) (s : State) : Result :=
  match s.fab.copies.find? (fun x => x.id == id) with
  | none => .next s
  | some x =>
    match s.cmd? x.cmd, Assoc.find x.out batch with
    | some c, some b =>
      let waits := s.destWaits x.addr
      if 5 ≤ b.sends ∧ waits = false then .next (after (endCopy x St.arrayOffline 0 s))
      else
        let n := if waits then b.sends else b.sends + 1
        .next (sendBatch x c batch b (onCopy id (fun y => { y with out := Assoc.set y.out batch { b with sends := n } }) s))
    | none, _ => .next (dropCopy id s)
    | _, none => .next s

/-- COPY_WAKE_TIMEOUT (R403): 30 s after a wake of the destination no answer has come. -/
def execCopyWakeTimeout (qid cid : Nat) (s : State) : Result :=
  match s.cmdOf qid cid with
  | some (n, _) =>
    match s.fab.copies.find? (fun x => x.cmd == n) with
    | some x => if x.out.isEmpty then .next s else .next (after (endCopy x St.budgetDenied 0 s))
    | none => .next s
  | none => .next s

/-! At the destination (R403) -/

/-- A command number that no command of this module has: blocks that the fabric brings commit under it. -/
def noCmd : Nat := 2 ^ 64

/-- A range can be committed now (R113, R119, R120, R408). -/
def State.admits (s : State) (v nblk : Nat) : Bool :=
  s.mode == Mode.serving && !s.jnl.toWt && !s.admitStop && !s.volHeld v
    && (s.get Reg.JNL_STATUS_LEVEL != 1 || s.stagingFits nblk)

/-- Blocks land and commit without a command. -/
def commitLanded (v lba : Nat) (blocks : List Block) (s : State) : State :=
  commitBlocks noCmd v lba (landBlocks blocks s).1 false 0 (landBlocks blocks s).2

/-- Blocks commit row by row; the first number bounds the rows. -/
def commitRows (v : Nat) : Nat → Nat → List Block → State → State
  | 0, _, _, s => s
  | k + 1, lba, blocks, s =>
    if blocks.isEmpty then s
    else
      let m := min (s.toRowEnd v lba) blocks.length
      commitRows v k (lba + m) (blocks.drop m) (commitLanded v lba (blocks.take m) s)

/-- An answer to a batch goes to its source. -/
def sendCopyAck (dst id batch status level : Nat) (s : State) : State :=
  sendFrame .copyAck dst 0 (leBytes 8 id ++ leBytes 2 batch ++ leBytes 2 status ++ [level]) s

/-- Why a complete batch cannot be committed at all: the status that answers it. -/
def State.batchStatus (s : State) (b : CopyIn) : Nat :=
  let data := (List.range b.nblk).map (fun i => Assoc.getD b.blocks i 0)
  if !s.volValid b.vol then St.invalidField
  else if s.volBlocks b.vol < b.lba + b.nblk then St.lbaOutOfRange
  else if b.pi && data.map hostGuard != b.guards then St.hostGuard
  else if s.writeRefused b.vol b.lba b.nblk then St.arrayOffline
  else St.success

/-- A complete batch commits as host writes do, and is answered with the level (R403); one that cannot be committed yet is held. -/
def commitBatch (b : CopyIn) (s : State) : State :=
  if b.blocks.length ≠ b.nblk ∨ s.mode ≠ Mode.serving then s
  else
    let st := s.batchStatus b
    let gone (t : State) : State := { t with fab := { t.fab with batches := t.fab.batches.erase b } }
    if st ≠ St.success then sendCopyAck b.src b.id b.batch st 0 (gone s)
    else if !s.admits b.vol b.nblk then s
    else
      let level := s.get Reg.JNL_STATUS_LEVEL
      let s1 := commitRows b.vol b.nblk b.lba ((List.range b.nblk).map (fun i => Assoc.getD b.blocks i 0)) (gone s)
      sendCopyAck b.src b.id b.batch St.success level { s1 with fab := { s1.fab with
        doneBatches := (b.id, b.batch, b.lba, level) :: s1.fab.doneBatches } }

/-- Every held batch is tried. -/
def commitBatches (s : State) : State := forEach s.fab.batches commitBatch s

/-- A wake cause from the fabric (R27): a PARKED active wakes, a DRAINING module wakes after it has parked. -/
def fabricWake (s : State) : State :=
  if s.mode = Mode.parked ∧ s.active = true then startWake s
  else if s.mode = Mode.draining then { s with sys := { s.sys with wakePending := true } } else s

/-- This module turns host writes away (R26). -/
def State.turnsAway (s : State) : Bool :=
  s.modeIn [Mode.standby, Mode.service, Mode.destaging] || (s.mode == Mode.parked && !s.active) || (s.mode == Mode.takeover && s.on Reg.FOV_CTRL_HOLD)

/-- COPY_DESC (R403): a batch is opened; one already committed is answered again. -/
def execCopyDesc (p : Option (Fin 4)) (src batch id lba vol nblkM1 : Nat) (pi : Bool) (crcs guards : List Nat) (s : State) : Result :=
  let payload := leBytes 8 id ++ leBytes 8 lba ++ [vol % 256, nblkM1 % 256, b2n pi, 0] ++ crcs.flatMap (leBytes 4) ++ guards.flatMap (leBytes 8)
  arrive p { s.frameFrom .copyDesc src (batch * 64) with payload := payload } (fun t =>
    match t.fab.doneBatches.find? (fun d => d.1 == id && d.2.1 == batch && d.2.2.1 == lba) with
    | some d => sendCopyAck src id batch St.success d.2.2.2 t
    | none =>
      if t.turnsAway then sendCopyAck src id batch St.notActive 0 t
      else
        let b : CopyIn := ⟨src, id, batch, vol, lba, nblkM1 + 1, pi, crcs, guards, []⟩
        let known := t.fab.batches.any (fun x => x.src == src && x.id == id && x.batch == batch)
        fabricWake (if known then t else { t with fab := { t.fab with batches := t.fab.batches ++ [b] } })) s

/-- COPY_DATA (R403): a block's CRC is computed again where it lands; a batch with a bad block is asked for again. -/
def execCopyData (p : Option (Fin 4)) (src batch idx : Nat) (data : Block) (s : State) : Result :=
  arrive p { s.frameFrom .copyData src (batch * 64 + idx) with payload := leBytes 4096 data } (fun t =>
    match t.fab.batches.find? (fun b => b.src == src && b.batch == batch) with
    | none => t
    | some b =>
      if b.nblk ≤ idx then t
      else if b.crcs.getD idx 0 ≠ crc32c (leBytes 4096 data) then
        sendCopyAck src b.id batch 0xFFFF 0 { t with fab := { t.fab with batches := t.fab.batches.erase b } }
      else
        let b1 : CopyIn := { b with blocks := Assoc.set b.blocks idx data }
        commitBatch b1 { t with fab := { t.fab with batches := t.fab.batches.map (fun x => if x = b then b1 else x) } }) s

end Sys2Proof.Machine
end

