-- ==== Sys2Proof/Machine/DmaOps.lean ====
section
/-! DEFINITION. DMA channels (R444 to R451): their rings, the checks of a descriptor, its record, and the commands that touch no register. -/

namespace Sys2Proof.Machine

/-! Rings (R96, R444) -/

/-- Entries of a channel's rings, and free entries of its completion ring. -/
def State.chSize (s : State) (c : Nat) : Nat := s.get (Reg.DMA_CH_CFG_SIZE_M1 c) + 1
def State.chRoom (s : State) (c : Nat) : Nat :=
  let n := s.chSize c
  n - 1 - (s.get (Reg.DMA_CH_CQ_TAIL_CQ_TAIL c) + n - s.get (Reg.DMA_CH_CQ_HEAD_CQ_HEAD c)) % n

/-- The descriptor that runs on a channel. -/
def State.dmaRun (s : State) (c : Nat) : Option DmaRun := Assoc.find s.dma c

/-- A channel may take its next descriptor (R444, R450). -/
def State.dmaReady (s : State) (c : Nat) : Bool :=
  s.on Reg.DMA_CTRL_ENABLE && s.on (Reg.DMA_CH_CFG_ENABLE c) && !s.on (Reg.DMA_CH_STATUS_HALTED c) && (s.dmaRun c).isNone
    && s.get (Reg.DMA_CH_HEAD_HEAD c) != s.get (Reg.DMA_CH_TAIL_TAIL c) && decide (0 < s.chRoom c)

/-! Descriptors (R445, R446, R448) -/

/-- A descriptor as its 32 bytes give it. -/
structure DmaDesc where
  op : Nat
  srcHost : Bool
  dstHost : Bool
  irq : Bool
  crc : Bool
  mode : Nat
  length : Nat
  src : Nat
  dst : Nat
  tag : Nat
  deriving DecidableEq, Repr

/-- A descriptor read from memory. -/
def State.readDesc (s : State) (a : Nat) : DmaDesc :=
  let b (i : Nat) : Nat := (s.readByte (a + i)).toNat
  let n (i k : Nat) : Nat := leNat (s.readBytes (a + i) k)
  ⟨b 0, bitOf (b 1) 0 == 1, bitOf (b 1) 1 == 1, bitOf (b 1) 2 == 1, bitOf (b 1) 3 == 1, bits (b 2) 0 3, n 4 4, n 8 8, n 16 8, n 24 2⟩

/-- Address of a channel's head descriptor. -/
def State.headDesc (s : State) (c : Nat) : Nat :=
  s.get64 (Reg.DMA_CH_BASE_LO_BASE c) (Reg.DMA_CH_BASE_HI_BASE c) + 32 * s.get (Reg.DMA_CH_HEAD_HEAD c)

/-- Bytes of a swap group (R448). -/
def swapGroup (mode : Nat) : Nat := if mode = 1 then 2 else if mode = 2 ∨ mode = 4 then 4 else if mode = 3 ∨ mode = 5 then 8 else 1

/-- One group reordered (R448). -/
def swapOne (mode : Nat) (g : List Nat) : List Nat :=
  if mode = 4 then g.drop 2 ++ g.take 2
  else if mode = 5 then g.drop 6 ++ (g.drop 4).take 2 ++ (g.drop 2).take 2 ++ g.take 2
  else if mode = 0 then g else g.reverse

/-- A stream reordered group by group, `n` groups of it. -/
def swapBytes (mode : Nat) : Nat → List Nat → List Nat
  | 0, _ => []
  | n + 1, l => swapOne mode (l.take (swapGroup mode)) ++ swapBytes mode n (l.drop (swapGroup mode))

/-- Bytes of the largest single request (R449). -/
def State.burst (s : State) (c : Nat) : Nat := 2 ^ min 12 (max 6 (s.get (Reg.DMA_CH_RATE_BURST_SHIFT c)))

/-- Two ranges of one address space overlap. -/
def overlap (a b n : Nat) : Bool := decide (a < b + n) && decide (b < a + n)

/-- A range that lies in the register region does so in whole words. -/
def wordRange (a n : Nat) : Bool := regionOf a != .regs || (a % 4 == 0 && n % 4 == 0)

/-- The descriptor is one that the channel runs (R446). -/
def DmaDesc.ok (d : DmaDesc) : Bool :=
  (d.op == 1 || d.op == 2) && decide (1 ≤ d.length) && decide (d.length ≤ 16777216) && decide (d.mode < 6)
    && (d.mode == 0 || d.op == 1) && d.length % swapGroup d.mode == 0
    && !(d.op == 1 && d.srcHost == d.dstHost && overlap d.src d.dst d.length)
    && (d.op == 2 || d.srcHost || wordRange d.src d.length) && (d.dstHost || wordRange d.dst d.length)

/-- Every byte of a range lies in a region (R420; DRAM and MRAM adjoin), and a device is reached in whole words (R421). -/
def rangeOk (a n : Nat) : Bool :=
  if a < 0x1080000000 then decide (a + n ≤ 0x1080000000)
  else regionOf a != .none && regionOf a == regionOf (a + n - 1) && (regionOf a == .rom || (a % 4 == 0 && n % 4 == 0))

/-- The ranges of a descriptor lie in regions, and nothing is stored to the ROM (R421, R446). -/
def DmaDesc.placed (d : DmaDesc) : Bool :=
  (d.op == 2 || d.srcHost || rangeOk d.src d.length) && (d.dstHost || (rangeOk d.dst d.length && regionOf d.dst != .rom))

/-- The bytes of a FILL (R445). -/
def fillBytes (pattern n : Nat) : List Nat := (List.range n).map (fun o => (leBytes 8 pattern).getD (o % 8) 0)

/-! Completion (R447, R450) -/

/-- The record of a descriptor: 32 bytes at the completion ring's tail, the flags and counters, and a halt after any status but OK. -/
def dmaRecord (c : Nat) (r : DmaRun) (s : State) : State :=
  let n := s.chSize c
  let t := s.get (Reg.DMA_CH_CQ_TAIL_CQ_TAIL c)
  let phase := Assoc.getD s.oxe.phases (32 + c) 1
  let base := s.get64 (Reg.DMA_CH_CQ_BASE_LO_BASE c) (Reg.DMA_CH_CQ_BASE_HI_BASE c)
  let bytes := leBytes 2 r.tag ++ [r.status, c] ++ leBytes 4 r.bytes ++ leBytes 4 r.crc ++ leBytes 8 r.fail
    ++ List.replicate 11 0 ++ [phase]
  let s1 := setF (Reg.DMA_CH_CQ_TAIL_CQ_TAIL c) ((t + 1) % n) (writeBytes (base + 32 * t) bytes s)
  let s2 := when (t + 1 == n) (fun u => { u with oxe := { u.oxe with phases := Assoc.set u.oxe.phases (32 + c) (1 - phase) } }) s1
  let s3 := bump Reg.DMA_DESC_DONE_CNT (setF (Reg.DMA_CH_STATUS_BUSY c) 0 { s2 with dma := Assoc.erase s2.dma c })
  let s4 := when r.irq (fun u => setF Reg.DMA_EVENT_DONE 1 (event (Reg.DMA_CH_STATUS_DONE c) (Reg.DMA_CH_DONE_CNT c) u)) s3
  let s5 := when (r.status == 5) (bump Reg.DMA_ADDR_ERR_CNT) s4
  when (r.status != 0) (fun u => event Reg.DMA_EVENT_HALTED Reg.DMA_HALT_CNT (setF (Reg.DMA_CH_STATUS_HALTED c) 1 u)) s5

/-- A descriptor that has stopped short without an error waits for its abort. -/
def DmaRun.ended (r : DmaRun) : Bool := r.status != 0 || r.bytes == r.length

/-- DMA_DESCRIPTOR_DONE (R447). -/
def execDmaDescriptorDone (c : Fin 16) (s : State) : Result :=
  match s.dmaRun c.val with
  | none => .next s
  | some r => if r.ended then .next (dmaRecord c.val r s) else .next s

/-- A channel stops at the end of its burst: what runs ends with ABORTED (R450). -/
def dmaAbort (c : Nat) (s : State) : State :=
  match s.dmaRun c with
  | none => s
  | some r => dmaRecord c (if r.status = 0 then { r with status := 4 } else r) s

/-- DMA_RESUME (R450): fetching may go on at once. -/
def execDmaResume (c : Fin 16) (s : State) : Result :=
  land (0x7102C + 0x40 * c.val) (.dmaResume c) (fun t =>
    setF (Reg.DMA_CH_CTRL_RESUME c.val) 0 (setF (Reg.DMA_CH_STATUS_HALTED c.val) 0 t)) s

/-- DMA_CHANNEL_DISABLE (R450): one channel's ENABLE, or DMA_CTRL.ENABLE for every channel. -/
def execDmaChannelDisable (c : Option (Fin 16)) (s : State) : Result :=
  match c with
  | some k => land (0x71000 + 0x40 * k.val) (.dmaChannelDisable c) (fun t => dmaAbort k.val (setF (Reg.DMA_CH_CFG_ENABLE k.val) 0 t)) s
  | none => land 0x70000 (.dmaChannelDisable c) (fun t => forEach (List.range 16) dmaAbort (setF Reg.DMA_CTRL_ENABLE 0 t)) s

end Sys2Proof.Machine
end

