-- ==== Sys2Proof/Machine/Sys.lean ====
section
/-! DEFINITION. Resets and boot (R466 to R474), the service console (R484), the loop of R38, and the ends of waking, draining and destaging. -/

namespace Sys2Proof.Machine

/-! Boot (R469 to R471) -/

/-- Cause of the latest reset, as SYS_RESET_CAUSE shows it. -/
def setCause (kind source : Nat) (s : State) : State := setF Reg.SYS_RESET_CAUSE_SOURCE source (setF Reg.SYS_RESET_CAUSE_KIND kind s)

/-- The other firmware slot. -/
def otherSlot (slot : Nat) : Nat := if slot = 1 then 2 else 1

/-- A start of the slot in NEXT_SLOT has failed (R471): the state after it, and what is to follow: 0 another start, 1 the warm reset that both
slots' failure brings. -/
def failTry (s : State) : State × Nat :=
  let slot := s.get Reg.SYS_BOOT_NEXT_SLOT
  let tries := s.get Reg.SYS_BOOT_TRIES + 1
  if tries < 2 then (setF Reg.SYS_BOOT_TRIES tries s, 0)
  else if s.sys.slotsFailed.contains (otherSlot slot) then (setF Reg.SYS_BOOT_TRIES 0 s, 1)
  else
    let s1 : State := { s with sys := { s.sys with slotsFailed := addOnce s.sys.slotsFailed slot } }
    let s2 := setF Reg.SYS_BOOT_FALLBACK 1 (setF Reg.SYS_BOOT_TRIES 0 (setF Reg.SYS_BOOT_NEXT_SLOT (otherSlot slot) s1))
    (event Reg.SYS_EVENT_BOOT_FALLBACK Reg.SYS_BOOT_FALLBACK_CNT s2, 0)

/-- The boot ROM starts the image in NEXT_SLOT; a slot without one that verifies fails at once (R469). The second part says whether both slots
have failed. -/
def tryBoot : Nat → State → State × Bool
  | 0, s => (s, true)
  | fuel + 1, s =>
    let slot := s.get Reg.SYS_BOOT_NEXT_SLOT
    if (Assoc.find s.sys.images slot).isSome then (setF Reg.SYS_BOOT_SLOT slot s, false)
    else match failTry s with
      | (t, 0) => tryBoot fuel t
      | (t, _) => (t, true)

/-! What a reset leaves -/

/-- Commands in flight at a reset that keeps the pairs (R289): those whose blocks have all committed go on; `spare` is the command that asked
for the reset. -/
def abortByReset (spare : Option Nat) (s : State) : State :=
  let gone := (s.qmx.cmds.filter (fun c => some c.1 != spare && !c.2.final)).map Prod.fst
  let s1 := finishAll gone St.abortedByReset 0 (forEach gone dropPieces s)
  { s1 with
    cmd := { s1.cmd with parkCmds := [], wakeCmds := [], wtCmds := [], roleCmds := [], staged := [], commitCmd := spare }
    fab := { s1.fab with cmds := [], copies := [], gathers := s1.fab.gathers.filter (fun g => g.recover.isNone) } }

/-- Registers of the CTRL island, but the cores' own state, which the hardware keeps for the cores it holds out of service. -/
def ctrlResets (off : Nat) : Bool := decide (0x70000 ≤ off) && decide (off < 0xA0000) && off != 0x80008

/-- The CTRL island is reset (R466, R289): cores, cluster cache, mailboxes and DMA. A restart that firmware asks for first runs FLUSH_ALL (R467). -/
def resetCtrl (source : Nat) (flush : Bool) (spare : Option Nat) (s : State) : State :=
  let s1 := when flush (maintain 3 (fun _ => true)) s
  let s2 := endTest 5 0 (abortByReset spare s1)
  let s3 := clearCache (resetRegs ctrlResets s2)
  let s4 : State := { s3 with
    dma := []
    bat := { s3.bat with authDue := s3.bat.desc.isSome, authFails := 0 }
    oxe := { s3.oxe with phases := s3.oxe.phases.filter (fun p => decide (p.1 < 32)) }
    sys := { s3.sys with firmwareUp := false } }
  setCause 3 source (bump Reg.SYS_CORE_RESTART_CNT (setF Reg.FOV_STATUS_FW_ALIVE 0 s4))

/-- MRAM, as a range of internal addresses (R420). -/
def inMram (a : Nat) : Bool := decide (0x1000000000 ≤ a) && decide (a < 0x1080000000)

/-- Substitutions and frontiers as MRAM configuration holds them (R141, R168). -/
def State.sasConfig (s : State) : List (Nat × Nat) :=
  let field (f : Field) : Nat × Nat := (f.key, s.get f)
  (List.range 8).flatMap (fun j => [field (Reg.SAS_SUB_LOGICAL j), field (Reg.SAS_SUB_PHYSICAL j), field (Reg.SAS_SUB_VALID j),
    field (Reg.SAS_RBD_CFG_ENABLE j), field (Reg.SAS_RBD_CFG_MODE j), field (Reg.SAS_RBD_CFG_ARRAY j), field (Reg.SAS_RBD_CFG_SLOT j)])

/-- MRAM configuration at a reset: what the registers hold, or what has not been restored since the reset before. -/
def State.mramConfig (s : State) : List (Nat × Nat) :=
  match s.sys.config with
  | some l => l
  | none => (Reg.FOV_CTRL_PREF_B.key, s.get Reg.FOV_CTRL_PREF_B) :: s.sasConfig

/-- Features after a reset: those saved in MRAM (R235). -/
def keptCmd (s : State) : CmdPart :=
  { features := s.cmd.saved
    saved := s.cmd.saved
    log := s.cmd.log
    logSeq := s.cmd.logSeq
    deleted := s.cmd.deleted
    lastAssembled := s.cmd.lastAssembled
    testResults := s.cmd.testResults
    operatorFwRoot := s.cmd.operatorFwRoot
    rebuildQueue := s.cmd.rebuildQueue }

/-- What of the journal and of the arrays' care MRAM holds (R119, R130, R158, R168, R180), with the NAND images. -/
def keptJnl (s : State) : JnlPart :=
  { intents := s.jnl.intents, staging := s.jnl.staging, stageSeq := s.jnl.stageSeq, stageNext := s.jnl.stageNext,
    topSeq := s.jnl.topSeq, images := s.jnl.images }
def keptSas (s : State) : SasPart := { arrays := s.sas.arrays, checkpoints := s.sas.checkpoints }

/-- What of the fabric MRAM holds (R388, R389, R395, R396, R404, R406). -/
def keptFab (s : State) : FabPart :=
  { groups := s.fab.groups
    deltas := s.fab.deltas
    deltaNext := s.fab.deltaNext
    pref := s.fab.pref
    rootElig := s.fab.rootElig
    bwElig := s.fab.bwElig
    bwPrio := s.fab.bwPrio
    budgetW := s.fab.budgetW
    isolatedW := s.fab.isolatedW
    nReg := s.fab.nReg
    version := s.fab.version
    versionUid := s.fab.versionUid
    registered := s.fab.registered }

/-- Registers that a warm reset leaves: the KEEP, PWR and FAN islands, the fused UID, and the state of cores and engines, which follows below. -/
def keepsWarm (off : Nat) : Bool :=
  [Island.keep, Island.pwr, Island.fan].contains (islandOf off) || off == 0x100008 || off == 0x10000C || off == 0x80008
    || (decide (0x40020 ≤ off) && decide (off < 0x40030))

/-- Engines after a warm reset: a retired one stays retired (R12); of the others the lowest up to the reset value of TARGET are in service. -/
def refillEngines (s : State) : State :=
  let good := allEngines.filter (fun e => s.engState e != EngSt.retired)
  forEach good (fun e t => setEng e (if (good.take Reg.OXE_CTRL_TARGET.reset).contains e then EngSt.inService else EngSt.spare) t) s

/-- What a warm reset leaves: the registers of KEEP, PWR and FAN, MRAM and NAND, and what firmware keeps there. -/
def warmState (s0 : State) : State :=
  { State.reset with
    regs := s0.regs.filter (fun r => keepsWarm (r.1 / 32))
    mem := s0.mem.filter (fun c => inMram c.1)
    clock := s0.clock
    free := s0.free
    out := s0.out
    waiting := s0.waiting
    pending := s0.pending
    sys := { s0.sys with
      inReset := [], gated := [], parkPending := false, wakePending := false, servicePending := false, loopDue := false, shortfall := 0,
      wakeBudget := none, firmwareUp := false, assembled := false, config := some s0.mramConfig }
    fan := s0.fan
    bat := { s0.bat with authDue := s0.bat.desc.isSome, authFails := 0 }
    pwr := { s0.pwr with wakeSet := [] }
    jnl := keptJnl s0
    sas := keptSas s0
    fov := { s0.fov with
      handover := 0, handoverDue := false, toService := false, fetchStopped := false, resyncing := false, received := [], naks := [],
      commitsDue := [], synced := false, replayed := false, faults := [], holdCause := 0 }
    fab := { keptFab s0 with leaseEnd := s0.fab.leaseEnd, inherited := s0.fab.inherited }
    rpr := s0.rpr
    cch := { waysOff := s0.cch.waysOff, poison := s0.cch.poison.filter (fun l => inMram (64 * l)) }
    cmd := keptCmd s0
    hif := { aer := s0.hif.aer, lanesFailed := s0.hif.lanesFailed, training := true } }

/-- A warm reset (R466 to R468): every island but KEEP, PWR and FAN, after the image of R467 where one is due. MRAM and NAND stay. -/
def resetWarm (source : Nat) (image : Bool) (s : State) : State :=
  let s0 := endTest 5 0 (abortMembers (when image (writeImage true) s))
  let s1 := warmState s0
  let s2 := when s0.hif.up (event Reg.HIF_FW_EVENT_LINK_DOWN Reg.HIF_LINK_DOWN_CNT) s1
  setCause 2 source (bump Reg.SYS_WARM_RESET_CNT (setF Reg.FOV_STATUS_FW_ALIVE 0 (refillEngines s2)))

/-- The escalation of R471: a warm reset, after which the boot ROM accepts an image over the console only. -/
def bothSlotsFailed (s : State) : State := setF Reg.SYS_BOOT_NO_IMAGE 1 (resetWarm 3 true s)

/-- The boot ROM runs (R469): six failed tries are the most that come before the escalation. -/
def boot (s : State) : State :=
  match tryBoot 8 s with
  | (t, false) => t
  | (t, true) => bothSlotsFailed t

/-- A core restart and a warm reset, boot included. -/
def restartCores (source : Nat) (flush : Bool) (spare : Option Nat) (s : State) : State := boot (resetCtrl source flush spare s)
def warmly (source : Nat) (image : Bool) (s : State) : State := boot (resetWarm source image s)

/-- Pins of the module: the levels of straps, lines and presence contacts are what they are. -/
def keptPins (s : State) : List (Nat × Nat) :=
  let pins := [Reg.SYS_STRAP_POS_LIVE, Reg.SYS_STRAP_COMPAT_N_LIVE, Reg.SYS_STRAP_SHELF_LIVE, Reg.FAN_TOKEN_PARTNER, Reg.FAB_UID_LO_UID,
    Reg.FAB_UID_HI_UID] ++ allSlots.map Reg.SLT_STATUS_PRESENT
  (forEach pins (fun f t => setF f (s.get f) t)
    (setF Reg.FOV_STATUS_ACTIVE_LINE (if s.active then 0 else s.get Reg.FOV_STATUS_ACTIVE_LINE) State.reset)).regs

/-- What a cold or power-on reset leaves: the levels of pins, MRAM and NAND, and what firmware keeps there. -/
def coldState (powerOn : Bool) (s : State) : State :=
  { State.reset with
    regs := keptPins s
    mem := s.mem.filter (fun c => inMram c.1)
    clock := if powerOn then 0 else s.clock
    free := s.free
    out := s.out
    pending := s.pending
    sys := { config := some s.mramConfig, images := s.sys.images }
    fan := { limits := s.fan.limits }
    bat := { operatorRoot := s.bat.operatorRoot }
    pwr := { slots := s.pwr.slots.map (fun p => (p.1, { drive := p.2.drive })), unmated := s.pwr.unmated }
    jnl := keptJnl s
    sas := if powerOn then { keptSas s with arrays := s.sas.arrays.map (fun p => (p.1, { p.2 with started := [] })) } else keptSas s
    fov := {
      lastReason := s.fov.lastReason, lastAbandon := s.fov.lastAbandon, lastSwap := s.fov.lastSwap, lastTakeover := s.fov.lastTakeover,
      tClaim := s.fov.tClaim, tFans := s.fov.tFans, tReplay := s.fov.tReplay, tServing := s.fov.tServing, takeovers := s.fov.takeovers,
      handovers := s.fov.handovers, abandoned := s.fov.abandoned, powerFaults := s.fov.powerFaults }
    fab := keptFab s
    rpr := {
      regions := s.rpr.regions, hardUsed := s.rpr.hardUsed,
      lanes := if powerOn then [] else s.rpr.lanes }
    cmd := keptCmd s
    hif := { lanesFailed := if powerOn then [] else s.hif.lanesFailed } }

/-- A power-on or a cold reset (R466, R472): every island; straps are latched from their pins (R473), MRAM and NAND stay, and POST is to run. -/
def resetCold (powerOn : Bool) (source : Nat) (s : State) : State :=
  let s1 := coldState powerOn s
  let s2 := setF Reg.SYS_STRAP_POS (s.get Reg.SYS_STRAP_POS_LIVE) (setF Reg.SYS_STRAP_COMPAT (1 - s.get Reg.SYS_STRAP_COMPAT_N_LIVE)
    (setF Reg.SYS_STRAP_SHELF_ID (s.get Reg.SYS_STRAP_SHELF_LIVE) s1))
  boot (setCause (if powerOn then 0 else 1) source s2)

/-- POWER_ON_RESET (R466, R472). -/
def execPowerOnReset (s : State) : Result := .next (resetCold true 0 s)

/-- A cold reset is accepted in SERVICE and PARKED only, with JNL_DIRTY and JNL_OPEN at 0 (R467). -/
def coldAllowed (source : Nat) (s : State) : State :=
  if s.modeIn [Mode.service, Mode.parked] && s.dirtyMib == 0 && s.entriesUsed == 0 then resetCold false source s else ignored 6 0 s

/-- A GO of SYS_RESET: its KEY must read 0x5A, otherwise it is ignored. -/
def withKey (key scope : Nat) (k : State → State) (s : State) : State :=
  let s1 := setF Reg.SYS_RESET_KEY key (setF Reg.SYS_RESET_SCOPE scope s)
  if key = 0x5A then k s1 else ignored 6 0 s1

/-- COLD_RESET (R467). -/
def execColdReset (key : Nat) (s : State) : Result := land 0x8 (.coldReset key) (withKey key 3 (coldAllowed 1)) s

/-- WARM_RESET (R467). -/
def execWarmReset (key : Nat) (s : State) : Result := land 0x8 (.warmReset key) (withKey key 2 (warmly 1 true)) s

/-- CORE_RESTART (R466, R467). -/
def execCoreRestart (key : Nat) (s : State) : Result := land 0x8 (.coreRestart key) (withKey key 1 (restartCores 1 true none)) s

/-- WATCHDOG_RESTART (R470): of firmware that has kicked since its start. -/
def execWatchdogRestart (s : State) : Result :=
  if s.sys.firmwareUp && !s.on Reg.FOV_STATUS_FW_ALIVE && s.on Reg.SYS_CFG_AUTO_RESTART_EN then .next (restartCores 2 false none s) else .next s

/-- BOOT_TIMEOUT (R471): no kick has come in time. The spec gives that restart no SOURCE (log entry 4). -/
def execBootTimeout (s : State) : Result :=
  if s.sys.firmwareUp || s.on Reg.SYS_BOOT_NO_IMAGE then .next s
  else match failTry s with
    | (t, 0) => .next (useFree (restartCores (t.freeVal 4) false none t))
    | (t, _) => .next (bothSlotsFailed t)

/-! The service console (R484) -/

/-- CONSOLE_COLD_RESET (R466, R467). -/
def execConsoleColdReset (s : State) : Result := .next (coldAllowed 5 s)

/-- CONSOLE_WARM_RESET (R466, R467). -/
def execConsoleWarmReset (s : State) : Result := .next (warmly 5 true s)

/-- Words of a block from its first offset, with the free values that their reads use. -/
def dumpWords (first : Nat) : Nat → State → List Nat → List Nat × State
  | 0, s, acc => (acc, s)
  | n + 1, s, acc =>
    if (fieldsAt first).isEmpty then dumpWords (first + 4) n s acc
    else dumpWords (first + 4) n (useFrees (readsFree first) s) (s.readWord first :: first :: acc)

/-- Words of the SYS, FOV and RPR blocks. -/
def dumpBlocks (s : State) : List Nat × State :=
  let a := dumpWords 0x0 24 s []
  let b := dumpWords 0xF0000 (1024 + 64) a.2 a.1
  dumpWords 0x110000 (1024 + 64) b.2 b.1

/-- CONSOLE_DUMP (R484): offsets and values of the SYS, FOV and RPR registers. -/
def execConsoleDump (s : State) : Result := .next (emit (.console (dumpBlocks s).1.reverse) (dumpBlocks s).2)

/-- CONSOLE_IMAGE_LOAD (R484): while NO_IMAGE is 1, a signed image for this module is stored and started. -/
def execConsoleImageLoad (image : ImageFacts) (slot : Fin 2) (s : State) : Result :=
  if s.on Reg.SYS_BOOT_NO_IMAGE && image.signed && image.ours then
    let s1 := setF Reg.SYS_BOOT_NEXT_SLOT (slot.val + 1) (setF Reg.SYS_BOOT_TRIES 0 (setF Reg.SYS_BOOT_NO_IMAGE 0
      (storeImage (slot.val + 1) image.number s)))
    .next (boot { s1 with sys := { s1.sys with slotsFailed := [] } })
  else .next s

/-- STRAP_CHANGE (R473): the live levels as they have stood for 10 ms. -/
def execStrapChange (posB compatN : Bool) (shelf : Fin 64) (s : State) : Result :=
  let s1 := setF Reg.SYS_STRAP_SHELF_LIVE shelf.val (setF Reg.SYS_STRAP_COMPAT_N_LIVE (b2n compatN) (setF Reg.SYS_STRAP_POS_LIVE (b2n posB) s))
  let differs := b2n posB != s.get Reg.SYS_STRAP_POS || 1 - b2n compatN != s.get Reg.SYS_STRAP_COMPAT || shelf.val != s.get Reg.SYS_STRAP_SHELF_ID
  .next (when differs (event Reg.SYS_EVENT_STRAP_CHANGE Reg.SYS_STRAP_CHANGE_CNT) s1)

/-- FW_COMMIT_ACTIVATE_NOW (R260, action 3): the image is stored and the cores restart on it; the command completes at the new firmware's
first kick. -/
def execFwCommitActivateNow (cid : Nat) (image : ImageFacts) (s : State) : Result :=
  runAdmin cid .firmwareCommit (fun e => commitAction e == 3) (fun n c t =>
    let r := t.storeRefusal c.e image
    if r ≠ 0 then refuse n (r * 256) t
    else
      let slot := commitSlot c.e
      restartCores 6 true (some n) (setF Reg.SYS_BOOT_TRIES 0 (setF Reg.SYS_BOOT_NEXT_SLOT slot
        (storeImage slot image.number (onCmd n (fun x => { x with begun := true }) t))))) s

/-! Islands (R11, R13) -/

/-- The mode in force keeps an island clocked (R26). -/
def State.clocked (s : State) (i : Island) : Bool := s.clockedIn s.mode i

/-- ISLAND_REGATE (R11): 100 µs without activity. -/
def execIslandRegate (i : Island) (s : State) : Result :=
  if s.clocked i || s.sys.gated.contains i then .next s
  else .next { s with sys := { s.sys with gated := i :: s.sys.gated } }

/-! The power and protection loop (R35 to R39) -/

/-- Drives that spin. -/
def State.spinning (s : State) : Nat := (allSlots.filter (fun n => s.awake n || s.on (Reg.SLT_STATUS_SURGING n))).length

/-- Power in 0.1 W that the drives which spin need beyond the budget (R36). -/
def State.shortDw (s : State) : Nat :=
  s.get Reg.PWR_DRAW_P_MOD_DW + s.get Reg.PWR_FAN_W_P_FAN_DW + 10 * s.get Reg.PWR_BUDGET_MARGIN_W
    + s.spinning * s.get Reg.PWR_SPIN_P_DRIVE_DW - s.budgetDw

/-- Tokens are asked for where the allowance falls below the drives that spin, once for each shortfall (R36). -/
def coverShortfall (s : State) : State :=
  if s.spinning ≤ s.spinAllowance then { s with sys := { s.sys with shortfall := 0 } }
  else if roundUp (ceilDiv s.shortDw 10) 10 ≤ s.sys.shortfall then s
  else requestTokens s.shortDw s

/-- What the loop demands of the write-back: data beyond the ceiling (R37), and in SERVICE with no active partner all of it (R30). -/
def demandWriteback (s : State) : State :=
  if s.admitStop || (s.mode == Mode.service && !s.on Reg.FOV_STATUS_ACTIVE_LINE) then demand s.dirtyRows s else s

/-- LOOP_EVALUATION (R38): `pModDw` is the module's measured draw in 0.1 W. -/
def execLoopEvaluation (pModDw : Nat) (s : State) : Result :=
  let s1 := setF Reg.PWR_DRAW_P_MOD_DW pModDw { s with sys := { s.sys with loopDue := false } }
  let s2 := coverShortfall s1
  let s3 := writeHealth (updateCeiling s2)
  let s4 := writeShedOk (storeOwed (when s3.bat.storeDue storeLcap s3))
  .next (after (demandWriteback s4))

/-- SPIN_DOWN_EXCESS (R36): tokens were not granted within 2 s; drives with work wait for its end. -/
def execSpinDownExcess (s : State) : Result :=
  if s.sys.shortfall = 0 then .next s
  else .next (forEach (s.spinDownOrder.take (s.spinning - s.spinAllowance)) spinDown s)

/-- IDLE_PARK_EXPIRY (R27, R234): nothing was in flight, rebuilt or tested for IDLE_PARK. -/
def execIdleParkExpiry (s : State) : Result :=
  if s.mode = Mode.serving ∧ s.feature 8 0 ≠ 0 ∧ s.allInFlight = 0 ∧ s.cmd.testRunning = 0
      ∧ (List.range 8).all (fun k => !s.on (Reg.SAS_RBD_CFG_ENABLE k)) = true then
    .next (settle { s with sys := { s.sys with parkPending := true } })
  else .next s

/-! Waking (R27, R306 to R309) -/

/-- A slot of the wake set is awake, or has failed for this wake (R307). -/
def State.wakeSettled (s : State) (n : Nat) : Bool := s.awake n || (s.slot n).failedThisWake || (s.slot n).leftOff

/-- ENTER_SERVING (R27, R307). -/
def execEnterServing (s : State) : Result :=
  if s.mode = Mode.waking ∧ s.get Reg.PWR_STATUS_CONV_STATE = 2 ∧ s.on Reg.JNL_CTRL_REPLAY_DONE = true ∧ s.sys.assembled = true
      ∧ s.pwr.wakeSet.all s.wakeSettled = true then
    .next (commitBatches (enterServing s))
  else .next s

/-- WAKE_DENIED (R256): no grant has covered the wake budget within 30 s. -/
def execWakeDenied (s : State) : Result :=
  if s.mode = Mode.parked ∧ s.sys.wakeBudget.isSome = true then
    let held := s.cmdsWhere (fun c => c.held && c.e.qid != 0)
    let s1 := finishWake St.budgetDenied { s with
      sys := { s.sys with wakeBudget := none, wakePending := false }, pwr := { s.pwr with wakeSet := [] } }
    .next (settle (finishAll held St.budgetDenied 0 s1))
  else .next s

/-! Draining and destaging (R29, R134, R310) -/

/-- Steps 1 to 5 of R310: checkpoints, the image of data still held, and STOP UNIT to every spinning drive once no command is open on it
(R142); a drive that does not spin loses its rails. Lines that the image holds leave DRAM. -/
def drainStop (s : State) : State :=
  let s1 := forEach (List.finRange 8) (fun k t => match execRebuildCheckpoint k t with | .next u => u | _ => t) s
  let saved := !s1.holdsData || s1.areasKept < 2
  let s2 := writeImage true (dropWork s1)
  let s3 := when saved (fun t => { t with jnl := { t.jnl with lines := [] } }) s2
  forEach (allSlots.filter s3.slotOn) (fun n t => if t.awake n then spinDown n t else writeEnables n false false t) s3

/-- Step 6 of R310: converter and fans off, PARKED, the holding released (R398); a wake cause that waited takes effect (R33). -/
def drainEnd (s : State) : State :=
  let s1 := finishPark St.success (toMode Mode.parked (stopConverter (fanRelease s)))
  let s2 := takeHolding 0 (askBellwether .tokenRelease [0] s1)
  settle (writeRoot (showImage s2))

/-- DRAIN_COMPLETE (R310): first the drives stop; once every rail is off, PARKED is entered. I/O commands in flight come first (R255). -/
def execDrainComplete (s : State) : Result :=
  if s.mode = Mode.draining ∧ s.qmx.cmds.any (fun c => c.2.begun && !c.2.held && c.2.e.qid != 0) = false then
    let s1 := if allSlots.any (fun n => s.slotOn n && !(s.slot n).stopSent && !(s.slot n).stopDue && (s.slot n).offWait == 0) || s.holdsData then drainStop s else s
    .next (if allSlots.any s1.slotOn then s1 else drainEnd s1)
  else .next s

/-- DESTAGE_COMPLETE (R29, R134): the seal is written; with mains back the module starts as from a warm reset, else it powers off. -/
def execDestageComplete (s : State) : Result :=
  if s.mode = Mode.destaging then
    let s1 := sealImage s
    .next (if s.on Reg.PWR_STATUS_MAINS_OK then warmly 4 false s1 else { s1 with sys := { s1.sys with powered := false } })
  else .next s

end Sys2Proof.Machine
end

