-- ==== Sys2Proof/Machine/Assembly.lean ====
section
/-! DEFINITION. Array assembly (R53 to R55, R477, R478, R501): member headers as drives hold them, the arrays they make up, and how the firmware
takes those up at its start. -/

namespace Sys2Proof.Machine

/-! Member headers -/

/-- A member header (R53). -/
structure Header where
  fmt1 : Bool
  hdrMib : Nat
  flags : Nat
  uuid : Nat
  generation : Nat
  index : Nat
  layout : Nat
  shift : Nat
  groups : Nat
  dpg : Nat
  globals : Nat
  rows : Nat
  created : Nat
  deriving DecidableEq, Repr

/-- A block as a valid member header (R54): its MAGIC matches and its HDR_CRC is correct. Bytes 42 to 47 of format 1 are read as layout 2. -/
def readHeader (b : Block) : Option Header :=
  let l := leBytes 4096 b
  let num (from' len : Nat) : Nat := leNat ((l.drop from').take len)
  let magic (k : Nat) : List Nat := [77, 88, 90, 77, 69, 77, 66, k]
  let gen1 := l.take 8 == magic 49
  if (gen1 || l.take 8 == magic 50) && num 4092 4 == crc32c (l.take 4092) then
    some { fmt1 := gen1, hdrMib := num 10 2, flags := num 12 4, uuid := num 16 16, generation := num 32 8, index := num 40 2,
           layout := if gen1 then 2 else num 42 1, shift := num 43 1, groups := if gen1 then 0 else num 44 1, dpg := num 45 1,
           globals := if gen1 then 0 else num 46 1, rows := num 48 8, created := num 56 8 }
  else none

/-- The header of a drive (R54): where both copies are valid the one of the higher GENERATION. -/
def driveHeader (d : FoundDrive) : Option Header :=
  match readHeader d.first, readHeader d.second with
  | some a, some b => some (if a.generation < b.generation then b else a)
  | a, none => a
  | none, b => b

/-! The arrays that drives make up -/

/-- A member of an array that was found: where it sits, and its header. -/
structure FoundMember where
  slot : Nat
  header : Header
  record : HeaderRecord
  deriving DecidableEq, Repr

/-- An array found at start-up (R55): its UUID, its members, and the one of them with the highest GENERATION. -/
structure FoundArray where
  uuid : Nat
  members : List FoundMember
  top : FoundMember
  deriving DecidableEq, Repr

/-- Drives whose valid headers carry one ARRAY_UUID are an array's members (R55). -/
def foundArrays (found : List FoundDrive) : List FoundArray :=
  let ms := found.filterMap (fun d => (driveHeader d).map (fun h => (⟨d.slot, h, d.record⟩ : FoundMember)))
  (once (ms.map (fun m => m.header.uuid))).filterMap (fun u =>
    let mine := ms.filter (fun m => m.header.uuid == u)
    match mine with
    | [] => none
    | m :: l => some ⟨u, mine, l.foldl (fun best x => if best.header.generation < x.header.generation then x else best) m⟩)

/-- The index of an array and its slots, as the metadata of its current member gives them (R501). -/
def FoundArray.index (f : FoundArray) : Nat := f.top.record.index
def FoundArray.slots (f : FoundArray) : List Nat := f.top.record.slots

/-- The shape that a found array's headers give. -/
def FoundArray.geo (f : FoundArray) : Geo :=
  let h := f.top.header
  { layout := h.layout, shift := h.shift, groups := h.groups, dpg := h.dpg, globals := h.globals, hdr := h.hdrMib * 2 ^ 20,
    rows := h.rows, slots := f.slots }

/-- Why an array is not assembled, apart from its index: 0 for no reason, 1 a deleted array, 2 its unit shift, 10 its layout under COMPAT 1. -/
def State.unassembled (s : State) (f : FoundArray) : Nat :=
  if s.cmd.deleted.contains f.uuid then 1
  else if s.on Reg.SYS_STRAP_COMPAT && f.geo.layout != 2 then 10
  else if f.top.header.fmt1 && !(decide (14 ≤ f.geo.shift) && decide (f.geo.shift ≤ 20)) then 2
  else 0

/-- The array keeps its index against another that claims it: the last assembled one, else the one with the lower UUID. -/
def State.keepsIndex (s : State) (f : FoundArray) (rivals : List FoundArray) : Bool :=
  match Assoc.find s.cmd.lastAssembled f.index with
  | some u => if u = f.uuid then true else !rivals.any (fun r => r.uuid == u) && rivals.all (fun r => decide (f.uuid < r.uuid))
  | none => rivals.all (fun r => decide (f.uuid < r.uuid))

/-- The event log records an array that is not assembled; the spec gives that event no code (log entry 4). -/
def logUnassembled (f : FoundArray) (reason : Nat) (s : State) : State :=
  useFree (logEvent (s.freeVal 8) 0xFF 0 (reason :: leBytes 16 f.uuid) s)

/-- A member is stale: its GENERATION is lower than the highest (R55). -/
def FoundArray.stale (f : FoundArray) (m : FoundMember) : Bool := decide (m.header.generation < f.top.header.generation)

/-- The slot that a member's MEMBER_INDEX gives, as substitutions have it, and whether the member is in another (R55). -/
def State.misplaced (s : State) (f : FoundArray) (m : FoundMember) : Bool := m.slot != s.physOf (f.slots.getD m.header.index 0)

/-- The current member of a logical slot: in its own place and not stale. -/
def State.foundGood (s : State) (f : FoundArray) (i : Nat) : Option FoundMember :=
  f.members.find? (fun m => m.header.index == i && !s.misplaced f m && !f.stale m)

/-- The flock parity group that a volume of this node is in, and whether as its parity volume. -/
def State.flockOf (s : State) (v : Nat) : Option (Nat × Bool) :=
  s.fab.groups.findSome? (fun g =>
    if g.parity = (s.ownUid, v) then some (g.id, true) else if g.members.contains (s.ownUid, v) then some (g.id, false) else none)

/-- The number that a volume takes (R501): its own, unless another volume is bound to it, else the lowest free one. -/
def State.placeFor (s : State) (n : Nat) (x : FoundVolume) : Option Nat :=
  let m := s.volMeta x.vol
  if (m.bound && !(m.array == n && m.base == x.base)) || 64 ≤ x.vol then allVols.find? (fun v => !(s.volMeta v).bound) else some x.vol

/-- A volume of an array is bound (R246, R501); one that still formats is not valid. A changed number is written to the metadata and logged. -/
def bindFound (n : Nat) (x : FoundVolume) (s : State) : State :=
  match s.placeFor n x with
  | none => s
  | some v =>
    let g := s.flockOf v
    let s1 := onVolMeta v (fun _ => {
      bound := true, uuid := x.uuid, array := n, base := x.base, rows := x.rows, formatting := x.formatting, flock := g.map Prod.fst,
      parity := (g.map Prod.snd).getD false }) s
    let s2 := unlocked (fun t => setF (Reg.STP_VOL_CFG_ARRAY v) n (set64 (Reg.STP_VOL_BASE_LO_BASE v) (Reg.STP_VOL_BASE_HI_BASE v) x.base
      (set64 (Reg.STP_VOL_ROWS_LO_ROWS v) (Reg.STP_VOL_ROWS_HI_ROWS v) x.rows t))) s1
    let s3 := when x.formatting.isNone (writeVolumeValid v true) s2
    if v = x.vol then s3 else useFree (logEvent (s3.freeVal 8) n 0 [x.vol, v] (writeRecords n (s3.geo n).slots s3))

/-- What the firmware keeps of an array, from MRAM where this module assembled it last, else from the metadata (R158, R172). -/
def State.foundCare (s : State) (f : FoundArray) : ArrayCare :=
  if Assoc.find s.cmd.lastAssembled f.index = some f.uuid then s.care f.index
  else { lost := f.top.record.lost, next := f.top.record.graze, started := (List.range 9).map (fun k => (k, s.clock)) }

/-- A member whose header says REBUILDING is rebuilt on from the checkpoint that its header area holds (R53, R168). -/
def resumeRebuild (n : Nat) (m : FoundMember) (slot : Nat) (s : State) : State :=
  if s.rebuildsSlot n slot then s
  else
    let s1 := startRebuild n slot s
    match s1.frontierOf 0 n slot with
    | none => s1
    | some k =>
      let f := Assoc.getD m.record.rebuilds slot 0
      writeFront k (f, 0) { s1 with sas := { s1.sas with checkpoints := Assoc.set s1.sas.checkpoints k f } }

/-- One array is assembled: members that are stale, misplaced or absent, and those not yet rebuilt, are erased (R55). -/
def assemble (f : FoundArray) (s : State) : State :=
  let n := f.index
  let place := f.slots.zipIdx.map (fun p => (p.1, s.foundGood f p.2))
  let rebuilding := place.filterMap (fun p => p.2.bind (fun m => if bitOf m.header.flags 1 = 1 then some (p.1, m) else none))
  let known := once (rebuilding.map Prod.fst ++ (s.slotBits (Reg.STP_ARRAY_ERASED_SLOTS n)).filter (fun x => f.slots.contains x))
  let new := (place.filter (fun p => p.2.isNone && !known.contains p.1)).map Prod.fst
  let s1 := forEach known (fun x t => writeErased n x true t) (writeArray n f.geo s)
  let s2 := writeArrayValid n true s1
  if !s2.on (Reg.STP_ARRAY_CFG_VALID n) then logUnassembled f 2 s2
  else
    let m : ArrayMeta := {
      uuid := f.uuid
      generation := f.top.header.generation
      created := f.top.header.created
      slotGen := f.top.record.slotGen
      misplaced := (f.members.filter (s.misplaced f)).map (fun x => x.slot)
      stale := (f.members.filter f.stale).map (fun x => x.slot) }
    let s3 : State := { s2 with
      cmd := { s2.cmd with arrays := Assoc.set s2.cmd.arrays n m, lastAssembled := Assoc.set s2.cmd.lastAssembled n f.uuid }
      sas := { s2.sas with arrays := Assoc.set s2.sas.arrays n (s.foundCare f) } }
    let s4 := forEach f.top.record.vols (bindFound n) (loadEncode n (startEval n s3))
    forEach rebuilding (fun p => resumeRebuild n p.2 p.1) (forEach new markErased s4)

/-- Arrays in ascending index order. -/
def byIndex (l : List FoundArray) : List FoundArray := sortBy (fun a b => decide (a.index ≤ b.index)) l

/-- ARRAY_ASSEMBLY (R54, R55, R501): once after each start of the firmware. `found` is what the drives hold. -/
def execArrayAssembly (found : List FoundDrive) (s : State) : Result :=
  if s.modeIn [Mode.waking, Mode.takeover] && !s.sys.assembled then
    let arrays := byIndex (foundArrays found)
    let ok := arrays.filter (fun f => s.unassembled f == 0 && decide (f.index < 4))
    let s1 := forEach arrays (fun f t =>
      if s.unassembled f ≠ 0 then (if s.unassembled f = 1 then t else logUnassembled f (s.unassembled f) t)
      else if 4 ≤ f.index ∨ t.on (Reg.STP_ARRAY_CFG_VALID f.index) = true
          ∨ s.keepsIndex f (ok.filter (fun r => r.index == f.index && r.uuid != f.uuid)) = false then
        logUnassembled f 0 t
      else assemble f t) s
    let s2 : State := { s1 with sys := { s1.sys with assembled := true } }
    let s3 : State := { s2 with pwr := { s2.pwr with wakeSet := s2.wakeSetNow } }
    .next (settle (if s3.mode = Mode.waking ∧ s3.get Reg.PWR_STATUS_CONV_STATE = 2 then
      forEach (s3.pwr.wakeSet.filter (fun n => !s3.awake n && !s3.on (Reg.SLT_CTRL_SPIN n))) requestSlot s3 else s3))
  else .next s

end Sys2Proof.Machine
end

