-- ==== Sys2Proof/Machine/Cch.lean ====
section
/-! DEFINITION. The control cluster's cache rows: maintenance, errors, fills and writebacks (R422 to R432). -/

namespace Sys2Proof.Machine

/-! Block operations (R430) -/

/-- A core's CBO on the block of an address: 1 clean, 2 invalidate, 3 flush. Outside every region the core takes a store access fault (R421). -/
def cbo (op core addr : Nat) (s : State) : State :=
  if regionOf addr = .none then emit (.accessFault core .store addr) s
  else retryBank (bankOf (addr / 64)) (maintLine op (addr / 64) s)

/-- CBO_CLEAN (R430). -/
def execCboClean (core : Fin 9) (addr : Nat) (s : State) : Result := .next (cbo 1 core.val addr s)

/-- CBO_FLUSH (R430). -/
def execCboFlush (core : Fin 9) (addr : Nat) (s : State) : Result := .next (cbo 3 core.val addr s)

/-- CBO_INVAL (R430): a true invalidate. -/
def execCboInval (core : Fin 9) (addr : Nat) (s : State) : Result := .next (cbo 2 core.val addr s)

/-! Range and whole-cache operations (R431) -/

/-- A line lies in the range of CCH_MAINT_ADDR and CCH_MAINT_LEN. -/
def State.inRange (s : State) (l : Nat) : Bool :=
  let a := s.get64 Reg.CCH_MAINT_ADDR_LO_ADDR Reg.CCH_MAINT_ADDR_HI_ADDR
  let n := s.get Reg.CCH_MAINT_LEN_LEN
  n != 0 && decide (a / 64 ≤ l) && decide (l < ceilDiv (a + n) 64)

/-- A GO with an operation code: ignored while one runs (R431). The copies are acted on when the operation starts; BUSY reads 1 until MAINT_DONE. -/
def startMaint (code op : Nat) (p : Nat → Bool) (s : State) : State :=
  if s.on Reg.CCH_MAINT_CTRL_BUSY then ignored 6 0 s
  else maintain op p (setF Reg.CCH_MAINT_CTRL_GO 1 (setF Reg.CCH_MAINT_CTRL_BUSY 1 (setF Reg.CCH_MAINT_CTRL_OP code s)))

/-- CLEAN (R431, OP 1). -/
def execClean (s : State) : Result := land 0x8001C .clean (fun t => startMaint 1 1 t.inRange t) s

/-- INVAL (R431, OP 2). -/
def execInval (s : State) : Result := land 0x8001C .inval (fun t => startMaint 2 2 t.inRange t) s

/-- FLUSH (R431, OP 3). -/
def execCacheFlush (s : State) : Result := land 0x8001C .cacheFlush (fun t => startMaint 3 3 t.inRange t) s

/-- CLEAN_ALL (R431, OP 4). -/
def execCleanAll (s : State) : Result := land 0x8001C .cleanAll (startMaint 4 1 (fun _ => true)) s

/-- FLUSH_ALL (R431, OP 5). -/
def execFlushAll (s : State) : Result := land 0x8001C .flushAll (startMaint 5 3 (fun _ => true)) s

/-- INVAL_ALL (R431, OP 6). -/
def execInvalAll (s : State) : Result := land 0x8001C .invalAll (startMaint 6 2 (fun _ => true)) s

/-- MAINT_DONE (R431): no fill that the operation met is still outstanding. -/
def execMaintDone (s : State) : Result :=
  if s.on Reg.CCH_MAINT_CTRL_BUSY && s.cch.misses.all (fun m => m.ops.isEmpty) then
    .next (event Reg.CCH_EVENT_MAINT_DONE Reg.CCH_MAINT_DONE_CNT (setF Reg.CCH_MAINT_CTRL_GO 0 (setF Reg.CCH_MAINT_CTRL_BUSY 0 s)))
  else .next s

/-! Errors (R427, R428) -/

/-- CCH_LAST_ERR shows a line or a set, the way and kind of a tag error. -/
def lastErr (l : Nat) (tagWay : Option Nat) (s : State) : State :=
  let s1 := setF Reg.CCH_LAST_ERR_HI_ADDR (64 * l / 2 ^ 32) (setF Reg.CCH_LAST_ERR_LO_ADDR l s)
  match tagWay with
  | none => setF Reg.CCH_LAST_ERR_HI_TAG 0 s1
  | some w => setF Reg.CCH_LAST_ERR_HI_TAG 1 (setF Reg.CCH_LAST_ERR_HI_WAY w s1)

/-- CACHE_CE (R427): a line of the cluster cache. The row that holds it counts the corrected error too (R455). -/
def execCacheCe (addr : Nat) (s : State) : Result :=
  if (s.cchLine (addr / 64)).isSome then
    .next (event Reg.CCH_EVENT_CE Reg.CCH_CE_CNT (countRowCe (cacheRow (addr / 64)) s))
  else .next s

/-- CACHE_UE (R427): `core` is the core whose load consumes the line, if one does. A clean line is dropped and fetched again; a dirty one is
written back poisoned. Its row is queued for remapping (R455). -/
def execCacheUe (core : Option (Fin 9)) (addr : Nat) (s : State) : Result :=
  let l := addr / 64
  match s.cchLine l with
  | none => .next s
  | some x =>
    let s1 := queueRow (cacheRow l) (event Reg.CCH_EVENT_UE Reg.CCH_UE_CNT (lastErr l none (dropLine l s)))
    if x.dirty then
      let s2 := memLine l x.data s1
      let s3 : State := { s2 with cch := { s2.cch with poison := addOnce s2.cch.poison l } }
      let s4 := match core with
        | some n => emit (.accessFault n.val .load addr) s3
        | none => s3
      .next (countDramUe false s4)
    else if s1.bankMiss (bankOf l) then .next s1
    else .next { s1 with cch := { s1.cch with misses := s1.cch.misses ++ [{ line := l }] } }

/-- TAG_PARITY_ERROR (R428): a way that holds no dirty data is dropped; with dirty data the line is lost. The reference firmware answers
DATA_LOST with a core restart, a command of its own. -/
def execTagParityError (index : Fin 4096) (way : Fin 16) (s : State) : Result :=
  let s1 := lastErr index.val (some way.val) s
  match s.cch.lines.find? (fun x => x.way == way.val && x.line % 4096 == index.val) with
  | some x =>
    let s2 := dropLine x.line s1
    if x.dirty then .next (event Reg.CCH_EVENT_TAG_UE Reg.CCH_TAG_UE_CNT (setF Reg.CCH_STATUS_DATA_LOST 1 s2))
    else .next (event Reg.CCH_EVENT_TAG_PE Reg.CCH_TAG_PE_CNT s2)
  | none => .next (event Reg.CCH_EVENT_TAG_PE Reg.CCH_TAG_PE_CNT s1)

/-! Memory returns -/

/-- CACHE_FILL_COMPLETE (R423, R426, R427). -/
def execCacheFillComplete (line : Nat) (s : State) : Result := .next (fillDone line s)

/-- VICTIM_WRITEBACK_LANDED (R425): the oldest writeback of the line lands, and its entry comes free. -/
def execVictimWritebackLanded (line : Nat) (s : State) : Result :=
  match s.cch.victims.find? (fun v => v.line == line) with
  | none => .next s
  | some v =>
    let s1 := memLine line v.data s
    .next (retryBank (bankOf line) { s1 with cch := { s1.cch with victims := s1.cch.victims.erase v } })

end Sys2Proof.Machine
end

