-- ==== Sys2Proof/Machine/Peer.lean ====
section
/-! DEFINITION. Flock parity groups at a parity volume's node and at a member's (R404 to R413), and FABRIC_CONTROL (R414, R415). -/

namespace Sys2Proof.Machine

/-- The group of an identifier. -/
def State.group? (s : State) (id : Nat) : Option FlockGroup := s.fab.groups.find? (fun g => g.id == id)

/-- Sum of blocks. -/
def xorBlocks (a b : List Block) : List Block := List.zipWith Nat.xor a b

/-- Node and volume behind a member index: 15 stands for the parity volume. -/
def memberAt (g : FlockGroup) (i : Nat) : Nat × Nat := if i = 15 then g.parity else g.members.getD i (0, 0)

/-- The address of a node, this one included. -/
def State.addrOf (s : State) (uid : Nat) : Option Nat := if uid = s.ownUid then s.ownAddr? else s.nodeAddr uid

/-- A node of the flock can be reached. -/
def State.uidReached (s : State) (uid : Nat) : Bool := match s.addrOf uid with | some a => s.reach a | none => false

/-! Group records -/

/-- A group's record is stored (R404): the volumes of this node show it. -/
def storeGroup (g : FlockGroup) (s : State) : State :=
  let mine := (g.members ++ [g.parity]).filter (fun m => m.1 == s.ownUid)
  let s1 := forEach mine (fun m => onVolMeta m.2 (fun v => { v with flock := some g.id, parity := m == g.parity })) s
  hostEvent 4 { s1 with fab := { s1.fab with groups := s1.fab.groups.filter (fun x => x.id != g.id) ++ [g] } }

/-- A group's record is removed. -/
def removeGroup (id : Nat) (s : State) : State :=
  match s.group? id with
  | none => s
  | some g =>
    let mine := (g.members ++ [g.parity]).filter (fun m => m.1 == s.ownUid)
    let s1 := forEach mine (fun m => onVolMeta m.2 (fun v => { v with flock := none, parity := false })) s
    let s2 := voidRecords (fun d => d.group == id) s1
    hostEvent 4 { s2 with fab := { s2.fab with
      groups := s2.fab.groups.filter (fun x => x.id != id)
      gates := s2.fab.gates.filter (fun x => x.1 != id)
      gathers := s2.fab.gathers.filter (fun x => x.group != id)
      deltasIn := s2.fab.deltasIn.filter (fun d => d.group != id) } }

/-! Resync (R411) and recovery (R413) -/

/-- PEER_READ goes to some members for 64 blocks. -/
def askMembers (g : FlockGroup) (idx : List Nat) (lba : Nat) (s : State) : State :=
  forEach idx (fun i t => match t.addrOf (memberAt g i).1 with
    | some a => sendFrame .peerRead a 0 [g.id, i, lba, 64] t
    | none => t) s

/-- A gathering of blocks replaced, or begun. -/
def setGather (x : Gather) (s : State) : State :=
  { s with fab := { s.fab with gathers := s.fab.gathers.filter (fun y => !(y.group == x.group && y.recover == x.recover)) ++ [x] } }
def dropGather (x : Gather) (s : State) : State :=
  { s with fab := { s.fab with gathers := s.fab.gathers.filter (fun y => !(y.group == x.group && y.recover == x.recover)) } }

/-- The chunk at the frontier is asked of every member. -/
def askChunk (id f : Nat) (s : State) : State :=
  match s.group? id with
  | none => s
  | some g => askMembers g (List.range g.members.length) f (setGather { group := id, lba := f } s)

/-- A resync starts at block 0 (R411); the tokens that its members' wakes take are asked for in class 2. -/
def resyncGroup (id : Nat) (s : State) : State :=
  match s.group? id with
  | none => s
  | some g =>
    let s1 := askChunk id 0 (onGroup id (fun x => { x with front := some 0 }) s)
    let w := s1.wakeReq (s1.geo (s1.volArray g.parity.2)).members
    if s1.get Reg.PWR_BUDGET_GRANT_W < w then askTokens w w 2 s1 else s1

/-- Every member of a group is reachable. -/
def State.allReached (s : State) (g : FlockGroup) : Bool := g.members.all (fun m => s.uidReached m.1)

/-- A stripe update is open on a range of a volume. -/
def State.updatesOn (s : State) (v lba nblk : Nat) : Bool :=
  let rows := s.rangeRows v lba nblk
  s.jnl.updates.any (fun p => rows.contains (rowKey p.2.array p.2.row))

/-- PEER_READ (R411, R413): `data` is what the members of the volume hold of the range. The range admits no write-back from now on, and
the blocks go out once every update open on its rows has retired; until then the row comes again. Blocks beyond the volume's end are zeros, and
a parity volume's own newer lines take the place of what its drives hold. -/
def execPeerRead (p : Option (Fin 4)) (src group member lba nblk : Nat) (data : List Block) (s : State) : Result :=
  arrive p { s.frameFrom .peerRead src 0 with payload := [] } (fun t =>
    match t.group? group with
    | none => t
    | some g =>
      let m := memberAt g member
      if m.1 ≠ t.ownUid then t
      else
        let t1 : State := { t with fab := { t.fab with gates := t.fab.gates.filter (fun x => x.1 != group) ++ [(group, lba)] } }
        if t1.updatesOn m.2 lba nblk then t1
        else
          let v := m.2
          let blocks := (List.range nblk).map (fun i =>
            if t1.volBlocks v ≤ lba + i then 0
            else match (if member = 15 then Assoc.find t1.jnl.lines (lineKey v (lba + i)) else none) with
              | some l => l.data
              | none => data.getD i 0)
          forEach blocks.zipIdx (fun b u =>
            sendFrame .peerData src 0 [group, member, lba + b.2, crc32c (leBytes 4096 b.1), b.1] u) t1) s

/-- PEER_DATA (R411): the blocks of a chunk, each with its CRC-32C; a chunk with a bad one is asked for again. -/
def execPeerData (p : Option (Fin 4)) (src group member lba : Nat) (blocks : List (Block × Nat)) (s : State) : Result :=
  arrive p { s.frameFrom .peerData src 0 with payload := [] } (fun t =>
    let good := blocks.all (fun b => b.2 == crc32c (leBytes 4096 b.1))
    match t.group? group with
    | none => t
    | some g =>
      if !good then askMembers g [member] lba t
      else { t with fab := { t.fab with gathers := t.fab.gathers.map (fun x =>
        if x.group = group ∧ x.lba = lba then { x with got := Assoc.set x.got member (blocks.map Prod.fst) } else x) } }) s

/-- Sum of what was gathered, of `n` blocks. -/
def Gather.sum (x : Gather) (n : Nat) : List Block :=
  x.got.foldl (fun acc m => xorBlocks acc ((List.range n).map (fun i => m.2.getD i 0))) (List.replicate n 0)

/-- FLOCK_RESYNC_CHUNK (R411): a stale group's resync starts where every member is reachable; a chunk that is complete is written to the
parity volume, and the frontier moves on. -/
def execFlockResyncChunk (group : Nat) (s : State) : Result :=
  match s.group? group with
  | none => .next s
  | some g =>
    let v := g.parity.2
    if g.parity.1 ≠ s.ownUid ∨ g.stale = false then .next s
    else match g.front, s.fab.gathers.find? (fun x => x.group == group && x.recover.isNone) with
      | some f, some x =>
        let n := min 64 (s.volBlocks v - f)
        if !(List.range g.members.length).all (fun i => (Assoc.find x.got i).isSome) || !s.admits v n || s.writeRefused v f n then .next s
        else
          let s1 := commitRows v n f (x.sum n) s
          let s2 := floodFrame .group none [3, group, f + 64] (onGroup group (fun y => { y with front := some (f + 64) }) s1)
          if s.volBlocks v ≤ f + 64 then
            let s3 := dropGather x (onGroup group (fun y => { y with stale := false, front := none }) s2)
            .next (after (hostEvent 4 (floodFrame .group none [4, group] s3)))
          else .next (after (askChunk group (f + 64) s2))
      | _, _ => if s.allReached g then .next (after (resyncGroup group s)) else .next s

/-! Deltas (R407) -/

/-- What a block of a volume reads: its line in the cache, or what the drives hold. -/
def State.overlay (s : State) (v lba : Nat) (old : Block) : Block :=
  match Assoc.find s.jnl.lines (lineKey v lba) with | some l => l.data | none => old

/-- The complete record with the lowest DSEQ of a member that is next to be applied. -/
def State.nextDelta (s : State) (group member : Nat) : Option DeltaIn :=
  let mine := s.fab.deltasIn.filter (fun d => d.group == group && d.member == member)
  let low := mine.foldl (fun b d => match b with | none => some d | some x => if d.dseq < x.dseq then some d else some x) (none : Option DeltaIn)
  low.filter (fun d => d.blocks.length == d.nblk)

/-- Records are applied in DSEQ order, as writes to the parity volume, and acknowledged; the number bounds them. -/
def applyDeltas (group member : Nat) : Nat → State → State
  | 0, s => s
  | k + 1, s =>
    match s.nextDelta group member, s.group? group with
    | some d, some g =>
      let v := g.parity.2
      if !s.admits v d.nblk || s.volBlocks v < d.lba + d.nblk || s.writeRefused v d.lba d.nblk then s
      else
        let base := (d.olds.zipIdx).map (fun o => s.overlay v (d.lba + o.2) o.1)
        let s1 := commitRows v d.nblk d.lba (xorBlocks base d.blocks) s
        let s2 : State := { s1 with fab := { s1.fab with deltasIn := s1.fab.deltasIn.erase d } }
        let s3 := onGroup group (fun x => { x with applied := Assoc.set x.applied member d.dseq }) s2
        applyDeltas group member k (sendFrame .deltaAck d.src 0 [group, member, d.dseq] s3)
    | _, _ => s

/-- DELTA_DESC (R407): it carries the record header, and a record opens; one at or below the highest DSEQ committed is acknowledged again. -/
def execDeltaDesc (p : Option (Fin 4)) (src group member : Nat) (seqs : Nat × Nat) (lba nblk crc : Nat) (s : State) : Result :=
  let dseq := seqs.1
  arrive p { s.frameFrom .deltaDesc src 0 with payload := deltaRecord member nblk group dseq lba seqs.2 crc } (fun t =>
    match t.group? group with
    | none => t
    | some g =>
      let done := Assoc.getD g.applied member 0
      if g.parity.1 ≠ t.ownUid then t
      else if dseq ≤ done then sendFrame .deltaAck src 0 [group, member, done] t
      else
        let others := t.fab.deltasIn.filter (fun d => !(d.group == group && d.member == member && d.dseq == dseq))
        { t with fab := { t.fab with deltasIn := others ++ [{ src := src, group := group, member := member, dseq := dseq, lba := lba,
                                                               nblk := nblk, crc := crc }] } }) s

/-- DELTA_DATA (R407): `old` is what the drives hold of the parity block. A record whose DATA_CRC is wrong is dropped and comes again. -/
def execDeltaData (p : Option (Fin 4)) (src xseq : Nat) (data old : Block) (s : State) : Result :=
  arrive p { s.frameFrom .deltaData src xseq with payload := leBytes 4096 data } (fun t =>
    match t.fab.deltasIn.find? (fun d => d.src == src && d.dseq % 65536 == xseq && decide (d.blocks.length < d.nblk)) with
    | none => t
    | some d =>
      let d1 : DeltaIn := { d with blocks := d.blocks ++ [data], olds := d.olds ++ [old] }
      let rest := t.fab.deltasIn.filter (fun x => x != d)
      if d1.blocks.length < d1.nblk then { t with fab := { t.fab with deltasIn := rest ++ [d1] } }
      else if crc32c (d1.blocks.flatMap (leBytes 4096)) ≠ d1.crc then { t with fab := { t.fab with deltasIn := rest } }
      else applyDeltas d1.group d1.member (rest.length + 1) { t with fab := { t.fab with deltasIn := rest ++ [d1] } }) s

/-- DELTA_ACK (R406, R407): records up to the DSEQ are freed, and what waited for room in the log goes on. -/
def execDeltaAck (p : Option (Fin 4)) (group member dseq : Nat) (s : State) : Result :=
  arrive p { s.frameFrom .deltaAck 0 0 with payload := [] } (fun t =>
    let acked (d : Delta) : Bool := d.group == group && d.member == member && decide (d.dseq ≤ dseq)
    let t1 := dropFreed { t with fab := { t.fab with deltas := t.fab.deltas.map (fun d => if acked d then { d with freed := true } else d) } }
    retryIntents (match t1.group? group with
      | some g => onNode g.parity.1 (fun n => { n with mode := Mode.serving }) t1
      | none => t1)) s

/-- DELTA_RESEND (R407): 1 s has passed; unacknowledged records go out again. -/
def execDeltaResend (s : State) : Result := .next (shipDeltas true s)

/-- WAKE_REQ (R408): a fabric wake cause (R27). -/
def execWakeReq (p : Option (Fin 4)) (src : Nat) (s : State) : Result := arrive p (s.frameFrom .wakeReq src 0) fabricWake s

/-! GROUP frames (R404, R409, R411) -/

/-- A node reports that it has stored a new group's record: with the last one GROUP_CREATE completes, and the group resyncs (R404). -/
def groupStored (id uid : Nat) (s : State) : State :=
  match Assoc.find s.fab.storing id with
  | none => s
  | some l =>
    let left := remove l uid
    if left.isEmpty then
      let due := (s.fab.cmds.filter (fun c => c.2 == 3 + 16 * id)).map Prod.fst
      let s1 : State := { s with fab := { s.fab with
        storing := Assoc.erase s.fab.storing id, cmds := s.fab.cmds.filter (fun c => c.2 != 3 + 16 * id) } }
      let s2 := finishAll due St.success 0 s1
      match s2.group? id with
      | some g => if s2.allReached g then resyncGroup id s2 else s2
      | none => s2
    else { s with fab := { s.fab with storing := Assoc.set s.fab.storing id left } }

/-- What a GROUP frame tells is taken over; what is new is flooded on. -/
def groupMsg (p : Option Nat) (m : GroupMsg) (s : State) : State :=
  match m with
  | .record id parity members =>
    let g : FlockGroup := { id := id, parity := parity, members := members }
    let mine := (members ++ [parity]).any (fun x => x.1 == s.ownUid)
    if !mine then s
    else
      let s1 := if (s.group? id).isSome then s else storeGroup g s
      (match s1.addrOf parity.1 with
       | some a => sendFrame .group a 0 [6, id, s1.ownUid] s1
       | none => s1)
  | .deleted id => if (s.group? id).isSome then floodFrame .group p [1, id] (removeGroup id s) else s
  | .stale id =>
    (match s.group? id with
     | some g => if g.stale && g.front.isNone then s else markStale id s
     | none => s)
  | .front id f =>
    (match s.group? id with
     | some g =>
       if g.front = some f then s
       else
         let s1 := onGroup id (fun x => { x with stale := true, front := some f }) s
         floodFrame .group p [3, id, f] { s1 with fab := { s1.fab with gates := s1.fab.gates.filter (fun x => !(x.1 == id && decide (x.2 < f))) } }
     | none => s)
  | .current id =>
    (match s.group? id with
     | some g =>
       if g.stale then
         let s1 := onGroup id (fun x => { x with stale := false, front := none }) s
         hostEvent 4 (floodFrame .group p [4, id] { s1 with fab := { s1.fab with gates := s1.fab.gates.filter (fun x => x.1 != id) } })
       else s
     | none => s)
  | .released id =>
    if s.fab.gates.any (fun x => x.1 == id) then
      floodFrame .group p [5, id] { s with fab := { s.fab with gates := s.fab.gates.filter (fun x => x.1 != id) } }
    else s
  | .stored id uid => groupStored id uid s
  | .mode uid mode =>
    if s.fab.nodes.any (fun n => n.uid == uid && n.mode != mode) then
      shipDeltas false (floodFrame .group p [7, uid, mode] (onNode uid (fun n => { n with mode := mode }) s))
    else s

/-- GROUP. -/
def execGroup (p : Option (Fin 4)) (msg : GroupMsg) (s : State) : Result :=
  arrive p { s.frameFrom .group 0 0 with payload := [] } (groupMsg (p.map Fin.val) msg) s

/-- Updates wait for room in the deferred-delta log (R408). -/
def State.logFull (s : State) : Bool := s.jnl.updates.any (fun p => p.2.step == 10)

/-- GROUP_STALE_TIMER (R409): 10 min without a route to the parity node while the log holds deltas for it, or with the log full and no
DELTA_ACK. -/
def execGroupStaleTimer (group : Nat) (s : State) : Result :=
  match s.group? group with
  | none => .next s
  | some g =>
    let waits := s.fab.deltas.any (fun d => d.group == group && !d.freed)
    if waits && !g.stale && (!s.uidReached g.parity.1 || s.logFull) then .next (after (retryIntents (markStale group s))) else .next s

/-! FABRIC_CONTROL (R262, R414, R415) -/

/-- The sub-operation's code. -/
def fabCode (e : Entry) : Nat := e.options % 256

/-- A refusal with a reason of R415. -/
def fabRefuse (n reason : Nat) (s : State) : State := refuse n (reason * 256) s

/-- The buffer is at least as long as the sub-operation needs, and valid; it is read. -/
def fabBuffer (n : Nat) (c : Cmd) (need : Nat) (k : State → State) (s : State) : State :=
  let len := bufferLen c.e
  if len < need ∨ 4096 < len ∨ s.bufferOk c.e len = false then finish n St.fragmentError 0 s else k (fromHost c.e s)

/-- A field of the buffer. -/
def bufField (buffer : List Nat) (at' len : Nat) : Nat := leNat ((buffer.drop at').take len)

/-- What only the bellwether can do is done here where this node is it, and asked of it otherwise; the command then waits. -/
def atBellwether (n code : Nat) (here : State → State) (msg : BudgetMsg) (s : State) : State :=
  match s.fab.bellwether with
  | none => fabRefuse n 1 s
  | some b =>
    if s.ownAddr?.isNone || !s.reach b then fabRefuse n 1 s
    else
      let s1 := onCmd n (fun x => { x with begun := true }) { s with fab := { s.fab with cmds := s.fab.cmds ++ [(n, code)] } }
      if s.isBellwether then here s1 else sendFrame .budget b 0 (budgetAsk msg) s1

/-- SET_BUDGET (R395, R414); an unknown code is refused here. -/
def execSetBudget (cid : Nat) (buffer : List Nat) (s : State) : Result :=
  runAdmin cid .fabricControl (fun e => fabCode e == 1 || fabCode e == 0 || decide (8 < fabCode e)) (fun n c t =>
    if fabCode c.e ≠ 1 then refuse n 0 t
    else
      let w := bufField buffer 0 4
      let i := bufField buffer 4 4
      fabBuffer n c 16 (atBellwether n 1 (fun u => finishBudget (publishBudget (fun b => { b with budgetW := w, isolatedW := i }) u))
        (.set t.ownUid w i)) t) s

/-- SET_ELIGIBILITY (R388, R396, R414). -/
def execSetEligibility (cid : Nat) (buffer : List Nat) (s : State) : Result :=
  runAdmin cid .fabricControl (fun e => fabCode e == 2) (fun n c t =>
    fabBuffer n c 16 (fun u => finish n St.success 0 (fabRefresh { u with fab := { u.fab with
      rootElig := buffer.getD 0 0 != 0, bwElig := buffer.getD 1 0 != 0, bwPrio := buffer.getD 2 0 } })) t) s

/-- FORGET_NODE (R396, R414). -/
def execForgetNode (cid : Nat) (buffer : List Nat) (s : State) : Result :=
  runAdmin cid .fabricControl (fun e => fabCode e == 7) (fun n c t =>
    let uid := bufField buffer 0 8
    fabBuffer n c 16 (atBellwether n 7 (fun u => finishForget (forgetNode uid u)) (.forget t.ownUid uid)) t) s

/-- WAKE_NODE (R414). -/
def execWakeNode (cid : Nat) (buffer : List Nat) (s : State) : Result :=
  runAdmin cid .fabricControl (fun e => fabCode e == 8) (fun n c t =>
    let a := bufField buffer 0 2
    fabBuffer n c 16 (fun u =>
      if u.ownAddr?.isNone || !u.reach a then fabRefuse n 1 u else finish n St.success 0 (sendFrame .wakeReq a 0 [] u)) t) s

/-- Why a GROUP_CREATE is refused (R415), in the order chosen: COMPAT, the node, the count, the identifier, reachability, the volumes, the
shelves, the sizes. `facts` are the members' volumes as their nodes report them. -/
def State.groupRefusal (s : State) (id : Nat) (parity : Nat × Nat) (members : List (Nat × Nat)) (facts : List VolFacts) : Option Nat :=
  let uids := parity.1 :: members.map Prod.fst
  let partners := s.partnerUid :: facts.map (·.partner)
  let shared := !decide uids.Nodup || uids.any (fun u => partners.any (fun q => q == u))
  if s.on Reg.SYS_STRAP_COMPAT then some 7
  else if parity.1 ≠ s.ownUid then some 8
  else if members.length < 2 ∨ 15 < members.length then some 5
  else if (s.group? id).isSome then some 6
  else if s.ownAddr?.isNone || !uids.all s.uidReached || facts.length != members.length then some 1
  else if !(decide (parity.2 < 64) && s.volValid parity.2) || (s.volMeta parity.2).flock.isSome || !facts.all (·.free) then some 2
  else if shared then some 3
  else if facts.any (fun f => decide (s.volBlocks parity.2 < f.blocks)) then some 4
  else none

/-- GROUP_CREATE (R404, R414): every node named stores the record, and the command completes with the last of them. -/
def execGroupCreate (cid : Nat) (buffer : List Nat) (facts : List VolFacts) (s : State) : Result :=
  runAdmin cid .fabricControl (fun e => fabCode e == 3) (fun n c t =>
    let count := buffer.getD 8 0
    let id := bufField buffer 0 8
    let entry (at' : Nat) : Nat × Nat := (bufField buffer at' 8, buffer.getD (at' + 8) 0)
    let parity := entry 16
    let members := (List.range count).map (fun i => entry (32 + 16 * i))
    fabBuffer n c (32 + 16 * count) (fun u =>
      match u.groupRefusal id parity members facts with
      | some r => fabRefuse n r u
      | none =>
        let u1 := onCmd n (fun x => { x with begun := true }) (storeGroup { id := id, parity := parity, members := members } u)
        let u2 : State := { u1 with fab := { u1.fab with
          cmds := u1.fab.cmds ++ [(n, 3 + 16 * id)], storing := Assoc.set u1.fab.storing id (members.map Prod.fst) } }
        forEach members (fun m v => match v.nodeAddr m.1 with
          | some a => sendFrame .group a 0 ([0, id, parity.1, parity.2] ++ members.flatMap (fun x => [x.1, x.2])) v
          | none => v) u2) t) s

/-- GROUP_DELETE (R414). -/
def execGroupDelete (cid : Nat) (buffer : List Nat) (s : State) : Result :=
  runAdmin cid .fabricControl (fun e => fabCode e == 4) (fun n c t =>
    let id := bufField buffer 0 8
    fabBuffer n c 16 (fun u =>
      if u.on Reg.SYS_STRAP_COMPAT then fabRefuse n 7 u
      else if (u.group? id).isNone then fabRefuse n 6 u
      else finish n St.success 0 (floodFrame .group none [1, id] (removeGroup id u))) t) s

/-- GROUP_RESYNC (R411, R414). -/
def execGroupResync (cid : Nat) (buffer : List Nat) (s : State) : Result :=
  runAdmin cid .fabricControl (fun e => fabCode e == 5) (fun n c t =>
    let id := bufField buffer 0 8
    fabBuffer n c 16 (fun u =>
      match u.group? id with
      | none => fabRefuse n (if u.on Reg.SYS_STRAP_COMPAT then 7 else 6) u
      | some g =>
        if u.on Reg.SYS_STRAP_COMPAT then fabRefuse n 7 u
        else if g.parity.1 ≠ u.ownUid then fabRefuse n 8 u
        else if !u.allReached g then fabRefuse n 1 u
        else finish n St.success 0 (if g.stale && g.front.isNone then resyncGroup id u else u)) t) s

/-- Sources of a recovery: every member but the one rebuilt, and the parity volume. -/
def recoverFrom (g : FlockGroup) (member : Nat) : List Nat := (List.range g.members.length).filter (fun i => i != member) ++ [15]

/-- GROUP_RECOVER begins (R413, R415). A member index that the group does not have is refused with a reason that the spec does not state. -/
def beginRecover (n id member target : Nat) (s : State) : State :=
  match s.group? id with
  | none => fabRefuse n (if s.on Reg.SYS_STRAP_COMPAT then 7 else 6) s
  | some g =>
    if s.on Reg.SYS_STRAP_COMPAT then fabRefuse n 7 s
    else if g.members.length ≤ member then useFree (fabRefuse n (s.freeVal 8) s)
    else if g.stale then fabRefuse n 9 s
    else if !(decide (target < 64) && s.volValid target) || (s.volMeta target).flock.isSome then fabRefuse n 2 s
    else if !(recoverFrom g member).all (fun i => s.uidReached (memberAt g i).1) then fabRefuse n 1 s
    else
      let s1 := onCmd n (fun x => { x with begun := true }) s
      askMembers g (recoverFrom g member) 0 (setGather { group := id, lba := 0, recover := some (n, member, target) } s1)

/-- A chunk of a recovery that is complete is written to the target volume, and the next one asked for; at the target's end the command
completes. -/
def recoverChunk (x : Gather) (n member target : Nat) (s : State) : State :=
  match s.group? x.group, s.cmd? n with
  | some g, some _ =>
    let from' := recoverFrom g member
    let k := min 64 (s.volBlocks target - x.lba)
    if !from'.all (fun i => (Assoc.find x.got i).isSome) || !s.admits target k || s.writeRefused target x.lba k then s
    else
      let s1 := commitRows target k x.lba (x.sum k) s
      let next := x.lba + 64
      if s.volBlocks target ≤ next then finish n St.success 0 (floodFrame .group none [5, x.group] (dropGather x s1))
      else askMembers g from' next (setGather { group := x.group, lba := next, recover := x.recover } s1)
  | _, _ => dropGather x s

/-- GROUP_RECOVER (R413, R414): the first occurrence begins it, each later one writes a chunk. -/
def execGroupRecover (cid : Nat) (buffer : List Nat) (s : State) : Result :=
  let under := s.fab.gathers.findSome? (fun x => match x.recover with
    | some (n, m, v) => (match s.cmd? n with | some c => if c.e.qid = 0 ∧ c.e.cid = cid then some (x, n, m, v) else none | none => none)
    | none => none)
  match under with
  | some (x, n, m, v) => .next (after (recoverChunk x n m v s))
  | none => runAdmin cid .fabricControl (fun e => fabCode e == 6) (fun n c t =>
      fabBuffer n c 16 (beginRecover n (bufField buffer 0 8) (buffer.getD 8 0) (buffer.getD 9 0)) t) s

end Sys2Proof.Machine
end

