-- ==== Sys2Proof/Machine/Regs.lean ====
section
/-! DEFINITION. REGISTER_WRITE (R5, R6, R14 to R18): who may write which block (R496), the access codes, locks, and what a write starts. A field
whose write is a command of its own takes that command's effect. -/

namespace Sys2Proof.Machine

/-! Whose writes a block accepts (R496) -/

/-- The counter in which a block counts host writes that it discards. -/
def dropCounter (block : Nat) : Field :=
  if block = 0x0 then Reg.SYS_BAR0_DROP_CNT else if block = 0x7 then Reg.DMA_BAR0_DROP_CNT else if block = 0x8 then Reg.CCH_BAR0_DROP_CNT
  else if block = 0x9 then Reg.MBX_BAR0_DROP_CNT else if block = 0xB then Reg.SLT_BAR0_DROP_CNT else if block = 0xC then Reg.PWR_BAR0_DROP_CNT
  else if block = 0xD then Reg.BAT_BAR0_DROP_CNT else if block = 0xE then Reg.FAN_BAR0_DROP_CNT else if block = 0xF then Reg.FOV_BAR0_DROP_CNT
  else if block = 0x10 then Reg.FAB_BAR0_DROP_CNT else Reg.RPR_BAR0_DROP_CNT

/-- The offset belongs to a block, the MSI-X table or the PBA (R495). -/
def inBlock (off : Nat) : Bool :=
  decide (off < 0x120000) || (decide (0x300000 ≤ off) && decide (off < 0x300200)) || off == 0x301000 || off == 0x301004

/-- The offset lies in the MSI-X table or the PBA, which accept every byte enable (R277). -/
def inMsix (off : Nat) : Bool := decide (0x300000 ≤ off)

/-- The host's write at an offset is accepted (R496, R441). -/
def hostMay (off : Nat) : Bool :=
  let b := off / 0x10000
  inMsix off || b == 0x2 || (b == 0x1 && off != 0x10018 && off != 0x10080)
    || (decide (0x90700 ≤ off) && decide (off < 0x90800) && off % 0x20 != 0)

/-- A host write that its block discards. -/
def hostDrop (off : Nat) (s : State) : State :=
  let b := off / 0x10000
  if [0x3, 0x4, 0x5, 0x6, 0xA].contains b then ignored 5 0 s else if b = 0x1 then s else bump (dropCounter b) s

/-! Bits -/

/-- Mask of the bits of a list of fields. -/
def fieldMask (fs : List Field) : Nat := (fs.map (fun f => (2 ^ f.width - 1) * 2 ^ f.lo)).sum

/-- A field's part of a word. -/
def Field.part (f : Field) (v : Nat) : Nat := bits v f.lo f.width

/-- The word that a write with byte enables leaves: bytes not enabled keep what they hold. -/
def mergeLanes (be old v : Nat) : Nat :=
  leNat ((List.range 4).map (fun i => if bitOf be i = 1 then bits v (8 * i) 8 else bits old (8 * i) 8))

/-- A block's lock keeps an RWL field (R70, R225). -/
def State.locked (s : State) (off : Nat) : Bool :=
  if off / 0x10000 = 0x2 then s.on Reg.QMX_CTRL_EN
  else s.on Reg.STP_CTRL_LOCK
    || (decide (0x30100 ≤ off) && decide (off < 0x30200) && s.on (Reg.STP_ARRAY_CFG_VALID ((off - 0x30100) / 0x40)))
    || (decide (0x31000 ≤ off) && s.on (Reg.STP_VOL_CFG_VALID ((off - 0x31000) / 0x20)))

/-- A locked field that a write would change: the value it holds is the one it reads as (R70). -/
def State.lockHit (s : State) (v : Nat) (f : Field) : Bool := f.acc == .rwl && s.locked f.off && s.seen f != f.part v

/-! Ring indices (R96, R146, R385, R444) -/

/-- A register that holds an index of an internal ring, with the field and the ring's last index. -/
def ringIndex (off : Nat) : Option (Field × Field) :=
  if 0x41000 ≤ off ∧ off < 0x41400 ∧ off % 0x40 = 0x24 then
    some (Reg.OXE_RING_CQ_HEAD_CQ_HEAD ((off - 0x41000) / 0x40), Reg.OXE_RING_CFG_SIZE_M1 ((off - 0x41000) / 0x40))
  else if 0x71000 ≤ off ∧ off < 0x71400 ∧ off % 0x40 = 0x18 then
    some (Reg.DMA_CH_TAIL_TAIL ((off - 0x71000) / 0x40), Reg.DMA_CH_CFG_SIZE_M1 ((off - 0x71000) / 0x40))
  else if 0x71000 ≤ off ∧ off < 0x71400 ∧ off % 0x40 = 0x24 then
    some (Reg.DMA_CH_CQ_HEAD_CQ_HEAD ((off - 0x71000) / 0x40), Reg.DMA_CH_CFG_SIZE_M1 ((off - 0x71000) / 0x40))
  else if off = 0xA008C then some (Reg.SAS_FW_TAIL_TAIL, Reg.SAS_FW_CFG_SIZE_M1)
  else if off = 0xA00A0 then some (Reg.SAS_FW_CQ_HEAD_CQ_HEAD, Reg.SAS_FW_CFG_SIZE_M1)
  else if off = 0xA00D0 then some (Reg.SAS_ESC_HEAD_HEAD, Reg.SAS_ESC_CFG_SIZE_M1)
  else if off = 0x1001A0 then some (Reg.FAB_RX_TAIL_TAIL, Reg.FAB_RX_CFG_SIZE_M1)
  else if off = 0x1001A8 then some (Reg.FAB_RX_CQ_HEAD_CQ_HEAD, Reg.FAB_RX_CFG_SIZE_M1)
  else none

/-! Storing -/

/-- The write of a RW field that a command of its own, or an effect below, makes. -/
def ownWrite (off lo : Nat) : Bool :=
  (ringIndex off).isSome
  || (decide (0x30100 ≤ off) && decide (off < 0x30200) && off % 0x40 == 0 && lo == 0)
  || (decide (0x31000 ≤ off) && decide (off < 0x31800) && off % 0x20 == 0 && lo == 0)
  || off == 0x40084
  || (decide (0x41000 ≤ off) && decide (off < 0x41400) && off % 0x40 == 0x18)
  || (decide (0x48000 ≤ off) && decide (off < 0x49C00) && off % 0x100 == 0 && lo == 0)
  || (off == 0x50000 && lo != 0)
  || (decide (0xA0200 ≤ off) && decide (off < 0xA0300) && off % 0x20 == 0 && lo == 0)
  || (decide (0xA1000 ≤ off) && decide (off < 0xA2B00) && off % 0x40 == 0)
  || (off == 0x20000 && lo == 0) || off == 0x20020 || off == 0x20024
  || (decide (0xB0000 ≤ off) && decide (off < 0xB0360) && off % 8 == 0 && lo < 3)
  || (off == 0xC0000 && lo < 2) || off == 0xD0000 || off == 0xD0018 || off == 0xD0034
  || (decide (0xE0100 ≤ off) && decide (off < 0xE0280) && (off % 0x40 == 0x8 || off % 0x40 == 0xC))
  || (off == 0xF0000 && (lo == 4 || lo == 5)) || off == 0x10018C
  || (decide (0x90000 ≤ off) && decide (off < 0x90800) && (off % 0x20 == 8 || off % 0x20 == 0xC || off % 0x20 == 0x10))
  || off == 0x91004 || (decide (0x91400 ≤ off) && decide (off < 0x91500))
  || (off == 0x70000 && lo == 0) || (decide (0x71000 ≤ off) && decide (off < 0x71400) && off % 0x40 == 0 && lo == 0)
  || (off == 0x8001C && lo == 0) || (off == 0x0 && lo == 0) || off == 0xA00D4

/-- A RW field keeps its value for the time being: a volume number under translation, or the frontier of an enabled rebuild (R163). -/
def State.keptField (s : State) (off : Nat) : Bool :=
  (off == 0x30010 && s.on Reg.STP_XLATE_CTRL_BUSY)
  || (decide (0xA0200 ≤ off) && decide (off < 0xA0300) && (off % 0x20 == 4 || off % 0x20 == 8)
      && s.on (Reg.SAS_RBD_CFG_ENABLE ((off - 0xA0200) / 0x20)))

/-- One field takes its part of a word by its access code (R5). -/
def storeField (v : Nat) (f : Field) (s : State) : State :=
  match f.acc with
  | .rw => if ownWrite f.off f.lo || s.keptField f.off then s else setF f (f.part v) s
  | .rwl => if s.locked f.off then s else setF f (f.part v) s
  | .w1c => setF f (s.get f - (s.get f &&& f.part v)) s
  | _ => s

/-! What a write starts -/

/-- The state after a command that a write stands for. -/
def took (r : Result) (s : State) : State := match r with | .next t => t | _ => s

/-- A command that names an index below a bound; an index beyond it names nothing. -/
def withFin (k n : Nat) (f : Fin k → State → Result) (s : State) : State := if h : n < k then took (f ⟨n, h⟩ s) s else s

/-- STP (R51, R68, R71 to R73). -/
def stpWrite (off v : Nat) (s : State) : State :=
  if off = 0x30000 then after s
  else if off = 0x30010 then (if bitOf v 31 = 1 then withFin 64 (bits v 0 6) execXlateGo s else s)
  else if 0x30100 ≤ off ∧ off < 0x30200 then
    let n := (off - 0x30100) / 0x40
    let r := off % 0x40
    if r = 0 then withFin 4 n (fun i => execArrayValidWrite i (bitOf v 0 == 1)) s
    else if 0x20 ≤ r ∧ r < 0x30 then after (when (s.on (Reg.STP_ARRAY_EVAL_BUSY n)) (setF (Reg.STP_ARRAY_EVAL_STALE n) 1) s)
    else if r = 0x30 ∧ bitOf v 31 = 1 then withFin 4 n execEvalStart s
    else s
  else if 0x31000 ≤ off ∧ off % 0x20 = 0 then withFin 64 ((off - 0x31000) / 0x20) (fun i => execVolumeValidWrite i (bitOf v 0 == 1)) s
  else s

/-- OXE (R83, R85, R96, R100, R102, R107, R108). -/
def oxeWrite (off v : Nat) (s : State) : State :=
  if off = 0x40000 then keepTarget s
  else if off = 0x40084 then took (execCoefDataAccess (some (BitVec.ofNat 32 v)) s) s
  else if 0x40100 ≤ off ∧ off < 0x40180 ∧ off % 0x20 = 0 ∧ bitOf v 31 = 1 then withFin 4 ((off - 0x40100) / 0x20) execPlanRetry s
  else if 0x41000 ≤ off ∧ off < 0x41400 ∧ off % 0x40 = 0x18 then
    withFin 16 ((off - 0x41000) / 0x40) (fun r => execRingTailWrite r (bits v 0 12)) s
  else if 0x48000 ≤ off ∧ off < 0x49C00 ∧ off % 0x100 = 0 then
    let e := (off - 0x48000) / 0x100
    let s1 := withFin 28 e (fun i => execEnginePause i (bitOf v 0 == 1)) s
    let s2 := if bitOf v 1 = 1 then withFin 28 e execEngineRetire s1 else s1
    if bitOf v 2 = 1 then withFin 28 e execEngineTest s2 else s2
  else s

/-- JNL (R111, R113, R129). -/
def jnlWrite (off v : Nat) (s : State) : State :=
  if off = 0x50000 then
    let b (i : Nat) : Bool := bitOf v i == 1
    let s1 := took (execPackHealthyWrite (b 4) s) s
    let s2 := took (execPartnerLiveWrite (b 3) s1) s1
    let s3 := took (execForceWtWrite (b 2) s2) s2
    let s4 := if b 1 then (if s3.on Reg.JNL_CTRL_REPLAY_DONE then s3 else took (execReplayDoneWrite s3) s3) else setF Reg.JNL_CTRL_REPLAY_DONE 0 s3
    after (retryIntents s4)
  else if off = 0x50010 then after s
  else if off = 0x50024 ∧ bitOf v 31 = 1 then withFin 4 (bits v 0 2) execJnlAlloc s
  else s

/-- SAS (R142, R143, R150, R154, R163). A write of ESC_DONE carries no reads: the content at the piece's address is a free value. -/
def sasWrite (off v : Nat) (s : State) : State :=
  if off = 0xA0000 then after s
  else if off = 0xA0020 ∧ bitOf v 31 = 1 then
    (if bitOf v 30 = 1 then withFin 108 (bits v 0 7) execWakeDeny s else withFin 108 (bits v 0 7) execWakeRetry s)
  else if off = 0xA00D0 then after (escalateWaiting s)
  else if off = 0xA00D4 then
    let s1 := setF Reg.SAS_ESC_DONE_OUTCOME (bits v 24 2) (setF Reg.SAS_ESC_DONE_PIECE (bits v 0 24) s)
    if bitOf v 31 = 1 then
      withFin 4 (bits v 24 2) (fun o => execEscDone (bits v 0 24) o []) s1
    else s1
  else if 0xA0200 ≤ off ∧ off < 0xA0300 ∧ off % 0x20 = 0 then
    let k := (off - 0xA0200) / 0x20
    if s.on (Reg.SAS_RBD_CFG_ENABLE k) = false ∧ bitOf v 0 = 0 then s else after (withFin 8 k (fun i => execFrontierEnable i (bitOf v 0 == 1)) s)
  else if 0xA1000 ≤ off ∧ off < 0xA2B00 ∧ off % 0x40 = 0 then
    withFin 108 ((off - 0xA1000) / 0x40) (fun i => execAwakeWrite i (bitOf v 0 == 1)) s
  else s

/-- QMX (R198, R202, R203, R205, R226). -/
def qmxWrite (off v : Nat) (s : State) : State :=
  if off = 0x20000 then
    (if s.on Reg.QMX_CTRL_EN = (bitOf v 0 == 1) then s
     else if bitOf v 0 = 1 then took (execQueueEnable s) s else took (execQueueDisable s) s)
  else if off = 0x20020 then took (execAdminSqTailWrite v s) s
  else if off = 0x20024 then took (execAdminCqHeadWrite v s) s
  else if off = 0x20034 ∧ bitOf v 0 = 1 then took (execKick s) s
  else s

/-- Events of the host that stay set and enabled after a W1C write are raised again (R23). -/
def reraise (s : State) : State :=
  evalLine (forEach [0, 1, 2, 3, 4, 5] (fun i t => when (t.on (hostCause i).1 && t.on (hostCause i).2.1) (sendMsix i) t) s)

/-- HIF and the MSI-X table (R269, R280 to R283). -/
def hifWrite (r : Requester) (off v : Nat) (s : State) : State :=
  if off = 0x10004 ∧ bitOf v 8 = 1 then took (execLinkRestore s) s
  else if off = 0x10010 then reraise s
  else if off = 0x10014 ∨ off = 0x10030 then evalLine s
  else if off = 0x10018 then took (execHostRaise r v s) s
  else if off = 0x10040 ∧ bitOf v 0 = 1 then took (execIntxAck s) s
  else if off = 0x1008C ∧ bitOf v 31 = 1 then took (execXlatCommit r s) s
  else if inMsix off then flushMsix s
  else s

/-- SLT and PWR (R295, R301, R305). -/
def powerWrite (off v : Nat) (s : State) : State :=
  let b (i : Nat) : Bool := bitOf v i == 1
  if 0xB0000 ≤ off ∧ off < 0xB0360 ∧ off % 8 = 0 then
    let n := (off - 0xB0000) / 8
    let s1 := if s.on (Reg.SLT_CTRL_EN12 n) = b 0 ∧ s.on (Reg.SLT_CTRL_EN5 n) = b 1 then s else writeEnables n (b 0) (b 1) s
    sendSlotState (if s1.on (Reg.SLT_CTRL_SPIN n) = b 2 then s1 else writeSpin n (b 2) s1)
  else if off = 0xC0000 then
    let s1 := if s.on Reg.PWR_CTRL_CONV_EN = b 0 then s else took (execConverterEnable (b 0) s) s
    if s1.on Reg.PWR_CTRL_STANDBY_OFFSET = b 1 then s1 else setOffset (b 1) s1
  else if off = 0xC0020 then loopAtOnce s
  else s

/-- BAT (R312, R314, R326). -/
def batWrite (off v : Nat) (s : State) : State :=
  if off = 0xD0000 then
    let s1 := writeChgEn (bitOf v 0 == 1) s
    if bitOf v 1 = 0 then setF Reg.BAT_CTRL_LEARN 0 s1
    else if s1.on Reg.BAT_CTRL_LEARN then s1 else took (execLearnStart s1) s1
  else if off = 0xD0018 then writeCount v s
  else if off = 0xD0030 ∧ bitOf v 31 = 1 then took (execSmbusTransaction (bits v 0 8) (bits v 8 8) (bitOf v 16 == 1) s) s
  else if off = 0xD0034 then { s with bat := { s.bat with smbFifo := (s.bat.smbFifo ++ leBytes 4 v).take 64 } }
  else s

/-- FAN (R344, R349, R350, R353). -/
def fanWrite (off v : Nat) (s : State) : State :=
  if off = 0xE0000 then fanSettleAll s
  else if off = 0xE000C then
    let s1 := if bitOf v 2 = 1 then took (execFanTokenClaim s) s else s
    if bitOf v 3 = 1 then took (execFanTokenRelease s1) s1 else s1
  else if 0xE0100 ≤ off ∧ off < 0xE0280 ∧ off % 0x40 = 8 then
    withFin 6 ((off - 0xE0100) / 0x40) (fun c => execFanDemandWrite c (bits v 0 10)) s
  else if 0xE0100 ≤ off ∧ off < 0xE0280 ∧ off % 0x40 = 0xC then
    let c := (off - 0xE0100) / 0x40
    let s1 := withFin 6 c (fun i => execFanRunWrite i (bitOf v 0 == 1)) s
    if bitOf v 1 = 1 then withFin 6 c execFanRestart s1 else s1
  else s

/-- FOV (R358, R362, R363, R374). -/
def fovWrite (off v : Nat) (s : State) : State :=
  if off = 0xF0000 then
    let s1 := setHold (bitOf v 4 == 1) s
    let s2 := roleChanged s1.role 0 (setF Reg.FOV_CTRL_STANDBY_ROLE (bitOf v 5) s1)
    let s3 := if bitOf v 1 = 1 then took (execActiveClaim s2) s2 else s2
    let s4 := if bitOf v 2 = 1 then took (execActiveRelease s3) s3 else s3
    settle (if bitOf v 3 = 1 then took (execRelinquish s4) s4 else s4)
  else if off = 0xF000C ∧ bitOf v 0 = 1 then took (execWatchdogKick s) s
  else s

/-- CCH (R423, R431). An operation code that names nothing starts nothing. -/
def cchWrite (off v : Nat) (s : State) : State :=
  if off = 0x80000 then settleHum s
  else if off = 0x8001C then
    let op := bits v 0 3
    if bitOf v 31 = 0 then (if s.on Reg.CCH_MAINT_CTRL_BUSY then s else setF Reg.CCH_MAINT_CTRL_OP op s)
    else if op = 1 then took (execClean s) s
    else if op = 2 then took (execInval s) s
    else if op = 3 then took (execCacheFlush s) s
    else if op = 4 then took (execCleanAll s) s
    else if op = 5 then took (execFlushAll s) s
    else if op = 6 then took (execInvalAll s) s
    else if s.on Reg.CCH_MAINT_CTRL_BUSY then ignored 6 0 s
    else setF Reg.CCH_MAINT_CTRL_OP op s
  else s

/-- MBX (R434, R438 to R442). -/
def mbxWrite (r : Requester) (off v : Nat) (s : State) : State :=
  if 0x90000 ≤ off ∧ off < 0x90800 then
    let m := (off - 0x90000) / 0x20
    let at' := off % 0x20
    if at' = 8 then (if s.boxRefuses m r then dropBox m s else setF (Reg.MBX_BOX_DATA_LO_DATA m) v s)
    else if at' = 0xC then withFin 64 m (fun i => execMailboxSend i r (BitVec.ofNat 32 v)) s
    else if at' = 0x10 then withFin 64 m (fun i => execLockRelease i r (bits v 0 8)) s
    else if at' = 0x14 ∧ bitOf v 0 = 1 then withFin 64 m (fun i => execBoxRecall i r) s
    else s
  else if off = 0x91004 then
    (if bitOf v 31 = 1 then withFin 64 (bits v 0 6) (fun i => execLockForce i r) s else setF Reg.MBX_LOCK_FORCE_BOX (bits v 0 6) s)
  else if 0x91400 ≤ off ∧ off < 0x91500 then
    (match r with
     | .core n => withFin 64 ((off - 0x91400) / 4) (execPeerLockRelease n) s
     | _ => s)
  else s

/-- DMA (R450). -/
def dmaWrite (off v : Nat) (s : State) : State :=
  if off = 0x70000 then (if bitOf v 0 = 1 then setF Reg.DMA_CTRL_ENABLE 1 s else took (execDmaChannelDisable none s) s)
  else if 0x71000 ≤ off ∧ off < 0x71400 ∧ off % 0x40 = 0 then
    let c := (off - 0x71000) / 0x40
    if bitOf v 0 = 1 then setF (Reg.DMA_CH_CFG_ENABLE c) 1 s else withFin 16 c (fun i => execDmaChannelDisable (some i)) s
  else if 0x71000 ≤ off ∧ off < 0x71400 ∧ off % 0x40 = 0x2C ∧ bitOf v 0 = 1 then withFin 16 ((off - 0x71000) / 0x40) execDmaResume s
  else s

/-- RPR (R456 to R464). -/
def rprWrite (off v : Nat) (s : State) : State :=
  if off = 0x110000 ∧ bitOf v 2 = 1 then took (execLaneRestore s) s
  else if off = 0x110020 ∧ bitOf v 0 = 1 then took (execRepairRecordPop s) s
  else if off = 0x111010 ∧ bitOf v 31 = 1 then
    took (execDramPpr (bits v 0 13) (s.get Reg.RPR_DRAM_PPR_ROW_ROW) (bitOf v 13 == 1) s) s
  else s

/-- SYS (R24, R466, R467). -/
def sysWrite (off v : Nat) (s : State) : State :=
  if off = 0x0 then enterMode (bits v 0 4) s
  else if off = 0x8 ∧ bitOf v 31 = 1 then
    let key := bits v 16 8
    if bits v 0 2 = 3 then took (execColdReset key s) s
    else if bits v 0 2 = 2 then took (execWarmReset key s) s
    else if bits v 0 2 = 1 then took (execCoreRestart key s) s
    else if key = 0x5A then s else ignored 6 0 s
  else s

/-- What a landed write starts, by its block. -/
def startedBy (r : Requester) (off v : Nat) (s : State) : State :=
  let b := off / 0x10000
  if b = 0x0 then sysWrite off v s
  else if b = 0x2 then qmxWrite off v s
  else if b = 0x3 then stpWrite off v s
  else if b = 0x4 then oxeWrite off v s
  else if b = 0x5 then jnlWrite off v s
  else if b = 0x6 then (if off = 0x60004 ∧ bitOf v 31 = 1 then withFin 8 (bits v 0 3) execIntInject s else s)
  else if b = 0x7 then dmaWrite off v s
  else if b = 0x8 then cchWrite off v s
  else if b = 0x9 then mbxWrite r off v s
  else if b = 0xA then sasWrite off v s
  else if b = 0xB ∨ b = 0xC then powerWrite off v s
  else if b = 0xD then batWrite off v s
  else if b = 0xE then fanWrite off v s
  else if b = 0xF then fovWrite off v s
  else if b = 0x10 then (if off = 0x10018C then took (execFabTxTail (bits v 0 11) s) s else s)
  else if b = 0x11 then rprWrite off v s
  else hifWrite r off v s

/-- A word written to a register (R5, R6): every field takes its part, reserved bits and locked fields are counted, and what the write
starts follows. The flag that such a count sets is set in the cycle of the landing, so a W1C of it does not clear it (R19). A write that
carries a reserved bit and would change a locked field counts twice: a choice of the model (log entry 98). -/
def writeWord (r : Requester) (off v : Nat) (s : State) : State :=
  let fs := fieldsAt off
  if fs.isEmpty then (if v = 0 then s else ignored 6 0 s)
  else
    let reserved := off != 0x10018 && (v &&& (2 ^ 32 - 1 - fieldMask fs)) != 0
    let hit := fs.any (s.lockHit v) || (off != 0x30010 && s.keptField off)
    let noted (t : State) : State := when hit (ignored 6 0) (when reserved (ignored 6 0) t)
    match ringIndex off with
    | some (f, size) => if s.get size < f.part v then ignored 7 0 (noted s) else startedBy r off v (noted (setF f (f.part v) s))
    | none => startedBy r off v (noted (forEach fs (storeField v) s))

/-! Configuration space (R270 to R276) -/

/-- A word of configuration space is kept. -/
def setCfg (off w : Nat) (s : State) : State := { s with hif := { s.hif with cfg := Assoc.put s.hif.cfg (cfgReset off) off w } }

/-- A write to configuration space takes effect. -/
def cfgLand (off be v : Nat) (s : State) : State :=
  let keep (old : Nat) : Nat := mergeLanes be old v
  let old := s.cfgWord off
  if off = 0x04 then
    let w := keep (bits old 0 16)
    let s1 := setCfg off (w &&& 0x546) s
    let s2 : State := { s1 with hif := { s1.hif with intDisable := bitOf w 10 == 1 } }
    evalLine (if bitOf w 2 = 1 then took (execBusMasterEnable s2) s2 else took (execBusMasterDisable s2) s2)
  else if off = 0x44 then
    let w := keep old &&& 3
    let s1 := setCfg off w s
    if w = 3 then took (execD3hotEntry s1) s1 else if w = 0 then took (execD0Return s1) s1 else s1
  else if off = 0x50 then
    (if s.on Reg.SYS_STRAP_COMPAT then s
     else
       let w := keep old &&& 0xC0000000
       let s1 := setCfg off w s
       flushMsix { s1 with hif := { s1.hif with msixEnable := bitOf w 31 == 1, msixMask := bitOf w 30 == 1 } })
  else if off = 0x78 then
    let w := keep old
    let s1 := setCfg off (w &&& 0x7FFF) s
    if bitOf w 15 = 1 then took (execFlr s1) s1 else s1
  else if off = 0x98 then
    let w := keep old
    setCfg off w { s with hif := { s.hif with ltrEnable := bitOf w 10 == 1 } }
  else if off = 0x15C then
    let w := keep old
    setCfg off w { s with hif := { s.hif with maxSnoop := bits w 0 16, maxNoSnoop := bits w 16 16 } }
  else if off = 0x230 then
    let lo := keep (s.hif.hbAddr % 2 ^ 32) / 64 * 64
    { s with hif := { s.hif with hbAddr := s.hif.hbAddr / 2 ^ 32 * 2 ^ 32 + lo } }
  else if off = 0x234 then
    { s with hif := { s.hif with hbAddr := keep (s.hif.hbAddr / 2 ^ 32) * 2 ^ 32 + s.hif.hbAddr % 2 ^ 32 } }
  else if off = 0x3C then setCfg off (keep old &&& 0xFF) s
  else if [0x10, 0x14, 0x18, 0x1C, 0x80, 0x104, 0x108, 0x10C, 0x110, 0x114, 0x118, 0x164, 0x208, 0x20C].contains off then setCfg off (keep old) s
  else s

/-- A write of the host to configuration space, placed by the model at offset 0x40_0000 of its register window; while a function-level reset
runs it is answered with Configuration Request Retry Status, and does nothing (R287). -/
def cfgWrite (off be v : Nat) (s : State) : State := if s.hif.flr then s else cfgLand off be v s

/-! The command -/

/-- A write on its way through the endpoint or from a control core or DMA channel: the console writes no register (R484). A host write
with byte enables other than 1111 is discarded by the endpoint (R277) and reaches no block, so no block counts it: a choice of the
model, for R69, R139 and R223 do not say which comes first (log entry 98). -/
def acceptWrite (r : Requester) (off be v : Nat) (s : State) : State :=
  match r with
  | .console => s
  | .host =>
    if inMsix off then writeWord r off (mergeLanes be (s.rawWord off) v) s
    else if be % 16 ≠ 15 then s
    else if hostMay off then writeWord r off v s
    else hostDrop off s
  | _ => writeWord r off v s

/-- REGISTER_WRITE (R5, R277, R495): `be` are the byte enables, which only the host varies. -/
def execRegisterWrite (r : Requester) (off be : Nat) (value : Word) (s : State) : Result :=
  if r = .host ∧ 0x400000 ≤ off ∧ off < 0x401000 ∧ off % 4 = 0 then
    land 0x10000 (.registerWrite r off be value) (cfgWrite (off - 0x400000) be value.toNat) s
  else if 0x400000 ≤ off ∨ off % 4 ≠ 0 then .fault .noSuchAddress
  else if inBlock off then land off (.registerWrite r off be value) (acceptWrite r off be value.toNat) s
  else .next s

end Sys2Proof.Machine
end

