-- ==== Sys2Proof/Machine/Dma.lean ====
section
/-! DEFINITION. Accesses to the internal address map: registers as a requester reads and writes them, control cores' accesses (R420 to R423) and DMA
descriptors (R444 to R451). -/

namespace Sys2Proof.Machine

/-! Registers by offset -/

/-- The value that a read row has just returned. -/
def popRead (s : State) : Nat × State :=
  match s.out with
  | .readValue v :: rest => (v, { s with out := rest })
  | _ => (0, s)

/-- A read of a register by a requester: rows whose read has an effect, and all others (R5, R435, R439, R442, R83). The partner's answer to a lock
read takes a free value. -/
def readWordBy (r : Requester) (off : Nat) (s : State) : Nat × State :=
  let m := off % 0x10000 / 0x20
  if 0x90000 ≤ off ∧ off < 0x90800 ∧ off % 0x20 = 0xC then popRead (withFin 64 m (fun i => execMailboxTake i r) s)
  else if 0x90000 ≤ off ∧ off < 0x90800 ∧ off % 0x20 = 0x10 then popRead (withFin 64 m (fun i => execLockRead i r) s)
  else if off = 0x40084 then popRead (took (execCoefDataAccess none s) s)
  else if off = 0xD0034 then (s.readWord off, { s with bat := { s.bat with smbFifo := s.bat.smbFifo.drop 4 } })
  else if 0x91400 ≤ off ∧ off < 0x91500 then
    (match r with
     | .core n => popRead (useFree (withFin 64 ((off - 0x91400) / 4) (fun i => execPeerLockRead n i (some (s.freeVal 8))) s))
     | _ => (s.readWord off, s))
  else (s.readWord off, useFrees (readsFree off) s)

/-- A word read at an offset of the register region: all ones from a retired island (R12), 0 outside every block (R277). -/
def busRead (r : Requester) (off : Nat) (s : State) : Nat × State :=
  if !inBlock off then (0, s)
  else if s.sys.retired.contains (islandOf off) then (0xFFFFFFFF, retiredAccess s)
  else readWordBy r off (ungate (islandOf off) s)

/-- A word written at an offset of the register region. -/
def busWrite (r : Requester) (off v : Nat) (s : State) : State :=
  if !inBlock off then s
  else if s.sys.retired.contains (islandOf off) then retiredAccess s
  else writeWord r off v (ungate (islandOf off) s)

/-- An access at an offset has to wait for its island (R13), or for an earlier access to it (R15 to R17). -/
def State.mustWait (s : State) (off : Nat) : Bool :=
  inBlock off && !s.sys.retired.contains (islandOf off) && (s.sys.inReset.contains (islandOf off) || s.queuedAt off)

/-- Offset of an internal address in the register region. -/
def regOff (a : Nat) : Nat := a - 0x2000000000

/-- Engine and word of an internal address in the accumulator SRAMs (R109), with what an access does. -/
def accAccess (a : Nat) (w : Option Word) (s : State) : State :=
  withFin 28 ((a - 0x3000000000) / 0x100000) (fun e => execAccumulatorAccess e ((a - 0x3000000000) % 0x100000) w) s

/-! Device words -/

/-- A 32-bit read in a device region: registers, accumulators, and the NAND window, whose content the spec leaves open (log entry 4). -/
def deviceRead (r : Requester) (a : Nat) (s : State) : Nat × State :=
  match regionOf a with
  | .regs => busRead r (regOff a) s
  | .acc => popRead (accAccess a none s)
  | _ => (s.freeVal 32, useFree s)

/-- A 32-bit write in a device region. -/
def deviceWrite (r : Requester) (a v : Nat) (s : State) : State :=
  match regionOf a with
  | .regs => busWrite r (regOff a) v s
  | .acc => accAccess a (some (BitVec.ofNat 32 v)) s
  | _ => s

/-- n words read one after another, lowest address first, as bytes; each counts as an access of its own (R109; log entry 114). -/
def deviceReads (r : Requester) (a : Nat) : Nat → State → List Nat × State
  | 0, s => ([], s)
  | n + 1, s =>
    let x := deviceRead r a s
    let rest := deviceReads r (a + 4) n x.2
    (leBytes 4 x.1 ++ rest.1, rest.2)

/-- Bytes written as words, lowest address first. -/
def deviceWrites (r : Requester) (a : Nat) : Nat → List Nat → State → State
  | 0, _, s => s
  | n + 1, bytes, s => deviceWrites r (a + 4) n (bytes.drop 4) (deviceWrite r a (leNat (bytes.take 4)) s)

/-! Cores (R420 to R423) -/

/-- The parts of an access, one for each line it touches: address, size and place in its value. -/
def lineParts (a n : Nat) : List (Nat × (Nat × Nat)) := cutAt 64 (n + 1) a n 0

/-- An access takes an access fault (R421). -/
def accessFaults (kind : AccessKind) (addr size : Nat) : Bool :=
  let first := regionOf addr
  let last := regionOf (addr + size - 1)
  let device := first == .nand || first == .regs || first == .acc
  first == .none || last == .none || (kind == .store && (first == .rom || last == .rom))
    || (device && (kind == .fetch || !((size == 4 || size == 8) && addr % size == 0)))

/-- CORE_ACCESS (R421, R422, R423): a load, store or fetch of a core. `evict` are the lines that leave its L1 to make room, `issued` says that a
victim writeback of the line has been issued. -/
def execCoreAccess (core : Fin 9) (kind : AccessKind) (addr size value : Nat) (evict : List Nat) (issued : Bool) (s : State) : Result :=
  if accessFaults kind addr size then .next (emit (.accessFault core.val kind addr) s)
  else if cacheable (regionOf addr) then
    .next (forEach (lineParts addr size) (fun p t =>
      request ⟨core.val, kind, p.1, p.2.1, value / 256 ^ p.2.2, evict, issued⟩ t) s)
  else if regionOf addr = .regs ∧ s.mustWait (regOff addr) = true then
    .next { s with waiting := s.waiting ++ [(regOff addr, .coreAccess core kind addr size value evict issued)] }
  else if kind = .store then .next (deviceWrites (.core core) addr (size / 4) (leBytes size value) s)
  else
    let x := deviceReads (.core core) addr (size / 4) s
    .next (emit (.coreData core.val addr x.1) x.2)

/-! DMA (R444 to R451) -/

/-- What a channel reads: the bytes, those before the first that fails, and the state after the read. -/
def dmaSource (c : Fin 16) (d : DmaDesc) (host : List Nat) (s : State) : List Nat × State :=
  if d.op = 2 then (fillBytes d.src d.length, s)
  else if d.srcHost then (host.take d.length, readHost d.src d.length s)
  else match regionOf d.src with
    | .dram | .mram =>
      let ok := (List.range d.length).takeWhile (fun i => !s.cch.poison.contains ((d.src + i) / 64))
      (s.readBytes d.src ok.length, s)
    | .rom => ((List.range d.length).map (fun i => Config.romByte (d.src + i) % 256), s)
    | _ => deviceReads (.dma c) d.src (d.length / 4) s

/-- Lines that a range covers whole lose their poison marking (R427). -/
def cleanRange (a n : Nat) (s : State) : State :=
  { s with cch := { s.cch with poison := s.cch.poison.filter (fun l => !(decide (a ≤ 64 * l) && decide (64 * l + 64 ≤ a + n))) } }

/-- What a channel writes. -/
def dmaStore (c : Fin 16) (d : DmaDesc) (bytes : List Nat) (s : State) : State :=
  if bytes.isEmpty then s
  else if d.dstHost then postHost d.dst bytes s
  else match regionOf d.dst with
    | .dram | .mram => cleanRange d.dst bytes.length (storeBytes d.dst bytes s)
    | _ => deviceWrites (.dma c) d.dst (bytes.length / 4) bytes s

/-- A descriptor's transfer: `dstFail` is the first destination byte that a host link error or the NAND window rejects, `limit` how far the channel
came when it was stopped. Whole bursts before a failure or the stop are moved. -/
def dmaTransfer (c : Fin 16) (d : DmaDesc) (host : List Nat) (dstFail limit : Option Nat) (s : State) : DmaRun × State :=
  let run : DmaRun := { tag := d.tag, irq := d.irq, length := d.length }
  let x := dmaSource c d host s
  let b := s.burst c.val
  let srcAt := x.1.length
  let mayFail := d.dstHost || regionOf d.dst == .nand
  let dstAt := match dstFail with
    | some i => if mayFail then min i d.length else d.length
    | none => d.length
  let stop := match limit with
    | some n => min d.length (ceilDiv n b * b)
    | none => d.length
  let at' := min stop (min srcAt dstAt)
  let moved := if at' = d.length then d.length else at' / b * b
  let status := if stop ≤ min srcAt dstAt then 0 else if srcAt ≤ dstAt then 2 else 3
  let fail := if status = 2 then d.src + srcAt else if status = 3 then d.dst + dstAt else 0
  let bytes := (swapBytes d.mode (d.length / swapGroup d.mode) x.1).take moved
  ({ run with
    status := status
    bytes := moved
    crc := if d.crc then crc32c (x.1.take moved) else 0
    fail := fail }, dmaStore c d bytes x.2)

/-- The first register of a descriptor's ranges whose access has to wait. -/
def State.dmaWaits (s : State) (d : DmaDesc) : Option Nat :=
  let range (a : Nat) : Option Nat := if regionOf a = .regs then
      ((List.range (d.length / 4)).map (fun i => regOff a + 4 * i)).find? s.mustWait
    else none
  (if d.op = 1 ∧ d.srcHost = false then range d.src else none).or (if d.dstHost then none else range d.dst)

/-- DMA_DESCRIPTOR (R444 to R451): the channel takes its next descriptor. One that needs the host waits while Bus Master Enable is clear. -/
def execDmaDescriptor (c : Fin 16) (host : List Nat) (dstFail limit : Option Nat) (s : State) : Result :=
  let n := c.val
  if !s.dmaReady n then .next s
  else
    let d := s.readDesc (s.headDesc n)
    if (d.srcHost || d.dstHost) && !s.masters then .next s
    else match (if d.ok && d.placed then s.dmaWaits d else none) with
    | some off => .next { s with waiting := s.waiting ++ [(off, .dmaDescriptor c host dstFail limit)] }
    | none =>
      let s1 := setF (Reg.DMA_CH_HEAD_HEAD n) ((s.get (Reg.DMA_CH_HEAD_HEAD n) + 1) % s.chSize n) (setF (Reg.DMA_CH_STATUS_BUSY n) 1 s)
      let run : DmaRun := { tag := d.tag, irq := d.irq, length := d.length }
      let x : DmaRun × State := if !d.ok then ({ run with status := 1 }, s1)
        else if !d.placed then ({ run with status := 5 }, s1)
        else dmaTransfer c d host dstFail limit s1
      .next { x.2 with dma := Assoc.set x.2.dma n x.1 }

/-! Accesses that waited (R13) -/

/-- What a meaning answers while the accesses that wait are set aside; they stay in line behind what it adds. -/
def aside (rest : List (Nat × Instr)) (k : State → Result) (s : State) : Result :=
  match k { s with waiting := [] } with
  | .next t => .next { t with waiting := t.waiting ++ rest }
  | o => o

/-- An access completes as if an island were retired: no island is retired by it, and none of R12's counting takes place (log entry 97). -/
def asRetired (i : Island) (k : State → Result) (s : State) : Result :=
  match k { s with sys := { s.sys with retired := i :: s.sys.retired } } with
  | .next t =>
    let t1 : State := { t with sys := { t.sys with retired := s.sys.retired } }
    .next (setF Reg.SYS_EVENT_RETIRED_ACCESS (s.get Reg.SYS_EVENT_RETIRED_ACCESS)
      (setF Reg.SYS_RETIRED_ACCESS_CNT (s.get Reg.SYS_RETIRED_ACCESS_CNT) t1))
  | o => o

/-- RESET_ACCESS_TIMEOUT (R13): the oldest waiting access is completed as if its island were retired: a read returns 1 in every bit, a write
is discarded, and a DMA transfer goes on with both. -/
def execResetAccessTimeout (s : State) : Result :=
  match s.waiting with
  | [] => .next s
  | (off, c) :: rest =>
    let s1 := event Reg.SYS_EVENT_RESET_TIMEOUT Reg.SYS_RESET_TIMEOUT_CNT s
    match c with
    | .coreAccess n k addr size value evict issued =>
      aside rest (asRetired (islandOf off) (execCoreAccess n k addr size value evict issued)) s1
    | .dmaDescriptor ch host fail limit =>
      aside rest (asRetired (islandOf off) (execDmaDescriptor ch host fail limit)) s1
    | _ => .next { s1 with waiting := rest }

end Sys2Proof.Machine
end

