-- ==== Sys2Proof/Machine/Pages.lean ====
section
/-! DEFINITION. IDENTIFY (R229 to R232) and GET_LOG with its pages (R236 to R240, R254, R336, R356, R378, R416, R463, R464). -/

namespace Sys2Proof.Machine

/-- Numbers as a bit map: bit n is set for each n listed. -/
def bitMap (l : List Nat) : Nat := laneMask l

/-- Zero bytes. -/
def zeros (n : Nat) : List Nat := List.replicate n 0

/-- An integer as n bytes of two's complement. -/
def signedBytes (n : Nat) (i : Int) : List Nat := leBytes n (ofSigned (8 * n) i)

/-! IDENTIFY -/

/-- ASCII "MXZ-9108-A". -/
def modelName : List Nat := [77, 88, 90, 45, 57, 49, 48, 56, 45, 65]

/-- The module page (R230, R475). -/
def State.modulePage (s : State) : List Nat :=
  let compat := s.get Reg.SYS_STRAP_COMPAT
  let slot := s.get Reg.SYS_BOOT_SLOT
  leBytes 2 0x1F3C ++ leBytes 2 0x9108 ++ leBytes 8 s.ownUid
    ++ modelName ++ List.replicate 10 32
    ++ leBytes 8 (Config.fwRev (Assoc.getD s.sys.images slot 0))
    ++ [s.get Reg.SYS_STRAP_POS, s.get Reg.SYS_STRAP_SHELF_ID, compat, s.mode, s.role, s.get Reg.JNL_STATUS_LEVEL]
    ++ leBytes 2 1024 ++ leBytes 2 0xFFF ++ leBytes 2 16384 ++ leBytes 4 67108864 ++ leBytes 4 65536 ++ leBytes 4 262144
    ++ [4, 64, s.inService.length, ((List.range 9).filter (fun n => bitOf (s.get Reg.CCH_CORES_IN_SERVICE) n == 1)).length]
    ++ leBytes 4 s.ceiling ++ leBytes 2 (if compat = 1 then 0 else 0xF) ++ [slot, 0] ++ leBytes 8 s.ownUid ++ leBytes 2 s.addr16

/-- The volume's atomic write unit in blocks (R133, R231). -/
def State.atomicBlocks (s : State) (a : Nat) : Nat :=
  let g := s.geo a
  if s.get Reg.JNL_STATUS_LEVEL ≠ 2 then g.dataCount * g.unitBlocks
  else if s.get (Reg.STP_ARRAY_CFG_TOL a) ≤ (s.erasedSlots a).length then 1
  else g.unitBlocks

/-- A volume's flock flags (R231): member, parity volume, group stale. -/
def State.flockFlags (s : State) (v : Nat) : Nat :=
  let member := s.groupOfVol v
  let parity := s.fab.groups.find? (fun g => g.parity == (s.ownUid, v))
  let stale := (match member with | some g => g.1.stale | none => false) || (match parity with | some g => g.stale | none => false)
  b2n member.isSome + 2 * b2n parity.isSome + 4 * b2n stale

/-- FORMAT_PCT: whole per cent of the rows formatted. -/
def VolMeta.formatPct (m : VolMeta) : Nat :=
  match m.formatting with
  | none => 100
  | some row => (row - m.base) * 100 / max 1 m.rows

/-- The volume page (R231): one that formats is shown with VALID 0 (R246); one that does not exist reads 0 throughout. -/
def State.volumePage (s : State) (v : Nat) : List Nat :=
  let m := s.volMeta v
  let valid := s.volValid v
  if !valid && !m.bound then []
  else
    let a := if valid then s.volArray v else m.array
    let base := if valid then s.volBase v else m.base
    let rows := if valid then s.volRows v else m.rows
    let g := s.geo a
    let stripe := g.dataCount * g.unitBlocks
    [b2n valid, a, m.formatPct, s.flockFlags v] ++ leBytes 8 (rows * stripe) ++ leBytes 4 (s.atomicBlocks a)
      ++ leBytes 4 stripe ++ leBytes 4 g.unitBlocks ++ leBytes 8 base ++ leBytes 8 rows ++ leBytes 16 m.uuid

/-- Slots of an array with an enabled frontier (R163). -/
def State.rebuildSlots (s : State) (n : Nat) : List Nat :=
  ((List.range 8).filter (fun k => s.on (Reg.SAS_RBD_CFG_ENABLE k) && s.get (Reg.SAS_RBD_CFG_ARRAY k) == n)).map
    (fun k => s.get (Reg.SAS_RBD_CFG_SLOT k))

/-- Rows of an array that no volume holds. -/
def State.unheldRows (s : State) (n : Nat) : Nat :=
  (s.geo n).rows - (((allVols.map s.volMeta).filter (fun m => m.bound && m.array == n)).map (·.rows)).sum

/-- The array page (R232). -/
def State.arrayPage (s : State) (n : Nat) : List Nat :=
  if !s.on (Reg.STP_ARRAY_CFG_VALID n) then []
  else
    let g := s.geo n
    let m := s.arrayMeta n
    [1, g.layout, s.arrayState n, g.shift, g.groups, g.dpg, g.globals, s.get (Reg.STP_ARRAY_CFG_TOL n)]
      ++ leBytes 16 m.uuid ++ leBytes 8 g.rows ++ leBytes 8 m.generation ++ leBytes 14 (bitMap g.slots)
      ++ leBytes 14 (bitMap (s.erasedSlots n)) ++ leBytes 14 (bitMap (s.rebuildSlots n)) ++ leBytes 8 (s.unheldRows n)

/-- The page that an IDENTIFY asks for (R229): none for another code or an index out of range. -/
def State.identifyPage (s : State) (code index : Nat) : Option (List Nat) :=
  if code = 0 then some s.modulePage
  else if code = 1 ∧ index < 64 then some (s.volumePage index)
  else if code = 2 ∧ index < 4 then some (s.arrayPage index)
  else none

/-- IDENTIFY (R229). -/
def execIdentify (cid : Nat) (s : State) : Result :=
  runAdmin cid .identify (fun _ => true) (fun n c t =>
    match t.identifyPage (c.e.options % 256) (specField c.e 40 1) with
    | none => refuse n 0 t
    | some p => withBuffer n c 4096 (reply n c (padTo 4096 p) 0) t) s

/-! Log pages -/

/-- An entry of the EVENT page (R238). -/
def LogEvent.bytes (e : LogEvent) : List Nat :=
  leBytes 8 e.time ++ leBytes 4 e.seq ++ leBytes 2 e.code ++ [e.array, 0] ++ leBytes 8 (e.row % 2 ^ 40) ++ padTo 40 e.detail

/-- One of the twelve counts of R180: LOST_BLOCKS is the blocks on the list now. -/
def ArrayCare.count (c : ArrayCare) (i : Nat) : Nat :=
  if i = 6 then (c.lost.map (·.nblk)).sum else Assoc.getD c.stats i 0

/-- The ARRAY page (R239). -/
def State.arrayLog (s : State) (n : Nat) : List Nat :=
  let c := s.care n
  let m := s.arrayMeta n
  [n, s.arrayState n, b2n (!c.overdue.isEmpty) + 2 * b2n c.merged, 0] ++ leBytes 14 (bitMap m.misplaced) ++ leBytes 14 (bitMap m.stale)
    ++ zeros 32 ++ (List.range 12).flatMap (fun i => leBytes 8 (c.count i))
    ++ (List.range 9).flatMap (fun k => leBytes 8 (Assoc.getD c.next k 0))

/-- The LOST_BLOCKS page (R240). -/
def State.lostPage (s : State) (n : Nat) : List Nat :=
  let l := (s.care n).lost
  leBytes 4 l.length ++ [n] ++ zeros 11
    ++ l.flatMap (fun r => leBytes 8 (r.row % 2 ^ 40) ++ [r.d, r.first, r.vol, 0] ++ leBytes 4 r.nblk)

/-- A result of the SELF_TEST page (R254). -/
def TestResult.bytes (r : TestResult) : List Nat :=
  [r.type, r.result, r.failStep, 0] ++ leBytes 8 r.endTime ++ leBytes 8 r.rows ++ leBytes 8 r.mismatch ++ zeros 4

/-- The SELF_TEST page (R254): how a test's progress is reckoned is left open, so it is a free value up to 100. -/
def State.testPage (s : State) : List Nat :=
  let running := s.cmd.testRunning
  let until' := if s.cmd.testSuspended then s.cmd.testPaused else s.clock
  let time := if running = 0 then 0 else (until' - s.cmd.testStart) / 1000000
  padTo 544 ([running, if running = 0 then 0 else s.freeVal 32 % 101] ++ zeros 2 ++ leBytes 4 time ++ zeros 24
    ++ s.cmd.testResults.flatMap TestResult.bytes)

/-- The REPAIR_LEDGER page (R463): the newer table copy, then the stored entries, newest first. With neither copy valid it is the first as it
stands. -/
def State.repairPage (s : State) : List Nat :=
  let total := s.repairTable.total
  s.readBytes (repairCopyAt s.newerCopy) 4096
    ++ (List.range (min 8064 total)).flatMap (fun i => s.readBytes (ledgerEntryAt (total - 1 - i)) 64)

/-- The PACK page (R336); what a pack tells of itself reads 0 while there is none. -/
def State.packPage (s : State) : List Nat :=
  let b := s.bat
  let flags := s.get Reg.BAT_STATUS_PRESENT + 2 * b2n b.auth + 4 * b2n s.packHealthy + 8 * s.get Reg.BAT_EST_CAP_SUSPECT
    + 16 * s.get Reg.BAT_EST_CAP_UNLEARNED + 32 * s.get Reg.BAT_CTRL_LEARN + 64 * b2n b.worn + 128 * b2n b.chgFault
  let fcc := s.get Reg.BAT_CAP_FCC_DMAH
  let points (t : List (Nat × Nat)) : List Nat := padTo 128 (t.flatMap (fun p => leBytes 2 p.1 ++ leBytes 2 p.2))
  [flags, b.authRoot, 0, 0] ++ leBytes 8 (match b.desc with | some d => d.serial | none => 0)
    ++ leBytes 2 (match b.desc with | some d => d.designDmah / 10 | none => 0) ++ leBytes 2 fcc ++ leBytes 2 (s.get Reg.BAT_EST_RSOC)
    ++ leBytes 2 (s.get Reg.BAT_EST_E_U) ++ leBytes 2 (s.get Reg.BAT_VOLT_V_MV) ++ leBytes 2 (s.get Reg.BAT_CURR_I_MA)
    ++ signedBytes 2 s.packTemp ++ leBytes 2 b.r25 ++ leBytes 4 (b.discharged / max 1 fcc) ++ leBytes 8 b.lastLearn
    ++ [b.lastMethod, 0, 0, 0] ++ leBytes 4 s.ownCeiling ++ leBytes 8 b.lastAuth ++ zeros 8
    ++ (match b.desc with | some d => points d.ocvCold ++ points d.ocvRoom ++ points d.ocvHot | none => [])

/-- A channel's entry of the FAN page (R356). -/
def State.fanEntry (s : State) (c : Nat) : List Nat :=
  [s.fanState c, s.get (Reg.FAN_CH_STATE_DIR c) + 2 * s.get (Reg.FAN_CH_STATE_VOLT_LIMIT c), s.get (Reg.FAN_CH_STATE_FAULT_CAUSE c), 0]
    ++ leBytes 2 (s.get (Reg.FAN_CH_DEMAND_DEMAND c)) ++ leBytes 2 (s.fanApplied c) ++ leBytes 2 (s.get (Reg.FAN_CH_SPEED_RPM c))
    ++ leBytes 2 (s.get (Reg.FAN_CH_POWER_P_REP_DW c)) ++ leBytes 2 (s.get (Reg.FAN_CH_POWER_P_MEAS_DW c))
    ++ leBytes 2 (s.get (Reg.FAN_CH_IRMS_IA c)) ++ leBytes 2 (s.get (Reg.FAN_CH_IRMS_IB c)) ++ leBytes 2 (s.get (Reg.FAN_CH_IRMS_IC c))
    ++ leBytes 4 (s.get (Reg.FAN_CH_LOSS_CNT c)) ++ leBytes 8 (s.fanChan c).lastFault

/-- The FAN page (R356). -/
def State.fanPage (s : State) : List Nat :=
  [s.get Reg.FAN_TOKEN_HELD + 2 * s.get Reg.FAN_TOKEN_PARTNER,
    s.get Reg.FAN_CTRL_FIXED_EN + 2 * s.get Reg.FAN_WDOG_EXPIRED + 4 * b2n s.fanFloor, s.fanFaultBits, s.fan.demandSrc]
    ++ signedBytes 2 s.fan.srcTemp ++ zeros 58 ++ fanChannels.flatMap s.fanEntry

/-- Seconds left in the hold-off (R372). -/
def State.holdoffLeft (s : State) : Nat :=
  match s.fov.holdoffStart with
  | none => 0
  | some t => (t + sec (60 * s.feature 0xA 0) - s.clock) / 1000000

/-- The FAILOVER page (R378). -/
def State.failoverPage (s : State) : List Nat :=
  let f := s.fov
  let flags := s.get Reg.FOV_CTRL_HOLD + 2 * b2n s.partnerLive + 4 * s.get Reg.FOV_MIR_CTRL_RESYNC_DONE + 8 * s.get Reg.FOV_STATUS_LINE_OK
    + 16 * s.get Reg.FOV_STATUS_MIR_OK + 32 * b2n f.silent + 64 * b2n f.swapDue + 128 * s.get Reg.FOV_STATUS_KEEPER_RELEASED
  [s.role, beatRole s.partnerWord, beatMode s.partnerWord, b2n s.prefB, flags, f.holdCause, f.lastReason, f.lastAbandon]
    ++ leBytes 4 s.holdoffLeft ++ leBytes 8 f.lastSwap ++ leBytes 8 f.lastTakeover ++ leBytes 4 f.tClaim ++ leBytes 4 f.tFans
    ++ leBytes 4 f.tReplay ++ leBytes 4 f.tServing ++ leBytes 4 f.takeovers ++ leBytes 4 f.handovers ++ leBytes 4 f.abandoned
    ++ leBytes 4 f.powerFaults

/-- A port's entry of the FABRIC page (R416). -/
def State.portEntry (s : State) (p : Nat) : List Nat :=
  let up := s.on (Reg.FAB_PORT_STATUS_LINK_UP p)
  [if !up then 0 else if s.on (Reg.FAB_PORT_STATUS_SLOW p) then 2 else 1, s.get (Reg.FAB_PORT_STATUS_LANES p)]
    ++ leBytes 2 (s.get (Reg.FAB_PORT_STATUS_NEIGH_ADDR p))
    ++ leBytes 8 (s.get64 (Reg.FAB_PORT_NEIGH_UID_LO_UID p) (Reg.FAB_PORT_NEIGH_UID_HI_UID p))
    ++ leBytes 4 (s.port p).downs ++ leBytes 4 (s.get (Reg.FAB_PORT_REPLAY_CNT p)) ++ zeros 12

/-- A group's entry of the FABRIC page (R416) for a volume of this node: role 1 member or 2 parity, and the member index. A group that
is not stale counts as deferred while deltas of it are pending here. -/
def State.groupEntry (s : State) (g : FlockGroup) (role vol index : Nat) : List Nat :=
  let kib := 4 * ((s.fab.deltas.filter (fun d => !d.freed && d.group == g.id && (role == 2 || d.member == index))).map Delta.pages).sum
  let st := if g.front.isSome then 3 else if g.stale then 2 else if kib ≠ 0 then 1 else 0
  let at' := if g.parity.1 = s.ownUid then s.addr16 else (s.nodeAddr g.parity.1).getD 0xFFFF
  leBytes 8 g.id ++ [role, vol, st, index] ++ leBytes 2 at' ++ zeros 2 ++ leBytes 8 (g.front.getD 0) ++ leBytes 4 kib ++ zeros 4

/-- The entries of a group: its parity volume and its members on this node. -/
def State.groupEntries (s : State) (g : FlockGroup) : List (List Nat) :=
  (if g.parity.1 = s.ownUid then [s.groupEntry g 2 g.parity.2 15] else [])
    ++ g.members.zipIdx.filterMap (fun m => if m.1.1 = s.ownUid then some (s.groupEntry g 1 m.1.2 m.2) else none)

/-- The FABRIC page (R416). -/
def State.fabricPage (s : State) : List Nat :=
  let f := s.fab
  let flags := b2n s.isRoot + 2 * b2n s.isBellwether + 4 * b2n f.rootElig + 8 * b2n f.bwElig + 16 * b2n (s.isBellwether && s.quorum)
  let lease := (f.leaseEnd - s.clock) / 1000
  leBytes 8 s.ownUid ++ leBytes 2 s.addr16 ++ leBytes 2 (f.bellwether.getD 0xFFFF) ++ leBytes 8 s.rootView.1 ++ [flags, f.bwPrio] ++ zeros 2
    ++ leBytes 4 f.nodes.length ++ leBytes 4 (s.get Reg.PWR_BUDGET_GRANT_W) ++ leBytes 4 lease ++ leBytes 4 f.budgetW ++ leBytes 4 f.isolatedW
    ++ leBytes 4 f.version ++ leBytes 4 f.nReg ++ leBytes 4 (4 * s.logUsed) ++ zeros 8
    ++ [0, 1, 2, 3].flatMap s.portEntry ++ ((f.groups.flatMap s.groupEntries).take 64).flatten

/-- The page of a code and selector (R237), and the free values it uses. The layout of the POWER page is not given: its bytes are free. -/
def State.logPage (s : State) (code sel : Nat) : Option (List Nat × Nat) :=
  if code = 1 then some (s.cmd.log.flatMap LogEvent.bytes, 0)
  else if code = 2 ∧ sel < 4 then some (padTo 4096 (s.arrayLog sel), 0)
  else if code = 3 ∧ sel < 4 then some (s.lostPage sel, 0)
  else if code = 4 then some (s.testPage, 1)
  else if code = 5 then some (s.repairPage, 0)
  else if code = 6 then some (padTo 4096 s.packPage, 0)
  else if code = 7 then some (padTo 4096 s.fanPage, 0)
  else if code = 8 then some ((List.range 4096).map (fun i => s.freeAt i 8), 4096)
  else if code = 9 then some (padTo 4096 s.failoverPage, 0)
  else if code = 0xA then some (padTo 4096 s.fabricPage, 0)
  else none

/-- GET_LOG (R236): offset and data length are multiples of 4, the length up to 1 MiB; bytes beyond the page read 0. -/
def execGetLog (cid : Nat) (s : State) : Result :=
  runAdmin cid .getLog (fun _ => true) (fun n c t =>
    let off := specField c.e 44 4
    let len := bufferLen c.e
    match t.logPage (c.e.options % 256) (specField c.e 40 1) with
    | none => refuse n 0 t
    | some (p, used) =>
      if off % 4 ≠ 0 ∨ len % 4 ≠ 0 ∨ len = 0 ∨ 2 ^ 20 < len then refuse n 0 t
      else withBuffer n c len (fun u => reply n c (padTo len (p.drop off)) p.length (useFrees used u)) t) s

end Sys2Proof.Machine
end

