-- ==== Sys2Proof/Machine/Dispatch.lean ====
section
/-! DEFINITION. What each command does: one arm per constructor, each one call of the meaning its family's file gives it. -/

namespace Sys2Proof.Machine

def exec (i : Instr) (s : State) : Host.Outcome State Fault Refusal :=
  match i with
  | .registerWrite r off be value => Sys2Proof.Machine.execRegisterWrite r off be value s
  | .arrayValidWrite n valid => Sys2Proof.Machine.execArrayValidWrite n valid s
  | .volumeValidWrite v valid => Sys2Proof.Machine.execVolumeValidWrite v valid s
  | .xlateGo vol => Sys2Proof.Machine.execXlateGo vol s
  | .evalStart n => Sys2Proof.Machine.execEvalStart n s
  | .ringTailWrite r tail => Sys2Proof.Machine.execRingTailWrite r tail s
  | .coefDataAccess write => Sys2Proof.Machine.execCoefDataAccess write s
  | .planRetry n => Sys2Proof.Machine.execPlanRetry n s
  | .enginePause e pause => Sys2Proof.Machine.execEnginePause e pause s
  | .engineRetire e => Sys2Proof.Machine.execEngineRetire e s
  | .engineTest e => Sys2Proof.Machine.execEngineTest e s
  | .forceWtWrite v => Sys2Proof.Machine.execForceWtWrite v s
  | .packHealthyWrite v => Sys2Proof.Machine.execPackHealthyWrite v s
  | .partnerLiveWrite v => Sys2Proof.Machine.execPartnerLiveWrite v s
  | .jnlAlloc next => Sys2Proof.Machine.execJnlAlloc next s
  | .wakeRetry slot => Sys2Proof.Machine.execWakeRetry slot s
  | .wakeDeny slot => Sys2Proof.Machine.execWakeDeny slot s
  | .awakeWrite slot awake => Sys2Proof.Machine.execAwakeWrite slot awake s
  | .escDone piece outcome reads => Sys2Proof.Machine.execEscDone piece outcome reads s
  | .frontierEnable k enable => Sys2Proof.Machine.execFrontierEnable k enable s
  | .intInject kind => Sys2Proof.Machine.execIntInject kind s
  | .adminSqTailWrite index => Sys2Proof.Machine.execAdminSqTailWrite index s
  | .adminCqHeadWrite index => Sys2Proof.Machine.execAdminCqHeadWrite index s
  | .xlatCommit r => Sys2Proof.Machine.execXlatCommit r s
  | .hostRaise r mask => Sys2Proof.Machine.execHostRaise r mask s
  | .converterEnable en => Sys2Proof.Machine.execConverterEnable en s
  | .standbyOffsetWrite v => Sys2Proof.Machine.execStandbyOffsetWrite v s
  | .slotEnableWrite slot en12 en5 => Sys2Proof.Machine.execSlotEnableWrite slot en12 en5 s
  | .slotDisableWrite slot en12 en5 => Sys2Proof.Machine.execSlotDisableWrite slot en12 en5 s
  | .spinWrite slot => Sys2Proof.Machine.execSpinWrite slot s
  | .chargeEnable en => Sys2Proof.Machine.execChargeEnable en s
  | .batCountWrite value => Sys2Proof.Machine.execBatCountWrite value s
  | .smbusTransaction cmd len read => Sys2Proof.Machine.execSmbusTransaction cmd len read s
  | .fanRunWrite c run => Sys2Proof.Machine.execFanRunWrite c run s
  | .fanRestart c => Sys2Proof.Machine.execFanRestart c s
  | .fanDemandWrite c value => Sys2Proof.Machine.execFanDemandWrite c value s
  | .lineBeat word => Sys2Proof.Machine.execLineBeat word s
  | .data lines => Sys2Proof.Machine.execData lines s
  | .fabTxTail tail => Sys2Proof.Machine.execFabTxTail tail s
  | .mailboxSend m r hi => Sys2Proof.Machine.execMailboxSend m r hi s
  | .mailboxTake m r => Sys2Proof.Machine.execMailboxTake m r s
  | .boxRecall m r => Sys2Proof.Machine.execBoxRecall m r s
  | .lockRead m r => Sys2Proof.Machine.execLockRead m r s
  | .lockRelease m r value => Sys2Proof.Machine.execLockRelease m r value s
  | .lockForce m r => Sys2Proof.Machine.execLockForce m r s
  | .peerLockRead core m answer => Sys2Proof.Machine.execPeerLockRead core m answer s
  | .peerLockRelease core m => Sys2Proof.Machine.execPeerLockRelease core m s
  | .dmaResume c => Sys2Proof.Machine.execDmaResume c s
  | .dmaChannelDisable c => Sys2Proof.Machine.execDmaChannelDisable c s
  | .dramPpr loc row hard => Sys2Proof.Machine.execDramPpr loc row hard s
  | .coldReset key => Sys2Proof.Machine.execColdReset key s
  | .warmReset key => Sys2Proof.Machine.execWarmReset key s
  | .coreRestart key => Sys2Proof.Machine.execCoreRestart key s
  | .coreAccess core kind addr size value evict issued => Sys2Proof.Machine.execCoreAccess core kind addr size value evict issued s
  | .islandRegate n => Sys2Proof.Machine.execIslandRegate n s
  | .loopEvaluation pModDw => Sys2Proof.Machine.execLoopEvaluation pModDw s
  | .evalDone n => Sys2Proof.Machine.execEvalDone n s
  | .arrayAssembly found => Sys2Proof.Machine.execArrayAssembly found s
  | .jobStart e => Sys2Proof.Machine.execJobStart e s
  | .jobComplete e x noise delivered corrected stallUs partner => Sys2Proof.Machine.execJobComplete e x noise delivered corrected stallUs partner s
  | .shadowArbitrationDone primary shadow => Sys2Proof.Machine.execShadowArbitrationDone primary shadow s
  | .jobAgePromotion r => Sys2Proof.Machine.execJobAgePromotion r s
  | .katDone e pass => Sys2Proof.Machine.execKatDone e pass s
  | .accumulatorAccess e off write => Sys2Proof.Machine.execAccumulatorAccess e off write s
  | .hostDataIngest qid cid blocks => Sys2Proof.Machine.execHostDataIngest qid cid blocks s
  | .writeCommit qid commit => Sys2Proof.Machine.execWriteCommit qid commit s
  | .wtHoldTimeout qid cid => Sys2Proof.Machine.execWtHoldTimeout qid cid s
  | .writebackAgeExpiry array row => Sys2Proof.Machine.execWritebackAgeExpiry array row s
  | .writebackStart array row => Sys2Proof.Machine.execWritebackStart array row s
  | .rowLockGrant array row => Sys2Proof.Machine.execRowLockGrant array row s
  | .intentLanded index => Sys2Proof.Machine.execIntentLanded index s
  | .intentRetire index => Sys2Proof.Machine.execIntentRetire index s
  | .journalReplay reads rows strange badDirs partnerSeq => Sys2Proof.Machine.execJournalReplay reads rows strange badDirs partnerSeq s
  | .memberCommandComplete slot tag reply blocks info capacity => Sys2Proof.Machine.execMemberCommandComplete slot tag reply blocks info capacity s
  | .memberCommandTimeout slot tag => Sys2Proof.Machine.execMemberCommandTimeout slot tag s
  | .slotLinkDown slot => Sys2Proof.Machine.execSlotLinkDown slot s
  | .slotLinkUp slot rate => Sys2Proof.Machine.execSlotLinkUp slot rate s
  | .linkDownEraseTimer slot => Sys2Proof.Machine.execLinkDownEraseTimer slot s
  | .rebuildRow k reads => Sys2Proof.Machine.execRebuildRow k reads s
  | .rebuildCheckpoint k => Sys2Proof.Machine.execRebuildCheckpoint k s
  | .grazeStep array group first again => Sys2Proof.Machine.execGrazeStep array group first again s
  | .grazeResume array group => Sys2Proof.Machine.execGrazeResume array group s
  | .hostDataEgress qid cid bad partner => Sys2Proof.Machine.execHostDataEgress qid cid bad partner s
  | .doorbellPoll tails heads => Sys2Proof.Machine.execDoorbellPoll tails heads s
  | .commandFetch entries => Sys2Proof.Machine.execCommandFetch entries s
  | .identify cid => Sys2Proof.Machine.execIdentify cid s
  | .getFeature cid => Sys2Proof.Machine.execGetFeature cid s
  | .setFeature cid => Sys2Proof.Machine.execSetFeature cid s
  | .setFeatureWriteThrough cid => Sys2Proof.Machine.execSetFeatureWriteThrough cid s
  | .getLog cid => Sys2Proof.Machine.execGetLog cid s
  | .createIoQueue cid => Sys2Proof.Machine.execCreateIoQueue cid s
  | .deleteIoQueue cid => Sys2Proof.Machine.execDeleteIoQueue cid s
  | .queueDeleteDrained qid => Sys2Proof.Machine.execQueueDeleteDrained qid s
  | .arrayCreate cid uuid drives => Sys2Proof.Machine.execArrayCreate cid uuid drives s
  | .arrayDelete cid => Sys2Proof.Machine.execArrayDelete cid s
  | .volumeCreate cid uuid => Sys2Proof.Machine.execVolumeCreate cid uuid s
  | .volumeFormat vol => Sys2Proof.Machine.execVolumeFormat vol s
  | .volumeDelete cid => Sys2Proof.Machine.execVolumeDelete cid s
  | .volumeDeleteDrained vol => Sys2Proof.Machine.execVolumeDeleteDrained vol s
  | .memberReplace cid drive => Sys2Proof.Machine.execMemberReplace cid drive s
  | .selfTestShort cid => Sys2Proof.Machine.execSelfTestShort cid s
  | .selfTestExtended cid => Sys2Proof.Machine.execSelfTestExtended cid s
  | .selfTestAbort cid => Sys2Proof.Machine.execSelfTestAbort cid s
  | .selfTestDone found reads => Sys2Proof.Machine.execSelfTestDone found reads s
  | .powerStateQuery cid => Sys2Proof.Machine.execPowerStateQuery cid s
  | .powerStatePark cid => Sys2Proof.Machine.execPowerStatePark cid s
  | .powerStateWake cid => Sys2Proof.Machine.execPowerStateWake cid s
  | .swap cid => Sys2Proof.Machine.execSwap cid s
  | .enterService cid => Sys2Proof.Machine.execEnterService cid s
  | .leaveService cid => Sys2Proof.Machine.execLeaveService cid s
  | .setPreferred cid => Sys2Proof.Machine.execSetPreferred cid s
  | .revertNow cid tested persists => Sys2Proof.Machine.execRevertNow cid tested persists s
  | .firmwareStage piece => Sys2Proof.Machine.execFirmwareStage piece s
  | .fwCommitStore cid image => Sys2Proof.Machine.execFwCommitStore cid image s
  | .fwCommitStoreActivateNext cid image => Sys2Proof.Machine.execFwCommitStoreActivateNext cid image s
  | .fwCommitActivateNext cid => Sys2Proof.Machine.execFwCommitActivateNext cid s
  | .fwCommitActivateNow cid image => Sys2Proof.Machine.execFwCommitActivateNow cid image s
  | .fwCommitInstallRoot cid image => Sys2Proof.Machine.execFwCommitInstallRoot cid image s
  | .packAuthenticate cid ok => Sys2Proof.Machine.execPackAuthenticate cid ok s
  | .packInstallRoot cid root ok => Sys2Proof.Machine.execPackInstallRoot cid root ok s
  | .packRemoveRoot cid ok => Sys2Proof.Machine.execPackRemoveRoot cid ok s
  | .setBudget cid buffer => Sys2Proof.Machine.execSetBudget cid buffer s
  | .setEligibility cid buffer => Sys2Proof.Machine.execSetEligibility cid buffer s
  | .groupCreate cid buffer facts => Sys2Proof.Machine.execGroupCreate cid buffer facts s
  | .groupDelete cid buffer => Sys2Proof.Machine.execGroupDelete cid buffer s
  | .groupResync cid buffer => Sys2Proof.Machine.execGroupResync cid buffer s
  | .groupRecover cid buffer => Sys2Proof.Machine.execGroupRecover cid buffer s
  | .forgetNode cid buffer => Sys2Proof.Machine.execForgetNode cid buffer s
  | .wakeNode cid buffer => Sys2Proof.Machine.execWakeNode cid buffer s
  | .abort cid => Sys2Proof.Machine.execAbort cid s
  | .read qid cid => Sys2Proof.Machine.execRead qid cid s
  | .write qid cid => Sys2Proof.Machine.execWrite qid cid s
  | .verify qid cid reads => Sys2Proof.Machine.execVerify qid cid reads s
  | .flush qid cid => Sys2Proof.Machine.execFlush qid cid s
  | .flushComplete qid cid => Sys2Proof.Machine.execFlushComplete qid cid s
  | .flushWakeTimeout qid cid => Sys2Proof.Machine.execFlushWakeTimeout qid cid s
  | .writeZeroes qid cid => Sys2Proof.Machine.execWriteZeroes qid cid s
  | .copy qid cid bad partner => Sys2Proof.Machine.execCopy qid cid bad partner s
  | .laneFailure lane errors => Sys2Proof.Machine.execLaneFailure lane errors s
  | .linkTrained speed lanes => Sys2Proof.Machine.execLinkTrained speed lanes s
  | .bar2Access addr len write => Sys2Proof.Machine.execBar2Access addr len write s
  | .hostReadError what => Sys2Proof.Machine.execHostReadError what s
  | .lineEvaluation vrms freq inlet => Sys2Proof.Machine.execLineEvaluation vrms freq inlet s
  | .slotShed busLow => Sys2Proof.Machine.execSlotShed busLow s
  | .slotTrip slot rail12 => Sys2Proof.Machine.execSlotTrip slot rail12 s
  | .cooldownEnd slot => Sys2Proof.Machine.execCooldownEnd slot s
  | .slotPresentChange slot present drive => Sys2Proof.Machine.execSlotPresentChange slot present drive s
  | .spinTimeout slot => Sys2Proof.Machine.execSpinTimeout slot s
  | .driveReady slot => Sys2Proof.Machine.execDriveReady slot s
  | .slotLinkTimeout slot => Sys2Proof.Machine.execSlotLinkTimeout slot s
  | .spinupRetry slot => Sys2Proof.Machine.execSpinupRetry slot s
  | .slotOffTimeout slot => Sys2Proof.Machine.execSlotOffTimeout slot s
  | .stopUnitTimeout slot => Sys2Proof.Machine.execStopUnitTimeout slot s
  | .packInserted p mv temp authOk => Sys2Proof.Machine.execPackInserted p mv temp authOk s
  | .chargeWindowExit temp => Sys2Proof.Machine.execChargeWindowExit temp s
  | .coulombConversion uah ma mv temp keepMv => Sys2Proof.Machine.execCoulombConversion uah ma mv temp keepMv s
  | .currentStep dvMv diMa => Sys2Proof.Machine.execCurrentStep dvMv diMa s
  | .eod mv idMa => Sys2Proof.Machine.execEod mv idMa s
  | .authPeriodic ok => Sys2Proof.Machine.execAuthPeriodic ok s
  | .authRetry ok => Sys2Proof.Machine.execAuthRetry ok s
  | .smbusDone err bytes => Sys2Proof.Machine.execSmbusDone err bytes s
  | .keepLow mv => Sys2Proof.Machine.execKeepLow mv s
  | .focPeriod c x => Sys2Proof.Machine.execFocPeriod c x s
  | .voltLimitClear c => Sys2Proof.Machine.execVoltLimitClear c s
  | .observerLoss c => Sys2Proof.Machine.execObserverLoss c s
  | .coastRestart c => Sys2Proof.Machine.execCoastRestart c s
  | .senseDone c rpm => Sys2Proof.Machine.execSenseDone c rpm s
  | .brakeDone c => Sys2Proof.Machine.execBrakeDone c s
  | .alignDone c => Sys2Proof.Machine.execAlignDone c s
  | .openRampDone c => Sys2Proof.Machine.execOpenRampDone c s
  | .syncDone c => Sys2Proof.Machine.execSyncDone c s
  | .startFail c => Sys2Proof.Machine.execStartFail c s
  | .startRetry c => Sys2Proof.Machine.execStartRetry c s
  | .missingPhase c => Sys2Proof.Machine.execMissingPhase c s
  | .fanOvercurrent c => Sys2Proof.Machine.execFanOvercurrent c s
  | .fanFaultRestart c => Sys2Proof.Machine.execFanFaultRestart c s
  | .fanTokenClaimDone samples => Sys2Proof.Machine.execFanTokenClaimDone samples s
  | .fanTokenLineChange low => Sys2Proof.Machine.execFanTokenLineChange low s
  | .fanPowerReport pMeasDw irms => Sys2Proof.Machine.execFanPowerReport pMeasDw irms s
  | .fanDemandCompute t => Sys2Proof.Machine.execFanDemandCompute t s
  | .beat word seq dirtyMib hostUp => Sys2Proof.Machine.execBeat word seq dirtyMib hostUp s
  | .beatMiss mirror => Sys2Proof.Machine.execBeatMiss mirror s
  | .activeClaimDone samples => Sys2Proof.Machine.execActiveClaimDone samples s
  | .activeLineChange low => Sys2Proof.Machine.execActiveLineChange low s
  | .powerCheck ok => Sys2Proof.Machine.execPowerCheck ok s
  | .revertHoldoffExpiry tested persists => Sys2Proof.Machine.execRevertHoldoffExpiry tested persists s
  | .holdSelfCheck clear => Sys2Proof.Machine.execHoldSelfCheck clear s
  | .commit number => Sys2Proof.Machine.execCommit number s
  | .commitAck number => Sys2Proof.Machine.execCommitAck number s
  | .intent index entry => Sys2Proof.Machine.execIntent index entry s
  | .intentAck index => Sys2Proof.Machine.execIntentAck index s
  | .ceiling mib healthy => Sys2Proof.Machine.execCeiling mib healthy s
  | .slotState en12 en5 spin awake => Sys2Proof.Machine.execSlotState en12 en5 spin awake s
  | .slotAck on => Sys2Proof.Machine.execSlotAck on s
  | .fanState chans => Sys2Proof.Machine.execFanState chans s
  | .config what => Sys2Proof.Machine.execConfig what s
  | .token watts leaseMs addr => Sys2Proof.Machine.execToken watts leaseMs addr s
  | .relinquishMessage reason => Sys2Proof.Machine.execRelinquishMessage reason s
  | .resync lines entries => Sys2Proof.Machine.execResync lines entries s
  | .blockNak key => Sys2Proof.Machine.execBlockNak key s
  | .fabricLinkUp p lanes passive cable => Sys2Proof.Machine.execFabricLinkUp p lanes passive cable s
  | .fabricLinkDown p => Sys2Proof.Machine.execFabricLinkDown p s
  | .fabricBleatTimeout p => Sys2Proof.Machine.execFabricBleatTimeout p s
  | .parkedListen p => Sys2Proof.Machine.execParkedListen p s
  | .bleat p good b => Sys2Proof.Machine.execBleat p good b s
  | .linkCtl p ack nak => Sys2Proof.Machine.execLinkCtl p ack nak s
  | .linkReplay p => Sys2Proof.Machine.execLinkReplay p s
  | .frameForward p good f => Sys2Proof.Machine.execFrameForward p good f s
  | .lsa p uid addr seq links => Sys2Proof.Machine.execLsa p uid addr seq links s
  | .lsaExpiry uid => Sys2Proof.Machine.execLsaExpiry uid s
  | .addrReq p src uid pref => Sys2Proof.Machine.execAddrReq p src uid pref s
  | .addrAssign p src uid addr => Sys2Proof.Machine.execAddrAssign p src uid addr s
  | .budget p msg => Sys2Proof.Machine.execBudget p msg s
  | .tokenReq p src xseq want min cls => Sys2Proof.Machine.execTokenReq p src xseq want min cls s
  | .tokenGrant p xseq watts leaseMs => Sys2Proof.Machine.execTokenGrant p xseq watts leaseMs s
  | .tokenReport p src xseq heldW drawDw => Sys2Proof.Machine.execTokenReport p src xseq heldW drawDw s
  | .tokenRelease p src => Sys2Proof.Machine.execTokenRelease p src s
  | .leaseMove p src xseq lost => Sys2Proof.Machine.execLeaseMove p src xseq lost s
  | .tokenRequestDrop src => Sys2Proof.Machine.execTokenRequestDrop src s
  | .copyDesc p src batch id lba vol nblkM1 pi crcs guards => Sys2Proof.Machine.execCopyDesc p src batch id lba vol nblkM1 pi crcs guards s
  | .copyData p src batch idx data => Sys2Proof.Machine.execCopyData p src batch idx data s
  | .copyAck p id batch status level => Sys2Proof.Machine.execCopyAck p id batch status level s
  | .copyBatchTimeout id batch => Sys2Proof.Machine.execCopyBatchTimeout id batch s
  | .peerRead p src group member lba nblk data => Sys2Proof.Machine.execPeerRead p src group member lba nblk data s
  | .peerData p src group member lba blocks => Sys2Proof.Machine.execPeerData p src group member lba blocks s
  | .flockResyncChunk group => Sys2Proof.Machine.execFlockResyncChunk group s
  | .deltaDesc p src group member seqs lba nblk crc => Sys2Proof.Machine.execDeltaDesc p src group member seqs lba nblk crc s
  | .deltaData p src xseq data old => Sys2Proof.Machine.execDeltaData p src xseq data old s
  | .deltaAck p group member dseq => Sys2Proof.Machine.execDeltaAck p group member dseq s
  | .wakeReq p src => Sys2Proof.Machine.execWakeReq p src s
  | .group p msg => Sys2Proof.Machine.execGroup p msg s
  | .groupStaleTimer group => Sys2Proof.Machine.execGroupStaleTimer group s
  | .cboClean core addr => Sys2Proof.Machine.execCboClean core addr s
  | .cboFlush core addr => Sys2Proof.Machine.execCboFlush core addr s
  | .cboInval core addr => Sys2Proof.Machine.execCboInval core addr s
  | .cacheCe addr => Sys2Proof.Machine.execCacheCe addr s
  | .cacheUe core addr => Sys2Proof.Machine.execCacheUe core addr s
  | .tagParityError index way => Sys2Proof.Machine.execTagParityError index way s
  | .mtimeCompare core => Sys2Proof.Machine.execMtimeCompare core s
  | .mailboxTimeout m => Sys2Proof.Machine.execMailboxTimeout m s
  | .peerLockRequest m release => Sys2Proof.Machine.execPeerLockRequest m release s
  | .dmaDescriptor c host dstFail limit => Sys2Proof.Machine.execDmaDescriptor c host dstFail limit s
  | .dmaDescriptorDone c => Sys2Proof.Machine.execDmaDescriptorDone c s
  | .sramRowRemap array row => Sys2Proof.Machine.execSramRowRemap array row s
  | .dramRowLimit loc row ue => Sys2Proof.Machine.execDramRowLimit loc row ue s
  | .dramPprDone region => Sys2Proof.Machine.execDramPprDone region s
  | .postDone engines cores rows columns => Sys2Proof.Machine.execPostDone engines cores rows columns s
  | .corePeriodicTest core pass sparePass => Sys2Proof.Machine.execCorePeriodicTest core pass sparePass s
  | .fabricLaneFailure port lane => Sys2Proof.Machine.execFabricLaneFailure port lane s
  | .strapChange posB compatN shelf => Sys2Proof.Machine.execStrapChange posB compatN shelf s
  | .consoleImageLoad image slot => Sys2Proof.Machine.execConsoleImageLoad image slot s
  | .cacheFillComplete line => Sys2Proof.Machine.execCacheFillComplete line s
  | .victimWritebackLanded line => Sys2Proof.Machine.execVictimWritebackLanded line s
  | .spinupFailure slot => Sys2Proof.Machine.execSpinupFailure slot s
  | .mirrorLinkUp lanes => Sys2Proof.Machine.execMirrorLinkUp lanes s
  | .chargeWindowEntry temp => Sys2Proof.Machine.execChargeWindowEntry temp s
  | .grazeOverdue array group whole => Sys2Proof.Machine.execGrazeOverdue array group whole s
  | .nodeUnheardExpiry uid => Sys2Proof.Machine.execNodeUnheardExpiry uid s
  | .copyWakeTimeout qid cid => Sys2Proof.Machine.execCopyWakeTimeout qid cid s
  | .resetAccessTimeout => Sys2Proof.Machine.execResetAccessTimeout s
  | .spinDownExcess => Sys2Proof.Machine.execSpinDownExcess s
  | .idleParkExpiry => Sys2Proof.Machine.execIdleParkExpiry s
  | .enterServing => Sys2Proof.Machine.execEnterServing s
  | .drainComplete => Sys2Proof.Machine.execDrainComplete s
  | .destageComplete => Sys2Proof.Machine.execDestageComplete s
  | .wakeDenied => Sys2Proof.Machine.execWakeDenied s
  | .xlateDone => Sys2Proof.Machine.execXlateDone s
  | .jobDispatch => Sys2Proof.Machine.execJobDispatch s
  | .writeThroughReached => Sys2Proof.Machine.execWriteThroughReached s
  | .replayDoneWrite => Sys2Proof.Machine.execReplayDoneWrite s
  | .fwCommandEntry => Sys2Proof.Machine.execFwCommandEntry s
  | .queueEnable => Sys2Proof.Machine.execQueueEnable s
  | .queueReady => Sys2Proof.Machine.execQueueReady s
  | .queueDisable => Sys2Proof.Machine.execQueueDisable s
  | .queueStopped => Sys2Proof.Machine.execQueueStopped s
  | .kick => Sys2Proof.Machine.execKick s
  | .heartbeatRecord => Sys2Proof.Machine.execHeartbeatRecord s
  | .selfTestResume => Sys2Proof.Machine.execSelfTestResume s
  | .linkRestore => Sys2Proof.Machine.execLinkRestore s
  | .busMasterDisable => Sys2Proof.Machine.execBusMasterDisable s
  | .busMasterEnable => Sys2Proof.Machine.execBusMasterEnable s
  | .flr => Sys2Proof.Machine.execFlr s
  | .flrComplete => Sys2Proof.Machine.execFlrComplete s
  | .perst => Sys2Proof.Machine.execPerst s
  | .hotReset => Sys2Proof.Machine.execHotReset s
  | .dlDown => Sys2Proof.Machine.execDlDown s
  | .d3hotEntry => Sys2Proof.Machine.execD3hotEntry s
  | .d0Return => Sys2Proof.Machine.execD0Return s
  | .xlatDrainDone => Sys2Proof.Machine.execXlatDrainDone s
  | .intxAck => Sys2Proof.Machine.execIntxAck s
  | .mainsLost => Sys2Proof.Machine.execMainsLost s
  | .mainsReturn => Sys2Proof.Machine.execMainsReturn s
  | .converterOverload => Sys2Proof.Machine.execConverterOverload s
  | .overloadClear => Sys2Proof.Machine.execOverloadClear s
  | .converterRegulating => Sys2Proof.Machine.execConverterRegulating s
  | .convFault => Sys2Proof.Machine.execConvFault s
  | .gate1Admit => Sys2Proof.Machine.execGate1Admit s
  | .gate2Admit => Sys2Proof.Machine.execGate2Admit s
  | .moduleUnmate => Sys2Proof.Machine.execModuleUnmate s
  | .packRemoved => Sys2Proof.Machine.execPackRemoved s
  | .chargeTermination => Sys2Proof.Machine.execChargeTermination s
  | .chargeTimeout => Sys2Proof.Machine.execChargeTimeout s
  | .chgFaultRetry => Sys2Proof.Machine.execChgFaultRetry s
  | .restValid => Sys2Proof.Machine.execRestValid s
  | .packEstimate => Sys2Proof.Machine.execPackEstimate s
  | .learnStart => Sys2Proof.Machine.execLearnStart s
  | .learnTimeout => Sys2Proof.Machine.execLearnTimeout s
  | .fanTokenClaim => Sys2Proof.Machine.execFanTokenClaim s
  | .fanTokenRelease => Sys2Proof.Machine.execFanTokenRelease s
  | .fanWatchdogExpiry => Sys2Proof.Machine.execFanWatchdogExpiry s
  | .beatSend => Sys2Proof.Machine.execBeatSend s
  | .roleTake => Sys2Proof.Machine.execRoleTake s
  | .activeClaim => Sys2Proof.Machine.execActiveClaim s
  | .activeRelease => Sys2Proof.Machine.execActiveRelease s
  | .relinquish => Sys2Proof.Machine.execRelinquish s
  | .takeoverComplete => Sys2Proof.Machine.execTakeoverComplete s
  | .watchdogKick => Sys2Proof.Machine.execWatchdogKick s
  | .fwWatchdogExpiry => Sys2Proof.Machine.execFwWatchdogExpiry s
  | .keeperRelease => Sys2Proof.Machine.execKeeperRelease s
  | .watchdogRestart => Sys2Proof.Machine.execWatchdogRestart s
  | .handoverBegin => Sys2Proof.Machine.execHandoverBegin s
  | .handoverPowerOk => Sys2Proof.Machine.execHandoverPowerOk s
  | .handoverPowerFail => Sys2Proof.Machine.execHandoverPowerFail s
  | .handoverCommit => Sys2Proof.Machine.execHandoverCommit s
  | .resyncComplete => Sys2Proof.Machine.execResyncComplete s
  | .swapDue => Sys2Proof.Machine.execSwapDue s
  | .holdUnsyncedTimeout => Sys2Proof.Machine.execHoldUnsyncedTimeout s
  | .mirrorLinkDown => Sys2Proof.Machine.execMirrorLinkDown s
  | .slotStateSend => Sys2Proof.Machine.execSlotStateSend s
  | .fanStateSend => Sys2Proof.Machine.execFanStateSend s
  | .bleatSend => Sys2Proof.Machine.execBleatSend s
  | .lsaRefresh => Sys2Proof.Machine.execLsaRefresh s
  | .addrRetry => Sys2Proof.Machine.execAddrRetry s
  | .tokenReportTimer => Sys2Proof.Machine.execTokenReportTimer s
  | .leaseExpiry => Sys2Proof.Machine.execLeaseExpiry s
  | .bellwetherGrantStart => Sys2Proof.Machine.execBellwetherGrantStart s
  | .deltaResend => Sys2Proof.Machine.execDeltaResend s
  | .clean => Sys2Proof.Machine.execClean s
  | .inval => Sys2Proof.Machine.execInval s
  | .cacheFlush => Sys2Proof.Machine.execCacheFlush s
  | .cleanAll => Sys2Proof.Machine.execCleanAll s
  | .flushAll => Sys2Proof.Machine.execFlushAll s
  | .invalAll => Sys2Proof.Machine.execInvalAll s
  | .maintDone => Sys2Proof.Machine.execMaintDone s
  | .laneRestore => Sys2Proof.Machine.execLaneRestore s
  | .repairRecordPop => Sys2Proof.Machine.execRepairRecordPop s
  | .powerOnReset => Sys2Proof.Machine.execPowerOnReset s
  | .bootTimeout => Sys2Proof.Machine.execBootTimeout s
  | .consoleColdReset => Sys2Proof.Machine.execConsoleColdReset s
  | .consoleWarmReset => Sys2Proof.Machine.execConsoleWarmReset s
  | .consoleDump => Sys2Proof.Machine.execConsoleDump s
  | .hostLinkDownFault => Sys2Proof.Machine.execHostLinkDownFault s
  | .packCutoff => Sys2Proof.Machine.execPackCutoff s

end Sys2Proof.Machine
end

