-- ==== Sys2Proof/Decode.lean ====
section
/-! DEFINITION. Words that spell commands. The module is a block: its table of operations and events gives no row any bits, so no
word spells a command (log entry 1). -/

namespace Sys2Proof

/-- The command that a word of some bits spells by the table: the table gives no row bits, so none. -/
def decodeTableWord (_nbits _w : Nat) : Option Instr := none

end Sys2Proof
end

