-- ==== Sys2Proof/Machine/Idle.lean ====
section
/-! DEFINITION. What the module does of its own while no command waits (log entry 8). -/

namespace Sys2Proof.Machine

/-- The oldest register access that waited for an island which is now out of reset (R13), with the others. -/
def State.released (s : State) : Option (Instr × List (Nat × Instr)) :=
  (s.waiting.find? (fun w => !s.sys.inReset.contains (islandOf w.1))).map (fun w => (w.2, s.waiting.erase w))

/-- The heartbeat record due with a change of mode or role (R224), the loop due at once (R38) with a draw that only a measurement
gives, or a microsecond on CCH_MTIME (R419), at whose end the messages of the CQs written in it go out (R282). -/
def idle (s : State) : Result :=
  if s.sys.hbDue then execHeartbeatRecord s
  else if s.sys.loopDue && s.sys.firmwareUp then execLoopEvaluation (s.freeVal 12) (useFree s)
  else
    let s1 := sendVectors s
    .next { s1 with clock := s1.clock + 1 }

end Sys2Proof.Machine
end

