-- ==== Sys2Proof/Machine/Step.lean ====
section
/-! DEFINITION. One step: the command at the front of the queue, or what the module does of its own on an empty queue. -/

namespace Sys2Proof.Machine

/-- One step. The front command runs with the queue's rest. On an empty queue the oldest access that waited for an island now out of reset
completes (R13), else the module does what is due at once, else a microsecond passes (log entry 8). -/
def step (s : State) : Host.Outcome State Fault Refusal :=
  match s.pending with
  | c :: rest => exec c { s with pending := rest }
  | [] =>
    match s.released with
    | some (c, rest) => aside rest (exec c) s
    | none => idle s

/-- The table gives no bits to any row, so a word spells no command (log entry 1). -/
def State.withFetchWord (s : State) (nbits w : Nat) : State :=
  match decodeTableWord nbits w with
  | some c => { s with pending := c :: s.pending }
  | none => s

end Sys2Proof.Machine
end

