-- ==== Sys2Proof/Machine/Endpoint.lean ====
section
/-! DEFINITION. What configuration space reads (R270 to R272, R276). No row of the table reads it: these are the words that a host finds
there. Fields of PCI Express capabilities stand at the places, and take the versions, that its base specification gives them (log entry
126). -/

namespace Sys2Proof.Machine

/-- Header of an extended capability: identifier, version 1, next. -/
def extCap (id next : Nat) : Nat := id + 2 ^ 16 + next * 2 ^ 20

/-- The type 0 header (R270). -/
def State.cfgHeader (s : State) (off : Nat) : Nat :=
  let w := s.cfgWord off
  if off = 0x00 then 0x91081F3C
  else if off = 0x04 then w + (0x0010 + 8 * s.get Reg.HIF_IRQ_CTRL_ASSERTED) * 2 ^ 16
  else if off = 0x08 then 0x01040000
  else if off = 0x10 then w / 2 ^ 22 * 2 ^ 22 + 4
  else if off = 0x14 then w
  else if off = 0x18 then 12
  else if off = 0x1C then w / 2 ^ 4 * 2 ^ 4
  else if off = 0x2C then 0x00011F3C
  else if off = 0x34 then 0x40
  else if off = 0x3C then w + 0x100
  else 0

/-- The capabilities of the first 256 bytes (R271, R272); MSI-X is left out while COMPAT selects MXZ-7072 behaviour. -/
def State.cfgCaps (s : State) (off : Nat) : Nat :=
  let w := s.cfgWord off
  let compat := s.on Reg.SYS_STRAP_COMPAT
  if off = 0x40 then 0x01 + (if compat then 0x70 else 0x50) * 2 ^ 8 + 3 * 2 ^ 16
  else if off = 0x44 then w + 8
  else if off = 0x50 then (if compat then 0 else 0x11 + 0x70 * 2 ^ 8 + 31 * 2 ^ 16 + w)
  else if off = 0x54 then (if compat then 0 else 0x300000)
  else if off = 0x58 then (if compat then 0 else 0x301000)
  else if off = 0x70 then 0x10 + 2 * 2 ^ 16
  else if off = 0x74 then 2 + 2 ^ 5 + 2 ^ 15 + 2 ^ 28
  else if off = 0x78 then w
  else if off = 0x7C then 5 + 16 * 2 ^ 4 + 2 * 2 ^ 10 + 3 * 2 ^ 15
  else if off = 0x80 then w % 2 ^ 16 + (s.get Reg.HIF_LINK_STATUS_SPEED + s.get Reg.HIF_LINK_STATUS_WIDTH * 2 ^ 4) * 2 ^ 16
  else if off = 0x94 then 7 + 2 ^ 4 + 2 ^ 11 + 2 ^ 16 + 2 ^ 17
  else if off = 0x98 then w
  else if off = 0x9C then 31 * 2
  else 0

/-- STATE of the Vendor-Specific capability (R276). -/
def State.vsecState (s : State) : Nat :=
  s.mode + s.role * 2 ^ 4 + s.get Reg.SYS_STRAP_COMPAT * 2 ^ 6 + s.get Reg.SYS_STRAP_POS * 2 ^ 7 + s.get Reg.SYS_STRAP_SHELF_ID * 2 ^ 8

/-- The extended capabilities (R271, R272, R276). -/
def State.cfgExtended (s : State) (off : Nat) : Nat :=
  if off = 0x100 then extCap 0x0001 0x148
  else if off = 0x118 then s.cfgWord off / 2 ^ 8 * 2 ^ 8 + 2 ^ 5 + 2 ^ 7
  else if off = 0x148 then extCap 0x0003 0x158
  else if off = 0x14C then s.ownUid % 2 ^ 32
  else if off = 0x150 then s.ownUid / 2 ^ 32
  else if off = 0x158 then extCap 0x0018 0x160
  else if off = 0x160 then extCap 0x0019 0x190
  else if off = 0x190 then extCap 0x0026 0x1C0
  else if off = 0x1C0 then extCap 0x002A 0x1F0
  else if off = 0x1F0 then extCap 0x0025 0x200
  else if off = 0x1F4 then 1
  else if off = 0x200 then extCap 0x001E 0x220
  else if off = 0x204 then 31 + 40 * 2 ^ 8 + 2 ^ 16 + 10 * 2 ^ 19
  else if off = 0x220 then extCap 0x000B 0
  else if off = 0x224 then extCap 0x0001 0x020
  else if off = 0x228 then s.vsecState
  else if off = 0x230 then s.hif.hbAddr % 2 ^ 32
  else if off = 0x234 then s.hif.hbAddr / 2 ^ 32
  else if [0x104, 0x108, 0x10C, 0x110, 0x114, 0x15C, 0x164, 0x208, 0x20C].contains off then s.cfgWord off
  else 0

/-- What a read of configuration space answers: nothing but Configuration Request Retry Status while a function-level reset runs (R287). -/
def State.cfgRead (s : State) (off : Nat) : Option Nat :=
  if s.hif.flr then none
  else if off < 0x40 then some (s.cfgHeader off)
  else if off < 0x100 then some (s.cfgCaps off)
  else some (s.cfgExtended off)

end Sys2Proof.Machine
end

