-- ==== Sys2Proof/Safety.lean ====
section
/-! DEFINITION. What counts as a sound state and a safe step, in the terms that statements use. -/

namespace Sys2Proof.Machine

/-- The canonical form of memory: addresses strictly rising, and no byte listed that an unlisted address reads as. -/
def Memory.wf (m : List Host.Cell) : Bool := Assoc.rising m && m.all (fun c => c.2 != 0#8)

/-- The canonical form of a state: register fields listed once each, in rising order, and memory in its canonical form. -/
def State.canonical (s : State) : Prop := Assoc.rising s.regs = true ∧ Memory.wf s.mem = true

/-- An outcome leads only to states of which a predicate holds. -/
def Leads (p : State → Prop) (r : Result) : Prop := ∀ t, r = .next t → p t

/-- A command completes in a state: the machine goes on. -/
def Completes (c : Instr) (s : State) : Prop := ∃ t, exec c s = .next t

/-- A command ends in a state of which a predicate holds. -/
def Ends (c : Instr) (s : State) (p : State → Prop) : Prop := ∃ t, exec c s = .next t ∧ p t

/-- A command ends in what `g` makes of a state of which a predicate holds: `g` is work that follows every command of its kind, such as
the evaluation of the pending triggers (R32). -/
def EndsBy (g : State → State) (c : Instr) (s : State) (p : State → Prop) : Prop := ∃ t, exec c s = .next (g t) ∧ p t

/-- Every register field but those listed reads as before, and so does every byte of memory. -/
def Keeps (fs : List Field) (s t : State) : Prop :=
  (∀ f : Field, f.key ∉ fs.map Field.key → t.get f = s.get f) ∧ ∀ a, t.readByte a = s.readByte a

/-- No trigger of R32 is pending: no fault, no detection, no handover, park, wake or service request. -/
def State.quiet (s : State) : Bool :=
  s.fov.faults.isEmpty && !s.detected && !s.fov.handoverDue && !s.sys.parkPending && !s.sys.wakePending && !s.sys.servicePending

/-- A frame that arrives for this node through a port reaches its firmware: the block and the port are up, the RX ring has a posted buffer,
and the firmware runs (R382, R385). -/
def State.hears (s : State) (p : Fin 4) : Bool :=
  s.on Reg.FAB_CTRL_ENABLE && s.portUp p.val && s.on Reg.FAB_RX_CFG_ENABLE && s.get Reg.FAB_RX_HEAD_HEAD != s.get Reg.FAB_RX_TAIL_TAIL
    && s.sys.firmwareUp

/-- A command that has been fetched is the next of its queue and identifier that has not begun, passes the checks of R207 and R228, and may
begin: neither the mode nor a fence holds it, and its turn has come (R220, R222). -/
def State.mayRun (s : State) (n : Nat) (c : Cmd) : Bool :=
  s.qmx.cmds.find? (fun x => x.2.e.qid == c.e.qid && x.2.e.cid == c.e.cid && !x.2.begun) == some (n, c) && s.cmd? n == some c
    && opcodeOk c.e && s.treats c == 0 && s.mayBegin n c
    && (if c.e.qid = 0 then s.sys.firmwareUp else (s.ioCheck c.e).isNone)

/-- A command of the host answers: it ends with a status and a result, from a state of which a predicate holds, and the work that follows
every change of the data path runs. -/
def Answers (n status result : Nat) (i : Instr) (s : State) (p : State → Prop) : Prop :=
  EndsBy (fun t => after (finish n status result t)) i s p

end Sys2Proof.Machine
end

