-- ==== Sys2Proof/Certificates/Slice0/Obligations.lean ====
section
/-! DEFINITION. The statements for the provers: what each family of commands does and leaves unchanged, what every command completes with,
and what every step keeps. -/

open Sys2Proof Sys2Proof.Machine

/-- Stripe geometry commands (R51, R68): what each leaves when its access lands and nothing is under way. Log entry 78 says where this
follows a choice of the model and no rule. -/
def Obligations.StripeCommandsComplete : Prop :=
  (∀ (s : State) (v : Fin 64), s.lands 0x30010 = true → s.on Reg.STP_XLATE_CTRL_BUSY = false →
    Ends (.xlateGo v) s fun t =>
      t.get Reg.STP_XLATE_CTRL_BUSY = 1 ∧ t.get Reg.STP_XLATE_CTRL_GO = 1 ∧ t.get Reg.STP_XLATE_CTRL_VOL = v.val
      ∧ t.get Reg.STP_XLATE_RES_DONE = 0
      ∧ t.stp.xlateOff = s.get64 Reg.STP_XLATE_OFF_LO_OFF Reg.STP_XLATE_OFF_HI_OFF
      ∧ Keeps [Reg.STP_XLATE_CTRL_BUSY, Reg.STP_XLATE_CTRL_GO, Reg.STP_XLATE_CTRL_VOL, Reg.STP_XLATE_RES_DONE] s t)
  ∧ (∀ s : State, s.on Reg.STP_XLATE_CTRL_BUSY = true →
    Ends .xlateDone s fun t =>
      t.get Reg.STP_XLATE_CTRL_BUSY = 0 ∧ t.get Reg.STP_XLATE_CTRL_GO = 0 ∧ t.get Reg.STP_XLATE_RES_DONE = 1
      ∧ t.on Reg.STP_XLATE_RES_NO_VOLUME = !s.volValid (s.get Reg.STP_XLATE_CTRL_VOL)
      ∧ (s.volValid (s.get Reg.STP_XLATE_CTRL_VOL) = true → t.on Reg.STP_XLATE_RES_OUT_OF_RANGE
          = decide (s.volBlocks (s.get Reg.STP_XLATE_CTRL_VOL) * 4096 ≤ s.stp.xlateOff))
      ∧ Keeps [Reg.STP_XLATE_CTRL_BUSY, Reg.STP_XLATE_CTRL_GO, Reg.STP_XLATE_RES_SLOT, Reg.STP_XLATE_RES_PAR_SLOT,
          Reg.STP_XLATE_RES_DATA_IDX, Reg.STP_XLATE_RES_GROUP, Reg.STP_XLATE_RES_OUT_OF_RANGE, Reg.STP_XLATE_RES_NO_VOLUME,
          Reg.STP_XLATE_RES_DONE, Reg.STP_XLATE_MOFF_LO_MOFF, Reg.STP_XLATE_MOFF_HI_MOFF] s t)
  ∧ (∀ (s : State) (n : Fin 4), s.lands (0x30130 + 0x40 * n.val) = true → s.on (Reg.STP_ARRAY_EVAL_BUSY n.val) = false →
    Ends (.evalStart n) s fun t =>
      t.get (Reg.STP_ARRAY_EVAL_BUSY n.val) = 1 ∧ t.get (Reg.STP_ARRAY_EVAL_START n.val) = 1
      ∧ t.get (Reg.STP_ARRAY_EVAL_STALE n.val) = 0 ∧ Assoc.find t.stp.evals n.val = some (s.erasedMembers n.val)
      ∧ Keeps [Reg.STP_ARRAY_EVAL_BUSY n.val, Reg.STP_ARRAY_EVAL_START n.val, Reg.STP_ARRAY_EVAL_STALE n.val] s t)
  ∧ (∀ (s : State) (n : Fin 4), s.on (Reg.STP_ARRAY_EVAL_BUSY n.val) = true →
    EndsBy (fun t => after (when (s.sys.firmwareUp && s.on (Reg.STP_ARRAY_EVAL_STALE n.val)) (startEval n.val) t)) (.evalDone n) s fun t =>
      t.get (Reg.STP_ARRAY_EVAL_BUSY n.val) = 0 ∧ t.get (Reg.STP_ARRAY_EVAL_START n.val) = 0
      ∧ t.get (Reg.STP_ARRAY_EVAL_PHASE_FAIL n.val) = (s.geo n.val).phaseFail (Assoc.getD s.stp.evals n.val []) % 2 ^ 13
      ∧ t.get (Reg.STP_ARRAY_EVAL_MAX_DEFICIT n.val) = (s.geo n.val).maxDeficit (Assoc.getD s.stp.evals n.val []) % 2 ^ 4
      ∧ Keeps [Reg.STP_ARRAY_EVAL_BUSY n.val, Reg.STP_ARRAY_EVAL_START n.val, Reg.STP_ARRAY_EVAL_PHASE_FAIL n.val,
          Reg.STP_ARRAY_EVAL_MAX_DEFICIT n.val] s t)

/-- Ox engines and their rings (R83, R84, R91, R92, R96 to R100, R107 to R109): the commands that act at once. Where the number of engines
in service changes, the scheduler brings it to TARGET afterwards (R108). Log entries 7, 11, 74, 108, 109 and 114 say where this follows a
choice of the model and no rule. -/
def Obligations.EngineCommandsComplete : Prop :=
  (∀ (s : State) (r : Fin 16) (tail : Nat), s.lands (0x41018 + 0x40 * r.val) = true →
    tail ≤ s.get (Reg.OXE_RING_CFG_SIZE_M1 r.val) →
    Ends (.ringTailWrite r tail) s fun t =>
      t.get (Reg.OXE_RING_TAIL_TAIL r.val) = tail % 2 ^ 12 ∧ Keeps [Reg.OXE_RING_TAIL_TAIL r.val] s t)
  ∧ (∀ (s : State) (r : Fin 16), s.on Reg.OXE_AGE_LIMIT = true → s.hasHead r.val = true → 0 < s.ringClass r.val →
    Ends (.jobAgePromotion r) s fun t => t.ringClass r.val = s.ringClass r.val - 1 ∧ Keeps [] s t)
  ∧ (∀ (s : State) (e : Fin 28), s.lands (0x48000 + 0x100 * e.val) = true → s.engState e.val = EngSt.inService →
      (s.eng e.val).running = false →
    EndsBy keepTarget (.enginePause e true) s fun t =>
      t.engState e.val = EngSt.paused ∧ t.get (Reg.OXE_ENG_CTRL_PAUSE e.val) = 1 ∧ (t.eng e.val).queue = []
      ∧ Keeps [Reg.OXE_ENG_CTRL_PAUSE e.val, engField e.val] s t)
  ∧ (∀ (s : State) (e : Fin 28), s.lands (0x48000 + 0x100 * e.val) = true → s.engState e.val = EngSt.paused →
    EndsBy keepTarget (.enginePause e false) s fun t =>
      t.engState e.val = EngSt.inService ∧ t.get (Reg.OXE_ENG_CTRL_PAUSE e.val) = 0
      ∧ Keeps [Reg.OXE_ENG_CTRL_PAUSE e.val, engField e.val] s t)
  ∧ (∀ (s : State) (e : Fin 28), s.lands (0x48000 + 0x100 * e.val) = true → s.engState e.val = EngSt.spare →
    Ends (.engineTest e) s fun t =>
      t.engState e.val = EngSt.testing ∧ t.get (Reg.OXE_ENG_CTRL_TEST e.val) = 1 ∧ t.get (Reg.OXE_ENG_INFO_TEST_DONE e.val) = 0
      ∧ Keeps [Reg.OXE_ENG_CTRL_TEST e.val, Reg.OXE_ENG_INFO_TEST_DONE e.val, engField e.val] s t)
  ∧ (∀ (s : State) (e : Fin 28) (pass : Bool), (s.eng e.val).testFor = 3 →
    Ends (.katDone e pass) s fun t =>
      t.get (Reg.OXE_ENG_CTRL_TEST e.val) = 0 ∧ t.get (Reg.OXE_ENG_INFO_TEST_DONE e.val) = 1
      ∧ t.on (Reg.OXE_ENG_INFO_TEST_PASS e.val) = pass ∧ (t.eng e.val).testPassed = some pass
      ∧ Keeps [Reg.OXE_ENG_CTRL_TEST e.val, Reg.OXE_ENG_INFO_TEST_DONE e.val, Reg.OXE_ENG_INFO_TEST_PASS e.val] s t)
  ∧ (∀ (s : State) (e : Fin 28) (off : Nat) (v : Word), s.engState e.val = EngSt.paused → (s.eng e.val).queue = [] →
    Ends (.accumulatorAccess e off (some v)) s fun t =>
      Ends (.accumulatorAccess e off none) t fun u => u.out = .readValue v.toNat :: s.out ∧ Keeps [] s u)

/-- An engine with no job running is retired at once (R100, R106): it reads RETIRED, its queue is given back, the event is counted, and
its island is retired with it. Log entries 20, 72, 75, 108 and 109 say where this follows a choice of the model and no rule. -/
def Obligations.EngineRetires : Prop :=
  ∀ (s : State) (e : Fin 28), s.lands (0x48000 + 0x100 * e.val) = true → (s.eng e.val).running = false →
      s.engState e.val ≠ EngSt.retired →
    EndsBy (fun t => settle (keepTarget t)) (.engineRetire e) s fun t =>
      t.engState e.val = EngSt.retired ∧ (t.eng e.val).queue = [] ∧ t.get Reg.OXE_EVENT_ENGINE_RETIRED = 1
      ∧ t.get Reg.OXE_RETIRE_CNT = (s.get Reg.OXE_RETIRE_CNT + 1) % 2 ^ 32 ∧ (Island.ox e) ∈ t.sys.retired

/-- A write of VALID of an array (R71): a write of 1 takes effect exactly when every check of the rule holds, and otherwise VALID stays 0
with CFG_ERR set; a write of 0 is refused while a volume of the array is valid. The slots that may not belong to another valid array are
its members and, of an L-100+8S array, its spares too. Only VALID and CFG_ERR change. -/
def Obligations.ArrayValidity : Prop :=
  ∀ (s : State) (n : Fin 4), s.lands (0x30100 + 0x40 * n.val) = true →
    let g := s.geo n.val
    let checks : Prop :=
      (g.layout = 2 → 4 ≤ g.members ∧ g.members ≤ 72)
      ∧ (g.layout = 3 → 2 ≤ g.dpg ∧ g.dpg ≤ 12 ∧ g.globals ≤ 8 ∧ g.members ≤ 108)
      ∧ 14 ≤ g.shift ∧ g.shift ≤ 20
      ∧ (s.on (Reg.STP_ARRAY_CFG_GEN1 n.val) = true ↔ g.layout = 2)
      ∧ g.slots.length = g.members
      ∧ (∀ k, k < 4 → k ≠ n.val → s.on (Reg.STP_ARRAY_CFG_VALID k) = true → ∀ x ∈ g.allSlots, x ∉ (s.geo k).allSlots)
      ∧ g.rows ≠ 0
      ∧ s.get (Reg.STP_ARRAY_HDR_HDR_MIB n.val) ≠ 0 ∧ s.get (Reg.STP_ARRAY_HDR_HDR_MIB n.val) % 2 = 0
      ∧ (s.on Reg.SYS_STRAP_COMPAT = true → g.layout = 2)
    (Ends (.arrayValidWrite n true) s fun t =>
      (checks → t.get (Reg.STP_ARRAY_CFG_VALID n.val) = 1 ∧ t.get (Reg.STP_ARRAY_CFG_CFG_ERR n.val) = 0)
      ∧ (¬ checks → t.get (Reg.STP_ARRAY_CFG_VALID n.val) = 0 ∧ t.get (Reg.STP_ARRAY_CFG_CFG_ERR n.val) = 1)
      ∧ Keeps [Reg.STP_ARRAY_CFG_VALID n.val, Reg.STP_ARRAY_CFG_CFG_ERR n.val] s t)
    ∧ (Ends (.arrayValidWrite n false) s fun t =>
      (s.hasVolume n.val = true → t.get (Reg.STP_ARRAY_CFG_VALID n.val) = s.get (Reg.STP_ARRAY_CFG_VALID n.val)
        ∧ t.get (Reg.STP_ARRAY_CFG_CFG_ERR n.val) = 1)
      ∧ (s.hasVolume n.val = false → t.get (Reg.STP_ARRAY_CFG_VALID n.val) = 0 ∧ t.get (Reg.STP_ARRAY_CFG_CFG_ERR n.val) = 0)
      ∧ Keeps [Reg.STP_ARRAY_CFG_VALID n.val, Reg.STP_ARRAY_CFG_CFG_ERR n.val] s t)

/-- A write of VALID of a volume (R72): a write of 1 takes effect exactly when every check of the rule holds, and otherwise VALID stays 0
with RANGE_ERR set; a write of 0 clears it. Only VALID and RANGE_ERR change. -/
def Obligations.VolumeValidity : Prop :=
  ∀ (s : State) (v : Fin 64), s.lands (0x31000 + 0x20 * v.val) = true →
    let n := s.volArray v.val
    let b := s.volBase v.val
    let e := b + s.volRows v.val
    let checks : Prop :=
      s.on (Reg.STP_ARRAY_CFG_VALID n) = true ∧ e ≤ (s.geo n).rows ∧ s.volRows v.val ≠ 0
      ∧ (∀ w, w < 64 → w ≠ v.val → s.volValid w = true → s.volArray w = n →
          e ≤ s.volBase w ∨ s.volBase w + s.volRows w ≤ b)
    (Ends (.volumeValidWrite v true) s fun t =>
      (checks → t.get (Reg.STP_VOL_CFG_VALID v.val) = 1 ∧ t.get (Reg.STP_VOL_CFG_RANGE_ERR v.val) = 0)
      ∧ (¬ checks →
          t.get (Reg.STP_VOL_CFG_VALID v.val) = 0 ∧ t.get (Reg.STP_VOL_CFG_RANGE_ERR v.val) = 1)
      ∧ Keeps [Reg.STP_VOL_CFG_VALID v.val, Reg.STP_VOL_CFG_RANGE_ERR v.val] s t)
    ∧ (Ends (.volumeValidWrite v false) s fun t =>
      t.get (Reg.STP_VOL_CFG_VALID v.val) = 0 ∧ t.get (Reg.STP_VOL_CFG_RANGE_ERR v.val) = 0
      ∧ Keeps [Reg.STP_VOL_CFG_VALID v.val, Reg.STP_VOL_CFG_RANGE_ERR v.val] s t)

/-- Placement in layouts 0, 1 and 3 (R46, R47): local group k holds the member indices m·k to m·k + m − 1 and global parity i holds
m·groups + i; the local parity of row n sits at group position n mod m, and data index d at position (n mod m + 1 + d mod (m − 1)) mod m
of group d / (m − 1); and the role that a row gives to each of these members is that role again. -/
def Obligations.LayeredPlacement : Prop :=
  ∀ (g : Geo) (row : Nat), g.layout ≠ 2 → 1 ≤ g.dpg →
    (∀ k, k < g.groups →
      g.memberOf row (.par k) = g.m * k + row % g.m ∧ g.role row (g.memberOf row (.par k)) = .par k)
    ∧ (∀ d, d < g.groups * (g.m - 1) →
      g.memberOf row (.data d) = g.m * (d / (g.m - 1)) + (row % g.m + 1 + d % (g.m - 1)) % g.m
      ∧ g.role row (g.memberOf row (.data d)) = .data d)
    ∧ (∀ i, g.memberOf row (.glob i) = g.m * g.groups + i ∧ g.role row (g.memberOf row (.glob i)) = .glob i)

/-- Placement in L-GEN1 (R48): P at N − 1 − (n mod N), Q at (P + 1) mod N, data index j at (P + 2 + j) mod N; and the role that a row
gives to each of these members is that role again. -/
def Obligations.Gen1Placement : Prop :=
  ∀ (g : Geo) (row : Nat), g.layout = 2 → 1 ≤ g.dpg →
    let n := g.members
    let p := n - 1 - row % n
    n = g.dpg + 2
    ∧ g.memberOf row (.par 0) = p ∧ g.role row p = .par 0
    ∧ g.memberOf row (.glob 0) = (p + 1) % n ∧ g.role row ((p + 1) % n) = .glob 0
    ∧ (∀ j, j < g.dpg → g.memberOf row (.data j) = (p + 2 + j) % n ∧ g.role row ((p + 2 + j) % n) = .data j)

/-- Each member of a row has one role, and the member that has it is that member (R46 to R48): no two members of a row share a role. -/
def Obligations.EveryMemberHasItsRole : Prop :=
  ∀ (g : Geo) (row i : Nat), 1 ≤ g.dpg → i < g.members →
    g.memberOf row (g.role row i) = i

/-- The address mapping is one to one (R51, R52): a block of a volume lies in one of the volume's rows, at a data index below D and a
block within the unit, and those three give the block back. -/
def Obligations.AddressMapping : Prop :=
  ∀ (s : State) (v lba : Nat),
    let g := s.geo (s.volArray v)
    1 ≤ g.dataCount → 12 ≤ g.shift → lba < s.volBlocks v →
      let at' := s.locate v lba
      s.volBase v ≤ at'.1 ∧ at'.1 < s.volBase v + s.volRows v ∧ at'.2.1 < g.dataCount ∧ at'.2.2 < g.unitBlocks
      ∧ s.lbaAt v at'.1 at'.2.1 at'.2.2 = lba

/-- The total deficit of a phase (R61): over the groups, one less than the erased members of the group, its parity included, and never
below 0. -/
def Obligations.TotalDeficit : Prop :=
  ∀ (g : Geo) (phase : Nat) (erased : List Nat), 1 ≤ g.dpg → erased.Nodup → (∀ i ∈ erased, i < g.members) →
    g.deficit phase erased
      = (g.evalGroups.map (fun k => (erased.filter (fun i => g.memberGroup phase i == some k)).length - 1)).sum

/-- A translation's result (R51): for an offset within a valid volume, the slots, the data index, the group and the member offset of the
place where the block lies. Log entry 78 says where this follows a choice of the model and no rule. -/
def Obligations.TranslationResult : Prop :=
  ∀ s : State, s.on Reg.STP_XLATE_CTRL_BUSY = true →
    let v := s.get Reg.STP_XLATE_CTRL_VOL
    let x := s.stp.xlateOff
    let g := s.geo (s.volArray v)
    s.volValid v = true → x < s.volBlocks v * 4096 → 14 ≤ g.shift →
      let du := g.dataCount * g.unit
      let a := s.volBase v * du + x
      let row := a / du
      let d := a % du / g.unit
      Ends .xlateDone s fun t =>
        t.get Reg.STP_XLATE_RES_DONE = 1 ∧ t.get Reg.STP_XLATE_RES_NO_VOLUME = 0 ∧ t.get Reg.STP_XLATE_RES_OUT_OF_RANGE = 0
        ∧ t.get Reg.STP_XLATE_RES_SLOT = g.slotOf (g.memberOf row (.data d)) % 2 ^ 7
        ∧ t.get Reg.STP_XLATE_RES_PAR_SLOT = g.slotOf (g.memberOf row (.par (g.groupOf d))) % 2 ^ 7
        ∧ t.get Reg.STP_XLATE_RES_DATA_IDX = d % 2 ^ 7 ∧ t.get Reg.STP_XLATE_RES_GROUP = g.groupOf d % 2 ^ 4
        ∧ t.get64 Reg.STP_XLATE_MOFF_LO_MOFF Reg.STP_XLATE_MOFF_HI_MOFF = (g.hdr + row * g.unit + a % g.unit) % 2 ^ 64

/-- Member commands and the slots' links (R142, R144, R145, R309, R497). A command that ends leaves its port with its counters stepped;
what waits on it follows. Log entries 11, 17, 50, 80, 81, 115 and 119 say where this follows a choice of the model and no rule. -/
def Obligations.MemberCommandsComplete : Prop :=
  (∀ (s : State) (slot : Fin 108) (tag : Nat) (c : MemCmd) (bs : List DriveBlock) (info : Option Nat) (cap : Nat),
      s.openCmdOn slot.val tag = some c → c.owner = .own → c.write = true ∨ s.t10Check c bs = none →
    EndsBy after (.memberCommandComplete slot tag .good bs info cap) s fun t =>
      t.openCmdOn slot.val tag = none
      ∧ t.get (if c.write then Reg.SAS_SLOT_WRITE_BLK_CNT slot.val else Reg.SAS_SLOT_READ_BLK_CNT slot.val)
        = (s.get (if c.write then Reg.SAS_SLOT_WRITE_BLK_CNT slot.val else Reg.SAS_SLOT_READ_BLK_CNT slot.val) + c.nblk) % 2 ^ 32
      ∧ Keeps [if c.write then Reg.SAS_SLOT_WRITE_BLK_CNT slot.val else Reg.SAS_SLOT_READ_BLK_CNT slot.val] s t)
  ∧ (∀ (s : State) (slot : Fin 108) (tag b : Nat) (c : MemCmd) (bs : List DriveBlock) (info : Option Nat) (cap : Nat),
      s.openCmdOn slot.val tag = some c → c.owner = .firmware b → c.write = true ∨ s.t10Check c bs = none →
    EndsBy after (.memberCommandComplete slot tag .good bs info cap) s fun t =>
      let at' := s.get64 Reg.SAS_FW_CQ_BASE_LO_BASE Reg.SAS_FW_CQ_BASE_HI_BASE + 16 * s.get Reg.SAS_FW_CQ_TAIL_CQ_TAIL
      t.openCmdOn slot.val tag = none
      ∧ (c.write = false → Assoc.find t.sas.rx (rxKey slot.val tag) = some ((List.range c.nblk).map (fun i => (bs.map (fun b => b.data)).getD i 0)))
      ∧ t.get Reg.SAS_FW_CQ_TAIL_CQ_TAIL
        = (s.get Reg.SAS_FW_CQ_TAIL_CQ_TAIL + 1) % (s.get Reg.SAS_FW_CFG_SIZE_M1 + 1) % 2 ^ Reg.SAS_FW_CQ_TAIL_CQ_TAIL.width
      ∧ t.readBytes at' 4 = leBytes 2 tag ++ [b % 256, 0]
      ∧ (∀ x, x < at' ∨ at' + 16 ≤ x → t.readByte x = s.readByte x))
  ∧ (∀ (s : State) (slot : Fin 108) (tag b lba : Nat) (app : Bool) (c : MemCmd) (bs : List DriveBlock) (info : Option Nat) (cap : Nat),
      s.openCmdOn slot.val tag = some c → c.owner = .firmware b → c.write = false → s.t10Check c bs = some (lba, app) →
    EndsBy after (.memberCommandComplete slot tag .good bs info cap) s fun t =>
      let at' := s.get64 Reg.SAS_FW_CQ_BASE_LO_BASE Reg.SAS_FW_CQ_BASE_HI_BASE + 16 * s.get Reg.SAS_FW_CQ_TAIL_CQ_TAIL
      t.openCmdOn slot.val tag = none ∧ t.readBytes at' 12 = leBytes 2 tag ++ [b % 256, 4] ++ leBytes 8 lba
      ∧ t.get (if app then Reg.INT_EVENT_APP_TAG else Reg.INT_EVENT_T10_RX) = 1 ∧ t.get Reg.SAS_EVENT_MEDIA_ERR = 1)
  ∧ (∀ (s : State) (slot : Fin 108) (tag : Nat) (c : MemCmd) (bs : List DriveBlock) (info : Option Nat) (cap : Nat),
      s.openCmdOn slot.val tag = some c →
    exec (.memberCommandComplete slot tag .busy bs info cap) s = .next (sendDrive c s))
  ∧ (∀ (s : State) (slot : Fin 108) (tag : Nat) (c : MemCmd), s.openCmdOn slot.val tag = some c → c.owner = .own →
      (s.within (sec 600) (s.slot slot.val).timeouts).length < 2 → s.sas.cmds = [c] →
    EndsBy after (.memberCommandTimeout slot tag) s fun t =>
      t.sas.cmds = [] ∧ t.out = .drive slot.val .linkReset 0 0 [] :: .drive slot.val .abort c.lba c.nblk [] :: s.out
      ∧ t.get Reg.SAS_EVENT_TIMEOUT = 1 ∧ t.get Reg.SAS_TIMEOUT_CNT = (s.get Reg.SAS_TIMEOUT_CNT + 1) % 2 ^ 32
      ∧ (t.slot slot.val).timeouts = s.clock :: s.within (sec 600) (s.slot slot.val).timeouts
      ∧ Keeps [Reg.SAS_EVENT_TIMEOUT, Reg.SAS_TIMEOUT_CNT, Reg.SAS_SLOT_TIMEOUT_CNT slot.val] s t)
  ∧ (∀ (s : State) (slot : Fin 108), s.on (Reg.SAS_SLOT_STATUS_LINK_UP slot.val) = true →
      (∀ c ∈ s.sas.cmds, c.phys ≠ slot.val) →
    EndsBy after (.slotLinkDown slot) s fun t =>
      t.get (Reg.SAS_SLOT_STATUS_LINK_UP slot.val) = 0 ∧ t.get (Reg.SAS_SLOT_STATUS_RATE slot.val) = 0
      ∧ t.get Reg.SAS_EVENT_LINK_DOWN = 1
      ∧ Keeps [Reg.SAS_SLOT_STATUS_LINK_UP slot.val, Reg.SAS_SLOT_STATUS_RATE slot.val, Reg.SAS_EVENT_LINK_DOWN,
          Reg.SAS_LINK_DOWN_CNT, Reg.SAS_SLOT_LINK_DOWN_CNT slot.val] s t)
  ∧ (∀ (s : State) (slot : Fin 108) (rate : Fin 4), s.on (Reg.SLT_STATUS_PRESENT slot.val) = true → s.slotOn slot.val = true →
      rate ≠ 0 →
    EndsBy after (.slotLinkUp slot rate) s fun t =>
      t.get (Reg.SAS_SLOT_STATUS_LINK_UP slot.val) = 1 ∧ t.get (Reg.SAS_SLOT_STATUS_RATE slot.val) = rate.val
      ∧ Keeps [Reg.SAS_SLOT_STATUS_LINK_UP slot.val, Reg.SAS_SLOT_STATUS_RATE slot.val] s t)
  ∧ (∀ (s : State), s.on Reg.SAS_CTRL_ENABLE = true → s.on Reg.SAS_FW_CFG_ENABLE = true →
      s.get Reg.SAS_FW_HEAD_HEAD ≠ s.get Reg.SAS_FW_TAIL_TAIL → s.fwOpen < s.fwRoom →
      let a := s.get64 Reg.SAS_FW_BASE_LO_BASE Reg.SAS_FW_BASE_HI_BASE + 32 * s.get Reg.SAS_FW_HEAD_HEAD
      let op := (s.readByte a).toNat
      let flags := (s.readByte (a + 1)).toNat
      let tag := leNat (s.readBytes (a + 2) 2)
      let nblkM1 := leNat (s.readBytes (a + 16) 4)
      let phys := bits flags 0 7
      (op = 1 ∨ op = 2) → 0x8000 ≤ tag → bitOf flags 7 = 1 → s.openCmdOn phys tag = none →
      s.sas.unopened = [] → nblkM1 ≤ 255 → s.awake phys = true → s.openOn phys < 32 →
      s.on (Reg.SLT_STATUS_PRESENT phys) = true → s.on (Reg.SAS_SLOT_STATUS_LINK_UP phys) = true →
    EndsBy after .fwCommandEntry s fun t =>
      t.get Reg.SAS_FW_HEAD_HEAD
        = (s.get Reg.SAS_FW_HEAD_HEAD + 1) % (s.get Reg.SAS_FW_CFG_SIZE_M1 + 1) % 2 ^ Reg.SAS_FW_HEAD_HEAD.width
      ∧ (∃ c, t.openCmdOn phys tag = some c ∧ c.write = (op == 2) ∧ c.lba = leNat (s.readBytes (a + 8) 8) ∧ c.nblk = nblkM1 + 1)
      ∧ Keeps [Reg.SAS_FW_HEAD_HEAD] s t)
  ∧ (∀ (s : State) (slot : Fin 108) (b : Bool), s.lands (0xA1000 + 0x40 * slot.val) = true →
    EndsBy after (.awakeWrite slot b) s fun t => t.on (Reg.SAS_SLOT_CTRL_AWAKE slot.val) = b ∧ Keeps [Reg.SAS_SLOT_CTRL_AWAKE slot.val] s t)

/-- Drives put in and taken out, and a member whose link stays down (R147, R299): the slot's registers, and the member's ERASED bit with
the evaluation that its change starts (R102). Log entries 50 and 55 say where this follows a choice of the model and no rule. -/
def Obligations.DrivesComeAndGo : Prop :=
  (∀ (s : State) (slot : Fin 108) (f : DriveFacts), s.on (Reg.SLT_STATUS_PRESENT slot.val) = false →
      s.arrayOf (s.logicalOf slot.val) = none →
    EndsBy after (.slotPresentChange slot true f) s fun t =>
      t.get (Reg.SLT_STATUS_PRESENT slot.val) = 1 ∧ (t.slot slot.val).drive = some f ∧ t.get Reg.SLT_EVENT_PRESENT_CHANGE = 1
      ∧ (t.slot slot.val).leftOff = false ∧ (t.slot slot.val).timeouts = [] ∧ (t.slot slot.val).mediaErrs = []
      ∧ Keeps [Reg.SLT_STATUS_PRESENT slot.val, Reg.SLT_EVENT_PRESENT_CHANGE, Reg.SLT_PRESENT_CHANGE_CNT] s t)
  ∧ (∀ (s : State) (slot : Fin 108) (f : DriveFacts), s.on (Reg.SLT_STATUS_PRESENT slot.val) = false →
    EndsBy after (.slotPresentChange slot true f) s fun t => t = driveInserted slot.val f s)
  ∧ (∀ (s : State) (slot : Fin 108) (f : DriveFacts), s.on (Reg.SLT_STATUS_PRESENT slot.val) = true →
      s.arrayOf (s.logicalOf slot.val) = none → (∀ c ∈ s.sas.cmds, c.phys ≠ slot.val) →
    EndsBy after (.slotPresentChange slot false f) s fun t =>
      t.get (Reg.SLT_STATUS_PRESENT slot.val) = 0 ∧ t.slotOn slot.val = false ∧ t.awake slot.val = false
      ∧ t.get Reg.SLT_EVENT_PRESENT_CHANGE = 1
      ∧ Keeps [Reg.SLT_STATUS_PRESENT slot.val, Reg.SLT_EVENT_PRESENT_CHANGE, Reg.SLT_PRESENT_CHANGE_CNT, Reg.SLT_STATUS_ON12 slot.val,
          Reg.SLT_STATUS_ON5 slot.val, Reg.SLT_STATUS_SURGING slot.val, Reg.SAS_SLOT_CTRL_AWAKE slot.val] s t)
  ∧ (∀ (s : State) (slot : Fin 108) (n : Nat), s.on (Reg.SLT_STATUS_PRESENT slot.val) = true →
      s.on (Reg.SLT_STATUS_ON12 slot.val) = true → s.on (Reg.SLT_STATUS_ON5 slot.val) = true →
      s.on (Reg.SAS_SLOT_STATUS_LINK_UP slot.val) = false → s.arrayOf (s.logicalOf slot.val) = some n →
      s.frontierOf 0 n (s.logicalOf slot.val) = none → (s.erasedSlots n).contains (s.logicalOf slot.val) = false →
      s.spareFor n = none →
    EndsBy after (.linkDownEraseTimer slot) s fun t =>
      let f := Reg.STP_ARRAY_ERASED_SLOTS n (s.logicalOf slot.val / 32)
      t.get f = setBit (s.get f) (s.logicalOf slot.val % 32) true % 2 ^ f.width
      ∧ t.get (Reg.STP_ARRAY_EVAL_BUSY n) = 1 ∧ (t.arrayMeta n).generation = (s.arrayMeta n).generation + 1
      ∧ ∀ x, t.readByte x = s.readByte x)

/-- Held pieces, escalations, rebuild frontiers and grazing (R102, R150, R154, R163, R167, R168, R172, R174, R179): the shared operation
that each command sets to work, on the state with its own registers written. Log entries 11, 76, 83, 84, 118, 121, 122 and 124 say where
this follows a choice of the model and no rule. -/
def Obligations.RepairCommandsComplete : Prop :=
  (∀ (s : State) (slot : Fin 108), s.lands 0xA0020 = true →
    let t := setF Reg.SAS_WAKE_RETRY_DENY 0 (setF Reg.SAS_WAKE_RETRY_SLOT slot.val (ungate (islandOf 0xA0020) s))
    (t.heldOn slot.val = [] → exec (.wakeRetry slot) s = .next (after t))
    ∧ ∀ n, t.awake slot.val = true → t.heldOn slot.val ≠ [] → t.arrayOf (t.logicalOf slot.val) = some n →
        exec (.wakeRetry slot) s = .next (after (forEach (t.heldOn slot.val) servePiece (stat n 10 1 t))))
  ∧ (∀ (s : State) (slot : Fin 108), s.lands 0xA0020 = true → s.heldOn slot.val = [] →
    EndsBy after (.wakeDeny slot) s fun t =>
      t.get Reg.SAS_WAKE_RETRY_DENY = 1 ∧ t.get Reg.SAS_WAKE_RETRY_SLOT = slot.val
      ∧ Keeps [Reg.SAS_WAKE_RETRY_DENY, Reg.SAS_WAKE_RETRY_SLOT] s t)
  ∧ (∀ (s : State) (slot : Fin 108) (p : Nat) (x : Piece), s.lands 0xA0020 = true → s.heldOn slot.val = [p] → s.piece? p = some x →
    let t := setF Reg.SAS_WAKE_RETRY_DENY 1 (setF Reg.SAS_WAKE_RETRY_SLOT slot.val (ungate (islandOf 0xA0020) s))
    exec (.wakeDeny slot) s = .next (after (pieceEnds p St.budgetDenied (stat x.array 11 1 t))))
  ∧ (∀ (s : State) (n : Fin 4), s.lands (0x40100 + 0x20 * n.val) = true →
    exec (.planRetry n) s = .next (after (retryHeld n.val (ungate (islandOf (0x40100 + 0x20 * n.val)) s))))
  ∧ (∀ (s : State) (piece p : Nat) (x : Piece) (reads : RowReads), s.lands 0xA00D4 = true →
      s.sas.pieces.find? (fun p => p.2.state == 6 && p.1 % 2 ^ 24 == piece % 2 ^ 24) = some (p, x) →
    let t (o : Nat) : State := setF Reg.SAS_ESC_DONE_OUTCOME o (setF Reg.SAS_ESC_DONE_PIECE piece (ungate (islandOf 0xA00D4) s))
    let m := ((t 0).geo x.array).memberOf x.row (.data x.d)
    let content (i : Nat) : Option (List Block) :=
      ((t 0).geo x.array).contentOf x.row reads ((t 0).erasedIn x.array x.row) x.nblk i
    (∀ data, content m = some data → exec (.escDone piece 0 reads) s
        = .next (after (pieceLanded p data content (useFrees x.nblk (onPiece p (fun y => { y with degraded := true }) (t 0))))))
    ∧ exec (.escDone piece 1 reads) s = .next (after (pieceLost p (t 1)))
    ∧ exec (.escDone piece 2 reads) s
        = .next (after (servePiece p (onPiece p (fun y => { y with failed := [], reason := 0, degraded := false }) (t 2)))))
  ∧ (∀ (s : State) (k : Fin 8), s.lands (0xA0200 + 0x20 * k.val) = true →
    (Ends (.frontierEnable k true) s fun t =>
      t.get (Reg.SAS_RBD_CFG_ENABLE k.val) = 1 ∧ t.get (Reg.SAS_RBD_CFG_DONE k.val) = 0 ∧ t.win k.val = 0
      ∧ Keeps [Reg.SAS_RBD_CFG_ENABLE k.val, Reg.SAS_RBD_CFG_DONE k.val, Reg.SAS_RBD_WIN_LO_WIN k.val, Reg.SAS_RBD_WIN_HI_WIN k.val] s t)
    ∧ (EndsBy after (.frontierEnable k false) s fun t =>
      t.get (Reg.SAS_RBD_CFG_ENABLE k.val) = 0 ∧ Keeps [Reg.SAS_RBD_CFG_ENABLE k.val] s t))
  ∧ (∀ (s : State) (k : Fin 8) (row : Nat) (reads : RowReads), s.nextRow k.val = some row → s.mayRebuild k.val row = true →
      let n := s.get (Reg.SAS_RBD_CFG_ARRAY k.val)
      let m := s.frontMember k.val
      let unit := (s.geo n).rebuilt row reads (s.erasedIn n row) m
      (s.frontDrives k.val row).filter (fun p => !s.awake p) = [] →
      (s.on (Reg.SAS_RBD_CFG_MODE k.val) = true ∨ s.inLoss n row m = false) →
      (∀ x ∈ unit, x.1.isSome = true) → (s.geo n).badBlocks reads (s.erasedIn n row) (s.geo n).unitBlocks = [] →
    EndsBy after (.rebuildRow k reads) s fun t =>
      t = startRepair { array := n, row := row, writes := [(m, 0, unit.map (fun x => x.2))], frontier := some k.val } s)
  ∧ (∀ (s : State) (k : Fin 8) (row : Nat) (reads : RowReads), s.nextRow k.val = some row → s.mayRebuild k.val row = true →
      let n := s.get (Reg.SAS_RBD_CFG_ARRAY k.val)
      (s.frontDrives k.val row).filter (fun p => !s.awake p) = [] →
      s.on (Reg.SAS_RBD_CFG_MODE k.val) = false → s.inLoss n row (s.frontMember k.val) = true →
    EndsBy after (.rebuildRow k reads) s fun t =>
      t = queueUpdates [s.lostRowUpdate n row (s.lostUnits n row)] (loseUnits n row (s.lostUnits n row) s))
  ∧ (∀ (s : State) (k : Fin 8) (row : Nat) (reads : RowReads), s.nextRow k.val = some row → s.mayRebuild k.val row = true →
      let asleep := (s.frontDrives k.val row).filter (fun p => !s.awake p)
      asleep ≠ [] → exec (.rebuildRow k reads) s = .next (after (forEach asleep wakeSlot s)))
  ∧ (∀ (s : State) (k : Fin 8), s.on (Reg.SAS_RBD_CFG_ENABLE k.val) = true →
    Ends (.rebuildCheckpoint k) s fun t =>
      Assoc.find t.sas.checkpoints k.val = some (s.front k.val) ∧ Assoc.find t.sas.lastCheckpoint k.val = some s.clock
      ∧ Keeps [Reg.FOV_MIR_TX_CNT] s t)
  ∧ (∀ (s : State) (n : Fin 4) (k : Fin 8), s.mayGraze n.val (some k.val) = true →
      s.membersAwake n.val ((s.geo n.val).grazed (some k.val)) = true →
    EndsBy after (.grazeStep n (some k) [] []) s fun t =>
      Assoc.getD (t.care n.val).next k.val 0
        = (if Assoc.getD (s.care n.val).next k.val 0 + 64 < (s.geo n.val).rows then Assoc.getD (s.care n.val).next k.val 0 + 64 else 0)
      ∧ Keeps [Reg.FOV_MIR_TX_CNT] s t)
  ∧ (∀ (s : State) (n : Fin 4) (k : Fin 9),
    Ends (.grazeResume n k) s fun t =>
      k.val ∉ (t.care n.val).yielded
      ∧ (∀ j, j ≠ k.val → (j ∈ (t.care n.val).yielded ↔ j ∈ (s.care n.val).yielded)) ∧ Keeps [] s t)
  ∧ (∀ (s : State) (n : Fin 4) (k : Fin 8),
    Ends (.grazeOverdue n k false) s fun t =>
      (k.val ∈ (t.care n.val).overdue ↔ s.on (Reg.STP_ARRAY_CFG_VALID n.val) = true ∧ s.grazeOverdue n.val k.val = true)
      ∧ Keeps [] s t)

/-- Writes on their way into the cache (R113, R115, R116, R183, R193): data taken in, the commit, and the level registers. Log entries 10,
15, 20, 30, 79, 91 and 105 say where this follows a choice of the model and no rule. -/
def Obligations.WritePathCompletes : Prop :=
  (∀ (s : State) (qid cid n : Nat) (c : Cmd) (blocks : List HostBlock), s.cmdOf qid cid = some (n, c) →
      c.begun = true → c.held = false → c.e.opcode = 0x21 → c.moved = false → s.masters = true → s.admitStop = false →
      blocks.length = c.e.nlbM1 + 1 → bitOf c.e.flags 1 = 0 → s.armed 3 = false → s.cmd? n = some c →
    Ends (.hostDataIngest qid cid blocks) s fun t =>
      (∃ d, t.cmd? n = some d ∧ d.moved = true ∧ d.buf.map (fun l => l.2.data) = blocks.map (fun b => b.data) ∧ d.e = c.e)
      ∧ Keeps [] s t)
  ∧ (∀ (s : State) (qid cid fails n : Nat) (c : Cmd), s.cmdOf qid cid = some (n, c) → c.e.opcode = 0x21 → c.moved = true →
      c.committed = false → s.jnl.toWt = false → s.mustFollow n c.e.vol c.e.slba (c.e.nlbM1 + 1) = false →
      s.writeRefused c.e.vol c.e.slba (c.e.nlbM1 + 1) = false →
      (s.get Reg.JNL_STATUS_LEVEL = 1 → s.stagingFits ((c.e.nlbM1 + 2) * (fails + 1) - 1) = true ∧ ∀ l ∈ c.buf, l.2.bad = false) →
    exec (.writeCommit qid ⟨cid, fails⟩) s
      = .next (after (endWrite n (onCmd n (fun x => { x with buf := [] })
          (commitBlocks n c.e.vol c.e.slba (c.buf.map Prod.snd) (bitOf c.e.flags 2 == 1) fails s)))))
  ∧ (∀ (s : State) (v : Bool), s.lands 0x50000 = true →
    EndsBy reselect (.forceWtWrite v) s fun t =>
      t.on Reg.JNL_CTRL_FORCE_WT = v ∧ Keeps [Reg.JNL_CTRL_FORCE_WT] s t)
  ∧ (∀ (s : State), s.jnl.toWt = true → s.allClean = true →
    EndsBy (fun t => finishAll (releaseHeld t).cmd.wtCmds St.success 0
        { releaseHeld t with cmd := { (releaseHeld t).cmd with wtCmds := [] } }) .writeThroughReached s fun t =>
      t = setLevel 2 { s with jnl := { s.jnl with toWt := false } } ∧ t.jnl.toWt = false ∧ t.get Reg.JNL_STATUS_LEVEL = 2)
  ∧ (∀ (s : State) (qid cid n : Nat) (c : Cmd), s.cmdOf qid cid = some (n, c) → s.jnl.toWt = true →
      c.e.opcode ∈ [0x21, 0x24, 0x25] → c.committed = false →
    EndsBy (fun t => after (finish n St.budgetDenied 0 t)) (.wtHoldTimeout qid cid) s fun t =>
      (∀ p ∈ t.sas.pieces, p.2.cmd ≠ n) ∧ (∀ x ∈ t.fab.copies, x.cmd ≠ n) ∧ Keeps [] s t)
  ∧ (∀ (s : State) (v : Bool), s.lands 0x50000 = true → s.on Reg.JNL_CTRL_PACK_HEALTHY ≠ v →
    EndsBy (fun t => after (reselect t)) (.packHealthyWrite v) s fun t =>
      t.on Reg.JNL_CTRL_PACK_HEALTHY = v ∧ Keeps [Reg.JNL_CTRL_PACK_HEALTHY] s t)
  ∧ (∀ (s : State), s.lands 0x50000 = true → s.partnerLive = false →
    EndsBy (fun t => after (loopAtOnce (reselect t))) (.partnerLiveWrite true) s fun t =>
      t.partnerLive = true ∧ Keeps [Reg.JNL_CTRL_PARTNER_LIVE] s t)
  ∧ (∀ (s : State), s.lands 0x50000 = true → s.partnerLive = true →
    EndsBy (fun t => after (loopAtOnce (settleWaiting (reselect t)))) (.partnerLiveWrite false) s fun t =>
      t.partnerLive = false ∧ Keeps [Reg.JNL_CTRL_PARTNER_LIVE] s t)
  ∧ (∀ (s : State), s.lands 0x50000 = true →
    EndsBy (fun t => after (retryIntents t)) .replayDoneWrite s fun t =>
      t.get Reg.JNL_CTRL_REPLAY_DONE = 1 ∧ Keeps [Reg.JNL_CTRL_REPLAY_DONE] s t)
  ∧ (∀ (s : State) (k : Fin 8), s.lands 0x60004 = true →
    Ends (.intInject k) s fun t =>
      t.get Reg.INT_INJECT_KIND = k.val ∧ t.on Reg.INT_INJECT_GO = (k.val != 0 && k.val != 7)
      ∧ Keeps [Reg.INT_INJECT_KIND, Reg.INT_INJECT_GO] s t)

/-- Write-back, row locks and intents (R120, R121, R124, R126, R129, R132): what each command sets to work once its rule's conditions
hold. Log entries 10, 79, 80, 82, 101, 102, 103, 104 and 106 say where this follows a choice of the model and no rule. -/
def Obligations.WritebackCompletes : Prop :=
  (∀ (s : State) (n : Fin 4) (row : Nat), s.rowLines n.val row ≠ [] →
    Ends (.writebackAgeExpiry n row) s fun t => rowKey n.val row ∈ t.jnl.dueRows ∧ t.rowDue n.val row = true ∧ Keeps [] s t)
  ∧ (∀ (s : State) (n : Fin 4) (row : Nat), s.rowDue n.val row = true → s.rowLines n.val row ≠ [] → s.rowGated n.val row = false →
      s.serviceHolds = false →
    exec (.writebackStart n row) s = .next (after (startRow n.val row s)))
  ∧ (∀ (s : State) (n : Fin 4) (row u : Nat) (x : Update) (rest : List LockUser),
      s.lockOf (rowKey n.val row) = (none, .update u :: rest) → s.locksHeld < 65536 → s.serviceHolds = false → s.update? u = some x →
      (∀ m ∈ s.updateNeeds x, s.liveMember n.val row m = true → s.awakeMember n.val m = true) →
    EndsBy (fun t => after (grantUpdate u t)) (.rowLockGrant n row) s fun t =>
      t.lockOf (rowKey n.val row) = (some (.update u), rest) ∧ Keeps [] s t)
  ∧ (∀ (s : State) (n : Fin 4) (row r : Nat) (rest : List LockUser), s.lockOf (rowKey n.val row) = (none, .repair r :: rest) →
      s.locksHeld < 65536 → s.serviceHolds = false →
    EndsBy (fun t => after (beginRepair r t)) (.rowLockGrant n row) s fun t =>
      t.lockOf (rowKey n.val row) = (some (.repair r), rest) ∧ Keeps [] s t)
  ∧ (∀ (s : State) (i u : Nat) (x : Update), s.jnl.updates.find? (fun p => p.2.head == some i && p.2.step == 2) = some (u, x) →
      s.partnerLive = false → exec (.intentLanded i) s = .next (issueJob u s))
  ∧ (∀ (s : State) (i u : Nat) (x y : Update), s.jnl.updates.find? (fun p => p.2.head == some i && p.2.step == 2) = some (u, x) →
      s.partnerLive = true → s.update? u = some y →
    Ends (.intentLanded i) s fun t => t.update? u = some { y with step := 3 } ∧ Keeps [] s t)
  ∧ (∀ (s : State) (i : Nat), s.retirable i = true →
    exec (.intentRetire i) s = .next (after (retireIntent i s)))
  ∧ (∀ (s : State) (k : Fin 4), s.lands 0x50024 = true →
    EndsBy allocRun (.jnlAlloc k) s fun t =>
      t.get Reg.JNL_ALLOC_NEXT = k.val ∧ t.get Reg.JNL_ALLOC_GO = 1 ∧ t.get Reg.JNL_ALLOC_RES_VALID = 0
      ∧ Keeps [Reg.JNL_ALLOC_NEXT, Reg.JNL_ALLOC_GO, Reg.JNL_ALLOC_RES_VALID] s t)
  ∧ (∀ (s : State), s.modeIn [Mode.waking, Mode.takeover] = true → s.on Reg.JNL_CTRL_REPLAY_DONE = false →
      s.on Reg.FOV_CTRL_HOLD = false → s.jnl.intents = [] → s.jnl.staging = [] → s.jnl.images = [] →
      (∀ d ∈ s.fab.deltas, d.freed = true ∨ s.deltaGood d = true) →
    EndsBy (fun t => after (retryIntents (unexpose t))) (.journalReplay [] [] [] [] none) s fun t =>
      t.get Reg.JNL_CTRL_REPLAY_DONE = 1 ∧ t.fov.replayed = true
      ∧ t.get Reg.JNL_SEQ_SEQ = (s.highestSeq + 1) % 2 ^ Reg.JNL_SEQ_SEQ.width
      ∧ t.jnl.images = [] ∧ (∀ a, t.readByte a = s.readByte a))
  ∧ (∀ (s : State) (qid cid n : Nat) (c : Cmd), s.cmdOf qid cid = some (n, c) → s.cmd? n = some c → c.e.opcode = 0x20 →
      c.split = true → c.pieces = 0 → s.masters = true → (∀ b ∈ c.buf, b.2.bad = false) →
    EndsBy (fun t => after (finish n c.status c.result t)) (.hostDataEgress qid cid [] []) s fun t =>
      t.get Reg.INT_BLOCKS_CHECKED_CNT = (s.get Reg.INT_BLOCKS_CHECKED_CNT + c.buf.length) % 2 ^ 32
      ∧ t = forEach c.buf (fun b u => scatter (hostParts c.e) ((if bitOf c.e.flags 1 = 1 then 4112 else 4096) * b.1)
          (hostBytes c.e b.1 b.2.data) u) (bumpBy Reg.INT_BLOCKS_CHECKED_CNT c.buf.length s))

/-- Line, converter and overload (R291 to R295, R301): what each event writes before the host is told (R282). Log entries 11 and 86 say
where this follows a choice of the model and no rule. -/
def Obligations.ConverterCommandsComplete : Prop :=
  (∀ (s : State) (vrms freq : Nat) (inlet : Int), s.on Reg.PWR_STATUS_MAINS_OK = true →
    Ends (.lineEvaluation vrms freq inlet) s fun t =>
      t.get Reg.PWR_STATUS_LINE_RANGE = (if 1780 ≤ vrms ∨ (s.get Reg.PWR_STATUS_LINE_RANGE = 2 ∧ 1720 ≤ vrms) then 2 else 1)
      ∧ t.get Reg.PWR_CAP_CAP_W = capability (t.get Reg.PWR_STATUS_LINE_RANGE) inlet % 2 ^ Reg.PWR_CAP_CAP_W.width
      ∧ t.on Reg.PWR_STATUS_DERATING = decide (600 < inlet) ∧ ∀ x, t.readByte x = s.readByte x)
  ∧ (∀ (s : State), s.on Reg.PWR_STATUS_MAINS_OK = true → s.mode = Mode.destaging → (∀ n ∈ allSlots, s.slotOn n = false) →
    EndsBy (fun t => hostEvent 5 (logPlain 4 [] (fanSettleAll t))) .mainsLost s fun t =>
      t.get Reg.PWR_STATUS_MAINS_OK = 0 ∧ t.get Reg.PWR_CTRL_CONV_EN = 0 ∧ t.get Reg.PWR_STATUS_CONV_STATE = 0
      ∧ t.get Reg.PWR_EVENT_MAINS_LOST = 1
      ∧ Keeps [Reg.PWR_STATUS_MAINS_OK, Reg.PWR_CTRL_CONV_EN, Reg.PWR_STATUS_CONV_STATE, Reg.PWR_EVENT_MAINS_LOST,
          Reg.PWR_MAINS_LOST_CNT] s t)
  ∧ (∀ (s : State), s.on Reg.PWR_STATUS_MAINS_OK = false →
    EndsBy (fun t => softStart (hostEvent 5 t)) .mainsReturn s fun t =>
      t.get Reg.PWR_STATUS_MAINS_OK = 1 ∧ t.get Reg.PWR_EVENT_MAINS_RETURN = 1
      ∧ Keeps [Reg.PWR_STATUS_MAINS_OK, Reg.PWR_EVENT_MAINS_RETURN, Reg.PWR_MAINS_RETURN_CNT] s t)
  ∧ (∀ (s : State), s.busUp = true →
    EndsBy (hostEvent 5) .converterOverload s fun t =>
      t.get Reg.PWR_STATUS_CONV_STATE = 3 ∧ t.get Reg.PWR_STATUS_OVERLOAD = 1 ∧ t.get Reg.PWR_EVENT_OVERLOAD = 1
      ∧ t.get Reg.PWR_OVERLOAD_CNT = (s.get Reg.PWR_OVERLOAD_CNT + 1) % 2 ^ 32
      ∧ Keeps [Reg.PWR_STATUS_CONV_STATE, Reg.PWR_STATUS_OVERLOAD, Reg.PWR_EVENT_OVERLOAD, Reg.PWR_OVERLOAD_CNT] s t)
  ∧ (∀ (s : State), s.on Reg.PWR_STATUS_OVERLOAD = true → s.get Reg.PWR_STATUS_CONV_STATE = 3 →
    EndsBy (fun t => setF Reg.PWR_STATUS_CONV_STATE 2 (hostEvent 5 t)) .overloadClear s fun t =>
      t.get Reg.PWR_STATUS_OVERLOAD = 0 ∧ Keeps [Reg.PWR_STATUS_OVERLOAD] s t)
  ∧ (∀ (s : State), s.lands 0xC0000 = true → s.on Reg.PWR_STATUS_MAINS_OK = true → s.get Reg.PWR_STATUS_CONV_STATE = 0 →
    Ends (.converterEnable true) s fun t =>
      t.get Reg.PWR_CTRL_CONV_EN = 1 ∧ t.get Reg.PWR_STATUS_CONV_STATE = 1
      ∧ Keeps [Reg.PWR_CTRL_CONV_EN, Reg.PWR_STATUS_CONV_STATE] s t)
  ∧ (∀ (s : State), s.lands 0xC0000 = true →
    EndsBy fanSettleAll (.converterEnable false) s fun t =>
      t.get Reg.PWR_CTRL_CONV_EN = 0 ∧ t.get Reg.PWR_STATUS_CONV_STATE = 0 ∧ t.get Reg.PWR_STATUS_OVERLOAD = 0
      ∧ Keeps [Reg.PWR_CTRL_CONV_EN, Reg.PWR_STATUS_CONV_STATE, Reg.PWR_STATUS_OVERLOAD] s t)
  ∧ (∀ (s : State), s.get Reg.PWR_STATUS_CONV_STATE = 1 → s.mode ≠ Mode.waking →
    EndsBy fanSettleAll .converterRegulating s fun t =>
      t.get Reg.PWR_STATUS_CONV_STATE = 2 ∧ Keeps [Reg.PWR_STATUS_CONV_STATE] s t)
  ∧ (∀ (s : State),
    EndsBy (fun t => settle (raiseFault 1 (fanSettleAll (hostEvent 5 t)))) .convFault s fun t =>
      t.get Reg.PWR_STATUS_CONV_STATE = 4 ∧ t.get Reg.PWR_EVENT_CONV_FAULT = 1
      ∧ Keeps [Reg.PWR_STATUS_CONV_STATE, Reg.PWR_EVENT_CONV_FAULT, Reg.PWR_CONV_FAULT_CNT] s t)
  ∧ (∀ (s : State) (v : Bool), s.lands 0xC0000 = true →
    Ends (.standbyOffsetWrite v) s fun t =>
      t.on Reg.PWR_CTRL_STANDBY_OFFSET = v ∧ t.pwr.setpoint = (if v then 11800 else 12000)
      ∧ Keeps [Reg.PWR_CTRL_STANDBY_OFFSET] s t)
  ∧ (∀ (s : State), s.pwr.unmated = false → s.on Reg.FAN_TOKEN_HELD = false → (∀ n ∈ allSlots, s.slotOn n = false) →
    EndsBy (fun t => settle (raiseFault 1 t)) .moduleUnmate s fun t =>
      t.active = false ∧ t.get Reg.FAN_TOKEN_CLAIM = 0 ∧ t.pwr.unmated = true ∧ t.get Reg.PWR_EVENT_CONV_FAULT = 1)
  ∧ (∀ (s : State), s.active = true → s.hif.up = false → s.fov.partnerHost = true →
    exec .hostLinkDownFault s = .next (settle (raiseFault 6 s)))

/-- Slot power (R293, R298, R302, R305, R310): trips, the two gates, the surge and its ends, and shedding. Log entries 11, 50, 55, 96 and
127 say where this follows a choice of the model and no rule. -/
def Obligations.SlotCommandsComplete : Prop :=
  (∀ (s : State) (slot : Fin 108), s.on (Reg.SLT_STATUS_ON12 slot.val) = true →
    EndsBy (failAttempt slot.val) (.slotTrip slot true) s fun t =>
      t.get (Reg.SLT_STATUS_ON12 slot.val) = 0 ∧ t.get (Reg.SLT_STATUS_FAULT12 slot.val) = 1
      ∧ t.get (Reg.SLT_STATUS_COOLDOWN slot.val) = 1 ∧ t.get Reg.SLT_EVENT_FAULT = 1
      ∧ t.get Reg.SLT_FAULT_CNT = (s.get Reg.SLT_FAULT_CNT + 1) % 2 ^ 32
      ∧ Keeps [Reg.SLT_STATUS_ON12 slot.val, Reg.SLT_STATUS_SURGING slot.val, Reg.SLT_STATUS_FAULT12 slot.val,
          Reg.SAS_SLOT_CTRL_AWAKE slot.val, Reg.SLT_STATUS_COOLDOWN slot.val, Reg.SLT_EVENT_FAULT, Reg.SLT_FAULT_CNT] s t)
  ∧ (∀ (s : State) (slot : Fin 108), s.on (Reg.SLT_STATUS_ON5 slot.val) = true →
    EndsBy (failAttempt slot.val) (.slotTrip slot false) s fun t =>
      t.get (Reg.SLT_STATUS_ON5 slot.val) = 0 ∧ t.get (Reg.SLT_STATUS_FAULT5 slot.val) = 1
      ∧ t.get (Reg.SLT_STATUS_COOLDOWN slot.val) = 1 ∧ t.get Reg.SLT_EVENT_FAULT = 1
      ∧ Keeps [Reg.SLT_STATUS_ON5 slot.val, Reg.SLT_STATUS_FAULT5 slot.val, Reg.SAS_SLOT_CTRL_AWAKE slot.val,
          Reg.SLT_STATUS_COOLDOWN slot.val, Reg.SLT_EVENT_FAULT, Reg.SLT_FAULT_CNT] s t)
  ∧ (∀ (s : State) (slot : Fin 108),
    Ends (.cooldownEnd slot) s fun t => t.get (Reg.SLT_STATUS_COOLDOWN slot.val) = 0 ∧ Keeps [Reg.SLT_STATUS_COOLDOWN slot.val] s t)
  ∧ (∀ (s : State) (slot : Fin 108), s.lands (0xB0000 + 8 * slot.val) = true →
    Ends (.slotEnableWrite slot true true) s fun t =>
      t.get (Reg.SLT_CTRL_EN12 slot.val) = 1 ∧ t.get (Reg.SLT_CTRL_EN5 slot.val) = 1 ∧ (∀ x, t.readByte x = s.readByte x))
  ∧ (∀ (s : State) (slot : Fin 108), s.lands (0xB0000 + 8 * slot.val) = true →
    Ends (.slotDisableWrite slot false false) s fun t =>
      t.get (Reg.SLT_CTRL_EN12 slot.val) = 0 ∧ t.get (Reg.SLT_CTRL_EN5 slot.val) = 0 ∧ (∀ x, t.readByte x = s.readByte x))
  ∧ (∀ (s : State) (slot : Fin 108), s.lands (0xB0000 + 8 * slot.val) = true →
    Ends (.spinWrite slot) s fun t =>
      t.get (Reg.SLT_CTRL_SPIN slot.val) = 1 ∧ (t.slot slot.val).order2.isSome = true ∧ Keeps [Reg.SLT_CTRL_SPIN slot.val] s t)
  ∧ (∀ (s : State) (n : Nat), s.head1 = some n → s.gatesOpen = true → s.gate1Fits = true →
    EndsBy sendSlotState .gate1Admit s fun t =>
      (s.on (Reg.SLT_CTRL_EN12 n) = true → bitOf (s.slot n).tripHeld 0 = 0 → t.get (Reg.SLT_STATUS_ON12 n) = 1)
      ∧ (s.on (Reg.SLT_CTRL_EN5 n) = true → bitOf (s.slot n).tripHeld 1 = 0 → t.get (Reg.SLT_STATUS_ON5 n) = 1)
      ∧ (t.slot n).attempting = true ∧ Keeps [Reg.SLT_STATUS_ON12 n, Reg.SLT_STATUS_ON5 n] s t)
  ∧ (∀ (s : State) (n : Nat), s.head2 = some n → s.gatesOpen = true → s.gate2Fits = true →
    Ends .gate2Admit s fun t =>
      t.get (Reg.SLT_STATUS_SURGING n) = 1 ∧ t.out = .drive n .notifySpin 0 0 [] :: s.out ∧ Keeps [Reg.SLT_STATUS_SURGING n] s t)
  ∧ (∀ (s : State) (slot : Fin 108), s.on (Reg.SLT_STATUS_SURGING slot.val) = true →
    EndsBy (failAttempt slot.val) (.spinTimeout slot) s fun t =>
      t.get (Reg.SLT_STATUS_SPIN_TIMEOUT slot.val) = 1 ∧ t.get (Reg.SLT_STATUS_SURGING slot.val) = 0
      ∧ t.get Reg.SLT_EVENT_SPIN_TIMEOUT = 1
      ∧ Keeps [Reg.SLT_STATUS_SPIN_TIMEOUT slot.val, Reg.SLT_STATUS_SURGING slot.val, Reg.SLT_EVENT_SPIN_TIMEOUT,
          Reg.SLT_SPIN_TIMEOUT_CNT] s t)
  ∧ (∀ (s : State) (slot : Fin 108), s.on (Reg.SLT_STATUS_SURGING slot.val) = true →
    EndsBy after (.driveReady slot) s fun t =>
      t.get (Reg.SLT_STATUS_SURGING slot.val) = 0 ∧ t.awake slot.val = true ∧ (t.slot slot.val).attempting = false
      ∧ (t.slot slot.val).attemptFails = 0 ∧ Keeps [Reg.SLT_STATUS_SURGING slot.val, Reg.SAS_SLOT_CTRL_AWAKE slot.val] s t)
  ∧ (∀ (s : State) (slot : Fin 108), (s.slot slot.val).attempting = true → s.on (Reg.SAS_SLOT_STATUS_LINK_UP slot.val) = false →
    exec (.slotLinkTimeout slot) s = .next (failAttempt slot.val s))
  ∧ (∀ (s : State) (slot : Fin 108), s.on (Reg.SLT_STATUS_SURGING slot.val) = true →
    exec (.spinupFailure slot) s = .next (failAttempt slot.val s))
  ∧ (∀ (s : State) (slot : Fin 108), (s.slot slot.val).retryDue = true → s.slotOn slot.val = false →
      s.on (Reg.SLT_STATUS_COOLDOWN slot.val) = false →
    Ends (.spinupRetry slot) s fun t =>
      t.get (Reg.SLT_CTRL_EN12 slot.val) = 1 ∧ t.get (Reg.SLT_CTRL_EN5 slot.val) = 1 ∧ t.get (Reg.SLT_CTRL_SPIN slot.val) = 1
      ∧ (t.slot slot.val).retryDue = false)
  ∧ (∀ (s : State) (slot : Fin 108), (s.slot slot.val).offWait = 3 →
    Ends (.slotOffTimeout slot) s fun t =>
      t.slotOn slot.val = false ∧ t.get (Reg.SLT_STATUS_SURGING slot.val) = 0 ∧ (t.slot slot.val).offWait = 0
      ∧ Keeps [Reg.SLT_STATUS_ON12 slot.val, Reg.SLT_STATUS_ON5 slot.val, Reg.SLT_STATUS_SURGING slot.val,
          Reg.SAS_SLOT_CTRL_AWAKE slot.val] s t)
  ∧ (∀ (s : State) (slot : Fin 108), (s.slot slot.val).stopSent = true →
    Ends (.stopUnitTimeout slot) s fun t =>
      (t.slot slot.val).stopSent = false ∧ t.get (Reg.SLT_CTRL_EN12 slot.val) = 0 ∧ t.get (Reg.SLT_CTRL_EN5 slot.val) = 0)
  ∧ (∀ (s : State) (busLow : Bool) (n : Nat), s.on Reg.PWR_STATUS_OVERLOAD = true → s.on Reg.PWR_CTRL_SHED_EN = true →
      (keepShedOk s).shedNext busLow = some n →
    EndsBy sendSlotState (.slotShed busLow) s fun t =>
      t.slotOn n = false ∧ t.get (Reg.SLT_STATUS_SHED n) = 1 ∧ t.get Reg.SLT_EVENT_SHED = 1
      ∧ t.get (Reg.SLT_CTRL_EN12 n) = 0 ∧ t.get (Reg.SLT_CTRL_EN5 n) = 0)

/-- A failed spin-up attempt (R309): the slot's requests are withdrawn; the first failure leaves a retry due, the second leaves the slot
off. Log entry 50 says where this follows a choice of the model and no rule. -/
def Obligations.FailedAttempt : Prop :=
  ∀ (s : State) (n : Nat), n < 108 → s.arrayOf (s.logicalOf n) = none →
    let t := failAttempt n s
    t.get (Reg.SLT_CTRL_SPIN n) = 0 ∧ t.get (Reg.SLT_CTRL_EN12 n) = 0 ∧ t.get (Reg.SLT_CTRL_EN5 n) = 0
    ∧ t.get (Reg.SLT_STATUS_SURGING n) = 0
    ∧ ((s.slot n).attemptFails = 0 → (t.slot n).retryDue = true ∧ (t.slot n).attemptFails = 1)
    ∧ (1 ≤ (s.slot n).attemptFails → (t.slot n).leftOff = true ∧ (t.slot n).retryDue = false)

/-- The start of a fan channel and its failures (R342 to R349): the state that each event leads to. Log entries 11 and 47 say where this
follows a choice of the model and no rule. -/
def Obligations.FanChannelsComplete : Prop :=
  (∀ (s : State) (c : Fin 6) (x : FocSample), s.fanState c.val = FanSt.run → x.vector < 950 →
      s.on (Reg.FAN_CH_STATE_VOLT_LIMIT c.val) = false →
    let refQ := (s.fanChan c.val).refQ
    let target := 400 * (s.get (Reg.FAN_CH_CFG_FULL_RPM_100 c.val) * 100 * s.fanApplied c.val / 1000)
    let step := max 1 (s.get (Reg.FAN_CH_CFG_ACCEL_100 c.val))
    Ends (.focPeriod c x) s fun t =>
      (t.fanChan c.val).refQ = (if target ≤ refQ then max target (refQ - step) else min target (refQ + step))
      ∧ t.get (Reg.FAN_CH_SPEED_REF c.val) = (t.fanChan c.val).refQ / 400 % 2 ^ (Reg.FAN_CH_SPEED_REF c.val).width
      ∧ t.get (Reg.FAN_CH_ANGLE_ANGLE c.val) = x.angle % 2 ^ (Reg.FAN_CH_ANGLE_ANGLE c.val).width
      ∧ t.get (Reg.FAN_CH_SPEED_RPM c.val) = ofSigned 16 x.rpm % 2 ^ 16 ∧ t.on (Reg.FAN_CH_STATE_DIR c.val) = decide (x.rpm < 0)
      ∧ (2 ≤ b2n x.skipA + b2n x.skipB + b2n x.skipC →
          t.get (Reg.FAN_CH_PRED_CNT c.val) = (s.get (Reg.FAN_CH_PRED_CNT c.val) + 1) % 2 ^ 32)
      ∧ (b2n x.skipA + b2n x.skipB + b2n x.skipC < 2 → t.get (Reg.FAN_CH_PRED_CNT c.val) = s.get (Reg.FAN_CH_PRED_CNT c.val))
      ∧ Keeps [Reg.FAN_CH_ANGLE_ANGLE c.val, Reg.FAN_CH_SPEED_RPM c.val, Reg.FAN_CH_STATE_DIR c.val, Reg.FAN_CH_PRED_CNT c.val,
          Reg.FAN_CH_SPEED_REF c.val] s t)
  ∧ (∀ (s : State) (c : Fin 6),
    Ends (.voltLimitClear c) s fun t =>
      t.get (Reg.FAN_CH_STATE_VOLT_LIMIT c.val) = 0 ∧ Keeps [Reg.FAN_CH_STATE_VOLT_LIMIT c.val] s t)
  ∧ (∀ (s : State) (c : Fin 6), s.fanState c.val = FanSt.run → (s.fanChan c.val).aboveLimit = true →
      (s.within (sec 60) (s.fanChan c.val).losses).length < 2 →
    Ends (.observerLoss c) s fun t =>
      t.fanState c.val = FanSt.coast ∧ t.get Reg.FAN_EVENT_OBS_LOSS = 1
      ∧ (t.fanChan c.val).losses = s.clock :: s.within (sec 60) (s.fanChan c.val).losses
      ∧ Keeps [Reg.FAN_CH_STATE_STATE c.val, Reg.FAN_EVENT_OBS_LOSS, Reg.FAN_OBS_LOSS_CNT, Reg.FAN_CH_LOSS_CNT c.val] s t)
  ∧ (∀ (s : State) (c : Fin 6), s.fanState c.val = FanSt.coast → (s.fanChan c.val).startFails = 0 → s.fanDrive = true →
    Ends (.coastRestart c) s fun t =>
      t.fanState c.val = FanSt.sense
      ∧ t.get (Reg.FAN_CH_DEMAND_DEMAND c.val)
        = max 400 (s.get (Reg.FAN_CH_DEMAND_DEMAND c.val)) % 2 ^ (Reg.FAN_CH_DEMAND_DEMAND c.val).width
      ∧ Keeps [Reg.FAN_CH_STATE_STATE c.val, Reg.FAN_CH_STATE_FAULT_CAUSE c.val, Reg.FAN_CH_DEMAND_DEMAND c.val] s t)
  ∧ (∀ (s : State) (c : Fin 6) (run : Bool), s.lands 0xE010C = true →
    EndsBy (fanSettle c.val) (.fanRunWrite c run) s fun t =>
      t.on (Reg.FAN_CH_CTRL_RUN c.val) = run ∧ Keeps [Reg.FAN_CH_CTRL_RUN c.val] s t)
  ∧ (∀ (s : State) (c : Fin 6) (rpm : Int), s.fanState c.val = FanSt.sense → s.fanDrive = true →
    Ends (.senseDone c rpm) s fun t =>
      (300 < rpm → t.fanState c.val = FanSt.sync)
      ∧ (-60 < rpm → rpm < 60 → t.fanState c.val = FanSt.align)
      ∧ (rpm ≤ -60 ∨ (60 ≤ rpm ∧ rpm ≤ 300) → t.fanState c.val = FanSt.brake)
      ∧ Keeps [Reg.FAN_CH_STATE_STATE c.val, Reg.FAN_CH_SPEED_RPM c.val, Reg.FAN_CH_STATE_DIR c.val] s t)
  ∧ (∀ (s : State) (c : Fin 6), s.fanState c.val = FanSt.brake →
    Ends (.brakeDone c) s fun t => t.fanState c.val = FanSt.align ∧ Keeps [Reg.FAN_CH_STATE_STATE c.val] s t)
  ∧ (∀ (s : State) (c : Fin 6), s.fanState c.val = FanSt.align →
    Ends (.alignDone c) s fun t => t.fanState c.val = FanSt.openRamp ∧ Keeps [Reg.FAN_CH_STATE_STATE c.val] s t)
  ∧ (∀ (s : State) (c : Fin 6), s.fanState c.val = FanSt.openRamp → (s.fanChan c.val).aboveLimit = false →
    Ends (.openRampDone c) s fun t => t.fanState c.val = FanSt.run ∧ (t.fanChan c.val).startFails = 0)
  ∧ (∀ (s : State) (c : Fin 6), s.fanState c.val = FanSt.sync →
    Ends (.syncDone c) s fun t => t.fanState c.val = FanSt.run ∧ (t.fanChan c.val).startFails = 0)
  ∧ (∀ (s : State) (c : Fin 6), s.fanState c.val ∈ startingStates → s.fanDrive = true → (s.fanChan c.val).startFails = 0 →
    Ends (.startFail c) s fun t =>
      t.fanState c.val = FanSt.coast ∧ (t.fanChan c.val).startFails = 1 ∧ t.get Reg.FAN_EVENT_START_FAIL = 1
      ∧ Keeps [Reg.FAN_CH_STATE_STATE c.val, Reg.FAN_EVENT_START_FAIL, Reg.FAN_START_FAIL_CNT] s t)
  ∧ (∀ (s : State) (c : Fin 6), s.fanState c.val = FanSt.coast → (s.fanChan c.val).startFails ≠ 0 → s.fanDrive = true →
    Ends (.startRetry c) s fun t => t.fanState c.val = FanSt.sense ∧ Keeps [Reg.FAN_CH_STATE_STATE c.val] s t)
  ∧ (∀ (s : State) (c : Fin 6), s.fanState c.val = FanSt.run →
    EndsBy (fun t => settle (fanFault c.val 2 t)) (.missingPhase c) s fun t =>
      t.get Reg.FAN_EVENT_MISSING_PHASE = 1 ∧ Keeps [Reg.FAN_EVENT_MISSING_PHASE, Reg.FAN_MISSING_PHASE_CNT] s t)
  ∧ (∀ (s : State) (c : Fin 6), s.fanState c.val ∈ drivingStates →
    EndsBy (fun t => settle (fanFault c.val 4 t)) (.fanOvercurrent c) s fun t =>
      t.get Reg.FAN_OVERCURRENT_CNT = (s.get Reg.FAN_OVERCURRENT_CNT + 1) % 2 ^ 32 ∧ Keeps [Reg.FAN_OVERCURRENT_CNT] s t)
  ∧ (∀ (s : State) (c : Fin 6), s.lands 0xE010C = true → s.fanState c.val = FanSt.fault →
    EndsBy (fanSettle c.val) (.fanRestart c) s fun t =>
      t.fanState c.val = FanSt.off ∧ t.get (Reg.FAN_CH_STATE_FAULT_CAUSE c.val) = 0
      ∧ Keeps [Reg.FAN_CH_STATE_STATE c.val, Reg.FAN_CH_STATE_FAULT_CAUSE c.val] s t)
  ∧ (∀ (s : State) (c : Fin 6), s.fanState c.val = FanSt.fault → (s.within (sec 86400) (s.fanChan c.val).faults).length < 2 →
    EndsBy (fanSettle c.val) (.fanFaultRestart c) s fun t =>
      t.fanState c.val = FanSt.off ∧ t.get (Reg.FAN_CH_STATE_FAULT_CAUSE c.val) = 0
      ∧ Keeps [Reg.FAN_CH_STATE_STATE c.val, Reg.FAN_CH_STATE_FAULT_CAUSE c.val] s t)

/-- The fan token, the demand and the reports (R350 to R355). Log entries 11 and 47 say where this follows a choice of the model and no
rule. -/
def Obligations.FanTokenAndDemandComplete : Prop :=
  (∀ (s : State), s.lands 0xE000C = true → s.on Reg.FAN_TOKEN_HELD = false →
    Ends .fanTokenClaim s fun t =>
      t.get Reg.FAN_TOKEN_CLAIM = 1 ∧ t.get Reg.FAN_TOKEN_REFUSED = 0 ∧ t.fan.claiming = true
      ∧ Keeps [Reg.FAN_TOKEN_CLAIM, Reg.FAN_TOKEN_REFUSED] s t)
  ∧ (∀ (s : State) (l : List Bool), s.fan.claiming = true →
      let need := if s.on Reg.SYS_STRAP_POS then 3 else 2
      (need ≤ l.length → (∀ b ∈ l.take need, b = true) →
        EndsBy fanGain (.fanTokenClaimDone l) s fun t =>
          t.get Reg.FAN_TOKEN_CLAIM = 0 ∧ t.fan.claiming = false ∧ Keeps [Reg.FAN_TOKEN_CLAIM] s t)
      ∧ ((l.length < need ∨ ∃ b ∈ l.take need, b = false) →
        Ends (.fanTokenClaimDone l) s fun t =>
          t.get Reg.FAN_TOKEN_REFUSED = 1 ∧ t.get Reg.FAN_TOKEN_CLAIM = 0 ∧ t.fan.claiming = false
          ∧ t.on Reg.FAN_TOKEN_HELD = s.on Reg.FAN_TOKEN_HELD ∧ Keeps [Reg.FAN_TOKEN_CLAIM, Reg.FAN_TOKEN_REFUSED] s t))
  ∧ (∀ (s : State), s.lands 0xE000C = true → s.on Reg.FAN_TOKEN_HELD = true →
    EndsBy fanSettleAll .fanTokenRelease s fun t =>
      t.get Reg.FAN_TOKEN_HELD = 0 ∧ t.get Reg.FAN_EVENT_TOKEN_CHANGE = 1
      ∧ Keeps [Reg.FAN_TOKEN_HELD, Reg.FAN_EVENT_TOKEN_CHANGE, Reg.FAN_TOKEN_CHANGE_CNT] s t)
  ∧ (∀ (s : State) (low : Bool), s.on Reg.FAN_TOKEN_HELD = false → s.on Reg.FAN_TOKEN_PARTNER ≠ low →
    EndsBy fanSettleAll (.fanTokenLineChange low) s fun t =>
      t.on Reg.FAN_TOKEN_PARTNER = low ∧ t.get Reg.FAN_EVENT_TOKEN_CHANGE = 1
      ∧ Keeps [Reg.FAN_TOKEN_PARTNER, Reg.FAN_EVENT_TOKEN_CHANGE, Reg.FAN_TOKEN_CHANGE_CNT] s t)
  ∧ (∀ (s : State) (c : Fin 6) (v : Nat), s.lands 0xE0108 = true → v < 1024 →
    ∃ u, exec (.fanDemandWrite c v) s = .next (writeDemand c.val v u) ∧ u = ungate (islandOf 0xE0108) s)
  ∧ (∀ (s : State), s.on Reg.FAN_CTRL_WDOG_EN = true →
    Ends .fanWatchdogExpiry s fun t =>
      t.get Reg.FAN_WDOG_EXPIRED = 1 ∧ t.get Reg.FAN_EVENT_WDOG = 1
      ∧ Keeps [Reg.FAN_WDOG_EXPIRED, Reg.FAN_EVENT_WDOG, Reg.FAN_WDOG_CNT] s t)
  ∧ (∀ (s : State) (p : List Nat) (i : List (Nat × (Nat × Nat))),
    Ends (.fanPowerReport p i) s fun t =>
      (∀ c, c < 6 → t.get (Reg.FAN_CH_POWER_P_MEAS_DW c) = p.getD c 0 % 2 ^ (Reg.FAN_CH_POWER_P_MEAS_DW c).width
        ∧ t.get (Reg.FAN_CH_POWER_P_REP_DW c) = s.fanPower c (p.getD c 0) % 2 ^ (Reg.FAN_CH_POWER_P_REP_DW c).width)
      ∧ t.get Reg.PWR_FAN_W_P_FAN_DW
        = (fanChannels.map (fun c => t.get (Reg.FAN_CH_POWER_P_REP_DW c))).sum % 2 ^ Reg.PWR_FAN_W_P_FAN_DW.width
      ∧ ∀ x, t.readByte x = s.readByte x)
  ∧ (∀ (s : State) (r : TempReadings), ∃ u d,
      exec (.fanDemandCompute r) s = .next (forEach fanChannels (fun c v =>
        writeDemand c (max (if v.mode = Mode.waking ∨ v.fanStarting c = true then 400 else 0)
          (max d (v.get (Reg.FAN_CH_DEMAND_DEMAND c) - 10))) v) u)
      ∧ 300 ≤ d ∧ (∀ x ∈ [demandFor (s.fan.limits.getD 1 (0, 1)) r.die, demandFor (s.fan.limits.getD 2 (0, 1)) r.converter,
          demandFor (s.fan.limits.getD 3 (0, 1)) r.inlet, demandFor (s.fan.limits.getD 4 (0, 1)) s.packTemp], x ≤ d)
      ∧ Keeps [] s u)

/-- Beats and their misses (R360, R361, R366): what is sent each 5 ms, and what a good, a bad and a missing beat leave. Log entries 20,
56, 60 and 99 say where this follows a choice of the model and no rule. -/
def Obligations.BeatsComplete : Prop :=
  (∀ (s : State), s.on Reg.FOV_CTRL_HB_EN = true → s.sys.powered = true →
    Ends .beatSend s fun t =>
      (s.mirrorGated = true → t.out = .lineBeat (s.beatWord s.fov.lineSeq) :: s.out ∧ t.fov.mirSeq = s.fov.mirSeq ∧ Keeps [] s t)
      ∧ (s.mirrorGated = false → s.on Reg.FOV_MIR_STATUS_LINK_UP = true → s.on Reg.FOV_MIR_CTRL_ENABLE = true →
          t.out = .mirror .beat (s.mirStream .beat) [s.beatWord s.fov.mirSeq, s.get Reg.JNL_SEQ_SEQ, s.dirtyMib, b2n s.hif.up]
            :: .lineBeat (s.beatWord s.fov.lineSeq) :: s.out
          ∧ t.fov.mirSeq = (s.fov.mirSeq + 1) % 256 ∧ Keeps [Reg.FOV_MIR_TX_CNT] s t)
      ∧ t.fov.lineSeq = (s.fov.lineSeq + 1) % 256 ∧ t.fov.relqLeft = s.fov.relqLeft - 1)
  ∧ (∀ (s : State) (mirror : Bool), (mirror = true → s.mirrorGated = false) →
      s.get (missField (b2n mirror)) + 1 < s.missLimit → s.get (missField (b2n mirror)) < 255 →
      s.pathLost 0 = false ∨ s.pathLost 1 = false ∧ s.mirrorGated = false →
    EndsBy settle (.beatMiss mirror) s fun t =>
      t.get (missField (b2n mirror)) = (s.get (missField (b2n mirror)) + 1) ∧ Keeps [missField (b2n mirror)] s t)
  ∧ (∀ (s : State) (w : Nat), beatCrc (w % 2 ^ 24) = bits w 24 8 → s.pathLost 0 = false →
      bits w 9 1 ≠ s.get Reg.SYS_STRAP_POS → bits w 8 1 = 0 → beatRole w = 1 → beatMode w = Mode.serving →
      s.active = false → s.mode = Mode.standby → s.on Reg.FOV_MIR_STATUS_LINK_UP = true → s.on Reg.FOV_CTRL_STANDBY_ROLE = true →
    EndsBy settle (.lineBeat w) s fun t =>
      t.get Reg.FOV_BEAT_RX_BEAT = w % 2 ^ 32 ∧ t.get Reg.FOV_MISS_LINE_MISS = 0 ∧ t.get Reg.FOV_STATUS_LINE_OK = 1
      ∧ t.fov.heard = true ∧ t.fov.relqHeard = false
      ∧ Keeps [Reg.FOV_BEAT_RX_BEAT, Reg.FOV_MISS_LINE_MISS, Reg.FOV_STATUS_LINE_OK] s t)
  ∧ (∀ (s : State) (w : Nat), beatCrc (w % 2 ^ 24) ≠ bits w 24 8 →
    EndsBy (fun t => settle (missPath 0 t)) (.lineBeat w) s fun t =>
      t.get Reg.FOV_BEAT_CRC_CNT = (s.get Reg.FOV_BEAT_CRC_CNT + 1) % 2 ^ 32 ∧ t.get Reg.FOV_EVENT_BEAT_CRC = 1
      ∧ Keeps [Reg.FOV_BEAT_CRC_CNT, Reg.FOV_EVENT_BEAT_CRC] s t)
  ∧ (∀ (s : State) (w q d : Nat) (up : Bool), s.on Reg.FOV_MIR_STATUS_LINK_UP = true →
    EndsBy (fun t => settle (takeBeat 1 w t)) (.beat w q d up) s fun t =>
      t.get Reg.FOV_MIR_RX_CNT = (s.get Reg.FOV_MIR_RX_CNT + 1) % 2 ^ 32 ∧ t.fov.partnerHost = up
      ∧ Keeps [Reg.FOV_MIR_RX_CNT] s t)

/-- Roles, claims and the keeper (R358, R359, R31, R362, R363). Log entries 20, 57, 58 and 99 say where this follows a choice of the model
and no rule. -/
def Obligations.RoleCommandsComplete : Prop :=
  (∀ (s : State), s.mode = Mode.parked → s.role = 0 → s.sys.firmwareUp = true → s.sys.posConflict = false →
      s.on Reg.RPR_POST_FATAL = false → s.on Reg.FOV_STATUS_ACTIVE_LINE = true →
    EndsBy (fun t => settle (endStart (roleChanged 0 0 t))) .roleTake s fun t =>
      t.get Reg.FOV_CTRL_STANDBY_ROLE = 1 ∧ Keeps [Reg.FOV_CTRL_STANDBY_ROLE] s t)
  ∧ (∀ (s : State), s.mode = Mode.parked → s.role = 0 → s.sys.firmwareUp = true → s.sys.posConflict = false →
      s.on Reg.RPR_POST_FATAL = false → s.on Reg.FOV_STATUS_ACTIVE_LINE = false → s.fov.heard = false →
    Ends .roleTake s fun t =>
      t.get Reg.FOV_CTRL_CLAIM = 1 ∧ t.get Reg.FOV_STATUS_REFUSED = 0
      ∧ (s.on Reg.FAN_TOKEN_HELD = false → t.get Reg.FAN_TOKEN_CLAIM = 1 ∧ t.fan.claiming = true)
      ∧ Keeps [Reg.FOV_CTRL_CLAIM, Reg.FOV_STATUS_REFUSED, Reg.FOV_STATUS_KEEPER_RELEASED, Reg.FAN_TOKEN_CLAIM, Reg.FAN_TOKEN_REFUSED] s t)
  ∧ (∀ (s : State), s.lands 0xF0000 = true → s.active = false → s.sys.posConflict = false →
    Ends .activeClaim s fun t =>
      t.get Reg.FOV_CTRL_CLAIM = 1 ∧ t.get Reg.FOV_STATUS_REFUSED = 0 ∧ t.active = false
      ∧ Keeps [Reg.FOV_CTRL_CLAIM, Reg.FOV_STATUS_REFUSED, Reg.FOV_STATUS_KEEPER_RELEASED] s t)
  ∧ (∀ (s : State) (l : List Bool), s.on Reg.FOV_CTRL_CLAIM = true →
      let need := claimSamples (s.on Reg.SYS_STRAP_POS)
      (need ≤ l.length → (∀ b ∈ l.take need, b = true) →
        EndsBy settle (.activeClaimDone l) s fun t => t.active = true ∧ t.on Reg.FOV_CTRL_CLAIM = false)
      ∧ (l.length < need ∨ (∃ b ∈ l.take need, b = false) → s.mode ≠ Mode.parked →
        EndsBy settle (.activeClaimDone l) s fun t =>
          t.get Reg.FOV_STATUS_REFUSED = 1 ∧ t.get Reg.FOV_CTRL_CLAIM = 0 ∧ t.active = s.active
          ∧ Keeps [Reg.FOV_CTRL_CLAIM, Reg.FOV_STATUS_REFUSED] s t))
  ∧ (∀ (s : State), s.lands 0xF0000 = true → Ends .activeRelease s fun t => t.active = false ∧ ∀ a, t.readByte a = s.readByte a)
  ∧ (∀ (s : State), s.lands 0xF0000 = true → s.active = true →
    Ends .relinquish s fun t =>
      t.active = false ∧ t.fov.relqLeft = 10 ∧ t.fov.lastReason = s.get Reg.FOV_CTRL_REASON ∧ ∀ a, t.readByte a = s.readByte a)
  ∧ (∀ (s : State) (low : Bool), s.on Reg.FOV_STATUS_ACTIVE_LINE ≠ low → s.mode ≠ Mode.parked →
    EndsBy settle (.activeLineChange low) s fun t =>
      t.on Reg.FOV_STATUS_ACTIVE_LINE = low ∧ t.get Reg.FOV_EVENT_ACTIVE_CHANGE = 1
      ∧ t.get Reg.FOV_ACTIVE_CHANGE_CNT = (s.get Reg.FOV_ACTIVE_CHANGE_CNT + 1) % 2 ^ 32
      ∧ Keeps [Reg.FOV_STATUS_ACTIVE_LINE, Reg.FOV_EVENT_ACTIVE_CHANGE, Reg.FOV_ACTIVE_CHANGE_CNT] s t)
  ∧ (∀ (s : State), s.mode = Mode.takeover → s.on Reg.FOV_CTRL_HOLD = false → s.active = true → s.fansCaught = true →
      s.fov.replayed = true → s.jnl.intents = [] →
    EndsBy settle .takeoverComplete s fun t =>
      t.mode = Mode.serving ∧ t.fov.tServing = (s.clock - s.fov.detectedAt) / 1000 ∧ t.cmd.wakeCmds = []
      ∧ ∀ p ∈ t.qmx.cmds, p.2.held = false)
  ∧ (∀ (s : State), s.lands 0xF000C = true → s.sys.config = none → s.cmd.commitCmd = none → s.sys.firmwareUp = true →
    Ends .watchdogKick s fun t =>
      t.get Reg.FOV_STATUS_FW_ALIVE = 1 ∧ t.get Reg.SYS_BOOT_TRIES = 0 ∧ Keeps [Reg.FOV_STATUS_FW_ALIVE, Reg.SYS_BOOT_TRIES] s t)
  ∧ (∀ (s : State), s.on Reg.FOV_STATUS_FW_ALIVE = true →
    Ends .fwWatchdogExpiry s fun t =>
      t.get Reg.FOV_STATUS_FW_ALIVE = 0 ∧ t.get Reg.FOV_EVENT_FW_WDOG = 1
      ∧ t.get Reg.FOV_FW_WDOG_CNT = (s.get Reg.FOV_FW_WDOG_CNT + 1) % 2 ^ 32
      ∧ Keeps [Reg.FOV_STATUS_FW_ALIVE, Reg.FOV_EVENT_FW_WDOG, Reg.FOV_FW_WDOG_CNT] s t)
  ∧ (∀ (s : State), s.on Reg.FOV_STATUS_FW_ALIVE = false → s.active = true ∨ s.on Reg.FAN_TOKEN_HELD = true → s.standbyHeard = true →
    Ends .keeperRelease s fun t =>
      t.active = false ∧ t.get Reg.SAS_CTRL_ENABLE = 0 ∧ t.get Reg.PWR_CTRL_STANDBY_OFFSET = 1 ∧ t.get Reg.FOV_CTRL_REASON = 8
      ∧ t.get Reg.FOV_STATUS_KEEPER_RELEASED = 1 ∧ t.on Reg.FAN_TOKEN_HELD = false ∧ t.sas.cmds = []
      ∧ t.get Reg.FOV_KEEPER_RELEASE_CNT = (s.get Reg.FOV_KEEPER_RELEASE_CNT + 1) % 2 ^ 32)

/-- The planned handover, the revert and HOLD (R370 to R375). Log entries 20 and 57 say where this follows a choice of the model and no
rule. -/
def Obligations.HandoverCommandsComplete : Prop :=
  (∀ (s : State), s.mode = Mode.standby → s.fov.handover = 0 →
    Ends .handoverBegin s fun t =>
      t.fov.handover = 3 ∧ t.get Reg.PWR_CTRL_STANDBY_OFFSET = 0 ∧ t.pwr.setpoint = 12000
      ∧ Keeps [Reg.PWR_CTRL_STANDBY_OFFSET, Reg.FOV_MIR_RX_CNT] s t)
  ∧ (∀ (s : State), s.fov.handover = 3 →
    (EndsBy (sendMir .handover [2]) (.powerCheck true) s fun t => t.fov.handover = 4 ∧ Keeps [] s t)
    ∧ EndsBy (fun t => settle (enterService 0 t)) (.powerCheck false) s fun t =>
      t.fov.handover = 0 ∧ t.fov.powerFaults = s.fov.powerFaults + 1 ∧ t.fov.lastAbandon = 1
      ∧ t.get Reg.PWR_CTRL_STANDBY_OFFSET = 1 ∧ Keeps [Reg.PWR_CTRL_STANDBY_OFFSET, Reg.FOV_MIR_TX_CNT] s t)
  ∧ (∀ (s : State), s.fov.handover = 1 → s.fov.toService = false →
    EndsBy settle .handoverPowerOk s fun t =>
      t.mode = Mode.standby ∧ t.active = false ∧ t.get Reg.FOV_CTRL_STANDBY_ROLE = 1 ∧ t.get Reg.PWR_CTRL_STANDBY_OFFSET = 1
      ∧ t.fov.handover = 0 ∧ t.fov.handovers = s.fov.handovers + 1 ∧ t.fov.fetchStopped = false ∧ t.sas.cmds = [])
  ∧ (∀ (s : State), s.fov.handover = 1 →
    EndsBy (fun t => settle (abandonHandover 1 t)) .handoverPowerFail s fun t =>
      t.fov.handover = 1 ∧ Keeps [Reg.FOV_MIR_RX_CNT] s t)
  ∧ (∀ (s : State), s.fov.handover = 1 → s.cmd.roleCmds = [] →
    (abandonHandover 1 s).fov.handover = 0 ∧ (abandonHandover 1 s).fov.fetchStopped = false
      ∧ (abandonHandover 1 s).fov.lastAbandon = 1 ∧ (abandonHandover 1 s).get Reg.PWR_CTRL_STANDBY_OFFSET = 0
      ∧ Keeps [Reg.PWR_CTRL_STANDBY_OFFSET] s (abandonHandover 1 s))
  ∧ (∀ (s : State), s.fov.handover = 4 →
    EndsBy settle .handoverCommit s fun t =>
      t.mode = Mode.takeover ∧ t.get Reg.JNL_CTRL_REPLAY_DONE = 0 ∧ t.get Reg.PWR_CTRL_STANDBY_OFFSET = 0
      ∧ t.fov.handover = 0 ∧ t.fov.handovers = s.fov.handovers + 1 ∧ t.fov.takeovers = s.fov.takeovers)
  ∧ (∀ (s : State) (tested persists : Bool), s.mayExchange = true →
    Ends (.revertHoldoffExpiry tested persists) s fun t =>
      t.active = false ∧ t.on Reg.FOV_CTRL_STANDBY_ROLE = true ∧ t.on Reg.FAN_TOKEN_HELD = false)
  ∧ (∀ (s : State) (tested persists : Bool), s.mayExchange = false → s.fov.holdoffStart.isSome = true → s.fov.handover = 0 →
    EndsBy settle (.revertHoldoffExpiry tested persists) s fun t =>
      t.fov.holdoffStart = none ∧ t.fov.holdoffOver = true
      ∧ t.fov.handoverDue = (s.mayRevert tested persists || s.fov.handoverDue) ∧ Keeps [] s t)
  ∧ (∀ (s : State), Ends .swapDue s fun t => t.fov.swapDue = true ∧ Keeps [] s t)
  ∧ (∀ (s : State), s.inHold 1 = true →
    EndsBy settle (.holdSelfCheck true) s fun t =>
      t.mode = Mode.takeover ∧ t.get Reg.FOV_CTRL_HOLD = 0 ∧ t.get Reg.FAN_CTRL_FIXED_EN = 0 ∧ t.fov.holdCause = 0)
  ∧ (∀ (s : State), s.inHold 1 = true → Ends (.holdSelfCheck false) s fun t => t = s)
  ∧ (∀ (s : State), s.inHold 2 = true →
    EndsBy (fun t => settle (imageLost t)) .holdUnsyncedTimeout s fun t =>
      t.mode = Mode.takeover ∧ t.get Reg.FOV_CTRL_HOLD = 0 ∧ t.get Reg.FAN_CTRL_FIXED_EN = 0 ∧ t.fov.holdCause = 0)

/-- The mirror link and its messages (R366, R367, R116, R117, R193, R302). Log entries 20, 50, 59, 91, 107, 127 and 134 say where this
follows a choice of the model and no rule. -/
def Obligations.MirrorCommandsComplete : Prop :=
  (∀ (s : State), s.on Reg.FOV_MIR_STATUS_LINK_UP = true →
    EndsBy (fun t => settle (partnerGone t)) .mirrorLinkDown s fun t =>
      t.get Reg.FOV_MIR_STATUS_LINK_UP = 0 ∧ t.get Reg.FOV_MIR_STATUS_LANES = 0 ∧ t.get Reg.FOV_MIR_CTRL_RESYNC_DONE = 0
      ∧ t.get Reg.FOV_MIR_LINK_DOWN_CNT = (s.get Reg.FOV_MIR_LINK_DOWN_CNT + 1) % 2 ^ 32 ∧ t.fov.resyncing = false)
  ∧ (∀ (s : State) (n : Fin 13), s.on Reg.FOV_MIR_CTRL_ENABLE = true →
    Ends (.mirrorLinkUp n) s fun t =>
      t.get Reg.FOV_MIR_STATUS_LINK_UP = 1 ∧ t.get Reg.FOV_MIR_STATUS_LANES = n.val
      ∧ Keeps [Reg.FOV_MIR_STATUS_LINK_UP, Reg.FOV_MIR_STATUS_LANES] s t)
  ∧ (∀ (s : State) (key sc : Nat) (b : Block), s.on Reg.FOV_MIR_STATUS_LINK_UP = true → s.fov.commitsDue = [] →
    (crc32c (leBytes 4096 b) = sc →
      EndsBy settle (.data [(key, (b, sc))]) s fun t =>
        Assoc.find t.fov.received key = some { data := b, mirrored := true, since := s.clock } ∧ Keeps [Reg.FOV_MIR_RX_CNT] s t)
    ∧ (crc32c (leBytes 4096 b) ≠ sc → s.on Reg.FOV_MIR_CTRL_ENABLE = true →
      EndsBy settle (.data [(key, (b, sc))]) s fun t =>
        t.fov.received = s.fov.received ∧ Assoc.getD t.fov.naks key 0 = 1
        ∧ t.out = .mirror .blockNak (s.mirStream .blockNak) [key] :: s.out
        ∧ Keeps [Reg.FOV_MIR_RX_CNT, Reg.FOV_MIR_TX_CNT] s t))
  ∧ (∀ (s : State) (n : Nat), s.on Reg.FOV_MIR_STATUS_LINK_UP = true →
    (s.fov.naks = [] → s.fov.commitsDue = [] → s.on Reg.FOV_MIR_CTRL_ENABLE = true →
      EndsBy settle (.commit n) s fun t =>
        t.fov.received = [] ∧ t.jnl.lines = s.fov.received.foldl (fun m l => Assoc.set m l.1 l.2) s.jnl.lines
        ∧ t.out = .mirror .commitAck (s.mirStream .commitAck) [n] :: s.out ∧ Keeps [Reg.FOV_MIR_RX_CNT, Reg.FOV_MIR_TX_CNT] s t)
    ∧ (s.fov.naks ≠ [] →
      EndsBy settle (.commit n) s fun t =>
        t.fov.commitsDue = s.fov.commitsDue ++ [n] ∧ t.jnl.lines = s.jnl.lines ∧ t.out = s.out ∧ Keeps [Reg.FOV_MIR_RX_CNT] s t))
  ∧ (∀ (s : State) (n : Nat), s.on Reg.FOV_MIR_STATUS_LINK_UP = true → s.jnl.flights = [] →
    EndsBy (fun t => settle (after t)) (.commitAck n) s fun t =>
      t.jnl.commitAcked = max n s.jnl.commitAcked ∧ Keeps [Reg.FOV_MIR_RX_CNT] s t)
  ∧ (∀ (s : State) (i : Nat) (e : List Nat), s.on Reg.FOV_MIR_STATUS_LINK_UP = true → e.length = 256 →
      (∀ b ∈ e, b < 256) →
    EndsBy (fun t => settle (sendMir .intentAck [i] t)) (.intent i e) s fun t =>
      t.readBytes (entryAt i) 256 = e ∧ (∀ x, x < entryAt i ∨ entryAt i + 256 ≤ x → t.readByte x = s.readByte x)
      ∧ (e.getD 0 0 = 0 → Assoc.find t.jnl.intents i = none)
      ∧ (e.getD 0 0 ∈ [1, 2, 3] → t.entryGood i = true → Assoc.find t.jnl.intents i = some (t.parseIntent i)))
  ∧ (∀ (s : State) (i : Nat), s.on Reg.FOV_MIR_STATUS_LINK_UP = true → s.jnl.updates = [] →
    EndsBy settle (.intentAck i) s fun t =>
      t.get Reg.FOV_MIR_RX_CNT = (s.get Reg.FOV_MIR_RX_CNT + 1) % 2 ^ 32 ∧ Keeps [Reg.FOV_MIR_RX_CNT] s t)
  ∧ (∀ (s : State) (mib : Nat) (h : Bool), s.on Reg.FOV_MIR_STATUS_LINK_UP = true → s.partnerLive = true →
    EndsBy settle (.ceiling mib h) s fun t =>
      t.jnl.partnerCeiling = mib ∧ t.jnl.partnerPackHealthy = h
      ∧ (s.packHealthy = true ∨ h = true → t.get Reg.JNL_CEILING_CEIL_MIB = max s.ownCeiling mib % 2 ^ Reg.JNL_CEILING_CEIL_MIB.width)
      ∧ Keeps [Reg.FOV_MIR_RX_CNT, Reg.FOV_MIR_TX_CNT, Reg.JNL_CEILING_CEIL_MIB] s t)
  ∧ (∀ (s : State) (a b c d : Nat), s.on Reg.FOV_MIR_STATUS_LINK_UP = true → s.mode = Mode.standby →
    EndsBy (fun t => settle (sendMir .slotAck [t.onBits] t)) (.slotState a b c d) s fun t =>
      (∀ n ∈ allSlots, t.get (Reg.SLT_CTRL_EN12 n) = bitOf a n ∧ t.get (Reg.SLT_CTRL_EN5 n) = bitOf b n
        ∧ t.get (Reg.SLT_CTRL_SPIN n) = bitOf c n ∧ t.get (Reg.SAS_SLOT_CTRL_AWAKE n) = bitOf d n)
      ∧ ∀ x, t.readByte x = s.readByte x)
  ∧ (∀ (s : State), s.active = true → s.on Reg.FOV_MIR_STATUS_LINK_UP = true → s.on Reg.FOV_MIR_CTRL_ENABLE = true →
    Ends .slotStateSend s fun t => t.out = .mirror .slotState (s.mirStream .slotState) s.slotState :: s.out ∧ Keeps [Reg.FOV_MIR_TX_CNT] s t)
  ∧ (∀ (s : State) (on' : Nat), s.on Reg.FOV_MIR_STATUS_LINK_UP = true → (∀ n ∈ allSlots, (s.slot n).offWait = 0) →
    EndsBy settle (.slotAck on') s fun t =>
      (∀ n ∈ allSlots, t.get (Reg.SLT_STATUS_PARTNER_ON n) = bitOf on' n)
      ∧ Keeps (Reg.FOV_MIR_RX_CNT :: allSlots.map Reg.SLT_STATUS_PARTNER_ON ++ allSlots.map Reg.SAS_SLOT_CTRL_AWAKE) s t)
  ∧ (∀ (s : State) (l : List (Nat × Nat)), s.on Reg.FOV_MIR_STATUS_LINK_UP = true →
    EndsBy settle (.fanState l) s fun t =>
      (∀ c a v, c < 6 → l[c]? = some (a, v) → (t.fanChan c).loadAngle = a ∧ (t.fanChan c).loadVec = v)
      ∧ Keeps [Reg.FOV_MIR_RX_CNT] s t)
  ∧ (∀ (s : State), s.active = true →
    EndsBy (sendMir .fanState (fanChannels.flatMap (fun c => [(s.fanChan c).loadAngle, (s.fanChan c).loadVec]))) .fanStateSend s
      fun t => t = s)
  ∧ (∀ (s : State) (j : Fin 8) (v l p : Nat), s.on Reg.FOV_MIR_STATUS_LINK_UP = true → v < 2 → l < 128 → p < 128 →
    EndsBy settle (.config [4, j.val, v, l, p]) s fun t =>
      t.get (Reg.SAS_SUB_VALID j.val) = v ∧ t.get (Reg.SAS_SUB_LOGICAL j.val) = l ∧ t.get (Reg.SAS_SUB_PHYSICAL j.val) = p
      ∧ Keeps [Reg.FOV_MIR_RX_CNT, Reg.SAS_SUB_VALID j.val, Reg.SAS_SUB_LOGICAL j.val, Reg.SAS_SUB_PHYSICAL j.val] s t)
  ∧ (∀ (s : State) (r : Fin 16), s.on Reg.FOV_MIR_STATUS_LINK_UP = true → s.fov.relqHeard = false →
    EndsBy settle (.relinquishMessage r) s fun t =>
      t.fov.relqHeard = true ∧ t.fov.partnerReason = r.val ∧ t.get Reg.FOV_EVENT_RELINQUISH_RX = 1
      ∧ Keeps [Reg.FOV_MIR_RX_CNT, Reg.FOV_EVENT_RELINQUISH_RX, Reg.FOV_RELINQUISH_RX_CNT] s t)
  ∧ (∀ (s : State), s.on Reg.FOV_MIR_STATUS_LINK_UP = true → s.fov.resyncing = false →
    EndsBy settle (.resync [] []) s fun t =>
      t.fov.resyncing = true ∧ t.jnl.intents = [] ∧ t.jnl.lines = s.jnl.lines.filter (fun l => !(l.2.mirrored || l.2.dirty))
      ∧ Keeps [Reg.FOV_MIR_RX_CNT] s t)
  ∧ (∀ (s : State), s.on Reg.FOV_MIR_STATUS_LINK_UP = true → s.active = false → s.mode = Mode.standby →
    EndsBy (fun t => settle (testPreferred t)) .resyncComplete s fun t =>
      t.get Reg.FOV_MIR_CTRL_RESYNC_DONE = 1 ∧ t.fov.synced = true ∧ t.fov.resyncing = false ∧ Keeps [Reg.FOV_MIR_CTRL_RESYNC_DONE] s t)
  ∧ (∀ (s : State) (key : Nat) (l : Line), s.on Reg.FOV_MIR_STATUS_LINK_UP = true → s.on Reg.FOV_MIR_CTRL_ENABLE = true →
      Assoc.getD s.fov.naks key 0 < 2 → Assoc.find s.jnl.lines key = some l →
    EndsBy settle (.blockNak key) s fun t =>
      Assoc.getD t.fov.naks key 0 = Assoc.getD s.fov.naks key 0 + 1
      ∧ t.out = .mirror .data (s.mirStream .data) [keyVol key, keyLba key, l.data, l.sidecar] :: s.out
      ∧ t.get Reg.INT_EVENT_MIRROR_CRC = 1 ∧ t.get Reg.INT_MIRROR_CRC_CNT = (s.get Reg.INT_MIRROR_CRC_CNT + 1) % 2 ^ 32
      ∧ Keeps [Reg.FOV_MIR_RX_CNT, Reg.FOV_MIR_TX_CNT, Reg.INT_EVENT_MIRROR_CRC, Reg.INT_MIRROR_CRC_CNT] s t)
  ∧ (∀ (s : State) (key : Nat) (l : Line), s.on Reg.FOV_MIR_STATUS_LINK_UP = true →
      2 ≤ Assoc.getD s.fov.naks key 0 → Assoc.find s.jnl.lines key = some l → l.bad = false →
    EndsBy (fun t => settle (after (partnerGone t))) (.blockNak key) s fun t =>
      Assoc.find t.fov.naks key = none ∧ t.get Reg.INT_EVENT_MIRROR_CRC = 1
      ∧ Keeps [Reg.FOV_MIR_RX_CNT, Reg.INT_EVENT_MIRROR_CRC] s t)

/-- The fabric's links and frames (R380 to R385, R387, R483). Log entries 61, 62 and 129 say where this follows a choice of the model and
no rule. -/
def Obligations.FabricLinksComplete : Prop :=
  (∀ (s : State) (p : Fin 4) (n x : Nat), s.on Reg.FAB_CTRL_ENABLE = true → n = 1 ∨ n = 2 ∨ n = 4 → s.fabLanes p.val = 4 →
      (s.port p.val).trained = 0 → (s.mode = Mode.parked → s.kept p.val = true) →
    Ends (.fabricLinkUp p n true x) s fun t =>
      (t.port p.val).trained = (if s.mode = Mode.parked then 1 else n) ∧ (t.port p.val).good = 0 ∧ Keeps [] s t)
  ∧ (∀ (s : State) (p : Fin 4), (s.port p.val).trained ≠ 0 → s.portUp p.val = true → ∀ c ∈ [Instr.fabricLinkDown p, .fabricBleatTimeout p],
    EndsBy settle c s fun t =>
      t.portUp p.val = false ∧ t.get (Reg.FAB_PORT_STATUS_LANES p.val) = 0 ∧ (t.port p.val).trained = 0
      ∧ t.get Reg.FAB_LINK_DOWN_CNT = (s.get Reg.FAB_LINK_DOWN_CNT + 1) % 2 ^ 32 ∧ ∀ a, t.readByte a = s.readByte a)
  ∧ (∀ (s : State) (p : Fin 4), s.mode = Mode.parked → s.on Reg.FAB_CTRL_ENABLE = true → s.kept p.val = false → s.portUp p.val = false →
    Ends (.parkedListen p) s fun t =>
      (t.port p.val).listening = true ∧ (t.port p.val).trained = min 1 (s.fabLanes p.val) ∧ Keeps [] s t)
  ∧ (∀ (s : State), s.on Reg.FAB_CTRL_ENABLE = true → s.on Reg.FAB_CTRL_BLEAT_EN = true → s.sys.firmwareUp = true →
    Ends .bleatSend s fun t =>
      (∀ k, k < 12 → t.get (Reg.FAB_BLEAT_TPL_BYTES k) = leNat (((bleatBytes s.ownBleat).drop (4 * k)).take 4) % 2 ^ 32)
      ∧ (∀ p, p < 4 → (s.port p).trained ≠ 0 → s.mode ≠ Mode.parked ∨ s.kept p = true →
          t.get (Reg.FAB_PORT_TX_CNT p) = (s.get (Reg.FAB_PORT_TX_CNT p) + 1) % 2 ^ 32)
      ∧ (∀ p, p < 4 → (s.port p).trained = 0 ∨ (s.mode = Mode.parked ∧ s.kept p = false) →
          t.get (Reg.FAB_PORT_TX_CNT p) = s.get (Reg.FAB_PORT_TX_CNT p))
      ∧ Keeps ((List.range 12).map Reg.FAB_BLEAT_TPL_BYTES ++ (List.range 4).map Reg.FAB_PORT_TX_CNT) s t)
  ∧ (∀ (s : State) (p : Fin 4) (b : Bleat), s.on Reg.FAB_CTRL_ENABLE = true → (s.port p.val).trained ≠ 0 → s.mode ≠ Mode.parked →
    (Ends (.bleat p false b) s fun t =>
      t.get (Reg.FAB_PORT_CRC_ERR_CNT p.val) = (s.get (Reg.FAB_PORT_CRC_ERR_CNT p.val) + 1) % 2 ^ 32 ∧ Keeps [Reg.FAB_PORT_CRC_ERR_CNT p.val] s t)
    ∧ ((s.port p.val).last = some b → (s.port p.val).good = 0 ∨ s.portUp p.val = true →
      Ends (.bleat p true b) s fun t =>
        (t.port p.val).good = min 2 ((s.port p.val).good + 1)
        ∧ t.get (Reg.FAB_PORT_STATUS_NEIGH_ADDR p.val) = b.addr % 2 ^ (Reg.FAB_PORT_STATUS_NEIGH_ADDR p.val).width
        ∧ t.get (Reg.FAB_PORT_RX_CNT p.val) = (s.get (Reg.FAB_PORT_RX_CNT p.val) + 1) % 2 ^ 32
        ∧ Keeps [Reg.FAB_PORT_STATUS_NEIGH_ADDR p.val, Reg.FAB_PORT_NEIGH_UID_LO_UID p.val, Reg.FAB_PORT_NEIGH_UID_HI_UID p.val,
            Reg.FAB_PORT_RX_CNT p.val] s t)
    ∧ ((s.port p.val).good = 1 → s.portUp p.val = false →
      EndsBy after (.bleat p true b) s fun t =>
        t.portUp p.val = true ∧ t.get Reg.FAB_LINK_UP_CNT = (s.get Reg.FAB_LINK_UP_CNT + 1) % 2 ^ 32))
  ∧ (∀ (s : State) (p : Fin 4) (ack : Nat), s.on Reg.FAB_CTRL_ENABLE = true → s.portUp p.val = true → (s.port p.val).waiting = [] →
      (∀ f ∈ (s.port p.val).unacked, (ack + 65536 - f.lseq) % 65536 < 32768) →
    Ends (.linkCtl p ack none) s fun t =>
      (t.port p.val).unacked = [] ∧ t.get (Reg.FAB_PORT_RX_CNT p.val) = (s.get (Reg.FAB_PORT_RX_CNT p.val) + 1) % 2 ^ 32
      ∧ Keeps [Reg.FAB_PORT_RX_CNT p.val] s t)
  ∧ (∀ (s : State) (p : Fin 4), s.portUp p.val = true → (s.port p.val).unacked ≠ [] → (s.port p.val).replays < 15 →
    EndsBy settle (.linkReplay p) s fun t =>
      (t.port p.val).replays = (s.port p.val).replays + 1 ∧ (t.port p.val).unacked = (s.port p.val).unacked
      ∧ t.get (Reg.FAB_PORT_REPLAY_CNT p.val) = (s.get (Reg.FAB_PORT_REPLAY_CNT p.val) + 1) % 2 ^ 32
      ∧ t.get (Reg.FAB_PORT_TX_CNT p.val) = (s.get (Reg.FAB_PORT_TX_CNT p.val) + (s.port p.val).unacked.length) % 2 ^ 32
      ∧ Keeps [Reg.FAB_PORT_REPLAY_CNT p.val, Reg.FAB_PORT_TX_CNT p.val] s t)
  ∧ (∀ (s : State) (p : Fin 4) (f : Frame), s.on Reg.FAB_CTRL_ENABLE = true → s.portUp p.val = true →
    ((s.port p.val).nakked = true →
      Ends (.frameForward p false f) s fun t =>
        t.get (Reg.FAB_PORT_CRC_ERR_CNT p.val) = (s.get (Reg.FAB_PORT_CRC_ERR_CNT p.val) + 1) % 2 ^ 32
        ∧ Keeps [Reg.FAB_PORT_CRC_ERR_CNT p.val] s t)
    ∧ (∀ q, f.linkLocal = false → f.ackValid = false → f.flood = false → f.lseq = (s.port p.val).expect → s.ownAddr? ≠ some f.dst →
        0 < f.hops → s.hop f.dst = some (q, false) →
      Ends (.frameForward p true f) s fun t =>
        (t.port p.val).expect = ((s.port p.val).expect + 1) % 65536
        ∧ t.get Reg.FAB_FWD_CNT = (s.get Reg.FAB_FWD_CNT + 1) % 2 ^ 32
        ∧ t.get (Reg.FAB_PORT_RX_CNT p.val) = (s.get (Reg.FAB_PORT_RX_CNT p.val) + 1) % 2 ^ 32 ∧ ∀ a, t.readByte a = s.readByte a)
    ∧ (f.linkLocal = false → f.ackValid = false → f.flood = false → f.lseq = (s.port p.val).expect → s.ownAddr? ≠ some f.dst →
        0 < f.hops → s.hop f.dst = none →
      Ends (.frameForward p true f) s fun t =>
        t.get Reg.FAB_DROP_CNT = (s.get Reg.FAB_DROP_CNT + 1) % 2 ^ 32 ∧ t.get Reg.FAB_FWD_CNT = s.get Reg.FAB_FWD_CNT))
  ∧ (∀ (s : State) (tail : Nat), s.lands 0x10018C = true → s.get Reg.FAB_TX_CFG_SIZE_M1 < 2048 → tail ≤ s.get Reg.FAB_TX_CFG_SIZE_M1 →
      s.get Reg.FAB_TX_HEAD_HEAD ≤ s.get Reg.FAB_TX_CFG_SIZE_M1 →
    Ends (.fabTxTail tail) s fun t =>
      t.get Reg.FAB_TX_TAIL_TAIL = tail
      ∧ (s.on Reg.FAB_TX_CFG_ENABLE = true → s.on Reg.FAB_CTRL_ENABLE = true → t.get Reg.FAB_TX_HEAD_HEAD = tail)
      ∧ (s.on Reg.FAB_TX_CFG_ENABLE = false → Keeps [Reg.FAB_TX_TAIL_TAIL] s t)
      ∧ ∀ a, t.readByte a = s.readByte a)
  ∧ (∀ (s : State) (p : Fin 4) (n x : Nat),
    Ends (.fabricLinkUp p n false x) s fun t =>
      t.fab = s.fab ∧ (t.cmd.log.head?.map (fun e => e.detail)) = some [x] ∧ Keeps [] s t)

/-- Routing and addresses (R389 to R392). Log entries 61, 63 and 128 say where this follows a choice of the model and no rule. -/
def Obligations.FabricRoutingComplete : Prop :=
  (∀ (s : State) (p : Fin 4) (uid addr seq : Nat) (links : List LsaLink), s.hears p = true → uid ≠ s.ownUid →
      (∀ n ∈ s.fab.nodes, n.uid = uid → ∀ q, n.lsa = some q → q < seq) →
    EndsBy after (.lsa p uid addr seq links) s fun t =>
      ∃ n ∈ t.fab.nodes, n.uid = uid ∧ n.addr = addr ∧ n.lsa = some seq ∧ n.links = links)
  ∧ (∀ (s : State), s.on Reg.FAB_CTRL_ENABLE = true → s.sys.firmwareUp = true →
    Ends .lsaRefresh s fun t =>
      t.fab.lsaSeq = s.fab.lsaSeq + 1 ∧ Keeps ((List.range 4).map Reg.FAB_PORT_TX_CNT) s t)
  ∧ (∀ (s : State) (uid : Nat), (∃ n ∈ s.fab.nodes, n.uid = uid ∧ n.lsa.isSome = true) →
    EndsBy (fun t => settle (fabRefresh t)) (.lsaExpiry uid) s fun t =>
      (∀ n ∈ t.fab.nodes, n.uid = uid → n.lsa = none ∧ n.links = []) ∧ Keeps [] s t)
  ∧ (∀ (s : State) (p : Fin 4) (uid pref a : Nat), s.hears p = true → s.isRoot = true → pref < 4096 →
      s.grantAddr uid (some pref) = some a →
    EndsBy after (.addrReq p none uid pref) s fun t => Assoc.find t.fab.table a = some (uid, s.clock))
  ∧ (∀ (s : State) (p : Fin 4) (a : Fin 4096), s.hears p = true →
    EndsBy after (.addrAssign p none s.ownUid (some a.val)) s fun t =>
      t.get Reg.FAB_ADDR_ADDR = a.val ∧ t.get Reg.FAB_ADDR_VALID = 1 ∧ t.fab.pref = some a.val ∧ t.fab.refused = false)
  ∧ (∀ (s : State) (p : Fin 4), s.hears p = true →
    EndsBy after (.addrAssign p none s.ownUid none) s fun t => t.fab.refused = true ∧ t.ownAddr? = s.ownAddr?)
  ∧ (∀ (s : State), s.fab.refused = true →
    EndsBy (fun t => settle (needAddr t)) .addrRetry s fun t => t.fab.refused = false ∧ t.fab.asked = false ∧ Keeps [] s t)

/-- The budget record and power tokens (R395 to R401). Log entries 51 and 64 say where this follows a choice of the model and no rule. -/
def Obligations.FabricTokensComplete : Prop :=
  (∀ (s : State) (p : Fin 4) (w i n v u : Nat), s.hears p = true → s.fab.version < v ∨ (v = s.fab.version ∧ u < s.fab.versionUid) →
    EndsBy after (.budget (some p) (.record w i n v u)) s fun t =>
      t.fab.budgetW = w ∧ t.fab.isolatedW = i ∧ t.fab.nReg = n ∧ t.fab.version = v ∧ t.fab.versionUid = u)
  ∧ (∀ (s : State) (p : Fin 4) (src w i : Nat), s.hears p = true → s.isBellwether = true →
    EndsBy after (.budget (some p) (.set src w i)) s fun t =>
      t.fab.budgetW = w ∧ t.fab.isolatedW = i ∧ t.fab.version = s.fab.version + 1 ∧ t.fab.versionUid = s.ownUid)
  ∧ (∀ (s : State) (uid : Nat), s.isBellwether = true → uid ∈ s.fab.registered →
    Ends (.nodeUnheardExpiry uid) s fun t =>
      t.fab.nReg = s.fab.nReg - 1 ∧ t.fab.registered = remove s.fab.registered uid ∧ t.fab.version = s.fab.version + 1
      ∧ Keeps ((List.range 4).map Reg.FAB_PORT_TX_CNT) s t)
  ∧ (∀ (s : State) (p : Fin 4) (src x want min' cls : Nat), s.hears p = true → s.isBellwether = true →
    (s.fab.granting = false →
      EndsBy after (.tokenReq (some p) src x want min' cls) s fun t =>
        t.fab.queue = s.fab.queue ++ [⟨src, x, want, min', Nat.min cls 2⟩] ∧ t.fab.ledger = s.fab.ledger)
    ∧ (s.fab.granting = true → s.quorum = true → s.fab.queue = [] → s.fab.budgetW = 0 →
      EndsBy after (.tokenReq (some p) src x want min' cls) s fun t =>
        t.fab.queue = [] ∧ Assoc.find t.fab.ledger src = some ⟨s.uidOf src, want, s.clock + sec 60⟩))
  ∧ (∀ (s : State) (p : Fin 4) (src x heldW draw : Nat), s.hears p = true → s.isBellwether = true → s.fab.queue = [] → s.fab.budgetW = 0 →
      s.uidOf src ∉ s.fab.reported → Assoc.find s.fab.ledger src = none →
    EndsBy after (.tokenReport (some p) src x heldW draw) s fun t =>
      Assoc.find t.fab.ledger src = some ⟨s.uidOf src, heldW / 10, s.clock + sec 60⟩ ∧ s.uidOf src ∈ t.fab.reported)
  ∧ (∀ (s : State) (p : Fin 4) (src : Nat), s.hears p = true → s.isBellwether = true → s.fab.queue = [] →
    EndsBy after (.tokenRelease (some p) src) s fun t => Assoc.find t.fab.ledger src = none)
  ∧ (∀ (s : State) (p : Fin 4) (src x lost : Nat) (h : Holder) (n : FabNode), s.hears p = true → s.isBellwether = true →
      Assoc.find s.fab.ledger lost = some h → s.fab.nodes.find? (fun n => n.addr == lost) = some n → n.partner = s.uidOf src → src ≠ lost →
    EndsBy after (.leaseMove (some p) src x lost) s fun t =>
      Assoc.find t.fab.ledger src = some ⟨s.uidOf src, h.held, h.leaseEnd⟩ ∧ Assoc.find t.fab.ledger lost = none)
  ∧ (∀ (s : State) (src : Nat) (r : TokenReq), s.fab.queue.find? (fun r => r.src == src) = some r → s.fab.granting = false →
    Ends (.tokenRequestDrop src) s fun t => t.fab.queue = s.fab.queue.erase r ∧ Keeps [] s t)
  ∧ (∀ (s : State), s.isBellwether = true → s.fab.office.isSome = true → s.fab.queue = [] →
    Ends .bellwetherGrantStart s fun t => t.fab.granting = true ∧ Keeps [] s t)
  ∧ (∀ (s : State) (p : Fin 4) (x w ms : Nat) (e : Nat × Nat), s.hears p = true → w < 65536 →
      s.fab.sent.find? (fun e => e.1 == x && decide (s.clock ≤ e.2 + sec 60)) = some e →
    EndsBy after (.tokenGrant (some p) x w ms) s fun t =>
      t.get Reg.PWR_BUDGET_GRANT_W = w % 2 ^ Reg.PWR_BUDGET_GRANT_W.width ∧ t.fab.leaseEnd = e.2 + ms * 1000 ∧ t.sys.loopDue = true)
  ∧ (∀ (s : State) (p : Fin 4) (x w ms : Nat), s.hears p = true → (∀ e ∈ s.fab.sent, e.1 = x → e.2 + sec 60 < s.clock) →
    EndsBy after (.tokenGrant (some p) x w ms) s fun t =>
      t.get Reg.PWR_BUDGET_GRANT_W = s.get Reg.PWR_BUDGET_GRANT_W ∧ t.fab.leaseEnd = s.fab.leaseEnd)
  ∧ (∀ (s : State), s.get Reg.PWR_BUDGET_GRANT_W ≠ 0 → s.fab.bellwether.isSome = true →
    Ends .tokenReportTimer s fun t =>
      t.fab.sent.head? = some (s.fab.nextX % 65536, s.clock) ∧ ∀ a, t.readByte a = s.readByte a)
  ∧ (∀ (s : State), s.fab.isolatedW < s.get Reg.PWR_BUDGET_GRANT_W → s.fab.isolatedW < 65536 →
    EndsBy settle .leaseExpiry s fun t => t.get Reg.PWR_BUDGET_GRANT_W = s.fab.isolatedW % 2 ^ Reg.PWR_BUDGET_GRANT_W.width)
  ∧ (∀ (s : State) (w ms a : Nat), s.on Reg.FOV_MIR_STATUS_LINK_UP = true →
    EndsBy settle (.token w ms a) s fun t =>
      t.fab.inherited = some (w, s.clock + ms * 1000, a) ∧ Keeps [Reg.FOV_MIR_RX_CNT] s t)

/-- The backup pack's charging and its gauge (R313 to R325): the state that each event leads to. Log entries 11, 48 and 49 say where this
follows a choice of the model and no rule. -/
def Obligations.PackChargeComplete : Prop :=
  (∀ (s : State) (p : PackInfo) (mv : Nat) (temp : Int) (ok : Bool),
    Ends (.packInserted p mv temp ok) s fun t =>
      t.get Reg.BAT_STATUS_PRESENT = 1 ∧ t.get Reg.BAT_EVENT_PRESENT_CHANGE = 1
      ∧ t.get Reg.BAT_CAP_DESIGN_DMAH = p.designDmah % 2 ^ Reg.BAT_CAP_DESIGN_DMAH.width ∧ t.get Reg.BAT_CTRL_CHG_EN = 1
      ∧ t.bat.desc = some ⟨p.serial, p.designDmah, p.r25Dmohm, p.ocvCold, p.ocvRoom, p.ocvHot, p.root, p.rootDigest⟩
      ∧ (s.on Reg.BAT_STATUS_CHG_INHIBIT = false → t.get Reg.BAT_STATUS_CHARGING = 1))
  ∧ (∀ (s : State),
    Ends .packRemoved s fun t =>
      t.get Reg.BAT_STATUS_PRESENT = 0 ∧ t.get Reg.BAT_STATUS_CHARGING = 0 ∧ t.get Reg.BAT_CTRL_LEARN = 0
      ∧ t.get Reg.BAT_PRESENT_CHANGE_CNT = (s.get Reg.BAT_PRESENT_CHANGE_CNT + 1) % 2 ^ 32
      ∧ t.on Reg.JNL_CTRL_PACK_HEALTHY = false ∧ t.bat.desc = none ∧ t.bat.auth = false)
  ∧ (∀ (s : State), s.lands 0xD0000 = true →
    (Ends (.chargeEnable false) s fun t =>
      t.get Reg.BAT_CTRL_CHG_EN = 0 ∧ t.get Reg.BAT_STATUS_CHARGING = 0 ∧ Keeps [Reg.BAT_CTRL_CHG_EN, Reg.BAT_STATUS_CHARGING] s t)
    ∧ (s.on Reg.BAT_CTRL_CHG_EN = false →
      Ends (.chargeEnable true) s fun t =>
        t.get Reg.BAT_CTRL_CHG_EN = 1 ∧ t.bat.chgFault = false
        ∧ (s.on Reg.BAT_STATUS_PRESENT = true → s.on Reg.BAT_STATUS_CHG_INHIBIT = false → t.get Reg.BAT_STATUS_CHARGING = 1
            ∨ s.on Reg.BAT_STATUS_CHARGING = true)
        ∧ Keeps [Reg.BAT_CTRL_CHG_EN, Reg.BAT_STATUS_CHARGING, Reg.BAT_STATUS_CHG_DONE, Reg.BAT_STATUS_EOD, Reg.BAT_CTRL_LEARN] s t))
  ∧ (∀ (s : State), s.on Reg.BAT_STATUS_CHARGING = true →
    Ends .chargeTermination s fun t =>
      t.get Reg.BAT_STATUS_CHARGING = 0 ∧ t.get Reg.BAT_STATUS_CHG_DONE = 1 ∧ t.get Reg.BAT_EVENT_CHG_DONE = 1
      ∧ t.get Reg.BAT_CHG_DONE_CNT = (s.get Reg.BAT_CHG_DONE_CNT + 1) % 2 ^ 32
      ∧ Keeps [Reg.BAT_STATUS_CHARGING, Reg.BAT_STATUS_CHG_DONE, Reg.BAT_EVENT_CHG_DONE, Reg.BAT_CHG_DONE_CNT] s t)
  ∧ (∀ (s : State), s.on Reg.BAT_STATUS_CHARGING = true → 4 * 14400 < s.bat.chargeQ →
    Ends .chargeTimeout s fun t =>
      t.get Reg.BAT_STATUS_CHARGING = 0 ∧ t.get Reg.BAT_EVENT_CHG_FAULT = 1
      ∧ t.get Reg.BAT_CHG_FAULT_CNT = (s.get Reg.BAT_CHG_FAULT_CNT + 1) % 2 ^ 32 ∧ t.bat.chgFault = true
      ∧ t.bat.chgLeftOff = !(s.within (sec 86400) s.bat.chgFaultTimes).isEmpty
      ∧ (s.within (sec 86400) s.bat.chgFaultTimes = [] →
          Keeps [Reg.BAT_STATUS_CHARGING, Reg.BAT_EVENT_CHG_FAULT, Reg.BAT_CHG_FAULT_CNT] s t))
  ∧ (∀ (s : State) (temp : Int),
    Ends (.chargeWindowExit temp) s fun t =>
      t.get Reg.BAT_STATUS_CHARGING = 0 ∧ t.get Reg.BAT_STATUS_CHG_INHIBIT = 1
      ∧ Keeps [Reg.BAT_STATUS_CHARGING, Reg.BAT_STATUS_CHG_INHIBIT, Reg.BAT_VOLT_TEMP] s t)
  ∧ (∀ (s : State) (temp : Int),
    Ends (.chargeWindowEntry temp) s fun t =>
      t.get Reg.BAT_STATUS_CHG_INHIBIT = 0
      ∧ (s.on Reg.BAT_CTRL_CHG_EN = true → s.on Reg.BAT_STATUS_PRESENT = true → s.bat.chgFault = false → t.on Reg.BAT_STATUS_CHARGING = true)
      ∧ (s.on Reg.BAT_CTRL_CHG_EN = false → Keeps [Reg.BAT_STATUS_CHG_INHIBIT, Reg.BAT_VOLT_TEMP] s t))
  ∧ (∀ (s : State), s.bat.chgFault = true → s.bat.chgLeftOff = false →
    Ends .chgFaultRetry s fun t => t.get Reg.BAT_CTRL_CHG_EN = 1 ∧ t.bat.chgFault = false)
  ∧ (∀ (s : State) (uah ma : Int) (mv : Nat) (temp : Int) (keep : Nat),
    Ends (.coulombConversion uah ma mv temp keep) s fun t =>
      t.get Reg.BAT_COUNT_Q_UAH = ofSigned 32 (toSigned 32 (s.get Reg.BAT_COUNT_Q_UAH) + uah) % 2 ^ 32
      ∧ t.get Reg.BAT_CURR_I_MA = ofSigned 16 ma % 2 ^ Reg.BAT_CURR_I_MA.width ∧ t.bat.qRem = s.bat.qRem + uah
      ∧ (50 ≤ ma.natAbs → t.get Reg.BAT_STATUS_RATE = 0)
      ∧ t.get Reg.BAT_STATUS_AT_REST = b2n (decide (ma.natAbs < 5)) ∧ (5 ≤ ma.natAbs → t.get Reg.BAT_REST_REST_S = 0)
      ∧ (5 ≤ ma.natAbs → t.get Reg.BAT_STATUS_REST_VALID = 0)
      ∧ Keeps [Reg.BAT_COUNT_Q_UAH, Reg.BAT_CURR_I_MA, Reg.BAT_VOLT_TEMP, Reg.BAT_VOLT_V_MV, Reg.BAT_STATUS_RATE, Reg.BAT_STATUS_AT_REST,
          Reg.BAT_REST_REST_S, Reg.BAT_REST_LIMIT_S, Reg.BAT_STATUS_REST_VALID, Reg.BAT_KEEP_KEEP_MV, Reg.BAT_STATUS_KEEP_OK,
          Reg.BAT_CTRL_LEARN] s t)
  ∧ (∀ (s : State) (v : Word), s.lands 0xD0018 = true →
    Ends (.batCountWrite v) s fun t => t.get Reg.BAT_COUNT_Q_UAH = v.toNat ∧ Keeps [Reg.BAT_COUNT_Q_UAH] s t)
  ∧ (∀ (s : State), s.on Reg.BAT_STATUS_AT_REST = true → s.on Reg.BAT_STATUS_REST_VALID = false →
      s.get Reg.BAT_REST_LIMIT_S ≤ s.get Reg.BAT_REST_REST_S →
    Ends .restValid s fun t =>
      t.get Reg.BAT_STATUS_REST_VALID = 1 ∧ t.get Reg.BAT_EVENT_REST_VALID = 1
      ∧ t.get Reg.BAT_REST_VALID_CNT = (s.get Reg.BAT_REST_VALID_CNT + 1) % 2 ^ 32)
  ∧ (∀ (s : State) (dv di : Nat), 1000 ≤ di →
    Ends (.currentStep dv di) s fun t =>
      t.get Reg.BAT_STEP_DV_MV = dv % 2 ^ Reg.BAT_STEP_DV_MV.width ∧ t.get Reg.BAT_STEP_DI_MA = di % 2 ^ Reg.BAT_STEP_DI_MA.width
      ∧ 200 ≤ t.bat.r25 ∧ t.bat.r25 ≤ 2000
      ∧ Keeps [Reg.BAT_STEP_DV_MV, Reg.BAT_STEP_DI_MA, Reg.BAT_EVENT_STEP, Reg.BAT_STEP_CNT] s t)
  ∧ (∀ (s : State) (mv ma : Nat), mv * 10000 ≤ s.get Reg.BAT_EOD_V_SHUT_MV * 10000 + ma * s.get Reg.BAT_EOD_R_EST_DMOHM →
    Ends (.eod mv ma) s fun t =>
      t.get Reg.BAT_STATUS_EOD = 1 ∧ t.get Reg.BAT_EST_RSOC = 0 ∧ t.get Reg.BAT_EST_E_U = 0 ∧ t.get Reg.BAT_CTRL_LEARN = 0
      ∧ t.get Reg.BAT_EOD_CNT = (s.get Reg.BAT_EOD_CNT + 1) % 2 ^ 32 ∧ t.sys.loopDue = true
      ∧ ∀ d, s.bat.desc = some d → t.bat.qRem = s.qz d)

/-- The pack's estimate, its learning, its authentication and its bus (R322 to R334). Log entries 6, 48, 49 and 133 say where this follows
a choice of the model and no rule. -/
def Obligations.PackUpkeepComplete : Prop :=
  (∀ (s : State), s.bat.desc = none →
    Ends .packEstimate s fun t => t.get Reg.BAT_EST_E_U = 0 ∧ t.get Reg.BAT_EST_RSOC = 0 ∧ Keeps [Reg.BAT_EST_E_U, Reg.BAT_EST_RSOC] s t)
  ∧ (∀ (s : State) (d : PackDesc), s.bat.desc = some d → s.on Reg.BAT_STATUS_EOD = true →
    Ends .packEstimate s fun t =>
      t.get Reg.BAT_EST_E_U = 0 ∧ t.get Reg.BAT_EST_RSOC = 0 ∧ t.get Reg.BAT_EOD_R_EST_DMOHM = s.rEst % 2 ^ Reg.BAT_EOD_R_EST_DMOHM.width)
  ∧ (∀ (s : State), s.lands 0xD0000 = true → s.on Reg.BAT_STATUS_PRESENT = true →
    Ends .learnStart s fun t =>
      t.get Reg.BAT_CTRL_LEARN = 1 ∧ t.get Reg.BAT_STATUS_CHARGING = 0 ∧ t.bat.learnOut = 0
      ∧ Keeps [Reg.BAT_CTRL_LEARN, Reg.BAT_STATUS_CHARGING] s t)
  ∧ (∀ (s : State), Ends .learnTimeout s fun t => t.get Reg.BAT_CTRL_LEARN = 0 ∧ Keeps [Reg.BAT_CTRL_LEARN] s t)
  ∧ (∀ (s : State), s.bat.desc.isSome = true →
    (s.chainsToRoot = true →
      (Ends (.authPeriodic true) s fun t => t.bat.auth = true ∧ t.bat.authFails = 0)
      ∧ Ends (.authPeriodic false) s fun t => t.bat.auth = s.bat.auth ∧ t.bat.authFails = 1 ∧ Keeps [] s t)
    ∧ (s.chainsToRoot = false → ∀ ok, Ends (.authPeriodic ok) s fun t => t.bat.auth = false ∧ t.bat.authFails = 0)
    ∧ (s.chainsToRoot = true → s.bat.authFails = 1 →
      Ends (.authRetry false) s fun t => t.bat.auth = s.bat.auth ∧ t.bat.authFails = 2 ∧ Keeps [] s t)
    ∧ (s.chainsToRoot = true → s.bat.authFails = 2 → Ends (.authRetry false) s fun t => t.bat.auth = false ∧ t.bat.authFails = 0))
  ∧ (∀ (s : State) (cmd len : Nat), s.lands 0xD0030 = true → s.on Reg.BAT_SMB_CTRL_GO = false →
    Ends (.smbusTransaction cmd len true) s fun t =>
      t.get Reg.BAT_SMB_CTRL_GO = 1 ∧ t.get Reg.BAT_SMB_CTRL_ERR = 0 ∧ t.get Reg.BAT_SMB_CTRL_READ = 1 ∧ t.bat.smbFifo = []
      ∧ t.out = .smbus (cmd % 256) (max 1 (len % 256)) true [] :: s.out
      ∧ Keeps [Reg.BAT_SMB_CTRL_GO, Reg.BAT_SMB_CTRL_ERR, Reg.BAT_SMB_CTRL_READ, Reg.BAT_SMB_CTRL_LEN, Reg.BAT_SMB_CTRL_CMD] s t)
  ∧ (∀ (s : State) (err : Bool) (l : List Nat), s.on Reg.BAT_SMB_CTRL_GO = true →
    Ends (.smbusDone err l) s fun t =>
      t.get Reg.BAT_SMB_CTRL_GO = 0 ∧ t.on Reg.BAT_SMB_CTRL_ERR = err
      ∧ (s.on Reg.BAT_SMB_CTRL_READ = true → err = false → t.bat.smbFifo = l.take 64)
      ∧ Keeps [Reg.BAT_SMB_CTRL_GO, Reg.BAT_SMB_CTRL_ERR] s t)
  ∧ (∀ (s : State) (mv : Nat), mv < s.get Reg.BAT_KEEP_OK_MV →
    Ends (.keepLow mv) s fun t =>
      t.get Reg.BAT_STATUS_KEEP_OK = 0 ∧ t.get Reg.BAT_EVENT_KEEP_LOW = 1
      ∧ t.get Reg.BAT_KEEP_LOW_CNT = (s.get Reg.BAT_KEEP_LOW_CNT + 1) % 2 ^ 32
      ∧ Keeps [Reg.BAT_STATUS_KEEP_OK, Reg.BAT_EVENT_KEEP_LOW, Reg.BAT_KEEP_LOW_CNT, Reg.BAT_KEEP_KEEP_MV] s t)
  ∧ (∀ (s : State), s.mode = Mode.destaging →
    Ends .packCutoff s fun t => t.sys.powered = false ∧ t.jnl.images = s.jnl.images ∧ Keeps [] s t)

/-- Resets and the boot (R466 to R473): each reset ends with its own cause, MRAM and NAND kept, and the firmware down. Log entries 87, 88,
89 and 90 say where this follows a choice of the model and no rule. -/
def Obligations.ResetsComplete : Prop :=
  (∀ (s : State), (Assoc.find s.sys.images 1).isSome = true →
    Ends .powerOnReset s fun t =>
      t.get Reg.SYS_RESET_CAUSE_KIND = 0 ∧ t.get Reg.SYS_STRAP_POS = s.get Reg.SYS_STRAP_POS_LIVE % 2
      ∧ t.get Reg.SYS_STRAP_SHELF_ID = s.get Reg.SYS_STRAP_SHELF_LIVE % 64 ∧ t.get Reg.SYS_BOOT_SLOT = 1
      ∧ t.sys.firmwareUp = false ∧ t.qmx.cmds = [] ∧ t.jnl.images = s.jnl.images ∧ t.jnl.intents = s.jnl.intents)
  ∧ (∀ (s : State), s.lands 0x8 = true → (Assoc.find s.sys.images 1).isSome = true → s.mode = Mode.parked ∨ s.mode = Mode.service →
      s.dirtyMib = 0 → s.entriesUsed = 0 →
    Ends (.coldReset 0x5A) s fun t =>
      t.get Reg.SYS_RESET_CAUSE_KIND = 1 ∧ t.get Reg.SYS_RESET_CAUSE_SOURCE = 1 ∧ t.sys.firmwareUp = false ∧ t.qmx.cmds = []
      ∧ t.jnl.intents = s.jnl.intents)
  ∧ (∀ (s : State), (Assoc.find s.sys.images 1).isSome = true → s.mode = Mode.parked ∨ s.mode = Mode.service →
      s.dirtyMib = 0 → s.entriesUsed = 0 →
    Ends .consoleColdReset s fun t => t.get Reg.SYS_RESET_CAUSE_KIND = 1 ∧ t.get Reg.SYS_RESET_CAUSE_SOURCE = 5)
  ∧ (∀ (s : State), (Assoc.find s.sys.images (s.get Reg.SYS_BOOT_NEXT_SLOT)).isSome = true →
    (s.lands 0x8 = true →
      Ends (.warmReset 0x5A) s fun t =>
        t.get Reg.SYS_RESET_CAUSE_KIND = 2 ∧ t.get Reg.SYS_RESET_CAUSE_SOURCE = 1
        ∧ t.get Reg.SYS_WARM_RESET_CNT = (s.get Reg.SYS_WARM_RESET_CNT + 1) % 2 ^ 32 ∧ t.get Reg.FOV_STATUS_FW_ALIVE = 0
        ∧ t.sys.firmwareUp = false ∧ t.qmx.cmds = [] ∧ t.jnl.intents = s.jnl.intents)
    ∧ Ends .consoleWarmReset s fun t => t.get Reg.SYS_RESET_CAUSE_KIND = 2 ∧ t.get Reg.SYS_RESET_CAUSE_SOURCE = 5)
  ∧ (∀ (s : State), (Assoc.find s.sys.images (s.get Reg.SYS_BOOT_NEXT_SLOT)).isSome = true →
    (s.lands 0x8 = true →
      Ends (.coreRestart 0x5A) s fun t =>
        t.get Reg.SYS_RESET_CAUSE_KIND = 3 ∧ t.get Reg.SYS_RESET_CAUSE_SOURCE = 1 ∧ t.get Reg.FOV_STATUS_FW_ALIVE = 0
        ∧ t.get Reg.SYS_CORE_RESTART_CNT = (s.get Reg.SYS_CORE_RESTART_CNT + 1) % 2 ^ 32 ∧ t.sys.firmwareUp = false ∧ t.dma = [])
    ∧ (s.sys.firmwareUp = true → s.on Reg.FOV_STATUS_FW_ALIVE = false → s.on Reg.SYS_CFG_AUTO_RESTART_EN = true →
      Ends .watchdogRestart s fun t =>
        t.get Reg.SYS_RESET_CAUSE_KIND = 3 ∧ t.get Reg.SYS_RESET_CAUSE_SOURCE = 2 ∧ t.sys.firmwareUp = false)
    ∧ (s.sys.firmwareUp = false → s.on Reg.SYS_BOOT_NO_IMAGE = false → s.get Reg.SYS_BOOT_TRIES = 0 →
      Ends .bootTimeout s fun t =>
        t.get Reg.SYS_RESET_CAUSE_KIND = 3 ∧ t.get Reg.SYS_BOOT_TRIES = 1 ∧ t.sys.firmwareUp = false))
  ∧ (∀ (s : State) (key : Nat), s.lands 0x8 = true → key < 256 → key ≠ 0x5A → ∀ c ∈ [Instr.coldReset key, .warmReset key, .coreRestart key],
    Ends c s fun t =>
      t.get Reg.SYS_RESET_KEY = key ∧ t.get Reg.QMX_IGNORED_CNT = (s.get Reg.QMX_IGNORED_CNT + 1) % 2 ^ 32
      ∧ Keeps [Reg.SYS_RESET_KEY, Reg.SYS_RESET_SCOPE, Reg.QMX_EVENT_IGNORED, Reg.QMX_IGNORED_CNT, Reg.QMX_IGN_LAST_QID,
          Reg.QMX_IGN_LAST_KIND] s t)
  ∧ (∀ (s : State), Ends .consoleDump s fun t => (∃ l, t.out = .console l :: s.out) ∧ Keeps [] s t)
  ∧ (∀ (s : State) (im : ImageFacts) (slot : Fin 2), s.on Reg.SYS_BOOT_NO_IMAGE = true → im.signed = true → im.ours = true →
    Ends (.consoleImageLoad im slot) s fun t =>
      t.get Reg.SYS_BOOT_NO_IMAGE = 0 ∧ t.get Reg.SYS_BOOT_SLOT = slot.val + 1 ∧ t.get Reg.SYS_BOOT_TRIES = 0
      ∧ Assoc.find t.sys.images (slot.val + 1) = some im.number)
  ∧ (∀ (s : State) (posB compatN : Bool) (shelf : Fin 64),
    Ends (.strapChange posB compatN shelf) s fun t =>
      t.on Reg.SYS_STRAP_POS_LIVE = posB ∧ t.on Reg.SYS_STRAP_COMPAT_N_LIVE = compatN ∧ t.get Reg.SYS_STRAP_SHELF_LIVE = shelf.val
      ∧ t.get Reg.SYS_STRAP_POS = s.get Reg.SYS_STRAP_POS ∧ t.get Reg.SYS_STRAP_COMPAT = s.get Reg.SYS_STRAP_COMPAT
      ∧ (shelf.val ≠ s.get Reg.SYS_STRAP_SHELF_ID → t.get Reg.SYS_EVENT_STRAP_CHANGE = 1)
      ∧ Keeps [Reg.SYS_STRAP_POS_LIVE, Reg.SYS_STRAP_COMPAT_N_LIVE, Reg.SYS_STRAP_SHELF_LIVE, Reg.SYS_EVENT_STRAP_CHANGE,
          Reg.SYS_STRAP_CHANGE_CNT] s t)

/-- Islands, the power loop, and the ways out of WAKING, DRAINING and DESTAGING (R11, R13, R29, R33, R36, R38, R55, R310). Log entries 8,
20, 51, 52, 85, 96 and 97 say where this follows a choice of the model and no rule. -/
def Obligations.PowerLoopComplete : Prop :=
  (∀ (s : State) (i : Island), s.clocked i = false → i ∉ s.sys.gated →
    Ends (.islandRegate i) s fun t => t.sys.gated = i :: s.sys.gated ∧ Keeps [] s t)
  ∧ (∀ (s : State) (off : Nat) (c : Instr) (rest : List (Nat × Instr)), s.waiting = (off, c) :: rest →
      (∀ core k a size v evict i, c ≠ .coreAccess core k a size v evict i) → (∀ ch h f l, c ≠ .dmaDescriptor ch h f l) →
    Ends .resetAccessTimeout s fun t =>
      t.waiting = rest ∧ t.get Reg.SYS_EVENT_RESET_TIMEOUT = 1
      ∧ t.get Reg.SYS_RESET_TIMEOUT_CNT = (s.get Reg.SYS_RESET_TIMEOUT_CNT + 1) % 2 ^ 32
      ∧ Keeps [Reg.SYS_EVENT_RESET_TIMEOUT, Reg.SYS_RESET_TIMEOUT_CNT] s t)
  ∧ (∀ (s : State) (off a size v : Nat) (core : Fin 9) (k : AccessKind) (evict : List Nat) (i : Bool) (rest : List (Nat × Instr)),
      s.waiting = (off, .coreAccess core k a size v evict i) :: rest →
    exec .resetAccessTimeout s = aside rest (asRetired (islandOf off) (execCoreAccess core k a size v evict i))
      (event Reg.SYS_EVENT_RESET_TIMEOUT Reg.SYS_RESET_TIMEOUT_CNT s))
  ∧ (∀ (s : State) (p : Nat), s.spinning = 0 →
    EndsBy after (.loopEvaluation p) s fun t =>
      t.get Reg.PWR_DRAW_P_MOD_DW = p % 2 ^ Reg.PWR_DRAW_P_MOD_DW.width ∧ t.sys.shortfall = 0)
  ∧ (∀ (s : State), s.sys.shortfall = 0 → Ends .spinDownExcess s fun t => t = s)
  ∧ (∀ (s : State), s.sys.shortfall ≠ 0 →
    Ends .spinDownExcess s fun t => ∀ n ∈ s.spinDownOrder.take (s.spinning - s.spinAllowance), t.awake n = false)
  ∧ (∀ (s : State), s.mode = Mode.serving → s.feature 8 0 ≠ 0 → s.allInFlight = 0 → s.cmd.testRunning = 0 →
      (∀ k ∈ List.range 8, s.on (Reg.SAS_RBD_CFG_ENABLE k) = false) →
    EndsBy settle .idleParkExpiry s fun t => t.sys.parkPending = true ∧ Keeps [] s t)
  ∧ (∀ (s : State), s.mode = Mode.waking → s.get Reg.PWR_STATUS_CONV_STATE = 2 → s.on Reg.JNL_CTRL_REPLAY_DONE = true →
      s.sys.assembled = true → (∀ n ∈ s.pwr.wakeSet, s.wakeSettled n = true) →
    EndsBy (fun t => commitBatches (settle t)) .enterServing s fun t =>
      t.mode = Mode.serving ∧ t.cmd.wakeCmds = [] ∧ ∀ p ∈ t.qmx.cmds, p.2.held = false)
  ∧ (∀ (s : State), s.mode = Mode.parked → s.sys.wakeBudget.isSome = true → s.qmx.cmds = [] → s.cmd.wakeCmds = [] →
    EndsBy settle .wakeDenied s fun t =>
      t.sys.wakeBudget = none ∧ t.sys.wakePending = false ∧ t.pwr.wakeSet = [] ∧ Keeps [] s t)
  ∧ (∀ (s : State), s.mode = Mode.draining → s.qmx.cmds = [] → s.holdsData = false → (∀ n ∈ allSlots, s.slotOn n = false) →
      s.sys.wakeBudget = none →
    EndsBy (fun t => settle (writeRoot (showImage t))) .drainComplete s fun t =>
      t.mode = Mode.parked ∧ t.on Reg.FAN_TOKEN_HELD = false ∧ t.get Reg.PWR_STATUS_CONV_STATE = 0 ∧ t.get Reg.PWR_BUDGET_GRANT_W = 0
      ∧ t.cmd.parkCmds = [])
  ∧ (∀ (s : State), s.mode = Mode.destaging → s.on Reg.PWR_STATUS_MAINS_OK = false →
    Ends .destageComplete s fun t =>
      t.sys.powered = false
      ∧ (∀ a i, s.jnl.imageArea = some a → Assoc.find t.jnl.images a = some i → i.sealed = true) ∧ Keeps [] s t)
  ∧ (∀ (s : State), s.mode = Mode.destaging → s.on Reg.PWR_STATUS_MAINS_OK = true →
      (Assoc.find s.sys.images (s.get Reg.SYS_BOOT_NEXT_SLOT)).isSome = true →
    Ends .destageComplete s fun t =>
      t.get Reg.SYS_RESET_CAUSE_KIND = 2 ∧ t.get Reg.SYS_RESET_CAUSE_SOURCE = 4
      ∧ ∀ a i, s.jnl.imageArea = some a → Assoc.find t.jnl.images a = some i → i.sealed = true)
  ∧ (∀ (s : State) (found : List FoundDrive), s.mode = Mode.takeover → s.sys.assembled = false →
    EndsBy settle (.arrayAssembly found) s fun t => t.sys.assembled = true ∧ (found = [] → Keeps [] s t))

/-- The I/O commands and ABORT (R263, R264): what each does when its turn comes. Log entries 24, 28, 29, 118 and 132 say where this
follows a choice of the model and no rule. -/
def Obligations.IoCommandsComplete : Prop :=
  (∀ (s : State) (n : Nat) (c : Cmd), s.mayRun n c = true → c.e.qid ≠ 0 →
    (c.e.opcode = 0x20 →
      EndsBy (fun t => after (splitPieces n t)) (.read c.e.qid c.e.cid) s fun t =>
        t.cmd? n = some { c with begun := true } ∧ Keeps [] s t)
    ∧ (c.e.opcode = 0x21 → s.volHeld c.e.vol = false →
      EndsBy after (.write c.e.qid c.e.cid) s fun t => t.cmd? n = some { c with begun := true } ∧ Keeps [] s t)
    ∧ (c.e.opcode = 0x22 → bitOf c.e.options 0 = 0 → ∀ l,
      EndsBy (fun t => after (splitPieces n t)) (.verify c.e.qid c.e.cid l) s fun t =>
        t.cmd? n = some { c with begun := true, result := 0 } ∧ Keeps [] s t)
    ∧ (c.e.opcode = 0x23 → c.owed = [] → Answers n St.success 0 (.flush c.e.qid c.e.cid) s fun t => t = s)
    ∧ (c.e.opcode = 0x23 → c.owed ≠ [] →
      EndsBy after (.flush c.e.qid c.e.cid) s fun t =>
        t.cmd? n = some { c with begun := true, level := 0 }
        ∧ (∀ o ∈ c.owed, rowKey (s.volArray c.e.vol) (s.locate c.e.vol (keyLba o.1)).1 ∈ t.jnl.demandRows) ∧ Keeps [] s t))
  ∧ (∀ (s : State) (q i n : Nat) (c : Cmd), s.cmdOf q i = some (n, c) → c.e.opcode = 0x23 → c.begun = true →
    (c.owed = [] → EndsBy (finish n St.success 0) (.flushComplete q i) s fun t => t = s)
    ∧ (c.owed ≠ [] → q ≠ 0 →
      EndsBy (finish n St.budgetDenied 0) (.flushWakeTimeout q i) s fun t => t.jnl.lines = s.jnl.lines ∧ t.qmx = s.qmx ∧ Keeps [] s t))
  ∧ (∀ (s : State) (n : Nat) (c : Cmd), s.mayRun n c = true → c.e.qid ≠ 0 → c.e.opcode = 0x24 → c.next = 0 →
      s.qmx.cmds.find? (fun x => x.2.e.qid == c.e.qid && c.e.qid != 0 && x.2.e.cid == c.e.cid && x.2.e.opcode == 0x24 && !x.2.final)
        = some (n, c) →
    (s.writeRefused c.e.vol c.e.slba (c.e.nlbM1 + 1) = true →
      Answers n St.arrayOffline 0 (.writeZeroes c.e.qid c.e.cid) s fun t => t = s)
    ∧ (s.writeRefused c.e.vol c.e.slba (c.e.nlbM1 + 1) = false →
      EndsBy (fun t => after (commitRow n c.e.vol c.e.slba
          (List.replicate (min (s.toRowEnd c.e.vol c.e.slba) (c.e.nlbM1 + 1)) {}) (bitOf c.e.flags 2 == 1) t))
        (.writeZeroes c.e.qid c.e.cid) s fun t => t.cmd? n = some { c with begun := true } ∧ Keeps [] s t))
  ∧ (∀ (s : State) (n : Nat) (c : Cmd), s.mayRun n c = true → c.e.qid = 0 → adminOf c.e = some .abort →
    (∀ m x, s.qmx.cmds.find? (fun p => p.1 != n && p.2.e.qid == specField c.e 40 2 && p.2.e.cid == specField c.e 42 2
        && (!s.hasBegun p.1 p.2 || s.cmd.parkCmds.contains p.1 || s.cmd.wakeCmds.contains p.1)) = some (m, x) →
      Answers n St.success 0 (.abort c.e.cid) s fun t => t = abortCmd m s)
    ∧ ((∀ p ∈ s.qmx.cmds, p.1 ≠ n → p.2.e.qid = specField c.e 40 2 → p.2.e.cid = specField c.e 42 2 →
        s.hasBegun p.1 p.2 = true ∧ p.1 ∉ s.cmd.parkCmds ∧ p.1 ∉ s.cmd.wakeCmds) →
      Answers n St.success 1 (.abort c.e.cid) s fun t => t = s))

/-- Features, queue pairs, arrays, volumes and members: the admin commands as the firmware serves them (R233 to R248). Log entries 34, 35,
36, 37, 123 and 125 say where this follows a choice of the model and no rule. -/
def Obligations.AdminCommandsComplete : Prop :=
  (∀ (s : State) (n : Nat) (c : Cmd), s.mayRun n c = true → c.e.qid = 0 → adminOf c.e = some .getFeature → featKnown (featCode c.e) (featSel c.e) = true →
    Answers n St.success (s.feature (featCode c.e) (keptSel (featCode c.e) (featSel c.e))) (.getFeature c.e.cid) s fun t => t = s)
  ∧ (∀ (s : State) (n : Nat) (c : Cmd), s.mayRun n c = true → c.e.qid = 0 → adminOf c.e = some .setFeature →
    (setsWt c.e = false → featOk c.e = true →
      Answers n St.success 0 (.setFeature c.e.cid) s fun t =>
        t.feature (featCode c.e) (keptSel (featCode c.e) (featSel c.e)) = featVal c.e
        ∧ (bitOf c.e.options 31 = 1 →
            Assoc.find t.cmd.saved (featKey (featCode c.e) (keptSel (featCode c.e) (featSel c.e))) = some (featVal c.e)))
    ∧ (setsWt c.e = true → s.get Reg.JNL_STATUS_LEVEL = 2 →
      Answers n St.success 0 (.setFeatureWriteThrough c.e.cid) s fun t => t.feature 1 0 = 1 ∧ t.get Reg.JNL_CTRL_FORCE_WT = 1)
    ∧ (setsWt c.e = true → s.get Reg.JNL_STATUS_LEVEL ≠ 2 → s.allClean = false →
      EndsBy after (.setFeatureWriteThrough c.e.cid) s fun t =>
        t.feature 1 0 = 1 ∧ t.get Reg.JNL_CTRL_FORCE_WT = 1 ∧ t.jnl.toWt = true ∧ n ∈ t.cmd.wtCmds))
  ∧ (∀ (s : State) (n : Nat) (c : Cmd), s.mayRun n c = true → c.e.qid = 0 → adminOf c.e = some .createIoQueue →
      s.pair? (specField c.e 40 2) = none → s.pairOk c.e = true →
    Answers n St.success 0 (.createIoQueue c.e.cid) s fun t =>
      t.pair? (specField c.e 40 2) = some {
        sizeM1 := specField c.e 42 2, sqBase := specField c.e 48 8, cqBase := specField c.e 56 8, weight := specField c.e 44 1,
        credit := specField c.e 44 1, burstM1 := specField c.e 45 1, irq := specField c.e 46 1 }
      ∧ Keeps [] s t)
  ∧ (∀ (s : State) (n : Nat) (c : Cmd) (p : Pair), s.mayRun n c = true → c.e.qid = 0 → adminOf c.e = some .deleteIoQueue →
      s.pair? (specField c.e 40 2) = some p → specField c.e 40 2 ≠ 0 → p.deleting = none →
      (∀ x ∈ s.qmx.cmds, x.2.e.qid = specField c.e 40 2 → s.hasBegun x.1 x.2 = true) →
    EndsBy after (.deleteIoQueue c.e.cid) s fun t =>
      t.pair? (specField c.e 40 2) = some { p with deleting := some n } ∧ t.cmd? n = some { c with begun := true } ∧ Keeps [] s t)
  ∧ (∀ (s : State) (q n : Nat) (p : Pair), s.pair? q = some p → p.deleting = some n → s.inFlight q = 0 →
    EndsBy (finish n St.success 0) (.queueDeleteDrained q) s fun t => t.pair? q = none ∧ q ∉ t.hif.pend ∧ Keeps [] s t)
  ∧ (∀ (s : State) (n uuid : Nat) (c : Cmd) (drives : List (Nat × Option DriveFacts)), s.mayRun n c = true → c.e.qid = 0 →
      adminOf c.e = some .arrayCreate →
      let a := specField c.e 40 1
      let g := createGeo c.e 0
      let sizes := g.slots.filterMap (fun x => (s.factsOf drives x).join.map (fun f => f.bytes))
      a < 4 → s.on (Reg.STP_ARRAY_CFG_VALID a) = false → s.on Reg.SYS_STRAP_COMPAT = false → layoutBad g = false → countBad g = false →
      (∀ x ∈ g.slots, s.checkSlot drives none x (s.slotsTaken none x
        || s.substitutes.contains x || (g.layout == 1 && decide (100 ≤ x))) (bitOf (specField c.e 46 1) 0 == 1) 0 = .ok) →
      rowsFor g (sizes.foldl min (sizes.headD 0)) ≠ 0 →
    Answers n St.success 0 (.arrayCreate c.e.cid uuid drives) s fun t =>
      (t.arrayMeta a).uuid = uuid ∧ (t.arrayMeta a).generation = 1 ∧ Assoc.find t.cmd.lastAssembled a = some uuid
      ∧ t.get (Reg.STP_ARRAY_CFG_LAYOUT a) = g.layout % 4 ∧ ∀ x, t.readByte x = s.readByte x)
  ∧ (∀ (s : State) (n : Nat) (c : Cmd), s.mayRun n c = true → c.e.qid = 0 → adminOf c.e = some .arrayDelete →
      specField c.e 40 1 < 4 → s.on (Reg.STP_ARRAY_CFG_VALID (specField c.e 40 1)) = true → s.volumesRemain (specField c.e 40 1) = false →
      s.cmd.testRunning ≠ 2 →
    Answers n St.success 0 (.arrayDelete c.e.cid) s fun t =>
      t.get (Reg.STP_ARRAY_CFG_VALID (specField c.e 40 1)) = 0
      ∧ t.cmd.deleted.head? = some (s.arrayMeta (specField c.e 40 1)).uuid)
  ∧ (∀ (s : State) (n uuid b : Nat) (c : Cmd), s.mayRun n c = true → c.e.qid = 0 → adminOf c.e = some .volumeCreate →
      let v := specField c.e 40 1
      let a := specField c.e 41 1
      let rows := ceilDiv (specField c.e 48 8 * 4096) ((s.geo a).dataCount * (s.geo a).unit)
      v < 64 → (s.volMeta v).bound = false → s.volValid v = false → a < 4 → s.on (Reg.STP_ARRAY_CFG_VALID a) = true →
      specField c.e 48 8 ≠ 0 → bitOf (specField c.e 42 1) 0 = 0 → s.freeRows a rows = some b →
    Answers n St.success 0 (.volumeCreate c.e.cid uuid) s fun t =>
      t.volMeta v = { bound := true, uuid := uuid, array := a, base := b, rows := rows, formatting := some b }
      ∧ t.volValid v = false ∧ t.volArray v = a)
  ∧ (∀ (s : State) (v : Fin 64) (row : Nat), (s.volMeta v.val).formatting = some row → s.mode = Mode.serving → (s.volMeta v.val).bound = true →
      (∀ r ∈ s.sas.repairs, r.2.array ≠ (s.volMeta v.val).array ∨ r.2.row ≠ row) →
      (∀ i, i < (s.geo (s.volMeta v.val).array).members → s.liveMember (s.volMeta v.val).array row i = true →
        s.awakeMember (s.volMeta v.val).array i = true) →
    EndsBy (fun t => after (startRepair {
        array := (s.volMeta v.val).array, row := row,
        writes := ((List.range (s.geo (s.volMeta v.val).array).members).filter (fun i => s.liveMember (s.volMeta v.val).array row i)).map
          (fun i => (i, 0, List.replicate (s.geo (s.volMeta v.val).array).unitBlocks 0)), format := true } t))
      (.volumeFormat v) s fun t => Keeps [Reg.FOV_MIR_TX_CNT] s t)
  ∧ (∀ (s : State) (n : Nat) (c : Cmd), s.mayRun n c = true → c.e.qid = 0 → adminOf c.e = some .volumeDelete →
      let v := specField c.e 40 1
      v < 64 → (s.volMeta v).bound = true → (s.volMeta v).deleting = none → (s.volMeta v).flock = none →
      (∀ x ∈ s.qmx.cmds, x.2.e.qid ≠ 0 → x.2.e.vol = v → s.hasBegun x.1 x.2 = true) →
    EndsBy (fun t => after (discardLines v t)) (.volumeDelete c.e.cid) s fun t =>
      t.volValid v = false ∧ (t.volMeta v).deleting = some n ∧ (t.volMeta v).formatting = none ∧ t.jnl.lines = s.jnl.lines)
  ∧ (∀ (s : State) (v : Fin 64) (n : Nat), (s.volMeta v.val).deleting = some n →
      (∀ x ∈ s.qmx.cmds, x.2.e.qid ≠ 0 → x.2.e.vol ≠ v.val) →
    EndsBy (finish n St.success 0) (.volumeDeleteDrained v) s fun t =>
      Assoc.find t.cmd.vols v.val = none ∧ (∀ r ∈ (t.care (s.volArray v.val)).lost, r.vol ≠ v.val) ∧ Keeps [Reg.FOV_MIR_TX_CNT] s t)
  ∧ (∀ (s : State) (n k : Nat) (c : Cmd) (d : Option DriveFacts), s.mayRun n c = true → c.e.qid = 0 → adminOf c.e = some .memberReplace →
      let a := specField c.e 40 1
      let slot := specField c.e 41 1
      a < 4 → s.on (Reg.STP_ARRAY_CFG_VALID a) = true → specField c.e 42 1 = slot → slot < 108 → (s.erasedSlots a).contains slot = true →
      s.frontierOf 0 a slot = none → (a, slot) ∉ s.cmd.rebuildQueue → s.freeFrontier = some k →
      (∀ j ∈ List.range 8, s.on (Reg.SAS_SUB_VALID j) = true → s.get (Reg.SAS_SUB_LOGICAL j) ≠ slot) →
      s.checkSlot (if s.awake slot then [(slot, d)] else []) (some a) slot false true ((s.geo a).hdr + (s.geo a).rows * (s.geo a).unit) = .ok →
    Answers n St.success 0 (.memberReplace c.e.cid d) s fun t => t = newDrive a slot slot (startRebuild a slot s))

/-- Self-tests, power states, roles, firmware storage and the pack's roots: the admin commands of the module class (R249 to R261). Log
entries 6, 38, 39 and 40 say where this follows a choice of the model and no rule. -/
def Obligations.ControlCommandsComplete : Prop :=
  (∀ (s : State) (n : Nat) (c : Cmd), s.mayRun n c = true → c.e.qid = 0 → adminOf c.e = some .selfTest →
    (optCode c.e = 1 → s.cmd.testRunning = 0 →
      Answers n St.success 0 (.selfTestShort c.e.cid) s fun t =>
        t.cmd.testRunning = 1 ∧ t.cmd.testStart = s.clock ∧ t.cmd.testSuspended = s.ioInFlight ∧ t.cmd.testGrazes = false ∧ Keeps [] s t)
    ∧ (optCode c.e = 2 → s.cmd.testRunning = 0 →
      Answers n St.success 0 (.selfTestExtended c.e.cid) s fun t =>
        t.cmd.testRunning = 2 ∧ t.cmd.testStart = s.clock ∧ t.cmd.testSuspended = s.ioInFlight ∧ t.cmd.testGrazes = false ∧ Keeps [] s t)
    ∧ (optCode c.e = 1 → s.cmd.testRunning ≠ 0 → Answers n St.selfTest 0 (.selfTestShort c.e.cid) s fun t => t = s)
    ∧ (optCode c.e = 15 → s.cmd.testRunning ≠ 0 →
      Answers n St.success 0 (.selfTestAbort c.e.cid) s fun t =>
        t.cmd.testRunning = 0
        ∧ t.cmd.testResults.head? = some ⟨s.cmd.testRunning, 2, 0, s.nowMs, s.cmd.testRows, s.cmd.testMismatch⟩ ∧ Keeps [] s t))
  ∧ (∀ (s : State), s.cmd.testSuspended = true → s.ioPending = false → s.ioInFlight = false →
    Ends .selfTestResume s fun t => t.cmd.testSuspended = false ∧ t.cmd.testRunning = s.cmd.testRunning
      ∧ t.cmd.testStart = s.cmd.testStart + (s.clock - s.cmd.testPaused) ∧ Keeps [] s t)
  ∧ (∀ (s : State) (step : Nat) (reads : List (Nat × RowTwice)),
      s.cmd.testSuspended = false → s.cmd.testGrazes = false →
    (s.cmd.testRunning = 1 → s.lcapLost = false →
      EndsBy after (.selfTestDone ⟨step, [], []⟩ reads) s fun t =>
        t.cmd.testRunning = 0
        ∧ t.cmd.testResults.head? = some ⟨1, if step = 0 then 0 else 1, step, s.nowMs, s.cmd.testRows, s.cmd.testMismatch⟩
        ∧ ∀ f : Field, t.get f = s.get f)
    ∧ (s.cmd.testRunning = 2 → s.lcapLost = false → s.validArrays = [] →
      EndsBy after (.selfTestDone ⟨step, [], []⟩ reads) s fun t =>
        t.cmd.testRunning = 0
        ∧ t.cmd.testResults.head? = some ⟨2, if step = 0 then 0 else 1, step, s.nowMs, s.cmd.testRows, s.cmd.testMismatch⟩))
  ∧ (∀ (s : State) (n : Nat) (c : Cmd), s.mayRun n c = true → c.e.qid = 0 → adminOf c.e = some .powerState →
    (optCode c.e = 0 → Answers n St.success s.mode (.powerStateQuery c.e.cid) s fun t => t = s)
    ∧ (optCode c.e = 1 → s.mode = Mode.parked → Answers n St.success 0 (.powerStatePark c.e.cid) s fun t => t = s)
    ∧ (optCode c.e = 1 → s.mode = Mode.serving ∨ s.mode = Mode.waking ∨ s.mode = Mode.takeover →
      EndsBy (fun t => after (settle t)) (.powerStatePark c.e.cid) s fun t =>
        t.sys.parkPending = true ∧ n ∈ t.cmd.parkCmds ∧ t.cmd? n = some { c with begun := true } ∧ Keeps [] s t)
    ∧ (optCode c.e = 1 → s.mode = Mode.standby → Answers n St.notActive 4 (.powerStatePark c.e.cid) s fun t => t = s)
    ∧ (optCode c.e = 2 → s.mode = Mode.serving → Answers n St.success 2 (.powerStateWake c.e.cid) s fun t => t = s)
    ∧ (optCode c.e = 2 → s.mode = Mode.waking ∨ s.mode = Mode.takeover →
      EndsBy after (.powerStateWake c.e.cid) s fun t => n ∈ t.cmd.wakeCmds ∧ t.cmd? n = some { c with begun := true } ∧ Keeps [] s t))
  ∧ (∀ (s : State) (n : Nat) (c : Cmd), s.mayRun n c = true → c.e.qid = 0 → adminOf c.e = some .roleControl →
    (optCode c.e = 1 → s.active = true → s.on Reg.FOV_CTRL_HOLD = false → s.partnerLive = true → s.fov.handover = 0 →
      EndsBy (fun t => after (settle t)) (.swap c.e.cid) s fun t => t.fov.handoverDue = true ∧ (n, 1) ∈ t.cmd.roleCmds ∧ Keeps [] s t)
    ∧ (optCode c.e = 1 → s.active = false → Answers n St.notActive s.mode (.swap c.e.cid) s fun t => t = s)
    ∧ (optCode c.e = 2 → s.mode ≠ Mode.service → s.on Reg.FOV_CTRL_HOLD = false → s.active = false →
      EndsBy (fun t => after (settle t)) (.enterService c.e.cid) s fun t =>
        t.sys.servicePending = true ∧ (n, 2) ∈ t.cmd.roleCmds ∧ Keeps [] s t)
    ∧ (optCode c.e = 2 → s.mode ≠ Mode.service → s.on Reg.FOV_CTRL_HOLD = false → s.active = true → s.partnerLive = false →
        bitOf c.e.options 8 = 0 →
      Answers n St.invalidField (512 + s.mode) (.enterService c.e.cid) s fun t => t = s)
    ∧ (optCode c.e = 3 → s.mode = Mode.service → s.sys.posConflict = false → s.on Reg.RPR_POST_FATAL = false →
      (s.on Reg.FOV_STATUS_ACTIVE_LINE = true →
        EndsBy (fun t => after (settle (finish n St.success 4 t))) (.leaveService c.e.cid) s fun t =>
          t.mode = Mode.standby ∧ t.get Reg.FOV_CTRL_STANDBY_ROLE = 1 ∧ t.get Reg.PWR_CTRL_STANDBY_OFFSET = 1)
      ∧ (s.on Reg.FOV_STATUS_ACTIVE_LINE = false →
        EndsBy (fun t => after (settle (finish n St.success 1 t))) (.leaveService c.e.cid) s fun t =>
          t.mode = Mode.waking ∧ t.get Reg.FOV_CTRL_CLAIM = 1 ∧ t.get Reg.PWR_CTRL_CONV_EN = 1))
    ∧ (optCode c.e = 4 → specField c.e 40 1 < 2 →
      Answers n St.success s.mode (.setPreferred c.e.cid) s fun t =>
        t.get Reg.FOV_CTRL_PREF_B = specField c.e 40 1 ∧ Keeps [Reg.FOV_CTRL_PREF_B, Reg.FOV_MIR_TX_CNT] s t)
    ∧ (optCode c.e = 5 → s.on Reg.FOV_CTRL_HOLD = false → ∀ tested persists,
      (s.mayExchange = true →
        Answers n St.success 0 (.revertNow c.e.cid tested persists) s fun t => t.active = false ∧ t.on Reg.FOV_CTRL_STANDBY_ROLE = true)
      ∧ (s.mayRevert tested persists = true → s.fov.handover = 0 →
        EndsBy (fun t => after (settle t)) (.revertNow c.e.cid tested persists) s fun t =>
          t.fov.handoverDue = true ∧ t.fov.holdoffStart = none ∧ (n, 5) ∈ t.cmd.roleCmds ∧ Keeps [] s t)))
  ∧ (∀ (s : State) (n : Nat) (c : Cmd) (data : List Nat), s.mayRun n c = true → c.e.qid = 0 → adminOf c.e = some .firmwareStage →
      specField c.e 40 4 % 4096 = 0 → bufferLen c.e % 4096 = 0 → bufferLen c.e ≤ 2 ^ 20 → specField c.e 40 4 + bufferLen c.e ≤ 2 ^ 26 →
      s.bufferOk c.e (bufferLen c.e) = true →
    Answers n St.success 0 (.firmwareStage ⟨c.e.cid, data⟩) s fun t =>
      (specField c.e 40 4, padTo (bufferLen c.e) data) ∈ t.cmd.staged
      ∧ (specField c.e 40 4 = 0 → t.cmd.staged = [(0, padTo (bufferLen c.e) data)]) ∧ Keeps [] s t)
  ∧ (∀ (s : State) (n : Nat) (c : Cmd) (im : ImageFacts), s.mayRun n c = true → c.e.qid = 0 → adminOf c.e = some .firmwareCommit →
    (commitAction c.e = 0 → s.storeRefusal c.e im = 0 →
      Answers n St.success 0 (.fwCommitStore c.e.cid im) s fun t =>
        Assoc.find t.sys.images (commitSlot c.e) = some im.number ∧ Keeps [] s t)
    ∧ (commitAction c.e = 1 → s.storeRefusal c.e im = 0 →
      Answers n St.success 0 (.fwCommitStoreActivateNext c.e.cid im) s fun t =>
        Assoc.find t.sys.images (commitSlot c.e) = some im.number ∧ t.get Reg.SYS_BOOT_NEXT_SLOT = commitSlot c.e
        ∧ Keeps [Reg.SYS_BOOT_NEXT_SLOT] s t)
    ∧ (commitAction c.e = 2 → commitSlot c.e = 1 ∨ commitSlot c.e = 2 → (Assoc.find s.sys.images (commitSlot c.e)).isSome = true →
      Answers n St.success 0 (.fwCommitActivateNext c.e.cid) s fun t =>
        t.get Reg.SYS_BOOT_NEXT_SLOT = commitSlot c.e ∧ Keeps [Reg.SYS_BOOT_NEXT_SLOT] s t)
    ∧ (commitAction c.e = 3 → s.storeRefusal c.e im = 0 →
      EndsBy after (.fwCommitActivateNow c.e.cid im) s fun t =>
        t.get Reg.SYS_BOOT_SLOT = commitSlot c.e ∧ t.get Reg.SYS_RESET_CAUSE_KIND = 3 ∧ t.get Reg.SYS_RESET_CAUSE_SOURCE = 6
        ∧ t.sys.firmwareUp = false ∧ t.cmd.commitCmd = some n)
    ∧ (commitAction c.e = 4 → commitSlot c.e = 1 ∨ commitSlot c.e = 2 → s.mode = Mode.service → s.cmd.staged ≠ [] →
        covers s.cmd.staged im.length = true → im.signed = true →
      Answers n St.success 0 (.fwCommitInstallRoot c.e.cid im) s fun t =>
        t.cmd.operatorFwRoot = some (Config.digest im.number) ∧ Keeps [] s t))
  ∧ (∀ (s : State) (n root : Nat) (c : Cmd) (ok : Bool), s.mayRun n c = true → c.e.qid = 0 → adminOf c.e = some .packAuth →
    (optCode c.e = 1 → s.bat.desc.isSome = true → s.chainsToRoot = true →
      Answers n St.success 0 (.packAuthenticate c.e.cid true) s fun t => t.bat.auth = true)
    ∧ (optCode c.e = 1 → s.bat.desc = none → Answers n St.success 2 (.packAuthenticate c.e.cid ok) s fun t => t = s)
    ∧ (optCode c.e = 2 → s.mode = Mode.service → bufferLen c.e ≤ 4096 → s.bufferOk c.e (bufferLen c.e) = true →
      Answers n St.success 3 (.packInstallRoot c.e.cid root ok) s fun t => t.bat.operatorRoot = some (Config.digest root))
    ∧ (optCode c.e = 3 → s.mode = Mode.service →
      Answers n St.success 3 (.packRemoveRoot c.e.cid ok) s fun t =>
        t.bat.operatorRoot = none ∧ (s.bat.desc.isSome = true → (∀ d, s.bat.desc = some d → d.root ≠ 1) → t.bat.auth = false)))

/-- The queue interface: enabling, doorbells, the fetch, the heartbeat record and the pages (R198 to R226, R230, R236). Log entries 23,
26, 27, 35 and 132 say where this follows a choice of the model and no rule. -/
def Obligations.QueueCommandsComplete : Prop :=
  (∀ (s : State), s.lands 0x20000 = true → s.on Reg.QMX_CTRL_EN = false →
    (s.get Reg.QMX_ADMIN_CFG_SIZE_M1 ≠ 0 →
      Ends .queueEnable s fun t =>
        t.get Reg.QMX_CTRL_EN = 1 ∧ t.get Reg.QMX_STATUS_CFG_ERR = 0 ∧ t.qmx.starting = true
        ∧ Keeps [Reg.QMX_CTRL_EN, Reg.QMX_STATUS_CFG_ERR] s t)
    ∧ (s.get Reg.QMX_ADMIN_CFG_SIZE_M1 = 0 →
      Ends .queueEnable s fun t => t.get Reg.QMX_STATUS_CFG_ERR = 1 ∧ t.get Reg.QMX_CTRL_EN = 0 ∧ Keeps [Reg.QMX_STATUS_CFG_ERR] s t))
  ∧ (∀ (s : State), s.on Reg.QMX_CTRL_EN = true → s.qmx.starting = true →
    Ends .queueReady s fun t =>
      t.get Reg.QMX_STATUS_RDY = 1 ∧ t.get Reg.QMX_ADMIN_SQ_TAIL_INDEX = 0 ∧ t.get Reg.QMX_ADMIN_CQ_HEAD_INDEX = 0
      ∧ t.pair? 0 = some {
          sizeM1 := s.get Reg.QMX_ADMIN_CFG_SIZE_M1
          sqBase := s.get64 Reg.QMX_ADMIN_SQ_BASE_LO_BASE Reg.QMX_ADMIN_SQ_BASE_HI_BASE
          cqBase := s.get64 Reg.QMX_ADMIN_CQ_BASE_LO_BASE Reg.QMX_ADMIN_CQ_BASE_HI_BASE }
      ∧ Keeps [Reg.QMX_STATUS_RDY, Reg.QMX_ADMIN_SQ_TAIL_INDEX, Reg.QMX_ADMIN_CQ_HEAD_INDEX] s t)
  ∧ (∀ (s : State), s.lands 0x20000 = true → s.on Reg.QMX_CTRL_EN = true →
    Ends .queueDisable s fun t =>
      t.get Reg.QMX_CTRL_EN = 0 ∧ t.qmx.pairs = [] ∧ t.qmx.stalled = [] ∧ t.qmx.cmds = s.qmx.cmds ∧ t.qmx.stopping = true
      ∧ Keeps [Reg.QMX_CTRL_EN, Reg.QMX_STATUS_CQ_STALL] s t)
  ∧ (∀ (s : State), s.qmx.stopping = true → Ends .queueStopped s fun t => t.get Reg.QMX_STATUS_RDY = 0 ∧ Keeps [Reg.QMX_STATUS_RDY] s t)
  ∧ (∀ (s : State) (i : Nat) (p : Pair), s.lands 0x20020 = true → s.mode ≠ Mode.destaging → s.pair? 0 = some p →
    (i ≤ p.sizeM1 → i < 4096 →
      Ends (.adminSqTailWrite i) s fun t =>
        t.get Reg.QMX_ADMIN_SQ_TAIL_INDEX = i ∧ t.pair? 0 = some { p with sqTail := i } ∧ Keeps [Reg.QMX_ADMIN_SQ_TAIL_INDEX] s t)
    ∧ (p.sizeM1 < i →
      Ends (.adminSqTailWrite i) s fun t =>
        t.pair? 0 = some p ∧ t.get Reg.QMX_IGN_LAST_KIND = 1 ∧ t.get Reg.QMX_IGNORED_CNT = (s.get Reg.QMX_IGNORED_CNT + 1) % 2 ^ 32
        ∧ Keeps [Reg.QMX_IGN_LAST_KIND, Reg.QMX_IGN_LAST_QID, Reg.QMX_IGNORED_CNT, Reg.QMX_EVENT_IGNORED] s t))
  ∧ (∀ (s : State) (i : Nat) (p : Pair), s.lands 0x20024 = true → s.mode ≠ Mode.destaging → s.pair? 0 = some p → p.releases i = true →
      i < 4096 → s.qmx.stalled = [] →
    Ends (.adminCqHeadWrite i) s fun t =>
      t.get Reg.QMX_ADMIN_CQ_HEAD_INDEX = i ∧ t.pair? 0 = some { p with cqHead := i }
      ∧ Keeps [Reg.QMX_ADMIN_CQ_HEAD_INDEX, Reg.QMX_STATUS_CQ_STALL] s t)
  ∧ (∀ (s : State), s.lands 0x20034 = true → Ends .kick s fun t => t.qmx.interval = 2 ∧ Keeps [] s t)
  ∧ (∀ (s : State) (tails heads : List (Nat × Nat)), s.serving = true →
    Ends (.doorbellPoll tails heads) s fun t =>
      ∀ q p v, s.pair? q = some p → 1 ≤ q → Assoc.find tails (s.doorbellArea + 4 * (q - 1)) = some v → v ≠ p.rawTail →
        (v ≤ p.sizeM1 → (t.pair? q).map (·.sqTail) = some v) ∧ (p.sizeM1 < v → (t.pair? q).map (·.sqTail) = some p.sqTail))
  ∧ (∀ (s : State) (e : RawEntry) (rest : List RawEntry) (p : Pair), s.mayFetch = true → s.pair? 0 = some p → p.waits ≠ 0 → s.room 0 p ≠ 0 →
    EndsBy (fun t => after (screenAll t)) (.commandFetch (e :: rest)) s fun t =>
      (∃ c, t.cmd? s.qmx.nextCmd = some c ∧ c.e = decodeEntry 0 e ∧ c.fetchMode = s.mode ∧ c.begun = false)
      ∧ t.qmx.nextCmd = s.qmx.nextCmd + 1
      ∧ (t.pair? 0).map (·.sqHead) = some (if p.sqHead = p.sizeM1 then 0 else p.sqHead + 1)
      ∧ t.get Reg.QMX_CMD_FETCHED_CNT = (s.get Reg.QMX_CMD_FETCHED_CNT + 1) % 2 ^ 32
      ∧ Keeps [Reg.QMX_CMD_FETCHED_CNT, Reg.QMX_FENCE_WAIT_CNT] s t)
  ∧ (∀ (s : State), s.hif.hbAddr ≠ 0 → s.mode ≠ Mode.destaging → s.hif.flr = false → s.hif.d3hot = false →
    (s.hif.busMaster = true →
      Ends .heartbeatRecord s fun t =>
        t.out = .hostWrite s.hif.hbAddr (s.hbBody ++ leBytes 4 (crc32c s.hbBody)) s.hostAttr :: s.out ∧ t.sys.hbDue = false
        ∧ t.qmx.hbSeq = s.qmx.hbSeq + 1 ∧ t.get Reg.QMX_HB_CNT = (s.get Reg.QMX_HB_CNT + 1) % 2 ^ 32 ∧ Keeps [Reg.QMX_HB_CNT] s t)
    ∧ (s.hif.busMaster = false →
      Ends .heartbeatRecord s fun t =>
        t.out = s.out ∧ t.get Reg.QMX_HB_SKIP_CNT = (s.get Reg.QMX_HB_SKIP_CNT + 1) % 2 ^ 32
        ∧ Keeps [Reg.QMX_HB_SKIP_CNT, Reg.QMX_EVENT_HB_SKIP] s t))
  ∧ (∀ (s : State) (n : Nat) (c : Cmd) (page : List Nat) (used : Nat), s.mayRun n c = true → c.e.qid = 0 → adminOf c.e = some .getLog →
      s.logPage (c.e.options % 256) (specField c.e 40 1) = some (page, used) → specField c.e 44 4 % 4 = 0 → bufferLen c.e % 4 = 0 →
      bufferLen c.e ≠ 0 → bufferLen c.e ≤ 2 ^ 20 → s.bufferOk c.e (bufferLen c.e) = true →
    Answers n St.success page.length (.getLog c.e.cid) s fun t =>
      t = toHost c.e (padTo (bufferLen c.e) (page.drop (specField c.e 44 4))) (useFrees used s))
  ∧ (∀ (s : State) (n : Nat) (c : Cmd) (page : List Nat), s.mayRun n c = true → c.e.qid = 0 → adminOf c.e = some .identify →
      s.identifyPage (c.e.options % 256) (specField c.e 40 1) = some page → s.bufferOk c.e 4096 = true →
    Answers n St.success 0 (.identify c.e.cid) s fun t => t = toHost c.e (padTo 4096 page) s)

/-- Mailboxes, locks and the timer (R419, R434 to R442). Log entries 18 and 43 say where this follows a choice of the model and no rule.
-/
def Obligations.MailboxCommandsComplete : Prop :=
  (∀ (s : State) (m : Fin 64) (r : Requester) (hi : Word), s.lands (0x9000C + 0x20 * m.val) = true → hostKept m.val r = false →
    (s.boxRefuses m.val r = false →
      Ends (.mailboxSend m r hi) s fun t =>
        t.get (Reg.MBX_BOX_DATA_HI_DATA m.val) = hi.toNat ∧ t.get (Reg.MBX_BOX_STATUS_FULL m.val) = 1
        ∧ t.get (Reg.MBX_BOX_STATUS_RECALLED m.val) = 0 ∧ t.get Reg.MBX_SENT_CNT = (s.get Reg.MBX_SENT_CNT + 1) % 2 ^ 32
        ∧ Keeps [Reg.MBX_BOX_DATA_HI_DATA m.val, Reg.MBX_BOX_STATUS_FULL m.val, Reg.MBX_BOX_STATUS_RECALLED m.val, Reg.MBX_SENT_CNT] s t)
    ∧ (s.boxRefuses m.val r = true →
      Ends (.mailboxSend m r hi) s fun t =>
        t.get (Reg.MBX_BOX_STATUS_DROPPED m.val) = 1 ∧ t.get Reg.MBX_DROP_CNT = (s.get Reg.MBX_DROP_CNT + 1) % 2 ^ 32
        ∧ Keeps [Reg.MBX_BOX_STATUS_DROPPED m.val, Reg.MBX_DROP_CNT] s t)
    ∧ (ownerOf r ≠ 0 → s.boxReceiver m.val = ownerOf r →
      Ends (.mailboxTake m r) s fun t =>
        t.out = .readValue (s.get (Reg.MBX_BOX_DATA_HI_DATA m.val)) :: s.out ∧ t.get (Reg.MBX_BOX_STATUS_FULL m.val) = 0
        ∧ Keeps [Reg.MBX_BOX_STATUS_FULL m.val] s t)
    ∧ (s.boxReceiver m.val ≠ ownerOf r →
      Ends (.mailboxTake m r) s fun t => t.out = .readValue (s.get (Reg.MBX_BOX_DATA_HI_DATA m.val)) :: s.out ∧ Keeps [] s t))
  ∧ (∀ (s : State) (m : Fin 64), s.on (Reg.MBX_BOX_STATUS_FULL m.val) = true →
    Ends (.mailboxTimeout m) s fun t =>
      t.get (Reg.MBX_BOX_STATUS_TIMEOUT m.val) = 1 ∧ t.get Reg.MBX_TIMEOUT_CNT = (s.get Reg.MBX_TIMEOUT_CNT + 1) % 2 ^ 32
      ∧ Keeps [Reg.MBX_BOX_STATUS_TIMEOUT m.val, Reg.MBX_TIMEOUT_CNT] s t)
  ∧ (∀ (s : State) (m : Fin 64) (r : Requester), s.lands (0x90010 + 0x20 * m.val) = true → hostKept m.val r = false → ownerOf r ≠ 0 →
    (s.lockAnswer m.val = 0 →
      Ends (.lockRead m r) s fun t =>
        t.out = .readValue 0 :: s.out ∧ t.lockAnswer m.val = ownerOf r ∧ Keeps [Reg.MBX_BOX_LOCK_OWNER m.val] s t)
    ∧ (s.lockAnswer m.val ≠ 0 → Ends (.lockRead m r) s fun t => t.out = .readValue (s.lockAnswer m.val) :: s.out ∧ Keeps [] s t)
    ∧ (s.lockAnswer m.val = ownerOf r →
      Ends (.lockRelease m r (ownerOf r)) s fun t => t.lockAnswer m.val = 0 ∧ Keeps [Reg.MBX_BOX_LOCK_OWNER m.val] s t)
    ∧ (∀ v, s.lockAnswer m.val ≠ ownerOf r ∨ v ≠ ownerOf r →
      Ends (.lockRelease m r v) s fun t =>
        t.lockAnswer m.val = s.lockAnswer m.val ∧ t.get Reg.MBX_DROP_CNT = (s.get Reg.MBX_DROP_CNT + 1) % 2 ^ 32
        ∧ Keeps [Reg.MBX_DROP_CNT] s t))
  ∧ (∀ (s : State) (m : Fin 64) (n : Fin 9), s.lands 0x91004 = true → s.lockAnswer m.val ≠ 0 →
    Ends (.lockForce m (.core n)) s fun t =>
      t.lockAnswer m.val = 0 ∧ t.get Reg.MBX_LOCK_FORCE_CNT = (s.get Reg.MBX_LOCK_FORCE_CNT + 1) % 2 ^ 32
      ∧ Keeps [Reg.MBX_BOX_LOCK_OWNER m.val, Reg.MBX_LOCK_FORCE_CNT, Reg.MBX_LOCK_FORCE_GO, Reg.MBX_LOCK_FORCE_BOX] s t)
  ∧ (∀ (s : State) (n : Fin 9) (m : Fin 64), s.lands (0x91400 + 4 * m.val) = true →
    (s.on Reg.FOV_MIR_STATUS_LINK_UP = true → s.on Reg.FOV_MIR_CTRL_ENABLE = true →
      (∀ v, Ends (.peerLockRead n m (some v)) s fun t =>
        t.out = .readValue v :: .mirrorControl .lockRequest [m.val, 0] :: s.out ∧ Keeps [] s t)
      ∧ Ends (.peerLockRelease n m) s fun t => t.out = .mirrorControl .lockRequest [m.val, 1] :: s.out ∧ Keeps [] s t)
    ∧ (s.on Reg.FOV_MIR_STATUS_LINK_UP = false → ∀ v, Ends (.peerLockRead n m v) s fun t => t.out = .readValue 0xFF :: s.out ∧ Keeps [] s t))
  ∧ (∀ (s : State) (m : Fin 64), s.on Reg.FOV_MIR_STATUS_LINK_UP = true →
    (s.lockAnswer m.val = 0 →
      Ends (.peerLockRequest m false) s fun t =>
        t.lockAnswer m.val = 0x21 ∧ t.out = .mirrorControl .lockAnswer [m.val, 0] :: s.out ∧ Keeps [Reg.MBX_BOX_LOCK_OWNER m.val] s t)
    ∧ (s.lockAnswer m.val = 0x21 →
      Ends (.peerLockRequest m true) s fun t => t.lockAnswer m.val = 0 ∧ Keeps [Reg.MBX_BOX_LOCK_OWNER m.val] s t))
  ∧ (∀ (s : State) (n : Fin 9),
      s.get64 (Reg.CCH_CORE_MTIMECMP_LO_CMP n.val) (Reg.CCH_CORE_MTIMECMP_HI_CMP n.val) ≤ s.clock →
    Ends (.mtimeCompare n) s fun t => t.out = .timer n.val :: s.out ∧ Keeps [] s t)


/-- The host link, the resets that arrive over it, Bus Master Enable and D3hot (R269, R275, R284 to R288). Log entry 41 says where this
follows a choice of the model and no rule. -/
def Obligations.HostLinkComplete : Prop :=
  (∀ (s : State) (lane : Fin 16) (errors : Nat),
    (s.hif.lanesFailed = [] →
      Ends (.laneFailure lane 0) s fun t =>
        t.hif.lanesFailed = [lane.val] ∧ t.get Reg.HIF_LINK_STATUS_FAILED_LANES = 2 ^ lane.val ∧ t.get Reg.HIF_LINK_STATUS_WIDTH = 8
        ∧ t.get Reg.HIF_LINK_STATUS_REVERSED = (if lane.val < 8 then 1 else 0) ∧ t.get Reg.HIF_LINK_STATUS_DEGRADED = 1
        ∧ t.get Reg.HIF_DEGRADE_CNT = (s.get Reg.HIF_DEGRADE_CNT + 1) % 2 ^ 32 ∧ t.hif.up = s.hif.up)
    ∧ (errors ≠ 0 → s.get Reg.HIF_LINK_CTRL_LANE_ERR_LIMIT = 0 ∨ errors ≤ s.get Reg.HIF_LINK_CTRL_LANE_ERR_LIMIT →
      Ends (.laneFailure lane errors) s fun t =>
        t.get Reg.HIF_LANE_ERR_CNT = (s.get Reg.HIF_LANE_ERR_CNT + errors) % 2 ^ 32 ∧ t.hif = s.hif
        ∧ Keeps [Reg.HIF_LANE_ERR_CNT, Reg.HIF_FW_EVENT_LANE_ERR] s t))
  ∧ (∀ (s : State), s.lands 0x10004 = true → s.on Reg.HIF_LINK_CTRL_RESTORE = false →
    Ends .linkRestore s fun t =>
      t.hif.lanesFailed = [] ∧ t.hif.training = true ∧ t.get Reg.HIF_LINK_CTRL_RESTORE = 1 ∧ t.get Reg.HIF_LINK_STATUS_FAILED_LANES = 0
      ∧ t.get Reg.HIF_LINK_STATUS_DEGRADED = 0)
  ∧ (∀ (s : State) (speed : Fin 6) (lanes : List (Fin 16)), speed.val ≠ 0 → (∀ l, l ∈ lanes) → s.hif.lanesFailed = [] →
    Ends (.linkTrained speed lanes) s fun t =>
      t.hif.up = true ∧ t.hif.training = false ∧ t.get Reg.HIF_LINK_STATUS_SPEED = speed.val ∧ t.get Reg.HIF_LINK_STATUS_WIDTH = 16
      ∧ t.get Reg.HIF_LINK_CTRL_RESTORE = 0
      ∧ Keeps [Reg.HIF_LINK_STATUS_SPEED, Reg.HIF_LINK_STATUS_WIDTH, Reg.HIF_LINK_STATUS_REVERSED, Reg.HIF_LINK_STATUS_DEGRADED,
          Reg.HIF_LINK_STATUS_FAILED_LANES, Reg.HIF_LINK_CTRL_RESTORE] s t)
  ∧ (∀ (s : State), s.hif.busMaster = true →
    EndsBy stopMastering .busMasterDisable s fun t =>
      t.hif.busMaster = false ∧ t.masters = false
      ∧ (s.masters = true → t.get Reg.HIF_BME_CLEAR_CNT = (s.get Reg.HIF_BME_CLEAR_CNT + 1) % 2 ^ 32)
      ∧ Keeps [Reg.HIF_BME_CLEAR_CNT, Reg.HIF_FW_EVENT_BME_CLEARED, Reg.MSIX_PBA_LO_PENDING] s t)
  ∧ (∀ (s : State), s.hif.busMaster = false →
    EndsBy resumeMastering .busMasterEnable s fun t => t.hif.busMaster = true ∧ Keeps [] s t)
  ∧ (∀ (s : State), s.hif.d3hot = false → EndsBy stopMastering .d3hotEntry s fun t => t.hif.d3hot = true ∧ t.masters = false ∧ Keeps [Reg.MSIX_PBA_LO_PENDING] s t)
  ∧ (∀ (s : State), s.hif.d3hot = true → EndsBy resumeMastering .d0Return s fun t => t.hif.d3hot = false ∧ Keeps [] s t)
  ∧ (∀ (s : State), s.hif.flr = false →
    Ends .flr s fun t =>
      t.hif.flr = true ∧ t.masters = false ∧ t.get Reg.HIF_IRQ_CTRL_ASSERTED = 0 ∧ t.get Reg.MSIX_PBA_LO_PENDING = 0
      ∧ t.hif.heldMsgs = [] ∧ t.get Reg.HIF_FLR_CNT = (s.get Reg.HIF_FLR_CNT + 1) % 2 ^ 32 ∧ (∀ m : Fin 64, t.lockAnswer m.val ≠ 0x20))
  ∧ (∀ (s : State), s.hif.flr = true →
    Ends .flrComplete s fun t =>
      t.hif.flr = false ∧ t.qmx.pairs = [] ∧ t.get Reg.QMX_CTRL_EN = 0 ∧ t.get Reg.QMX_STATUS_RDY = 0 ∧ t.hif.busMaster = false
      ∧ t.hif.up = s.hif.up ∧ t.get Reg.HIF_LINK_STATUS_WIDTH = s.get Reg.HIF_LINK_STATUS_WIDTH)
  ∧ (∀ (s : State), ∀ c ∈ [Instr.perst, .hotReset, .dlDown],
    Ends c s fun t =>
      t.hif.up = false ∧ t.hif.training = true ∧ t.hif.flr = false ∧ t.hif.busMaster = false ∧ t.qmx.pairs = []
      ∧ t.get Reg.QMX_CTRL_EN = 0 ∧ t.get Reg.QMX_STATUS_RDY = 0 ∧ (∀ m : Fin 64, t.lockAnswer m.val ≠ 0x20))
  ∧ (∀ (s : State), s.masters = true →
    Ends (.hostReadError .doorbells) s fun t =>
      t.get Reg.HIF_HOST_READ_ERR_CNT = (s.get Reg.HIF_HOST_READ_ERR_CNT + 1) % 2 ^ 32 ∧ t.hif.aer = 2 :: s.hif.aer
      ∧ Keeps [Reg.HIF_HOST_READ_ERR_CNT, Reg.HIF_FW_EVENT_HOST_READ_ERR] s t)

/-- BAR2, its translation table, the host's vectors, and what configuration space reads (R270 to R272, R276 to R283). Log entries 41, 42,
45, 46 and 126 say where this follows a choice of the model and no rule. -/
def Obligations.HostAccessComplete : Prop :=
  (∀ (s : State) (addr len : Nat), s.on (Reg.HIF_XLAT_ENTRY_VALID (bits addr 28 8)) = true → s.hif.flr = false →
    (s.on (Reg.HIF_XLAT_ENTRY_RD_EN (bits addr 28 8)) = true →
      Ends (.bar2Access addr len none) s fun t =>
        t.out = .tlpCompletion (some (s.readBytes (s.get (Reg.HIF_XLAT_ENTRY_TARGET (bits addr 28 8)) * 2 ^ 28 + addr % 2 ^ 28) len)) :: s.out
        ∧ Keeps [] s t)
    ∧ (∀ data, s.on (Reg.HIF_XLAT_ENTRY_WR_EN (bits addr 28 8)) = true →
      Ends (.bar2Access addr len (some data)) s fun t =>
        t = storeBytes (s.get (Reg.HIF_XLAT_ENTRY_TARGET (bits addr 28 8)) * 2 ^ 28 + addr % 2 ^ 28) (data.take len) s))
  ∧ (∀ (s : State) (addr len : Nat), s.on (Reg.HIF_XLAT_ENTRY_VALID (bits addr 28 8)) = false →
    (Ends (.bar2Access addr len none) s fun t =>
      t.out = .tlpCompletion none :: s.out ∧ t.hif.aer = 1 :: s.hif.aer
      ∧ t.get Reg.HIF_XLAT_FAULT_CNT = (s.get Reg.HIF_XLAT_FAULT_CNT + 1) % 2 ^ 32
      ∧ Keeps [Reg.HIF_XLAT_FAULT_CNT, Reg.HIF_FW_EVENT_XLAT_FAULT] s t)
    ∧ ∀ data, Ends (.bar2Access addr len (some data)) s fun t =>
      t.out = s.out ∧ t.hif.aer = 1 :: s.hif.aer ∧ t.get Reg.HIF_XLAT_FAULT_CNT = (s.get Reg.HIF_XLAT_FAULT_CNT + 1) % 2 ^ 32
      ∧ Keeps [Reg.HIF_XLAT_FAULT_CNT, Reg.HIF_FW_EVENT_XLAT_FAULT] s t)
  ∧ (∀ (s : State) (n : Fin 9) (k : Nat), s.lands 0x1008C = true → s.get Reg.HIF_XLAT_SEL_INDEX = k → k < 256 →
      s.on Reg.HIF_XLAT_COMMIT_BUSY = false →
    (bits (s.get Reg.HIF_XLAT_STAGE_STAGE) 20 12 ≤ 0x107 →
      Ends (.xlatCommit (.core n)) s fun t =>
        t.get (Reg.HIF_XLAT_ENTRY_TARGET k) = bits (s.get Reg.HIF_XLAT_STAGE_STAGE) 20 12
        ∧ t.get (Reg.HIF_XLAT_ENTRY_VALID k) = bitOf (s.get Reg.HIF_XLAT_STAGE_STAGE) 0
        ∧ t.get (Reg.HIF_XLAT_ENTRY_RD_EN k) = bitOf (s.get Reg.HIF_XLAT_STAGE_STAGE) 1
        ∧ t.get (Reg.HIF_XLAT_ENTRY_WR_EN k) = bitOf (s.get Reg.HIF_XLAT_STAGE_STAGE) 2
        ∧ t.get Reg.HIF_XLAT_COMMIT_BUSY = 1 ∧ t.get Reg.HIF_XLAT_COMMIT_REFUSED = 0
        ∧ Keeps [Reg.HIF_XLAT_ENTRY_TARGET k, Reg.HIF_XLAT_ENTRY_VALID k, Reg.HIF_XLAT_ENTRY_RD_EN k, Reg.HIF_XLAT_ENTRY_WR_EN k,
            Reg.HIF_XLAT_COMMIT_BUSY, Reg.HIF_XLAT_COMMIT_REFUSED] s t)
    ∧ (0x107 < bits (s.get Reg.HIF_XLAT_STAGE_STAGE) 20 12 →
      Ends (.xlatCommit (.core n)) s fun t => t.get Reg.HIF_XLAT_COMMIT_REFUSED = 1 ∧ Keeps [Reg.HIF_XLAT_COMMIT_REFUSED] s t)
    ∧ (s.on Reg.HIF_XLAT_CTRL_HOST_WR_OK = false →
        bitOf (s.get Reg.HIF_XLAT_STAGE_STAGE) 2 = 1 ∨ 0x100 ≤ bits (s.get Reg.HIF_XLAT_STAGE_STAGE) 20 12 →
      Ends (.xlatCommit .host) s fun t => t.get Reg.HIF_XLAT_COMMIT_REFUSED = 1 ∧ Keeps [Reg.HIF_XLAT_COMMIT_REFUSED] s t))
  ∧ (∀ (s : State), Ends .xlatDrainDone s fun t => t.get Reg.HIF_XLAT_COMMIT_BUSY = 0 ∧ Keeps [Reg.HIF_XLAT_COMMIT_BUSY] s t)
  ∧ (∀ (s : State), s.lands 0x10040 = true → s.on Reg.HIF_IRQ_CTRL_ASSERTED = true → s.on Reg.HIF_IRQ_CTRL_SUMMARY_ON_MSIX = false →
    EndsBy evalLine .intxAck s fun t =>
      t.get Reg.HIF_IRQ_CTRL_ASSERTED = 0 ∧ t.hif.announced = [] ∧ (∀ q, q ∈ t.hif.pend ↔ q ∈ s.hif.pend ∧ q ∉ s.hif.announced)
      ∧ t.out = .deassertInta :: s.out ∧ Keeps [Reg.HIF_IRQ_CTRL_ASSERTED] s t)
  ∧ (∀ (s : State) (n : Fin 9) (v : Nat), s.lands 0x10018 = true → v ∈ [1, 2, 3, 4, 5] →
    EndsBy (hostEvent v) (.hostRaise (.core n) (2 ^ v)) s fun t => t = ungate (islandOf 0x10018) s)
  ∧ (∀ (s : State) (mask : Nat), s.lands 0x10018 = true → Ends (.hostRaise .host mask) s fun t => t = ungate (islandOf 0x10018) s)
  ∧ (∀ (s : State), s.hif.flr = false →
    s.cfgRead 0x00 = some 0x91081F3C ∧ s.cfgRead 0x08 = some 0x01040000 ∧ s.cfgRead 0x18 = some 12 ∧ s.cfgRead 0x2C = some 0x00011F3C
    ∧ s.cfgRead 0x04 = some (s.cfgWord 0x04 + (0x10 + 8 * s.get Reg.HIF_IRQ_CTRL_ASSERTED) * 2 ^ 16)
    ∧ s.cfgRead 0x228 = some s.vsecState
    ∧ (s.on Reg.SYS_STRAP_COMPAT = true → s.cfgRead 0x50 = some 0 ∧ s.cfgRead 0x40 = some 0x37001))
  ∧ (∀ (s : State) (off : Nat), s.hif.flr = true → s.cfgRead off = none)


/-- The control cluster's cache: block and range operations, errors, fills and writebacks (R422 to R432). Log entries 68, 69 and 70 say
where this follows a choice of the model and no rule. -/
def Obligations.CacheCommandsComplete : Prop :=
  (∀ (s : State) (n : Fin 9) (addr : Nat), regionOf addr ≠ .none → s.fillOut (addr / 64) = false → s.victim (addr / 64) = none →
    (EndsBy (retryBank (bankOf (addr / 64))) (.cboInval n addr) s fun t =>
      t.cchLine (addr / 64) = none ∧ (∀ c, t.l1Line c (addr / 64) = none) ∧ t.lineHeld (addr / 64) = false ∧ Keeps [] s t)
    ∧ (s.dirtyData (addr / 64) = none →
      (EndsBy (retryBank (bankOf (addr / 64))) (.cboClean n addr) s fun t =>
        t.cch.lines = s.cch.lines ∧ t.cch.l1d = s.cch.l1d ∧ t.cch.side = s.cch.side ∧ Keeps [] s t)
      ∧ EndsBy (retryBank (bankOf (addr / 64))) (.cboFlush n addr) s fun t => t.lineHeld (addr / 64) = false ∧ Keeps [] s t)
    ∧ (∀ d, s.dirtyData (addr / 64) = some d →
      (EndsBy (retryBank (bankOf (addr / 64))) (.cboClean n addr) s fun t =>
        t.mem = (memLine (addr / 64) d s).mem ∧ t.dirtyData (addr / 64) = none ∧ t.lineHeld (addr / 64) = s.lineHeld (addr / 64)
        ∧ ∀ f, t.get f = s.get f)
      ∧ EndsBy (retryBank (bankOf (addr / 64))) (.cboFlush n addr) s fun t =>
        t.mem = (memLine (addr / 64) d s).mem ∧ t.lineHeld (addr / 64) = false ∧ ∀ f, t.get f = s.get f))
  ∧ (∀ (s : State) (n : Fin 9) (addr : Nat), regionOf addr = .none → ∀ c ∈ [Instr.cboClean n addr, .cboFlush n addr, .cboInval n addr],
    Ends c s fun t => t.out = .accessFault n.val .store addr :: s.out ∧ Keeps [] s t)
  ∧ (∀ (s : State), s.lands 0x8001C = true → s.on Reg.CCH_MAINT_CTRL_BUSY = false →
    ∀ x ∈ [(Instr.clean, 1, 1, s.inRange), (.inval, 2, 2, s.inRange), (.cacheFlush, 3, 3, s.inRange),
      (.cleanAll, 4, 1, fun _ => true), (.flushAll, 5, 3, fun _ => true), (.invalAll, 6, 2, fun _ => true)],
    EndsBy (maintain x.2.2.1 x.2.2.2) x.1 s fun t =>
      t.get Reg.CCH_MAINT_CTRL_BUSY = 1 ∧ t.get Reg.CCH_MAINT_CTRL_GO = 1 ∧ t.get Reg.CCH_MAINT_CTRL_OP = x.2.1 ∧ t.cch = s.cch
      ∧ Keeps [Reg.CCH_MAINT_CTRL_BUSY, Reg.CCH_MAINT_CTRL_GO, Reg.CCH_MAINT_CTRL_OP] s t)
  ∧ (∀ (s : State), s.on Reg.CCH_MAINT_CTRL_BUSY = true → (∀ m ∈ s.cch.misses, m.ops = []) →
    Ends .maintDone s fun t =>
      t.get Reg.CCH_MAINT_CTRL_BUSY = 0 ∧ t.get Reg.CCH_MAINT_CTRL_GO = 0 ∧ t.get Reg.CCH_EVENT_MAINT_DONE = 1
      ∧ t.get Reg.CCH_MAINT_DONE_CNT = (s.get Reg.CCH_MAINT_DONE_CNT + 1) % 2 ^ 32
      ∧ Keeps [Reg.CCH_MAINT_CTRL_BUSY, Reg.CCH_MAINT_CTRL_GO, Reg.CCH_EVENT_MAINT_DONE, Reg.CCH_MAINT_DONE_CNT] s t)
  ∧ (∀ (s : State) (addr : Nat) (x : CacheLine), s.cchLine (addr / 64) = some x →
    (Ends (.cacheCe addr) s fun t =>
      t.get Reg.CCH_CE_CNT = (s.get Reg.CCH_CE_CNT + 1) % 2 ^ 32 ∧ t.get Reg.CCH_EVENT_CE = 1 ∧ t.cch = s.cch
      ∧ Assoc.getD t.rpr.ce (256 + bankOf (addr / 64)) 0 = Assoc.getD s.rpr.ce (256 + bankOf (addr / 64)) 0 + 1
      ∧ Keeps [Reg.CCH_CE_CNT, Reg.CCH_EVENT_CE] s t)
    ∧ (x.dirty = false → s.bankMiss (bankOf (addr / 64)) = false → ∀ core,
      Ends (.cacheUe core addr) s fun t =>
        t.cchLine (addr / 64) = none ∧ t.cch.misses = s.cch.misses ++ [{ line := addr / 64 }] ∧ t.out = s.out
        ∧ t.get Reg.CCH_UE_CNT = (s.get Reg.CCH_UE_CNT + 1) % 2 ^ 32 ∧ t.get Reg.CCH_EVENT_UE = 1
        ∧ t.get Reg.CCH_LAST_ERR_LO_ADDR = addr / 64 % 2 ^ 26 ∧ t.get Reg.CCH_LAST_ERR_HI_ADDR = addr / 64 / 2 ^ 26 % 2 ^ 8
        ∧ t.get Reg.CCH_LAST_ERR_HI_TAG = 0
        ∧ Keeps [Reg.CCH_UE_CNT, Reg.CCH_EVENT_UE, Reg.CCH_LAST_ERR_LO_ADDR, Reg.CCH_LAST_ERR_HI_ADDR, Reg.CCH_LAST_ERR_HI_TAG] s t)
    ∧ (x.dirty = true → s.rpr.dramUes = [] → ∀ core : Fin 9,
      Ends (.cacheUe (some core) addr) s fun t =>
        t.cchLine (addr / 64) = none ∧ t.mem = (memLine (addr / 64) x.data s).mem ∧ addr / 64 ∈ t.cch.poison
        ∧ t.out = .accessFault core.val .load addr :: s.out ∧ t.get Reg.CCH_UE_CNT = (s.get Reg.CCH_UE_CNT + 1) % 2 ^ 32
        ∧ t.get Reg.CCH_EVENT_UE = 1))
  ∧ (∀ (s : State) (index : Fin 4096) (way : Fin 16),
    ((∀ x ∈ s.cch.lines, ¬(x.way = way.val ∧ x.line % 4096 = index.val)) →
      Ends (.tagParityError index way) s fun t =>
        t.cch = s.cch ∧ t.get Reg.CCH_TAG_PE_CNT = (s.get Reg.CCH_TAG_PE_CNT + 1) % 2 ^ 32
        ∧ t.get Reg.CCH_LAST_ERR_HI_TAG = 1 ∧ t.get Reg.CCH_LAST_ERR_HI_WAY = way.val ∧ t.get Reg.CCH_LAST_ERR_LO_ADDR = index.val
        ∧ Keeps [Reg.CCH_TAG_PE_CNT, Reg.CCH_EVENT_TAG_PE, Reg.CCH_LAST_ERR_LO_ADDR, Reg.CCH_LAST_ERR_HI_ADDR,
            Reg.CCH_LAST_ERR_HI_TAG, Reg.CCH_LAST_ERR_HI_WAY] s t)
    ∧ (∀ x, s.cch.lines = [x] → x.way = way.val → x.line % 4096 = index.val →
      Ends (.tagParityError index way) s fun t =>
        t.cch.lines = []
        ∧ (x.dirty = true → t.get Reg.CCH_STATUS_DATA_LOST = 1 ∧ t.get Reg.CCH_TAG_UE_CNT = (s.get Reg.CCH_TAG_UE_CNT + 1) % 2 ^ 32)
        ∧ (x.dirty = false → t.get Reg.CCH_STATUS_DATA_LOST = s.get Reg.CCH_STATUS_DATA_LOST
            ∧ t.get Reg.CCH_TAG_PE_CNT = (s.get Reg.CCH_TAG_PE_CNT + 1) % 2 ^ 32)))
  ∧ (∀ (s : State) (l : Nat), s.cch.misses = [{ line := l }] → s.cch.lines = [] → s.cch.waysOff = [] → s.cch.waiting = [] →
      l ∉ s.cch.poison →
    Ends (.cacheFillComplete l) s fun t =>
      t.cch.lines = [⟨0, l, s.lineBytes l, false⟩] ∧ t.cch.misses = [] ∧ t.cch.humOn = s.on Reg.CCH_CTRL_HUM ∧ Keeps [] s t)
  ∧ (∀ (s : State) (v : Victim), s.cch.victims.find? (fun x => x.line == v.line) = some v →
    EndsBy (retryBank (bankOf v.line)) (.victimWritebackLanded v.line) s fun t =>
      t.mem = (memLine v.line v.data s).mem ∧ t.cch.victims = s.cch.victims.erase v ∧ ∀ f, t.get f = s.get f)


/-- Self-repair: records, cores, spare rows, DRAM repairs, the self-test and the lanes (R453 to R464). Log entries 71, 72, 130 and 131 say
where this follows a choice of the model and no rule. -/
def Obligations.SelfRepairCommandsComplete : Prop :=
  (∀ (s : State) (r : RepRec) (rest : List RepRec), s.lands 0x110020 = true → s.rpr.owed = [] → s.rpr.owedRows = [] → s.rpr.fifo = r :: rest →
    (s.mayStore = true →
      Ends .repairRecordPop s fun t =>
        t.rpr.fifo = rest
        ∧ t.mem = (writeTable (s.repairTable.total + 1) ((s.repairTable.rows ++ (r.row (s.nowMs / 1000 % 2 ^ 32)).toList).take 252)
            (writeBytes (ledgerEntryAt s.repairTable.total)
              (LedgerEntry.bytes ⟨s.nowMs, s.repairTable.total, r,
                if r.kind = 9 ∨ r.kind = 11 then s.get Reg.RPR_DRAM_PPR_ROW_ROW else 0, s.sparesLeft r⟩) s)).mem)
    ∧ (s.mayStore = false → Ends .repairRecordPop s fun t => t.rpr = s.rpr ∧ Keeps [] s t))
  ∧ (∀ (s : State) (n : Fin 9) (b : Bool), Ends (.corePeriodicTest n true b) s fun t => t = s)
  ∧ (∀ (s : State) (n k : Fin 9), bitOf (s.get Reg.CCH_CORES_IN_SERVICE) n.val = 1 → s.get Reg.CCH_CORES_SPARE = 2 ^ k.val → k ≠ n →
    EndsBy settle (.corePeriodicTest n false true) s fun t =>
      bitOf (t.get Reg.CCH_CORES_IN_SERVICE) n.val = 0 ∧ bitOf (t.get Reg.CCH_CORES_IN_SERVICE) k.val = 1
      ∧ (∀ i : Fin 9, i ≠ n → i ≠ k → bitOf (t.get Reg.CCH_CORES_IN_SERVICE) i.val = bitOf (s.get Reg.CCH_CORES_IN_SERVICE) i.val)
      ∧ t.get Reg.CCH_CORES_SPARE = 0 ∧ n.val ∈ t.rpr.coresRetired ∧ (∀ m : Fin 64, t.lockAnswer m.val ≠ n.val + 1))
  ∧ (∀ (s : State) (array row : Nat), arrayExists array = true →
      s.rowQuiet array row = true → Assoc.getD s.rpr.rowsUsed (array * 65536 + row / 512) 0 < 4 → s.on Reg.RPR_CTRL_FIELD_REMAP_EN = true → s.rpr.fifo.length < 32 →
    Ends (.sramRowRemap array row) s fun t =>
      t.get Reg.RPR_ROW_REMAP_CNT = (s.get Reg.RPR_ROW_REMAP_CNT + 1) % 2 ^ 32
      ∧ Assoc.getD t.rpr.rowsUsed (array * 65536 + row / 512) 0 = Assoc.getD s.rpr.rowsUsed (array * 65536 + row / 512) 0 + 1
      ∧ t.rpr.fifo = s.rpr.fifo ++ [⟨1, array / 256, array % 256, 0, row⟩]
      ∧ Keeps [Reg.RPR_ROW_REMAP_CNT, Reg.RPR_EVENT_REC_READY, Reg.RPR_REC_CNT] s t)
  ∧ (∀ (s : State) (loc row : Nat),
    EndsBy settle (.dramRowLimit loc row false) s fun t =>
      t.get Reg.RPR_DRAM_LAST_ROW_ROW = row % 2 ^ 18 ∧ t.get Reg.RPR_DRAM_LAST_LOC = loc % 2 ^ 13
      ∧ t.get Reg.RPR_DRAM_CE_CNT = (s.get Reg.RPR_DRAM_CE_CNT + 1) % 2 ^ 32
      ∧ t.get Reg.RPR_DRAM_ROW_LIMIT_CNT = (s.get Reg.RPR_DRAM_ROW_LIMIT_CNT + 1) % 2 ^ 32 ∧ t.get Reg.RPR_DRAM_EVENT_ROW_LIMIT = 1
      ∧ Keeps [Reg.RPR_DRAM_LAST_ROW_ROW, Reg.RPR_DRAM_LAST_LOC, Reg.RPR_DRAM_CE_CNT, Reg.RPR_DRAM_EVENT_CE, Reg.RPR_DRAM_ROW_LIMIT_CNT,
          Reg.RPR_DRAM_EVENT_ROW_LIMIT] s t)
  ∧ (∀ (s : State) (loc row : Nat), s.lands 0x111010 = true → s.on Reg.RPR_DRAM_PPR_BUSY = false →
    Ends (.dramPpr loc row false) s fun t =>
      t.get Reg.RPR_DRAM_PPR_ROW_ROW = row % 2 ^ 18 ∧ t.get Reg.RPR_DRAM_PPR_LOC = loc % 2 ^ 13 ∧ t.get Reg.RPR_DRAM_PPR_BUSY = 1
      ∧ t.get Reg.RPR_DRAM_PPR_FAIL = 0
      ∧ Keeps [Reg.RPR_DRAM_PPR_ROW_ROW, Reg.RPR_DRAM_PPR_LOC, Reg.RPR_DRAM_PPR_BUSY, Reg.RPR_DRAM_PPR_FAIL, Reg.RPR_DRAM_PPR_HARD,
          Reg.RPR_DRAM_PPR_GO] s t)
  ∧ (∀ (s : State) (region : Nat), s.on Reg.RPR_DRAM_PPR_BUSY = true →
    (repairGroup (s.get Reg.RPR_DRAM_PPR_LOC) ∉ s.rpr.softUsed →
      Ends (.dramPprDone region) s fun t =>
        t.get Reg.RPR_DRAM_PPR_BUSY = 0 ∧ t.get Reg.RPR_DRAM_PPR_FAIL = s.get Reg.RPR_DRAM_PPR_FAIL
        ∧ repairGroup (s.get Reg.RPR_DRAM_PPR_LOC) ∈ t.rpr.softUsed ∧ t.rpr.regions = s.rpr.regions
        ∧ t.get Reg.RPR_DRAM_EVENT_PPR_DONE = 1 ∧ t.get Reg.RPR_DRAM_PPR_CNT = (s.get Reg.RPR_DRAM_PPR_CNT + 1) % 2 ^ 32)
    ∧ (repairGroup (s.get Reg.RPR_DRAM_PPR_LOC) ∈ s.rpr.softUsed → region ∉ s.rpr.regions → s.rpr.regions.length < 64 →
      Ends (.dramPprDone region) s fun t =>
        t.get Reg.RPR_DRAM_PPR_BUSY = 0 ∧ t.get Reg.RPR_DRAM_PPR_FAIL = 1 ∧ t.rpr.regions = s.rpr.regions ++ [region]
        ∧ t.get Reg.RPR_DRAM_PPR_CNT = (s.get Reg.RPR_DRAM_PPR_CNT + 1) % 2 ^ 32))
  ∧ (∀ (s : State) (engines cores : List Nat) (rows : List (Nat × Nat)) (columns : List Nat), s.on Reg.RPR_POST_DONE = false →
    EndsBy settle (.postDone engines cores rows columns) s fun t =>
      t.get Reg.RPR_POST_DONE = 1 ∧ t.get Reg.RPR_POST_ENGINES = t.inService.length ∧ Island.host ∉ t.sys.inReset
      ∧ Island.fab ∉ t.sys.inReset ∧ t.hif.training = true)
  ∧ (∀ (s : State) (port : Fin 7) (lane : Fin 4), s.rpr.lanes = [] → (port.val < 4 → (s.port port.val).trained = 0) →
      (4 ≤ port.val → s.on Reg.FOV_MIR_STATUS_LINK_UP = false) →
    EndsBy settle (.fabricLaneFailure port lane) s fun t =>
      t.rpr.lanes = [4 * port.val + lane.val] ∧ t.fabLanes port.val = 2
      ∧ t.get Reg.RPR_LANE_CHANGE_CNT = (s.get Reg.RPR_LANE_CHANGE_CNT + 1) % 2 ^ 32)
  ∧ (∀ (s : State), s.lands 0x110000 = true → (∀ p : Fin 4, (s.port p.val).trained = 0) → s.on Reg.FOV_MIR_STATUS_LINK_UP = false →
    EndsBy settle .laneRestore s fun t =>
      t.rpr.lanes = [] ∧ (∀ p : Fin 7, t.fabLanes p.val = 4) ∧ (s.rpr.lanes = [] → Keeps [] s t))


/-- DMA channels and the control cores' accesses (R420 to R423, R444 to R451). Log entries 7, 68, 73 and 74 say where this follows a
choice of the model and no rule. -/
def Obligations.MemoryAgentsComplete : Prop :=
  (∀ (s : State) (core : Fin 9) (kind : AccessKind) (addr size value : Nat) (evict : List Nat) (b : Bool),
      accessFaults kind addr size = true →
    Ends (.coreAccess core kind addr size value evict b) s fun t => t.out = .accessFault core.val kind addr :: s.out ∧ Keeps [] s t)
  ∧ (∀ (s : State) (core : Fin 9) (addr size : Nat) (x : CoreLine), regionOf addr = .dram → 1 ≤ size → addr % 64 + size ≤ 64 →
      s.l1Line core.val (addr / 64) = some x →
    Ends (.coreAccess core .load addr size 0 [] false) s fun t =>
      t.out = .coreData core.val addr ((x.data.drop (addr % 64)).take size) :: s.out ∧ t.cch = s.cch ∧ Keeps [] s t)
  ∧ (∀ (s : State) (core : Fin 9) (off : Nat), off < 0x400000 → off % 4 = 0 → s.mustWait off = false →
    (Ends (.coreAccess core .load (0x2000000000 + off) 4 0 [] false) s fun t =>
      t = emit (.coreData core.val (0x2000000000 + off) (leBytes 4 (busRead (.core core) off s).1)) (busRead (.core core) off s).2)
    ∧ ∀ v : Word, Ends (.coreAccess core .store (0x2000000000 + off) 4 v.toNat [] false) s fun t => t = busWrite (.core core) off v.toNat s)
  ∧ (∀ (s : State) (c : Fin 16) (host : List Nat), s.dmaReady c.val = true →
    ((s.readDesc (s.headDesc c.val)).ok = false → (s.readDesc (s.headDesc c.val)).srcHost = false →
        (s.readDesc (s.headDesc c.val)).dstHost = false →
      Ends (.dmaDescriptor c host none none) s fun t =>
        (t.dmaRun c.val).map (fun r => (r.tag, r.status, r.bytes)) = some ((s.readDesc (s.headDesc c.val)).tag, 1, 0)
        ∧ t.get (Reg.DMA_CH_STATUS_BUSY c.val) = 1
        ∧ t.get (Reg.DMA_CH_HEAD_HEAD c.val)
          = (s.get (Reg.DMA_CH_HEAD_HEAD c.val) + 1) % s.chSize c.val % 2 ^ (Reg.DMA_CH_HEAD_HEAD c.val).width
        ∧ Keeps [Reg.DMA_CH_STATUS_BUSY c.val, Reg.DMA_CH_HEAD_HEAD c.val] s t)
    ∧ ((s.readDesc (s.headDesc c.val)).ok = true → (s.readDesc (s.headDesc c.val)).placed = true →
        (s.readDesc (s.headDesc c.val)).op = 1 → (s.readDesc (s.headDesc c.val)).mode = 0 →
        (s.readDesc (s.headDesc c.val)).srcHost = false → (s.readDesc (s.headDesc c.val)).dstHost = false →
        regionOf (s.readDesc (s.headDesc c.val)).src = .dram → regionOf (s.readDesc (s.headDesc c.val)).dst = .dram → s.cch.poison = [] →
      Ends (.dmaDescriptor c host none none) s fun t =>
        (t.dmaRun c.val).map (fun r => (r.tag, r.status, r.bytes))
          = some ((s.readDesc (s.headDesc c.val)).tag, 0, (s.readDesc (s.headDesc c.val)).length)
        ∧ t.mem = (writeBytes (s.readDesc (s.headDesc c.val)).dst
            (s.readBytes (s.readDesc (s.headDesc c.val)).src (s.readDesc (s.headDesc c.val)).length) s).mem
        ∧ t.get (Reg.DMA_CH_STATUS_BUSY c.val) = 1))
  ∧ (∀ (s : State) (c : Fin 16) (r : DmaRun), s.dmaRun c.val = some r → r.ended = true →
    Ends (.dmaDescriptorDone c) s fun t =>
      t.dmaRun c.val = none ∧ t.get (Reg.DMA_CH_STATUS_BUSY c.val) = 0
      ∧ t.get (Reg.DMA_CH_STATUS_HALTED c.val) = (if r.status = 0 then s.get (Reg.DMA_CH_STATUS_HALTED c.val) else 1)
      ∧ t.get Reg.DMA_DESC_DONE_CNT = (s.get Reg.DMA_DESC_DONE_CNT + 1) % 2 ^ 32
      ∧ t.get (Reg.DMA_CH_CQ_TAIL_CQ_TAIL c.val)
        = (s.get (Reg.DMA_CH_CQ_TAIL_CQ_TAIL c.val) + 1) % s.chSize c.val % 2 ^ (Reg.DMA_CH_CQ_TAIL_CQ_TAIL c.val).width
      ∧ t.readByte (s.get64 (Reg.DMA_CH_CQ_BASE_LO_BASE c.val) (Reg.DMA_CH_CQ_BASE_HI_BASE c.val)
          + 32 * s.get (Reg.DMA_CH_CQ_TAIL_CQ_TAIL c.val) + 2) = BitVec.ofNat 8 r.status
      ∧ ∀ a, a < s.get64 (Reg.DMA_CH_CQ_BASE_LO_BASE c.val) (Reg.DMA_CH_CQ_BASE_HI_BASE c.val)
            + 32 * s.get (Reg.DMA_CH_CQ_TAIL_CQ_TAIL c.val)
          ∨ s.get64 (Reg.DMA_CH_CQ_BASE_LO_BASE c.val) (Reg.DMA_CH_CQ_BASE_HI_BASE c.val)
            + 32 * s.get (Reg.DMA_CH_CQ_TAIL_CQ_TAIL c.val) + 32 ≤ a → t.readByte a = s.readByte a)
  ∧ (∀ (s : State) (c : Fin 16), s.lands (0x7102C + 0x40 * c.val) = true →
    Ends (.dmaResume c) s fun t =>
      t.get (Reg.DMA_CH_STATUS_HALTED c.val) = 0 ∧ t.get (Reg.DMA_CH_CTRL_RESUME c.val) = 0 ∧ t.dma = s.dma
      ∧ Keeps [Reg.DMA_CH_STATUS_HALTED c.val, Reg.DMA_CH_CTRL_RESUME c.val] s t)
  ∧ (∀ (s : State) (c : Fin 16), s.lands (0x71000 + 0x40 * c.val) = true → s.dmaRun c.val = none →
    Ends (.dmaChannelDisable (some c)) s fun t => t.get (Reg.DMA_CH_CFG_ENABLE c.val) = 0 ∧ Keeps [Reg.DMA_CH_CFG_ENABLE c.val] s t)
  ∧ (∀ (s : State), s.lands 0x70000 = true →
    Ends (.dmaChannelDisable none) s fun t => t.get Reg.DMA_CTRL_ENABLE = 0 ∧ ∀ c : Fin 16, t.dmaRun c.val = none)

/-- Dispatch, start and end of jobs, and the arbitration of a shadow mismatch (R84, R92 to R105). Log entries 16, 75, 76, 77, 110, 111,
112, 113, 117, 118 and 120 say where this follows a choice of the model and no rule. -/
def Obligations.JobCommandsComplete : Prop :=
  (∀ (s : State), s.on Reg.OXE_CTRL_ENABLE = false → Ends .jobDispatch s fun t => t = s)
  ∧ (∀ (s : State) (cls r e : Nat), s.on Reg.OXE_CTRL_ENABLE = true → s.returnedNext = none → cls < 4 → s.nextRing cls = some r →
      (∀ k, k < cls → s.nextRing k = none) → (s.engineSet r []).2 = false → Assoc.getD s.oxe.backlog r [] = [] →
      s.fewest (s.headJob r).slot (s.withRoom (s.engineSet r []).1) = some e → (s.headJob r).eligible = false →
      s.jobOk (s.headJob r) = true →
    Ends .jobDispatch s fun t =>
      t.job? s.oxe.nextJob = some { s.headJob r with engine := some e } ∧ (t.eng e).queue = (s.eng e).queue ++ [s.oxe.nextJob]
      ∧ t.oxe.nextJob = s.oxe.nextJob + 1 ∧ Assoc.find t.oxe.lastRing cls = some r
      ∧ t.get (Reg.OXE_RING_HEAD_HEAD r) = (s.get (Reg.OXE_RING_HEAD_HEAD r) + 1) % s.ringSize r % 2 ^ (Reg.OXE_RING_HEAD_HEAD r).width
      ∧ Keeps [Reg.OXE_RING_HEAD_HEAD r] s t)
  ∧ (∀ (s : State) (e : Fin 28) (id : Nat) (rest : List Nat) (j : Job),
      s.engState e.val = EngSt.inService ∨ s.engState e.val = EngSt.quarantined → (s.eng e.val).running = false →
      (s.eng e.val).queue = id :: rest → s.job? id = some j → j.engine = some e.val →
    (s.decodeCheck j = some true →
      Ends (.jobStart e) s fun t =>
        (t.eng e.val).running = true ∧ (t.eng e.val).queue = id :: rest
        ∧ (t.job? id).map (·.coef) = some (Assoc.set j.coef 0 (s.captureCoef j))
        ∧ (j.op ≠ 5 → (t.eng e.val).buffer = some j.slot ∧ t.get (Reg.OXE_ENG_INFO_SLOT e.val) = j.slot % 2 ^ 7)
        ∧ (j.op = 5 → (t.eng e.val).buffer = (s.eng e.val).buffer) ∧ Keeps [Reg.OXE_ENG_INFO_SLOT e.val] s t)
    ∧ (s.decodeCheck j = none → Ends (.jobStart e) s fun t => t = s)
    ∧ (s.decodeCheck j = some false → j.shadowed = false → j.ended = [] → j.owner = .firmware → j.ring < 16 →
      EndsBy (fun t => after (settleEngine e.val t)) (.jobStart e) s fun t =>
        t.job? id = none ∧ (t.eng e.val).running = false ∧ (t.eng e.val).queue = rest
        ∧ t.mem = (recordJob j e.val 2 0 0 s).mem
        ∧ t.get (Reg.OXE_ENG_JOB_CNT e.val) = (s.get (Reg.OXE_ENG_JOB_CNT e.val) + 1) % 2 ^ 32))
  ∧ (∀ (s : State) (e : Fin 28) (id : Nat) (rest : List Nat) (j : Job) (x : JobEnd) (noise : List (Nat × List Block)) (delivered : List Nat)
      (corrected stall : Nat) (partner : List (Nat × (Block × Nat))), (s.eng e.val).running = true → (s.eng e.val).queue = id :: rest →
      s.job? id = some j → j.owner = .firmware → j.ring < 16 → (∀ y ∈ j.srcs, y.kind ≠ 1) → (∀ y ∈ j.dsts, y.kind ≠ 1) →
      j.engine = some e.val → j.shadowed = false → j.ended = [] →
    EndsBy (fun t => after (settleEngine e.val t)) (.jobComplete e x noise delivered corrected stall partner) s fun t =>
      t.job? id = none ∧ (t.eng e.val).running = false ∧ (t.eng e.val).queue = rest
      ∧ t.get (Reg.OXE_ENG_JOB_CNT e.val) = (s.get (Reg.OXE_ENG_JOB_CNT e.val) + 1) % 2 ^ 32
      ∧ t.get (Reg.OXE_ENG_STALL_US_CNT e.val) = (s.get (Reg.OXE_ENG_STALL_US_CNT e.val) + stall) % 2 ^ 32
      ∧ t.get (Reg.OXE_ENG_ACC_CE_CNT e.val) = (s.get (Reg.OXE_ENG_ACC_CE_CNT e.val) + corrected) % 2 ^ 32
      ∧ t.get Reg.OXE_JOB_CNT = (s.get Reg.OXE_JOB_CNT + 1) % 2 ^ 32
      ∧ t.get (Reg.OXE_RING_CQ_TAIL_CQ_TAIL j.ring)
        = (s.get (Reg.OXE_RING_CQ_TAIL_CQ_TAIL j.ring) + 1) % s.ringSize j.ring % 2 ^ (Reg.OXE_RING_CQ_TAIL_CQ_TAIL j.ring).width
      ∧ t.readByte (s.get64 (Reg.OXE_RING_CQ_BASE_LO_BASE j.ring) (Reg.OXE_RING_CQ_BASE_HI_BASE j.ring)
          + 16 * s.get (Reg.OXE_RING_CQ_TAIL_CQ_TAIL j.ring) + 3) = BitVec.ofNat 8 e.val
      ∧ (s.firstStop j x = none → j.op ≠ 4 →
          t.readByte (s.get64 (Reg.OXE_RING_CQ_BASE_LO_BASE j.ring) (Reg.OXE_RING_CQ_BASE_HI_BASE j.ring)
            + 16 * s.get (Reg.OXE_RING_CQ_TAIL_CQ_TAIL j.ring) + 2) = 0
          ∧ t.mem = (recordJob j e.val 0 0 0
              (deliverAll j (j.outputs 0 noise (s.jobContent j)) (s.jobContent j) none s)).mem
          ∧ t.get (Reg.OXE_ENG_BLOCK_CNT e.val) = (s.get (Reg.OXE_ENG_BLOCK_CNT e.val) + j.srcs.length * j.len) % 2 ^ 32)
      ∧ (∀ taken st detail, s.firstStop j x = some (taken, st, detail) →
          t.readByte (s.get64 (Reg.OXE_RING_CQ_BASE_LO_BASE j.ring) (Reg.OXE_RING_CQ_BASE_HI_BASE j.ring)
            + 16 * s.get (Reg.OXE_RING_CQ_TAIL_CQ_TAIL j.ring) + 2) = BitVec.ofNat 8 st
          ∧ t.get (Reg.OXE_ENG_BLOCK_CNT e.val) = (s.get (Reg.OXE_ENG_BLOCK_CNT e.val) + taken) % 2 ^ 32
          ∧ t.get (Reg.OXE_ENG_ACC_UE_CNT e.val) = (if st = 9 then (s.get (Reg.OXE_ENG_ACC_UE_CNT e.val) + 1) % 2 ^ 32
              else s.get (Reg.OXE_ENG_ACC_UE_CNT e.val))))
  ∧ (∀ (s : State) (id : Nat) (j : Job) (a b : Fin 28) (p q third : RunEnd) (pa pb : Bool),
      s.arbitration a.val b.val = some (id, j) → a ≠ b → Assoc.find j.ended 0 = some p → Assoc.find j.ended 1 = some q →
      Assoc.find j.ended 2 = some third → (s.eng a.val).testPassed = some pa → (s.eng b.val).testPassed = some pb →
      (s.eng a.val).strikes = [] → (s.eng b.val).strikes = [] → p.agrees q = false →
    EndsBy settle (.shadowArbitrationDone a b) s fun t =>
      t.job? id = none
      ∧ (pa = true → pb = true →
          t.get Reg.OXE_SHADOW_TRANSIENT_CNT = (s.get Reg.OXE_SHADOW_TRANSIENT_CNT + 1) % 2 ^ 32
          ∧ (third.agrees p = true →
            t.get (Reg.OXE_ENG_STRIKE_CNT b.val) = (s.get (Reg.OXE_ENG_STRIKE_CNT b.val) + 1) % 2 ^ 32
            ∧ t.get (Reg.OXE_ENG_STRIKE_CNT a.val) = s.get (Reg.OXE_ENG_STRIKE_CNT a.val))
          ∧ (third.agrees q = true →
            t.get (Reg.OXE_ENG_STRIKE_CNT a.val) = (s.get (Reg.OXE_ENG_STRIKE_CNT a.val) + 1) % 2 ^ 32
            ∧ t.get (Reg.OXE_ENG_STRIKE_CNT b.val) = s.get (Reg.OXE_ENG_STRIKE_CNT b.val)))
      ∧ (pa = false → t.engState a.val = EngSt.retired) ∧ (pb = false → t.engState b.val = EngSt.retired)
      ∧ (pa = false ∨ pb = false → t.get Reg.OXE_SHADOW_TRANSIENT_CNT = s.get Reg.OXE_SHADOW_TRANSIENT_CNT))
  ∧ (∀ (s : State) (a b : Fin 28), s.arbitration a.val b.val = none ∨ (s.eng a.val).testPassed = none ∨ (s.eng b.val).testPassed = none →
    Ends (.shadowArbitrationDone a b) s fun t => t = s)
  ∧ (∀ (s : State) (a b : Fin 28) (id : Nat) (j : Job), s.arbitration a.val b.val = some (id, j) → Assoc.find j.ended 2 = none →
    Ends (.shadowArbitrationDone a b) s fun t => t = s)


/-- FABRIC_CONTROL (R262, R396, R404, R411 to R415): each sub-operation of the host. Log entry 67 says where this follows a choice of the
model and no rule. -/
def Obligations.FabricControlCompletes : Prop :=
  ∀ (s : State) (n : Nat) (c : Cmd) (buffer : List Nat), s.mayRun n c = true → c.e.qid = 0 → adminOf c.e = some .fabricControl →
      s.bufferOk c.e (bufferLen c.e) = true → bufferLen c.e ≤ 4096 →
    (16 ≤ bufferLen c.e →
      (∀ b, fabCode c.e = 1 → s.fab.bellwether = some b → s.ownAddr?.isSome = true → s.reach b = true → s.isBellwether = true →
        EndsBy (fun t => after (finishBudget t)) (.setBudget c.e.cid buffer) s fun t =>
          t.fab.budgetW = bufField buffer 0 4 ∧ t.fab.isolatedW = bufField buffer 4 4 ∧ t.fab.version = s.fab.version + 1
          ∧ t.fab.versionUid = s.ownUid ∧ (n, 1) ∈ t.fab.cmds)
      ∧ (fabCode c.e = 1 → s.fab.bellwether = none → Answers n St.invalidField 256 (.setBudget c.e.cid buffer) s fun t => t = fromHost c.e s)
      ∧ (fabCode c.e = 2 →
        Answers n St.success 0 (.setEligibility c.e.cid buffer) s fun t =>
          t = fabRefresh { fromHost c.e s with fab := { s.fab with
            rootElig := buffer.getD 0 0 != 0, bwElig := buffer.getD 1 0 != 0, bwPrio := buffer.getD 2 0 } })
      ∧ (∀ g, fabCode c.e = 4 → s.on Reg.SYS_STRAP_COMPAT = false → s.group? (bufField buffer 0 8) = some g →
        Answers n St.success 0 (.groupDelete c.e.cid buffer) s fun t =>
          t.group? (bufField buffer 0 8) = none ∧ t = floodFrame .group none [1, bufField buffer 0 8] (removeGroup (bufField buffer 0 8) (fromHost c.e s)))
      ∧ (∀ g, fabCode c.e = 5 → s.on Reg.SYS_STRAP_COMPAT = false → s.group? (bufField buffer 0 8) = some g →
          g.parity.1 = s.ownUid → s.allReached g = true →
        (g.stale = false → Answers n St.success 0 (.groupResync c.e.cid buffer) s fun t => t = fromHost c.e s)
        ∧ (g.stale = true → g.front = none →
          Answers n St.success 0 (.groupResync c.e.cid buffer) s fun t =>
            (t.group? (bufField buffer 0 8)).map (·.front) = some (some 0) ∧ t = resyncGroup (bufField buffer 0 8) (fromHost c.e s)))
      ∧ (∀ g, fabCode c.e = 6 → s.on Reg.SYS_STRAP_COMPAT = false → s.fab.gathers = [] → s.group? (bufField buffer 0 8) = some g →
          buffer.getD 8 0 < g.members.length → g.stale = false → buffer.getD 9 0 < 64 → s.volValid (buffer.getD 9 0) = true →
          (s.volMeta (buffer.getD 9 0)).flock = none →
          (∀ i ∈ recoverFrom g (buffer.getD 8 0), s.uidReached (memberAt g i).1 = true) →
        EndsBy after (.groupRecover c.e.cid buffer) s fun t =>
          (t.cmd? n).map (·.begun) = some true
          ∧ t.fab.gathers = [{ group := bufField buffer 0 8, lba := 0, recover := some (n, buffer.getD 8 0, buffer.getD 9 0) }])
      ∧ (∀ b, fabCode c.e = 7 → s.fab.bellwether = some b → s.ownAddr?.isSome = true → s.reach b = true → s.isBellwether = true →
          bufField buffer 0 8 ∈ s.fab.registered →
        EndsBy (fun t => after (finishForget t)) (.forgetNode c.e.cid buffer) s fun t =>
          t.fab.registered = remove s.fab.registered (bufField buffer 0 8) ∧ t.fab.nReg = s.fab.nReg - 1
          ∧ t.fab.version = s.fab.version + 1 ∧ (n, 7) ∈ t.fab.cmds)
      ∧ (fabCode c.e = 8 → s.ownAddr?.isSome = true → s.reach (bufField buffer 0 2) = true →
        Answers n St.success 0 (.wakeNode c.e.cid buffer) s fun t => t = sendFrame .wakeReq (bufField buffer 0 2) 0 [] (fromHost c.e s)))
    ∧ (∀ (facts : List VolFacts) (members : List (Nat × Nat)), fabCode c.e = 3 → 32 + 16 * buffer.getD 8 0 ≤ bufferLen c.e →
        members = (List.range (buffer.getD 8 0)).map (fun i => (bufField buffer (32 + 16 * i) 8, buffer.getD (40 + 16 * i) 0)) →
      (s.groupRefusal (bufField buffer 0 8) (bufField buffer 16 8, buffer.getD 24 0) members facts = none →
        EndsBy after (.groupCreate c.e.cid buffer facts) s fun t =>
          t.group? (bufField buffer 0 8) = some { id := bufField buffer 0 8, parity := (bufField buffer 16 8, buffer.getD 24 0), members := members }
          ∧ (t.cmd? n).map (·.begun) = some true ∧ Assoc.find t.fab.storing (bufField buffer 0 8) = some (members.map Prod.fst))
      ∧ (∀ r, s.groupRefusal (bufField buffer 0 8) (bufField buffer 16 8, buffer.getD 24 0) members facts = some r →
        Answers n St.invalidField (r * 256) (.groupCreate c.e.cid buffer facts) s fun t => t = fromHost c.e s))

/-- COPY, and copies between shelves at their source and their destination (R266, R402, R403). Log entry 65 says where this follows a
choice of the model and no rule. -/
def Obligations.CopyCommandsComplete : Prop :=
  (∀ (s : State) (n : Nat) (c : Cmd) (bad : List Nat) (partner : List (Nat × (Block × Nat))), s.qmx.cmds = [(n, c)] → s.mayRun n c = true →
      c.e.qid ≠ 0 → c.e.opcode = 0x25 → c.final = false →
    (s.copyCheck c.e = none →
      EndsBy after (.copy c.e.qid c.e.cid bad partner) s fun t =>
        t = splitPieces n (onCmd n (fun x => { x with begun := true }) s))
    ∧ ∀ st, s.copyCheck c.e = some st → Answers n st 0 (.copy c.e.qid c.e.cid bad partner) s fun t => t = s)
  ∧ (∀ (s : State) (n : Nat) (c : Cmd) (partner : List (Nat × (Block × Nat))), s.qmx.cmds = [(n, c)] → c.e.qid ≠ 0 → c.e.opcode = 0x25 →
      c.final = false → c.begun = true → c.pieces = 0 → s.fab.copies = [] → copyRemote c.e = false → (∀ b ∈ c.buf, b.2.bad = false) →
    EndsBy after (.copy c.e.qid c.e.cid [] partner) s fun t => t = copyRow n c s)
  ∧ (∀ (s : State) (p : Fin 4) (src batch id lba vol nblkM1 : Nat) (pi : Bool) (crcs guards : List Nat), s.hears p = true →
      s.fab.doneBatches = [] →
    (s.mode = Mode.serving → s.fab.batches = [] →
      EndsBy after (.copyDesc (some p) src batch id lba vol nblkM1 pi crcs guards) s fun t =>
        t.fab.batches = [⟨src, id, batch, vol, lba, nblkM1 + 1, pi, crcs, guards, []⟩])
    ∧ (s.mode = Mode.standby →
      EndsBy after (.copyDesc (some p) src batch id lba vol nblkM1 pi crcs guards) s fun t => t.fab.batches = s.fab.batches))
  ∧ (∀ (s : State) (p : Fin 4) (idx : Nat) (data : Block) (b : CopyIn), s.hears p = true → s.fab.batches = [b] → idx < b.nblk →
    (b.crcs.getD idx 0 = crc32c (leBytes 4096 data) → (Assoc.set b.blocks idx data).length ≠ b.nblk →
      EndsBy after (.copyData (some p) b.src b.batch idx data) s fun t => t.fab.batches = [{ b with blocks := Assoc.set b.blocks idx data }])
    ∧ (b.crcs.getD idx 0 ≠ crc32c (leBytes 4096 data) →
      EndsBy after (.copyData (some p) b.src b.batch idx data) s fun t => t.fab.batches = []))
  ∧ (∀ (s : State) (p : Fin 4) (x : CopyOut) (c : Cmd) (batch level : Nat) (b : CopyBatch), s.hears p = true → s.fab.copies = [x] →
      s.cmd? x.cmd = some c → Assoc.find x.out batch = some b → c.usable ≤ x.next → Assoc.erase x.out batch ≠ [] →
    EndsBy after (.copyAck (some p) x.id batch St.success level) s fun t =>
      t.fab.copies = [{ x with out := Assoc.erase x.out batch, level := max x.level level }])
  ∧ (∀ (s : State) (x : CopyOut) (c : Cmd) (batch : Nat) (b : CopyBatch), s.fab.copies = [x] → s.cmd? x.cmd = some c →
      Assoc.find x.out batch = some b → s.destWaits x.addr = false →
    (b.sends < 5 →
      Ends (.copyBatchTimeout x.id batch) s fun t =>
        t.fab.copies = [{ x with out := Assoc.set x.out batch { b with sends := b.sends + 1 } }] ∧ ∀ a, t.readByte a = s.readByte a)
    ∧ (5 ≤ b.sends → EndsBy after (.copyBatchTimeout x.id batch) s fun t => t = endCopy x St.arrayOffline 0 s))
  ∧ (∀ (s : State) (x : CopyOut) (c : Cmd), s.qmx.cmds = [(x.cmd, c)] → s.fab.copies = [x] → x.out ≠ [] →
    EndsBy after (.copyWakeTimeout c.e.qid c.e.cid) s fun t => t = endCopy x St.budgetDenied 0 s)

/-- Flock parity groups at the parity node and at the members' nodes (R404 to R413). Log entries 66 and 118 say where this follows a
choice of the model and no rule. -/
def Obligations.FlockCommandsComplete : Prop :=
  (∀ (s : State) (p : Fin 4) (g : FlockGroup) (src member lba nblk : Nat) (data : List Block), s.hears p = true → s.fab.groups = [g] →
      (memberAt g member).1 = s.ownUid → s.jnl.updates = [] →
    EndsBy after (.peerRead (some p) src g.id member lba nblk data) s fun t => (g.id, lba) ∈ t.fab.gates ∧ t.fab.groups = [g])
  ∧ (∀ (s : State) (p : Fin 4) (g : FlockGroup) (x : Gather) (src member : Nat) (blocks : List (Block × Nat)), s.hears p = true →
      s.fab.groups = [g] → s.fab.gathers = [x] → x.group = g.id →
    ((∀ b ∈ blocks, b.2 = crc32c (leBytes 4096 b.1)) →
      EndsBy after (.peerData (some p) src g.id member x.lba blocks) s fun t =>
        t.fab.gathers = [{ x with got := Assoc.set x.got member (blocks.map Prod.fst) }])
    ∧ ((∃ b ∈ blocks, b.2 ≠ crc32c (leBytes 4096 b.1)) →
      EndsBy after (.peerData (some p) src g.id member x.lba blocks) s fun t => t.fab.gathers = [x]))
  ∧ (∀ (s : State) (g : FlockGroup), s.fab.groups = [g] → g.parity.1 = s.ownUid → g.stale = true →
    (g.front = none → s.allReached g = true →
      EndsBy after (.flockResyncChunk g.id) s fun t => (t.group? g.id).map (·.front) = some (some 0) ∧ t = resyncGroup g.id s)
    ∧ (∀ f x, g.front = some f → s.fab.gathers = [x] → x.group = g.id → x.recover = none →
        (∀ i, i < g.members.length → (Assoc.find x.got i).isSome = true) → s.admits g.parity.2 64 = true →
        s.writeRefused g.parity.2 f 64 = false → f + 64 < s.volBlocks g.parity.2 →
      EndsBy (fun t => after (askChunk g.id (f + 64) t)) (.flockResyncChunk g.id) s fun t =>
        t = floodFrame .group none [3, g.id, f + 64]
          (onGroup g.id (fun y => { y with front := some (f + 64) }) (commitRows g.parity.2 64 f (x.sum 64) s))))
  ∧ (∀ (s : State) (p : Fin 4) (g : FlockGroup) (src member dseq lba nblk intentSeq crc : Nat), s.hears p = true → s.fab.groups = [g] →
      g.parity.1 = s.ownUid → s.fab.deltasIn = [] →
    (Assoc.getD g.applied member 0 < dseq →
      EndsBy after (.deltaDesc (some p) src g.id member (dseq, intentSeq) lba nblk crc) s fun t =>
        t.fab.deltasIn = [{ src := src, group := g.id, member := member, dseq := dseq, lba := lba, nblk := nblk, crc := crc }])
    ∧ (dseq ≤ Assoc.getD g.applied member 0 →
      EndsBy after (.deltaDesc (some p) src g.id member (dseq, intentSeq) lba nblk crc) s fun t => t.fab.deltasIn = []))
  ∧ (∀ (s : State) (p : Fin 4) (d : DeltaIn) (data old : Block), s.hears p = true → s.fab.deltasIn = [d] →
    (d.blocks.length + 1 < d.nblk →
      EndsBy after (.deltaData (some p) d.src (d.dseq % 65536) data old) s fun t =>
        t.fab.deltasIn = [{ d with blocks := d.blocks ++ [data], olds := d.olds ++ [old] }])
    ∧ (d.blocks.length + 1 = d.nblk → crc32c ((d.blocks ++ [data]).flatMap (leBytes 4096)) ≠ d.crc →
      EndsBy after (.deltaData (some p) d.src (d.dseq % 65536) data old) s fun t => t.fab.deltasIn = []))
  ∧ (∀ (s : State) (p : Fin 4) (group member dseq : Nat), s.hears p = true →
    EndsBy (fun t => after (retryIntents t)) (.deltaAck (some p) group member dseq) s fun t =>
      (∀ d ∈ t.fab.deltas, d.group = group → d.member = member → d.dseq ≤ dseq → d.freed = true)
      ∧ (∀ d ∈ s.fab.deltas, d.freed = false → ¬(d.group = group ∧ d.member = member ∧ d.dseq ≤ dseq) → d ∈ t.fab.deltas)
      ∧ (∀ d, t.fab.deltas.head? = some d → d.freed = false))
  ∧ (∀ (s : State), Ends .deltaResend s fun t => t = shipDeltas true s)
  ∧ (∀ (s : State) (p : Fin 4) (src : Nat), s.hears p = true →
    (s.mode = Mode.serving → EndsBy after (.wakeReq (some p) src) s fun t => t.sys.wakePending = s.sys.wakePending)
    ∧ (s.mode = Mode.draining → EndsBy after (.wakeReq (some p) src) s fun t => t.sys.wakePending = true))
  ∧ (∀ (s : State) (p : Fin 4) (g : FlockGroup), s.hears p = true → s.fab.groups = [g] →
    (EndsBy after (.group (some p) (.deleted g.id)) s fun t => t.fab.groups = [])
    ∧ (g.stale = true → EndsBy after (.group (some p) (.current g.id)) s fun t => t.fab.groups = [{ g with stale := false, front := none }])
    ∧ (∀ f, g.front ≠ some f →
      EndsBy after (.group (some p) (.front g.id f)) s fun t => t.fab.groups = [{ g with stale := true, front := some f }])
    ∧ (g.stale = false → EndsBy after (.group (some p) (.stale g.id)) s fun t => t.fab.groups = [{ g with stale := true, front := none }]))
  ∧ (∀ (s : State) (g : FlockGroup) (d : Delta), s.fab.groups = [g] → d ∈ s.fab.deltas → d.group = g.id → d.freed = false → g.stale = false →
      s.uidReached g.parity.1 = false →
    EndsBy (fun t => after (retryIntents t)) (.groupStaleTimer g.id) s fun t => t = markStale g.id s)


/-- REGISTER_WRITE (R5, R12, R13, R15, R69, R70, R96, R277, R496): by access code, lock, island and requester; an offset that is no word
of BAR0 is a fault. The fault, and what a write does at the host's configuration offsets, are the model's choice (log entry 46). -/
def Obligations.RegisterWriteCompletes : Prop :=
  (∀ (s : State) (n : Fin 9) (v : Word), s.lands 0x80010 = true →
    Ends (.registerWrite (.core n) 0x80010 15 v) s fun t =>
      t.get Reg.CCH_MAINT_ADDR_LO_ADDR = v.toNat ∧ Keeps [Reg.CCH_MAINT_ADDR_LO_ADDR] s t)
  ∧ (∀ (s : State) (n : Fin 9) (v : Word), s.lands 0x80004 = true → v.toNat ≤ 1 →
    Ends (.registerWrite (.core n) 0x80004 15 v) s fun t => Keeps [] s t)
  ∧ (∀ (s : State) (n : Fin 9) (v : Word), s.lands 0x80020 = true → v.toNat < 32 →
    Ends (.registerWrite (.core n) 0x80020 15 v) s fun t =>
      (∀ x ∈ [(Reg.CCH_EVENT_CE, 0), (Reg.CCH_EVENT_UE, 1), (Reg.CCH_EVENT_TAG_PE, 2), (Reg.CCH_EVENT_TAG_UE, 3),
          (Reg.CCH_EVENT_MAINT_DONE, 4)],
        s.get x.1 ≤ 1 → t.get x.1 = (if bitOf v.toNat x.2 = 1 then 0 else s.get x.1))
      ∧ Keeps [Reg.CCH_EVENT_CE, Reg.CCH_EVENT_UE, Reg.CCH_EVENT_TAG_PE, Reg.CCH_EVENT_TAG_UE, Reg.CCH_EVENT_MAINT_DONE] s t)
  ∧ (∀ (s : State) (n : Fin 9) (a : Fin 4) (v : Word), s.lands (0x30110 + 0x40 * a.val) = true →
    (s.on Reg.STP_CTRL_LOCK = false → s.on (Reg.STP_ARRAY_CFG_VALID a.val) = false →
      Ends (.registerWrite (.core n) (0x30110 + 0x40 * a.val) 15 v) s fun t =>
        t.get (Reg.STP_ARRAY_SLOTMAP_SLOTS a.val 0) = v.toNat ∧ Keeps [Reg.STP_ARRAY_SLOTMAP_SLOTS a.val 0] s t)
    ∧ (s.on Reg.STP_CTRL_LOCK = true ∨ s.on (Reg.STP_ARRAY_CFG_VALID a.val) = true →
      (v.toNat = s.get (Reg.STP_ARRAY_SLOTMAP_SLOTS a.val 0) →
        Ends (.registerWrite (.core n) (0x30110 + 0x40 * a.val) 15 v) s fun t => Keeps [] s t)
      ∧ (v.toNat ≠ s.get (Reg.STP_ARRAY_SLOTMAP_SLOTS a.val 0) →
        Ends (.registerWrite (.core n) (0x30110 + 0x40 * a.val) 15 v) s fun t =>
          t.get Reg.QMX_IGNORED_CNT = (s.get Reg.QMX_IGNORED_CNT + 1) % 2 ^ 32 ∧ t.get Reg.QMX_IGN_LAST_KIND = 6
          ∧ Keeps [Reg.QMX_IGN_LAST_KIND, Reg.QMX_IGN_LAST_QID, Reg.QMX_IGNORED_CNT, Reg.QMX_EVENT_IGNORED] s t)))
  ∧ (∀ (s : State) (c : Fin 16) (n : Fin 9) (v : Word), s.lands (0x71018 + 0x40 * c.val) = true → v.toNat < 4096 →
    (v.toNat ≤ s.get (Reg.DMA_CH_CFG_SIZE_M1 c.val) →
      Ends (.registerWrite (.core n) (0x71018 + 0x40 * c.val) 15 v) s fun t =>
        t.get (Reg.DMA_CH_TAIL_TAIL c.val) = v.toNat ∧ Keeps [Reg.DMA_CH_TAIL_TAIL c.val] s t)
    ∧ (s.get (Reg.DMA_CH_CFG_SIZE_M1 c.val) < v.toNat →
      Ends (.registerWrite (.core n) (0x71018 + 0x40 * c.val) 15 v) s fun t =>
        t.get Reg.QMX_IGNORED_CNT = (s.get Reg.QMX_IGNORED_CNT + 1) % 2 ^ 32 ∧ t.get Reg.QMX_IGN_LAST_KIND = 7
        ∧ Keeps [Reg.QMX_IGN_LAST_KIND, Reg.QMX_IGN_LAST_QID, Reg.QMX_IGNORED_CNT, Reg.QMX_EVENT_IGNORED] s t))
  ∧ (∀ (s : State) (off : Nat) (v : Word), off % 4 = 0 → 0x30000 ≤ off → off < 0x40000 → s.lands off = true →
    Ends (.registerWrite .host off 15 v) s fun t =>
      t.get Reg.QMX_IGNORED_CNT = (s.get Reg.QMX_IGNORED_CNT + 1) % 2 ^ 32 ∧ t.get Reg.QMX_IGN_LAST_KIND = 5
      ∧ Keeps [Reg.QMX_IGN_LAST_KIND, Reg.QMX_IGN_LAST_QID, Reg.QMX_IGNORED_CNT, Reg.QMX_EVENT_IGNORED] s t)
  ∧ (∀ (s : State) (off : Nat) (v : Word), off % 4 = 0 → 0x80000 ≤ off → off < 0x90000 → s.lands off = true →
    Ends (.registerWrite .host off 15 v) s fun t =>
      t.get Reg.CCH_BAR0_DROP_CNT = (s.get Reg.CCH_BAR0_DROP_CNT + 1) % 2 ^ 32 ∧ Keeps [Reg.CCH_BAR0_DROP_CNT] s t)
  ∧ (∀ (s : State) (off be : Nat) (v : Word), off % 4 = 0 → off < 0x120000 → be % 16 ≠ 15 → s.lands off = true →
    Ends (.registerWrite .host off be v) s fun t => Keeps [] s t)
  ∧ (∀ (s : State) (r : Requester) (off be : Nat) (v : Word), off % 4 = 0 → off < 0x400000 →
    (inBlock off = false → Ends (.registerWrite r off be v) s fun t => t = s)
    ∧ (inBlock off = true → islandOf off ∈ s.sys.retired →
      Ends (.registerWrite r off be v) s fun t =>
        t.get Reg.SYS_RETIRED_ACCESS_CNT = (s.get Reg.SYS_RETIRED_ACCESS_CNT + 1) % 2 ^ 32
        ∧ Keeps [Reg.SYS_RETIRED_ACCESS_CNT, Reg.SYS_EVENT_RETIRED_ACCESS] s t)
    ∧ (inBlock off = true → islandOf off ∉ s.sys.retired → islandOf off ∈ s.sys.inReset ∨ s.queuedAt off = true →
      Ends (.registerWrite r off be v) s fun t => t = { s with waiting := s.waiting ++ [(off, .registerWrite r off be v)] }))
  ∧ (∀ (s : State) (r : Requester) (off be : Nat) (v : Word), off % 4 ≠ 0 ∨ 0x401000 ≤ off →
    exec (.registerWrite r off be v) s = .fault .noSuchAddress)


/-- A step runs the command at the front of the queue, with the queue's rest. -/
def Obligations.StepRunsFront : Prop :=
  ∀ (s : State) (c : Instr), step { s with pending := c :: s.pending } = exec c s

/-- On an empty queue (log entry 8, the model's choice): the oldest access that waited runs once its island is out of reset, else a
heartbeat record or a loop evaluation that is due at once, else a microsecond passes, at whose end the messages of the CQs go out. -/
def Obligations.StepOnEmptyQueue : Prop :=
  ∀ (s : State), s.pending = [] →
    (∀ off c rest, s.waiting = (off, c) :: rest → islandOf off ∉ s.sys.inReset → step s = aside rest (exec c) s)
    ∧ ((∀ x ∈ s.waiting, islandOf x.1 ∈ s.sys.inReset) →
      (s.sys.hbDue = true → step s = exec .heartbeatRecord s)
      ∧ (s.sys.hbDue = false → s.sys.loopDue = true → s.sys.firmwareUp = true →
        step s = exec (.loopEvaluation (s.freeVal 12)) (useFree s))
      ∧ (s.sys.hbDue = false → s.sys.loopDue = false ∨ s.sys.firmwareUp = false →
        ∃ t, step s = .next t ∧ t.clock = s.clock + 1 ∧ t.hif.vecDue = [] ∧ Keeps [Reg.MSIX_PBA_LO_PENDING] s t
          ∧ (s.hif.vecDue = [] → t = { s with clock := s.clock + 1 })))

/-- Reset (R29, R359, R472): PARKED with STARTING set, standby role not yet taken, no command waits, HOST and FAB in reset, no island
retired, and no drive powered. Log entries 12 and 13 say where this follows a choice of the model and no rule. -/
def Obligations.ResetState : Prop :=
  State.reset.mode = Mode.parked ∧ State.reset.get Reg.SYS_MODE_STARTING = 1 ∧ State.reset.pending = [] ∧ State.reset.qmx.cmds = []
  ∧ State.reset.qmx.pairs = [] ∧ State.reset.get Reg.QMX_CTRL_EN = 0 ∧ State.reset.get Reg.QMX_STATUS_RDY = 0
  ∧ Island.host ∈ State.reset.sys.inReset ∧ Island.fab ∈ State.reset.sys.inReset ∧ State.reset.sys.retired = []
  ∧ State.reset.get Reg.RPR_POST_DONE = 0 ∧ State.reset.get Reg.FOV_STATUS_FW_ALIVE = 0 ∧ State.reset.hif.busMaster = false
  ∧ (∀ n : Fin 108, State.reset.on (Reg.SLT_CTRL_EN12 n.val) = false ∧ State.reset.on (Reg.SLT_CTRL_SPIN n.val) = false)

/-- The canonical form holds at reset. Log entries 3 and 12 say where this follows a choice of the model and no rule. -/
def Obligations.CanonicalAtReset : Prop := State.reset.canonical

/-- Every step keeps the canonical form: register fields listed once each in rising order, memory addresses strictly rising, and no byte
listed that an unlisted address reads as. Log entry 3 says where this follows a choice of the model and no rule. -/
def Obligations.StepKeepsCanonical : Prop := ∀ (s t : State), s.canonical → step s = .next t → t.canonical

/-- Every command completes in every state, but a REGISTER_WRITE at an offset that is no word of BAR0 or of the window that the model
gives configuration space (log entry 46): no data of the host, of a drive or of another shelf ends a run. Log entries 11 and 46 say where
this follows a choice of the model and no rule. -/
def Obligations.EveryCommandCompletes : Prop :=
  ∀ (c : Instr) (s : State), (∀ r off be v, c = .registerWrite r off be v →
      off % 4 = 0 ∧ (off < 0x400000 ∨ r = .host ∧ off < 0x401000)) → Completes c s

/-- No step is refused: whatever waits in the queue has its meaning, and a step that stops is a REGISTER_WRITE that is no word of BAR0.
Log entries 8 and 46 say where this follows a choice of the model and no rule. -/
def Obligations.StepNeverRefuses : Prop :=
  ∀ (s : State), (∀ r, step s ≠ .refused r)
    ∧ ∀ f, step s = .fault f → ∃ r off be v, (s.pending.head? = some (.registerWrite r off be v) ∨ ∃ i, (i, .registerWrite r off be v) ∈ s.waiting)
        ∧ (off % 4 ≠ 0 ∨ 0x400000 ≤ off)

/-- Triggers that are not pending change nothing when they are evaluated (R32). Log entry 20 says where this follows a choice of the model
and no rule. -/
def Obligations.SettleQuiet : Prop := ∀ (s : State), s.quiet = true → settle s = s

/-- A command that ends writes a completion entry of 16 bytes at its CQ's tail, laid out as R213 says. Log entry 2 says where this follows
a choice of the model and no rule. -/
def Obligations.CompletionEntry : Prop :=
  ∀ (s : State) (n status result : Nat) (c : Cmd) (p : Pair), s.cmd? n = some c → s.masters = true → s.pair? c.e.qid = some p →
      p.cqFull = false → result < 2 ^ 32 → p.sqHead < 2 ^ 12 → c.e.qid < 2 ^ 16 → c.e.cid < 2 ^ 16 → status < 2 ^ 16 → p.phase ≤ 1 →
    ∃ e, .hostWrite (p.cqBase + 16 * p.cqTail) e s.hostAttr ∈ (finish n status result s).out ∧ e.length = 16
      ∧ leNat (e.take 4) = result ∧ bits (leNat ((e.drop 4).take 2)) 0 12 = p.sqHead ∧ bits (leNat ((e.drop 4).take 2)) 12 4 = 0
      ∧ leNat ((e.drop 6).take 2) = c.e.qid ∧ leNat ((e.drop 8).take 2) = c.e.cid ∧ leNat ((e.drop 10).take 2) = status
      ∧ e.getD 12 0 = p.phase + 2 * b2n c.delayed + 4 * b2n c.degraded + 8 * b2n c.deferred ∧ e.drop 13 = [0, 0, 0]


/-- The coefficient RAM (R83): an access to DATA transfers the entry at ADDR and the next one, and ADDR advances by 4 bytes; no other
entry changes. Log entry 7 says where this follows a choice of the model and no rule. -/
def Obligations.CoefficientAccess : Prop :=
  ∀ (s : State) (w : Option Word), s.lands 0x40084 = true →
    Ends (.coefDataAccess w) s fun t =>
    t.get Reg.OXE_COEF_ADDR_ADDR = (s.get Reg.OXE_COEF_ADDR_ADDR + 1) % 2 ^ 17
    ∧ (∀ v, w = some v →
        Assoc.getD t.oxe.coef (2 * s.get Reg.OXE_COEF_ADDR_ADDR) 0 = v.toNat % 65536
        ∧ Assoc.getD t.oxe.coef (2 * s.get Reg.OXE_COEF_ADDR_ADDR + 1) 0 = v.toNat / 65536)
    ∧ (∀ k, k ≠ 2 * s.get Reg.OXE_COEF_ADDR_ADDR → k ≠ 2 * s.get Reg.OXE_COEF_ADDR_ADDR + 1 →
        Assoc.getD t.oxe.coef k 0 = Assoc.getD s.oxe.coef k 0)
    ∧ (w = none → t.out = .readValue (Assoc.getD s.oxe.coef (2 * s.get Reg.OXE_COEF_ADDR_ADDR) 0
        + 65536 * Assoc.getD s.oxe.coef (2 * s.get Reg.OXE_COEF_ADDR_ADDR + 1) 0) :: s.out ∧ t.oxe = s.oxe)
    ∧ Keeps [Reg.OXE_COEF_ADDR_ADDR] s t

/-- RECALL (R438): with FULL 1 the message is withdrawn and RECALLED set, with FULL 0 RECALLED is cleared; the next DATA_HI write clears
it. -/
def Obligations.MailboxRecall : Prop :=
  (∀ (s : State) (m : Fin 64) (r : Requester), s.lands (0x90014 + 0x20 * m.val) = true → hostKept m.val r = false → ownerOf r ≠ 0 →
      s.boxSender m.val = ownerOf r →
    Ends (.boxRecall m r) s fun t =>
      t.get (Reg.MBX_BOX_STATUS_RECALLED m.val) = b2n (s.on (Reg.MBX_BOX_STATUS_FULL m.val))
      ∧ t.get (Reg.MBX_BOX_STATUS_FULL m.val) = 0 ∧ Keeps [Reg.MBX_BOX_STATUS_RECALLED m.val, Reg.MBX_BOX_STATUS_FULL m.val] s t)
  ∧ (∀ (s : State) (m : Fin 64) (r : Requester) (hi : Word), s.lands (0x9000C + 0x20 * m.val) = true → hostKept m.val r = false →
      s.boxRefuses m.val r = false →
    Ends (.mailboxSend m r hi) s fun t => t.get (Reg.MBX_BOX_STATUS_RECALLED m.val) = 0)

/-- A swap (R448): every byte of a stream of whole groups comes from its own group, at the place that the table of the rule gives. -/
def Obligations.SwapOrder : Prop :=
  ∀ (mode : Nat) (l : List Nat) (i : Nat), mode < 6 → l.length % swapGroup mode = 0 → i < l.length →
    let g := [1, 2, 4, 8, 4, 8].getD mode 1
    let o := i % g
    let src := if mode = 4 then (o + 2) % 4 else if mode = 5 then 6 - 2 * (o / 2) + o % 2 else g - 1 - o
    (swapBytes mode (l.length / swapGroup mode) l).getD i 0 = l.getD (g * (i / g) + src) 0

/-- Member indices (R45): the array's slots are those of its slot map, a member index is the rank of its slot among them, and where an
array holds the slots below a number, the member index of each of these is the slot itself. -/
def Obligations.MemberIndex : Prop :=
  ∀ (s : State) (n : Fin 4),
    let g := s.geo n.val
    (∀ x, x ∈ g.slots ↔ x < 108 ∧ bitOf (s.get (Reg.STP_ARRAY_SLOTMAP_SLOTS n.val (x / 32))) (x % 32) = 1)
    ∧ (∀ x ∈ g.slots, g.indexOf x = (g.slots.filter (fun y => decide (y < x))).length ∧ g.slotOf (g.indexOf x) = x)
    ∧ (∀ k, (∀ x, x < k → x ∈ g.slots) → ∀ i, i < k → g.slotOf i = i)
end

