-- ==== Sys2Proof/Laws/Arms.lean ====
section
/-! SUPPORT. What `exec` does on each command, by the name of its meaning. -/

namespace Sys2Proof.Machine

@[simp] theorem exec_registerWrite {r off be value} (s : State) :
    exec (.registerWrite r off be value) s = execRegisterWrite r off be value s := by delta exec; rfl
@[simp] theorem exec_arrayValidWrite {n valid} (s : State) :
    exec (.arrayValidWrite n valid) s = execArrayValidWrite n valid s := by delta exec; rfl
@[simp] theorem exec_volumeValidWrite {v valid} (s : State) :
    exec (.volumeValidWrite v valid) s = execVolumeValidWrite v valid s := by delta exec; rfl
@[simp] theorem exec_xlateGo {vol} (s : State) : exec (.xlateGo vol) s = execXlateGo vol s := by delta exec; rfl
@[simp] theorem exec_evalStart {n} (s : State) : exec (.evalStart n) s = execEvalStart n s := by delta exec; rfl
@[simp] theorem exec_ringTailWrite {r tail} (s : State) : exec (.ringTailWrite r tail) s = execRingTailWrite r tail s := by delta exec; rfl
@[simp] theorem exec_coefDataAccess {write} (s : State) : exec (.coefDataAccess write) s = execCoefDataAccess write s := by delta exec; rfl
@[simp] theorem exec_planRetry {n} (s : State) : exec (.planRetry n) s = execPlanRetry n s := by delta exec; rfl
@[simp] theorem exec_enginePause {e pause} (s : State) : exec (.enginePause e pause) s = execEnginePause e pause s := by delta exec; rfl
@[simp] theorem exec_engineRetire {e} (s : State) : exec (.engineRetire e) s = execEngineRetire e s := by delta exec; rfl
@[simp] theorem exec_engineTest {e} (s : State) : exec (.engineTest e) s = execEngineTest e s := by delta exec; rfl
@[simp] theorem exec_forceWtWrite {v} (s : State) : exec (.forceWtWrite v) s = execForceWtWrite v s := by delta exec; rfl
@[simp] theorem exec_packHealthyWrite {v} (s : State) : exec (.packHealthyWrite v) s = execPackHealthyWrite v s := by delta exec; rfl
@[simp] theorem exec_partnerLiveWrite {v} (s : State) : exec (.partnerLiveWrite v) s = execPartnerLiveWrite v s := by delta exec; rfl
@[simp] theorem exec_jnlAlloc {next} (s : State) : exec (.jnlAlloc next) s = execJnlAlloc next s := by delta exec; rfl
@[simp] theorem exec_wakeRetry {slot} (s : State) : exec (.wakeRetry slot) s = execWakeRetry slot s := by delta exec; rfl
@[simp] theorem exec_wakeDeny {slot} (s : State) : exec (.wakeDeny slot) s = execWakeDeny slot s := by delta exec; rfl
@[simp] theorem exec_awakeWrite {slot awake} (s : State) :
    exec (.awakeWrite slot awake) s = execAwakeWrite slot awake s := by delta exec; rfl
@[simp] theorem exec_escDone {piece outcome reads} (s : State) :
    exec (.escDone piece outcome reads) s = execEscDone piece outcome reads s := by delta exec; rfl
@[simp] theorem exec_frontierEnable {k enable} (s : State) :
    exec (.frontierEnable k enable) s = execFrontierEnable k enable s := by delta exec; rfl
@[simp] theorem exec_intInject {kind} (s : State) : exec (.intInject kind) s = execIntInject kind s := by delta exec; rfl
@[simp] theorem exec_adminSqTailWrite {index} (s : State) :
    exec (.adminSqTailWrite index) s = execAdminSqTailWrite index s := by delta exec; rfl
@[simp] theorem exec_adminCqHeadWrite {index} (s : State) :
    exec (.adminCqHeadWrite index) s = execAdminCqHeadWrite index s := by delta exec; rfl
@[simp] theorem exec_xlatCommit {r} (s : State) : exec (.xlatCommit r) s = execXlatCommit r s := by delta exec; rfl
@[simp] theorem exec_hostRaise {r mask} (s : State) : exec (.hostRaise r mask) s = execHostRaise r mask s := by delta exec; rfl
@[simp] theorem exec_converterEnable {en} (s : State) : exec (.converterEnable en) s = execConverterEnable en s := by delta exec; rfl
@[simp] theorem exec_standbyOffsetWrite {v} (s : State) : exec (.standbyOffsetWrite v) s = execStandbyOffsetWrite v s := by delta exec; rfl
@[simp] theorem exec_slotEnableWrite {slot en12 en5} (s : State) :
    exec (.slotEnableWrite slot en12 en5) s = execSlotEnableWrite slot en12 en5 s := by delta exec; rfl
@[simp] theorem exec_slotDisableWrite {slot en12 en5} (s : State) :
    exec (.slotDisableWrite slot en12 en5) s = execSlotDisableWrite slot en12 en5 s := by delta exec; rfl
@[simp] theorem exec_spinWrite {slot} (s : State) : exec (.spinWrite slot) s = execSpinWrite slot s := by delta exec; rfl
@[simp] theorem exec_chargeEnable {en} (s : State) : exec (.chargeEnable en) s = execChargeEnable en s := by delta exec; rfl
@[simp] theorem exec_batCountWrite {value} (s : State) : exec (.batCountWrite value) s = execBatCountWrite value s := by delta exec; rfl
@[simp] theorem exec_smbusTransaction {cmd len read} (s : State) :
    exec (.smbusTransaction cmd len read) s = execSmbusTransaction cmd len read s := by delta exec; rfl
@[simp] theorem exec_fanRunWrite {c run} (s : State) : exec (.fanRunWrite c run) s = execFanRunWrite c run s := by delta exec; rfl
@[simp] theorem exec_fanRestart {c} (s : State) : exec (.fanRestart c) s = execFanRestart c s := by delta exec; rfl
@[simp] theorem exec_fanDemandWrite {c value} (s : State) :
    exec (.fanDemandWrite c value) s = execFanDemandWrite c value s := by delta exec; rfl
@[simp] theorem exec_lineBeat {word} (s : State) : exec (.lineBeat word) s = execLineBeat word s := by delta exec; rfl
@[simp] theorem exec_data {lines} (s : State) : exec (.data lines) s = execData lines s := by delta exec; rfl
@[simp] theorem exec_fabTxTail {tail} (s : State) : exec (.fabTxTail tail) s = execFabTxTail tail s := by delta exec; rfl
@[simp] theorem exec_mailboxSend {m r hi} (s : State) : exec (.mailboxSend m r hi) s = execMailboxSend m r hi s := by delta exec; rfl
@[simp] theorem exec_mailboxTake {m r} (s : State) : exec (.mailboxTake m r) s = execMailboxTake m r s := by delta exec; rfl
@[simp] theorem exec_boxRecall {m r} (s : State) : exec (.boxRecall m r) s = execBoxRecall m r s := by delta exec; rfl
@[simp] theorem exec_lockRead {m r} (s : State) : exec (.lockRead m r) s = execLockRead m r s := by delta exec; rfl
@[simp] theorem exec_lockRelease {m r value} (s : State) :
    exec (.lockRelease m r value) s = execLockRelease m r value s := by delta exec; rfl
@[simp] theorem exec_lockForce {m r} (s : State) : exec (.lockForce m r) s = execLockForce m r s := by delta exec; rfl
@[simp] theorem exec_peerLockRead {core m answer} (s : State) :
    exec (.peerLockRead core m answer) s = execPeerLockRead core m answer s := by delta exec; rfl
@[simp] theorem exec_peerLockRelease {core m} (s : State) :
    exec (.peerLockRelease core m) s = execPeerLockRelease core m s := by delta exec; rfl
@[simp] theorem exec_dmaResume {c} (s : State) : exec (.dmaResume c) s = execDmaResume c s := by delta exec; rfl
@[simp] theorem exec_dmaChannelDisable {c} (s : State) : exec (.dmaChannelDisable c) s = execDmaChannelDisable c s := by delta exec; rfl
@[simp] theorem exec_dramPpr {loc row hard} (s : State) : exec (.dramPpr loc row hard) s = execDramPpr loc row hard s := by delta exec; rfl
@[simp] theorem exec_coldReset {key} (s : State) : exec (.coldReset key) s = execColdReset key s := by delta exec; rfl
@[simp] theorem exec_warmReset {key} (s : State) : exec (.warmReset key) s = execWarmReset key s := by delta exec; rfl
@[simp] theorem exec_coreRestart {key} (s : State) : exec (.coreRestart key) s = execCoreRestart key s := by delta exec; rfl
@[simp] theorem exec_coreAccess {core kind addr size value evict issued} (s : State) :
    exec (.coreAccess core kind addr size value evict issued) s = execCoreAccess core kind addr size value evict issued s := by delta exec; rfl
@[simp] theorem exec_islandRegate {n} (s : State) : exec (.islandRegate n) s = execIslandRegate n s := by delta exec; rfl
@[simp] theorem exec_loopEvaluation {pModDw} (s : State) :
    exec (.loopEvaluation pModDw) s = execLoopEvaluation pModDw s := by delta exec; rfl
@[simp] theorem exec_evalDone {n} (s : State) : exec (.evalDone n) s = execEvalDone n s := by delta exec; rfl
@[simp] theorem exec_arrayAssembly {found} (s : State) : exec (.arrayAssembly found) s = execArrayAssembly found s := by delta exec; rfl
@[simp] theorem exec_jobStart {e} (s : State) : exec (.jobStart e) s = execJobStart e s := by delta exec; rfl
@[simp] theorem exec_jobComplete {e x noise delivered corrected stallUs partner} (s : State) :
    exec (.jobComplete e x noise delivered corrected stallUs partner) s = execJobComplete e x noise delivered corrected stallUs partner s := by delta exec; rfl
@[simp] theorem exec_shadowArbitrationDone {primary shadow} (s : State) :
    exec (.shadowArbitrationDone primary shadow) s = execShadowArbitrationDone primary shadow s := by delta exec; rfl
@[simp] theorem exec_jobAgePromotion {r} (s : State) : exec (.jobAgePromotion r) s = execJobAgePromotion r s := by delta exec; rfl
@[simp] theorem exec_katDone {e pass} (s : State) : exec (.katDone e pass) s = execKatDone e pass s := by delta exec; rfl
@[simp] theorem exec_accumulatorAccess {e off write} (s : State) :
    exec (.accumulatorAccess e off write) s = execAccumulatorAccess e off write s := by delta exec; rfl
@[simp] theorem exec_hostDataIngest {qid cid blocks} (s : State) :
    exec (.hostDataIngest qid cid blocks) s = execHostDataIngest qid cid blocks s := by delta exec; rfl
@[simp] theorem exec_writeCommit {qid commit} (s : State) :
    exec (.writeCommit qid commit) s = execWriteCommit qid commit s := by delta exec; rfl
@[simp] theorem exec_wtHoldTimeout {qid cid} (s : State) :
    exec (.wtHoldTimeout qid cid) s = execWtHoldTimeout qid cid s := by delta exec; rfl
@[simp] theorem exec_writebackAgeExpiry {array row} (s : State) :
    exec (.writebackAgeExpiry array row) s = execWritebackAgeExpiry array row s := by delta exec; rfl
@[simp] theorem exec_writebackStart {array row} (s : State) :
    exec (.writebackStart array row) s = execWritebackStart array row s := by delta exec; rfl
@[simp] theorem exec_rowLockGrant {array row} (s : State) :
    exec (.rowLockGrant array row) s = execRowLockGrant array row s := by delta exec; rfl
@[simp] theorem exec_intentLanded {index} (s : State) : exec (.intentLanded index) s = execIntentLanded index s := by delta exec; rfl
@[simp] theorem exec_intentRetire {index} (s : State) : exec (.intentRetire index) s = execIntentRetire index s := by delta exec; rfl
@[simp] theorem exec_journalReplay {reads rows strange badDirs partnerSeq} (s : State) :
    exec (.journalReplay reads rows strange badDirs partnerSeq) s = execJournalReplay reads rows strange badDirs partnerSeq s := by delta exec; rfl
@[simp] theorem exec_memberCommandComplete {slot tag reply blocks info capacity} (s : State) :
    exec (.memberCommandComplete slot tag reply blocks info capacity) s = execMemberCommandComplete slot tag reply blocks info capacity s := by delta exec; rfl
@[simp] theorem exec_memberCommandTimeout {slot tag} (s : State) :
    exec (.memberCommandTimeout slot tag) s = execMemberCommandTimeout slot tag s := by delta exec; rfl
@[simp] theorem exec_slotLinkDown {slot} (s : State) : exec (.slotLinkDown slot) s = execSlotLinkDown slot s := by delta exec; rfl
@[simp] theorem exec_slotLinkUp {slot rate} (s : State) : exec (.slotLinkUp slot rate) s = execSlotLinkUp slot rate s := by delta exec; rfl
@[simp] theorem exec_linkDownEraseTimer {slot} (s : State) :
    exec (.linkDownEraseTimer slot) s = execLinkDownEraseTimer slot s := by delta exec; rfl
@[simp] theorem exec_rebuildRow {k reads} (s : State) : exec (.rebuildRow k reads) s = execRebuildRow k reads s := by delta exec; rfl
@[simp] theorem exec_rebuildCheckpoint {k} (s : State) : exec (.rebuildCheckpoint k) s = execRebuildCheckpoint k s := by delta exec; rfl
@[simp] theorem exec_grazeStep {array group first again} (s : State) :
    exec (.grazeStep array group first again) s = execGrazeStep array group first again s := by delta exec; rfl
@[simp] theorem exec_grazeResume {array group} (s : State) :
    exec (.grazeResume array group) s = execGrazeResume array group s := by delta exec; rfl
@[simp] theorem exec_hostDataEgress {qid cid bad partner} (s : State) :
    exec (.hostDataEgress qid cid bad partner) s = execHostDataEgress qid cid bad partner s := by delta exec; rfl
@[simp] theorem exec_doorbellPoll {tails heads} (s : State) :
    exec (.doorbellPoll tails heads) s = execDoorbellPoll tails heads s := by delta exec; rfl
@[simp] theorem exec_commandFetch {entries} (s : State) : exec (.commandFetch entries) s = execCommandFetch entries s := by delta exec; rfl
@[simp] theorem exec_identify {cid} (s : State) : exec (.identify cid) s = execIdentify cid s := by delta exec; rfl
@[simp] theorem exec_getFeature {cid} (s : State) : exec (.getFeature cid) s = execGetFeature cid s := by delta exec; rfl
@[simp] theorem exec_setFeature {cid} (s : State) : exec (.setFeature cid) s = execSetFeature cid s := by delta exec; rfl
@[simp] theorem exec_setFeatureWriteThrough {cid} (s : State) :
    exec (.setFeatureWriteThrough cid) s = execSetFeatureWriteThrough cid s := by delta exec; rfl
@[simp] theorem exec_getLog {cid} (s : State) : exec (.getLog cid) s = execGetLog cid s := by delta exec; rfl
@[simp] theorem exec_createIoQueue {cid} (s : State) : exec (.createIoQueue cid) s = execCreateIoQueue cid s := by delta exec; rfl
@[simp] theorem exec_deleteIoQueue {cid} (s : State) : exec (.deleteIoQueue cid) s = execDeleteIoQueue cid s := by delta exec; rfl
@[simp] theorem exec_queueDeleteDrained {qid} (s : State) :
    exec (.queueDeleteDrained qid) s = execQueueDeleteDrained qid s := by delta exec; rfl
@[simp] theorem exec_arrayCreate {cid uuid drives} (s : State) :
    exec (.arrayCreate cid uuid drives) s = execArrayCreate cid uuid drives s := by delta exec; rfl
@[simp] theorem exec_arrayDelete {cid} (s : State) : exec (.arrayDelete cid) s = execArrayDelete cid s := by delta exec; rfl
@[simp] theorem exec_volumeCreate {cid uuid} (s : State) :
    exec (.volumeCreate cid uuid) s = execVolumeCreate cid uuid s := by delta exec; rfl
@[simp] theorem exec_volumeFormat {vol} (s : State) : exec (.volumeFormat vol) s = execVolumeFormat vol s := by delta exec; rfl
@[simp] theorem exec_volumeDelete {cid} (s : State) : exec (.volumeDelete cid) s = execVolumeDelete cid s := by delta exec; rfl
@[simp] theorem exec_volumeDeleteDrained {vol} (s : State) :
    exec (.volumeDeleteDrained vol) s = execVolumeDeleteDrained vol s := by delta exec; rfl
@[simp] theorem exec_memberReplace {cid drive} (s : State) :
    exec (.memberReplace cid drive) s = execMemberReplace cid drive s := by delta exec; rfl
@[simp] theorem exec_selfTestShort {cid} (s : State) : exec (.selfTestShort cid) s = execSelfTestShort cid s := by delta exec; rfl
@[simp] theorem exec_selfTestExtended {cid} (s : State) : exec (.selfTestExtended cid) s = execSelfTestExtended cid s := by delta exec; rfl
@[simp] theorem exec_selfTestAbort {cid} (s : State) : exec (.selfTestAbort cid) s = execSelfTestAbort cid s := by delta exec; rfl
@[simp] theorem exec_selfTestDone {found reads} (s : State) :
    exec (.selfTestDone found reads) s = execSelfTestDone found reads s := by delta exec; rfl
@[simp] theorem exec_powerStateQuery {cid} (s : State) : exec (.powerStateQuery cid) s = execPowerStateQuery cid s := by delta exec; rfl
@[simp] theorem exec_powerStatePark {cid} (s : State) : exec (.powerStatePark cid) s = execPowerStatePark cid s := by delta exec; rfl
@[simp] theorem exec_powerStateWake {cid} (s : State) : exec (.powerStateWake cid) s = execPowerStateWake cid s := by delta exec; rfl
@[simp] theorem exec_swap {cid} (s : State) : exec (.swap cid) s = execSwap cid s := by delta exec; rfl
@[simp] theorem exec_enterService {cid} (s : State) : exec (.enterService cid) s = execEnterService cid s := by delta exec; rfl
@[simp] theorem exec_leaveService {cid} (s : State) : exec (.leaveService cid) s = execLeaveService cid s := by delta exec; rfl
@[simp] theorem exec_setPreferred {cid} (s : State) : exec (.setPreferred cid) s = execSetPreferred cid s := by delta exec; rfl
@[simp] theorem exec_revertNow {cid tested persists} (s : State) :
    exec (.revertNow cid tested persists) s = execRevertNow cid tested persists s := by delta exec; rfl
@[simp] theorem exec_firmwareStage {piece} (s : State) : exec (.firmwareStage piece) s = execFirmwareStage piece s := by delta exec; rfl
@[simp] theorem exec_fwCommitStore {cid image} (s : State) :
    exec (.fwCommitStore cid image) s = execFwCommitStore cid image s := by delta exec; rfl
@[simp] theorem exec_fwCommitStoreActivateNext {cid image} (s : State) :
    exec (.fwCommitStoreActivateNext cid image) s = execFwCommitStoreActivateNext cid image s := by delta exec; rfl
@[simp] theorem exec_fwCommitActivateNext {cid} (s : State) :
    exec (.fwCommitActivateNext cid) s = execFwCommitActivateNext cid s := by delta exec; rfl
@[simp] theorem exec_fwCommitActivateNow {cid image} (s : State) :
    exec (.fwCommitActivateNow cid image) s = execFwCommitActivateNow cid image s := by delta exec; rfl
@[simp] theorem exec_fwCommitInstallRoot {cid image} (s : State) :
    exec (.fwCommitInstallRoot cid image) s = execFwCommitInstallRoot cid image s := by delta exec; rfl
@[simp] theorem exec_packAuthenticate {cid ok} (s : State) :
    exec (.packAuthenticate cid ok) s = execPackAuthenticate cid ok s := by delta exec; rfl
@[simp] theorem exec_packInstallRoot {cid root ok} (s : State) :
    exec (.packInstallRoot cid root ok) s = execPackInstallRoot cid root ok s := by delta exec; rfl
@[simp] theorem exec_packRemoveRoot {cid ok} (s : State) :
    exec (.packRemoveRoot cid ok) s = execPackRemoveRoot cid ok s := by delta exec; rfl
@[simp] theorem exec_setBudget {cid buffer} (s : State) : exec (.setBudget cid buffer) s = execSetBudget cid buffer s := by delta exec; rfl
@[simp] theorem exec_setEligibility {cid buffer} (s : State) :
    exec (.setEligibility cid buffer) s = execSetEligibility cid buffer s := by delta exec; rfl
@[simp] theorem exec_groupCreate {cid buffer facts} (s : State) :
    exec (.groupCreate cid buffer facts) s = execGroupCreate cid buffer facts s := by delta exec; rfl
@[simp] theorem exec_groupDelete {cid buffer} (s : State) :
    exec (.groupDelete cid buffer) s = execGroupDelete cid buffer s := by delta exec; rfl
@[simp] theorem exec_groupResync {cid buffer} (s : State) :
    exec (.groupResync cid buffer) s = execGroupResync cid buffer s := by delta exec; rfl
@[simp] theorem exec_groupRecover {cid buffer} (s : State) :
    exec (.groupRecover cid buffer) s = execGroupRecover cid buffer s := by delta exec; rfl
@[simp] theorem exec_forgetNode {cid buffer} (s : State) :
    exec (.forgetNode cid buffer) s = execForgetNode cid buffer s := by delta exec; rfl
@[simp] theorem exec_wakeNode {cid buffer} (s : State) : exec (.wakeNode cid buffer) s = execWakeNode cid buffer s := by delta exec; rfl
@[simp] theorem exec_abort {cid} (s : State) : exec (.abort cid) s = execAbort cid s := by delta exec; rfl
@[simp] theorem exec_read {qid cid} (s : State) : exec (.read qid cid) s = execRead qid cid s := by delta exec; rfl
@[simp] theorem exec_write {qid cid} (s : State) : exec (.write qid cid) s = execWrite qid cid s := by delta exec; rfl
@[simp] theorem exec_verify {qid cid reads} (s : State) : exec (.verify qid cid reads) s = execVerify qid cid reads s := by delta exec; rfl
@[simp] theorem exec_flush {qid cid} (s : State) : exec (.flush qid cid) s = execFlush qid cid s := by delta exec; rfl
@[simp] theorem exec_flushComplete {qid cid} (s : State) :
    exec (.flushComplete qid cid) s = execFlushComplete qid cid s := by delta exec; rfl
@[simp] theorem exec_flushWakeTimeout {qid cid} (s : State) :
    exec (.flushWakeTimeout qid cid) s = execFlushWakeTimeout qid cid s := by delta exec; rfl
@[simp] theorem exec_writeZeroes {qid cid} (s : State) : exec (.writeZeroes qid cid) s = execWriteZeroes qid cid s := by delta exec; rfl
@[simp] theorem exec_copy {qid cid bad partner} (s : State) :
    exec (.copy qid cid bad partner) s = execCopy qid cid bad partner s := by delta exec; rfl
@[simp] theorem exec_laneFailure {lane errors} (s : State) :
    exec (.laneFailure lane errors) s = execLaneFailure lane errors s := by delta exec; rfl
@[simp] theorem exec_linkTrained {speed lanes} (s : State) :
    exec (.linkTrained speed lanes) s = execLinkTrained speed lanes s := by delta exec; rfl
@[simp] theorem exec_bar2Access {addr len write} (s : State) :
    exec (.bar2Access addr len write) s = execBar2Access addr len write s := by delta exec; rfl
@[simp] theorem exec_hostReadError {what} (s : State) : exec (.hostReadError what) s = execHostReadError what s := by delta exec; rfl
@[simp] theorem exec_lineEvaluation {vrms freq inlet} (s : State) :
    exec (.lineEvaluation vrms freq inlet) s = execLineEvaluation vrms freq inlet s := by delta exec; rfl
@[simp] theorem exec_slotShed {busLow} (s : State) : exec (.slotShed busLow) s = execSlotShed busLow s := by delta exec; rfl
@[simp] theorem exec_slotTrip {slot rail12} (s : State) : exec (.slotTrip slot rail12) s = execSlotTrip slot rail12 s := by delta exec; rfl
@[simp] theorem exec_cooldownEnd {slot} (s : State) : exec (.cooldownEnd slot) s = execCooldownEnd slot s := by delta exec; rfl
@[simp] theorem exec_slotPresentChange {slot present drive} (s : State) :
    exec (.slotPresentChange slot present drive) s = execSlotPresentChange slot present drive s := by delta exec; rfl
@[simp] theorem exec_spinTimeout {slot} (s : State) : exec (.spinTimeout slot) s = execSpinTimeout slot s := by delta exec; rfl
@[simp] theorem exec_driveReady {slot} (s : State) : exec (.driveReady slot) s = execDriveReady slot s := by delta exec; rfl
@[simp] theorem exec_slotLinkTimeout {slot} (s : State) : exec (.slotLinkTimeout slot) s = execSlotLinkTimeout slot s := by delta exec; rfl
@[simp] theorem exec_spinupRetry {slot} (s : State) : exec (.spinupRetry slot) s = execSpinupRetry slot s := by delta exec; rfl
@[simp] theorem exec_slotOffTimeout {slot} (s : State) : exec (.slotOffTimeout slot) s = execSlotOffTimeout slot s := by delta exec; rfl
@[simp] theorem exec_stopUnitTimeout {slot} (s : State) : exec (.stopUnitTimeout slot) s = execStopUnitTimeout slot s := by delta exec; rfl
@[simp] theorem exec_packInserted {p mv temp authOk} (s : State) :
    exec (.packInserted p mv temp authOk) s = execPackInserted p mv temp authOk s := by delta exec; rfl
@[simp] theorem exec_chargeWindowExit {temp} (s : State) :
    exec (.chargeWindowExit temp) s = execChargeWindowExit temp s := by delta exec; rfl
@[simp] theorem exec_coulombConversion {uah ma mv temp keepMv} (s : State) :
    exec (.coulombConversion uah ma mv temp keepMv) s = execCoulombConversion uah ma mv temp keepMv s := by delta exec; rfl
@[simp] theorem exec_currentStep {dvMv diMa} (s : State) :
    exec (.currentStep dvMv diMa) s = execCurrentStep dvMv diMa s := by delta exec; rfl
@[simp] theorem exec_eod {mv idMa} (s : State) : exec (.eod mv idMa) s = execEod mv idMa s := by delta exec; rfl
@[simp] theorem exec_authPeriodic {ok} (s : State) : exec (.authPeriodic ok) s = execAuthPeriodic ok s := by delta exec; rfl
@[simp] theorem exec_authRetry {ok} (s : State) : exec (.authRetry ok) s = execAuthRetry ok s := by delta exec; rfl
@[simp] theorem exec_smbusDone {err bytes} (s : State) : exec (.smbusDone err bytes) s = execSmbusDone err bytes s := by delta exec; rfl
@[simp] theorem exec_keepLow {mv} (s : State) : exec (.keepLow mv) s = execKeepLow mv s := by delta exec; rfl
@[simp] theorem exec_focPeriod {c x} (s : State) : exec (.focPeriod c x) s = execFocPeriod c x s := by delta exec; rfl
@[simp] theorem exec_voltLimitClear {c} (s : State) : exec (.voltLimitClear c) s = execVoltLimitClear c s := by delta exec; rfl
@[simp] theorem exec_observerLoss {c} (s : State) : exec (.observerLoss c) s = execObserverLoss c s := by delta exec; rfl
@[simp] theorem exec_coastRestart {c} (s : State) : exec (.coastRestart c) s = execCoastRestart c s := by delta exec; rfl
@[simp] theorem exec_senseDone {c rpm} (s : State) : exec (.senseDone c rpm) s = execSenseDone c rpm s := by delta exec; rfl
@[simp] theorem exec_brakeDone {c} (s : State) : exec (.brakeDone c) s = execBrakeDone c s := by delta exec; rfl
@[simp] theorem exec_alignDone {c} (s : State) : exec (.alignDone c) s = execAlignDone c s := by delta exec; rfl
@[simp] theorem exec_openRampDone {c} (s : State) : exec (.openRampDone c) s = execOpenRampDone c s := by delta exec; rfl
@[simp] theorem exec_syncDone {c} (s : State) : exec (.syncDone c) s = execSyncDone c s := by delta exec; rfl
@[simp] theorem exec_startFail {c} (s : State) : exec (.startFail c) s = execStartFail c s := by delta exec; rfl
@[simp] theorem exec_startRetry {c} (s : State) : exec (.startRetry c) s = execStartRetry c s := by delta exec; rfl
@[simp] theorem exec_missingPhase {c} (s : State) : exec (.missingPhase c) s = execMissingPhase c s := by delta exec; rfl
@[simp] theorem exec_fanOvercurrent {c} (s : State) : exec (.fanOvercurrent c) s = execFanOvercurrent c s := by delta exec; rfl
@[simp] theorem exec_fanFaultRestart {c} (s : State) : exec (.fanFaultRestart c) s = execFanFaultRestart c s := by delta exec; rfl
@[simp] theorem exec_fanTokenClaimDone {samples} (s : State) :
    exec (.fanTokenClaimDone samples) s = execFanTokenClaimDone samples s := by delta exec; rfl
@[simp] theorem exec_fanTokenLineChange {low} (s : State) :
    exec (.fanTokenLineChange low) s = execFanTokenLineChange low s := by delta exec; rfl
@[simp] theorem exec_fanPowerReport {pMeasDw irms} (s : State) :
    exec (.fanPowerReport pMeasDw irms) s = execFanPowerReport pMeasDw irms s := by delta exec; rfl
@[simp] theorem exec_fanDemandCompute {t} (s : State) : exec (.fanDemandCompute t) s = execFanDemandCompute t s := by delta exec; rfl
@[simp] theorem exec_beat {word seq dirtyMib hostUp} (s : State) :
    exec (.beat word seq dirtyMib hostUp) s = execBeat word seq dirtyMib hostUp s := by delta exec; rfl
@[simp] theorem exec_beatMiss {mirror} (s : State) : exec (.beatMiss mirror) s = execBeatMiss mirror s := by delta exec; rfl
@[simp] theorem exec_activeClaimDone {samples} (s : State) :
    exec (.activeClaimDone samples) s = execActiveClaimDone samples s := by delta exec; rfl
@[simp] theorem exec_activeLineChange {low} (s : State) : exec (.activeLineChange low) s = execActiveLineChange low s := by delta exec; rfl
@[simp] theorem exec_powerCheck {ok} (s : State) : exec (.powerCheck ok) s = execPowerCheck ok s := by delta exec; rfl
@[simp] theorem exec_revertHoldoffExpiry {tested persists} (s : State) :
    exec (.revertHoldoffExpiry tested persists) s = execRevertHoldoffExpiry tested persists s := by delta exec; rfl
@[simp] theorem exec_holdSelfCheck {clear} (s : State) : exec (.holdSelfCheck clear) s = execHoldSelfCheck clear s := by delta exec; rfl
@[simp] theorem exec_commit {number} (s : State) : exec (.commit number) s = execCommit number s := by delta exec; rfl
@[simp] theorem exec_commitAck {number} (s : State) : exec (.commitAck number) s = execCommitAck number s := by delta exec; rfl
@[simp] theorem exec_intent {index entry} (s : State) : exec (.intent index entry) s = execIntent index entry s := by delta exec; rfl
@[simp] theorem exec_intentAck {index} (s : State) : exec (.intentAck index) s = execIntentAck index s := by delta exec; rfl
@[simp] theorem exec_ceiling {mib healthy} (s : State) : exec (.ceiling mib healthy) s = execCeiling mib healthy s := by delta exec; rfl
@[simp] theorem exec_slotState {en12 en5 spin awake} (s : State) :
    exec (.slotState en12 en5 spin awake) s = execSlotState en12 en5 spin awake s := by delta exec; rfl
@[simp] theorem exec_slotAck {on} (s : State) : exec (.slotAck on) s = execSlotAck on s := by delta exec; rfl
@[simp] theorem exec_fanState {chans} (s : State) : exec (.fanState chans) s = execFanState chans s := by delta exec; rfl
@[simp] theorem exec_config {what} (s : State) : exec (.config what) s = execConfig what s := by delta exec; rfl
@[simp] theorem exec_token {watts leaseMs addr} (s : State) :
    exec (.token watts leaseMs addr) s = execToken watts leaseMs addr s := by delta exec; rfl
@[simp] theorem exec_relinquishMessage {reason} (s : State) :
    exec (.relinquishMessage reason) s = execRelinquishMessage reason s := by delta exec; rfl
@[simp] theorem exec_resync {lines entries} (s : State) : exec (.resync lines entries) s = execResync lines entries s := by delta exec; rfl
@[simp] theorem exec_blockNak {key} (s : State) : exec (.blockNak key) s = execBlockNak key s := by delta exec; rfl
@[simp] theorem exec_fabricLinkUp {p lanes passive cable} (s : State) :
    exec (.fabricLinkUp p lanes passive cable) s = execFabricLinkUp p lanes passive cable s := by delta exec; rfl
@[simp] theorem exec_fabricLinkDown {p} (s : State) : exec (.fabricLinkDown p) s = execFabricLinkDown p s := by delta exec; rfl
@[simp] theorem exec_fabricBleatTimeout {p} (s : State) : exec (.fabricBleatTimeout p) s = execFabricBleatTimeout p s := by delta exec; rfl
@[simp] theorem exec_parkedListen {p} (s : State) : exec (.parkedListen p) s = execParkedListen p s := by delta exec; rfl
@[simp] theorem exec_bleat {p good b} (s : State) : exec (.bleat p good b) s = execBleat p good b s := by delta exec; rfl
@[simp] theorem exec_linkCtl {p ack nak} (s : State) : exec (.linkCtl p ack nak) s = execLinkCtl p ack nak s := by delta exec; rfl
@[simp] theorem exec_linkReplay {p} (s : State) : exec (.linkReplay p) s = execLinkReplay p s := by delta exec; rfl
@[simp] theorem exec_frameForward {p good f} (s : State) :
    exec (.frameForward p good f) s = execFrameForward p good f s := by delta exec; rfl
@[simp] theorem exec_lsa {p uid addr seq links} (s : State) :
    exec (.lsa p uid addr seq links) s = execLsa p uid addr seq links s := by delta exec; rfl
@[simp] theorem exec_lsaExpiry {uid} (s : State) : exec (.lsaExpiry uid) s = execLsaExpiry uid s := by delta exec; rfl
@[simp] theorem exec_addrReq {p src uid pref} (s : State) :
    exec (.addrReq p src uid pref) s = execAddrReq p src uid pref s := by delta exec; rfl
@[simp] theorem exec_addrAssign {p src uid addr} (s : State) :
    exec (.addrAssign p src uid addr) s = execAddrAssign p src uid addr s := by delta exec; rfl
@[simp] theorem exec_budget {p msg} (s : State) : exec (.budget p msg) s = execBudget p msg s := by delta exec; rfl
@[simp] theorem exec_tokenReq {p src xseq want min cls} (s : State) :
    exec (.tokenReq p src xseq want min cls) s = execTokenReq p src xseq want min cls s := by delta exec; rfl
@[simp] theorem exec_tokenGrant {p xseq watts leaseMs} (s : State) :
    exec (.tokenGrant p xseq watts leaseMs) s = execTokenGrant p xseq watts leaseMs s := by delta exec; rfl
@[simp] theorem exec_tokenReport {p src xseq heldW drawDw} (s : State) :
    exec (.tokenReport p src xseq heldW drawDw) s = execTokenReport p src xseq heldW drawDw s := by delta exec; rfl
@[simp] theorem exec_tokenRelease {p src} (s : State) : exec (.tokenRelease p src) s = execTokenRelease p src s := by delta exec; rfl
@[simp] theorem exec_leaseMove {p src xseq lost} (s : State) :
    exec (.leaseMove p src xseq lost) s = execLeaseMove p src xseq lost s := by delta exec; rfl
@[simp] theorem exec_tokenRequestDrop {src} (s : State) : exec (.tokenRequestDrop src) s = execTokenRequestDrop src s := by delta exec; rfl
@[simp] theorem exec_copyDesc {p src batch id lba vol nblkM1 pi crcs guards} (s : State) :
    exec (.copyDesc p src batch id lba vol nblkM1 pi crcs guards) s = execCopyDesc p src batch id lba vol nblkM1 pi crcs guards s := by delta exec; rfl
@[simp] theorem exec_copyData {p src batch idx data} (s : State) :
    exec (.copyData p src batch idx data) s = execCopyData p src batch idx data s := by delta exec; rfl
@[simp] theorem exec_copyAck {p id batch status level} (s : State) :
    exec (.copyAck p id batch status level) s = execCopyAck p id batch status level s := by delta exec; rfl
@[simp] theorem exec_copyBatchTimeout {id batch} (s : State) :
    exec (.copyBatchTimeout id batch) s = execCopyBatchTimeout id batch s := by delta exec; rfl
@[simp] theorem exec_peerRead {p src group member lba nblk data} (s : State) :
    exec (.peerRead p src group member lba nblk data) s = execPeerRead p src group member lba nblk data s := by delta exec; rfl
@[simp] theorem exec_peerData {p src group member lba blocks} (s : State) :
    exec (.peerData p src group member lba blocks) s = execPeerData p src group member lba blocks s := by delta exec; rfl
@[simp] theorem exec_flockResyncChunk {group} (s : State) :
    exec (.flockResyncChunk group) s = execFlockResyncChunk group s := by delta exec; rfl
@[simp] theorem exec_deltaDesc {p src group member seqs lba nblk crc} (s : State) :
    exec (.deltaDesc p src group member seqs lba nblk crc) s = execDeltaDesc p src group member seqs lba nblk crc s := by delta exec; rfl
@[simp] theorem exec_deltaData {p src xseq data old} (s : State) :
    exec (.deltaData p src xseq data old) s = execDeltaData p src xseq data old s := by delta exec; rfl
@[simp] theorem exec_deltaAck {p group member dseq} (s : State) :
    exec (.deltaAck p group member dseq) s = execDeltaAck p group member dseq s := by delta exec; rfl
@[simp] theorem exec_wakeReq {p src} (s : State) : exec (.wakeReq p src) s = execWakeReq p src s := by delta exec; rfl
@[simp] theorem exec_group {p msg} (s : State) : exec (.group p msg) s = execGroup p msg s := by delta exec; rfl
@[simp] theorem exec_groupStaleTimer {group} (s : State) :
    exec (.groupStaleTimer group) s = execGroupStaleTimer group s := by delta exec; rfl
@[simp] theorem exec_cboClean {core addr} (s : State) : exec (.cboClean core addr) s = execCboClean core addr s := by delta exec; rfl
@[simp] theorem exec_cboFlush {core addr} (s : State) : exec (.cboFlush core addr) s = execCboFlush core addr s := by delta exec; rfl
@[simp] theorem exec_cboInval {core addr} (s : State) : exec (.cboInval core addr) s = execCboInval core addr s := by delta exec; rfl
@[simp] theorem exec_cacheCe {addr} (s : State) : exec (.cacheCe addr) s = execCacheCe addr s := by delta exec; rfl
@[simp] theorem exec_cacheUe {core addr} (s : State) : exec (.cacheUe core addr) s = execCacheUe core addr s := by delta exec; rfl
@[simp] theorem exec_tagParityError {index way} (s : State) :
    exec (.tagParityError index way) s = execTagParityError index way s := by delta exec; rfl
@[simp] theorem exec_mtimeCompare {core} (s : State) : exec (.mtimeCompare core) s = execMtimeCompare core s := by delta exec; rfl
@[simp] theorem exec_mailboxTimeout {m} (s : State) : exec (.mailboxTimeout m) s = execMailboxTimeout m s := by delta exec; rfl
@[simp] theorem exec_peerLockRequest {m release} (s : State) :
    exec (.peerLockRequest m release) s = execPeerLockRequest m release s := by delta exec; rfl
@[simp] theorem exec_dmaDescriptor {c host dstFail limit} (s : State) :
    exec (.dmaDescriptor c host dstFail limit) s = execDmaDescriptor c host dstFail limit s := by delta exec; rfl
@[simp] theorem exec_dmaDescriptorDone {c} (s : State) : exec (.dmaDescriptorDone c) s = execDmaDescriptorDone c s := by delta exec; rfl
@[simp] theorem exec_sramRowRemap {array row} (s : State) :
    exec (.sramRowRemap array row) s = execSramRowRemap array row s := by delta exec; rfl
@[simp] theorem exec_dramRowLimit {loc row ue} (s : State) :
    exec (.dramRowLimit loc row ue) s = execDramRowLimit loc row ue s := by delta exec; rfl
@[simp] theorem exec_dramPprDone {region} (s : State) : exec (.dramPprDone region) s = execDramPprDone region s := by delta exec; rfl
@[simp] theorem exec_postDone {engines cores rows columns} (s : State) :
    exec (.postDone engines cores rows columns) s = execPostDone engines cores rows columns s := by delta exec; rfl
@[simp] theorem exec_corePeriodicTest {core pass sparePass} (s : State) :
    exec (.corePeriodicTest core pass sparePass) s = execCorePeriodicTest core pass sparePass s := by delta exec; rfl
@[simp] theorem exec_fabricLaneFailure {port lane} (s : State) :
    exec (.fabricLaneFailure port lane) s = execFabricLaneFailure port lane s := by delta exec; rfl
@[simp] theorem exec_strapChange {posB compatN shelf} (s : State) :
    exec (.strapChange posB compatN shelf) s = execStrapChange posB compatN shelf s := by delta exec; rfl
@[simp] theorem exec_consoleImageLoad {image slot} (s : State) :
    exec (.consoleImageLoad image slot) s = execConsoleImageLoad image slot s := by delta exec; rfl
@[simp] theorem exec_cacheFillComplete {line} (s : State) :
    exec (.cacheFillComplete line) s = execCacheFillComplete line s := by delta exec; rfl
@[simp] theorem exec_victimWritebackLanded {line} (s : State) :
    exec (.victimWritebackLanded line) s = execVictimWritebackLanded line s := by delta exec; rfl
@[simp] theorem exec_spinupFailure {slot} (s : State) : exec (.spinupFailure slot) s = execSpinupFailure slot s := by delta exec; rfl
@[simp] theorem exec_mirrorLinkUp {lanes} (s : State) : exec (.mirrorLinkUp lanes) s = execMirrorLinkUp lanes s := by delta exec; rfl
@[simp] theorem exec_chargeWindowEntry {temp} (s : State) :
    exec (.chargeWindowEntry temp) s = execChargeWindowEntry temp s := by delta exec; rfl
@[simp] theorem exec_grazeOverdue {array group whole} (s : State) :
    exec (.grazeOverdue array group whole) s = execGrazeOverdue array group whole s := by delta exec; rfl
@[simp] theorem exec_nodeUnheardExpiry {uid} (s : State) :
    exec (.nodeUnheardExpiry uid) s = execNodeUnheardExpiry uid s := by delta exec; rfl
@[simp] theorem exec_copyWakeTimeout {qid cid} (s : State) :
    exec (.copyWakeTimeout qid cid) s = execCopyWakeTimeout qid cid s := by delta exec; rfl
@[simp] theorem exec_resetAccessTimeout (s : State) : exec .resetAccessTimeout s = execResetAccessTimeout s := by delta exec; rfl
@[simp] theorem exec_spinDownExcess (s : State) : exec .spinDownExcess s = execSpinDownExcess s := by delta exec; rfl
@[simp] theorem exec_idleParkExpiry (s : State) : exec .idleParkExpiry s = execIdleParkExpiry s := by delta exec; rfl
@[simp] theorem exec_enterServing (s : State) : exec .enterServing s = execEnterServing s := by delta exec; rfl
@[simp] theorem exec_drainComplete (s : State) : exec .drainComplete s = execDrainComplete s := by delta exec; rfl
@[simp] theorem exec_destageComplete (s : State) : exec .destageComplete s = execDestageComplete s := by delta exec; rfl
@[simp] theorem exec_wakeDenied (s : State) : exec .wakeDenied s = execWakeDenied s := by delta exec; rfl
@[simp] theorem exec_xlateDone (s : State) : exec .xlateDone s = execXlateDone s := by delta exec; rfl
@[simp] theorem exec_jobDispatch (s : State) : exec .jobDispatch s = execJobDispatch s := by delta exec; rfl
@[simp] theorem exec_writeThroughReached (s : State) : exec .writeThroughReached s = execWriteThroughReached s := by delta exec; rfl
@[simp] theorem exec_replayDoneWrite (s : State) : exec .replayDoneWrite s = execReplayDoneWrite s := by delta exec; rfl
@[simp] theorem exec_fwCommandEntry (s : State) : exec .fwCommandEntry s = execFwCommandEntry s := by delta exec; rfl
@[simp] theorem exec_queueEnable (s : State) : exec .queueEnable s = execQueueEnable s := by delta exec; rfl
@[simp] theorem exec_queueReady (s : State) : exec .queueReady s = execQueueReady s := by delta exec; rfl
@[simp] theorem exec_queueDisable (s : State) : exec .queueDisable s = execQueueDisable s := by delta exec; rfl
@[simp] theorem exec_queueStopped (s : State) : exec .queueStopped s = execQueueStopped s := by delta exec; rfl
@[simp] theorem exec_kick (s : State) : exec .kick s = execKick s := by delta exec; rfl
@[simp] theorem exec_heartbeatRecord (s : State) : exec .heartbeatRecord s = execHeartbeatRecord s := by delta exec; rfl
@[simp] theorem exec_selfTestResume (s : State) : exec .selfTestResume s = execSelfTestResume s := by delta exec; rfl
@[simp] theorem exec_linkRestore (s : State) : exec .linkRestore s = execLinkRestore s := by delta exec; rfl
@[simp] theorem exec_busMasterDisable (s : State) : exec .busMasterDisable s = execBusMasterDisable s := by delta exec; rfl
@[simp] theorem exec_busMasterEnable (s : State) : exec .busMasterEnable s = execBusMasterEnable s := by delta exec; rfl
@[simp] theorem exec_flr (s : State) : exec .flr s = execFlr s := by delta exec; rfl
@[simp] theorem exec_flrComplete (s : State) : exec .flrComplete s = execFlrComplete s := by delta exec; rfl
@[simp] theorem exec_perst (s : State) : exec .perst s = execPerst s := by delta exec; rfl
@[simp] theorem exec_hotReset (s : State) : exec .hotReset s = execHotReset s := by delta exec; rfl
@[simp] theorem exec_dlDown (s : State) : exec .dlDown s = execDlDown s := by delta exec; rfl
@[simp] theorem exec_d3hotEntry (s : State) : exec .d3hotEntry s = execD3hotEntry s := by delta exec; rfl
@[simp] theorem exec_d0Return (s : State) : exec .d0Return s = execD0Return s := by delta exec; rfl
@[simp] theorem exec_xlatDrainDone (s : State) : exec .xlatDrainDone s = execXlatDrainDone s := by delta exec; rfl
@[simp] theorem exec_intxAck (s : State) : exec .intxAck s = execIntxAck s := by delta exec; rfl
@[simp] theorem exec_mainsLost (s : State) : exec .mainsLost s = execMainsLost s := by delta exec; rfl
@[simp] theorem exec_mainsReturn (s : State) : exec .mainsReturn s = execMainsReturn s := by delta exec; rfl
@[simp] theorem exec_converterOverload (s : State) : exec .converterOverload s = execConverterOverload s := by delta exec; rfl
@[simp] theorem exec_overloadClear (s : State) : exec .overloadClear s = execOverloadClear s := by delta exec; rfl
@[simp] theorem exec_converterRegulating (s : State) : exec .converterRegulating s = execConverterRegulating s := by delta exec; rfl
@[simp] theorem exec_convFault (s : State) : exec .convFault s = execConvFault s := by delta exec; rfl
@[simp] theorem exec_gate1Admit (s : State) : exec .gate1Admit s = execGate1Admit s := by delta exec; rfl
@[simp] theorem exec_gate2Admit (s : State) : exec .gate2Admit s = execGate2Admit s := by delta exec; rfl
@[simp] theorem exec_moduleUnmate (s : State) : exec .moduleUnmate s = execModuleUnmate s := by delta exec; rfl
@[simp] theorem exec_packRemoved (s : State) : exec .packRemoved s = execPackRemoved s := by delta exec; rfl
@[simp] theorem exec_chargeTermination (s : State) : exec .chargeTermination s = execChargeTermination s := by delta exec; rfl
@[simp] theorem exec_chargeTimeout (s : State) : exec .chargeTimeout s = execChargeTimeout s := by delta exec; rfl
@[simp] theorem exec_chgFaultRetry (s : State) : exec .chgFaultRetry s = execChgFaultRetry s := by delta exec; rfl
@[simp] theorem exec_restValid (s : State) : exec .restValid s = execRestValid s := by delta exec; rfl
@[simp] theorem exec_packEstimate (s : State) : exec .packEstimate s = execPackEstimate s := by delta exec; rfl
@[simp] theorem exec_learnStart (s : State) : exec .learnStart s = execLearnStart s := by delta exec; rfl
@[simp] theorem exec_learnTimeout (s : State) : exec .learnTimeout s = execLearnTimeout s := by delta exec; rfl
@[simp] theorem exec_fanTokenClaim (s : State) : exec .fanTokenClaim s = execFanTokenClaim s := by delta exec; rfl
@[simp] theorem exec_fanTokenRelease (s : State) : exec .fanTokenRelease s = execFanTokenRelease s := by delta exec; rfl
@[simp] theorem exec_fanWatchdogExpiry (s : State) : exec .fanWatchdogExpiry s = execFanWatchdogExpiry s := by delta exec; rfl
@[simp] theorem exec_beatSend (s : State) : exec .beatSend s = execBeatSend s := by delta exec; rfl
@[simp] theorem exec_roleTake (s : State) : exec .roleTake s = execRoleTake s := by delta exec; rfl
@[simp] theorem exec_activeClaim (s : State) : exec .activeClaim s = execActiveClaim s := by delta exec; rfl
@[simp] theorem exec_activeRelease (s : State) : exec .activeRelease s = execActiveRelease s := by delta exec; rfl
@[simp] theorem exec_relinquish (s : State) : exec .relinquish s = execRelinquish s := by delta exec; rfl
@[simp] theorem exec_takeoverComplete (s : State) : exec .takeoverComplete s = execTakeoverComplete s := by delta exec; rfl
@[simp] theorem exec_watchdogKick (s : State) : exec .watchdogKick s = execWatchdogKick s := by delta exec; rfl
@[simp] theorem exec_fwWatchdogExpiry (s : State) : exec .fwWatchdogExpiry s = execFwWatchdogExpiry s := by delta exec; rfl
@[simp] theorem exec_keeperRelease (s : State) : exec .keeperRelease s = execKeeperRelease s := by delta exec; rfl
@[simp] theorem exec_watchdogRestart (s : State) : exec .watchdogRestart s = execWatchdogRestart s := by delta exec; rfl
@[simp] theorem exec_handoverBegin (s : State) : exec .handoverBegin s = execHandoverBegin s := by delta exec; rfl
@[simp] theorem exec_handoverPowerOk (s : State) : exec .handoverPowerOk s = execHandoverPowerOk s := by delta exec; rfl
@[simp] theorem exec_handoverPowerFail (s : State) : exec .handoverPowerFail s = execHandoverPowerFail s := by delta exec; rfl
@[simp] theorem exec_handoverCommit (s : State) : exec .handoverCommit s = execHandoverCommit s := by delta exec; rfl
@[simp] theorem exec_resyncComplete (s : State) : exec .resyncComplete s = execResyncComplete s := by delta exec; rfl
@[simp] theorem exec_swapDue (s : State) : exec .swapDue s = execSwapDue s := by delta exec; rfl
@[simp] theorem exec_holdUnsyncedTimeout (s : State) : exec .holdUnsyncedTimeout s = execHoldUnsyncedTimeout s := by delta exec; rfl
@[simp] theorem exec_mirrorLinkDown (s : State) : exec .mirrorLinkDown s = execMirrorLinkDown s := by delta exec; rfl
@[simp] theorem exec_slotStateSend (s : State) : exec .slotStateSend s = execSlotStateSend s := by delta exec; rfl
@[simp] theorem exec_fanStateSend (s : State) : exec .fanStateSend s = execFanStateSend s := by delta exec; rfl
@[simp] theorem exec_bleatSend (s : State) : exec .bleatSend s = execBleatSend s := by delta exec; rfl
@[simp] theorem exec_lsaRefresh (s : State) : exec .lsaRefresh s = execLsaRefresh s := by delta exec; rfl
@[simp] theorem exec_addrRetry (s : State) : exec .addrRetry s = execAddrRetry s := by delta exec; rfl
@[simp] theorem exec_tokenReportTimer (s : State) : exec .tokenReportTimer s = execTokenReportTimer s := by delta exec; rfl
@[simp] theorem exec_leaseExpiry (s : State) : exec .leaseExpiry s = execLeaseExpiry s := by delta exec; rfl
@[simp] theorem exec_bellwetherGrantStart (s : State) : exec .bellwetherGrantStart s = execBellwetherGrantStart s := by delta exec; rfl
@[simp] theorem exec_deltaResend (s : State) : exec .deltaResend s = execDeltaResend s := by delta exec; rfl
@[simp] theorem exec_clean (s : State) : exec .clean s = execClean s := by delta exec; rfl
@[simp] theorem exec_inval (s : State) : exec .inval s = execInval s := by delta exec; rfl
@[simp] theorem exec_cacheFlush (s : State) : exec .cacheFlush s = execCacheFlush s := by delta exec; rfl
@[simp] theorem exec_cleanAll (s : State) : exec .cleanAll s = execCleanAll s := by delta exec; rfl
@[simp] theorem exec_flushAll (s : State) : exec .flushAll s = execFlushAll s := by delta exec; rfl
@[simp] theorem exec_invalAll (s : State) : exec .invalAll s = execInvalAll s := by delta exec; rfl
@[simp] theorem exec_maintDone (s : State) : exec .maintDone s = execMaintDone s := by delta exec; rfl
@[simp] theorem exec_laneRestore (s : State) : exec .laneRestore s = execLaneRestore s := by delta exec; rfl
@[simp] theorem exec_repairRecordPop (s : State) : exec .repairRecordPop s = execRepairRecordPop s := by delta exec; rfl
@[simp] theorem exec_powerOnReset (s : State) : exec .powerOnReset s = execPowerOnReset s := by delta exec; rfl
@[simp] theorem exec_bootTimeout (s : State) : exec .bootTimeout s = execBootTimeout s := by delta exec; rfl
@[simp] theorem exec_consoleColdReset (s : State) : exec .consoleColdReset s = execConsoleColdReset s := by delta exec; rfl
@[simp] theorem exec_consoleWarmReset (s : State) : exec .consoleWarmReset s = execConsoleWarmReset s := by delta exec; rfl
@[simp] theorem exec_consoleDump (s : State) : exec .consoleDump s = execConsoleDump s := by delta exec; rfl
@[simp] theorem exec_hostLinkDownFault (s : State) : exec .hostLinkDownFault s = execHostLinkDownFault s := by delta exec; rfl
@[simp] theorem exec_packCutoff (s : State) : exec .packCutoff s = execPackCutoff s := by delta exec; rfl

end Sys2Proof.Machine
end

