-- ==== Sys2Proof/Laws/Assoc.lean ====
section
/-! SUPPORT. What the operations on sparse data do: reading after writing, and the canonical order kept. -/

namespace Sys2Proof.Machine

theorem Assoc.find_erase {α : Type} (k j : Nat) (m : List (Nat × α)) :
    Assoc.find (Assoc.erase m k) j = if k = j then none else Assoc.find m j := by
  induction m with
  | nil => simp [Assoc.erase, Assoc.find]
  | cons p t ih =>
    obtain ⟨a, w⟩ := p
    by_cases hak : a = k <;> by_cases hkj : k = j <;> by_cases haj : a = j <;>
      simp_all [Assoc.erase, Assoc.find]

theorem Assoc.find_insert {α : Type} (k j : Nat) (v : α) (m : List (Nat × α)) (h : Assoc.find m k = none) :
    Assoc.find (Assoc.insert k v m) j = if k = j then some v else Assoc.find m j := by
  induction m with
  | nil => rfl
  | cons p t ih =>
    obtain ⟨a, w⟩ := p
    by_cases hak : a = k
    · simp [Assoc.find, hak] at h
    · simp only [Assoc.find, if_neg hak] at h
      unfold Assoc.insert
      split
      · rfl
      · simp only [Assoc.find, ih h]
        by_cases hkj : k = j <;> by_cases haj : a = j <;> simp_all

theorem Assoc.find_set {α : Type} (k j : Nat) (v : α) (m : List (Nat × α)) :
    Assoc.find (Assoc.set m k v) j = if k = j then some v else Assoc.find m j := by
  have h : Assoc.find (Assoc.erase m k) k = none := by simp [Assoc.find_erase]
  rw [Assoc.set, Assoc.find_insert _ _ _ _ h, Assoc.find_erase]
  split <;> rfl

/-- What a key reads after `v` is put under another, or the same. -/
theorem Assoc.getD_put {α : Type} [DecidableEq α] (m : List (Nat × α)) (d v : α) (k j : Nat) :
    Assoc.getD (Assoc.put m d k v) j d = if k = j then v else Assoc.getD m j d := by
  unfold Assoc.put Assoc.getD
  by_cases hv : v = d <;> by_cases hkj : k = j <;> simp [hv, hkj, Assoc.find_erase, Assoc.find_set]

/-- A key other than the one put reads as before, whatever its default. -/
theorem Assoc.getD_put_ne {α : Type} [DecidableEq α] (m : List (Nat × α)) (d v e : α) (k j : Nat) (h : k ≠ j) :
    Assoc.getD (Assoc.put m d k v) j e = Assoc.getD m j e := by
  unfold Assoc.put Assoc.getD
  by_cases hv : v = d <;> simp [hv, h, Assoc.find_erase, Assoc.find_set]

/-! Order -/

theorem Assoc.risingFrom_mono {α : Type} {a b : Nat} (hab : b ≤ a) :
    ∀ {m : List (Nat × α)}, Assoc.risingFrom a m = true → Assoc.risingFrom b m = true
  | [], _ => rfl
  | (x, _) :: _, h => by simp only [Assoc.risingFrom, Bool.and_eq_true, decide_eq_true_eq] at h ⊢; exact ⟨by omega, h.2⟩

theorem Assoc.risingFrom_erase {α : Type} (k : Nat) :
    ∀ (m : List (Nat × α)) (b : Nat), Assoc.risingFrom b m = true → Assoc.risingFrom b (Assoc.erase m k) = true
  | [], _, _ => rfl
  | (a, _) :: t, b, h => by
    simp only [Assoc.risingFrom, Bool.and_eq_true, decide_eq_true_eq] at h
    have ih := Assoc.risingFrom_erase k t (a + 1) h.2
    by_cases hak : a = k
    · rw [Assoc.erase, if_pos hak]; exact Assoc.risingFrom_mono (a := a + 1) (by omega) ih
    · simpa [Assoc.erase, hak, Assoc.risingFrom] using ⟨h.1, ih⟩

theorem Assoc.risingFrom_insert {α : Type} (k : Nat) (v : α) :
    ∀ (m : List (Nat × α)) (b : Nat), Assoc.risingFrom b m = true → Assoc.find m k = none → b ≤ k →
      Assoc.risingFrom b (Assoc.insert k v m) = true
  | [], _, _, _, hb => by simp [Assoc.insert, Assoc.risingFrom, hb]
  | (a, _) :: t, b, h, hf, hb => by
    simp only [Assoc.risingFrom, Bool.and_eq_true, decide_eq_true_eq] at h
    by_cases hak : a = k
    · simp [Assoc.find, hak] at hf
    · simp only [Assoc.find, if_neg hak] at hf
      by_cases hlt : k < a
      · simp [Assoc.insert, hlt, Assoc.risingFrom, hb, h.2]
      · have ih := Assoc.risingFrom_insert k v t (a + 1) h.2 hf (by omega)
        simp [Assoc.insert, hlt, Assoc.risingFrom, h.1, ih]

theorem Assoc.rising_erase {α : Type} {m : List (Nat × α)} (k : Nat) (h : Assoc.rising m = true) :
    Assoc.rising (Assoc.erase m k) = true := Assoc.risingFrom_erase k m 0 h

theorem Assoc.rising_set {α : Type} {m : List (Nat × α)} (k : Nat) (v : α) (h : Assoc.rising m = true) :
    Assoc.rising (Assoc.set m k v) = true :=
  Assoc.risingFrom_insert k v _ 0 (Assoc.risingFrom_erase k m 0 h) (by simp [Assoc.find_erase]) (Nat.zero_le k)

theorem Assoc.rising_put {α : Type} [DecidableEq α] {m : List (Nat × α)} (d : α) (k : Nat) (v : α) (h : Assoc.rising m = true) :
    Assoc.rising (Assoc.put m d k v) = true := by
  unfold Assoc.put; split
  · exact Assoc.rising_erase k h
  · exact Assoc.rising_set k v h

theorem Assoc.risingFrom_filter {α : Type} (p : Nat × α → Bool) :
    ∀ (m : List (Nat × α)) (b : Nat), Assoc.risingFrom b m = true → Assoc.risingFrom b (m.filter p) = true
  | [], _, _ => rfl
  | (a, _) :: t, b, h => by
    simp only [Assoc.risingFrom, Bool.and_eq_true, decide_eq_true_eq] at h
    have ih := Assoc.risingFrom_filter p t (a + 1) h.2
    rw [List.filter_cons]; split
    · simpa [Assoc.risingFrom] using ⟨h.1, ih⟩
    · exact Assoc.risingFrom_mono (by omega) ih

theorem Assoc.rising_filter {α : Type} {m : List (Nat × α)} (p : Nat × α → Bool) (h : Assoc.rising m = true) :
    Assoc.rising (m.filter p) = true := Assoc.risingFrom_filter p m 0 h

/-- Every pair of a map after a pair was erased, set or put. -/
theorem Assoc.mem_erase {α : Type} {m : List (Nat × α)} {k : Nat} {x : Nat × α} (h : x ∈ Assoc.erase m k) : x ∈ m := by
  induction m with
  | nil => exact h
  | cons p t ih =>
    obtain ⟨a, w⟩ := p
    simp only [Assoc.erase] at h
    split at h
    · exact List.mem_cons_of_mem _ (ih h)
    · rcases List.mem_cons.mp h with h | h
      · exact h ▸ List.mem_cons_self
      · exact List.mem_cons_of_mem _ (ih h)

theorem Assoc.mem_insert {α : Type} {m : List (Nat × α)} {k : Nat} {v : α} {x : Nat × α} (h : x ∈ Assoc.insert k v m) :
    x = (k, v) ∨ x ∈ m := by
  induction m with
  | nil => simpa [Assoc.insert] using h
  | cons p t ih =>
    obtain ⟨a, w⟩ := p
    simp only [Assoc.insert] at h
    split at h
    · simpa using h
    · rcases List.mem_cons.mp h with h | h
      · exact .inr (h ▸ List.mem_cons_self)
      · rcases ih h with h | h
        · exact .inl h
        · exact .inr (List.mem_cons_of_mem _ h)

end Sys2Proof.Machine
end

