-- ==== Sys2Proof/Laws/Canonical.lean ====
section
/-! SUPPORT. The canonical form of a state is kept by the operations that change register fields and memory, and by everything
that leaves both alone. -/

set_option linter.unreachableTactic false
set_option linter.unusedTactic false

namespace Sys2Proof.Machine

/-- A state with the register fields and the memory of another is canonical with it. -/
theorem State.canonical.of_eq {s t : State} (h : s.canonical) (hr : t.regs = s.regs) (hm : t.mem = s.mem) : t.canonical := by
  unfold State.canonical at *; rw [hr, hm]; exact h

theorem Memory.wf_put {m : List Host.Cell} (a : Nat) (v : BitVec 8) (h : Memory.wf m = true) :
    Memory.wf (Assoc.put m 0#8 a v) = true := by
  simp only [Memory.wf, Bool.and_eq_true, List.all_eq_true] at *
  refine ⟨Assoc.rising_put _ _ _ h.1, fun c hc => ?_⟩
  unfold Assoc.put at hc
  split at hc
  · exact h.2 c (Assoc.mem_erase hc)
  · rename_i hv
    rcases Assoc.mem_insert hc with rfl | hc
    · simpa using hv
    · exact h.2 c (Assoc.mem_erase hc)

theorem Memory.wf_filter {m : List Host.Cell} (p : Host.Cell → Bool) (h : Memory.wf m = true) : Memory.wf (m.filter p) = true := by
  simp only [Memory.wf, Bool.and_eq_true, List.all_eq_true] at *
  exact ⟨Assoc.rising_filter p h.1, fun c hc => h.2 c (List.mem_of_mem_filter hc)⟩

/-- Register fields and memory in canonical form. -/
def Good (r : List (Nat × Nat)) (m : List Host.Cell) : Prop := Assoc.rising r = true ∧ Memory.wf m = true

theorem Good.of {s : State} (h : s.canonical) : Good s.regs s.mem := h

theorem State.canonical_mk {r m a0 a1 a2 a3 a4 a5 a6 a7 a8 a9 b0 b1 b2 b3 b4 b5 b6 b7 b8 b9 c0} :
    State.canonical ⟨r, m, a0, a1, a2, a3, a4, a5, a6, a7, a8, a9, b0, b1, b2, b3, b4, b5, b6, b7, b8, b9, c0⟩ = Good r m := rfl

theorem setF_canonical (f : Field) (v : Nat) {s : State} (h : s.canonical) : (setF f v s).canonical :=
  ⟨Assoc.rising_put _ _ _ h.1, h.2⟩

theorem writeByte_canonical (a : Nat) (v : BitVec 8) {s : State} (h : s.canonical) : (writeByte a v s).canonical :=
  ⟨h.1, Memory.wf_put a v h.2⟩

theorem forEach_canonical {α : Type} (l : List α) (f : α → State → State) {s : State} (h : s.canonical)
    (hf : ∀ x t, t.canonical → (f x t).canonical) : (forEach l f s).canonical := by
  unfold forEach
  induction l generalizing s with
  | nil => exact h
  | cons x l ih => exact ih (hf x s h)

theorem when_canonical (c : Bool) (f : State → State) {s : State} (h : s.canonical) (hf : s.canonical → (f s).canonical) :
    (when c f s).canonical := by unfold when; split; exacts [hf h, h]

theorem Leads.next {p : State → Prop} {t : State} (h : p t) : Leads p (.next t) := by
  intro u e; cases e; exact h

theorem Leads.fault {p : State → Prop} (r : Fault) : Leads p (.fault r) := by intro u e; cases e

theorem Leads.refused {p : State → Prop} (r : Refusal) : Leads p (.refused r) := by intro u e; cases e

theorem id_canonical {s : State} (h : s.canonical) : (id s).canonical := h

/-- An optional state, if there is one, has a property. -/
def OptLeads (p : State → Prop) (o : Option State) : Prop := ∀ t, o = some t → p t

theorem OptLeads.some {p : State → Prop} {t : State} (h : p t) : OptLeads p (some t) := by intro u e; cases e; exact h

theorem OptLeads.none {p : State → Prop} : OptLeads p none := by intro u e; cases e

theorem OptLeads.elim {p : State → Prop} {o : Option State} {t : State} (h : OptLeads p o) (e : o = Option.some t) : p t := h t e

theorem OptLeads.map {p : State → Prop} {o : Option State} {f : State → State} (h : OptLeads p o) (hf : ∀ t, p t → p (f t)) :
    OptLeads p (o.map f) := by
  cases o with
  | none => exact OptLeads.none
  | some s => exact OptLeads.some (hf s (h s rfl))

theorem Leads.elim {p : State → Prop} {r : Result} {t : State} (h : Leads p r) (e : r = .next t) : p t := h t e

end Sys2Proof.Machine
end

