-- ==== Sys2Proof/Laws/CanonOps.lean ====
section
/-! SUPPORT. The canonical form is kept by the operations of Machine/Ops.lean. -/

set_option linter.all false

namespace Sys2Proof.Machine

theorem bump_canonical (f : Field) {s : State} (hs : State.canonical s) :
    State.canonical (bump f s) := by
  unfold bump
  repeat' first
    | with_reducible assumption
    | with_reducible apply Leads.next
    | with_reducible exact Leads.fault _
    | with_reducible apply OptLeads.some
    | with_reducible exact OptLeads.none
    | with_reducible apply OptLeads.map
    | with_reducible apply setF_canonical
    | with_reducible apply setF_canonical
    | extract_lets
    | (simp only [↓State.canonical_mk]; with_reducible apply Good.of)
    | split
    | (with_reducible intro _)
    | dsimp only
    | dsimp +zetaDelta only

theorem bumpBy_canonical (f : Field) (n : Nat) {s : State} (hs : State.canonical s) :
    State.canonical (bumpBy f n s) := by
  unfold bumpBy
  repeat' first
    | with_reducible assumption
    | with_reducible apply Leads.next
    | with_reducible exact Leads.fault _
    | with_reducible apply OptLeads.some
    | with_reducible exact OptLeads.none
    | with_reducible apply OptLeads.map
    | with_reducible apply setF_canonical
    | with_reducible apply setF_canonical
    | extract_lets
    | (simp only [↓State.canonical_mk]; with_reducible apply Good.of)
    | split
    | (with_reducible intro _)
    | dsimp only
    | dsimp +zetaDelta only

theorem event_canonical (flag cnt : Field) {s : State} (hs : State.canonical s) :
    State.canonical (event flag cnt s) := by
  unfold event
  repeat' first
    | with_reducible assumption
    | with_reducible apply Leads.next
    | with_reducible exact Leads.fault _
    | with_reducible apply OptLeads.some
    | with_reducible exact OptLeads.none
    | with_reducible apply OptLeads.map
    | with_reducible apply bump_canonical
    | with_reducible apply setF_canonical
    | with_reducible apply setF_canonical
    | extract_lets
    | (simp only [↓State.canonical_mk]; with_reducible apply Good.of)
    | split
    | (with_reducible intro _)
    | dsimp only
    | dsimp +zetaDelta only

theorem set64_canonical (lo hi : Field) (v : Nat) {s : State} (hs : State.canonical s) :
    State.canonical (set64 lo hi v s) := by
  unfold set64
  repeat' first
    | with_reducible assumption
    | with_reducible apply Leads.next
    | with_reducible exact Leads.fault _
    | with_reducible apply OptLeads.some
    | with_reducible exact OptLeads.none
    | with_reducible apply OptLeads.map
    | with_reducible apply setF_canonical
    | with_reducible apply setF_canonical
    | extract_lets
    | (simp only [↓State.canonical_mk]; with_reducible apply Good.of)
    | split
    | (with_reducible intro _)
    | dsimp only
    | dsimp +zetaDelta only

theorem writeBytes_canonical (a : Nat) (l : List Nat) {s : State} (hs : State.canonical s) :
    State.canonical (writeBytes a l s) := by
  induction l generalizing a s with
  | nil =>
    unfold writeBytes
    repeat' first
      | with_reducible assumption
      | with_reducible apply Leads.next
      | with_reducible exact Leads.fault _
      | with_reducible apply OptLeads.some
      | with_reducible exact OptLeads.none
      | with_reducible apply OptLeads.map
      | with_reducible apply writeByte_canonical
      | with_reducible apply writeByte_canonical
      | extract_lets
      | (simp only [↓State.canonical_mk]; with_reducible apply Good.of)
      | split
      | (with_reducible intro _)
      | dsimp only
      | dsimp +zetaDelta only
  | cons x l ih =>
    unfold writeBytes
    repeat' first
      | with_reducible assumption
      | with_reducible apply Leads.next
      | with_reducible exact Leads.fault _
      | with_reducible apply OptLeads.some
      | with_reducible exact OptLeads.none
      | with_reducible apply OptLeads.map
      | with_reducible apply ih
      | with_reducible apply writeByte_canonical
      | with_reducible apply writeByte_canonical
      | extract_lets
      | (simp only [↓State.canonical_mk]; with_reducible apply Good.of)
      | split
      | (with_reducible intro _)
      | dsimp only
      | dsimp +zetaDelta only

theorem emit_canonical (o : Out) {s : State} (hs : State.canonical s) :
    State.canonical (emit o s) := by
  unfold emit
  repeat' first
    | with_reducible assumption
    | with_reducible apply Leads.next
    | with_reducible exact Leads.fault _
    | with_reducible apply OptLeads.some
    | with_reducible exact OptLeads.none
    | with_reducible apply OptLeads.map
    | extract_lets
    | (simp only [↓State.canonical_mk]; with_reducible apply Good.of)
    | split
    | (with_reducible intro _)
    | dsimp only
    | dsimp +zetaDelta only

theorem passStream_canonical (kind : MirKind) {s : State} (hs : State.canonical s) :
    State.canonical (passStream kind s) := by
  unfold passStream
  repeat' first
    | with_reducible assumption
    | with_reducible apply Leads.next
    | with_reducible exact Leads.fault _
    | with_reducible apply OptLeads.some
    | with_reducible exact OptLeads.none
    | with_reducible apply OptLeads.map
    | extract_lets
    | (simp only [↓State.canonical_mk]; with_reducible apply Good.of)
    | split
    | (with_reducible intro _)
    | dsimp only
    | dsimp +zetaDelta only

theorem sendMir_canonical (kind : MirKind) (args : List Nat) {s : State} (hs : State.canonical s) :
    State.canonical (sendMir kind args s) := by
  unfold sendMir
  repeat' first
    | with_reducible assumption
    | with_reducible apply Leads.next
    | with_reducible exact Leads.fault _
    | with_reducible apply OptLeads.some
    | with_reducible exact OptLeads.none
    | with_reducible apply OptLeads.map
    | with_reducible apply passStream_canonical
    | with_reducible apply emit_canonical
    | with_reducible apply bump_canonical
    | extract_lets
    | (simp only [↓State.canonical_mk]; with_reducible apply Good.of)
    | split
    | (with_reducible intro _)
    | dsimp only
    | dsimp +zetaDelta only

theorem useFrees_canonical (n : Nat) {s : State} (hs : State.canonical s) :
    State.canonical (useFrees n s) := by
  unfold useFrees
  repeat' first
    | with_reducible assumption
    | with_reducible apply Leads.next
    | with_reducible exact Leads.fault _
    | with_reducible apply OptLeads.some
    | with_reducible exact OptLeads.none
    | with_reducible apply OptLeads.map
    | extract_lets
    | (simp only [↓State.canonical_mk]; with_reducible apply Good.of)
    | split
    | (with_reducible intro _)
    | dsimp only
    | dsimp +zetaDelta only

theorem useFree_canonical {s : State} (hs : State.canonical s) :
    State.canonical (useFree s) := by
  unfold useFree
  repeat' first
    | with_reducible assumption
    | with_reducible apply Leads.next
    | with_reducible exact Leads.fault _
    | with_reducible apply OptLeads.some
    | with_reducible exact OptLeads.none
    | with_reducible apply OptLeads.map
    | with_reducible apply useFrees_canonical
    | extract_lets
    | (simp only [↓State.canonical_mk]; with_reducible apply Good.of)
    | split
    | (with_reducible intro _)
    | dsimp only
    | dsimp +zetaDelta only

theorem logEvent_canonical (code array row : Nat) (detail : List Nat) {s : State} (hs : State.canonical s) :
    State.canonical (logEvent code array row detail s) := by
  unfold logEvent
  repeat' first
    | with_reducible assumption
    | with_reducible apply Leads.next
    | with_reducible exact Leads.fault _
    | with_reducible apply OptLeads.some
    | with_reducible exact OptLeads.none
    | with_reducible apply OptLeads.map
    | extract_lets
    | (simp only [↓State.canonical_mk]; with_reducible apply Good.of)
    | split
    | (with_reducible intro _)
    | dsimp only
    | dsimp +zetaDelta only

theorem logPlain_canonical (code : Nat) (detail : List Nat) {s : State} (hs : State.canonical s) :
    State.canonical (logPlain code detail s) := by
  unfold logPlain
  repeat' first
    | with_reducible assumption
    | with_reducible apply Leads.next
    | with_reducible exact Leads.fault _
    | with_reducible apply OptLeads.some
    | with_reducible exact OptLeads.none
    | with_reducible apply OptLeads.map
    | with_reducible apply logEvent_canonical
    | extract_lets
    | (simp only [↓State.canonical_mk]; with_reducible apply Good.of)
    | split
    | (with_reducible intro _)
    | dsimp only
    | dsimp +zetaDelta only

theorem enterMode_canonical (m : Nat) {s : State} (hs : State.canonical s) :
    State.canonical (enterMode m s) := by
  unfold enterMode
  repeat' first
    | with_reducible assumption
    | with_reducible apply Leads.next
    | with_reducible exact Leads.fault _
    | with_reducible apply OptLeads.some
    | with_reducible exact OptLeads.none
    | with_reducible apply OptLeads.map
    | with_reducible apply logPlain_canonical
    | with_reducible apply emit_canonical
    | with_reducible apply when_canonical
    | with_reducible apply setF_canonical
    | with_reducible apply setF_canonical
    | with_reducible apply when_canonical
    | extract_lets
    | (simp only [↓State.canonical_mk]; with_reducible apply Good.of)
    | split
    | (with_reducible intro _)
    | dsimp only
    | dsimp +zetaDelta only

theorem loopAtOnce_canonical {s : State} (hs : State.canonical s) :
    State.canonical (loopAtOnce s) := by
  unfold loopAtOnce
  repeat' first
    | with_reducible assumption
    | with_reducible apply Leads.next
    | with_reducible exact Leads.fault _
    | with_reducible apply OptLeads.some
    | with_reducible exact OptLeads.none
    | with_reducible apply OptLeads.map
    | extract_lets
    | (simp only [↓State.canonical_mk]; with_reducible apply Good.of)
    | split
    | (with_reducible intro _)
    | dsimp only
    | dsimp +zetaDelta only

theorem lightFault_canonical {s : State} (hs : State.canonical s) :
    State.canonical (lightFault s) := by
  unfold lightFault
  repeat' first
    | with_reducible assumption
    | with_reducible apply Leads.next
    | with_reducible exact Leads.fault _
    | with_reducible apply OptLeads.some
    | with_reducible exact OptLeads.none
    | with_reducible apply OptLeads.map
    | extract_lets
    | (simp only [↓State.canonical_mk]; with_reducible apply Good.of)
    | split
    | (with_reducible intro _)
    | dsimp only
    | dsimp +zetaDelta only

theorem ignored_canonical (kind qid : Nat) {s : State} (hs : State.canonical s) :
    State.canonical (ignored kind qid s) := by
  unfold ignored
  repeat' first
    | with_reducible assumption
    | with_reducible apply Leads.next
    | with_reducible exact Leads.fault _
    | with_reducible apply OptLeads.some
    | with_reducible exact OptLeads.none
    | with_reducible apply OptLeads.map
    | with_reducible apply event_canonical
    | with_reducible apply setF_canonical
    | with_reducible apply setF_canonical
    | extract_lets
    | (simp only [↓State.canonical_mk]; with_reducible apply Good.of)
    | split
    | (with_reducible intro _)
    | dsimp only
    | dsimp +zetaDelta only

theorem ungate_canonical (i : Island) {s : State} (hs : State.canonical s) :
    State.canonical (ungate i s) := by
  unfold ungate
  repeat' first
    | with_reducible assumption
    | with_reducible apply Leads.next
    | with_reducible exact Leads.fault _
    | with_reducible apply OptLeads.some
    | with_reducible exact OptLeads.none
    | with_reducible apply OptLeads.map
    | extract_lets
    | (simp only [↓State.canonical_mk]; with_reducible apply Good.of)
    | split
    | (with_reducible intro _)
    | dsimp only
    | dsimp +zetaDelta only

theorem retiredAccess_canonical {s : State} (hs : State.canonical s) :
    State.canonical (retiredAccess s) := by
  unfold retiredAccess
  repeat' first
    | with_reducible assumption
    | with_reducible apply Leads.next
    | with_reducible exact Leads.fault _
    | with_reducible apply OptLeads.some
    | with_reducible exact OptLeads.none
    | with_reducible apply OptLeads.map
    | with_reducible apply event_canonical
    | extract_lets
    | (simp only [↓State.canonical_mk]; with_reducible apply Good.of)
    | split
    | (with_reducible intro _)
    | dsimp only
    | dsimp +zetaDelta only

theorem land_canonical (off : Nat) (c : Instr) (k : State → State) {s : State} (hk : ∀ (x0 : State), State.canonical x0 → State.canonical (k x0)) (hs : State.canonical s) :
    Leads State.canonical (land off c k s) := by
  unfold land
  repeat' first
    | with_reducible assumption
    | with_reducible apply Leads.next
    | with_reducible exact Leads.fault _
    | with_reducible apply OptLeads.some
    | with_reducible exact OptLeads.none
    | with_reducible apply OptLeads.map
    | with_reducible apply hk
    | with_reducible apply retiredAccess_canonical
    | with_reducible apply ungate_canonical
    | extract_lets
    | (simp only [↓State.canonical_mk]; with_reducible apply Good.of)
    | split
    | (with_reducible intro _)
    | dsimp only
    | dsimp +zetaDelta only

theorem onSlot_canonical (n : Nat) (f : SlotRec → SlotRec) {s : State} (hs : State.canonical s) :
    State.canonical (onSlot n f s) := by
  unfold onSlot
  repeat' first
    | with_reducible assumption
    | with_reducible apply Leads.next
    | with_reducible exact Leads.fault _
    | with_reducible apply OptLeads.some
    | with_reducible exact OptLeads.none
    | with_reducible apply OptLeads.map
    | extract_lets
    | (simp only [↓State.canonical_mk]; with_reducible apply Good.of)
    | split
    | (with_reducible intro _)
    | dsimp only
    | dsimp +zetaDelta only

end Sys2Proof.Machine
end

