-- ==== Sys2Proof/Laws/CanonEntries.lean ====
section
/-! SUPPORT. The canonical form is kept by the operations of Machine/Entries.lean. -/

set_option linter.all false

namespace Sys2Proof.Machine

theorem landEntry_canonical (i : Nat) (b : List Nat) {s : State} (hs : State.canonical s) :
    State.canonical (landEntry i b s) := by
  unfold landEntry
  repeat' first
    | with_reducible assumption
    | with_reducible apply Leads.next
    | with_reducible exact Leads.fault _
    | with_reducible apply OptLeads.some
    | with_reducible exact OptLeads.none
    | with_reducible apply OptLeads.map
    | with_reducible apply sendMir_canonical
    | with_reducible apply writeBytes_canonical
    | with_reducible apply when_canonical
    | with_reducible apply when_canonical
    | extract_lets
    | (simp only [↓State.canonical_mk]; with_reducible apply Good.of)
    | split
    | (with_reducible intro _)
    | dsimp only
    | dsimp +zetaDelta only

theorem noteSeq_canonical (q : Nat) {s : State} (hs : State.canonical s) :
    State.canonical (noteSeq q s) := by
  unfold noteSeq
  repeat' first
    | with_reducible assumption
    | with_reducible apply Leads.next
    | with_reducible exact Leads.fault _
    | with_reducible apply OptLeads.some
    | with_reducible exact OptLeads.none
    | with_reducible apply OptLeads.map
    | extract_lets
    | (simp only [↓State.canonical_mk]; with_reducible apply Good.of)
    | split
    | (with_reducible intro _)
    | dsimp only
    | dsimp +zetaDelta only

theorem putIntent_canonical (i : Nat) (t : Intent) {s : State} (hs : State.canonical s) :
    State.canonical (putIntent i t s) := by
  unfold putIntent
  repeat' first
    | with_reducible assumption
    | with_reducible apply Leads.next
    | with_reducible exact Leads.fault _
    | with_reducible apply OptLeads.some
    | with_reducible exact OptLeads.none
    | with_reducible apply OptLeads.map
    | with_reducible apply noteSeq_canonical
    | with_reducible apply landEntry_canonical
    | with_reducible apply forEach_canonical
    | with_reducible apply forEach_canonical
    | extract_lets
    | (simp only [↓State.canonical_mk]; with_reducible apply Good.of)
    | split
    | (with_reducible intro _)
    | dsimp only
    | dsimp +zetaDelta only

theorem putHead_canonical (i : Nat) (t : Intent) {s : State} (hs : State.canonical s) :
    State.canonical (putHead i t s) := by
  unfold putHead
  repeat' first
    | with_reducible assumption
    | with_reducible apply Leads.next
    | with_reducible exact Leads.fault _
    | with_reducible apply OptLeads.some
    | with_reducible exact OptLeads.none
    | with_reducible apply OptLeads.map
    | with_reducible apply landEntry_canonical
    | extract_lets
    | (simp only [↓State.canonical_mk]; with_reducible apply Good.of)
    | split
    | (with_reducible intro _)
    | dsimp only
    | dsimp +zetaDelta only

theorem clearEntry_canonical (i : Nat) {s : State} (hs : State.canonical s) :
    State.canonical (clearEntry i s) := by
  unfold clearEntry
  repeat' first
    | with_reducible assumption
    | with_reducible apply Leads.next
    | with_reducible exact Leads.fault _
    | with_reducible apply OptLeads.some
    | with_reducible exact OptLeads.none
    | with_reducible apply OptLeads.map
    | with_reducible apply landEntry_canonical
    | extract_lets
    | (simp only [↓State.canonical_mk]; with_reducible apply Good.of)
    | split
    | (with_reducible intro _)
    | dsimp only
    | dsimp +zetaDelta only

theorem readEntry_canonical (i : Nat) {s : State} (hs : State.canonical s) :
    State.canonical (readEntry i s) := by
  unfold readEntry
  repeat' first
    | with_reducible assumption
    | with_reducible apply Leads.next
    | with_reducible exact Leads.fault _
    | with_reducible apply OptLeads.some
    | with_reducible exact OptLeads.none
    | with_reducible apply OptLeads.map
    | with_reducible apply noteSeq_canonical
    | extract_lets
    | (simp only [↓State.canonical_mk]; with_reducible apply Good.of)
    | split
    | (with_reducible intro _)
    | dsimp only
    | dsimp +zetaDelta only

theorem entryWritten_canonical (i : Nat) {s : State} (hs : State.canonical s) :
    State.canonical (entryWritten i s) := by
  unfold entryWritten
  repeat' first
    | with_reducible assumption
    | with_reducible apply Leads.next
    | with_reducible exact Leads.fault _
    | with_reducible apply OptLeads.some
    | with_reducible exact OptLeads.none
    | with_reducible apply OptLeads.map
    | with_reducible apply readEntry_canonical
    | with_reducible apply sendMir_canonical
    | with_reducible apply when_canonical
    | with_reducible apply bump_canonical
    | with_reducible apply when_canonical
    | extract_lets
    | (simp only [↓State.canonical_mk]; with_reducible apply Good.of)
    | split
    | (with_reducible intro _)
    | dsimp only
    | dsimp +zetaDelta only

theorem storeBytes_canonical (a : Nat) (bytes : List Nat) {s : State} (hs : State.canonical s) :
    State.canonical (storeBytes a bytes s) := by
  unfold storeBytes
  repeat' first
    | with_reducible assumption
    | with_reducible apply Leads.next
    | with_reducible exact Leads.fault _
    | with_reducible apply OptLeads.some
    | with_reducible exact OptLeads.none
    | with_reducible apply OptLeads.map
    | with_reducible apply entryWritten_canonical
    | with_reducible apply writeBytes_canonical
    | with_reducible apply forEach_canonical
    | with_reducible apply forEach_canonical
    | extract_lets
    | (simp only [↓State.canonical_mk]; with_reducible apply Good.of)
    | split
    | (with_reducible intro _)
    | dsimp only
    | dsimp +zetaDelta only

end Sys2Proof.Machine
end

