-- ==== Sys2Proof/Laws/CanonQueues.lean ====
section
/-! SUPPORT. The canonical form is kept by the operations of Machine/Queues.lean. -/

set_option linter.all false

namespace Sys2Proof.Machine

theorem postHost_canonical (a : Nat) (bytes : List Nat) {s : State} (hs : State.canonical s) :
    State.canonical (postHost a bytes s) := by
  unfold postHost
  repeat' first
    | with_reducible assumption
    | with_reducible apply Leads.next
    | with_reducible exact Leads.fault _
    | with_reducible apply OptLeads.some
    | with_reducible exact OptLeads.none
    | with_reducible apply OptLeads.map
    | with_reducible apply emit_canonical
    | with_reducible apply forEach_canonical
    | with_reducible apply forEach_canonical
    | extract_lets
    | (simp only [↓State.canonical_mk]; with_reducible apply Good.of)
    | split
    | (with_reducible intro _)
    | dsimp only
    | dsimp +zetaDelta only

theorem readHost_canonical (a n : Nat) {s : State} (hs : State.canonical s) :
    State.canonical (readHost a n s) := by
  unfold readHost
  repeat' first
    | with_reducible assumption
    | with_reducible apply Leads.next
    | with_reducible exact Leads.fault _
    | with_reducible apply OptLeads.some
    | with_reducible exact OptLeads.none
    | with_reducible apply OptLeads.map
    | with_reducible apply emit_canonical
    | with_reducible apply forEach_canonical
    | with_reducible apply forEach_canonical
    | extract_lets
    | (simp only [↓State.canonical_mk]; with_reducible apply Good.of)
    | split
    | (with_reducible intro _)
    | dsimp only
    | dsimp +zetaDelta only

theorem sendMsix_canonical (v : Nat) {s : State} (hs : State.canonical s) :
    State.canonical (sendMsix v s) := by
  unfold sendMsix
  repeat' first
    | with_reducible assumption
    | with_reducible apply Leads.next
    | with_reducible exact Leads.fault _
    | with_reducible apply OptLeads.some
    | with_reducible exact OptLeads.none
    | with_reducible apply OptLeads.map
    | with_reducible apply emit_canonical
    | with_reducible apply setF_canonical
    | with_reducible apply setF_canonical
    | extract_lets
    | (simp only [↓State.canonical_mk]; with_reducible apply Good.of)
    | split
    | (with_reducible intro _)
    | dsimp only
    | dsimp +zetaDelta only

theorem owe_canonical (q v : Nat) {s : State} (hs : State.canonical s) :
    State.canonical (owe q v s) := by
  unfold owe
  repeat' first
    | with_reducible assumption
    | with_reducible apply Leads.next
    | with_reducible exact Leads.fault _
    | with_reducible apply OptLeads.some
    | with_reducible exact OptLeads.none
    | with_reducible apply OptLeads.map
    | extract_lets
    | (simp only [↓State.canonical_mk]; with_reducible apply Good.of)
    | split
    | (with_reducible intro _)
    | dsimp only
    | dsimp +zetaDelta only

theorem sendVectors_canonical {s : State} (hs : State.canonical s) :
    State.canonical (sendVectors s) := by
  unfold sendVectors
  repeat' first
    | with_reducible assumption
    | with_reducible apply Leads.next
    | with_reducible exact Leads.fault _
    | with_reducible apply OptLeads.some
    | with_reducible exact OptLeads.none
    | with_reducible apply OptLeads.map
    | with_reducible apply sendMsix_canonical
    | with_reducible apply forEach_canonical
    | with_reducible apply forEach_canonical
    | extract_lets
    | (simp only [↓State.canonical_mk]; with_reducible apply Good.of)
    | split
    | (with_reducible intro _)
    | dsimp only
    | dsimp +zetaDelta only

theorem evalLine_canonical {s : State} (hs : State.canonical s) :
    State.canonical (evalLine s) := by
  unfold evalLine
  repeat' first
    | with_reducible assumption
    | with_reducible apply Leads.next
    | with_reducible exact Leads.fault _
    | with_reducible apply OptLeads.some
    | with_reducible exact OptLeads.none
    | with_reducible apply OptLeads.map
    | with_reducible apply sendMsix_canonical
    | with_reducible apply postHost_canonical
    | with_reducible apply emit_canonical
    | with_reducible apply when_canonical
    | with_reducible apply bump_canonical
    | with_reducible apply setF_canonical
    | with_reducible apply setF_canonical
    | with_reducible apply when_canonical
    | extract_lets
    | (simp only [↓State.canonical_mk]; with_reducible apply Good.of)
    | split
    | (with_reducible intro _)
    | dsimp only
    | dsimp +zetaDelta only

theorem hostEvent_canonical (v : Nat) {s : State} (hs : State.canonical s) :
    State.canonical (hostEvent v s) := by
  unfold hostEvent
  repeat' first
    | with_reducible assumption
    | with_reducible apply Leads.next
    | with_reducible exact Leads.fault _
    | with_reducible apply OptLeads.some
    | with_reducible exact OptLeads.none
    | with_reducible apply OptLeads.map
    | with_reducible apply evalLine_canonical
    | with_reducible apply owe_canonical
    | with_reducible apply sendMsix_canonical
    | with_reducible apply when_canonical
    | with_reducible apply event_canonical
    | with_reducible apply when_canonical
    | extract_lets
    | (simp only [↓State.canonical_mk]; with_reducible apply Good.of)
    | split
    | (with_reducible intro _)
    | dsimp only
    | dsimp +zetaDelta only

theorem announce_canonical (q : Nat) (irq : Nat) {s : State} (hs : State.canonical s) :
    State.canonical (announce q irq s) := by
  unfold announce
  repeat' first
    | with_reducible assumption
    | with_reducible apply Leads.next
    | with_reducible exact Leads.fault _
    | with_reducible apply OptLeads.some
    | with_reducible exact OptLeads.none
    | with_reducible apply OptLeads.map
    | with_reducible apply hostEvent_canonical
    | with_reducible apply evalLine_canonical
    | with_reducible apply owe_canonical
    | extract_lets
    | (simp only [↓State.canonical_mk]; with_reducible apply Good.of)
    | split
    | (with_reducible intro _)
    | dsimp only
    | dsimp +zetaDelta only

theorem onPair_canonical (q : Nat) (f : Pair → Pair) {s : State} (hs : State.canonical s) :
    State.canonical (onPair q f s) := by
  unfold onPair
  repeat' first
    | with_reducible assumption
    | with_reducible apply Leads.next
    | with_reducible exact Leads.fault _
    | with_reducible apply OptLeads.some
    | with_reducible exact OptLeads.none
    | with_reducible apply OptLeads.map
    | extract_lets
    | (simp only [↓State.canonical_mk]; with_reducible apply Good.of)
    | split
    | (with_reducible intro _)
    | dsimp only
    | dsimp +zetaDelta only

theorem writeEntry_canonical (p : Post) (pr : Pair) {s : State} (hs : State.canonical s) :
    State.canonical (writeEntry p pr s) := by
  unfold writeEntry
  repeat' first
    | with_reducible assumption
    | with_reducible apply Leads.next
    | with_reducible exact Leads.fault _
    | with_reducible apply OptLeads.some
    | with_reducible exact OptLeads.none
    | with_reducible apply OptLeads.map
    | with_reducible apply announce_canonical
    | with_reducible apply emit_canonical
    | with_reducible apply when_canonical
    | with_reducible apply bump_canonical
    | with_reducible apply when_canonical
    | extract_lets
    | (simp only [↓State.canonical_mk]; with_reducible apply Good.of)
    | split
    | (with_reducible intro _)
    | dsimp only
    | dsimp +zetaDelta only

theorem deliver_canonical (p : Post) {s : State} (hs : State.canonical s) :
    State.canonical (deliver p s) := by
  unfold deliver
  repeat' first
    | with_reducible assumption
    | with_reducible apply Leads.next
    | with_reducible exact Leads.fault _
    | with_reducible apply OptLeads.some
    | with_reducible exact OptLeads.none
    | with_reducible apply OptLeads.map
    | with_reducible apply writeEntry_canonical
    | with_reducible apply event_canonical
    | with_reducible apply setF_canonical
    | with_reducible apply setF_canonical
    | extract_lets
    | (simp only [↓State.canonical_mk]; with_reducible apply Good.of)
    | split
    | (with_reducible intro _)
    | dsimp only
    | dsimp +zetaDelta only

theorem onCmd_canonical (n : Nat) (f : Cmd → Cmd) {s : State} (hs : State.canonical s) :
    State.canonical (onCmd n f s) := by
  unfold onCmd
  repeat' first
    | with_reducible assumption
    | with_reducible apply Leads.next
    | with_reducible exact Leads.fault _
    | with_reducible apply OptLeads.some
    | with_reducible exact OptLeads.none
    | with_reducible apply OptLeads.map
    | extract_lets
    | (simp only [↓State.canonical_mk]; with_reducible apply Good.of)
    | split
    | (with_reducible intro _)
    | dsimp only
    | dsimp +zetaDelta only

theorem dropPieces_canonical (n : Nat) {s : State} (hs : State.canonical s) :
    State.canonical (dropPieces n s) := by
  unfold dropPieces
  repeat' first
    | with_reducible assumption
    | with_reducible apply Leads.next
    | with_reducible exact Leads.fault _
    | with_reducible apply OptLeads.some
    | with_reducible exact OptLeads.none
    | with_reducible apply OptLeads.map
    | extract_lets
    | (simp only [↓State.canonical_mk]; with_reducible apply Good.of)
    | split
    | (with_reducible intro _)
    | dsimp only
    | dsimp +zetaDelta only

theorem finish_canonical (n status result : Nat) {s : State} (hs : State.canonical s) :
    State.canonical (finish n status result s) := by
  unfold finish
  repeat' first
    | with_reducible assumption
    | with_reducible apply Leads.next
    | with_reducible exact Leads.fault _
    | with_reducible apply OptLeads.some
    | with_reducible exact OptLeads.none
    | with_reducible apply OptLeads.map
    | with_reducible apply deliver_canonical
    | extract_lets
    | (simp only [↓State.canonical_mk]; with_reducible apply Good.of)
    | split
    | (with_reducible intro _)
    | dsimp only
    | dsimp +zetaDelta only

theorem finishAll_canonical (l : List Nat) (status result : Nat) {s : State} (hs : State.canonical s) :
    State.canonical (finishAll l status result s) := by
  unfold finishAll
  repeat' first
    | with_reducible assumption
    | with_reducible apply Leads.next
    | with_reducible exact Leads.fault _
    | with_reducible apply OptLeads.some
    | with_reducible exact OptLeads.none
    | with_reducible apply OptLeads.map
    | with_reducible apply finish_canonical
    | with_reducible apply forEach_canonical
    | with_reducible apply forEach_canonical
    | extract_lets
    | (simp only [↓State.canonical_mk]; with_reducible apply Good.of)
    | split
    | (with_reducible intro _)
    | dsimp only
    | dsimp +zetaDelta only

theorem abortAll_canonical (l : List Nat) {s : State} (hs : State.canonical s) :
    State.canonical (abortAll l s) := by
  unfold abortAll
  repeat' first
    | with_reducible assumption
    | with_reducible apply Leads.next
    | with_reducible exact Leads.fault _
    | with_reducible apply OptLeads.some
    | with_reducible exact OptLeads.none
    | with_reducible apply OptLeads.map
    | with_reducible apply finishAll_canonical
    | with_reducible apply dropPieces_canonical
    | with_reducible apply forEach_canonical
    | with_reducible apply forEach_canonical
    | extract_lets
    | (simp only [↓State.canonical_mk]; with_reducible apply Good.of)
    | split
    | (with_reducible intro _)
    | dsimp only
    | dsimp +zetaDelta only

end Sys2Proof.Machine
end

