-- ==== Sys2Proof/Laws/CanonLevel.lean ====
section
/-! SUPPORT. The canonical form is kept by the operations of Machine/Level.lean. -/

set_option linter.all false

namespace Sys2Proof.Machine

theorem updateCeiling_canonical {s : State} (hs : State.canonical s) :
    State.canonical (updateCeiling s) := by
  unfold updateCeiling
  repeat' first
    | with_reducible assumption
    | with_reducible apply Leads.next
    | with_reducible exact Leads.fault _
    | with_reducible apply OptLeads.some
    | with_reducible exact OptLeads.none
    | with_reducible apply OptLeads.map
    | with_reducible apply sendMir_canonical
    | with_reducible apply when_canonical
    | with_reducible apply setF_canonical
    | with_reducible apply setF_canonical
    | with_reducible apply when_canonical
    | extract_lets
    | (simp only [↓State.canonical_mk]; with_reducible apply Good.of)
    | split
    | (with_reducible intro _)
    | dsimp only
    | dsimp +zetaDelta only

theorem setLevel_canonical (l : Nat) {s : State} (hs : State.canonical s) :
    State.canonical (setLevel l s) := by
  unfold setLevel
  repeat' first
    | with_reducible assumption
    | with_reducible apply Leads.next
    | with_reducible exact Leads.fault _
    | with_reducible apply OptLeads.some
    | with_reducible exact OptLeads.none
    | with_reducible apply OptLeads.map
    | with_reducible apply logPlain_canonical
    | with_reducible apply event_canonical
    | with_reducible apply setF_canonical
    | with_reducible apply setF_canonical
    | extract_lets
    | (simp only [↓State.canonical_mk]; with_reducible apply Good.of)
    | split
    | (with_reducible intro _)
    | dsimp only
    | dsimp +zetaDelta only

theorem expose_canonical {s : State} (hs : State.canonical s) :
    State.canonical (expose s) := by
  unfold expose
  repeat' first
    | with_reducible assumption
    | with_reducible apply Leads.next
    | with_reducible exact Leads.fault _
    | with_reducible apply OptLeads.some
    | with_reducible exact OptLeads.none
    | with_reducible apply OptLeads.map
    | with_reducible apply event_canonical
    | with_reducible apply setF_canonical
    | with_reducible apply setF_canonical
    | extract_lets
    | (simp only [↓State.canonical_mk]; with_reducible apply Good.of)
    | split
    | (with_reducible intro _)
    | dsimp only
    | dsimp +zetaDelta only

theorem unexpose_canonical {s : State} (hs : State.canonical s) :
    State.canonical (unexpose s) := by
  unfold unexpose
  repeat' first
    | with_reducible assumption
    | with_reducible apply Leads.next
    | with_reducible exact Leads.fault _
    | with_reducible apply OptLeads.some
    | with_reducible exact OptLeads.none
    | with_reducible apply OptLeads.map
    | with_reducible apply setF_canonical
    | with_reducible apply setF_canonical
    | extract_lets
    | (simp only [↓State.canonical_mk]; with_reducible apply Good.of)
    | split
    | (with_reducible intro _)
    | dsimp only
    | dsimp +zetaDelta only

theorem releaseHeld_canonical {s : State} (hs : State.canonical s) :
    State.canonical (releaseHeld s) := by
  unfold releaseHeld
  repeat' first
    | with_reducible assumption
    | with_reducible apply Leads.next
    | with_reducible exact Leads.fault _
    | with_reducible apply OptLeads.some
    | with_reducible exact OptLeads.none
    | with_reducible apply OptLeads.map
    | extract_lets
    | (simp only [↓State.canonical_mk]; with_reducible apply Good.of)
    | split
    | (with_reducible intro _)
    | dsimp only
    | dsimp +zetaDelta only

theorem reselect_canonical {s : State} (hs : State.canonical s) :
    State.canonical (reselect s) := by
  unfold reselect
  repeat' first
    | with_reducible assumption
    | with_reducible apply Leads.next
    | with_reducible exact Leads.fault _
    | with_reducible apply OptLeads.some
    | with_reducible exact OptLeads.none
    | with_reducible apply OptLeads.map
    | with_reducible apply releaseHeld_canonical
    | with_reducible apply expose_canonical
    | with_reducible apply setLevel_canonical
    | extract_lets
    | (simp only [↓State.canonical_mk]; with_reducible apply Good.of)
    | split
    | (with_reducible intro _)
    | dsimp only
    | dsimp +zetaDelta only

theorem reachWt_canonical {s : State} (hs : State.canonical s) :
    State.canonical (reachWt s) := by
  unfold reachWt
  repeat' first
    | with_reducible assumption
    | with_reducible apply Leads.next
    | with_reducible exact Leads.fault _
    | with_reducible apply OptLeads.some
    | with_reducible exact OptLeads.none
    | with_reducible apply OptLeads.map
    | with_reducible apply releaseHeld_canonical
    | with_reducible apply setLevel_canonical
    | with_reducible apply finishAll_canonical
    | extract_lets
    | (simp only [↓State.canonical_mk]; with_reducible apply Good.of)
    | split
    | (with_reducible intro _)
    | dsimp only
    | dsimp +zetaDelta only

theorem stagingStall_canonical {s : State} (hs : State.canonical s) :
    State.canonical (stagingStall s) := by
  unfold stagingStall
  repeat' first
    | with_reducible assumption
    | with_reducible apply Leads.next
    | with_reducible exact Leads.fault _
    | with_reducible apply OptLeads.some
    | with_reducible exact OptLeads.none
    | with_reducible apply OptLeads.map
    | with_reducible apply event_canonical
    | with_reducible apply setF_canonical
    | with_reducible apply setF_canonical
    | extract_lets
    | (simp only [↓State.canonical_mk]; with_reducible apply Good.of)
    | split
    | (with_reducible intro _)
    | dsimp only
    | dsimp +zetaDelta only

theorem writeStage_canonical (p : Nat) (l : List Nat) {s : State} (hs : State.canonical s) :
    State.canonical (writeStage p l s) := by
  induction l generalizing p s with
  | nil =>
    unfold writeStage
    repeat' first
      | with_reducible assumption
      | with_reducible apply Leads.next
      | with_reducible exact Leads.fault _
      | with_reducible apply OptLeads.some
      | with_reducible exact OptLeads.none
      | with_reducible apply OptLeads.map
      | with_reducible apply writeByte_canonical
      | with_reducible apply writeByte_canonical
      | extract_lets
      | (simp only [↓State.canonical_mk]; with_reducible apply Good.of)
      | split
      | (with_reducible intro _)
      | dsimp only
      | dsimp +zetaDelta only
  | cons x l ih =>
    unfold writeStage
    repeat' first
      | with_reducible assumption
      | with_reducible apply Leads.next
      | with_reducible exact Leads.fault _
      | with_reducible apply OptLeads.some
      | with_reducible exact OptLeads.none
      | with_reducible apply OptLeads.map
      | with_reducible apply ih
      | with_reducible apply writeByte_canonical
      | with_reducible apply writeByte_canonical
      | extract_lets
      | (simp only [↓State.canonical_mk]; with_reducible apply Good.of)
      | split
      | (with_reducible intro _)
      | dsimp only
      | dsimp +zetaDelta only

theorem writeRecord_canonical (vol lba : Nat) (keys : List Nat) (blocks : List Block) {s : State} (hs : State.canonical s) :
    State.canonical (writeRecord vol lba keys blocks s) := by
  unfold writeRecord
  repeat' first
    | with_reducible assumption
    | with_reducible apply Leads.next
    | with_reducible exact Leads.fault _
    | with_reducible apply OptLeads.some
    | with_reducible exact OptLeads.none
    | with_reducible apply OptLeads.map
    | with_reducible apply writeStage_canonical
    | extract_lets
    | (simp only [↓State.canonical_mk]; with_reducible apply Good.of)
    | split
    | (with_reducible intro _)
    | dsimp only
    | dsimp +zetaDelta only

theorem stage_canonical (vol lba : Nat) (blocks : List Block) (fails : Nat) {s : State} (hs : State.canonical s) :
    State.canonical (stage vol lba blocks fails s) := by
  unfold stage
  repeat' first
    | with_reducible assumption
    | with_reducible apply Leads.next
    | with_reducible exact Leads.fault _
    | with_reducible apply OptLeads.some
    | with_reducible exact OptLeads.none
    | with_reducible apply OptLeads.map
    | with_reducible apply writeRecord_canonical
    | with_reducible apply forEach_canonical
    | with_reducible apply event_canonical
    | with_reducible apply forEach_canonical
    | extract_lets
    | (simp only [↓State.canonical_mk]; with_reducible apply Good.of)
    | split
    | (with_reducible intro _)
    | dsimp only
    | dsimp +zetaDelta only

theorem unstage_canonical (keys : List Nat) {s : State} (hs : State.canonical s) :
    State.canonical (unstage keys s) := by
  unfold unstage
  repeat' first
    | with_reducible assumption
    | with_reducible apply Leads.next
    | with_reducible exact Leads.fault _
    | with_reducible apply OptLeads.some
    | with_reducible exact OptLeads.none
    | with_reducible apply OptLeads.map
    | with_reducible apply when_canonical
    | with_reducible apply setF_canonical
    | with_reducible apply setF_canonical
    | with_reducible apply when_canonical
    | extract_lets
    | (simp only [↓State.canonical_mk]; with_reducible apply Good.of)
    | split
    | (with_reducible intro _)
    | dsimp only
    | dsimp +zetaDelta only

theorem acknowledge_canonical (f : Flight) {s : State} (hs : State.canonical s) :
    State.canonical (acknowledge f s) := by
  unfold acknowledge
  repeat' first
    | with_reducible assumption
    | with_reducible apply Leads.next
    | with_reducible exact Leads.fault _
    | with_reducible apply OptLeads.some
    | with_reducible exact OptLeads.none
    | with_reducible apply OptLeads.map
    | with_reducible apply finish_canonical
    | extract_lets
    | (simp only [↓State.canonical_mk]; with_reducible apply Good.of)
    | split
    | (with_reducible intro _)
    | dsimp only
    | dsimp +zetaDelta only

theorem stageFlight_canonical (f : Flight) {s : State} (hs : State.canonical s) :
    State.canonical (stageFlight f s) := by
  unfold stageFlight
  repeat' first
    | with_reducible assumption
    | with_reducible apply Leads.next
    | with_reducible exact Leads.fault _
    | with_reducible apply OptLeads.some
    | with_reducible exact OptLeads.none
    | with_reducible apply OptLeads.map
    | with_reducible apply acknowledge_canonical
    | with_reducible apply stage_canonical
    | with_reducible apply stagingStall_canonical
    | with_reducible apply forEach_canonical
    | with_reducible apply forEach_canonical
    | extract_lets
    | (simp only [↓State.canonical_mk]; with_reducible apply Good.of)
    | split
    | (with_reducible intro _)
    | dsimp only
    | dsimp +zetaDelta only

theorem stageWaiting_canonical {s : State} (hs : State.canonical s) :
    State.canonical (stageWaiting s) := by
  unfold stageWaiting
  repeat' first
    | with_reducible assumption
    | with_reducible apply Leads.next
    | with_reducible exact Leads.fault _
    | with_reducible apply OptLeads.some
    | with_reducible exact OptLeads.none
    | with_reducible apply OptLeads.map
    | with_reducible apply stageFlight_canonical
    | with_reducible apply forEach_canonical
    | with_reducible apply forEach_canonical
    | extract_lets
    | (simp only [↓State.canonical_mk]; with_reducible apply Good.of)
    | split
    | (with_reducible intro _)
    | dsimp only
    | dsimp +zetaDelta only

theorem settleWaiting_canonical {s : State} (hs : State.canonical s) :
    State.canonical (settleWaiting s) := by
  unfold settleWaiting
  repeat' first
    | with_reducible assumption
    | with_reducible apply Leads.next
    | with_reducible exact Leads.fault _
    | with_reducible apply OptLeads.some
    | with_reducible exact OptLeads.none
    | with_reducible apply OptLeads.map
    | with_reducible apply stageWaiting_canonical
    | with_reducible apply acknowledge_canonical
    | with_reducible apply unexpose_canonical
    | with_reducible apply onCmd_canonical
    | with_reducible apply forEach_canonical
    | with_reducible apply forEach_canonical
    | extract_lets
    | (simp only [↓State.canonical_mk]; with_reducible apply Good.of)
    | split
    | (with_reducible intro _)
    | dsimp only
    | dsimp +zetaDelta only

theorem setPackHealthy_canonical (b : Bool) {s : State} (hs : State.canonical s) :
    State.canonical (setPackHealthy b s) := by
  unfold setPackHealthy
  repeat' first
    | with_reducible assumption
    | with_reducible apply Leads.next
    | with_reducible exact Leads.fault _
    | with_reducible apply OptLeads.some
    | with_reducible exact OptLeads.none
    | with_reducible apply OptLeads.map
    | with_reducible apply reselect_canonical
    | with_reducible apply setF_canonical
    | with_reducible apply setF_canonical
    | extract_lets
    | (simp only [↓State.canonical_mk]; with_reducible apply Good.of)
    | split
    | (with_reducible intro _)
    | dsimp only
    | dsimp +zetaDelta only

theorem setPartnerLive_canonical (b : Bool) {s : State} (hs : State.canonical s) :
    State.canonical (setPartnerLive b s) := by
  unfold setPartnerLive
  repeat' first
    | with_reducible assumption
    | with_reducible apply Leads.next
    | with_reducible exact Leads.fault _
    | with_reducible apply OptLeads.some
    | with_reducible exact OptLeads.none
    | with_reducible apply OptLeads.map
    | with_reducible apply settleWaiting_canonical
    | with_reducible apply reselect_canonical
    | with_reducible apply loopAtOnce_canonical
    | with_reducible apply setF_canonical
    | with_reducible apply setF_canonical
    | extract_lets
    | (simp only [↓State.canonical_mk]; with_reducible apply Good.of)
    | split
    | (with_reducible intro _)
    | dsimp only
    | dsimp +zetaDelta only

theorem showPartnerLive_canonical (b : Bool) {s : State} (hs : State.canonical s) :
    State.canonical (showPartnerLive b s) := by
  unfold showPartnerLive
  repeat' first
    | with_reducible assumption
    | with_reducible apply Leads.next
    | with_reducible exact Leads.fault _
    | with_reducible apply OptLeads.some
    | with_reducible exact OptLeads.none
    | with_reducible apply OptLeads.map
    | with_reducible apply setPartnerLive_canonical
    | with_reducible apply updateCeiling_canonical
    | extract_lets
    | (simp only [↓State.canonical_mk]; with_reducible apply Good.of)
    | split
    | (with_reducible intro _)
    | dsimp only
    | dsimp +zetaDelta only

theorem packChange_canonical (kind : Nat) {s : State} (hs : State.canonical s) :
    State.canonical (packChange kind s) := by
  unfold packChange
  repeat' first
    | with_reducible assumption
    | with_reducible apply Leads.next
    | with_reducible exact Leads.fault _
    | with_reducible apply OptLeads.some
    | with_reducible exact OptLeads.none
    | with_reducible apply OptLeads.map
    | with_reducible apply hostEvent_canonical
    | with_reducible apply logPlain_canonical
    | extract_lets
    | (simp only [↓State.canonical_mk]; with_reducible apply Good.of)
    | split
    | (with_reducible intro _)
    | dsimp only
    | dsimp +zetaDelta only

theorem writeHealth_canonical {s : State} (hs : State.canonical s) :
    State.canonical (writeHealth s) := by
  unfold writeHealth
  repeat' first
    | with_reducible assumption
    | with_reducible apply Leads.next
    | with_reducible exact Leads.fault _
    | with_reducible apply OptLeads.some
    | with_reducible exact OptLeads.none
    | with_reducible apply OptLeads.map
    | with_reducible apply packChange_canonical
    | with_reducible apply setPackHealthy_canonical
    | with_reducible apply updateCeiling_canonical
    | extract_lets
    | (simp only [↓State.canonical_mk]; with_reducible apply Good.of)
    | split
    | (with_reducible intro _)
    | dsimp only
    | dsimp +zetaDelta only

end Sys2Proof.Machine
end

