-- ==== Sys2Proof/Laws/CanonFanOps.lean ====
section
/-! SUPPORT. The canonical form is kept by the operations of Machine/FanOps.lean. -/

set_option linter.all false

namespace Sys2Proof.Machine

theorem onFanChan_canonical (c : Nat) (f : FanChan → FanChan) {s : State} (hs : State.canonical s) :
    State.canonical (onFanChan c f s) := by
  unfold onFanChan
  repeat' first
    | with_reducible assumption
    | with_reducible apply Leads.next
    | with_reducible exact Leads.fault _
    | with_reducible apply OptLeads.some
    | with_reducible exact OptLeads.none
    | with_reducible apply OptLeads.map
    | extract_lets
    | (simp only [↓State.canonical_mk]; with_reducible apply Good.of)
    | split
    | (with_reducible intro _)
    | dsimp only
    | dsimp +zetaDelta only

theorem setFanState_canonical (c st : Nat) {s : State} (hs : State.canonical s) :
    State.canonical (setFanState c st s) := by
  unfold setFanState
  repeat' first
    | with_reducible assumption
    | with_reducible apply Leads.next
    | with_reducible exact Leads.fault _
    | with_reducible apply OptLeads.some
    | with_reducible exact OptLeads.none
    | with_reducible apply OptLeads.map
    | with_reducible apply setF_canonical
    | with_reducible apply setF_canonical
    | extract_lets
    | (simp only [↓State.canonical_mk]; with_reducible apply Good.of)
    | split
    | (with_reducible intro _)
    | dsimp only
    | dsimp +zetaDelta only

theorem setRpm_canonical (c : Nat) (rpm : Int) {s : State} (hs : State.canonical s) :
    State.canonical (setRpm c rpm s) := by
  unfold setRpm
  repeat' first
    | with_reducible assumption
    | with_reducible apply Leads.next
    | with_reducible exact Leads.fault _
    | with_reducible apply OptLeads.some
    | with_reducible exact OptLeads.none
    | with_reducible apply OptLeads.map
    | with_reducible apply setF_canonical
    | with_reducible apply setF_canonical
    | extract_lets
    | (simp only [↓State.canonical_mk]; with_reducible apply Good.of)
    | split
    | (with_reducible intro _)
    | dsimp only
    | dsimp +zetaDelta only

theorem observe_canonical (c : Nat) (x : FocSample) {s : State} (hs : State.canonical s) :
    State.canonical (observe c x s) := by
  unfold observe
  repeat' first
    | with_reducible assumption
    | with_reducible apply Leads.next
    | with_reducible exact Leads.fault _
    | with_reducible apply OptLeads.some
    | with_reducible exact OptLeads.none
    | with_reducible apply OptLeads.map
    | with_reducible apply onFanChan_canonical
    | extract_lets
    | (simp only [↓State.canonical_mk]; with_reducible apply Good.of)
    | split
    | (with_reducible intro _)
    | dsimp only
    | dsimp +zetaDelta only

theorem raiseDemand_canonical (c : Nat) {s : State} (hs : State.canonical s) :
    State.canonical (raiseDemand c s) := by
  unfold raiseDemand
  repeat' first
    | with_reducible assumption
    | with_reducible apply Leads.next
    | with_reducible exact Leads.fault _
    | with_reducible apply OptLeads.some
    | with_reducible exact OptLeads.none
    | with_reducible apply OptLeads.map
    | with_reducible apply loopAtOnce_canonical
    | with_reducible apply when_canonical
    | with_reducible apply setF_canonical
    | with_reducible apply setF_canonical
    | with_reducible apply when_canonical
    | extract_lets
    | (simp only [↓State.canonical_mk]; with_reducible apply Good.of)
    | split
    | (with_reducible intro _)
    | dsimp only
    | dsimp +zetaDelta only

theorem fanStart_canonical (c : Nat) {s : State} (hs : State.canonical s) :
    State.canonical (fanStart c s) := by
  unfold fanStart
  repeat' first
    | with_reducible assumption
    | with_reducible apply Leads.next
    | with_reducible exact Leads.fault _
    | with_reducible apply OptLeads.some
    | with_reducible exact OptLeads.none
    | with_reducible apply OptLeads.map
    | with_reducible apply raiseDemand_canonical
    | with_reducible apply setFanState_canonical
    | with_reducible apply onFanChan_canonical
    | with_reducible apply setF_canonical
    | with_reducible apply setF_canonical
    | extract_lets
    | (simp only [↓State.canonical_mk]; with_reducible apply Good.of)
    | split
    | (with_reducible intro _)
    | dsimp only
    | dsimp +zetaDelta only

theorem fanSettle_canonical (c : Nat) {s : State} (hs : State.canonical s) :
    State.canonical (fanSettle c s) := by
  unfold fanSettle
  repeat' first
    | with_reducible assumption
    | with_reducible apply Leads.next
    | with_reducible exact Leads.fault _
    | with_reducible apply OptLeads.some
    | with_reducible exact OptLeads.none
    | with_reducible apply OptLeads.map
    | with_reducible apply fanStart_canonical
    | with_reducible apply setFanState_canonical
    | with_reducible apply onFanChan_canonical
    | extract_lets
    | (simp only [↓State.canonical_mk]; with_reducible apply Good.of)
    | split
    | (with_reducible intro _)
    | dsimp only
    | dsimp +zetaDelta only

theorem fanSettleAll_canonical {s : State} (hs : State.canonical s) :
    State.canonical (fanSettleAll s) := by
  unfold fanSettleAll
  repeat' first
    | with_reducible assumption
    | with_reducible apply Leads.next
    | with_reducible exact Leads.fault _
    | with_reducible apply OptLeads.some
    | with_reducible exact OptLeads.none
    | with_reducible apply OptLeads.map
    | with_reducible apply fanSettle_canonical
    | with_reducible apply forEach_canonical
    | with_reducible apply forEach_canonical
    | extract_lets
    | (simp only [↓State.canonical_mk]; with_reducible apply Good.of)
    | split
    | (with_reducible intro _)
    | dsimp only
    | dsimp +zetaDelta only

theorem fanGain_canonical {s : State} (hs : State.canonical s) :
    State.canonical (fanGain s) := by
  unfold fanGain
  repeat' first
    | with_reducible assumption
    | with_reducible apply Leads.next
    | with_reducible exact Leads.fault _
    | with_reducible apply OptLeads.some
    | with_reducible exact OptLeads.none
    | with_reducible apply OptLeads.map
    | with_reducible apply fanSettle_canonical
    | with_reducible apply raiseDemand_canonical
    | with_reducible apply setFanState_canonical
    | with_reducible apply forEach_canonical
    | with_reducible apply event_canonical
    | with_reducible apply setF_canonical
    | with_reducible apply setF_canonical
    | with_reducible apply forEach_canonical
    | extract_lets
    | (simp only [↓State.canonical_mk]; with_reducible apply Good.of)
    | split
    | (with_reducible intro _)
    | dsimp only
    | dsimp +zetaDelta only

theorem fanRelease_canonical {s : State} (hs : State.canonical s) :
    State.canonical (fanRelease s) := by
  unfold fanRelease
  repeat' first
    | with_reducible assumption
    | with_reducible apply Leads.next
    | with_reducible exact Leads.fault _
    | with_reducible apply OptLeads.some
    | with_reducible exact OptLeads.none
    | with_reducible apply OptLeads.map
    | with_reducible apply fanSettleAll_canonical
    | with_reducible apply event_canonical
    | with_reducible apply setF_canonical
    | with_reducible apply setF_canonical
    | extract_lets
    | (simp only [↓State.canonical_mk]; with_reducible apply Good.of)
    | split
    | (with_reducible intro _)
    | dsimp only
    | dsimp +zetaDelta only

theorem noteCaught_canonical {s : State} (hs : State.canonical s) :
    State.canonical (noteCaught s) := by
  unfold noteCaught
  repeat' first
    | with_reducible assumption
    | with_reducible apply Leads.next
    | with_reducible exact Leads.fault _
    | with_reducible apply OptLeads.some
    | with_reducible exact OptLeads.none
    | with_reducible apply OptLeads.map
    | extract_lets
    | (simp only [↓State.canonical_mk]; with_reducible apply Good.of)
    | split
    | (with_reducible intro _)
    | dsimp only
    | dsimp +zetaDelta only

theorem demandMoved_canonical {before : State} {s : State} (hbefore : State.canonical before) (hs : State.canonical s) :
    State.canonical (demandMoved before s) := by
  unfold demandMoved
  repeat' first
    | with_reducible assumption
    | with_reducible apply Leads.next
    | with_reducible exact Leads.fault _
    | with_reducible apply OptLeads.some
    | with_reducible exact OptLeads.none
    | with_reducible apply OptLeads.map
    | with_reducible apply loopAtOnce_canonical
    | with_reducible apply when_canonical
    | with_reducible apply when_canonical
    | extract_lets
    | (simp only [↓State.canonical_mk]; with_reducible apply Good.of)
    | split
    | (with_reducible intro _)
    | dsimp only
    | dsimp +zetaDelta only

theorem fanFault_canonical (c cause : Nat) {s : State} (hs : State.canonical s) :
    State.canonical (fanFault c cause s) := by
  unfold fanFault
  repeat' first
    | with_reducible assumption
    | with_reducible apply Leads.next
    | with_reducible exact Leads.fault _
    | with_reducible apply OptLeads.some
    | with_reducible exact OptLeads.none
    | with_reducible apply OptLeads.map
    | with_reducible apply demandMoved_canonical
    | with_reducible apply noteCaught_canonical
    | with_reducible apply setFanState_canonical
    | with_reducible apply onFanChan_canonical
    | with_reducible apply hostEvent_canonical
    | with_reducible apply lightFault_canonical
    | with_reducible apply when_canonical
    | with_reducible apply event_canonical
    | with_reducible apply setF_canonical
    | with_reducible apply setF_canonical
    | with_reducible apply when_canonical
    | extract_lets
    | (simp only [↓State.canonical_mk]; with_reducible apply Good.of)
    | split
    | (with_reducible intro _)
    | dsimp only
    | dsimp +zetaDelta only

theorem enterRun_canonical (c : Nat) (rpm : Nat) {s : State} (hs : State.canonical s) :
    State.canonical (enterRun c rpm s) := by
  unfold enterRun
  repeat' first
    | with_reducible assumption
    | with_reducible apply Leads.next
    | with_reducible exact Leads.fault _
    | with_reducible apply OptLeads.some
    | with_reducible exact OptLeads.none
    | with_reducible apply OptLeads.map
    | with_reducible apply noteCaught_canonical
    | with_reducible apply setFanState_canonical
    | with_reducible apply onFanChan_canonical
    | with_reducible apply setF_canonical
    | with_reducible apply setF_canonical
    | extract_lets
    | (simp only [↓State.canonical_mk]; with_reducible apply Good.of)
    | split
    | (with_reducible intro _)
    | dsimp only
    | dsimp +zetaDelta only

theorem writeDemand_canonical (c v : Nat) {s : State} (hs : State.canonical s) :
    State.canonical (writeDemand c v s) := by
  unfold writeDemand
  repeat' first
    | with_reducible assumption
    | with_reducible apply Leads.next
    | with_reducible exact Leads.fault _
    | with_reducible apply OptLeads.some
    | with_reducible exact OptLeads.none
    | with_reducible apply OptLeads.map
    | with_reducible apply loopAtOnce_canonical
    | with_reducible apply when_canonical
    | with_reducible apply setF_canonical
    | with_reducible apply setF_canonical
    | with_reducible apply when_canonical
    | extract_lets
    | (simp only [↓State.canonical_mk]; with_reducible apply Good.of)
    | split
    | (with_reducible intro _)
    | dsimp only
    | dsimp +zetaDelta only

end Sys2Proof.Machine
end

