-- ==== Sys2Proof/Laws/CanonRepair.lean ====
section
/-! SUPPORT. The canonical form is kept by the operations of Machine/Repair.lean. -/

set_option linter.all false

namespace Sys2Proof.Machine

theorem pushRecord_canonical (kind cls inst result detail : Nat) {s : State} (hs : State.canonical s) :
    State.canonical (pushRecord kind cls inst result detail s) := by
  unfold pushRecord
  repeat' first
    | with_reducible assumption
    | with_reducible apply Leads.next
    | with_reducible exact Leads.fault _
    | with_reducible apply OptLeads.some
    | with_reducible exact OptLeads.none
    | with_reducible apply OptLeads.map
    | with_reducible apply event_canonical
    | extract_lets
    | (simp only [↓State.canonical_mk]; with_reducible apply Good.of)
    | split
    | (with_reducible intro _)
    | dsimp only
    | dsimp +zetaDelta only

theorem raiseFault_canonical (reason : Nat) {s : State} (hs : State.canonical s) :
    State.canonical (raiseFault reason s) := by
  unfold raiseFault
  repeat' first
    | with_reducible assumption
    | with_reducible apply Leads.next
    | with_reducible exact Leads.fault _
    | with_reducible apply OptLeads.some
    | with_reducible exact OptLeads.none
    | with_reducible apply OptLeads.map
    | with_reducible apply hostEvent_canonical
    | extract_lets
    | (simp only [↓State.canonical_mk]; with_reducible apply Good.of)
    | split
    | (with_reducible intro _)
    | dsimp only
    | dsimp +zetaDelta only

theorem retireIsland_canonical (i : Island) {s : State} (hs : State.canonical s) :
    State.canonical (retireIsland i s) := by
  unfold retireIsland
  repeat' first
    | with_reducible assumption
    | with_reducible apply Leads.next
    | with_reducible exact Leads.fault _
    | with_reducible apply OptLeads.some
    | with_reducible exact OptLeads.none
    | with_reducible apply OptLeads.map
    | extract_lets
    | (simp only [↓State.canonical_mk]; with_reducible apply Good.of)
    | split
    | (with_reducible intro _)
    | dsimp only
    | dsimp +zetaDelta only

end Sys2Proof.Machine
end

