-- ==== Sys2Proof/Laws/CanonFabOps.lean ====
section
/-! SUPPORT. The canonical form is kept by the operations of Machine/FabOps.lean. -/

set_option linter.all false

namespace Sys2Proof.Machine

theorem onPort_canonical (p : Nat) (f : FabPort → FabPort) {s : State} (hs : State.canonical s) :
    State.canonical (onPort p f s) := by
  unfold onPort
  repeat' first
    | with_reducible assumption
    | with_reducible apply Leads.next
    | with_reducible exact Leads.fault _
    | with_reducible apply OptLeads.some
    | with_reducible exact OptLeads.none
    | with_reducible apply OptLeads.map
    | extract_lets
    | (simp only [↓State.canonical_mk]; with_reducible apply Good.of)
    | split
    | (with_reducible intro _)
    | dsimp only
    | dsimp +zetaDelta only

theorem dropFrame_canonical {s : State} (hs : State.canonical s) :
    State.canonical (dropFrame s) := by
  unfold dropFrame
  repeat' first
    | with_reducible assumption
    | with_reducible apply Leads.next
    | with_reducible exact Leads.fault _
    | with_reducible apply OptLeads.some
    | with_reducible exact OptLeads.none
    | with_reducible apply OptLeads.map
    | with_reducible apply event_canonical
    | extract_lets
    | (simp only [↓State.canonical_mk]; with_reducible apply Good.of)
    | split
    | (with_reducible intro _)
    | dsimp only
    | dsimp +zetaDelta only

theorem sendOut_canonical (p : Nat) (f : Frame) {s : State} (hs : State.canonical s) :
    State.canonical (sendOut p f s) := by
  unfold sendOut
  repeat' first
    | with_reducible assumption
    | with_reducible apply Leads.next
    | with_reducible exact Leads.fault _
    | with_reducible apply OptLeads.some
    | with_reducible exact OptLeads.none
    | with_reducible apply OptLeads.map
    | with_reducible apply emit_canonical
    | with_reducible apply bump_canonical
    | extract_lets
    | (simp only [↓State.canonical_mk]; with_reducible apply Good.of)
    | split
    | (with_reducible intro _)
    | dsimp only
    | dsimp +zetaDelta only

theorem putOut_canonical (p : Nat) (f : Frame) {s : State} (hs : State.canonical s) :
    State.canonical (putOut p f s) := by
  unfold putOut
  repeat' first
    | with_reducible assumption
    | with_reducible apply Leads.next
    | with_reducible exact Leads.fault _
    | with_reducible apply OptLeads.some
    | with_reducible exact OptLeads.none
    | with_reducible apply OptLeads.map
    | with_reducible apply sendOut_canonical
    | with_reducible apply onPort_canonical
    | extract_lets
    | (simp only [↓State.canonical_mk]; with_reducible apply Good.of)
    | split
    | (with_reducible intro _)
    | dsimp only
    | dsimp +zetaDelta only

theorem pumpPort_canonical (p n : Nat) {s : State} (hs : State.canonical s) :
    State.canonical (pumpPort p n s) := by
  induction n generalizing s with
  | zero =>
    unfold pumpPort
    repeat' first
      | with_reducible assumption
      | with_reducible apply Leads.next
      | with_reducible exact Leads.fault _
      | with_reducible apply OptLeads.some
      | with_reducible exact OptLeads.none
      | with_reducible apply OptLeads.map
      | with_reducible apply putOut_canonical
      | with_reducible apply onPort_canonical
      | extract_lets
      | (simp only [↓State.canonical_mk]; with_reducible apply Good.of)
      | split
      | (with_reducible intro _)
      | dsimp only
      | dsimp +zetaDelta only
  | succ n ih =>
    unfold pumpPort
    repeat' first
      | with_reducible assumption
      | with_reducible apply Leads.next
      | with_reducible exact Leads.fault _
      | with_reducible apply OptLeads.some
      | with_reducible exact OptLeads.none
      | with_reducible apply OptLeads.map
      | with_reducible apply ih
      | with_reducible apply putOut_canonical
      | with_reducible apply onPort_canonical
      | extract_lets
      | (simp only [↓State.canonical_mk]; with_reducible apply Good.of)
      | split
      | (with_reducible intro _)
      | dsimp only
      | dsimp +zetaDelta only

theorem routeFrame_canonical (f : Frame) {s : State} (hs : State.canonical s) :
    State.canonical (routeFrame f s) := by
  unfold routeFrame
  repeat' first
    | with_reducible assumption
    | with_reducible apply Leads.next
    | with_reducible exact Leads.fault _
    | with_reducible apply OptLeads.some
    | with_reducible exact OptLeads.none
    | with_reducible apply OptLeads.map
    | with_reducible apply putOut_canonical
    | with_reducible apply dropFrame_canonical
    | with_reducible apply when_canonical
    | with_reducible apply event_canonical
    | with_reducible apply when_canonical
    | extract_lets
    | (simp only [↓State.canonical_mk]; with_reducible apply Good.of)
    | split
    | (with_reducible intro _)
    | dsimp only
    | dsimp +zetaDelta only

theorem sendFrame_canonical (k : FabKind) (dst xseq : Nat) (payload : List Nat) {s : State} (hs : State.canonical s) :
    State.canonical (sendFrame k dst xseq payload s) := by
  unfold sendFrame
  repeat' first
    | with_reducible assumption
    | with_reducible apply Leads.next
    | with_reducible exact Leads.fault _
    | with_reducible apply OptLeads.some
    | with_reducible exact OptLeads.none
    | with_reducible apply OptLeads.map
    | with_reducible apply routeFrame_canonical
    | with_reducible apply emit_canonical
    | extract_lets
    | (simp only [↓State.canonical_mk]; with_reducible apply Good.of)
    | split
    | (with_reducible intro _)
    | dsimp only
    | dsimp +zetaDelta only

theorem floodFrame_canonical (k : FabKind) (but : Option Nat) (payload : List Nat) {s : State} (hs : State.canonical s) :
    State.canonical (floodFrame k but payload s) := by
  unfold floodFrame
  repeat' first
    | with_reducible assumption
    | with_reducible apply Leads.next
    | with_reducible exact Leads.fault _
    | with_reducible apply OptLeads.some
    | with_reducible exact OptLeads.none
    | with_reducible apply OptLeads.map
    | with_reducible apply putOut_canonical
    | with_reducible apply forEach_canonical
    | with_reducible apply forEach_canonical
    | extract_lets
    | (simp only [↓State.canonical_mk]; with_reducible apply Good.of)
    | split
    | (with_reducible intro _)
    | dsimp only
    | dsimp +zetaDelta only

theorem sendLocal_canonical (p : Nat) (k : FabKind) (payload : List Nat) {s : State} (hs : State.canonical s) :
    State.canonical (sendLocal p k payload s) := by
  unfold sendLocal
  repeat' first
    | with_reducible assumption
    | with_reducible apply Leads.next
    | with_reducible exact Leads.fault _
    | with_reducible apply OptLeads.some
    | with_reducible exact OptLeads.none
    | with_reducible apply OptLeads.map
    | with_reducible apply putOut_canonical
    | extract_lets
    | (simp only [↓State.canonical_mk]; with_reducible apply Good.of)
    | split
    | (with_reducible intro _)
    | dsimp only
    | dsimp +zetaDelta only

theorem askBellwether_canonical (k : FabKind) (payload : List Nat) {s : State} (hs : State.canonical s) :
    State.canonical (askBellwether k payload s) := by
  unfold askBellwether
  repeat' first
    | with_reducible assumption
    | with_reducible apply Leads.next
    | with_reducible exact Leads.fault _
    | with_reducible apply OptLeads.some
    | with_reducible exact OptLeads.none
    | with_reducible apply OptLeads.map
    | with_reducible apply sendFrame_canonical
    | extract_lets
    | (simp only [↓State.canonical_mk]; with_reducible apply Good.of)
    | split
    | (with_reducible intro _)
    | dsimp only
    | dsimp +zetaDelta only

theorem askTokens_canonical (wantW minW cls : Nat) {s : State} (hs : State.canonical s) :
    State.canonical (askTokens wantW minW cls s) := by
  unfold askTokens
  repeat' first
    | with_reducible assumption
    | with_reducible apply Leads.next
    | with_reducible exact Leads.fault _
    | with_reducible apply OptLeads.some
    | with_reducible exact OptLeads.none
    | with_reducible apply OptLeads.map
    | with_reducible apply askBellwether_canonical
    | extract_lets
    | (simp only [↓State.canonical_mk]; with_reducible apply Good.of)
    | split
    | (with_reducible intro _)
    | dsimp only
    | dsimp +zetaDelta only

end Sys2Proof.Machine
end

