-- ==== Sys2Proof/Laws/CanonRoutes.lean ====
section
/-! SUPPORT. The canonical form is kept by the operations of Machine/Routes.lean. -/

set_option linter.all false

namespace Sys2Proof.Machine

theorem onNode_canonical (uid : Nat) (f : FabNode → FabNode) {s : State} (hs : State.canonical s) :
    State.canonical (onNode uid f s) := by
  unfold onNode
  repeat' first
    | with_reducible assumption
    | with_reducible apply Leads.next
    | with_reducible exact Leads.fault _
    | with_reducible apply OptLeads.some
    | with_reducible exact OptLeads.none
    | with_reducible apply OptLeads.map
    | extract_lets
    | (simp only [↓State.canonical_mk]; with_reducible apply Good.of)
    | split
    | (with_reducible intro _)
    | dsimp only
    | dsimp +zetaDelta only

theorem writeRoutes_canonical {s : State} (hs : State.canonical s) :
    State.canonical (writeRoutes s) := by
  unfold writeRoutes
  repeat' first
    | with_reducible assumption
    | with_reducible apply Leads.next
    | with_reducible exact Leads.fault _
    | with_reducible apply OptLeads.some
    | with_reducible exact OptLeads.none
    | with_reducible apply OptLeads.map
    | with_reducible apply forEach_canonical
    | with_reducible apply setF_canonical
    | with_reducible apply setF_canonical
    | with_reducible apply forEach_canonical
    | extract_lets
    | (simp only [↓State.canonical_mk]; with_reducible apply Good.of)
    | split
    | (with_reducible intro _)
    | dsimp only
    | dsimp +zetaDelta only

theorem floodLsa_canonical {s : State} (hs : State.canonical s) :
    State.canonical (floodLsa s) := by
  unfold floodLsa
  repeat' first
    | with_reducible assumption
    | with_reducible apply Leads.next
    | with_reducible exact Leads.fault _
    | with_reducible apply OptLeads.some
    | with_reducible exact OptLeads.none
    | with_reducible apply OptLeads.map
    | with_reducible apply floodFrame_canonical
    | extract_lets
    | (simp only [↓State.canonical_mk]; with_reducible apply Good.of)
    | split
    | (with_reducible intro _)
    | dsimp only
    | dsimp +zetaDelta only

theorem parkPort_canonical (p : Nat) {s : State} (hs : State.canonical s) :
    State.canonical (parkPort p s) := by
  unfold parkPort
  repeat' first
    | with_reducible assumption
    | with_reducible apply Leads.next
    | with_reducible exact Leads.fault _
    | with_reducible apply OptLeads.some
    | with_reducible exact OptLeads.none
    | with_reducible apply OptLeads.map
    | with_reducible apply routeFrame_canonical
    | with_reducible apply onPort_canonical
    | with_reducible apply forEach_canonical
    | with_reducible apply when_canonical
    | with_reducible apply setF_canonical
    | with_reducible apply setF_canonical
    | with_reducible apply forEach_canonical
    | with_reducible apply when_canonical
    | extract_lets
    | (simp only [↓State.canonical_mk]; with_reducible apply Good.of)
    | split
    | (with_reducible intro _)
    | dsimp only
    | dsimp +zetaDelta only

theorem parkPorts_canonical {s : State} (hs : State.canonical s) :
    State.canonical (parkPorts s) := by
  unfold parkPorts
  repeat' first
    | with_reducible assumption
    | with_reducible apply Leads.next
    | with_reducible exact Leads.fault _
    | with_reducible apply OptLeads.some
    | with_reducible exact OptLeads.none
    | with_reducible apply OptLeads.map
    | with_reducible apply parkPort_canonical
    | with_reducible apply floodLsa_canonical
    | with_reducible apply writeRoutes_canonical
    | with_reducible apply forEach_canonical
    | with_reducible apply forEach_canonical
    | extract_lets
    | (simp only [↓State.canonical_mk]; with_reducible apply Good.of)
    | split
    | (with_reducible intro _)
    | dsimp only
    | dsimp +zetaDelta only

end Sys2Proof.Machine
end

