-- ==== Sys2Proof/Laws/CanonGeometry.lean ====
section
/-! SUPPORT. The canonical form is kept by the operations of Machine/Geometry.lean. -/

set_option linter.all false

namespace Sys2Proof.Machine

theorem onCare_canonical (n : Nat) (f : ArrayCare → ArrayCare) {s : State} (hs : State.canonical s) :
    State.canonical (onCare n f s) := by
  unfold onCare
  repeat' first
    | with_reducible assumption
    | with_reducible apply Leads.next
    | with_reducible exact Leads.fault _
    | with_reducible apply OptLeads.some
    | with_reducible exact OptLeads.none
    | with_reducible apply OptLeads.map
    | extract_lets
    | (simp only [↓State.canonical_mk]; with_reducible apply Good.of)
    | split
    | (with_reducible intro _)
    | dsimp only
    | dsimp +zetaDelta only

theorem stat_canonical (n i by' : Nat) {s : State} (hs : State.canonical s) :
    State.canonical (stat n i by' s) := by
  unfold stat
  repeat' first
    | with_reducible assumption
    | with_reducible apply Leads.next
    | with_reducible exact Leads.fault _
    | with_reducible apply OptLeads.some
    | with_reducible exact OptLeads.none
    | with_reducible apply OptLeads.map
    | with_reducible apply onCare_canonical
    | extract_lets
    | (simp only [↓State.canonical_mk]; with_reducible apply Good.of)
    | split
    | (with_reducible intro _)
    | dsimp only
    | dsimp +zetaDelta only

theorem onArrayMeta_canonical (n : Nat) (f : ArrayMeta → ArrayMeta) {s : State} (hs : State.canonical s) :
    State.canonical (onArrayMeta n f s) := by
  unfold onArrayMeta
  repeat' first
    | with_reducible assumption
    | with_reducible apply Leads.next
    | with_reducible exact Leads.fault _
    | with_reducible apply OptLeads.some
    | with_reducible exact OptLeads.none
    | with_reducible apply OptLeads.map
    | extract_lets
    | (simp only [↓State.canonical_mk]; with_reducible apply Good.of)
    | split
    | (with_reducible intro _)
    | dsimp only
    | dsimp +zetaDelta only

theorem onVolMeta_canonical (v : Nat) (f : VolMeta → VolMeta) {s : State} (hs : State.canonical s) :
    State.canonical (onVolMeta v f s) := by
  unfold onVolMeta
  repeat' first
    | with_reducible assumption
    | with_reducible apply Leads.next
    | with_reducible exact Leads.fault _
    | with_reducible apply OptLeads.some
    | with_reducible exact OptLeads.none
    | with_reducible apply OptLeads.map
    | extract_lets
    | (simp only [↓State.canonical_mk]; with_reducible apply Good.of)
    | split
    | (with_reducible intro _)
    | dsimp only
    | dsimp +zetaDelta only

theorem writeRecords_canonical (n : Nat) (slots : List Nat) {s : State} (hs : State.canonical s) :
    State.canonical (writeRecords n slots s) := by
  unfold writeRecords
  repeat' first
    | with_reducible assumption
    | with_reducible apply Leads.next
    | with_reducible exact Leads.fault _
    | with_reducible apply OptLeads.some
    | with_reducible exact OptLeads.none
    | with_reducible apply OptLeads.map
    | with_reducible apply emit_canonical
    | with_reducible apply forEach_canonical
    | with_reducible apply forEach_canonical
    | extract_lets
    | (simp only [↓State.canonical_mk]; with_reducible apply Good.of)
    | split
    | (with_reducible intro _)
    | dsimp only
    | dsimp +zetaDelta only

theorem writeHeader_canonical (phys hdr : Nat) (b : Block) {s : State} (hs : State.canonical s) :
    State.canonical (writeHeader phys hdr b s) := by
  unfold writeHeader
  repeat' first
    | with_reducible assumption
    | with_reducible apply Leads.next
    | with_reducible exact Leads.fault _
    | with_reducible apply OptLeads.some
    | with_reducible exact OptLeads.none
    | with_reducible apply OptLeads.map
    | with_reducible apply emit_canonical
    | extract_lets
    | (simp only [↓State.canonical_mk]; with_reducible apply Good.of)
    | split
    | (with_reducible intro _)
    | dsimp only
    | dsimp +zetaDelta only

theorem raiseGeneration_canonical (n : Nat) {s : State} (hs : State.canonical s) :
    State.canonical (raiseGeneration n s) := by
  unfold raiseGeneration
  repeat' first
    | with_reducible assumption
    | with_reducible apply Leads.next
    | with_reducible exact Leads.fault _
    | with_reducible apply OptLeads.some
    | with_reducible exact OptLeads.none
    | with_reducible apply OptLeads.map
    | with_reducible apply writeHeader_canonical
    | with_reducible apply onArrayMeta_canonical
    | with_reducible apply forEach_canonical
    | with_reducible apply forEach_canonical
    | extract_lets
    | (simp only [↓State.canonical_mk]; with_reducible apply Good.of)
    | split
    | (with_reducible intro _)
    | dsimp only
    | dsimp +zetaDelta only

theorem newDrive_canonical (n slot phys : Nat) {s : State} (hs : State.canonical s) :
    State.canonical (newDrive n slot phys s) := by
  unfold newDrive
  repeat' first
    | with_reducible assumption
    | with_reducible apply Leads.next
    | with_reducible exact Leads.fault _
    | with_reducible apply OptLeads.some
    | with_reducible exact OptLeads.none
    | with_reducible apply OptLeads.map
    | with_reducible apply raiseGeneration_canonical
    | with_reducible apply writeHeader_canonical
    | with_reducible apply onArrayMeta_canonical
    | extract_lets
    | (simp only [↓State.canonical_mk]; with_reducible apply Good.of)
    | split
    | (with_reducible intro _)
    | dsimp only
    | dsimp +zetaDelta only

end Sys2Proof.Machine
end

