-- ==== Sys2Proof/Laws/CanonStp.lean ====
section
/-! SUPPORT. The canonical form is kept by the operations of Machine/Stp.lean. -/

set_option linter.all false

namespace Sys2Proof.Machine

theorem writeArrayValid_canonical (n : Nat) (v : Bool) {s : State} (hs : State.canonical s) :
    State.canonical (writeArrayValid n v s) := by
  unfold writeArrayValid
  repeat' first
    | with_reducible assumption
    | with_reducible apply Leads.next
    | with_reducible exact Leads.fault _
    | with_reducible apply OptLeads.some
    | with_reducible exact OptLeads.none
    | with_reducible apply OptLeads.map
    | with_reducible apply setF_canonical
    | with_reducible apply setF_canonical
    | extract_lets
    | (simp only [↓State.canonical_mk]; with_reducible apply Good.of)
    | split
    | (with_reducible intro _)
    | dsimp only
    | dsimp +zetaDelta only

theorem writeVolumeValid_canonical (v : Nat) (valid : Bool) {s : State} (hs : State.canonical s) :
    State.canonical (writeVolumeValid v valid s) := by
  unfold writeVolumeValid
  repeat' first
    | with_reducible assumption
    | with_reducible apply Leads.next
    | with_reducible exact Leads.fault _
    | with_reducible apply OptLeads.some
    | with_reducible exact OptLeads.none
    | with_reducible apply OptLeads.map
    | with_reducible apply setF_canonical
    | with_reducible apply setF_canonical
    | extract_lets
    | (simp only [↓State.canonical_mk]; with_reducible apply Good.of)
    | split
    | (with_reducible intro _)
    | dsimp only
    | dsimp +zetaDelta only

theorem unlocked_canonical (f : State → State) {s : State} (hf : ∀ (x0 : State), State.canonical x0 → State.canonical (f x0)) (hs : State.canonical s) :
    State.canonical (unlocked f s) := by
  unfold unlocked
  repeat' first
    | with_reducible assumption
    | with_reducible apply Leads.next
    | with_reducible exact Leads.fault _
    | with_reducible apply OptLeads.some
    | with_reducible exact OptLeads.none
    | with_reducible apply OptLeads.map
    | with_reducible apply hf
    | with_reducible apply setF_canonical
    | with_reducible apply setF_canonical
    | extract_lets
    | (simp only [↓State.canonical_mk]; with_reducible apply Good.of)
    | split
    | (with_reducible intro _)
    | dsimp only
    | dsimp +zetaDelta only

theorem writeErased_canonical (n slot : Nat) (v : Bool) {s : State} (hs : State.canonical s) :
    State.canonical (writeErased n slot v s) := by
  unfold writeErased
  repeat' first
    | with_reducible assumption
    | with_reducible apply Leads.next
    | with_reducible exact Leads.fault _
    | with_reducible apply OptLeads.some
    | with_reducible exact OptLeads.none
    | with_reducible apply OptLeads.map
    | with_reducible apply when_canonical
    | with_reducible apply setF_canonical
    | with_reducible apply setF_canonical
    | with_reducible apply when_canonical
    | extract_lets
    | (simp only [↓State.canonical_mk]; with_reducible apply Good.of)
    | split
    | (with_reducible intro _)
    | dsimp only
    | dsimp +zetaDelta only

theorem startEval_canonical (n : Nat) {s : State} (hs : State.canonical s) :
    State.canonical (startEval n s) := by
  unfold startEval
  repeat' first
    | with_reducible assumption
    | with_reducible apply Leads.next
    | with_reducible exact Leads.fault _
    | with_reducible apply OptLeads.some
    | with_reducible exact OptLeads.none
    | with_reducible apply OptLeads.map
    | with_reducible apply setF_canonical
    | with_reducible apply setF_canonical
    | extract_lets
    | (simp only [↓State.canonical_mk]; with_reducible apply Good.of)
    | split
    | (with_reducible intro _)
    | dsimp only
    | dsimp +zetaDelta only

theorem execArrayValidWrite_canonical (n : Fin 4) (valid : Bool) {s : State} (hs : State.canonical s) :
    Leads State.canonical (execArrayValidWrite n valid s) := by
  unfold execArrayValidWrite
  repeat' first
    | with_reducible assumption
    | with_reducible apply Leads.next
    | with_reducible exact Leads.fault _
    | with_reducible apply OptLeads.some
    | with_reducible exact OptLeads.none
    | with_reducible apply OptLeads.map
    | with_reducible apply writeArrayValid_canonical
    | with_reducible apply land_canonical
    | with_reducible refine Leads.elim (land_canonical _ _ _ ?_ ?_) (by with_reducible assumption)
    | extract_lets
    | (simp only [↓State.canonical_mk]; with_reducible apply Good.of)
    | split
    | (with_reducible intro _)
    | dsimp only
    | dsimp +zetaDelta only

theorem execVolumeValidWrite_canonical (v : Fin 64) (valid : Bool) {s : State} (hs : State.canonical s) :
    Leads State.canonical (execVolumeValidWrite v valid s) := by
  unfold execVolumeValidWrite
  repeat' first
    | with_reducible assumption
    | with_reducible apply Leads.next
    | with_reducible exact Leads.fault _
    | with_reducible apply OptLeads.some
    | with_reducible exact OptLeads.none
    | with_reducible apply OptLeads.map
    | with_reducible apply writeVolumeValid_canonical
    | with_reducible apply land_canonical
    | with_reducible refine Leads.elim (land_canonical _ _ _ ?_ ?_) (by with_reducible assumption)
    | extract_lets
    | (simp only [↓State.canonical_mk]; with_reducible apply Good.of)
    | split
    | (with_reducible intro _)
    | dsimp only
    | dsimp +zetaDelta only

theorem execXlateGo_canonical (vol : Fin 64) {s : State} (hs : State.canonical s) :
    Leads State.canonical (execXlateGo vol s) := by
  unfold execXlateGo
  repeat' first
    | with_reducible assumption
    | with_reducible apply Leads.next
    | with_reducible exact Leads.fault _
    | with_reducible apply OptLeads.some
    | with_reducible exact OptLeads.none
    | with_reducible apply OptLeads.map
    | with_reducible apply land_canonical
    | with_reducible refine Leads.elim (land_canonical _ _ _ ?_ ?_) (by with_reducible assumption)
    | with_reducible apply ignored_canonical
    | with_reducible apply setF_canonical
    | with_reducible apply setF_canonical
    | extract_lets
    | (simp only [↓State.canonical_mk]; with_reducible apply Good.of)
    | split
    | (with_reducible intro _)
    | dsimp only
    | dsimp +zetaDelta only

theorem setXlate_canonical (slot par d grp oor nov moff : Nat) {s : State} (hs : State.canonical s) :
    State.canonical (setXlate slot par d grp oor nov moff s) := by
  unfold setXlate
  repeat' first
    | with_reducible assumption
    | with_reducible apply Leads.next
    | with_reducible exact Leads.fault _
    | with_reducible apply OptLeads.some
    | with_reducible exact OptLeads.none
    | with_reducible apply OptLeads.map
    | with_reducible apply set64_canonical
    | with_reducible apply setF_canonical
    | with_reducible apply setF_canonical
    | extract_lets
    | (simp only [↓State.canonical_mk]; with_reducible apply Good.of)
    | split
    | (with_reducible intro _)
    | dsimp only
    | dsimp +zetaDelta only

theorem execXlateDone_canonical {s : State} (hs : State.canonical s) :
    Leads State.canonical (execXlateDone s) := by
  unfold execXlateDone
  repeat' first
    | with_reducible assumption
    | with_reducible apply Leads.next
    | with_reducible exact Leads.fault _
    | with_reducible apply OptLeads.some
    | with_reducible exact OptLeads.none
    | with_reducible apply OptLeads.map
    | with_reducible apply setXlate_canonical
    | with_reducible apply useFrees_canonical
    | with_reducible apply setF_canonical
    | with_reducible apply setF_canonical
    | extract_lets
    | (simp only [↓State.canonical_mk]; with_reducible apply Good.of)
    | split
    | (with_reducible intro _)
    | dsimp only
    | dsimp +zetaDelta only

theorem execEvalStart_canonical (n : Fin 4) {s : State} (hs : State.canonical s) :
    Leads State.canonical (execEvalStart n s) := by
  unfold execEvalStart
  repeat' first
    | with_reducible assumption
    | with_reducible apply Leads.next
    | with_reducible exact Leads.fault _
    | with_reducible apply OptLeads.some
    | with_reducible exact OptLeads.none
    | with_reducible apply OptLeads.map
    | with_reducible apply startEval_canonical
    | with_reducible apply land_canonical
    | with_reducible refine Leads.elim (land_canonical _ _ _ ?_ ?_) (by with_reducible assumption)
    | with_reducible apply ignored_canonical
    | extract_lets
    | (simp only [↓State.canonical_mk]; with_reducible apply Good.of)
    | split
    | (with_reducible intro _)
    | dsimp only
    | dsimp +zetaDelta only

end Sys2Proof.Machine
end

