-- ==== Sys2Proof/Laws/CanonSlots.lean ====
section
/-! SUPPORT. The canonical form is kept by the operations of Machine/Slots.lean. -/

set_option linter.all false

namespace Sys2Proof.Machine

theorem sendSlotState_canonical {s : State} (hs : State.canonical s) :
    State.canonical (sendSlotState s) := by
  unfold sendSlotState
  repeat' first
    | with_reducible assumption
    | with_reducible apply Leads.next
    | with_reducible exact Leads.fault _
    | with_reducible apply OptLeads.some
    | with_reducible exact OptLeads.none
    | with_reducible apply OptLeads.map
    | with_reducible apply sendMir_canonical
    | extract_lets
    | (simp only [↓State.canonical_mk]; with_reducible apply Good.of)
    | split
    | (with_reducible intro _)
    | dsimp only
    | dsimp +zetaDelta only

theorem dropAwake_canonical (n : Nat) {s : State} (hs : State.canonical s) :
    State.canonical (dropAwake n s) := by
  unfold dropAwake
  repeat' first
    | with_reducible assumption
    | with_reducible apply Leads.next
    | with_reducible exact Leads.fault _
    | with_reducible apply OptLeads.some
    | with_reducible exact OptLeads.none
    | with_reducible apply OptLeads.map
    | with_reducible apply when_canonical
    | with_reducible apply setF_canonical
    | with_reducible apply setF_canonical
    | with_reducible apply when_canonical
    | extract_lets
    | (simp only [↓State.canonical_mk]; with_reducible apply Good.of)
    | split
    | (with_reducible intro _)
    | dsimp only
    | dsimp +zetaDelta only

theorem openRails_canonical (n rails : Nat) {s : State} (hs : State.canonical s) :
    State.canonical (openRails n rails s) := by
  unfold openRails
  repeat' first
    | with_reducible assumption
    | with_reducible apply Leads.next
    | with_reducible exact Leads.fault _
    | with_reducible apply OptLeads.some
    | with_reducible exact OptLeads.none
    | with_reducible apply OptLeads.map
    | with_reducible apply dropAwake_canonical
    | with_reducible apply onSlot_canonical
    | with_reducible apply when_canonical
    | with_reducible apply setF_canonical
    | with_reducible apply setF_canonical
    | with_reducible apply when_canonical
    | extract_lets
    | (simp only [↓State.canonical_mk]; with_reducible apply Good.of)
    | split
    | (with_reducible intro _)
    | dsimp only
    | dsimp +zetaDelta only

theorem powerOff_canonical (n rails : Nat) {s : State} (hs : State.canonical s) :
    State.canonical (powerOff n rails s) := by
  unfold powerOff
  repeat' first
    | with_reducible assumption
    | with_reducible apply Leads.next
    | with_reducible exact Leads.fault _
    | with_reducible apply OptLeads.some
    | with_reducible exact OptLeads.none
    | with_reducible apply OptLeads.map
    | with_reducible apply openRails_canonical
    | with_reducible apply sendSlotState_canonical
    | with_reducible apply onSlot_canonical
    | extract_lets
    | (simp only [↓State.canonical_mk]; with_reducible apply Good.of)
    | split
    | (with_reducible intro _)
    | dsimp only
    | dsimp +zetaDelta only

theorem writeEnables_canonical (n : Nat) (en12 en5 : Bool) {s : State} (hs : State.canonical s) :
    State.canonical (writeEnables n en12 en5 s) := by
  unfold writeEnables
  repeat' first
    | with_reducible assumption
    | with_reducible apply Leads.next
    | with_reducible exact Leads.fault _
    | with_reducible apply OptLeads.some
    | with_reducible exact OptLeads.none
    | with_reducible apply OptLeads.map
    | with_reducible apply powerOff_canonical
    | with_reducible apply onSlot_canonical
    | with_reducible apply setF_canonical
    | with_reducible apply setF_canonical
    | extract_lets
    | (simp only [↓State.canonical_mk]; with_reducible apply Good.of)
    | split
    | (with_reducible intro _)
    | dsimp only
    | dsimp +zetaDelta only

theorem writeSpin_canonical (n : Nat) (v : Bool) {s : State} (hs : State.canonical s) :
    State.canonical (writeSpin n v s) := by
  unfold writeSpin
  repeat' first
    | with_reducible assumption
    | with_reducible apply Leads.next
    | with_reducible exact Leads.fault _
    | with_reducible apply OptLeads.some
    | with_reducible exact OptLeads.none
    | with_reducible apply OptLeads.map
    | with_reducible apply onSlot_canonical
    | with_reducible apply setF_canonical
    | with_reducible apply setF_canonical
    | extract_lets
    | (simp only [↓State.canonical_mk]; with_reducible apply Good.of)
    | split
    | (with_reducible intro _)
    | dsimp only
    | dsimp +zetaDelta only

theorem requestSlot_canonical (n : Nat) {s : State} (hs : State.canonical s) :
    State.canonical (requestSlot n s) := by
  unfold requestSlot
  repeat' first
    | with_reducible assumption
    | with_reducible apply Leads.next
    | with_reducible exact Leads.fault _
    | with_reducible apply OptLeads.some
    | with_reducible exact OptLeads.none
    | with_reducible apply OptLeads.map
    | with_reducible apply writeSpin_canonical
    | with_reducible apply writeEnables_canonical
    | extract_lets
    | (simp only [↓State.canonical_mk]; with_reducible apply Good.of)
    | split
    | (with_reducible intro _)
    | dsimp only
    | dsimp +zetaDelta only

theorem writeShedOk_canonical {s : State} (hs : State.canonical s) :
    State.canonical (writeShedOk s) := by
  unfold writeShedOk
  repeat' first
    | with_reducible assumption
    | with_reducible apply Leads.next
    | with_reducible exact Leads.fault _
    | with_reducible apply OptLeads.some
    | with_reducible exact OptLeads.none
    | with_reducible apply OptLeads.map
    | with_reducible apply forEach_canonical
    | with_reducible apply setF_canonical
    | with_reducible apply setF_canonical
    | with_reducible apply forEach_canonical
    | extract_lets
    | (simp only [↓State.canonical_mk]; with_reducible apply Good.of)
    | split
    | (with_reducible intro _)
    | dsimp only
    | dsimp +zetaDelta only

theorem sendStop_canonical (n : Nat) {s : State} (hs : State.canonical s) :
    State.canonical (sendStop n s) := by
  unfold sendStop
  repeat' first
    | with_reducible assumption
    | with_reducible apply Leads.next
    | with_reducible exact Leads.fault _
    | with_reducible apply OptLeads.some
    | with_reducible exact OptLeads.none
    | with_reducible apply OptLeads.map
    | with_reducible apply onSlot_canonical
    | with_reducible apply emit_canonical
    | extract_lets
    | (simp only [↓State.canonical_mk]; with_reducible apply Good.of)
    | split
    | (with_reducible intro _)
    | dsimp only
    | dsimp +zetaDelta only

theorem spinDown_canonical (n : Nat) {s : State} (hs : State.canonical s) :
    State.canonical (spinDown n s) := by
  unfold spinDown
  repeat' first
    | with_reducible assumption
    | with_reducible apply Leads.next
    | with_reducible exact Leads.fault _
    | with_reducible apply OptLeads.some
    | with_reducible exact OptLeads.none
    | with_reducible apply OptLeads.map
    | with_reducible apply sendStop_canonical
    | with_reducible apply writeSpin_canonical
    | with_reducible apply onSlot_canonical
    | with_reducible apply setF_canonical
    | with_reducible apply setF_canonical
    | extract_lets
    | (simp only [↓State.canonical_mk]; with_reducible apply Good.of)
    | split
    | (with_reducible intro _)
    | dsimp only
    | dsimp +zetaDelta only

theorem requestTokens_canonical (dw : Nat) {s : State} (hs : State.canonical s) :
    State.canonical (requestTokens dw s) := by
  unfold requestTokens
  repeat' first
    | with_reducible assumption
    | with_reducible apply Leads.next
    | with_reducible exact Leads.fault _
    | with_reducible apply OptLeads.some
    | with_reducible exact OptLeads.none
    | with_reducible apply OptLeads.map
    | with_reducible apply askTokens_canonical
    | extract_lets
    | (simp only [↓State.canonical_mk]; with_reducible apply Good.of)
    | split
    | (with_reducible intro _)
    | dsimp only
    | dsimp +zetaDelta only

theorem requestAhead_canonical (n : Nat) (first : List Nat) {s : State} (hs : State.canonical s) :
    State.canonical (requestAhead n first s) := by
  unfold requestAhead
  repeat' first
    | with_reducible assumption
    | with_reducible apply Leads.next
    | with_reducible exact Leads.fault _
    | with_reducible apply OptLeads.some
    | with_reducible exact OptLeads.none
    | with_reducible apply OptLeads.map
    | with_reducible apply requestSlot_canonical
    | with_reducible apply writeSpin_canonical
    | with_reducible apply writeEnables_canonical
    | with_reducible apply forEach_canonical
    | with_reducible apply forEach_canonical
    | extract_lets
    | (simp only [↓State.canonical_mk]; with_reducible apply Good.of)
    | split
    | (with_reducible intro _)
    | dsimp only
    | dsimp +zetaDelta only

theorem wakeSlot_canonical (n : Nat) {s : State} (hs : State.canonical s) :
    State.canonical (wakeSlot n s) := by
  unfold wakeSlot
  repeat' first
    | with_reducible assumption
    | with_reducible apply Leads.next
    | with_reducible exact Leads.fault _
    | with_reducible apply OptLeads.some
    | with_reducible exact OptLeads.none
    | with_reducible apply OptLeads.map
    | with_reducible apply requestAhead_canonical
    | with_reducible apply requestTokens_canonical
    | with_reducible apply spinDown_canonical
    | with_reducible apply requestSlot_canonical
    | extract_lets
    | (simp only [↓State.canonical_mk]; with_reducible apply Good.of)
    | split
    | (with_reducible intro _)
    | dsimp only
    | dsimp +zetaDelta only

theorem sendConfig_canonical (what : List Nat) {s : State} (hs : State.canonical s) :
    State.canonical (sendConfig what s) := by
  unfold sendConfig
  repeat' first
    | with_reducible assumption
    | with_reducible apply Leads.next
    | with_reducible exact Leads.fault _
    | with_reducible apply OptLeads.some
    | with_reducible exact OptLeads.none
    | with_reducible apply OptLeads.map
    | with_reducible apply sendMir_canonical
    | extract_lets
    | (simp only [↓State.canonical_mk]; with_reducible apply Good.of)
    | split
    | (with_reducible intro _)
    | dsimp only
    | dsimp +zetaDelta only

theorem enableFrontier_canonical (k : Nat) {s : State} (hs : State.canonical s) :
    State.canonical (enableFrontier k s) := by
  unfold enableFrontier
  repeat' first
    | with_reducible assumption
    | with_reducible apply Leads.next
    | with_reducible exact Leads.fault _
    | with_reducible apply OptLeads.some
    | with_reducible exact OptLeads.none
    | with_reducible apply OptLeads.map
    | with_reducible apply set64_canonical
    | with_reducible apply setF_canonical
    | with_reducible apply setF_canonical
    | extract_lets
    | (simp only [↓State.canonical_mk]; with_reducible apply Good.of)
    | split
    | (with_reducible intro _)
    | dsimp only
    | dsimp +zetaDelta only

theorem startFrontier_canonical (k mode n slot : Nat) {s : State} (hs : State.canonical s) :
    State.canonical (startFrontier k mode n slot s) := by
  unfold startFrontier
  repeat' first
    | with_reducible assumption
    | with_reducible apply Leads.next
    | with_reducible exact Leads.fault _
    | with_reducible apply OptLeads.some
    | with_reducible exact OptLeads.none
    | with_reducible apply OptLeads.map
    | with_reducible apply enableFrontier_canonical
    | with_reducible apply sendConfig_canonical
    | with_reducible apply wakeSlot_canonical
    | with_reducible apply logEvent_canonical
    | with_reducible apply set64_canonical
    | with_reducible apply setF_canonical
    | with_reducible apply setF_canonical
    | extract_lets
    | (simp only [↓State.canonical_mk]; with_reducible apply Good.of)
    | split
    | (with_reducible intro _)
    | dsimp only
    | dsimp +zetaDelta only

theorem startRebuild_canonical (n slot : Nat) {s : State} (hs : State.canonical s) :
    State.canonical (startRebuild n slot s) := by
  unfold startRebuild
  repeat' first
    | with_reducible assumption
    | with_reducible apply Leads.next
    | with_reducible exact Leads.fault _
    | with_reducible apply OptLeads.some
    | with_reducible exact OptLeads.none
    | with_reducible apply OptLeads.map
    | with_reducible apply startFrontier_canonical
    | extract_lets
    | (simp only [↓State.canonical_mk]; with_reducible apply Good.of)
    | split
    | (with_reducible intro _)
    | dsimp only
    | dsimp +zetaDelta only

theorem startQueued_canonical {s : State} (hs : State.canonical s) :
    State.canonical (startQueued s) := by
  unfold startQueued
  repeat' first
    | with_reducible assumption
    | with_reducible apply Leads.next
    | with_reducible exact Leads.fault _
    | with_reducible apply OptLeads.some
    | with_reducible exact OptLeads.none
    | with_reducible apply OptLeads.map
    | with_reducible apply startFrontier_canonical
    | extract_lets
    | (simp only [↓State.canonical_mk]; with_reducible apply Good.of)
    | split
    | (with_reducible intro _)
    | dsimp only
    | dsimp +zetaDelta only

theorem writeSub_canonical (j slot phys : Nat) {s : State} (hs : State.canonical s) :
    State.canonical (writeSub j slot phys s) := by
  unfold writeSub
  repeat' first
    | with_reducible assumption
    | with_reducible apply Leads.next
    | with_reducible exact Leads.fault _
    | with_reducible apply OptLeads.some
    | with_reducible exact OptLeads.none
    | with_reducible apply OptLeads.map
    | with_reducible apply sendConfig_canonical
    | with_reducible apply setF_canonical
    | with_reducible apply setF_canonical
    | extract_lets
    | (simp only [↓State.canonical_mk]; with_reducible apply Good.of)
    | split
    | (with_reducible intro _)
    | dsimp only
    | dsimp +zetaDelta only

theorem takeSpare_canonical (n slot : Nat) {s : State} (hs : State.canonical s) :
    State.canonical (takeSpare n slot s) := by
  unfold takeSpare
  repeat' first
    | with_reducible assumption
    | with_reducible apply Leads.next
    | with_reducible exact Leads.fault _
    | with_reducible apply OptLeads.some
    | with_reducible exact OptLeads.none
    | with_reducible apply OptLeads.map
    | with_reducible apply writeSub_canonical
    | with_reducible apply startRebuild_canonical
    | with_reducible apply newDrive_canonical
    | extract_lets
    | (simp only [↓State.canonical_mk]; with_reducible apply Good.of)
    | split
    | (with_reducible intro _)
    | dsimp only
    | dsimp +zetaDelta only

theorem markErased_canonical (slot : Nat) {s : State} (hs : State.canonical s) :
    State.canonical (markErased slot s) := by
  unfold markErased
  repeat' first
    | with_reducible assumption
    | with_reducible apply Leads.next
    | with_reducible exact Leads.fault _
    | with_reducible apply OptLeads.some
    | with_reducible exact OptLeads.none
    | with_reducible apply OptLeads.map
    | with_reducible apply takeSpare_canonical
    | with_reducible apply sendConfig_canonical
    | with_reducible apply startEval_canonical
    | with_reducible apply writeErased_canonical
    | with_reducible apply raiseGeneration_canonical
    | with_reducible apply stat_canonical
    | with_reducible apply onSlot_canonical
    | with_reducible apply logEvent_canonical
    | with_reducible apply setF_canonical
    | with_reducible apply setF_canonical
    | extract_lets
    | (simp only [↓State.canonical_mk]; with_reducible apply Good.of)
    | split
    | (with_reducible intro _)
    | dsimp only
    | dsimp +zetaDelta only

theorem copyBack_canonical {s : State} (hs : State.canonical s) :
    State.canonical (copyBack s) := by
  unfold copyBack
  repeat' first
    | with_reducible assumption
    | with_reducible apply Leads.next
    | with_reducible exact Leads.fault _
    | with_reducible apply OptLeads.some
    | with_reducible exact OptLeads.none
    | with_reducible apply OptLeads.map
    | with_reducible apply startFrontier_canonical
    | extract_lets
    | (simp only [↓State.canonical_mk]; with_reducible apply Good.of)
    | split
    | (with_reducible intro _)
    | dsimp only
    | dsimp +zetaDelta only

theorem failAttempt_canonical (n : Nat) {s : State} (hs : State.canonical s) :
    State.canonical (failAttempt n s) := by
  unfold failAttempt
  repeat' first
    | with_reducible assumption
    | with_reducible apply Leads.next
    | with_reducible exact Leads.fault _
    | with_reducible apply OptLeads.some
    | with_reducible exact OptLeads.none
    | with_reducible apply OptLeads.map
    | with_reducible apply markErased_canonical
    | with_reducible apply writeSpin_canonical
    | with_reducible apply writeEnables_canonical
    | with_reducible apply onSlot_canonical
    | with_reducible apply logPlain_canonical
    | with_reducible apply setF_canonical
    | with_reducible apply setF_canonical
    | extract_lets
    | (simp only [↓State.canonical_mk]; with_reducible apply Good.of)
    | split
    | (with_reducible intro _)
    | dsimp only
    | dsimp +zetaDelta only

end Sys2Proof.Machine
end

