-- ==== Sys2Proof/Laws/CanonPower.lean ====
section
/-! SUPPORT. The canonical form is kept by the operations of Machine/Power.lean. -/

set_option linter.all false

namespace Sys2Proof.Machine

theorem execLineEvaluation_canonical (vrms freq : Nat) (inlet : Int) {s : State} (hs : State.canonical s) :
    Leads State.canonical (execLineEvaluation vrms freq inlet s) := by
  unfold execLineEvaluation
  repeat' first
    | with_reducible assumption
    | with_reducible apply Leads.next
    | with_reducible exact Leads.fault _
    | with_reducible apply OptLeads.some
    | with_reducible exact OptLeads.none
    | with_reducible apply OptLeads.map
    | with_reducible apply hostEvent_canonical
    | with_reducible apply loopAtOnce_canonical
    | with_reducible apply useFree_canonical
    | with_reducible apply when_canonical
    | with_reducible apply event_canonical
    | with_reducible apply setF_canonical
    | with_reducible apply setF_canonical
    | with_reducible apply when_canonical
    | extract_lets
    | (simp only [↓State.canonical_mk]; with_reducible apply Good.of)
    | split
    | (with_reducible intro _)
    | dsimp only
    | dsimp +zetaDelta only

theorem openAll_canonical {s : State} (hs : State.canonical s) :
    State.canonical (openAll s) := by
  unfold openAll
  repeat' first
    | with_reducible assumption
    | with_reducible apply Leads.next
    | with_reducible exact Leads.fault _
    | with_reducible apply OptLeads.some
    | with_reducible exact OptLeads.none
    | with_reducible apply OptLeads.map
    | with_reducible apply openRails_canonical
    | with_reducible apply forEach_canonical
    | with_reducible apply forEach_canonical
    | extract_lets
    | (simp only [↓State.canonical_mk]; with_reducible apply Good.of)
    | split
    | (with_reducible intro _)
    | dsimp only
    | dsimp +zetaDelta only

theorem execMainsLost_canonical {s : State} (hs : State.canonical s) :
    Leads State.canonical (execMainsLost s) := by
  unfold execMainsLost
  repeat' first
    | with_reducible assumption
    | with_reducible apply Leads.next
    | with_reducible exact Leads.fault _
    | with_reducible apply OptLeads.some
    | with_reducible exact OptLeads.none
    | with_reducible apply OptLeads.map
    | with_reducible apply openAll_canonical
    | with_reducible apply enterDestaging_canonical
    | with_reducible apply fanSettleAll_canonical
    | with_reducible apply hostEvent_canonical
    | with_reducible apply logPlain_canonical
    | with_reducible apply event_canonical
    | with_reducible apply setF_canonical
    | with_reducible apply setF_canonical
    | extract_lets
    | (simp only [↓State.canonical_mk]; with_reducible apply Good.of)
    | split
    | (with_reducible intro _)
    | dsimp only
    | dsimp +zetaDelta only

theorem softStart_canonical {s : State} (hs : State.canonical s) :
    State.canonical (softStart s) := by
  unfold softStart
  repeat' first
    | with_reducible assumption
    | with_reducible apply Leads.next
    | with_reducible exact Leads.fault _
    | with_reducible apply OptLeads.some
    | with_reducible exact OptLeads.none
    | with_reducible apply OptLeads.map
    | with_reducible apply when_canonical
    | with_reducible apply setF_canonical
    | with_reducible apply setF_canonical
    | with_reducible apply when_canonical
    | extract_lets
    | (simp only [↓State.canonical_mk]; with_reducible apply Good.of)
    | split
    | (with_reducible intro _)
    | dsimp only
    | dsimp +zetaDelta only

theorem execMainsReturn_canonical {s : State} (hs : State.canonical s) :
    Leads State.canonical (execMainsReturn s) := by
  unfold execMainsReturn
  repeat' first
    | with_reducible assumption
    | with_reducible apply Leads.next
    | with_reducible exact Leads.fault _
    | with_reducible apply OptLeads.some
    | with_reducible exact OptLeads.none
    | with_reducible apply OptLeads.map
    | with_reducible apply softStart_canonical
    | with_reducible apply hostEvent_canonical
    | with_reducible apply event_canonical
    | with_reducible apply setF_canonical
    | with_reducible apply setF_canonical
    | extract_lets
    | (simp only [↓State.canonical_mk]; with_reducible apply Good.of)
    | split
    | (with_reducible intro _)
    | dsimp only
    | dsimp +zetaDelta only

theorem execConverterOverload_canonical {s : State} (hs : State.canonical s) :
    Leads State.canonical (execConverterOverload s) := by
  unfold execConverterOverload
  repeat' first
    | with_reducible assumption
    | with_reducible apply Leads.next
    | with_reducible exact Leads.fault _
    | with_reducible apply OptLeads.some
    | with_reducible exact OptLeads.none
    | with_reducible apply OptLeads.map
    | with_reducible apply hostEvent_canonical
    | with_reducible apply event_canonical
    | with_reducible apply setF_canonical
    | with_reducible apply setF_canonical
    | extract_lets
    | (simp only [↓State.canonical_mk]; with_reducible apply Good.of)
    | split
    | (with_reducible intro _)
    | dsimp only
    | dsimp +zetaDelta only

theorem keepShedOk_canonical {s : State} (hs : State.canonical s) :
    State.canonical (keepShedOk s) := by
  unfold keepShedOk
  repeat' first
    | with_reducible assumption
    | with_reducible apply Leads.next
    | with_reducible exact Leads.fault _
    | with_reducible apply OptLeads.some
    | with_reducible exact OptLeads.none
    | with_reducible apply OptLeads.map
    | with_reducible apply writeShedOk_canonical
    | with_reducible apply when_canonical
    | with_reducible apply when_canonical
    | extract_lets
    | (simp only [↓State.canonical_mk]; with_reducible apply Good.of)
    | split
    | (with_reducible intro _)
    | dsimp only
    | dsimp +zetaDelta only

theorem execSlotShed_canonical (busLow : Bool) {s : State} (hs : State.canonical s) :
    Leads State.canonical (execSlotShed busLow s) := by
  unfold execSlotShed
  repeat' first
    | with_reducible assumption
    | with_reducible apply Leads.next
    | with_reducible exact Leads.fault _
    | with_reducible apply OptLeads.some
    | with_reducible exact OptLeads.none
    | with_reducible apply OptLeads.map
    | with_reducible apply keepShedOk_canonical
    | with_reducible apply writeEnables_canonical
    | with_reducible apply openRails_canonical
    | with_reducible apply sendSlotState_canonical
    | with_reducible apply event_canonical
    | with_reducible apply setF_canonical
    | with_reducible apply setF_canonical
    | extract_lets
    | (simp only [↓State.canonical_mk]; with_reducible apply Good.of)
    | split
    | (with_reducible intro _)
    | dsimp only
    | dsimp +zetaDelta only

theorem execOverloadClear_canonical {s : State} (hs : State.canonical s) :
    Leads State.canonical (execOverloadClear s) := by
  unfold execOverloadClear
  repeat' first
    | with_reducible assumption
    | with_reducible apply Leads.next
    | with_reducible exact Leads.fault _
    | with_reducible apply OptLeads.some
    | with_reducible exact OptLeads.none
    | with_reducible apply OptLeads.map
    | with_reducible apply hostEvent_canonical
    | with_reducible apply when_canonical
    | with_reducible apply setF_canonical
    | with_reducible apply setF_canonical
    | with_reducible apply when_canonical
    | extract_lets
    | (simp only [↓State.canonical_mk]; with_reducible apply Good.of)
    | split
    | (with_reducible intro _)
    | dsimp only
    | dsimp +zetaDelta only

theorem execConverterEnable_canonical (en : Bool) {s : State} (hs : State.canonical s) :
    Leads State.canonical (execConverterEnable en s) := by
  unfold execConverterEnable
  repeat' first
    | with_reducible assumption
    | with_reducible apply Leads.next
    | with_reducible exact Leads.fault _
    | with_reducible apply OptLeads.some
    | with_reducible exact OptLeads.none
    | with_reducible apply OptLeads.map
    | with_reducible apply softStart_canonical
    | with_reducible apply fanSettleAll_canonical
    | with_reducible apply land_canonical
    | with_reducible refine Leads.elim (land_canonical _ _ _ ?_ ?_) (by with_reducible assumption)
    | with_reducible apply setF_canonical
    | with_reducible apply setF_canonical
    | extract_lets
    | (simp only [↓State.canonical_mk]; with_reducible apply Good.of)
    | split
    | (with_reducible intro _)
    | dsimp only
    | dsimp +zetaDelta only

theorem execConverterRegulating_canonical {s : State} (hs : State.canonical s) :
    Leads State.canonical (execConverterRegulating s) := by
  unfold execConverterRegulating
  repeat' first
    | with_reducible assumption
    | with_reducible apply Leads.next
    | with_reducible exact Leads.fault _
    | with_reducible apply OptLeads.some
    | with_reducible exact OptLeads.none
    | with_reducible apply OptLeads.map
    | with_reducible apply fanSettleAll_canonical
    | with_reducible apply requestSlot_canonical
    | with_reducible apply forEach_canonical
    | with_reducible apply setF_canonical
    | with_reducible apply setF_canonical
    | with_reducible apply forEach_canonical
    | extract_lets
    | (simp only [↓State.canonical_mk]; with_reducible apply Good.of)
    | split
    | (with_reducible intro _)
    | dsimp only
    | dsimp +zetaDelta only

theorem execConvFault_canonical {s : State} (hs : State.canonical s) :
    Leads State.canonical (execConvFault s) := by
  unfold execConvFault
  repeat' first
    | with_reducible assumption
    | with_reducible apply Leads.next
    | with_reducible exact Leads.fault _
    | with_reducible apply OptLeads.some
    | with_reducible exact OptLeads.none
    | with_reducible apply OptLeads.map
    | with_reducible apply settle_canonical
    | with_reducible apply raiseFault_canonical
    | with_reducible apply fanSettleAll_canonical
    | with_reducible apply hostEvent_canonical
    | with_reducible apply event_canonical
    | with_reducible apply setF_canonical
    | with_reducible apply setF_canonical
    | extract_lets
    | (simp only [↓State.canonical_mk]; with_reducible apply Good.of)
    | split
    | (with_reducible intro _)
    | dsimp only
    | dsimp +zetaDelta only

theorem execStandbyOffsetWrite_canonical (v : Bool) {s : State} (hs : State.canonical s) :
    Leads State.canonical (execStandbyOffsetWrite v s) := by
  unfold execStandbyOffsetWrite
  repeat' first
    | with_reducible assumption
    | with_reducible apply Leads.next
    | with_reducible exact Leads.fault _
    | with_reducible apply OptLeads.some
    | with_reducible exact OptLeads.none
    | with_reducible apply OptLeads.map
    | with_reducible apply setOffset_canonical
    | with_reducible apply land_canonical
    | with_reducible refine Leads.elim (land_canonical _ _ _ ?_ ?_) (by with_reducible assumption)
    | extract_lets
    | (simp only [↓State.canonical_mk]; with_reducible apply Good.of)
    | split
    | (with_reducible intro _)
    | dsimp only
    | dsimp +zetaDelta only

theorem execSlotTrip_canonical (slot : Fin 108) (rail12 : Bool) {s : State} (hs : State.canonical s) :
    Leads State.canonical (execSlotTrip slot rail12 s) := by
  unfold execSlotTrip
  repeat' first
    | with_reducible assumption
    | with_reducible apply Leads.next
    | with_reducible exact Leads.fault _
    | with_reducible apply OptLeads.some
    | with_reducible exact OptLeads.none
    | with_reducible apply OptLeads.map
    | with_reducible apply failAttempt_canonical
    | with_reducible apply openRails_canonical
    | with_reducible apply onSlot_canonical
    | with_reducible apply event_canonical
    | with_reducible apply setF_canonical
    | with_reducible apply setF_canonical
    | extract_lets
    | (simp only [↓State.canonical_mk]; with_reducible apply Good.of)
    | split
    | (with_reducible intro _)
    | dsimp only
    | dsimp +zetaDelta only

theorem execCooldownEnd_canonical (slot : Fin 108) {s : State} (hs : State.canonical s) :
    Leads State.canonical (execCooldownEnd slot s) := by
  unfold execCooldownEnd
  repeat' first
    | with_reducible assumption
    | with_reducible apply Leads.next
    | with_reducible exact Leads.fault _
    | with_reducible apply OptLeads.some
    | with_reducible exact OptLeads.none
    | with_reducible apply OptLeads.map
    | with_reducible apply setF_canonical
    | with_reducible apply setF_canonical
    | extract_lets
    | (simp only [↓State.canonical_mk]; with_reducible apply Good.of)
    | split
    | (with_reducible intro _)
    | dsimp only
    | dsimp +zetaDelta only

theorem execSlotEnableWrite_canonical (slot : Fin 108) (en12 en5 : Bool) {s : State} (hs : State.canonical s) :
    Leads State.canonical (execSlotEnableWrite slot en12 en5 s) := by
  unfold execSlotEnableWrite
  repeat' first
    | with_reducible assumption
    | with_reducible apply Leads.next
    | with_reducible exact Leads.fault _
    | with_reducible apply OptLeads.some
    | with_reducible exact OptLeads.none
    | with_reducible apply OptLeads.map
    | with_reducible apply writeEnables_canonical
    | with_reducible apply land_canonical
    | with_reducible refine Leads.elim (land_canonical _ _ _ ?_ ?_) (by with_reducible assumption)
    | extract_lets
    | (simp only [↓State.canonical_mk]; with_reducible apply Good.of)
    | split
    | (with_reducible intro _)
    | dsimp only
    | dsimp +zetaDelta only

theorem execSlotDisableWrite_canonical (slot : Fin 108) (en12 en5 : Bool) {s : State} (hs : State.canonical s) :
    Leads State.canonical (execSlotDisableWrite slot en12 en5 s) := by
  unfold execSlotDisableWrite
  repeat' first
    | with_reducible assumption
    | with_reducible apply Leads.next
    | with_reducible exact Leads.fault _
    | with_reducible apply OptLeads.some
    | with_reducible exact OptLeads.none
    | with_reducible apply OptLeads.map
    | with_reducible apply writeEnables_canonical
    | with_reducible apply land_canonical
    | with_reducible refine Leads.elim (land_canonical _ _ _ ?_ ?_) (by with_reducible assumption)
    | extract_lets
    | (simp only [↓State.canonical_mk]; with_reducible apply Good.of)
    | split
    | (with_reducible intro _)
    | dsimp only
    | dsimp +zetaDelta only

theorem execSpinWrite_canonical (slot : Fin 108) {s : State} (hs : State.canonical s) :
    Leads State.canonical (execSpinWrite slot s) := by
  unfold execSpinWrite
  repeat' first
    | with_reducible assumption
    | with_reducible apply Leads.next
    | with_reducible exact Leads.fault _
    | with_reducible apply OptLeads.some
    | with_reducible exact OptLeads.none
    | with_reducible apply OptLeads.map
    | with_reducible apply writeSpin_canonical
    | with_reducible apply land_canonical
    | with_reducible refine Leads.elim (land_canonical _ _ _ ?_ ?_) (by with_reducible assumption)
    | extract_lets
    | (simp only [↓State.canonical_mk]; with_reducible apply Good.of)
    | split
    | (with_reducible intro _)
    | dsimp only
    | dsimp +zetaDelta only

theorem closeRails_canonical (n : Nat) {s : State} (hs : State.canonical s) :
    State.canonical (closeRails n s) := by
  unfold closeRails
  repeat' first
    | with_reducible assumption
    | with_reducible apply Leads.next
    | with_reducible exact Leads.fault _
    | with_reducible apply OptLeads.some
    | with_reducible exact OptLeads.none
    | with_reducible apply OptLeads.map
    | with_reducible apply onSlot_canonical
    | with_reducible apply when_canonical
    | with_reducible apply setF_canonical
    | with_reducible apply setF_canonical
    | with_reducible apply when_canonical
    | extract_lets
    | (simp only [↓State.canonical_mk]; with_reducible apply Good.of)
    | split
    | (with_reducible intro _)
    | dsimp only
    | dsimp +zetaDelta only

theorem execGate1Admit_canonical {s : State} (hs : State.canonical s) :
    Leads State.canonical (execGate1Admit s) := by
  unfold execGate1Admit
  repeat' first
    | with_reducible assumption
    | with_reducible apply Leads.next
    | with_reducible exact Leads.fault _
    | with_reducible apply OptLeads.some
    | with_reducible exact OptLeads.none
    | with_reducible apply OptLeads.map
    | with_reducible apply closeRails_canonical
    | with_reducible apply sendSlotState_canonical
    | extract_lets
    | (simp only [↓State.canonical_mk]; with_reducible apply Good.of)
    | split
    | (with_reducible intro _)
    | dsimp only
    | dsimp +zetaDelta only

theorem execGate2Admit_canonical {s : State} (hs : State.canonical s) :
    Leads State.canonical (execGate2Admit s) := by
  unfold execGate2Admit
  repeat' first
    | with_reducible assumption
    | with_reducible apply Leads.next
    | with_reducible exact Leads.fault _
    | with_reducible apply OptLeads.some
    | with_reducible exact OptLeads.none
    | with_reducible apply OptLeads.map
    | with_reducible apply emit_canonical
    | with_reducible apply setF_canonical
    | with_reducible apply setF_canonical
    | extract_lets
    | (simp only [↓State.canonical_mk]; with_reducible apply Good.of)
    | split
    | (with_reducible intro _)
    | dsimp only
    | dsimp +zetaDelta only

theorem execSpinTimeout_canonical (slot : Fin 108) {s : State} (hs : State.canonical s) :
    Leads State.canonical (execSpinTimeout slot s) := by
  unfold execSpinTimeout
  repeat' first
    | with_reducible assumption
    | with_reducible apply Leads.next
    | with_reducible exact Leads.fault _
    | with_reducible apply OptLeads.some
    | with_reducible exact OptLeads.none
    | with_reducible apply OptLeads.map
    | with_reducible apply failAttempt_canonical
    | with_reducible apply event_canonical
    | with_reducible apply setF_canonical
    | with_reducible apply setF_canonical
    | extract_lets
    | (simp only [↓State.canonical_mk]; with_reducible apply Good.of)
    | split
    | (with_reducible intro _)
    | dsimp only
    | dsimp +zetaDelta only

theorem execSlotLinkTimeout_canonical (slot : Fin 108) {s : State} (hs : State.canonical s) :
    Leads State.canonical (execSlotLinkTimeout slot s) := by
  unfold execSlotLinkTimeout
  repeat' first
    | with_reducible assumption
    | with_reducible apply Leads.next
    | with_reducible exact Leads.fault _
    | with_reducible apply OptLeads.some
    | with_reducible exact OptLeads.none
    | with_reducible apply OptLeads.map
    | with_reducible apply failAttempt_canonical
    | extract_lets
    | (simp only [↓State.canonical_mk]; with_reducible apply Good.of)
    | split
    | (with_reducible intro _)
    | dsimp only
    | dsimp +zetaDelta only

theorem execSpinupRetry_canonical (slot : Fin 108) {s : State} (hs : State.canonical s) :
    Leads State.canonical (execSpinupRetry slot s) := by
  unfold execSpinupRetry
  repeat' first
    | with_reducible assumption
    | with_reducible apply Leads.next
    | with_reducible exact Leads.fault _
    | with_reducible apply OptLeads.some
    | with_reducible exact OptLeads.none
    | with_reducible apply OptLeads.map
    | with_reducible apply requestSlot_canonical
    | with_reducible apply onSlot_canonical
    | extract_lets
    | (simp only [↓State.canonical_mk]; with_reducible apply Good.of)
    | split
    | (with_reducible intro _)
    | dsimp only
    | dsimp +zetaDelta only

theorem execSpinupFailure_canonical (slot : Fin 108) {s : State} (hs : State.canonical s) :
    Leads State.canonical (execSpinupFailure slot s) := by
  unfold execSpinupFailure
  repeat' first
    | with_reducible assumption
    | with_reducible apply Leads.next
    | with_reducible exact Leads.fault _
    | with_reducible apply OptLeads.some
    | with_reducible exact OptLeads.none
    | with_reducible apply OptLeads.map
    | with_reducible apply failAttempt_canonical
    | extract_lets
    | (simp only [↓State.canonical_mk]; with_reducible apply Good.of)
    | split
    | (with_reducible intro _)
    | dsimp only
    | dsimp +zetaDelta only

theorem execSlotOffTimeout_canonical (slot : Fin 108) {s : State} (hs : State.canonical s) :
    Leads State.canonical (execSlotOffTimeout slot s) := by
  unfold execSlotOffTimeout
  repeat' first
    | with_reducible assumption
    | with_reducible apply Leads.next
    | with_reducible exact Leads.fault _
    | with_reducible apply OptLeads.some
    | with_reducible exact OptLeads.none
    | with_reducible apply OptLeads.map
    | with_reducible apply openRails_canonical
    | extract_lets
    | (simp only [↓State.canonical_mk]; with_reducible apply Good.of)
    | split
    | (with_reducible intro _)
    | dsimp only
    | dsimp +zetaDelta only

theorem stopEnds_canonical (n : Nat) {s : State} (hs : State.canonical s) :
    State.canonical (stopEnds n s) := by
  unfold stopEnds
  repeat' first
    | with_reducible assumption
    | with_reducible apply Leads.next
    | with_reducible exact Leads.fault _
    | with_reducible apply OptLeads.some
    | with_reducible exact OptLeads.none
    | with_reducible apply OptLeads.map
    | with_reducible apply writeEnables_canonical
    | with_reducible apply onSlot_canonical
    | extract_lets
    | (simp only [↓State.canonical_mk]; with_reducible apply Good.of)
    | split
    | (with_reducible intro _)
    | dsimp only
    | dsimp +zetaDelta only

theorem execStopUnitTimeout_canonical (slot : Fin 108) {s : State} (hs : State.canonical s) :
    Leads State.canonical (execStopUnitTimeout slot s) := by
  unfold execStopUnitTimeout
  repeat' first
    | with_reducible assumption
    | with_reducible apply Leads.next
    | with_reducible exact Leads.fault _
    | with_reducible apply OptLeads.some
    | with_reducible exact OptLeads.none
    | with_reducible apply OptLeads.map
    | with_reducible apply stopEnds_canonical
    | extract_lets
    | (simp only [↓State.canonical_mk]; with_reducible apply Good.of)
    | split
    | (with_reducible intro _)
    | dsimp only
    | dsimp +zetaDelta only

theorem execModuleUnmate_canonical {s : State} (hs : State.canonical s) :
    Leads State.canonical (execModuleUnmate s) := by
  unfold execModuleUnmate
  repeat' first
    | with_reducible assumption
    | with_reducible apply Leads.next
    | with_reducible exact Leads.fault _
    | with_reducible apply OptLeads.some
    | with_reducible exact OptLeads.none
    | with_reducible apply OptLeads.map
    | with_reducible apply openAll_canonical
    | with_reducible apply settle_canonical
    | with_reducible apply releaseActive_canonical
    | with_reducible apply raiseFault_canonical
    | with_reducible apply fanRelease_canonical
    | with_reducible apply event_canonical
    | with_reducible apply setF_canonical
    | with_reducible apply setF_canonical
    | extract_lets
    | (simp only [↓State.canonical_mk]; with_reducible apply Good.of)
    | split
    | (with_reducible intro _)
    | dsimp only
    | dsimp +zetaDelta only

theorem execHostLinkDownFault_canonical {s : State} (hs : State.canonical s) :
    Leads State.canonical (execHostLinkDownFault s) := by
  unfold execHostLinkDownFault
  repeat' first
    | with_reducible assumption
    | with_reducible apply Leads.next
    | with_reducible exact Leads.fault _
    | with_reducible apply OptLeads.some
    | with_reducible exact OptLeads.none
    | with_reducible apply OptLeads.map
    | with_reducible apply settle_canonical
    | with_reducible apply raiseFault_canonical
    | extract_lets
    | (simp only [↓State.canonical_mk]; with_reducible apply Good.of)
    | split
    | (with_reducible intro _)
    | dsimp only
    | dsimp +zetaDelta only

end Sys2Proof.Machine
end

