-- ==== Sys2Proof/Laws/CanonFlock.lean ====
section
/-! SUPPORT. The canonical form is kept by the operations of Machine/Flock.lean. -/

set_option linter.all false

namespace Sys2Proof.Machine

theorem dropFreed_canonical {s : State} (hs : State.canonical s) :
    State.canonical (dropFreed s) := by
  unfold dropFreed
  repeat' first
    | with_reducible assumption
    | with_reducible apply Leads.next
    | with_reducible exact Leads.fault _
    | with_reducible apply OptLeads.some
    | with_reducible exact OptLeads.none
    | with_reducible apply OptLeads.map
    | extract_lets
    | (simp only [↓State.canonical_mk]; with_reducible apply Good.of)
    | split
    | (with_reducible intro _)
    | dsimp only
    | dsimp +zetaDelta only

theorem voidRecords_canonical (which : Delta → Bool) {s : State} (hs : State.canonical s) :
    State.canonical (voidRecords which s) := by
  unfold voidRecords
  repeat' first
    | with_reducible assumption
    | with_reducible apply Leads.next
    | with_reducible exact Leads.fault _
    | with_reducible apply OptLeads.some
    | with_reducible exact OptLeads.none
    | with_reducible apply OptLeads.map
    | with_reducible apply dropFreed_canonical
    | with_reducible apply writeBytes_canonical
    | with_reducible apply forEach_canonical
    | with_reducible apply forEach_canonical
    | extract_lets
    | (simp only [↓State.canonical_mk]; with_reducible apply Good.of)
    | split
    | (with_reducible intro _)
    | dsimp only
    | dsimp +zetaDelta only

theorem onGroup_canonical (id : Nat) (f : FlockGroup → FlockGroup) {s : State} (hs : State.canonical s) :
    State.canonical (onGroup id f s) := by
  unfold onGroup
  repeat' first
    | with_reducible assumption
    | with_reducible apply Leads.next
    | with_reducible exact Leads.fault _
    | with_reducible apply OptLeads.some
    | with_reducible exact OptLeads.none
    | with_reducible apply OptLeads.map
    | with_reducible apply id_canonical
    | extract_lets
    | (simp only [↓State.canonical_mk]; with_reducible apply Good.of)
    | split
    | (with_reducible intro _)
    | dsimp only
    | dsimp +zetaDelta only

theorem writeDelta_canonical (d : Delta) (data : List Block) {s : State} (hs : State.canonical s) :
    State.canonical (writeDelta d data s) := by
  unfold writeDelta
  repeat' first
    | with_reducible assumption
    | with_reducible apply Leads.next
    | with_reducible exact Leads.fault _
    | with_reducible apply OptLeads.some
    | with_reducible exact OptLeads.none
    | with_reducible apply OptLeads.map
    | with_reducible apply writeBytes_canonical
    | with_reducible apply forEach_canonical
    | with_reducible apply forEach_canonical
    | extract_lets
    | (simp only [↓State.canonical_mk]; with_reducible apply Good.of)
    | split
    | (with_reducible intro _)
    | dsimp only
    | dsimp +zetaDelta only

theorem shipDelta_canonical (a : Nat) (d : Delta) {s : State} (hs : State.canonical s) :
    State.canonical (shipDelta a d s) := by
  unfold shipDelta
  repeat' first
    | with_reducible assumption
    | with_reducible apply Leads.next
    | with_reducible exact Leads.fault _
    | with_reducible apply OptLeads.some
    | with_reducible exact OptLeads.none
    | with_reducible apply OptLeads.map
    | with_reducible apply sendFrame_canonical
    | with_reducible apply forEach_canonical
    | with_reducible apply forEach_canonical
    | extract_lets
    | (simp only [↓State.canonical_mk]; with_reducible apply Good.of)
    | split
    | (with_reducible intro _)
    | dsimp only
    | dsimp +zetaDelta only

theorem shipDeltas_canonical (again : Bool) {s : State} (hs : State.canonical s) :
    State.canonical (shipDeltas again s) := by
  unfold shipDeltas
  repeat' first
    | with_reducible assumption
    | with_reducible apply Leads.next
    | with_reducible exact Leads.fault _
    | with_reducible apply OptLeads.some
    | with_reducible exact OptLeads.none
    | with_reducible apply OptLeads.map
    | with_reducible apply shipDelta_canonical
    | with_reducible apply forEach_canonical
    | with_reducible apply forEach_canonical
    | extract_lets
    | (simp only [↓State.canonical_mk]; with_reducible apply Good.of)
    | split
    | (with_reducible intro _)
    | dsimp only
    | dsimp +zetaDelta only

theorem markStale_canonical (id : Nat) {s : State} (hs : State.canonical s) :
    State.canonical (markStale id s) := by
  unfold markStale
  repeat' first
    | with_reducible assumption
    | with_reducible apply Leads.next
    | with_reducible exact Leads.fault _
    | with_reducible apply OptLeads.some
    | with_reducible exact OptLeads.none
    | with_reducible apply OptLeads.map
    | with_reducible apply onGroup_canonical
    | with_reducible apply voidRecords_canonical
    | with_reducible apply floodFrame_canonical
    | with_reducible apply hostEvent_canonical
    | with_reducible apply id_canonical
    | extract_lets
    | (simp only [↓State.canonical_mk]; with_reducible apply Good.of)
    | split
    | (with_reducible intro _)
    | dsimp only
    | dsimp +zetaDelta only

theorem wakeParity_canonical {s : State} (hs : State.canonical s) :
    State.canonical (wakeParity s) := by
  unfold wakeParity
  repeat' first
    | with_reducible assumption
    | with_reducible apply Leads.next
    | with_reducible exact Leads.fault _
    | with_reducible apply OptLeads.some
    | with_reducible exact OptLeads.none
    | with_reducible apply OptLeads.map
    | with_reducible apply sendFrame_canonical
    | with_reducible apply id_canonical
    | extract_lets
    | (simp only [↓State.canonical_mk]; with_reducible apply Good.of)
    | split
    | (with_reducible intro _)
    | dsimp only
    | dsimp +zetaDelta only

theorem logDeltas_canonical (v intentSeq : Nat) (units : List (Nat × List Block)) {s : State} (hs : State.canonical s) :
    State.canonical (logDeltas v intentSeq units s) := by
  unfold logDeltas
  repeat' first
    | with_reducible assumption
    | with_reducible apply Leads.next
    | with_reducible exact Leads.fault _
    | with_reducible apply OptLeads.some
    | with_reducible exact OptLeads.none
    | with_reducible apply OptLeads.map
    | with_reducible apply wakeParity_canonical
    | with_reducible apply shipDeltas_canonical
    | with_reducible apply writeDelta_canonical
    | with_reducible apply onGroup_canonical
    | with_reducible apply forEach_canonical
    | with_reducible apply forEach_canonical
    | with_reducible apply id_canonical
    | extract_lets
    | (simp only [↓State.canonical_mk]; with_reducible apply Good.of)
    | split
    | (with_reducible intro _)
    | dsimp only
    | dsimp +zetaDelta only

end Sys2Proof.Machine
end

