-- ==== Sys2Proof/Laws/CanonOxe.lean ====
section
/-! SUPPORT. The canonical form is kept by the operations of Machine/Oxe.lean. -/

set_option linter.all false

namespace Sys2Proof.Machine

theorem setEng_canonical (e st : Nat) {s : State} (hs : State.canonical s) :
    State.canonical (setEng e st s) := by
  unfold setEng
  repeat' first
    | with_reducible assumption
    | with_reducible apply Leads.next
    | with_reducible exact Leads.fault _
    | with_reducible apply OptLeads.some
    | with_reducible exact OptLeads.none
    | with_reducible apply OptLeads.map
    | with_reducible apply setF_canonical
    | with_reducible apply setF_canonical
    | extract_lets
    | (simp only [↓State.canonical_mk]; with_reducible apply Good.of)
    | split
    | (with_reducible intro _)
    | dsimp only
    | dsimp +zetaDelta only

theorem onEng_canonical (e : Nat) (f : Engine → Engine) {s : State} (hs : State.canonical s) :
    State.canonical (onEng e f s) := by
  unfold onEng
  repeat' first
    | with_reducible assumption
    | with_reducible apply Leads.next
    | with_reducible exact Leads.fault _
    | with_reducible apply OptLeads.some
    | with_reducible exact OptLeads.none
    | with_reducible apply OptLeads.map
    | extract_lets
    | (simp only [↓State.canonical_mk]; with_reducible apply Good.of)
    | split
    | (with_reducible intro _)
    | dsimp only
    | dsimp +zetaDelta only

theorem returnQueue_canonical (e : Nat) {s : State} (hs : State.canonical s) :
    State.canonical (returnQueue e s) := by
  unfold returnQueue
  repeat' first
    | with_reducible assumption
    | with_reducible apply Leads.next
    | with_reducible exact Leads.fault _
    | with_reducible apply OptLeads.some
    | with_reducible exact OptLeads.none
    | with_reducible apply OptLeads.map
    | with_reducible apply onEng_canonical
    | extract_lets
    | (simp only [↓State.canonical_mk]; with_reducible apply Good.of)
    | split
    | (with_reducible intro _)
    | dsimp only
    | dsimp +zetaDelta only

theorem fillTarget_canonical (n : Nat) {s : State} (hs : State.canonical s) :
    State.canonical (fillTarget n s) := by
  induction n generalizing s with
  | zero =>
    unfold fillTarget
    repeat' first
      | with_reducible assumption
      | with_reducible apply Leads.next
      | with_reducible exact Leads.fault _
      | with_reducible apply OptLeads.some
      | with_reducible exact OptLeads.none
      | with_reducible apply OptLeads.map
      | with_reducible apply returnQueue_canonical
      | with_reducible apply onEng_canonical
      | with_reducible apply setEng_canonical
      | with_reducible apply ungate_canonical
      | extract_lets
      | (simp only [↓State.canonical_mk]; with_reducible apply Good.of)
      | split
      | (with_reducible intro _)
      | dsimp only
      | dsimp +zetaDelta only
  | succ n ih =>
    unfold fillTarget
    repeat' first
      | with_reducible assumption
      | with_reducible apply Leads.next
      | with_reducible exact Leads.fault _
      | with_reducible apply OptLeads.some
      | with_reducible exact OptLeads.none
      | with_reducible apply OptLeads.map
      | with_reducible apply ih
      | with_reducible apply returnQueue_canonical
      | with_reducible apply onEng_canonical
      | with_reducible apply setEng_canonical
      | with_reducible apply ungate_canonical
      | extract_lets
      | (simp only [↓State.canonical_mk]; with_reducible apply Good.of)
      | split
      | (with_reducible intro _)
      | dsimp only
      | dsimp +zetaDelta only

theorem keepTarget_canonical {s : State} (hs : State.canonical s) :
    State.canonical (keepTarget s) := by
  unfold keepTarget
  repeat' first
    | with_reducible assumption
    | with_reducible apply Leads.next
    | with_reducible exact Leads.fault _
    | with_reducible apply OptLeads.some
    | with_reducible exact OptLeads.none
    | with_reducible apply OptLeads.map
    | with_reducible apply fillTarget_canonical
    | extract_lets
    | (simp only [↓State.canonical_mk]; with_reducible apply Good.of)
    | split
    | (with_reducible intro _)
    | dsimp only
    | dsimp +zetaDelta only

theorem retireEngine_canonical (e : Nat) {s : State} (hs : State.canonical s) :
    State.canonical (retireEngine e s) := by
  unfold retireEngine
  repeat' first
    | with_reducible assumption
    | with_reducible apply Leads.next
    | with_reducible exact Leads.fault _
    | with_reducible apply OptLeads.some
    | with_reducible exact OptLeads.none
    | with_reducible apply OptLeads.map
    | with_reducible apply keepTarget_canonical
    | with_reducible apply returnQueue_canonical
    | with_reducible apply onEng_canonical
    | with_reducible apply setEng_canonical
    | with_reducible apply retireIsland_canonical
    | with_reducible apply raiseFault_canonical
    | with_reducible apply pushRecord_canonical
    | with_reducible apply when_canonical
    | with_reducible apply event_canonical
    | with_reducible apply when_canonical
    | extract_lets
    | (simp only [↓State.canonical_mk]; with_reducible apply Good.of)
    | split
    | (with_reducible intro _)
    | dsimp only
    | dsimp +zetaDelta only

theorem settlePause_canonical (e : Nat) {s : State} (hs : State.canonical s) :
    State.canonical (settlePause e s) := by
  unfold settlePause
  repeat' first
    | with_reducible assumption
    | with_reducible apply Leads.next
    | with_reducible exact Leads.fault _
    | with_reducible apply OptLeads.some
    | with_reducible exact OptLeads.none
    | with_reducible apply OptLeads.map
    | with_reducible apply keepTarget_canonical
    | with_reducible apply returnQueue_canonical
    | with_reducible apply setEng_canonical
    | extract_lets
    | (simp only [↓State.canonical_mk]; with_reducible apply Good.of)
    | split
    | (with_reducible intro _)
    | dsimp only
    | dsimp +zetaDelta only

theorem backInService_canonical (e : Nat) {s : State} (hs : State.canonical s) :
    State.canonical (backInService e s) := by
  unfold backInService
  repeat' first
    | with_reducible assumption
    | with_reducible apply Leads.next
    | with_reducible exact Leads.fault _
    | with_reducible apply OptLeads.some
    | with_reducible exact OptLeads.none
    | with_reducible apply OptLeads.map
    | with_reducible apply settlePause_canonical
    | with_reducible apply setEng_canonical
    | extract_lets
    | (simp only [↓State.canonical_mk]; with_reducible apply Good.of)
    | split
    | (with_reducible intro _)
    | dsimp only
    | dsimp +zetaDelta only

theorem settleEngine_canonical (e : Nat) {s : State} (hs : State.canonical s) :
    State.canonical (settleEngine e s) := by
  unfold settleEngine
  repeat' first
    | with_reducible assumption
    | with_reducible apply Leads.next
    | with_reducible exact Leads.fault _
    | with_reducible apply OptLeads.some
    | with_reducible exact OptLeads.none
    | with_reducible apply OptLeads.map
    | with_reducible apply settlePause_canonical
    | with_reducible apply retireEngine_canonical
    | extract_lets
    | (simp only [↓State.canonical_mk]; with_reducible apply Good.of)
    | split
    | (with_reducible intro _)
    | dsimp only
    | dsimp +zetaDelta only

theorem onJob_canonical (j : Nat) (f : Job → Job) {s : State} (hs : State.canonical s) :
    State.canonical (onJob j f s) := by
  unfold onJob
  repeat' first
    | with_reducible assumption
    | with_reducible apply Leads.next
    | with_reducible exact Leads.fault _
    | with_reducible apply OptLeads.some
    | with_reducible exact OptLeads.none
    | with_reducible apply OptLeads.map
    | extract_lets
    | (simp only [↓State.canonical_mk]; with_reducible apply Good.of)
    | split
    | (with_reducible intro _)
    | dsimp only
    | dsimp +zetaDelta only

theorem placeJob_canonical (j : Job) {s : State} (hs : State.canonical s) :
    State.canonical (placeJob j s) := by
  unfold placeJob
  repeat' first
    | with_reducible assumption
    | with_reducible apply Leads.next
    | with_reducible exact Leads.fault _
    | with_reducible apply OptLeads.some
    | with_reducible exact OptLeads.none
    | with_reducible apply OptLeads.map
    | with_reducible apply useFree_canonical
    | with_reducible apply writeBytes_canonical
    | with_reducible apply setF_canonical
    | with_reducible apply setF_canonical
    | extract_lets
    | (simp only [↓State.canonical_mk]; with_reducible apply Good.of)
    | split
    | (with_reducible intro _)
    | dsimp only
    | dsimp +zetaDelta only

theorem postJob_canonical (j : Job) {s : State} (hs : State.canonical s) :
    State.canonical (postJob j s) := by
  unfold postJob
  repeat' first
    | with_reducible assumption
    | with_reducible apply Leads.next
    | with_reducible exact Leads.fault _
    | with_reducible apply OptLeads.some
    | with_reducible exact OptLeads.none
    | with_reducible apply OptLeads.map
    | with_reducible apply placeJob_canonical
    | extract_lets
    | (simp only [↓State.canonical_mk]; with_reducible apply Good.of)
    | split
    | (with_reducible intro _)
    | dsimp only
    | dsimp +zetaDelta only

theorem refillRing_canonical (r : Nat) {s : State} (hs : State.canonical s) :
    State.canonical (refillRing r s) := by
  unfold refillRing
  repeat' first
    | with_reducible assumption
    | with_reducible apply Leads.next
    | with_reducible exact Leads.fault _
    | with_reducible apply OptLeads.some
    | with_reducible exact OptLeads.none
    | with_reducible apply OptLeads.map
    | with_reducible apply placeJob_canonical
    | with_reducible apply forEach_canonical
    | with_reducible apply forEach_canonical
    | extract_lets
    | (simp only [↓State.canonical_mk]; with_reducible apply Good.of)
    | split
    | (with_reducible intro _)
    | dsimp only
    | dsimp +zetaDelta only

theorem recordJob_canonical (j : Job) (engine status mismatch detail : Nat) {s : State} (hs : State.canonical s) :
    State.canonical (recordJob j engine status mismatch detail s) := by
  unfold recordJob
  repeat' first
    | with_reducible assumption
    | with_reducible apply Leads.next
    | with_reducible exact Leads.fault _
    | with_reducible apply OptLeads.some
    | with_reducible exact OptLeads.none
    | with_reducible apply OptLeads.map
    | with_reducible apply writeBytes_canonical
    | with_reducible apply when_canonical
    | with_reducible apply event_canonical
    | with_reducible apply bump_canonical
    | with_reducible apply setF_canonical
    | with_reducible apply setF_canonical
    | with_reducible apply when_canonical
    | extract_lets
    | (simp only [↓State.canonical_mk]; with_reducible apply Good.of)
    | split
    | (with_reducible intro _)
    | dsimp only
    | dsimp +zetaDelta only

theorem dropJob_canonical (j : Nat) {s : State} (hs : State.canonical s) :
    State.canonical (dropJob j s) := by
  unfold dropJob
  repeat' first
    | with_reducible assumption
    | with_reducible apply Leads.next
    | with_reducible exact Leads.fault _
    | with_reducible apply OptLeads.some
    | with_reducible exact OptLeads.none
    | with_reducible apply OptLeads.map
    | extract_lets
    | (simp only [↓State.canonical_mk]; with_reducible apply Good.of)
    | split
    | (with_reducible intro _)
    | dsimp only
    | dsimp +zetaDelta only

theorem enqueue_canonical (e j : Nat) {s : State} (hs : State.canonical s) :
    State.canonical (enqueue e j s) := by
  unfold enqueue
  repeat' first
    | with_reducible assumption
    | with_reducible apply Leads.next
    | with_reducible exact Leads.fault _
    | with_reducible apply OptLeads.some
    | with_reducible exact OptLeads.none
    | with_reducible apply OptLeads.map
    | with_reducible apply onEng_canonical
    | extract_lets
    | (simp only [↓State.canonical_mk]; with_reducible apply Good.of)
    | split
    | (with_reducible intro _)
    | dsimp only
    | dsimp +zetaDelta only

theorem fetchHead_canonical (r : Nat) {s : State} (hs : State.canonical s) :
    State.canonical (fetchHead r s) := by
  unfold fetchHead
  repeat' first
    | with_reducible assumption
    | with_reducible apply Leads.next
    | with_reducible exact Leads.fault _
    | with_reducible apply OptLeads.some
    | with_reducible exact OptLeads.none
    | with_reducible apply OptLeads.map
    | with_reducible apply refillRing_canonical
    | with_reducible apply setF_canonical
    | with_reducible apply setF_canonical
    | extract_lets
    | (simp only [↓State.canonical_mk]; with_reducible apply Good.of)
    | split
    | (with_reducible intro _)
    | dsimp only
    | dsimp +zetaDelta only

theorem placeRun_canonical (id run : Nat) (j : Job) {s : State} (hs : State.canonical s) :
    OptLeads State.canonical (placeRun id run j s) := by
  unfold placeRun
  repeat' first
    | with_reducible assumption
    | with_reducible apply Leads.next
    | with_reducible exact Leads.fault _
    | with_reducible apply OptLeads.some
    | with_reducible exact OptLeads.none
    | with_reducible apply OptLeads.map
    | with_reducible apply enqueue_canonical
    | with_reducible apply onJob_canonical
    | with_reducible apply id_canonical
    | extract_lets
    | (simp only [↓State.canonical_mk]; with_reducible apply Good.of)
    | split
    | (with_reducible intro _)
    | dsimp only
    | dsimp +zetaDelta only

theorem maybeShadow_canonical (id : Nat) (j : Job) {s : State} (hs : State.canonical s) :
    State.canonical (maybeShadow id j s) := by
  unfold maybeShadow
  repeat' first
    | with_reducible assumption
    | with_reducible apply Leads.next
    | with_reducible exact Leads.fault _
    | with_reducible apply OptLeads.some
    | with_reducible exact OptLeads.none
    | with_reducible apply OptLeads.map
    | with_reducible apply placeRun_canonical
    | with_reducible refine OptLeads.elim (placeRun_canonical _ _ _ ?_) (by with_reducible assumption)
    | with_reducible apply onJob_canonical
    | with_reducible apply bump_canonical
    | with_reducible apply id_canonical
    | extract_lets
    | (simp only [↓State.canonical_mk]; with_reducible apply Good.of)
    | split
    | (with_reducible intro _)
    | dsimp only
    | dsimp +zetaDelta only

theorem dispatchOnce_canonical {s : State} (hs : State.canonical s) :
    State.canonical (dispatchOnce s) := by
  unfold dispatchOnce
  repeat' first
    | with_reducible assumption
    | with_reducible apply Leads.next
    | with_reducible exact Leads.fault _
    | with_reducible apply OptLeads.some
    | with_reducible exact OptLeads.none
    | with_reducible apply OptLeads.map
    | with_reducible apply maybeShadow_canonical
    | with_reducible apply placeRun_canonical
    | with_reducible refine OptLeads.elim (placeRun_canonical _ _ _ ?_) (by with_reducible assumption)
    | with_reducible apply fetchHead_canonical
    | with_reducible apply enqueue_canonical
    | with_reducible apply recordJob_canonical
    | with_reducible apply when_canonical
    | with_reducible apply bump_canonical
    | with_reducible apply setF_canonical
    | with_reducible apply setF_canonical
    | with_reducible apply when_canonical
    | with_reducible apply id_canonical
    | extract_lets
    | (simp only [↓State.canonical_mk]; with_reducible apply Good.of)
    | split
    | (with_reducible intro _)
    | dsimp only
    | dsimp +zetaDelta only

theorem execRingTailWrite_canonical (r : Fin 16) (tail : Nat) {s : State} (hs : State.canonical s) :
    Leads State.canonical (execRingTailWrite r tail s) := by
  unfold execRingTailWrite
  repeat' first
    | with_reducible assumption
    | with_reducible apply Leads.next
    | with_reducible exact Leads.fault _
    | with_reducible apply OptLeads.some
    | with_reducible exact OptLeads.none
    | with_reducible apply OptLeads.map
    | with_reducible apply land_canonical
    | with_reducible refine Leads.elim (land_canonical _ _ _ ?_ ?_) (by with_reducible assumption)
    | with_reducible apply ignored_canonical
    | with_reducible apply setF_canonical
    | with_reducible apply setF_canonical
    | extract_lets
    | (simp only [↓State.canonical_mk]; with_reducible apply Good.of)
    | split
    | (with_reducible intro _)
    | dsimp only
    | dsimp +zetaDelta only

theorem execJobDispatch_canonical {s : State} (hs : State.canonical s) :
    Leads State.canonical (execJobDispatch s) := by
  unfold execJobDispatch
  repeat' first
    | with_reducible assumption
    | with_reducible apply Leads.next
    | with_reducible exact Leads.fault _
    | with_reducible apply OptLeads.some
    | with_reducible exact OptLeads.none
    | with_reducible apply OptLeads.map
    | with_reducible apply dispatchOnce_canonical
    | extract_lets
    | (simp only [↓State.canonical_mk]; with_reducible apply Good.of)
    | split
    | (with_reducible intro _)
    | dsimp only
    | dsimp +zetaDelta only

theorem execJobAgePromotion_canonical (r : Fin 16) {s : State} (hs : State.canonical s) :
    Leads State.canonical (execJobAgePromotion r s) := by
  unfold execJobAgePromotion
  repeat' first
    | with_reducible assumption
    | with_reducible apply Leads.next
    | with_reducible exact Leads.fault _
    | with_reducible apply OptLeads.some
    | with_reducible exact OptLeads.none
    | with_reducible apply OptLeads.map
    | extract_lets
    | (simp only [↓State.canonical_mk]; with_reducible apply Good.of)
    | split
    | (with_reducible intro _)
    | dsimp only
    | dsimp +zetaDelta only

theorem writeCoef_canonical (k v : Nat) {s : State} (hs : State.canonical s) :
    State.canonical (writeCoef k v s) := by
  unfold writeCoef
  repeat' first
    | with_reducible assumption
    | with_reducible apply Leads.next
    | with_reducible exact Leads.fault _
    | with_reducible apply OptLeads.some
    | with_reducible exact OptLeads.none
    | with_reducible apply OptLeads.map
    | extract_lets
    | (simp only [↓State.canonical_mk]; with_reducible apply Good.of)
    | split
    | (with_reducible intro _)
    | dsimp only
    | dsimp +zetaDelta only

theorem execCoefDataAccess_canonical (write : Option Word) {s : State} (hs : State.canonical s) :
    Leads State.canonical (execCoefDataAccess write s) := by
  unfold execCoefDataAccess
  repeat' first
    | with_reducible assumption
    | with_reducible apply Leads.next
    | with_reducible exact Leads.fault _
    | with_reducible apply OptLeads.some
    | with_reducible exact OptLeads.none
    | with_reducible apply OptLeads.map
    | with_reducible apply writeCoef_canonical
    | with_reducible apply land_canonical
    | with_reducible refine Leads.elim (land_canonical _ _ _ ?_ ?_) (by with_reducible assumption)
    | with_reducible apply emit_canonical
    | with_reducible apply setF_canonical
    | with_reducible apply setF_canonical
    | extract_lets
    | (simp only [↓State.canonical_mk]; with_reducible apply Good.of)
    | split
    | (with_reducible intro _)
    | dsimp only
    | dsimp +zetaDelta only

theorem loadEncode_canonical (n : Nat) {s : State} (hs : State.canonical s) :
    State.canonical (loadEncode n s) := by
  unfold loadEncode
  repeat' first
    | with_reducible assumption
    | with_reducible apply Leads.next
    | with_reducible exact Leads.fault _
    | with_reducible apply OptLeads.some
    | with_reducible exact OptLeads.none
    | with_reducible apply OptLeads.map
    | with_reducible apply writeCoef_canonical
    | with_reducible apply forEach_canonical
    | with_reducible apply forEach_canonical
    | extract_lets
    | (simp only [↓State.canonical_mk]; with_reducible apply Good.of)
    | split
    | (with_reducible intro _)
    | dsimp only
    | dsimp +zetaDelta only

theorem execEnginePause_canonical (e : Fin 28) (pause : Bool) {s : State} (hs : State.canonical s) :
    Leads State.canonical (execEnginePause e pause s) := by
  unfold execEnginePause
  repeat' first
    | with_reducible assumption
    | with_reducible apply Leads.next
    | with_reducible exact Leads.fault _
    | with_reducible apply OptLeads.some
    | with_reducible exact OptLeads.none
    | with_reducible apply OptLeads.map
    | with_reducible apply settlePause_canonical
    | with_reducible apply land_canonical
    | with_reducible refine Leads.elim (land_canonical _ _ _ ?_ ?_) (by with_reducible assumption)
    | with_reducible apply setF_canonical
    | with_reducible apply setF_canonical
    | extract_lets
    | (simp only [↓State.canonical_mk]; with_reducible apply Good.of)
    | split
    | (with_reducible intro _)
    | dsimp only
    | dsimp +zetaDelta only

theorem execEngineRetire_canonical (e : Fin 28) {s : State} (hs : State.canonical s) :
    Leads State.canonical (execEngineRetire e s) := by
  unfold execEngineRetire
  repeat' first
    | with_reducible assumption
    | with_reducible apply Leads.next
    | with_reducible exact Leads.fault _
    | with_reducible apply OptLeads.some
    | with_reducible exact OptLeads.none
    | with_reducible apply OptLeads.map
    | with_reducible apply settleEngine_canonical
    | with_reducible apply onEng_canonical
    | with_reducible apply settle_canonical
    | with_reducible apply land_canonical
    | with_reducible refine Leads.elim (land_canonical _ _ _ ?_ ?_) (by with_reducible assumption)
    | with_reducible apply setF_canonical
    | with_reducible apply setF_canonical
    | extract_lets
    | (simp only [↓State.canonical_mk]; with_reducible apply Good.of)
    | split
    | (with_reducible intro _)
    | dsimp only
    | dsimp +zetaDelta only

theorem execEngineTest_canonical (e : Fin 28) {s : State} (hs : State.canonical s) :
    Leads State.canonical (execEngineTest e s) := by
  unfold execEngineTest
  repeat' first
    | with_reducible assumption
    | with_reducible apply Leads.next
    | with_reducible exact Leads.fault _
    | with_reducible apply OptLeads.some
    | with_reducible exact OptLeads.none
    | with_reducible apply OptLeads.map
    | with_reducible apply onEng_canonical
    | with_reducible apply setEng_canonical
    | with_reducible apply land_canonical
    | with_reducible refine Leads.elim (land_canonical _ _ _ ?_ ?_) (by with_reducible assumption)
    | with_reducible apply ignored_canonical
    | with_reducible apply setF_canonical
    | with_reducible apply setF_canonical
    | extract_lets
    | (simp only [↓State.canonical_mk]; with_reducible apply Good.of)
    | split
    | (with_reducible intro _)
    | dsimp only
    | dsimp +zetaDelta only

theorem spareIn_canonical (e : Nat) {s : State} (hs : State.canonical s) :
    State.canonical (spareIn e s) := by
  unfold spareIn
  repeat' first
    | with_reducible assumption
    | with_reducible apply Leads.next
    | with_reducible exact Leads.fault _
    | with_reducible apply OptLeads.some
    | with_reducible exact OptLeads.none
    | with_reducible apply OptLeads.map
    | with_reducible apply backInService_canonical
    | with_reducible apply pushRecord_canonical
    | with_reducible apply event_canonical
    | extract_lets
    | (simp only [↓State.canonical_mk]; with_reducible apply Good.of)
    | split
    | (with_reducible intro _)
    | dsimp only
    | dsimp +zetaDelta only

theorem execKatDone_canonical (e : Fin 28) (pass : Bool) {s : State} (hs : State.canonical s) :
    Leads State.canonical (execKatDone e pass s) := by
  unfold execKatDone
  repeat' first
    | with_reducible assumption
    | with_reducible apply Leads.next
    | with_reducible exact Leads.fault _
    | with_reducible apply OptLeads.some
    | with_reducible exact OptLeads.none
    | with_reducible apply OptLeads.map
    | with_reducible apply spareIn_canonical
    | with_reducible apply settlePause_canonical
    | with_reducible apply retireEngine_canonical
    | with_reducible apply keepTarget_canonical
    | with_reducible apply onEng_canonical
    | with_reducible apply setEng_canonical
    | with_reducible apply settle_canonical
    | with_reducible apply setF_canonical
    | with_reducible apply setF_canonical
    | extract_lets
    | (simp only [↓State.canonical_mk]; with_reducible apply Good.of)
    | split
    | (with_reducible intro _)
    | dsimp only
    | dsimp +zetaDelta only

theorem strike_canonical (e : Nat) {s : State} (hs : State.canonical s) :
    State.canonical (strike e s) := by
  unfold strike
  repeat' first
    | with_reducible assumption
    | with_reducible apply Leads.next
    | with_reducible exact Leads.fault _
    | with_reducible apply OptLeads.some
    | with_reducible exact OptLeads.none
    | with_reducible apply OptLeads.map
    | with_reducible apply retireEngine_canonical
    | with_reducible apply onEng_canonical
    | with_reducible apply bump_canonical
    | extract_lets
    | (simp only [↓State.canonical_mk]; with_reducible apply Good.of)
    | split
    | (with_reducible intro _)
    | dsimp only
    | dsimp +zetaDelta only

theorem leaveQuarantine_canonical (e : Nat) {s : State} (hs : State.canonical s) :
    State.canonical (leaveQuarantine e s) := by
  unfold leaveQuarantine
  repeat' first
    | with_reducible assumption
    | with_reducible apply Leads.next
    | with_reducible exact Leads.fault _
    | with_reducible apply OptLeads.some
    | with_reducible exact OptLeads.none
    | with_reducible apply OptLeads.map
    | with_reducible apply backInService_canonical
    | with_reducible apply onEng_canonical
    | extract_lets
    | (simp only [↓State.canonical_mk]; with_reducible apply Good.of)
    | split
    | (with_reducible intro _)
    | dsimp only
    | dsimp +zetaDelta only

theorem execShadowArbitrationDone_canonical (primary shadow : Fin 28) {s : State} (hs : State.canonical s) :
    Leads State.canonical (execShadowArbitrationDone primary shadow s) := by
  unfold execShadowArbitrationDone
  repeat' first
    | with_reducible assumption
    | with_reducible apply Leads.next
    | with_reducible exact Leads.fault _
    | with_reducible apply OptLeads.some
    | with_reducible exact OptLeads.none
    | with_reducible apply OptLeads.map
    | with_reducible apply leaveQuarantine_canonical
    | with_reducible apply strike_canonical
    | with_reducible apply dropJob_canonical
    | with_reducible apply retireEngine_canonical
    | with_reducible apply settle_canonical
    | with_reducible apply when_canonical
    | with_reducible apply bump_canonical
    | with_reducible apply when_canonical
    | extract_lets
    | (simp only [↓State.canonical_mk]; with_reducible apply Good.of)
    | split
    | (with_reducible intro _)
    | dsimp only
    | dsimp +zetaDelta only

theorem execAccumulatorAccess_canonical (e : Fin 28) (off : Nat) (write : Option Word) {s : State} (hs : State.canonical s) :
    Leads State.canonical (execAccumulatorAccess e off write s) := by
  unfold execAccumulatorAccess
  repeat' first
    | with_reducible assumption
    | with_reducible apply Leads.next
    | with_reducible exact Leads.fault _
    | with_reducible apply OptLeads.some
    | with_reducible exact OptLeads.none
    | with_reducible apply OptLeads.map
    | with_reducible apply onEng_canonical
    | with_reducible apply useFree_canonical
    | with_reducible apply emit_canonical
    | with_reducible apply bump_canonical
    | extract_lets
    | (simp only [↓State.canonical_mk]; with_reducible apply Good.of)
    | split
    | (with_reducible intro _)
    | dsimp only
    | dsimp +zetaDelta only

end Sys2Proof.Machine
end

