-- ==== Sys2Proof/Laws/CanonPorts.lean ====
section
/-! SUPPORT. The canonical form is kept by the operations of Machine/Ports.lean. -/

set_option linter.all false

namespace Sys2Proof.Machine

theorem disarm_canonical {s : State} (hs : State.canonical s) :
    State.canonical (disarm s) := by
  unfold disarm
  repeat' first
    | with_reducible assumption
    | with_reducible apply Leads.next
    | with_reducible exact Leads.fault _
    | with_reducible apply OptLeads.some
    | with_reducible exact OptLeads.none
    | with_reducible apply OptLeads.map
    | with_reducible apply setF_canonical
    | with_reducible apply setF_canonical
    | extract_lets
    | (simp only [↓State.canonical_mk]; with_reducible apply Good.of)
    | split
    | (with_reducible intro _)
    | dsimp only
    | dsimp +zetaDelta only

theorem landBlocks_canonical (bs : List Block) {s : State} (hs : State.canonical s) :
    State.canonical (landBlocks bs s).2 := by
  unfold landBlocks
  repeat' first
    | with_reducible assumption
    | with_reducible apply Leads.next
    | with_reducible exact Leads.fault _
    | with_reducible apply OptLeads.some
    | with_reducible exact OptLeads.none
    | with_reducible apply OptLeads.map
    | with_reducible apply disarm_canonical
    | with_reducible apply useFree_canonical
    | extract_lets
    | (simp only [↓State.canonical_mk]; with_reducible apply Good.of)
    | split
    | (with_reducible intro _)
    | dsimp only
    | dsimp +zetaDelta only

theorem landBlocks_canonical_eq (bs : List Block) {s : State} (hs : State.canonical s) {x y} (e : landBlocks bs s = (x, y)) : State.canonical y := by
  have := landBlocks_canonical bs hs
  rw [e] at this; exact this

theorem sendData_canonical (c : MemCmd) {s : State} (hs : State.canonical s) :
    State.canonical (sendData c s) := by
  unfold sendData
  repeat' first
    | with_reducible assumption
    | with_reducible apply Leads.next
    | with_reducible exact Leads.fault _
    | with_reducible apply OptLeads.some
    | with_reducible exact OptLeads.none
    | with_reducible apply OptLeads.map
    | with_reducible apply disarm_canonical
    | with_reducible apply useFree_canonical
    | with_reducible apply emit_canonical
    | with_reducible apply when_canonical
    | with_reducible apply when_canonical
    | extract_lets
    | (simp only [↓State.canonical_mk]; with_reducible apply Good.of)
    | split
    | (with_reducible intro _)
    | dsimp only
    | dsimp +zetaDelta only

theorem sendDrive_canonical (c : MemCmd) {s : State} (hs : State.canonical s) :
    State.canonical (sendDrive c s) := by
  unfold sendDrive
  repeat' first
    | with_reducible assumption
    | with_reducible apply Leads.next
    | with_reducible exact Leads.fault _
    | with_reducible apply OptLeads.some
    | with_reducible exact OptLeads.none
    | with_reducible apply OptLeads.map
    | with_reducible apply sendData_canonical
    | with_reducible apply emit_canonical
    | extract_lets
    | (simp only [↓State.canonical_mk]; with_reducible apply Good.of)
    | split
    | (with_reducible intro _)
    | dsimp only
    | dsimp +zetaDelta only

theorem feed_canonical (c : MemCmd) (bs : List Block) {s : State} (hs : State.canonical s) :
    State.canonical (feed c bs s) := by
  unfold feed
  repeat' first
    | with_reducible assumption
    | with_reducible apply Leads.next
    | with_reducible exact Leads.fault _
    | with_reducible apply OptLeads.some
    | with_reducible exact OptLeads.none
    | with_reducible apply OptLeads.map
    | with_reducible apply sendData_canonical
    | extract_lets
    | (simp only [↓State.canonical_mk]; with_reducible apply Good.of)
    | split
    | (with_reducible intro _)
    | dsimp only
    | dsimp +zetaDelta only

theorem failAtOnce_canonical (c : MemCmd) (st : DriveStatus) {s : State} (hs : State.canonical s) :
    State.canonical (failAtOnce c st s) := by
  unfold failAtOnce
  repeat' first
    | with_reducible assumption
    | with_reducible apply Leads.next
    | with_reducible exact Leads.fault _
    | with_reducible apply OptLeads.some
    | with_reducible exact OptLeads.none
    | with_reducible apply OptLeads.map
    | extract_lets
    | (simp only [↓State.canonical_mk]; with_reducible apply Good.of)
    | split
    | (with_reducible intro _)
    | dsimp only
    | dsimp +zetaDelta only

theorem openCmd_canonical (c0 : MemCmd) {s : State} (hs : State.canonical s) :
    State.canonical (openCmd c0 s) := by
  unfold openCmd
  repeat' first
    | with_reducible assumption
    | with_reducible apply Leads.next
    | with_reducible exact Leads.fault _
    | with_reducible apply OptLeads.some
    | with_reducible exact OptLeads.none
    | with_reducible apply OptLeads.map
    | with_reducible apply failAtOnce_canonical
    | with_reducible apply sendDrive_canonical
    | with_reducible apply wakeSlot_canonical
    | extract_lets
    | (simp only [↓State.canonical_mk]; with_reducible apply Good.of)
    | split
    | (with_reducible intro _)
    | dsimp only
    | dsimp +zetaDelta only

theorem yieldGraze_canonical (logical : Nat) (owner : Owner) {s : State} (hs : State.canonical s) :
    State.canonical (yieldGraze logical owner s) := by
  unfold yieldGraze
  repeat' first
    | with_reducible assumption
    | with_reducible apply Leads.next
    | with_reducible exact Leads.fault _
    | with_reducible apply OptLeads.some
    | with_reducible exact OptLeads.none
    | with_reducible apply OptLeads.map
    | with_reducible apply onCare_canonical
    | extract_lets
    | (simp only [↓State.canonical_mk]; with_reducible apply Good.of)
    | split
    | (with_reducible intro _)
    | dsimp only
    | dsimp +zetaDelta only

theorem openMember_canonical (phys logical : Nat) (write : Bool) (lba nblk : Nat) (owner : Owner) (data : List Block) {s : State} (hs : State.canonical s) :
    State.canonical (openMember phys logical write lba nblk owner data s) := by
  unfold openMember
  repeat' first
    | with_reducible assumption
    | with_reducible apply Leads.next
    | with_reducible exact Leads.fault _
    | with_reducible apply OptLeads.some
    | with_reducible exact OptLeads.none
    | with_reducible apply OptLeads.map
    | with_reducible apply yieldGraze_canonical
    | with_reducible apply openCmd_canonical
    | extract_lets
    | (simp only [↓State.canonical_mk]; with_reducible apply Good.of)
    | split
    | (with_reducible intro _)
    | dsimp only
    | dsimp +zetaDelta only

theorem openWaiting_canonical {s : State} (hs : State.canonical s) :
    State.canonical (openWaiting s) := by
  unfold openWaiting
  repeat' first
    | with_reducible assumption
    | with_reducible apply Leads.next
    | with_reducible exact Leads.fault _
    | with_reducible apply OptLeads.some
    | with_reducible exact OptLeads.none
    | with_reducible apply OptLeads.map
    | with_reducible apply openCmd_canonical
    | with_reducible apply forEach_canonical
    | with_reducible apply forEach_canonical
    | extract_lets
    | (simp only [↓State.canonical_mk]; with_reducible apply Good.of)
    | split
    | (with_reducible intro _)
    | dsimp only
    | dsimp +zetaDelta only

theorem keepLost_canonical (n : Nat) {s : State} (hs : State.canonical s) :
    State.canonical (keepLost n s) := by
  unfold keepLost
  repeat' first
    | with_reducible assumption
    | with_reducible apply Leads.next
    | with_reducible exact Leads.fault _
    | with_reducible apply OptLeads.some
    | with_reducible exact OptLeads.none
    | with_reducible apply OptLeads.map
    | with_reducible apply sendConfig_canonical
    | with_reducible apply writeRecords_canonical
    | extract_lets
    | (simp only [↓State.canonical_mk]; with_reducible apply Good.of)
    | split
    | (with_reducible intro _)
    | dsimp only
    | dsimp +zetaDelta only

theorem dropLost_canonical (v lba : Nat) {s : State} (hs : State.canonical s) :
    State.canonical (dropLost v lba s) := by
  unfold dropLost
  repeat' first
    | with_reducible assumption
    | with_reducible apply Leads.next
    | with_reducible exact Leads.fault _
    | with_reducible apply OptLeads.some
    | with_reducible exact OptLeads.none
    | with_reducible apply OptLeads.map
    | with_reducible apply keepLost_canonical
    | with_reducible apply onCare_canonical
    | extract_lets
    | (simp only [↓State.canonical_mk]; with_reducible apply Good.of)
    | split
    | (with_reducible intro _)
    | dsimp only
    | dsimp +zetaDelta only

theorem addLost_canonical (v lba nblk : Nat) {s : State} (hs : State.canonical s) :
    State.canonical (addLost v lba nblk s) := by
  unfold addLost
  repeat' first
    | with_reducible assumption
    | with_reducible apply Leads.next
    | with_reducible exact Leads.fault _
    | with_reducible apply OptLeads.some
    | with_reducible exact OptLeads.none
    | with_reducible apply OptLeads.map
    | with_reducible apply keepLost_canonical
    | with_reducible apply onCare_canonical
    | extract_lets
    | (simp only [↓State.canonical_mk]; with_reducible apply Good.of)
    | split
    | (with_reducible intro _)
    | dsimp only
    | dsimp +zetaDelta only

theorem planMiss_canonical (n phase g : Nat) {s : State} (hs : State.canonical s) :
    State.canonical (planMiss n phase g s) := by
  unfold planMiss
  repeat' first
    | with_reducible assumption
    | with_reducible apply Leads.next
    | with_reducible exact Leads.fault _
    | with_reducible apply OptLeads.some
    | with_reducible exact OptLeads.none
    | with_reducible apply OptLeads.map
    | with_reducible apply event_canonical
    | with_reducible apply setF_canonical
    | with_reducible apply setF_canonical
    | extract_lets
    | (simp only [↓State.canonical_mk]; with_reducible apply Good.of)
    | split
    | (with_reducible intro _)
    | dsimp only
    | dsimp +zetaDelta only

theorem writePlan_canonical (n at' slot : Nat) (srcs outs : List Nat) {s : State} (hs : State.canonical s) :
    State.canonical (writePlan n at' slot srcs outs s) := by
  unfold writePlan
  repeat' first
    | with_reducible assumption
    | with_reducible apply Leads.next
    | with_reducible exact Leads.fault _
    | with_reducible apply OptLeads.some
    | with_reducible exact OptLeads.none
    | with_reducible apply OptLeads.map
    | with_reducible apply writeBytes_canonical
    | extract_lets
    | (simp only [↓State.canonical_mk]; with_reducible apply Good.of)
    | split
    | (with_reducible intro _)
    | dsimp only
    | dsimp +zetaDelta only

theorem buildPlan_canonical (n phase g : Nat) {s : State} (hs : State.canonical s) :
    State.canonical (buildPlan n phase g s) := by
  unfold buildPlan
  repeat' first
    | with_reducible assumption
    | with_reducible apply Leads.next
    | with_reducible exact Leads.fault _
    | with_reducible apply OptLeads.some
    | with_reducible exact OptLeads.none
    | with_reducible apply OptLeads.map
    | with_reducible apply writePlan_canonical
    | with_reducible apply writeCoef_canonical
    | with_reducible apply writeBytes_canonical
    | with_reducible apply forEach_canonical
    | with_reducible apply forEach_canonical
    | extract_lets
    | (simp only [↓State.canonical_mk]; with_reducible apply Good.of)
    | split
    | (with_reducible intro _)
    | dsimp only
    | dsimp +zetaDelta only

end Sys2Proof.Machine
end

