-- ==== Sys2Proof/Laws/CanonIntents.lean ====
section
/-! SUPPORT. The canonical form is kept by the operations of Machine/Intents.lean. -/

set_option linter.all false

namespace Sys2Proof.Machine

theorem setLock_canonical (key : Nat) (l : Option LockUser × List LockUser) {s : State} (hs : State.canonical s) :
    State.canonical (setLock key l s) := by
  unfold setLock
  repeat' first
    | with_reducible assumption
    | with_reducible apply Leads.next
    | with_reducible exact Leads.fault _
    | with_reducible apply OptLeads.some
    | with_reducible exact OptLeads.none
    | with_reducible apply OptLeads.map
    | extract_lets
    | (simp only [↓State.canonical_mk]; with_reducible apply Good.of)
    | split
    | (with_reducible intro _)
    | dsimp only
    | dsimp +zetaDelta only

theorem requestLock_canonical (key : Nat) (u : LockUser) {s : State} (hs : State.canonical s) :
    State.canonical (requestLock key u s) := by
  unfold requestLock
  repeat' first
    | with_reducible assumption
    | with_reducible apply Leads.next
    | with_reducible exact Leads.fault _
    | with_reducible apply OptLeads.some
    | with_reducible exact OptLeads.none
    | with_reducible apply OptLeads.map
    | with_reducible apply setLock_canonical
    | extract_lets
    | (simp only [↓State.canonical_mk]; with_reducible apply Good.of)
    | split
    | (with_reducible intro _)
    | dsimp only
    | dsimp +zetaDelta only

theorem releaseLock_canonical (key : Nat) {s : State} (hs : State.canonical s) :
    State.canonical (releaseLock key s) := by
  unfold releaseLock
  repeat' first
    | with_reducible assumption
    | with_reducible apply Leads.next
    | with_reducible exact Leads.fault _
    | with_reducible apply OptLeads.some
    | with_reducible exact OptLeads.none
    | with_reducible apply OptLeads.map
    | with_reducible apply setLock_canonical
    | extract_lets
    | (simp only [↓State.canonical_mk]; with_reducible apply Good.of)
    | split
    | (with_reducible intro _)
    | dsimp only
    | dsimp +zetaDelta only

theorem takeLock_canonical (key : Nat) {s : State} (hs : State.canonical s) :
    State.canonical (takeLock key s).1 := by
  unfold takeLock
  repeat' first
    | with_reducible assumption
    | with_reducible apply Leads.next
    | with_reducible exact Leads.fault _
    | with_reducible apply OptLeads.some
    | with_reducible exact OptLeads.none
    | with_reducible apply OptLeads.map
    | with_reducible apply setLock_canonical
    | extract_lets
    | (simp only [↓State.canonical_mk]; with_reducible apply Good.of)
    | split
    | (with_reducible intro _)
    | dsimp only
    | dsimp +zetaDelta only

theorem takeLock_canonical_eq (key : Nat) {s : State} (hs : State.canonical s) {x y} (e : takeLock key s = (x, y)) : State.canonical x := by
  have := takeLock_canonical key hs
  rw [e] at this; exact this

theorem onIntent_canonical (i : Nat) (f : Intent → Intent) {s : State} (hs : State.canonical s) :
    State.canonical (onIntent i f s) := by
  unfold onIntent
  repeat' first
    | with_reducible assumption
    | with_reducible apply Leads.next
    | with_reducible exact Leads.fault _
    | with_reducible apply OptLeads.some
    | with_reducible exact OptLeads.none
    | with_reducible apply OptLeads.map
    | with_reducible apply putHead_canonical
    | extract_lets
    | (simp only [↓State.canonical_mk]; with_reducible apply Good.of)
    | split
    | (with_reducible intro _)
    | dsimp only
    | dsimp +zetaDelta only

theorem stall_canonical (who : Option LockUser) {s : State} (hs : State.canonical s) :
    State.canonical (stall who s) := by
  unfold stall
  repeat' first
    | with_reducible assumption
    | with_reducible apply Leads.next
    | with_reducible exact Leads.fault _
    | with_reducible apply OptLeads.some
    | with_reducible exact OptLeads.none
    | with_reducible apply OptLeads.map
    | extract_lets
    | (simp only [↓State.canonical_mk]; with_reducible apply Good.of)
    | split
    | (with_reducible intro _)
    | dsimp only
    | dsimp +zetaDelta only

theorem takeRun_canonical (who : Option LockUser) (next : Nat) {s : State} (hs : State.canonical s) :
    State.canonical (takeRun who next s).1 := by
  unfold takeRun
  repeat' first
    | with_reducible assumption
    | with_reducible apply Leads.next
    | with_reducible exact Leads.fault _
    | with_reducible apply OptLeads.some
    | with_reducible exact OptLeads.none
    | with_reducible apply OptLeads.map
    | with_reducible apply stall_canonical
    | with_reducible apply when_canonical
    | with_reducible apply event_canonical
    | with_reducible apply setF_canonical
    | with_reducible apply setF_canonical
    | with_reducible apply when_canonical
    | extract_lets
    | (simp only [↓State.canonical_mk]; with_reducible apply Good.of)
    | split
    | (with_reducible intro _)
    | dsimp only
    | dsimp +zetaDelta only

theorem takeRun_canonical_eq (who : Option LockUser) (next : Nat) {s : State} (hs : State.canonical s) {x y} (e : takeRun who next s = (x, y)) : State.canonical x := by
  have := takeRun_canonical who next hs
  rw [e] at this; exact this

theorem openIntent_canonical (who : Option LockUser) (t : Intent) {s : State} (hs : State.canonical s) :
    State.canonical (openIntent who t s).1 := by
  unfold openIntent
  repeat' first
    | with_reducible assumption
    | with_reducible apply Leads.next
    | with_reducible exact Leads.fault _
    | with_reducible apply OptLeads.some
    | with_reducible exact OptLeads.none
    | with_reducible apply OptLeads.map
    | with_reducible apply takeRun_canonical
    | with_reducible refine takeRun_canonical_eq _ _ ?_ (by with_reducible assumption)
    | with_reducible apply putIntent_canonical
    | with_reducible apply bump_canonical
    | extract_lets
    | (simp only [↓State.canonical_mk]; with_reducible apply Good.of)
    | split
    | (with_reducible intro _)
    | dsimp only
    | dsimp +zetaDelta only

theorem openIntent_canonical_eq (who : Option LockUser) (t : Intent) {s : State} (hs : State.canonical s) {x y} (e : openIntent who t s = (x, y)) : State.canonical x := by
  have := openIntent_canonical who t hs
  rw [e] at this; exact this

theorem allocRun_canonical {s : State} (hs : State.canonical s) :
    State.canonical (allocRun s) := by
  unfold allocRun
  repeat' first
    | with_reducible assumption
    | with_reducible apply Leads.next
    | with_reducible exact Leads.fault _
    | with_reducible apply OptLeads.some
    | with_reducible exact OptLeads.none
    | with_reducible apply OptLeads.map
    | with_reducible apply takeRun_canonical
    | with_reducible refine takeRun_canonical_eq _ _ ?_ (by with_reducible assumption)
    | with_reducible apply setF_canonical
    | with_reducible apply setF_canonical
    | extract_lets
    | (simp only [↓State.canonical_mk]; with_reducible apply Good.of)
    | split
    | (with_reducible intro _)
    | dsimp only
    | dsimp +zetaDelta only

theorem freeIntent_canonical (i : Nat) {s : State} (hs : State.canonical s) :
    State.canonical (freeIntent i s) := by
  unfold freeIntent
  repeat' first
    | with_reducible assumption
    | with_reducible apply Leads.next
    | with_reducible exact Leads.fault _
    | with_reducible apply OptLeads.some
    | with_reducible exact OptLeads.none
    | with_reducible apply OptLeads.map
    | with_reducible apply clearEntry_canonical
    | with_reducible apply bump_canonical
    | extract_lets
    | (simp only [↓State.canonical_mk]; with_reducible apply Good.of)
    | split
    | (with_reducible intro _)
    | dsimp only
    | dsimp +zetaDelta only

theorem onRepair_canonical (r : Nat) (f : Repair → Repair) {s : State} (hs : State.canonical s) :
    State.canonical (onRepair r f s) := by
  unfold onRepair
  repeat' first
    | with_reducible assumption
    | with_reducible apply Leads.next
    | with_reducible exact Leads.fault _
    | with_reducible apply OptLeads.some
    | with_reducible exact OptLeads.none
    | with_reducible apply OptLeads.map
    | extract_lets
    | (simp only [↓State.canonical_mk]; with_reducible apply Good.of)
    | split
    | (with_reducible intro _)
    | dsimp only
    | dsimp +zetaDelta only

theorem beginRepair_canonical (r : Nat) {s : State} (hs : State.canonical s) :
    State.canonical (beginRepair r s) := by
  unfold beginRepair
  repeat' first
    | with_reducible assumption
    | with_reducible apply Leads.next
    | with_reducible exact Leads.fault _
    | with_reducible apply OptLeads.some
    | with_reducible exact OptLeads.none
    | with_reducible apply OptLeads.map
    | with_reducible apply onRepair_canonical
    | with_reducible apply openIntent_canonical
    | with_reducible refine openIntent_canonical_eq _ _ ?_ (by with_reducible assumption)
    | with_reducible apply openMember_canonical
    | with_reducible apply forEach_canonical
    | with_reducible apply setF_canonical
    | with_reducible apply setF_canonical
    | with_reducible apply forEach_canonical
    | extract_lets
    | (simp only [↓State.canonical_mk]; with_reducible apply Good.of)
    | split
    | (with_reducible intro _)
    | dsimp only
    | dsimp +zetaDelta only

theorem startRange_canonical (x : Repair) {s : State} (hs : State.canonical s) :
    State.canonical (startRange x s) := by
  unfold startRange
  repeat' first
    | with_reducible assumption
    | with_reducible apply Leads.next
    | with_reducible exact Leads.fault _
    | with_reducible apply OptLeads.some
    | with_reducible exact OptLeads.none
    | with_reducible apply OptLeads.map
    | with_reducible apply beginRepair_canonical
    | with_reducible apply takeLock_canonical
    | with_reducible refine takeLock_canonical_eq _ ?_ (by with_reducible assumption)
    | with_reducible apply requestLock_canonical
    | extract_lets
    | (simp only [↓State.canonical_mk]; with_reducible apply Good.of)
    | split
    | (with_reducible intro _)
    | dsimp only
    | dsimp +zetaDelta only

theorem startRepair_canonical (x : Repair) {s : State} (hs : State.canonical s) :
    State.canonical (startRepair x s) := by
  unfold startRepair
  repeat' first
    | with_reducible assumption
    | with_reducible apply Leads.next
    | with_reducible exact Leads.fault _
    | with_reducible apply OptLeads.some
    | with_reducible exact OptLeads.none
    | with_reducible apply OptLeads.map
    | with_reducible apply startRange_canonical
    | with_reducible apply forEach_canonical
    | with_reducible apply forEach_canonical
    | extract_lets
    | (simp only [↓State.canonical_mk]; with_reducible apply Good.of)
    | split
    | (with_reducible intro _)
    | dsimp only
    | dsimp +zetaDelta only

theorem closeEntry_canonical (i : Nat) (words : List Nat) {s : State} (hs : State.canonical s) :
    State.canonical (closeEntry i words s) := by
  unfold closeEntry
  repeat' first
    | with_reducible assumption
    | with_reducible apply Leads.next
    | with_reducible exact Leads.fault _
    | with_reducible apply OptLeads.some
    | with_reducible exact OptLeads.none
    | with_reducible apply OptLeads.map
    | with_reducible apply putIntent_canonical
    | extract_lets
    | (simp only [↓State.canonical_mk]; with_reducible apply Good.of)
    | split
    | (with_reducible intro _)
    | dsimp only
    | dsimp +zetaDelta only

theorem repairWritten_canonical (r m : Nat) (blocks : Nat) (ok : Bool) {s : State} (hs : State.canonical s) :
    State.canonical (repairWritten r m blocks ok s) := by
  unfold repairWritten
  repeat' first
    | with_reducible assumption
    | with_reducible apply Leads.next
    | with_reducible exact Leads.fault _
    | with_reducible apply OptLeads.some
    | with_reducible exact OptLeads.none
    | with_reducible apply OptLeads.map
    | with_reducible apply closeEntry_canonical
    | with_reducible apply onRepair_canonical
    | with_reducible apply stat_canonical
    | with_reducible apply when_canonical
    | with_reducible apply when_canonical
    | extract_lets
    | (simp only [↓State.canonical_mk]; with_reducible apply Good.of)
    | split
    | (with_reducible intro _)
    | dsimp only
    | dsimp +zetaDelta only

end Sys2Proof.Machine
end

