-- ==== Sys2Proof/Laws/CanonReads.lean ====
section
/-! SUPPORT. The canonical form is kept by the operations of Machine/Reads.lean. -/

set_option linter.all false

namespace Sys2Proof.Machine

theorem onPiece_canonical (p : Nat) (f : Piece → Piece) {s : State} (hs : State.canonical s) :
    State.canonical (onPiece p f s) := by
  unfold onPiece
  repeat' first
    | with_reducible assumption
    | with_reducible apply Leads.next
    | with_reducible exact Leads.fault _
    | with_reducible apply OptLeads.some
    | with_reducible exact OptLeads.none
    | with_reducible apply OptLeads.map
    | extract_lets
    | (simp only [↓State.canonical_mk]; with_reducible apply Good.of)
    | split
    | (with_reducible intro _)
    | dsimp only
    | dsimp +zetaDelta only

theorem dropPiece_canonical (p : Nat) (x : Piece) {s : State} (hs : State.canonical s) :
    State.canonical (dropPiece p x s) := by
  unfold dropPiece
  repeat' first
    | with_reducible assumption
    | with_reducible apply Leads.next
    | with_reducible exact Leads.fault _
    | with_reducible apply OptLeads.some
    | with_reducible exact OptLeads.none
    | with_reducible apply OptLeads.map
    | with_reducible apply onCmd_canonical
    | extract_lets
    | (simp only [↓State.canonical_mk]; with_reducible apply Good.of)
    | split
    | (with_reducible intro _)
    | dsimp only
    | dsimp +zetaDelta only

theorem endPieces_canonical (n : Nat) {s : State} (hs : State.canonical s) :
    State.canonical (endPieces n s) := by
  unfold endPieces
  repeat' first
    | with_reducible assumption
    | with_reducible apply Leads.next
    | with_reducible exact Leads.fault _
    | with_reducible apply OptLeads.some
    | with_reducible exact OptLeads.none
    | with_reducible apply OptLeads.map
    | with_reducible apply finish_canonical
    | extract_lets
    | (simp only [↓State.canonical_mk]; with_reducible apply Good.of)
    | split
    | (with_reducible intro _)
    | dsimp only
    | dsimp +zetaDelta only

theorem pieceData_canonical (p : Nat) (lines : List Line) (degraded : Bool) {s : State} (hs : State.canonical s) :
    State.canonical (pieceData p lines degraded s) := by
  unfold pieceData
  repeat' first
    | with_reducible assumption
    | with_reducible apply Leads.next
    | with_reducible exact Leads.fault _
    | with_reducible apply OptLeads.some
    | with_reducible exact OptLeads.none
    | with_reducible apply OptLeads.map
    | with_reducible apply endPieces_canonical
    | with_reducible apply dropPiece_canonical
    | with_reducible apply onCmd_canonical
    | extract_lets
    | (simp only [↓State.canonical_mk]; with_reducible apply Good.of)
    | split
    | (with_reducible intro _)
    | dsimp only
    | dsimp +zetaDelta only

theorem pieceEnds_canonical (p st : Nat) {s : State} (hs : State.canonical s) :
    State.canonical (pieceEnds p st s) := by
  unfold pieceEnds
  repeat' first
    | with_reducible assumption
    | with_reducible apply Leads.next
    | with_reducible exact Leads.fault _
    | with_reducible apply OptLeads.some
    | with_reducible exact OptLeads.none
    | with_reducible apply OptLeads.map
    | with_reducible apply endPieces_canonical
    | with_reducible apply dropPiece_canonical
    | with_reducible apply onCmd_canonical
    | extract_lets
    | (simp only [↓State.canonical_mk]; with_reducible apply Good.of)
    | split
    | (with_reducible intro _)
    | dsimp only
    | dsimp +zetaDelta only

theorem pieceLost_canonical (p : Nat) {s : State} (hs : State.canonical s) :
    State.canonical (pieceLost p s) := by
  unfold pieceLost
  repeat' first
    | with_reducible assumption
    | with_reducible apply Leads.next
    | with_reducible exact Leads.fault _
    | with_reducible apply OptLeads.some
    | with_reducible exact OptLeads.none
    | with_reducible apply OptLeads.map
    | with_reducible apply pieceEnds_canonical
    | with_reducible apply bumpBy_canonical
    | extract_lets
    | (simp only [↓State.canonical_mk]; with_reducible apply Good.of)
    | split
    | (with_reducible intro _)
    | dsimp only
    | dsimp +zetaDelta only

theorem giveBuffer_canonical (p : Nat) {s : State} (hs : State.canonical s) :
    State.canonical (giveBuffer p s) := by
  unfold giveBuffer
  repeat' first
    | with_reducible assumption
    | with_reducible apply Leads.next
    | with_reducible exact Leads.fault _
    | with_reducible apply OptLeads.some
    | with_reducible exact OptLeads.none
    | with_reducible apply OptLeads.map
    | with_reducible apply onPiece_canonical
    | with_reducible apply useFree_canonical
    | extract_lets
    | (simp only [↓State.canonical_mk]; with_reducible apply Good.of)
    | split
    | (with_reducible intro _)
    | dsimp only
    | dsimp +zetaDelta only

theorem openPiece_canonical (p st : Nat) (members : List Nat) (slot outRow : Nat) (byPlan : Bool) {s : State} (hs : State.canonical s) :
    State.canonical (openPiece p st members slot outRow byPlan s) := by
  unfold openPiece
  repeat' first
    | with_reducible assumption
    | with_reducible apply Leads.next
    | with_reducible exact Leads.fault _
    | with_reducible apply OptLeads.some
    | with_reducible exact OptLeads.none
    | with_reducible apply OptLeads.map
    | with_reducible apply giveBuffer_canonical
    | with_reducible apply onPiece_canonical
    | with_reducible apply openMember_canonical
    | with_reducible apply postJob_canonical
    | with_reducible apply onCmd_canonical
    | with_reducible apply forEach_canonical
    | with_reducible apply forEach_canonical
    | extract_lets
    | (simp only [↓State.canonical_mk]; with_reducible apply Good.of)
    | split
    | (with_reducible intro _)
    | dsimp only
    | dsimp +zetaDelta only

theorem holdPiece_canonical (p : Nat) (slots : List Nat) {s : State} (hs : State.canonical s) :
    State.canonical (holdPiece p slots s) := by
  unfold holdPiece
  repeat' first
    | with_reducible assumption
    | with_reducible apply Leads.next
    | with_reducible exact Leads.fault _
    | with_reducible apply OptLeads.some
    | with_reducible exact OptLeads.none
    | with_reducible apply OptLeads.map
    | with_reducible apply onPiece_canonical
    | with_reducible apply when_canonical
    | with_reducible apply bump_canonical
    | with_reducible apply when_canonical
    | extract_lets
    | (simp only [↓State.canonical_mk]; with_reducible apply Good.of)
    | split
    | (with_reducible intro _)
    | dsimp only
    | dsimp +zetaDelta only

theorem holdForPlan_canonical (p : Nat) (x : Piece) (m : Nat) {s : State} (hs : State.canonical s) :
    State.canonical (holdForPlan p x m s) := by
  unfold holdForPlan
  repeat' first
    | with_reducible assumption
    | with_reducible apply Leads.next
    | with_reducible exact Leads.fault _
    | with_reducible apply OptLeads.some
    | with_reducible exact OptLeads.none
    | with_reducible apply OptLeads.map
    | with_reducible apply onPiece_canonical
    | with_reducible apply planMiss_canonical
    | extract_lets
    | (simp only [↓State.canonical_mk]; with_reducible apply Good.of)
    | split
    | (with_reducible intro _)
    | dsimp only
    | dsimp +zetaDelta only

theorem countRiw_canonical (phys nblk : Nat) {s : State} (hs : State.canonical s) :
    State.canonical (countRiw phys nblk s) := by
  unfold countRiw
  repeat' first
    | with_reducible assumption
    | with_reducible apply Leads.next
    | with_reducible exact Leads.fault _
    | with_reducible apply OptLeads.some
    | with_reducible exact OptLeads.none
    | with_reducible apply OptLeads.map
    | with_reducible apply wakeSlot_canonical
    | with_reducible apply bumpBy_canonical
    | with_reducible apply bump_canonical
    | extract_lets
    | (simp only [↓State.canonical_mk]; with_reducible apply Good.of)
    | split
    | (with_reducible intro _)
    | dsimp only
    | dsimp +zetaDelta only

theorem readDegraded_canonical (p : Nat) {s : State} (hs : State.canonical s) :
    State.canonical (readDegraded p s) := by
  unfold readDegraded
  repeat' first
    | with_reducible assumption
    | with_reducible apply Leads.next
    | with_reducible exact Leads.fault _
    | with_reducible apply OptLeads.some
    | with_reducible exact OptLeads.none
    | with_reducible apply OptLeads.map
    | with_reducible apply onPiece_canonical
    | with_reducible apply when_canonical
    | with_reducible apply bump_canonical
    | with_reducible apply when_canonical
    | extract_lets
    | (simp only [↓State.canonical_mk]; with_reducible apply Good.of)
    | split
    | (with_reducible intro _)
    | dsimp only
    | dsimp +zetaDelta only

theorem servePiece_canonical (p : Nat) {s : State} (hs : State.canonical s) :
    State.canonical (servePiece p s) := by
  unfold servePiece
  repeat' first
    | with_reducible assumption
    | with_reducible apply Leads.next
    | with_reducible exact Leads.fault _
    | with_reducible apply OptLeads.some
    | with_reducible exact OptLeads.none
    | with_reducible apply OptLeads.map
    | with_reducible apply readDegraded_canonical
    | with_reducible apply countRiw_canonical
    | with_reducible apply holdForPlan_canonical
    | with_reducible apply holdPiece_canonical
    | with_reducible apply openPiece_canonical
    | with_reducible apply pieceLost_canonical
    | with_reducible apply pieceData_canonical
    | with_reducible apply onPiece_canonical
    | extract_lets
    | (simp only [↓State.canonical_mk]; with_reducible apply Good.of)
    | split
    | (with_reducible intro _)
    | dsimp only
    | dsimp +zetaDelta only

theorem refreshWake_canonical {s : State} (hs : State.canonical s) :
    State.canonical (refreshWake s) := by
  unfold refreshWake
  repeat' first
    | with_reducible assumption
    | with_reducible apply Leads.next
    | with_reducible exact Leads.fault _
    | with_reducible apply OptLeads.some
    | with_reducible exact OptLeads.none
    | with_reducible apply OptLeads.map
    | with_reducible apply wakeSlot_canonical
    | with_reducible apply forEach_canonical
    | with_reducible apply event_canonical
    | with_reducible apply setF_canonical
    | with_reducible apply setF_canonical
    | with_reducible apply forEach_canonical
    | extract_lets
    | (simp only [↓State.canonical_mk]; with_reducible apply Good.of)
    | split
    | (with_reducible intro _)
    | dsimp only
    | dsimp +zetaDelta only

theorem refill_canonical {s : State} (hs : State.canonical s) :
    State.canonical (refill s) := by
  unfold refill
  repeat' first
    | with_reducible assumption
    | with_reducible apply Leads.next
    | with_reducible exact Leads.fault _
    | with_reducible apply OptLeads.some
    | with_reducible exact OptLeads.none
    | with_reducible apply OptLeads.map
    | with_reducible apply servePiece_canonical
    | with_reducible apply forEach_canonical
    | with_reducible apply forEach_canonical
    | extract_lets
    | (simp only [↓State.canonical_mk]; with_reducible apply Good.of)
    | split
    | (with_reducible intro _)
    | dsimp only
    | dsimp +zetaDelta only

theorem pump_canonical {s : State} (hs : State.canonical s) :
    State.canonical (pump s) := by
  unfold pump
  repeat' first
    | with_reducible assumption
    | with_reducible apply Leads.next
    | with_reducible exact Leads.fault _
    | with_reducible apply OptLeads.some
    | with_reducible exact OptLeads.none
    | with_reducible apply OptLeads.map
    | with_reducible apply refill_canonical
    | with_reducible apply refreshWake_canonical
    | extract_lets
    | (simp only [↓State.canonical_mk]; with_reducible apply Good.of)
    | split
    | (with_reducible intro _)
    | dsimp only
    | dsimp +zetaDelta only

theorem escalate_canonical (p reason slot : Nat) {s0 : State} (hs0 : State.canonical s0) :
    State.canonical (escalate p reason slot s0) := by
  unfold escalate
  repeat' first
    | with_reducible assumption
    | with_reducible apply Leads.next
    | with_reducible exact Leads.fault _
    | with_reducible apply OptLeads.some
    | with_reducible exact OptLeads.none
    | with_reducible apply OptLeads.map
    | with_reducible apply giveBuffer_canonical
    | with_reducible apply onPiece_canonical
    | with_reducible apply writeBytes_canonical
    | with_reducible apply event_canonical
    | with_reducible apply setF_canonical
    | with_reducible apply setF_canonical
    | extract_lets
    | (simp only [↓State.canonical_mk]; with_reducible apply Good.of)
    | split
    | (with_reducible intro _)
    | dsimp only
    | dsimp +zetaDelta only

theorem escalateWaiting_canonical {s : State} (hs : State.canonical s) :
    State.canonical (escalateWaiting s) := by
  unfold escalateWaiting
  repeat' first
    | with_reducible assumption
    | with_reducible apply Leads.next
    | with_reducible exact Leads.fault _
    | with_reducible apply OptLeads.some
    | with_reducible exact OptLeads.none
    | with_reducible apply OptLeads.map
    | with_reducible apply escalate_canonical
    | with_reducible apply forEach_canonical
    | with_reducible apply forEach_canonical
    | extract_lets
    | (simp only [↓State.canonical_mk]; with_reducible apply Good.of)
    | split
    | (with_reducible intro _)
    | dsimp only
    | dsimp +zetaDelta only

theorem pieceFailed_canonical (p m : Nat) (st : DriveStatus) {s : State} (hs : State.canonical s) :
    State.canonical (pieceFailed p m st s) := by
  unfold pieceFailed
  repeat' first
    | with_reducible assumption
    | with_reducible apply Leads.next
    | with_reducible exact Leads.fault _
    | with_reducible apply OptLeads.some
    | with_reducible exact OptLeads.none
    | with_reducible apply OptLeads.map
    | with_reducible apply escalate_canonical
    | with_reducible apply servePiece_canonical
    | with_reducible apply openPiece_canonical
    | with_reducible apply onPiece_canonical
    | with_reducible apply useFree_canonical
    | extract_lets
    | (simp only [↓State.canonical_mk]; with_reducible apply Good.of)
    | split
    | (with_reducible intro _)
    | dsimp only
    | dsimp +zetaDelta only

theorem rewriteRecovered_canonical (n row first : Nat) (ms : List Nat) (content : Nat → Option (List Block)) {s : State} (hs : State.canonical s) :
    State.canonical (rewriteRecovered n row first ms content s) := by
  unfold rewriteRecovered
  repeat' first
    | with_reducible assumption
    | with_reducible apply Leads.next
    | with_reducible exact Leads.fault _
    | with_reducible apply OptLeads.some
    | with_reducible exact OptLeads.none
    | with_reducible apply OptLeads.map
    | with_reducible apply startRepair_canonical
    | extract_lets
    | (simp only [↓State.canonical_mk]; with_reducible apply Good.of)
    | split
    | (with_reducible intro _)
    | dsimp only
    | dsimp +zetaDelta only

theorem pieceLanded_canonical (p : Nat) (data : List Block) (content : Nat → Option (List Block)) {s : State} (hs : State.canonical s) :
    State.canonical (pieceLanded p data content s) := by
  unfold pieceLanded
  repeat' first
    | with_reducible assumption
    | with_reducible apply Leads.next
    | with_reducible exact Leads.fault _
    | with_reducible apply OptLeads.some
    | with_reducible exact OptLeads.none
    | with_reducible apply OptLeads.map
    | with_reducible apply rewriteRecovered_canonical
    | with_reducible apply pieceData_canonical
    | with_reducible apply landBlocks_canonical
    | with_reducible refine landBlocks_canonical_eq _ ?_ (by with_reducible assumption)
    | extract_lets
    | (simp only [↓State.canonical_mk]; with_reducible apply Good.of)
    | split
    | (with_reducible intro _)
    | dsimp only
    | dsimp +zetaDelta only

theorem splitPieces_canonical (n : Nat) {s : State} (hs : State.canonical s) :
    State.canonical (splitPieces n s) := by
  unfold splitPieces
  repeat' first
    | with_reducible assumption
    | with_reducible apply Leads.next
    | with_reducible exact Leads.fault _
    | with_reducible apply OptLeads.some
    | with_reducible exact OptLeads.none
    | with_reducible apply OptLeads.map
    | with_reducible apply pump_canonical
    | with_reducible apply servePiece_canonical
    | with_reducible apply onCmd_canonical
    | with_reducible apply forEach_canonical
    | with_reducible apply forEach_canonical
    | extract_lets
    | (simp only [↓State.canonical_mk]; with_reducible apply Good.of)
    | split
    | (with_reducible intro _)
    | dsimp only
    | dsimp +zetaDelta only

end Sys2Proof.Machine
end

