-- ==== Sys2Proof/Laws/CanonUpdates.lean ====
section
/-! SUPPORT. The canonical form is kept by the operations of Machine/Updates.lean. -/

set_option linter.all false

namespace Sys2Proof.Machine

theorem onUpdate_canonical (u : Nat) (f : Update → Update) {s : State} (hs : State.canonical s) :
    State.canonical (onUpdate u f s) := by
  unfold onUpdate
  repeat' first
    | with_reducible assumption
    | with_reducible apply Leads.next
    | with_reducible exact Leads.fault _
    | with_reducible apply OptLeads.some
    | with_reducible exact OptLeads.none
    | with_reducible apply OptLeads.map
    | extract_lets
    | (simp only [↓State.canonical_mk]; with_reducible apply Good.of)
    | split
    | (with_reducible intro _)
    | dsimp only
    | dsimp +zetaDelta only

theorem writeIntent_canonical (u : Nat) {s : State} (hs : State.canonical s) :
    State.canonical (writeIntent u s) := by
  unfold writeIntent
  repeat' first
    | with_reducible assumption
    | with_reducible apply Leads.next
    | with_reducible exact Leads.fault _
    | with_reducible apply OptLeads.some
    | with_reducible exact OptLeads.none
    | with_reducible apply OptLeads.map
    | with_reducible apply onUpdate_canonical
    | with_reducible apply openIntent_canonical
    | with_reducible refine openIntent_canonical_eq _ _ ?_ (by with_reducible assumption)
    | with_reducible apply logDeltas_canonical
    | with_reducible apply markStale_canonical
    | with_reducible apply id_canonical
    | extract_lets
    | (simp only [↓State.canonical_mk]; with_reducible apply Good.of)
    | split
    | (with_reducible intro _)
    | dsimp only
    | dsimp +zetaDelta only

theorem afterReads_canonical (u : Nat) {s : State} (hs : State.canonical s) :
    State.canonical (afterReads u s) := by
  unfold afterReads
  repeat' first
    | with_reducible assumption
    | with_reducible apply Leads.next
    | with_reducible exact Leads.fault _
    | with_reducible apply OptLeads.some
    | with_reducible exact OptLeads.none
    | with_reducible apply OptLeads.map
    | with_reducible apply writeIntent_canonical
    | with_reducible apply onUpdate_canonical
    | with_reducible apply postJob_canonical
    | with_reducible apply useFree_canonical
    | with_reducible apply forEach_canonical
    | with_reducible apply forEach_canonical
    | extract_lets
    | (simp only [↓State.canonical_mk]; with_reducible apply Good.of)
    | split
    | (with_reducible intro _)
    | dsimp only
    | dsimp +zetaDelta only

theorem deltaDone_canonical (u d : Nat) (data : List Block) {s : State} (hs : State.canonical s) :
    State.canonical (deltaDone u d data s) := by
  unfold deltaDone
  repeat' first
    | with_reducible assumption
    | with_reducible apply Leads.next
    | with_reducible exact Leads.fault _
    | with_reducible apply OptLeads.some
    | with_reducible exact OptLeads.none
    | with_reducible apply OptLeads.map
    | with_reducible apply writeIntent_canonical
    | with_reducible apply onUpdate_canonical
    | extract_lets
    | (simp only [↓State.canonical_mk]; with_reducible apply Good.of)
    | split
    | (with_reducible intro _)
    | dsimp only
    | dsimp +zetaDelta only

theorem openReads_canonical (u : Nat) (x : Update) (ms : List Nat) {s : State} (hs : State.canonical s) :
    State.canonical (openReads u x ms s) := by
  unfold openReads
  repeat' first
    | with_reducible assumption
    | with_reducible apply Leads.next
    | with_reducible exact Leads.fault _
    | with_reducible apply OptLeads.some
    | with_reducible exact OptLeads.none
    | with_reducible apply OptLeads.map
    | with_reducible apply onUpdate_canonical
    | with_reducible apply openMember_canonical
    | with_reducible apply forEach_canonical
    | with_reducible apply forEach_canonical
    | extract_lets
    | (simp only [↓State.canonical_mk]; with_reducible apply Good.of)
    | split
    | (with_reducible intro _)
    | dsimp only
    | dsimp +zetaDelta only

theorem beginReads_canonical (u : Nat) {s : State} (hs : State.canonical s) :
    State.canonical (beginReads u s) := by
  unfold beginReads
  repeat' first
    | with_reducible assumption
    | with_reducible apply Leads.next
    | with_reducible exact Leads.fault _
    | with_reducible apply OptLeads.some
    | with_reducible exact OptLeads.none
    | with_reducible apply OptLeads.map
    | with_reducible apply openReads_canonical
    | with_reducible apply afterReads_canonical
    | with_reducible apply onUpdate_canonical
    | with_reducible apply planMiss_canonical
    | extract_lets
    | (simp only [↓State.canonical_mk]; with_reducible apply Good.of)
    | split
    | (with_reducible intro _)
    | dsimp only
    | dsimp +zetaDelta only

theorem grantUpdate_canonical (u : Nat) {s : State} (hs : State.canonical s) :
    State.canonical (grantUpdate u s) := by
  unfold grantUpdate
  repeat' first
    | with_reducible assumption
    | with_reducible apply Leads.next
    | with_reducible exact Leads.fault _
    | with_reducible apply OptLeads.some
    | with_reducible exact OptLeads.none
    | with_reducible apply OptLeads.map
    | with_reducible apply beginReads_canonical
    | with_reducible apply onUpdate_canonical
    | with_reducible apply releaseLock_canonical
    | extract_lets
    | (simp only [↓State.canonical_mk]; with_reducible apply Good.of)
    | split
    | (with_reducible intro _)
    | dsimp only
    | dsimp +zetaDelta only

theorem retryIntent_canonical (who : Option LockUser) {s : State} (hs : State.canonical s) :
    State.canonical (retryIntent who s) := by
  unfold retryIntent
  repeat' first
    | with_reducible assumption
    | with_reducible apply Leads.next
    | with_reducible exact Leads.fault _
    | with_reducible apply OptLeads.some
    | with_reducible exact OptLeads.none
    | with_reducible apply OptLeads.map
    | with_reducible apply writeIntent_canonical
    | with_reducible apply beginRepair_canonical
    | with_reducible apply allocRun_canonical
    | extract_lets
    | (simp only [↓State.canonical_mk]; with_reducible apply Good.of)
    | split
    | (with_reducible intro _)
    | dsimp only
    | dsimp +zetaDelta only

theorem retryIntents_canonical {s : State} (hs : State.canonical s) :
    State.canonical (retryIntents s) := by
  unfold retryIntents
  repeat' first
    | with_reducible assumption
    | with_reducible apply Leads.next
    | with_reducible exact Leads.fault _
    | with_reducible apply OptLeads.some
    | with_reducible exact OptLeads.none
    | with_reducible apply OptLeads.map
    | with_reducible apply retryIntent_canonical
    | with_reducible apply writeIntent_canonical
    | with_reducible apply forEach_canonical
    | with_reducible apply forEach_canonical
    | extract_lets
    | (simp only [↓State.canonical_mk]; with_reducible apply Good.of)
    | split
    | (with_reducible intro _)
    | dsimp only
    | dsimp +zetaDelta only

theorem retryPlans_canonical (n : Nat) {s : State} (hs : State.canonical s) :
    State.canonical (retryPlans n s) := by
  unfold retryPlans
  repeat' first
    | with_reducible assumption
    | with_reducible apply Leads.next
    | with_reducible exact Leads.fault _
    | with_reducible apply OptLeads.some
    | with_reducible exact OptLeads.none
    | with_reducible apply OptLeads.map
    | with_reducible apply beginReads_canonical
    | with_reducible apply forEach_canonical
    | with_reducible apply forEach_canonical
    | extract_lets
    | (simp only [↓State.canonical_mk]; with_reducible apply Good.of)
    | split
    | (with_reducible intro _)
    | dsimp only
    | dsimp +zetaDelta only

theorem openWrite_canonical (u : Nat) (x : Update) (m tag : Nat) (data : List Block) {s : State} (hs : State.canonical s) :
    State.canonical (openWrite u x m tag data s) := by
  unfold openWrite
  repeat' first
    | with_reducible assumption
    | with_reducible apply Leads.next
    | with_reducible exact Leads.fault _
    | with_reducible apply OptLeads.some
    | with_reducible exact OptLeads.none
    | with_reducible apply OptLeads.map
    | with_reducible apply onUpdate_canonical
    | with_reducible apply openMember_canonical
    | with_reducible apply yieldGraze_canonical
    | with_reducible apply openCmd_canonical
    | extract_lets
    | (simp only [↓State.canonical_mk]; with_reducible apply Good.of)
    | split
    | (with_reducible intro _)
    | dsimp only
    | dsimp +zetaDelta only

theorem openWrites_canonical (u : Nat) (x : Update) {s : State} (hs : State.canonical s) :
    State.canonical (openWrites u x s) := by
  unfold openWrites
  repeat' first
    | with_reducible assumption
    | with_reducible apply Leads.next
    | with_reducible exact Leads.fault _
    | with_reducible apply OptLeads.some
    | with_reducible exact OptLeads.none
    | with_reducible apply OptLeads.map
    | with_reducible apply openWrite_canonical
    | with_reducible apply onUpdate_canonical
    | with_reducible apply forEach_canonical
    | with_reducible apply when_canonical
    | with_reducible apply forEach_canonical
    | with_reducible apply when_canonical
    | extract_lets
    | (simp only [↓State.canonical_mk]; with_reducible apply Good.of)
    | split
    | (with_reducible intro _)
    | dsimp only
    | dsimp +zetaDelta only

theorem issueJob_canonical (u : Nat) {s : State} (hs : State.canonical s) :
    State.canonical (issueJob u s) := by
  unfold issueJob
  repeat' first
    | with_reducible assumption
    | with_reducible apply Leads.next
    | with_reducible exact Leads.fault _
    | with_reducible apply OptLeads.some
    | with_reducible exact OptLeads.none
    | with_reducible apply OptLeads.map
    | with_reducible apply openWrites_canonical
    | with_reducible apply onUpdate_canonical
    | with_reducible apply postJob_canonical
    | extract_lets
    | (simp only [↓State.canonical_mk]; with_reducible apply Good.of)
    | split
    | (with_reducible intro _)
    | dsimp only
    | dsimp +zetaDelta only

theorem abortWrites_canonical (u : Nat) {s : State} (hs : State.canonical s) :
    State.canonical (abortWrites u s) := by
  unfold abortWrites
  repeat' first
    | with_reducible assumption
    | with_reducible apply Leads.next
    | with_reducible exact Leads.fault _
    | with_reducible apply OptLeads.some
    | with_reducible exact OptLeads.none
    | with_reducible apply OptLeads.map
    | with_reducible apply emit_canonical
    | with_reducible apply forEach_canonical
    | with_reducible apply forEach_canonical
    | extract_lets
    | (simp only [↓State.canonical_mk]; with_reducible apply Good.of)
    | split
    | (with_reducible intro _)
    | dsimp only
    | dsimp +zetaDelta only

theorem closeIntent_canonical (u : Nat) {s : State} (hs : State.canonical s) :
    State.canonical (closeIntent u s) := by
  unfold closeIntent
  repeat' first
    | with_reducible assumption
    | with_reducible apply Leads.next
    | with_reducible exact Leads.fault _
    | with_reducible apply OptLeads.some
    | with_reducible exact OptLeads.none
    | with_reducible apply OptLeads.map
    | with_reducible apply onUpdate_canonical
    | with_reducible apply closeEntry_canonical
    | extract_lets
    | (simp only [↓State.canonical_mk]; with_reducible apply Good.of)
    | split
    | (with_reducible intro _)
    | dsimp only
    | dsimp +zetaDelta only

theorem advanceWrites_canonical (u : Nat) {s : State} (hs : State.canonical s) :
    State.canonical (advanceWrites u s) := by
  unfold advanceWrites
  repeat' first
    | with_reducible assumption
    | with_reducible apply Leads.next
    | with_reducible exact Leads.fault _
    | with_reducible apply OptLeads.some
    | with_reducible exact OptLeads.none
    | with_reducible apply OptLeads.map
    | with_reducible apply closeIntent_canonical
    | with_reducible apply openWrite_canonical
    | with_reducible apply onUpdate_canonical
    | with_reducible apply onIntent_canonical
    | with_reducible apply forEach_canonical
    | with_reducible apply forEach_canonical
    | extract_lets
    | (simp only [↓State.canonical_mk]; with_reducible apply Good.of)
    | split
    | (with_reducible intro _)
    | dsimp only
    | dsimp +zetaDelta only

theorem beginWrites_canonical (u : Nat) (ws : List (Nat × List Block)) {s : State} (hs : State.canonical s) :
    State.canonical (beginWrites u ws s) := by
  unfold beginWrites
  repeat' first
    | with_reducible assumption
    | with_reducible apply Leads.next
    | with_reducible exact Leads.fault _
    | with_reducible apply OptLeads.some
    | with_reducible exact OptLeads.none
    | with_reducible apply OptLeads.map
    | with_reducible apply advanceWrites_canonical
    | with_reducible apply onUpdate_canonical
    | with_reducible apply feed_canonical
    | with_reducible apply forEach_canonical
    | with_reducible apply forEach_canonical
    | extract_lets
    | (simp only [↓State.canonical_mk]; with_reducible apply Good.of)
    | split
    | (with_reducible intro _)
    | dsimp only
    | dsimp +zetaDelta only

theorem writeDone_canonical (u m : Nat) (good : Bool) {s : State} (hs : State.canonical s) :
    State.canonical (writeDone u m good s) := by
  unfold writeDone
  repeat' first
    | with_reducible assumption
    | with_reducible apply Leads.next
    | with_reducible exact Leads.fault _
    | with_reducible apply OptLeads.some
    | with_reducible exact OptLeads.none
    | with_reducible apply OptLeads.map
    | with_reducible apply advanceWrites_canonical
    | with_reducible apply onUpdate_canonical
    | extract_lets
    | (simp only [↓State.canonical_mk]; with_reducible apply Good.of)
    | split
    | (with_reducible intro _)
    | dsimp only
    | dsimp +zetaDelta only

theorem queueUpdates_canonical (us : List Update) {s : State} (hs : State.canonical s) :
    State.canonical (queueUpdates us s) := by
  unfold queueUpdates
  repeat' first
    | with_reducible assumption
    | with_reducible apply Leads.next
    | with_reducible exact Leads.fault _
    | with_reducible apply OptLeads.some
    | with_reducible exact OptLeads.none
    | with_reducible apply OptLeads.map
    | with_reducible apply requestLock_canonical
    | with_reducible apply forEach_canonical
    | with_reducible apply forEach_canonical
    | extract_lets
    | (simp only [↓State.canonical_mk]; with_reducible apply Good.of)
    | split
    | (with_reducible intro _)
    | dsimp only
    | dsimp +zetaDelta only

theorem logLost_canonical (n row d first nblk : Nat) {s : State} (hs : State.canonical s) :
    State.canonical (logLost n row d first nblk s) := by
  unfold logLost
  repeat' first
    | with_reducible assumption
    | with_reducible apply Leads.next
    | with_reducible exact Leads.fault _
    | with_reducible apply OptLeads.some
    | with_reducible exact OptLeads.none
    | with_reducible apply OptLeads.map
    | with_reducible apply logEvent_canonical
    | extract_lets
    | (simp only [↓State.canonical_mk]; with_reducible apply Good.of)
    | split
    | (with_reducible intro _)
    | dsimp only
    | dsimp +zetaDelta only

theorem loseUnits_canonical (n row : Nat) (units : List Nat) {s : State} (hs : State.canonical s) :
    State.canonical (loseUnits n row units s) := by
  unfold loseUnits
  repeat' first
    | with_reducible assumption
    | with_reducible apply Leads.next
    | with_reducible exact Leads.fault _
    | with_reducible apply OptLeads.some
    | with_reducible exact OptLeads.none
    | with_reducible apply OptLeads.map
    | with_reducible apply logLost_canonical
    | with_reducible apply addLost_canonical
    | with_reducible apply forEach_canonical
    | with_reducible apply forEach_canonical
    | extract_lets
    | (simp only [↓State.canonical_mk]; with_reducible apply Good.of)
    | split
    | (with_reducible intro _)
    | dsimp only
    | dsimp +zetaDelta only

theorem dropLines_canonical (keys : List Nat) {s : State} (hs : State.canonical s) :
    State.canonical (dropLines keys s) := by
  unfold dropLines
  repeat' first
    | with_reducible assumption
    | with_reducible apply Leads.next
    | with_reducible exact Leads.fault _
    | with_reducible apply OptLeads.some
    | with_reducible exact OptLeads.none
    | with_reducible apply OptLeads.map
    | extract_lets
    | (simp only [↓State.canonical_mk]; with_reducible apply Good.of)
    | split
    | (with_reducible intro _)
    | dsimp only
    | dsimp +zetaDelta only

theorem wakeMembers_canonical (n row : Nat) (ms : List Nat) {s : State} (hs : State.canonical s) :
    State.canonical (wakeMembers n row ms s) := by
  unfold wakeMembers
  repeat' first
    | with_reducible assumption
    | with_reducible apply Leads.next
    | with_reducible exact Leads.fault _
    | with_reducible apply OptLeads.some
    | with_reducible exact OptLeads.none
    | with_reducible apply OptLeads.map
    | with_reducible apply wakeSlot_canonical
    | with_reducible apply forEach_canonical
    | with_reducible apply forEach_canonical
    | extract_lets
    | (simp only [↓State.canonical_mk]; with_reducible apply Good.of)
    | split
    | (with_reducible intro _)
    | dsimp only
    | dsimp +zetaDelta only

theorem startRow_canonical (n row : Nat) {s : State} (hs : State.canonical s) :
    State.canonical (startRow n row s) := by
  unfold startRow
  repeat' first
    | with_reducible assumption
    | with_reducible apply Leads.next
    | with_reducible exact Leads.fault _
    | with_reducible apply OptLeads.some
    | with_reducible exact OptLeads.none
    | with_reducible apply OptLeads.map
    | with_reducible apply wakeMembers_canonical
    | with_reducible apply dropLines_canonical
    | with_reducible apply loseUnits_canonical
    | with_reducible apply queueUpdates_canonical
    | extract_lets
    | (simp only [↓State.canonical_mk]; with_reducible apply Good.of)
    | split
    | (with_reducible intro _)
    | dsimp only
    | dsimp +zetaDelta only

theorem payOwed_canonical (lines : List (Nat × Line)) {s : State} (hs : State.canonical s) :
    State.canonical (payOwed lines s) := by
  unfold payOwed
  repeat' first
    | with_reducible assumption
    | with_reducible apply Leads.next
    | with_reducible exact Leads.fault _
    | with_reducible apply OptLeads.some
    | with_reducible exact OptLeads.none
    | with_reducible apply OptLeads.map
    | extract_lets
    | (simp only [↓State.canonical_mk]; with_reducible apply Good.of)
    | split
    | (with_reducible intro _)
    | dsimp only
    | dsimp +zetaDelta only

theorem finishAllWith_canonical (l : List Nat) {s : State} (hs : State.canonical s) :
    State.canonical (finishAllWith l s) := by
  unfold finishAllWith
  repeat' first
    | with_reducible assumption
    | with_reducible apply Leads.next
    | with_reducible exact Leads.fault _
    | with_reducible apply OptLeads.some
    | with_reducible exact OptLeads.none
    | with_reducible apply OptLeads.map
    | with_reducible apply finish_canonical
    | with_reducible apply forEach_canonical
    | with_reducible apply forEach_canonical
    | extract_lets
    | (simp only [↓State.canonical_mk]; with_reducible apply Good.of)
    | split
    | (with_reducible intro _)
    | dsimp only
    | dsimp +zetaDelta only

theorem finishPaid_canonical {s : State} (hs : State.canonical s) :
    State.canonical (finishPaid s) := by
  unfold finishPaid
  repeat' first
    | with_reducible assumption
    | with_reducible apply Leads.next
    | with_reducible exact Leads.fault _
    | with_reducible apply OptLeads.some
    | with_reducible exact OptLeads.none
    | with_reducible apply OptLeads.map
    | with_reducible apply finishAllWith_canonical
    | extract_lets
    | (simp only [↓State.canonical_mk]; with_reducible apply Good.of)
    | split
    | (with_reducible intro _)
    | dsimp only
    | dsimp +zetaDelta only

theorem frontierDone_canonical (k n slot : Nat) {s : State} (hs : State.canonical s) :
    State.canonical (frontierDone k n slot s) := by
  unfold frontierDone
  repeat' first
    | with_reducible assumption
    | with_reducible apply Leads.next
    | with_reducible exact Leads.fault _
    | with_reducible apply OptLeads.some
    | with_reducible exact OptLeads.none
    | with_reducible apply OptLeads.map
    | with_reducible apply sendConfig_canonical
    | with_reducible apply startEval_canonical
    | with_reducible apply writeErased_canonical
    | with_reducible apply raiseGeneration_canonical
    | with_reducible apply stat_canonical
    | with_reducible apply logEvent_canonical
    | with_reducible apply event_canonical
    | with_reducible apply setF_canonical
    | with_reducible apply setF_canonical
    | extract_lets
    | (simp only [↓State.canonical_mk]; with_reducible apply Good.of)
    | split
    | (with_reducible intro _)
    | dsimp only
    | dsimp +zetaDelta only

theorem writeFront_canonical (k : Nat) (fw : Nat × Nat) {s : State} (hs : State.canonical s) :
    State.canonical (writeFront k fw s) := by
  unfold writeFront
  repeat' first
    | with_reducible assumption
    | with_reducible apply Leads.next
    | with_reducible exact Leads.fault _
    | with_reducible apply OptLeads.some
    | with_reducible exact OptLeads.none
    | with_reducible apply OptLeads.map
    | with_reducible apply set64_canonical
    | extract_lets
    | (simp only [↓State.canonical_mk]; with_reducible apply Good.of)
    | split
    | (with_reducible intro _)
    | dsimp only
    | dsimp +zetaDelta only

theorem recordRow_canonical (k row : Nat) {s : State} (hs : State.canonical s) :
    State.canonical (recordRow k row s) := by
  unfold recordRow
  repeat' first
    | with_reducible assumption
    | with_reducible apply Leads.next
    | with_reducible exact Leads.fault _
    | with_reducible apply OptLeads.some
    | with_reducible exact OptLeads.none
    | with_reducible apply OptLeads.map
    | with_reducible apply writeFront_canonical
    | with_reducible apply frontierDone_canonical
    | with_reducible apply stat_canonical
    | extract_lets
    | (simp only [↓State.canonical_mk]; with_reducible apply Good.of)
    | split
    | (with_reducible intro _)
    | dsimp only
    | dsimp +zetaDelta only

theorem cleanLines_canonical (lines : List (Nat × Line)) {s : State} (hs : State.canonical s) :
    State.canonical (cleanLines lines s) := by
  unfold cleanLines
  repeat' first
    | with_reducible assumption
    | with_reducible apply Leads.next
    | with_reducible exact Leads.fault _
    | with_reducible apply OptLeads.some
    | with_reducible exact OptLeads.none
    | with_reducible apply OptLeads.map
    | with_reducible apply dropLines_canonical
    | with_reducible apply dropLost_canonical
    | with_reducible apply unstage_canonical
    | with_reducible apply unexpose_canonical
    | with_reducible apply forEach_canonical
    | with_reducible apply forEach_canonical
    | extract_lets
    | (simp only [↓State.canonical_mk]; with_reducible apply Good.of)
    | split
    | (with_reducible intro _)
    | dsimp only
    | dsimp +zetaDelta only

theorem patchRepairs_canonical (x : Update) {s : State} (hs : State.canonical s) :
    State.canonical (patchRepairs x s) := by
  unfold patchRepairs
  repeat' first
    | with_reducible assumption
    | with_reducible apply Leads.next
    | with_reducible exact Leads.fault _
    | with_reducible apply OptLeads.some
    | with_reducible exact OptLeads.none
    | with_reducible apply OptLeads.map
    | extract_lets
    | (simp only [↓State.canonical_mk]; with_reducible apply Good.of)
    | split
    | (with_reducible intro _)
    | dsimp only
    | dsimp +zetaDelta only

theorem rowFormatted_canonical (n row : Nat) {s : State} (hs : State.canonical s) :
    State.canonical (rowFormatted n row s) := by
  unfold rowFormatted
  repeat' first
    | with_reducible assumption
    | with_reducible apply Leads.next
    | with_reducible exact Leads.fault _
    | with_reducible apply OptLeads.some
    | with_reducible exact OptLeads.none
    | with_reducible apply OptLeads.map
    | with_reducible apply writeVolumeValid_canonical
    | with_reducible apply onVolMeta_canonical
    | extract_lets
    | (simp only [↓State.canonical_mk]; with_reducible apply Good.of)
    | split
    | (with_reducible intro _)
    | dsimp only
    | dsimp +zetaDelta only

theorem retireIntent_canonical (i : Nat) {s : State} (hs : State.canonical s) :
    State.canonical (retireIntent i s) := by
  unfold retireIntent
  repeat' first
    | with_reducible assumption
    | with_reducible apply Leads.next
    | with_reducible exact Leads.fault _
    | with_reducible apply OptLeads.some
    | with_reducible exact OptLeads.none
    | with_reducible apply OptLeads.map
    | with_reducible apply rowFormatted_canonical
    | with_reducible apply patchRepairs_canonical
    | with_reducible apply cleanLines_canonical
    | with_reducible apply recordRow_canonical
    | with_reducible apply finishPaid_canonical
    | with_reducible apply payOwed_canonical
    | with_reducible apply retryIntents_canonical
    | with_reducible apply freeIntent_canonical
    | with_reducible apply releaseLock_canonical
    | with_reducible apply forEach_canonical
    | with_reducible apply when_canonical
    | with_reducible apply forEach_canonical
    | with_reducible apply when_canonical
    | extract_lets
    | (simp only [↓State.canonical_mk]; with_reducible apply Good.of)
    | split
    | (with_reducible intro _)
    | dsimp only
    | dsimp +zetaDelta only

end Sys2Proof.Machine
end

