-- ==== Sys2Proof/Laws/CanonMembers.lean ====
section
/-! SUPPORT. The canonical form is kept by the operations of Machine/Members.lean. -/

set_option linter.all false

namespace Sys2Proof.Machine

theorem countEnd_canonical (c : MemCmd) (st : DriveStatus) (appTag : Bool) {s : State} (hs : State.canonical s) :
    State.canonical (countEnd c st appTag s) := by
  unfold countEnd
  repeat' first
    | with_reducible assumption
    | with_reducible apply Leads.next
    | with_reducible exact Leads.fault _
    | with_reducible apply OptLeads.some
    | with_reducible exact OptLeads.none
    | with_reducible apply OptLeads.map
    | with_reducible apply event_canonical
    | with_reducible apply bumpBy_canonical
    | with_reducible apply bump_canonical
    | extract_lets
    | (simp only [↓State.canonical_mk]; with_reducible apply Good.of)
    | split
    | (with_reducible intro _)
    | dsimp only
    | dsimp +zetaDelta only

theorem chargeEnd_canonical (c : MemCmd) (st : DriveStatus) {s : State} (hs : State.canonical s) :
    State.canonical (chargeEnd c st s) := by
  unfold chargeEnd
  repeat' first
    | with_reducible assumption
    | with_reducible apply Leads.next
    | with_reducible exact Leads.fault _
    | with_reducible apply OptLeads.some
    | with_reducible exact OptLeads.none
    | with_reducible apply OptLeads.map
    | with_reducible apply markErased_canonical
    | with_reducible apply onSlot_canonical
    | extract_lets
    | (simp only [↓State.canonical_mk]; with_reducible apply Good.of)
    | split
    | (with_reducible intro _)
    | dsimp only
    | dsimp +zetaDelta only

theorem writeFailed_canonical (c : MemCmd) (st : DriveStatus) {s : State} (hs : State.canonical s) :
    State.canonical (writeFailed c st s) := by
  unfold writeFailed
  repeat' first
    | with_reducible assumption
    | with_reducible apply Leads.next
    | with_reducible exact Leads.fault _
    | with_reducible apply OptLeads.some
    | with_reducible exact OptLeads.none
    | with_reducible apply OptLeads.map
    | with_reducible apply markErased_canonical
    | with_reducible apply onSlot_canonical
    | with_reducible apply event_canonical
    | with_reducible apply setF_canonical
    | with_reducible apply setF_canonical
    | extract_lets
    | (simp only [↓State.canonical_mk]; with_reducible apply Good.of)
    | split
    | (with_reducible intro _)
    | dsimp only
    | dsimp +zetaDelta only

theorem putRx_canonical (c : MemCmd) (data : List Block) {s : State} (hs : State.canonical s) :
    State.canonical (putRx c data s) := by
  unfold putRx
  repeat' first
    | with_reducible assumption
    | with_reducible apply Leads.next
    | with_reducible exact Leads.fault _
    | with_reducible apply OptLeads.some
    | with_reducible exact OptLeads.none
    | with_reducible apply OptLeads.map
    | extract_lets
    | (simp only [↓State.canonical_mk]; with_reducible apply Good.of)
    | split
    | (with_reducible intro _)
    | dsimp only
    | dsimp +zetaDelta only

theorem readsIn_canonical (u : Nat) {s : State} (hs : State.canonical s) :
    State.canonical (readsIn u s) := by
  unfold readsIn
  repeat' first
    | with_reducible assumption
    | with_reducible apply Leads.next
    | with_reducible exact Leads.fault _
    | with_reducible apply OptLeads.some
    | with_reducible exact OptLeads.none
    | with_reducible apply OptLeads.map
    | with_reducible apply afterReads_canonical
    | with_reducible apply rewriteRecovered_canonical
    | extract_lets
    | (simp only [↓State.canonical_mk]; with_reducible apply Good.of)
    | split
    | (with_reducible intro _)
    | dsimp only
    | dsimp +zetaDelta only

theorem updateGot_canonical (u m : Nat) (data : List Block) {s : State} (hs : State.canonical s) :
    State.canonical (updateGot u m data s) := by
  unfold updateGot
  repeat' first
    | with_reducible assumption
    | with_reducible apply Leads.next
    | with_reducible exact Leads.fault _
    | with_reducible apply OptLeads.some
    | with_reducible exact OptLeads.none
    | with_reducible apply OptLeads.map
    | with_reducible apply readsIn_canonical
    | with_reducible apply onUpdate_canonical
    | extract_lets
    | (simp only [↓State.canonical_mk]; with_reducible apply Good.of)
    | split
    | (with_reducible intro _)
    | dsimp only
    | dsimp +zetaDelta only

theorem updateReadFailed_canonical (u m : Nat) (st : DriveStatus) {s : State} (hs : State.canonical s) :
    State.canonical (updateReadFailed u m st s) := by
  unfold updateReadFailed
  repeat' first
    | with_reducible assumption
    | with_reducible apply Leads.next
    | with_reducible exact Leads.fault _
    | with_reducible apply OptLeads.some
    | with_reducible exact OptLeads.none
    | with_reducible apply OptLeads.map
    | with_reducible apply readsIn_canonical
    | with_reducible apply openReads_canonical
    | with_reducible apply onUpdate_canonical
    | with_reducible apply planMiss_canonical
    | extract_lets
    | (simp only [↓State.canonical_mk]; with_reducible apply Good.of)
    | split
    | (with_reducible intro _)
    | dsimp only
    | dsimp +zetaDelta only

theorem memberEnd_canonical (c : MemCmd) (st : DriveStatus) (errLba : Nat) (appTag : Bool) (data : List Block) {s : State} (hs : State.canonical s) :
    State.canonical (memberEnd c st errLba appTag data s) := by
  unfold memberEnd
  repeat' first
    | with_reducible assumption
    | with_reducible apply Leads.next
    | with_reducible exact Leads.fault _
    | with_reducible apply OptLeads.some
    | with_reducible exact OptLeads.none
    | with_reducible apply OptLeads.map
    | with_reducible apply updateReadFailed_canonical
    | with_reducible apply updateGot_canonical
    | with_reducible apply putRx_canonical
    | with_reducible apply writeFailed_canonical
    | with_reducible apply chargeEnd_canonical
    | with_reducible apply countEnd_canonical
    | with_reducible apply writeDone_canonical
    | with_reducible apply onPiece_canonical
    | with_reducible apply repairWritten_canonical
    | with_reducible apply fwComplete_canonical
    | with_reducible apply when_canonical
    | with_reducible apply when_canonical
    | extract_lets
    | (simp only [↓State.canonical_mk]; with_reducible apply Good.of)
    | split
    | (with_reducible intro _)
    | dsimp only
    | dsimp +zetaDelta only

theorem settleFailed_canonical {s : State} (hs : State.canonical s) :
    State.canonical (settleFailed s) := by
  unfold settleFailed
  repeat' first
    | with_reducible assumption
    | with_reducible apply Leads.next
    | with_reducible exact Leads.fault _
    | with_reducible apply OptLeads.some
    | with_reducible exact OptLeads.none
    | with_reducible apply OptLeads.map
    | with_reducible apply memberEnd_canonical
    | with_reducible apply forEach_canonical
    | with_reducible apply forEach_canonical
    | extract_lets
    | (simp only [↓State.canonical_mk]; with_reducible apply Good.of)
    | split
    | (with_reducible intro _)
    | dsimp only
    | dsimp +zetaDelta only

theorem retryHeld_canonical (n : Nat) {s : State} (hs : State.canonical s) :
    State.canonical (retryHeld n s) := by
  unfold retryHeld
  repeat' first
    | with_reducible assumption
    | with_reducible apply Leads.next
    | with_reducible exact Leads.fault _
    | with_reducible apply OptLeads.some
    | with_reducible exact OptLeads.none
    | with_reducible apply OptLeads.map
    | with_reducible apply retryPlans_canonical
    | with_reducible apply servePiece_canonical
    | with_reducible apply forEach_canonical
    | with_reducible apply forEach_canonical
    | extract_lets
    | (simp only [↓State.canonical_mk]; with_reducible apply Good.of)
    | split
    | (with_reducible intro _)
    | dsimp only
    | dsimp +zetaDelta only

theorem answerPlans_canonical {s : State} (hs : State.canonical s) :
    State.canonical (answerPlans s) := by
  unfold answerPlans
  repeat' first
    | with_reducible assumption
    | with_reducible apply Leads.next
    | with_reducible exact Leads.fault _
    | with_reducible apply OptLeads.some
    | with_reducible exact OptLeads.none
    | with_reducible apply OptLeads.map
    | with_reducible apply retryHeld_canonical
    | with_reducible apply buildPlan_canonical
    | with_reducible apply forEach_canonical
    | with_reducible apply forEach_canonical
    | extract_lets
    | (simp only [↓State.canonical_mk]; with_reducible apply Good.of)
    | split
    | (with_reducible intro _)
    | dsimp only
    | dsimp +zetaDelta only

theorem goOn_canonical {s0 : State} (hs0 : State.canonical s0) :
    State.canonical (goOn s0) := by
  unfold goOn
  repeat' first
    | with_reducible assumption
    | with_reducible apply Leads.next
    | with_reducible exact Leads.fault _
    | with_reducible apply OptLeads.some
    | with_reducible exact OptLeads.none
    | with_reducible apply OptLeads.map
    | with_reducible apply issueJob_canonical
    | with_reducible apply sendStop_canonical
    | with_reducible apply stageWaiting_canonical
    | with_reducible apply unexpose_canonical
    | with_reducible apply forEach_canonical
    | with_reducible apply forEach_canonical
    | extract_lets
    | (simp only [↓State.canonical_mk]; with_reducible apply Good.of)
    | split
    | (with_reducible intro _)
    | dsimp only
    | dsimp +zetaDelta only

theorem after_canonical {s : State} (hs : State.canonical s) :
    State.canonical (after s) := by
  unfold after
  repeat' first
    | with_reducible assumption
    | with_reducible apply Leads.next
    | with_reducible exact Leads.fault _
    | with_reducible apply OptLeads.some
    | with_reducible exact OptLeads.none
    | with_reducible apply OptLeads.map
    | with_reducible apply goOn_canonical
    | with_reducible apply answerPlans_canonical
    | with_reducible apply settleFailed_canonical
    | with_reducible apply pump_canonical
    | with_reducible apply openWaiting_canonical
    | with_reducible apply settle_canonical
    | with_reducible apply copyBack_canonical
    | with_reducible apply startQueued_canonical
    | extract_lets
    | (simp only [↓State.canonical_mk]; with_reducible apply Good.of)
    | split
    | (with_reducible intro _)
    | dsimp only
    | dsimp +zetaDelta only

theorem dropCmd_canonical (c : MemCmd) {s : State} (hs : State.canonical s) :
    State.canonical (dropCmd c s) := by
  unfold dropCmd
  repeat' first
    | with_reducible assumption
    | with_reducible apply Leads.next
    | with_reducible exact Leads.fault _
    | with_reducible apply OptLeads.some
    | with_reducible exact OptLeads.none
    | with_reducible apply OptLeads.map
    | extract_lets
    | (simp only [↓State.canonical_mk]; with_reducible apply Good.of)
    | split
    | (with_reducible intro _)
    | dsimp only
    | dsimp +zetaDelta only

theorem endAllOn_canonical (phys : Nat) (st : DriveStatus) {s : State} (hs : State.canonical s) :
    State.canonical (endAllOn phys st s) := by
  unfold endAllOn
  repeat' first
    | with_reducible assumption
    | with_reducible apply Leads.next
    | with_reducible exact Leads.fault _
    | with_reducible apply OptLeads.some
    | with_reducible exact OptLeads.none
    | with_reducible apply OptLeads.map
    | with_reducible apply dropCmd_canonical
    | with_reducible apply memberEnd_canonical
    | with_reducible apply forEach_canonical
    | with_reducible apply forEach_canonical
    | extract_lets
    | (simp only [↓State.canonical_mk]; with_reducible apply Good.of)
    | split
    | (with_reducible intro _)
    | dsimp only
    | dsimp +zetaDelta only

theorem execMemberCommandComplete_canonical (slot : Fin 108) (tag : Nat) (reply : DriveReply) (blocks : List DriveBlock) (info : Option Nat) (capacity : Nat) {s : State} (hs : State.canonical s) :
    Leads State.canonical (execMemberCommandComplete slot tag reply blocks info capacity s) := by
  unfold execMemberCommandComplete
  repeat' first
    | with_reducible assumption
    | with_reducible apply Leads.next
    | with_reducible exact Leads.fault _
    | with_reducible apply OptLeads.some
    | with_reducible exact OptLeads.none
    | with_reducible apply OptLeads.map
    | with_reducible apply dropCmd_canonical
    | with_reducible apply after_canonical
    | with_reducible apply memberEnd_canonical
    | with_reducible apply stopEnds_canonical
    | with_reducible apply sendDrive_canonical
    | with_reducible apply when_canonical
    | with_reducible apply when_canonical
    | extract_lets
    | (simp only [↓State.canonical_mk]; with_reducible apply Good.of)
    | split
    | (with_reducible intro _)
    | dsimp only
    | dsimp +zetaDelta only

theorem execMemberCommandTimeout_canonical (slot : Fin 108) (tag : Nat) {s : State} (hs : State.canonical s) :
    Leads State.canonical (execMemberCommandTimeout slot tag s) := by
  unfold execMemberCommandTimeout
  repeat' first
    | with_reducible assumption
    | with_reducible apply Leads.next
    | with_reducible exact Leads.fault _
    | with_reducible apply OptLeads.some
    | with_reducible exact OptLeads.none
    | with_reducible apply OptLeads.map
    | with_reducible apply endAllOn_canonical
    | with_reducible apply dropCmd_canonical
    | with_reducible apply after_canonical
    | with_reducible apply memberEnd_canonical
    | with_reducible apply emit_canonical
    | extract_lets
    | (simp only [↓State.canonical_mk]; with_reducible apply Good.of)
    | split
    | (with_reducible intro _)
    | dsimp only
    | dsimp +zetaDelta only

theorem linkFalls_canonical (n : Nat) {s : State} (hs : State.canonical s) :
    State.canonical (linkFalls n s) := by
  unfold linkFalls
  repeat' first
    | with_reducible assumption
    | with_reducible apply Leads.next
    | with_reducible exact Leads.fault _
    | with_reducible apply OptLeads.some
    | with_reducible exact OptLeads.none
    | with_reducible apply OptLeads.map
    | with_reducible apply endAllOn_canonical
    | with_reducible apply event_canonical
    | with_reducible apply bump_canonical
    | with_reducible apply setF_canonical
    | with_reducible apply setF_canonical
    | extract_lets
    | (simp only [↓State.canonical_mk]; with_reducible apply Good.of)
    | split
    | (with_reducible intro _)
    | dsimp only
    | dsimp +zetaDelta only

theorem execSlotLinkDown_canonical (slot : Fin 108) {s : State} (hs : State.canonical s) :
    Leads State.canonical (execSlotLinkDown slot s) := by
  unfold execSlotLinkDown
  repeat' first
    | with_reducible assumption
    | with_reducible apply Leads.next
    | with_reducible exact Leads.fault _
    | with_reducible apply OptLeads.some
    | with_reducible exact OptLeads.none
    | with_reducible apply OptLeads.map
    | with_reducible apply linkFalls_canonical
    | with_reducible apply after_canonical
    | extract_lets
    | (simp only [↓State.canonical_mk]; with_reducible apply Good.of)
    | split
    | (with_reducible intro _)
    | dsimp only
    | dsimp +zetaDelta only

theorem execSlotLinkUp_canonical (slot : Fin 108) (rate : Fin 4) {s : State} (hs : State.canonical s) :
    Leads State.canonical (execSlotLinkUp slot rate s) := by
  unfold execSlotLinkUp
  repeat' first
    | with_reducible assumption
    | with_reducible apply Leads.next
    | with_reducible exact Leads.fault _
    | with_reducible apply OptLeads.some
    | with_reducible exact OptLeads.none
    | with_reducible apply OptLeads.map
    | with_reducible apply after_canonical
    | with_reducible apply setF_canonical
    | with_reducible apply setF_canonical
    | extract_lets
    | (simp only [↓State.canonical_mk]; with_reducible apply Good.of)
    | split
    | (with_reducible intro _)
    | dsimp only
    | dsimp +zetaDelta only

theorem execLinkDownEraseTimer_canonical (slot : Fin 108) {s : State} (hs : State.canonical s) :
    Leads State.canonical (execLinkDownEraseTimer slot s) := by
  unfold execLinkDownEraseTimer
  repeat' first
    | with_reducible assumption
    | with_reducible apply Leads.next
    | with_reducible exact Leads.fault _
    | with_reducible apply OptLeads.some
    | with_reducible exact OptLeads.none
    | with_reducible apply OptLeads.map
    | with_reducible apply after_canonical
    | with_reducible apply markErased_canonical
    | extract_lets
    | (simp only [↓State.canonical_mk]; with_reducible apply Good.of)
    | split
    | (with_reducible intro _)
    | dsimp only
    | dsimp +zetaDelta only

theorem driveRemoved_canonical (n : Nat) {s : State} (hs : State.canonical s) :
    State.canonical (driveRemoved n s) := by
  unfold driveRemoved
  repeat' first
    | with_reducible assumption
    | with_reducible apply Leads.next
    | with_reducible exact Leads.fault _
    | with_reducible apply OptLeads.some
    | with_reducible exact OptLeads.none
    | with_reducible apply OptLeads.map
    | with_reducible apply endAllOn_canonical
    | with_reducible apply markErased_canonical
    | with_reducible apply openRails_canonical
    | with_reducible apply onSlot_canonical
    | with_reducible apply event_canonical
    | with_reducible apply setF_canonical
    | with_reducible apply setF_canonical
    | extract_lets
    | (simp only [↓State.canonical_mk]; with_reducible apply Good.of)
    | split
    | (with_reducible intro _)
    | dsimp only
    | dsimp +zetaDelta only

theorem driveInserted_canonical (n : Nat) (drive : DriveFacts) {s : State} (hs : State.canonical s) :
    State.canonical (driveInserted n drive s) := by
  unfold driveInserted
  repeat' first
    | with_reducible assumption
    | with_reducible apply Leads.next
    | with_reducible exact Leads.fault _
    | with_reducible apply OptLeads.some
    | with_reducible exact OptLeads.none
    | with_reducible apply OptLeads.map
    | with_reducible apply startRebuild_canonical
    | with_reducible apply newDrive_canonical
    | with_reducible apply onSlot_canonical
    | with_reducible apply event_canonical
    | with_reducible apply setF_canonical
    | with_reducible apply setF_canonical
    | extract_lets
    | (simp only [↓State.canonical_mk]; with_reducible apply Good.of)
    | split
    | (with_reducible intro _)
    | dsimp only
    | dsimp +zetaDelta only

theorem execSlotPresentChange_canonical (slot : Fin 108) (present : Bool) (drive : DriveFacts) {s : State} (hs : State.canonical s) :
    Leads State.canonical (execSlotPresentChange slot present drive s) := by
  unfold execSlotPresentChange
  repeat' first
    | with_reducible assumption
    | with_reducible apply Leads.next
    | with_reducible exact Leads.fault _
    | with_reducible apply OptLeads.some
    | with_reducible exact OptLeads.none
    | with_reducible apply OptLeads.map
    | with_reducible apply driveInserted_canonical
    | with_reducible apply driveRemoved_canonical
    | with_reducible apply after_canonical
    | extract_lets
    | (simp only [↓State.canonical_mk]; with_reducible apply Good.of)
    | split
    | (with_reducible intro _)
    | dsimp only
    | dsimp +zetaDelta only

theorem execFwCommandEntry_canonical {s : State} (hs : State.canonical s) :
    Leads State.canonical (execFwCommandEntry s) := by
  unfold execFwCommandEntry
  repeat' first
    | with_reducible assumption
    | with_reducible apply Leads.next
    | with_reducible exact Leads.fault _
    | with_reducible apply OptLeads.some
    | with_reducible exact OptLeads.none
    | with_reducible apply OptLeads.map
    | with_reducible apply after_canonical
    | with_reducible apply openCmd_canonical
    | with_reducible apply fwComplete_canonical
    | with_reducible apply setF_canonical
    | with_reducible apply setF_canonical
    | extract_lets
    | (simp only [↓State.canonical_mk]; with_reducible apply Good.of)
    | split
    | (with_reducible intro _)
    | dsimp only
    | dsimp +zetaDelta only

theorem execEvalDone_canonical (n : Fin 4) {s : State} (hs : State.canonical s) :
    Leads State.canonical (execEvalDone n s) := by
  unfold execEvalDone
  repeat' first
    | with_reducible assumption
    | with_reducible apply Leads.next
    | with_reducible exact Leads.fault _
    | with_reducible apply OptLeads.some
    | with_reducible exact OptLeads.none
    | with_reducible apply OptLeads.map
    | with_reducible apply after_canonical
    | with_reducible apply startEval_canonical
    | with_reducible apply when_canonical
    | with_reducible apply setF_canonical
    | with_reducible apply setF_canonical
    | with_reducible apply when_canonical
    | extract_lets
    | (simp only [↓State.canonical_mk]; with_reducible apply Good.of)
    | split
    | (with_reducible intro _)
    | dsimp only
    | dsimp +zetaDelta only

theorem execAwakeWrite_canonical (slot : Fin 108) (awake : Bool) {s : State} (hs : State.canonical s) :
    Leads State.canonical (execAwakeWrite slot awake s) := by
  unfold execAwakeWrite
  repeat' first
    | with_reducible assumption
    | with_reducible apply Leads.next
    | with_reducible exact Leads.fault _
    | with_reducible apply OptLeads.some
    | with_reducible exact OptLeads.none
    | with_reducible apply OptLeads.map
    | with_reducible apply after_canonical
    | with_reducible apply land_canonical
    | with_reducible refine Leads.elim (land_canonical _ _ _ ?_ ?_) (by with_reducible assumption)
    | with_reducible apply setF_canonical
    | with_reducible apply setF_canonical
    | extract_lets
    | (simp only [↓State.canonical_mk]; with_reducible apply Good.of)
    | split
    | (with_reducible intro _)
    | dsimp only
    | dsimp +zetaDelta only

theorem execDriveReady_canonical (slot : Fin 108) {s : State} (hs : State.canonical s) :
    Leads State.canonical (execDriveReady slot s) := by
  unfold execDriveReady
  repeat' first
    | with_reducible assumption
    | with_reducible apply Leads.next
    | with_reducible exact Leads.fault _
    | with_reducible apply OptLeads.some
    | with_reducible exact OptLeads.none
    | with_reducible apply OptLeads.map
    | with_reducible apply after_canonical
    | with_reducible apply onSlot_canonical
    | with_reducible apply emit_canonical
    | with_reducible apply setF_canonical
    | with_reducible apply setF_canonical
    | extract_lets
    | (simp only [↓State.canonical_mk]; with_reducible apply Good.of)
    | split
    | (with_reducible intro _)
    | dsimp only
    | dsimp +zetaDelta only

theorem execWakeRetry_canonical (slot : Fin 108) {s : State} (hs : State.canonical s) :
    Leads State.canonical (execWakeRetry slot s) := by
  unfold execWakeRetry
  repeat' first
    | with_reducible assumption
    | with_reducible apply Leads.next
    | with_reducible exact Leads.fault _
    | with_reducible apply OptLeads.some
    | with_reducible exact OptLeads.none
    | with_reducible apply OptLeads.map
    | with_reducible apply after_canonical
    | with_reducible apply servePiece_canonical
    | with_reducible apply stat_canonical
    | with_reducible apply land_canonical
    | with_reducible refine Leads.elim (land_canonical _ _ _ ?_ ?_) (by with_reducible assumption)
    | with_reducible apply forEach_canonical
    | with_reducible apply when_canonical
    | with_reducible apply setF_canonical
    | with_reducible apply setF_canonical
    | with_reducible apply forEach_canonical
    | with_reducible apply when_canonical
    | extract_lets
    | (simp only [↓State.canonical_mk]; with_reducible apply Good.of)
    | split
    | (with_reducible intro _)
    | dsimp only
    | dsimp +zetaDelta only

theorem execWakeDeny_canonical (slot : Fin 108) {s : State} (hs : State.canonical s) :
    Leads State.canonical (execWakeDeny slot s) := by
  unfold execWakeDeny
  repeat' first
    | with_reducible assumption
    | with_reducible apply Leads.next
    | with_reducible exact Leads.fault _
    | with_reducible apply OptLeads.some
    | with_reducible exact OptLeads.none
    | with_reducible apply OptLeads.map
    | with_reducible apply after_canonical
    | with_reducible apply pieceEnds_canonical
    | with_reducible apply stat_canonical
    | with_reducible apply land_canonical
    | with_reducible refine Leads.elim (land_canonical _ _ _ ?_ ?_) (by with_reducible assumption)
    | with_reducible apply forEach_canonical
    | with_reducible apply setF_canonical
    | with_reducible apply setF_canonical
    | with_reducible apply forEach_canonical
    | extract_lets
    | (simp only [↓State.canonical_mk]; with_reducible apply Good.of)
    | split
    | (with_reducible intro _)
    | dsimp only
    | dsimp +zetaDelta only

theorem execEscDone_canonical (piece : Nat) (outcome : Fin 4) (reads : List (Nat × List (Option Block))) {s : State} (hs : State.canonical s) :
    Leads State.canonical (execEscDone piece outcome reads s) := by
  unfold execEscDone
  repeat' first
    | with_reducible assumption
    | with_reducible apply Leads.next
    | with_reducible exact Leads.fault _
    | with_reducible apply OptLeads.some
    | with_reducible exact OptLeads.none
    | with_reducible apply OptLeads.map
    | with_reducible apply after_canonical
    | with_reducible apply pieceLanded_canonical
    | with_reducible apply servePiece_canonical
    | with_reducible apply pieceLost_canonical
    | with_reducible apply onPiece_canonical
    | with_reducible apply land_canonical
    | with_reducible refine Leads.elim (land_canonical _ _ _ ?_ ?_) (by with_reducible assumption)
    | with_reducible apply ignored_canonical
    | with_reducible apply useFrees_canonical
    | with_reducible apply setF_canonical
    | with_reducible apply setF_canonical
    | extract_lets
    | (simp only [↓State.canonical_mk]; with_reducible apply Good.of)
    | split
    | (with_reducible intro _)
    | dsimp only
    | dsimp +zetaDelta only

theorem execPlanRetry_canonical (n : Fin 4) {s : State} (hs : State.canonical s) :
    Leads State.canonical (execPlanRetry n s) := by
  unfold execPlanRetry
  repeat' first
    | with_reducible assumption
    | with_reducible apply Leads.next
    | with_reducible exact Leads.fault _
    | with_reducible apply OptLeads.some
    | with_reducible exact OptLeads.none
    | with_reducible apply OptLeads.map
    | with_reducible apply after_canonical
    | with_reducible apply retryHeld_canonical
    | with_reducible apply land_canonical
    | with_reducible refine Leads.elim (land_canonical _ _ _ ?_ ?_) (by with_reducible assumption)
    | extract_lets
    | (simp only [↓State.canonical_mk]; with_reducible apply Good.of)
    | split
    | (with_reducible intro _)
    | dsimp only
    | dsimp +zetaDelta only

theorem execFrontierEnable_canonical (k : Fin 8) (enable : Bool) {s : State} (hs : State.canonical s) :
    Leads State.canonical (execFrontierEnable k enable s) := by
  unfold execFrontierEnable
  repeat' first
    | with_reducible assumption
    | with_reducible apply Leads.next
    | with_reducible exact Leads.fault _
    | with_reducible apply OptLeads.some
    | with_reducible exact OptLeads.none
    | with_reducible apply OptLeads.map
    | with_reducible apply after_canonical
    | with_reducible apply enableFrontier_canonical
    | with_reducible apply land_canonical
    | with_reducible refine Leads.elim (land_canonical _ _ _ ?_ ?_) (by with_reducible assumption)
    | with_reducible apply setF_canonical
    | with_reducible apply setF_canonical
    | extract_lets
    | (simp only [↓State.canonical_mk]; with_reducible apply Good.of)
    | split
    | (with_reducible intro _)
    | dsimp only
    | dsimp +zetaDelta only

theorem loseBlocks_canonical (v n row d : Nat) (blocks : List Nat) {s : State} (hs : State.canonical s) :
    State.canonical (loseBlocks v n row d blocks s) := by
  unfold loseBlocks
  repeat' first
    | with_reducible assumption
    | with_reducible apply Leads.next
    | with_reducible exact Leads.fault _
    | with_reducible apply OptLeads.some
    | with_reducible exact OptLeads.none
    | with_reducible apply OptLeads.map
    | with_reducible apply logLost_canonical
    | with_reducible apply addLost_canonical
    | with_reducible apply forEach_canonical
    | with_reducible apply forEach_canonical
    | extract_lets
    | (simp only [↓State.canonical_mk]; with_reducible apply Good.of)
    | split
    | (with_reducible intro _)
    | dsimp only
    | dsimp +zetaDelta only

theorem rebuildRow_canonical (k row : Nat) (reads : RowReads) {s : State} (hs : State.canonical s) :
    State.canonical (rebuildRow k row reads s) := by
  unfold rebuildRow
  repeat' first
    | with_reducible assumption
    | with_reducible apply Leads.next
    | with_reducible exact Leads.fault _
    | with_reducible apply OptLeads.some
    | with_reducible exact OptLeads.none
    | with_reducible apply OptLeads.map
    | with_reducible apply loseBlocks_canonical
    | with_reducible apply loseUnits_canonical
    | with_reducible apply queueUpdates_canonical
    | with_reducible apply rewriteRecovered_canonical
    | with_reducible apply startRepair_canonical
    | with_reducible apply forEach_canonical
    | with_reducible apply forEach_canonical
    | extract_lets
    | (simp only [↓State.canonical_mk]; with_reducible apply Good.of)
    | split
    | (with_reducible intro _)
    | dsimp only
    | dsimp +zetaDelta only

theorem rebuildNext_canonical (k : Nat) (reads : RowReads) (row : Option Nat) {s : State} (hs : State.canonical s) :
    State.canonical (rebuildNext k reads row s) := by
  unfold rebuildNext
  repeat' first
    | with_reducible assumption
    | with_reducible apply Leads.next
    | with_reducible exact Leads.fault _
    | with_reducible apply OptLeads.some
    | with_reducible exact OptLeads.none
    | with_reducible apply OptLeads.map
    | with_reducible apply rebuildRow_canonical
    | with_reducible apply after_canonical
    | with_reducible apply wakeSlot_canonical
    | with_reducible apply forEach_canonical
    | with_reducible apply forEach_canonical
    | extract_lets
    | (simp only [↓State.canonical_mk]; with_reducible apply Good.of)
    | split
    | (with_reducible intro _)
    | dsimp only
    | dsimp +zetaDelta only

theorem execRebuildRow_canonical (k : Fin 8) (reads : RowReads) {s : State} (hs : State.canonical s) :
    Leads State.canonical (execRebuildRow k reads s) := by
  unfold execRebuildRow
  repeat' first
    | with_reducible assumption
    | with_reducible apply Leads.next
    | with_reducible exact Leads.fault _
    | with_reducible apply OptLeads.some
    | with_reducible exact OptLeads.none
    | with_reducible apply OptLeads.map
    | with_reducible apply rebuildNext_canonical
    | extract_lets
    | (simp only [↓State.canonical_mk]; with_reducible apply Good.of)
    | split
    | (with_reducible intro _)
    | dsimp only
    | dsimp +zetaDelta only

theorem execRebuildCheckpoint_canonical (k : Fin 8) {s : State} (hs : State.canonical s) :
    Leads State.canonical (execRebuildCheckpoint k s) := by
  unfold execRebuildCheckpoint
  repeat' first
    | with_reducible assumption
    | with_reducible apply Leads.next
    | with_reducible exact Leads.fault _
    | with_reducible apply OptLeads.some
    | with_reducible exact OptLeads.none
    | with_reducible apply OptLeads.map
    | with_reducible apply sendConfig_canonical
    | with_reducible apply emit_canonical
    | with_reducible apply when_canonical
    | with_reducible apply when_canonical
    | extract_lets
    | (simp only [↓State.canonical_mk]; with_reducible apply Good.of)
    | split
    | (with_reducible intro _)
    | dsimp only
    | dsimp +zetaDelta only

theorem queueGraze_canonical (n : Nat) (entry : Option Nat) {s : State} (hs : State.canonical s) :
    State.canonical (queueGraze n entry s) := by
  unfold queueGraze
  repeat' first
    | with_reducible assumption
    | with_reducible apply Leads.next
    | with_reducible exact Leads.fault _
    | with_reducible apply OptLeads.some
    | with_reducible exact OptLeads.none
    | with_reducible apply OptLeads.map
    | with_reducible apply onCare_canonical
    | extract_lets
    | (simp only [↓State.canonical_mk]; with_reducible apply Good.of)
    | split
    | (with_reducible intro _)
    | dsimp only
    | dsimp +zetaDelta only

theorem actOn_canonical (n row : Nat) (f : GrazeFinding) {s : State} (hs : State.canonical s) :
    State.canonical (actOn n row f s) := by
  unfold actOn
  repeat' first
    | with_reducible assumption
    | with_reducible apply Leads.next
    | with_reducible exact Leads.fault _
    | with_reducible apply OptLeads.some
    | with_reducible exact OptLeads.none
    | with_reducible apply OptLeads.map
    | with_reducible apply startRepair_canonical
    | with_reducible apply stat_canonical
    | with_reducible apply logEvent_canonical
    | extract_lets
    | (simp only [↓State.canonical_mk]; with_reducible apply Good.of)
    | split
    | (with_reducible intro _)
    | dsimp only
    | dsimp +zetaDelta only

theorem arbitrateRow_canonical (n row : Nat) (rd : RowReads) {s : State} (hs : State.canonical s) :
    State.canonical (arbitrateRow n row rd s) := by
  unfold arbitrateRow
  repeat' first
    | with_reducible assumption
    | with_reducible apply Leads.next
    | with_reducible exact Leads.fault _
    | with_reducible apply OptLeads.some
    | with_reducible exact OptLeads.none
    | with_reducible apply OptLeads.map
    | with_reducible apply actOn_canonical
    | with_reducible apply queueGraze_canonical
    | with_reducible apply forEach_canonical
    | with_reducible apply forEach_canonical
    | extract_lets
    | (simp only [↓State.canonical_mk]; with_reducible apply Good.of)
    | split
    | (with_reducible intro _)
    | dsimp only
    | dsimp +zetaDelta only

theorem grazeRow_canonical (n : Nat) (grp : Option Nat) (row : Nat) (rd : RowTwice) {s : State} (hs : State.canonical s) :
    State.canonical (grazeRow n grp row rd s) := by
  unfold grazeRow
  repeat' first
    | with_reducible assumption
    | with_reducible apply Leads.next
    | with_reducible exact Leads.fault _
    | with_reducible apply OptLeads.some
    | with_reducible exact OptLeads.none
    | with_reducible apply OptLeads.map
    | with_reducible apply arbitrateRow_canonical
    | with_reducible apply stat_canonical
    | extract_lets
    | (simp only [↓State.canonical_mk]; with_reducible apply Good.of)
    | split
    | (with_reducible intro _)
    | dsimp only
    | dsimp +zetaDelta only

theorem grazeRows_canonical (n : Nat) (grp : Option Nat) (rows : List Nat) (reads : List RowTwice) {s : State} (hs : State.canonical s) :
    State.canonical (grazeRows n grp rows reads s) := by
  unfold grazeRows
  repeat' first
    | with_reducible assumption
    | with_reducible apply Leads.next
    | with_reducible exact Leads.fault _
    | with_reducible apply OptLeads.some
    | with_reducible exact OptLeads.none
    | with_reducible apply OptLeads.map
    | with_reducible apply grazeRow_canonical
    | with_reducible apply forEach_canonical
    | with_reducible apply forEach_canonical
    | extract_lets
    | (simp only [↓State.canonical_mk]; with_reducible apply Good.of)
    | split
    | (with_reducible intro _)
    | dsimp only
    | dsimp +zetaDelta only

theorem advanceGraze_canonical (n key : Nat) {s : State} (hs : State.canonical s) :
    State.canonical (advanceGraze n key s) := by
  unfold advanceGraze
  repeat' first
    | with_reducible assumption
    | with_reducible apply Leads.next
    | with_reducible exact Leads.fault _
    | with_reducible apply OptLeads.some
    | with_reducible exact OptLeads.none
    | with_reducible apply OptLeads.map
    | with_reducible apply sendConfig_canonical
    | with_reducible apply writeRecords_canonical
    | with_reducible apply onCare_canonical
    | extract_lets
    | (simp only [↓State.canonical_mk]; with_reducible apply Good.of)
    | split
    | (with_reducible intro _)
    | dsimp only
    | dsimp +zetaDelta only

theorem State_takeStep_canonical {s : State} (n : Nat) (grp : Option Nat) (hs : State.canonical s) :
    State.canonical (State.takeStep s n grp).2 := by
  unfold State.takeStep
  repeat' first
    | with_reducible assumption
    | with_reducible apply Leads.next
    | with_reducible exact Leads.fault _
    | with_reducible apply OptLeads.some
    | with_reducible exact OptLeads.none
    | with_reducible apply OptLeads.map
    | with_reducible apply advanceGraze_canonical
    | with_reducible apply onCare_canonical
    | extract_lets
    | (simp only [↓State.canonical_mk]; with_reducible apply Good.of)
    | split
    | (with_reducible intro _)
    | dsimp only
    | dsimp +zetaDelta only

theorem State_takeStep_canonical_eq {s : State} (n : Nat) (grp : Option Nat) (hs : State.canonical s) {x y} (e : State.takeStep s n grp = (x, y)) : State.canonical y := by
  have := State_takeStep_canonical n grp hs
  rw [e] at this; exact this

theorem grazeStep_canonical (n : Nat) (grp : Option Nat) (reads : List RowTwice) {s : State} (hs : State.canonical s) :
    State.canonical (grazeStep n grp reads s) := by
  unfold grazeStep
  repeat' first
    | with_reducible assumption
    | with_reducible apply Leads.next
    | with_reducible exact Leads.fault _
    | with_reducible apply OptLeads.some
    | with_reducible exact OptLeads.none
    | with_reducible apply OptLeads.map
    | with_reducible apply State_takeStep_canonical
    | with_reducible refine State_takeStep_canonical_eq _ _ ?_ (by with_reducible assumption)
    | with_reducible apply grazeRows_canonical
    | with_reducible apply stat_canonical
    | with_reducible apply onCare_canonical
    | extract_lets
    | (simp only [↓State.canonical_mk]; with_reducible apply Good.of)
    | split
    | (with_reducible intro _)
    | dsimp only
    | dsimp +zetaDelta only

theorem execGrazeStep_canonical (array : Fin 4) (group : Option (Fin 8)) (first again : List (Nat × RowReads)) {s : State} (hs : State.canonical s) :
    Leads State.canonical (execGrazeStep array group first again s) := by
  unfold execGrazeStep
  repeat' first
    | with_reducible assumption
    | with_reducible apply Leads.next
    | with_reducible exact Leads.fault _
    | with_reducible apply OptLeads.some
    | with_reducible exact OptLeads.none
    | with_reducible apply OptLeads.map
    | with_reducible apply grazeStep_canonical
    | with_reducible apply after_canonical
    | with_reducible apply requestTokens_canonical
    | with_reducible apply requestSlot_canonical
    | with_reducible apply forEach_canonical
    | with_reducible apply forEach_canonical
    | extract_lets
    | (simp only [↓State.canonical_mk]; with_reducible apply Good.of)
    | split
    | (with_reducible intro _)
    | dsimp only
    | dsimp +zetaDelta only

theorem execGrazeResume_canonical (array : Fin 4) (group : Fin 9) {s : State} (hs : State.canonical s) :
    Leads State.canonical (execGrazeResume array group s) := by
  unfold execGrazeResume
  repeat' first
    | with_reducible assumption
    | with_reducible apply Leads.next
    | with_reducible exact Leads.fault _
    | with_reducible apply OptLeads.some
    | with_reducible exact OptLeads.none
    | with_reducible apply OptLeads.map
    | with_reducible apply onCare_canonical
    | extract_lets
    | (simp only [↓State.canonical_mk]; with_reducible apply Good.of)
    | split
    | (with_reducible intro _)
    | dsimp only
    | dsimp +zetaDelta only

theorem execGrazeOverdue_canonical (array : Fin 4) (group : Fin 8) (whole : Bool) {s : State} (hs : State.canonical s) :
    Leads State.canonical (execGrazeOverdue array group whole s) := by
  unfold execGrazeOverdue
  repeat' first
    | with_reducible assumption
    | with_reducible apply Leads.next
    | with_reducible exact Leads.fault _
    | with_reducible apply OptLeads.some
    | with_reducible exact OptLeads.none
    | with_reducible apply OptLeads.map
    | with_reducible apply onCare_canonical
    | extract_lets
    | (simp only [↓State.canonical_mk]; with_reducible apply Good.of)
    | split
    | (with_reducible intro _)
    | dsimp only
    | dsimp +zetaDelta only

end Sys2Proof.Machine
end

