-- ==== Sys2Proof/Laws/CanonJobs.lean ====
section
/-! SUPPORT. The canonical form is kept by the operations of Machine/Jobs.lean. -/

set_option linter.all false

namespace Sys2Proof.Machine

theorem writeSidecar_canonical (a crc : Nat) {s : State} (hs : State.canonical s) :
    State.canonical (writeSidecar a crc s) := by
  unfold writeSidecar
  repeat' first
    | with_reducible assumption
    | with_reducible apply Leads.next
    | with_reducible exact Leads.fault _
    | with_reducible apply OptLeads.some
    | with_reducible exact OptLeads.none
    | with_reducible apply OptLeads.map
    | with_reducible apply disarm_canonical
    | with_reducible apply useFree_canonical
    | with_reducible apply writeBytes_canonical
    | extract_lets
    | (simp only [↓State.canonical_mk]; with_reducible apply Good.of)
    | split
    | (with_reducible intro _)
    | dsimp only
    | dsimp +zetaDelta only

theorem deliverTo_canonical (x : Dst) (blocks : List Block) (whole : Bool) {s : State} (hs : State.canonical s) :
    State.canonical (deliverTo x blocks whole s) := by
  unfold deliverTo
  repeat' first
    | with_reducible assumption
    | with_reducible apply Leads.next
    | with_reducible exact Leads.fault _
    | with_reducible apply OptLeads.some
    | with_reducible exact OptLeads.none
    | with_reducible apply OptLeads.map
    | with_reducible apply writeSidecar_canonical
    | with_reducible apply feed_canonical
    | with_reducible apply writeBytes_canonical
    | with_reducible apply forEach_canonical
    | with_reducible apply forEach_canonical
    | extract_lets
    | (simp only [↓State.canonical_mk]; with_reducible apply Good.of)
    | split
    | (with_reducible intro _)
    | dsimp only
    | dsimp +zetaDelta only

theorem deliverAll_canonical (j : Job) (outs content : List (List Block)) (stop : Option (Nat × List Nat)) {s : State} (hs : State.canonical s) :
    State.canonical (deliverAll j outs content stop s) := by
  unfold deliverAll
  repeat' first
    | with_reducible assumption
    | with_reducible apply Leads.next
    | with_reducible exact Leads.fault _
    | with_reducible apply OptLeads.some
    | with_reducible exact OptLeads.none
    | with_reducible apply OptLeads.map
    | with_reducible apply deliverTo_canonical
    | with_reducible apply forEach_canonical
    | with_reducible apply forEach_canonical
    | extract_lets
    | (simp only [↓State.canonical_mk]; with_reducible apply Good.of)
    | split
    | (with_reducible intro _)
    | dsimp only
    | dsimp +zetaDelta only

theorem writeDigests_canonical (j : Job) (outs content : List (List Block)) {s : State} (hs : State.canonical s) :
    State.canonical (writeDigests j outs content s) := by
  unfold writeDigests
  repeat' first
    | with_reducible assumption
    | with_reducible apply Leads.next
    | with_reducible exact Leads.fault _
    | with_reducible apply OptLeads.some
    | with_reducible exact OptLeads.none
    | with_reducible apply OptLeads.map
    | with_reducible apply writeBytes_canonical
    | with_reducible apply forEach_canonical
    | with_reducible apply forEach_canonical
    | extract_lets
    | (simp only [↓State.canonical_mk]; with_reducible apply Good.of)
    | split
    | (with_reducible intro _)
    | dsimp only
    | dsimp +zetaDelta only

theorem settleBlock_canonical (key ver : Nat) (partner : List (Nat × (Block × Nat))) {s : State} (hs : State.canonical s) :
    State.canonical (settleBlock key ver partner s) := by
  unfold settleBlock
  repeat' first
    | with_reducible assumption
    | with_reducible apply Leads.next
    | with_reducible exact Leads.fault _
    | with_reducible apply OptLeads.some
    | with_reducible exact OptLeads.none
    | with_reducible apply OptLeads.map
    | with_reducible apply logLost_canonical
    | with_reducible apply addLost_canonical
    | with_reducible apply unstage_canonical
    | with_reducible apply unexpose_canonical
    | with_reducible apply when_canonical
    | with_reducible apply event_canonical
    | with_reducible apply when_canonical
    | extract_lets
    | (simp only [↓State.canonical_mk]; with_reducible apply Good.of)
    | split
    | (with_reducible intro _)
    | dsimp only
    | dsimp +zetaDelta only

theorem freeRx_canonical (keys : List Nat) {s : State} (hs : State.canonical s) :
    State.canonical (freeRx keys s) := by
  unfold freeRx
  repeat' first
    | with_reducible assumption
    | with_reducible apply Leads.next
    | with_reducible exact Leads.fault _
    | with_reducible apply OptLeads.some
    | with_reducible exact OptLeads.none
    | with_reducible apply OptLeads.map
    | extract_lets
    | (simp only [↓State.canonical_mk]; with_reducible apply Good.of)
    | split
    | (with_reducible intro _)
    | dsimp only
    | dsimp +zetaDelta only

theorem freeSources_canonical (j : Job) {s : State} (hs : State.canonical s) :
    State.canonical (freeSources j s) := by
  unfold freeSources
  repeat' first
    | with_reducible assumption
    | with_reducible apply Leads.next
    | with_reducible exact Leads.fault _
    | with_reducible apply OptLeads.some
    | with_reducible exact OptLeads.none
    | with_reducible apply OptLeads.map
    | with_reducible apply freeRx_canonical
    | extract_lets
    | (simp only [↓State.canonical_mk]; with_reducible apply Good.of)
    | split
    | (with_reducible intro _)
    | dsimp only
    | dsimp +zetaDelta only

theorem settleLines_canonical (y : Update) (j : Job) (x : JobEnd) (partner : List (Nat × (Block × Nat))) {s : State} (hs : State.canonical s) :
    State.canonical (settleLines y j x partner s) := by
  unfold settleLines
  repeat' first
    | with_reducible assumption
    | with_reducible apply Leads.next
    | with_reducible exact Leads.fault _
    | with_reducible apply OptLeads.some
    | with_reducible exact OptLeads.none
    | with_reducible apply OptLeads.map
    | with_reducible apply settleBlock_canonical
    | with_reducible apply forEach_canonical
    | with_reducible apply event_canonical
    | with_reducible apply forEach_canonical
    | extract_lets
    | (simp only [↓State.canonical_mk]; with_reducible apply Good.of)
    | split
    | (with_reducible intro _)
    | dsimp only
    | dsimp +zetaDelta only

theorem managerActs_canonical (j : Job) (status : Nat) (x : JobEnd) (outs content : List (List Block)) (partner : List (Nat × (Block × Nat))) {s : State} (hs : State.canonical s) :
    State.canonical (managerActs j status x outs content partner s) := by
  unfold managerActs
  repeat' first
    | with_reducible assumption
    | with_reducible apply Leads.next
    | with_reducible exact Leads.fault _
    | with_reducible apply OptLeads.some
    | with_reducible exact OptLeads.none
    | with_reducible apply OptLeads.map
    | with_reducible apply settleLines_canonical
    | with_reducible apply freeSources_canonical
    | with_reducible apply writeDigests_canonical
    | with_reducible apply beginWrites_canonical
    | with_reducible apply abortWrites_canonical
    | with_reducible apply issueJob_canonical
    | with_reducible apply deltaDone_canonical
    | with_reducible apply pieceLanded_canonical
    | with_reducible apply pieceFailed_canonical
    | with_reducible apply pieceLost_canonical
    | with_reducible apply postJob_canonical
    | with_reducible apply useFree_canonical
    | with_reducible apply when_canonical
    | with_reducible apply when_canonical
    | extract_lets
    | (simp only [↓State.canonical_mk]; with_reducible apply Good.of)
    | split
    | (with_reducible intro _)
    | dsimp only
    | dsimp +zetaDelta only

theorem disagree_canonical (id : Nat) (j : Job) (content : List (List Block)) {s : State} (hs : State.canonical s) :
    State.canonical (disagree id j content s) := by
  unfold disagree
  repeat' first
    | with_reducible assumption
    | with_reducible apply Leads.next
    | with_reducible exact Leads.fault _
    | with_reducible apply OptLeads.some
    | with_reducible exact OptLeads.none
    | with_reducible apply OptLeads.map
    | with_reducible apply placeRun_canonical
    | with_reducible refine OptLeads.elim (placeRun_canonical _ _ _ ?_) (by with_reducible assumption)
    | with_reducible apply onJob_canonical
    | with_reducible apply keepTarget_canonical
    | with_reducible apply returnQueue_canonical
    | with_reducible apply onEng_canonical
    | with_reducible apply setEng_canonical
    | with_reducible apply event_canonical
    | with_reducible apply id_canonical
    | extract_lets
    | (simp only [↓State.canonical_mk]; with_reducible apply Good.of)
    | split
    | (with_reducible intro _)
    | dsimp only
    | dsimp +zetaDelta only

theorem finalize_canonical (id : Nat) (j : Job) (x : JobEnd) (outs content : List (List Block)) (partner : List (Nat × (Block × Nat))) {s : State} (hs : State.canonical s) :
    State.canonical (finalize id j x outs content partner s) := by
  unfold finalize
  repeat' first
    | with_reducible assumption
    | with_reducible apply Leads.next
    | with_reducible exact Leads.fault _
    | with_reducible apply OptLeads.some
    | with_reducible exact OptLeads.none
    | with_reducible apply OptLeads.map
    | with_reducible apply disagree_canonical
    | with_reducible apply managerActs_canonical
    | with_reducible apply dropJob_canonical
    | with_reducible apply recordJob_canonical
    | with_reducible apply id_canonical
    | extract_lets
    | (simp only [↓State.canonical_mk]; with_reducible apply Good.of)
    | split
    | (with_reducible intro _)
    | dsimp only
    | dsimp +zetaDelta only

theorem endRun_canonical (e id run : Nat) (r : RunEnd) (x : JobEnd) (outs content : List (List Block)) (partner : List (Nat × (Block × Nat))) {s : State} (hs : State.canonical s) :
    State.canonical (endRun e id run r x outs content partner s) := by
  unfold endRun
  repeat' first
    | with_reducible assumption
    | with_reducible apply Leads.next
    | with_reducible exact Leads.fault _
    | with_reducible apply OptLeads.some
    | with_reducible exact OptLeads.none
    | with_reducible apply OptLeads.map
    | with_reducible apply finalize_canonical
    | with_reducible apply onJob_canonical
    | with_reducible apply settleEngine_canonical
    | with_reducible apply onEng_canonical
    | with_reducible apply id_canonical
    | extract_lets
    | (simp only [↓State.canonical_mk]; with_reducible apply Good.of)
    | split
    | (with_reducible intro _)
    | dsimp only
    | dsimp +zetaDelta only

theorem execJobStart_canonical (e : Fin 28) {s : State} (hs : State.canonical s) :
    Leads State.canonical (execJobStart e s) := by
  unfold execJobStart
  repeat' first
    | with_reducible assumption
    | with_reducible apply Leads.next
    | with_reducible exact Leads.fault _
    | with_reducible apply OptLeads.some
    | with_reducible exact OptLeads.none
    | with_reducible apply OptLeads.map
    | with_reducible apply endRun_canonical
    | with_reducible apply after_canonical
    | with_reducible apply onJob_canonical
    | with_reducible apply onEng_canonical
    | with_reducible apply when_canonical
    | with_reducible apply bump_canonical
    | with_reducible apply setF_canonical
    | with_reducible apply setF_canonical
    | with_reducible apply when_canonical
    | with_reducible apply id_canonical
    | extract_lets
    | (simp only [↓State.canonical_mk]; with_reducible apply Good.of)
    | split
    | (with_reducible intro _)
    | dsimp only
    | dsimp +zetaDelta only

theorem abortFed_canonical (j : Job) {s : State} (hs : State.canonical s) :
    State.canonical (abortFed j s) := by
  unfold abortFed
  repeat' first
    | with_reducible assumption
    | with_reducible apply Leads.next
    | with_reducible exact Leads.fault _
    | with_reducible apply OptLeads.some
    | with_reducible exact OptLeads.none
    | with_reducible apply OptLeads.map
    | with_reducible apply dropCmd_canonical
    | with_reducible apply memberEnd_canonical
    | with_reducible apply emit_canonical
    | with_reducible apply forEach_canonical
    | with_reducible apply forEach_canonical
    | extract_lets
    | (simp only [↓State.canonical_mk]; with_reducible apply Good.of)
    | split
    | (with_reducible intro _)
    | dsimp only
    | dsimp +zetaDelta only

theorem execJobComplete_canonical (e : Fin 28) (x : JobEnd) (noise : List (Nat × List Block)) (delivered : List Nat) (corrected stallUs : Nat) (partner : List (Nat × (Block × Nat))) {s : State} (hs : State.canonical s) :
    Leads State.canonical (execJobComplete e x noise delivered corrected stallUs partner s) := by
  unfold execJobComplete
  repeat' first
    | with_reducible assumption
    | with_reducible apply Leads.next
    | with_reducible exact Leads.fault _
    | with_reducible apply OptLeads.some
    | with_reducible exact OptLeads.none
    | with_reducible apply OptLeads.map
    | with_reducible apply abortFed_canonical
    | with_reducible apply endRun_canonical
    | with_reducible apply freeSources_canonical
    | with_reducible apply deliverAll_canonical
    | with_reducible apply after_canonical
    | with_reducible apply when_canonical
    | with_reducible apply event_canonical
    | with_reducible apply bumpBy_canonical
    | with_reducible apply bump_canonical
    | with_reducible apply when_canonical
    | with_reducible apply id_canonical
    | extract_lets
    | (simp only [↓State.canonical_mk]; with_reducible apply Good.of)
    | split
    | (with_reducible intro _)
    | dsimp only
    | dsimp +zetaDelta only

end Sys2Proof.Machine
end

