-- ==== Sys2Proof/Laws/CanonJournal.lean ====
section
/-! SUPPORT. The canonical form is kept by the operations of Machine/Journal.lean. -/

set_option linter.all false

namespace Sys2Proof.Machine

theorem lastHost_canonical (kind : Nat) (c : Cmd) (lba : Nat) {s : State} (hs : State.canonical s) :
    State.canonical (lastHost kind c lba s) := by
  unfold lastHost
  repeat' first
    | with_reducible assumption
    | with_reducible apply Leads.next
    | with_reducible exact Leads.fault _
    | with_reducible apply OptLeads.some
    | with_reducible exact OptLeads.none
    | with_reducible apply OptLeads.map
    | with_reducible apply set64_canonical
    | with_reducible apply setF_canonical
    | with_reducible apply setF_canonical
    | extract_lets
    | (simp only [↓State.canonical_mk]; with_reducible apply Good.of)
    | split
    | (with_reducible intro _)
    | dsimp only
    | dsimp +zetaDelta only

theorem checkBlocks_canonical (c : Cmd) (l : List HostBlock) (i : Nat) {s : State} (hs : State.canonical s) :
    State.canonical (checkBlocks c l i s).2 := by
  induction l generalizing i s with
  | nil =>
    unfold checkBlocks
    repeat' first
      | with_reducible assumption
      | with_reducible apply Leads.next
      | with_reducible exact Leads.fault _
      | with_reducible apply OptLeads.some
      | with_reducible exact OptLeads.none
      | with_reducible apply OptLeads.map
      | with_reducible apply disarm_canonical
      | with_reducible apply bump_canonical
      | extract_lets
      | (simp only [↓State.canonical_mk]; with_reducible apply Good.of)
      | split
      | (with_reducible intro _)
      | dsimp only
      | dsimp +zetaDelta only
  | cons x l ih =>
    unfold checkBlocks
    repeat' first
      | with_reducible assumption
      | with_reducible apply Leads.next
      | with_reducible exact Leads.fault _
      | with_reducible apply OptLeads.some
      | with_reducible exact OptLeads.none
      | with_reducible apply OptLeads.map
      | with_reducible apply ih
      | with_reducible apply disarm_canonical
      | with_reducible apply bump_canonical
      | extract_lets
      | (simp only [↓State.canonical_mk]; with_reducible apply Good.of)
      | split
      | (with_reducible intro _)
      | dsimp only
      | dsimp +zetaDelta only

theorem checkBlocks_canonical_eq (c : Cmd) (l : List HostBlock) (i : Nat) {s : State} (hs : State.canonical s) {x y} (e : checkBlocks c l i s = (x, y)) : State.canonical y := by
  have := checkBlocks_canonical c l i hs
  rw [e] at this; exact this

theorem ingestFails_canonical (n : Nat) (c : Cmd) (kind i : Nat) {s : State} (hs : State.canonical s) :
    State.canonical (ingestFails n c kind i s) := by
  unfold ingestFails
  repeat' first
    | with_reducible assumption
    | with_reducible apply Leads.next
    | with_reducible exact Leads.fault _
    | with_reducible apply OptLeads.some
    | with_reducible exact OptLeads.none
    | with_reducible apply OptLeads.map
    | with_reducible apply lastHost_canonical
    | with_reducible apply finish_canonical
    | with_reducible apply event_canonical
    | extract_lets
    | (simp only [↓State.canonical_mk]; with_reducible apply Good.of)
    | split
    | (with_reducible intro _)
    | dsimp only
    | dsimp +zetaDelta only

theorem fromHost_canonical (e : Entry) {s : State} (hs : State.canonical s) :
    State.canonical (fromHost e s) := by
  unfold fromHost
  repeat' first
    | with_reducible assumption
    | with_reducible apply Leads.next
    | with_reducible exact Leads.fault _
    | with_reducible apply OptLeads.some
    | with_reducible exact OptLeads.none
    | with_reducible apply OptLeads.map
    | with_reducible apply readHost_canonical
    | with_reducible apply forEach_canonical
    | with_reducible apply forEach_canonical
    | extract_lets
    | (simp only [↓State.canonical_mk]; with_reducible apply Good.of)
    | split
    | (with_reducible intro _)
    | dsimp only
    | dsimp +zetaDelta only

theorem execHostDataIngest_canonical (qid cid : Nat) (blocks : List HostBlock) {s : State} (hs : State.canonical s) :
    Leads State.canonical (execHostDataIngest qid cid blocks s) := by
  unfold execHostDataIngest
  repeat' first
    | with_reducible assumption
    | with_reducible apply Leads.next
    | with_reducible exact Leads.fault _
    | with_reducible apply OptLeads.some
    | with_reducible exact OptLeads.none
    | with_reducible apply OptLeads.map
    | with_reducible apply fromHost_canonical
    | with_reducible apply ingestFails_canonical
    | with_reducible apply checkBlocks_canonical
    | with_reducible refine checkBlocks_canonical_eq _ _ _ ?_ (by with_reducible assumption)
    | with_reducible apply landBlocks_canonical
    | with_reducible refine landBlocks_canonical_eq _ ?_ (by with_reducible assumption)
    | with_reducible apply onCmd_canonical
    | extract_lets
    | (simp only [↓State.canonical_mk]; with_reducible apply Good.of)
    | split
    | (with_reducible intro _)
    | dsimp only
    | dsimp +zetaDelta only

theorem putLines_canonical (v lba : Nat) (lines : List Line) {s : State} (hs : State.canonical s) :
    State.canonical (putLines v lba lines s) := by
  unfold putLines
  repeat' first
    | with_reducible assumption
    | with_reducible apply Leads.next
    | with_reducible exact Leads.fault _
    | with_reducible apply OptLeads.some
    | with_reducible exact OptLeads.none
    | with_reducible apply OptLeads.map
    | extract_lets
    | (simp only [↓State.canonical_mk]; with_reducible apply Good.of)
    | split
    | (with_reducible intro _)
    | dsimp only
    | dsimp +zetaDelta only

theorem sendLines_canonical (v lba : Nat) (lines : List Line) {s : State} (hs : State.canonical s) :
    State.canonical (sendLines v lba lines s) := by
  unfold sendLines
  repeat' first
    | with_reducible assumption
    | with_reducible apply Leads.next
    | with_reducible exact Leads.fault _
    | with_reducible apply OptLeads.some
    | with_reducible exact OptLeads.none
    | with_reducible apply OptLeads.map
    | with_reducible apply disarm_canonical
    | with_reducible apply useFree_canonical
    | with_reducible apply sendMir_canonical
    | with_reducible apply when_canonical
    | with_reducible apply when_canonical
    | extract_lets
    | (simp only [↓State.canonical_mk]; with_reducible apply Good.of)
    | split
    | (with_reducible intro _)
    | dsimp only
    | dsimp +zetaDelta only

theorem commitBlocks_canonical (n v lba : Nat) (lines : List Line) (fua : Bool) (fails : Nat) {s : State} (hs : State.canonical s) :
    State.canonical (commitBlocks n v lba lines fua fails s) := by
  unfold commitBlocks
  repeat' first
    | with_reducible assumption
    | with_reducible apply Leads.next
    | with_reducible exact Leads.fault _
    | with_reducible apply OptLeads.some
    | with_reducible exact OptLeads.none
    | with_reducible apply OptLeads.map
    | with_reducible apply sendLines_canonical
    | with_reducible apply putLines_canonical
    | with_reducible apply demand_canonical
    | with_reducible apply stage_canonical
    | with_reducible apply onCmd_canonical
    | with_reducible apply when_canonical
    | with_reducible apply when_canonical
    | extract_lets
    | (simp only [↓State.canonical_mk]; with_reducible apply Good.of)
    | split
    | (with_reducible intro _)
    | dsimp only
    | dsimp +zetaDelta only

theorem endWrite_canonical (n : Nat) {s : State} (hs : State.canonical s) :
    State.canonical (endWrite n s) := by
  unfold endWrite
  repeat' first
    | with_reducible assumption
    | with_reducible apply Leads.next
    | with_reducible exact Leads.fault _
    | with_reducible apply OptLeads.some
    | with_reducible exact OptLeads.none
    | with_reducible apply OptLeads.map
    | with_reducible apply finish_canonical
    | extract_lets
    | (simp only [↓State.canonical_mk]; with_reducible apply Good.of)
    | split
    | (with_reducible intro _)
    | dsimp only
    | dsimp +zetaDelta only

theorem execWriteCommit_canonical (qid : Nat) (commit : CommitFacts) {s : State} (hs : State.canonical s) :
    Leads State.canonical (execWriteCommit qid commit s) := by
  unfold execWriteCommit
  repeat' first
    | with_reducible assumption
    | with_reducible apply Leads.next
    | with_reducible exact Leads.fault _
    | with_reducible apply OptLeads.some
    | with_reducible exact OptLeads.none
    | with_reducible apply OptLeads.map
    | with_reducible apply endWrite_canonical
    | with_reducible apply commitBlocks_canonical
    | with_reducible apply after_canonical
    | with_reducible apply stagingStall_canonical
    | with_reducible apply finish_canonical
    | with_reducible apply onCmd_canonical
    | extract_lets
    | (simp only [↓State.canonical_mk]; with_reducible apply Good.of)
    | split
    | (with_reducible intro _)
    | dsimp only
    | dsimp +zetaDelta only

theorem execForceWtWrite_canonical (v : Bool) {s : State} (hs : State.canonical s) :
    Leads State.canonical (execForceWtWrite v s) := by
  unfold execForceWtWrite
  repeat' first
    | with_reducible assumption
    | with_reducible apply Leads.next
    | with_reducible exact Leads.fault _
    | with_reducible apply OptLeads.some
    | with_reducible exact OptLeads.none
    | with_reducible apply OptLeads.map
    | with_reducible apply reselect_canonical
    | with_reducible apply land_canonical
    | with_reducible refine Leads.elim (land_canonical _ _ _ ?_ ?_) (by with_reducible assumption)
    | with_reducible apply setF_canonical
    | with_reducible apply setF_canonical
    | extract_lets
    | (simp only [↓State.canonical_mk]; with_reducible apply Good.of)
    | split
    | (with_reducible intro _)
    | dsimp only
    | dsimp +zetaDelta only

theorem execWriteThroughReached_canonical {s : State} (hs : State.canonical s) :
    Leads State.canonical (execWriteThroughReached s) := by
  unfold execWriteThroughReached
  repeat' first
    | with_reducible assumption
    | with_reducible apply Leads.next
    | with_reducible exact Leads.fault _
    | with_reducible apply OptLeads.some
    | with_reducible exact OptLeads.none
    | with_reducible apply OptLeads.map
    | with_reducible apply reachWt_canonical
    | extract_lets
    | (simp only [↓State.canonical_mk]; with_reducible apply Good.of)
    | split
    | (with_reducible intro _)
    | dsimp only
    | dsimp +zetaDelta only

theorem execWtHoldTimeout_canonical (qid cid : Nat) {s : State} (hs : State.canonical s) :
    Leads State.canonical (execWtHoldTimeout qid cid s) := by
  unfold execWtHoldTimeout
  repeat' first
    | with_reducible assumption
    | with_reducible apply Leads.next
    | with_reducible exact Leads.fault _
    | with_reducible apply OptLeads.some
    | with_reducible exact OptLeads.none
    | with_reducible apply OptLeads.map
    | with_reducible apply after_canonical
    | with_reducible apply finish_canonical
    | extract_lets
    | (simp only [↓State.canonical_mk]; with_reducible apply Good.of)
    | split
    | (with_reducible intro _)
    | dsimp only
    | dsimp +zetaDelta only

theorem execPackHealthyWrite_canonical (v : Bool) {s : State} (hs : State.canonical s) :
    Leads State.canonical (execPackHealthyWrite v s) := by
  unfold execPackHealthyWrite
  repeat' first
    | with_reducible assumption
    | with_reducible apply Leads.next
    | with_reducible exact Leads.fault _
    | with_reducible apply OptLeads.some
    | with_reducible exact OptLeads.none
    | with_reducible apply OptLeads.map
    | with_reducible apply after_canonical
    | with_reducible apply setPackHealthy_canonical
    | with_reducible apply land_canonical
    | with_reducible refine Leads.elim (land_canonical _ _ _ ?_ ?_) (by with_reducible assumption)
    | extract_lets
    | (simp only [↓State.canonical_mk]; with_reducible apply Good.of)
    | split
    | (with_reducible intro _)
    | dsimp only
    | dsimp +zetaDelta only

theorem execPartnerLiveWrite_canonical (v : Bool) {s : State} (hs : State.canonical s) :
    Leads State.canonical (execPartnerLiveWrite v s) := by
  unfold execPartnerLiveWrite
  repeat' first
    | with_reducible assumption
    | with_reducible apply Leads.next
    | with_reducible exact Leads.fault _
    | with_reducible apply OptLeads.some
    | with_reducible exact OptLeads.none
    | with_reducible apply OptLeads.map
    | with_reducible apply after_canonical
    | with_reducible apply setPartnerLive_canonical
    | with_reducible apply land_canonical
    | with_reducible refine Leads.elim (land_canonical _ _ _ ?_ ?_) (by with_reducible assumption)
    | extract_lets
    | (simp only [↓State.canonical_mk]; with_reducible apply Good.of)
    | split
    | (with_reducible intro _)
    | dsimp only
    | dsimp +zetaDelta only

theorem execReplayDoneWrite_canonical {s : State} (hs : State.canonical s) :
    Leads State.canonical (execReplayDoneWrite s) := by
  unfold execReplayDoneWrite
  repeat' first
    | with_reducible assumption
    | with_reducible apply Leads.next
    | with_reducible exact Leads.fault _
    | with_reducible apply OptLeads.some
    | with_reducible exact OptLeads.none
    | with_reducible apply OptLeads.map
    | with_reducible apply after_canonical
    | with_reducible apply retryIntents_canonical
    | with_reducible apply land_canonical
    | with_reducible refine Leads.elim (land_canonical _ _ _ ?_ ?_) (by with_reducible assumption)
    | with_reducible apply setF_canonical
    | with_reducible apply setF_canonical
    | extract_lets
    | (simp only [↓State.canonical_mk]; with_reducible apply Good.of)
    | split
    | (with_reducible intro _)
    | dsimp only
    | dsimp +zetaDelta only

theorem execWritebackAgeExpiry_canonical (array : Fin 4) (row : Nat) {s : State} (hs : State.canonical s) :
    Leads State.canonical (execWritebackAgeExpiry array row s) := by
  unfold execWritebackAgeExpiry
  repeat' first
    | with_reducible assumption
    | with_reducible apply Leads.next
    | with_reducible exact Leads.fault _
    | with_reducible apply OptLeads.some
    | with_reducible exact OptLeads.none
    | with_reducible apply OptLeads.map
    | extract_lets
    | (simp only [↓State.canonical_mk]; with_reducible apply Good.of)
    | split
    | (with_reducible intro _)
    | dsimp only
    | dsimp +zetaDelta only

theorem execWritebackStart_canonical (array : Fin 4) (row : Nat) {s : State} (hs : State.canonical s) :
    Leads State.canonical (execWritebackStart array row s) := by
  unfold execWritebackStart
  repeat' first
    | with_reducible assumption
    | with_reducible apply Leads.next
    | with_reducible exact Leads.fault _
    | with_reducible apply OptLeads.some
    | with_reducible exact OptLeads.none
    | with_reducible apply OptLeads.map
    | with_reducible apply after_canonical
    | with_reducible apply startRow_canonical
    | extract_lets
    | (simp only [↓State.canonical_mk]; with_reducible apply Good.of)
    | split
    | (with_reducible intro _)
    | dsimp only
    | dsimp +zetaDelta only

theorem execRowLockGrant_canonical (array : Fin 4) (row : Nat) {s : State} (hs : State.canonical s) :
    Leads State.canonical (execRowLockGrant array row s) := by
  unfold execRowLockGrant
  repeat' first
    | with_reducible assumption
    | with_reducible apply Leads.next
    | with_reducible exact Leads.fault _
    | with_reducible apply OptLeads.some
    | with_reducible exact OptLeads.none
    | with_reducible apply OptLeads.map
    | with_reducible apply after_canonical
    | with_reducible apply wakeMembers_canonical
    | with_reducible apply grantUpdate_canonical
    | with_reducible apply beginRepair_canonical
    | with_reducible apply takeLock_canonical
    | with_reducible refine takeLock_canonical_eq _ ?_ (by with_reducible assumption)
    | extract_lets
    | (simp only [↓State.canonical_mk]; with_reducible apply Good.of)
    | split
    | (with_reducible intro _)
    | dsimp only
    | dsimp +zetaDelta only

theorem execIntentLanded_canonical (index : Nat) {s : State} (hs : State.canonical s) :
    Leads State.canonical (execIntentLanded index s) := by
  unfold execIntentLanded
  repeat' first
    | with_reducible assumption
    | with_reducible apply Leads.next
    | with_reducible exact Leads.fault _
    | with_reducible apply OptLeads.some
    | with_reducible exact OptLeads.none
    | with_reducible apply OptLeads.map
    | with_reducible apply issueJob_canonical
    | with_reducible apply onUpdate_canonical
    | extract_lets
    | (simp only [↓State.canonical_mk]; with_reducible apply Good.of)
    | split
    | (with_reducible intro _)
    | dsimp only
    | dsimp +zetaDelta only

theorem execJnlAlloc_canonical (next : Fin 4) {s : State} (hs : State.canonical s) :
    Leads State.canonical (execJnlAlloc next s) := by
  unfold execJnlAlloc
  repeat' first
    | with_reducible assumption
    | with_reducible apply Leads.next
    | with_reducible exact Leads.fault _
    | with_reducible apply OptLeads.some
    | with_reducible exact OptLeads.none
    | with_reducible apply OptLeads.map
    | with_reducible apply allocRun_canonical
    | with_reducible apply land_canonical
    | with_reducible refine Leads.elim (land_canonical _ _ _ ?_ ?_) (by with_reducible assumption)
    | with_reducible apply setF_canonical
    | with_reducible apply setF_canonical
    | extract_lets
    | (simp only [↓State.canonical_mk]; with_reducible apply Good.of)
    | split
    | (with_reducible intro _)
    | dsimp only
    | dsimp +zetaDelta only

theorem execIntentRetire_canonical (index : Nat) {s : State} (hs : State.canonical s) :
    Leads State.canonical (execIntentRetire index s) := by
  unfold execIntentRetire
  repeat' first
    | with_reducible assumption
    | with_reducible apply Leads.next
    | with_reducible exact Leads.fault _
    | with_reducible apply OptLeads.some
    | with_reducible exact OptLeads.none
    | with_reducible apply OptLeads.map
    | with_reducible apply after_canonical
    | with_reducible apply retireIntent_canonical
    | extract_lets
    | (simp only [↓State.canonical_mk]; with_reducible apply Good.of)
    | split
    | (with_reducible intro _)
    | dsimp only
    | dsimp +zetaDelta only

theorem showImage_canonical {s : State} (hs : State.canonical s) :
    State.canonical (showImage s) := by
  unfold showImage
  repeat' first
    | with_reducible assumption
    | with_reducible apply Leads.next
    | with_reducible exact Leads.fault _
    | with_reducible apply OptLeads.some
    | with_reducible exact OptLeads.none
    | with_reducible apply OptLeads.map
    | with_reducible apply setF_canonical
    | with_reducible apply setF_canonical
    | extract_lets
    | (simp only [↓State.canonical_mk]; with_reducible apply Good.of)
    | split
    | (with_reducible intro _)
    | dsimp only
    | dsimp +zetaDelta only

theorem imageLost_canonical {s : State} (hs : State.canonical s) :
    State.canonical (imageLost s) := by
  unfold imageLost
  repeat' first
    | with_reducible assumption
    | with_reducible apply Leads.next
    | with_reducible exact Leads.fault _
    | with_reducible apply OptLeads.some
    | with_reducible exact OptLeads.none
    | with_reducible apply OptLeads.map
    | with_reducible apply logPlain_canonical
    | with_reducible apply event_canonical
    | extract_lets
    | (simp only [↓State.canonical_mk]; with_reducible apply Good.of)
    | split
    | (with_reducible intro _)
    | dsimp only
    | dsimp +zetaDelta only

theorem dirsFail_canonical (areas : List Nat) {s : State} (hs : State.canonical s) :
    State.canonical (dirsFail areas s) := by
  unfold dirsFail
  repeat' first
    | with_reducible assumption
    | with_reducible apply Leads.next
    | with_reducible exact Leads.fault _
    | with_reducible apply OptLeads.some
    | with_reducible exact OptLeads.none
    | with_reducible apply OptLeads.map
    | extract_lets
    | (simp only [↓State.canonical_mk]; with_reducible apply Good.of)
    | split
    | (with_reducible intro _)
    | dsimp only
    | dsimp +zetaDelta only

theorem takeLines_canonical (ls : List (Nat × Line)) {s : State} (hs : State.canonical s) :
    State.canonical (takeLines ls s) := by
  unfold takeLines
  repeat' first
    | with_reducible assumption
    | with_reducible apply Leads.next
    | with_reducible exact Leads.fault _
    | with_reducible apply OptLeads.some
    | with_reducible exact OptLeads.none
    | with_reducible apply OptLeads.map
    | extract_lets
    | (simp only [↓State.canonical_mk]; with_reducible apply Good.of)
    | split
    | (with_reducible intro _)
    | dsimp only
    | dsimp +zetaDelta only

theorem loadContent_canonical (partnerSeq : Option Nat) {s : State} (hs : State.canonical s) :
    State.canonical (loadContent partnerSeq s) := by
  unfold loadContent
  repeat' first
    | with_reducible assumption
    | with_reducible apply Leads.next
    | with_reducible exact Leads.fault _
    | with_reducible apply OptLeads.some
    | with_reducible exact OptLeads.none
    | with_reducible apply OptLeads.map
    | with_reducible apply takeLines_canonical
    | with_reducible apply imageLost_canonical
    | with_reducible apply showImage_canonical
    | with_reducible apply when_canonical
    | with_reducible apply when_canonical
    | extract_lets
    | (simp only [↓State.canonical_mk]; with_reducible apply Good.of)
    | split
    | (with_reducible intro _)
    | dsimp only
    | dsimp +zetaDelta only

theorem restoreStaging_canonical {s : State} (hs : State.canonical s) :
    State.canonical (restoreStaging s) := by
  unfold restoreStaging
  repeat' first
    | with_reducible assumption
    | with_reducible apply Leads.next
    | with_reducible exact Leads.fault _
    | with_reducible apply OptLeads.some
    | with_reducible exact OptLeads.none
    | with_reducible apply OptLeads.map
    | with_reducible apply imageLost_canonical
    | with_reducible apply logLost_canonical
    | with_reducible apply addLost_canonical
    | with_reducible apply forEach_canonical
    | with_reducible apply event_canonical
    | with_reducible apply forEach_canonical
    | extract_lets
    | (simp only [↓State.canonical_mk]; with_reducible apply Good.of)
    | split
    | (with_reducible intro _)
    | dsimp only
    | dsimp +zetaDelta only

theorem replayWrite_canonical (t : Intent) (m : Nat) (data : List Block) {s : State} (hs : State.canonical s) :
    State.canonical (replayWrite t m data s) := by
  unfold replayWrite
  repeat' first
    | with_reducible assumption
    | with_reducible apply Leads.next
    | with_reducible exact Leads.fault _
    | with_reducible apply OptLeads.some
    | with_reducible exact OptLeads.none
    | with_reducible apply OptLeads.map
    | with_reducible apply sendDrive_canonical
    | extract_lets
    | (simp only [↓State.canonical_mk]; with_reducible apply Good.of)
    | split
    | (with_reducible intro _)
    | dsimp only
    | dsimp +zetaDelta only

theorem rewrite_canonical (t : Intent) (reads : RowReads) (given : List (Nat × List Block)) (parities : Bool) (skip : List Nat) {s : State} (hs : State.canonical s) :
    State.canonical (rewrite t reads given parities skip s) := by
  unfold rewrite
  repeat' first
    | with_reducible assumption
    | with_reducible apply Leads.next
    | with_reducible exact Leads.fault _
    | with_reducible apply OptLeads.some
    | with_reducible exact OptLeads.none
    | with_reducible apply OptLeads.map
    | with_reducible apply replayWrite_canonical
    | with_reducible apply forEach_canonical
    | with_reducible apply forEach_canonical
    | extract_lets
    | (simp only [↓State.canonical_mk]; with_reducible apply Good.of)
    | split
    | (with_reducible intro _)
    | dsimp only
    | dsimp +zetaDelta only

theorem redoGraze_canonical (t : Intent) (f : GrazeFinding) {s : State} (hs : State.canonical s) :
    State.canonical (redoGraze t f s) := by
  unfold redoGraze
  repeat' first
    | with_reducible assumption
    | with_reducible apply Leads.next
    | with_reducible exact Leads.fault _
    | with_reducible apply OptLeads.some
    | with_reducible exact OptLeads.none
    | with_reducible apply OptLeads.map
    | with_reducible apply replayWrite_canonical
    | with_reducible apply stat_canonical
    | with_reducible apply logEvent_canonical
    | with_reducible apply forEach_canonical
    | with_reducible apply forEach_canonical
    | extract_lets
    | (simp only [↓State.canonical_mk]; with_reducible apply Good.of)
    | split
    | (with_reducible intro _)
    | dsimp only
    | dsimp +zetaDelta only

theorem redoRepair_canonical (t : Intent) (reads : RowReads) {s : State} (hs : State.canonical s) :
    State.canonical (redoRepair t reads s) := by
  unfold redoRepair
  repeat' first
    | with_reducible assumption
    | with_reducible apply Leads.next
    | with_reducible exact Leads.fault _
    | with_reducible apply OptLeads.some
    | with_reducible exact OptLeads.none
    | with_reducible apply OptLeads.map
    | with_reducible apply redoGraze_canonical
    | with_reducible apply rewrite_canonical
    | with_reducible apply loseUnits_canonical
    | with_reducible apply forEach_canonical
    | with_reducible apply forEach_canonical
    | extract_lets
    | (simp only [↓State.canonical_mk]; with_reducible apply Good.of)
    | split
    | (with_reducible intro _)
    | dsimp only
    | dsimp +zetaDelta only

theorem resolve_canonical (t : Intent) (reads : RowReads) (odd : List (Nat × List Nat)) {s : State} (hs : State.canonical s) :
    State.canonical (resolve t reads odd s) := by
  unfold resolve
  repeat' first
    | with_reducible assumption
    | with_reducible apply Leads.next
    | with_reducible exact Leads.fault _
    | with_reducible apply OptLeads.some
    | with_reducible exact OptLeads.none
    | with_reducible apply OptLeads.map
    | with_reducible apply redoRepair_canonical
    | with_reducible apply rewrite_canonical
    | with_reducible apply imageLost_canonical
    | with_reducible apply loseBlocks_canonical
    | with_reducible apply forEach_canonical
    | with_reducible apply bump_canonical
    | with_reducible apply forEach_canonical
    | extract_lets
    | (simp only [↓State.canonical_mk]; with_reducible apply Good.of)
    | split
    | (with_reducible intro _)
    | dsimp only
    | dsimp +zetaDelta only

theorem voidDeltas_canonical (t : Intent) {s : State} (hs : State.canonical s) :
    State.canonical (voidDeltas t s) := by
  unfold voidDeltas
  repeat' first
    | with_reducible assumption
    | with_reducible apply Leads.next
    | with_reducible exact Leads.fault _
    | with_reducible apply OptLeads.some
    | with_reducible exact OptLeads.none
    | with_reducible apply OptLeads.map
    | with_reducible apply markStale_canonical
    | with_reducible apply voidRecords_canonical
    | with_reducible apply id_canonical
    | extract_lets
    | (simp only [↓State.canonical_mk]; with_reducible apply Good.of)
    | split
    | (with_reducible intro _)
    | dsimp only
    | dsimp +zetaDelta only

theorem checkDeltas_canonical {s : State} (hs : State.canonical s) :
    State.canonical (checkDeltas s) := by
  unfold checkDeltas
  repeat' first
    | with_reducible assumption
    | with_reducible apply Leads.next
    | with_reducible exact Leads.fault _
    | with_reducible apply OptLeads.some
    | with_reducible exact OptLeads.none
    | with_reducible apply OptLeads.map
    | with_reducible apply markStale_canonical
    | with_reducible apply forEach_canonical
    | with_reducible apply forEach_canonical
    | with_reducible apply id_canonical
    | extract_lets
    | (simp only [↓State.canonical_mk]; with_reducible apply Good.of)
    | split
    | (with_reducible intro _)
    | dsimp only
    | dsimp +zetaDelta only

theorem replayOne_canonical (reads : List (Nat × RowReads)) (strange : List StrangeBlocks) (i : Nat) {s : State} (hs : State.canonical s) :
    State.canonical (replayOne reads strange i s) := by
  unfold replayOne
  repeat' first
    | with_reducible assumption
    | with_reducible apply Leads.next
    | with_reducible exact Leads.fault _
    | with_reducible apply OptLeads.some
    | with_reducible exact OptLeads.none
    | with_reducible apply OptLeads.map
    | with_reducible apply voidDeltas_canonical
    | with_reducible apply resolve_canonical
    | with_reducible apply rewrite_canonical
    | with_reducible apply takeLines_canonical
    | with_reducible apply cleanLines_canonical
    | with_reducible apply freeIntent_canonical
    | with_reducible apply when_canonical
    | with_reducible apply when_canonical
    | extract_lets
    | (simp only [↓State.canonical_mk]; with_reducible apply Good.of)
    | split
    | (with_reducible intro _)
    | dsimp only
    | dsimp +zetaDelta only

theorem replayDamaged_canonical (rows : List (Nat × RowReads)) (i : Nat) {s : State} (hs : State.canonical s) :
    State.canonical (replayDamaged rows i s) := by
  unfold replayDamaged
  repeat' first
    | with_reducible assumption
    | with_reducible apply Leads.next
    | with_reducible exact Leads.fault _
    | with_reducible apply OptLeads.some
    | with_reducible exact OptLeads.none
    | with_reducible apply OptLeads.map
    | with_reducible apply actOn_canonical
    | with_reducible apply queueGraze_canonical
    | with_reducible apply freeIntent_canonical
    | with_reducible apply forEach_canonical
    | with_reducible apply event_canonical
    | with_reducible apply forEach_canonical
    | extract_lets
    | (simp only [↓State.canonical_mk]; with_reducible apply Good.of)
    | split
    | (with_reducible intro _)
    | dsimp only
    | dsimp +zetaDelta only

theorem keepImages_canonical {s : State} (hs : State.canonical s) :
    State.canonical (keepImages s) := by
  unfold keepImages
  repeat' first
    | with_reducible assumption
    | with_reducible apply Leads.next
    | with_reducible exact Leads.fault _
    | with_reducible apply OptLeads.some
    | with_reducible exact OptLeads.none
    | with_reducible apply OptLeads.map
    | with_reducible apply sendConfig_canonical
    | with_reducible apply when_canonical
    | with_reducible apply when_canonical
    | extract_lets
    | (simp only [↓State.canonical_mk]; with_reducible apply Good.of)
    | split
    | (with_reducible intro _)
    | dsimp only
    | dsimp +zetaDelta only

theorem execJournalReplay_canonical (reads rows : List (Nat × RowReads)) (strange : List StrangeBlocks) (badDirs : List Nat) (partnerSeq : Option Nat) {s : State} (hs : State.canonical s) :
    Leads State.canonical (execJournalReplay reads rows strange badDirs partnerSeq s) := by
  unfold execJournalReplay
  repeat' first
    | with_reducible assumption
    | with_reducible apply Leads.next
    | with_reducible exact Leads.fault _
    | with_reducible apply OptLeads.some
    | with_reducible exact OptLeads.none
    | with_reducible apply OptLeads.map
    | with_reducible apply keepImages_canonical
    | with_reducible apply replayDamaged_canonical
    | with_reducible apply replayOne_canonical
    | with_reducible apply checkDeltas_canonical
    | with_reducible apply restoreStaging_canonical
    | with_reducible apply loadContent_canonical
    | with_reducible apply dirsFail_canonical
    | with_reducible apply after_canonical
    | with_reducible apply retryIntents_canonical
    | with_reducible apply unexpose_canonical
    | with_reducible apply forEach_canonical
    | with_reducible apply setF_canonical
    | with_reducible apply setF_canonical
    | with_reducible apply forEach_canonical
    | extract_lets
    | (simp only [↓State.canonical_mk]; with_reducible apply Good.of)
    | split
    | (with_reducible intro _)
    | dsimp only
    | dsimp +zetaDelta only

theorem scatter_canonical (l : List (Nat × Nat)) (off : Nat) (bs : List Nat) {s : State} (hs : State.canonical s) :
    State.canonical (scatter l off bs s) := by
  induction l generalizing off bs s with
  | nil =>
    unfold scatter
    repeat' first
      | with_reducible assumption
      | with_reducible apply Leads.next
      | with_reducible exact Leads.fault _
      | with_reducible apply OptLeads.some
      | with_reducible exact OptLeads.none
      | with_reducible apply OptLeads.map
      | with_reducible apply postHost_canonical
      | extract_lets
      | (simp only [↓State.canonical_mk]; with_reducible apply Good.of)
      | split
      | (with_reducible intro _)
      | dsimp only
      | dsimp +zetaDelta only
  | cons x l ih =>
    unfold scatter
    repeat' first
      | with_reducible assumption
      | with_reducible apply Leads.next
      | with_reducible exact Leads.fault _
      | with_reducible apply OptLeads.some
      | with_reducible exact OptLeads.none
      | with_reducible apply OptLeads.map
      | with_reducible apply ih
      | with_reducible apply postHost_canonical
      | extract_lets
      | (simp only [↓State.canonical_mk]; with_reducible apply Good.of)
      | split
      | (with_reducible intro _)
      | dsimp only
      | dsimp +zetaDelta only

theorem toHost_canonical (e : Entry) (bytes : List Nat) {s : State} (hs : State.canonical s) :
    State.canonical (toHost e bytes s) := by
  unfold toHost
  repeat' first
    | with_reducible assumption
    | with_reducible apply Leads.next
    | with_reducible exact Leads.fault _
    | with_reducible apply OptLeads.some
    | with_reducible exact OptLeads.none
    | with_reducible apply OptLeads.map
    | with_reducible apply scatter_canonical
    | extract_lets
    | (simp only [↓State.canonical_mk]; with_reducible apply Good.of)
    | split
    | (with_reducible intro _)
    | dsimp only
    | dsimp +zetaDelta only

theorem reread_canonical (n i : Nat) {s : State} (hs : State.canonical s) :
    State.canonical (reread n i s) := by
  unfold reread
  repeat' first
    | with_reducible assumption
    | with_reducible apply Leads.next
    | with_reducible exact Leads.fault _
    | with_reducible apply OptLeads.some
    | with_reducible exact OptLeads.none
    | with_reducible apply OptLeads.map
    | with_reducible apply servePiece_canonical
    | with_reducible apply onCmd_canonical
    | extract_lets
    | (simp only [↓State.canonical_mk]; with_reducible apply Good.of)
    | split
    | (with_reducible intro _)
    | dsimp only
    | dsimp +zetaDelta only

theorem egressFails_canonical (n : Nat) (c : Cmd) (partner : List (Nat × (Block × Nat))) (i : Nat) {s : State} (hs : State.canonical s) :
    State.canonical (egressFails n c partner i s) := by
  unfold egressFails
  repeat' first
    | with_reducible assumption
    | with_reducible apply Leads.next
    | with_reducible exact Leads.fault _
    | with_reducible apply OptLeads.some
    | with_reducible exact OptLeads.none
    | with_reducible apply OptLeads.map
    | with_reducible apply reread_canonical
    | with_reducible apply lastHost_canonical
    | with_reducible apply settleBlock_canonical
    | with_reducible apply onCmd_canonical
    | with_reducible apply event_canonical
    | extract_lets
    | (simp only [↓State.canonical_mk]; with_reducible apply Good.of)
    | split
    | (with_reducible intro _)
    | dsimp only
    | dsimp +zetaDelta only

theorem execHostDataEgress_canonical (qid cid : Nat) (bad : List Nat) (partner : List (Nat × (Block × Nat))) {s : State} (hs : State.canonical s) :
    Leads State.canonical (execHostDataEgress qid cid bad partner s) := by
  unfold execHostDataEgress
  repeat' first
    | with_reducible assumption
    | with_reducible apply Leads.next
    | with_reducible exact Leads.fault _
    | with_reducible apply OptLeads.some
    | with_reducible exact OptLeads.none
    | with_reducible apply OptLeads.map
    | with_reducible apply egressFails_canonical
    | with_reducible apply scatter_canonical
    | with_reducible apply after_canonical
    | with_reducible apply finish_canonical
    | with_reducible apply forEach_canonical
    | with_reducible apply bumpBy_canonical
    | with_reducible apply forEach_canonical
    | extract_lets
    | (simp only [↓State.canonical_mk]; with_reducible apply Good.of)
    | split
    | (with_reducible intro _)
    | dsimp only
    | dsimp +zetaDelta only

theorem execIntInject_canonical (kind : Fin 8) {s : State} (hs : State.canonical s) :
    Leads State.canonical (execIntInject kind s) := by
  unfold execIntInject
  repeat' first
    | with_reducible assumption
    | with_reducible apply Leads.next
    | with_reducible exact Leads.fault _
    | with_reducible apply OptLeads.some
    | with_reducible exact OptLeads.none
    | with_reducible apply OptLeads.map
    | with_reducible apply land_canonical
    | with_reducible refine Leads.elim (land_canonical _ _ _ ?_ ?_) (by with_reducible assumption)
    | with_reducible apply setF_canonical
    | with_reducible apply setF_canonical
    | extract_lets
    | (simp only [↓State.canonical_mk]; with_reducible apply Good.of)
    | split
    | (with_reducible intro _)
    | dsimp only
    | dsimp +zetaDelta only

end Sys2Proof.Machine
end

