-- ==== Sys2Proof/Laws/CanonCommands.lean ====
section
/-! SUPPORT. The canonical form is kept by the operations of Machine/Commands.lean. -/

set_option linter.all false

namespace Sys2Proof.Machine

theorem run_canonical (n : Nat) (k : Nat → Cmd → State → State) {s : State} (hk : ∀ (x0 : Nat) (x1 : Cmd) (x2 : State), State.canonical x2 → State.canonical (k x0 x1 x2)) (hs : State.canonical s) :
    State.canonical (run n k s) := by
  unfold run
  repeat' first
    | with_reducible assumption
    | with_reducible apply Leads.next
    | with_reducible exact Leads.fault _
    | with_reducible apply OptLeads.some
    | with_reducible exact OptLeads.none
    | with_reducible apply OptLeads.map
    | with_reducible apply hk
    | with_reducible apply screen_canonical
    | extract_lets
    | (simp only [↓State.canonical_mk]; with_reducible apply Good.of)
    | split
    | (with_reducible intro _)
    | dsimp only
    | dsimp +zetaDelta only

theorem runAdmin_canonical (cid : Nat) (op : AdminOp) (p : Entry → Bool) (k : Nat → Cmd → State → State) {s : State} (hk : ∀ (x0 : Nat) (x1 : Cmd) (x2 : State), State.canonical x2 → State.canonical (k x0 x1 x2)) (hs : State.canonical s) :
    Leads State.canonical (runAdmin cid op p k s) := by
  unfold runAdmin
  repeat' first
    | with_reducible assumption
    | with_reducible apply Leads.next
    | with_reducible exact Leads.fault _
    | with_reducible apply OptLeads.some
    | with_reducible exact OptLeads.none
    | with_reducible apply OptLeads.map
    | with_reducible apply hk
    | with_reducible apply run_canonical
    | with_reducible apply after_canonical
    | extract_lets
    | (simp only [↓State.canonical_mk]; with_reducible apply Good.of)
    | split
    | (with_reducible intro _)
    | dsimp only
    | dsimp +zetaDelta only

theorem runIo_canonical (qid cid opcode : Nat) (k : Nat → Cmd → State → State) {s : State} (hk : ∀ (x0 : Nat) (x1 : Cmd) (x2 : State), State.canonical x2 → State.canonical (k x0 x1 x2)) (hs : State.canonical s) :
    Leads State.canonical (runIo qid cid opcode k s) := by
  unfold runIo
  repeat' first
    | with_reducible assumption
    | with_reducible apply Leads.next
    | with_reducible exact Leads.fault _
    | with_reducible apply OptLeads.some
    | with_reducible exact OptLeads.none
    | with_reducible apply OptLeads.map
    | with_reducible apply hk
    | with_reducible apply run_canonical
    | with_reducible apply after_canonical
    | extract_lets
    | (simp only [↓State.canonical_mk]; with_reducible apply Good.of)
    | split
    | (with_reducible intro _)
    | dsimp only
    | dsimp +zetaDelta only

theorem refuse_canonical (n result : Nat) {s : State} (hs : State.canonical s) :
    State.canonical (refuse n result s) := by
  unfold refuse
  repeat' first
    | with_reducible assumption
    | with_reducible apply Leads.next
    | with_reducible exact Leads.fault _
    | with_reducible apply OptLeads.some
    | with_reducible exact OptLeads.none
    | with_reducible apply OptLeads.map
    | with_reducible apply finish_canonical
    | extract_lets
    | (simp only [↓State.canonical_mk]; with_reducible apply Good.of)
    | split
    | (with_reducible intro _)
    | dsimp only
    | dsimp +zetaDelta only

theorem withBuffer_canonical (n : Nat) (c : Cmd) (len : Nat) (k : State → State) {s : State} (hk : ∀ (x0 : State), State.canonical x0 → State.canonical (k x0)) (hs : State.canonical s) :
    State.canonical (withBuffer n c len k s) := by
  unfold withBuffer
  repeat' first
    | with_reducible assumption
    | with_reducible apply Leads.next
    | with_reducible exact Leads.fault _
    | with_reducible apply OptLeads.some
    | with_reducible exact OptLeads.none
    | with_reducible apply OptLeads.map
    | with_reducible apply hk
    | with_reducible apply finish_canonical
    | extract_lets
    | (simp only [↓State.canonical_mk]; with_reducible apply Good.of)
    | split
    | (with_reducible intro _)
    | dsimp only
    | dsimp +zetaDelta only

theorem reply_canonical (n : Nat) (c : Cmd) (bytes : List Nat) (result : Nat) {s : State} (hs : State.canonical s) :
    State.canonical (reply n c bytes result s) := by
  unfold reply
  repeat' first
    | with_reducible assumption
    | with_reducible apply Leads.next
    | with_reducible exact Leads.fault _
    | with_reducible apply OptLeads.some
    | with_reducible exact OptLeads.none
    | with_reducible apply OptLeads.map
    | with_reducible apply toHost_canonical
    | with_reducible apply finish_canonical
    | extract_lets
    | (simp only [↓State.canonical_mk]; with_reducible apply Good.of)
    | split
    | (with_reducible intro _)
    | dsimp only
    | dsimp +zetaDelta only

theorem execRead_canonical (qid cid : Nat) {s : State} (hs : State.canonical s) :
    Leads State.canonical (execRead qid cid s) := by
  unfold execRead
  repeat' first
    | with_reducible assumption
    | with_reducible apply Leads.next
    | with_reducible exact Leads.fault _
    | with_reducible apply OptLeads.some
    | with_reducible exact OptLeads.none
    | with_reducible apply OptLeads.map
    | with_reducible apply runIo_canonical
    | with_reducible refine Leads.elim (runIo_canonical _ _ _ _ ?_ ?_) (by with_reducible assumption)
    | with_reducible apply splitPieces_canonical
    | with_reducible apply onCmd_canonical
    | extract_lets
    | (simp only [↓State.canonical_mk]; with_reducible apply Good.of)
    | split
    | (with_reducible intro _)
    | dsimp only
    | dsimp +zetaDelta only

theorem execWrite_canonical (qid cid : Nat) {s : State} (hs : State.canonical s) :
    Leads State.canonical (execWrite qid cid s) := by
  unfold execWrite
  repeat' first
    | with_reducible assumption
    | with_reducible apply Leads.next
    | with_reducible exact Leads.fault _
    | with_reducible apply OptLeads.some
    | with_reducible exact OptLeads.none
    | with_reducible apply OptLeads.map
    | with_reducible apply runIo_canonical
    | with_reducible refine Leads.elim (runIo_canonical _ _ _ _ ?_ ?_) (by with_reducible assumption)
    | with_reducible apply onCmd_canonical
    | extract_lets
    | (simp only [↓State.canonical_mk]; with_reducible apply Good.of)
    | split
    | (with_reducible intro _)
    | dsimp only
    | dsimp +zetaDelta only

theorem execVerify_canonical (qid cid : Nat) (reads : List (Nat × RowReads)) {s : State} (hs : State.canonical s) :
    Leads State.canonical (execVerify qid cid reads s) := by
  unfold execVerify
  repeat' first
    | with_reducible assumption
    | with_reducible apply Leads.next
    | with_reducible exact Leads.fault _
    | with_reducible apply OptLeads.some
    | with_reducible exact OptLeads.none
    | with_reducible apply OptLeads.map
    | with_reducible apply runIo_canonical
    | with_reducible refine Leads.elim (runIo_canonical _ _ _ _ ?_ ?_) (by with_reducible assumption)
    | with_reducible apply arbitrateRow_canonical
    | with_reducible apply splitPieces_canonical
    | with_reducible apply wakeSlot_canonical
    | with_reducible apply stat_canonical
    | with_reducible apply onCmd_canonical
    | with_reducible apply forEach_canonical
    | with_reducible apply forEach_canonical
    | extract_lets
    | (simp only [↓State.canonical_mk]; with_reducible apply Good.of)
    | split
    | (with_reducible intro _)
    | dsimp only
    | dsimp +zetaDelta only

theorem execFlush_canonical (qid cid : Nat) {s : State} (hs : State.canonical s) :
    Leads State.canonical (execFlush qid cid s) := by
  unfold execFlush
  repeat' first
    | with_reducible assumption
    | with_reducible apply Leads.next
    | with_reducible exact Leads.fault _
    | with_reducible apply OptLeads.some
    | with_reducible exact OptLeads.none
    | with_reducible apply OptLeads.map
    | with_reducible apply runIo_canonical
    | with_reducible refine Leads.elim (runIo_canonical _ _ _ _ ?_ ?_) (by with_reducible assumption)
    | with_reducible apply demand_canonical
    | with_reducible apply finish_canonical
    | with_reducible apply onCmd_canonical
    | extract_lets
    | (simp only [↓State.canonical_mk]; with_reducible apply Good.of)
    | split
    | (with_reducible intro _)
    | dsimp only
    | dsimp +zetaDelta only

theorem execFlushComplete_canonical (qid cid : Nat) {s : State} (hs : State.canonical s) :
    Leads State.canonical (execFlushComplete qid cid s) := by
  unfold execFlushComplete
  repeat' first
    | with_reducible assumption
    | with_reducible apply Leads.next
    | with_reducible exact Leads.fault _
    | with_reducible apply OptLeads.some
    | with_reducible exact OptLeads.none
    | with_reducible apply OptLeads.map
    | with_reducible apply finish_canonical
    | extract_lets
    | (simp only [↓State.canonical_mk]; with_reducible apply Good.of)
    | split
    | (with_reducible intro _)
    | dsimp only
    | dsimp +zetaDelta only

theorem execFlushWakeTimeout_canonical (qid cid : Nat) {s : State} (hs : State.canonical s) :
    Leads State.canonical (execFlushWakeTimeout qid cid s) := by
  unfold execFlushWakeTimeout
  repeat' first
    | with_reducible assumption
    | with_reducible apply Leads.next
    | with_reducible exact Leads.fault _
    | with_reducible apply OptLeads.some
    | with_reducible exact OptLeads.none
    | with_reducible apply OptLeads.map
    | with_reducible apply finish_canonical
    | extract_lets
    | (simp only [↓State.canonical_mk]; with_reducible apply Good.of)
    | split
    | (with_reducible intro _)
    | dsimp only
    | dsimp +zetaDelta only

theorem commitRow_canonical (n v lba : Nat) (lines : List Line) (fua : Bool) {s : State} (hs : State.canonical s) :
    State.canonical (commitRow n v lba lines fua s) := by
  unfold commitRow
  repeat' first
    | with_reducible assumption
    | with_reducible apply Leads.next
    | with_reducible exact Leads.fault _
    | with_reducible apply OptLeads.some
    | with_reducible exact OptLeads.none
    | with_reducible apply OptLeads.map
    | with_reducible apply endWrite_canonical
    | with_reducible apply commitBlocks_canonical
    | with_reducible apply stagingStall_canonical
    | extract_lets
    | (simp only [↓State.canonical_mk]; with_reducible apply Good.of)
    | split
    | (with_reducible intro _)
    | dsimp only
    | dsimp +zetaDelta only

theorem execWriteZeroes_canonical (qid cid : Nat) {s : State} (hs : State.canonical s) :
    Leads State.canonical (execWriteZeroes qid cid s) := by
  unfold execWriteZeroes
  repeat' first
    | with_reducible assumption
    | with_reducible apply Leads.next
    | with_reducible exact Leads.fault _
    | with_reducible apply OptLeads.some
    | with_reducible exact OptLeads.none
    | with_reducible apply OptLeads.map
    | with_reducible apply commitRow_canonical
    | with_reducible apply screen_canonical
    | with_reducible apply after_canonical
    | with_reducible apply finish_canonical
    | with_reducible apply onCmd_canonical
    | extract_lets
    | (simp only [↓State.canonical_mk]; with_reducible apply Good.of)
    | split
    | (with_reducible intro _)
    | dsimp only
    | dsimp +zetaDelta only

theorem abortCmd_canonical (n : Nat) {s : State} (hs : State.canonical s) :
    State.canonical (abortCmd n s) := by
  unfold abortCmd
  repeat' first
    | with_reducible assumption
    | with_reducible apply Leads.next
    | with_reducible exact Leads.fault _
    | with_reducible apply OptLeads.some
    | with_reducible exact OptLeads.none
    | with_reducible apply OptLeads.map
    | with_reducible apply abortAll_canonical
    | extract_lets
    | (simp only [↓State.canonical_mk]; with_reducible apply Good.of)
    | split
    | (with_reducible intro _)
    | dsimp only
    | dsimp +zetaDelta only

theorem execAbort_canonical (cid : Nat) {s : State} (hs : State.canonical s) :
    Leads State.canonical (execAbort cid s) := by
  unfold execAbort
  repeat' first
    | with_reducible assumption
    | with_reducible apply Leads.next
    | with_reducible exact Leads.fault _
    | with_reducible apply OptLeads.some
    | with_reducible exact OptLeads.none
    | with_reducible apply OptLeads.map
    | with_reducible apply abortCmd_canonical
    | with_reducible apply runAdmin_canonical
    | with_reducible refine Leads.elim (runAdmin_canonical _ _ _ _ ?_ ?_) (by with_reducible assumption)
    | with_reducible apply finish_canonical
    | with_reducible apply id_canonical
    | extract_lets
    | (simp only [↓State.canonical_mk]; with_reducible apply Good.of)
    | split
    | (with_reducible intro _)
    | dsimp only
    | dsimp +zetaDelta only

end Sys2Proof.Machine
end

