-- ==== Sys2Proof/Laws/CanonAdmin.lean ====
section
/-! SUPPORT. The canonical form is kept by the operations of Machine/Admin.lean. -/

set_option linter.all false

namespace Sys2Proof.Machine

theorem applyFeature_canonical (code sel v : Nat) {s : State} (hs : State.canonical s) :
    State.canonical (applyFeature code sel v s) := by
  unfold applyFeature
  repeat' first
    | with_reducible assumption
    | with_reducible apply Leads.next
    | with_reducible exact Leads.fault _
    | with_reducible apply OptLeads.some
    | with_reducible exact OptLeads.none
    | with_reducible apply OptLeads.map
    | with_reducible apply writeHealth_canonical
    | with_reducible apply reselect_canonical
    | with_reducible apply updateCeiling_canonical
    | with_reducible apply loopAtOnce_canonical
    | with_reducible apply setF_canonical
    | with_reducible apply setF_canonical
    | extract_lets
    | (simp only [↓State.canonical_mk]; with_reducible apply Good.of)
    | split
    | (with_reducible intro _)
    | dsimp only
    | dsimp +zetaDelta only

theorem setFeature_canonical (e : Entry) {s : State} (hs : State.canonical s) :
    State.canonical (setFeature e s) := by
  unfold setFeature
  repeat' first
    | with_reducible assumption
    | with_reducible apply Leads.next
    | with_reducible exact Leads.fault _
    | with_reducible apply OptLeads.some
    | with_reducible exact OptLeads.none
    | with_reducible apply OptLeads.map
    | with_reducible apply applyFeature_canonical
    | with_reducible apply sendConfig_canonical
    | with_reducible apply when_canonical
    | with_reducible apply when_canonical
    | extract_lets
    | (simp only [↓State.canonical_mk]; with_reducible apply Good.of)
    | split
    | (with_reducible intro _)
    | dsimp only
    | dsimp +zetaDelta only

theorem execGetFeature_canonical (cid : Nat) {s : State} (hs : State.canonical s) :
    Leads State.canonical (execGetFeature cid s) := by
  unfold execGetFeature
  repeat' first
    | with_reducible assumption
    | with_reducible apply Leads.next
    | with_reducible exact Leads.fault _
    | with_reducible apply OptLeads.some
    | with_reducible exact OptLeads.none
    | with_reducible apply OptLeads.map
    | with_reducible apply refuse_canonical
    | with_reducible apply runAdmin_canonical
    | with_reducible refine Leads.elim (runAdmin_canonical _ _ _ _ ?_ ?_) (by with_reducible assumption)
    | with_reducible apply finish_canonical
    | extract_lets
    | (simp only [↓State.canonical_mk]; with_reducible apply Good.of)
    | split
    | (with_reducible intro _)
    | dsimp only
    | dsimp +zetaDelta only

theorem execSetFeature_canonical (cid : Nat) {s : State} (hs : State.canonical s) :
    Leads State.canonical (execSetFeature cid s) := by
  unfold execSetFeature
  repeat' first
    | with_reducible assumption
    | with_reducible apply Leads.next
    | with_reducible exact Leads.fault _
    | with_reducible apply OptLeads.some
    | with_reducible exact OptLeads.none
    | with_reducible apply OptLeads.map
    | with_reducible apply setFeature_canonical
    | with_reducible apply refuse_canonical
    | with_reducible apply runAdmin_canonical
    | with_reducible refine Leads.elim (runAdmin_canonical _ _ _ _ ?_ ?_) (by with_reducible assumption)
    | with_reducible apply finish_canonical
    | extract_lets
    | (simp only [↓State.canonical_mk]; with_reducible apply Good.of)
    | split
    | (with_reducible intro _)
    | dsimp only
    | dsimp +zetaDelta only

theorem execSetFeatureWriteThrough_canonical (cid : Nat) {s : State} (hs : State.canonical s) :
    Leads State.canonical (execSetFeatureWriteThrough cid s) := by
  unfold execSetFeatureWriteThrough
  repeat' first
    | with_reducible assumption
    | with_reducible apply Leads.next
    | with_reducible exact Leads.fault _
    | with_reducible apply OptLeads.some
    | with_reducible exact OptLeads.none
    | with_reducible apply OptLeads.map
    | with_reducible apply setFeature_canonical
    | with_reducible apply runAdmin_canonical
    | with_reducible refine Leads.elim (runAdmin_canonical _ _ _ _ ?_ ?_) (by with_reducible assumption)
    | with_reducible apply demand_canonical
    | with_reducible apply reachWt_canonical
    | with_reducible apply finish_canonical
    | with_reducible apply onCmd_canonical
    | extract_lets
    | (simp only [↓State.canonical_mk]; with_reducible apply Good.of)
    | split
    | (with_reducible intro _)
    | dsimp only
    | dsimp +zetaDelta only

theorem execCreateIoQueue_canonical (cid : Nat) {s : State} (hs : State.canonical s) :
    Leads State.canonical (execCreateIoQueue cid s) := by
  unfold execCreateIoQueue
  repeat' first
    | with_reducible assumption
    | with_reducible apply Leads.next
    | with_reducible exact Leads.fault _
    | with_reducible apply OptLeads.some
    | with_reducible exact OptLeads.none
    | with_reducible apply OptLeads.map
    | with_reducible apply refuse_canonical
    | with_reducible apply runAdmin_canonical
    | with_reducible refine Leads.elim (runAdmin_canonical _ _ _ _ ?_ ?_) (by with_reducible assumption)
    | with_reducible apply finish_canonical
    | with_reducible apply ignored_canonical
    | extract_lets
    | (simp only [↓State.canonical_mk]; with_reducible apply Good.of)
    | split
    | (with_reducible intro _)
    | dsimp only
    | dsimp +zetaDelta only

theorem execDeleteIoQueue_canonical (cid : Nat) {s : State} (hs : State.canonical s) :
    Leads State.canonical (execDeleteIoQueue cid s) := by
  unfold execDeleteIoQueue
  repeat' first
    | with_reducible assumption
    | with_reducible apply Leads.next
    | with_reducible exact Leads.fault _
    | with_reducible apply OptLeads.some
    | with_reducible exact OptLeads.none
    | with_reducible apply OptLeads.map
    | with_reducible apply refuse_canonical
    | with_reducible apply runAdmin_canonical
    | with_reducible refine Leads.elim (runAdmin_canonical _ _ _ _ ?_ ?_) (by with_reducible assumption)
    | with_reducible apply abortAll_canonical
    | with_reducible apply onCmd_canonical
    | with_reducible apply onPair_canonical
    | extract_lets
    | (simp only [↓State.canonical_mk]; with_reducible apply Good.of)
    | split
    | (with_reducible intro _)
    | dsimp only
    | dsimp +zetaDelta only

theorem execQueueDeleteDrained_canonical (qid : Nat) {s : State} (hs : State.canonical s) :
    Leads State.canonical (execQueueDeleteDrained qid s) := by
  unfold execQueueDeleteDrained
  repeat' first
    | with_reducible assumption
    | with_reducible apply Leads.next
    | with_reducible exact Leads.fault _
    | with_reducible apply OptLeads.some
    | with_reducible exact OptLeads.none
    | with_reducible apply OptLeads.map
    | with_reducible apply finish_canonical
    | extract_lets
    | (simp only [↓State.canonical_mk]; with_reducible apply Good.of)
    | split
    | (with_reducible intro _)
    | dsimp only
    | dsimp +zetaDelta only

theorem refuseWith_canonical (n reason : Nat) (slot : Option Nat) {s : State} (hs : State.canonical s) :
    State.canonical (refuseWith n reason slot s) := by
  unfold refuseWith
  repeat' first
    | with_reducible assumption
    | with_reducible apply Leads.next
    | with_reducible exact Leads.fault _
    | with_reducible apply OptLeads.some
    | with_reducible exact OptLeads.none
    | with_reducible apply OptLeads.map
    | with_reducible apply refuse_canonical
    | extract_lets
    | (simp only [↓State.canonical_mk]; with_reducible apply Good.of)
    | split
    | (with_reducible intro _)
    | dsimp only
    | dsimp +zetaDelta only

theorem arrayFields_canonical (n : Nat) (g : Geo) {s : State} (hs : State.canonical s) :
    State.canonical (arrayFields n g s) := by
  unfold arrayFields
  repeat' first
    | with_reducible assumption
    | with_reducible apply Leads.next
    | with_reducible exact Leads.fault _
    | with_reducible apply OptLeads.some
    | with_reducible exact OptLeads.none
    | with_reducible apply OptLeads.map
    | with_reducible apply forEach_canonical
    | with_reducible apply setF_canonical
    | with_reducible apply setF_canonical
    | with_reducible apply forEach_canonical
    | extract_lets
    | (simp only [↓State.canonical_mk]; with_reducible apply Good.of)
    | split
    | (with_reducible intro _)
    | dsimp only
    | dsimp +zetaDelta only

theorem writeArray_canonical (n : Nat) (g : Geo) {s : State} (hs : State.canonical s) :
    State.canonical (writeArray n g s) := by
  unfold writeArray
  repeat' first
    | with_reducible assumption
    | with_reducible apply Leads.next
    | with_reducible exact Leads.fault _
    | with_reducible apply OptLeads.some
    | with_reducible exact OptLeads.none
    | with_reducible apply OptLeads.map
    | with_reducible apply arrayFields_canonical
    | with_reducible apply unlocked_canonical
    | extract_lets
    | (simp only [↓State.canonical_mk]; with_reducible apply Good.of)
    | split
    | (with_reducible intro _)
    | dsimp only
    | dsimp +zetaDelta only

theorem createArray_canonical (a uuid : Nat) (g : Geo) {s : State} (hs : State.canonical s) :
    State.canonical (createArray a uuid g s) := by
  unfold createArray
  repeat' first
    | with_reducible assumption
    | with_reducible apply Leads.next
    | with_reducible exact Leads.fault _
    | with_reducible apply OptLeads.some
    | with_reducible exact OptLeads.none
    | with_reducible apply OptLeads.map
    | with_reducible apply writeArray_canonical
    | with_reducible apply loadEncode_canonical
    | with_reducible apply startEval_canonical
    | with_reducible apply writeArrayValid_canonical
    | with_reducible apply writeHeader_canonical
    | with_reducible apply writeRecords_canonical
    | with_reducible apply forEach_canonical
    | with_reducible apply when_canonical
    | with_reducible apply forEach_canonical
    | with_reducible apply when_canonical
    | extract_lets
    | (simp only [↓State.canonical_mk]; with_reducible apply Good.of)
    | split
    | (with_reducible intro _)
    | dsimp only
    | dsimp +zetaDelta only

theorem execArrayCreate_canonical (cid uuid : Nat) (drives : List (Nat × Option DriveFacts)) {s : State} (hs : State.canonical s) :
    Leads State.canonical (execArrayCreate cid uuid drives s) := by
  unfold execArrayCreate
  repeat' first
    | with_reducible assumption
    | with_reducible apply Leads.next
    | with_reducible exact Leads.fault _
    | with_reducible apply OptLeads.some
    | with_reducible exact OptLeads.none
    | with_reducible apply OptLeads.map
    | with_reducible apply createArray_canonical
    | with_reducible apply refuseWith_canonical
    | with_reducible apply runAdmin_canonical
    | with_reducible refine Leads.elim (runAdmin_canonical _ _ _ _ ?_ ?_) (by with_reducible assumption)
    | with_reducible apply wakeSlot_canonical
    | with_reducible apply finish_canonical
    | with_reducible apply forEach_canonical
    | with_reducible apply forEach_canonical
    | extract_lets
    | (simp only [↓State.canonical_mk]; with_reducible apply Good.of)
    | split
    | (with_reducible intro _)
    | dsimp only
    | dsimp +zetaDelta only

theorem endRepairs_canonical (a : Nat) (slots : List Nat) {s : State} (hs : State.canonical s) :
    State.canonical (endRepairs a slots s) := by
  unfold endRepairs
  repeat' first
    | with_reducible assumption
    | with_reducible apply Leads.next
    | with_reducible exact Leads.fault _
    | with_reducible apply OptLeads.some
    | with_reducible exact OptLeads.none
    | with_reducible apply OptLeads.map
    | with_reducible apply forEach_canonical
    | with_reducible apply when_canonical
    | with_reducible apply setF_canonical
    | with_reducible apply setF_canonical
    | with_reducible apply forEach_canonical
    | with_reducible apply when_canonical
    | extract_lets
    | (simp only [↓State.canonical_mk]; with_reducible apply Good.of)
    | split
    | (with_reducible intro _)
    | dsimp only
    | dsimp +zetaDelta only

theorem deleteArray_canonical (a : Nat) {s : State} (hs : State.canonical s) :
    State.canonical (deleteArray a s) := by
  unfold deleteArray
  repeat' first
    | with_reducible assumption
    | with_reducible apply Leads.next
    | with_reducible exact Leads.fault _
    | with_reducible apply OptLeads.some
    | with_reducible exact OptLeads.none
    | with_reducible apply OptLeads.map
    | with_reducible apply endRepairs_canonical
    | with_reducible apply writeArrayValid_canonical
    | with_reducible apply writeHeader_canonical
    | with_reducible apply forEach_canonical
    | with_reducible apply forEach_canonical
    | extract_lets
    | (simp only [↓State.canonical_mk]; with_reducible apply Good.of)
    | split
    | (with_reducible intro _)
    | dsimp only
    | dsimp +zetaDelta only

theorem execArrayDelete_canonical (cid : Nat) {s : State} (hs : State.canonical s) :
    Leads State.canonical (execArrayDelete cid s) := by
  unfold execArrayDelete
  repeat' first
    | with_reducible assumption
    | with_reducible apply Leads.next
    | with_reducible exact Leads.fault _
    | with_reducible apply OptLeads.some
    | with_reducible exact OptLeads.none
    | with_reducible apply OptLeads.map
    | with_reducible apply deleteArray_canonical
    | with_reducible apply refuseWith_canonical
    | with_reducible apply runAdmin_canonical
    | with_reducible refine Leads.elim (runAdmin_canonical _ _ _ _ ?_ ?_) (by with_reducible assumption)
    | with_reducible apply finish_canonical
    | extract_lets
    | (simp only [↓State.canonical_mk]; with_reducible apply Good.of)
    | split
    | (with_reducible intro _)
    | dsimp only
    | dsimp +zetaDelta only

theorem bindVolume_canonical (v a base rows uuid : Nat) {s : State} (hs : State.canonical s) :
    State.canonical (bindVolume v a base rows uuid s) := by
  unfold bindVolume
  repeat' first
    | with_reducible assumption
    | with_reducible apply Leads.next
    | with_reducible exact Leads.fault _
    | with_reducible apply OptLeads.some
    | with_reducible exact OptLeads.none
    | with_reducible apply OptLeads.map
    | with_reducible apply sendConfig_canonical
    | with_reducible apply unlocked_canonical
    | with_reducible apply writeRecords_canonical
    | with_reducible apply onVolMeta_canonical
    | with_reducible apply set64_canonical
    | with_reducible apply setF_canonical
    | with_reducible apply setF_canonical
    | extract_lets
    | (simp only [↓State.canonical_mk]; with_reducible apply Good.of)
    | split
    | (with_reducible intro _)
    | dsimp only
    | dsimp +zetaDelta only

theorem execVolumeCreate_canonical (cid uuid : Nat) {s : State} (hs : State.canonical s) :
    Leads State.canonical (execVolumeCreate cid uuid s) := by
  unfold execVolumeCreate
  repeat' first
    | with_reducible assumption
    | with_reducible apply Leads.next
    | with_reducible exact Leads.fault _
    | with_reducible apply OptLeads.some
    | with_reducible exact OptLeads.none
    | with_reducible apply OptLeads.map
    | with_reducible apply bindVolume_canonical
    | with_reducible apply refuse_canonical
    | with_reducible apply runAdmin_canonical
    | with_reducible refine Leads.elim (runAdmin_canonical _ _ _ _ ?_ ?_) (by with_reducible assumption)
    | with_reducible apply finish_canonical
    | extract_lets
    | (simp only [↓State.canonical_mk]; with_reducible apply Good.of)
    | split
    | (with_reducible intro _)
    | dsimp only
    | dsimp +zetaDelta only

theorem execVolumeFormat_canonical (vol : Fin 64) {s : State} (hs : State.canonical s) :
    Leads State.canonical (execVolumeFormat vol s) := by
  unfold execVolumeFormat
  repeat' first
    | with_reducible assumption
    | with_reducible apply Leads.next
    | with_reducible exact Leads.fault _
    | with_reducible apply OptLeads.some
    | with_reducible exact OptLeads.none
    | with_reducible apply OptLeads.map
    | with_reducible apply after_canonical
    | with_reducible apply wakeMembers_canonical
    | with_reducible apply startRepair_canonical
    | with_reducible apply sendConfig_canonical
    | with_reducible apply writeRecords_canonical
    | extract_lets
    | (simp only [↓State.canonical_mk]; with_reducible apply Good.of)
    | split
    | (with_reducible intro _)
    | dsimp only
    | dsimp +zetaDelta only

theorem discardLines_canonical (v : Nat) {s : State} (hs : State.canonical s) :
    State.canonical (discardLines v s) := by
  unfold discardLines
  repeat' first
    | with_reducible assumption
    | with_reducible apply Leads.next
    | with_reducible exact Leads.fault _
    | with_reducible apply OptLeads.some
    | with_reducible exact OptLeads.none
    | with_reducible apply OptLeads.map
    | with_reducible apply finishPaid_canonical
    | with_reducible apply dropLines_canonical
    | with_reducible apply unstage_canonical
    | with_reducible apply unexpose_canonical
    | extract_lets
    | (simp only [↓State.canonical_mk]; with_reducible apply Good.of)
    | split
    | (with_reducible intro _)
    | dsimp only
    | dsimp +zetaDelta only

theorem execVolumeDelete_canonical (cid : Nat) {s : State} (hs : State.canonical s) :
    Leads State.canonical (execVolumeDelete cid s) := by
  unfold execVolumeDelete
  repeat' first
    | with_reducible assumption
    | with_reducible apply Leads.next
    | with_reducible exact Leads.fault _
    | with_reducible apply OptLeads.some
    | with_reducible exact OptLeads.none
    | with_reducible apply OptLeads.map
    | with_reducible apply discardLines_canonical
    | with_reducible apply refuseWith_canonical
    | with_reducible apply runAdmin_canonical
    | with_reducible refine Leads.elim (runAdmin_canonical _ _ _ _ ?_ ?_) (by with_reducible assumption)
    | with_reducible apply writeVolumeValid_canonical
    | with_reducible apply onVolMeta_canonical
    | with_reducible apply abortAll_canonical
    | with_reducible apply onCmd_canonical
    | extract_lets
    | (simp only [↓State.canonical_mk]; with_reducible apply Good.of)
    | split
    | (with_reducible intro _)
    | dsimp only
    | dsimp +zetaDelta only

theorem execVolumeDeleteDrained_canonical (vol : Fin 64) {s : State} (hs : State.canonical s) :
    Leads State.canonical (execVolumeDeleteDrained vol s) := by
  unfold execVolumeDeleteDrained
  repeat' first
    | with_reducible assumption
    | with_reducible apply Leads.next
    | with_reducible exact Leads.fault _
    | with_reducible apply OptLeads.some
    | with_reducible exact OptLeads.none
    | with_reducible apply OptLeads.map
    | with_reducible apply sendConfig_canonical
    | with_reducible apply writeRecords_canonical
    | with_reducible apply onCare_canonical
    | with_reducible apply finish_canonical
    | extract_lets
    | (simp only [↓State.canonical_mk]; with_reducible apply Good.of)
    | split
    | (with_reducible intro _)
    | dsimp only
    | dsimp +zetaDelta only

theorem execMemberReplace_canonical (cid : Nat) (drive : Option DriveFacts) {s : State} (hs : State.canonical s) :
    Leads State.canonical (execMemberReplace cid drive s) := by
  unfold execMemberReplace
  repeat' first
    | with_reducible assumption
    | with_reducible apply Leads.next
    | with_reducible exact Leads.fault _
    | with_reducible apply OptLeads.some
    | with_reducible exact OptLeads.none
    | with_reducible apply OptLeads.map
    | with_reducible apply refuseWith_canonical
    | with_reducible apply runAdmin_canonical
    | with_reducible refine Leads.elim (runAdmin_canonical _ _ _ _ ?_ ?_) (by with_reducible assumption)
    | with_reducible apply writeSub_canonical
    | with_reducible apply startRebuild_canonical
    | with_reducible apply sendConfig_canonical
    | with_reducible apply wakeSlot_canonical
    | with_reducible apply newDrive_canonical
    | with_reducible apply finish_canonical
    | with_reducible apply setF_canonical
    | with_reducible apply setF_canonical
    | extract_lets
    | (simp only [↓State.canonical_mk]; with_reducible apply Good.of)
    | split
    | (with_reducible intro _)
    | dsimp only
    | dsimp +zetaDelta only

end Sys2Proof.Machine
end

