-- ==== Sys2Proof/Laws/CanonCchOps.lean ====
section
/-! SUPPORT. The canonical form is kept by the operations of Machine/CchOps.lean. -/

set_option linter.all false

namespace Sys2Proof.Machine

theorem memLine_canonical (l : Nat) (data : List Nat) {s : State} (hs : State.canonical s) :
    State.canonical (memLine l data s) := by
  unfold memLine
  repeat' first
    | with_reducible assumption
    | with_reducible apply Leads.next
    | with_reducible exact Leads.fault _
    | with_reducible apply OptLeads.some
    | with_reducible exact OptLeads.none
    | with_reducible apply OptLeads.map
    | with_reducible apply storeBytes_canonical
    | extract_lets
    | (simp only [↓State.canonical_mk]; with_reducible apply Good.of)
    | split
    | (with_reducible intro _)
    | dsimp only
    | dsimp +zetaDelta only

theorem l1Put_canonical (core l : Nat) (data : List Nat) (dirty : Bool) {s : State} (hs : State.canonical s) :
    State.canonical (l1Put core l data dirty s) := by
  unfold l1Put
  repeat' first
    | with_reducible assumption
    | with_reducible apply Leads.next
    | with_reducible exact Leads.fault _
    | with_reducible apply OptLeads.some
    | with_reducible exact OptLeads.none
    | with_reducible apply OptLeads.map
    | extract_lets
    | (simp only [↓State.canonical_mk]; with_reducible apply Good.of)
    | split
    | (with_reducible intro _)
    | dsimp only
    | dsimp +zetaDelta only

theorem l1PutFetch_canonical (core l : Nat) (data : List Nat) {s : State} (hs : State.canonical s) :
    State.canonical (l1PutFetch core l data s) := by
  unfold l1PutFetch
  repeat' first
    | with_reducible assumption
    | with_reducible apply Leads.next
    | with_reducible exact Leads.fault _
    | with_reducible apply OptLeads.some
    | with_reducible exact OptLeads.none
    | with_reducible apply OptLeads.map
    | extract_lets
    | (simp only [↓State.canonical_mk]; with_reducible apply Good.of)
    | split
    | (with_reducible intro _)
    | dsimp only
    | dsimp +zetaDelta only

theorem dropOthers_canonical (core l : Nat) {s : State} (hs : State.canonical s) :
    State.canonical (dropOthers core l s) := by
  unfold dropOthers
  repeat' first
    | with_reducible assumption
    | with_reducible apply Leads.next
    | with_reducible exact Leads.fault _
    | with_reducible apply OptLeads.some
    | with_reducible exact OptLeads.none
    | with_reducible apply OptLeads.map
    | extract_lets
    | (simp only [↓State.canonical_mk]; with_reducible apply Good.of)
    | split
    | (with_reducible intro _)
    | dsimp only
    | dsimp +zetaDelta only

theorem dropLine_canonical (l : Nat) {s : State} (hs : State.canonical s) :
    State.canonical (dropLine l s) := by
  unfold dropLine
  repeat' first
    | with_reducible assumption
    | with_reducible apply Leads.next
    | with_reducible exact Leads.fault _
    | with_reducible apply OptLeads.some
    | with_reducible exact OptLeads.none
    | with_reducible apply OptLeads.map
    | extract_lets
    | (simp only [↓State.canonical_mk]; with_reducible apply Good.of)
    | split
    | (with_reducible intro _)
    | dsimp only
    | dsimp +zetaDelta only

theorem queueRow_canonical (k : Nat) {s : State} (hs : State.canonical s) :
    State.canonical (queueRow k s) := by
  unfold queueRow
  repeat' first
    | with_reducible assumption
    | with_reducible apply Leads.next
    | with_reducible exact Leads.fault _
    | with_reducible apply OptLeads.some
    | with_reducible exact OptLeads.none
    | with_reducible apply OptLeads.map
    | with_reducible apply when_canonical
    | with_reducible apply when_canonical
    | extract_lets
    | (simp only [↓State.canonical_mk]; with_reducible apply Good.of)
    | split
    | (with_reducible intro _)
    | dsimp only
    | dsimp +zetaDelta only

theorem countRowCe_canonical (k : Nat) {s : State} (hs : State.canonical s) :
    State.canonical (countRowCe k s) := by
  unfold countRowCe
  repeat' first
    | with_reducible assumption
    | with_reducible apply Leads.next
    | with_reducible exact Leads.fault _
    | with_reducible apply OptLeads.some
    | with_reducible exact OptLeads.none
    | with_reducible apply OptLeads.map
    | with_reducible apply queueRow_canonical
    | with_reducible apply when_canonical
    | with_reducible apply when_canonical
    | with_reducible apply id_canonical
    | extract_lets
    | (simp only [↓State.canonical_mk]; with_reducible apply Good.of)
    | split
    | (with_reducible intro _)
    | dsimp only
    | dsimp +zetaDelta only

theorem install_canonical (l : Nat) (data : List Nat) (dirty : Bool) {s : State} (hs : State.canonical s) :
    OptLeads State.canonical (install l data dirty s) := by
  unfold install
  repeat' first
    | with_reducible assumption
    | with_reducible apply Leads.next
    | with_reducible exact Leads.fault _
    | with_reducible apply OptLeads.some
    | with_reducible exact OptLeads.none
    | with_reducible apply OptLeads.map
    | with_reducible apply dropLine_canonical
    | with_reducible apply memLine_canonical
    | with_reducible apply useFree_canonical
    | with_reducible apply when_canonical
    | with_reducible apply when_canonical
    | extract_lets
    | (simp only [↓State.canonical_mk]; with_reducible apply Good.of)
    | split
    | (with_reducible intro _)
    | dsimp only
    | dsimp +zetaDelta only

theorem offer_canonical (core l : Nat) {s : State} (hs : State.canonical s) :
    OptLeads State.canonical (offer core l s) := by
  unfold offer
  repeat' first
    | with_reducible assumption
    | with_reducible apply Leads.next
    | with_reducible exact Leads.fault _
    | with_reducible apply OptLeads.some
    | with_reducible exact OptLeads.none
    | with_reducible apply OptLeads.map
    | with_reducible apply install_canonical
    | with_reducible refine OptLeads.elim (install_canonical _ _ _ ?_) (by with_reducible assumption)
    | with_reducible apply bump_canonical
    | extract_lets
    | (simp only [↓State.canonical_mk]; with_reducible apply Good.of)
    | split
    | (with_reducible intro _)
    | dsimp only
    | dsimp +zetaDelta only

theorem offerAll_canonical (core : Nat) (l : List Nat) {s : State} (hs : State.canonical s) :
    OptLeads State.canonical (offerAll core l s) := by
  induction l generalizing s with
  | nil => exact OptLeads.some hs
  | cons x l ih =>
    unfold offerAll
    split
    · exact OptLeads.none
    · rename_i h; exact ih (offer_canonical _ _ hs _ h)

theorem answer_canonical (r : CoreReq) (data : List Nat) {s : State} (hs : State.canonical s) :
    State.canonical (answer r data s) := by
  unfold answer
  repeat' first
    | with_reducible assumption
    | with_reducible apply Leads.next
    | with_reducible exact Leads.fault _
    | with_reducible apply OptLeads.some
    | with_reducible exact OptLeads.none
    | with_reducible apply OptLeads.map
    | with_reducible apply emit_canonical
    | extract_lets
    | (simp only [↓State.canonical_mk]; with_reducible apply Good.of)
    | split
    | (with_reducible intro _)
    | dsimp only
    | dsimp +zetaDelta only

theorem storeTo_canonical (r : CoreReq) (data : List Nat) (wasDirty : Bool) {s : State} (hs : State.canonical s) :
    State.canonical (storeTo r data wasDirty s) := by
  unfold storeTo
  repeat' first
    | with_reducible assumption
    | with_reducible apply Leads.next
    | with_reducible exact Leads.fault _
    | with_reducible apply OptLeads.some
    | with_reducible exact OptLeads.none
    | with_reducible apply OptLeads.map
    | with_reducible apply dropOthers_canonical
    | with_reducible apply l1Put_canonical
    | with_reducible apply storeBytes_canonical
    | extract_lets
    | (simp only [↓State.canonical_mk]; with_reducible apply Good.of)
    | split
    | (with_reducible intro _)
    | dsimp only
    | dsimp +zetaDelta only

theorem serveWith_canonical (r : CoreReq) (data : List Nat) {s : State} (hs : State.canonical s) :
    State.canonical (serveWith r data s) := by
  unfold serveWith
  repeat' first
    | with_reducible assumption
    | with_reducible apply Leads.next
    | with_reducible exact Leads.fault _
    | with_reducible apply OptLeads.some
    | with_reducible exact OptLeads.none
    | with_reducible apply OptLeads.map
    | with_reducible apply storeTo_canonical
    | with_reducible apply answer_canonical
    | with_reducible apply l1PutFetch_canonical
    | with_reducible apply l1Put_canonical
    | extract_lets
    | (simp only [↓State.canonical_mk]; with_reducible apply Good.of)
    | split
    | (with_reducible intro _)
    | dsimp only
    | dsimp +zetaDelta only

theorem missLine_canonical (core l : Nat) {s : State} (hs : State.canonical s) :
    State.canonical (missLine core l s) := by
  unfold missLine
  repeat' first
    | with_reducible assumption
    | with_reducible apply Leads.next
    | with_reducible exact Leads.fault _
    | with_reducible apply OptLeads.some
    | with_reducible exact OptLeads.none
    | with_reducible apply OptLeads.map
    | with_reducible apply useFree_canonical
    | with_reducible apply bump_canonical
    | extract_lets
    | (simp only [↓State.canonical_mk]; with_reducible apply Good.of)
    | split
    | (with_reducible intro _)
    | dsimp only
    | dsimp +zetaDelta only

theorem reinstall_canonical (r : CoreReq) (v : Victim) {s : State} (hs : State.canonical s) :
    OptLeads State.canonical (reinstall r v s) := by
  unfold reinstall
  repeat' first
    | with_reducible assumption
    | with_reducible apply Leads.next
    | with_reducible exact Leads.fault _
    | with_reducible apply OptLeads.some
    | with_reducible exact OptLeads.none
    | with_reducible apply OptLeads.map
    | with_reducible apply install_canonical
    | with_reducible refine OptLeads.elim (install_canonical _ _ _ ?_) (by with_reducible assumption)
    | with_reducible apply dropOthers_canonical
    | with_reducible apply l1Put_canonical
    | extract_lets
    | (simp only [↓State.canonical_mk]; with_reducible apply Good.of)
    | split
    | (with_reducible intro _)
    | dsimp only
    | dsimp +zetaDelta only

theorem makeRoom_canonical (r : CoreReq) {s : State} (hs : State.canonical s) :
    OptLeads State.canonical (makeRoom r s) := by
  unfold makeRoom
  repeat' first
    | with_reducible assumption
    | with_reducible apply Leads.next
    | with_reducible exact Leads.fault _
    | with_reducible apply OptLeads.some
    | with_reducible exact OptLeads.none
    | with_reducible apply OptLeads.map
    | with_reducible apply offerAll_canonical
    | with_reducible refine OptLeads.elim (offerAll_canonical _ _ ?_) (by with_reducible assumption)
    | extract_lets
    | (simp only [↓State.canonical_mk]; with_reducible apply Good.of)
    | split
    | (with_reducible intro _)
    | dsimp only
    | dsimp +zetaDelta only

theorem serve_canonical (r : CoreReq) {s : State} (hs : State.canonical s) :
    State.canonical (serve r s).1 := by
  unfold serve
  repeat' first
    | with_reducible assumption
    | with_reducible apply Leads.next
    | with_reducible exact Leads.fault _
    | with_reducible apply OptLeads.some
    | with_reducible exact OptLeads.none
    | with_reducible apply OptLeads.map
    | with_reducible apply makeRoom_canonical
    | with_reducible refine OptLeads.elim (makeRoom_canonical _ ?_) (by with_reducible assumption)
    | with_reducible apply reinstall_canonical
    | with_reducible refine OptLeads.elim (reinstall_canonical _ _ ?_) (by with_reducible assumption)
    | with_reducible apply missLine_canonical
    | with_reducible apply serveWith_canonical
    | with_reducible apply storeTo_canonical
    | with_reducible apply answer_canonical
    | with_reducible apply install_canonical
    | with_reducible refine OptLeads.elim (install_canonical _ _ _ ?_) (by with_reducible assumption)
    | with_reducible apply bump_canonical
    | extract_lets
    | (simp only [↓State.canonical_mk]; with_reducible apply Good.of)
    | split
    | (with_reducible intro _)
    | dsimp only
    | dsimp +zetaDelta only

theorem serve_canonical_eq (r : CoreReq) {s : State} (hs : State.canonical s) {x y} (e : serve r s = (x, y)) : State.canonical x := by
  have := serve_canonical r hs
  rw [e] at this; exact this

theorem request_canonical (r : CoreReq) {s : State} (hs : State.canonical s) :
    State.canonical (request r s) := by
  unfold request
  repeat' first
    | with_reducible assumption
    | with_reducible apply Leads.next
    | with_reducible exact Leads.fault _
    | with_reducible apply OptLeads.some
    | with_reducible exact OptLeads.none
    | with_reducible apply OptLeads.map
    | with_reducible apply serve_canonical
    | with_reducible refine serve_canonical_eq _ ?_ (by with_reducible assumption)
    | extract_lets
    | (simp only [↓State.canonical_mk]; with_reducible apply Good.of)
    | split
    | (with_reducible intro _)
    | dsimp only
    | dsimp +zetaDelta only

theorem serveBank_canonical (b : Nat) {s : State} (hs : State.canonical s) :
    State.canonical (serveBank b s) := by
  unfold serveBank
  repeat' first
    | with_reducible assumption
    | with_reducible apply Leads.next
    | with_reducible exact Leads.fault _
    | with_reducible apply OptLeads.some
    | with_reducible exact OptLeads.none
    | with_reducible apply OptLeads.map
    | with_reducible apply request_canonical
    | with_reducible apply forEach_canonical
    | with_reducible apply forEach_canonical
    | extract_lets
    | (simp only [↓State.canonical_mk]; with_reducible apply Good.of)
    | split
    | (with_reducible intro _)
    | dsimp only
    | dsimp +zetaDelta only

theorem settleHum_canonical {s : State} (hs : State.canonical s) :
    State.canonical (settleHum s) := by
  unfold settleHum
  repeat' first
    | with_reducible assumption
    | with_reducible apply Leads.next
    | with_reducible exact Leads.fault _
    | with_reducible apply OptLeads.some
    | with_reducible exact OptLeads.none
    | with_reducible apply OptLeads.map
    | extract_lets
    | (simp only [↓State.canonical_mk]; with_reducible apply Good.of)
    | split
    | (with_reducible intro _)
    | dsimp only
    | dsimp +zetaDelta only

theorem landVictims_canonical (l : Nat) (issuedOnly : Bool) {s : State} (hs : State.canonical s) :
    State.canonical (landVictims l issuedOnly s) := by
  unfold landVictims
  repeat' first
    | with_reducible assumption
    | with_reducible apply Leads.next
    | with_reducible exact Leads.fault _
    | with_reducible apply OptLeads.some
    | with_reducible exact OptLeads.none
    | with_reducible apply OptLeads.map
    | with_reducible apply memLine_canonical
    | with_reducible apply forEach_canonical
    | with_reducible apply forEach_canonical
    | extract_lets
    | (simp only [↓State.canonical_mk]; with_reducible apply Good.of)
    | split
    | (with_reducible intro _)
    | dsimp only
    | dsimp +zetaDelta only

theorem maintLine_canonical (op l : Nat) {s : State} (hs : State.canonical s) :
    State.canonical (maintLine op l s) := by
  unfold maintLine
  repeat' first
    | with_reducible assumption
    | with_reducible apply Leads.next
    | with_reducible exact Leads.fault _
    | with_reducible apply OptLeads.some
    | with_reducible exact OptLeads.none
    | with_reducible apply OptLeads.map
    | with_reducible apply landVictims_canonical
    | with_reducible apply memLine_canonical
    | extract_lets
    | (simp only [↓State.canonical_mk]; with_reducible apply Good.of)
    | split
    | (with_reducible intro _)
    | dsimp only
    | dsimp +zetaDelta only

theorem retryBank_canonical (b : Nat) {s : State} (hs : State.canonical s) :
    State.canonical (retryBank b s) := by
  unfold retryBank
  repeat' first
    | with_reducible assumption
    | with_reducible apply Leads.next
    | with_reducible exact Leads.fault _
    | with_reducible apply OptLeads.some
    | with_reducible exact OptLeads.none
    | with_reducible apply OptLeads.map
    | with_reducible apply maintLine_canonical
    | with_reducible apply serveBank_canonical
    | with_reducible apply install_canonical
    | with_reducible refine OptLeads.elim (install_canonical _ _ _ ?_) (by with_reducible assumption)
    | with_reducible apply forEach_canonical
    | with_reducible apply forEach_canonical
    | extract_lets
    | (simp only [↓State.canonical_mk]; with_reducible apply Good.of)
    | split
    | (with_reducible intro _)
    | dsimp only
    | dsimp +zetaDelta only

theorem maintain_canonical (op : Nat) (p : Nat → Bool) {s : State} (hs : State.canonical s) :
    State.canonical (maintain op p s) := by
  unfold maintain
  repeat' first
    | with_reducible assumption
    | with_reducible apply Leads.next
    | with_reducible exact Leads.fault _
    | with_reducible apply OptLeads.some
    | with_reducible exact OptLeads.none
    | with_reducible apply OptLeads.map
    | with_reducible apply retryBank_canonical
    | with_reducible apply maintLine_canonical
    | with_reducible apply forEach_canonical
    | with_reducible apply forEach_canonical
    | extract_lets
    | (simp only [↓State.canonical_mk]; with_reducible apply Good.of)
    | split
    | (with_reducible intro _)
    | dsimp only
    | dsimp +zetaDelta only

theorem faultReq_canonical (r : CoreReq) {s : State} (hs : State.canonical s) :
    State.canonical (faultReq r s) := by
  unfold faultReq
  repeat' first
    | with_reducible assumption
    | with_reducible apply Leads.next
    | with_reducible exact Leads.fault _
    | with_reducible apply OptLeads.some
    | with_reducible exact OptLeads.none
    | with_reducible apply OptLeads.map
    | with_reducible apply emit_canonical
    | extract_lets
    | (simp only [↓State.canonical_mk]; with_reducible apply Good.of)
    | split
    | (with_reducible intro _)
    | dsimp only
    | dsimp +zetaDelta only

theorem fillDone_canonical (l : Nat) {s : State} (hs : State.canonical s) :
    State.canonical (fillDone l s) := by
  unfold fillDone
  repeat' first
    | with_reducible assumption
    | with_reducible apply Leads.next
    | with_reducible exact Leads.fault _
    | with_reducible apply OptLeads.some
    | with_reducible exact OptLeads.none
    | with_reducible apply OptLeads.map
    | with_reducible apply faultReq_canonical
    | with_reducible apply maintLine_canonical
    | with_reducible apply settleHum_canonical
    | with_reducible apply serveBank_canonical
    | with_reducible apply install_canonical
    | with_reducible refine OptLeads.elim (install_canonical _ _ _ ?_) (by with_reducible assumption)
    | with_reducible apply forEach_canonical
    | with_reducible apply forEach_canonical
    | extract_lets
    | (simp only [↓State.canonical_mk]; with_reducible apply Good.of)
    | split
    | (with_reducible intro _)
    | dsimp only
    | dsimp +zetaDelta only

theorem clearCache_canonical {s : State} (hs : State.canonical s) :
    State.canonical (clearCache s) := by
  unfold clearCache
  repeat' first
    | with_reducible assumption
    | with_reducible apply Leads.next
    | with_reducible exact Leads.fault _
    | with_reducible apply OptLeads.some
    | with_reducible exact OptLeads.none
    | with_reducible apply OptLeads.map
    | extract_lets
    | (simp only [↓State.canonical_mk]; with_reducible apply Good.of)
    | split
    | (with_reducible intro _)
    | dsimp only
    | dsimp +zetaDelta only

theorem countDramUe_canonical (directory : Bool) {s : State} (hs : State.canonical s) :
    State.canonical (countDramUe directory s) := by
  unfold countDramUe
  repeat' first
    | with_reducible assumption
    | with_reducible apply Leads.next
    | with_reducible exact Leads.fault _
    | with_reducible apply OptLeads.some
    | with_reducible exact OptLeads.none
    | with_reducible apply OptLeads.map
    | with_reducible apply raiseFault_canonical
    | with_reducible apply when_canonical
    | with_reducible apply when_canonical
    | extract_lets
    | (simp only [↓State.canonical_mk]; with_reducible apply Good.of)
    | split
    | (with_reducible intro _)
    | dsimp only
    | dsimp +zetaDelta only

end Sys2Proof.Machine
end

