-- ==== Sys2Proof/Laws/CanonFov.lean ====
section
/-! SUPPORT. The canonical form is kept by the operations of Machine/Fov.lean. -/

set_option linter.all false

namespace Sys2Proof.Machine

theorem restoreConfig_canonical (l : List (Nat × Nat)) {s : State} (hs : State.canonical s) : State.canonical (restoreConfig l s) := by
  refine ⟨?_, hs.2⟩
  have key : ∀ (l : List (Nat × Nat)) (m : List (Nat × Nat)), Assoc.rising m = true →
      Assoc.rising (l.foldl (fun m p => Assoc.set m p.1 p.2) m) = true := by
    intro l
    induction l with
    | nil => intro m h; exact h
    | cons p t ih => intro m h; exact ih _ (Assoc.rising_set _ _ h)
  exact key l s.regs hs.1

theorem execBeatSend_canonical {s : State} (hs : State.canonical s) :
    Leads State.canonical (execBeatSend s) := by
  unfold execBeatSend
  repeat' first
    | with_reducible assumption
    | with_reducible apply Leads.next
    | with_reducible exact Leads.fault _
    | with_reducible apply OptLeads.some
    | with_reducible exact OptLeads.none
    | with_reducible apply OptLeads.map
    | with_reducible apply sendMir_canonical
    | with_reducible apply emit_canonical
    | extract_lets
    | (simp only [↓State.canonical_mk]; with_reducible apply Good.of)
    | split
    | (with_reducible intro _)
    | dsimp only
    | dsimp +zetaDelta only

theorem partnerLost_canonical {s : State} (hs : State.canonical s) :
    State.canonical (partnerLost s) := by
  unfold partnerLost
  repeat' first
    | with_reducible assumption
    | with_reducible apply Leads.next
    | with_reducible exact Leads.fault _
    | with_reducible apply OptLeads.some
    | with_reducible exact OptLeads.none
    | with_reducible apply OptLeads.map
    | with_reducible apply forceOwner_canonical
    | with_reducible apply abandonHandover_canonical
    | with_reducible apply hostEvent_canonical
    | with_reducible apply event_canonical
    | with_reducible apply setF_canonical
    | with_reducible apply setF_canonical
    | extract_lets
    | (simp only [↓State.canonical_mk]; with_reducible apply Good.of)
    | split
    | (with_reducible intro _)
    | dsimp only
    | dsimp +zetaDelta only

theorem partnerGone_canonical {s : State} (hs : State.canonical s) :
    State.canonical (partnerGone s) := by
  unfold partnerGone
  repeat' first
    | with_reducible assumption
    | with_reducible apply Leads.next
    | with_reducible exact Leads.fault _
    | with_reducible apply OptLeads.some
    | with_reducible exact OptLeads.none
    | with_reducible apply OptLeads.map
    | with_reducible apply showPartnerLive_canonical
    | extract_lets
    | (simp only [↓State.canonical_mk]; with_reducible apply Good.of)
    | split
    | (with_reducible intro _)
    | dsimp only
    | dsimp +zetaDelta only

theorem missPath_canonical (path : Nat) {s : State} (hs : State.canonical s) :
    State.canonical (missPath path s) := by
  unfold missPath
  repeat' first
    | with_reducible assumption
    | with_reducible apply Leads.next
    | with_reducible exact Leads.fault _
    | with_reducible apply OptLeads.some
    | with_reducible exact OptLeads.none
    | with_reducible apply OptLeads.map
    | with_reducible apply partnerGone_canonical
    | with_reducible apply partnerLost_canonical
    | with_reducible apply event_canonical
    | with_reducible apply setF_canonical
    | with_reducible apply setF_canonical
    | extract_lets
    | (simp only [↓State.canonical_mk]; with_reducible apply Good.of)
    | split
    | (with_reducible intro _)
    | dsimp only
    | dsimp +zetaDelta only

theorem execBeatMiss_canonical (mirror : Bool) {s : State} (hs : State.canonical s) :
    Leads State.canonical (execBeatMiss mirror s) := by
  unfold execBeatMiss
  repeat' first
    | with_reducible assumption
    | with_reducible apply Leads.next
    | with_reducible exact Leads.fault _
    | with_reducible apply OptLeads.some
    | with_reducible exact OptLeads.none
    | with_reducible apply OptLeads.map
    | with_reducible apply missPath_canonical
    | with_reducible apply settle_canonical
    | extract_lets
    | (simp only [↓State.canonical_mk]; with_reducible apply Good.of)
    | split
    | (with_reducible intro _)
    | dsimp only
    | dsimp +zetaDelta only

theorem startResync_canonical {s : State} (hs : State.canonical s) :
    State.canonical (startResync s) := by
  unfold startResync
  repeat' first
    | with_reducible assumption
    | with_reducible apply Leads.next
    | with_reducible exact Leads.fault _
    | with_reducible apply OptLeads.some
    | with_reducible exact OptLeads.none
    | with_reducible apply OptLeads.map
    | with_reducible apply sendMir_canonical
    | with_reducible apply forEach_canonical
    | with_reducible apply forEach_canonical
    | extract_lets
    | (simp only [↓State.canonical_mk]; with_reducible apply Good.of)
    | split
    | (with_reducible intro _)
    | dsimp only
    | dsimp +zetaDelta only

theorem positionConflict_canonical {s : State} (hs : State.canonical s) :
    State.canonical (positionConflict s) := by
  unfold positionConflict
  repeat' first
    | with_reducible assumption
    | with_reducible apply Leads.next
    | with_reducible exact Leads.fault _
    | with_reducible apply OptLeads.some
    | with_reducible exact OptLeads.none
    | with_reducible apply OptLeads.map
    | with_reducible apply lightFault_canonical
    | with_reducible apply event_canonical
    | with_reducible apply setF_canonical
    | with_reducible apply setF_canonical
    | extract_lets
    | (simp only [↓State.canonical_mk]; with_reducible apply Good.of)
    | split
    | (with_reducible intro _)
    | dsimp only
    | dsimp +zetaDelta only

theorem activeHears_canonical {s : State} (hs : State.canonical s) :
    State.canonical (activeHears s) := by
  unfold activeHears
  repeat' first
    | with_reducible assumption
    | with_reducible apply Leads.next
    | with_reducible exact Leads.fault _
    | with_reducible apply OptLeads.some
    | with_reducible exact OptLeads.none
    | with_reducible apply OptLeads.map
    | with_reducible apply startResync_canonical
    | with_reducible apply partnerGone_canonical
    | with_reducible apply wantHandover_canonical
    | with_reducible apply showPartnerLive_canonical
    | extract_lets
    | (simp only [↓State.canonical_mk]; with_reducible apply Good.of)
    | split
    | (with_reducible intro _)
    | dsimp only
    | dsimp +zetaDelta only

theorem startConverter_canonical {s : State} (hs : State.canonical s) :
    State.canonical (startConverter s) := by
  unfold startConverter
  repeat' first
    | with_reducible assumption
    | with_reducible apply Leads.next
    | with_reducible exact Leads.fault _
    | with_reducible apply OptLeads.some
    | with_reducible exact OptLeads.none
    | with_reducible apply OptLeads.map
    | with_reducible apply softStart_canonical
    | with_reducible apply setF_canonical
    | with_reducible apply setF_canonical
    | extract_lets
    | (simp only [↓State.canonical_mk]; with_reducible apply Good.of)
    | split
    | (with_reducible intro _)
    | dsimp only
    | dsimp +zetaDelta only

theorem stopConverter_canonical {s : State} (hs : State.canonical s) :
    State.canonical (stopConverter s) := by
  unfold stopConverter
  repeat' first
    | with_reducible assumption
    | with_reducible apply Leads.next
    | with_reducible exact Leads.fault _
    | with_reducible apply OptLeads.some
    | with_reducible exact OptLeads.none
    | with_reducible apply OptLeads.map
    | with_reducible apply fanSettleAll_canonical
    | with_reducible apply setF_canonical
    | with_reducible apply setF_canonical
    | extract_lets
    | (simp only [↓State.canonical_mk]; with_reducible apply Good.of)
    | split
    | (with_reducible intro _)
    | dsimp only
    | dsimp +zetaDelta only

theorem discardCopy_canonical {s : State} (hs : State.canonical s) :
    State.canonical (discardCopy s) := by
  unfold discardCopy
  repeat' first
    | with_reducible assumption
    | with_reducible apply Leads.next
    | with_reducible exact Leads.fault _
    | with_reducible apply OptLeads.some
    | with_reducible exact OptLeads.none
    | with_reducible apply OptLeads.map
    | extract_lets
    | (simp only [↓State.canonical_mk]; with_reducible apply Good.of)
    | split
    | (with_reducible intro _)
    | dsimp only
    | dsimp +zetaDelta only

theorem standbyHears_canonical {s : State} (hs : State.canonical s) :
    State.canonical (standbyHears s) := by
  unfold standbyHears
  repeat' first
    | with_reducible assumption
    | with_reducible apply Leads.next
    | with_reducible exact Leads.fault _
    | with_reducible apply OptLeads.some
    | with_reducible exact OptLeads.none
    | with_reducible apply OptLeads.map
    | with_reducible apply discardCopy_canonical
    | with_reducible apply stopConverter_canonical
    | with_reducible apply startConverter_canonical
    | with_reducible apply enterStandby_canonical
    | with_reducible apply toMode_canonical
    | with_reducible apply roleChanged_canonical
    | with_reducible apply setF_canonical
    | with_reducible apply setF_canonical
    | extract_lets
    | (simp only [↓State.canonical_mk]; with_reducible apply Good.of)
    | split
    | (with_reducible intro _)
    | dsimp only
    | dsimp +zetaDelta only

theorem hearRelinquish_canonical (reason : Nat) {s : State} (hs : State.canonical s) :
    State.canonical (hearRelinquish reason s) := by
  unfold hearRelinquish
  repeat' first
    | with_reducible assumption
    | with_reducible apply Leads.next
    | with_reducible exact Leads.fault _
    | with_reducible apply OptLeads.some
    | with_reducible exact OptLeads.none
    | with_reducible apply OptLeads.map
    | with_reducible apply event_canonical
    | extract_lets
    | (simp only [↓State.canonical_mk]; with_reducible apply Good.of)
    | split
    | (with_reducible intro _)
    | dsimp only
    | dsimp +zetaDelta only

theorem goodBeat_canonical (path w : Nat) {s : State} (hs : State.canonical s) :
    State.canonical (goodBeat path w s) := by
  unfold goodBeat
  repeat' first
    | with_reducible assumption
    | with_reducible apply Leads.next
    | with_reducible exact Leads.fault _
    | with_reducible apply OptLeads.some
    | with_reducible exact OptLeads.none
    | with_reducible apply OptLeads.map
    | with_reducible apply hearRelinquish_canonical
    | with_reducible apply standbyHears_canonical
    | with_reducible apply activeHears_canonical
    | with_reducible apply positionConflict_canonical
    | with_reducible apply event_canonical
    | with_reducible apply setF_canonical
    | with_reducible apply setF_canonical
    | extract_lets
    | (simp only [↓State.canonical_mk]; with_reducible apply Good.of)
    | split
    | (with_reducible intro _)
    | dsimp only
    | dsimp +zetaDelta only

theorem takeBeat_canonical (path w : Nat) {s : State} (hs : State.canonical s) :
    State.canonical (takeBeat path w s) := by
  unfold takeBeat
  repeat' first
    | with_reducible assumption
    | with_reducible apply Leads.next
    | with_reducible exact Leads.fault _
    | with_reducible apply OptLeads.some
    | with_reducible exact OptLeads.none
    | with_reducible apply OptLeads.map
    | with_reducible apply goodBeat_canonical
    | with_reducible apply missPath_canonical
    | with_reducible apply event_canonical
    | extract_lets
    | (simp only [↓State.canonical_mk]; with_reducible apply Good.of)
    | split
    | (with_reducible intro _)
    | dsimp only
    | dsimp +zetaDelta only

theorem execLineBeat_canonical (word : Nat) {s : State} (hs : State.canonical s) :
    Leads State.canonical (execLineBeat word s) := by
  unfold execLineBeat
  repeat' first
    | with_reducible assumption
    | with_reducible apply Leads.next
    | with_reducible exact Leads.fault _
    | with_reducible apply OptLeads.some
    | with_reducible exact OptLeads.none
    | with_reducible apply OptLeads.map
    | with_reducible apply takeBeat_canonical
    | with_reducible apply settle_canonical
    | extract_lets
    | (simp only [↓State.canonical_mk]; with_reducible apply Good.of)
    | split
    | (with_reducible intro _)
    | dsimp only
    | dsimp +zetaDelta only

theorem execBeat_canonical (word _seq _dirtyMib : Nat) (hostUp : Bool) {s : State} (hs : State.canonical s) :
    Leads State.canonical (execBeat word _seq _dirtyMib hostUp s) := by
  unfold execBeat
  repeat' first
    | with_reducible assumption
    | with_reducible apply Leads.next
    | with_reducible exact Leads.fault _
    | with_reducible apply OptLeads.some
    | with_reducible exact OptLeads.none
    | with_reducible apply OptLeads.map
    | with_reducible apply takeBeat_canonical
    | with_reducible apply settle_canonical
    | with_reducible apply bump_canonical
    | extract_lets
    | (simp only [↓State.canonical_mk]; with_reducible apply Good.of)
    | split
    | (with_reducible intro _)
    | dsimp only
    | dsimp +zetaDelta only

theorem endStart_canonical {s : State} (hs : State.canonical s) :
    State.canonical (endStart s) := by
  unfold endStart
  repeat' first
    | with_reducible assumption
    | with_reducible apply Leads.next
    | with_reducible exact Leads.fault _
    | with_reducible apply OptLeads.some
    | with_reducible exact OptLeads.none
    | with_reducible apply OptLeads.map
    | with_reducible apply startWake_canonical
    | with_reducible apply setF_canonical
    | with_reducible apply setF_canonical
    | extract_lets
    | (simp only [↓State.canonical_mk]; with_reducible apply Good.of)
    | split
    | (with_reducible intro _)
    | dsimp only
    | dsimp +zetaDelta only

theorem takeStandby_canonical {s : State} (hs : State.canonical s) :
    State.canonical (takeStandby s) := by
  unfold takeStandby
  repeat' first
    | with_reducible assumption
    | with_reducible apply Leads.next
    | with_reducible exact Leads.fault _
    | with_reducible apply OptLeads.some
    | with_reducible exact OptLeads.none
    | with_reducible apply OptLeads.map
    | with_reducible apply endStart_canonical
    | with_reducible apply roleChanged_canonical
    | with_reducible apply setF_canonical
    | with_reducible apply setF_canonical
    | extract_lets
    | (simp only [↓State.canonical_mk]; with_reducible apply Good.of)
    | split
    | (with_reducible intro _)
    | dsimp only
    | dsimp +zetaDelta only

theorem execRoleTake_canonical {s : State} (hs : State.canonical s) :
    Leads State.canonical (execRoleTake s) := by
  unfold execRoleTake
  repeat' first
    | with_reducible assumption
    | with_reducible apply Leads.next
    | with_reducible exact Leads.fault _
    | with_reducible apply OptLeads.some
    | with_reducible exact OptLeads.none
    | with_reducible apply OptLeads.map
    | with_reducible apply takeStandby_canonical
    | with_reducible apply endStart_canonical
    | with_reducible apply settle_canonical
    | with_reducible apply claimLines_canonical
    | with_reducible apply enterService_canonical
    | extract_lets
    | (simp only [↓State.canonical_mk]; with_reducible apply Good.of)
    | split
    | (with_reducible intro _)
    | dsimp only
    | dsimp +zetaDelta only

theorem execActiveClaim_canonical {s : State} (hs : State.canonical s) :
    Leads State.canonical (execActiveClaim s) := by
  unfold execActiveClaim
  repeat' first
    | with_reducible assumption
    | with_reducible apply Leads.next
    | with_reducible exact Leads.fault _
    | with_reducible apply OptLeads.some
    | with_reducible exact OptLeads.none
    | with_reducible apply OptLeads.map
    | with_reducible apply land_canonical
    | with_reducible refine Leads.elim (land_canonical _ _ _ ?_ ?_) (by with_reducible assumption)
    | with_reducible apply setF_canonical
    | with_reducible apply setF_canonical
    | extract_lets
    | (simp only [↓State.canonical_mk]; with_reducible apply Good.of)
    | split
    | (with_reducible intro _)
    | dsimp only
    | dsimp +zetaDelta only

theorem execActiveClaimDone_canonical (samples : List Bool) {s : State} (hs : State.canonical s) :
    Leads State.canonical (execActiveClaimDone samples s) := by
  unfold execActiveClaimDone
  repeat' first
    | with_reducible assumption
    | with_reducible apply Leads.next
    | with_reducible exact Leads.fault _
    | with_reducible apply OptLeads.some
    | with_reducible exact OptLeads.none
    | with_reducible apply OptLeads.map
    | with_reducible apply takeStandby_canonical
    | with_reducible apply endStart_canonical
    | with_reducible apply settle_canonical
    | with_reducible apply roleChanged_canonical
    | with_reducible apply setF_canonical
    | with_reducible apply setF_canonical
    | with_reducible apply id_canonical
    | extract_lets
    | (simp only [↓State.canonical_mk]; with_reducible apply Good.of)
    | split
    | (with_reducible intro _)
    | dsimp only
    | dsimp +zetaDelta only

theorem execActiveRelease_canonical {s : State} (hs : State.canonical s) :
    Leads State.canonical (execActiveRelease s) := by
  unfold execActiveRelease
  repeat' first
    | with_reducible assumption
    | with_reducible apply Leads.next
    | with_reducible exact Leads.fault _
    | with_reducible apply OptLeads.some
    | with_reducible exact OptLeads.none
    | with_reducible apply OptLeads.map
    | with_reducible apply releaseActive_canonical
    | with_reducible apply land_canonical
    | with_reducible refine Leads.elim (land_canonical _ _ _ ?_ ?_) (by with_reducible assumption)
    | extract_lets
    | (simp only [↓State.canonical_mk]; with_reducible apply Good.of)
    | split
    | (with_reducible intro _)
    | dsimp only
    | dsimp +zetaDelta only

theorem execRelinquish_canonical {s : State} (hs : State.canonical s) :
    Leads State.canonical (execRelinquish s) := by
  unfold execRelinquish
  repeat' first
    | with_reducible assumption
    | with_reducible apply Leads.next
    | with_reducible exact Leads.fault _
    | with_reducible apply OptLeads.some
    | with_reducible exact OptLeads.none
    | with_reducible apply OptLeads.map
    | with_reducible apply relinquish_canonical
    | with_reducible apply land_canonical
    | with_reducible refine Leads.elim (land_canonical _ _ _ ?_ ?_) (by with_reducible assumption)
    | extract_lets
    | (simp only [↓State.canonical_mk]; with_reducible apply Good.of)
    | split
    | (with_reducible intro _)
    | dsimp only
    | dsimp +zetaDelta only

theorem execActiveLineChange_canonical (low : Bool) {s : State} (hs : State.canonical s) :
    Leads State.canonical (execActiveLineChange low s) := by
  unfold execActiveLineChange
  repeat' first
    | with_reducible assumption
    | with_reducible apply Leads.next
    | with_reducible exact Leads.fault _
    | with_reducible apply OptLeads.some
    | with_reducible exact OptLeads.none
    | with_reducible apply OptLeads.map
    | with_reducible apply takeStandby_canonical
    | with_reducible apply settle_canonical
    | with_reducible apply event_canonical
    | with_reducible apply setF_canonical
    | with_reducible apply setF_canonical
    | extract_lets
    | (simp only [↓State.canonical_mk]; with_reducible apply Good.of)
    | split
    | (with_reducible intro _)
    | dsimp only
    | dsimp +zetaDelta only

theorem execTakeoverComplete_canonical {s : State} (hs : State.canonical s) :
    Leads State.canonical (execTakeoverComplete s) := by
  unfold execTakeoverComplete
  repeat' first
    | with_reducible assumption
    | with_reducible apply Leads.next
    | with_reducible exact Leads.fault _
    | with_reducible apply OptLeads.some
    | with_reducible exact OptLeads.none
    | with_reducible apply OptLeads.map
    | with_reducible apply enterServing_canonical
    | with_reducible apply noteCaught_canonical
    | extract_lets
    | (simp only [↓State.canonical_mk]; with_reducible apply Good.of)
    | split
    | (with_reducible intro _)
    | dsimp only
    | dsimp +zetaDelta only

theorem showCompat_canonical {s : State} (hs : State.canonical s) :
    State.canonical (showCompat s) := by
  unfold showCompat
  repeat' first
    | with_reducible assumption
    | with_reducible apply Leads.next
    | with_reducible exact Leads.fault _
    | with_reducible apply OptLeads.some
    | with_reducible exact OptLeads.none
    | with_reducible apply OptLeads.map
    | with_reducible apply setF_canonical
    | with_reducible apply setF_canonical
    | extract_lets
    | (simp only [↓State.canonical_mk]; with_reducible apply Good.of)
    | split
    | (with_reducible intro _)
    | dsimp only
    | dsimp +zetaDelta only

theorem startFirmware_canonical {s : State} (hs : State.canonical s) :
    State.canonical (startFirmware s) := by
  unfold startFirmware
  repeat' first
    | with_reducible assumption
    | with_reducible apply Leads.next
    | with_reducible exact Leads.fault _
    | with_reducible apply OptLeads.some
    | with_reducible exact OptLeads.none
    | with_reducible apply OptLeads.map
    | with_reducible apply restoreConfig_canonical
    | with_reducible apply showCompat_canonical
    | with_reducible apply applyFeature_canonical
    | with_reducible apply showImage_canonical
    | with_reducible apply restoreFronts_canonical
    | with_reducible apply toMode_canonical
    | with_reducible apply setHold_canonical
    | with_reducible apply forEach_canonical
    | with_reducible apply setF_canonical
    | with_reducible apply setF_canonical
    | with_reducible apply forEach_canonical
    | extract_lets
    | (simp only [↓State.canonical_mk]; with_reducible apply Good.of)
    | split
    | (with_reducible intro _)
    | dsimp only
    | dsimp +zetaDelta only

theorem execWatchdogKick_canonical {s : State} (hs : State.canonical s) :
    Leads State.canonical (execWatchdogKick s) := by
  unfold execWatchdogKick
  repeat' first
    | with_reducible assumption
    | with_reducible apply Leads.next
    | with_reducible exact Leads.fault _
    | with_reducible apply OptLeads.some
    | with_reducible exact OptLeads.none
    | with_reducible apply OptLeads.map
    | with_reducible apply startFirmware_canonical
    | with_reducible apply finish_canonical
    | with_reducible apply land_canonical
    | with_reducible refine Leads.elim (land_canonical _ _ _ ?_ ?_) (by with_reducible assumption)
    | with_reducible apply logPlain_canonical
    | with_reducible apply when_canonical
    | with_reducible apply setF_canonical
    | with_reducible apply setF_canonical
    | with_reducible apply when_canonical
    | extract_lets
    | (simp only [↓State.canonical_mk]; with_reducible apply Good.of)
    | split
    | (with_reducible intro _)
    | dsimp only
    | dsimp +zetaDelta only

theorem execFwWatchdogExpiry_canonical {s : State} (hs : State.canonical s) :
    Leads State.canonical (execFwWatchdogExpiry s) := by
  unfold execFwWatchdogExpiry
  repeat' first
    | with_reducible assumption
    | with_reducible apply Leads.next
    | with_reducible exact Leads.fault _
    | with_reducible apply OptLeads.some
    | with_reducible exact OptLeads.none
    | with_reducible apply OptLeads.map
    | with_reducible apply event_canonical
    | with_reducible apply setF_canonical
    | with_reducible apply setF_canonical
    | extract_lets
    | (simp only [↓State.canonical_mk]; with_reducible apply Good.of)
    | split
    | (with_reducible intro _)
    | dsimp only
    | dsimp +zetaDelta only

theorem execKeeperRelease_canonical {s : State} (hs : State.canonical s) :
    Leads State.canonical (execKeeperRelease s) := by
  unfold execKeeperRelease
  repeat' first
    | with_reducible assumption
    | with_reducible apply Leads.next
    | with_reducible exact Leads.fault _
    | with_reducible apply OptLeads.some
    | with_reducible exact OptLeads.none
    | with_reducible apply OptLeads.map
    | with_reducible apply setOffset_canonical
    | with_reducible apply abortMembers_canonical
    | with_reducible apply relinquish_canonical
    | with_reducible apply releaseActive_canonical
    | with_reducible apply fanRelease_canonical
    | with_reducible apply sendMir_canonical
    | with_reducible apply event_canonical
    | with_reducible apply setF_canonical
    | with_reducible apply setF_canonical
    | extract_lets
    | (simp only [↓State.canonical_mk]; with_reducible apply Good.of)
    | split
    | (with_reducible intro _)
    | dsimp only
    | dsimp +zetaDelta only

theorem execHandoverBegin_canonical {s : State} (hs : State.canonical s) :
    Leads State.canonical (execHandoverBegin s) := by
  unfold execHandoverBegin
  repeat' first
    | with_reducible assumption
    | with_reducible apply Leads.next
    | with_reducible exact Leads.fault _
    | with_reducible apply OptLeads.some
    | with_reducible exact OptLeads.none
    | with_reducible apply OptLeads.map
    | with_reducible apply setOffset_canonical
    | with_reducible apply bump_canonical
    | extract_lets
    | (simp only [↓State.canonical_mk]; with_reducible apply Good.of)
    | split
    | (with_reducible intro _)
    | dsimp only
    | dsimp +zetaDelta only

theorem execPowerCheck_canonical (ok : Bool) {s : State} (hs : State.canonical s) :
    Leads State.canonical (execPowerCheck ok s) := by
  unfold execPowerCheck
  repeat' first
    | with_reducible assumption
    | with_reducible apply Leads.next
    | with_reducible exact Leads.fault _
    | with_reducible apply OptLeads.some
    | with_reducible exact OptLeads.none
    | with_reducible apply OptLeads.map
    | with_reducible apply settle_canonical
    | with_reducible apply enterService_canonical
    | with_reducible apply setOffset_canonical
    | with_reducible apply sendMir_canonical
    | extract_lets
    | (simp only [↓State.canonical_mk]; with_reducible apply Good.of)
    | split
    | (with_reducible intro _)
    | dsimp only
    | dsimp +zetaDelta only

theorem endForHandover_canonical {s : State} (hs : State.canonical s) :
    State.canonical (endForHandover s) := by
  unfold endForHandover
  repeat' first
    | with_reducible assumption
    | with_reducible apply Leads.next
    | with_reducible exact Leads.fault _
    | with_reducible apply OptLeads.some
    | with_reducible exact OptLeads.none
    | with_reducible apply OptLeads.map
    | with_reducible apply refuseIo_canonical
    | with_reducible apply finishAll_canonical
    | extract_lets
    | (simp only [↓State.canonical_mk]; with_reducible apply Good.of)
    | split
    | (with_reducible intro _)
    | dsimp only
    | dsimp +zetaDelta only

theorem keepCopy_canonical {s : State} (hs : State.canonical s) :
    State.canonical (keepCopy s) := by
  unfold keepCopy
  repeat' first
    | with_reducible assumption
    | with_reducible apply Leads.next
    | with_reducible exact Leads.fault _
    | with_reducible apply OptLeads.some
    | with_reducible exact OptLeads.none
    | with_reducible apply OptLeads.map
    | extract_lets
    | (simp only [↓State.canonical_mk]; with_reducible apply Good.of)
    | split
    | (with_reducible intro _)
    | dsimp only
    | dsimp +zetaDelta only

theorem execHandoverPowerOk_canonical {s : State} (hs : State.canonical s) :
    Leads State.canonical (execHandoverPowerOk s) := by
  unfold execHandoverPowerOk
  repeat' first
    | with_reducible assumption
    | with_reducible apply Leads.next
    | with_reducible exact Leads.fault _
    | with_reducible apply OptLeads.some
    | with_reducible exact OptLeads.none
    | with_reducible apply OptLeads.map
    | with_reducible apply keepCopy_canonical
    | with_reducible apply endForHandover_canonical
    | with_reducible apply settle_canonical
    | with_reducible apply enterStandby_canonical
    | with_reducible apply enterService_canonical
    | with_reducible apply setOffset_canonical
    | with_reducible apply finishRole_canonical
    | with_reducible apply abortMembers_canonical
    | with_reducible apply releaseActive_canonical
    | with_reducible apply setHold_canonical
    | with_reducible apply fanRelease_canonical
    | with_reducible apply showPartnerLive_canonical
    | with_reducible apply sendMir_canonical
    | with_reducible apply bump_canonical
    | with_reducible apply setF_canonical
    | with_reducible apply setF_canonical
    | extract_lets
    | (simp only [↓State.canonical_mk]; with_reducible apply Good.of)
    | split
    | (with_reducible intro _)
    | dsimp only
    | dsimp +zetaDelta only

theorem execHandoverPowerFail_canonical {s : State} (hs : State.canonical s) :
    Leads State.canonical (execHandoverPowerFail s) := by
  unfold execHandoverPowerFail
  repeat' first
    | with_reducible assumption
    | with_reducible apply Leads.next
    | with_reducible exact Leads.fault _
    | with_reducible apply OptLeads.some
    | with_reducible exact OptLeads.none
    | with_reducible apply OptLeads.map
    | with_reducible apply settle_canonical
    | with_reducible apply abandonHandover_canonical
    | with_reducible apply bump_canonical
    | extract_lets
    | (simp only [↓State.canonical_mk]; with_reducible apply Good.of)
    | split
    | (with_reducible intro _)
    | dsimp only
    | dsimp +zetaDelta only

theorem execHandoverCommit_canonical {s : State} (hs : State.canonical s) :
    Leads State.canonical (execHandoverCommit s) := by
  unfold execHandoverCommit
  repeat' first
    | with_reducible assumption
    | with_reducible apply Leads.next
    | with_reducible exact Leads.fault _
    | with_reducible apply OptLeads.some
    | with_reducible exact OptLeads.none
    | with_reducible apply OptLeads.map
    | with_reducible apply settle_canonical
    | with_reducible apply enterTakeover_canonical
    | with_reducible apply bump_canonical
    | extract_lets
    | (simp only [↓State.canonical_mk]; with_reducible apply Good.of)
    | split
    | (with_reducible intro _)
    | dsimp only
    | dsimp +zetaDelta only

theorem exchangeRoles_canonical {s : State} (hs : State.canonical s) :
    State.canonical (exchangeRoles s) := by
  unfold exchangeRoles
  repeat' first
    | with_reducible assumption
    | with_reducible apply Leads.next
    | with_reducible exact Leads.fault _
    | with_reducible apply OptLeads.some
    | with_reducible exact OptLeads.none
    | with_reducible apply OptLeads.map
    | with_reducible apply roleChanged_canonical
    | with_reducible apply fanRelease_canonical
    | with_reducible apply setF_canonical
    | with_reducible apply setF_canonical
    | extract_lets
    | (simp only [↓State.canonical_mk]; with_reducible apply Good.of)
    | split
    | (with_reducible intro _)
    | dsimp only
    | dsimp +zetaDelta only

theorem execRevertHoldoffExpiry_canonical (tested persists : Bool) {s : State} (hs : State.canonical s) :
    Leads State.canonical (execRevertHoldoffExpiry tested persists s) := by
  unfold execRevertHoldoffExpiry
  repeat' first
    | with_reducible assumption
    | with_reducible apply Leads.next
    | with_reducible exact Leads.fault _
    | with_reducible apply OptLeads.some
    | with_reducible exact OptLeads.none
    | with_reducible apply OptLeads.map
    | with_reducible apply exchangeRoles_canonical
    | with_reducible apply settle_canonical
    | with_reducible apply wantHandover_canonical
    | extract_lets
    | (simp only [↓State.canonical_mk]; with_reducible apply Good.of)
    | split
    | (with_reducible intro _)
    | dsimp only
    | dsimp +zetaDelta only

theorem execSwapDue_canonical {s : State} (hs : State.canonical s) :
    Leads State.canonical (execSwapDue s) := by
  unfold execSwapDue
  repeat' first
    | with_reducible assumption
    | with_reducible apply Leads.next
    | with_reducible exact Leads.fault _
    | with_reducible apply OptLeads.some
    | with_reducible exact OptLeads.none
    | with_reducible apply OptLeads.map
    | extract_lets
    | (simp only [↓State.canonical_mk]; with_reducible apply Good.of)
    | split
    | (with_reducible intro _)
    | dsimp only
    | dsimp +zetaDelta only

theorem leaveHold_canonical {s : State} (hs : State.canonical s) :
    State.canonical (leaveHold s) := by
  unfold leaveHold
  repeat' first
    | with_reducible assumption
    | with_reducible apply Leads.next
    | with_reducible exact Leads.fault _
    | with_reducible apply OptLeads.some
    | with_reducible exact OptLeads.none
    | with_reducible apply OptLeads.map
    | with_reducible apply setHold_canonical
    | with_reducible apply demandMoved_canonical
    | with_reducible apply setF_canonical
    | with_reducible apply setF_canonical
    | extract_lets
    | (simp only [↓State.canonical_mk]; with_reducible apply Good.of)
    | split
    | (with_reducible intro _)
    | dsimp only
    | dsimp +zetaDelta only

theorem execHoldSelfCheck_canonical (clear : Bool) {s : State} (hs : State.canonical s) :
    Leads State.canonical (execHoldSelfCheck clear s) := by
  unfold execHoldSelfCheck
  repeat' first
    | with_reducible assumption
    | with_reducible apply Leads.next
    | with_reducible exact Leads.fault _
    | with_reducible apply OptLeads.some
    | with_reducible exact OptLeads.none
    | with_reducible apply OptLeads.map
    | with_reducible apply leaveHold_canonical
    | with_reducible apply settle_canonical
    | extract_lets
    | (simp only [↓State.canonical_mk]; with_reducible apply Good.of)
    | split
    | (with_reducible intro _)
    | dsimp only
    | dsimp +zetaDelta only

theorem execHoldUnsyncedTimeout_canonical {s : State} (hs : State.canonical s) :
    Leads State.canonical (execHoldUnsyncedTimeout s) := by
  unfold execHoldUnsyncedTimeout
  repeat' first
    | with_reducible assumption
    | with_reducible apply Leads.next
    | with_reducible exact Leads.fault _
    | with_reducible apply OptLeads.some
    | with_reducible exact OptLeads.none
    | with_reducible apply OptLeads.map
    | with_reducible apply leaveHold_canonical
    | with_reducible apply imageLost_canonical
    | with_reducible apply settle_canonical
    | extract_lets
    | (simp only [↓State.canonical_mk]; with_reducible apply Good.of)
    | split
    | (with_reducible intro _)
    | dsimp only
    | dsimp +zetaDelta only

theorem execMirrorLinkDown_canonical {s : State} (hs : State.canonical s) :
    Leads State.canonical (execMirrorLinkDown s) := by
  unfold execMirrorLinkDown
  repeat' first
    | with_reducible assumption
    | with_reducible apply Leads.next
    | with_reducible exact Leads.fault _
    | with_reducible apply OptLeads.some
    | with_reducible exact OptLeads.none
    | with_reducible apply OptLeads.map
    | with_reducible apply partnerGone_canonical
    | with_reducible apply forceOwner_canonical
    | with_reducible apply settle_canonical
    | with_reducible apply bump_canonical
    | with_reducible apply setF_canonical
    | with_reducible apply setF_canonical
    | extract_lets
    | (simp only [↓State.canonical_mk]; with_reducible apply Good.of)
    | split
    | (with_reducible intro _)
    | dsimp only
    | dsimp +zetaDelta only

theorem execMirrorLinkUp_canonical (lanes : Fin 13) {s : State} (hs : State.canonical s) :
    Leads State.canonical (execMirrorLinkUp lanes s) := by
  unfold execMirrorLinkUp
  repeat' first
    | with_reducible assumption
    | with_reducible apply Leads.next
    | with_reducible exact Leads.fault _
    | with_reducible apply OptLeads.some
    | with_reducible exact OptLeads.none
    | with_reducible apply OptLeads.map
    | with_reducible apply setF_canonical
    | with_reducible apply setF_canonical
    | extract_lets
    | (simp only [↓State.canonical_mk]; with_reducible apply Good.of)
    | split
    | (with_reducible intro _)
    | dsimp only
    | dsimp +zetaDelta only

theorem receive_canonical (k : State → State) {s : State} (hk : ∀ (x0 : State), State.canonical x0 → State.canonical (k x0)) (hs : State.canonical s) :
    Leads State.canonical (receive k s) := by
  unfold receive
  repeat' first
    | with_reducible assumption
    | with_reducible apply Leads.next
    | with_reducible exact Leads.fault _
    | with_reducible apply OptLeads.some
    | with_reducible exact OptLeads.none
    | with_reducible apply OptLeads.map
    | with_reducible apply hk
    | with_reducible apply settle_canonical
    | with_reducible apply bump_canonical
    | extract_lets
    | (simp only [↓State.canonical_mk]; with_reducible apply Good.of)
    | split
    | (with_reducible intro _)
    | dsimp only
    | dsimp +zetaDelta only

theorem landLine_canonical (l : Nat × (Block × Nat)) {s : State} (hs : State.canonical s) :
    State.canonical (landLine l s) := by
  unfold landLine
  repeat' first
    | with_reducible assumption
    | with_reducible apply Leads.next
    | with_reducible exact Leads.fault _
    | with_reducible apply OptLeads.some
    | with_reducible exact OptLeads.none
    | with_reducible apply OptLeads.map
    | with_reducible apply sendMir_canonical
    | extract_lets
    | (simp only [↓State.canonical_mk]; with_reducible apply Good.of)
    | split
    | (with_reducible intro _)
    | dsimp only
    | dsimp +zetaDelta only

theorem ackCommits_canonical {s : State} (hs : State.canonical s) :
    State.canonical (ackCommits s) := by
  unfold ackCommits
  repeat' first
    | with_reducible assumption
    | with_reducible apply Leads.next
    | with_reducible exact Leads.fault _
    | with_reducible apply OptLeads.some
    | with_reducible exact OptLeads.none
    | with_reducible apply OptLeads.map
    | with_reducible apply sendMir_canonical
    | with_reducible apply forEach_canonical
    | with_reducible apply forEach_canonical
    | extract_lets
    | (simp only [↓State.canonical_mk]; with_reducible apply Good.of)
    | split
    | (with_reducible intro _)
    | dsimp only
    | dsimp +zetaDelta only

theorem execData_canonical (lines : List (Nat × (Block × Nat))) {s : State} (hs : State.canonical s) :
    Leads State.canonical (execData lines s) := by
  unfold execData
  repeat' first
    | with_reducible assumption
    | with_reducible apply Leads.next
    | with_reducible exact Leads.fault _
    | with_reducible apply OptLeads.some
    | with_reducible exact OptLeads.none
    | with_reducible apply OptLeads.map
    | with_reducible apply ackCommits_canonical
    | with_reducible apply landLine_canonical
    | with_reducible apply receive_canonical
    | with_reducible refine Leads.elim (receive_canonical _ ?_ ?_) (by with_reducible assumption)
    | with_reducible apply forEach_canonical
    | with_reducible apply forEach_canonical
    | extract_lets
    | (simp only [↓State.canonical_mk]; with_reducible apply Good.of)
    | split
    | (with_reducible intro _)
    | dsimp only
    | dsimp +zetaDelta only

theorem execCommit_canonical (number : Nat) {s : State} (hs : State.canonical s) :
    Leads State.canonical (execCommit number s) := by
  unfold execCommit
  repeat' first
    | with_reducible assumption
    | with_reducible apply Leads.next
    | with_reducible exact Leads.fault _
    | with_reducible apply OptLeads.some
    | with_reducible exact OptLeads.none
    | with_reducible apply OptLeads.map
    | with_reducible apply ackCommits_canonical
    | with_reducible apply receive_canonical
    | with_reducible refine Leads.elim (receive_canonical _ ?_ ?_) (by with_reducible assumption)
    | extract_lets
    | (simp only [↓State.canonical_mk]; with_reducible apply Good.of)
    | split
    | (with_reducible intro _)
    | dsimp only
    | dsimp +zetaDelta only

theorem execCommitAck_canonical (number : Nat) {s : State} (hs : State.canonical s) :
    Leads State.canonical (execCommitAck number s) := by
  unfold execCommitAck
  repeat' first
    | with_reducible assumption
    | with_reducible apply Leads.next
    | with_reducible exact Leads.fault _
    | with_reducible apply OptLeads.some
    | with_reducible exact OptLeads.none
    | with_reducible apply OptLeads.map
    | with_reducible apply receive_canonical
    | with_reducible refine Leads.elim (receive_canonical _ ?_ ?_) (by with_reducible assumption)
    | with_reducible apply after_canonical
    | with_reducible apply acknowledge_canonical
    | with_reducible apply forEach_canonical
    | with_reducible apply forEach_canonical
    | extract_lets
    | (simp only [↓State.canonical_mk]; with_reducible apply Good.of)
    | split
    | (with_reducible intro _)
    | dsimp only
    | dsimp +zetaDelta only

theorem takeEntry_canonical (index : Nat) (entry : List Nat) {s : State} (hs : State.canonical s) :
    State.canonical (takeEntry index entry s) := by
  unfold takeEntry
  repeat' first
    | with_reducible assumption
    | with_reducible apply Leads.next
    | with_reducible exact Leads.fault _
    | with_reducible apply OptLeads.some
    | with_reducible exact OptLeads.none
    | with_reducible apply OptLeads.map
    | with_reducible apply readEntry_canonical
    | with_reducible apply writeBytes_canonical
    | extract_lets
    | (simp only [↓State.canonical_mk]; with_reducible apply Good.of)
    | split
    | (with_reducible intro _)
    | dsimp only
    | dsimp +zetaDelta only

theorem execIntent_canonical (index : Nat) (entry : List Nat) {s : State} (hs : State.canonical s) :
    Leads State.canonical (execIntent index entry s) := by
  unfold execIntent
  repeat' first
    | with_reducible assumption
    | with_reducible apply Leads.next
    | with_reducible exact Leads.fault _
    | with_reducible apply OptLeads.some
    | with_reducible exact OptLeads.none
    | with_reducible apply OptLeads.map
    | with_reducible apply takeEntry_canonical
    | with_reducible apply receive_canonical
    | with_reducible refine Leads.elim (receive_canonical _ ?_ ?_) (by with_reducible assumption)
    | with_reducible apply sendMir_canonical
    | extract_lets
    | (simp only [↓State.canonical_mk]; with_reducible apply Good.of)
    | split
    | (with_reducible intro _)
    | dsimp only
    | dsimp +zetaDelta only

theorem execIntentAck_canonical (index : Nat) {s : State} (hs : State.canonical s) :
    Leads State.canonical (execIntentAck index s) := by
  unfold execIntentAck
  repeat' first
    | with_reducible assumption
    | with_reducible apply Leads.next
    | with_reducible exact Leads.fault _
    | with_reducible apply OptLeads.some
    | with_reducible exact OptLeads.none
    | with_reducible apply OptLeads.map
    | with_reducible apply receive_canonical
    | with_reducible refine Leads.elim (receive_canonical _ ?_ ?_) (by with_reducible assumption)
    | with_reducible apply after_canonical
    | with_reducible apply issueJob_canonical
    | extract_lets
    | (simp only [↓State.canonical_mk]; with_reducible apply Good.of)
    | split
    | (with_reducible intro _)
    | dsimp only
    | dsimp +zetaDelta only

theorem execCeiling_canonical (mib : Nat) (healthy : Bool) {s : State} (hs : State.canonical s) :
    Leads State.canonical (execCeiling mib healthy s) := by
  unfold execCeiling
  repeat' first
    | with_reducible assumption
    | with_reducible apply Leads.next
    | with_reducible exact Leads.fault _
    | with_reducible apply OptLeads.some
    | with_reducible exact OptLeads.none
    | with_reducible apply OptLeads.map
    | with_reducible apply receive_canonical
    | with_reducible refine Leads.elim (receive_canonical _ ?_ ?_) (by with_reducible assumption)
    | with_reducible apply updateCeiling_canonical
    | extract_lets
    | (simp only [↓State.canonical_mk]; with_reducible apply Good.of)
    | split
    | (with_reducible intro _)
    | dsimp only
    | dsimp +zetaDelta only

theorem followSlot_canonical (n : Nat) (en12 en5 spin aw : Bool) {s : State} (hs : State.canonical s) :
    State.canonical (followSlot n en12 en5 spin aw s) := by
  unfold followSlot
  repeat' first
    | with_reducible assumption
    | with_reducible apply Leads.next
    | with_reducible exact Leads.fault _
    | with_reducible apply OptLeads.some
    | with_reducible exact OptLeads.none
    | with_reducible apply OptLeads.map
    | with_reducible apply setF_canonical
    | with_reducible apply setF_canonical
    | extract_lets
    | (simp only [↓State.canonical_mk]; with_reducible apply Good.of)
    | split
    | (with_reducible intro _)
    | dsimp only
    | dsimp +zetaDelta only

theorem execSlotState_canonical (en12 en5 spin awake : Nat) {s : State} (hs : State.canonical s) :
    Leads State.canonical (execSlotState en12 en5 spin awake s) := by
  unfold execSlotState
  repeat' first
    | with_reducible assumption
    | with_reducible apply Leads.next
    | with_reducible exact Leads.fault _
    | with_reducible apply OptLeads.some
    | with_reducible exact OptLeads.none
    | with_reducible apply OptLeads.map
    | with_reducible apply followSlot_canonical
    | with_reducible apply receive_canonical
    | with_reducible refine Leads.elim (receive_canonical _ ?_ ?_) (by with_reducible assumption)
    | with_reducible apply sendMir_canonical
    | with_reducible apply forEach_canonical
    | with_reducible apply forEach_canonical
    | extract_lets
    | (simp only [↓State.canonical_mk]; with_reducible apply Good.of)
    | split
    | (with_reducible intro _)
    | dsimp only
    | dsimp +zetaDelta only

theorem execSlotStateSend_canonical {s : State} (hs : State.canonical s) :
    Leads State.canonical (execSlotStateSend s) := by
  unfold execSlotStateSend
  repeat' first
    | with_reducible assumption
    | with_reducible apply Leads.next
    | with_reducible exact Leads.fault _
    | with_reducible apply OptLeads.some
    | with_reducible exact OptLeads.none
    | with_reducible apply OptLeads.map
    | with_reducible apply sendSlotState_canonical
    | extract_lets
    | (simp only [↓State.canonical_mk]; with_reducible apply Good.of)
    | split
    | (with_reducible intro _)
    | dsimp only
    | dsimp +zetaDelta only

theorem execSlotAck_canonical (on : Nat) {s : State} (hs : State.canonical s) :
    Leads State.canonical (execSlotAck on s) := by
  unfold execSlotAck
  repeat' first
    | with_reducible assumption
    | with_reducible apply Leads.next
    | with_reducible exact Leads.fault _
    | with_reducible apply OptLeads.some
    | with_reducible exact OptLeads.none
    | with_reducible apply OptLeads.map
    | with_reducible apply receive_canonical
    | with_reducible refine Leads.elim (receive_canonical _ ?_ ?_) (by with_reducible assumption)
    | with_reducible apply openRails_canonical
    | with_reducible apply dropAwake_canonical
    | with_reducible apply forEach_canonical
    | with_reducible apply when_canonical
    | with_reducible apply setF_canonical
    | with_reducible apply setF_canonical
    | with_reducible apply forEach_canonical
    | with_reducible apply when_canonical
    | extract_lets
    | (simp only [↓State.canonical_mk]; with_reducible apply Good.of)
    | split
    | (with_reducible intro _)
    | dsimp only
    | dsimp +zetaDelta only

theorem execFanState_canonical (chans : List (Nat × Nat)) {s : State} (hs : State.canonical s) :
    Leads State.canonical (execFanState chans s) := by
  unfold execFanState
  repeat' first
    | with_reducible assumption
    | with_reducible apply Leads.next
    | with_reducible exact Leads.fault _
    | with_reducible apply OptLeads.some
    | with_reducible exact OptLeads.none
    | with_reducible apply OptLeads.map
    | with_reducible apply receive_canonical
    | with_reducible refine Leads.elim (receive_canonical _ ?_ ?_) (by with_reducible assumption)
    | with_reducible apply storeFanState_canonical
    | with_reducible apply forEach_canonical
    | with_reducible apply forEach_canonical
    | extract_lets
    | (simp only [↓State.canonical_mk]; with_reducible apply Good.of)
    | split
    | (with_reducible intro _)
    | dsimp only
    | dsimp +zetaDelta only

theorem execFanStateSend_canonical {s : State} (hs : State.canonical s) :
    Leads State.canonical (execFanStateSend s) := by
  unfold execFanStateSend
  repeat' first
    | with_reducible assumption
    | with_reducible apply Leads.next
    | with_reducible exact Leads.fault _
    | with_reducible apply OptLeads.some
    | with_reducible exact OptLeads.none
    | with_reducible apply OptLeads.map
    | with_reducible apply sendMir_canonical
    | extract_lets
    | (simp only [↓State.canonical_mk]; with_reducible apply Good.of)
    | split
    | (with_reducible intro _)
    | dsimp only
    | dsimp +zetaDelta only

theorem checkStraps_canonical (compat shelf : Nat) {s : State} (hs : State.canonical s) :
    State.canonical (checkStraps compat shelf s) := by
  unfold checkStraps
  repeat' first
    | with_reducible assumption
    | with_reducible apply Leads.next
    | with_reducible exact Leads.fault _
    | with_reducible apply OptLeads.some
    | with_reducible exact OptLeads.none
    | with_reducible apply OptLeads.map
    | with_reducible apply enterService_canonical
    | with_reducible apply logPlain_canonical
    | with_reducible apply event_canonical
    | extract_lets
    | (simp only [↓State.canonical_mk]; with_reducible apply Good.of)
    | split
    | (with_reducible intro _)
    | dsimp only
    | dsimp +zetaDelta only

theorem takeConfig_canonical (what : List Nat) {s : State} (hs : State.canonical s) :
    State.canonical (takeConfig what s) := by
  unfold takeConfig
  repeat' first
    | with_reducible assumption
    | with_reducible apply Leads.next
    | with_reducible exact Leads.fault _
    | with_reducible apply OptLeads.some
    | with_reducible exact OptLeads.none
    | with_reducible apply OptLeads.map
    | with_reducible apply checkStraps_canonical
    | with_reducible apply applyFeature_canonical
    | with_reducible apply startEval_canonical
    | with_reducible apply onVolMeta_canonical
    | with_reducible apply onCare_canonical
    | with_reducible apply forEach_canonical
    | with_reducible apply when_canonical
    | with_reducible apply set64_canonical
    | with_reducible apply setF_canonical
    | with_reducible apply setF_canonical
    | with_reducible apply forEach_canonical
    | with_reducible apply when_canonical
    | extract_lets
    | (simp only [↓State.canonical_mk]; with_reducible apply Good.of)
    | split
    | (with_reducible intro _)
    | dsimp only
    | dsimp +zetaDelta only

theorem execConfig_canonical (what : List Nat) {s : State} (hs : State.canonical s) :
    Leads State.canonical (execConfig what s) := by
  unfold execConfig
  repeat' first
    | with_reducible assumption
    | with_reducible apply Leads.next
    | with_reducible exact Leads.fault _
    | with_reducible apply OptLeads.some
    | with_reducible exact OptLeads.none
    | with_reducible apply OptLeads.map
    | with_reducible apply takeConfig_canonical
    | with_reducible apply receive_canonical
    | with_reducible refine Leads.elim (receive_canonical _ ?_ ?_) (by with_reducible assumption)
    | extract_lets
    | (simp only [↓State.canonical_mk]; with_reducible apply Good.of)
    | split
    | (with_reducible intro _)
    | dsimp only
    | dsimp +zetaDelta only

theorem execRelinquishMessage_canonical (reason : Fin 16) {s : State} (hs : State.canonical s) :
    Leads State.canonical (execRelinquishMessage reason s) := by
  unfold execRelinquishMessage
  repeat' first
    | with_reducible assumption
    | with_reducible apply Leads.next
    | with_reducible exact Leads.fault _
    | with_reducible apply OptLeads.some
    | with_reducible exact OptLeads.none
    | with_reducible apply OptLeads.map
    | with_reducible apply receive_canonical
    | with_reducible refine Leads.elim (receive_canonical _ ?_ ?_) (by with_reducible assumption)
    | with_reducible apply hearRelinquish_canonical
    | extract_lets
    | (simp only [↓State.canonical_mk]; with_reducible apply Good.of)
    | split
    | (with_reducible intro _)
    | dsimp only
    | dsimp +zetaDelta only

theorem execResync_canonical (lines : List (Nat × (Block × Nat))) (entries : List (Nat × List Nat)) {s : State} (hs : State.canonical s) :
    Leads State.canonical (execResync lines entries s) := by
  unfold execResync
  repeat' first
    | with_reducible assumption
    | with_reducible apply Leads.next
    | with_reducible exact Leads.fault _
    | with_reducible apply OptLeads.some
    | with_reducible exact OptLeads.none
    | with_reducible apply OptLeads.map
    | with_reducible apply takeEntry_canonical
    | with_reducible apply ackCommits_canonical
    | with_reducible apply landLine_canonical
    | with_reducible apply receive_canonical
    | with_reducible refine Leads.elim (receive_canonical _ ?_ ?_) (by with_reducible assumption)
    | with_reducible apply discardCopy_canonical
    | with_reducible apply forEach_canonical
    | with_reducible apply forEach_canonical
    | extract_lets
    | (simp only [↓State.canonical_mk]; with_reducible apply Good.of)
    | split
    | (with_reducible intro _)
    | dsimp only
    | dsimp +zetaDelta only

theorem testPreferred_canonical {s : State} (hs : State.canonical s) :
    State.canonical (testPreferred s) := by
  unfold testPreferred
  repeat' first
    | with_reducible assumption
    | with_reducible apply Leads.next
    | with_reducible exact Leads.fault _
    | with_reducible apply OptLeads.some
    | with_reducible exact OptLeads.none
    | with_reducible apply OptLeads.map
    | with_reducible apply beginTest_canonical
    | extract_lets
    | (simp only [↓State.canonical_mk]; with_reducible apply Good.of)
    | split
    | (with_reducible intro _)
    | dsimp only
    | dsimp +zetaDelta only

theorem execResyncComplete_canonical {s : State} (hs : State.canonical s) :
    Leads State.canonical (execResyncComplete s) := by
  unfold execResyncComplete
  repeat' first
    | with_reducible assumption
    | with_reducible apply Leads.next
    | with_reducible exact Leads.fault _
    | with_reducible apply OptLeads.some
    | with_reducible exact OptLeads.none
    | with_reducible apply OptLeads.map
    | with_reducible apply testPreferred_canonical
    | with_reducible apply leaveHold_canonical
    | with_reducible apply settle_canonical
    | with_reducible apply setF_canonical
    | with_reducible apply setF_canonical
    | extract_lets
    | (simp only [↓State.canonical_mk]; with_reducible apply Good.of)
    | split
    | (with_reducible intro _)
    | dsimp only
    | dsimp +zetaDelta only

theorem execBlockNak_canonical (key : Nat) {s : State} (hs : State.canonical s) :
    Leads State.canonical (execBlockNak key s) := by
  unfold execBlockNak
  repeat' first
    | with_reducible assumption
    | with_reducible apply Leads.next
    | with_reducible exact Leads.fault _
    | with_reducible apply OptLeads.some
    | with_reducible exact OptLeads.none
    | with_reducible apply OptLeads.map
    | with_reducible apply receive_canonical
    | with_reducible refine Leads.elim (receive_canonical _ ?_ ?_) (by with_reducible assumption)
    | with_reducible apply partnerGone_canonical
    | with_reducible apply settleBlock_canonical
    | with_reducible apply after_canonical
    | with_reducible apply sendMir_canonical
    | with_reducible apply when_canonical
    | with_reducible apply bump_canonical
    | with_reducible apply setF_canonical
    | with_reducible apply setF_canonical
    | with_reducible apply when_canonical
    | extract_lets
    | (simp only [↓State.canonical_mk]; with_reducible apply Good.of)
    | split
    | (with_reducible intro _)
    | dsimp only
    | dsimp +zetaDelta only

end Sys2Proof.Machine
end

