-- ==== Sys2Proof/Laws/CanonFab.lean ====
section
/-! SUPPORT. The canonical form is kept by the operations of Machine/Fab.lean. -/

set_option linter.all false

namespace Sys2Proof.Machine

theorem writeRoot_canonical {s : State} (hs : State.canonical s) :
    State.canonical (writeRoot s) := by
  unfold writeRoot
  repeat' first
    | with_reducible assumption
    | with_reducible apply Leads.next
    | with_reducible exact Leads.fault _
    | with_reducible apply OptLeads.some
    | with_reducible exact OptLeads.none
    | with_reducible apply OptLeads.map
    | with_reducible apply setF_canonical
    | with_reducible apply setF_canonical
    | extract_lets
    | (simp only [↓State.canonical_mk]; with_reducible apply Good.of)
    | split
    | (with_reducible intro _)
    | dsimp only
    | dsimp +zetaDelta only

theorem tokenReport_canonical {s : State} (hs : State.canonical s) :
    State.canonical (tokenReport s) := by
  unfold tokenReport
  repeat' first
    | with_reducible assumption
    | with_reducible apply Leads.next
    | with_reducible exact Leads.fault _
    | with_reducible apply OptLeads.some
    | with_reducible exact OptLeads.none
    | with_reducible apply OptLeads.map
    | with_reducible apply askBellwether_canonical
    | with_reducible apply useFree_canonical
    | extract_lets
    | (simp only [↓State.canonical_mk]; with_reducible apply Good.of)
    | split
    | (with_reducible intro _)
    | dsimp only
    | dsimp +zetaDelta only

theorem electBellwether_canonical {s : State} (hs : State.canonical s) :
    State.canonical (electBellwether s) := by
  unfold electBellwether
  repeat' first
    | with_reducible assumption
    | with_reducible apply Leads.next
    | with_reducible exact Leads.fault _
    | with_reducible apply OptLeads.some
    | with_reducible exact OptLeads.none
    | with_reducible apply OptLeads.map
    | with_reducible apply tokenReport_canonical
    | with_reducible apply askTokens_canonical
    | with_reducible apply hostEvent_canonical
    | extract_lets
    | (simp only [↓State.canonical_mk]; with_reducible apply Good.of)
    | split
    | (with_reducible intro _)
    | dsimp only
    | dsimp +zetaDelta only

theorem noteTable_canonical (a uid : Nat) {s : State} (hs : State.canonical s) :
    State.canonical (noteTable a uid s) := by
  unfold noteTable
  repeat' first
    | with_reducible assumption
    | with_reducible apply Leads.next
    | with_reducible exact Leads.fault _
    | with_reducible apply OptLeads.some
    | with_reducible exact OptLeads.none
    | with_reducible apply OptLeads.map
    | extract_lets
    | (simp only [↓State.canonical_mk]; with_reducible apply Good.of)
    | split
    | (with_reducible intro _)
    | dsimp only
    | dsimp +zetaDelta only

theorem takeAddr_canonical (a : Nat) {s : State} (hs : State.canonical s) :
    State.canonical (takeAddr a s) := by
  unfold takeAddr
  repeat' first
    | with_reducible assumption
    | with_reducible apply Leads.next
    | with_reducible exact Leads.fault _
    | with_reducible apply OptLeads.some
    | with_reducible exact OptLeads.none
    | with_reducible apply OptLeads.map
    | with_reducible apply electBellwether_canonical
    | with_reducible apply floodLsa_canonical
    | with_reducible apply hostEvent_canonical
    | with_reducible apply setF_canonical
    | with_reducible apply setF_canonical
    | extract_lets
    | (simp only [↓State.canonical_mk]; with_reducible apply Good.of)
    | split
    | (with_reducible intro _)
    | dsimp only
    | dsimp +zetaDelta only

theorem needAddr_canonical {s : State} (hs : State.canonical s) :
    State.canonical (needAddr s) := by
  unfold needAddr
  repeat' first
    | with_reducible assumption
    | with_reducible apply Leads.next
    | with_reducible exact Leads.fault _
    | with_reducible apply OptLeads.some
    | with_reducible exact OptLeads.none
    | with_reducible apply OptLeads.map
    | with_reducible apply takeAddr_canonical
    | with_reducible apply noteTable_canonical
    | with_reducible apply sendLocal_canonical
    | extract_lets
    | (simp only [↓State.canonical_mk]; with_reducible apply Good.of)
    | split
    | (with_reducible intro _)
    | dsimp only
    | dsimp +zetaDelta only

theorem fabRefresh_canonical {s : State} (hs : State.canonical s) :
    State.canonical (fabRefresh s) := by
  unfold fabRefresh
  repeat' first
    | with_reducible assumption
    | with_reducible apply Leads.next
    | with_reducible exact Leads.fault _
    | with_reducible apply OptLeads.some
    | with_reducible exact OptLeads.none
    | with_reducible apply OptLeads.map
    | with_reducible apply needAddr_canonical
    | with_reducible apply electBellwether_canonical
    | with_reducible apply writeRoot_canonical
    | with_reducible apply shipDeltas_canonical
    | with_reducible apply writeRoutes_canonical
    | extract_lets
    | (simp only [↓State.canonical_mk]; with_reducible apply Good.of)
    | split
    | (with_reducible intro _)
    | dsimp only
    | dsimp +zetaDelta only

theorem noteAddr_canonical (uid a : Nat) {s : State} (hs : State.canonical s) :
    State.canonical (noteAddr uid a s) := by
  unfold noteAddr
  repeat' first
    | with_reducible assumption
    | with_reducible apply Leads.next
    | with_reducible exact Leads.fault _
    | with_reducible apply OptLeads.some
    | with_reducible exact OptLeads.none
    | with_reducible apply OptLeads.map
    | with_reducible apply noteTable_canonical
    | with_reducible apply floodFrame_canonical
    | extract_lets
    | (simp only [↓State.canonical_mk]; with_reducible apply Good.of)
    | split
    | (with_reducible intro _)
    | dsimp only
    | dsimp +zetaDelta only

theorem rxDeliver_canonical (port : Nat) (f : Frame) (k : State → State) {s : State} (hk : ∀ (x0 : State), State.canonical x0 → State.canonical (k x0)) (hs : State.canonical s) :
    State.canonical (rxDeliver port f k s) := by
  unfold rxDeliver
  repeat' first
    | with_reducible assumption
    | with_reducible apply Leads.next
    | with_reducible exact Leads.fault _
    | with_reducible apply OptLeads.some
    | with_reducible exact OptLeads.none
    | with_reducible apply OptLeads.map
    | with_reducible apply hk
    | with_reducible apply dropFrame_canonical
    | with_reducible apply writeBytes_canonical
    | with_reducible apply when_canonical
    | with_reducible apply event_canonical
    | with_reducible apply setF_canonical
    | with_reducible apply setF_canonical
    | with_reducible apply when_canonical
    | extract_lets
    | (simp only [↓State.canonical_mk]; with_reducible apply Good.of)
    | split
    | (with_reducible intro _)
    | dsimp only
    | dsimp +zetaDelta only

theorem ackUpTo_canonical (p ack : Nat) {s : State} (hs : State.canonical s) :
    State.canonical (ackUpTo p ack s) := by
  unfold ackUpTo
  repeat' first
    | with_reducible assumption
    | with_reducible apply Leads.next
    | with_reducible exact Leads.fault _
    | with_reducible apply OptLeads.some
    | with_reducible exact OptLeads.none
    | with_reducible apply OptLeads.map
    | with_reducible apply pumpPort_canonical
    | with_reducible apply onPort_canonical
    | extract_lets
    | (simp only [↓State.canonical_mk]; with_reducible apply Good.of)
    | split
    | (with_reducible intro _)
    | dsimp only
    | dsimp +zetaDelta only

theorem ackIn_canonical (p : Nat) {s : State} (hs : State.canonical s) :
    State.canonical (ackIn p s) := by
  unfold ackIn
  repeat' first
    | with_reducible assumption
    | with_reducible apply Leads.next
    | with_reducible exact Leads.fault _
    | with_reducible apply OptLeads.some
    | with_reducible exact OptLeads.none
    | with_reducible apply OptLeads.map
    | with_reducible apply sendLocal_canonical
    | with_reducible apply onPort_canonical
    | extract_lets
    | (simp only [↓State.canonical_mk]; with_reducible apply Good.of)
    | split
    | (with_reducible intro _)
    | dsimp only
    | dsimp +zetaDelta only

theorem arrive_canonical (p : Option (Fin 4)) (f : Frame) (k : State → State) {s : State} (hk : ∀ (x0 : State), State.canonical x0 → State.canonical (k x0)) (hs : State.canonical s) :
    Leads State.canonical (arrive p f k s) := by
  unfold arrive
  repeat' first
    | with_reducible assumption
    | with_reducible apply Leads.next
    | with_reducible exact Leads.fault _
    | with_reducible apply OptLeads.some
    | with_reducible exact OptLeads.none
    | with_reducible apply OptLeads.map
    | with_reducible apply hk
    | with_reducible apply ackIn_canonical
    | with_reducible apply rxDeliver_canonical
    | with_reducible apply after_canonical
    | with_reducible apply bump_canonical
    | extract_lets
    | (simp only [↓State.canonical_mk]; with_reducible apply Good.of)
    | split
    | (with_reducible intro _)
    | dsimp only
    | dsimp +zetaDelta only

theorem execFabricLinkUp_canonical (p : Fin 4) (lanes : Nat) (passive : Bool) (cable : Nat) {s : State} (hs : State.canonical s) :
    Leads State.canonical (execFabricLinkUp p lanes passive cable s) := by
  unfold execFabricLinkUp
  repeat' first
    | with_reducible assumption
    | with_reducible apply Leads.next
    | with_reducible exact Leads.fault _
    | with_reducible apply OptLeads.some
    | with_reducible exact OptLeads.none
    | with_reducible apply OptLeads.map
    | with_reducible apply fabRefresh_canonical
    | with_reducible apply after_canonical
    | with_reducible apply floodLsa_canonical
    | with_reducible apply onPort_canonical
    | with_reducible apply logPlain_canonical
    | with_reducible apply useFree_canonical
    | with_reducible apply setF_canonical
    | with_reducible apply setF_canonical
    | extract_lets
    | (simp only [↓State.canonical_mk]; with_reducible apply Good.of)
    | split
    | (with_reducible intro _)
    | dsimp only
    | dsimp +zetaDelta only

theorem portDown_canonical (p : Nat) {s : State} (hs : State.canonical s) :
    State.canonical (portDown p s) := by
  unfold portDown
  repeat' first
    | with_reducible assumption
    | with_reducible apply Leads.next
    | with_reducible exact Leads.fault _
    | with_reducible apply OptLeads.some
    | with_reducible exact OptLeads.none
    | with_reducible apply OptLeads.map
    | with_reducible apply fabRefresh_canonical
    | with_reducible apply floodLsa_canonical
    | with_reducible apply routeFrame_canonical
    | with_reducible apply onPort_canonical
    | with_reducible apply forEach_canonical
    | with_reducible apply event_canonical
    | with_reducible apply setF_canonical
    | with_reducible apply setF_canonical
    | with_reducible apply forEach_canonical
    | extract_lets
    | (simp only [↓State.canonical_mk]; with_reducible apply Good.of)
    | split
    | (with_reducible intro _)
    | dsimp only
    | dsimp +zetaDelta only

theorem execFabricLinkDown_canonical (p : Fin 4) {s : State} (hs : State.canonical s) :
    Leads State.canonical (execFabricLinkDown p s) := by
  unfold execFabricLinkDown
  repeat' first
    | with_reducible assumption
    | with_reducible apply Leads.next
    | with_reducible exact Leads.fault _
    | with_reducible apply OptLeads.some
    | with_reducible exact OptLeads.none
    | with_reducible apply OptLeads.map
    | with_reducible apply portDown_canonical
    | with_reducible apply settle_canonical
    | extract_lets
    | (simp only [↓State.canonical_mk]; with_reducible apply Good.of)
    | split
    | (with_reducible intro _)
    | dsimp only
    | dsimp +zetaDelta only

theorem execFabricBleatTimeout_canonical (p : Fin 4) {s : State} (hs : State.canonical s) :
    Leads State.canonical (execFabricBleatTimeout p s) := by
  unfold execFabricBleatTimeout
  repeat' first
    | with_reducible assumption
    | with_reducible apply Leads.next
    | with_reducible exact Leads.fault _
    | with_reducible apply OptLeads.some
    | with_reducible exact OptLeads.none
    | with_reducible apply OptLeads.map
    | with_reducible apply portDown_canonical
    | with_reducible apply settle_canonical
    | extract_lets
    | (simp only [↓State.canonical_mk]; with_reducible apply Good.of)
    | split
    | (with_reducible intro _)
    | dsimp only
    | dsimp +zetaDelta only

theorem execParkedListen_canonical (p : Fin 4) {s : State} (hs : State.canonical s) :
    Leads State.canonical (execParkedListen p s) := by
  unfold execParkedListen
  repeat' first
    | with_reducible assumption
    | with_reducible apply Leads.next
    | with_reducible exact Leads.fault _
    | with_reducible apply OptLeads.some
    | with_reducible exact OptLeads.none
    | with_reducible apply OptLeads.map
    | with_reducible apply onPort_canonical
    | extract_lets
    | (simp only [↓State.canonical_mk]; with_reducible apply Good.of)
    | split
    | (with_reducible intro _)
    | dsimp only
    | dsimp +zetaDelta only

theorem writeTemplate_canonical {s : State} (hs : State.canonical s) :
    State.canonical (writeTemplate s) := by
  unfold writeTemplate
  repeat' first
    | with_reducible assumption
    | with_reducible apply Leads.next
    | with_reducible exact Leads.fault _
    | with_reducible apply OptLeads.some
    | with_reducible exact OptLeads.none
    | with_reducible apply OptLeads.map
    | with_reducible apply forEach_canonical
    | with_reducible apply setF_canonical
    | with_reducible apply setF_canonical
    | with_reducible apply forEach_canonical
    | extract_lets
    | (simp only [↓State.canonical_mk]; with_reducible apply Good.of)
    | split
    | (with_reducible intro _)
    | dsimp only
    | dsimp +zetaDelta only

theorem execBleatSend_canonical {s : State} (hs : State.canonical s) :
    Leads State.canonical (execBleatSend s) := by
  unfold execBleatSend
  repeat' first
    | with_reducible assumption
    | with_reducible apply Leads.next
    | with_reducible exact Leads.fault _
    | with_reducible apply OptLeads.some
    | with_reducible exact OptLeads.none
    | with_reducible apply OptLeads.map
    | with_reducible apply writeTemplate_canonical
    | with_reducible apply sendLocal_canonical
    | with_reducible apply forEach_canonical
    | with_reducible apply forEach_canonical
    | extract_lets
    | (simp only [↓State.canonical_mk]; with_reducible apply Good.of)
    | split
    | (with_reducible intro _)
    | dsimp only
    | dsimp +zetaDelta only

theorem heardBleat_canonical (p : Nat) (b : Bleat) {s : State} (hs : State.canonical s) :
    State.canonical (heardBleat p b s) := by
  unfold heardBleat
  repeat' first
    | with_reducible assumption
    | with_reducible apply Leads.next
    | with_reducible exact Leads.fault _
    | with_reducible apply OptLeads.some
    | with_reducible exact OptLeads.none
    | with_reducible apply OptLeads.map
    | with_reducible apply noteAddr_canonical
    | with_reducible apply fabRefresh_canonical
    | with_reducible apply onNode_canonical
    | with_reducible apply putOut_canonical
    | extract_lets
    | (simp only [↓State.canonical_mk]; with_reducible apply Good.of)
    | split
    | (with_reducible intro _)
    | dsimp only
    | dsimp +zetaDelta only

theorem execBleat_canonical (p : Fin 4) (good : Bool) (b : Bleat) {s : State} (hs : State.canonical s) :
    Leads State.canonical (execBleat p good b s) := by
  unfold execBleat
  repeat' first
    | with_reducible assumption
    | with_reducible apply Leads.next
    | with_reducible exact Leads.fault _
    | with_reducible apply OptLeads.some
    | with_reducible exact OptLeads.none
    | with_reducible apply OptLeads.map
    | with_reducible apply heardBleat_canonical
    | with_reducible apply rxDeliver_canonical
    | with_reducible apply after_canonical
    | with_reducible apply floodLsa_canonical
    | with_reducible apply onPort_canonical
    | with_reducible apply when_canonical
    | with_reducible apply set64_canonical
    | with_reducible apply event_canonical
    | with_reducible apply bump_canonical
    | with_reducible apply setF_canonical
    | with_reducible apply setF_canonical
    | with_reducible apply when_canonical
    | extract_lets
    | (simp only [↓State.canonical_mk]; with_reducible apply Good.of)
    | split
    | (with_reducible intro _)
    | dsimp only
    | dsimp +zetaDelta only

theorem replayPort_canonical (p : Nat) {s : State} (hs : State.canonical s) :
    State.canonical (replayPort p s) := by
  unfold replayPort
  repeat' first
    | with_reducible assumption
    | with_reducible apply Leads.next
    | with_reducible exact Leads.fault _
    | with_reducible apply OptLeads.some
    | with_reducible exact OptLeads.none
    | with_reducible apply OptLeads.map
    | with_reducible apply portDown_canonical
    | with_reducible apply sendOut_canonical
    | with_reducible apply onPort_canonical
    | with_reducible apply forEach_canonical
    | with_reducible apply bump_canonical
    | with_reducible apply forEach_canonical
    | extract_lets
    | (simp only [↓State.canonical_mk]; with_reducible apply Good.of)
    | split
    | (with_reducible intro _)
    | dsimp only
    | dsimp +zetaDelta only

theorem execLinkCtl_canonical (p : Fin 4) (ack : Nat) (nak : Option Nat) {s : State} (hs : State.canonical s) :
    Leads State.canonical (execLinkCtl p ack nak s) := by
  unfold execLinkCtl
  repeat' first
    | with_reducible assumption
    | with_reducible apply Leads.next
    | with_reducible exact Leads.fault _
    | with_reducible apply OptLeads.some
    | with_reducible exact OptLeads.none
    | with_reducible apply OptLeads.map
    | with_reducible apply replayPort_canonical
    | with_reducible apply ackUpTo_canonical
    | with_reducible apply settle_canonical
    | with_reducible apply bump_canonical
    | extract_lets
    | (simp only [↓State.canonical_mk]; with_reducible apply Good.of)
    | split
    | (with_reducible intro _)
    | dsimp only
    | dsimp +zetaDelta only

theorem execLinkReplay_canonical (p : Fin 4) {s : State} (hs : State.canonical s) :
    Leads State.canonical (execLinkReplay p s) := by
  unfold execLinkReplay
  repeat' first
    | with_reducible assumption
    | with_reducible apply Leads.next
    | with_reducible exact Leads.fault _
    | with_reducible apply OptLeads.some
    | with_reducible exact OptLeads.none
    | with_reducible apply OptLeads.map
    | with_reducible apply replayPort_canonical
    | with_reducible apply settle_canonical
    | extract_lets
    | (simp only [↓State.canonical_mk]; with_reducible apply Good.of)
    | split
    | (with_reducible intro _)
    | dsimp only
    | dsimp +zetaDelta only

theorem sendNak_canonical (p : Nat) {s : State} (hs : State.canonical s) :
    State.canonical (sendNak p s) := by
  unfold sendNak
  repeat' first
    | with_reducible assumption
    | with_reducible apply Leads.next
    | with_reducible exact Leads.fault _
    | with_reducible apply OptLeads.some
    | with_reducible exact OptLeads.none
    | with_reducible apply OptLeads.map
    | with_reducible apply sendLocal_canonical
    | with_reducible apply onPort_canonical
    | extract_lets
    | (simp only [↓State.canonical_mk]; with_reducible apply Good.of)
    | split
    | (with_reducible intro _)
    | dsimp only
    | dsimp +zetaDelta only

theorem forwardFrame_canonical (p : Nat) (f : Frame) {s : State} (hs : State.canonical s) :
    State.canonical (forwardFrame p f s) := by
  unfold forwardFrame
  repeat' first
    | with_reducible assumption
    | with_reducible apply Leads.next
    | with_reducible exact Leads.fault _
    | with_reducible apply OptLeads.some
    | with_reducible exact OptLeads.none
    | with_reducible apply OptLeads.map
    | with_reducible apply rxDeliver_canonical
    | with_reducible apply routeFrame_canonical
    | with_reducible apply putOut_canonical
    | with_reducible apply dropFrame_canonical
    | with_reducible apply forEach_canonical
    | with_reducible apply when_canonical
    | with_reducible apply bump_canonical
    | with_reducible apply forEach_canonical
    | with_reducible apply when_canonical
    | with_reducible apply id_canonical
    | extract_lets
    | (simp only [↓State.canonical_mk]; with_reducible apply Good.of)
    | split
    | (with_reducible intro _)
    | dsimp only
    | dsimp +zetaDelta only

theorem execFrameForward_canonical (p : Fin 4) (good : Bool) (f : Frame) {s : State} (hs : State.canonical s) :
    Leads State.canonical (execFrameForward p good f s) := by
  unfold execFrameForward
  repeat' first
    | with_reducible assumption
    | with_reducible apply Leads.next
    | with_reducible exact Leads.fault _
    | with_reducible apply OptLeads.some
    | with_reducible exact OptLeads.none
    | with_reducible apply OptLeads.map
    | with_reducible apply forwardFrame_canonical
    | with_reducible apply sendNak_canonical
    | with_reducible apply ackIn_canonical
    | with_reducible apply ackUpTo_canonical
    | with_reducible apply sendLocal_canonical
    | with_reducible apply bump_canonical
    | extract_lets
    | (simp only [↓State.canonical_mk]; with_reducible apply Good.of)
    | split
    | (with_reducible intro _)
    | dsimp only
    | dsimp +zetaDelta only

theorem sendRing_canonical (n : Nat) {s : State} (hs : State.canonical s) :
    State.canonical (sendRing n s) := by
  induction n generalizing s with
  | zero =>
    unfold sendRing
    repeat' first
      | with_reducible assumption
      | with_reducible apply Leads.next
      | with_reducible exact Leads.fault _
      | with_reducible apply OptLeads.some
      | with_reducible exact OptLeads.none
      | with_reducible apply OptLeads.map
      | with_reducible apply routeFrame_canonical
      | with_reducible apply putOut_canonical
      | with_reducible apply emit_canonical
      | with_reducible apply forEach_canonical
      | with_reducible apply setF_canonical
      | with_reducible apply setF_canonical
      | with_reducible apply forEach_canonical
      | extract_lets
      | (simp only [↓State.canonical_mk]; with_reducible apply Good.of)
      | split
      | (with_reducible intro _)
      | dsimp only
      | dsimp +zetaDelta only
  | succ n ih =>
    unfold sendRing
    repeat' first
      | with_reducible assumption
      | with_reducible apply Leads.next
      | with_reducible exact Leads.fault _
      | with_reducible apply OptLeads.some
      | with_reducible exact OptLeads.none
      | with_reducible apply OptLeads.map
      | with_reducible apply ih
      | with_reducible apply routeFrame_canonical
      | with_reducible apply putOut_canonical
      | with_reducible apply emit_canonical
      | with_reducible apply forEach_canonical
      | with_reducible apply setF_canonical
      | with_reducible apply setF_canonical
      | with_reducible apply forEach_canonical
      | extract_lets
      | (simp only [↓State.canonical_mk]; with_reducible apply Good.of)
      | split
      | (with_reducible intro _)
      | dsimp only
      | dsimp +zetaDelta only

theorem execFabTxTail_canonical (tail : Nat) {s : State} (hs : State.canonical s) :
    Leads State.canonical (execFabTxTail tail s) := by
  unfold execFabTxTail
  repeat' first
    | with_reducible assumption
    | with_reducible apply Leads.next
    | with_reducible exact Leads.fault _
    | with_reducible apply OptLeads.some
    | with_reducible exact OptLeads.none
    | with_reducible apply OptLeads.map
    | with_reducible apply sendRing_canonical
    | with_reducible apply land_canonical
    | with_reducible refine Leads.elim (land_canonical _ _ _ ?_ ?_) (by with_reducible assumption)
    | with_reducible apply ignored_canonical
    | with_reducible apply setF_canonical
    | with_reducible apply setF_canonical
    | extract_lets
    | (simp only [↓State.canonical_mk]; with_reducible apply Good.of)
    | split
    | (with_reducible intro _)
    | dsimp only
    | dsimp +zetaDelta only

theorem execLsa_canonical (p : Fin 4) (uid addr seq : Nat) (links : List LsaLink) {s : State} (hs : State.canonical s) :
    Leads State.canonical (execLsa p uid addr seq links s) := by
  unfold execLsa
  repeat' first
    | with_reducible assumption
    | with_reducible apply Leads.next
    | with_reducible exact Leads.fault _
    | with_reducible apply OptLeads.some
    | with_reducible exact OptLeads.none
    | with_reducible apply OptLeads.map
    | with_reducible apply arrive_canonical
    | with_reducible refine Leads.elim (arrive_canonical _ _ _ ?_ ?_) (by with_reducible assumption)
    | with_reducible apply noteAddr_canonical
    | with_reducible apply fabRefresh_canonical
    | with_reducible apply onNode_canonical
    | with_reducible apply floodFrame_canonical
    | extract_lets
    | (simp only [↓State.canonical_mk]; with_reducible apply Good.of)
    | split
    | (with_reducible intro _)
    | dsimp only
    | dsimp +zetaDelta only

theorem execLsaRefresh_canonical {s : State} (hs : State.canonical s) :
    Leads State.canonical (execLsaRefresh s) := by
  unfold execLsaRefresh
  repeat' first
    | with_reducible assumption
    | with_reducible apply Leads.next
    | with_reducible exact Leads.fault _
    | with_reducible apply OptLeads.some
    | with_reducible exact OptLeads.none
    | with_reducible apply OptLeads.map
    | with_reducible apply floodLsa_canonical
    | extract_lets
    | (simp only [↓State.canonical_mk]; with_reducible apply Good.of)
    | split
    | (with_reducible intro _)
    | dsimp only
    | dsimp +zetaDelta only

theorem execLsaExpiry_canonical (uid : Nat) {s : State} (hs : State.canonical s) :
    Leads State.canonical (execLsaExpiry uid s) := by
  unfold execLsaExpiry
  repeat' first
    | with_reducible assumption
    | with_reducible apply Leads.next
    | with_reducible exact Leads.fault _
    | with_reducible apply OptLeads.some
    | with_reducible exact OptLeads.none
    | with_reducible apply OptLeads.map
    | with_reducible apply fabRefresh_canonical
    | with_reducible apply settle_canonical
    | with_reducible apply onNode_canonical
    | extract_lets
    | (simp only [↓State.canonical_mk]; with_reducible apply Good.of)
    | split
    | (with_reducible intro _)
    | dsimp only
    | dsimp +zetaDelta only

theorem answerAddr_canonical (p : Nat) (src : Option Nat) (uid : Nat) (a : Option Nat) {s : State} (hs : State.canonical s) :
    State.canonical (answerAddr p src uid a s) := by
  unfold answerAddr
  repeat' first
    | with_reducible assumption
    | with_reducible apply Leads.next
    | with_reducible exact Leads.fault _
    | with_reducible apply OptLeads.some
    | with_reducible exact OptLeads.none
    | with_reducible apply OptLeads.map
    | with_reducible apply sendLocal_canonical
    | with_reducible apply sendFrame_canonical
    | extract_lets
    | (simp only [↓State.canonical_mk]; with_reducible apply Good.of)
    | split
    | (with_reducible intro _)
    | dsimp only
    | dsimp +zetaDelta only

theorem noteGiven_canonical (a : Option Nat) (uid : Nat) {s : State} (hs : State.canonical s) :
    State.canonical (noteGiven a uid s) := by
  unfold noteGiven
  repeat' first
    | with_reducible assumption
    | with_reducible apply Leads.next
    | with_reducible exact Leads.fault _
    | with_reducible apply OptLeads.some
    | with_reducible exact OptLeads.none
    | with_reducible apply OptLeads.map
    | with_reducible apply noteTable_canonical
    | extract_lets
    | (simp only [↓State.canonical_mk]; with_reducible apply Good.of)
    | split
    | (with_reducible intro _)
    | dsimp only
    | dsimp +zetaDelta only

theorem relayAddr_canonical (p uid pref : Nat) {s : State} (hs : State.canonical s) :
    State.canonical (relayAddr p uid pref s) := by
  unfold relayAddr
  repeat' first
    | with_reducible assumption
    | with_reducible apply Leads.next
    | with_reducible exact Leads.fault _
    | with_reducible apply OptLeads.some
    | with_reducible exact OptLeads.none
    | with_reducible apply OptLeads.map
    | with_reducible apply sendFrame_canonical
    | extract_lets
    | (simp only [↓State.canonical_mk]; with_reducible apply Good.of)
    | split
    | (with_reducible intro _)
    | dsimp only
    | dsimp +zetaDelta only

theorem execAddrReq_canonical (p : Fin 4) (src : Option Nat) (uid pref : Nat) {s : State} (hs : State.canonical s) :
    Leads State.canonical (execAddrReq p src uid pref s) := by
  unfold execAddrReq
  repeat' first
    | with_reducible assumption
    | with_reducible apply Leads.next
    | with_reducible exact Leads.fault _
    | with_reducible apply OptLeads.some
    | with_reducible exact OptLeads.none
    | with_reducible apply OptLeads.map
    | with_reducible apply relayAddr_canonical
    | with_reducible apply noteGiven_canonical
    | with_reducible apply answerAddr_canonical
    | with_reducible apply arrive_canonical
    | with_reducible refine Leads.elim (arrive_canonical _ _ _ ?_ ?_) (by with_reducible assumption)
    | extract_lets
    | (simp only [↓State.canonical_mk]; with_reducible apply Good.of)
    | split
    | (with_reducible intro _)
    | dsimp only
    | dsimp +zetaDelta only

theorem execAddrAssign_canonical (p : Fin 4) (src : Option Nat) (uid : Nat) (addr : Option Nat) {s : State} (hs : State.canonical s) :
    Leads State.canonical (execAddrAssign p src uid addr s) := by
  unfold execAddrAssign
  repeat' first
    | with_reducible assumption
    | with_reducible apply Leads.next
    | with_reducible exact Leads.fault _
    | with_reducible apply OptLeads.some
    | with_reducible exact OptLeads.none
    | with_reducible apply OptLeads.map
    | with_reducible apply arrive_canonical
    | with_reducible refine Leads.elim (arrive_canonical _ _ _ ?_ ?_) (by with_reducible assumption)
    | with_reducible apply takeAddr_canonical
    | with_reducible apply sendLocal_canonical
    | extract_lets
    | (simp only [↓State.canonical_mk]; with_reducible apply Good.of)
    | split
    | (with_reducible intro _)
    | dsimp only
    | dsimp +zetaDelta only

theorem execAddrRetry_canonical {s : State} (hs : State.canonical s) :
    Leads State.canonical (execAddrRetry s) := by
  unfold execAddrRetry
  repeat' first
    | with_reducible assumption
    | with_reducible apply Leads.next
    | with_reducible exact Leads.fault _
    | with_reducible apply OptLeads.some
    | with_reducible exact OptLeads.none
    | with_reducible apply OptLeads.map
    | with_reducible apply needAddr_canonical
    | with_reducible apply settle_canonical
    | extract_lets
    | (simp only [↓State.canonical_mk]; with_reducible apply Good.of)
    | split
    | (with_reducible intro _)
    | dsimp only
    | dsimp +zetaDelta only

theorem publishBudget_canonical (f : FabPart → FabPart) {s : State} (hs : State.canonical s) :
    State.canonical (publishBudget f s) := by
  unfold publishBudget
  repeat' first
    | with_reducible assumption
    | with_reducible apply Leads.next
    | with_reducible exact Leads.fault _
    | with_reducible apply OptLeads.some
    | with_reducible exact OptLeads.none
    | with_reducible apply OptLeads.map
    | with_reducible apply floodFrame_canonical
    | extract_lets
    | (simp only [↓State.canonical_mk]; with_reducible apply Good.of)
    | split
    | (with_reducible intro _)
    | dsimp only
    | dsimp +zetaDelta only

theorem finishBudget_canonical {s : State} (hs : State.canonical s) :
    State.canonical (finishBudget s) := by
  unfold finishBudget
  repeat' first
    | with_reducible assumption
    | with_reducible apply Leads.next
    | with_reducible exact Leads.fault _
    | with_reducible apply OptLeads.some
    | with_reducible exact OptLeads.none
    | with_reducible apply OptLeads.map
    | with_reducible apply finishAll_canonical
    | extract_lets
    | (simp only [↓State.canonical_mk]; with_reducible apply Good.of)
    | split
    | (with_reducible intro _)
    | dsimp only
    | dsimp +zetaDelta only

theorem finishForget_canonical {s : State} (hs : State.canonical s) :
    State.canonical (finishForget s) := by
  unfold finishForget
  repeat' first
    | with_reducible assumption
    | with_reducible apply Leads.next
    | with_reducible exact Leads.fault _
    | with_reducible apply OptLeads.some
    | with_reducible exact OptLeads.none
    | with_reducible apply OptLeads.map
    | with_reducible apply finishAll_canonical
    | extract_lets
    | (simp only [↓State.canonical_mk]; with_reducible apply Good.of)
    | split
    | (with_reducible intro _)
    | dsimp only
    | dsimp +zetaDelta only

theorem forgetNode_canonical (uid : Nat) {s : State} (hs : State.canonical s) :
    State.canonical (forgetNode uid s) := by
  unfold forgetNode
  repeat' first
    | with_reducible assumption
    | with_reducible apply Leads.next
    | with_reducible exact Leads.fault _
    | with_reducible apply OptLeads.some
    | with_reducible exact OptLeads.none
    | with_reducible apply OptLeads.map
    | with_reducible apply publishBudget_canonical
    | extract_lets
    | (simp only [↓State.canonical_mk]; with_reducible apply Good.of)
    | split
    | (with_reducible intro _)
    | dsimp only
    | dsimp +zetaDelta only

theorem execBudget_canonical (p : Option (Fin 4)) (msg : BudgetMsg) {s : State} (hs : State.canonical s) :
    Leads State.canonical (execBudget p msg s) := by
  unfold execBudget
  repeat' first
    | with_reducible assumption
    | with_reducible apply Leads.next
    | with_reducible exact Leads.fault _
    | with_reducible apply OptLeads.some
    | with_reducible exact OptLeads.none
    | with_reducible apply OptLeads.map
    | with_reducible apply forgetNode_canonical
    | with_reducible apply finishForget_canonical
    | with_reducible apply finishBudget_canonical
    | with_reducible apply publishBudget_canonical
    | with_reducible apply arrive_canonical
    | with_reducible refine Leads.elim (arrive_canonical _ _ _ ?_ ?_) (by with_reducible assumption)
    | with_reducible apply floodFrame_canonical
    | extract_lets
    | (simp only [↓State.canonical_mk]; with_reducible apply Good.of)
    | split
    | (with_reducible intro _)
    | dsimp only
    | dsimp +zetaDelta only

theorem execNodeUnheardExpiry_canonical (uid : Nat) {s : State} (hs : State.canonical s) :
    Leads State.canonical (execNodeUnheardExpiry uid s) := by
  unfold execNodeUnheardExpiry
  repeat' first
    | with_reducible assumption
    | with_reducible apply Leads.next
    | with_reducible exact Leads.fault _
    | with_reducible apply OptLeads.some
    | with_reducible exact OptLeads.none
    | with_reducible apply OptLeads.map
    | with_reducible apply forgetNode_canonical
    | extract_lets
    | (simp only [↓State.canonical_mk]; with_reducible apply Good.of)
    | split
    | (with_reducible intro _)
    | dsimp only
    | dsimp +zetaDelta only

theorem grantTo_canonical (a xseq tokens : Nat) {s : State} (hs : State.canonical s) :
    State.canonical (grantTo a xseq tokens s) := by
  unfold grantTo
  repeat' first
    | with_reducible assumption
    | with_reducible apply Leads.next
    | with_reducible exact Leads.fault _
    | with_reducible apply OptLeads.some
    | with_reducible exact OptLeads.none
    | with_reducible apply OptLeads.map
    | with_reducible apply publishBudget_canonical
    | with_reducible apply sendFrame_canonical
    | extract_lets
    | (simp only [↓State.canonical_mk]; with_reducible apply Good.of)
    | split
    | (with_reducible intro _)
    | dsimp only
    | dsimp +zetaDelta only

theorem serveList_canonical (l : List TokenReq) {s : State} (hs : State.canonical s) :
    State.canonical (serveList l s) := by
  induction l generalizing s with
  | nil =>
    unfold serveList
    repeat' first
      | with_reducible assumption
      | with_reducible apply Leads.next
      | with_reducible exact Leads.fault _
      | with_reducible apply OptLeads.some
      | with_reducible exact OptLeads.none
      | with_reducible apply OptLeads.map
      | with_reducible apply grantTo_canonical
      | extract_lets
      | (simp only [↓State.canonical_mk]; with_reducible apply Good.of)
      | split
      | (with_reducible intro _)
      | dsimp only
      | dsimp +zetaDelta only
  | cons x l ih =>
    unfold serveList
    repeat' first
      | with_reducible assumption
      | with_reducible apply Leads.next
      | with_reducible exact Leads.fault _
      | with_reducible apply OptLeads.some
      | with_reducible exact OptLeads.none
      | with_reducible apply OptLeads.map
      | with_reducible apply ih
      | with_reducible apply grantTo_canonical
      | extract_lets
      | (simp only [↓State.canonical_mk]; with_reducible apply Good.of)
      | split
      | (with_reducible intro _)
      | dsimp only
      | dsimp +zetaDelta only

theorem serveQueue_canonical {s : State} (hs : State.canonical s) :
    State.canonical (serveQueue s) := by
  unfold serveQueue
  repeat' first
    | with_reducible assumption
    | with_reducible apply Leads.next
    | with_reducible exact Leads.fault _
    | with_reducible apply OptLeads.some
    | with_reducible exact OptLeads.none
    | with_reducible apply OptLeads.map
    | with_reducible apply serveList_canonical
    | extract_lets
    | (simp only [↓State.canonical_mk]; with_reducible apply Good.of)
    | split
    | (with_reducible intro _)
    | dsimp only
    | dsimp +zetaDelta only

theorem execTokenReq_canonical (p : Option (Fin 4)) (src xseq want min cls : Nat) {s : State} (hs : State.canonical s) :
    Leads State.canonical (execTokenReq p src xseq want min cls s) := by
  unfold execTokenReq
  repeat' first
    | with_reducible assumption
    | with_reducible apply Leads.next
    | with_reducible exact Leads.fault _
    | with_reducible apply OptLeads.some
    | with_reducible exact OptLeads.none
    | with_reducible apply OptLeads.map
    | with_reducible apply serveQueue_canonical
    | with_reducible apply arrive_canonical
    | with_reducible refine Leads.elim (arrive_canonical _ _ _ ?_ ?_) (by with_reducible assumption)
    | extract_lets
    | (simp only [↓State.canonical_mk]; with_reducible apply Good.of)
    | split
    | (with_reducible intro _)
    | dsimp only
    | dsimp +zetaDelta only

theorem execTokenReport_canonical (p : Option (Fin 4)) (src xseq heldW _drawDw : Nat) {s : State} (hs : State.canonical s) :
    Leads State.canonical (execTokenReport p src xseq heldW _drawDw s) := by
  unfold execTokenReport
  repeat' first
    | with_reducible assumption
    | with_reducible apply Leads.next
    | with_reducible exact Leads.fault _
    | with_reducible apply OptLeads.some
    | with_reducible exact OptLeads.none
    | with_reducible apply OptLeads.map
    | with_reducible apply serveQueue_canonical
    | with_reducible apply grantTo_canonical
    | with_reducible apply arrive_canonical
    | with_reducible refine Leads.elim (arrive_canonical _ _ _ ?_ ?_) (by with_reducible assumption)
    | with_reducible apply tokenReport_canonical
    | extract_lets
    | (simp only [↓State.canonical_mk]; with_reducible apply Good.of)
    | split
    | (with_reducible intro _)
    | dsimp only
    | dsimp +zetaDelta only

theorem execTokenRelease_canonical (p : Option (Fin 4)) (src : Nat) {s : State} (hs : State.canonical s) :
    Leads State.canonical (execTokenRelease p src s) := by
  unfold execTokenRelease
  repeat' first
    | with_reducible assumption
    | with_reducible apply Leads.next
    | with_reducible exact Leads.fault _
    | with_reducible apply OptLeads.some
    | with_reducible exact OptLeads.none
    | with_reducible apply OptLeads.map
    | with_reducible apply serveQueue_canonical
    | with_reducible apply arrive_canonical
    | with_reducible refine Leads.elim (arrive_canonical _ _ _ ?_ ?_) (by with_reducible assumption)
    | extract_lets
    | (simp only [↓State.canonical_mk]; with_reducible apply Good.of)
    | split
    | (with_reducible intro _)
    | dsimp only
    | dsimp +zetaDelta only

theorem execLeaseMove_canonical (p : Option (Fin 4)) (src xseq lost : Nat) {s : State} (hs : State.canonical s) :
    Leads State.canonical (execLeaseMove p src xseq lost s) := by
  unfold execLeaseMove
  repeat' first
    | with_reducible assumption
    | with_reducible apply Leads.next
    | with_reducible exact Leads.fault _
    | with_reducible apply OptLeads.some
    | with_reducible exact OptLeads.none
    | with_reducible apply OptLeads.map
    | with_reducible apply arrive_canonical
    | with_reducible refine Leads.elim (arrive_canonical _ _ _ ?_ ?_) (by with_reducible assumption)
    | with_reducible apply sendFrame_canonical
    | extract_lets
    | (simp only [↓State.canonical_mk]; with_reducible apply Good.of)
    | split
    | (with_reducible intro _)
    | dsimp only
    | dsimp +zetaDelta only

theorem execTokenRequestDrop_canonical (src : Nat) {s : State} (hs : State.canonical s) :
    Leads State.canonical (execTokenRequestDrop src s) := by
  unfold execTokenRequestDrop
  repeat' first
    | with_reducible assumption
    | with_reducible apply Leads.next
    | with_reducible exact Leads.fault _
    | with_reducible apply OptLeads.some
    | with_reducible exact OptLeads.none
    | with_reducible apply OptLeads.map
    | with_reducible apply serveQueue_canonical
    | extract_lets
    | (simp only [↓State.canonical_mk]; with_reducible apply Good.of)
    | split
    | (with_reducible intro _)
    | dsimp only
    | dsimp +zetaDelta only

theorem execBellwetherGrantStart_canonical {s : State} (hs : State.canonical s) :
    Leads State.canonical (execBellwetherGrantStart s) := by
  unfold execBellwetherGrantStart
  repeat' first
    | with_reducible assumption
    | with_reducible apply Leads.next
    | with_reducible exact Leads.fault _
    | with_reducible apply OptLeads.some
    | with_reducible exact OptLeads.none
    | with_reducible apply OptLeads.map
    | with_reducible apply serveQueue_canonical
    | extract_lets
    | (simp only [↓State.canonical_mk]; with_reducible apply Good.of)
    | split
    | (with_reducible intro _)
    | dsimp only
    | dsimp +zetaDelta only

theorem takeHolding_canonical (w : Nat) {s : State} (hs : State.canonical s) :
    State.canonical (takeHolding w s) := by
  unfold takeHolding
  repeat' first
    | with_reducible assumption
    | with_reducible apply Leads.next
    | with_reducible exact Leads.fault _
    | with_reducible apply OptLeads.some
    | with_reducible exact OptLeads.none
    | with_reducible apply OptLeads.map
    | with_reducible apply leaveParked_canonical
    | with_reducible apply hostEvent_canonical
    | with_reducible apply loopAtOnce_canonical
    | with_reducible apply sendMir_canonical
    | with_reducible apply when_canonical
    | with_reducible apply setF_canonical
    | with_reducible apply setF_canonical
    | with_reducible apply when_canonical
    | extract_lets
    | (simp only [↓State.canonical_mk]; with_reducible apply Good.of)
    | split
    | (with_reducible intro _)
    | dsimp only
    | dsimp +zetaDelta only

theorem execTokenGrant_canonical (p : Option (Fin 4)) (xseq watts leaseMs : Nat) {s : State} (hs : State.canonical s) :
    Leads State.canonical (execTokenGrant p xseq watts leaseMs s) := by
  unfold execTokenGrant
  repeat' first
    | with_reducible assumption
    | with_reducible apply Leads.next
    | with_reducible exact Leads.fault _
    | with_reducible apply OptLeads.some
    | with_reducible exact OptLeads.none
    | with_reducible apply OptLeads.map
    | with_reducible apply takeHolding_canonical
    | with_reducible apply arrive_canonical
    | with_reducible refine Leads.elim (arrive_canonical _ _ _ ?_ ?_) (by with_reducible assumption)
    | extract_lets
    | (simp only [↓State.canonical_mk]; with_reducible apply Good.of)
    | split
    | (with_reducible intro _)
    | dsimp only
    | dsimp +zetaDelta only

theorem execTokenReportTimer_canonical {s : State} (hs : State.canonical s) :
    Leads State.canonical (execTokenReportTimer s) := by
  unfold execTokenReportTimer
  repeat' first
    | with_reducible assumption
    | with_reducible apply Leads.next
    | with_reducible exact Leads.fault _
    | with_reducible apply OptLeads.some
    | with_reducible exact OptLeads.none
    | with_reducible apply OptLeads.map
    | with_reducible apply tokenReport_canonical
    | extract_lets
    | (simp only [↓State.canonical_mk]; with_reducible apply Good.of)
    | split
    | (with_reducible intro _)
    | dsimp only
    | dsimp +zetaDelta only

theorem execLeaseExpiry_canonical {s : State} (hs : State.canonical s) :
    Leads State.canonical (execLeaseExpiry s) := by
  unfold execLeaseExpiry
  repeat' first
    | with_reducible assumption
    | with_reducible apply Leads.next
    | with_reducible exact Leads.fault _
    | with_reducible apply OptLeads.some
    | with_reducible exact OptLeads.none
    | with_reducible apply OptLeads.map
    | with_reducible apply takeHolding_canonical
    | with_reducible apply settle_canonical
    | extract_lets
    | (simp only [↓State.canonical_mk]; with_reducible apply Good.of)
    | split
    | (with_reducible intro _)
    | dsimp only
    | dsimp +zetaDelta only

theorem execToken_canonical (watts leaseMs addr : Nat) {s : State} (hs : State.canonical s) :
    Leads State.canonical (execToken watts leaseMs addr s) := by
  unfold execToken
  repeat' first
    | with_reducible assumption
    | with_reducible apply Leads.next
    | with_reducible exact Leads.fault _
    | with_reducible apply OptLeads.some
    | with_reducible exact OptLeads.none
    | with_reducible apply OptLeads.map
    | with_reducible apply receive_canonical
    | with_reducible refine Leads.elim (receive_canonical _ ?_ ?_) (by with_reducible assumption)
    | extract_lets
    | (simp only [↓State.canonical_mk]; with_reducible apply Good.of)
    | split
    | (with_reducible intro _)
    | dsimp only
    | dsimp +zetaDelta only

end Sys2Proof.Machine
end

