-- ==== Sys2Proof/Laws/CanonRpr.lean ====
section
/-! SUPPORT. The canonical form is kept by the operations of Machine/Rpr.lean. -/

set_option linter.all false

namespace Sys2Proof.Machine

theorem writeTable_canonical (total : Nat) (rows : List RepairRow) {s : State} (hs : State.canonical s) :
    State.canonical (writeTable total rows s) := by
  unfold writeTable
  repeat' first
    | with_reducible assumption
    | with_reducible apply Leads.next
    | with_reducible exact Leads.fault _
    | with_reducible apply OptLeads.some
    | with_reducible exact OptLeads.none
    | with_reducible apply OptLeads.map
    | with_reducible apply writeBytes_canonical
    | extract_lets
    | (simp only [↓State.canonical_mk]; with_reducible apply Good.of)
    | split
    | (with_reducible intro _)
    | dsimp only
    | dsimp +zetaDelta only

theorem listRows_canonical (es : List RepairRow) {s : State} (hs : State.canonical s) :
    State.canonical (listRows es s) := by
  unfold listRows
  repeat' first
    | with_reducible assumption
    | with_reducible apply Leads.next
    | with_reducible exact Leads.fault _
    | with_reducible apply OptLeads.some
    | with_reducible exact OptLeads.none
    | with_reducible apply OptLeads.map
    | with_reducible apply writeTable_canonical
    | extract_lets
    | (simp only [↓State.canonical_mk]; with_reducible apply Good.of)
    | split
    | (with_reducible intro _)
    | dsimp only
    | dsimp +zetaDelta only

theorem listRepair_canonical (e : RepairRow) {s : State} (hs : State.canonical s) :
    State.canonical (listRepair e s) := by
  unfold listRepair
  repeat' first
    | with_reducible assumption
    | with_reducible apply Leads.next
    | with_reducible exact Leads.fault _
    | with_reducible apply OptLeads.some
    | with_reducible exact OptLeads.none
    | with_reducible apply OptLeads.map
    | with_reducible apply listRows_canonical
    | extract_lets
    | (simp only [↓State.canonical_mk]; with_reducible apply Good.of)
    | split
    | (with_reducible intro _)
    | dsimp only
    | dsimp +zetaDelta only

theorem storeRecord_canonical (r : RepRec) {s : State} (hs : State.canonical s) :
    State.canonical (storeRecord r s) := by
  unfold storeRecord
  repeat' first
    | with_reducible assumption
    | with_reducible apply Leads.next
    | with_reducible exact Leads.fault _
    | with_reducible apply OptLeads.some
    | with_reducible exact OptLeads.none
    | with_reducible apply OptLeads.map
    | with_reducible apply writeTable_canonical
    | with_reducible apply hostEvent_canonical
    | with_reducible apply logPlain_canonical
    | with_reducible apply writeBytes_canonical
    | extract_lets
    | (simp only [↓State.canonical_mk]; with_reducible apply Good.of)
    | split
    | (with_reducible intro _)
    | dsimp only
    | dsimp +zetaDelta only

theorem storeOwed_canonical {s : State} (hs : State.canonical s) :
    State.canonical (storeOwed s) := by
  unfold storeOwed
  repeat' first
    | with_reducible assumption
    | with_reducible apply Leads.next
    | with_reducible exact Leads.fault _
    | with_reducible apply OptLeads.some
    | with_reducible exact OptLeads.none
    | with_reducible apply OptLeads.map
    | with_reducible apply storeRecord_canonical
    | with_reducible apply listRows_canonical
    | with_reducible apply forEach_canonical
    | with_reducible apply forEach_canonical
    | extract_lets
    | (simp only [↓State.canonical_mk]; with_reducible apply Good.of)
    | split
    | (with_reducible intro _)
    | dsimp only
    | dsimp +zetaDelta only

theorem execRepairRecordPop_canonical {s : State} (hs : State.canonical s) :
    Leads State.canonical (execRepairRecordPop s) := by
  unfold execRepairRecordPop
  repeat' first
    | with_reducible assumption
    | with_reducible apply Leads.next
    | with_reducible exact Leads.fault _
    | with_reducible apply OptLeads.some
    | with_reducible exact OptLeads.none
    | with_reducible apply OptLeads.map
    | with_reducible apply storeOwed_canonical
    | with_reducible apply storeRecord_canonical
    | with_reducible apply land_canonical
    | with_reducible refine Leads.elim (land_canonical _ _ _ ?_ ?_) (by with_reducible assumption)
    | extract_lets
    | (simp only [↓State.canonical_mk]; with_reducible apply Good.of)
    | split
    | (with_reducible intro _)
    | dsimp only
    | dsimp +zetaDelta only

theorem retireCore_canonical (n : Nat) (sparePass : Bool) {s : State} (hs : State.canonical s) :
    State.canonical (retireCore n sparePass s) := by
  unfold retireCore
  repeat' first
    | with_reducible assumption
    | with_reducible apply Leads.next
    | with_reducible exact Leads.fault _
    | with_reducible apply OptLeads.some
    | with_reducible exact OptLeads.none
    | with_reducible apply OptLeads.map
    | with_reducible apply storeOwed_canonical
    | with_reducible apply forceOwner_canonical
    | with_reducible apply raiseFault_canonical
    | with_reducible apply when_canonical
    | with_reducible apply setF_canonical
    | with_reducible apply setF_canonical
    | with_reducible apply when_canonical
    | extract_lets
    | (simp only [↓State.canonical_mk]; with_reducible apply Good.of)
    | split
    | (with_reducible intro _)
    | dsimp only
    | dsimp +zetaDelta only

theorem execCorePeriodicTest_canonical (core : Fin 9) (pass sparePass : Bool) {s : State} (hs : State.canonical s) :
    Leads State.canonical (execCorePeriodicTest core pass sparePass s) := by
  unfold execCorePeriodicTest
  repeat' first
    | with_reducible assumption
    | with_reducible apply Leads.next
    | with_reducible exact Leads.fault _
    | with_reducible apply OptLeads.some
    | with_reducible exact OptLeads.none
    | with_reducible apply OptLeads.map
    | with_reducible apply retireCore_canonical
    | with_reducible apply settle_canonical
    | extract_lets
    | (simp only [↓State.canonical_mk]; with_reducible apply Good.of)
    | split
    | (with_reducible intro _)
    | dsimp only
    | dsimp +zetaDelta only

theorem keepRow_canonical (kind id place : Nat) {s : State} (hs : State.canonical s) :
    State.canonical (keepRow kind id place s) := by
  unfold keepRow
  repeat' first
    | with_reducible assumption
    | with_reducible apply Leads.next
    | with_reducible exact Leads.fault _
    | with_reducible apply OptLeads.some
    | with_reducible exact OptLeads.none
    | with_reducible apply OptLeads.map
    | with_reducible apply pushRecord_canonical
    | with_reducible apply hostEvent_canonical
    | with_reducible apply lightFault_canonical
    | with_reducible apply id_canonical
    | extract_lets
    | (simp only [↓State.canonical_mk]; with_reducible apply Good.of)
    | split
    | (with_reducible intro _)
    | dsimp only
    | dsimp +zetaDelta only

theorem disableWay_canonical (bank seg way : Nat) {s : State} (hs : State.canonical s) :
    State.canonical (disableWay bank seg way s) := by
  unfold disableWay
  repeat' first
    | with_reducible assumption
    | with_reducible apply Leads.next
    | with_reducible exact Leads.fault _
    | with_reducible apply OptLeads.some
    | with_reducible exact OptLeads.none
    | with_reducible apply OptLeads.map
    | with_reducible apply memLine_canonical
    | with_reducible apply forEach_canonical
    | with_reducible apply forEach_canonical
    | extract_lets
    | (simp only [↓State.canonical_mk]; with_reducible apply Good.of)
    | split
    | (with_reducible intro _)
    | dsimp only
    | dsimp +zetaDelta only

theorem noSpare_canonical (kind id place : Nat) {s : State} (hs : State.canonical s) :
    State.canonical (noSpare kind id place s) := by
  unfold noSpare
  repeat' first
    | with_reducible assumption
    | with_reducible apply Leads.next
    | with_reducible exact Leads.fault _
    | with_reducible apply OptLeads.some
    | with_reducible exact OptLeads.none
    | with_reducible apply OptLeads.map
    | with_reducible apply disableWay_canonical
    | with_reducible apply keepRow_canonical
    | with_reducible apply retireCore_canonical
    | with_reducible apply settleEngine_canonical
    | with_reducible apply onEng_canonical
    | with_reducible apply retireIsland_canonical
    | with_reducible apply raiseFault_canonical
    | with_reducible apply pushRecord_canonical
    | with_reducible apply useFree_canonical
    | with_reducible apply event_canonical
    | with_reducible apply id_canonical
    | extract_lets
    | (simp only [↓State.canonical_mk]; with_reducible apply Good.of)
    | split
    | (with_reducible intro _)
    | dsimp only
    | dsimp +zetaDelta only

theorem useSpareRow_canonical (id row : Nat) {s : State} (hs : State.canonical s) :
    OptLeads State.canonical (useSpareRow id row s) := by
  unfold useSpareRow
  repeat' first
    | with_reducible assumption
    | with_reducible apply Leads.next
    | with_reducible exact Leads.fault _
    | with_reducible apply OptLeads.some
    | with_reducible exact OptLeads.none
    | with_reducible apply OptLeads.map
    | with_reducible apply pushRecord_canonical
    | with_reducible apply id_canonical
    | extract_lets
    | (simp only [↓State.canonical_mk]; with_reducible apply Good.of)
    | split
    | (with_reducible intro _)
    | dsimp only
    | dsimp +zetaDelta only

theorem execSramRowRemap_canonical (array row : Nat) {s : State} (hs : State.canonical s) :
    Leads State.canonical (execSramRowRemap array row s) := by
  unfold execSramRowRemap
  repeat' first
    | with_reducible assumption
    | with_reducible apply Leads.next
    | with_reducible exact Leads.fault _
    | with_reducible apply OptLeads.some
    | with_reducible exact OptLeads.none
    | with_reducible apply OptLeads.map
    | with_reducible apply useSpareRow_canonical
    | with_reducible refine OptLeads.elim (useSpareRow_canonical _ _ ?_) (by with_reducible assumption)
    | with_reducible apply noSpare_canonical
    | with_reducible apply settle_canonical
    | with_reducible apply bump_canonical
    | extract_lets
    | (simp only [↓State.canonical_mk]; with_reducible apply Good.of)
    | split
    | (with_reducible intro _)
    | dsimp only
    | dsimp +zetaDelta only

theorem execDramRowLimit_canonical (loc row : Nat) (ue : Bool) {s : State} (hs : State.canonical s) :
    Leads State.canonical (execDramRowLimit loc row ue s) := by
  unfold execDramRowLimit
  repeat' first
    | with_reducible assumption
    | with_reducible apply Leads.next
    | with_reducible exact Leads.fault _
    | with_reducible apply OptLeads.some
    | with_reducible exact OptLeads.none
    | with_reducible apply OptLeads.map
    | with_reducible apply countDramUe_canonical
    | with_reducible apply settle_canonical
    | with_reducible apply event_canonical
    | with_reducible apply setF_canonical
    | with_reducible apply setF_canonical
    | extract_lets
    | (simp only [↓State.canonical_mk]; with_reducible apply Good.of)
    | split
    | (with_reducible intro _)
    | dsimp only
    | dsimp +zetaDelta only

theorem execDramPpr_canonical (loc row : Nat) (hard : Bool) {s : State} (hs : State.canonical s) :
    Leads State.canonical (execDramPpr loc row hard s) := by
  unfold execDramPpr
  repeat' first
    | with_reducible assumption
    | with_reducible apply Leads.next
    | with_reducible exact Leads.fault _
    | with_reducible apply OptLeads.some
    | with_reducible exact OptLeads.none
    | with_reducible apply OptLeads.map
    | with_reducible apply land_canonical
    | with_reducible refine Leads.elim (land_canonical _ _ _ ?_ ?_) (by with_reducible assumption)
    | with_reducible apply ignored_canonical
    | with_reducible apply setF_canonical
    | with_reducible apply setF_canonical
    | extract_lets
    | (simp only [↓State.canonical_mk]; with_reducible apply Good.of)
    | split
    | (with_reducible intro _)
    | dsimp only
    | dsimp +zetaDelta only

theorem execDramPprDone_canonical (region : Nat) {s : State} (hs : State.canonical s) :
    Leads State.canonical (execDramPprDone region s) := by
  unfold execDramPprDone
  repeat' first
    | with_reducible assumption
    | with_reducible apply Leads.next
    | with_reducible exact Leads.fault _
    | with_reducible apply OptLeads.some
    | with_reducible exact OptLeads.none
    | with_reducible apply OptLeads.map
    | with_reducible apply listRepair_canonical
    | with_reducible apply pushRecord_canonical
    | with_reducible apply event_canonical
    | with_reducible apply setF_canonical
    | with_reducible apply setF_canonical
    | extract_lets
    | (simp only [↓State.canonical_mk]; with_reducible apply Good.of)
    | split
    | (with_reducible intro _)
    | dsimp only
    | dsimp +zetaDelta only

theorem reapply_canonical (e : RepairRow) {s : State} (hs : State.canonical s) :
    State.canonical (reapply e s) := by
  unfold reapply
  repeat' first
    | with_reducible assumption
    | with_reducible apply Leads.next
    | with_reducible exact Leads.fault _
    | with_reducible apply OptLeads.some
    | with_reducible exact OptLeads.none
    | with_reducible apply OptLeads.map
    | with_reducible apply retireIsland_canonical
    | extract_lets
    | (simp only [↓State.canonical_mk]; with_reducible apply Good.of)
    | split
    | (with_reducible intro _)
    | dsimp only
    | dsimp +zetaDelta only

theorem mapRow_canonical (id row : Nat) {s : State} (hs : State.canonical s) :
    State.canonical (mapRow id row s) := by
  unfold mapRow
  repeat' first
    | with_reducible assumption
    | with_reducible apply Leads.next
    | with_reducible exact Leads.fault _
    | with_reducible apply OptLeads.some
    | with_reducible exact OptLeads.none
    | with_reducible apply OptLeads.map
    | with_reducible apply useSpareRow_canonical
    | with_reducible refine OptLeads.elim (useSpareRow_canonical _ _ ?_) (by with_reducible assumption)
    | with_reducible apply noSpare_canonical
    | with_reducible apply setF_canonical
    | with_reducible apply setF_canonical
    | with_reducible apply id_canonical
    | extract_lets
    | (simp only [↓State.canonical_mk]; with_reducible apply Good.of)
    | split
    | (with_reducible intro _)
    | dsimp only
    | dsimp +zetaDelta only

theorem mapColumn_canonical (id : Nat) {s : State} (hs : State.canonical s) :
    State.canonical (mapColumn id s) := by
  unfold mapColumn
  repeat' first
    | with_reducible assumption
    | with_reducible apply Leads.next
    | with_reducible exact Leads.fault _
    | with_reducible apply OptLeads.some
    | with_reducible exact OptLeads.none
    | with_reducible apply OptLeads.map
    | with_reducible apply noSpare_canonical
    | with_reducible apply pushRecord_canonical
    | with_reducible apply setF_canonical
    | with_reducible apply setF_canonical
    | with_reducible apply id_canonical
    | extract_lets
    | (simp only [↓State.canonical_mk]; with_reducible apply Good.of)
    | split
    | (with_reducible intro _)
    | dsimp only
    | dsimp +zetaDelta only

theorem placeEngines_canonical (passing : List Nat) {s : State} (hs : State.canonical s) :
    State.canonical (placeEngines passing s) := by
  unfold placeEngines
  repeat' first
    | with_reducible assumption
    | with_reducible apply Leads.next
    | with_reducible exact Leads.fault _
    | with_reducible apply OptLeads.some
    | with_reducible exact OptLeads.none
    | with_reducible apply OptLeads.map
    | with_reducible apply setEng_canonical
    | with_reducible apply retireIsland_canonical
    | with_reducible apply raiseFault_canonical
    | with_reducible apply pushRecord_canonical
    | with_reducible apply forEach_canonical
    | with_reducible apply when_canonical
    | with_reducible apply forEach_canonical
    | with_reducible apply when_canonical
    | extract_lets
    | (simp only [↓State.canonical_mk]; with_reducible apply Good.of)
    | split
    | (with_reducible intro _)
    | dsimp only
    | dsimp +zetaDelta only

theorem placeCores_canonical (passing : List Nat) {s : State} (hs : State.canonical s) :
    State.canonical (placeCores passing s) := by
  unfold placeCores
  repeat' first
    | with_reducible assumption
    | with_reducible apply Leads.next
    | with_reducible exact Leads.fault _
    | with_reducible apply OptLeads.some
    | with_reducible exact OptLeads.none
    | with_reducible apply OptLeads.map
    | with_reducible apply setF_canonical
    | with_reducible apply setF_canonical
    | extract_lets
    | (simp only [↓State.canonical_mk]; with_reducible apply Good.of)
    | split
    | (with_reducible intro _)
    | dsimp only
    | dsimp +zetaDelta only

theorem hardRepairs_canonical {s : State} (hs : State.canonical s) :
    State.canonical (hardRepairs s) := by
  unfold hardRepairs
  repeat' first
    | with_reducible assumption
    | with_reducible apply Leads.next
    | with_reducible exact Leads.fault _
    | with_reducible apply OptLeads.some
    | with_reducible exact OptLeads.none
    | with_reducible apply OptLeads.map
    | with_reducible apply writeTable_canonical
    | with_reducible apply pushRecord_canonical
    | with_reducible apply forEach_canonical
    | with_reducible apply when_canonical
    | with_reducible apply forEach_canonical
    | with_reducible apply when_canonical
    | extract_lets
    | (simp only [↓State.canonical_mk]; with_reducible apply Good.of)
    | split
    | (with_reducible intro _)
    | dsimp only
    | dsimp +zetaDelta only

theorem execPostDone_canonical (engines cores : List Nat) (rows : List (Nat × Nat)) (columns : List Nat) {s : State} (hs : State.canonical s) :
    Leads State.canonical (execPostDone engines cores rows columns s) := by
  unfold execPostDone
  repeat' first
    | with_reducible assumption
    | with_reducible apply Leads.next
    | with_reducible exact Leads.fault _
    | with_reducible apply OptLeads.some
    | with_reducible exact OptLeads.none
    | with_reducible apply OptLeads.map
    | with_reducible apply hardRepairs_canonical
    | with_reducible apply placeCores_canonical
    | with_reducible apply placeEngines_canonical
    | with_reducible apply mapColumn_canonical
    | with_reducible apply mapRow_canonical
    | with_reducible apply reapply_canonical
    | with_reducible apply settle_canonical
    | with_reducible apply pushRecord_canonical
    | with_reducible apply forEach_canonical
    | with_reducible apply setF_canonical
    | with_reducible apply setF_canonical
    | with_reducible apply forEach_canonical
    | extract_lets
    | (simp only [↓State.canonical_mk]; with_reducible apply Good.of)
    | split
    | (with_reducible intro _)
    | dsimp only
    | dsimp +zetaDelta only

theorem recordLane_canonical (kind port : Nat) {s : State} (hs : State.canonical s) :
    State.canonical (recordLane kind port s) := by
  unfold recordLane
  repeat' first
    | with_reducible assumption
    | with_reducible apply Leads.next
    | with_reducible exact Leads.fault _
    | with_reducible apply OptLeads.some
    | with_reducible exact OptLeads.none
    | with_reducible apply OptLeads.map
    | with_reducible apply pushRecord_canonical
    | with_reducible apply useFree_canonical
    | with_reducible apply event_canonical
    | extract_lets
    | (simp only [↓State.canonical_mk]; with_reducible apply Good.of)
    | split
    | (with_reducible intro _)
    | dsimp only
    | dsimp +zetaDelta only

theorem showMirror_canonical {s : State} (hs : State.canonical s) :
    State.canonical (showMirror s) := by
  unfold showMirror
  repeat' first
    | with_reducible assumption
    | with_reducible apply Leads.next
    | with_reducible exact Leads.fault _
    | with_reducible apply OptLeads.some
    | with_reducible exact OptLeads.none
    | with_reducible apply OptLeads.map
    | with_reducible apply execMirrorLinkDown_canonical
    | with_reducible refine Leads.elim (execMirrorLinkDown_canonical ?_) (by with_reducible assumption)
    | with_reducible apply setF_canonical
    | with_reducible apply setF_canonical
    | extract_lets
    | (simp only [↓State.canonical_mk]; with_reducible apply Good.of)
    | split
    | (with_reducible intro _)
    | dsimp only
    | dsimp +zetaDelta only

theorem execFabricLaneFailure_canonical (port : Fin 7) (lane : Fin 4) {s : State} (hs : State.canonical s) :
    Leads State.canonical (execFabricLaneFailure port lane s) := by
  unfold execFabricLaneFailure
  repeat' first
    | with_reducible assumption
    | with_reducible apply Leads.next
    | with_reducible exact Leads.fault _
    | with_reducible apply OptLeads.some
    | with_reducible exact OptLeads.none
    | with_reducible apply OptLeads.map
    | with_reducible apply showMirror_canonical
    | with_reducible apply recordLane_canonical
    | with_reducible apply portDown_canonical
    | with_reducible apply settle_canonical
    | extract_lets
    | (simp only [↓State.canonical_mk]; with_reducible apply Good.of)
    | split
    | (with_reducible intro _)
    | dsimp only
    | dsimp +zetaDelta only

theorem execLaneRestore_canonical {s : State} (hs : State.canonical s) :
    Leads State.canonical (execLaneRestore s) := by
  unfold execLaneRestore
  repeat' first
    | with_reducible assumption
    | with_reducible apply Leads.next
    | with_reducible exact Leads.fault _
    | with_reducible apply OptLeads.some
    | with_reducible exact OptLeads.none
    | with_reducible apply OptLeads.map
    | with_reducible apply showMirror_canonical
    | with_reducible apply recordLane_canonical
    | with_reducible apply portDown_canonical
    | with_reducible apply settle_canonical
    | with_reducible apply land_canonical
    | with_reducible refine Leads.elim (land_canonical _ _ _ ?_ ?_) (by with_reducible assumption)
    | with_reducible apply forEach_canonical
    | with_reducible apply forEach_canonical
    | extract_lets
    | (simp only [↓State.canonical_mk]; with_reducible apply Good.of)
    | split
    | (with_reducible intro _)
    | dsimp only
    | dsimp +zetaDelta only

end Sys2Proof.Machine
end

