-- ==== Sys2Proof/Laws/CanonControl.lean ====
section
/-! SUPPORT. The canonical form is kept by the operations of Machine/Control.lean. -/

set_option linter.all false

namespace Sys2Proof.Machine

theorem startTest_canonical (n kind : Nat) {s : State} (hs : State.canonical s) :
    State.canonical (startTest n kind s) := by
  unfold startTest
  repeat' first
    | with_reducible assumption
    | with_reducible apply Leads.next
    | with_reducible exact Leads.fault _
    | with_reducible apply OptLeads.some
    | with_reducible exact OptLeads.none
    | with_reducible apply OptLeads.map
    | with_reducible apply beginTest_canonical
    | with_reducible apply finish_canonical
    | extract_lets
    | (simp only [↓State.canonical_mk]; with_reducible apply Good.of)
    | split
    | (with_reducible intro _)
    | dsimp only
    | dsimp +zetaDelta only

theorem execSelfTestShort_canonical (cid : Nat) {s : State} (hs : State.canonical s) :
    Leads State.canonical (execSelfTestShort cid s) := by
  unfold execSelfTestShort
  repeat' first
    | with_reducible assumption
    | with_reducible apply Leads.next
    | with_reducible exact Leads.fault _
    | with_reducible apply OptLeads.some
    | with_reducible exact OptLeads.none
    | with_reducible apply OptLeads.map
    | with_reducible apply startTest_canonical
    | with_reducible apply refuse_canonical
    | with_reducible apply runAdmin_canonical
    | with_reducible refine Leads.elim (runAdmin_canonical _ _ _ _ ?_ ?_) (by with_reducible assumption)
    | extract_lets
    | (simp only [↓State.canonical_mk]; with_reducible apply Good.of)
    | split
    | (with_reducible intro _)
    | dsimp only
    | dsimp +zetaDelta only

theorem execSelfTestExtended_canonical (cid : Nat) {s : State} (hs : State.canonical s) :
    Leads State.canonical (execSelfTestExtended cid s) := by
  unfold execSelfTestExtended
  repeat' first
    | with_reducible assumption
    | with_reducible apply Leads.next
    | with_reducible exact Leads.fault _
    | with_reducible apply OptLeads.some
    | with_reducible exact OptLeads.none
    | with_reducible apply OptLeads.map
    | with_reducible apply startTest_canonical
    | with_reducible apply runAdmin_canonical
    | with_reducible refine Leads.elim (runAdmin_canonical _ _ _ _ ?_ ?_) (by with_reducible assumption)
    | extract_lets
    | (simp only [↓State.canonical_mk]; with_reducible apply Good.of)
    | split
    | (with_reducible intro _)
    | dsimp only
    | dsimp +zetaDelta only

theorem execSelfTestAbort_canonical (cid : Nat) {s : State} (hs : State.canonical s) :
    Leads State.canonical (execSelfTestAbort cid s) := by
  unfold execSelfTestAbort
  repeat' first
    | with_reducible assumption
    | with_reducible apply Leads.next
    | with_reducible exact Leads.fault _
    | with_reducible apply OptLeads.some
    | with_reducible exact OptLeads.none
    | with_reducible apply OptLeads.map
    | with_reducible apply runAdmin_canonical
    | with_reducible refine Leads.elim (runAdmin_canonical _ _ _ _ ?_ ?_) (by with_reducible assumption)
    | with_reducible apply endTest_canonical
    | with_reducible apply finish_canonical
    | extract_lets
    | (simp only [↓State.canonical_mk]; with_reducible apply Good.of)
    | split
    | (with_reducible intro _)
    | dsimp only
    | dsimp +zetaDelta only

theorem execSelfTestResume_canonical {s : State} (hs : State.canonical s) :
    Leads State.canonical (execSelfTestResume s) := by
  unfold execSelfTestResume
  repeat' first
    | with_reducible assumption
    | with_reducible apply Leads.next
    | with_reducible exact Leads.fault _
    | with_reducible apply OptLeads.some
    | with_reducible exact OptLeads.none
    | with_reducible apply OptLeads.map
    | extract_lets
    | (simp only [↓State.canonical_mk]; with_reducible apply Good.of)
    | split
    | (with_reducible intro _)
    | dsimp only
    | dsimp +zetaDelta only

theorem restartGraze_canonical (a : Nat) {s : State} (hs : State.canonical s) :
    State.canonical (restartGraze a s) := by
  unfold restartGraze
  repeat' first
    | with_reducible assumption
    | with_reducible apply Leads.next
    | with_reducible exact Leads.fault _
    | with_reducible apply OptLeads.some
    | with_reducible exact OptLeads.none
    | with_reducible apply OptLeads.map
    | with_reducible apply onCare_canonical
    | extract_lets
    | (simp only [↓State.canonical_mk]; with_reducible apply Good.of)
    | split
    | (with_reducible intro _)
    | dsimp only
    | dsimp +zetaDelta only

theorem endExtendedOn_canonical (reads : List (Nat × RowTwice)) (a : Nat) {s : State} (hs : State.canonical s) :
    State.canonical (endExtendedOn reads a s) := by
  unfold endExtendedOn
  repeat' first
    | with_reducible assumption
    | with_reducible apply Leads.next
    | with_reducible exact Leads.fault _
    | with_reducible apply OptLeads.some
    | with_reducible exact OptLeads.none
    | with_reducible apply OptLeads.map
    | with_reducible apply restartGraze_canonical
    | with_reducible apply grazeRows_canonical
    | with_reducible apply stat_canonical
    | extract_lets
    | (simp only [↓State.canonical_mk]; with_reducible apply Good.of)
    | split
    | (with_reducible intro _)
    | dsimp only
    | dsimp +zetaDelta only

theorem nextTestArray_canonical {s : State} (hs : State.canonical s) :
    State.canonical (nextTestArray s) := by
  unfold nextTestArray
  repeat' first
    | with_reducible assumption
    | with_reducible apply Leads.next
    | with_reducible exact Leads.fault _
    | with_reducible apply OptLeads.some
    | with_reducible exact OptLeads.none
    | with_reducible apply OptLeads.map
    | with_reducible apply endTest_canonical
    | with_reducible apply wakeSlot_canonical
    | with_reducible apply forEach_canonical
    | with_reducible apply forEach_canonical
    | extract_lets
    | (simp only [↓State.canonical_mk]; with_reducible apply Good.of)
    | split
    | (with_reducible intro _)
    | dsimp only
    | dsimp +zetaDelta only

theorem endShort_canonical (f : ShortFindings) {s : State} (hs : State.canonical s) :
    State.canonical (endShort f s) := by
  unfold endShort
  repeat' first
    | with_reducible assumption
    | with_reducible apply Leads.next
    | with_reducible exact Leads.fault _
    | with_reducible apply OptLeads.some
    | with_reducible exact OptLeads.none
    | with_reducible apply OptLeads.map
    | with_reducible apply retireCore_canonical
    | with_reducible apply healLcap_canonical
    | with_reducible apply settleEngine_canonical
    | with_reducible apply onEng_canonical
    | with_reducible apply forEach_canonical
    | with_reducible apply forEach_canonical
    | extract_lets
    | (simp only [↓State.canonical_mk]; with_reducible apply Good.of)
    | split
    | (with_reducible intro _)
    | dsimp only
    | dsimp +zetaDelta only

theorem execSelfTestDone_canonical (found : ShortFindings) (reads : List (Nat × RowTwice)) {s : State} (hs : State.canonical s) :
    Leads State.canonical (execSelfTestDone found reads s) := by
  unfold execSelfTestDone
  repeat' first
    | with_reducible assumption
    | with_reducible apply Leads.next
    | with_reducible exact Leads.fault _
    | with_reducible apply OptLeads.some
    | with_reducible exact OptLeads.none
    | with_reducible apply OptLeads.map
    | with_reducible apply endShort_canonical
    | with_reducible apply nextTestArray_canonical
    | with_reducible apply endExtendedOn_canonical
    | with_reducible apply after_canonical
    | extract_lets
    | (simp only [↓State.canonical_mk]; with_reducible apply Good.of)
    | split
    | (with_reducible intro _)
    | dsimp only
    | dsimp +zetaDelta only

theorem beginCmd_canonical (n : Nat) {s : State} (hs : State.canonical s) :
    State.canonical (beginCmd n s) := by
  unfold beginCmd
  repeat' first
    | with_reducible assumption
    | with_reducible apply Leads.next
    | with_reducible exact Leads.fault _
    | with_reducible apply OptLeads.some
    | with_reducible exact OptLeads.none
    | with_reducible apply OptLeads.map
    | with_reducible apply onCmd_canonical
    | extract_lets
    | (simp only [↓State.canonical_mk]; with_reducible apply Good.of)
    | split
    | (with_reducible intro _)
    | dsimp only
    | dsimp +zetaDelta only

theorem awaitPark_canonical (n : Nat) {s : State} (hs : State.canonical s) :
    State.canonical (awaitPark n s) := by
  unfold awaitPark
  repeat' first
    | with_reducible assumption
    | with_reducible apply Leads.next
    | with_reducible exact Leads.fault _
    | with_reducible apply OptLeads.some
    | with_reducible exact OptLeads.none
    | with_reducible apply OptLeads.map
    | with_reducible apply beginCmd_canonical
    | extract_lets
    | (simp only [↓State.canonical_mk]; with_reducible apply Good.of)
    | split
    | (with_reducible intro _)
    | dsimp only
    | dsimp +zetaDelta only

theorem awaitWake_canonical (n : Nat) {s : State} (hs : State.canonical s) :
    State.canonical (awaitWake n s) := by
  unfold awaitWake
  repeat' first
    | with_reducible assumption
    | with_reducible apply Leads.next
    | with_reducible exact Leads.fault _
    | with_reducible apply OptLeads.some
    | with_reducible exact OptLeads.none
    | with_reducible apply OptLeads.map
    | with_reducible apply beginCmd_canonical
    | extract_lets
    | (simp only [↓State.canonical_mk]; with_reducible apply Good.of)
    | split
    | (with_reducible intro _)
    | dsimp only
    | dsimp +zetaDelta only

theorem execPowerStateQuery_canonical (cid : Nat) {s : State} (hs : State.canonical s) :
    Leads State.canonical (execPowerStateQuery cid s) := by
  unfold execPowerStateQuery
  repeat' first
    | with_reducible assumption
    | with_reducible apply Leads.next
    | with_reducible exact Leads.fault _
    | with_reducible apply OptLeads.some
    | with_reducible exact OptLeads.none
    | with_reducible apply OptLeads.map
    | with_reducible apply refuse_canonical
    | with_reducible apply runAdmin_canonical
    | with_reducible refine Leads.elim (runAdmin_canonical _ _ _ _ ?_ ?_) (by with_reducible assumption)
    | with_reducible apply finish_canonical
    | extract_lets
    | (simp only [↓State.canonical_mk]; with_reducible apply Good.of)
    | split
    | (with_reducible intro _)
    | dsimp only
    | dsimp +zetaDelta only

theorem execPowerStatePark_canonical (cid : Nat) {s : State} (hs : State.canonical s) :
    Leads State.canonical (execPowerStatePark cid s) := by
  unfold execPowerStatePark
  repeat' first
    | with_reducible assumption
    | with_reducible apply Leads.next
    | with_reducible exact Leads.fault _
    | with_reducible apply OptLeads.some
    | with_reducible exact OptLeads.none
    | with_reducible apply OptLeads.map
    | with_reducible apply awaitPark_canonical
    | with_reducible apply runAdmin_canonical
    | with_reducible refine Leads.elim (runAdmin_canonical _ _ _ _ ?_ ?_) (by with_reducible assumption)
    | with_reducible apply settle_canonical
    | with_reducible apply finish_canonical
    | extract_lets
    | (simp only [↓State.canonical_mk]; with_reducible apply Good.of)
    | split
    | (with_reducible intro _)
    | dsimp only
    | dsimp +zetaDelta only

theorem execPowerStateWake_canonical (cid : Nat) {s : State} (hs : State.canonical s) :
    Leads State.canonical (execPowerStateWake cid s) := by
  unfold execPowerStateWake
  repeat' first
    | with_reducible assumption
    | with_reducible apply Leads.next
    | with_reducible exact Leads.fault _
    | with_reducible apply OptLeads.some
    | with_reducible exact OptLeads.none
    | with_reducible apply OptLeads.map
    | with_reducible apply awaitWake_canonical
    | with_reducible apply runAdmin_canonical
    | with_reducible refine Leads.elim (runAdmin_canonical _ _ _ _ ?_ ?_) (by with_reducible assumption)
    | with_reducible apply startWake_canonical
    | with_reducible apply finish_canonical
    | extract_lets
    | (simp only [↓State.canonical_mk]; with_reducible apply Good.of)
    | split
    | (with_reducible intro _)
    | dsimp only
    | dsimp +zetaDelta only

theorem refuseRole_canonical (n reason : Nat) {s : State} (hs : State.canonical s) :
    State.canonical (refuseRole n reason s) := by
  unfold refuseRole
  repeat' first
    | with_reducible assumption
    | with_reducible apply Leads.next
    | with_reducible exact Leads.fault _
    | with_reducible apply OptLeads.some
    | with_reducible exact OptLeads.none
    | with_reducible apply OptLeads.map
    | with_reducible apply refuse_canonical
    | extract_lets
    | (simp only [↓State.canonical_mk]; with_reducible apply Good.of)
    | split
    | (with_reducible intro _)
    | dsimp only
    | dsimp +zetaDelta only

theorem awaitRole_canonical (n action : Nat) {s : State} (hs : State.canonical s) :
    State.canonical (awaitRole n action s) := by
  unfold awaitRole
  repeat' first
    | with_reducible assumption
    | with_reducible apply Leads.next
    | with_reducible exact Leads.fault _
    | with_reducible apply OptLeads.some
    | with_reducible exact OptLeads.none
    | with_reducible apply OptLeads.map
    | with_reducible apply beginCmd_canonical
    | extract_lets
    | (simp only [↓State.canonical_mk]; with_reducible apply Good.of)
    | split
    | (with_reducible intro _)
    | dsimp only
    | dsimp +zetaDelta only

theorem execSwap_canonical (cid : Nat) {s : State} (hs : State.canonical s) :
    Leads State.canonical (execSwap cid s) := by
  unfold execSwap
  repeat' first
    | with_reducible assumption
    | with_reducible apply Leads.next
    | with_reducible exact Leads.fault _
    | with_reducible apply OptLeads.some
    | with_reducible exact OptLeads.none
    | with_reducible apply OptLeads.map
    | with_reducible apply awaitRole_canonical
    | with_reducible apply refuseRole_canonical
    | with_reducible apply refuse_canonical
    | with_reducible apply runAdmin_canonical
    | with_reducible refine Leads.elim (runAdmin_canonical _ _ _ _ ?_ ?_) (by with_reducible assumption)
    | with_reducible apply settle_canonical
    | with_reducible apply wantHandover_canonical
    | with_reducible apply finish_canonical
    | extract_lets
    | (simp only [↓State.canonical_mk]; with_reducible apply Good.of)
    | split
    | (with_reducible intro _)
    | dsimp only
    | dsimp +zetaDelta only

theorem execEnterService_canonical (cid : Nat) {s : State} (hs : State.canonical s) :
    Leads State.canonical (execEnterService cid s) := by
  unfold execEnterService
  repeat' first
    | with_reducible assumption
    | with_reducible apply Leads.next
    | with_reducible exact Leads.fault _
    | with_reducible apply OptLeads.some
    | with_reducible exact OptLeads.none
    | with_reducible apply OptLeads.map
    | with_reducible apply awaitRole_canonical
    | with_reducible apply refuseRole_canonical
    | with_reducible apply runAdmin_canonical
    | with_reducible refine Leads.elim (runAdmin_canonical _ _ _ _ ?_ ?_) (by with_reducible assumption)
    | with_reducible apply settle_canonical
    | with_reducible apply wantHandover_canonical
    | with_reducible apply finish_canonical
    | extract_lets
    | (simp only [↓State.canonical_mk]; with_reducible apply Good.of)
    | split
    | (with_reducible intro _)
    | dsimp only
    | dsimp +zetaDelta only

theorem execLeaveService_canonical (cid : Nat) {s : State} (hs : State.canonical s) :
    Leads State.canonical (execLeaveService cid s) := by
  unfold execLeaveService
  repeat' first
    | with_reducible assumption
    | with_reducible apply Leads.next
    | with_reducible exact Leads.fault _
    | with_reducible apply OptLeads.some
    | with_reducible exact OptLeads.none
    | with_reducible apply OptLeads.map
    | with_reducible apply refuseRole_canonical
    | with_reducible apply runAdmin_canonical
    | with_reducible refine Leads.elim (runAdmin_canonical _ _ _ _ ?_ ?_) (by with_reducible assumption)
    | with_reducible apply settle_canonical
    | with_reducible apply claimLines_canonical
    | with_reducible apply leaveParked_canonical
    | with_reducible apply enterStandby_canonical
    | with_reducible apply roleChanged_canonical
    | with_reducible apply finish_canonical
    | with_reducible apply useFree_canonical
    | with_reducible apply setF_canonical
    | with_reducible apply setF_canonical
    | extract_lets
    | (simp only [↓State.canonical_mk]; with_reducible apply Good.of)
    | split
    | (with_reducible intro _)
    | dsimp only
    | dsimp +zetaDelta only

theorem execSetPreferred_canonical (cid : Nat) {s : State} (hs : State.canonical s) :
    Leads State.canonical (execSetPreferred cid s) := by
  unfold execSetPreferred
  repeat' first
    | with_reducible assumption
    | with_reducible apply Leads.next
    | with_reducible exact Leads.fault _
    | with_reducible apply OptLeads.some
    | with_reducible exact OptLeads.none
    | with_reducible apply OptLeads.map
    | with_reducible apply refuse_canonical
    | with_reducible apply runAdmin_canonical
    | with_reducible refine Leads.elim (runAdmin_canonical _ _ _ _ ?_ ?_) (by with_reducible assumption)
    | with_reducible apply finish_canonical
    | with_reducible apply sendMir_canonical
    | with_reducible apply setF_canonical
    | with_reducible apply setF_canonical
    | extract_lets
    | (simp only [↓State.canonical_mk]; with_reducible apply Good.of)
    | split
    | (with_reducible intro _)
    | dsimp only
    | dsimp +zetaDelta only

theorem execRevertNow_canonical (cid : Nat) (tested persists : Bool) {s : State} (hs : State.canonical s) :
    Leads State.canonical (execRevertNow cid tested persists s) := by
  unfold execRevertNow
  repeat' first
    | with_reducible assumption
    | with_reducible apply Leads.next
    | with_reducible exact Leads.fault _
    | with_reducible apply OptLeads.some
    | with_reducible exact OptLeads.none
    | with_reducible apply OptLeads.map
    | with_reducible apply awaitRole_canonical
    | with_reducible apply refuseRole_canonical
    | with_reducible apply exchangeRoles_canonical
    | with_reducible apply runAdmin_canonical
    | with_reducible refine Leads.elim (runAdmin_canonical _ _ _ _ ?_ ?_) (by with_reducible assumption)
    | with_reducible apply settle_canonical
    | with_reducible apply wantHandover_canonical
    | with_reducible apply finish_canonical
    | extract_lets
    | (simp only [↓State.canonical_mk]; with_reducible apply Good.of)
    | split
    | (with_reducible intro _)
    | dsimp only
    | dsimp +zetaDelta only

theorem execFirmwareStage_canonical (piece : StagePiece) {s : State} (hs : State.canonical s) :
    Leads State.canonical (execFirmwareStage piece s) := by
  unfold execFirmwareStage
  repeat' first
    | with_reducible assumption
    | with_reducible apply Leads.next
    | with_reducible exact Leads.fault _
    | with_reducible apply OptLeads.some
    | with_reducible exact OptLeads.none
    | with_reducible apply OptLeads.map
    | with_reducible apply withBuffer_canonical
    | with_reducible apply refuse_canonical
    | with_reducible apply runAdmin_canonical
    | with_reducible refine Leads.elim (runAdmin_canonical _ _ _ _ ?_ ?_) (by with_reducible assumption)
    | with_reducible apply fromHost_canonical
    | with_reducible apply finish_canonical
    | extract_lets
    | (simp only [↓State.canonical_mk]; with_reducible apply Good.of)
    | split
    | (with_reducible intro _)
    | dsimp only
    | dsimp +zetaDelta only

theorem storeImage_canonical (slot number : Nat) {s : State} (hs : State.canonical s) :
    State.canonical (storeImage slot number s) := by
  unfold storeImage
  repeat' first
    | with_reducible assumption
    | with_reducible apply Leads.next
    | with_reducible exact Leads.fault _
    | with_reducible apply OptLeads.some
    | with_reducible exact OptLeads.none
    | with_reducible apply OptLeads.map
    | extract_lets
    | (simp only [↓State.canonical_mk]; with_reducible apply Good.of)
    | split
    | (with_reducible intro _)
    | dsimp only
    | dsimp +zetaDelta only

theorem execFwCommitStore_canonical (cid : Nat) (image : ImageFacts) {s : State} (hs : State.canonical s) :
    Leads State.canonical (execFwCommitStore cid image s) := by
  unfold execFwCommitStore
  repeat' first
    | with_reducible assumption
    | with_reducible apply Leads.next
    | with_reducible exact Leads.fault _
    | with_reducible apply OptLeads.some
    | with_reducible exact OptLeads.none
    | with_reducible apply OptLeads.map
    | with_reducible apply storeImage_canonical
    | with_reducible apply refuse_canonical
    | with_reducible apply runAdmin_canonical
    | with_reducible refine Leads.elim (runAdmin_canonical _ _ _ _ ?_ ?_) (by with_reducible assumption)
    | with_reducible apply finish_canonical
    | extract_lets
    | (simp only [↓State.canonical_mk]; with_reducible apply Good.of)
    | split
    | (with_reducible intro _)
    | dsimp only
    | dsimp +zetaDelta only

theorem execFwCommitStoreActivateNext_canonical (cid : Nat) (image : ImageFacts) {s : State} (hs : State.canonical s) :
    Leads State.canonical (execFwCommitStoreActivateNext cid image s) := by
  unfold execFwCommitStoreActivateNext
  repeat' first
    | with_reducible assumption
    | with_reducible apply Leads.next
    | with_reducible exact Leads.fault _
    | with_reducible apply OptLeads.some
    | with_reducible exact OptLeads.none
    | with_reducible apply OptLeads.map
    | with_reducible apply storeImage_canonical
    | with_reducible apply refuse_canonical
    | with_reducible apply runAdmin_canonical
    | with_reducible refine Leads.elim (runAdmin_canonical _ _ _ _ ?_ ?_) (by with_reducible assumption)
    | with_reducible apply finish_canonical
    | with_reducible apply setF_canonical
    | with_reducible apply setF_canonical
    | extract_lets
    | (simp only [↓State.canonical_mk]; with_reducible apply Good.of)
    | split
    | (with_reducible intro _)
    | dsimp only
    | dsimp +zetaDelta only

theorem execFwCommitActivateNext_canonical (cid : Nat) {s : State} (hs : State.canonical s) :
    Leads State.canonical (execFwCommitActivateNext cid s) := by
  unfold execFwCommitActivateNext
  repeat' first
    | with_reducible assumption
    | with_reducible apply Leads.next
    | with_reducible exact Leads.fault _
    | with_reducible apply OptLeads.some
    | with_reducible exact OptLeads.none
    | with_reducible apply OptLeads.map
    | with_reducible apply refuse_canonical
    | with_reducible apply runAdmin_canonical
    | with_reducible refine Leads.elim (runAdmin_canonical _ _ _ _ ?_ ?_) (by with_reducible assumption)
    | with_reducible apply finish_canonical
    | with_reducible apply setF_canonical
    | with_reducible apply setF_canonical
    | extract_lets
    | (simp only [↓State.canonical_mk]; with_reducible apply Good.of)
    | split
    | (with_reducible intro _)
    | dsimp only
    | dsimp +zetaDelta only

theorem execFwCommitInstallRoot_canonical (cid : Nat) (image : ImageFacts) {s : State} (hs : State.canonical s) :
    Leads State.canonical (execFwCommitInstallRoot cid image s) := by
  unfold execFwCommitInstallRoot
  repeat' first
    | with_reducible assumption
    | with_reducible apply Leads.next
    | with_reducible exact Leads.fault _
    | with_reducible apply OptLeads.some
    | with_reducible exact OptLeads.none
    | with_reducible apply OptLeads.map
    | with_reducible apply refuse_canonical
    | with_reducible apply runAdmin_canonical
    | with_reducible refine Leads.elim (runAdmin_canonical _ _ _ _ ?_ ?_) (by with_reducible assumption)
    | with_reducible apply finish_canonical
    | extract_lets
    | (simp only [↓State.canonical_mk]; with_reducible apply Good.of)
    | split
    | (with_reducible intro _)
    | dsimp only
    | dsimp +zetaDelta only

theorem execPackAuthenticate_canonical (cid : Nat) (ok : Bool) {s : State} (hs : State.canonical s) :
    Leads State.canonical (execPackAuthenticate cid ok s) := by
  unfold execPackAuthenticate
  repeat' first
    | with_reducible assumption
    | with_reducible apply Leads.next
    | with_reducible exact Leads.fault _
    | with_reducible apply OptLeads.some
    | with_reducible exact OptLeads.none
    | with_reducible apply OptLeads.map
    | with_reducible apply authOutcome_canonical
    | with_reducible apply refuse_canonical
    | with_reducible apply runAdmin_canonical
    | with_reducible refine Leads.elim (runAdmin_canonical _ _ _ _ ?_ ?_) (by with_reducible assumption)
    | with_reducible apply finish_canonical
    | extract_lets
    | (simp only [↓State.canonical_mk]; with_reducible apply Good.of)
    | split
    | (with_reducible intro _)
    | dsimp only
    | dsimp +zetaDelta only

theorem rootChanged_canonical (ok : Bool) {s : State} (hs : State.canonical s) :
    State.canonical (rootChanged ok s) := by
  unfold rootChanged
  repeat' first
    | with_reducible assumption
    | with_reducible apply Leads.next
    | with_reducible exact Leads.fault _
    | with_reducible apply OptLeads.some
    | with_reducible exact OptLeads.none
    | with_reducible apply OptLeads.map
    | with_reducible apply authOutcome_canonical
    | extract_lets
    | (simp only [↓State.canonical_mk]; with_reducible apply Good.of)
    | split
    | (with_reducible intro _)
    | dsimp only
    | dsimp +zetaDelta only

theorem execPackInstallRoot_canonical (cid root : Nat) (ok : Bool) {s : State} (hs : State.canonical s) :
    Leads State.canonical (execPackInstallRoot cid root ok s) := by
  unfold execPackInstallRoot
  repeat' first
    | with_reducible assumption
    | with_reducible apply Leads.next
    | with_reducible exact Leads.fault _
    | with_reducible apply OptLeads.some
    | with_reducible exact OptLeads.none
    | with_reducible apply OptLeads.map
    | with_reducible apply rootChanged_canonical
    | with_reducible apply withBuffer_canonical
    | with_reducible apply refuse_canonical
    | with_reducible apply runAdmin_canonical
    | with_reducible refine Leads.elim (runAdmin_canonical _ _ _ _ ?_ ?_) (by with_reducible assumption)
    | with_reducible apply fromHost_canonical
    | with_reducible apply finish_canonical
    | extract_lets
    | (simp only [↓State.canonical_mk]; with_reducible apply Good.of)
    | split
    | (with_reducible intro _)
    | dsimp only
    | dsimp +zetaDelta only

theorem execPackRemoveRoot_canonical (cid : Nat) (ok : Bool) {s : State} (hs : State.canonical s) :
    Leads State.canonical (execPackRemoveRoot cid ok s) := by
  unfold execPackRemoveRoot
  repeat' first
    | with_reducible assumption
    | with_reducible apply Leads.next
    | with_reducible exact Leads.fault _
    | with_reducible apply OptLeads.some
    | with_reducible exact OptLeads.none
    | with_reducible apply OptLeads.map
    | with_reducible apply rootChanged_canonical
    | with_reducible apply refuse_canonical
    | with_reducible apply runAdmin_canonical
    | with_reducible refine Leads.elim (runAdmin_canonical _ _ _ _ ?_ ?_) (by with_reducible assumption)
    | with_reducible apply finish_canonical
    | extract_lets
    | (simp only [↓State.canonical_mk]; with_reducible apply Good.of)
    | split
    | (with_reducible intro _)
    | dsimp only
    | dsimp +zetaDelta only

end Sys2Proof.Machine
end

