-- ==== Sys2Proof/Laws/CanonCopy.lean ====
section
/-! SUPPORT. The canonical form is kept by the operations of Machine/Copy.lean. -/

set_option linter.all false

namespace Sys2Proof.Machine

theorem copyStop_canonical (n : Nat) {s : State} (hs : State.canonical s) :
    State.canonical (copyStop n s) := by
  unfold copyStop
  repeat' first
    | with_reducible assumption
    | with_reducible apply Leads.next
    | with_reducible exact Leads.fault _
    | with_reducible apply OptLeads.some
    | with_reducible exact OptLeads.none
    | with_reducible apply OptLeads.map
    | with_reducible apply endWrite_canonical
    | with_reducible apply onCmd_canonical
    | extract_lets
    | (simp only [↓State.canonical_mk]; with_reducible apply Good.of)
    | split
    | (with_reducible intro _)
    | dsimp only
    | dsimp +zetaDelta only

theorem checkRow_canonical (c : Cmd) (blocks : List Block) {s : State} (hs : State.canonical s) :
    State.canonical (checkRow c blocks s).2 := by
  unfold checkRow
  repeat' first
    | with_reducible assumption
    | with_reducible apply Leads.next
    | with_reducible exact Leads.fault _
    | with_reducible apply OptLeads.some
    | with_reducible exact OptLeads.none
    | with_reducible apply OptLeads.map
    | with_reducible apply checkBlocks_canonical
    | with_reducible refine checkBlocks_canonical_eq _ _ _ ?_ (by with_reducible assumption)
    | extract_lets
    | (simp only [↓State.canonical_mk]; with_reducible apply Good.of)
    | split
    | (with_reducible intro _)
    | dsimp only
    | dsimp +zetaDelta only

theorem checkRow_canonical_eq (c : Cmd) (blocks : List Block) {s : State} (hs : State.canonical s) {x y} (e : checkRow c blocks s = (x, y)) : State.canonical y := by
  have := checkRow_canonical c blocks hs
  rw [e] at this; exact this

theorem landRow_canonical (n : Nat) (c : Cmd) (v lba : Nat) (blocks : List Block) (bad : Option (Nat × Nat)) {s : State} (hs : State.canonical s) :
    State.canonical (landRow n c v lba blocks bad s) := by
  unfold landRow
  repeat' first
    | with_reducible assumption
    | with_reducible apply Leads.next
    | with_reducible exact Leads.fault _
    | with_reducible apply OptLeads.some
    | with_reducible exact OptLeads.none
    | with_reducible apply OptLeads.map
    | with_reducible apply copyStop_canonical
    | with_reducible apply commitRow_canonical
    | with_reducible apply ingestFails_canonical
    | with_reducible apply landBlocks_canonical
    | with_reducible refine landBlocks_canonical_eq _ ?_ (by with_reducible assumption)
    | extract_lets
    | (simp only [↓State.canonical_mk]; with_reducible apply Good.of)
    | split
    | (with_reducible intro _)
    | dsimp only
    | dsimp +zetaDelta only

theorem copyRow_canonical (n : Nat) (c : Cmd) {s : State} (hs : State.canonical s) :
    State.canonical (copyRow n c s) := by
  unfold copyRow
  repeat' first
    | with_reducible assumption
    | with_reducible apply Leads.next
    | with_reducible exact Leads.fault _
    | with_reducible apply OptLeads.some
    | with_reducible exact OptLeads.none
    | with_reducible apply OptLeads.map
    | with_reducible apply landRow_canonical
    | with_reducible apply checkRow_canonical
    | with_reducible refine checkRow_canonical_eq _ _ ?_ (by with_reducible assumption)
    | with_reducible apply copyStop_canonical
    | with_reducible apply finish_canonical
    | extract_lets
    | (simp only [↓State.canonical_mk]; with_reducible apply Good.of)
    | split
    | (with_reducible intro _)
    | dsimp only
    | dsimp +zetaDelta only

theorem onCopy_canonical (id : Nat) (f : CopyOut → CopyOut) {s : State} (hs : State.canonical s) :
    State.canonical (onCopy id f s) := by
  unfold onCopy
  repeat' first
    | with_reducible assumption
    | with_reducible apply Leads.next
    | with_reducible exact Leads.fault _
    | with_reducible apply OptLeads.some
    | with_reducible exact OptLeads.none
    | with_reducible apply OptLeads.map
    | with_reducible apply id_canonical
    | extract_lets
    | (simp only [↓State.canonical_mk]; with_reducible apply Good.of)
    | split
    | (with_reducible intro _)
    | dsimp only
    | dsimp +zetaDelta only

theorem dropCopy_canonical (id : Nat) {s : State} (hs : State.canonical s) :
    State.canonical (dropCopy id s) := by
  unfold dropCopy
  repeat' first
    | with_reducible assumption
    | with_reducible apply Leads.next
    | with_reducible exact Leads.fault _
    | with_reducible apply OptLeads.some
    | with_reducible exact OptLeads.none
    | with_reducible apply OptLeads.map
    | with_reducible apply id_canonical
    | extract_lets
    | (simp only [↓State.canonical_mk]; with_reducible apply Good.of)
    | split
    | (with_reducible intro _)
    | dsimp only
    | dsimp +zetaDelta only

theorem endCopy_canonical (x : CopyOut) (status result : Nat) {s : State} (hs : State.canonical s) :
    State.canonical (endCopy x status result s) := by
  unfold endCopy
  repeat' first
    | with_reducible assumption
    | with_reducible apply Leads.next
    | with_reducible exact Leads.fault _
    | with_reducible apply OptLeads.some
    | with_reducible exact OptLeads.none
    | with_reducible apply OptLeads.map
    | with_reducible apply dropCopy_canonical
    | with_reducible apply finish_canonical
    | with_reducible apply id_canonical
    | extract_lets
    | (simp only [↓State.canonical_mk]; with_reducible apply Good.of)
    | split
    | (with_reducible intro _)
    | dsimp only
    | dsimp +zetaDelta only

theorem sendBatch_canonical (x : CopyOut) (c : Cmd) (batch : Nat) (b : CopyBatch) {s : State} (hs : State.canonical s) :
    State.canonical (sendBatch x c batch b s) := by
  unfold sendBatch
  repeat' first
    | with_reducible assumption
    | with_reducible apply Leads.next
    | with_reducible exact Leads.fault _
    | with_reducible apply OptLeads.some
    | with_reducible exact OptLeads.none
    | with_reducible apply OptLeads.map
    | with_reducible apply sendFrame_canonical
    | with_reducible apply forEach_canonical
    | with_reducible apply forEach_canonical
    | with_reducible apply id_canonical
    | extract_lets
    | (simp only [↓State.canonical_mk]; with_reducible apply Good.of)
    | split
    | (with_reducible intro _)
    | dsimp only
    | dsimp +zetaDelta only

theorem copySend_canonical (id n : Nat) {s : State} (hs : State.canonical s) :
    State.canonical (copySend id n s) := by
  induction n generalizing s with
  | zero =>
    unfold copySend
    repeat' first
      | with_reducible assumption
      | with_reducible apply Leads.next
      | with_reducible exact Leads.fault _
      | with_reducible apply OptLeads.some
      | with_reducible exact OptLeads.none
      | with_reducible apply OptLeads.map
      | with_reducible apply sendBatch_canonical
      | with_reducible apply endCopy_canonical
      | with_reducible apply dropCopy_canonical
      | with_reducible apply onCopy_canonical
      | with_reducible apply id_canonical
      | extract_lets
      | (simp only [↓State.canonical_mk]; with_reducible apply Good.of)
      | split
      | (with_reducible intro _)
      | dsimp only
      | dsimp +zetaDelta only
  | succ n ih =>
    unfold copySend
    repeat' first
      | with_reducible assumption
      | with_reducible apply Leads.next
      | with_reducible exact Leads.fault _
      | with_reducible apply OptLeads.some
      | with_reducible exact OptLeads.none
      | with_reducible apply OptLeads.map
      | with_reducible apply ih
      | with_reducible apply sendBatch_canonical
      | with_reducible apply endCopy_canonical
      | with_reducible apply dropCopy_canonical
      | with_reducible apply onCopy_canonical
      | with_reducible apply id_canonical
      | extract_lets
      | (simp only [↓State.canonical_mk]; with_reducible apply Good.of)
      | split
      | (with_reducible intro _)
      | dsimp only
      | dsimp +zetaDelta only

theorem copyStart_canonical (n : Nat) (c : Cmd) {s : State} (hs : State.canonical s) :
    State.canonical (copyStart n c s) := by
  unfold copyStart
  repeat' first
    | with_reducible assumption
    | with_reducible apply Leads.next
    | with_reducible exact Leads.fault _
    | with_reducible apply OptLeads.some
    | with_reducible exact OptLeads.none
    | with_reducible apply OptLeads.map
    | with_reducible apply copySend_canonical
    | with_reducible apply id_canonical
    | extract_lets
    | (simp only [↓State.canonical_mk]; with_reducible apply Good.of)
    | split
    | (with_reducible intro _)
    | dsimp only
    | dsimp +zetaDelta only

theorem copyNext_canonical (n : Nat) (c : Cmd) (bad : List Nat) (partner : List (Nat × (Block × Nat))) {s : State} (hs : State.canonical s) :
    State.canonical (copyNext n c bad partner s) := by
  unfold copyNext
  repeat' first
    | with_reducible assumption
    | with_reducible apply Leads.next
    | with_reducible exact Leads.fault _
    | with_reducible apply OptLeads.some
    | with_reducible exact OptLeads.none
    | with_reducible apply OptLeads.map
    | with_reducible apply copyStart_canonical
    | with_reducible apply copySend_canonical
    | with_reducible apply copyRow_canonical
    | with_reducible apply egressFails_canonical
    | with_reducible apply forEach_canonical
    | with_reducible apply forEach_canonical
    | with_reducible apply id_canonical
    | extract_lets
    | (simp only [↓State.canonical_mk]; with_reducible apply Good.of)
    | split
    | (with_reducible intro _)
    | dsimp only
    | dsimp +zetaDelta only

theorem execCopy_canonical (qid cid : Nat) (bad : List Nat) (partner : List (Nat × (Block × Nat))) {s : State} (hs : State.canonical s) :
    Leads State.canonical (execCopy qid cid bad partner s) := by
  unfold execCopy
  repeat' first
    | with_reducible assumption
    | with_reducible apply Leads.next
    | with_reducible exact Leads.fault _
    | with_reducible apply OptLeads.some
    | with_reducible exact OptLeads.none
    | with_reducible apply OptLeads.map
    | with_reducible apply copyNext_canonical
    | with_reducible apply screen_canonical
    | with_reducible apply after_canonical
    | with_reducible apply splitPieces_canonical
    | with_reducible apply finish_canonical
    | with_reducible apply onCmd_canonical
    | extract_lets
    | (simp only [↓State.canonical_mk]; with_reducible apply Good.of)
    | split
    | (with_reducible intro _)
    | dsimp only
    | dsimp +zetaDelta only

theorem copyAcked_canonical (x : CopyOut) (c : Cmd) (batch : Nat) (b : CopyBatch) (status level : Nat) {s : State} (hs : State.canonical s) :
    State.canonical (copyAcked x c batch b status level s) := by
  unfold copyAcked
  repeat' first
    | with_reducible assumption
    | with_reducible apply Leads.next
    | with_reducible exact Leads.fault _
    | with_reducible apply OptLeads.some
    | with_reducible exact OptLeads.none
    | with_reducible apply OptLeads.map
    | with_reducible apply copySend_canonical
    | with_reducible apply sendBatch_canonical
    | with_reducible apply endCopy_canonical
    | with_reducible apply onCopy_canonical
    | with_reducible apply id_canonical
    | extract_lets
    | (simp only [↓State.canonical_mk]; with_reducible apply Good.of)
    | split
    | (with_reducible intro _)
    | dsimp only
    | dsimp +zetaDelta only

theorem execCopyAck_canonical (p : Option (Fin 4)) (id batch status level : Nat) {s : State} (hs : State.canonical s) :
    Leads State.canonical (execCopyAck p id batch status level s) := by
  unfold execCopyAck
  repeat' first
    | with_reducible assumption
    | with_reducible apply Leads.next
    | with_reducible exact Leads.fault _
    | with_reducible apply OptLeads.some
    | with_reducible exact OptLeads.none
    | with_reducible apply OptLeads.map
    | with_reducible apply copyAcked_canonical
    | with_reducible apply dropCopy_canonical
    | with_reducible apply arrive_canonical
    | with_reducible refine Leads.elim (arrive_canonical _ _ _ ?_ ?_) (by with_reducible assumption)
    | with_reducible apply id_canonical
    | extract_lets
    | (simp only [↓State.canonical_mk]; with_reducible apply Good.of)
    | split
    | (with_reducible intro _)
    | dsimp only
    | dsimp +zetaDelta only

theorem execCopyBatchTimeout_canonical (id batch : Nat) {s : State} (hs : State.canonical s) :
    Leads State.canonical (execCopyBatchTimeout id batch s) := by
  unfold execCopyBatchTimeout
  repeat' first
    | with_reducible assumption
    | with_reducible apply Leads.next
    | with_reducible exact Leads.fault _
    | with_reducible apply OptLeads.some
    | with_reducible exact OptLeads.none
    | with_reducible apply OptLeads.map
    | with_reducible apply sendBatch_canonical
    | with_reducible apply endCopy_canonical
    | with_reducible apply dropCopy_canonical
    | with_reducible apply onCopy_canonical
    | with_reducible apply after_canonical
    | with_reducible apply id_canonical
    | extract_lets
    | (simp only [↓State.canonical_mk]; with_reducible apply Good.of)
    | split
    | (with_reducible intro _)
    | dsimp only
    | dsimp +zetaDelta only

theorem execCopyWakeTimeout_canonical (qid cid : Nat) {s : State} (hs : State.canonical s) :
    Leads State.canonical (execCopyWakeTimeout qid cid s) := by
  unfold execCopyWakeTimeout
  repeat' first
    | with_reducible assumption
    | with_reducible apply Leads.next
    | with_reducible exact Leads.fault _
    | with_reducible apply OptLeads.some
    | with_reducible exact OptLeads.none
    | with_reducible apply OptLeads.map
    | with_reducible apply endCopy_canonical
    | with_reducible apply after_canonical
    | extract_lets
    | (simp only [↓State.canonical_mk]; with_reducible apply Good.of)
    | split
    | (with_reducible intro _)
    | dsimp only
    | dsimp +zetaDelta only

theorem commitLanded_canonical (v lba : Nat) (blocks : List Block) {s : State} (hs : State.canonical s) :
    State.canonical (commitLanded v lba blocks s) := by
  unfold commitLanded
  repeat' first
    | with_reducible assumption
    | with_reducible apply Leads.next
    | with_reducible exact Leads.fault _
    | with_reducible apply OptLeads.some
    | with_reducible exact OptLeads.none
    | with_reducible apply OptLeads.map
    | with_reducible apply commitBlocks_canonical
    | with_reducible apply landBlocks_canonical
    | with_reducible refine landBlocks_canonical_eq _ ?_ (by with_reducible assumption)
    | extract_lets
    | (simp only [↓State.canonical_mk]; with_reducible apply Good.of)
    | split
    | (with_reducible intro _)
    | dsimp only
    | dsimp +zetaDelta only

theorem commitRows_canonical (v n lba : Nat) (bs : List Block) {s : State} (hs : State.canonical s) :
    State.canonical (commitRows v n lba bs s) := by
  induction n generalizing lba bs s with
  | zero =>
    unfold commitRows
    repeat' first
      | with_reducible assumption
      | with_reducible apply Leads.next
      | with_reducible exact Leads.fault _
      | with_reducible apply OptLeads.some
      | with_reducible exact OptLeads.none
      | with_reducible apply OptLeads.map
      | with_reducible apply commitLanded_canonical
      | extract_lets
      | (simp only [↓State.canonical_mk]; with_reducible apply Good.of)
      | split
      | (with_reducible intro _)
      | dsimp only
      | dsimp +zetaDelta only
  | succ n ih =>
    unfold commitRows
    repeat' first
      | with_reducible assumption
      | with_reducible apply Leads.next
      | with_reducible exact Leads.fault _
      | with_reducible apply OptLeads.some
      | with_reducible exact OptLeads.none
      | with_reducible apply OptLeads.map
      | with_reducible apply ih
      | with_reducible apply commitLanded_canonical
      | extract_lets
      | (simp only [↓State.canonical_mk]; with_reducible apply Good.of)
      | split
      | (with_reducible intro _)
      | dsimp only
      | dsimp +zetaDelta only

theorem sendCopyAck_canonical (dst id batch status level : Nat) {s : State} (hs : State.canonical s) :
    State.canonical (sendCopyAck dst id batch status level s) := by
  unfold sendCopyAck
  repeat' first
    | with_reducible assumption
    | with_reducible apply Leads.next
    | with_reducible exact Leads.fault _
    | with_reducible apply OptLeads.some
    | with_reducible exact OptLeads.none
    | with_reducible apply OptLeads.map
    | with_reducible apply sendFrame_canonical
    | with_reducible apply id_canonical
    | extract_lets
    | (simp only [↓State.canonical_mk]; with_reducible apply Good.of)
    | split
    | (with_reducible intro _)
    | dsimp only
    | dsimp +zetaDelta only

theorem commitBatch_canonical (b : CopyIn) {s : State} (hs : State.canonical s) :
    State.canonical (commitBatch b s) := by
  unfold commitBatch
  repeat' first
    | with_reducible assumption
    | with_reducible apply Leads.next
    | with_reducible exact Leads.fault _
    | with_reducible apply OptLeads.some
    | with_reducible exact OptLeads.none
    | with_reducible apply OptLeads.map
    | with_reducible apply sendCopyAck_canonical
    | with_reducible apply commitRows_canonical
    | with_reducible apply id_canonical
    | extract_lets
    | (simp only [↓State.canonical_mk]; with_reducible apply Good.of)
    | split
    | (with_reducible intro _)
    | dsimp only
    | dsimp +zetaDelta only

theorem commitBatches_canonical {s : State} (hs : State.canonical s) :
    State.canonical (commitBatches s) := by
  unfold commitBatches
  repeat' first
    | with_reducible assumption
    | with_reducible apply Leads.next
    | with_reducible exact Leads.fault _
    | with_reducible apply OptLeads.some
    | with_reducible exact OptLeads.none
    | with_reducible apply OptLeads.map
    | with_reducible apply commitBatch_canonical
    | with_reducible apply forEach_canonical
    | with_reducible apply forEach_canonical
    | extract_lets
    | (simp only [↓State.canonical_mk]; with_reducible apply Good.of)
    | split
    | (with_reducible intro _)
    | dsimp only
    | dsimp +zetaDelta only

theorem fabricWake_canonical {s : State} (hs : State.canonical s) :
    State.canonical (fabricWake s) := by
  unfold fabricWake
  repeat' first
    | with_reducible assumption
    | with_reducible apply Leads.next
    | with_reducible exact Leads.fault _
    | with_reducible apply OptLeads.some
    | with_reducible exact OptLeads.none
    | with_reducible apply OptLeads.map
    | with_reducible apply startWake_canonical
    | extract_lets
    | (simp only [↓State.canonical_mk]; with_reducible apply Good.of)
    | split
    | (with_reducible intro _)
    | dsimp only
    | dsimp +zetaDelta only

theorem execCopyDesc_canonical (p : Option (Fin 4)) (src batch id lba vol nblkM1 : Nat) (pi : Bool) (crcs guards : List Nat) {s : State} (hs : State.canonical s) :
    Leads State.canonical (execCopyDesc p src batch id lba vol nblkM1 pi crcs guards s) := by
  unfold execCopyDesc
  repeat' first
    | with_reducible assumption
    | with_reducible apply Leads.next
    | with_reducible exact Leads.fault _
    | with_reducible apply OptLeads.some
    | with_reducible exact OptLeads.none
    | with_reducible apply OptLeads.map
    | with_reducible apply fabricWake_canonical
    | with_reducible apply sendCopyAck_canonical
    | with_reducible apply arrive_canonical
    | with_reducible refine Leads.elim (arrive_canonical _ _ _ ?_ ?_) (by with_reducible assumption)
    | with_reducible apply id_canonical
    | extract_lets
    | (simp only [↓State.canonical_mk]; with_reducible apply Good.of)
    | split
    | (with_reducible intro _)
    | dsimp only
    | dsimp +zetaDelta only

theorem execCopyData_canonical (p : Option (Fin 4)) (src batch idx : Nat) (data : Block) {s : State} (hs : State.canonical s) :
    Leads State.canonical (execCopyData p src batch idx data s) := by
  unfold execCopyData
  repeat' first
    | with_reducible assumption
    | with_reducible apply Leads.next
    | with_reducible exact Leads.fault _
    | with_reducible apply OptLeads.some
    | with_reducible exact OptLeads.none
    | with_reducible apply OptLeads.map
    | with_reducible apply commitBatch_canonical
    | with_reducible apply sendCopyAck_canonical
    | with_reducible apply arrive_canonical
    | with_reducible refine Leads.elim (arrive_canonical _ _ _ ?_ ?_) (by with_reducible assumption)
    | with_reducible apply id_canonical
    | extract_lets
    | (simp only [↓State.canonical_mk]; with_reducible apply Good.of)
    | split
    | (with_reducible intro _)
    | dsimp only
    | dsimp +zetaDelta only

end Sys2Proof.Machine
end

