-- ==== Sys2Proof/Laws/CanonSys.lean ====
section
/-! SUPPORT. The canonical form is kept by the operations of Machine/Sys.lean. -/

set_option linter.all false

namespace Sys2Proof.Machine


theorem warmState_canonical {s : State} (hs : State.canonical s) : State.canonical (warmState s) :=
  ⟨Assoc.rising_filter _ hs.1, Memory.wf_filter _ hs.2⟩

theorem keptPins_rising (s : State) : Assoc.rising (keptPins s) = true := by
  unfold keptPins
  exact (forEach_canonical _ _ (setF_canonical _ _ (show State.canonical State.reset from ⟨rfl, rfl⟩)) (fun f t h => setF_canonical _ _ h)).1

theorem coldState_canonical (powerOn : Bool) {s : State} (hs : State.canonical s) : State.canonical (coldState powerOn s) :=
  ⟨keptPins_rising s, Memory.wf_filter _ hs.2⟩

theorem setCause_canonical (kind source : Nat) {s : State} (hs : State.canonical s) :
    State.canonical (setCause kind source s) := by
  unfold setCause
  repeat' first
    | with_reducible assumption
    | with_reducible apply Leads.next
    | with_reducible exact Leads.fault _
    | with_reducible apply OptLeads.some
    | with_reducible exact OptLeads.none
    | with_reducible apply OptLeads.map
    | with_reducible apply setF_canonical
    | with_reducible apply setF_canonical
    | extract_lets
    | (simp only [↓State.canonical_mk]; with_reducible apply Good.of)
    | split
    | (with_reducible intro _)
    | dsimp only
    | dsimp +zetaDelta only

theorem failTry_canonical {s : State} (hs : State.canonical s) :
    State.canonical (failTry s).1 := by
  unfold failTry
  repeat' first
    | with_reducible assumption
    | with_reducible apply Leads.next
    | with_reducible exact Leads.fault _
    | with_reducible apply OptLeads.some
    | with_reducible exact OptLeads.none
    | with_reducible apply OptLeads.map
    | with_reducible apply event_canonical
    | with_reducible apply setF_canonical
    | with_reducible apply setF_canonical
    | extract_lets
    | (simp only [↓State.canonical_mk]; with_reducible apply Good.of)
    | split
    | (with_reducible intro _)
    | dsimp only
    | dsimp +zetaDelta only

theorem failTry_canonical_eq {s : State} (hs : State.canonical s) {x y} (e : failTry s = (x, y)) : State.canonical x := by
  have := failTry_canonical hs
  rw [e] at this; exact this

theorem tryBoot_canonical (n : Nat) {s : State} (hs : State.canonical s) :
    State.canonical (tryBoot n s).1 := by
  induction n generalizing s with
  | zero =>
    unfold tryBoot
    repeat' first
      | with_reducible assumption
      | with_reducible apply Leads.next
      | with_reducible exact Leads.fault _
      | with_reducible apply OptLeads.some
      | with_reducible exact OptLeads.none
      | with_reducible apply OptLeads.map
      | with_reducible apply failTry_canonical
      | with_reducible refine failTry_canonical_eq ?_ (by with_reducible assumption)
      | with_reducible apply setF_canonical
      | with_reducible apply setF_canonical
      | extract_lets
      | (simp only [↓State.canonical_mk]; with_reducible apply Good.of)
      | split
      | (with_reducible intro _)
      | dsimp only
      | dsimp +zetaDelta only
  | succ n ih =>
    unfold tryBoot
    repeat' first
      | with_reducible assumption
      | with_reducible apply Leads.next
      | with_reducible exact Leads.fault _
      | with_reducible apply OptLeads.some
      | with_reducible exact OptLeads.none
      | with_reducible apply OptLeads.map
      | with_reducible apply ih
      | with_reducible apply failTry_canonical
      | with_reducible refine failTry_canonical_eq ?_ (by with_reducible assumption)
      | with_reducible apply setF_canonical
      | with_reducible apply setF_canonical
      | extract_lets
      | (simp only [↓State.canonical_mk]; with_reducible apply Good.of)
      | split
      | (with_reducible intro _)
      | dsimp only
      | dsimp +zetaDelta only

theorem tryBoot_canonical_eq (n : Nat) {s : State} (hs : State.canonical s) {x y} (e : tryBoot n s = (x, y)) : State.canonical x := by
  have := tryBoot_canonical n hs
  rw [e] at this; exact this

theorem abortByReset_canonical (spare : Option Nat) {s : State} (hs : State.canonical s) :
    State.canonical (abortByReset spare s) := by
  unfold abortByReset
  repeat' first
    | with_reducible assumption
    | with_reducible apply Leads.next
    | with_reducible exact Leads.fault _
    | with_reducible apply OptLeads.some
    | with_reducible exact OptLeads.none
    | with_reducible apply OptLeads.map
    | with_reducible apply finishAll_canonical
    | with_reducible apply dropPieces_canonical
    | with_reducible apply forEach_canonical
    | with_reducible apply forEach_canonical
    | extract_lets
    | (simp only [↓State.canonical_mk]; with_reducible apply Good.of)
    | split
    | (with_reducible intro _)
    | dsimp only
    | dsimp +zetaDelta only

theorem resetCtrl_canonical (source : Nat) (flush : Bool) (spare : Option Nat) {s : State} (hs : State.canonical s) :
    State.canonical (resetCtrl source flush spare s) := by
  unfold resetCtrl
  repeat' first
    | with_reducible assumption
    | with_reducible apply Leads.next
    | with_reducible exact Leads.fault _
    | with_reducible apply OptLeads.some
    | with_reducible exact OptLeads.none
    | with_reducible apply OptLeads.map
    | with_reducible apply abortByReset_canonical
    | with_reducible apply setCause_canonical
    | with_reducible apply resetRegs_canonical
    | with_reducible apply clearCache_canonical
    | with_reducible apply maintain_canonical
    | with_reducible apply endTest_canonical
    | with_reducible apply when_canonical
    | with_reducible apply bump_canonical
    | with_reducible apply setF_canonical
    | with_reducible apply setF_canonical
    | with_reducible apply when_canonical
    | extract_lets
    | (simp only [↓State.canonical_mk]; with_reducible apply Good.of)
    | split
    | (with_reducible intro _)
    | dsimp only
    | dsimp +zetaDelta only

theorem refillEngines_canonical {s : State} (hs : State.canonical s) :
    State.canonical (refillEngines s) := by
  unfold refillEngines
  repeat' first
    | with_reducible assumption
    | with_reducible apply Leads.next
    | with_reducible exact Leads.fault _
    | with_reducible apply OptLeads.some
    | with_reducible exact OptLeads.none
    | with_reducible apply OptLeads.map
    | with_reducible apply setEng_canonical
    | with_reducible apply forEach_canonical
    | with_reducible apply forEach_canonical
    | extract_lets
    | (simp only [↓State.canonical_mk]; with_reducible apply Good.of)
    | split
    | (with_reducible intro _)
    | dsimp only
    | dsimp +zetaDelta only

theorem resetWarm_canonical (source : Nat) (image : Bool) {s : State} (hs : State.canonical s) :
    State.canonical (resetWarm source image s) := by
  unfold resetWarm
  repeat' first
    | with_reducible assumption
    | with_reducible apply Leads.next
    | with_reducible exact Leads.fault _
    | with_reducible apply OptLeads.some
    | with_reducible exact OptLeads.none
    | with_reducible apply OptLeads.map
    | with_reducible apply warmState_canonical
    | with_reducible apply refillEngines_canonical
    | with_reducible apply setCause_canonical
    | with_reducible apply writeImage_canonical
    | with_reducible apply endTest_canonical
    | with_reducible apply abortMembers_canonical
    | with_reducible apply when_canonical
    | with_reducible apply event_canonical
    | with_reducible apply bump_canonical
    | with_reducible apply setF_canonical
    | with_reducible apply setF_canonical
    | with_reducible apply when_canonical
    | extract_lets
    | (simp only [↓State.canonical_mk]; with_reducible apply Good.of)
    | split
    | (with_reducible intro _)
    | dsimp only
    | dsimp +zetaDelta only

theorem bothSlotsFailed_canonical {s : State} (hs : State.canonical s) :
    State.canonical (bothSlotsFailed s) := by
  unfold bothSlotsFailed
  repeat' first
    | with_reducible assumption
    | with_reducible apply Leads.next
    | with_reducible exact Leads.fault _
    | with_reducible apply OptLeads.some
    | with_reducible exact OptLeads.none
    | with_reducible apply OptLeads.map
    | with_reducible apply resetWarm_canonical
    | with_reducible apply setF_canonical
    | with_reducible apply setF_canonical
    | extract_lets
    | (simp only [↓State.canonical_mk]; with_reducible apply Good.of)
    | split
    | (with_reducible intro _)
    | dsimp only
    | dsimp +zetaDelta only

theorem boot_canonical {s : State} (hs : State.canonical s) :
    State.canonical (boot s) := by
  unfold boot
  repeat' first
    | with_reducible assumption
    | with_reducible apply Leads.next
    | with_reducible exact Leads.fault _
    | with_reducible apply OptLeads.some
    | with_reducible exact OptLeads.none
    | with_reducible apply OptLeads.map
    | with_reducible apply bothSlotsFailed_canonical
    | with_reducible apply tryBoot_canonical
    | with_reducible refine tryBoot_canonical_eq _ ?_ (by with_reducible assumption)
    | extract_lets
    | (simp only [↓State.canonical_mk]; with_reducible apply Good.of)
    | split
    | (with_reducible intro _)
    | dsimp only
    | dsimp +zetaDelta only

theorem restartCores_canonical (source : Nat) (flush : Bool) (spare : Option Nat) {s : State} (hs : State.canonical s) :
    State.canonical (restartCores source flush spare s) := by
  unfold restartCores
  repeat' first
    | with_reducible assumption
    | with_reducible apply Leads.next
    | with_reducible exact Leads.fault _
    | with_reducible apply OptLeads.some
    | with_reducible exact OptLeads.none
    | with_reducible apply OptLeads.map
    | with_reducible apply boot_canonical
    | with_reducible apply resetCtrl_canonical
    | extract_lets
    | (simp only [↓State.canonical_mk]; with_reducible apply Good.of)
    | split
    | (with_reducible intro _)
    | dsimp only
    | dsimp +zetaDelta only

theorem warmly_canonical (source : Nat) (image : Bool) {s : State} (hs : State.canonical s) :
    State.canonical (warmly source image s) := by
  unfold warmly
  repeat' first
    | with_reducible assumption
    | with_reducible apply Leads.next
    | with_reducible exact Leads.fault _
    | with_reducible apply OptLeads.some
    | with_reducible exact OptLeads.none
    | with_reducible apply OptLeads.map
    | with_reducible apply boot_canonical
    | with_reducible apply resetWarm_canonical
    | extract_lets
    | (simp only [↓State.canonical_mk]; with_reducible apply Good.of)
    | split
    | (with_reducible intro _)
    | dsimp only
    | dsimp +zetaDelta only

theorem resetCold_canonical (powerOn : Bool) (source : Nat) {s : State} (hs : State.canonical s) :
    State.canonical (resetCold powerOn source s) := by
  unfold resetCold
  repeat' first
    | with_reducible assumption
    | with_reducible apply Leads.next
    | with_reducible exact Leads.fault _
    | with_reducible apply OptLeads.some
    | with_reducible exact OptLeads.none
    | with_reducible apply OptLeads.map
    | with_reducible apply coldState_canonical
    | with_reducible apply boot_canonical
    | with_reducible apply setCause_canonical
    | with_reducible apply setF_canonical
    | with_reducible apply setF_canonical
    | extract_lets
    | (simp only [↓State.canonical_mk]; with_reducible apply Good.of)
    | split
    | (with_reducible intro _)
    | dsimp only
    | dsimp +zetaDelta only

theorem execPowerOnReset_canonical {s : State} (hs : State.canonical s) :
    Leads State.canonical (execPowerOnReset s) := by
  unfold execPowerOnReset
  repeat' first
    | with_reducible assumption
    | with_reducible apply Leads.next
    | with_reducible exact Leads.fault _
    | with_reducible apply OptLeads.some
    | with_reducible exact OptLeads.none
    | with_reducible apply OptLeads.map
    | with_reducible apply resetCold_canonical
    | extract_lets
    | (simp only [↓State.canonical_mk]; with_reducible apply Good.of)
    | split
    | (with_reducible intro _)
    | dsimp only
    | dsimp +zetaDelta only

theorem coldAllowed_canonical (source : Nat) {s : State} (hs : State.canonical s) :
    State.canonical (coldAllowed source s) := by
  unfold coldAllowed
  repeat' first
    | with_reducible assumption
    | with_reducible apply Leads.next
    | with_reducible exact Leads.fault _
    | with_reducible apply OptLeads.some
    | with_reducible exact OptLeads.none
    | with_reducible apply OptLeads.map
    | with_reducible apply resetCold_canonical
    | with_reducible apply ignored_canonical
    | extract_lets
    | (simp only [↓State.canonical_mk]; with_reducible apply Good.of)
    | split
    | (with_reducible intro _)
    | dsimp only
    | dsimp +zetaDelta only

theorem withKey_canonical (key scope : Nat) (k : State → State) {s : State} (hk : ∀ (x0 : State), State.canonical x0 → State.canonical (k x0)) (hs : State.canonical s) :
    State.canonical (withKey key scope k s) := by
  unfold withKey
  repeat' first
    | with_reducible assumption
    | with_reducible apply Leads.next
    | with_reducible exact Leads.fault _
    | with_reducible apply OptLeads.some
    | with_reducible exact OptLeads.none
    | with_reducible apply OptLeads.map
    | with_reducible apply hk
    | with_reducible apply ignored_canonical
    | with_reducible apply setF_canonical
    | with_reducible apply setF_canonical
    | extract_lets
    | (simp only [↓State.canonical_mk]; with_reducible apply Good.of)
    | split
    | (with_reducible intro _)
    | dsimp only
    | dsimp +zetaDelta only

theorem execColdReset_canonical (key : Nat) {s : State} (hs : State.canonical s) :
    Leads State.canonical (execColdReset key s) := by
  unfold execColdReset
  repeat' first
    | with_reducible assumption
    | with_reducible apply Leads.next
    | with_reducible exact Leads.fault _
    | with_reducible apply OptLeads.some
    | with_reducible exact OptLeads.none
    | with_reducible apply OptLeads.map
    | with_reducible apply withKey_canonical
    | with_reducible apply coldAllowed_canonical
    | with_reducible apply land_canonical
    | with_reducible refine Leads.elim (land_canonical _ _ _ ?_ ?_) (by with_reducible assumption)
    | extract_lets
    | (simp only [↓State.canonical_mk]; with_reducible apply Good.of)
    | split
    | (with_reducible intro _)
    | dsimp only
    | dsimp +zetaDelta only

theorem execWarmReset_canonical (key : Nat) {s : State} (hs : State.canonical s) :
    Leads State.canonical (execWarmReset key s) := by
  unfold execWarmReset
  repeat' first
    | with_reducible assumption
    | with_reducible apply Leads.next
    | with_reducible exact Leads.fault _
    | with_reducible apply OptLeads.some
    | with_reducible exact OptLeads.none
    | with_reducible apply OptLeads.map
    | with_reducible apply withKey_canonical
    | with_reducible apply warmly_canonical
    | with_reducible apply land_canonical
    | with_reducible refine Leads.elim (land_canonical _ _ _ ?_ ?_) (by with_reducible assumption)
    | extract_lets
    | (simp only [↓State.canonical_mk]; with_reducible apply Good.of)
    | split
    | (with_reducible intro _)
    | dsimp only
    | dsimp +zetaDelta only

theorem execCoreRestart_canonical (key : Nat) {s : State} (hs : State.canonical s) :
    Leads State.canonical (execCoreRestart key s) := by
  unfold execCoreRestart
  repeat' first
    | with_reducible assumption
    | with_reducible apply Leads.next
    | with_reducible exact Leads.fault _
    | with_reducible apply OptLeads.some
    | with_reducible exact OptLeads.none
    | with_reducible apply OptLeads.map
    | with_reducible apply withKey_canonical
    | with_reducible apply restartCores_canonical
    | with_reducible apply land_canonical
    | with_reducible refine Leads.elim (land_canonical _ _ _ ?_ ?_) (by with_reducible assumption)
    | extract_lets
    | (simp only [↓State.canonical_mk]; with_reducible apply Good.of)
    | split
    | (with_reducible intro _)
    | dsimp only
    | dsimp +zetaDelta only

theorem execWatchdogRestart_canonical {s : State} (hs : State.canonical s) :
    Leads State.canonical (execWatchdogRestart s) := by
  unfold execWatchdogRestart
  repeat' first
    | with_reducible assumption
    | with_reducible apply Leads.next
    | with_reducible exact Leads.fault _
    | with_reducible apply OptLeads.some
    | with_reducible exact OptLeads.none
    | with_reducible apply OptLeads.map
    | with_reducible apply restartCores_canonical
    | extract_lets
    | (simp only [↓State.canonical_mk]; with_reducible apply Good.of)
    | split
    | (with_reducible intro _)
    | dsimp only
    | dsimp +zetaDelta only

theorem execBootTimeout_canonical {s : State} (hs : State.canonical s) :
    Leads State.canonical (execBootTimeout s) := by
  unfold execBootTimeout
  repeat' first
    | with_reducible assumption
    | with_reducible apply Leads.next
    | with_reducible exact Leads.fault _
    | with_reducible apply OptLeads.some
    | with_reducible exact OptLeads.none
    | with_reducible apply OptLeads.map
    | with_reducible apply restartCores_canonical
    | with_reducible apply bothSlotsFailed_canonical
    | with_reducible apply failTry_canonical
    | with_reducible refine failTry_canonical_eq ?_ (by with_reducible assumption)
    | with_reducible apply useFree_canonical
    | extract_lets
    | (simp only [↓State.canonical_mk]; with_reducible apply Good.of)
    | split
    | (with_reducible intro _)
    | dsimp only
    | dsimp +zetaDelta only

theorem execConsoleColdReset_canonical {s : State} (hs : State.canonical s) :
    Leads State.canonical (execConsoleColdReset s) := by
  unfold execConsoleColdReset
  repeat' first
    | with_reducible assumption
    | with_reducible apply Leads.next
    | with_reducible exact Leads.fault _
    | with_reducible apply OptLeads.some
    | with_reducible exact OptLeads.none
    | with_reducible apply OptLeads.map
    | with_reducible apply coldAllowed_canonical
    | extract_lets
    | (simp only [↓State.canonical_mk]; with_reducible apply Good.of)
    | split
    | (with_reducible intro _)
    | dsimp only
    | dsimp +zetaDelta only

theorem execConsoleWarmReset_canonical {s : State} (hs : State.canonical s) :
    Leads State.canonical (execConsoleWarmReset s) := by
  unfold execConsoleWarmReset
  repeat' first
    | with_reducible assumption
    | with_reducible apply Leads.next
    | with_reducible exact Leads.fault _
    | with_reducible apply OptLeads.some
    | with_reducible exact OptLeads.none
    | with_reducible apply OptLeads.map
    | with_reducible apply warmly_canonical
    | extract_lets
    | (simp only [↓State.canonical_mk]; with_reducible apply Good.of)
    | split
    | (with_reducible intro _)
    | dsimp only
    | dsimp +zetaDelta only

theorem dumpWords_canonical (a n : Nat) (acc : List Nat) {s : State} (hs : State.canonical s) :
    State.canonical (dumpWords a n s acc).2 := by
  induction n generalizing a s acc with
  | zero =>
    unfold dumpWords
    repeat' first
      | with_reducible assumption
      | with_reducible apply Leads.next
      | with_reducible exact Leads.fault _
      | with_reducible apply OptLeads.some
      | with_reducible exact OptLeads.none
      | with_reducible apply OptLeads.map
      | with_reducible apply useFrees_canonical
      | extract_lets
      | (simp only [↓State.canonical_mk]; with_reducible apply Good.of)
      | split
      | (with_reducible intro _)
      | dsimp only
      | dsimp +zetaDelta only
  | succ n ih =>
    unfold dumpWords
    repeat' first
      | with_reducible assumption
      | with_reducible apply Leads.next
      | with_reducible exact Leads.fault _
      | with_reducible apply OptLeads.some
      | with_reducible exact OptLeads.none
      | with_reducible apply OptLeads.map
      | with_reducible apply ih
      | with_reducible apply useFrees_canonical
      | extract_lets
      | (simp only [↓State.canonical_mk]; with_reducible apply Good.of)
      | split
      | (with_reducible intro _)
      | dsimp only
      | dsimp +zetaDelta only

theorem dumpWords_canonical_eq (a n : Nat) (acc : List Nat) {s : State} (hs : State.canonical s) {x y} (e : dumpWords a n s acc = (x, y)) : State.canonical y := by
  have := dumpWords_canonical a n acc hs
  rw [e] at this; exact this

theorem dumpBlocks_canonical {s : State} (hs : State.canonical s) :
    State.canonical (dumpBlocks s).2 := by
  unfold dumpBlocks
  repeat' first
    | with_reducible assumption
    | with_reducible apply Leads.next
    | with_reducible exact Leads.fault _
    | with_reducible apply OptLeads.some
    | with_reducible exact OptLeads.none
    | with_reducible apply OptLeads.map
    | with_reducible apply dumpWords_canonical
    | with_reducible refine dumpWords_canonical_eq _ _ _ ?_ (by with_reducible assumption)
    | extract_lets
    | (simp only [↓State.canonical_mk]; with_reducible apply Good.of)
    | split
    | (with_reducible intro _)
    | dsimp only
    | dsimp +zetaDelta only

theorem dumpBlocks_canonical_eq {s : State} (hs : State.canonical s) {x y} (e : dumpBlocks s = (x, y)) : State.canonical y := by
  have := dumpBlocks_canonical hs
  rw [e] at this; exact this

theorem execConsoleDump_canonical {s : State} (hs : State.canonical s) :
    Leads State.canonical (execConsoleDump s) := by
  unfold execConsoleDump
  repeat' first
    | with_reducible assumption
    | with_reducible apply Leads.next
    | with_reducible exact Leads.fault _
    | with_reducible apply OptLeads.some
    | with_reducible exact OptLeads.none
    | with_reducible apply OptLeads.map
    | with_reducible apply dumpBlocks_canonical
    | with_reducible refine dumpBlocks_canonical_eq ?_ (by with_reducible assumption)
    | with_reducible apply emit_canonical
    | extract_lets
    | (simp only [↓State.canonical_mk]; with_reducible apply Good.of)
    | split
    | (with_reducible intro _)
    | dsimp only
    | dsimp +zetaDelta only

theorem execConsoleImageLoad_canonical (image : ImageFacts) (slot : Fin 2) {s : State} (hs : State.canonical s) :
    Leads State.canonical (execConsoleImageLoad image slot s) := by
  unfold execConsoleImageLoad
  repeat' first
    | with_reducible assumption
    | with_reducible apply Leads.next
    | with_reducible exact Leads.fault _
    | with_reducible apply OptLeads.some
    | with_reducible exact OptLeads.none
    | with_reducible apply OptLeads.map
    | with_reducible apply boot_canonical
    | with_reducible apply storeImage_canonical
    | with_reducible apply setF_canonical
    | with_reducible apply setF_canonical
    | extract_lets
    | (simp only [↓State.canonical_mk]; with_reducible apply Good.of)
    | split
    | (with_reducible intro _)
    | dsimp only
    | dsimp +zetaDelta only

theorem execStrapChange_canonical (posB compatN : Bool) (shelf : Fin 64) {s : State} (hs : State.canonical s) :
    Leads State.canonical (execStrapChange posB compatN shelf s) := by
  unfold execStrapChange
  repeat' first
    | with_reducible assumption
    | with_reducible apply Leads.next
    | with_reducible exact Leads.fault _
    | with_reducible apply OptLeads.some
    | with_reducible exact OptLeads.none
    | with_reducible apply OptLeads.map
    | with_reducible apply when_canonical
    | with_reducible apply event_canonical
    | with_reducible apply setF_canonical
    | with_reducible apply setF_canonical
    | with_reducible apply when_canonical
    | extract_lets
    | (simp only [↓State.canonical_mk]; with_reducible apply Good.of)
    | split
    | (with_reducible intro _)
    | dsimp only
    | dsimp +zetaDelta only

theorem execFwCommitActivateNow_canonical (cid : Nat) (image : ImageFacts) {s : State} (hs : State.canonical s) :
    Leads State.canonical (execFwCommitActivateNow cid image s) := by
  unfold execFwCommitActivateNow
  repeat' first
    | with_reducible assumption
    | with_reducible apply Leads.next
    | with_reducible exact Leads.fault _
    | with_reducible apply OptLeads.some
    | with_reducible exact OptLeads.none
    | with_reducible apply OptLeads.map
    | with_reducible apply restartCores_canonical
    | with_reducible apply storeImage_canonical
    | with_reducible apply refuse_canonical
    | with_reducible apply runAdmin_canonical
    | with_reducible refine Leads.elim (runAdmin_canonical _ _ _ _ ?_ ?_) (by with_reducible assumption)
    | with_reducible apply onCmd_canonical
    | with_reducible apply setF_canonical
    | with_reducible apply setF_canonical
    | extract_lets
    | (simp only [↓State.canonical_mk]; with_reducible apply Good.of)
    | split
    | (with_reducible intro _)
    | dsimp only
    | dsimp +zetaDelta only

theorem execIslandRegate_canonical (i : Island) {s : State} (hs : State.canonical s) :
    Leads State.canonical (execIslandRegate i s) := by
  unfold execIslandRegate
  repeat' first
    | with_reducible assumption
    | with_reducible apply Leads.next
    | with_reducible exact Leads.fault _
    | with_reducible apply OptLeads.some
    | with_reducible exact OptLeads.none
    | with_reducible apply OptLeads.map
    | extract_lets
    | (simp only [↓State.canonical_mk]; with_reducible apply Good.of)
    | split
    | (with_reducible intro _)
    | dsimp only
    | dsimp +zetaDelta only

theorem coverShortfall_canonical {s : State} (hs : State.canonical s) :
    State.canonical (coverShortfall s) := by
  unfold coverShortfall
  repeat' first
    | with_reducible assumption
    | with_reducible apply Leads.next
    | with_reducible exact Leads.fault _
    | with_reducible apply OptLeads.some
    | with_reducible exact OptLeads.none
    | with_reducible apply OptLeads.map
    | with_reducible apply requestTokens_canonical
    | extract_lets
    | (simp only [↓State.canonical_mk]; with_reducible apply Good.of)
    | split
    | (with_reducible intro _)
    | dsimp only
    | dsimp +zetaDelta only

theorem demandWriteback_canonical {s : State} (hs : State.canonical s) :
    State.canonical (demandWriteback s) := by
  unfold demandWriteback
  repeat' first
    | with_reducible assumption
    | with_reducible apply Leads.next
    | with_reducible exact Leads.fault _
    | with_reducible apply OptLeads.some
    | with_reducible exact OptLeads.none
    | with_reducible apply OptLeads.map
    | with_reducible apply demand_canonical
    | extract_lets
    | (simp only [↓State.canonical_mk]; with_reducible apply Good.of)
    | split
    | (with_reducible intro _)
    | dsimp only
    | dsimp +zetaDelta only

theorem execLoopEvaluation_canonical (pModDw : Nat) {s : State} (hs : State.canonical s) :
    Leads State.canonical (execLoopEvaluation pModDw s) := by
  unfold execLoopEvaluation
  repeat' first
    | with_reducible assumption
    | with_reducible apply Leads.next
    | with_reducible exact Leads.fault _
    | with_reducible apply OptLeads.some
    | with_reducible exact OptLeads.none
    | with_reducible apply OptLeads.map
    | with_reducible apply demandWriteback_canonical
    | with_reducible apply coverShortfall_canonical
    | with_reducible apply storeOwed_canonical
    | with_reducible apply storeLcap_canonical
    | with_reducible apply after_canonical
    | with_reducible apply writeShedOk_canonical
    | with_reducible apply writeHealth_canonical
    | with_reducible apply updateCeiling_canonical
    | with_reducible apply when_canonical
    | with_reducible apply setF_canonical
    | with_reducible apply setF_canonical
    | with_reducible apply when_canonical
    | extract_lets
    | (simp only [↓State.canonical_mk]; with_reducible apply Good.of)
    | split
    | (with_reducible intro _)
    | dsimp only
    | dsimp +zetaDelta only

theorem execSpinDownExcess_canonical {s : State} (hs : State.canonical s) :
    Leads State.canonical (execSpinDownExcess s) := by
  unfold execSpinDownExcess
  repeat' first
    | with_reducible assumption
    | with_reducible apply Leads.next
    | with_reducible exact Leads.fault _
    | with_reducible apply OptLeads.some
    | with_reducible exact OptLeads.none
    | with_reducible apply OptLeads.map
    | with_reducible apply spinDown_canonical
    | with_reducible apply forEach_canonical
    | with_reducible apply forEach_canonical
    | extract_lets
    | (simp only [↓State.canonical_mk]; with_reducible apply Good.of)
    | split
    | (with_reducible intro _)
    | dsimp only
    | dsimp +zetaDelta only

theorem execIdleParkExpiry_canonical {s : State} (hs : State.canonical s) :
    Leads State.canonical (execIdleParkExpiry s) := by
  unfold execIdleParkExpiry
  repeat' first
    | with_reducible assumption
    | with_reducible apply Leads.next
    | with_reducible exact Leads.fault _
    | with_reducible apply OptLeads.some
    | with_reducible exact OptLeads.none
    | with_reducible apply OptLeads.map
    | with_reducible apply settle_canonical
    | extract_lets
    | (simp only [↓State.canonical_mk]; with_reducible apply Good.of)
    | split
    | (with_reducible intro _)
    | dsimp only
    | dsimp +zetaDelta only

theorem execEnterServing_canonical {s : State} (hs : State.canonical s) :
    Leads State.canonical (execEnterServing s) := by
  unfold execEnterServing
  repeat' first
    | with_reducible assumption
    | with_reducible apply Leads.next
    | with_reducible exact Leads.fault _
    | with_reducible apply OptLeads.some
    | with_reducible exact OptLeads.none
    | with_reducible apply OptLeads.map
    | with_reducible apply commitBatches_canonical
    | with_reducible apply enterServing_canonical
    | extract_lets
    | (simp only [↓State.canonical_mk]; with_reducible apply Good.of)
    | split
    | (with_reducible intro _)
    | dsimp only
    | dsimp +zetaDelta only

theorem execWakeDenied_canonical {s : State} (hs : State.canonical s) :
    Leads State.canonical (execWakeDenied s) := by
  unfold execWakeDenied
  repeat' first
    | with_reducible assumption
    | with_reducible apply Leads.next
    | with_reducible exact Leads.fault _
    | with_reducible apply OptLeads.some
    | with_reducible exact OptLeads.none
    | with_reducible apply OptLeads.map
    | with_reducible apply settle_canonical
    | with_reducible apply finishWake_canonical
    | with_reducible apply finishAll_canonical
    | extract_lets
    | (simp only [↓State.canonical_mk]; with_reducible apply Good.of)
    | split
    | (with_reducible intro _)
    | dsimp only
    | dsimp +zetaDelta only

theorem drainStop_canonical {s : State} (hs : State.canonical s) :
    State.canonical (drainStop s) := by
  unfold drainStop
  repeat' first
    | with_reducible assumption
    | with_reducible apply Leads.next
    | with_reducible exact Leads.fault _
    | with_reducible apply OptLeads.some
    | with_reducible exact OptLeads.none
    | with_reducible apply OptLeads.map
    | with_reducible apply execRebuildCheckpoint_canonical
    | with_reducible refine Leads.elim (execRebuildCheckpoint_canonical _ ?_) (by with_reducible assumption)
    | with_reducible apply writeImage_canonical
    | with_reducible apply dropWork_canonical
    | with_reducible apply spinDown_canonical
    | with_reducible apply writeEnables_canonical
    | with_reducible apply forEach_canonical
    | with_reducible apply when_canonical
    | with_reducible apply forEach_canonical
    | with_reducible apply when_canonical
    | extract_lets
    | (simp only [↓State.canonical_mk]; with_reducible apply Good.of)
    | split
    | (with_reducible intro _)
    | dsimp only
    | dsimp +zetaDelta only

theorem drainEnd_canonical {s : State} (hs : State.canonical s) :
    State.canonical (drainEnd s) := by
  unfold drainEnd
  repeat' first
    | with_reducible assumption
    | with_reducible apply Leads.next
    | with_reducible exact Leads.fault _
    | with_reducible apply OptLeads.some
    | with_reducible exact OptLeads.none
    | with_reducible apply OptLeads.map
    | with_reducible apply takeHolding_canonical
    | with_reducible apply writeRoot_canonical
    | with_reducible apply stopConverter_canonical
    | with_reducible apply showImage_canonical
    | with_reducible apply settle_canonical
    | with_reducible apply finishPark_canonical
    | with_reducible apply toMode_canonical
    | with_reducible apply fanRelease_canonical
    | with_reducible apply askBellwether_canonical
    | extract_lets
    | (simp only [↓State.canonical_mk]; with_reducible apply Good.of)
    | split
    | (with_reducible intro _)
    | dsimp only
    | dsimp +zetaDelta only

theorem execDrainComplete_canonical {s : State} (hs : State.canonical s) :
    Leads State.canonical (execDrainComplete s) := by
  unfold execDrainComplete
  repeat' first
    | with_reducible assumption
    | with_reducible apply Leads.next
    | with_reducible exact Leads.fault _
    | with_reducible apply OptLeads.some
    | with_reducible exact OptLeads.none
    | with_reducible apply OptLeads.map
    | with_reducible apply drainEnd_canonical
    | with_reducible apply drainStop_canonical
    | extract_lets
    | (simp only [↓State.canonical_mk]; with_reducible apply Good.of)
    | split
    | (with_reducible intro _)
    | dsimp only
    | dsimp +zetaDelta only

theorem execDestageComplete_canonical {s : State} (hs : State.canonical s) :
    Leads State.canonical (execDestageComplete s) := by
  unfold execDestageComplete
  repeat' first
    | with_reducible assumption
    | with_reducible apply Leads.next
    | with_reducible exact Leads.fault _
    | with_reducible apply OptLeads.some
    | with_reducible exact OptLeads.none
    | with_reducible apply OptLeads.map
    | with_reducible apply warmly_canonical
    | with_reducible apply sealImage_canonical
    | extract_lets
    | (simp only [↓State.canonical_mk]; with_reducible apply Good.of)
    | split
    | (with_reducible intro _)
    | dsimp only
    | dsimp +zetaDelta only

end Sys2Proof.Machine
end

