-- ==== Sys2Proof/Laws/CanonAssembly.lean ====
section
/-! SUPPORT. The canonical form is kept by the operations of Machine/Assembly.lean. -/

set_option linter.all false

namespace Sys2Proof.Machine

theorem logUnassembled_canonical (f : FoundArray) (reason : Nat) {s : State} (hs : State.canonical s) :
    State.canonical (logUnassembled f reason s) := by
  unfold logUnassembled
  repeat' first
    | with_reducible assumption
    | with_reducible apply Leads.next
    | with_reducible exact Leads.fault _
    | with_reducible apply OptLeads.some
    | with_reducible exact OptLeads.none
    | with_reducible apply OptLeads.map
    | with_reducible apply logEvent_canonical
    | with_reducible apply useFree_canonical
    | extract_lets
    | (simp only [↓State.canonical_mk]; with_reducible apply Good.of)
    | split
    | (with_reducible intro _)
    | dsimp only
    | dsimp +zetaDelta only

theorem bindFound_canonical (n : Nat) (x : FoundVolume) {s : State} (hs : State.canonical s) :
    State.canonical (bindFound n x s) := by
  unfold bindFound
  repeat' first
    | with_reducible assumption
    | with_reducible apply Leads.next
    | with_reducible exact Leads.fault _
    | with_reducible apply OptLeads.some
    | with_reducible exact OptLeads.none
    | with_reducible apply OptLeads.map
    | with_reducible apply unlocked_canonical
    | with_reducible apply writeVolumeValid_canonical
    | with_reducible apply writeRecords_canonical
    | with_reducible apply onVolMeta_canonical
    | with_reducible apply logEvent_canonical
    | with_reducible apply useFree_canonical
    | with_reducible apply when_canonical
    | with_reducible apply set64_canonical
    | with_reducible apply setF_canonical
    | with_reducible apply setF_canonical
    | with_reducible apply when_canonical
    | extract_lets
    | (simp only [↓State.canonical_mk]; with_reducible apply Good.of)
    | split
    | (with_reducible intro _)
    | dsimp only
    | dsimp +zetaDelta only

theorem resumeRebuild_canonical (n : Nat) (m : FoundMember) (slot : Nat) {s : State} (hs : State.canonical s) :
    State.canonical (resumeRebuild n m slot s) := by
  unfold resumeRebuild
  repeat' first
    | with_reducible assumption
    | with_reducible apply Leads.next
    | with_reducible exact Leads.fault _
    | with_reducible apply OptLeads.some
    | with_reducible exact OptLeads.none
    | with_reducible apply OptLeads.map
    | with_reducible apply writeFront_canonical
    | with_reducible apply startRebuild_canonical
    | extract_lets
    | (simp only [↓State.canonical_mk]; with_reducible apply Good.of)
    | split
    | (with_reducible intro _)
    | dsimp only
    | dsimp +zetaDelta only

theorem assemble_canonical (f : FoundArray) {s : State} (hs : State.canonical s) :
    State.canonical (assemble f s) := by
  unfold assemble
  repeat' first
    | with_reducible assumption
    | with_reducible apply Leads.next
    | with_reducible exact Leads.fault _
    | with_reducible apply OptLeads.some
    | with_reducible exact OptLeads.none
    | with_reducible apply OptLeads.map
    | with_reducible apply resumeRebuild_canonical
    | with_reducible apply bindFound_canonical
    | with_reducible apply logUnassembled_canonical
    | with_reducible apply writeArray_canonical
    | with_reducible apply loadEncode_canonical
    | with_reducible apply markErased_canonical
    | with_reducible apply startEval_canonical
    | with_reducible apply writeErased_canonical
    | with_reducible apply writeArrayValid_canonical
    | with_reducible apply forEach_canonical
    | with_reducible apply forEach_canonical
    | extract_lets
    | (simp only [↓State.canonical_mk]; with_reducible apply Good.of)
    | split
    | (with_reducible intro _)
    | dsimp only
    | dsimp +zetaDelta only

theorem execArrayAssembly_canonical (found : List FoundDrive) {s : State} (hs : State.canonical s) :
    Leads State.canonical (execArrayAssembly found s) := by
  unfold execArrayAssembly
  repeat' first
    | with_reducible assumption
    | with_reducible apply Leads.next
    | with_reducible exact Leads.fault _
    | with_reducible apply OptLeads.some
    | with_reducible exact OptLeads.none
    | with_reducible apply OptLeads.map
    | with_reducible apply assemble_canonical
    | with_reducible apply logUnassembled_canonical
    | with_reducible apply settle_canonical
    | with_reducible apply requestSlot_canonical
    | with_reducible apply forEach_canonical
    | with_reducible apply forEach_canonical
    | extract_lets
    | (simp only [↓State.canonical_mk]; with_reducible apply Good.of)
    | split
    | (with_reducible intro _)
    | dsimp only
    | dsimp +zetaDelta only

end Sys2Proof.Machine
end

