-- ==== Sys2Proof/Laws/CanonPeer.lean ====
section
/-! SUPPORT. The canonical form is kept by the operations of Machine/Peer.lean. -/

set_option linter.all false

namespace Sys2Proof.Machine

theorem storeGroup_canonical (g : FlockGroup) {s : State} (hs : State.canonical s) :
    State.canonical (storeGroup g s) := by
  unfold storeGroup
  repeat' first
    | with_reducible assumption
    | with_reducible apply Leads.next
    | with_reducible exact Leads.fault _
    | with_reducible apply OptLeads.some
    | with_reducible exact OptLeads.none
    | with_reducible apply OptLeads.map
    | with_reducible apply onVolMeta_canonical
    | with_reducible apply hostEvent_canonical
    | with_reducible apply forEach_canonical
    | with_reducible apply forEach_canonical
    | with_reducible apply id_canonical
    | extract_lets
    | (simp only [↓State.canonical_mk]; with_reducible apply Good.of)
    | split
    | (with_reducible intro _)
    | dsimp only
    | dsimp +zetaDelta only

theorem removeGroup_canonical (id : Nat) {s : State} (hs : State.canonical s) :
    State.canonical (removeGroup id s) := by
  unfold removeGroup
  repeat' first
    | with_reducible assumption
    | with_reducible apply Leads.next
    | with_reducible exact Leads.fault _
    | with_reducible apply OptLeads.some
    | with_reducible exact OptLeads.none
    | with_reducible apply OptLeads.map
    | with_reducible apply voidRecords_canonical
    | with_reducible apply onVolMeta_canonical
    | with_reducible apply hostEvent_canonical
    | with_reducible apply forEach_canonical
    | with_reducible apply forEach_canonical
    | with_reducible apply id_canonical
    | extract_lets
    | (simp only [↓State.canonical_mk]; with_reducible apply Good.of)
    | split
    | (with_reducible intro _)
    | dsimp only
    | dsimp +zetaDelta only

theorem askMembers_canonical (g : FlockGroup) (idx : List Nat) (lba : Nat) {s : State} (hs : State.canonical s) :
    State.canonical (askMembers g idx lba s) := by
  unfold askMembers
  repeat' first
    | with_reducible assumption
    | with_reducible apply Leads.next
    | with_reducible exact Leads.fault _
    | with_reducible apply OptLeads.some
    | with_reducible exact OptLeads.none
    | with_reducible apply OptLeads.map
    | with_reducible apply sendFrame_canonical
    | with_reducible apply forEach_canonical
    | with_reducible apply forEach_canonical
    | with_reducible apply id_canonical
    | extract_lets
    | (simp only [↓State.canonical_mk]; with_reducible apply Good.of)
    | split
    | (with_reducible intro _)
    | dsimp only
    | dsimp +zetaDelta only

theorem setGather_canonical (x : Gather) {s : State} (hs : State.canonical s) :
    State.canonical (setGather x s) := by
  unfold setGather
  repeat' first
    | with_reducible assumption
    | with_reducible apply Leads.next
    | with_reducible exact Leads.fault _
    | with_reducible apply OptLeads.some
    | with_reducible exact OptLeads.none
    | with_reducible apply OptLeads.map
    | extract_lets
    | (simp only [↓State.canonical_mk]; with_reducible apply Good.of)
    | split
    | (with_reducible intro _)
    | dsimp only
    | dsimp +zetaDelta only

theorem dropGather_canonical (x : Gather) {s : State} (hs : State.canonical s) :
    State.canonical (dropGather x s) := by
  unfold dropGather
  repeat' first
    | with_reducible assumption
    | with_reducible apply Leads.next
    | with_reducible exact Leads.fault _
    | with_reducible apply OptLeads.some
    | with_reducible exact OptLeads.none
    | with_reducible apply OptLeads.map
    | extract_lets
    | (simp only [↓State.canonical_mk]; with_reducible apply Good.of)
    | split
    | (with_reducible intro _)
    | dsimp only
    | dsimp +zetaDelta only

theorem askChunk_canonical (id f : Nat) {s : State} (hs : State.canonical s) :
    State.canonical (askChunk id f s) := by
  unfold askChunk
  repeat' first
    | with_reducible assumption
    | with_reducible apply Leads.next
    | with_reducible exact Leads.fault _
    | with_reducible apply OptLeads.some
    | with_reducible exact OptLeads.none
    | with_reducible apply OptLeads.map
    | with_reducible apply setGather_canonical
    | with_reducible apply askMembers_canonical
    | with_reducible apply id_canonical
    | extract_lets
    | (simp only [↓State.canonical_mk]; with_reducible apply Good.of)
    | split
    | (with_reducible intro _)
    | dsimp only
    | dsimp +zetaDelta only

theorem resyncGroup_canonical (id : Nat) {s : State} (hs : State.canonical s) :
    State.canonical (resyncGroup id s) := by
  unfold resyncGroup
  repeat' first
    | with_reducible assumption
    | with_reducible apply Leads.next
    | with_reducible exact Leads.fault _
    | with_reducible apply OptLeads.some
    | with_reducible exact OptLeads.none
    | with_reducible apply OptLeads.map
    | with_reducible apply askChunk_canonical
    | with_reducible apply onGroup_canonical
    | with_reducible apply askTokens_canonical
    | with_reducible apply id_canonical
    | extract_lets
    | (simp only [↓State.canonical_mk]; with_reducible apply Good.of)
    | split
    | (with_reducible intro _)
    | dsimp only
    | dsimp +zetaDelta only

theorem execPeerRead_canonical (p : Option (Fin 4)) (src group member lba nblk : Nat) (data : List Block) {s : State} (hs : State.canonical s) :
    Leads State.canonical (execPeerRead p src group member lba nblk data s) := by
  unfold execPeerRead
  repeat' first
    | with_reducible assumption
    | with_reducible apply Leads.next
    | with_reducible exact Leads.fault _
    | with_reducible apply OptLeads.some
    | with_reducible exact OptLeads.none
    | with_reducible apply OptLeads.map
    | with_reducible apply arrive_canonical
    | with_reducible refine Leads.elim (arrive_canonical _ _ _ ?_ ?_) (by with_reducible assumption)
    | with_reducible apply sendFrame_canonical
    | with_reducible apply forEach_canonical
    | with_reducible apply forEach_canonical
    | extract_lets
    | (simp only [↓State.canonical_mk]; with_reducible apply Good.of)
    | split
    | (with_reducible intro _)
    | dsimp only
    | dsimp +zetaDelta only

theorem execPeerData_canonical (p : Option (Fin 4)) (src group member lba : Nat) (blocks : List (Block × Nat)) {s : State} (hs : State.canonical s) :
    Leads State.canonical (execPeerData p src group member lba blocks s) := by
  unfold execPeerData
  repeat' first
    | with_reducible assumption
    | with_reducible apply Leads.next
    | with_reducible exact Leads.fault _
    | with_reducible apply OptLeads.some
    | with_reducible exact OptLeads.none
    | with_reducible apply OptLeads.map
    | with_reducible apply askMembers_canonical
    | with_reducible apply arrive_canonical
    | with_reducible refine Leads.elim (arrive_canonical _ _ _ ?_ ?_) (by with_reducible assumption)
    | extract_lets
    | (simp only [↓State.canonical_mk]; with_reducible apply Good.of)
    | split
    | (with_reducible intro _)
    | dsimp only
    | dsimp +zetaDelta only

theorem execFlockResyncChunk_canonical (group : Nat) {s : State} (hs : State.canonical s) :
    Leads State.canonical (execFlockResyncChunk group s) := by
  unfold execFlockResyncChunk
  repeat' first
    | with_reducible assumption
    | with_reducible apply Leads.next
    | with_reducible exact Leads.fault _
    | with_reducible apply OptLeads.some
    | with_reducible exact OptLeads.none
    | with_reducible apply OptLeads.map
    | with_reducible apply resyncGroup_canonical
    | with_reducible apply askChunk_canonical
    | with_reducible apply dropGather_canonical
    | with_reducible apply commitRows_canonical
    | with_reducible apply after_canonical
    | with_reducible apply onGroup_canonical
    | with_reducible apply floodFrame_canonical
    | with_reducible apply hostEvent_canonical
    | extract_lets
    | (simp only [↓State.canonical_mk]; with_reducible apply Good.of)
    | split
    | (with_reducible intro _)
    | dsimp only
    | dsimp +zetaDelta only

theorem applyDeltas_canonical (g m n : Nat) {s : State} (hs : State.canonical s) :
    State.canonical (applyDeltas g m n s) := by
  induction n generalizing s with
  | zero =>
    unfold applyDeltas
    repeat' first
      | with_reducible assumption
      | with_reducible apply Leads.next
      | with_reducible exact Leads.fault _
      | with_reducible apply OptLeads.some
      | with_reducible exact OptLeads.none
      | with_reducible apply OptLeads.map
      | with_reducible apply commitRows_canonical
      | with_reducible apply onGroup_canonical
      | with_reducible apply sendFrame_canonical
      | extract_lets
      | (simp only [↓State.canonical_mk]; with_reducible apply Good.of)
      | split
      | (with_reducible intro _)
      | dsimp only
      | dsimp +zetaDelta only
  | succ n ih =>
    unfold applyDeltas
    repeat' first
      | with_reducible assumption
      | with_reducible apply Leads.next
      | with_reducible exact Leads.fault _
      | with_reducible apply OptLeads.some
      | with_reducible exact OptLeads.none
      | with_reducible apply OptLeads.map
      | with_reducible apply ih
      | with_reducible apply commitRows_canonical
      | with_reducible apply onGroup_canonical
      | with_reducible apply sendFrame_canonical
      | extract_lets
      | (simp only [↓State.canonical_mk]; with_reducible apply Good.of)
      | split
      | (with_reducible intro _)
      | dsimp only
      | dsimp +zetaDelta only

theorem execDeltaDesc_canonical (p : Option (Fin 4)) (src group member : Nat) (seqs : Nat × Nat) (lba nblk crc : Nat) {s : State} (hs : State.canonical s) :
    Leads State.canonical (execDeltaDesc p src group member seqs lba nblk crc s) := by
  unfold execDeltaDesc
  repeat' first
    | with_reducible assumption
    | with_reducible apply Leads.next
    | with_reducible exact Leads.fault _
    | with_reducible apply OptLeads.some
    | with_reducible exact OptLeads.none
    | with_reducible apply OptLeads.map
    | with_reducible apply arrive_canonical
    | with_reducible refine Leads.elim (arrive_canonical _ _ _ ?_ ?_) (by with_reducible assumption)
    | with_reducible apply sendFrame_canonical
    | extract_lets
    | (simp only [↓State.canonical_mk]; with_reducible apply Good.of)
    | split
    | (with_reducible intro _)
    | dsimp only
    | dsimp +zetaDelta only

theorem execDeltaData_canonical (p : Option (Fin 4)) (src xseq : Nat) (data old : Block) {s : State} (hs : State.canonical s) :
    Leads State.canonical (execDeltaData p src xseq data old s) := by
  unfold execDeltaData
  repeat' first
    | with_reducible assumption
    | with_reducible apply Leads.next
    | with_reducible exact Leads.fault _
    | with_reducible apply OptLeads.some
    | with_reducible exact OptLeads.none
    | with_reducible apply OptLeads.map
    | with_reducible apply applyDeltas_canonical
    | with_reducible apply arrive_canonical
    | with_reducible refine Leads.elim (arrive_canonical _ _ _ ?_ ?_) (by with_reducible assumption)
    | extract_lets
    | (simp only [↓State.canonical_mk]; with_reducible apply Good.of)
    | split
    | (with_reducible intro _)
    | dsimp only
    | dsimp +zetaDelta only

theorem execDeltaAck_canonical (p : Option (Fin 4)) (group member dseq : Nat) {s : State} (hs : State.canonical s) :
    Leads State.canonical (execDeltaAck p group member dseq s) := by
  unfold execDeltaAck
  repeat' first
    | with_reducible assumption
    | with_reducible apply Leads.next
    | with_reducible exact Leads.fault _
    | with_reducible apply OptLeads.some
    | with_reducible exact OptLeads.none
    | with_reducible apply OptLeads.map
    | with_reducible apply arrive_canonical
    | with_reducible refine Leads.elim (arrive_canonical _ _ _ ?_ ?_) (by with_reducible assumption)
    | with_reducible apply retryIntents_canonical
    | with_reducible apply dropFreed_canonical
    | with_reducible apply onNode_canonical
    | extract_lets
    | (simp only [↓State.canonical_mk]; with_reducible apply Good.of)
    | split
    | (with_reducible intro _)
    | dsimp only
    | dsimp +zetaDelta only

theorem execDeltaResend_canonical {s : State} (hs : State.canonical s) :
    Leads State.canonical (execDeltaResend s) := by
  unfold execDeltaResend
  repeat' first
    | with_reducible assumption
    | with_reducible apply Leads.next
    | with_reducible exact Leads.fault _
    | with_reducible apply OptLeads.some
    | with_reducible exact OptLeads.none
    | with_reducible apply OptLeads.map
    | with_reducible apply shipDeltas_canonical
    | extract_lets
    | (simp only [↓State.canonical_mk]; with_reducible apply Good.of)
    | split
    | (with_reducible intro _)
    | dsimp only
    | dsimp +zetaDelta only

theorem execWakeReq_canonical (p : Option (Fin 4)) (src : Nat) {s : State} (hs : State.canonical s) :
    Leads State.canonical (execWakeReq p src s) := by
  unfold execWakeReq
  repeat' first
    | with_reducible assumption
    | with_reducible apply Leads.next
    | with_reducible exact Leads.fault _
    | with_reducible apply OptLeads.some
    | with_reducible exact OptLeads.none
    | with_reducible apply OptLeads.map
    | with_reducible apply fabricWake_canonical
    | with_reducible apply arrive_canonical
    | with_reducible refine Leads.elim (arrive_canonical _ _ _ ?_ ?_) (by with_reducible assumption)
    | extract_lets
    | (simp only [↓State.canonical_mk]; with_reducible apply Good.of)
    | split
    | (with_reducible intro _)
    | dsimp only
    | dsimp +zetaDelta only

theorem groupStored_canonical (id uid : Nat) {s : State} (hs : State.canonical s) :
    State.canonical (groupStored id uid s) := by
  unfold groupStored
  repeat' first
    | with_reducible assumption
    | with_reducible apply Leads.next
    | with_reducible exact Leads.fault _
    | with_reducible apply OptLeads.some
    | with_reducible exact OptLeads.none
    | with_reducible apply OptLeads.map
    | with_reducible apply resyncGroup_canonical
    | with_reducible apply finishAll_canonical
    | with_reducible apply id_canonical
    | extract_lets
    | (simp only [↓State.canonical_mk]; with_reducible apply Good.of)
    | split
    | (with_reducible intro _)
    | dsimp only
    | dsimp +zetaDelta only

theorem groupMsg_canonical (p : Option Nat) (m : GroupMsg) {s : State} (hs : State.canonical s) :
    State.canonical (groupMsg p m s) := by
  unfold groupMsg
  repeat' first
    | with_reducible assumption
    | with_reducible apply Leads.next
    | with_reducible exact Leads.fault _
    | with_reducible apply OptLeads.some
    | with_reducible exact OptLeads.none
    | with_reducible apply OptLeads.map
    | with_reducible apply groupStored_canonical
    | with_reducible apply removeGroup_canonical
    | with_reducible apply storeGroup_canonical
    | with_reducible apply markStale_canonical
    | with_reducible apply shipDeltas_canonical
    | with_reducible apply onGroup_canonical
    | with_reducible apply onNode_canonical
    | with_reducible apply floodFrame_canonical
    | with_reducible apply sendFrame_canonical
    | with_reducible apply hostEvent_canonical
    | with_reducible apply id_canonical
    | extract_lets
    | (simp only [↓State.canonical_mk]; with_reducible apply Good.of)
    | split
    | (with_reducible intro _)
    | dsimp only
    | dsimp +zetaDelta only

theorem execGroup_canonical (p : Option (Fin 4)) (msg : GroupMsg) {s : State} (hs : State.canonical s) :
    Leads State.canonical (execGroup p msg s) := by
  unfold execGroup
  repeat' first
    | with_reducible assumption
    | with_reducible apply Leads.next
    | with_reducible exact Leads.fault _
    | with_reducible apply OptLeads.some
    | with_reducible exact OptLeads.none
    | with_reducible apply OptLeads.map
    | with_reducible apply groupMsg_canonical
    | with_reducible apply arrive_canonical
    | with_reducible refine Leads.elim (arrive_canonical _ _ _ ?_ ?_) (by with_reducible assumption)
    | extract_lets
    | (simp only [↓State.canonical_mk]; with_reducible apply Good.of)
    | split
    | (with_reducible intro _)
    | dsimp only
    | dsimp +zetaDelta only

theorem execGroupStaleTimer_canonical (group : Nat) {s : State} (hs : State.canonical s) :
    Leads State.canonical (execGroupStaleTimer group s) := by
  unfold execGroupStaleTimer
  repeat' first
    | with_reducible assumption
    | with_reducible apply Leads.next
    | with_reducible exact Leads.fault _
    | with_reducible apply OptLeads.some
    | with_reducible exact OptLeads.none
    | with_reducible apply OptLeads.map
    | with_reducible apply after_canonical
    | with_reducible apply retryIntents_canonical
    | with_reducible apply markStale_canonical
    | extract_lets
    | (simp only [↓State.canonical_mk]; with_reducible apply Good.of)
    | split
    | (with_reducible intro _)
    | dsimp only
    | dsimp +zetaDelta only

theorem fabRefuse_canonical (n reason : Nat) {s : State} (hs : State.canonical s) :
    State.canonical (fabRefuse n reason s) := by
  unfold fabRefuse
  repeat' first
    | with_reducible assumption
    | with_reducible apply Leads.next
    | with_reducible exact Leads.fault _
    | with_reducible apply OptLeads.some
    | with_reducible exact OptLeads.none
    | with_reducible apply OptLeads.map
    | with_reducible apply refuse_canonical
    | extract_lets
    | (simp only [↓State.canonical_mk]; with_reducible apply Good.of)
    | split
    | (with_reducible intro _)
    | dsimp only
    | dsimp +zetaDelta only

theorem fabBuffer_canonical (n : Nat) (c : Cmd) (need : Nat) (k : State → State) {s : State} (hk : ∀ (x0 : State), State.canonical x0 → State.canonical (k x0)) (hs : State.canonical s) :
    State.canonical (fabBuffer n c need k s) := by
  unfold fabBuffer
  repeat' first
    | with_reducible assumption
    | with_reducible apply Leads.next
    | with_reducible exact Leads.fault _
    | with_reducible apply OptLeads.some
    | with_reducible exact OptLeads.none
    | with_reducible apply OptLeads.map
    | with_reducible apply hk
    | with_reducible apply fromHost_canonical
    | with_reducible apply finish_canonical
    | extract_lets
    | (simp only [↓State.canonical_mk]; with_reducible apply Good.of)
    | split
    | (with_reducible intro _)
    | dsimp only
    | dsimp +zetaDelta only

theorem atBellwether_canonical (n code : Nat) (here : State → State) (msg : BudgetMsg) {s : State} (hhere : ∀ (x0 : State), State.canonical x0 → State.canonical (here x0)) (hs : State.canonical s) :
    State.canonical (atBellwether n code here msg s) := by
  unfold atBellwether
  repeat' first
    | with_reducible assumption
    | with_reducible apply Leads.next
    | with_reducible exact Leads.fault _
    | with_reducible apply OptLeads.some
    | with_reducible exact OptLeads.none
    | with_reducible apply OptLeads.map
    | with_reducible apply hhere
    | with_reducible apply fabRefuse_canonical
    | with_reducible apply sendFrame_canonical
    | with_reducible apply onCmd_canonical
    | extract_lets
    | (simp only [↓State.canonical_mk]; with_reducible apply Good.of)
    | split
    | (with_reducible intro _)
    | dsimp only
    | dsimp +zetaDelta only

theorem execSetBudget_canonical (cid : Nat) (buffer : List Nat) {s : State} (hs : State.canonical s) :
    Leads State.canonical (execSetBudget cid buffer s) := by
  unfold execSetBudget
  repeat' first
    | with_reducible assumption
    | with_reducible apply Leads.next
    | with_reducible exact Leads.fault _
    | with_reducible apply OptLeads.some
    | with_reducible exact OptLeads.none
    | with_reducible apply OptLeads.map
    | with_reducible apply atBellwether_canonical
    | with_reducible apply fabBuffer_canonical
    | with_reducible apply finishBudget_canonical
    | with_reducible apply publishBudget_canonical
    | with_reducible apply refuse_canonical
    | with_reducible apply runAdmin_canonical
    | with_reducible refine Leads.elim (runAdmin_canonical _ _ _ _ ?_ ?_) (by with_reducible assumption)
    | extract_lets
    | (simp only [↓State.canonical_mk]; with_reducible apply Good.of)
    | split
    | (with_reducible intro _)
    | dsimp only
    | dsimp +zetaDelta only

theorem execSetEligibility_canonical (cid : Nat) (buffer : List Nat) {s : State} (hs : State.canonical s) :
    Leads State.canonical (execSetEligibility cid buffer s) := by
  unfold execSetEligibility
  repeat' first
    | with_reducible assumption
    | with_reducible apply Leads.next
    | with_reducible exact Leads.fault _
    | with_reducible apply OptLeads.some
    | with_reducible exact OptLeads.none
    | with_reducible apply OptLeads.map
    | with_reducible apply fabBuffer_canonical
    | with_reducible apply fabRefresh_canonical
    | with_reducible apply runAdmin_canonical
    | with_reducible refine Leads.elim (runAdmin_canonical _ _ _ _ ?_ ?_) (by with_reducible assumption)
    | with_reducible apply finish_canonical
    | extract_lets
    | (simp only [↓State.canonical_mk]; with_reducible apply Good.of)
    | split
    | (with_reducible intro _)
    | dsimp only
    | dsimp +zetaDelta only

theorem execForgetNode_canonical (cid : Nat) (buffer : List Nat) {s : State} (hs : State.canonical s) :
    Leads State.canonical (execForgetNode cid buffer s) := by
  unfold execForgetNode
  repeat' first
    | with_reducible assumption
    | with_reducible apply Leads.next
    | with_reducible exact Leads.fault _
    | with_reducible apply OptLeads.some
    | with_reducible exact OptLeads.none
    | with_reducible apply OptLeads.map
    | with_reducible apply atBellwether_canonical
    | with_reducible apply fabBuffer_canonical
    | with_reducible apply forgetNode_canonical
    | with_reducible apply finishForget_canonical
    | with_reducible apply runAdmin_canonical
    | with_reducible refine Leads.elim (runAdmin_canonical _ _ _ _ ?_ ?_) (by with_reducible assumption)
    | extract_lets
    | (simp only [↓State.canonical_mk]; with_reducible apply Good.of)
    | split
    | (with_reducible intro _)
    | dsimp only
    | dsimp +zetaDelta only

theorem execWakeNode_canonical (cid : Nat) (buffer : List Nat) {s : State} (hs : State.canonical s) :
    Leads State.canonical (execWakeNode cid buffer s) := by
  unfold execWakeNode
  repeat' first
    | with_reducible assumption
    | with_reducible apply Leads.next
    | with_reducible exact Leads.fault _
    | with_reducible apply OptLeads.some
    | with_reducible exact OptLeads.none
    | with_reducible apply OptLeads.map
    | with_reducible apply fabBuffer_canonical
    | with_reducible apply fabRefuse_canonical
    | with_reducible apply runAdmin_canonical
    | with_reducible refine Leads.elim (runAdmin_canonical _ _ _ _ ?_ ?_) (by with_reducible assumption)
    | with_reducible apply sendFrame_canonical
    | with_reducible apply finish_canonical
    | extract_lets
    | (simp only [↓State.canonical_mk]; with_reducible apply Good.of)
    | split
    | (with_reducible intro _)
    | dsimp only
    | dsimp +zetaDelta only

theorem execGroupCreate_canonical (cid : Nat) (buffer : List Nat) (facts : List VolFacts) {s : State} (hs : State.canonical s) :
    Leads State.canonical (execGroupCreate cid buffer facts s) := by
  unfold execGroupCreate
  repeat' first
    | with_reducible assumption
    | with_reducible apply Leads.next
    | with_reducible exact Leads.fault _
    | with_reducible apply OptLeads.some
    | with_reducible exact OptLeads.none
    | with_reducible apply OptLeads.map
    | with_reducible apply fabBuffer_canonical
    | with_reducible apply fabRefuse_canonical
    | with_reducible apply storeGroup_canonical
    | with_reducible apply runAdmin_canonical
    | with_reducible refine Leads.elim (runAdmin_canonical _ _ _ _ ?_ ?_) (by with_reducible assumption)
    | with_reducible apply sendFrame_canonical
    | with_reducible apply onCmd_canonical
    | with_reducible apply forEach_canonical
    | with_reducible apply forEach_canonical
    | with_reducible apply id_canonical
    | extract_lets
    | (simp only [↓State.canonical_mk]; with_reducible apply Good.of)
    | split
    | (with_reducible intro _)
    | dsimp only
    | dsimp +zetaDelta only

theorem execGroupDelete_canonical (cid : Nat) (buffer : List Nat) {s : State} (hs : State.canonical s) :
    Leads State.canonical (execGroupDelete cid buffer s) := by
  unfold execGroupDelete
  repeat' first
    | with_reducible assumption
    | with_reducible apply Leads.next
    | with_reducible exact Leads.fault _
    | with_reducible apply OptLeads.some
    | with_reducible exact OptLeads.none
    | with_reducible apply OptLeads.map
    | with_reducible apply fabBuffer_canonical
    | with_reducible apply fabRefuse_canonical
    | with_reducible apply removeGroup_canonical
    | with_reducible apply runAdmin_canonical
    | with_reducible refine Leads.elim (runAdmin_canonical _ _ _ _ ?_ ?_) (by with_reducible assumption)
    | with_reducible apply floodFrame_canonical
    | with_reducible apply finish_canonical
    | with_reducible apply id_canonical
    | extract_lets
    | (simp only [↓State.canonical_mk]; with_reducible apply Good.of)
    | split
    | (with_reducible intro _)
    | dsimp only
    | dsimp +zetaDelta only

theorem execGroupResync_canonical (cid : Nat) (buffer : List Nat) {s : State} (hs : State.canonical s) :
    Leads State.canonical (execGroupResync cid buffer s) := by
  unfold execGroupResync
  repeat' first
    | with_reducible assumption
    | with_reducible apply Leads.next
    | with_reducible exact Leads.fault _
    | with_reducible apply OptLeads.some
    | with_reducible exact OptLeads.none
    | with_reducible apply OptLeads.map
    | with_reducible apply fabBuffer_canonical
    | with_reducible apply fabRefuse_canonical
    | with_reducible apply resyncGroup_canonical
    | with_reducible apply runAdmin_canonical
    | with_reducible refine Leads.elim (runAdmin_canonical _ _ _ _ ?_ ?_) (by with_reducible assumption)
    | with_reducible apply finish_canonical
    | with_reducible apply id_canonical
    | extract_lets
    | (simp only [↓State.canonical_mk]; with_reducible apply Good.of)
    | split
    | (with_reducible intro _)
    | dsimp only
    | dsimp +zetaDelta only

theorem beginRecover_canonical (n id member target : Nat) {s : State} (hs : State.canonical s) :
    State.canonical (beginRecover n id member target s) := by
  unfold beginRecover
  repeat' first
    | with_reducible assumption
    | with_reducible apply Leads.next
    | with_reducible exact Leads.fault _
    | with_reducible apply OptLeads.some
    | with_reducible exact OptLeads.none
    | with_reducible apply OptLeads.map
    | with_reducible apply fabRefuse_canonical
    | with_reducible apply setGather_canonical
    | with_reducible apply askMembers_canonical
    | with_reducible apply onCmd_canonical
    | with_reducible apply useFree_canonical
    | with_reducible apply id_canonical
    | extract_lets
    | (simp only [↓State.canonical_mk]; with_reducible apply Good.of)
    | split
    | (with_reducible intro _)
    | dsimp only
    | dsimp +zetaDelta only

theorem recoverChunk_canonical (x : Gather) (n member target : Nat) {s : State} (hs : State.canonical s) :
    State.canonical (recoverChunk x n member target s) := by
  unfold recoverChunk
  repeat' first
    | with_reducible assumption
    | with_reducible apply Leads.next
    | with_reducible exact Leads.fault _
    | with_reducible apply OptLeads.some
    | with_reducible exact OptLeads.none
    | with_reducible apply OptLeads.map
    | with_reducible apply dropGather_canonical
    | with_reducible apply setGather_canonical
    | with_reducible apply askMembers_canonical
    | with_reducible apply commitRows_canonical
    | with_reducible apply floodFrame_canonical
    | with_reducible apply finish_canonical
    | extract_lets
    | (simp only [↓State.canonical_mk]; with_reducible apply Good.of)
    | split
    | (with_reducible intro _)
    | dsimp only
    | dsimp +zetaDelta only

theorem execGroupRecover_canonical (cid : Nat) (buffer : List Nat) {s : State} (hs : State.canonical s) :
    Leads State.canonical (execGroupRecover cid buffer s) := by
  unfold execGroupRecover
  repeat' first
    | with_reducible assumption
    | with_reducible apply Leads.next
    | with_reducible exact Leads.fault _
    | with_reducible apply OptLeads.some
    | with_reducible exact OptLeads.none
    | with_reducible apply OptLeads.map
    | with_reducible apply recoverChunk_canonical
    | with_reducible apply beginRecover_canonical
    | with_reducible apply fabBuffer_canonical
    | with_reducible apply runAdmin_canonical
    | with_reducible refine Leads.elim (runAdmin_canonical _ _ _ _ ?_ ?_) (by with_reducible assumption)
    | with_reducible apply after_canonical
    | extract_lets
    | (simp only [↓State.canonical_mk]; with_reducible apply Good.of)
    | split
    | (with_reducible intro _)
    | dsimp only
    | dsimp +zetaDelta only

end Sys2Proof.Machine
end

