-- ==== Sys2Proof/Laws/CanonRegs.lean ====
section
/-! SUPPORT. The canonical form is kept by the operations of Machine/Regs.lean. -/

set_option linter.all false

namespace Sys2Proof.Machine

theorem took_canonical {r : Result} {s : State} (hr : Leads State.canonical r) (hs : State.canonical s) :
    State.canonical (took r s) := by
  unfold took
  split
  · exact hr _ rfl
  · exact hs

theorem canonical_ite {c : Prop} [Decidable c] {a b : State} (ha : State.canonical a) (hb : State.canonical b) :
    State.canonical (if c then a else b) := by
  split <;> assumption


theorem hostDrop_canonical (off : Nat) {s : State} (hs : State.canonical s) :
    State.canonical (hostDrop off s) := by
  unfold hostDrop
  repeat' first
    | with_reducible assumption
    | with_reducible apply Leads.next
    | with_reducible exact Leads.fault _
    | with_reducible apply OptLeads.some
    | with_reducible exact OptLeads.none
    | with_reducible apply OptLeads.map
    | with_reducible apply ignored_canonical
    | with_reducible apply bump_canonical
    | extract_lets
    | (simp only [↓State.canonical_mk]; with_reducible apply Good.of)
    | split
    | (with_reducible intro _)
    | dsimp only
    | dsimp +zetaDelta only

theorem storeField_canonical (v : Nat) (f : Field) {s : State} (hs : State.canonical s) :
    State.canonical (storeField v f s) := by
  unfold storeField
  repeat' first
    | with_reducible assumption
    | with_reducible apply Leads.next
    | with_reducible exact Leads.fault _
    | with_reducible apply OptLeads.some
    | with_reducible exact OptLeads.none
    | with_reducible apply OptLeads.map
    | with_reducible apply setF_canonical
    | with_reducible apply setF_canonical
    | extract_lets
    | (simp only [↓State.canonical_mk]; with_reducible apply Good.of)
    | split
    | (with_reducible intro _)
    | dsimp only
    | dsimp +zetaDelta only

theorem withFin_canonical (k n : Nat) (f : Fin k → State → Result) {s : State} (hf : ∀ (x0 : Fin k) (x1 : State), State.canonical x1 → Leads State.canonical (f x0 x1)) (hs : State.canonical s) :
    State.canonical (withFin k n f s) := by
  unfold withFin
  repeat' first
    | with_reducible assumption
    | with_reducible apply Leads.next
    | with_reducible exact Leads.fault _
    | with_reducible apply OptLeads.some
    | with_reducible exact OptLeads.none
    | with_reducible apply OptLeads.map
    | with_reducible apply hf
    | with_reducible apply took_canonical
    | extract_lets
    | (simp only [↓State.canonical_mk]; with_reducible apply Good.of)
    | split
    | (with_reducible intro _)
    | dsimp only
    | dsimp +zetaDelta only

theorem stpWrite_canonical (off v : Nat) {s : State} (hs : State.canonical s) :
    State.canonical (stpWrite off v s) := by
  unfold stpWrite
  repeat' first
    | with_reducible assumption
    | with_reducible apply Leads.next
    | with_reducible exact Leads.fault _
    | with_reducible apply OptLeads.some
    | with_reducible exact OptLeads.none
    | with_reducible apply OptLeads.map
    | with_reducible apply withFin_canonical
    | with_reducible apply after_canonical
    | with_reducible apply execEvalStart_canonical
    | with_reducible refine Leads.elim (execEvalStart_canonical _ ?_) (by with_reducible assumption)
    | with_reducible apply execXlateGo_canonical
    | with_reducible refine Leads.elim (execXlateGo_canonical _ ?_) (by with_reducible assumption)
    | with_reducible apply execVolumeValidWrite_canonical
    | with_reducible refine Leads.elim (execVolumeValidWrite_canonical _ _ ?_) (by with_reducible assumption)
    | with_reducible apply execArrayValidWrite_canonical
    | with_reducible refine Leads.elim (execArrayValidWrite_canonical _ _ ?_) (by with_reducible assumption)
    | with_reducible apply when_canonical
    | with_reducible apply setF_canonical
    | with_reducible apply setF_canonical
    | with_reducible apply when_canonical
    | extract_lets
    | (simp only [↓State.canonical_mk]; with_reducible apply Good.of)
    | split
    | (with_reducible intro _)
    | dsimp only
    | dsimp +zetaDelta only

theorem oxeWrite_canonical (off v : Nat) {s : State} (hs : State.canonical s) :
    State.canonical (oxeWrite off v s) := by
  unfold oxeWrite
  repeat' first
    | with_reducible assumption
    | with_reducible apply Leads.next
    | with_reducible exact Leads.fault _
    | with_reducible apply OptLeads.some
    | with_reducible exact OptLeads.none
    | with_reducible apply OptLeads.map
    | with_reducible apply withFin_canonical
    | with_reducible apply took_canonical
    | with_reducible apply execPlanRetry_canonical
    | with_reducible refine Leads.elim (execPlanRetry_canonical _ ?_) (by with_reducible assumption)
    | with_reducible apply execEngineTest_canonical
    | with_reducible refine Leads.elim (execEngineTest_canonical _ ?_) (by with_reducible assumption)
    | with_reducible apply execEngineRetire_canonical
    | with_reducible refine Leads.elim (execEngineRetire_canonical _ ?_) (by with_reducible assumption)
    | with_reducible apply execEnginePause_canonical
    | with_reducible refine Leads.elim (execEnginePause_canonical _ _ ?_) (by with_reducible assumption)
    | with_reducible apply execCoefDataAccess_canonical
    | with_reducible refine Leads.elim (execCoefDataAccess_canonical _ ?_) (by with_reducible assumption)
    | with_reducible apply execRingTailWrite_canonical
    | with_reducible refine Leads.elim (execRingTailWrite_canonical _ _ ?_) (by with_reducible assumption)
    | with_reducible apply keepTarget_canonical
    | extract_lets
    | (simp only [↓State.canonical_mk]; with_reducible apply Good.of)
    | split
    | (with_reducible intro _)
    | dsimp only
    | dsimp +zetaDelta only

theorem jnlWrite_canonical (off v : Nat) {s : State} (hs : State.canonical s) :
    State.canonical (jnlWrite off v s) := by
  unfold jnlWrite
  repeat' first
    | with_reducible assumption
    | with_reducible apply Leads.next
    | with_reducible exact Leads.fault _
    | with_reducible apply OptLeads.some
    | with_reducible exact OptLeads.none
    | with_reducible apply OptLeads.map
    | with_reducible apply withFin_canonical
    | with_reducible apply took_canonical
    | with_reducible apply execJnlAlloc_canonical
    | with_reducible refine Leads.elim (execJnlAlloc_canonical _ ?_) (by with_reducible assumption)
    | with_reducible apply execReplayDoneWrite_canonical
    | with_reducible refine Leads.elim (execReplayDoneWrite_canonical ?_) (by with_reducible assumption)
    | with_reducible apply execPartnerLiveWrite_canonical
    | with_reducible refine Leads.elim (execPartnerLiveWrite_canonical _ ?_) (by with_reducible assumption)
    | with_reducible apply execPackHealthyWrite_canonical
    | with_reducible refine Leads.elim (execPackHealthyWrite_canonical _ ?_) (by with_reducible assumption)
    | with_reducible apply execForceWtWrite_canonical
    | with_reducible refine Leads.elim (execForceWtWrite_canonical _ ?_) (by with_reducible assumption)
    | with_reducible apply after_canonical
    | with_reducible apply retryIntents_canonical
    | with_reducible apply setF_canonical
    | with_reducible apply setF_canonical
    | extract_lets
    | (simp only [↓State.canonical_mk]; with_reducible apply Good.of)
    | split
    | (with_reducible intro _)
    | dsimp only
    | dsimp +zetaDelta only

theorem sasWrite_canonical (off v : Nat) {s : State} (hs : State.canonical s) :
    State.canonical (sasWrite off v s) := by
  unfold sasWrite
  repeat' first
    | with_reducible assumption
    | with_reducible apply Leads.next
    | with_reducible exact Leads.fault _
    | with_reducible apply OptLeads.some
    | with_reducible exact OptLeads.none
    | with_reducible apply OptLeads.map
    | with_reducible apply withFin_canonical
    | with_reducible apply execFrontierEnable_canonical
    | with_reducible refine Leads.elim (execFrontierEnable_canonical _ _ ?_) (by with_reducible assumption)
    | with_reducible apply execEscDone_canonical
    | with_reducible refine Leads.elim (execEscDone_canonical _ _ _ ?_) (by with_reducible assumption)
    | with_reducible apply execWakeDeny_canonical
    | with_reducible refine Leads.elim (execWakeDeny_canonical _ ?_) (by with_reducible assumption)
    | with_reducible apply execWakeRetry_canonical
    | with_reducible refine Leads.elim (execWakeRetry_canonical _ ?_) (by with_reducible assumption)
    | with_reducible apply execAwakeWrite_canonical
    | with_reducible refine Leads.elim (execAwakeWrite_canonical _ _ ?_) (by with_reducible assumption)
    | with_reducible apply after_canonical
    | with_reducible apply escalateWaiting_canonical
    | with_reducible apply setF_canonical
    | with_reducible apply setF_canonical
    | extract_lets
    | (simp only [↓State.canonical_mk]; with_reducible apply Good.of)
    | split
    | (with_reducible intro _)
    | dsimp only
    | dsimp +zetaDelta only

theorem qmxWrite_canonical (off v : Nat) {s : State} (hs : State.canonical s) :
    State.canonical (qmxWrite off v s) := by
  unfold qmxWrite
  repeat' first
    | with_reducible assumption
    | with_reducible apply Leads.next
    | with_reducible exact Leads.fault _
    | with_reducible apply OptLeads.some
    | with_reducible exact OptLeads.none
    | with_reducible apply OptLeads.map
    | with_reducible apply took_canonical
    | with_reducible apply execKick_canonical
    | with_reducible refine Leads.elim (execKick_canonical ?_) (by with_reducible assumption)
    | with_reducible apply execAdminCqHeadWrite_canonical
    | with_reducible refine Leads.elim (execAdminCqHeadWrite_canonical _ ?_) (by with_reducible assumption)
    | with_reducible apply execAdminSqTailWrite_canonical
    | with_reducible refine Leads.elim (execAdminSqTailWrite_canonical _ ?_) (by with_reducible assumption)
    | with_reducible apply execQueueDisable_canonical
    | with_reducible refine Leads.elim (execQueueDisable_canonical ?_) (by with_reducible assumption)
    | with_reducible apply execQueueEnable_canonical
    | with_reducible refine Leads.elim (execQueueEnable_canonical ?_) (by with_reducible assumption)
    | extract_lets
    | (simp only [↓State.canonical_mk]; with_reducible apply Good.of)
    | split
    | (with_reducible intro _)
    | dsimp only
    | dsimp +zetaDelta only

theorem reraise_canonical {s : State} (hs : State.canonical s) :
    State.canonical (reraise s) := by
  unfold reraise
  repeat' first
    | with_reducible assumption
    | with_reducible apply Leads.next
    | with_reducible exact Leads.fault _
    | with_reducible apply OptLeads.some
    | with_reducible exact OptLeads.none
    | with_reducible apply OptLeads.map
    | with_reducible apply evalLine_canonical
    | with_reducible apply sendMsix_canonical
    | with_reducible apply forEach_canonical
    | with_reducible apply when_canonical
    | with_reducible apply forEach_canonical
    | with_reducible apply when_canonical
    | extract_lets
    | (simp only [↓State.canonical_mk]; with_reducible apply Good.of)
    | split
    | (with_reducible intro _)
    | dsimp only
    | dsimp +zetaDelta only

theorem hifWrite_canonical (r : Requester) (off v : Nat) {s : State} (hs : State.canonical s) :
    State.canonical (hifWrite r off v s) := by
  unfold hifWrite
  repeat' first
    | with_reducible assumption
    | with_reducible apply Leads.next
    | with_reducible exact Leads.fault _
    | with_reducible apply OptLeads.some
    | with_reducible exact OptLeads.none
    | with_reducible apply OptLeads.map
    | with_reducible apply reraise_canonical
    | with_reducible apply took_canonical
    | with_reducible apply flushMsix_canonical
    | with_reducible apply execHostRaise_canonical
    | with_reducible refine Leads.elim (execHostRaise_canonical _ _ ?_) (by with_reducible assumption)
    | with_reducible apply execIntxAck_canonical
    | with_reducible refine Leads.elim (execIntxAck_canonical ?_) (by with_reducible assumption)
    | with_reducible apply execXlatCommit_canonical
    | with_reducible refine Leads.elim (execXlatCommit_canonical _ ?_) (by with_reducible assumption)
    | with_reducible apply execLinkRestore_canonical
    | with_reducible refine Leads.elim (execLinkRestore_canonical ?_) (by with_reducible assumption)
    | with_reducible apply evalLine_canonical
    | extract_lets
    | (simp only [↓State.canonical_mk]; with_reducible apply Good.of)
    | split
    | (with_reducible intro _)
    | dsimp only
    | dsimp +zetaDelta only

theorem powerWrite_canonical (off v : Nat) {s : State} (hs : State.canonical s) :
    State.canonical (powerWrite off v s) := by
  unfold powerWrite
  repeat' first
    | with_reducible assumption
    | with_reducible apply Leads.next
    | with_reducible exact Leads.fault _
    | with_reducible apply OptLeads.some
    | with_reducible exact OptLeads.none
    | with_reducible apply OptLeads.map
    | with_reducible apply took_canonical
    | with_reducible apply execConverterEnable_canonical
    | with_reducible refine Leads.elim (execConverterEnable_canonical _ ?_) (by with_reducible assumption)
    | with_reducible apply setOffset_canonical
    | with_reducible apply writeSpin_canonical
    | with_reducible apply writeEnables_canonical
    | with_reducible apply sendSlotState_canonical
    | with_reducible apply loopAtOnce_canonical
    | extract_lets
    | (simp only [↓State.canonical_mk]; with_reducible apply Good.of)
    | split
    | (with_reducible intro _)
    | dsimp only
    | dsimp +zetaDelta only

theorem batWrite_canonical (off v : Nat) {s : State} (hs : State.canonical s) :
    State.canonical (batWrite off v s) := by
  unfold batWrite
  repeat' first
    | with_reducible assumption
    | with_reducible apply Leads.next
    | with_reducible exact Leads.fault _
    | with_reducible apply OptLeads.some
    | with_reducible exact OptLeads.none
    | with_reducible apply OptLeads.map
    | with_reducible apply took_canonical
    | with_reducible apply execSmbusTransaction_canonical
    | with_reducible refine Leads.elim (execSmbusTransaction_canonical _ _ _ ?_) (by with_reducible assumption)
    | with_reducible apply execLearnStart_canonical
    | with_reducible refine Leads.elim (execLearnStart_canonical ?_) (by with_reducible assumption)
    | with_reducible apply writeCount_canonical
    | with_reducible apply writeChgEn_canonical
    | with_reducible apply setF_canonical
    | with_reducible apply setF_canonical
    | extract_lets
    | (simp only [↓State.canonical_mk]; with_reducible apply Good.of)
    | split
    | (with_reducible intro _)
    | dsimp only
    | dsimp +zetaDelta only

theorem fanWrite_canonical (off v : Nat) {s : State} (hs : State.canonical s) :
    State.canonical (fanWrite off v s) := by
  unfold fanWrite
  repeat' first
    | with_reducible assumption
    | with_reducible apply Leads.next
    | with_reducible exact Leads.fault _
    | with_reducible apply OptLeads.some
    | with_reducible exact OptLeads.none
    | with_reducible apply OptLeads.map
    | with_reducible apply withFin_canonical
    | with_reducible apply took_canonical
    | with_reducible apply execFanDemandWrite_canonical
    | with_reducible refine Leads.elim (execFanDemandWrite_canonical _ _ ?_) (by with_reducible assumption)
    | with_reducible apply execFanTokenRelease_canonical
    | with_reducible refine Leads.elim (execFanTokenRelease_canonical ?_) (by with_reducible assumption)
    | with_reducible apply execFanTokenClaim_canonical
    | with_reducible refine Leads.elim (execFanTokenClaim_canonical ?_) (by with_reducible assumption)
    | with_reducible apply execFanRestart_canonical
    | with_reducible refine Leads.elim (execFanRestart_canonical _ ?_) (by with_reducible assumption)
    | with_reducible apply execFanRunWrite_canonical
    | with_reducible refine Leads.elim (execFanRunWrite_canonical _ _ ?_) (by with_reducible assumption)
    | with_reducible apply fanSettleAll_canonical
    | extract_lets
    | (simp only [↓State.canonical_mk]; with_reducible apply Good.of)
    | split
    | (with_reducible intro _)
    | dsimp only
    | dsimp +zetaDelta only

theorem fovWrite_canonical (off v : Nat) {s : State} (hs : State.canonical s) :
    State.canonical (fovWrite off v s) := by
  unfold fovWrite
  repeat' first
    | with_reducible assumption
    | with_reducible apply Leads.next
    | with_reducible exact Leads.fault _
    | with_reducible apply OptLeads.some
    | with_reducible exact OptLeads.none
    | with_reducible apply OptLeads.map
    | with_reducible apply took_canonical
    | with_reducible apply execWatchdogKick_canonical
    | with_reducible refine Leads.elim (execWatchdogKick_canonical ?_) (by with_reducible assumption)
    | with_reducible apply execRelinquish_canonical
    | with_reducible refine Leads.elim (execRelinquish_canonical ?_) (by with_reducible assumption)
    | with_reducible apply execActiveRelease_canonical
    | with_reducible refine Leads.elim (execActiveRelease_canonical ?_) (by with_reducible assumption)
    | with_reducible apply execActiveClaim_canonical
    | with_reducible refine Leads.elim (execActiveClaim_canonical ?_) (by with_reducible assumption)
    | with_reducible apply settle_canonical
    | with_reducible apply setHold_canonical
    | with_reducible apply roleChanged_canonical
    | with_reducible apply setF_canonical
    | with_reducible apply setF_canonical
    | extract_lets
    | (simp only [↓State.canonical_mk]; with_reducible apply Good.of)
    | split
    | (with_reducible intro _)
    | dsimp only
    | dsimp +zetaDelta only

theorem cchWrite_canonical (off v : Nat) {s : State} (hs : State.canonical s) :
    State.canonical (cchWrite off v s) := by
  unfold cchWrite
  repeat' first
    | with_reducible assumption
    | with_reducible apply Leads.next
    | with_reducible exact Leads.fault _
    | with_reducible apply OptLeads.some
    | with_reducible exact OptLeads.none
    | with_reducible apply OptLeads.map
    | with_reducible apply took_canonical
    | with_reducible apply execInvalAll_canonical
    | with_reducible refine Leads.elim (execInvalAll_canonical ?_) (by with_reducible assumption)
    | with_reducible apply execFlushAll_canonical
    | with_reducible refine Leads.elim (execFlushAll_canonical ?_) (by with_reducible assumption)
    | with_reducible apply execCleanAll_canonical
    | with_reducible refine Leads.elim (execCleanAll_canonical ?_) (by with_reducible assumption)
    | with_reducible apply execCacheFlush_canonical
    | with_reducible refine Leads.elim (execCacheFlush_canonical ?_) (by with_reducible assumption)
    | with_reducible apply execInval_canonical
    | with_reducible refine Leads.elim (execInval_canonical ?_) (by with_reducible assumption)
    | with_reducible apply execClean_canonical
    | with_reducible refine Leads.elim (execClean_canonical ?_) (by with_reducible assumption)
    | with_reducible apply settleHum_canonical
    | with_reducible apply ignored_canonical
    | with_reducible apply setF_canonical
    | with_reducible apply setF_canonical
    | extract_lets
    | (simp only [↓State.canonical_mk]; with_reducible apply Good.of)
    | split
    | (with_reducible intro _)
    | dsimp only
    | dsimp +zetaDelta only

theorem mbxWrite_canonical (r : Requester) (off v : Nat) {s : State} (hs : State.canonical s) :
    State.canonical (mbxWrite r off v s) := by
  unfold mbxWrite
  repeat' first
    | with_reducible assumption
    | with_reducible apply Leads.next
    | with_reducible exact Leads.fault _
    | with_reducible apply OptLeads.some
    | with_reducible exact OptLeads.none
    | with_reducible apply OptLeads.map
    | with_reducible apply withFin_canonical
    | with_reducible apply execPeerLockRelease_canonical
    | with_reducible refine Leads.elim (execPeerLockRelease_canonical _ _ ?_) (by with_reducible assumption)
    | with_reducible apply execLockForce_canonical
    | with_reducible refine Leads.elim (execLockForce_canonical _ _ ?_) (by with_reducible assumption)
    | with_reducible apply execLockRelease_canonical
    | with_reducible refine Leads.elim (execLockRelease_canonical _ _ _ ?_) (by with_reducible assumption)
    | with_reducible apply execBoxRecall_canonical
    | with_reducible refine Leads.elim (execBoxRecall_canonical _ _ ?_) (by with_reducible assumption)
    | with_reducible apply execMailboxSend_canonical
    | with_reducible refine Leads.elim (execMailboxSend_canonical _ _ _ ?_) (by with_reducible assumption)
    | with_reducible apply dropBox_canonical
    | with_reducible apply setF_canonical
    | with_reducible apply setF_canonical
    | extract_lets
    | (simp only [↓State.canonical_mk]; with_reducible apply Good.of)
    | split
    | (with_reducible intro _)
    | dsimp only
    | dsimp +zetaDelta only

theorem dmaWrite_canonical (off v : Nat) {s : State} (hs : State.canonical s) :
    State.canonical (dmaWrite off v s) := by
  unfold dmaWrite
  repeat' first
    | with_reducible assumption
    | with_reducible apply Leads.next
    | with_reducible exact Leads.fault _
    | with_reducible apply OptLeads.some
    | with_reducible exact OptLeads.none
    | with_reducible apply OptLeads.map
    | with_reducible apply withFin_canonical
    | with_reducible apply took_canonical
    | with_reducible apply execDmaChannelDisable_canonical
    | with_reducible refine Leads.elim (execDmaChannelDisable_canonical _ ?_) (by with_reducible assumption)
    | with_reducible apply execDmaResume_canonical
    | with_reducible refine Leads.elim (execDmaResume_canonical _ ?_) (by with_reducible assumption)
    | with_reducible apply setF_canonical
    | with_reducible apply setF_canonical
    | extract_lets
    | (simp only [↓State.canonical_mk]; with_reducible apply Good.of)
    | split
    | (with_reducible intro _)
    | dsimp only
    | dsimp +zetaDelta only

theorem rprWrite_canonical (off v : Nat) {s : State} (hs : State.canonical s) :
    State.canonical (rprWrite off v s) := by
  unfold rprWrite
  repeat' first
    | with_reducible assumption
    | with_reducible apply Leads.next
    | with_reducible exact Leads.fault _
    | with_reducible apply OptLeads.some
    | with_reducible exact OptLeads.none
    | with_reducible apply OptLeads.map
    | with_reducible apply took_canonical
    | with_reducible apply execLaneRestore_canonical
    | with_reducible refine Leads.elim (execLaneRestore_canonical ?_) (by with_reducible assumption)
    | with_reducible apply execDramPpr_canonical
    | with_reducible refine Leads.elim (execDramPpr_canonical _ _ _ ?_) (by with_reducible assumption)
    | with_reducible apply execRepairRecordPop_canonical
    | with_reducible refine Leads.elim (execRepairRecordPop_canonical ?_) (by with_reducible assumption)
    | extract_lets
    | (simp only [↓State.canonical_mk]; with_reducible apply Good.of)
    | split
    | (with_reducible intro _)
    | dsimp only
    | dsimp +zetaDelta only

theorem sysWrite_canonical (off v : Nat) {s : State} (hs : State.canonical s) :
    State.canonical (sysWrite off v s) := by
  unfold sysWrite
  repeat' first
    | with_reducible assumption
    | with_reducible apply Leads.next
    | with_reducible exact Leads.fault _
    | with_reducible apply OptLeads.some
    | with_reducible exact OptLeads.none
    | with_reducible apply OptLeads.map
    | with_reducible apply took_canonical
    | with_reducible apply execCoreRestart_canonical
    | with_reducible refine Leads.elim (execCoreRestart_canonical _ ?_) (by with_reducible assumption)
    | with_reducible apply execWarmReset_canonical
    | with_reducible refine Leads.elim (execWarmReset_canonical _ ?_) (by with_reducible assumption)
    | with_reducible apply execColdReset_canonical
    | with_reducible refine Leads.elim (execColdReset_canonical _ ?_) (by with_reducible assumption)
    | with_reducible apply ignored_canonical
    | with_reducible apply enterMode_canonical
    | extract_lets
    | (simp only [↓State.canonical_mk]; with_reducible apply Good.of)
    | split
    | (with_reducible intro _)
    | dsimp only
    | dsimp +zetaDelta only

theorem startedBy_canonical (r : Requester) (off v : Nat) {s : State} (hs : State.canonical s) :
    State.canonical (startedBy r off v s) := by
  unfold startedBy
  repeat' first
    | with_reducible assumption
    | with_reducible apply canonical_ite
    | with_reducible apply Leads.next
    | with_reducible exact Leads.fault _
    | with_reducible apply OptLeads.some
    | with_reducible exact OptLeads.none
    | with_reducible apply OptLeads.map
    | with_reducible apply sysWrite_canonical
    | with_reducible apply rprWrite_canonical
    | with_reducible apply dmaWrite_canonical
    | with_reducible apply mbxWrite_canonical
    | with_reducible apply cchWrite_canonical
    | with_reducible apply fovWrite_canonical
    | with_reducible apply fanWrite_canonical
    | with_reducible apply batWrite_canonical
    | with_reducible apply powerWrite_canonical
    | with_reducible apply hifWrite_canonical
    | with_reducible apply qmxWrite_canonical
    | with_reducible apply sasWrite_canonical
    | with_reducible apply jnlWrite_canonical
    | with_reducible apply oxeWrite_canonical
    | with_reducible apply stpWrite_canonical
    | with_reducible apply withFin_canonical
    | with_reducible apply took_canonical
    | with_reducible apply execFabTxTail_canonical
    | with_reducible refine Leads.elim (execFabTxTail_canonical _ ?_) (by with_reducible assumption)
    | with_reducible apply execIntInject_canonical
    | with_reducible refine Leads.elim (execIntInject_canonical _ ?_) (by with_reducible assumption)
    | extract_lets
    | (simp only [↓State.canonical_mk]; with_reducible apply Good.of)
    | split
    | (with_reducible intro _)
    | dsimp only
    | dsimp +zetaDelta only

theorem writeWord_canonical (r : Requester) (off v : Nat) {s : State} (hs : State.canonical s) :
    State.canonical (writeWord r off v s) := by
  unfold writeWord
  repeat' first
    | with_reducible assumption
    | with_reducible apply Leads.next
    | with_reducible exact Leads.fault _
    | with_reducible apply OptLeads.some
    | with_reducible exact OptLeads.none
    | with_reducible apply OptLeads.map
    | with_reducible apply startedBy_canonical
    | with_reducible apply storeField_canonical
    | with_reducible apply ignored_canonical
    | with_reducible apply forEach_canonical
    | with_reducible apply when_canonical
    | with_reducible apply setF_canonical
    | with_reducible apply setF_canonical
    | with_reducible apply forEach_canonical
    | with_reducible apply when_canonical
    | extract_lets
    | (simp only [↓State.canonical_mk]; with_reducible apply Good.of)
    | split
    | (with_reducible intro _)
    | dsimp only
    | dsimp +zetaDelta only

theorem setCfg_canonical (off w : Nat) {s : State} (hs : State.canonical s) :
    State.canonical (setCfg off w s) := by
  unfold setCfg
  repeat' first
    | with_reducible assumption
    | with_reducible apply Leads.next
    | with_reducible exact Leads.fault _
    | with_reducible apply OptLeads.some
    | with_reducible exact OptLeads.none
    | with_reducible apply OptLeads.map
    | extract_lets
    | (simp only [↓State.canonical_mk]; with_reducible apply Good.of)
    | split
    | (with_reducible intro _)
    | dsimp only
    | dsimp +zetaDelta only

theorem cfgLand_canonical (off be v : Nat) {s : State} (hs : State.canonical s) :
    State.canonical (cfgLand off be v s) := by
  unfold cfgLand
  repeat' first
    | with_reducible assumption
    | with_reducible apply Leads.next
    | with_reducible exact Leads.fault _
    | with_reducible apply OptLeads.some
    | with_reducible exact OptLeads.none
    | with_reducible apply OptLeads.map
    | with_reducible apply setCfg_canonical
    | with_reducible apply took_canonical
    | with_reducible apply flushMsix_canonical
    | with_reducible apply execFlr_canonical
    | with_reducible refine Leads.elim (execFlr_canonical ?_) (by with_reducible assumption)
    | with_reducible apply execD0Return_canonical
    | with_reducible refine Leads.elim (execD0Return_canonical ?_) (by with_reducible assumption)
    | with_reducible apply execD3hotEntry_canonical
    | with_reducible refine Leads.elim (execD3hotEntry_canonical ?_) (by with_reducible assumption)
    | with_reducible apply execBusMasterEnable_canonical
    | with_reducible refine Leads.elim (execBusMasterEnable_canonical ?_) (by with_reducible assumption)
    | with_reducible apply execBusMasterDisable_canonical
    | with_reducible refine Leads.elim (execBusMasterDisable_canonical ?_) (by with_reducible assumption)
    | with_reducible apply evalLine_canonical
    | extract_lets
    | (simp only [↓State.canonical_mk]; with_reducible apply Good.of)
    | split
    | (with_reducible intro _)
    | dsimp only
    | dsimp +zetaDelta only

theorem cfgWrite_canonical (off be v : Nat) {s : State} (hs : State.canonical s) :
    State.canonical (cfgWrite off be v s) := by
  unfold cfgWrite
  repeat' first
    | with_reducible assumption
    | with_reducible apply Leads.next
    | with_reducible exact Leads.fault _
    | with_reducible apply OptLeads.some
    | with_reducible exact OptLeads.none
    | with_reducible apply OptLeads.map
    | with_reducible apply cfgLand_canonical
    | extract_lets
    | (simp only [↓State.canonical_mk]; with_reducible apply Good.of)
    | split
    | (with_reducible intro _)
    | dsimp only
    | dsimp +zetaDelta only

theorem acceptWrite_canonical (r : Requester) (off be v : Nat) {s : State} (hs : State.canonical s) :
    State.canonical (acceptWrite r off be v s) := by
  unfold acceptWrite
  repeat' first
    | with_reducible assumption
    | with_reducible apply Leads.next
    | with_reducible exact Leads.fault _
    | with_reducible apply OptLeads.some
    | with_reducible exact OptLeads.none
    | with_reducible apply OptLeads.map
    | with_reducible apply writeWord_canonical
    | with_reducible apply hostDrop_canonical
    | extract_lets
    | (simp only [↓State.canonical_mk]; with_reducible apply Good.of)
    | split
    | (with_reducible intro _)
    | dsimp only
    | dsimp +zetaDelta only

theorem execRegisterWrite_canonical (r : Requester) (off be : Nat) (value : Word) {s : State} (hs : State.canonical s) :
    Leads State.canonical (execRegisterWrite r off be value s) := by
  unfold execRegisterWrite
  repeat' first
    | with_reducible assumption
    | with_reducible apply Leads.next
    | with_reducible exact Leads.fault _
    | with_reducible apply OptLeads.some
    | with_reducible exact OptLeads.none
    | with_reducible apply OptLeads.map
    | with_reducible apply acceptWrite_canonical
    | with_reducible apply cfgWrite_canonical
    | with_reducible apply land_canonical
    | with_reducible refine Leads.elim (land_canonical _ _ _ ?_ ?_) (by with_reducible assumption)
    | extract_lets
    | (simp only [↓State.canonical_mk]; with_reducible apply Good.of)
    | split
    | (with_reducible intro _)
    | dsimp only
    | dsimp +zetaDelta only

end Sys2Proof.Machine
end

