-- ==== Sys2Proof/Laws/CanonDma.lean ====
section
/-! SUPPORT. The canonical form is kept by the operations of Machine/Dma.lean. -/

set_option linter.all false

namespace Sys2Proof.Machine

theorem aside_canonical (rest : List (Nat × Instr)) (k : State → Result) {s : State}
    (hk : ∀ x : State, State.canonical x → Leads State.canonical (k x)) (hs : State.canonical s) :
    Leads State.canonical (aside rest k s) := by
  have h0 : ∀ x : State, State.canonical x → State.canonical { x with waiting := [] } := fun _ h => h
  unfold aside
  split
  · rename_i t h; exact Leads.next (hk _ (h0 s hs) t h)
  · exact hk _ (h0 s hs)

theorem asRetired_canonical (i : Island) (k : State → Result) {s : State}
    (hk : ∀ x : State, State.canonical x → Leads State.canonical (k x)) (hs : State.canonical s) :
    Leads State.canonical (asRetired i k s) := by
  have h0 : ∀ x : State, State.canonical x → State.canonical { x with sys := { x.sys with retired := i :: x.sys.retired } } := fun _ h => h
  unfold asRetired
  split
  · rename_i t h
    exact Leads.next (setF_canonical _ _ (setF_canonical _ _ (hk _ (h0 s hs) t h)))
  · exact hk _ (h0 s hs)

theorem popRead_canonical {s : State} (hs : State.canonical s) :
    State.canonical (popRead s).2 := by
  unfold popRead
  repeat' first
    | with_reducible assumption
    | with_reducible apply Leads.next
    | with_reducible exact Leads.fault _
    | with_reducible apply OptLeads.some
    | with_reducible exact OptLeads.none
    | with_reducible apply OptLeads.map
    | extract_lets
    | (simp only [↓State.canonical_mk]; with_reducible apply Good.of)
    | split
    | (with_reducible intro _)
    | dsimp only
    | dsimp +zetaDelta only

theorem popRead_canonical_eq {s : State} (hs : State.canonical s) {x y} (e : popRead s = (x, y)) : State.canonical y := by
  have := popRead_canonical hs
  rw [e] at this; exact this

theorem readWordBy_canonical (r : Requester) (off : Nat) {s : State} (hs : State.canonical s) :
    State.canonical (readWordBy r off s).2 := by
  unfold readWordBy
  repeat' first
    | with_reducible assumption
    | with_reducible apply Leads.next
    | with_reducible exact Leads.fault _
    | with_reducible apply OptLeads.some
    | with_reducible exact OptLeads.none
    | with_reducible apply OptLeads.map
    | with_reducible apply popRead_canonical
    | with_reducible refine popRead_canonical_eq ?_ (by with_reducible assumption)
    | with_reducible apply withFin_canonical
    | with_reducible apply took_canonical
    | with_reducible apply execPeerLockRead_canonical
    | with_reducible refine Leads.elim (execPeerLockRead_canonical _ _ _ ?_) (by with_reducible assumption)
    | with_reducible apply execLockRead_canonical
    | with_reducible refine Leads.elim (execLockRead_canonical _ _ ?_) (by with_reducible assumption)
    | with_reducible apply execMailboxTake_canonical
    | with_reducible refine Leads.elim (execMailboxTake_canonical _ _ ?_) (by with_reducible assumption)
    | with_reducible apply execCoefDataAccess_canonical
    | with_reducible refine Leads.elim (execCoefDataAccess_canonical _ ?_) (by with_reducible assumption)
    | with_reducible apply useFree_canonical
    | with_reducible apply useFrees_canonical
    | extract_lets
    | (simp only [↓State.canonical_mk]; with_reducible apply Good.of)
    | split
    | (with_reducible intro _)
    | dsimp only
    | dsimp +zetaDelta only

theorem readWordBy_canonical_eq (r : Requester) (off : Nat) {s : State} (hs : State.canonical s) {x y} (e : readWordBy r off s = (x, y)) : State.canonical y := by
  have := readWordBy_canonical r off hs
  rw [e] at this; exact this

theorem busRead_canonical (r : Requester) (off : Nat) {s : State} (hs : State.canonical s) :
    State.canonical (busRead r off s).2 := by
  unfold busRead
  repeat' first
    | with_reducible assumption
    | with_reducible apply Leads.next
    | with_reducible exact Leads.fault _
    | with_reducible apply OptLeads.some
    | with_reducible exact OptLeads.none
    | with_reducible apply OptLeads.map
    | with_reducible apply readWordBy_canonical
    | with_reducible refine readWordBy_canonical_eq _ _ ?_ (by with_reducible assumption)
    | with_reducible apply retiredAccess_canonical
    | with_reducible apply ungate_canonical
    | extract_lets
    | (simp only [↓State.canonical_mk]; with_reducible apply Good.of)
    | split
    | (with_reducible intro _)
    | dsimp only
    | dsimp +zetaDelta only

theorem busRead_canonical_eq (r : Requester) (off : Nat) {s : State} (hs : State.canonical s) {x y} (e : busRead r off s = (x, y)) : State.canonical y := by
  have := busRead_canonical r off hs
  rw [e] at this; exact this

theorem busWrite_canonical (r : Requester) (off v : Nat) {s : State} (hs : State.canonical s) :
    State.canonical (busWrite r off v s) := by
  unfold busWrite
  repeat' first
    | with_reducible assumption
    | with_reducible apply Leads.next
    | with_reducible exact Leads.fault _
    | with_reducible apply OptLeads.some
    | with_reducible exact OptLeads.none
    | with_reducible apply OptLeads.map
    | with_reducible apply writeWord_canonical
    | with_reducible apply retiredAccess_canonical
    | with_reducible apply ungate_canonical
    | extract_lets
    | (simp only [↓State.canonical_mk]; with_reducible apply Good.of)
    | split
    | (with_reducible intro _)
    | dsimp only
    | dsimp +zetaDelta only

theorem accAccess_canonical (a : Nat) (w : Option Word) {s : State} (hs : State.canonical s) :
    State.canonical (accAccess a w s) := by
  unfold accAccess
  repeat' first
    | with_reducible assumption
    | with_reducible apply Leads.next
    | with_reducible exact Leads.fault _
    | with_reducible apply OptLeads.some
    | with_reducible exact OptLeads.none
    | with_reducible apply OptLeads.map
    | with_reducible apply withFin_canonical
    | with_reducible apply execAccumulatorAccess_canonical
    | with_reducible refine Leads.elim (execAccumulatorAccess_canonical _ _ _ ?_) (by with_reducible assumption)
    | extract_lets
    | (simp only [↓State.canonical_mk]; with_reducible apply Good.of)
    | split
    | (with_reducible intro _)
    | dsimp only
    | dsimp +zetaDelta only

theorem deviceRead_canonical (r : Requester) (a : Nat) {s : State} (hs : State.canonical s) :
    State.canonical (deviceRead r a s).2 := by
  unfold deviceRead
  repeat' first
    | with_reducible assumption
    | with_reducible apply Leads.next
    | with_reducible exact Leads.fault _
    | with_reducible apply OptLeads.some
    | with_reducible exact OptLeads.none
    | with_reducible apply OptLeads.map
    | with_reducible apply accAccess_canonical
    | with_reducible apply busRead_canonical
    | with_reducible refine busRead_canonical_eq _ _ ?_ (by with_reducible assumption)
    | with_reducible apply popRead_canonical
    | with_reducible refine popRead_canonical_eq ?_ (by with_reducible assumption)
    | with_reducible apply useFree_canonical
    | extract_lets
    | (simp only [↓State.canonical_mk]; with_reducible apply Good.of)
    | split
    | (with_reducible intro _)
    | dsimp only
    | dsimp +zetaDelta only

theorem deviceRead_canonical_eq (r : Requester) (a : Nat) {s : State} (hs : State.canonical s) {x y} (e : deviceRead r a s = (x, y)) : State.canonical y := by
  have := deviceRead_canonical r a hs
  rw [e] at this; exact this

theorem deviceWrite_canonical (r : Requester) (a v : Nat) {s : State} (hs : State.canonical s) :
    State.canonical (deviceWrite r a v s) := by
  unfold deviceWrite
  repeat' first
    | with_reducible assumption
    | with_reducible apply Leads.next
    | with_reducible exact Leads.fault _
    | with_reducible apply OptLeads.some
    | with_reducible exact OptLeads.none
    | with_reducible apply OptLeads.map
    | with_reducible apply accAccess_canonical
    | with_reducible apply busWrite_canonical
    | extract_lets
    | (simp only [↓State.canonical_mk]; with_reducible apply Good.of)
    | split
    | (with_reducible intro _)
    | dsimp only
    | dsimp +zetaDelta only

theorem deviceReads_canonical (r : Requester) (a n : Nat) {s : State} (hs : State.canonical s) :
    State.canonical (deviceReads r a n s).2 := by
  induction n generalizing a s with
  | zero =>
    unfold deviceReads
    repeat' first
      | with_reducible assumption
      | with_reducible apply Leads.next
      | with_reducible exact Leads.fault _
      | with_reducible apply OptLeads.some
      | with_reducible exact OptLeads.none
      | with_reducible apply OptLeads.map
      | with_reducible apply deviceRead_canonical
      | with_reducible refine deviceRead_canonical_eq _ _ ?_ (by with_reducible assumption)
      | extract_lets
      | (simp only [↓State.canonical_mk]; with_reducible apply Good.of)
      | split
      | (with_reducible intro _)
      | dsimp only
      | dsimp +zetaDelta only
  | succ n ih =>
    unfold deviceReads
    repeat' first
      | with_reducible assumption
      | with_reducible apply Leads.next
      | with_reducible exact Leads.fault _
      | with_reducible apply OptLeads.some
      | with_reducible exact OptLeads.none
      | with_reducible apply OptLeads.map
      | with_reducible apply ih
      | with_reducible apply deviceRead_canonical
      | with_reducible refine deviceRead_canonical_eq _ _ ?_ (by with_reducible assumption)
      | extract_lets
      | (simp only [↓State.canonical_mk]; with_reducible apply Good.of)
      | split
      | (with_reducible intro _)
      | dsimp only
      | dsimp +zetaDelta only

theorem deviceReads_canonical_eq (r : Requester) (a n : Nat) {s : State} (hs : State.canonical s) {x y} (e : deviceReads r a n s = (x, y)) : State.canonical y := by
  have := deviceReads_canonical r a n hs
  rw [e] at this; exact this

theorem deviceWrites_canonical (r : Requester) (a n : Nat) (bs : List Nat) {s : State} (hs : State.canonical s) :
    State.canonical (deviceWrites r a n bs s) := by
  induction n generalizing a bs s with
  | zero =>
    unfold deviceWrites
    repeat' first
      | with_reducible assumption
      | with_reducible apply Leads.next
      | with_reducible exact Leads.fault _
      | with_reducible apply OptLeads.some
      | with_reducible exact OptLeads.none
      | with_reducible apply OptLeads.map
      | with_reducible apply deviceWrite_canonical
      | extract_lets
      | (simp only [↓State.canonical_mk]; with_reducible apply Good.of)
      | split
      | (with_reducible intro _)
      | dsimp only
      | dsimp +zetaDelta only
  | succ n ih =>
    unfold deviceWrites
    repeat' first
      | with_reducible assumption
      | with_reducible apply Leads.next
      | with_reducible exact Leads.fault _
      | with_reducible apply OptLeads.some
      | with_reducible exact OptLeads.none
      | with_reducible apply OptLeads.map
      | with_reducible apply ih
      | with_reducible apply deviceWrite_canonical
      | extract_lets
      | (simp only [↓State.canonical_mk]; with_reducible apply Good.of)
      | split
      | (with_reducible intro _)
      | dsimp only
      | dsimp +zetaDelta only

theorem execCoreAccess_canonical (core : Fin 9) (kind : AccessKind) (addr size value : Nat) (evict : List Nat) (issued : Bool) {s : State} (hs : State.canonical s) :
    Leads State.canonical (execCoreAccess core kind addr size value evict issued s) := by
  unfold execCoreAccess
  repeat' first
    | with_reducible assumption
    | with_reducible apply Leads.next
    | with_reducible exact Leads.fault _
    | with_reducible apply OptLeads.some
    | with_reducible exact OptLeads.none
    | with_reducible apply OptLeads.map
    | with_reducible apply deviceWrites_canonical
    | with_reducible apply deviceReads_canonical
    | with_reducible refine deviceReads_canonical_eq _ _ _ ?_ (by with_reducible assumption)
    | with_reducible apply request_canonical
    | with_reducible apply emit_canonical
    | with_reducible apply forEach_canonical
    | with_reducible apply forEach_canonical
    | extract_lets
    | (simp only [↓State.canonical_mk]; with_reducible apply Good.of)
    | split
    | (with_reducible intro _)
    | dsimp only
    | dsimp +zetaDelta only

theorem dmaSource_canonical (c : Fin 16) (d : DmaDesc) (host : List Nat) {s : State} (hs : State.canonical s) :
    State.canonical (dmaSource c d host s).2 := by
  unfold dmaSource
  repeat' first
    | with_reducible assumption
    | with_reducible apply Leads.next
    | with_reducible exact Leads.fault _
    | with_reducible apply OptLeads.some
    | with_reducible exact OptLeads.none
    | with_reducible apply OptLeads.map
    | with_reducible apply deviceReads_canonical
    | with_reducible refine deviceReads_canonical_eq _ _ _ ?_ (by with_reducible assumption)
    | with_reducible apply readHost_canonical
    | extract_lets
    | (simp only [↓State.canonical_mk]; with_reducible apply Good.of)
    | split
    | (with_reducible intro _)
    | dsimp only
    | dsimp +zetaDelta only

theorem dmaSource_canonical_eq (c : Fin 16) (d : DmaDesc) (host : List Nat) {s : State} (hs : State.canonical s) {x y} (e : dmaSource c d host s = (x, y)) : State.canonical y := by
  have := dmaSource_canonical c d host hs
  rw [e] at this; exact this

theorem cleanRange_canonical (a n : Nat) {s : State} (hs : State.canonical s) :
    State.canonical (cleanRange a n s) := by
  unfold cleanRange
  repeat' first
    | with_reducible assumption
    | with_reducible apply Leads.next
    | with_reducible exact Leads.fault _
    | with_reducible apply OptLeads.some
    | with_reducible exact OptLeads.none
    | with_reducible apply OptLeads.map
    | extract_lets
    | (simp only [↓State.canonical_mk]; with_reducible apply Good.of)
    | split
    | (with_reducible intro _)
    | dsimp only
    | dsimp +zetaDelta only

theorem dmaStore_canonical (c : Fin 16) (d : DmaDesc) (bytes : List Nat) {s : State} (hs : State.canonical s) :
    State.canonical (dmaStore c d bytes s) := by
  unfold dmaStore
  repeat' first
    | with_reducible assumption
    | with_reducible apply Leads.next
    | with_reducible exact Leads.fault _
    | with_reducible apply OptLeads.some
    | with_reducible exact OptLeads.none
    | with_reducible apply OptLeads.map
    | with_reducible apply cleanRange_canonical
    | with_reducible apply deviceWrites_canonical
    | with_reducible apply storeBytes_canonical
    | with_reducible apply postHost_canonical
    | extract_lets
    | (simp only [↓State.canonical_mk]; with_reducible apply Good.of)
    | split
    | (with_reducible intro _)
    | dsimp only
    | dsimp +zetaDelta only

theorem dmaTransfer_canonical (c : Fin 16) (d : DmaDesc) (host : List Nat) (dstFail limit : Option Nat) {s : State} (hs : State.canonical s) :
    State.canonical (dmaTransfer c d host dstFail limit s).2 := by
  unfold dmaTransfer
  repeat' first
    | with_reducible assumption
    | with_reducible apply Leads.next
    | with_reducible exact Leads.fault _
    | with_reducible apply OptLeads.some
    | with_reducible exact OptLeads.none
    | with_reducible apply OptLeads.map
    | with_reducible apply dmaStore_canonical
    | with_reducible apply dmaSource_canonical
    | with_reducible refine dmaSource_canonical_eq _ _ _ ?_ (by with_reducible assumption)
    | with_reducible apply run_canonical
    | extract_lets
    | (simp only [↓State.canonical_mk]; with_reducible apply Good.of)
    | split
    | (with_reducible intro _)
    | dsimp only
    | dsimp +zetaDelta only

theorem dmaTransfer_canonical_eq (c : Fin 16) (d : DmaDesc) (host : List Nat) (dstFail limit : Option Nat) {s : State} (hs : State.canonical s) {x y} (e : dmaTransfer c d host dstFail limit s = (x, y)) : State.canonical y := by
  have := dmaTransfer_canonical c d host dstFail limit hs
  rw [e] at this; exact this

theorem execDmaDescriptor_canonical (c : Fin 16) (host : List Nat) (dstFail limit : Option Nat) {s : State} (hs : State.canonical s) :
    Leads State.canonical (execDmaDescriptor c host dstFail limit s) := by
  unfold execDmaDescriptor
  repeat' first
    | with_reducible assumption
    | with_reducible apply Leads.next
    | with_reducible exact Leads.fault _
    | with_reducible apply OptLeads.some
    | with_reducible exact OptLeads.none
    | with_reducible apply OptLeads.map
    | with_reducible apply dmaTransfer_canonical
    | with_reducible refine dmaTransfer_canonical_eq _ _ _ _ _ ?_ (by with_reducible assumption)
    | with_reducible apply run_canonical
    | with_reducible apply setF_canonical
    | with_reducible apply setF_canonical
    | extract_lets
    | (simp only [↓State.canonical_mk]; with_reducible apply Good.of)
    | split
    | (with_reducible intro _)
    | dsimp only
    | dsimp +zetaDelta only

theorem execResetAccessTimeout_canonical {s : State} (hs : State.canonical s) :
    Leads State.canonical (execResetAccessTimeout s) := by
  unfold execResetAccessTimeout
  repeat' first
    | with_reducible assumption
    | with_reducible apply Leads.next
    | with_reducible exact Leads.fault _
    | with_reducible apply OptLeads.some
    | with_reducible exact OptLeads.none
    | with_reducible apply OptLeads.map
    | with_reducible apply asRetired_canonical
    | with_reducible refine Leads.elim (asRetired_canonical _ _ ?_ ?_) (by with_reducible assumption)
    | with_reducible apply aside_canonical
    | with_reducible refine Leads.elim (aside_canonical _ _ ?_ ?_) (by with_reducible assumption)
    | with_reducible apply execDmaDescriptor_canonical
    | with_reducible refine Leads.elim (execDmaDescriptor_canonical _ _ _ _ ?_) (by with_reducible assumption)
    | with_reducible apply execCoreAccess_canonical
    | with_reducible refine Leads.elim (execCoreAccess_canonical _ _ _ _ _ _ _ ?_) (by with_reducible assumption)
    | with_reducible apply event_canonical
    | extract_lets
    | (simp only [↓State.canonical_mk]; with_reducible apply Good.of)
    | split
    | (with_reducible intro _)
    | dsimp only
    | dsimp +zetaDelta only

end Sys2Proof.Machine
end

