-- ==== Sys2Proof/Laws/CanonPages.lean ====
section
/-! SUPPORT. The canonical form is kept by the operations of Machine/Pages.lean. -/

set_option linter.all false

namespace Sys2Proof.Machine

theorem execIdentify_canonical (cid : Nat) {s : State} (hs : State.canonical s) :
    Leads State.canonical (execIdentify cid s) := by
  unfold execIdentify
  repeat' first
    | with_reducible assumption
    | with_reducible apply Leads.next
    | with_reducible exact Leads.fault _
    | with_reducible apply OptLeads.some
    | with_reducible exact OptLeads.none
    | with_reducible apply OptLeads.map
    | with_reducible apply reply_canonical
    | with_reducible apply withBuffer_canonical
    | with_reducible apply refuse_canonical
    | with_reducible apply runAdmin_canonical
    | with_reducible refine Leads.elim (runAdmin_canonical _ _ _ _ ?_ ?_) (by with_reducible assumption)
    | extract_lets
    | (simp only [↓State.canonical_mk]; with_reducible apply Good.of)
    | split
    | (with_reducible intro _)
    | dsimp only
    | dsimp +zetaDelta only

theorem execGetLog_canonical (cid : Nat) {s : State} (hs : State.canonical s) :
    Leads State.canonical (execGetLog cid s) := by
  unfold execGetLog
  repeat' first
    | with_reducible assumption
    | with_reducible apply Leads.next
    | with_reducible exact Leads.fault _
    | with_reducible apply OptLeads.some
    | with_reducible exact OptLeads.none
    | with_reducible apply OptLeads.map
    | with_reducible apply reply_canonical
    | with_reducible apply withBuffer_canonical
    | with_reducible apply refuse_canonical
    | with_reducible apply runAdmin_canonical
    | with_reducible refine Leads.elim (runAdmin_canonical _ _ _ _ ?_ ?_) (by with_reducible assumption)
    | with_reducible apply useFrees_canonical
    | extract_lets
    | (simp only [↓State.canonical_mk]; with_reducible apply Good.of)
    | split
    | (with_reducible intro _)
    | dsimp only
    | dsimp +zetaDelta only

end Sys2Proof.Machine
end

