-- ==== Sys2Proof/Laws/CanonDispatch.lean ====
section
/-! SUPPORT. The canonical form is kept by the operations of Machine/Dispatch.lean. -/

set_option linter.all false

namespace Sys2Proof.Machine

theorem exec_canonical (i : Instr) {s : State} (hs : State.canonical s) : Leads State.canonical (exec i s) := by
  unfold exec
  cases i with
  | registerWrite _ _ _ _ => exact execRegisterWrite_canonical _ _ _ _ hs
  | arrayValidWrite _ _ => exact execArrayValidWrite_canonical _ _ hs
  | volumeValidWrite _ _ => exact execVolumeValidWrite_canonical _ _ hs
  | xlateGo _ => exact execXlateGo_canonical _ hs
  | evalStart _ => exact execEvalStart_canonical _ hs
  | ringTailWrite _ _ => exact execRingTailWrite_canonical _ _ hs
  | coefDataAccess _ => exact execCoefDataAccess_canonical _ hs
  | planRetry _ => exact execPlanRetry_canonical _ hs
  | enginePause _ _ => exact execEnginePause_canonical _ _ hs
  | engineRetire _ => exact execEngineRetire_canonical _ hs
  | engineTest _ => exact execEngineTest_canonical _ hs
  | forceWtWrite _ => exact execForceWtWrite_canonical _ hs
  | packHealthyWrite _ => exact execPackHealthyWrite_canonical _ hs
  | partnerLiveWrite _ => exact execPartnerLiveWrite_canonical _ hs
  | jnlAlloc _ => exact execJnlAlloc_canonical _ hs
  | wakeRetry _ => exact execWakeRetry_canonical _ hs
  | wakeDeny _ => exact execWakeDeny_canonical _ hs
  | awakeWrite _ _ => exact execAwakeWrite_canonical _ _ hs
  | escDone _ _ _ => exact execEscDone_canonical _ _ _ hs
  | frontierEnable _ _ => exact execFrontierEnable_canonical _ _ hs
  | intInject _ => exact execIntInject_canonical _ hs
  | adminSqTailWrite _ => exact execAdminSqTailWrite_canonical _ hs
  | adminCqHeadWrite _ => exact execAdminCqHeadWrite_canonical _ hs
  | xlatCommit _ => exact execXlatCommit_canonical _ hs
  | hostRaise _ _ => exact execHostRaise_canonical _ _ hs
  | converterEnable _ => exact execConverterEnable_canonical _ hs
  | standbyOffsetWrite _ => exact execStandbyOffsetWrite_canonical _ hs
  | slotEnableWrite _ _ _ => exact execSlotEnableWrite_canonical _ _ _ hs
  | slotDisableWrite _ _ _ => exact execSlotDisableWrite_canonical _ _ _ hs
  | spinWrite _ => exact execSpinWrite_canonical _ hs
  | chargeEnable _ => exact execChargeEnable_canonical _ hs
  | batCountWrite _ => exact execBatCountWrite_canonical _ hs
  | smbusTransaction _ _ _ => exact execSmbusTransaction_canonical _ _ _ hs
  | fanRunWrite _ _ => exact execFanRunWrite_canonical _ _ hs
  | fanRestart _ => exact execFanRestart_canonical _ hs
  | fanDemandWrite _ _ => exact execFanDemandWrite_canonical _ _ hs
  | lineBeat _ => exact execLineBeat_canonical _ hs
  | data _ => exact execData_canonical _ hs
  | fabTxTail _ => exact execFabTxTail_canonical _ hs
  | mailboxSend _ _ _ => exact execMailboxSend_canonical _ _ _ hs
  | mailboxTake _ _ => exact execMailboxTake_canonical _ _ hs
  | boxRecall _ _ => exact execBoxRecall_canonical _ _ hs
  | lockRead _ _ => exact execLockRead_canonical _ _ hs
  | lockRelease _ _ _ => exact execLockRelease_canonical _ _ _ hs
  | lockForce _ _ => exact execLockForce_canonical _ _ hs
  | peerLockRead _ _ _ => exact execPeerLockRead_canonical _ _ _ hs
  | peerLockRelease _ _ => exact execPeerLockRelease_canonical _ _ hs
  | dmaResume _ => exact execDmaResume_canonical _ hs
  | dmaChannelDisable _ => exact execDmaChannelDisable_canonical _ hs
  | dramPpr _ _ _ => exact execDramPpr_canonical _ _ _ hs
  | coldReset _ => exact execColdReset_canonical _ hs
  | warmReset _ => exact execWarmReset_canonical _ hs
  | coreRestart _ => exact execCoreRestart_canonical _ hs
  | coreAccess _ _ _ _ _ _ _ => exact execCoreAccess_canonical _ _ _ _ _ _ _ hs
  | islandRegate _ => exact execIslandRegate_canonical _ hs
  | loopEvaluation _ => exact execLoopEvaluation_canonical _ hs
  | evalDone _ => exact execEvalDone_canonical _ hs
  | arrayAssembly _ => exact execArrayAssembly_canonical _ hs
  | jobStart _ => exact execJobStart_canonical _ hs
  | jobComplete _ _ _ _ _ _ _ => exact execJobComplete_canonical _ _ _ _ _ _ _ hs
  | shadowArbitrationDone _ _ => exact execShadowArbitrationDone_canonical _ _ hs
  | jobAgePromotion _ => exact execJobAgePromotion_canonical _ hs
  | katDone _ _ => exact execKatDone_canonical _ _ hs
  | accumulatorAccess _ _ _ => exact execAccumulatorAccess_canonical _ _ _ hs
  | hostDataIngest _ _ _ => exact execHostDataIngest_canonical _ _ _ hs
  | writeCommit _ _ => exact execWriteCommit_canonical _ _ hs
  | wtHoldTimeout _ _ => exact execWtHoldTimeout_canonical _ _ hs
  | writebackAgeExpiry _ _ => exact execWritebackAgeExpiry_canonical _ _ hs
  | writebackStart _ _ => exact execWritebackStart_canonical _ _ hs
  | rowLockGrant _ _ => exact execRowLockGrant_canonical _ _ hs
  | intentLanded _ => exact execIntentLanded_canonical _ hs
  | intentRetire _ => exact execIntentRetire_canonical _ hs
  | journalReplay _ _ _ _ _ => exact execJournalReplay_canonical _ _ _ _ _ hs
  | memberCommandComplete _ _ _ _ _ _ => exact execMemberCommandComplete_canonical _ _ _ _ _ _ hs
  | memberCommandTimeout _ _ => exact execMemberCommandTimeout_canonical _ _ hs
  | slotLinkDown _ => exact execSlotLinkDown_canonical _ hs
  | slotLinkUp _ _ => exact execSlotLinkUp_canonical _ _ hs
  | linkDownEraseTimer _ => exact execLinkDownEraseTimer_canonical _ hs
  | rebuildRow _ _ => exact execRebuildRow_canonical _ _ hs
  | rebuildCheckpoint _ => exact execRebuildCheckpoint_canonical _ hs
  | grazeStep _ _ _ _ => exact execGrazeStep_canonical _ _ _ _ hs
  | grazeResume _ _ => exact execGrazeResume_canonical _ _ hs
  | hostDataEgress _ _ _ _ => exact execHostDataEgress_canonical _ _ _ _ hs
  | doorbellPoll _ _ => exact execDoorbellPoll_canonical _ _ hs
  | commandFetch _ => exact execCommandFetch_canonical _ hs
  | identify _ => exact execIdentify_canonical _ hs
  | getFeature _ => exact execGetFeature_canonical _ hs
  | setFeature _ => exact execSetFeature_canonical _ hs
  | setFeatureWriteThrough _ => exact execSetFeatureWriteThrough_canonical _ hs
  | getLog _ => exact execGetLog_canonical _ hs
  | createIoQueue _ => exact execCreateIoQueue_canonical _ hs
  | deleteIoQueue _ => exact execDeleteIoQueue_canonical _ hs
  | queueDeleteDrained _ => exact execQueueDeleteDrained_canonical _ hs
  | arrayCreate _ _ _ => exact execArrayCreate_canonical _ _ _ hs
  | arrayDelete _ => exact execArrayDelete_canonical _ hs
  | volumeCreate _ _ => exact execVolumeCreate_canonical _ _ hs
  | volumeFormat _ => exact execVolumeFormat_canonical _ hs
  | volumeDelete _ => exact execVolumeDelete_canonical _ hs
  | volumeDeleteDrained _ => exact execVolumeDeleteDrained_canonical _ hs
  | memberReplace _ _ => exact execMemberReplace_canonical _ _ hs
  | selfTestShort _ => exact execSelfTestShort_canonical _ hs
  | selfTestExtended _ => exact execSelfTestExtended_canonical _ hs
  | selfTestAbort _ => exact execSelfTestAbort_canonical _ hs
  | selfTestDone _ _ => exact execSelfTestDone_canonical _ _ hs
  | powerStateQuery _ => exact execPowerStateQuery_canonical _ hs
  | powerStatePark _ => exact execPowerStatePark_canonical _ hs
  | powerStateWake _ => exact execPowerStateWake_canonical _ hs
  | swap _ => exact execSwap_canonical _ hs
  | enterService _ => exact execEnterService_canonical _ hs
  | leaveService _ => exact execLeaveService_canonical _ hs
  | setPreferred _ => exact execSetPreferred_canonical _ hs
  | revertNow _ _ _ => exact execRevertNow_canonical _ _ _ hs
  | firmwareStage _ => exact execFirmwareStage_canonical _ hs
  | fwCommitStore _ _ => exact execFwCommitStore_canonical _ _ hs
  | fwCommitStoreActivateNext _ _ => exact execFwCommitStoreActivateNext_canonical _ _ hs
  | fwCommitActivateNext _ => exact execFwCommitActivateNext_canonical _ hs
  | fwCommitActivateNow _ _ => exact execFwCommitActivateNow_canonical _ _ hs
  | fwCommitInstallRoot _ _ => exact execFwCommitInstallRoot_canonical _ _ hs
  | packAuthenticate _ _ => exact execPackAuthenticate_canonical _ _ hs
  | packInstallRoot _ _ _ => exact execPackInstallRoot_canonical _ _ _ hs
  | packRemoveRoot _ _ => exact execPackRemoveRoot_canonical _ _ hs
  | setBudget _ _ => exact execSetBudget_canonical _ _ hs
  | setEligibility _ _ => exact execSetEligibility_canonical _ _ hs
  | groupCreate _ _ _ => exact execGroupCreate_canonical _ _ _ hs
  | groupDelete _ _ => exact execGroupDelete_canonical _ _ hs
  | groupResync _ _ => exact execGroupResync_canonical _ _ hs
  | groupRecover _ _ => exact execGroupRecover_canonical _ _ hs
  | forgetNode _ _ => exact execForgetNode_canonical _ _ hs
  | wakeNode _ _ => exact execWakeNode_canonical _ _ hs
  | abort _ => exact execAbort_canonical _ hs
  | read _ _ => exact execRead_canonical _ _ hs
  | write _ _ => exact execWrite_canonical _ _ hs
  | verify _ _ _ => exact execVerify_canonical _ _ _ hs
  | flush _ _ => exact execFlush_canonical _ _ hs
  | flushComplete _ _ => exact execFlushComplete_canonical _ _ hs
  | flushWakeTimeout _ _ => exact execFlushWakeTimeout_canonical _ _ hs
  | writeZeroes _ _ => exact execWriteZeroes_canonical _ _ hs
  | copy _ _ _ _ => exact execCopy_canonical _ _ _ _ hs
  | laneFailure _ _ => exact execLaneFailure_canonical _ _ hs
  | linkTrained _ _ => exact execLinkTrained_canonical _ _ hs
  | bar2Access _ _ _ => exact execBar2Access_canonical _ _ _ hs
  | hostReadError _ => exact execHostReadError_canonical _ hs
  | lineEvaluation _ _ _ => exact execLineEvaluation_canonical _ _ _ hs
  | slotShed _ => exact execSlotShed_canonical _ hs
  | slotTrip _ _ => exact execSlotTrip_canonical _ _ hs
  | cooldownEnd _ => exact execCooldownEnd_canonical _ hs
  | slotPresentChange _ _ _ => exact execSlotPresentChange_canonical _ _ _ hs
  | spinTimeout _ => exact execSpinTimeout_canonical _ hs
  | driveReady _ => exact execDriveReady_canonical _ hs
  | slotLinkTimeout _ => exact execSlotLinkTimeout_canonical _ hs
  | spinupRetry _ => exact execSpinupRetry_canonical _ hs
  | slotOffTimeout _ => exact execSlotOffTimeout_canonical _ hs
  | stopUnitTimeout _ => exact execStopUnitTimeout_canonical _ hs
  | packInserted _ _ _ _ => exact execPackInserted_canonical _ _ _ _ hs
  | chargeWindowExit _ => exact execChargeWindowExit_canonical _ hs
  | coulombConversion _ _ _ _ _ => exact execCoulombConversion_canonical _ _ _ _ _ hs
  | currentStep _ _ => exact execCurrentStep_canonical _ _ hs
  | eod _ _ => exact execEod_canonical _ _ hs
  | authPeriodic _ => exact execAuthPeriodic_canonical _ hs
  | authRetry _ => exact execAuthRetry_canonical _ hs
  | smbusDone _ _ => exact execSmbusDone_canonical _ _ hs
  | keepLow _ => exact execKeepLow_canonical _ hs
  | focPeriod _ _ => exact execFocPeriod_canonical _ _ hs
  | voltLimitClear _ => exact execVoltLimitClear_canonical _ hs
  | observerLoss _ => exact execObserverLoss_canonical _ hs
  | coastRestart _ => exact execCoastRestart_canonical _ hs
  | senseDone _ _ => exact execSenseDone_canonical _ _ hs
  | brakeDone _ => exact execBrakeDone_canonical _ hs
  | alignDone _ => exact execAlignDone_canonical _ hs
  | openRampDone _ => exact execOpenRampDone_canonical _ hs
  | syncDone _ => exact execSyncDone_canonical _ hs
  | startFail _ => exact execStartFail_canonical _ hs
  | startRetry _ => exact execStartRetry_canonical _ hs
  | missingPhase _ => exact execMissingPhase_canonical _ hs
  | fanOvercurrent _ => exact execFanOvercurrent_canonical _ hs
  | fanFaultRestart _ => exact execFanFaultRestart_canonical _ hs
  | fanTokenClaimDone _ => exact execFanTokenClaimDone_canonical _ hs
  | fanTokenLineChange _ => exact execFanTokenLineChange_canonical _ hs
  | fanPowerReport _ _ => exact execFanPowerReport_canonical _ _ hs
  | fanDemandCompute _ => exact execFanDemandCompute_canonical _ hs
  | beat _ _ _ _ => exact execBeat_canonical _ _ _ _ hs
  | beatMiss _ => exact execBeatMiss_canonical _ hs
  | activeClaimDone _ => exact execActiveClaimDone_canonical _ hs
  | activeLineChange _ => exact execActiveLineChange_canonical _ hs
  | powerCheck _ => exact execPowerCheck_canonical _ hs
  | revertHoldoffExpiry _ _ => exact execRevertHoldoffExpiry_canonical _ _ hs
  | holdSelfCheck _ => exact execHoldSelfCheck_canonical _ hs
  | commit _ => exact execCommit_canonical _ hs
  | commitAck _ => exact execCommitAck_canonical _ hs
  | intent _ _ => exact execIntent_canonical _ _ hs
  | intentAck _ => exact execIntentAck_canonical _ hs
  | ceiling _ _ => exact execCeiling_canonical _ _ hs
  | slotState _ _ _ _ => exact execSlotState_canonical _ _ _ _ hs
  | slotAck _ => exact execSlotAck_canonical _ hs
  | fanState _ => exact execFanState_canonical _ hs
  | config _ => exact execConfig_canonical _ hs
  | token _ _ _ => exact execToken_canonical _ _ _ hs
  | relinquishMessage _ => exact execRelinquishMessage_canonical _ hs
  | resync _ _ => exact execResync_canonical _ _ hs
  | blockNak _ => exact execBlockNak_canonical _ hs
  | fabricLinkUp _ _ _ _ => exact execFabricLinkUp_canonical _ _ _ _ hs
  | fabricLinkDown _ => exact execFabricLinkDown_canonical _ hs
  | fabricBleatTimeout _ => exact execFabricBleatTimeout_canonical _ hs
  | parkedListen _ => exact execParkedListen_canonical _ hs
  | bleat _ _ _ => exact execBleat_canonical _ _ _ hs
  | linkCtl _ _ _ => exact execLinkCtl_canonical _ _ _ hs
  | linkReplay _ => exact execLinkReplay_canonical _ hs
  | frameForward _ _ _ => exact execFrameForward_canonical _ _ _ hs
  | lsa _ _ _ _ _ => exact execLsa_canonical _ _ _ _ _ hs
  | lsaExpiry _ => exact execLsaExpiry_canonical _ hs
  | addrReq _ _ _ _ => exact execAddrReq_canonical _ _ _ _ hs
  | addrAssign _ _ _ _ => exact execAddrAssign_canonical _ _ _ _ hs
  | budget _ _ => exact execBudget_canonical _ _ hs
  | tokenReq _ _ _ _ _ _ => exact execTokenReq_canonical _ _ _ _ _ _ hs
  | tokenGrant _ _ _ _ => exact execTokenGrant_canonical _ _ _ _ hs
  | tokenReport _ _ _ _ _ => exact execTokenReport_canonical _ _ _ _ _ hs
  | tokenRelease _ _ => exact execTokenRelease_canonical _ _ hs
  | leaseMove _ _ _ _ => exact execLeaseMove_canonical _ _ _ _ hs
  | tokenRequestDrop _ => exact execTokenRequestDrop_canonical _ hs
  | copyDesc _ _ _ _ _ _ _ _ _ _ => exact execCopyDesc_canonical _ _ _ _ _ _ _ _ _ _ hs
  | copyData _ _ _ _ _ => exact execCopyData_canonical _ _ _ _ _ hs
  | copyAck _ _ _ _ _ => exact execCopyAck_canonical _ _ _ _ _ hs
  | copyBatchTimeout _ _ => exact execCopyBatchTimeout_canonical _ _ hs
  | peerRead _ _ _ _ _ _ _ => exact execPeerRead_canonical _ _ _ _ _ _ _ hs
  | peerData _ _ _ _ _ _ => exact execPeerData_canonical _ _ _ _ _ _ hs
  | flockResyncChunk _ => exact execFlockResyncChunk_canonical _ hs
  | deltaDesc _ _ _ _ _ _ _ _ => exact execDeltaDesc_canonical _ _ _ _ _ _ _ _ hs
  | deltaData _ _ _ _ _ => exact execDeltaData_canonical _ _ _ _ _ hs
  | deltaAck _ _ _ _ => exact execDeltaAck_canonical _ _ _ _ hs
  | wakeReq _ _ => exact execWakeReq_canonical _ _ hs
  | group _ _ => exact execGroup_canonical _ _ hs
  | groupStaleTimer _ => exact execGroupStaleTimer_canonical _ hs
  | cboClean _ _ => exact execCboClean_canonical _ _ hs
  | cboFlush _ _ => exact execCboFlush_canonical _ _ hs
  | cboInval _ _ => exact execCboInval_canonical _ _ hs
  | cacheCe _ => exact execCacheCe_canonical _ hs
  | cacheUe _ _ => exact execCacheUe_canonical _ _ hs
  | tagParityError _ _ => exact execTagParityError_canonical _ _ hs
  | mtimeCompare _ => exact execMtimeCompare_canonical _ hs
  | mailboxTimeout _ => exact execMailboxTimeout_canonical _ hs
  | peerLockRequest _ _ => exact execPeerLockRequest_canonical _ _ hs
  | dmaDescriptor _ _ _ _ => exact execDmaDescriptor_canonical _ _ _ _ hs
  | dmaDescriptorDone _ => exact execDmaDescriptorDone_canonical _ hs
  | sramRowRemap _ _ => exact execSramRowRemap_canonical _ _ hs
  | dramRowLimit _ _ _ => exact execDramRowLimit_canonical _ _ _ hs
  | dramPprDone _ => exact execDramPprDone_canonical _ hs
  | postDone _ _ _ _ => exact execPostDone_canonical _ _ _ _ hs
  | corePeriodicTest _ _ _ => exact execCorePeriodicTest_canonical _ _ _ hs
  | fabricLaneFailure _ _ => exact execFabricLaneFailure_canonical _ _ hs
  | strapChange _ _ _ => exact execStrapChange_canonical _ _ _ hs
  | consoleImageLoad _ _ => exact execConsoleImageLoad_canonical _ _ hs
  | cacheFillComplete _ => exact execCacheFillComplete_canonical _ hs
  | victimWritebackLanded _ => exact execVictimWritebackLanded_canonical _ hs
  | spinupFailure _ => exact execSpinupFailure_canonical _ hs
  | mirrorLinkUp _ => exact execMirrorLinkUp_canonical _ hs
  | chargeWindowEntry _ => exact execChargeWindowEntry_canonical _ hs
  | grazeOverdue _ _ _ => exact execGrazeOverdue_canonical _ _ _ hs
  | nodeUnheardExpiry _ => exact execNodeUnheardExpiry_canonical _ hs
  | copyWakeTimeout _ _ => exact execCopyWakeTimeout_canonical _ _ hs
  | resetAccessTimeout => exact execResetAccessTimeout_canonical hs
  | spinDownExcess => exact execSpinDownExcess_canonical hs
  | idleParkExpiry => exact execIdleParkExpiry_canonical hs
  | enterServing => exact execEnterServing_canonical hs
  | drainComplete => exact execDrainComplete_canonical hs
  | destageComplete => exact execDestageComplete_canonical hs
  | wakeDenied => exact execWakeDenied_canonical hs
  | xlateDone => exact execXlateDone_canonical hs
  | jobDispatch => exact execJobDispatch_canonical hs
  | writeThroughReached => exact execWriteThroughReached_canonical hs
  | replayDoneWrite => exact execReplayDoneWrite_canonical hs
  | fwCommandEntry => exact execFwCommandEntry_canonical hs
  | queueEnable => exact execQueueEnable_canonical hs
  | queueReady => exact execQueueReady_canonical hs
  | queueDisable => exact execQueueDisable_canonical hs
  | queueStopped => exact execQueueStopped_canonical hs
  | kick => exact execKick_canonical hs
  | heartbeatRecord => exact execHeartbeatRecord_canonical hs
  | selfTestResume => exact execSelfTestResume_canonical hs
  | linkRestore => exact execLinkRestore_canonical hs
  | busMasterDisable => exact execBusMasterDisable_canonical hs
  | busMasterEnable => exact execBusMasterEnable_canonical hs
  | flr => exact execFlr_canonical hs
  | flrComplete => exact execFlrComplete_canonical hs
  | perst => exact execPerst_canonical hs
  | hotReset => exact execHotReset_canonical hs
  | dlDown => exact execDlDown_canonical hs
  | d3hotEntry => exact execD3hotEntry_canonical hs
  | d0Return => exact execD0Return_canonical hs
  | xlatDrainDone => exact execXlatDrainDone_canonical hs
  | intxAck => exact execIntxAck_canonical hs
  | mainsLost => exact execMainsLost_canonical hs
  | mainsReturn => exact execMainsReturn_canonical hs
  | converterOverload => exact execConverterOverload_canonical hs
  | overloadClear => exact execOverloadClear_canonical hs
  | converterRegulating => exact execConverterRegulating_canonical hs
  | convFault => exact execConvFault_canonical hs
  | gate1Admit => exact execGate1Admit_canonical hs
  | gate2Admit => exact execGate2Admit_canonical hs
  | moduleUnmate => exact execModuleUnmate_canonical hs
  | packRemoved => exact execPackRemoved_canonical hs
  | chargeTermination => exact execChargeTermination_canonical hs
  | chargeTimeout => exact execChargeTimeout_canonical hs
  | chgFaultRetry => exact execChgFaultRetry_canonical hs
  | restValid => exact execRestValid_canonical hs
  | packEstimate => exact execPackEstimate_canonical hs
  | learnStart => exact execLearnStart_canonical hs
  | learnTimeout => exact execLearnTimeout_canonical hs
  | fanTokenClaim => exact execFanTokenClaim_canonical hs
  | fanTokenRelease => exact execFanTokenRelease_canonical hs
  | fanWatchdogExpiry => exact execFanWatchdogExpiry_canonical hs
  | beatSend => exact execBeatSend_canonical hs
  | roleTake => exact execRoleTake_canonical hs
  | activeClaim => exact execActiveClaim_canonical hs
  | activeRelease => exact execActiveRelease_canonical hs
  | relinquish => exact execRelinquish_canonical hs
  | takeoverComplete => exact execTakeoverComplete_canonical hs
  | watchdogKick => exact execWatchdogKick_canonical hs
  | fwWatchdogExpiry => exact execFwWatchdogExpiry_canonical hs
  | keeperRelease => exact execKeeperRelease_canonical hs
  | watchdogRestart => exact execWatchdogRestart_canonical hs
  | handoverBegin => exact execHandoverBegin_canonical hs
  | handoverPowerOk => exact execHandoverPowerOk_canonical hs
  | handoverPowerFail => exact execHandoverPowerFail_canonical hs
  | handoverCommit => exact execHandoverCommit_canonical hs
  | resyncComplete => exact execResyncComplete_canonical hs
  | swapDue => exact execSwapDue_canonical hs
  | holdUnsyncedTimeout => exact execHoldUnsyncedTimeout_canonical hs
  | mirrorLinkDown => exact execMirrorLinkDown_canonical hs
  | slotStateSend => exact execSlotStateSend_canonical hs
  | fanStateSend => exact execFanStateSend_canonical hs
  | bleatSend => exact execBleatSend_canonical hs
  | lsaRefresh => exact execLsaRefresh_canonical hs
  | addrRetry => exact execAddrRetry_canonical hs
  | tokenReportTimer => exact execTokenReportTimer_canonical hs
  | leaseExpiry => exact execLeaseExpiry_canonical hs
  | bellwetherGrantStart => exact execBellwetherGrantStart_canonical hs
  | deltaResend => exact execDeltaResend_canonical hs
  | clean => exact execClean_canonical hs
  | inval => exact execInval_canonical hs
  | cacheFlush => exact execCacheFlush_canonical hs
  | cleanAll => exact execCleanAll_canonical hs
  | flushAll => exact execFlushAll_canonical hs
  | invalAll => exact execInvalAll_canonical hs
  | maintDone => exact execMaintDone_canonical hs
  | laneRestore => exact execLaneRestore_canonical hs
  | repairRecordPop => exact execRepairRecordPop_canonical hs
  | powerOnReset => exact execPowerOnReset_canonical hs
  | bootTimeout => exact execBootTimeout_canonical hs
  | consoleColdReset => exact execConsoleColdReset_canonical hs
  | consoleWarmReset => exact execConsoleWarmReset_canonical hs
  | consoleDump => exact execConsoleDump_canonical hs
  | hostLinkDownFault => exact execHostLinkDownFault_canonical hs
  | packCutoff => exact execPackCutoff_canonical hs

end Sys2Proof.Machine
end

