-- ==== Sys2Proof/Laws/CanonIdle.lean ====
section
/-! SUPPORT. The canonical form is kept by the operations of Machine/Idle.lean. -/

set_option linter.all false

namespace Sys2Proof.Machine

theorem idle_canonical {s : State} (hs : State.canonical s) :
    Leads State.canonical (idle s) := by
  unfold idle
  repeat' first
    | with_reducible assumption
    | with_reducible apply Leads.next
    | with_reducible exact Leads.fault _
    | with_reducible apply OptLeads.some
    | with_reducible exact OptLeads.none
    | with_reducible apply OptLeads.map
    | with_reducible apply execLoopEvaluation_canonical
    | with_reducible refine Leads.elim (execLoopEvaluation_canonical _ ?_) (by with_reducible assumption)
    | with_reducible apply execHeartbeatRecord_canonical
    | with_reducible refine Leads.elim (execHeartbeatRecord_canonical ?_) (by with_reducible assumption)
    | with_reducible apply sendVectors_canonical
    | with_reducible apply useFree_canonical
    | extract_lets
    | (simp only [↓State.canonical_mk]; with_reducible apply Good.of)
    | split
    | (with_reducible intro _)
    | dsimp only
    | dsimp +zetaDelta only

end Sys2Proof.Machine
end

