-- ==== Sys2Proof/Laws/CanonStep.lean ====
section
/-! SUPPORT. The canonical form is kept by the operations of Machine/Step.lean. -/

set_option linter.all false

namespace Sys2Proof.Machine

theorem State_withFetchWord_canonical {s : State} (nbits w : Nat) (hs : State.canonical s) :
    State.canonical (State.withFetchWord s nbits w) := by
  unfold State.withFetchWord
  repeat' first
    | with_reducible assumption
    | with_reducible apply Leads.next
    | with_reducible exact Leads.fault _
    | with_reducible apply OptLeads.some
    | with_reducible exact OptLeads.none
    | with_reducible apply OptLeads.map
    | extract_lets
    | (simp only [↓State.canonical_mk]; with_reducible apply Good.of)
    | split
    | (with_reducible intro _)
    | dsimp only
    | dsimp +zetaDelta only

end Sys2Proof.Machine
end

