-- ==== Sys2Proof/Laws/State.lean ====
section
/-! SUPPORT. What the basic operations leave of the state: one lemma for each part and operation. -/

namespace Sys2Proof.Machine

@[simp] theorem setF_mem (f : Field) (v : Nat) (s : State) : (setF f v s).mem = s.mem := rfl
@[simp] theorem setF_clock (f : Field) (v : Nat) (s : State) : (setF f v s).clock = s.clock := rfl
@[simp] theorem setF_free (f : Field) (v : Nat) (s : State) : (setF f v s).free = s.free := rfl
@[simp] theorem setF_sys (f : Field) (v : Nat) (s : State) : (setF f v s).sys = s.sys := rfl
@[simp] theorem setF_fan (f : Field) (v : Nat) (s : State) : (setF f v s).fan = s.fan := rfl
@[simp] theorem setF_bat (f : Field) (v : Nat) (s : State) : (setF f v s).bat = s.bat := rfl
@[simp] theorem setF_pwr (f : Field) (v : Nat) (s : State) : (setF f v s).pwr = s.pwr := rfl
@[simp] theorem setF_jnl (f : Field) (v : Nat) (s : State) : (setF f v s).jnl = s.jnl := rfl
@[simp] theorem setF_stp (f : Field) (v : Nat) (s : State) : (setF f v s).stp = s.stp := rfl
@[simp] theorem setF_oxe (f : Field) (v : Nat) (s : State) : (setF f v s).oxe = s.oxe := rfl
@[simp] theorem setF_sas (f : Field) (v : Nat) (s : State) : (setF f v s).sas = s.sas := rfl
@[simp] theorem setF_fov (f : Field) (v : Nat) (s : State) : (setF f v s).fov = s.fov := rfl
@[simp] theorem setF_fab (f : Field) (v : Nat) (s : State) : (setF f v s).fab = s.fab := rfl
@[simp] theorem setF_rpr (f : Field) (v : Nat) (s : State) : (setF f v s).rpr = s.rpr := rfl
@[simp] theorem setF_cch (f : Field) (v : Nat) (s : State) : (setF f v s).cch = s.cch := rfl
@[simp] theorem setF_dma (f : Field) (v : Nat) (s : State) : (setF f v s).dma = s.dma := rfl
@[simp] theorem setF_qmx (f : Field) (v : Nat) (s : State) : (setF f v s).qmx = s.qmx := rfl
@[simp] theorem setF_cmd (f : Field) (v : Nat) (s : State) : (setF f v s).cmd = s.cmd := rfl
@[simp] theorem setF_hif (f : Field) (v : Nat) (s : State) : (setF f v s).hif = s.hif := rfl
@[simp] theorem setF_out (f : Field) (v : Nat) (s : State) : (setF f v s).out = s.out := rfl
@[simp] theorem setF_waiting (f : Field) (v : Nat) (s : State) : (setF f v s).waiting = s.waiting := rfl
@[simp] theorem setF_pending (f : Field) (v : Nat) (s : State) : (setF f v s).pending = s.pending := rfl

@[simp] theorem emit_regs (o : Out) (s : State) : (emit o s).regs = s.regs := rfl
@[simp] theorem emit_mem (o : Out) (s : State) : (emit o s).mem = s.mem := rfl
@[simp] theorem emit_clock (o : Out) (s : State) : (emit o s).clock = s.clock := rfl
@[simp] theorem emit_free (o : Out) (s : State) : (emit o s).free = s.free := rfl
@[simp] theorem emit_sys (o : Out) (s : State) : (emit o s).sys = s.sys := rfl
@[simp] theorem emit_fan (o : Out) (s : State) : (emit o s).fan = s.fan := rfl
@[simp] theorem emit_bat (o : Out) (s : State) : (emit o s).bat = s.bat := rfl
@[simp] theorem emit_pwr (o : Out) (s : State) : (emit o s).pwr = s.pwr := rfl
@[simp] theorem emit_jnl (o : Out) (s : State) : (emit o s).jnl = s.jnl := rfl
@[simp] theorem emit_stp (o : Out) (s : State) : (emit o s).stp = s.stp := rfl
@[simp] theorem emit_oxe (o : Out) (s : State) : (emit o s).oxe = s.oxe := rfl
@[simp] theorem emit_sas (o : Out) (s : State) : (emit o s).sas = s.sas := rfl
@[simp] theorem emit_fov (o : Out) (s : State) : (emit o s).fov = s.fov := rfl
@[simp] theorem emit_fab (o : Out) (s : State) : (emit o s).fab = s.fab := rfl
@[simp] theorem emit_rpr (o : Out) (s : State) : (emit o s).rpr = s.rpr := rfl
@[simp] theorem emit_cch (o : Out) (s : State) : (emit o s).cch = s.cch := rfl
@[simp] theorem emit_dma (o : Out) (s : State) : (emit o s).dma = s.dma := rfl
@[simp] theorem emit_qmx (o : Out) (s : State) : (emit o s).qmx = s.qmx := rfl
@[simp] theorem emit_cmd (o : Out) (s : State) : (emit o s).cmd = s.cmd := rfl
@[simp] theorem emit_hif (o : Out) (s : State) : (emit o s).hif = s.hif := rfl
@[simp] theorem emit_waiting (o : Out) (s : State) : (emit o s).waiting = s.waiting := rfl
@[simp] theorem emit_pending (o : Out) (s : State) : (emit o s).pending = s.pending := rfl

@[simp] theorem writeByte_regs (a : Nat) (v : BitVec 8) (s : State) : (writeByte a v s).regs = s.regs := rfl
@[simp] theorem writeByte_clock (a : Nat) (v : BitVec 8) (s : State) : (writeByte a v s).clock = s.clock := rfl
@[simp] theorem writeByte_free (a : Nat) (v : BitVec 8) (s : State) : (writeByte a v s).free = s.free := rfl
@[simp] theorem writeByte_sys (a : Nat) (v : BitVec 8) (s : State) : (writeByte a v s).sys = s.sys := rfl
@[simp] theorem writeByte_fan (a : Nat) (v : BitVec 8) (s : State) : (writeByte a v s).fan = s.fan := rfl
@[simp] theorem writeByte_bat (a : Nat) (v : BitVec 8) (s : State) : (writeByte a v s).bat = s.bat := rfl
@[simp] theorem writeByte_pwr (a : Nat) (v : BitVec 8) (s : State) : (writeByte a v s).pwr = s.pwr := rfl
@[simp] theorem writeByte_jnl (a : Nat) (v : BitVec 8) (s : State) : (writeByte a v s).jnl = s.jnl := rfl
@[simp] theorem writeByte_stp (a : Nat) (v : BitVec 8) (s : State) : (writeByte a v s).stp = s.stp := rfl
@[simp] theorem writeByte_oxe (a : Nat) (v : BitVec 8) (s : State) : (writeByte a v s).oxe = s.oxe := rfl
@[simp] theorem writeByte_sas (a : Nat) (v : BitVec 8) (s : State) : (writeByte a v s).sas = s.sas := rfl
@[simp] theorem writeByte_fov (a : Nat) (v : BitVec 8) (s : State) : (writeByte a v s).fov = s.fov := rfl
@[simp] theorem writeByte_fab (a : Nat) (v : BitVec 8) (s : State) : (writeByte a v s).fab = s.fab := rfl
@[simp] theorem writeByte_rpr (a : Nat) (v : BitVec 8) (s : State) : (writeByte a v s).rpr = s.rpr := rfl
@[simp] theorem writeByte_cch (a : Nat) (v : BitVec 8) (s : State) : (writeByte a v s).cch = s.cch := rfl
@[simp] theorem writeByte_dma (a : Nat) (v : BitVec 8) (s : State) : (writeByte a v s).dma = s.dma := rfl
@[simp] theorem writeByte_qmx (a : Nat) (v : BitVec 8) (s : State) : (writeByte a v s).qmx = s.qmx := rfl
@[simp] theorem writeByte_cmd (a : Nat) (v : BitVec 8) (s : State) : (writeByte a v s).cmd = s.cmd := rfl
@[simp] theorem writeByte_hif (a : Nat) (v : BitVec 8) (s : State) : (writeByte a v s).hif = s.hif := rfl
@[simp] theorem writeByte_out (a : Nat) (v : BitVec 8) (s : State) : (writeByte a v s).out = s.out := rfl
@[simp] theorem writeByte_waiting (a : Nat) (v : BitVec 8) (s : State) : (writeByte a v s).waiting = s.waiting := rfl
@[simp] theorem writeByte_pending (a : Nat) (v : BitVec 8) (s : State) : (writeByte a v s).pending = s.pending := rfl

@[simp] theorem useFrees_regs (n : Nat) (s : State) : (useFrees n s).regs = s.regs := rfl
@[simp] theorem useFrees_mem (n : Nat) (s : State) : (useFrees n s).mem = s.mem := rfl
@[simp] theorem useFrees_clock (n : Nat) (s : State) : (useFrees n s).clock = s.clock := rfl
@[simp] theorem useFrees_sys (n : Nat) (s : State) : (useFrees n s).sys = s.sys := rfl
@[simp] theorem useFrees_fan (n : Nat) (s : State) : (useFrees n s).fan = s.fan := rfl
@[simp] theorem useFrees_bat (n : Nat) (s : State) : (useFrees n s).bat = s.bat := rfl
@[simp] theorem useFrees_pwr (n : Nat) (s : State) : (useFrees n s).pwr = s.pwr := rfl
@[simp] theorem useFrees_jnl (n : Nat) (s : State) : (useFrees n s).jnl = s.jnl := rfl
@[simp] theorem useFrees_stp (n : Nat) (s : State) : (useFrees n s).stp = s.stp := rfl
@[simp] theorem useFrees_oxe (n : Nat) (s : State) : (useFrees n s).oxe = s.oxe := rfl
@[simp] theorem useFrees_sas (n : Nat) (s : State) : (useFrees n s).sas = s.sas := rfl
@[simp] theorem useFrees_fov (n : Nat) (s : State) : (useFrees n s).fov = s.fov := rfl
@[simp] theorem useFrees_fab (n : Nat) (s : State) : (useFrees n s).fab = s.fab := rfl
@[simp] theorem useFrees_rpr (n : Nat) (s : State) : (useFrees n s).rpr = s.rpr := rfl
@[simp] theorem useFrees_cch (n : Nat) (s : State) : (useFrees n s).cch = s.cch := rfl
@[simp] theorem useFrees_dma (n : Nat) (s : State) : (useFrees n s).dma = s.dma := rfl
@[simp] theorem useFrees_qmx (n : Nat) (s : State) : (useFrees n s).qmx = s.qmx := rfl
@[simp] theorem useFrees_cmd (n : Nat) (s : State) : (useFrees n s).cmd = s.cmd := rfl
@[simp] theorem useFrees_hif (n : Nat) (s : State) : (useFrees n s).hif = s.hif := rfl
@[simp] theorem useFrees_out (n : Nat) (s : State) : (useFrees n s).out = s.out := rfl
@[simp] theorem useFrees_waiting (n : Nat) (s : State) : (useFrees n s).waiting = s.waiting := rfl
@[simp] theorem useFrees_pending (n : Nat) (s : State) : (useFrees n s).pending = s.pending := rfl

@[simp] theorem ungate_regs (i : Island) (s : State) : (ungate i s).regs = s.regs := rfl
@[simp] theorem ungate_mem (i : Island) (s : State) : (ungate i s).mem = s.mem := rfl
@[simp] theorem ungate_clock (i : Island) (s : State) : (ungate i s).clock = s.clock := rfl
@[simp] theorem ungate_free (i : Island) (s : State) : (ungate i s).free = s.free := rfl
@[simp] theorem ungate_fan (i : Island) (s : State) : (ungate i s).fan = s.fan := rfl
@[simp] theorem ungate_bat (i : Island) (s : State) : (ungate i s).bat = s.bat := rfl
@[simp] theorem ungate_pwr (i : Island) (s : State) : (ungate i s).pwr = s.pwr := rfl
@[simp] theorem ungate_jnl (i : Island) (s : State) : (ungate i s).jnl = s.jnl := rfl
@[simp] theorem ungate_stp (i : Island) (s : State) : (ungate i s).stp = s.stp := rfl
@[simp] theorem ungate_oxe (i : Island) (s : State) : (ungate i s).oxe = s.oxe := rfl
@[simp] theorem ungate_sas (i : Island) (s : State) : (ungate i s).sas = s.sas := rfl
@[simp] theorem ungate_fov (i : Island) (s : State) : (ungate i s).fov = s.fov := rfl
@[simp] theorem ungate_fab (i : Island) (s : State) : (ungate i s).fab = s.fab := rfl
@[simp] theorem ungate_rpr (i : Island) (s : State) : (ungate i s).rpr = s.rpr := rfl
@[simp] theorem ungate_cch (i : Island) (s : State) : (ungate i s).cch = s.cch := rfl
@[simp] theorem ungate_dma (i : Island) (s : State) : (ungate i s).dma = s.dma := rfl
@[simp] theorem ungate_qmx (i : Island) (s : State) : (ungate i s).qmx = s.qmx := rfl
@[simp] theorem ungate_cmd (i : Island) (s : State) : (ungate i s).cmd = s.cmd := rfl
@[simp] theorem ungate_hif (i : Island) (s : State) : (ungate i s).hif = s.hif := rfl
@[simp] theorem ungate_out (i : Island) (s : State) : (ungate i s).out = s.out := rfl
@[simp] theorem ungate_waiting (i : Island) (s : State) : (ungate i s).waiting = s.waiting := rfl
@[simp] theorem ungate_pending (i : Island) (s : State) : (ungate i s).pending = s.pending := rfl

@[simp] theorem setF_regs (f : Field) (v : Nat) (s : State) :
    (setF f v s).regs = Assoc.put s.regs f.reset f.key (v % 2 ^ f.width) := rfl
@[simp] theorem emit_out (o : Out) (s : State) : (emit o s).out = o :: s.out := rfl
@[simp] theorem useFrees_free (n : Nat) (s : State) : (useFrees n s).free = s.free + n := rfl
@[simp] theorem writeByte_mem (a : Nat) (v : BitVec 8) (s : State) : (writeByte a v s).mem = Assoc.put s.mem 0#8 a v := rfl

end Sys2Proof.Machine
end

