-- ==== Sys2Proof/Laws/Registers.lean ====
section
/-! SUPPORT. Reading a register field or a byte after a change, what stays as it was (`Keeps`), and an access that lands. -/

namespace Sys2Proof.Machine

/-! Register fields -/

theorem get_of_regs {s t : State} (f : Field) (h : t.regs = s.regs) : t.get f = s.get f := by unfold State.get; rw [h]

theorem on_of_regs {s t : State} (f : Field) (h : t.regs = s.regs) : t.on f = s.on f := by unfold State.on; rw [get_of_regs f h]

@[simp] theorem get_setF_self (f : Field) (v : Nat) (s : State) : (setF f v s).get f = v % 2 ^ f.width := by
  simp [State.get, Assoc.getD_put]

theorem get_setF_ne (f g : Field) (v : Nat) (s : State) (h : f.key ≠ g.key) : (setF f v s).get g = s.get g := by
  simp only [State.get, setF_regs]; exact Assoc.getD_put_ne _ _ _ _ _ _ h

theorem on_setF_ne (f g : Field) (v : Nat) (s : State) (h : f.key ≠ g.key) : (setF f v s).on g = s.on g := by
  unfold State.on; rw [get_setF_ne f g v s h]

/-- A field whose register also holds the counter of its event reads the set flag, whatever its counter. -/
theorem get_event_flag (flag cnt : Field) (s : State) (h : cnt.key ≠ flag.key) (hw : 0 < flag.width) :
    (event flag cnt s).get flag = 1 := by
  unfold event bump
  rw [get_setF_ne _ _ _ _ h, get_setF_self, Nat.mod_eq_of_lt (Nat.one_lt_two_pow (by omega))]

theorem get_event_cnt (flag cnt : Field) (s : State) (h : flag.key ≠ cnt.key) :
    (event flag cnt s).get cnt = (s.get cnt + 1) % 2 ^ cnt.width := by
  unfold event bump
  rw [get_setF_self, get_setF_ne _ _ _ _ h]

/-! Memory -/

theorem readByte_of_mem {s t : State} (a : Nat) (h : t.mem = s.mem) : t.readByte a = s.readByte a := by
  unfold State.readByte; rw [h]

@[simp] theorem readByte_writeByte_self (a : Nat) (v : BitVec 8) (s : State) : (writeByte a v s).readByte a = v := by
  simp [State.readByte, Assoc.getD_put]

theorem readByte_writeByte_ne (a b : Nat) (v : BitVec 8) (s : State) (h : a ≠ b) :
    (writeByte a v s).readByte b = s.readByte b := by
  simp [State.readByte, Assoc.getD_put, h]

/-- Bytes outside those stored read as before. -/
theorem readByte_writeBytes_out (bs : List Nat) (a b : Nat) (s : State) (h : b < a ∨ a + bs.length ≤ b) :
    (writeBytes a bs s).readByte b = s.readByte b := by
  induction bs generalizing a s with
  | nil => rfl
  | cons x t ih =>
    simp only [List.length_cons] at h
    unfold writeBytes
    rw [ih (a + 1) _ (by omega), readByte_writeByte_ne _ _ _ _ (by omega)]

/-- Bytes stored read back. -/
theorem readByte_writeBytes_in (bs : List Nat) (a i : Nat) (s : State) (h : i < bs.length) :
    (writeBytes a bs s).readByte (a + i) = BitVec.ofNat 8 bs[i] := by
  induction bs generalizing a i s with
  | nil => exact absurd h (Nat.not_lt_zero i)
  | cons x t ih =>
    unfold writeBytes
    cases i with
    | zero => rw [readByte_writeBytes_out _ _ _ _ (by omega)]; simp
    | succ j =>
      have := ih (a + 1) j (writeByte a (BitVec.ofNat 8 x) s) (by simpa using h)
      rw [show a + (j + 1) = a + 1 + j by omega, this]; rfl

/-! What stays -/

theorem Keeps.refl (fs : List Field) (s : State) : Keeps fs s s := ⟨fun _ _ => rfl, fun _ => rfl⟩

theorem Keeps.of_eq {fs : List Field} {s t u : State} (h : Keeps fs s t) (hr : u.regs = t.regs) (hm : u.mem = t.mem) :
    Keeps fs s u :=
  ⟨fun f hf => (get_of_regs f hr).trans (h.1 f hf), fun a => (readByte_of_mem a hm).trans (h.2 a)⟩

theorem Keeps.setF {fs : List Field} {s t : State} (f : Field) (v : Nat) (hf : f.key ∈ fs.map Field.key) (h : Keeps fs s t) :
    Keeps fs s (setF f v t) :=
  ⟨fun g hg => (get_setF_ne f g v t (fun e => hg (e ▸ hf))).trans (h.1 g hg), h.2⟩

theorem Keeps.bump {fs : List Field} {s t : State} (f : Field) (hf : f.key ∈ fs.map Field.key) (h : Keeps fs s t) :
    Keeps fs s (bump f t) := h.setF f _ hf

theorem Keeps.event {fs : List Field} {s t : State} (f g : Field) (hf : f.key ∈ fs.map Field.key)
    (hg : g.key ∈ fs.map Field.key) (h : Keeps fs s t) : Keeps fs s (event f g t) := (h.setF f 1 hf).bump g hg

theorem Keeps.trans {fs : List Field} {s t u : State} (h : Keeps fs s t) (k : Keeps fs t u) : Keeps fs s u :=
  ⟨fun f hf => (k.1 f hf).trans (h.1 f hf), fun a => (k.2 a).trans (h.2 a)⟩

theorem Keeps.mono {fs gs : List Field} {s t : State} (h : Keeps fs s t) (hs : ∀ k ∈ fs.map Field.key, k ∈ gs.map Field.key) :
    Keeps gs s t := ⟨fun f hf => h.1 f (fun e => hf (hs _ e)), h.2⟩

theorem Keeps.when {fs : List Field} {s t : State} (c : Bool) (f : State → State) (h : Keeps fs s t)
    (hf : Keeps fs s t → Keeps fs s (f t)) : Keeps fs s (when c f t) := by
  unfold Machine.when; split; exacts [hf h, h]

theorem Keeps.forEach {α : Type} {fs : List Field} {s t : State} (l : List α) (f : α → State → State) (h : Keeps fs s t)
    (hf : ∀ x u, Keeps fs s u → Keeps fs s (f x u)) : Keeps fs s (forEach l f t) := by
  unfold Machine.forEach
  induction l generalizing t with
  | nil => exact h
  | cons x l ih => exact ih (hf x t h)

/-! Accesses and triggers -/

/-- An access whose island is neither retired nor in reset, with no access waiting for it, lands with its effect, and its island's clock runs. -/
theorem land_eq {off : Nat} {c : Instr} {k : State → State} {s : State} (h : s.lands off = true) :
    land off c k s = .next (k (ungate (islandOf off) s)) := by
  simp only [State.lands, Bool.and_eq_true, Bool.not_eq_true'] at h
  simp only [land, h.1.1, h.1.2, h.2, Bool.or_self, Bool.false_eq_true, if_false]

@[simp] theorem ungate_get (i : Island) (s : State) (f : Field) : (ungate i s).get f = s.get f := rfl
@[simp] theorem ungate_on (i : Island) (s : State) (f : Field) : (ungate i s).on f = s.on f := rfl

end Sys2Proof.Machine
end

