-- ==== Sys2Proof/WellFormed.lean ====
section
/-! DEFINITION. Which commands are well formed: operands that the spec gives a width lie within it. -/

namespace Sys2Proof

/-- A number fits in some bits. -/
def fits (w n : Nat) : Bool := decide (n < 2 ^ w)

/-- A block with its protection information (R184): 4 KiB, a 64-bit guard, a 64-bit reference tag. -/
def hostBlockWf (b : HostBlock) : Bool := fits 32768 b.data && fits 64 b.guard && fits 64 b.refTag

/-- Blocks that members read are 4 KiB. -/
def readsWf (r : RowReads) : Bool := r.all (fun p => p.2.all (fun b => match b with | some x => fits 32768 x | none => true))

/-- A block from a drive (R190): a 16-bit guard, a 16-bit application tag, a 32-bit reference tag. -/
def driveBlockWf (b : DriveBlock) : Bool := fits 32768 b.data && fits 16 b.guard && fits 16 b.appTag && fits 32 b.refTag

/-- A drive's answer (R497): a 4-bit sense key, an 8-bit additional sense code. -/
def replyWf : DriveReply → Bool
  | .check key asc => fits 4 key && fits 8 asc
  | .good | .busy | .other => true

/-- A submission entry (R206): 64 bytes, and fragment tables of whole 16-byte entries (R210). -/
def entryWf (x : RawEntry) : Bool :=
  x.bytes.length == 64 && x.bytes.all (fits 8) && x.tables.all (fun t => t.length % 16 == 0 && t.all (fits 8))

/-- A command's operands lie within the widths that the spec gives them: a register access stands at a word of the window and has four byte
enables (R277), identifiers are 16 bits (R206), a row is 40 bits (R49), a block is 4 KiB, bytes are 8 bits. -/
def wellFormed : Instr → Bool
  | .registerWrite _ off be _ => fits 23 off && off % 4 == 0 && fits 4 be
  | .ringTailWrite _ tail => fits 16 tail
  | .escDone _ _ reads => readsWf reads
  | .lineBeat word => fits 32 word
  | .fabTxTail tail => fits 16 tail
  | .dramPpr loc _ _ => fits 13 loc
  | .coldReset key => fits 32 key
  | .warmReset key => fits 32 key
  | .coreRestart key => fits 32 key
  | .coreAccess _ _ addr _ _ _ _ => fits 40 addr
  | .hostDataIngest qid cid blocks => fits 16 qid && fits 16 cid && blocks.all hostBlockWf
  | .writeCommit qid x => fits 16 qid && fits 16 x.cid
  | .wtHoldTimeout qid cid => fits 16 qid && fits 16 cid
  | .writebackAgeExpiry _ row => fits 40 row
  | .writebackStart _ row => fits 40 row
  | .rowLockGrant _ row => fits 40 row
  | .memberCommandComplete _ tag reply blocks _ _ => fits 16 tag && replyWf reply && blocks.all driveBlockWf
  | .memberCommandTimeout _ tag => fits 16 tag
  | .arrayAssembly found => found.all (fun d => fits 32768 d.first && fits 32768 d.second)
  | .rebuildRow _ reads => readsWf reads
  | .journalReplay reads rows _ _ _ => reads.all (fun r => readsWf r.2) && rows.all (fun r => readsWf r.2)
  | .selfTestDone _ reads => reads.all (fun r => readsWf r.2.first && readsWf r.2.again)
  | .grazeStep _ _ first again => first.all (fun r => readsWf r.2) && again.all (fun r => readsWf r.2)
  | .hostDataEgress qid cid _ _ => fits 16 qid && fits 16 cid
  | .doorbellPoll tails heads => (tails ++ heads).all (fun w => fits 64 w.1 && fits 32 w.2)
  | .commandFetch entries => entries.all entryWf
  | .identify cid => fits 16 cid
  | .getFeature cid => fits 16 cid
  | .setFeature cid => fits 16 cid
  | .setFeatureWriteThrough cid => fits 16 cid
  | .getLog cid => fits 16 cid
  | .createIoQueue cid => fits 16 cid
  | .deleteIoQueue cid => fits 16 cid
  | .queueDeleteDrained qid => fits 16 qid
  | .arrayCreate cid uuid _ => fits 16 cid && fits 128 uuid
  | .arrayDelete cid => fits 16 cid
  | .volumeCreate cid uuid => fits 16 cid && fits 128 uuid
  | .volumeDelete cid => fits 16 cid
  | .memberReplace cid _ => fits 16 cid
  | .selfTestShort cid => fits 16 cid
  | .selfTestExtended cid => fits 16 cid
  | .selfTestAbort cid => fits 16 cid
  | .powerStateQuery cid => fits 16 cid
  | .powerStatePark cid => fits 16 cid
  | .powerStateWake cid => fits 16 cid
  | .swap cid => fits 16 cid
  | .enterService cid => fits 16 cid
  | .leaveService cid => fits 16 cid
  | .setPreferred cid => fits 16 cid
  | .revertNow cid _ _ => fits 16 cid
  | .firmwareStage x => fits 16 x.cid && x.data.all (fits 8)
  | .fwCommitStore cid _ => fits 16 cid
  | .fwCommitStoreActivateNext cid _ => fits 16 cid
  | .fwCommitActivateNext cid => fits 16 cid
  | .fwCommitActivateNow cid _ => fits 16 cid
  | .fwCommitInstallRoot cid _ => fits 16 cid
  | .packAuthenticate cid _ => fits 16 cid
  | .packInstallRoot cid _ _ => fits 16 cid
  | .packRemoveRoot cid _ => fits 16 cid
  | .setBudget cid buffer => fits 16 cid && buffer.all (fits 8)
  | .setEligibility cid buffer => fits 16 cid && buffer.all (fits 8)
  | .groupCreate cid buffer _ => fits 16 cid && buffer.all (fits 8)
  | .groupDelete cid buffer => fits 16 cid && buffer.all (fits 8)
  | .groupResync cid buffer => fits 16 cid && buffer.all (fits 8)
  | .groupRecover cid buffer => fits 16 cid && buffer.all (fits 8)
  | .forgetNode cid buffer => fits 16 cid && buffer.all (fits 8)
  | .wakeNode cid buffer => fits 16 cid && buffer.all (fits 8)
  | .abort cid => fits 16 cid
  | .read qid cid => fits 16 qid && fits 16 cid
  | .write qid cid => fits 16 qid && fits 16 cid
  | .verify qid cid reads => fits 16 qid && fits 16 cid && reads.all (fun r => readsWf r.2)
  | .flush qid cid => fits 16 qid && fits 16 cid
  | .flushComplete qid cid => fits 16 qid && fits 16 cid
  | .flushWakeTimeout qid cid => fits 16 qid && fits 16 cid
  | .writeZeroes qid cid => fits 16 qid && fits 16 cid
  | .copy qid cid _ _ => fits 16 qid && fits 16 cid
  | .smbusDone _ bytes => bytes.all (fits 8)
  | .beat word _ _ _ => fits 32 word
  | .fabricLinkUp _ lanes _ cable => decide (lanes ≤ 4) && fits 8 cable
  | .lsa _ uid _ _ _ => fits 64 uid
  | .lsaExpiry uid => fits 64 uid
  | .addrReq _ _ uid _ => fits 64 uid
  | .addrAssign _ _ uid _ => fits 64 uid
  | .tokenReq _ src xseq _ _ _ => fits 12 src && fits 16 xseq
  | .tokenGrant _ xseq _ _ => fits 16 xseq
  | .tokenReport _ src xseq _ _ => fits 12 src && fits 16 xseq
  | .tokenRelease _ src => fits 12 src
  | .leaseMove _ src xseq _ => fits 12 src && fits 16 xseq
  | .tokenRequestDrop src => fits 12 src
  | .copyDesc _ src _ _ _ _ _ _ _ _ => fits 12 src
  | .copyData _ src _ _ data => fits 12 src && fits 32768 data
  | .peerRead _ src _ _ _ _ data => fits 12 src && data.all (fits 32768)
  | .peerData _ src _ _ _ _ => fits 12 src
  | .deltaDesc _ src _ _ _ _ _ _ => fits 12 src
  | .deltaData _ src xseq data old => fits 12 src && fits 16 xseq && fits 32768 data && fits 32768 old
  | .wakeReq _ src => fits 12 src
  | .cboClean _ addr => fits 40 addr
  | .cboFlush _ addr => fits 40 addr
  | .cboInval _ addr => fits 40 addr
  | .cacheCe addr => fits 40 addr
  | .cacheUe _ addr => fits 40 addr
  | .nodeUnheardExpiry uid => fits 64 uid
  | .copyWakeTimeout qid cid => fits 16 qid && fits 16 cid
  | .arrayValidWrite _ _ | .volumeValidWrite _ _ | .xlateGo _ | .evalStart _ | .coefDataAccess _ | .planRetry _ | .enginePause _ _
  | .engineRetire _ | .engineTest _ | .forceWtWrite _ | .packHealthyWrite _ | .partnerLiveWrite _ | .jnlAlloc _ | .wakeRetry _
  | .wakeDeny _ | .awakeWrite _ _ | .frontierEnable _ _ | .intInject _ | .adminSqTailWrite _ | .adminCqHeadWrite _ | .xlatCommit _
  | .hostRaise _ _ | .converterEnable _ | .standbyOffsetWrite _ | .slotEnableWrite _ _ _ | .slotDisableWrite _ _ _ | .spinWrite _
  | .chargeEnable _ | .batCountWrite _ | .smbusTransaction _ _ _ | .fanRunWrite _ _ | .fanRestart _ | .fanDemandWrite _ _ | .data _
  | .mailboxSend _ _ _ | .mailboxTake _ _ | .boxRecall _ _ | .lockRead _ _ | .lockRelease _ _ _ | .lockForce _ _ | .peerLockRead _ _ _
  | .peerLockRelease _ _ | .dmaResume _ | .dmaChannelDisable _ | .islandRegate _ | .loopEvaluation _ | .evalDone _
  | .jobStart _ | .jobComplete _ _ _ _ _ _ _ | .shadowArbitrationDone _ _ | .jobAgePromotion _ | .katDone _ _
  | .accumulatorAccess _ _ _ | .intentLanded _ | .intentRetire _ | .slotLinkDown _ | .slotLinkUp _ _
  | .linkDownEraseTimer _ | .rebuildCheckpoint _ | .grazeResume _ _ | .volumeFormat _
  | .volumeDeleteDrained _ | .laneFailure _ _ | .linkTrained _ _ | .bar2Access _ _ _ | .hostReadError _
  | .lineEvaluation _ _ _ | .slotShed _ | .slotTrip _ _ | .cooldownEnd _ | .slotPresentChange _ _ _ | .spinTimeout _ | .driveReady _
  | .slotLinkTimeout _ | .spinupRetry _ | .slotOffTimeout _ | .stopUnitTimeout _ | .packInserted _ _ _ _ | .chargeWindowExit _
  | .coulombConversion _ _ _ _ _ | .currentStep _ _ | .eod _ _ | .authPeriodic _ | .authRetry _ | .keepLow _ | .focPeriod _ _
  | .voltLimitClear _ | .observerLoss _ | .coastRestart _ | .senseDone _ _ | .brakeDone _ | .alignDone _ | .openRampDone _
  | .syncDone _ | .startFail _ | .startRetry _ | .missingPhase _ | .fanOvercurrent _ | .fanFaultRestart _ | .fanTokenClaimDone _
  | .fanTokenLineChange _ | .fanPowerReport _ _ | .fanDemandCompute _ | .beatMiss _ | .activeClaimDone _ | .activeLineChange _
  | .powerCheck _ | .revertHoldoffExpiry _ _ | .holdSelfCheck _ | .commit _ | .commitAck _ | .intent _ _ | .intentAck _ | .ceiling _ _
  | .slotState _ _ _ _ | .slotAck _ | .fanState _ | .config _ | .token _ _ _ | .relinquishMessage _ | .resync _ _ | .blockNak _
  | .fabricLinkDown _ | .fabricBleatTimeout _ | .parkedListen _ | .bleat _ _ _ | .linkCtl _ _ _ | .linkReplay _ | .frameForward _ _ _
  | .budget _ _ | .copyAck _ _ _ _ _ | .copyBatchTimeout _ _ | .flockResyncChunk _ | .deltaAck _ _ _ _ | .group _ _
  | .groupStaleTimer _ | .tagParityError _ _ | .mtimeCompare _ | .mailboxTimeout _ | .peerLockRequest _ _ | .dmaDescriptor _ _ _ _
  | .dmaDescriptorDone _ | .sramRowRemap _ _ | .dramRowLimit _ _ _ | .dramPprDone _ | .postDone _ _ _ _ | .corePeriodicTest _ _ _
  | .fabricLaneFailure _ _ | .strapChange _ _ _ | .consoleImageLoad _ _ | .cacheFillComplete _ | .victimWritebackLanded _
  | .spinupFailure _ | .mirrorLinkUp _ | .chargeWindowEntry _ | .grazeOverdue _ _ _ | .resetAccessTimeout | .spinDownExcess
  | .idleParkExpiry | .enterServing | .drainComplete | .destageComplete | .wakeDenied | .xlateDone | .jobDispatch
  | .writeThroughReached | .replayDoneWrite | .fwCommandEntry | .queueEnable | .queueReady | .queueDisable | .queueStopped | .kick
  | .heartbeatRecord | .selfTestResume | .linkRestore | .busMasterDisable | .busMasterEnable | .flr | .flrComplete | .perst
  | .hotReset | .dlDown | .d3hotEntry | .d0Return | .xlatDrainDone | .intxAck | .mainsLost | .mainsReturn | .converterOverload
  | .overloadClear | .converterRegulating | .convFault | .gate1Admit | .gate2Admit | .moduleUnmate | .packRemoved | .chargeTermination
  | .chargeTimeout | .chgFaultRetry | .restValid | .packEstimate | .learnStart | .learnTimeout | .fanTokenClaim | .fanTokenRelease
  | .fanWatchdogExpiry | .beatSend | .roleTake | .activeClaim | .activeRelease | .relinquish | .takeoverComplete | .watchdogKick
  | .fwWatchdogExpiry | .keeperRelease | .watchdogRestart | .handoverBegin | .handoverPowerOk | .handoverPowerFail | .handoverCommit
  | .resyncComplete | .swapDue | .holdUnsyncedTimeout | .mirrorLinkDown | .slotStateSend | .fanStateSend | .bleatSend | .lsaRefresh
  | .addrRetry | .tokenReportTimer | .leaseExpiry | .bellwetherGrantStart | .deltaResend | .clean | .inval | .cacheFlush | .cleanAll
  | .flushAll | .invalAll | .maintDone | .laneRestore | .repairRecordPop | .powerOnReset | .bootTimeout | .consoleColdReset
  | .consoleWarmReset | .consoleDump | .hostLinkDownFault | .packCutoff => true

end Sys2Proof
end

