-- ==== Sys2Proof/Tests/Slice0.lean ====
section
/-! SUPPORT. The author's own tests: ill-formed commands that WellFormed refuses, the spec's own numbers, and for every statement a state and
operands that meet its hypotheses. -/

namespace Sys2Proof.Tests

open Sys2Proof Sys2Proof.Machine

set_option maxRecDepth 100000
-- One theorem at a time: the kernel evaluations would otherwise each hold a thread and its stack.
set_option Elab.async false

/-! Ill-formed commands, one for each check of each command -/

theorem test_ill_formed_0 :
    [ .registerWrite .host (2 ^ 23) 0 0,
      .registerWrite .host 2 0 0,
      .registerWrite .host 0 (2 ^ 4) 0,
      .ringTailWrite 0 (2 ^ 16),
      .escDone 0 0 [(0, [some (2 ^ 32768)])],
      .lineBeat (2 ^ 32),
      .fabTxTail (2 ^ 16),
      .dramPpr (2 ^ 13) 0 false,
      .coldReset (2 ^ 32),
      .warmReset (2 ^ 32),
      .coreRestart (2 ^ 32),
      .coreAccess 0 .load (2 ^ 40) 0 0 [] false,
      .hostDataIngest (2 ^ 16) 0 [],
      .hostDataIngest 0 (2 ^ 16) [],
      .hostDataIngest 0 0 [⟨2 ^ 32768, 0, 0⟩],
      .hostDataIngest 0 0 [⟨0, 2 ^ 64, 0⟩],
      .hostDataIngest 0 0 [⟨0, 0, 2 ^ 64⟩],
      .writeCommit 0 ⟨2 ^ 16, 0⟩,
      .writeCommit (2 ^ 16) ⟨0, 0⟩,
      .wtHoldTimeout (2 ^ 16) 0,
      .wtHoldTimeout 0 (2 ^ 16),
      .writebackAgeExpiry 0 (2 ^ 40),
      .writebackStart 0 (2 ^ 40),
      .rowLockGrant 0 (2 ^ 40) ].all (fun c => !wellFormed c) = true := by decide +kernel

theorem test_ill_formed_1 :
    [ .memberCommandComplete 0 0 (.check 16 0) [] none 0,
      .memberCommandComplete 0 0 (.check 0 256) [] none 0,
      .memberCommandComplete 0 0 .busy [⟨2 ^ 32768, 0, 0, 0⟩] none 0,
      .memberCommandComplete 0 0 .busy [⟨0, 2 ^ 16, 0, 0⟩] none 0,
      .memberCommandComplete 0 0 .busy [⟨0, 0, 2 ^ 16, 0⟩] none 0,
      .memberCommandComplete 0 0 .busy [⟨0, 0, 0, 2 ^ 32⟩] none 0,
      .memberCommandComplete 0 (2 ^ 16) .busy [] none 0,
      .memberCommandTimeout 0 (2 ^ 16),
      .arrayAssembly [⟨0, 2 ^ 32768, 0, {}⟩],
      .arrayAssembly [⟨0, 0, 2 ^ 32768, {}⟩],
      .rebuildRow 0 [(0, [some (2 ^ 32768)])],
      .journalReplay [(0, [(0, [some (2 ^ 32768)])])] [] [] [] none,
      .journalReplay [] [(0, [(0, [some (2 ^ 32768)])])] [] [] none,
      .selfTestDone ({}) [(0, ⟨0, [(0, [some (2 ^ 32768)])], []⟩)],
      .selfTestDone ({}) [(0, ⟨0, [], [(0, [some (2 ^ 32768)])]⟩)],
      .grazeStep 0 none [(0, [(0, [some (2 ^ 32768)])])] [],
      .grazeStep 0 none [] [(0, [(0, [some (2 ^ 32768)])])],
      .hostDataEgress (2 ^ 16) 0 [] [],
      .hostDataEgress 0 (2 ^ 16) [] [],
      .doorbellPoll [(2 ^ 64, 0)] [],
      .doorbellPoll [(0, 2 ^ 32)] [],
      .doorbellPoll [] [(2 ^ 64, 0)],
      .doorbellPoll [] [(0, 2 ^ 32)],
      .commandFetch [⟨List.replicate 63 0, none, []⟩] ].all (fun c => !wellFormed c) = true := by decide +kernel

theorem test_ill_formed_2 :
    [ .commandFetch [⟨256 :: List.replicate 63 0, none, []⟩],
      .commandFetch [⟨List.replicate 64 0, none, [[0]]⟩],
      .commandFetch [⟨List.replicate 64 0, none, [List.replicate 16 256]⟩],
      .identify (2 ^ 16),
      .getFeature (2 ^ 16),
      .setFeature (2 ^ 16),
      .setFeatureWriteThrough (2 ^ 16),
      .getLog (2 ^ 16),
      .createIoQueue (2 ^ 16),
      .deleteIoQueue (2 ^ 16),
      .queueDeleteDrained (2 ^ 16),
      .arrayCreate (2 ^ 16) 0 [],
      .arrayCreate 0 (2 ^ 128) [],
      .arrayDelete (2 ^ 16),
      .volumeCreate (2 ^ 16) 0,
      .volumeCreate 0 (2 ^ 128),
      .volumeDelete (2 ^ 16),
      .memberReplace (2 ^ 16) none,
      .selfTestShort (2 ^ 16),
      .selfTestExtended (2 ^ 16),
      .selfTestAbort (2 ^ 16),
      .powerStateQuery (2 ^ 16),
      .powerStatePark (2 ^ 16),
      .powerStateWake (2 ^ 16) ].all (fun c => !wellFormed c) = true := by decide +kernel

theorem test_ill_formed_3 :
    [ .swap (2 ^ 16),
      .enterService (2 ^ 16),
      .leaveService (2 ^ 16),
      .setPreferred (2 ^ 16),
      .revertNow (2 ^ 16) false false,
      .firmwareStage ⟨2 ^ 16, []⟩,
      .firmwareStage ⟨0, [2 ^ 8]⟩,
      .fwCommitStore (2 ^ 16) ⟨0, false, false, 0⟩,
      .fwCommitStoreActivateNext (2 ^ 16) ⟨0, false, false, 0⟩,
      .fwCommitActivateNext (2 ^ 16),
      .fwCommitActivateNow (2 ^ 16) ⟨0, false, false, 0⟩,
      .fwCommitInstallRoot (2 ^ 16) ⟨0, false, false, 0⟩,
      .packAuthenticate (2 ^ 16) false,
      .packInstallRoot (2 ^ 16) 0 false,
      .packRemoveRoot (2 ^ 16) false,
      .setBudget (2 ^ 16) [],
      .setBudget 0 [2 ^ 8],
      .setEligibility (2 ^ 16) [],
      .setEligibility 0 [2 ^ 8],
      .groupCreate (2 ^ 16) [] [],
      .groupCreate 0 [2 ^ 8] [],
      .groupDelete (2 ^ 16) [],
      .groupDelete 0 [2 ^ 8],
      .groupResync (2 ^ 16) [] ].all (fun c => !wellFormed c) = true := by decide +kernel

theorem test_ill_formed_4 :
    [ .groupResync 0 [2 ^ 8],
      .groupRecover (2 ^ 16) [],
      .groupRecover 0 [2 ^ 8],
      .forgetNode (2 ^ 16) [],
      .forgetNode 0 [2 ^ 8],
      .wakeNode (2 ^ 16) [],
      .wakeNode 0 [2 ^ 8],
      .abort (2 ^ 16),
      .read (2 ^ 16) 0,
      .read 0 (2 ^ 16),
      .write (2 ^ 16) 0,
      .write 0 (2 ^ 16),
      .verify 0 0 [(0, [(0, [some (2 ^ 32768)])])],
      .verify (2 ^ 16) 0 [],
      .verify 0 (2 ^ 16) [],
      .flush (2 ^ 16) 0,
      .flush 0 (2 ^ 16),
      .flushComplete (2 ^ 16) 0,
      .flushComplete 0 (2 ^ 16),
      .flushWakeTimeout (2 ^ 16) 0,
      .flushWakeTimeout 0 (2 ^ 16),
      .writeZeroes (2 ^ 16) 0,
      .writeZeroes 0 (2 ^ 16),
      .copy (2 ^ 16) 0 [] [] ].all (fun c => !wellFormed c) = true := by decide +kernel

theorem test_ill_formed_5 :
    [ .copy 0 (2 ^ 16) [] [],
      .smbusDone false [2 ^ 8],
      .beat (2 ^ 32) 0 0 false,
      .fabricLinkUp 0 5 false 0,
      .fabricLinkUp 0 0 false (2 ^ 8),
      .lsa 0 (2 ^ 64) 0 0 [],
      .lsaExpiry (2 ^ 64),
      .addrReq 0 none (2 ^ 64) 0,
      .addrAssign 0 none (2 ^ 64) none,
      .tokenReq none (2 ^ 12) 0 0 0 0,
      .tokenReq none 0 (2 ^ 16) 0 0 0,
      .tokenGrant none (2 ^ 16) 0 0,
      .tokenReport none (2 ^ 12) 0 0 0,
      .tokenReport none 0 (2 ^ 16) 0 0,
      .tokenRelease none (2 ^ 12),
      .leaseMove none (2 ^ 12) 0 0,
      .leaseMove none 0 (2 ^ 16) 0,
      .tokenRequestDrop (2 ^ 12),
      .copyDesc none (2 ^ 12) 0 0 0 0 0 false [] [],
      .copyData none (2 ^ 12) 0 0 0,
      .copyData none 0 0 0 (2 ^ 32768),
      .peerRead none (2 ^ 12) 0 0 0 0 [],
      .peerRead none 0 0 0 0 0 [2 ^ 32768],
      .peerData none (2 ^ 12) 0 0 0 [] ].all (fun c => !wellFormed c) = true := by decide +kernel

theorem test_ill_formed_6 :
    [ .deltaDesc none (2 ^ 12) 0 0 (0, 0) 0 0 0,
      .deltaData none (2 ^ 12) 0 0 0,
      .deltaData none 0 (2 ^ 16) 0 0,
      .deltaData none 0 0 (2 ^ 32768) 0,
      .deltaData none 0 0 0 (2 ^ 32768),
      .wakeReq none (2 ^ 12),
      .cboClean 0 (2 ^ 40),
      .cboFlush 0 (2 ^ 40),
      .cboInval 0 (2 ^ 40),
      .cacheCe (2 ^ 40),
      .cacheUe none (2 ^ 40),
      .nodeUnheardExpiry (2 ^ 64),
      .copyWakeTimeout (2 ^ 16) 0,
      .copyWakeTimeout 0 (2 ^ 16) ].all (fun c => !wellFormed c) = true := by decide +kernel

theorem test_well_formed :
    wellFormed (.registerWrite .host 0x20034 15 1) = true ∧ wellFormed (.read 1024 0xFFFF) = true ∧ wellFormed (.registerWrite .host 0x20036 15 1) = false := by
  decide +kernel

/-! States built for the tests -/

/-- A running module: out of reset, its firmware up, with some fields set and then a change made. -/
def st (l : List (Field × Nat)) (f : State → State := id) : State :=
  f (forEach l (fun p => setF p.1 p.2)
    { State.reset with
      sys := { inReset := [], firmwareUp := true }
      hif := { busMaster := true }
      clock := 123456789 })

/-- Serving, in the active role. -/
def up : List (Field × Nat) := [(Reg.SYS_MODE_MODE, 2), (Reg.FOV_STATUS_ACTIVE_HELD, 1)]
/-- Four drives, awake in slots 0 to 3. -/
def drives : List (Field × Nat) := (List.range 4).flatMap (fun n =>
  [(Reg.SLT_STATUS_PRESENT n, 1), (Reg.SLT_STATUS_ON12 n, 1), (Reg.SLT_STATUS_ON5 n, 1), (Reg.SAS_SLOT_STATUS_LINK_UP n, 1), (Reg.SAS_SLOT_CTRL_AWAKE n, 1)])
/-- Array 0: L-GEN1 over slots 0 to 3, with volume 0 on it. -/
def arr : List (Field × Nat) :=
  [(Reg.STP_ARRAY_CFG_LAYOUT 0, 2), (Reg.STP_ARRAY_CFG_DPG_M1 0, 1), (Reg.STP_ARRAY_CFG_UNIT_SHIFT 0, 14), (Reg.STP_ARRAY_CFG_GEN1 0, 1),
   (Reg.STP_ARRAY_CFG_VALID 0, 1), (Reg.STP_ARRAY_HDR_HDR_MIB 0, 2), (Reg.STP_ARRAY_ROWS_LO_ROWS 0, 100), (Reg.STP_ARRAY_SLOTMAP_SLOTS 0 0, 15),
   (Reg.STP_VOL_CFG_VALID 0, 1), (Reg.STP_VOL_ROWS_LO_ROWS 0, 10)]
/-- An L-GEN1 geometry of four members. -/
def gen1 : Geo := ⟨2, 14, 0, 2, 0, 0x200000, 100, [0, 1, 2, 3]⟩
/-- A layered geometry of seven members. -/
def small : Geo := ⟨3, 14, 2, 2, 1, 0x200000, 100, [0, 1, 2, 3, 4, 5, 6]⟩
/-- A write sent to a member. -/
def wcmd (n : Nat) (o : Owner) : MemCmd := ⟨n, n, false, 5, true, 640, 1, o, [7]⟩
/-- An entry of an I/O queue or of the admin queue. -/
def ent (qid opcode : Nat) : Entry := ⟨qid, 77, opcode, none, 0, 0, 8, 0, 0, 0x10000, 4096, 0, List.replicate 24 0, []⟩
/-- One command in flight, as number 9. -/
def cmdOf1 (c : Cmd) (s : State) : State := { s with qmx := { s.qmx with cmds := [(9, c)], nextCmd := 10 } }
/-- A stripe update. -/
def upd : Update :=
  { array := 0, row := 2, vol := 0, units := [0], firstBlk := 0, nblkM1 := 0, method := 1, step := 2, head := some 5, waiting := [], erased := [],
    geo := gen1, lines := [(lineKey 0 8, { data := 3, dirty := true })] }
/-- An open intent. -/
def int1 : Intent := ⟨1, 1, 2, false, false, 0xFFFF, 0, 1, 2, 0, [0], 0, 0, 0, 0, [0], [0], false⟩
/-- One dirty line. -/
def dirtyLine (s : State) : State := { s with jnl := { s.jnl with lines := [(lineKey 0 8, { data := 3, dirty := true })] } }
/-- The mirror link is up and enabled. -/
def mir : List (Field × Nat) := [(Reg.FOV_MIR_STATUS_LINK_UP, 1), (Reg.FOV_MIR_CTRL_ENABLE, 1)]
/-- A fabric port that is up. -/
def fabUp : List (Field × Nat) :=
  [(Reg.FAB_CTRL_ENABLE, 1), (Reg.FAB_PORT_STATUS_LINK_UP 3, 1), (Reg.FAB_RX_CFG_ENABLE, 1), (Reg.FAB_RX_CFG_SIZE_M1, 7), (Reg.FAB_RX_TAIL_TAIL, 1),
   (Reg.FAB_ADDR_VALID, 1), (Reg.FAB_ADDR_ADDR, 5), (Reg.FAB_UID_LO_UID, 1000)]
/-- A change of the fabric part, with this node the bellwether. -/
def onFab (f : FabPart → FabPart) (s : State) : State := { s with fab := f { s.fab with bellwether := some 5 } }
/-- A change of the role part. -/
def onFov (f : FovPart → FovPart) (s : State) : State := { s with fov := f s.fov }
/-- A change of the pack part. -/
def onBat (f : BatPart → BatPart) (s : State) : State := { s with bat := f s.bat }
/-- A beat word with its CRC. -/
def beatOf (x : Nat) : Nat := x + 2 ^ 24 * beatCrc x
/-- A neighbour's bleat. -/
def nbr : Bleat := ⟨2000, 6, 6, 2000, 0, true, true, false, false, 128, 2, 5, 1, 9, 0, 1, 1⟩
/-- A pack. -/
def pack1 : PackDesc := ⟨7, 60000, 450, [], [], [], 1, 0⟩
/-- A firmware image in slot 1. -/
def imgs (s : State) : State := { s with sys := { s.sys with images := [(1, 5)] } }
/-- An admin entry with its CMD_SPECIFIC bytes. -/
def adm (op : AdminOp) (spec : List Nat) : Entry := ⟨0, 77, 2, some op, 0, 0, 0, 0, 0, 0x10000, 4096, 0, spec ++ List.replicate (24 - spec.length) 0, []⟩
/-- A change of the command part. -/
def onCmdPart (f : CmdPart → CmdPart) (s : State) : State := { s with cmd := f s.cmd }
/-- A change of the queue part. -/
def onQmx (f : QmxPart → QmxPart) (s : State) : State := { s with qmx := f s.qmx }
/-- A change of the system part. -/
def onSys (f : SysPart → SysPart) (s : State) : State := { s with sys := f s.sys }
/-- A change of the host endpoint. -/
def onHif (f : HifPart → HifPart) (s : State) : State := { s with hif := f s.hif }
/-- A change of the cache. -/
def onCch (f : CchPart → CchPart) (s : State) : State := { s with cch := f s.cch }
/-- A change of the repair part. -/
def onRpr (f : RprPart → RprPart) (s : State) : State := { s with rpr := f s.rpr }
/-- A cache line of data. -/
def bytes64 : List Nat := List.range 64
/-- All sixteen lanes. -/
def allFin16 : List (Fin 16) := [0, 1, 2, 3, 4, 5, 6, 7, 8, 9, 10, 11, 12, 13, 14, 15]
/-- DMA channel 2 enabled, with one descriptor of 32 bytes in its ring. -/
def dmaOne (d : List Nat) : State :=
  st ([(Reg.DMA_CTRL_ENABLE, 1), (Reg.DMA_CH_CFG_ENABLE 2, 1), (Reg.DMA_CH_CFG_SIZE_M1 2, 7), (Reg.DMA_CH_TAIL_TAIL 2, 1)])
    (fun s => writeBytes 0x10000 d (set64 (Reg.DMA_CH_BASE_LO_BASE 2) (Reg.DMA_CH_BASE_HI_BASE 2) 0x10000
      (set64 (Reg.DMA_CH_CQ_BASE_LO_BASE 2) (Reg.DMA_CH_CQ_BASE_HI_BASE 2) 0x11000 s)))
/-- A DMA descriptor (R445). -/
def desc (op flags len src dst : Nat) : List Nat :=
  [op, flags, 0, 0] ++ leBytes 4 len ++ leBytes 8 src ++ leBytes 8 dst ++ leBytes 2 5 ++ List.replicate 6 0
/-- A job of the stripe manager. -/
def job1 : Job :=
  { ring := 0, owner := .firmware, op := 1, field16 := false, shadowForce := false, shadowNever := true, irq := false, fence := false, tag := 7,
    slot := 3, array := 0, row := 0, len := 1, phase := 0, pairs := 0, srcs := [⟨0x20000, 0, false, false, 0, 0⟩],
    dsts := [⟨0x30000, 0, false, false, 0⟩], outRow := [0] }
/-- A piece of a read. -/
def piece1 : Piece := { cmd := 1, idx := 0, array := 0, row := 0, d := 0, first := 0, nblk := 1 }
/-- A change of the engines. -/
def onOxe (f : OxePart → OxePart) (s : State) : State := { s with oxe := f s.oxe }
/-- A flock parity group. -/
def grp : FlockGroup := { id := 9, parity := (1000, 0), members := [(2000, 0), (3000, 0)] }
/-- Two nodes that the table knows. -/
def twoNodes : List FabNode := [{ uid := 2000, addr := 6, lsa := some 3, links := [] }, { uid := 3000, addr := 7, lsa := some 3, links := [] }]
/-- A batch that arrives. -/
def cin : CopyIn := ⟨6, 1, 2, 0, 16, 2, false, [0xE3069283, 0xE3069283], [], []⟩
/-- A batch sent. -/
def cbatch : CopyBatch := { first := 0, nblk := 8 }
/-- A COPY to another node. -/
def cout : CopyOut := { cmd := 9, id := 1, addr := 6, next := 8, batch := 2, out := [(1, cbatch), (2, { first := 4, nblk := 4 })] }
/-- Its command. -/
def ccmd : Cmd := { e := { ent 1 0x25 with nlbM1 := 7 }, begun := true }
/-- A gathering of blocks. -/
def gath : Gather := { group := 9, lba := 0 }
/-- A delta shipped. -/
def dlt : Delta := { group := 9, member := 0, dseq := 1, lba := 0, nblk := 1, intentSeq := 1, place := 0, shipped := true }

/-! The spec's own numbers -/

/-- "123456789" in ASCII. -/
def nine : List Nat := [0x31, 0x32, 0x33, 0x34, 0x35, 0x36, 0x37, 0x38, 0x39]

/-- The check values of R183. -/
theorem test_check_values :
    crc64 nine = 0xAE8B14860A799888 ∧ crc32c nine = 0xE3069283 ∧ crcMsb 16 0x8BB7 0 nine = 0xD0DB := by decide +kernel

/-- The check values that follow R57. -/
theorem test_field_values :
    gf8Pow 2 7 = 0x80 ∧ gf8Pow 2 8 = 0x1D ∧ gf8Pow 2 9 = 0x3A ∧ gf8Inv 3 = 0xF4
    ∧ gf16Pow 2 15 = 0x8000 ∧ gf16Pow 2 16 = 0x100B ∧ gf16Pow 2 17 = 0x2016 ∧ gf16Pow 2 20 = 0x10BB := by decide +kernel

/-- Applying the GF(2^8) decode rows of the worked example that follows R102: P = 0xFF, Q = 0x3D. -/
theorem test_decode_example :
    gf8Mul 0xF4 (Nat.xor 0xFF 0x3D) = 0xB5 ∧ Nat.xor 0xFF (gf8Mul 0xF4 (Nat.xor 0xFF 0x3D)) = 0x4A := by decide +kernel

/-- Array 0 of the worked example of chapter 2: L-108 with 64 KiB units; volume 7 starts at row 40,000. -/
def l108 : List (Field × Nat) :=
  [(Reg.STP_ARRAY_CFG_LAYOUT 0, 0), (Reg.STP_ARRAY_CFG_NGROUP_M1 0, 7), (Reg.STP_ARRAY_CFG_DPG_M1 0, 11), (Reg.STP_ARRAY_CFG_NGLOBAL 0, 4),
   (Reg.STP_ARRAY_CFG_UNIT_SHIFT 0, 16), (Reg.STP_ARRAY_CFG_VALID 0, 1), (Reg.STP_ARRAY_HDR_HDR_MIB 0, 1024), (Reg.STP_ARRAY_ROWS_LO_ROWS 0, 100000),
   (Reg.STP_ARRAY_SLOTMAP_SLOTS 0 0, 0xFFFFFFFF), (Reg.STP_ARRAY_SLOTMAP_SLOTS 0 1, 0xFFFFFFFF), (Reg.STP_ARRAY_SLOTMAP_SLOTS 0 2, 0xFFFFFFFF),
   (Reg.STP_ARRAY_SLOTMAP_SLOTS 0 3, 0xFFF), (Reg.STP_VOL_BASE_LO_BASE 7, 40000), (Reg.STP_VOL_ROWS_LO_ROWS 7, 1000), (Reg.STP_VOL_CFG_VALID 7, 1)]

/-- LBA 1,234,003 of volume 7 lies in row 40,803, data index 37, block 3 of the unit; slot 50, its local parity on slot 48; one row later
slots 51 and 49. -/
theorem test_location_example :
    (st l108).locate 7 1234003 = (40803, (37, 3))
    ∧ ((st l108).geo 0).slotOf (((st l108).geo 0).memberOf 40803 (.data 37)) = 50
    ∧ ((st l108).geo 0).slotOf (((st l108).geo 0).memberOf 40803 (.par 3)) = 48
    ∧ ((st l108).geo 0).slotOf (((st l108).geo 0).memberOf 40804 (.data 37)) = 51
    ∧ ((st l108).geo 0).slotOf (((st l108).geo 0).memberOf 40804 (.par 3)) = 49
    ∧ ((st l108).geo 0).coef 0 37 = gf16Pow 2 38 ∧ ((st l108).geo 0).coef 3 37 = gf16Pow 2 304 := by decide +kernel

/-- The offsets of the register index's example, and its island. -/
theorem test_register_example :
    (Reg.SAS_SLOT_RIW_BLK_CNT 50).off = 0xA1C9C ∧ (Reg.STP_ARRAY_ERASED_SLOTS 2 1).off = 0x301A4 ∧ islandOf 0xA1C9C = .sas 8 := by decide +kernel

/-- W_req 550 W and W_min 360 W of 26 slots and six fans of 6.4 W (the worked example that follows R306). -/
theorem test_wake_example :
    (st (fanChannels.map (fun c => (Reg.FAN_CH_CFG_P_RATED_W c, 100)))).wakeReq 26 = 550
    ∧ (st (fanChannels.map (fun c => (Reg.FAN_CH_CFG_P_RATED_W c, 100)))).wakeMin 26 = 360 := by decide +kernel

/-- The pack of the worked example that follows R323, with the points of its table that the example gives. -/
def packTable : List (Nat × Nat) := [(0, 5000), (16, 5180), (48, 5820), (352, 6870), (384, 6900), (1024, 8400)]
def packOf : PackDesc := ⟨7, 5880, 450, packTable, packTable, packTable, 1, 0⟩

/-- RSOC 69.31 % and E_u 9,576 J. -/
theorem test_pack_example :
    let s := st [(Reg.BAT_CAP_FCC_DMAH, 5880), (Reg.BAT_EOD_V_SHUT_MV, 5100), (Reg.BAT_VOLT_TEMP, 250)]
      (fun s => onCmdPart (fun c => { c with features := [(0x302, 30)] }) (onBat (fun b => { b with desc := some packOf, r25 := 450, qRem := 412000 }) s))
    s.rsocOf packOf 412000 = 6931 ∧ s.euOf packOf 412000 = 9576 := by decide +kernel

/-! The checks of R71 and R72: a write that they accept and one that they refuse, each in a state that meets the hypothesis -/

/-- The outcome of a command as a next state, or the state after reset. -/
def after1 (c : Instr) (s : State) : State := match exec c s with | .next t => t | _ => State.reset

theorem witness_ArrayValidity :
    (∃ (s : State) (n : Fin 4), s.lands (0x30100 + 0x40 * n.val) = true ∧ (after1 (.arrayValidWrite n true) s).get (Reg.STP_ARRAY_CFG_VALID n.val) = 1)
    ∧ (∃ (s : State) (n : Fin 4), s.lands (0x30100 + 0x40 * n.val) = true ∧ (after1 (.arrayValidWrite n true) s).get (Reg.STP_ARRAY_CFG_CFG_ERR n.val) = 1) :=
  ⟨⟨st (arr ++ [(Reg.STP_ARRAY_CFG_VALID 0, 0)]), 0, by decide +kernel⟩, ⟨st (arr ++ [(Reg.STP_ARRAY_CFG_UNIT_SHIFT 0, 13), (Reg.STP_ARRAY_CFG_VALID 0, 0)]), 0, by decide +kernel⟩⟩

theorem witness_VolumeValidity :
    (∃ (s : State) (v : Fin 64), s.lands (0x31000 + 0x20 * v.val) = true ∧ (after1 (.volumeValidWrite v true) s).get (Reg.STP_VOL_CFG_VALID v.val) = 1)
    ∧ (∃ (s : State) (v : Fin 64), s.lands (0x31000 + 0x20 * v.val) = true ∧ (after1 (.volumeValidWrite v true) s).get (Reg.STP_VOL_CFG_RANGE_ERR v.val) = 1) :=
  ⟨⟨st (arr ++ [(Reg.STP_VOL_CFG_VALID 0, 0)]), 0, by decide +kernel⟩, ⟨st (arr ++ [(Reg.STP_VOL_BASE_LO_BASE 0, 91), (Reg.STP_VOL_CFG_VALID 0, 0)]), 0, by decide +kernel⟩⟩

theorem witness_StepKeepsCanonical : ∃ s : State, s.canonical ∧ s.mem ≠ [] ∧ s.pending ≠ [] :=
  ⟨st (up ++ arr) (fun s => writeByte 4096 7#8 { s with pending := [.kick] }), by unfold State.canonical; decide +kernel⟩

theorem witness_EveryCommandCompletes :
    ∃ c : Instr, ∀ r off be v, c = .registerWrite r off be v → off % 4 = 0 ∧ off < 0x400000 :=
  ⟨.registerWrite .host 0x3FFFFC 15 0, by intro r off be v h; cases h; decide⟩

/-! Hypotheses of the statements -/

theorem witness_StripeCommandsComplete :
    (∃ (s : State), s.lands 0x30010 = true ∧ s.on Reg.STP_XLATE_CTRL_BUSY = false)
    ∧ (∃ (s : State), s.on Reg.STP_XLATE_CTRL_BUSY = true)
    ∧ (∃ (s : State) (n : Fin 4), s.lands (0x30130 + 0x40 * n.val) = true ∧ s.on (Reg.STP_ARRAY_EVAL_BUSY n.val) = false)
    ∧ (∃ (s : State) (n : Fin 4), s.on (Reg.STP_ARRAY_EVAL_BUSY n.val) = true) :=
  ⟨⟨st (up ++ arr), by decide +kernel⟩,
   ⟨st (arr ++ [(Reg.STP_XLATE_CTRL_BUSY, 1)]), by decide +kernel⟩,
   ⟨st arr, 3, by decide +kernel⟩,
   ⟨st (arr ++ [(Reg.STP_ARRAY_EVAL_BUSY 0, 1)]), 0, by decide +kernel⟩⟩

theorem witness_EngineCommandsComplete :
    (∃ (s : State) (r : Fin 16) (tail : Nat), s.lands (0x41018 + 0x40 * r.val) = true ∧ tail ≤ s.get (Reg.OXE_RING_CFG_SIZE_M1 r.val))
    ∧ (∃ (s : State) (r : Fin 16), s.on Reg.OXE_AGE_LIMIT = true ∧ s.hasHead r.val = true ∧ 0 < s.ringClass r.val)
    ∧ (∃ (s : State) (e : Fin 28), s.lands (0x48000 + 0x100 * e.val) = true ∧ s.engState e.val = EngSt.inService ∧ (s.eng e.val).running = false)
    ∧ (∃ (s : State) (e : Fin 28), s.lands (0x48000 + 0x100 * e.val) = true ∧ s.engState e.val = EngSt.paused)
    ∧ (∃ (s : State) (e : Fin 28), s.lands (0x48000 + 0x100 * e.val) = true ∧ s.engState e.val = EngSt.spare)
    ∧ (∃ (s : State) (e : Fin 28), (s.eng e.val).testFor = 3)
    ∧ (∃ (s : State) (e : Fin 28), s.engState e.val = EngSt.paused ∧ (s.eng e.val).queue = []) :=
  ⟨⟨st [(Reg.OXE_RING_CFG_SIZE_M1 15, 9)], 15, 9, by decide +kernel⟩,
   ⟨st [(Reg.OXE_AGE_LIMIT, 1), (Reg.OXE_RING_HEAD_HEAD 15, 4), (Reg.OXE_RING_CFG_CLASS 15, 3)], 15, by decide +kernel⟩,
   ⟨st [], 0, by decide +kernel⟩,
   ⟨st [(engField 27, EngSt.paused)], 27, by decide +kernel⟩,
   ⟨st [(engField 27, EngSt.spare)], 27, by decide +kernel⟩,
   ⟨st [] (onEng 27 (fun x => { x with testFor := 3 })), 27, by decide +kernel⟩,
   ⟨st [(engField 5, EngSt.paused)], 5, by decide +kernel⟩⟩

theorem witness_EngineRetires :
    (∃ (s : State) (e : Fin 28), s.lands (0x48000 + 0x100 * e.val) = true ∧ (s.eng e.val).running = false ∧ s.engState e.val ≠ EngSt.retired) :=
  ⟨st [], 27, by decide +kernel⟩

theorem witness_LayeredPlacement :
    (∃ (g : Geo) (k : _), g.layout ≠ 2 ∧ 1 ≤ g.dpg ∧ k < g.groups)
    ∧ (∃ (g : Geo) (d : _), g.layout ≠ 2 ∧ 1 ≤ g.dpg ∧ d < g.groups * (g.m - 1))
    ∧ (∃ (g : Geo), g.layout ≠ 2 ∧ 1 ≤ g.dpg) :=
  ⟨⟨small, 1, by decide +kernel⟩,
   ⟨small, 3, by decide +kernel⟩,
   ⟨small, by decide +kernel⟩⟩

theorem witness_Gen1Placement :
    (∃ (g : Geo), g.layout = 2 ∧ 1 ≤ g.dpg) :=
  ⟨gen1, by decide +kernel⟩

theorem witness_EveryMemberHasItsRole :
    (∃ (g : Geo) (i : Nat), 1 ≤ g.dpg ∧ i < g.members) :=
  ⟨small, 6, by decide +kernel⟩

theorem witness_AddressMapping :
    (∃ (s : State) (v : Nat) (lba : Nat), 1 ≤ (s.geo (s.volArray v)).dataCount ∧ 12 ≤ (s.geo (s.volArray v)).shift ∧ lba < s.volBlocks v) :=
  ⟨st arr, 0, 79, by decide +kernel⟩

theorem witness_TotalDeficit :
    (∃ (g : Geo) (erased : List Nat), 1 ≤ g.dpg ∧ erased.Nodup ∧ (∀ i ∈ erased, i < g.members)) :=
  ⟨small, [0, 6], by decide +kernel⟩

theorem witness_TranslationResult :
    (∃ (s : State), s.on Reg.STP_XLATE_CTRL_BUSY = true ∧ s.volValid (s.get Reg.STP_XLATE_CTRL_VOL) = true
        ∧ (s.stp.xlateOff) < s.volBlocks (s.get Reg.STP_XLATE_CTRL_VOL) * 4096 ∧ 14 ≤ (s.geo (s.volArray (s.get Reg.STP_XLATE_CTRL_VOL))).shift) :=
  ⟨st (arr ++ [(Reg.STP_XLATE_CTRL_BUSY, 1)]) (fun s => { s with stp := { s.stp with xlateOff := 327679 } }), by decide +kernel⟩

theorem witness_MemberCommandsComplete :
    (∃ (s : State) (slot : Fin 108) (tag : Nat) (c : MemCmd) (bs : List DriveBlock), s.openCmdOn slot.val tag = some c ∧ c.owner = .own
        ∧ c.write = true ∨ s.t10Check c bs = none)
    ∧ (∃ (s : State) (slot : Fin 108) (tag : Nat) (b : Nat) (c : MemCmd) (bs : List DriveBlock), s.openCmdOn slot.val tag = some c
        ∧ c.owner = .firmware b ∧ c.write = true ∨ s.t10Check c bs = none)
    ∧ (∃ (s : State) (slot : Fin 108) (tag : Nat) (b : Nat) (lba : Nat) (app : Bool) (c : MemCmd) (bs : List DriveBlock), s.openCmdOn slot.val tag = some c ∧ c.owner = .firmware b ∧ c.write = false ∧ s.t10Check c bs = some (lba, app))
    ∧ (∃ (s : State) (slot : Fin 108) (tag : Nat) (c : MemCmd), s.openCmdOn slot.val tag = some c)
    ∧ (∃ (s : State) (slot : Fin 108) (tag : Nat) (c : MemCmd), s.openCmdOn slot.val tag = some c ∧ c.owner = .own
        ∧ (s.within (sec 600) (s.slot slot.val).timeouts).length < 2 ∧ s.sas.cmds = [c])
    ∧ (∃ (s : State) (slot : Fin 108), s.on (Reg.SAS_SLOT_STATUS_LINK_UP slot.val) = true ∧ (∀ c ∈ s.sas.cmds, c.phys ≠ slot.val))
    ∧ (∃ (s : State) (slot : Fin 108) (rate : Fin 4), s.on (Reg.SLT_STATUS_PRESENT slot.val) = true ∧ s.slotOn slot.val = true ∧ rate ≠ 0)
    ∧ (∃ (s : State), s.on Reg.SAS_CTRL_ENABLE = true ∧ s.on Reg.SAS_FW_CFG_ENABLE = true ∧ s.get Reg.SAS_FW_HEAD_HEAD ≠ s.get Reg.SAS_FW_TAIL_TAIL
        ∧ s.fwOpen < s.fwRoom ∧ (((s.readByte (s.get64 Reg.SAS_FW_BASE_LO_BASE Reg.SAS_FW_BASE_HI_BASE + 32 * s.get Reg.SAS_FW_HEAD_HEAD)).toNat) = 1 ∨ ((s.readByte (s.get64 Reg.SAS_FW_BASE_LO_BASE Reg.SAS_FW_BASE_HI_BASE + 32 * s.get Reg.SAS_FW_HEAD_HEAD)).toNat) = 2) ∧ 0x8000 ≤ (leNat (s.readBytes ((s.get64 Reg.SAS_FW_BASE_LO_BASE Reg.SAS_FW_BASE_HI_BASE + 32 * s.get Reg.SAS_FW_HEAD_HEAD) + 2) 2)) ∧ bitOf ((s.readByte ((s.get64 Reg.SAS_FW_BASE_LO_BASE Reg.SAS_FW_BASE_HI_BASE + 32 * s.get Reg.SAS_FW_HEAD_HEAD) + 1)).toNat) 7 = 1 ∧ s.openCmdOn (bits ((s.readByte ((s.get64 Reg.SAS_FW_BASE_LO_BASE Reg.SAS_FW_BASE_HI_BASE + 32 * s.get Reg.SAS_FW_HEAD_HEAD) + 1)).toNat) 0 7) (leNat (s.readBytes ((s.get64 Reg.SAS_FW_BASE_LO_BASE Reg.SAS_FW_BASE_HI_BASE + 32 * s.get Reg.SAS_FW_HEAD_HEAD) + 2) 2)) = none ∧ s.sas.unopened = [] ∧ (leNat (s.readBytes ((s.get64 Reg.SAS_FW_BASE_LO_BASE Reg.SAS_FW_BASE_HI_BASE + 32 * s.get Reg.SAS_FW_HEAD_HEAD) + 16) 4)) ≤ 255 ∧ s.awake (bits ((s.readByte ((s.get64 Reg.SAS_FW_BASE_LO_BASE Reg.SAS_FW_BASE_HI_BASE + 32 * s.get Reg.SAS_FW_HEAD_HEAD) + 1)).toNat) 0 7) = true ∧ s.openOn (bits ((s.readByte ((s.get64 Reg.SAS_FW_BASE_LO_BASE Reg.SAS_FW_BASE_HI_BASE + 32 * s.get Reg.SAS_FW_HEAD_HEAD) + 1)).toNat) 0 7) < 32 ∧ s.on (Reg.SLT_STATUS_PRESENT (bits ((s.readByte ((s.get64 Reg.SAS_FW_BASE_LO_BASE Reg.SAS_FW_BASE_HI_BASE + 32 * s.get Reg.SAS_FW_HEAD_HEAD) + 1)).toNat) 0 7)) = true ∧ s.on (Reg.SAS_SLOT_STATUS_LINK_UP (bits ((s.readByte ((s.get64 Reg.SAS_FW_BASE_LO_BASE Reg.SAS_FW_BASE_HI_BASE + 32 * s.get Reg.SAS_FW_HEAD_HEAD) + 1)).toNat) 0 7)) = true)
    ∧ (∃ (s : State) (slot : Fin 108), s.lands (0xA1000 + 0x40 * slot.val) = true) :=
  ⟨⟨st (up ++ arr ++ drives) (fun s => { s with sas := { s.sas with cmds := [wcmd 3 .own] } }), 3, 5, wcmd 3 .own, [], by decide +kernel⟩,
   ⟨st (up ++ arr ++ drives) (fun s => { s with sas := { s.sas with cmds := [wcmd 3 (.firmware 64)] } }), 3, 5, 64, wcmd 3 (.firmware 64), [], by decide +kernel⟩,
   ⟨st (up ++ arr ++ drives) (fun s => { s with sas := { s.sas with cmds := [{ wcmd 3 (.firmware 64) with write := false }] } }), 3, 5, 64, 640, false, { wcmd 3 (.firmware 64) with write := false }, [⟨0, 1, 0, 5⟩], by decide +kernel⟩,
   ⟨st (up ++ arr ++ drives) (fun s => { s with sas := { s.sas with cmds := [wcmd 3 .own] } }), 3, 5, wcmd 3 .own, by decide +kernel⟩,
   ⟨st (up ++ arr ++ drives) (fun s => { s with sas := { s.sas with cmds := [wcmd 3 .own] } }), 3, 5, wcmd 3 .own, by decide +kernel⟩,
   ⟨st (up ++ [(Reg.SAS_SLOT_STATUS_LINK_UP 107, 1)]), 107, by decide +kernel⟩,
   ⟨st (up ++ [(Reg.SLT_STATUS_PRESENT 107, 1), (Reg.SLT_STATUS_ON12 107, 1)]), 107, 3, by decide +kernel⟩,
   ⟨st (up ++ arr ++ drives ++ [(Reg.SAS_CTRL_ENABLE, 1), (Reg.SAS_FW_CFG_ENABLE, 1), (Reg.SAS_FW_CFG_SIZE_M1, 3), (Reg.SAS_FW_TAIL_TAIL, 1), (Reg.SAS_FW_BASE_LO_BASE, 64)]) (writeBytes (64 * 64) [1, 0x82, 1, 0x80]), by decide +kernel⟩,
   ⟨st [], 107, by decide +kernel⟩⟩

theorem witness_DrivesComeAndGo :
    (∃ (s : State) (slot : Fin 108), s.on (Reg.SLT_STATUS_PRESENT slot.val) = false ∧ s.arrayOf (s.logicalOf slot.val) = none)
    ∧ (∃ (s : State) (slot : Fin 108), s.on (Reg.SLT_STATUS_PRESENT slot.val) = false)
    ∧ (∃ (s : State) (slot : Fin 108), s.on (Reg.SLT_STATUS_PRESENT slot.val) = true ∧ s.arrayOf (s.logicalOf slot.val) = none
        ∧ (∀ c ∈ s.sas.cmds, c.phys ≠ slot.val))
    ∧ (∃ (s : State) (slot : Fin 108) (n : Nat), s.on (Reg.SLT_STATUS_PRESENT slot.val) = true ∧ s.on (Reg.SLT_STATUS_ON12 slot.val) = true
        ∧ s.on (Reg.SLT_STATUS_ON5 slot.val) = true ∧ s.on (Reg.SAS_SLOT_STATUS_LINK_UP slot.val) = false
        ∧ s.arrayOf (s.logicalOf slot.val) = some n ∧ s.frontierOf 0 n (s.logicalOf slot.val) = none
        ∧ (s.erasedSlots n).contains (s.logicalOf slot.val) = false ∧ s.spareFor n = none) :=
  ⟨⟨st up, 107, by decide +kernel⟩,
   ⟨st (up ++ arr), 2, by decide +kernel⟩,
   ⟨st (up ++ arr ++ [(Reg.SLT_STATUS_PRESENT 107, 1)]), 107, by decide +kernel⟩,
   ⟨st (up ++ arr ++ drives ++ [(Reg.SAS_SLOT_STATUS_LINK_UP 3, 0)]), 3, 0, by decide +kernel⟩⟩

theorem witness_RepairCommandsComplete :
    (∃ (s : State) (slot : Fin 108), s.lands 0xA0020 = true
        ∧ (setF Reg.SAS_WAKE_RETRY_DENY 0 (setF Reg.SAS_WAKE_RETRY_SLOT slot.val (ungate (islandOf 0xA0020) s))).heldOn slot.val = [])
    ∧ (∃ (s : State) (slot : Fin 108) (n : _), s.lands 0xA0020 = true
        ∧ (setF Reg.SAS_WAKE_RETRY_DENY 0 (setF Reg.SAS_WAKE_RETRY_SLOT slot.val (ungate (islandOf 0xA0020) s))).awake slot.val = true
        ∧ (setF Reg.SAS_WAKE_RETRY_DENY 0 (setF Reg.SAS_WAKE_RETRY_SLOT slot.val (ungate (islandOf 0xA0020) s))).heldOn slot.val ≠ []
        ∧ (setF Reg.SAS_WAKE_RETRY_DENY 0 (setF Reg.SAS_WAKE_RETRY_SLOT slot.val (ungate (islandOf 0xA0020) s))).arrayOf ((setF Reg.SAS_WAKE_RETRY_DENY 0 (setF Reg.SAS_WAKE_RETRY_SLOT slot.val (ungate (islandOf 0xA0020) s))).logicalOf slot.val) = some n)
    ∧ (∃ (s : State) (slot : Fin 108), s.lands 0xA0020 = true ∧ s.heldOn slot.val = [])
    ∧ (∃ (s : State) (slot : Fin 108) (p : Nat) (x : Piece), s.lands 0xA0020 = true ∧ s.heldOn slot.val = [p] ∧ s.piece? p = some x)
    ∧ (∃ (s : State) (n : Fin 4), s.lands (0x40100 + 0x20 * n.val) = true)
    ∧ (∃ (s : State) (piece : Nat) (p : Nat) (x : Piece), s.lands 0xA00D4 = true
        ∧ s.sas.pieces.find? (fun p => p.2.state == 6 && p.1 % 2 ^ 24 == piece % 2 ^ 24) = some (p, x))
    ∧ (∃ (s : State) (k : Fin 8), s.lands (0xA0200 + 0x20 * k.val) = true)
    ∧ (∃ (s : State) (k : Fin 8), s.lands (0xA0200 + 0x20 * k.val) = true)
    ∧ (∃ (s : State) (k : Fin 8) (row : Nat) (reads : RowReads), s.nextRow k.val = some row ∧ s.mayRebuild k.val row = true
        ∧ (s.frontDrives k.val row).filter (fun p => !s.awake p) = []
        ∧ (s.on (Reg.SAS_RBD_CFG_MODE k.val) = true ∨ s.inLoss (s.get (Reg.SAS_RBD_CFG_ARRAY k.val)) row (s.frontMember k.val) = false)
        ∧ (∀ x ∈ ((s.geo (s.get (Reg.SAS_RBD_CFG_ARRAY k.val))).rebuilt row reads (s.erasedIn (s.get (Reg.SAS_RBD_CFG_ARRAY k.val)) row) (s.frontMember k.val)), x.1.isSome = true) ∧ (s.geo (s.get (Reg.SAS_RBD_CFG_ARRAY k.val))).badBlocks reads (s.erasedIn (s.get (Reg.SAS_RBD_CFG_ARRAY k.val)) row) (s.geo (s.get (Reg.SAS_RBD_CFG_ARRAY k.val))).unitBlocks = [])
    ∧ (∃ (s : State) (k : Fin 8) (row : Nat), s.nextRow k.val = some row ∧ s.mayRebuild k.val row = true
        ∧ (s.frontDrives k.val row).filter (fun p => !s.awake p) = [] ∧ s.on (Reg.SAS_RBD_CFG_MODE k.val) = false
        ∧ s.inLoss (s.get (Reg.SAS_RBD_CFG_ARRAY k.val)) row (s.frontMember k.val) = true)
    ∧ (∃ (s : State) (k : Fin 8) (row : Nat), s.nextRow k.val = some row ∧ s.mayRebuild k.val row = true
        ∧ ((s.frontDrives k.val row).filter (fun p => !s.awake p)) ≠ [])
    ∧ (∃ (s : State) (k : Fin 8), s.on (Reg.SAS_RBD_CFG_ENABLE k.val) = true)
    ∧ (∃ (s : State) (n : Fin 4) (k : Fin 8), s.mayGraze n.val (some k.val) = true
        ∧ s.membersAwake n.val ((s.geo n.val).grazed (some k.val)) = true) :=
  ⟨⟨st [], 107, by decide +kernel⟩,
   ⟨st (up ++ arr ++ drives) (fun s => { s with sas := { s.sas with pieces := [(4, { piece1 with state := 4, needs := [3] })] } }), 3, 0, by decide +kernel⟩,
   ⟨st [], 107, by decide +kernel⟩,
   ⟨st (up ++ arr ++ drives) (fun s => { s with sas := { s.sas with pieces := [(4, { piece1 with state := 4, needs := [3] })] } }), 3, 4, { piece1 with state := 4, needs := [3] }, by decide +kernel⟩,
   ⟨st arr, 3, by decide +kernel⟩,
   ⟨st (up ++ arr ++ drives) (fun s => { s with sas := { s.sas with pieces := [(4, { piece1 with state := 6 })] } }), 4, 4, { piece1 with state := 6 }, by decide +kernel⟩,
   ⟨st (up ++ arr), 7, by decide +kernel⟩,
   ⟨st (up ++ arr ++ [(Reg.SAS_RBD_CFG_ENABLE 7, 1)]), 7, by decide +kernel⟩,
   ⟨st (up ++ arr ++ drives ++ [(Reg.SAS_RBD_CFG_ENABLE 0, 1), (Reg.SAS_RBD_CFG_ARRAY 0, 0), (Reg.SAS_RBD_CFG_SLOT 0, 1), (Reg.STP_ARRAY_ERASED_SLOTS 0 0, 2)]), 0, 0, [(0, [some 5, some 6, some 7, some 8]), (1, []), (2, [some 5, some 6, some 7, some 8]), (3, [some 1, some 2, some 3, some 4])], by decide +kernel⟩,
   ⟨st (up ++ arr ++ drives ++ [(Reg.SAS_RBD_CFG_ENABLE 0, 1), (Reg.SAS_RBD_CFG_SLOT 0, 1), (Reg.STP_ARRAY_ERASED_SLOTS 0 0, 6), (Reg.STP_ARRAY_EVAL_PHASE_FAIL 0, 1)]), 0, 0, by decide +kernel⟩,
   ⟨st (up ++ arr ++ drives ++ [(Reg.SAS_RBD_CFG_ENABLE 0, 1), (Reg.SAS_RBD_CFG_ARRAY 0, 0), (Reg.SAS_RBD_CFG_SLOT 0, 1), (Reg.STP_ARRAY_ERASED_SLOTS 0 0, 2)] ++ [(Reg.SAS_SLOT_CTRL_AWAKE 3, 0)]), 0, 0, by decide +kernel⟩,
   ⟨st (up ++ arr ++ [(Reg.SAS_RBD_CFG_ENABLE 7, 1)]), 7, by decide +kernel⟩,
   ⟨st (up ++ arr ++ drives), 0, 7, by decide +kernel⟩⟩

theorem witness_WritePathCompletes :
    (∃ (s : State) (qid : Nat) (cid : Nat) (n : Nat) (c : Cmd) (blocks : List HostBlock), s.cmdOf qid cid = some (n, c) ∧ c.begun = true
        ∧ c.held = false ∧ c.e.opcode = 0x21 ∧ c.moved = false ∧ s.masters = true ∧ s.admitStop = false ∧ blocks.length = c.e.nlbM1 + 1
        ∧ bitOf c.e.flags 1 = 0 ∧ s.armed 3 = false ∧ s.cmd? n = some c)
    ∧ (∃ (s : State) (qid : Nat) (cid : Nat) (fails : Nat) (n : Nat) (c : Cmd), s.cmdOf qid cid = some (n, c) ∧ c.e.opcode = 0x21 ∧ c.moved = true
        ∧ c.committed = false ∧ s.jnl.toWt = false ∧ s.mustFollow n c.e.vol c.e.slba (c.e.nlbM1 + 1) = false
        ∧ s.writeRefused c.e.vol c.e.slba (c.e.nlbM1 + 1) = false
        ∧ (s.get Reg.JNL_STATUS_LEVEL = 1 → s.stagingFits ((c.e.nlbM1 + 2) * (fails + 1) - 1) = true ∧ ∀ l ∈ c.buf, l.2.bad = false))
    ∧ (∃ (s : State) (qid : Nat) (cid : Nat) (fails : Nat) (n : Nat) (c : Cmd), s.cmdOf qid cid = some (n, c) ∧ c.e.opcode = 0x21 ∧ c.moved = true
        ∧ c.committed = false ∧ s.jnl.toWt = false ∧ s.mustFollow n c.e.vol c.e.slba (c.e.nlbM1 + 1) = false
        ∧ s.writeRefused c.e.vol c.e.slba (c.e.nlbM1 + 1) = false
        ∧ (s.get Reg.JNL_STATUS_LEVEL = 1 → s.stagingFits ((c.e.nlbM1 + 2) * (fails + 1) - 1) = true ∧ ∀ l ∈ c.buf, l.2.bad = false))
    ∧ (∃ (s : State), s.lands 0x50000 = true)
    ∧ (∃ (s : State), s.jnl.toWt = true ∧ s.allClean = true)
    ∧ (∃ (s : State) (qid : Nat) (cid : Nat) (n : Nat) (c : Cmd), s.cmdOf qid cid = some (n, c) ∧ s.jnl.toWt = true
        ∧ c.e.opcode ∈ [0x21, 0x24, 0x25] ∧ c.committed = false)
    ∧ (∃ (s : State) (v : Bool), s.lands 0x50000 = true ∧ s.on Reg.JNL_CTRL_PACK_HEALTHY ≠ v)
    ∧ (∃ (s : State), s.lands 0x50000 = true ∧ s.partnerLive = false)
    ∧ (∃ (s : State), s.lands 0x50000 = true ∧ s.partnerLive = true)
    ∧ (∃ (s : State), s.lands 0x50000 = true)
    ∧ (∃ (s : State), s.lands 0x60004 = true) :=
  ⟨⟨st (up ++ arr ++ drives) (cmdOf1 { e := ent 1 0x21, begun := true }), 1, 77, 9, { e := ent 1 0x21, begun := true }, [⟨5, 0, 0⟩], by decide +kernel⟩,
   ⟨st (up ++ arr ++ drives ++ [(Reg.JNL_STATUS_LEVEL, 2)]) (cmdOf1 { e := ent 1 0x21, begun := true, moved := true, buf := [(0, { data := 5 })] }), 1, 77, 0, 9, { e := ent 1 0x21, begun := true, moved := true, buf := [(0, { data := 5 })] }, by decide +kernel⟩,
   ⟨st (up ++ arr ++ drives ++ [(Reg.JNL_STATUS_LEVEL, 1)]) (cmdOf1 { e := ent 1 0x21, begun := true, moved := true, buf := [(0, { data := 5 })] }), 1, 77, 1, 9, { e := ent 1 0x21, begun := true, moved := true, buf := [(0, { data := 5 })] }, by decide +kernel⟩,
   ⟨st (up ++ [(Reg.JNL_STATUS_LEVEL, 2)]), by decide +kernel⟩,
   ⟨st up (fun s => { s with jnl := { s.jnl with toWt := true } }), by decide +kernel⟩,
   ⟨st (up ++ arr) (fun s => cmdOf1 { e := ent 1 0x21, begun := true, moved := true } { s with jnl := { s.jnl with toWt := true } }), 1, 77, 9, { e := ent 1 0x21, begun := true, moved := true }, by decide +kernel⟩,
   ⟨st (up ++ [(Reg.JNL_STATUS_LEVEL, 2)]), true, by decide +kernel⟩,
   ⟨st (up ++ [(Reg.JNL_STATUS_LEVEL, 2)]), by decide +kernel⟩,
   ⟨st (up ++ [(Reg.JNL_CTRL_PARTNER_LIVE, 1)]), by decide +kernel⟩,
   ⟨st up, by decide +kernel⟩,
   ⟨st up, by decide +kernel⟩⟩

theorem witness_WritebackCompletes :
    (∃ (s : State) (n : Fin 4) (row : Nat), s.rowLines n.val row ≠ [])
    ∧ (∃ (s : State) (n : Fin 4) (row : Nat), s.rowDue n.val row = true ∧ s.rowLines n.val row ≠ [] ∧ s.rowGated n.val row = false
        ∧ s.serviceHolds = false)
    ∧ (∃ (s : State) (n : Fin 4) (row : Nat) (u : Nat) (x : Update) (rest : List LockUser), s.lockOf (rowKey n.val row) = (none, .update u :: rest)
        ∧ s.locksHeld < 65536 ∧ s.serviceHolds = false ∧ s.update? u = some x
        ∧ (∀ m ∈ s.updateNeeds x, s.liveMember n.val row m = true → s.awakeMember n.val m = true))
    ∧ (∃ (s : State) (n : Fin 4) (row : Nat) (r : Nat) (rest : List LockUser), s.lockOf (rowKey n.val row) = (none, .repair r :: rest)
        ∧ s.locksHeld < 65536 ∧ s.serviceHolds = false)
    ∧ (∃ (s : State) (i : Nat) (u : Nat) (x : Update), s.jnl.updates.find? (fun p => p.2.head == some i && p.2.step == 2) = some (u, x)
        ∧ s.partnerLive = false)
    ∧ (∃ (s : State) (i : Nat) (u : Nat) (x : Update) (y : Update), s.jnl.updates.find? (fun p => p.2.head == some i && p.2.step == 2) = some (u, x) ∧ s.partnerLive = true ∧ s.update? u = some y)
    ∧ (∃ (s : State) (i : Nat), s.retirable i = true)
    ∧ (∃ (s : State), s.lands 0x50024 = true)
    ∧ (∃ (s : State), s.modeIn [Mode.waking, Mode.takeover] = true ∧ s.on Reg.JNL_CTRL_REPLAY_DONE = false ∧ s.on Reg.FOV_CTRL_HOLD = false
        ∧ s.jnl.intents = [] ∧ s.jnl.staging = [] ∧ s.jnl.images = [] ∧ (∀ d ∈ s.fab.deltas, d.freed = true ∨ s.deltaGood d = true))
    ∧ (∃ (s : State) (qid : Nat) (cid : Nat) (n : Nat) (c : Cmd), s.cmdOf qid cid = some (n, c) ∧ s.cmd? n = some c ∧ c.e.opcode = 0x20
        ∧ c.split = true ∧ c.pieces = 0 ∧ s.masters = true ∧ (∀ b ∈ c.buf, b.2.bad = false)) :=
  ⟨⟨st (up ++ arr ++ drives) dirtyLine, 0, 1, by decide +kernel⟩,
   ⟨st (up ++ arr ++ drives) (fun s => dirtyLine { s with jnl := { s.jnl with demandRows := [4] } }), 0, 1, by decide +kernel⟩,
   ⟨st (up ++ arr ++ drives) (fun s => { s with jnl := { s.jnl with locks := [(8, (none, [.update 3]))], updates := [(3, { upd with step := 0, head := none })] } }), 0, 2, 3, { upd with step := 0, head := none }, [], by decide +kernel⟩,
   ⟨st (up ++ arr ++ drives) (fun s => { s with jnl := { s.jnl with locks := [(8, (none, [.repair 3]))] } }), 0, 2, 3, [], by decide +kernel⟩,
   ⟨st (up ++ arr ++ drives) (fun s => { s with jnl := { s.jnl with intents := [(5, int1)], updates := [(3, upd)] } }), 5, 3, upd, by decide +kernel⟩,
   ⟨st (up ++ arr ++ drives ++ [(Reg.JNL_CTRL_PARTNER_LIVE, 1)]) (fun s => { s with jnl := { s.jnl with intents := [(5, int1)], updates := [(3, upd)] } }), 5, 3, upd, upd, by decide +kernel⟩,
   ⟨st (up ++ arr ++ drives) (fun s => { s with jnl := { s.jnl with intents := [(5, int1)], updates := [(3, { upd with step := 6 })] } }), 5, by decide +kernel⟩,
   ⟨st (up ++ arr), by decide +kernel⟩,
   ⟨st [(Reg.SYS_MODE_MODE, 1)], by decide +kernel⟩,
   ⟨st (up ++ arr ++ drives) (cmdOf1 { e := ent 1 0x20, begun := true, split := true, buf := [(0, { data := 5 })] }), 1, 77, 9, { e := ent 1 0x20, begun := true, split := true, buf := [(0, { data := 5 })] }, by decide +kernel⟩⟩

theorem witness_ConverterCommandsComplete :
    (∃ (s : State), s.on Reg.PWR_STATUS_MAINS_OK = true)
    ∧ (∃ (s : State), s.on Reg.PWR_STATUS_MAINS_OK = true ∧ s.mode = Mode.destaging ∧ (∀ n ∈ allSlots, s.slotOn n = false))
    ∧ (∃ (s : State), s.on Reg.PWR_STATUS_MAINS_OK = false)
    ∧ (∃ (s : State), s.busUp = true)
    ∧ (∃ (s : State), s.on Reg.PWR_STATUS_OVERLOAD = true ∧ s.get Reg.PWR_STATUS_CONV_STATE = 3)
    ∧ (∃ (s : State), s.lands 0xC0000 = true ∧ s.on Reg.PWR_STATUS_MAINS_OK = true ∧ s.get Reg.PWR_STATUS_CONV_STATE = 0)
    ∧ (∃ (s : State), s.lands 0xC0000 = true)
    ∧ (∃ (s : State), s.get Reg.PWR_STATUS_CONV_STATE = 1 ∧ s.mode ≠ Mode.waking)
    ∧ (∃ (s : State), s.lands 0xC0000 = true)
    ∧ (∃ (s : State), s.pwr.unmated = false ∧ s.on Reg.FAN_TOKEN_HELD = false ∧ (∀ n ∈ allSlots, s.slotOn n = false))
    ∧ (∃ (s : State), s.active = true ∧ s.hif.up = false ∧ s.fov.partnerHost = true) :=
  ⟨⟨st [(Reg.PWR_STATUS_MAINS_OK, 1)], by decide +kernel⟩,
   ⟨st [(Reg.PWR_STATUS_MAINS_OK, 1), (Reg.SYS_MODE_MODE, 6)], by decide +kernel⟩,
   ⟨st [], by decide +kernel⟩,
   ⟨st [(Reg.PWR_STATUS_CONV_STATE, 2)], by decide +kernel⟩,
   ⟨st [(Reg.PWR_STATUS_CONV_STATE, 3), (Reg.PWR_STATUS_OVERLOAD, 1)], by decide +kernel⟩,
   ⟨st [(Reg.PWR_STATUS_MAINS_OK, 1), (Reg.PWR_STATUS_CONV_STATE, 0)], by decide +kernel⟩,
   ⟨st [(Reg.PWR_STATUS_MAINS_OK, 1), (Reg.PWR_STATUS_CONV_STATE, 2)], by decide +kernel⟩,
   ⟨st [(Reg.PWR_STATUS_MAINS_OK, 1), (Reg.PWR_STATUS_CONV_STATE, 1)], by decide +kernel⟩,
   ⟨st [], by decide +kernel⟩,
   ⟨st [], by decide +kernel⟩,
   ⟨st (up ++ [(Reg.JNL_CTRL_PARTNER_LIVE, 1)]) (fun s => { s with fov := { s.fov with partnerHost := true } }), by decide +kernel⟩⟩

theorem witness_SlotCommandsComplete :
    (∃ (s : State) (slot : Fin 108), s.on (Reg.SLT_STATUS_ON12 slot.val) = true)
    ∧ (∃ (s : State) (slot : Fin 108), s.on (Reg.SLT_STATUS_ON5 slot.val) = true)
    ∧ (∃ (s : State) (slot : Fin 108), s.lands (0xB0000 + 8 * slot.val) = true)
    ∧ (∃ (s : State) (slot : Fin 108), s.lands (0xB0000 + 8 * slot.val) = true)
    ∧ (∃ (s : State) (slot : Fin 108), s.lands (0xB0000 + 8 * slot.val) = true)
    ∧ (∃ (s : State) (n : Nat), s.head1 = some n ∧ s.gatesOpen = true ∧ s.gate1Fits = true)
    ∧ (∃ (s : State) (n : Nat), s.head2 = some n ∧ s.gatesOpen = true ∧ s.gate2Fits = true)
    ∧ (∃ (s : State) (slot : Fin 108), s.on (Reg.SLT_STATUS_SURGING slot.val) = true)
    ∧ (∃ (s : State) (slot : Fin 108), s.on (Reg.SLT_STATUS_SURGING slot.val) = true)
    ∧ (∃ (s : State) (slot : Fin 108), (s.slot slot.val).attempting = true ∧ s.on (Reg.SAS_SLOT_STATUS_LINK_UP slot.val) = false)
    ∧ (∃ (s : State) (slot : Fin 108), s.on (Reg.SLT_STATUS_SURGING slot.val) = true)
    ∧ (∃ (s : State) (slot : Fin 108), (s.slot slot.val).retryDue = true ∧ s.slotOn slot.val = false
        ∧ s.on (Reg.SLT_STATUS_COOLDOWN slot.val) = false)
    ∧ (∃ (s : State) (slot : Fin 108), (s.slot slot.val).offWait = 3)
    ∧ (∃ (s : State) (slot : Fin 108), (s.slot slot.val).stopSent = true)
    ∧ (∃ (s : State) (busLow : Bool) (n : Nat), s.on Reg.PWR_STATUS_OVERLOAD = true ∧ s.on Reg.PWR_CTRL_SHED_EN = true
        ∧ (keepShedOk s).shedNext busLow = some n) :=
  ⟨⟨st [(Reg.SLT_STATUS_ON12 107, 1)], 107, by decide +kernel⟩,
   ⟨st [(Reg.SLT_STATUS_ON5 107, 1)], 107, by decide +kernel⟩,
   ⟨st [], 107, by decide +kernel⟩,
   ⟨st [], 107, by decide +kernel⟩,
   ⟨st [(Reg.SLT_CTRL_EN12 107, 1), (Reg.SLT_CTRL_EN5 107, 1), (Reg.SLT_STATUS_ON5 107, 1), (Reg.SLT_STATUS_ON12 107, 1)], 107, by decide +kernel⟩,
   ⟨st [(Reg.PWR_STATUS_CONV_STATE, 2), (Reg.SLT_STATUS_PRESENT 107, 1), (Reg.SLT_CTRL_EN12 107, 1), (Reg.SLT_CTRL_EN5 107, 1), (Reg.PWR_BUDGET_GRANT_W, 2000), (Reg.PWR_CAP_CAP_W, 2000), (Reg.PWR_CTRL_GATE_EN, 1), (Reg.PWR_SPIN_SURGE_W, 500)] (fun s => onSlot 107 (fun x => { x with order1 := some 1 }) s), 107, by decide +kernel⟩,
   ⟨st [(Reg.PWR_STATUS_CONV_STATE, 2), (Reg.SLT_STATUS_PRESENT 107, 1), (Reg.SAS_SLOT_STATUS_LINK_UP 107, 1), (Reg.SLT_STATUS_ON12 107, 1), (Reg.SLT_STATUS_ON5 107, 1), (Reg.SLT_CTRL_SPIN 107, 1), (Reg.PWR_BUDGET_GRANT_W, 2000), (Reg.PWR_CAP_CAP_W, 2000), (Reg.PWR_CTRL_GATE_EN, 1), (Reg.PWR_SPIN_SURGE_W, 500)] (fun s => onSlot 107 (fun x => { x with order2 := some 1 }) s), 107, by decide +kernel⟩,
   ⟨st [(Reg.SLT_STATUS_SURGING 107, 1)], 107, by decide +kernel⟩,
   ⟨st [(Reg.SLT_STATUS_SURGING 107, 1)], 107, by decide +kernel⟩,
   ⟨st [] (fun s => onSlot 107 (fun x => { x with attempting := true }) s), 107, by decide +kernel⟩,
   ⟨st [(Reg.SLT_STATUS_SURGING 107, 1)], 107, by decide +kernel⟩,
   ⟨st [] (fun s => onSlot 107 (fun x => { x with retryDue := true }) s), 107, by decide +kernel⟩,
   ⟨st [(Reg.SLT_STATUS_ON12 107, 1), (Reg.SLT_STATUS_ON5 107, 1)] (fun s => onSlot 107 (fun x => { x with offWait := 3 }) s), 107, by decide +kernel⟩,
   ⟨st [] (fun s => onSlot 107 (fun x => { x with stopSent := true }) s), 107, by decide +kernel⟩,
   ⟨st [(Reg.PWR_STATUS_OVERLOAD, 1), (Reg.PWR_CTRL_SHED_EN, 1), (Reg.SLT_STATUS_ON12 107, 1), (Reg.SAS_SLOT_CTRL_AWAKE 107, 1)], false, 107, by decide +kernel⟩⟩

theorem witness_FailedAttempt :
    (∃ (s : State) (n : Nat), n < 108 ∧ s.arrayOf (s.logicalOf n) = none) :=
  ⟨st [], 107, by decide +kernel⟩

theorem witness_FanChannelsComplete :
    (∃ (s : State) (c : Fin 6) (x : FocSample), s.fanState c.val = FanSt.run ∧ x.vector < 950 ∧ s.on (Reg.FAN_CH_STATE_VOLT_LIMIT c.val) = false)
    ∧ (∃ (s : State) (c : Fin 6), s.fanState c.val = FanSt.run ∧ (s.fanChan c.val).aboveLimit = true
        ∧ (s.within (sec 60) (s.fanChan c.val).losses).length < 2)
    ∧ (∃ (s : State) (c : Fin 6), s.fanState c.val = FanSt.coast ∧ (s.fanChan c.val).startFails = 0 ∧ s.fanDrive = true)
    ∧ (∃ (s : State), s.lands 0xE010C = true)
    ∧ (∃ (s : State) (c : Fin 6), s.fanState c.val = FanSt.sense ∧ s.fanDrive = true)
    ∧ (∃ (s : State) (c : Fin 6), s.fanState c.val = FanSt.brake)
    ∧ (∃ (s : State) (c : Fin 6), s.fanState c.val = FanSt.align)
    ∧ (∃ (s : State) (c : Fin 6), s.fanState c.val = FanSt.openRamp ∧ (s.fanChan c.val).aboveLimit = false)
    ∧ (∃ (s : State) (c : Fin 6), s.fanState c.val = FanSt.sync)
    ∧ (∃ (s : State) (c : Fin 6), s.fanState c.val ∈ startingStates ∧ s.fanDrive = true ∧ (s.fanChan c.val).startFails = 0)
    ∧ (∃ (s : State) (c : Fin 6), s.fanState c.val = FanSt.coast ∧ (s.fanChan c.val).startFails ≠ 0 ∧ s.fanDrive = true)
    ∧ (∃ (s : State) (c : Fin 6), s.fanState c.val = FanSt.run)
    ∧ (∃ (s : State) (c : Fin 6), s.fanState c.val ∈ drivingStates)
    ∧ (∃ (s : State) (c : Fin 6), s.lands 0xE010C = true ∧ s.fanState c.val = FanSt.fault)
    ∧ (∃ (s : State) (c : Fin 6), s.fanState c.val = FanSt.fault ∧ (s.within (sec 86400) (s.fanChan c.val).faults).length < 2) :=
  ⟨⟨st [(Reg.FAN_CH_STATE_STATE 5, FanSt.run)], 5, ⟨false, false, false, 100, -60, -40, 0, 0, 0, 5000, 90, 0, 949⟩, by decide +kernel⟩,
   ⟨st [(Reg.FAN_CH_STATE_STATE 5, FanSt.run)] (fun s => onFanChan 5 (fun x => { x with aboveLimit := true }) s), 5, by decide +kernel⟩,
   ⟨st [(Reg.FAN_CH_STATE_STATE 5, FanSt.coast), (Reg.FAN_TOKEN_HELD, 1), (Reg.FAN_CTRL_ENABLE, 1)], 5, by decide +kernel⟩,
   ⟨st [], by decide +kernel⟩,
   ⟨st [(Reg.FAN_CH_STATE_STATE 5, FanSt.sense), (Reg.FAN_TOKEN_HELD, 1), (Reg.FAN_CTRL_ENABLE, 1)], 5, by decide +kernel⟩,
   ⟨st [(Reg.FAN_CH_STATE_STATE 5, FanSt.brake)], 5, by decide +kernel⟩,
   ⟨st [(Reg.FAN_CH_STATE_STATE 5, FanSt.align)], 5, by decide +kernel⟩,
   ⟨st [(Reg.FAN_CH_STATE_STATE 5, FanSt.openRamp)], 5, by decide +kernel⟩,
   ⟨st [(Reg.FAN_CH_STATE_STATE 5, FanSt.sync)], 5, by decide +kernel⟩,
   ⟨st [(Reg.FAN_CH_STATE_STATE 5, FanSt.sync), (Reg.FAN_TOKEN_HELD, 1), (Reg.FAN_CTRL_ENABLE, 1)], 5, by decide +kernel⟩,
   ⟨st [(Reg.FAN_CH_STATE_STATE 5, FanSt.coast), (Reg.FAN_TOKEN_HELD, 1), (Reg.FAN_CTRL_ENABLE, 1)] (fun s => onFanChan 5 (fun x => { x with startFails := 1 }) s), 5, by decide +kernel⟩,
   ⟨st [(Reg.FAN_CH_STATE_STATE 5, FanSt.run)], 5, by decide +kernel⟩,
   ⟨st [(Reg.FAN_CH_STATE_STATE 5, FanSt.run)], 5, by decide +kernel⟩,
   ⟨st [(Reg.FAN_CH_STATE_STATE 5, FanSt.fault)], 5, by decide +kernel⟩,
   ⟨st [(Reg.FAN_CH_STATE_STATE 5, FanSt.fault)], 5, by decide +kernel⟩⟩

theorem witness_FanTokenAndDemandComplete :
    (∃ (s : State), s.lands 0xE000C = true ∧ s.on Reg.FAN_TOKEN_HELD = false)
    ∧ (∃ (s : State) (l : List Bool), s.fan.claiming = true ∧ (if s.on Reg.SYS_STRAP_POS then 3 else 2) ≤ l.length
        ∧ (∀ b ∈ l.take (if s.on Reg.SYS_STRAP_POS then 3 else 2), b = true))
    ∧ (∃ (s : State) (l : List Bool), s.fan.claiming = true
        ∧ (l.length < (if s.on Reg.SYS_STRAP_POS then 3 else 2) ∨ ∃ b ∈ l.take (if s.on Reg.SYS_STRAP_POS then 3 else 2), b = false))
    ∧ (∃ (s : State) (l : List Bool), s.fan.claiming = true
        ∧ (l.length < (if s.on Reg.SYS_STRAP_POS then 3 else 2) ∨ ∃ b ∈ l.take (if s.on Reg.SYS_STRAP_POS then 3 else 2), b = false))
    ∧ (∃ (s : State), s.lands 0xE000C = true ∧ s.on Reg.FAN_TOKEN_HELD = true)
    ∧ (∃ (s : State) (low : Bool), s.on Reg.FAN_TOKEN_HELD = false ∧ s.on Reg.FAN_TOKEN_PARTNER ≠ low)
    ∧ (∃ (s : State) (v : Nat), s.lands 0xE0108 = true ∧ v < 1024)
    ∧ (∃ (s : State), s.on Reg.FAN_CTRL_WDOG_EN = true) :=
  ⟨⟨st [], by decide +kernel⟩,
   ⟨st [] (fun s => { s with fan := { s.fan with claiming := true } }), [true, true], by decide +kernel⟩,
   ⟨st [] (fun s => { s with fan := { s.fan with claiming := true } }), [true, false], by decide +kernel⟩,
   ⟨st [] (fun s => { s with fan := { s.fan with claiming := true } }), [true], by decide +kernel⟩,
   ⟨st [(Reg.FAN_TOKEN_HELD, 1)], by decide +kernel⟩,
   ⟨st [], true, by decide +kernel⟩,
   ⟨st [], 1023, by decide +kernel⟩,
   ⟨st [(Reg.FAN_CTRL_WDOG_EN, 1)], by decide +kernel⟩⟩

theorem witness_BeatsComplete :
    (∃ (s : State), s.on Reg.FOV_CTRL_HB_EN = true ∧ s.sys.powered = true)
    ∧ (∃ (s : State) (mirror : Bool), (mirror = true → s.mirrorGated = false) ∧ s.get (missField (b2n mirror)) + 1 < s.missLimit
        ∧ s.get (missField (b2n mirror)) < 255 ∧ s.pathLost 0 = false ∨ s.pathLost 1 = false ∧ s.mirrorGated = false)
    ∧ (∃ (s : State) (w : Nat), beatCrc (w % 2 ^ 24) = bits w 24 8 ∧ s.pathLost 0 = false ∧ bits w 9 1 ≠ s.get Reg.SYS_STRAP_POS ∧ bits w 8 1 = 0
        ∧ beatRole w = 1 ∧ beatMode w = Mode.serving ∧ s.active = false ∧ s.mode = Mode.standby ∧ s.on Reg.FOV_MIR_STATUS_LINK_UP = true
        ∧ s.on Reg.FOV_CTRL_STANDBY_ROLE = true)
    ∧ (∃ (w : Nat), beatCrc (w % 2 ^ 24) ≠ bits w 24 8)
    ∧ (∃ (s : State), s.on Reg.FOV_MIR_STATUS_LINK_UP = true) :=
  ⟨⟨st (up ++ [(Reg.FOV_CTRL_HB_EN, 1)]), by decide +kernel⟩,
   ⟨st (up ++ mir), true, by decide +kernel⟩,
   ⟨st (mir ++ [(Reg.SYS_MODE_MODE, 4), (Reg.FOV_CTRL_STANDBY_ROLE, 1)]), beatOf 0x0212, by decide +kernel⟩,
   ⟨0x12345678, by decide +kernel⟩,
   ⟨st (up ++ mir), by decide +kernel⟩⟩

theorem witness_RoleCommandsComplete :
    (∃ (s : State), s.mode = Mode.parked ∧ s.role = 0 ∧ s.sys.firmwareUp = true ∧ s.sys.posConflict = false ∧ s.on Reg.RPR_POST_FATAL = false
        ∧ s.on Reg.FOV_STATUS_ACTIVE_LINE = true)
    ∧ (∃ (s : State), s.mode = Mode.parked ∧ s.role = 0 ∧ s.sys.firmwareUp = true ∧ s.sys.posConflict = false ∧ s.on Reg.RPR_POST_FATAL = false
        ∧ s.on Reg.FOV_STATUS_ACTIVE_LINE = false ∧ s.fov.heard = false)
    ∧ (∃ (s : State), s.lands 0xF0000 = true ∧ s.active = false ∧ s.sys.posConflict = false)
    ∧ (∃ (s : State) (l : List Bool), s.on Reg.FOV_CTRL_CLAIM = true ∧ (claimSamples (s.on Reg.SYS_STRAP_POS)) ≤ l.length
        ∧ (∀ b ∈ l.take (claimSamples (s.on Reg.SYS_STRAP_POS)), b = true))
    ∧ (∃ (s : State) (l : List Bool), s.on Reg.FOV_CTRL_CLAIM = true
        ∧ l.length < (claimSamples (s.on Reg.SYS_STRAP_POS)) ∨ (∃ b ∈ l.take (claimSamples (s.on Reg.SYS_STRAP_POS)), b = false)
        ∧ s.mode ≠ Mode.parked)
    ∧ (∃ (s : State), s.lands 0xF0000 = true)
    ∧ (∃ (s : State), s.lands 0xF0000 = true ∧ s.active = true)
    ∧ (∃ (s : State) (low : Bool), s.on Reg.FOV_STATUS_ACTIVE_LINE ≠ low ∧ s.mode ≠ Mode.parked)
    ∧ (∃ (s : State), s.mode = Mode.takeover ∧ s.on Reg.FOV_CTRL_HOLD = false ∧ s.active = true ∧ s.fansCaught = true ∧ s.fov.replayed = true
        ∧ s.jnl.intents = [])
    ∧ (∃ (s : State), s.lands 0xF000C = true ∧ s.sys.config = none ∧ s.cmd.commitCmd = none ∧ s.sys.firmwareUp = true)
    ∧ (∃ (s : State), s.on Reg.FOV_STATUS_FW_ALIVE = true)
    ∧ (∃ (s : State), s.on Reg.FOV_STATUS_FW_ALIVE = false ∧ s.active = true ∨ s.on Reg.FAN_TOKEN_HELD = true ∧ s.standbyHeard = true) :=
  ⟨⟨st [(Reg.FOV_STATUS_ACTIVE_LINE, 1)], by decide +kernel⟩,
   ⟨st [], by decide +kernel⟩,
   ⟨st [], by decide +kernel⟩,
   ⟨st [(Reg.FOV_CTRL_CLAIM, 1)], [true, true, true], by decide +kernel⟩,
   ⟨st [(Reg.FOV_CTRL_CLAIM, 1), (Reg.SYS_MODE_MODE, 5)], [true, false], by decide +kernel⟩,
   ⟨st up, by decide +kernel⟩,
   ⟨st up, by decide +kernel⟩,
   ⟨st up, true, by decide +kernel⟩,
   ⟨st [(Reg.SYS_MODE_MODE, 5), (Reg.FOV_STATUS_ACTIVE_HELD, 1)] (onFov (fun x => { x with replayed := true })), by decide +kernel⟩,
   ⟨st up (fun s => { s with sys := { s.sys with config := none } }), by decide +kernel⟩,
   ⟨st (up ++ [(Reg.FOV_STATUS_FW_ALIVE, 1)]), by decide +kernel⟩,
   ⟨st up (onFov (fun x => { x with heard := true, lineWord := beatOf 0x0264 })), by decide +kernel⟩⟩

theorem witness_HandoverCommandsComplete :
    (∃ (s : State), s.mode = Mode.standby ∧ s.fov.handover = 0)
    ∧ (∃ (s : State), s.fov.handover = 3)
    ∧ (∃ (s : State), s.fov.handover = 3)
    ∧ (∃ (s : State), s.fov.handover = 1 ∧ s.fov.toService = false)
    ∧ (∃ (s : State), s.fov.handover = 1)
    ∧ (∃ (s : State), s.fov.handover = 1 ∧ s.cmd.roleCmds = [])
    ∧ (∃ (s : State), s.fov.handover = 4)
    ∧ (∃ (s : State), s.mayExchange = true)
    ∧ (∃ (s : State), s.mayExchange = false ∧ s.fov.holdoffStart.isSome = true ∧ s.fov.handover = 0)
    ∧ (∃ (s : State), s.inHold 1 = true)
    ∧ (∃ (s : State), s.inHold 1 = true)
    ∧ (∃ (s : State), s.inHold 2 = true) :=
  ⟨⟨st [(Reg.SYS_MODE_MODE, 4)], by decide +kernel⟩,
   ⟨st [(Reg.SYS_MODE_MODE, 4)] (onFov (fun x => { x with handover := 3 })), by decide +kernel⟩,
   ⟨st [(Reg.SYS_MODE_MODE, 4)] (onFov (fun x => { x with handover := 3 })), by decide +kernel⟩,
   ⟨st up (onFov (fun x => { x with handover := 1 })), by decide +kernel⟩,
   ⟨st up (onFov (fun x => { x with handover := 1 })), by decide +kernel⟩,
   ⟨st up (onFov (fun x => { x with handover := 1 })), by decide +kernel⟩,
   ⟨st [(Reg.SYS_MODE_MODE, 4)] (onFov (fun x => { x with handover := 4 })), by decide +kernel⟩,
   ⟨st [(Reg.FOV_STATUS_ACTIVE_HELD, 1), (Reg.SYS_STRAP_POS, 1), (Reg.FOV_BEAT_RX_BEAT, 0x20)] (onFov (fun x => { x with heard := true })), by decide +kernel⟩,
   ⟨st up (onFov (fun x => { x with holdoffStart := some 7 })), by decide +kernel⟩,
   ⟨st [(Reg.SYS_MODE_MODE, 5), (Reg.FOV_CTRL_HOLD, 1)] (onFov (fun x => { x with holdCause := 1 })), by decide +kernel⟩,
   ⟨st [(Reg.SYS_MODE_MODE, 5), (Reg.FOV_CTRL_HOLD, 1)] (onFov (fun x => { x with holdCause := 1 })), by decide +kernel⟩,
   ⟨st [(Reg.SYS_MODE_MODE, 5), (Reg.FOV_CTRL_HOLD, 1)] (onFov (fun x => { x with holdCause := 2 })), by decide +kernel⟩⟩

theorem witness_MirrorCommandsComplete :
    (∃ (s : State), s.on Reg.FOV_MIR_STATUS_LINK_UP = true)
    ∧ (∃ (s : State), s.on Reg.FOV_MIR_CTRL_ENABLE = true)
    ∧ (∃ (s : State) (sc : Nat) (b : Block), s.on Reg.FOV_MIR_STATUS_LINK_UP = true ∧ s.fov.commitsDue = [] ∧ crc32c (leBytes 4096 b) = sc)
    ∧ (∃ (s : State) (sc : Nat) (b : Block), s.on Reg.FOV_MIR_STATUS_LINK_UP = true ∧ s.fov.commitsDue = [] ∧ crc32c (leBytes 4096 b) ≠ sc
        ∧ s.on Reg.FOV_MIR_CTRL_ENABLE = true)
    ∧ (∃ (s : State), s.on Reg.FOV_MIR_STATUS_LINK_UP = true ∧ s.fov.naks = [] ∧ s.fov.commitsDue = [] ∧ s.on Reg.FOV_MIR_CTRL_ENABLE = true)
    ∧ (∃ (s : State), s.on Reg.FOV_MIR_STATUS_LINK_UP = true ∧ s.fov.naks ≠ [])
    ∧ (∃ (s : State), s.on Reg.FOV_MIR_STATUS_LINK_UP = true ∧ s.jnl.flights = [])
    ∧ (∃ (s : State) (e : List Nat), s.on Reg.FOV_MIR_STATUS_LINK_UP = true ∧ e.length = 256 ∧ (∀ b ∈ e, b < 256))
    ∧ (∃ (s : State), s.on Reg.FOV_MIR_STATUS_LINK_UP = true ∧ s.jnl.updates = [])
    ∧ (∃ (s : State), s.on Reg.FOV_MIR_STATUS_LINK_UP = true ∧ s.partnerLive = true)
    ∧ (∃ (s : State), s.on Reg.FOV_MIR_STATUS_LINK_UP = true ∧ s.mode = Mode.standby)
    ∧ (∃ (s : State), s.active = true ∧ s.on Reg.FOV_MIR_STATUS_LINK_UP = true ∧ s.on Reg.FOV_MIR_CTRL_ENABLE = true)
    ∧ (∃ (s : State), s.on Reg.FOV_MIR_STATUS_LINK_UP = true ∧ (∀ n ∈ allSlots, (s.slot n).offWait = 0))
    ∧ (∃ (s : State), s.on Reg.FOV_MIR_STATUS_LINK_UP = true)
    ∧ (∃ (s : State), s.active = true)
    ∧ (∃ (s : State) (v : Nat) (l : Nat) (p : Nat), s.on Reg.FOV_MIR_STATUS_LINK_UP = true ∧ v < 2 ∧ l < 128 ∧ p < 128)
    ∧ (∃ (s : State), s.on Reg.FOV_MIR_STATUS_LINK_UP = true ∧ s.fov.relqHeard = false)
    ∧ (∃ (s : State), s.on Reg.FOV_MIR_STATUS_LINK_UP = true ∧ s.fov.resyncing = false)
    ∧ (∃ (s : State), s.on Reg.FOV_MIR_STATUS_LINK_UP = true ∧ s.active = false ∧ s.mode = Mode.standby)
    ∧ (∃ (s : State) (key : Nat) (l : Line), s.on Reg.FOV_MIR_STATUS_LINK_UP = true ∧ s.on Reg.FOV_MIR_CTRL_ENABLE = true
        ∧ Assoc.getD s.fov.naks key 0 < 2 ∧ Assoc.find s.jnl.lines key = some l)
    ∧ (∃ (s : State) (key : Nat) (l : Line), s.on Reg.FOV_MIR_STATUS_LINK_UP = true ∧ 2 ≤ Assoc.getD s.fov.naks key 0
        ∧ Assoc.find s.jnl.lines key = some l ∧ l.bad = false) :=
  ⟨⟨st (up ++ mir), by decide +kernel⟩,
   ⟨st (up ++ [(Reg.FOV_MIR_CTRL_ENABLE, 1)]), by decide +kernel⟩,
   ⟨st (mir ++ [(Reg.SYS_MODE_MODE, 4)]), crc32c (leBytes 4096 0), 0, by decide +kernel⟩,
   ⟨st (mir ++ [(Reg.SYS_MODE_MODE, 4)]), 1, 0, by decide +kernel⟩,
   ⟨st (mir ++ [(Reg.SYS_MODE_MODE, 4)]), by decide +kernel⟩,
   ⟨st (mir ++ [(Reg.SYS_MODE_MODE, 4)]) (onFov (fun x => { x with naks := [(64, 1)] })), by decide +kernel⟩,
   ⟨st (up ++ mir), by decide +kernel⟩,
   ⟨st (up ++ mir), List.replicate 256 7, by decide +kernel⟩,
   ⟨st (up ++ mir), by decide +kernel⟩,
   ⟨st (up ++ mir ++ [(Reg.JNL_CTRL_PARTNER_LIVE, 1)]), by decide +kernel⟩,
   ⟨st (mir ++ [(Reg.SYS_MODE_MODE, 4)]), by decide +kernel⟩,
   ⟨st (up ++ mir), by decide +kernel⟩,
   ⟨st (mir ++ [(Reg.SYS_MODE_MODE, 4)]), by decide +kernel⟩,
   ⟨st (mir ++ [(Reg.SYS_MODE_MODE, 4)]), by decide +kernel⟩,
   ⟨st (up ++ mir), by decide +kernel⟩,
   ⟨st (mir ++ [(Reg.SYS_MODE_MODE, 4)]), 1, 127, 100, by decide +kernel⟩,
   ⟨st (mir ++ [(Reg.SYS_MODE_MODE, 4)]), by decide +kernel⟩,
   ⟨st (up ++ mir), by decide +kernel⟩,
   ⟨st (mir ++ [(Reg.SYS_MODE_MODE, 4)]), by decide +kernel⟩,
   ⟨st (up ++ mir) dirtyLine, lineKey 0 8, { data := 3, dirty := true }, by decide +kernel⟩,
   ⟨st (up ++ mir) (fun s => onFov (fun x => { x with naks := [(lineKey 0 8, 2)] }) (dirtyLine s)), lineKey 0 8, { data := 3, dirty := true }, by decide +kernel⟩⟩

theorem witness_FabricLinksComplete :
    (∃ (s : State) (p : Fin 4) (n : Nat), s.on Reg.FAB_CTRL_ENABLE = true ∧ n = 1 ∨ n = 2 ∨ n = 4 ∧ s.fabLanes p.val = 4
        ∧ (s.port p.val).trained = 0 ∧ (s.mode = Mode.parked → s.kept p.val = true))
    ∧ (∃ (s : State) (p : Fin 4), (s.port p.val).trained ≠ 0 ∧ s.portUp p.val = true)
    ∧ (∃ (s : State) (p : Fin 4), s.mode = Mode.parked ∧ s.on Reg.FAB_CTRL_ENABLE = true ∧ s.kept p.val = false ∧ s.portUp p.val = false)
    ∧ (∃ (s : State), s.on Reg.FAB_CTRL_ENABLE = true ∧ s.on Reg.FAB_CTRL_BLEAT_EN = true ∧ s.sys.firmwareUp = true)
    ∧ (∃ (s : State) (p : Fin 4), s.on Reg.FAB_CTRL_ENABLE = true ∧ (s.port p.val).trained ≠ 0 ∧ s.mode ≠ Mode.parked)
    ∧ (∃ (s : State) (p : Fin 4) (b : Bleat), s.on Reg.FAB_CTRL_ENABLE = true ∧ (s.port p.val).trained ≠ 0 ∧ s.mode ≠ Mode.parked
        ∧ (s.port p.val).last = some b ∧ (s.port p.val).good = 0 ∨ s.portUp p.val = true)
    ∧ (∃ (s : State) (p : Fin 4) (b : Bleat), s.on Reg.FAB_CTRL_ENABLE = true ∧ (s.port p.val).trained ≠ 0 ∧ s.mode ≠ Mode.parked
        ∧ (s.port p.val).last = some b ∧ (s.port p.val).good = 0 ∨ s.portUp p.val = true)
    ∧ (∃ (s : State) (p : Fin 4), s.on Reg.FAB_CTRL_ENABLE = true ∧ (s.port p.val).trained ≠ 0 ∧ s.mode ≠ Mode.parked ∧ (s.port p.val).good = 1
        ∧ s.portUp p.val = false)
    ∧ (∃ (s : State) (p : Fin 4) (ack : Nat), s.on Reg.FAB_CTRL_ENABLE = true ∧ s.portUp p.val = true ∧ (s.port p.val).waiting = []
        ∧ (∀ f ∈ (s.port p.val).unacked, (ack + 65536 - f.lseq) % 65536 < 32768))
    ∧ (∃ (s : State) (p : Fin 4), s.portUp p.val = true ∧ (s.port p.val).unacked ≠ [] ∧ (s.port p.val).replays < 15)
    ∧ (∃ (s : State) (p : Fin 4), s.on Reg.FAB_CTRL_ENABLE = true ∧ s.portUp p.val = true ∧ (s.port p.val).nakked = true)
    ∧ (∃ (s : State) (p : Fin 4) (f : Frame) (q : _), s.on Reg.FAB_CTRL_ENABLE = true ∧ s.portUp p.val = true ∧ f.linkLocal = false
        ∧ f.ackValid = false ∧ f.flood = false ∧ f.lseq = (s.port p.val).expect ∧ s.ownAddr? ≠ some f.dst ∧ 0 < f.hops
        ∧ s.hop f.dst = some (q, false))
    ∧ (∃ (s : State) (p : Fin 4) (f : Frame), s.on Reg.FAB_CTRL_ENABLE = true ∧ s.portUp p.val = true ∧ f.linkLocal = false ∧ f.ackValid = false
        ∧ f.flood = false ∧ f.lseq = (s.port p.val).expect ∧ s.ownAddr? ≠ some f.dst ∧ 0 < f.hops ∧ s.hop f.dst = none)
    ∧ (∃ (s : State) (tail : Nat), s.lands 0x10018C = true ∧ s.get Reg.FAB_TX_CFG_SIZE_M1 < 2048 ∧ tail ≤ s.get Reg.FAB_TX_CFG_SIZE_M1
        ∧ s.get Reg.FAB_TX_HEAD_HEAD ≤ s.get Reg.FAB_TX_CFG_SIZE_M1) :=
  ⟨⟨st (up ++ fabUp), 2, 4, by decide +kernel⟩,
   ⟨st (up ++ fabUp) (onPort 3 (fun x => { x with trained := 4 })), 3, by decide +kernel⟩,
   ⟨st (fabUp ++ [(Reg.FAB_CTRL_KEEP_PORTS, 8)]), 0, by decide +kernel⟩,
   ⟨st (up ++ fabUp ++ [(Reg.FAB_CTRL_BLEAT_EN, 1)]) (onPort 3 (fun x => { x with trained := 4 })), by decide +kernel⟩,
   ⟨st (up ++ fabUp) (onPort 3 (fun x => { x with trained := 4 })), 3, by decide +kernel⟩,
   ⟨st (up ++ fabUp) (onPort 3 (fun x => { x with trained := 4, last := some nbr, good := 2 })), 3, nbr, by decide +kernel⟩,
   ⟨st (up ++ fabUp) (onPort 2 (fun x => { x with trained := 4, last := some nbr })), 2, nbr, by decide +kernel⟩,
   ⟨st (up ++ fabUp) (onPort 2 (fun x => { x with trained := 4, good := 1 })), 2, by decide +kernel⟩,
   ⟨st (up ++ fabUp) (onPort 3 (fun x => { x with trained := 4, unacked := [{ type := .lsa, lseq := 65535 }] })), 3, 2, by decide +kernel⟩,
   ⟨st (up ++ fabUp) (onPort 3 (fun x => { x with trained := 4, unacked := [{ type := .lsa, lseq := 65535 }], replays := 14 })), 3, by decide +kernel⟩,
   ⟨st (up ++ fabUp) (onPort 3 (fun x => { x with trained := 4, nakked := true })), 3, by decide +kernel⟩,
   ⟨st (up ++ fabUp ++ [(Reg.FAB_ROUTE_VALID 9, 1), (Reg.FAB_ROUTE_PRIMARY 9, 3)]) (onPort 3 (fun x => { x with trained := 4, expect := 65535 })), 3, { type := .copyAck, dst := 9, lseq := 65535 }, 3, by decide +kernel⟩,
   ⟨st (up ++ fabUp) (onPort 3 (fun x => { x with trained := 4 })), 3, { type := .copyAck, dst := 9 }, by decide +kernel⟩,
   ⟨st (up ++ fabUp ++ [(Reg.FAB_TX_CFG_SIZE_M1, 3)]), 3, by decide +kernel⟩⟩

theorem witness_FabricRoutingComplete :
    (∃ (s : State) (p : Fin 4) (uid : Nat) (seq : Nat), s.hears p = true ∧ uid ≠ s.ownUid
        ∧ (∀ n ∈ s.fab.nodes, n.uid = uid → ∀ q, n.lsa = some q → q < seq))
    ∧ (∃ (s : State), s.on Reg.FAB_CTRL_ENABLE = true ∧ s.sys.firmwareUp = true)
    ∧ (∃ (s : State) (uid : Nat), (∃ n ∈ s.fab.nodes, n.uid = uid ∧ n.lsa.isSome = true))
    ∧ (∃ (s : State) (p : Fin 4) (uid : Nat) (pref : Nat) (a : Nat), s.hears p = true ∧ s.isRoot = true ∧ pref < 4096
        ∧ s.grantAddr uid (some pref) = some a)
    ∧ (∃ (s : State) (p : Fin 4), s.hears p = true)
    ∧ (∃ (s : State) (p : Fin 4), s.hears p = true)
    ∧ (∃ (s : State), s.fab.refused = true) :=
  ⟨⟨st (up ++ fabUp), 3, 2000, 1, by decide +kernel⟩,
   ⟨st (up ++ fabUp), by decide +kernel⟩,
   ⟨st (up ++ fabUp) (onFab (fun x => { x with nodes := [{ uid := 2000, addr := 6, lsa := some 3 }] })), 2000, by decide +kernel⟩,
   ⟨st (up ++ fabUp), 3, 2000, 4095, 4095, by decide +kernel⟩,
   ⟨st (up ++ fabUp), 3, by decide +kernel⟩,
   ⟨st (up ++ fabUp), 3, by decide +kernel⟩,
   ⟨st (up ++ fabUp) (onFab (fun x => { x with refused := true })), by decide +kernel⟩⟩

theorem witness_FabricTokensComplete :
    (∃ (s : State) (p : Fin 4) (v : Nat) (u : Nat), s.hears p = true ∧ s.fab.version < v ∨ (v = s.fab.version ∧ u < s.fab.versionUid))
    ∧ (∃ (s : State) (p : Fin 4), s.hears p = true ∧ s.isBellwether = true)
    ∧ (∃ (s : State) (uid : Nat), s.isBellwether = true ∧ uid ∈ s.fab.registered)
    ∧ (∃ (s : State) (p : Fin 4), s.hears p = true ∧ s.isBellwether = true ∧ s.fab.granting = false)
    ∧ (∃ (s : State) (p : Fin 4), s.hears p = true ∧ s.isBellwether = true ∧ s.fab.granting = true ∧ s.quorum = true ∧ s.fab.queue = []
        ∧ s.fab.budgetW = 0)
    ∧ (∃ (s : State) (p : Fin 4) (src : Nat), s.hears p = true ∧ s.isBellwether = true ∧ s.fab.queue = [] ∧ s.fab.budgetW = 0
        ∧ s.uidOf src ∉ s.fab.reported ∧ Assoc.find s.fab.ledger src = none)
    ∧ (∃ (s : State) (p : Fin 4), s.hears p = true ∧ s.isBellwether = true ∧ s.fab.queue = [])
    ∧ (∃ (s : State) (p : Fin 4) (src : Nat) (lost : Nat) (h : Holder) (n : FabNode), s.hears p = true ∧ s.isBellwether = true
        ∧ Assoc.find s.fab.ledger lost = some h ∧ s.fab.nodes.find? (fun n => n.addr == lost) = some n ∧ n.partner = s.uidOf src ∧ src ≠ lost)
    ∧ (∃ (s : State) (src : Nat) (r : TokenReq), s.fab.queue.find? (fun r => r.src == src) = some r ∧ s.fab.granting = false)
    ∧ (∃ (s : State), s.isBellwether = true ∧ s.fab.office.isSome = true ∧ s.fab.queue = [])
    ∧ (∃ (s : State) (p : Fin 4) (x : Nat) (w : Nat) (e : Nat × Nat), s.hears p = true ∧ w < 65536
        ∧ s.fab.sent.find? (fun e => e.1 == x && decide (s.clock ≤ e.2 + sec 60)) = some e)
    ∧ (∃ (s : State) (p : Fin 4) (x : Nat), s.hears p = true ∧ (∀ e ∈ s.fab.sent, e.1 = x → e.2 + sec 60 < s.clock))
    ∧ (∃ (s : State), s.get Reg.PWR_BUDGET_GRANT_W ≠ 0 ∧ s.fab.bellwether.isSome = true)
    ∧ (∃ (s : State), s.fab.isolatedW < s.get Reg.PWR_BUDGET_GRANT_W ∧ s.fab.isolatedW < 65536)
    ∧ (∃ (s : State), s.on Reg.FOV_MIR_STATUS_LINK_UP = true) :=
  ⟨⟨st (up ++ fabUp), 3, 1, 7, by decide +kernel⟩,
   ⟨st (up ++ fabUp) (onFab id), 3, by decide +kernel⟩,
   ⟨st (up ++ fabUp) (onFab (fun x => { x with registered := [2000], nReg := 1 })), 2000, by decide +kernel⟩,
   ⟨st (up ++ fabUp) (onFab id), 3, by decide +kernel⟩,
   ⟨st (up ++ fabUp) (onFab (fun x => { x with granting := true })), 3, by decide +kernel⟩,
   ⟨st (up ++ fabUp) (onFab id), 3, 6, by decide +kernel⟩,
   ⟨st (up ++ fabUp) (onFab (fun x => { x with ledger := [(6, ⟨2000, 40, 99⟩)] })), 3, by decide +kernel⟩,
   ⟨st (up ++ fabUp) (onFab (fun x => { x with ledger := [(7, ⟨3000, 40, 99⟩)], nodes := [{ uid := 3000, addr := 7, partner := 2000 }, { uid := 2000, addr := 6, partner := 3000 }] })), 3, 6, 7, ⟨3000, 40, 99⟩, { uid := 3000, addr := 7, partner := 2000 }, by decide +kernel⟩,
   ⟨st (up ++ fabUp) (onFab (fun x => { x with queue := [⟨6, 1, 40, 20, 2⟩] })), 6, ⟨6, 1, 40, 20, 2⟩, by decide +kernel⟩,
   ⟨st (up ++ fabUp) (onFab (fun x => { x with office := some 5 })), by decide +kernel⟩,
   ⟨st (up ++ fabUp) (onFab (fun x => { x with sent := [(3, 123456000)] })), 3, 3, 65535, (3, 123456000), by decide +kernel⟩,
   ⟨st (up ++ fabUp) (onFab (fun x => { x with sent := [(3, 1)] })), 3, 3, by decide +kernel⟩,
   ⟨st (up ++ fabUp ++ [(Reg.PWR_BUDGET_GRANT_W, 500)]) (onFab id), by decide +kernel⟩,
   ⟨st (up ++ fabUp ++ [(Reg.PWR_BUDGET_GRANT_W, 500)]) (onFab (fun x => { x with isolatedW := 100 })), by decide +kernel⟩,
   ⟨st (mir ++ [(Reg.SYS_MODE_MODE, 4)]), by decide +kernel⟩⟩

theorem witness_PackChargeComplete :
    (∃ (s : State), s.lands 0xD0000 = true)
    ∧ (∃ (s : State), s.lands 0xD0000 = true ∧ s.on Reg.BAT_CTRL_CHG_EN = false)
    ∧ (∃ (s : State), s.on Reg.BAT_STATUS_CHARGING = true)
    ∧ (∃ (s : State), s.on Reg.BAT_STATUS_CHARGING = true ∧ 4 * 14400 < s.bat.chargeQ)
    ∧ (∃ (s : State), s.bat.chgFault = true ∧ s.bat.chgLeftOff = false)
    ∧ (∃ (s : State), s.lands 0xD0018 = true)
    ∧ (∃ (s : State), s.on Reg.BAT_STATUS_AT_REST = true ∧ s.on Reg.BAT_STATUS_REST_VALID = false
        ∧ s.get Reg.BAT_REST_LIMIT_S ≤ s.get Reg.BAT_REST_REST_S)
    ∧ (∃ (di : Nat), 1000 ≤ di)
    ∧ (∃ (s : State) (mv : Nat) (ma : Nat), mv * 10000 ≤ s.get Reg.BAT_EOD_V_SHUT_MV * 10000 + ma * s.get Reg.BAT_EOD_R_EST_DMOHM) :=
  ⟨⟨st (up ++ [(Reg.BAT_STATUS_PRESENT, 1), (Reg.BAT_STATUS_CHARGING, 1), (Reg.BAT_CTRL_CHG_EN, 1)]), by decide +kernel⟩,
   ⟨st (up ++ [(Reg.BAT_STATUS_PRESENT, 1), (Reg.BAT_CTRL_CHG_EN, 0)]), by decide +kernel⟩,
   ⟨st (up ++ [(Reg.BAT_STATUS_PRESENT, 1), (Reg.BAT_STATUS_CHARGING, 1)]), by decide +kernel⟩,
   ⟨st (up ++ [(Reg.BAT_STATUS_PRESENT, 1), (Reg.BAT_STATUS_CHARGING, 1)]) (onBat (fun b => { b with chargeQ := 57601 })), by decide +kernel⟩,
   ⟨st (up ++ [(Reg.BAT_STATUS_PRESENT, 1)]) (onBat (fun b => { b with chgFault := true })), by decide +kernel⟩,
   ⟨st up, by decide +kernel⟩,
   ⟨st (up ++ [(Reg.BAT_STATUS_PRESENT, 1), (Reg.BAT_STATUS_AT_REST, 1), (Reg.BAT_REST_REST_S, 65535)]) (onBat (fun b => { b with desc := some pack1 })), by decide +kernel⟩,
   ⟨1000, by decide +kernel⟩,
   ⟨st (up ++ [(Reg.BAT_STATUS_PRESENT, 1)]) (onBat (fun b => { b with desc := some pack1 })), 0, 0, by decide +kernel⟩⟩

theorem witness_PackUpkeepComplete :
    (∃ (s : State), s.bat.desc = none)
    ∧ (∃ (s : State) (d : PackDesc), s.bat.desc = some d ∧ s.on Reg.BAT_STATUS_EOD = true)
    ∧ (∃ (s : State), s.lands 0xD0000 = true ∧ s.on Reg.BAT_STATUS_PRESENT = true)
    ∧ (∃ (s : State), s.bat.desc.isSome = true ∧ s.chainsToRoot = true)
    ∧ (∃ (s : State), s.bat.desc.isSome = true ∧ s.chainsToRoot = true)
    ∧ (∃ (s : State), s.bat.desc.isSome = true ∧ s.chainsToRoot = false)
    ∧ (∃ (s : State), s.bat.desc.isSome = true ∧ s.chainsToRoot = true ∧ s.bat.authFails = 1)
    ∧ (∃ (s : State), s.bat.desc.isSome = true ∧ s.chainsToRoot = true ∧ s.bat.authFails = 2)
    ∧ (∃ (s : State), s.lands 0xD0030 = true ∧ s.on Reg.BAT_SMB_CTRL_GO = false)
    ∧ (∃ (s : State), s.on Reg.BAT_SMB_CTRL_GO = true)
    ∧ (∃ (s : State) (mv : Nat), mv < s.get Reg.BAT_KEEP_OK_MV)
    ∧ (∃ (s : State), s.mode = Mode.destaging) :=
  ⟨⟨st up, by decide +kernel⟩,
   ⟨st (up ++ [(Reg.BAT_STATUS_PRESENT, 1), (Reg.BAT_STATUS_EOD, 1)]) (onBat (fun b => { b with desc := some pack1 })), pack1, by decide +kernel⟩,
   ⟨st (up ++ [(Reg.BAT_STATUS_PRESENT, 1), (Reg.BAT_STATUS_CHARGING, 1)]), by decide +kernel⟩,
   ⟨st up (onBat (fun b => { b with desc := some pack1 })), by decide +kernel⟩,
   ⟨st up (onBat (fun b => { b with desc := some pack1 })), by decide +kernel⟩,
   ⟨st up (onBat (fun b => { b with desc := some { pack1 with root := 0 } })), by decide +kernel⟩,
   ⟨st up (onBat (fun b => { b with desc := some pack1, authFails := 1 })), by decide +kernel⟩,
   ⟨st up (onBat (fun b => { b with desc := some pack1, authFails := 2 })), by decide +kernel⟩,
   ⟨st up, by decide +kernel⟩,
   ⟨st (up ++ [(Reg.BAT_SMB_CTRL_GO, 1), (Reg.BAT_SMB_CTRL_READ, 1)]), by decide +kernel⟩,
   ⟨st up, 0, by decide +kernel⟩,
   ⟨st [(Reg.SYS_MODE_MODE, 6)], by decide +kernel⟩⟩

theorem witness_ResetsComplete :
    (∃ (s : State), (Assoc.find s.sys.images 1).isSome = true)
    ∧ (∃ (s : State), s.lands 0x8 = true ∧ (Assoc.find s.sys.images 1).isSome = true ∧ s.mode = Mode.parked ∨ s.mode = Mode.service
        ∧ s.dirtyMib = 0 ∧ s.entriesUsed = 0)
    ∧ (∃ (s : State), (Assoc.find s.sys.images 1).isSome = true ∧ s.mode = Mode.parked ∨ s.mode = Mode.service ∧ s.dirtyMib = 0 ∧ s.entriesUsed = 0)
    ∧ (∃ (s : State), (Assoc.find s.sys.images (s.get Reg.SYS_BOOT_NEXT_SLOT)).isSome = true ∧ s.lands 0x8 = true)
    ∧ (∃ (s : State), (Assoc.find s.sys.images (s.get Reg.SYS_BOOT_NEXT_SLOT)).isSome = true)
    ∧ (∃ (s : State), (Assoc.find s.sys.images (s.get Reg.SYS_BOOT_NEXT_SLOT)).isSome = true ∧ s.lands 0x8 = true)
    ∧ (∃ (s : State), (Assoc.find s.sys.images (s.get Reg.SYS_BOOT_NEXT_SLOT)).isSome = true ∧ s.sys.firmwareUp = true
        ∧ s.on Reg.FOV_STATUS_FW_ALIVE = false ∧ s.on Reg.SYS_CFG_AUTO_RESTART_EN = true)
    ∧ (∃ (s : State), (Assoc.find s.sys.images (s.get Reg.SYS_BOOT_NEXT_SLOT)).isSome = true ∧ s.sys.firmwareUp = false
        ∧ s.on Reg.SYS_BOOT_NO_IMAGE = false ∧ s.get Reg.SYS_BOOT_TRIES = 0)
    ∧ (∃ (s : State) (key : Nat), s.lands 0x8 = true ∧ key < 256 ∧ key ≠ 0x5A)
    ∧ (∃ (s : State) (im : ImageFacts), s.on Reg.SYS_BOOT_NO_IMAGE = true ∧ im.signed = true ∧ im.ours = true) :=
  ⟨⟨st up imgs, by decide +kernel⟩,
   ⟨st [(Reg.SYS_MODE_MODE, 0)] imgs, by decide +kernel⟩,
   ⟨st [(Reg.SYS_MODE_MODE, 7)] imgs, by decide +kernel⟩,
   ⟨st up imgs, by decide +kernel⟩,
   ⟨st up imgs, by decide +kernel⟩,
   ⟨st up imgs, by decide +kernel⟩,
   ⟨st (up ++ [(Reg.FOV_STATUS_FW_ALIVE, 0), (Reg.SYS_CFG_AUTO_RESTART_EN, 1)]) imgs, by decide +kernel⟩,
   ⟨st (up ++ [(Reg.SYS_BOOT_TRIES, 0), (Reg.SYS_BOOT_NO_IMAGE, 0)]) (fun s => onSys (fun x => { x with firmwareUp := false }) (imgs s)), by decide +kernel⟩,
   ⟨st up, 0x5B, by decide +kernel⟩,
   ⟨st [(Reg.SYS_BOOT_NO_IMAGE, 1)], ⟨4096, true, true, 6⟩, by decide +kernel⟩⟩

theorem witness_PowerLoopComplete :
    (∃ (s : State) (i : Island), s.clocked i = false ∧ i ∉ s.sys.gated)
    ∧ (∃ (s : State) (off : Nat) (c : Instr) (rest : List (Nat × Instr)), s.waiting = (off, c) :: rest
        ∧ (∀ core k a size v evict i, c ≠ .coreAccess core k a size v evict i) ∧ (∀ ch h f l, c ≠ .dmaDescriptor ch h f l))
    ∧ (∃ (s : State) (off : Nat) (a : Nat) (size : Nat) (v : Nat) (core : Fin 9) (k : AccessKind) (evict : List Nat) (i : Bool) (rest : List (Nat × Instr)), s.waiting = (off, .coreAccess core k a size v evict i) :: rest)
    ∧ (∃ (s : State), s.spinning = 0)
    ∧ (∃ (s : State), s.sys.shortfall = 0)
    ∧ (∃ (s : State), s.sys.shortfall ≠ 0)
    ∧ (∃ (s : State), s.mode = Mode.serving ∧ s.feature 8 0 ≠ 0 ∧ s.allInFlight = 0 ∧ s.cmd.testRunning = 0
        ∧ (∀ k ∈ List.range 8, s.on (Reg.SAS_RBD_CFG_ENABLE k) = false))
    ∧ (∃ (s : State), s.mode = Mode.waking ∧ s.get Reg.PWR_STATUS_CONV_STATE = 2 ∧ s.on Reg.JNL_CTRL_REPLAY_DONE = true ∧ s.sys.assembled = true
        ∧ (∀ n ∈ s.pwr.wakeSet, s.wakeSettled n = true))
    ∧ (∃ (s : State), s.mode = Mode.parked ∧ s.sys.wakeBudget.isSome = true ∧ s.qmx.cmds = [] ∧ s.cmd.wakeCmds = [])
    ∧ (∃ (s : State), s.mode = Mode.draining ∧ s.qmx.cmds = [] ∧ s.holdsData = false ∧ (∀ n ∈ allSlots, s.slotOn n = false) ∧ s.sys.wakeBudget = none)
    ∧ (∃ (s : State), s.mode = Mode.destaging ∧ s.on Reg.PWR_STATUS_MAINS_OK = false)
    ∧ (∃ (s : State), s.mode = Mode.destaging ∧ s.on Reg.PWR_STATUS_MAINS_OK = true
        ∧ (Assoc.find s.sys.images (s.get Reg.SYS_BOOT_NEXT_SLOT)).isSome = true)
    ∧ (∃ (s : State), s.mode = Mode.takeover ∧ s.sys.assembled = false) :=
  ⟨⟨st [(Reg.SYS_MODE_MODE, 0)] (onSys (fun x => { x with gated := [] })), .ox 0, by decide +kernel⟩,
   ⟨st up (fun s => { s with waiting := [(0x10000, .consoleDump)] }), 0x10000, .consoleDump, [], ⟨by decide +kernel, fun _ _ _ _ _ _ _ h => (by cases h), fun _ _ _ _ h => (by cases h)⟩⟩,
   ⟨st up (fun s => { s with waiting := [(0x20000, .coreAccess 2 .load 0x2000020000 4 0 [] false)] }), 0x20000, 0x2000020000, 4, 0, 2, .load, [], false, [], by decide +kernel⟩,
   ⟨st up, by decide +kernel⟩,
   ⟨st up, by decide +kernel⟩,
   ⟨st (up ++ drives) (onSys (fun x => { x with shortfall := 50 })), by decide +kernel⟩,
   ⟨st up (onCmdPart (fun x => { x with features := [(0x800, 10)] })), by decide +kernel⟩,
   ⟨st [(Reg.SYS_MODE_MODE, 1), (Reg.PWR_STATUS_CONV_STATE, 2), (Reg.JNL_CTRL_REPLAY_DONE, 1)] (onSys (fun x => { x with assembled := true })), by decide +kernel⟩,
   ⟨st [(Reg.SYS_MODE_MODE, 0)] (onSys (fun x => { x with wakeBudget := some 5 })), by decide +kernel⟩,
   ⟨st [(Reg.SYS_MODE_MODE, 3)], by decide +kernel⟩,
   ⟨st [(Reg.SYS_MODE_MODE, 6), (Reg.PWR_STATUS_MAINS_OK, 0)], by decide +kernel⟩,
   ⟨st [(Reg.SYS_MODE_MODE, 6), (Reg.PWR_STATUS_MAINS_OK, 1)] imgs, by decide +kernel⟩,
   ⟨st [(Reg.SYS_MODE_MODE, 5)], by decide +kernel⟩⟩

theorem witness_IoCommandsComplete :
    (∃ (s : State) (n : Nat) (c : Cmd), s.mayRun n c = true ∧ c.e.qid ≠ 0 ∧ c.e.opcode = 0x20)
    ∧ (∃ (s : State) (n : Nat) (c : Cmd), s.mayRun n c = true ∧ c.e.qid ≠ 0 ∧ c.e.opcode = 0x21 ∧ s.volHeld c.e.vol = false)
    ∧ (∃ (s : State) (n : Nat) (c : Cmd), s.mayRun n c = true ∧ c.e.qid ≠ 0 ∧ c.e.opcode = 0x22 ∧ bitOf c.e.options 0 = 0)
    ∧ (∃ (s : State) (n : Nat) (c : Cmd), s.mayRun n c = true ∧ c.e.qid ≠ 0 ∧ c.e.opcode = 0x23 ∧ c.owed = [])
    ∧ (∃ (s : State) (n : Nat) (c : Cmd), s.mayRun n c = true ∧ c.e.qid ≠ 0 ∧ c.e.opcode = 0x23 ∧ c.owed ≠ [])
    ∧ (∃ (s : State) (q : Nat) (i : Nat) (n : Nat) (c : Cmd), s.cmdOf q i = some (n, c) ∧ c.e.opcode = 0x23 ∧ c.begun = true ∧ c.owed = [])
    ∧ (∃ (s : State) (q : Nat) (i : Nat) (n : Nat) (c : Cmd), s.cmdOf q i = some (n, c) ∧ c.e.opcode = 0x23 ∧ c.begun = true ∧ c.owed ≠ [] ∧ q ≠ 0)
    ∧ (∃ (s : State) (n : Nat) (c : Cmd), s.mayRun n c = true ∧ c.e.qid ≠ 0 ∧ c.e.opcode = 0x24 ∧ c.next = 0
        ∧ s.qmx.cmds.find? (fun x => x.2.e.qid == c.e.qid && c.e.qid != 0 && x.2.e.cid == c.e.cid && x.2.e.opcode == 0x24 && !x.2.final) = some (n, c) ∧ s.writeRefused c.e.vol c.e.slba (c.e.nlbM1 + 1) = true)
    ∧ (∃ (s : State) (n : Nat) (c : Cmd), s.mayRun n c = true ∧ c.e.qid ≠ 0 ∧ c.e.opcode = 0x24 ∧ c.next = 0
        ∧ s.qmx.cmds.find? (fun x => x.2.e.qid == c.e.qid && c.e.qid != 0 && x.2.e.cid == c.e.cid && x.2.e.opcode == 0x24 && !x.2.final) = some (n, c) ∧ s.writeRefused c.e.vol c.e.slba (c.e.nlbM1 + 1) = false)
    ∧ (∃ (s : State) (n : Nat) (c : Cmd) (m : _) (x : _), s.mayRun n c = true ∧ c.e.qid = 0 ∧ adminOf c.e = some .abort
        ∧ s.qmx.cmds.find? (fun p => p.1 != n && p.2.e.qid == specField c.e 40 2 && p.2.e.cid == specField c.e 42 2 && (!s.hasBegun p.1 p.2 || s.cmd.parkCmds.contains p.1 || s.cmd.wakeCmds.contains p.1)) = some (m, x))
    ∧ (∃ (s : State) (n : Nat) (c : Cmd), s.mayRun n c = true ∧ c.e.qid = 0 ∧ adminOf c.e = some .abort
        ∧ (∀ p ∈ s.qmx.cmds, p.1 ≠ n → p.2.e.qid = specField c.e 40 2 → p.2.e.cid = specField c.e 42 2 → s.hasBegun p.1 p.2 = true
        ∧ p.1 ∉ s.cmd.parkCmds ∧ p.1 ∉ s.cmd.wakeCmds)) :=
  ⟨⟨st (up ++ drives ++ arr) (cmdOf1 { e := ent 1 0x20 }), 9, { e := ent 1 0x20 }, by decide +kernel⟩,
   ⟨st (up ++ drives ++ arr) (cmdOf1 { e := ent 1 0x21 }), 9, { e := ent 1 0x21 }, by decide +kernel⟩,
   ⟨st (up ++ drives ++ arr) (cmdOf1 { e := ent 1 0x22 }), 9, { e := ent 1 0x22 }, by decide +kernel⟩,
   ⟨st (up ++ drives ++ arr) (cmdOf1 { e := ent 1 0x23 }), 9, { e := ent 1 0x23 }, by decide +kernel⟩,
   ⟨st (up ++ drives ++ arr) (fun s => cmdOf1 { e := ent 1 0x23, owed := [(lineKey 0 8, 2)] } (dirtyLine s)), 9, { e := ent 1 0x23, owed := [(lineKey 0 8, 2)] }, by decide +kernel⟩,
   ⟨st (up ++ drives ++ arr) (cmdOf1 { e := ent 1 0x23, begun := true }), 1, 77, 9, { e := ent 1 0x23, begun := true }, by decide +kernel⟩,
   ⟨st (up ++ drives ++ arr) (fun s => cmdOf1 { e := ent 1 0x23, begun := true, owed := [(lineKey 0 8, 2)] } (dirtyLine s)), 1, 77, 9, { e := ent 1 0x23, begun := true, owed := [(lineKey 0 8, 2)] }, by decide +kernel⟩,
   ⟨st (up ++ drives ++ arr ++ [(Reg.STP_ARRAY_ERASED_SLOTS 0 0, 7)]) (cmdOf1 { e := ent 1 0x24 }), 9, { e := ent 1 0x24 }, by decide +kernel⟩,
   ⟨st (up ++ drives ++ arr) (cmdOf1 { e := ent 1 0x24 }), 9, { e := ent 1 0x24 }, by decide +kernel⟩,
   ⟨st (up ++ drives ++ arr) (onQmx (fun x => { x with nextCmd := 10, cmds := [(9, { e := adm .abort [1, 0, 5, 0] }), (8, { e := { ent 1 0x20 with cid := 5 } })] })), 9, { e := adm .abort [1, 0, 5, 0] }, 8, { e := { ent 1 0x20 with cid := 5 } }, by decide +kernel⟩,
   ⟨st (up ++ drives ++ arr) (cmdOf1 { e := adm .abort [1, 0, 5, 0] }), 9, { e := adm .abort [1, 0, 5, 0] }, by decide +kernel⟩⟩

theorem witness_AdminCommandsComplete :
    (∃ (s : State) (n : Nat) (c : Cmd), s.mayRun n c = true ∧ c.e.qid = 0 ∧ adminOf c.e = some .getFeature
        ∧ featKnown (featCode c.e) (featSel c.e) = true)
    ∧ (∃ (s : State) (n : Nat) (c : Cmd), s.mayRun n c = true ∧ c.e.qid = 0 ∧ adminOf c.e = some .setFeature ∧ setsWt c.e = false ∧ featOk c.e = true)
    ∧ (∃ (s : State) (n : Nat) (c : Cmd), s.mayRun n c = true ∧ c.e.qid = 0 ∧ adminOf c.e = some .setFeature ∧ setsWt c.e = true
        ∧ s.get Reg.JNL_STATUS_LEVEL = 2)
    ∧ (∃ (s : State) (n : Nat) (c : Cmd), s.mayRun n c = true ∧ c.e.qid = 0 ∧ adminOf c.e = some .setFeature ∧ setsWt c.e = true
        ∧ s.get Reg.JNL_STATUS_LEVEL ≠ 2 ∧ s.allClean = false)
    ∧ (∃ (s : State) (n : Nat) (c : Cmd), s.mayRun n c = true ∧ c.e.qid = 0 ∧ adminOf c.e = some .createIoQueue
        ∧ s.pair? (specField c.e 40 2) = none ∧ s.pairOk c.e = true)
    ∧ (∃ (s : State) (n : Nat) (c : Cmd) (p : Pair), s.mayRun n c = true ∧ c.e.qid = 0 ∧ adminOf c.e = some .deleteIoQueue
        ∧ s.pair? (specField c.e 40 2) = some p ∧ specField c.e 40 2 ≠ 0 ∧ p.deleting = none
        ∧ (∀ x ∈ s.qmx.cmds, x.2.e.qid = specField c.e 40 2 → s.hasBegun x.1 x.2 = true))
    ∧ (∃ (s : State) (q : Nat) (n : Nat) (p : Pair), s.pair? q = some p ∧ p.deleting = some n ∧ s.inFlight q = 0)
    ∧ (∃ (s : State) (n : Nat) (c : Cmd) (drives : List (Nat × Option DriveFacts)), s.mayRun n c = true ∧ c.e.qid = 0
        ∧ adminOf c.e = some .arrayCreate ∧ (specField c.e 40 1) < 4 ∧ s.on (Reg.STP_ARRAY_CFG_VALID (specField c.e 40 1)) = false
        ∧ s.on Reg.SYS_STRAP_COMPAT = false ∧ layoutBad (createGeo c.e 0) = false ∧ countBad (createGeo c.e 0) = false
        ∧ (∀ x ∈ (createGeo c.e 0).slots, s.checkSlot drives none x (s.slotsTaken none x || s.substitutes.contains x || ((createGeo c.e 0).layout == 1 && decide (100 ≤ x))) (bitOf (specField c.e 46 1) 0 == 1) 0 = .ok) ∧ rowsFor (createGeo c.e 0) (((createGeo c.e 0).slots.filterMap (fun x => (s.factsOf drives x).join.map (fun f => f.bytes))).foldl min (((createGeo c.e 0).slots.filterMap (fun x => (s.factsOf drives x).join.map (fun f => f.bytes))).headD 0)) ≠ 0)
    ∧ (∃ (s : State) (n : Nat) (c : Cmd), s.mayRun n c = true ∧ c.e.qid = 0 ∧ adminOf c.e = some .arrayDelete ∧ specField c.e 40 1 < 4
        ∧ s.on (Reg.STP_ARRAY_CFG_VALID (specField c.e 40 1)) = true ∧ s.volumesRemain (specField c.e 40 1) = false ∧ s.cmd.testRunning ≠ 2)
    ∧ (∃ (s : State) (n : Nat) (b : Nat) (c : Cmd), s.mayRun n c = true ∧ c.e.qid = 0 ∧ adminOf c.e = some .volumeCreate
        ∧ (specField c.e 40 1) < 64 ∧ (s.volMeta (specField c.e 40 1)).bound = false ∧ s.volValid (specField c.e 40 1) = false
        ∧ (specField c.e 41 1) < 4 ∧ s.on (Reg.STP_ARRAY_CFG_VALID (specField c.e 41 1)) = true ∧ specField c.e 48 8 ≠ 0
        ∧ bitOf (specField c.e 42 1) 0 = 0
        ∧ s.freeRows (specField c.e 41 1) (ceilDiv (specField c.e 48 8 * 4096) ((s.geo (specField c.e 41 1)).dataCount * (s.geo (specField c.e 41 1)).unit)) = some b)
    ∧ (∃ (s : State) (v : Fin 64) (row : Nat), (s.volMeta v.val).formatting = some row ∧ s.mode = Mode.serving ∧ (s.volMeta v.val).bound = true
        ∧ (∀ r ∈ s.sas.repairs, r.2.array ≠ (s.volMeta v.val).array ∨ r.2.row ≠ row)
        ∧ (∀ i, i < (s.geo (s.volMeta v.val).array).members → s.liveMember (s.volMeta v.val).array row i = true → s.awakeMember (s.volMeta v.val).array i = true))
    ∧ (∃ (s : State) (n : Nat) (c : Cmd), s.mayRun n c = true ∧ c.e.qid = 0 ∧ adminOf c.e = some .volumeDelete ∧ (specField c.e 40 1) < 64
        ∧ (s.volMeta (specField c.e 40 1)).bound = true ∧ (s.volMeta (specField c.e 40 1)).deleting = none
        ∧ (s.volMeta (specField c.e 40 1)).flock = none
        ∧ (∀ x ∈ s.qmx.cmds, x.2.e.qid ≠ 0 → x.2.e.vol = (specField c.e 40 1) → s.hasBegun x.1 x.2 = true))
    ∧ (∃ (s : State) (v : Fin 64) (n : Nat), (s.volMeta v.val).deleting = some n ∧ (∀ x ∈ s.qmx.cmds, x.2.e.qid ≠ 0 → x.2.e.vol ≠ v.val))
    ∧ (∃ (s : State) (n : Nat) (k : Nat) (c : Cmd) (d : Option DriveFacts), s.mayRun n c = true ∧ c.e.qid = 0 ∧ adminOf c.e = some .memberReplace
        ∧ (specField c.e 40 1) < 4 ∧ s.on (Reg.STP_ARRAY_CFG_VALID (specField c.e 40 1)) = true ∧ specField c.e 42 1 = (specField c.e 41 1)
        ∧ (specField c.e 41 1) < 108 ∧ (s.erasedSlots (specField c.e 40 1)).contains (specField c.e 41 1) = true
        ∧ s.frontierOf 0 (specField c.e 40 1) (specField c.e 41 1) = none ∧ ((specField c.e 40 1), (specField c.e 41 1)) ∉ s.cmd.rebuildQueue
        ∧ s.freeFrontier = some k ∧ (∀ j ∈ List.range 8, s.on (Reg.SAS_SUB_VALID j) = true → s.get (Reg.SAS_SUB_LOGICAL j) ≠ (specField c.e 41 1))
        ∧ s.checkSlot (if s.awake (specField c.e 41 1) then [((specField c.e 41 1), d)] else []) (some (specField c.e 40 1)) (specField c.e 41 1) false true ((s.geo (specField c.e 40 1)).hdr + (s.geo (specField c.e 40 1)).rows * (s.geo (specField c.e 40 1)).unit) = .ok) :=
  ⟨⟨st up (cmdOf1 { e := { adm .getFeature [] with options := 2 } }), 9, { e := { adm .getFeature [] with options := 2 } }, by decide +kernel⟩,
   ⟨st up (cmdOf1 { e := { adm .setFeature [0, 0, 0, 0, 9] with options := 0x80000002 } }), 9, { e := { adm .setFeature [0, 0, 0, 0, 9] with options := 0x80000002 } }, by decide +kernel⟩,
   ⟨st (up ++ [(Reg.JNL_STATUS_LEVEL, 2)]) (cmdOf1 { e := { adm .setFeature [0, 0, 0, 0, 1] with options := 1 } }), 9, { e := { adm .setFeature [0, 0, 0, 0, 1] with options := 1 } }, by decide +kernel⟩,
   ⟨st (up ++ drives ++ arr ++ [(Reg.JNL_STATUS_LEVEL, 0)]) (fun s => cmdOf1 { e := { adm .setFeature [0, 0, 0, 0, 1] with options := 1 } } (dirtyLine s)), 9, { e := { adm .setFeature [0, 0, 0, 0, 1] with options := 1 } }, by decide +kernel⟩,
   ⟨st up (cmdOf1 { e := adm .createIoQueue [3, 0, 15, 0, 1, 0, 2] }), 9, { e := adm .createIoQueue [3, 0, 15, 0, 1, 0, 2] }, by decide +kernel⟩,
   ⟨st up (onQmx (fun x => { x with nextCmd := 10, pairs := [(3, { sizeM1 := 15 })], cmds := [(9, { e := adm .deleteIoQueue [3] })] })), 9, { e := adm .deleteIoQueue [3] }, { sizeM1 := 15 }, by decide +kernel⟩,
   ⟨st up (onQmx (fun x => { x with nextCmd := 10, pairs := [(3, { sizeM1 := 15, deleting := some 9 })], cmds := [(9, { e := adm .deleteIoQueue [3], begun := true })] })), 3, 9, { sizeM1 := 15, deleting := some 9 }, by decide +kernel⟩,
   ⟨st (up ++ drives) (cmdOf1 { e := adm .arrayCreate [1, 2, 14, 0, 0, 0, 0, 0, 15] }), 9, { e := adm .arrayCreate [1, 2, 14, 0, 0, 0, 0, 0, 15] }, (List.range 4).map (fun n => (n, some ⟨true, true, none, 0x100000000000⟩)), by decide +kernel⟩,
   ⟨st (up ++ drives ++ arr ++ [(Reg.STP_VOL_CFG_VALID 0, 0)]) (cmdOf1 { e := adm .arrayDelete [0] }), 9, { e := adm .arrayDelete [0] }, by decide +kernel⟩,
   ⟨st (up ++ drives ++ arr) (cmdOf1 { e := adm .volumeCreate [1, 0, 0, 0, 0, 0, 0, 0, 8] }), 9, 0, { e := adm .volumeCreate [1, 0, 0, 0, 0, 0, 0, 0, 8] }, by decide +kernel⟩,
   ⟨st (up ++ drives ++ arr) (onCmdPart (fun x => { x with vols := [(0, { bound := true, uuid := 1, array := 0, base := 0, rows := 10, formatting := some 3 })] })), 0, 3, by decide +kernel⟩,
   ⟨st (up ++ drives ++ arr) (fun s => onCmdPart (fun x => { x with vols := [(0, { bound := true, uuid := 1, array := 0, base := 0, rows := 10 })] }) (cmdOf1 { e := adm .volumeDelete [0] } s)), 9, { e := adm .volumeDelete [0] }, by decide +kernel⟩,
   ⟨st (up ++ drives ++ arr) (fun s => onCmdPart (fun x => { x with vols := [(0, { bound := true, uuid := 1, array := 0, base := 0, rows := 10, deleting := some 9 })] }) (cmdOf1 { e := adm .volumeDelete [0], begun := true } s)), 0, 9, by decide +kernel⟩,
   ⟨st (up ++ drives ++ arr ++ [(Reg.STP_ARRAY_ERASED_SLOTS 0 0, 2)]) (cmdOf1 { e := adm .memberReplace [0, 1, 1] }), 9, 0, { e := adm .memberReplace [0, 1, 1] }, some ⟨true, true, none, 0x100000000000⟩, by decide +kernel⟩⟩

theorem witness_ControlCommandsComplete :
    (∃ (s : State) (n : Nat) (c : Cmd), s.mayRun n c = true ∧ c.e.qid = 0 ∧ adminOf c.e = some .selfTest ∧ optCode c.e = 1 ∧ s.cmd.testRunning = 0)
    ∧ (∃ (s : State) (n : Nat) (c : Cmd), s.mayRun n c = true ∧ c.e.qid = 0 ∧ adminOf c.e = some .selfTest ∧ optCode c.e = 2 ∧ s.cmd.testRunning = 0)
    ∧ (∃ (s : State) (n : Nat) (c : Cmd), s.mayRun n c = true ∧ c.e.qid = 0 ∧ adminOf c.e = some .selfTest ∧ optCode c.e = 1 ∧ s.cmd.testRunning ≠ 0)
    ∧ (∃ (s : State) (n : Nat) (c : Cmd), s.mayRun n c = true ∧ c.e.qid = 0 ∧ adminOf c.e = some .selfTest ∧ optCode c.e = 15 ∧ s.cmd.testRunning ≠ 0)
    ∧ (∃ (s : State), s.cmd.testSuspended = true ∧ s.ioPending = false ∧ s.ioInFlight = false)
    ∧ (∃ (s : State), s.cmd.testSuspended = false ∧ s.cmd.testGrazes = false ∧ s.cmd.testRunning = 1 ∧ s.lcapLost = false)
    ∧ (∃ (s : State), s.cmd.testSuspended = false ∧ s.cmd.testGrazes = false ∧ s.cmd.testRunning = 1 ∧ s.lcapLost = false)
    ∧ (∃ (s : State), s.cmd.testSuspended = false ∧ s.cmd.testGrazes = false ∧ s.cmd.testRunning = 2 ∧ s.lcapLost = false ∧ s.validArrays = [])
    ∧ (∃ (s : State) (n : Nat) (c : Cmd), s.mayRun n c = true ∧ c.e.qid = 0 ∧ adminOf c.e = some .powerState ∧ optCode c.e = 0)
    ∧ (∃ (s : State) (n : Nat) (c : Cmd), s.mayRun n c = true ∧ c.e.qid = 0 ∧ adminOf c.e = some .powerState ∧ optCode c.e = 1 ∧ s.mode = Mode.parked)
    ∧ (∃ (s : State) (n : Nat) (c : Cmd), s.mayRun n c = true ∧ c.e.qid = 0 ∧ adminOf c.e = some .powerState ∧ optCode c.e = 1
        ∧ s.mode = Mode.serving ∨ s.mode = Mode.waking ∨ s.mode = Mode.takeover)
    ∧ (∃ (s : State) (n : Nat) (c : Cmd), s.mayRun n c = true ∧ c.e.qid = 0 ∧ adminOf c.e = some .powerState ∧ optCode c.e = 1
        ∧ s.mode = Mode.standby)
    ∧ (∃ (s : State) (n : Nat) (c : Cmd), s.mayRun n c = true ∧ c.e.qid = 0 ∧ adminOf c.e = some .powerState ∧ optCode c.e = 2
        ∧ s.mode = Mode.serving)
    ∧ (∃ (s : State) (n : Nat) (c : Cmd), s.mayRun n c = true ∧ c.e.qid = 0 ∧ adminOf c.e = some .powerState ∧ optCode c.e = 2
        ∧ s.mode = Mode.waking ∨ s.mode = Mode.takeover)
    ∧ (∃ (s : State) (n : Nat) (c : Cmd), s.mayRun n c = true ∧ c.e.qid = 0 ∧ adminOf c.e = some .roleControl ∧ optCode c.e = 1 ∧ s.active = true
        ∧ s.on Reg.FOV_CTRL_HOLD = false ∧ s.partnerLive = true ∧ s.fov.handover = 0)
    ∧ (∃ (s : State) (n : Nat) (c : Cmd), s.mayRun n c = true ∧ c.e.qid = 0 ∧ adminOf c.e = some .roleControl ∧ optCode c.e = 1 ∧ s.active = false)
    ∧ (∃ (s : State) (n : Nat) (c : Cmd), s.mayRun n c = true ∧ c.e.qid = 0 ∧ adminOf c.e = some .roleControl ∧ optCode c.e = 2
        ∧ s.mode ≠ Mode.service ∧ s.on Reg.FOV_CTRL_HOLD = false ∧ s.active = false)
    ∧ (∃ (s : State) (n : Nat) (c : Cmd), s.mayRun n c = true ∧ c.e.qid = 0 ∧ adminOf c.e = some .roleControl ∧ optCode c.e = 2
        ∧ s.mode ≠ Mode.service ∧ s.on Reg.FOV_CTRL_HOLD = false ∧ s.active = true ∧ s.partnerLive = false ∧ bitOf c.e.options 8 = 0)
    ∧ (∃ (s : State) (n : Nat) (c : Cmd), s.mayRun n c = true ∧ c.e.qid = 0 ∧ adminOf c.e = some .roleControl ∧ optCode c.e = 3
        ∧ s.mode = Mode.service ∧ s.sys.posConflict = false ∧ s.on Reg.RPR_POST_FATAL = false ∧ s.on Reg.FOV_STATUS_ACTIVE_LINE = true)
    ∧ (∃ (s : State) (n : Nat) (c : Cmd), s.mayRun n c = true ∧ c.e.qid = 0 ∧ adminOf c.e = some .roleControl ∧ optCode c.e = 3
        ∧ s.mode = Mode.service ∧ s.sys.posConflict = false ∧ s.on Reg.RPR_POST_FATAL = false ∧ s.on Reg.FOV_STATUS_ACTIVE_LINE = false)
    ∧ (∃ (s : State) (n : Nat) (c : Cmd), s.mayRun n c = true ∧ c.e.qid = 0 ∧ adminOf c.e = some .roleControl ∧ optCode c.e = 4
        ∧ specField c.e 40 1 < 2)
    ∧ (∃ (s : State) (n : Nat) (c : Cmd), s.mayRun n c = true ∧ c.e.qid = 0 ∧ adminOf c.e = some .roleControl ∧ optCode c.e = 5
        ∧ s.on Reg.FOV_CTRL_HOLD = false ∧ s.mayExchange = true)
    ∧ (∃ (s : State) (n : Nat) (c : Cmd) (tested : _) (persists : _), s.mayRun n c = true ∧ c.e.qid = 0 ∧ adminOf c.e = some .roleControl
        ∧ optCode c.e = 5 ∧ s.on Reg.FOV_CTRL_HOLD = false ∧ s.mayRevert tested persists = true ∧ s.fov.handover = 0)
    ∧ (∃ (s : State) (n : Nat) (c : Cmd), s.mayRun n c = true ∧ c.e.qid = 0 ∧ adminOf c.e = some .firmwareStage ∧ specField c.e 40 4 % 4096 = 0
        ∧ bufferLen c.e % 4096 = 0 ∧ bufferLen c.e ≤ 2 ^ 20 ∧ specField c.e 40 4 + bufferLen c.e ≤ 2 ^ 26 ∧ s.bufferOk c.e (bufferLen c.e) = true)
    ∧ (∃ (s : State) (n : Nat) (c : Cmd) (im : ImageFacts), s.mayRun n c = true ∧ c.e.qid = 0 ∧ adminOf c.e = some .firmwareCommit
        ∧ commitAction c.e = 0 ∧ s.storeRefusal c.e im = 0)
    ∧ (∃ (s : State) (n : Nat) (c : Cmd) (im : ImageFacts), s.mayRun n c = true ∧ c.e.qid = 0 ∧ adminOf c.e = some .firmwareCommit
        ∧ commitAction c.e = 1 ∧ s.storeRefusal c.e im = 0)
    ∧ (∃ (s : State) (n : Nat) (c : Cmd), s.mayRun n c = true ∧ c.e.qid = 0 ∧ adminOf c.e = some .firmwareCommit ∧ commitAction c.e = 2
        ∧ commitSlot c.e = 1 ∨ commitSlot c.e = 2 ∧ (Assoc.find s.sys.images (commitSlot c.e)).isSome = true)
    ∧ (∃ (s : State) (n : Nat) (c : Cmd) (im : ImageFacts), s.mayRun n c = true ∧ c.e.qid = 0 ∧ adminOf c.e = some .firmwareCommit
        ∧ commitAction c.e = 3 ∧ s.storeRefusal c.e im = 0)
    ∧ (∃ (s : State) (n : Nat) (c : Cmd) (im : ImageFacts), s.mayRun n c = true ∧ c.e.qid = 0 ∧ adminOf c.e = some .firmwareCommit
        ∧ commitAction c.e = 4 ∧ commitSlot c.e = 1 ∨ commitSlot c.e = 2 ∧ s.mode = Mode.service ∧ s.cmd.staged ≠ []
        ∧ covers s.cmd.staged im.length = true ∧ im.signed = true)
    ∧ (∃ (s : State) (n : Nat) (c : Cmd), s.mayRun n c = true ∧ c.e.qid = 0 ∧ adminOf c.e = some .packAuth ∧ optCode c.e = 1
        ∧ s.bat.desc.isSome = true ∧ s.chainsToRoot = true)
    ∧ (∃ (s : State) (n : Nat) (c : Cmd), s.mayRun n c = true ∧ c.e.qid = 0 ∧ adminOf c.e = some .packAuth ∧ optCode c.e = 1 ∧ s.bat.desc = none)
    ∧ (∃ (s : State) (n : Nat) (c : Cmd), s.mayRun n c = true ∧ c.e.qid = 0 ∧ adminOf c.e = some .packAuth ∧ optCode c.e = 2
        ∧ s.mode = Mode.service ∧ bufferLen c.e ≤ 4096 ∧ s.bufferOk c.e (bufferLen c.e) = true)
    ∧ (∃ (s : State) (n : Nat) (c : Cmd), s.mayRun n c = true ∧ c.e.qid = 0 ∧ adminOf c.e = some .packAuth ∧ optCode c.e = 3
        ∧ s.mode = Mode.service) :=
  ⟨⟨st (up) (fun s => (id) (cmdOf1 { e := { adm .selfTest [] with options := 1 } } s)), 9, { e := { adm .selfTest [] with options := 1 } }, by decide +kernel⟩,
   ⟨st (up) (fun s => (id) (cmdOf1 { e := { adm .selfTest [] with options := 2 } } s)), 9, { e := { adm .selfTest [] with options := 2 } }, by decide +kernel⟩,
   ⟨st (up) (fun s => (onCmdPart (fun x => { x with testRunning := 1 })) (cmdOf1 { e := { adm .selfTest [] with options := 1 } } s)), 9, { e := { adm .selfTest [] with options := 1 } }, by decide +kernel⟩,
   ⟨st (up) (fun s => (onCmdPart (fun x => { x with testRunning := 1 })) (cmdOf1 { e := { adm .selfTest [] with options := 15 } } s)), 9, { e := { adm .selfTest [] with options := 15 } }, by decide +kernel⟩,
   ⟨st up (onCmdPart (fun x => { x with testRunning := 1, testSuspended := true })), by decide +kernel⟩,
   ⟨st up (onCmdPart (fun x => { x with testRunning := 1 })), by decide +kernel⟩,
   ⟨st up (onCmdPart (fun x => { x with testRunning := 1 })), by decide +kernel⟩,
   ⟨st up (onCmdPart (fun x => { x with testRunning := 2 })), by decide +kernel⟩,
   ⟨st (up) (fun s => (id) (cmdOf1 { e := { adm .powerState [] with options := 0 } } s)), 9, { e := { adm .powerState [] with options := 0 } }, by decide +kernel⟩,
   ⟨st ([(Reg.SYS_MODE_MODE, 0)]) (fun s => (id) (cmdOf1 { e := { adm .powerState [] with options := 1 } } s)), 9, { e := { adm .powerState [] with options := 1 } }, by decide +kernel⟩,
   ⟨st (up) (fun s => (id) (cmdOf1 { e := { adm .powerState [] with options := 1 } } s)), 9, { e := { adm .powerState [] with options := 1 } }, by decide +kernel⟩,
   ⟨st ([(Reg.SYS_MODE_MODE, 4)]) (fun s => (id) (cmdOf1 { e := { adm .powerState [] with options := 1 } } s)), 9, { e := { adm .powerState [] with options := 1 } }, by decide +kernel⟩,
   ⟨st (up) (fun s => (id) (cmdOf1 { e := { adm .powerState [] with options := 2 } } s)), 9, { e := { adm .powerState [] with options := 2 } }, by decide +kernel⟩,
   ⟨st ([(Reg.SYS_MODE_MODE, 1)]) (fun s => (id) (cmdOf1 { e := { adm .powerState [] with options := 2 } } s)), 9, { e := { adm .powerState [] with options := 2 } }, by decide +kernel⟩,
   ⟨st (up ++ mir ++ [(Reg.JNL_CTRL_PARTNER_LIVE, 1)]) (fun s => (id) (cmdOf1 { e := { adm .roleControl [] with options := 1 } } s)), 9, { e := { adm .roleControl [] with options := 1 } }, by decide +kernel⟩,
   ⟨st ([(Reg.SYS_MODE_MODE, 4)]) (fun s => (id) (cmdOf1 { e := { adm .roleControl [] with options := 1 } } s)), 9, { e := { adm .roleControl [] with options := 1 } }, by decide +kernel⟩,
   ⟨st ([(Reg.SYS_MODE_MODE, 4)]) (fun s => (id) (cmdOf1 { e := { adm .roleControl [] with options := 2 } } s)), 9, { e := { adm .roleControl [] with options := 2 } }, by decide +kernel⟩,
   ⟨st up (fun s => cmdOf1 { e := { adm .roleControl [] with options := 2 } } s), 9, { e := { adm .roleControl [] with options := 2 } }, by decide +kernel⟩,
   ⟨st ([(Reg.SYS_MODE_MODE, 7), (Reg.FOV_STATUS_ACTIVE_LINE, 1)]) (fun s => (id) (cmdOf1 { e := { adm .roleControl [] with options := 3 } } s)), 9, { e := { adm .roleControl [] with options := 3 } }, by decide +kernel⟩,
   ⟨st ([(Reg.SYS_MODE_MODE, 7), (Reg.FOV_STATUS_ACTIVE_LINE, 0)]) (fun s => (id) (cmdOf1 { e := { adm .roleControl [] with options := 3 } } s)), 9, { e := { adm .roleControl [] with options := 3 } }, by decide +kernel⟩,
   ⟨st (up) (fun s => (id) (cmdOf1 { e := { adm .roleControl [1] with options := 4 } } s)), 9, { e := { adm .roleControl [1] with options := 4 } }, by decide +kernel⟩,
   ⟨st ([(Reg.SYS_MODE_MODE, 0), (Reg.FOV_STATUS_ACTIVE_HELD, 1)] ++ mir ++ [(Reg.JNL_CTRL_PARTNER_LIVE, 1), (Reg.FOV_CTRL_PREF_B, 1)]) (fun s => (onFov (fun x => { x with heard := true })) (cmdOf1 { e := { adm .roleControl [] with options := 5 } } s)), 9, { e := { adm .roleControl [] with options := 5 } }, by decide +kernel⟩,
   ⟨st (up ++ mir ++ [(Reg.JNL_CTRL_PARTNER_LIVE, 1)] ++ [(Reg.FOV_CTRL_PREF_B, 1)]) (fun s => (id) (cmdOf1 { e := { adm .roleControl [] with options := 5 } } s)), 9, { e := { adm .roleControl [] with options := 5 } }, true, false, by decide +kernel⟩,
   ⟨st (up) (fun s => (id) (cmdOf1 { e := { adm .firmwareStage [] with options := 0 } } s)), 9, { e := { adm .firmwareStage [] with options := 0 } }, by decide +kernel⟩,
   ⟨st (up) (fun s => (onCmdPart (fun x => { x with staged := [(0, List.replicate 4096 0), (4096, List.replicate 4096 0)] })) (cmdOf1 { e := { adm .firmwareCommit [] with options := 2 } } s)), 9, { e := { adm .firmwareCommit [] with options := 2 } }, ⟨8192, true, true, 6⟩, by decide +kernel⟩,
   ⟨st (up) (fun s => (onCmdPart (fun x => { x with staged := [(0, List.replicate 4096 0), (4096, List.replicate 4096 0)] })) (cmdOf1 { e := { adm .firmwareCommit [] with options := 18 } } s)), 9, { e := { adm .firmwareCommit [] with options := 18 } }, ⟨8192, true, true, 6⟩, by decide +kernel⟩,
   ⟨st ([(Reg.SYS_MODE_MODE, 7)]) (fun s => (imgs) (cmdOf1 { e := { adm .firmwareCommit [] with options := 33 } } s)), 9, { e := { adm .firmwareCommit [] with options := 33 } }, by decide +kernel⟩,
   ⟨st ([(Reg.SYS_MODE_MODE, 7)]) (fun s => (fun s => onCmdPart (fun x => { x with staged := [(0, List.replicate 4096 0), (4096, List.replicate 4096 0)] }) (imgs s)) (cmdOf1 { e := { adm .firmwareCommit [] with options := 50 } } s)), 9, { e := { adm .firmwareCommit [] with options := 50 } }, ⟨8192, true, true, 6⟩, by decide +kernel⟩,
   ⟨st ([(Reg.SYS_MODE_MODE, 7)]) (fun s => (onCmdPart (fun x => { x with staged := [(0, List.replicate 4096 0), (4096, List.replicate 4096 0)] })) (cmdOf1 { e := { adm .firmwareCommit [] with options := 66 } } s)), 9, { e := { adm .firmwareCommit [] with options := 66 } }, ⟨8192, true, true, 6⟩, by decide +kernel⟩,
   ⟨st (up) (fun s => (onBat (fun b => { b with desc := some pack1 })) (cmdOf1 { e := { adm .packAuth [] with options := 1 } } s)), 9, { e := { adm .packAuth [] with options := 1 } }, by decide +kernel⟩,
   ⟨st (up) (fun s => (id) (cmdOf1 { e := { adm .packAuth [] with options := 1 } } s)), 9, { e := { adm .packAuth [] with options := 1 } }, by decide +kernel⟩,
   ⟨st ([(Reg.SYS_MODE_MODE, 7)]) (fun s => (id) (cmdOf1 { e := { adm .packAuth [] with options := 2 } } s)), 9, { e := { adm .packAuth [] with options := 2 } }, by decide +kernel⟩,
   ⟨st ([(Reg.SYS_MODE_MODE, 7)]) (fun s => (id) (cmdOf1 { e := { adm .packAuth [] with options := 3 } } s)), 9, { e := { adm .packAuth [] with options := 3 } }, by decide +kernel⟩⟩

theorem witness_QueueCommandsComplete :
    (∃ (s : State), s.lands 0x20000 = true ∧ s.on Reg.QMX_CTRL_EN = false ∧ s.get Reg.QMX_ADMIN_CFG_SIZE_M1 ≠ 0)
    ∧ (∃ (s : State), s.lands 0x20000 = true ∧ s.on Reg.QMX_CTRL_EN = false ∧ s.get Reg.QMX_ADMIN_CFG_SIZE_M1 = 0)
    ∧ (∃ (s : State), s.on Reg.QMX_CTRL_EN = true ∧ s.qmx.starting = true)
    ∧ (∃ (s : State), s.lands 0x20000 = true ∧ s.on Reg.QMX_CTRL_EN = true)
    ∧ (∃ (s : State), s.qmx.stopping = true)
    ∧ (∃ (s : State) (i : Nat) (p : Pair), s.lands 0x20020 = true ∧ s.mode ≠ Mode.destaging ∧ s.pair? 0 = some p ∧ i ≤ p.sizeM1 ∧ i < 4096)
    ∧ (∃ (s : State) (i : Nat) (p : Pair), s.lands 0x20020 = true ∧ s.mode ≠ Mode.destaging ∧ s.pair? 0 = some p ∧ i ≤ p.sizeM1 ∧ i < 4096)
    ∧ (∃ (s : State) (i : Nat) (p : Pair), s.lands 0x20020 = true ∧ s.mode ≠ Mode.destaging ∧ s.pair? 0 = some p ∧ p.sizeM1 < i)
    ∧ (∃ (s : State) (i : Nat) (p : Pair), s.lands 0x20024 = true ∧ s.mode ≠ Mode.destaging ∧ s.pair? 0 = some p ∧ p.releases i = true ∧ i < 4096
        ∧ s.qmx.stalled = [])
    ∧ (∃ (s : State), s.lands 0x20034 = true)
    ∧ (∃ (s : State), s.serving = true)
    ∧ (∃ (s : State) (p : Pair), s.mayFetch = true ∧ s.pair? 0 = some p ∧ p.waits ≠ 0 ∧ s.room 0 p ≠ 0)
    ∧ (∃ (s : State), s.hif.hbAddr ≠ 0 ∧ s.mode ≠ Mode.destaging ∧ s.hif.flr = false ∧ s.hif.d3hot = false ∧ s.hif.busMaster = true)
    ∧ (∃ (s : State), s.hif.hbAddr ≠ 0 ∧ s.mode ≠ Mode.destaging ∧ s.hif.flr = false ∧ s.hif.d3hot = false ∧ s.hif.busMaster = false)
    ∧ (∃ (s : State) (n : Nat) (c : Cmd) (page : List Nat) (used : Nat), s.mayRun n c = true ∧ c.e.qid = 0 ∧ adminOf c.e = some .getLog
        ∧ s.logPage (c.e.options % 256) (specField c.e 40 1) = some (page, used) ∧ specField c.e 44 4 % 4 = 0 ∧ bufferLen c.e % 4 = 0
        ∧ bufferLen c.e ≠ 0 ∧ bufferLen c.e ≤ 2 ^ 20 ∧ s.bufferOk c.e (bufferLen c.e) = true)
    ∧ (∃ (s : State) (n : Nat) (c : Cmd) (page : List Nat) (used : Nat), s.mayRun n c = true ∧ c.e.qid = 0 ∧ adminOf c.e = some .getLog
        ∧ s.logPage (c.e.options % 256) (specField c.e 40 1) = some (page, used) ∧ specField c.e 44 4 % 4 = 0 ∧ bufferLen c.e % 4 = 0
        ∧ bufferLen c.e ≠ 0 ∧ bufferLen c.e ≤ 2 ^ 20 ∧ s.bufferOk c.e (bufferLen c.e) = true)
    ∧ (∃ (s : State) (n : Nat) (c : Cmd) (page : List Nat), s.mayRun n c = true ∧ c.e.qid = 0 ∧ adminOf c.e = some .identify
        ∧ s.identifyPage (c.e.options % 256) (specField c.e 40 1) = some page ∧ s.bufferOk c.e 4096 = true) :=
  ⟨⟨st (up ++ [(Reg.QMX_ADMIN_CFG_SIZE_M1, 15)]), by decide +kernel⟩,
   ⟨st up, by decide +kernel⟩,
   ⟨st (up ++ [(Reg.QMX_CTRL_EN, 1), (Reg.QMX_ADMIN_CFG_SIZE_M1, 15)]) (onQmx (fun x => { x with starting := true })), by decide +kernel⟩,
   ⟨st (up ++ [(Reg.QMX_CTRL_EN, 1), (Reg.QMX_STATUS_RDY, 1), (Reg.QMX_ADMIN_CFG_SIZE_M1, 15)]) (onQmx (fun x => { x with pairs := [(0, { sizeM1 := 15 })] })), by decide +kernel⟩,
   ⟨st up (onQmx (fun x => { x with stopping := true })), by decide +kernel⟩,
   ⟨st (up ++ [(Reg.QMX_CTRL_EN, 1), (Reg.QMX_STATUS_RDY, 1), (Reg.QMX_ADMIN_CFG_SIZE_M1, 15)]) (onQmx (fun x => { x with pairs := [(0, { sizeM1 := 15 })] })), 15, { sizeM1 := 15 }, by decide +kernel⟩,
   ⟨st (up ++ [(Reg.QMX_CTRL_EN, 1), (Reg.QMX_STATUS_RDY, 1), (Reg.QMX_ADMIN_CFG_SIZE_M1, 15)]) (onQmx (fun x => { x with pairs := [(0, { sizeM1 := 15 })] })), 0, { sizeM1 := 15 }, by decide +kernel⟩,
   ⟨st (up ++ [(Reg.QMX_CTRL_EN, 1), (Reg.QMX_STATUS_RDY, 1), (Reg.QMX_ADMIN_CFG_SIZE_M1, 15)]) (onQmx (fun x => { x with pairs := [(0, { sizeM1 := 15 })] })), 16, { sizeM1 := 15 }, by decide +kernel⟩,
   ⟨st (up ++ [(Reg.QMX_CTRL_EN, 1), (Reg.QMX_STATUS_RDY, 1), (Reg.QMX_ADMIN_CFG_SIZE_M1, 15)]) (onQmx (fun x => { x with pairs := [(0, { sizeM1 := 15, cqTail := 3 })] })), 3, { sizeM1 := 15, cqTail := 3 }, by decide +kernel⟩,
   ⟨st up, by decide +kernel⟩,
   ⟨st (up ++ [(Reg.QMX_CTRL_EN, 1), (Reg.QMX_STATUS_RDY, 1), (Reg.QMX_ADMIN_CFG_SIZE_M1, 15)]) (onQmx (fun x => { x with pairs := [(1, { sizeM1 := 15 }), (0, { sizeM1 := 15 })] })), by decide +kernel⟩,
   ⟨st (up ++ [(Reg.QMX_CTRL_EN, 1), (Reg.QMX_STATUS_RDY, 1), (Reg.QMX_ADMIN_CFG_SIZE_M1, 15)]) (onQmx (fun x => { x with pairs := [(0, { sizeM1 := 15, sqTail := 1 })] })), { sizeM1 := 15, sqTail := 1 }, by decide +kernel⟩,
   ⟨st up (fun s => { s with hif := { s.hif with hbAddr := 0x5000, busMaster := true } }), by decide +kernel⟩,
   ⟨st up (fun s => { s with hif := { s.hif with hbAddr := 0x5000, busMaster := false } }), by decide +kernel⟩,
   ⟨st up (cmdOf1 { e := { adm .getLog [] with options := 1 } }), 9, { e := { adm .getLog [] with options := 1 } }, [], 0, by decide +kernel⟩,
   ⟨st (up ++ drives ++ arr) (cmdOf1 { e := { adm .getLog [] with options := 2 } }), 9, { e := { adm .getLog [] with options := 2 } }, padTo 4096 ((st (up ++ drives ++ arr)).arrayLog 0), 0, by decide +kernel⟩,
   ⟨st up (cmdOf1 { e := { adm .identify [] with opcode := 1, options := 1 } }), 9, { e := { adm .identify [] with opcode := 1, options := 1 } }, (st up).volumePage 0, by decide +kernel⟩⟩

theorem witness_MailboxCommandsComplete :
    (∃ (s : State) (m : Fin 64) (r : Requester), s.lands (0x9000C + 0x20 * m.val) = true ∧ hostKept m.val r = false ∧ s.boxRefuses m.val r = false)
    ∧ (∃ (s : State) (m : Fin 64) (r : Requester), s.lands (0x9000C + 0x20 * m.val) = true ∧ hostKept m.val r = false ∧ s.boxRefuses m.val r = false)
    ∧ (∃ (s : State) (m : Fin 64) (r : Requester), s.lands (0x9000C + 0x20 * m.val) = true ∧ hostKept m.val r = false ∧ s.boxRefuses m.val r = true)
    ∧ (∃ (s : State) (m : Fin 64) (r : Requester), s.lands (0x9000C + 0x20 * m.val) = true ∧ hostKept m.val r = false ∧ ownerOf r ≠ 0
        ∧ s.boxReceiver m.val = ownerOf r)
    ∧ (∃ (s : State) (m : Fin 64) (r : Requester), s.lands (0x9000C + 0x20 * m.val) = true ∧ hostKept m.val r = false
        ∧ s.boxReceiver m.val ≠ ownerOf r)
    ∧ (∃ (s : State) (m : Fin 64), s.on (Reg.MBX_BOX_STATUS_FULL m.val) = true)
    ∧ (∃ (s : State) (m : Fin 64) (r : Requester), s.lands (0x90010 + 0x20 * m.val) = true ∧ hostKept m.val r = false ∧ ownerOf r ≠ 0
        ∧ s.lockAnswer m.val = 0)
    ∧ (∃ (s : State) (m : Fin 64) (r : Requester), s.lands (0x90010 + 0x20 * m.val) = true ∧ hostKept m.val r = false ∧ ownerOf r ≠ 0
        ∧ s.lockAnswer m.val ≠ 0)
    ∧ (∃ (s : State) (m : Fin 64) (r : Requester), s.lands (0x90010 + 0x20 * m.val) = true ∧ hostKept m.val r = false ∧ ownerOf r ≠ 0
        ∧ s.lockAnswer m.val = ownerOf r)
    ∧ (∃ (s : State) (m : Fin 64) (r : Requester) (v : _), s.lands (0x90010 + 0x20 * m.val) = true ∧ hostKept m.val r = false ∧ ownerOf r ≠ 0
        ∧ s.lockAnswer m.val ≠ ownerOf r ∨ v ≠ ownerOf r)
    ∧ (∃ (s : State) (m : Fin 64), s.lands 0x91004 = true ∧ s.lockAnswer m.val ≠ 0)
    ∧ (∃ (s : State) (m : Fin 64), s.lands (0x91400 + 4 * m.val) = true ∧ s.on Reg.FOV_MIR_STATUS_LINK_UP = true
        ∧ s.on Reg.FOV_MIR_CTRL_ENABLE = true)
    ∧ (∃ (s : State) (m : Fin 64), s.lands (0x91400 + 4 * m.val) = true ∧ s.on Reg.FOV_MIR_STATUS_LINK_UP = true
        ∧ s.on Reg.FOV_MIR_CTRL_ENABLE = true)
    ∧ (∃ (s : State) (m : Fin 64), s.lands (0x91400 + 4 * m.val) = true ∧ s.on Reg.FOV_MIR_STATUS_LINK_UP = false)
    ∧ (∃ (s : State) (m : Fin 64), s.on Reg.FOV_MIR_STATUS_LINK_UP = true ∧ s.lockAnswer m.val = 0)
    ∧ (∃ (s : State) (m : Fin 64), s.on Reg.FOV_MIR_STATUS_LINK_UP = true ∧ s.lockAnswer m.val = 0x21)
    ∧ (∃ (s : State) (n : Fin 9), s.get64 (Reg.CCH_CORE_MTIMECMP_LO_CMP n.val) (Reg.CCH_CORE_MTIMECMP_HI_CMP n.val) ≤ s.clock) :=
  ⟨⟨st (up ++ [(Reg.MBX_BOX_CFG_SENDER 3, 1), (Reg.MBX_BOX_CFG_RECEIVER 3, 2)]), 3, .core 0, by decide +kernel⟩,
   ⟨st up, 56, .host, by decide +kernel⟩,
   ⟨st (up ++ [(Reg.MBX_BOX_CFG_SENDER 3, 1), (Reg.MBX_BOX_CFG_RECEIVER 3, 2)] ++ [(Reg.MBX_BOX_STATUS_FULL 3, 1)]), 3, .core 0, by decide +kernel⟩,
   ⟨st (up ++ [(Reg.MBX_BOX_CFG_SENDER 3, 1), (Reg.MBX_BOX_CFG_RECEIVER 3, 2)] ++ [(Reg.MBX_BOX_STATUS_FULL 3, 1), (Reg.MBX_BOX_DATA_HI_DATA 3, 9)]), 3, .core 1, by decide +kernel⟩,
   ⟨st (up ++ [(Reg.MBX_BOX_CFG_SENDER 3, 1), (Reg.MBX_BOX_CFG_RECEIVER 3, 2)] ++ [(Reg.MBX_BOX_STATUS_FULL 3, 1), (Reg.MBX_BOX_DATA_HI_DATA 3, 9)]), 3, .core 2, by decide +kernel⟩,
   ⟨st (up ++ [(Reg.MBX_BOX_CFG_SENDER 3, 1), (Reg.MBX_BOX_CFG_RECEIVER 3, 2)] ++ [(Reg.MBX_BOX_STATUS_FULL 3, 1)]), 3, by decide +kernel⟩,
   ⟨st up, 63, .host, by decide +kernel⟩,
   ⟨st (up ++ [(Reg.MBX_BOX_LOCK_OWNER 3, 2)]), 3, .core 0, by decide +kernel⟩,
   ⟨st (up ++ [(Reg.MBX_BOX_LOCK_OWNER 3, 1)]), 3, .core 0, by decide +kernel⟩,
   ⟨st (up ++ [(Reg.MBX_BOX_LOCK_OWNER 3, 2)]), 3, .core 0, 1, by decide +kernel⟩,
   ⟨st (up ++ [(Reg.MBX_BOX_LOCK_OWNER 3, 2)]), 3, by decide +kernel⟩,
   ⟨st (up ++ mir), 3, by decide +kernel⟩,
   ⟨st (up ++ mir), 3, by decide +kernel⟩,
   ⟨st up, 3, by decide +kernel⟩,
   ⟨st (up ++ mir), 3, by decide +kernel⟩,
   ⟨st (up ++ mir ++ [(Reg.MBX_BOX_LOCK_OWNER 3, 0x21)]), 3, by decide +kernel⟩,
   ⟨st (up ++ [(Reg.CCH_CORE_MTIMECMP_LO_CMP 8, 5), (Reg.CCH_CORE_MTIMECMP_HI_CMP 8, 0)]), 8, by decide +kernel⟩⟩

theorem witness_HostLinkComplete :
    (∃ (s : State), s.hif.lanesFailed = [])
    ∧ (∃ (s : State), s.hif.lanesFailed = [])
    ∧ (∃ (s : State) (errors : Nat), errors ≠ 0 ∧ s.get Reg.HIF_LINK_CTRL_LANE_ERR_LIMIT = 0 ∨ errors ≤ s.get Reg.HIF_LINK_CTRL_LANE_ERR_LIMIT)
    ∧ (∃ (s : State) (errors : Nat), errors ≠ 0 ∧ s.get Reg.HIF_LINK_CTRL_LANE_ERR_LIMIT = 0 ∨ errors ≤ s.get Reg.HIF_LINK_CTRL_LANE_ERR_LIMIT)
    ∧ (∃ (s : State), s.lands 0x10004 = true ∧ s.on Reg.HIF_LINK_CTRL_RESTORE = false)
    ∧ (∃ (s : State) (speed : Fin 6) (lanes : List (Fin 16)), speed.val ≠ 0 ∧ (∀ l, l ∈ lanes) ∧ s.hif.lanesFailed = [])
    ∧ (∃ (s : State), s.hif.busMaster = true)
    ∧ (∃ (s : State), s.hif.busMaster = false)
    ∧ (∃ (s : State), s.hif.d3hot = false)
    ∧ (∃ (s : State), s.hif.d3hot = true)
    ∧ (∃ (s : State), s.hif.flr = false)
    ∧ (∃ (s : State), s.hif.flr = true)
    ∧ (∃ (s : State), s.masters = true) :=
  ⟨⟨st up, by decide +kernel⟩,
   ⟨st up, by decide +kernel⟩,
   ⟨st up, 5, by decide +kernel⟩,
   ⟨st (up ++ [(Reg.HIF_LINK_CTRL_LANE_ERR_LIMIT, 5)]), 5, by decide +kernel⟩,
   ⟨st up (onHif (fun h => { h with lanesFailed := [3], up := true })), by decide +kernel⟩,
   ⟨st up, 5, allFin16, by decide +kernel⟩,
   ⟨st up (onHif (fun h => { h with busMaster := true })), by decide +kernel⟩,
   ⟨st up (onHif (fun h => { h with busMaster := false })), by decide +kernel⟩,
   ⟨st up, by decide +kernel⟩,
   ⟨st up (onHif (fun h => { h with d3hot := true })), by decide +kernel⟩,
   ⟨st (up ++ [(Reg.MBX_BOX_LOCK_OWNER 3, 0x20)]), by decide +kernel⟩,
   ⟨st up (onHif (fun h => { h with flr := true })), by decide +kernel⟩,
   ⟨st (up ++ [(Reg.QMX_CTRL_EN, 1)]) (onHif (fun h => { h with up := true })), by decide +kernel⟩⟩

theorem witness_HostAccessComplete :
    (∃ (s : State) (addr : Nat), s.on (Reg.HIF_XLAT_ENTRY_VALID (bits addr 28 8)) = true ∧ s.hif.flr = false
        ∧ s.on (Reg.HIF_XLAT_ENTRY_RD_EN (bits addr 28 8)) = true)
    ∧ (∃ (s : State) (addr : Nat), s.on (Reg.HIF_XLAT_ENTRY_VALID (bits addr 28 8)) = true ∧ s.hif.flr = false
        ∧ s.on (Reg.HIF_XLAT_ENTRY_WR_EN (bits addr 28 8)) = true)
    ∧ (∃ (s : State) (addr : Nat), s.on (Reg.HIF_XLAT_ENTRY_VALID (bits addr 28 8)) = false)
    ∧ (∃ (s : State) (addr : Nat), s.on (Reg.HIF_XLAT_ENTRY_VALID (bits addr 28 8)) = false)
    ∧ (∃ (s : State) (k : Nat), s.lands 0x1008C = true ∧ s.get Reg.HIF_XLAT_SEL_INDEX = k ∧ k < 256 ∧ s.on Reg.HIF_XLAT_COMMIT_BUSY = false
        ∧ bits (s.get Reg.HIF_XLAT_STAGE_STAGE) 20 12 ≤ 0x107)
    ∧ (∃ (s : State) (k : Nat), s.lands 0x1008C = true ∧ s.get Reg.HIF_XLAT_SEL_INDEX = k ∧ k < 256 ∧ s.on Reg.HIF_XLAT_COMMIT_BUSY = false
        ∧ 0x107 < bits (s.get Reg.HIF_XLAT_STAGE_STAGE) 20 12)
    ∧ (∃ (s : State) (k : Nat), s.lands 0x1008C = true ∧ s.get Reg.HIF_XLAT_SEL_INDEX = k ∧ k < 256 ∧ s.on Reg.HIF_XLAT_COMMIT_BUSY = false
        ∧ s.on Reg.HIF_XLAT_CTRL_HOST_WR_OK = false
        ∧ bitOf (s.get Reg.HIF_XLAT_STAGE_STAGE) 2 = 1 ∨ 0x100 ≤ bits (s.get Reg.HIF_XLAT_STAGE_STAGE) 20 12)
    ∧ (∃ (s : State), s.lands 0x10040 = true ∧ s.on Reg.HIF_IRQ_CTRL_ASSERTED = true ∧ s.on Reg.HIF_IRQ_CTRL_SUMMARY_ON_MSIX = false)
    ∧ (∃ (s : State) (v : Nat), s.lands 0x10018 = true ∧ v ∈ [1, 2, 3, 4, 5])
    ∧ (∃ (s : State), s.lands 0x10018 = true)
    ∧ (∃ (s : State), s.hif.flr = false)
    ∧ (∃ (s : State), s.hif.flr = true) :=
  ⟨⟨st (up ++ [(Reg.HIF_XLAT_ENTRY_VALID 1, 1), (Reg.HIF_XLAT_ENTRY_RD_EN 1, 1), (Reg.HIF_XLAT_ENTRY_WR_EN 1, 1), (Reg.HIF_XLAT_ENTRY_TARGET 1, 2)]), 0x10000010, by decide +kernel⟩,
   ⟨st (up ++ [(Reg.HIF_XLAT_ENTRY_VALID 1, 1), (Reg.HIF_XLAT_ENTRY_RD_EN 1, 1), (Reg.HIF_XLAT_ENTRY_WR_EN 1, 1), (Reg.HIF_XLAT_ENTRY_TARGET 1, 2)]), 0x10000010, by decide +kernel⟩,
   ⟨st up, 0x20000010, by decide +kernel⟩,
   ⟨st up, 0x20000010, by decide +kernel⟩,
   ⟨st (up ++ [(Reg.HIF_XLAT_SEL_INDEX, 255), (Reg.HIF_XLAT_STAGE_STAGE, 0x10700007)]), 255, by decide +kernel⟩,
   ⟨st (up ++ [(Reg.HIF_XLAT_SEL_INDEX, 7), (Reg.HIF_XLAT_STAGE_STAGE, 0x10800007)]), 7, by decide +kernel⟩,
   ⟨st (up ++ [(Reg.HIF_XLAT_SEL_INDEX, 7), (Reg.HIF_XLAT_STAGE_STAGE, 0x00100004), (Reg.HIF_XLAT_CTRL_HOST_WR_OK, 0)]), 7, by decide +kernel⟩,
   ⟨st (up ++ [(Reg.HIF_IRQ_CTRL_ASSERTED, 1), (Reg.HIF_IRQ_CTRL_SUMMARY_ON_MSIX, 0)]) (onHif (fun h => { h with pend := [1, 2], announced := [1] })), by decide +kernel⟩,
   ⟨st up, 5, by decide +kernel⟩,
   ⟨st up, by decide +kernel⟩,
   ⟨st up, by decide +kernel⟩,
   ⟨st up (onHif (fun x => { x with flr := true })), by decide +kernel⟩⟩

theorem witness_CacheCommandsComplete :
    (∃ (s : State) (addr : Nat), regionOf addr ≠ .none ∧ s.fillOut (addr / 64) = false ∧ s.victim (addr / 64) = none)
    ∧ (∃ (s : State) (addr : Nat), regionOf addr ≠ .none ∧ s.fillOut (addr / 64) = false ∧ s.victim (addr / 64) = none
        ∧ s.dirtyData (addr / 64) = none)
    ∧ (∃ (s : State) (addr : Nat), regionOf addr ≠ .none ∧ s.fillOut (addr / 64) = false ∧ s.victim (addr / 64) = none
        ∧ s.dirtyData (addr / 64) = none)
    ∧ (∃ (s : State) (addr : Nat) (d : _), regionOf addr ≠ .none ∧ s.fillOut (addr / 64) = false ∧ s.victim (addr / 64) = none
        ∧ s.dirtyData (addr / 64) = some d)
    ∧ (∃ (s : State) (addr : Nat) (d : _), regionOf addr ≠ .none ∧ s.fillOut (addr / 64) = false ∧ s.victim (addr / 64) = none
        ∧ s.dirtyData (addr / 64) = some d)
    ∧ (∃ (addr : Nat), regionOf addr = .none)
    ∧ (∃ (s : State), s.lands 0x8001C = true ∧ s.on Reg.CCH_MAINT_CTRL_BUSY = false)
    ∧ (∃ (s : State), s.on Reg.CCH_MAINT_CTRL_BUSY = true ∧ (∀ m ∈ s.cch.misses, m.ops = []))
    ∧ (∃ (s : State) (addr : Nat) (x : CacheLine), s.cchLine (addr / 64) = some x)
    ∧ (∃ (s : State) (addr : Nat) (x : CacheLine), s.cchLine (addr / 64) = some x ∧ x.dirty = false ∧ s.bankMiss (bankOf (addr / 64)) = false)
    ∧ (∃ (s : State) (addr : Nat) (x : CacheLine), s.cchLine (addr / 64) = some x ∧ x.dirty = true ∧ s.rpr.dramUes = [])
    ∧ (∃ (s : State) (index : Fin 4096) (way : Fin 16), (∀ x ∈ s.cch.lines, ¬(x.way = way.val ∧ x.line % 4096 = index.val)))
    ∧ (∃ (s : State) (index : Fin 4096) (way : Fin 16) (x : _), s.cch.lines = [x] ∧ x.way = way.val ∧ x.line % 4096 = index.val)
    ∧ (∃ (s : State) (l : Nat), s.cch.misses = [{ line := l }] ∧ s.cch.lines = [] ∧ s.cch.waysOff = [] ∧ s.cch.waiting = [] ∧ l ∉ s.cch.poison)
    ∧ (∃ (s : State) (v : Victim), s.cch.victims.find? (fun x => x.line == v.line) = some v) :=
  ⟨⟨st up (onCch (fun c => { c with lines := [{ way := 2, line := 1024, data := bytes64, dirty := true }] })), 0x10000, by decide +kernel⟩,
   ⟨st up (onCch (fun c => { c with lines := [{ way := 2, line := 1024, data := bytes64, dirty := false }] })), 0x10000, by decide +kernel⟩,
   ⟨st up (onCch (fun c => { c with lines := [{ way := 2, line := 1024, data := bytes64, dirty := false }] })), 0x10000, by decide +kernel⟩,
   ⟨st up (onCch (fun c => { c with lines := [{ way := 2, line := 1024, data := bytes64, dirty := true }] })), 0x10000, bytes64, by decide +kernel⟩,
   ⟨st up (onCch (fun c => { c with lines := [{ way := 2, line := 1024, data := bytes64, dirty := true }] })), 0x10000, bytes64, by decide +kernel⟩,
   ⟨0x1800000000000, by decide +kernel⟩,
   ⟨st up (onCch (fun c => { c with lines := [{ way := 2, line := 1024, data := bytes64, dirty := true }] })), by decide +kernel⟩,
   ⟨st (up ++ [(Reg.CCH_MAINT_CTRL_BUSY, 1), (Reg.CCH_MAINT_CTRL_GO, 1)]), by decide +kernel⟩,
   ⟨st up (onCch (fun c => { c with lines := [{ way := 2, line := 1024, data := bytes64, dirty := true }] })), 0x10000, { way := 2, line := 1024, data := bytes64, dirty := true }, by decide +kernel⟩,
   ⟨st up (onCch (fun c => { c with lines := [{ way := 2, line := 1024, data := bytes64, dirty := false }] })), 0x10000, { way := 2, line := 1024, data := bytes64, dirty := false }, by decide +kernel⟩,
   ⟨st up (onCch (fun c => { c with lines := [{ way := 2, line := 1024, data := bytes64, dirty := true }] })), 0x10000, { way := 2, line := 1024, data := bytes64, dirty := true }, by decide +kernel⟩,
   ⟨st up (onCch (fun c => { c with lines := [{ way := 2, line := 1024, data := bytes64, dirty := true }] })), 1024, 3, by decide +kernel⟩,
   ⟨st up (onCch (fun c => { c with lines := [{ way := 2, line := 1024, data := bytes64, dirty := true }] })), 1024, 2, ({ way := 2, line := 1024, data := bytes64, dirty := true } : CacheLine), by decide +kernel⟩,
   ⟨st up (onCch (fun c => { c with misses := [{ line := 1024 }] })), 1024, by decide +kernel⟩,
   ⟨st up (onCch (fun c => { c with victims := [{ line := 1024, data := bytes64, issued := true }] })), { line := 1024, data := bytes64, issued := true }, by decide +kernel⟩⟩

theorem witness_SelfRepairCommandsComplete :
    (∃ (s : State) (r : RepRec) (rest : List RepRec), s.lands 0x110020 = true ∧ s.rpr.owed = [] ∧ s.rpr.owedRows = [] ∧ s.rpr.fifo = r :: rest
        ∧ s.mayStore = true)
    ∧ (∃ (s : State) (r : RepRec) (rest : List RepRec), s.lands 0x110020 = true ∧ s.rpr.owed = [] ∧ s.rpr.owedRows = [] ∧ s.rpr.fifo = r :: rest
        ∧ s.mayStore = false)
    ∧ (∃ (s : State) (n : Fin 9) (k : Fin 9), bitOf (s.get Reg.CCH_CORES_IN_SERVICE) n.val = 1 ∧ s.get Reg.CCH_CORES_SPARE = 2 ^ k.val ∧ k ≠ n)
    ∧ (∃ (s : State) (array : Nat) (row : Nat), arrayExists array = true ∧ s.rowQuiet array row = true
        ∧ Assoc.getD s.rpr.rowsUsed (array * 65536 + row / 512) 0 < 4 ∧ s.on Reg.RPR_CTRL_FIELD_REMAP_EN = true ∧ s.rpr.fifo.length < 32)
    ∧ (∃ (s : State) (array : Nat) (row : Nat), arrayExists array = true ∧ s.rowQuiet array row = true
        ∧ Assoc.getD s.rpr.rowsUsed (array * 65536 + row / 512) 0 < 4 ∧ s.on Reg.RPR_CTRL_FIELD_REMAP_EN = true ∧ s.rpr.fifo.length < 32)
    ∧ (∃ (s : State), s.lands 0x111010 = true ∧ s.on Reg.RPR_DRAM_PPR_BUSY = false)
    ∧ (∃ (s : State), s.on Reg.RPR_DRAM_PPR_BUSY = true ∧ repairGroup (s.get Reg.RPR_DRAM_PPR_LOC) ∉ s.rpr.softUsed)
    ∧ (∃ (s : State) (region : Nat), s.on Reg.RPR_DRAM_PPR_BUSY = true ∧ repairGroup (s.get Reg.RPR_DRAM_PPR_LOC) ∈ s.rpr.softUsed
        ∧ region ∉ s.rpr.regions ∧ s.rpr.regions.length < 64)
    ∧ (∃ (s : State), s.on Reg.RPR_POST_DONE = false)
    ∧ (∃ (s : State) (port : Fin 7), s.rpr.lanes = [] ∧ (port.val < 4 → (s.port port.val).trained = 0)
        ∧ (4 ≤ port.val → s.on Reg.FOV_MIR_STATUS_LINK_UP = false))
    ∧ (∃ (s : State), s.lands 0x110000 = true ∧ (∀ p : Fin 4, (s.port p.val).trained = 0) ∧ s.on Reg.FOV_MIR_STATUS_LINK_UP = false) :=
  ⟨⟨st (up ++ [(Reg.BAT_STATUS_KEEP_OK, 1)]) (onRpr (fun r => { r with fifo := [⟨1, 0, 7, 0, 3⟩] })), ⟨1, 0, 7, 0, 3⟩, [], by decide +kernel⟩,
   ⟨st up (onRpr (fun r => { r with fifo := [⟨1, 0, 7, 0, 3⟩] })), ⟨1, 0, 7, 0, 3⟩, [], by decide +kernel⟩,
   ⟨st (up ++ [(Reg.CCH_CORES_IN_SERVICE, 0xFF), (Reg.CCH_CORES_SPARE, 0x100), (Reg.MBX_BOX_LOCK_OWNER 3, 4)]), 3, 8, by decide +kernel⟩,
   ⟨st (up ++ [(Reg.RPR_CTRL_FIELD_REMAP_EN, 1)]), 512, 3, by decide +kernel⟩,
   ⟨st (up ++ [(Reg.RPR_CTRL_FIELD_REMAP_EN, 1)]) (onRpr (fun r => { r with queued := [sramRow 256 3] })), 256, 3, by decide +kernel⟩,
   ⟨st up, by decide +kernel⟩,
   ⟨st (up ++ [(Reg.RPR_DRAM_PPR_BUSY, 1)]), by decide +kernel⟩,
   ⟨st (up ++ [(Reg.RPR_DRAM_PPR_BUSY, 1), (Reg.RPR_DRAM_PPR_LOC, 5)]) (onRpr (fun r => { r with softUsed := [repairGroup 5] })), 3, by decide +kernel⟩,
   ⟨st [(Reg.RPR_POST_DONE, 0)] (onSys (fun x => { x with inReset := [.host, .fab], firmwareUp := false })), by decide +kernel⟩,
   ⟨st up, 6, by decide +kernel⟩,
   ⟨st up, by decide +kernel⟩⟩

theorem witness_MemoryAgentsComplete :
    (∃ (kind : AccessKind) (addr : Nat) (size : Nat), accessFaults kind addr size = true)
    ∧ (∃ (s : State) (core : Fin 9) (addr : Nat) (size : Nat) (x : CoreLine), regionOf addr = .dram ∧ 1 ≤ size ∧ addr % 64 + size ≤ 64
        ∧ s.l1Line core.val (addr / 64) = some x)
    ∧ (∃ (s : State) (off : Nat), off < 0x400000 ∧ off % 4 = 0 ∧ s.mustWait off = false)
    ∧ (∃ (s : State) (off : Nat), off < 0x400000 ∧ off % 4 = 0 ∧ s.mustWait off = false)
    ∧ (∃ (s : State) (c : Fin 16), s.dmaReady c.val = true ∧ (s.readDesc (s.headDesc c.val)).ok = false
        ∧ (s.readDesc (s.headDesc c.val)).srcHost = false ∧ (s.readDesc (s.headDesc c.val)).dstHost = false)
    ∧ (∃ (s : State) (c : Fin 16), s.dmaReady c.val = true ∧ (s.readDesc (s.headDesc c.val)).ok = true
        ∧ (s.readDesc (s.headDesc c.val)).placed = true ∧ (s.readDesc (s.headDesc c.val)).op = 1 ∧ (s.readDesc (s.headDesc c.val)).mode = 0
        ∧ (s.readDesc (s.headDesc c.val)).srcHost = false ∧ (s.readDesc (s.headDesc c.val)).dstHost = false
        ∧ regionOf (s.readDesc (s.headDesc c.val)).src = .dram ∧ regionOf (s.readDesc (s.headDesc c.val)).dst = .dram ∧ s.cch.poison = [])
    ∧ (∃ (s : State) (c : Fin 16) (r : DmaRun), s.dmaRun c.val = some r ∧ r.ended = true)
    ∧ (∃ (s : State) (c : Fin 16), s.lands (0x7102C + 0x40 * c.val) = true)
    ∧ (∃ (s : State) (c : Fin 16), s.lands (0x71000 + 0x40 * c.val) = true ∧ s.dmaRun c.val = none)
    ∧ (∃ (s : State), s.lands 0x70000 = true) :=
  ⟨⟨.load, 0x1800000000000, 4, by decide +kernel⟩,
   ⟨st up (onCch (fun c => { c with l1d := [⟨3, 1024, bytes64, true⟩] })), 3, 0x10000, 8, ⟨3, 1024, bytes64, true⟩, by decide +kernel⟩,
   ⟨st up, 0x80010, by decide +kernel⟩,
   ⟨st up, 0x80010, by decide +kernel⟩,
   ⟨dmaOne (desc 9 0 64 0x20000 0x30000), 2, by decide +kernel⟩,
   ⟨dmaOne (desc 1 0 64 0x20000 0x30000), 2, by decide +kernel⟩,
   ⟨(fun s => { s with dma := [(2, { tag := 5, irq := false, length := 64, bytes := 64 })] } : State → State) (dmaOne (desc 1 0 64 0x20000 0x30000)), 2, { tag := 5, irq := false, length := 64, bytes := 64 }, by decide +kernel⟩,
   ⟨st (up ++ [(Reg.DMA_CH_STATUS_HALTED 2, 1)]), 2, by decide +kernel⟩,
   ⟨st (up ++ [(Reg.DMA_CH_CFG_ENABLE 2, 1)]), 2, by decide +kernel⟩,
   ⟨st (up ++ [(Reg.DMA_CTRL_ENABLE, 1)]), by decide +kernel⟩⟩

theorem witness_JobCommandsComplete :
    (∃ (s : State), s.on Reg.OXE_CTRL_ENABLE = false)
    ∧ (∃ (s : State) (cls : Nat) (r : Nat) (e : Nat), s.on Reg.OXE_CTRL_ENABLE = true ∧ s.returnedNext = none ∧ cls < 4 ∧ s.nextRing cls = some r
        ∧ (∀ k, k < cls → s.nextRing k = none) ∧ (s.engineSet r []).2 = false ∧ Assoc.getD s.oxe.backlog r [] = []
        ∧ s.fewest (s.headJob r).slot (s.withRoom (s.engineSet r []).1) = some e ∧ (s.headJob r).eligible = false ∧ s.jobOk (s.headJob r) = true)
    ∧ (∃ (s : State) (e : Fin 28) (id : Nat) (rest : List Nat) (j : Job), s.engState e.val = EngSt.inService ∨ s.engState e.val = EngSt.quarantined
        ∧ (s.eng e.val).running = false ∧ (s.eng e.val).queue = id :: rest ∧ s.job? id = some j ∧ j.engine = some e.val ∧ s.decodeCheck j = some true)
    ∧ (∃ (s : State) (e : Fin 28) (id : Nat) (rest : List Nat) (j : Job), s.engState e.val = EngSt.inService ∨ s.engState e.val = EngSt.quarantined
        ∧ (s.eng e.val).running = false ∧ (s.eng e.val).queue = id :: rest ∧ s.job? id = some j ∧ j.engine = some e.val ∧ s.decodeCheck j = none)
    ∧ (∃ (s : State) (e : Fin 28) (id : Nat) (rest : List Nat) (j : Job), s.engState e.val = EngSt.inService ∨ s.engState e.val = EngSt.quarantined
        ∧ (s.eng e.val).running = false ∧ (s.eng e.val).queue = id :: rest ∧ s.job? id = some j ∧ j.engine = some e.val
        ∧ s.decodeCheck j = some false ∧ j.shadowed = false ∧ j.ended = [] ∧ j.owner = .firmware ∧ j.ring < 16)
    ∧ (∃ (s : State) (e : Fin 28) (id : Nat) (rest : List Nat) (j : Job), (s.eng e.val).running = true ∧ (s.eng e.val).queue = id :: rest
        ∧ s.job? id = some j ∧ j.owner = .firmware ∧ j.ring < 16 ∧ (∀ y ∈ j.srcs, y.kind ≠ 1) ∧ (∀ y ∈ j.dsts, y.kind ≠ 1) ∧ j.engine = some e.val
        ∧ j.shadowed = false ∧ j.ended = [])
    ∧ (∃ (s : State) (e : Fin 28) (id : Nat) (rest : List Nat) (j : Job), (s.eng e.val).running = true ∧ (s.eng e.val).queue = id :: rest
        ∧ s.job? id = some j ∧ j.owner = .firmware ∧ j.ring < 16 ∧ (∀ y ∈ j.srcs, y.kind ≠ 1) ∧ (∀ y ∈ j.dsts, y.kind ≠ 1) ∧ j.engine = some e.val
        ∧ j.shadowed = false ∧ j.ended = [])
    ∧ (∃ (s : State) (id : Nat) (j : Job) (a : Fin 28) (b : Fin 28) (p : RunEnd) (q : RunEnd) (third : RunEnd) (pa : Bool) (pb : Bool), s.arbitration a.val b.val = some (id, j) ∧ a ≠ b ∧ Assoc.find j.ended 0 = some p ∧ Assoc.find j.ended 1 = some q ∧ Assoc.find j.ended 2 = some third ∧ (s.eng a.val).testPassed = some pa ∧ (s.eng b.val).testPassed = some pb ∧ (s.eng a.val).strikes = [] ∧ (s.eng b.val).strikes = [] ∧ p.agrees q = false)
    ∧ (∃ (s : State) (id : Nat) (j : Job) (a : Fin 28) (b : Fin 28) (p : RunEnd) (q : RunEnd) (third : RunEnd) (pa : Bool) (pb : Bool), s.arbitration a.val b.val = some (id, j) ∧ a ≠ b ∧ Assoc.find j.ended 0 = some p ∧ Assoc.find j.ended 1 = some q ∧ Assoc.find j.ended 2 = some third ∧ (s.eng a.val).testPassed = some pa ∧ (s.eng b.val).testPassed = some pb ∧ (s.eng a.val).strikes = [] ∧ (s.eng b.val).strikes = [] ∧ p.agrees q = false)
    ∧ (∃ (s : State) (id : Nat) (j : Job) (a : Fin 28) (b : Fin 28) (p : RunEnd) (q : RunEnd) (third : RunEnd) (pa : Bool) (pb : Bool), s.arbitration a.val b.val = some (id, j) ∧ a ≠ b ∧ Assoc.find j.ended 0 = some p ∧ Assoc.find j.ended 1 = some q ∧ Assoc.find j.ended 2 = some third ∧ (s.eng a.val).testPassed = some pa ∧ (s.eng b.val).testPassed = some pb ∧ (s.eng a.val).strikes = [] ∧ (s.eng b.val).strikes = [] ∧ p.agrees q = false)
    ∧ (∃ (s : State) (a : Fin 28) (b : Fin 28), s.arbitration a.val b.val = none ∨ (s.eng a.val).testPassed = none ∨ (s.eng b.val).testPassed = none)
    ∧ (∃ (s : State) (a : Fin 28) (b : Fin 28) (id : Nat) (j : Job), s.arbitration a.val b.val = some (id, j) ∧ Assoc.find j.ended 2 = none) :=
  ⟨⟨st [(Reg.OXE_CTRL_ENABLE, 0)], by decide +kernel⟩,
   ⟨st [(Reg.OXE_CTRL_ENABLE, 1), (Reg.OXE_RING_CFG_ENABLE 0, 1), (Reg.OXE_RING_CFG_SIZE_M1 0, 7), (Reg.OXE_RING_CFG_CLASS 0, 0), (Reg.OXE_RING_MASK_MASK 0, 0xFFFFFF), (Reg.OXE_RING_TAIL_TAIL 0, 1)] (onOxe (fun x => { x with written := [(0, [(0, job1)])] })), 0, 0, 0, by decide +kernel⟩,
   ⟨st [] (fun s => onEng 4 (fun x => { x with queue := [6] }) (onOxe (fun x => { x with jobs := [(6, { job1 with engine := some 4 })] }) s)), 4, 6, [], { job1 with engine := some 4 }, by decide +kernel⟩,
   ⟨st [(Reg.STP_ARRAY_EVAL_BUSY 0, 1)] (fun s => onEng 4 (fun x => { x with queue := [6] }) (onOxe (fun x => { x with jobs := [(6, { job1 with engine := some 4, op := 2 })] }) s)), 4, 6, [], { job1 with engine := some 4, op := 2 }, by decide +kernel⟩,
   ⟨st (arr ++ [(Reg.STP_ARRAY_EVAL_PHASE_FAIL 0, 1)]) (fun s => onEng 4 (fun x => { x with queue := [6] }) (onOxe (fun x => { x with jobs := [(6, { job1 with engine := some 4, op := 2 })] }) s)), 4, 6, [], { job1 with engine := some 4, op := 2 }, by decide +kernel⟩,
   ⟨st [] (fun s => onEng 4 (fun x => { x with queue := [6], running := true }) (onOxe (fun x => { x with jobs := [(6, { job1 with engine := some 4 })] }) s)), 4, 6, [], { job1 with engine := some 4 }, by decide +kernel⟩,
   ⟨st [] (fun s => onEng 4 (fun x => { x with queue := [6], running := true }) (onOxe (fun x => { x with jobs := [(6, { job1 with engine := some 4 })] }) s)), 4, 6, [], { job1 with engine := some 4 }, by decide +kernel⟩,
   ⟨st [] (fun s => onEng 4 (fun x => { x with testPassed := some true }) (onEng 5 (fun x => { x with testPassed := some true }) (onOxe (fun x => { x with arbitrating := [6], jobs := [(6, { job1 with engine := some 4, shadow := some 5, shadowed := true, ended := [(0, ⟨0, 0, 0, [1]⟩), (1, ⟨0, 0, 0, [2]⟩), (2, ⟨0, 0, 0, [1]⟩)] })] }) s))), 6, { job1 with engine := some 4, shadow := some 5, shadowed := true, ended := [(0, ⟨0, 0, 0, [1]⟩), (1, ⟨0, 0, 0, [2]⟩), (2, ⟨0, 0, 0, [1]⟩)] }, 4, 5, ⟨0, 0, 0, [1]⟩, ⟨0, 0, 0, [2]⟩, ⟨0, 0, 0, [1]⟩, true, true, by decide +kernel⟩,
   ⟨st [] (fun s => onEng 4 (fun x => { x with testPassed := some true }) (onEng 5 (fun x => { x with testPassed := some true }) (onOxe (fun x => { x with arbitrating := [6], jobs := [(6, { job1 with engine := some 4, shadow := some 5, shadowed := true, ended := [(0, ⟨0, 0, 0, [1]⟩), (1, ⟨0, 0, 0, [2]⟩), (2, ⟨0, 0, 0, [2]⟩)] })] }) s))), 6, { job1 with engine := some 4, shadow := some 5, shadowed := true, ended := [(0, ⟨0, 0, 0, [1]⟩), (1, ⟨0, 0, 0, [2]⟩), (2, ⟨0, 0, 0, [2]⟩)] }, 4, 5, ⟨0, 0, 0, [1]⟩, ⟨0, 0, 0, [2]⟩, ⟨0, 0, 0, [2]⟩, true, true, by decide +kernel⟩,
   ⟨st [] (fun s => onEng 4 (fun x => { x with testPassed := some true }) (onEng 5 (fun x => { x with testPassed := some false }) (onOxe (fun x => { x with arbitrating := [6], jobs := [(6, { job1 with engine := some 4, shadow := some 5, shadowed := true, ended := [(0, ⟨0, 0, 0, [1]⟩), (1, ⟨0, 0, 0, [2]⟩), (2, ⟨0, 0, 0, [3]⟩)] })] }) s))), 6, { job1 with engine := some 4, shadow := some 5, shadowed := true, ended := [(0, ⟨0, 0, 0, [1]⟩), (1, ⟨0, 0, 0, [2]⟩), (2, ⟨0, 0, 0, [3]⟩)] }, 4, 5, ⟨0, 0, 0, [1]⟩, ⟨0, 0, 0, [2]⟩, ⟨0, 0, 0, [3]⟩, true, false, by decide +kernel⟩,
   ⟨st [], 4, 27, by decide +kernel⟩,
   ⟨st [] (onOxe (fun x => { x with arbitrating := [6], jobs := [(6, { job1 with engine := some 4, shadow := some 5 })] })), 4, 5, 6, { job1 with engine := some 4, shadow := some 5 }, by decide +kernel⟩⟩

theorem witness_FabricControlCompletes :
    (∃ (s : State) (n : Nat) (c : Cmd) (b : _), s.mayRun n c = true ∧ c.e.qid = 0 ∧ adminOf c.e = some .fabricControl
        ∧ s.bufferOk c.e (bufferLen c.e) = true ∧ bufferLen c.e ≤ 4096 ∧ 16 ≤ bufferLen c.e ∧ fabCode c.e = 1 ∧ s.fab.bellwether = some b
        ∧ s.ownAddr?.isSome = true ∧ s.reach b = true ∧ s.isBellwether = true)
    ∧ (∃ (s : State) (n : Nat) (c : Cmd), s.mayRun n c = true ∧ c.e.qid = 0 ∧ adminOf c.e = some .fabricControl
        ∧ s.bufferOk c.e (bufferLen c.e) = true ∧ bufferLen c.e ≤ 4096 ∧ 16 ≤ bufferLen c.e ∧ fabCode c.e = 1 ∧ s.fab.bellwether = none)
    ∧ (∃ (s : State) (n : Nat) (c : Cmd), s.mayRun n c = true ∧ c.e.qid = 0 ∧ adminOf c.e = some .fabricControl
        ∧ s.bufferOk c.e (bufferLen c.e) = true ∧ bufferLen c.e ≤ 4096 ∧ 16 ≤ bufferLen c.e ∧ fabCode c.e = 2)
    ∧ (∃ (s : State) (n : Nat) (c : Cmd) (buffer : List Nat) (g : _), s.mayRun n c = true ∧ c.e.qid = 0 ∧ adminOf c.e = some .fabricControl
        ∧ s.bufferOk c.e (bufferLen c.e) = true ∧ bufferLen c.e ≤ 4096 ∧ 16 ≤ bufferLen c.e ∧ fabCode c.e = 4 ∧ s.on Reg.SYS_STRAP_COMPAT = false
        ∧ s.group? (bufField buffer 0 8) = some g)
    ∧ (∃ (s : State) (n : Nat) (c : Cmd) (buffer : List Nat) (g : _), s.mayRun n c = true ∧ c.e.qid = 0 ∧ adminOf c.e = some .fabricControl
        ∧ s.bufferOk c.e (bufferLen c.e) = true ∧ bufferLen c.e ≤ 4096 ∧ 16 ≤ bufferLen c.e ∧ fabCode c.e = 5 ∧ s.on Reg.SYS_STRAP_COMPAT = false
        ∧ s.group? (bufField buffer 0 8) = some g ∧ g.parity.1 = s.ownUid ∧ s.allReached g = true ∧ g.stale = false)
    ∧ (∃ (s : State) (n : Nat) (c : Cmd) (buffer : List Nat) (g : _), s.mayRun n c = true ∧ c.e.qid = 0 ∧ adminOf c.e = some .fabricControl
        ∧ s.bufferOk c.e (bufferLen c.e) = true ∧ bufferLen c.e ≤ 4096 ∧ 16 ≤ bufferLen c.e ∧ fabCode c.e = 5 ∧ s.on Reg.SYS_STRAP_COMPAT = false
        ∧ s.group? (bufField buffer 0 8) = some g ∧ g.parity.1 = s.ownUid ∧ s.allReached g = true ∧ g.stale = true ∧ g.front = none)
    ∧ (∃ (s : State) (n : Nat) (c : Cmd) (buffer : List Nat) (g : _), s.mayRun n c = true ∧ c.e.qid = 0 ∧ adminOf c.e = some .fabricControl
        ∧ s.bufferOk c.e (bufferLen c.e) = true ∧ bufferLen c.e ≤ 4096 ∧ 16 ≤ bufferLen c.e ∧ fabCode c.e = 6 ∧ s.on Reg.SYS_STRAP_COMPAT = false
        ∧ s.fab.gathers = [] ∧ s.group? (bufField buffer 0 8) = some g ∧ buffer.getD 8 0 < g.members.length ∧ g.stale = false
        ∧ buffer.getD 9 0 < 64 ∧ s.volValid (buffer.getD 9 0) = true ∧ (s.volMeta (buffer.getD 9 0)).flock = none
        ∧ (∀ i ∈ recoverFrom g (buffer.getD 8 0), s.uidReached (memberAt g i).1 = true))
    ∧ (∃ (s : State) (n : Nat) (c : Cmd) (buffer : List Nat) (b : _), s.mayRun n c = true ∧ c.e.qid = 0 ∧ adminOf c.e = some .fabricControl
        ∧ s.bufferOk c.e (bufferLen c.e) = true ∧ bufferLen c.e ≤ 4096 ∧ 16 ≤ bufferLen c.e ∧ fabCode c.e = 7 ∧ s.fab.bellwether = some b
        ∧ s.ownAddr?.isSome = true ∧ s.reach b = true ∧ s.isBellwether = true ∧ bufField buffer 0 8 ∈ s.fab.registered)
    ∧ (∃ (s : State) (n : Nat) (c : Cmd) (buffer : List Nat), s.mayRun n c = true ∧ c.e.qid = 0 ∧ adminOf c.e = some .fabricControl
        ∧ s.bufferOk c.e (bufferLen c.e) = true ∧ bufferLen c.e ≤ 4096 ∧ 16 ≤ bufferLen c.e ∧ fabCode c.e = 8 ∧ s.ownAddr?.isSome = true
        ∧ s.reach (bufField buffer 0 2) = true)
    ∧ (∃ (s : State) (n : Nat) (c : Cmd) (buffer : List Nat) (facts : List VolFacts) (members : List (Nat × Nat)), s.mayRun n c = true
        ∧ c.e.qid = 0 ∧ adminOf c.e = some .fabricControl ∧ s.bufferOk c.e (bufferLen c.e) = true ∧ bufferLen c.e ≤ 4096 ∧ fabCode c.e = 3
        ∧ 32 + 16 * buffer.getD 8 0 ≤ bufferLen c.e
        ∧ members = (List.range (buffer.getD 8 0)).map (fun i => (bufField buffer (32 + 16 * i) 8, buffer.getD (40 + 16 * i) 0))
        ∧ s.groupRefusal (bufField buffer 0 8) (bufField buffer 16 8, buffer.getD 24 0) members facts = none)
    ∧ (∃ (s : State) (n : Nat) (c : Cmd) (buffer : List Nat) (facts : List VolFacts) (members : List (Nat × Nat)) (r : _), s.mayRun n c = true
        ∧ c.e.qid = 0 ∧ adminOf c.e = some .fabricControl ∧ s.bufferOk c.e (bufferLen c.e) = true ∧ bufferLen c.e ≤ 4096 ∧ fabCode c.e = 3
        ∧ 32 + 16 * buffer.getD 8 0 ≤ bufferLen c.e
        ∧ members = (List.range (buffer.getD 8 0)).map (fun i => (bufField buffer (32 + 16 * i) 8, buffer.getD (40 + 16 * i) 0))
        ∧ s.groupRefusal (bufField buffer 0 8) (bufField buffer 16 8, buffer.getD 24 0) members facts = some r) :=
  ⟨⟨st (up ++ fabUp ++ [(Reg.FAB_ROUTE_VALID 6, 1), (Reg.FAB_ROUTE_PRIMARY 6, 3), (Reg.FAB_ROUTE_VALID 7, 1), (Reg.FAB_ROUTE_PRIMARY 7, 3)]) (fun s => onFab (fun x => x) (cmdOf1 { e := { adm .fabricControl [] with options := 1 } } s)), 9, { e := { adm .fabricControl [] with options := 1 } }, 5, by decide +kernel⟩,
   ⟨st (up ++ fabUp ++ [(Reg.FAB_ROUTE_VALID 6, 1), (Reg.FAB_ROUTE_PRIMARY 6, 3), (Reg.FAB_ROUTE_VALID 7, 1), (Reg.FAB_ROUTE_PRIMARY 7, 3)]) (cmdOf1 { e := { adm .fabricControl [] with options := 1 } }), 9, { e := { adm .fabricControl [] with options := 1 } }, by decide +kernel⟩,
   ⟨st (up ++ fabUp ++ [(Reg.FAB_ROUTE_VALID 6, 1), (Reg.FAB_ROUTE_PRIMARY 6, 3), (Reg.FAB_ROUTE_VALID 7, 1), (Reg.FAB_ROUTE_PRIMARY 7, 3)]) (fun s => onFab (fun x => x) (cmdOf1 { e := { adm .fabricControl [] with options := 2 } } s)), 9, { e := { adm .fabricControl [] with options := 2 } }, by decide +kernel⟩,
   ⟨st (up ++ fabUp ++ [(Reg.FAB_ROUTE_VALID 6, 1), (Reg.FAB_ROUTE_PRIMARY 6, 3), (Reg.FAB_ROUTE_VALID 7, 1), (Reg.FAB_ROUTE_PRIMARY 7, 3)]) (fun s => onFab (fun x => { x with groups := [{ grp with stale := false }], nodes := twoNodes }) (cmdOf1 { e := { adm .fabricControl [] with options := 4 } } s)), 9, { e := { adm .fabricControl [] with options := 4 } }, [9], { grp with stale := false }, by decide +kernel⟩,
   ⟨st (up ++ fabUp ++ [(Reg.FAB_ROUTE_VALID 6, 1), (Reg.FAB_ROUTE_PRIMARY 6, 3), (Reg.FAB_ROUTE_VALID 7, 1), (Reg.FAB_ROUTE_PRIMARY 7, 3)]) (fun s => onFab (fun x => { x with groups := [{ grp with stale := false }], nodes := twoNodes }) (cmdOf1 { e := { adm .fabricControl [] with options := 5 } } s)), 9, { e := { adm .fabricControl [] with options := 5 } }, [9], { grp with stale := false }, by decide +kernel⟩,
   ⟨st (up ++ fabUp ++ [(Reg.FAB_ROUTE_VALID 6, 1), (Reg.FAB_ROUTE_PRIMARY 6, 3), (Reg.FAB_ROUTE_VALID 7, 1), (Reg.FAB_ROUTE_PRIMARY 7, 3)]) (fun s => onFab (fun x => { x with groups := [{ grp with stale := true }], nodes := twoNodes }) (cmdOf1 { e := { adm .fabricControl [] with options := 5 } } s)), 9, { e := { adm .fabricControl [] with options := 5 } }, [9], { grp with stale := true }, by decide +kernel⟩,
   ⟨st (up ++ drives ++ arr ++ fabUp ++ [(Reg.FAB_ROUTE_VALID 6, 1), (Reg.FAB_ROUTE_PRIMARY 6, 3), (Reg.FAB_ROUTE_VALID 7, 1), (Reg.FAB_ROUTE_PRIMARY 7, 3)]) (fun s => onFab (fun x => { x with groups := [{ grp with stale := false }], nodes := twoNodes }) (cmdOf1 { e := { adm .fabricControl [] with options := 6 } } s)), 9, { e := { adm .fabricControl [] with options := 6 } }, [9, 0, 0, 0, 0, 0, 0, 0, 1, 0], { grp with stale := false }, by decide +kernel⟩,
   ⟨st (up ++ fabUp ++ [(Reg.FAB_ROUTE_VALID 6, 1), (Reg.FAB_ROUTE_PRIMARY 6, 3), (Reg.FAB_ROUTE_VALID 7, 1), (Reg.FAB_ROUTE_PRIMARY 7, 3)]) (fun s => onFab (fun x => { x with registered := [2000], nReg := 1, nodes := twoNodes }) (cmdOf1 { e := { adm .fabricControl [] with options := 7 } } s)), 9, { e := { adm .fabricControl [] with options := 7 } }, [0xD0, 7], 5, by decide +kernel⟩,
   ⟨st (up ++ fabUp ++ [(Reg.FAB_ROUTE_VALID 6, 1), (Reg.FAB_ROUTE_PRIMARY 6, 3), (Reg.FAB_ROUTE_VALID 7, 1), (Reg.FAB_ROUTE_PRIMARY 7, 3)]) (fun s => onFab (fun x => x) (cmdOf1 { e := { adm .fabricControl [] with options := 8 } } s)), 9, { e := { adm .fabricControl [] with options := 8 } }, [6], by decide +kernel⟩,
   ⟨st (up ++ drives ++ arr ++ fabUp ++ [(Reg.FAB_ROUTE_VALID 6, 1), (Reg.FAB_ROUTE_PRIMARY 6, 3), (Reg.FAB_ROUTE_VALID 7, 1), (Reg.FAB_ROUTE_PRIMARY 7, 3)]) (fun s => onFab (fun x => { x with nodes := twoNodes }) (cmdOf1 { e := { adm .fabricControl [] with options := 3 } } s)), 9, { e := { adm .fabricControl [] with options := 3 } }, ([9, 0, 0, 0, 0, 0, 0, 0, 2] ++ List.replicate 7 0 ++ [0xE8, 3, 0, 0, 0, 0, 0, 0, 0] ++ List.replicate 7 0 ++ [0xD0, 7, 0, 0, 0, 0, 0, 0, 0] ++ List.replicate 7 0 ++ [0xB8, 0x0B, 0, 0, 0, 0, 0, 0, 0] ++ List.replicate 7 0), [⟨true, 8, 4000⟩, ⟨true, 8, 5000⟩], [(2000, 0), (3000, 0)], by decide +kernel⟩,
   ⟨st (up ++ drives ++ arr ++ fabUp ++ [(Reg.FAB_ROUTE_VALID 6, 1), (Reg.FAB_ROUTE_PRIMARY 6, 3), (Reg.FAB_ROUTE_VALID 7, 1), (Reg.FAB_ROUTE_PRIMARY 7, 3)]) (fun s => onFab (fun x => { x with nodes := twoNodes, groups := [grp] }) (cmdOf1 { e := { adm .fabricControl [] with options := 3 } } s)), 9, { e := { adm .fabricControl [] with options := 3 } }, ([9, 0, 0, 0, 0, 0, 0, 0, 2] ++ List.replicate 7 0 ++ [0xE8, 3, 0, 0, 0, 0, 0, 0, 0] ++ List.replicate 7 0 ++ [0xD0, 7, 0, 0, 0, 0, 0, 0, 0] ++ List.replicate 7 0 ++ [0xB8, 0x0B, 0, 0, 0, 0, 0, 0, 0] ++ List.replicate 7 0), [⟨true, 8, 4000⟩, ⟨true, 8, 5000⟩], [(2000, 0), (3000, 0)], 6, by decide +kernel⟩⟩

theorem witness_CopyCommandsComplete :
    (∃ (s : State) (n : Nat) (c : Cmd), s.qmx.cmds = [(n, c)] ∧ s.mayRun n c = true ∧ c.e.qid ≠ 0 ∧ c.e.opcode = 0x25 ∧ c.final = false
        ∧ s.copyCheck c.e = none)
    ∧ (∃ (s : State) (n : Nat) (c : Cmd) (st : _), s.qmx.cmds = [(n, c)] ∧ s.mayRun n c = true ∧ c.e.qid ≠ 0 ∧ c.e.opcode = 0x25 ∧ c.final = false
        ∧ s.copyCheck c.e = some st)
    ∧ (∃ (s : State) (n : Nat) (c : Cmd), s.qmx.cmds = [(n, c)] ∧ c.e.qid ≠ 0 ∧ c.e.opcode = 0x25 ∧ c.final = false ∧ c.begun = true ∧ c.pieces = 0
        ∧ s.fab.copies = [] ∧ copyRemote c.e = false ∧ (∀ b ∈ c.buf, b.2.bad = false))
    ∧ (∃ (s : State) (p : Fin 4), s.hears p = true ∧ s.fab.doneBatches = [] ∧ s.mode = Mode.serving ∧ s.fab.batches = [])
    ∧ (∃ (s : State) (p : Fin 4), s.hears p = true ∧ s.fab.doneBatches = [] ∧ s.mode = Mode.standby)
    ∧ (∃ (s : State) (p : Fin 4) (idx : Nat) (data : Block) (b : CopyIn), s.hears p = true ∧ s.fab.batches = [b] ∧ idx < b.nblk
        ∧ b.crcs.getD idx 0 = crc32c (leBytes 4096 data) ∧ (Assoc.set b.blocks idx data).length ≠ b.nblk)
    ∧ (∃ (s : State) (p : Fin 4) (idx : Nat) (data : Block) (b : CopyIn), s.hears p = true ∧ s.fab.batches = [b] ∧ idx < b.nblk
        ∧ b.crcs.getD idx 0 ≠ crc32c (leBytes 4096 data))
    ∧ (∃ (s : State) (p : Fin 4) (x : CopyOut) (c : Cmd) (batch : Nat) (b : CopyBatch), s.hears p = true ∧ s.fab.copies = [x]
        ∧ s.cmd? x.cmd = some c ∧ Assoc.find x.out batch = some b ∧ c.usable ≤ x.next ∧ Assoc.erase x.out batch ≠ [])
    ∧ (∃ (s : State) (x : CopyOut) (c : Cmd) (batch : Nat) (b : CopyBatch), s.fab.copies = [x] ∧ s.cmd? x.cmd = some c
        ∧ Assoc.find x.out batch = some b ∧ s.destWaits x.addr = false ∧ b.sends < 5)
    ∧ (∃ (s : State) (x : CopyOut) (c : Cmd) (batch : Nat) (b : CopyBatch), s.fab.copies = [x] ∧ s.cmd? x.cmd = some c
        ∧ Assoc.find x.out batch = some b ∧ s.destWaits x.addr = false ∧ 5 ≤ b.sends)
    ∧ (∃ (s : State) (x : CopyOut) (c : Cmd), s.qmx.cmds = [(x.cmd, c)] ∧ s.fab.copies = [x] ∧ x.out ≠ []) :=
  ⟨⟨st (up ++ drives ++ arr) (cmdOf1 { e := { ent 1 0x25 with dlen := 0, spec := [50, 0, 0, 0, 0, 0, 0, 0, 0, 0, 0, 0, 0, 0, 0, 0] ++ List.replicate 8 0 } }), 9, { e := { ent 1 0x25 with dlen := 0, spec := [50, 0, 0, 0, 0, 0, 0, 0, 0, 0, 0, 0, 0, 0, 0, 0] ++ List.replicate 8 0 } }, by decide +kernel⟩,
   ⟨st (up ++ drives ++ arr) (cmdOf1 { e := { ent 1 0x25 with dlen := 0, spec := [8] ++ List.replicate 23 0 } }), 9, { e := { ent 1 0x25 with dlen := 0, spec := [8] ++ List.replicate 23 0 } }, St.invalidField, by decide +kernel⟩,
   ⟨st (up ++ drives ++ arr) (cmdOf1 { e := { ent 1 0x25 with dlen := 0, spec := [50, 0, 0, 0, 0, 0, 0, 0, 0, 0, 0, 0, 0, 0, 0, 0] ++ List.replicate 8 0 }, begun := true, buf := [(0, { data := 3 })] }), 9, { e := { ent 1 0x25 with dlen := 0, spec := [50, 0, 0, 0, 0, 0, 0, 0, 0, 0, 0, 0, 0, 0, 0, 0] ++ List.replicate 8 0 }, begun := true, buf := [(0, { data := 3 })] }, by decide +kernel⟩,
   ⟨st (up ++ fabUp ++ [(Reg.FAB_ROUTE_VALID 6, 1), (Reg.FAB_ROUTE_PRIMARY 6, 3), (Reg.FAB_ROUTE_VALID 7, 1), (Reg.FAB_ROUTE_PRIMARY 7, 3)]), 3, by decide +kernel⟩,
   ⟨st ([(Reg.SYS_MODE_MODE, 4)] ++ fabUp), 3, by decide +kernel⟩,
   ⟨st (up ++ fabUp ++ [(Reg.FAB_ROUTE_VALID 6, 1), (Reg.FAB_ROUTE_PRIMARY 6, 3), (Reg.FAB_ROUTE_VALID 7, 1), (Reg.FAB_ROUTE_PRIMARY 7, 3)]) (onFab (fun x => { x with batches := [{ cin with crcs := [crc32c (leBytes 4096 3), 5] }] })), 3, 0, 3, { cin with crcs := [crc32c (leBytes 4096 3), 5] }, by decide +kernel⟩,
   ⟨st (up ++ fabUp ++ [(Reg.FAB_ROUTE_VALID 6, 1), (Reg.FAB_ROUTE_PRIMARY 6, 3), (Reg.FAB_ROUTE_VALID 7, 1), (Reg.FAB_ROUTE_PRIMARY 7, 3)]) (onFab (fun x => { x with batches := [cin] })), 3, 1, 3, cin, by decide +kernel⟩,
   ⟨st (up ++ fabUp ++ [(Reg.FAB_ROUTE_VALID 6, 1), (Reg.FAB_ROUTE_PRIMARY 6, 3), (Reg.FAB_ROUTE_VALID 7, 1), (Reg.FAB_ROUTE_PRIMARY 7, 3)]) (fun s => onFab (fun x => { x with copies := [cout], nodes := twoNodes }) (cmdOf1 ccmd s)), 3, cout, ccmd, 1, cbatch, by decide +kernel⟩,
   ⟨st (up ++ fabUp ++ [(Reg.FAB_ROUTE_VALID 6, 1), (Reg.FAB_ROUTE_PRIMARY 6, 3), (Reg.FAB_ROUTE_VALID 7, 1), (Reg.FAB_ROUTE_PRIMARY 7, 3)]) (fun s => onFab (fun x => { x with copies := [cout], nodes := twoNodes }) (cmdOf1 ccmd s)), cout, ccmd, 1, cbatch, by decide +kernel⟩,
   ⟨st (up ++ fabUp ++ [(Reg.FAB_ROUTE_VALID 6, 1), (Reg.FAB_ROUTE_PRIMARY 6, 3), (Reg.FAB_ROUTE_VALID 7, 1), (Reg.FAB_ROUTE_PRIMARY 7, 3)]) (fun s => onFab (fun x => { x with copies := [{ cout with out := [(1, { cbatch with sends := 5 })] }], nodes := twoNodes }) (cmdOf1 ccmd s)), { cout with out := [(1, { cbatch with sends := 5 })] }, ccmd, 1, { cbatch with sends := 5 }, by decide +kernel⟩,
   ⟨st (up ++ fabUp ++ [(Reg.FAB_ROUTE_VALID 6, 1), (Reg.FAB_ROUTE_PRIMARY 6, 3), (Reg.FAB_ROUTE_VALID 7, 1), (Reg.FAB_ROUTE_PRIMARY 7, 3)]) (fun s => onFab (fun x => { x with copies := [cout], nodes := twoNodes }) (cmdOf1 ccmd s)), cout, ccmd, by decide +kernel⟩⟩

theorem witness_FlockCommandsComplete :
    (∃ (s : State) (p : Fin 4) (g : FlockGroup) (member : Nat), s.hears p = true ∧ s.fab.groups = [g] ∧ (memberAt g member).1 = s.ownUid
        ∧ s.jnl.updates = [])
    ∧ (∃ (s : State) (p : Fin 4) (g : FlockGroup) (x : Gather) (blocks : List (Block × Nat)), s.hears p = true ∧ s.fab.groups = [g]
        ∧ s.fab.gathers = [x] ∧ x.group = g.id ∧ (∀ b ∈ blocks, b.2 = crc32c (leBytes 4096 b.1)))
    ∧ (∃ (s : State) (p : Fin 4) (g : FlockGroup) (x : Gather) (blocks : List (Block × Nat)), s.hears p = true ∧ s.fab.groups = [g]
        ∧ s.fab.gathers = [x] ∧ x.group = g.id ∧ (∃ b ∈ blocks, b.2 ≠ crc32c (leBytes 4096 b.1)))
    ∧ (∃ (s : State) (g : FlockGroup), s.fab.groups = [g] ∧ g.parity.1 = s.ownUid ∧ g.stale = true ∧ g.front = none ∧ s.allReached g = true)
    ∧ (∃ (s : State) (g : FlockGroup) (f : _) (x : _), s.fab.groups = [g] ∧ g.parity.1 = s.ownUid ∧ g.stale = true ∧ g.front = some f
        ∧ s.fab.gathers = [x] ∧ x.group = g.id ∧ x.recover = none ∧ (∀ i, i < g.members.length → (Assoc.find x.got i).isSome = true)
        ∧ s.admits g.parity.2 64 = true ∧ s.writeRefused g.parity.2 f 64 = false ∧ f + 64 < s.volBlocks g.parity.2)
    ∧ (∃ (s : State) (p : Fin 4) (g : FlockGroup) (member : Nat) (dseq : Nat), s.hears p = true ∧ s.fab.groups = [g] ∧ g.parity.1 = s.ownUid
        ∧ s.fab.deltasIn = [] ∧ Assoc.getD g.applied member 0 < dseq)
    ∧ (∃ (s : State) (p : Fin 4) (g : FlockGroup) (member : Nat) (dseq : Nat), s.hears p = true ∧ s.fab.groups = [g] ∧ g.parity.1 = s.ownUid
        ∧ s.fab.deltasIn = [] ∧ dseq ≤ Assoc.getD g.applied member 0)
    ∧ (∃ (s : State) (p : Fin 4) (d : DeltaIn), s.hears p = true ∧ s.fab.deltasIn = [d] ∧ d.blocks.length + 1 < d.nblk)
    ∧ (∃ (s : State) (p : Fin 4) (d : DeltaIn) (data : Block), s.hears p = true ∧ s.fab.deltasIn = [d] ∧ d.blocks.length + 1 = d.nblk
        ∧ crc32c ((d.blocks ++ [data]).flatMap (leBytes 4096)) ≠ d.crc)
    ∧ (∃ (s : State) (p : Fin 4), s.hears p = true)
    ∧ (∃ (s : State) (p : Fin 4), s.hears p = true ∧ s.mode = Mode.serving)
    ∧ (∃ (s : State) (p : Fin 4), s.hears p = true ∧ s.mode = Mode.draining)
    ∧ (∃ (s : State) (p : Fin 4) (g : FlockGroup), s.hears p = true ∧ s.fab.groups = [g])
    ∧ (∃ (s : State) (p : Fin 4) (g : FlockGroup), s.hears p = true ∧ s.fab.groups = [g] ∧ g.stale = true)
    ∧ (∃ (s : State) (p : Fin 4) (g : FlockGroup) (f : _), s.hears p = true ∧ s.fab.groups = [g] ∧ g.front ≠ some f)
    ∧ (∃ (s : State) (p : Fin 4) (g : FlockGroup), s.hears p = true ∧ s.fab.groups = [g] ∧ g.stale = false)
    ∧ (∃ (s : State) (g : FlockGroup) (d : Delta), s.fab.groups = [g] ∧ d ∈ s.fab.deltas ∧ d.group = g.id ∧ d.freed = false ∧ g.stale = false
        ∧ s.uidReached g.parity.1 = false) :=
  ⟨⟨st (up ++ drives ++ arr ++ fabUp ++ [(Reg.FAB_ROUTE_VALID 6, 1), (Reg.FAB_ROUTE_PRIMARY 6, 3), (Reg.FAB_ROUTE_VALID 7, 1), (Reg.FAB_ROUTE_PRIMARY 7, 3)]) (onFab (fun x => { x with groups := [{ grp with parity := (2000, 0), members := [(1000, 0), (3000, 0)] }], nodes := twoNodes })), 3, { grp with parity := (2000, 0), members := [(1000, 0), (3000, 0)] }, 0, by decide +kernel⟩,
   ⟨st (up ++ fabUp ++ [(Reg.FAB_ROUTE_VALID 6, 1), (Reg.FAB_ROUTE_PRIMARY 6, 3), (Reg.FAB_ROUTE_VALID 7, 1), (Reg.FAB_ROUTE_PRIMARY 7, 3)]) (onFab (fun x => { x with groups := [grp], nodes := twoNodes, gathers := [gath] })), 3, grp, gath, [(3, crc32c (leBytes 4096 3))], by decide +kernel⟩,
   ⟨st (up ++ fabUp ++ [(Reg.FAB_ROUTE_VALID 6, 1), (Reg.FAB_ROUTE_PRIMARY 6, 3), (Reg.FAB_ROUTE_VALID 7, 1), (Reg.FAB_ROUTE_PRIMARY 7, 3)]) (onFab (fun x => { x with groups := [grp], nodes := twoNodes, gathers := [gath] })), 3, grp, gath, [(3, 5)], by decide +kernel⟩,
   ⟨st (up ++ fabUp ++ [(Reg.FAB_ROUTE_VALID 6, 1), (Reg.FAB_ROUTE_PRIMARY 6, 3), (Reg.FAB_ROUTE_VALID 7, 1), (Reg.FAB_ROUTE_PRIMARY 7, 3)]) (onFab (fun x => { x with groups := [grp], nodes := twoNodes })), grp, by decide +kernel⟩,
   ⟨st (up ++ drives ++ arr ++ fabUp ++ [(Reg.FAB_ROUTE_VALID 6, 1), (Reg.FAB_ROUTE_PRIMARY 6, 3), (Reg.FAB_ROUTE_VALID 7, 1), (Reg.FAB_ROUTE_PRIMARY 7, 3)]) (onFab (fun x => { x with groups := [{ grp with front := some 0 }], nodes := twoNodes, gathers := [{ gath with got := [(0, List.replicate 64 1), (1, List.replicate 64 2)] }] })), { grp with front := some 0 }, 0, { gath with got := [(0, List.replicate 64 1), (1, List.replicate 64 2)] }, by decide +kernel⟩,
   ⟨st (up ++ fabUp ++ [(Reg.FAB_ROUTE_VALID 6, 1), (Reg.FAB_ROUTE_PRIMARY 6, 3), (Reg.FAB_ROUTE_VALID 7, 1), (Reg.FAB_ROUTE_PRIMARY 7, 3)]) (onFab (fun x => { x with groups := [grp], nodes := twoNodes })), 3, grp, 0, 1, by decide +kernel⟩,
   ⟨st (up ++ fabUp ++ [(Reg.FAB_ROUTE_VALID 6, 1), (Reg.FAB_ROUTE_PRIMARY 6, 3), (Reg.FAB_ROUTE_VALID 7, 1), (Reg.FAB_ROUTE_PRIMARY 7, 3)]) (onFab (fun x => { x with groups := [{ grp with applied := [(0, 1)] }], nodes := twoNodes })), 3, { grp with applied := [(0, 1)] }, 0, 1, by decide +kernel⟩,
   ⟨st (up ++ fabUp ++ [(Reg.FAB_ROUTE_VALID 6, 1), (Reg.FAB_ROUTE_PRIMARY 6, 3), (Reg.FAB_ROUTE_VALID 7, 1), (Reg.FAB_ROUTE_PRIMARY 7, 3)]) (onFab (fun x => { x with groups := [grp], nodes := twoNodes, deltasIn := [{ src := 6, group := 9, member := 0, dseq := 1, lba := 0, nblk := 2, crc := 5 }] })), 3, { src := 6, group := 9, member := 0, dseq := 1, lba := 0, nblk := 2, crc := 5 }, by decide +kernel⟩,
   ⟨st (up ++ fabUp ++ [(Reg.FAB_ROUTE_VALID 6, 1), (Reg.FAB_ROUTE_PRIMARY 6, 3), (Reg.FAB_ROUTE_VALID 7, 1), (Reg.FAB_ROUTE_PRIMARY 7, 3)]) (onFab (fun x => { x with groups := [grp], nodes := twoNodes, deltasIn := [{ src := 6, group := 9, member := 0, dseq := 1, lba := 0, nblk := 1, crc := 5 }] })), 3, { src := 6, group := 9, member := 0, dseq := 1, lba := 0, nblk := 1, crc := 5 }, 3, by decide +kernel⟩,
   ⟨st (up ++ fabUp ++ [(Reg.FAB_ROUTE_VALID 6, 1), (Reg.FAB_ROUTE_PRIMARY 6, 3), (Reg.FAB_ROUTE_VALID 7, 1), (Reg.FAB_ROUTE_PRIMARY 7, 3)]) (onFab (fun x => { x with groups := [grp], nodes := twoNodes, deltas := [dlt] })), 3, by decide +kernel⟩,
   ⟨st (up ++ fabUp ++ [(Reg.FAB_ROUTE_VALID 6, 1), (Reg.FAB_ROUTE_PRIMARY 6, 3), (Reg.FAB_ROUTE_VALID 7, 1), (Reg.FAB_ROUTE_PRIMARY 7, 3)]), 3, by decide +kernel⟩,
   ⟨st ([(Reg.SYS_MODE_MODE, 3)] ++ fabUp), 3, by decide +kernel⟩,
   ⟨st (up ++ fabUp ++ [(Reg.FAB_ROUTE_VALID 6, 1), (Reg.FAB_ROUTE_PRIMARY 6, 3), (Reg.FAB_ROUTE_VALID 7, 1), (Reg.FAB_ROUTE_PRIMARY 7, 3)]) (onFab (fun x => { x with groups := [grp], nodes := twoNodes })), 3, grp, by decide +kernel⟩,
   ⟨st (up ++ fabUp ++ [(Reg.FAB_ROUTE_VALID 6, 1), (Reg.FAB_ROUTE_PRIMARY 6, 3), (Reg.FAB_ROUTE_VALID 7, 1), (Reg.FAB_ROUTE_PRIMARY 7, 3)]) (onFab (fun x => { x with groups := [grp], nodes := twoNodes })), 3, grp, by decide +kernel⟩,
   ⟨st (up ++ fabUp ++ [(Reg.FAB_ROUTE_VALID 6, 1), (Reg.FAB_ROUTE_PRIMARY 6, 3), (Reg.FAB_ROUTE_VALID 7, 1), (Reg.FAB_ROUTE_PRIMARY 7, 3)]) (onFab (fun x => { x with groups := [grp], nodes := twoNodes })), 3, grp, 64, by decide +kernel⟩,
   ⟨st (up ++ fabUp ++ [(Reg.FAB_ROUTE_VALID 6, 1), (Reg.FAB_ROUTE_PRIMARY 6, 3), (Reg.FAB_ROUTE_VALID 7, 1), (Reg.FAB_ROUTE_PRIMARY 7, 3)]) (onFab (fun x => { x with groups := [{ grp with stale := false }], nodes := twoNodes })), 3, { grp with stale := false }, by decide +kernel⟩,
   ⟨st (up ++ fabUp ++ [(Reg.FAB_ROUTE_VALID 6, 1), (Reg.FAB_ROUTE_PRIMARY 6, 3), (Reg.FAB_ROUTE_VALID 7, 1), (Reg.FAB_ROUTE_PRIMARY 7, 3)]) (onFab (fun x => { x with groups := [{ grp with parity := (4000, 0), members := [(1000, 0), (3000, 0)], stale := false }], nodes := twoNodes, deltas := [dlt] })), { grp with parity := (4000, 0), members := [(1000, 0), (3000, 0)], stale := false }, dlt, by decide +kernel⟩⟩

theorem witness_RegisterWriteCompletes :
    (∃ (s : State), s.lands 0x80010 = true)
    ∧ (∃ (s : State) (v : Word), s.lands 0x80004 = true ∧ v.toNat ≤ 1)
    ∧ (∃ (s : State) (v : Word), s.lands 0x80020 = true ∧ v.toNat < 32)
    ∧ (∃ (s : State) (a : Fin 4), s.lands (0x30110 + 0x40 * a.val) = true ∧ s.on Reg.STP_CTRL_LOCK = false
        ∧ s.on (Reg.STP_ARRAY_CFG_VALID a.val) = false)
    ∧ (∃ (s : State) (a : Fin 4) (v : Word), s.lands (0x30110 + 0x40 * a.val) = true
        ∧ s.on Reg.STP_CTRL_LOCK = true ∨ s.on (Reg.STP_ARRAY_CFG_VALID a.val) = true ∧ v.toNat = s.get (Reg.STP_ARRAY_SLOTMAP_SLOTS a.val 0))
    ∧ (∃ (s : State) (a : Fin 4) (v : Word), s.lands (0x30110 + 0x40 * a.val) = true
        ∧ s.on Reg.STP_CTRL_LOCK = true ∨ s.on (Reg.STP_ARRAY_CFG_VALID a.val) = true ∧ v.toNat ≠ s.get (Reg.STP_ARRAY_SLOTMAP_SLOTS a.val 0))
    ∧ (∃ (s : State) (c : Fin 16) (v : Word), s.lands (0x71018 + 0x40 * c.val) = true ∧ v.toNat < 4096
        ∧ v.toNat ≤ s.get (Reg.DMA_CH_CFG_SIZE_M1 c.val))
    ∧ (∃ (s : State) (c : Fin 16) (v : Word), s.lands (0x71018 + 0x40 * c.val) = true ∧ v.toNat < 4096
        ∧ s.get (Reg.DMA_CH_CFG_SIZE_M1 c.val) < v.toNat)
    ∧ (∃ (s : State) (off : Nat), off % 4 = 0 ∧ 0x30000 ≤ off ∧ off < 0x40000 ∧ s.lands off = true)
    ∧ (∃ (s : State) (off : Nat), off % 4 = 0 ∧ 0x30000 ≤ off ∧ off < 0x40000 ∧ s.lands off = true)
    ∧ (∃ (s : State) (off : Nat), off % 4 = 0 ∧ 0x80000 ≤ off ∧ off < 0x90000 ∧ s.lands off = true)
    ∧ (∃ (s : State) (off : Nat), off % 4 = 0 ∧ 0x80000 ≤ off ∧ off < 0x90000 ∧ s.lands off = true)
    ∧ (∃ (s : State) (off : Nat) (be : Nat), off % 4 = 0 ∧ off < 0x120000 ∧ be % 16 ≠ 15 ∧ s.lands off = true)
    ∧ (∃ (off : Nat), off % 4 = 0 ∧ off < 0x400000 ∧ inBlock off = false)
    ∧ (∃ (s : State) (off : Nat), off % 4 = 0 ∧ off < 0x400000 ∧ inBlock off = true ∧ islandOf off ∈ s.sys.retired)
    ∧ (∃ (s : State) (off : Nat), off % 4 = 0 ∧ off < 0x400000 ∧ inBlock off = true ∧ islandOf off ∉ s.sys.retired
        ∧ islandOf off ∈ s.sys.inReset ∨ s.queuedAt off = true)
    ∧ (∃ (off : Nat), off % 4 ≠ 0 ∨ 0x401000 ≤ off)
    ∧ (∃ (off : Nat), off % 4 ≠ 0 ∨ 0x401000 ≤ off) :=
  ⟨⟨st up, by decide +kernel⟩,
   ⟨st up, 1, by decide +kernel⟩,
   ⟨st (up ++ [(Reg.CCH_EVENT_CE, 1), (Reg.CCH_EVENT_UE, 1)]), 1, by decide +kernel⟩,
   ⟨st up, 3, by decide +kernel⟩,
   ⟨st (up ++ [(Reg.STP_CTRL_LOCK, 1)]), 3, 0, by decide +kernel⟩,
   ⟨st (up ++ arr), 0, 7, by decide +kernel⟩,
   ⟨st (up ++ [(Reg.DMA_CH_CFG_SIZE_M1 15, 7)]), 15, 7, by decide +kernel⟩,
   ⟨st (up ++ [(Reg.DMA_CH_CFG_SIZE_M1 15, 7)]), 15, 8, by decide +kernel⟩,
   ⟨st up, 0x30000, by decide +kernel⟩,
   ⟨st up, 0x3FFFC, by decide +kernel⟩,
   ⟨st up, 0x80000, by decide +kernel⟩,
   ⟨st up, 0x8FFFC, by decide +kernel⟩,
   ⟨st up, 0x20000, 7, by decide +kernel⟩,
   ⟨0x3FFFFC, by decide +kernel⟩,
   ⟨st up (onSys (fun x => { x with retired := [islandOf 0x48000] })), 0x48000, by decide +kernel⟩,
   ⟨st up (onSys (fun x => { x with inReset := [islandOf 0x10000] })), 0x10000, by decide +kernel⟩,
   ⟨0x10001, by decide +kernel⟩,
   ⟨0x401000, by decide +kernel⟩⟩

theorem witness_StepOnEmptyQueue :
    (∃ (s : State) (off : _) (c : _) (rest : _), s.pending = [] ∧ s.waiting = (off, c) :: rest ∧ islandOf off ∉ s.sys.inReset)
    ∧ (∃ (s : State), s.pending = [] ∧ (∀ x ∈ s.waiting, islandOf x.1 ∈ s.sys.inReset) ∧ s.sys.hbDue = true)
    ∧ (∃ (s : State), s.pending = [] ∧ (∀ x ∈ s.waiting, islandOf x.1 ∈ s.sys.inReset) ∧ s.sys.hbDue = false ∧ s.sys.loopDue = true
        ∧ s.sys.firmwareUp = true)
    ∧ (∃ (s : State), s.pending = [] ∧ (∀ x ∈ s.waiting, islandOf x.1 ∈ s.sys.inReset) ∧ s.sys.hbDue = false
        ∧ s.sys.loopDue = false ∨ s.sys.firmwareUp = false) :=
  ⟨⟨st up (fun s => { s with waiting := [(0x10000, .consoleDump)] }), 0x10000, .consoleDump, [], by decide +kernel⟩,
   ⟨st up (onSys (fun x => { x with hbDue := true })), by decide +kernel⟩,
   ⟨st up (onSys (fun x => { x with loopDue := true, firmwareUp := true })), by decide +kernel⟩,
   ⟨st up, by decide +kernel⟩⟩

theorem witness_SettleQuiet :
    (∃ (s : State), s.quiet = true) :=
  ⟨st up, by decide +kernel⟩

theorem witness_CompletionEntry :
    (∃ (s : State) (n : Nat) (status : Nat) (result : Nat) (c : Cmd) (p : Pair), s.cmd? n = some c ∧ s.masters = true ∧ s.pair? c.e.qid = some p
        ∧ p.cqFull = false ∧ result < 2 ^ 32 ∧ p.sqHead < 2 ^ 12 ∧ c.e.qid < 2 ^ 16 ∧ c.e.cid < 2 ^ 16 ∧ status < 2 ^ 16 ∧ p.phase ≤ 1) :=
  ⟨st up (fun s => onQmx (fun x => { x with pairs := [(1, { sizeM1 := 15 })] }) (onHif (fun h => { h with busMaster := true, up := true }) (cmdOf1 { e := ent 1 0x20, begun := true } s))), 9, 0, 5, { e := ent 1 0x20, begun := true }, { sizeM1 := 15 }, by decide +kernel⟩

theorem witness_CoefficientAccess :
    (∃ (s : State), s.lands 0x40084 = true)
    ∧ (∃ (s : State), s.lands 0x40084 = true) :=
  ⟨⟨st [(Reg.OXE_COEF_ADDR_ADDR, 131071)], by decide +kernel⟩,
   ⟨st [(Reg.OXE_COEF_ADDR_ADDR, 7)], by decide +kernel⟩⟩

theorem witness_MailboxRecall :
    (∃ (s : State) (m : Fin 64) (r : Requester), s.lands (0x90014 + 0x20 * m.val) = true ∧ hostKept m.val r = false ∧ ownerOf r ≠ 0
        ∧ s.boxSender m.val = ownerOf r)
    ∧ (∃ (s : State) (m : Fin 64) (r : Requester), s.lands (0x90014 + 0x20 * m.val) = true ∧ hostKept m.val r = false ∧ ownerOf r ≠ 0
        ∧ s.boxSender m.val = ownerOf r)
    ∧ (∃ (s : State) (m : Fin 64) (r : Requester), s.lands (0x9000C + 0x20 * m.val) = true ∧ hostKept m.val r = false
        ∧ s.boxRefuses m.val r = false) :=
  ⟨⟨st (up ++ [(Reg.MBX_BOX_CFG_SENDER 3, 1), (Reg.MBX_BOX_CFG_RECEIVER 3, 2)] ++ [(Reg.MBX_BOX_STATUS_FULL 3, 1)]), 3, .core 0, by decide +kernel⟩,
   ⟨st (up ++ [(Reg.MBX_BOX_CFG_SENDER 3, 1), (Reg.MBX_BOX_STATUS_RECALLED 3, 1)]), 3, .core 0, by decide +kernel⟩,
   ⟨st (up ++ [(Reg.MBX_BOX_CFG_SENDER 3, 1), (Reg.MBX_BOX_STATUS_RECALLED 3, 1)]), 3, .core 0, by decide +kernel⟩⟩

theorem witness_SwapOrder :
    (∃ (mode : Nat) (l : List Nat) (i : Nat), mode < 6 ∧ l.length % swapGroup mode = 0 ∧ i < l.length)
    ∧ (∃ (mode : Nat) (l : List Nat) (i : Nat), mode < 6 ∧ l.length % swapGroup mode = 0 ∧ i < l.length) :=
  ⟨⟨5, [0x11, 0x22, 0x33, 0x44, 0x55, 0x66, 0x77, 0x88], 2, by decide +kernel⟩,
   ⟨4, [0x11, 0x22, 0x33, 0x44, 0x55, 0x66, 0x77, 0x88], 7, by decide +kernel⟩⟩

theorem witness_MemberIndex :
    (∃ (s : State) (n : Fin 4) (k : _) (i : _), (∀ x, x < k → x ∈ (s.geo n.val).slots) ∧ i < k) :=
  ⟨st arr, 0, 4, 3, by decide +kernel⟩

end Sys2Proof.Tests
end

section
/-! The roles of members as rows rotate (R46 to R48): turning a place forward and back, and the obligations on placement. -/

open Sys2Proof

namespace Sys2Proof.Machine

/-! Rotation by a number of places -/

/-- A place that was turned forward by `b` is turned back by `c - b`, where `c` is whole turns. -/
theorem add_mod_turned_back {n b c j : Nat} (hj : j < n) (hc : n ∣ c) (hb : b ≤ c) : ((b + j) % n + (c - b)) % n = j := by
  obtain ⟨t, rfl⟩ := hc
  rw [Nat.mod_add_mod, show b + j + (n * t - b) = j + n * t by omega, Nat.add_mul_mod_self_left, Nat.mod_eq_of_lt hj]

/-- A turn by more than none and less than a whole one moves every place. -/
theorem add_mod_ne_mod {n a : Nat} (p : Nat) (h0 : 0 < a) (ha : a < n) : (p + a) % n ≠ p % n := by
  intro h
  have h0a : a ≡ 0 [MOD n] := Nat.ModEq.add_left_cancel' p h
  exact h0.ne' (h0a.eq_of_lt_of_lt ha (by omega))

theorem add_mod_ne_self {n a p : Nat} (hp : p < n) (h0 : 0 < a) (ha : a < n) : (p + a) % n ≠ p := by
  simpa only [Nat.mod_eq_of_lt hp] using add_mod_ne_mod p h0 ha

/-! Layouts 0, 1 and 3 -/

section Placement
variable {g : Geo} {row : Nat}

/-- What a row makes of position `q` of local group `k`. -/
theorem Geo.role_local (hl : g.layout ≠ 2) {k q : Nat} (hk : k < g.groups) (hq : q < g.m) :
    g.role row (g.m * k + q)
      = if q = row % g.m then .par k else .data (g.dpg * k + (q + g.m - row % g.m - 1) % g.m) := by
  have hlt : g.m * k + q < g.groups * g.m := calc
    g.m * k + q < g.m * (k + 1) := by rw [Nat.mul_succ]; omega
    _ ≤ g.groups * g.m := by rw [Nat.mul_comm]; exact Nat.mul_le_mul_right _ hk
  have hmod : (g.m * k + q) % g.m = q := by rw [Nat.mul_add_mod, Nat.mod_eq_of_lt hq]
  have hdiv : (g.m * k + q) / g.m = k := by
    rw [Nat.mul_add_div (by omega), Nat.div_eq_of_lt hq, Nat.add_zero]
  simp only [Geo.role, if_neg hl, if_pos hlt, hmod, hdiv]

theorem Geo.role_memberOf_par (hl : g.layout ≠ 2) {k : Nat} (hk : k < g.groups) :
    g.role row (g.memberOf row (.par k)) = .par k := by
  rw [Geo.memberOf, if_neg hl, Geo.role_local hl hk (Nat.mod_lt _ (Nat.succ_pos _)), if_pos rfl]

theorem Geo.role_memberOf_data (hl : g.layout ≠ 2) (hd : 1 ≤ g.dpg) {d : Nat} (h : d < g.groups * g.dpg) :
    g.role row (g.memberOf row (.data d)) = .data d := by
  have hm : g.m = g.dpg + 1 := rfl
  have hp : row % g.m < g.m := Nat.mod_lt _ (Nat.succ_pos _)
  have hr : d % g.dpg < g.dpg := Nat.mod_lt _ hd
  have hk : d / g.dpg < g.groups := (Nat.div_lt_iff_lt_mul hd).mpr h
  have hq : (row % g.m + 1 + d % g.dpg) % g.m < g.m := Nat.mod_lt _ (Nat.succ_pos _)
  have hne : (row % g.m + 1 + d % g.dpg) % g.m ≠ row % g.m := by
    rw [Nat.add_assoc]
    exact add_mod_ne_self hp (by omega) (by omega)
  have hback : ((row % g.m + 1 + d % g.dpg) % g.m + g.m - row % g.m - 1) % g.m = d % g.dpg := by
    rw [Nat.sub_sub, Nat.add_sub_assoc hp]
    exact add_mod_turned_back (by omega) (dvd_refl _) hp
  rw [Geo.memberOf, if_neg hl, Geo.role_local hl hk hq, if_neg hne, hback, Nat.div_add_mod]

theorem Geo.role_memberOf_glob (hl : g.layout ≠ 2) (i : Nat) : g.role row (g.memberOf row (.glob i)) = .glob i := by
  simp [Geo.role, Geo.memberOf, hl]

/-! L-GEN1 -/

/-- The place of P in a row of an L-GEN1 array (R48). -/
def Geo.gen1P (g : Geo) (row : Nat) : Nat := g.members - 1 - row % g.members

theorem Geo.members_gen1 (hl : g.layout = 2) : g.members = g.dpg + 2 := if_pos hl

theorem Geo.gen1P_lt (hl : g.layout = 2) : g.gen1P row < g.members := by
  have := g.members_gen1 hl
  unfold Geo.gen1P; omega

theorem Geo.memberOf_gen1_par (hl : g.layout = 2) (k : Nat) : g.memberOf row (.par k) = g.gen1P row := if_pos hl

theorem Geo.memberOf_gen1_glob (hl : g.layout = 2) (i : Nat) :
    g.memberOf row (.glob i) = (g.gen1P row + 1) % g.members := if_pos hl

theorem Geo.memberOf_gen1_data (hl : g.layout = 2) (j : Nat) :
    g.memberOf row (.data j) = (g.gen1P row + 2 + j) % g.members := if_pos hl

/-- What a row of an L-GEN1 array makes of a member. -/
theorem Geo.role_gen1 (hl : g.layout = 2) (i : Nat) :
    g.role row i = if i = g.gen1P row then .par 0 else if i = (g.gen1P row + 1) % g.members then .glob 0
      else .data ((i + 2 * g.members - g.gen1P row - 2) % g.members) := if_pos hl

theorem Geo.role_gen1_glob (hl : g.layout = 2) : g.role row ((g.gen1P row + 1) % g.members) = .glob 0 := by
  have hn := g.members_gen1 hl
  rw [Geo.role_gen1 hl, if_neg (add_mod_ne_self (g.gen1P_lt hl) Nat.one_pos (by omega)), if_pos rfl]

theorem Geo.role_gen1_data (hl : g.layout = 2) {j : Nat} (hj : j < g.dpg) :
    g.role row ((g.gen1P row + 2 + j) % g.members) = .data j := by
  have hn := g.members_gen1 hl
  have hp := g.gen1P_lt (row := row) hl
  have hneP : (g.gen1P row + 2 + j) % g.members ≠ g.gen1P row := by
    rw [Nat.add_assoc]
    exact add_mod_ne_self hp (by omega) (by omega)
  have hneQ : (g.gen1P row + 2 + j) % g.members ≠ (g.gen1P row + 1) % g.members := by
    rw [show g.gen1P row + 2 + j = g.gen1P row + 1 + (1 + j) by omega]
    exact add_mod_ne_mod _ (by omega) (by omega)
  have hback : ((g.gen1P row + 2 + j) % g.members + 2 * g.members - g.gen1P row - 2) % g.members = j := by
    rw [Nat.sub_sub, Nat.add_sub_assoc (by omega)]
    exact add_mod_turned_back (by omega) (Dvd.intro_left _ rfl) (by omega)
  rw [Geo.role_gen1 hl, if_neg hneP, if_neg hneQ, hback]

end Placement

/-- Settles O6: a member's position in its local group and the row give back the role it was placed for. -/
theorem layeredPlacement : Obligations.LayeredPlacement := by
  intro g row hl hd
  refine ⟨fun k hk => ⟨if_neg hl, g.role_memberOf_par hl hk⟩,
    fun d h => ⟨if_neg hl, g.role_memberOf_data hl hd h⟩, fun i => ⟨?_, g.role_memberOf_glob hl i⟩⟩
  rw [Nat.mul_comm g.m]; exact if_neg hl

/-- Settles O7: P, Q and the data members follow one another around the N members, so no place is met twice. -/
theorem gen1Placement : Obligations.Gen1Placement := by
  intro g row hl _
  refine ⟨g.members_gen1 hl, g.memberOf_gen1_par hl 0, ?_, g.memberOf_gen1_glob hl 0, g.role_gen1_glob hl,
    fun j hj => ⟨g.memberOf_gen1_data hl j, g.role_gen1_data hl hj⟩⟩
  exact (g.role_gen1 hl _).trans (if_pos rfl)

end Sys2Proof.Machine
end

section
/-! Member indices (R45): ranks in a rising list, and slot maps as rising lists of slots. -/

open Sys2Proof

namespace Sys2Proof.Machine

/-! Ranks in a rising list -/

/-- In a rising list, the index of an element is the number of elements below it. -/
theorem idxOf_eq_length_filter_lt {l : List Nat} (hl : l.SortedLT) {x : Nat} (hx : x ∈ l) :
    l.idxOf x = (l.filter (fun y => decide (y < x))).length := by
  induction l with
  | nil => exact absurd hx List.not_mem_nil
  | cons a t ih =>
    obtain ⟨ha, ht⟩ := List.pairwise_cons.mp hl.pairwise
    rcases List.mem_cons.mp hx with rfl | hxt
    · have hnone : t.filter (fun y => decide (y < x)) = [] := by
        simpa using fun y hy => (ha y hy).le
      simp [hnone]
    · have hax : a < x := ha x hxt
      simp [List.idxOf_cons_ne _ hax.ne, hax, ih ht.sortedLT hxt]

theorem getD_idxOf {l : List Nat} {x : Nat} (hx : x ∈ l) : l.getD (l.idxOf x) 0 = x := by
  rw [List.getD_eq_getElem?_getD, List.getElem?_idxOf hx, Option.getD_some]

/-- A rising list that holds every number below `k` begins with them. -/
theorem getD_eq_self_of_holds_below {l : List Nat} (hl : l.SortedLT) {k : Nat} (hk : ∀ x, x < k → x ∈ l) {i : Nat} (hi : i < k) :
    l.getD i 0 = i := by
  have hmem : i ∈ l := hk i hi
  have hbelow : l.filter (fun y => decide (y < i)) = List.range i := by
    refine List.SortedLT.eq_of_mem_iff (hl.pairwise.filter _).sortedLT List.pairwise_lt_range.sortedLT fun x => ?_
    simpa using fun hx : x < i => hk x (hx.trans hi)
  have hidx : l.idxOf i = i := by rw [idxOf_eq_length_filter_lt hl hmem, hbelow, List.length_range]
  calc l.getD i 0 = l.getD (l.idxOf i) 0 := by rw [hidx]
    _ = i := getD_idxOf hmem

/-! Slots of a slot map -/

theorem slotsOf_eq_filter (w base n : Nat) :
    slotsOf w base n = (List.range' base n).filter (fun x => bitOf w (x - base) == 1) := by
  induction n with
  | zero => rfl
  | succ n ih =>
    rw [slotsOf, ih, List.range'_1_concat, List.filter_append]
    by_cases h : bitOf w n = 1 <;> simp [h]

/-- The slots whose bits four registers hold, 32 to a register (R45). -/
theorem State.slotBits_eq_filter (s : State) (f : Nat → Field) :
    s.slotBits f = (List.range 108).filter (fun x => bitOf (s.get (f (x / 32))) (x % 32) == 1) := by
  have hreg (k n : Nat) (hn : n ≤ 32) : slotsOf (s.get (f k)) (32 * k) n
      = (List.range' (32 * k) n).filter (fun x => bitOf (s.get (f (x / 32))) (x % 32) == 1) := by
    rw [slotsOf_eq_filter]
    refine List.filter_congr fun x hx => ?_
    rw [List.mem_range'_1] at hx
    rw [show x / 32 = k by omega, show x % 32 = x - 32 * k by omega]
  have hrange : List.range 108 = List.range' (32 * 0) 32 ++ List.range' (32 * 1) 32 ++ List.range' (32 * 2) 32
      ++ List.range' (32 * 3) 12 := by decide
  rw [hrange, List.filter_append, List.filter_append, List.filter_append, ← hreg 0 32 (by omega), ← hreg 1 32 (by omega),
    ← hreg 2 32 (by omega), ← hreg 3 12 (by omega)]
  rfl

theorem State.mem_slotBits {s : State} {f : Nat → Field} {x : Nat} :
    x ∈ s.slotBits f ↔ x < 108 ∧ bitOf (s.get (f (x / 32))) (x % 32) = 1 := by
  simp [State.slotBits_eq_filter]

theorem State.slotBits_sortedLT (s : State) (f : Nat → Field) : (s.slotBits f).SortedLT := by
  rw [State.slotBits_eq_filter]
  exact (List.pairwise_lt_range.filter _).sortedLT

theorem Geo.slotOf_indexOf {g : Geo} {x : Nat} (hx : x ∈ g.slots) : g.slotOf (g.indexOf x) = x := getD_idxOf hx

/-- Settles O60: a slot map's slots stand in rising order, so a slot's index among them is its rank. -/
theorem memberIndex : Obligations.MemberIndex := by
  intro s n g
  have hrise : g.slots.SortedLT := s.slotBits_sortedLT _
  exact ⟨fun x => s.mem_slotBits, fun x hx => ⟨idxOf_eq_length_filter_lt hrise hx, g.slotOf_indexOf hx⟩,
    fun k hk i hi => getD_eq_self_of_holds_below hrise hk hi⟩

end Sys2Proof.Machine
end

section
/-! VALID of an array written (R71): the checks, what a write leaves, and the obligation on it. -/

open Sys2Proof

namespace Sys2Proof.Machine

/-! The checks of R71 -/

/-- The checks of R71 as one proposition, in the order of the rule. -/
def State.ArrayChecks (s : State) (n : Nat) : Prop :=
  let g := s.geo n
  (g.layout = 2 → 4 ≤ g.members ∧ g.members ≤ 72)
  ∧ (g.layout = 3 → 2 ≤ g.dpg ∧ g.dpg ≤ 12 ∧ g.globals ≤ 8 ∧ g.members ≤ 108)
  ∧ 14 ≤ g.shift ∧ g.shift ≤ 20
  ∧ (s.on (Reg.STP_ARRAY_CFG_GEN1 n) = true ↔ g.layout = 2)
  ∧ g.slots.length = g.members
  ∧ (∀ k, k < 4 → k ≠ n → s.on (Reg.STP_ARRAY_CFG_VALID k) = true → ∀ x ∈ g.allSlots, x ∉ (s.geo k).allSlots)
  ∧ g.rows ≠ 0
  ∧ s.get (Reg.STP_ARRAY_HDR_HDR_MIB n) ≠ 0 ∧ s.get (Reg.STP_ARRAY_HDR_HDR_MIB n) % 2 = 0
  ∧ (s.on Reg.SYS_STRAP_COMPAT = true → g.layout = 2)

theorem State.mem_validArrays {s : State} {k : Nat} :
    k ∈ s.validArrays ↔ k < 4 ∧ s.on (Reg.STP_ARRAY_CFG_VALID k) = true := by
  have h4 : k ∈ [0, 1, 2, 3] ↔ k < 4 := List.mem_range (n := 4)
  rw [State.validArrays, List.mem_filter, h4]

/-- No slot of an array belongs to another valid array (R40). -/
theorem State.no_slot_taken_iff {s : State} {n : Nat} {l : List Nat} :
    l.any (s.slotsTaken (some n)) = false
      ↔ ∀ k, k < 4 → k ≠ n → s.on (Reg.STP_ARRAY_CFG_VALID k) = true → ∀ x ∈ l, x ∉ (s.geo k).allSlots := by
  simp only [List.any_eq_false, State.slotsTaken, List.any_eq_true, State.mem_validArrays, Bool.and_eq_true, bne_iff_ne,
    Option.some_inj, ne_eq, List.contains_iff_mem, not_exists, not_and, and_imp]
  exact ⟨fun h k hk hne hv x hx => h x hx k hk hv hne, fun h x hx k hk hv hne => h k hk hne hv x hx⟩

theorem State.arrayOk_iff {s : State} {n : Nat} : s.arrayOk n = true ↔ s.ArrayChecks n := by
  have hgen1 : (s.on (Reg.STP_ARRAY_CFG_GEN1 n) == ((s.geo n).layout == 2)) = true
      ↔ (s.on (Reg.STP_ARRAY_CFG_GEN1 n) = true ↔ (s.geo n).layout = 2) := by
    rw [beq_iff_eq, Bool.eq_iff_iff, beq_iff_eq]
  have hstrap : (!s.on Reg.SYS_STRAP_COMPAT || (s.geo n).layout == 2) = true
      ↔ (s.on Reg.SYS_STRAP_COMPAT = true → (s.geo n).layout = 2) := by
    cases s.on Reg.SYS_STRAP_COMPAT <;> simp
  simp only [State.arrayOk, State.ArrayChecks, Bool.and_eq_true, hgen1, hstrap, Bool.not_eq_true', State.no_slot_taken_iff,
    decide_eq_true_eq, beq_iff_eq, bne_iff_ne, and_assoc]
  by_cases h2 : (s.geo n).layout = 2
  · simp [h2, and_assoc]
  · by_cases h3 : (s.geo n).layout = 3 <;> simp [h2, h3, and_assoc]

/-! What a write of VALID leaves -/

/-- VALID and CFG_ERR of an array set. -/
def setArrayValid (n valid err : Nat) (s : State) : State :=
  setF (Reg.STP_ARRAY_CFG_CFG_ERR n) err (setF (Reg.STP_ARRAY_CFG_VALID n) valid s)

/-- The fields that a write of VALID may change. -/
def arrayValidFields (n : Nat) : List Field := [Reg.STP_ARRAY_CFG_VALID n, Reg.STP_ARRAY_CFG_CFG_ERR n]

theorem get_cfgErr_setCfgErr (n : Nat) {e : Nat} (he : e < 2) (s : State) :
    (setF (Reg.STP_ARRAY_CFG_CFG_ERR n) e s).get (Reg.STP_ARRAY_CFG_CFG_ERR n) = e :=
  (get_setF_self _ _ _).trans (Nat.mod_eq_of_lt he)

theorem get_valid_setCfgErr (n e : Nat) (s : State) :
    (setF (Reg.STP_ARRAY_CFG_CFG_ERR n) e s).get (Reg.STP_ARRAY_CFG_VALID n) = s.get (Reg.STP_ARRAY_CFG_VALID n) := by
  refine get_setF_ne _ _ _ _ ?_
  simp only [Field.key, Reg.STP_ARRAY_CFG_CFG_ERR, Reg.STP_ARRAY_CFG_VALID]; omega

theorem get_setArrayValid (n : Nat) {v e : Nat} (hv : v < 2) (he : e < 2) (s : State) :
    (setArrayValid n v e s).get (Reg.STP_ARRAY_CFG_VALID n) = v
      ∧ (setArrayValid n v e s).get (Reg.STP_ARRAY_CFG_CFG_ERR n) = e :=
  ⟨(get_valid_setCfgErr n e _).trans ((get_setF_self _ _ _).trans (Nat.mod_eq_of_lt hv)), get_cfgErr_setCfgErr n he _⟩

theorem keeps_setCfgErr {n e : Nat} {s t : State} (h : Keeps (arrayValidFields n) s t) :
    Keeps (arrayValidFields n) s (setF (Reg.STP_ARRAY_CFG_CFG_ERR n) e t) :=
  h.setF _ _ (by simp [arrayValidFields])

theorem keeps_setArrayValid {n v e : Nat} {s : State} : Keeps (arrayValidFields n) s (setArrayValid n v e s) :=
  keeps_setCfgErr ((Keeps.refl _ s).setF _ _ (by simp [arrayValidFields]))

/-- A write of 1: the checks decide. -/
theorem writeArrayValid_true (n : Nat) (s : State) :
    (s.ArrayChecks n → writeArrayValid n true s = setArrayValid n 1 0 s)
      ∧ (¬ s.ArrayChecks n → writeArrayValid n true s = setArrayValid n 0 1 s) := by
  rw [← State.arrayOk_iff]
  exact ⟨fun h => if_pos h, fun h => if_neg h⟩

/-- A write of 0: a valid volume of the array refuses it. -/
theorem writeArrayValid_false (n : Nat) (s : State) :
    (s.hasVolume n = true → writeArrayValid n false s = setF (Reg.STP_ARRAY_CFG_CFG_ERR n) 1 s)
      ∧ (s.hasVolume n = false → writeArrayValid n false s = setArrayValid n 0 0 s) :=
  ⟨fun h => by simp [writeArrayValid, h], fun h => by simp [writeArrayValid, setArrayValid, h]⟩

theorem writeArrayValid_keeps (n : Nat) (v : Bool) (s : State) : Keeps (arrayValidFields n) s (writeArrayValid n v s) := by
  cases v with
  | true =>
    by_cases h : s.ArrayChecks n
    · rw [(writeArrayValid_true n s).1 h]; exact keeps_setArrayValid
    · rw [(writeArrayValid_true n s).2 h]; exact keeps_setArrayValid
  | false =>
    cases h : s.hasVolume n with
    | true => rw [(writeArrayValid_false n s).1 h]; exact keeps_setCfgErr (Keeps.refl _ s)
    | false => rw [(writeArrayValid_false n s).2 h]; exact keeps_setArrayValid

/-- An access that lands leaves what the write makes of the state with the island's clock running. -/
theorem exec_arrayValidWrite_of_lands {s : State} {n : Fin 4} (v : Bool) (h : s.lands (0x30100 + 0x40 * n.val) = true) :
    exec (.arrayValidWrite n v) s = .next (writeArrayValid n.val v (ungate (islandOf (0x30100 + 0x40 * n.val)) s)) := by
  rw [exec_arrayValidWrite, execArrayValidWrite, land_eq h]

/-- Settles O4: `arrayOk` is the conjunction of R71's checks, and the write sets VALID and CFG_ERR alone. -/
theorem arrayValidity : Obligations.ArrayValidity := by
  intro s n hland
  refine ⟨⟨_, exec_arrayValidWrite_of_lands true hland, fun hc => ?_, fun hc => ?_, writeArrayValid_keeps _ _ _⟩,
    ⟨_, exec_arrayValidWrite_of_lands false hland, fun hv => ?_, fun hv => ?_, writeArrayValid_keeps _ _ _⟩⟩
  · rw [(writeArrayValid_true n.val (ungate _ s)).1 hc]; exact get_setArrayValid _ (by decide) (by decide) _
  · rw [(writeArrayValid_true n.val (ungate _ s)).2 hc]; exact get_setArrayValid _ (by decide) (by decide) _
  · rw [(writeArrayValid_false n.val (ungate _ s)).1 hv]
    exact ⟨get_valid_setCfgErr _ _ _, get_cfgErr_setCfgErr _ (by decide) _⟩
  · rw [(writeArrayValid_false n.val (ungate _ s)).2 hv]; exact get_setArrayValid _ (by decide) (by decide) _

end Sys2Proof.Machine
end

section
/-! The coefficient RAM's DATA (R83): what an entry written leaves, what an access makes of the state, and the obligation on it. -/

open Sys2Proof

namespace Sys2Proof.Machine

/-! An entry written -/

@[simp] theorem writeCoef_regs (k v : Nat) (s : State) : (writeCoef k v s).regs = s.regs := rfl
@[simp] theorem writeCoef_mem (k v : Nat) (s : State) : (writeCoef k v s).mem = s.mem := rfl

/-- What an entry of the RAM reads after entry `k` is written; it keeps 16 bits. -/
theorem getD_coef_writeCoef (k v j : Nat) (s : State) :
    Assoc.getD (writeCoef k v s).oxe.coef j 0 = if k = j then v % 65536 else Assoc.getD s.oxe.coef j 0 :=
  Assoc.getD_put _ _ _ _ _

theorem getD_coef_writeCoef_self (k v : Nat) (s : State) : Assoc.getD (writeCoef k v s).oxe.coef k 0 = v % 65536 :=
  (getD_coef_writeCoef k v k s).trans (if_pos rfl)

theorem getD_coef_writeCoef_ne {k j : Nat} (v : Nat) (s : State) (h : k ≠ j) :
    Assoc.getD (writeCoef k v s).oxe.coef j 0 = Assoc.getD s.oxe.coef j 0 :=
  (getD_coef_writeCoef k v j s).trans (if_neg h)

/-! Two entries written from one word -/

/-- Bits [15:0] of a word written to entry `k` and bits [31:16] to the next entry. -/
def writeCoefPair (k : Nat) (v : Word) (s : State) : State := writeCoef (k + 1) (v.toNat / 65536) (writeCoef k v.toNat s)

theorem getD_coef_writeCoefPair_low (k : Nat) (v : Word) (s : State) :
    Assoc.getD (writeCoefPair k v s).oxe.coef k 0 = v.toNat % 65536 :=
  (getD_coef_writeCoef_ne _ _ k.succ_ne_self).trans (getD_coef_writeCoef_self _ _ _)

theorem getD_coef_writeCoefPair_high (k : Nat) (v : Word) (s : State) :
    Assoc.getD (writeCoefPair k v s).oxe.coef (k + 1) 0 = v.toNat / 65536 := by
  have hfits : v.toNat / 65536 < 65536 := Nat.div_lt_of_lt_mul v.isLt
  rw [writeCoefPair, getD_coef_writeCoef_self, Nat.mod_eq_of_lt hfits]

theorem getD_coef_writeCoefPair_ne {k j : Nat} (v : Word) (s : State) (hlow : j ≠ k) (hhigh : j ≠ k + 1) :
    Assoc.getD (writeCoefPair k v s).oxe.coef j 0 = Assoc.getD s.oxe.coef j 0 :=
  (getD_coef_writeCoef_ne _ _ hhigh.symm).trans (getD_coef_writeCoef_ne _ _ hlow.symm)

/-! An access that lands -/

/-- ADDR moved on to the next word of two entries, in the state `t` that a transfer made of `s`. -/
def advanceCoefAddr (s t : State) : State := setF Reg.OXE_COEF_ADDR_ADDR (s.get Reg.OXE_COEF_ADDR_ADDR + 1) t

theorem get_addr_advanceCoefAddr (s t : State) :
    (advanceCoefAddr s t).get Reg.OXE_COEF_ADDR_ADDR = (s.get Reg.OXE_COEF_ADDR_ADDR + 1) % 2 ^ 17 :=
  get_setF_self _ _ _

/-- A transfer changes no register and no memory, so ADDR is the only field that an access changes. -/
theorem keeps_advanceCoefAddr {s t : State} (hr : t.regs = s.regs) (hm : t.mem = s.mem) :
    Keeps [Reg.OXE_COEF_ADDR_ADDR] s (advanceCoefAddr s t) :=
  ((Keeps.refl _ s).of_eq hr hm).setF _ _ (by simp)

theorem exec_coefDataWrite_of_lands {s : State} (v : Word) (h : s.lands 0x40084 = true) :
    exec (.coefDataAccess (some v)) s
      = .next (advanceCoefAddr s (writeCoefPair (2 * s.get Reg.OXE_COEF_ADDR_ADDR) v (ungate (islandOf 0x40084) s))) := by
  rw [exec_coefDataAccess, execCoefDataAccess, land_eq h]; rfl

theorem exec_coefDataRead_of_lands {s : State} (h : s.lands 0x40084 = true) :
    exec (.coefDataAccess none) s
      = .next (advanceCoefAddr s (emit (.readValue (Assoc.getD s.oxe.coef (2 * s.get Reg.OXE_COEF_ADDR_ADDR) 0
          + 65536 * Assoc.getD s.oxe.coef (2 * s.get Reg.OXE_COEF_ADDR_ADDR + 1) 0)) (ungate (islandOf 0x40084) s))) := by
  rw [exec_coefDataAccess, execCoefDataAccess, land_eq h]; rfl

/-- Settles O57: a write puts its halves under ADDR's entry and the next one, a read hands both out and leaves the engines' state as it
is, and either moves ADDR on. -/
theorem coefficientAccess : Obligations.CoefficientAccess := by
  intro s w hland
  cases w with
  | none =>
    exact ⟨_, exec_coefDataRead_of_lands hland, get_addr_advanceCoefAddr _ _, nofun, fun _ _ _ => rfl, fun _ => ⟨rfl, rfl⟩,
      keeps_advanceCoefAddr rfl rfl⟩
  | some v =>
    refine ⟨_, exec_coefDataWrite_of_lands v hland, get_addr_advanceCoefAddr _ _, ?_,
      fun k hlow hhigh => getD_coef_writeCoefPair_ne v _ hlow hhigh, nofun, keeps_advanceCoefAddr rfl rfl⟩
    rintro _ ⟨rfl⟩
    exact ⟨getD_coef_writeCoefPair_low _ _ _, getD_coef_writeCoefPair_high _ _ _⟩

end Sys2Proof.Machine
end

section
/-! A completion entry (R213): its 16 bytes, the write that carries it and what follows that write, and the obligation on it. -/

open Sys2Proof

namespace Sys2Proof.Machine

/-! What has been sent out stays in the trace (log entry 2) -/

@[simp] theorem bump_out (f : Field) (s : State) : (bump f s).out = s.out := rfl
@[simp] theorem event_out (flag cnt : Field) (s : State) : (event flag cnt s).out = s.out := rfl

theorem when_bump_out (c : Bool) (f : Field) (s : State) : (when c (bump f) s).out = s.out := by
  cases c with
  | false => rfl
  | true => rfl

theorem out_suffix_emit (o : Out) (s : State) : s.out <:+ (emit o s).out := List.suffix_cons o s.out

theorem out_suffix_when (c : Bool) {f : State → State} {s : State} (h : s.out <:+ (f s).out) : s.out <:+ (when c f s).out := by
  cases c with
  | false => exact List.suffix_rfl
  | true => exact h

theorem out_suffix_forEach {α : Type} (l : List α) {f : α → State → State} (h : ∀ x s, s.out <:+ (f x s).out) (s : State) :
    s.out <:+ (forEach l f s).out := by
  induction l generalizing s with
  | nil => exact List.suffix_rfl
  | cons x l ih => exact (h x s).trans (ih (f x s))

theorem out_suffix_postHost (a : Nat) (bytes : List Nat) (s : State) : s.out <:+ (postHost a bytes s).out :=
  out_suffix_forEach _ (fun _ t => out_suffix_emit _ t) s

theorem owe_out (q v : Nat) (s : State) : (owe q v s).out = s.out := by
  unfold owe; split <;> rfl

theorem out_suffix_sendMsix (v : Nat) (s : State) : s.out <:+ (sendMsix v s).out := by
  unfold sendMsix
  split_ifs
  · exact List.suffix_rfl
  · exact List.suffix_rfl
  · exact List.suffix_rfl
  · exact out_suffix_emit _ s

/-- The line about to be asserted (R283): the pending set announced, its bitmap written, the assertion counted. -/
def lineAnnounced (s : State) : State :=
  let addr := s.get64 Reg.HIF_INTX_BITMAP_LO_ADDR Reg.HIF_INTX_BITMAP_HI_ADDR
  bump Reg.HIF_INTX_ASSERT_CNT (setF Reg.HIF_IRQ_CTRL_ASSERTED 1
    (when (addr != 0) (postHost addr (summaryBitmap s.hif.pend)) { s with hif := { s.hif with announced := s.hif.pend } }))

/-- What an evaluation of the INTx line can do. -/
theorem evalLine_cases (s : State) :
    evalLine s = s ∨ evalLine s = sendMsix 0 (lineAnnounced s) ∨ evalLine s = emit .assertInta (lineAnnounced s) := by
  unfold evalLine
  split_ifs
  · exact .inr (.inl rfl)
  · exact .inr (.inr rfl)
  · exact .inl rfl

theorem out_suffix_lineAnnounced (s : State) : s.out <:+ (lineAnnounced s).out := by
  rw [lineAnnounced, bump_out, setF_out]
  exact out_suffix_when (s := { s with hif := { s.hif with announced := s.hif.pend } }) _ (out_suffix_postHost _ _ _)

theorem out_suffix_evalLine (s : State) : s.out <:+ (evalLine s).out := by
  obtain h | h | h := evalLine_cases s
  · rw [h]
  · rw [h]; exact (out_suffix_lineAnnounced s).trans (out_suffix_sendMsix 0 _)
  · rw [h]; exact (out_suffix_lineAnnounced s).trans (out_suffix_emit _ _)

theorem out_suffix_hostEvent (v : Nat) (s : State) : s.out <:+ (hostEvent v s).out := by
  have hvec (t : State) : t.out <:+ ((if v = 0 then owe 0 0 else sendMsix v) t).out := by
    split_ifs
    · rw [owe_out]
    · exact out_suffix_sendMsix v t
  have hflag : s.out = (event (hostCause v).1 (hostCause v).2.2 s).out := (event_out _ _ s).symm
  rw [hostEvent, hflag]
  exact (out_suffix_when _ (hvec _)).trans (out_suffix_evalLine _)

theorem out_suffix_announce (q irq : Nat) (s : State) : s.out <:+ (announce q irq s).out := by
  unfold announce
  split_ifs
  · exact out_suffix_hostEvent 0 s
  · exact List.suffix_rfl
  · rw [owe_out]
  · exact out_suffix_evalLine { s with hif := { s.hif with pend := addOnce s.hif.pend q } }

/-! Where an entry goes -/

/-- An entry written is the next thing sent out; only what its announcement sends follows it. -/
theorem hostWrite_cons_out_suffix_writeEntry (p : Post) (pr : Pair) (s : State) :
    .hostWrite (pr.cqBase + 16 * pr.cqTail) (entryBytes p pr) s.hostAttr :: s.out <:+ (writeEntry p pr s).out := by
  refine List.IsSuffix.trans ?_ (out_suffix_announce _ _ _)
  rw [bump_out, when_bump_out]
  exact List.suffix_rfl

theorem deliver_eq_writeEntry {p : Post} {pr : Pair} {s : State} (hp : s.pair? p.qid = some pr) (hm : s.masters = true)
    (hfull : pr.cqFull = false) : deliver p s = writeEntry p pr s := by
  simp [deliver, hp, hm, hfull]

/-- FLAGS of a command's completion, but for PHASE. -/
def Cmd.flagBits (c : Cmd) : Nat := 2 * b2n c.delayed + 4 * b2n c.degraded + 8 * b2n c.deferred

/-- What a command leaves to be written when it ends. -/
def Cmd.post (c : Cmd) (n status result : Nat) : Post := ⟨n, c.e.qid, c.e.cid, status, result, c.flagBits⟩

/-- A command taken from those in flight. -/
def leaveFlight (n : Nat) (s : State) : State := { s with qmx := { s.qmx with cmds := Assoc.erase s.qmx.cmds n } }

theorem leaveFlight_out (n : Nat) (s : State) : (leaveFlight n s).out = s.out := rfl
theorem leaveFlight_hostAttr (n : Nat) (s : State) : (leaveFlight n s).hostAttr = s.hostAttr := rfl

theorem finish_eq_deliver {s : State} {n : Nat} {c : Cmd} (status result : Nat) (hc : s.cmd? n = some c) :
    finish n status result s = deliver (c.post n status result) (leaveFlight n s) := by
  rw [finish, hc]; rfl

/-- A command that ends while the module may write and its CQ has a released slot sends its entry out next. -/
theorem hostWrite_cons_out_suffix_finish {s : State} {n : Nat} {c : Cmd} {p : Pair} (status result : Nat) (hc : s.cmd? n = some c)
    (hm : s.masters = true) (hp : s.pair? c.e.qid = some p) (hfull : p.cqFull = false) :
    .hostWrite (p.cqBase + 16 * p.cqTail) (entryBytes (c.post n status result) p) s.hostAttr :: s.out
      <:+ (finish n status result s).out := by
  have hwrite : finish n status result s = writeEntry (c.post n status result) p (leaveFlight n s) :=
    (finish_eq_deliver status result hc).trans (deliver_eq_writeEntry hp hm hfull)
  rw [hwrite, ← leaveFlight_hostAttr n s, ← leaveFlight_out n s]
  exact hostWrite_cons_out_suffix_writeEntry _ p (leaveFlight n s)

/-! The bytes of an entry -/

theorem leNat_leBytes (n v : Nat) : leNat (leBytes n v) = v % 256 ^ n := by
  induction n generalizing v with
  | zero => simp [leBytes, leNat, Nat.mod_one]
  | succ n ih => rw [leBytes, leNat, ih, Nat.mod_mod, Nat.pow_succ', Nat.mod_mul]

theorem leNat_leBytes_of_lt {n v : Nat} (h : v < 256 ^ n) : leNat (leBytes n v) = v := by
  rw [leNat_leBytes, Nat.mod_eq_of_lt h]

theorem bits_zero_of_lt {v w : Nat} (h : v < 2 ^ w) : bits v 0 w = v := by
  rw [bits, Nat.pow_zero, Nat.div_one, Nat.mod_eq_of_lt h]

theorem bits_eq_zero_of_lt {v lo : Nat} (w : Nat) (h : v < 2 ^ lo) : bits v lo w = 0 := by
  rw [bits, Nat.div_eq_of_lt h, Nat.zero_mod]

/-- PHASE takes bit 0 of FLAGS, which the other flags leave 0. -/
theorem Cmd.flagBits_or_phase (c : Cmd) {phase : Nat} (h : phase ≤ 1) : c.flagBits ||| phase = phase + c.flagBits := by
  have heven : c.flagBits = 2 ^ 1 * (b2n c.delayed + 2 * b2n c.degraded + 4 * b2n c.deferred) := by
    rw [Cmd.flagBits]; omega
  rw [heven, ← Nat.two_pow_add_eq_or_of_lt (by omega), Nat.add_comm]

/-! The fields of an entry by their bytes -/

section Fields
variable (p : Post) (pr : Pair)

theorem length_entryBytes : (entryBytes p pr).length = 16 := rfl
theorem entryBytes_result : (entryBytes p pr).take 4 = leBytes 4 p.result := rfl
theorem entryBytes_sqHead : ((entryBytes p pr).drop 4).take 2 = leBytes 2 pr.sqHead := rfl
theorem entryBytes_sqId : ((entryBytes p pr).drop 6).take 2 = leBytes 2 p.qid := rfl
theorem entryBytes_cid : ((entryBytes p pr).drop 8).take 2 = leBytes 2 p.cid := rfl
theorem entryBytes_status : ((entryBytes p pr).drop 10).take 2 = leBytes 2 p.status := rfl
theorem entryBytes_flags : (entryBytes p pr).getD 12 0 = p.flags ||| pr.phase := rfl
theorem entryBytes_reserved : (entryBytes p pr).drop 13 = [0, 0, 0] := rfl

end Fields

/-- Settles O56: the command that ends writes its entry at once, what is sent later does not withdraw it, and each value fits the
field that R213 gives it, so the field reads back as that value. -/
theorem completionEntry : Obligations.CompletionEntry := by
  intro s n status result c p hc hm hp hfull hresult hhead hqid hcid hstatus hphase
  have hhead16 : leNat (leBytes 2 p.sqHead) = p.sqHead := leNat_leBytes_of_lt (hhead.trans (by decide))
  refine ⟨entryBytes (c.post n status result) p, ?written, length_entryBytes _ _, ?result, ?head, ?headTop, ?sqId, ?cid, ?status,
    ?flags, entryBytes_reserved _ _⟩
  case written => exact (hostWrite_cons_out_suffix_finish status result hc hm hp hfull).mem List.mem_cons_self
  case result => rw [entryBytes_result]; exact leNat_leBytes_of_lt hresult
  case head => rw [entryBytes_sqHead, hhead16, bits_zero_of_lt hhead]
  case headTop => rw [entryBytes_sqHead, hhead16, bits_eq_zero_of_lt 4 hhead]
  case sqId => rw [entryBytes_sqId]; exact leNat_leBytes_of_lt hqid
  case cid => rw [entryBytes_cid]; exact leNat_leBytes_of_lt hcid
  case status => rw [entryBytes_status]; exact leNat_leBytes_of_lt hstatus
  case flags =>
    rw [entryBytes_flags]
    calc c.flagBits ||| p.phase = p.phase + c.flagBits := c.flagBits_or_phase hphase
      _ = p.phase + 2 * b2n c.delayed + 4 * b2n c.degraded + 8 * b2n c.deferred := by rw [Cmd.flagBits]; omega

end Sys2Proof.Machine
end

section
/-! The order of bytes in a swap (R448): where a group's bytes come from, a stream of groups, and the obligation on it. -/

open Sys2Proof

namespace Sys2Proof.Machine

/-! Within a group -/

/-- The place in its source group from which a swapped group takes its byte `o`, as R448's table gives it: half-words turned round in modes
4 and 5, whole groups in the others. -/
def swapSource (mode o : Nat) : Nat :=
  if mode = 4 then (o + 2) % 4 else if mode = 5 then 6 - 2 * (o / 2) + o % 2 else swapGroup mode - 1 - o

theorem swapGroup_eq_getD {mode : Nat} (h : mode < 6) : swapGroup mode = [1, 2, 4, 8, 4, 8].getD mode 1 := by
  interval_cases mode <;> rfl

theorem swapGroup_pos (mode : Nat) : 0 < swapGroup mode := by unfold swapGroup; split_ifs <;> decide

theorem swapSource_lt {mode o : Nat} (h : o < swapGroup mode) : swapSource mode o < swapGroup mode := by
  unfold swapSource
  split_ifs with h4 h5
  · subst h4; exact Nat.mod_lt _ (by decide)
  · subst h5
    have h8 : o < 8 := h
    show _ < 8
    omega
  · omega

/-- Mode 4 is a rotation by one half-word. -/
theorem swapOne_four_eq_rotate {g : List Nat} (hg : g.length = 4) : swapOne 4 g = g.rotate 2 :=
  (List.rotate_eq_drop_append_take (by omega)).symm

/-- Outside modes 4 and 5 a group is turned round; mode 0's group of one byte is its own reverse. -/
theorem swapOne_eq_reverse {mode : Nat} {g : List Nat} (h4 : mode ≠ 4) (h5 : mode ≠ 5) (hg : g.length = swapGroup mode) :
    swapOne mode g = g.reverse := by
  rw [swapOne, if_neg h4, if_neg h5]
  split_ifs with h0
  · subst h0
    obtain ⟨a, rfl⟩ := List.length_eq_one_iff.mp hg
    rfl
  · rfl

theorem length_swapOne {mode : Nat} {g : List Nat} (hg : g.length = swapGroup mode) : (swapOne mode g).length = swapGroup mode := by
  by_cases h4 : mode = 4
  · subst h4
    rw [swapOne_four_eq_rotate hg, List.length_rotate, hg]
  by_cases h5 : mode = 5
  · subst h5
    have h8 : g.length = 8 := hg
    simp [swapOne, swapGroup, h8]
  · rw [swapOne_eq_reverse h4 h5 hg, List.length_reverse, hg]

theorem getElem?_swapOne_four {g : List Nat} {o : Nat} (hg : g.length = 4) (ho : o < 4) :
    (swapOne 4 g)[o]? = g[(o + 2) % 4]? := by
  rw [swapOne_four_eq_rotate hg, List.getElem?_rotate (by omega), hg]

/-- Mode 5: byte `o` of the result stands in half-word `o / 2` of four. -/
theorem getElem?_swapOne_five {g : List Nat} {o : Nat} (hg : g.length = 8) (ho : o < 8) :
    (swapOne 5 g)[o]? = g[6 - 2 * (o / 2) + o % 2]? := by
  match g, hg with
  | [_, _, _, _, _, _, _, _], _ => interval_cases o <;> rfl

theorem getElem?_swapOne {mode o : Nat} {g : List Nat} (hg : g.length = swapGroup mode) (ho : o < swapGroup mode) :
    (swapOne mode g)[o]? = g[swapSource mode o]? := by
  unfold swapSource
  split_ifs with h4 h5
  · subst h4; exact getElem?_swapOne_four hg ho
  · subst h5; exact getElem?_swapOne_five hg ho
  · rw [swapOne_eq_reverse h4 h5 hg, List.getElem?_reverse (by omega), hg]

/-! A stream of whole groups -/

/-- Byte `o` of group `k` of a swapped stream of `n` groups comes from group `k` of the source. -/
theorem getElem?_swapBytes {mode n k o : Nat} {l : List Nat} (hl : l.length = swapGroup mode * n) (hk : k < n)
    (ho : o < swapGroup mode) :
    (swapBytes mode n l)[swapGroup mode * k + o]? = l[swapGroup mode * k + swapSource mode o]? := by
  induction n generalizing k l with
  | zero => omega
  | succ n ih =>
    rw [Nat.mul_succ] at hl
    have htake : (l.take (swapGroup mode)).length = swapGroup mode := by rw [List.length_take]; omega
    have hone := length_swapOne htake
    cases k with
    | zero =>
      rw [swapBytes, Nat.mul_zero, Nat.zero_add, Nat.zero_add, List.getElem?_append_left (by omega), getElem?_swapOne htake ho,
        List.getElem?_take_of_lt (swapSource_lt ho)]
    | succ k =>
      have hrest : (l.drop (swapGroup mode)).length = swapGroup mode * n := by rw [List.length_drop]; omega
      have hshift (j : Nat) : swapGroup mode * (k + 1) + j = swapGroup mode + (swapGroup mode * k + j) := by
        rw [Nat.mul_succ]; omega
      rw [swapBytes, hshift, hshift, List.getElem?_append_right (by omega), hone, Nat.add_sub_cancel_left, ih hrest (by omega),
        List.getElem?_drop]

/-- Settles O59: byte `i` is byte `i % g` of group `i / g`, and a group's bytes come from where `swapSource` says. -/
theorem swapOrder : Obligations.SwapOrder := by
  intro mode l i hmode hwhole hi g o src
  have hg : g = swapGroup mode := (swapGroup_eq_getD hmode).symm
  have hsrc : src = swapSource mode o := by simp only [src, swapSource, hg]
  have hdvd : swapGroup mode ∣ l.length := Nat.dvd_of_mod_eq_zero hwhole
  have hbyte := getElem?_swapBytes (Nat.mul_div_cancel' hdvd).symm (Nat.div_lt_div_of_lt_of_dvd hdvd hi)
    (Nat.mod_lt i (swapGroup_pos mode))
  rw [Nat.div_add_mod] at hbyte
  rw [List.getD_eq_getElem?_getD, List.getD_eq_getElem?_getD, hbyte, hsrc, hg, show o = i % g from rfl, hg]

end Sys2Proof.Machine
end

section
/-! RECALL and the write of DATA_HI (R438): what a recall makes of a mailbox's status, and the obligation on it. -/

open Sys2Proof

namespace Sys2Proof.Machine

/-! RECALLED and FULL are two fields of the mailbox's STATUS -/

theorem key_recalled_ne_full (m : Nat) : (Reg.MBX_BOX_STATUS_RECALLED m).key ≠ (Reg.MBX_BOX_STATUS_FULL m).key := by
  simp only [Field.key, Reg.MBX_BOX_STATUS_RECALLED, Reg.MBX_BOX_STATUS_FULL]; omega

/-- MBX_SENT_CNT stands above every mailbox. -/
theorem key_sentCnt_ne_recalled (m : Fin 64) : Reg.MBX_SENT_CNT.key ≠ (Reg.MBX_BOX_STATUS_RECALLED m.val).key := by
  simp only [Field.key, Reg.MBX_BOX_STATUS_RECALLED, Reg.MBX_SENT_CNT]; omega

theorem get_full_setRecalled (m v : Nat) (s : State) :
    (setF (Reg.MBX_BOX_STATUS_RECALLED m) v s).get (Reg.MBX_BOX_STATUS_FULL m) = s.get (Reg.MBX_BOX_STATUS_FULL m) :=
  get_setF_ne _ _ _ _ (key_recalled_ne_full m)

/-! A recall -/

/-- What RECALL makes of a mailbox: a message that stands in it is withdrawn and RECALLED set, and where none does RECALLED is cleared. -/
def recallBox (m : Nat) (s : State) : State :=
  if s.on (Reg.MBX_BOX_STATUS_FULL m) then setF (Reg.MBX_BOX_STATUS_RECALLED m) 1 (setF (Reg.MBX_BOX_STATUS_FULL m) 0 s)
  else setF (Reg.MBX_BOX_STATUS_RECALLED m) 0 s

theorem recallBox_of_full {m : Nat} {s : State} (h : s.on (Reg.MBX_BOX_STATUS_FULL m) = true) :
    recallBox m s = setF (Reg.MBX_BOX_STATUS_RECALLED m) 1 (setF (Reg.MBX_BOX_STATUS_FULL m) 0 s) := if_pos h

theorem recallBox_of_empty {m : Nat} {s : State} (h : s.on (Reg.MBX_BOX_STATUS_FULL m) = false) :
    recallBox m s = setF (Reg.MBX_BOX_STATUS_RECALLED m) 0 s := if_neg (by simp [h])

theorem get_recalled_recallBox (m : Nat) (s : State) :
    (recallBox m s).get (Reg.MBX_BOX_STATUS_RECALLED m) = b2n (s.on (Reg.MBX_BOX_STATUS_FULL m)) := by
  cases h : s.on (Reg.MBX_BOX_STATUS_FULL m) with
  | true => rw [recallBox_of_full h, get_setF_self]; rfl
  | false => rw [recallBox_of_empty h, get_setF_self]; rfl

theorem get_full_recallBox (m : Nat) (s : State) : (recallBox m s).get (Reg.MBX_BOX_STATUS_FULL m) = 0 := by
  cases h : s.on (Reg.MBX_BOX_STATUS_FULL m) with
  | true => rw [recallBox_of_full h, get_full_setRecalled, get_setF_self, Nat.zero_mod]
  | false => rw [recallBox_of_empty h, get_full_setRecalled]; simpa [State.on] using h

theorem recallBox_keeps (m : Nat) (s : State) :
    Keeps [Reg.MBX_BOX_STATUS_RECALLED m, Reg.MBX_BOX_STATUS_FULL m] s (recallBox m s) := by
  cases h : s.on (Reg.MBX_BOX_STATUS_FULL m) with
  | true => rw [recallBox_of_full h]; exact ((Keeps.refl _ s).setF _ _ (by simp)).setF _ _ (by simp)
  | false => rw [recallBox_of_empty h]; exact (Keeps.refl _ s).setF _ _ (by simp)

/-- A recall by the sender that lands. -/
theorem exec_boxRecall_of_lands {s : State} {m : Fin 64} {r : Requester} (h : s.lands (0x90014 + 0x20 * m.val) = true)
    (hkept : hostKept m.val r = false) (howner : ownerOf r ≠ 0) (hsender : s.boxSender m.val = ownerOf r) :
    exec (.boxRecall m r) s = .next (recallBox m.val (ungate (islandOf (0x90014 + 0x20 * m.val)) s)) := by
  have hmay : ¬ (ownerOf r = 0 ∨ s.boxSender m.val ≠ ownerOf r) := by simp [howner, hsender]
  rw [exec_boxRecall, execBoxRecall, land_eq h, hkept, if_neg Bool.false_ne_true]
  exact congrArg _ (if_neg hmay)

/-! A message sent -/

/-- What a write of DATA_HI that the mailbox takes makes of the state. -/
def fillBox (m : Nat) (hi : Word) (s : State) : State :=
  bump Reg.MBX_SENT_CNT (setF (Reg.MBX_BOX_STATUS_RECALLED m) 0 (setF (Reg.MBX_BOX_STATUS_FULL m) 1
    (setF (Reg.MBX_BOX_DATA_HI_DATA m) hi.toNat s)))

theorem get_recalled_fillBox (m : Fin 64) (hi : Word) (s : State) :
    (fillBox m.val hi s).get (Reg.MBX_BOX_STATUS_RECALLED m.val) = 0 := by
  rw [fillBox, bump, get_setF_ne _ _ _ _ (key_sentCnt_ne_recalled m), get_setF_self, Nat.zero_mod]

theorem exec_mailboxSend_of_lands {s : State} {m : Fin 64} {r : Requester} (hi : Word) (h : s.lands (0x9000C + 0x20 * m.val) = true)
    (hkept : hostKept m.val r = false) (htaken : s.boxRefuses m.val r = false) :
    exec (.mailboxSend m r hi) s = .next (fillBox m.val hi (ungate (islandOf (0x9000C + 0x20 * m.val)) s)) := by
  rw [exec_mailboxSend, execMailboxSend, land_eq h, hkept, if_neg Bool.false_ne_true]
  exact congrArg _ (if_neg (Bool.eq_false_iff.mp htaken))

/-- Settles O58: the sender's RECALL leaves `recallBox` and a DATA_HI write that is taken leaves `fillBox`, of a state that reads as the
one before it. -/
theorem mailboxRecall : Obligations.MailboxRecall := by
  constructor
  · intro s m r hland hkept howner hsender
    exact ⟨_, exec_boxRecall_of_lands hland hkept howner hsender, get_recalled_recallBox _ _, get_full_recallBox _ _,
      recallBox_keeps _ _⟩
  · intro s m r hi hland hkept htaken
    exact ⟨_, exec_mailboxSend_of_lands hi hland hkept htaken, get_recalled_fillBox m hi _⟩

end Sys2Proof.Machine
end

section
/-! Every command goes on: what each shape of meaning answers, the obligations on completion and on the steps that stop (O53, O54). -/

open Sys2Proof

namespace Sys2Proof.Machine

/-! Outcomes that go on -/

/-- The machine goes on. -/
def IsNext (r : Result) : Prop := ∃ t, r = .next t

theorem isNext_next (t : State) : IsNext (.next t) := ⟨t, rfl⟩

theorem isNext_ite {c : Prop} [Decidable c] {a b : Result} (ha : IsNext a) (hb : IsNext b) : IsNext (if c then a else b) := by
  split
  exacts [ha, hb]

theorem isNext_nexts {c : Prop} [Decidable c] (t u : State) : IsNext (if c then .next t else .next u) :=
  isNext_ite (isNext_next t) (isNext_next u)

theorem isNext_land (off : Nat) (c : Instr) (k : State → State) (s : State) : IsNext (land off c k s) :=
  isNext_ite (isNext_next _) (isNext_nexts _ _)

theorem isNext_runIo (qid cid opcode : Nat) (k : Nat → Cmd → State → State) (s : State) : IsNext (runIo qid cid opcode k s) := by
  unfold runIo
  split
  exacts [isNext_next _, isNext_next _]

theorem isNext_runAdmin (cid : Nat) (op : AdminOp) (p : Entry → Bool) (k : Nat → Cmd → State → State) (s : State) :
    IsNext (runAdmin cid op p k s) := by
  unfold runAdmin
  refine isNext_ite (isNext_next _) ?_
  split
  exacts [isNext_next _, isNext_next _]

theorem isNext_receive (k : State → State) (s : State) : IsNext (receive k s) := isNext_nexts _ _

theorem isNext_arrive (p : Option (Fin 4)) (f : Frame) (k : State → State) (s : State) : IsNext (arrive p f k s) := by
  unfold arrive
  split
  exacts [isNext_nexts _ _, isNext_nexts _ _]

theorem isNext_aside (rest : List (Nat × Instr)) {k : State → Result} (s : State) (h : ∀ s, IsNext (k s)) :
    IsNext (aside rest k s) := by
  obtain ⟨t, ht⟩ := h { s with waiting := [] }
  rw [aside, ht]
  exact isNext_next _

theorem isNext_asRetired (i : Island) {k : State → Result} (s : State) (h : ∀ s, IsNext (k s)) : IsNext (asRetired i k s) := by
  obtain ⟨t, ht⟩ := h { s with sys := { s.sys with retired := i :: s.sys.retired } }
  rw [asRetired, ht]
  exact isNext_next _

/-! Meanings with a shape of their own -/

theorem isNext_execCoreAccess (core : Fin 9) (kind : AccessKind) (addr size value : Nat) (evict : List Nat) (issued : Bool) (s : State) :
    IsNext (execCoreAccess core kind addr size value evict issued s) :=
  isNext_ite (isNext_next _) (isNext_ite (isNext_next _) (isNext_ite (isNext_next _) (isNext_nexts _ _)))

theorem isNext_execDmaDescriptor (c : Fin 16) (host : List Nat) (dstFail limit : Option Nat) (s : State) :
    IsNext (execDmaDescriptor c host dstFail limit s) := by
  unfold execDmaDescriptor
  refine isNext_ite (isNext_next _) (isNext_ite (isNext_next _) ?_)
  split
  exacts [isNext_next _, isNext_next _]

/-- Only an access that waited is tried again, as if its island were retired. -/
theorem isNext_execResetAccessTimeout (s : State) : IsNext (execResetAccessTimeout s) := by
  unfold execResetAccessTimeout
  split
  · exact isNext_next _
  split
  · exact isNext_aside _ _ fun _ => isNext_asRetired _ _ fun _ => isNext_execCoreAccess _ _ _ _ _ _ _ _
  · exact isNext_aside _ _ fun _ => isNext_asRetired _ _ fun _ => isNext_execDmaDescriptor _ _ _ _ _
  · exact isNext_next _

/-- An offset that a REGISTER_WRITE may address: a word of BAR0, or for the host a word of configuration space (log entry 46). -/
def Addressable (r : Requester) (off : Nat) : Prop := off % 4 = 0 ∧ (off < 0x400000 ∨ r = .host ∧ off < 0x401000)

theorem isNext_execRegisterWrite {r : Requester} {off : Nat} (be : Nat) (v : Word) (s : State) (h : Addressable r off) :
    IsNext (execRegisterWrite r off be v s) := by
  obtain ⟨hword, hspace⟩ := h
  unfold execRegisterWrite
  by_cases hcfg : r = .host ∧ 0x400000 ≤ off ∧ off < 0x401000 ∧ off % 4 = 0
  · rw [if_pos hcfg]
    exact isNext_land _ _ _ _
  · have hbar : ¬ (0x400000 ≤ off ∨ off % 4 ≠ 0) := by
      rintro (hbig | hodd)
      · rcases hspace with hlow | ⟨hhost, hlow⟩
        · omega
        · exact hcfg ⟨hhost, hbig, hlow, hword⟩
      · exact hodd hword
    rw [if_neg hcfg, if_neg hbar]
    exact isNext_ite (isNext_land _ _ _ _) (isNext_next _)

theorem isNext_exec {c : Instr} (s : State) (hc : ∀ r off be v, c = .registerWrite r off be v → Addressable r off) :
    IsNext (exec c s) := by
  delta exec
  cases c
  case lineBeat | loopEvaluation | rebuildRow | grazeResume | lineEvaluation | cooldownEnd | packInserted | chargeWindowExit |
      coulombConversion | voltLimitClear | fanPowerReport | fanDemandCompute | fabricLinkDown | fabricBleatTimeout | cboClean |
      cboFlush | cboInval | dramRowLimit | strapChange | cacheFillComplete | chargeWindowEntry | grazeOverdue | jobDispatch |
      writeThroughReached | perst | hotReset | dlDown | xlatDrainDone | convFault | packRemoved | learnTimeout | swapDue |
      slotStateSend | tokenReportTimer | deltaResend | powerOnReset | consoleColdReset | consoleWarmReset | consoleDump =>
    exact isNext_next _
  case arrayValidWrite | volumeValidWrite | xlateGo | evalStart | ringTailWrite | coefDataAccess | planRetry | enginePause |
      engineRetire | engineTest | forceWtWrite | packHealthyWrite | partnerLiveWrite | jnlAlloc | wakeRetry | wakeDeny | awakeWrite |
      escDone | frontierEnable | intInject | adminSqTailWrite | adminCqHeadWrite | xlatCommit | hostRaise | converterEnable |
      standbyOffsetWrite | slotEnableWrite | slotDisableWrite | spinWrite | chargeEnable | batCountWrite | smbusTransaction |
      fanRunWrite | fanRestart | fanDemandWrite | fabTxTail | lockForce | peerLockRead | peerLockRelease | dmaResume | dramPpr |
      coldReset | warmReset | coreRestart | replayDoneWrite | queueEnable | queueDisable | kick | linkRestore | intxAck | learnStart |
      fanTokenClaim | fanTokenRelease | activeClaim | activeRelease | relinquish | watchdogKick | clean | inval | cacheFlush |
      cleanAll | flushAll | invalAll | laneRestore | repairRecordPop =>
    exact isNext_land _ _ _ _
  case read | write | verify | flush =>
    exact isNext_runIo _ _ _ _ _
  case identify | getFeature | setFeature | setFeatureWriteThrough | getLog | createIoQueue | deleteIoQueue | arrayCreate |
      arrayDelete | volumeCreate | volumeDelete | memberReplace | selfTestShort | selfTestExtended | selfTestAbort | powerStateQuery |
      powerStatePark | powerStateWake | swap | enterService | leaveService | setPreferred | revertNow | firmwareStage | fwCommitStore |
      fwCommitStoreActivateNext | fwCommitActivateNext | fwCommitActivateNow | fwCommitInstallRoot | packAuthenticate |
      packInstallRoot | packRemoveRoot | setBudget | setEligibility | groupCreate | groupDelete | groupResync | forgetNode | wakeNode |
      abort =>
    exact isNext_runAdmin _ _ _ _ _
  case data | commit | commitAck | intent | intentAck | ceiling | slotState | slotAck | fanState | config | token | relinquishMessage |
      resync | blockNak =>
    exact isNext_receive _ _
  case budget | tokenReq | tokenGrant | tokenReport | tokenRelease | leaseMove | copyDesc | copyData | copyAck | peerRead | peerData |
      deltaDesc | deltaData | deltaAck | wakeReq | group =>
    exact isNext_arrive _ _ _ _
  case islandRegate | evalDone | arrayAssembly | jobAgePromotion | writebackAgeExpiry | writebackStart | intentRetire | journalReplay |
      slotLinkDown | slotLinkUp | linkDownEraseTimer | rebuildCheckpoint | doorbellPoll | laneFailure | linkTrained | slotTrip |
      slotPresentChange | spinTimeout | driveReady | slotLinkTimeout | spinupRetry | slotOffTimeout | stopUnitTimeout | currentStep |
      authPeriodic | authRetry | smbusDone | keepLow | focPeriod | observerLoss | coastRestart | senseDone | brakeDone | alignDone |
      openRampDone | syncDone | startFail | startRetry | missingPhase | fanOvercurrent | fanFaultRestart | fanTokenClaimDone |
      fanTokenLineChange | beat | beatMiss | activeLineChange | holdSelfCheck | parkedListen | linkReplay | lsa | lsaExpiry | addrReq |
      addrAssign | cacheCe | mtimeCompare | mailboxTimeout | dramPprDone | postDone | corePeriodicTest | fabricLaneFailure |
      consoleImageLoad | spinupFailure | mirrorLinkUp | nodeUnheardExpiry | spinDownExcess | idleParkExpiry | enterServing |
      drainComplete | destageComplete | wakeDenied | queueReady | queueStopped | selfTestResume | busMasterDisable | busMasterEnable |
      flr | flrComplete | d3hotEntry | d0Return | mainsReturn | converterOverload | overloadClear | converterRegulating |
      moduleUnmate | chargeTermination | chargeTimeout | chgFaultRetry | fanWatchdogExpiry | beatSend | takeoverComplete |
      fwWatchdogExpiry | keeperRelease | watchdogRestart | handoverBegin | handoverPowerOk | handoverPowerFail | handoverCommit |
      holdUnsyncedTimeout | mirrorLinkDown | fanStateSend | bleatSend | lsaRefresh | addrRetry | leaseExpiry | bellwetherGrantStart |
      maintDone | hostLinkDownFault | packCutoff =>
    exact isNext_nexts _ _
  case mailboxSend | mailboxTake | boxRecall | lockRead | lockRelease | activeClaimDone | revertHoldoffExpiry | peerLockRequest =>
    exact isNext_ite (isNext_next _) (isNext_nexts _ _)
  case powerCheck =>
    exact isNext_ite (isNext_nexts _ _) (isNext_next _)
  case bleat | heartbeatRecord | mainsLost =>
    exact isNext_ite (isNext_next _) (isNext_ite (isNext_next _) (isNext_nexts _ _))
  case coreAccess => exact isNext_execCoreAccess _ _ _ _ _ _ _ _
  case dmaDescriptor => exact isNext_execDmaDescriptor _ _ _ _ _
  case registerWrite => exact isNext_execRegisterWrite _ _ _ (hc _ _ _ _ rfl)
  case resetAccessTimeout => exact isNext_execResetAccessTimeout s
  all_goals
    simp only [execDmaChannelDisable, execJobStart, execJobComplete, execShadowArbitrationDone, execKatDone, execAccumulatorAccess,
      execHostDataIngest, execWriteCommit, execWtHoldTimeout, execRowLockGrant, execIntentLanded, execMemberCommandComplete,
      execMemberCommandTimeout, execGrazeStep, execHostDataEgress, execCommandFetch, execQueueDeleteDrained, execVolumeFormat,
      execVolumeDeleteDrained, execSelfTestDone, execGroupRecover, execFlushComplete, execFlushWakeTimeout, execWriteZeroes, execCopy,
      execBar2Access, execHostReadError, execSlotShed, execEod, execFabricLinkUp, execLinkCtl, execFrameForward, execTokenRequestDrop,
      execCopyBatchTimeout, execFlockResyncChunk, execGroupStaleTimer, execCacheUe, execTagParityError, execDmaDescriptorDone,
      execSramRowRemap, execVictimWritebackLanded, execCopyWakeTimeout, execXlateDone, execFwCommandEntry, execGate1Admit,
      execGate2Admit, execRestValid, execPackEstimate, execRoleTake, execResyncComplete, execBootTimeout]
    repeat' first
      | with_reducible exact isNext_next _
      | with_reducible exact isNext_land _ _ _ _
      | with_reducible exact isNext_runAdmin _ _ _ _ _
      | with_reducible refine isNext_ite ?_ ?_
      | split

/-- Settles O53: each meaning, by its shape, goes on in every state. -/
theorem everyCommandCompletes : Obligations.EveryCommandCompletes := fun _ s hc => isNext_exec s hc

/-! Steps that stop -/

theorem execRegisterWrite_of_not_addressable {r : Requester} {off : Nat} (be : Nat) (v : Word) (s : State) (h : ¬ Addressable r off) :
    execRegisterWrite r off be v s = .fault .noSuchAddress := by
  have hcfg : ¬ (r = .host ∧ 0x400000 ≤ off ∧ off < 0x401000 ∧ off % 4 = 0) :=
    fun ⟨hhost, _, hlow, hword⟩ => h ⟨hword, .inr ⟨hhost, hlow⟩⟩
  have hbar : 0x400000 ≤ off ∨ off % 4 ≠ 0 := by
    by_contra hin
    exact h (by simp only [Addressable]; omega)
  rw [execRegisterWrite, if_neg hcfg, if_pos hbar]

/-- A command that does not go on is a REGISTER_WRITE that is no word it may address, and it faults. -/
theorem exec_of_not_isNext {c : Instr} {s : State} (h : ¬ IsNext (exec c s)) :
    exec c s = .fault .noSuchAddress ∧ ∃ r off be v, c = .registerWrite r off be v ∧ ¬ Addressable r off := by
  have hbad : ∃ r off be v, c = .registerWrite r off be v ∧ ¬ Addressable r off := by
    by_contra hall
    refine h (isNext_exec s fun r off be v hc => ?_)
    by_contra hna
    exact hall ⟨r, off, be, v, hc, hna⟩
  obtain ⟨r, off, be, v, rfl, hna⟩ := hbad
  exact ⟨(exec_registerWrite s).trans (execRegisterWrite_of_not_addressable be v s hna), r, off, be, v, rfl, hna⟩

theorem isNext_idle (s : State) : IsNext (idle s) :=
  isNext_ite (isNext_exec (c := .heartbeatRecord) s nofun)
    (isNext_ite (isNext_exec (c := .loopEvaluation _) (useFree s) nofun) (isNext_next _))

/-- An access set aside stops where its meaning does. -/
theorem aside_of_fault {rest : List (Nat × Instr)} {k : State → Result} {s : State} {f : Fault}
    (h : k { s with waiting := [] } = .fault f) : aside rest k s = .fault f := by
  rw [aside, h]

theorem mem_waiting_of_released {s : State} {c : Instr} {rest : List (Nat × Instr)} (h : s.released = some (c, rest)) :
    ∃ i, (i, c) ∈ s.waiting := by
  obtain ⟨w, hw, hout⟩ := Option.map_eq_some_iff.mp h
  obtain ⟨rfl, -⟩ := Prod.mk.inj hout
  exact ⟨w.1, List.mem_of_find?_eq_some hw⟩

/-- A step that does not go on runs a REGISTER_WRITE, from the queue or from the accesses that waited, that is no word it may address. -/
theorem step_of_not_isNext {s : State} (h : ¬ IsNext (step s)) :
    step s = .fault .noSuchAddress ∧ ∃ r off be v,
      (s.pending.head? = some (.registerWrite r off be v) ∨ ∃ i, (i, .registerWrite r off be v) ∈ s.waiting) ∧ ¬ Addressable r off := by
  unfold step at h ⊢
  split at h
  next c rest hp =>
    obtain ⟨hf, r, off, be, v, rfl, hna⟩ := exec_of_not_isNext h
    exact ⟨hf, r, off, be, v, .inl (by rw [hp]; rfl), hna⟩
  next hp =>
    split at h
    next c rest hr =>
      have hstop : ¬ IsNext (exec c { s with waiting := [] }) := fun ⟨t, ht⟩ => h (by rw [aside, ht]; exact isNext_next _)
      obtain ⟨hf, r, off, be, v, rfl, hna⟩ := exec_of_not_isNext hstop
      exact ⟨aside_of_fault hf, r, off, be, v, .inr (mem_waiting_of_released hr), hna⟩
    next => exact absurd (isNext_idle s) h

/-- Settles O54. -/
theorem stepNeverRefuses : Obligations.StepNeverRefuses := by
  intro s
  constructor
  · intro r hr
    have hstop : ¬ IsNext (step s) := fun ⟨t, ht⟩ => by simp [hr] at ht
    simp [(step_of_not_isNext hstop).1] at hr
  · intro f hf
    have hstop : ¬ IsNext (step s) := fun ⟨t, ht⟩ => by simp [hf] at ht
    obtain ⟨-, r, off, be, v, hfrom, hna⟩ := step_of_not_isNext hstop
    refine ⟨r, off, be, v, hfrom, ?_⟩
    by_contra hin
    exact hna (by simp only [Addressable]; omega)

end Sys2Proof.Machine
end

section
/-! What every step keeps and does (O48, O49, O51, O52), and triggers that are not pending (O55). -/

open Sys2Proof

namespace Sys2Proof.Machine

/-- Settles O51. -/
theorem canonicalAtReset : Obligations.CanonicalAtReset := ⟨rfl, rfl⟩

theorem canonical_of_step {s : State} (hs : s.canonical) : Leads State.canonical (step s) := by
  unfold step
  split
  next c rest _ => exact exec_canonical c (hs.of_eq rfl rfl)
  next =>
    split
    next c rest _ => exact aside_canonical rest _ (fun _ hx => exec_canonical c hx) hs
    next => exact idle_canonical hs

/-- Settles O52: every meaning and the idle step keep the canonical form, whether an access comes from the queue or had waited. -/
theorem stepKeepsCanonical : Obligations.StepKeepsCanonical := fun _ t hs ht => canonical_of_step hs t ht

/-- Settles O48. -/
theorem stepRunsFront : Obligations.StepRunsFront := fun _ _ => rfl

/-! An empty queue -/

theorem step_of_released {s : State} {c : Instr} {rest : List (Nat × Instr)} (hp : s.pending = []) (h : s.released = some (c, rest)) :
    step s = aside rest (exec c) s := by
  rw [step, hp, h]

theorem step_of_none_released {s : State} (hp : s.pending = []) (h : s.released = none) : step s = idle s := by
  rw [step, hp, h]

theorem released_of_head {s : State} {off : Nat} {c : Instr} {rest : List (Nat × Instr)} (h : s.waiting = (off, c) :: rest)
    (hout : islandOf off ∉ s.sys.inReset) : s.released = some (c, rest) := by
  simp [State.released, h, hout]

theorem released_eq_none {s : State} (h : ∀ x ∈ s.waiting, islandOf x.1 ∈ s.sys.inReset) : s.released = none := by
  simpa [State.released] using h

/-- A message to the host is sent, held or left pending: only PENDING may change, and no message becomes due. -/
theorem sendMsix_keeps (v : Nat) (s : State) : Keeps [Reg.MSIX_PBA_LO_PENDING] s (sendMsix v s) := by
  unfold sendMsix
  split_ifs
  · exact Keeps.refl _ s
  · exact (Keeps.refl _ s).setF _ _ (by simp)
  · exact Keeps.refl _ s
  · exact Keeps.refl _ s

theorem sendMsix_vecDue (v : Nat) (s : State) : (sendMsix v s).hif.vecDue = s.hif.vecDue := by
  unfold sendMsix
  split_ifs <;> rfl

theorem sendMsix_clock (v : Nat) (s : State) : (sendMsix v s).clock = s.clock := by
  unfold sendMsix
  split_ifs <;> rfl

/-- What every change for an element leaves, a change for each element of a list leaves. -/
theorem forEach_of_forall {α β : Type} (l : List α) (f : α → State → State) (g : State → β) (h : ∀ x t, g (f x t) = g t) (s : State) :
    g (forEach l f s) = g s := by
  unfold forEach
  induction l generalizing s with
  | nil => rfl
  | cons x l ih => exact (ih (f x s)).trans (h x s)

theorem sendVectors_keeps (s : State) : Keeps [Reg.MSIX_PBA_LO_PENDING] s (sendVectors s) :=
  Keeps.forEach s.hif.vecDue (fun p => sendMsix p.2) ((Keeps.refl _ s).of_eq rfl rfl) fun p t ht => ht.trans (sendMsix_keeps p.2 t)

theorem sendVectors_vecDue (s : State) : (sendVectors s).hif.vecDue = [] := by
  unfold sendVectors
  exact forEach_of_forall s.hif.vecDue (fun p t => sendMsix p.2 t) (fun t => t.hif.vecDue) (fun p t => sendMsix_vecDue p.2 t) _

theorem sendVectors_clock (s : State) : (sendVectors s).clock = s.clock := by
  unfold sendVectors
  exact forEach_of_forall s.hif.vecDue (fun p t => sendMsix p.2 t) State.clock (fun p t => sendMsix_clock p.2 t) _

theorem sendVectors_of_none_due {s : State} (h : s.hif.vecDue = []) : sendVectors s = s := by
  have hsame : { s with hif := { s.hif with vecDue := [] } } = s := by rw [← h]
  rw [sendVectors, h]
  exact hsame

/-- Settles O49: the oldest waiting access that is released goes first; while none is, the idle step takes what is due in its order. -/
theorem stepOnEmptyQueue : Obligations.StepOnEmptyQueue := by
  intro s hp
  refine ⟨fun off c rest hw hout => step_of_released hp (released_of_head hw hout), fun hheld => ?_⟩
  rw [step_of_none_released hp (released_eq_none hheld)]
  refine ⟨fun hhb => ?_, fun hhb hloop hfw => ?_, fun hhb hnone => ?_⟩
  · rw [idle, if_pos hhb, exec_heartbeatRecord]
  · simp [idle, hhb, hloop, hfw]
  · have hquiet : (s.sys.loopDue && s.sys.firmwareUp) = false := Bool.and_eq_false_iff.mpr hnone
    refine ⟨{ sendVectors s with clock := (sendVectors s).clock + 1 }, by simp [idle, hhb, hquiet], ?_, sendVectors_vecDue s,
      (sendVectors_keeps s).of_eq rfl rfl, fun hdue => by rw [sendVectors_of_none_due hdue]⟩
    rw [sendVectors_clock]

/-! Triggers -/

/-- A module in PARKED after start-up, with two modules found to claim its position (R488, log entry 99) and no trigger that `State.quiet` names. -/
def conflictInParked : State :=
  { setF Reg.SYS_MODE_STARTING 0 State.reset with sys := { (State.reset).sys with posConflict := true } }

/-- Refutes O55: `State.quiet` does not speak of a position conflict, which in PARKED takes the module to SERVICE (log entry 99). -/
theorem not_settleQuiet : ¬ Obligations.SettleQuiet := by
  intro h
  have hmode : (settle conflictInParked).mode = Mode.service := by decide +kernel
  rw [h conflictInParked (by decide)] at hmode
  exact absurd hmode (by decide)

end Sys2Proof.Machine
end

section
/-! How a command that lands or goes on at once meets an `Ends`, and what register fields read after several changes. -/

open Sys2Proof

namespace Sys2Proof.Machine

/-! Ends of commands -/

theorem Ends.of_next {c : Instr} {s t : State} {p : State → Prop} (h : exec c s = .next t) (hp : p t) : Ends c s p := ⟨t, h, hp⟩

theorem EndsBy.of_next {g : State → State} {c : Instr} {s t : State} {p : State → Prop} (h : exec c s = .next (g t)) (hp : p t) :
    EndsBy g c s p := ⟨t, h, hp⟩

/-- An access that lands ends with its effect. -/
theorem exec_of_lands {off : Nat} {c d : Instr} {k : State → State} {s : State} (h : s.lands off = true)
    (hc : exec c s = land off d k s) : exec c s = .next (k (ungate (islandOf off) s)) := hc.trans (land_eq h)

/-! Reading fields -/

theorem on_eq_true {s : State} {f : Field} (h : s.get f = 1) : s.on f = true := by simp [State.on, h]

theorem on_eq_false {s : State} {f : Field} (h : s.get f = 0) : s.on f = false := by simp [State.on, h]

theorem get_eq_zero_of_off {s : State} {f : Field} (h : s.on f = false) : s.get f = 0 := by simpa [State.on] using h

/-- A value that fits is read back. -/
theorem get_setF_of_lt {f : Field} {v : Nat} (hv : v < 2 ^ f.width) (s : State) : (setF f v s).get f = v :=
  (get_setF_self f v s).trans (Nat.mod_eq_of_lt hv)

/-- A one-bit field set to 1. -/
theorem get_setF_one {f : Field} (hf : f.width = 1) (s : State) : (setF f 1 s).get f = 1 := by simp [hf]

theorem get_setF_zero (f : Field) (s : State) : (setF f 0 s).get f = 0 := by simp

theorem b2n_lt_two (b : Bool) : b2n b < 2 := by cases b <;> decide

theorem b2n_mod_two (b : Bool) : b2n b % 2 ^ 1 = b2n b := Nat.mod_eq_of_lt (b2n_lt_two b)

theorem b2n_bne_zero (b : Bool) : (b2n b != 0) = b := by cases b <;> rfl

/-- A flag written from a Boolean reads as that Boolean. -/
theorem on_setF_b2n {f : Field} (hf : f.width = 1) (b : Bool) (s : State) : (setF f (b2n b) s).on f = b := by
  rw [State.on, get_setF_self, hf, b2n_mod_two, b2n_bne_zero]

theorem on_event_flag {flag cnt : Field} {s : State} (h : cnt.key ≠ flag.key) (hw : 0 < flag.width) : (event flag cnt s).on flag = true :=
  on_eq_true (get_event_flag flag cnt s h hw)

theorem get_event_ne {flag cnt f : Field} {s : State} (hf : flag.key ≠ f.key) (hc : cnt.key ≠ f.key) :
    (event flag cnt s).get f = s.get f := by
  rw [event, bump, get_setF_ne _ _ _ _ hc, get_setF_ne _ _ _ _ hf]

theorem get_bump_ne {c f : Field} {s : State} (h : c.key ≠ f.key) : (bump c s).get f = s.get f := get_setF_ne _ _ _ _ h

theorem get_bump_self (c : Field) (s : State) : (bump c s).get c = (s.get c + 1) % 2 ^ c.width := get_setF_self _ _ _

/-- A field below every field of a list is none of them, and so is one above them. -/
theorem notMem_of_below {fs : List Field} {f : Field} {b : Nat} (hfs : ∀ k ∈ fs.map Field.key, b ≤ k) (hf : f.key < b) :
    f.key ∉ fs.map Field.key := fun h => (hfs _ h).not_gt hf

theorem notMem_of_above {fs : List Field} {f : Field} {b : Nat} (hfs : ∀ k ∈ fs.map Field.key, k < b) (hf : b ≤ f.key) :
    f.key ∉ fs.map Field.key := fun h => (hfs _ h).not_ge hf

theorem Keeps.get {fs : List Field} {s t : State} (h : Keeps fs s t) {f : Field} (hf : f.key ∉ fs.map Field.key) : t.get f = s.get f :=
  h.1 f hf

theorem slotOn_congr {s t : State} {n : Nat} (h12 : t.get (Reg.SLT_STATUS_ON12 n) = s.get (Reg.SLT_STATUS_ON12 n))
    (h5 : t.get (Reg.SLT_STATUS_ON5 n) = s.get (Reg.SLT_STATUS_ON5 n)) : t.slotOn n = s.slotOn n := by
  simp only [State.slotOn, State.on, h12, h5]

/-! What stays, as rewriting -/

@[simp] theorem keeps_refl (fs : List Field) (s : State) : Keeps fs s s := Keeps.refl fs s

/-- A field that may change does not matter to what stays. -/
@[simp] theorem keeps_setF_iff {fs : List Field} {s t : State} {f : Field} {v : Nat} (hf : f.key ∈ fs.map Field.key) :
    Keeps fs s (setF f v t) ↔ Keeps fs s t :=
  ⟨fun h => ⟨fun g hg => (get_setF_ne f g v t fun e => hg (e ▸ hf)).symm.trans (h.1 g hg), h.2⟩, fun h => h.setF f v hf⟩

@[simp] theorem keeps_bump_iff {fs : List Field} {s t : State} {f : Field} (hf : f.key ∈ fs.map Field.key) :
    Keeps fs s (bump f t) ↔ Keeps fs s t := keeps_setF_iff hf

@[simp] theorem keeps_bumpBy_iff {fs : List Field} {s t : State} {f : Field} {n : Nat} (hf : f.key ∈ fs.map Field.key) :
    Keeps fs s (bumpBy f n t) ↔ Keeps fs s t := keeps_setF_iff hf

@[simp] theorem keeps_event_iff {fs : List Field} {s t : State} {f g : Field} (hf : f.key ∈ fs.map Field.key)
    (hg : g.key ∈ fs.map Field.key) : Keeps fs s (event f g t) ↔ Keeps fs s t := (keeps_bump_iff hg).trans (keeps_setF_iff hf)

@[simp] theorem keeps_set64_iff {fs : List Field} {s t : State} {f g : Field} {v : Nat} (hf : f.key ∈ fs.map Field.key)
    (hg : g.key ∈ fs.map Field.key) : Keeps fs s (set64 f g v t) ↔ Keeps fs s t := (keeps_setF_iff hg).trans (keeps_setF_iff hf)

/-- Registers and memory alone decide what stays. -/
theorem keeps_congr {fs : List Field} {s t u : State} (hr : u.regs = t.regs) (hm : u.mem = t.mem) : Keeps fs s u ↔ Keeps fs s t :=
  ⟨fun h => h.of_eq hr.symm hm.symm, fun h => h.of_eq hr hm⟩

@[simp] theorem keeps_ungate_iff {fs : List Field} {s t : State} {i : Island} : Keeps fs s (ungate i t) ↔ Keeps fs s t :=
  keeps_congr rfl rfl

@[simp] theorem keeps_emit_iff {fs : List Field} {s t : State} {o : Out} : Keeps fs s (emit o t) ↔ Keeps fs s t := keeps_congr rfl rfl

@[simp] theorem keeps_useFrees_iff {fs : List Field} {s t : State} {n : Nat} : Keeps fs s (useFrees n t) ↔ Keeps fs s t :=
  keeps_congr rfl rfl

@[simp] theorem emit_get (o : Out) (s : State) (f : Field) : (emit o s).get f = s.get f := rfl
@[simp] theorem useFrees_get (n : Nat) (s : State) (f : Field) : (useFrees n s).get f = s.get f := rfl

/-! A state written out with the registers and the memory of another -/

section Written
variable {fs : List Field} {s t : State} {m : List Host.Cell} {a b : Nat} {sys : SysPart} {fan : FanPart} {bat : BatPart} {pwr : PwrPart}
  {jnl : JnlPart} {stp : StpPart} {oxe : OxePart} {sas : SasPart} {fov : FovPart} {fab : FabPart} {rpr : RprPart} {cch : CchPart}
  {dma : List (Nat × DmaRun)} {qmx : QmxPart} {cmd : CmdPart} {hif : HifPart} {out : List Out} {wt : List (Nat × Instr)} {pd : List Instr}

@[simp ↓] theorem get_written (f : Field) :
    State.get ⟨t.regs, m, a, b, sys, fan, bat, pwr, jnl, stp, oxe, sas, fov, fab, rpr, cch, dma, qmx, cmd, hif, out, wt, pd⟩ f
      = t.get f := get_of_regs f rfl

@[simp ↓] theorem keeps_written_iff :
    Keeps fs s ⟨t.regs, t.mem, a, b, sys, fan, bat, pwr, jnl, stp, oxe, sas, fov, fab, rpr, cch, dma, qmx, cmd, hif, out, wt, pd⟩
      ↔ Keeps fs s t := keeps_congr rfl rfl

end Written

/-- What a change leaves, it leaves also where it is made only under a condition. -/
theorem when_of_eq {α : Type} (c : Bool) {f : State → State} {s : State} (g : State → α) (h : g (f s) = g s) : g (when c f s) = g s := by
  unfold Machine.when; split; exacts [h, rfl]

/-! The host told -/

/-- The register fields that telling the host may change (R282, R283). -/
def hostFields : List Field :=
  [Reg.HIF_HOST_EVENT_ADMIN_CQ, Reg.HIF_ADMIN_IRQ_CNT, Reg.HIF_HOST_EVENT_FAULT, Reg.HIF_FAULT_CNT, Reg.HIF_HOST_EVENT_ROLE,
    Reg.HIF_ROLE_CNT, Reg.HIF_HOST_EVENT_PACK, Reg.HIF_PACK_CNT, Reg.HIF_HOST_EVENT_FABRIC, Reg.HIF_FABRIC_CNT,
    Reg.HIF_HOST_EVENT_POWER, Reg.HIF_POWER_CNT, Reg.MSIX_PBA_LO_PENDING, Reg.HIF_IRQ_CTRL_ASSERTED, Reg.HIF_INTX_ASSERT_CNT]

/-- Of a state only what telling the host may change has changed: register fields of the endpoint, its record and what was sent. -/
def OnlyHost (s t : State) : Prop := Keeps hostFields s t ∧ ∃ r h o, t = { s with regs := r, hif := h, out := o }

theorem OnlyHost.refl (s : State) : OnlyHost s s := ⟨Keeps.refl _ _, _, _, _, rfl⟩

theorem OnlyHost.trans {s t u : State} (h : OnlyHost s t) (k : OnlyHost t u) : OnlyHost s u := by
  obtain ⟨hk, _, _, _, rfl⟩ := h
  obtain ⟨kk, _, _, _, rfl⟩ := k
  exact ⟨hk.trans kk, _, _, _, rfl⟩

theorem OnlyHost.setF {f : Field} (v : Nat) (s : State) (hf : f.key ∈ hostFields.map Field.key) : OnlyHost s (setF f v s) :=
  ⟨(Keeps.refl _ _).setF f v hf, _, _, _, rfl⟩

theorem OnlyHost.event {f g : Field} (s : State) (hf : f.key ∈ hostFields.map Field.key) (hg : g.key ∈ hostFields.map Field.key) :
    OnlyHost s (event f g s) := (OnlyHost.setF 1 s hf).trans (OnlyHost.setF _ _ hg)

/-- A change of the endpoint's record and of what was sent. -/
theorem OnlyHost.of_hif (s : State) (h : HifPart) (o : List Out) : OnlyHost s { s with hif := h, out := o } :=
  ⟨(Keeps.refl _ _).of_eq rfl rfl, _, _, _, rfl⟩

theorem OnlyHost.forEach {α : Type} (l : List α) (f : α → State → State) (h : ∀ x t, OnlyHost t (f x t)) (s : State) :
    OnlyHost s (forEach l f s) := by
  unfold Machine.forEach
  induction l generalizing s with
  | nil => exact OnlyHost.refl s
  | cons x l ih => exact (h x s).trans (ih (f x s))

theorem OnlyHost.when {f : State → State} (c : Bool) (s : State) (h : OnlyHost s (f s)) : OnlyHost s (when c f s) := by
  unfold Machine.when; split; exacts [h, OnlyHost.refl s]

theorem onlyHost_sendMsix (v : Nat) (s : State) : OnlyHost s (sendMsix v s) := by
  unfold sendMsix
  split_ifs
  · exact OnlyHost.refl s
  · exact OnlyHost.setF _ s (by decide)
  · exact OnlyHost.of_hif s _ _
  · exact OnlyHost.of_hif s _ _

theorem onlyHost_owe (q v : Nat) (s : State) : OnlyHost s (owe q v s) := by
  unfold owe
  split_ifs
  exacts [OnlyHost.refl s, OnlyHost.of_hif s _ _]

theorem onlyHost_postHost (a : Nat) (bs : List Nat) (s : State) : OnlyHost s (postHost a bs s) :=
  OnlyHost.forEach _ _ (fun _ t => OnlyHost.of_hif t _ _) s

/-- The pending set announced, its bitmap written and the line marked as asserted. -/
theorem onlyHost_announced (c : Bool) (a : Nat) (bs : List Nat) (h : HifPart) (s : State) :
    OnlyHost s (bump Reg.HIF_INTX_ASSERT_CNT (setF Reg.HIF_IRQ_CTRL_ASSERTED 1 (when c (postHost a bs) { s with hif := h }))) :=
  (((OnlyHost.of_hif s h s.out).trans (OnlyHost.when c _ (onlyHost_postHost a bs _))).trans (OnlyHost.setF 1 _ (by decide))).trans
    (OnlyHost.setF _ _ (by decide))

theorem onlyHost_evalLine (s : State) : OnlyHost s (evalLine s) := by
  unfold evalLine
  split_ifs
  · exact (onlyHost_announced _ _ _ _ s).trans (onlyHost_sendMsix 0 _)
  · exact (onlyHost_announced _ _ _ _ s).trans (OnlyHost.of_hif _ _ _)
  · exact OnlyHost.refl s

theorem hostCause_mem (v : Nat) : (hostCause v).1.key ∈ hostFields.map Field.key ∧ (hostCause v).2.2.key ∈ hostFields.map Field.key := by
  unfold hostCause
  split_ifs <;> decide

theorem onlyHost_hostEvent (v : Nat) (s : State) : OnlyHost s (hostEvent v s) := by
  obtain ⟨hflag, hcnt⟩ := hostCause_mem v
  refine (OnlyHost.event s hflag hcnt).trans ((OnlyHost.when _ _ ?_).trans (onlyHost_evalLine _))
  split_ifs
  exacts [onlyHost_owe _ _ _, onlyHost_sendMsix _ _]

theorem OnlyHost.get {s t : State} (h : OnlyHost s t) {f : Field} (hf : f.key ∉ hostFields.map Field.key) : t.get f = s.get f := h.1.1 f hf

/-- The fields that telling the host may change stand below the queue interface's registers, but for the MSI-X bits. -/
theorem notMem_hostFields {f : Field} (hlow : 0x20000 * 32 ≤ f.key) (hhigh : f.key < 0x300000 * 32) :
    f.key ∉ hostFields.map Field.key := by
  have hout : ∀ k ∈ hostFields.map Field.key, k < 0x20000 * 32 ∨ 0x300000 * 32 ≤ k := by decide
  exact fun h => by have := hout _ h; omega

section Parts
variable {s t : State} (h : OnlyHost s t)
include h

theorem OnlyHost.mem : t.mem = s.mem := by obtain ⟨-, _, _, _, rfl⟩ := h; rfl
theorem OnlyHost.clock : t.clock = s.clock := by obtain ⟨-, _, _, _, rfl⟩ := h; rfl
theorem OnlyHost.free : t.free = s.free := by obtain ⟨-, _, _, _, rfl⟩ := h; rfl
theorem OnlyHost.sys : t.sys = s.sys := by obtain ⟨-, _, _, _, rfl⟩ := h; rfl
theorem OnlyHost.fan : t.fan = s.fan := by obtain ⟨-, _, _, _, rfl⟩ := h; rfl
theorem OnlyHost.bat : t.bat = s.bat := by obtain ⟨-, _, _, _, rfl⟩ := h; rfl
theorem OnlyHost.pwr : t.pwr = s.pwr := by obtain ⟨-, _, _, _, rfl⟩ := h; rfl
theorem OnlyHost.jnl : t.jnl = s.jnl := by obtain ⟨-, _, _, _, rfl⟩ := h; rfl
theorem OnlyHost.stp : t.stp = s.stp := by obtain ⟨-, _, _, _, rfl⟩ := h; rfl
theorem OnlyHost.oxe : t.oxe = s.oxe := by obtain ⟨-, _, _, _, rfl⟩ := h; rfl
theorem OnlyHost.sas : t.sas = s.sas := by obtain ⟨-, _, _, _, rfl⟩ := h; rfl
theorem OnlyHost.fov : t.fov = s.fov := by obtain ⟨-, _, _, _, rfl⟩ := h; rfl
theorem OnlyHost.fab : t.fab = s.fab := by obtain ⟨-, _, _, _, rfl⟩ := h; rfl
theorem OnlyHost.rpr : t.rpr = s.rpr := by obtain ⟨-, _, _, _, rfl⟩ := h; rfl
theorem OnlyHost.cch : t.cch = s.cch := by obtain ⟨-, _, _, _, rfl⟩ := h; rfl
theorem OnlyHost.dma : t.dma = s.dma := by obtain ⟨-, _, _, _, rfl⟩ := h; rfl
theorem OnlyHost.qmx : t.qmx = s.qmx := by obtain ⟨-, _, _, _, rfl⟩ := h; rfl
theorem OnlyHost.cmd : t.cmd = s.cmd := by obtain ⟨-, _, _, _, rfl⟩ := h; rfl
theorem OnlyHost.waiting : t.waiting = s.waiting := by obtain ⟨-, _, _, _, rfl⟩ := h; rfl
theorem OnlyHost.pending : t.pending = s.pending := by obtain ⟨-, _, _, _, rfl⟩ := h; rfl

end Parts

/-! Faults and records -/

@[simp ↓] theorem logEvent_get (c a r : Nat) (d : List Nat) (s : State) (f : Field) : (logEvent c a r d s).get f = s.get f := rfl

@[simp ↓] theorem logPlain_get (c : Nat) (d : List Nat) (s : State) (f : Field) : (logPlain c d s).get f = s.get f := rfl

/-- A change of role is shown: nothing but the log, the heartbeat record and the host's part changes. -/
theorem get_roleChanged {old reason : Nat} {s : State} {f : Field} (hf : f.key ∉ hostFields.map Field.key) :
    (roleChanged old reason s).get f = s.get f := by
  unfold roleChanged
  split_ifs
  · rfl
  · exact (onlyHost_hostEvent 2 _).get hf

theorem pwr_roleChanged (old reason : Nat) (s : State) : (roleChanged old reason s).pwr = s.pwr := by
  unfold roleChanged
  split_ifs
  · rfl
  · exact (onlyHost_hostEvent 2 _).pwr


theorem onlyHost_raiseFault (r : Nat) (s : State) :
    OnlyHost { s with fov := { s.fov with faults := addOnce s.fov.faults r } } (raiseFault r s) := onlyHost_hostEvent 1 _

theorem get_raiseFault {r : Nat} {s : State} {f : Field} (hf : f.key ∉ hostFields.map Field.key) : (raiseFault r s).get f = s.get f :=
  (onlyHost_raiseFault r s).get hf

theorem oxe_raiseFault (r : Nat) (s : State) : (raiseFault r s).oxe = s.oxe := (onlyHost_raiseFault r s).oxe

theorem sys_raiseFault (r : Nat) (s : State) : (raiseFault r s).sys = s.sys := (onlyHost_raiseFault r s).sys

/-- The register fields that a repair record may change (R462). -/
def recordFields : List Field :=
  [Reg.RPR_EVENT_REC_READY, Reg.RPR_REC_CNT, Reg.RPR_EVENT_REC_OVERFLOW, Reg.RPR_REC_LOST_CNT]

section PushRecord
variable (k c i r d : Nat) (s : State)

theorem keeps_pushRecord : Keeps recordFields s (pushRecord k c i r d s) := by
  unfold pushRecord
  split_ifs
  · exact Keeps.event _ _ (by decide) (by decide) ((Keeps.refl _ s).of_eq rfl rfl)
  · exact Keeps.event _ _ (by decide) (by decide) (Keeps.refl _ s)

theorem get_pushRecord {f : Field} (hf : f.key ∉ recordFields.map Field.key) : (pushRecord k c i r d s).get f = s.get f :=
  (keeps_pushRecord k c i r d s).1 f hf

theorem oxe_pushRecord : (pushRecord k c i r d s).oxe = s.oxe := by unfold pushRecord; split_ifs <;> rfl

theorem sys_pushRecord : (pushRecord k c i r d s).sys = s.sys := by unfold pushRecord; split_ifs <;> rfl

end PushRecord

end Sys2Proof.Machine
end

section
/-! Translation and evaluation (R51, R68): what a GO, a START and their ends leave, and the obligations O1, O5, O8 to O11. -/

open Sys2Proof

namespace Sys2Proof.Machine

/-! Translation -/

/-- What a GO leaves (R51). -/
def startXlate (vol : Nat) (s : State) : State :=
  let s1 := setF Reg.STP_XLATE_RES_DONE 0 (setF Reg.STP_XLATE_CTRL_BUSY 1 (setF Reg.STP_XLATE_CTRL_GO 1 (setF Reg.STP_XLATE_CTRL_VOL vol s)))
  { s1 with stp := { s1.stp with xlateOff := s.get64 Reg.STP_XLATE_OFF_LO_OFF Reg.STP_XLATE_OFF_HI_OFF } }

theorem exec_xlateGo_of_lands {s : State} (v : Fin 64) (hl : s.lands 0x30010 = true) (hb : s.on Reg.STP_XLATE_CTRL_BUSY = false) :
    exec (.xlateGo v) s = .next (startXlate v.val (ungate (islandOf 0x30010) s)) :=
  (exec_of_lands hl (exec_xlateGo s)).trans (congrArg _ (if_neg (Bool.eq_false_iff.mp hb)))

section SetXlate
variable (slot par d grp oor nov moff : Nat) (s : State)

theorem get_done_setXlate : (setXlate slot par d grp oor nov moff s).get Reg.STP_XLATE_RES_DONE = 1 := by
  simp (disch := decide) only [setXlate, set64, get_setF_ne, get_setF_self]; rfl

theorem get_noVolume_setXlate : (setXlate slot par d grp oor nov moff s).get Reg.STP_XLATE_RES_NO_VOLUME = nov % 2 := by
  simp (disch := decide) only [setXlate, set64, get_setF_ne, get_setF_self]; rfl

theorem get_outOfRange_setXlate : (setXlate slot par d grp oor nov moff s).get Reg.STP_XLATE_RES_OUT_OF_RANGE = oor % 2 := by
  simp (disch := decide) only [setXlate, set64, get_setF_ne, get_setF_self]; rfl

theorem get_slot_setXlate : (setXlate slot par d grp oor nov moff s).get Reg.STP_XLATE_RES_SLOT = slot % 2 ^ 7 := by
  simp (disch := decide) only [setXlate, set64, get_setF_ne, get_setF_self]; rfl

theorem get_parSlot_setXlate : (setXlate slot par d grp oor nov moff s).get Reg.STP_XLATE_RES_PAR_SLOT = par % 2 ^ 7 := by
  simp (disch := decide) only [setXlate, set64, get_setF_ne, get_setF_self]; rfl

theorem get_dataIdx_setXlate : (setXlate slot par d grp oor nov moff s).get Reg.STP_XLATE_RES_DATA_IDX = d % 2 ^ 7 := by
  simp (disch := decide) only [setXlate, set64, get_setF_ne, get_setF_self]; rfl

theorem get_group_setXlate : (setXlate slot par d grp oor nov moff s).get Reg.STP_XLATE_RES_GROUP = grp % 2 ^ 4 := by
  simp (disch := decide) only [setXlate, set64, get_setF_ne, get_setF_self]; rfl

/-- The member offset reads back across its two registers. -/
theorem get64_moff_setXlate :
    (setXlate slot par d grp oor nov moff s).get64 Reg.STP_XLATE_MOFF_LO_MOFF Reg.STP_XLATE_MOFF_HI_MOFF = moff % 2 ^ 64 := by
  simp (disch := decide) only [setXlate, set64, State.get64, get_setF_ne, get_setF_self]
  simp only [Reg.STP_XLATE_MOFF_LO_MOFF, Reg.STP_XLATE_MOFF_HI_MOFF]
  omega

theorem get_setXlate_of_ctrl {f : Field} (hf : f.off = 0x30010) (hlo : f.lo < 32) :
    (setXlate slot par d grp oor nov moff s).get f = s.get f := by
  have hlow : f.key < 0x30014 * 32 := by simp only [Field.key]; omega
  have hne (g : Field) (hg : 0x30014 * 32 ≤ g.key) : g.key ≠ f.key := by omega
  simp only [setXlate, set64]
  iterate 9 rw [get_setF_ne _ _ _ _ (hne _ (by decide))]

/-- The fields that a translation's end may change. -/
def xlateFields : List Field :=
  [Reg.STP_XLATE_CTRL_BUSY, Reg.STP_XLATE_CTRL_GO, Reg.STP_XLATE_RES_SLOT, Reg.STP_XLATE_RES_PAR_SLOT,
    Reg.STP_XLATE_RES_DATA_IDX, Reg.STP_XLATE_RES_GROUP, Reg.STP_XLATE_RES_OUT_OF_RANGE, Reg.STP_XLATE_RES_NO_VOLUME,
    Reg.STP_XLATE_RES_DONE, Reg.STP_XLATE_MOFF_LO_MOFF, Reg.STP_XLATE_MOFF_HI_MOFF]

/-- GO and BUSY cleared, before the result lands. -/
def clearXlate (s : State) : State := setF Reg.STP_XLATE_CTRL_BUSY 0 (setF Reg.STP_XLATE_CTRL_GO 0 s)

theorem keeps_setXlate : Keeps xlateFields s (setXlate slot par d grp oor nov moff (clearXlate s)) := by
  simp [setXlate, clearXlate, xlateFields]

theorem get_busy_setXlate : (setXlate slot par d grp oor nov moff (clearXlate s)).get Reg.STP_XLATE_CTRL_BUSY = 0 := by
  rw [get_setXlate_of_ctrl _ _ _ _ _ _ _ _ rfl (by decide), clearXlate, get_setF_zero]

theorem get_go_setXlate : (setXlate slot par d grp oor nov moff (clearXlate s)).get Reg.STP_XLATE_CTRL_GO = 0 := by
  rw [get_setXlate_of_ctrl _ _ _ _ _ _ _ _ rfl (by decide), clearXlate, get_setF_ne _ _ _ _ (by decide), get_setF_zero]

end SetXlate

/-- An end of a translation of a volume that is not valid: free values, and NO_VOLUME. -/
theorem exec_xlateDone_of_invalid {s : State} (hb : s.on Reg.STP_XLATE_CTRL_BUSY = true)
    (hv : s.volValid (s.get Reg.STP_XLATE_CTRL_VOL) = false) :
    exec .xlateDone s = .next (useFrees 6 (setXlate (s.freeAt 0 7) (s.freeAt 1 7) (s.freeAt 2 7) (s.freeAt 3 4) (s.freeAt 4 1) 1
      (s.freeAt 5 64) (clearXlate s))) := by
  rw [exec_xlateDone, execXlateDone, if_pos hb]
  exact if_pos (by rw [hv]; rfl)

/-- An end of a translation whose offset lies past the volume: free values, and OUT_OF_RANGE. -/
theorem exec_xlateDone_of_outside {s : State} (hb : s.on Reg.STP_XLATE_CTRL_BUSY = true)
    (hv : s.volValid (s.get Reg.STP_XLATE_CTRL_VOL) = true)
    (hx : s.volBlocks (s.get Reg.STP_XLATE_CTRL_VOL) * 4096 ≤ s.stp.xlateOff) :
    exec .xlateDone s = .next (useFrees 5 (setXlate (s.freeAt 0 7) (s.freeAt 1 7) (s.freeAt 2 7) (s.freeAt 3 4) 1 0
      (s.freeAt 4 64) (clearXlate s))) := by
  rw [exec_xlateDone, execXlateDone, if_pos hb]
  exact (if_neg (by simp [hv])).trans (if_pos hx)

/-- An end of a translation of an offset within a valid volume: the place of its block. -/
theorem exec_xlateDone_of_inside {s : State} {row d b : Nat} (hb : s.on Reg.STP_XLATE_CTRL_BUSY = true)
    (hv : s.volValid (s.get Reg.STP_XLATE_CTRL_VOL) = true)
    (hx : s.stp.xlateOff < s.volBlocks (s.get Reg.STP_XLATE_CTRL_VOL) * 4096)
    (hloc : s.locate (s.get Reg.STP_XLATE_CTRL_VOL) (s.stp.xlateOff / 4096) = (row, (d, b))) {g : Geo}
    (hg : s.geo (s.volArray (s.get Reg.STP_XLATE_CTRL_VOL)) = g) :
    exec .xlateDone s = .next (setXlate (g.slotOf (g.memberOf row (.data d))) (g.slotOf (g.memberOf row (.par (g.groupOf d)))) d
      (g.groupOf d) 0 0 (g.memberLba row b * 4096 + s.stp.xlateOff % 4096) (clearXlate s)) := by
  rw [exec_xlateDone, execXlateDone, if_pos hb]
  refine (if_neg (by simp [hv])).trans ((if_neg hx.not_ge).trans ?_)
  rw [hloc, hg]
  rfl

/-! Evaluation -/

/-- What a START leaves (R68). -/
theorem exec_evalStart_of_lands {s : State} (n : Fin 4) (hl : s.lands (0x30130 + 0x40 * n.val) = true)
    (hb : s.on (Reg.STP_ARRAY_EVAL_BUSY n.val) = false) :
    exec (.evalStart n) s = .next (startEval n.val (ungate (islandOf (0x30130 + 0x40 * n.val)) s)) :=
  (exec_of_lands hl (exec_evalStart s)).trans (congrArg _ (if_neg (Bool.eq_false_iff.mp hb)))

theorem startEval_of_idle {n : Nat} {s : State} (hb : s.on (Reg.STP_ARRAY_EVAL_BUSY n) = false) :
    startEval n s =
      let s1 := setF (Reg.STP_ARRAY_EVAL_STALE n) 0 (setF (Reg.STP_ARRAY_EVAL_BUSY n) 1 (setF (Reg.STP_ARRAY_EVAL_START n) 1 s))
      { s1 with stp := { s1.stp with evals := Assoc.set s1.stp.evals n (s.erasedMembers n) } } :=
  if_neg (Bool.eq_false_iff.mp hb)

/-- The end of an evaluation, before what follows it. -/
def endEval (n : Nat) (s : State) : State :=
  setF (Reg.STP_ARRAY_EVAL_START n) 0 (setF (Reg.STP_ARRAY_EVAL_BUSY n) 0
    (setF (Reg.STP_ARRAY_EVAL_MAX_DEFICIT n) ((s.geo n).maxDeficit (Assoc.getD s.stp.evals n []))
      (setF (Reg.STP_ARRAY_EVAL_PHASE_FAIL n) ((s.geo n).phaseFail (Assoc.getD s.stp.evals n [])) s)))

theorem exec_evalDone_of_busy {s : State} {n : Fin 4} (hb : s.on (Reg.STP_ARRAY_EVAL_BUSY n.val) = true) :
    exec (.evalDone n) s
      = .next (after (when (s.sys.firmwareUp && s.on (Reg.STP_ARRAY_EVAL_STALE n.val)) (startEval n.val) (endEval n.val s))) := by
  rw [exec_evalDone]
  exact if_pos hb

section EndEval
variable (n : Nat) (s : State)

theorem get_start_endEval : (endEval n s).get (Reg.STP_ARRAY_EVAL_START n) = 0 := get_setF_zero _ _

theorem get_busy_endEval : (endEval n s).get (Reg.STP_ARRAY_EVAL_BUSY n) = 0 := by
  simp (disch := (simp only [Field.key, Reg.STP_ARRAY_EVAL_START, Reg.STP_ARRAY_EVAL_BUSY]; omega)) only [endEval, get_setF_ne, get_setF_zero]

theorem get_maxDeficit_endEval : (endEval n s).get (Reg.STP_ARRAY_EVAL_MAX_DEFICIT n)
    = (s.geo n).maxDeficit (Assoc.getD s.stp.evals n []) % 2 ^ 4 := by
  simp (disch := (simp only [Field.key, Reg.STP_ARRAY_EVAL_START, Reg.STP_ARRAY_EVAL_BUSY, Reg.STP_ARRAY_EVAL_MAX_DEFICIT]; omega)) only
    [endEval, get_setF_ne, get_setF_self]
  rfl

theorem get_phaseFail_endEval : (endEval n s).get (Reg.STP_ARRAY_EVAL_PHASE_FAIL n)
    = (s.geo n).phaseFail (Assoc.getD s.stp.evals n []) % 2 ^ 13 := by
  simp (disch := (simp only [Field.key, Reg.STP_ARRAY_EVAL_START, Reg.STP_ARRAY_EVAL_BUSY, Reg.STP_ARRAY_EVAL_MAX_DEFICIT,
    Reg.STP_ARRAY_EVAL_PHASE_FAIL]; omega)) only [endEval, get_setF_ne, get_setF_self]
  rfl

end EndEval

/-- What a START on an idle evaluation leaves in its registers. -/
theorem get_startEval_of_idle {n : Nat} {s : State} (hb : s.on (Reg.STP_ARRAY_EVAL_BUSY n) = false) :
    (startEval n s).get (Reg.STP_ARRAY_EVAL_BUSY n) = 1 ∧ (startEval n s).get (Reg.STP_ARRAY_EVAL_START n) = 1
      ∧ (startEval n s).get (Reg.STP_ARRAY_EVAL_STALE n) = 0 := by
  rw [startEval_of_idle hb]
  simp (disch := (simp only [Field.key, Reg.STP_ARRAY_EVAL_START, Reg.STP_ARRAY_EVAL_BUSY, Reg.STP_ARRAY_EVAL_STALE]; omega)) only
    [get_written, get_setF_ne, get_setF_self]
  exact ⟨rfl, rfl, rfl⟩

/-- Settles O1. -/
theorem stripeCommandsComplete : Obligations.StripeCommandsComplete := by
  refine ⟨fun s v hl hb => ?go, fun s hb => ?done, fun s n hl hb => ?start, fun s n hb => ?evalDone⟩
  case go =>
    refine .of_next (exec_xlateGo_of_lands v hl hb) ⟨?_, ?_, ?_, ?_, rfl, ?_⟩ <;>
      simp only [startXlate, get_written, keeps_written_iff]
    · simp (disch := decide) only [get_setF_ne, get_setF_self]; rfl
    · simp (disch := decide) only [get_setF_ne, get_setF_self]; rfl
    · simp (disch := decide) only [get_setF_ne, get_setF_self]; exact Nat.mod_eq_of_lt v.isLt
    · exact get_setF_zero _ _
    · simp
  case done =>
    cases hv : s.volValid (s.get Reg.STP_XLATE_CTRL_VOL) with
    | false =>
      refine .of_next (exec_xlateDone_of_invalid hb hv) ⟨get_busy_setXlate .., get_go_setXlate .., get_done_setXlate .., ?_, nofun,
        keeps_useFrees_iff.mpr (keeps_setXlate ..)⟩
      exact on_eq_true (get_noVolume_setXlate ..)
    | true =>
      by_cases hx : s.volBlocks (s.get Reg.STP_XLATE_CTRL_VOL) * 4096 ≤ s.stp.xlateOff
      · refine .of_next (exec_xlateDone_of_outside hb hv hx) ⟨get_busy_setXlate .., get_go_setXlate .., get_done_setXlate .., ?_,
          fun _ => ?_, keeps_useFrees_iff.mpr (keeps_setXlate ..)⟩
        · exact on_eq_false (get_noVolume_setXlate ..)
        · exact (on_eq_true (get_outOfRange_setXlate ..)).trans (decide_eq_true hx).symm
      · refine .of_next (exec_xlateDone_of_inside hb hv (not_le.mp hx) rfl rfl) ⟨get_busy_setXlate .., get_go_setXlate .., get_done_setXlate ..,
          ?_, fun _ => ?_, keeps_setXlate ..⟩
        · exact on_eq_false (get_noVolume_setXlate ..)
        · exact (on_eq_false (get_outOfRange_setXlate ..)).trans (decide_eq_false hx).symm
  case start =>
    have hidle : (ungate (islandOf (0x30130 + 0x40 * n.val)) s).on (Reg.STP_ARRAY_EVAL_BUSY n.val) = false := hb
    obtain ⟨hbusy, hstart, hstale⟩ := get_startEval_of_idle hidle
    refine .of_next (exec_evalStart_of_lands n hl hb) ⟨hbusy, hstart, hstale, ?_, ?_⟩ <;> rw [startEval_of_idle hidle]
    · exact (Assoc.find_set _ _ _ _).trans (if_pos rfl)
    · simp
  case evalDone =>
    refine .of_next (g := fun t => after (when _ (startEval n.val) t)) (exec_evalDone_of_busy hb)
      ⟨get_busy_endEval .., get_start_endEval .., get_phaseFail_endEval .., get_maxDeficit_endEval .., ?_⟩
    simp [endEval]

end Sys2Proof.Machine
end

section
/-! Validity of volumes (R72), members and their roles (R45 to R48), the address mapping (R51, R52) and deficits (R61). -/

open Sys2Proof

namespace Sys2Proof.Machine

/-! VALID of a volume -/

/-- The checks of R72 as one proposition. -/
def State.VolumeChecks (s : State) (v : Nat) : Prop :=
  let n := s.volArray v
  let b := s.volBase v
  let e := b + s.volRows v
  s.on (Reg.STP_ARRAY_CFG_VALID n) = true ∧ e ≤ (s.geo n).rows ∧ s.volRows v ≠ 0
  ∧ (∀ w, w < 64 → w ≠ v → s.volValid w = true → s.volArray w = n → e ≤ s.volBase w ∨ s.volBase w + s.volRows w ≤ b)

theorem State.volumeOk_iff {s : State} {v : Nat} : s.volumeOk v = true ↔ s.VolumeChecks v := by
  simp only [State.volumeOk, State.VolumeChecks, allVols, Bool.and_eq_true, decide_eq_true_eq, bne_iff_ne, List.all_eq_true,
    List.mem_range, Bool.or_eq_true, beq_iff_eq, Bool.not_eq_true', and_assoc]
  refine and_congr_right fun _ => and_congr_right fun _ => and_congr_right fun _ => forall₂_congr fun w _ => ?_
  cases s.volValid w <;> simp [or_iff_not_imp_left]

/-- VALID and RANGE_ERR of a volume set. -/
def setVolumeValid (v valid err : Nat) (s : State) : State := setF (Reg.STP_VOL_CFG_RANGE_ERR v) err (setF (Reg.STP_VOL_CFG_VALID v) valid s)

theorem get_setVolumeValid (v : Nat) {x e : Nat} (hx : x < 2) (he : e < 2) (s : State) :
    (setVolumeValid v x e s).get (Reg.STP_VOL_CFG_VALID v) = x ∧ (setVolumeValid v x e s).get (Reg.STP_VOL_CFG_RANGE_ERR v) = e := by
  simp (disch := (simp only [Field.key, Reg.STP_VOL_CFG_VALID, Reg.STP_VOL_CFG_RANGE_ERR]; omega)) only
    [setVolumeValid, get_setF_ne, get_setF_self]
  exact ⟨Nat.mod_eq_of_lt hx, Nat.mod_eq_of_lt he⟩

theorem keeps_setVolumeValid (v x e : Nat) (s : State) :
    Keeps [Reg.STP_VOL_CFG_VALID v, Reg.STP_VOL_CFG_RANGE_ERR v] s (setVolumeValid v x e s) := by
  simp [setVolumeValid]

/-- A write of 1: the checks decide. -/
theorem writeVolumeValid_true (v : Nat) (s : State) :
    (s.VolumeChecks v → writeVolumeValid v true s = setVolumeValid v 1 0 s)
      ∧ (¬ s.VolumeChecks v → writeVolumeValid v true s = setVolumeValid v 0 1 s) := by
  rw [← State.volumeOk_iff]
  exact ⟨fun h => if_pos h, fun h => if_neg h⟩

theorem exec_volumeValidWrite_of_lands {s : State} (v : Fin 64) (x : Bool) (hl : s.lands (0x31000 + 0x20 * v.val) = true) :
    exec (.volumeValidWrite v x) s = .next (writeVolumeValid v.val x (ungate (islandOf (0x31000 + 0x20 * v.val)) s)) :=
  exec_of_lands hl (exec_volumeValidWrite s)

/-- Settles O5: a write of 1 leaves what `setVolumeValid` writes for the outcome of the checks. -/
theorem volumeValidity : Obligations.VolumeValidity := by
  intro s v hl n b e checks
  obtain ⟨hpass, hfail⟩ := writeVolumeValid_true v.val (ungate (islandOf (0x31000 + 0x20 * v.val)) s)
  refine ⟨.of_next (exec_volumeValidWrite_of_lands v true hl) ⟨fun h => ?_, fun h => ?_, ?_⟩,
    .of_next (exec_volumeValidWrite_of_lands v false hl) ⟨?_, ?_, keeps_setVolumeValid _ 0 0 _⟩⟩
  · rw [hpass h]; exact get_setVolumeValid _ (by decide) (by decide) _
  · rw [hfail h]; exact get_setVolumeValid _ (by decide) (by decide) _
  · by_cases h : checks
    · rw [hpass h]; exact keeps_setVolumeValid _ _ _ _
    · rw [hfail h]; exact keeps_setVolumeValid _ _ _ _
  · exact (get_setVolumeValid _ (by decide) (by decide) _).1
  · exact (get_setVolumeValid _ (by decide) (by decide) _).2

/-! Members and roles -/

section Placement
variable {g : Geo} {row : Nat}

/-- The member that has the role of a member of a local group is that member. -/
theorem Geo.memberOf_role_local (hl : g.layout ≠ 2) (hd : 1 ≤ g.dpg) {i : Nat} (hi : i < g.groups * g.m) :
    g.memberOf row (g.role row i) = i := by
  have hm : g.m = g.dpg + 1 := rfl
  have hq : i % g.m < g.m := Nat.mod_lt _ (Nat.succ_pos _)
  have hp : row % g.m < g.m := Nat.mod_lt _ (Nat.succ_pos _)
  have hk : i / g.m < g.groups := (Nat.div_lt_iff_lt_mul (Nat.succ_pos _)).mpr hi
  have hrole := Geo.role_local (row := row) hl hk hq
  rw [Nat.div_add_mod] at hrole
  rw [hrole]
  split_ifs with hpar
  · rw [Geo.memberOf, if_neg hl, ← hpar, Nat.div_add_mod]
  · have hdist : (i % g.m + g.m - row % g.m - 1) % g.m < g.dpg ∧
        (row % g.m + 1 + (i % g.m + g.m - row % g.m - 1) % g.m) % g.m = i % g.m := by
      rcases Nat.lt_or_ge (row % g.m) (i % g.m) with hlt | hge
      · rw [show i % g.m + g.m - row % g.m - 1 = i % g.m - row % g.m - 1 + g.m by omega, Nat.add_mod_right,
          Nat.mod_eq_of_lt (by omega), show row % g.m + 1 + (i % g.m - row % g.m - 1) = i % g.m by omega]
        exact ⟨by omega, Nat.mod_eq_of_lt hq⟩
      · rw [Nat.mod_eq_of_lt (by omega), show row % g.m + 1 + (i % g.m + g.m - row % g.m - 1) = i % g.m + g.m by omega,
          Nat.add_mod_right]
        exact ⟨by omega, Nat.mod_eq_of_lt hq⟩
    obtain ⟨hlt, hback⟩ := hdist
    rw [Geo.memberOf, if_neg hl, Nat.mul_add_div (by omega), Nat.div_eq_of_lt hlt, Nat.add_zero, Nat.mul_add_mod, Nat.mod_eq_of_lt hlt,
      hback, Nat.div_add_mod]

theorem Geo.memberOf_role_gen1 (hl : g.layout = 2) {i : Nat} (hi : i < g.members) : g.memberOf row (g.role row i) = i := by
  have hp := g.gen1P_lt (row := row) hl
  have hn := g.members_gen1 hl
  rw [Geo.role_gen1 hl]
  split_ifs with hP hQ
  · rw [Geo.memberOf_gen1_par hl, hP]
  · rw [Geo.memberOf_gen1_glob hl, hQ]
  · rw [Geo.memberOf_gen1_data hl, Nat.add_mod_mod,
      show g.gen1P row + 2 + (i + 2 * g.members - g.gen1P row - 2) = i + g.members * 2 by omega, Nat.add_mul_mod_self_left,
      Nat.mod_eq_of_lt hi]

theorem Geo.memberOf_role (hd : 1 ≤ g.dpg) {i : Nat} (hi : i < g.members) : g.memberOf row (g.role row i) = i := by
  by_cases hl : g.layout = 2
  · exact Geo.memberOf_role_gen1 hl hi
  · by_cases hloc : i < g.groups * g.m
    · exact Geo.memberOf_role_local hl hd hloc
    · simp only [Geo.role, Geo.memberOf, if_neg hl, if_neg hloc]
      omega

end Placement

/-- Settles O8. -/
theorem everyMemberHasItsRole : Obligations.EveryMemberHasItsRole := fun _ _ _ hd hi => Geo.memberOf_role hd hi

end Sys2Proof.Machine
end

section
/-! The address mapping (R51, R52), total deficits (R61) and what a translation answers (R51). -/

open Sys2Proof

namespace Sys2Proof.Machine

/-! The address mapping -/

theorem Geo.unitBlocks_eq {g : Geo} (h : 12 ≤ g.shift) : g.unitBlocks = 2 ^ (g.shift - 12) := by
  rw [Geo.unitBlocks, Geo.unit, show 4096 = 2 ^ 12 from rfl, Nat.pow_div h (by decide)]

theorem Geo.unit_eq {g : Geo} (h : 12 ≤ g.shift) : g.unit = 4096 * g.unitBlocks := by
  rw [Geo.unitBlocks_eq h, Geo.unit, show 4096 = 2 ^ 12 from rfl, ← Nat.pow_add, Nat.add_sub_cancel' h]

theorem Geo.unitBlocks_pos {g : Geo} (h : 12 ≤ g.shift) : 0 < g.unitBlocks := by
  rw [Geo.unitBlocks_eq h]; exact Nat.two_pow_pos _

/-- The rows that a volume's blocks lie in: `full` blocks to a row, counted from the volume's first row. -/
theorem row_bounds {base rows full lba : Nat} (h : lba < rows * full) :
    base ≤ (base * full + lba) / full ∧ (base * full + lba) / full < base + rows := by
  have hpos : 0 < full := Nat.pos_of_mul_pos_left (Nat.zero_lt_of_lt h)
  rw [Nat.mul_comm base, Nat.mul_add_div hpos]
  have hrow : lba / full < rows := (Nat.div_lt_iff_lt_mul hpos).mpr h
  exact ⟨Nat.le_add_right _ _, Nat.add_lt_add_left hrow _⟩

/-- A number taken apart by whole rows, units of a row and the rest is put together again. -/
theorem mul_add_of_div_mod (a d u : Nat) : a / (d * u) * (d * u) + a % (d * u) / u * u + a % u = a := by
  have hrest : a % (d * u) % u = a % u := Nat.mod_mul_left_mod a d u
  calc a / (d * u) * (d * u) + a % (d * u) / u * u + a % u
      = a / (d * u) * (d * u) + (a % (d * u) / u * u + a % (d * u) % u) := by rw [hrest, Nat.add_assoc]
    _ = a / (d * u) * (d * u) + a % (d * u) := by rw [Nat.div_add_mod']
    _ = a := Nat.div_add_mod' _ _

/-- Settles O9. -/
theorem addressMapping : Obligations.AddressMapping := by
  intro s v lba g hd hshift hlba at'
  have hub : 0 < g.unitBlocks := Geo.unitBlocks_pos hshift
  have hfull : 0 < g.dataCount * g.unitBlocks := Nat.mul_pos hd hub
  rw [State.volBlocks, Nat.mul_assoc] at hlba
  obtain ⟨hlow, hhigh⟩ := row_bounds (base := s.volBase v) hlba
  refine ⟨hlow, hhigh, (Nat.div_lt_iff_lt_mul hub).mpr (Nat.mod_lt _ hfull), Nat.mod_lt _ hub, ?_⟩
  have hsplit := mul_add_of_div_mod (s.volBase v * (g.dataCount * g.unitBlocks) + lba) g.dataCount g.unitBlocks
  have hback : s.lbaAt v at'.1 at'.2.1 at'.2.2 + s.volBase v * (g.dataCount * g.unitBlocks)
      = at'.1 * (g.dataCount * g.unitBlocks) + at'.2.1 * g.unitBlocks + at'.2.2 := by
    simp only [State.lbaAt]
    obtain ⟨r, hr⟩ := Nat.exists_eq_add_of_le hlow
    rw [show at'.1 = s.volBase v + r from hr, Nat.add_sub_cancel_left]
    ring
  have hrest : at'.1 * (g.dataCount * g.unitBlocks) + at'.2.1 * g.unitBlocks + at'.2.2
      = s.volBase v * (g.dataCount * g.unitBlocks) + lba := hsplit
  omega

/-! Deficits -/

/-- The data index that a member has in a phase where it lies in a group. -/
def Geo.dataIn (g : Geo) (phase k i : Nat) : Option Nat :=
  match g.role phase i with
  | .data d => if g.groupOf d = k then some d else none
  | _ => none

section Deficit
variable {g : Geo} {phase k : Nat}

theorem Geo.dataIn_eq_some {i d : Nat} : g.dataIn phase k i = some d ↔ g.role phase i = .data d ∧ g.groupOf d = k := by
  unfold Geo.dataIn
  cases g.role phase i <;> simp
  aesop

/-- Two members that have one data index are one. -/
theorem Geo.dataIn_injective (hd : 1 ≤ g.dpg) {i j d : Nat} (hi : i < g.members) (hj : j < g.members)
    (h : g.dataIn phase k i = some d) (h' : g.dataIn phase k j = some d) : i = j := by
  rw [← Geo.memberOf_role (row := phase) hd hi, ← Geo.memberOf_role (row := phase) hd hj, (Geo.dataIn_eq_some.mp h).1,
    (Geo.dataIn_eq_some.mp h').1]

/-- The data indices of the erased members of a group. -/
def Geo.datas (g : Geo) (phase : Nat) (erased : List Nat) (k : Nat) : List Nat := erased.filterMap (g.dataIn phase k)

theorem Geo.datas_nodup (hd : 1 ≤ g.dpg) {erased : List Nat} (hn : erased.Nodup) (hm : ∀ i ∈ erased, i < g.members) :
    (g.datas phase erased k).Nodup := by
  refine List.pairwise_filterMap.mpr (hn.imp_of_mem fun {i j} hi hj hne d hdi d' hdj hdd => ?_)
  subst hdd
  exact hne (Geo.dataIn_injective hd (hm i hi) (hm j hj) hdi hdj)

/-- A group that the decodability rules count has its parity at the place that the row gives it. -/
theorem Geo.role_memberOf_par_of_mem_evalGroups (hk : k ∈ g.evalGroups) : g.role phase (g.memberOf phase (.par k)) = .par k := by
  unfold Geo.evalGroups at hk
  split_ifs at hk with hl
  · obtain rfl := List.mem_singleton.mp hk
    rw [Geo.memberOf_gen1_par hl, Geo.role_gen1 hl, if_pos rfl]
  · exact Geo.role_memberOf_par hl (List.mem_range.mp hk)

theorem Geo.role_eq_par_iff (hd : 1 ≤ g.dpg) (hk : k ∈ g.evalGroups) {i : Nat} (hi : i < g.members) :
    g.role phase i = .par k ↔ i = g.memberOf phase (.par k) :=
  ⟨fun h => by rw [← h, Geo.memberOf_role hd hi], fun h => h ▸ Geo.role_memberOf_par_of_mem_evalGroups hk⟩

/-- The erased members of a group are those that hold data of it and those that hold its parity. -/
theorem Geo.length_filter_memberGroup (erased : List Nat) :
    (erased.filter (fun i => g.memberGroup phase i == some k)).length
      = (g.datas phase erased k).length + (erased.filter (fun i => g.role phase i == .par k)).length := by
  induction erased with
  | nil => rfl
  | cons i t ih =>
    simp only [Geo.datas] at ih ⊢
    rw [List.filter_cons, List.filter_cons, List.filterMap_cons]
    cases hr : g.role phase i with
    | data d =>
      have hgroup : g.memberGroup phase i = some (g.groupOf d) := by simp [Geo.memberGroup, hr]
      by_cases hg : g.groupOf d = k <;> simp [hgroup, Geo.dataIn, hr, hg, ih]
      omega
    | par j =>
      have hgroup : g.memberGroup phase i = some j := by simp [Geo.memberGroup, hr]
      by_cases hj : j = k <;> simp [hgroup, Geo.dataIn, hr, hj, ih]
      omega
    | glob j =>
      have hgroup : g.memberGroup phase i = none := by simp [Geo.memberGroup, hr]
      simp [hgroup, Geo.dataIn, hr, ih]

/-- At most one erased member holds a group's parity. -/
theorem Geo.length_filter_par (hd : 1 ≤ g.dpg) (hk : k ∈ g.evalGroups) {erased : List Nat} (hn : erased.Nodup)
    (hm : ∀ i ∈ erased, i < g.members) :
    (erased.filter (fun i => g.role phase i == .par k)).length
      = if erased.contains (g.memberOf phase (.par k)) then 1 else 0 := by
  have hcongr : erased.filter (fun i => g.role phase i == .par k) = erased.filter (· == g.memberOf phase (.par k)) := by
    refine List.filter_congr fun i hi => ?_
    rw [Bool.eq_iff_iff, beq_iff_eq, beq_iff_eq, Geo.role_eq_par_iff hd hk (hm i hi)]
  rw [hcongr, ← List.countP_eq_length_filter, ← List.count, hn.count]
  simp

/-- Without its largest element, a list of different numbers is one shorter. -/
theorem length_filter_ne_foldl_max {l : List Nat} (hn : l.Nodup) : (l.filter (fun d => d != l.foldl max 0)).length = l.length - 1 := by
  cases l with
  | nil => rfl
  | cons a t =>
    have hmem : (a :: t).foldl max 0 ∈ a :: t := by
      rw [List.foldl_cons, Nat.zero_max]
      exact List.max?_mem List.max?_cons'
    rw [← hn.erase_eq_filter, List.length_erase_of_mem hmem]

theorem Geo.length_unknowns (hd : 1 ≤ g.dpg) (hk : k ∈ g.evalGroups) {erased : List Nat} (hn : erased.Nodup)
    (hm : ∀ i ∈ erased, i < g.members) :
    (g.unknowns phase erased k).length = (erased.filter (fun i => g.memberGroup phase i == some k)).length - 1 := by
  have hdatas : g.unknowns phase erased k
      = if erased.contains (g.memberOf phase (.par k)) then (g.datas phase erased k).map (fun d => gf16Pow 2 (d + 1))
        else ((g.datas phase erased k).filter (fun d => d != (g.datas phase erased k).foldl max 0)).map
          (fun d => Nat.xor (gf16Pow 2 (d + 1)) (gf16Pow 2 ((g.datas phase erased k).foldl max 0 + 1))) := rfl
  rw [Geo.length_filter_memberGroup, Geo.length_filter_par hd hk hn hm, hdatas]
  split_ifs with hpar
  · simp
  · rw [List.length_map, length_filter_ne_foldl_max (Geo.datas_nodup hd hn hm), Nat.add_zero]

end Deficit

/-- Settles O10: each group has one unknown less than its erased members. -/
theorem totalDeficit : Obligations.TotalDeficit := by
  intro g phase erased hd hn hm
  rw [Geo.deficit, List.map_congr_left fun k hk => Geo.length_unknowns hd hk hn hm]

/-! Translations -/

/-- An offset within a volume lies where its block lies: whole units are blocks, so a byte's row, data index and place are its block's. -/
theorem locate_of_bytes {s : State} {v x : Nat} (h : 12 ≤ (s.geo (s.volArray v)).shift) :
    let g := s.geo (s.volArray v)
    let du := g.dataCount * g.unit
    let a := s.volBase v * du + x
    s.locate v (x / 4096) = (a / du, (a % du / g.unit, a % g.unit / 4096)) ∧ a % 4096 = x % 4096 := by
  intro g du a
  have hu : g.unit = 4096 * g.unitBlocks := Geo.unit_eq h
  have hdu : du = 4096 * (g.dataCount * g.unitBlocks) := by rw [show du = g.dataCount * g.unit from rfl, hu]; ring
  have ha : a = 4096 * (s.volBase v * (g.dataCount * g.unitBlocks)) + x := by
    rw [show a = s.volBase v * du + x from rfl, hdu]; ring
  have hblock : a / 4096 = s.volBase v * (g.dataCount * g.unitBlocks) + x / 4096 := by
    rw [ha, Nat.mul_add_div (by decide)]
  have hrow : a / du = a / 4096 / (g.dataCount * g.unitBlocks) := by rw [hdu, Nat.div_div_eq_div_mul]
  have hdata : a % du / g.unit = a / 4096 % (g.dataCount * g.unitBlocks) / g.unitBlocks := by
    rw [hdu, hu, ← Nat.div_div_eq_div_mul, Nat.mod_mul_right_div_self]
  have hplace : a % g.unit / 4096 = a / 4096 % g.unitBlocks := by rw [hu, Nat.mod_mul_right_div_self]
  refine ⟨?_, by rw [ha, Nat.mul_add_mod]⟩
  rw [hrow, hdata, hplace, hblock]
  rfl

/-- A member offset in blocks and the rest within a block make the offset in bytes: the header area and the units are whole blocks. -/
theorem Geo.memberLba_mul_add {g : Geo} (hhdr : 4096 ∣ g.hdr) (hshift : 12 ≤ g.shift) (row : Nat) {a r : Nat} (hr : a % 4096 = r) :
    g.memberLba row (a % g.unit / 4096) * 4096 + r = g.hdr + row * g.unit + a % g.unit := by
  have hu : g.unit = 4096 * g.unitBlocks := Geo.unit_eq hshift
  have hwhole : 4096 ∣ g.hdr + row * g.unit := (Nat.dvd_add_right hhdr).mpr (hu ▸ (Nat.dvd_mul_right _ _).mul_left _)
  have hrest : a % g.unit % 4096 = r := by rw [hu, Nat.mod_mul_right_mod, hr]
  rw [Geo.memberLba, Nat.add_mul, Nat.div_mul_cancel hwhole, Nat.add_assoc, ← hrest, Nat.div_add_mod']

/-- A header area is whole MiB (R41). -/
theorem State.dvd_geo_hdr (s : State) (n : Nat) : 4096 ∣ (s.geo n).hdr := (by decide : 4096 ∣ 2 ^ 20).mul_left _

/-- Settles O11. -/
theorem translationResult : Obligations.TranslationResult := by
  intro s hb v x g hv hx hshift du a row d
  have h12 : 12 ≤ g.shift := by omega
  obtain ⟨hloc, hrest⟩ := locate_of_bytes (s := s) (v := v) (x := x) h12
  refine .of_next (exec_xlateDone_of_inside (g := g) hb hv hx hloc rfl) ⟨get_done_setXlate .., get_noVolume_setXlate ..,
    get_outOfRange_setXlate .., get_slot_setXlate .., get_parSlot_setXlate .., get_dataIdx_setXlate .., get_group_setXlate .., ?_⟩
  rw [get64_moff_setXlate]
  exact congrArg (· % 2 ^ 64) (Geo.memberLba_mul_add (s.dvd_geo_hdr _) h12 row hrest)

end Sys2Proof.Machine
end

section
/-! Engines (R96 to R100, R106 to R109): what changes of an engine's state and record leave, and the obligation O2. -/

open Sys2Proof

namespace Sys2Proof.Machine

/-! An engine's state and record -/

theorem engState_setEng_self (e st : Nat) (s : State) : (setEng e st s).engState e = st % 16 := get_setF_self _ _ _

theorem setEng_engines (e st : Nat) (s : State) : (setEng e st s).oxe = s.oxe := rfl

/-- Engine states lie in OXE_ENG_STATE0 to OXE_ENG_STATE3. -/
theorem engField_key (e : Nat) : (engField e).key = 0x40020 * 32 + 128 * (e / 8) + 4 * (e % 8) := by
  simp only [engField, Field.key]; omega

theorem get_setEng_of_key_ne {e st : Nat} {s : State} {f : Field} (h : (engField e).key ≠ f.key) : (setEng e st s).get f = s.get f :=
  get_setF_ne _ _ _ _ h

theorem keeps_setEng_iff {fs : List Field} {s t : State} {e st : Nat} (h : (engField e).key ∈ fs.map Field.key) :
    Keeps fs s (setEng e st t) ↔ Keeps fs s t := (keeps_setF_iff h).trans (keeps_congr rfl rfl)

@[simp] theorem get_onEng (e : Nat) (f : Engine → Engine) (s : State) (g : Field) : (onEng e f s).get g = s.get g := rfl

@[simp] theorem keeps_onEng_iff {fs : List Field} {s t : State} {e : Nat} {f : Engine → Engine} :
    Keeps fs s (onEng e f t) ↔ Keeps fs s t := keeps_congr rfl rfl

theorem eng_onEng_self (e : Nat) (f : Engine → Engine) (s : State) : (onEng e f s).eng e = f (s.eng e) := by
  simp [State.eng, onEng, Assoc.getD, Assoc.find_set]

theorem returnQueue_regs (e : Nat) (s : State) : (returnQueue e s).regs = s.regs := rfl
theorem returnQueue_mem (e : Nat) (s : State) : (returnQueue e s).mem = s.mem := rfl
theorem returnQueue_sys (e : Nat) (s : State) : (returnQueue e s).sys = s.sys := rfl

/-- An engine that runs no job has its whole queue given back. -/
theorem eng_returnQueue_of_idle {e : Nat} {s : State} (h : (s.eng e).running = false) :
    (returnQueue e s).eng e = { s.eng e with queue := [] } := by
  have hrec : (returnQueue e s).eng e
      = (onEng e (fun x => { x with queue := if (s.eng e).running then (s.eng e).queue.take 1 else [] }) s).eng e := rfl
  simp [hrec, eng_onEng_self, h]

/-! The commands -/

theorem exec_ringTailWrite_of_lands {s : State} {r : Fin 16} {tail : Nat} (hl : s.lands (0x41018 + 0x40 * r.val) = true)
    (ht : tail ≤ s.get (Reg.OXE_RING_CFG_SIZE_M1 r.val)) :
    exec (.ringTailWrite r tail) s = .next (setF (Reg.OXE_RING_TAIL_TAIL r.val) tail (ungate (islandOf (0x41018 + 0x40 * r.val)) s)) :=
  (exec_of_lands hl (exec_ringTailWrite s)).trans (congrArg _ (if_neg ht.not_gt))

/-- PAUSE of an engine in service that runs no job takes it out of dispatch, its queue given back. -/
theorem settlePause_of_idle {e : Nat} {s : State} (hp : s.on (Reg.OXE_ENG_CTRL_PAUSE e) = true) (he : s.engState e = EngSt.inService)
    (hr : (s.eng e).running = false) : settlePause e s = keepTarget (setEng e EngSt.paused (returnQueue e s)) := by
  simp [settlePause, hp, he, hr]

/-- A paused engine whose PAUSE is clear comes back. -/
theorem settlePause_of_paused {e : Nat} {s : State} (hp : s.on (Reg.OXE_ENG_CTRL_PAUSE e) = false) (he : s.engState e = EngSt.paused) :
    settlePause e s = keepTarget (setEng e EngSt.inService s) := by
  simp [settlePause, hp, he]

theorem exec_enginePause_of_lands {s : State} {e : Fin 28} (p : Bool) (hl : s.lands (0x48000 + 0x100 * e.val) = true) :
    exec (.enginePause e p) s
      = .next (settlePause e.val (setF (Reg.OXE_ENG_CTRL_PAUSE e.val) (b2n p) (ungate (islandOf (0x48000 + 0x100 * e.val)) s))) :=
  exec_of_lands hl (exec_enginePause s)

/-- What TEST leaves of an engine that takes it. -/
def startEngineTest (e st : Nat) (s : State) : State :=
  setEng e EngSt.testing (onEng e (fun x => { x with testFor := 1, back := st })
    (setF (Reg.OXE_ENG_INFO_TEST_DONE e) 0 (setF (Reg.OXE_ENG_CTRL_TEST e) 1 s)))

theorem exec_engineTest_of_spare {s : State} {e : Fin 28} (hl : s.lands (0x48000 + 0x100 * e.val) = true)
    (he : s.engState e.val = EngSt.spare) :
    exec (.engineTest e) s = .next (startEngineTest e.val EngSt.spare (ungate (islandOf (0x48000 + 0x100 * e.val)) s)) := by
  refine (exec_of_lands hl (exec_engineTest s)).trans (congrArg _ ?_)
  have hst : (ungate (islandOf (0x48000 + 0x100 * e.val)) s).engState e.val = EngSt.spare := he
  simp only [hst, true_or, if_true]
  rfl

/-- What the end of a test for an arbitration leaves (R105, R107). -/
def showTest (e : Nat) (pass : Bool) (s : State) : State :=
  onEng e (fun x => { x with testPassed := some pass }) (setF (Reg.OXE_ENG_INFO_TEST_PASS e) (b2n pass)
    (setF (Reg.OXE_ENG_INFO_TEST_DONE e) 1 (setF (Reg.OXE_ENG_CTRL_TEST e) 0 s)))

theorem exec_katDone_of_arbitration {s : State} {e : Fin 28} {pass : Bool} (h : (s.eng e.val).testFor = 3) :
    exec (.katDone e pass) s = .next (showTest e.val pass s) := by
  rw [exec_katDone]
  simp only [execKatDone, h, OfNat.ofNat_ne_zero, if_false, if_true]
  rfl

/-- What a write of an accumulator word leaves (R109). -/
def writeAcc (e w v : Nat) (s : State) : State := onEng e (fun x => { x with acc := Assoc.set x.acc w v }) s

theorem exec_accumulatorAccess_write {s : State} {e : Fin 28} {off : Nat} (v : Word) (he : s.engState e.val = EngSt.paused)
    (hq : (s.eng e.val).queue = []) :
    exec (.accumulatorAccess e off (some v)) s = .next (writeAcc e.val (off % 0x100000 / 4) v.toNat s) := by
  rw [exec_accumulatorAccess]
  exact if_pos ⟨he, hq⟩

theorem exec_accumulatorAccess_read {s : State} {e : Fin 28} {off v : Nat} (he : s.engState e.val = EngSt.paused)
    (hq : (s.eng e.val).queue = []) (hacc : Assoc.find (s.eng e.val).acc (off % 0x100000 / 4) = some v) :
    exec (.accumulatorAccess e off none) s = .next (emit (.readValue v) s) := by
  rw [exec_accumulatorAccess]
  simp only [execAccumulatorAccess, he, hq, hacc, and_self, if_true]

/-- Settles O2. -/
theorem engineCommandsComplete : Obligations.EngineCommandsComplete := by
  refine ⟨fun s r tail hl ht => ?tail, fun s r ha hh hc => ?age, fun s e hl he hr => ?pause, fun s e hl he => ?resume, fun s e hl he => ?test,
    fun s e pass h => ?kat, fun s e off v he hq => ?acc⟩
  case tail => exact .of_next (exec_ringTailWrite_of_lands hl ht) ⟨get_setF_self _ _ _, by simp⟩
  case age =>
    refine .of_next (t := { s with oxe := { s.oxe with risen := Assoc.set s.oxe.risen r.val (Assoc.getD s.oxe.risen r.val 0 + 1) } }) ?_
      ⟨?_, by simp⟩
    · rw [exec_jobAgePromotion]
      exact if_pos (by simp [ha, hh, hc])
    · simp only [State.ringClass, Assoc.getD, Assoc.find_set, if_true, Option.getD_some, get_written]
      omega
  case pause =>
    refine .of_next (g := keepTarget) ((exec_enginePause_of_lands true hl).trans (congrArg _ (settlePause_of_idle ?_ ?_ hr)))
      ⟨engState_setEng_self .., ?_, ?_, ?_⟩
    · exact on_setF_b2n rfl true _
    · exact (get_setF_ne _ _ _ _ (by rw [engField_key]; simp only [Field.key, Reg.OXE_ENG_CTRL_PAUSE]; omega)).trans he
    · rw [get_setEng_of_key_ne (by rw [engField_key]; simp only [Field.key, Reg.OXE_ENG_CTRL_PAUSE]; omega),
        get_of_regs _ (returnQueue_regs _ _), get_setF_self]
      rfl
    · exact congrArg Engine.queue (eng_returnQueue_of_idle hr)
    · rw [keeps_setEng_iff (by simp), keeps_congr (returnQueue_regs _ _) (returnQueue_mem _ _)]
      simp
  case resume =>
    refine .of_next (g := keepTarget) ((exec_enginePause_of_lands false hl).trans (congrArg _ (settlePause_of_paused ?_ ?_)))
      ⟨engState_setEng_self .., ?_, ?_⟩
    · exact on_setF_b2n rfl false _
    · exact (get_setF_ne _ _ _ _ (by rw [engField_key]; simp only [Field.key, Reg.OXE_ENG_CTRL_PAUSE]; omega)).trans he
    · rw [get_setEng_of_key_ne (by rw [engField_key]; simp only [Field.key, Reg.OXE_ENG_CTRL_PAUSE]; omega), get_setF_self]
      rfl
    · rw [keeps_setEng_iff (by simp)]
      simp
  case test =>
    refine .of_next (exec_engineTest_of_spare hl he) ⟨engState_setEng_self .., ?_, ?_, ?_⟩ <;> unfold startEngineTest
    · rw [get_setEng_of_key_ne (by rw [engField_key]; simp only [Field.key, Reg.OXE_ENG_CTRL_TEST]; omega), get_onEng,
        get_setF_ne _ _ _ _ (by simp only [Field.key, Reg.OXE_ENG_CTRL_TEST, Reg.OXE_ENG_INFO_TEST_DONE]; omega), get_setF_self]
      rfl
    · rw [get_setEng_of_key_ne (by rw [engField_key]; simp only [Field.key, Reg.OXE_ENG_INFO_TEST_DONE]; omega), get_onEng, get_setF_zero]
    · rw [keeps_setEng_iff (by simp)]
      simp
  case kat =>
    refine .of_next (exec_katDone_of_arbitration h) ⟨?_, ?_, ?_, congrArg Engine.testPassed (eng_onEng_self _ _ _), ?_⟩ <;>
      simp only [showTest, get_onEng, State.on, keeps_onEng_iff]
    · simp (disch := (simp only [Field.key, Reg.OXE_ENG_CTRL_TEST, Reg.OXE_ENG_INFO_TEST_DONE, Reg.OXE_ENG_INFO_TEST_PASS]; omega)) only
        [get_setF_ne, get_setF_zero]
    · simp (disch := (simp only [Field.key, Reg.OXE_ENG_INFO_TEST_DONE, Reg.OXE_ENG_INFO_TEST_PASS]; omega)) only
        [get_setF_ne, get_setF_self]
      rfl
    · exact on_setF_b2n rfl pass _
    · simp
  case acc =>
    refine .of_next (exec_accumulatorAccess_write v he hq) (.of_next (exec_accumulatorAccess_read he ?_ ?_) ⟨rfl, ?_⟩)
    · rw [writeAcc, eng_onEng_self]; exact hq
    · rw [writeAcc, eng_onEng_self]; exact (Assoc.find_set _ _ _ _).trans (if_pos rfl)
    · simp [writeAcc]

end Sys2Proof.Machine
end

section
/-! An idle engine retired (R100, R106): what its retirement leaves before the scheduler and the triggers, and the obligation O3. -/

open Sys2Proof

namespace Sys2Proof.Machine

/-- An engine's retirement, before the module is told that too few engines are left (R106, R462). -/
def retired (e : Nat) (s : State) : State :=
  pushRecord 5 0x21 e 1 0 (retireIsland (engIsland e) (event Reg.OXE_EVENT_ENGINE_RETIRED Reg.OXE_RETIRE_CNT
    (setEng e EngSt.retired (returnQueue e (onEng e (fun x => { x with
      running := false, retireDue := false, testFor := 0, testPassed := if x.testFor = 3 then some false else x.testPassed }) s)))))

/-- A fault where fewer than 12 engines are left in service. -/
def faultBelowTwelve (s : State) : State := when (decide (s.inService.length < 12)) (raiseFault 2) s

theorem retireEngine_of_not_retired {e : Nat} {s : State} (h : s.engState e ≠ EngSt.retired) :
    retireEngine e s = keepTarget (faultBelowTwelve (retired e s)) := if_neg h

theorem get_faultBelowTwelve {s : State} {f : Field} (hf : f.key ∉ hostFields.map Field.key) : (faultBelowTwelve s).get f = s.get f :=
  when_of_eq _ (fun t => t.get f) (get_raiseFault hf)

theorem oxe_faultBelowTwelve (s : State) : (faultBelowTwelve s).oxe = s.oxe := when_of_eq _ State.oxe (oxe_raiseFault 2 s)

theorem sys_faultBelowTwelve (s : State) : (faultBelowTwelve s).sys = s.sys := when_of_eq _ State.sys (sys_raiseFault 2 s)

theorem engField_key_bounds {e : Nat} (he : e < 28) : 0x40020 * 32 ≤ (engField e).key ∧ (engField e).key < 0x40030 * 32 := by
  rw [engField_key]; omega

section Retired
variable {e : Nat} (s : State)

theorem engState_retired (he : e < 28) : (retired e s).engState e = EngSt.retired := by
  have hb := engField_key_bounds he
  have hrec : (engField e).key ∉ recordFields.map Field.key := by
    have hout : ∀ k ∈ recordFields.map Field.key, 0x40030 * 32 ≤ k := by decide
    exact fun h => by have := hout _ h; omega
  have hflag : Reg.OXE_EVENT_ENGINE_RETIRED.key ≠ (engField e).key := by
    have : Reg.OXE_EVENT_ENGINE_RETIRED.key = 0x40030 * 32 + 2 := rfl
    omega
  have hcnt : Reg.OXE_RETIRE_CNT.key ≠ (engField e).key := by
    have : Reg.OXE_RETIRE_CNT.key = 0x40050 * 32 := rfl
    omega
  calc (retired e s).engState e = _ := get_pushRecord _ _ _ _ _ _ hrec
    _ = _ := get_event_ne hflag hcnt
    _ = EngSt.retired := engState_setEng_self _ _ _

theorem queue_retired : ((retired e s).eng e).queue = [] := by
  have hoxe : (retired e s).eng e = (returnQueue e (onEng e (fun x => { x with
      running := false, retireDue := false, testFor := 0, testPassed := if x.testFor = 3 then some false else x.testPassed }) s)).eng e := by
    simp only [State.eng, retired, oxe_pushRecord]
    rfl
  rw [hoxe, eng_returnQueue_of_idle (by rw [eng_onEng_self])]

theorem get_event_retired : (retired e s).get Reg.OXE_EVENT_ENGINE_RETIRED = 1 := by
  rw [retired, get_pushRecord _ _ _ _ _ _ (by decide)]
  exact get_event_flag _ _ _ (by decide) (by decide)

theorem get_cnt_retired (he : e < 28) : (retired e s).get Reg.OXE_RETIRE_CNT = (s.get Reg.OXE_RETIRE_CNT + 1) % 2 ^ 32 := by
  have hb := engField_key_bounds he
  have hne : (engField e).key ≠ Reg.OXE_RETIRE_CNT.key := by
    have : Reg.OXE_RETIRE_CNT.key = 0x40050 * 32 := rfl
    omega
  rw [retired, get_pushRecord _ _ _ _ _ _ (by decide)]
  refine (get_event_cnt _ _ _ (by decide)).trans ?_
  rw [get_setEng_of_key_ne hne, get_of_regs _ (returnQueue_regs _ _), get_onEng]
  rfl

theorem mem_retired_retireIsland (i : Island) (t : State) : i ∈ (retireIsland i t).sys.retired := by
  simp only [retireIsland]
  split_ifs with h
  · simpa using h
  · simp

theorem mem_retired (e : Fin 28) : Island.ox e ∈ (retired e.val s).sys.retired := by
  have hisland : engIsland e.val = .ox e := dif_pos e.isLt
  rw [retired, sys_pushRecord, ← hisland]
  exact mem_retired_retireIsland _ _

end Retired

/-- RETIRE that lands on an engine with no job running. -/
theorem exec_engineRetire_of_idle {s : State} {e : Fin 28} (hl : s.lands (0x48000 + 0x100 * e.val) = true)
    (hr : (s.eng e.val).running = false) :
    exec (.engineRetire e) s = .next (settle (retireEngine e.val (setF (Reg.OXE_ENG_CTRL_RETIRE e.val) 1
      (onEng e.val (fun x => { x with retireDue := true }) (ungate (islandOf (0x48000 + 0x100 * e.val)) s))))) := by
  refine (exec_of_lands hl (exec_engineRetire s)).trans (congrArg _ (congrArg settle ?_))
  have heng (f : Field) (v : Nat) (t : State) : (setF f v t).eng e.val = t.eng e.val := rfl
  have hrun : ((ungate (islandOf (0x48000 + 0x100 * e.val)) s).eng e.val).running = false := hr
  simp only [settleEngine, heng, eng_onEng_self, hrun, Bool.false_eq_true, if_false, if_true]

/-- Settles O3. -/
theorem engineRetires : Obligations.EngineRetires := by
  intro s e hl hr he
  have hkey : (Reg.OXE_ENG_CTRL_RETIRE e.val).key ≠ (engField e.val).key := by
    rw [engField_key]; simp only [Field.key, Reg.OXE_ENG_CTRL_RETIRE]; omega
  have hlive : (setF (Reg.OXE_ENG_CTRL_RETIRE e.val) 1 (onEng e.val (fun x => { x with retireDue := true })
      (ungate (islandOf (0x48000 + 0x100 * e.val)) s))).engState e.val ≠ EngSt.retired := by
    unfold State.engState
    rwa [get_setF_ne _ _ _ _ hkey]
  have hb := engField_key_bounds e.isLt
  refine .of_next (g := fun t => settle (keepTarget t))
    ((exec_engineRetire_of_idle hl hr).trans (by rw [retireEngine_of_not_retired hlive])) ⟨?_, ?_, ?_, ?_, ?_⟩
  · exact (get_faultBelowTwelve (notMem_hostFields (by omega) (by omega))).trans (engState_retired _ e.isLt)
  · exact (congrArg (fun o => (Assoc.getD o.engines e.val {}).queue) (oxe_faultBelowTwelve _)).trans (queue_retired _)
  · exact (get_faultBelowTwelve (by decide)).trans (get_event_retired _)
  · rw [get_faultBelowTwelve (by decide), get_cnt_retired _ e.isLt,
      get_setF_ne _ _ _ _ (by simp only [Field.key, Reg.OXE_ENG_CTRL_RETIRE, Reg.OXE_RETIRE_CNT]; omega)]
    rfl
  · rw [sys_faultBelowTwelve]; exact mem_retired _ e

end Sys2Proof.Machine
end

section
/-! Mains, converter and overload (R291 to R295, R301, R488): what each event leaves before the host is told, and the obligation O17. -/

open Sys2Proof

namespace Sys2Proof.Machine

/-! Line evaluation -/

theorem rangeAt_of_mains {s : State} (h : s.on Reg.PWR_STATUS_MAINS_OK = true) (vrms : Nat) :
    s.rangeAt vrms = if 1780 ≤ vrms ∨ (s.get Reg.PWR_STATUS_LINE_RANGE = 2 ∧ 1720 ≤ vrms) then 2 else 1 := by
  simp [State.rangeAt, h]

/-- The registers that a line evaluation writes (R292), before changes are told. -/
def writeLine (vrms freq range cap : Nat) (inlet : Int) (s : State) : State :=
  setF Reg.PWR_LINE_VRMS vrms (setF Reg.PWR_LINE_FREQ freq (setF Reg.PWR_CAP_INLET (ofSigned 12 inlet)
    (setF Reg.PWR_CAP_CAP_W cap (setF Reg.PWR_STATUS_DERATING (b2n (decide (600 < inlet))) (setF Reg.PWR_STATUS_LINE_RANGE range s)))))

/-- A change of the range is told. -/
def tellRange (t : State) : State := hostEvent 5 (loopAtOnce (event Reg.PWR_EVENT_RANGE_CHANGE Reg.PWR_RANGE_CHANGE_CNT t))

/-- A change of C is told. -/
def tellCap (cap : Nat) (t : State) : State :=
  hostEvent 5 (event Reg.PWR_EVENT_CAP_CHANGE Reg.PWR_CAP_CHANGE_CNT { t with pwr := { t.pwr with capAtChange := cap } })

theorem exec_lineEvaluation_of_mains {s : State} {vrms freq : Nat} {inlet : Int} (h : s.on Reg.PWR_STATUS_MAINS_OK = true) :
    ∃ c d, exec (.lineEvaluation vrms freq inlet) s = .next (when c (tellCap (capability (s.rangeAt vrms) inlet))
      (when d tellRange (writeLine vrms freq (s.rangeAt vrms) (capability (s.rangeAt vrms) inlet) inlet s))) := by
  have hrange : s.rangeAt vrms ≠ 0 := by
    rw [rangeAt_of_mains h]
    split_ifs <;> decide
  rw [exec_lineEvaluation, execLineEvaluation]
  simp only [if_neg hrange]
  exact ⟨_, _, rfl⟩

/-- Telling the host keeps the line's registers. -/
theorem get_tellRange {t : State} {f : Field} (hf : f.key ∉ hostFields.map Field.key) (h1 : Reg.PWR_EVENT_RANGE_CHANGE.key ≠ f.key)
    (h2 : Reg.PWR_RANGE_CHANGE_CNT.key ≠ f.key) : (tellRange t).get f = t.get f :=
  ((onlyHost_hostEvent 5 _).get hf).trans (get_event_ne h1 h2)

theorem get_tellCap {cap : Nat} {t : State} {f : Field} (hf : f.key ∉ hostFields.map Field.key)
    (h1 : Reg.PWR_EVENT_CAP_CHANGE.key ≠ f.key) (h2 : Reg.PWR_CAP_CHANGE_CNT.key ≠ f.key) : (tellCap cap t).get f = t.get f :=
  ((onlyHost_hostEvent 5 _).get hf).trans (get_event_ne h1 h2)

theorem mem_tellRange (t : State) : (tellRange t).mem = t.mem := (onlyHost_hostEvent 5 _).mem

theorem mem_tellCap (cap : Nat) (t : State) : (tellCap cap t).mem = t.mem := (onlyHost_hostEvent 5 _).mem

/-- A field that no report changes reads as the evaluation wrote it. -/
theorem get_told {c d : Bool} {cap : Nat} {t : State} {f : Field} (hf : f.key ∉ hostFields.map Field.key)
    (h : ∀ k ∈ [Reg.PWR_EVENT_RANGE_CHANGE, Reg.PWR_RANGE_CHANGE_CNT, Reg.PWR_EVENT_CAP_CHANGE, Reg.PWR_CAP_CHANGE_CNT], k.key ≠ f.key) :
    (when c (tellCap cap) (when d tellRange t)).get f = t.get f :=
  (when_of_eq c (State.get · f) (get_tellCap hf (h _ (by simp)) (h _ (by simp)))).trans
    (when_of_eq d (State.get · f) (get_tellRange hf (h _ (by simp)) (h _ (by simp))))

/-! Slots that are all off -/

theorem openAll_of_all_off {s : State} (h : ∀ n ∈ allSlots, s.slotOn n = false) : openAll s = s := by
  have hnone : allSlots.filter s.slotOn = [] := List.filter_eq_nil_iff.mpr fun n hn => by simp [h n hn]
  rw [openAll, hnone]
  rfl

/-- What the loss of mains writes (R295, R296). -/
def loseMains (s : State) : State :=
  event Reg.PWR_EVENT_MAINS_LOST Reg.PWR_MAINS_LOST_CNT (setF Reg.PWR_STATUS_CONV_STATE 0 (setF Reg.PWR_CTRL_CONV_EN 0
    (setF Reg.PWR_STATUS_MAINS_OK 0 s)))

theorem slotOn_loseMains {s : State} {n : Nat} (hn : n < 108) : (loseMains s).slotOn n = s.slotOn n := by
  have hkeep : Keeps [Reg.PWR_STATUS_MAINS_OK, Reg.PWR_CTRL_CONV_EN, Reg.PWR_STATUS_CONV_STATE, Reg.PWR_EVENT_MAINS_LOST,
      Reg.PWR_MAINS_LOST_CNT] s (loseMains s) := by simp [loseMains]
  refine slotOn_congr (hkeep.get (notMem_of_below (b := 0xC0000 * 32) (by decide) ?_))
    (hkeep.get (notMem_of_below (b := 0xC0000 * 32) (by decide) ?_))
  · simp only [Field.key, Reg.SLT_STATUS_ON12]; omega
  · simp only [Field.key, Reg.SLT_STATUS_ON5]; omega

theorem exec_mainsLost_of_destaging {s : State} (hm : s.on Reg.PWR_STATUS_MAINS_OK = true) (hd : s.mode = Mode.destaging)
    (hoff : ∀ n ∈ allSlots, s.slotOn n = false) :
    exec .mainsLost s = .next (hostEvent 5 (logPlain 4 [] (fanSettleAll (loseMains s)))) := by
  have hopen : openAll (loseMains s) = loseMains s :=
    openAll_of_all_off fun n hn => (slotOn_loseMains (List.mem_range.mp hn)).trans (hoff n hn)
  rw [exec_mainsLost, execMainsLost, if_neg (by simp [hm])]
  refine (if_pos hd).trans ?_
  rw [← loseMains, hopen]

theorem softStart_of_off {s : State} (he : s.on Reg.PWR_CTRL_CONV_EN = true) (hm : s.on Reg.PWR_STATUS_MAINS_OK = true)
    (hc : s.get Reg.PWR_STATUS_CONV_STATE = 0) : softStart s = setF Reg.PWR_STATUS_CONV_STATE 1 s := by
  simp [softStart, he, hm, hc, Machine.when]

/-! A module taken out of its bay -/

/-- The module's state once its switches have opened and both lines are released (R488). -/
def unmated (s : State) : State :=
  event Reg.PWR_EVENT_CONV_FAULT Reg.PWR_CONV_FAULT_CNT (releaseActive 1 (setF Reg.FAN_TOKEN_CLAIM 0
    { s with pwr := { s.pwr with unmated := true }, fan := { s.fan with claiming := false } }))

theorem exec_moduleUnmate_of_mated {s : State} (h : s.pwr.unmated = false) (hf : s.on Reg.FAN_TOKEN_HELD = false)
    (hoff : ∀ n ∈ allSlots, s.slotOn n = false) : exec .moduleUnmate s = .next (settle (raiseFault 1 (unmated s))) := by
  have hopen : openAll { s with pwr := { s.pwr with unmated := true } } = { s with pwr := { s.pwr with unmated := true } } :=
    openAll_of_all_off hoff
  have hheld : ({ s with pwr := { s.pwr with unmated := true } } : State).on Reg.FAN_TOKEN_HELD = false := hf
  rw [exec_moduleUnmate, execModuleUnmate, if_neg (Bool.eq_false_iff.mp h), hopen, fanRelease, if_neg (Bool.eq_false_iff.mp hheld)]
  rfl

theorem get_unmated {s : State} {f : Field} (hf : f.key ∉ hostFields.map Field.key) (h1 : Reg.PWR_EVENT_CONV_FAULT.key ≠ f.key)
    (h2 : Reg.PWR_CONV_FAULT_CNT.key ≠ f.key) :
    (unmated s).get f = (setF Reg.FOV_STATUS_ACTIVE_HELD 0 (setF Reg.FAN_TOKEN_CLAIM 0 s)).get f :=
  (get_event_ne h1 h2).trans (get_roleChanged hf)

theorem pwr_unmated (s : State) : (unmated s).pwr = { s.pwr with unmated := true } := by
  have hpwr (f g : Field) (t : State) : (event f g t).pwr = t.pwr := rfl
  rw [unmated, hpwr, releaseActive, pwr_roleChanged]
  rfl

/-- What disabling the converter writes (R291). -/
def converterOff (s : State) : State :=
  setF Reg.PWR_STATUS_OVERLOAD 0 (setF Reg.PWR_STATUS_CONV_STATE 0 (setF Reg.PWR_CTRL_CONV_EN 0 s))

theorem exec_converterDisable_of_lands {s : State} (hl : s.lands 0xC0000 = true) :
    exec (.converterEnable false) s = .next (fanSettleAll (converterOff (ungate (islandOf 0xC0000) s))) := by
  rw [exec_of_lands hl (exec_converterEnable s), if_neg Bool.false_ne_true]
  rfl

theorem get_convFault_unmated (s : State) : (unmated s).get Reg.PWR_EVENT_CONV_FAULT = 1 :=
  get_event_flag _ _ _ (by decide) (by decide)

/-- Settles O17: each event's own writes, read back past what it sets to work afterwards. -/
theorem converterCommandsComplete : Obligations.ConverterCommandsComplete := by
  refine ⟨fun s vrms freq inlet hm => ?line, fun s hm hd hoff => ?lost, fun s hm => ?back, fun s hb => ?overload, fun s ho hc => ?clear,
    fun s hl hm hc => ?enable, fun s hl => ?disable, fun s hc hmode => ?regulating, fun s => ?fault, fun s v hl => ?offset,
    fun s hu hf hoff => ?unmate, fun s ha hup hp => ?hostLink⟩
  case line =>
    obtain ⟨c, d, hexec⟩ := exec_lineEvaluation_of_mains (vrms := vrms) (freq := freq) (inlet := inlet) hm
    have hrange := rangeAt_of_mains hm vrms
    have hr : s.rangeAt vrms < 4 := by rw [hrange]; split_ifs <;> decide
    have hget : (when c (tellCap (capability (s.rangeAt vrms) inlet)) (when d tellRange
        (writeLine vrms freq (s.rangeAt vrms) (capability (s.rangeAt vrms) inlet) inlet s))).get Reg.PWR_STATUS_LINE_RANGE
          = s.rangeAt vrms := by
      rw [get_told (by decide) (by decide)]
      simp (disch := decide) only [writeLine, get_setF_ne, get_setF_self]
      exact Nat.mod_eq_of_lt hr
    refine .of_next hexec ⟨hget.trans hrange, ?_, ?_, fun x => readByte_of_mem x ?_⟩
    · rw [hget, get_told (by decide) (by decide)]
      simp (disch := decide) only [writeLine, get_setF_ne, get_setF_self]
    · rw [State.on, get_told (by decide) (by decide)]
      simp (disch := decide) only [writeLine, get_setF_ne]
      exact on_setF_b2n rfl _ _
    · rw [when_of_eq c State.mem (mem_tellCap _ _), when_of_eq d State.mem (mem_tellRange _)]
      rfl
  case lost =>
    refine .of_next (g := fun t => hostEvent 5 (logPlain 4 [] (fanSettleAll t))) (exec_mainsLost_of_destaging hm hd hoff) ⟨?_, ?_, ?_, ?_, ?_⟩
      <;> unfold loseMains
    · simp (disch := decide) only [get_event_ne, get_setF_ne, get_setF_zero]
    · simp (disch := decide) only [get_event_ne, get_setF_ne, get_setF_zero]
    · simp (disch := decide) only [get_event_ne, get_setF_zero]
    · exact get_event_flag _ _ _ (by decide) (by decide)
    · simp
  case back =>
    refine .of_next (g := fun t => softStart (hostEvent 5 t))
      (t := event Reg.PWR_EVENT_MAINS_RETURN Reg.PWR_MAINS_RETURN_CNT (setF Reg.PWR_STATUS_MAINS_OK 1 s)) ?_ ⟨?_, ?_, ?_⟩
    · rw [exec_mainsReturn, execMainsReturn, if_neg (by simp [hm])]
    · exact (get_event_ne (by decide) (by decide)).trans (get_setF_one rfl _)
    · exact get_event_flag _ _ _ (by decide) (by decide)
    · simp
  case overload =>
    refine .of_next (g := hostEvent 5) (t := event Reg.PWR_EVENT_OVERLOAD Reg.PWR_OVERLOAD_CNT
      (setF Reg.PWR_STATUS_OVERLOAD 1 (setF Reg.PWR_STATUS_CONV_STATE 3 s))) ?_ ⟨?_, ?_, ?_, ?_, ?_⟩
    · rw [exec_converterOverload, execConverterOverload, if_pos hb]
    · simp (disch := decide) only [get_event_ne, get_setF_ne, get_setF_self]; rfl
    · exact (get_event_ne (by decide) (by decide)).trans (get_setF_one rfl _)
    · exact get_event_flag _ _ _ (by decide) (by decide)
    · rw [get_event_cnt _ _ _ (by decide), get_setF_ne _ _ _ _ (by decide), get_setF_ne _ _ _ _ (by decide)]; rfl
    · simp
  case clear =>
    refine .of_next (g := fun t => setF Reg.PWR_STATUS_CONV_STATE 2 (hostEvent 5 t)) (t := setF Reg.PWR_STATUS_OVERLOAD 0 s) ?_
      ⟨get_setF_zero _ _, by simp⟩
    rw [exec_overloadClear, execOverloadClear, if_pos ho]
    simp [hc, Machine.when]
  case enable =>
    refine .of_next ((exec_of_lands hl (exec_converterEnable s)).trans (congrArg _ (softStart_of_off ?_ ?_ ?_))) ⟨?_, ?_, ?_⟩
    · exact on_setF_b2n rfl true _
    · exact (on_setF_ne _ _ _ _ (by decide)).trans hm
    · exact (get_setF_ne _ _ _ _ (by decide)).trans hc
    · exact (get_setF_ne _ _ _ _ (by decide)).trans (get_setF_one rfl _)
    · exact get_setF_of_lt (by decide) _
    · simp
  case disable =>
    refine .of_next (exec_converterDisable_of_lands hl) ⟨?_, ?_, get_setF_zero _ _, ?_⟩ <;> unfold converterOff
    · simp (disch := decide) only [get_setF_ne, get_setF_zero]
    · simp (disch := decide) only [get_setF_ne, get_setF_zero]
    · simp
  case regulating =>
    refine .of_next (g := fanSettleAll) (t := setF Reg.PWR_STATUS_CONV_STATE 2 s) ?_ ⟨get_setF_of_lt (by decide) _, by simp⟩
    rw [exec_converterRegulating, execConverterRegulating, if_pos hc]
    exact congrArg _ (if_neg hmode)
  case fault =>
    refine .of_next (g := fun t => settle (raiseFault 1 (fanSettleAll (hostEvent 5 t))))
      (t := event Reg.PWR_EVENT_CONV_FAULT Reg.PWR_CONV_FAULT_CNT (setF Reg.PWR_STATUS_CONV_STATE 4 s)) (exec_convFault s) ⟨?_, ?_, ?_⟩
    · exact (get_event_ne (by decide) (by decide)).trans (get_setF_of_lt (by decide) _)
    · exact get_event_flag _ _ _ (by decide) (by decide)
    · simp
  case offset =>
    refine .of_next (exec_of_lands hl (exec_standbyOffsetWrite s)) ⟨on_setF_b2n rfl v _, rfl, ?_⟩
    exact (keeps_congr rfl rfl).mpr ((keeps_congr rfl rfl).mpr (keeps_refl _ s) |>.setF Reg.PWR_CTRL_STANDBY_OFFSET (b2n v) (by decide))
  case unmate =>
    refine .of_next (g := fun t => settle (raiseFault 1 t)) (exec_moduleUnmate_of_mated hu hf hoff) ⟨on_eq_false ?_, ?_, ?_, ?_⟩
    · exact (get_unmated (by decide) (by decide) (by decide)).trans (get_setF_zero _ _)
    · rw [get_unmated (by decide) (by decide) (by decide), get_setF_ne _ _ _ _ (by decide), get_setF_zero]
    · exact congrArg PwrPart.unmated (pwr_unmated s)
    · exact get_convFault_unmated s
  case hostLink =>
    rw [exec_hostLinkDownFault, execHostLinkDownFault, if_pos (by simp [ha, hup, hp])]

end Sys2Proof.Machine
end

section
/-! A slot's record, its rails, its enable bits and its gates: what each operation of slot power changes and what it leaves (R298 to
R305, R498). -/

open Sys2Proof

namespace Sys2Proof.Machine

/-! What stays -/

/-- What is kept on both ways through a condition is kept. -/
theorem keeps_when {fs : List Field} {s t : State} {c : Bool} {f : State → State} (h : Keeps fs s t) (hf : Keeps fs s (f t)) :
    Keeps fs s (when c f t) := by
  cases c with
  | false => exact h
  | true => exact hf

/-- An event's flag, whatever its width. -/
theorem get_event_self {flag cnt : Field} {s : State} (h : cnt.key ≠ flag.key) : (event flag cnt s).get flag = 1 % 2 ^ flag.width :=
  (get_bump_ne h).trans (get_setF_self _ _ _)

/-! The record of a slot -/

theorem slot_congr {s t : State} {n : Nat} (h : t.pwr.slots = s.pwr.slots) : t.slot n = s.slot n := by rw [State.slot, h, State.slot]

@[simp] theorem slot_onSlot_self (n : Nat) (f : SlotRec → SlotRec) (s : State) : (onSlot n f s).slot n = f (s.slot n) :=
  (Assoc.getD_put _ _ _ _ _).trans (if_pos rfl)

@[simp ↓] theorem onSlot_get (n : Nat) (f : SlotRec → SlotRec) (s : State) (g : Field) : (onSlot n f s).get g = s.get g := get_of_regs g rfl

@[simp] theorem keeps_onSlot_iff {fs : List Field} {s t : State} {n : Nat} {f : SlotRec → SlotRec} :
    Keeps fs s (onSlot n f t) ↔ Keeps fs s t := keeps_congr rfl rfl

@[simp] theorem slot_setF (f : Field) (v : Nat) (s : State) (n : Nat) : (setF f v s).slot n = s.slot n := slot_congr rfl
@[simp] theorem slot_event (f g : Field) (s : State) (n : Nat) : (event f g s).slot n = s.slot n := slot_congr rfl

theorem slot_when {c : Bool} {f : State → State} {s : State} {n : Nat} (h : (f s).slot n = s.slot n) : (when c f s).slot n = s.slot n :=
  when_of_eq c (State.slot · n) h

/-! Messages to the partner -/

theorem keeps_sendMir {fs : List Field} {s t : State} {k : MirKind} {args : List Nat} (h : Keeps fs s t)
    (hf : Reg.FOV_MIR_TX_CNT.key ∈ fs.map Field.key) : Keeps fs s (sendMir k args t) := by
  have hpass : Keeps fs s (passStream k t) := by unfold passStream; split_ifs <;> exact h.of_eq rfl rfl
  unfold sendMir
  split_ifs
  · simpa [hf] using hpass
  · exact h

theorem pwr_sendMir (k : MirKind) (args : List Nat) (s : State) : (sendMir k args s).pwr = s.pwr := by
  unfold sendMir passStream
  split_ifs <;> rfl

theorem keeps_sendSlotState {fs : List Field} {s t : State} (h : Keeps fs s t) (hf : Reg.FOV_MIR_TX_CNT.key ∈ fs.map Field.key) :
    Keeps fs s (sendSlotState t) := by
  unfold sendSlotState
  split_ifs
  · exact keeps_sendMir h hf
  · exact h

theorem pwr_sendSlotState (s : State) : (sendSlotState s).pwr = s.pwr := by
  unfold sendSlotState
  split_ifs
  · exact pwr_sendMir _ _ _
  · rfl

/-! Rails -/

/-- The registers that the opening of a slot's rails may write. -/
def railFields (n : Nat) : List Field :=
  [Reg.SLT_STATUS_ON12 n, Reg.SLT_STATUS_ON5 n, Reg.SLT_STATUS_SURGING n, Reg.SAS_SLOT_CTRL_AWAKE n]

theorem keeps_dropAwake {fs : List Field} {s t : State} {n : Nat} (h : Keeps fs s t)
    (hf : (Reg.SAS_SLOT_CTRL_AWAKE n).key ∈ fs.map Field.key) : Keeps fs s (dropAwake n t) :=
  keeps_when h (h.setF _ _ hf)

theorem get_dropAwake {n : Nat} {s : State} {f : Field} (h : (Reg.SAS_SLOT_CTRL_AWAKE n).key ≠ f.key) :
    (dropAwake n s).get f = s.get f := when_of_eq _ (State.get · f) (get_setF_ne _ _ _ _ h)

/-- Opening the 12 V rail ends the surge. -/
theorem openRails_12 (n : Nat) (s : State) : openRails n 1 s
    = onSlot n (fun r => { r with offWait := 0 }) (dropAwake n (setF (Reg.SLT_STATUS_SURGING n) 0 (setF (Reg.SLT_STATUS_ON12 n) 0 s))) := rfl

theorem openRails_5 (n : Nat) (s : State) : openRails n 2 s
    = onSlot n (fun r => { r with offWait := 0 }) (dropAwake n (setF (Reg.SLT_STATUS_ON5 n) 0 s)) := rfl

theorem openRails_both (n : Nat) (s : State) : openRails n 3 s
    = onSlot n (fun r => { r with offWait := 0 }) (dropAwake n (setF (Reg.SLT_STATUS_ON5 n) 0
        (setF (Reg.SLT_STATUS_SURGING n) 0 (setF (Reg.SLT_STATUS_ON12 n) 0 s)))) := rfl

theorem keeps_openRails (n rails : Nat) (s : State) : Keeps (railFields n) s (openRails n rails s) := by
  have h12 : Keeps (railFields n) s (when (bitOf rails 0 == 1)
      (fun t => setF (Reg.SLT_STATUS_SURGING n) 0 (setF (Reg.SLT_STATUS_ON12 n) 0 t)) s) := keeps_when (by simp) (by simp [railFields])
  exact keeps_onSlot_iff.mpr (keeps_dropAwake (keeps_when h12 (h12.setF _ _ (by simp [railFields]))) (by simp [railFields]))

theorem slot_dropAwake (n m : Nat) (s : State) : (dropAwake n s).slot m = s.slot m := slot_when (slot_setF _ _ _ _)

theorem slot_openRails (n rails : Nat) (s : State) : (openRails n rails s).slot n = { s.slot n with offWait := 0 } := by
  rw [openRails, slot_onSlot_self, slot_dropAwake, slot_when (slot_setF _ _ _ _), slot_when rfl]

theorem get_on12_openRails_both (n : Nat) (s : State) : (openRails n 3 s).get (Reg.SLT_STATUS_ON12 n) = 0 := by
  rw [openRails_both, onSlot_get, get_dropAwake (by simp only [Field.key, Reg.SAS_SLOT_CTRL_AWAKE, Reg.SLT_STATUS_ON12]; omega)]
  simp (disch := simp only [Field.key, Reg.SLT_STATUS_ON12, Reg.SLT_STATUS_ON5, Reg.SLT_STATUS_SURGING]; omega) only
    [get_setF_ne, get_setF_zero]

theorem get_on5_openRails_both (n : Nat) (s : State) : (openRails n 3 s).get (Reg.SLT_STATUS_ON5 n) = 0 := by
  rw [openRails_both, onSlot_get, get_dropAwake (by simp only [Field.key, Reg.SAS_SLOT_CTRL_AWAKE, Reg.SLT_STATUS_ON5]; omega),
    get_setF_zero]

theorem get_surging_openRails_both (n : Nat) (s : State) : (openRails n 3 s).get (Reg.SLT_STATUS_SURGING n) = 0 := by
  rw [openRails_both, onSlot_get, get_dropAwake (by simp only [Field.key, Reg.SAS_SLOT_CTRL_AWAKE, Reg.SLT_STATUS_SURGING]; omega)]
  simp (disch := simp only [Field.key, Reg.SLT_STATUS_ON5, Reg.SLT_STATUS_SURGING]; omega) only [get_setF_ne, get_setF_zero]

theorem slotOn_eq_false {s : State} {n : Nat} (h12 : s.get (Reg.SLT_STATUS_ON12 n) = 0) (h5 : s.get (Reg.SLT_STATUS_ON5 n) = 0) :
    s.slotOn n = false := by rw [State.slotOn, on_eq_false h12, on_eq_false h5]; rfl

theorem slotOn_openRails_both (n : Nat) (s : State) : (openRails n 3 s).slotOn n = false :=
  slotOn_eq_false (get_on12_openRails_both n s) (get_on5_openRails_both n s)

theorem keeps_powerOff (n rails : Nat) (s : State) : Keeps (Reg.FOV_MIR_TX_CNT :: railFields n) s (powerOff n rails s) := by
  unfold powerOff
  split_ifs
  · exact keeps_onSlot_iff.mpr (keeps_sendSlotState (Keeps.refl _ _) (by simp))
  · exact (keeps_openRails n rails s).mono fun _ hf => List.mem_cons_of_mem _ hf

/-- A power-off changes nothing of the slot's record but the rails that wait for the report. -/
theorem slot_powerOff (n rails : Nat) (s : State) : ∃ w, (powerOff n rails s).slot n = { s.slot n with offWait := w } := by
  unfold powerOff
  split_ifs
  · exact ⟨_, by rw [slot_onSlot_self, slot_congr (congrArg PwrPart.slots (pwr_sendSlotState s))]⟩
  · exact ⟨_, slot_openRails n rails s⟩

/-! Request bits -/

theorem writeSpin_get (n : Nat) (v : Bool) (s : State) (f : Field) :
    (writeSpin n v s).get f = (setF (Reg.SLT_CTRL_SPIN n) (b2n v) s).get f := get_of_regs f rfl

@[simp] theorem keeps_writeSpin_iff {fs : List Field} {s t : State} {n : Nat} {v : Bool} (hf : (Reg.SLT_CTRL_SPIN n).key ∈ fs.map Field.key) :
    Keeps fs s (writeSpin n v t) ↔ Keeps fs s t :=
  (keeps_congr (t := setF (Reg.SLT_CTRL_SPIN n) (b2n v) t) rfl rfl).trans (keeps_setF_iff hf)

theorem slot_writeSpin (n : Nat) (v : Bool) (s : State) :
    (writeSpin n v s).slot n = { s.slot n with order2 := if v then some ((s.slot n).order2.getD s.pwr.nextOrder) else none } :=
  (slot_congr rfl).trans (slot_onSlot_self n (fun x => { x with
    order2 := if v then some ((s.slot n).order2.getD s.pwr.nextOrder) else none }) (setF (Reg.SLT_CTRL_SPIN n) (b2n v) s))

/-- The registers that a write of a slot's enable bits may write. -/
def enableFields (n : Nat) : List Field :=
  Reg.SLT_CTRL_EN12 n :: Reg.SLT_CTRL_EN5 n :: Reg.FOV_MIR_TX_CNT :: railFields n

/-- The enable bits as written, before the cleared ones open their rails. -/
theorem writeEnables_eq (n : Nat) (en12 en5 : Bool) (s : State) : ∃ (t : State) (c h : Nat) (o : Option Nat),
    writeEnables n en12 en5 s = (if c = 0 then t else powerOff n c t)
    ∧ c = b2n (s.on (Reg.SLT_CTRL_EN12 n) && !en12) + 2 * b2n (s.on (Reg.SLT_CTRL_EN5 n) && !en5)
    ∧ t.regs = (setF (Reg.SLT_CTRL_EN5 n) (b2n en5) (setF (Reg.SLT_CTRL_EN12 n) (b2n en12) s)).regs ∧ t.mem = s.mem
    ∧ t.slot n = { s.slot n with tripHeld := h, order1 := o } :=
  ⟨_, _, _, _, rfl, rfl, rfl, rfl, (slot_congr rfl).trans
    (slot_onSlot_self n (fun x => { x with tripHeld := _, order1 := _ })
      (setF (Reg.SLT_CTRL_EN5 n) (b2n en5) (setF (Reg.SLT_CTRL_EN12 n) (b2n en12) s)))⟩

theorem keeps_writeEnables (n : Nat) (en12 en5 : Bool) (s : State) : Keeps (enableFields n) s (writeEnables n en12 en5 s) := by
  obtain ⟨t, c, h, o, hw, -, hregs, hmem, -⟩ := writeEnables_eq n en12 en5 s
  have ht : Keeps (enableFields n) s t := (keeps_congr hregs hmem).mpr (by simp [enableFields])
  rw [hw]
  split_ifs
  · exact ht
  · exact ht.trans ((keeps_powerOff n c t).mono fun _ hf =>
      List.mem_cons_of_mem _ (List.mem_cons_of_mem _ hf))

/-- A field that no power-off writes reads what the write of the enable bits left. -/
theorem get_writeEnables (n : Nat) (en12 en5 : Bool) (s : State) {f : Field}
    (hf : f.key ∉ (Reg.FOV_MIR_TX_CNT :: railFields n).map Field.key) :
    (writeEnables n en12 en5 s).get f = (setF (Reg.SLT_CTRL_EN5 n) (b2n en5) (setF (Reg.SLT_CTRL_EN12 n) (b2n en12) s)).get f := by
  obtain ⟨t, c, h, o, hw, -, hregs, -, -⟩ := writeEnables_eq n en12 en5 s
  have ht := get_of_regs f hregs
  rw [hw]
  split_ifs
  · exact ht
  · exact ((keeps_powerOff n c t).get hf).trans ht

theorem en12_notMem {n : Nat} (hn : n < 108) : (Reg.SLT_CTRL_EN12 n).key ∉ (Reg.FOV_MIR_TX_CNT :: railFields n).map Field.key := by
  simp only [railFields, List.map_cons, List.map_nil, List.mem_cons, List.not_mem_nil, or_false, Field.key, Reg.SLT_CTRL_EN12, Reg.FOV_MIR_TX_CNT,
    Reg.SLT_STATUS_ON12, Reg.SLT_STATUS_ON5, Reg.SLT_STATUS_SURGING, Reg.SAS_SLOT_CTRL_AWAKE]
  omega

theorem en5_notMem (n : Nat) : (Reg.SLT_CTRL_EN5 n).key ∉ (Reg.FOV_MIR_TX_CNT :: railFields n).map Field.key := by
  simp only [railFields, List.map_cons, List.map_nil, List.mem_cons, List.not_mem_nil, or_false, Field.key, Reg.SLT_CTRL_EN5, Reg.FOV_MIR_TX_CNT,
    Reg.SLT_STATUS_ON12, Reg.SLT_STATUS_ON5, Reg.SLT_STATUS_SURGING, Reg.SAS_SLOT_CTRL_AWAKE]
  omega

theorem get_en12_writeEnables {n : Nat} (hn : n < 108) (en12 en5 : Bool) (s : State) :
    (writeEnables n en12 en5 s).get (Reg.SLT_CTRL_EN12 n) = b2n en12 := by
  rw [get_writeEnables n en12 en5 s (en12_notMem hn), get_setF_ne _ _ _ _ (by simp only [Field.key, Reg.SLT_CTRL_EN12, Reg.SLT_CTRL_EN5]; omega)]
  exact get_setF_of_lt (b2n_lt_two en12) s

theorem get_en5_writeEnables (n : Nat) (en12 en5 : Bool) (s : State) :
    (writeEnables n en12 en5 s).get (Reg.SLT_CTRL_EN5 n) = b2n en5 := by
  rw [get_writeEnables n en12 en5 s (en5_notMem n)]
  exact get_setF_of_lt (b2n_lt_two en5) _

/-- A write of the enable bits changes nothing of the slot's record but the trips held, the order at gate 1 and the rails that wait. -/
theorem slot_writeEnables (n : Nat) (en12 en5 : Bool) (s : State) : ∃ h o w,
    (writeEnables n en12 en5 s).slot n = { s.slot n with tripHeld := h, order1 := o, offWait := w } := by
  obtain ⟨t, c, h, o, hw, -, -, -, hslot⟩ := writeEnables_eq n en12 en5 s
  rw [hw]
  split_ifs
  · exact ⟨h, o, _, hslot⟩
  · obtain ⟨w, hpow⟩ := slot_powerOff n c t
    exact ⟨h, o, w, by rw [hpow, hslot]⟩

end Sys2Proof.Machine
end

section
/-! Slot trips, the two gates, surges and shedding (R293, R298, R302, R305, R310) and the failed spin-up attempt (R309, R498): the
obligations O18 and O19. -/

open Sys2Proof

namespace Sys2Proof.Machine

/-! Trips -/

/-- What a trip of the 12 V rail leaves before the attempt fails (R298). -/
def tripped12 (n : Nat) (s : State) : State :=
  onSlot n (fun r => { r with tripHeld := r.tripHeld ||| 1 }) (setF (Reg.SLT_STATUS_COOLDOWN n) 1 (event Reg.SLT_EVENT_FAULT Reg.SLT_FAULT_CNT
    (setF (Reg.SLT_STATUS_FAULT12 n) 1 (openRails n 1 s))))

/-- What a trip of the 5 V rail leaves before the attempt fails (R298). -/
def tripped5 (n : Nat) (s : State) : State :=
  onSlot n (fun r => { r with tripHeld := r.tripHeld ||| 2 }) (setF (Reg.SLT_STATUS_COOLDOWN n) 1 (event Reg.SLT_EVENT_FAULT Reg.SLT_FAULT_CNT
    (setF (Reg.SLT_STATUS_FAULT5 n) 1 (openRails n 2 s))))

theorem exec_slotTrip12_of_on {s : State} {slot : Fin 108} (h : s.on (Reg.SLT_STATUS_ON12 slot.val) = true) :
    exec (.slotTrip slot true) s = .next (failAttempt slot.val (tripped12 slot.val s)) := by
  rw [exec_slotTrip]
  exact if_neg (by simp [h])

theorem exec_slotTrip5_of_on {s : State} {slot : Fin 108} (h : s.on (Reg.SLT_STATUS_ON5 slot.val) = true) :
    exec (.slotTrip slot false) s = .next (failAttempt slot.val (tripped5 slot.val s)) := by
  rw [exec_slotTrip]
  exact if_neg (by simp [h])

/-! Rails that read off stay off -/

theorem get_on12_openRails_of_off {n rails : Nat} {s : State} (h : s.get (Reg.SLT_STATUS_ON12 n) = 0) :
    (openRails n rails s).get (Reg.SLT_STATUS_ON12 n) = 0 := by
  rw [openRails, onSlot_get, get_dropAwake (by simp only [Field.key, Reg.SAS_SLOT_CTRL_AWAKE, Reg.SLT_STATUS_ON12]; omega),
    when_of_eq _ (State.get · (Reg.SLT_STATUS_ON12 n))
      (get_setF_ne _ _ _ _ (by simp only [Field.key, Reg.SLT_STATUS_ON5, Reg.SLT_STATUS_ON12]; omega))]
  refine (when_of_eq _ (State.get · (Reg.SLT_STATUS_ON12 n)) ?_).trans h
  rw [get_setF_ne _ _ _ _ (by simp only [Field.key, Reg.SLT_STATUS_SURGING, Reg.SLT_STATUS_ON12]; omega), get_setF_zero, h]

theorem get_on5_openRails_of_off {n rails : Nat} {s : State} (h : s.get (Reg.SLT_STATUS_ON5 n) = 0) :
    (openRails n rails s).get (Reg.SLT_STATUS_ON5 n) = 0 := by
  rw [openRails, onSlot_get, get_dropAwake (by simp only [Field.key, Reg.SAS_SLOT_CTRL_AWAKE, Reg.SLT_STATUS_ON5]; omega)]
  refine (when_of_eq _ (State.get · (Reg.SLT_STATUS_ON5 n)) ?_).trans ((when_of_eq _ (State.get · (Reg.SLT_STATUS_ON5 n)) ?_).trans h)
  · refine (get_setF_zero _ _).trans ((when_of_eq _ (State.get · (Reg.SLT_STATUS_ON5 n)) ?_).trans h).symm
    simp (disch := simp only [Field.key, Reg.SLT_STATUS_SURGING, Reg.SLT_STATUS_ON5, Reg.SLT_STATUS_ON12]; omega) only [get_setF_ne]
  · simp (disch := simp only [Field.key, Reg.SLT_STATUS_SURGING, Reg.SLT_STATUS_ON5, Reg.SLT_STATUS_ON12]; omega) only [get_setF_ne]

theorem slotOn_eq_false_iff {s : State} {n : Nat} :
    s.slotOn n = false ↔ s.get (Reg.SLT_STATUS_ON12 n) = 0 ∧ s.get (Reg.SLT_STATUS_ON5 n) = 0 := by
  simp [State.slotOn, State.on]

/-- Clearing the enable bits of a slot that is off leaves it off. -/
theorem slotOn_writeEnables_of_off {n : Nat} {s : State} (h : s.slotOn n = false) :
    (writeEnables n false false s).slotOn n = false := by
  obtain ⟨t, c, held, o, hw, -, hregs, -, -⟩ := writeEnables_eq n false false s
  have ht12 : t.get (Reg.SLT_STATUS_ON12 n) = s.get (Reg.SLT_STATUS_ON12 n) := (get_of_regs _ hregs).trans (by
    simp (disch := simp only [Field.key, Reg.SLT_CTRL_EN12, Reg.SLT_CTRL_EN5, Reg.SLT_STATUS_ON12]; omega) only [get_setF_ne])
  have ht5 : t.get (Reg.SLT_STATUS_ON5 n) = s.get (Reg.SLT_STATUS_ON5 n) := (get_of_regs _ hregs).trans (by
    simp (disch := simp only [Field.key, Reg.SLT_CTRL_EN12, Reg.SLT_CTRL_EN5, Reg.SLT_STATUS_ON5]; omega) only [get_setF_ne])
  have htoff : t.slotOn n = false := (slotOn_congr ht12 ht5).trans h
  obtain ⟨h12, h5⟩ := slotOn_eq_false_iff.mp htoff
  rw [hw]
  split_ifs with hc
  · exact htoff
  · rw [powerOff, if_neg (by simp [htoff])]
    exact slotOn_eq_false (get_on12_openRails_of_off h12) (get_on5_openRails_of_off h5)

theorem shedNext_lt {s : State} {busLow : Bool} {n : Nat} (h : s.shedNext busLow = some n) : n < 108 := by
  have hmem : n ∈ allSlots := by
    unfold State.shedNext at h
    split at h
    · exact List.mem_of_mem_filter (List.mem_of_getLast? (‹_ = some _›.trans h))
    · split_ifs at h
      exact List.mem_of_mem_filter (List.mem_of_getLast? h)
  exact List.mem_range.mp hmem

/-! Shedding and stopping -/

/-- What shedding leaves of a slot before the partner is told (R293). -/
def shed (n : Nat) (s : State) : State :=
  writeEnables n false false (event Reg.SLT_EVENT_SHED Reg.SLT_SHED_CNT (setF (Reg.SLT_STATUS_SHED n) 1 (openRails n 3 s)))

theorem exec_slotShed_of_next {s : State} {busLow : Bool} {n : Nat} (ho : s.on Reg.PWR_STATUS_OVERLOAD = true)
    (he : s.on Reg.PWR_CTRL_SHED_EN = true) (h : (keepShedOk s).shedNext busLow = some n) :
    exec (.slotShed busLow) s = .next (sendSlotState (shed n (keepShedOk s))) := by
  rw [exec_slotShed, execSlotShed, if_pos (by simp [ho, he])]
  simp only [h]
  rfl

theorem notMem_enableFields {n : Nat} {f : Field} (hn : n < 108) (hf : 0xB0000 * 32 + 0x8 * 108 * 32 ≤ f.key) (hg : f.key < 0xC0000 * 32) :
    f.key ∉ (enableFields n).map Field.key := by
  simp only [enableFields, railFields, List.map_cons, List.map_nil, List.mem_cons, List.not_mem_nil, or_false, Field.key, Reg.SLT_CTRL_EN12,
    Reg.SLT_CTRL_EN5, Reg.FOV_MIR_TX_CNT, Reg.SLT_STATUS_ON12, Reg.SLT_STATUS_ON5, Reg.SLT_STATUS_SURGING, Reg.SAS_SLOT_CTRL_AWAKE] at *
  omega

theorem shed_notMem_enableFields {n : Nat} (hn : n < 108) : (Reg.SLT_STATUS_SHED n).key ∉ (enableFields n).map Field.key := by
  simp only [enableFields, railFields, List.map_cons, List.map_nil, List.mem_cons, List.not_mem_nil, or_false, Field.key, Reg.SLT_CTRL_EN12,
    Reg.SLT_CTRL_EN5, Reg.FOV_MIR_TX_CNT, Reg.SLT_STATUS_ON12, Reg.SLT_STATUS_ON5, Reg.SLT_STATUS_SURGING, Reg.SAS_SLOT_CTRL_AWAKE,
    Reg.SLT_STATUS_SHED]
  omega

theorem slotOn_shed {n : Nat} (hn : n < 108) (s : State) : (shed n s).slotOn n = false := by
  obtain ⟨h12, h5⟩ := slotOn_eq_false_iff.mp (slotOn_openRails_both n s)
  refine slotOn_writeEnables_of_off (slotOn_eq_false ?_ ?_)
  · rw [get_event_ne, get_setF_ne, h12] <;>
      simp only [Field.key, Reg.SLT_EVENT_SHED, Reg.SLT_SHED_CNT, Reg.SLT_STATUS_SHED, Reg.SLT_STATUS_ON12] <;> omega
  · rw [get_event_ne, get_setF_ne, h5] <;>
      simp only [Field.key, Reg.SLT_EVENT_SHED, Reg.SLT_SHED_CNT, Reg.SLT_STATUS_SHED, Reg.SLT_STATUS_ON5] <;> omega

theorem get_shed_shed {n : Nat} (hn : n < 108) (s : State) : (shed n s).get (Reg.SLT_STATUS_SHED n) = 1 := by
  rw [shed, (keeps_writeEnables n false false _).get (shed_notMem_enableFields hn), get_event_ne, get_setF_one rfl] <;>
    simp only [Field.key, Reg.SLT_EVENT_SHED, Reg.SLT_SHED_CNT, Reg.SLT_STATUS_SHED] <;> omega

theorem get_event_shed {n : Nat} (hn : n < 108) (s : State) : (shed n s).get Reg.SLT_EVENT_SHED = 1 := by
  rw [shed, (keeps_writeEnables n false false _).get (notMem_enableFields hn (by decide) (by decide))]
  exact get_event_flag _ _ _ (by decide) (by decide)

/-! A drive that is ready -/

/-- What a ready drive's slot reads (R498). -/
def drivenReady (n : Nat) (s : State) : State :=
  onSlot n (fun r => { r with attempting := false, attemptFails := 0 })
    (setF (Reg.SLT_STATUS_SURGING n) 0 (setF (Reg.SAS_SLOT_CTRL_AWAKE n) 1 s))

/-- The header record goes out to the drive of an array's member, and nothing else changes. -/
theorem exec_driveReady_of_surging {s : State} {slot : Fin 108} (h : s.on (Reg.SLT_STATUS_SURGING slot.val) = true) :
    ∃ o, exec (.driveReady slot) s = .next (after { drivenReady slot.val s with out := o }) := by
  rw [exec_driveReady, execDriveReady, if_pos h]
  change ∃ o, Host.Outcome.next (after (match (drivenReady slot.val s).arrayOf _ with | some a => _ | none => drivenReady slot.val s)) = _
  split
  · exact ⟨_, rfl⟩
  · exact ⟨(drivenReady slot.val s).out, rfl⟩

/-! Failed attempts -/

/-- The slot once a failed attempt has withdrawn its requests (R498). -/
def attemptOver (n : Nat) (s : State) : State :=
  setF (Reg.SLT_STATUS_SURGING n) 0 (writeEnables n false false (writeSpin n false s))

theorem failAttempt_of_first {n : Nat} {s : State} (h : (s.slot n).attemptFails = 0) : failAttempt n s
    = onSlot n (fun r => { r with attemptFails := 1, attempting := false, retryDue := true, failedThisWake := true }) (attemptOver n s) := by
  rw [failAttempt, h]
  rfl

theorem failAttempt_of_second {n : Nat} {s : State} (h : 1 ≤ (s.slot n).attemptFails) (harr : s.arrayOf (s.logicalOf n) = none) :
    failAttempt n s = logPlain 5 [n] (onSlot n (fun r =>
      { r with attemptFails := 0, attempting := false, retryDue := false, leftOff := true, failedThisWake := true }) (attemptOver n s)) := by
  refine (if_pos (show 2 ≤ (s.slot n).attemptFails + 1 by omega)).trans ?_
  simp only [harr]
  rfl

/-- Both ends of a failed attempt read as the withdrawn requests do, where the slot is of no array. -/
theorem get_failAttempt {n : Nat} {s : State} (harr : s.arrayOf (s.logicalOf n) = none) (f : Field) :
    (failAttempt n s).get f = (attemptOver n s).get f := by
  rcases Nat.eq_zero_or_pos (s.slot n).attemptFails with h | h
  · rw [failAttempt_of_first h, onSlot_get]
  · rw [failAttempt_of_second h harr, logPlain_get, onSlot_get]

theorem spin_notMem_enableFields {n : Nat} (hn : n < 108) : (Reg.SLT_CTRL_SPIN n).key ∉ (enableFields n).map Field.key := by
  simp only [enableFields, railFields, List.map_cons, List.map_nil, List.mem_cons, List.not_mem_nil, or_false, Field.key,
    Reg.SLT_CTRL_EN12, Reg.SLT_CTRL_EN5, Reg.FOV_MIR_TX_CNT, Reg.SLT_STATUS_ON12, Reg.SLT_STATUS_ON5, Reg.SLT_STATUS_SURGING,
    Reg.SAS_SLOT_CTRL_AWAKE, Reg.SLT_CTRL_SPIN]
  omega

theorem get_spin_attemptOver {n : Nat} (hn : n < 108) (s : State) : (attemptOver n s).get (Reg.SLT_CTRL_SPIN n) = 0 := by
  rw [attemptOver, get_setF_ne _ _ _ _ (by simp only [Field.key, Reg.SLT_STATUS_SURGING, Reg.SLT_CTRL_SPIN]; omega),
    (keeps_writeEnables n false false _).get (spin_notMem_enableFields hn), writeSpin_get]
  exact get_setF_zero _ _

theorem get_en12_attemptOver {n : Nat} (hn : n < 108) (s : State) : (attemptOver n s).get (Reg.SLT_CTRL_EN12 n) = 0 := by
  rw [attemptOver, get_setF_ne _ _ _ _ (by simp only [Field.key, Reg.SLT_STATUS_SURGING, Reg.SLT_CTRL_EN12]; omega),
    get_en12_writeEnables hn]
  rfl

theorem get_en5_attemptOver (n : Nat) (s : State) : (attemptOver n s).get (Reg.SLT_CTRL_EN5 n) = 0 := by
  rw [attemptOver, get_setF_ne _ _ _ _ (by simp only [Field.key, Reg.SLT_STATUS_SURGING, Reg.SLT_CTRL_EN5]; omega),
    get_en5_writeEnables]
  rfl

/-- Settles O19: the first failure leaves a retry due, the second the slot off. -/
theorem failedAttempt : Obligations.FailedAttempt := by
  intro s n hn harr
  refine ⟨?_, ?_, ?_, ?_, fun h => ?_, fun h => ?_⟩
  · rw [get_failAttempt harr, get_spin_attemptOver hn]
  · rw [get_failAttempt harr, get_en12_attemptOver hn]
  · rw [get_failAttempt harr, get_en5_attemptOver]
  · rw [get_failAttempt harr, attemptOver, get_setF_zero]
  · rw [failAttempt_of_first h, slot_onSlot_self]
    exact ⟨rfl, rfl⟩
  · rw [failAttempt_of_second h harr]
    have hslot (t : State) : (logPlain 5 [n] t).slot n = t.slot n := slot_congr rfl
    rw [hslot, slot_onSlot_self]
    exact ⟨rfl, rfl⟩

/-! The obligation O18 -/

theorem tripped12_fields {n : Nat} (hn : n < 108) (s : State) :
    (tripped12 n s).get (Reg.SLT_STATUS_ON12 n) = 0 ∧ (tripped12 n s).get (Reg.SLT_STATUS_FAULT12 n) = 1
    ∧ (tripped12 n s).get (Reg.SLT_STATUS_COOLDOWN n) = 1 ∧ (tripped12 n s).get Reg.SLT_EVENT_FAULT = 1
    ∧ (tripped12 n s).get Reg.SLT_FAULT_CNT = (s.get Reg.SLT_FAULT_CNT + 1) % 2 ^ 32
    ∧ Keeps [Reg.SLT_STATUS_ON12 n, Reg.SLT_STATUS_SURGING n, Reg.SLT_STATUS_FAULT12 n, Reg.SAS_SLOT_CTRL_AWAKE n,
        Reg.SLT_STATUS_COOLDOWN n, Reg.SLT_EVENT_FAULT, Reg.SLT_FAULT_CNT] s (tripped12 n s) := by
  refine ⟨?_, ?_, ?_, ?_, ?_, ?_⟩ <;> unfold tripped12 <;> simp only [openRails_12]
  case refine_6 => simp [keeps_dropAwake]
  all_goals
    simp (disch := simp only [Field.key, Reg.SLT_STATUS_ON12, Reg.SLT_STATUS_ON5, Reg.SLT_STATUS_SURGING, Reg.SLT_STATUS_FAULT12,
      Reg.SLT_STATUS_FAULT5, Reg.SLT_STATUS_COOLDOWN, Reg.SLT_EVENT_FAULT, Reg.SLT_FAULT_CNT, Reg.SAS_SLOT_CTRL_AWAKE]; omega) only
      [onSlot_get, get_setF_ne, get_setF_self, get_event_ne, get_event_self, get_event_cnt, get_dropAwake]
  all_goals rfl

theorem tripped5_fields {n : Nat} (hn : n < 108) (s : State) :
    (tripped5 n s).get (Reg.SLT_STATUS_ON5 n) = 0 ∧ (tripped5 n s).get (Reg.SLT_STATUS_FAULT5 n) = 1
    ∧ (tripped5 n s).get (Reg.SLT_STATUS_COOLDOWN n) = 1 ∧ (tripped5 n s).get Reg.SLT_EVENT_FAULT = 1
    ∧ Keeps [Reg.SLT_STATUS_ON5 n, Reg.SLT_STATUS_FAULT5 n, Reg.SAS_SLOT_CTRL_AWAKE n, Reg.SLT_STATUS_COOLDOWN n, Reg.SLT_EVENT_FAULT,
        Reg.SLT_FAULT_CNT] s (tripped5 n s) := by
  refine ⟨?_, ?_, ?_, ?_, ?_⟩ <;> unfold tripped5 <;> simp only [openRails_5]
  case refine_5 => simp [keeps_dropAwake]
  all_goals
    simp (disch := simp only [Field.key, Reg.SLT_STATUS_ON12, Reg.SLT_STATUS_ON5, Reg.SLT_STATUS_SURGING, Reg.SLT_STATUS_FAULT12,
      Reg.SLT_STATUS_FAULT5, Reg.SLT_STATUS_COOLDOWN, Reg.SLT_EVENT_FAULT, Reg.SLT_FAULT_CNT, Reg.SAS_SLOT_CTRL_AWAKE]; omega) only
      [onSlot_get, get_setF_ne, get_setF_self, get_event_ne, get_event_self, get_dropAwake]
  all_goals rfl


/-- What the admission at gate 1 leaves before the partner is told (R305). -/
def admitted1 (n : Nat) (s : State) : State := { closeRails n s with pwr := { (closeRails n s).pwr with gate1At := some s.clock } }

theorem exec_gate1Admit_of_head {s : State} {n : Nat} (hh : s.head1 = some n) (ho : s.gatesOpen = true) (hf : s.gate1Fits = true) :
    exec .gate1Admit s = .next (sendSlotState (admitted1 n s)) := by
  rw [exec_gate1Admit, execGate1Admit, hh]
  exact if_pos (by simp [ho, hf])

/-- Rails close where they are enabled and no trip holds them. -/
theorem closeRails_get (n : Nat) (s : State) (f : Field) : (closeRails n s).get f
    = (when (s.on (Reg.SLT_CTRL_EN5 n) && bitOf (s.slot n).tripHeld 1 == 0) (setF (Reg.SLT_STATUS_ON5 n) 1)
        (when (s.on (Reg.SLT_CTRL_EN12 n) && bitOf (s.slot n).tripHeld 0 == 0) (setF (Reg.SLT_STATUS_ON12 n) 1) s)).get f := onSlot_get _ _ _ _

theorem keeps_closeRails (n : Nat) (s : State) : Keeps [Reg.SLT_STATUS_ON12 n, Reg.SLT_STATUS_ON5 n] s (closeRails n s) := by
  unfold closeRails
  exact keeps_onSlot_iff.mpr (keeps_when (keeps_when (by simp) (by simp)) (by simp [keeps_when]))

theorem when_of_true {c : Bool} (h : c = true) (f : State → State) (s : State) : when c f s = f s := by rw [h]; rfl

theorem admitted1_fields (n : Nat) (s : State) :
    (s.on (Reg.SLT_CTRL_EN12 n) = true → bitOf (s.slot n).tripHeld 0 = 0 → (admitted1 n s).get (Reg.SLT_STATUS_ON12 n) = 1)
    ∧ (s.on (Reg.SLT_CTRL_EN5 n) = true → bitOf (s.slot n).tripHeld 1 = 0 → (admitted1 n s).get (Reg.SLT_STATUS_ON5 n) = 1)
    ∧ ((admitted1 n s).slot n).attempting = true ∧ Keeps [Reg.SLT_STATUS_ON12 n, Reg.SLT_STATUS_ON5 n] s (admitted1 n s) := by
  have hget (f : Field) : (admitted1 n s).get f = (closeRails n s).get f := get_of_regs f rfl
  have hslot : (admitted1 n s).slot n = (closeRails n s).slot n := slot_congr rfl
  refine ⟨fun h1 h2 => ?_, fun h1 h2 => ?_, ?_, (keeps_closeRails n s).of_eq rfl rfl⟩
  · rw [hget, closeRails_get, when_of_eq _ (State.get · (Reg.SLT_STATUS_ON12 n))
      (get_setF_ne _ _ _ _ (by simp only [Field.key, Reg.SLT_STATUS_ON5, Reg.SLT_STATUS_ON12]; omega)), when_of_true (by simp [h1, h2])]
    exact get_setF_one rfl s
  · rw [hget, closeRails_get, when_of_true (by simp [h1, h2])]
    exact get_setF_one rfl _
  · rw [hslot, closeRails, slot_onSlot_self]

/-- What the end of a STOP UNIT leaves. -/
theorem stopEnds_fields {n : Nat} (hn : n < 108) (s : State) : ((stopEnds n s).slot n).stopSent = false
    ∧ (stopEnds n s).get (Reg.SLT_CTRL_EN12 n) = 0 ∧ (stopEnds n s).get (Reg.SLT_CTRL_EN5 n) = 0 := by
  obtain ⟨h, o, w, hslot⟩ := slot_writeEnables n false false (onSlot n (fun r => { r with stopSent := false }) s)
  refine ⟨?_, get_en12_writeEnables hn _ _ _, get_en5_writeEnables _ _ _ _⟩
  rw [stopEnds, hslot, slot_onSlot_self]

/-- A retry asks both gates again (R498). -/
def retried (n : Nat) (s : State) : State := requestSlot n (onSlot n (fun r => { r with retryDue := false }) s)

theorem retried_fields {n : Nat} (hn : n < 108) (s : State) : (retried n s).get (Reg.SLT_CTRL_EN12 n) = 1
    ∧ (retried n s).get (Reg.SLT_CTRL_EN5 n) = 1 ∧ (retried n s).get (Reg.SLT_CTRL_SPIN n) = 1 ∧ ((retried n s).slot n).retryDue = false := by
  obtain ⟨h, o, w, hslot⟩ := slot_writeEnables n true true (onSlot n (fun r => { r with retryDue := false }) s)
  refine ⟨?_, ?_, ?_, ?_⟩
  · rw [retried, requestSlot, writeSpin_get, get_setF_ne _ _ _ _ (by simp only [Field.key, Reg.SLT_CTRL_SPIN, Reg.SLT_CTRL_EN12]; omega)]
    exact get_en12_writeEnables hn _ _ _
  · rw [retried, requestSlot, writeSpin_get, get_setF_ne _ _ _ _ (by simp only [Field.key, Reg.SLT_CTRL_SPIN, Reg.SLT_CTRL_EN5]; omega)]
    exact get_en5_writeEnables _ _ _ _
  · exact (writeSpin_get _ _ _ _).trans (get_setF_one rfl _)
  · rw [retried, requestSlot, slot_writeSpin, hslot, slot_onSlot_self]

/-- What a surge that ran out leaves before the attempt fails (R305). -/
def surgeOut (n : Nat) (s : State) : State :=
  event Reg.SLT_EVENT_SPIN_TIMEOUT Reg.SLT_SPIN_TIMEOUT_CNT (setF (Reg.SLT_STATUS_SPIN_TIMEOUT n) 1 (setF (Reg.SLT_STATUS_SURGING n) 0 s))

theorem surgeOut_fields {n : Nat} (hn : n < 108) (s : State) : (surgeOut n s).get (Reg.SLT_STATUS_SPIN_TIMEOUT n) = 1
    ∧ (surgeOut n s).get (Reg.SLT_STATUS_SURGING n) = 0 ∧ (surgeOut n s).get Reg.SLT_EVENT_SPIN_TIMEOUT = 1
    ∧ Keeps [Reg.SLT_STATUS_SPIN_TIMEOUT n, Reg.SLT_STATUS_SURGING n, Reg.SLT_EVENT_SPIN_TIMEOUT, Reg.SLT_SPIN_TIMEOUT_CNT] s
        (surgeOut n s) := by
  refine ⟨?_, ?_, ?_, ?_⟩ <;> unfold surgeOut
  case refine_4 => simp
  all_goals
    simp (disch := simp only [Field.key, Reg.SLT_STATUS_SPIN_TIMEOUT, Reg.SLT_STATUS_SURGING, Reg.SLT_EVENT_SPIN_TIMEOUT,
      Reg.SLT_SPIN_TIMEOUT_CNT]; omega) only [get_setF_ne, get_setF_self, get_event_ne, get_event_self]
  all_goals rfl

theorem get_surging_drivenReady (n : Nat) (s : State) : (drivenReady n s).get (Reg.SLT_STATUS_SURGING n) = 0 :=
  (onSlot_get _ _ _ _).trans (get_setF_zero _ _)

theorem awake_drivenReady {n : Nat} (hn : n < 108) (s : State) : (drivenReady n s).awake n = true := by
  refine on_eq_true ((onSlot_get _ _ _ _).trans ?_)
  rw [get_setF_ne _ _ _ _ (by simp only [Field.key, Reg.SLT_STATUS_SURGING, Reg.SAS_SLOT_CTRL_AWAKE]; omega), get_setF_one rfl]

theorem slot_drivenReady (n : Nat) (s : State) :
    (drivenReady n s).slot n = { s.slot n with attempting := false, attemptFails := 0 } := by
  rw [drivenReady, slot_onSlot_self, slot_setF, slot_setF]

theorem keeps_drivenReady (n : Nat) (s : State) :
    Keeps [Reg.SLT_STATUS_SURGING n, Reg.SAS_SLOT_CTRL_AWAKE n] s (drivenReady n s) := by simp [drivenReady]

/-- Settles O18: each command's own writes, read back past the shared operations of slot power. -/
theorem slotCommandsComplete : Obligations.SlotCommandsComplete := by
  refine ⟨fun s slot h => ?trip12, fun s slot h => ?trip5, fun s slot => ?cooldown, fun s slot hl => ?enable, fun s slot hl => ?disable,
    fun s slot hl => ?spin, fun s n hh ho hf => ?gate1, fun s n hh ho hf => ?gate2, fun s slot h => ?timeout, fun s slot h => ?ready,
    fun s slot ha hu => ?linkTimeout, fun s slot h => ?failure, fun s slot hr ho hc => ?retry, fun s slot hw => ?offTimeout,
    fun s slot hs => ?stopTimeout, fun s busLow n ho he hn => ?shed⟩
  case trip12 => exact .of_next (exec_slotTrip12_of_on h) (tripped12_fields slot.isLt s)
  case trip5 => exact .of_next (exec_slotTrip5_of_on h) (tripped5_fields slot.isLt s)
  case cooldown => exact .of_next (exec_cooldownEnd s) ⟨get_setF_zero _ _, by simp⟩
  case enable =>
    refine .of_next (exec_of_lands hl (exec_slotEnableWrite s)) ⟨?_, ?_, ?_⟩
    · exact get_en12_writeEnables slot.isLt _ _ _
    · exact get_en5_writeEnables _ _ _ _
    · exact ((keeps_writeEnables _ _ _ _).2 ·)
  case disable =>
    refine .of_next (exec_of_lands hl (exec_slotDisableWrite s)) ⟨?_, ?_, ?_⟩
    · exact get_en12_writeEnables slot.isLt _ _ _
    · exact get_en5_writeEnables _ _ _ _
    · exact ((keeps_writeEnables _ _ _ _).2 ·)
  case spin =>
    refine .of_next (exec_of_lands hl (exec_spinWrite s)) ⟨?_, ?_, ?_⟩
    · exact (writeSpin_get _ _ _ _).trans (get_setF_one rfl _)
    · rw [slot_writeSpin]; rfl
    · simp
  case linkTimeout => rw [exec_slotLinkTimeout, execSlotLinkTimeout, if_pos (by simp [ha, hu])]
  case failure => rw [exec_spinupFailure, execSpinupFailure, if_pos h]
  case gate1 => exact .of_next (exec_gate1Admit_of_head hh ho hf) (admitted1_fields n s)
  case gate2 =>
    refine .of_next (t := emit (.drive n .notifySpin 0 0 []) (setF (Reg.SLT_STATUS_SURGING n) 1
      { s with pwr := { s.pwr with gate2At := some s.clock } })) ?_ ⟨(emit_get _ _ _).trans (get_setF_one (f := Reg.SLT_STATUS_SURGING n) rfl _), rfl, ?_⟩
    · rw [exec_gate2Admit, execGate2Admit, hh]
      exact if_pos (by simp [ho, hf])
    · exact Keeps.of_eq (t := setF (Reg.SLT_STATUS_SURGING n) 1 s) (by simp) rfl rfl
  case timeout =>
    refine .of_next (t := surgeOut slot.val s) (g := failAttempt slot.val) ?_ (surgeOut_fields slot.isLt s)
    rw [exec_spinTimeout]
    exact if_pos h
  case ready =>
    obtain ⟨o, hexec⟩ := exec_driveReady_of_surging h
    refine .of_next hexec ⟨(get_of_regs _ rfl).trans (get_surging_drivenReady slot.val s), ?_, ?_, ?_, ?_⟩
    · exact (on_of_regs _ rfl).trans (awake_drivenReady slot.isLt s)
    · exact congrArg SlotRec.attempting ((slot_congr rfl).trans (slot_drivenReady slot.val s))
    · exact congrArg SlotRec.attemptFails ((slot_congr rfl).trans (slot_drivenReady slot.val s))
    · exact (keeps_congr rfl rfl).mpr (keeps_drivenReady slot.val s)
  case retry =>
    refine .of_next (t := retried slot.val s) ?_ (retried_fields slot.isLt s)
    rw [exec_spinupRetry]
    exact if_pos (by simp [hr, ho, hc])
  case offTimeout =>
    refine .of_next (t := openRails slot.val 3 s) ?_ ⟨slotOn_openRails_both _ _, get_surging_openRails_both _ _, ?_, keeps_openRails _ _ _⟩
    · rw [exec_slotOffTimeout, execSlotOffTimeout, hw]
      rfl
    · rw [slot_openRails]
  case stopTimeout =>
    refine .of_next (t := stopEnds slot.val s) ?_ (stopEnds_fields slot.isLt s)
    rw [exec_stopUnitTimeout]
    exact if_pos hs
  case shed =>
    have hlt := shedNext_lt hn
    exact .of_next (exec_slotShed_of_next ho he hn) ⟨slotOn_shed hlt _, get_shed_shed hlt _, get_event_shed hlt _,
      get_en12_writeEnables hlt _ _ _, get_en5_writeEnables _ _ _ _⟩

end Sys2Proof.Machine
end

section
/-! The fan drive's state operations (R342 to R355): a channel's record and state, demand, and what each leaves as it was. -/

open Sys2Proof

namespace Sys2Proof.Machine

/-! A channel's record -/

theorem fanChan_congr {s t : State} {c : Nat} (h : t.fan = s.fan) : t.fanChan c = s.fanChan c := by rw [State.fanChan, h, State.fanChan]

@[simp] theorem fanChan_onFanChan_self (c : Nat) (f : FanChan → FanChan) (s : State) : (onFanChan c f s).fanChan c = f (s.fanChan c) :=
  (Assoc.getD_put _ _ _ _ _).trans (if_pos rfl)

@[simp ↓] theorem onFanChan_get (c : Nat) (f : FanChan → FanChan) (s : State) (g : Field) : (onFanChan c f s).get g = s.get g :=
  get_of_regs g rfl

@[simp] theorem keeps_onFanChan_iff {fs : List Field} {s t : State} {c : Nat} {f : FanChan → FanChan} :
    Keeps fs s (onFanChan c f t) ↔ Keeps fs s t := keeps_congr rfl rfl

@[simp] theorem fanChan_setF (f : Field) (v : Nat) (s : State) (c : Nat) : (setF f v s).fanChan c = s.fanChan c := fanChan_congr rfl
@[simp] theorem fanChan_event (f g : Field) (s : State) (c : Nat) : (event f g s).fanChan c = s.fanChan c := fanChan_congr rfl
@[simp] theorem fanChan_setFanState (c st : Nat) (s : State) (d : Nat) : (setFanState c st s).fanChan d = s.fanChan d := fanChan_congr rfl

theorem fanChan_when {c : Bool} {f : State → State} {s : State} {n : Nat} (h : (f s).fanChan n = s.fanChan n) :
    (when c f s).fanChan n = s.fanChan n := when_of_eq c (State.fanChan · n) h

/-! Channel states -/

theorem fanState_setFanState {st : Nat} (h : st < 16) (c : Nat) (s : State) : (setFanState c st s).fanState c = st :=
  get_setF_of_lt h s

@[simp] theorem keeps_setFanState_iff {fs : List Field} {s t : State} {c st : Nat} (hf : (Reg.FAN_CH_STATE_STATE c).key ∈ fs.map Field.key) :
    Keeps fs s (setFanState c st t) ↔ Keeps fs s t := keeps_setF_iff hf

theorem get_setFanState_ne {c st : Nat} {s : State} {f : Field} (h : (Reg.FAN_CH_STATE_STATE c).key ≠ f.key) :
    (setFanState c st s).get f = s.get f := get_setF_ne _ _ _ _ h

theorem afterSense_lt (rpm : Int) : afterSense rpm < 16 := by
  unfold afterSense
  split_ifs <;> decide

/-! Work that touches no register -/

@[simp ↓] theorem loopAtOnce_get (s : State) (f : Field) : (loopAtOnce s).get f = s.get f := rfl

@[simp] theorem keeps_loopAtOnce_iff {fs : List Field} {s t : State} : Keeps fs s (loopAtOnce t) ↔ Keeps fs s t := keeps_congr rfl rfl

theorem get_demandMoved (s t : State) (f : Field) : (demandMoved s t).get f = t.get f := when_of_eq _ (State.get · f) rfl

theorem keeps_demandMoved {fs : List Field} {s t u : State} (h : Keeps fs s t) : Keeps fs s (demandMoved u t) := keeps_when h (by simpa using h)

theorem get_noteCaught (s : State) (f : Field) : (noteCaught s).get f = s.get f := by
  unfold noteCaught
  split_ifs <;> rfl

theorem fan_noteCaught (s : State) : (noteCaught s).fan = s.fan := by
  unfold noteCaught
  split_ifs <;> rfl

/-- RUN is entered with the count of failed starts cleared (R344). -/
theorem fanState_enterRun (c rpm : Nat) (s : State) : (enterRun c rpm s).fanState c = FanSt.run := by
  rw [enterRun, State.fanState, get_noteCaught, onFanChan_get,
    get_setF_ne _ _ _ _ (by simp only [Field.key, Reg.FAN_CH_SPEED_REF, Reg.FAN_CH_STATE_STATE]; omega)]
  exact fanState_setFanState (by decide) c s

theorem startFails_enterRun (c rpm : Nat) (s : State) : ((enterRun c rpm s).fanChan c).startFails = 0 := by
  rw [enterRun, fanChan_congr (fan_noteCaught _), fanChan_onFanChan_self]

/-! Demand -/

theorem get_raiseDemand_ne {c : Nat} {s : State} {f : Field} (h : (Reg.FAN_CH_DEMAND_DEMAND c).key ≠ f.key) :
    (raiseDemand c s).get f = s.get f :=
  (when_of_eq _ (State.get · f) rfl).trans (get_setF_ne _ _ _ _ h)

theorem get_raiseDemand (c : Nat) (s : State) : (raiseDemand c s).get (Reg.FAN_CH_DEMAND_DEMAND c)
    = max 400 (s.get (Reg.FAN_CH_DEMAND_DEMAND c)) % 2 ^ (Reg.FAN_CH_DEMAND_DEMAND c).width :=
  (when_of_eq _ (State.get · (Reg.FAN_CH_DEMAND_DEMAND c)) rfl).trans (get_setF_self _ _ _)

theorem keeps_raiseDemand {fs : List Field} {s t : State} {c : Nat} (h : Keeps fs s t)
    (hf : (Reg.FAN_CH_DEMAND_DEMAND c).key ∈ fs.map Field.key) : Keeps fs s (raiseDemand c t) :=
  keeps_when (h.setF _ _ hf) (keeps_loopAtOnce_iff.mpr (h.setF _ _ hf))

end Sys2Proof.Machine
end

section
/-! The fan channels' events (R342 to R349): the obligation O20. -/

open Sys2Proof

namespace Sys2Proof.Machine

/-! A start command -/

/-- A start command outside SHADOW begins with SENSE (R344). -/
theorem fanStart_fields {c : Nat} {s : State} (h : s.fanState c ≠ FanSt.shadow) : (fanStart c s).fanState c = FanSt.sense
    ∧ (fanStart c s).get (Reg.FAN_CH_DEMAND_DEMAND c)
      = max 400 (s.get (Reg.FAN_CH_DEMAND_DEMAND c)) % 2 ^ (Reg.FAN_CH_DEMAND_DEMAND c).width
    ∧ Keeps [Reg.FAN_CH_STATE_STATE c, Reg.FAN_CH_STATE_FAULT_CAUSE c, Reg.FAN_CH_DEMAND_DEMAND c] s (fanStart c s) := by
  have heq : fanStart c s = raiseDemand c (setF (Reg.FAN_CH_STATE_FAULT_CAUSE c) 0
      (setFanState c FanSt.sense (onFanChan c (fun x => { x with residuals := [], aboveLimit := false }) s))) := by
    rw [fanStart, if_neg h]
  rw [heq]
  refine ⟨?_, ?_, keeps_raiseDemand (by simp) (by simp)⟩
  · rw [State.fanState, get_raiseDemand_ne (by simp only [Field.key, Reg.FAN_CH_DEMAND_DEMAND, Reg.FAN_CH_STATE_STATE]; omega),
      get_setF_ne _ _ _ _ (by simp only [Field.key, Reg.FAN_CH_STATE_FAULT_CAUSE, Reg.FAN_CH_STATE_STATE]; omega)]
    exact fanState_setFanState (by decide) c _
  · rw [get_raiseDemand, get_setF_ne _ _ _ _ (by simp only [Field.key, Reg.FAN_CH_STATE_FAULT_CAUSE, Reg.FAN_CH_DEMAND_DEMAND]; omega),
      get_setFanState_ne (by simp only [Field.key, Reg.FAN_CH_STATE_STATE, Reg.FAN_CH_DEMAND_DEMAND]; omega), onFanChan_get]

/-! A period of control -/

/-- The registers of a period before its speed reference (R339, R341). -/
def focSampled (n : Nat) (x : FocSample) (s : State) : State :=
  observe n x (setF (Reg.FAN_CH_ANGLE_ANGLE n) x.angle (setRpm n x.rpm
    (when (decide (2 ≤ b2n x.skipA + b2n x.skipB + b2n x.skipC)) (bump (Reg.FAN_CH_PRED_CNT n)) s)))

/-- The speed reference moves one step towards its target (R342). -/
def nextRef (n : Nat) (s : State) : Nat :=
  let refQ := (s.fanChan n).refQ
  let target := 400 * (s.get (Reg.FAN_CH_CFG_FULL_RPM_100 n) * 100 * s.fanApplied n / 1000)
  let step := max 1 (s.get (Reg.FAN_CH_CFG_ACCEL_100 n))
  if target ≤ refQ then max target (refQ - step) else min target (refQ + step)

/-- What a period in RUN leaves below the voltage limit (R342). -/
def focRun (n : Nat) (x : FocSample) (s : State) : State :=
  onFanChan n (fun y => { y with refQ := nextRef n s }) (setF (Reg.FAN_CH_SPEED_REF n) (nextRef n s / 400) (focSampled n x s))

theorem exec_focPeriod_of_run {s : State} {c : Fin 6} {x : FocSample} (h : s.fanState c.val = FanSt.run) (hx : x.vector < 950)
    (hl : s.on (Reg.FAN_CH_STATE_VOLT_LIMIT c.val) = false) : exec (.focPeriod c x) s = .next (focRun c.val x s) := by
  have hvec : decide (950 ≤ x.vector) = false := by simpa using hx
  rw [exec_focPeriod]
  unfold execFocPeriod
  simp only [h, hvec, hl, Bool.false_and, Bool.false_or, bne_self_eq_false, Bool.false_eq_true, if_false]
  rfl

/-- A field of the sample other than those it writes reads as before. -/
theorem focRun_fields (n : Nat) (x : FocSample) (s : State) :
    ((focRun n x s).fanChan n).refQ = nextRef n s
    ∧ (focRun n x s).get (Reg.FAN_CH_SPEED_REF n) = nextRef n s / 400 % 2 ^ (Reg.FAN_CH_SPEED_REF n).width
    ∧ (focRun n x s).get (Reg.FAN_CH_ANGLE_ANGLE n) = x.angle % 2 ^ (Reg.FAN_CH_ANGLE_ANGLE n).width
    ∧ (focRun n x s).get (Reg.FAN_CH_SPEED_RPM n) = ofSigned 16 x.rpm % 2 ^ 16
    ∧ (focRun n x s).on (Reg.FAN_CH_STATE_DIR n) = decide (x.rpm < 0) := by
  refine ⟨?_, ?_, ?_, ?_, ?_⟩
  · rw [focRun, fanChan_onFanChan_self]
  · rw [focRun, onFanChan_get, get_setF_self]
  all_goals
    unfold focRun focSampled observe setRpm
    simp (disch := simp only [Field.key, Reg.FAN_CH_SPEED_REF, Reg.FAN_CH_ANGLE_ANGLE, Reg.FAN_CH_STATE_DIR, Reg.FAN_CH_SPEED_RPM]; omega)
      only [State.on, onFanChan_get, get_setF_ne, get_setF_self]
  · rfl
  · exact (congrArg (· != 0) (b2n_mod_two _)).trans (b2n_bne_zero _)

theorem get_predCnt_focRun (n : Nat) (x : FocSample) (s : State) : (focRun n x s).get (Reg.FAN_CH_PRED_CNT n)
    = (when (decide (2 ≤ b2n x.skipA + b2n x.skipB + b2n x.skipC)) (bump (Reg.FAN_CH_PRED_CNT n)) s).get (Reg.FAN_CH_PRED_CNT n) := by
  unfold focRun focSampled observe setRpm
  simp (disch := simp only [Field.key, Reg.FAN_CH_SPEED_REF, Reg.FAN_CH_ANGLE_ANGLE, Reg.FAN_CH_STATE_DIR, Reg.FAN_CH_SPEED_RPM,
    Reg.FAN_CH_PRED_CNT]; omega) only [onFanChan_get, get_setF_ne]

theorem keeps_focRun (n : Nat) (x : FocSample) (s : State) : Keeps [Reg.FAN_CH_ANGLE_ANGLE n, Reg.FAN_CH_SPEED_RPM n,
    Reg.FAN_CH_STATE_DIR n, Reg.FAN_CH_PRED_CNT n, Reg.FAN_CH_SPEED_REF n] s (focRun n x s) := by
  simp [focRun, focSampled, observe, setRpm, keeps_when]

/-! Losses and failures -/

/-- What an observer loss leaves while fewer than three fell within 60 s (R346). -/
def coasting (n : Nat) (s : State) : State :=
  setFanState n FanSt.coast (onFanChan n (fun x => { x with losses := s.clock :: s.within (sec 60) (s.fanChan n).losses })
    (event Reg.FAN_EVENT_OBS_LOSS Reg.FAN_OBS_LOSS_CNT (bump (Reg.FAN_CH_LOSS_CNT n) s)))

theorem exec_observerLoss_of_few {s : State} {c : Fin 6} (h : s.fanState c.val = FanSt.run) (ha : (s.fanChan c.val).aboveLimit = true)
    (hl : (s.within (sec 60) (s.fanChan c.val).losses).length < 2) : exec (.observerLoss c) s = .next (coasting c.val s) := by
  rw [exec_observerLoss, execObserverLoss, if_neg (by simp [h, ha])]
  exact congrArg _ (if_neg (by omega))

theorem coasting_fields {n : Nat} (hn : n < 6) (s : State) : (coasting n s).fanState n = FanSt.coast
    ∧ (coasting n s).get Reg.FAN_EVENT_OBS_LOSS = 1
    ∧ ((coasting n s).fanChan n).losses = s.clock :: s.within (sec 60) (s.fanChan n).losses
    ∧ Keeps [Reg.FAN_CH_STATE_STATE n, Reg.FAN_EVENT_OBS_LOSS, Reg.FAN_OBS_LOSS_CNT, Reg.FAN_CH_LOSS_CNT n] s (coasting n s) := by
  refine ⟨fanState_setFanState (by decide) _ _, ?_, ?_, by simp [coasting]⟩
  · rw [coasting, get_setFanState_ne (by simp only [Field.key, Reg.FAN_CH_STATE_STATE, Reg.FAN_EVENT_OBS_LOSS]; omega), onFanChan_get]
    exact get_event_flag _ _ _ (by decide) (by decide)
  · rw [coasting, fanChan_setFanState, fanChan_onFanChan_self]

/-- What a first failure to start leaves (R344). -/
def startFailed (n : Nat) (s : State) : State :=
  setFanState n FanSt.coast (onFanChan n (fun x => { x with startFails := 1 }) (event Reg.FAN_EVENT_START_FAIL Reg.FAN_START_FAIL_CNT s))

theorem exec_startFail_of_first {s : State} {c : Fin 6} (h : s.fanState c.val ∈ startingStates) (hd : s.fanDrive = true)
    (hf : (s.fanChan c.val).startFails = 0) : exec (.startFail c) s = .next (startFailed c.val s) := by
  rw [exec_startFail, execStartFail, if_pos (by simp [h, hd])]
  exact congrArg _ (if_pos hf)

theorem startFailed_fields {n : Nat} (hn : n < 6) (s : State) : (startFailed n s).fanState n = FanSt.coast
    ∧ ((startFailed n s).fanChan n).startFails = 1 ∧ (startFailed n s).get Reg.FAN_EVENT_START_FAIL = 1
    ∧ Keeps [Reg.FAN_CH_STATE_STATE n, Reg.FAN_EVENT_START_FAIL, Reg.FAN_START_FAIL_CNT] s (startFailed n s) := by
  refine ⟨fanState_setFanState (by decide) _ _, ?_, ?_, by simp [startFailed]⟩
  · rw [startFailed, fanChan_setFanState, fanChan_onFanChan_self]
  · rw [startFailed, get_setFanState_ne (by simp only [Field.key, Reg.FAN_CH_STATE_STATE, Reg.FAN_EVENT_START_FAIL]; omega), onFanChan_get]
    exact get_event_flag _ _ _ (by decide) (by decide)

/-! The end of SENSE -/

/-- The state of the channel is the one its measured speed leads to (R344). -/
theorem senseDone_fields {n : Nat} (rpm : Int) (s : State) :
    (setFanState n (afterSense rpm) (setRpm n rpm s)).fanState n = afterSense rpm
    ∧ Keeps [Reg.FAN_CH_STATE_STATE n, Reg.FAN_CH_SPEED_RPM n, Reg.FAN_CH_STATE_DIR n] s
        (setFanState n (afterSense rpm) (setRpm n rpm s)) :=
  ⟨fanState_setFanState (afterSense_lt rpm) _ _, by simp [setRpm]⟩

theorem exec_senseDone_of_drive {s : State} {c : Fin 6} {rpm : Int} (h : s.fanState c.val = FanSt.sense) (hd : s.fanDrive = true) :
    exec (.senseDone c rpm) s = .next (setFanState c.val (afterSense rpm) (setRpm c.val rpm s)) := by
  rw [exec_senseDone, execSenseDone, if_pos h, when_of_true hd]

/-! RESTART -/

/-- A channel taken out of FAULT before it settles (R349). -/
def faultLeft (n : Nat) (s : State) : State := setF (Reg.FAN_CH_STATE_FAULT_CAUSE n) 0 (setFanState n FanSt.off s)

theorem fanRestart_of_fault {n : Nat} {s : State} (h : s.fanState n = FanSt.fault) : fanRestart n s = fanSettle n (faultLeft n s) := if_pos h

theorem faultLeft_fields (n : Nat) (s : State) : (faultLeft n s).fanState n = FanSt.off
    ∧ (faultLeft n s).get (Reg.FAN_CH_STATE_FAULT_CAUSE n) = 0
    ∧ Keeps [Reg.FAN_CH_STATE_STATE n, Reg.FAN_CH_STATE_FAULT_CAUSE n] s (faultLeft n s) := by
  refine ⟨?_, get_setF_zero _ _, by simp [faultLeft]⟩
  rw [faultLeft, State.fanState, get_setF_ne _ _ _ _ (by simp only [Field.key, Reg.FAN_CH_STATE_STATE, Reg.FAN_CH_STATE_FAULT_CAUSE]; omega)]
  exact fanState_setFanState (by decide) _ _

/-- Settles O20: each event's own writes and the state it leads to. -/
theorem fanChannelsComplete : Obligations.FanChannelsComplete := by
  refine ⟨fun s c x h hx hl => ?foc, fun s c => ?clear, fun s c h ha hl => ?loss, fun s c h hf hd => ?coast, fun s c run hl => ?runWrite,
    fun s c rpm h hd => ?sense, fun s c h => ?brake, fun s c h => ?align, fun s c h ha => ?ramp, fun s c h => ?sync,
    fun s c h hd hf => ?startFail, fun s c h hf hd => ?retry, fun s c h => ?phase, fun s c h => ?current, fun s c hl h => ?restart,
    fun s c h hf => ?faultRestart⟩
  case foc =>
    obtain ⟨href, hspeed, hangle, hrpm, hdir⟩ := focRun_fields c.val x s
    refine .of_next (exec_focPeriod_of_run h hx hl) ⟨href, ?_, hangle, hrpm, hdir, fun h2 => ?_, fun h2 => ?_, keeps_focRun c.val x s⟩
    · rw [hspeed, href]
    · rw [get_predCnt_focRun, when_of_true (decide_eq_true h2), get_bump_self]
      rfl
    · rw [get_predCnt_focRun, decide_eq_false (by omega)]
      rfl
  case clear => exact .of_next (exec_voltLimitClear s) ⟨get_setF_zero _ _, by simp⟩
  case loss => exact .of_next (exec_observerLoss_of_few h ha hl) (coasting_fields c.isLt s)
  case coast =>
    refine .of_next (t := fanStart c.val s) ?_ (fanStart_fields (by rw [h]; decide))
    rw [exec_coastRestart, execCoastRestart, if_pos ⟨h, hf, hd⟩]
  case runWrite =>
    exact .of_next (g := fanSettle c.val) (t := setF (Reg.FAN_CH_CTRL_RUN c.val) (b2n run) (ungate (islandOf 0xE010C) s))
      (exec_of_lands hl (exec_fanRunWrite s)) ⟨on_setF_b2n rfl run _, by simp⟩
  case sense =>
    obtain ⟨hst, hkeep⟩ := senseDone_fields (n := c.val) rpm s
    refine .of_next (exec_senseDone_of_drive h hd) ⟨fun h1 => ?_, fun h1 h2 => ?_, fun h1 => ?_, hkeep⟩ <;> rw [hst]
    · exact if_pos h1
    · exact (if_neg (by omega)).trans (if_pos ⟨h2, h1⟩)
    · exact (if_neg (by omega)).trans (if_neg (by omega))
  case brake =>
    refine .of_next (t := setFanState c.val FanSt.align s) ?_ ⟨fanState_setFanState (by decide) _ _, by simp⟩
    rw [exec_brakeDone, execBrakeDone, if_pos h]
  case align =>
    refine .of_next (t := setFanState c.val FanSt.openRamp s) ?_ ⟨fanState_setFanState (by decide) _ _, by simp⟩
    rw [exec_alignDone, execAlignDone, if_pos h]
  case ramp =>
    refine .of_next (t := enterRun c.val 500 s) ?_ ⟨fanState_enterRun _ _ _, startFails_enterRun _ _ _⟩
    rw [exec_openRampDone, execOpenRampDone, if_pos ⟨h, ha⟩]
  case sync =>
    refine .of_next (t := enterRun c.val (s.fanRpm c.val).toNat s) ?_ ⟨fanState_enterRun _ _ _, startFails_enterRun _ _ _⟩
    rw [exec_syncDone, execSyncDone, if_pos h]
  case startFail => exact .of_next (exec_startFail_of_first h hd hf) (startFailed_fields c.isLt s)
  case retry =>
    refine .of_next (t := setFanState c.val FanSt.sense s) ?_ ⟨fanState_setFanState (by decide) _ _, by simp⟩
    rw [exec_startRetry, execStartRetry, if_pos ⟨h, hf, hd⟩]
  case phase =>
    refine .of_next (g := fun t => settle (fanFault c.val 2 t)) (t := event Reg.FAN_EVENT_MISSING_PHASE Reg.FAN_MISSING_PHASE_CNT s) ?_
      ⟨get_event_flag _ _ _ (by decide) (by decide), by simp⟩
    rw [exec_missingPhase, execMissingPhase, if_pos h]
  case current =>
    refine .of_next (g := fun t => settle (fanFault c.val 4 t)) (t := bump Reg.FAN_OVERCURRENT_CNT s) ?_ ⟨get_bump_self _ _, by simp⟩
    rw [exec_fanOvercurrent, execFanOvercurrent, if_neg (by simp [h])]
  case restart =>
    exact .of_next ((exec_of_lands hl (exec_fanRestart s)).trans (congrArg _ (fanRestart_of_fault h)))
      (faultLeft_fields c.val (ungate (islandOf 0xE010C) s))
  case faultRestart =>
    refine .of_next ?_ (faultLeft_fields c.val s)
    rw [exec_fanFaultRestart, execFanFaultRestart, if_pos ⟨h, hf⟩, fanRestart_of_fault h]

end Sys2Proof.Machine
end

section
/-! The fan token, the demand and the fans' reports (R350 to R355): the obligation O21. -/

open Sys2Proof

namespace Sys2Proof.Machine

/-! The power report -/

/-- One channel's part of the power report (R354). -/
def reportFan (p : List Nat) (i : List (Nat × (Nat × Nat))) (c : Nat) (t : State) : State :=
  let m := p.getD c 0
  let x := i.getD c (0, 0, 0)
  setF (Reg.FAN_CH_IRMS_IA c) x.1 (setF (Reg.FAN_CH_IRMS_IB c) x.2.1 (setF (Reg.FAN_CH_IRMS_IC c) x.2.2
    (setF (Reg.FAN_CH_POWER_P_MEAS_DW c) m (setF (Reg.FAN_CH_POWER_P_REP_DW c) (t.fanPower c m) t))))

/-- The registers that the power report writes for a channel. -/
def fanReportFields (c : Nat) : List Field := [Reg.FAN_CH_IRMS_IA c, Reg.FAN_CH_IRMS_IB c, Reg.FAN_CH_IRMS_IC c, Reg.FAN_CH_POWER_P_MEAS_DW c,
  Reg.FAN_CH_POWER_P_REP_DW c]

/-- The registers that the power report writes. -/
def fanReports : List Field := fanChannels.flatMap fanReportFields

theorem keeps_reportFan (p : List Nat) (i : List (Nat × (Nat × Nat))) (c : Nat) (t : State) :
    Keeps (fanReportFields c) t (reportFan p i c t) := by simp [reportFan, fanReportFields]

theorem fanReports_of_mem {c : Nat} (hc : c ∈ fanChannels) : ∀ k ∈ (fanReportFields c).map Field.key, k ∈ fanReports.map Field.key := by
  intro k hk
  obtain ⟨f, hf, rfl⟩ := List.mem_map.mp hk
  exact List.mem_map_of_mem (List.mem_flatMap.mpr ⟨c, hc, hf⟩)

theorem keeps_reports (p : List Nat) (i : List (Nat × (Nat × Nat))) {l : List Nat} (hl : ∀ c ∈ l, c ∈ fanChannels) (t : State) :
    Keeps fanReports t (forEach l (reportFan p i) t) := by
  induction l generalizing t with
  | nil => exact Keeps.refl _ _
  | cons d l ih =>
    exact ((keeps_reportFan p i d t).mono (fanReports_of_mem (hl d (by simp)))).trans (ih (fun c hc => hl c (by simp [hc])) _)

/-- A channel's power is computed from registers that no report writes. -/
theorem fanPower_of_reports {s t : State} (h : Keeps fanReports s t) {c : Nat} (hc : c < 6) (m : Nat) : t.fanPower c m = s.fanPower c m := by
  have hstate (d : Nat) (hd : d < 6) : t.fanState d = s.fanState d :=
    h.get ((by decide : ∀ d < 6, (Reg.FAN_CH_STATE_STATE d).key ∉ fanReports.map Field.key) d hd)
  have hdemand : t.get (Reg.FAN_CH_DEMAND_DEMAND c) = s.get (Reg.FAN_CH_DEMAND_DEMAND c) :=
    h.get ((by decide : ∀ d < 6, (Reg.FAN_CH_DEMAND_DEMAND d).key ∉ fanReports.map Field.key) c hc)
  have hrated : t.get (Reg.FAN_CH_CFG_P_RATED_W c) = s.get (Reg.FAN_CH_CFG_P_RATED_W c) :=
    h.get ((by decide : ∀ d < 6, (Reg.FAN_CH_CFG_P_RATED_W d).key ∉ fanReports.map Field.key) c hc)
  have hany : fanChannels.any (fun d => t.fanState d == FanSt.fault) = fanChannels.any (fun d => s.fanState d == FanSt.fault) :=
    Bool.eq_iff_iff.mpr (by
      simp only [List.any_eq_true]
      exact exists_congr fun d => and_congr_right fun hd => by rw [hstate d (List.mem_range.mp hd)])
  simp only [State.fanPower, State.fanApplied, State.on, hstate c hc, hdemand, hrated, hany, h.get (f := Reg.FAN_CTRL_FIXED_EN) (by decide),
    h.get (f := Reg.FAN_CFG_FIXED_PCT) (by decide), h.get (f := Reg.FAN_WDOG_EXPIRED) (by decide),
    h.get (f := Reg.FAN_CFG_FAILSAFE_PCT) (by decide), h.get (f := Reg.FAN_CFG_FAULT_FLOOR_PCT) (by decide)]
  rfl

/-- A channel's report stays where other channels report. -/
theorem get_reports_of_notMem (p : List Nat) (i : List (Nat × (Nat × Nat))) {l : List Nat} {c : Nat} (hc : c ∉ l) {f : Field}
    (hf : ∀ d, d ≠ c → f.key ∉ (fanReportFields d).map Field.key) (t : State) : (forEach l (reportFan p i) t).get f = t.get f := by
  induction l generalizing t with
  | nil => rfl
  | cons d l ih =>
    obtain ⟨hne, hl⟩ := not_or.mp (List.mem_cons.not.mp hc)
    exact (ih hl (reportFan p i d t)).trans ((keeps_reportFan p i d t).get (hf d (Ne.symm hne)))

theorem meas_notMem {c d : Nat} (h : d ≠ c) : (Reg.FAN_CH_POWER_P_MEAS_DW c).key ∉ (fanReportFields d).map Field.key := by
  simp only [fanReportFields, List.map_cons, List.map_nil, List.mem_cons, List.not_mem_nil, or_false, Field.key, Reg.FAN_CH_IRMS_IA,
    Reg.FAN_CH_IRMS_IB, Reg.FAN_CH_IRMS_IC, Reg.FAN_CH_POWER_P_MEAS_DW, Reg.FAN_CH_POWER_P_REP_DW]
  omega

theorem rep_notMem {c d : Nat} (h : d ≠ c) : (Reg.FAN_CH_POWER_P_REP_DW c).key ∉ (fanReportFields d).map Field.key := by
  simp only [fanReportFields, List.map_cons, List.map_nil, List.mem_cons, List.not_mem_nil, or_false, Field.key, Reg.FAN_CH_IRMS_IA,
    Reg.FAN_CH_IRMS_IB, Reg.FAN_CH_IRMS_IC, Reg.FAN_CH_POWER_P_MEAS_DW, Reg.FAN_CH_POWER_P_REP_DW]
  omega

theorem get_meas_reportFan (p : List Nat) (i : List (Nat × (Nat × Nat))) (c : Nat) (t : State) :
    (reportFan p i c t).get (Reg.FAN_CH_POWER_P_MEAS_DW c) = p.getD c 0 % 2 ^ (Reg.FAN_CH_POWER_P_MEAS_DW c).width := by
  unfold reportFan
  simp (disch := simp only [Field.key, Reg.FAN_CH_IRMS_IA, Reg.FAN_CH_IRMS_IB, Reg.FAN_CH_IRMS_IC, Reg.FAN_CH_POWER_P_MEAS_DW]; omega) only
    [get_setF_ne, get_setF_self]

theorem get_rep_reportFan (p : List Nat) (i : List (Nat × (Nat × Nat))) (c : Nat) (t : State) :
    (reportFan p i c t).get (Reg.FAN_CH_POWER_P_REP_DW c) = t.fanPower c (p.getD c 0) % 2 ^ (Reg.FAN_CH_POWER_P_REP_DW c).width := by
  unfold reportFan
  simp (disch := simp only [Field.key, Reg.FAN_CH_IRMS_IA, Reg.FAN_CH_IRMS_IB, Reg.FAN_CH_IRMS_IC, Reg.FAN_CH_POWER_P_MEAS_DW,
    Reg.FAN_CH_POWER_P_REP_DW]; omega) only [get_setF_ne, get_setF_self]

/-- Each channel that reports reads its measured and its reported power. -/
theorem get_reports (p : List Nat) (i : List (Nat × (Nat × Nat))) {l : List Nat} (hl : ∀ c ∈ l, c ∈ fanChannels) (hnd : l.Nodup)
    {s t : State} (h : Keeps fanReports s t) {c : Nat} (hc : c ∈ l) :
    (forEach l (reportFan p i) t).get (Reg.FAN_CH_POWER_P_MEAS_DW c) = p.getD c 0 % 2 ^ (Reg.FAN_CH_POWER_P_MEAS_DW c).width
    ∧ (forEach l (reportFan p i) t).get (Reg.FAN_CH_POWER_P_REP_DW c)
      = s.fanPower c (p.getD c 0) % 2 ^ (Reg.FAN_CH_POWER_P_REP_DW c).width := by
  induction l generalizing t with
  | nil => exact absurd hc (List.not_mem_nil)
  | cons d l ih =>
    have hd := hl d (by simp)
    obtain ⟨hnot, hnd'⟩ := List.nodup_cons.mp hnd
    change (forEach l (reportFan p i) (reportFan p i d t)).get _ = _ ∧ (forEach l (reportFan p i) (reportFan p i d t)).get _ = _
    rcases List.mem_cons.mp hc with rfl | hcl
    · rw [get_reports_of_notMem p i hnot (fun e he => meas_notMem he), get_reports_of_notMem p i hnot (fun e he => rep_notMem he),
        get_meas_reportFan, get_rep_reportFan, fanPower_of_reports h (List.mem_range.mp hd)]
      exact ⟨rfl, rfl⟩
    · exact ih (fun e he => hl e (by simp [he])) hnd' (h.trans ((keeps_reportFan p i d t).mono (fanReports_of_mem hd))) hcl

/-! The computed demand -/

theorem le_foldl_largerDemand (l : List (Nat × (Nat × Int))) (a : Nat × (Nat × Int)) :
    a.1 ≤ (l.foldl largerDemand a).1 ∧ ∀ x ∈ l, x.1 ≤ (l.foldl largerDemand a).1 := by
  induction l generalizing a with
  | nil => exact ⟨le_rfl, by simp⟩
  | cons b l ih =>
    obtain ⟨hstart, hrest⟩ := ih (largerDemand a b)
    have hboth : a.1 ≤ (largerDemand a b).1 ∧ b.1 ≤ (largerDemand a b).1 := by
      unfold largerDemand
      split_ifs <;> omega
    refine ⟨hboth.1.trans hstart, fun x hx => ?_⟩
    rcases List.mem_cons.mp hx with rfl | hx
    · exact hboth.2.trans hstart
    · exact hrest x hx

/-- The four fixed sources of demand (R355). -/
def fixedDemands (r : TempReadings) (s : State) : List (Nat × (Nat × Int)) :=
  [(demandFor (s.fan.limits.getD 1 (0, 1)) r.die, 0x80, r.die), (demandFor (s.fan.limits.getD 2 (0, 1)) r.converter, 0x81, r.converter),
    (demandFor (s.fan.limits.getD 3 (0, 1)) r.inlet, 0x82, r.inlet), (demandFor (s.fan.limits.getD 4 (0, 1)) s.packTemp, 0x83, s.packTemp)]

/-- The channels are written with the largest demand of some list of drives and the fixed sources. -/
theorem exec_fanDemandCompute_eq (r : TempReadings) (s : State) : ∃ (drives : List (Nat × (Nat × Int))) (fan : FanPart),
    exec (.fanDemandCompute r) s = .next (forEach fanChannels (fun c v =>
      writeDemand c (max (if v.mode = Mode.waking ∨ v.fanStarting c = true then 400 else 0)
        (max ((drives ++ fixedDemands r s).foldl largerDemand (300, 0x82, r.inlet)).1 (v.get (Reg.FAN_CH_DEMAND_DEMAND c) - 10))) v)
      { s with fan := fan }) := ⟨_, _, exec_fanDemandCompute s⟩

/-! The token -/

/-- A claim is given up or won: its sampling ends (R350). -/
def claimOver (s : State) : State := setF Reg.FAN_TOKEN_CLAIM 0 { s with fan := { s.fan with claiming := false } }

theorem exec_fanTokenClaimDone_of_claiming {s : State} (l : List Bool) (h : s.fan.claiming = true) :
    exec (.fanTokenClaimDone l) s = .next (if (l.take (if s.on Reg.SYS_STRAP_POS then 3 else 2)).all id
      && decide ((if s.on Reg.SYS_STRAP_POS then 3 else 2) ≤ l.length) then fanGain (claimOver s)
      else setF Reg.FAN_TOKEN_REFUSED 1 (claimOver s)) := by
  rw [exec_fanTokenClaimDone, execFanTokenClaimDone, if_neg (by simp [h])]
  rfl

theorem keeps_claimOver {fs : List Field} {s : State} (hf : Reg.FAN_TOKEN_CLAIM.key ∈ fs.map Field.key) : Keeps fs s (claimOver s) :=
  Keeps.of_eq (t := setF Reg.FAN_TOKEN_CLAIM 0 s) (by simp [hf]) rfl rfl

/-- Sampling of the line begins (R350). -/
def claimBegun (s : State) : State :=
  setF Reg.FAN_TOKEN_CLAIM 1 { setF Reg.FAN_TOKEN_REFUSED 0 s with fan := { s.fan with claiming := true } }

theorem claimBegun_get (s : State) (f : Field) :
    (claimBegun s).get f = (setF Reg.FAN_TOKEN_CLAIM 1 (setF Reg.FAN_TOKEN_REFUSED 0 s)).get f := get_of_regs f rfl

theorem get_refused_claimBegun (s : State) : (claimBegun s).get Reg.FAN_TOKEN_REFUSED = 0 := by
  rw [claimBegun_get, get_setF_ne _ _ _ _ (by decide), get_setF_zero]

theorem keeps_claimBegun (s : State) : Keeps [Reg.FAN_TOKEN_CLAIM, Reg.FAN_TOKEN_REFUSED] s (claimBegun s) :=
  Keeps.of_eq (t := setF Reg.FAN_TOKEN_CLAIM 1 (setF Reg.FAN_TOKEN_REFUSED 0 s)) (by simp) rfl rfl

/-- Settles O21: the token's line, the demand with its sources, and the report channel by channel. -/
theorem fanTokenAndDemandComplete : Obligations.FanTokenAndDemandComplete := by
  refine ⟨fun s hl hh => ?claim, fun s l hc => ?claimDone, fun s hl hh => ?release, fun s low hh hp => ?line, fun s c v hl hv => ?demand,
    fun s he => ?watchdog, fun s p i => ?report, fun s r => ?compute⟩
  case claim =>
    exact .of_next ((exec_of_lands hl (exec_fanTokenClaim s)).trans (congrArg _ (if_neg (Bool.eq_false_iff.mp (show s.on Reg.FAN_TOKEN_HELD = false from hh)))))
      ⟨get_setF_one rfl _, get_refused_claimBegun _, rfl, keeps_claimBegun _⟩
  case claimDone =>
    have hexec := exec_fanTokenClaimDone_of_claiming l hc
    refine ⟨fun hlen hall => ?won, fun hlow => ?lost⟩
    case won =>
      refine .of_next (hexec.trans (congrArg _ (if_pos ?_))) ⟨get_setF_zero _ _, rfl, keeps_claimOver (by simp)⟩
      simpa [hlen] using hall
    case lost =>
      refine .of_next (hexec.trans (congrArg _ (if_neg ?_))) ⟨get_setF_one rfl _, ?_, rfl, ?_, ?_⟩
      · rintro hboth
        obtain ⟨hall, hlen⟩ := (Bool.and_eq_true _ _).mp hboth
        rcases hlow with hshort | ⟨b, hb, hfalse⟩
        · exact absurd (of_decide_eq_true hlen) (by omega)
        · exact absurd (List.all_eq_true.mp hall b hb) (by simp [hfalse])
      · exact (get_setF_ne _ _ _ _ (by decide)).trans (get_setF_zero _ _)
      · exact (on_setF_ne _ _ _ _ (by decide)).trans ((on_setF_ne _ _ _ _ (by decide)).trans rfl)
      · exact (keeps_claimOver (by simp)).setF _ _ (by simp)
  case release =>
    refine .of_next (g := fanSettleAll) (t := event Reg.FAN_EVENT_TOKEN_CHANGE Reg.FAN_TOKEN_CHANGE_CNT
      (setF Reg.FAN_TOKEN_HELD 0 (ungate (islandOf 0xE000C) s))) ((exec_of_lands hl (exec_fanTokenRelease s)).trans (congrArg _ (if_pos ?_))) ⟨?_, ?_, ?_⟩
    · exact hh
    · exact (get_event_ne (by decide) (by decide)).trans (get_setF_zero _ _)
    · exact get_event_flag _ _ _ (by decide) (by decide)
    · simp
  case line =>
    refine .of_next (g := fanSettleAll) (t := event Reg.FAN_EVENT_TOKEN_CHANGE Reg.FAN_TOKEN_CHANGE_CNT
      (setF Reg.FAN_TOKEN_PARTNER (b2n low) s)) ?_ ⟨?_, ?_, ?_⟩
    · rw [exec_fanTokenLineChange, execFanTokenLineChange]
      simp only [hh, Bool.not_false, Bool.and_true, if_neg hp]
    · rw [State.on, get_event_ne (by decide) (by decide)]
      exact on_setF_b2n rfl low s
    · exact get_event_flag _ _ _ (by decide) (by decide)
    · simp
  case demand =>
    refine ⟨_, (exec_of_lands hl (exec_fanDemandWrite s)).trans ?_, rfl⟩
    rw [decide_eq_false (by omega), Nat.mod_eq_of_lt hv]
    rfl
  case watchdog =>
    refine .of_next (t := demandMoved s (event Reg.FAN_EVENT_WDOG Reg.FAN_WDOG_CNT (setF Reg.FAN_WDOG_EXPIRED 1 s))) ?_
      ⟨?_, ?_, keeps_demandMoved (by simp)⟩
    · rw [exec_fanWatchdogExpiry, execFanWatchdogExpiry, if_pos he]
    · rw [get_demandMoved, get_event_ne (by decide) (by decide), get_setF_one rfl]
    · exact (get_demandMoved _ _ _).trans (get_event_flag _ _ _ (by decide) (by decide))
  case report =>
    have hne (c : Nat) (hc : c < 6) : Reg.PWR_FAN_W_P_FAN_DW.key ≠ (Reg.FAN_CH_POWER_P_REP_DW c).key ∧
        Reg.PWR_FAN_W_P_FAN_DW.key ≠ (Reg.FAN_CH_POWER_P_MEAS_DW c).key := by
      simp only [Field.key, Reg.PWR_FAN_W_P_FAN_DW, Reg.FAN_CH_POWER_P_REP_DW, Reg.FAN_CH_POWER_P_MEAS_DW]
      omega
    refine .of_next (exec_fanPowerReport s) ⟨fun c hc => ?_, ?_, ?_⟩
    · obtain ⟨hmeas, hrep⟩ := get_reports p i (fun _ h => h) List.nodup_range (Keeps.refl fanReports s) (List.mem_range.mpr hc)
      exact ⟨(get_setF_ne _ _ _ _ (hne c hc).2).trans hmeas, (get_setF_ne _ _ _ _ (hne c hc).1).trans hrep⟩
    · refine (get_setF_self _ _ _).trans (congrArg (fun l : List Nat => l.sum % _) (List.map_congr_left fun c hc => ?_))
      exact (get_setF_ne _ _ _ _ (hne c (List.mem_range.mp hc)).1).symm
    · exact (keeps_reports p i (fun _ h => h) s).2
  case compute =>
    obtain ⟨drives, fan, hexec⟩ := exec_fanDemandCompute_eq r s
    obtain ⟨hstart, hall⟩ := le_foldl_largerDemand (drives ++ fixedDemands r s) (300, 0x82, r.inlet)
    refine ⟨_, _, hexec, hstart, fun x hx => ?_, (keeps_congr rfl rfl).mpr (Keeps.refl _ s)⟩
    have hmem : x ∈ (fixedDemands r s).map Prod.fst := hx
    obtain ⟨y, hy, rfl⟩ := List.mem_map.mp hmem
    exact hall y (List.mem_append_right _ hy)

end Sys2Proof.Machine
end

section
/-! Beats sent, received and missed (R360, R361, R366): the obligation O22. -/

open Sys2Proof

namespace Sys2Proof.Machine

/-! A beat sent -/

theorem sendMir_of_up {s : State} (k : MirKind) (args : List Nat) (hup : s.on Reg.FOV_MIR_STATUS_LINK_UP = true)
    (hen : s.on Reg.FOV_MIR_CTRL_ENABLE = true) :
    sendMir k args s = bump Reg.FOV_MIR_TX_CNT (emit (.mirror k (s.mirStream k) args) (passStream k s)) := if_pos (by simp [hup, hen])

theorem out_sendMir_of_up {s : State} (k : MirKind) (args : List Nat) (hup : s.on Reg.FOV_MIR_STATUS_LINK_UP = true)
    (hen : s.on Reg.FOV_MIR_CTRL_ENABLE = true) : (sendMir k args s).out = .mirror k (s.mirStream k) args :: s.out := by
  rw [sendMir_of_up k args hup hen]
  unfold passStream
  split_ifs <;> rfl

/-- What a beat leaves: the sequence numbers of both paths and RELINQUISH's count go on (R360, R366). -/
def beatSent (s u : State) : State :=
  { u with fov := { u.fov with
    lineSeq := (s.fov.lineSeq + 1) % 256
    mirSeq := if s.mirrorGated then s.fov.mirSeq else (s.fov.mirSeq + 1) % 256
    relqLeft := s.fov.relqLeft - 1 } }

/-- The line's beat as it goes out. -/
def lineBeatSent (s : State) : State := emit (.lineBeat (s.beatWord s.fov.lineSeq)) s

theorem exec_beatSend_of_enabled {s : State} (he : s.on Reg.FOV_CTRL_HB_EN = true) (hp : s.sys.powered = true) :
    exec .beatSend s = .next (beatSent s (if s.mirrorGated then lineBeatSent s
      else sendMir .beat [s.beatWord s.fov.mirSeq, s.get Reg.JNL_SEQ_SEQ, s.dirtyMib, b2n s.hif.up] (lineBeatSent s))) := by
  rw [exec_beatSend, execBeatSend, if_pos (by simp [he, hp])]
  rfl

/-! A beat missed -/

/-- What a miss below the limit leaves of the path (R361). -/
def missCounted (path : Nat) (s : State) : State :=
  let s0 := setF (missField path) (min 255 (s.get (missField path) + 1)) s
  { s0 with fov := { s0.fov with
    lineGood := if path = 0 then 0 else s0.fov.lineGood, mirGood := if path = 0 then s0.fov.mirGood else 0 } }

theorem missCounted_get (path : Nat) (s : State) (f : Field) :
    (missCounted path s).get f = (setF (missField path) (min 255 (s.get (missField path) + 1)) s).get f := get_of_regs f rfl

theorem missField_cases (path : Nat) : missField path = Reg.FOV_MISS_LINE_MISS ∨ missField path = Reg.FOV_MISS_MIR_MISS := by
  unfold missField
  split_ifs <;> simp

theorem mirrorGated_missCounted (path : Nat) (s : State) : (missCounted path s).mirrorGated = s.mirrorGated := by
  have hmode : (missCounted path s).mode = s.mode := by
    rw [State.mode, missCounted_get, get_setF_ne _ _ _ _ (by rcases missField_cases path with h | h <;> rw [h] <;> decide)]
    rfl
  have hword : (missCounted path s).partnerWord = s.partnerWord := by
    rw [State.partnerWord, missCounted_get, get_setF_ne _ _ _ _ (by rcases missField_cases path with h | h <;> rw [h] <;> decide)]
    rfl
  rw [State.mirrorGated, hmode, hword]
  rfl

theorem missPath_of_below {path : Nat} {s : State} (hlim : s.get (missField path) + 1 < s.missLimit)
    (hok : s.pathLost 0 = false ∨ s.pathLost 1 = false ∧ s.mirrorGated = false) : missPath path s = missCounted path s := by
  have hbelow : min 255 (s.get (missField path) + 1) < s.missLimit ∨ s.pathLost path = true := .inl (by omega)
  have hboth : ((missCounted path s).pathLost 0 && ((missCounted path s).pathLost 1 || (missCounted path s).mirrorGated)) = false := by
    have hlost (i : Nat) : (missCounted path s).pathLost i = s.pathLost i := rfl
    rw [hlost, hlost, mirrorGated_missCounted]
    rcases hok with h | ⟨h1, h2⟩
    · rw [h, Bool.false_and]
    · rw [h1, h2, Bool.or_self, Bool.and_false]
  refine (congrArg (fun u : State => if u.pathLost 0 && (u.pathLost 1 || u.mirrorGated) then partnerLost u else u)
    (if_pos (by simpa using hbelow))).trans (if_neg (Bool.eq_false_iff.mp hboth))

theorem missCounted_fields {b : Bool} {s : State} (h : s.get (missField (b2n b)) < 255) :
    (missCounted (b2n b) s).get (missField (b2n b)) = s.get (missField (b2n b)) + 1
    ∧ Keeps [missField (b2n b)] s (missCounted (b2n b) s) := by
  refine ⟨?_, Keeps.of_eq (t := setF (missField (b2n b)) (min 255 (s.get (missField (b2n b)) + 1)) s) (by simp) rfl rfl⟩
  rw [missCounted_get, get_setF_self, Nat.min_eq_right (by omega), Nat.mod_eq_of_lt]
  rcases missField_cases (b2n b) with hf | hf <;> rw [hf] at h ⊢ <;> simp only [Reg.FOV_MISS_LINE_MISS, Reg.FOV_MISS_MIR_MISS] at * <;> omega

/-! A beat received -/

theorem bits_mod {n m lo w : Nat} (h : lo + w ≤ m) : bits (n % 2 ^ m) lo w = bits n lo w := by
  unfold bits
  rw [← Nat.shiftRight_eq_div_pow, ← Nat.shiftRight_eq_div_pow]
  apply Nat.eq_of_testBit_eq
  intro i
  simp only [Nat.testBit_mod_two_pow, Nat.testBit_shiftRight]
  rcases Nat.lt_or_ge i w with hi | hi
  · simp [hi, show lo + i < m by omega]
  · simp [show ¬ i < w by omega]

/-- The fields that a standby takes from a good line beat of a serving active (R361). -/
def lineHeard (w : Nat) (s : State) : State :=
  let s1 := setF Reg.FOV_BEAT_RX_BEAT w (setF Reg.FOV_MISS_LINE_MISS 0 s)
  { setF Reg.FOV_STATUS_LINE_OK 1 { s1 with fov := { s1.fov with
      heard := true, lineGood := min 10 (s.fov.lineGood + 1), lineWord := w } } with
    fov := { s1.fov with heard := true, lineGood := min 10 (s.fov.lineGood + 1), lineWord := w, relqHeard := false } }

theorem lineHeard_get (w : Nat) (s : State) (f : Field) : (lineHeard w s).get f
    = (setF Reg.FOV_STATUS_LINE_OK 1 (setF Reg.FOV_BEAT_RX_BEAT w (setF Reg.FOV_MISS_LINE_MISS 0 s))).get f := get_of_regs f rfl

/-- A standby that has its role and the mirror link does nothing on the word of a serving active. -/
theorem standbyHears_of_serving {s : State} (hmode : beatMode s.partnerWord = Mode.serving) (hs : s.mode = Mode.standby)
    (hup : s.on Reg.FOV_MIR_STATUS_LINK_UP = true) (hrole : s.on Reg.FOV_CTRL_STANDBY_ROLE = true) : standbyHears s = s := by
  unfold standbyHears
  simp [hmode, hs, hup, hrole, Mode.serving, Mode.standby, Mode.parked, Mode.service]

/-- What a good beat's word tells, once its path is settled (R361). -/
def heardOn (w : Nat) (s : State) : State :=
  if bitOf w 9 = s.get Reg.SYS_STRAP_POS then positionConflict s
  else
    let u := if bitOf w 8 = 1 then hearRelinquish (bits w 12 4) s
      else if beatRole w = 1 then { s with fov := { s.fov with relqHeard := false } } else s
    if u.active then activeHears u else standbyHears u

theorem goodBeat_of_serving {w : Nat} {s : State} (hw : w < 2 ^ 32) (hl : s.pathLost 0 = false) (hpos : bitOf w 9 ≠ s.get Reg.SYS_STRAP_POS)
    (hrelq : bitOf w 8 = 0) (hrole : beatRole w = 1) (hmode : beatMode w = Mode.serving) (ha : s.active = false)
    (hs : s.mode = Mode.standby) (hup : s.on Reg.FOV_MIR_STATUS_LINK_UP = true) (hst : s.on Reg.FOV_CTRL_STANDBY_ROLE = true) :
    goodBeat 0 w s = lineHeard w s := by
  have hget {f : Field} (h1 : Reg.FOV_STATUS_LINE_OK.key ≠ f.key) (h2 : Reg.FOV_BEAT_RX_BEAT.key ≠ f.key)
      (h3 : Reg.FOV_MISS_LINE_MISS.key ≠ f.key) : (lineHeard w s).get f = s.get f := by
    rw [lineHeard_get, get_setF_ne _ _ _ _ h1, get_setF_ne _ _ _ _ h2, get_setF_ne _ _ _ _ h3]
  have hword : (lineHeard w s).partnerWord = w := by
    rw [State.partnerWord, lineHeard_get, get_setF_ne _ _ _ _ (by decide), get_setF_of_lt hw]
  have hact : (lineHeard w s).active = false := by rw [State.active, State.on, hget (by decide) (by decide) (by decide)]; exact ha
  have hstand : standbyHears (lineHeard w s) = lineHeard w s := by
    refine standbyHears_of_serving (by rw [hword]; exact hmode) ?_ ?_ ?_
    · rw [State.mode, hget (by decide) (by decide) (by decide)]; exact hs
    · rw [State.on, hget (by decide) (by decide) (by decide)]; exact hup
    · rw [State.on, hget (by decide) (by decide) (by decide)]; exact hst
  have hstrap : bitOf w 9 ≠ (lineHeard w s).get Reg.SYS_STRAP_POS := by rwa [hget (by decide) (by decide) (by decide)]
  refine (congrArg (heardOn w) (if_pos (show (!s.pathLost 0) = true by rw [hl]; rfl))).trans ((if_neg hstrap).trans ?_)
  refine (congrArg (fun u : State => if u.active then activeHears u else standbyHears u)
    ((if_neg (by omega)).trans (if_pos hrole))).trans ?_
  exact (if_neg (Bool.eq_false_iff.mp hact)).trans hstand

theorem exec_lineBeat_of_serving {w : Nat} {s : State} (hcrc : beatCrc (w % 2 ^ 24) = bits w 24 8) (hl : s.pathLost 0 = false)
    (hpos : bits w 9 1 ≠ s.get Reg.SYS_STRAP_POS) (hrelq : bits w 8 1 = 0) (hrole : beatRole w = 1) (hmode : beatMode w = Mode.serving)
    (ha : s.active = false) (hs : s.mode = Mode.standby) (hup : s.on Reg.FOV_MIR_STATUS_LINK_UP = true)
    (hst : s.on Reg.FOV_CTRL_STANDBY_ROLE = true) : exec (.lineBeat w) s = .next (settle (lineHeard (w % 2 ^ 32) s)) := by
  rw [exec_lineBeat, execLineBeat, takeBeat, if_pos hcrc, goodBeat_of_serving (Nat.mod_lt _ (by decide)) hl _ _ _ _ ha hs hup hst]
  · rwa [bitOf, bits_mod (by decide)]
  · rwa [bitOf, bits_mod (by decide)]
  · rwa [beatRole, bits_mod (by decide)]
  · rwa [beatMode, bits_mod (by decide)]

/-- Settles O22: what each beat and each missing beat leaves, before the triggers are evaluated. -/
theorem beatsComplete : Obligations.BeatsComplete := by
  refine ⟨fun s he hp => ?send, fun s mirror hg hlim hlt hok => ?miss, fun s w hcrc hl hpos hrelq hrole hmode ha hs hup hst => ?good,
    fun s w hcrc => ?bad, fun s w q d up hup => ?mirror⟩
  case send =>
    refine .of_next (exec_beatSend_of_enabled he hp) ⟨fun hg => ?_, fun hg hup hen => ?_, rfl, rfl⟩ <;> simp only [hg, Bool.false_eq_true, if_true, if_false]
    · exact ⟨rfl, if_pos hg, Keeps.of_eq (Keeps.refl _ s) rfl rfl⟩
    · refine ⟨out_sendMir_of_up .beat _ hup hen, if_neg (Bool.eq_false_iff.mp hg), ?_⟩
      exact Keeps.of_eq (t := sendMir .beat _ (lineBeatSent s)) (keeps_sendMir (Keeps.of_eq (Keeps.refl _ s) rfl rfl) (by simp)) rfl rfl
  case miss =>
    refine .of_next (g := settle) ?_ (missCounted_fields hlt)
    rw [exec_beatMiss, execBeatMiss, if_neg, missPath_of_below hlim hok]
    cases mirror with
    | false => simp
    | true => simp [hg rfl]
  case good =>
    refine .of_next (g := settle) (exec_lineBeat_of_serving hcrc hl hpos hrelq hrole hmode ha hs hup hst) ⟨?_, ?_, ?_, rfl, rfl, ?_⟩
    · rw [lineHeard_get, get_setF_ne _ _ _ _ (by decide)]
      exact get_setF_of_lt (Nat.mod_lt _ (by decide)) _
    · rw [lineHeard_get, get_setF_ne _ _ _ _ (by decide), get_setF_ne _ _ _ _ (by decide), get_setF_zero]
    · rw [lineHeard_get, get_setF_one rfl]
    · exact Keeps.of_eq (t := setF Reg.FOV_STATUS_LINE_OK 1 (setF Reg.FOV_BEAT_RX_BEAT (w % 2 ^ 32) (setF Reg.FOV_MISS_LINE_MISS 0 s)))
        (by simp) rfl rfl
  case bad =>
    refine .of_next (g := fun t => settle (missPath 0 t)) (t := event Reg.FOV_EVENT_BEAT_CRC Reg.FOV_BEAT_CRC_CNT s) ?_
      ⟨get_event_cnt _ _ _ (by decide), get_event_flag _ _ _ (by decide) (by decide), by simp⟩
    rw [exec_lineBeat, execLineBeat, takeBeat, if_neg hcrc]
  case mirror =>
    refine .of_next (g := fun t => settle (takeBeat 1 w t))
      (t := bump Reg.FOV_MIR_RX_CNT { s with fov := { s.fov with partnerHost := up } }) ?_ ⟨?_, rfl, ?_⟩
    · rw [exec_beat, execBeat, if_neg (by simp [hup])]
    · exact get_bump_self _ _
    · exact Keeps.of_eq (t := bump Reg.FOV_MIR_RX_CNT s) (by simp) rfl rfl

end Sys2Proof.Machine
end

section
/-! What shared work leaves as it was: the completion of commands, frames on the fabric, the change of a mode and the settling of the fans
change registers of their own blocks and parts of the state of their own (`Within`). -/

open Sys2Proof

namespace Sys2Proof.Machine

/-- A state reads as another in every register whose key does not satisfy `P`, and is equal to it once `m` has blanked the parts that may
change. -/
def Within (P : Nat → Prop) (m : State → State) (s t : State) : Prop := (∀ f : Field, ¬ P f.key → t.get f = s.get f) ∧ m t = m s

/-! Which parts of the state a piece of work may change, blanked. -/

@[reducible] def fabMask (s : State) : State := { s with regs := [], fab := {}, out := [] }
@[reducible] def hostMask (s : State) : State := { s with regs := [], hif := {}, out := [] }
@[reducible] def queueMask (s : State) : State := { s with regs := [], qmx := {}, hif := {}, out := [] }
@[reducible] def endMask (s : State) : State := { s with regs := [], qmx := {}, cmd := {}, hif := {}, out := [] }
@[reducible] def roleMask (s : State) : State := { s with regs := [], sys := {}, cmd := {}, hif := {}, out := [] }
@[reducible] def fanMask (s : State) : State := { s with regs := [], sys := {}, fan := {} }
@[reducible] def modeMask (s : State) : State := { s with regs := [], sys := {}, fab := {}, qmx := {}, cmd := {}, hif := {}, out := [] }

section Rules
variable {P Q : Nat → Prop} {m m' : State → State} {s t u : State}

theorem Within.refl (P : Nat → Prop) (m : State → State) (s : State) : Within P m s s := ⟨fun _ _ => rfl, rfl⟩

/-- A change of parts that may change, the registers staying. -/
theorem Within.own (hr : t.regs = s.regs) (hm : m t = m s) : Within P m s t := ⟨fun f _ => get_of_regs f hr, hm⟩

theorem Within.trans (h : Within P m s t) (k : Within P m t u) : Within P m s u :=
  ⟨fun f hf => (k.1 f hf).trans (h.1 f hf), k.2.trans h.2⟩

/-- More registers and more parts may change. -/
theorem Within.mono (h : Within P m s t) (hPQ : ∀ {k}, P k → Q k) (hm : ∀ v, m' (m v) = m' v) : Within Q m' s t :=
  ⟨fun f hf => h.1 f fun hp => hf (hPQ hp), by rw [← hm t, h.2, hm s]⟩

theorem Within.get (h : Within P m s t) {f : Field} (hf : ¬ P f.key) : t.get f = s.get f := h.1 f hf

theorem Within.on (h : Within P m s t) {f : Field} (hf : ¬ P f.key) : t.on f = s.on f := by rw [State.on, h.get hf, State.on]

theorem Within.setF (h : Within P m s t) {f : Field} (v : Nat) (hf : P f.key) (hm : m (setF f v t) = m t) :
    Within P m s (setF f v t) :=
  h.trans ⟨fun g hg => get_setF_ne f g v t fun e => hg (e ▸ hf), hm⟩

theorem Within.event (h : Within P m s t) {f g : Field} (hf : P f.key) (hg : P g.key) (hm : m (event f g t) = m t) :
    Within P m s (event f g t) :=
  h.trans ⟨fun _ hk => get_event_ne (fun e => hk (e ▸ hf)) fun e => hk (e ▸ hg), hm⟩

theorem Within.bump (h : Within P m s t) {f : Field} (hf : P f.key) (hm : m (bump f t) = m t) : Within P m s (bump f t) :=
  h.setF _ hf hm

/-- Such a change after others. -/
theorem Within.parts (h : Within P m s t) (hr : u.regs = t.regs) (hm : m u = m t) : Within P m s u :=
  h.trans ⟨fun f _ => get_of_regs f hr, hm⟩

theorem Within.when (h : Within P m s t) {c : Bool} {f : State → State} (hf : Within P m t (f t)) : Within P m s (when c f t) := by
  cases c with
  | false => exact h
  | true => exact h.trans hf

theorem Within.forEach (h : Within P m s t) {α : Type} {l : List α} {f : α → State → State} (hf : ∀ x ∈ l, ∀ v, Within P m v (f x v)) :
    Within P m s (forEach l f t) := by
  unfold Machine.forEach
  induction l generalizing t with
  | nil => exact h
  | cons x l ih => exact ih (h.trans (hf x (by simp) t)) fun y hy => hf y (by simp [hy])

theorem OnlyHost.within (h : OnlyHost s t) (hP : ∀ k ∈ hostFields.map Field.key, P k) : Within P hostMask s t := by
  obtain ⟨hk, _, _, _, rfl⟩ := h
  exact ⟨fun f hf => hk.1 f fun hm => hf (hP _ hm), rfl⟩

/-- A part that is not blanked stays. -/
theorem Within.view (h : Within P m s t) {α : Type} (v : State → α) (hv : ∀ w, v (m w) = v w) : v t = v s := by
  rw [← hv t, h.2, hv s]

/-- With the memory, every byte stays. -/
theorem Within.keeps {fs : List Field} (h : Within P m s t) (hP : ∀ k, P k → k ∈ fs.map Field.key) (hm : t.mem = s.mem) : Keeps fs s t :=
  ⟨fun f hf => h.1 f fun hp => hf (hP _ hp), fun a => readByte_of_mem a hm⟩

end Rules

/-! The keys of shared work -/

/-- The keys of the host's and the queues' blocks, and of the fabric's block and those above it. -/
@[reducible] def outerKey (k : Nat) : Prop := (0x10000 * 32 ≤ k ∧ k < 0x40000 * 32) ∨ 0x100000 * 32 ≤ k

/-- With them, the key of the mode. -/
@[reducible] def edgeKey (k : Nat) : Prop := k = Reg.SYS_MODE_MODE.key ∨ outerKey k

/-- The keys of the fan channels' registers. -/
@[reducible] def fanKey (k : Nat) : Prop := 0xE0100 * 32 ≤ k ∧ k < 0xE0280 * 32

theorem outerKey_of_host : ∀ k ∈ hostFields.map Field.key, outerKey k := by decide

theorem outerKey_of_fab {k : Nat} (h : 0x100000 * 32 ≤ k) : outerKey k := .inr h

theorem within_hostEvent (v : Nat) (s : State) : Within outerKey hostMask s (hostEvent v s) := (onlyHost_hostEvent v s).within outerKey_of_host

/-! Commands that end -/

theorem within_announce (q irq : Nat) (s : State) : Within outerKey queueMask s (announce q irq s) := by
  unfold announce owe
  split_ifs
  · exact (within_hostEvent 0 s).mono id fun _ => rfl
  · exact .refl _ _ _
  · exact .refl _ _ _
  · exact .own rfl rfl
  · exact (Within.own (by rfl) (by rfl)).trans (((onlyHost_evalLine _).within outerKey_of_host).mono id fun _ => rfl)

theorem within_writeEntry (p : Post) (pr : Pair) (s : State) : Within outerKey queueMask s (writeEntry p pr s) := by
  refine Within.trans ?_ (within_announce _ _ _)
  refine .bump (.when (((Within.refl outerKey _ s).parts (by rfl) (by rfl)).parts (by rfl) (by rfl)) (.bump (.refl _ _ _) ?_ (by rfl))) ?_ (by rfl) <;> decide

theorem within_deliver (p : Post) (s : State) : Within outerKey queueMask s (deliver p s) := by
  unfold deliver
  split
  · exact .refl _ _ _
  · split_ifs
    · exact .own rfl rfl
    · exact .refl _ _ _
    · exact .event (.setF ((Within.refl outerKey _ s).parts (by rfl) (by rfl)) 1 (by decide) (by rfl)) (by decide) (by decide) (by rfl)
    · exact within_writeEntry _ _ _

theorem within_finish (n status result : Nat) (s : State) : Within outerKey queueMask s (finish n status result s) := by
  unfold finish
  split
  · exact .refl _ _ _
  · exact (Within.own (by rfl) (by rfl)).trans (within_deliver _ _)

theorem within_finishAll (l : List Nat) (status result : Nat) (s : State) : Within outerKey queueMask s (finishAll l status result s) :=
  .forEach (.refl _ _ _) fun n _ => within_finish n status result

theorem within_finishRole (a : Nat) (s : State) : Within outerKey endMask s (finishRole a s) :=
  (Within.own (by rfl) (by rfl)).trans ((within_finishAll _ _ _ _).mono id fun _ => rfl)

theorem within_finishPark (status : Nat) (s : State) : Within outerKey endMask s (finishPark status s) :=
  (Within.own (by rfl) (by rfl)).trans ((within_finishAll _ _ _ _).mono id fun _ => rfl)

theorem within_finishWake (status : Nat) (s : State) : Within outerKey endMask s (finishWake status s) :=
  (Within.own (by rfl) (by rfl)).trans ((within_finishAll _ _ _ _).mono id fun _ => rfl)

theorem within_refuseIo (s : State) : Within outerKey queueMask s (refuseIo s) := within_finishAll _ _ _ _

/-! Frames on the fabric -/

theorem within_onPort (p : Nat) (f : FabPort → FabPort) (s : State) : Within outerKey fabMask s (onPort p f s) := .own rfl rfl

theorem within_sendOut (p : Nat) (f : Frame) (s : State) : Within outerKey fabMask s (sendOut p f s) :=
  .bump ((Within.refl outerKey _ s).parts (by rfl) (by rfl)) (outerKey_of_fab (by simp only [Field.key, Reg.FAB_PORT_TX_CNT]; omega)) (by rfl)

theorem within_putOut (p : Nat) (f : Frame) (s : State) : Within outerKey fabMask s (putOut p f s) := by
  unfold putOut
  split_ifs
  · exact within_sendOut _ _ _
  · simp only []
    split_ifs
    · exact within_onPort _ _ _
    · exact (within_onPort _ _ _).trans (within_sendOut _ _ _)

theorem within_dropFrame (s : State) : Within outerKey fabMask s (dropFrame s) := .event (.refl _ _ _) (by decide) (by decide) (by rfl)

theorem within_routeFrame (f : Frame) (s : State) : Within outerKey fabMask s (routeFrame f s) := by
  unfold routeFrame
  split
  · exact (Within.when (Within.refl outerKey _ s) (.event (.refl _ _ _) (by decide) (by decide) (by rfl))).trans (within_putOut _ _ _)
  · exact within_dropFrame s

theorem within_sendFrame (k : FabKind) (dst xseq : Nat) (payload : List Nat) (s : State) :
    Within outerKey fabMask s (sendFrame k dst xseq payload s) := by
  unfold sendFrame
  simp only []
  split_ifs
  · exact .refl _ _ _
  · exact .own rfl rfl
  · exact within_routeFrame _ _

theorem within_floodFrame (k : FabKind) (but : Option Nat) (payload : List Nat) (s : State) :
    Within outerKey fabMask s (floodFrame k but payload s) := by
  unfold floodFrame
  split_ifs
  · exact .refl _ _ _
  · exact .forEach (.refl _ _ _) fun p _ t => within_putOut p _ t

theorem within_askBellwether (k : FabKind) (payload : List Nat) (s : State) : Within outerKey fabMask s (askBellwether k payload s) := by
  unfold askBellwether
  split
  · exact .refl _ _ _
  · exact (within_sendFrame _ _ _ _ _).parts (by rfl) (by rfl)

/-! Routes and ports -/

theorem within_writeRoutes (s : State) : Within outerKey fabMask s (writeRoutes s) := by
  have hroute (a : Nat) : outerKey (Reg.FAB_ROUTE_VALID a).key ∧ outerKey (Reg.FAB_ROUTE_PRIMARY a).key ∧ outerKey (Reg.FAB_ROUTE_COST a).key
      ∧ outerKey (Reg.FAB_ROUTE_ALT a).key ∧ outerKey (Reg.FAB_ROUTE_ALT_VALID a).key := by
    refine ⟨?_, ?_, ?_, ?_, ?_⟩ <;> refine outerKey_of_fab ?_ <;>
      simp only [Field.key, Reg.FAB_ROUTE_VALID, Reg.FAB_ROUTE_PRIMARY, Reg.FAB_ROUTE_COST, Reg.FAB_ROUTE_ALT, Reg.FAB_ROUTE_ALT_VALID] <;> omega
  refine .forEach (.refl _ _ _) fun x _ t => ?_
  obtain ⟨hvalid, hprim, hcost, halt, haltv⟩ := hroute x.addr
  simp only []
  split
  · exact (Within.refl outerKey _ t).setF _ hvalid (by rfl)
  · have ht1 (p c : Nat) : Within outerKey fabMask t (setF (Reg.FAB_ROUTE_COST x.addr) c (setF (Reg.FAB_ROUTE_PRIMARY x.addr) p
        (setF (Reg.FAB_ROUTE_VALID x.addr) 1 t))) := (((Within.refl outerKey _ t).setF 1 hvalid (by rfl)).setF p hprim (by rfl)).setF c hcost (by rfl)
    split
    · exact ((ht1 _ _).setF 1 haltv (by rfl)).setF _ halt (by rfl)
    · exact (ht1 _ _).setF _ haltv (by rfl)

theorem within_floodLsa (s : State) : Within outerKey fabMask s (floodLsa s) := (Within.own (by rfl) (by rfl)).trans (within_floodFrame _ _ _ _)

theorem within_parkPort (p : Nat) (s : State) : Within outerKey fabMask s (parkPort p s) := by
  have hslow : outerKey (Reg.FAB_PORT_STATUS_SLOW p).key := outerKey_of_fab (by simp only [Field.key, Reg.FAB_PORT_STATUS_SLOW]; omega)
  have hlanes : outerKey (Reg.FAB_PORT_STATUS_LANES p).key := outerKey_of_fab (by simp only [Field.key, Reg.FAB_PORT_STATUS_LANES]; omega)
  have hup : outerKey (Reg.FAB_PORT_STATUS_LINK_UP p).key := outerKey_of_fab (by simp only [Field.key, Reg.FAB_PORT_STATUS_LINK_UP]; omega)
  unfold parkPort
  simp only []
  split_ifs
  · exact .refl _ _ _
  · exact (Within.when (.refl _ _ _) (((Within.refl outerKey _ s).setF _ hlanes (by rfl)).setF _ hslow (by rfl))).trans (within_onPort _ _ _)
  · exact .forEach ((((within_onPort p _ s).setF _ hup (by rfl)).setF _ hlanes (by rfl)).setF _ hslow (by rfl)) fun f _ => within_routeFrame f

theorem within_parkPorts (s : State) : Within outerKey fabMask s (parkPorts s) := by
  unfold parkPorts
  split_ifs
  · exact ((Within.forEach (.refl _ _ _) fun p _ => within_parkPort p).trans (within_writeRoutes _)).trans (within_floodLsa _)
  · exact .refl _ _ _

/-! Modes -/

theorem within_logPlain (c : Nat) (d : List Nat) (s : State) : Within outerKey modeMask s (logPlain c d s) := .own rfl rfl

theorem within_endTest (r f : Nat) (s : State) : Within outerKey modeMask s (endTest r f s) := by
  unfold endTest
  split_ifs
  · exact .refl _ _ _
  · exact (Within.own (by rfl) (by rfl)).trans (within_logPlain _ _ _)

theorem within_testOnMode (m : Nat) (s : State) : Within outerKey modeMask s (testOnMode m s) := by
  unfold testOnMode
  split_ifs
  · exact within_endTest _ _ _
  · exact .refl _ _ _

theorem within_tellParity (m : Nat) (s : State) : Within outerKey modeMask s (tellParity m s) := by
  unfold tellParity
  split_ifs
  · exact (within_floodFrame _ _ _ _).mono id fun _ => rfl
  · exact .refl _ _ _

theorem within_enterMode (m : Nat) (s : State) : Within edgeKey modeMask s (enterMode m s) := by
  unfold enterMode
  split_ifs
  · exact .refl _ _ _
  · have hset : Within edgeKey modeMask s (logPlain 1 [s.mode, m] (setF Reg.SYS_MODE_MODE m s)) :=
      ((Within.refl edgeKey _ s).setF m (by decide) (by rfl)).trans ((within_logPlain _ _ _).mono .inr fun _ => rfl)
    have hltr : Within edgeKey modeMask s (when (s.hif.ltrEnable && !s.hif.d3hot) (emit (.ltr (s.ltr m)))
        (logPlain 1 [s.mode, m] (setF Reg.SYS_MODE_MODE m s))) := hset.when (.own rfl rfl)
    exact hltr.parts (by rfl) (by rfl)

theorem within_toMode (m : Nat) (s : State) : Within edgeKey modeMask s (toMode m s) :=
  .when ((((within_testOnMode m s).trans (within_tellParity m _)).mono .inr fun _ => rfl).trans (within_enterMode m _))
    ((within_parkPorts _).mono .inr fun _ => rfl)

/-- A change of mode ends in the mode. -/
theorem mode_toMode {m : Nat} (hm : m < 2 ^ Reg.SYS_MODE_MODE.width) (s : State) : (toMode m s).mode = m := by
  have henter (t : State) : (enterMode m t).mode = m := by
    unfold enterMode
    split_ifs with h
    · exact h
    · refine (get_of_regs Reg.SYS_MODE_MODE rfl).trans ((when_of_eq _ (State.get · Reg.SYS_MODE_MODE) rfl).trans ?_)
      exact (logPlain_get _ _ _ _).trans (get_setF_of_lt hm _)
  exact (when_of_eq _ State.mode ((within_parkPorts _).get (by decide))).trans (henter _)

theorem within_roleChanged (old reason : Nat) (s : State) : Within outerKey roleMask s (roleChanged old reason s) := by
  unfold roleChanged
  split_ifs
  · exact .refl _ _ _
  · exact (Within.own (by rfl) (by rfl)).trans ((within_hostEvent 2 (logPlain 3 [old, s.role, reason] { s with sys := { s.sys with hbDue := true } })).mono id fun _ => rfl)

/-! Fans -/

theorem fanKey_state {c : Nat} (hc : c < 6) : fanKey (Reg.FAN_CH_STATE_STATE c).key := by
  simp only [fanKey, Field.key, Reg.FAN_CH_STATE_STATE]; omega

theorem fanKey_cause {c : Nat} (hc : c < 6) : fanKey (Reg.FAN_CH_STATE_FAULT_CAUSE c).key := by
  simp only [fanKey, Field.key, Reg.FAN_CH_STATE_FAULT_CAUSE]; omega

theorem fanKey_demand {c : Nat} (hc : c < 6) : fanKey (Reg.FAN_CH_DEMAND_DEMAND c).key := by
  simp only [fanKey, Field.key, Reg.FAN_CH_DEMAND_DEMAND]; omega

theorem within_setFanState {c : Nat} (hc : c < 6) (st : Nat) (s : State) : Within fanKey fanMask s (setFanState c st s) :=
  (Within.refl _ _ _).setF _ (fanKey_state hc) (by rfl)

theorem within_onFanChan {P : Nat → Prop} (c : Nat) (f : FanChan → FanChan) (s : State) : Within P fanMask s (onFanChan c f s) := .own rfl rfl

theorem within_fanStart {c : Nat} (hc : c < 6) (s : State) : Within fanKey fanMask s (fanStart c s) := by
  have hdemand (t : State) : Within fanKey fanMask t (raiseDemand c t) :=
    .when ((Within.refl _ _ _).setF _ (fanKey_demand hc) (by rfl)) (.own rfl rfl)
  exact ((((within_onFanChan _ _ _).trans (within_setFanState hc _ _)).setF _ (fanKey_cause hc) (by rfl))).trans (hdemand _)

theorem within_fanSettle {c : Nat} (hc : c < 6) (s : State) : Within fanKey fanMask s (fanSettle c s) := by
  unfold fanSettle
  simp only []
  split_ifs
  · exact .refl _ _ _
  · exact within_setFanState hc _ _
  · exact (within_onFanChan _ _ _).trans (within_fanStart hc _)
  · exact .refl _ _ _
  · exact within_setFanState hc _ _
  · exact within_setFanState hc _ _

theorem within_fanSettleAll (s : State) : Within fanKey fanMask s (fanSettleAll s) :=
  .forEach (.refl _ _ _) fun _ hc => within_fanSettle (List.mem_range.mp hc)

/-- The fan block's keys that the release of the token may write. -/
@[reducible] def fanReleaseKey (k : Nat) : Prop :=
  fanKey k ∨ k ∈ [Reg.FAN_TOKEN_HELD, Reg.FAN_EVENT_TOKEN_CHANGE, Reg.FAN_TOKEN_CHANGE_CNT].map Field.key

theorem within_fanRelease (s : State) : Within fanReleaseKey fanMask s (fanRelease s) := by
  unfold fanRelease
  split_ifs
  · exact (Within.event ((Within.refl _ _ _).setF 0 (by decide) (by rfl)) (by decide) (by decide) (by rfl)).trans ((within_fanSettleAll _).mono .inl fun _ => rfl)
  · exact .refl _ _ _

/-- Once released, the token is not held. -/
theorem held_fanRelease (s : State) : (fanRelease s).on Reg.FAN_TOKEN_HELD = false := by
  unfold fanRelease
  split_ifs with h
  · rw [(within_fanSettleAll _).on (by decide), State.on, get_event_ne (by decide) (by decide), get_setF_zero]
    rfl
  · exact Bool.eq_false_iff.mpr h

end Sys2Proof.Machine
end

section
/-! Roles, claims and the keeper (R358, R359, R31, R362, R363): the obligation O23. -/

open Sys2Proof

namespace Sys2Proof.Machine

/-! The lines claimed -/

theorem role_zero {s : State} (h : s.role = 0) : s.active = false ∧ s.on Reg.FOV_CTRL_STANDBY_ROLE = false := by
  unfold State.role at h
  split_ifs at h with ha hr
  exact ⟨Bool.eq_false_iff.mpr ha, Bool.eq_false_iff.mpr hr⟩

theorem exec_roleTake_of_low {s : State} (hm : s.mode = Mode.parked) (hr : s.role = 0) (hf : s.sys.firmwareUp = true)
    (hp : s.sys.posConflict = false) (hfatal : s.on Reg.RPR_POST_FATAL = false) (hl : s.on Reg.FOV_STATUS_ACTIVE_LINE = true) :
    exec .roleTake s = .next (settle (endStart (roleChanged 0 0 (setF Reg.FOV_CTRL_STANDBY_ROLE 1 s)))) := by
  rw [exec_roleTake, execRoleTake, if_pos ⟨hm, .inl hr, hf⟩]
  refine (if_neg (by simp [hfatal, hp])).trans ((if_neg (by simp [hr])).trans ((if_pos (by simp [hl])).trans ?_))
  rw [takeStandby, hr]

theorem exec_roleTake_of_high {s : State} (hm : s.mode = Mode.parked) (hr : s.role = 0) (hf : s.sys.firmwareUp = true)
    (hp : s.sys.posConflict = false) (hfatal : s.on Reg.RPR_POST_FATAL = false) (hl : s.on Reg.FOV_STATUS_ACTIVE_LINE = false)
    (hh : s.fov.heard = false) : exec .roleTake s = .next (claimLines s) := by
  rw [exec_roleTake, execRoleTake, if_pos ⟨hm, .inl hr, hf⟩]
  exact (if_neg (by simp [hfatal, hp])).trans ((if_neg (by simp [hr])).trans ((if_neg (by simp [hl, hh])).trans (if_neg (by simp [hh]))))

/-- The active's line claimed. -/
def claimActive (s : State) : State :=
  setF Reg.FOV_STATUS_KEEPER_RELEASED 0 (setF Reg.FOV_STATUS_REFUSED 0 (setF Reg.FOV_CTRL_CLAIM 1 s))

/-- Both lines are claimed, but the fans' where it is held. -/
theorem claimFans_get (s : State) (f : Field) : (claimFans s).get f = (if s.on Reg.FAN_TOKEN_HELD then s
    else setF Reg.FAN_TOKEN_CLAIM 1 (setF Reg.FAN_TOKEN_REFUSED 0 s)).get f := by
  unfold claimFans
  split_ifs
  · rfl
  · exact get_of_regs f rfl

theorem keeps_claimFans {fs : List Field} {s t : State} (h : Keeps fs s t) (hc : Reg.FAN_TOKEN_CLAIM.key ∈ fs.map Field.key)
    (hr : Reg.FAN_TOKEN_REFUSED.key ∈ fs.map Field.key) : Keeps fs s (claimFans t) := by
  unfold claimFans
  split_ifs
  · exact h
  · exact Keeps.of_eq (t := setF Reg.FAN_TOKEN_CLAIM 1 (setF Reg.FAN_TOKEN_REFUSED 0 t)) ((h.setF _ _ hr).setF _ _ hc) rfl rfl

theorem get_claimFans_ne {s : State} {f : Field} (hc : Reg.FAN_TOKEN_CLAIM.key ≠ f.key) (hr : Reg.FAN_TOKEN_REFUSED.key ≠ f.key) :
    (claimFans s).get f = s.get f := by
  rw [claimFans_get]
  split_ifs
  · rfl
  · rw [get_setF_ne _ _ _ _ hc, get_setF_ne _ _ _ _ hr]

theorem claimLines_fields (s : State) : (claimLines s).get Reg.FOV_CTRL_CLAIM = 1 ∧ (claimLines s).get Reg.FOV_STATUS_REFUSED = 0
    ∧ (s.on Reg.FAN_TOKEN_HELD = false → (claimLines s).get Reg.FAN_TOKEN_CLAIM = 1 ∧ (claimLines s).fan.claiming = true)
    ∧ Keeps [Reg.FOV_CTRL_CLAIM, Reg.FOV_STATUS_REFUSED, Reg.FOV_STATUS_KEEPER_RELEASED, Reg.FAN_TOKEN_CLAIM, Reg.FAN_TOKEN_REFUSED] s
        (claimLines s) := by
  have heq : claimLines s = claimFans (setF Reg.FOV_STATUS_KEEPER_RELEASED 0 (setF Reg.FOV_STATUS_REFUSED 0 (setF Reg.FOV_CTRL_CLAIM 1 s))) := rfl
  rw [heq]
  refine ⟨?_, ?_, fun h => ?_, keeps_claimFans (by simp) (by decide) (by decide)⟩
  · rw [get_claimFans_ne (by decide) (by decide), get_setF_ne _ _ _ _ (by decide), get_setF_ne _ _ _ _ (by decide), get_setF_one rfl]
  · rw [get_claimFans_ne (by decide) (by decide), get_setF_ne _ _ _ _ (by decide), get_setF_zero]
  · have hoff : (setF Reg.FOV_STATUS_KEEPER_RELEASED 0 (setF Reg.FOV_STATUS_REFUSED 0 (setF Reg.FOV_CTRL_CLAIM 1 s))).on
        Reg.FAN_TOKEN_HELD = false := by
      rw [on_setF_ne _ _ _ _ (by decide), on_setF_ne _ _ _ _ (by decide), on_setF_ne _ _ _ _ (by decide), h]
    rw [claimFans, if_neg (Bool.eq_false_iff.mp hoff)]
    exact ⟨get_setF_one rfl _, rfl⟩

/-- What a claim of the active's line clears first (R358). -/
def lineFreed (s : State) : State := setF Reg.FOV_STATUS_KEEPER_RELEASED 0 (setF Reg.FOV_STATUS_REFUSED 0 s)

theorem exec_activeClaim_of_free {s : State} (hl : s.lands 0xF0000 = true) (ha : s.active = false) (hp : s.sys.posConflict = false) :
    exec .activeClaim s = .next (setF Reg.FOV_CTRL_CLAIM 1 (lineFreed (ungate (islandOf 0xF0000) s))) := by
  have hact : (lineFreed (ungate (islandOf 0xF0000) s)).active = false :=
    (on_setF_ne _ _ _ _ (by decide)).trans ((on_setF_ne _ _ _ _ (by decide)).trans ha)
  have hpos : (lineFreed (ungate (islandOf 0xF0000) s)).sys.posConflict = false := hp
  rw [exec_of_lands hl (exec_activeClaim s)]
  refine congrArg _ (if_neg ?_)
  rw [← lineFreed, hact, hpos]
  exact Bool.false_ne_true

/-- An access that ungates its island keeps what the state before it held. -/
theorem Keeps.of_ungate {fs : List Field} {i : Island} {s t : State} (h : Keeps fs (ungate i s) t) : Keeps fs s t :=
  ⟨fun f hf => (h.1 f hf).trans (ungate_get i s f), fun a => (h.2 a).trans rfl⟩

theorem claimBegins_fields (s : State) : (setF Reg.FOV_CTRL_CLAIM 1 (lineFreed s)).get Reg.FOV_CTRL_CLAIM = 1
    ∧ (setF Reg.FOV_CTRL_CLAIM 1 (lineFreed s)).get Reg.FOV_STATUS_REFUSED = 0
    ∧ (setF Reg.FOV_CTRL_CLAIM 1 (lineFreed s)).active = s.active
    ∧ Keeps [Reg.FOV_CTRL_CLAIM, Reg.FOV_STATUS_REFUSED, Reg.FOV_STATUS_KEEPER_RELEASED] s (setF Reg.FOV_CTRL_CLAIM 1 (lineFreed s)) := by
  refine ⟨get_setF_one rfl _, ?_, ?_, by simp [lineFreed]⟩
  · rw [get_setF_ne _ _ _ _ (by decide), lineFreed, get_setF_ne _ _ _ _ (by decide), get_setF_zero]
  · exact (on_setF_ne _ _ _ _ (by decide)).trans ((on_setF_ne _ _ _ _ (by decide)).trans (on_setF_ne _ _ _ _ (by decide)))

/-! The wake that follows a start -/

/-- The fields outside the shared work's that a wake writes. -/
def wakeFields : List Field :=
  [Reg.SYS_MODE_STARTING, Reg.JNL_CTRL_REPLAY_DONE, Reg.PWR_CTRL_CONV_EN, Reg.PWR_STATUS_CONV_STATE]

theorem get_leaveParked {s : State} {f : Field} (hf : ¬ edgeKey f.key) (hw : f.key ∉ wakeFields.map Field.key) :
    (leaveParked s).get f = s.get f := by
  simp only [wakeFields, List.map_cons, List.map_nil, List.mem_cons, List.not_mem_nil, or_false, not_or] at hw
  obtain ⟨-, hj, hc, hp⟩ := hw
  refine (get_of_regs f rfl).trans ((when_of_eq _ (State.get · f) (get_setF_ne _ _ _ _ (Ne.symm hp))).trans ?_)
  rw [get_setF_ne _ _ _ _ (Ne.symm hc), (within_toMode _ _).get hf]
  exact when_of_eq _ (State.get · f) (get_setF_ne _ _ _ _ (Ne.symm hj))

theorem get_startWake {s : State} {f : Field} (hf : ¬ edgeKey f.key) (hw : f.key ∉ wakeFields.map Field.key) :
    (startWake s).get f = s.get f := by
  unfold startWake
  simp only []
  split_ifs
  · exact (get_leaveParked hf hw).trans (get_of_regs f rfl)
  · exact get_of_regs f rfl
  all_goals exact ((within_askBellwether _ _ _).get fun h => hf (.inr h)).trans (get_of_regs f rfl)

theorem get_endStart {s : State} {f : Field} (hf : ¬ edgeKey f.key) (hw : f.key ∉ wakeFields.map Field.key) :
    (endStart s).get f = s.get f := by
  have hstart : (setF Reg.SYS_MODE_STARTING 0 s).get f = s.get f :=
    get_setF_ne _ _ _ _ fun e => hw (e ▸ by decide)
  unfold endStart
  simp only []
  split_ifs
  · exact (get_startWake hf hw).trans hstart
  · exact hstart

/-! The end of a claim -/

/-- A claim won: ACTIVE_N is held before the start goes on (R358). -/
def claimWon (s : State) : State :=
  let s2 := roleChanged s.role s.fov.partnerReason (setF Reg.FOV_STATUS_ACTIVE_HELD 1 (setF Reg.FOV_CTRL_CLAIM 0 s))
  { s2 with fov := { s2.fov with tClaim := if s.mode = Mode.takeover then s.clock - s.fov.detectedAt else s2.fov.tClaim } }

theorem get_claimWon {s : State} {f : Field} (hf : ¬ outerKey f.key) :
    (claimWon s).get f = (setF Reg.FOV_STATUS_ACTIVE_HELD 1 (setF Reg.FOV_CTRL_CLAIM 0 s)).get f :=
  (get_of_regs f rfl).trans ((within_roleChanged _ _ _).get hf)

theorem all_take_iff {l : List Bool} {n : Nat} :
    ((l.take n).all id && decide (n ≤ l.length)) = true ↔ n ≤ l.length ∧ ∀ b ∈ l.take n, b = true := by
  rw [Bool.and_eq_true, List.all_eq_true, decide_eq_true_iff, and_comm]
  rfl

theorem exec_activeClaimDone_won {s : State} {l : List Bool} (hc : s.on Reg.FOV_CTRL_CLAIM = true)
    (hlen : claimSamples (s.on Reg.SYS_STRAP_POS) ≤ l.length) (hall : ∀ b ∈ l.take (claimSamples (s.on Reg.SYS_STRAP_POS)), b = true) :
    exec (.activeClaimDone l) s = .next (settle (endStart (claimWon s))) := by
  rw [exec_activeClaimDone, execActiveClaimDone, if_neg (by simp [hc])]
  exact if_pos (all_take_iff.mpr ⟨hlen, hall⟩)

theorem exec_activeClaimDone_lost {s : State} {l : List Bool} (hc : s.on Reg.FOV_CTRL_CLAIM = true)
    (hlow : l.length < claimSamples (s.on Reg.SYS_STRAP_POS) ∨ ∃ b ∈ l.take (claimSamples (s.on Reg.SYS_STRAP_POS)), b = false)
    (hm : s.mode ≠ Mode.parked) :
    exec (.activeClaimDone l) s = .next (settle (setF Reg.FOV_STATUS_REFUSED 1 (setF Reg.FOV_CTRL_CLAIM 0 s))) := by
  have hmode : (setF Reg.FOV_STATUS_REFUSED 1 (setF Reg.FOV_CTRL_CLAIM 0 s)).mode = s.mode :=
    (get_setF_ne _ _ _ _ (by decide)).trans (get_setF_ne _ _ _ _ (by decide))
  rw [exec_activeClaimDone, execActiveClaimDone, if_neg (by simp [hc])]
  refine (if_neg fun h => ?_).trans (congrArg (fun t => Host.Outcome.next (settle t)) (if_neg fun h => hm (hmode ▸ h.1)))
  obtain ⟨hlen, hall⟩ := all_take_iff.mp h
  rcases hlow with hshort | ⟨b, hb, hfalse⟩
  · omega
  · simp [hall b hb] at hfalse

/-! RELINQUISH and the keeper -/

theorem active_releaseActive (r : Nat) (s : State) : (releaseActive r s).active = false := by
  rw [releaseActive, State.active, (within_roleChanged _ _ _).on (by decide)]
  exact on_eq_false (get_setF_zero _ _)

theorem mem_roleChanged (old reason : Nat) (s : State) : (roleChanged old reason s).mem = s.mem :=
  (within_roleChanged old reason s).view State.mem fun _ => rfl

theorem mem_sendMir (k : MirKind) (args : List Nat) (s : State) : (sendMir k args s).mem = s.mem := by
  unfold sendMir passStream
  split_ifs <;> rfl

theorem get_sendMir {k : MirKind} {args : List Nat} {s : State} {f : Field} (hf : Reg.FOV_MIR_TX_CNT.key ≠ f.key) :
    (sendMir k args s).get f = s.get f := by
  have hpass : (passStream k s).get f = s.get f := by unfold passStream; split_ifs <;> rfl
  unfold sendMir
  split_ifs
  · rw [get_bump_ne hf, emit_get, hpass]
  · rfl

/-- What RELINQUISH sends, before the line is released (R31). -/
def relinquishSent (reason : Nat) (s : State) : State :=
  let s1 := sendMir .relinquish [reason] (setF Reg.FOV_CTRL_REASON reason s)
  { s1 with fov := { s1.fov with relqLeft := 10, lastReason := reason } }

theorem relinquish_of_active {s : State} (h : s.active = true) (reason : Nat) :
    relinquish reason s = releaseActive reason (relinquishSent reason s) := if_pos h

theorem relinquishSent_get (reason : Nat) (s : State) (f : Field) : (relinquishSent reason s).get f
    = (sendMir .relinquish [reason] (setF Reg.FOV_CTRL_REASON reason s)).get f := get_of_regs f rfl

theorem fov_releaseActive (r : Nat) (s : State) : (releaseActive r s).fov = s.fov :=
  ((within_roleChanged _ _ _).view State.fov fun _ => rfl).trans rfl

theorem exec_relinquish_of_active {s : State} (hl : s.lands 0xF0000 = true) (ha : s.active = true) : exec .relinquish s
    = .next (releaseActive (s.get Reg.FOV_CTRL_REASON) (relinquishSent (s.get Reg.FOV_CTRL_REASON) (ungate (islandOf 0xF0000) s))) := by
  rw [exec_of_lands hl (exec_relinquish s)]
  exact congrArg _ (relinquish_of_active (s := ungate (islandOf 0xF0000) s) ha _)

/-! The members' commands aborted -/

/-- The registers that the firmware's completion ring writes. -/
def fwRingFields : List Field := [Reg.SAS_FW_CQ_TAIL_CQ_TAIL, Reg.SAS_EVENT_FW_DONE, Reg.SAS_FW_DONE_CNT]

theorem regs_writeBytes (a : Nat) (l : List Nat) (s : State) : (writeBytes a l s).regs = s.regs := by
  induction l generalizing a s with
  | nil => rfl
  | cons b l ih => exact (ih (a + 1) _).trans rfl

theorem get_fwComplete {tag b st e : Nat} {s : State} {f : Field} (hf : f.key ∉ fwRingFields.map Field.key) :
    (fwComplete tag b st e s).get f = s.get f := by
  have hne {g : Field} (hg : g ∈ fwRingFields) : g.key ≠ f.key := fun h => hf (h ▸ List.mem_map_of_mem hg)
  unfold fwComplete
  rw [get_event_ne (hne (by simp [fwRingFields])) (hne (by simp [fwRingFields])), when_of_eq _ (State.get · f) rfl,
    get_setF_ne _ _ _ _ (hne (by simp [fwRingFields]))]
  exact get_of_regs f (regs_writeBytes _ _ _)

theorem get_forEach {α : Type} {l : List α} {g : α → State → State} {f : Field} (h : ∀ x t, (g x t).get f = t.get f) (s : State) :
    (forEach l g s).get f = s.get f := by
  unfold Machine.forEach
  induction l generalizing s with
  | nil => rfl
  | cons x l ih => exact (ih (g x s)).trans (h x s)

theorem get_abortMembers {s : State} {f : Field} (hf : f.key ∉ fwRingFields.map Field.key) : (abortMembers s).get f = s.get f := by
  refine (get_of_regs f rfl).trans (get_forEach (fun c t => ?_) s)
  split
  · exact (get_fwComplete hf).trans (get_of_regs f rfl)
  · exact get_of_regs f rfl

/-- What the keeper leaves before its release is counted (R363). -/
def keeperLeft (s : State) : State :=
  releaseActive 8 (relinquishSent 8 (setOffset true (fanRelease (abortMembers (setF Reg.SAS_CTRL_ENABLE 0 s)))))

theorem exec_keeperRelease_of_heard {s : State} (ha : s.on Reg.FOV_STATUS_FW_ALIVE = false)
    (hh : s.active = true ∨ s.on Reg.FAN_TOKEN_HELD = true) (hs : s.standbyHeard = true) : exec .keeperRelease s
      = .next (event Reg.FOV_EVENT_KEEPER_RELEASE Reg.FOV_KEEPER_RELEASE_CNT (setF Reg.FOV_STATUS_KEEPER_RELEASED 1 (keeperLeft s))) := by
  rw [exec_keeperRelease, execKeeperRelease, if_pos]
  · rfl
  · simp only [ha, hs, Bool.not_false, Bool.true_and, Bool.and_true, Bool.or_eq_true]
    exact hh

theorem get_setOffset_ne {v : Bool} {s : State} {f : Field} (hf : Reg.PWR_CTRL_STANDBY_OFFSET.key ≠ f.key) :
    (setOffset v s).get f = s.get f := (get_of_regs f rfl).trans (get_setF_ne Reg.PWR_CTRL_STANDBY_OFFSET f (b2n v) s hf)

theorem get_offset_setOffset (v : Bool) (s : State) : (setOffset v s).get Reg.PWR_CTRL_STANDBY_OFFSET = b2n v :=
  (get_of_regs _ rfl).trans (get_setF_of_lt (f := Reg.PWR_CTRL_STANDBY_OFFSET) (b2n_lt_two v) s)

/-- A field that the keeper's release passes by reads what the bus offset left. -/
theorem get_keeperLeft {s : State} {f : Field} (hf : ¬ outerKey f.key)
    (h : ∀ g ∈ [Reg.FOV_STATUS_ACTIVE_HELD, Reg.FOV_MIR_TX_CNT, Reg.FOV_CTRL_REASON], g.key ≠ f.key) :
    (keeperLeft s).get f = (setOffset true (fanRelease (abortMembers (setF Reg.SAS_CTRL_ENABLE 0 s)))).get f := by
  rw [keeperLeft, releaseActive, (within_roleChanged _ _ _).get hf, get_setF_ne _ _ _ _ (h _ (by simp)), relinquishSent_get,
    get_sendMir (h _ (by simp)), get_setF_ne _ _ _ _ (h _ (by simp))]

theorem get_reason_keeperLeft (s : State) : (keeperLeft s).get Reg.FOV_CTRL_REASON = 8 := by
  rw [keeperLeft, releaseActive, (within_roleChanged _ _ _).get (by decide), get_setF_ne _ _ _ _ (by decide), relinquishSent_get,
    get_sendMir (by decide)]
  exact get_setF_of_lt (by decide) _

theorem sas_releaseActive (r : Nat) (s : State) : (releaseActive r s).sas = s.sas :=
  ((within_roleChanged _ _ _).view State.sas fun _ => rfl).trans rfl

theorem sas_relinquishSent (r : Nat) (s : State) : (relinquishSent r s).sas = s.sas := by
  unfold relinquishSent sendMir passStream
  simp only []
  split_ifs <;> rfl

theorem cmds_abortMembers (s : State) : (abortMembers s).sas.cmds = [] := rfl

theorem sas_keeperLeft (s : State) : (keeperLeft s).sas.cmds = [] := by
  have hoff (t : State) : (setOffset true t).sas = t.sas := rfl
  rw [keeperLeft, sas_releaseActive, sas_relinquishSent, hoff, (within_fanRelease _).view State.sas fun _ => rfl, cmds_abortMembers]

/-- The keeper's release in every field that it names. -/
theorem keeperRelease_fields (s : State) : (keeperLeft s).active = false ∧ (keeperLeft s).get Reg.SAS_CTRL_ENABLE = 0
    ∧ (keeperLeft s).get Reg.PWR_CTRL_STANDBY_OFFSET = 1 ∧ (keeperLeft s).on Reg.FAN_TOKEN_HELD = false
    ∧ (keeperLeft s).get Reg.FOV_KEEPER_RELEASE_CNT = s.get Reg.FOV_KEEPER_RELEASE_CNT := by
  refine ⟨active_releaseActive _ _, ?_, ?_, ?_, ?_⟩
  · rw [get_keeperLeft (by decide) (by decide), get_setOffset_ne (by decide), (within_fanRelease _).get (by decide),
      get_abortMembers (by decide), get_setF_zero]
  · rw [get_keeperLeft (by decide) (by decide), get_offset_setOffset]
    rfl
  · rw [State.on, get_keeperLeft (by decide) (by decide), get_setOffset_ne (by decide)]
    exact held_fanRelease _
  · rw [get_keeperLeft (by decide) (by decide), get_setOffset_ne (by decide), (within_fanRelease _).get (by decide),
      get_abortMembers (by decide), get_setF_ne _ _ _ _ (by decide)]

/-! A takeover that is complete -/

theorem cmds_writeEntry (p : Post) (pr : Pair) (s : State) : (writeEntry p pr s).qmx.cmds = s.qmx.cmds := by
  have hannounce (q irq : Nat) (t : State) : (announce q irq t).qmx = t.qmx := by
    unfold announce owe
    split_ifs
    · exact (onlyHost_hostEvent 0 t).qmx
    · rfl
    · rfl
    · rfl
    · exact (onlyHost_evalLine _).qmx
  refine (congrArg QmxPart.cmds (hannounce _ _ _)).trans ?_
  exact (congrArg QmxPart.cmds (when_of_eq _ State.qmx rfl)).trans rfl

theorem cmds_deliver (p : Post) (s : State) : (deliver p s).qmx.cmds = s.qmx.cmds := by
  unfold deliver
  split
  · rfl
  · split_ifs
    · rfl
    · rfl
    · rfl
    · exact cmds_writeEntry _ _ _

/-- A command that ends leaves the others as they are. -/
theorem mem_cmds_finish {n st r : Nat} {s : State} {p : Nat × Cmd} (h : p ∈ (finish n st r s).qmx.cmds) : p ∈ s.qmx.cmds := by
  unfold finish at h
  split at h
  · exact h
  · rw [cmds_deliver] at h
    exact Assoc.mem_erase h

theorem mem_cmds_finishAll {l : List Nat} {st r : Nat} {s : State} {p : Nat × Cmd} (h : p ∈ (finishAll l st r s).qmx.cmds) :
    p ∈ s.qmx.cmds := by
  unfold finishAll forEach at h
  induction l generalizing s with
  | nil => exact h
  | cons x l ih => exact mem_cmds_finish (ih h)

/-- SERVING before what waits for it goes on (R33). -/
def servingBegun (s : State) : State :=
  let s1 := toMode Mode.serving s
  { s1 with qmx := { s1.qmx with cmds := s1.qmx.cmds.map (fun p => (p.1, { p.2 with held := false })) } }

theorem enterServing_eq (s : State) : enterServing s = settle (finishWake St.success (servingBegun s)) := rfl

theorem mode_finishWake (st : Nat) (s : State) : (finishWake st s).mode = s.mode := (within_finishWake st s).get (by decide)

theorem wakeCmds_finishWake (st : Nat) (s : State) : (finishWake st s).cmd.wakeCmds = [] :=
  ((within_finishAll _ _ _ _).view (fun u => u.cmd.wakeCmds) fun _ => rfl).trans rfl

theorem mem_cmds_finishWake {st : Nat} {s : State} {p : Nat × Cmd} (h : p ∈ (finishWake st s).qmx.cmds) : p ∈ s.qmx.cmds :=
  mem_cmds_finishAll (s := { s with cmd := { s.cmd with wakeCmds := [] } }) h

theorem fov_finishWake (st : Nat) (s : State) : (finishWake st s).fov = s.fov :=
  (within_finishWake st s).view State.fov fun _ => rfl

theorem mode_servingBegun (s : State) : (servingBegun s).mode = Mode.serving :=
  (get_of_regs _ rfl).trans (mode_toMode (by decide) s)

theorem fov_servingBegun (s : State) : (servingBegun s).fov = s.fov := (within_toMode Mode.serving s).view State.fov fun _ => rfl

theorem fov_served (st : Nat) (s : State) : (finishWake st (servingBegun s)).fov = s.fov :=
  (fov_finishWake _ _).trans (fov_servingBegun s)

theorem held_servingBegun (s : State) : ∀ p ∈ (servingBegun s).qmx.cmds, p.2.held = false := by
  intro p hp
  obtain ⟨q, -, rfl⟩ := List.mem_map.mp hp
  rfl

/-- The takeover's time is kept (R378). -/
def takeoverTimed (s : State) : State := noteCaught { s with fov := { s.fov with tServing := (s.clock - s.fov.detectedAt) / 1000 } }

theorem tServing_takeoverTimed (s : State) : (takeoverTimed s).fov.tServing = (s.clock - s.fov.detectedAt) / 1000 := by
  unfold takeoverTimed noteCaught
  split_ifs <;> rfl

theorem exec_takeoverComplete_of_ready {s : State} (hm : s.mode = Mode.takeover) (hh : s.on Reg.FOV_CTRL_HOLD = false)
    (ha : s.active = true) (hf : s.fansCaught = true) (hr : s.fov.replayed = true) (hi : s.jnl.intents = []) :
    exec .takeoverComplete s = .next (settle (finishWake St.success (servingBegun (takeoverTimed s)))) := by
  rw [exec_takeoverComplete, execTakeoverComplete, if_pos ⟨hm, hh, ha, hf, hr, by simp [hi]⟩]
  rfl

/-- The line's level as it is seen (R358). -/
def lineChanged (low : Bool) (s : State) : State :=
  event Reg.FOV_EVENT_ACTIVE_CHANGE Reg.FOV_ACTIVE_CHANGE_CNT (setF Reg.FOV_STATUS_ACTIVE_LINE (b2n low) s)

theorem lineChanged_fields (low : Bool) (s : State) : (lineChanged low s).on Reg.FOV_STATUS_ACTIVE_LINE = low
    ∧ (lineChanged low s).get Reg.FOV_EVENT_ACTIVE_CHANGE = 1
    ∧ (lineChanged low s).get Reg.FOV_ACTIVE_CHANGE_CNT = (s.get Reg.FOV_ACTIVE_CHANGE_CNT + 1) % 2 ^ 32
    ∧ Keeps [Reg.FOV_STATUS_ACTIVE_LINE, Reg.FOV_EVENT_ACTIVE_CHANGE, Reg.FOV_ACTIVE_CHANGE_CNT] s (lineChanged low s) := by
  refine ⟨?_, get_event_flag _ _ _ (by decide) (by decide), ?_, by simp [lineChanged]⟩
  · rw [lineChanged, State.on, get_event_ne (by decide) (by decide)]
    exact on_setF_b2n rfl low s
  · rw [lineChanged, get_event_cnt _ _ _ (by decide), get_setF_ne _ _ _ _ (by decide)]
    rfl

theorem exec_activeLineChange_of_awake {s : State} {low : Bool} (hne : s.on Reg.FOV_STATUS_ACTIVE_LINE ≠ low)
    (hm : s.mode ≠ Mode.parked) : exec (.activeLineChange low) s = .next (settle (lineChanged low s)) := by
  have hmode : (lineChanged low s).mode = s.mode := (get_event_ne (by decide) (by decide)).trans (get_setF_ne _ _ _ _ (by decide))
  have hpark : ((lineChanged low s).mode == Mode.parked) = false := by rw [hmode]; exact beq_eq_false_iff_ne.mpr hm
  rw [exec_activeLineChange, execActiveLineChange, if_neg hne]
  refine congrArg (fun t => Host.Outcome.next (settle t)) (if_neg ?_)
  rw [← lineChanged, hpark]
  simp

/-- What a kick writes (R363). -/
def kicked (s : State) : State := setF Reg.SYS_BOOT_TRIES 0 (setF Reg.FOV_STATUS_FW_ALIVE 1 s)

theorem get_alive_kicked (s : State) : (kicked s).get Reg.FOV_STATUS_FW_ALIVE = 1 :=
  (get_setF_ne _ _ _ _ (by decide)).trans (get_setF_one rfl s)

/-- With it, the record that the firmware runs. -/
def kickedUp (s : State) : State := { kicked s with sys := { s.sys with firmwareUp := true, slotsFailed := [] } }

theorem kickedUp_get (s : State) (f : Field) : (kickedUp s).get f = (kicked s).get f := get_of_regs f rfl

theorem kickedUp_fields (s : State) : (kickedUp s).get Reg.FOV_STATUS_FW_ALIVE = 1 ∧ (kickedUp s).get Reg.SYS_BOOT_TRIES = 0
    ∧ Keeps [Reg.FOV_STATUS_FW_ALIVE, Reg.SYS_BOOT_TRIES] s (kickedUp s) := by
  refine ⟨?_, ?_, Keeps.of_eq (t := kicked s) (by simp [kicked]) rfl rfl⟩
  · rw [kickedUp_get, get_alive_kicked]
  · rw [kickedUp_get, kicked, get_setF_zero]

/-- A FIRMWARE_COMMIT that waits for the first kick ends with it (R260). -/
def commitEnds (first : Bool) (s : State) : State :=
  match s.cmd.commitCmd with
  | some n => if first then finish n St.success 0 { s with cmd := { s.cmd with commitCmd := none } } else s
  | none => s

theorem exec_watchdogKick_of_lands {s : State} (hl : s.lands 0xF000C = true) : exec .watchdogKick s
    = .next (commitEnds (!s.sys.firmwareUp) (when (!s.sys.firmwareUp && (s.cmd.commitCmd.isSome || s.on Reg.SYS_BOOT_FALLBACK))
        (logPlain 0xD [s.get Reg.SYS_BOOT_SLOT]) (startFirmware (kickedUp (ungate (islandOf 0xF000C) s))))) :=
  exec_of_lands hl (exec_watchdogKick s)

/-- A kick of firmware that runs writes its two fields and records that it runs. -/
theorem exec_watchdogKick_of_running {s : State} (hl : s.lands 0xF000C = true) (hcfg : s.sys.config = none) (hcmd : s.cmd.commitCmd = none)
    (hup : s.sys.firmwareUp = true) : exec .watchdogKick s = .next (kickedUp (ungate (islandOf 0xF000C) s)) := by
  have hstart : startFirmware (kickedUp (ungate (islandOf 0xF000C) s)) = kickedUp (ungate (islandOf 0xF000C) s) := by
    have hnone : (kickedUp (ungate (islandOf 0xF000C) s)).sys.config = none := hcfg
    rw [startFirmware, hnone]
  have hcmd' : (kickedUp (ungate (islandOf 0xF000C) s)).cmd.commitCmd = none := hcmd
  rw [exec_watchdogKick_of_lands hl, hup, hstart]
  refine congrArg _ ?_
  rw [Bool.not_true, Bool.false_and]
  change commitEnds false (kickedUp (ungate (islandOf 0xF000C) s)) = _
  rw [commitEnds, hcmd']

/-- The firmware's watchdog has run out (R363). -/
def aliveLost (s : State) : State := event Reg.FOV_EVENT_FW_WDOG Reg.FOV_FW_WDOG_CNT (setF Reg.FOV_STATUS_FW_ALIVE 0 s)

theorem aliveLost_fields (s : State) : (aliveLost s).get Reg.FOV_STATUS_FW_ALIVE = 0 ∧ (aliveLost s).get Reg.FOV_EVENT_FW_WDOG = 1
    ∧ (aliveLost s).get Reg.FOV_FW_WDOG_CNT = (s.get Reg.FOV_FW_WDOG_CNT + 1) % 2 ^ 32
    ∧ Keeps [Reg.FOV_STATUS_FW_ALIVE, Reg.FOV_EVENT_FW_WDOG, Reg.FOV_FW_WDOG_CNT] s (aliveLost s) := by
  refine ⟨?_, get_event_flag _ _ _ (by decide) (by decide), ?_, by simp [aliveLost]⟩
  · rw [aliveLost, get_event_ne (by decide) (by decide), get_setF_zero]
  · rw [aliveLost, get_event_cnt _ _ _ (by decide), get_setF_ne _ _ _ _ (by decide)]
    rfl

/-- The keeper's release once it is counted. -/
theorem keeperCounted_fields (s : State) {t : State}
    (ht : t = event Reg.FOV_EVENT_KEEPER_RELEASE Reg.FOV_KEEPER_RELEASE_CNT (setF Reg.FOV_STATUS_KEEPER_RELEASED 1 (keeperLeft s))) :
    t.active = false ∧ t.get Reg.SAS_CTRL_ENABLE = 0 ∧ t.get Reg.PWR_CTRL_STANDBY_OFFSET = 1 ∧ t.get Reg.FOV_CTRL_REASON = 8
    ∧ t.get Reg.FOV_STATUS_KEEPER_RELEASED = 1 ∧ t.on Reg.FAN_TOKEN_HELD = false ∧ t.sas.cmds = []
    ∧ t.get Reg.FOV_KEEPER_RELEASE_CNT = (s.get Reg.FOV_KEEPER_RELEASE_CNT + 1) % 2 ^ 32 := by
  obtain ⟨hact, hen, hoff, hheld, hcnt⟩ := keeperRelease_fields s
  rw [ht]
  have hsas (f g : Field) (u : State) : (event f g (setF Reg.FOV_STATUS_KEEPER_RELEASED 1 u)).sas = u.sas := rfl
  refine ⟨?_, ?_, ?_, ?_, ?_, ?_, ?_, ?_⟩
  · rw [State.active, State.on, get_event_ne (by decide) (by decide), get_setF_ne _ _ _ _ (by decide)]
    exact hact
  · rw [get_event_ne (by decide) (by decide), get_setF_ne _ _ _ _ (by decide), hen]
  · rw [get_event_ne (by decide) (by decide), get_setF_ne _ _ _ _ (by decide), hoff]
  · rw [get_event_ne (by decide) (by decide), get_setF_ne _ _ _ _ (by decide), get_reason_keeperLeft]
  · rw [get_event_ne (by decide) (by decide), get_setF_one rfl]
  · rw [State.on, get_event_ne (by decide) (by decide), get_setF_ne _ _ _ _ (by decide)]
    exact hheld
  · rw [hsas, sas_keeperLeft]
  · rw [get_event_cnt _ _ _ (by decide), get_setF_ne _ _ _ _ (by decide), hcnt]
    rfl

/-- Settles O23: the lines, the roles and the watchdog's events. -/
theorem roleCommandsComplete : Obligations.RoleCommandsComplete := by
  refine ⟨fun s hm hr hf hp hfatal hl => ?low, fun s hm hr hf hp hfatal hl hh => ?high, fun s hl ha hp => ?claim,
    fun s l hc => ⟨fun hlen hall => ?won, fun hlow hm => ?lost⟩, fun s hl => ?release, fun s hl ha => ?relinquish,
    fun s low hne hm => ?line, fun s hm hh ha hf hr hi => ?complete, fun s hl hcfg hcmd hup => ?kick, fun s ha => ?watchdog,
    fun s ha hh hs => ?keeper⟩
  case low =>
    exact .of_next (g := fun t => settle (endStart (roleChanged 0 0 t))) (exec_roleTake_of_low hm hr hf hp hfatal hl)
      ⟨get_setF_one rfl _, by simp⟩
  case high => exact .of_next (exec_roleTake_of_high hm hr hf hp hfatal hl hh) (claimLines_fields s)
  case claim =>
    obtain ⟨hclaim, hrefused, hact, hkeep⟩ := claimBegins_fields (ungate (islandOf 0xF0000) s)
    exact .of_next (exec_activeClaim_of_free hl ha hp) ⟨hclaim, hrefused, hact.trans ha, hkeep.of_ungate⟩
  case won =>
    refine .of_next (g := settle) (exec_activeClaimDone_won hc hlen hall) ⟨?_, ?_⟩
    · rw [State.active, State.on, get_endStart (by decide) (by decide), get_claimWon (by decide), get_setF_one rfl]
      rfl
    · rw [State.on, get_endStart (by decide) (by decide), get_claimWon (by decide), get_setF_ne _ _ _ _ (by decide), get_setF_zero]
      rfl
  case lost =>
    refine .of_next (g := settle) (exec_activeClaimDone_lost hc hlow hm) ⟨get_setF_one rfl _, ?_, ?_, by simp⟩
    · rw [get_setF_ne _ _ _ _ (by decide), get_setF_zero]
    · exact (on_setF_ne _ _ _ _ (by decide)).trans (on_setF_ne _ _ _ _ (by decide))
  case release =>
    refine .of_next (exec_of_lands hl (exec_activeRelease s)) ⟨active_releaseActive _ _, fun a => readByte_of_mem a (mem_roleChanged _ _ _)⟩
  case relinquish =>
    refine .of_next (exec_relinquish_of_active hl ha)
      ⟨active_releaseActive _ _, ?_, ?_, fun a => readByte_of_mem a ?_⟩
    · rw [fov_releaseActive]; rfl
    · rw [fov_releaseActive]; rfl
    · exact (mem_roleChanged _ _ _).trans (mem_sendMir _ _ _)
  case line => exact .of_next (g := settle) (exec_activeLineChange_of_awake hne hm) (lineChanged_fields low s)
  case complete =>
    refine .of_next (g := settle) (exec_takeoverComplete_of_ready hm hh ha hf hr hi) ⟨?_, ?_, wakeCmds_finishWake _ _, fun p hp => ?_⟩
    · rw [mode_finishWake, mode_servingBegun]
    · exact (congrArg FovPart.tServing (fov_served _ _)).trans (tServing_takeoverTimed s)
    · exact held_servingBegun (takeoverTimed s) p (mem_cmds_finishWake hp)
  case kick =>
    obtain ⟨halive, htries, hkeep⟩ := kickedUp_fields (ungate (islandOf 0xF000C) s)
    exact .of_next (exec_watchdogKick_of_running hl hcfg hcmd hup) ⟨halive, htries, hkeep.of_ungate⟩
  case watchdog =>
    refine .of_next ?_ (aliveLost_fields s)
    rw [exec_fwWatchdogExpiry, execFwWatchdogExpiry, if_pos ha, aliveLost]
  case keeper => exact .of_next (exec_keeperRelease_of_heard ha hh hs) (keeperCounted_fields s rfl)

end Sys2Proof.Machine
end

section
/-! The planned handover, the revert and HOLD (R370 to R375): the obligation O24. -/

open Sys2Proof

namespace Sys2Proof.Machine

/-! Work on the level and on the members' commands -/

/-- The keys that the level's selection, the members' commands, the fans and the hosts' queues use. -/
@[reducible] def deepKey (k : Nat) : Prop :=
  outerKey k ∨ (0x50000 * 32 ≤ k ∧ k < 0x70000 * 32) ∨ (0xA0000 * 32 ≤ k ∧ k < 0xC0000 * 32)
    ∨ (0xE0000 * 32 ≤ k ∧ k < 0xF0000 * 32) ∨ k = Reg.FOV_MIR_TX_CNT.key

/-- The parts of the state that they use, blanked. -/
@[reducible] def deepMask (s : State) : State :=
  { s with regs := [], mem := [], sys := {}, jnl := {}, oxe := {}, sas := {}, fan := {}, fab := {}, qmx := {}, cmd := {}, hif := {}, out := [],
           fov := { s.fov with ordSeq := 0, othSeq := 0 } }

theorem deepKey_of_outer {k : Nat} (h : outerKey k) : deepKey k := .inl h

theorem deepKey_of_fan {k : Nat} (h : fanReleaseKey k) : deepKey k := by
  rcases h with h | h
  · exact .inr (.inr (.inr (.inl ⟨by omega, by omega⟩)))
  · simp only [List.map_cons, List.map_nil, List.mem_cons, List.not_mem_nil, or_false] at h
    rcases h with rfl | rfl | rfl <;> decide

theorem within_jnl (j : JnlPart) (s : State) : Within deepKey deepMask s { s with jnl := j } := .own rfl rfl

theorem within_passStream (k : MirKind) (s : State) : Within deepKey deepMask s (passStream k s) := by
  unfold passStream
  split_ifs <;> exact .own rfl rfl

theorem within_sendMir (k : MirKind) (args : List Nat) (s : State) : Within deepKey deepMask s (sendMir k args s) := by
  unfold sendMir
  split_ifs
  · exact .bump ((within_passStream k s).parts (by rfl) (by rfl)) (by decide) (by rfl)
  · exact .refl _ _ _

theorem within_updateCeiling (s : State) : Within deepKey deepMask s (updateCeiling s) :=
  .setF (.when (within_jnl _ _) (within_sendMir _ _ _)) _ (by decide) (by rfl)

theorem within_setLevel (l : Nat) (s : State) : Within deepKey deepMask s (setLevel l s) :=
  .event (.setF ((within_logPlain 2 _ s).mono deepKey_of_outer fun _ => rfl) l (by decide) (by rfl)) (by decide) (by decide) (by rfl)

theorem within_expose (s : State) : Within deepKey deepMask s (expose s) := by
  unfold expose
  split_ifs
  · exact .refl _ _ _
  · exact .event (.setF (.refl _ _ _) _ (by decide) (by rfl)) (by decide) (by decide) (by rfl)

theorem within_reselect (s : State) : Within deepKey deepMask s (reselect s) := by
  have hfree : Within deepKey deepMask s (if s.jnl.toWt then releaseHeld { s with jnl := { s.jnl with toWt := false } } else s) := by
    split_ifs
    · exact .own rfl rfl
    · exact .refl _ _ _
  unfold reselect
  simp only []
  split
  · split
    · exact .refl _ _ _
    · exact .own rfl rfl
  · split
    · exact hfree
    · split
      · exact (hfree.trans (within_setLevel _ _)).trans (within_expose _)
      · exact hfree.trans (within_setLevel _ _)

theorem within_acknowledge (f : Flight) (s : State) : Within deepKey deepMask s (acknowledge f s) := by
  have hdrop : Within deepKey deepMask s { s with jnl := { s.jnl with flights := s.jnl.flights.filter (fun g => g != f) } } :=
    .own rfl rfl
  unfold acknowledge
  simp only []
  split
  · exact hdrop
  · split_ifs
    · exact hdrop.trans ((within_finish _ _ _ _).mono deepKey_of_outer fun _ => rfl)
    · exact hdrop

theorem within_writeByte (a b : Nat) (s : State) : Within deepKey deepMask s (writeByte a (BitVec.ofNat 8 b) s) := .own rfl rfl

theorem within_writeStage (a : Nat) (l : List Nat) (s : State) : Within deepKey deepMask s (writeStage a l s) := by
  induction l generalizing a s with
  | nil => exact .refl _ _ _
  | cons b l ih => exact (within_writeByte _ b s).trans (ih _ _)

theorem within_writeRecord (vol lba : Nat) (keys : List Nat) (blocks : List Block) (s : State) :
    Within deepKey deepMask s (writeRecord vol lba keys blocks s) := (within_writeStage _ _ _).trans (within_jnl _ _)

theorem within_stage (vol lba : Nat) (blocks : List Block) (fails : Nat) (s : State) :
    Within deepKey deepMask s (stage vol lba blocks fails s) :=
  (Within.forEach (.refl _ _ _) fun _ _ v => (Within.event (.refl _ _ v) (by decide) (by decide) (by rfl)).trans (within_writeRecord _ _ _ _ _)).trans
    (within_writeRecord _ _ _ _ _)

theorem within_stageFlight (f : Flight) (s : State) : Within deepKey deepMask s (stageFlight f s) := by
  unfold stageFlight stagingStall
  simp only []
  split_ifs
  · exact (Within.forEach (.refl _ _ _) fun _ _ v => within_stage _ _ _ _ v).trans (within_acknowledge _ _)
  · exact .refl _ _ _
  · exact .event (.setF (.refl _ _ _) _ (by decide) (by rfl)) (by decide) (by decide) (by rfl)

theorem within_unexpose (s : State) : Within deepKey deepMask s (unexpose s) := by
  unfold unexpose
  split_ifs
  · exact .setF (.refl _ _ _) _ (by decide) (by rfl)
  · exact .refl _ _ _

theorem within_onCmd (n : Nat) (f : Cmd → Cmd) (s : State) : Within deepKey deepMask s (onCmd n f s) := by
  unfold onCmd
  split
  · exact .refl _ _ _
  · exact .own rfl rfl

theorem within_settleWaiting (s : State) : Within deepKey deepMask s (settleWaiting s) := by
  unfold settleWaiting
  simp only []
  split_ifs
  · exact .forEach (.refl _ _ _) fun f _ => within_acknowledge f
  · have hlevels : Within deepKey deepMask s (forEach (s.jnl.flights.filter (fun f => f.ack.isSome))
        (fun f t => onCmd f.cmd (fun c => { c with level := max c.level 1 }) t) s) := .forEach (.refl _ _ _) fun _ _ => within_onCmd _ _
    have hwaiting (v : State) : Within deepKey deepMask v (stageWaiting v) := .forEach (.refl _ _ _) fun f _ => within_stageFlight f
    exact ((hlevels.trans (within_jnl _ _)).trans (hwaiting _)).trans (within_unexpose _)

theorem within_setPartnerLive (b : Bool) (s : State) : Within deepKey deepMask s (setPartnerLive b s) := by
  have hset : Within deepKey deepMask s (reselect (setF Reg.JNL_CTRL_PARTNER_LIVE (b2n b) s)) :=
    (Within.setF (.refl _ _ _) _ (by decide) (by rfl)).trans (within_reselect _)
  unfold setPartnerLive
  split_ifs
  · exact .refl _ _ _
  · exact hset.parts (by rfl) (by rfl)
  · exact (hset.trans (within_settleWaiting _)).parts (by rfl) (by rfl)

theorem within_showPartnerLive (b : Bool) (s : State) : Within deepKey deepMask s (showPartnerLive b s) :=
  ((within_updateCeiling s).trans (within_setPartnerLive b _)).trans (within_updateCeiling _)

theorem within_writeBytes (a : Nat) (l : List Nat) (s : State) : Within deepKey deepMask s (writeBytes a l s) := by
  induction l generalizing a s with
  | nil => exact .refl _ _ _
  | cons b l ih => exact (within_writeByte _ b s).trans (ih _ _)

theorem within_fwComplete (tag b st e : Nat) (s : State) : Within deepKey deepMask s (fwComplete tag b st e s) :=
  .event (.when (.setF (within_writeBytes _ _ _) _ (by decide) (by rfl)) (.own rfl rfl)) (by decide) (by decide) (by rfl)

theorem within_abortMembers (s : State) : Within deepKey deepMask s (abortMembers s) := by
  have hstep (c : MemCmd) (v : State) : Within deepKey deepMask v (match c.owner with
      | .firmware b => fwComplete c.tag b 5 0 (emit (.drive c.phys .abort c.lba c.nblk []) v)
      | _ => emit (.drive c.phys .abort c.lba c.nblk []) v) := by
    have hemit : Within deepKey deepMask v (emit (.drive c.phys .abort c.lba c.nblk []) v) := .own rfl rfl
    split
    · exact hemit.trans (within_fwComplete _ _ _ _ _)
    · exact hemit
  exact (Within.forEach (.refl _ _ s) fun c _ v => hstep c v).parts (by rfl) (by rfl)

/-! The handover begins -/

theorem fov_sendMir {α : Type} (v : FovPart → α) (hv : ∀ f : FovPart, v { f with ordSeq := 0, othSeq := 0 } = v f)
    (k : MirKind) (args : List Nat) (s : State) : v (sendMir k args s).fov = v s.fov :=
  (within_sendMir k args s).view (fun u => v u.fov) fun u => hv u.fov

/-- What the incoming module leaves as it raises its bus (R370). -/
theorem handoverBegin_fields (s : State) {t : State}
    (ht : t = setOffset false (bump Reg.FOV_MIR_RX_CNT { s with fov := { s.fov with handover := 3 } })) :
    t.fov.handover = 3 ∧ t.get Reg.PWR_CTRL_STANDBY_OFFSET = 0 ∧ t.pwr.setpoint = 12000
    ∧ Keeps [Reg.PWR_CTRL_STANDBY_OFFSET, Reg.FOV_MIR_RX_CNT] s t := by
  rw [ht]
  refine ⟨rfl, get_offset_setOffset _ _, rfl, ?_⟩
  exact Keeps.of_eq (t := setF Reg.PWR_CTRL_STANDBY_OFFSET 0 (bump Reg.FOV_MIR_RX_CNT s)) (by simp) rfl rfl

/-- The incoming module gives up the handover (R371). -/
def powerFailed (s : State) : State :=
  let s1 := setOffset true (sendMir .handover [3] s)
  { s1 with fov := { s1.fov with handover := 0, powerFaults := s1.fov.powerFaults + 1, lastAbandon := 1 } }

theorem powerFailed_fields (s : State) : (powerFailed s).fov.handover = 0 ∧ (powerFailed s).fov.powerFaults = s.fov.powerFaults + 1
    ∧ (powerFailed s).fov.lastAbandon = 1 ∧ (powerFailed s).get Reg.PWR_CTRL_STANDBY_OFFSET = 1
    ∧ Keeps [Reg.PWR_CTRL_STANDBY_OFFSET, Reg.FOV_MIR_TX_CNT] s (powerFailed s) := by
  refine ⟨rfl, congrArg (· + 1) (fov_sendMir FovPart.powerFaults (fun _ => rfl) (k := .handover) (args := [3]) (s := s)), rfl,
    (get_of_regs _ rfl).trans (get_offset_setOffset true _), ?_⟩
  exact Keeps.of_eq (t := setF Reg.PWR_CTRL_STANDBY_OFFSET 1 (sendMir .handover [3] s))
    ((keeps_sendMir (Keeps.refl _ _) (by decide)).setF _ _ (by decide)) rfl rfl

/-! The outgoing module hands over -/

/-- STANDBY as its entry begins (R26). -/
def standbyBegun (s : State) : State := setOffset true (fanRelease (toMode Mode.standby s))

theorem get_standbyBegun {s : State} {f : Field} (hf : ¬ edgeKey f.key) (hfan : ¬ fanReleaseKey f.key)
    (hoff : Reg.PWR_CTRL_STANDBY_OFFSET.key ≠ f.key) : (standbyBegun s).get f = s.get f := by
  rw [standbyBegun, get_setOffset_ne hoff, (within_fanRelease _).get hfan, (within_toMode _ _).get hf]

theorem fov_standbyBegun (s : State) : (standbyBegun s).fov = s.fov :=
  ((within_fanRelease _).view State.fov fun _ => rfl).trans ((within_toMode _ _).view State.fov fun _ => rfl)

theorem mode_standbyBegun (s : State) : (standbyBegun s).mode = Mode.standby := by
  rw [standbyBegun, State.mode, get_setOffset_ne (by decide), (within_fanRelease _).get (by decide)]
  exact mode_toMode (by decide) s

/-- What ends with the entry of STANDBY. -/
theorem within_enterStandby (s : State) : Within outerKey endMask (abortMembers (standbyBegun s)) (enterStandby s) := by
  have heq : enterStandby s = finishWake St.notActive (finishPark St.notActive (refuseIo (abortMembers (standbyBegun s)))) := rfl
  rw [heq]
  exact (((within_refuseIo _).mono id fun _ => rfl).trans (within_finishPark _ _)).trans (within_finishWake _ _)

/-- A handover's end: what ends with the entry of STANDBY and after it. -/
theorem within_standbyFinished (s : State) :
    Within outerKey endMask (abortMembers (standbyBegun s)) (finishRole 5 (finishRole 1 (enterStandby s))) :=
  ((within_enterStandby s).trans (within_finishRole _ _)).trans (within_finishRole _ _)

theorem get_standbyFinished {s : State} {f : Field} (ho : ¬ outerKey f.key) (hf : f.key ∉ fwRingFields.map Field.key) :
    (finishRole 5 (finishRole 1 (enterStandby s))).get f = (standbyBegun s).get f :=
  ((within_standbyFinished s).get ho).trans (get_abortMembers hf)

theorem within_setHold (b : Bool) (s : State) :
    Within (fun k => k = Reg.FOV_CTRL_HOLD.key ∨ outerKey k) hostMask s (setHold b s) := by
  unfold setHold
  split_ifs
  · exact .refl _ _ _
  · exact (Within.setF (.refl _ _ _) _ (.inl rfl) (by rfl)).trans ((within_hostEvent 2 _).mono .inr fun _ => rfl)

theorem fov_setHold (b : Bool) (s : State) : (setHold b s).fov = s.fov := (within_setHold b s).view State.fov fun _ => rfl

theorem within_endForHandover (s : State) : Within outerKey queueMask s (endForHandover s) :=
  (within_refuseIo s).trans (within_finishAll _ _ _ _)

theorem fov_busRaised (s : State) : (setOffset true (bump Reg.FOV_MIR_RX_CNT s)).fov = s.fov := rfl

/-- The outgoing module's work before its record of the handover is written. -/
@[irreducible] def handoverSent (s : State) : State :=
  fanRelease (sendMir .handover [4] (abortMembers (endForHandover (setOffset true (bump Reg.FOV_MIR_RX_CNT s)))))

theorem within_handoverSent (s : State) :
    Within deepKey deepMask (setOffset true (bump Reg.FOV_MIR_RX_CNT s)) (handoverSent s) := by
  rw [handoverSent]
  exact (((((within_endForHandover _).mono deepKey_of_outer fun _ => rfl).trans (within_abortMembers _)).trans (within_sendMir _ _ _)).trans
    ((within_fanRelease _).mono deepKey_of_fan fun _ => rfl))

/-- The record of a handover that ends; `fault` says that the outgoing module goes to SERVICE. -/
def handoverRecord (fault : Bool) (now : Nat) (f : FovPart) : FovPart :=
  { f with handover := 0, fetchStopped := false, toService := false, lastSwap := now, swapDue := false, handovers := f.handovers + 1,
           holdoffStart := none, holdoffOver := false, lastReason := if fault then 10 else 0 }

/-- The state in which the outgoing module releases its line: commands ended, fans released, the copy kept. -/
@[irreducible] def handedOver (fault : Bool) (s : State) : State :=
  setHold false (showPartnerLive false (keepCopy { handoverSent s with fov := handoverRecord fault s.nowMs (handoverSent s).fov }))

/-- With it, the line released. -/
@[irreducible] def handedLine (fault : Bool) (s : State) : State := releaseActive (if fault then 10 else 0) (handedOver fault s)

/-- The mode that the outgoing module enters. -/
def handedMode (fault : Bool) (s : State) : State :=
  if fault then enterService 10 (handedLine fault s) else enterStandby (setF Reg.FOV_CTRL_STANDBY_ROLE 1 (handedLine fault s))

theorem exec_handoverPowerOk_of_outgoing {s : State} (h : s.fov.handover = 1) :
    exec .handoverPowerOk s = .next (settle (finishRole 5 (finishRole 1 (handedMode s.fov.toService s)))) := by
  rw [exec_handoverPowerOk, execHandoverPowerOk, if_pos h]
  refine congrArg (fun t => Host.Outcome.next (settle (finishRole 5 (finishRole 1 t)))) ?_
  unfold handedMode handedLine handedOver handoverSent handoverRecord
  generalize s.fov.toService = b
  rfl

/-- The standby's role is taken before the mode changes. -/
def handedRole (s : State) : State := setF Reg.FOV_CTRL_STANDBY_ROLE 1 (handedLine false s)

theorem fov_keepCopy (s : State) : (keepCopy s).fov = s.fov := rfl

theorem fov_handedOver {α : Type} (v : FovPart → α) (hv : ∀ f : FovPart, v { f with ordSeq := 0, othSeq := 0 } = v f) (s : State) :
    v (handedOver false s).fov = v (handoverRecord false s.nowMs (handoverSent s).fov) := by
  have hlive (u : State) : v (showPartnerLive false u).fov = v u.fov :=
    (within_showPartnerLive false u).view (fun u => v u.fov) fun u => hv u.fov
  unfold handedOver
  rw [fov_setHold, hlive, fov_keepCopy]

theorem handovers_handoverSent (s : State) : (handoverSent s).fov.handovers = s.fov.handovers := by
  have hsent := (within_handoverSent s).view (fun u => u.fov.handovers) fun _ => rfl
  rwa [fov_busRaised] at hsent

theorem active_handedLine (fault : Bool) (s : State) : (handedLine fault s).active = false := by
  rw [handedLine, active_releaseActive]

theorem fov_handedLine (fault : Bool) (s : State) : (handedLine fault s).fov = (handedOver fault s).fov := by
  rw [handedLine, fov_releaseActive]

theorem fov_handedRole (s : State) : (handedRole s).fov = (handedOver false s).fov := fov_handedLine _ _

theorem handedRole_fields (s : State) : (handedRole s).active = false ∧ (handedRole s).get Reg.FOV_CTRL_STANDBY_ROLE = 1
    ∧ (handedRole s).fov.handover = 0 ∧ (handedRole s).fov.handovers = s.fov.handovers + 1 ∧ (handedRole s).fov.fetchStopped = false := by
  refine ⟨?_, get_setF_one rfl _, ?_, ?_, ?_⟩
  · rw [handedRole, State.active, on_setF_ne _ _ _ _ (by decide)]
    exact active_handedLine _ _
  · rw [fov_handedRole]
    exact (fov_handedOver FovPart.handover (fun _ => rfl) s).trans rfl
  · rw [fov_handedRole, fov_handedOver FovPart.handovers fun _ => rfl, ← handovers_handoverSent s]
    rfl
  · rw [fov_handedRole]
    exact (fov_handedOver FovPart.fetchStopped (fun _ => rfl) s).trans rfl

theorem fov_standbyFinished {α : Type} (v : FovPart → α) (hv : ∀ f : FovPart, v { f with ordSeq := 0, othSeq := 0 } = v f) (s : State) :
    v (finishRole 5 (finishRole 1 (enterStandby s))).fov = v s.fov := by
  rw [(within_standbyFinished s).view State.fov fun _ => rfl, ← fov_standbyBegun s]
  exact (within_abortMembers _).view (fun u => v u.fov) fun u => hv u.fov

theorem handoverPowerOk_fields (s : State) {t : State} (ht : t = finishRole 5 (finishRole 1 (enterStandby (handedRole s)))) :
    t.mode = Mode.standby ∧ t.active = false ∧ t.get Reg.FOV_CTRL_STANDBY_ROLE = 1 ∧ t.get Reg.PWR_CTRL_STANDBY_OFFSET = 1
    ∧ t.fov.handover = 0 ∧ t.fov.handovers = s.fov.handovers + 1 ∧ t.fov.fetchStopped = false ∧ t.sas.cmds = [] := by
  obtain ⟨hact, hrole, hhand, hcount, hfetch⟩ := handedRole_fields s
  rw [ht]
  refine ⟨?_, ?_, ?_, ?_, ?_, ?_, ?_, ?_⟩
  · exact (get_standbyFinished (by decide) (by decide)).trans (mode_standbyBegun _)
  · rw [State.active, State.on, get_standbyFinished (by decide) (by decide), get_standbyBegun (by decide) (by decide) (by decide)]
    exact hact
  · rw [get_standbyFinished (by decide) (by decide), get_standbyBegun (by decide) (by decide) (by decide), hrole]
  · rw [get_standbyFinished (by decide) (by decide)]
    exact get_offset_setOffset true _
  · exact (fov_standbyFinished FovPart.handover (fun _ => rfl) _).trans hhand
  · exact (fov_standbyFinished FovPart.handovers (fun _ => rfl) _).trans hcount
  · exact (fov_standbyFinished FovPart.fetchStopped (fun _ => rfl) _).trans hfetch
  · exact (within_standbyFinished (handedRole s)).view (fun u => u.sas.cmds) fun _ => rfl

/-! The handover abandoned -/

theorem finishRole_of_none {s : State} (h : s.cmd.roleCmds = []) (a : Nat) : finishRole a s = s := by
  obtain ⟨⟩ := s
  dsimp only at h
  simp only [finishRole, h, List.filter_nil, List.map_nil, finishAll, forEach, List.foldl_nil]
  congr
  exact h.symm

theorem abandonHandover_of_alone {s : State} (h : s.fov.handover = 1) (hc : s.cmd.roleCmds = []) : abandonHandover 1 s
    = { setOffset false s with fov := { s.fov with
        handover := 0, handoverDue := false, fetchStopped := false, toService := false, lastAbandon := 1, abandoned := s.fov.abandoned + 1 } } := by
  rw [abandonHandover, if_neg (by omega), h]
  have hnone (f : FovPart) : ({ setOffset false s with fov := f } : State).cmd.roleCmds = [] := hc
  simp only [if_pos (by decide : 1 ≤ 2)]
  rw [finishRole_of_none (hnone _), finishRole_of_none (hnone _), finishRole_of_none (hnone _)]
  rfl

/-! The incoming module takes over -/

/-- The keys that a takeover writes once the bus is raised. -/
@[reducible] def takeoverKey (k : Nat) : Prop :=
  outerKey k ∨ (0xA0000 * 32 ≤ k ∧ k < 0xB0000 * 32) ∨ k ∈ [Reg.PWR_CTRL_CONV_EN, Reg.PWR_STATUS_CONV_STATE, Reg.PWR_BUDGET_GRANT_W,
    Reg.FOV_CTRL_HOLD, Reg.FAN_CTRL_FIXED_EN].map Field.key

/-- The parts of the state that it changes, blanked. -/
@[reducible] def takeoverMask (s : State) : State :=
  { s with regs := [], sys := {}, fov := {}, fab := {}, qmx := {}, hif := {}, out := [] }

theorem within_restoreFronts (s : State) : Within takeoverKey takeoverMask s (restoreFronts s) := by
  refine .forEach (.refl _ _ _) fun k hk t => ?_
  have hlt : k < 8 := List.mem_range.mp (List.mem_filter.mp hk).1
  have hfl : takeoverKey (Reg.SAS_RBD_FRONT_LO_FRONT k).key := .inr (.inl (by simp only [Field.key, Reg.SAS_RBD_FRONT_LO_FRONT]; omega))
  have hfh : takeoverKey (Reg.SAS_RBD_FRONT_HI_FRONT k).key := .inr (.inl (by simp only [Field.key, Reg.SAS_RBD_FRONT_HI_FRONT]; omega))
  have hwl : takeoverKey (Reg.SAS_RBD_WIN_LO_WIN k).key := .inr (.inl (by simp only [Field.key, Reg.SAS_RBD_WIN_LO_WIN]; omega))
  have hwh : takeoverKey (Reg.SAS_RBD_WIN_HI_WIN k).key := .inr (.inl (by simp only [Field.key, Reg.SAS_RBD_WIN_HI_WIN]; omega))
  exact ((((Within.refl _ _ _).setF _ hfl (by rfl)).setF _ hfh (by rfl)).setF _ hwl (by rfl)).setF _ hwh (by rfl)

/-- A takeover with its bus raised. -/
@[irreducible] def takeoverRaised (s : State) : State := setOffset false (claimLines (setF Reg.JNL_CTRL_REPLAY_DONE 0 (toMode Mode.takeover s)))

theorem takeoverRaised_fields (s : State) : (takeoverRaised s).mode = Mode.takeover ∧ (takeoverRaised s).get Reg.JNL_CTRL_REPLAY_DONE = 0
    ∧ (takeoverRaised s).get Reg.PWR_CTRL_STANDBY_OFFSET = 0 := by
  have hclaim {f : Field} {u : State} (hf : f.key ∉ [Reg.FOV_CTRL_CLAIM, Reg.FOV_STATUS_REFUSED, Reg.FOV_STATUS_KEEPER_RELEASED,
      Reg.FAN_TOKEN_CLAIM, Reg.FAN_TOKEN_REFUSED].map Field.key) : (claimLines u).get f = u.get f := (claimLines_fields u).2.2.2.get hf
  unfold takeoverRaised
  refine ⟨?_, ?_, get_offset_setOffset _ _⟩
  · rw [State.mode, get_setOffset_ne (by decide), hclaim (by decide), get_setF_ne _ _ _ _ (by decide)]
    exact mode_toMode (by decide) s
  · rw [get_setOffset_ne (by decide), hclaim (by decide), get_setF_zero]

/-- The converter is switched on for a takeover out of PARKED. -/
def takeoverPowered (parked : Bool) (s : State) : State :=
  when parked (fun t =>
    when (t.on Reg.PWR_STATUS_MAINS_OK && t.get Reg.PWR_STATUS_CONV_STATE == 0) (setF Reg.PWR_STATUS_CONV_STATE 1)
      (setF Reg.PWR_CTRL_CONV_EN 1 t)) s

theorem within_takeoverPowered (b : Bool) (s : State) : Within takeoverKey takeoverMask s (takeoverPowered b s) :=
  .when (.refl _ _ _) (.when (.setF (.refl _ _ _) _ (by decide) (by rfl)) (.setF (.refl _ _ _) _ (by decide) (by rfl)))

/-- The lease of the partner is asked for (R369). -/
def leaseAsked (s0 s : State) : State :=
  match s0.fab.inherited with
  | some (w, _, lost) => askBellwether .leaseMove [lost] (loopAtOnce (setF Reg.PWR_BUDGET_GRANT_W w s))
  | none => s

theorem within_leaseAsked (s0 s : State) : Within takeoverKey takeoverMask s (leaseAsked s0 s) := by
  unfold leaseAsked
  split
  · next w _ lost _ =>
      have hgrant : Within takeoverKey takeoverMask s (setF Reg.PWR_BUDGET_GRANT_W w s) := .setF (.refl _ _ _) _ (by decide) (by rfl)
      have hloop (u : State) : Within takeoverKey takeoverMask u (loopAtOnce u) := .own rfl rfl
      exact (hgrant.trans (hloop _)).trans ((within_askBellwether _ _ _).mono .inl fun _ => rfl)
  · exact .refl _ _ _

/-- The resets that are sent and the lease asked for (R369). -/
@[irreducible] def takeoverSent (s : State) : State :=
  leaseAsked s (forEach (allSlots.filter s.awake) (fun n t => emit (.drive n .unitReset 0 0 []) t)
    (takeoverPowered (s.mode == Mode.parked) (restoreFronts (takeoverRaised s))))

theorem within_takeoverSent (s : State) : Within takeoverKey takeoverMask (takeoverRaised s) (takeoverSent s) := by
  unfold takeoverSent
  have hreset (l : List Nat) (u : State) : Within takeoverKey takeoverMask u (forEach l (fun n t => emit (.drive n .unitReset 0 0 []) t) u) :=
    .forEach (.refl _ _ _) fun _ _ _ => .own rfl rfl
  exact (((within_restoreFronts _).trans (within_takeoverPowered _ _)).trans (hreset _ _)).trans (within_leaseAsked _ _)

/-- The record of a takeover. -/
def takeoverRecord (s0 : State) (f : FovPart) : FovPart :=
  { f with relqHeard := false, silent := false, replayed := false, detectedAt := s0.clock, tFans := 0,
           lastTakeover := s0.nowMs, takeovers := s0.fov.takeovers + 1, handover := 0 }

/-- TAKEOVER entered, but for HOLD. -/
def takeoverBegun (s : State) : State :=
  { takeoverSent s with
    sys := { (takeoverSent s).sys with hbDue := true }
    fab := { (takeoverSent s).fab with leaseEnd := match s.fab.inherited with | some (_, e, _) => e | none => (takeoverSent s).fab.leaseEnd }
    fov := takeoverRecord s (takeoverSent s).fov }

theorem enterTakeover_eq (s : State) : enterTakeover s
    = if s.fov.synced || s.on Reg.FOV_MIR_CTRL_RESYNC_DONE then takeoverBegun s else enterHold 2 (takeoverBegun s) := by
  unfold takeoverBegun takeoverRecord takeoverSent takeoverRaised leaseAsked takeoverPowered
  rfl

/-! HOLD -/

theorem within_demandMoved {P : Nat → Prop} (u s : State) : Within P takeoverMask s (demandMoved u s) := .when (.refl _ _ _) (.own rfl rfl)

/-- HOLD's flags, before held work is refused. -/
def holdSet (cause : Nat) (s : State) : State :=
  let s1 := setF Reg.FAN_CTRL_FIXED_EN 1 (setHold true s)
  { (demandMoved s s1) with fov := { s1.fov with holdCause := cause } }

theorem within_holdSet (cause : Nat) (s : State) : Within takeoverKey takeoverMask s (holdSet cause s) := by
  have hhold : Within takeoverKey takeoverMask s (setHold true s) :=
    (within_setHold true s).mono (fun h => h.elim (fun e => e ▸ by decide) .inl) fun _ => rfl
  exact ((hhold.setF (f := Reg.FAN_CTRL_FIXED_EN) 1 (by decide) (by rfl)).trans (within_demandMoved _ _)).parts (by rfl) (by rfl)

theorem handover_holdSet (cause : Nat) (s : State) : (holdSet cause s).fov.handover = s.fov.handover := by
  have hset : (setHold true s).fov.handover = s.fov.handover := congrArg FovPart.handover (fov_setHold true s)
  exact hset

theorem within_enterHold (cause : Nat) (s : State) : Within takeoverKey takeoverMask s (enterHold cause s) :=
  (within_holdSet cause s).trans ((within_refuseIo _).mono .inl fun _ => rfl)

theorem handover_enterHold (cause : Nat) (s : State) : (enterHold cause s).fov.handover = s.fov.handover :=
  ((within_refuseIo (holdSet cause s)).view (fun u => u.fov.handover) fun _ => rfl).trans (handover_holdSet cause s)

theorem within_enterTakeover (s : State) : Within takeoverKey takeoverMask (takeoverRaised s) (enterTakeover s) := by
  have hbegun : Within takeoverKey takeoverMask (takeoverRaised s) (takeoverBegun s) := (within_takeoverSent s).trans (.own rfl rfl)
  rw [enterTakeover_eq]
  split_ifs
  · exact hbegun
  · exact hbegun.trans (within_enterHold 2 _)

theorem handover_enterTakeover (s : State) : (enterTakeover s).fov.handover = 0 := by
  rw [enterTakeover_eq]
  split_ifs
  · rfl
  · exact handover_enterHold 2 _

theorem enterTakeover_fields (s : State) : (enterTakeover s).mode = Mode.takeover ∧ (enterTakeover s).get Reg.JNL_CTRL_REPLAY_DONE = 0
    ∧ (enterTakeover s).get Reg.PWR_CTRL_STANDBY_OFFSET = 0 ∧ (enterTakeover s).fov.handover = 0 := by
  obtain ⟨hmode, hreplay, hoff⟩ := takeoverRaised_fields s
  have hin := within_enterTakeover s
  exact ⟨(hin.get (by decide)).trans hmode, (hin.get (by decide)).trans hreplay, (hin.get (by decide)).trans hoff, handover_enterTakeover s⟩

/-- A takeover that ends a planned handover (R370): the count of takeovers stays. -/
def handoverTaken (s : State) : State :=
  let s1 := enterTakeover (bump Reg.FOV_MIR_RX_CNT s)
  { s1 with fov := { s1.fov with
      takeovers := s.fov.takeovers, lastTakeover := s.fov.lastTakeover, handovers := s.fov.handovers + 1, lastSwap := s.nowMs,
      swapDue := false } }

theorem exec_handoverCommit_of_ready {s : State} (h : s.fov.handover = 4) : exec .handoverCommit s = .next (settle (handoverTaken s)) := by
  rw [exec_handoverCommit, execHandoverCommit, if_pos h, handoverTaken]

theorem handoverTaken_get (s : State) (f : Field) : (handoverTaken s).get f = (enterTakeover (bump Reg.FOV_MIR_RX_CNT s)).get f := rfl

theorem handoverTaken_fields (s : State) : (handoverTaken s).mode = Mode.takeover ∧ (handoverTaken s).get Reg.JNL_CTRL_REPLAY_DONE = 0
    ∧ (handoverTaken s).get Reg.PWR_CTRL_STANDBY_OFFSET = 0 ∧ (handoverTaken s).fov.handover = 0
    ∧ (handoverTaken s).fov.handovers = s.fov.handovers + 1 ∧ (handoverTaken s).fov.takeovers = s.fov.takeovers := by
  obtain ⟨hmode, hreplay, hoff, hhand⟩ := enterTakeover_fields (bump Reg.FOV_MIR_RX_CNT s)
  exact ⟨(handoverTaken_get s _).trans hmode, (handoverTaken_get s _).trans hreplay, (handoverTaken_get s _).trans hoff, hhand, rfl, rfl⟩

/-- HOLD left is told by the registers, the mode staying. -/
theorem leaveHold_fields (s : State) : (leaveHold s).mode = s.mode ∧ (leaveHold s).get Reg.FOV_CTRL_HOLD = 0
    ∧ (leaveHold s).get Reg.FAN_CTRL_FIXED_EN = 0 ∧ (leaveHold s).fov.holdCause = 0 := by
  have hget (f : Field) : (leaveHold s).get f = (setF Reg.FAN_CTRL_FIXED_EN 0 (setHold false s)).get f :=
    (get_of_regs f rfl).trans (get_demandMoved _ _ _)
  refine ⟨?_, ?_, ?_, rfl⟩
  · rw [State.mode, hget, get_setF_ne _ _ _ _ (by decide), (within_setHold _ _).get (by decide)]
    rfl
  · rw [hget, get_setF_ne _ _ _ _ (by decide), setHold]
    split_ifs with h
    · exact get_eq_zero_of_off h
    · rw [(within_hostEvent 2 _).get (by decide), b2n]
      exact get_setF_zero _ _
  · rw [hget, get_setF_zero]

theorem mode_of_inHold {s : State} {c : Nat} (h : s.inHold c = true) : s.mode = Mode.takeover := by
  simp only [State.inHold, Bool.and_eq_true, beq_iff_eq] at h
  exact h.1.1

/-! The revert -/

theorem exchangeRoles_fields (s : State) : (exchangeRoles s).active = false ∧ (exchangeRoles s).on Reg.FOV_CTRL_STANDBY_ROLE = true
    ∧ (exchangeRoles s).on Reg.FAN_TOKEN_HELD = false := by
  have hget {f : Field} (hf : ¬ outerKey f.key) : (exchangeRoles s).get f
      = (setF Reg.FOV_CTRL_STANDBY_ROLE 1 (setF Reg.FOV_STATUS_ACTIVE_HELD 0 (fanRelease s))).get f := (within_roleChanged _ _ _).get hf
  refine ⟨?_, ?_, ?_⟩
  · refine on_eq_false ?_
    rw [hget (by decide), get_setF_ne _ _ _ _ (by decide), get_setF_zero]
  · refine on_eq_true ?_
    rw [hget (by decide), get_setF_one rfl]
  · rw [State.on, hget (by decide), get_setF_ne _ _ _ _ (by decide), get_setF_ne _ _ _ _ (by decide)]
    exact held_fanRelease s

/-- The hold-off is over. -/
def holdoffEnded (s : State) : State := { s with fov := { s.fov with holdoffStart := none, holdoffOver := true } }

/-- What the end of the hold-off leaves (R372). -/
def holdoffDone (tested persists : Bool) (s : State) : State :=
  if (holdoffEnded s).mayRevert tested persists then wantHandover false (holdoffEnded s) else holdoffEnded s

theorem exec_revertHoldoff_of_waiting {s : State} {tested persists : Bool} (hx : s.mayExchange = false)
    (hs : s.fov.holdoffStart.isSome = true) : exec (.revertHoldoffExpiry tested persists) s = .next (settle (holdoffDone tested persists s)) := by
  rw [exec_revertHoldoffExpiry, execRevertHoldoffExpiry, if_neg (by simp [hx]), if_pos hs]
  rfl

theorem holdoffDone_fields {s : State} (h : s.fov.handover = 0) (tested persists : Bool) :
    (holdoffDone tested persists s).fov.holdoffStart = none ∧ (holdoffDone tested persists s).fov.holdoffOver = true
    ∧ (holdoffDone tested persists s).fov.handoverDue = (s.mayRevert tested persists || s.fov.handoverDue)
    ∧ Keeps [] s (holdoffDone tested persists s) := by
  have hmay : (holdoffEnded s).mayRevert tested persists = s.mayRevert tested persists := rfl
  have hwant : wantHandover false (holdoffEnded s)
      = { holdoffEnded s with fov := { (holdoffEnded s).fov with handoverDue := true, toService := s.fov.toService || false } } :=
    if_neg (not_not.mpr h)
  rw [holdoffDone, hmay]
  cases s.mayRevert tested persists with
  | true =>
    rw [if_pos rfl, hwant]
    exact ⟨rfl, rfl, rfl, (Keeps.refl _ _).of_eq rfl rfl⟩
  | false => exact ⟨rfl, rfl, rfl, (Keeps.refl _ _).of_eq rfl rfl⟩

/-- Settles O24: the planned handover, the revert and HOLD. -/
theorem handoverCommandsComplete : Obligations.HandoverCommandsComplete := by
  refine ⟨fun s hm hh => ?begins, fun s hh => ⟨?powerGood, ?powerBad⟩, fun s hh hs => ?powerOk, fun s hh => ?powerFail, fun s hh hc => ?abandon,
    fun s hh => ?commit, fun s tested persists hx => ?exchange, fun s tested persists hx hs hh => ?holdoff, fun s => ?swap,
    fun s hi => ?checked, fun s hi => ?unchecked, fun s hi => ?unsynced⟩
  case begins =>
    refine .of_next ?_ (handoverBegin_fields s rfl)
    rw [exec_handoverBegin, execHandoverBegin, if_pos ⟨hm, hh⟩]
  case powerGood =>
    refine .of_next (g := sendMir .handover [2]) (t := { s with fov := { s.fov with handover := 4 } }) ?_ ⟨rfl, (Keeps.refl _ _).of_eq rfl rfl⟩
    rw [exec_powerCheck, execPowerCheck, if_pos hh, if_pos rfl]
  case powerBad =>
    refine .of_next (g := fun t => settle (enterService 0 t)) (t := powerFailed s) ?_ (powerFailed_fields s)
    rw [exec_powerCheck, execPowerCheck, if_pos hh, if_neg Bool.false_ne_true, powerFailed]
  case powerOk =>
    refine .of_next (g := settle) (t := finishRole 5 (finishRole 1 (enterStandby (handedRole s)))) ?_ (handoverPowerOk_fields s rfl)
    rw [exec_handoverPowerOk_of_outgoing hh, hs, handedMode, if_neg Bool.false_ne_true, handedRole]
  case powerFail =>
    refine .of_next (g := fun t => settle (abandonHandover 1 t)) (t := bump Reg.FOV_MIR_RX_CNT s) ?_ ⟨hh, by simp⟩
    rw [exec_handoverPowerFail, execHandoverPowerFail, if_pos hh]
  case abandon =>
    rw [abandonHandover_of_alone hh hc]
    exact ⟨rfl, rfl, rfl, (get_of_regs _ rfl).trans (get_offset_setOffset false s),
      Keeps.of_eq (t := setF Reg.PWR_CTRL_STANDBY_OFFSET 0 s) (by simp) rfl rfl⟩
  case commit => exact .of_next (g := settle) (t := handoverTaken s) (exec_handoverCommit_of_ready hh) (handoverTaken_fields s)
  case exchange =>
    refine .of_next ?_ (exchangeRoles_fields s)
    rw [exec_revertHoldoffExpiry, execRevertHoldoffExpiry, if_pos hx]
  case holdoff => exact .of_next (g := settle) (exec_revertHoldoff_of_waiting hx hs) (holdoffDone_fields hh tested persists)
  case swap => exact .of_next (exec_swapDue s) ⟨rfl, (Keeps.refl _ _).of_eq rfl rfl⟩
  case checked =>
    obtain ⟨hmode, hrest⟩ := leaveHold_fields s
    refine .of_next (g := settle) (t := leaveHold s) ?_ ⟨hmode.trans (mode_of_inHold hi), hrest⟩
    rw [exec_holdSelfCheck, execHoldSelfCheck, hi, Bool.and_true, if_pos rfl]
  case unchecked =>
    refine .of_next ?_ rfl
    rw [exec_holdSelfCheck, execHoldSelfCheck, Bool.and_false, if_neg Bool.false_ne_true]
  case unsynced =>
    obtain ⟨hmode, hrest⟩ := leaveHold_fields s
    refine .of_next (g := fun t => settle (imageLost t)) (t := leaveHold s) ?_ ⟨hmode.trans (mode_of_inHold hi), hrest⟩
    rw [exec_holdUnsyncedTimeout, execHoldUnsyncedTimeout, if_pos hi]

end Sys2Proof.Machine
end

section
/-! The mirror link and its messages (R366, R367, R116, R117, R193, R302): the obligation O25. -/

open Sys2Proof

namespace Sys2Proof.Machine

/-! Work on each of a list -/

/-- What the work on one element of a list sets and the work on any of them keeps, the work on all of them leaves. -/
theorem forEach_of_mem {α : Type} {l : List α} {g : α → State → State} {x : α} {Q : State → Prop} (hx : x ∈ l) (hset : ∀ u, Q (g x u))
    (hkeep : ∀ y ∈ l, ∀ u, Q u → Q (g y u)) (s : State) : Q (forEach l g s) := by
  unfold Machine.forEach
  have hfold (k : List α) (hk : ∀ y ∈ k, y ∈ l) (u : State) (hu : Q u) : Q (k.foldl (fun u y => g y u) u) := by
    induction k generalizing u with
    | nil => exact hu
    | cons y k ih => exact ih (fun z hz => hk z (.tail _ hz)) _ (hkeep y (hk y (.head _)) u hu)
  obtain ⟨k, k', rfl⟩ := List.append_of_mem hx
  rw [List.foldl_append, List.foldl_cons]
  exact hfold k' (fun y hy => by simp [hy]) _ (hset _)

/-- Two kinds of work do the same where they agree on the states that keep a condition. -/
theorem forEach_congr {α : Type} {l : List α} {g k : α → State → State} {I : State → Prop}
    (h : ∀ x ∈ l, ∀ u, I u → g x u = k x u ∧ I (k x u)) {s : State} (hs : I s) : forEach l g s = forEach l k s := by
  unfold Machine.forEach
  induction l generalizing s with
  | nil => rfl
  | cons x l ih =>
    obtain ⟨heq, hi⟩ := h x (.head _) s hs
    rw [List.foldl_cons, List.foldl_cons, heq]
    exact ih (fun y hy => h y (.tail _ hy)) hi

theorem keeps_forEach {α : Type} {l : List α} {g : α → State → State} {fs : List Field} {s t : State} (h : Keeps fs s t)
    (hg : ∀ x ∈ l, ∀ u, Keeps fs s u → Keeps fs s (g x u)) : Keeps fs s (forEach l g t) := by
  unfold Machine.forEach
  induction l generalizing t with
  | nil => exact h
  | cons x l ih => exact ih (hg x (.head _) t h) fun y hy => hg y (.tail _ hy)

theorem mem_forEach {α : Type} {l : List α} {g : α → State → State} (h : ∀ x u, (g x u).mem = u.mem) (s : State) :
    (forEach l g s).mem = s.mem := by
  unfold Machine.forEach
  induction l generalizing s with
  | nil => rfl
  | cons x l ih => exact (ih (g x s)).trans (h x s)

theorem forEach_singleton {α : Type} (x : α) (g : α → State → State) (s : State) : forEach [x] g s = g x s := rfl

/-! The link -/

theorem exec_receive {k : State → State} {s : State} (h : s.on Reg.FOV_MIR_STATUS_LINK_UP = true) :
    receive k s = .next (settle (k (bump Reg.FOV_MIR_RX_CNT s))) := if_pos h

@[reducible] def regMask (s : State) : State := { s with regs := [] }

/-- The keys of the mailboxes' block. -/
@[reducible] def mbxKey (k : Nat) : Prop := 0x90000 * 32 ≤ k ∧ k < 0xA0000 * 32

theorem within_forceLock {m : Nat} (hm : m < 64) (s : State) : Within mbxKey regMask s (forceLock m s) := by
  have howner : mbxKey (Reg.MBX_BOX_LOCK_OWNER m).key := by simp only [mbxKey, Field.key, Reg.MBX_BOX_LOCK_OWNER]; omega
  unfold forceLock
  split_ifs
  · exact .refl _ _ _
  · exact .bump (.setF (.refl _ _ _) _ howner (by rfl)) (by decide) (by rfl)

theorem within_forceOwner (o : Nat) (s : State) : Within mbxKey regMask s (forceOwner o s) :=
  .forEach (.refl _ _ _) fun _ hm => within_forceLock (List.mem_range.mp (List.mem_filter.mp hm).1)

/-- The link shown as down (R367). -/
def linkLost (s : State) : State :=
  let s1 := setF Reg.FOV_MIR_CTRL_RESYNC_DONE 0 (setF Reg.FOV_MIR_STATUS_LANES 0 (setF Reg.FOV_MIR_STATUS_LINK_UP 0 s))
  let s2 := forceOwner 0x21 (bump Reg.FOV_MIR_LINK_DOWN_CNT s1)
  { s2 with fov := { s2.fov with resyncing := false, received := [], naks := [], commitsDue := [] } }

theorem get_linkLost {s : State} {f : Field} (hf : ¬ mbxKey f.key) : (linkLost s).get f = (bump Reg.FOV_MIR_LINK_DOWN_CNT
    (setF Reg.FOV_MIR_CTRL_RESYNC_DONE 0 (setF Reg.FOV_MIR_STATUS_LANES 0 (setF Reg.FOV_MIR_STATUS_LINK_UP 0 s)))).get f :=
  (get_of_regs f rfl).trans ((within_forceOwner _ _).get hf)

theorem linkLost_fields (s : State) : (linkLost s).get Reg.FOV_MIR_STATUS_LINK_UP = 0 ∧ (linkLost s).get Reg.FOV_MIR_STATUS_LANES = 0
    ∧ (linkLost s).get Reg.FOV_MIR_CTRL_RESYNC_DONE = 0
    ∧ (linkLost s).get Reg.FOV_MIR_LINK_DOWN_CNT = (s.get Reg.FOV_MIR_LINK_DOWN_CNT + 1) % 2 ^ 32 ∧ (linkLost s).fov.resyncing = false := by
  refine ⟨?_, ?_, ?_, ?_, rfl⟩
  · rw [get_linkLost (by decide), get_bump_ne (by decide), get_setF_ne _ _ _ _ (by decide), get_setF_ne _ _ _ _ (by decide), get_setF_zero]
  · rw [get_linkLost (by decide), get_bump_ne (by decide), get_setF_ne _ _ _ _ (by decide), get_setF_zero]
  · rw [get_linkLost (by decide), get_bump_ne (by decide), get_setF_zero]
  · rw [get_linkLost (by decide), get_bump_self, get_setF_ne _ _ _ _ (by decide), get_setF_ne _ _ _ _ (by decide),
      get_setF_ne _ _ _ _ (by decide)]
    rfl

/-! Data and commits -/

/-- A line that came whole is kept until its commit (R117). -/
def lineLanded (key : Nat) (b : Block) (s : State) : State :=
  { s with fov := { s.fov with
      received := Assoc.set s.fov.received key { data := b, mirrored := true, since := s.clock }
      naks := Assoc.erase s.fov.naks key } }

/-- DATA whose lines leave no commit waiting. -/
theorem exec_data_of_landed {s u : State} {lines : List (Nat × (Block × Nat))} (hup : s.on Reg.FOV_MIR_STATUS_LINK_UP = true)
    (hu : forEach lines landLine (bump Reg.FOV_MIR_RX_CNT s) = u) (hc : u.fov.commitsDue = []) :
    exec (.data lines) s = .next (settle u) := by
  subst hu
  rw [exec_data, execData, exec_receive hup]
  exact congrArg (fun t => Host.Outcome.next (settle t)) (if_pos (List.isEmpty_iff.mpr hc))

theorem landLine_eq (l : Nat × (Block × Nat)) (s : State) : landLine l s = if crc32c (leBytes 4096 l.2.1) = l.2.2 then
    lineLanded l.1 l.2.1 s else sendMir .blockNak [l.1] { s with fov := { s.fov with naks := Assoc.set s.fov.naks l.1 1 } } := rfl

theorem landLine_of_good {key sc : Nat} {b : Block} (h : crc32c (leBytes 4096 b) = sc) (s : State) :
    landLine (key, (b, sc)) s = lineLanded key b s := by
  rw [landLine_eq]
  exact if_pos h

theorem exec_data_of_good {s : State} {key sc : Nat} {b : Block} (hup : s.on Reg.FOV_MIR_STATUS_LINK_UP = true) (hc : s.fov.commitsDue = [])
    (h : crc32c (leBytes 4096 b) = sc) :
    exec (.data [(key, (b, sc))]) s = .next (settle (lineLanded key b (bump Reg.FOV_MIR_RX_CNT s))) := by
  exact exec_data_of_landed hup ((forEach_singleton _ _ _).trans (landLine_of_good h _)) hc

theorem lineLanded_fields (key : Nat) (b : Block) (s : State) :
    Assoc.find (lineLanded key b (bump Reg.FOV_MIR_RX_CNT s)).fov.received key = some { data := b, mirrored := true, since := s.clock }
    ∧ Keeps [Reg.FOV_MIR_RX_CNT] s (lineLanded key b (bump Reg.FOV_MIR_RX_CNT s)) :=
  ⟨(Assoc.find_set _ _ _ _).trans (if_pos rfl), Keeps.of_eq (t := bump Reg.FOV_MIR_RX_CNT s) (by simp) rfl rfl⟩

/-- A line that fails its check counts as a failed send (R193). -/
def lineFailed (key : Nat) (s : State) : State := { s with fov := { s.fov with naks := Assoc.set s.fov.naks key 1 } }

theorem landLine_of_bad {key sc : Nat} {b : Block} (h : crc32c (leBytes 4096 b) ≠ sc) (s : State) :
    landLine (key, (b, sc)) s = sendMir .blockNak [key] (lineFailed key s) := by
  rw [landLine, if_neg h, lineFailed]

theorem exec_data_of_bad {s : State} {key sc : Nat} {b : Block} (hup : s.on Reg.FOV_MIR_STATUS_LINK_UP = true) (hc : s.fov.commitsDue = [])
    (h : crc32c (leBytes 4096 b) ≠ sc) :
    exec (.data [(key, (b, sc))]) s = .next (settle (sendMir .blockNak [key] (lineFailed key (bump Reg.FOV_MIR_RX_CNT s)))) := by
  exact exec_data_of_landed hup ((forEach_singleton _ _ _).trans (landLine_of_bad h _))
    ((fov_sendMir FovPart.commitsDue (fun _ => rfl) _ _ _).trans hc)

theorem lineFailed_fields {s : State} (key : Nat) (hup : s.on Reg.FOV_MIR_STATUS_LINK_UP = true) (hen : s.on Reg.FOV_MIR_CTRL_ENABLE = true)
    {t : State} (ht : t = sendMir .blockNak [key] (lineFailed key (bump Reg.FOV_MIR_RX_CNT s))) :
    t.fov.received = s.fov.received ∧ Assoc.getD t.fov.naks key 0 = 1 ∧ t.out = .mirror .blockNak (s.mirStream .blockNak) [key] :: s.out
    ∧ Keeps [Reg.FOV_MIR_RX_CNT, Reg.FOV_MIR_TX_CNT] s t := by
  rw [ht]
  have hup' : (lineFailed key (bump Reg.FOV_MIR_RX_CNT s)).on Reg.FOV_MIR_STATUS_LINK_UP = true := (on_setF_ne _ _ _ _ (by decide)).trans hup
  have hen' : (lineFailed key (bump Reg.FOV_MIR_RX_CNT s)).on Reg.FOV_MIR_CTRL_ENABLE = true := (on_setF_ne _ _ _ _ (by decide)).trans hen
  refine ⟨fov_sendMir FovPart.received (fun _ => rfl) _ _ _, ?_, out_sendMir_of_up _ _ hup' hen', ?_⟩
  · rw [fov_sendMir FovPart.naks (fun _ => rfl)]
    exact congrArg (Option.getD · 0) ((Assoc.find_set _ _ _ _).trans (if_pos rfl))
  · exact keeps_sendMir (Keeps.of_eq (t := bump Reg.FOV_MIR_RX_CNT s) (by simp) rfl rfl) (by decide)

/-- The received lines of a commit join the cache (R117). -/
def commitKept (s : State) : State :=
  { s with
    jnl := { s.jnl with lines := s.fov.received.foldl (fun m l => Assoc.set m l.1 l.2) s.jnl.lines }
    fov := { s.fov with received := [], commitsDue := [] } }

/-- A commit that joins those that wait. -/
def commitQueued (n : Nat) (s : State) : State := { s with fov := { s.fov with commitsDue := s.fov.commitsDue ++ [n] } }

theorem ackCommits_of_single {n : Nat} {s : State} (hn : s.fov.naks = []) (hc : s.fov.commitsDue = []) :
    ackCommits (commitQueued n s) = sendMir .commitAck [n] (commitKept s) := by
  have hdue : (commitQueued n s).fov.commitsDue = [n] := congrArg (· ++ [n]) hc
  rw [ackCommits, if_pos (by simp [commitQueued, hn])]
  simp only [hdue, forEach_singleton]
  rfl

theorem commitKept_fields {n : Nat} {s : State} (hup : s.on Reg.FOV_MIR_STATUS_LINK_UP = true) (hen : s.on Reg.FOV_MIR_CTRL_ENABLE = true)
    {t : State} (ht : t = sendMir .commitAck [n] (commitKept (bump Reg.FOV_MIR_RX_CNT s))) :
    t.fov.received = [] ∧ t.jnl.lines = s.fov.received.foldl (fun m l => Assoc.set m l.1 l.2) s.jnl.lines
    ∧ t.out = .mirror .commitAck (s.mirStream .commitAck) [n] :: s.out ∧ Keeps [Reg.FOV_MIR_RX_CNT, Reg.FOV_MIR_TX_CNT] s t := by
  rw [ht]
  have hup' : (commitKept (bump Reg.FOV_MIR_RX_CNT s)).on Reg.FOV_MIR_STATUS_LINK_UP = true := (on_setF_ne _ _ _ _ (by decide)).trans hup
  have hen' : (commitKept (bump Reg.FOV_MIR_RX_CNT s)).on Reg.FOV_MIR_CTRL_ENABLE = true := (on_setF_ne _ _ _ _ (by decide)).trans hen
  refine ⟨fov_sendMir FovPart.received (fun _ => rfl) _ _ _, ?_, out_sendMir_of_up _ _ hup' hen', ?_⟩
  · rw [sendMir_of_up _ _ hup' hen']
    rfl
  · exact keeps_sendMir (Keeps.of_eq (t := bump Reg.FOV_MIR_RX_CNT s) (by simp) rfl rfl) (by decide)

theorem exec_commit_of_waiting {n : Nat} {s : State} (hup : s.on Reg.FOV_MIR_STATUS_LINK_UP = true) (hn : s.fov.naks ≠ []) :
    exec (.commit n) s = .next (settle (commitQueued n (bump Reg.FOV_MIR_RX_CNT s))) := by
  rw [exec_commit, execCommit, exec_receive hup]
  refine congrArg (fun t => Host.Outcome.next (settle t)) (if_neg ?_)
  exact fun h => hn (List.isEmpty_iff.mp h)

/-- What a commit's acknowledgement leaves where no write waits for it (R116). -/
def commitHeard (n : Nat) (s : State) : State :=
  { s with jnl := { s.jnl with commitAcked := max n s.jnl.commitAcked, flights := [] }, fov := { s.fov with naks := [] } }

theorem exec_commitAck_of_idle {n : Nat} {s : State} (hup : s.on Reg.FOV_MIR_STATUS_LINK_UP = true) (hf : s.jnl.flights = []) :
    exec (.commitAck n) s = .next (settle (after (commitHeard n (bump Reg.FOV_MIR_RX_CNT s)))) := by
  have hf' : (bump Reg.FOV_MIR_RX_CNT s).jnl.flights = [] := hf
  rw [exec_commitAck, execCommitAck, exec_receive hup]
  refine congrArg (fun t => Host.Outcome.next (settle (after t))) ?_
  simp only [hf', List.filter_nil, forEach, List.foldl_nil, List.flatMap_nil, List.contains_nil, List.filter_false]
  rfl

/-! Intents -/

/-- The bytes of a list read back where they were written. -/
theorem readBytes_writeBytes {l : List Nat} (h : ∀ b ∈ l, b < 256) (a : Nat) (s : State) : (writeBytes a l s).readBytes a l.length = l := by
  induction l generalizing a s with
  | nil => rfl
  | cons b l ih =>
    rw [writeBytes, List.length_cons, State.readBytes, ih fun c hc => h c (.tail _ hc)]
    rw [readByte_writeBytes_out _ _ _ _ (.inl (Nat.lt_succ_self a)), readByte_writeByte_self, BitVec.toNat_ofNat,
      Nat.mod_eq_of_lt (h b (.head _))]

theorem readBytes_of_mem {s t : State} (h : t.mem = s.mem) (a n : Nat) : t.readBytes a n = s.readBytes a n := by
  induction n generalizing a with
  | zero => rfl
  | succ n ih => rw [State.readBytes, State.readBytes, ih, readByte_of_mem a h]

theorem readEntry_mem (i : Nat) (s : State) : (readEntry i s).mem = s.mem := by
  unfold readEntry
  simp only []
  split_ifs <;> rfl

theorem readEntry_get (i : Nat) (s : State) (f : Field) : (readEntry i s).get f = s.get f := by
  unfold readEntry
  simp only []
  split_ifs <;> rfl

theorem entryBytes_of_mem {s t : State} (h : t.mem = s.mem) (i : Nat) : t.entryBytes i = s.entryBytes i := readBytes_of_mem h _ _

theorem entryGood_of_mem {s t : State} (h : t.mem = s.mem) (i : Nat) : t.entryGood i = s.entryGood i := by
  simp only [State.entryGood, State.headNext, State.extValid, entryBytes_of_mem h]

theorem parseIntent_congr {s t : State} (h : t.mem = s.mem) (hc : t.on Reg.SYS_STRAP_COMPAT = s.on Reg.SYS_STRAP_COMPAT) (i : Nat) :
    t.parseIntent i = s.parseIntent i := by
  simp only [State.parseIntent, State.headNext, entryBytes_of_mem h, hc]

/-- A free head is no intent any more. -/
theorem find_readEntry_of_free {i : Nat} {s : State} (h : (s.entryBytes i).getD 0 0 = 0) : Assoc.find (readEntry i s).jnl.intents i = none := by
  rw [readEntry, if_pos h]
  exact (Assoc.find_erase _ _ _).trans (if_pos rfl)

/-- A good head is the intent that it holds. -/
theorem find_readEntry_of_good {i : Nat} {s : State} (h : (s.entryBytes i).getD 0 0 ∈ [1, 2, 3]) (hg : s.entryGood i = true) :
    Assoc.find (readEntry i s).jnl.intents i = some (s.parseIntent i) := by
  have hrange : 1 ≤ (s.entryBytes i).getD 0 0 ∧ (s.entryBytes i).getD 0 0 ≤ 3 := by
    simp only [List.mem_cons, List.not_mem_nil, or_false] at h
    omega
  rw [readEntry, if_neg (by omega), if_pos (by rw [hg, decide_eq_true hrange.2, Bool.and_true, Bool.and_true, decide_eq_true hrange.1])]
  exact (Assoc.find_set _ _ _ _).trans (if_pos rfl)

theorem entryBytes_takeEntry {i : Nat} {e : List Nat} (hlen : e.length = 256) (hb : ∀ b ∈ e, b < 256) (s : State) :
    (writeBytes (entryAt i) (e.take 256) s).entryBytes i = e := by
  have htake : e.take 256 = e := List.take_of_length_le hlen.le
  rw [htake, State.entryBytes, ← hlen]
  exact readBytes_writeBytes hb _ _

theorem takeEntry_fields {i : Nat} {e : List Nat} (hlen : e.length = 256) (hb : ∀ b ∈ e, b < 256) (s : State) {t : State}
    (ht : t = takeEntry i e s) :
    t.readBytes (entryAt i) 256 = e ∧ (∀ x, x < entryAt i ∨ entryAt i + 256 ≤ x → t.readByte x = s.readByte x)
    ∧ (e.getD 0 0 = 0 → Assoc.find t.jnl.intents i = none)
    ∧ (e.getD 0 0 ∈ [1, 2, 3] → t.entryGood i = true → Assoc.find t.jnl.intents i = some (t.parseIntent i)) := by
  rw [ht, takeEntry]
  have hmem := readEntry_mem i (writeBytes (entryAt i) (e.take 256) s)
  have hbytes := entryBytes_takeEntry (i := i) hlen hb s
  refine ⟨(entryBytes_of_mem hmem i).trans hbytes, fun x hx => ?_, fun h => ?_, fun h hg => ?_⟩
  · rw [readByte_of_mem x hmem, readByte_writeBytes_out _ _ _ _ (by rw [List.length_take, hlen]; exact hx)]
  · exact find_readEntry_of_free (by rw [hbytes]; exact h)
  · rw [entryGood_of_mem hmem] at hg
    rw [parseIntent_congr hmem (congrArg (· != 0) (readEntry_get i _ _))]
    exact find_readEntry_of_good (by rw [hbytes]; exact h) hg

theorem exec_intentAck_of_none {i : Nat} {s : State} (hup : s.on Reg.FOV_MIR_STATUS_LINK_UP = true) (hu : s.jnl.updates = []) :
    exec (.intentAck i) s = .next (settle (bump Reg.FOV_MIR_RX_CNT s)) := by
  have hu' : (bump Reg.FOV_MIR_RX_CNT s).jnl.updates = [] := hu
  rw [exec_intentAck, execIntentAck, exec_receive hup]
  simp only [hu', List.find?_nil]

/-! The ceiling -/

/-- The partner's ceiling noted (R120). -/
def ceilingHeard (mib : Nat) (h : Bool) (s : State) : State := { s with jnl := { s.jnl with partnerCeiling := mib, partnerPackHealthy := h } }

theorem keeps_updateCeiling {fs : List Field} {s t : State} (h : Keeps fs s t) (htx : Reg.FOV_MIR_TX_CNT.key ∈ fs.map Field.key)
    (hc : Reg.JNL_CEILING_CEIL_MIB.key ∈ fs.map Field.key) : Keeps fs s (updateCeiling t) := by
  refine Keeps.setF _ _ hc (keeps_when (h.of_eq rfl rfl) (keeps_sendMir (h.of_eq rfl rfl) htx))

theorem jnl_updateCeiling {α : Type} (v : JnlPart → α) (hv : ∀ j n, v { j with ownCeiling := n } = v j) (s : State) :
    v (updateCeiling s).jnl = v s.jnl := by
  have hsend (k : MirKind) (args : List Nat) (u : State) : (sendMir k args u).jnl = u.jnl := by
    unfold sendMir passStream
    split_ifs <;> rfl
  have hsame (u : State) : (updateCeiling u).jnl = { u.jnl with ownCeiling := u.ownCeiling } :=
    (when_of_eq _ State.jnl (hsend _ _ _)).trans rfl
  rw [hsame, hv]

theorem ceilingInForce_ceilingHeard {s : State} {mib : Nat} {h : Bool} (hl : s.partnerLive = true) (hgood : s.packHealthy = true ∨ h = true) :
    (ceilingHeard mib h (bump Reg.FOV_MIR_RX_CNT s)).ceilingInForce = max s.ownCeiling mib := by
  have hget {f : Field} (hf : Reg.FOV_MIR_RX_CNT.key ≠ f.key) : (ceilingHeard mib h (bump Reg.FOV_MIR_RX_CNT s)).get f = s.get f :=
    (get_of_regs f rfl).trans (get_bump_ne hf)
  have hlive : (ceilingHeard mib h (bump Reg.FOV_MIR_RX_CNT s)).partnerLive = true := by
    rw [← hl, State.partnerLive, State.on, hget (by decide), State.partnerLive, State.on]
  have hown : (ceilingHeard mib h (bump Reg.FOV_MIR_RX_CNT s)).ownCeiling = s.ownCeiling := by
    rw [State.ownCeiling, hget (by decide)]
    rfl
  have hhealthy : (ceilingHeard mib h (bump Reg.FOV_MIR_RX_CNT s)).packHealthy = s.packHealthy := by
    rw [State.packHealthy, hown, State.on, hget (by decide)]
    rfl
  have hkept : (ceilingHeard mib h (bump Reg.FOV_MIR_RX_CNT s)).jnl.partnerPackHealthy = h := rfl
  rw [State.ceilingInForce, if_pos hlive, hhealthy, hkept, if_neg (by rcases hgood with hg | hg <;> simp [hg]), hown]
  rfl

theorem ceiling_fields {s : State} (mib : Nat) (h : Bool) (hl : s.partnerLive = true) {t : State}
    (ht : t = updateCeiling (ceilingHeard mib h (bump Reg.FOV_MIR_RX_CNT s))) :
    t.jnl.partnerCeiling = mib ∧ t.jnl.partnerPackHealthy = h
    ∧ (s.packHealthy = true ∨ h = true → t.get Reg.JNL_CEILING_CEIL_MIB = max s.ownCeiling mib % 2 ^ Reg.JNL_CEILING_CEIL_MIB.width)
    ∧ Keeps [Reg.FOV_MIR_RX_CNT, Reg.FOV_MIR_TX_CNT, Reg.JNL_CEILING_CEIL_MIB] s t := by
  rw [ht]
  refine ⟨jnl_updateCeiling JnlPart.partnerCeiling (fun _ _ => rfl) _, jnl_updateCeiling JnlPart.partnerPackHealthy (fun _ _ => rfl) _,
    fun hgood => ?_, ?_⟩
  · rw [updateCeiling, get_setF_self, ceilingInForce_ceilingHeard hl hgood]
  · exact keeps_updateCeiling (Keeps.of_eq (t := bump Reg.FOV_MIR_RX_CNT s) (by simp) rfl rfl) (by decide) (by decide)

/-! Slots -/

theorem bitOf_lt_two (n b : Nat) : bitOf n b < 2 := Nat.mod_lt _ (by decide)

theorem b2n_bitOf (n b : Nat) : b2n (bitOf n b == 1) = bitOf n b := by
  have hlt := bitOf_lt_two n b
  interval_cases bitOf n b <;> rfl

/-- The fields of a slot that the standby copies from the active's state (R302). -/
def slotCopyFields (n : Nat) : List Field :=
  [Reg.SLT_CTRL_EN12 n, Reg.SLT_CTRL_EN5 n, Reg.SLT_CTRL_SPIN n, Reg.SAS_SLOT_CTRL_AWAKE n]

theorem followSlot_self {n : Nat} (hn : n < 108) (a b c d : Nat) (u : State) {t : State}
    (ht : t = followSlot n (bitOf a n == 1) (bitOf b n == 1) (bitOf c n == 1) (bitOf d n == 1) u) :
    t.get (Reg.SLT_CTRL_EN12 n) = bitOf a n ∧ t.get (Reg.SLT_CTRL_EN5 n) = bitOf b n ∧ t.get (Reg.SLT_CTRL_SPIN n) = bitOf c n
    ∧ t.get (Reg.SAS_SLOT_CTRL_AWAKE n) = bitOf d n := by
  have hmod (x : Nat) : bitOf x n % 2 ^ 1 = bitOf x n := Nat.mod_eq_of_lt (bitOf_lt_two x n)
  rw [ht, followSlot]
  simp only [b2n_bitOf]
  refine ⟨?_, ?_, ?_, ?_⟩ <;>
    simp (disch := simp only [Field.key, Reg.SLT_CTRL_EN12, Reg.SLT_CTRL_EN5, Reg.SLT_CTRL_SPIN, Reg.SLT_STATUS_ON12, Reg.SLT_STATUS_ON5,
      Reg.SAS_SLOT_CTRL_AWAKE]; omega) only [get_setF_ne, get_setF_self]
  all_goals exact hmod _

theorem keeps_followSlot (n : Nat) (a b c d : Bool) (u : State) :
    Keeps (slotCopyFields n ++ [Reg.SLT_STATUS_ON12 n, Reg.SLT_STATUS_ON5 n]) u (followSlot n a b c d u) := by
  simp [followSlot, slotCopyFields]

theorem followSlot_ne {n m : Nat} (hn : n < 108) (hm : m < 108) (h : n ≠ m) (a b c d : Bool) (u : State) {f : Field} (hf : f ∈ slotCopyFields m) :
    (followSlot n a b c d u).get f = u.get f := by
  refine (keeps_followSlot n a b c d u).get ?_
  simp only [slotCopyFields, List.mem_cons, List.not_mem_nil, or_false] at hf
  rcases hf with rfl | rfl | rfl | rfl <;>
    simp only [slotCopyFields, List.cons_append, List.nil_append, List.map_cons, List.map_nil, List.mem_cons, List.not_mem_nil, or_false,
      Field.key, Reg.SLT_CTRL_EN12, Reg.SLT_CTRL_EN5, Reg.SLT_CTRL_SPIN, Reg.SLT_STATUS_ON12, Reg.SLT_STATUS_ON5, Reg.SAS_SLOT_CTRL_AWAKE] <;>
    omega

/-- Every slot follows the active's (R302). -/
def slotsFollowed (a b c d : Nat) (s : State) : State :=
  forEach allSlots (fun n u => followSlot n (bitOf a n == 1) (bitOf b n == 1) (bitOf c n == 1) (bitOf d n == 1) u) s

theorem slotsFollowed_fields (a b c d : Nat) (s : State) {n : Nat} (hn : n ∈ allSlots) {t : State} (ht : t = slotsFollowed a b c d s) :
    t.get (Reg.SLT_CTRL_EN12 n) = bitOf a n ∧ t.get (Reg.SLT_CTRL_EN5 n) = bitOf b n ∧ t.get (Reg.SLT_CTRL_SPIN n) = bitOf c n
    ∧ t.get (Reg.SAS_SLOT_CTRL_AWAKE n) = bitOf d n := by
  have hn' := List.mem_range.mp hn
  rw [ht]
  refine forEach_of_mem (Q := fun v => v.get (Reg.SLT_CTRL_EN12 n) = bitOf a n ∧ v.get (Reg.SLT_CTRL_EN5 n) = bitOf b n
    ∧ v.get (Reg.SLT_CTRL_SPIN n) = bitOf c n ∧ v.get (Reg.SAS_SLOT_CTRL_AWAKE n) = bitOf d n) hn (fun u => followSlot_self hn' a b c d u rfl)
    (fun m hm u hu => ?_) s
  by_cases hmn : m = n
  · exact followSlot_self hn' a b c d u (by rw [hmn])
  · have hkeep {f : Field} (hf : f ∈ slotCopyFields n) := followSlot_ne (List.mem_range.mp hm) hn' hmn (bitOf a m == 1) (bitOf b m == 1)
      (bitOf c m == 1) (bitOf d m == 1) u hf
    rw [hkeep (by simp [slotCopyFields]), hkeep (by simp [slotCopyFields]), hkeep (by simp [slotCopyFields]), hkeep (by simp [slotCopyFields])]
    exact hu

theorem mem_slotsFollowed (a b c d : Nat) (s : State) : (slotsFollowed a b c d s).mem = s.mem := by
  unfold slotsFollowed
  rw [mem_forEach]
  exact fun _ _ => rfl

theorem exec_slotState_of_standby {a b c d : Nat} {s : State} (hup : s.on Reg.FOV_MIR_STATUS_LINK_UP = true) (hm : s.mode = Mode.standby) :
    exec (.slotState a b c d) s = .next (settle (sendMir .slotAck [(slotsFollowed a b c d (bump Reg.FOV_MIR_RX_CNT s)).onBits]
      (slotsFollowed a b c d (bump Reg.FOV_MIR_RX_CNT s)))) := by
  rw [exec_slotState, execSlotState, exec_receive hup]
  exact congrArg (fun t => Host.Outcome.next (settle t)) (if_pos ((get_bump_ne (by decide)).trans hm))

/-- The partner's report on a slot (R302). -/
def partnerShown (on' n : Nat) (s : State) : State :=
  let s1 := setF (Reg.SLT_STATUS_PARTNER_ON n) (bitOf on' n) s
  when (s.on (Reg.SLT_STATUS_PARTNER_ON n)) (dropAwake n) s1

theorem keeps_partnerShown {fs : List Field} {on' n : Nat} {s t : State} (h : Keeps fs s t) (hp : (Reg.SLT_STATUS_PARTNER_ON n).key ∈ fs.map Field.key)
    (ha : (Reg.SAS_SLOT_CTRL_AWAKE n).key ∈ fs.map Field.key) : Keeps fs s (partnerShown on' n t) := by
  have hset : Keeps fs s (setF (Reg.SLT_STATUS_PARTNER_ON n) (bitOf on' n) t) := h.setF _ _ hp
  exact keeps_when hset (keeps_when hset (hset.setF _ _ ha))

theorem slots_partnerShown (on' n : Nat) (s : State) : (partnerShown on' n s).pwr = s.pwr :=
  (when_of_eq _ State.pwr ((when_of_eq _ State.pwr rfl).trans rfl)).trans rfl

theorem get_partnerShown_self {n : Nat} (hn : n < 108) (on' : Nat) (s : State) :
    (partnerShown on' n s).get (Reg.SLT_STATUS_PARTNER_ON n) = bitOf on' n := by
  have hne : (Reg.SAS_SLOT_CTRL_AWAKE n).key ≠ (Reg.SLT_STATUS_PARTNER_ON n).key := by
    simp only [Field.key, Reg.SAS_SLOT_CTRL_AWAKE, Reg.SLT_STATUS_PARTNER_ON]; omega
  refine (when_of_eq _ (State.get · _) (when_of_eq _ (State.get · _) (get_setF_ne _ _ _ _ hne))).trans ?_
  exact get_setF_of_lt (bitOf_lt_two on' n) s

theorem get_partnerShown_ne {n m : Nat} (h : n ≠ m) (on' : Nat) (s : State) :
    (partnerShown on' n s).get (Reg.SLT_STATUS_PARTNER_ON m) = s.get (Reg.SLT_STATUS_PARTNER_ON m) := by
  refine (keeps_partnerShown (fs := [Reg.SLT_STATUS_PARTNER_ON n, Reg.SAS_SLOT_CTRL_AWAKE n]) (Keeps.refl _ s) (by simp) (by simp)).get ?_
  simp only [List.map_cons, List.map_nil, List.mem_cons, List.not_mem_nil, or_false, Field.key, Reg.SAS_SLOT_CTRL_AWAKE,
    Reg.SLT_STATUS_PARTNER_ON]
  omega

/-- Where no power-off waits for the report, it is shown and nothing else follows. -/
theorem exec_slotAck_of_settled {on' : Nat} {s : State} (hup : s.on Reg.FOV_MIR_STATUS_LINK_UP = true)
    (hw : ∀ n ∈ allSlots, (s.slot n).offWait = 0) :
    exec (.slotAck on') s = .next (settle (forEach allSlots (partnerShown on') (bump Reg.FOV_MIR_RX_CNT s))) := by
  rw [exec_slotAck, execSlotAck, exec_receive hup]
  refine congrArg (fun t => Host.Outcome.next (settle t)) ?_
  refine forEach_congr (I := fun u => u.pwr = s.pwr) (fun n hn u hu => ?_) rfl
  have hpwr : (partnerShown on' n u).pwr = s.pwr := (slots_partnerShown on' n u).trans hu
  have hoff : ((partnerShown on' n u).slot n).offWait = 0 := by rw [slot_congr (congrArg PwrPart.slots hpwr), hw n hn]
  refine ⟨if_neg ?_, hpwr⟩
  change ¬ (((partnerShown on' n u).slot n).offWait != 0 && bitOf on' n == 0) = true
  rw [hoff]
  simp

theorem partnersShown_fields (on' : Nat) (s : State) {t : State} (ht : t = forEach allSlots (partnerShown on') (bump Reg.FOV_MIR_RX_CNT s)) :
    (∀ n ∈ allSlots, t.get (Reg.SLT_STATUS_PARTNER_ON n) = bitOf on' n)
    ∧ Keeps (Reg.FOV_MIR_RX_CNT :: allSlots.map Reg.SLT_STATUS_PARTNER_ON ++ allSlots.map Reg.SAS_SLOT_CTRL_AWAKE) s t := by
  rw [ht]
  refine ⟨fun n hn => ?_, ?_⟩
  · refine forEach_of_mem (Q := fun v => v.get (Reg.SLT_STATUS_PARTNER_ON n) = bitOf on' n) hn
      (get_partnerShown_self (List.mem_range.mp hn) on') (fun m hm u hu => ?_) _
    by_cases hmn : m = n
    · rw [hmn]
      exact get_partnerShown_self (List.mem_range.mp hn) on' u
    · exact (get_partnerShown_ne hmn on' u).trans hu
  · refine keeps_forEach ((Keeps.refl _ s).setF _ _ (by simp)) fun n hn u hu => keeps_partnerShown hu ?_ ?_
    · exact List.mem_map_of_mem (List.mem_append_left _ (.tail _ (List.mem_map_of_mem hn)))
    · exact List.mem_map_of_mem (List.mem_append_right _ (List.mem_map_of_mem hn))

/-! Fans -/

/-- The state of the partner's fans as it comes (R351). -/
def fansHeard (l : List (Nat × Nat)) (s : State) : State :=
  forEach l.zipIdx (fun c u => if c.2 < 6 then storeFanState c.2 c.1.1 c.1.2 u else u) s

theorem fansHeard_fields (l : List (Nat × Nat)) (s : State) {t : State} (ht : t = fansHeard l (bump Reg.FOV_MIR_RX_CNT s)) :
    (∀ c a v, c < 6 → l[c]? = some (a, v) → (t.fanChan c).loadAngle = a ∧ (t.fanChan c).loadVec = v) ∧ Keeps [Reg.FOV_MIR_RX_CNT] s t := by
  rw [ht]
  refine ⟨fun c a v hc hl => ?_, ?_⟩
  · have hstore (u : State) : ((storeFanState c a v u).fanChan c).loadAngle = a ∧ ((storeFanState c a v u).fanChan c).loadVec = v := by
      rw [storeFanState, fanChan_onFanChan_self]
      exact ⟨rfl, rfl⟩
    refine forEach_of_mem (Q := fun u => (u.fanChan c).loadAngle = a ∧ (u.fanChan c).loadVec = v)
      (x := ((a, v), c)) (List.mem_zipIdx_iff_getElem?.mpr hl) (fun u => ?_) (fun y hy u hu => ?_) _
    · rw [if_pos hc]
      exact hstore u
    · split_ifs
      · by_cases hyc : y.2 = c
        · have hy' := List.mem_zipIdx_iff_getElem?.mp hy
          rw [hyc, hl] at hy'
          rw [hyc, ← Option.some.inj hy']
          exact hstore u
        · rw [storeFanState, State.fanChan, onFanChan]
          simp only [Assoc.getD_put, if_neg hyc]
          exact hu
      · exact hu
  · refine keeps_forEach (by simp) fun y _ u hu => ?_
    split_ifs
    · exact hu.of_eq rfl rfl
    · exact hu

/-! Messages about the configuration, the role and a resync -/

theorem substitution_fields (j : Fin 8) {v l p : Nat} (hv : v < 2) (hl : l < 128) (hp : p < 128) (s : State) {t : State}
    (ht : t = setF (Reg.SAS_SUB_VALID j.val) v (setF (Reg.SAS_SUB_LOGICAL j.val) l (setF (Reg.SAS_SUB_PHYSICAL j.val) p
      (bump Reg.FOV_MIR_RX_CNT s)))) :
    t.get (Reg.SAS_SUB_VALID j.val) = v ∧ t.get (Reg.SAS_SUB_LOGICAL j.val) = l ∧ t.get (Reg.SAS_SUB_PHYSICAL j.val) = p
    ∧ Keeps [Reg.FOV_MIR_RX_CNT, Reg.SAS_SUB_VALID j.val, Reg.SAS_SUB_LOGICAL j.val, Reg.SAS_SUB_PHYSICAL j.val] s t := by
  rw [ht]
  have hvl : (Reg.SAS_SUB_VALID j.val).key ≠ (Reg.SAS_SUB_LOGICAL j.val).key := by
    simp only [Field.key, Reg.SAS_SUB_VALID, Reg.SAS_SUB_LOGICAL]; omega
  have hvp : (Reg.SAS_SUB_VALID j.val).key ≠ (Reg.SAS_SUB_PHYSICAL j.val).key := by
    simp only [Field.key, Reg.SAS_SUB_VALID, Reg.SAS_SUB_PHYSICAL]; omega
  have hlp : (Reg.SAS_SUB_LOGICAL j.val).key ≠ (Reg.SAS_SUB_PHYSICAL j.val).key := by
    simp only [Field.key, Reg.SAS_SUB_LOGICAL, Reg.SAS_SUB_PHYSICAL]; omega
  refine ⟨get_setF_of_lt hv _, ?_, ?_, by simp⟩
  · rw [get_setF_ne _ _ _ _ hvl]
    exact get_setF_of_lt hl _
  · rw [get_setF_ne _ _ _ _ hvp, get_setF_ne _ _ _ _ hlp]
    exact get_setF_of_lt hp _

/-- RELINQUISH heard for the first time (R362). -/
def relinquishHeard (r : Nat) (s : State) : State :=
  event Reg.FOV_EVENT_RELINQUISH_RX Reg.FOV_RELINQUISH_RX_CNT { s with fov := { s.fov with relqHeard := true, partnerReason := r } }

theorem relinquishHeard_fields (r : Nat) (s : State) {t : State} (ht : t = relinquishHeard r (bump Reg.FOV_MIR_RX_CNT s)) :
    t.fov.relqHeard = true ∧ t.fov.partnerReason = r ∧ t.get Reg.FOV_EVENT_RELINQUISH_RX = 1
    ∧ Keeps [Reg.FOV_MIR_RX_CNT, Reg.FOV_EVENT_RELINQUISH_RX, Reg.FOV_RELINQUISH_RX_CNT] s t := by
  rw [ht]
  refine ⟨rfl, rfl, get_event_flag _ _ _ (by decide) (by decide), ?_⟩
  exact Keeps.event _ _ (by decide) (by decide) (Keeps.of_eq (t := bump Reg.FOV_MIR_RX_CNT s) (by simp) rfl rfl)

/-- A resync has begun: what the module held is discarded (R367). -/
def resyncBegun (s : State) : State :=
  { discardCopy s with fov := { s.fov with resyncing := true, received := [], naks := [], commitsDue := [] } }

/-- A resync with no line and no entry so far keeps the same lines. -/
theorem ackCommits_resyncBegun (s : State) : ackCommits (resyncBegun s) = resyncBegun s := by
  have hnone : (resyncBegun s).fov.naks.isEmpty = true := rfl
  rw [ackCommits, if_pos hnone]
  rfl

theorem exec_resync_of_first {s : State} (hup : s.on Reg.FOV_MIR_STATUS_LINK_UP = true) (hr : s.fov.resyncing = false) :
    exec (.resync [] []) s = .next (settle (resyncBegun (bump Reg.FOV_MIR_RX_CNT s))) := by
  have hr' : (bump Reg.FOV_MIR_RX_CNT s).fov.resyncing = false := hr
  rw [exec_resync, execResync, exec_receive hup]
  refine congrArg (fun t => Host.Outcome.next (settle t)) ?_
  simp only [forEach, List.foldl_nil, hr', Bool.false_eq_true, if_false]
  exact (if_pos rfl).trans (ackCommits_resyncBegun _)

/-- The standby is synchronised (R367). -/
def resyncDone (s : State) : State :=
  setF Reg.FOV_MIR_CTRL_RESYNC_DONE 1 { s with fov := { s.fov with resyncing := false, synced := true } }

theorem exec_resyncComplete_of_standby {s : State} (hup : s.on Reg.FOV_MIR_STATUS_LINK_UP = true) (ha : s.active = false)
    (hm : s.mode = Mode.standby) : exec .resyncComplete s = .next (settle (testPreferred (resyncDone s))) := by
  have hhold : s.inHold 2 = false := by simp [State.inHold, hm, Mode.standby, Mode.takeover]
  rw [exec_resyncComplete, execResyncComplete, if_neg (by simp [hup])]
  exact (if_neg (by simp [ha])).trans ((if_neg (by simp [hhold])).trans (if_pos hm))

/-! A block that failed its check at the partner -/

/-- The failed send noted (R193). -/
def nakCounted (key n : Nat) (s : State) : State := { s with fov := { s.fov with naks := Assoc.set s.fov.naks key n } }

/-- NAK heard. -/
def nakHeard (s : State) : State := setF Reg.INT_EVENT_MIRROR_CRC 1 (bump Reg.FOV_MIR_RX_CNT s)

theorem nakHeard_naks (s : State) : (nakHeard s).fov.naks = s.fov.naks := rfl

theorem nakHeard_lines (s : State) : (nakHeard s).jnl.lines = s.jnl.lines := rfl

theorem exec_blockNak_of_first {key : Nat} {l : Line} {s : State} (hup : s.on Reg.FOV_MIR_STATUS_LINK_UP = true)
    (hn : Assoc.getD s.fov.naks key 0 < 2) (hl : Assoc.find s.jnl.lines key = some l) :
    exec (.blockNak key) s = .next (settle (bump Reg.INT_MIRROR_CRC_CNT (sendMir .data [keyVol key, keyLba key, l.data, l.sidecar]
      (nakCounted key (Assoc.getD s.fov.naks key 0 + 1) (nakHeard s))))) := by
  rw [exec_blockNak, execBlockNak, exec_receive hup]
  refine congrArg (fun t => Host.Outcome.next (settle t)) ?_
  refine (if_neg (by rw [← nakHeard, nakHeard_naks]; omega)).trans ?_
  rw [← nakHeard, nakHeard_lines, hl, nakHeard_naks]
  rfl

theorem nakCounted_fields {key : Nat} {l : Line} {s : State} (hup : s.on Reg.FOV_MIR_STATUS_LINK_UP = true)
    (hen : s.on Reg.FOV_MIR_CTRL_ENABLE = true) {n : Nat} {t : State}
    (ht : t = bump Reg.INT_MIRROR_CRC_CNT (sendMir .data [keyVol key, keyLba key, l.data, l.sidecar] (nakCounted key n (nakHeard s)))) :
    Assoc.getD t.fov.naks key 0 = n
    ∧ t.out = .mirror .data (s.mirStream .data) [keyVol key, keyLba key, l.data, l.sidecar] :: s.out
    ∧ t.get Reg.INT_EVENT_MIRROR_CRC = 1 ∧ t.get Reg.INT_MIRROR_CRC_CNT = (s.get Reg.INT_MIRROR_CRC_CNT + 1) % 2 ^ 32
    ∧ Keeps [Reg.FOV_MIR_RX_CNT, Reg.FOV_MIR_TX_CNT, Reg.INT_EVENT_MIRROR_CRC, Reg.INT_MIRROR_CRC_CNT] s t := by
  have hget (f : Field) : (nakCounted key n (nakHeard s)).get f = (nakHeard s).get f := get_of_regs f rfl
  have hon {f : Field} (hr : Reg.FOV_MIR_RX_CNT.key ≠ f.key) (hi : Reg.INT_EVENT_MIRROR_CRC.key ≠ f.key) :
      (nakCounted key n (nakHeard s)).on f = s.on f := by
    rw [State.on, hget, nakHeard, get_setF_ne _ _ _ _ hi, get_bump_ne hr, State.on]
  have hup' := (hon (f := Reg.FOV_MIR_STATUS_LINK_UP) (by decide) (by decide)).trans hup
  have hen' := (hon (f := Reg.FOV_MIR_CTRL_ENABLE) (by decide) (by decide)).trans hen
  rw [ht]
  refine ⟨?_, out_sendMir_of_up _ _ hup' hen', ?_, ?_, ?_⟩
  · refine (congrArg (Assoc.getD · key 0) (fov_sendMir FovPart.naks (fun _ => rfl) _ _ _)).trans ?_
    exact congrArg (Option.getD · 0) ((Assoc.find_set _ _ _ _).trans (if_pos rfl))
  · rw [get_bump_ne (by decide), get_sendMir (by decide), hget, nakHeard, get_setF_one rfl]
  · rw [get_bump_self, get_sendMir (by decide), hget, nakHeard, get_setF_ne _ _ _ _ (by decide), get_bump_ne (by decide)]
    rfl
  · refine Keeps.setF _ _ (by decide) (keeps_sendMir (Keeps.of_eq (t := nakHeard s) ?_ rfl rfl) (by decide))
    simp [nakHeard]

/-- After the third failed send the count ends (R193). -/
def nakDropped (key : Nat) (s : State) : State := { s with fov := { s.fov with naks := Assoc.erase s.fov.naks key } }

theorem exec_blockNak_of_third {key : Nat} {l : Line} {s : State} (hup : s.on Reg.FOV_MIR_STATUS_LINK_UP = true)
    (hn : 2 ≤ Assoc.getD s.fov.naks key 0) (hl : Assoc.find s.jnl.lines key = some l) (hb : l.bad = false) :
    exec (.blockNak key) s = .next (settle (after (partnerGone (nakDropped key (nakHeard s))))) := by
  rw [exec_blockNak, execBlockNak, exec_receive hup]
  refine congrArg (fun t => Host.Outcome.next (settle t)) ?_
  refine (if_pos (by rw [← nakHeard, nakHeard_naks]; omega)).trans ?_
  rw [← nakHeard, nakHeard_lines, hl]
  simp only [hb, when, Bool.false_eq_true, if_false]
  rfl

theorem nakDropped_fields (key : Nat) (s : State) {t : State} (ht : t = nakDropped key (nakHeard s)) :
    Assoc.find t.fov.naks key = none ∧ t.get Reg.INT_EVENT_MIRROR_CRC = 1 ∧ Keeps [Reg.FOV_MIR_RX_CNT, Reg.INT_EVENT_MIRROR_CRC] s t := by
  rw [ht]
  refine ⟨(Assoc.find_erase _ _ _).trans (if_pos rfl), ?_, ?_⟩
  · exact (get_of_regs (s := nakHeard s) (t := nakDropped key (nakHeard s)) _ rfl).trans (get_setF_one rfl _)
  · exact Keeps.of_eq (t := nakHeard s) (by simp [nakHeard]) rfl rfl

/-- Settles O25: the mirror link's events and its messages. -/
theorem mirrorCommandsComplete : Obligations.MirrorCommandsComplete := by
  refine ⟨fun s hup => ?down, fun s n hen => ?up, fun s key sc b hup hc => ⟨fun h => ?good, fun h hen => ?bad⟩,
    fun s n hup => ⟨fun hn hc hen => ?kept, fun hn => ?waits⟩, fun s n hup hf => ?acked, fun s i e hup hlen hb => ?intent,
    fun s i hup hu => ?intentAcked, fun s mib h hup hl => ?ceiling, fun s a b c d hup hm => ?slots, fun s ha hup hen => ?slotsSent,
    fun s on' hup hw => ?slotsAcked, fun s l hup => ?fans, fun s ha => ?fansSent, fun s j v l p hup hv hl hp => ?config,
    fun s r hup hr => ?relinquished, fun s hup hr => ?resync, fun s hup ha hm => ?resynced, fun s key l hup hen hn hl => ?nak,
    fun s key l hup hn hl hb => ?lastNak⟩
  case down =>
    refine .of_next (g := fun t => settle (partnerGone t)) (t := linkLost s) ?_ (linkLost_fields s)
    rw [exec_mirrorLinkDown, execMirrorLinkDown, if_pos hup, linkLost]
  case up =>
    refine .of_next (t := setF Reg.FOV_MIR_STATUS_LANES n.val (setF Reg.FOV_MIR_STATUS_LINK_UP 1 s)) ?_
      ⟨?_, get_setF_of_lt (n.isLt.trans (by decide)) _, by simp⟩
    · rw [exec_mirrorLinkUp, execMirrorLinkUp, if_pos hen]
    · rw [get_setF_ne _ _ _ _ (by decide), get_setF_one rfl]
  case good => exact .of_next (g := settle) (exec_data_of_good hup hc h) (lineLanded_fields key b s)
  case bad => exact .of_next (g := settle) (exec_data_of_bad hup hc h) (lineFailed_fields key hup hen rfl)
  case kept =>
    refine .of_next (g := settle) (t := sendMir .commitAck [n] (commitKept (bump Reg.FOV_MIR_RX_CNT s))) ?_ (commitKept_fields hup hen rfl)
    rw [exec_commit, execCommit, exec_receive hup]
    exact congrArg (fun t => Host.Outcome.next (settle t)) (ackCommits_of_single hn hc)
  case waits =>
    exact .of_next (g := settle) (exec_commit_of_waiting hup hn)
      ⟨rfl, rfl, rfl, Keeps.of_eq (t := bump Reg.FOV_MIR_RX_CNT s) (by simp) rfl rfl⟩
  case acked =>
    exact .of_next (g := fun t => settle (after t)) (t := commitHeard n (bump Reg.FOV_MIR_RX_CNT s)) (exec_commitAck_of_idle hup hf)
      ⟨rfl, Keeps.of_eq (t := bump Reg.FOV_MIR_RX_CNT s) (by simp) rfl rfl⟩
  case intent =>
    refine .of_next (g := fun t => settle (sendMir .intentAck [i] t)) (t := takeEntry i e (bump Reg.FOV_MIR_RX_CNT s)) ?_
      (takeEntry_fields hlen hb (bump Reg.FOV_MIR_RX_CNT s) rfl)
    rw [exec_intent, execIntent, exec_receive hup]
  case intentAcked =>
    exact .of_next (g := settle) (exec_intentAck_of_none hup hu) ⟨get_bump_self _ _, by simp⟩
  case ceiling =>
    refine .of_next (g := settle) (t := updateCeiling (ceilingHeard mib h (bump Reg.FOV_MIR_RX_CNT s))) ?_ (ceiling_fields mib h hl rfl)
    rw [exec_ceiling, execCeiling, exec_receive hup, ceilingHeard]
  case slots =>
    refine .of_next (g := fun t => settle (sendMir .slotAck [t.onBits] t)) (t := slotsFollowed a b c d (bump Reg.FOV_MIR_RX_CNT s))
      (exec_slotState_of_standby hup hm) ⟨fun n hn => slotsFollowed_fields a b c d _ hn rfl, fun x => readByte_of_mem x ?_⟩
    exact mem_slotsFollowed a b c d (bump Reg.FOV_MIR_RX_CNT s)
  case slotsSent =>
    refine .of_next (t := sendMir .slotState s.slotState s) ?_ ⟨out_sendMir_of_up _ _ hup hen, keeps_sendMir (Keeps.refl _ _) (by decide)⟩
    rw [exec_slotStateSend, execSlotStateSend, sendSlotState, if_pos ha]
  case slotsAcked => exact .of_next (g := settle) (exec_slotAck_of_settled hup hw) (partnersShown_fields on' s rfl)
  case fans =>
    refine .of_next (g := settle) (t := fansHeard l (bump Reg.FOV_MIR_RX_CNT s)) ?_ (fansHeard_fields l s rfl)
    rw [exec_fanState, execFanState, exec_receive hup, fansHeard]
  case fansSent =>
    refine .of_next (g := sendMir .fanState (fanChannels.flatMap (fun c => [(s.fanChan c).loadAngle, (s.fanChan c).loadVec]))) (t := s) ?_ rfl
    rw [exec_fanStateSend, execFanStateSend, if_pos ha]
  case config =>
    refine .of_next (g := settle) (t := setF (Reg.SAS_SUB_VALID j.val) v (setF (Reg.SAS_SUB_LOGICAL j.val) l
      (setF (Reg.SAS_SUB_PHYSICAL j.val) p (bump Reg.FOV_MIR_RX_CNT s)))) ?_ (substitution_fields j hv hl hp s rfl)
    rw [exec_config, execConfig, exec_receive hup, takeConfig]
  case relinquished =>
    refine .of_next (g := settle) (t := relinquishHeard r.val (bump Reg.FOV_MIR_RX_CNT s)) ?_ (relinquishHeard_fields r.val s rfl)
    rw [exec_relinquishMessage, execRelinquishMessage, exec_receive hup, hearRelinquish]
    exact congrArg (fun t => Host.Outcome.next (settle t)) (if_neg (Bool.eq_false_iff.mp hr))
  case resync =>
    exact .of_next (g := settle) (t := resyncBegun (bump Reg.FOV_MIR_RX_CNT s)) (exec_resync_of_first hup hr)
      ⟨rfl, rfl, rfl, Keeps.of_eq (t := bump Reg.FOV_MIR_RX_CNT s) (by simp) rfl rfl⟩
  case resynced =>
    exact .of_next (g := fun t => settle (testPreferred t)) (t := resyncDone s) (exec_resyncComplete_of_standby hup ha hm)
      ⟨get_setF_one rfl _, rfl, rfl, Keeps.setF _ _ (by decide) ((Keeps.refl _ s).of_eq rfl rfl)⟩
  case nak => exact .of_next (g := settle) (exec_blockNak_of_first hup hn hl) (nakCounted_fields hup hen rfl)
  case lastNak =>
    exact .of_next (g := fun t => settle (after (partnerGone t))) (t := nakDropped key (nakHeard s)) (exec_blockNak_of_third hup hn hl hb)
      (nakDropped_fields key s rfl)

end Sys2Proof.Machine
end

section
/-! Frames sent on the fabric and what the node does where its view changed: registers of the sending side and of the routes change, and of a
port only its queues (`Sends`). -/

open Sys2Proof

namespace Sys2Proof.Machine

/-- A port but for its queues. -/
def FabPort.view (x : FabPort) : FabPort := { x with nextSeq := 0, unacked := [], waiting := [], lastShare := 3 }

/-- A state follows from another by work that changes registers of some keys, parts of the state that a mask blanks, and of the ports no more
than their queues. -/
structure Sends (P : Nat → Prop) (m : State → State) (s t : State) : Prop where
  within : Within P m s t
  ports : ∀ p, (t.port p).view = (s.port p).view

theorem port_congr {s t : State} (h : t.fab.ports = s.fab.ports) (p : Nat) : t.port p = s.port p := by rw [State.port, h, State.port]

theorem port_onPort (p q : Nat) (f : FabPort → FabPort) (s : State) : (onPort p f s).port q = if p = q then f (s.port p) else s.port q :=
  Assoc.getD_put _ _ _ _ _

theorem port_onPort_self (p : Nat) (f : FabPort → FabPort) (s : State) : (onPort p f s).port p = f (s.port p) :=
  (port_onPort p p f s).trans (if_pos rfl)

section Rules
variable {P Q : Nat → Prop} {m m' : State → State} {s t u : State}

theorem Sends.refl (P : Nat → Prop) (m : State → State) (s : State) : Sends P m s s := ⟨.refl _ _ _, fun _ => rfl⟩

theorem Sends.trans (h : Sends P m s t) (k : Sends P m t u) : Sends P m s u :=
  ⟨h.within.trans k.within, fun p => (k.ports p).trans (h.ports p)⟩

theorem Sends.mono (h : Sends P m s t) (hPQ : ∀ {k}, P k → Q k) (hm : ∀ v, m' (m v) = m' v) : Sends Q m' s t := ⟨h.within.mono hPQ hm, h.ports⟩

theorem Sends.of_within (h : Within P m s t) (hp : t.fab.ports = s.fab.ports) : Sends P m s t := ⟨h, fun p => by rw [port_congr hp]⟩

theorem Sends.get (h : Sends P m s t) {f : Field} (hf : ¬ P f.key) : t.get f = s.get f := h.within.get hf

theorem Sends.on (h : Sends P m s t) {f : Field} (hf : ¬ P f.key) : t.on f = s.on f := h.within.on hf

theorem Sends.setF {f : Field} (v : Nat) (hf : P f.key) (hm : m (setF f v s) = m s) : Sends P m s (setF f v s) :=
  .of_within ((Within.refl _ _ _).setF v hf hm) rfl

theorem Sends.onPort (hm : m (onPort p f s) = m s) (hf : ∀ x, (f x).view = x.view) : Sends P m s (onPort p f s) :=
  ⟨.own rfl hm, fun q => by
    rw [port_onPort]
    split_ifs with h
    · rw [hf, h]
    · rfl⟩

theorem Sends.when (h : Sends P m s t) {c : Bool} {f : State → State} (hf : Sends P m t (f t)) : Sends P m s (when c f t) := by
  cases c with
  | false => exact h
  | true => exact h.trans hf

theorem Sends.forEach (h : Sends P m s t) {α : Type} {l : List α} {f : α → State → State} (hf : ∀ x ∈ l, ∀ v, Sends P m v (f x v)) :
    Sends P m s (forEach l f t) := by
  unfold Machine.forEach
  induction l generalizing t with
  | nil => exact h
  | cons x l ih => exact ih (h.trans (hf x (.head _) t)) fun y hy => hf y (.tail _ hy)

theorem Sends.trained (h : Sends P m s t) (p : Nat) : (t.port p).trained = (s.port p).trained := (congrArg FabPort.trained (h.ports p) :)
theorem Sends.last (h : Sends P m s t) (p : Nat) : (t.port p).last = (s.port p).last := (congrArg FabPort.last (h.ports p) :)
theorem Sends.expect (h : Sends P m s t) (p : Nat) : (t.port p).expect = (s.port p).expect := (congrArg FabPort.expect (h.ports p) :)

end Rules

/-! Sending -/

/-- The keys of the ports' transmit counters; those of the rest of the sending side with them. -/
@[reducible] def txKey (k : Nat) : Prop := 0x100200 * 32 ≤ k ∧ k % 2048 = 640

@[reducible] def sendKey (k : Nat) : Prop :=
  txKey k ∨ k ∈ [Reg.FAB_EVENT_ALT_USED, Reg.FAB_ALT_CNT, Reg.FAB_EVENT_DROP, Reg.FAB_DROP_CNT].map Field.key

/-- What sending changes besides, blanked. -/
@[reducible] def sendMask (s : State) : State :=
  { s with regs := [], out := [], fab := { s.fab with ports := [], nextX := 0, sent := [], lsaSeq := 0 } }

theorem sendMask_setF (f : Field) (v : Nat) (s : State) : sendMask (setF f v s) = sendMask s := rfl

theorem txKey_txCnt (p : Nat) : txKey (Reg.FAB_PORT_TX_CNT p).key := by
  simp only [txKey, Field.key, Reg.FAB_PORT_TX_CNT]; omega

theorem sendKey_txCnt (p : Nat) : sendKey (Reg.FAB_PORT_TX_CNT p).key := Or.inl (txKey_txCnt p)

theorem sends_emit (o : Out) (s : State) : Sends sendKey sendMask s (emit o s) := .of_within (.own rfl rfl) rfl

theorem sends_bumpTx (p : Nat) (s : State) : Sends sendKey sendMask s (bump (Reg.FAB_PORT_TX_CNT p) s) :=
  .setF _ (sendKey_txCnt p) (sendMask_setF _ _ s)

theorem sends_sendOut (p : Nat) (f : Frame) (s : State) : Sends sendKey sendMask s (sendOut p f s) := by
  unfold sendOut
  exact (sends_emit _ s).trans (sends_bumpTx p _)

theorem sends_putOut (p : Nat) (f : Frame) (s : State) : Sends sendKey sendMask s (putOut p f s) := by
  unfold putOut
  split_ifs
  · exact sends_sendOut _ _ _
  · simp only []
    split_ifs
    · exact .onPort rfl fun _ => rfl
    · refine Sends.trans ?_ (sends_sendOut _ _ _)
      exact .onPort rfl fun _ => rfl

theorem sends_dropFrame (s : State) : Sends sendKey sendMask s (dropFrame s) :=
  .of_within (.event (.refl _ _ _) (by decide) (by decide) rfl) rfl

theorem sends_altUsed (s : State) : Sends sendKey sendMask s (event Reg.FAB_EVENT_ALT_USED Reg.FAB_ALT_CNT s) :=
  .of_within (.event (.refl _ _ _) (by decide) (by decide) rfl) rfl

theorem sends_routeFrame (f : Frame) (s : State) : Sends sendKey sendMask s (routeFrame f s) := by
  unfold routeFrame
  split
  · exact (Sends.when (.refl _ _ s) (sends_altUsed s)).trans (sends_putOut _ _ _)
  · exact sends_dropFrame s

theorem sends_sendFrame (k : FabKind) (dst xseq : Nat) (payload : List Nat) (s : State) :
    Sends sendKey sendMask s (sendFrame k dst xseq payload s) := by
  unfold sendFrame
  simp only []
  split_ifs
  · exact .refl _ _ _
  · exact sends_emit _ _
  · exact sends_routeFrame _ _

theorem sends_floodFrame (k : FabKind) (but : Option Nat) (payload : List Nat) (s : State) :
    Sends sendKey sendMask s (floodFrame k but payload s) := by
  unfold floodFrame
  split_ifs
  · exact .refl _ _ _
  · exact .forEach (.refl _ _ _) fun p _ t => sends_putOut p _ t

theorem sends_sendLocal (p : Nat) (k : FabKind) (payload : List Nat) (s : State) : Sends sendKey sendMask s (sendLocal p k payload s) :=
  sends_putOut _ _ _

theorem sends_askBellwether (k : FabKind) (payload : List Nat) (s : State) : Sends sendKey sendMask s (askBellwether k payload s) := by
  unfold askBellwether
  split
  · exact .refl _ _ _
  · exact (sends_sendFrame _ _ _ _ _).trans (.of_within (.own rfl rfl) rfl)

theorem sends_floodLsa (s : State) : Sends sendKey sendMask s (floodLsa s) :=
  (Sends.of_within (Within.own (by rfl) (by rfl)) (by rfl)).trans (sends_floodFrame _ _ _ _)

/-- A list of frames sent. -/
theorem sends_frames (l : List Frame) (s : State) : Sends sendKey sendMask s (forEach l routeFrame s) :=
  .forEach (.refl _ _ _) fun f _ => sends_routeFrame f

/-! What a change of the fabric sets off -/

/-- The keys that a change of the fabric may write besides: the host's, the root's, the address and the routes. -/
@[reducible] def refreshKey (k : Nat) : Prop :=
  sendKey k ∨ (0x10000 * 32 ≤ k ∧ k < 0x20000 * 32) ∨ 0x104000 * 32 ≤ k
    ∨ k ∈ [Reg.FAB_CTRL_ROOT_PORT, Reg.FAB_CTRL_ROOT_PORT_VALID, Reg.FAB_CTRL_KEEP_PORTS, Reg.FAB_ADDR_ADDR, Reg.FAB_ADDR_VALID].map Field.key

/-- What it changes besides, blanked. -/
@[reducible] def refreshMask (s : State) : State :=
  { s with regs := [], out := [], hif := {}, free := 0, fab := { s.fab with
      ports := [], nextX := 0, sent := [], lsaSeq := 0, bellwether := none, office := none, granting := false, ledger := [], queue := [],
      reported := [], pref := none, refused := false, asked := false, table := [], deltas := [] } }

theorem Sends.refresh {s t : State} (h : Sends sendKey sendMask s t) : Sends refreshKey refreshMask s t := h.mono .inl fun _ => rfl

/-- The part of it that an election makes (R399): of the registers the host's alone. -/
@[reducible] def electKey (k : Nat) : Prop := sendKey k ∨ (0x10000 * 32 ≤ k ∧ k < 0x20000 * 32) ∨ 0x300000 * 32 ≤ k

@[reducible] def electMask (s : State) : State :=
  { s with regs := [], out := [], hif := {}, free := 0, fab := { s.fab with
      ports := [], nextX := 0, sent := [], lsaSeq := 0, bellwether := none, office := none, granting := false, ledger := [], queue := [],
      reported := [] } }

theorem refreshKey_of_elect {k : Nat} (h : electKey k) : refreshKey k := by
  rcases h with h | h | h
  · exact .inl h
  · exact .inr (.inl h)
  · exact .inr (.inr (.inl (by omega)))

theorem Sends.elect {s t : State} (h : Sends sendKey sendMask s t) : Sends electKey electMask s t := h.mono .inl fun _ => rfl

theorem Sends.of_elect {s t : State} (h : Sends electKey electMask s t) : Sends refreshKey refreshMask s t :=
  h.mono refreshKey_of_elect fun _ => rfl

theorem sends_writeRoutes (s : State) : Sends refreshKey refreshMask s (writeRoutes s) := by
  have hroute (a : Nat) : refreshKey (Reg.FAB_ROUTE_VALID a).key ∧ refreshKey (Reg.FAB_ROUTE_PRIMARY a).key ∧ refreshKey (Reg.FAB_ROUTE_COST a).key
      ∧ refreshKey (Reg.FAB_ROUTE_ALT a).key ∧ refreshKey (Reg.FAB_ROUTE_ALT_VALID a).key := by
    refine ⟨?_, ?_, ?_, ?_, ?_⟩ <;> refine .inr (.inr (.inl ?_)) <;>
      simp only [Field.key, Reg.FAB_ROUTE_VALID, Reg.FAB_ROUTE_PRIMARY, Reg.FAB_ROUTE_COST, Reg.FAB_ROUTE_ALT, Reg.FAB_ROUTE_ALT_VALID] <;>
      omega
  have hset {f : Field} (hf : refreshKey f.key) (v : Nat) {w u : State} (h : Sends refreshKey refreshMask w u) :
      Sends refreshKey refreshMask w (setF f v u) := h.trans (.of_within (.setF (.refl _ _ _) _ hf rfl) rfl)
  refine .forEach (.refl _ _ _) fun x _ t => ?_
  obtain ⟨hvalid, hprim, hcost, halt, haltv⟩ := hroute x.addr
  simp only []
  split
  · exact hset hvalid _ (.refl _ _ _)
  · next cost p _ =>
    have ht1 := hset hcost (min 65535 cost) (hset hprim p (hset hvalid 1 (.refl _ _ t)))
    split
    · exact hset halt _ (hset haltv _ ht1)
    · exact hset haltv _ ht1

theorem sends_writeRoot (s : State) : Sends refreshKey refreshMask s (writeRoot s) := by
  refine .of_within (.setF (.setF (.setF (.refl _ _ _) _ ?_ rfl) _ ?_ rfl) _ ?_ rfl) rfl <;> decide

theorem hostKey_elect : ∀ k ∈ hostFields.map Field.key, electKey k := by decide

theorem sends_hostEvent (v : Nat) (s : State) : Sends electKey electMask s (hostEvent v s) :=
  .of_within (((onlyHost_hostEvent v s).within hostKey_elect).mono id fun _ => rfl) (congrArg FabPart.ports (onlyHost_hostEvent v s).fab)

theorem sends_tokenReport (s : State) : Sends electKey electMask s (tokenReport s) := by
  unfold tokenReport
  simp only []
  split_ifs
  · exact .refl _ _ _
  · exact (sends_askBellwether _ _ _).elect.trans (.of_within (.own rfl rfl) rfl)

/-- The view of the bellwether that an election writes (R399). -/
def elected (s : State) : State :=
  let new := s.bwView
  let own := new.isSome && new == s.ownAddr?
  { s with fab := { s.fab with
      bellwether := new
      office := if own then some s.clock else none
      granting := own && s.fab.nReg == 0
      ledger := [], queue := [], reported := [] } }

/-- A wake that waits asks the new bellwether again (R399). -/
def wakeAsked (s : State) : State :=
  match s.sys.wakeBudget with
  | some need => askTokens (s.wakeReq s.pwr.wakeSet.length) need (if s.jnl.intents.isEmpty then 1 else 0) s
  | none => s

theorem electBellwether_eq (s : State) : electBellwether s
    = if s.bwView = s.fab.bellwether then s else wakeAsked (tokenReport (hostEvent 4 (elected s))) := rfl

theorem sends_wakeAsked (s : State) : Sends electKey electMask s (wakeAsked s) := by
  unfold wakeAsked
  split
  · exact (sends_askBellwether _ _ _).elect
  · exact .refl _ _ _

theorem sends_elected (s : State) : Sends electKey electMask s (elected s) := .of_within (.own rfl rfl) rfl

theorem sends_electBellwether (s : State) : Sends electKey electMask s (electBellwether s) := by
  rw [electBellwether_eq]
  split_ifs
  · exact .refl _ _ _
  · exact (((sends_elected s).trans (sends_hostEvent 4 _)).trans (sends_tokenReport _)).trans (sends_wakeAsked _)

theorem sends_takeAddr (a : Nat) (s : State) : Sends refreshKey refreshMask s (takeAddr a s) := by
  have hset : Sends refreshKey refreshMask s (setF Reg.FAB_ADDR_VALID 1 (setF Reg.FAB_ADDR_ADDR a s)) :=
    .of_within (.setF (.setF (.refl _ _ _) _ (by decide) rfl) _ (by decide) rfl) rfl
  have hpref (u : State) : Sends refreshKey refreshMask u { u with fab := { u.fab with pref := some a, refused := false, asked := false } } :=
    .of_within (.own rfl rfl) rfl
  exact (((hset.trans (hpref _)).trans (sends_floodLsa _).refresh).trans (sends_hostEvent 4 _).of_elect).trans (sends_electBellwether _).of_elect

theorem sends_noteTable (a uid : Nat) (s : State) : Sends refreshKey refreshMask s (noteTable a uid s) := .of_within (.own rfl rfl) rfl

theorem sends_needAddr (s : State) : Sends refreshKey refreshMask s (needAddr s) := by
  unfold needAddr
  split_ifs
  · exact .refl _ _ _
  · split
    · exact (sends_noteTable _ _ s).trans (sends_takeAddr _ _)
    · exact .of_within (.own rfl rfl) rfl
  · exact .refl _ _ _
  · split
    · have hasked : Sends refreshKey refreshMask s { s with fab := { s.fab with asked := true } } := .of_within (.own rfl rfl) rfl
      exact hasked.trans (sends_sendLocal _ _ _ _).refresh
    · exact .refl _ _ _

theorem sends_shipDelta (a : Nat) (d : Delta) (s : State) : Sends sendKey sendMask s (shipDelta a d s) :=
  .forEach (sends_sendFrame _ _ _ _ _) fun _ _ _ => sends_sendFrame _ _ _ _ _

theorem sends_shipDeltas (again : Bool) (s : State) : Sends refreshKey refreshMask s (shipDeltas again s) := by
  have hship (d : Delta) (t : State) : Sends refreshKey refreshMask t (match s.shipTo d.group with | some a => shipDelta a d t | none => t) := by
    split
    · exact (sends_shipDelta _ _ _).refresh
    · exact .refl _ _ _
  exact (Sends.forEach (.refl _ _ s) fun d _ => hship d).trans (.of_within (.own rfl rfl) rfl)

theorem sends_fabRefresh (s : State) : Sends refreshKey refreshMask s (fabRefresh s) :=
  ((((sends_writeRoutes s).trans (sends_writeRoot _)).trans (sends_electBellwether _).of_elect).trans (sends_needAddr _)).trans (sends_shipDeltas _ _)

theorem sends_noteAddr (uid a : Nat) (s : State) : Sends refreshKey refreshMask s (noteAddr uid a s) := by
  unfold noteAddr
  simp only []
  split_ifs
  · exact .refl _ _ _
  · split
    · exact (sends_noteTable _ _ s).trans (sends_floodFrame _ _ _ _).refresh
    · exact .refl _ _ _
  · exact sends_noteTable _ _ s

end Sys2Proof.Machine
end

section
/-! The fabric's links, the bleats sent and received, and the receive ring (R380 to R382, R386, R387). -/

open Sys2Proof

namespace Sys2Proof.Machine

/-! Keys -/

theorem not_sendKey {k : Nat} (hlow : 0x100200 * 32 ≤ k) (hmod : k % 2048 ≠ 640) : ¬ sendKey k := by
  have hlist : ∀ j ∈ [Reg.FAB_EVENT_ALT_USED, Reg.FAB_ALT_CNT, Reg.FAB_EVENT_DROP, Reg.FAB_DROP_CNT].map Field.key, j < 0x100200 * 32 := by decide
  rintro (⟨-, h⟩ | h)
  · exact hmod h
  · exact (hlist k h).not_ge hlow

theorem not_refreshKey {k : Nat} (hlow : 0x100200 * 32 ≤ k) (hhigh : k < 0x104000 * 32) (hmod : k % 2048 ≠ 640) : ¬ refreshKey k := by
  have hlist : ∀ j ∈ [Reg.FAB_CTRL_ROOT_PORT, Reg.FAB_CTRL_ROOT_PORT_VALID, Reg.FAB_CTRL_KEEP_PORTS, Reg.FAB_ADDR_ADDR,
      Reg.FAB_ADDR_VALID].map Field.key, j < 0x100200 * 32 := by decide
  rintro (h | ⟨-, h⟩ | h | h)
  · exact not_sendKey hlow hmod h
  · omega
  · omega
  · exact (hlist k h).not_ge hlow

theorem mem_of_sends {P : Nat → Prop} {s t : State} (h : Sends P sendMask s t) : t.mem = s.mem := h.within.view State.mem fun _ => rfl

theorem mem_of_refresh {P : Nat → Prop} {s t : State} (h : Sends P refreshMask s t) : t.mem = s.mem := h.within.view State.mem fun _ => rfl

theorem get_forEach_of_mem {α : Type} {l : List α} {g : α → State → State} {f : Field} (h : ∀ x ∈ l, ∀ u, (g x u).get f = u.get f) (s : State) :
    (forEach l g s).get f = s.get f := by
  unfold Machine.forEach
  induction l generalizing s with
  | nil => rfl
  | cons x l ih => exact (ih (fun y hy => h y (.tail _ hy)) (g x s)).trans (h x (.head _) s)

/-! Links -/

/-- The record of a port that trained. -/
theorem exec_fabricLinkUp_of_down {s : State} {p : Fin 4} {n x : Nat} (he : s.on Reg.FAB_CTRL_ENABLE = true) (hn : n = 1 ∨ n = 2 ∨ n = 4)
    (hl : s.fabLanes p.val = 4) (ht : (s.port p.val).trained = 0) (hk : s.mode = Mode.parked → s.kept p.val = true) :
    exec (.fabricLinkUp p n true x) s
      = .next (onPort p.val (fun y => { trained := if s.mode = Mode.parked then 1 else n, downs := y.downs }) s) := by
  have hfit : (if (s.mode == Mode.parked) = true then min 1 (s.fabLanes p.val) else min n (s.fabLanes p.val))
      = if s.mode = Mode.parked then 1 else n := by
    rw [hl]
    simp only [beq_iff_eq]
    split_ifs
    · rfl
    · omega
  have hw : (if s.mode = Mode.parked then 1 else n) ≠ 3 ∧ (if s.mode = Mode.parked then 1 else n) ≠ 0 := by split_ifs <;> omega
  rw [exec_fabricLinkUp, execFabricLinkUp]
  simp only [hfit, if_neg hw.1]
  refine (if_neg (by simp)).trans ((if_neg ?_).trans ((if_pos (by rw [ht]; rfl)).trans (congrArg _ (if_neg ?_))))
  · simp only [he, Bool.not_true, Bool.false_or, Bool.or_eq_true, Bool.not_eq_true', beq_iff_eq, hw.2, or_false]
    rcases hn with rfl | rfl | rfl <;> decide
  · simp only [Bool.and_eq_true, beq_iff_eq, Bool.not_eq_true', not_and]
    exact fun hm => by simp [hk hm]

/-- The port's registers cleared as it goes down, and its record (R382). -/
def portCleared (p : Nat) (up : Bool) (s : State) : State :=
  setF (Reg.FAB_PORT_STATUS_SLOW p) 0 (setF (Reg.FAB_PORT_STATUS_LANES p) 0 (setF (Reg.FAB_PORT_STATUS_LINK_UP p) 0
    (onPort p (fun y => { downs := y.downs + b2n up }) s)))

/-- With the loss counted. -/
def portLost (p : Nat) (s : State) : State := event Reg.FAB_EVENT_LINK_DOWN Reg.FAB_LINK_DOWN_CNT (portCleared p true s)

theorem portDown_of_up {p : Nat} {s : State} (ht : (s.port p).trained ≠ 0) (hup : s.portUp p = true) :
    portDown p s = fabRefresh (floodLsa (forEach (((s.port p).unacked ++ (s.port p).waiting).filter (fun f => !f.flood)) routeFrame
      (portLost p s))) := by
  rw [portDown, if_neg ht]
  refine (if_pos hup).trans ?_
  rw [hup]
  rfl

theorem sends_portDown {p : Nat} {s : State} (ht : (s.port p).trained ≠ 0) (hup : s.portUp p = true) :
    Sends refreshKey refreshMask (portLost p s) (portDown p s) := by
  rw [portDown_of_up ht hup]
  exact ((sends_frames _ _).refresh.trans (sends_floodLsa _).refresh).trans (sends_fabRefresh _)

theorem portLost_fields {p : Nat} (hp : p < 4) (s : State) : (portLost p s).portUp p = false
    ∧ (portLost p s).get (Reg.FAB_PORT_STATUS_LANES p) = 0 ∧ ((portLost p s).port p).trained = 0
    ∧ (portLost p s).get Reg.FAB_LINK_DOWN_CNT = (s.get Reg.FAB_LINK_DOWN_CNT + 1) % 2 ^ 32 ∧ (portLost p s).mem = s.mem := by
  have hport : (portLost p s).port p = (onPort p (fun y => { downs := y.downs + b2n true }) s).port p := port_congr rfl p
  refine ⟨on_eq_false ?_, ?_, ?_, ?_, rfl⟩
  · simp (disch := simp only [Field.key, Reg.FAB_PORT_STATUS_LINK_UP, Reg.FAB_PORT_STATUS_LANES, Reg.FAB_PORT_STATUS_SLOW,
      Reg.FAB_EVENT_LINK_DOWN, Reg.FAB_LINK_DOWN_CNT]; omega) only [portLost, portCleared, get_event_ne, get_setF_ne, get_setF_zero]
  · simp (disch := simp only [Field.key, Reg.FAB_PORT_STATUS_LANES, Reg.FAB_PORT_STATUS_SLOW, Reg.FAB_EVENT_LINK_DOWN,
      Reg.FAB_LINK_DOWN_CNT]; omega) only [portLost, portCleared, get_event_ne, get_setF_ne, get_setF_zero]
  · rw [hport, port_onPort_self]
  · rw [portLost, get_event_cnt _ _ _ (by decide)]
    simp (disch := simp only [Field.key, Reg.FAB_PORT_STATUS_LINK_UP, Reg.FAB_PORT_STATUS_LANES, Reg.FAB_PORT_STATUS_SLOW,
      Reg.FAB_LINK_DOWN_CNT]; omega) only [portCleared, get_setF_ne]
    rfl

theorem portDown_fields {p : Fin 4} {s : State} (ht : (s.port p.val).trained ≠ 0) (hup : s.portUp p.val = true) {t : State}
    (h : t = portDown p.val s) : t.portUp p.val = false ∧ t.get (Reg.FAB_PORT_STATUS_LANES p.val) = 0 ∧ (t.port p.val).trained = 0
    ∧ t.get Reg.FAB_LINK_DOWN_CNT = (s.get Reg.FAB_LINK_DOWN_CNT + 1) % 2 ^ 32 ∧ ∀ a, t.readByte a = s.readByte a := by
  obtain ⟨hlink, hlanes, htrained, hcnt, hmem⟩ := portLost_fields p.isLt s
  have hsends := sends_portDown ht hup
  rw [h]
  refine ⟨(hsends.on ?_).trans hlink, (hsends.get ?_).trans hlanes, (hsends.trained _).trans htrained, (hsends.get (by decide)).trans hcnt,
    fun a => readByte_of_mem a ((mem_of_refresh hsends).trans hmem)⟩
  · exact not_refreshKey (by simp only [Field.key, Reg.FAB_PORT_STATUS_LINK_UP]; omega)
      (by simp only [Field.key, Reg.FAB_PORT_STATUS_LINK_UP]; omega) (by simp only [Field.key, Reg.FAB_PORT_STATUS_LINK_UP]; omega)
  · exact not_refreshKey (by simp only [Field.key, Reg.FAB_PORT_STATUS_LANES]; omega)
      (by simp only [Field.key, Reg.FAB_PORT_STATUS_LANES]; omega) (by simp only [Field.key, Reg.FAB_PORT_STATUS_LANES]; omega)

/-! Bleats sent -/

/-- A frame for the neighbour alone leaves at once. -/
theorem sendLocal_eq (p : Nat) (k : FabKind) (payload : List Nat) (s : State) : sendLocal p k payload s
    = sendOut p { type := k, linkLocal := true, cls := frameClass k, src := s.addr16 % 4096, payload := payload } s := by
  rw [sendLocal, putOut]
  exact if_pos rfl

theorem get_sendOut_self (p : Nat) (f : Frame) (s : State) :
    (sendOut p f s).get (Reg.FAB_PORT_TX_CNT p) = (s.get (Reg.FAB_PORT_TX_CNT p) + 1) % 2 ^ 32 := get_bump_self _ _

theorem get_sendOut_ne {p : Nat} {f : Frame} {s : State} {g : Field} (h : (Reg.FAB_PORT_TX_CNT p).key ≠ g.key) :
    (sendOut p f s).get g = s.get g := (get_bump_ne h).trans rfl

theorem keeps_sendOut {fs : List Field} {p : Nat} {f : Frame} {s t : State} (h : Keeps fs s t) (hp : (Reg.FAB_PORT_TX_CNT p).key ∈ fs.map Field.key) :
    Keeps fs s (sendOut p f t) := Keeps.setF _ _ hp (h.of_eq rfl rfl)

theorem txCnt_ne {p q : Nat} (h : p ≠ q) : (Reg.FAB_PORT_TX_CNT p).key ≠ (Reg.FAB_PORT_TX_CNT q).key := by
  simp only [Field.key, Reg.FAB_PORT_TX_CNT]; omega

/-- Each port of a list sends once. -/
theorem get_txCnt_forEach {l : List Nat} {g : Nat → State → State} (hg : ∀ p u, ∃ f, g p u = sendOut p f u) (hl : l.Nodup) (q : Nat) (s : State) :
    (forEach l g s).get (Reg.FAB_PORT_TX_CNT q)
      = if q ∈ l then (s.get (Reg.FAB_PORT_TX_CNT q) + 1) % 2 ^ 32 else s.get (Reg.FAB_PORT_TX_CNT q) := by
  unfold Machine.forEach
  induction l generalizing s with
  | nil => rfl
  | cons p l ih =>
    obtain ⟨hp, hl'⟩ := List.nodup_cons.mp hl
    obtain ⟨f, hf⟩ := hg p s
    rw [List.foldl_cons, ih hl', hf]
    by_cases hpq : q = p
    · subst hpq
      rw [if_neg hp, if_pos (.head _), get_sendOut_self]
    · rw [get_sendOut_ne (txCnt_ne (Ne.symm hpq))]
      simp only [List.mem_cons, hpq, false_or]

/-- The template is current. -/
theorem get_writeTemplate {k : Nat} (hk : k < 12) (s : State) :
    (writeTemplate s).get (Reg.FAB_BLEAT_TPL_BYTES k) = leNat (((bleatBytes s.ownBleat).drop (4 * k)).take 4) % 2 ^ 32 := by
  refine forEach_of_mem (Q := fun u => u.get (Reg.FAB_BLEAT_TPL_BYTES k) = leNat (((bleatBytes s.ownBleat).drop (4 * k)).take 4) % 2 ^ 32)
    (List.mem_range.mpr hk) (fun u => get_setF_self _ _ _) (fun j _ u hu => ?_) s
  by_cases hjk : j = k
  · rw [hjk]
    exact get_setF_self _ _ _
  · rw [get_setF_ne _ _ _ _ (by simp only [Field.key, Reg.FAB_BLEAT_TPL_BYTES]; omega)]
    exact hu

/-- The fields that sending the bleat changes. -/
def bleatFields : List Field := (List.range 12).map Reg.FAB_BLEAT_TPL_BYTES ++ (List.range 4).map Reg.FAB_PORT_TX_CNT

theorem keeps_writeTemplate (s : State) : Keeps bleatFields s (writeTemplate s) :=
  keeps_forEach (Keeps.refl _ _) fun _ hk _ hu => hu.setF _ _ (List.mem_map_of_mem (List.mem_append_left _ (List.mem_map_of_mem hk)))

theorem get_txCnt_writeTemplate {p : Nat} (hp : p < 4) (s : State) :
    (writeTemplate s).get (Reg.FAB_PORT_TX_CNT p) = s.get (Reg.FAB_PORT_TX_CNT p) := by
  refine get_forEach_of_mem (fun k hk u => get_setF_ne _ _ _ _ ?_) s
  have := List.mem_range.mp hk
  simp only [Field.key, Reg.FAB_BLEAT_TPL_BYTES, Reg.FAB_PORT_TX_CNT]
  omega

/-- The ports that the bleat goes out on (R381, R387). -/
def State.bleatPorts (s : State) : List Nat :=
  [0, 1, 2, 3].filter (fun p => (s.port p).trained != 0 && (s.mode != Mode.parked || s.kept p))

/-- The bleat sent on each of them. -/
def bleatSent (s : State) : State := forEach s.bleatPorts (fun p t => sendLocal p .bleat (t.bleatOn p) t) (writeTemplate s)

theorem exec_bleatSend_of_enabled {s : State} (he : s.on Reg.FAB_CTRL_ENABLE = true) (hb : s.on Reg.FAB_CTRL_BLEAT_EN = true)
    (hf : s.sys.firmwareUp = true) : exec .bleatSend s = .next (bleatSent s) := by
  rw [exec_bleatSend, execBleatSend, if_pos (by rw [he, hb, Bool.true_and])]
  refine congrArg _ ?_
  rw [if_pos hf]
  rfl

theorem mem_bleatPorts {s : State} {p : Nat} (hp : p < 4) : p ∈ s.bleatPorts ↔ (s.port p).trained ≠ 0 ∧ (s.mode ≠ Mode.parked ∨ s.kept p = true) := by
  have hlist : p ∈ [0, 1, 2, 3] := by interval_cases p <;> simp
  simp [State.bleatPorts, hlist]

theorem lt_of_mem_bleatPorts {s : State} {p : Nat} (h : p ∈ s.bleatPorts) : p < 4 := by
  have hlist := (List.mem_filter.mp h).1
  simp only [List.mem_cons, List.not_mem_nil, or_false] at hlist
  omega

theorem get_txCnt_bleatSent {p : Nat} (hp : p < 4) (s : State) : (bleatSent s).get (Reg.FAB_PORT_TX_CNT p)
    = if p ∈ s.bleatPorts then (s.get (Reg.FAB_PORT_TX_CNT p) + 1) % 2 ^ 32 else s.get (Reg.FAB_PORT_TX_CNT p) := by
  have hone (q : Nat) (u : State) : ∃ f, sendLocal q .bleat (u.bleatOn q) u = sendOut q f u := ⟨_, sendLocal_eq _ _ _ _⟩
  have hports : s.bleatPorts.Nodup := List.Nodup.filter _ (by decide)
  have hsent := get_txCnt_forEach hone hports p (writeTemplate s)
  rw [get_txCnt_writeTemplate hp] at hsent
  exact hsent

theorem bleatSent_fields (s : State) :
    (∀ k, k < 12 → (bleatSent s).get (Reg.FAB_BLEAT_TPL_BYTES k) = leNat (((bleatBytes s.ownBleat).drop (4 * k)).take 4) % 2 ^ 32)
    ∧ (∀ p, p < 4 → (s.port p).trained ≠ 0 → s.mode ≠ Mode.parked ∨ s.kept p = true →
        (bleatSent s).get (Reg.FAB_PORT_TX_CNT p) = (s.get (Reg.FAB_PORT_TX_CNT p) + 1) % 2 ^ 32)
    ∧ (∀ p, p < 4 → (s.port p).trained = 0 ∨ (s.mode = Mode.parked ∧ s.kept p = false) →
        (bleatSent s).get (Reg.FAB_PORT_TX_CNT p) = s.get (Reg.FAB_PORT_TX_CNT p))
    ∧ Keeps bleatFields s (bleatSent s) := by
  refine ⟨fun k hk => ?_, fun p hp ht hm => ?_, fun p hp h => ?_, ?_⟩
  · refine (get_forEach_of_mem (fun p hp u => ?_) _).trans (get_writeTemplate hk s)
    have := lt_of_mem_bleatPorts hp
    rw [sendLocal_eq, get_sendOut_ne (by simp only [Field.key, Reg.FAB_PORT_TX_CNT, Reg.FAB_BLEAT_TPL_BYTES]; omega)]
  · rw [get_txCnt_bleatSent hp, if_pos ((mem_bleatPorts hp).mpr ⟨ht, hm⟩)]
  · rw [get_txCnt_bleatSent hp, if_neg fun hin => ?_]
    obtain ⟨ht, hm⟩ := (mem_bleatPorts hp).mp hin
    rcases h with h | ⟨hmode, hkept⟩
    · exact ht h
    · exact hm.elim (· hmode) fun hk => by simp [hkept] at hk
  · refine keeps_forEach (keeps_writeTemplate s) fun p hp u hu => ?_
    rw [sendLocal_eq]
    exact keeps_sendOut hu (List.mem_map_of_mem (List.mem_append_right _ (List.mem_map_of_mem (List.mem_range.mpr (lt_of_mem_bleatPorts hp)))))

/-! Bleats received -/

/-- A good bleat noted at its port (R382). -/
def bleatNoted (p : Nat) (b : Bleat) (s : State) : State :=
  onPort p (fun y => { y with good := min 2 ((s.port p).good + 1), last := some b })
    (setF (Reg.FAB_PORT_STATUS_NEIGH_ADDR p) b.addr (set64 (Reg.FAB_PORT_NEIGH_UID_LO_UID p) (Reg.FAB_PORT_NEIGH_UID_HI_UID p) b.uid
      (bump (Reg.FAB_PORT_RX_CNT p) s)))

theorem bleatNoted_get (p : Nat) (b : Bleat) (s : State) (f : Field) : (bleatNoted p b s).get f
    = (setF (Reg.FAB_PORT_STATUS_NEIGH_ADDR p) b.addr (set64 (Reg.FAB_PORT_NEIGH_UID_LO_UID p) (Reg.FAB_PORT_NEIGH_UID_HI_UID p) b.uid
      (bump (Reg.FAB_PORT_RX_CNT p) s))).get f := get_of_regs f rfl

/-- With it the port comes up. -/
def bleatComesUp (p : Nat) (b : Bleat) (s : State) : State :=
  let x := s.port p
  let t := setF (Reg.FAB_PORT_STATUS_SLOW p) (b2n (s.mode == Mode.parked)) (setF (Reg.FAB_PORT_STATUS_LANES p) x.trained
    (setF (Reg.FAB_PORT_STATUS_LINK_UP p) 1 (onPort p (fun y => { y with listening := false }) (bleatNoted p b s))))
  event Reg.FAB_EVENT_LINK_UP Reg.FAB_LINK_UP_CNT
    (when x.listening (setF Reg.FAB_CTRL_KEEP_PORTS (s.get Reg.FAB_CTRL_KEEP_PORTS ||| 2 ^ p)) t)

theorem exec_bleat_of_same {s : State} {p : Fin 4} {b : Bleat} (he : s.on Reg.FAB_CTRL_ENABLE = true) (ht : (s.port p.val).trained ≠ 0)
    (hm : s.mode ≠ Mode.parked) (hlast : (s.port p.val).last = some b) (hg : (s.port p.val).good = 0 ∨ s.portUp p.val = true) :
    exec (.bleat p true b) s = .next (bleatNoted p.val b s) := by
  have hup : (min 2 ((s.port p.val).good + 1) == 2 && !s.portUp p.val) = false := by
    rcases hg with hg | hg
    · rw [hg]; rfl
    · rw [hg]; exact Bool.and_false _
  rw [exec_bleat, execBleat, if_neg (by simp [he, ht, hm]), if_neg (by simp)]
  simp only [hup, hlast]
  refine (if_neg (by simp)).trans (congrArg _ ?_)
  exact if_neg Bool.false_ne_true

theorem exec_bleat_of_second {s : State} {p : Fin 4} {b : Bleat} (he : s.on Reg.FAB_CTRL_ENABLE = true) (ht : (s.port p.val).trained ≠ 0)
    (hm : s.mode ≠ Mode.parked) (hg : (s.port p.val).good = 1) (hd : s.portUp p.val = false) :
    exec (.bleat p true b) s = .next (after (rxDeliver p.val { type := .bleat, linkLocal := true, src := b.addr % 4096, payload := bleatBytes b }
      (heardBleat p.val b) (floodLsa (bleatComesUp p.val b s)))) := by
  have hup : (min 2 ((s.port p.val).good + 1) == 2 && !s.portUp p.val) = true := by rw [hg, hd]; rfl
  rw [exec_bleat, execBleat, if_neg (by simp [he, ht, hm]), if_neg (by simp)]
  simp only [hup]
  refine (if_pos (by simp)).trans (congrArg (fun t => Host.Outcome.next (after (rxDeliver p.val _ (heardBleat p.val b) t))) ?_)
  exact if_pos trivial

theorem bleatNoted_fields (p : Fin 4) (b : Bleat) (s : State) {t : State} (h : t = bleatNoted p.val b s) :
    (t.port p.val).good = min 2 ((s.port p.val).good + 1)
    ∧ t.get (Reg.FAB_PORT_STATUS_NEIGH_ADDR p.val) = b.addr % 2 ^ (Reg.FAB_PORT_STATUS_NEIGH_ADDR p.val).width
    ∧ t.get (Reg.FAB_PORT_RX_CNT p.val) = (s.get (Reg.FAB_PORT_RX_CNT p.val) + 1) % 2 ^ 32
    ∧ Keeps [Reg.FAB_PORT_STATUS_NEIGH_ADDR p.val, Reg.FAB_PORT_NEIGH_UID_LO_UID p.val, Reg.FAB_PORT_NEIGH_UID_HI_UID p.val,
        Reg.FAB_PORT_RX_CNT p.val] s t := by
  rw [h]
  refine ⟨?_, ?_, ?_, ?_⟩
  · rw [bleatNoted, port_onPort_self]
  · rw [bleatNoted_get, get_setF_self]
  · rw [bleatNoted_get]
    simp (disch := simp only [Field.key, Reg.FAB_PORT_STATUS_NEIGH_ADDR, Reg.FAB_PORT_NEIGH_UID_LO_UID, Reg.FAB_PORT_NEIGH_UID_HI_UID,
      Reg.FAB_PORT_RX_CNT]; omega) only [set64, get_setF_ne, get_bump_self]
    rfl
  · refine Keeps.of_eq (t := setF (Reg.FAB_PORT_STATUS_NEIGH_ADDR p.val) b.addr (set64 (Reg.FAB_PORT_NEIGH_UID_LO_UID p.val)
      (Reg.FAB_PORT_NEIGH_UID_HI_UID p.val) b.uid (bump (Reg.FAB_PORT_RX_CNT p.val) s))) ?_ rfl rfl
    simp

/-- The registers that the receive ring writes. -/
def rxFields : List Field :=
  [Reg.FAB_RX_HEAD_HEAD, Reg.FAB_RX_TAIL_TAIL, Reg.FAB_RX_CQ_HEAD_CQ_HEAD, Reg.FAB_EVENT_RX, Reg.FAB_RX_FRAME_CNT]

/-- A frame in its buffer, its entry written and the event raised (R386). -/
def rxLanded (port : Nat) (f : Frame) (s : State) : State :=
  let size := s.get Reg.FAB_RX_CFG_SIZE_M1 + 1
  let h := s.get Reg.FAB_RX_HEAD_HEAD
  let e := s.get64 Reg.FAB_RX_BASE_LO_BASE Reg.FAB_RX_BASE_HI_BASE + 16 * h
  let bytes := frameHeader f ++ f.payload
  let phase := Assoc.getD s.oxe.phases 17 1
  let s1 := writeBytes (e + 8) (leBytes 2 bytes.length ++ [port, 0, 0, 0, 0, phase]) (writeBytes (leNat (s.readBytes e 8)) bytes s)
  let s2 := event Reg.FAB_EVENT_RX Reg.FAB_RX_FRAME_CNT (setF Reg.FAB_RX_HEAD_HEAD ((h + 1) % size) s1)
  when (h + 1 == size) (fun u => { u with oxe := { u.oxe with phases := Assoc.set u.oxe.phases 17 (1 - phase) } }) s2

/-- With it, the buffer posted again by the firmware. -/
def rxTaken (port : Nat) (f : Frame) (s : State) : State :=
  let size := s.get Reg.FAB_RX_CFG_SIZE_M1 + 1
  let h := s.get Reg.FAB_RX_HEAD_HEAD
  let s3 := rxLanded port f s
  setF Reg.FAB_RX_CQ_HEAD_CQ_HEAD ((h + 1) % size) (setF Reg.FAB_RX_TAIL_TAIL ((s3.get Reg.FAB_RX_TAIL_TAIL + 1) % size) s3)

theorem rxDeliver_eq (port : Nat) (f : Frame) (k : State → State) (s : State) : rxDeliver port f k s
    = if !s.on Reg.FAB_RX_CFG_ENABLE || s.get Reg.FAB_RX_HEAD_HEAD == s.get Reg.FAB_RX_TAIL_TAIL then dropFrame s
      else if (rxLanded port f s).sys.firmwareUp then k (rxTaken port f s) else rxLanded port f s := rfl

/-- What the ring changes besides, blanked. -/
@[reducible] def rxMask (s : State) : State := { s with regs := [], mem := [], oxe := {} }

@[reducible] def rxRingKey (k : Nat) : Prop := k ∈ rxFields.map Field.key

theorem within_rxBytes (a : Nat) (l : List Nat) (s : State) : Within rxRingKey rxMask s (writeBytes a l s) := by
  induction l generalizing a s with
  | nil => exact .refl _ _ _
  | cons b l ih =>
    have hone : Within rxRingKey rxMask s (writeByte a (BitVec.ofNat 8 b) s) := .own rfl rfl
    exact hone.trans (ih _ _)

theorem within_rxPhase (c : Bool) (p : List (Nat × Nat) → List (Nat × Nat)) (s : State) :
    Within rxRingKey rxMask s (when c (fun u => { u with oxe := { u.oxe with phases := p u.oxe.phases } }) s) := .when (.refl _ _ _) (.own rfl rfl)

theorem rxMask_setF (f : Field) (v : Nat) (s : State) : rxMask (setF f v s) = rxMask s := rfl

theorem within_rxHead (v : Nat) (s : State) :
    Within rxRingKey rxMask s (event Reg.FAB_EVENT_RX Reg.FAB_RX_FRAME_CNT (setF Reg.FAB_RX_HEAD_HEAD v s)) := by
  refine .event (.setF (.refl _ _ s) _ ?_ (rxMask_setF _ _ _)) ?_ ?_ rfl <;> decide

theorem within_rxLanded (port : Nat) (f : Frame) (s : State) : Within rxRingKey rxMask s (rxLanded port f s) := by
  unfold rxLanded
  exact (((within_rxBytes _ _ _).trans (within_rxBytes _ _ _)).trans (within_rxHead _ _)).trans
    (within_rxPhase _ (fun m => Assoc.set m 17 (1 - Assoc.getD s.oxe.phases 17 1)) _)

theorem within_rxTaken (port : Nat) (f : Frame) (s : State) : Within rxRingKey rxMask s (rxTaken port f s) := by
  refine .setF (.setF (within_rxLanded port f s) _ ?_ (rxMask_setF _ _ _)) _ ?_ (rxMask_setF _ _ _) <;> decide

/-- A frame that is delivered, or dropped for want of a buffer, leaves what neither the ring nor the firmware's work on it changes. -/
theorem get_rxDeliver {port : Nat} {f : Frame} {k : State → State} {s : State} {g : Field} (hg : ¬ rxRingKey g.key) (hs : ¬ sendKey g.key)
    (hk : ∀ u, (k u).get g = u.get g) : (rxDeliver port f k s).get g = s.get g := by
  rw [rxDeliver_eq]
  split_ifs
  · exact (sends_dropFrame s).get hs
  · exact (hk _).trans ((within_rxTaken port f s).get hg)
  · exact (within_rxLanded port f s).get hg

theorem get_heardBleat {p : Nat} {b : Bleat} {s : State} {f : Field} (hf : ¬ refreshKey f.key) : (heardBleat p b s).get f = s.get f := by
  have hnode (u : State) : (onNode b.uid (fun n => { n with addr := b.addr, mode := b.mode, partner := b.partner, heard := u.clock }) u).get f
      = u.get f := get_of_regs f rfl
  unfold heardBleat
  rw [(sends_fabRefresh _).get hf]
  split_ifs
  · exact ((sends_putOut _ _ _).get fun h => hf (.inl h)).trans (((sends_noteAddr _ _ _).get hf).trans (hnode s))
  · exact ((sends_noteAddr _ _ _).get hf).trans (hnode s)

theorem not_rxRingKey {k : Nat} (hlow : 0x100200 * 32 ≤ k) : ¬ rxRingKey k := by
  have hlist : ∀ j ∈ rxFields.map Field.key, j < 0x100200 * 32 := by decide
  exact fun h => (hlist k h).not_ge hlow

theorem bleatComesUp_fields (p : Fin 4) (b : Bleat) (s : State) : (bleatComesUp p.val b s).portUp p.val = true
    ∧ (bleatComesUp p.val b s).get Reg.FAB_LINK_UP_CNT = (s.get Reg.FAB_LINK_UP_CNT + 1) % 2 ^ 32 := by
  have hkeep (v : Nat) (c : Bool) (t : State) (f : Field) (hf : Reg.FAB_CTRL_KEEP_PORTS.key ≠ f.key) :
      (when c (setF Reg.FAB_CTRL_KEEP_PORTS v) t).get f = t.get f := when_of_eq c (fun t => t.get f) (get_setF_ne _ _ _ _ hf)
  have hport (g : FabPort → FabPort) (t : State) (f : Field) : (onPort p.val g t).get f = t.get f := get_of_regs f rfl
  unfold bleatComesUp
  refine ⟨on_eq_true ?_, ?_⟩
  · rw [get_event_ne (by simp only [Field.key, Reg.FAB_EVENT_LINK_UP, Reg.FAB_PORT_STATUS_LINK_UP]; omega)
      (by simp only [Field.key, Reg.FAB_LINK_UP_CNT, Reg.FAB_PORT_STATUS_LINK_UP]; omega),
      hkeep _ _ _ _ (by simp only [Field.key, Reg.FAB_CTRL_KEEP_PORTS, Reg.FAB_PORT_STATUS_LINK_UP]; omega)]
    simp (disch := simp only [Field.key, Reg.FAB_PORT_STATUS_LINK_UP, Reg.FAB_PORT_STATUS_LANES, Reg.FAB_PORT_STATUS_SLOW]; omega) only
      [get_setF_ne]
    exact get_setF_one rfl _
  · rw [get_event_cnt _ _ _ (by decide), hkeep _ _ _ _ (by decide)]
    simp (disch := simp only [Field.key, Reg.FAB_PORT_STATUS_LINK_UP, Reg.FAB_PORT_STATUS_LANES, Reg.FAB_PORT_STATUS_SLOW,
      Reg.FAB_LINK_UP_CNT, Reg.FAB_PORT_STATUS_NEIGH_ADDR, Reg.FAB_PORT_NEIGH_UID_LO_UID, Reg.FAB_PORT_NEIGH_UID_HI_UID,
      Reg.FAB_PORT_RX_CNT]; omega) only [get_setF_ne, hport, bleatNoted_get, set64, get_bump_ne]
    rfl

theorem bleatSecond_fields (p : Fin 4) (b : Bleat) (f : Frame) (s : State) {t : State}
    (h : t = rxDeliver p.val f (heardBleat p.val b) (floodLsa (bleatComesUp p.val b s))) :
    t.portUp p.val = true ∧ t.get Reg.FAB_LINK_UP_CNT = (s.get Reg.FAB_LINK_UP_CNT + 1) % 2 ^ 32 := by
  obtain ⟨hup, hcnt⟩ := bleatComesUp_fields p b s
  have hget {g : Field} (hr : ¬ rxRingKey g.key) (hk : ¬ refreshKey g.key) : t.get g = (bleatComesUp p.val b s).get g := by
    have hs : ¬ sendKey g.key := fun hs => hk (.inl hs)
    rw [h, get_rxDeliver hr hs fun u => get_heardBleat hk]
    exact (sends_floodLsa _).get hs
  refine ⟨?_, (hget (by decide) (by decide)).trans hcnt⟩
  have hlow : 0x100200 * 32 ≤ (Reg.FAB_PORT_STATUS_LINK_UP p.val).key := by simp only [Field.key, Reg.FAB_PORT_STATUS_LINK_UP]; omega
  rw [State.portUp, State.on, hget (not_rxRingKey hlow) (not_refreshKey hlow
    (by simp only [Field.key, Reg.FAB_PORT_STATUS_LINK_UP]; omega) (by simp only [Field.key, Reg.FAB_PORT_STATUS_LINK_UP]; omega))]
  exact hup

end Sys2Proof.Machine
end

section
/-! The fabric's links and frames (R380 to R385, R387, R483): the obligation O26. -/

open Sys2Proof

namespace Sys2Proof.Machine

/-! Links and bleats -/

theorem exec_fabricLinkUp_of_active (s : State) (p : Fin 4) (n x : Nat) :
    exec (.fabricLinkUp p n false x) s = .next (useFree (logPlain (s.freeVal 8) [x] s)) :=
  (exec_fabricLinkUp s).trans (by rw [execFabricLinkUp]; exact if_pos rfl)

theorem exec_parkedListen_of_parked {s : State} {p : Fin 4} (hm : s.mode = Mode.parked) (he : s.on Reg.FAB_CTRL_ENABLE = true)
    (hk : s.kept p.val = false) (hd : s.portUp p.val = false) : exec (.parkedListen p) s
      = .next (onPort p.val (fun x => { x with listening := true, trained := min 1 (s.fabLanes p.val) }) s) :=
  (exec_parkedListen s).trans (if_pos ⟨hm, he, hk, hd⟩)

theorem exec_bleat_of_bad {s : State} {p : Fin 4} (he : s.on Reg.FAB_CTRL_ENABLE = true) (ht : (s.port p.val).trained ≠ 0)
    (hm : s.mode ≠ Mode.parked) (b : Bleat) : exec (.bleat p false b) s = .next (bump (Reg.FAB_PORT_CRC_ERR_CNT p.val) s) := by
  rw [exec_bleat, execBleat, if_neg (by simp [he, ht, hm])]
  exact if_pos rfl

theorem keeps_bump (c : Field) (s : State) : Keeps [c] s (bump c s) := (Keeps.refl _ _).setF _ _ (.head _)

/-! The link protocol (R384) -/

theorem pumpPort_of_none_waiting {p : Nat} {s : State} (h : (s.port p).waiting = []) (n : Nat) : pumpPort p n s = s := by
  cases n with
  | zero => rfl
  | succ n =>
    have hnext : nextWaiting (s.port p) = none := by simp [nextWaiting, h]
    rw [pumpPort]
    simp only [hnext]

/-- An acknowledgement that covers every frame, with none waiting, empties the replay buffer. -/
theorem ackUpTo_fields {p : Nat} {ack : Nat} {s : State} (hw : (s.port p).waiting = [])
    (hall : ∀ f ∈ (s.port p).unacked, (ack + 65536 - f.lseq) % 65536 < 32768) :
    ((ackUpTo p ack s).port p).unacked = [] ∧ (ackUpTo p ack s).regs = s.regs ∧ (ackUpTo p ack s).mem = s.mem := by
  have hleft : (s.port p).unacked.filter (fun f => decide (32768 ≤ (ack + 65536 - f.lseq) % 65536)) = [] :=
    List.filter_eq_nil_iff.mpr fun f hf => by simpa using hall f hf
  unfold ackUpTo
  simp only [hleft]
  split_ifs with hlen
  · exact ⟨List.length_eq_zero_iff.mp hlen.symm, rfl, rfl⟩
  · rw [pumpPort_of_none_waiting (by rw [port_onPort_self]; exact hw)]
    exact ⟨by rw [port_onPort_self], rfl, rfl⟩

theorem exec_linkCtl_of_up {s : State} {p : Fin 4} (he : s.on Reg.FAB_CTRL_ENABLE = true) (hup : s.portUp p.val = true) (ack : Nat) :
    exec (.linkCtl p ack none) s = .next (ackUpTo p.val ack (bump (Reg.FAB_PORT_RX_CNT p.val) s)) :=
  (exec_linkCtl s).trans (if_pos (by rw [he, hup]; rfl))

/-- The frames of a replay buffer leave again. -/
theorem get_txCnt_sendAll (p : Nat) {l : List Frame} (hne : l ≠ []) (s : State) : (forEach l (sendOut p) s).get (Reg.FAB_PORT_TX_CNT p)
    = (s.get (Reg.FAB_PORT_TX_CNT p) + l.length) % 2 ^ 32 := by
  unfold Machine.forEach
  induction l generalizing s with
  | nil => exact absurd rfl hne
  | cons f l ih =>
    rw [List.foldl_cons, List.length_cons]
    by_cases hl : l = []
    · rw [hl]
      exact get_sendOut_self p f s
    · rw [ih hl, get_sendOut_self, Nat.mod_add_mod]
      congr 1
      omega

theorem keeps_sendAll (p : Nat) (l : List Frame) (s : State) : Keeps [Reg.FAB_PORT_TX_CNT p] s (forEach l (sendOut p) s) :=
  .forEach l _ (Keeps.refl _ _) fun _ _ h => keeps_sendOut h (.head _)

theorem fab_sendAll (p : Nat) (l : List Frame) (s : State) : (forEach l (sendOut p) s).fab = s.fab := by
  unfold Machine.forEach
  induction l generalizing s with
  | nil => rfl
  | cons f l ih => exact (ih (sendOut p f s)).trans rfl

/-- A replay counted at its port. -/
def replayBegun (p : Nat) (s : State) : State := onPort p (fun y => { y with replays := y.replays + 1 }) (bump (Reg.FAB_PORT_REPLAY_CNT p) s)

theorem exec_linkReplay_of_few {s : State} {p : Fin 4} (hup : s.portUp p.val = true) (hu : (s.port p.val).unacked ≠ [])
    (hr : (s.port p.val).replays < 15) :
    exec (.linkReplay p) s = .next (settle (forEach (s.port p.val).unacked (sendOut p.val) (replayBegun p.val s))) := by
  rw [exec_linkReplay, execLinkReplay, if_pos hup, replayPort]
  refine congrArg (fun t => Host.Outcome.next (settle t)) ((if_neg (by simpa using hu)).trans (if_neg ?_))
  omega

theorem get_replayBegun (p : Nat) (s : State) (f : Field) : (replayBegun p s).get f = (bump (Reg.FAB_PORT_REPLAY_CNT p) s).get f :=
  get_of_regs f rfl

theorem linkReplay_fields (p : Fin 4) (s : State) {l : List Frame} (hl : l = (s.port p.val).unacked) (hne : l ≠ []) {t : State}
    (h : t = forEach l (sendOut p.val) (replayBegun p.val s)) :
    (t.port p.val).replays = (s.port p.val).replays + 1 ∧ (t.port p.val).unacked = (s.port p.val).unacked
      ∧ t.get (Reg.FAB_PORT_REPLAY_CNT p.val) = (s.get (Reg.FAB_PORT_REPLAY_CNT p.val) + 1) % 2 ^ 32
      ∧ t.get (Reg.FAB_PORT_TX_CNT p.val) = (s.get (Reg.FAB_PORT_TX_CNT p.val) + (s.port p.val).unacked.length) % 2 ^ 32
      ∧ Keeps [Reg.FAB_PORT_REPLAY_CNT p.val, Reg.FAB_PORT_TX_CNT p.val] s t := by
  have hreg : (Reg.FAB_PORT_REPLAY_CNT p.val).key ≠ (Reg.FAB_PORT_TX_CNT p.val).key := by
    simp only [Field.key, Reg.FAB_PORT_REPLAY_CNT, Reg.FAB_PORT_TX_CNT]; omega
  have hkeep := keeps_sendAll p.val l (replayBegun p.val s)
  have hport : t.port p.val = (replayBegun p.val s).port p.val := port_congr (by rw [h, fab_sendAll]) p.val
  rw [replayBegun, port_onPort_self] at hport
  refine ⟨by rw [hport]; rfl, by rw [hport]; rfl, ?_, ?_, ?_⟩
  · rw [h, hkeep.get (by simpa using hreg), get_replayBegun]
    exact get_bump_self _ s
  · rw [h, get_txCnt_sendAll p.val hne, get_replayBegun, get_bump_ne hreg, hl]
  · rw [h]
    refine (Keeps.of_eq (t := bump (Reg.FAB_PORT_REPLAY_CNT p.val) s) (by simp) rfl rfl).trans (hkeep.mono ?_)
    simp

/-! Frames on their way (R384, R385) -/

theorem exec_frameForward_of_bad {s : State} {p : Fin 4} (he : s.on Reg.FAB_CTRL_ENABLE = true) (hup : s.portUp p.val = true)
    (hn : (s.port p.val).nakked = true) (f : Frame) : exec (.frameForward p false f) s = .next (bump (Reg.FAB_PORT_CRC_ERR_CNT p.val) s) := by
  rw [exec_frameForward, execFrameForward, if_neg (by simp [he, hup])]
  refine (if_pos rfl).trans (congrArg _ ?_)
  rw [sendNak]
  exact if_pos hn

/-- A frame in order, received and acknowledged. -/
def frameTaken (p : Nat) (s : State) : State := ackIn p (bump (Reg.FAB_PORT_RX_CNT p) s)

theorem frameTaken_eq (p : Nat) (s : State) : ∃ f, frameTaken p s
    = sendOut p f (onPort p (fun y => { y with expect := (y.expect + 1) % 65536, nakked := false }) (bump (Reg.FAB_PORT_RX_CNT p) s)) :=
  ⟨_, sendLocal_eq _ _ _ _⟩

theorem exec_frameForward_of_ordered {s : State} {p : Fin 4} {f : Frame} (he : s.on Reg.FAB_CTRL_ENABLE = true) (hup : s.portUp p.val = true)
    (hll : f.linkLocal = false) (ha : f.ackValid = false) (hseq : f.lseq = (s.port p.val).expect) :
    exec (.frameForward p true f) s = .next (forwardFrame p.val f (frameTaken p.val s)) := by
  rw [exec_frameForward, execFrameForward, if_neg (by simp [he, hup])]
  simp only [hll, ha]
  exact (if_neg (by simp)).trans ((if_neg (by simp)).trans (if_pos hseq))

theorem expect_frameTaken (p : Nat) (s : State) : ((frameTaken p s).port p).expect = ((s.port p).expect + 1) % 65536 := by
  obtain ⟨f, hf⟩ := frameTaken_eq p s
  rw [hf, (sends_sendOut p f _).expect, port_onPort_self]
  rfl

theorem get_frameTaken {p : Nat} {s : State} {g : Field} (ht : (Reg.FAB_PORT_TX_CNT p).key ≠ g.key) :
    (frameTaken p s).get g = (bump (Reg.FAB_PORT_RX_CNT p) s).get g := by
  obtain ⟨f, hf⟩ := frameTaken_eq p s
  rw [hf, get_sendOut_ne ht]
  exact get_of_regs g rfl

theorem mem_frameTaken (p : Nat) (s : State) : (frameTaken p s).mem = s.mem := by
  obtain ⟨f, hf⟩ := frameTaken_eq p s
  rw [hf]
  rfl

theorem get_frameTaken_ne {p : Nat} {s : State} {g : Field} (ht : (Reg.FAB_PORT_TX_CNT p).key ≠ g.key)
    (hr : (Reg.FAB_PORT_RX_CNT p).key ≠ g.key) : (frameTaken p s).get g = s.get g := (get_frameTaken ht).trans (get_bump_ne hr)

/-- The hop to a node depends on the links' state and on the route table alone. -/
theorem hop_congr {s t : State} (hlink : ∀ p, t.get (Reg.FAB_PORT_STATUS_LINK_UP p) = s.get (Reg.FAB_PORT_STATUS_LINK_UP p))
    (hroute : ∀ f : Field, 0x104000 * 32 ≤ f.key → t.get f = s.get f) (a : Nat) : t.hop a = s.hop a := by
  have hup (p : Nat) : t.portUp p = s.portUp p := by simp only [State.portUp, State.on, hlink]
  have hroute' (f : Field) (h : 0x104000 * 32 ≤ f.key) : t.on f = s.on f := by simp only [State.on, hroute f h]
  simp only [State.hop, hup]
  rw [hroute, hroute, hroute', hroute'] <;>
    simp only [Field.key, Reg.FAB_ROUTE_VALID, Reg.FAB_ROUTE_PRIMARY, Reg.FAB_ROUTE_ALT, Reg.FAB_ROUTE_ALT_VALID] <;> omega

theorem hop_frameTaken (p : Fin 4) (s : State) (a : Nat) : (frameTaken p.val s).hop a = s.hop a := by
  refine hop_congr (fun q => get_frameTaken_ne ?_ ?_) (fun f hf => get_frameTaken_ne ?_ ?_) a <;>
    simp only [Field.key, Reg.FAB_PORT_TX_CNT, Reg.FAB_PORT_RX_CNT, Reg.FAB_PORT_STATUS_LINK_UP] at * <;> omega

theorem ownAddr_congr {s t : State} (h : ∀ f ∈ [Reg.FAB_ADDR_VALID, Reg.FAB_ADDR_ADDR], t.get f = s.get f) : t.ownAddr? = s.ownAddr? := by
  rw [State.ownAddr?, State.on, h _ (.head _), h _ (.tail _ (.head _))]
  rfl

theorem ownAddr_frameTaken (p : Nat) (s : State) : (frameTaken p s).ownAddr? = s.ownAddr? :=
  ownAddr_congr fun f hf => by
    have : f.key < 0x100200 * 32 := (by decide : ∀ f ∈ [Reg.FAB_ADDR_VALID, Reg.FAB_ADDR_ADDR], f.key < 0x100200 * 32) f hf
    refine get_frameTaken_ne ?_ ?_ <;> simp only [Field.key, Reg.FAB_PORT_TX_CNT, Reg.FAB_PORT_RX_CNT] at * <;> omega

/-- A frame for another node takes the hop of its destination, or is dropped. -/
theorem forwardFrame_of_routed {p : Nat} {f : Frame} {s : State} (hll : f.linkLocal = false) (hfl : f.flood = false)
    (hown : s.ownAddr? ≠ some f.dst) (hh : 0 < f.hops) : forwardFrame p f s
      = routeFrame { f with hops := f.hops - 1 } (when (s.hop f.dst).isSome (bump Reg.FAB_FWD_CNT) s) := by
  rw [forwardFrame]
  simp only [hll, hfl]
  refine (if_neg (by simp [hown])).trans ((if_neg hh.ne').trans (if_neg (by simp)))

theorem hop_bumpFwd (s : State) (a : Nat) : (bump Reg.FAB_FWD_CNT s).hop a = s.hop a := by
  refine hop_congr (fun q => get_bump_ne ?_) (fun f hf => get_bump_ne ?_) a <;>
    simp only [Field.key, Reg.FAB_FWD_CNT, Reg.FAB_PORT_STATUS_LINK_UP] at * <;> omega

theorem forwardFrame_of_hop {p q : Nat} {f : Frame} {s : State} (hll : f.linkLocal = false) (hfl : f.flood = false)
    (hown : s.ownAddr? ≠ some f.dst) (hh : 0 < f.hops) (hop : s.hop f.dst = some (q, false)) :
    forwardFrame p f s = putOut q { f with hops := f.hops - 1 } (bump Reg.FAB_FWD_CNT s) := by
  rw [forwardFrame_of_routed hll hfl hown hh, when_of_true (by rw [hop]; rfl), routeFrame]
  simp only [hop_bumpFwd, hop]
  rfl

theorem forwardFrame_of_no_hop {p : Nat} {f : Frame} {s : State} (hll : f.linkLocal = false) (hfl : f.flood = false)
    (hown : s.ownAddr? ≠ some f.dst) (hh : 0 < f.hops) (hop : s.hop f.dst = none) : forwardFrame p f s = dropFrame s := by
  have hstay : when (s.hop f.dst).isSome (bump Reg.FAB_FWD_CNT) s = s := by rw [hop]; rfl
  rw [forwardFrame_of_routed hll hfl hown hh, hstay, routeFrame]
  simp only [hop]

theorem forwarded_fields (p : Fin 4) (q : Nat) (f : Frame) (s : State) {t : State}
    (h : t = putOut q f (bump Reg.FAB_FWD_CNT (frameTaken p.val s))) :
    (t.port p.val).expect = ((s.port p.val).expect + 1) % 65536
      ∧ t.get Reg.FAB_FWD_CNT = (s.get Reg.FAB_FWD_CNT + 1) % 2 ^ 32
      ∧ t.get (Reg.FAB_PORT_RX_CNT p.val) = (s.get (Reg.FAB_PORT_RX_CNT p.val) + 1) % 2 ^ 32 ∧ ∀ a, t.readByte a = s.readByte a := by
  have hsend := sends_putOut q f (bump Reg.FAB_FWD_CNT (frameTaken p.val s))
  have hport : (bump Reg.FAB_FWD_CNT (frameTaken p.val s)).port p.val = (frameTaken p.val s).port p.val := port_congr rfl _
  rw [h]
  refine ⟨?_, ?_, ?_, fun a => readByte_of_mem a ((mem_of_sends hsend).trans (mem_frameTaken p.val s))⟩
  · rw [hsend.expect, hport, expect_frameTaken]
  · rw [hsend.get (by decide), get_bump_self, get_frameTaken_ne]
    · rfl
    all_goals simp only [Field.key, Reg.FAB_PORT_TX_CNT, Reg.FAB_PORT_RX_CNT, Reg.FAB_FWD_CNT]; omega
  · rw [hsend.get (not_sendKey _ _), get_bump_ne, get_frameTaken, get_bump_self]
    · rfl
    all_goals simp only [Field.key, Reg.FAB_PORT_TX_CNT, Reg.FAB_PORT_RX_CNT, Reg.FAB_FWD_CNT]; omega

theorem dropped_fields (p : Fin 4) (s : State) {t : State} (h : t = dropFrame (frameTaken p.val s)) :
    t.get Reg.FAB_DROP_CNT = (s.get Reg.FAB_DROP_CNT + 1) % 2 ^ 32 ∧ t.get Reg.FAB_FWD_CNT = s.get Reg.FAB_FWD_CNT := by
  have hlow {g : Field} (hg : g.key < 0x100200 * 32) : (frameTaken p.val s).get g = s.get g := by
    refine get_frameTaken_ne ?_ ?_ <;> simp only [Field.key, Reg.FAB_PORT_TX_CNT, Reg.FAB_PORT_RX_CNT] at * <;> omega
  rw [h, dropFrame]
  refine ⟨?_, ?_⟩
  · rw [get_event_cnt _ _ _ (by decide), hlow (by decide)]
    rfl
  · rw [get_event_ne (by decide) (by decide), hlow (by decide)]

/-! The send ring (R385) -/

/-- The keys of what a step of the send ring writes. -/
@[reducible] def ringKey (k : Nat) : Prop := sendKey k ∨ k = Reg.FAB_TX_HEAD_HEAD.key

/-- The frame of the ring's front sent, and the front moved on. -/
def ringStep (s : State) : State :=
  let h := s.get Reg.FAB_TX_HEAD_HEAD
  let e := s.get64 Reg.FAB_TX_BASE_LO_BASE Reg.FAB_TX_BASE_HI_BASE + 16 * h
  let f := s.txFrame (leNat (s.readBytes e 8)) (leNat (s.readBytes (e + 8) 2))
  let s1 := setF Reg.FAB_TX_HEAD_HEAD ((h + 1) % (s.get Reg.FAB_TX_CFG_SIZE_M1 + 1)) s
  if f.flood then forEach s1.upPorts (fun q t => putOut q f t) s1
  else if s1.ownAddr? = some f.dst ∧ f.linkLocal = false then emit (.fabric none f) s1
  else routeFrame f s1

theorem sendRing_succ (n : Nat) (s : State) : sendRing (n + 1) s
    = if s.get Reg.FAB_TX_HEAD_HEAD = s.get Reg.FAB_TX_TAIL_TAIL then s else sendRing n (ringStep s) := rfl

theorem sends_ringStep (s : State) : Sends sendKey sendMask
    (setF Reg.FAB_TX_HEAD_HEAD ((s.get Reg.FAB_TX_HEAD_HEAD + 1) % (s.get Reg.FAB_TX_CFG_SIZE_M1 + 1)) s) (ringStep s) := by
  rw [ringStep]
  split_ifs
  · exact .forEach (.refl _ _ _) fun q _ t => sends_putOut q _ t
  · exact sends_emit _ _
  · exact sends_routeFrame _ _

theorem get_ringStep {f : Field} (hf : ¬ ringKey f.key) (s : State) : (ringStep s).get f = s.get f :=
  ((sends_ringStep s).get fun h => hf (.inl h)).trans (get_setF_ne _ _ _ _ fun h => hf (.inr h.symm))

theorem mem_ringStep (s : State) : (ringStep s).mem = s.mem := (mem_of_sends (sends_ringStep s)).trans rfl

theorem head_ringStep {s : State} (hsize : s.get Reg.FAB_TX_CFG_SIZE_M1 < 2048) : (ringStep s).get Reg.FAB_TX_HEAD_HEAD
    = (s.get Reg.FAB_TX_HEAD_HEAD + 1) % (s.get Reg.FAB_TX_CFG_SIZE_M1 + 1) := by
  refine ((sends_ringStep s).get (by decide)).trans (get_setF_of_lt ?_ s)
  exact (Nat.mod_lt _ (by omega)).trans_le (by simp only [Reg.FAB_TX_HEAD_HEAD]; omega)

theorem get_sendRing {f : Field} (hf : ¬ ringKey f.key) (n : Nat) (s : State) : (sendRing n s).get f = s.get f := by
  induction n generalizing s with
  | zero => rfl
  | succ n ih =>
    rw [sendRing_succ]
    split_ifs
    · rfl
    · exact (ih (ringStep s)).trans (get_ringStep hf s)

theorem mem_sendRing (n : Nat) (s : State) : (sendRing n s).mem = s.mem := by
  induction n generalizing s with
  | zero => rfl
  | succ n ih =>
    rw [sendRing_succ]
    split_ifs
    · rfl
    · exact (ih (ringStep s)).trans (mem_ringStep s)

/-- The ring's front reaches its tail in as many steps as entries lie between them. -/
theorem head_sendRing {n : Nat} {s : State} (hsize : s.get Reg.FAB_TX_CFG_SIZE_M1 < 2048)
    (htail : s.get Reg.FAB_TX_TAIL_TAIL ≤ s.get Reg.FAB_TX_CFG_SIZE_M1) (hhead : s.get Reg.FAB_TX_HEAD_HEAD ≤ s.get Reg.FAB_TX_CFG_SIZE_M1)
    (hn : (if s.get Reg.FAB_TX_HEAD_HEAD ≤ s.get Reg.FAB_TX_TAIL_TAIL then s.get Reg.FAB_TX_TAIL_TAIL - s.get Reg.FAB_TX_HEAD_HEAD
      else s.get Reg.FAB_TX_TAIL_TAIL + (s.get Reg.FAB_TX_CFG_SIZE_M1 + 1) - s.get Reg.FAB_TX_HEAD_HEAD) ≤ n) :
    (sendRing n s).get Reg.FAB_TX_HEAD_HEAD = s.get Reg.FAB_TX_TAIL_TAIL := by
  induction n generalizing s with
  | zero =>
    change s.get Reg.FAB_TX_HEAD_HEAD = _
    split_ifs at hn <;> omega
  | succ n ih =>
    rw [sendRing_succ]
    split_ifs with heq
    · exact heq
    · have hs : (ringStep s).get Reg.FAB_TX_CFG_SIZE_M1 = s.get Reg.FAB_TX_CFG_SIZE_M1 := get_ringStep (by decide) s
      have ht : (ringStep s).get Reg.FAB_TX_TAIL_TAIL = s.get Reg.FAB_TX_TAIL_TAIL := get_ringStep (by decide) s
      have hh := head_ringStep hsize
      rw [← ht]
      refine ih (by rwa [hs]) (by rwa [hs, ht]) ?_ ?_
      · rw [hh, hs]
        exact Nat.lt_succ_iff.mp (Nat.mod_lt _ (Nat.succ_pos _))
      · rw [hh, hs, ht]
        rcases hhead.lt_or_eq with hlt | hend
        · rw [Nat.mod_eq_of_lt (by omega)]
          split_ifs at hn ⊢ <;> omega
        · rw [hend, Nat.mod_self]
          split_ifs at hn ⊢ <;> omega

/-- The tail written, and what the ring then sends. -/
def tailWritten (tail : Nat) (s : State) : State := setF Reg.FAB_TX_TAIL_TAIL tail (ungate (islandOf 0x10018C) s)

def ringRun (s : State) : State := if s.on Reg.FAB_TX_CFG_ENABLE && s.on Reg.FAB_CTRL_ENABLE then sendRing 2048 s else s

theorem exec_fabTxTail_of_lands {s : State} {tail : Nat} (hl : s.lands 0x10018C = true) (ht : tail ≤ s.get Reg.FAB_TX_CFG_SIZE_M1) :
    exec (.fabTxTail tail) s = .next (ringRun (tailWritten tail s)) :=
  (exec_of_lands hl (exec_fabTxTail s)).trans (congrArg _ (if_neg ht.not_gt))

theorem get_tailWritten {f : Field} (hf : Reg.FAB_TX_TAIL_TAIL.key ≠ f.key) (tail : Nat) (s : State) : (tailWritten tail s).get f = s.get f :=
  get_setF_ne _ _ _ _ hf

theorem on_tailWritten {f : Field} (hf : Reg.FAB_TX_TAIL_TAIL.key ≠ f.key) (tail : Nat) (s : State) : (tailWritten tail s).on f = s.on f := by
  rw [State.on, get_tailWritten hf, State.on]

theorem fabTxTail_fields {s : State} {tail : Nat} (hsize : s.get Reg.FAB_TX_CFG_SIZE_M1 < 2048) (ht : tail ≤ s.get Reg.FAB_TX_CFG_SIZE_M1)
    (hh : s.get Reg.FAB_TX_HEAD_HEAD ≤ s.get Reg.FAB_TX_CFG_SIZE_M1) {t : State} (h : t = ringRun (tailWritten tail s)) :
    t.get Reg.FAB_TX_TAIL_TAIL = tail
      ∧ (s.on Reg.FAB_TX_CFG_ENABLE = true → s.on Reg.FAB_CTRL_ENABLE = true → t.get Reg.FAB_TX_HEAD_HEAD = tail)
      ∧ (s.on Reg.FAB_TX_CFG_ENABLE = false → Keeps [Reg.FAB_TX_TAIL_TAIL] s t)
      ∧ ∀ a, t.readByte a = s.readByte a := by
  have htail : (tailWritten tail s).get Reg.FAB_TX_TAIL_TAIL = tail := get_setF_of_lt (by simp only [Reg.FAB_TX_TAIL_TAIL]; omega) _
  have hs : (tailWritten tail s).get Reg.FAB_TX_CFG_SIZE_M1 = s.get Reg.FAB_TX_CFG_SIZE_M1 := get_tailWritten (by decide) tail s
  have hhead : (tailWritten tail s).get Reg.FAB_TX_HEAD_HEAD = s.get Reg.FAB_TX_HEAD_HEAD := get_tailWritten (by decide) tail s
  rw [h]
  refine ⟨?_, fun ha hb => ?_, fun ha => ?_, fun a => readByte_of_mem a ?_⟩
  · rw [ringRun]
    split_ifs
    · exact (get_sendRing (by decide) _ _).trans htail
    · exact htail
  · rw [ringRun, if_pos (by rw [on_tailWritten (by decide), on_tailWritten (by decide), ha, hb]; rfl)]
    refine (head_sendRing (by rwa [hs]) (by rwa [hs, htail]) (by rwa [hs, hhead]) ?_).trans htail
    rw [hs, hhead, htail]
    split_ifs <;> omega
  · rw [ringRun, if_neg (by rw [on_tailWritten (by decide), ha]; simp)]
    simp [tailWritten]
  · rw [ringRun]
    split_ifs
    · exact (mem_sendRing _ _).trans rfl
    · rfl

/-- Settles O26: each event of a link or a frame leaves the state that its helpers above describe. -/
theorem fabricLinksComplete : Obligations.FabricLinksComplete := by
  refine ⟨fun s p n x he hn hl ht hk => ?linkUp, fun s p ht hup c hc => ?linkDown, fun s p hm he hk hd => ?listen, fun s he hb hf => ?bleatSent,
    fun s p b he ht hm => ⟨?badBleat, fun hlast hg => ?sameBleat, fun hg hd => ?secondBleat⟩, fun s p ack he hup hw hall => ?acked,
    fun s p hup hu hr => ?replay, fun s p f he hup => ⟨fun hn => ?badFrame, fun q hll ha hfl hseq hown hh hop => ?forwarded,
      fun hll ha hfl hseq hown hh hop => ?dropped⟩, fun s tail hl hsize ht hh => ?ring, fun s p n x => ?active⟩
  case linkUp =>
    refine .of_next (exec_fabricLinkUp_of_down he hn hl ht hk) ⟨?_, ?_, (Keeps.refl _ s).of_eq rfl rfl⟩ <;> rw [port_onPort_self]
  case linkDown =>
    have hexec : exec c s = .next (settle (portDown p.val s)) := by
      simp only [List.mem_cons, List.not_mem_nil, or_false] at hc
      rcases hc with rfl | rfl
      · exact exec_fabricLinkDown s
      · exact exec_fabricBleatTimeout s
    exact .of_next (g := settle) hexec (portDown_fields ht hup rfl)
  case listen =>
    refine .of_next (exec_parkedListen_of_parked hm he hk hd) ⟨?_, ?_, (Keeps.refl _ s).of_eq rfl rfl⟩ <;> rw [port_onPort_self]
  case bleatSent => exact .of_next (exec_bleatSend_of_enabled he hb hf) (bleatSent_fields s)
  case badBleat => exact .of_next (exec_bleat_of_bad he ht hm b) ⟨get_bump_self _ s, keeps_bump _ s⟩
  case sameBleat => exact .of_next (exec_bleat_of_same he ht hm hlast hg) (bleatNoted_fields p b s rfl)
  case secondBleat => exact .of_next (g := after) (exec_bleat_of_second he ht hm hg hd) (bleatSecond_fields p b _ s rfl)
  case acked =>
    obtain ⟨hun, hregs, hmem⟩ := ackUpTo_fields (s := bump (Reg.FAB_PORT_RX_CNT p.val) s) hw hall
    exact .of_next (exec_linkCtl_of_up he hup ack) ⟨hun, (get_of_regs _ hregs).trans (get_bump_self _ s), (keeps_bump _ s).of_eq hregs hmem⟩
  case replay => exact .of_next (g := settle) (exec_linkReplay_of_few hup hu hr) (linkReplay_fields p s rfl hu rfl)
  case badFrame => exact .of_next (exec_frameForward_of_bad he hup hn f) ⟨get_bump_self _ s, keeps_bump _ s⟩
  case forwarded =>
    have hexec := (exec_frameForward_of_ordered he hup hll ha hseq).trans (congrArg _ (forwardFrame_of_hop (p := p.val) hll hfl
      (by rwa [ownAddr_frameTaken]) hh ((hop_frameTaken p s _).trans hop)))
    exact .of_next hexec (forwarded_fields p q _ s rfl)
  case dropped =>
    have hexec := (exec_frameForward_of_ordered he hup hll ha hseq).trans (congrArg _ (forwardFrame_of_no_hop (p := p.val) hll hfl
      (by rwa [ownAddr_frameTaken]) hh ((hop_frameTaken p s _).trans hop)))
    exact .of_next hexec (dropped_fields p s rfl)
  case ring => exact .of_next (exec_fabTxTail_of_lands hl ht) (fabTxTail_fields hsize ht hh rfl)
  case active => exact .of_next (exec_fabricLinkUp_of_active s p n x) ⟨rfl, rfl, (Keeps.refl _ s).of_eq rfl rfl⟩

end Sys2Proof.Machine
end

section
/-! A frame that reaches this node from a neighbour it hears, and what stays as it is delivered. -/

open Sys2Proof

namespace Sys2Proof.Machine

/-- The state in which the firmware acts on a frame: it is counted, acknowledged unless it is the neighbours' own, and taken off the ring. -/
def delivered (p : Nat) (f : Frame) (s : State) : State :=
  rxTaken p f (if f.linkLocal then bump (Reg.FAB_PORT_RX_CNT p) s else ackIn p (bump (Reg.FAB_PORT_RX_CNT p) s))

/-- The keys that delivering a frame writes: the receive ring's and the ports' frame counters. -/
@[reducible] def hearKey (k : Nat) : Prop := rxRingKey k ∨ (0x100200 * 32 ≤ k ∧ k < 0x100300 * 32 ∧ (k % 2048 = 640 ∨ k % 2048 = 768))

/-- What it changes besides, blanked. -/
@[reducible] def hearMask (s : State) : State := { s with regs := [], mem := [], oxe := {}, out := [], fab := { s.fab with ports := [] } }

theorem hearMask_setF (f : Field) (v : Nat) (s : State) : hearMask (setF f v s) = hearMask s := rfl

theorem within_rxCounted (p : Fin 4) (s : State) : Within hearKey hearMask s (bump (Reg.FAB_PORT_RX_CNT p.val) s) :=
  .setF (.refl _ _ s) _ (.inr (by simp only [Field.key, Reg.FAB_PORT_RX_CNT]; omega)) (hearMask_setF _ _ _)

theorem within_hearSend (p : Fin 4) (f : Frame) (s : State) : Within hearKey hearMask s (sendOut p.val f s) := by
  unfold sendOut
  exact .setF (.own rfl rfl) _ (.inr (by simp only [Field.key, Reg.FAB_PORT_TX_CNT]; omega)) (hearMask_setF _ _ _)

theorem within_ackIn (p : Fin 4) (s : State) : Within hearKey hearMask s (ackIn p.val s) := by
  have hseq : Within hearKey hearMask s (onPort p.val (fun y => { y with expect := (y.expect + 1) % 65536, nakked := false }) s) := .own rfl rfl
  unfold ackIn
  simp only []
  rw [sendLocal_eq]
  exact hseq.trans (within_hearSend _ _ _)

theorem within_delivered (p : Fin 4) (f : Frame) (s : State) : Within hearKey hearMask s (delivered p.val f s) := by
  have htaken (u : State) : Within hearKey hearMask u (rxTaken p.val f u) := (within_rxTaken p.val f u).mono .inl fun _ => rfl
  unfold delivered
  split_ifs
  · exact (within_rxCounted p s).trans (htaken _)
  · exact ((within_rxCounted p s).trans (within_ackIn p _)).trans (htaken _)

/-- A frame for the neighbours alone leaves the whole of the fabric's part. -/
theorem fab_delivered_local {p : Fin 4} {f : Frame} (hf : f.linkLocal = true) (s : State) : (delivered p.val f s).fab = s.fab := by
  rw [delivered, if_pos hf]
  exact ((within_rxTaken p.val f _).view State.fab fun _ => rfl).trans rfl

theorem fab_delivered {α : Type} (v : FabPart → α) (hv : ∀ b : FabPart, v { b with ports := [] } = v b) (p : Fin 4) (f : Frame) (s : State) :
    v (delivered p.val f s).fab = v s.fab := (within_delivered p f s).view (fun t => v t.fab) fun w => hv w.fab

theorem not_hearKey {k : Nat} (h : (k < 0x100200 * 32 ∧ k ∉ rxFields.map Field.key) ∨ 0x100200 * 32 ≤ k ∧ (0x100300 * 32 ≤ k ∨ k % 2048 ≠ 640 ∧ k % 2048 ≠ 768)) :
    ¬ hearKey k := by
  rintro (hr | ⟨hlow, hhigh, hmod⟩)
  · rcases h with h | h
    · exact h.2 hr
    · exact not_rxRingKey h.1 hr
  · omega

/-- A frame from a neighbour that this node hears is acted on. -/
theorem arrive_of_hears {s : State} {p : Fin 4} (h : s.hears p = true) (f : Frame) (k : State → State) :
    arrive (some p) f k s = .next (after (k (delivered p.val f s))) := by
  simp only [State.hears, Bool.and_eq_true, bne_iff_ne, ne_eq] at h
  obtain ⟨⟨⟨⟨he, hup⟩, hring⟩, hroom⟩, hfw⟩ := h
  rw [arrive, if_pos (by rw [he, hup]; rfl)]
  refine congrArg (fun t => Host.Outcome.next (after t)) ?_
  have hsame : Within hearKey hearMask s (if f.linkLocal then bump (Reg.FAB_PORT_RX_CNT p.val) s else ackIn p.val (bump (Reg.FAB_PORT_RX_CNT p.val) s)) := by
    split_ifs
    · exact within_rxCounted p s
    · exact (within_rxCounted p s).trans (within_ackIn p _)
  have hring' {g : Field} (hg : g ∈ [Reg.FAB_RX_CFG_ENABLE, Reg.FAB_RX_HEAD_HEAD, Reg.FAB_RX_TAIL_TAIL]) :
      (if f.linkLocal then bump (Reg.FAB_PORT_RX_CNT p.val) s else ackIn p.val (bump (Reg.FAB_PORT_RX_CNT p.val) s)).get g = s.get g := by
    have hk : (Reg.FAB_PORT_RX_CNT p.val).key ≠ g.key ∧ (Reg.FAB_PORT_TX_CNT p.val).key ≠ g.key := by
      have : g.key < 0x100200 * 32 :=
        (by decide : ∀ g ∈ [Reg.FAB_RX_CFG_ENABLE, Reg.FAB_RX_HEAD_HEAD, Reg.FAB_RX_TAIL_TAIL], g.key < 0x100200 * 32) g hg
      constructor <;> simp only [Field.key, Reg.FAB_PORT_RX_CNT, Reg.FAB_PORT_TX_CNT] at * <;> omega
    split_ifs
    · exact get_bump_ne hk.1
    · exact get_frameTaken_ne hk.2 hk.1
  rw [rxDeliver_eq, if_neg, if_pos]
  · rfl
  · rw [(within_rxLanded _ _ _).view (fun t => t.sys.firmwareUp) fun _ => rfl, hsame.view (fun t => t.sys.firmwareUp) fun _ => rfl]
    exact hfw
  · rw [State.on, hring' (by simp), hring' (by simp), hring' (by simp), ← State.on, hring]
    simpa using hroom

section Same
variable (p : Fin 4) (f : Frame) (s : State)

theorem ownAddr_delivered : (delivered p.val f s).ownAddr? = s.ownAddr? :=
  ownAddr_congr fun _ hf => (within_delivered p f s).get
    (not_hearKey (.inl ((by decide : ∀ f ∈ [Reg.FAB_ADDR_VALID, Reg.FAB_ADDR_ADDR], f.key < 0x100200 * 32 ∧ f.key ∉ rxFields.map Field.key) _ hf)))

theorem ownUid_delivered : (delivered p.val f s).ownUid = s.ownUid := by
  have hget {g : Field} (hg : g ∈ [Reg.FAB_UID_LO_UID, Reg.FAB_UID_HI_UID]) : (delivered p.val f s).get g = s.get g :=
    (within_delivered p f s).get (not_hearKey (.inl ((by decide : ∀ f ∈ [Reg.FAB_UID_LO_UID, Reg.FAB_UID_HI_UID],
      f.key < 0x100200 * 32 ∧ f.key ∉ rxFields.map Field.key) _ hg)))
  rw [State.ownUid, State.get64, hget (by simp), hget (by simp)]
  rfl

theorem link_delivered (q : Nat) : (delivered p.val f s).get (Reg.FAB_PORT_STATUS_LINK_UP q) = s.get (Reg.FAB_PORT_STATUS_LINK_UP q) := by
  refine (within_delivered p f s).get (not_hearKey (.inr ?_))
  simp only [Field.key, Reg.FAB_PORT_STATUS_LINK_UP]
  omega

theorem portUp_delivered (q : Nat) : (delivered p.val f s).portUp q = s.portUp q := by
  rw [State.portUp, State.on, link_delivered]
  rfl

theorem hop_delivered (a : Nat) : (delivered p.val f s).hop a = s.hop a :=
  hop_congr (link_delivered p f s) (fun g hg => (within_delivered p f s).get (not_hearKey (.inr ⟨by omega, .inl (by omega)⟩))) a

theorem reach_delivered (a : Nat) : (delivered p.val f s).reach a = s.reach a := by
  rw [State.reach, ownAddr_delivered, hop_delivered]
  rfl

theorem clock_delivered : (delivered p.val f s).clock = s.clock := (within_delivered p f s).view State.clock fun _ => rfl

end Same

/-- What the firmware sees of the state before as it acts on a frame: the fabric's part but for the ports, its own names, the routes, the clock. -/
structure Heard (s d : State) : Prop where
  fab : ∀ {α : Type} (v : FabPart → α), (∀ b : FabPart, v { b with ports := [] } = v b) → v d.fab = v s.fab
  ownAddr : d.ownAddr? = s.ownAddr?
  ownUid : d.ownUid = s.ownUid
  reach : ∀ a, d.reach a = s.reach a
  clock : d.clock = s.clock
  get : ∀ {f : Field}, ¬ hearKey f.key → d.get f = s.get f

theorem heard_delivered (p : Fin 4) (f : Frame) (s : State) : Heard s (delivered p.val f s) :=
  ⟨fun v hv => fab_delivered v hv p f s, ownAddr_delivered p f s, ownUid_delivered p f s, reach_delivered p f s, clock_delivered p f s,
    (within_delivered p f s).get⟩

/-- A message that is heard ends in what the firmware makes of it. -/
theorem endsBy_of_hears {c : Instr} {s : State} {p : Fin 4} {f : Frame} {k : State → State} {P : State → Prop} (hh : s.hears p = true)
    (hexec : exec c s = arrive (some p) f k s) (hP : ∀ d, Heard s d → P (k d)) : EndsBy after c s P :=
  .of_next (g := after) (hexec.trans (arrive_of_hears hh f k)) (hP _ (heard_delivered p f s))

end Sys2Proof.Machine
end

section
/-! Routing and addresses (R389 to R392): the obligation O27. -/

open Sys2Proof

namespace Sys2Proof.Machine

/-! A flood's counters and no more -/

/-- The ports' transmit counters. -/
def txFields : List Field := (List.range 4).map Reg.FAB_PORT_TX_CNT

@[reducible] def txFieldKey (k : Nat) : Prop := k ∈ txFields.map Field.key

/-- What a flood changes besides, blanked. -/
@[reducible] def floodMask (s : State) : State := { s with regs := [], out := [], fab := { s.fab with ports := [] } }

theorem floodMask_setF (f : Field) (v : Nat) (s : State) : floodMask (setF f v s) = floodMask s := rfl

theorem within_floodSend {p : Nat} (hp : p < 4) (f : Frame) (s : State) : Within txFieldKey floodMask s (sendOut p f s) := by
  unfold sendOut
  exact .setF (.own rfl rfl) _ (List.mem_map_of_mem (List.mem_map_of_mem (List.mem_range.mpr hp))) (floodMask_setF _ _ _)

theorem within_floodPut {p : Nat} (hp : p < 4) (f : Frame) (s : State) : Within txFieldKey floodMask s (putOut p f s) := by
  have hport (g : FabPort → FabPort) : Within txFieldKey floodMask s (onPort p g s) := .own rfl rfl
  unfold putOut
  split_ifs
  · exact within_floodSend hp f s
  · simp only []
    split_ifs
    · exact hport _
    · exact (hport _).trans (within_floodSend hp _ _)

theorem lt_of_mem_upPorts {s : State} {p : Nat} (h : p ∈ s.upPorts) : p < 4 := by
  have hlist := (List.mem_filter.mp h).1
  simp only [List.mem_cons, List.not_mem_nil, or_false] at hlist
  omega

/-- A flood steps counters of ports and fills their queues. -/
theorem within_flood (k : FabKind) (but : Option Nat) (payload : List Nat) (s : State) :
    Within txFieldKey floodMask s (floodFrame k but payload s) := by
  unfold floodFrame
  split_ifs
  · exact .refl _ _ _
  · exact .forEach (.refl _ _ _) fun p hp t => within_floodPut (lt_of_mem_upPorts (List.mem_of_mem_filter hp)) _ t

theorem fab_flood {α : Type} (v : FabPart → α) (hv : ∀ b : FabPart, v { b with ports := [] } = v b) (k : FabKind) (but : Option Nat)
    (payload : List Nat) (s : State) : v (floodFrame k but payload s).fab = v s.fab :=
  (within_flood k but payload s).view (fun t => v t.fab) fun w => hv w.fab

theorem keeps_flood (k : FabKind) (but : Option Nat) (payload : List Nat) (s : State) : Keeps txFields s (floodFrame k but payload s) :=
  (within_flood k but payload s).keeps (fun _ h => h) ((within_flood k but payload s).view State.mem fun _ => rfl)

theorem floodLsa_fields (s : State) : (floodLsa s).fab.lsaSeq = s.fab.lsaSeq + 1 ∧ Keeps txFields s (floodLsa s) :=
  ⟨fab_flood FabPart.lsaSeq (fun _ => rfl) _ _ _ _, (Keeps.of_eq (Keeps.refl txFields s) rfl rfl).trans (keeps_flood _ _ _ _)⟩

/-! Routing messages (R391) -/

/-- A node's record is changed, or made and changed. -/
theorem mem_nodes_onNode (uid : Nat) (f : FabNode → FabNode) (s : State) :
    ∃ n : FabNode, n.uid = uid ∧ f n ∈ (onNode uid f s).fab.nodes := by
  unfold onNode
  simp only []
  split_ifs with h
  · obtain ⟨n, hn, hu⟩ := List.any_eq_true.mp h
    refine ⟨n, by simpa using hu, List.mem_map.mpr ⟨n, hn, if_pos (by simpa using hu)⟩⟩
  · exact ⟨_, rfl, List.mem_append_right _ (.head _)⟩

/-- What the firmware makes of an LSA that is new. -/
def lsaTaken (p uid addr seq : Nat) (links : List LsaLink) (s : State) : State :=
  fabRefresh (floodFrame .lsa (some p) (lsaBytes uid addr seq links) (noteAddr uid addr
    (onNode uid (fun n => { n with addr := addr, lsa := some seq, links := links, heard := s.clock }) s)))

def lsaFrame (uid addr seq : Nat) (links : List LsaLink) (s : State) : Frame :=
  { s.frameFrom .lsa addr 0 with flood := true, payload := lsaBytes uid addr seq links }

theorem exec_lsa_of_new {s : State} {p : Fin 4} {uid addr seq : Nat} {links : List LsaLink} (hh : s.hears p = true) (hu : uid ≠ s.ownUid)
    (hnew : ∀ n ∈ s.fab.nodes, n.uid = uid → ∀ q, n.lsa = some q → q < seq) :
    exec (.lsa p uid addr seq links) s
      = .next (after (lsaTaken p.val uid addr seq links (delivered p.val (lsaFrame uid addr seq links s) s))) := by
  rw [exec_lsa, execLsa]
  refine (arrive_of_hears hh _ _).trans (congrArg (fun t => Host.Outcome.next (after t)) ?_)
  refine if_neg ?_
  change ¬ (uid == (delivered p.val (lsaFrame uid addr seq links s) s).ownUid || _) = true
  rw [ownUid_delivered, fab_delivered FabPart.nodes fun _ => rfl]
  simp only [Bool.or_eq_true, beq_iff_eq, hu, false_or, Bool.not_eq_true]
  cases hfind : s.fab.nodes.find? (fun n => n.uid == uid) with
  | none => rfl
  | some n =>
    have hn : n.uid = uid := by simpa using List.find?_some hfind
    cases hl : n.lsa with
    | none => simp [hl]
    | some q =>
      have := hnew n (List.mem_of_find?_eq_some hfind) hn q hl
      simp [hl, this]

theorem lsaTaken_fields (p uid addr seq : Nat) (links : List LsaLink) (s : State) {t : State} (h : t = lsaTaken p uid addr seq links s) :
    ∃ n ∈ t.fab.nodes, n.uid = uid ∧ n.addr = addr ∧ n.lsa = some seq ∧ n.links = links := by
  obtain ⟨n, hn, hmem⟩ := mem_nodes_onNode uid (fun n => { n with addr := addr, lsa := some seq, links := links, heard := s.clock }) s
  have hnodes : t.fab.nodes = (onNode uid (fun n => { n with addr := addr, lsa := some seq, links := links, heard := s.clock }) s).fab.nodes := by
    rw [h]
    exact (((sends_noteAddr _ _ _).trans (sends_floodFrame _ _ _ _).refresh).trans (sends_fabRefresh _)).within.view (fun t => t.fab.nodes) fun _ => rfl
  rw [hnodes]
  exact ⟨_, hmem, hn, rfl, rfl, rfl⟩

theorem exec_lsaRefresh_of_enabled {s : State} (he : s.on Reg.FAB_CTRL_ENABLE = true) (hf : s.sys.firmwareUp = true) :
    exec .lsaRefresh s = .next (floodLsa s) := (exec_lsaRefresh s).trans (if_pos (by rw [he, hf]; rfl))

/-- The LSA of a node discarded. -/
def lsaExpired (uid : Nat) (s : State) : State := onNode uid (fun n => { n with lsa := none, links := [] }) s

theorem exec_lsaExpiry_of_held {s : State} {uid : Nat} (h : ∃ n ∈ s.fab.nodes, n.uid = uid ∧ n.lsa.isSome = true) :
    exec (.lsaExpiry uid) s = .next (settle (fabRefresh (lsaExpired uid s))) := by
  obtain ⟨n, hn, hu, hl⟩ := h
  exact (exec_lsaExpiry s).trans (if_pos (List.any_eq_true.mpr ⟨n, hn, by simp [hu, hl]⟩))

theorem lsaExpired_fields {s : State} {uid : Nat} (h : ∃ n ∈ s.fab.nodes, n.uid = uid ∧ n.lsa.isSome = true) :
    (∀ n ∈ (lsaExpired uid s).fab.nodes, n.uid = uid → n.lsa = none ∧ n.links = []) ∧ Keeps [] s (lsaExpired uid s) := by
  refine ⟨fun m hm hu => ?_, (Keeps.refl _ s).of_eq rfl rfl⟩
  obtain ⟨n, hn, hnu, -⟩ := h
  have hnodes : (lsaExpired uid s).fab.nodes = s.fab.nodes.map (fun n => if n.uid = uid then { n with lsa := none, links := [] } else n) :=
    if_pos (List.any_eq_true.mpr ⟨n, hn, by simp [hnu]⟩)
  rw [hnodes] at hm
  obtain ⟨k, -, rfl⟩ := List.mem_map.mp hm
  split_ifs at hu ⊢ with hk
  · exact ⟨rfl, rfl⟩
  · exact absurd hu hk

/-! Addresses (R389, R390) -/

theorem isRoot_congr {s t : State} (hf : t.fab = s.fab) (hup : ∀ p, t.portUp p = s.portUp p) (hm : t.mode = s.mode) (hu : t.ownUid = s.ownUid) :
    t.isRoot = s.isRoot := by
  have hport (p : Nat) : t.port p = s.port p := port_congr (congrArg FabPart.ports hf) p
  have hnear : t.neighbours = s.neighbours := by simp only [State.neighbours, hup, hm, hport]
  simp only [State.isRoot, State.rootView, hnear, hf, hu]

theorem grantAddr_congr {s t : State} (hf : t.fab = s.fab) (hr : ∀ a, t.reach a = s.reach a) (ha : t.ownAddr? = s.ownAddr?)
    (hu : t.ownUid = s.ownUid) (hc : t.clock = s.clock) (uid : Nat) (pref : Option Nat) : t.grantAddr uid pref = s.grantAddr uid pref := by
  simp only [State.grantAddr, hf, hr, ha, hu, hc]

/-- A frame of the neighbours alone, for the messages about addresses. -/
def addrFrame (k : FabKind) (s : State) : Frame := { s.frameFrom k 0 0 with linkLocal := true }

/-- A request answered to the neighbour that made it. -/
def addrAnswered (p uid : Nat) (a : Option Nat) (s : State) : State := answerAddr p none uid a (noteGiven a uid s)

theorem exec_addrReq_of_root {s : State} {p : Fin 4} {uid pref a : Nat} (hh : s.hears p = true) (hroot : s.isRoot = true) (hp : pref < 4096)
    (ha : s.grantAddr uid (some pref) = some a) : exec (.addrReq p none uid pref) s
      = .next (after (sendLocal p.val .addrAssign [uid, a] (noteTable a uid (delivered p.val (addrFrame .addrReq s) s)))) := by
  have hfab : (delivered p.val (addrFrame .addrReq s) s).fab = s.fab := fab_delivered_local rfl s
  have hr : (delivered p.val (addrFrame .addrReq s) s).isRoot = true := (isRoot_congr hfab (portUp_delivered _ _ _)
    ((within_delivered _ _ _).get (not_hearKey (.inl (by decide)))) (ownUid_delivered _ _ _)).trans hroot
  have hg : (delivered p.val (addrFrame .addrReq s) s).grantAddr uid (if pref < 4096 then some pref else none) = some a := by
    rw [if_pos hp]
    exact (grantAddr_congr hfab (reach_delivered _ _ _) (ownAddr_delivered _ _ _) (ownUid_delivered _ _ _) (clock_delivered _ _ _) uid _).trans ha
  rw [exec_addrReq, execAddrReq]
  refine (arrive_of_hears hh _ _).trans (congrArg (fun t => Host.Outcome.next (after t)) ((if_pos hr).trans ?_))
  change addrAnswered p.val uid (State.grantAddr (delivered p.val (addrFrame .addrReq s) s) uid _) (delivered p.val (addrFrame .addrReq s) s) = _
  rw [hg]
  rfl

theorem addrGiven_fields (p : Fin 4) (uid a : Nat) (f : Frame) (s : State) {t : State}
    (h : t = sendLocal p.val .addrAssign [uid, a] (noteTable a uid (delivered p.val f s))) : Assoc.find t.fab.table a = some (uid, s.clock) := by
  have htable : t.fab.table = (noteTable a uid (delivered p.val f s)).fab.table := by
    rw [h]
    exact (sends_sendLocal _ _ _ _).within.view (fun t => t.fab.table) fun _ => rfl
  rw [htable, ← clock_delivered p f s]
  exact (Assoc.find_set _ _ _ _).trans (if_pos rfl)

theorem exec_addrAssign_own {s : State} {p : Fin 4} (hh : s.hears p = true) (a : Nat) : exec (.addrAssign p none s.ownUid (some a)) s
    = .next (after (takeAddr a (delivered p.val (addrFrame .addrAssign s) s))) := by
  rw [exec_addrAssign, execAddrAssign]
  refine (arrive_of_hears hh _ _).trans (congrArg (fun t => Host.Outcome.next (after t)) ?_)
  exact if_pos (ownUid_delivered p (addrFrame .addrAssign s) s).symm

/-- A refusal noted. -/
def addrRefused (s : State) : State := { s with fab := { s.fab with refused := true, asked := false } }

theorem exec_addrAssign_refused {s : State} {p : Fin 4} (hh : s.hears p = true) : exec (.addrAssign p none s.ownUid none) s
    = .next (after (addrRefused (delivered p.val (addrFrame .addrAssign s) s))) := by
  rw [exec_addrAssign, execAddrAssign]
  refine (arrive_of_hears hh _ _).trans (congrArg (fun t => Host.Outcome.next (after t)) ?_)
  exact if_pos (ownUid_delivered p (addrFrame .addrAssign s) s).symm

/-- An address taken, before its LSA goes out. -/
def addrWritten (a : Nat) (s : State) : State :=
  let s1 := setF Reg.FAB_ADDR_VALID 1 (setF Reg.FAB_ADDR_ADDR a s)
  { s1 with fab := { s1.fab with pref := some a, refused := false, asked := false } }

theorem sends_addrTold (a : Nat) (s : State) : Sends electKey electMask (addrWritten a s) (takeAddr a s) :=
  ((sends_floodLsa _).elect.trans (sends_hostEvent 4 _)).trans (sends_electBellwether _)

theorem takeAddr_fields {a : Nat} (ha : a < 4096) (s : State) {t : State} (h : t = takeAddr a s) :
    t.get Reg.FAB_ADDR_ADDR = a ∧ t.get Reg.FAB_ADDR_VALID = 1 ∧ t.fab.pref = some a ∧ t.fab.refused = false := by
  have hsend := sends_addrTold a s
  have hget (f : Field) : (addrWritten a s).get f = (setF Reg.FAB_ADDR_VALID 1 (setF Reg.FAB_ADDR_ADDR a s)).get f := get_of_regs f rfl
  rw [h]
  refine ⟨?_, ?_, hsend.within.view (fun t => t.fab.pref) fun _ => rfl, hsend.within.view (fun t => t.fab.refused) fun _ => rfl⟩
  · rw [hsend.get (by decide), hget, get_setF_ne _ _ _ _ (by decide), get_setF_of_lt ha]
  · rw [hsend.get (by decide), hget, get_setF_one rfl]

/-- The request may be made again. -/
def mayAskAgain (s : State) : State := { s with fab := { s.fab with refused := false, asked := false } }

theorem exec_addrRetry_of_refused {s : State} (h : s.fab.refused = true) : exec .addrRetry s = .next (settle (needAddr (mayAskAgain s))) :=
  (exec_addrRetry s).trans (if_pos h)

/-- Settles O27: the firmware acts on a delivered message as its helpers above describe. -/
theorem fabricRoutingComplete : Obligations.FabricRoutingComplete := by
  refine ⟨fun s p uid addr seq links hh hu hnew => ?lsa, fun s he hf => ?refreshed, fun s uid h => ?expired,
    fun s p uid pref a hh hr hp ha => ?request, fun s p a hh => ?assigned, fun s p hh => ?refused, fun s h => ?retry⟩
  case lsa => exact .of_next (g := after) (exec_lsa_of_new hh hu hnew) (lsaTaken_fields _ _ _ _ _ _ rfl)
  case refreshed => exact .of_next (exec_lsaRefresh_of_enabled he hf) (floodLsa_fields s)
  case expired => exact .of_next (g := fun t => settle (fabRefresh t)) (exec_lsaExpiry_of_held h) (lsaExpired_fields h)
  case request => exact .of_next (g := after) (exec_addrReq_of_root hh hr hp ha) (addrGiven_fields p uid a _ s rfl)
  case assigned => exact .of_next (g := after) (exec_addrAssign_own hh a.val) (takeAddr_fields a.isLt _ rfl)
  case refused =>
    exact .of_next (g := after) (exec_addrAssign_refused hh) ⟨rfl, (ownAddr_congr fun _ _ => get_of_regs _ rfl).trans (ownAddr_delivered p _ s)⟩
  case retry =>
    exact .of_next (g := fun t => settle (needAddr t)) (exec_addrRetry_of_refused h) ⟨rfl, rfl, (Keeps.refl _ s).of_eq rfl rfl⟩

end Sys2Proof.Machine
end

section
/-! The budget record and power tokens (R395 to R401): the obligation O28. -/

open Sys2Proof

namespace Sys2Proof.Machine

/-! What the bellwether asks of the node -/

theorem isBellwether_congr {s t : State} (hb : t.fab.bellwether = s.fab.bellwether) (ha : t.ownAddr? = s.ownAddr?) :
    t.isBellwether = s.isBellwether := by rw [State.isBellwether, hb, ha]; rfl

theorem uidOf_congr {s t : State} (ha : t.ownAddr? = s.ownAddr?) (hu : t.ownUid = s.ownUid) (hn : t.fab.nodes = s.fab.nodes) (a : Nat) :
    t.uidOf a = s.uidOf a := by rw [State.uidOf, ha, hu, hn]; rfl

theorem quorum_congr {s t : State} (hr : ∀ a, t.reach a = s.reach a) (hu : t.ownUid = s.ownUid) (hn : t.fab.nodes = s.fab.nodes)
    (hk : t.fab.nReg = s.fab.nReg) : t.quorum = s.quorum := by simp only [State.quorum, hr, hu, hn, hk]

theorem Heard.isBellwether {s d : State} (h : Heard s d) : d.isBellwether = s.isBellwether :=
  isBellwether_congr (h.fab FabPart.bellwether fun _ => rfl) h.ownAddr

theorem Heard.uidOf {s d : State} (h : Heard s d) (a : Nat) : d.uidOf a = s.uidOf a :=
  uidOf_congr h.ownAddr h.ownUid (h.fab FabPart.nodes fun _ => rfl) a

/-! The budget record (R395, R396) -/

theorem fab_finishAll (l : List Nat) (st r : Nat) (s : State) : (finishAll l st r s).fab = s.fab :=
  (within_finishAll l st r s).view State.fab fun _ => rfl

/-- Commands that waited for the record leave it. -/
theorem fab_finishBudget {α : Type} (v : FabPart → α) (hv : ∀ (b : FabPart) (c : List (Nat × Nat)), v { b with cmds := c } = v b) (s : State) :
    v (finishBudget s).fab = v s.fab := by
  rw [finishBudget, fab_finishAll]
  exact hv _ _

theorem fab_finishForget {α : Type} (v : FabPart → α) (hv : ∀ (b : FabPart) (c : List (Nat × Nat)), v { b with cmds := c } = v b) (s : State) :
    v (finishForget s).fab = v s.fab := by
  rw [finishForget, fab_finishAll]
  exact hv _ _

/-- The five values of the record. -/
def FabPart.record (b : FabPart) : Nat × (Nat × (Nat × (Nat × Nat))) := (b.budgetW, b.isolatedW, b.nReg, b.version, b.versionUid)

/-- A record that wins is stored. -/
def recordStored (w i n v u : Nat) (s : State) : State :=
  { s with fab := { s.fab with budgetW := w, isolatedW := i, nReg := n, version := v, versionUid := u } }

/-- What the firmware makes of a record. -/
def recordHeard (p w i n v u : Nat) (s : State) : State :=
  if s.fab.version < v ∨ (v = s.fab.version ∧ u < s.fab.versionUid) then
    finishForget (finishBudget (floodFrame .budget (some p) (recordStored w i n v u s).budgetValues (recordStored w i n v u s)))
  else s

theorem recordHeard_fields {p w i n v u : Nat} {s : State} (hv : s.fab.version < v ∨ (v = s.fab.version ∧ u < s.fab.versionUid)) {t : State}
    (h : t = recordHeard p w i n v u s) :
    t.fab.budgetW = w ∧ t.fab.isolatedW = i ∧ t.fab.nReg = n ∧ t.fab.version = v ∧ t.fab.versionUid = u := by
  have hrecord : t.fab.record = (w, i, n, v, u) := by
    rw [h, recordHeard, if_pos hv, fab_finishForget FabPart.record fun _ _ => rfl, fab_finishBudget FabPart.record fun _ _ => rfl,
      fab_flood FabPart.record fun _ => rfl]
    rfl
  simpa only [FabPart.record, Prod.mk.injEq] using hrecord

/-- A record published, but for the ports that it goes out on. -/
theorem fab_publishBudget {α : Type} (v : FabPart → α) (hv : ∀ b : FabPart, v { b with ports := [] } = v b) (g : FabPart → FabPart) (s : State) :
    v (publishBudget g s).fab = v { g s.fab with version := s.fab.version + 1, versionUid := s.ownUid } := fab_flood v hv _ _ _ _

/-- What the firmware makes of a budget that is set. -/
def budgetHeard (w i : Nat) (s : State) : State :=
  if s.isBellwether then finishBudget (publishBudget (fun b => { b with budgetW := w, isolatedW := i }) s) else s

theorem budgetHeard_fields {w i : Nat} {s : State} (hb : s.isBellwether = true) {t : State} (h : t = budgetHeard w i s) :
    t.fab.budgetW = w ∧ t.fab.isolatedW = i ∧ t.fab.version = s.fab.version + 1 ∧ t.fab.versionUid = s.ownUid := by
  have hrecord : t.fab.record = (w, i, s.fab.nReg, s.fab.version + 1, s.ownUid) := by
    rw [h, budgetHeard, if_pos hb, fab_finishBudget FabPart.record fun _ _ => rfl, fab_publishBudget FabPart.record fun _ => rfl]
    rfl
  simp only [FabPart.record, Prod.mk.injEq] at hrecord
  obtain ⟨hw, hi, -, hv, hu⟩ := hrecord
  exact ⟨hw, hi, hv, hu⟩

/-- A node leaves the registered ones. -/
def nodeForgotten (uid : Nat) (s : State) : State :=
  publishBudget (fun b => { b with nReg := b.nReg - 1, registered := remove b.registered uid }) s

theorem exec_nodeUnheardExpiry_of_registered {s : State} {uid : Nat} (hb : s.isBellwether = true) (hr : uid ∈ s.fab.registered) :
    exec (.nodeUnheardExpiry uid) s = .next (nodeForgotten uid s) := by
  have hin : s.fab.registered.contains uid = true := by simpa using hr
  exact (exec_nodeUnheardExpiry s).trans ((if_pos (by rw [hb, hin]; rfl)).trans (congrArg _ (if_pos (by rw [hin]; rfl))))

theorem keeps_publishBudget (g : FabPart → FabPart) (s : State) : Keeps txFields s (publishBudget g s) :=
  (Keeps.of_eq (Keeps.refl txFields s) rfl rfl).trans (keeps_flood _ _ _ _)

theorem nodeForgotten_fields (uid : Nat) (s : State) : (nodeForgotten uid s).fab.nReg = s.fab.nReg - 1
    ∧ (nodeForgotten uid s).fab.registered = remove s.fab.registered uid ∧ (nodeForgotten uid s).fab.version = s.fab.version + 1
    ∧ Keeps txFields s (nodeForgotten uid s) :=
  ⟨fab_publishBudget FabPart.nReg (fun _ => rfl) _ s, fab_publishBudget FabPart.registered (fun _ => rfl) _ s,
    fab_publishBudget FabPart.version (fun _ => rfl) _ s, keeps_publishBudget _ s⟩

/-! Requests (R397) -/

theorem serveQueue_of_empty {s : State} (h : s.fab.queue = []) : serveQueue s = s := by
  have hlist : [0, 1, 2].flatMap (fun c => s.fab.queue.filter (fun r => r.cls == c)) = [] := by rw [h]; rfl
  unfold serveQueue
  rw [hlist]
  split_ifs <;> rfl

theorem serveQueue_of_closed {s : State} (h : s.fab.granting = false) : serveQueue s = s := if_neg (by simp [h])

/-- A queued request. -/
def reqQueued (r : TokenReq) (s : State) : State := { s with fab := { s.fab with queue := s.fab.queue ++ [r] } }

/-- What the firmware makes of a request. -/
def reqHeard (r : TokenReq) (s : State) : State := if s.isBellwether then serveQueue (reqQueued r s) else s

/-- The registered nodes of a grant, with what of the record follows from them, blanked. -/
@[reducible] def FabPart.granted (b : FabPart) : FabPart :=
  { b with ports := [], nextX := 0, sent := [], lsaSeq := 0, registered := [], nReg := 0, version := 0, versionUid := 0 }

theorem granted_publishBudget (g : FabPart → FabPart) (s : State) : (publishBudget g s).fab.granted = (g s.fab).granted :=
  (fab_publishBudget FabPart.granted (fun _ => rfl) g s).trans rfl

theorem granted_grantTo (a x n : Nat) (s : State) :
    (grantTo a x n s).fab.granted = { s.fab.granted with ledger := Assoc.set s.fab.ledger a ⟨s.uidOf a, n, s.clock + sec 60⟩ } := by
  have hframe (u : State) : (sendFrame .tokenGrant a x [n * 10, 60000] u).fab.granted = u.fab.granted :=
    (sends_sendFrame _ _ _ _ u).within.view (fun t => t.fab.granted) fun _ => rfl
  unfold grantTo
  simp only []
  rw [hframe]
  split_ifs
  · rfl
  · rfl
  · exact granted_publishBudget _ _

theorem ledger_grantTo (a x n : Nat) (s : State) :
    (grantTo a x n s).fab.ledger = Assoc.set s.fab.ledger a ⟨s.uidOf a, n, s.clock + sec 60⟩ :=
  (congrArg FabPart.ledger (granted_grantTo a x n s) :)

theorem queue_grantTo (a x n : Nat) (s : State) : (grantTo a x n s).fab.queue = s.fab.queue :=
  (congrArg FabPart.queue (granted_grantTo a x n s) :)

theorem reported_grantTo (a x n : Nat) (s : State) : (grantTo a x n s).fab.reported = s.fab.reported :=
  (congrArg FabPart.reported (granted_grantTo a x n s) :)

/-- A queue of one request, with no budget set. -/
theorem serveQueue_of_single {s : State} {r : TokenReq} (hq : s.fab.queue = [r]) (hc : r.cls < 3) (hb : s.isBellwether = true)
    (hg : s.fab.granting = true) (hquo : s.quorum = true) (hw : s.fab.budgetW = 0) :
    serveQueue s = grantTo r.src r.xseq r.want { s with fab := { s.fab with queue := [] } } := by
  have hlist : [0, 1, 2].flatMap (fun c => s.fab.queue.filter (fun r => r.cls == c)) = [r] := by
    have hcls : r.cls = 0 ∨ r.cls = 1 ∨ r.cls = 2 := by omega
    rw [hq]
    rcases hcls with h | h | h <;> simp [h]
  have hgrant : s.grantFor r = some r.want := if_pos hw
  unfold serveQueue
  rw [hlist, if_pos (by rw [hb, hg, hquo]; rfl), serveList, hgrant, hq]
  simp only [List.erase_cons_head]
  rfl

theorem reqHeard_queued {r : TokenReq} {s : State} (hb : s.isBellwether = true) (hg : s.fab.granting = false) :
    reqHeard r s = reqQueued r s := (if_pos hb).trans (serveQueue_of_closed hg)

theorem reqServed_fields {r : TokenReq} {s : State} (hc : r.cls < 3) (hb : s.isBellwether = true) (hg : s.fab.granting = true)
    (hquo : s.quorum = true) (hq : s.fab.queue = []) (hw : s.fab.budgetW = 0) {t : State} (h : t = reqHeard r s) :
    t.fab.queue = [] ∧ Assoc.find t.fab.ledger r.src = some ⟨s.uidOf r.src, r.want, s.clock + sec 60⟩ := by
  have hqueue : (reqQueued r s).fab.queue = [r] := congrArg (· ++ [r]) hq
  rw [h, reqHeard, if_pos hb, serveQueue_of_single hqueue hc hb hg hquo hw]
  refine ⟨queue_grantTo _ _ _ _, ?_⟩
  rw [ledger_grantTo, Assoc.find_set, if_pos rfl]
  rfl

/-! Reports, releases, moves (R398 to R401) -/

/-- What a report of a node not yet known leaves in the ledger, the office's start noted. -/
def reportNoted (src heldW : Nat) (s : State) : State :=
  let t1 : State := { s with fab := { s.fab with
    reported := addOnce s.fab.reported (s.uidOf src)
    registered := if heldW = 0 then s.fab.registered else addOnce s.fab.registered (s.uidOf src)
    ledger := Assoc.set s.fab.ledger src ⟨s.uidOf src, heldW / 10, s.clock + sec 60⟩ } }
  { t1 with fab := { t1.fab with granting := t1.fab.granting || decide (t1.fab.nReg ≤ t1.fab.reported.length) } }

def reportServed (src x heldW : Nat) (s : State) : State :=
  if (reportNoted src heldW s).quorum then serveQueue (grantTo src x (heldW / 10) (reportNoted src heldW s)) else reportNoted src heldW s

/-- What the firmware makes of a report. -/
def reportHeard (src x heldW : Nat) (t : State) : State :=
  if !t.isBellwether then t
  else
    let uid := t.uidOf src
    let known := t.fab.reported.contains uid || (Assoc.find t.fab.ledger src).isSome
    let held := if known then t.heldBy src else heldW / 10
    let t1 : State := { t with fab := { t.fab with
      reported := addOnce t.fab.reported uid
      registered := if heldW = 0 then t.fab.registered else addOnce t.fab.registered uid
      ledger := Assoc.set t.fab.ledger src ⟨uid, held, t.clock + sec 60⟩ } }
    let t2 : State := { t1 with fab := { t1.fab with granting := t1.fab.granting || decide (t1.fab.nReg ≤ t1.fab.reported.length) } }
    if t2.quorum then
      let sum := t2.heldTokens * 10
      let n := if t2.fab.budgetW ≠ 0 ∧ t2.fab.budgetW < sum then held * 10 * t2.fab.budgetW / sum / 10 else held
      serveQueue (grantTo src x n t2)
    else t2

theorem reportHeard_of_unknown {src x heldW : Nat} {s : State} (hb : s.isBellwether = true) (hw : s.fab.budgetW = 0)
    (hr : s.uidOf src ∉ s.fab.reported) (hl : Assoc.find s.fab.ledger src = none) : reportHeard src x heldW s = reportServed src x heldW s := by
  have hheld : (if s.fab.reported.contains (s.uidOf src) || (Assoc.find s.fab.ledger src).isSome then s.heldBy src else heldW / 10) = heldW / 10 :=
    if_neg (by simp [hr, hl])
  have hzero (k : Nat) : (if s.fab.budgetW ≠ 0 ∧ s.fab.budgetW < k then heldW / 10 * 10 * s.fab.budgetW / k / 10 else heldW / 10) = heldW / 10 :=
    if_neg fun h => h.1 hw
  rw [reportHeard, if_neg (by simp [hb])]
  simp only [hheld, hzero]
  rfl

theorem mem_addOnce (l : List Nat) (x : Nat) : x ∈ addOnce l x := by
  unfold addOnce
  split_ifs with h
  · exact h
  · simp

theorem reportServed_fields {src x heldW : Nat} {s : State} (hq : s.fab.queue = []) {t : State} (h : t = reportServed src x heldW s) :
    Assoc.find t.fab.ledger src = some ⟨s.uidOf src, heldW / 10, s.clock + sec 60⟩ ∧ s.uidOf src ∈ t.fab.reported := by
  rw [h, reportServed]
  split_ifs
  · rw [serveQueue_of_empty ((queue_grantTo src x (heldW / 10) (reportNoted src heldW s)).trans hq), ledger_grantTo, reported_grantTo]
    exact ⟨(Assoc.find_set _ _ _ _).trans (if_pos rfl), mem_addOnce _ _⟩
  · exact ⟨(Assoc.find_set _ _ _ _).trans (if_pos rfl), mem_addOnce _ _⟩

/-- A holding released. -/
def tokensFreed (src : Nat) (s : State) : State := { s with fab := { s.fab with ledger := Assoc.erase s.fab.ledger src } }

theorem tokensFreed_fields {src : Nat} {s : State} (hb : s.isBellwether = true) (hq : s.fab.queue = []) {t : State}
    (h : t = if s.isBellwether then serveQueue (tokensFreed src s) else s) : Assoc.find t.fab.ledger src = none := by
  rw [h, if_pos hb, serveQueue_of_empty (s := tokensFreed src s) hq]
  exact (Assoc.find_erase _ _ _).trans (if_pos rfl)

/-- A holding moved to another node. -/
def holdingMoved (src lost : Nat) (h : Holder) (s : State) : State :=
  { s with fab := { s.fab with ledger := Assoc.set (Assoc.erase s.fab.ledger lost) src ⟨s.uidOf src, h.held, h.leaseEnd⟩ } }

/-- What the firmware makes of such a move. -/
def moveHeard (src x lost : Nat) (s : State) : State :=
  match Assoc.find s.fab.ledger lost, s.fab.nodes.find? (fun n => n.addr == lost) with
  | some h, some n =>
    if s.isBellwether && n.partner == s.uidOf src then
      sendFrame .tokenGrant src x [h.held * 10, (h.leaseEnd - s.clock) / 1000] (holdingMoved src lost h s)
    else s
  | _, _ => s

theorem moveHeard_fields {src x lost : Nat} {h : Holder} {n : FabNode} {s : State} (hb : s.isBellwether = true)
    (hl : Assoc.find s.fab.ledger lost = some h) (hn : s.fab.nodes.find? (fun n => n.addr == lost) = some n) (hp : n.partner = s.uidOf src)
    (hne : src ≠ lost) {t : State} (ht : t = moveHeard src x lost s) :
    Assoc.find t.fab.ledger src = some ⟨s.uidOf src, h.held, h.leaseEnd⟩ ∧ Assoc.find t.fab.ledger lost = none := by
  have hledger : t.fab.ledger = (holdingMoved src lost h s).fab.ledger := by
    rw [ht, moveHeard, hl, hn]
    simp only [hb, hp, beq_self_eq_true, Bool.and_self, if_true]
    exact (sends_sendFrame _ _ _ _ _).within.view (fun t => t.fab.ledger) fun _ => rfl
  rw [hledger]
  exact ⟨(Assoc.find_set _ _ _ _).trans (if_pos rfl),
    (Assoc.find_set _ _ _ _).trans ((if_neg hne).trans ((Assoc.find_erase _ _ _).trans (if_pos rfl)))⟩

theorem exec_tokenRequestDrop_of_closed {s : State} {src : Nat} {r : TokenReq} (hf : s.fab.queue.find? (fun r => r.src == src) = some r)
    (hg : s.fab.granting = false) :
    exec (.tokenRequestDrop src) s = .next { s with fab := { s.fab with queue := s.fab.queue.erase r } } := by
  rw [exec_tokenRequestDrop, execTokenRequestDrop, hf]
  exact congrArg Host.Outcome.next (serveQueue_of_closed (s := { s with fab := { s.fab with queue := s.fab.queue.erase r } }) hg)

theorem exec_grantStart_of_office {s : State} (hb : s.isBellwether = true) (ho : s.fab.office.isSome = true) (hq : s.fab.queue = []) :
    exec .bellwetherGrantStart s = .next { s with fab := { s.fab with granting := true } } :=
  (exec_bellwetherGrantStart s).trans ((if_pos (by rw [hb, ho]; rfl)).trans (congrArg _ (serveQueue_of_empty hq)))

/-! The holder (R398 to R401) -/

theorem fab_enterMode (m : Nat) (s : State) : (enterMode m s).fab = s.fab := by
  unfold enterMode
  split_ifs
  · rfl
  · exact when_of_eq _ State.fab rfl

theorem loopDue_enterMode (m : Nat) (s : State) : (enterMode m s).sys.loopDue = s.sys.loopDue := by
  unfold enterMode
  split_ifs
  · rfl
  · exact when_of_eq _ (fun t => t.sys.loopDue) rfl

/-- What a change of mode leaves, for a part of the state that neither the end of a test nor a flood changes. -/
theorem view_modeTold {α : Type} (v : State → α) (htest : ∀ m s, v (testOnMode m s) = v s) (hflood : ∀ w, v (floodMask w) = v w) (m : Nat) (s : State) :
    v (tellParity m (testOnMode m s)) = v s := by
  unfold tellParity
  split_ifs
  · exact ((within_flood _ _ _ _).view v hflood).trans (htest m s)
  · exact htest m s

theorem testOnMode_parts (m : Nat) (s : State) : (testOnMode m s).fab = s.fab ∧ (testOnMode m s).sys = s.sys := by
  unfold testOnMode
  split_ifs
  · unfold endTest
    split_ifs <;> exact ⟨rfl, rfl⟩
  · exact ⟨rfl, rfl⟩

theorem toWaking_eq (s : State) : toMode Mode.waking s = enterMode Mode.waking (tellParity Mode.waking (testOnMode Mode.waking s)) := rfl

/-- PARKED left: the lease and the loop's turn stay as they are. -/
theorem leaveParked_parts (s : State) : (leaveParked s).fab.leaseEnd = s.fab.leaseEnd ∧ (leaveParked s).sys.loopDue = s.sys.loopDue := by
  have hreplay {α : Type} (c : Bool) (v : State → α) (hv : ∀ f x u, v (setF f x u) = v u) (u : State) :
      v (when c (setF Reg.JNL_CTRL_REPLAY_DONE 0) u) = v u := when_of_eq c v (hv _ _ _)
  constructor
  · refine (when_of_eq _ (fun t => t.fab.leaseEnd) rfl).trans ?_
    rw [toWaking_eq]
    refine (congrArg FabPart.leaseEnd (fab_enterMode _ _)).trans ?_
    rw [view_modeTold (fun t => t.fab.leaseEnd) (fun m s => by rw [(testOnMode_parts m s).1]) fun _ => rfl]
    exact hreplay _ (fun t => t.fab.leaseEnd) (fun _ _ _ => rfl) s
  · refine (when_of_eq _ (fun t => t.sys.loopDue) rfl).trans ?_
    rw [toWaking_eq]
    refine (loopDue_enterMode _ _).trans ?_
    rw [view_modeTold (fun t => t.sys.loopDue) (fun m s => by rw [(testOnMode_parts m s).2]) fun _ => rfl]
    exact hreplay _ (fun t => t.sys.loopDue) (fun _ _ _ => rfl) s

/-- A holding in force, told to the host, and to the partner. -/
def holdingTold (w : Nat) (s : State) : State := hostEvent 5 (loopAtOnce (setF Reg.PWR_BUDGET_GRANT_W w s))

def holdingSent (w : Nat) (s : State) : State :=
  when s.active (sendMir .token [w, (s.fab.leaseEnd - s.clock) / 1000, s.addr16]) s

def shortfallEnded (s : State) : State := { s with sys := { s.sys with shortfall := 0 } }

/-- A wake that waits for the holding goes on. -/
def wakeGoesOn (s : State) : State :=
  match s.sys.wakeBudget with
  | some need => if s.mode = Mode.parked ∧ need ≤ s.get Reg.PWR_BUDGET_GRANT_W then leaveParked s else s
  | none => s

theorem takeHolding_eq (w : Nat) (s : State) : takeHolding w s = wakeGoesOn (shortfallEnded (holdingSent w (holdingTold w s))) := by
  unfold takeHolding wakeGoesOn shortfallEnded holdingSent holdingTold
  rfl

theorem wakeGoesOn_fields (s : State) : (wakeGoesOn s).get Reg.PWR_BUDGET_GRANT_W = s.get Reg.PWR_BUDGET_GRANT_W
    ∧ (wakeGoesOn s).fab.leaseEnd = s.fab.leaseEnd ∧ (wakeGoesOn s).sys.loopDue = s.sys.loopDue := by
  unfold wakeGoesOn
  split
  · split_ifs
    · exact ⟨get_leaveParked (by decide) (by decide), leaveParked_parts s⟩
    · exact ⟨rfl, rfl, rfl⟩
  · exact ⟨rfl, rfl, rfl⟩

theorem shortfallEnded_fields (s : State) : (shortfallEnded s).get Reg.PWR_BUDGET_GRANT_W = s.get Reg.PWR_BUDGET_GRANT_W
    ∧ (shortfallEnded s).fab.leaseEnd = s.fab.leaseEnd ∧ (shortfallEnded s).sys.loopDue = s.sys.loopDue := ⟨get_of_regs _ rfl, rfl, rfl⟩

theorem fab_sendMir (k : MirKind) (args : List Nat) (s : State) : (sendMir k args s).fab = s.fab ∧ (sendMir k args s).sys = s.sys := by
  unfold sendMir
  split_ifs
  · exact ⟨by unfold passStream; split_ifs <;> rfl, by unfold passStream; split_ifs <;> rfl⟩
  · exact ⟨rfl, rfl⟩

theorem holdingTold_fields (w : Nat) (s : State) : (holdingTold w s).get Reg.PWR_BUDGET_GRANT_W = w % 2 ^ Reg.PWR_BUDGET_GRANT_W.width
    ∧ (holdingTold w s).fab.leaseEnd = s.fab.leaseEnd ∧ (holdingTold w s).sys.loopDue = true := by
  have hhost := within_hostEvent 5 (loopAtOnce (setF Reg.PWR_BUDGET_GRANT_W w s))
  refine ⟨?_, hhost.view (fun t => t.fab.leaseEnd) fun _ => rfl, hhost.view (fun t => t.sys.loopDue) fun _ => rfl⟩
  rw [holdingTold, hhost.get (by decide), loopAtOnce_get, get_setF_self]

theorem holdingSent_fields (w : Nat) (s : State) : (holdingSent w s).get Reg.PWR_BUDGET_GRANT_W = s.get Reg.PWR_BUDGET_GRANT_W
    ∧ (holdingSent w s).fab.leaseEnd = s.fab.leaseEnd ∧ (holdingSent w s).sys.loopDue = s.sys.loopDue :=
  ⟨when_of_eq _ (State.get · Reg.PWR_BUDGET_GRANT_W) (get_sendMir (by decide)),
    when_of_eq _ (fun t => t.fab.leaseEnd) (by rw [(fab_sendMir _ _ _).1]), when_of_eq _ (fun t => t.sys.loopDue) (by rw [(fab_sendMir _ _ _).2])⟩

theorem takeHolding_fields (w : Nat) (s : State) : (takeHolding w s).get Reg.PWR_BUDGET_GRANT_W = w % 2 ^ Reg.PWR_BUDGET_GRANT_W.width
    ∧ (takeHolding w s).fab.leaseEnd = s.fab.leaseEnd ∧ (takeHolding w s).sys.loopDue = true := by
  obtain ⟨hw, hl, hd⟩ := holdingTold_fields w s
  obtain ⟨hw1, hl1, hd1⟩ := holdingSent_fields w (holdingTold w s)
  obtain ⟨hw2, hl2, hd2⟩ := shortfallEnded_fields (holdingSent w (holdingTold w s))
  obtain ⟨hw3, hl3, hd3⟩ := wakeGoesOn_fields (shortfallEnded (holdingSent w (holdingTold w s)))
  rw [takeHolding_eq]
  exact ⟨hw3.trans (hw2.trans (hw1.trans hw)), hl3.trans (hl2.trans (hl1.trans hl)), hd3.trans (hd2.trans (hd1.trans hd))⟩

/-- The lease of a grant, from the frame that it answers. -/
def leaseSet (at' : Nat) (s : State) : State := { s with fab := { s.fab with leaseEnd := at' } }

/-- What the firmware makes of a grant. -/
def grantHeard (x w ms : Nat) (s : State) : State :=
  match s.fab.sent.find? (fun e => e.1 == x && decide (s.clock ≤ e.2 + sec 60)) with
  | some (_, sentAt) => takeHolding w (leaseSet (sentAt + ms * 1000) s)
  | none => s

theorem grantHeard_fields {x w ms : Nat} {e : Nat × Nat} {s : State}
    (he : s.fab.sent.find? (fun e => e.1 == x && decide (s.clock ≤ e.2 + sec 60)) = some e) {t : State} (h : t = grantHeard x w ms s) :
    t.get Reg.PWR_BUDGET_GRANT_W = w % 2 ^ Reg.PWR_BUDGET_GRANT_W.width ∧ t.fab.leaseEnd = e.2 + ms * 1000 ∧ t.sys.loopDue = true := by
  rw [h, grantHeard, he]
  exact takeHolding_fields _ _

theorem grantHeard_of_late {x w ms : Nat} {s : State} (hlate : ∀ e ∈ s.fab.sent, e.1 = x → e.2 + sec 60 < s.clock) : grantHeard x w ms s = s := by
  have hnone : s.fab.sent.find? (fun e => e.1 == x && decide (s.clock ≤ e.2 + sec 60)) = none := by
    refine List.find?_eq_none.mpr fun e he => ?_
    simp only [Bool.and_eq_true, beq_iff_eq, decide_eq_true_eq, not_and, not_le]
    exact hlate e he
  rw [grantHeard, hnone]

theorem tokenReport_fields {s : State} (hw : s.get Reg.PWR_BUDGET_GRANT_W ≠ 0) (hb : s.fab.bellwether.isSome = true) {t : State}
    (h : t = tokenReport s) : t.fab.sent.head? = some (s.fab.nextX % 65536, s.clock) ∧ ∀ a, t.readByte a = s.readByte a := by
  obtain ⟨b, hb⟩ := Option.isSome_iff_exists.mp hb
  have hsend := sends_askBellwether .tokenReport [s.get Reg.PWR_BUDGET_GRANT_W, s.freeVal 16] s
  have ht : t = useFree (askBellwether .tokenReport [s.get Reg.PWR_BUDGET_GRANT_W, s.freeVal 16] s) := by
    rw [h, tokenReport]
    exact if_neg hw
  rw [ht]
  refine ⟨?_, fun a => readByte_of_mem a (hsend.within.view State.mem fun _ => rfl)⟩
  have hclock := (sends_sendFrame .tokenReport b (s.fab.nextX % 65536) [s.get Reg.PWR_BUDGET_GRANT_W, s.freeVal 16] s).within.view State.clock
    fun _ => rfl
  unfold askBellwether
  rw [hb]
  simp only [useFree, useFrees, List.head?_cons, hclock]

theorem exec_leaseExpiry_of_more {s : State} (h : s.fab.isolatedW < s.get Reg.PWR_BUDGET_GRANT_W) :
    exec .leaseExpiry s = .next (settle (takeHolding s.fab.isolatedW s)) := (exec_leaseExpiry s).trans (if_pos h)

/-- Settles O28: the bellwether and the holders act on delivered messages as their helpers above describe. -/
theorem fabricTokensComplete : Obligations.FabricTokensComplete := by
  refine ⟨fun s p w i n v u hh hv => ?record, fun s p src w i hh hb => ?set, fun s uid hb hr => ?unheard,
    fun s p src x want m cls hh hb => ⟨fun hg => ?queued, fun hg hquo hq hw => ?served⟩,
    fun s p src x heldW draw hh hb hq hw hr hl => ?report, fun s p src hh hb hq => ?release,
    fun s p src x lost h n hh hb hl hn hp hne => ?move, fun s src r hf hg => ?drop, fun s hb ho hq => ?start,
    fun s p x w ms e hh hw he => ?grant, fun s p x w ms hh hlate => ?late, fun s hw hb => ?timer, fun s hlt hi => ?expiry,
    fun s w ms a hup => ?inherited⟩
  case record =>
    refine endsBy_of_hears hh (k := recordHeard p.val w i n v u) (exec_budget s) fun d hd => recordHeard_fields ?_ rfl
    rwa [hd.fab FabPart.version fun _ => rfl, hd.fab FabPart.versionUid fun _ => rfl]
  case set =>
    refine endsBy_of_hears hh (k := budgetHeard w i) (exec_budget s) fun d hd => ?_
    have hset := budgetHeard_fields (w := w) (i := i) (hd.isBellwether.trans hb) rfl
    rwa [hd.fab FabPart.version fun _ => rfl, hd.ownUid] at hset
  case unheard => exact .of_next (exec_nodeUnheardExpiry_of_registered hb hr) (nodeForgotten_fields uid s)
  case queued =>
    refine endsBy_of_hears hh (k := reqHeard ⟨src, x, want, m, Nat.min cls 2⟩) (exec_tokenReq s) fun d hd => ?_
    rw [reqHeard_queued (hd.isBellwether.trans hb) ((hd.fab FabPart.granting fun _ => rfl).trans hg)]
    exact ⟨congrArg (· ++ _) (hd.fab FabPart.queue fun _ => rfl), hd.fab FabPart.ledger fun _ => rfl⟩
  case served =>
    have hcls : Nat.min cls 2 < 3 := (Nat.min_le_right cls 2).trans_lt (by decide)
    refine endsBy_of_hears hh (k := reqHeard ⟨src, x, want, m, Nat.min cls 2⟩) (exec_tokenReq s) fun d hd => ?_
    have hquo' : d.quorum = true :=
      (quorum_congr hd.reach hd.ownUid (hd.fab FabPart.nodes fun _ => rfl) (hd.fab FabPart.nReg fun _ => rfl)).trans hquo
    have hserved := reqServed_fields (r := ⟨src, x, want, m, Nat.min cls 2⟩) hcls (hd.isBellwether.trans hb)
      ((hd.fab FabPart.granting fun _ => rfl).trans hg) hquo' ((hd.fab FabPart.queue fun _ => rfl).trans hq)
      ((hd.fab FabPart.budgetW fun _ => rfl).trans hw) rfl
    rwa [hd.uidOf, hd.clock] at hserved
  case report =>
    refine endsBy_of_hears hh (k := reportHeard src x heldW) (exec_tokenReport s) fun d hd => ?_
    have hr' : d.uidOf src ∉ d.fab.reported := by rwa [hd.uidOf, hd.fab FabPart.reported fun _ => rfl]
    have hl' : Assoc.find d.fab.ledger src = none := by rwa [hd.fab FabPart.ledger fun _ => rfl]
    rw [reportHeard_of_unknown (hd.isBellwether.trans hb) ((hd.fab FabPart.budgetW fun _ => rfl).trans hw) hr' hl']
    have hreport := reportServed_fields (src := src) (x := x) (heldW := heldW) ((hd.fab FabPart.queue fun _ => rfl).trans hq) rfl
    rwa [hd.uidOf, hd.clock] at hreport
  case release =>
    refine endsBy_of_hears hh (k := fun d => if d.isBellwether then serveQueue (tokensFreed src d) else d) (exec_tokenRelease s) fun d hd => ?_
    exact tokensFreed_fields (hd.isBellwether.trans hb) ((hd.fab FabPart.queue fun _ => rfl).trans hq) rfl
  case move =>
    refine endsBy_of_hears hh (k := moveHeard src x lost) (exec_leaseMove s) fun d hd => ?_
    have hl' : Assoc.find d.fab.ledger lost = some h := by rwa [hd.fab FabPart.ledger fun _ => rfl]
    have hn' : d.fab.nodes.find? (fun n => n.addr == lost) = some n := by rwa [hd.fab FabPart.nodes fun _ => rfl]
    have hmove := moveHeard_fields (x := x) (hd.isBellwether.trans hb) hl' hn' (hp.trans (hd.uidOf src).symm) hne rfl
    rwa [hd.uidOf] at hmove
  case drop => exact .of_next (exec_tokenRequestDrop_of_closed hf hg) ⟨rfl, (Keeps.refl _ s).of_eq rfl rfl⟩
  case start => exact .of_next (exec_grantStart_of_office hb ho hq) ⟨rfl, (Keeps.refl _ s).of_eq rfl rfl⟩
  case grant =>
    refine endsBy_of_hears hh (k := grantHeard x w ms) (exec_tokenGrant s) fun d hd => grantHeard_fields ?_ rfl
    rwa [hd.fab FabPart.sent fun _ => rfl, hd.clock]
  case late =>
    refine endsBy_of_hears hh (k := grantHeard x w ms) (exec_tokenGrant s) fun d hd => ?_
    rw [grantHeard_of_late (by rwa [hd.fab FabPart.sent fun _ => rfl, hd.clock])]
    exact ⟨hd.get (not_hearKey (.inl (by decide))), hd.fab FabPart.leaseEnd fun _ => rfl⟩
  case timer => exact .of_next (exec_tokenReportTimer s) (tokenReport_fields hw hb rfl)
  case expiry => exact .of_next (g := settle) (exec_leaseExpiry_of_more hlt) (takeHolding_fields _ _).1
  case inherited =>
    refine .of_next (g := settle) ((exec_token s).trans (exec_receive hup)) ⟨rfl, ?_⟩
    exact (keeps_bump _ s).of_eq rfl rfl

end Sys2Proof.Machine
end

section
/-! The backup pack's charging and its gauge (R313 to R325): the obligation O29. -/

open Sys2Proof

namespace Sys2Proof.Machine

/-! What the pack's shared work leaves -/

/-- The keys of the level's registers; those that the pack's health writes with them; those that a learned capacity writes. -/
@[reducible] def levelKey (k : Nat) : Prop :=
  k ∈ [Reg.JNL_STATUS_LEVEL, Reg.JNL_EVENT_LEVEL_CHANGE, Reg.JNL_LEVEL_CHANGE_CNT, Reg.JNL_STATUS_EXPOSED, Reg.JNL_EVENT_EXPOSED,
    Reg.JNL_EXPOSED_CNT].map Field.key

@[reducible] def healthKey (k : Nat) : Prop :=
  levelKey k ∨ outerKey k ∨ k ∈ [Reg.JNL_CTRL_PACK_HEALTHY, Reg.JNL_CEILING_CEIL_MIB, Reg.FOV_MIR_TX_CNT].map Field.key

@[reducible] def learnKey (k : Nat) : Prop :=
  outerKey k ∨ k ∈ [Reg.BAT_CAP_FCC_DMAH, Reg.BAT_EST_CAP_SUSPECT, Reg.BAT_EST_CAP_UNLEARNED].map Field.key

@[reducible] def suspectKey (k : Nat) : Prop := learnKey k ∨ k = Reg.BAT_CTRL_LEARN.key

/-- What the level and the health change besides, blanked; what learning changes besides, blanked. -/
@[reducible] def healthMask (s : State) : State :=
  { s with regs := [], jnl := {}, cmd := {}, hif := {}, out := [], fov := { s.fov with ordSeq := 0, othSeq := 0 } }

@[reducible] def learnMask (s : State) : State :=
  { s with regs := [], mem := [], cmd := {}, hif := {}, out := [],
           bat := { s.bat with lastLearn := 0, lastMethod := 0, worn := false, storeDue := false, lastRest := none } }

theorem within_setLevelOnly (l : Nat) (s : State) : Within levelKey healthMask s (setLevel l s) := by
  have hlog : Within levelKey healthMask s (logPlain 2 [s.get Reg.JNL_STATUS_LEVEL, l] s) := .own rfl rfl
  exact .event (.setF hlog l (by decide) (by rfl)) (by decide) (by decide) (by rfl)

theorem within_exposeOnly (s : State) : Within levelKey healthMask s (expose s) := by
  unfold expose
  split_ifs
  · exact .refl _ _ _
  · exact .event (.setF (.refl _ _ _) _ (by decide) (by rfl)) (by decide) (by decide) (by rfl)

theorem within_level (s : State) : Within levelKey healthMask s (reselect s) := by
  have hfree : Within levelKey healthMask s (if s.jnl.toWt then releaseHeld { s with jnl := { s.jnl with toWt := false } } else s) := by
    split_ifs
    · exact .own rfl rfl
    · exact .refl _ _ _
  unfold reselect
  simp only []
  split
  · split
    · exact .refl _ _ _
    · exact .own rfl rfl
  · split
    · exact hfree
    · split
      · exact (hfree.trans (within_setLevelOnly _ _)).trans (within_exposeOnly _)
      · exact hfree.trans (within_setLevelOnly _ _)

/-- PACK_HEALTHY reads as it is set. -/
theorem on_setPackHealthy (b : Bool) (s : State) : (setPackHealthy b s).on Reg.JNL_CTRL_PACK_HEALTHY = b := by
  unfold setPackHealthy
  split_ifs with h
  · exact h
  · rw [(within_level _).on (by decide), on_setF_b2n rfl]

theorem within_setPackHealthy (b : Bool) (s : State) : Within healthKey healthMask s (setPackHealthy b s) := by
  unfold setPackHealthy
  split_ifs
  · exact .refl _ _ _
  · exact (Within.setF (.refl _ _ _) _ (by decide) (by rfl)).trans ((within_level _).mono .inl fun _ => rfl)

theorem within_sendHealth (k : MirKind) (args : List Nat) (s : State) : Within healthKey healthMask s (sendMir k args s) := by
  have hpass : Within healthKey healthMask s (passStream k s) := by
    unfold passStream
    split_ifs <;> exact .own rfl rfl
  unfold sendMir
  split_ifs
  · exact .bump (hpass.parts (by rfl) (by rfl)) (by decide) (by rfl)
  · exact .refl _ _ _

theorem within_healthCeiling (s : State) : Within healthKey healthMask s (updateCeiling s) := by
  have hown : Within healthKey healthMask s { s with jnl := { s.jnl with ownCeiling := s.ownCeiling } } := .own rfl rfl
  exact .setF (hown.when (within_sendHealth _ _ _)) _ (by decide) (by rfl)

theorem within_healthChange (k : Nat) (s : State) : Within healthKey healthMask s (packChange k s) := by
  have hlog (d : List Nat) : Within healthKey healthMask s (logPlain 0xE d s) := .own rfl rfl
  exact (hlog _).trans ((within_hostEvent 3 _).mono (fun h => .inr (.inl h)) fun _ => rfl)

theorem within_writeHealth (s : State) : Within healthKey healthMask s (writeHealth s) := by
  unfold writeHealth
  simp only []
  split_ifs
  · exact .refl _ _ _
  all_goals exact ((within_healthCeiling s).trans (within_setPackHealthy _ _)).trans (within_healthChange _ _)

theorem within_packChange (k : Nat) (s : State) : Within learnKey learnMask s (packChange k s) := by
  have hlog (d : List Nat) : Within learnKey learnMask s (logPlain 0xE d s) := .own rfl rfl
  exact (hlog _).trans ((within_hostEvent 3 _).mono .inl fun _ => rfl)

theorem within_learnBytes (a : Nat) (l : List Nat) (s : State) : Within learnKey learnMask s (writeBytes a l s) := by
  induction l generalizing a s with
  | nil => exact .refl _ _ _
  | cons b l ih =>
    have hone : Within learnKey learnMask s (writeByte a (BitVec.ofNat 8 b) s) := .own rfl rfl
    exact hone.trans (ih _ _)

theorem within_storeLcap (s : State) : Within learnKey learnMask s (storeLcap s) := by
  have hdue (d : Bool) : Within learnKey learnMask s { s with bat := { s.bat with storeDue := d } } := .own rfl rfl
  unfold storeLcap
  simp only []
  split_ifs
  · exact hdue true
  · exact (hdue false).trans (within_learnBytes _ _ _)

theorem within_acceptLearn (method value : Nat) (s : State) : Within learnKey learnMask s (acceptLearn method value s) := by
  have hset (v : Nat) : Within learnKey learnMask s (setF Reg.BAT_CAP_FCC_DMAH v (setF Reg.BAT_EST_CAP_SUSPECT 0
      (setF Reg.BAT_EST_CAP_UNLEARNED 0 s))) := .setF (.setF (.setF (.refl _ _ _) _ (by decide) (by rfl)) _ (by decide) (by rfl)) _ (by decide) (by rfl)
  have hbat (a b : Nat) (w : Bool) (u : State) :
      Within learnKey learnMask u { u with bat := { u.bat with lastLearn := a, lastMethod := b, worn := w } } := .own rfl rfl
  unfold acceptLearn
  simp only []
  split
  · exact .refl _ _ _
  · exact ((((hset _).trans (hbat _ _ _ _)).trans (within_storeLcap _)).trans (within_packChange _ _)).when (within_packChange _ _)

theorem within_restPair (a b : RestRec) (s : State) : Within learnKey learnMask s (restPair a b s) := by
  have heq : ∃ df, restPair a b s = if 409600 ≤ df ∧ b.time ≤ a.time + sec 2592000 ∧ (a.temp - b.temp).natAbs ≤ 100
      then acceptLearn 2 ((b.count - a.count).natAbs * 10240 / df) s else s := ⟨_, rfl⟩
  obtain ⟨df, hdf⟩ := heq
  rw [hdf]
  split_ifs
  · exact within_acceptLearn _ _ _
  · exact .refl _ _ _

/-- The registers that a doubt of the capacity writes at once. -/
def suspected (s : State) : State :=
  { setF Reg.BAT_CTRL_LEARN 0 (setF Reg.BAT_EST_CAP_SUSPECT 1 s) with bat := { s.bat with lastRest := none } }

theorem within_suspected (s : State) : Within suspectKey learnMask s (suspected s) := by
  have hset : Within suspectKey learnMask s (setF Reg.BAT_CTRL_LEARN 0 (setF Reg.BAT_EST_CAP_SUSPECT 1 s)) :=
    .setF (.setF (.refl _ _ _) _ (by decide) (by rfl)) _ (by decide) (by rfl)
  exact hset.trans (.own rfl rfl)

theorem capSuspect_eq (s : State) : capSuspect s = packChange 8 (suspected s) := rfl

theorem within_capSuspect (s : State) : Within suspectKey learnMask s (capSuspect s) :=
  (within_suspected s).trans ((within_packChange 8 _).mono .inl fun _ => rfl)

theorem learn_capSuspect (s : State) : (capSuspect s).get Reg.BAT_CTRL_LEARN = 0 := by
  have hset : (suspected s).get Reg.BAT_CTRL_LEARN = 0 :=
    (get_of_regs (s := setF Reg.BAT_CTRL_LEARN 0 (setF Reg.BAT_EST_CAP_SUSPECT 1 s)) _ rfl).trans (get_setF_zero _ _)
  rw [capSuspect_eq, (within_packChange 8 _).get (by decide), hset]

/-! Charging (R314 to R316) -/

/-- The fields that a start of charging writes. -/
def chargeFields : List Field := [Reg.BAT_STATUS_CHARGING, Reg.BAT_STATUS_CHG_DONE, Reg.BAT_STATUS_EOD, Reg.BAT_CTRL_LEARN]

theorem chargeStart_get (s : State) (f : Field) : (chargeStart s).get f = (setF Reg.BAT_CTRL_LEARN 0 (setF Reg.BAT_STATUS_EOD 0
    (setF Reg.BAT_STATUS_CHG_DONE 0 (setF Reg.BAT_STATUS_CHARGING 1 s)))).get f := get_of_regs f rfl

theorem charging_chargeStart (s : State) : (chargeStart s).get Reg.BAT_STATUS_CHARGING = 1 := by
  rw [chargeStart_get, get_setF_ne _ _ _ _ (by decide), get_setF_ne _ _ _ _ (by decide), get_setF_ne _ _ _ _ (by decide), get_setF_one rfl]

theorem keeps_chargeStart (s : State) : Keeps chargeFields s (chargeStart s) :=
  .of_eq (t := setF Reg.BAT_CTRL_LEARN 0 (setF Reg.BAT_STATUS_EOD 0 (setF Reg.BAT_STATUS_CHG_DONE 0 (setF Reg.BAT_STATUS_CHARGING 1 s))))
    (by simp [chargeFields]) rfl rfl

/-- Charging may begin. -/
def State.mayCharge (s : State) : Bool :=
  s.on Reg.BAT_CTRL_CHG_EN && s.on Reg.BAT_STATUS_PRESENT && !s.on Reg.BAT_STATUS_CHG_INHIBIT && !s.bat.chgFault && !s.on Reg.BAT_STATUS_CHARGING

theorem chargeIfAllowed_eq (s : State) : chargeIfAllowed s = if s.mayCharge then chargeStart s else s := rfl

theorem keeps_chargeIfAllowed (s : State) : Keeps chargeFields s (chargeIfAllowed s) := by
  rw [chargeIfAllowed_eq]
  split_ifs
  · exact keeps_chargeStart s
  · exact Keeps.refl _ _

theorem bat_chargeIfAllowed {α : Type} (v : BatPart → α) (hv : ∀ (b : BatPart) (q : Nat), v { b with chargeQ := q } = v b) (s : State) :
    v (chargeIfAllowed s).bat = v s.bat := by
  rw [chargeIfAllowed_eq]
  split_ifs
  · exact hv _ _
  · rfl

/-- Where everything allows it the pack charges, or did so before. -/
theorem on_charging_chargeIfAllowed {s : State} (he : s.on Reg.BAT_CTRL_CHG_EN = true) (hp : s.on Reg.BAT_STATUS_PRESENT = true)
    (hi : s.on Reg.BAT_STATUS_CHG_INHIBIT = false) (hf : s.bat.chgFault = false) : (chargeIfAllowed s).on Reg.BAT_STATUS_CHARGING = true := by
  rw [chargeIfAllowed_eq]
  split_ifs with h
  · exact on_eq_true (charging_chargeStart s)
  · simpa [State.mayCharge, he, hp, hi, hf] using h

/-- Where it did not, it begins to. -/
theorem charging_chargeIfAllowed {s : State} (he : s.on Reg.BAT_CTRL_CHG_EN = true) (hp : s.on Reg.BAT_STATUS_PRESENT = true)
    (hi : s.on Reg.BAT_STATUS_CHG_INHIBIT = false) (hf : s.bat.chgFault = false) (hc : s.on Reg.BAT_STATUS_CHARGING = false) :
    (chargeIfAllowed s).get Reg.BAT_STATUS_CHARGING = 1 := by
  rw [chargeIfAllowed_eq, if_pos (by simp [State.mayCharge, he, hp, hi, hf, hc])]
  exact charging_chargeStart s

/-- CHG_EN set, with no fault standing. -/
def chargeAllowed (s : State) : State := { setF Reg.BAT_CTRL_CHG_EN 1 s with bat := { s.bat with chgFault := false } }

theorem chargeAllowed_get (s : State) (f : Field) : (chargeAllowed s).get f = (setF Reg.BAT_CTRL_CHG_EN 1 s).get f := get_of_regs f rfl

theorem keeps_chargeAllowed (s : State) : Keeps [Reg.BAT_CTRL_CHG_EN] s (chargeAllowed s) :=
  .of_eq (t := setF Reg.BAT_CTRL_CHG_EN 1 s) (by simp) rfl rfl

theorem writeChgEn_true {s : State} (h : s.on Reg.BAT_CTRL_CHG_EN = false) : writeChgEn true s = chargeIfAllowed (chargeAllowed s) := by
  rw [writeChgEn]
  exact (if_neg (by simp)).trans (if_neg (by simp [h]))

theorem writeChgEn_false (s : State) : writeChgEn false s = setF Reg.BAT_STATUS_CHARGING 0 (setF Reg.BAT_CTRL_CHG_EN 0 s) := rfl

theorem writeChgEn_true_fields {s : State} (h : s.on Reg.BAT_CTRL_CHG_EN = false) {t : State} (ht : t = writeChgEn true s) :
    t.get Reg.BAT_CTRL_CHG_EN = 1 ∧ t.bat.chgFault = false
      ∧ (s.on Reg.BAT_STATUS_PRESENT = true → s.on Reg.BAT_STATUS_CHG_INHIBIT = false → t.get Reg.BAT_STATUS_CHARGING = 1
          ∨ s.on Reg.BAT_STATUS_CHARGING = true)
      ∧ Keeps [Reg.BAT_CTRL_CHG_EN, Reg.BAT_STATUS_CHARGING, Reg.BAT_STATUS_CHG_DONE, Reg.BAT_STATUS_EOD, Reg.BAT_CTRL_LEARN] s t := by
  have hen : (chargeAllowed s).get Reg.BAT_CTRL_CHG_EN = 1 := (chargeAllowed_get s _).trans (get_setF_one rfl s)
  have hkeep := keeps_chargeIfAllowed (chargeAllowed s)
  rw [ht, writeChgEn_true h]
  refine ⟨(hkeep.get (by decide)).trans hen, bat_chargeIfAllowed BatPart.chgFault (fun _ _ => rfl) _, fun hp hi => ?_,
    ((keeps_chargeAllowed s).mono (by decide)).trans (hkeep.mono (by decide))⟩
  have hget {f : Field} (hf : f.key ∉ [Reg.BAT_CTRL_CHG_EN].map Field.key) : (chargeAllowed s).on f = s.on f := by
    rw [State.on, (keeps_chargeAllowed s).get hf]; rfl
  cases hc : s.on Reg.BAT_STATUS_CHARGING with
  | true => exact .inr rfl
  | false => exact .inl (charging_chargeIfAllowed (on_eq_true hen) ((hget (by decide)).trans hp) ((hget (by decide)).trans hi) rfl
      ((hget (by decide)).trans hc))

/-- CHG_EN written 0 and then 1 (R315). -/
theorem chargeRestart_fields (s : State) {t : State} (ht : t = writeChgEn true (writeChgEn false s)) :
    t.get Reg.BAT_CTRL_CHG_EN = 1 ∧ t.bat.chgFault = false
      ∧ (s.on Reg.BAT_STATUS_PRESENT = true → s.on Reg.BAT_STATUS_CHG_INHIBIT = false → t.get Reg.BAT_STATUS_CHARGING = 1)
      ∧ t.bat.desc = s.bat.desc
      ∧ Keeps [Reg.BAT_CTRL_CHG_EN, Reg.BAT_STATUS_CHARGING, Reg.BAT_STATUS_CHG_DONE, Reg.BAT_STATUS_EOD, Reg.BAT_CTRL_LEARN] s t := by
  have hoff : (writeChgEn false s).on Reg.BAT_CTRL_CHG_EN = false := by
    rw [writeChgEn_false]
    exact on_eq_false (by rw [get_setF_ne _ _ _ _ (by decide), get_setF_zero])
  have hidle : (writeChgEn false s).on Reg.BAT_STATUS_CHARGING = false := on_eq_false (get_setF_zero _ _)
  have hstop : Keeps [Reg.BAT_CTRL_CHG_EN, Reg.BAT_STATUS_CHARGING] s (writeChgEn false s) := by
    rw [writeChgEn_false]
    simp
  have hget {f : Field} (hf : f.key ∉ [Reg.BAT_CTRL_CHG_EN, Reg.BAT_STATUS_CHARGING].map Field.key) : (writeChgEn false s).on f = s.on f := by
    rw [State.on, hstop.get hf]; rfl
  obtain ⟨hen, hfault, hcharge, hkeep⟩ := writeChgEn_true_fields hoff ht
  refine ⟨hen, hfault, fun hp hi => ?_, ?_, (hstop.mono (by decide)).trans hkeep⟩
  · exact (hcharge ((hget (by decide)).trans hp) ((hget (by decide)).trans hi)).resolve_right (by rw [hidle]; exact Bool.false_ne_true)
  · rw [ht, writeChgEn_true hoff, bat_chargeIfAllowed BatPart.desc fun _ _ => rfl]
    rfl

/-! The pack put in and taken out (R313) -/

/-- The descriptor of a pack. -/
def packDesc (p : PackInfo) : PackDesc := ⟨p.serial, p.designDmah, p.r25Dmohm, p.ocvCold, p.ocvRoom, p.ocvHot, p.root, p.rootDigest⟩

/-- A pack fitted and read, its readings in the registers. -/
def packShown (mv : Nat) (temp : Int) (s : State) : State :=
  let s1 := event Reg.BAT_EVENT_PRESENT_CHANGE Reg.BAT_PRESENT_CHANGE_CNT (setF Reg.BAT_STATUS_PRESENT 1 s)
  setF Reg.BAT_VOLT_TEMP (ofSigned 12 temp) (setF Reg.BAT_VOLT_V_MV mv s1)

def packRead (p : PackInfo) (mv : Nat) (temp : Int) (s : State) : State :=
  let s2 := packShown mv temp s
  setF Reg.BAT_CAP_DESIGN_DMAH p.designDmah { s2 with bat := { s2.bat with desc := some (packDesc p) } }

/-- Its charge taken from its voltage. -/
def packGauged (p : PackInfo) (mv : Nat) (temp : Int) (s : State) : State :=
  let s4 := loadLcap (packDesc p) (packRead p mv temp s)
  { s4 with bat := { s4.bat with qRem := packFrac (packDesc p) temp (mv * 1000 : Nat) * s4.fccUah / 1024000 } }

theorem exec_packInserted_eq (p : PackInfo) (mv : Nat) (temp : Int) (ok : Bool) (s : State) : exec (.packInserted p mv temp ok) s
    = .next (writeChgEn true (writeChgEn false (authOutcome ok (packChange 1 (packGauged p mv temp s))))) := by
  rw [exec_packInserted, execPackInserted]
  unfold packGauged packRead packShown packDesc
  rfl

/-- What loading a capacity changes besides, blanked. -/
@[reducible] def loadMask (s : State) : State := { s with regs := [], bat := { desc := s.bat.desc } }

theorem within_loadLcap (d : PackDesc) (s : State) : Within learnKey loadMask s (loadLcap d s) := by
  have hset (a b : Nat) : Within learnKey loadMask s (setF Reg.BAT_EST_CAP_UNLEARNED a (setF Reg.BAT_CAP_FCC_DMAH b s)) :=
    .setF (.setF (.refl _ _ _) _ (by decide) (by rfl)) _ (by decide) (by rfl)
  unfold loadLcap
  split
  · next n r _ => exact (hset 0 r.fccDmah).parts (by rfl) (by rfl)
  · exact (hset 1 d.designDmah).parts (by rfl) (by rfl)

theorem packRead_fields (p : PackInfo) (mv : Nat) (temp : Int) (s : State) : (packRead p mv temp s).get Reg.BAT_STATUS_PRESENT = 1
    ∧ (packRead p mv temp s).get Reg.BAT_EVENT_PRESENT_CHANGE = 1
    ∧ (packRead p mv temp s).get Reg.BAT_CAP_DESIGN_DMAH = p.designDmah % 2 ^ Reg.BAT_CAP_DESIGN_DMAH.width
    ∧ (packRead p mv temp s).on Reg.BAT_STATUS_CHG_INHIBIT = s.on Reg.BAT_STATUS_CHG_INHIBIT := by
  have hdesc (u : State) (b : BatPart) (f : Field) : ({ u with bat := b } : State).get f = u.get f := get_of_regs f rfl
  unfold packRead packShown
  simp only [State.on]
  refine ⟨?_, ?_, get_setF_self _ _ _, ?_⟩
  · rw [get_setF_ne _ _ _ _ (by decide), hdesc, get_setF_ne _ _ _ _ (by decide), get_setF_ne _ _ _ _ (by decide),
      get_event_ne (by decide) (by decide), get_setF_one rfl]
  · rw [get_setF_ne _ _ _ _ (by decide), hdesc, get_setF_ne _ _ _ _ (by decide), get_setF_ne _ _ _ _ (by decide),
      get_event_flag _ _ _ (by decide) (by decide)]
  · rw [get_setF_ne _ _ _ _ (by decide), hdesc, get_setF_ne _ _ _ _ (by decide), get_setF_ne _ _ _ _ (by decide),
      get_event_ne (by decide) (by decide), get_setF_ne _ _ _ _ (by decide)]

/-- What an exchange changes besides, blanked. -/
@[reducible] def authMask (s : State) : State :=
  { healthMask s with bat := { s.bat with auth := false, authRoot := 0, authFails := 0, authDue := false, lastAuth := 0 } }

/-- The outcome of an exchange leaves the pack's own registers and its descriptor. -/
theorem within_authOutcome (ok : Bool) (s : State) : Within healthKey authMask s (authOutcome ok s) := by
  have hbat (a : Bool) (r n : Nat) (d : Bool) (l : Nat) :
      Within healthKey authMask s { s with bat := { s.bat with auth := a, authRoot := r, authFails := n, authDue := d, lastAuth := l } } := .own rfl rfl
  have hchange (k : Nat) (u : State) : Within healthKey authMask u (packChange k u) := (within_healthChange k u).mono id fun _ => rfl
  have hhealth (u : State) : Within healthKey authMask u (writeHealth u) := (within_writeHealth u).mono id fun _ => rfl
  unfold authOutcome
  split
  · exact ((hbat true _ 0 false (s.nowMs / 1000)).when (hchange 3 _)).trans (hhealth _)
  · simp only []
    generalize hf : (if s.chainsToRoot then s.bat.authFails + 1 else 3) = fails
    split
    · exact hbat s.bat.auth s.bat.authRoot fails s.bat.authDue s.bat.lastAuth
    · exact ((hbat false 0 0 false s.bat.lastAuth).when (hchange 4 _)).trans (hhealth _)

/-- What the fitting of a pack leaves once it is read. -/
theorem packFitted_fields (p : PackInfo) (mv : Nat) (temp : Int) (ok : Bool) (s : State) {t : State}
    (ht : t = authOutcome ok (packChange 1 (packGauged p mv temp s))) : t.get Reg.BAT_STATUS_PRESENT = 1
      ∧ t.get Reg.BAT_EVENT_PRESENT_CHANGE = 1 ∧ t.get Reg.BAT_CAP_DESIGN_DMAH = p.designDmah % 2 ^ Reg.BAT_CAP_DESIGN_DMAH.width
      ∧ t.on Reg.BAT_STATUS_CHG_INHIBIT = s.on Reg.BAT_STATUS_CHG_INHIBIT ∧ t.bat.desc = some (packDesc p) := by
  have hload := within_loadLcap (packDesc p) (packRead p mv temp s)
  have hgauge (f : Field) : (packGauged p mv temp s).get f = (loadLcap (packDesc p) (packRead p mv temp s)).get f := get_of_regs f rfl
  have hauth := within_authOutcome ok (packChange 1 (packGauged p mv temp s))
  have hget {f : Field} (hl : ¬ learnKey f.key) (hh : ¬ healthKey f.key) : t.get f = (packRead p mv temp s).get f := by
    rw [ht, hauth.get hh, (within_healthChange 1 _).get hh, hgauge, hload.get hl]
  obtain ⟨hpres, hevent, hdesign, hinh⟩ := packRead_fields p mv temp s
  refine ⟨(hget (by decide) (by decide)).trans hpres, (hget (by decide) (by decide)).trans hevent, (hget (by decide) (by decide)).trans hdesign, ?_, ?_⟩
  · rw [State.on, hget (by decide) (by decide), ← State.on, hinh]
  · have hdesc : (packGauged p mv temp s).bat.desc = some (packDesc p) := hload.view (fun t => t.bat.desc) fun _ => rfl
    rw [ht, hauth.view (fun t => t.bat.desc) fun _ => rfl, (within_healthChange 1 _).view (fun t => t.bat.desc) fun _ => rfl, hdesc]

theorem packInserted_fields (p : PackInfo) (mv : Nat) (temp : Int) (ok : Bool) (s : State) {t : State}
    (ht : t = writeChgEn true (writeChgEn false (authOutcome ok (packChange 1 (packGauged p mv temp s))))) :
    t.get Reg.BAT_STATUS_PRESENT = 1 ∧ t.get Reg.BAT_EVENT_PRESENT_CHANGE = 1
      ∧ t.get Reg.BAT_CAP_DESIGN_DMAH = p.designDmah % 2 ^ Reg.BAT_CAP_DESIGN_DMAH.width ∧ t.get Reg.BAT_CTRL_CHG_EN = 1
      ∧ t.bat.desc = some (packDesc p) ∧ (s.on Reg.BAT_STATUS_CHG_INHIBIT = false → t.get Reg.BAT_STATUS_CHARGING = 1) := by
  obtain ⟨hpres, hevent, hdesign, hinh, hdesc⟩ := packFitted_fields p mv temp ok s rfl
  obtain ⟨hen, -, hcharge, hd, hkeep⟩ := chargeRestart_fields _ ht
  exact ⟨(hkeep.get (by decide)).trans hpres, (hkeep.get (by decide)).trans hevent, (hkeep.get (by decide)).trans hdesign, hen, hd.trans hdesc,
    fun hi => hcharge (on_eq_true hpres) (hinh.trans hi)⟩

/-- The pack taken out, its registers cleared. -/
def packCleared (s : State) : State :=
  let s1 := event Reg.BAT_EVENT_PRESENT_CHANGE Reg.BAT_PRESENT_CHANGE_CNT (setF Reg.BAT_STATUS_PRESENT 0 s)
  setF Reg.BAT_CTRL_LEARN 0 (setF Reg.BAT_STATUS_CHARGING 0 s1)

/-- No pack known. -/
def packForgotten (s : State) : State :=
  { s with bat := { s.bat with desc := none, auth := false, authRoot := 0, authFails := 0, authDue := false, lastRest := none } }

theorem exec_packRemoved_eq (s : State) : exec .packRemoved s = .next (setPackHealthy false (packForgotten (packChange 2 (packCleared s)))) := by
  rw [exec_packRemoved, execPackRemoved]
  unfold packForgotten packCleared
  simp only []

theorem packCleared_fields (s : State) : (packCleared s).get Reg.BAT_STATUS_PRESENT = 0 ∧ (packCleared s).get Reg.BAT_STATUS_CHARGING = 0
    ∧ (packCleared s).get Reg.BAT_CTRL_LEARN = 0
    ∧ (packCleared s).get Reg.BAT_PRESENT_CHANGE_CNT = (s.get Reg.BAT_PRESENT_CHANGE_CNT + 1) % 2 ^ 32 := by
  unfold packCleared
  refine ⟨?_, ?_, get_setF_zero _ _, ?_⟩
  · rw [get_setF_ne _ _ _ _ (by decide), get_setF_ne _ _ _ _ (by decide), get_event_ne (by decide) (by decide), get_setF_zero]
  · rw [get_setF_ne _ _ _ _ (by decide), get_setF_zero]
  · rw [get_setF_ne _ _ _ _ (by decide), get_setF_ne _ _ _ _ (by decide), get_event_cnt _ _ _ (by decide), get_setF_ne _ _ _ _ (by decide)]
    rfl

theorem packRemoved_fields (s : State) {t : State} (ht : t = setPackHealthy false (packForgotten (packChange 2 (packCleared s)))) :
    t.get Reg.BAT_STATUS_PRESENT = 0 ∧ t.get Reg.BAT_STATUS_CHARGING = 0 ∧ t.get Reg.BAT_CTRL_LEARN = 0
      ∧ t.get Reg.BAT_PRESENT_CHANGE_CNT = (s.get Reg.BAT_PRESENT_CHANGE_CNT + 1) % 2 ^ 32
      ∧ t.on Reg.JNL_CTRL_PACK_HEALTHY = false ∧ t.bat.desc = none ∧ t.bat.auth = false := by
  have hforget (u : State) (f : Field) : (packForgotten u).get f = u.get f := get_of_regs f rfl
  have hset := within_setPackHealthy false (packForgotten (packChange 2 (packCleared s)))
  have hget {f : Field} (hh : ¬ healthKey f.key) : t.get f = (packCleared s).get f := by
    rw [ht, hset.get hh, hforget, (within_healthChange 2 _).get hh]
  obtain ⟨hpres, hcharge, hlearn, hcnt⟩ := packCleared_fields s
  refine ⟨(hget (by decide)).trans hpres, (hget (by decide)).trans hcharge, (hget (by decide)).trans hlearn, (hget (by decide)).trans hcnt, ?_, ?_, ?_⟩
  · rw [ht]
    exact on_setPackHealthy _ _
  · rw [ht]
    exact hset.view (fun t => t.bat.desc) fun _ => rfl
  · rw [ht]
    exact hset.view (fun t => t.bat.auth) fun _ => rfl

/-! Charging ends, and its faults -/

theorem exec_chargeTermination_of_charging {s : State} (h : s.on Reg.BAT_STATUS_CHARGING = true) : exec .chargeTermination s
    = .next (event Reg.BAT_EVENT_CHG_DONE Reg.BAT_CHG_DONE_CNT (setF Reg.BAT_STATUS_CHG_DONE 1 (setF Reg.BAT_STATUS_CHARGING 0 s))) :=
  (exec_chargeTermination s).trans (if_pos h)

theorem chargeTermination_fields (s : State) {t : State}
    (ht : t = event Reg.BAT_EVENT_CHG_DONE Reg.BAT_CHG_DONE_CNT (setF Reg.BAT_STATUS_CHG_DONE 1 (setF Reg.BAT_STATUS_CHARGING 0 s))) :
    t.get Reg.BAT_STATUS_CHARGING = 0 ∧ t.get Reg.BAT_STATUS_CHG_DONE = 1 ∧ t.get Reg.BAT_EVENT_CHG_DONE = 1
      ∧ t.get Reg.BAT_CHG_DONE_CNT = (s.get Reg.BAT_CHG_DONE_CNT + 1) % 2 ^ 32
      ∧ Keeps [Reg.BAT_STATUS_CHARGING, Reg.BAT_STATUS_CHG_DONE, Reg.BAT_EVENT_CHG_DONE, Reg.BAT_CHG_DONE_CNT] s t := by
  rw [ht]
  refine ⟨?_, ?_, get_event_flag _ _ _ (by decide) (by decide), ?_, by simp⟩
  · rw [get_event_ne (by decide) (by decide), get_setF_ne _ _ _ _ (by decide), get_setF_zero]
  · rw [get_event_ne (by decide) (by decide), get_setF_one rfl]
  · rw [get_event_cnt _ _ _ (by decide), get_setF_ne _ _ _ _ (by decide), get_setF_ne _ _ _ _ (by decide)]
    rfl

/-- A fault of charging counted. -/
def chargeFaulted (s : State) : State := event Reg.BAT_EVENT_CHG_FAULT Reg.BAT_CHG_FAULT_CNT (setF Reg.BAT_STATUS_CHARGING 0 s)

/-- With the faults of the last 24 h noted. -/
def faultNoted (s : State) : State :=
  let recent := s.within (sec 86400) s.bat.chgFaultTimes
  let s1 := chargeFaulted s
  { s1 with bat := { s1.bat with chgFault := true, chgFaultTimes := s.clock :: recent, chgLeftOff := !recent.isEmpty } }

/-- A second fault told and shown. -/
def faultTold (s : State) : State := packChange 10 (lightFault s)

theorem exec_chargeTimeout_of_late {s : State} (h : s.on Reg.BAT_STATUS_CHARGING = true) (hq : 4 * 14400 < s.bat.chargeQ) :
    exec .chargeTimeout s = .next (when (!(s.within (sec 86400) s.bat.chgFaultTimes).isEmpty) faultTold (faultNoted s)) := by
  rw [exec_chargeTimeout, execChargeTimeout, if_pos (by simp [h, hq])]
  rfl

theorem faultNoted_get (s : State) (f : Field) : (faultNoted s).get f = (chargeFaulted s).get f := get_of_regs f rfl

theorem within_faultTold (s : State) : Within learnKey (fun s => learnMask { s with sys := { s.sys with faultLed := false } }) s (faultTold s) := by
  have hled : Within learnKey (fun s => learnMask { s with sys := { s.sys with faultLed := false } }) s (lightFault s) := .own rfl rfl
  exact hled.trans ((within_packChange 10 _).mono id fun _ => rfl)

theorem chargeTimeout_fields (s : State) {t : State}
    (ht : t = when (!(s.within (sec 86400) s.bat.chgFaultTimes).isEmpty) faultTold (faultNoted s)) :
    t.get Reg.BAT_STATUS_CHARGING = 0 ∧ t.get Reg.BAT_EVENT_CHG_FAULT = 1
      ∧ t.get Reg.BAT_CHG_FAULT_CNT = (s.get Reg.BAT_CHG_FAULT_CNT + 1) % 2 ^ 32 ∧ t.bat.chgFault = true
      ∧ t.bat.chgLeftOff = !(s.within (sec 86400) s.bat.chgFaultTimes).isEmpty
      ∧ (s.within (sec 86400) s.bat.chgFaultTimes = [] →
          Keeps [Reg.BAT_STATUS_CHARGING, Reg.BAT_EVENT_CHG_FAULT, Reg.BAT_CHG_FAULT_CNT] s t) := by
  have htold := within_faultTold (faultNoted s)
  have hget {f : Field} (hf : ¬ learnKey f.key) : t.get f = (chargeFaulted s).get f := by
    rw [ht, ← faultNoted_get]
    exact when_of_eq _ (State.get · f) (htold.get hf)
  refine ⟨(hget (by decide)).trans ?_, (hget (by decide)).trans (get_event_flag _ _ _ (by decide) (by decide)), (hget (by decide)).trans ?_, ?_, ?_,
    fun hr => ?_⟩
  · exact (get_event_ne (by decide) (by decide)).trans (get_setF_zero _ _)
  · rw [chargeFaulted, get_event_cnt _ _ _ (by decide), get_setF_ne _ _ _ _ (by decide)]
    rfl
  · rw [ht]
    exact when_of_eq _ (fun t => t.bat.chgFault) (htold.view (fun t => t.bat.chgFault) fun _ => rfl)
  · rw [ht]
    exact when_of_eq _ (fun t => t.bat.chgLeftOff) (htold.view (fun t => t.bat.chgLeftOff) fun _ => rfl)
  · rw [ht, hr]
    exact .of_eq (t := chargeFaulted s) (by simp [chargeFaulted]) rfl rfl

/-- The temperature that a window's end shows. -/
def windowLeft (temp : Int) (s : State) : State :=
  setF Reg.BAT_STATUS_CHARGING 0 (setF Reg.BAT_STATUS_CHG_INHIBIT 1 (setF Reg.BAT_VOLT_TEMP (ofSigned 12 temp) s))

def windowEntered (temp : Int) (s : State) : State := setF Reg.BAT_STATUS_CHG_INHIBIT 0 (setF Reg.BAT_VOLT_TEMP (ofSigned 12 temp) s)

theorem windowEntered_fields (temp : Int) (s : State) {t : State} (ht : t = chargeIfAllowed (windowEntered temp s)) :
    t.get Reg.BAT_STATUS_CHG_INHIBIT = 0
      ∧ (s.on Reg.BAT_CTRL_CHG_EN = true → s.on Reg.BAT_STATUS_PRESENT = true → s.bat.chgFault = false → t.on Reg.BAT_STATUS_CHARGING = true)
      ∧ (s.on Reg.BAT_CTRL_CHG_EN = false → Keeps [Reg.BAT_STATUS_CHG_INHIBIT, Reg.BAT_VOLT_TEMP] s t) := by
  have hkeep : Keeps [Reg.BAT_STATUS_CHG_INHIBIT, Reg.BAT_VOLT_TEMP] s (windowEntered temp s) := by simp [windowEntered]
  have hin : (windowEntered temp s).get Reg.BAT_STATUS_CHG_INHIBIT = 0 := get_setF_zero _ _
  have hget {f : Field} (hf : f.key ∉ [Reg.BAT_STATUS_CHG_INHIBIT, Reg.BAT_VOLT_TEMP].map Field.key) : (windowEntered temp s).on f = s.on f := by
    rw [State.on, hkeep.get hf]; rfl
  rw [ht]
  refine ⟨((keeps_chargeIfAllowed _).get (by decide)).trans hin, fun he hp hf => ?_, fun he => ?_⟩
  · exact on_charging_chargeIfAllowed ((hget (by decide)).trans he) ((hget (by decide)).trans hp) (on_eq_false hin) hf
  · have hno : (windowEntered temp s).mayCharge = false := by simp [State.mayCharge, hget (f := Reg.BAT_CTRL_CHG_EN) (by decide), he]
    rw [chargeIfAllowed_eq, hno]
    exact hkeep

theorem exec_chgFaultRetry_of_fault {s : State} (hf : s.bat.chgFault = true) (hl : s.bat.chgLeftOff = false) :
    exec .chgFaultRetry s = .next (writeChgEn true (writeChgEn false s)) := (exec_chgFaultRetry s).trans (if_pos (by rw [hf, hl]; rfl))

/-! Counting charge (R317, R318) -/

/-- The registers that a conversion writes, in the order of the model. -/
def counted (uah ma : Int) (mv : Nat) (temp : Int) (keep : Nat) (rate rest limit : Nat) (lost kept broken : Bool) (s : State) : State :=
  let s1 := setF Reg.BAT_COUNT_Q_UAH (ofSigned 32 (toSigned 32 (s.get Reg.BAT_COUNT_Q_UAH) + uah)) s
  let s2 := setF Reg.BAT_CURR_I_MA (ofSigned 16 ma) (setF Reg.BAT_VOLT_TEMP (ofSigned 12 temp) (setF Reg.BAT_VOLT_V_MV mv s1))
  let s3 := setF Reg.BAT_STATUS_RATE rate (setF Reg.BAT_STATUS_AT_REST (b2n (decide (ma.natAbs < 5))) s2)
  let s4 := setF Reg.BAT_REST_REST_S rest (setF Reg.BAT_REST_LIMIT_S limit s3)
  let s5 := when lost (setF Reg.BAT_STATUS_REST_VALID 0) s4
  let s6 := setF Reg.BAT_KEEP_KEEP_MV keep (when kept (setF Reg.BAT_STATUS_KEEP_OK 1) s5)
  when broken (setF Reg.BAT_CTRL_LEARN 0) s6

/-- The fields that a conversion writes. -/
def countFields : List Field :=
  [Reg.BAT_COUNT_Q_UAH, Reg.BAT_CURR_I_MA, Reg.BAT_VOLT_TEMP, Reg.BAT_VOLT_V_MV, Reg.BAT_STATUS_RATE, Reg.BAT_STATUS_AT_REST,
    Reg.BAT_REST_REST_S, Reg.BAT_REST_LIMIT_S, Reg.BAT_STATUS_REST_VALID, Reg.BAT_KEEP_KEEP_MV, Reg.BAT_STATUS_KEEP_OK, Reg.BAT_CTRL_LEARN]

theorem keeps_counted (uah ma : Int) (mv : Nat) (temp : Int) (keep rate rest limit : Nat) (lost kept broken : Bool) (s : State) :
    Keeps countFields s (counted uah ma mv temp keep rate rest limit lost kept broken s) := by
  have hwhen {u : State} (c : Bool) (f : Field) (v : Nat) (hf : f.key ∈ countFields.map Field.key) (h : Keeps countFields s u) :
      Keeps countFields s (when c (setF f v) u) := h.when c _ fun h => h.setF f v hf
  refine hwhen _ _ _ (by decide) (.setF _ _ (by decide) (hwhen _ _ _ (by decide) (hwhen _ _ _ (by decide) ?_)))
  simp [countFields]

theorem get_when_setF_ne {c : Bool} {f g : Field} {v : Nat} {s : State} (h : f.key ≠ g.key) : (when c (setF f v) s).get g = s.get g :=
  when_of_eq c (State.get · g) (get_setF_ne _ _ _ _ h)

theorem counted_fields (uah ma : Int) (mv : Nat) (temp : Int) (keep rate rest limit : Nat) (lost kept broken : Bool) (s : State) {t : State}
    (ht : t = counted uah ma mv temp keep rate rest limit lost kept broken s) :
    t.get Reg.BAT_COUNT_Q_UAH = ofSigned 32 (toSigned 32 (s.get Reg.BAT_COUNT_Q_UAH) + uah) % 2 ^ 32
      ∧ t.get Reg.BAT_CURR_I_MA = ofSigned 16 ma % 2 ^ Reg.BAT_CURR_I_MA.width ∧ t.get Reg.BAT_STATUS_RATE = rate % 4
      ∧ t.get Reg.BAT_STATUS_AT_REST = b2n (decide (ma.natAbs < 5)) ∧ t.get Reg.BAT_REST_REST_S = rest % 2 ^ 16
      ∧ (lost = true → t.get Reg.BAT_STATUS_REST_VALID = 0) := by
  rw [ht, counted]
  refine ⟨?_, ?_, ?_, ?_, ?_, fun hlost => ?_⟩
  · simp (disch := decide) only [get_when_setF_ne, get_setF_ne, get_setF_self]
    rfl
  · simp (disch := decide) only [get_when_setF_ne, get_setF_ne, get_setF_self]
  · simp (disch := decide) only [get_when_setF_ne, get_setF_ne, get_setF_self]
    rfl
  · simp (disch := decide) only [get_when_setF_ne, get_setF_ne, get_setF_self]
    exact Nat.mod_eq_of_lt (b2n_lt_two _)
  · simp (disch := decide) only [get_when_setF_ne, get_setF_ne, get_setF_self]
    rfl
  · simp (disch := decide) only [get_when_setF_ne, get_setF_ne]
    rw [hlost]
    exact get_setF_zero _ _

/-- A rest begins anew with this conversion; its length in milliseconds after it. -/
def State.restRestarts (s : State) (temp : Int) : Bool := !s.on Reg.BAT_STATUS_AT_REST || decide (50 < (temp - s.bat.restTemp).natAbs)

def State.restAfter (s : State) (ma temp : Int) : Nat :=
  if !decide (ma.natAbs < 5) then 0
  else if s.restRestarts temp then 0 else s.bat.restMs + conversionMs (s.get Reg.BAT_STATUS_RATE)

/-- The pack's record after a conversion. -/
def convRecord (uah ma temp : Int) (s : State) : BatPart :=
  { s.bat with
    quietMs := (nextRate (s.get Reg.BAT_STATUS_RATE) s.bat.quietMs ma.natAbs).2
    restMs := s.restAfter ma temp
    restTemp := if decide (ma.natAbs < 5) && s.restRestarts temp then temp else s.bat.restTemp
    qRem := s.bat.qRem + uah
    discharged := s.bat.discharged + (-uah).toNat
    learnOut := if s.on Reg.BAT_CTRL_LEARN then s.bat.learnOut + (-uah).toNat else s.bat.learnOut }

/-- The registers after it. -/
def convShown (uah ma : Int) (mv : Nat) (temp : Int) (keep : Nat) (s : State) : State :=
  counted uah ma mv temp keep (nextRate (s.get Reg.BAT_STATUS_RATE) s.bat.quietMs ma.natAbs).1 (min 65535 (s.restAfter ma temp / 1000))
    (restLimit (convRecord uah ma temp s).restTemp) (!decide (ma.natAbs < 5) || s.restRestarts temp)
    (decide (s.get Reg.BAT_KEEP_OK_MV ≤ keep))
    (s.on Reg.BAT_CTRL_LEARN && (decide (0 < ma) || decide (temp < 100) || decide (450 < temp))) s

theorem exec_coulombConversion_eq (uah ma : Int) (mv : Nat) (temp : Int) (keep : Nat) (s : State) :
    exec (.coulombConversion uah ma mv temp keep) s
      = .next { convShown uah ma mv temp keep s with bat := convRecord uah ma temp s } := by
  rw [exec_coulombConversion, execCoulombConversion]
  unfold convShown convRecord counted State.restAfter State.restRestarts
  rfl

theorem conversion_fields (uah ma : Int) (mv : Nat) (temp : Int) (keep : Nat) (s : State) {t : State}
    (ht : t = { convShown uah ma mv temp keep s with bat := convRecord uah ma temp s }) :
    t.get Reg.BAT_COUNT_Q_UAH = ofSigned 32 (toSigned 32 (s.get Reg.BAT_COUNT_Q_UAH) + uah) % 2 ^ 32
      ∧ t.get Reg.BAT_CURR_I_MA = ofSigned 16 ma % 2 ^ Reg.BAT_CURR_I_MA.width ∧ t.bat.qRem = s.bat.qRem + uah
      ∧ (50 ≤ ma.natAbs → t.get Reg.BAT_STATUS_RATE = 0)
      ∧ t.get Reg.BAT_STATUS_AT_REST = b2n (decide (ma.natAbs < 5)) ∧ (5 ≤ ma.natAbs → t.get Reg.BAT_REST_REST_S = 0)
      ∧ (5 ≤ ma.natAbs → t.get Reg.BAT_STATUS_REST_VALID = 0) ∧ Keeps countFields s t := by
  have hget (f : Field) : t.get f = (convShown uah ma mv temp keep s).get f := by rw [ht]; exact get_of_regs f rfl
  have hkeep : Keeps countFields s t := by
    rw [ht]
    exact (keeps_counted uah ma mv temp keep _ _ _ _ _ _ s).of_eq rfl rfl
  obtain ⟨hq, hi, hrate, hrest, hlen, hlost⟩ := counted_fields uah ma mv temp keep (nextRate (s.get Reg.BAT_STATUS_RATE) s.bat.quietMs ma.natAbs).1
    (min 65535 (s.restAfter ma temp / 1000)) (restLimit (convRecord uah ma temp s).restTemp) (!decide (ma.natAbs < 5) || s.restRestarts temp)
    (decide (s.get Reg.BAT_KEEP_OK_MV ≤ keep)) (s.on Reg.BAT_CTRL_LEARN && (decide (0 < ma) || decide (temp < 100) || decide (450 < temp))) s rfl
  have hawake (h : 5 ≤ ma.natAbs) : decide (ma.natAbs < 5) = false := by simpa using h
  refine ⟨(hget _).trans hq, (hget _).trans hi, by rw [ht]; rfl, fun h => (hget _).trans (hrate.trans ?_), (hget _).trans hrest,
    fun h => (hget _).trans (hlen.trans ?_), fun h => (hget _).trans (hlost ?_), hkeep⟩
  · rw [nextRate, if_pos h]
    rfl
  · rw [State.restAfter, hawake h, if_pos (by rfl)]
    rfl
  · rw [hawake h]
    rfl

/-- The count written (R317). -/
theorem writeCount_fields (v : Nat) (hv : v < 2 ^ 32) (s : State) {t : State} (ht : t = writeCount v (ungate (islandOf 0xD0018) s)) :
    t.get Reg.BAT_COUNT_Q_UAH = v ∧ Keeps [Reg.BAT_COUNT_Q_UAH] s t := by
  rw [ht]
  refine ⟨(get_of_regs (s := setF Reg.BAT_COUNT_Q_UAH v s) _ rfl).trans (get_setF_of_lt hv s), ?_⟩
  exact .of_eq (t := setF Reg.BAT_COUNT_Q_UAH v s) (by simp) rfl rfl

/-! Rest, resistance, end of discharge (R318 to R326) -/

/-- A rest become valid. -/
def restShown (s : State) : State := event Reg.BAT_EVENT_REST_VALID Reg.BAT_REST_VALID_CNT (setF Reg.BAT_STATUS_REST_VALID 1 s)

theorem restShown_fields (s : State) : (restShown s).get Reg.BAT_STATUS_REST_VALID = 1 ∧ (restShown s).get Reg.BAT_EVENT_REST_VALID = 1
    ∧ (restShown s).get Reg.BAT_REST_VALID_CNT = (s.get Reg.BAT_REST_VALID_CNT + 1) % 2 ^ 32 := by
  unfold restShown
  refine ⟨?_, get_event_flag _ _ _ (by decide) (by decide), ?_⟩
  · rw [get_event_ne (by decide) (by decide), get_setF_one rfl]
  · rw [get_event_cnt _ _ _ (by decide), get_setF_ne _ _ _ _ (by decide)]
    rfl

/-- What a valid rest adds to it: the charge set, and the rest paired. -/
theorem exec_restValid_of_rested {s : State} (hr : s.on Reg.BAT_STATUS_AT_REST = true) (hv : s.on Reg.BAT_STATUS_REST_VALID = false)
    (hl : s.get Reg.BAT_REST_LIMIT_S ≤ s.get Reg.BAT_REST_REST_S) :
    ∃ t, exec .restValid s = .next t ∧ ∀ f : Field, ¬ learnKey f.key → t.get f = (restShown s).get f := by
  rw [exec_restValid, execRestValid, if_pos (by simp [hr, hv, hl])]
  simp only []
  split
  · exact ⟨_, rfl, fun _ _ => rfl⟩
  · next d _ =>
    split_ifs
    · exact ⟨_, rfl, fun _ _ => rfl⟩
    · refine ⟨_, rfl, fun f hf => (get_of_regs f rfl).trans ?_⟩
      split
      · rfl
      · exact (within_restPair _ _ _).get hf

/-- A step of the load captured. -/
def stepCaptured (dv di : Nat) (s : State) : State :=
  event Reg.BAT_EVENT_STEP Reg.BAT_STEP_CNT (setF Reg.BAT_STEP_DI_MA di (setF Reg.BAT_STEP_DV_MV dv s))

/-- The estimated resistance brought up to date. -/
def resistanceSet (r : Nat) (s : State) : State := { s with bat := { s.bat with r25 := min 2000 (max 200 r) } }

theorem exec_currentStep_of_large {s : State} {dv di : Nat} (h : 1000 ≤ di) :
    ∃ r, exec (.currentStep dv di) s = .next (resistanceSet r (stepCaptured dv di s)) := by
  refine ⟨(3 * s.bat.r25 + (((dv * 10000 / di : Nat) : Int) * 10000 / resistFactor s.packTemp).toNat) / 4, ?_⟩
  rw [exec_currentStep, execCurrentStep, if_neg h.not_gt]
  unfold stepCaptured resistanceSet
  rfl

theorem resistanceSet_fields (r : Nat) (s : State) : (∀ f, (resistanceSet r s).get f = s.get f) ∧ 200 ≤ (resistanceSet r s).bat.r25
    ∧ (resistanceSet r s).bat.r25 ≤ 2000 :=
  ⟨fun f => get_of_regs f rfl, le_min (by decide) (le_max_left _ _), min_le_left _ _⟩

theorem stepCaptured_fields (dv di : Nat) (s : State) :
    (stepCaptured dv di s).get Reg.BAT_STEP_DV_MV = dv % 2 ^ Reg.BAT_STEP_DV_MV.width
    ∧ (stepCaptured dv di s).get Reg.BAT_STEP_DI_MA = di % 2 ^ Reg.BAT_STEP_DI_MA.width
    ∧ Keeps [Reg.BAT_STEP_DV_MV, Reg.BAT_STEP_DI_MA, Reg.BAT_EVENT_STEP, Reg.BAT_STEP_CNT] s (stepCaptured dv di s) := by
  unfold stepCaptured
  refine ⟨?_, ?_, by simp⟩
  · rw [get_event_ne (by decide) (by decide), get_setF_ne _ _ _ _ (by decide), get_setF_self]
  · rw [get_event_ne (by decide) (by decide), get_setF_self]

/-- The end of discharge in the registers. -/
def eodShown (mv : Nat) (s : State) : State :=
  let s1 := event Reg.BAT_EVENT_EOD Reg.BAT_EOD_CNT (setF Reg.BAT_STATUS_EOD 1 (setF Reg.BAT_VOLT_V_MV mv s))
  setF Reg.BAT_EST_E_U 0 (setF Reg.BAT_EST_RSOC 0 (setF Reg.BAT_CTRL_LEARN 0 s1))

theorem eodShown_fields (mv : Nat) (s : State) : (eodShown mv s).get Reg.BAT_STATUS_EOD = 1 ∧ (eodShown mv s).get Reg.BAT_EST_RSOC = 0
    ∧ (eodShown mv s).get Reg.BAT_EST_E_U = 0 ∧ (eodShown mv s).get Reg.BAT_CTRL_LEARN = 0
    ∧ (eodShown mv s).get Reg.BAT_EOD_CNT = (s.get Reg.BAT_EOD_CNT + 1) % 2 ^ 32 := by
  unfold eodShown
  refine ⟨?_, ?_, get_setF_zero _ _, ?_, ?_⟩
  · rw [get_setF_ne _ _ _ _ (by decide), get_setF_ne _ _ _ _ (by decide), get_setF_ne _ _ _ _ (by decide),
      get_event_ne (by decide) (by decide), get_setF_one rfl]
  · rw [get_setF_ne _ _ _ _ (by decide), get_setF_zero]
  · rw [get_setF_ne _ _ _ _ (by decide), get_setF_ne _ _ _ _ (by decide), get_setF_zero]
  · rw [get_setF_ne _ _ _ _ (by decide), get_setF_ne _ _ _ _ (by decide), get_setF_ne _ _ _ _ (by decide), get_event_cnt _ _ _ (by decide),
      get_setF_ne _ _ _ _ (by decide), get_setF_ne _ _ _ _ (by decide)]
    rfl

/-- Its charge in the pack's record, and the loop's turn. -/
def eodGauged (d : PackDesc) (s0 s : State) : State := loopAtOnce { s with bat := { s.bat with qRem := s0.qz d } }

/-- A state that follows the end of discharge. -/
structure EodLeft (mv : Nat) (s t : State) : Prop where
  get : ∀ {f : Field}, ¬ suspectKey f.key → t.get f = (eodShown mv s).get f
  learn : t.get Reg.BAT_CTRL_LEARN = 0
  loop : t.sys.loopDue = true
  gauge : ∀ d, s.bat.desc = some d → t.bat.qRem = s.qz d

theorem eodGauged_get (d : PackDesc) (s0 s : State) (f : Field) : (eodGauged d s0 s).get f = s.get f := get_of_regs f rfl

theorem eodLeft_of_within {mv : Nat} {d : PackDesc} {s u t : State} (hd : s.bat.desc = some d) (hu : u = eodGauged d s (eodShown mv s))
    (h : Within suspectKey learnMask u t) (hlearn : t.get Reg.BAT_CTRL_LEARN = 0) : EodLeft mv s t where
  get hf := (h.get hf).trans ((congrArg (State.get · _) hu).trans (eodGauged_get _ _ _ _))
  learn := hlearn
  loop := (h.view (fun t => t.sys.loopDue) fun _ => rfl).trans (congrArg (fun t => t.sys.loopDue) hu)
  gauge e he := by
    obtain rfl : d = e := Option.some.inj (hd.symm.trans he)
    exact (h.view (fun t => t.bat.qRem) fun _ => rfl).trans (congrArg (fun t => t.bat.qRem) hu)

theorem eodLeft_of_unknown {mv : Nat} {s : State} (hd : s.bat.desc = none) : EodLeft mv s (loopAtOnce (eodShown mv s)) where
  get _ := get_of_regs _ rfl
  learn := by
    obtain ⟨-, -, -, hlearn, -⟩ := eodShown_fields mv s
    exact (get_of_regs (s := eodShown mv s) _ rfl).trans hlearn
  loop := rfl
  gauge _ he := absurd (hd.symm.trans he) (by simp)

/-- What the firmware does at the end of discharge: a learn under way ends, or an estimate that was far off is doubted (R324, R326). -/
def eodActed (learning : Bool) (d : PackDesc) (s0 s : State) : State :=
  if learning then acceptLearn 1 (s0.bat.learnOut * 10240 / (1024000 - s0.fracAtShut d 1000).toNat) s
  else when (decide (1000 < s0.get Reg.BAT_EST_RSOC)) capSuspect s

theorem exec_eod_of_low {s : State} {mv ma : Nat}
    (h : mv * 10000 ≤ s.get Reg.BAT_EOD_V_SHUT_MV * 10000 + ma * s.get Reg.BAT_EOD_R_EST_DMOHM) :
    exec (.eod mv ma) s = match s.bat.desc with
      | none => .next (loopAtOnce (eodShown mv s))
      | some d => .next (eodActed (s.on Reg.BAT_CTRL_LEARN) d s (eodGauged d s (eodShown mv s))) := by
  rw [exec_eod, execEod, if_neg h.not_gt]
  unfold eodActed eodGauged eodShown
  simp only []
  cases s.bat.desc with
  | none => rfl
  | some d => cases s.on Reg.BAT_CTRL_LEARN <;> simp only [Bool.false_eq_true, if_true, if_false]

theorem eodActed_left {mv : Nat} {d : PackDesc} {s u : State} (hd : s.bat.desc = some d) (hu : u = eodGauged d s (eodShown mv s))
    (hlearn : u.get Reg.BAT_CTRL_LEARN = 0) (learning : Bool) : EodLeft mv s (eodActed learning d s u) := by
  cases learning with
  | true =>
    rw [eodActed, if_pos rfl]
    generalize s.bat.learnOut * 10240 / (1024000 - s.fracAtShut d 1000).toNat = v
    have hacc := within_acceptLearn 1 v u
    exact eodLeft_of_within hd hu (hacc.mono .inl fun _ => rfl) ((hacc.get (by decide)).trans hlearn)
  | false =>
    change EodLeft mv s (when (decide (1000 < s.get Reg.BAT_EST_RSOC)) capSuspect u)
    cases decide (1000 < s.get Reg.BAT_EST_RSOC) with
    | true => exact eodLeft_of_within hd hu (within_capSuspect u) (learn_capSuspect u)
    | false => exact eodLeft_of_within hd hu (.refl _ _ u) hlearn

theorem eodLeft_of_low {s : State} {mv ma : Nat} (h : mv * 10000 ≤ s.get Reg.BAT_EOD_V_SHUT_MV * 10000 + ma * s.get Reg.BAT_EOD_R_EST_DMOHM) :
    ∃ t, exec (.eod mv ma) s = .next t ∧ EodLeft mv s t := by
  rw [exec_eod_of_low h]
  cases hd : s.bat.desc with
  | none => exact ⟨_, rfl, eodLeft_of_unknown hd⟩
  | some d =>
    obtain ⟨-, -, -, hlearn, -⟩ := eodShown_fields mv s
    exact ⟨_, rfl, eodActed_left hd rfl ((eodGauged_get _ _ _ _).trans hlearn) _⟩

/-- Settles O29: each event of the pack leaves the registers and the record that its helpers above describe. -/
theorem packChargeComplete : Obligations.PackChargeComplete := by
  refine ⟨fun s p mv temp ok => ?fitted, fun s => ?removed, fun s hl => ⟨?disabled, fun he => ?enabled⟩, fun s hc => ?full,
    fun s hc hq => ?timeout, fun s temp => ?windowLeft, fun s temp => ?windowEntered, fun s hf hl => ?retry,
    fun s uah ma mv temp keep => ?counted, fun s v hl => ?written, fun s hr hv hl => ?rested, fun s dv di hdi => ?step, fun s mv ma h => ?eod⟩
  case fitted => exact .of_next (exec_packInserted_eq p mv temp ok s) (packInserted_fields p mv temp ok s rfl)
  case removed => exact .of_next (exec_packRemoved_eq s) (packRemoved_fields s rfl)
  case disabled =>
    refine .of_next (exec_of_lands hl (exec_chargeEnable s)) ?_
    rw [writeChgEn_false]
    exact ⟨by rw [get_setF_ne _ _ _ _ (by decide), get_setF_zero], get_setF_zero _ _, by simp⟩
  case enabled =>
    obtain ⟨hen, hf, hc, hkeep⟩ := writeChgEn_true_fields (s := ungate (islandOf 0xD0000) s) he rfl
    exact .of_next (exec_of_lands hl (exec_chargeEnable s)) ⟨hen, hf, hc, hkeep.of_ungate⟩
  case full => exact .of_next (exec_chargeTermination_of_charging hc) (chargeTermination_fields s rfl)
  case timeout =>
    have ht := chargeTimeout_fields s rfl
    exact .of_next (exec_chargeTimeout_of_late hc hq) ht
  case windowLeft =>
    refine .of_next (t := windowLeft temp s) (exec_chargeWindowExit s) ⟨get_setF_zero _ _, ?_, by simp [windowLeft]⟩
    rw [windowLeft, get_setF_ne _ _ _ _ (by decide), get_setF_one rfl]
  case windowEntered => exact .of_next (exec_chargeWindowEntry s) (windowEntered_fields temp s rfl)
  case retry =>
    obtain ⟨hen, hfault, -⟩ := chargeRestart_fields s rfl
    exact .of_next (exec_chgFaultRetry_of_fault hf hl) ⟨hen, hfault⟩
  case counted => exact .of_next (exec_coulombConversion_eq uah ma mv temp keep s) (conversion_fields uah ma mv temp keep s rfl)
  case written => exact .of_next (exec_of_lands hl (exec_batCountWrite s)) (writeCount_fields v.toNat v.isLt s rfl)
  case rested =>
    obtain ⟨t, ht, hget⟩ := exec_restValid_of_rested hr hv hl
    obtain ⟨hvalid, hevent, hcnt⟩ := restShown_fields s
    exact .of_next ht ⟨(hget _ (by decide)).trans hvalid, (hget _ (by decide)).trans hevent, (hget _ (by decide)).trans hcnt⟩
  case step =>
    obtain ⟨r, hr⟩ := exec_currentStep_of_large (s := s) (dv := dv) hdi
    obtain ⟨hdv, hdi', hkeep⟩ := stepCaptured_fields dv di s
    obtain ⟨hget, hlow, hhigh⟩ := resistanceSet_fields r (stepCaptured dv di s)
    exact .of_next hr ⟨(hget _).trans hdv, (hget _).trans hdi', hlow, hhigh, hkeep.of_eq rfl rfl⟩
  case eod =>
    obtain ⟨t, ht, hleft⟩ := eodLeft_of_low h
    obtain ⟨heod, hrsoc, heu, -, hcnt⟩ := eodShown_fields mv s
    exact .of_next ht ⟨(hleft.get (by decide)).trans heod, (hleft.get (by decide)).trans hrsoc, (hleft.get (by decide)).trans heu, hleft.learn,
      (hleft.get (by decide)).trans hcnt, hleft.loop, hleft.gauge⟩

end Sys2Proof.Machine
end

section
/-! The pack's estimate, learning, authentication and bus (R322 to R334): the obligation O30. -/

open Sys2Proof

namespace Sys2Proof.Machine

/-! The estimate (R322 to R324) -/

/-- The registers of a pack that is not there. -/
def estimateNone (s : State) : State := setF Reg.BAT_EST_E_U 0 (setF Reg.BAT_EST_RSOC 0 s)

theorem exec_packEstimate_of_none {s : State} (h : s.bat.desc = none) : exec .packEstimate s
    = .next (when (s.bat.lastEu != 0) loopAtOnce { estimateNone s with bat := { s.bat with lastEu := 0 } }) := by
  rw [exec_packEstimate, execPackEstimate, h]
  rfl

theorem estimateNone_fields (s : State) {t : State}
    (ht : t = when (s.bat.lastEu != 0) loopAtOnce { estimateNone s with bat := { s.bat with lastEu := 0 } }) :
    t.get Reg.BAT_EST_E_U = 0 ∧ t.get Reg.BAT_EST_RSOC = 0 ∧ Keeps [Reg.BAT_EST_E_U, Reg.BAT_EST_RSOC] s t := by
  have hregs : t.regs = (estimateNone s).regs := by rw [ht]; exact when_of_eq _ State.regs rfl
  have hmem : t.mem = (estimateNone s).mem := by rw [ht]; exact when_of_eq _ State.mem rfl
  refine ⟨(get_of_regs _ hregs).trans (get_setF_zero _ _), (get_of_regs _ hregs).trans ?_, ?_⟩
  · rw [estimateNone, get_setF_ne _ _ _ _ (by decide), get_setF_zero]
  · exact .of_eq (t := estimateNone s) (by simp [estimateNone]) hregs hmem

/-- The registers of an estimate while the end of discharge stands. -/
def estimateEnded (s : State) : State := setF Reg.BAT_EST_E_U 0 (setF Reg.BAT_EST_RSOC 0 (setF Reg.BAT_EOD_R_EST_DMOHM s.rEst s))

theorem get_writeChgEn {b : Bool} {s : State} {f : Field} (hf : f.key ∉ (Reg.BAT_CTRL_CHG_EN :: chargeFields).map Field.key) :
    (writeChgEn b s).get f = s.get f := by
  have hne {g : Field} (hg : g.key ∈ (Reg.BAT_CTRL_CHG_EN :: chargeFields).map Field.key) : g.key ≠ f.key := fun h => hf (h ▸ hg)
  cases b with
  | false => rw [writeChgEn_false, get_setF_ne _ _ _ _ (hne (by decide)), get_setF_ne _ _ _ _ (hne (by decide))]
  | true =>
    cases h : s.on Reg.BAT_CTRL_CHG_EN with
    | false =>
      obtain ⟨-, -, -, hkeep⟩ := writeChgEn_true_fields h rfl
      exact hkeep.get fun hm => hf (by simp only [chargeFields, List.map_cons, List.map_nil, List.mem_cons, List.not_mem_nil] at hm ⊢; tauto)
    | true => exact congrArg (State.get · f) ((if_neg (by simp)).trans (if_pos h))

theorem get_chargeIfAllowed {s : State} {f : Field} (hf : f.key ∉ (Reg.BAT_CTRL_CHG_EN :: chargeFields).map Field.key) :
    (chargeIfAllowed s).get f = s.get f := (keeps_chargeIfAllowed s).get fun hm => hf (List.mem_cons_of_mem _ hm)

/-- What an estimate of `rsoc` may lead to: the loop's turn, charging begun or ended, a record stored (R314, R316, R323, R330). -/
def estimateActed (moved : Bool) (rsoc eu : Nat) (s : State) : State :=
  let s3 := if moved then loopAtOnce { s with bat := { s.bat with lastEu := eu } } else s
  let s4 :=
    if !s3.bat.auth && decide (5000 ≤ rsoc) then writeChgEn false s3
    else if !s3.bat.auth && decide (rsoc < 4500) then writeChgEn true s3
    else if decide (rsoc < 9500) then chargeIfAllowed s3
    else s3
  when s4.bat.storeDue storeLcap s4

theorem get_estimateActed {moved : Bool} {rsoc eu : Nat} {s : State} {f : Field}
    (hf : f.key ∉ (Reg.BAT_CTRL_CHG_EN :: chargeFields).map Field.key) (hl : ¬ learnKey f.key) : (estimateActed moved rsoc eu s).get f = s.get f := by
  have hmoved : (if moved then loopAtOnce { s with bat := { s.bat with lastEu := eu } } else s).get f = s.get f := by
    split_ifs
    · exact get_of_regs f rfl
    · rfl
  unfold estimateActed
  simp only []
  generalize (if moved then loopAtOnce { s with bat := { s.bat with lastEu := eu } } else s) = u at hmoved
  refine (when_of_eq _ (State.get · f) ((within_storeLcap _).get hl)).trans ?_
  split
  · exact (get_writeChgEn hf).trans hmoved
  · split
    · exact (get_writeChgEn hf).trans hmoved
    · split
      · exact (get_chargeIfAllowed hf).trans hmoved
      · exact hmoved

theorem exec_packEstimate_of_eod {s : State} {d : PackDesc} (hd : s.bat.desc = some d) (he : s.on Reg.BAT_STATUS_EOD = true) :
    ∃ b moved, exec .packEstimate s = .next (estimateActed moved 0 0 { estimateEnded s with bat := b }) := by
  have heod : (setF Reg.BAT_EOD_R_EST_DMOHM s.rEst s).on Reg.BAT_STATUS_EOD = true := by
    rw [State.on, get_setF_ne _ _ _ _ (by decide)]
    exact he
  rw [exec_packEstimate, execPackEstimate, hd]
  simp only [heod, Bool.not_true, Bool.and_false, Bool.false_and, if_true, Bool.false_eq_true, if_false]
  unfold estimateActed estimateEnded
  exact ⟨_, _, rfl⟩

theorem estimateEnded_fields (b : BatPart) (moved : Bool) (s : State) {t : State} (ht : t = estimateActed moved 0 0 { estimateEnded s with bat := b }) :
    t.get Reg.BAT_EST_E_U = 0 ∧ t.get Reg.BAT_EST_RSOC = 0 ∧ t.get Reg.BAT_EOD_R_EST_DMOHM = s.rEst % 2 ^ Reg.BAT_EOD_R_EST_DMOHM.width := by
  have hget {f : Field} (hf : f.key ∉ (Reg.BAT_CTRL_CHG_EN :: chargeFields).map Field.key) (hl : ¬ learnKey f.key) :
      t.get f = (estimateEnded s).get f := by
    rw [ht, get_estimateActed hf hl]
    exact get_of_regs f rfl
  refine ⟨(hget (by decide) (by decide)).trans (get_setF_zero _ _), (hget (by decide) (by decide)).trans ?_, (hget (by decide) (by decide)).trans ?_⟩
  · rw [estimateEnded, get_setF_ne _ _ _ _ (by decide), get_setF_zero]
  · rw [estimateEnded, get_setF_ne _ _ _ _ (by decide), get_setF_ne _ _ _ _ (by decide), get_setF_self]

/-! Learning and authentication (R326, R332, R333) -/

/-- A learn begun. -/
def learnBegun (s : State) : State :=
  let t1 := setF Reg.BAT_STATUS_CHARGING 0 (setF Reg.BAT_CTRL_LEARN 1 s)
  { t1 with bat := { t1.bat with learnOut := 0, learnStart := s.clock } }

theorem exec_learnStart_of_present {s : State} (hl : s.lands 0xD0000 = true) (hp : s.on Reg.BAT_STATUS_PRESENT = true) :
    exec .learnStart s = .next (learnBegun (ungate (islandOf 0xD0000) s)) :=
  (exec_of_lands hl (exec_learnStart s)).trans (congrArg _ (if_pos hp))

theorem learnBegun_fields (s : State) {t : State} (ht : t = learnBegun (ungate (islandOf 0xD0000) s)) :
    t.get Reg.BAT_CTRL_LEARN = 1 ∧ t.get Reg.BAT_STATUS_CHARGING = 0 ∧ t.bat.learnOut = 0
      ∧ Keeps [Reg.BAT_CTRL_LEARN, Reg.BAT_STATUS_CHARGING] s t := by
  have hregs : t.regs = (setF Reg.BAT_STATUS_CHARGING 0 (setF Reg.BAT_CTRL_LEARN 1 s)).regs := by rw [ht]; rfl
  refine ⟨(get_of_regs _ hregs).trans ?_, (get_of_regs _ hregs).trans (get_setF_zero _ _), by rw [ht]; rfl, ?_⟩
  · rw [get_setF_ne _ _ _ _ (by decide), get_setF_one rfl]
  · exact .of_eq (t := setF Reg.BAT_STATUS_CHARGING 0 (setF Reg.BAT_CTRL_LEARN 1 s)) (by simp) hregs (by rw [ht]; rfl)

theorem bat_writeHealth (s : State) : (writeHealth s).bat = s.bat := (within_writeHealth s).view State.bat fun _ => rfl

theorem bat_packChange (k : Nat) (s : State) : (packChange k s).bat = s.bat := (within_healthChange k s).view State.bat fun _ => rfl

/-- A success makes the pack authenticated. -/
theorem authOutcome_true {s : State} (h : s.chainsToRoot = true) : (authOutcome true s).bat.auth = true ∧ (authOutcome true s).bat.authFails = 0 := by
  have hbat : ∃ r, (authOutcome true s).bat
      = { s.bat with auth := true, authRoot := r, authFails := 0, authDue := false, lastAuth := s.nowMs / 1000 } := by
    refine ⟨match s.bat.desc with | some d => d.root | none => 0, ?_⟩
    rw [authOutcome, if_pos (by rw [h]; rfl), bat_writeHealth]
    exact when_of_eq _ State.bat (bat_packChange 3 _)
  obtain ⟨r, hr⟩ := hbat
  rw [hr]
  exact ⟨rfl, rfl⟩

/-- A failure is retried at first. -/
theorem authOutcome_retried {s : State} (h : s.chainsToRoot = true) (hf : s.bat.authFails + 1 < 3) :
    authOutcome false s = { s with bat := { s.bat with authFails := s.bat.authFails + 1 } } := by
  rw [authOutcome, if_neg (by simp)]
  simp only [h, if_true]
  exact if_pos hf

/-- The last one, or one without a root, leaves the pack unauthenticated. -/
theorem authOutcome_failed {ok : Bool} {s : State} (hn : (ok && s.chainsToRoot) = false)
    (hf : 3 ≤ if s.chainsToRoot then s.bat.authFails + 1 else 3) :
    (authOutcome ok s).bat.auth = false ∧ (authOutcome ok s).bat.authFails = 0 := by
  have hbat : (authOutcome ok s).bat = { s.bat with auth := false, authRoot := 0, authFails := 0, authDue := false } := by
    rw [authOutcome, hn]
    refine (congrArg State.bat ((if_neg Bool.false_ne_true).trans (if_neg hf.not_gt))).trans ?_
    rw [bat_writeHealth]
    exact when_of_eq _ State.bat (bat_packChange 4 _)
  rw [hbat]
  exact ⟨rfl, rfl⟩

/-- The count of failures begun anew. -/
def failsCleared (s : State) : State := { s with bat := { s.bat with authFails := 0 } }

theorem exec_authPeriodic_of_fitted {s : State} (h : s.bat.desc.isSome = true) (ok : Bool) :
    exec (.authPeriodic ok) s = .next (authOutcome ok (failsCleared s)) := (exec_authPeriodic s).trans (if_pos h)

theorem exec_authRetry_of_failed {s : State} (h : s.bat.desc.isSome = true) (hf : 0 < s.bat.authFails) (ok : Bool) :
    exec (.authRetry ok) s = .next (authOutcome ok s) := (exec_authRetry s).trans (if_pos (by simp [h, hf]))

/-! The bus and the KEEP rail (R312, R330) -/

/-- The registers of a transaction that reads. -/
def smbusShown (cmd len : Nat) (s : State) : State :=
  let t1 := setF Reg.BAT_SMB_CTRL_READ 1 (setF Reg.BAT_SMB_CTRL_LEN len (setF Reg.BAT_SMB_CTRL_CMD cmd s))
  setF Reg.BAT_SMB_CTRL_GO 1 (setF Reg.BAT_SMB_CTRL_ERR 0 t1)

/-- A transaction that reads, begun. -/
def smbusBegun (cmd len : Nat) (s : State) : State :=
  let t2 := smbusShown cmd len s
  emit (.smbus (cmd % 256) (max 1 (len % 256)) true []) { t2 with bat := { t2.bat with smbFifo := [] } }

theorem exec_smbus_of_idle {s : State} {cmd len : Nat} (hl : s.lands 0xD0030 = true) (hg : s.on Reg.BAT_SMB_CTRL_GO = false) :
    exec (.smbusTransaction cmd len true) s = .next (smbusBegun cmd len (ungate (islandOf 0xD0030) s)) :=
  (exec_of_lands hl (exec_smbusTransaction s)).trans (congrArg _ (if_neg (by rw [ungate_on, hg]; simp)))

theorem smbusBegun_fields (cmd len : Nat) (s : State) {t : State} (ht : t = smbusBegun cmd len (ungate (islandOf 0xD0030) s)) :
    t.get Reg.BAT_SMB_CTRL_GO = 1 ∧ t.get Reg.BAT_SMB_CTRL_ERR = 0 ∧ t.get Reg.BAT_SMB_CTRL_READ = 1 ∧ t.bat.smbFifo = []
      ∧ t.out = .smbus (cmd % 256) (max 1 (len % 256)) true [] :: s.out
      ∧ Keeps [Reg.BAT_SMB_CTRL_GO, Reg.BAT_SMB_CTRL_ERR, Reg.BAT_SMB_CTRL_READ, Reg.BAT_SMB_CTRL_LEN, Reg.BAT_SMB_CTRL_CMD] s t := by
  have hget (f : Field) : t.get f = (smbusShown cmd len s).get f := by rw [ht]; exact get_of_regs f rfl
  refine ⟨(hget _).trans (get_setF_one rfl _), (hget _).trans ?_, (hget _).trans ?_, by rw [ht]; rfl, by rw [ht]; rfl, ?_⟩
  · rw [smbusShown, get_setF_ne _ _ _ _ (by decide), get_setF_zero]
  · rw [smbusShown, get_setF_ne _ _ _ _ (by decide), get_setF_ne _ _ _ _ (by decide), get_setF_one rfl]
  · rw [ht]
    exact .of_eq (t := smbusShown cmd len s) (by simp [smbusShown]) rfl rfl

/-- A transaction that ends. -/
def smbusEnded (err : Bool) (s : State) : State := setF Reg.BAT_SMB_CTRL_ERR (b2n err) (setF Reg.BAT_SMB_CTRL_GO 0 s)

def smbusRead (err : Bool) (l : List Nat) (s : State) : State :=
  let s1 := smbusEnded err s
  { s1 with bat := { s1.bat with smbFifo := if s.on Reg.BAT_SMB_CTRL_READ && !err then l.take 64 else s1.bat.smbFifo } }

theorem exec_smbusDone_of_busy {s : State} (h : s.on Reg.BAT_SMB_CTRL_GO = true) (err : Bool) (l : List Nat) :
    exec (.smbusDone err l) s = .next (smbusRead err l s) := (exec_smbusDone s).trans (if_neg (by simp [h]))

theorem smbusRead_fields (err : Bool) (l : List Nat) (s : State) {t : State} (ht : t = smbusRead err l s) :
    t.get Reg.BAT_SMB_CTRL_GO = 0 ∧ t.on Reg.BAT_SMB_CTRL_ERR = err
      ∧ (s.on Reg.BAT_SMB_CTRL_READ = true → err = false → t.bat.smbFifo = l.take 64)
      ∧ Keeps [Reg.BAT_SMB_CTRL_GO, Reg.BAT_SMB_CTRL_ERR] s t := by
  have hget (f : Field) : t.get f = (smbusEnded err s).get f := by rw [ht]; exact get_of_regs f rfl
  refine ⟨(hget _).trans ?_, ?_, fun hr he => ?_, ?_⟩
  · rw [smbusEnded, get_setF_ne _ _ _ _ (by decide), get_setF_zero]
  · rw [State.on, hget]
    exact on_setF_b2n rfl err _
  · rw [ht, he]
    exact if_pos (by rw [hr]; rfl)
  · rw [ht]
    exact .of_eq (t := smbusEnded err s) (by simp [smbusEnded]) rfl rfl

/-- The KEEP rail found low. -/
def keepFallen (mv : Nat) (s : State) : State :=
  event Reg.BAT_EVENT_KEEP_LOW Reg.BAT_KEEP_LOW_CNT (setF Reg.BAT_STATUS_KEEP_OK 0 (setF Reg.BAT_KEEP_KEEP_MV mv s))

theorem keepFallen_fields (mv : Nat) (s : State) : (keepFallen mv s).get Reg.BAT_STATUS_KEEP_OK = 0
    ∧ (keepFallen mv s).get Reg.BAT_EVENT_KEEP_LOW = 1
    ∧ (keepFallen mv s).get Reg.BAT_KEEP_LOW_CNT = (s.get Reg.BAT_KEEP_LOW_CNT + 1) % 2 ^ 32
    ∧ Keeps [Reg.BAT_STATUS_KEEP_OK, Reg.BAT_EVENT_KEEP_LOW, Reg.BAT_KEEP_LOW_CNT, Reg.BAT_KEEP_KEEP_MV] s (keepFallen mv s) := by
  unfold keepFallen
  refine ⟨?_, get_event_flag _ _ _ (by decide) (by decide), ?_, by simp⟩
  · rw [get_event_ne (by decide) (by decide), get_setF_zero]
  · rw [get_event_cnt _ _ _ (by decide), get_setF_ne _ _ _ _ (by decide), get_setF_ne _ _ _ _ (by decide)]
    rfl

/-- Settles O30: each event of the pack's upkeep leaves the registers and the record that its helpers above describe. -/
theorem packUpkeepComplete : Obligations.PackUpkeepComplete := by
  refine ⟨fun s hd => ?noPack, fun s d hd he => ?ended, fun s hl hp => ?learn, fun s => ?learnTimeout,
    fun s hd => ⟨fun hc => ⟨?authed, ?failedOnce⟩, fun hc ok => ?noRoot, fun hc hf => ?failedTwice, fun hc hf => ?failedThrice⟩,
    fun s cmd len hl hg => ?begun, fun s err l hg => ?done, fun s mv hlt => ?low, fun s hm => ?cutoff⟩
  case noPack => exact .of_next (exec_packEstimate_of_none hd) (estimateNone_fields s rfl)
  case ended =>
    obtain ⟨b, moved, hexec⟩ := exec_packEstimate_of_eod hd he
    exact .of_next hexec (estimateEnded_fields b moved s rfl)
  case learn => exact .of_next (exec_learnStart_of_present hl hp) (learnBegun_fields s rfl)
  case learnTimeout => exact .of_next (exec_learnTimeout s) ⟨get_setF_zero _ _, by simp⟩
  case authed => exact .of_next (exec_authPeriodic_of_fitted hd true) (authOutcome_true hc)
  case failedOnce =>
    refine .of_next ((exec_authPeriodic_of_fitted hd false).trans (congrArg _ (authOutcome_retried hc (by simp [failsCleared])))) ⟨rfl, rfl, ?_⟩
    exact (Keeps.refl _ s).of_eq rfl rfl
  case noRoot =>
    refine .of_next (exec_authPeriodic_of_fitted hd ok) (authOutcome_failed ?_ ?_) <;>
      rw [show (failsCleared s).chainsToRoot = false from hc]
    · exact Bool.and_false ok
    · exact (if_neg Bool.false_ne_true).ge
  case failedTwice =>
    refine .of_next ((exec_authRetry_of_failed hd (by omega) false).trans (congrArg _ (authOutcome_retried hc (by omega)))) ⟨rfl, ?_, ?_⟩
    · exact congrArg (· + 1) hf
    · exact (Keeps.refl _ s).of_eq rfl rfl
  case failedThrice => exact .of_next (exec_authRetry_of_failed hd (by omega) false) (authOutcome_failed rfl (by rw [if_pos hc]; omega))
  case begun => exact .of_next (exec_smbus_of_idle hl hg) (smbusBegun_fields cmd len s rfl)
  case done => exact .of_next (exec_smbusDone_of_busy hg err l) (smbusRead_fields err l s rfl)
  case low => exact .of_next ((exec_keepLow s).trans (if_pos hlt)) (keepFallen_fields mv s)
  case cutoff => exact .of_next ((exec_packCutoff s).trans (if_pos hm)) ⟨rfl, rfl, (Keeps.refl _ s).of_eq rfl rfl⟩

end Sys2Proof.Machine
end

section
/-! What the control cluster's caches may change (R420 to R432): their own counters and lines, memory, and with entries of the journal its
intents and the message that mirrors them. -/

open Sys2Proof

namespace Sys2Proof.Machine

/-- The keys of the journal's block and of the cluster cache's, and the mirror link's counter of messages sent. -/
@[reducible] def cacheKey (k : Nat) : Prop :=
  (0x50000 * 32 ≤ k ∧ k < 0x60000 * 32) ∨ (0x80000 * 32 ≤ k ∧ k < 0x90000 * 32) ∨ k = Reg.FOV_MIR_TX_CNT.key

/-- The parts of the state that the caches use, blanked. -/
@[reducible] def cacheMask (s : State) : State :=
  { s with regs := [], mem := [], jnl := {}, cch := {}, free := 0, out := [], fov := { s.fov with ordSeq := 0, othSeq := 0 } }

/-- What the caches may change. -/
abbrev Cached (s t : State) : Prop := Within cacheKey cacheMask s t

/-! Entries of the journal in memory -/

theorem cached_sendMir (k : MirKind) (args : List Nat) (s : State) : Cached s (sendMir k args s) := by
  have hpass : Cached s (passStream k s) := by
    unfold passStream
    split_ifs <;> exact .own rfl rfl
  unfold sendMir
  split_ifs
  · exact .bump (hpass.parts (by rfl) (by rfl)) (by decide) (by rfl)
  · exact .refl _ _ _

theorem cached_readEntry (i : Nat) (s : State) : Cached s (readEntry i s) := by
  unfold readEntry
  simp only []
  split_ifs
  · exact .own rfl rfl
  · exact .own rfl rfl
  · exact .refl _ _ _

theorem cached_entryWritten (i : Nat) (s : State) : Cached s (entryWritten i s) := by
  have hopened (c : Bool) (t : State) : Cached t (when c (bump Reg.JNL_OPENED_CNT) t) :=
    .when (.refl _ _ _) (.bump (.refl _ _ _) (by decide) (by rfl))
  have hretired (c : Bool) (t : State) : Cached t (when c (bump Reg.JNL_RETIRED_CNT) t) :=
    .when (.refl _ _ _) (.bump (.refl _ _ _) (by decide) (by rfl))
  exact .when (((cached_readEntry i s).trans (hretired _ _)).trans (hopened _ _)) (cached_sendMir _ _ _)

theorem cached_writeBytes (a : Nat) (l : List Nat) (s : State) : Cached s (writeBytes a l s) := by
  induction l generalizing a s with
  | nil => exact .refl _ _ _
  | cons b l ih => exact (Within.own (by rfl) (by rfl)).trans (ih (a + 1) (writeByte a (BitVec.ofNat 8 b) s))

theorem cached_storeBytes (a : Nat) (l : List Nat) (s : State) : Cached s (storeBytes a l s) := by
  unfold storeBytes
  simp only []
  split_ifs
  · refine .forEach (cached_writeBytes _ _ _) fun i _ t => ?_
    split_ifs
    · exact cached_entryWritten i t
    · exact .refl _ _ _
  · exact cached_writeBytes _ _ _

theorem cached_memLine (l : Nat) (d : List Nat) (s : State) : Cached s (memLine l d s) := by
  unfold memLine
  split_ifs
  · exact .refl _ _ _
  · exact (Within.own (by rfl) (by rfl)).trans (cached_storeBytes _ _ _)

/-! Lines that come and go -/

theorem cached_cch (c : CchPart) (s : State) : Cached s { s with cch := c } := .own rfl rfl

theorem cached_install {l : Nat} {d : List Nat} {b : Bool} {s t : State} (h : install l d b s = some t) : Cached s t := by
  unfold install at h
  split at h
  · cases h
    exact cached_cch _ _
  · split at h
    · cases h
      exact .when (.refl _ _ _) (cached_memLine _ _ _)
    · cases h
      exact cached_cch _ _
    · simp only [] at h
      split_ifs at h <;> cases h <;> exact .own rfl rfl

theorem cached_offer {core l : Nat} {s t : State} (h : offer core l s = some t) : Cached s t := by
  unfold offer at h
  split at h
  · cases h
    exact .refl _ _ _
  · simp only [] at h
    split_ifs at h
    · exact (cached_cch _ s).trans (cached_install h)
    · exact (cached_cch _ s).trans (cached_install h)
    · cases h
      exact .bump (cached_cch _ s) (by decide) (by rfl)

theorem cached_offerAll {core : Nat} {ls : List Nat} {s t : State} (h : offerAll core ls s = some t) : Cached s t := by
  induction ls generalizing s with
  | nil => cases h; exact .refl _ _ _
  | cons l ls ih =>
    unfold offerAll at h
    split at h
    · cases h
    · next u hu => exact (cached_offer hu).trans (ih h)

/-! Requests -/

theorem cached_storeTo (r : CoreReq) (d : List Nat) (b : Bool) (s : State) : Cached s (storeTo r d b s) := by
  unfold storeTo
  simp only []
  split_ifs
  · exact (((Within.own (by rfl) (by rfl)).trans (cached_storeBytes _ _ (dropOthers r.core (reqLine r) s))).parts (by rfl) (by rfl)).parts (by rfl) (by rfl)
  · exact .own rfl rfl

theorem cached_serveWith (r : CoreReq) (d : List Nat) (s : State) : Cached s (serveWith r d s) := by
  unfold serveWith
  split
  · exact .own rfl rfl
  · exact .own rfl rfl
  · exact cached_storeTo _ _ _ _

theorem cached_missLine (core l : Nat) (s : State) : Cached s (missLine core l s) := by
  unfold missLine
  simp only []
  have hmiss (c : CchPart) : Cached s (bump Reg.CCH_MISS_CNT { s with cch := c }) := .bump (cached_cch c s) (by decide) (by rfl)
  split_ifs
  · exact (hmiss _).parts (by rfl) (by rfl)
  · exact hmiss _

theorem cached_reinstall {r : CoreReq} {v : Victim} {s t : State} (h : reinstall r v s = some t) : Cached s t := by
  unfold reinstall at h
  simp only [Option.map_eq_some_iff] at h
  obtain ⟨u, hu, rfl⟩ := h
  exact ((cached_cch _ s).trans (cached_install hu)).parts (by rfl) (by rfl)

theorem cached_makeRoom {r : CoreReq} {s t : State} (h : makeRoom r s = some t) : Cached s t := by
  unfold makeRoom at h
  split_ifs at h
  · cases h
    exact cached_cch _ _
  · exact cached_offerAll h

theorem cached_serve (r : CoreReq) (s : State) : Cached s (serve r s).1 := by
  unfold serve
  simp only []
  split
  · exact .refl _ _ _
  · next u hu =>
    refine (cached_makeRoom hu).trans ?_
    split
    · split
      · exact cached_storeTo _ _ _ _
      · exact .own rfl rfl
    · split
      · simp only []
        split_ifs
        · exact cached_storeTo _ _ _ _
        · exact cached_serveWith _ _ _
      · split
        · exact .refl _ _ _
        · split
          · exact cached_serveWith _ _ _
          · split
            · split
              · next hi =>
                exact (((cached_cch _ u).trans (cached_install hi)).bump (by decide) (by rfl)).trans (cached_serveWith _ _ _)
              · exact .refl _ _ _
            · split
              · split_ifs
                · split
                  · next hi => exact (cached_reinstall hi).bump (by decide) (by rfl)
                  · exact .refl _ _ _
                · exact .bump ((cached_cch _ u).trans (cached_serveWith _ _ _)) (by decide) (by rfl)
              · split_ifs
                · exact .refl _ _ _
                · exact cached_missLine _ _ _

theorem cached_request (r : CoreReq) (s : State) : Cached s (request r s) := by
  have hserve := cached_serve r s
  unfold request
  split
  · next h => rwa [h] at hserve
  · next h => exact Within.parts (by rwa [h] at hserve) (by rfl) (by rfl)

theorem cached_serveBank (b : Nat) (s : State) : Cached s (serveBank b s) := .forEach (cached_cch _ s) fun r _ => cached_request r

/-! Maintenance -/

theorem cached_landVictims (l : Nat) (b : Bool) (s : State) : Cached s (landVictims l b s) :=
  (Within.forEach (.refl _ _ s) fun (v : Victim) _ => cached_memLine l v.data).parts (by rfl) (by rfl)

/-- A line's dirty data goes to memory, with what stood in the victim buffer. -/
def cleaned (l : Nat) (s : State) : State :=
  match (landVictims l false s).dirtyData l with
  | none => landVictims l false s
  | some d =>
    let t := memLine l d (landVictims l false s)
    { t with cch := { t.cch with
      lines := t.cch.lines.map (fun x => if x.line = l then { x with data := d, dirty := false } else x)
      l1d := t.cch.l1d.map (fun x => if x.line = l then { x with dirty := false } else x) } }

theorem cached_cleaned (l : Nat) (s : State) : Cached s (cleaned l s) := by
  unfold cleaned
  split
  · exact cached_landVictims l false s
  · exact ((cached_landVictims l false s).trans (cached_memLine _ _ _)).parts (by rfl) (by rfl)

theorem cached_maintLine (op l : Nat) (s : State) : Cached s (maintLine op l s) := by
  unfold maintLine
  split_ifs
  · exact cached_cch _ _
  · exact (cached_landVictims l true s).parts (by rfl) (by rfl)
  · exact (cached_cleaned l s).parts (by rfl) (by rfl)
  · exact cached_cleaned l s

theorem cached_retryBank (b : Nat) (s : State) : Cached s (retryBank b s) := by
  refine Within.trans (.forEach (.refl _ _ s) fun m _ t => ?_) (cached_serveBank b _)
  split
  · exact .refl _ _ _
  · next u hu =>
    exact .forEach (((cached_install hu).trans (cached_cch _ u)).trans (cached_serveBank b _)) fun op _ => cached_maintLine op m.line

theorem cached_maintain (op : Nat) (p : Nat → Bool) (s : State) : Cached s (maintain op p s) :=
  (Within.forEach (.refl _ _ s) fun l _ => cached_maintLine op l).forEach fun b _ => cached_retryBank b

end Sys2Proof.Machine
end

section
/-! Resets and the boot (R466 to R473): the obligation O31. -/

open Sys2Proof

namespace Sys2Proof.Machine

/-! Registers that a reset keeps -/

theorem find_filter_key {α : Type} {p : Nat → Bool} {k : Nat} (h : p k = true) (l : List (Nat × α)) :
    Assoc.find (l.filter fun r => p r.1) k = Assoc.find l k := by
  induction l with
  | nil => rfl
  | cons x l ih =>
    obtain ⟨a, v⟩ := x
    by_cases ha : a = k
    · subst ha
      rw [List.filter_cons_of_pos (by exact h), Assoc.find, if_pos rfl, Assoc.find, if_pos rfl]
    · by_cases hp : p a = true
      · rw [List.filter_cons_of_pos (by exact hp), Assoc.find, if_neg ha, Assoc.find, if_neg ha, ih]
      · rw [List.filter_cons_of_neg (by exact hp), Assoc.find, if_neg ha, ih]

/-- A field whose offset a filter keeps reads as before. -/
theorem get_of_filter {p : Nat → Bool} {f : Field} {s t : State} (h : p (f.key / 32) = true)
    (ht : t.regs = s.regs.filter fun r => p (r.1 / 32)) : t.get f = s.get f := by
  rw [State.get, Assoc.getD, ht, find_filter_key (p := fun k => p (k / 32)) h, ← Assoc.getD, ← State.get]

theorem get_resetRegs_of_not {p : Nat → Bool} {f : Field} (h : p (f.key / 32) = false) (s : State) : (resetRegs p s).get f = s.get f :=
  get_of_filter (p := fun o => !p o) (by rw [h]; rfl) rfl

/-! The boot -/

/-- The slot in NEXT_SLOT holds an image. -/
def State.bootable (s : State) : Prop := (Assoc.find s.sys.images (s.get Reg.SYS_BOOT_NEXT_SLOT)).isSome = true

theorem boot_of_bootable {s : State} (h : s.bootable) : boot s = setF Reg.SYS_BOOT_SLOT (s.get Reg.SYS_BOOT_NEXT_SLOT) s := by
  have htry : tryBoot 8 s = (setF Reg.SYS_BOOT_SLOT (s.get Reg.SYS_BOOT_NEXT_SLOT) s, false) := if_pos h
  rw [boot, htry]

theorem bootable_congr {s t : State} (hi : t.sys.images = s.sys.images) (hn : t.get Reg.SYS_BOOT_NEXT_SLOT = s.get Reg.SYS_BOOT_NEXT_SLOT)
    (h : s.bootable) : t.bootable := by
  rw [State.bootable, hi, hn]
  exact h

theorem get_boot_ne {s : State} (h : s.bootable) {f : Field} (hf : Reg.SYS_BOOT_SLOT.key ≠ f.key) : (boot s).get f = s.get f := by
  rw [boot_of_bootable h, get_setF_ne _ _ _ _ hf]

/-- The boot changes a register only. -/
theorem view_boot {α : Type} (v : State → α) (hv : ∀ s r, v { s with regs := r } = v s) {s : State} (h : s.bootable) : v (boot s) = v s := by
  rw [boot_of_bootable h]
  exact hv s _

theorem get_kind_setCause {k : Nat} (hk : k < 4) (src : Nat) (s : State) : (setCause k src s).get Reg.SYS_RESET_CAUSE_KIND = k := by
  rw [setCause, get_setF_ne _ _ _ _ (by decide), get_setF_of_lt hk]

theorem get_source_setCause {src : Nat} (h : src < 16) (k : Nat) (s : State) : (setCause k src s).get Reg.SYS_RESET_CAUSE_SOURCE = src :=
  get_setF_of_lt h _

theorem get_setCause_ne {k src : Nat} {s : State} {f : Field} (hk : Reg.SYS_RESET_CAUSE_KIND.key ≠ f.key)
    (hs : Reg.SYS_RESET_CAUSE_SOURCE.key ≠ f.key) : (setCause k src s).get f = s.get f := by
  rw [setCause, get_setF_ne _ _ _ _ hs, get_setF_ne _ _ _ _ hk]

/-! Work that a reset ends -/

/-- The keys of the firmware's ring of member commands and of the fields around it, and the parts that the end of member commands changes. -/
@[reducible] def fwRingKey (k : Nat) : Prop := 0xA0000 * 32 ≤ k ∧ k < 0xB0000 * 32

@[reducible] def abortMask (s : State) : State :=
  { s with regs := [], mem := [], oxe := {}, sas := {}, out := [], jnl := { s.jnl with updates := [], locks := [], stalled := [] } }

theorem aborts_fwComplete (tag b st e : Nat) (s : State) : Within fwRingKey abortMask s (fwComplete tag b st e s) := by
  have hbytes (a : Nat) (l : List Nat) (t : State) : Within fwRingKey abortMask t (writeBytes a l t) := by
    induction l generalizing a t with
    | nil => exact .refl _ _ _
    | cons b l ih => exact (Within.own (by rfl) (by rfl)).trans (ih (a + 1) (writeByte a (BitVec.ofNat 8 b) t))
  exact .event (.when (.setF (hbytes _ _ _) _ (by decide) (by rfl)) (.own rfl rfl)) (by decide) (by decide) (by rfl)

theorem aborts_abortMembers (s : State) : Within fwRingKey abortMask s (abortMembers s) := by
  refine Within.parts (.forEach (.refl _ _ s) fun c _ v => ?_) (by rfl) (by rfl)
  have hemit : Within fwRingKey abortMask v (emit (.drive c.phys .abort c.lba c.nblk []) v) := .own rfl rfl
  split
  · exact hemit.trans (aborts_fwComplete _ _ _ _ _)
  · exact hemit

theorem view_endTest {α : Type} (v : State → α) (hv : ∀ s c, v { s with cmd := c } = v s) (r f : Nat) (s : State) :
    v (endTest r f s) = v s := by
  unfold endTest logPlain logEvent
  split_ifs
  · rfl
  · exact (hv _ _).trans (hv _ _)

theorem get_endTest (r f : Nat) (s : State) (g : Field) : (endTest r f s).get g = s.get g :=
  view_endTest (State.get · g) (fun _ _ => get_of_regs g rfl) r f s

/-! The warm reset -/

theorem view_writeImage {α : Type} (v : State → α) (hv : ∀ (s : State) im ar, v { s with jnl := { s.jnl with images := im, imageArea := ar } } = v s)
    (b : Bool) (s : State) : v (writeImage b s) = v s := by
  unfold writeImage
  split
  · exact hv s s.jnl.images none
  · simp only []
    split
    · exact hv s _ _
    · rfl

/-- The state that a warm reset comes upon, its work ended. -/
def warmEnded (image : Bool) (s : State) : State := endTest 5 0 (abortMembers (when image (writeImage true) s))

theorem view_warmEnded {α : Type} (v : State → α) (ha : ∀ w, v (abortMask w) = v w) (hc : ∀ s c, v { s with cmd := c } = v s)
    (hj : ∀ (s : State) im ar, v { s with jnl := { s.jnl with images := im, imageArea := ar } } = v s) (image : Bool) (s : State) :
    v (warmEnded image s) = v s :=
  (view_endTest v hc 5 0 _).trans (((aborts_abortMembers _).view v ha).trans (when_of_eq _ v (view_writeImage v hj true s)))

theorem get_warmEnded {f : Field} (hf : ¬ fwRingKey f.key) (image : Bool) (s : State) : (warmEnded image s).get f = s.get f :=
  (get_endTest 5 0 _ f).trans (((aborts_abortMembers _).get hf).trans
    (when_of_eq _ (State.get · f) (view_writeImage (State.get · f) (fun _ _ _ => get_of_regs f rfl) true s)))

/-- The state as a warm reset has restored it, before its own registers are written. -/
def warmRestored (image : Bool) (s : State) : State :=
  refillEngines (when (warmEnded image s).hif.up (event Reg.HIF_FW_EVENT_LINK_DOWN Reg.HIF_LINK_DOWN_CNT) (warmState (warmEnded image s)))

theorem resetWarm_eq (source : Nat) (image : Bool) (s : State) : resetWarm source image s
    = setCause 2 source (bump Reg.SYS_WARM_RESET_CNT (setF Reg.FOV_STATUS_FW_ALIVE 0 (warmRestored image s))) := rfl

/-- The engines' states and their islands' clocks. -/
@[reducible] def engMask (s : State) : State := { s with regs := [], sys := { s.sys with gated := [] } }

theorem within_refillEngines (s : State) : Within (fun k => 0x40020 * 32 ≤ k) engMask s (refillEngines s) :=
  .forEach (.refl _ _ s) fun e _ t => (Within.own (by rfl) (by rfl)).trans (.setF (.refl _ _ _) _ (by rw [engField_key]; omega) (by rfl))

/-- A register of the SYS block that a warm reset does not write. -/
theorem get_warmRestored {f : Field} (hf : f.key < 0x100 * 32) (image : Bool) (s : State) : (warmRestored image s).get f = s.get f := by
  have hkeep : keepsWarm (f.key / 32) = true := by
    have hb : f.key / 32 / 65536 = 0 := by omega
    simp [keepsWarm, islandOf, hb]
  have hregs : (warmState (warmEnded image s)).get f = s.get f :=
    (get_of_filter (p := keepsWarm) hkeep rfl).trans (get_warmEnded (by omega) image s)
  rw [warmRestored, (within_refillEngines _).get (by omega), when_of_eq _ (State.get · f) (get_event_ne ?_ ?_), hregs]
  · have : 0x100 * 32 ≤ Reg.HIF_FW_EVENT_LINK_DOWN.key := by decide
    omega
  · have : 0x100 * 32 ≤ Reg.HIF_LINK_DOWN_CNT.key := by decide
    omega

/-- A part that neither registers nor clocks touch is as the reset has set it. -/
theorem view_warmRestored {α : Type} (v : State → α) (hv : ∀ w, v (engMask w) = v w) (image : Bool) (s : State) :
    v (warmRestored image s) = v (warmState (warmEnded image s)) := by
  have hevent (t : State) : v (event Reg.HIF_FW_EVENT_LINK_DOWN Reg.HIF_LINK_DOWN_CNT t) = v t :=
    (hv _).symm.trans ((congrArg v rfl).trans (hv t))
  exact ((within_refillEngines _).view v hv).trans (when_of_eq _ v (hevent _))

theorem get_resetWarm_ne {src : Nat} {image : Bool} {s : State} {f : Field} (hf : f.key < 0x100 * 32)
    (hk : Reg.SYS_RESET_CAUSE_KIND.key ≠ f.key) (hs : Reg.SYS_RESET_CAUSE_SOURCE.key ≠ f.key) (hc : Reg.SYS_WARM_RESET_CNT.key ≠ f.key) :
    (resetWarm src image s).get f = s.get f := by
  have ha : 0x100 * 32 ≤ Reg.FOV_STATUS_FW_ALIVE.key := by decide
  rw [resetWarm_eq, get_setCause_ne hk hs, get_bump_ne hc, get_setF_ne _ _ _ _ (by omega), get_warmRestored hf]

theorem view_resetWarm {α : Type} (v : State → α) (hv : ∀ w, v (engMask w) = v w) (src : Nat) (image : Bool) (s : State) :
    v (resetWarm src image s) = v (warmState (warmEnded image s)) := by
  have hregs (t : State) : v (setCause 2 src (bump Reg.SYS_WARM_RESET_CNT (setF Reg.FOV_STATUS_FW_ALIVE 0 t))) = v t :=
    (hv _).symm.trans ((congrArg v rfl).trans (hv t))
  exact (hregs _).trans (view_warmRestored v hv image s)

theorem images_resetWarm (src : Nat) (image : Bool) (s : State) : (resetWarm src image s).sys.images = s.sys.images :=
  (view_resetWarm (fun t => t.sys.images) (fun _ => rfl) src image s).trans
    (view_warmEnded (fun t => t.sys.images) (fun _ => rfl) (fun _ _ => rfl) (fun _ _ _ => rfl) image s)

theorem intents_resetWarm (src : Nat) (image : Bool) (s : State) : (resetWarm src image s).jnl.intents = s.jnl.intents :=
  (view_resetWarm (fun t => t.jnl.intents) (fun _ => rfl) src image s).trans
    (view_warmEnded (fun t => t.jnl.intents) (fun _ => rfl) (fun _ _ => rfl) (fun _ _ _ => rfl) image s)

/-- A warm reset whose NEXT_SLOT holds an image. -/
theorem warmly_fields {src : Nat} (hsrc : src < 16) (image : Bool) {s : State} (h : s.bootable) :
    (warmly src image s).get Reg.SYS_RESET_CAUSE_KIND = 2 ∧ (warmly src image s).get Reg.SYS_RESET_CAUSE_SOURCE = src
    ∧ (warmly src image s).get Reg.SYS_WARM_RESET_CNT = (s.get Reg.SYS_WARM_RESET_CNT + 1) % 2 ^ 32
    ∧ (warmly src image s).get Reg.FOV_STATUS_FW_ALIVE = 0 ∧ (warmly src image s).sys.firmwareUp = false
    ∧ (warmly src image s).qmx.cmds = [] ∧ (warmly src image s).jnl.intents = s.jnl.intents := by
  have hboot : (resetWarm src image s).bootable :=
    bootable_congr (images_resetWarm src image s) (get_resetWarm_ne (by decide) (by decide) (by decide) (by decide)) h
  rw [warmly, get_boot_ne hboot (by decide), get_boot_ne hboot (by decide), get_boot_ne hboot (by decide), get_boot_ne hboot (by decide),
    view_boot (fun t => t.sys.firmwareUp) (fun _ _ => rfl) hboot, view_boot (fun t => t.qmx.cmds) (fun _ _ => rfl) hboot,
    view_boot (fun t => t.jnl.intents) (fun _ _ => rfl) hboot]
  refine ⟨get_kind_setCause (by decide) _ _, get_source_setCause hsrc _ _, ?_, ?_, ?_, ?_, intents_resetWarm src image s⟩
  · rw [resetWarm_eq, get_setCause_ne (by decide) (by decide), get_bump_self, get_setF_ne _ _ _ _ (by decide),
      get_warmRestored (by decide)]
    rfl
  · rw [resetWarm_eq, get_setCause_ne (by decide) (by decide), get_bump_ne (by decide), get_setF_zero]
  · exact view_resetWarm (fun t => t.sys.firmwareUp) (fun _ => rfl) src image s
  · exact view_resetWarm (fun t => t.qmx.cmds) (fun _ => rfl) src image s

/-! The core restart -/

/-- The parts that the end of the commands changes. -/
@[reducible] def cmdsMask (s : State) : State := { s with regs := [], sas := {}, fab := {}, qmx := {}, cmd := {}, hif := {}, out := [] }

theorem within_abortByReset (spare : Option Nat) (s : State) : Within outerKey cmdsMask s (abortByReset spare s) := by
  have hdrop (l : List Nat) : Within outerKey cmdsMask s (forEach l dropPieces s) := .forEach (.refl _ _ _) fun n _ t => .own rfl rfl
  exact ((hdrop _).trans ((within_finishAll _ _ _ _).mono id fun _ => rfl)).parts (by rfl) (by rfl)

/-- The state that a core restart comes upon, its work ended. -/
def coreEnded (flush : Bool) (spare : Option Nat) (s : State) : State :=
  endTest 5 0 (abortByReset spare (when flush (maintain 3 (fun _ => true)) s))

theorem get_coreEnded {f : Field} (hc : ¬ cacheKey f.key) (ho : ¬ outerKey f.key) (flush : Bool) (spare : Option Nat) (s : State) :
    (coreEnded flush spare s).get f = s.get f := by
  rw [coreEnded, get_endTest, (within_abortByReset _ _).get ho, when_of_eq _ (State.get · f) ((cached_maintain _ _ _).get hc)]

theorem sys_coreEnded (flush : Bool) (spare : Option Nat) (s : State) : (coreEnded flush spare s).sys = s.sys := by
  rw [coreEnded, view_endTest State.sys fun _ _ => rfl, (within_abortByReset _ _).view State.sys fun _ => rfl,
    when_of_eq _ State.sys ((cached_maintain _ _ _).view State.sys fun _ => rfl)]

/-- The state as a core restart leaves it, before its own registers are written. -/
def coreCleared (s : State) : State :=
  { clearCache (resetRegs ctrlResets s) with
    dma := []
    bat := { s.bat with authDue := s.bat.desc.isSome, authFails := 0 }
    oxe := { s.oxe with phases := s.oxe.phases.filter (fun p => decide (p.1 < 32)) }
    sys := { s.sys with firmwareUp := false } }

theorem resetCtrl_eq (src : Nat) (flush : Bool) (spare : Option Nat) (s : State) : resetCtrl src flush spare s
    = setCause 3 src (bump Reg.SYS_CORE_RESTART_CNT (setF Reg.FOV_STATUS_FW_ALIVE 0 (coreCleared (coreEnded flush spare s)))) := rfl

theorem get_coreCleared {f : Field} (hf : f.key < 0x70000 * 32) (s : State) : (coreCleared s).get f = s.get f := by
  refine (get_of_regs f rfl).trans (get_resetRegs_of_not ?_ s)
  have : ¬ 0x70000 ≤ f.key / 32 := by omega
  simp [ctrlResets, this]

/-- A register of the SYS block that a core restart does not write. -/
theorem get_sys_restart {f : Field} (hf : f.key < 0x100 * 32) (flush : Bool) (spare : Option Nat) (s : State) :
    (coreCleared (coreEnded flush spare s)).get f = s.get f := by
  have hm : 0x100 * 32 ≤ Reg.FOV_MIR_TX_CNT.key := by decide
  rw [get_coreCleared (by omega), get_coreEnded (by omega) (by omega)]

theorem get_resetCtrl_ne {src : Nat} {flush : Bool} {spare : Option Nat} {s : State} {f : Field} (hf : f.key < 0x100 * 32)
    (hk : Reg.SYS_RESET_CAUSE_KIND.key ≠ f.key) (hs : Reg.SYS_RESET_CAUSE_SOURCE.key ≠ f.key) (hc : Reg.SYS_CORE_RESTART_CNT.key ≠ f.key) :
    (resetCtrl src flush spare s).get f = s.get f := by
  have ha : 0x100 * 32 ≤ Reg.FOV_STATUS_FW_ALIVE.key := by decide
  rw [resetCtrl_eq, get_setCause_ne hk hs, get_bump_ne hc, get_setF_ne _ _ _ _ (by omega), get_sys_restart hf]

theorem images_resetCtrl (src : Nat) (flush : Bool) (spare : Option Nat) (s : State) :
    (resetCtrl src flush spare s).sys.images = s.sys.images := by
  have hset (t : State) : (setCause 3 src (bump Reg.SYS_CORE_RESTART_CNT (setF Reg.FOV_STATUS_FW_ALIVE 0 (coreCleared t)))).sys.images
      = t.sys.images := rfl
  rw [resetCtrl_eq, hset, sys_coreEnded]

theorem bootable_resetCtrl {src : Nat} {flush : Bool} {spare : Option Nat} {s : State} (h : s.bootable) :
    (resetCtrl src flush spare s).bootable :=
  bootable_congr (images_resetCtrl src flush spare s) (get_resetCtrl_ne (by decide) (by decide) (by decide) (by decide)) h

/-- A core restart whose NEXT_SLOT holds an image. -/
theorem restartCores_fields {src : Nat} (hsrc : src < 16) (flush : Bool) (spare : Option Nat) {s t : State} (h : s.bootable)
    (ht : t = restartCores src flush spare s) :
    t.get Reg.SYS_RESET_CAUSE_KIND = 3 ∧ t.get Reg.SYS_RESET_CAUSE_SOURCE = src ∧ t.get Reg.FOV_STATUS_FW_ALIVE = 0
    ∧ t.get Reg.SYS_CORE_RESTART_CNT = (s.get Reg.SYS_CORE_RESTART_CNT + 1) % 2 ^ 32 ∧ t.get Reg.SYS_BOOT_TRIES = s.get Reg.SYS_BOOT_TRIES
    ∧ t.sys.firmwareUp = false ∧ t.dma = [] := by
  have hboot : (resetCtrl src flush spare s).bootable := bootable_resetCtrl h
  rw [ht, restartCores, get_boot_ne hboot (by decide), get_boot_ne hboot (by decide), get_boot_ne hboot (by decide),
    get_boot_ne hboot (by decide), get_boot_ne hboot (by decide), view_boot (fun t => t.sys.firmwareUp) (fun _ _ => rfl) hboot,
    view_boot State.dma (fun _ _ => rfl) hboot]
  refine ⟨get_kind_setCause (by decide) _ _, get_source_setCause hsrc _ _, ?_, ?_, get_resetCtrl_ne (by decide) (by decide) (by decide) (by decide),
    rfl, rfl⟩
  · rw [resetCtrl_eq, get_setCause_ne (by decide) (by decide), get_bump_ne (by decide), get_setF_zero]
  · rw [resetCtrl_eq, get_setCause_ne (by decide) (by decide), get_bump_self, get_setF_ne _ _ _ _ (by decide), get_sys_restart (by decide)]
    rfl

/-! The cold reset -/

/-- The pins as a cold reset finds them. -/
def pinsRead (s : State) : State :=
  let pins := [Reg.SYS_STRAP_POS_LIVE, Reg.SYS_STRAP_COMPAT_N_LIVE, Reg.SYS_STRAP_SHELF_LIVE, Reg.FAN_TOKEN_PARTNER, Reg.FAB_UID_LO_UID,
    Reg.FAB_UID_HI_UID] ++ allSlots.map Reg.SLT_STATUS_PRESENT
  forEach pins (fun f t => setF f (s.get f) t)
    (setF Reg.FOV_STATUS_ACTIVE_LINE (if s.active then 0 else s.get Reg.FOV_STATUS_ACTIVE_LINE) State.reset)

theorem nextSlot_pinsRead (s : State) : (pinsRead s).get Reg.SYS_BOOT_NEXT_SLOT = 1 := by
  have hpin : ∀ f ∈ [Reg.SYS_STRAP_POS_LIVE, Reg.SYS_STRAP_COMPAT_N_LIVE, Reg.SYS_STRAP_SHELF_LIVE, Reg.FAN_TOKEN_PARTNER, Reg.FAB_UID_LO_UID,
      Reg.FAB_UID_HI_UID] ++ allSlots.map Reg.SLT_STATUS_PRESENT, f.key ≠ Reg.SYS_BOOT_NEXT_SLOT.key := by decide
  refine (get_forEach_of_mem (fun f hf t => get_setF_ne _ _ _ _ (hpin f hf)) _).trans ?_
  rw [get_setF_ne _ _ _ _ (by decide)]
  rfl

/-- The state of a cold reset before the boot. -/
def coldLatched (powerOn : Bool) (source : Nat) (s : State) : State :=
  setCause (if powerOn then 0 else 1) source
    (setF Reg.SYS_STRAP_POS (s.get Reg.SYS_STRAP_POS_LIVE) (setF Reg.SYS_STRAP_COMPAT (1 - s.get Reg.SYS_STRAP_COMPAT_N_LIVE)
      (setF Reg.SYS_STRAP_SHELF_ID (s.get Reg.SYS_STRAP_SHELF_LIVE) (coldState powerOn s))))

theorem nextSlot_coldLatched (powerOn : Bool) (source : Nat) (s : State) : (coldLatched powerOn source s).get Reg.SYS_BOOT_NEXT_SLOT = 1 := by
  rw [coldLatched, get_setCause_ne (by decide) (by decide), get_setF_ne _ _ _ _ (by decide), get_setF_ne _ _ _ _ (by decide),
    get_setF_ne _ _ _ _ (by decide)]
  exact (get_of_regs (t := pinsRead s) _ rfl).trans (nextSlot_pinsRead s)

/-- A cold or power-on reset whose first slot holds an image. -/
theorem resetCold_fields (powerOn : Bool) {src : Nat} (hsrc : src < 16) {s t : State} (h : (Assoc.find s.sys.images 1).isSome = true)
    (ht : t = resetCold powerOn src s) :
    t.get Reg.SYS_RESET_CAUSE_KIND = (if powerOn then 0 else 1) ∧ t.get Reg.SYS_RESET_CAUSE_SOURCE = src
    ∧ t.get Reg.SYS_STRAP_POS = s.get Reg.SYS_STRAP_POS_LIVE % 2 ∧ t.get Reg.SYS_STRAP_SHELF_ID = s.get Reg.SYS_STRAP_SHELF_LIVE % 64
    ∧ t.get Reg.SYS_BOOT_SLOT = 1 ∧ t.sys.firmwareUp = false ∧ t.qmx.cmds = [] ∧ t.jnl.images = s.jnl.images
    ∧ t.jnl.intents = s.jnl.intents := by
  have hnext := nextSlot_coldLatched powerOn src s
  have hboot : (coldLatched powerOn src s).bootable := by rw [State.bootable, hnext]; exact h
  have heq : t = boot (coldLatched powerOn src s) := ht
  rw [heq, get_boot_ne hboot (by decide), get_boot_ne hboot (by decide), get_boot_ne hboot (by decide), get_boot_ne hboot (by decide),
    view_boot (fun t => t.sys.firmwareUp) (fun _ _ => rfl) hboot, view_boot (fun t => t.qmx.cmds) (fun _ _ => rfl) hboot,
    view_boot (fun t => t.jnl.images) (fun _ _ => rfl) hboot, view_boot (fun t => t.jnl.intents) (fun _ _ => rfl) hboot]
  refine ⟨get_kind_setCause (by split_ifs <;> decide) _ _, get_source_setCause hsrc _ _, ?_, ?_, ?_, rfl, rfl, rfl, rfl⟩
  · rw [coldLatched, get_setCause_ne (by decide) (by decide), get_setF_self]
    rfl
  · rw [coldLatched, get_setCause_ne (by decide) (by decide), get_setF_ne _ _ _ _ (by decide), get_setF_ne _ _ _ _ (by decide), get_setF_self]
    rfl
  · rw [boot_of_bootable hboot, hnext, get_setF_of_lt (by decide)]

/-! Requests -/

/-- A request's KEY and SCOPE are written. -/
def keyed (key scope : Nat) (s : State) : State := setF Reg.SYS_RESET_KEY key (setF Reg.SYS_RESET_SCOPE scope s)

theorem get_keyed {key scope : Nat} {s : State} {f : Field} (hk : Reg.SYS_RESET_KEY.key ≠ f.key) (hs : Reg.SYS_RESET_SCOPE.key ≠ f.key) :
    (keyed key scope s).get f = s.get f := by rw [keyed, get_setF_ne _ _ _ _ hk, get_setF_ne _ _ _ _ hs]

theorem bootable_keyed {key scope : Nat} {s : State} (h : s.bootable) : (keyed key scope s).bootable :=
  bootable_congr (s := s) rfl (get_keyed (by decide) (by decide)) h

theorem withKey_right (scope : Nat) (k : State → State) (s : State) : withKey 0x5A scope k s = k (keyed 0x5A scope s) := by
  rw [withKey, if_pos rfl, keyed]

theorem withKey_wrong {key : Nat} (hk : key ≠ 0x5A) (scope : Nat) (k : State → State) (s : State) :
    withKey key scope k s = ignored 6 0 (keyed key scope s) := if_neg hk

/-- A cold reset is allowed (R467). -/
def State.mayColdReset (s : State) : Prop := (s.mode = Mode.parked ∨ s.mode = Mode.service) ∧ s.dirtyMib = 0 ∧ s.entriesUsed = 0

theorem coldAllowed_of_may {s : State} (h : s.mayColdReset) (src : Nat) : coldAllowed src s = resetCold false src s := by
  obtain ⟨hm, hd, hu⟩ := h
  have hin : s.modeIn [Mode.service, Mode.parked] = true := by
    rcases hm with hm | hm <;> rw [State.modeIn, hm] <;> decide
  rw [coldAllowed, if_pos]
  simp [hin, hd, hu]

theorem mayColdReset_keyed {key scope : Nat} {s : State} (h : s.mayColdReset) : (keyed key scope s).mayColdReset := by
  have hmode : (keyed key scope s).mode = s.mode := get_keyed (by decide) (by decide)
  rw [State.mayColdReset, hmode]
  exact h

theorem exec_coldReset_of_lands {s : State} (hl : s.lands 0x8 = true) (h : s.mayColdReset) :
    exec (.coldReset 0x5A) s = .next (resetCold false 1 (keyed 0x5A 3 (ungate .keep s))) :=
  (exec_of_lands hl (exec_coldReset s)).trans
    (congrArg _ ((withKey_right 3 _ _).trans (coldAllowed_of_may (mayColdReset_keyed (s := ungate .keep s) h) 1)))

theorem exec_warmReset_of_lands {s : State} (hl : s.lands 0x8 = true) :
    exec (.warmReset 0x5A) s = .next (warmly 1 true (keyed 0x5A 2 (ungate .keep s))) :=
  (exec_of_lands hl (exec_warmReset s)).trans (congrArg _ (withKey_right 2 _ _))

theorem exec_coreRestart_of_lands {s : State} (hl : s.lands 0x8 = true) :
    exec (.coreRestart 0x5A) s = .next (restartCores 1 true none (keyed 0x5A 1 (ungate .keep s))) :=
  (exec_of_lands hl (exec_coreRestart s)).trans (congrArg _ (withKey_right 1 _ _))

theorem exec_watchdogRestart_of {s : State} (hf : s.sys.firmwareUp = true) (ha : s.on Reg.FOV_STATUS_FW_ALIVE = false)
    (he : s.on Reg.SYS_CFG_AUTO_RESTART_EN = true) : exec .watchdogRestart s = .next (restartCores 2 false none s) := by
  rw [exec_watchdogRestart, execWatchdogRestart, if_pos]
  simp [hf, ha, he]

/-- The first try of a start that fails is counted. -/
theorem exec_bootTimeout_of {s : State} (hf : s.sys.firmwareUp = false) (hn : s.on Reg.SYS_BOOT_NO_IMAGE = false)
    (ht : s.get Reg.SYS_BOOT_TRIES = 0) : exec .bootTimeout s
      = .next (useFree (restartCores ((setF Reg.SYS_BOOT_TRIES 1 s).freeVal 4) false none (setF Reg.SYS_BOOT_TRIES 1 s))) := by
  have htry : failTry s = (setF Reg.SYS_BOOT_TRIES 1 s, 0) := by
    rw [failTry]
    simp only [ht]
    rfl
  rw [exec_bootTimeout, execBootTimeout, if_neg (by simp [hf, hn]), htry]
  rfl

/-- A request whose KEY is wrong is ignored. -/
theorem exec_reset_of_wrong {s : State} {key : Nat} (hl : s.lands 0x8 = true) (hk : key ≠ 0x5A) {c : Instr}
    (hc : c ∈ [Instr.coldReset key, .warmReset key, .coreRestart key]) :
    ∃ scope, exec c s = .next (ignored 6 0 (keyed key scope (ungate .keep s))) := by
  simp only [List.mem_cons, List.not_mem_nil, or_false] at hc
  rcases hc with rfl | rfl | rfl
  · exact ⟨3, (exec_of_lands hl (exec_coldReset s)).trans (congrArg _ (withKey_wrong hk 3 _ _))⟩
  · exact ⟨2, (exec_of_lands hl (exec_warmReset s)).trans (congrArg _ (withKey_wrong hk 2 _ _))⟩
  · exact ⟨1, (exec_of_lands hl (exec_coreRestart s)).trans (congrArg _ (withKey_wrong hk 1 _ _))⟩

theorem wrongKey_fields {s : State} {key : Nat} (hk : key < 256) (scope : Nat) {t : State}
    (ht : t = ignored 6 0 (keyed key scope (ungate .keep s))) :
    t.get Reg.SYS_RESET_KEY = key ∧ t.get Reg.QMX_IGNORED_CNT = (s.get Reg.QMX_IGNORED_CNT + 1) % 2 ^ 32
    ∧ Keeps [Reg.SYS_RESET_KEY, Reg.SYS_RESET_SCOPE, Reg.QMX_EVENT_IGNORED, Reg.QMX_IGNORED_CNT, Reg.QMX_IGN_LAST_QID,
        Reg.QMX_IGN_LAST_KIND] s t := by
  rw [ht]
  refine ⟨?_, ?_, ?_⟩
  · rw [ignored, get_event_ne (by decide) (by decide), get_setF_ne _ _ _ _ (by decide), get_setF_ne _ _ _ _ (by decide), keyed,
      get_setF_of_lt hk]
  · rw [ignored, get_event_cnt _ _ _ (by decide), get_setF_ne _ _ _ _ (by decide), get_setF_ne _ _ _ _ (by decide),
      get_keyed (by decide) (by decide), ungate_get]
    rfl
  · simp [ignored, keyed]

/-! The console -/

/-- The reads of a dump use free values and nothing else. -/
theorem dumpWords_free (n : Nat) : ∀ (first : Nat) (s : State) (acc : List Nat), ∃ k, (dumpWords first n s acc).2 = useFrees k s := by
  induction n with
  | zero => exact fun _ _ _ => ⟨0, rfl⟩
  | succ n ih =>
    intro first s acc
    unfold dumpWords
    split_ifs
    · exact ih _ _ _
    · obtain ⟨k, hk⟩ := ih (first + 4) (useFrees (readsFree first) s) (s.readWord first :: first :: acc)
      exact ⟨readsFree first + k, hk.trans (by simp [useFrees, Nat.add_assoc])⟩

theorem dumpBlocks_free (s : State) : ∃ k, (dumpBlocks s).2 = useFrees k s := by
  obtain ⟨a, ha⟩ := dumpWords_free 24 0x0 s []
  obtain ⟨b, hb⟩ := dumpWords_free (1024 + 64) 0xF0000 (dumpWords 0x0 24 s []).2 (dumpWords 0x0 24 s []).1
  obtain ⟨c, hc⟩ := dumpWords_free (1024 + 64) 0x110000 (dumpWords 0xF0000 (1024 + 64) (dumpWords 0x0 24 s []).2 (dumpWords 0x0 24 s []).1).2
    (dumpWords 0xF0000 (1024 + 64) (dumpWords 0x0 24 s []).2 (dumpWords 0x0 24 s []).1).1
  refine ⟨a + (b + c), hc.trans ?_⟩
  rw [hb, ha]
  simp [useFrees, Nat.add_assoc]

theorem consoleDump_fields (s : State) {t : State} (ht : t = emit (.console (dumpBlocks s).1.reverse) (dumpBlocks s).2) :
    (∃ l, t.out = .console l :: s.out) ∧ Keeps [] s t := by
  obtain ⟨k, hk⟩ := dumpBlocks_free s
  rw [ht, hk]
  exact ⟨⟨_, rfl⟩, by simp⟩

/-- An image that the console loads, before the boot. -/
def imageLoaded (slot number : Nat) (s : State) : State :=
  let s1 := setF Reg.SYS_BOOT_NEXT_SLOT slot (setF Reg.SYS_BOOT_TRIES 0 (setF Reg.SYS_BOOT_NO_IMAGE 0 (storeImage slot number s)))
  { s1 with sys := { s1.sys with slotsFailed := [] } }

theorem exec_consoleImageLoad_of {s : State} {im : ImageFacts} (slot : Fin 2) (hn : s.on Reg.SYS_BOOT_NO_IMAGE = true)
    (hs : im.signed = true) (ho : im.ours = true) :
    exec (.consoleImageLoad im slot) s = .next (boot (imageLoaded (slot.val + 1) im.number s)) := by
  rw [exec_consoleImageLoad, execConsoleImageLoad, if_pos (by simp [hn, hs, ho])]
  rfl

theorem imageLoaded_fields {slot : Nat} (hslot : slot < 4) (number : Nat) (s : State) {t : State} (ht : t = boot (imageLoaded slot number s)) :
    t.get Reg.SYS_BOOT_NO_IMAGE = 0 ∧ t.get Reg.SYS_BOOT_SLOT = slot ∧ t.get Reg.SYS_BOOT_TRIES = 0
    ∧ Assoc.find t.sys.images slot = some number := by
  have hfind : Assoc.find (imageLoaded slot number s).sys.images slot = some number := by
    show Assoc.find (Assoc.set s.sys.images slot number) slot = some number
    rw [Assoc.find_set, if_pos rfl]
  have hnext : (imageLoaded slot number s).get Reg.SYS_BOOT_NEXT_SLOT = slot := (get_of_regs _ rfl).trans (get_setF_of_lt hslot _)
  have hboot : (imageLoaded slot number s).bootable := by rw [State.bootable, hnext, hfind]; rfl
  rw [ht]
  refine ⟨?_, ?_, ?_, (congrArg (Assoc.find · slot) (view_boot (fun t => t.sys.images) (fun _ _ => rfl) hboot)).trans hfind⟩
  · rw [get_boot_ne hboot (by decide)]
    refine (get_of_regs _ rfl).trans ((get_setF_ne _ _ _ _ ?_).trans ((get_setF_ne _ _ _ _ ?_).trans (get_setF_zero _ _))) <;> decide
  · rw [boot_of_bootable hboot, hnext, get_setF_of_lt hslot]
  · rw [get_boot_ne hboot (by decide)]
    exact (get_of_regs _ rfl).trans ((get_setF_ne _ _ _ _ (by decide)).trans (get_setF_zero _ _))

/-! The straps -/

/-- The live levels of the straps. -/
def strapsLive (posB compatN : Bool) (shelf : Nat) (s : State) : State :=
  setF Reg.SYS_STRAP_SHELF_LIVE shelf (setF Reg.SYS_STRAP_COMPAT_N_LIVE (b2n compatN) (setF Reg.SYS_STRAP_POS_LIVE (b2n posB) s))

theorem strapChange_fields (posB compatN : Bool) {shelf : Nat} (hs : shelf < 64) (s : State) {t : State}
    (ht : t = when (b2n posB != s.get Reg.SYS_STRAP_POS || 1 - b2n compatN != s.get Reg.SYS_STRAP_COMPAT || shelf != s.get Reg.SYS_STRAP_SHELF_ID)
      (event Reg.SYS_EVENT_STRAP_CHANGE Reg.SYS_STRAP_CHANGE_CNT) (strapsLive posB compatN shelf s)) :
    t.on Reg.SYS_STRAP_POS_LIVE = posB ∧ t.on Reg.SYS_STRAP_COMPAT_N_LIVE = compatN ∧ t.get Reg.SYS_STRAP_SHELF_LIVE = shelf
    ∧ t.get Reg.SYS_STRAP_POS = s.get Reg.SYS_STRAP_POS ∧ t.get Reg.SYS_STRAP_COMPAT = s.get Reg.SYS_STRAP_COMPAT
    ∧ (shelf ≠ s.get Reg.SYS_STRAP_SHELF_ID → t.get Reg.SYS_EVENT_STRAP_CHANGE = 1)
    ∧ Keeps [Reg.SYS_STRAP_POS_LIVE, Reg.SYS_STRAP_COMPAT_N_LIVE, Reg.SYS_STRAP_SHELF_LIVE, Reg.SYS_EVENT_STRAP_CHANGE,
        Reg.SYS_STRAP_CHANGE_CNT] s t := by
  have hget {f : Field} (he : Reg.SYS_EVENT_STRAP_CHANGE.key ≠ f.key) (hc : Reg.SYS_STRAP_CHANGE_CNT.key ≠ f.key) :
      t.get f = (strapsLive posB compatN shelf s).get f := by
    rw [ht]
    exact when_of_eq _ (State.get · f) (get_event_ne he hc)
  refine ⟨?_, ?_, ?_, ?_, ?_, fun h => ?_, ?_⟩
  · rw [State.on, hget (by decide) (by decide), strapsLive, get_setF_ne _ _ _ _ (by decide), get_setF_ne _ _ _ _ (by decide)]
    exact on_setF_b2n rfl posB s
  · rw [State.on, hget (by decide) (by decide), strapsLive, get_setF_ne _ _ _ _ (by decide)]
    exact on_setF_b2n rfl compatN _
  · rw [hget (by decide) (by decide), strapsLive, get_setF_of_lt hs]
  · rw [hget (by decide) (by decide), strapsLive, get_setF_ne _ _ _ _ (by decide), get_setF_ne _ _ _ _ (by decide),
      get_setF_ne _ _ _ _ (by decide)]
  · rw [hget (by decide) (by decide), strapsLive, get_setF_ne _ _ _ _ (by decide), get_setF_ne _ _ _ _ (by decide),
      get_setF_ne _ _ _ _ (by decide)]
  · rw [ht, when_of_true (by simp [h]), get_event_flag _ _ _ (by decide) (by decide)]
  · rw [ht]
    exact Keeps.when _ _ (by simp [strapsLive]) (Keeps.event _ _ (by decide) (by decide))

/-- Settles O31: a reset ends in the boot of NEXT_SLOT's image, and every field named is below the blocks that the reset clears. -/
theorem resetsComplete : Obligations.ResetsComplete := by
  unfold Obligations.ResetsComplete
  refine ⟨fun s hi => ?powerOn, fun s hl hi hm hd hu => ?cold, fun s hi hm hd hu => ?consoleCold, fun s hi => ⟨fun hl => ?warm, ?consoleWarm⟩,
    fun s hi => ⟨fun hl => ?core, fun hf ha he => ?watchdog, fun hf hn ht => ?timeout⟩, fun s key hl hk hne c hc => ?wrong,
    fun s => ?dump, fun s im slot hn hs ho => ?image, fun s posB compatN shelf => ?strap⟩
  case powerOn =>
    obtain ⟨hkind, -, hpos, hshelf, hslot, hfw, hcmds, himages, hintents⟩ := resetCold_fields true (src := 0) (by decide) hi rfl
    exact .of_next (exec_powerOnReset s) ⟨hkind, hpos, hshelf, hslot, hfw, hcmds, himages, hintents⟩
  case cold =>
    obtain ⟨hkind, hsrc, -, -, -, hfw, hcmds, -, hintents⟩ :=
      resetCold_fields false (src := 1) (s := keyed 0x5A 3 (ungate .keep s)) (by decide) hi rfl
    exact .of_next (exec_coldReset_of_lands hl ⟨hm, hd, hu⟩) ⟨hkind, hsrc, hfw, hcmds, hintents⟩
  case consoleCold =>
    obtain ⟨hkind, hsrc, -⟩ := resetCold_fields false (src := 5) (by decide) hi rfl
    exact .of_next ((exec_consoleColdReset s).trans (congrArg Host.Outcome.next (coldAllowed_of_may ⟨hm, hd, hu⟩ 5))) ⟨hkind, hsrc⟩
  case warm =>
    have hboot : (keyed 0x5A 2 (ungate .keep s)).bootable := bootable_keyed (s := ungate .keep s) hi
    obtain ⟨hkind, hsrc, hcnt, halive, hfw, hcmds, hintents⟩ := warmly_fields (src := 1) (by decide) true hboot
    rw [get_keyed (by decide) (by decide)] at hcnt
    exact .of_next (exec_warmReset_of_lands hl) ⟨hkind, hsrc, hcnt, halive, hfw, hcmds, hintents⟩
  case consoleWarm =>
    obtain ⟨hkind, hsrc, -⟩ := warmly_fields (src := 5) (by decide) true (s := s) hi
    exact .of_next (exec_consoleWarmReset s) ⟨hkind, hsrc⟩
  case core =>
    have hboot : (keyed 0x5A 1 (ungate .keep s)).bootable := bootable_keyed (s := ungate .keep s) hi
    obtain ⟨hkind, hsrc, halive, hcnt, -, hfw, hdma⟩ := restartCores_fields (src := 1) (by decide) true none hboot rfl
    rw [get_keyed (by decide) (by decide)] at hcnt
    exact .of_next (exec_coreRestart_of_lands hl) ⟨hkind, hsrc, halive, hcnt, hfw, hdma⟩
  case watchdog =>
    obtain ⟨hkind, hsrc, -, -, -, hfw, -⟩ := restartCores_fields (src := 2) (by decide) false none (s := s) hi rfl
    exact .of_next (exec_watchdogRestart_of hf ha he) ⟨hkind, hsrc, hfw⟩
  case timeout =>
    have hboot : (setF Reg.SYS_BOOT_TRIES 1 s).bootable := bootable_congr (s := s) rfl (get_setF_ne _ _ _ _ (by decide)) hi
    obtain ⟨hkind, -, -, -, htries, hfw, -⟩ :=
      restartCores_fields (src := (setF Reg.SYS_BOOT_TRIES 1 s).freeVal 4) (Nat.mod_lt _ (by decide)) false none hboot rfl
    exact .of_next (exec_bootTimeout_of hf hn ht) ⟨hkind, htries.trans (get_setF_of_lt (by decide) _), hfw⟩
  case wrong =>
    obtain ⟨scope, he⟩ := exec_reset_of_wrong hl hne hc
    exact .of_next he (wrongKey_fields hk scope rfl)
  case dump => exact .of_next (exec_consoleDump s) (consoleDump_fields s rfl)
  case image =>
    exact .of_next (exec_consoleImageLoad_of slot hn hs ho) (imageLoaded_fields (by have := slot.isLt; omega) im.number s rfl)
  case strap => exact .of_next (exec_strapChange s) (strapChange_fields posB compatN shelf.isLt s rfl)

end Sys2Proof.Machine
end

section
/-! Cluster cache operations (R422 to R432): the obligation O40. -/

open Sys2Proof

namespace Sys2Proof.Machine

/-- The active, its mirror link up, whose cluster cache holds the first line of the journal's entry 0 dirty. -/
def journalLineDirty : State :=
  { setF Reg.FOV_STATUS_ACTIVE_HELD 1 (setF Reg.FOV_MIR_STATUS_LINK_UP 1 (setF Reg.FOV_MIR_CTRL_ENABLE 1 State.reset)) with
    cch := { lines := [⟨0, 0x41000000, List.replicate 64 0, true⟩] } }

/-- What goes out as an uncorrectable error meets that line: the fault, and before it the message that mirrors the entry (R117). -/
theorem out_cacheUe_journalLineDirty :
    ∃ t, exec (.cacheUe (some 0) 0x1040000000) journalLineDirty = .next t ∧ t.out.length = 2 := by
  rw [exec_cacheUe]
  exact ⟨_, rfl, by decide +kernel⟩

/-- Refutes O40: the write-back of a poisoned line of the journal is an entry written, which the active mirrors to its partner (R117), so the
core's fault is not all that goes out. -/
theorem not_cacheCommandsComplete : ¬ Obligations.CacheCommandsComplete := by
  unfold Obligations.CacheCommandsComplete
  intro h
  obtain ⟨-, -, -, -, herr, -⟩ := h
  obtain ⟨-, -, hdirty⟩ := herr journalLineDirty 0x1040000000 ⟨0, 0x41000000, List.replicate 64 0, true⟩ (by decide)
  obtain ⟨t, ht, -, -, -, hout, -⟩ := hdirty rfl rfl 0
  obtain ⟨u, hu, hlen⟩ := out_cacheUe_journalLineDirty
  have htu : t = u := Host.Outcome.next.inj (ht.symm.trans hu)
  rw [← htu, hout] at hlen
  exact absurd hlen (by decide)

end Sys2Proof.Machine
end

section
/-! Islands, the power loop, and the ways out of WAKING, DRAINING and DESTAGING (R11, R13, R29, R33, R36, R38, R55, R310): the obligation
O32. -/

open Sys2Proof

namespace Sys2Proof.Machine

/-! Accesses that time out -/

theorem exec_islandRegate_of {s : State} {i : Island} (hc : s.clocked i = false) (hg : i ∉ s.sys.gated) :
    exec (.islandRegate i) s = .next { s with sys := { s.sys with gated := i :: s.sys.gated } } := by
  rw [exec_islandRegate, execIslandRegate, if_neg]
  simp [hc, hg]

/-- The oldest access that waits has timed out (R13). -/
def timedOut (s : State) : State := event Reg.SYS_EVENT_RESET_TIMEOUT Reg.SYS_RESET_TIMEOUT_CNT s

theorem exec_resetAccessTimeout_of {s : State} {off : Nat} {c : Instr} {rest : List (Nat × Instr)} (hw : s.waiting = (off, c) :: rest)
    (hcore : ∀ core k a size v evict i, c ≠ .coreAccess core k a size v evict i) (hdma : ∀ ch h f l, c ≠ .dmaDescriptor ch h f l) :
    exec .resetAccessTimeout s = .next { timedOut s with waiting := rest } := by
  rw [exec_resetAccessTimeout, execResetAccessTimeout, hw]
  simp only []
  rfl

theorem timedOut_fields (rest : List (Nat × Instr)) (s : State) {t : State} (ht : t = { timedOut s with waiting := rest }) :
    t.waiting = rest ∧ t.get Reg.SYS_EVENT_RESET_TIMEOUT = 1
    ∧ t.get Reg.SYS_RESET_TIMEOUT_CNT = (s.get Reg.SYS_RESET_TIMEOUT_CNT + 1) % 2 ^ 32
    ∧ Keeps [Reg.SYS_EVENT_RESET_TIMEOUT, Reg.SYS_RESET_TIMEOUT_CNT] s t := by
  rw [ht]
  refine ⟨rfl, (get_of_regs _ rfl).trans (get_event_flag _ _ _ (by decide) (by decide)),
    (get_of_regs _ rfl).trans (get_event_cnt _ _ _ (by decide)), ?_⟩
  exact .of_eq (t := timedOut s) (by simp [timedOut]) rfl rfl

/-! The loop -/

/-- The parts that records stored in MRAM change. -/
@[reducible] def recordMask (s : State) : State := { s with regs := [], mem := [], rpr := { s.rpr with owed := [], owedRows := [] }, cmd := {}, hif := {}, out := [] }

theorem within_recordBytes (a : Nat) (l : List Nat) (s : State) : Within outerKey recordMask s (writeBytes a l s) := by
  induction l generalizing a s with
  | nil => exact .refl _ _ _
  | cons b l ih => exact (Within.own (by rfl) (by rfl)).trans (ih (a + 1) (writeByte a (BitVec.ofNat 8 b) s))

theorem within_writeTable (n : Nat) (rows : List RepairRow) (s : State) : Within outerKey recordMask s (writeTable n rows s) :=
  within_recordBytes _ _ _

theorem within_listRows (es : List RepairRow) (s : State) : Within outerKey recordMask s (listRows es s) := by
  unfold listRows
  split
  · exact .refl _ _ _
  · exact within_writeTable _ _ _

theorem within_recordTold (c : Nat) (d : List Nat) (s : State) : Within outerKey recordMask s (hostEvent 1 (logPlain c d s)) :=
  (Within.own (by rfl) (by rfl)).trans ((within_hostEvent 1 _).mono id fun _ => rfl)

theorem within_storeRecord (r : RepRec) (s : State) : Within outerKey recordMask s (storeRecord r s) := by
  unfold storeRecord
  exact ((within_recordBytes _ _ s).trans (within_writeTable _ _ _)).trans (within_recordTold _ _ _)

theorem within_storeOwed (s : State) : Within outerKey recordMask s (storeOwed s) := by
  unfold storeOwed
  split_ifs
  · exact .forEach ((Within.own (by rfl) (by rfl)).trans (within_listRows _ _)) fun r _ => within_storeRecord r
  · exact .refl _ _ _

theorem sys_writeShedOk (s : State) : (writeShedOk s).sys = s.sys := by
  have hw : Within (fun _ => True) (fun t => { t with regs := [] }) s (writeShedOk s) :=
    .forEach (.refl _ _ s) fun n _ t => .setF (.refl _ _ _) _ trivial (by rfl)
  exact hw.view State.sys fun _ => rfl

theorem get_writeShedOk {f : Field} (hf : 0xC0000 * 32 ≤ f.key) (s : State) : (writeShedOk s).get f = s.get f := by
  refine get_forEach_of_mem (fun n hn t => get_setF_ne _ _ _ _ ?_) s
  have hlt : n < 108 := List.mem_range.mp hn
  simp only [Field.key, Reg.SLT_CTRL_SHED_OK] at hf ⊢
  omega

/-- The loop's evaluation up to the shortfall. -/
def drawMeasured (p : Nat) (s : State) : State :=
  coverShortfall (setF Reg.PWR_DRAW_P_MOD_DW p { s with sys := { s.sys with loopDue := false } })

/-- Health and the ceiling. -/
def healthTold (s : State) : State := writeHealth (updateCeiling s)

/-- What the loop stores and allows. -/
def loopStored (s : State) : State := writeShedOk (storeOwed (when s.bat.storeDue storeLcap s))

theorem execLoopEvaluation_eq (p : Nat) (s : State) :
    execLoopEvaluation p s = .next (after (demandWriteback (loopStored (healthTold (drawMeasured p s))))) := rfl

theorem healthTold_parts (s : State) : (healthTold s).get Reg.PWR_DRAW_P_MOD_DW = s.get Reg.PWR_DRAW_P_MOD_DW ∧ (healthTold s).sys = s.sys :=
  ⟨((within_writeHealth _).get (by decide)).trans ((within_healthCeiling s).get (by decide)),
    ((within_writeHealth _).view State.sys fun _ => rfl).trans ((within_healthCeiling s).view State.sys fun _ => rfl)⟩

theorem loopStored_parts (s : State) : (loopStored s).get Reg.PWR_DRAW_P_MOD_DW = s.get Reg.PWR_DRAW_P_MOD_DW ∧ (loopStored s).sys = s.sys := by
  have hcap : Within learnKey learnMask s (when s.bat.storeDue storeLcap s) := .when (.refl _ _ _) (within_storeLcap s)
  constructor
  · rw [loopStored, get_writeShedOk (by decide), (within_storeOwed _).get (by decide), hcap.get (by decide)]
  · rw [loopStored, sys_writeShedOk, (within_storeOwed _).view State.sys fun _ => rfl, hcap.view State.sys fun _ => rfl]

theorem demandWriteback_parts (s : State) :
    (demandWriteback s).get Reg.PWR_DRAW_P_MOD_DW = s.get Reg.PWR_DRAW_P_MOD_DW ∧ (demandWriteback s).sys = s.sys := by
  unfold demandWriteback
  split_ifs
  · exact ⟨get_of_regs _ rfl, rfl⟩
  · exact ⟨rfl, rfl⟩

theorem coverShortfall_of_none {s : State} (h : s.spinning = 0) : coverShortfall s = { s with sys := { s.sys with shortfall := 0 } } :=
  if_pos (by omega)

theorem spinning_congr {s t : State} (h : ∀ n, t.awake n = s.awake n) (hs : ∀ n, t.on (Reg.SLT_STATUS_SURGING n) = s.on (Reg.SLT_STATUS_SURGING n)) :
    t.spinning = s.spinning := by
  simp only [State.spinning, h, hs]

theorem loopEvaluation_fields {p : Nat} {s : State} (h : s.spinning = 0) {t : State}
    (ht : t = demandWriteback (loopStored (healthTold (drawMeasured p s)))) :
    t.get Reg.PWR_DRAW_P_MOD_DW = p % 2 ^ Reg.PWR_DRAW_P_MOD_DW.width ∧ t.sys.shortfall = 0 := by
  obtain ⟨hg, hs⟩ := demandWriteback_parts (loopStored (healthTold (drawMeasured p s)))
  obtain ⟨hg1, hs1⟩ := loopStored_parts (healthTold (drawMeasured p s))
  obtain ⟨hg2, hs2⟩ := healthTold_parts (drawMeasured p s)
  have hspin : (setF Reg.PWR_DRAW_P_MOD_DW p { s with sys := { s.sys with loopDue := false } }).spinning = 0 := by
    refine (spinning_congr (s := s) (fun n => ?_) fun n => ?_).trans h <;>
      refine congrArg (· != 0) ((get_setF_ne _ _ _ _ ?_).trans (get_of_regs _ rfl))
    · simp only [Field.key, Reg.PWR_DRAW_P_MOD_DW, Reg.SAS_SLOT_CTRL_AWAKE]; omega
    · simp only [Field.key, Reg.PWR_DRAW_P_MOD_DW, Reg.SLT_STATUS_SURGING]; omega
  have hdraw : drawMeasured p s = _ := coverShortfall_of_none hspin
  rw [ht, hg, hg1, hg2, hs, hs1, hs2, hdraw]
  exact ⟨(get_of_regs _ rfl).trans (get_setF_self _ _ _), rfl⟩

/-! Drives spun down -/

theorem get_awake_sendStop (n k : Nat) (s : State) : (sendStop n s).get (Reg.SAS_SLOT_CTRL_AWAKE k) = s.get (Reg.SAS_SLOT_CTRL_AWAKE k) := by
  unfold sendStop
  split_ifs
  · exact get_of_regs _ rfl
  · rfl

theorem get_awake_spinDown (n k : Nat) (s : State) :
    (spinDown n s).get (Reg.SAS_SLOT_CTRL_AWAKE k)
      = (setF (Reg.SLT_CTRL_SPIN n) 0 (setF (Reg.SAS_SLOT_CTRL_AWAKE n) 0 s)).get (Reg.SAS_SLOT_CTRL_AWAKE k) :=
  (get_awake_sendStop n k _).trans ((get_of_regs _ rfl).trans (writeSpin_get n false _ _))

theorem awake_spinDown_self {n : Nat} (hn : n < 108) (s : State) : (spinDown n s).awake n = false := by
  refine on_eq_false ?_
  rw [get_awake_spinDown, get_setF_ne _ _ _ _ (by simp only [Field.key, Reg.SLT_CTRL_SPIN, Reg.SAS_SLOT_CTRL_AWAKE]; omega), get_setF_zero]

/-- A drive that does not spin is not set to spin by another's end. -/
theorem awake_spinDown_of_off {n k : Nat} (hn : n < 108) (hk : k < 108) {s : State} (h : s.awake k = false) : (spinDown n s).awake k = false := by
  rcases eq_or_ne n k with rfl | hne
  · exact awake_spinDown_self hn s
  · refine on_eq_false ?_
    rw [get_awake_spinDown, get_setF_ne _ _ _ _ (by simp only [Field.key, Reg.SLT_CTRL_SPIN, Reg.SAS_SLOT_CTRL_AWAKE]; omega),
      get_setF_ne _ _ _ _ (by simp only [Field.key, Reg.SAS_SLOT_CTRL_AWAKE]; omega)]
    exact get_eq_zero_of_off h

theorem mem_insertBy {α : Type} {le : α → α → Bool} {x y : α} {l : List α} (h : y ∈ insertBy le x l) : y = x ∨ y ∈ l := by
  induction l with
  | nil => exact .inl (List.mem_singleton.mp h)
  | cons z l ih =>
    unfold insertBy at h
    split at h
    · exact List.mem_cons.mp h
    · rcases List.mem_cons.mp h with rfl | h
      · exact .inr (.head _)
      · exact (ih h).imp id (.tail _)

theorem mem_sortBy {α : Type} {le : α → α → Bool} {y : α} {l : List α} (h : y ∈ sortBy le l) : y ∈ l := by
  induction l with
  | nil => exact h
  | cons x l ih =>
    rcases mem_insertBy h with rfl | h
    · exact .head _
    · exact .tail _ (ih h)

theorem lt_of_mem_spinDownOrder {s : State} {n k : Nat} (h : n ∈ s.spinDownOrder.take k) : n < 108 :=
  List.mem_range.mp (List.mem_of_mem_filter (mem_sortBy (List.mem_of_mem_take h)))

theorem exec_spinDownExcess_of_short {s : State} (h : s.sys.shortfall ≠ 0) : exec .spinDownExcess s
    = .next (forEach (s.spinDownOrder.take (s.spinning - s.spinAllowance)) spinDown s) := by
  rw [exec_spinDownExcess, execSpinDownExcess, if_neg h]

theorem exec_spinDownExcess_of_none {s : State} (h : s.sys.shortfall = 0) : exec .spinDownExcess s = .next s := by
  rw [exec_spinDownExcess, execSpinDownExcess, if_pos h]

theorem spunDown_awake (s : State) (k : Nat) : ∀ n ∈ s.spinDownOrder.take k, (forEach (s.spinDownOrder.take k) spinDown s).awake n = false :=
  fun _ hn => forEach_of_mem (Q := fun u => u.awake _ = false) hn (awake_spinDown_self (lt_of_mem_spinDownOrder hn))
    (fun _ hm _ hu => awake_spinDown_of_off (lt_of_mem_spinDownOrder hm) (lt_of_mem_spinDownOrder hn) hu) s

/-! Idle, waking and denied -/

theorem exec_idleParkExpiry_of {s : State} (hm : s.mode = Mode.serving) (hf : s.feature 8 0 ≠ 0) (hi : s.allInFlight = 0)
    (ht : s.cmd.testRunning = 0) (hk : ∀ k ∈ List.range 8, s.on (Reg.SAS_RBD_CFG_ENABLE k) = false) :
    exec .idleParkExpiry s = .next (settle { s with sys := { s.sys with parkPending := true } }) := by
  rw [exec_idleParkExpiry, execIdleParkExpiry, if_pos ⟨hm, hf, hi, ht, List.all_eq_true.mpr fun k h => by simp [hk k h]⟩]

theorem exec_enterServing_of {s : State} (hm : s.mode = Mode.waking) (hc : s.get Reg.PWR_STATUS_CONV_STATE = 2)
    (hr : s.on Reg.JNL_CTRL_REPLAY_DONE = true) (ha : s.sys.assembled = true) (hw : ∀ n ∈ s.pwr.wakeSet, s.wakeSettled n = true) :
    exec .enterServing s = .next (commitBatches (settle (finishWake St.success (servingBegun s)))) := by
  rw [exec_enterServing, execEnterServing, if_pos ⟨hm, hc, hr, ha, List.all_eq_true.mpr hw⟩, enterServing_eq]

theorem served_fields (s : State) {t : State} (ht : t = finishWake St.success (servingBegun s)) :
    t.mode = Mode.serving ∧ t.cmd.wakeCmds = [] ∧ ∀ p ∈ t.qmx.cmds, p.2.held = false := by
  rw [ht]
  exact ⟨(mode_finishWake _ _).trans (mode_servingBegun s), wakeCmds_finishWake _ _, fun p hp => held_servingBegun s p (mem_cmds_finishWake hp)⟩

/-- A wake that is denied, with no command that waits for it. -/
def wakeGivenUp (s : State) : State :=
  { s with sys := { s.sys with wakeBudget := none, wakePending := false }, pwr := { s.pwr with wakeSet := [] },
           cmd := { s.cmd with wakeCmds := [] } }

theorem exec_wakeDenied_of {s : State} (hm : s.mode = Mode.parked) (hb : s.sys.wakeBudget.isSome = true) (hc : s.qmx.cmds = [])
    (hw : s.cmd.wakeCmds = []) : exec .wakeDenied s = .next (settle (wakeGivenUp s)) := by
  have hheld : s.cmdsWhere (fun c => c.held && c.e.qid != 0) = [] := by rw [State.cmdsWhere, hc]; rfl
  rw [exec_wakeDenied, execWakeDenied, if_pos ⟨hm, hb⟩, hheld]
  simp only [finishWake, hw]
  rfl

theorem wakeGivenUp_fields (s : State) {t : State} (ht : t = wakeGivenUp s) :
    t.sys.wakeBudget = none ∧ t.sys.wakePending = false ∧ t.pwr.wakeSet = [] ∧ Keeps [] s t := by
  rw [ht]
  exact ⟨rfl, rfl, rfl, keeps_written_iff.mpr (Keeps.refl _ _)⟩

/-! The end of draining -/

/-- PARKED with fans and converter off. -/
def parkedOff (s : State) : State := finishPark St.success (toMode Mode.parked (stopConverter (fanRelease s)))

/-- With it, the holding released. -/
def drained (s : State) : State := takeHolding 0 (askBellwether .tokenRelease [0] (parkedOff s))

theorem exec_drainComplete_of {s : State} (hm : s.mode = Mode.draining) (hc : s.qmx.cmds = []) (hd : s.holdsData = false)
    (hs : ∀ n ∈ allSlots, s.slotOn n = false) : exec .drainComplete s = .next (settle (writeRoot (showImage (drained s)))) := by
  have hany : allSlots.any (fun n => s.slotOn n && !(s.slot n).stopSent && !(s.slot n).stopDue && (s.slot n).offWait == 0) = false :=
    List.any_eq_false.mpr fun n hn => by simp [hs n hn]
  have hon : allSlots.any s.slotOn = false := List.any_eq_false.mpr fun n hn => by simp [hs n hn]
  rw [exec_drainComplete, execDrainComplete, if_pos ⟨hm, by rw [hc]; rfl⟩, hany, hd]
  simp only [Bool.or_self, Bool.false_eq_true, if_false, hon]
  rfl

theorem view_forEach {α β : Type} {l : List β} {g : β → State → State} (v : State → α) (h : ∀ x t, v (g x t) = v t) (s : State) :
    v (forEach l g s) = v s := by
  unfold Machine.forEach
  induction l generalizing s with
  | nil => rfl
  | cons x l ih => exact (ih (g x s)).trans (h x s)

theorem wakeBudget_fanSettleAll (s : State) : (fanSettleAll s).sys.wakeBudget = s.sys.wakeBudget := by
  refine view_forEach (fun t => t.sys.wakeBudget) (fun c t => ?_) s
  have hstart (u : State) : (fanStart c u).sys.wakeBudget = u.sys.wakeBudget := when_of_eq _ (fun t => t.sys.wakeBudget) rfl
  unfold fanSettle
  simp only []
  split_ifs
  · rfl
  · rfl
  · exact hstart _
  · rfl
  · rfl
  · rfl

theorem wakeBudget_fanRelease (s : State) : (fanRelease s).sys.wakeBudget = s.sys.wakeBudget := by
  unfold fanRelease
  split_ifs
  · exact wakeBudget_fanSettleAll _
  · rfl

theorem wakeBudget_toMode (m : Nat) (s : State) : (toMode m s).sys.wakeBudget = s.sys.wakeBudget := by
  have henter (t : State) : (enterMode m t).sys.wakeBudget = t.sys.wakeBudget := by
    unfold enterMode
    split_ifs
    · rfl
    · exact when_of_eq _ (fun t => t.sys.wakeBudget) rfl
  refine (when_of_eq _ (fun t => t.sys.wakeBudget) ((within_parkPorts _).view (fun t => t.sys.wakeBudget) fun _ => rfl)).trans ?_
  exact (henter _).trans (view_modeTold (fun t => t.sys.wakeBudget) (fun m s => by rw [(testOnMode_parts m s).2]) (fun _ => rfl) m s)

theorem wakeBudget_parkedOff (s : State) : (parkedOff s).sys.wakeBudget = s.sys.wakeBudget := by
  have hstop (t : State) : (stopConverter t).sys.wakeBudget = t.sys.wakeBudget := by
    rw [stopConverter, wakeBudget_fanSettleAll]
    rfl
  have hfinish (t : State) : (finishPark St.success t).sys.wakeBudget = t.sys.wakeBudget :=
    (within_finishPark _ t).view (fun t => t.sys.wakeBudget) fun _ => rfl
  rw [parkedOff, hfinish, wakeBudget_toMode, hstop, wakeBudget_fanRelease]

/-- What a holding that no wake waits for may change. -/
@[reducible] def holdingKey (k : Nat) : Prop := outerKey k ∨ k = Reg.PWR_BUDGET_GRANT_W.key ∨ k = Reg.FOV_MIR_TX_CNT.key

@[reducible] def holdingMask (s : State) : State :=
  { s with regs := [], sys := {}, hif := {}, out := [], fov := { s.fov with ordSeq := 0, othSeq := 0 } }

theorem holds_sendMir (k : MirKind) (args : List Nat) (t : State) : Within holdingKey holdingMask t (sendMir k args t) := by
  have hpass : Within holdingKey holdingMask t (passStream k t) := by
    unfold passStream
    split_ifs <;> exact .own rfl rfl
  unfold sendMir
  split_ifs
  · exact .bump (hpass.parts (by rfl) (by rfl)) (.inr (.inr rfl)) (by rfl)
  · exact .refl _ _ _

theorem within_takeHolding_of_none {w : Nat} {s : State} (hb : s.sys.wakeBudget = none) : Within holdingKey holdingMask s (takeHolding w s) := by
  have htold : Within holdingKey holdingMask s (holdingTold w s) :=
    (((Within.refl holdingKey _ s).setF w (.inr (.inl rfl)) (by rfl)).parts (by rfl) (by rfl)).trans
      ((within_hostEvent 5 _).mono .inl fun _ => rfl)
  have hnone : (shortfallEnded (holdingSent w (holdingTold w s))).sys.wakeBudget = none := by
    have hend (u : State) : (shortfallEnded u).sys.wakeBudget = u.sys.wakeBudget := rfl
    have hsent (u : State) : (holdingSent w u).sys.wakeBudget = u.sys.wakeBudget := by
      unfold holdingSent
      exact when_of_eq _ (fun t => t.sys.wakeBudget) (by rw [(fab_sendMir _ _ _).2])
    have htoldb (u : State) : (hostEvent 5 u).sys.wakeBudget = u.sys.wakeBudget := (within_hostEvent 5 u).view (fun t => t.sys.wakeBudget) fun _ => rfl
    rw [hend, hsent, holdingTold, htoldb]
    exact hb
  rw [takeHolding_eq, wakeGoesOn, hnone]
  exact (htold.when (holds_sendMir _ _ _)).parts (by rfl) (by rfl)

theorem parkCmds_finishPark (st : Nat) (s : State) : (finishPark st s).cmd.parkCmds = [] :=
  ((within_finishAll _ _ _ _).view (fun u => u.cmd.parkCmds) fun _ => rfl).trans rfl

theorem drained_fields {s : State} (hb : s.sys.wakeBudget = none) {t : State} (ht : t = drained s) :
    t.mode = Mode.parked ∧ t.on Reg.FAN_TOKEN_HELD = false ∧ t.get Reg.PWR_STATUS_CONV_STATE = 0 ∧ t.get Reg.PWR_BUDGET_GRANT_W = 0
    ∧ t.cmd.parkCmds = [] := by
  have hask := within_askBellwether .tokenRelease [0] (parkedOff s)
  have hnone : (askBellwether .tokenRelease [0] (parkedOff s)).sys.wakeBudget = none :=
    (hask.view (fun t => t.sys.wakeBudget) fun _ => rfl).trans ((wakeBudget_parkedOff s).trans hb)
  have hhold := within_takeHolding_of_none (w := 0) hnone
  have hget {f : Field} (hf : ¬ holdingKey f.key) : t.get f = (toMode Mode.parked (stopConverter (fanRelease s))).get f := by
    rw [ht, drained, hhold.get hf, hask.get fun h => hf (.inl h), parkedOff, (within_finishPark _ _).get fun h => hf (.inl h)]
  refine ⟨(hget (by decide)).trans (mode_toMode (by decide) _), ?_, ?_, ?_, ?_⟩
  · have hheld := held_fanRelease s
    rw [State.on, hget (by decide), (within_toMode _ _).get (by decide), stopConverter, (within_fanSettleAll _).get (by decide),
      get_setF_ne _ _ _ _ (by decide), get_setF_ne _ _ _ _ (by decide), get_setF_ne _ _ _ _ (by decide)]
    exact hheld
  · rw [hget (by decide), (within_toMode _ _).get (by decide), stopConverter, (within_fanSettleAll _).get (by decide),
      get_setF_ne _ _ _ _ (by decide), get_setF_zero]
  · rw [ht, drained, (takeHolding_fields 0 _).1, Nat.zero_mod]
  · have hasked (u : State) : (askBellwether .tokenRelease [0] u).cmd.parkCmds = u.cmd.parkCmds :=
      (within_askBellwether _ _ u).view (fun t => t.cmd.parkCmds) fun _ => rfl
    have hheld {u : State} (hu : u.sys.wakeBudget = none) : (takeHolding 0 u).cmd.parkCmds = u.cmd.parkCmds :=
      (within_takeHolding_of_none hu).view (fun t => t.cmd.parkCmds) fun _ => rfl
    rw [ht, drained, hheld hnone, hasked, parkedOff, parkCmds_finishPark]

/-! The end of destaging -/

theorem find_sealed {a : Nat} {l : List (Nat × Image)} {i : Image}
    (h : Assoc.find (l.map fun p => if p.1 = a then (p.1, { p.2 with sealed := true }) else p) a = some i) : i.sealed = true := by
  induction l with
  | nil => cases h
  | cons p l ih =>
    by_cases hp : p.1 = a
    · rw [List.map_cons, if_pos hp, Assoc.find, if_pos hp] at h
      cases h
      rfl
    · rw [List.map_cons, if_neg hp, Assoc.find, if_neg hp] at h
      exact ih h

theorem sealImage_fields {s : State} {a : Nat} {i : Image} (ha : s.jnl.imageArea = some a)
    (hi : Assoc.find (sealImage s).jnl.images a = some i) : i.sealed = true := by
  rw [sealImage, ha] at hi
  exact find_sealed hi

theorem view_sealImage {α : Type} (v : State → α) (hv : ∀ (s : State) j, v { s with jnl := j } = v s) (s : State) : v (sealImage s) = v s := by
  unfold sealImage
  split
  · rfl
  · exact hv s _

theorem exec_destageComplete_of_dark {s : State} (hm : s.mode = Mode.destaging) (hp : s.on Reg.PWR_STATUS_MAINS_OK = false) :
    exec .destageComplete s = .next { sealImage s with sys := { (sealImage s).sys with powered := false } } := by
  rw [exec_destageComplete, execDestageComplete, if_pos hm]
  simp only [hp, Bool.false_eq_true, if_false]

theorem exec_destageComplete_of_mains {s : State} (hm : s.mode = Mode.destaging) (hp : s.on Reg.PWR_STATUS_MAINS_OK = true) :
    exec .destageComplete s = .next (warmly 4 false (sealImage s)) := by
  rw [exec_destageComplete, execDestageComplete, if_pos hm]
  simp only [hp, if_true]

theorem images_warmly_false {src : Nat} {s : State} (h : s.bootable) : (warmly src false s).jnl.images = s.jnl.images := by
  have hboot : (resetWarm src false s).bootable :=
    bootable_congr (images_resetWarm src false s) (get_resetWarm_ne (by decide) (by decide) (by decide) (by decide)) h
  rw [warmly, view_boot (fun t => t.jnl.images) (fun _ _ => rfl) hboot, view_resetWarm (fun t => t.jnl.images) fun _ => rfl]
  show (warmEnded false s).jnl.images = s.jnl.images
  rw [warmEnded, view_endTest (fun t => t.jnl.images) fun _ _ => rfl, (aborts_abortMembers _).view (fun t => t.jnl.images) fun _ => rfl]
  rfl

/-! Assembly -/

/-- The drives that were found are assembled. -/
def assembledFrom (found : List FoundDrive) (s : State) : State :=
  let arrays := byIndex (foundArrays found)
  let ok := arrays.filter (fun f => s.unassembled f == 0 && decide (f.index < 4))
  forEach arrays (fun f t =>
    if s.unassembled f ≠ 0 then (if s.unassembled f = 1 then t else logUnassembled f (s.unassembled f) t)
    else if 4 ≤ f.index ∨ t.on (Reg.STP_ARRAY_CFG_VALID f.index) = true
        ∨ s.keepsIndex f (ok.filter (fun r => r.index == f.index && r.uuid != f.uuid)) = false then
      logUnassembled f 0 t
    else assemble f t) s

/-- The record of it, and the drives that are to wake. -/
def assemblyNoted (s : State) : State :=
  let s2 : State := { s with sys := { s.sys with assembled := true } }
  { s2 with pwr := { s2.pwr with wakeSet := s2.wakeSetNow } }

/-- The drives that are to wake are asked for. -/
def wakersAsked (s : State) : State :=
  if s.mode = Mode.waking ∧ s.get Reg.PWR_STATUS_CONV_STATE = 2 then
    forEach (s.pwr.wakeSet.filter (fun n => !s.awake n && !s.on (Reg.SLT_CTRL_SPIN n))) requestSlot s else s

theorem exec_arrayAssembly_of {found : List FoundDrive} {s : State} (hm : s.mode = Mode.takeover) (ha : s.sys.assembled = false) :
    exec (.arrayAssembly found) s = .next (settle (wakersAsked (assemblyNoted (assembledFrom found s)))) := by
  have hin : (s.modeIn [Mode.waking, Mode.takeover] && !s.sys.assembled) = true := by rw [State.modeIn, hm, ha]; rfl
  rw [exec_arrayAssembly, execArrayAssembly, if_pos hin]
  rfl

theorem sys_requestSlot (n : Nat) (s : State) : (requestSlot n s).sys = s.sys := by
  have hsend (t : State) : (sendSlotState t).sys = t.sys := by
    unfold sendSlotState
    split_ifs
    · exact (fab_sendMir _ _ _).2
    · rfl
  have hopen (m r : Nat) (t : State) : (openRails m r t).sys = t.sys := by
    have hdrop (u : State) : (dropAwake m u).sys = u.sys := when_of_eq _ State.sys rfl
    refine (hdrop _).trans ((when_of_eq _ State.sys rfl).trans (when_of_eq _ State.sys rfl))
  have hoff (m r : Nat) (t : State) : (powerOff m r t).sys = t.sys := by
    unfold powerOff
    split_ifs
    · exact hsend t
    · exact hopen m r t
  show (writeEnables n true true s).sys = s.sys
  unfold writeEnables
  simp only []
  split
  · rfl
  · exact hoff _ _ _

theorem assembled_fields (found : List FoundDrive) {s : State} (hm : s.mode = Mode.takeover) {t : State}
    (ht : t = wakersAsked (assemblyNoted (assembledFrom found s))) : t.sys.assembled = true ∧ (found = [] → Keeps [] s t) := by
  rw [ht]
  constructor
  · unfold wakersAsked
    split
    · exact (view_forEach (fun t => t.sys.assembled) (fun n t => by rw [sys_requestSlot]) _).trans rfl
    · rfl
  · rintro rfl
    have hsame : assembledFrom [] s = s := rfl
    have hmode : (assemblyNoted s).mode = Mode.takeover := (get_of_regs _ rfl).trans hm
    rw [hsame, wakersAsked, if_neg (by rw [hmode]; exact fun h => absurd h.1 (by decide))]
    exact .of_eq (t := s) (Keeps.refl _ _) rfl rfl

/-- Settles O32: each way out leaves what the shared work of the modes, the levels and the slots leaves. -/
theorem powerLoopComplete : Obligations.PowerLoopComplete := by
  unfold Obligations.PowerLoopComplete
  refine ⟨fun s i hc hg => ?regate, fun s off c rest hw hcore hdma => ?timeout, fun s off a size v core k evict i rest hw => ?core,
    fun s p hs => ?loop, fun s h => ?noExcess, fun s h => ?excess, fun s hm hf hi ht hk => ?idle, fun s hm hc hr ha hw => ?serving,
    fun s hm hb hc hw => ?denied, fun s hm hc hd hs hb => ?drain, fun s hm hp => ?dark, fun s hm hp hi => ?mains,
    fun s found hm ha => ?assembly⟩
  case regate => exact .of_next (exec_islandRegate_of hc hg) ⟨rfl, keeps_written_iff.mpr (Keeps.refl _ _)⟩
  case timeout => exact .of_next (exec_resetAccessTimeout_of hw hcore hdma) (timedOut_fields rest s rfl)
  case core =>
    rw [exec_resetAccessTimeout, execResetAccessTimeout, hw]
  case loop => exact .of_next (g := after) ((exec_loopEvaluation s).trans (execLoopEvaluation_eq p s)) (loopEvaluation_fields hs rfl)
  case noExcess => exact .of_next (exec_spinDownExcess_of_none h) rfl
  case excess => exact .of_next (exec_spinDownExcess_of_short h) (spunDown_awake s _)
  case idle => exact .of_next (g := settle) (exec_idleParkExpiry_of hm hf hi ht hk) ⟨rfl, keeps_written_iff.mpr (Keeps.refl _ _)⟩
  case serving => exact .of_next (g := fun t => commitBatches (settle t)) (exec_enterServing_of hm hc hr ha hw) (served_fields s rfl)
  case denied => exact .of_next (g := settle) (exec_wakeDenied_of hm hb hc hw) (wakeGivenUp_fields s rfl)
  case drain =>
    exact .of_next (g := fun t => settle (writeRoot (showImage t))) (exec_drainComplete_of hm hc hd hs) (drained_fields hb rfl)
  case dark =>
    refine .of_next (exec_destageComplete_of_dark hm hp) ⟨rfl, fun a i ha hi => sealImage_fields ha hi, ?_⟩
    exact .of_eq (t := s) (Keeps.refl _ _) (view_sealImage State.regs (fun _ _ => rfl) s) (view_sealImage State.mem (fun _ _ => rfl) s)
  case mains =>
    have hboot : (sealImage s).bootable :=
      bootable_congr (s := s) (view_sealImage (fun t => t.sys.images) (fun _ _ => rfl) s)
        (view_sealImage (State.get · Reg.SYS_BOOT_NEXT_SLOT) (fun _ _ => get_of_regs _ rfl) s) hi
    obtain ⟨hkind, hsrc, -⟩ := warmly_fields (src := 4) (by decide) false hboot
    refine .of_next (exec_destageComplete_of_mains hm hp) ⟨hkind, hsrc, fun a i ha hf => ?_⟩
    rw [images_warmly_false hboot] at hf
    exact sealImage_fields ha hf
  case assembly => exact .of_next (g := settle) (exec_arrayAssembly_of hm ha) (assembled_fields found hm rfl)

end Sys2Proof.Machine
end

section
/-! How a command of the host that may run comes to run (R207, R220, R222): its checks change nothing, and its effect follows. -/

open Sys2Proof

namespace Sys2Proof.Machine

/-- The first element of a weaker test that passes a stronger one is the first of the stronger. -/
theorem find?_of_weaker {α : Type} {p q : α → Bool} {l : List α} {a : α} (hpq : ∀ x, q x = true → p x = true) (h : l.find? p = some a)
    (ha : q a = true) : l.find? q = some a := by
  induction l with
  | nil => cases h
  | cons x l ih =>
    by_cases hx : p x = true
    · rw [List.find?_cons_of_pos hx] at h
      cases h
      exact List.find?_cons_of_pos ha
    · rw [List.find?_cons_of_neg hx] at h
      rw [List.find?_cons_of_neg fun hq => hx (hpq x hq), ih h]

/-- What a command that may run has passed. -/
structure MayRun (s : State) (n : Nat) (c : Cmd) : Prop where
  first : s.qmx.cmds.find? (fun x => x.2.e.qid == c.e.qid && x.2.e.cid == c.e.cid && !x.2.begun) = some (n, c)
  found : s.cmd? n = some c
  opcode : opcodeOk c.e = true
  treated : s.treats c = 0
  may : s.mayBegin n c = true
  checked : if c.e.qid = 0 then s.sys.firmwareUp = true else s.ioCheck c.e = none

theorem mayRun_iff {s : State} {n : Nat} {c : Cmd} (h : s.mayRun n c = true) : MayRun s n c := by
  simp only [State.mayRun, Bool.and_eq_true, beq_iff_eq] at h
  obtain ⟨⟨⟨⟨⟨hfirst, hfound⟩, hop⟩, htreat⟩, hmay⟩, hcheck⟩ := h
  refine ⟨hfirst, hfound, hop, htreat, hmay, ?_⟩
  split_ifs at hcheck ⊢
  · exact hcheck
  · exact Option.isNone_iff_eq_none.mp hcheck

namespace MayRun
variable {s : State} {n : Nat} {c : Cmd} (h : MayRun s n c)
include h

theorem not_begun : c.begun = false := by
  have := List.find?_some h.first
  simp only [Bool.and_eq_true, Bool.not_eq_true'] at this
  exact this.2

theorem not_held : c.held = false := by
  have := h.may
  simp only [State.mayBegin, Bool.and_eq_true, Bool.not_eq_true'] at this
  exact this.1.1

theorem not_fenced : s.fenced c = false := by
  have := h.may
  simp only [State.mayBegin, Bool.and_eq_true, Bool.not_eq_true'] at this
  exact this.1.2

/-- Its checks change nothing. -/
theorem screen_eq : screen n s = s := by
  have hcheck := h.checked
  unfold screen
  rw [h.found]
  simp only [h.not_begun, h.not_held, h.not_fenced, h.opcode, h.treated, Bool.or_self, Bool.false_eq_true, if_false, Bool.not_true,
    Nat.zero_ne_one, OfNat.zero_ne_ofNat, or_self]
  by_cases hq : c.e.qid = 0
  · rw [if_pos hq]
  · rw [if_neg hq] at hcheck ⊢
    rw [hcheck]

theorem run_eq (k : Nat → Cmd → State → State) : run n k s = k n c s := by
  simp only [run, h.screen_eq, h.found, h.may, if_true]

theorem waitingCmd_eq {p : Cmd → Bool} (hp : p c = true) : s.waitingCmd c.e.qid c.e.cid p = some n := by
  have hfind := find?_of_weaker (q := fun x => x.2.e.qid == c.e.qid && x.2.e.cid == c.e.cid && !x.2.begun && p x.2)
    (fun x hx => by simp only [Bool.and_eq_true] at hx ⊢; exact hx.1) h.first (by simp [h.not_begun, hp])
  rw [State.waitingCmd, hfind]
  rfl

/-- An I/O command has its effect. -/
theorem runIo_eq (hq : c.e.qid ≠ 0) {op : Nat} (ho : c.e.opcode = op) (k : Nat → Cmd → State → State) :
    runIo c.e.qid c.e.cid op k s = .next (after (k n c s)) := by
  rw [runIo, h.waitingCmd_eq (by simp [hq, ho])]
  simp only [h.run_eq]

/-- So has an admin command. -/
theorem runAdmin_eq (hq : c.e.qid = 0) {op : AdminOp} (ho : adminOf c.e = some op) {p : Entry → Bool} (hp : p c.e = true)
    (k : Nat → Cmd → State → State) : runAdmin c.e.cid op p k s = .next (after (k n c s)) := by
  have hup : s.sys.firmwareUp = true := by simpa [hq] using h.checked
  have hwait := h.waitingCmd_eq (p := fun x => decide (adminOf x.e = some op) && p x.e) (by simp [ho, hp])
  rw [hq] at hwait
  rw [runAdmin, hwait]
  simp only [hup, Bool.not_true, Bool.false_eq_true, if_false, h.run_eq]

end MayRun

/-! A command's own record -/

theorem onCmd_of_found {s : State} {n : Nat} {c : Cmd} (h : s.cmd? n = some c) (f : Cmd → Cmd) :
    onCmd n f s = { s with qmx := { s.qmx with cmds := Assoc.set s.qmx.cmds n (f c) } } := by rw [onCmd, h]

theorem cmd?_onCmd_self {s : State} {n : Nat} {c : Cmd} (h : s.cmd? n = some c) (f : Cmd → Cmd) : (onCmd n f s).cmd? n = some (f c) := by
  rw [onCmd_of_found h]
  show Assoc.find (Assoc.set s.qmx.cmds n (f c)) n = some (f c)
  rw [Assoc.find_set, if_pos rfl]

/-- A command's record is no register and no part but the queues'. -/
theorem onCmd_view {α : Type} (v : State → α) (hv : ∀ (s : State) q, v { s with qmx := q } = v s) (n : Nat) (f : Cmd → Cmd) (s : State) :
    v (onCmd n f s) = v s := by
  unfold onCmd
  split
  · rfl
  · exact hv s _

theorem keeps_onCmd_iff {fs : List Field} {s t : State} {n : Nat} {f : Cmd → Cmd} : Keeps fs s (onCmd n f t) ↔ Keeps fs s t :=
  keeps_congr (onCmd_view State.regs (fun _ _ => rfl) n f t) (onCmd_view State.mem (fun _ _ => rfl) n f t)

end Sys2Proof.Machine
end

section
/-! The I/O commands and ABORT (R263, R264): the obligation O33. -/

open Sys2Proof

namespace Sys2Proof.Machine

/-! Begun -/

/-- A command begins; its own record alone changes. -/
def begins (n : Nat) (s : State) : State := onCmd n (fun x => { x with begun := true }) s

theorem begins_fields {s : State} {n : Nat} {c : Cmd} (h : s.cmd? n = some c) :
    (begins n s).cmd? n = some { c with begun := true } ∧ Keeps [] s (begins n s) :=
  ⟨cmd?_onCmd_self h _, keeps_onCmd_iff.mpr (Keeps.refl _ _)⟩

section Io
variable {s : State} {n : Nat} {c : Cmd} (h : MayRun s n c) (hq : c.e.qid ≠ 0)
include h hq

theorem exec_read_of (ho : c.e.opcode = 0x20) : exec (.read c.e.qid c.e.cid) s = .next (after (splitPieces n (begins n s))) :=
  (exec_read s).trans (h.runIo_eq hq ho _)

theorem exec_write_of (ho : c.e.opcode = 0x21) (hv : s.volHeld c.e.vol = false) :
    exec (.write c.e.qid c.e.cid) s = .next (after (begins n s)) := by
  refine (exec_write s).trans ((h.runIo_eq hq ho _).trans ?_)
  rw [if_neg (by simp [hv]), begins]

/-- Without PARITY no row is verified. -/
theorem exec_verify_of (ho : c.e.opcode = 0x22) (hp : bitOf c.e.options 0 = 0) (l : List (Nat × RowReads)) :
    exec (.verify c.e.qid c.e.cid l) s = .next (after (splitPieces n (onCmd n (fun x => { x with begun := true, result := 0 }) s))) := by
  have hnone : l.filter (fun r => ([] : List Nat).contains r.1 && s.confirms (s.volArray c.e.vol) r.1 r.2) = [] :=
    List.filter_eq_nil_iff.mpr fun r _ => by simp
  refine (exec_verify s).trans ((h.runIo_eq hq ho _).trans ?_)
  simp only [hp, Nat.zero_ne_one, false_and, if_false, hnone, List.isEmpty_nil, if_true]
  rfl

theorem exec_flush_of_clean (ho : c.e.opcode = 0x23) (hw : c.owed = []) :
    exec (.flush c.e.qid c.e.cid) s = .next (after (finish n St.success 0 s)) := by
  refine (exec_flush s).trans ((h.runIo_eq hq ho _).trans ?_)
  simp only [hw, List.isEmpty_nil, if_true]

/-- The rows that a FLUSH owes. -/
theorem exec_flush_of_owed (ho : c.e.opcode = 0x23) (hw : c.owed ≠ []) :
    exec (.flush c.e.qid c.e.cid) s = .next (after (demand
      (once (c.owed.map fun o => rowKey (s.volArray c.e.vol) (s.locate c.e.vol (keyLba o.1)).1))
      (onCmd n (fun x => { x with begun := true, level := 0 }) s))) := by
  have hne : c.owed.isEmpty = false := by simpa using hw
  refine (exec_flush s).trans ((h.runIo_eq hq ho _).trans ?_)
  simp only [hne, Bool.false_eq_true, if_false]

end Io

/-- A list as a set joined to another holds the members of both. -/
theorem mem_foldl_addOnce {l m : List Nat} {x : Nat} (h : x ∈ l ∨ x ∈ m) : x ∈ l.foldl addOnce m := by
  induction l generalizing m with
  | nil => exact h.resolve_left (by simp)
  | cons y l ih =>
    refine ih ?_
    rcases h with h | h
    · rcases List.mem_cons.mp h with rfl | h
      · exact .inr (mem_addOnce m _)
      · exact .inl h
    · refine .inr ?_
      unfold addOnce
      split_ifs
      · exact h
      · exact List.mem_append_left _ h

theorem flushOwed_fields {s : State} {n : Nat} {c : Cmd} (h : s.cmd? n = some c) {t : State}
    (ht : t = demand (once (c.owed.map fun o => rowKey (s.volArray c.e.vol) (s.locate c.e.vol (keyLba o.1)).1))
      (onCmd n (fun x => { x with begun := true, level := 0 }) s)) :
    t.cmd? n = some { c with begun := true, level := 0 }
    ∧ (∀ o ∈ c.owed, rowKey (s.volArray c.e.vol) (s.locate c.e.vol (keyLba o.1)).1 ∈ t.jnl.demandRows) ∧ Keeps [] s t := by
  rw [ht]
  refine ⟨cmd?_onCmd_self h _, fun o ho => ?_, ?_⟩
  · refine mem_foldl_addOnce (.inl ?_)
    exact mem_foldl_addOnce (.inl (List.mem_map_of_mem (f := fun o => rowKey (s.volArray c.e.vol) (s.locate c.e.vol (keyLba o.1)).1) ho))
  · exact .of_eq (t := onCmd n _ s) (keeps_onCmd_iff.mpr (Keeps.refl _ _)) rfl rfl

/-! FLUSH's end -/

theorem exec_flushComplete_of {s : State} {q i n : Nat} {c : Cmd} (h : s.cmdOf q i = some (n, c)) (ho : c.e.opcode = 0x23)
    (hb : c.begun = true) (hw : c.owed = []) : exec (.flushComplete q i) s = .next (finish n St.success 0 s) := by
  rw [exec_flushComplete, execFlushComplete, h]
  simp [ho, hb, hw]

/-- A FLUSH owes nothing more: its own flights are gone. -/
def flushForgiven (n : Nat) (s : State) : State := { s with jnl := { s.jnl with flights := s.jnl.flights.filter (fun f => f.cmd != n) } }

theorem exec_flushWakeTimeout_of {s : State} {q i n : Nat} {c : Cmd} (h : s.cmdOf q i = some (n, c)) (ho : c.e.opcode = 0x23)
    (hb : c.begun = true) (hw : c.owed ≠ []) (hq : q ≠ 0) :
    exec (.flushWakeTimeout q i) s = .next (finish n St.budgetDenied 0 (flushForgiven n s)) := by
  have hne : c.owed.isEmpty = false := by simpa using hw
  rw [exec_flushWakeTimeout, execFlushWakeTimeout, h]
  simp only [hq, if_false, hne, ho, hb, Bool.not_false, beq_self_eq_true, Bool.and_true, Bool.true_or, if_true]
  rfl

/-! WRITE_ZEROES -/

section WriteZeroes
variable {s : State} {n : Nat} {c : Cmd} (h : MayRun s n c) (hnext : c.next = 0)
  (hfind : s.qmx.cmds.find? (fun x => x.2.e.qid == c.e.qid && c.e.qid != 0 && x.2.e.cid == c.e.cid && x.2.e.opcode == 0x24 && !x.2.final)
    = some (n, c))
include h hnext hfind

theorem exec_writeZeroes_of_refused (hr : s.writeRefused c.e.vol c.e.slba (c.e.nlbM1 + 1) = true) :
    exec (.writeZeroes c.e.qid c.e.cid) s = .next (after (finish n St.arrayOffline 0 s)) := by
  rw [exec_writeZeroes, execWriteZeroes, hfind]
  simp only [h.screen_eq, h.found, h.may, hnext, hr, Bool.not_true, Bool.false_eq_true, if_false, and_self, if_true]

theorem exec_writeZeroes_of (hr : s.writeRefused c.e.vol c.e.slba (c.e.nlbM1 + 1) = false) :
    exec (.writeZeroes c.e.qid c.e.cid) s = .next (after (commitRow n c.e.vol c.e.slba
      (List.replicate (min (s.toRowEnd c.e.vol c.e.slba) (c.e.nlbM1 + 1)) {}) (bitOf c.e.flags 2 == 1) (begins n s))) := by
  rw [exec_writeZeroes, execWriteZeroes, hfind]
  simp only [h.screen_eq, h.found, h.may, hnext, hr, Bool.not_true, Bool.false_eq_true, if_false, and_false, Nat.add_zero, Nat.sub_zero]
  rfl

end WriteZeroes

/-! ABORT -/

/-- The command that an ABORT names, where it has not begun in the sense of R242. -/
def State.abortable (s : State) (n : Nat) (c : Cmd) : Option (Nat × Cmd) :=
  s.qmx.cmds.find? (fun p => p.1 != n && p.2.e.qid == specField c.e 40 2 && p.2.e.cid == specField c.e 42 2
    && (!s.hasBegun p.1 p.2 || s.cmd.parkCmds.contains p.1 || s.cmd.wakeCmds.contains p.1))

section Abort
variable {s : State} {n : Nat} {c : Cmd} (h : MayRun s n c) (hq : c.e.qid = 0) (ho : adminOf c.e = some .abort)
include h hq ho

theorem exec_abort_of_found {m : Nat} {x : Cmd} (hf : s.abortable n c = some (m, x)) :
    exec (.abort c.e.cid) s = .next (after (finish n St.success 0 (abortCmd m s))) := by
  refine (exec_abort s).trans ((h.runAdmin_eq hq ho rfl _).trans ?_)
  rw [State.abortable] at hf
  simp only [hf]

theorem exec_abort_of_none (hf : s.abortable n c = none) : exec (.abort c.e.cid) s = .next (after (finish n St.success 1 s)) := by
  refine (exec_abort s).trans ((h.runAdmin_eq hq ho rfl _).trans ?_)
  rw [State.abortable] at hf
  simp only [hf]

end Abort

theorem abortable_eq_none {s : State} {n : Nat} {c : Cmd}
    (h : ∀ p ∈ s.qmx.cmds, p.1 ≠ n → p.2.e.qid = specField c.e 40 2 → p.2.e.cid = specField c.e 42 2 →
      s.hasBegun p.1 p.2 = true ∧ p.1 ∉ s.cmd.parkCmds ∧ p.1 ∉ s.cmd.wakeCmds) : s.abortable n c = none := by
  refine List.find?_eq_none.mpr fun p hp hc => ?_
  simp only [Bool.and_eq_true, bne_iff_ne, beq_iff_eq] at hc
  obtain ⟨⟨⟨hn, hqid⟩, hcid⟩, hw⟩ := hc
  obtain ⟨hb, hpark, hwake⟩ := h p hp hn hqid hcid
  simp [hb, hpark, hwake] at hw

/-- Settles O33: the checks of a command that may run change nothing, so its own effect is all that comes before what follows. -/
theorem ioCommandsComplete : Obligations.IoCommandsComplete := by
  unfold Obligations.IoCommandsComplete
  refine ⟨fun s n c hm hq => ⟨fun ho => ?read, fun ho hv => ?write, fun ho hp l => ?verify, fun ho hw => ?flush, fun ho hw => ?flushOwed⟩,
    fun s q i n c hc ho hb => ⟨fun hw => ?flushed, fun hw hq => ?timeout⟩,
    fun s n c hm hq ho hnext hfind => ⟨fun hr => ?refused, fun hr => ?zeroes⟩,
    fun s n c hm hq ho => ⟨fun m x hf => ?abort, fun hall => ?late⟩⟩
  case read =>
    have h := mayRun_iff hm
    exact .of_next (g := fun t => after (splitPieces n t)) (exec_read_of h hq ho) (begins_fields h.found)
  case write =>
    have h := mayRun_iff hm
    exact .of_next (g := after) (exec_write_of h hq ho hv) (begins_fields h.found)
  case verify =>
    have h := mayRun_iff hm
    exact .of_next (g := fun t => after (splitPieces n t)) (exec_verify_of h hq ho hp l)
      ⟨cmd?_onCmd_self h.found _, keeps_onCmd_iff.mpr (Keeps.refl _ _)⟩
  case flush =>
    exact .of_next (g := fun t => after (finish n St.success 0 t)) (exec_flush_of_clean (mayRun_iff hm) hq ho hw) rfl
  case flushOwed =>
    have h := mayRun_iff hm
    exact .of_next (g := after) (exec_flush_of_owed h hq ho hw) (flushOwed_fields h.found rfl)
  case flushed => exact .of_next (g := finish n St.success 0) (exec_flushComplete_of hc ho hb hw) rfl
  case timeout =>
    exact .of_next (g := finish n St.budgetDenied 0) (exec_flushWakeTimeout_of hc ho hb hw hq)
      ⟨rfl, rfl, keeps_written_iff.mpr (Keeps.refl _ _)⟩
  case refused =>
    exact .of_next (g := fun t => after (finish n St.arrayOffline 0 t)) (exec_writeZeroes_of_refused (mayRun_iff hm) hnext hfind hr) rfl
  case zeroes =>
    have h := mayRun_iff hm
    exact .of_next (g := fun t => after (commitRow n c.e.vol c.e.slba
      (List.replicate (min (s.toRowEnd c.e.vol c.e.slba) (c.e.nlbM1 + 1)) {}) (bitOf c.e.flags 2 == 1) t))
      (exec_writeZeroes_of h hnext hfind hr) (begins_fields h.found)
  case abort => exact .of_next (g := fun t => after (finish n St.success 0 t)) (exec_abort_of_found (mayRun_iff hm) hq ho hf) rfl
  case late =>
    exact .of_next (g := fun t => after (finish n St.success 1 t)) (exec_abort_of_none (mayRun_iff hm) hq ho (abortable_eq_none hall)) rfl

end Sys2Proof.Machine
end

section
/-! Features and queue pairs (R233 to R242): what the admin commands of the obligation O34 leave of them. -/

open Sys2Proof

namespace Sys2Proof.Machine

/-! Admin commands that may run -/

/-- What the host's features are made of: those in force and those saved, and the commands that wait for WRITE_THROUGH. -/
def featPart (s : State) : List (Nat × Nat) × List (Nat × Nat) × List Nat := (s.cmd.features, s.cmd.saved, s.cmd.wtCmds)

theorem featPart_sendMir (k : MirKind) (args : List Nat) (s : State) : featPart (sendMir k args s) = featPart s := by
  unfold sendMir
  split_ifs
  · unfold passStream
    split_ifs <;> rfl
  · rfl

theorem featPart_reselect (s : State) : featPart (reselect s) = featPart s := by
  have hexpose (t : State) : featPart (expose t) = featPart t := by
    unfold expose
    split_ifs <;> rfl
  have hfree : featPart (if s.jnl.toWt then releaseHeld { s with jnl := { s.jnl with toWt := false } } else s) = featPart s := by
    split_ifs <;> rfl
  have hlevel (l : Nat) (t : State) : featPart (setLevel l t) = featPart t := rfl
  unfold reselect
  simp only []
  split
  · split <;> rfl
  · split
    · exact hfree
    · split
      · rw [hexpose, hlevel, hfree]
      · rw [hlevel, hfree]

theorem featPart_updateCeiling (s : State) : featPart (updateCeiling s) = featPart s := by
  have hset (v : Nat) (t : State) : featPart (setF Reg.JNL_CEILING_CEIL_MIB v t) = featPart t := rfl
  unfold updateCeiling
  simp only [hset]
  exact when_of_eq _ featPart (featPart_sendMir _ _ _)

theorem featPart_writeHealth (s : State) : featPart (writeHealth s) = featPart s := by
  have hchange (k : Nat) (t : State) : featPart (packChange k t) = featPart t := by
    unfold packChange
    exact (congrArg (fun c : CmdPart => (c.features, c.saved, c.wtCmds)) (onlyHost_hostEvent 3 _).cmd).trans rfl
  have hset (b : Bool) (t : State) : featPart (setPackHealthy b t) = featPart t := by
    unfold setPackHealthy
    split_ifs
    · rfl
    · exact (featPart_reselect _).trans rfl
  unfold writeHealth
  simp only []
  split
  · rfl
  · rw [hchange, hset, featPart_updateCeiling]

theorem featPart_sendConfig (what : List Nat) (s : State) : featPart (sendConfig what s) = featPart s := by
  unfold sendConfig
  split_ifs
  · exact featPart_sendMir _ _ _
  · rfl

/-- A feature in force, and all else that is kept of features as before. -/
theorem featPart_applyFeature (code sel v : Nat) (s : State) :
    featPart (applyFeature code sel v s) = (Assoc.set s.cmd.features (featKey code sel) v, s.cmd.saved, s.cmd.wtCmds) := by
  unfold applyFeature
  split_ifs
  · exact (featPart_reselect _).trans rfl
  · exact ((featPart_writeHealth _).trans (featPart_updateCeiling _)).trans rfl
  · rfl
  · rfl
  · rfl
  · rfl
  · rfl

/-- SET_FEATURE's value in force, and saved where that is asked for. -/
theorem featPart_setFeature (e : Entry) (s : State) :
    featPart (setFeature e s) = (Assoc.set s.cmd.features (featKey (featCode e) (keptSel (featCode e) (featSel e))) (featVal e),
      (if bitOf e.options 31 == 1 then Assoc.set s.cmd.saved (featKey (featCode e) (keptSel (featCode e) (featSel e))) (featVal e)
        else s.cmd.saved), s.cmd.wtCmds) := by
  have happ := featPart_applyFeature (featCode e) (keptSel (featCode e) (featSel e)) (featVal e) s
  simp only [featPart, Prod.mk.injEq] at happ
  obtain ⟨hfeat, hsaved, hwt⟩ := happ
  unfold setFeature
  refine (when_of_eq _ featPart (featPart_sendConfig _ _)).trans ?_
  cases bitOf e.options 31 == 1
  · simp only [Machine.when, Bool.false_eq_true, if_false, featPart, hfeat, hsaved, hwt]
  · simp only [Machine.when, if_true, featPart, hfeat, hsaved, hwt]

theorem setFeature_fields (e : Entry) (s : State) {t : State} (ht : t = setFeature e s) :
    t.feature (featCode e) (keptSel (featCode e) (featSel e)) = featVal e
    ∧ (bitOf e.options 31 = 1 → Assoc.find t.cmd.saved (featKey (featCode e) (keptSel (featCode e) (featSel e))) = some (featVal e)) := by
  have hpart := featPart_setFeature e s
  simp only [featPart, Prod.mk.injEq] at hpart
  obtain ⟨hfeat, hsaved, -⟩ := hpart
  rw [ht]
  refine ⟨?_, fun hsave => ?_⟩
  · rw [State.feature, hfeat, Assoc.getD, Assoc.find_set, if_pos rfl]
    rfl
  · rw [hsaved, if_pos (by simp [hsave]), Assoc.find_set, if_pos rfl]

/-! WRITE_THROUGH -/

/-- FORCE_WT set, and the transition of R113 begun. -/
def wtForced (s : State) : State :=
  reselect (setF Reg.JNL_CTRL_FORCE_WT 1 { s with cmd := { s.cmd with features := Assoc.set s.cmd.features (featKey 1 0) 1 } })

/-- The feature saved where that is asked for, and sent to a live partner. -/
def wtKept (e : Entry) (s : State) : State :=
  let s2 := when (bitOf e.options 31 == 1) (fun t => { t with cmd := { t.cmd with saved := Assoc.set t.cmd.saved (featKey 1 0) 1 } }) s
  when s2.partnerLive (sendConfig [11, 1, 0, 1, b2n (bitOf e.options 31 == 1)]) s2

theorem setFeature_of_setsWt {e : Entry} (h : setsWt e = true) (s : State) : setFeature e s = wtKept e (wtForced s) := by
  simp only [setsWt, Bool.and_eq_true, beq_iff_eq] at h
  have hsel : keptSel 1 (featSel e) = 0 := by simp [keptSel, selCount]
  unfold setFeature
  simp only [h.1, h.2, hsel]
  rfl

/-- What of the journal decides whether all is settled, and the transition. -/
theorem jnl_wtKept (e : Entry) (s : State) : (wtKept e s).jnl = s.jnl := by
  have hsend (what : List Nat) (t : State) : (sendConfig what t).jnl = t.jnl := by
    unfold sendConfig
    split_ifs
    · unfold sendMir passStream
      split_ifs <;> rfl
    · rfl
  unfold wtKept
  exact (when_of_eq _ State.jnl (hsend _ _)).trans (when_of_eq _ State.jnl rfl)

theorem get_sendConfig {what : List Nat} {s : State} {f : Field} (hf : Reg.FOV_MIR_TX_CNT.key ≠ f.key) : (sendConfig what s).get f = s.get f := by
  unfold sendConfig
  split_ifs
  · exact get_sendMir hf
  · rfl

theorem get_wtKept {e : Entry} {s : State} {f : Field} (hf : Reg.FOV_MIR_TX_CNT.key ≠ f.key) : (wtKept e s).get f = s.get f := by
  unfold wtKept
  exact (when_of_eq _ (State.get · f) (get_sendConfig hf)).trans (when_of_eq _ (State.get · f) (get_of_regs f rfl))

theorem selected_of_forced {s : State} (h : s.get Reg.JNL_CTRL_FORCE_WT = 1) : s.selected = 2 := by
  rw [State.selected, if_pos (on_eq_true h)]

theorem forced_set (s : State) : (setF Reg.JNL_CTRL_FORCE_WT 1 s).get Reg.JNL_CTRL_FORCE_WT = 1 := get_setF_one rfl s

/-- In WRITE_THROUGH already nothing more changes; elsewhere the transition begins. -/
theorem wtForced_eq (s : State) : wtForced s =
    (let u : State := setF Reg.JNL_CTRL_FORCE_WT 1 { s with cmd := { s.cmd with features := Assoc.set s.cmd.features (featKey 1 0) 1 } }
     if s.get Reg.JNL_STATUS_LEVEL = 2 then u else { u with jnl := { u.jnl with toWt := true } }) := by
  obtain ⟨u, hu⟩ : ∃ u, u = setF Reg.JNL_CTRL_FORCE_WT 1 { s with cmd := { s.cmd with features := Assoc.set s.cmd.features (featKey 1 0) 1 } } := ⟨_, rfl⟩
  have hsel : u.selected = 2 := by rw [hu]; exact selected_of_forced (forced_set _)
  have hlevel : u.get Reg.JNL_STATUS_LEVEL = s.get Reg.JNL_STATUS_LEVEL := by
    rw [hu, get_setF_ne _ _ _ _ (by decide)]
    exact get_of_regs _ rfl
  rw [wtForced, ← hu, reselect]
  simp only [hsel, hlevel, if_true]

theorem wtForced_fields (s : State) : (wtForced s).get Reg.JNL_CTRL_FORCE_WT = 1
    ∧ (wtForced s).get Reg.JNL_STATUS_LEVEL = s.get Reg.JNL_STATUS_LEVEL
    ∧ (s.get Reg.JNL_STATUS_LEVEL ≠ 2 → (wtForced s).jnl = { s.jnl with toWt := true }) := by
  have hlevel (v : List (Nat × Nat)) : (setF Reg.JNL_CTRL_FORCE_WT 1 { s with cmd := { s.cmd with features := v } }).get Reg.JNL_STATUS_LEVEL
      = s.get Reg.JNL_STATUS_LEVEL := (get_setF_ne _ _ _ _ (by decide)).trans (get_of_regs _ rfl)
  rw [wtForced_eq]
  simp only []
  split_ifs with h
  · exact ⟨forced_set _, hlevel _, fun hne => absurd h hne⟩
  · exact ⟨(get_of_regs _ rfl).trans (forced_set _), (get_of_regs _ rfl).trans (hlevel _), fun _ => rfl⟩

/-- The feature as the host has set it, with the command noted as one that waits. -/
def wtAsked (n : Nat) (e : Entry) (s : State) : State :=
  let t1 := setFeature e (onCmd n (fun x => { x with begun := true }) s)
  { t1 with cmd := { t1.cmd with wtCmds := addOnce t1.cmd.wtCmds n } }

theorem wtAsked_fields (n : Nat) {e : Entry} (h : setsWt e = true) (s : State) : (wtAsked n e s).feature 1 0 = 1
    ∧ (wtAsked n e s).get Reg.JNL_CTRL_FORCE_WT = 1 ∧ (wtAsked n e s).get Reg.JNL_STATUS_LEVEL = s.get Reg.JNL_STATUS_LEVEL
    ∧ n ∈ (wtAsked n e s).cmd.wtCmds ∧ (s.get Reg.JNL_STATUS_LEVEL ≠ 2 → (wtAsked n e s).jnl = { s.jnl with toWt := true }) := by
  obtain ⟨u, hu⟩ : ∃ u, u = onCmd n (fun x => { x with begun := true }) s := ⟨_, rfl⟩
  have hcode : featCode e = 1 ∧ featVal e = 1 := by simpa [setsWt] using h
  have hsel : keptSel (featCode e) (featSel e) = 0 := by simp [keptSel, selCount, hcode.1]
  obtain ⟨hfeat, -⟩ := setFeature_fields e u rfl
  rw [hsel, hcode.1, hcode.2] at hfeat
  obtain ⟨hforce, hlevel, hjnl⟩ := wtForced_fields u
  have hget {f : Field} (hf : Reg.FOV_MIR_TX_CNT.key ≠ f.key) : (wtAsked n e s).get f = (wtForced u).get f := by
    rw [wtAsked, ← hu, setFeature_of_setsWt h]
    exact (get_of_regs f rfl).trans (get_wtKept hf)
  have hul : u.get Reg.JNL_STATUS_LEVEL = s.get Reg.JNL_STATUS_LEVEL := by
    rw [hu]
    exact onCmd_view (State.get · Reg.JNL_STATUS_LEVEL) (fun _ _ => get_of_regs _ rfl) _ _ _
  have huj : u.jnl = s.jnl := by rw [hu]; exact onCmd_view State.jnl (fun _ _ => rfl) _ _ _
  refine ⟨?_, (hget (by decide)).trans hforce, (hget (by decide)).trans (hlevel.trans hul), mem_addOnce _ _, fun hne => ?_⟩
  · rw [wtAsked, ← hu]
    exact hfeat
  · rw [wtAsked, ← hu, setFeature_of_setsWt h]
    exact (jnl_wtKept e _).trans ((hjnl (by rwa [hul])).trans (by rw [huj]))

theorem reachWt_of_not_clean {s : State} (h : s.allClean = false) : reachWt s = s := by rw [reachWt, if_neg (by simp [h])]

section Admin
variable {s : State} {n : Nat} {c : Cmd} (h : MayRun s n c) (hq : c.e.qid = 0)
include h hq

theorem exec_getFeature_of (ho : adminOf c.e = some .getFeature) (hk : featKnown (featCode c.e) (featSel c.e) = true) :
    exec (.getFeature c.e.cid) s
      = .next (after (finish n St.success (s.feature (featCode c.e) (keptSel (featCode c.e) (featSel c.e))) s)) := by
  refine (exec_getFeature s).trans ((h.runAdmin_eq hq ho rfl _).trans ?_)
  simp only [hk, if_true]

theorem exec_setFeature_of (ho : adminOf c.e = some .setFeature) (hw : setsWt c.e = false) (hk : featOk c.e = true) :
    exec (.setFeature c.e.cid) s = .next (after (finish n St.success 0 (setFeature c.e s))) := by
  refine (exec_setFeature s).trans ((h.runAdmin_eq hq ho (p := fun e => !setsWt e) (by simp [hw]) _).trans ?_)
  simp only [hk, if_true]

theorem exec_setWt_of_reached (ho : adminOf c.e = some .setFeature) (hw : setsWt c.e = true) (hl : s.get Reg.JNL_STATUS_LEVEL = 2) :
    exec (.setFeatureWriteThrough c.e.cid) s = .next (after (finish n St.success 0
      { wtAsked n c.e s with cmd := { (wtAsked n c.e s).cmd with wtCmds := remove (wtAsked n c.e s).cmd.wtCmds n } })) := by
  obtain ⟨-, -, hlevel, -⟩ := wtAsked_fields n hw s
  rw [wtAsked] at hlevel
  refine (exec_setFeatureWriteThrough s).trans ((h.runAdmin_eq hq ho hw _).trans ?_)
  rw [if_pos (hlevel.trans hl)]
  rfl

theorem exec_setWt_of_waits (ho : adminOf c.e = some .setFeature) (hw : setsWt c.e = true) (hl : s.get Reg.JNL_STATUS_LEVEL ≠ 2)
    (hc : s.allClean = false) :
    exec (.setFeatureWriteThrough c.e.cid) s = .next (after (demand (wtAsked n c.e s).dirtyRows (wtAsked n c.e s))) := by
  obtain ⟨-, -, hlevel, -, hjnl⟩ := wtAsked_fields n hw s
  have hclean : (demand (wtAsked n c.e s).dirtyRows (wtAsked n c.e s)).allClean = false := by
    rw [← hc]
    show (((wtAsked n c.e s).jnl.lines.filter (fun l => l.2.dirty)).isEmpty && (wtAsked n c.e s).jnl.intents.isEmpty
      && (wtAsked n c.e s).jnl.updates.isEmpty) = s.allClean
    rw [hjnl hl]
    rfl
  refine (exec_setFeatureWriteThrough s).trans ((h.runAdmin_eq hq ho hw _).trans ?_)
  rw [wtAsked] at hlevel
  rw [if_neg (by rw [hlevel]; exact hl)]
  exact congrArg (fun t => Host.Outcome.next (after t)) (reachWt_of_not_clean hclean)

/-! Queue pairs -/

/-- The pair that a CREATE_IO_QUEUE describes. -/
theorem exec_createIoQueue_of (ho : adminOf c.e = some .createIoQueue) (hn : s.pair? (specField c.e 40 2) = none) (hp : s.pairOk c.e = true) :
    exec (.createIoQueue c.e.cid) s = .next (after (finish n St.success 0 { s with qmx := { s.qmx with
      pairs := Assoc.set s.qmx.pairs (specField c.e 40 2) {
        sizeM1 := specField c.e 42 2, sqBase := specField c.e 48 8, cqBase := specField c.e 56 8, weight := specField c.e 44 1,
        credit := specField c.e 44 1, burstM1 := specField c.e 45 1, irq := specField c.e 46 1 }
      strayDoorbells := s.qmx.strayDoorbells.filter (fun x => x.1 / 2 != specField c.e 40 2) } })) := by
  refine (exec_createIoQueue s).trans ((h.runAdmin_eq hq ho rfl _).trans ?_)
  simp only [hn, hp, Option.isSome_none, Bool.false_eq_true, and_false, if_false, if_true]

end Admin

/-- A queue that is to be deleted, its fetching stopped. -/
def deleteBegun (q n : Nat) (s : State) : State :=
  let t1 := onPair q (fun x => { x with deleting := some n }) (onCmd n (fun x => { x with begun := true }) s)
  { t1 with qmx := { t1.qmx with stalled := t1.qmx.stalled.filter (fun x => x.qid != q) } }

theorem abortAll_nil (s : State) : abortAll [] s = s := rfl

theorem deleteBegun_eq {q n : Nat} {s : State} {c : Cmd} {p : Pair} (hc : s.cmd? n = some c) (hp : s.pair? q = some p) :
    deleteBegun q n s = { s with qmx := { s.qmx with
      cmds := Assoc.set s.qmx.cmds n { c with begun := true }
      pairs := Assoc.set s.qmx.pairs q { p with deleting := some n }
      stalled := s.qmx.stalled.filter (fun x => x.qid != q) } } := by
  have hp2 : (onCmd n (fun x => { x with begun := true }) s).pair? q = some p := by rw [onCmd_of_found hc]; exact hp
  rw [deleteBegun, onPair, hp2, onCmd_of_found hc]

theorem deleteBegun_fields {q n : Nat} {s : State} {c : Cmd} {p : Pair} (hc : s.cmd? n = some c) (hp : s.pair? q = some p) {t : State}
    (ht : t = deleteBegun q n s) :
    t.pair? q = some { p with deleting := some n } ∧ t.cmd? n = some { c with begun := true } ∧ Keeps [] s t := by
  rw [ht, deleteBegun_eq hc hp]
  refine ⟨?_, ?_, keeps_written_iff.mpr (Keeps.refl _ _)⟩
  · show Assoc.find (Assoc.set s.qmx.pairs q { p with deleting := some n }) q = _
    rw [Assoc.find_set, if_pos rfl]
  · show Assoc.find (Assoc.set s.qmx.cmds n { c with begun := true }) n = _
    rw [Assoc.find_set, if_pos rfl]

theorem mem_set {α : Type} {m : List (Nat × α)} {k : Nat} {v : α} {x : Nat × α} (h : x ∈ Assoc.set m k v) : x = (k, v) ∨ x ∈ m := by
  rcases Assoc.mem_insert h with h | h
  · exact .inl h
  · exact .inr (Assoc.mem_erase h)

/-- Where every command of a queue has begun, its deletion aborts none. -/
theorem deleteBegun_none {q n : Nat} {s : State} {c : Cmd} {p : Pair} (hc : s.cmd? n = some c) (hp : s.pair? q = some p) (hq : c.e.qid ≠ q)
    (hall : ∀ x ∈ s.qmx.cmds, x.2.e.qid = q → s.hasBegun x.1 x.2 = true) :
    (deleteBegun q n s).qmx.cmds.filter (fun x => x.2.e.qid == q && !(deleteBegun q n s).hasBegun x.1 x.2) = [] := by
  rw [deleteBegun_eq hc hp]
  refine List.filter_eq_nil_iff.mpr fun x hx hcond => ?_
  simp only [Bool.and_eq_true, beq_iff_eq, Bool.not_eq_true'] at hcond
  rcases mem_set hx with rfl | hx
  · exact hq hcond.1
  · exact absurd (hall x hx hcond.1) (by rw [Bool.not_eq_true]; exact hcond.2)

theorem exec_deleteIoQueue_of {s : State} {n : Nat} {c : Cmd} {p : Pair} (h : MayRun s n c) (hq : c.e.qid = 0)
    (ho : adminOf c.e = some .deleteIoQueue) (hp : s.pair? (specField c.e 40 2) = some p) (hne : specField c.e 40 2 ≠ 0) (hd : p.deleting = none)
    (hall : ∀ x ∈ s.qmx.cmds, x.2.e.qid = specField c.e 40 2 → s.hasBegun x.1 x.2 = true) :
    exec (.deleteIoQueue c.e.cid) s = .next (after (deleteBegun (specField c.e 40 2) n s)) := by
  have hnone := deleteBegun_none h.found hp (by rw [hq]; exact hne.symm) hall
  refine (exec_deleteIoQueue s).trans ((h.runAdmin_eq hq ho rfl _).trans ?_)
  simp only [hp, hne, hd, Option.isSome_none, Bool.false_eq_true, or_self, if_false]
  rw [deleteBegun] at hnone
  rw [hnone]
  rfl

/-- A queue's identifier is free. -/
def queueGone (q : Nat) (p : Pair) (s : State) : State :=
  { s with
    qmx := { s.qmx with
      pairs := Assoc.erase s.qmx.pairs q
      strayDoorbells := Assoc.set (Assoc.set s.qmx.strayDoorbells (2 * q) p.rawTail) (2 * q + 1) p.rawHead }
    hif := { s.hif with
      vecDue := s.hif.vecDue.filter (fun p => p.1 != q), pend := remove s.hif.pend q, announced := remove s.hif.announced q } }

theorem exec_queueDeleteDrained_of {s : State} {q n : Nat} {p : Pair} (hp : s.pair? q = some p) (hd : p.deleting = some n)
    (hf : s.inFlight q = 0) : exec (.queueDeleteDrained q) s = .next (finish n St.success 0 (queueGone q p s)) := by
  rw [exec_queueDeleteDrained, execQueueDeleteDrained, hp]
  simp only [hd, hf, if_true]
  rfl

theorem queueGone_fields (q : Nat) (p : Pair) (s : State) {t : State} (ht : t = queueGone q p s) :
    t.pair? q = none ∧ q ∉ t.hif.pend ∧ Keeps [] s t := by
  rw [ht]
  refine ⟨?_, ?_, keeps_written_iff.mpr (Keeps.refl _ _)⟩
  · show Assoc.find (Assoc.erase s.qmx.pairs q) q = none
    rw [Assoc.find_erase, if_pos rfl]
  · show q ∉ remove s.hif.pend q
    simp [remove]

end Sys2Proof.Machine
end

section
/-! Arrays, volumes and members as the admin commands make them (R243 to R248): the obligation O34. -/

open Sys2Proof

namespace Sys2Proof.Machine

/-! Arrays -/

theorem firstBad_eq_none {check : Nat → SlotCheck} {l : List Nat} (h : ∀ x ∈ l, check x = .ok) : firstBad check l = none := by
  induction l with
  | nil => rfl
  | cons x l ih => rw [firstBad, if_pos (h x (.head _)), ih fun y hy => h y (.tail _ hy)]

/-- The keys of an array's evaluation register, and the parts that the writing of headers and of the encode matrix changes. -/
@[reducible] def evalKey (a k : Nat) : Prop := (0x30130 + 0x40 * a) * 32 ≤ k ∧ k < (0x30134 + 0x40 * a) * 32

@[reducible] def headerMask (s : State) : State := { s with regs := [], stp := {}, oxe := {}, out := [] }

theorem within_writeHeader (a p hdr : Nat) (b : Block) (s : State) : Within (evalKey a) headerMask s (writeHeader p hdr b s) := .own rfl rfl

theorem within_writeRecords (a n : Nat) (slots : List Nat) (s : State) : Within (evalKey a) headerMask s (writeRecords n slots s) :=
  .forEach (.refl _ _ s) fun _ _ _ => .own rfl rfl

theorem within_writeCoef (a k v : Nat) (s : State) : Within (evalKey a) headerMask s (writeCoef k v s) := .own rfl rfl

theorem within_loadEncode (a n : Nat) (s : State) : Within (evalKey a) headerMask s (loadEncode n s) := by
  unfold loadEncode
  refine .forEach (.forEach (.refl _ _ s) fun o _ t => ?_) fun c _ t => within_writeCoef a _ _ t
  exact .forEach (.refl _ _ t) fun d _ u => within_writeCoef a _ _ u

theorem within_startEval (a : Nat) (s : State) : Within (evalKey a) headerMask s (startEval a s) := by
  have hstart : evalKey a (Reg.STP_ARRAY_EVAL_START a).key := by simp only [evalKey, Field.key, Reg.STP_ARRAY_EVAL_START]; omega
  have hbusy : evalKey a (Reg.STP_ARRAY_EVAL_BUSY a).key := by simp only [evalKey, Field.key, Reg.STP_ARRAY_EVAL_BUSY]; omega
  have hstale : evalKey a (Reg.STP_ARRAY_EVAL_STALE a).key := by simp only [evalKey, Field.key, Reg.STP_ARRAY_EVAL_STALE]; omega
  unfold startEval
  split_ifs
  · exact .refl _ _ _
  · exact ((((Within.refl (evalKey a) headerMask s).setF 1 hstart (by rfl)).setF 1 hbusy (by rfl)).setF 0 hstale (by rfl)).parts (by rfl) (by rfl)

/-- The registers of a new array. -/
def arrayWritten (a : Nat) (g : Geo) (s : State) : State := writeArrayValid a true (writeArray a g s)

/-- With them, what the firmware keeps of it. -/
def arrayKept (a uuid : Nat) (g : Geo) (s : State) : State :=
  let s1 := arrayWritten a g s
  let m : ArrayMeta := { uuid := uuid, generation := 1, created := s.nowMs / 1000, slotGen := g.slots.map (fun x => (x, 1)) }
  { s1 with
    cmd := { s1.cmd with arrays := Assoc.set s1.cmd.arrays a m, lastAssembled := Assoc.set s1.cmd.lastAssembled a uuid }
    sas := { s1.sas with arrays := Assoc.set s1.sas.arrays a { started := (List.range 9).map (fun k => (k, s.clock)) } } }

theorem within_createArray (a uuid : Nat) (g : Geo) (s : State) :
    Within (evalKey a) headerMask (arrayKept a uuid g s) (createArray a uuid g s) := by
  have hheaders (u : State) : Within (evalKey a) headerMask u (forEach g.slots (fun x t => writeHeader x g.hdr (t.headerBlock a x) t) u) :=
    .forEach (.refl _ _ u) fun _ _ t => within_writeHeader _ _ _ _ t
  have hloaded := ((hheaders (arrayKept a uuid g s)).trans (within_writeRecords a a g.slots _)).trans (within_loadEncode a a _)
  exact hloaded.when (within_startEval a _)

theorem view_arrayWritten {α : Type} (v : State → α) (hv : ∀ (s : State) r, v { s with regs := r } = v s) (a : Nat) (g : Geo) (s : State) :
    v (arrayWritten a g s) = v s := by
  have hset (f : Field) (x : Nat) (t : State) : v (setF f x t) = v t := hv t _
  have hvalid (t : State) : v (writeArrayValid a true t) = v t := by
    unfold writeArrayValid
    simp only [if_true]
    split_ifs <;> rw [hset, hset]
  unfold arrayWritten writeArray unlocked arrayFields
  simp only []
  rw [hvalid, hset, view_forEach v fun _ _ => hset _ _ _, view_forEach v fun _ _ => hset _ _ _]
  simp only [hset]

theorem layout_arrayWritten {a : Nat} (ha : a < 4) (g : Geo) (s : State) :
    (arrayWritten a g s).get (Reg.STP_ARRAY_CFG_LAYOUT a) = g.layout % 4 := by
  have hvalid (t : State) : (writeArrayValid a true t).get (Reg.STP_ARRAY_CFG_LAYOUT a) = t.get (Reg.STP_ARRAY_CFG_LAYOUT a) := by
    unfold writeArrayValid
    simp only [if_true]
    split_ifs <;>
      rw [get_setF_ne _ _ _ _ (by simp only [Field.key, Reg.STP_ARRAY_CFG_CFG_ERR, Reg.STP_ARRAY_CFG_LAYOUT]; omega),
        get_setF_ne _ _ _ _ (by simp only [Field.key, Reg.STP_ARRAY_CFG_VALID, Reg.STP_ARRAY_CFG_LAYOUT]; omega)]
  unfold arrayWritten writeArray unlocked arrayFields
  simp only []
  rw [hvalid, get_setF_ne _ _ _ _ (by simp only [Field.key, Reg.STP_CTRL_LOCK, Reg.STP_ARRAY_CFG_LAYOUT]; omega),
    get_forEach_of_mem (fun k _ t => get_setF_ne _ _ _ _ (by simp only [Field.key, Reg.STP_ARRAY_ERASED_SLOTS, Reg.STP_ARRAY_CFG_LAYOUT]; omega)),
    get_forEach_of_mem (fun k _ t => get_setF_ne _ _ _ _ (by simp only [Field.key, Reg.STP_ARRAY_SLOTMAP_SLOTS, Reg.STP_ARRAY_CFG_LAYOUT]; omega)),
    get_setF_ne _ _ _ _ (by simp only [Field.key, Reg.STP_ARRAY_HDR_HDR_MIB, Reg.STP_ARRAY_CFG_LAYOUT]; omega),
    get_setF_ne _ _ _ _ (by simp only [Field.key, Reg.STP_ARRAY_ROWS_LO_ROWS, Reg.STP_ARRAY_CFG_LAYOUT]; omega),
    get_setF_ne _ _ _ _ (by simp only [Field.key, Reg.STP_ARRAY_ROWS_HI_ROWS, Reg.STP_ARRAY_CFG_LAYOUT]; omega),
    get_setF_ne _ _ _ _ (by simp only [Field.key, Reg.STP_ARRAY_CFG_GEN1, Reg.STP_ARRAY_CFG_LAYOUT]; omega), get_setF_self]
  rfl

theorem createArray_fields {a : Nat} (ha : a < 4) (uuid : Nat) (g : Geo) (s : State) {t : State} (ht : t = createArray a uuid g s) :
    (t.arrayMeta a).uuid = uuid ∧ (t.arrayMeta a).generation = 1 ∧ Assoc.find t.cmd.lastAssembled a = some uuid
    ∧ t.get (Reg.STP_ARRAY_CFG_LAYOUT a) = g.layout % 4 ∧ ∀ x, t.readByte x = s.readByte x := by
  have hw := within_createArray a uuid g s
  have hcmd : (createArray a uuid g s).cmd = (arrayKept a uuid g s).cmd := hw.view State.cmd fun _ => rfl
  have hmeta : (createArray a uuid g s).arrayMeta a
      = { uuid := uuid, generation := 1, created := s.nowMs / 1000, slotGen := g.slots.map (fun x => (x, 1)) } := by
    rw [State.arrayMeta, hcmd]
    show Assoc.getD (Assoc.set _ a _) a ({} : ArrayMeta) = _
    rw [Assoc.getD, Assoc.find_set, if_pos rfl]
    rfl
  rw [ht, hmeta, hcmd]
  refine ⟨rfl, rfl, ?_, ?_, fun x => readByte_of_mem x ?_⟩
  · show Assoc.find (Assoc.set _ a uuid) a = some uuid
    rw [Assoc.find_set, if_pos rfl]
  · rw [hw.get (by simp only [evalKey, Field.key, Reg.STP_ARRAY_CFG_LAYOUT]; omega)]
    exact (get_of_regs _ rfl).trans (layout_arrayWritten ha g s)
  · exact (hw.view State.mem fun _ => rfl).trans (view_arrayWritten State.mem (fun _ _ => rfl) a g s)

section Create
variable {s : State} {n : Nat} {c : Cmd} (h : MayRun s n c) (hq : c.e.qid = 0)
include h hq

theorem exec_arrayCreate_of {uuid rows : Nat} {drives : List (Nat × Option DriveFacts)} (ho : adminOf c.e = some .arrayCreate)
    (ha : specField c.e 40 1 < 4) (hv : s.on (Reg.STP_ARRAY_CFG_VALID (specField c.e 40 1)) = false) (hs : s.on Reg.SYS_STRAP_COMPAT = false)
    (hl : layoutBad (createGeo c.e 0) = false) (hc : countBad (createGeo c.e 0) = false)
    (hslots : ∀ x ∈ (createGeo c.e 0).slots, s.checkSlot drives none x (s.slotsTaken none x || s.substitutes.contains x
      || ((createGeo c.e 0).layout == 1 && decide (100 ≤ x))) (bitOf (specField c.e 46 1) 0 == 1) 0 = .ok)
    (hr : rows = rowsFor (createGeo c.e 0) (((createGeo c.e 0).slots.filterMap (fun x => (s.factsOf drives x).join.map (fun f => f.bytes))).foldl min
      (((createGeo c.e 0).slots.filterMap (fun x => (s.factsOf drives x).join.map (fun f => f.bytes))).headD 0))) (hne : rows ≠ 0) :
    exec (.arrayCreate c.e.cid uuid drives) s
      = .next (after (finish n St.success 0 (createArray (specField c.e 40 1) uuid (createGeo c.e rows) s))) := by
  have hbad := firstBad_eq_none hslots
  have h3 : ¬ 3 < specField c.e 40 1 := by omega
  rw [exec_arrayCreate, execArrayCreate, h.runAdmin_eq hq ho rfl]
  simp only [h3, if_false, hv, Bool.false_eq_true, hs, Bool.false_and, hl, hc, hbad, ← hr, hne]

theorem exec_arrayDelete_of (ho : adminOf c.e = some .arrayDelete) (ha : specField c.e 40 1 < 4)
    (hv : s.on (Reg.STP_ARRAY_CFG_VALID (specField c.e 40 1)) = true) (hr : s.volumesRemain (specField c.e 40 1) = false)
    (ht : s.cmd.testRunning ≠ 2) :
    exec (.arrayDelete c.e.cid) s = .next (after (finish n St.success 0 (deleteArray (specField c.e 40 1) s))) := by
  have h3 : ¬ 3 < specField c.e 40 1 := by omega
  rw [exec_arrayDelete, execArrayDelete, h.runAdmin_eq hq ho rfl]
  simp only [h3, false_or, hv, Bool.true_eq_false, if_false, hr, Bool.false_eq_true, ht]

end Create

/-- The end of an array's substitutions and frontiers writes registers of their block alone. -/
theorem get_endRepairs {a : Nat} {slots : List Nat} {s : State} {f : Field} (hf : f.key < 0xA0000 * 32) :
    (endRepairs a slots s).get f = s.get f := by
  have hsub (j : Nat) : (Reg.SAS_SUB_VALID j).key ≠ f.key := by simp only [Field.key, Reg.SAS_SUB_VALID] at hf ⊢; omega
  have hrbd (k : Nat) : (Reg.SAS_RBD_CFG_ENABLE k).key ≠ f.key := by simp only [Field.key, Reg.SAS_RBD_CFG_ENABLE] at hf ⊢; omega
  unfold endRepairs
  simp only [get_written]
  rw [get_forEach fun k t => when_of_eq _ (State.get · f) (get_setF_ne _ _ _ _ (hrbd k)),
    get_forEach fun j t => when_of_eq _ (State.get · f) (get_setF_ne _ _ _ _ (hsub j))]

theorem valid_deleteArray {a : Nat} (ha : a < 4) {s : State} (hv : s.hasVolume a = false) : (deleteArray a s).get (Reg.STP_ARRAY_CFG_VALID a) = 0 := by
  have hlow : (Reg.STP_ARRAY_CFG_VALID a).key < 0xA0000 * 32 := by simp only [Field.key, Reg.STP_ARRAY_CFG_VALID]; omega
  have hwritten : (writeArrayValid a false s).get (Reg.STP_ARRAY_CFG_VALID a) = 0 := by
    unfold writeArrayValid
    simp only [Bool.false_eq_true, if_false, hv]
    rw [get_setF_ne _ _ _ _ (by simp only [Field.key, Reg.STP_ARRAY_CFG_CFG_ERR, Reg.STP_ARRAY_CFG_VALID]; omega), get_setF_zero]
  have hheader (p hdr : Nat) (b : Block) (t : State) : (writeHeader p hdr b t).get (Reg.STP_ARRAY_CFG_VALID a) = t.get (Reg.STP_ARRAY_CFG_VALID a) := rfl
  unfold deleteArray
  simp only [get_written]
  rw [get_endRepairs hlow, get_forEach fun p t => hheader _ _ _ t, hwritten]

theorem deleted_deleteArray (a : Nat) (s : State) : (deleteArray a s).cmd.deleted.head? = some (s.arrayMeta a).uuid := rfl

/-! Volumes -/

/-- A volume's registers as VOLUME_CREATE writes them. -/
def volumeWritten (v a base rows : Nat) (s : State) : State :=
  unlocked (fun t => setF (Reg.STP_VOL_CFG_ARRAY v) a (set64 (Reg.STP_VOL_BASE_LO_BASE v) (Reg.STP_VOL_BASE_HI_BASE v) base
    (set64 (Reg.STP_VOL_ROWS_LO_ROWS v) (Reg.STP_VOL_ROWS_HI_ROWS v) rows t))) s

theorem volumeWritten_fields {v a : Nat} (ha : a < 4) (base rows : Nat) (s : State) :
    (volumeWritten v a base rows s).volArray v = a ∧ (volumeWritten v a base rows s).volValid v = s.volValid v := by
  constructor
  · rw [State.volArray, volumeWritten, unlocked,
      get_setF_ne _ _ _ _ (by simp only [Field.key, Reg.STP_CTRL_LOCK, Reg.STP_VOL_CFG_ARRAY]; omega)]
    exact get_setF_of_lt ha _
  · rw [State.volValid, State.on, volumeWritten, unlocked, set64, set64,
      get_setF_ne _ _ _ _ (by simp only [Field.key, Reg.STP_CTRL_LOCK, Reg.STP_VOL_CFG_VALID]; omega),
      get_setF_ne _ _ _ _ (by simp only [Field.key, Reg.STP_VOL_CFG_ARRAY, Reg.STP_VOL_CFG_VALID]; omega),
      get_setF_ne _ _ _ _ (by simp only [Field.key, Reg.STP_VOL_BASE_HI_BASE, Reg.STP_VOL_CFG_VALID]; omega),
      get_setF_ne _ _ _ _ (by simp only [Field.key, Reg.STP_VOL_BASE_LO_BASE, Reg.STP_VOL_CFG_VALID]; omega),
      get_setF_ne _ _ _ _ (by simp only [Field.key, Reg.STP_VOL_ROWS_HI_ROWS, Reg.STP_VOL_CFG_VALID]; omega),
      get_setF_ne _ _ _ _ (by simp only [Field.key, Reg.STP_VOL_ROWS_LO_ROWS, Reg.STP_VOL_CFG_VALID]; omega),
      get_setF_ne _ _ _ _ (by simp only [Field.key, Reg.STP_CTRL_LOCK, Reg.STP_VOL_CFG_VALID]; omega), ← State.on, ← State.volValid]

/-- Records on the drives and the partner's copy: no register but the mirror link's count, and nothing kept. -/
theorem recorded_fields (a : Nat) (slots what : List Nat) (s : State) :
    (writeRecords a slots (sendConfig what s)).cmd = s.cmd ∧ (writeRecords a slots (sendConfig what s)).sas = s.sas
    ∧ Keeps [Reg.FOV_MIR_TX_CNT] s (writeRecords a slots (sendConfig what s)) := by
  have hw := within_writeRecords 0 a slots (sendConfig what s)
  have hsend : (sendConfig what s).cmd = s.cmd ∧ (sendConfig what s).sas = s.sas := by
    unfold sendConfig
    split_ifs
    · unfold sendMir passStream
      split_ifs <;> exact ⟨rfl, rfl⟩
    · exact ⟨rfl, rfl⟩
  have hkeep : Keeps [Reg.FOV_MIR_TX_CNT] s (sendConfig what s) := by
    unfold sendConfig
    split_ifs
    · exact keeps_sendMir (Keeps.refl _ _) (by decide)
    · exact Keeps.refl _ _
  refine ⟨(hw.view State.cmd fun _ => rfl).trans hsend.1, (hw.view State.sas fun _ => rfl).trans hsend.2, hkeep.of_eq ?_ (hw.view State.mem fun _ => rfl)⟩
  unfold writeRecords
  exact view_forEach (g := fun p t => emit (.headerRecord p (t.headerRecord a)) t) State.regs (fun _ _ => rfl) _

theorem bindVolume_fields {v a : Nat} (hv : v < 64) (ha : a < 4) (base rows uuid : Nat) {s : State} (hval : s.volValid v = false) {t : State}
    (ht : t = bindVolume v a base rows uuid s) :
    t.volMeta v = { bound := true, uuid := uuid, array := a, base := base, rows := rows, formatting := some base }
    ∧ t.volValid v = false ∧ t.volArray v = a := by
  obtain ⟨u, hu⟩ : ∃ u, u = onVolMeta v (fun _ =>
    { bound := true, uuid := uuid, array := a, base := base, rows := rows, formatting := some base }) (volumeWritten v a base rows s) := ⟨_, rfl⟩
  obtain ⟨hcmd, -, hkeep⟩ := recorded_fields a (s.geo a).slots [9, v, a, base, rows] u
  obtain ⟨harray, hvalid⟩ := volumeWritten_fields (v := v) ha base rows s
  have heq : t = writeRecords a (s.geo a).slots (sendConfig [9, v, a, base, rows] u) := by rw [ht, hu]; rfl
  rw [heq, State.volMeta, hcmd]
  refine ⟨?_, ?_, ?_⟩
  · rw [hu]
    show Assoc.getD (Assoc.set _ v _) v ({} : VolMeta) = _
    rw [Assoc.getD, Assoc.find_set, if_pos rfl]
    rfl
  · rw [State.volValid, State.on, hkeep.get (by simp only [Field.key, Reg.STP_VOL_CFG_VALID, Reg.FOV_MIR_TX_CNT, List.map_cons, List.map_nil, List.mem_singleton]; omega),
      ← hval, ← hvalid, hu]
    rfl
  · rw [State.volArray, hkeep.get (by simp only [Field.key, Reg.STP_VOL_CFG_ARRAY, Reg.FOV_MIR_TX_CNT, List.map_cons, List.map_nil, List.mem_singleton]; omega), hu]
    exact harray

section Volume
variable {s : State} {n : Nat} {c : Cmd} (h : MayRun s n c) (hq : c.e.qid = 0)
include h hq

theorem exec_volumeCreate_of {uuid b rows : Nat} (ho : adminOf c.e = some .volumeCreate) (hv : specField c.e 40 1 < 64)
    (hb : (s.volMeta (specField c.e 40 1)).bound = false) (hval : s.volValid (specField c.e 40 1) = false) (ha : specField c.e 41 1 < 4)
    (hav : s.on (Reg.STP_ARRAY_CFG_VALID (specField c.e 41 1)) = true) (hne : specField c.e 48 8 ≠ 0) (hbase : bitOf (specField c.e 42 1) 0 = 0)
    (hr : rows = ceilDiv (specField c.e 48 8 * 4096) ((s.geo (specField c.e 41 1)).dataCount * (s.geo (specField c.e 41 1)).unit))
    (hfree : s.freeRows (specField c.e 41 1) rows = some b) :
    exec (.volumeCreate c.e.cid uuid) s
      = .next (after (finish n St.success 0 (bindVolume (specField c.e 40 1) (specField c.e 41 1) b rows uuid s))) := by
  have h63 : ¬ 63 < specField c.e 40 1 := by omega
  have h3 : ¬ 3 < specField c.e 41 1 := by omega
  refine (exec_volumeCreate s).trans ((h.runAdmin_eq hq ho rfl _).trans ?_)
  simp only [h63, hb, hval, h3, hav, hne, Bool.false_eq_true, Bool.true_eq_false,
    or_self, if_false, hbase, Nat.zero_ne_one, ← hr, hfree]

end Volume

theorem exec_volumeFormat_of {s : State} {v : Fin 64} {row : Nat} (hf : (s.volMeta v.val).formatting = some row) (hm : s.mode = Mode.serving)
    (hb : (s.volMeta v.val).bound = true) (hr : ∀ r ∈ s.sas.repairs, r.2.array ≠ (s.volMeta v.val).array ∨ r.2.row ≠ row)
    (hawake : ∀ i, i < (s.geo (s.volMeta v.val).array).members → s.liveMember (s.volMeta v.val).array row i = true →
      s.awakeMember (s.volMeta v.val).array i = true) :
    exec (.volumeFormat v) s = .next (after (startRepair {
      array := (s.volMeta v.val).array, row := row,
      writes := ((List.range (s.geo (s.volMeta v.val).array).members).filter (fun i => s.liveMember (s.volMeta v.val).array row i)).map
        (fun i => (i, 0, List.replicate (s.geo (s.volMeta v.val).array).unitBlocks 0)), format := true }
      (writeRecords (s.volMeta v.val).array (s.geo (s.volMeta v.val).array).slots
        (sendConfig [9, v.val, (s.volMeta v.val).array, (s.volMeta v.val).base, (s.volMeta v.val).rows, row] s)))) := by
  have hfree : s.sas.repairs.all (fun r => !(r.2.array == (s.volMeta v.val).array && r.2.row == row)) = true := by
    refine List.all_eq_true.mpr fun r hmem => ?_
    rcases hr r hmem with h | h <;> simp [h]
  have hall : (List.range (s.geo (s.volMeta v.val).array).members).all
      (fun i => !s.liveMember (s.volMeta v.val).array row i || s.awakeMember (s.volMeta v.val).array i) = true := by
    refine List.all_eq_true.mpr fun i hi => ?_
    cases hl : s.liveMember (s.volMeta v.val).array row i with
    | false => rfl
    | true => simp [hawake i (List.mem_range.mp hi) hl]
  rw [exec_volumeFormat, execVolumeFormat]
  simp only [hf, hm, hb, hfree, hall, and_self, if_true]

/-- A volume that is to be deleted: no longer valid, its formatting ended. -/
def volumeEnded (v n : Nat) (s : State) : State :=
  onVolMeta v (fun x => { x with formatting := none, deleting := some n })
    (writeVolumeValid v false (onCmd n (fun x => { x with begun := true }) s))

theorem volumeEnded_fields (v n : Nat) (s : State) {t : State} (ht : t = volumeEnded v n s) :
    t.volValid v = false ∧ (t.volMeta v).deleting = some n ∧ (t.volMeta v).formatting = none ∧ t.jnl.lines = s.jnl.lines := by
  have hmeta : t.volMeta v = { (s.volMeta v) with formatting := none, deleting := some n } := by
    have hcmd : (onCmd n (fun x => { x with begun := true }) s).volMeta v = s.volMeta v :=
      onCmd_view (State.volMeta · v) (fun _ _ => rfl) _ _ _
    rw [ht, ← hcmd]
    show Assoc.getD (Assoc.set _ v _) v ({} : VolMeta) = _
    rw [Assoc.getD, Assoc.find_set, if_pos rfl]
    rfl
  rw [hmeta]
  refine ⟨?_, rfl, rfl, ?_⟩
  · rw [ht]
    refine on_eq_false ((get_of_regs (t := writeVolumeValid v false (onCmd n (fun x => { x with begun := true }) s)) _ rfl).trans ?_)
    unfold writeVolumeValid
    simp only [Bool.not_false, if_true]
    rw [get_setF_ne _ _ _ _ (by simp only [Field.key, Reg.STP_VOL_CFG_RANGE_ERR, Reg.STP_VOL_CFG_VALID]; omega), get_setF_zero]
  · rw [ht]
    exact (onCmd_view (fun u => u.jnl.lines) (fun _ _ => rfl) _ _ _ : (onCmd n (fun x => { x with begun := true }) s).jnl.lines = s.jnl.lines)

theorem volumeEnded_view {α : Type} (f : State → α) (hv : ∀ (s : State) r c, f { s with regs := r, cmd := c } = f s) (v n : Nat) (s : State) :
    f (volumeEnded v n s) = f (onCmd n (fun x => { x with begun := true }) s) :=
  hv (onCmd n (fun x => { x with begun := true }) s) (volumeEnded v n s).regs (volumeEnded v n s).cmd

theorem exec_volumeDelete_of {s : State} {n : Nat} {c : Cmd} (h : MayRun s n c) (hq : c.e.qid = 0) (ho : adminOf c.e = some .volumeDelete)
    (hv : specField c.e 40 1 < 64) (hb : (s.volMeta (specField c.e 40 1)).bound = true) (hd : (s.volMeta (specField c.e 40 1)).deleting = none)
    (hf : (s.volMeta (specField c.e 40 1)).flock = none)
    (hall : ∀ x ∈ s.qmx.cmds, x.2.e.qid ≠ 0 → x.2.e.vol = specField c.e 40 1 → s.hasBegun x.1 x.2 = true) :
    exec (.volumeDelete c.e.cid) s = .next (after (discardLines (specField c.e 40 1) (volumeEnded (specField c.e 40 1) n s))) := by
  have h63 : ¬ 63 < specField c.e 40 1 := by omega
  have hnone : (volumeEnded (specField c.e 40 1) n s).qmx.cmds.filter
      (fun x => x.2.e.qid != 0 && x.2.e.vol == specField c.e 40 1 && !(volumeEnded (specField c.e 40 1) n s).hasBegun x.1 x.2) = [] := by
    refine List.filter_eq_nil_iff.mpr fun x hx hcond => ?_
    simp only [Bool.and_eq_true, bne_iff_ne, beq_iff_eq, Bool.not_eq_true'] at hcond
    have hcmds : (volumeEnded (specField c.e 40 1) n s).qmx.cmds = Assoc.set s.qmx.cmds n { c with begun := true } := by
      rw [volumeEnded_view (fun t => t.qmx.cmds) fun _ _ _ => rfl, onCmd_of_found h.found]
    rw [hcmds] at hx
    rcases mem_set hx with rfl | hx
    · exact hcond.1.1 hq
    · have hbegun : (volumeEnded (specField c.e 40 1) n s).hasBegun x.1 x.2 = s.hasBegun x.1 x.2 := by
        rw [volumeEnded_view (fun t => t.hasBegun x.1 x.2) fun _ _ _ => rfl]
        exact onCmd_view (fun t => t.hasBegun x.1 x.2) (fun _ _ => rfl) _ _ _
      rw [hbegun, hall x hx hcond.1.1 hcond.1.2] at hcond
      exact absurd hcond.2 (by decide)
  refine (exec_volumeDelete s).trans ((h.runAdmin_eq hq ho rfl _).trans ?_)
  simp only [h63, hb, hd, hf, Bool.true_eq_false, false_and, Option.isSome_none, Bool.false_eq_true, or_self, if_false]
  rw [volumeEnded] at hnone
  rw [hnone]
  rfl

/-- A volume that is gone: nothing is kept of it. -/
def volumeGone (v a : Nat) (s : State) : State :=
  let s1 := onCare a (fun x => { x with lost := x.lost.filter (fun r => r.vol != v) }) s
  { s1 with cmd := { s1.cmd with vols := Assoc.erase s1.cmd.vols v } }

theorem exec_volumeDeleteDrained_of {s : State} {v : Fin 64} {n : Nat} (hd : (s.volMeta v.val).deleting = some n)
    (hnone : ∀ x ∈ s.qmx.cmds, x.2.e.qid ≠ 0 → x.2.e.vol ≠ v.val) :
    exec (.volumeDeleteDrained v) s = .next (finish n St.success 0 (writeRecords (s.volArray v.val) (s.geo (s.volArray v.val)).slots
      (sendConfig [9, v.val] (volumeGone v.val (s.volArray v.val) s)))) := by
  have hany : s.qmx.cmds.any (fun p => p.2.e.qid != 0 && p.2.e.vol == v.val) = false := by
    refine List.any_eq_false.mpr fun p hp hcond => ?_
    simp only [Bool.and_eq_true, bne_iff_ne, beq_iff_eq] at hcond
    exact hnone p hp hcond.1 hcond.2
  rw [exec_volumeDeleteDrained, execVolumeDeleteDrained, hd]
  simp only [hany, Bool.false_eq_true, if_false]
  rfl

theorem volumeGone_fields (v a : Nat) (slots what : List Nat) (s : State) {t : State}
    (ht : t = writeRecords a slots (sendConfig what (volumeGone v a s))) :
    Assoc.find t.cmd.vols v = none ∧ (∀ r ∈ (t.care a).lost, r.vol ≠ v) ∧ Keeps [Reg.FOV_MIR_TX_CNT] s t := by
  obtain ⟨hcmd, hsas, hkeep⟩ := recorded_fields a slots what (volumeGone v a s)
  rw [ht, State.care, hcmd, hsas]
  refine ⟨?_, fun r hr => ?_, (Keeps.of_eq (t := s) (Keeps.refl _ _) rfl rfl).trans hkeep⟩
  · show Assoc.find (Assoc.erase s.cmd.vols v) v = none
    rw [Assoc.find_erase, if_pos rfl]
  · have hcare : Assoc.getD (volumeGone v a s).sas.arrays a {} = { s.care a with lost := (s.care a).lost.filter (fun r => r.vol != v) } := by
      show Assoc.getD (Assoc.set _ a _) a ({} : ArrayCare) = _
      rw [Assoc.getD, Assoc.find_set, if_pos rfl]
      rfl
    rw [hcare] at hr
    simpa using (List.mem_filter.mp hr).2

/-! Members -/

theorem exec_memberReplace_of {s : State} {n k : Nat} {c : Cmd} {d : Option DriveFacts} (h : MayRun s n c) (hq : c.e.qid = 0)
    (ho : adminOf c.e = some .memberReplace) (ha : specField c.e 40 1 < 4) (hv : s.on (Reg.STP_ARRAY_CFG_VALID (specField c.e 40 1)) = true)
    (hsrc : specField c.e 42 1 = specField c.e 41 1) (hslot : specField c.e 41 1 < 108)
    (he : (s.erasedSlots (specField c.e 40 1)).contains (specField c.e 41 1) = true)
    (hf : s.frontierOf 0 (specField c.e 40 1) (specField c.e 41 1) = none)
    (hr : (specField c.e 40 1, specField c.e 41 1) ∉ s.cmd.rebuildQueue) (hk : s.freeFrontier = some k)
    (hsub : ∀ j ∈ List.range 8, s.on (Reg.SAS_SUB_VALID j) = true → s.get (Reg.SAS_SUB_LOGICAL j) ≠ specField c.e 41 1)
    (hc : s.checkSlot (if s.awake (specField c.e 41 1) then [(specField c.e 41 1, d)] else []) (some (specField c.e 40 1)) (specField c.e 41 1)
      false true ((s.geo (specField c.e 40 1)).hdr + (s.geo (specField c.e 40 1)).rows * (s.geo (specField c.e 40 1)).unit) = .ok) :
    exec (.memberReplace c.e.cid d) s = .next (after (finish n St.success 0
      (newDrive (specField c.e 40 1) (specField c.e 41 1) (specField c.e 41 1) (startRebuild (specField c.e 40 1) (specField c.e 41 1) s)))) := by
  have h3 : ¬ 3 < specField c.e 40 1 := by omega
  have h107 : ¬ 107 < specField c.e 41 1 := by omega
  have hqueue : s.cmd.rebuildQueue.contains (specField c.e 40 1, specField c.e 41 1) = false := by simpa using hr
  have hnone : (List.range 8).find? (fun j => s.on (Reg.SAS_SUB_VALID j) && s.get (Reg.SAS_SUB_LOGICAL j) == specField c.e 41 1) = none := by
    refine List.find?_eq_none.mpr fun j hj hcond => ?_
    simp only [Bool.and_eq_true, beq_iff_eq] at hcond
    exact hsub j hj hcond.1 hcond.2
  have hfree : ∀ j, s.subFor (specField c.e 41 1) = some j → s.on (Reg.SAS_SUB_VALID j) = false := by
    intro j hj
    rw [State.subFor, hnone] at hj
    simpa using List.find?_some hj
  refine (exec_memberReplace s).trans ((h.runAdmin_eq hq ho rfl _).trans ?_)
  simp only [hsrc, h3, hv, Bool.true_eq_false, h107, or_self, if_false, he,
    Bool.not_true, hf, Option.isSome_none, hqueue, Bool.false_eq_true, ne_eq, not_true_eq_false, false_and, bne_self_eq_false, Bool.false_and, Bool.or_self, hc]
  have hzero : b2n false = 0 := rfl
  cases hs : s.subFor (specField c.e 41 1) with
  | none => simp only [hk, Option.isNone_some, hzero]
  | some j => simp only [hfree j hs, Bool.false_eq_true, if_false, hk, Option.isNone_some, hzero]

/-- Settles O34: each admin command that may run has the effect that its conditions select, before its completion goes out. -/
theorem adminCommandsComplete : Obligations.AdminCommandsComplete := by
  unfold Obligations.AdminCommandsComplete
  refine ⟨fun s n c hm hq ho hk => ?getFeature, fun s n c hm hq ho => ⟨fun hw hk => ?setFeature, fun hw hl => ?reached, fun hw hl hc => ?waits⟩,
    fun s n c hm hq ho hn hp => ?createQueue, fun s n c p hm hq ho hp hne hd hall => ?deleteQueue, fun s q n p hp hd hf => ?drained,
    fun s n uuid c drives hm hq ho ha hv hs hl hc hslots hne => ?arrayCreate, fun s n c hm hq ho ha hv hr ht => ?arrayDelete,
    fun s n uuid b c hm hq ho hv hb hval ha hav hne hbase hfree => ?volumeCreate, fun s v row hf hm hb hr hawake => ?volumeFormat,
    fun s n c hm hq ho hv hb hd hf hall => ?volumeDelete, fun s v n hd hnone => ?volumeDrained,
    fun s n k c d hm hq ho ha hv hsrc hslot he hf hr hk hsub hc => ?memberReplace⟩
  case getFeature => exact .of_next (g := fun t => after (finish n St.success _ t)) (exec_getFeature_of (mayRun_iff hm) hq ho hk) rfl
  case setFeature =>
    exact .of_next (g := fun t => after (finish n St.success 0 t)) (exec_setFeature_of (mayRun_iff hm) hq ho hw hk) (setFeature_fields c.e s rfl)
  case reached =>
    obtain ⟨hfeat, hforce, -⟩ := wtAsked_fields n hw s
    exact .of_next (g := fun t => after (finish n St.success 0 t)) (exec_setWt_of_reached (mayRun_iff hm) hq ho hw hl)
      ⟨hfeat, (get_of_regs _ rfl).trans hforce⟩
  case waits =>
    obtain ⟨hfeat, hforce, -, hmem, hjnl⟩ := wtAsked_fields n hw s
    refine .of_next (g := after) (exec_setWt_of_waits (mayRun_iff hm) hq ho hw hl hc) ⟨hfeat, (get_of_regs _ rfl).trans hforce, ?_, hmem⟩
    exact congrArg JnlPart.toWt (hjnl hl)
  case createQueue =>
    refine .of_next (g := fun t => after (finish n St.success 0 t)) (exec_createIoQueue_of (mayRun_iff hm) hq ho hn hp)
      ⟨?_, keeps_written_iff.mpr (Keeps.refl _ _)⟩
    exact (Assoc.find_set _ _ _ _).trans (if_pos rfl)
  case deleteQueue =>
    have h := mayRun_iff hm
    exact .of_next (g := after) (exec_deleteIoQueue_of h hq ho hp hne hd hall) (deleteBegun_fields h.found hp rfl)
  case drained => exact .of_next (g := finish n St.success 0) (exec_queueDeleteDrained_of hp hd hf) (queueGone_fields q p s rfl)
  case arrayCreate =>
    obtain ⟨rows, hrows⟩ : ∃ rows, rows = rowsFor (createGeo c.e 0) (((createGeo c.e 0).slots.filterMap
      (fun x => (s.factsOf drives x).join.map (fun f => f.bytes))).foldl min (((createGeo c.e 0).slots.filterMap
        (fun x => (s.factsOf drives x).join.map (fun f => f.bytes))).headD 0)) := ⟨_, rfl⟩
    have hfields := createArray_fields ha uuid (createGeo c.e rows) s rfl
    exact .of_next (g := fun t => after (finish n St.success 0 t))
      (exec_arrayCreate_of (mayRun_iff hm) hq ho ha hv hs hl hc hslots hrows (by rw [hrows]; exact hne)) hfields
  case arrayDelete =>
    have hvol : s.hasVolume (specField c.e 40 1) = false := (Bool.or_eq_false_iff.mp hr).1
    exact .of_next (g := fun t => after (finish n St.success 0 t)) (exec_arrayDelete_of (mayRun_iff hm) hq ho ha hv hr ht)
      ⟨valid_deleteArray ha hvol, deleted_deleteArray _ s⟩
  case volumeCreate =>
    exact .of_next (g := fun t => after (finish n St.success 0 t))
      (exec_volumeCreate_of (mayRun_iff hm) hq ho hv hb hval ha hav hne hbase rfl hfree) (bindVolume_fields hv ha b _ uuid hval rfl)
  case volumeFormat =>
    obtain ⟨-, -, hkeep⟩ := recorded_fields (s.volMeta v.val).array (s.geo (s.volMeta v.val).array).slots
      [9, v.val, (s.volMeta v.val).array, (s.volMeta v.val).base, (s.volMeta v.val).rows, row] s
    exact ⟨_, exec_volumeFormat_of hf hm hb hr hawake, hkeep⟩
  case volumeDelete =>
    exact .of_next (g := fun t => after (discardLines (specField c.e 40 1) t)) (exec_volumeDelete_of (mayRun_iff hm) hq ho hv hb hd hf hall)
      (volumeEnded_fields (specField c.e 40 1) n s rfl)
  case volumeDrained =>
    exact .of_next (g := finish n St.success 0) (exec_volumeDeleteDrained_of hd hnone) (volumeGone_fields v.val _ _ _ s rfl)
  case memberReplace =>
    exact .of_next (g := fun t => after (finish n St.success 0 t))
      (exec_memberReplace_of (mayRun_iff hm) hq ho ha hv hsrc hslot he hf hr hk hsub hc) rfl

end Sys2Proof.Machine
end

section
/-! Self-tests and the power state (R249 to R255): what the module class's commands of the obligation O35 leave of them. -/

open Sys2Proof

namespace Sys2Proof.Machine

section Commands
variable {s : State} {n : Nat} {c : Cmd} (h : MayRun s n c) (hq : c.e.qid = 0)
include h hq

/-! Self-tests -/

theorem exec_selfTestShort_of (ho : adminOf c.e = some .selfTest) (hc : optCode c.e = 1) :
    exec (.selfTestShort c.e.cid) s = .next (after (startTest n 1 s)) := by
  refine (exec_selfTestShort s).trans ((h.runAdmin_eq hq ho (by rw [hc]; rfl) _).trans ?_)
  rw [if_pos hc]

theorem exec_selfTestExtended_of (ho : adminOf c.e = some .selfTest) (hc : optCode c.e = 2) :
    exec (.selfTestExtended c.e.cid) s = .next (after (startTest n 2 s)) :=
  (exec_selfTestExtended s).trans (h.runAdmin_eq hq ho (by rw [hc]; rfl) _)

theorem exec_selfTestAbort_of (ho : adminOf c.e = some .selfTest) (hc : optCode c.e = 15) :
    exec (.selfTestAbort c.e.cid) s = .next (after (finish n St.success 0 (endTest 2 0 s))) :=
  (exec_selfTestAbort s).trans (h.runAdmin_eq hq ho (by rw [hc]; rfl) _)

end Commands

theorem startTest_of_idle {n kind : Nat} {s : State} (h : s.cmd.testRunning = 0) :
    startTest n kind s = finish n St.success 0 (beginTest kind s) := if_neg (not_not.mpr h)

theorem startTest_of_running {n kind : Nat} {s : State} (h : s.cmd.testRunning ≠ 0) : startTest n kind s = finish n St.selfTest 0 s := if_pos h

theorem beginTest_fields (kind : Nat) (s : State) {t : State} (ht : t = beginTest kind s) :
    t.cmd.testRunning = kind ∧ t.cmd.testStart = s.clock ∧ t.cmd.testSuspended = s.ioInFlight ∧ t.cmd.testGrazes = false ∧ Keeps [] s t := by
  rw [ht]
  exact ⟨rfl, rfl, rfl, rfl, keeps_written_iff.mpr (Keeps.refl _ _)⟩

/-- A running test has ended: its result comes first among those kept. -/
theorem endTest_fields {r f : Nat} {s : State} (h : s.cmd.testRunning ≠ 0) {t : State} (ht : t = endTest r f s) :
    t.cmd.testRunning = 0 ∧ t.cmd.testResults.head? = some ⟨s.cmd.testRunning, r, f, s.nowMs, s.cmd.testRows, s.cmd.testMismatch⟩
    ∧ Keeps [] s t := by
  rw [ht, endTest, if_neg h]
  exact ⟨rfl, rfl, .of_eq (t := s) (Keeps.refl _ _) rfl rfl⟩

/-- A suspended test goes on. -/
def testResumed (s : State) : State :=
  { s with cmd := { s.cmd with testSuspended := false, testStart := s.cmd.testStart + (s.clock - s.cmd.testPaused) } }

theorem exec_selfTestResume_of {s : State} (hs : s.cmd.testSuspended = true) (hp : s.ioPending = false) (hf : s.ioInFlight = false) :
    exec .selfTestResume s = .next (testResumed s) := by
  rw [exec_selfTestResume, execSelfTestResume, if_pos (by simp [hs, hp, hf]), testResumed]

/-- A pack slot written again is no register and no record of a test. -/
theorem healLcap_view {α : Type} (v : State → α) (hv : ∀ (s : State) m, v { s with mem := m } = v s) (s : State) : v (healLcap s) = v s := by
  have hbytes (a : Nat) (l : List Nat) (t : State) : v (writeBytes a l t) = v t := by
    induction l generalizing a t with
    | nil => rfl
    | cons b l ih => exact (ih (a + 1) (writeByte a (BitVec.ofNat 8 b) t)).trans (hv t _)
  unfold healLcap
  split
  · exact when_of_eq _ v (hbytes _ _ _)
  · exact when_of_eq _ v (hbytes _ _ _)
  · rfl

theorem shortFails_of {s : State} (h : s.lcapLost = false) (step : Nat) : s.shortFails ⟨step, [], []⟩ = step := by
  unfold State.shortFails
  simp only [h, Bool.false_eq_true, if_false, List.isEmpty_nil, if_true]
  cases step with
  | zero => rfl
  | succ k => simp

/-- SHORT has found its step that fails, if any, and with no array to graze the test ends. -/
def shortDone (step : Nat) (s : State) : State :=
  endTest (if step = 0 then 0 else 1) step { healLcap s with cmd := { (healLcap s).cmd with testFail := step, testGrazes := true, testLeft := [] } }

theorem exec_selfTestDone_of {s : State} {step : Nat} {reads : List (Nat × RowTwice)} (hs : s.cmd.testSuspended = false)
    (hg : s.cmd.testGrazes = false) (hl : s.lcapLost = false) (hr : s.cmd.testRunning = 1 ∨ s.cmd.testRunning = 2 ∧ s.validArrays = []) :
    exec (.selfTestDone ⟨step, [], []⟩ reads) s = .next (after (shortDone step s)) := by
  have hne : s.cmd.testRunning ≠ 0 := by rcases hr with h | h <;> omega
  have hleft : (if s.cmd.testRunning = 2 then s.validArrays else []) = [] := by
    rcases hr with h | ⟨-, h⟩
    · rw [if_neg (by omega)]
    · rw [h, ite_self]
  have hshort : endShort ⟨step, [], []⟩ s = healLcap s := rfl
  rw [exec_selfTestDone, execSelfTestDone, if_neg (by simp [hne, hs])]
  simp only [hg, Bool.not_false, if_true, hleft, shortFails_of hl, hshort]
  rfl

theorem shortDone_fields {step : Nat} {s : State} (hr : s.cmd.testRunning ≠ 0) {t : State} (ht : t = shortDone step s) :
    t.cmd.testRunning = 0 ∧ t.cmd.testResults.head?
      = some ⟨s.cmd.testRunning, if step = 0 then 0 else 1, step, s.nowMs, s.cmd.testRows, s.cmd.testMismatch⟩
    ∧ ∀ f : Field, t.get f = s.get f := by
  have hcmd : (healLcap s).cmd = s.cmd := healLcap_view State.cmd (fun _ _ => rfl) s
  have hclock : (healLcap s).nowMs = s.nowMs := healLcap_view State.nowMs (fun _ _ => rfl) s
  obtain ⟨u, hu⟩ : ∃ u : State, u = { healLcap s with cmd := { (healLcap s).cmd with testFail := step, testGrazes := true, testLeft := [] } } := ⟨_, rfl⟩
  have hrun : u.cmd.testRunning = s.cmd.testRunning := by rw [hu, ← hcmd]
  have hrows : u.cmd.testRows = s.cmd.testRows ∧ u.cmd.testMismatch = s.cmd.testMismatch := by rw [hu, ← hcmd]; exact ⟨rfl, rfl⟩
  have hnow : u.nowMs = s.nowMs := by rw [hu, ← hclock]; rfl
  obtain ⟨hend, hres, hkeep⟩ := endTest_fields (r := if step = 0 then 0 else 1) (f := step) (s := u) (by rw [hrun]; exact hr)
    (ht.trans (by rw [hu]; rfl))
  rw [hrun, hrows.1, hrows.2, hnow] at hres
  refine ⟨hend, hres, fun f => (hkeep.get (by simp)).trans ?_⟩
  rw [hu]
  exact (get_of_regs f rfl).trans (healLcap_view (State.get · f) (fun _ _ => rfl) s)

/-! The power state -/

/-- A command's own record, set aside with a list of the firmware's. -/
theorem beginCmd_fields {n : Nat} {c : Cmd} {s : State} (hc : s.cmd? n = some c) :
    beginCmd n s = { s with qmx := { s.qmx with cmds := Assoc.set s.qmx.cmds n { c with begun := true } } } := onCmd_of_found hc _

theorem cmd?_beginCmd {n : Nat} {c : Cmd} {s : State} (hc : s.cmd? n = some c) : (beginCmd n s).cmd? n = some { c with begun := true } :=
  cmd?_onCmd_self hc _

theorem keeps_beginCmd_iff {fs : List Field} {n : Nat} {s t : State} : Keeps fs s (beginCmd n t) ↔ Keeps fs s t := keeps_onCmd_iff

theorem cmd_beginCmd (n : Nat) (s : State) : (beginCmd n s).cmd = s.cmd := onCmd_view State.cmd (fun _ _ => rfl) _ _ _

theorem mode_of_keeps {s t : State} (h : Keeps [] s t) : t.mode = s.mode := h.get (by simp)

theorem awaitPark_fields {n : Nat} {c : Cmd} {s : State} (hc : s.cmd? n = some c) : n ∈ (awaitPark n s).cmd.parkCmds
    ∧ (awaitPark n s).cmd? n = some { c with begun := true } ∧ Keeps [] s (awaitPark n s) := by
  refine ⟨?_, cmd?_beginCmd hc, keeps_beginCmd_iff.mpr (keeps_written_iff.mpr (Keeps.refl _ _))⟩
  rw [awaitPark, cmd_beginCmd]
  exact mem_addOnce _ _

theorem awaitWake_fields {n : Nat} {c : Cmd} {s : State} (hc : s.cmd? n = some c) : n ∈ (awaitWake n s).cmd.wakeCmds
    ∧ (awaitWake n s).cmd? n = some { c with begun := true } ∧ Keeps [] s (awaitWake n s) := by
  refine ⟨?_, cmd?_beginCmd hc, keeps_beginCmd_iff.mpr (keeps_written_iff.mpr (Keeps.refl _ _))⟩
  rw [awaitWake, cmd_beginCmd]
  exact mem_addOnce _ _

/-- A park that waits for its mode. -/
def parkAsked (n : Nat) (s : State) : State := { awaitPark n s with sys := { (awaitPark n s).sys with parkPending := true } }

theorem parkAsked_fields {n : Nat} {c : Cmd} {s : State} (hc : s.cmd? n = some c) {t : State} (ht : t = parkAsked n s) :
    t.sys.parkPending = true ∧ n ∈ t.cmd.parkCmds ∧ t.cmd? n = some { c with begun := true } ∧ Keeps [] s t := by
  obtain ⟨hmem, hcmd, hkeep⟩ := awaitPark_fields hc
  rw [ht]
  exact ⟨rfl, hmem, hcmd, .of_eq hkeep rfl rfl⟩

section Power
variable {s : State} {n : Nat} {c : Cmd} (h : MayRun s n c) (hq : c.e.qid = 0) (ho : adminOf c.e = some .powerState)
include h hq ho

theorem exec_powerStateQuery_of (hc : optCode c.e = 0) :
    exec (.powerStateQuery c.e.cid) s = .next (after (finish n St.success s.mode s)) := by
  refine (exec_powerStateQuery s).trans ((h.runAdmin_eq hq ho (by rw [hc]; rfl) _).trans ?_)
  rw [if_pos hc]

theorem exec_powerStatePark_eq (hc : optCode c.e = 1) : exec (.powerStatePark c.e.cid) s = .next (after (
    if s.mode = Mode.parked then finish n St.success s.mode s
    else if s.modeIn [Mode.waking, Mode.takeover, Mode.serving] then settle (parkAsked n s)
    else if s.mode = Mode.draining then awaitPark n s
    else finish n St.notActive s.mode s)) :=
  (exec_powerStatePark s).trans (h.runAdmin_eq hq ho (by rw [hc]; rfl) _)

theorem exec_powerStatePark_of_parked (hc : optCode c.e = 1) (hm : s.mode = Mode.parked) :
    exec (.powerStatePark c.e.cid) s = .next (after (finish n St.success 0 s)) := by
  rw [exec_powerStatePark_eq h hq ho hc, if_pos hm, hm]
  rfl

theorem exec_powerStatePark_of_up (hc : optCode c.e = 1) (hm : s.mode = Mode.serving ∨ s.mode = Mode.waking ∨ s.mode = Mode.takeover) :
    exec (.powerStatePark c.e.cid) s = .next (after (settle (parkAsked n s))) := by
  rw [exec_powerStatePark_eq h hq ho hc, if_neg, if_pos]
  · rcases hm with hm | hm | hm <;> rw [State.modeIn, hm] <;> decide
  · rcases hm with hm | hm | hm <;> rw [hm] <;> decide

theorem exec_powerStatePark_of_standby (hc : optCode c.e = 1) (hm : s.mode = Mode.standby) :
    exec (.powerStatePark c.e.cid) s = .next (after (finish n St.notActive 4 s)) := by
  rw [exec_powerStatePark_eq h hq ho hc, if_neg (by rw [hm]; decide), if_neg (by rw [State.modeIn, hm]; decide), if_neg (by rw [hm]; decide), hm]
  rfl

theorem exec_powerStateWake_of_serving (hc : optCode c.e = 2) (hm : s.mode = Mode.serving) :
    exec (.powerStateWake c.e.cid) s = .next (after (finish n St.success 2 s)) := by
  refine (exec_powerStateWake s).trans ((h.runAdmin_eq hq ho (by rw [hc]; rfl) _).trans ?_)
  rw [if_pos hm, hm]
  rfl

theorem exec_powerStateWake_of_coming (hc : optCode c.e = 2) (hm : s.mode = Mode.waking ∨ s.mode = Mode.takeover) :
    exec (.powerStateWake c.e.cid) s = .next (after (awaitWake n s)) := by
  refine (exec_powerStateWake s).trans ((h.runAdmin_eq hq ho (by rw [hc]; rfl) _).trans ?_)
  rw [if_neg, if_neg, if_pos]
  · rcases hm with hm | hm <;> rw [State.modeIn, hm] <;> decide
  · rcases hm with hm | hm <;> rw [hm] <;> decide
  · rcases hm with hm | hm <;> rw [hm] <;> decide

end Power

end Sys2Proof.Machine
end

section
/-! The control commands of the host (R249 to R261): the obligation O35. -/

open Sys2Proof

namespace Sys2Proof.Machine

/-! Roles -/

/-- A command of ROLE_CONTROL that waits, with the handover it wants (R258). -/
def handoverAsked (action n : Nat) (s : State) : State :=
  { awaitRole n action s with fov := { (awaitRole n action s).fov with
      handoverDue := true, toService := (awaitRole n action s).fov.toService || false } }

theorem roleCmds_awaitRole (n a : Nat) (s : State) : (n, a) ∈ (awaitRole n a s).cmd.roleCmds := by
  rw [awaitRole, cmd_beginCmd]
  exact List.mem_append_right _ (List.mem_singleton_self _)

theorem keeps_awaitRole (n a : Nat) (s : State) : Keeps [] s (awaitRole n a s) :=
  keeps_beginCmd_iff.mpr (keeps_written_iff.mpr (Keeps.refl _ _))

theorem fov_awaitRole (n a : Nat) (s : State) : (awaitRole n a s).fov = s.fov := onCmd_view State.fov (fun _ _ => rfl) _ _ _

theorem wantHandover_awaitRole {n a : Nat} {s : State} (h : s.fov.handover = 0) :
    wantHandover false (awaitRole n a s) = handoverAsked a n s := by
  have hz : (awaitRole n a s).fov.handover = 0 := by rw [fov_awaitRole, h]
  rw [wantHandover, if_neg (not_not.mpr hz)]
  rfl

theorem handoverAsked_fields (action n : Nat) (s : State) {t : State} (ht : t = handoverAsked action n s) :
    t.fov.handoverDue = true ∧ t.fov.holdoffStart = s.fov.holdoffStart ∧ (n, action) ∈ t.cmd.roleCmds ∧ Keeps [] s t := by
  rw [ht]
  exact ⟨rfl, (congrArg FovPart.holdoffStart (fov_awaitRole n action s) : (awaitRole n action s).fov.holdoffStart = _), roleCmds_awaitRole n action s,
    .of_eq (t := awaitRole n action s) (keeps_awaitRole n action s) rfl rfl⟩

/-- SERVICE is asked for (R258). -/
def serviceAsked (n : Nat) (s : State) : State := { awaitRole n 2 s with sys := { (awaitRole n 2 s).sys with servicePending := true } }

theorem serviceAsked_fields (n : Nat) (s : State) {t : State} (ht : t = serviceAsked n s) :
    t.sys.servicePending = true ∧ (n, 2) ∈ t.cmd.roleCmds ∧ Keeps [] s t := by
  rw [ht]
  exact ⟨rfl, roleCmds_awaitRole n 2 s, .of_eq (t := awaitRole n 2 s) (keeps_awaitRole n 2 s) rfl rfl⟩

/-- SERVICE is left for STANDBY, the partner holding ACTIVE_N (R27). -/
def leftForStandby (s : State) : State := enterStandby (roleChanged s.role 0 (setF Reg.FOV_CTRL_STANDBY_ROLE 1 s))

theorem get_leftForStandby {s : State} {f : Field} (ho : ¬ outerKey f.key) (hf : f.key ∉ fwRingFields.map Field.key) :
    (leftForStandby s).get f = (standbyBegun (roleChanged s.role 0 (setF Reg.FOV_CTRL_STANDBY_ROLE 1 s))).get f :=
  ((within_enterStandby _).get ho).trans (get_abortMembers hf)

theorem leftForStandby_fields (s : State) : (leftForStandby s).mode = Mode.standby ∧ (leftForStandby s).get Reg.FOV_CTRL_STANDBY_ROLE = 1
    ∧ (leftForStandby s).get Reg.PWR_CTRL_STANDBY_OFFSET = 1 := by
  refine ⟨?_, ?_, ?_⟩
  · rw [State.mode, get_leftForStandby (by decide) (by decide), ← State.mode]
    exact mode_standbyBegun _
  · rw [get_leftForStandby (by decide) (by decide), get_standbyBegun (by decide) (by decide) (by decide),
      (within_roleChanged _ _ _).get (by decide), get_setF_one rfl]
  · rw [get_leftForStandby (by decide) (by decide), standbyBegun]
    exact get_offset_setOffset true _

/-- SERVICE is left for WAKING, with both lines claimed (R27). -/
def leftForWaking (s : State) : State := leaveParked (claimLines s)

theorem mode_leaveParked (s : State) : (leaveParked s).mode = Mode.waking := by
  refine (get_of_regs _ rfl).trans ((when_of_eq _ State.mode (get_setF_ne _ _ _ _ (by decide))).trans ?_)
  rw [State.mode, get_setF_ne _ _ _ _ (by decide)]
  exact mode_toMode (by decide) _

theorem convEn_leaveParked (s : State) : (leaveParked s).get Reg.PWR_CTRL_CONV_EN = 1 := by
  refine (get_of_regs _ rfl).trans ((when_of_eq _ (State.get · Reg.PWR_CTRL_CONV_EN) (get_setF_ne _ _ _ _ (by decide))).trans ?_)
  exact get_setF_one rfl _

theorem leftForWaking_fields (s : State) : (leftForWaking s).mode = Mode.waking ∧ (leftForWaking s).get Reg.FOV_CTRL_CLAIM = 1
    ∧ (leftForWaking s).get Reg.PWR_CTRL_CONV_EN = 1 :=
  ⟨mode_leaveParked _, (get_leaveParked (by decide) (by decide)).trans (claimLines_fields s).1, convEn_leaveParked _⟩

/-- The preferred module is written on both modules (R258, R359). -/
def preferredSet (b : Nat) (s : State) : State :=
  sendMir .config ((setF Reg.FOV_CTRL_PREF_B b s).configArgs [10]) (setF Reg.FOV_CTRL_PREF_B b s)

theorem preferredSet_fields {b : Nat} (hb : b < 2) (s : State) {t : State} (ht : t = preferredSet b s) :
    t.get Reg.FOV_CTRL_PREF_B = b ∧ Keeps [Reg.FOV_CTRL_PREF_B, Reg.FOV_MIR_TX_CNT] s t := by
  rw [ht]
  refine ⟨?_, keeps_sendMir ((Keeps.refl _ _).setF _ _ (by decide)) (by decide)⟩
  rw [preferredSet, get_sendMir (by decide)]
  exact get_setF_of_lt hb s

/-- The hold-off is over at the host's word (R258, R372). -/
def holdoffCut (s : State) : State :=
  { s with fov := { s.fov with holdoffStart := none, holdoffOver := s.fov.holdoffStart.isSome || s.fov.holdoffOver } }

theorem mode_exchangeRoles {s : State} (h : s.mode = Mode.parked) : (exchangeRoles s).mode = 0 := by
  have hget : (exchangeRoles s).mode = s.mode := by
    refine ((within_roleChanged _ _ _).get (by decide)).trans ?_
    rw [get_setF_ne _ _ _ _ (by decide), get_setF_ne _ _ _ _ (by decide)]
    exact (within_fanRelease s).get (by decide)
  rw [hget, h]
  rfl

theorem mayRevert_fields {s : State} {tested persists : Bool} (h : s.mayRevert tested persists = true) :
    s.active = true ∧ s.partnerLive = true ∧ s.mode = Mode.serving := by
  simp only [State.mayRevert, Bool.and_eq_true, beq_iff_eq] at h
  exact ⟨h.1.1.1.1.1.1, h.1.1.1.1.2, h.1.2⟩

section Roles
variable {s : State} {n : Nat} {c : Cmd} (h : MayRun s n c) (hq : c.e.qid = 0) (ho : adminOf c.e = some .roleControl)
include h hq ho

theorem exec_swap_of_ready (hc : optCode c.e = 1) (ha : s.active = true) (hh : s.on Reg.FOV_CTRL_HOLD = false) (hp : s.partnerLive = true)
    (hz : s.fov.handover = 0) : exec (.swap c.e.cid) s = .next (after (settle (handoverAsked 1 n s))) := by
  refine (exec_swap s).trans ((h.runAdmin_eq hq ho (by rw [hc]; rfl) _).trans ?_)
  simp only [hc, ha, hh, hp, ne_eq, not_true_eq_false, Bool.not_true, Bool.false_eq_true, if_false, wantHandover_awaitRole hz]

theorem exec_swap_of_standby (hc : optCode c.e = 1) (ha : s.active = false) :
    exec (.swap c.e.cid) s = .next (after (finish n St.notActive s.mode s)) := by
  refine (exec_swap s).trans ((h.runAdmin_eq hq ho (by rw [hc]; rfl) _).trans ?_)
  simp only [hc, ha, ne_eq, not_true_eq_false, Bool.not_false, if_true, if_false]

theorem exec_enterService_of_standby (hc : optCode c.e = 2) (hm : s.mode ≠ Mode.service) (hh : s.on Reg.FOV_CTRL_HOLD = false)
    (ha : s.active = false) : exec (.enterService c.e.cid) s = .next (after (settle (serviceAsked n s))) := by
  refine (exec_enterService s).trans ((h.runAdmin_eq hq ho (by rw [roleAction, hc]; rfl) _).trans ?_)
  simp only [hm, hh, ha, Bool.false_and, Bool.false_eq_true, if_false]
  rfl

theorem exec_enterService_of_alone (hc : optCode c.e = 2) (hm : s.mode ≠ Mode.service) (hh : s.on Reg.FOV_CTRL_HOLD = false)
    (ha : s.active = true) (hp : s.partnerLive = false) (hb : bitOf c.e.options 8 = 0) :
    exec (.enterService c.e.cid) s = .next (after (finish n St.invalidField (512 + s.mode) s)) := by
  refine (exec_enterService s).trans ((h.runAdmin_eq hq ho (by rw [roleAction, hc]; rfl) _).trans ?_)
  simp only [hm, hh, ha, hp, hb, Bool.and_false, Bool.true_and, beq_self_eq_true, Bool.false_eq_true, if_false, if_true]
  rfl

theorem exec_leaveService_of_partner (hc : optCode c.e = 3) (hm : s.mode = Mode.service) (hp : s.sys.posConflict = false)
    (hf : s.on Reg.RPR_POST_FATAL = false) (hl : s.on Reg.FOV_STATUS_ACTIVE_LINE = true) :
    exec (.leaveService c.e.cid) s = .next (after (settle (finish n St.success 4 (leftForStandby s)))) := by
  refine (exec_leaveService s).trans ((h.runAdmin_eq hq ho (by rw [roleAction, hc]; rfl) _).trans ?_)
  have hmode : (leftForStandby s).mode = 4 := (leftForStandby_fields s).1
  rw [leftForStandby] at hmode
  simp only [hm, hp, hf, hl, Bool.or_self, Bool.false_eq_true, if_false, if_true, hmode, ne_eq, not_true_eq_false]
  rfl

theorem exec_leaveService_of_free (hc : optCode c.e = 3) (hm : s.mode = Mode.service) (hp : s.sys.posConflict = false)
    (hf : s.on Reg.RPR_POST_FATAL = false) (hl : s.on Reg.FOV_STATUS_ACTIVE_LINE = false) :
    exec (.leaveService c.e.cid) s = .next (after (settle (finish n St.success 1 (leftForWaking s)))) := by
  refine (exec_leaveService s).trans ((h.runAdmin_eq hq ho (by rw [roleAction, hc]; rfl) _).trans ?_)
  have hmode : (leaveParked (claimLines s)).mode = 1 := (leftForWaking_fields s).1
  simp only [hm, hp, hf, hl, Bool.or_self, Bool.false_eq_true, if_false, hmode, ne_eq, not_true_eq_false]
  rfl

theorem exec_setPreferred_of (hc : optCode c.e = 4) (hb : specField c.e 40 1 < 2) :
    exec (.setPreferred c.e.cid) s = .next (after (finish n St.success s.mode (preferredSet (specField c.e 40 1) s))) := by
  have h1 : ¬ 1 < specField c.e 40 1 := by omega
  have hmode : (setF Reg.FOV_CTRL_PREF_B (specField c.e 40 1) s).mode = s.mode := get_setF_ne _ _ _ _ (by decide)
  refine (exec_setPreferred s).trans ((h.runAdmin_eq hq ho (by rw [roleAction, hc]; rfl) _).trans ?_)
  simp only [h1, if_false, hmode]
  rfl

theorem exec_revertNow_of_parked {tested persists : Bool} (hc : optCode c.e = 5) (hh : s.on Reg.FOV_CTRL_HOLD = false)
    (hx : s.mayExchange = true) :
    exec (.revertNow c.e.cid tested persists) s = .next (after (finish n St.success 0 (exchangeRoles s))) := by
  obtain ⟨ha, hm⟩ : s.active = true ∧ s.mode = Mode.parked := by
    simp only [State.mayExchange, Bool.and_eq_true, beq_iff_eq] at hx
    exact ⟨hx.1.1.1.1, hx.1.1.2⟩
  refine (exec_revertNow s).trans ((h.runAdmin_eq hq ho (by rw [roleAction, hc]; rfl) _).trans ?_)
  simp only [hh, ha, hx, Bool.not_true, Bool.false_eq_true, if_false, if_true, mode_exchangeRoles hm]

theorem exec_revertNow_of_serving {tested persists : Bool} (hc : optCode c.e = 5) (hh : s.on Reg.FOV_CTRL_HOLD = false)
    (hr : s.mayRevert tested persists = true) (hz : s.fov.handover = 0) :
    exec (.revertNow c.e.cid tested persists) s = .next (after (settle (handoverAsked 5 n (holdoffCut s)))) := by
  obtain ⟨ha, hp, hm⟩ := mayRevert_fields hr
  have hx : s.mayExchange = false := by
    rw [State.mayExchange, hm]
    simp only [Bool.and_eq_false_iff]
    exact .inl (.inl (.inr rfl))
  have hcut : (holdoffCut s).mayRevert tested persists = true := hr
  rw [holdoffCut] at hcut
  refine (exec_revertNow s).trans ((h.runAdmin_eq hq ho (by rw [roleAction, hc]; rfl) _).trans ?_)
  simp only [hh, ha, hx, hp, hcut, Bool.not_true, Bool.false_eq_true, if_false, if_true]
  rw [wantHandover_awaitRole (by exact hz)]
  rfl

end Roles

/-! Firmware -/

theorem view_readHost {α : Type} (v : State → α) (hv : ∀ (s : State) o, v { s with out := o } = v s) (a n : Nat) (s : State) :
    v (readHost a n s) = v s := view_forEach (g := fun p : Nat × Nat × Nat => emit (.hostRead p.1 p.2.1 s.hostAttr)) v (fun _ t => hv t _) s

theorem view_fromHost {α : Type} (v : State → α) (hv : ∀ (s : State) o, v { s with out := o } = v s) (e : Entry) (s : State) :
    v (fromHost e s) = v s := view_forEach (g := fun p : Nat × Nat => readHost p.1 p.2) v (fun _ t => view_readHost v hv _ _ t) s

/-- A piece of an image, put with those staged before (R259). -/
def pieceStaged (off len : Nat) (data : List Nat) (s : State) : State :=
  { s with cmd := { s.cmd with staged := (if off = 0 then [] else s.cmd.staged.filter (fun p => p.1 != off)) ++ [(off, padTo len data)] } }

theorem pieceStaged_fields (off len : Nat) (data : List Nat) (e : Entry) (s : State) {t : State} (ht : t = pieceStaged off len data (fromHost e s)) :
    (off, padTo len data) ∈ t.cmd.staged ∧ (off = 0 → t.cmd.staged = [(0, padTo len data)]) ∧ Keeps [] s t := by
  rw [ht]
  refine ⟨List.mem_append_right _ (List.mem_singleton_self _), fun h => ?_, .of_eq (Keeps.refl _ _)
    (view_fromHost State.regs (fun _ _ => rfl) e s) (view_fromHost State.mem (fun _ _ => rfl) e s)⟩
  rw [h]
  rfl

theorem exec_firmwareStage_of {s : State} {n : Nat} {c : Cmd} {data : List Nat} (h : MayRun s n c) (hq : c.e.qid = 0)
    (ho : adminOf c.e = some .firmwareStage) (h1 : specField c.e 40 4 % 4096 = 0) (h2 : bufferLen c.e % 4096 = 0) (h3 : bufferLen c.e ≤ 2 ^ 20)
    (h4 : specField c.e 40 4 + bufferLen c.e ≤ 2 ^ 26) (hb : s.bufferOk c.e (bufferLen c.e) = true) :
    exec (.firmwareStage ⟨c.e.cid, data⟩) s
      = .next (after (finish n St.success 0 (pieceStaged (specField c.e 40 4) (bufferLen c.e) data (fromHost c.e s)))) := by
  refine (exec_firmwareStage s).trans ((h.runAdmin_eq hq ho rfl _).trans ?_)
  rw [if_neg (by rintro (h | h | h | h) <;> omega), withBuffer, if_pos hb]
  rfl

/-- What a commit that stores finds (R260). -/
theorem storeRefusal_fields {s : State} {e : Entry} {x : ImageFacts} (h : s.storeRefusal e x = 0) : commitSlot e = 1 ∨ commitSlot e = 2 := by
  unfold State.storeRefusal at h
  by_contra hne
  rw [not_or] at hne
  simp [hne] at h

theorem commitSlot_lt (e : Entry) : commitSlot e < 4 := Nat.mod_lt _ (by decide)

theorem image_storeImage (slot number : Nat) (s : State) : Assoc.find (storeImage slot number s).sys.images slot = some number := by
  show Assoc.find (Assoc.set _ slot number) slot = _
  rw [Assoc.find_set, if_pos rfl]

theorem keeps_storeImage {fs : List Field} {s t : State} {slot number : Nat} : Keeps fs s (storeImage slot number t) ↔ Keeps fs s t :=
  keeps_congr rfl rfl

/-- The state in which the cores restart on a committed image. -/
def imageReady (n slot number : Nat) (s : State) : State :=
  setF Reg.SYS_BOOT_TRIES 0 (setF Reg.SYS_BOOT_NEXT_SLOT slot (storeImage slot number (onCmd n (fun x => { x with begun := true }) s)))

theorem nextSlot_imageReady {slot : Nat} (hs : slot < 4) (n number : Nat) (s : State) :
    (imageReady n slot number s).get Reg.SYS_BOOT_NEXT_SLOT = slot := by
  rw [imageReady, get_setF_ne _ _ _ _ (by decide)]
  exact get_setF_of_lt hs _

theorem bootable_imageReady {slot : Nat} (hs : slot < 4) (n number : Nat) (s : State) : (imageReady n slot number s).bootable := by
  rw [State.bootable, nextSlot_imageReady hs]
  exact Option.isSome_iff_exists.mpr ⟨number, image_storeImage slot number _⟩

section Commit
variable {s : State} {n : Nat} {c : Cmd} {im : ImageFacts} (h : MayRun s n c) (hq : c.e.qid = 0) (ho : adminOf c.e = some .firmwareCommit)
include h hq ho

theorem exec_fwCommitStore_of (hc : commitAction c.e = 0) (hr : s.storeRefusal c.e im = 0) :
    exec (.fwCommitStore c.e.cid im) s = .next (after (finish n St.success 0 (storeImage (commitSlot c.e) im.number s))) := by
  refine (exec_fwCommitStore s).trans ((h.runAdmin_eq hq ho (by rw [hc]; rfl) _).trans ?_)
  simp only [hc, hr, ne_eq, not_true_eq_false, if_false]

theorem exec_fwCommitStoreActivateNext_of (hc : commitAction c.e = 1) (hr : s.storeRefusal c.e im = 0) :
    exec (.fwCommitStoreActivateNext c.e.cid im) s = .next (after (finish n St.success 0
      (setF Reg.SYS_BOOT_NEXT_SLOT (commitSlot c.e) (storeImage (commitSlot c.e) im.number s)))) := by
  refine (exec_fwCommitStoreActivateNext s).trans ((h.runAdmin_eq hq ho (by rw [hc]; rfl) _).trans ?_)
  simp only [hr, ne_eq, not_true_eq_false, if_false]

theorem exec_fwCommitActivateNext_of (hc : commitAction c.e = 2) (hs : commitSlot c.e = 1 ∨ commitSlot c.e = 2)
    (hi : (Assoc.find s.sys.images (commitSlot c.e)).isSome = true) :
    exec (.fwCommitActivateNext c.e.cid) s = .next (after (finish n St.success 0 (setF Reg.SYS_BOOT_NEXT_SLOT (commitSlot c.e) s))) := by
  have hslot : ¬ (commitSlot c.e ≠ 1 ∧ commitSlot c.e ≠ 2) := by omega
  have hnone : (Assoc.find s.sys.images (commitSlot c.e)).isNone = false := by simpa using hi
  refine (exec_fwCommitActivateNext s).trans ((h.runAdmin_eq hq ho (by rw [hc]; rfl) _).trans ?_)
  simp only [hslot, hnone, Bool.false_eq_true, if_false]

theorem exec_fwCommitActivateNow_of (hc : commitAction c.e = 3) (hr : s.storeRefusal c.e im = 0) :
    exec (.fwCommitActivateNow c.e.cid im) s
      = .next (after (restartCores 6 true (some n) (imageReady n (commitSlot c.e) im.number s))) := by
  refine (exec_fwCommitActivateNow s).trans ((h.runAdmin_eq hq ho (by rw [hc]; rfl) _).trans ?_)
  simp only [hr, ne_eq, not_true_eq_false, if_false]
  rfl

theorem exec_fwCommitInstallRoot_of (hc : commitAction c.e = 4) (hs : commitSlot c.e = 1 ∨ commitSlot c.e = 2) (hm : s.mode = Mode.service)
    (hst : s.cmd.staged ≠ []) (hcov : covers s.cmd.staged im.length = true) (hsig : im.signed = true) :
    exec (.fwCommitInstallRoot c.e.cid im) s
      = .next (after (finish n St.success 0 { s with cmd := { s.cmd with operatorFwRoot := some (Config.digest im.number) } })) := by
  have hslot : ¬ (commitSlot c.e ≠ 1 ∧ commitSlot c.e ≠ 2) := by omega
  have hempty : s.cmd.staged.isEmpty = false := by simpa using hst
  refine (exec_fwCommitInstallRoot s).trans ((h.runAdmin_eq hq ho (by rw [hc]; rfl) _).trans ?_)
  simp only [hslot, hm, hempty, hcov, hsig, ne_eq, not_true_eq_false, Bool.not_true, Bool.false_eq_true, if_false]

end Commit

theorem boot_resetCtrl_slot {src : Nat} {flush : Bool} {spare : Option Nat} {s : State} (h : s.bootable)
    (hlt : s.get Reg.SYS_BOOT_NEXT_SLOT < 4) : (restartCores src flush spare s).get Reg.SYS_BOOT_SLOT = s.get Reg.SYS_BOOT_NEXT_SLOT := by
  have hnext : (resetCtrl src flush spare s).get Reg.SYS_BOOT_NEXT_SLOT = s.get Reg.SYS_BOOT_NEXT_SLOT :=
    get_resetCtrl_ne (by decide) (by decide) (by decide) (by decide)
  rw [restartCores, boot_of_bootable (bootable_resetCtrl h), hnext]
  exact get_setF_of_lt hlt _

theorem commitCmd_restartCores {src n : Nat} {flush : Bool} {s : State} (h : s.bootable) :
    (restartCores src flush (some n) s).cmd.commitCmd = some n := by
  rw [restartCores, view_boot (fun t => t.cmd.commitCmd) (fun _ _ => rfl) (bootable_resetCtrl h), resetCtrl_eq]
  show (coreEnded flush (some n) s).cmd.commitCmd = some n
  unfold coreEnded endTest
  split_ifs <;> rfl

theorem fwCommitActivateNow_fields {n slot number : Nat} (hs : slot < 4) (s : State) {t : State}
    (ht : t = restartCores 6 true (some n) (imageReady n slot number s)) :
    t.get Reg.SYS_BOOT_SLOT = slot ∧ t.get Reg.SYS_RESET_CAUSE_KIND = 3 ∧ t.get Reg.SYS_RESET_CAUSE_SOURCE = 6
    ∧ t.sys.firmwareUp = false ∧ t.cmd.commitCmd = some n := by
  have hboot := bootable_imageReady hs n number s
  have hnext := nextSlot_imageReady hs n number s
  obtain ⟨hkind, hsource, -, -, -, hup, -⟩ := restartCores_fields (by decide) true (some n) hboot ht
  refine ⟨?_, hkind, hsource, hup, ?_⟩
  · rw [ht, boot_resetCtrl_slot hboot (by rw [hnext]; exact hs), hnext]
  · rw [ht]
    exact commitCmd_restartCores hboot

/-! The pack -/

/-- A root is installed, or removed, and the fitted pack is checked against it (R333). -/
theorem operatorRoot_rootChanged (ok : Bool) (s : State) : (rootChanged ok s).bat.operatorRoot = s.bat.operatorRoot := by
  unfold rootChanged
  split_ifs
  · rfl
  · exact (within_authOutcome ok _).view (fun t => t.bat.operatorRoot) fun _ => rfl

/-- A pack whose own root is not Tamend's reaches no root once the operator's is gone. -/
theorem rootRemoved_fields {ok : Bool} {s : State} (hd : s.bat.desc.isSome = true) (hroot : ∀ d, s.bat.desc = some d → d.root ≠ 1)
    (hnone : s.bat.operatorRoot = none) : (rootChanged ok s).bat.auth = false := by
  obtain ⟨d, hdesc⟩ := Option.isSome_iff_exists.mp hd
  have hchain : (failsCleared s).chainsToRoot = false := by
    show (match s.bat.desc with
      | none => false
      | some d => d.root == 1 || (d.root == 2 && s.bat.operatorRoot == some d.rootDigest)) = false
    rw [hdesc, hnone]
    simp [hroot d hdesc]
  rw [rootChanged, if_neg (by simp [hdesc]), ← failsCleared]
  exact (authOutcome_failed (by simp [hchain]) (by simp [hchain])).1

section Pack
variable {s : State} {n : Nat} {c : Cmd} (h : MayRun s n c) (hq : c.e.qid = 0) (ho : adminOf c.e = some .packAuth)
include h hq ho

theorem exec_packAuthenticate_of_good (hc : optCode c.e = 1) (hd : s.bat.desc.isSome = true) (hr : s.chainsToRoot = true) :
    exec (.packAuthenticate c.e.cid true) s = .next (after (finish n St.success 0 (authOutcome true (failsCleared s)))) := by
  have hnone : s.bat.desc.isNone = false := by simpa using hd
  refine (exec_packAuthenticate s).trans ((h.runAdmin_eq hq ho (by rw [hc]; rfl) _).trans ?_)
  simp only [hc, hnone, hr, ne_eq, not_true_eq_false, Bool.false_eq_true, if_false, Bool.and_self, Bool.not_true]
  rfl

theorem exec_packAuthenticate_of_none {ok : Bool} (hc : optCode c.e = 1) (hd : s.bat.desc = none) :
    exec (.packAuthenticate c.e.cid ok) s = .next (after (finish n St.success 2 s)) := by
  refine (exec_packAuthenticate s).trans ((h.runAdmin_eq hq ho (by rw [hc]; rfl) _).trans ?_)
  simp only [hc, hd, ne_eq, not_true_eq_false, Option.isNone_none, if_false, if_true]

theorem exec_packInstallRoot_of {root : Nat} {ok : Bool} (hc : optCode c.e = 2) (hm : s.mode = Mode.service) (hl : bufferLen c.e ≤ 4096)
    (hb : s.bufferOk c.e (bufferLen c.e) = true) :
    exec (.packInstallRoot c.e.cid root ok) s = .next (after (finish n St.success 3 (rootChanged ok
      { fromHost c.e s with bat := { (fromHost c.e s).bat with operatorRoot := some (Config.digest root) } }))) := by
  have hlen : ¬ 4096 < bufferLen c.e := by omega
  refine (exec_packInstallRoot s).trans ((h.runAdmin_eq hq ho (by rw [hc]; rfl) _).trans ?_)
  simp only [hm, hlen, withBuffer, hb, ne_eq, not_true_eq_false, if_false, if_true]

theorem exec_packRemoveRoot_of {ok : Bool} (hc : optCode c.e = 3) (hm : s.mode = Mode.service) :
    exec (.packRemoveRoot c.e.cid ok) s
      = .next (after (finish n St.success 3 (rootChanged ok { s with bat := { s.bat with operatorRoot := none } }))) := by
  refine (exec_packRemoveRoot s).trans ((h.runAdmin_eq hq ho (by rw [hc]; rfl) _).trans ?_)
  simp only [hm, ne_eq, not_true_eq_false, if_false]

end Pack

/-! The obligation -/

theorem fwCommits_complete (s : State) (n : Nat) (c : Cmd) (im : ImageFacts) (hrun : s.mayRun n c = true) (hq : c.e.qid = 0)
    (ho : adminOf c.e = some .firmwareCommit) :
    (commitAction c.e = 0 → s.storeRefusal c.e im = 0 →
      Answers n St.success 0 (.fwCommitStore c.e.cid im) s fun t =>
        Assoc.find t.sys.images (commitSlot c.e) = some im.number ∧ Keeps [] s t)
    ∧ (commitAction c.e = 1 → s.storeRefusal c.e im = 0 →
      Answers n St.success 0 (.fwCommitStoreActivateNext c.e.cid im) s fun t =>
        Assoc.find t.sys.images (commitSlot c.e) = some im.number ∧ t.get Reg.SYS_BOOT_NEXT_SLOT = commitSlot c.e
        ∧ Keeps [Reg.SYS_BOOT_NEXT_SLOT] s t)
    ∧ (commitAction c.e = 2 → commitSlot c.e = 1 ∨ commitSlot c.e = 2 → (Assoc.find s.sys.images (commitSlot c.e)).isSome = true →
      Answers n St.success 0 (.fwCommitActivateNext c.e.cid) s fun t =>
        t.get Reg.SYS_BOOT_NEXT_SLOT = commitSlot c.e ∧ Keeps [Reg.SYS_BOOT_NEXT_SLOT] s t)
    ∧ (commitAction c.e = 3 → s.storeRefusal c.e im = 0 →
      EndsBy after (.fwCommitActivateNow c.e.cid im) s fun t =>
        t.get Reg.SYS_BOOT_SLOT = commitSlot c.e ∧ t.get Reg.SYS_RESET_CAUSE_KIND = 3 ∧ t.get Reg.SYS_RESET_CAUSE_SOURCE = 6
        ∧ t.sys.firmwareUp = false ∧ t.cmd.commitCmd = some n)
    ∧ (commitAction c.e = 4 → commitSlot c.e = 1 ∨ commitSlot c.e = 2 → s.mode = Mode.service → s.cmd.staged ≠ [] →
        covers s.cmd.staged im.length = true → im.signed = true →
      Answers n St.success 0 (.fwCommitInstallRoot c.e.cid im) s fun t =>
        t.cmd.operatorFwRoot = some (Config.digest im.number) ∧ Keeps [] s t) := by
  have h := mayRun_iff hrun
  have hlt := commitSlot_lt c.e
  refine ⟨fun hc hr => ?store, fun hc hr => ?storeNext, fun hc hs hi => ?next, fun hc hr => ?now, fun hc hs hm hst hcov hsig => ?root⟩
  case store => exact .of_next (exec_fwCommitStore_of h hq ho hc hr) ⟨image_storeImage _ _ _, keeps_storeImage.mpr (Keeps.refl _ _)⟩
  case storeNext =>
    exact .of_next (exec_fwCommitStoreActivateNext_of h hq ho hc hr)
      ⟨image_storeImage _ _ _, get_setF_of_lt hlt _, (keeps_storeImage.mpr (Keeps.refl _ _)).setF _ _ (by decide)⟩
  case next => exact .of_next (exec_fwCommitActivateNext_of h hq ho hc hs hi) ⟨get_setF_of_lt hlt _, (Keeps.refl _ _).setF _ _ (by decide)⟩
  case now => exact .of_next (exec_fwCommitActivateNow_of h hq ho hc hr) (fwCommitActivateNow_fields hlt s rfl)
  case root => exact .of_next (exec_fwCommitInstallRoot_of h hq ho hc hs hm hst hcov hsig) ⟨rfl, .of_eq (Keeps.refl _ _) rfl rfl⟩

/-- Settles O35: self-tests, power states, roles, firmware storage and the pack's roots. -/
theorem controlCommandsComplete : Obligations.ControlCommandsComplete := by
  unfold Obligations.ControlCommandsComplete
  refine ⟨fun s n c hrun hq ho => ?tests, fun s hs hp hf => ?resume, fun s step reads hs hg => ?done, fun s n c hrun hq ho => ?power,
    fun s n c hrun hq ho => ?roles, fun s n c data hrun hq ho h1 h2 h3 h4 hb => ?stage, fun s n c im hrun hq ho => ?commit,
    fun s n root c ok hrun hq ho => ?pack⟩
  case tests =>
    have h := mayRun_iff hrun
    refine ⟨fun hc hr => ?_, fun hc hr => ?_, fun hc hr => ?_, fun hc hr => ?_⟩
    · exact .of_next (g := fun t => after (finish n St.success 0 t))
        ((exec_selfTestShort_of h hq ho hc).trans (by rw [startTest_of_idle hr])) (beginTest_fields 1 s rfl)
    · exact .of_next (g := fun t => after (finish n St.success 0 t))
        ((exec_selfTestExtended_of h hq ho hc).trans (by rw [startTest_of_idle hr])) (beginTest_fields 2 s rfl)
    · exact .of_next (g := fun t => after (finish n St.selfTest 0 t))
        ((exec_selfTestShort_of h hq ho hc).trans (by rw [startTest_of_running hr])) rfl
    · exact .of_next (exec_selfTestAbort_of h hq ho hc) (endTest_fields hr rfl)
  case resume =>
    exact .of_next (exec_selfTestResume_of hs hp hf) ⟨rfl, rfl, rfl, keeps_written_iff.mpr (Keeps.refl _ _)⟩
  case done =>
    refine ⟨fun hr hl => ?_, fun hr hl hv => ?_⟩
    · obtain ⟨hrun, hres, hget⟩ := shortDone_fields (step := step) (s := s) (by omega) rfl
      rw [hr] at hres
      exact .of_next (exec_selfTestDone_of hs hg hl (.inl hr)) ⟨hrun, hres, hget⟩
    · obtain ⟨hrun, hres, -⟩ := shortDone_fields (step := step) (s := s) (by omega) rfl
      rw [hr] at hres
      exact .of_next (exec_selfTestDone_of hs hg hl (.inr ⟨hr, hv⟩)) ⟨hrun, hres⟩
  case power =>
    have h := mayRun_iff hrun
    refine ⟨fun hc => ?_, fun hc hm => ?_, fun hc hm => ?_, fun hc hm => ?_, fun hc hm => ?_, fun hc hm => ?_⟩
    · exact .of_next (g := fun t => after (finish n St.success s.mode t)) (exec_powerStateQuery_of h hq ho hc) rfl
    · exact .of_next (g := fun t => after (finish n St.success 0 t)) (exec_powerStatePark_of_parked h hq ho hc hm) rfl
    · exact .of_next (g := fun t => after (settle t)) (exec_powerStatePark_of_up h hq ho hc hm) (parkAsked_fields h.found rfl)
    · exact .of_next (g := fun t => after (finish n St.notActive 4 t)) (exec_powerStatePark_of_standby h hq ho hc hm) rfl
    · exact .of_next (g := fun t => after (finish n St.success 2 t)) (exec_powerStateWake_of_serving h hq ho hc hm) rfl
    · exact .of_next (exec_powerStateWake_of_coming h hq ho hc hm) (awaitWake_fields h.found)
  case roles =>
    have h := mayRun_iff hrun
    refine ⟨fun hc ha hh hp hz => ?swap, fun hc ha => ?swapStandby, fun hc hm hh ha => ?enter, fun hc hm hh ha hp hb => ?enterAlone,
      fun hc hm hp hf => ⟨fun hl => ?leavePartner, fun hl => ?leaveFree⟩, fun hc hb => ?preferred,
      fun hc hh tested persists => ⟨fun hx => ?exchange, fun hr hz => ?revert⟩⟩
    case swap =>
      obtain ⟨hdue, -, hmem, hkeep⟩ := handoverAsked_fields 1 n s rfl
      exact .of_next (g := fun t => after (settle t)) (exec_swap_of_ready h hq ho hc ha hh hp hz) ⟨hdue, hmem, hkeep⟩
    case swapStandby => exact .of_next (g := fun t => after (finish n St.notActive s.mode t)) (exec_swap_of_standby h hq ho hc ha) rfl
    case enter => exact .of_next (g := fun t => after (settle t)) (exec_enterService_of_standby h hq ho hc hm hh ha) (serviceAsked_fields n s rfl)
    case enterAlone =>
      exact .of_next (g := fun t => after (finish n St.invalidField (512 + s.mode) t)) (exec_enterService_of_alone h hq ho hc hm hh ha hp hb) rfl
    case leavePartner =>
      exact .of_next (g := fun t => after (settle (finish n St.success 4 t))) (exec_leaveService_of_partner h hq ho hc hm hp hf hl)
        (leftForStandby_fields s)
    case leaveFree =>
      exact .of_next (g := fun t => after (settle (finish n St.success 1 t))) (exec_leaveService_of_free h hq ho hc hm hp hf hl)
        (leftForWaking_fields s)
    case preferred =>
      exact .of_next (g := fun t => after (finish n St.success s.mode t)) (exec_setPreferred_of h hq ho hc hb) (preferredSet_fields hb s rfl)
    case exchange =>
      obtain ⟨hact, hrole, -⟩ := exchangeRoles_fields s
      exact .of_next (g := fun t => after (finish n St.success 0 t)) (exec_revertNow_of_parked h hq ho hc hh hx) ⟨hact, hrole⟩
    case revert =>
      obtain ⟨hdue, hoff, hmem, hkeep⟩ := handoverAsked_fields 5 n (holdoffCut s) rfl
      exact .of_next (g := fun t => after (settle t)) (exec_revertNow_of_serving h hq ho hc hh hr hz)
        ⟨hdue, hoff, hmem, Keeps.trans (.of_eq (t := s) (Keeps.refl _ _) rfl rfl) hkeep⟩
  case stage =>
    exact .of_next (exec_firmwareStage_of (mayRun_iff hrun) hq ho h1 h2 h3 h4 hb) (pieceStaged_fields _ _ data c.e s rfl)
  case commit => exact fwCommits_complete s n c im hrun hq ho
  case pack =>
    have h := mayRun_iff hrun
    refine ⟨fun hc hd hr => ?_, fun hc hd => ?_, fun hc hm hl hb => ?_, fun hc hm => ?_⟩
    · exact .of_next (g := fun t => after (finish n St.success 0 t)) (exec_packAuthenticate_of_good h hq ho hc hd hr) (authOutcome_true (s := failsCleared s) hr).1
    · exact .of_next (g := fun t => after (finish n St.success 2 t)) (exec_packAuthenticate_of_none h hq ho hc hd) rfl
    · exact .of_next (g := fun t => after (finish n St.success 3 t)) (exec_packInstallRoot_of h hq ho hc hm hl hb) (operatorRoot_rootChanged ok _)
    · exact .of_next (g := fun t => after (finish n St.success 3 t)) (exec_packRemoveRoot_of h hq ho hc hm)
        ⟨operatorRoot_rootChanged ok _, fun hd hroot => rootRemoved_fields hd hroot rfl⟩

end Sys2Proof.Machine
end

section
/-! The queue interface (R198 to R226): the obligation O36. -/

open Sys2Proof

namespace Sys2Proof.Machine

theorem get_of_lands {s : State} {off : Nat} (f : Field) : (ungate (islandOf off) s).get f = s.get f := ungate_get _ _ _

theorem pair?_of_qmx {s t : State} (q : Nat) (h : t.qmx = s.qmx) : t.pair? q = s.pair? q := by rw [State.pair?, State.pair?, h]

theorem pair?_onPair {q : Nat} {p : Pair} {f : Pair → Pair} {s : State} (h : s.pair? q = some p) (r : Nat) :
    (onPair q f s).pair? r = if q = r then some (f p) else s.pair? r := by
  rw [onPair, h]
  exact Assoc.find_set q r (f p) s.qmx.pairs

theorem regs_onPair (q : Nat) (f : Pair → Pair) (s : State) : (onPair q f s).regs = s.regs ∧ (onPair q f s).mem = s.mem := by
  unfold onPair
  split <;> exact ⟨rfl, rfl⟩

theorem keeps_onPair_iff {fs : List Field} {s t : State} {q : Nat} {f : Pair → Pair} : Keeps fs s (onPair q f t) ↔ Keeps fs s t :=
  keeps_congr (regs_onPair q f t).1 (regs_onPair q f t).2

/-! Enabling -/

/-- The queues as they are enabled (R198). -/
def queuesEnabled (s : State) : State :=
  let s1 := setF Reg.QMX_STATUS_CFG_ERR 0 (setF Reg.QMX_CTRL_EN 1 s)
  { s1 with qmx := { s1.qmx with starting := true, stopping := false } }

theorem exec_queueEnable_of_sized {s : State} (hl : s.lands 0x20000 = true) (he : s.on Reg.QMX_CTRL_EN = false)
    (hz : s.get Reg.QMX_ADMIN_CFG_SIZE_M1 ≠ 0) : exec .queueEnable s = .next (queuesEnabled (ungate (islandOf 0x20000) s)) := by
  rw [exec_of_lands hl (exec_queueEnable s), if_neg, if_neg]
  · rfl
  · rwa [get_of_lands]
  · rw [State.on, get_of_lands]
    exact Bool.eq_false_iff.mp he

theorem exec_queueEnable_of_empty {s : State} (hl : s.lands 0x20000 = true) (he : s.on Reg.QMX_CTRL_EN = false)
    (hz : s.get Reg.QMX_ADMIN_CFG_SIZE_M1 = 0) :
    exec .queueEnable s = .next (setF Reg.QMX_STATUS_CFG_ERR 1 (ungate (islandOf 0x20000) s)) := by
  rw [exec_of_lands hl (exec_queueEnable s), if_neg, if_pos]
  · rwa [get_of_lands]
  · rw [State.on, get_of_lands]
    exact Bool.eq_false_iff.mp he

theorem queuesEnabled_fields (s : State) : (queuesEnabled s).get Reg.QMX_CTRL_EN = 1 ∧ (queuesEnabled s).get Reg.QMX_STATUS_CFG_ERR = 0
    ∧ (queuesEnabled s).qmx.starting = true ∧ Keeps [Reg.QMX_CTRL_EN, Reg.QMX_STATUS_CFG_ERR] s (queuesEnabled s) := by
  refine ⟨?_, get_setF_zero Reg.QMX_STATUS_CFG_ERR _, rfl,
    .of_eq (t := setF Reg.QMX_STATUS_CFG_ERR 0 (setF Reg.QMX_CTRL_EN 1 s)) (by simp) rfl rfl⟩
  exact (get_of_regs (t := setF Reg.QMX_STATUS_CFG_ERR 0 (setF Reg.QMX_CTRL_EN 1 s)) Reg.QMX_CTRL_EN rfl).trans
    ((get_setF_ne _ _ _ _ (by decide)).trans (get_setF_one rfl s))

/-- The admin pair as its registers give it (R198). -/
def adminPair (s : State) : Pair where
  sizeM1 := s.get Reg.QMX_ADMIN_CFG_SIZE_M1
  sqBase := s.get64 Reg.QMX_ADMIN_SQ_BASE_LO_BASE Reg.QMX_ADMIN_SQ_BASE_HI_BASE
  cqBase := s.get64 Reg.QMX_ADMIN_CQ_BASE_LO_BASE Reg.QMX_ADMIN_CQ_BASE_HI_BASE

/-- The queues once they are ready. -/
def queuesReady (s : State) : State :=
  let s1 := setF Reg.QMX_STATUS_RDY 1 (setF Reg.QMX_ADMIN_SQ_TAIL_INDEX 0 (setF Reg.QMX_ADMIN_CQ_HEAD_INDEX 0 s))
  { s1 with qmx := { s1.qmx with pairs := Assoc.set s1.qmx.pairs 0 (adminPair s), starting := false } }

theorem exec_queueReady_of_starting {s : State} (he : s.on Reg.QMX_CTRL_EN = true) (hs : s.qmx.starting = true) :
    exec .queueReady s = .next (queuesReady s) := (exec_queueReady s).trans (if_pos (by simp [he, hs]))

theorem queuesReady_fields (s : State) : (queuesReady s).get Reg.QMX_STATUS_RDY = 1 ∧ (queuesReady s).get Reg.QMX_ADMIN_SQ_TAIL_INDEX = 0
    ∧ (queuesReady s).get Reg.QMX_ADMIN_CQ_HEAD_INDEX = 0 ∧ (queuesReady s).pair? 0 = some (adminPair s)
    ∧ Keeps [Reg.QMX_STATUS_RDY, Reg.QMX_ADMIN_SQ_TAIL_INDEX, Reg.QMX_ADMIN_CQ_HEAD_INDEX] s (queuesReady s) := by
  have hget (f : Field) : (queuesReady s).get f
      = (setF Reg.QMX_STATUS_RDY 1 (setF Reg.QMX_ADMIN_SQ_TAIL_INDEX 0 (setF Reg.QMX_ADMIN_CQ_HEAD_INDEX 0 s))).get f := get_of_regs f rfl
  refine ⟨?_, ?_, ?_, ?_, ?_⟩
  · rw [hget, get_setF_one rfl]
  · rw [hget, get_setF_ne _ _ _ _ (by decide), get_setF_zero]
  · rw [hget, get_setF_ne _ _ _ _ (by decide), get_setF_ne _ _ _ _ (by decide), get_setF_zero]
  · exact (Assoc.find_set _ _ _ _).trans (if_pos rfl)
  · exact .of_eq (t := setF Reg.QMX_STATUS_RDY 1 (setF Reg.QMX_ADMIN_SQ_TAIL_INDEX 0 (setF Reg.QMX_ADMIN_CQ_HEAD_INDEX 0 s))) (by simp) rfl rfl

/-- The queues as they are disabled (R226). -/
def queuesDisabled (s : State) : State :=
  { deletePairs (setF Reg.QMX_CTRL_EN 0 s) with
    qmx := { (deletePairs (setF Reg.QMX_CTRL_EN 0 s)).qmx with starting := false, stopping := true } }

theorem exec_queueDisable_of_on {s : State} (hl : s.lands 0x20000 = true) (he : s.on Reg.QMX_CTRL_EN = true) :
    exec .queueDisable s = .next (queuesDisabled (ungate (islandOf 0x20000) s)) := by
  rw [exec_of_lands hl (exec_queueDisable s), if_pos]
  · rfl
  · rwa [State.on, get_of_lands]

theorem queuesDisabled_fields (s : State) : (queuesDisabled s).get Reg.QMX_CTRL_EN = 0
    ∧ Keeps [Reg.QMX_CTRL_EN, Reg.QMX_STATUS_CQ_STALL] s (queuesDisabled s) := by
  refine ⟨?_, .of_eq (t := setF Reg.QMX_STATUS_CQ_STALL 0 (setF Reg.QMX_CTRL_EN 0 s)) (by simp) rfl rfl⟩
  exact (get_of_regs (t := setF Reg.QMX_STATUS_CQ_STALL 0 (setF Reg.QMX_CTRL_EN 0 s)) Reg.QMX_CTRL_EN rfl).trans
    ((get_setF_ne _ _ _ _ (by decide)).trans (get_setF_zero _ s))

/-- The queues once they have stopped. -/
def queuesStopped (s : State) : State :=
  { setF Reg.QMX_STATUS_RDY 0 s with qmx := { (setF Reg.QMX_STATUS_RDY 0 s).qmx with stopping := false } }

theorem exec_queueStopped_of_stopping {s : State} (hs : s.qmx.stopping = true) : exec .queueStopped s = .next (queuesStopped s) :=
  (exec_queueStopped s).trans (if_pos hs)

theorem queuesStopped_fields (s : State) : (queuesStopped s).get Reg.QMX_STATUS_RDY = 0 ∧ Keeps [Reg.QMX_STATUS_RDY] s (queuesStopped s) :=
  ⟨(get_of_regs _ rfl).trans (get_setF_zero Reg.QMX_STATUS_RDY s), .of_eq (t := setF Reg.QMX_STATUS_RDY 0 s) (by simp) rfl rfl⟩

/-! Admin doorbells -/

theorem submit_of_good {q i : Nat} {p : Pair} {s : State} (hp : s.pair? q = some p) (hi : i ≤ p.sizeM1) :
    submit q i s = onPair q (fun x => { x with sqTail := i }) s := by
  rw [submit, hp]
  exact if_neg (by omega)

theorem submit_of_bad {q i : Nat} {p : Pair} {s : State} (hp : s.pair? q = some p) (hi : p.sizeM1 < i) : submit q i s = ignored 1 q s := by
  rw [submit, hp]
  exact if_pos hi

theorem ignored_fields {kind : Nat} (hk : kind < 8) (q : Nat) (s : State) : (ignored kind q s).get Reg.QMX_IGN_LAST_KIND = kind
    ∧ (ignored kind q s).get Reg.QMX_IGNORED_CNT = (s.get Reg.QMX_IGNORED_CNT + 1) % 2 ^ 32
    ∧ Keeps [Reg.QMX_IGN_LAST_KIND, Reg.QMX_IGN_LAST_QID, Reg.QMX_IGNORED_CNT, Reg.QMX_EVENT_IGNORED] s (ignored kind q s) := by
  refine ⟨?_, ?_, by simp [ignored]⟩
  · rw [ignored, get_event_ne (by decide) (by decide), get_setF_ne _ _ _ _ (by decide)]
    exact get_setF_of_lt (Nat.lt_of_lt_of_le hk (by decide)) s
  · rw [ignored, get_event_cnt _ _ _ (by decide), get_setF_ne _ _ _ _ (by decide), get_setF_ne _ _ _ _ (by decide)]
    rfl

section Admin
variable {s : State} {i : Nat} {p : Pair} (hm : s.mode ≠ Mode.destaging) (hp : s.pair? 0 = some p)
include hm hp

theorem exec_adminSqTailWrite_eq (hl : s.lands 0x20020 = true) : exec (.adminSqTailWrite i) s
    = .next (when (decide (i ≤ p.sizeM1)) (setF Reg.QMX_ADMIN_SQ_TAIL_INDEX i) (submit 0 i (ungate (islandOf 0x20020) s))) := by
  have hmode : (ungate (islandOf 0x20020) s).mode ≠ Mode.destaging := by rwa [State.mode, get_of_lands]
  have hpair : (ungate (islandOf 0x20020) s).pair? 0 = some p := hp
  rw [exec_of_lands hl (exec_adminSqTailWrite s), hpair]
  exact congrArg _ (if_neg hmode)

theorem exec_adminSqTailWrite_of_good (hl : s.lands 0x20020 = true) (hi : i ≤ p.sizeM1) : exec (.adminSqTailWrite i) s
    = .next (setF Reg.QMX_ADMIN_SQ_TAIL_INDEX i (onPair 0 (fun x => { x with sqTail := i }) (ungate (islandOf 0x20020) s))) := by
  rw [exec_adminSqTailWrite_eq hm hp hl, submit_of_good (p := p) (by exact hp) hi, when, if_pos (decide_eq_true hi)]

theorem exec_adminSqTailWrite_of_bad (hl : s.lands 0x20020 = true) (hi : p.sizeM1 < i) : exec (.adminSqTailWrite i) s
    = .next (ignored 1 0 (ungate (islandOf 0x20020) s)) := by
  rw [exec_adminSqTailWrite_eq hm hp hl, submit_of_bad (p := p) (by exact hp) hi, when, if_neg (by simp; omega)]

theorem exec_adminCqHeadWrite_of (hl : s.lands 0x20024 = true) (hr : p.releases i = true) : exec (.adminCqHeadWrite i) s
    = .next (setF Reg.QMX_ADMIN_CQ_HEAD_INDEX i (drainCq 0 (onPair 0 (fun x => { x with cqHead := i }) (ungate (islandOf 0x20024) s)))) := by
  have hmode : (ungate (islandOf 0x20024) s).mode ≠ Mode.destaging := by rwa [State.mode, get_of_lands]
  have hpair : (ungate (islandOf 0x20024) s).pair? 0 = some p := hp
  rw [exec_of_lands hl (exec_adminCqHeadWrite s), hpair]
  refine congrArg _ ((if_neg hmode).trans ?_)
  rw [when, if_pos hr, release, hpair]
  exact congrArg _ (if_pos hr)

end Admin

theorem sqTailTaken_fields {i : Nat} (hi : i < 4096) {p : Pair} {s : State} (hp : s.pair? 0 = some p) {t : State}
    (ht : t = setF Reg.QMX_ADMIN_SQ_TAIL_INDEX i (onPair 0 (fun x => { x with sqTail := i }) s)) :
    t.get Reg.QMX_ADMIN_SQ_TAIL_INDEX = i ∧ t.pair? 0 = some { p with sqTail := i } ∧ Keeps [Reg.QMX_ADMIN_SQ_TAIL_INDEX] s t := by
  rw [ht]
  exact ⟨get_setF_of_lt (Nat.lt_of_lt_of_le hi (by decide)) _, (pair?_onPair hp 0).trans (if_pos rfl), (keeps_onPair_iff.mpr (Keeps.refl _ _)).setF _ _ (by decide)⟩

theorem drainCq_of_empty {q : Nat} {s : State} (h : s.qmx.stalled = []) : drainCq q s = setF Reg.QMX_STATUS_CQ_STALL 0 s := by
  rw [drainCq, h]
  simp only [forEach, List.foldl_nil, h, List.isEmpty_nil, when, if_true]

theorem cqHeadTaken_fields {i : Nat} (hi : i < 4096) {p : Pair} {s : State} (hp : s.pair? 0 = some p) (hs : s.qmx.stalled = []) {t : State}
    (ht : t = setF Reg.QMX_ADMIN_CQ_HEAD_INDEX i (drainCq 0 (onPair 0 (fun x => { x with cqHead := i }) s))) :
    t.get Reg.QMX_ADMIN_CQ_HEAD_INDEX = i ∧ t.pair? 0 = some { p with cqHead := i }
    ∧ Keeps [Reg.QMX_ADMIN_CQ_HEAD_INDEX, Reg.QMX_STATUS_CQ_STALL] s t := by
  have hstall : (onPair 0 (fun x => { x with cqHead := i }) s).qmx.stalled = [] := by rw [onPair, hp]; exact hs
  rw [ht, drainCq_of_empty hstall]
  exact ⟨get_setF_of_lt (Nat.lt_of_lt_of_le hi (by decide)) _, (pair?_onPair hp 0).trans (if_pos rfl),
    ((keeps_onPair_iff.mpr (Keeps.refl _ _)).setF _ _ (by decide)).setF _ _ (by decide)⟩

/-! Polls -/

/-- What a poll compares a pair's SQ tail with, and what it leaves of it: size, the word last read, and the tail taken. -/
def State.tails (s : State) (q : Nat) : Option (Nat × Nat × Nat) := (s.pair? q).map fun p => (p.sizeM1, p.rawTail, p.sqTail)

theorem tails_of_qmx {s t : State} (q : Nat) (h : t.qmx = s.qmx) : t.tails q = s.tails q := by rw [State.tails, State.tails, pair?_of_qmx q h]

theorem qmx_announce (q irq : Nat) (s : State) : (announce q irq s).qmx = s.qmx := by
  unfold announce owe
  split_ifs
  · exact (onlyHost_hostEvent 0 s).qmx
  · rfl
  · rfl
  · rfl
  · exact (onlyHost_evalLine _).qmx

theorem tails_writeEntry {p : Post} {pr : Pair} {s : State} (h : s.pair? p.qid = some pr) (r : Nat) : (writeEntry p pr s).tails r = s.tails r := by
  have hpairs : (writeEntry p pr s).qmx.pairs = Assoc.set s.qmx.pairs p.qid { pr with
      cqTail := if pr.cqTail = pr.sizeM1 then 0 else pr.cqTail + 1
      phase := if pr.cqTail = pr.sizeM1 then 1 - pr.phase else pr.phase
      fence := if pr.fence = some p.cmd then none else pr.fence } :=
    (congrArg QmxPart.pairs (qmx_announce _ _ _)).trans (congrArg QmxPart.pairs (when_of_eq _ State.qmx rfl))
  rw [State.tails, State.tails, State.pair?, hpairs, Assoc.find_set]
  by_cases hr : p.qid = r
  · rw [if_pos hr, ← hr, h]
    rfl
  · rw [if_neg hr, State.pair?]

/-- Completions that go out change no tail. -/
theorem tails_drainCq (q : Nat) (s : State) (r : Nat) : (drainCq q s).tails r = s.tails r := by
  have hone (p : Post) (t : State) : (match t.pair? p.qid with
      | some pr => if p.qid = q ∧ !pr.cqFull ∧ t.masters then writeEntry p pr { t with qmx := { t.qmx with stalled := t.qmx.stalled.erase p } } else t
      | none => t).tails r = t.tails r := by
    cases hp : t.pair? p.qid with
    | none => rfl
    | some pr =>
      show (if p.qid = q ∧ !pr.cqFull ∧ t.masters then _ else t).tails r = _
      split_ifs
      · exact tails_writeEntry (s := { t with qmx := { t.qmx with stalled := t.qmx.stalled.erase p } }) hp r
      · rfl
  unfold drainCq
  refine (when_of_eq _ (State.tails · r) rfl).trans ?_
  exact view_forEach (State.tails · r) hone s

theorem tails_onPair {q : Nat} {f : Pair → Pair} {s : State} {r : Nat}
    (h : r = q → ∀ p, ((f p).sizeM1, (f p).rawTail, (f p).sqTail) = (p.sizeM1, p.rawTail, p.sqTail)) : (onPair q f s).tails r = s.tails r := by
  cases hp : s.pair? q with
  | none => rw [onPair, hp]
  | some p =>
    rw [State.tails, State.tails, pair?_onPair hp]
    by_cases hr : q = r
    · rw [if_pos hr, ← hr, hp]
      exact congrArg some (h hr.symm p)
    · rw [if_neg hr]

theorem tails_ignored (kind q : Nat) (s : State) (r : Nat) : (ignored kind q s).tails r = s.tails r := tails_of_qmx r rfl

theorem tails_release (q h : Nat) (s : State) (r : Nat) : (release q h s).tails r = s.tails r := by
  unfold release
  split
  · rfl
  · split_ifs
    · exact (tails_drainCq _ _ r).trans (tails_onPair fun _ _ => rfl)
    · exact tails_ignored _ _ _ r

theorem tails_strayDoorbell (q side v : Nat) (s : State) (r : Nat) : (strayDoorbell q side v s).tails r = s.tails r := by
  unfold strayDoorbell
  simp only []
  split
  · split_ifs
    · rfl
    · exact tails_ignored _ _ _ r
  · rfl

theorem tails_submit_ne {q v : Nat} {s : State} {r : Nat} (hr : r ≠ q) : (submit q v s).tails r = s.tails r := by
  unfold submit
  split
  · rfl
  · split_ifs
    · exact tails_ignored _ _ _ r
    · exact tails_onPair fun h => absurd h hr

/-- The tail word of a pair's poll, as it is taken. -/
def tailPolled (q : Nat) (p : Pair) (t : Option Nat) (s : State) : State :=
  match t with
  | some v => if v = p.rawTail then s else submit q v (onPair q (fun x => { x with rawTail := v }) s)
  | none => s

theorem tails_headPolled (q : Nat) (p : Pair) (h : Option Nat) (s : State) (r : Nat) :
    (match h with
      | some v => if v = p.rawHead then s else release q v (onPair q (fun x => { x with rawHead := v }) s)
      | none => s).tails r = s.tails r := by
  cases h with
  | none => rfl
  | some v =>
    show (if v = p.rawHead then s else _).tails r = _
    split_ifs
    · rfl
    · exact (tails_release _ _ _ r).trans (tails_onPair fun _ _ => rfl)

/-- The head word changes no tail. -/
theorem tails_pollPair_some {q : Nat} {p : Pair} {s : State} (hp : s.pair? q = some p) (t h : Option Nat) (r : Nat) :
    (pollPair q t h s).tails r = (tailPolled q p t s).tails r := by
  have heq : pollPair q t h s = (match h with
      | some v => if v = p.rawHead then tailPolled q p t s else release q v (onPair q (fun x => { x with rawHead := v }) (tailPolled q p t s))
      | none => tailPolled q p t s) := by
    unfold pollPair tailPolled
    rw [hp] <;> rfl
  rw [heq]
  exact tails_headPolled q p h (tailPolled q p t s) r

theorem tails_pollPair_ne {q : Nat} {t h : Option Nat} {s : State} {r : Nat} (hr : r ≠ q) : (pollPair q t h s).tails r = s.tails r := by
  cases hp : s.pair? q with
  | none =>
    unfold pollPair
    rw [hp]
    cases t <;> cases h <;> simp only [tails_strayDoorbell]
  | some p =>
    rw [tails_pollPair_some hp]
    cases t with
    | none => rfl
    | some v =>
      show (if v = p.rawTail then s else _).tails r = _
      split_ifs
      · rfl
      · exact (tails_submit_ne hr).trans (tails_onPair fun h => absurd h hr)

/-- A tail word that changed is taken where it lies in the ring (R202). -/
theorem tails_pollPair_self {q m w x v : Nat} {h : Option Nat} {s : State} (hs : s.tails q = some (m, w, x)) (hv : v ≠ w) :
    (pollPair q (some v) h s).tails q = some (m, v, if v ≤ m then v else x) := by
  obtain ⟨p, hp, hpe⟩ := Option.map_eq_some_iff.mp hs
  cases hpe
  have hraw : (onPair q (fun x => { x with rawTail := v }) s).pair? q = some { p with rawTail := v } := (pair?_onPair hp q).trans (if_pos rfl)
  rw [tails_pollPair_some hp]
  show (if v = p.rawTail then s else _).tails q = _
  rw [if_neg hv]
  by_cases hle : v ≤ p.sizeM1
  · rw [submit_of_good hraw hle, State.tails, pair?_onPair hraw, if_pos rfl, if_pos hle]
    rfl
  · rw [submit_of_bad hraw (by simpa using hle), tails_ignored, State.tails, hraw, if_neg hle]
    rfl

/-- The poll of every identifier up to the highest. -/
def polled (top : Nat) (tails heads : List (Nat × Nat)) (s0 s : State) : State :=
  forEach ((List.range top).map (fun i => i + 1)) (fun q t => pollPair q (Assoc.find tails (s0.tailSlot q)) (Assoc.find heads (s0.headSlot q)) t) s

theorem tails_forEach_of_not_mem {l : List Nat} {g : Nat → State → State} {r : Nat} (h : ∀ q ∈ l, ∀ u, r ≠ q → (g q u).tails r = u.tails r)
    (hr : r ∉ l) (s : State) : (forEach l g s).tails r = s.tails r := by
  unfold Machine.forEach
  induction l generalizing s with
  | nil => rfl
  | cons x l ih =>
    rw [List.mem_cons, not_or] at hr
    exact (ih (fun q hq => h q (.tail _ hq)) hr.2 (g x s)).trans (h x (.head _) s hr.1)

/-- In a walk over distinct identifiers each one's tail is what its own turn makes of it. -/
theorem tails_forEach_of_nodup {l : List Nat} {g : Nat → State → State} {r : Nat} (h : ∀ q u, r ≠ q → (g q u).tails r = u.tails r)
    (hn : l.Nodup) (hr : r ∈ l) {s : State} {x : Option (Nat × Nat × Nat)} (hx : ∀ u, u.tails r = s.tails r → (g r u).tails r = x) :
    (forEach l g s).tails r = x := by
  induction l generalizing s with
  | nil => cases hr
  | cons y l ih =>
    have hstep : forEach (y :: l) g s = forEach l g (g y s) := rfl
    rw [hstep]
    obtain ⟨hy, hl⟩ := List.nodup_cons.mp hn
    by_cases hry : r = y
    · rw [hry] at hx h ⊢
      exact (tails_forEach_of_not_mem (fun q _ => h q) hy (g y s)).trans (hx s rfl)
    · exact ih hl ((List.mem_cons.mp hr).resolve_left hry) fun u hu => hx u (hu.trans (h y s hry))

theorem le_foldl_max {l : List Nat} {x : Nat} (h : x ∈ l) (m : Nat) : x ≤ l.foldl max m := by
  have hmono (k : List Nat) (a : Nat) : a ≤ k.foldl max a := by
    induction k generalizing a with
    | nil => exact le_refl _
    | cons y k ih => exact (le_max_left a y).trans (ih (max a y))
  induction l generalizing m with
  | nil => cases h
  | cons y l ih =>
    rcases List.mem_cons.mp h with rfl | h
    · exact (le_max_right m x).trans (hmono l (max m x))
    · exact ih h (max m y)

/-- The highest I/O pair's identifier. -/
def State.topPair (s : State) : Nat := (s.ioPairs.map Prod.fst).foldl max 0

theorem le_topPair {s : State} {q : Nat} {p : Pair} (hp : s.pair? q = some p) (hq : q ≠ 0) : q ≤ s.topPair := by
  have hio : (q, p) ∈ s.ioPairs ↔ (q, p) ∈ s.qmx.pairs := by simp [State.ioPairs, hq]
  refine le_foldl_max (x := q) (List.mem_map_of_mem (f := Prod.fst) (a := (q, p)) (hio.mpr ?_)) 0
  have hmem (l : List (Nat × Pair)) (h : Assoc.find l q = some p) : (q, p) ∈ l := by
    induction l with
    | nil => cases h
    | cons y l ih =>
      rw [Assoc.find] at h
      split_ifs at h with hy
      · cases h
        rw [← hy]
        exact .head _
      · exact .tail _ (ih h)
  exact hmem _ hp

/-- What a poll leaves besides the pairs' words: the interval, and a self-test that waits. -/
theorem exec_doorbellPoll_of_serving {s : State} (hs : s.serving = true) (tails heads : List (Nat × Nat)) : ∃ t, exec (.doorbellPoll tails heads) s
    = .next t ∧ ∀ r, t.tails r = (polled s.topPair tails heads s (readHost (s.headSlot 1) (4 * s.topPair)
      (readHost (s.tailSlot 1) (4 * s.topPair) (bump Reg.QMX_POLL_CNT s)))).tails r := by
  refine ⟨_, (exec_doorbellPoll s).trans (if_pos hs), fun r => ?_⟩
  refine (when_of_eq _ (State.tails · r) ?_).trans ?_
  · unfold suspendTest
    exact when_of_eq _ (State.tails · r) rfl
  · rfl

/-- Every pair's tail after a poll. -/
theorem tails_of_poll {s : State} {tails heads : List (Nat × Nat)} {q v : Nat} {p : Pair} (hp : s.pair? q = some p) (hq : 1 ≤ q)
    (hf : Assoc.find tails (s.doorbellArea + 4 * (q - 1)) = some v) (hv : v ≠ p.rawTail) {u : State} (hu : u.tails q = s.tails q) :
    (polled s.topPair tails heads s u).tails q = some (p.sizeM1, v, if v ≤ p.sizeM1 then v else p.sqTail) := by
  have htop := le_topPair hp (by omega)
  have hslot : Assoc.find tails (s.tailSlot q) = some v := hf
  have hs : s.tails q = some (p.sizeM1, p.rawTail, p.sqTail) := by rw [State.tails, hp]; rfl
  refine tails_forEach_of_nodup (fun r w hr => tails_pollPair_ne hr) ?_ ?_ fun w hw => ?_
  · exact List.nodup_range.map fun a b h => Nat.succ.inj h
  · exact List.mem_map.mpr ⟨q - 1, List.mem_range.mpr (by omega), by omega⟩
  · rw [hslot]
    exact tails_pollPair_self (hw.trans (hu.trans hs)) hv

/-! The fetch -/

/-- A round that begins anew gives a pair nothing but credit. -/
theorem pair?_newRound (s : State) (q : Nat) : ∃ f : Pair → Pair, (newRound s).pair? q = (s.pair? q).map f
    ∧ ∀ p, f p = { p with credit := (f p).credit } := by
  unfold newRound
  split_ifs
  · exact ⟨id, (Option.map_id' ..).symm, fun p => rfl⟩
  · refine ⟨fun p => { p with credit := p.weight }, ?_, fun p => rfl⟩
    show Assoc.find (s.qmx.pairs.map fun p => (p.1, { p.2 with credit := p.2.weight })) q = (Assoc.find s.qmx.pairs q).map _
    induction s.qmx.pairs with
    | nil => rfl
    | cons x l ih =>
      rw [List.map_cons, Assoc.find, Assoc.find]
      split_ifs
      · rfl
      · exact ih

/-- The state with one entry of the admin queue read, before it is taken. -/
def entryRead (s : State) : State := readEntries 0 1 (newRound s)

theorem newRound_view {α : Type} (v : State → α) (hv : ∀ (s : State) ps, v { s with qmx := { s.qmx with pairs := ps } } = v s) (s : State) :
    v (newRound s) = v s := by
  unfold newRound
  split_ifs
  · rfl
  · exact hv s _

theorem readEntries_view {α : Type} (v : State → α) (hv : ∀ (s : State) o, v { s with out := o } = v s) (q n : Nat) (s : State) :
    v (readEntries q n s) = v s := by
  unfold readEntries
  split
  · rfl
  · exact (view_readHost v hv _ _ _).trans (view_readHost v hv _ _ _)

theorem entryRead_view {α : Type} (v : State → α) (hp : ∀ (s : State) ps, v { s with qmx := { s.qmx with pairs := ps } } = v s)
    (ho : ∀ (s : State) o, v { s with out := o } = v s) (s : State) : v (entryRead s) = v s :=
  (readEntries_view v ho 0 1 _).trans (newRound_view v hp s)

theorem readTables_view {α : Type} (v : State → α) (hv : ∀ (s : State) o, v { s with out := o } = v s) (e : Entry) (s : State) :
    v (readTables e s) = v s := by
  unfold readTables
  split_ifs
  · rfl
  · exact view_forEach v (fun _ t => view_readHost v hv _ _ t) s

/-- One entry of the admin queue taken. -/
def entryTaken (e : RawEntry) (s : State) : State := fetchOne 0 (decodeEntry 0 e) (readTables (decodeEntry 0 e) (entryRead s))

theorem exec_commandFetch_of_admin {s : State} {e : RawEntry} {rest : List RawEntry} {p : Pair} (hm : s.mayFetch = true) (hp : s.pair? 0 = some p)
    (hw : p.waits ≠ 0) (hr : s.room 0 p ≠ 0) : exec (.commandFetch (e :: rest)) s = .next (after (screenAll (entryTaken e s))) := by
  obtain ⟨f, hpair, hf⟩ := pair?_newRound s 0
  rw [hp] at hpair
  have hwaits : (f p).waits ≠ 0 := by rw [hf p]; exact hw
  have hroom : (newRound s).room 0 (f p) ≠ 0 := by
    have hin : (newRound s).inFlight 0 = s.inFlight 0 := newRound_view (State.inFlight · 0) (fun _ _ => rfl) s
    rw [State.room, hin, hf p]
    exact hr
  have hpick : (newRound s).fetchPick = some (0, 1) := by
    rw [State.fetchPick, hpair]
    simp [hwaits, hroom]
  rw [exec_commandFetch, execCommandFetch, if_pos hm]
  simp only [hpick]
  rw [if_pos (by simp)]
  rfl

/-- The counts of a fetch are no part of the queues. -/
theorem qmx_fetchCounted (b : Bool) (u : State) : (bump Reg.QMX_CMD_FETCHED_CNT (when b (bump Reg.QMX_FENCE_WAIT_CNT) u)).qmx = u.qmx :=
  when_of_eq b State.qmx rfl

theorem entryTaken_fields {s : State} {e : RawEntry} {p : Pair} (hp : s.pair? 0 = some p) {t : State} (ht : t = entryTaken e s) :
    (∃ c, t.cmd? s.qmx.nextCmd = some c ∧ c.e = decodeEntry 0 e ∧ c.fetchMode = s.mode ∧ c.begun = false)
    ∧ t.qmx.nextCmd = s.qmx.nextCmd + 1 ∧ (t.pair? 0).map (·.sqHead) = some (if p.sqHead = p.sizeM1 then 0 else p.sqHead + 1)
    ∧ t.get Reg.QMX_CMD_FETCHED_CNT = (s.get Reg.QMX_CMD_FETCHED_CNT + 1) % 2 ^ 32
    ∧ Keeps [Reg.QMX_CMD_FETCHED_CNT, Reg.QMX_FENCE_WAIT_CNT] s t := by
  obtain ⟨u, hu⟩ : ∃ u, u = readTables (decodeEntry 0 e) (entryRead s) := ⟨_, rfl⟩
  have hview {α : Type} (v : State → α) (h1 : ∀ (s : State) ps, v { s with qmx := { s.qmx with pairs := ps } } = v s)
      (h2 : ∀ (s : State) o, v { s with out := o } = v s) : v u = v s := by
    rw [hu]
    exact (readTables_view v h2 _ _).trans (entryRead_view v h1 h2 s)
  have hnext : u.qmx.nextCmd = s.qmx.nextCmd := hview (fun t => t.qmx.nextCmd) (fun _ _ => rfl) fun _ _ => rfl
  have hmode : u.mode = s.mode := hview State.mode (fun _ _ => rfl) fun _ _ => rfl
  have hcnt : u.get Reg.QMX_CMD_FETCHED_CNT = s.get Reg.QMX_CMD_FETCHED_CNT :=
    hview (State.get · Reg.QMX_CMD_FETCHED_CNT) (fun _ _ => rfl) fun _ _ => rfl
  have hkeep : Keeps [Reg.QMX_CMD_FETCHED_CNT, Reg.QMX_FENCE_WAIT_CNT] s u :=
    .of_eq (Keeps.refl _ _) (hview State.regs (fun _ _ => rfl) fun _ _ => rfl) (hview State.mem (fun _ _ => rfl) fun _ _ => rfl)
  obtain ⟨f, hpair, hf⟩ := pair?_newRound s 0
  have hpu : u.pair? 0 = some (f p) := by
    rw [hu, readTables_view (State.pair? · 0) fun _ _ => rfl, entryRead, readEntries_view (State.pair? · 0) fun _ _ => rfl, hpair, hp]
    rfl
  have hhead : (f p).sqHead = p.sqHead ∧ (f p).sizeM1 = p.sizeM1 := by rw [hf p]; exact ⟨rfl, rfl⟩
  rw [entryTaken, ← hu] at ht
  unfold fetchOne at ht
  rw [hpu] at ht
  simp only [ne_eq, not_true_eq_false, false_and, if_false] at ht
  rw [ht]
  refine ⟨⟨{ e := decodeEntry 0 e, fetchMode := u.mode, fence := (f p).fence, owed := [] }, ?_, rfl, hmode, rfl⟩, ?_, ?_, ?_, ?_⟩
  · rw [State.cmd?, qmx_fetchCounted, ← hnext]
    exact (Assoc.find_set _ _ _ _).trans (if_pos rfl)
  · rw [qmx_fetchCounted, ← hnext]
  · rw [State.pair?, qmx_fetchCounted, ← hhead.1, ← hhead.2]
    exact congrArg (Option.map _) ((Assoc.find_set _ _ _ _).trans (if_pos rfl))
  · rw [get_bump_self, when_of_eq _ (State.get · Reg.QMX_CMD_FETCHED_CNT) (get_bump_ne (by decide)), ← hcnt]
    rfl
  · refine Keeps.bump _ (by decide) (.when _ _ (keeps_written_iff.mpr hkeep) fun h => Keeps.bump _ (by decide) h)

/-! The heartbeat record -/

/-- The record is due no longer. -/
def hbTaken (s : State) : State := { s with sys := { s.sys with hbDue := false } }

/-- The record written (R224). -/
def hbWritten (s : State) : State :=
  let s1 := emit (.hostWrite s.hif.hbAddr (s.hbBody ++ leBytes 4 (crc32c s.hbBody)) s.hostAttr) (hbTaken s)
  bump Reg.QMX_HB_CNT { s1 with qmx := { s1.qmx with hbSeq := s1.qmx.hbSeq + 1 } }

section Heartbeat
variable {s : State} (ha : s.hif.hbAddr ≠ 0) (hm : s.mode ≠ Mode.destaging) (hf : s.hif.flr = false) (hd : s.hif.d3hot = false)
include ha hm hf hd

theorem exec_heartbeatRecord_eq : exec .heartbeatRecord s = .next (if !s.hif.busMaster then event Reg.QMX_EVENT_HB_SKIP Reg.QMX_HB_SKIP_CNT (hbTaken s)
    else hbWritten s) := by
  rw [exec_heartbeatRecord, execHeartbeatRecord, if_neg (by simp [ha, hm, hf]), if_neg (by simp [hd])]
  split_ifs <;> rfl

theorem exec_heartbeatRecord_of_master (hb : s.hif.busMaster = true) : exec .heartbeatRecord s = .next (hbWritten s) := by
  rw [exec_heartbeatRecord_eq ha hm hf hd, hb]
  rfl

theorem exec_heartbeatRecord_of_mute (hb : s.hif.busMaster = false) :
    exec .heartbeatRecord s = .next (event Reg.QMX_EVENT_HB_SKIP Reg.QMX_HB_SKIP_CNT (hbTaken s)) := by
  rw [exec_heartbeatRecord_eq ha hm hf hd, hb]
  rfl

end Heartbeat

theorem hbWritten_fields (s : State) : (hbWritten s).get Reg.QMX_HB_CNT = (s.get Reg.QMX_HB_CNT + 1) % 2 ^ 32
    ∧ Keeps [Reg.QMX_HB_CNT] s (hbWritten s) := by
  refine ⟨?_, Keeps.bump _ (by decide) (.of_eq (t := s) (Keeps.refl _ _) rfl rfl)⟩
  rw [hbWritten, get_bump_self]
  rfl

theorem hbSkipped_fields (s : State) : (event Reg.QMX_EVENT_HB_SKIP Reg.QMX_HB_SKIP_CNT (hbTaken s)).get Reg.QMX_HB_SKIP_CNT
      = (s.get Reg.QMX_HB_SKIP_CNT + 1) % 2 ^ 32
    ∧ Keeps [Reg.QMX_HB_SKIP_CNT, Reg.QMX_EVENT_HB_SKIP] s (event Reg.QMX_EVENT_HB_SKIP Reg.QMX_HB_SKIP_CNT (hbTaken s)) := by
  refine ⟨?_, Keeps.event _ _ (by decide) (by decide) (.of_eq (t := s) (Keeps.refl _ _) rfl rfl)⟩
  rw [get_event_cnt _ _ _ (by decide)]
  rfl

/-! Pages -/

section Pages
variable {s : State} {n : Nat} {c : Cmd} (h : MayRun s n c) (hq : c.e.qid = 0)
include h hq

theorem exec_getLog_of {page : List Nat} {used : Nat} (ho : adminOf c.e = some .getLog)
    (hpage : s.logPage (c.e.options % 256) (specField c.e 40 1) = some (page, used)) (h1 : specField c.e 44 4 % 4 = 0) (h2 : bufferLen c.e % 4 = 0)
    (h3 : bufferLen c.e ≠ 0) (h4 : bufferLen c.e ≤ 2 ^ 20) (hb : s.bufferOk c.e (bufferLen c.e) = true) :
    exec (.getLog c.e.cid) s = .next (after (finish n St.success page.length
      (toHost c.e (padTo (bufferLen c.e) (page.drop (specField c.e 44 4))) (useFrees used s)))) := by
  refine (exec_getLog s).trans ((h.runAdmin_eq hq ho rfl _).trans ?_)
  simp only [hpage]
  rw [if_neg (by rintro (h | h | h | h) <;> omega), withBuffer, if_pos hb]
  rfl

theorem exec_identify_of {page : List Nat} (ho : adminOf c.e = some .identify)
    (hpage : s.identifyPage (c.e.options % 256) (specField c.e 40 1) = some page) (hb : s.bufferOk c.e 4096 = true) :
    exec (.identify c.e.cid) s = .next (after (finish n St.success 0 (toHost c.e (padTo 4096 page) s))) := by
  refine (exec_identify s).trans ((h.runAdmin_eq hq ho rfl _).trans ?_)
  simp only [hpage]
  rw [withBuffer, if_pos hb]
  rfl

end Pages

/-- Settles O36: enabling, doorbells, the fetch, the heartbeat record and the pages. -/
theorem queueCommandsComplete : Obligations.QueueCommandsComplete := by
  unfold Obligations.QueueCommandsComplete
  refine ⟨fun s hl he => ⟨fun hz => ?enable, fun hz => ?enableEmpty⟩, fun s he hs => ?ready, fun s hl he => ?disable, fun s hs => ?stopped,
    fun s i p hl hm hp => ⟨fun hi h4 => ?sqTail, fun hi => ?sqTailBad⟩, fun s i p hl hm hp hr h4 hs => ?cqHead, fun s hl => ?kick,
    fun s tails heads hs => ?poll, fun s e rest p hm hp hw hr => ?fetch, fun s ha hm hf hd => ⟨fun hb => ?record, fun hb => ?skipped⟩,
    fun s n c page used hrun hq ho hpage h1 h2 h3 h4 hb => ?log, fun s n c page hrun hq ho hpage hb => ?identify⟩
  case enable =>
    obtain ⟨hen, herr, hstart, hkeep⟩ := queuesEnabled_fields (ungate (islandOf 0x20000) s)
    exact .of_next (exec_queueEnable_of_sized hl he hz) ⟨hen, herr, hstart, hkeep.of_ungate⟩
  case enableEmpty =>
    refine .of_next (exec_queueEnable_of_empty hl he hz) ⟨get_setF_one rfl _, ?_, Keeps.of_ungate ((Keeps.refl _ _).setF _ _ (by decide))⟩
    rw [get_setF_ne _ _ _ _ (by decide), get_of_lands]
    exact get_eq_zero_of_off he
  case ready => exact .of_next (exec_queueReady_of_starting he hs) (queuesReady_fields s)
  case disable =>
    obtain ⟨hen, hkeep⟩ := queuesDisabled_fields (ungate (islandOf 0x20000) s)
    exact .of_next (exec_queueDisable_of_on hl he) ⟨hen, rfl, rfl, rfl, rfl, hkeep.of_ungate⟩
  case stopped => exact .of_next (exec_queueStopped_of_stopping hs) (queuesStopped_fields s)
  case sqTail =>
    obtain ⟨hget, hpair, hkeep⟩ := sqTailTaken_fields h4 (s := ungate (islandOf 0x20020) s) hp rfl
    exact .of_next (exec_adminSqTailWrite_of_good hm hp hl hi) ⟨hget, hpair, hkeep.of_ungate⟩
  case sqTailBad =>
    obtain ⟨hkind, hcnt, hkeep⟩ := ignored_fields (kind := 1) (by decide) 0 (ungate (islandOf 0x20020) s)
    rw [get_of_lands] at hcnt
    exact .of_next (exec_adminSqTailWrite_of_bad hm hp hl hi) ⟨hp, hkind, hcnt, hkeep.of_ungate⟩
  case cqHead =>
    obtain ⟨hget, hpair, hkeep⟩ := cqHeadTaken_fields h4 (s := ungate (islandOf 0x20024) s) hp hs rfl
    exact .of_next (exec_adminCqHeadWrite_of hm hp hl hr) ⟨hget, hpair, hkeep.of_ungate⟩
  case kick => exact .of_next (exec_of_lands hl (exec_kick s)) ⟨rfl, Keeps.of_ungate (keeps_written_iff.mpr (Keeps.refl _ _))⟩
  case poll =>
    obtain ⟨t, hexec, htails⟩ := exec_doorbellPoll_of_serving hs tails heads
    refine .of_next hexec fun q p v hp hq hf hv => ?_
    have hreads : (readHost (s.headSlot 1) (4 * s.topPair) (readHost (s.tailSlot 1) (4 * s.topPair) (bump Reg.QMX_POLL_CNT s))).tails q
        = s.tails q :=
      (view_readHost (State.tails · q) (fun _ _ => rfl) _ _ _).trans (view_readHost (State.tails · q) (fun _ _ => rfl) _ _ _)
    have ht := (htails q).trans (tails_of_poll (heads := heads) hp hq hf hv hreads)
    obtain ⟨x, hx, hxe⟩ := Option.map_eq_some_iff.mp ht
    obtain ⟨-, -, htail⟩ : x.sizeM1 = p.sizeM1 ∧ x.rawTail = v ∧ x.sqTail = if v ≤ p.sizeM1 then v else p.sqTail := by simpa using hxe
    rw [hx, Option.map_some, htail]
    exact ⟨fun hle => by rw [if_pos hle], fun hlt => by rw [if_neg (by omega)]⟩
  case fetch => exact .of_next (g := fun t => after (screenAll t)) (exec_commandFetch_of_admin hm hp hw hr) (entryTaken_fields hp rfl)
  case record =>
    obtain ⟨hcnt, hkeep⟩ := hbWritten_fields s
    exact .of_next (exec_heartbeatRecord_of_master ha hm hf hd hb) ⟨rfl, rfl, rfl, hcnt, hkeep⟩
  case skipped =>
    obtain ⟨hcnt, hkeep⟩ := hbSkipped_fields s
    exact .of_next (exec_heartbeatRecord_of_mute ha hm hf hd hb) ⟨rfl, hcnt, hkeep⟩
  case log => exact .of_next (exec_getLog_of (mayRun_iff hrun) hq ho hpage h1 h2 h3 h4 hb) rfl
  case identify => exact .of_next (exec_identify_of (mayRun_iff hrun) hq ho hpage hb) rfl

end Sys2Proof.Machine
end

section
/-! Mailboxes, locks and the timer (R419, R434 to R442): the obligation O37. -/

open Sys2Proof

namespace Sys2Proof.Machine

theorem ownerOf_lt (r : Requester) : ownerOf r < 2 ^ 8 := by
  cases r with
  | core n => show n.val + 1 < 2 ^ 8; omega
  | host => decide
  | dma _ => exact Nat.two_pow_pos 8
  | console => decide

theorem boxRefuses_ungate (i : Island) (s : State) (m : Nat) (r : Requester) : (ungate i s).boxRefuses m r = s.boxRefuses m r := rfl

/-! Mailboxes -/

/-- A mailbox that is sent (R434). -/
def boxSent (m : Nat) (hi : Word) (s : State) : State :=
  bump Reg.MBX_SENT_CNT (setF (Reg.MBX_BOX_STATUS_RECALLED m) 0 (setF (Reg.MBX_BOX_STATUS_FULL m) 1 (setF (Reg.MBX_BOX_DATA_HI_DATA m) hi.toNat s)))

theorem boxSent_fields {m : Nat} (hm : m < 64) (hi : Word) (s : State) : (boxSent m hi s).get (Reg.MBX_BOX_DATA_HI_DATA m) = hi.toNat
    ∧ (boxSent m hi s).get (Reg.MBX_BOX_STATUS_FULL m) = 1 ∧ (boxSent m hi s).get (Reg.MBX_BOX_STATUS_RECALLED m) = 0
    ∧ (boxSent m hi s).get Reg.MBX_SENT_CNT = (s.get Reg.MBX_SENT_CNT + 1) % 2 ^ 32
    ∧ Keeps [Reg.MBX_BOX_DATA_HI_DATA m, Reg.MBX_BOX_STATUS_FULL m, Reg.MBX_BOX_STATUS_RECALLED m, Reg.MBX_SENT_CNT] s (boxSent m hi s) := by
  have hcnt (f : Field) (hf : f.key < Reg.MBX_SENT_CNT.key) : Reg.MBX_SENT_CNT.key ≠ f.key := by omega
  have hkeys : (Reg.MBX_BOX_DATA_HI_DATA m).key < Reg.MBX_SENT_CNT.key ∧ (Reg.MBX_BOX_STATUS_FULL m).key < Reg.MBX_SENT_CNT.key
      ∧ (Reg.MBX_BOX_STATUS_RECALLED m).key < Reg.MBX_SENT_CNT.key := by
    simp only [Field.key, Reg.MBX_BOX_DATA_HI_DATA, Reg.MBX_BOX_STATUS_FULL, Reg.MBX_BOX_STATUS_RECALLED, Reg.MBX_SENT_CNT]
    omega
  have hrecall : (Reg.MBX_BOX_STATUS_RECALLED m).key ≠ (Reg.MBX_BOX_DATA_HI_DATA m).key
      ∧ (Reg.MBX_BOX_STATUS_RECALLED m).key ≠ (Reg.MBX_BOX_STATUS_FULL m).key
      ∧ (Reg.MBX_BOX_STATUS_FULL m).key ≠ (Reg.MBX_BOX_DATA_HI_DATA m).key := by
    simp only [Field.key, Reg.MBX_BOX_DATA_HI_DATA, Reg.MBX_BOX_STATUS_FULL, Reg.MBX_BOX_STATUS_RECALLED]
    omega
  refine ⟨?_, ?_, ?_, ?_, by simp [boxSent]⟩
  · rw [boxSent, get_bump_ne (hcnt _ hkeys.1), get_setF_ne _ _ _ _ hrecall.1, get_setF_ne _ _ _ _ hrecall.2.2]
    exact get_setF_of_lt hi.isLt s
  · rw [boxSent, get_bump_ne (hcnt _ hkeys.2.1), get_setF_ne _ _ _ _ hrecall.2.1, get_setF_one rfl]
  · rw [boxSent, get_bump_ne (hcnt _ hkeys.2.2), get_setF_zero]
  · rw [boxSent, get_bump_self, get_setF_ne _ _ _ _ (hcnt _ hkeys.2.2).symm, get_setF_ne _ _ _ _ (hcnt _ hkeys.2.1).symm,
      get_setF_ne _ _ _ _ (hcnt _ hkeys.1).symm]
    rfl

/-- A box's event: its status bit, and the count of all boxes. -/
theorem boxEvent_fields {f g : Field} (hf : f.width = 1) (hfg : g.key ≠ f.key) (hg : g.width = 32) (s : State) :
    (event f g s).get f = 1 ∧ (event f g s).get g = (s.get g + 1) % 2 ^ 32 ∧ Keeps [f, g] s (event f g s) := by
  refine ⟨get_event_flag f g s hfg (by rw [hf]; decide), ?_, by simp⟩
  rw [get_event_cnt f g s hfg.symm, hg]

theorem boxCnt_ne {m k : Nat} (hm : m < 64) {f g : Field} (hf : f.off = 0x90004 + 0x20 * m ∨ f.off = 0x90010 + 0x20 * m) (hlo : f.lo < 32)
    (hg : g.off = k) (hk : 0x91000 ≤ k) : g.key ≠ f.key := by
  simp only [Field.key, hg]
  omega

section Box
variable {s : State} {m : Fin 64} {r : Requester} (hl : s.lands (0x9000C + 0x20 * m.val) = true) (hk : hostKept m.val r = false)
include hl hk

theorem exec_mailboxSend_of_open {hi : Word} (hr : s.boxRefuses m.val r = false) :
    exec (.mailboxSend m r hi) s = .next (boxSent m.val hi (ungate (islandOf (0x9000C + 0x20 * m.val)) s)) := by
  rw [exec_mailboxSend, execMailboxSend, land_eq hl, boxRefuses_ungate]
  simp only [hk, hr, Bool.false_eq_true, if_false]
  rfl

theorem exec_mailboxSend_of_refused {hi : Word} (hr : s.boxRefuses m.val r = true) :
    exec (.mailboxSend m r hi) s = .next (dropBox m.val (ungate (islandOf (0x9000C + 0x20 * m.val)) s)) := by
  rw [exec_mailboxSend, execMailboxSend, land_eq hl, boxRefuses_ungate]
  simp only [hk, hr, Bool.false_eq_true, if_false, if_true]

theorem exec_mailboxTake_eq : exec (.mailboxTake m r) s
    = .next (when (ownerOf r != 0 && s.boxReceiver m.val == ownerOf r) (setF (Reg.MBX_BOX_STATUS_FULL m.val) 0)
        (emit (.readValue (s.get (Reg.MBX_BOX_DATA_HI_DATA m.val))) (ungate (islandOf (0x9000C + 0x20 * m.val)) s))) := by
  rw [exec_mailboxTake, execMailboxTake, land_eq hl]
  simp only [hk, Bool.false_eq_true, if_false]
  rfl

theorem exec_mailboxTake_of_receiver (ho : ownerOf r ≠ 0) (hr : s.boxReceiver m.val = ownerOf r) : exec (.mailboxTake m r) s
    = .next (setF (Reg.MBX_BOX_STATUS_FULL m.val) 0 (emit (.readValue (s.get (Reg.MBX_BOX_DATA_HI_DATA m.val)))
        (ungate (islandOf (0x9000C + 0x20 * m.val)) s))) := by
  rw [exec_mailboxTake_eq hl hk, when, if_pos (by simp [ho, hr])]

theorem exec_mailboxTake_of_other (hr : s.boxReceiver m.val ≠ ownerOf r) : exec (.mailboxTake m r) s
    = .next (emit (.readValue (s.get (Reg.MBX_BOX_DATA_HI_DATA m.val))) (ungate (islandOf (0x9000C + 0x20 * m.val)) s)) := by
  rw [exec_mailboxTake_eq hl hk, when, if_neg (by simp [hr])]

end Box

theorem exec_mailboxTimeout_of_full {s : State} {m : Fin 64} (h : s.on (Reg.MBX_BOX_STATUS_FULL m.val) = true) :
    exec (.mailboxTimeout m) s = .next (event (Reg.MBX_BOX_STATUS_TIMEOUT m.val) Reg.MBX_TIMEOUT_CNT s) :=
  (exec_mailboxTimeout s).trans (if_pos h)

/-! Locks -/

theorem lockAnswer_lockOwner {v : Nat} (hv : v < 2 ^ 8) (m : Nat) (s : State) : (setF (Reg.MBX_BOX_LOCK_OWNER m) v s).lockAnswer m = v :=
  get_setF_of_lt hv s

theorem keeps_lockOwner (m v : Nat) {s t : State} (h : Keeps [Reg.MBX_BOX_LOCK_OWNER m] s t) :
    Keeps [Reg.MBX_BOX_LOCK_OWNER m] s (setF (Reg.MBX_BOX_LOCK_OWNER m) v t) := h.setF _ _ (by simp)

theorem lockOwner_ne_cnt {m : Nat} (hm : m < 64) {g : Field} (hg : 0x91000 ≤ g.off) : g.key ≠ (Reg.MBX_BOX_LOCK_OWNER m).key := by
  simp only [Field.key, Reg.MBX_BOX_LOCK_OWNER]
  omega

section Lock
variable {s : State} {m : Fin 64} {r : Requester} (hl : s.lands (0x90010 + 0x20 * m.val) = true) (hk : hostKept m.val r = false)
include hl hk

theorem exec_lockRead_eq : exec (.lockRead m r) s
    = .next (readBoxLock m.val (ownerOf r) (emit (.readValue (s.lockAnswer m.val)) (ungate (islandOf (0x90010 + 0x20 * m.val)) s))) := by
  rw [exec_lockRead, execLockRead, land_eq hl]
  simp only [hk, Bool.false_eq_true, if_false]
  rfl

theorem exec_lockRead_of_free (ho : ownerOf r ≠ 0) (h : s.lockAnswer m.val = 0) : exec (.lockRead m r) s
    = .next (setF (Reg.MBX_BOX_LOCK_OWNER m.val) (ownerOf r) (emit (.readValue 0) (ungate (islandOf (0x90010 + 0x20 * m.val)) s))) := by
  rw [exec_lockRead_eq hl hk, h]
  exact congrArg _ (if_pos ⟨h, ho⟩)

theorem exec_lockRead_of_held (h : s.lockAnswer m.val ≠ 0) : exec (.lockRead m r) s
    = .next (emit (.readValue (s.lockAnswer m.val)) (ungate (islandOf (0x90010 + 0x20 * m.val)) s)) := by
  rw [exec_lockRead_eq hl hk]
  exact congrArg _ (if_neg fun hh => h hh.1)

theorem exec_lockRelease_eq (v : Nat) : exec (.lockRelease m r v) s
    = .next (freeBoxLock m.val (ownerOf r) v (ungate (islandOf (0x90010 + 0x20 * m.val)) s)) := by
  rw [exec_lockRelease, execLockRelease, land_eq hl]
  simp only [hk, Bool.false_eq_true, if_false]

theorem exec_lockRelease_of_owner (ho : ownerOf r ≠ 0) (h : s.lockAnswer m.val = ownerOf r) : exec (.lockRelease m r (ownerOf r)) s
    = .next (setF (Reg.MBX_BOX_LOCK_OWNER m.val) 0 (ungate (islandOf (0x90010 + 0x20 * m.val)) s)) := by
  rw [exec_lockRelease_eq hl hk]
  exact congrArg _ (if_pos ⟨ho, h, rfl⟩)

theorem exec_lockRelease_of_other {v : Nat} (h : s.lockAnswer m.val ≠ ownerOf r ∨ v ≠ ownerOf r) : exec (.lockRelease m r v) s
    = .next (bump Reg.MBX_DROP_CNT (ungate (islandOf (0x90010 + 0x20 * m.val)) s)) := by
  rw [exec_lockRelease_eq hl hk]
  exact congrArg _ (if_neg fun hh => h.elim (fun hn => hn hh.2.1) fun hn => hn hh.2.2)

end Lock

/-- A lock that a core takes from its owner (R440). -/
def lockForced (m : Nat) (s : State) : State :=
  bump Reg.MBX_LOCK_FORCE_CNT (setF (Reg.MBX_BOX_LOCK_OWNER m) 0 (setF Reg.MBX_LOCK_FORCE_GO 0 (setF Reg.MBX_LOCK_FORCE_BOX m s)))

theorem exec_lockForce_of_held {s : State} {m : Fin 64} {n : Fin 9} (hl : s.lands 0x91004 = true) (h : s.lockAnswer m.val ≠ 0) :
    exec (.lockForce m (.core n)) s = .next (lockForced m.val (ungate (islandOf 0x91004) s)) := by
  have hgo : Reg.MBX_LOCK_FORCE_GO.key ≠ (Reg.MBX_BOX_LOCK_OWNER m.val).key := lockOwner_ne_cnt m.isLt (by decide)
  have hbox : Reg.MBX_LOCK_FORCE_BOX.key ≠ (Reg.MBX_BOX_LOCK_OWNER m.val).key := lockOwner_ne_cnt m.isLt (by decide)
  have hown : (setF Reg.MBX_LOCK_FORCE_GO 0 (setF Reg.MBX_LOCK_FORCE_BOX m.val (ungate (islandOf 0x91004) s))).lockAnswer m.val
      = s.lockAnswer m.val := by
    rw [State.lockAnswer, get_setF_ne _ _ _ _ hgo, get_setF_ne _ _ _ _ hbox]
    exact get_of_lands _
  rw [exec_of_lands hl (exec_lockForce s)]
  refine congrArg _ (if_neg ?_)
  rw [hown]
  exact h

theorem lockForced_fields {m : Nat} (hm : m < 64) (s : State) : (lockForced m s).lockAnswer m = 0
    ∧ (lockForced m s).get Reg.MBX_LOCK_FORCE_CNT = (s.get Reg.MBX_LOCK_FORCE_CNT + 1) % 2 ^ 32
    ∧ Keeps [Reg.MBX_BOX_LOCK_OWNER m, Reg.MBX_LOCK_FORCE_CNT, Reg.MBX_LOCK_FORCE_GO, Reg.MBX_LOCK_FORCE_BOX] s (lockForced m s) := by
  refine ⟨?_, ?_, by simp [lockForced]⟩
  · rw [State.lockAnswer, lockForced, get_bump_ne (lockOwner_ne_cnt hm (by decide)), get_setF_zero]
  · rw [lockForced, get_bump_self, get_setF_ne _ _ _ _ (lockOwner_ne_cnt hm (by decide)).symm, get_setF_ne _ _ _ _ (by decide),
      get_setF_ne _ _ _ _ (by decide)]
    rfl

/-! The partner's locks -/

section Peer
variable {s : State} {n : Fin 9} {m : Fin 64} (hl : s.lands (0x91400 + 4 * m.val) = true)
include hl

theorem exec_peerLockRead_of_up (hu : s.on Reg.FOV_MIR_STATUS_LINK_UP = true) (he : s.on Reg.FOV_MIR_CTRL_ENABLE = true) (v : Nat) :
    exec (.peerLockRead n m (some v)) s
      = .next (emit (.readValue v) (emit (.mirrorControl .lockRequest [m.val, 0]) (ungate (islandOf (0x91400 + 4 * m.val)) s))) := by
  have hup : ((ungate (islandOf (0x91400 + 4 * m.val)) s).on Reg.FOV_MIR_STATUS_LINK_UP
      && (ungate (islandOf (0x91400 + 4 * m.val)) s).on Reg.FOV_MIR_CTRL_ENABLE) = true := by
    rw [State.on, State.on, get_of_lands, get_of_lands, ← State.on, ← State.on, hu, he]
    rfl
  rw [exec_of_lands hl (exec_peerLockRead s)]
  simp only [hup, when, if_true]
  rfl

theorem exec_peerLockRead_of_down (hu : s.on Reg.FOV_MIR_STATUS_LINK_UP = false) (v : Option Nat) :
    exec (.peerLockRead n m v) s = .next (emit (.readValue 0xFF) (ungate (islandOf (0x91400 + 4 * m.val)) s)) := by
  have hup : ((ungate (islandOf (0x91400 + 4 * m.val)) s).on Reg.FOV_MIR_STATUS_LINK_UP
      && (ungate (islandOf (0x91400 + 4 * m.val)) s).on Reg.FOV_MIR_CTRL_ENABLE) = false := by
    rw [State.on, get_of_lands, ← State.on, hu, Bool.false_and]
  rw [exec_of_lands hl (exec_peerLockRead s)]
  simp only [hup, when, Bool.false_eq_true, if_false]

theorem exec_peerLockRelease_of_up (hu : s.on Reg.FOV_MIR_STATUS_LINK_UP = true) (he : s.on Reg.FOV_MIR_CTRL_ENABLE = true) :
    exec (.peerLockRelease n m) s
      = .next (emit (.mirrorControl .lockRequest [m.val, 1]) (ungate (islandOf (0x91400 + 4 * m.val)) s)) := by
  rw [exec_of_lands hl (exec_peerLockRelease s)]
  refine congrArg _ (if_pos ?_)
  rw [State.on, State.on, get_of_lands, get_of_lands, ← State.on, ← State.on, hu, he]
  rfl

end Peer

theorem exec_peerLockRequest_of_free {s : State} {m : Fin 64} (hu : s.on Reg.FOV_MIR_STATUS_LINK_UP = true) (h : s.lockAnswer m.val = 0) :
    exec (.peerLockRequest m false) s
      = .next (setF (Reg.MBX_BOX_LOCK_OWNER m.val) 0x21 (emit (.mirrorControl .lockAnswer [m.val, 0]) s)) := by
  rw [exec_peerLockRequest, execPeerLockRequest, hu, h]
  exact congrArg Host.Outcome.next (if_pos (c := (emit (.mirrorControl .lockAnswer [m.val, 0]) s).lockAnswer m.val = 0 ∧ (0x21 : Nat) ≠ 0) ⟨h, by decide⟩)

theorem exec_peerLockRequest_of_release {s : State} {m : Fin 64} (hu : s.on Reg.FOV_MIR_STATUS_LINK_UP = true)
    (h : s.lockAnswer m.val = 0x21) : exec (.peerLockRequest m true) s = .next (setF (Reg.MBX_BOX_LOCK_OWNER m.val) 0 s) := by
  rw [exec_peerLockRequest, execPeerLockRequest, hu]
  exact congrArg Host.Outcome.next (if_pos (c := (0x21 : Nat) ≠ 0 ∧ s.lockAnswer m.val = 0x21 ∧ (0x21 : Nat) = 0x21) ⟨by decide, h, rfl⟩)

theorem exec_mtimeCompare_of_due {s : State} {n : Fin 9}
    (h : s.get64 (Reg.CCH_CORE_MTIMECMP_LO_CMP n.val) (Reg.CCH_CORE_MTIMECMP_HI_CMP n.val) ≤ s.clock) :
    exec (.mtimeCompare n) s = .next (emit (.timer n.val) s) := (exec_mtimeCompare s).trans (if_pos (decide_eq_true h))

/-- Settles O37: mailboxes, locks and the timer. -/
theorem mailboxCommandsComplete : Obligations.MailboxCommandsComplete := by
  unfold Obligations.MailboxCommandsComplete
  refine ⟨fun s m r hi hl hk => ⟨fun hr => ?send, fun hr => ?refused, fun ho hr => ?take, fun hr => ?takeOther⟩, fun s m h => ?timeout,
    fun s m r hl hk ho => ⟨fun h => ?lockFree, fun h => ?lockHeld, fun h => ?release, fun v h => ?releaseOther⟩, fun s m n hl h => ?force,
    fun s n m hl => ⟨fun hu he => ⟨fun v => ?peerRead, ?peerRelease⟩, fun hu v => ?peerDown⟩,
    fun s m hu => ⟨fun h => ?request, fun h => ?requestRelease⟩, fun s n h => ?timer⟩
  case send =>
    obtain ⟨hdata, hfull, hrec, hcnt, hkeep⟩ := boxSent_fields m.isLt hi (ungate (islandOf (0x9000C + 0x20 * m.val)) s)
    rw [get_of_lands] at hcnt
    exact .of_next (exec_mailboxSend_of_open hl hk hr) ⟨hdata, hfull, hrec, hcnt, hkeep.of_ungate⟩
  case refused =>
    have hlo : (Reg.MBX_BOX_STATUS_DROPPED m.val).lo < 32 := by show 2 < 32; decide
    obtain ⟨hflag, hcnt, hkeep⟩ := boxEvent_fields (f := Reg.MBX_BOX_STATUS_DROPPED m.val) (g := Reg.MBX_DROP_CNT) rfl
      (boxCnt_ne m.isLt (.inl rfl) hlo rfl (by decide)) rfl (ungate (islandOf (0x9000C + 0x20 * m.val)) s)
    rw [get_of_lands] at hcnt
    exact .of_next (exec_mailboxSend_of_refused hl hk hr) ⟨hflag, hcnt, hkeep.of_ungate⟩
  case take =>
    exact .of_next (exec_mailboxTake_of_receiver hl hk ho hr) ⟨rfl, get_setF_zero _ _,
      Keeps.of_ungate ((keeps_written_iff.mpr (Keeps.refl _ _)).setF _ _ (by simp))⟩
  case takeOther =>
    exact .of_next (exec_mailboxTake_of_other hl hk hr) ⟨rfl, Keeps.of_ungate (keeps_written_iff.mpr (Keeps.refl _ _))⟩
  case timeout =>
    have hlo : (Reg.MBX_BOX_STATUS_TIMEOUT m.val).lo < 32 := by show 1 < 32; decide
    exact .of_next (exec_mailboxTimeout_of_full h) (boxEvent_fields rfl (boxCnt_ne m.isLt (.inl rfl) hlo rfl (by decide)) rfl s)
  case lockFree =>
    exact .of_next (exec_lockRead_of_free hl hk ho h) ⟨rfl, lockAnswer_lockOwner (ownerOf_lt r) _ _,
      Keeps.of_ungate (keeps_lockOwner _ _ (keeps_written_iff.mpr (Keeps.refl _ _)))⟩
  case lockHeld => exact .of_next (exec_lockRead_of_held hl hk h) ⟨rfl, Keeps.of_ungate (keeps_written_iff.mpr (Keeps.refl _ _))⟩
  case release =>
    exact .of_next (exec_lockRelease_of_owner hl hk ho h)
      ⟨lockAnswer_lockOwner (by decide) _ _, Keeps.of_ungate (keeps_lockOwner _ _ (Keeps.refl _ _))⟩
  case releaseOther =>
    refine .of_next (exec_lockRelease_of_other hl hk h) ⟨?_, ?_, Keeps.of_ungate ((Keeps.refl _ _).bump _ (by simp))⟩
    · exact (get_bump_ne (lockOwner_ne_cnt m.isLt (by decide))).trans (get_of_lands _)
    · rw [get_bump_self, get_of_lands]
      rfl
  case force =>
    obtain ⟨hown, hcnt, hkeep⟩ := lockForced_fields m.isLt (ungate (islandOf 0x91004) s)
    rw [get_of_lands] at hcnt
    exact .of_next (exec_lockForce_of_held hl h) ⟨hown, hcnt, hkeep.of_ungate⟩
  case peerRead =>
    exact .of_next (exec_peerLockRead_of_up hl hu he v)
      ⟨rfl, Keeps.of_ungate (keeps_written_iff.mpr (keeps_written_iff.mpr (Keeps.refl _ _)))⟩
  case peerRelease => exact .of_next (exec_peerLockRelease_of_up hl hu he) ⟨rfl, Keeps.of_ungate (keeps_written_iff.mpr (Keeps.refl _ _))⟩
  case peerDown => exact .of_next (exec_peerLockRead_of_down hl hu v) ⟨rfl, Keeps.of_ungate (keeps_written_iff.mpr (Keeps.refl _ _))⟩
  case request =>
    exact .of_next (exec_peerLockRequest_of_free hu h) ⟨lockAnswer_lockOwner (by decide) _ _, rfl,
      keeps_lockOwner _ _ (keeps_written_iff.mpr (Keeps.refl _ _))⟩
  case requestRelease =>
    exact .of_next (exec_peerLockRequest_of_release hu h) ⟨lockAnswer_lockOwner (by decide) _ _, keeps_lockOwner _ _ (Keeps.refl _ _)⟩
  case timer => exact .of_next (exec_mtimeCompare_of_due h) ⟨rfl, keeps_written_iff.mpr (Keeps.refl _ _)⟩

end Sys2Proof.Machine
end

section
/-! The host link, Bus Master Enable and the resets over the link (R269 to R288): the obligation O38. -/

open Sys2Proof

namespace Sys2Proof.Machine

/-! Lanes -/

/-- The lanes' fields after a single lane has failed. -/
theorem showLanes_fields {l : Nat} (hl : l < 16) {s : State} (hs : s.hif.lanesFailed = [l]) :
    (showLanes s).get Reg.HIF_LINK_STATUS_FAILED_LANES = 2 ^ l ∧ (showLanes s).get Reg.HIF_LINK_STATUS_WIDTH = 8
    ∧ (showLanes s).get Reg.HIF_LINK_STATUS_REVERSED = (if l < 8 then 1 else 0) ∧ (showLanes s).get Reg.HIF_LINK_STATUS_DEGRADED = 1
    ∧ (showLanes s).get Reg.HIF_DEGRADE_CNT = s.get Reg.HIF_DEGRADE_CNT := by
  have hlink : linkWidth [l] = (8, decide (l < 8)) := by
    by_cases h8 : l < 8
    · have hlow : ¬ 7 < l := by omega
      simp [linkWidth, h8, hlow]
    · have hlow : 7 < l := by omega
      simp [linkWidth, h8, hlow]
  have hmask : laneMask s.hif.lanesFailed = 2 ^ l := by rw [hs]; simp [laneMask, once, addOnce]
  have hempty : s.hif.lanesFailed.isEmpty = false := by rw [hs]; rfl
  rw [showLanes, hmask, hempty, hs, hlink]
  dsimp only
  refine ⟨?_, ?_, ?_, ?_, ?_⟩
  · rw [get_setF_ne _ _ _ _ (by decide), get_setF_ne _ _ _ _ (by decide), get_setF_ne _ _ _ _ (by decide)]
    exact get_setF_of_lt (Nat.pow_lt_pow_right (by decide) hl) s
  · exact get_setF_of_lt (by decide) _
  · rw [get_setF_ne _ _ _ _ (by decide), get_setF_of_lt (b2n_lt_two _)]
    simp [b2n]
  · rw [get_setF_ne _ _ _ _ (by decide), get_setF_ne _ _ _ _ (by decide)]
    exact get_setF_one rfl _
  · rw [get_setF_ne _ _ _ _ (by decide), get_setF_ne _ _ _ _ (by decide), get_setF_ne _ _ _ _ (by decide), get_setF_ne _ _ _ _ (by decide)]

theorem hif_pushRecord (k c i r d : Nat) (s : State) : (pushRecord k c i r d s).hif = s.hif := by
  unfold pushRecord
  split_ifs <;> rfl

/-- The link shown with its first failed lane. -/
def laneShown (l : Nat) (s : State) : State := showLanes { s with hif := { s.hif with lanesFailed := [l] } }

/-- What the first failed lane leaves (R269, R464). -/
def laneLost (l : Nat) (s : State) : State :=
  useFree (pushRecord 12 0x10 0 ((laneShown l s).freeVal 8) (laneMask [l] + 2 ^ 16 * 8)
    (event Reg.HIF_FW_EVENT_LINK_DEGRADED Reg.HIF_DEGRADE_CNT (laneShown l s)))

theorem width_of_lane {l : Nat} (hl : l < 16) : (linkWidth [l]).1 = 8 := by
  by_cases h8 : l < 8
  · have hlow : ¬ 7 < l := by omega
    simp [linkWidth, h8, hlow]
  · have hlow : 7 < l := by omega
    simp [linkWidth, hlow]

theorem failLanes_of_first {l : Nat} (hl : l < 16) {s : State} (hs : s.hif.lanesFailed = []) : failLanes [l] s = laneLost l s := by
  have hfull : (linkWidth ([] : List Nat)).1 = 16 := rfl
  have hshown : (showLanes { s with hif := { s.hif with lanesFailed := [l] } }).hif.lanesFailed = [l] := rfl
  unfold failLanes
  simp only [hs, List.contains_nil, Bool.not_false, List.filter_true, List.isEmpty_cons, Bool.false_eq_true, if_false, List.nil_append,
    hshown, width_of_lane hl, hfull, Nat.reduceLT, if_true, Nat.reduceEqDiff]
  rfl

theorem exec_laneFailure_of_bad {s : State} {lane : Fin 16} (hs : s.hif.lanesFailed = []) :
    exec (.laneFailure lane 0) s = .next (laneLost lane.val s) := by
  rw [exec_laneFailure, execLaneFailure, ← failLanes_of_first lane.isLt hs]
  exact if_pos (.inl rfl)

theorem laneLost_fields {l : Nat} (hl : l < 16) (s : State) : (laneLost l s).hif.lanesFailed = [l]
    ∧ (laneLost l s).get Reg.HIF_LINK_STATUS_FAILED_LANES = 2 ^ l ∧ (laneLost l s).get Reg.HIF_LINK_STATUS_WIDTH = 8
    ∧ (laneLost l s).get Reg.HIF_LINK_STATUS_REVERSED = (if l < 8 then 1 else 0) ∧ (laneLost l s).get Reg.HIF_LINK_STATUS_DEGRADED = 1
    ∧ (laneLost l s).get Reg.HIF_DEGRADE_CNT = (s.get Reg.HIF_DEGRADE_CNT + 1) % 2 ^ 32 ∧ (laneLost l s).hif.up = s.hif.up := by
  obtain ⟨hmask, hwidth, hrev, hdeg, hcnt⟩ := showLanes_fields hl (s := { s with hif := { s.hif with lanesFailed := [l] } }) rfl
  have hget {f : Field} (hf : f.key ∉ recordFields.map Field.key) :
      (laneLost l s).get f = (event Reg.HIF_FW_EVENT_LINK_DEGRADED Reg.HIF_DEGRADE_CNT (laneShown l s)).get f :=
    (get_of_regs f rfl).trans (get_pushRecord _ _ _ _ _ _ hf)
  have hhif : (laneLost l s).hif = { s.hif with lanesFailed := [l] } := (hif_pushRecord _ _ _ _ _ _ : (pushRecord 12 0x10 0 _ _ _).hif = _)
  rw [hhif, hget (by decide), hget (by decide), hget (by decide), hget (by decide), hget (by decide), get_event_ne (by decide) (by decide),
    get_event_ne (by decide) (by decide), get_event_ne (by decide) (by decide), get_event_ne (by decide) (by decide),
    get_event_cnt _ _ _ (by decide)]
  refine ⟨rfl, hmask, hwidth, hrev, hdeg, ?_, rfl⟩
  rw [laneShown, hcnt]
  rfl

/-- Lane errors within the limit (R269). -/
def laneErrors (n : Nat) (s : State) : State := setF Reg.HIF_FW_EVENT_LANE_ERR 1 (bumpBy Reg.HIF_LANE_ERR_CNT n s)

theorem exec_laneFailure_of_few {s : State} {lane : Fin 16} {errors : Nat} (h0 : errors ≠ 0)
    (h : s.get Reg.HIF_LINK_CTRL_LANE_ERR_LIMIT = 0 ∨ errors ≤ s.get Reg.HIF_LINK_CTRL_LANE_ERR_LIMIT) :
    exec (.laneFailure lane errors) s = .next (laneErrors errors s) := by
  have hlim : ¬ (errors = 0 ∨ (s.get Reg.HIF_LINK_CTRL_LANE_ERR_LIMIT ≠ 0 ∧ s.get Reg.HIF_LINK_CTRL_LANE_ERR_LIMIT < errors)) := by omega
  rw [exec_laneFailure, execLaneFailure, if_neg hlim, if_neg h0]
  rfl

theorem laneErrors_fields (n : Nat) (s : State) : (laneErrors n s).get Reg.HIF_LANE_ERR_CNT = (s.get Reg.HIF_LANE_ERR_CNT + n) % 2 ^ 32
    ∧ (laneErrors n s).hif = s.hif ∧ Keeps [Reg.HIF_LANE_ERR_CNT, Reg.HIF_FW_EVENT_LANE_ERR] s (laneErrors n s) := by
  refine ⟨?_, rfl, by simp [laneErrors, bumpBy]⟩
  rw [laneErrors, get_setF_ne _ _ _ _ (by decide), bumpBy, get_setF_self]
  rfl

/-- The lanes tried again (R269). -/
def lanesTried (s : State) : State :=
  let t1 := if s.hif.lanesFailed.isEmpty then s else useFree (pushRecord 13 0x10 0 (s.freeVal 8) (2 ^ 16 * 16) s)
  setF Reg.HIF_LINK_CTRL_RESTORE 1 (setF Reg.HIF_LINK_STATUS_FAILED_LANES 0 (setF Reg.HIF_LINK_STATUS_DEGRADED 0
    { t1 with hif := { t1.hif with lanesFailed := [], training := true } }))

theorem exec_linkRestore_of {s : State} (hl : s.lands 0x10004 = true) (hr : s.on Reg.HIF_LINK_CTRL_RESTORE = false) :
    exec .linkRestore s = .next (lanesTried (ungate (islandOf 0x10004) s)) := by
  rw [exec_of_lands hl (exec_linkRestore s), if_neg]
  · rfl
  · rw [State.on, get_of_lands, ← State.on, hr]
    exact Bool.false_ne_true

theorem lanesTried_fields (s : State) : (lanesTried s).get Reg.HIF_LINK_CTRL_RESTORE = 1
    ∧ (lanesTried s).get Reg.HIF_LINK_STATUS_FAILED_LANES = 0 ∧ (lanesTried s).get Reg.HIF_LINK_STATUS_DEGRADED = 0 := by
  refine ⟨get_setF_one rfl _, ?_, ?_⟩
  · exact (get_setF_ne _ _ _ _ (by decide)).trans (get_setF_zero _ _)
  · exact (get_setF_ne _ _ _ _ (by decide)).trans ((get_setF_ne _ _ _ _ (by decide)).trans (get_setF_zero _ _))

/-- The link as it trained with every lane (R269). -/
def linkTrainedFull (speed : Nat) (s : State) : State :=
  let s2 := setF Reg.HIF_LINK_STATUS_SPEED speed
    (showLanes (setF Reg.HIF_LINK_CTRL_RESTORE 0 { s with hif := { s.hif with training := false } }))
  { s2 with hif := { s2.hif with up := true } }

theorem exec_linkTrained_of_full {s : State} {speed : Fin 6} {lanes : List (Fin 16)} (hsp : speed.val ≠ 0) (hall : ∀ l, l ∈ lanes)
    (hs : s.hif.lanesFailed = []) : exec (.linkTrained speed lanes) s = .next (linkTrainedFull speed.val s) := by
  have hbad : (List.range 16).filter (fun l => !(lanes.map Fin.val).contains l) = [] := by
    refine List.filter_eq_nil_iff.mpr fun l hl hn => ?_
    have hmem : l ∈ lanes.map Fin.val := List.mem_map.mpr ⟨⟨l, List.mem_range.mp hl⟩, hall _, rfl⟩
    simp [hmem] at hn
  have hfail (t : State) : failLanes [] t = t := rfl
  have hwidth : (linkWidth (setF Reg.HIF_LINK_CTRL_RESTORE 0 { s with hif := { s.hif with training := false } }).hif.lanesFailed).1 = 16 := by
    show (linkWidth s.hif.lanesFailed).1 = 16
    rw [hs]
    rfl
  rw [exec_linkTrained, execLinkTrained]
  simp only [hbad, hfail, hwidth, hsp, false_or, OfNat.ofNat_ne_zero, if_false]
  rfl

theorem linkTrainedFull_fields {speed : Nat} (hsp : speed < 6) {s : State} (hs : s.hif.lanesFailed = []) :
    (linkTrainedFull speed s).get Reg.HIF_LINK_STATUS_SPEED = speed ∧ (linkTrainedFull speed s).get Reg.HIF_LINK_STATUS_WIDTH = 16
    ∧ (linkTrainedFull speed s).get Reg.HIF_LINK_CTRL_RESTORE = 0
    ∧ Keeps [Reg.HIF_LINK_STATUS_SPEED, Reg.HIF_LINK_STATUS_WIDTH, Reg.HIF_LINK_STATUS_REVERSED, Reg.HIF_LINK_STATUS_DEGRADED,
        Reg.HIF_LINK_STATUS_FAILED_LANES, Reg.HIF_LINK_CTRL_RESTORE] s (linkTrainedFull speed s) := by
  obtain ⟨u, hu⟩ : ∃ u, u = setF Reg.HIF_LINK_CTRL_RESTORE 0 { s with hif := { s.hif with training := false } } := ⟨_, rfl⟩
  have hget (f : Field) : (linkTrainedFull speed s).get f = (setF Reg.HIF_LINK_STATUS_SPEED speed (showLanes u)).get f := by
    rw [hu]
    exact get_of_regs f rfl
  have hlanes : u.hif.lanesFailed = [] := by rw [hu]; exact hs
  have hwidth : (linkWidth u.hif.lanesFailed).1 = 16 := by rw [hlanes]; rfl
  refine ⟨?_, ?_, ?_, ?_⟩
  · rw [hget]
    exact get_setF_of_lt (Nat.lt_of_lt_of_le hsp (by decide)) _
  · rw [hget, get_setF_ne _ _ _ _ (by decide), showLanes, hwidth]
    exact get_setF_of_lt (by decide) _
  · rw [hget, get_setF_ne _ _ _ _ (by decide), showLanes, get_setF_ne _ _ _ _ (by decide), get_setF_ne _ _ _ _ (by decide),
      get_setF_ne _ _ _ _ (by decide), get_setF_ne _ _ _ _ (by decide), hu, get_setF_zero]
  · refine Keeps.of_eq (t := setF Reg.HIF_LINK_STATUS_SPEED speed (showLanes u)) ?_ (by rw [hu]; rfl) (by rw [hu]; rfl)
    rw [hu, showLanes]
    simp

/-! Bus Master Enable and D3hot -/

theorem keeps_sendVectors {fs : List Field} {s t : State} (h : Keeps fs s t) (hf : Reg.MSIX_PBA_LO_PENDING.key ∈ fs.map Field.key) :
    Keeps fs s (sendVectors t) := h.trans ((sendVectors_keeps t).mono (by simpa using hf))

/-- Bus mastering is taken away (R285). -/
def masteringOff (s : State) : State :=
  let s2 := sendVectors (when s.masters (event Reg.HIF_FW_EVENT_BME_CLEARED Reg.HIF_BME_CLEAR_CNT) s)
  { s2 with hif := { s2.hif with busMaster := false } }

theorem exec_busMasterDisable_of_on {s : State} (h : s.hif.busMaster = true) :
    exec .busMasterDisable s = .next (stopMastering (masteringOff s)) := (exec_busMasterDisable s).trans (if_pos h)

theorem masteringOff_fields (s : State) : (s.masters = true → (masteringOff s).get Reg.HIF_BME_CLEAR_CNT = (s.get Reg.HIF_BME_CLEAR_CNT + 1) % 2 ^ 32)
    ∧ Keeps [Reg.HIF_BME_CLEAR_CNT, Reg.HIF_FW_EVENT_BME_CLEARED, Reg.MSIX_PBA_LO_PENDING] s (masteringOff s) := by
  refine ⟨fun hm => ?_, ?_⟩
  · refine (get_of_regs _ rfl).trans (((sendVectors_keeps _).get (by decide)).trans ?_)
    rw [hm, when, if_pos rfl, get_event_cnt _ _ _ (by decide)]
    rfl
  · refine .of_eq (t := sendVectors (when s.masters (event Reg.HIF_FW_EVENT_BME_CLEARED Reg.HIF_BME_CLEAR_CNT) s)) ?_ rfl rfl
    exact keeps_sendVectors (Keeps.when _ _ (Keeps.refl _ _) fun h => h.event _ _ (by decide) (by decide)) (by decide)

theorem exec_busMasterEnable_of_off {s : State} (h : s.hif.busMaster = false) :
    exec .busMasterEnable s = .next (resumeMastering { s with hif := { s.hif with busMaster := true } }) :=
  (exec_busMasterEnable s).trans (if_neg (by simp [h]))

/-- The function is in D3hot (R275). -/
def powerStateDown (s : State) : State := { sendVectors s with hif := { (sendVectors s).hif with d3hot := true } }

theorem exec_d3hotEntry_of_up {s : State} (h : s.hif.d3hot = false) : exec .d3hotEntry s = .next (stopMastering (powerStateDown s)) :=
  (exec_d3hotEntry s).trans (if_neg (by simp [h]))

theorem exec_d0Return_of_down {s : State} (h : s.hif.d3hot = true) :
    exec .d0Return s = .next (resumeMastering { s with hif := { s.hif with d3hot := false } }) := (exec_d0Return s).trans (if_pos h)

/-! Resets over the link -/

theorem lockOwner_key_inj {m k : Nat} (h : (Reg.MBX_BOX_LOCK_OWNER m).key = (Reg.MBX_BOX_LOCK_OWNER k).key) : m = k := by
  simp only [Field.key, Reg.MBX_BOX_LOCK_OWNER] at h
  omega

theorem lockAnswer_forceLock_self {m : Nat} (hm : m < 64) (s : State) : (forceLock m s).lockAnswer m = 0 := by
  unfold forceLock
  split_ifs with h
  · exact h
  · rw [State.lockAnswer, get_bump_ne (lockOwner_ne_cnt hm (by decide)), get_setF_zero]

theorem lockAnswer_forceLock_ne {m k : Nat} (hm : m < 64) (hk : k ≠ m) (s : State) : (forceLock k s).lockAnswer m = s.lockAnswer m := by
  unfold forceLock
  split_ifs
  · rfl
  · rw [State.lockAnswer, get_bump_ne (lockOwner_ne_cnt hm (by decide)), get_setF_ne _ _ _ _ fun h => hk (lockOwner_key_inj h)]
    rfl

/-- No lock is left to an owner whose locks are released (R440). -/
theorem lockAnswer_forceOwner {o m : Nat} (ho : o ≠ 0) (hm : m < 64) (s : State) : (forceOwner o s).lockAnswer m ≠ o := by
  by_cases hs : s.lockAnswer m = o
  · have hmem : m ∈ (List.range 64).filter (fun m => s.lockAnswer m == o) := List.mem_filter.mpr ⟨List.mem_range.mpr hm, by simpa using hs⟩
    refine forEach_of_mem (Q := fun u => u.lockAnswer m ≠ o) hmem (fun u => ?_) (fun y _ u hu => ?_) s
    · rw [lockAnswer_forceLock_self hm]
      exact ho.symm
    · by_cases hy : y = m
      · rw [hy, lockAnswer_forceLock_self hm]
        exact ho.symm
      · rwa [lockAnswer_forceLock_ne hm hy]
  · have hkeep : (forceOwner o s).lockAnswer m = s.lockAnswer m := by
      refine get_forEach_of_mem (fun y hy u => ?_) s
      have hne : y ≠ m := fun e => hs (by simpa [e] using (List.mem_filter.mp hy).2)
      exact lockAnswer_forceLock_ne hm hne u
    rwa [hkeep]

theorem hif_forceOwner (o : Nat) (s : State) : (forceOwner o s).hif = s.hif := (within_forceOwner o s).view State.hif fun _ => rfl

theorem get_forceOwner {f : Field} (hf : ¬ mbxKey f.key) (o : Nat) (s : State) : (forceOwner o s).get f = s.get f := (within_forceOwner o s).get hf

/-- The function-level reset runs (R287). -/
def flrBegun (s : State) : State :=
  let s1 := event Reg.HIF_FW_EVENT_FLR Reg.HIF_FLR_CNT (forceOwner 0x20 (silence s))
  { s1 with hif := { s1.hif with flr := true } }

theorem exec_flr_of {s : State} (h : s.hif.flr = false) : exec .flr s = .next (flrBegun s) := (exec_flr s).trans (if_neg (by simp [h]))

/-- The state in which a line is silent, before its own fields are written. -/
theorem silence_fields (s : State) : (silence s).get Reg.HIF_IRQ_CTRL_ASSERTED = 0 ∧ (silence s).get Reg.MSIX_PBA_LO_PENDING = 0
    ∧ (silence s).hif.heldMsgs = [] ∧ (silence s).get Reg.HIF_FLR_CNT = s.get Reg.HIF_FLR_CNT := by
  obtain ⟨b, hb⟩ : ∃ b, silence s = { setF Reg.HIF_IRQ_CTRL_ASSERTED 0 (setF Reg.MSIX_PBA_LO_PENDING 0 (when b (emit .deassertInta) s)) with
      hif := { (when b (emit .deassertInta) s).hif with heldMsgs := [], vecDue := [] } } := ⟨_, rfl⟩
  have hget (f : Field) : (silence s).get f
      = (setF Reg.HIF_IRQ_CTRL_ASSERTED 0 (setF Reg.MSIX_PBA_LO_PENDING 0 (when b (emit .deassertInta) s))).get f := by
    rw [hb]
    exact get_of_regs f rfl
  rw [hget, hget, hget]
  refine ⟨get_setF_zero _ _, ?_, by rw [hb], ?_⟩
  · rw [get_setF_ne _ _ _ _ (by decide), get_setF_zero]
  · rw [get_setF_ne _ _ _ _ (by decide), get_setF_ne _ _ _ _ (by decide)]
    exact when_of_eq _ (State.get · Reg.HIF_FLR_CNT) rfl

theorem flrBegun_fields (s : State) : (flrBegun s).get Reg.HIF_IRQ_CTRL_ASSERTED = 0 ∧ (flrBegun s).get Reg.MSIX_PBA_LO_PENDING = 0
    ∧ (flrBegun s).hif.heldMsgs = [] ∧ (flrBegun s).get Reg.HIF_FLR_CNT = (s.get Reg.HIF_FLR_CNT + 1) % 2 ^ 32
    ∧ ∀ m : Fin 64, (flrBegun s).lockAnswer m.val ≠ 0x20 := by
  obtain ⟨hline, hpend, hmsgs, hcnt⟩ := silence_fields s
  have hget (f : Field) : (flrBegun s).get f = (event Reg.HIF_FW_EVENT_FLR Reg.HIF_FLR_CNT (forceOwner 0x20 (silence s))).get f := get_of_regs f rfl
  refine ⟨?_, ?_, ?_, ?_, fun m => ?_⟩
  · rw [hget, get_event_ne (by decide) (by decide), get_forceOwner (by decide), hline]
  · rw [hget, get_event_ne (by decide) (by decide), get_forceOwner (by decide), hpend]
  · exact (congrArg HifPart.heldMsgs (hif_forceOwner 0x20 (silence s))).trans hmsgs
  · rw [hget, get_event_cnt _ _ _ (by decide), get_forceOwner (by decide), hcnt]
    rfl
  · have hkey {g : Field} (hg : g.off < 0x20000) (hlo : g.lo < 32) : g.key ≠ (Reg.MBX_BOX_LOCK_OWNER m.val).key := by
      simp only [Field.key, Reg.MBX_BOX_LOCK_OWNER]
      omega
    rw [State.lockAnswer, hget, get_event_ne (hkey (by decide) (by decide)) (hkey (by decide) (by decide))]
    exact lockAnswer_forceOwner (by decide) m.isLt _

theorem get_resetRegs_of {p : Nat → Bool} {f : Field} (h : p (f.key / 32) = true) (s : State) : (resetRegs p s).get f = f.reset := by
  have hnone : Assoc.find (s.regs.filter fun r => !p (r.1 / 32)) f.key = none := by
    induction s.regs with
    | nil => rfl
    | cons x l ih =>
      by_cases hx : p (x.1 / 32) = true
      · rw [List.filter_cons_of_neg (by simp [hx]), ih]
      · rw [List.filter_cons_of_pos (by simp [hx]), Assoc.find, if_neg fun e : x.1 = f.key => hx (by rw [e]; exact h), ih]
  show Assoc.getD (s.regs.filter fun r => !p (r.1 / 32)) f.key f.reset = f.reset
  rw [Assoc.getD, hnone]
  rfl

/-- The queue manager's registers and pairs after its reset. -/
theorem resetQueues_fields (s : State) : (resetQueues s).get Reg.QMX_CTRL_EN = 0 ∧ (resetQueues s).get Reg.QMX_STATUS_RDY = 0
    ∧ (resetQueues s).qmx.pairs = [] ∧ (resetQueues s).hif = s.hif
    ∧ ∀ f : Field, f.key < 0x20000 * 32 → (resetQueues s).get f = s.get f := by
  have hget (f : Field) : (resetQueues s).get f
      = (resetRegs (fun off => decide (0x20000 ≤ off) && decide (off < 0x30000)) (orphanCmds s)).get f := get_of_regs f rfl
  have horphan {α : Type} (v : State → α) (hv : ∀ (s : State) q a, v { s with qmx := q, sas := a } = v s) : v (orphanCmds s) = v s := by
    have hdrop (l : List Nat) : v (forEach l dropPieces s) = v s := view_forEach v (fun n t => hv t t.qmx _) s
    exact (hv _ _ (forEach _ dropPieces s).sas).trans (hdrop _)
  refine ⟨?_, ?_, rfl, horphan State.hif fun _ _ _ => rfl, fun f hf => ?_⟩
  · rw [hget, get_resetRegs_of (by decide)]
    rfl
  · rw [hget, get_resetRegs_of (by decide)]
    rfl
  · rw [hget, get_resetRegs_of_not (by simp; omega)]
    exact horphan (State.get · f) fun _ _ _ => rfl

theorem get_resetConfig {f : Field} (hf : f.key < 0x300000 * 32) (s : State) : (resetConfig s).get f = s.get f :=
  (get_of_regs f rfl).trans (get_resetRegs_of_not (p := fun off => decide (0x300000 ≤ off)) (by simp; omega) s)

theorem exec_flrComplete_of {s : State} (h : s.hif.flr = true) :
    exec .flrComplete s = .next (resetConfig (resetQueues (resetRegs flrResets s))) := (exec_flrComplete s).trans (if_pos h)

theorem flrDone_fields (s : State) {t : State} (ht : t = resetConfig (resetQueues (resetRegs flrResets s))) :
    t.hif.flr = false ∧ t.qmx.pairs = [] ∧ t.get Reg.QMX_CTRL_EN = 0 ∧ t.get Reg.QMX_STATUS_RDY = 0 ∧ t.hif.busMaster = false
    ∧ t.hif.up = s.hif.up ∧ t.get Reg.HIF_LINK_STATUS_WIDTH = s.get Reg.HIF_LINK_STATUS_WIDTH := by
  obtain ⟨hen, hrdy, hpairs, hhif, hlow⟩ := resetQueues_fields (resetRegs flrResets s)
  rw [ht, get_resetConfig (by decide), get_resetConfig (by decide), get_resetConfig (by decide), hen, hrdy, hlow _ (by decide)]
  exact ⟨rfl, hpairs, rfl, rfl, rfl, (congrArg HifPart.up hhif : (resetQueues (resetRegs flrResets s)).hif.up = _), get_resetRegs_of_not (by decide) s⟩

/-- The HOST island as a reset over the link leaves it, its locks not yet released (R286). -/
def linkCut (s : State) : State :=
  let s1 := resetConfig (resetQueues (resetRegs (fun off => decide (0x10000 ≤ off) && decide (off < 0x20000)) s))
  { s1 with hif := { s1.hif with up := false, training := true } }

theorem linkReset_eq (s : State) :
    linkReset s = forceOwner 0x20 (when s.hif.up (event Reg.HIF_FW_EVENT_LINK_DOWN Reg.HIF_LINK_DOWN_CNT) (linkCut s)) := rfl

theorem linkReset_fields (s : State) : (linkReset s).hif.up = false ∧ (linkReset s).hif.training = true ∧ (linkReset s).hif.flr = false
    ∧ (linkReset s).hif.busMaster = false ∧ (linkReset s).qmx.pairs = [] ∧ (linkReset s).get Reg.QMX_CTRL_EN = 0
    ∧ (linkReset s).get Reg.QMX_STATUS_RDY = 0 ∧ ∀ m : Fin 64, (linkReset s).lockAnswer m.val ≠ 0x20 := by
  obtain ⟨u, hu⟩ : ∃ u, u = resetQueues (resetRegs (fun off => decide (0x10000 ≤ off) && decide (off < 0x20000)) s) := ⟨_, rfl⟩
  obtain ⟨hen, hrdy, hpairs, -, -⟩ := resetQueues_fields (resetRegs (fun off => decide (0x10000 ≤ off) && decide (off < 0x20000)) s)
  rw [← hu] at hen hrdy hpairs
  have hcut : linkCut s = { resetConfig u with hif := { (resetConfig u).hif with up := false, training := true } } := by rw [hu]; rfl
  have hhif : (linkReset s).hif = (linkCut s).hif := by
    rw [linkReset_eq, hif_forceOwner]
    exact when_of_eq _ State.hif rfl
  have hget {f : Field} (hf : ¬ mbxKey f.key) (hq : 0x20000 * 32 ≤ f.key) (hh : f.key < 0x300000 * 32) : (linkReset s).get f = u.get f := by
    have hdown : Reg.HIF_FW_EVENT_LINK_DOWN.key < 0x20000 * 32 ∧ Reg.HIF_LINK_DOWN_CNT.key < 0x20000 * 32 := by decide
    rw [linkReset_eq, get_forceOwner hf, when_of_eq _ (State.get · f) (get_event_ne (by omega) (by omega)), hcut]
    exact (get_of_regs f rfl).trans (get_resetConfig hh u)
  have hqmx : (linkReset s).qmx = u.qmx := by
    rw [linkReset_eq, (within_forceOwner _ _).view State.qmx fun _ => rfl, when_of_eq _ State.qmx rfl, hcut]
    rfl
  rw [hhif, hget (by decide) (by decide) (by decide), hget (by decide) (by decide) (by decide), hqmx]
  exact ⟨rfl, rfl, rfl, rfl, hpairs, hen, hrdy, fun m => lockAnswer_forceOwner (by decide) m.isLt _⟩

theorem exec_of_linkReset {c : Instr} (hc : c ∈ [Instr.perst, .hotReset, .dlDown]) (s : State) : exec c s = .next (linkReset s) := by
  simp only [List.mem_cons, List.not_mem_nil, or_false] at hc
  rcases hc with rfl | rfl | rfl
  · exact exec_perst s
  · exact exec_hotReset s
  · exact exec_dlDown s

/-- A read of the host's memory that failed (R284). -/
def readErrored (s : State) : State :=
  event Reg.HIF_FW_EVENT_HOST_READ_ERR Reg.HIF_HOST_READ_ERR_CNT { s with hif := { s.hif with aer := 2 :: s.hif.aer } }

theorem exec_hostReadError_of_doorbells {s : State} (h : s.masters = true) : exec (.hostReadError .doorbells) s = .next (readErrored s) := by
  rw [exec_hostReadError, execHostReadError, h]
  rfl

theorem readErrored_fields (s : State) : (readErrored s).get Reg.HIF_HOST_READ_ERR_CNT = (s.get Reg.HIF_HOST_READ_ERR_CNT + 1) % 2 ^ 32
    ∧ Keeps [Reg.HIF_HOST_READ_ERR_CNT, Reg.HIF_FW_EVENT_HOST_READ_ERR] s (readErrored s) := by
  refine ⟨?_, .event _ _ (by decide) (by decide) (.of_eq (t := s) (Keeps.refl _ _) rfl rfl)⟩
  rw [readErrored, get_event_cnt _ _ _ (by decide)]
  rfl

/-- Settles O38: the host link, its resets, Bus Master Enable and D3hot. -/
theorem hostLinkComplete : Obligations.HostLinkComplete := by
  unfold Obligations.HostLinkComplete
  refine ⟨fun s lane errors => ⟨fun hs => ?bad, fun h0 hlim => ?few⟩, fun s hl hr => ?restore, fun s speed lanes hsp hall hs => ?trained,
    fun s h => ?masterOff, fun s h => ?masterOn, fun s h => ?down, fun s h => ?up, fun s h => ?flr, fun s h => ?flrDone, fun s c hc => ?reset,
    fun s h => ?readError⟩
  case bad => exact .of_next (exec_laneFailure_of_bad hs) (laneLost_fields lane.isLt s)
  case few => exact .of_next (exec_laneFailure_of_few h0 hlim) (laneErrors_fields errors s)
  case restore =>
    obtain ⟨hres, hfail, hdeg⟩ := lanesTried_fields (ungate (islandOf 0x10004) s)
    exact .of_next (exec_linkRestore_of hl hr) ⟨rfl, rfl, hres, hfail, hdeg⟩
  case trained =>
    exact .of_next (exec_linkTrained_of_full hsp hall hs) ⟨rfl, rfl, linkTrainedFull_fields speed.isLt hs⟩
  case masterOff =>
    obtain ⟨hcnt, hkeep⟩ := masteringOff_fields s
    exact .of_next (exec_busMasterDisable_of_on h) ⟨rfl, rfl, hcnt, hkeep⟩
  case masterOn => exact .of_next (exec_busMasterEnable_of_off h) ⟨rfl, .of_eq (t := s) (Keeps.refl _ _) rfl rfl⟩
  case down =>
    refine .of_next (exec_d3hotEntry_of_up h) ⟨rfl, ?_, .of_eq (t := sendVectors s) (sendVectors_keeps s) rfl rfl⟩
    show ((sendVectors s).hif.busMaster && !true && _) = false
    rw [Bool.not_true, Bool.and_false, Bool.false_and]
  case up => exact .of_next (exec_d0Return_of_down h) ⟨rfl, .of_eq (t := s) (Keeps.refl _ _) rfl rfl⟩
  case flr =>
    obtain ⟨hline, hpend, hmsgs, hcnt, hlocks⟩ := flrBegun_fields s
    exact .of_next (exec_flr_of h) ⟨rfl, Bool.and_false _, hline, hpend, hmsgs, hcnt, hlocks⟩
  case flrDone => exact .of_next (exec_flrComplete_of h) (flrDone_fields s rfl)
  case reset => exact .of_next (exec_of_linkReset hc s) (linkReset_fields s)
  case readError =>
    obtain ⟨hcnt, hkeep⟩ := readErrored_fields s
    exact .of_next (exec_hostReadError_of_doorbells h) ⟨hcnt, rfl, hkeep⟩

end Sys2Proof.Machine
end

section
/-! BAR2, its translation table, the host's vectors and configuration space (R270 to R283): the obligation O39. -/

open Sys2Proof

namespace Sys2Proof.Machine

/-! BAR2 -/

/-- The internal address that a BAR2 offset stands for (R278). -/
def bar2Target (addr : Nat) (s : State) : Nat := s.get (Reg.HIF_XLAT_ENTRY_TARGET (bits addr 28 8)) * 2 ^ 28 + addr % 2 ^ 28

section Bar2
variable {s : State} {addr : Nat} (len : Nat) (hv : s.on (Reg.HIF_XLAT_ENTRY_VALID (bits addr 28 8)) = true) (hf : s.hif.flr = false)
include hv hf

theorem exec_bar2Access_of_read (hr : s.on (Reg.HIF_XLAT_ENTRY_RD_EN (bits addr 28 8)) = true) :
    exec (.bar2Access addr len none) s = .next (emit (.tlpCompletion (some (s.readBytes (bar2Target addr s) len))) s) := by
  rw [exec_bar2Access, execBar2Access]
  simp only [hv, hf, hr, Bool.not_false, Bool.and_self, if_true]
  rfl

theorem exec_bar2Access_of_write (data : List Nat) (hw : s.on (Reg.HIF_XLAT_ENTRY_WR_EN (bits addr 28 8)) = true) :
    exec (.bar2Access addr len (some data)) s = .next (storeBytes (bar2Target addr s) (data.take len) s) := by
  rw [exec_bar2Access, execBar2Access]
  simp only [hv, hf, hw, Bool.not_false, Bool.and_self, if_true]
  rfl

end Bar2

/-- An access that no entry translates (R279). -/
def xlatFaulted (s : State) : State :=
  event Reg.HIF_FW_EVENT_XLAT_FAULT Reg.HIF_XLAT_FAULT_CNT { s with hif := { s.hif with aer := 1 :: s.hif.aer } }

theorem exec_bar2Access_of_fault {s : State} {addr : Nat} (len : Nat) (write : Option (List Nat))
    (hv : s.on (Reg.HIF_XLAT_ENTRY_VALID (bits addr 28 8)) = false) :
    exec (.bar2Access addr len write) s = .next (if write.isNone then emit (.tlpCompletion none) (xlatFaulted s) else xlatFaulted s) := by
  refine (exec_bar2Access s).trans (if_neg ?_)
  simp only [hv, Bool.false_and, Bool.false_eq_true, not_false_eq_true]

theorem xlatFaulted_fields (s : State) : (xlatFaulted s).get Reg.HIF_XLAT_FAULT_CNT = (s.get Reg.HIF_XLAT_FAULT_CNT + 1) % 2 ^ 32
    ∧ Keeps [Reg.HIF_XLAT_FAULT_CNT, Reg.HIF_FW_EVENT_XLAT_FAULT] s (xlatFaulted s) := by
  refine ⟨?_, .event _ _ (by decide) (by decide) (.of_eq (t := s) (Keeps.refl _ _) rfl rfl)⟩
  rw [xlatFaulted, get_event_cnt _ _ _ (by decide)]
  rfl

/-! The translation table -/

/-- An entry of the table as a commit writes it (R280). -/
def xlatCommitted (k v : Nat) (s : State) : State :=
  setF Reg.HIF_XLAT_COMMIT_BUSY 1 (setF Reg.HIF_XLAT_COMMIT_REFUSED 0 (setF (Reg.HIF_XLAT_ENTRY_TARGET k) (bits v 20 12)
    (setF (Reg.HIF_XLAT_ENTRY_WR_EN k) (bitOf v 2) (setF (Reg.HIF_XLAT_ENTRY_RD_EN k) (bitOf v 1) (setF (Reg.HIF_XLAT_ENTRY_VALID k) (bitOf v 0) s)))))

theorem xlatCommitted_fields (k v : Nat) (s : State) : (xlatCommitted k v s).get (Reg.HIF_XLAT_ENTRY_TARGET k) = bits v 20 12
    ∧ (xlatCommitted k v s).get (Reg.HIF_XLAT_ENTRY_VALID k) = bitOf v 0 ∧ (xlatCommitted k v s).get (Reg.HIF_XLAT_ENTRY_RD_EN k) = bitOf v 1
    ∧ (xlatCommitted k v s).get (Reg.HIF_XLAT_ENTRY_WR_EN k) = bitOf v 2 ∧ (xlatCommitted k v s).get Reg.HIF_XLAT_COMMIT_BUSY = 1
    ∧ (xlatCommitted k v s).get Reg.HIF_XLAT_COMMIT_REFUSED = 0
    ∧ Keeps [Reg.HIF_XLAT_ENTRY_TARGET k, Reg.HIF_XLAT_ENTRY_VALID k, Reg.HIF_XLAT_ENTRY_RD_EN k, Reg.HIF_XLAT_ENTRY_WR_EN k,
        Reg.HIF_XLAT_COMMIT_BUSY, Reg.HIF_XLAT_COMMIT_REFUSED] s (xlatCommitted k v s) := by
  have hentry {f : Field} (hf : 0x10400 * 32 ≤ f.key) : (xlatCommitted k v s).get f = (setF (Reg.HIF_XLAT_ENTRY_TARGET k) (bits v 20 12)
      (setF (Reg.HIF_XLAT_ENTRY_WR_EN k) (bitOf v 2) (setF (Reg.HIF_XLAT_ENTRY_RD_EN k) (bitOf v 1)
        (setF (Reg.HIF_XLAT_ENTRY_VALID k) (bitOf v 0) s)))).get f := by
    have hbusy : Reg.HIF_XLAT_COMMIT_BUSY.key < 0x10400 * 32 ∧ Reg.HIF_XLAT_COMMIT_REFUSED.key < 0x10400 * 32 := by decide
    rw [xlatCommitted, get_setF_ne _ _ _ _ (by omega), get_setF_ne _ _ _ _ (by omega)]
  have hkeys : (Reg.HIF_XLAT_ENTRY_VALID k).key = (0x10400 + 4 * k) * 32 ∧ (Reg.HIF_XLAT_ENTRY_RD_EN k).key = (0x10400 + 4 * k) * 32 + 1
      ∧ (Reg.HIF_XLAT_ENTRY_WR_EN k).key = (0x10400 + 4 * k) * 32 + 2 ∧ (Reg.HIF_XLAT_ENTRY_TARGET k).key = (0x10400 + 4 * k) * 32 + 20 :=
    ⟨rfl, rfl, rfl, rfl⟩
  rw [hentry (by omega), hentry (by omega), hentry (by omega), hentry (by omega)]
  refine ⟨?_, ?_, ?_, ?_, ?_, ?_, by simp [xlatCommitted]⟩
  · exact get_setF_of_lt (f := Reg.HIF_XLAT_ENTRY_TARGET k) (Nat.mod_lt _ (Nat.two_pow_pos 12)) _
  · rw [get_setF_ne _ _ _ _ (by omega), get_setF_ne _ _ _ _ (by omega), get_setF_ne _ _ _ _ (by omega)]
    exact get_setF_of_lt (f := Reg.HIF_XLAT_ENTRY_VALID k) (bitOf_lt_two v 0) s
  · rw [get_setF_ne _ _ _ _ (by omega), get_setF_ne _ _ _ _ (by omega)]
    exact get_setF_of_lt (f := Reg.HIF_XLAT_ENTRY_RD_EN k) (bitOf_lt_two v 1) _
  · rw [get_setF_ne _ _ _ _ (by omega)]
    exact get_setF_of_lt (f := Reg.HIF_XLAT_ENTRY_WR_EN k) (bitOf_lt_two v 2) _
  · exact get_setF_one rfl _
  · exact (get_setF_ne _ _ _ _ (by decide)).trans (get_setF_zero _ _)

section Xlat
variable {s : State} (hl : s.lands 0x1008C = true) (hb : s.on Reg.HIF_XLAT_COMMIT_BUSY = false)
include hl hb

theorem exec_xlatCommit_eq (r : Requester) : exec (.xlatCommit r) s = .next (
    if 0x107 < bits (s.get Reg.HIF_XLAT_STAGE_STAGE) 20 12 ∨ (r == .host && !s.on Reg.HIF_XLAT_CTRL_HOST_WR_OK
        && (bitOf (s.get Reg.HIF_XLAT_STAGE_STAGE) 2 == 1 || decide (0x100 ≤ bits (s.get Reg.HIF_XLAT_STAGE_STAGE) 20 12))) = true
    then setF Reg.HIF_XLAT_COMMIT_REFUSED 1 (ungate (islandOf 0x1008C) s)
    else xlatCommitted (s.get Reg.HIF_XLAT_SEL_INDEX) (s.get Reg.HIF_XLAT_STAGE_STAGE) (ungate (islandOf 0x1008C) s)) := by
  have hbusy : ¬ (ungate (islandOf 0x1008C) s).on Reg.HIF_XLAT_COMMIT_BUSY = true := by
    rw [State.on, get_of_lands, ← State.on, hb]
    exact Bool.false_ne_true
  rw [exec_of_lands hl (exec_xlatCommit s)]
  exact congrArg _ (if_neg hbusy)

theorem exec_xlatCommit_of_core {n : Fin 9} (ht : bits (s.get Reg.HIF_XLAT_STAGE_STAGE) 20 12 ≤ 0x107) : exec (.xlatCommit (.core n)) s
    = .next (xlatCommitted (s.get Reg.HIF_XLAT_SEL_INDEX) (s.get Reg.HIF_XLAT_STAGE_STAGE) (ungate (islandOf 0x1008C) s)) := by
  have hcore : ((Requester.core n : Requester) == .host) = false := by simp
  rw [exec_xlatCommit_eq hl hb, if_neg]
  rintro (h | h)
  · omega
  · simp [hcore] at h

theorem exec_xlatCommit_of_wide {r : Requester} (ht : 0x107 < bits (s.get Reg.HIF_XLAT_STAGE_STAGE) 20 12) : exec (.xlatCommit r) s
    = .next (setF Reg.HIF_XLAT_COMMIT_REFUSED 1 (ungate (islandOf 0x1008C) s)) := by
  rw [exec_xlatCommit_eq hl hb, if_pos (.inl ht)]

theorem exec_xlatCommit_of_host (hw : s.on Reg.HIF_XLAT_CTRL_HOST_WR_OK = false)
    (ht : bitOf (s.get Reg.HIF_XLAT_STAGE_STAGE) 2 = 1 ∨ 0x100 ≤ bits (s.get Reg.HIF_XLAT_STAGE_STAGE) 20 12) :
    exec (.xlatCommit .host) s = .next (setF Reg.HIF_XLAT_COMMIT_REFUSED 1 (ungate (islandOf 0x1008C) s)) := by
  have hhost : ((Requester.host : Requester) == .host) = true := by decide
  refine (exec_xlatCommit_eq hl hb .host).trans (congrArg _ (if_pos (.inr ?_)))
  rw [hw, hhost]
  rcases ht with h | h <;> simp [h]

end Xlat

/-! The host's vectors -/

/-- The line acknowledged (R283), before it is evaluated again. -/
def lineAcked (s : State) : State :=
  setF Reg.HIF_IRQ_CTRL_ASSERTED 0 (emit .deassertInta { s with hif := { s.hif with
    pend := s.hif.pend.filter (fun q => !s.hif.announced.contains q), announced := [] } })

theorem exec_intxAck_of {s : State} (hl : s.lands 0x10040 = true) (ha : s.on Reg.HIF_IRQ_CTRL_ASSERTED = true)
    (hm : s.on Reg.HIF_IRQ_CTRL_SUMMARY_ON_MSIX = false) :
    exec .intxAck s = .next (evalLine (lineAcked (ungate (islandOf 0x10040) s))) := by
  have hcond : ((ungate (islandOf 0x10040) s).on Reg.HIF_IRQ_CTRL_ASSERTED
      && !((ungate (islandOf 0x10040) s).on Reg.HIF_IRQ_CTRL_SUMMARY_ON_MSIX && (ungate (islandOf 0x10040) s).hif.msixEnable)) = true := by
    rw [State.on, State.on, get_of_lands, get_of_lands, ← State.on, ← State.on, ha, hm]
    rfl
  rw [exec_of_lands hl (exec_intxAck s)]
  simp only [hcond, when, if_true]
  rfl

theorem lineAcked_fields (s : State) : (lineAcked s).get Reg.HIF_IRQ_CTRL_ASSERTED = 0
    ∧ (∀ q, q ∈ (lineAcked s).hif.pend ↔ q ∈ s.hif.pend ∧ q ∉ s.hif.announced)
    ∧ Keeps [Reg.HIF_IRQ_CTRL_ASSERTED] s (lineAcked s) := by
  refine ⟨get_setF_zero _ _, fun q => ?_, Keeps.setF _ _ (by decide) ?_⟩
  · show q ∈ s.hif.pend.filter (fun q => !s.hif.announced.contains q) ↔ _
    simp [List.mem_filter]
  · exact .of_eq (t := s) (Keeps.refl _ _) rfl rfl

/-- The vectors that a mask of one bit raises. -/
theorem forEach_vector {v : Nat} (hv : v ∈ [1, 2, 3, 4, 5]) (s : State) :
    forEach [1, 2, 3, 4, 5] (fun k u => when (bitOf (2 ^ v) k == 1) (hostEvent k) u) s = hostEvent v s := by
  simp only [List.mem_cons, List.not_mem_nil, or_false] at hv
  rcases hv with rfl | rfl | rfl | rfl | rfl <;> rfl

theorem exec_hostRaise_of_core {s : State} {n : Fin 9} {v : Nat} (hl : s.lands 0x10018 = true) (hv : v ∈ [1, 2, 3, 4, 5]) :
    exec (.hostRaise (.core n) (2 ^ v)) s = .next (hostEvent v (ungate (islandOf 0x10018) s)) := by
  have hother : (bitOf (2 ^ v) 0 == 1 || bits (2 ^ v) 6 26 != 0) = false := by
    simp only [List.mem_cons, List.not_mem_nil, or_false] at hv
    rcases hv with rfl | rfl | rfl | rfl | rfl <;> decide
  rw [exec_of_lands hl (exec_hostRaise s), if_neg (by simp)]
  simp only [hother, when, Bool.false_eq_true, if_false]
  exact congrArg _ (forEach_vector hv _)

theorem exec_hostRaise_of_host {s : State} {mask : Nat} (hl : s.lands 0x10018 = true) :
    exec (.hostRaise .host mask) s = .next (ungate (islandOf 0x10018) s) := by
  rw [exec_of_lands hl (exec_hostRaise s), if_pos rfl]

/-! Configuration space -/

theorem cfgRead_of_flr {s : State} (h : s.hif.flr = true) (off : Nat) : s.cfgRead off = none := if_pos h

section Config
variable {s : State} (h : s.hif.flr = false)
include h

theorem cfgRead_header {off : Nat} (ho : off < 0x40) : s.cfgRead off = some (s.cfgHeader off) := by
  rw [State.cfgRead, if_neg (by simp [h]), if_pos ho]

theorem cfgRead_caps {off : Nat} (hlo : 0x40 ≤ off) (hhi : off < 0x100) : s.cfgRead off = some (s.cfgCaps off) := by
  rw [State.cfgRead, if_neg (by simp [h]), if_neg (by omega), if_pos hhi]

theorem cfgRead_extended {off : Nat} (hlo : 0x100 ≤ off) : s.cfgRead off = some (s.cfgExtended off) := by
  rw [State.cfgRead, if_neg (by simp [h]), if_neg (by omega), if_neg (by omega)]

end Config

/-- Settles O39: BAR2, its translation table, the host's vectors, and what configuration space reads. -/
theorem hostAccessComplete : Obligations.HostAccessComplete := by
  unfold Obligations.HostAccessComplete
  refine ⟨fun s addr len hv hf => ⟨fun hr => ?read, fun data hw => ?write⟩, fun s addr len hv => ⟨?readFault, fun data => ?writeFault⟩,
    fun s n k hl hk hlt hb => ⟨fun ht => ?commit, fun ht => ?wide, fun hw ht => ?host⟩, fun s => ?drained, fun s hl ha hm => ?ack,
    fun s n v hl hv => ?raise, fun s mask hl => ?raiseHost, fun s hf => ?config, fun s off hf => ?retry⟩
  case read => exact .of_next (exec_bar2Access_of_read len hv hf hr) ⟨rfl, keeps_written_iff.mpr (Keeps.refl _ _)⟩
  case write => exact .of_next (exec_bar2Access_of_write len hv hf data hw) rfl
  case readFault =>
    obtain ⟨hcnt, hkeep⟩ := xlatFaulted_fields s
    exact .of_next (exec_bar2Access_of_fault len none hv) ⟨rfl, rfl, hcnt, keeps_written_iff.mpr hkeep⟩
  case writeFault =>
    obtain ⟨hcnt, hkeep⟩ := xlatFaulted_fields s
    exact .of_next (exec_bar2Access_of_fault len (some data) hv) ⟨rfl, rfl, hcnt, hkeep⟩
  case commit =>
    obtain ⟨htarget, hvalid, hrd, hwr, hbusy, href, hkeep⟩ :=
      xlatCommitted_fields k (s.get Reg.HIF_XLAT_STAGE_STAGE) (ungate (islandOf 0x1008C) s)
    refine .of_next (exec_xlatCommit_of_core hl hb ht) ?_
    rw [hk]
    exact ⟨htarget, hvalid, hrd, hwr, hbusy, href, hkeep.of_ungate⟩
  case wide =>
    exact .of_next (exec_xlatCommit_of_wide hl hb ht) ⟨get_setF_one rfl _, Keeps.of_ungate ((Keeps.refl _ _).setF _ _ (by decide))⟩
  case host =>
    exact .of_next (exec_xlatCommit_of_host hl hb hw ht) ⟨get_setF_one rfl _, Keeps.of_ungate ((Keeps.refl _ _).setF _ _ (by decide))⟩
  case drained => exact .of_next (exec_xlatDrainDone s) ⟨get_setF_zero _ _, (Keeps.refl _ _).setF _ _ (by decide)⟩
  case ack =>
    obtain ⟨hline, hpend, hkeep⟩ := lineAcked_fields (ungate (islandOf 0x10040) s)
    exact .of_next (exec_intxAck_of hl ha hm) ⟨hline, rfl, hpend, rfl, hkeep.of_ungate⟩
  case raise => exact .of_next (exec_hostRaise_of_core hl hv) rfl
  case raiseHost => exact .of_next (exec_hostRaise_of_host hl) rfl
  case config =>
    refine ⟨cfgRead_header hf (by decide), cfgRead_header hf (by decide), cfgRead_header hf (by decide), cfgRead_header hf (by decide),
      cfgRead_header hf (by decide), cfgRead_extended hf (by decide), fun hc => ⟨?_, ?_⟩⟩
    · rw [cfgRead_caps hf (by decide) (by decide), State.cfgCaps, hc]
      rfl
    · rw [cfgRead_caps hf (by decide) (by decide), State.cfgCaps, hc]
      rfl
  case retry => exact cfgRead_of_flr hf off

end Sys2Proof.Machine
end

section
/-! Bits set and cleared, and what an area of memory holds: facts that the self-repair commands rest on. -/

open Sys2Proof
namespace Sys2Proof.Machine

theorem testBit_sub_two_pow {b : Nat} : ∀ {n : Nat}, n.testBit b = true → ∀ i, (n - 2 ^ b).testBit i = (decide (i ≠ b) && n.testBit i) := by
  induction b with
  | zero =>
    intro n h i
    have hodd : n % 2 = 1 := by simpa [Nat.testBit_zero] using h
    cases i with
    | zero => simp [Nat.testBit_zero]; omega
    | succ i =>
      have hhalf : (n - 1) / 2 = n / 2 := by omega
      simp [Nat.testBit_succ, hhalf]
  | succ b ih =>
    intro n h i
    have hle : 2 ^ (b + 1) ≤ n := Nat.ge_two_pow_of_testBit h
    rw [Nat.testBit_succ] at h
    cases i with
    | zero =>
      have hpar : (n - 2 ^ (b + 1)) % 2 = n % 2 := by omega
      simp [Nat.testBit_zero, hpar]
    | succ i =>
      have hhalf : (n - 2 ^ (b + 1)) / 2 = n / 2 - 2 ^ b := by omega
      rw [Nat.testBit_succ, hhalf, ih h, Nat.testBit_succ]
      simp

theorem bitOf_eq_testBit (n b : Nat) : bitOf n b = (n.testBit b).toNat := by
  rw [bitOf, bits, Nat.testBit_eq_decide_div_mod_eq]
  rcases Nat.mod_two_eq_zero_or_one (n / 2 ^ b) with h | h <;> simp [h]

theorem bitOf_setBit (n b i : Nat) (v : Bool) : bitOf (setBit n b v) i = if i = b then b2n v else bitOf n i := by
  have hor (j : Nat) : (n ||| 2 ^ b).testBit j = (n.testBit j || decide (b = j)) := by rw [Nat.testBit_or, Nat.testBit_two_pow]
  rw [bitOf_eq_testBit, bitOf_eq_testBit]
  by_cases hi : i = b
  · rw [if_pos hi, hi]
    cases v with
    | true => rw [setBit, if_pos rfl, hor]; simp [b2n]
    | false => rw [setBit, if_neg (by simp), testBit_sub_two_pow (by rw [hor]; simp)]; simp [b2n]
  · rw [if_neg hi]
    cases v with
    | true => rw [setBit, if_pos rfl, hor]; simp [Ne.symm hi]
    | false => rw [setBit, if_neg (by simp), testBit_sub_two_pow (by rw [hor]; simp), hor]; simp [hi, Ne.symm hi]

theorem bitOf_mod_two_pow {w i : Nat} (h : i < w) (n : Nat) : bitOf (n % 2 ^ w) i = bitOf n i := by
  rw [bitOf_eq_testBit, bitOf_eq_testBit, Nat.testBit_mod_two_pow]
  simp [h]

/-! The ledger's table depends on memory, and on the counts that its head shows -/

theorem mem_writeBytes_congr {s t : State} (h : t.mem = s.mem) (a : Nat) (l : List Nat) : (writeBytes a l t).mem = (writeBytes a l s).mem := by
  induction l generalizing a s t with
  | nil => exact h
  | cons b l ih => exact ih (by rw [writeByte, writeByte, h]) (a + 1)

theorem repairCopy_of_mem {s t : State} (h : t.mem = s.mem) (i : Nat) : t.repairCopy i = s.repairCopy i := by
  simp only [State.repairCopy, readBytes_of_mem h]

theorem newerCopy_of_mem {s t : State} (h : t.mem = s.mem) : t.newerCopy = s.newerCopy := by simp only [State.newerCopy, repairCopy_of_mem h]

theorem repairTable_of_mem {s t : State} (h : t.mem = s.mem) : t.repairTable = s.repairTable := by
  rw [State.repairTable, newerCopy_of_mem h, repairCopy_of_mem h, ← State.repairTable]

theorem countEngines_of_regs {s t : State} (h : t.regs = s.regs) (k : Nat) : t.countEngines k = s.countEngines k := by
  simp only [State.countEngines, State.engState, get_of_regs _ h]

theorem mem_writeTable_congr {s t : State} (hm : t.mem = s.mem) (hr : t.regs = s.regs) (hc : t.rpr.coresRetired = s.rpr.coresRetired)
    (hg : t.rpr.regions = s.rpr.regions) (n : Nat) (rows : List RepairRow) : (writeTable n rows t).mem = (writeTable n rows s).mem := by
  simp only [writeTable, newerCopy_of_mem hm, repairCopy_of_mem hm, repairTable_of_mem hm, countEngines_of_regs hr, hc, hg]
  exact mem_writeBytes_congr hm _ _

theorem writeBytes_view {α : Type} (v : State → α) (hv : ∀ (s : State) m, v { s with mem := m } = v s) (a : Nat) (l : List Nat) (s : State) :
    v (writeBytes a l s) = v s := by
  induction l generalizing a s with
  | nil => rfl
  | cons b l ih => exact (ih (a + 1) (writeByte a (BitVec.ofNat 8 b) s)).trans (hv s _)

theorem told_view {α : Type} (v : State → α) (hh : ∀ s, v (hostMask s) = v s) (hc : ∀ (s : State) c, v { s with cmd := c } = v s) (k c : Nat)
    (d : List Nat) (s : State) : v (hostEvent k (logPlain c d s)) = v s := ((within_hostEvent k _).view v hh).trans (hc s _)

/-- What a stored record leaves of memory (R463, R464). -/
theorem mem_storeRecord (r : RepRec) (s : State) : (storeRecord r s).mem
    = (writeTable (s.repairTable.total + 1) ((s.repairTable.rows ++ (r.row (s.nowMs / 1000 % 2 ^ 32)).toList).take 252)
        (writeBytes (ledgerEntryAt s.repairTable.total)
          (LedgerEntry.bytes ⟨s.nowMs, s.repairTable.total, r,
            if r.kind = 9 ∨ r.kind = 11 then s.get Reg.RPR_DRAM_PPR_ROW_ROW else 0, s.sparesLeft r⟩) s)).mem := by
  unfold storeRecord
  rw [told_view State.mem (fun _ => rfl) fun _ _ => rfl]

end Sys2Proof.Machine
end

section
/-! Self-repair (R453 to R464): the obligation O41. -/

open Sys2Proof

namespace Sys2Proof.Machine

/-! The ledger -/

/-- The record at the head of the FIFO is taken to be stored. -/
def recordTaken (rest : List RepRec) (s : State) : State := { s with rpr := { s.rpr with fifo := rest } }

theorem storeOwed_of_none {s : State} (ho : s.rpr.owed = []) (hr : s.rpr.owedRows = []) : storeOwed s = s := by
  unfold storeOwed
  split_ifs
  · rw [ho, hr]
    show ({ s with rpr := { s.rpr with owed := [], owedRows := [] } } : State) = s
    rw [← ho, ← hr]
  · rfl

section Pop
variable {s : State} {r : RepRec} {rest : List RepRec} (hl : s.lands 0x110020 = true) (ho : s.rpr.owed = []) (hr : s.rpr.owedRows = [])
  (hf : s.rpr.fifo = r :: rest)
include hl ho hr hf

theorem exec_repairRecordPop_eq : exec .repairRecordPop s = .next (if s.mayStore
    then storeRecord r (recordTaken rest (ungate (islandOf 0x110020) s)) else ungate (islandOf 0x110020) s) := by
  have hnone : storeOwed (ungate (islandOf 0x110020) s) = ungate (islandOf 0x110020) s := storeOwed_of_none ho hr
  have hfifo : (ungate (islandOf 0x110020) s).rpr.fifo = r :: rest := hf
  rw [exec_of_lands hl (exec_repairRecordPop s), hnone]
  simp only [hfifo]
  rfl

theorem exec_repairRecordPop_of_stored (hm : s.mayStore = true) :
    exec .repairRecordPop s = .next (storeRecord r (recordTaken rest (ungate (islandOf 0x110020) s))) := by
  rw [exec_repairRecordPop_eq hl ho hr hf, if_pos hm]

theorem exec_repairRecordPop_of_deferred (hm : s.mayStore = false) : exec .repairRecordPop s = .next (ungate (islandOf 0x110020) s) := by
  rw [exec_repairRecordPop_eq hl ho hr hf, if_neg (by simp [hm])]

end Pop

theorem fifo_storeRecord (r : RepRec) (s : State) : (storeRecord r s).rpr.fifo = s.rpr.fifo :=
  (within_storeRecord r s).view (fun t => t.rpr.fifo) fun _ => rfl

/-- The record's place in the ledger does not depend on the FIFO it comes from. -/
theorem mem_recordStored (r : RepRec) (rest : List RepRec) (i : Island) (s : State) : (storeRecord r (recordTaken rest (ungate i s))).mem
    = (writeTable (s.repairTable.total + 1) ((s.repairTable.rows ++ (r.row (s.nowMs / 1000 % 2 ^ 32)).toList).take 252)
        (writeBytes (ledgerEntryAt s.repairTable.total)
          (LedgerEntry.bytes ⟨s.nowMs, s.repairTable.total, r,
            if r.kind = 9 ∨ r.kind = 11 then s.get Reg.RPR_DRAM_PPR_ROW_ROW else 0, s.sparesLeft r⟩) s)).mem := by
  have htable : (recordTaken rest (ungate i s)).repairTable = s.repairTable := repairTable_of_mem rfl
  have hrow : (recordTaken rest (ungate i s)).get Reg.RPR_DRAM_PPR_ROW_ROW = s.get Reg.RPR_DRAM_PPR_ROW_ROW := rfl
  have hleft : (recordTaken rest (ungate i s)).sparesLeft r = s.sparesLeft r := rfl
  have hnow : (recordTaken rest (ungate i s)).nowMs = s.nowMs := rfl
  rw [mem_storeRecord, htable, hrow, hleft, hnow]
  generalize LedgerEntry.bytes _ = l
  refine mem_writeTable_congr (mem_writeBytes_congr (s := s) (t := recordTaken rest (ungate i s)) rfl _ _) ?_ ?_ ?_ _ _
  · rw [regs_writeBytes, regs_writeBytes]
    rfl
  · rw [writeBytes_view (fun t => t.rpr.coresRetired) fun _ _ => rfl, writeBytes_view (fun t => t.rpr.coresRetired) fun _ _ => rfl]
    rfl
  · rw [writeBytes_view (fun t => t.rpr.regions) fun _ _ => rfl, writeBytes_view (fun t => t.rpr.regions) fun _ _ => rfl]
    rfl

/-! Cores -/

/-- The cores' registers once the spare has the work of a core that fails (R458). -/
def spareTaken (n k : Nat) (s : State) : State :=
  let s1 : State := { s with rpr := { s.rpr with coresRetired := addOnce s.rpr.coresRetired n, owed := s.rpr.owed ++ [⟨7, 0x22, n, 1, 0⟩] } }
  let t := setF Reg.CCH_CORES_SPARE 0 s1
  setF Reg.CCH_CORES_IN_SERVICE (setBit (setBit (s.get Reg.CCH_CORES_IN_SERVICE) n false) k true)
    { t with rpr := { t.rpr with owed := t.rpr.owed ++ [⟨8, 0x22, k, 0, 0⟩] } }

/-- What a core's retirement leaves with its spare in service. -/
def coreReplaced (n k : Nat) (s : State) : State :=
  let s2 := spareTaken n k s
  storeOwed (when (decide (((List.range 9).filter (fun k => bitOf (s2.get Reg.CCH_CORES_IN_SERVICE) k == 1)).length < 8)) (raiseFault 3)
    (forceOwner (n + 1) s2))

theorem retireCore_of_spare {s : State} {n k : Nat} (hn : bitOf (s.get Reg.CCH_CORES_IN_SERVICE) n = 1) (hk : k < 9)
    (hs : s.get Reg.CCH_CORES_SPARE = 2 ^ k) : retireCore n true s = coreReplaced n k s := by
  have hfind : (List.range 9).find? (fun j => bitOf (s.get Reg.CCH_CORES_SPARE) j == 1) = some k := by
    have hall : ∀ k < 9, (List.range 9).find? (fun j => bitOf (2 ^ k) j == 1) = some k := by decide
    rw [hs]
    exact hall k hk
  rw [retireCore, if_neg (by rw [hn]; decide), hfind]
  rfl

theorem exec_corePeriodicTest_of_spare {s : State} {n k : Fin 9} (hn : bitOf (s.get Reg.CCH_CORES_IN_SERVICE) n.val = 1)
    (hs : s.get Reg.CCH_CORES_SPARE = 2 ^ k.val) : exec (.corePeriodicTest n false true) s = .next (settle (coreReplaced n.val k.val s)) := by
  rw [exec_corePeriodicTest, execCorePeriodicTest, if_neg Bool.false_ne_true, retireCore_of_spare hn k.isLt hs]

theorem get_coreReplaced {f : Field} (ho : ¬ outerKey f.key) (hm : ¬ mbxKey f.key) (n k : Nat) (s : State) :
    (coreReplaced n k s).get f = (spareTaken n k s).get f := by
  rw [coreReplaced, (within_storeOwed _).get ho,
    when_of_eq _ (State.get · f) (get_raiseFault fun h => ho (outerKey_of_host _ h)), get_forceOwner hm]

theorem inService_spareTaken {n k i : Nat} (hi : i < 9) (s : State) : bitOf ((spareTaken n k s).get Reg.CCH_CORES_IN_SERVICE) i
    = if i = k then 1 else if i = n then 0 else bitOf (s.get Reg.CCH_CORES_IN_SERVICE) i := by
  have hget : (spareTaken n k s).get Reg.CCH_CORES_IN_SERVICE
      = setBit (setBit (s.get Reg.CCH_CORES_IN_SERVICE) n false) k true % 2 ^ 9 := get_setF_self _ _ _
  rw [hget, bitOf_mod_two_pow hi, bitOf_setBit, bitOf_setBit]
  rfl

theorem lockAnswer_coreReplaced {m : Nat} (hm : m < 64) (n k : Nat) (s : State) : (coreReplaced n k s).lockAnswer m ≠ n + 1 := by
  have howner : ¬ outerKey (Reg.MBX_BOX_LOCK_OWNER m).key := by
    simp only [outerKey, Field.key, Reg.MBX_BOX_LOCK_OWNER]
    omega
  rw [State.lockAnswer, coreReplaced, (within_storeOwed _).get howner,
    when_of_eq _ (State.get · (Reg.MBX_BOX_LOCK_OWNER m)) (get_raiseFault fun h => howner (outerKey_of_host _ h))]
  exact lockAnswer_forceOwner (Nat.succ_ne_zero n) hm _

theorem coresRetired_coreReplaced (n k : Nat) (s : State) : n ∈ (coreReplaced n k s).rpr.coresRetired := by
  have hfault (t : State) : (raiseFault 3 t).rpr = t.rpr := (within_hostEvent 1 _).view State.rpr fun _ => rfl
  have hrpr : (coreReplaced n k s).rpr.coresRetired = (spareTaken n k s).rpr.coresRetired := by
    rw [coreReplaced, (within_storeOwed _).view (fun t => t.rpr.coresRetired) fun _ => rfl,
      when_of_eq _ (fun t => t.rpr.coresRetired) (congrArg RprPart.coresRetired (hfault _)),
      (within_forceOwner _ _).view (fun t => t.rpr.coresRetired) fun _ => rfl]
  rw [hrpr]
  exact mem_addOnce _ _

/-! SRAM and DRAM -/

/-- A spare row taken for a queued one (R454, R455). -/
def rowMapped (array row : Nat) (s : State) : State :=
  let key := array * 65536 + row / 512
  bump Reg.RPR_ROW_REMAP_CNT (pushRecord 1 (array / 256) (array % 256) 0 row { s with rpr := { s.rpr with
    queued := remove s.rpr.queued (sramRow array row), rowErrs := Assoc.erase s.rpr.rowErrs (sramRow array row)
    rowsUsed := Assoc.set s.rpr.rowsUsed key (Assoc.getD s.rpr.rowsUsed key 0 + 1) } })

theorem exec_sramRowRemap_of_spare {s : State} {array row : Nat} (ha : arrayExists array = true) (hq : s.rowQuiet array row = true)
    (hu : Assoc.getD s.rpr.rowsUsed (array * 65536 + row / 512) 0 < 4) (he : s.on Reg.RPR_CTRL_FIELD_REMAP_EN = true) :
    exec (.sramRowRemap array row) s = .next (rowMapped array row s) := by
  rw [exec_sramRowRemap, execSramRowRemap, if_neg (by simp [ha, hq, he])]
  simp only [useSpareRow, hu, if_true]
  rfl

theorem pushRecord_of_room {k c i r d : Nat} {s : State} (h : s.rpr.fifo.length < 32) : pushRecord k c i r d s
    = event Reg.RPR_EVENT_REC_READY Reg.RPR_REC_CNT { s with rpr := { s.rpr with fifo := s.rpr.fifo ++ [⟨k, c, i, r, d⟩] } } := if_pos h

theorem rowMapped_fields {array row : Nat} {s : State} (hf : s.rpr.fifo.length < 32) {t : State} (ht : t = rowMapped array row s) :
    t.get Reg.RPR_ROW_REMAP_CNT = (s.get Reg.RPR_ROW_REMAP_CNT + 1) % 2 ^ 32
    ∧ Assoc.getD t.rpr.rowsUsed (array * 65536 + row / 512) 0 = Assoc.getD s.rpr.rowsUsed (array * 65536 + row / 512) 0 + 1
    ∧ t.rpr.fifo = s.rpr.fifo ++ [⟨1, array / 256, array % 256, 0, row⟩]
    ∧ Keeps [Reg.RPR_ROW_REMAP_CNT, Reg.RPR_EVENT_REC_READY, Reg.RPR_REC_CNT] s t := by
  rw [ht, rowMapped, pushRecord_of_room (by exact hf)]
  refine ⟨?_, ?_, rfl, ?_⟩
  · rw [get_bump_self, get_event_ne (by decide) (by decide)]
    rfl
  · show Assoc.getD (Assoc.set s.rpr.rowsUsed _ _) _ 0 = _
    rw [Assoc.getD, Assoc.find_set, if_pos rfl]
    rfl
  · exact Keeps.bump _ (by decide) (Keeps.event _ _ (by decide) (by decide) (.of_eq (t := s) (Keeps.refl _ _) rfl rfl))

/-- A row of memory that has reached its limit of corrected errors (R457). -/
def rowLimited (loc row : Nat) (s : State) : State :=
  event Reg.RPR_DRAM_EVENT_ROW_LIMIT Reg.RPR_DRAM_ROW_LIMIT_CNT (event Reg.RPR_DRAM_EVENT_CE Reg.RPR_DRAM_CE_CNT
    (setF Reg.RPR_DRAM_LAST_ROW_ROW row (setF Reg.RPR_DRAM_LAST_LOC (loc % 2 ^ 13) s)))

theorem exec_dramRowLimit_of_corrected (loc row : Nat) (s : State) :
    exec (.dramRowLimit loc row false) s = .next (settle (rowLimited loc row s)) := exec_dramRowLimit s

theorem rowLimited_fields (loc row : Nat) (s : State) : (rowLimited loc row s).get Reg.RPR_DRAM_LAST_ROW_ROW = row % 2 ^ 18
    ∧ (rowLimited loc row s).get Reg.RPR_DRAM_LAST_LOC = loc % 2 ^ 13
    ∧ (rowLimited loc row s).get Reg.RPR_DRAM_CE_CNT = (s.get Reg.RPR_DRAM_CE_CNT + 1) % 2 ^ 32
    ∧ (rowLimited loc row s).get Reg.RPR_DRAM_ROW_LIMIT_CNT = (s.get Reg.RPR_DRAM_ROW_LIMIT_CNT + 1) % 2 ^ 32
    ∧ (rowLimited loc row s).get Reg.RPR_DRAM_EVENT_ROW_LIMIT = 1
    ∧ Keeps [Reg.RPR_DRAM_LAST_ROW_ROW, Reg.RPR_DRAM_LAST_LOC, Reg.RPR_DRAM_CE_CNT, Reg.RPR_DRAM_EVENT_CE, Reg.RPR_DRAM_ROW_LIMIT_CNT,
        Reg.RPR_DRAM_EVENT_ROW_LIMIT] s (rowLimited loc row s) := by
  have hloc : loc % 2 ^ 13 < 2 ^ Reg.RPR_DRAM_LAST_LOC.width :=
    Nat.lt_of_lt_of_le (Nat.mod_lt loc (Nat.two_pow_pos 13)) (Nat.pow_le_pow_right (by decide) (by decide))
  rw [rowLimited]
  refine ⟨?_, ?_, ?_, ?_, get_event_flag _ _ _ (by decide) (by decide), by simp⟩
  · rw [get_event_ne (by decide) (by decide), get_event_ne (by decide) (by decide), get_setF_self]
    rfl
  · rw [get_event_ne (by decide) (by decide), get_event_ne (by decide) (by decide), get_setF_ne _ _ _ _ (by decide)]
    exact get_setF_of_lt hloc s
  · rw [get_event_ne (by decide) (by decide), get_event_cnt _ _ _ (by decide), get_setF_ne _ _ _ _ (by decide), get_setF_ne _ _ _ _ (by decide)]
    rfl
  · rw [get_event_cnt _ _ _ (by decide), get_event_ne (by decide) (by decide), get_setF_ne _ _ _ _ (by decide), get_setF_ne _ _ _ _ (by decide)]
    rfl

/-- A soft repair begun (R457). -/
def repairBegun (loc row : Nat) (s : State) : State :=
  setF Reg.RPR_DRAM_PPR_FAIL 0 (setF Reg.RPR_DRAM_PPR_GO 1 (setF Reg.RPR_DRAM_PPR_BUSY 1
    (setF Reg.RPR_DRAM_PPR_ROW_ROW row (setF Reg.RPR_DRAM_PPR_HARD 0 (setF Reg.RPR_DRAM_PPR_LOC loc s)))))

theorem exec_dramPpr_of_idle {s : State} (hl : s.lands 0x111010 = true) (hb : s.on Reg.RPR_DRAM_PPR_BUSY = false) (loc row : Nat) :
    exec (.dramPpr loc row false) s = .next (repairBegun loc row (ungate (islandOf 0x111010) s)) := by
  rw [exec_of_lands hl (exec_dramPpr s), if_neg]
  · rfl
  · rw [State.on, get_of_lands, ← State.on, hb]
    decide

theorem repairBegun_fields (loc row : Nat) (s : State) : (repairBegun loc row s).get Reg.RPR_DRAM_PPR_ROW_ROW = row % 2 ^ 18
    ∧ (repairBegun loc row s).get Reg.RPR_DRAM_PPR_LOC = loc % 2 ^ 13 ∧ (repairBegun loc row s).get Reg.RPR_DRAM_PPR_BUSY = 1
    ∧ (repairBegun loc row s).get Reg.RPR_DRAM_PPR_FAIL = 0
    ∧ Keeps [Reg.RPR_DRAM_PPR_ROW_ROW, Reg.RPR_DRAM_PPR_LOC, Reg.RPR_DRAM_PPR_BUSY, Reg.RPR_DRAM_PPR_FAIL, Reg.RPR_DRAM_PPR_HARD,
        Reg.RPR_DRAM_PPR_GO] s (repairBegun loc row s) := by
  rw [repairBegun]
  refine ⟨?_, ?_, ?_, get_setF_zero _ _, by simp⟩
  · rw [get_setF_ne _ _ _ _ (by decide), get_setF_ne _ _ _ _ (by decide), get_setF_ne _ _ _ _ (by decide), get_setF_self]
    rfl
  · rw [get_setF_ne _ _ _ _ (by decide), get_setF_ne _ _ _ _ (by decide), get_setF_ne _ _ _ _ (by decide), get_setF_ne _ _ _ _ (by decide),
      get_setF_ne _ _ _ _ (by decide), get_setF_self]
    rfl
  · rw [get_setF_ne _ _ _ _ (by decide), get_setF_ne _ _ _ _ (by decide), get_setF_one rfl]

/-- A repair no longer runs. -/
def repairStopped (s : State) : State := setF Reg.RPR_DRAM_PPR_GO 0 (setF Reg.RPR_DRAM_PPR_BUSY 0 s)

/-- What the end of a soft repair leaves (R457, R463). -/
def softRepaired (s : State) : State :=
  let loc := s.get Reg.RPR_DRAM_PPR_LOC
  let chan := bits loc 0 2
  event Reg.RPR_DRAM_EVENT_PPR_DONE Reg.RPR_DRAM_PPR_CNT
    (listRepair ⟨5, 0x2000 + chan, loc, s.get Reg.RPR_DRAM_PPR_ROW_ROW, s.nowMs / 1000 % 2 ^ 32⟩ (pushRecord 9 0x20 chan 0 loc
      { repairStopped s with rpr := { (repairStopped s).rpr with softUsed := (repairStopped s).rpr.softUsed ++ [repairGroup loc] } }))

/-- Without one left the region is retired. -/
def regionRetired (region : Nat) (s : State) : State :=
  let loc := s.get Reg.RPR_DRAM_PPR_LOC
  let chan := bits loc 0 2
  let t := setF Reg.RPR_DRAM_PPR_FAIL 1 (repairStopped s)
  event Reg.RPR_DRAM_EVENT_PPR_DONE Reg.RPR_DRAM_PPR_CNT
    (listRepair ⟨6, 0x2000 + chan, loc, s.get Reg.RPR_DRAM_PPR_ROW_ROW, s.nowMs / 1000 % 2 ^ 32⟩ (pushRecord 11 0x20 chan 1 loc
      { t with rpr := { t.rpr with regions := t.rpr.regions ++ [region] } }))

section Ppr
variable {s : State} {region : Nat} (hb : s.on Reg.RPR_DRAM_PPR_BUSY = true)
include hb

theorem exec_dramPprDone_of_soft (hu : repairGroup (s.get Reg.RPR_DRAM_PPR_LOC) ∉ s.rpr.softUsed) :
    exec (.dramPprDone region) s = .next (softRepaired s) := by
  have hfree : s.rpr.softUsed.contains (repairGroup (s.get Reg.RPR_DRAM_PPR_LOC)) = false := by simpa using hu
  rw [exec_dramPprDone, execDramPprDone, if_neg (by simp [hb])]
  simp only [hfree, Bool.not_false, if_true]
  rfl

theorem exec_dramPprDone_of_used (hu : repairGroup (s.get Reg.RPR_DRAM_PPR_LOC) ∈ s.rpr.softUsed) (hr : region ∉ s.rpr.regions)
    (hlen : s.rpr.regions.length < 64) : exec (.dramPprDone region) s = .next (regionRetired region s) := by
  have hfree : s.rpr.softUsed.contains (repairGroup (s.get Reg.RPR_DRAM_PPR_LOC)) = true := by simpa using hu
  have hregion : s.rpr.regions.contains region = false := by simpa using hr
  have h64 : decide (64 ≤ s.rpr.regions.length) = false := by simpa using hlen
  rw [exec_dramPprDone, execDramPprDone, if_neg (by simp [hb])]
  simp only [hfree, hregion, h64, Bool.or_self, Bool.not_true, Bool.false_eq_true, if_false]
  rfl

end Ppr

/-- An entry listed is no register, and none of the lists of what is used. -/
theorem listRepair_view {α : Type} (v : State → α) (hv : ∀ (s : State) m o, v { s with mem := m, rpr := { s.rpr with owedRows := o } } = v s)
    (e : RepairRow) (s : State) : v (listRepair e s) = v s := by
  unfold listRepair listRows
  split_ifs
  · rfl
  · exact writeBytes_view v (fun t m => hv t m t.rpr.owedRows) _ _ s
  · exact hv s s.mem _

theorem event_view {α : Type} (v : State → α) (hr : ∀ (s : State) r, v { s with regs := r } = v s) (f g : Field) (s : State) : v (event f g s) = v s :=
  (hr (setF f 1 s) _).trans (hr s _)

theorem pushRecord_view {α : Type} (v : State → α) (hr : ∀ (s : State) r, v { s with regs := r } = v s)
    (hf : ∀ (s : State) l, v { s with rpr := { s.rpr with fifo := l } } = v s) (k c i r d : Nat) (s : State) : v (pushRecord k c i r d s) = v s := by
  unfold pushRecord
  split_ifs
  · exact (event_view v hr _ _ _).trans (hf s _)
  · exact event_view v hr _ _ s

/-- A register that neither a record nor a listed entry changes. -/
theorem get_listed {f : Field} (hf : f.key ∉ recordFields.map Field.key) (e : RepairRow) (k c i r d : Nat) (s : State) :
    (listRepair e (pushRecord k c i r d s)).get f = s.get f :=
  (listRepair_view (State.get · f) (fun _ _ _ => get_of_regs f rfl) e _).trans (get_pushRecord k c i r d s hf)

theorem softRepaired_fields (s : State) : (softRepaired s).get Reg.RPR_DRAM_PPR_BUSY = 0
    ∧ (softRepaired s).get Reg.RPR_DRAM_PPR_FAIL = s.get Reg.RPR_DRAM_PPR_FAIL
    ∧ repairGroup (s.get Reg.RPR_DRAM_PPR_LOC) ∈ (softRepaired s).rpr.softUsed ∧ (softRepaired s).rpr.regions = s.rpr.regions
    ∧ (softRepaired s).get Reg.RPR_DRAM_EVENT_PPR_DONE = 1
    ∧ (softRepaired s).get Reg.RPR_DRAM_PPR_CNT = (s.get Reg.RPR_DRAM_PPR_CNT + 1) % 2 ^ 32 := by
  obtain ⟨u, hu⟩ : ∃ u : State, u = { repairStopped s with rpr := { (repairStopped s).rpr with
      softUsed := (repairStopped s).rpr.softUsed ++ [repairGroup (s.get Reg.RPR_DRAM_PPR_LOC)] } } := ⟨_, rfl⟩
  have hget (f : Field) : u.get f = (repairStopped s).get f := by rw [hu]; exact get_of_regs f rfl
  have hsoft : u.rpr.softUsed = s.rpr.softUsed ++ [repairGroup (s.get Reg.RPR_DRAM_PPR_LOC)] := by rw [hu]; rfl
  have hregions : u.rpr.regions = s.rpr.regions := by rw [hu]; rfl
  obtain ⟨e, k, c, i, r, d, heq⟩ : ∃ e k c i r d, softRepaired s
      = event Reg.RPR_DRAM_EVENT_PPR_DONE Reg.RPR_DRAM_PPR_CNT (listRepair e (pushRecord k c i r d u)) :=
    ⟨_, _, _, _, _, _, by rw [softRepaired, ← hu]⟩
  have hview {α : Type} (v : RprPart → α) (h1 : ∀ (p : RprPart) o, v { p with owedRows := o } = v p) (h2 : ∀ (p : RprPart) o, v { p with fifo := o } = v p) :
      v (softRepaired s).rpr = v u.rpr := by
    rw [heq]
    exact (listRepair_view (fun t => v t.rpr) (fun t _ o => h1 t.rpr o) e _).trans
      (pushRecord_view (fun t => v t.rpr) (fun _ _ => rfl) (fun t l => h2 t.rpr l) k c i r d u)
  refine ⟨?_, ?_, ?_, ?_, ?_, ?_⟩
  · rw [heq, get_event_ne (by decide) (by decide), get_listed (by decide), hget, repairStopped, get_setF_ne _ _ _ _ (by decide), get_setF_zero]
  · rw [heq, get_event_ne (by decide) (by decide), get_listed (by decide), hget, repairStopped, get_setF_ne _ _ _ _ (by decide),
      get_setF_ne _ _ _ _ (by decide)]
  · rw [hview RprPart.softUsed (fun _ _ => rfl) fun _ _ => rfl, hsoft]
    exact List.mem_append_right _ (List.mem_singleton_self _)
  · rw [hview RprPart.regions (fun _ _ => rfl) fun _ _ => rfl, hregions]
  · rw [heq]
    exact get_event_flag _ _ _ (by decide) (by decide)
  · rw [heq, get_event_cnt _ _ _ (by decide), get_listed (by decide), hget, repairStopped, get_setF_ne _ _ _ _ (by decide),
      get_setF_ne _ _ _ _ (by decide)]
    rfl

theorem regionRetired_fields (region : Nat) (s : State) : (regionRetired region s).get Reg.RPR_DRAM_PPR_BUSY = 0
    ∧ (regionRetired region s).get Reg.RPR_DRAM_PPR_FAIL = 1 ∧ (regionRetired region s).rpr.regions = s.rpr.regions ++ [region]
    ∧ (regionRetired region s).get Reg.RPR_DRAM_PPR_CNT = (s.get Reg.RPR_DRAM_PPR_CNT + 1) % 2 ^ 32 := by
  obtain ⟨u, hu⟩ : ∃ u : State, u = { setF Reg.RPR_DRAM_PPR_FAIL 1 (repairStopped s) with rpr := {
      (setF Reg.RPR_DRAM_PPR_FAIL 1 (repairStopped s)).rpr with
      regions := (setF Reg.RPR_DRAM_PPR_FAIL 1 (repairStopped s)).rpr.regions ++ [region] } } := ⟨_, rfl⟩
  have hget (f : Field) : u.get f = (setF Reg.RPR_DRAM_PPR_FAIL 1 (repairStopped s)).get f := by rw [hu]; exact get_of_regs f rfl
  have hregions : u.rpr.regions = s.rpr.regions ++ [region] := by rw [hu]; rfl
  obtain ⟨e, k, c, i, r, d, heq⟩ : ∃ e k c i r d, regionRetired region s
      = event Reg.RPR_DRAM_EVENT_PPR_DONE Reg.RPR_DRAM_PPR_CNT (listRepair e (pushRecord k c i r d u)) :=
    ⟨_, _, _, _, _, _, by rw [regionRetired, ← hu]⟩
  refine ⟨?_, ?_, ?_, ?_⟩
  · rw [heq, get_event_ne (by decide) (by decide), get_listed (by decide), hget, get_setF_ne _ _ _ _ (by decide), repairStopped,
      get_setF_ne _ _ _ _ (by decide), get_setF_zero]
  · rw [heq, get_event_ne (by decide) (by decide), get_listed (by decide), hget, get_setF_one rfl]
  · rw [heq, ← hregions]
    exact (listRepair_view (fun t => t.rpr.regions) (fun _ _ _ => rfl) e _).trans
      (pushRecord_view (fun t => t.rpr.regions) (fun _ _ => rfl) (fun _ _ => rfl) k c i r d u)
  · rw [heq, get_event_cnt _ _ _ (by decide), get_listed (by decide), hget, get_setF_ne _ _ _ _ (by decide), repairStopped,
      get_setF_ne _ _ _ _ (by decide), get_setF_ne _ _ _ _ (by decide)]
    rfl

end Sys2Proof.Machine
end

section
/-! The power-on self-test and the lanes (R456, R460): the rest of the obligation O41. -/

open Sys2Proof

namespace Sys2Proof.Machine

/-! The power-on self-test -/

/-- The units as the self-test finds, places and repairs them (R456). -/
def postTested (engines cores : List Nat) (rows : List (Nat × Nat)) (columns : List Nat) (s : State) : State :=
  hardRepairs (placeCores cores (placeEngines engines
    (forEach columns mapColumn (forEach rows (fun r t => mapRow r.1 r.2 t) (forEach s.repairTable.rows reapply s)))))

/-- Its result shown. -/
def postShown (s : State) : State :=
  setF Reg.RPR_POST_REMAPS s.remaps (setF Reg.RPR_POST_CORES
    ((List.range 9).filter (fun n => bitOf (s.get Reg.CCH_CORES_IN_SERVICE) n == 1)).length
    (setF Reg.RPR_POST_ENGINES s.inService.length (setF Reg.RPR_POST_DONE 1 s)))

/-- The module as it leaves the self-test (R472). -/
def postEnded (s : State) : State :=
  let s4 := pushRecord 14 0 0 0 ((postShown s).rawWord 0x110004) (postShown s)
  { s4 with
    sys := { s4.sys with inReset := s4.sys.inReset.filter (fun i => i != .host && i != .fab) }
    hif := { s4.hif with training := true } }

theorem exec_postDone_of_first {s : State} (h : s.on Reg.RPR_POST_DONE = false) (engines cores : List Nat) (rows : List (Nat × Nat))
    (columns : List Nat) : exec (.postDone engines cores rows columns) s = .next (settle (postEnded (postTested engines cores rows columns s))) := by
  rw [exec_postDone, execPostDone, if_neg (by simp [h]), postTested, postEnded, postShown]

theorem get_postEnded {f : Field} (hf : f.key ∉ recordFields.map Field.key) (s : State) : (postEnded s).get f = (postShown s).get f :=
  (get_of_regs f rfl).trans (get_pushRecord 14 0 0 0 _ (postShown s) hf)

theorem engState_postEnded {e : Nat} (he : e < 28) (s : State) : (postEnded s).engState e = s.engState e := by
  have hlow : (engField e).key < Reg.RPR_POST_DONE.key := by
    simp only [Field.key, engField, Reg.RPR_POST_DONE]
    omega
  have hpost : Reg.RPR_POST_DONE.key < Reg.RPR_POST_ENGINES.key ∧ Reg.RPR_POST_DONE.key < Reg.RPR_POST_CORES.key
      ∧ Reg.RPR_POST_DONE.key < Reg.RPR_POST_REMAPS.key := by decide
  have hrec : ∀ k ∈ recordFields.map Field.key, Reg.RPR_POST_ENGINES.key < k := by decide
  have hout : (engField e).key ∉ recordFields.map Field.key := fun h => by
    have := hrec _ h
    omega
  rw [State.engState, get_postEnded hout, postShown, get_setF_ne _ _ _ _ (by omega), get_setF_ne _ _ _ _ (by omega),
    get_setF_ne _ _ _ _ (by omega), get_setF_ne _ _ _ _ (by omega), ← State.engState]

theorem inService_postEnded (s : State) : (postEnded s).inService = s.inService :=
  List.filter_congr fun e he => by rw [engState_postEnded (List.mem_range.mp he)]

theorem postEnded_fields (s : State) : (postEnded s).get Reg.RPR_POST_DONE = 1
    ∧ (postEnded s).get Reg.RPR_POST_ENGINES = (postEnded s).inService.length ∧ Island.host ∉ (postEnded s).sys.inReset
    ∧ Island.fab ∉ (postEnded s).sys.inReset := by
  have hcount : s.inService.length < 2 ^ Reg.RPR_POST_ENGINES.width :=
    Nat.lt_of_le_of_lt (List.length_filter_le _ _) (by decide)
  have hreset : (postEnded s).sys.inReset = (pushRecord 14 0 0 0 ((postShown s).rawWord 0x110004) (postShown s)).sys.inReset.filter
      (fun i => i != .host && i != .fab) := rfl
  refine ⟨?_, ?_, ?_, ?_⟩
  · rw [get_postEnded (by decide), postShown, get_setF_ne _ _ _ _ (by decide), get_setF_ne _ _ _ _ (by decide),
      get_setF_ne _ _ _ _ (by decide), get_setF_one rfl]
  · rw [get_postEnded (by decide), inService_postEnded, postShown, get_setF_ne _ _ _ _ (by decide), get_setF_ne _ _ _ _ (by decide),
      get_setF_of_lt hcount]
  · rw [hreset]
    simp
  · rw [hreset]
    simp

/-! Lanes -/

theorem portDown_of_untrained {p : Nat} {s : State} (h : (s.port p).trained = 0) : portDown p s = s := if_pos h

theorem showMirror_of_down {s : State} (h : s.on Reg.FOV_MIR_STATUS_LINK_UP = false) : showMirror s = s := if_pos (by simp [h])

theorem recordLane_view {α : Type} (v : State → α) (hr : ∀ (s : State) r, v { s with regs := r } = v s)
    (hf : ∀ (s : State) l, v { s with rpr := { s.rpr with fifo := l } } = v s) (hfree : ∀ (s : State) n, v { s with free := n } = v s)
    (k p : Nat) (s : State) : v (recordLane k p s) = v s := by
  unfold recordLane
  exact (hfree _ _).trans ((pushRecord_view v hr hf _ _ _ _ _ _).trans (event_view v hr _ _ s))

theorem get_recordLane {f : Field} (hf : f.key ∉ recordFields.map Field.key) (he : Reg.RPR_EVENT_LANE_CHANGE.key ≠ f.key)
    (hc : Reg.RPR_LANE_CHANGE_CNT.key ≠ f.key) (k p : Nat) (s : State) : (recordLane k p s).get f = s.get f := by
  unfold recordLane
  exact (get_of_regs f rfl).trans ((get_pushRecord _ _ _ _ _ _ hf).trans (get_event_ne he hc))

theorem cnt_recordLane (k p : Nat) (s : State) :
    (recordLane k p s).get Reg.RPR_LANE_CHANGE_CNT = (s.get Reg.RPR_LANE_CHANGE_CNT + 1) % 2 ^ 32 := by
  unfold recordLane
  exact (get_of_regs _ rfl).trans ((get_pushRecord _ _ _ _ _ _ (by decide)).trans (get_event_cnt _ _ _ (by decide)))

/-- A port with its first failed lane (R460). -/
def laneFailed (p l : Nat) (s : State) : State := recordLane 12 p { s with rpr := { s.rpr with lanes := [4 * p + l] } }

theorem fabLanes_of_none {s : State} (h : s.rpr.lanes = []) (p : Nat) : s.fabLanes p = 4 := by simp [State.fabLanes, h]

theorem fabLanes_of_one {s : State} {p : Nat} {l : Fin 4} (h : s.rpr.lanes = [4 * p + l.val]) : s.fabLanes p = 2 := by
  have hgood (k : Nat) : s.rpr.lanes.contains (4 * p + k) = decide (k = l.val) := by
    rw [h]
    simp
  simp only [State.fabLanes, hgood]
  revert l
  intro l _ _
  fin_cases l <;> rfl

theorem port_laneFailed (p l q : Nat) (s : State) : (laneFailed p l s).port q = s.port q :=
  recordLane_view (State.port · q) (fun _ _ => rfl) (fun _ _ => rfl) (fun _ _ => rfl) 12 p _

theorem lanes_laneFailed (p l : Nat) (s : State) : (laneFailed p l s).rpr.lanes = [4 * p + l] :=
  recordLane_view (fun t => t.rpr.lanes) (fun _ _ => rfl) (fun _ _ => rfl) (fun _ _ => rfl) 12 p _

theorem exec_fabricLaneFailure_of_first {s : State} {port : Fin 7} {lane : Fin 4} (hl : s.rpr.lanes = [])
    (hport : port.val < 4 → (s.port port.val).trained = 0) (hlink : 4 ≤ port.val → s.on Reg.FOV_MIR_STATUS_LINK_UP = false) :
    exec (.fabricLaneFailure port lane) s = .next (settle (laneFailed port.val lane.val s)) := by
  have hbefore : s.fabLanes port.val = 4 := fabLanes_of_none hl _
  have hafter : ({ s with rpr := { s.rpr with lanes := [4 * port.val + lane.val] } } : State).fabLanes port.val = 2 := fabLanes_of_one rfl
  rw [exec_fabricLaneFailure, execFabricLaneFailure]
  simp only [hl, List.contains_nil, Bool.false_eq_true, if_false, List.nil_append, hbefore, hafter, Nat.reduceEqDiff]
  rw [← laneFailed]
  split_ifs with h4
  · rw [portDown_of_untrained (by rw [port_laneFailed]; exact hport h4)]
  · rw [showMirror_of_down]
    rw [State.on, laneFailed, get_recordLane (by decide) (by decide) (by decide)]
    exact hlink (by omega)

/-- Every port with all its lanes again. -/
def lanesRestored (s : State) : State :=
  forEach ((List.range 7).filter (fun p => s.fabLanes p != 4)) (recordLane 13) { s with rpr := { s.rpr with lanes := [] } }

theorem lanesRestored_view {α : Type} (v : State → α) (hr : ∀ (s : State) r, v { s with regs := r } = v s)
    (hf : ∀ (s : State) l, v { s with rpr := { s.rpr with fifo := l } } = v s) (hfree : ∀ (s : State) n, v { s with free := n } = v s) (s : State) :
    v (lanesRestored s) = v { s with rpr := { s.rpr with lanes := [] } } :=
  view_forEach v (fun p t => recordLane_view v hr hf hfree 13 p t) _

/-- What no step of a walk changes, the walk does not. -/
theorem forEach_of_fixed {α : Type} {l : List α} {g : α → State → State} {u : State} (h : ∀ x ∈ l, g x u = u) : forEach l g u = u := by
  unfold Machine.forEach
  induction l with
  | nil => rfl
  | cons x l ih => exact (congrArg (fun t => l.foldl (fun t x => g x t) t) (h x (.head _))).trans (ih fun y hy => h y (.tail _ hy))

theorem exec_laneRestore_of_idle {s : State} (hl : s.lands 0x110000 = true) (hp : ∀ p : Fin 4, (s.port p.val).trained = 0)
    (hm : s.on Reg.FOV_MIR_STATUS_LINK_UP = false) :
    exec .laneRestore s = .next (settle (lanesRestored (ungate (islandOf 0x110000) s))) := by
  obtain ⟨u, hu⟩ : ∃ u, u = lanesRestored (ungate (islandOf 0x110000) s) := ⟨_, rfl⟩
  have hport (p : Fin 4) : (u.port p.val).trained = 0 := by
    rw [hu, lanesRestored_view (State.port · p.val) (fun _ _ => rfl) (fun _ _ => rfl) fun _ _ => rfl]
    exact hp p
  have hlink : u.on Reg.FOV_MIR_STATUS_LINK_UP = false := by
    rw [hu, State.on, lanesRestored, get_forEach fun p t => get_recordLane (by decide) (by decide) (by decide) 13 p t]
    exact hm
  have hports : forEach [0, 1, 2, 3] portDown u = u := forEach_of_fixed fun p hp =>
    portDown_of_untrained (hport ⟨p, by simp only [List.mem_cons, List.not_mem_nil, or_false] at hp; omega⟩)
  rw [exec_of_lands hl (exec_laneRestore s)]
  refine congrArg (fun t => Host.Outcome.next (settle t)) ?_
  show showMirror (forEach [0, 1, 2, 3] portDown (lanesRestored (ungate (islandOf 0x110000) s))) = lanesRestored (ungate (islandOf 0x110000) s)
  rw [← hu, hports, showMirror_of_down hlink]

theorem lanesRestored_fields (s : State) : (lanesRestored s).rpr.lanes = [] ∧ (s.rpr.lanes = [] → Keeps [] s (lanesRestored s)) := by
  refine ⟨lanesRestored_view (fun t => t.rpr.lanes) (fun _ _ => rfl) (fun _ _ => rfl) (fun _ _ => rfl) s, fun h => ?_⟩
  have hnone : (List.range 7).filter (fun p => s.fabLanes p != 4) = [] :=
    List.filter_eq_nil_iff.mpr fun p _ => by rw [fabLanes_of_none h]; decide
  rw [lanesRestored, hnone]
  exact .of_eq (t := s) (Keeps.refl _ _) rfl rfl

/-- Settles O41: records, cores, spare rows, memory repairs, the self-test and the lanes. -/
theorem selfRepairCommandsComplete : Obligations.SelfRepairCommandsComplete := by
  unfold Obligations.SelfRepairCommandsComplete
  refine ⟨fun s r rest hl ho hr hf => ⟨fun hm => ?stored, fun hm => ?deferred⟩, fun s n b => ?passed, fun s n k hn hs hne => ?replaced,
    fun s array row ha hq hu he hf => ?remap, fun s loc row => ?limit, fun s loc row hl hb => ?repair,
    fun s region hb => ⟨fun hu => ?soft, fun hu hr hlen => ?region⟩, fun s engines cores rows columns h => ?post,
    fun s port lane hl hport hlink => ?lane, fun s hl hp hm => ?restore⟩
  case stored =>
    exact .of_next (exec_repairRecordPop_of_stored hl ho hr hf hm) ⟨fifo_storeRecord r _, mem_recordStored r rest _ s⟩
  case deferred =>
    exact .of_next (exec_repairRecordPop_of_deferred hl ho hr hf hm) ⟨rfl, Keeps.of_ungate (Keeps.refl _ _)⟩
  case passed => exact .of_next ((exec_corePeriodicTest s).trans (if_pos rfl)) rfl
  case replaced =>
    have hget : (coreReplaced n.val k.val s).get Reg.CCH_CORES_IN_SERVICE = (spareTaken n.val k.val s).get Reg.CCH_CORES_IN_SERVICE :=
      get_coreReplaced (by decide) (by decide) _ _ s
    refine .of_next (exec_corePeriodicTest_of_spare hn hs) ⟨?_, ?_, fun i hi hk => ?_, ?_, coresRetired_coreReplaced _ _ s,
      fun m => lockAnswer_coreReplaced m.isLt _ _ s⟩
    · rw [hget, inService_spareTaken n.isLt, if_neg fun e => hne (Fin.ext e.symm), if_pos rfl]
    · rw [hget, inService_spareTaken k.isLt, if_pos rfl]
    · rw [hget, inService_spareTaken i.isLt, if_neg fun e => hk (Fin.ext e), if_neg fun e => hi (Fin.ext e)]
    · rw [get_coreReplaced (by decide) (by decide)]
      exact (get_setF_ne _ _ _ _ (by decide)).trans ((get_of_regs _ rfl).trans (get_setF_zero Reg.CCH_CORES_SPARE _))
  case remap => exact .of_next (exec_sramRowRemap_of_spare ha hq hu he) (rowMapped_fields hf rfl)
  case limit => exact .of_next (exec_dramRowLimit_of_corrected loc row s) (rowLimited_fields loc row s)
  case repair =>
    obtain ⟨hrow, hloc, hbusy, hfail, hkeep⟩ := repairBegun_fields loc row (ungate (islandOf 0x111010) s)
    exact .of_next (exec_dramPpr_of_idle hl hb loc row) ⟨hrow, hloc, hbusy, hfail, hkeep.of_ungate⟩
  case soft => exact .of_next (exec_dramPprDone_of_soft hb hu) (softRepaired_fields s)
  case region => exact .of_next (exec_dramPprDone_of_used hb hu hr hlen) (regionRetired_fields region s)
  case post =>
    obtain ⟨hdone, hengines, hhost, hfab⟩ := postEnded_fields (postTested engines cores rows columns s)
    exact .of_next (exec_postDone_of_first h engines cores rows columns) ⟨hdone, hengines, hhost, hfab, rfl⟩
  case lane =>
    exact .of_next (exec_fabricLaneFailure_of_first hl hport hlink)
      ⟨lanes_laneFailed _ _ s, fabLanes_of_one (lanes_laneFailed _ _ s), cnt_recordLane 12 port.val _⟩
  case restore =>
    obtain ⟨hlanes, hkeep⟩ := lanesRestored_fields (ungate (islandOf 0x110000) s)
    exact .of_next (exec_laneRestore_of_idle hl hp hm) ⟨hlanes, fun p => fabLanes_of_none hlanes _, fun h => (hkeep h).of_ungate⟩

end Sys2Proof.Machine
end

section
/-! DMA channels and the control cores' accesses (O42). -/

open Sys2Proof

namespace Sys2Proof.Machine

/-! Accesses of a core -/

theorem exec_coreAccess_of_fault {s : State} {kind : AccessKind} {addr size : Nat} (h : accessFaults kind addr size = true) (core : Fin 9)
    (value : Nat) (evict : List Nat) (b : Bool) :
    exec (.coreAccess core kind addr size value evict b) s = .next (emit (.accessFault core.val kind addr) s) := by
  rw [exec_coreAccess, execCoreAccess, if_pos h]

theorem regionOf_dram_iff {a : Nat} : regionOf a = .dram ↔ a < 0x1000000000 := by
  unfold regionOf
  split_ifs <;> simp [*]

theorem accessFaults_of_dram {a n : Nat} (h : regionOf a = .dram) (hn : a % 64 + n ≤ 64) (h1 : 1 ≤ n) : accessFaults .load a n = false := by
  have hlast : regionOf (a + n - 1) = .dram := regionOf_dram_iff.mpr (by have := regionOf_dram_iff.mp h; omega)
  simp only [accessFaults, h, hlast]
  rfl

theorem cutAt_nil {unit fuel a done : Nat} : cutAt unit fuel a 0 done = [] := by
  cases fuel with
  | zero => rfl
  | succ fuel => rw [cutAt]; exact if_pos rfl

/-- An access within a line is one part. -/
theorem lineParts_of_within {a n : Nat} (h1 : 1 ≤ n) (hn : a % 64 + n ≤ 64) : lineParts a n = [(a, (n, 0))] := by
  have hk : min n (64 - a % 64) = n := Nat.min_eq_left (by omega)
  rw [lineParts, cutAt, if_neg (by omega), hk, Nat.sub_self, cutAt_nil]

/-- A load that hits the core's own L1. -/
theorem serve_of_hit {s : State} {core a n : Nat} {x : CoreLine} (h : s.l1Line core (a / 64) = some x) :
    serve ⟨core, .load, a, n, 0 / 256 ^ 0, [], false⟩ s = (emit (.coreData core a ((x.data.drop (a % 64)).take n)) s, true) := by
  have hroom : makeRoom ⟨core, .load, a, n, 0 / 256 ^ 0, [], false⟩ s = some s := rfl
  simp only [serve, hroom, reqLine, show (AccessKind.load == AccessKind.fetch) = false from rfl, Bool.false_eq_true, if_false, h]
  rfl

theorem exec_load_of_hit {s : State} {core : Fin 9} {a n : Nat} {x : CoreLine} (hr : regionOf a = .dram) (h1 : 1 ≤ n)
    (hn : a % 64 + n ≤ 64) (h : s.l1Line core.val (a / 64) = some x) :
    exec (.coreAccess core .load a n 0 [] false) s = .next (emit (.coreData core.val a ((x.data.drop (a % 64)).take n)) s) := by
  rw [exec_coreAccess, execCoreAccess, if_neg (by simp [accessFaults_of_dram hr hn h1]), if_pos (by rw [hr]; rfl),
    lineParts_of_within h1 hn]
  show Host.Outcome.next (request ⟨core.val, .load, a, n, 0 / 256 ^ 0, [], false⟩ s) = _
  rw [request, serve_of_hit h]

/-! Registers in the address map -/

theorem regionOf_regs {off : Nat} (h : off < 0x400000) : regionOf (0x2000000000 + off) = .regs := by
  unfold regionOf
  rw [if_neg (by omega), if_neg (by omega), if_neg (by omega), if_pos (by omega)]

theorem accessFaults_of_regs {off : Nat} (h : off < 0x400000) (h4 : off % 4 = 0) {kind : AccessKind} (hk : kind ≠ .fetch) :
    accessFaults kind (0x2000000000 + off) 4 = false := by
  have hlast : regionOf (0x2000000000 + off + 4 - 1) = .regs := by
    rw [show 0x2000000000 + off + 4 - 1 = 0x2000000000 + (off + 3) by omega]
    exact regionOf_regs (by omega)
  have halign : (0x2000000000 + off) % 4 = 0 := by omega
  simp only [accessFaults, regionOf_regs h, hlast, halign]
  cases kind with
  | load => rfl
  | store => rfl
  | fetch => exact absurd rfl hk

theorem regOff_eq (off : Nat) : regOff (0x2000000000 + off) = off := by
  unfold regOff
  omega

theorem deviceRead_of_regs {off : Nat} (h : off < 0x400000) (r : Requester) (s : State) :
    deviceRead r (0x2000000000 + off) s = busRead r off s := by
  rw [deviceRead, regionOf_regs h, regOff_eq]

theorem deviceWrite_of_regs {off : Nat} (h : off < 0x400000) (r : Requester) (v : Nat) (s : State) :
    deviceWrite r (0x2000000000 + off) v s = busWrite r off v s := by
  rw [deviceWrite, regionOf_regs h, regOff_eq]

theorem exec_load_of_regs {s : State} {core : Fin 9} {off : Nat} (h : off < 0x400000) (h4 : off % 4 = 0) (hw : s.mustWait off = false) :
    exec (.coreAccess core .load (0x2000000000 + off) 4 0 [] false) s
      = .next (emit (.coreData core.val (0x2000000000 + off) (leBytes 4 (busRead (.core core) off s).1)) (busRead (.core core) off s).2) := by
  rw [exec_coreAccess, execCoreAccess, if_neg (by simp [accessFaults_of_regs h h4]), if_neg (by rw [regionOf_regs h]; decide),
    if_neg (by rw [regOff_eq, hw]; simp), if_neg (by decide), Nat.div_self (by decide)]
  simp only [deviceReads, deviceRead_of_regs h, List.append_nil]

theorem leNat_take_leBytes (v : Word) : leNat ((leBytes 4 v.toNat).take 4) = v.toNat :=
  leNat_leBytes_of_lt (n := 4) v.isLt

theorem exec_store_of_regs {s : State} {core : Fin 9} {off : Nat} (h : off < 0x400000) (h4 : off % 4 = 0) (hw : s.mustWait off = false)
    (v : Word) : exec (.coreAccess core .store (0x2000000000 + off) 4 v.toNat [] false) s = .next (busWrite (.core core) off v.toNat s) := by
  rw [exec_coreAccess, execCoreAccess, if_neg (by simp [accessFaults_of_regs h h4]), if_neg (by rw [regionOf_regs h]; decide),
    if_neg (by rw [regOff_eq, hw]; simp), if_pos rfl, Nat.div_self (by decide)]
  simp only [deviceWrites, deviceWrite_of_regs h, leNat_take_leBytes]

/-! A channel's next descriptor -/

/-- A channel that has taken its head descriptor. -/
def descTaken (c : Nat) (s : State) : State :=
  setF (Reg.DMA_CH_HEAD_HEAD c) ((s.get (Reg.DMA_CH_HEAD_HEAD c) + 1) % s.chSize c) (setF (Reg.DMA_CH_STATUS_BUSY c) 1 s)

/-- The run of a descriptor that the channel refuses, and of one that it carries out. -/
def descRefused (d : DmaDesc) : DmaRun := { tag := d.tag, irq := d.irq, length := d.length, status := 1 }

theorem busy_ne_head (c : Nat) : (Reg.DMA_CH_STATUS_BUSY c).key ≠ (Reg.DMA_CH_HEAD_HEAD c).key := by
  simp only [Field.key, Reg.DMA_CH_STATUS_BUSY, Reg.DMA_CH_HEAD_HEAD]
  omega

theorem get_busy_descTaken (c : Nat) (s : State) : (descTaken c s).get (Reg.DMA_CH_STATUS_BUSY c) = 1 := by
  rw [descTaken, get_setF_ne _ _ _ _ (busy_ne_head c).symm, get_setF_one rfl]

theorem get_head_descTaken (c : Nat) (s : State) : (descTaken c s).get (Reg.DMA_CH_HEAD_HEAD c)
    = (s.get (Reg.DMA_CH_HEAD_HEAD c) + 1) % s.chSize c % 2 ^ (Reg.DMA_CH_HEAD_HEAD c).width := get_setF_self _ _ _

theorem keeps_descTaken (c : Nat) (s : State) : Keeps [Reg.DMA_CH_STATUS_BUSY c, Reg.DMA_CH_HEAD_HEAD c] s (descTaken c s) :=
  Keeps.setF _ _ (by simp) (Keeps.setF _ _ (by simp) (Keeps.refl _ _))

theorem exec_dmaDescriptor_of_bad {s : State} {c : Fin 16} (hr : s.dmaReady c.val = true)
    (hok : (s.readDesc (s.headDesc c.val)).ok = false) (hs : (s.readDesc (s.headDesc c.val)).srcHost = false)
    (hd : (s.readDesc (s.headDesc c.val)).dstHost = false) (host : List Nat) :
    exec (.dmaDescriptor c host none none) s = .next { descTaken c.val s with
      dma := Assoc.set (descTaken c.val s).dma c.val (descRefused (s.readDesc (s.headDesc c.val))) } := by
  rw [exec_dmaDescriptor, execDmaDescriptor, if_neg (by simp [hr])]
  simp only [hs, hd, hok, Bool.or_self, Bool.false_and, Bool.false_eq_true, if_false, Bool.not_false, if_true]
  rfl

/-! A copy from memory to memory -/

theorem length_readBytes (s : State) (a n : Nat) : (s.readBytes a n).length = n := by
  induction n generalizing a with
  | zero => rfl
  | succ n ih => rw [State.readBytes, List.length_cons, ih]

/-- Mode 0 moves a stream as it is (R448). -/
theorem swapBytes_zero (n : Nat) (l : List Nat) : swapBytes 0 n l = l.take n := by
  induction n generalizing l with
  | zero => rfl
  | succ n ih =>
    cases l with
    | nil => simp [swapBytes, swapOne, swapGroup, ih]
    | cons x l => simp [swapBytes, swapOne, swapGroup, ih]

theorem swapBytes_readBytes (s : State) (a n : Nat) : swapBytes 0 (n / swapGroup 0) (s.readBytes a n) = s.readBytes a n := by
  rw [show swapGroup 0 = 1 from rfl, Nat.div_one, swapBytes_zero, List.take_of_length_le (length_readBytes s a n).le]

section Copied
variable {d : DmaDesc} {s : State}

/-- A copy within DRAM, with no line of it poisoned and no byte reordered. -/
def plainCopy (d : DmaDesc) (s : State) : Prop :=
  d.op = 1 ∧ d.mode = 0 ∧ d.srcHost = false ∧ d.dstHost = false ∧ regionOf d.src = .dram ∧ regionOf d.dst = .dram ∧ s.cch.poison = []

theorem dmaSource_of_plain (h : plainCopy d s) (c : Fin 16) (host : List Nat) :
    dmaSource c d host s = (s.readBytes d.src d.length, s) := by
  obtain ⟨hop, -, hsrc, -, hr, -, hp⟩ := h
  have hall : (List.range d.length).takeWhile (fun i => !s.cch.poison.contains ((d.src + i) / 64)) = List.range d.length :=
    List.takeWhile_eq_self_iff.mpr fun i _ => by rw [hp]; rfl
  rw [dmaSource, if_neg (by simp [hop]), if_neg (by simp [hsrc]), hr]
  simp only [hall, List.length_range]

theorem length_pos_of_ok (h : d.ok = true) : 1 ≤ d.length := by
  simp only [DmaDesc.ok, Bool.and_eq_true, decide_eq_true_eq] at h
  tauto

theorem dmaStore_of_dram (hd : d.dstHost = false) (hr : regionOf d.dst = .dram) {bytes : List Nat} (hb : bytes ≠ []) (c : Fin 16) (s : State) :
    dmaStore c d bytes s = cleanRange d.dst bytes.length (writeBytes d.dst bytes s) := by
  have hlow := regionOf_dram_iff.mp hr
  rw [dmaStore, if_neg (by simpa using hb), if_neg (by simp [hd]), hr]
  show cleanRange _ _ (storeBytes _ _ _) = _
  rw [storeBytes, if_neg (by omega)]

/-- The run of a copy that was carried out whole. -/
def runWhole (d : DmaDesc) (bytes : List Nat) : DmaRun :=
  { tag := d.tag, irq := d.irq, length := d.length, status := 0, bytes := d.length,
    crc := if d.crc then crc32c bytes else 0, fail := 0 }

theorem dmaTransfer_of_plain (h : plainCopy d s) (hl : 1 ≤ d.length) (c : Fin 16) (host : List Nat) :
    dmaTransfer c d host none none s = (runWhole d (s.readBytes d.src d.length),
      cleanRange d.dst d.length (writeBytes d.dst (s.readBytes d.src d.length) s)) := by
  have hne : s.readBytes d.src d.length ≠ [] := List.ne_nil_of_length_pos (by rw [length_readBytes]; exact hl)
  have hsrc := dmaSource_of_plain h c host
  obtain ⟨-, hmode, -, hhost, -, hdst, -⟩ := h
  unfold dmaTransfer
  simp only [hsrc, hmode, length_readBytes, Nat.min_self, if_true, le_refl, swapBytes_readBytes,
    List.take_of_length_le (length_readBytes s d.src d.length).le, OfNat.zero_ne_ofNat, if_false]
  rw [dmaStore_of_dram hhost hdst hne, length_readBytes]
  rfl

theorem dmaWaits_of_plain (h : plainCopy d s) : s.dmaWaits d = none := by
  obtain ⟨hop, -, hsrc, hhost, hr, hdst, -⟩ := h
  simp [State.dmaWaits, hop, hsrc, hhost, hr, hdst]

end Copied

/-- A channel that has carried out a copy within DRAM. -/
def descCopied (c : Nat) (d : DmaDesc) (s : State) : State :=
  let t := cleanRange d.dst d.length (writeBytes d.dst (s.readBytes d.src d.length) s)
  { t with dma := Assoc.set t.dma c (runWhole d (s.readBytes d.src d.length)) }

theorem exec_dmaDescriptor_of_plain {s : State} {c : Fin 16} {d : DmaDesc} (hd : s.readDesc (s.headDesc c.val) = d)
    (hr : s.dmaReady c.val = true) (hok : d.ok = true) (hpl : d.placed = true) (hc : plainCopy d s) (host : List Nat) :
    exec (.dmaDescriptor c host none none) s = .next (descCopied c.val d (descTaken c.val s)) := by
  have hwait := dmaWaits_of_plain hc
  have hrun := dmaTransfer_of_plain (s := descTaken c.val s) hc (length_pos_of_ok hok) c host
  obtain ⟨-, -, hsrc, hdst, -⟩ := hc
  rw [exec_dmaDescriptor, execDmaDescriptor, if_neg (by simp [hr])]
  simp only [hd, hsrc, hdst, hok, hpl, hwait, Bool.or_self, Bool.false_and, Bool.and_self, Bool.false_eq_true, if_false, Bool.not_true, if_true]
  rw [descTaken] at hrun ⊢
  rw [hrun]
  rfl

theorem descCopied_fields (c : Nat) (d : DmaDesc) (s : State) :
    ((descCopied c d (descTaken c s)).dmaRun c).map (fun r => (r.tag, r.status, r.bytes)) = some (d.tag, 0, d.length)
    ∧ (descCopied c d (descTaken c s)).mem = (writeBytes d.dst (s.readBytes d.src d.length) s).mem
    ∧ (descCopied c d (descTaken c s)).get (Reg.DMA_CH_STATUS_BUSY c) = 1 := by
  refine ⟨?_, ?_, ?_⟩
  · rw [State.dmaRun, descCopied, Assoc.find_set, if_pos rfl]
    rfl
  · show (writeBytes d.dst ((descTaken c s).readBytes d.src d.length) (descTaken c s)).mem = _
    rw [readBytes_of_mem (t := descTaken c s) (s := s) rfl, mem_writeBytes_congr (t := descTaken c s) (s := s) rfl]
  · exact (get_of_regs _ (writeBytes_view State.regs (fun _ _ => rfl) _ _ _)).trans (get_busy_descTaken c s)

/-! The record of a descriptor -/

/-- The record's bytes (R447). -/
def descRecord (c : Nat) (r : DmaRun) (s : State) : List Nat :=
  leBytes 2 r.tag ++ [r.status, c] ++ leBytes 4 r.bytes ++ leBytes 4 r.crc ++ leBytes 8 r.fail
    ++ List.replicate 11 0 ++ [Assoc.getD s.oxe.phases (32 + c) 1]

/-- Where a channel's next record goes. -/
def recordAt (c : Nat) (s : State) : Nat :=
  s.get64 (Reg.DMA_CH_CQ_BASE_LO_BASE c) (Reg.DMA_CH_CQ_BASE_HI_BASE c) + 32 * s.get (Reg.DMA_CH_CQ_TAIL_CQ_TAIL c)

/-- The ring's phase turned where its end is reached. -/
def turnPhase (c : Nat) (s t : State) : State :=
  when (s.get (Reg.DMA_CH_CQ_TAIL_CQ_TAIL c) + 1 == s.chSize c)
    (fun u => { u with oxe := { u.oxe with phases := Assoc.set u.oxe.phases (32 + c) (1 - Assoc.getD s.oxe.phases (32 + c) 1) } }) t

/-- The record put in its ring. -/
def recordPut (c : Nat) (r : DmaRun) (s : State) : State :=
  turnPhase c s (setF (Reg.DMA_CH_CQ_TAIL_CQ_TAIL c) ((s.get (Reg.DMA_CH_CQ_TAIL_CQ_TAIL c) + 1) % s.chSize c)
    (writeBytes (recordAt c s) (descRecord c r s) s))

/-- The channel free again. -/
def channelFreed (c : Nat) (s : State) : State :=
  bump Reg.DMA_DESC_DONE_CNT (setF (Reg.DMA_CH_STATUS_BUSY c) 0 { s with dma := Assoc.erase s.dma c })

/-- The events of a record (R447). -/
def recordTold (c : Nat) (r : DmaRun) (s : State) : State :=
  when (r.status == 5) (bump Reg.DMA_ADDR_ERR_CNT)
    (when r.irq (fun u => setF Reg.DMA_EVENT_DONE 1 (event (Reg.DMA_CH_STATUS_DONE c) (Reg.DMA_CH_DONE_CNT c) u)) s)

/-- The halt after any status but OK (R450). -/
def recordHalt (c : Nat) (r : DmaRun) (s : State) : State :=
  when (r.status != 0) (fun u => event Reg.DMA_EVENT_HALTED Reg.DMA_HALT_CNT (setF (Reg.DMA_CH_STATUS_HALTED c) 1 u)) s

theorem dmaRecord_eq (c : Nat) (r : DmaRun) (s : State) :
    dmaRecord c r s = recordHalt c r (recordTold c r (channelFreed c (recordPut c r s))) := rfl

theorem turnPhase_view {α : Type} (v : State → α) (hv : ∀ (s : State) p, v { s with oxe := { s.oxe with phases := p } } = v s) (c : Nat)
    (s t : State) : v (turnPhase c s t) = v t := when_of_eq _ v (hv _ _)

theorem recordTold_view {α : Type} (v : State → α) (hr : ∀ (s : State) r, v { s with regs := r } = v s) (c : Nat) (r : DmaRun) (s : State) :
    v (recordTold c r s) = v s :=
  (when_of_eq _ v (hr _ _)).trans (when_of_eq _ v ((hr _ _).trans (event_view v hr _ _ s)))

theorem recordHalt_view {α : Type} (v : State → α) (hr : ∀ (s : State) r, v { s with regs := r } = v s) (c : Nat) (r : DmaRun) (s : State) :
    v (recordHalt c r s) = v s := when_of_eq _ v ((event_view v hr _ _ _).trans (hr _ _))

theorem dmaRecord_view {α : Type} (v : State → α) (hr : ∀ (s : State) r, v { s with regs := r } = v s) (c : Nat) (r : DmaRun) (s : State) :
    v (dmaRecord c r s) = v { recordPut c r s with dma := Assoc.erase (recordPut c r s).dma c } := by
  rw [dmaRecord_eq, recordHalt_view v hr, recordTold_view v hr, channelFreed, bump, setF, hr]
  exact hr _ _

theorem dma_recordPut (c : Nat) (r : DmaRun) (s : State) : (recordPut c r s).dma = s.dma :=
  (turnPhase_view State.dma (fun _ _ => rfl) c s _).trans (writeBytes_view State.dma (fun _ _ => rfl) _ _ _)

theorem dma_dmaRecord (c : Nat) (r : DmaRun) (s : State) : (dmaRecord c r s).dma = Assoc.erase s.dma c := by
  rw [dmaRecord_view State.dma fun _ _ => rfl]
  show Assoc.erase (recordPut c r s).dma c = _
  rw [dma_recordPut]

theorem mem_dmaRecord (c : Nat) (r : DmaRun) (s : State) : (dmaRecord c r s).mem = (writeBytes (recordAt c s) (descRecord c r s) s).mem :=
  (dmaRecord_view State.mem (fun _ _ => rfl) c r s).trans (turnPhase_view State.mem (fun _ _ => rfl) c s _)

theorem get_recordPut (c : Nat) (r : DmaRun) (s : State) (f : Field) : (recordPut c r s).get f
    = (setF (Reg.DMA_CH_CQ_TAIL_CQ_TAIL c) ((s.get (Reg.DMA_CH_CQ_TAIL_CQ_TAIL c) + 1) % s.chSize c) s).get f := by
  rw [recordPut, turnPhase_view (State.get · f) fun _ _ => rfl]
  simp only [State.get, setF_regs, writeBytes_view State.regs fun _ _ => rfl]

/-- The fields that a record's events may set. -/
def recordEvents (c : Nat) : List Field :=
  [Reg.DMA_ADDR_ERR_CNT, Reg.DMA_EVENT_DONE, Reg.DMA_CH_STATUS_DONE c, Reg.DMA_CH_DONE_CNT c]

theorem keeps_recordTold (c : Nat) (r : DmaRun) (s : State) : Keeps (recordEvents c) s (recordTold c r s) :=
  Keeps.when _ _ (Keeps.when _ _ (Keeps.refl _ _) fun h => Keeps.setF _ _ (by simp [recordEvents]) (Keeps.event _ _ (by simp [recordEvents])
    (by simp [recordEvents]) h)) fun h => Keeps.bump _ (by simp [recordEvents]) h

/-- The fields that a halt sets (R450). -/
def haltFields (c : Nat) : List Field := [Reg.DMA_EVENT_HALTED, Reg.DMA_HALT_CNT, Reg.DMA_CH_STATUS_HALTED c]

theorem keeps_recordHalt (c : Nat) (r : DmaRun) (s : State) : Keeps (haltFields c) s (recordHalt c r s) :=
  Keeps.when _ _ (Keeps.refl _ _) fun h => Keeps.event _ _ (by simp [haltFields]) (by simp [haltFields])
    (Keeps.setF _ _ (by simp [haltFields]) h)

/-- The fields of a channel and of the block that its records write, by their keys. -/
theorem recordKeys (c : Nat) :
    (recordEvents c).map Field.key = [0x70048 * 32, 0x70010 * 32, (0x71028 + 0x40 * c) * 32 + 2, (0x71030 + 0x40 * c) * 32]
    ∧ (haltFields c).map Field.key = [0x70010 * 32 + 1, 0x70044 * 32, (0x71028 + 0x40 * c) * 32 + 1]
    ∧ (Reg.DMA_CH_STATUS_BUSY c).key = (0x71028 + 0x40 * c) * 32 ∧ (Reg.DMA_CH_STATUS_HALTED c).key = (0x71028 + 0x40 * c) * 32 + 1
    ∧ (Reg.DMA_CH_CQ_TAIL_CQ_TAIL c).key = (0x71020 + 0x40 * c) * 32 ∧ Reg.DMA_DESC_DONE_CNT.key = 0x70040 * 32
    ∧ Reg.DMA_CTRL_ENABLE.key = 0x70000 * 32 := ⟨rfl, rfl, rfl, rfl, rfl, rfl, rfl⟩

theorem get_dmaRecord_of {f : Field} {c : Nat} (r : DmaRun) (s : State) (ht : f.key ∉ (recordEvents c).map Field.key)
    (hh : f.key ∉ (haltFields c).map Field.key) : (dmaRecord c r s).get f = (channelFreed c (recordPut c r s)).get f := by
  rw [dmaRecord_eq, (keeps_recordHalt c r _).get hh, (keeps_recordTold c r _).get ht]

theorem get_channelFreed_ne {f : Field} {c : Nat} (hb : (Reg.DMA_CH_STATUS_BUSY c).key ≠ f.key) (hd : Reg.DMA_DESC_DONE_CNT.key ≠ f.key)
    (s : State) : (channelFreed c s).get f = s.get f := by
  rw [channelFreed, get_bump_ne hd, get_setF_ne _ _ _ _ hb]
  exact get_of_regs f rfl

theorem get_busy_dmaRecord (c : Nat) (r : DmaRun) (s : State) : (dmaRecord c r s).get (Reg.DMA_CH_STATUS_BUSY c) = 0 := by
  obtain ⟨ht, hh, hb, -, -, hd, -⟩ := recordKeys c
  rw [get_dmaRecord_of r s (by simp [ht, hb]; omega) (by simp [hh, hb]; omega), channelFreed, get_bump_ne (by omega), get_setF_zero]

theorem get_tail_dmaRecord (c : Nat) (r : DmaRun) (s : State) : (dmaRecord c r s).get (Reg.DMA_CH_CQ_TAIL_CQ_TAIL c)
    = (s.get (Reg.DMA_CH_CQ_TAIL_CQ_TAIL c) + 1) % s.chSize c % 2 ^ (Reg.DMA_CH_CQ_TAIL_CQ_TAIL c).width := by
  obtain ⟨ht, hh, hb, -, hq, hd, -⟩ := recordKeys c
  rw [get_dmaRecord_of r s (by simp [ht, hq]; omega) (by simp [hh, hq]; omega), get_channelFreed_ne (by omega) (by omega), get_recordPut,
    get_setF_self]

theorem get_count_dmaRecord (c : Nat) (r : DmaRun) (s : State) :
    (dmaRecord c r s).get Reg.DMA_DESC_DONE_CNT = (s.get Reg.DMA_DESC_DONE_CNT + 1) % 2 ^ 32 := by
  obtain ⟨ht, hh, hb, -, hq, hd, -⟩ := recordKeys c
  rw [get_dmaRecord_of r s (by simp [ht, hd]; omega) (by simp [hh, hd]; omega), channelFreed, get_bump_self, get_setF_ne _ _ _ _ (by omega)]
  refine congrArg (fun v => (v + 1) % 2 ^ 32) ((get_of_regs (s := recordPut c r s) _ rfl).trans ?_)
  rw [get_recordPut, get_setF_ne _ _ _ _ (by omega)]

theorem get_halted_dmaRecord (c : Nat) (r : DmaRun) (s : State) : (dmaRecord c r s).get (Reg.DMA_CH_STATUS_HALTED c)
    = if r.status = 0 then s.get (Reg.DMA_CH_STATUS_HALTED c) else 1 := by
  obtain ⟨ht, hh, hb, hs, hq, hd, -⟩ := recordKeys c
  have hcnt : Reg.DMA_HALT_CNT.key = 0x70044 * 32 := rfl
  have hev : Reg.DMA_EVENT_HALTED.key = 0x70010 * 32 + 1 := rfl
  rw [dmaRecord_eq, recordHalt, Machine.when]
  by_cases h : r.status = 0
  · rw [if_neg (by simp [h]), if_pos h, (keeps_recordTold c r _).get (by simp [ht, hs]; omega), get_channelFreed_ne (by omega) (by omega),
      get_recordPut, get_setF_ne _ _ _ _ (by omega)]
  · rw [if_pos (by simpa using h), if_neg h, get_event_ne (by omega) (by omega), get_setF_one rfl]

theorem get_enable_dmaRecord (c : Nat) (r : DmaRun) (s : State) : (dmaRecord c r s).get Reg.DMA_CTRL_ENABLE = s.get Reg.DMA_CTRL_ENABLE := by
  obtain ⟨ht, hh, hb, -, hq, hd, he⟩ := recordKeys c
  rw [get_dmaRecord_of r s (by simp [ht, he]; omega) (by simp [hh, he]; omega), get_channelFreed_ne (by omega) (by omega), get_recordPut,
    get_setF_ne _ _ _ _ (by omega)]

theorem length_leBytes (n v : Nat) : (leBytes n v).length = n := by
  induction n generalizing v with
  | zero => rfl
  | succ n ih => rw [leBytes, List.length_cons, ih]

theorem length_descRecord (c : Nat) (r : DmaRun) (s : State) : (descRecord c r s).length = 32 := by
  simp [descRecord, length_leBytes]

theorem descRecord_status (c : Nat) (r : DmaRun) (s : State) (h : 2 < (descRecord c r s).length) : (descRecord c r s)[2] = r.status := rfl

theorem exec_dmaDescriptorDone_of_ended {s : State} {c : Fin 16} {r : DmaRun} (h : s.dmaRun c.val = some r) (he : r.ended = true) :
    exec (.dmaDescriptorDone c) s = .next (dmaRecord c.val r s) := by
  rw [exec_dmaDescriptorDone, execDmaDescriptorDone, h]
  exact if_pos he

theorem dmaRun_dmaRecord_self (c : Nat) (r : DmaRun) (s : State) : (dmaRecord c r s).dmaRun c = none := by
  rw [State.dmaRun, dma_dmaRecord, Assoc.find_erase, if_pos rfl]

theorem dmaRecord_fields (c : Nat) (r : DmaRun) (s : State) :
    (dmaRecord c r s).dmaRun c = none ∧ (dmaRecord c r s).get (Reg.DMA_CH_STATUS_BUSY c) = 0
    ∧ (dmaRecord c r s).get (Reg.DMA_CH_STATUS_HALTED c) = (if r.status = 0 then s.get (Reg.DMA_CH_STATUS_HALTED c) else 1)
    ∧ (dmaRecord c r s).get Reg.DMA_DESC_DONE_CNT = (s.get Reg.DMA_DESC_DONE_CNT + 1) % 2 ^ 32
    ∧ (dmaRecord c r s).get (Reg.DMA_CH_CQ_TAIL_CQ_TAIL c)
      = (s.get (Reg.DMA_CH_CQ_TAIL_CQ_TAIL c) + 1) % s.chSize c % 2 ^ (Reg.DMA_CH_CQ_TAIL_CQ_TAIL c).width
    ∧ (dmaRecord c r s).readByte (recordAt c s + 2) = BitVec.ofNat 8 r.status
    ∧ ∀ a, a < recordAt c s ∨ recordAt c s + 32 ≤ a → (dmaRecord c r s).readByte a = s.readByte a := by
  have hlen := length_descRecord c r s
  refine ⟨dmaRun_dmaRecord_self c r s, get_busy_dmaRecord c r s, get_halted_dmaRecord c r s, get_count_dmaRecord c r s,
    get_tail_dmaRecord c r s, ?_, fun a ha => ?_⟩
  · rw [readByte_of_mem _ (mem_dmaRecord c r s), readByte_writeBytes_in _ _ _ _ (by rw [hlen]; decide), descRecord_status]
  · rw [readByte_of_mem _ (mem_dmaRecord c r s), readByte_writeBytes_out _ _ _ _ (by rw [hlen]; exact ha)]

/-! Resuming and stopping channels -/

/-- A channel resumed (R450). -/
def channelResumed (c : Nat) (s : State) : State := setF (Reg.DMA_CH_CTRL_RESUME c) 0 (setF (Reg.DMA_CH_STATUS_HALTED c) 0 s)

theorem channelResumed_fields (c : Nat) (i : Island) (s : State) :
    (channelResumed c (ungate i s)).get (Reg.DMA_CH_STATUS_HALTED c) = 0 ∧ (channelResumed c (ungate i s)).get (Reg.DMA_CH_CTRL_RESUME c) = 0
    ∧ (channelResumed c (ungate i s)).dma = s.dma
    ∧ Keeps [Reg.DMA_CH_STATUS_HALTED c, Reg.DMA_CH_CTRL_RESUME c] s (channelResumed c (ungate i s)) := by
  have hne : (Reg.DMA_CH_CTRL_RESUME c).key ≠ (Reg.DMA_CH_STATUS_HALTED c).key := by
    simp only [Field.key, Reg.DMA_CH_CTRL_RESUME, Reg.DMA_CH_STATUS_HALTED]
    omega
  refine ⟨?_, get_setF_zero _ _, rfl, Keeps.setF _ _ (by simp) (Keeps.setF _ _ (by simp) (Keeps.of_ungate (Keeps.refl _ _)))⟩
  rw [channelResumed, get_setF_ne _ _ _ _ hne, get_setF_zero]

theorem exec_dmaChannelDisable_of_idle {s : State} {c : Fin 16} (hl : s.lands (0x71000 + 0x40 * c.val) = true) (h : s.dmaRun c.val = none) :
    exec (.dmaChannelDisable (some c)) s
      = .next (setF (Reg.DMA_CH_CFG_ENABLE c.val) 0 (ungate (islandOf (0x71000 + 0x40 * c.val)) s)) := by
  rw [exec_dmaChannelDisable, execDmaChannelDisable, land_eq hl, dmaAbort,
    show (setF (Reg.DMA_CH_CFG_ENABLE c.val) 0 (ungate (islandOf (0x71000 + 0x40 * c.val)) s)).dmaRun c.val = none from h]

/-- Every channel stopped (R450). -/
def channelsStopped (s : State) : State := forEach (List.range 16) dmaAbort (setF Reg.DMA_CTRL_ENABLE 0 s)

theorem exec_dmaChannelDisable_all {s : State} (hl : s.lands 0x70000 = true) :
    exec (.dmaChannelDisable none) s = .next (channelsStopped (ungate (islandOf 0x70000) s)) :=
  exec_of_lands hl (exec_dmaChannelDisable s)

theorem dmaRun_dmaAbort_self (c : Nat) (s : State) : (dmaAbort c s).dmaRun c = none := by
  unfold dmaAbort
  cases h : s.dmaRun c with
  | none => exact h
  | some r => exact dmaRun_dmaRecord_self c _ s

theorem dmaRun_dmaAbort_of_none {c : Nat} {s : State} (h : s.dmaRun c = none) (k : Nat) : (dmaAbort k s).dmaRun c = none := by
  unfold dmaAbort
  cases hk : s.dmaRun k with
  | none => exact h
  | some r =>
    dsimp only
    rw [State.dmaRun, dma_dmaRecord, Assoc.find_erase]
    split_ifs with he
    · rfl
    · exact h

theorem get_enable_dmaAbort (c : Nat) (s : State) : (dmaAbort c s).get Reg.DMA_CTRL_ENABLE = s.get Reg.DMA_CTRL_ENABLE := by
  unfold dmaAbort
  split
  · rfl
  · exact get_enable_dmaRecord c _ s

theorem channelsStopped_fields (s : State) :
    (channelsStopped s).get Reg.DMA_CTRL_ENABLE = 0 ∧ ∀ c : Fin 16, (channelsStopped s).dmaRun c.val = none :=
  ⟨(get_forEach get_enable_dmaAbort _).trans (get_setF_zero _ _), fun c =>
    forEach_of_mem (Q := fun t => t.dmaRun c.val = none) (List.mem_range.mpr c.isLt) (dmaRun_dmaAbort_self c.val)
      (fun k _ _ h => dmaRun_dmaAbort_of_none h k) _⟩

/-- Settles O42, command by command. -/
theorem memoryAgentsComplete : Obligations.MemoryAgentsComplete := by
  unfold Obligations.MemoryAgentsComplete
  refine ⟨fun s core kind addr size value evict b h => ?fault, fun s core addr size x hr h1 hn hx => ?hit,
    fun s core off hlt h4 hw => ⟨?load, fun v => ?store⟩,
    fun s c host hr => ⟨fun hok hs hd => ?bad, fun hok hpl hop hm hs hd hsrc hdst hp => ?good⟩,
    fun s c r hr he => ?done, fun s c hl => ?resume, fun s c hl hr => ?disable, fun s hl => ?disableAll⟩
  case fault => exact .of_next (exec_coreAccess_of_fault h core value evict b) ⟨rfl, Keeps.of_eq (Keeps.refl [] s) rfl rfl⟩
  case hit => exact .of_next (exec_load_of_hit hr h1 hn hx) ⟨rfl, rfl, Keeps.of_eq (Keeps.refl [] s) rfl rfl⟩
  case load => exact .of_next (exec_load_of_regs hlt h4 hw) rfl
  case store => exact .of_next (exec_store_of_regs hlt h4 hw v) rfl
  case bad =>
    refine .of_next (exec_dmaDescriptor_of_bad hr hok hs hd host) ⟨?_, ?_, ?_, ?_⟩
    · rw [State.dmaRun, Assoc.find_set, if_pos rfl]
      rfl
    · exact (get_of_regs _ rfl).trans (get_busy_descTaken c.val s)
    · exact (get_of_regs _ rfl).trans (get_head_descTaken c.val s)
    · exact Keeps.of_eq (keeps_descTaken c.val s) rfl rfl
  case good =>
    exact .of_next (exec_dmaDescriptor_of_plain rfl hr hok hpl ⟨hop, hm, hs, hd, hsrc, hdst, hp⟩ host) (descCopied_fields c.val _ s)
  case done => exact .of_next (exec_dmaDescriptorDone_of_ended hr he) (dmaRecord_fields c.val r s)
  case resume => exact .of_next (exec_of_lands hl (exec_dmaResume s)) (channelResumed_fields c.val _ s)
  case disable =>
    exact .of_next (exec_dmaChannelDisable_of_idle hl hr) ⟨get_setF_zero _ _, Keeps.setF _ _ (by simp) (Keeps.of_ungate (Keeps.refl _ _))⟩
  case disableAll => exact .of_next (exec_dmaChannelDisable_all hl) (channelsStopped_fields _)

end Sys2Proof.Machine
end

section
/-! Dispatch, start and end of jobs (R84, R92 to R105): the obligation O43. -/

open Sys2Proof

namespace Sys2Proof.Machine

/-! What the triggers leave of the engines' registers -/

/-- The keys of every block but the engines'. -/
@[reducible] def offEngines (k : Nat) : Prop := k < 0x40000 * 32 ∨ 0x50000 * 32 ≤ k

/-- Every part of a state blanked: only its registers are spoken of. -/
@[reducible] def allMask (_ : State) : State := State.reset

theorem Within.offEngines {P : Nat → Prop} {m : State → State} {s t : State} (h : Within P m s t) (hP : ∀ {k}, P k → offEngines k) :
    Within offEngines allMask s t := h.mono hP fun _ => rfl

theorem offEngines_of_outer {k : Nat} (h : outerKey k) : offEngines k := by
  rcases h with h | h
  · exact .inl h.2
  · exact .inr (by omega)

theorem offEngines_of_deep {k : Nat} (h : deepKey k) : offEngines k := by
  rcases h with h | h | h | h | rfl
  · exact offEngines_of_outer h
  · exact .inr h.1
  · exact .inr (by omega)
  · exact .inr (by omega)
  · decide

theorem offEngines_of_edge {k : Nat} (h : edgeKey k) : offEngines k := by
  rcases h with rfl | h
  · decide
  · exact offEngines_of_outer h

theorem engines_toMode (m : Nat) (s : State) : Within offEngines allMask s (toMode m s) := (within_toMode m s).offEngines offEngines_of_edge

theorem engines_sendMir (k : MirKind) (args : List Nat) (s : State) : Within offEngines allMask s (sendMir k args s) :=
  (within_sendMir k args s).offEngines offEngines_of_deep

theorem engines_roleChanged (old reason : Nat) (s : State) : Within offEngines allMask s (roleChanged old reason s) :=
  (within_roleChanged old reason s).offEngines offEngines_of_outer

theorem engines_fanRelease (s : State) : Within offEngines allMask s (fanRelease s) :=
  (within_fanRelease s).offEngines fun h => offEngines_of_deep (deepKey_of_fan h)

theorem engines_setHold (b : Bool) (s : State) : Within offEngines allMask s (setHold b s) :=
  (within_setHold b s).offEngines fun h => by
    rcases h with rfl | h
    · decide
    · exact offEngines_of_outer h

theorem engines_setF {f : Field} (v : Nat) (hf : offEngines f.key) {s t : State} (h : Within offEngines allMask s t) :
    Within offEngines allMask s (setF f v t) := h.setF v hf rfl

theorem engines_parts {s t u : State} (h : Within offEngines allMask s t) (hr : u.regs = t.regs) : Within offEngines allMask s u :=
  h.parts hr rfl

theorem engines_finishRole (a : Nat) (s : State) : Within offEngines allMask s (finishRole a s) :=
  (within_finishRole a s).offEngines offEngines_of_outer

theorem engines_relinquish (reason : Nat) (s : State) : Within offEngines allMask s (relinquish reason s) := by
  unfold relinquish
  split_ifs
  · refine Within.trans ?_ (engines_roleChanged _ _ _)
    exact engines_setF _ (by decide) (engines_parts ((engines_setF _ (by decide) (.refl _ _ _)).trans (engines_sendMir _ _ _)) rfl)
  · exact .refl _ _ _

theorem engines_claimFans (s : State) : Within offEngines allMask s (claimFans s) := by
  unfold claimFans
  split_ifs
  · exact .refl _ _ _
  · exact engines_setF _ (by decide) (engines_setF _ (by decide) (.own rfl rfl))

theorem engines_serviceFans (live : Bool) (s : State) : Within offEngines allMask s (serviceFans live s) := by
  unfold serviceFans
  split_ifs
  · exact engines_fanRelease s
  · exact .refl _ _ _
  · exact engines_claimFans s

theorem engines_setOffset (b : Bool) (s : State) : Within offEngines allMask s (setOffset b s) :=
  engines_parts (engines_setF _ (by decide) (.refl _ _ _)) rfl

theorem engines_refused (s : State) :
    Within offEngines allMask s (finishWake St.notActive (finishPark St.notActive (refuseIo s))) :=
  ((within_refuseIo s).offEngines offEngines_of_outer).trans
    (((within_finishPark _ _).offEngines offEngines_of_outer).trans ((within_finishWake _ _).offEngines offEngines_of_outer))

/-- SERVICE entered and the role given up. -/
def serviceEntered (reason : Nat) (s : State) : State :=
  setF Reg.FOV_CTRL_STANDBY_ROLE 0 (setHold false (serviceFans (s.partnerLive && s.active) (toMode Mode.service (relinquish reason s))))

theorem engines_serviceEntered (reason : Nat) (s : State) : Within offEngines allMask s (serviceEntered reason s) := by
  unfold serviceEntered
  exact engines_setF 0 (by decide)
    ((((engines_relinquish reason s).trans (engines_toMode _ _)).trans (engines_serviceFans _ _)).trans (engines_setHold _ _))

/-- What a handover or HOLD under way left. -/
def handoverCleared (s : State) : State :=
  { s with
    sys := { s.sys with servicePending := false }
    fov := { s.fov with holdCause := 0, handover := 0, handoverDue := false, toService := false, fetchStopped := false } }

/-- A replay due where the module holds intents or lines of its partner (R30). -/
def replayDue (s : State) : State :=
  when (s.jnl.lines.any (fun l => l.2.mirrored) || s.jnl.intents.any (fun p => !s.ownIntent p.1)) (setF Reg.JNL_CTRL_REPLAY_DONE 0) s

theorem engines_replayDue (s : State) : Within offEngines allMask s (replayDue s) := .when (.refl _ _ _) (engines_setF 0 (by decide) (.refl _ _ _))

theorem enterService_eq (reason : Nat) (s : State) : enterService reason s = finishRole 2 (finishWake St.notActive (finishPark St.notActive
    (refuseIo (when (s.partnerLive && s.active) abortMembers (replayDue (handoverCleared
      (roleChanged s.role reason (serviceEntered reason s)))))))) := by
  unfold enterService replayDue handoverCleared serviceEntered
  with_reducible rfl

theorem engines_enterService (reason : Nat) (s : State) : Within offEngines allMask s (enterService reason s) := by
  have habort (u : State) : Within offEngines allMask u (when (s.partnerLive && s.active) abortMembers u) :=
    .when (.refl _ _ _) ((within_abortMembers _).offEngines offEngines_of_deep)
  have hclear (u : State) : Within offEngines allMask u (handoverCleared u) := .own rfl rfl
  rw [enterService_eq]
  refine Within.trans ?_ ((engines_refused _).trans (engines_finishRole _ _))
  exact (((engines_serviceEntered reason s).trans (engines_roleChanged _ _ _)).trans (hclear _)).trans ((engines_replayDue _).trans (habort _))

theorem engines_standbyBegun (s : State) : Within offEngines allMask s (standbyBegun s) := by
  unfold standbyBegun
  exact ((engines_toMode _ s).trans (engines_fanRelease _)).trans (engines_setOffset _ _)

theorem engines_enterStandby (s : State) : Within offEngines allMask s (enterStandby s) :=
  ((engines_standbyBegun s).trans ((within_abortMembers _).offEngines offEngines_of_deep)).trans
    ((within_enterStandby s).offEngines offEngines_of_outer)

theorem engines_persists (reason : Nat) (s : State) :
    Within offEngines allMask s { s with fov := { s.fov with persists := addOnce s.fov.persists reason } } := .own rfl rfl

theorem engines_faultStandby (reason : Nat) (s : State) : Within offEngines allMask s (faultStandby reason s) := by
  unfold faultStandby
  exact ((engines_persists reason s).trans (engines_relinquish reason _)).trans (engines_enterStandby _)

theorem offEngines_of_takeover {k : Nat} (h : takeoverKey k) : offEngines k := by
  have hlist : ∀ k ∈ [Reg.PWR_CTRL_CONV_EN, Reg.PWR_STATUS_CONV_STATE, Reg.PWR_BUDGET_GRANT_W, Reg.FOV_CTRL_HOLD,
    Reg.FAN_CTRL_FIXED_EN].map Field.key, offEngines k := by decide
  rcases h with h | h | h
  · exact offEngines_of_outer h
  · exact .inr (by omega)
  · exact hlist k h

theorem engines_takeoverRaised (s : State) : Within offEngines allMask s (takeoverRaised s) := by
  unfold takeoverRaised claimLines
  refine Within.trans (Within.trans ?_ (engines_claimFans _)) (engines_setOffset _ _)
  exact engines_setF _ (by decide) (engines_setF _ (by decide) (engines_setF _ (by decide) (engines_setF _ (by decide) (engines_toMode _ s))))

theorem engines_enterTakeover (s : State) : Within offEngines allMask s (enterTakeover s) :=
  (engines_takeoverRaised s).trans ((within_enterTakeover s).offEngines offEngines_of_takeover)

theorem engines_enterHold (cause : Nat) (s : State) : Within offEngines allMask s (enterHold cause s) :=
  (within_enterHold cause s).offEngines offEngines_of_takeover

theorem engines_abandonHandover (cause : Nat) (s : State) : Within offEngines allMask s (abandonHandover cause s) := by
  unfold abandonHandover
  split
  · exact .refl _ _ _
  · refine ((Within.trans ?_ (engines_finishRole 1 _)).trans (engines_finishRole 2 _)).trans (engines_finishRole 5 _)
    split_ifs
    · exact (engines_setOffset false s).trans (.own rfl rfl)
    · exact (engines_setOffset true s).trans (.own rfl rfl)

theorem engines_takeFault (r : Nat) (s : State) : Within offEngines allMask s (takeFault r s) := by
  unfold takeFault
  refine (engines_abandonHandover 2 s).trans ?_
  dsimp only
  split_ifs
  · exact engines_enterService r _
  · exact engines_enterService r _
  · exact .refl _ _ _
  · exact engines_faultStandby r _
  · exact .refl _ _ _
  · exact engines_enterHold 1 _
  · exact engines_enterService r _

theorem engines_beginHandover (s : State) : Within offEngines allMask s (beginHandover s) := by
  unfold beginHandover
  exact (engines_parts (.refl _ _ s) rfl).trans (engines_sendMir _ _ _)

theorem engines_enterDraining (s : State) : Within offEngines allMask s (enterDraining s) := by
  have htest : Within offEngines allMask s (if s.cmd.testRunning = 2 then endTest 3 0 s else s) := by
    split_ifs
    · exact (within_endTest 3 0 s).offEngines offEngines_of_outer
    · exact .refl _ _ _
  unfold enterDraining demand
  exact engines_parts (htest.trans (engines_toMode _ _)) rfl

theorem engines_leaveParked (s : State) : Within offEngines allMask s (leaveParked s) := by
  unfold leaveParked
  refine engines_parts (Within.when (engines_setF _ (by decide) (Within.trans ?_ (engines_toMode _ _))) (engines_setF _ (by decide) (.refl _ _ _))) rfl
  exact .when (.refl _ _ _) (engines_setF _ (by decide) (.refl _ _ _))

theorem engines_startWake (s : State) : Within offEngines allMask s (startWake s) := by
  unfold startWake askTokens
  dsimp only
  split_ifs
  · exact (engines_parts (.refl _ _ s) rfl).trans (engines_leaveParked _)
  · exact engines_parts (.refl _ _ s) rfl
  all_goals exact (engines_parts (.refl _ _ s) rfl).trans ((within_askBellwether _ _ _).offEngines offEngines_of_outer)

theorem engines_settleOnce (s : State) : Within offEngines allMask s (settleOnce s) := by
  have hdrop (l : List Nat) : Within offEngines allMask s { s with fov := { s.fov with faults := l } } := .own rfl rfl
  unfold settleOnce
  split
  · split_ifs
    · exact (hdrop _).trans (engines_takeFault _ _)
    · exact engines_enterTakeover s
    · exact .refl _ _ _
  · split_ifs
    · exact engines_enterService 0 s
    · exact engines_enterTakeover s
    · exact engines_beginHandover s
    · exact engines_enterDraining s
    · exact engines_startWake s
    · exact engines_enterService 10 s
    · exact .refl _ _ _

/-- Settling leaves every register of the engines' block. -/
theorem get_settle_engines {f : Field} (hf : ¬ offEngines f.key) (s : State) : (settle s).get f = s.get f :=
  (((engines_settleOnce s).trans (engines_settleOnce _)).trans (engines_settleOnce _)).get hf

/-! The refutation -/

/-- How the three runs of a job ended: no two of them agree. -/
def runShowing (d : Nat) : RunEnd := ⟨0, 0, 0, [d]⟩

/-- A job whose runs on engines 0 and 1 disagree, with the third run on an engine whose state field is that of OXE_SHADOW_TRANSIENT_CNT. -/
def threeWayJob : Job :=
  { ring := 2, owner := .firmware, op := 1, field16 := false, shadowForce := false, shadowNever := false, irq := false, fence := false, tag := 0,
    slot := 0, array := 0, row := 0, len := 1, phase := 0, pairs := 0, srcs := [], dsts := [], outRow := [0], shadowed := true,
    engine := some 0, shadow := some 1, arbiter := some 88, ended := [(0, runShowing 1), (1, runShowing 2), (2, runShowing 3)] }

/-- Both engines have passed their tests; the third run's has a strike of the same day. -/
def threeWay : State :=
  { State.reset with oxe := { State.reset.oxe with
    arbitrating := [0], jobs := [(0, threeWayJob)],
    engines := [(0, { testPassed := some true }), (1, { testPassed := some true }), (88, { strikes := [0] })] } }

theorem exec_threeWay : ∃ u, exec (.shadowArbitrationDone 0 1) threeWay = .next (settle u) ∧ u.get Reg.OXE_SHADOW_TRANSIENT_CNT = 5 := by
  rw [exec_shadowArbitrationDone]
  exact ⟨_, rfl, by decide +kernel⟩

/-- Refutes O43: where no two of three runs agree, the third run's engine is struck too (R105), and the state of an engine 88 would be shown in
OXE_SHADOW_TRANSIENT_CNT itself, so that its retirement overwrites the counter. -/
theorem not_jobCommandsComplete : ¬ Obligations.JobCommandsComplete := by
  unfold Obligations.JobCommandsComplete
  rintro ⟨-, -, -, -, h, -⟩
  obtain ⟨u, hu, h5⟩ := exec_threeWay
  obtain ⟨t, ht, -, hcnt, -⟩ := h threeWay 0 threeWayJob 0 1 (runShowing 1) (runShowing 2) (runShowing 3) true true rfl (by decide) rfl rfl rfl
    rfl rfl rfl rfl rfl
  have hsettle : settle t = settle u := by
    rw [ht] at hu
    injection hu
  have hsame : t.get Reg.OXE_SHADOW_TRANSIENT_CNT = u.get Reg.OXE_SHADOW_TRANSIENT_CNT := by
    rw [← get_settle_engines (by decide) t, hsettle, get_settle_engines (by decide) u]
  have hone : (threeWay.get Reg.OXE_SHADOW_TRANSIENT_CNT + 1) % 2 ^ 32 = 1 := by decide
  rw [(hcnt rfl rfl).1, hone, h5] at hsame
  exact absurd hsame (by decide)

end Sys2Proof.Machine
end

section
/-! FABRIC_CONTROL (R262, R396, R404, R411 to R415): the obligation O44. -/

open Sys2Proof

namespace Sys2Proof.Machine

/-! What reading a buffer, and sending, leave -/

/-- Reading a command's buffer only sends requests out. -/
theorem fromHost_out (e : Entry) (s : State) : ∃ o, fromHost e s = { s with out := o } :=
  ⟨(fromHost e s).out, by
    have hmask : ({ fromHost e s with out := [] } : State) = { s with out := [] } :=
      view_fromHost (fun t => ({ t with out := [] } : State)) (fun _ _ => rfl) e s
    exact congrArg (fun t => ({ t with out := (fromHost e s).out } : State)) hmask⟩

/-- A view that neither what goes out nor the ports' queues change is that of the state before a frame was sent. -/
theorem view_sendFrame {α : Type} (v : State → α) (hv : ∀ w, v (sendMask w) = v w) (k : FabKind) (dst x : Nat) (payload : List Nat) (s : State) :
    v (sendFrame k dst x payload s) = v s := (sends_sendFrame k dst x payload s).within.view v hv

theorem view_floodFrame {α : Type} (v : State → α) (hv : ∀ w, v (sendMask w) = v w) (k : FabKind) (but : Option Nat) (payload : List Nat)
    (s : State) : v (floodFrame k but payload s) = v s := (sends_floodFrame k but payload s).within.view v hv

theorem view_askMembers {α : Type} (v : State → α) (hv : ∀ w, v (sendMask w) = v w) (g : FlockGroup) (idx : List Nat) (lba : Nat) (s : State) :
    v (askMembers g idx lba s) = v s :=
  view_forEach v (fun i t => by
    split
    · exact view_sendFrame v hv _ _ _ _ t
    · rfl) s

theorem view_askTokens {α : Type} (v : State → α) (hv : ∀ w, v (sendMask w) = v w) (a b c : Nat) (s : State) : v (askTokens a b c s) = v s :=
  (sends_askBellwether _ _ s).within.view v hv

/-! A buffer read -/

theorem fabBuffer_of_good {n need : Nat} {c : Cmd} {s : State} (hb : s.bufferOk c.e (bufferLen c.e) = true) (hmax : bufferLen c.e ≤ 4096)
    (hn : need ≤ bufferLen c.e) (k : State → State) : fabBuffer n c need k s = k (fromHost c.e s) := by
  rw [fabBuffer]
  exact if_neg (by simp [hb]; omega)

/-- A command of the bellwether, noted as waiting. -/
def bellAsked (n code : Nat) (s : State) : State :=
  onCmd n (fun x => { x with begun := true }) { s with fab := { s.fab with cmds := s.fab.cmds ++ [(n, code)] } }

theorem fab_bellAsked (n code : Nat) (s : State) : (bellAsked n code s).fab = { s.fab with cmds := s.fab.cmds ++ [(n, code)] } :=
  onCmd_view State.fab (fun _ _ => rfl) _ _ _

theorem ownUid_bellAsked (n code : Nat) (s : State) : (bellAsked n code s).ownUid = s.ownUid := onCmd_view State.ownUid (fun _ _ => rfl) _ _ _

theorem atBellwether_here {b : Nat} {s : State} (hb : s.fab.bellwether = some b) (ha : s.ownAddr?.isSome = true) (hr : s.reach b = true)
    (hh : s.isBellwether = true) (n code : Nat) (here : State → State) (msg : BudgetMsg) :
    atBellwether n code here msg s = here (bellAsked n code s) := by
  have hnone : s.ownAddr?.isNone = false := by rw [← Option.not_isSome, ha]; rfl
  rw [atBellwether, hb]
  simp only [hnone, hr, Bool.not_true, Bool.or_self, Bool.false_eq_true, if_false]
  exact if_pos hh

theorem atBellwether_of_none {s : State} (hb : s.fab.bellwether = none) (n code : Nat) (here : State → State) (msg : BudgetMsg) :
    atBellwether n code here msg s = fabRefuse n 1 s := by
  rw [atBellwether, hb]

/-- A budget that the host sets here (R395). -/
def budgetSet (n : Nat) (buffer : List Nat) (s : State) : State :=
  publishBudget (fun b => { b with budgetW := bufField buffer 0 4, isolatedW := bufField buffer 4 4 }) (bellAsked n 1 s)

theorem budgetSet_fields (n : Nat) (buffer : List Nat) (s : State) {t : State} (h : t = budgetSet n buffer s) :
    t.fab.budgetW = bufField buffer 0 4 ∧ t.fab.isolatedW = bufField buffer 4 4 ∧ t.fab.version = s.fab.version + 1
    ∧ t.fab.versionUid = s.ownUid ∧ (n, 1) ∈ t.fab.cmds := by
  have hrecord : t.fab.record = (bufField buffer 0 4, bufField buffer 4 4, s.fab.nReg, s.fab.version + 1, s.ownUid) := by
    rw [h, budgetSet, fab_publishBudget FabPart.record fun _ => rfl, fab_bellAsked, ownUid_bellAsked]
    rfl
  have hcmds : t.fab.cmds = s.fab.cmds ++ [(n, 1)] := by
    rw [h, budgetSet, fab_publishBudget FabPart.cmds fun _ => rfl, fab_bellAsked]
  simp only [FabPart.record, Prod.mk.injEq] at hrecord
  obtain ⟨hw, hi, -, hv, hu⟩ := hrecord
  exact ⟨hw, hi, hv, hu, by rw [hcmds]; exact List.mem_append_right _ (List.mem_singleton_self _)⟩

/-- A node that the host has forgotten here (R396). -/
def nodeDropped (n : Nat) (buffer : List Nat) (s : State) : State := forgetNode (bufField buffer 0 8) (bellAsked n 7 s)

theorem nodeDropped_fields {n : Nat} {buffer : List Nat} {s : State} (hin : bufField buffer 0 8 ∈ s.fab.registered) {t : State}
    (h : t = nodeDropped n buffer s) :
    t.fab.registered = remove s.fab.registered (bufField buffer 0 8) ∧ t.fab.nReg = s.fab.nReg - 1
    ∧ t.fab.version = s.fab.version + 1 ∧ (n, 7) ∈ t.fab.cmds := by
  have hcontains : (bellAsked n 7 s).fab.registered.contains (bufField buffer 0 8) = true := by
    rw [fab_bellAsked]
    simpa using hin
  have ht : t = publishBudget (fun b => { b with nReg := b.nReg - 1, registered := remove b.registered (bufField buffer 0 8) }) (bellAsked n 7 s) := by
    rw [h, nodeDropped, forgetNode, hcontains]
    rfl
  rw [ht]
  refine ⟨?_, ?_, ?_, ?_⟩
  · rw [fab_publishBudget FabPart.registered fun _ => rfl, fab_bellAsked]
  · rw [fab_publishBudget FabPart.nReg fun _ => rfl, fab_bellAsked]
  · rw [fab_publishBudget FabPart.version fun _ => rfl, fab_bellAsked]
  · rw [fab_publishBudget FabPart.cmds fun _ => rfl, fab_bellAsked]
    exact List.mem_append_right _ (List.mem_singleton_self _)

section Commands
variable {s : State} {n : Nat} {c : Cmd} {buffer : List Nat} (h : MayRun s n c) (hq : c.e.qid = 0) (ho : adminOf c.e = some .fabricControl)
  (hb : s.bufferOk c.e (bufferLen c.e) = true) (hmax : bufferLen c.e ≤ 4096) (h16 : 16 ≤ bufferLen c.e)
include h hq ho hb hmax h16

theorem exec_setBudget_of_bellwether {b : Nat} (hc : fabCode c.e = 1) (hw : s.fab.bellwether = some b) (ha : s.ownAddr?.isSome = true)
    (hr : s.reach b = true) (hh : s.isBellwether = true) :
    exec (.setBudget c.e.cid buffer) s = .next (after (finishBudget (budgetSet n buffer (fromHost c.e s)))) := by
  obtain ⟨o, hout⟩ := fromHost_out c.e s
  refine (exec_setBudget s).trans ((h.runAdmin_eq hq ho (by simp [hc]) _).trans ?_)
  simp only [hc, ne_eq, not_true_eq_false, if_false]
  rw [fabBuffer_of_good hb hmax h16, hout, atBellwether_here (s := { s with out := o }) hw ha hr hh, budgetSet]

theorem exec_setBudget_alone (hc : fabCode c.e = 1) (hw : s.fab.bellwether = none) :
    exec (.setBudget c.e.cid buffer) s = .next (after (finish n St.invalidField 256 (fromHost c.e s))) := by
  obtain ⟨o, hout⟩ := fromHost_out c.e s
  refine (exec_setBudget s).trans ((h.runAdmin_eq hq ho (by simp [hc]) _).trans ?_)
  simp only [hc, ne_eq, not_true_eq_false, if_false]
  rw [fabBuffer_of_good hb hmax h16, hout, atBellwether_of_none (s := { s with out := o }) hw, fabRefuse, refuse]

theorem exec_forgetNode_of_bellwether {b : Nat} (hc : fabCode c.e = 7) (hw : s.fab.bellwether = some b) (ha : s.ownAddr?.isSome = true)
    (hr : s.reach b = true) (hh : s.isBellwether = true) :
    exec (.forgetNode c.e.cid buffer) s = .next (after (finishForget (nodeDropped n buffer (fromHost c.e s)))) := by
  obtain ⟨o, hout⟩ := fromHost_out c.e s
  refine (exec_forgetNode s).trans ((h.runAdmin_eq hq ho (by simp [hc]) _).trans ?_)
  simp only []
  rw [fabBuffer_of_good hb hmax h16, hout, atBellwether_here (s := { s with out := o }) hw ha hr hh, nodeDropped]

theorem exec_setEligibility_of_good (hc : fabCode c.e = 2) :
    exec (.setEligibility c.e.cid buffer) s = .next (after (finish n St.success 0 (fabRefresh { fromHost c.e s with fab := { s.fab with
      rootElig := buffer.getD 0 0 != 0, bwElig := buffer.getD 1 0 != 0, bwPrio := buffer.getD 2 0 } }))) := by
  obtain ⟨o, hout⟩ := fromHost_out c.e s
  refine (exec_setEligibility s).trans ((h.runAdmin_eq hq ho (by simp [hc]) _).trans ?_)
  rw [fabBuffer_of_good hb hmax h16, hout]

theorem exec_wakeNode_of_reached (hc : fabCode c.e = 8) (ha : s.ownAddr?.isSome = true) (hr : s.reach (bufField buffer 0 2) = true) :
    exec (.wakeNode c.e.cid buffer) s
      = .next (after (finish n St.success 0 (sendFrame .wakeReq (bufField buffer 0 2) 0 [] (fromHost c.e s)))) := by
  obtain ⟨o, hout⟩ := fromHost_out c.e s
  have hnone : ({ s with out := o } : State).ownAddr?.isNone = false := by
    rw [← Option.not_isSome]
    exact congrArg not ha
  have hreach : ({ s with out := o } : State).reach (bufField buffer 0 2) = true := hr
  refine (exec_wakeNode s).trans ((h.runAdmin_eq hq ho (by simp [hc]) _).trans ?_)
  simp only []
  rw [fabBuffer_of_good hb hmax h16, hout, hnone, hreach]
  rfl

end Commands

/-! Groups -/

theorem fab_hostEvent (v : Nat) (s : State) : (hostEvent v s).fab = s.fab := (within_hostEvent v s).view State.fab fun _ => rfl

theorem group?_congr {s t : State} (h : t.fab.groups = s.fab.groups) (id : Nat) : t.group? id = s.group? id := by
  rw [State.group?, h, State.group?]

theorem group?_onGroup {id : Nat} {f : FlockGroup → FlockGroup} (hf : ∀ g, (f g).id = g.id) (s : State) :
    (onGroup id f s).group? id = (s.group? id).map f := by
  have hlist (l : List FlockGroup) : (l.map (fun g => if g.id = id then f g else g)).find? (fun g => g.id == id)
      = (l.find? (fun g => g.id == id)).map f := by
    induction l with
    | nil => rfl
    | cons g l ih =>
      by_cases h : g.id = id
      · rw [List.map_cons, if_pos h, List.find?_cons_of_pos (by simp [hf, h]), List.find?_cons_of_pos (by simp [h])]
        rfl
      · rw [List.map_cons, if_neg h, List.find?_cons_of_neg (by simp [h]), List.find?_cons_of_neg (by simp [h]), ih]
  exact hlist s.fab.groups

theorem groups_removeGroup {id : Nat} {g : FlockGroup} {s : State} (h : s.group? id = some g) :
    ∃ l : List FlockGroup, (removeGroup id s).fab.groups = l.filter (fun x => x.id != id) := by
  rw [removeGroup, h]
  exact ⟨_, congrArg FabPart.groups (fab_hostEvent 4 _)⟩

/-- A removed group is no longer there. -/
theorem group?_removeGroup {id : Nat} {g : FlockGroup} {s : State} (h : s.group? id = some g) : (removeGroup id s).group? id = none := by
  obtain ⟨l, hl⟩ := groups_removeGroup h
  rw [State.group?, hl, List.find?_eq_none]
  intro x hx
  have hne := (List.mem_filter.mp hx).2
  simpa using hne

theorem groups_askChunk (id f : Nat) (s : State) : (askChunk id f s).fab.groups = s.fab.groups := by
  unfold askChunk
  split
  · rfl
  · exact view_askMembers (fun t => t.fab.groups) (fun _ => rfl) _ _ _ _

/-- A resync stands at block 0. -/
theorem front_resyncGroup {id : Nat} {g : FlockGroup} {s : State} (h : s.group? id = some g) :
    ((resyncGroup id s).group? id).map (·.front) = some (some 0) := by
  have hmoved : (onGroup id (fun x => { x with front := some 0 }) s).group? id = some { g with front := some 0 } := by
    rw [group?_onGroup (f := fun x => { x with front := some 0 }) (fun _ => rfl), h]
    rfl
  have hgroups : (resyncGroup id s).fab.groups = (onGroup id (fun x => { x with front := some 0 }) s).fab.groups := by
    rw [resyncGroup, h]
    dsimp only
    split_ifs
    · exact (view_askTokens (fun t => t.fab.groups) (fun _ => rfl) _ _ _ _).trans (groups_askChunk _ _ _)
    · exact groups_askChunk _ _ _
  rw [group?_congr hgroups, hmoved]
  rfl

/-- A recovery begun. -/
def recoverAsked (n id member target : Nat) (g : FlockGroup) (s : State) : State :=
  askMembers g (recoverFrom g member) 0 (setGather { group := id, lba := 0, recover := some (n, member, target) }
    (onCmd n (fun x => { x with begun := true }) s))

theorem beginRecover_of_ready {n id member target : Nat} {g : FlockGroup} {s : State} (hc : s.on Reg.SYS_STRAP_COMPAT = false)
    (hg : s.group? id = some g) (hm : member < g.members.length) (hs : g.stale = false) (ht : target < 64) (hv : s.volValid target = true)
    (hf : (s.volMeta target).flock = none) (hr : ∀ i ∈ recoverFrom g member, s.uidReached (memberAt g i).1 = true) :
    beginRecover n id member target s = recoverAsked n id member target g s := by
  have hall : (recoverFrom g member).all (fun i => s.uidReached (memberAt g i).1) = true := List.all_eq_true.mpr hr
  rw [beginRecover, hg]
  simp only [hc, hm.not_ge, hs, ht, hv, hf, hall, decide_true, Bool.and_self, Bool.not_true, Option.isSome_none, Bool.or_self,
    Bool.false_eq_true, if_false]
  rw [recoverAsked]

theorem recoverAsked_fields {n id member target : Nat} {g : FlockGroup} {s : State} {c : Cmd} (hg : s.fab.gathers = []) (hc : s.cmd? n = some c)
    {t : State} (h : t = recoverAsked n id member target g s) :
    (t.cmd? n).map (·.begun) = some true ∧ t.fab.gathers = [{ group := id, lba := 0, recover := some (n, member, target) }] := by
  have hq : t.qmx = (onCmd n (fun x => { x with begun := true }) s).qmx := by
    rw [h]
    exact view_askMembers State.qmx (fun _ => rfl) _ _ _ _
  have hgathers : t.fab.gathers = (setGather { group := id, lba := 0, recover := some (n, member, target) }
      (onCmd n (fun x => { x with begun := true }) s)).fab.gathers := by
    rw [h]
    exact view_askMembers (fun u => u.fab.gathers) (fun _ => rfl) _ _ _ _
  refine ⟨?_, ?_⟩
  · rw [State.cmd?, hq, ← State.cmd?, cmd?_onCmd_self hc]
    rfl
  · have hnone : (onCmd n (fun x => { x with begun := true }) s).fab.gathers = [] :=
      (congrArg FabPart.gathers (onCmd_view State.fab (fun _ _ => rfl) n _ s)).trans hg
    rw [hgathers, setGather, hnone]
    rfl

/-- A group created, its record on its way to its members. -/
def groupMade (n : Nat) (g : FlockGroup) (s : State) : State :=
  let u := onCmd n (fun x => { x with begun := true }) (storeGroup g s)
  forEach g.members (fun m v => match v.nodeAddr m.1 with
    | some a => sendFrame .group a 0 ([0, g.id, g.parity.1, g.parity.2] ++ g.members.flatMap (fun x => [x.1, x.2])) v
    | none => v)
    { u with fab := { u.fab with cmds := u.fab.cmds ++ [(n, 3 + 16 * g.id)], storing := Assoc.set u.fab.storing g.id (g.members.map Prod.fst) } }

theorem view_groupMade {α : Type} (v : State → α) (hv : ∀ w, v (sendMask w) = v w) (n : Nat) (g : FlockGroup) (s : State) {u : State}
    (hu : u = onCmd n (fun x => { x with begun := true }) (storeGroup g s)) : v (groupMade n g s) = v { u with fab := { u.fab with
      cmds := u.fab.cmds ++ [(n, 3 + 16 * g.id)], storing := Assoc.set u.fab.storing g.id (g.members.map Prod.fst) } } := by
  rw [hu]
  exact view_forEach v (fun m t => by
    split
    · exact view_sendFrame v hv _ _ _ _ t
    · rfl) _

theorem groups_storeGroup (g : FlockGroup) (s : State) :
    ∃ l : List FlockGroup, (storeGroup g s).fab.groups = l.filter (fun x => x.id != g.id) ++ [g] :=
  ⟨_, congrArg FabPart.groups (fab_hostEvent 4 _)⟩

theorem cmds_storeGroup (g : FlockGroup) (s : State) : (storeGroup g s).qmx = s.qmx :=
  ((within_hostEvent 4 _).view State.qmx fun _ => rfl).trans (view_forEach
    (g := fun m : Nat × Nat => onVolMeta m.2 (fun v => { v with flock := some g.id, parity := m == g.parity })) State.qmx (fun _ _ => rfl) s)

theorem groupMade_fields {n : Nat} {g : FlockGroup} {s : State} {c : Cmd} (hc : s.cmd? n = some c) {t : State} (h : t = groupMade n g s) :
    t.group? g.id = some g ∧ (t.cmd? n).map (·.begun) = some true ∧ Assoc.find t.fab.storing g.id = some (g.members.map Prod.fst) := by
  obtain ⟨u, hu⟩ : ∃ u, u = onCmd n (fun x => { x with begun := true }) (storeGroup g s) := ⟨_, rfl⟩
  have hfound : (storeGroup g s).cmd? n = some c := by rw [State.cmd?, cmds_storeGroup]; exact hc
  rw [h]
  refine ⟨?_, ?_, ?_⟩
  · obtain ⟨l, hl⟩ := groups_storeGroup g s
    have hgroups : u.fab.groups = l.filter (fun x => x.id != g.id) ++ [g] := by
      rw [hu, onCmd_view State.fab (fun _ _ => rfl), hl]
    have hnone : (l.filter (fun x => x.id != g.id)).find? (fun x => x.id == g.id) = none := List.find?_eq_none.mpr fun x hx => by
      simpa using (List.mem_filter.mp hx).2
    rw [group?_congr (view_groupMade (fun t => t.fab.groups) (fun _ => rfl) n g s hu)]
    show u.fab.groups.find? (fun x => x.id == g.id) = some g
    rw [hgroups, List.find?_append, hnone, Option.none_or, List.find?_cons_of_pos (by simp)]
  · have hcmd : (groupMade n g s).cmd? n = u.cmd? n := view_groupMade (State.cmd? · n) (fun _ => rfl) n g s hu
    rw [hcmd, hu, cmd?_onCmd_self hfound]
    rfl
  · refine (view_groupMade (fun t => Assoc.find t.fab.storing g.id) (fun _ => rfl) n g s hu).trans ?_
    show Assoc.find (Assoc.set u.fab.storing g.id (g.members.map Prod.fst)) g.id = _
    rw [Assoc.find_set, if_pos rfl]

section GroupCommands
variable {s : State} {n : Nat} {c : Cmd} {buffer : List Nat} (h : MayRun s n c) (hq : c.e.qid = 0) (ho : adminOf c.e = some .fabricControl)
  (hb : s.bufferOk c.e (bufferLen c.e) = true) (hmax : bufferLen c.e ≤ 4096)
include h hq ho hb hmax

theorem exec_groupDelete_of_known (h16 : 16 ≤ bufferLen c.e) {g : FlockGroup} (hc : fabCode c.e = 4) (hcompat : s.on Reg.SYS_STRAP_COMPAT = false)
    (hg : s.group? (bufField buffer 0 8) = some g) :
    exec (.groupDelete c.e.cid buffer) s = .next (after (finish n St.success 0
      (floodFrame .group none [1, bufField buffer 0 8] (removeGroup (bufField buffer 0 8) (fromHost c.e s))))) := by
  obtain ⟨o, hout⟩ := fromHost_out c.e s
  have hon : ({ s with out := o } : State).on Reg.SYS_STRAP_COMPAT = false := hcompat
  have hgroup : ({ s with out := o } : State).group? (bufField buffer 0 8) = some g := hg
  refine (exec_groupDelete s).trans ((h.runAdmin_eq hq ho (by simp [hc]) _).trans ?_)
  simp only []
  rw [fabBuffer_of_good hb hmax h16, hout, hon, hgroup]
  rfl

theorem exec_groupResync_of_reached (h16 : 16 ≤ bufferLen c.e) {g : FlockGroup} (hc : fabCode c.e = 5)
    (hcompat : s.on Reg.SYS_STRAP_COMPAT = false) (hg : s.group? (bufField buffer 0 8) = some g) (hp : g.parity.1 = s.ownUid)
    (hr : s.allReached g = true) :
    exec (.groupResync c.e.cid buffer) s = .next (after (finish n St.success 0
      (if g.stale && g.front.isNone then resyncGroup (bufField buffer 0 8) (fromHost c.e s) else fromHost c.e s))) := by
  obtain ⟨o, hout⟩ := fromHost_out c.e s
  have hon : ({ s with out := o } : State).on Reg.SYS_STRAP_COMPAT = false := hcompat
  have hgroup : ({ s with out := o } : State).group? (bufField buffer 0 8) = some g := hg
  have hown : g.parity.1 = ({ s with out := o } : State).ownUid := hp
  have hall : ({ s with out := o } : State).allReached g = true := hr
  refine (exec_groupResync s).trans ((h.runAdmin_eq hq ho (by simp [hc]) _).trans ?_)
  simp only []
  rw [fabBuffer_of_good hb hmax h16, hout, hgroup]
  simp only [hon, hall, Bool.false_eq_true, if_false, Bool.not_true]
  rw [if_neg (not_not.mpr hown)]

theorem exec_groupRecover_of_ready (h16 : 16 ≤ bufferLen c.e) {g : FlockGroup} (hc : fabCode c.e = 6)
    (hcompat : s.on Reg.SYS_STRAP_COMPAT = false) (hnone : s.fab.gathers = []) (hg : s.group? (bufField buffer 0 8) = some g)
    (hm : buffer.getD 8 0 < g.members.length) (hs : g.stale = false) (ht : buffer.getD 9 0 < 64) (hv : s.volValid (buffer.getD 9 0) = true)
    (hf : (s.volMeta (buffer.getD 9 0)).flock = none)
    (hr : ∀ i ∈ recoverFrom g (buffer.getD 8 0), s.uidReached (memberAt g i).1 = true) :
    exec (.groupRecover c.e.cid buffer) s
      = .next (after (recoverAsked n (bufField buffer 0 8) (buffer.getD 8 0) (buffer.getD 9 0) g (fromHost c.e s))) := by
  obtain ⟨o, hout⟩ := fromHost_out c.e s
  have hbegin := beginRecover_of_ready (n := n) (s := { s with out := o }) hcompat hg hm hs ht hv hf hr
  rw [exec_groupRecover, execGroupRecover]
  simp only [hnone, List.findSome?_nil]
  rw [h.runAdmin_eq hq ho (by simp [hc]), fabBuffer_of_good hb hmax h16, hout, hbegin]

theorem exec_groupCreate_of_accepted {facts : List VolFacts} {g : FlockGroup} (hc : fabCode c.e = 3)
    (hlen : 32 + 16 * buffer.getD 8 0 ≤ bufferLen c.e)
    (hg : g = { id := bufField buffer 0 8, parity := (bufField buffer 16 8, buffer.getD 24 0),
                members := (List.range (buffer.getD 8 0)).map (fun i => (bufField buffer (32 + 16 * i) 8, buffer.getD (40 + 16 * i) 0)) })
    (hr : s.groupRefusal g.id g.parity g.members facts = none) :
    exec (.groupCreate c.e.cid buffer facts) s = .next (after (groupMade n g (fromHost c.e s))) := by
  obtain ⟨o, hout⟩ := fromHost_out c.e s
  have hmembers : (List.range (buffer.getD 8 0)).map (fun i => (bufField buffer (32 + 16 * i) 8, buffer.getD (32 + 16 * i + 8) 0)) = g.members := by
    rw [hg]
    exact List.map_congr_left fun i _ => by rw [Nat.add_right_comm]
  have hrefusal : ({ s with out := o } : State).groupRefusal g.id g.parity g.members facts = none := hr
  have hid : bufField buffer 0 8 = g.id := by rw [hg]
  have hnode : bufField buffer 16 8 = g.parity.1 := by rw [hg]
  have hvol : buffer.getD (16 + 8) 0 = g.parity.2 := by rw [hg]
  have hwhole : ({ id := g.id, parity := g.parity, members := g.members } : FlockGroup) = g := by rw [hg]
  refine (exec_groupCreate s).trans ((h.runAdmin_eq hq ho (by simp [hc]) _).trans ?_)
  simp only [hmembers, hid, hnode, hvol, Prod.mk.eta]
  rw [fabBuffer_of_good hb hmax hlen, hout, hrefusal]
  simp only [groupMade, hwhole] <;> rfl

theorem exec_groupCreate_of_refused {facts : List VolFacts} {r : Nat} (hc : fabCode c.e = 3)
    (hlen : 32 + 16 * buffer.getD 8 0 ≤ bufferLen c.e)
    (hr : s.groupRefusal (bufField buffer 0 8) (bufField buffer 16 8, buffer.getD 24 0)
      ((List.range (buffer.getD 8 0)).map (fun i => (bufField buffer (32 + 16 * i) 8, buffer.getD (40 + 16 * i) 0))) facts = some r) :
    exec (.groupCreate c.e.cid buffer facts) s = .next (after (finish n St.invalidField (r * 256) (fromHost c.e s))) := by
  obtain ⟨o, hout⟩ := fromHost_out c.e s
  have hmembers : (List.range (buffer.getD 8 0)).map (fun i => (bufField buffer (32 + 16 * i) 8, buffer.getD (32 + 16 * i + 8) 0))
      = (List.range (buffer.getD 8 0)).map (fun i => (bufField buffer (32 + 16 * i) 8, buffer.getD (40 + 16 * i) 0)) :=
    List.map_congr_left fun i _ => by rw [Nat.add_right_comm]
  have hrefusal : ({ s with out := o } : State).groupRefusal (bufField buffer 0 8) (bufField buffer 16 8, buffer.getD (16 + 8) 0)
      ((List.range (buffer.getD 8 0)).map (fun i => (bufField buffer (32 + 16 * i) 8, buffer.getD (40 + 16 * i) 0))) facts = some r := hr
  refine (exec_groupCreate s).trans ((h.runAdmin_eq hq ho (by simp [hc]) _).trans ?_)
  simp only [hmembers]
  rw [fabBuffer_of_good hb hmax hlen, hout, hrefusal]
  rfl

end GroupCommands

/-- Settles O44, sub-operation by sub-operation. -/
theorem fabricControlCompletes : Obligations.FabricControlCompletes := by
  unfold Obligations.FabricControlCompletes
  intro s n c buffer hrun hq ho hb hmax
  have h := mayRun_iff hrun
  obtain ⟨o, hout⟩ := fromHost_out c.e s
  have hfound : (fromHost c.e s).cmd? n = some c := by rw [hout]; exact h.found
  have hgroup {id : Nat} {g : FlockGroup} (hg : s.group? id = some g) : (fromHost c.e s).group? id = some g := by rw [hout]; exact hg
  refine ⟨fun h16 => ⟨fun b hc hw ha hr hh => ?set, fun hc hw => ?alone, fun hc => ?eligible, fun g hc hk hg => ?delete,
      fun g hc hk hg hp hr => ⟨fun hs => ?current, fun hs hf => ?resync⟩, fun g hc hk hgathers hg hm hs ht hv hf hr => ?recover,
      fun b hc hw ha hr hh hin => ?forget, fun hc ha hr => ?wake⟩,
    fun facts members hc hlen hm => ⟨fun hr => ?create, fun r hr => ?refused⟩⟩
  case set =>
    refine .of_next (g := fun t => after (finishBudget t)) (exec_setBudget_of_bellwether h hq ho hb hmax h16 hc hw ha hr hh) ?_
    obtain ⟨h1, h2, h3, h4, h5⟩ := budgetSet_fields n buffer (fromHost c.e s) rfl
    rw [hout] at h3 h4
    exact ⟨h1, h2, by rw [hout]; exact h3, by rw [hout]; exact h4, h5⟩
  case alone => exact .of_next (exec_setBudget_alone h hq ho hb hmax h16 hc hw) rfl
  case eligible => exact .of_next (exec_setEligibility_of_good h hq ho hb hmax h16 hc) rfl
  case delete =>
    refine .of_next (exec_groupDelete_of_known h hq ho hb hmax h16 hc hk hg) ⟨?_, rfl⟩
    rw [group?_congr (view_floodFrame (fun t => t.fab.groups) (fun _ => rfl) _ _ _ _), group?_removeGroup (hgroup hg)]
  case current =>
    exact .of_next ((exec_groupResync_of_reached h hq ho hb hmax h16 hc hk hg hp hr).trans (by simp [hs])) rfl
  case resync =>
    exact .of_next ((exec_groupResync_of_reached h hq ho hb hmax h16 hc hk hg hp hr).trans (by simp [hs, hf]))
      ⟨front_resyncGroup (hgroup hg), rfl⟩
  case recover =>
    exact .of_next (exec_groupRecover_of_ready h hq ho hb hmax h16 hc hk hgathers hg hm hs ht hv hf hr)
      (recoverAsked_fields (by rw [hout]; exact hgathers) hfound rfl)
  case forget =>
    refine .of_next (g := fun t => after (finishForget t)) (exec_forgetNode_of_bellwether h hq ho hb hmax h16 hc hw ha hr hh) ?_
    have hfields := nodeDropped_fields (n := n) (s := fromHost c.e s) (buffer := buffer) (by rw [hout]; exact hin) rfl
    obtain ⟨h1, h2, h3, h4⟩ := hfields
    rw [hout] at h1 h2 h3
    exact ⟨by rw [hout]; exact h1, by rw [hout]; exact h2, by rw [hout]; exact h3, h4⟩
  case wake => exact .of_next (exec_wakeNode_of_reached h hq ho hb hmax h16 hc ha hr) rfl
  case create =>
    subst hm
    exact .of_next (exec_groupCreate_of_accepted h hq ho hb hmax hc hlen rfl hr) (groupMade_fields hfound rfl)
  case refused =>
    subst hm
    exact .of_next (exec_groupCreate_of_refused h hq ho hb hmax hc hlen hr) rfl

end Sys2Proof.Machine
end

section
/-! COPY, and copies between shelves (R266, R402, R403): the obligation O45. -/

open Sys2Proof

namespace Sys2Proof.Machine

/-- A message that is heard ends in what the firmware makes of it, in a state that its arrival changes in the ring and the ports alone. -/
theorem endsBy_of_delivered {c : Instr} {s : State} {p : Fin 4} {f : Frame} {k : State → State} {P : State → Prop}
    (hh : s.hears p = true) (hexec : exec c s = arrive (some p) f k s) (hP : ∀ d, Within hearKey hearMask s d → P (k d)) :
    EndsBy after c s P := .of_next (g := after) (hexec.trans (arrive_of_hears hh f k)) (hP _ (within_delivered p f s))

section Heard
variable {s d : State} (w : Within hearKey hearMask s d)
include w

theorem Within.heardFab {α : Type} (v : FabPart → α) (hv : ∀ b : FabPart, v { b with ports := [] } = v b) : v d.fab = v s.fab :=
  w.view (fun t => v t.fab) fun t => hv t.fab

theorem Within.heardMode : d.mode = s.mode := w.get (not_hearKey (.inl (by decide)))

theorem Within.heardCmd (n : Nat) : d.cmd? n = s.cmd? n := w.view (State.cmd? · n) fun _ => rfl

end Heard

/-! The host's command -/

theorem copyFound {s : State} {n : Nat} {c : Cmd} (hs : s.qmx.cmds = [(n, c)]) (hq : c.e.qid ≠ 0) (ho : c.e.opcode = 0x25)
    (hf : c.final = false) :
    s.qmx.cmds.find? (fun x => x.2.e.qid == c.e.qid && c.e.qid != 0 && x.2.e.cid == c.e.cid && x.2.e.opcode == 0x25 && !x.2.final) = some (n, c) := by
  rw [hs]
  exact List.find?_cons_of_pos (by simp [hq, ho, hf])

theorem exec_copy_of_new {s : State} {n : Nat} {c : Cmd} (hs : s.qmx.cmds = [(n, c)]) (h : MayRun s n c) (hq : c.e.qid ≠ 0)
    (ho : c.e.opcode = 0x25) (hf : c.final = false) (bad : List Nat) (partner : List (Nat × (Block × Nat))) :
    exec (.copy c.e.qid c.e.cid bad partner) s = .next (after (match s.copyCheck c.e with
      | some st => finish n st 0 s
      | none => splitPieces n (onCmd n (fun x => { x with begun := true }) s))) := by
  rw [exec_copy, execCopy, copyFound hs hq ho hf]
  simp only [h.not_begun, Bool.false_eq_true, if_false, h.screen_eq, h.found, h.may, Bool.not_true] <;> rfl

theorem copyNext_of_read {s : State} {n : Nat} {c : Cmd} (hs : s.qmx.cmds = [(n, c)]) (hp : c.pieces = 0) (hn : s.fab.copies = [])
    (hr : copyRemote c.e = false) (hb : ∀ b ∈ c.buf, b.2.bad = false) (partner : List (Nat × (Block × Nat))) :
    copyNext n c [] partner s = copyRow n c s := by
  have hgood : c.buf.filter (fun b => b.2.bad || ([] : List Nat).contains b.1) = [] :=
    List.filter_eq_nil_iff.mpr fun b hm => by simp [hb b hm]
  have hfound : s.cmd? n = some c := by rw [State.cmd?, hs]; simp [Assoc.find]
  have hnone : (if c.next = 0 then (c.buf.filter (fun b => b.2.bad || ([] : List Nat).contains b.1)).map Prod.fst else []) = [] := by
    rw [hgood]
    split_ifs <;> rfl
  rw [copyNext, if_neg (not_not.mpr hp), hn]
  simp only [List.find?_nil, hnone, Machine.forEach, List.foldl_nil, hfound, hp, hr, ne_eq, not_true_eq_false, if_false, Bool.false_eq_true]

theorem exec_copy_of_read {s : State} {n : Nat} {c : Cmd} (hs : s.qmx.cmds = [(n, c)]) (hq : c.e.qid ≠ 0) (ho : c.e.opcode = 0x25)
    (hf : c.final = false) (hbegun : c.begun = true) (hp : c.pieces = 0) (hn : s.fab.copies = []) (hr : copyRemote c.e = false)
    (hb : ∀ b ∈ c.buf, b.2.bad = false) (partner : List (Nat × (Block × Nat))) :
    exec (.copy c.e.qid c.e.cid [] partner) s = .next (after (copyRow n c s)) := by
  rw [exec_copy, execCopy, copyFound hs hq ho hf]
  simp only [hbegun, if_true, copyNext_of_read hs hp hn hr hb]

/-! At the destination -/

/-- A batch opened. -/
def batchOpened (b : CopyIn) (s : State) : State := { s with fab := { s.fab with batches := s.fab.batches ++ [b] } }

theorem fabricWake_of_serving {s : State} (h : s.mode = Mode.serving) : fabricWake s = s := by
  rw [fabricWake, if_neg fun k => absurd (h.symm.trans k.1) (by decide), if_neg fun k => absurd (h.symm.trans k) (by decide)]

theorem turnsAway_of_serving {s : State} (h : s.mode = Mode.serving) : s.turnsAway = false := by
  simp only [State.turnsAway, State.modeIn, h]
  rfl

theorem turnsAway_of_standby {s : State} (h : s.mode = Mode.standby) : s.turnsAway = true := by
  simp only [State.turnsAway, State.modeIn, h]
  rfl

theorem batches_sendCopyAck (dst id batch st level : Nat) (s : State) : (sendCopyAck dst id batch st level s).fab.batches = s.fab.batches :=
  view_sendFrame (fun t => t.fab.batches) (fun _ => rfl) _ _ _ _ _

theorem commitBatch_of_partial {b : CopyIn} (h : b.blocks.length ≠ b.nblk) (s : State) : commitBatch b s = s := if_pos (.inl h)

/-! At the source -/

theorem copies_onCopy {x : CopyOut} {s : State} (h : s.fab.copies = [x]) (f : CopyOut → CopyOut) : (onCopy x.id f s).fab.copies = [f x] := by
  show s.fab.copies.map (fun y => if y.id = x.id then f y else y) = [f x]
  rw [h, List.map_singleton, if_pos rfl]

theorem copySend_of_waiting {s : State} {x : CopyOut} {c : Cmd} (h : s.fab.copies = [x]) (hc : s.cmd? x.cmd = some c) (hn : c.usable ≤ x.next)
    (ho : x.out ≠ []) (k : Nat) : copySend x.id k s = s := by
  cases k with
  | zero => rfl
  | succ k =>
    have hfind : s.fab.copies.find? (fun y => y.id == x.id) = some x := by rw [h]; exact List.find?_cons_of_pos (by simp)
    rw [copySend, hfind]
    simp only [hc, hn.not_gt, if_false, List.isEmpty_iff, ho]

/-- A COPY with a batch acknowledged. -/
def ackTaken (batch level : Nat) (y : CopyOut) : CopyOut := { y with out := Assoc.erase y.out batch, level := max y.level level }

theorem copyAcked_of_success {s : State} {x : CopyOut} {c : Cmd} {batch : Nat} (h : s.fab.copies = [x]) (hc : s.cmd? x.cmd = some c)
    (hn : c.usable ≤ x.next) (ho : Assoc.erase x.out batch ≠ []) (b : CopyBatch) (level : Nat) :
    copyAcked x c batch b St.success level s = onCopy x.id (ackTaken batch level) s := by
  rw [copyAcked, if_neg (by decide), if_pos rfl]
  exact copySend_of_waiting (x := ackTaken batch level x) (copies_onCopy h _) hc hn ho 17

/-- A batch sent again. -/
def batchAgain (x : CopyOut) (c : Cmd) (batch : Nat) (b : CopyBatch) (s : State) : State :=
  sendBatch x c batch b (onCopy x.id (fun y => { y with out := Assoc.set y.out batch { b with sends := b.sends + 1 } }) s)

theorem view_sendBatch {α : Type} (v : State → α) (hv : ∀ w, v (sendMask w) = v w) (x : CopyOut) (c : Cmd) (batch : Nat) (b : CopyBatch)
    (s : State) : v (sendBatch x c batch b s) = v s := by
  unfold sendBatch
  exact (view_forEach v (fun _ t => view_sendFrame v hv _ _ _ _ t) _).trans (view_sendFrame v hv _ _ _ _ s)

theorem exec_copyBatchTimeout_of_known {s : State} {x : CopyOut} {c : Cmd} {batch : Nat} {b : CopyBatch} (h : s.fab.copies = [x])
    (hc : s.cmd? x.cmd = some c) (hb : Assoc.find x.out batch = some b) (hw : s.destWaits x.addr = false) :
    exec (.copyBatchTimeout x.id batch) s
      = if 5 ≤ b.sends then .next (after (endCopy x St.arrayOffline 0 s)) else .next (batchAgain x c batch b s) := by
  have hfind : s.fab.copies.find? (fun y => y.id == x.id) = some x := by rw [h]; exact List.find?_cons_of_pos (by simp)
  rw [exec_copyBatchTimeout, execCopyBatchTimeout, hfind]
  simp only [hc, hb, hw, and_true, Bool.false_eq_true, if_false]
  rw [batchAgain]

theorem exec_copyWakeTimeout_of_waiting {s : State} {x : CopyOut} {c : Cmd} (hs : s.qmx.cmds = [(x.cmd, c)]) (h : s.fab.copies = [x])
    (ho : x.out ≠ []) : exec (.copyWakeTimeout c.e.qid c.e.cid) s = .next (after (endCopy x St.budgetDenied 0 s)) := by
  have hcmd : s.cmdOf c.e.qid c.e.cid = some (x.cmd, c) := by
    rw [State.cmdOf, hs]
    exact List.find?_cons_of_pos (by simp)
  have hfind : s.fab.copies.find? (fun y => y.cmd == x.cmd) = some x := by rw [h]; exact List.find?_cons_of_pos (by simp)
  rw [exec_copyWakeTimeout, execCopyWakeTimeout, hcmd]
  simp only [hfind, List.isEmpty_iff, ho, if_false]

/-- Settles O45, command by command. -/
theorem copyCommandsComplete : Obligations.CopyCommandsComplete := by
  unfold Obligations.CopyCommandsComplete
  refine ⟨fun s n c bad partner hs hrun hq ho hf => ⟨fun hc => ?begin, fun st hc => ?refuse⟩,
    fun s n c partner hs hq ho hf hb hp hn hr hg => .of_next (exec_copy_of_read hs hq ho hf hb hp hn hr hg partner) rfl,
    fun s p src batch id lba vol nblkM1 pi crcs guards hh hd => ⟨fun hm hb => ?opened, fun hm => ?turned⟩,
    fun s p idx data b hh hb hi => ⟨fun hc hl => ?landed, fun hc => ?bad⟩,
    fun s p x c batch level b hh hx hc hb hn ho => ?acked,
    fun s x c batch b hx hc hb hw => ⟨fun h5 => ?resent, fun h5 => ?ended⟩,
    fun s x c hs hx ho => .of_next (exec_copyWakeTimeout_of_waiting hs hx ho) rfl⟩
  case begin => exact .of_next ((exec_copy_of_new hs (mayRun_iff hrun) hq ho hf bad partner).trans (by rw [hc])) rfl
  case refuse => exact .of_next (g := fun t => after (finish n st 0 t)) ((exec_copy_of_new hs (mayRun_iff hrun) hq ho hf bad partner).trans (by rw [hc])) rfl
  case opened =>
    refine endsBy_of_delivered hh (by rw [exec_copyDesc]; rfl) fun d w => ?_
    have hmode : d.mode = Mode.serving := w.heardMode.trans hm
    have hdone : d.fab.doneBatches = [] := (w.heardFab FabPart.doneBatches fun _ => rfl).trans hd
    have hnone : d.fab.batches = [] := (w.heardFab FabPart.batches fun _ => rfl).trans hb
    simp only [hdone, List.find?_nil, turnsAway_of_serving hmode, Bool.false_eq_true, if_false, hnone, List.any_nil]
    rw [fabricWake_of_serving]
    · rfl
    · exact hmode
  case turned =>
    refine endsBy_of_delivered hh (by rw [exec_copyDesc]; rfl) fun d w => ?_
    have hdone : d.fab.doneBatches = [] := (w.heardFab FabPart.doneBatches fun _ => rfl).trans hd
    simp only [hdone, List.find?_nil, turnsAway_of_standby (w.heardMode.trans hm), if_true]
    rw [batches_sendCopyAck, w.heardFab FabPart.batches fun _ => rfl]
  case landed =>
    refine endsBy_of_delivered hh (by rw [exec_copyData]; rfl) fun d w => ?_
    have hone : d.fab.batches = [b] := (w.heardFab FabPart.batches fun _ => rfl).trans hb
    have hfind : d.fab.batches.find? (fun x => x.src == b.src && x.batch == b.batch) = some b := by
      rw [hone]
      exact List.find?_cons_of_pos (by simp)
    simp only [hfind, hi.not_ge, hc, ne_eq, not_true_eq_false, if_false]
    rw [commitBatch_of_partial hl]
    show d.fab.batches.map (fun x => if x = b then _ else x) = _
    rw [hone, List.map_singleton, if_pos rfl]
  case bad =>
    refine endsBy_of_delivered hh (by rw [exec_copyData]; rfl) fun d w => ?_
    have hone : d.fab.batches = [b] := (w.heardFab FabPart.batches fun _ => rfl).trans hb
    have hfind : d.fab.batches.find? (fun x => x.src == b.src && x.batch == b.batch) = some b := by
      rw [hone]
      exact List.find?_cons_of_pos (by simp)
    simp only [hfind, hi.not_ge, hc, ne_eq, not_false_eq_true, if_false, if_true]
    rw [batches_sendCopyAck]
    show d.fab.batches.erase b = []
    rw [hone, List.erase_cons_head]
  case acked =>
    refine endsBy_of_delivered hh (by rw [exec_copyAck]; rfl) fun d w => ?_
    have hone : d.fab.copies = [x] := (w.heardFab FabPart.copies fun _ => rfl).trans hx
    have hcmd : d.cmd? x.cmd = some c := (w.heardCmd _).trans hc
    have hfind : d.fab.copies.find? (fun y => y.id == x.id) = some x := by rw [hone]; exact List.find?_cons_of_pos (by simp)
    simp only [hfind, hcmd, hb]
    rw [copyAcked_of_success hone hcmd hn ho, copies_onCopy hone, ackTaken]
  case resent =>
    refine .of_next ((exec_copyBatchTimeout_of_known hx hc hb hw).trans (if_neg h5.not_ge)) ⟨?_, fun a => ?_⟩
    · exact (view_sendBatch (fun t => t.fab.copies) (fun _ => rfl) _ _ _ _ _).trans (copies_onCopy hx _)
    · exact readByte_of_mem a (view_sendBatch State.mem (fun _ => rfl) _ _ _ _ _)
  case ended => exact .of_next ((exec_copyBatchTimeout_of_known hx hc hb hw).trans (if_pos h5)) rfl

end Sys2Proof.Machine
end

section
/-! Flock parity groups (R404 to R413): the obligation O46. -/

open Sys2Proof

namespace Sys2Proof.Machine

/-- A message that is heard ends in what the firmware makes of it and the work that follows. -/
theorem endsBy_of_delivered_then {g : State → State} {c : Instr} {s : State} {p : Fin 4} {f : Frame} {k : State → State} {P : State → Prop}
    (hh : s.hears p = true) (hexec : exec c s = arrive (some p) f (fun t => g (k t)) s) (hP : ∀ d, Within hearKey hearMask s d → P (k d)) :
    EndsBy (fun t => after (g t)) c s P :=
  .of_next (g := fun t => after (g t)) (hexec.trans (arrive_of_hears hh f _)) (hP _ (within_delivered p f s))

section Heard
variable {s d : State} (w : Within hearKey hearMask s d)
include w

theorem Within.heardGroups : d.fab.groups = s.fab.groups := w.heardFab FabPart.groups fun _ => rfl

theorem Within.heardUid : d.ownUid = s.ownUid := by
  have hget {g : Field} (hg : g ∈ [Reg.FAB_UID_LO_UID, Reg.FAB_UID_HI_UID]) : d.get g = s.get g :=
    w.get (not_hearKey (.inl ((by decide : ∀ f ∈ [Reg.FAB_UID_LO_UID, Reg.FAB_UID_HI_UID],
      f.key < 0x100200 * 32 ∧ f.key ∉ rxFields.map Field.key) _ hg)))
  rw [State.ownUid, State.get64, hget (by simp), hget (by simp)]
  rfl

end Heard

/-! The group of a node that holds one -/

theorem group?_of_one {s : State} {g : FlockGroup} (h : s.fab.groups = [g]) : s.group? g.id = some g := by
  rw [State.group?, h]
  exact List.find?_cons_of_pos (by simp)

theorem groups_onGroup_of_one {s : State} {g : FlockGroup} (h : s.fab.groups = [g]) (f : FlockGroup → FlockGroup) :
    (onGroup g.id f s).fab.groups = [f g] := by
  show s.fab.groups.map (fun x => if x.id = g.id then f x else x) = [f g]
  rw [h, List.map_singleton, if_pos rfl]

theorem groups_hostEvent (v : Nat) (s : State) : (hostEvent v s).fab.groups = s.fab.groups := congrArg FabPart.groups (fab_hostEvent v s)

theorem groups_floodFrame (k : FabKind) (but : Option Nat) (payload : List Nat) (s : State) :
    (floodFrame k but payload s).fab.groups = s.fab.groups := view_floodFrame (fun t => t.fab.groups) (fun _ => rfl) _ _ _ _

theorem groups_voidRecords (which : Delta → Bool) (s : State) : (voidRecords which s).fab.groups = s.fab.groups :=
  view_forEach (g := fun d t => writeBytes (logPage d.place) (((t.deltaHead d).take 60).set 4 2 ++ leBytes 4 (crc32c (((t.deltaHead d).take 60).set 4 2))) t)
    (fun t => t.fab.groups) (fun _ t => writeBytes_view (fun t => t.fab.groups) (fun _ _ => rfl) _ _ t) s

theorem groups_markStale {s : State} {g : FlockGroup} (h : s.fab.groups = [g]) :
    (markStale g.id s).fab.groups = [{ g with stale := true, front := none }] := by
  rw [markStale, groups_hostEvent, groups_floodFrame, groups_voidRecords]
  exact groups_onGroup_of_one h fun g => { g with stale := true, front := none }

theorem groups_removeGroup_of_one {s : State} {g : FlockGroup} (h : s.fab.groups = [g]) : (removeGroup g.id s).fab.groups = [] := by
  have hvols (l : List (Nat × Nat)) : (forEach l (fun m => onVolMeta m.2 (fun v => { v with flock := none, parity := false })) s).fab.groups
      = s.fab.groups := view_forEach (g := fun m : Nat × Nat => onVolMeta m.2 (fun v => { v with flock := none, parity := false }))
        (fun t => t.fab.groups) (fun _ _ => rfl) s
  rw [removeGroup, group?_of_one h]
  dsimp only
  rw [groups_hostEvent]
  dsimp only
  rw [groups_voidRecords, hvols, h]
  exact List.filter_cons_of_neg (by simp)

/-! Resync -/

theorem gathers_askMembers (g : FlockGroup) (idx : List Nat) (lba : Nat) (s : State) : (askMembers g idx lba s).fab.gathers = s.fab.gathers :=
  view_askMembers (fun t => t.fab.gathers) (fun _ => rfl) g idx lba s

theorem exec_flockResyncChunk_of_idle {s : State} {g : FlockGroup} (h : s.fab.groups = [g]) (hp : g.parity.1 = s.ownUid) (hs : g.stale = true)
    (hf : g.front = none) (hr : s.allReached g = true) : exec (.flockResyncChunk g.id) s = .next (after (resyncGroup g.id s)) := by
  rw [exec_flockResyncChunk, execFlockResyncChunk, group?_of_one h]
  simp only [hp, hs, hf, hr, ne_eq, not_true_eq_false, Bool.true_eq_false, or_self, if_false, if_true]

/-- A chunk written, the frontier past it. -/
def chunkWritten (g : FlockGroup) (f : Nat) (x : Gather) (s : State) : State :=
  floodFrame .group none [3, g.id, f + 64]
    (onGroup g.id (fun y => { y with front := some (f + 64) }) (commitRows g.parity.2 64 f (x.sum 64) s))

theorem exec_flockResyncChunk_of_chunk {s : State} {g : FlockGroup} {x : Gather} {f : Nat} (h : s.fab.groups = [g]) (hp : g.parity.1 = s.ownUid)
    (hs : g.stale = true) (hf : g.front = some f) (hx : s.fab.gathers = [x]) (hg : x.group = g.id) (hn : x.recover = none)
    (hall : ∀ i, i < g.members.length → (Assoc.find x.got i).isSome = true) (ha : s.admits g.parity.2 64 = true)
    (hw : s.writeRefused g.parity.2 f 64 = false) (hend : f + 64 < s.volBlocks g.parity.2) :
    exec (.flockResyncChunk g.id) s = .next (after (askChunk g.id (f + 64) (chunkWritten g f x s))) := by
  have hfind : s.fab.gathers.find? (fun y => y.group == g.id && y.recover.isNone) = some x := by
    rw [hx]
    exact List.find?_cons_of_pos (by simp [hg, hn])
  have hgot : (List.range g.members.length).all (fun i => (Assoc.find x.got i).isSome) = true :=
    List.all_eq_true.mpr fun i hi => hall i (List.mem_range.mp hi)
  have h64 : min 64 (s.volBlocks g.parity.2 - f) = 64 := Nat.min_eq_left (by omega)
  rw [exec_flockResyncChunk, execFlockResyncChunk, group?_of_one h]
  simp only [hp, hs, hf, hfind, hgot, h64, ha, hw, hend.not_ge, ne_eq, not_true_eq_false, Bool.true_eq_false, Bool.not_true, Bool.or_self,
    Bool.false_eq_true, or_self, if_false]
  rw [chunkWritten]

/-! Deltas acknowledged -/

theorem mem_dropWhile_of_neg {α : Type} {p : α → Bool} {l : List α} {a : α} (ha : a ∈ l) (hp : p a = false) : a ∈ l.dropWhile p := by
  induction l with
  | nil => cases ha
  | cons b l ih =>
    rw [List.dropWhile_cons]
    split_ifs with hb
    · rcases List.mem_cons.mp ha with rfl | hm
      · rw [hp] at hb
        cases hb
      · exact ih hm
    · exact ha

/-- A record that an acknowledgement frees. -/
def ackedBy (group member dseq : Nat) (d : Delta) : Bool := d.group == group && d.member == member && decide (d.dseq ≤ dseq)

/-- The log with the records of an acknowledgement freed. -/
def acksTaken (group member dseq : Nat) (l : List Delta) : List Delta :=
  (l.map (fun d => if ackedBy group member dseq d then { d with freed := true } else d)).dropWhile (fun d => d.freed)

theorem ackedBy_iff {group member dseq : Nat} {d : Delta} :
    ackedBy group member dseq d = true ↔ d.group = group ∧ d.member = member ∧ d.dseq ≤ dseq := by
  simp [ackedBy, and_assoc]

theorem acksTaken_fields (group member dseq : Nat) (l : List Delta) {r : List Delta} (h : r = acksTaken group member dseq l) :
    (∀ d ∈ r, d.group = group → d.member = member → d.dseq ≤ dseq → d.freed = true)
    ∧ (∀ d ∈ l, d.freed = false → ¬(d.group = group ∧ d.member = member ∧ d.dseq ≤ dseq) → d ∈ r)
    ∧ (∀ d, r.head? = some d → d.freed = false) := by
  rw [h]
  refine ⟨fun d hd hg hm hs => ?_, fun d hd hf hn => ?_, fun d hd => ?_⟩
  · obtain ⟨e, -, rfl⟩ := List.mem_map.mp ((List.dropWhile_sublist _).subset hd)
    by_cases ha : ackedBy group member dseq e = true
    · rw [if_pos ha]
    · rw [if_neg ha] at hg hm hs
      exact absurd (ackedBy_iff.mpr ⟨hg, hm, hs⟩) ha
  · exact mem_dropWhile_of_neg (List.mem_map.mpr ⟨d, hd, if_neg fun ha => hn (ackedBy_iff.mp ha)⟩) hf
  · have := List.head?_dropWhile_not (fun d : Delta => d.freed) (l.map (fun d => if ackedBy group member dseq d then { d with freed := true } else d))
    rw [acksTaken] at hd
    rw [hd] at this
    simpa using this

/-- What an acknowledgement leaves, before what waited for room goes on. -/
def ackHeard (group member dseq : Nat) (t : State) : State :=
  let t1 : State := { t with fab := { t.fab with deltas := acksTaken group member dseq t.fab.deltas } }
  match t1.group? group with
  | some g => onNode g.parity.1 (fun n => { n with mode := Mode.serving }) t1
  | none => t1

theorem deltas_ackHeard (group member dseq : Nat) (t : State) :
    (ackHeard group member dseq t).fab.deltas = acksTaken group member dseq t.fab.deltas := by
  unfold ackHeard
  dsimp only
  split <;> rfl

theorem exec_groupStaleTimer_of_cut {s : State} {g : FlockGroup} {d : Delta} (h : s.fab.groups = [g]) (hd : d ∈ s.fab.deltas)
    (hg : d.group = g.id) (hf : d.freed = false) (hs : g.stale = false) (hr : s.uidReached g.parity.1 = false) :
    exec (.groupStaleTimer g.id) s = .next (after (retryIntents (markStale g.id s))) := by
  have hany : s.fab.deltas.any (fun d => d.group == g.id && !d.freed) = true := List.any_eq_true.mpr ⟨d, hd, by simp [hg, hf]⟩
  rw [exec_groupStaleTimer, execGroupStaleTimer, group?_of_one h]
  simp only [hany, hs, hr, Bool.not_false, Bool.true_and, Bool.true_or, if_true]

/-! A read for a resync, and what a read brings -/

/-- A chunk gated. -/
def chunkGated (group lba : Nat) (s : State) : State :=
  { s with fab := { s.fab with gates := s.fab.gates.filter (fun x => x.1 != group) ++ [(group, lba)] } }

theorem view_sendBlocks {α β : Type} (v : State → α) (hv : ∀ w, v (sendMask w) = v w) (k : FabKind) (dst : Nat) (payload : β → List Nat)
    (l : List β) (s : State) : v (forEach l (fun b u => sendFrame k dst 0 (payload b) u) s) = v s :=
  view_forEach v (fun _ u => view_sendFrame v hv _ _ _ _ u) s

theorem endsBy_peerRead {s : State} {p : Fin 4} {g : FlockGroup} {src member lba nblk : Nat} {data : List Block} (hh : s.hears p = true)
    (hg : s.fab.groups = [g]) (hm : (memberAt g member).1 = s.ownUid) (hu : s.jnl.updates = []) :
    EndsBy after (.peerRead (some p) src g.id member lba nblk data) s fun t => (g.id, lba) ∈ t.fab.gates ∧ t.fab.groups = [g] := by
  refine endsBy_of_delivered hh (by rw [exec_peerRead]; rfl) fun d w => ?_
  have hone : d.fab.groups = [g] := w.heardGroups.trans hg
  have hown : (memberAt g member).1 = d.ownUid := hm.trans w.heardUid.symm
  have hnone : (chunkGated g.id lba d).updatesOn (memberAt g member).2 lba nblk = false := by
    have : (chunkGated g.id lba d).jnl.updates = [] := (w.view (fun t => t.jnl.updates) fun _ => rfl).trans hu
    rw [State.updatesOn, this]
    rfl
  rw [chunkGated] at hnone
  simp only [group?_of_one hone, hown, ne_eq, not_true_eq_false, if_false, hnone, Bool.false_eq_true]
  refine ⟨?_, ?_⟩
  · rw [view_sendBlocks (fun t => t.fab.gates) (fun _ => rfl)]
    exact List.mem_append_right _ (List.mem_singleton_self _)
  · rw [view_sendBlocks (fun t => t.fab.groups) (fun _ => rfl)]
    exact hone

section PeerData
variable {s : State} {p : Fin 4} {g : FlockGroup} {x : Gather} {src member : Nat} {blocks : List (Block × Nat)} (hh : s.hears p = true)
  (hg : s.fab.groups = [g]) (hx : s.fab.gathers = [x])
include hh hg hx

theorem endsBy_peerData_good (hi : x.group = g.id) (hb : ∀ b ∈ blocks, b.2 = crc32c (leBytes 4096 b.1)) :
    EndsBy after (.peerData (some p) src g.id member x.lba blocks) s fun t =>
      t.fab.gathers = [{ x with got := Assoc.set x.got member (blocks.map Prod.fst) }] := by
  refine endsBy_of_delivered hh (by rw [exec_peerData]; rfl) fun d w => ?_
  have hone : d.fab.groups = [g] := w.heardGroups.trans hg
  have hgathers : d.fab.gathers = [x] := (w.heardFab FabPart.gathers fun _ => rfl).trans hx
  have hgood : blocks.all (fun b => b.2 == crc32c (leBytes 4096 b.1)) = true := List.all_eq_true.mpr fun b hm => by simp [← hb b hm]
  simp only [group?_of_one hone, hgood, Bool.not_true, Bool.false_eq_true, if_false, hgathers, List.map_singleton, hi, and_self, if_true]

theorem endsBy_peerData_bad (hb : ∃ b ∈ blocks, b.2 ≠ crc32c (leBytes 4096 b.1)) :
    EndsBy after (.peerData (some p) src g.id member x.lba blocks) s fun t => t.fab.gathers = [x] := by
  refine endsBy_of_delivered hh (by rw [exec_peerData]; rfl) fun d w => ?_
  have hone : d.fab.groups = [g] := w.heardGroups.trans hg
  have hbad : blocks.all (fun b => b.2 == crc32c (leBytes 4096 b.1)) = false := by
    obtain ⟨b, hm, hne⟩ := hb
    exact List.all_eq_false.mpr ⟨b, hm, by simpa using hne⟩
  simp only [group?_of_one hone, hbad, Bool.not_false, if_true]
  rw [gathers_askMembers, w.heardFab FabPart.gathers fun _ => rfl, hx]

end PeerData

/-! Deltas that come in -/

section DeltaDesc
variable {s : State} {p : Fin 4} {g : FlockGroup} {src member dseq lba nblk intentSeq crc : Nat} (hh : s.hears p = true)
  (hg : s.fab.groups = [g]) (hp : g.parity.1 = s.ownUid) (hd : s.fab.deltasIn = [])
include hh hg hp hd

theorem endsBy_deltaDesc_new (hn : Assoc.getD g.applied member 0 < dseq) :
    EndsBy after (.deltaDesc (some p) src g.id member (dseq, intentSeq) lba nblk crc) s fun t =>
      t.fab.deltasIn = [{ src := src, group := g.id, member := member, dseq := dseq, lba := lba, nblk := nblk, crc := crc }] := by
  refine endsBy_of_delivered hh (by rw [exec_deltaDesc]; rfl) fun d w => ?_
  have hone : d.fab.groups = [g] := w.heardGroups.trans hg
  have hown : g.parity.1 = d.ownUid := hp.trans w.heardUid.symm
  have hnone : d.fab.deltasIn = [] := (w.heardFab FabPart.deltasIn fun _ => rfl).trans hd
  simp only [group?_of_one hone, hown, ne_eq, not_true_eq_false, if_false, hn.not_ge, hnone, List.filter_nil, List.nil_append]

theorem endsBy_deltaDesc_old (hn : dseq ≤ Assoc.getD g.applied member 0) :
    EndsBy after (.deltaDesc (some p) src g.id member (dseq, intentSeq) lba nblk crc) s fun t => t.fab.deltasIn = [] := by
  refine endsBy_of_delivered hh (by rw [exec_deltaDesc]; rfl) fun d w => ?_
  have hone : d.fab.groups = [g] := w.heardGroups.trans hg
  have hown : g.parity.1 = d.ownUid := hp.trans w.heardUid.symm
  simp only [group?_of_one hone, hown, ne_eq, not_true_eq_false, if_false, hn, if_true]
  rw [view_sendFrame (fun t => t.fab.deltasIn) (fun _ => rfl), w.heardFab FabPart.deltasIn fun _ => rfl, hd]

end DeltaDesc

section DeltaData
variable {s : State} {p : Fin 4} {d : DeltaIn} {data old : Block} (hh : s.hears p = true) (hd : s.fab.deltasIn = [d])
include hh hd

omit hh in
theorem deltaFound {t : State} (w : Within hearKey hearMask s t) (hl : d.blocks.length < d.nblk) :
    t.fab.deltasIn.find? (fun x => x.src == d.src && x.dseq % 65536 == d.dseq % 65536 && decide (x.blocks.length < x.nblk)) = some d
    ∧ t.fab.deltasIn.filter (fun x => x != d) = [] := by
  have hone : t.fab.deltasIn = [d] := (w.heardFab FabPart.deltasIn fun _ => rfl).trans hd
  rw [hone]
  exact ⟨List.find?_cons_of_pos (by simp [hl]), List.filter_cons_of_neg (by simp)⟩

theorem endsBy_deltaData_more (hl : d.blocks.length + 1 < d.nblk) :
    EndsBy after (.deltaData (some p) d.src (d.dseq % 65536) data old) s fun t =>
      t.fab.deltasIn = [{ d with blocks := d.blocks ++ [data], olds := d.olds ++ [old] }] := by
  refine endsBy_of_delivered hh (by rw [exec_deltaData]; rfl) fun t w => ?_
  obtain ⟨hfind, hrest⟩ := deltaFound hd w (by omega)
  have hlen : (d.blocks ++ [data]).length < d.nblk := by simpa using hl
  simp only [hfind, hlen, if_true, hrest, List.nil_append]

theorem endsBy_deltaData_bad (hl : d.blocks.length + 1 = d.nblk) (hc : crc32c ((d.blocks ++ [data]).flatMap (leBytes 4096)) ≠ d.crc) :
    EndsBy after (.deltaData (some p) d.src (d.dseq % 65536) data old) s fun t => t.fab.deltasIn = [] := by
  refine endsBy_of_delivered hh (by rw [exec_deltaData]; rfl) fun t w => ?_
  obtain ⟨hfind, hrest⟩ := deltaFound hd w (by omega)
  have hlen : ¬ (d.blocks ++ [data]).length < d.nblk := by simp; omega
  simp only [hfind, hlen, hc, ne_eq, not_false_eq_true, if_false, if_true, hrest]

end DeltaData

theorem endsBy_deltaAck {s : State} {p : Fin 4} {group member dseq : Nat} (hh : s.hears p = true) :
    EndsBy (fun t => after (retryIntents t)) (.deltaAck (some p) group member dseq) s fun t =>
      (∀ d ∈ t.fab.deltas, d.group = group → d.member = member → d.dseq ≤ dseq → d.freed = true)
      ∧ (∀ d ∈ s.fab.deltas, d.freed = false → ¬(d.group = group ∧ d.member = member ∧ d.dseq ≤ dseq) → d ∈ t.fab.deltas)
      ∧ (∀ d, t.fab.deltas.head? = some d → d.freed = false) := by
  refine endsBy_of_delivered_then (k := ackHeard group member dseq) hh (by rw [exec_deltaAck]; rfl) fun d w => ?_
  refine acksTaken_fields group member dseq s.fab.deltas ?_
  rw [deltas_ackHeard, w.heardFab FabPart.deltas fun _ => rfl]

/-! Wakes and GROUP frames -/

theorem endsBy_wakeReq_serving {s : State} {p : Fin 4} {src : Nat} (hh : s.hears p = true) (hm : s.mode = Mode.serving) :
    EndsBy after (.wakeReq (some p) src) s fun t => t.sys.wakePending = s.sys.wakePending := by
  refine endsBy_of_delivered hh (by rw [exec_wakeReq]; rfl) fun d w => ?_
  rw [fabricWake_of_serving (w.heardMode.trans hm)]
  exact w.view (fun t => t.sys.wakePending) fun _ => rfl

theorem endsBy_wakeReq_draining {s : State} {p : Fin 4} {src : Nat} (hh : s.hears p = true) (hm : s.mode = Mode.draining) :
    EndsBy after (.wakeReq (some p) src) s fun t => t.sys.wakePending = true := by
  refine endsBy_of_delivered hh (by rw [exec_wakeReq]; rfl) fun d w => ?_
  have hmode : d.mode = Mode.draining := w.heardMode.trans hm
  rw [fabricWake, if_neg fun k => absurd (hmode.symm.trans k.1) (by decide), if_pos hmode]

section GroupFrames
variable {s : State} {p : Fin 4} {g : FlockGroup} (hh : s.hears p = true) (hg : s.fab.groups = [g])
include hh hg

theorem endsBy_group_deleted : EndsBy after (.group (some p) (.deleted g.id)) s fun t => t.fab.groups = [] := by
  refine endsBy_of_delivered hh (by rw [exec_group]; rfl) fun d w => ?_
  have hone : d.fab.groups = [g] := w.heardGroups.trans hg
  simp only [groupMsg, group?_of_one hone, Option.isSome_some, if_true]
  rw [groups_floodFrame, groups_removeGroup_of_one hone]

theorem endsBy_group_current (hs : g.stale = true) :
    EndsBy after (.group (some p) (.current g.id)) s fun t => t.fab.groups = [{ g with stale := false, front := none }] := by
  refine endsBy_of_delivered hh (by rw [exec_group]; rfl) fun d w => ?_
  have hone : d.fab.groups = [g] := w.heardGroups.trans hg
  simp only [groupMsg, group?_of_one hone, hs, if_true]
  rw [groups_hostEvent, groups_floodFrame]
  exact groups_onGroup_of_one hone fun g => { g with stale := false, front := none }

theorem endsBy_group_front {f : Nat} (hf : g.front ≠ some f) :
    EndsBy after (.group (some p) (.front g.id f)) s fun t => t.fab.groups = [{ g with stale := true, front := some f }] := by
  refine endsBy_of_delivered hh (by rw [exec_group]; rfl) fun d w => ?_
  have hone : d.fab.groups = [g] := w.heardGroups.trans hg
  simp only [groupMsg, group?_of_one hone, hf, if_false]
  rw [groups_floodFrame]
  exact groups_onGroup_of_one hone fun g => { g with stale := true, front := some f }

theorem endsBy_group_stale (hs : g.stale = false) :
    EndsBy after (.group (some p) (.stale g.id)) s fun t => t.fab.groups = [{ g with stale := true, front := none }] := by
  refine endsBy_of_delivered hh (by rw [exec_group]; rfl) fun d w => ?_
  have hone : d.fab.groups = [g] := w.heardGroups.trans hg
  simp only [groupMsg, group?_of_one hone, hs, Bool.false_and, Bool.false_eq_true, if_false]
  exact groups_markStale hone

end GroupFrames

/-- Settles O46, message by message. -/
theorem flockCommandsComplete : Obligations.FlockCommandsComplete := by
  unfold Obligations.FlockCommandsComplete
  exact ⟨fun s p g src member lba nblk data hh hg hm hu => endsBy_peerRead hh hg hm hu,
    fun s p g x src member blocks hh hg hx hi => ⟨endsBy_peerData_good hh hg hx hi, endsBy_peerData_bad hh hg hx⟩,
    fun s g hg hp hs => ⟨fun hf hr => .of_next (exec_flockResyncChunk_of_idle hg hp hs hf hr) ⟨front_resyncGroup (group?_of_one hg), rfl⟩,
      fun f x hf hx hi hn hall ha hw hend => .of_next (g := fun t => after (askChunk g.id (f + 64) t))
        (exec_flockResyncChunk_of_chunk hg hp hs hf hx hi hn hall ha hw hend) rfl⟩,
    fun s p g src member dseq lba nblk intentSeq crc hh hg hp hd => ⟨endsBy_deltaDesc_new hh hg hp hd, endsBy_deltaDesc_old hh hg hp hd⟩,
    fun s p d data old hh hd => ⟨endsBy_deltaData_more hh hd, endsBy_deltaData_bad hh hd⟩,
    fun s p group member dseq hh => endsBy_deltaAck hh,
    fun s => .of_next (exec_deltaResend s) rfl,
    fun s p src hh => ⟨endsBy_wakeReq_serving hh, endsBy_wakeReq_draining hh⟩,
    fun s p g hh hg => ⟨endsBy_group_deleted hh hg, endsBy_group_current hh hg, fun f => endsBy_group_front hh hg, endsBy_group_stale hh hg⟩,
    fun s g d hg hd hi hf hs hr => .of_next (g := fun t => after (retryIntents t)) (exec_groupStaleTimer_of_cut hg hd hi hf hs hr) rfl⟩

end Sys2Proof.Machine
end

section
/-! REGISTER_WRITE (R5, R70): the obligation O47. -/

open Sys2Proof

namespace Sys2Proof.Machine

/-- A state with the geometry locked, whose register map holds for the first slot-map word of array 0 a number wider than the word. -/
def wideSlotmap : State := setF Reg.STP_CTRL_LOCK 1 { State.reset with regs := [((Reg.STP_ARRAY_SLOTMAP_SLOTS 0 0).key, 2 ^ 32)] }

/-- The word reads as 0, so that a write of 0 would change nothing and is not counted (R70). -/
theorem exec_write_wideSlotmap : ∃ t, exec (.registerWrite (.core 0) 0x30110 15 0#32) wideSlotmap = .next t ∧ t.get Reg.QMX_IGNORED_CNT = 0 := by
  rw [exec_registerWrite]
  exact ⟨_, rfl, by decide +kernel⟩

/-- Refutes O47: a locked word counts a write that differs from what it reads as, which is the field's own bits of what the register map holds
for it; where the map holds more than those bits, the two are not the same. -/
theorem not_registerWriteCompletes : ¬ Obligations.RegisterWriteCompletes := by
  unfold Obligations.RegisterWriteCompletes
  rintro ⟨-, -, -, h, -⟩
  have hlands : wideSlotmap.lands (0x30110 + 0x40 * (0 : Fin 4).val) = true := by decide +kernel
  have hlock : wideSlotmap.on Reg.STP_CTRL_LOCK = true := by decide
  have hwide : (0#32 : Word).toNat ≠ wideSlotmap.get (Reg.STP_ARRAY_SLOTMAP_SLOTS (0 : Fin 4).val 0) := by decide
  obtain ⟨t, ht, hcnt, -⟩ := ((h wideSlotmap 0 0 0#32 hlands).2 (.inl hlock)).2 hwide
  obtain ⟨u, hu, hzero⟩ := exec_write_wideSlotmap
  have hsame : t = u := Host.Outcome.next.inj (ht.symm.trans hu)
  have hone : (wideSlotmap.get Reg.QMX_IGNORED_CNT + 1) % 2 ^ 32 = 1 := by decide
  rw [hsame, hzero, hone] at hcnt
  exact absurd hcnt (by decide)

end Sys2Proof.Machine
end

section
/-! Member commands and the slots' links (R142, R144, R145, R309, R497): the obligation O12. -/

open Sys2Proof

namespace Sys2Proof.Machine

/-! Bytes read back -/

/-- The first bytes of a run of bytes that has been stored read back, each as a byte. -/
theorem readBytes_writeBytes_take (l : List Nat) (a k : Nat) (s : State) (hk : k ≤ l.length) :
    (writeBytes a l s).readBytes a k = (l.take k).map (· % 256) := by
  induction k generalizing a l s with
  | zero => rfl
  | succ k ih =>
    cases l with
    | nil => exact absurd hk (by simp)
    | cons b l =>
      have hb : (writeBytes (a + 1) l (writeByte a (BitVec.ofNat 8 b) s)).readByte a = BitVec.ofNat 8 b := by
        rw [readByte_writeBytes_out _ _ _ _ (.inl (by omega)), readByte_writeByte_self]
      rw [writeBytes, State.readBytes, hb, ih l (a + 1) _ (by simpa using hk), List.take_succ_cons, List.map_cons, BitVec.toNat_ofNat]

/-! A command that leaves its port -/

theorem openCmdOn_of_cmds {s t : State} (h : t.sas.cmds = s.sas.cmds) (phys tag : Nat) : t.openCmdOn phys tag = s.openCmdOn phys tag := by
  rw [State.openCmdOn, h, State.openCmdOn]

theorem phys_of_openCmdOn {s : State} {phys tag : Nat} {c : MemCmd} (h : s.openCmdOn phys tag = some c) : c.phys = phys ∧ c.tag = tag := by
  have := List.find?_some h
  simpa using this

theorem openCmdOn_dropCmd {s : State} {phys tag : Nat} {c : MemCmd} (h : s.openCmdOn phys tag = some c) :
    (dropCmd c s).openCmdOn phys tag = none := by
  obtain ⟨hp, ht⟩ := phys_of_openCmdOn h
  refine List.find?_eq_none.mpr fun d hd hm => ?_
  have := (List.mem_filter.mp hd).2
  rw [hp, ht, hm] at this
  exact absurd this (by decide)

/-- The data of a good answer: the blocks of a read. -/
def goodData (c : MemCmd) (bs : List DriveBlock) : List Block :=
  if c.write then [] else (List.range c.nblk).map (fun i => (bs.map (fun b => b.data)).getD i 0)

theorem exec_memberCommandComplete_of_good {s : State} {slot : Fin 108} {tag : Nat} {c : MemCmd} {bs : List DriveBlock} {info : Option Nat}
    {cap : Nat} (h : s.openCmdOn slot.val tag = some c) (hg : c.write = true ∨ s.t10Check c bs = none) :
    exec (.memberCommandComplete slot tag .good bs info cap) s
      = .next (after (memberEnd c .good 0 false (goodData c bs) (dropCmd c s))) := by
  rw [exec_memberCommandComplete, execMemberCommandComplete, h]
  cases hw : c.write with
  | true => simp [State.replyEnd, goodData, hw]
  | false =>
    have ht : s.t10Check c bs = none := by simpa [hw] using hg
    simp [State.replyEnd, goodData, hw, ht]

theorem exec_memberCommandComplete_of_t10 {s : State} {slot : Fin 108} {tag lba : Nat} {app : Bool} {c : MemCmd} {bs : List DriveBlock}
    {info : Option Nat} {cap : Nat} (h : s.openCmdOn slot.val tag = some c) (hw : c.write = false) (ht : s.t10Check c bs = some (lba, app)) :
    exec (.memberCommandComplete slot tag .good bs info cap) s
      = .next (after (memberEnd c .t10 lba app [] (dropCmd c s))) := by
  rw [exec_memberCommandComplete, execMemberCommandComplete, h]
  simp [State.replyEnd, hw, ht]

theorem exec_memberCommandComplete_of_busy {s : State} {slot : Fin 108} {tag : Nat} {c : MemCmd} {bs : List DriveBlock}
    {info : Option Nat} {cap : Nat} (h : s.openCmdOn slot.val tag = some c) :
    exec (.memberCommandComplete slot tag .busy bs info cap) s = .next (sendDrive c s) := by
  rw [exec_memberCommandComplete, execMemberCommandComplete, h]
  rfl

/-- The counter of the blocks that a slot has moved. -/
def blkCnt (c : MemCmd) (n : Nat) : Field := if c.write then Reg.SAS_SLOT_WRITE_BLK_CNT n else Reg.SAS_SLOT_READ_BLK_CNT n

theorem width_blkCnt (c : MemCmd) (n : Nat) : (blkCnt c n).width = 32 := by
  unfold blkCnt
  split_ifs <;> rfl

theorem key_blkCnt_ge (c : MemCmd) (n : Nat) : 0xA1000 * 32 ≤ (blkCnt c n).key := by
  unfold blkCnt
  split_ifs <;> simp only [Field.key, Reg.SAS_SLOT_WRITE_BLK_CNT, Reg.SAS_SLOT_READ_BLK_CNT] <;> omega

theorem memberEnd_own_good {c : MemCmd} (ho : c.owner = .own) (d : List Block) (s : State) :
    memberEnd c .good 0 false d s = bumpBy (blkCnt c c.phys) c.nblk s := by
  rw [memberEnd, ho]
  rfl

theorem ownEnd_fields {s : State} {slot tag : Nat} {c : MemCmd} (h : s.openCmdOn slot tag = some c) :
    (bumpBy (blkCnt c c.phys) c.nblk (dropCmd c s)).openCmdOn slot tag = none
    ∧ (bumpBy (blkCnt c c.phys) c.nblk (dropCmd c s)).get (blkCnt c slot) = (s.get (blkCnt c slot) + c.nblk) % 2 ^ 32
    ∧ Keeps [blkCnt c slot] s (bumpBy (blkCnt c c.phys) c.nblk (dropCmd c s)) := by
  rw [(phys_of_openCmdOn h).1]
  refine ⟨(openCmdOn_of_cmds (by rfl) _ _).trans (openCmdOn_dropCmd h), ?_, ?_⟩
  · rw [bumpBy, get_setF_self, width_blkCnt]
    rfl
  · exact Keeps.setF _ _ (by simp) ((Keeps.refl _ _).of_eq rfl rfl)

/-! The firmware's completion ring -/

/-- Where the next record of the firmware's completion ring goes. -/
def State.fwRecordAt (s : State) : Nat :=
  s.get64 Reg.SAS_FW_CQ_BASE_LO_BASE Reg.SAS_FW_CQ_BASE_HI_BASE + 16 * s.get Reg.SAS_FW_CQ_TAIL_CQ_TAIL

/-- The bytes of a record, its phase last. -/
def fwRecord (tag slotByte status errLba phase : Nat) : List Nat :=
  leBytes 2 tag ++ [slotByte, status] ++ leBytes 8 errLba ++ [0, 0, 0, phase]

/-- The fields that a record of the firmware's ring changes. -/
def fwFields : List Field := [Reg.SAS_FW_CQ_TAIL_CQ_TAIL, Reg.SAS_EVENT_FW_DONE, Reg.SAS_FW_DONE_CNT]

section Complete
variable (tag slotByte status errLba : Nat) (s : State)

theorem mem_fwComplete : (fwComplete tag slotByte status errLba s).mem
    = (writeBytes s.fwRecordAt (fwRecord tag slotByte status errLba (Assoc.getD s.oxe.phases 16 1)) s).mem := by
  unfold fwComplete Machine.when
  dsimp only
  split_ifs <;> rfl

theorem regs_phaseTurned (c : Bool) (f : State → State) (t : State) (h : (f t).regs = t.regs) : (when c f t).regs = t.regs :=
  when_of_eq c State.regs h

theorem get_fwComplete_of_ne {f : Field} (hf : f.key ∉ fwFields.map Field.key) : (fwComplete tag slotByte status errLba s).get f = s.get f := by
  have hne {g : Field} (hg : g ∈ fwFields) : g.key ≠ f.key := fun e => hf (e ▸ List.mem_map_of_mem hg)
  unfold fwComplete
  dsimp only
  rw [get_event_ne (hne (by simp [fwFields])) (hne (by simp [fwFields])),
    get_of_regs _ (regs_phaseTurned _ _ _ rfl), get_setF_ne _ _ _ _ (hne (by simp [fwFields])), get_of_regs _ (writeBytes_view State.regs (fun _ _ => rfl) _ _ _)]

theorem get_tail_fwComplete : (fwComplete tag slotByte status errLba s).get Reg.SAS_FW_CQ_TAIL_CQ_TAIL
    = (s.get Reg.SAS_FW_CQ_TAIL_CQ_TAIL + 1) % (s.get Reg.SAS_FW_CFG_SIZE_M1 + 1) % 2 ^ Reg.SAS_FW_CQ_TAIL_CQ_TAIL.width := by
  unfold fwComplete
  dsimp only
  rw [get_event_ne (by decide) (by decide), get_of_regs _ (regs_phaseTurned _ _ _ rfl), get_setF_self]

theorem sas_fwComplete : (fwComplete tag slotByte status errLba s).sas = s.sas := by
  unfold fwComplete
  dsimp only
  exact (when_of_eq _ State.sas rfl).trans (writeBytes_view State.sas (fun _ _ => rfl) _ _ _)

end Complete

theorem length_fwRecord (tag slotByte status errLba phase : Nat) : (fwRecord tag slotByte status errLba phase).length = 16 := by
  simp [fwRecord, leBytes]

/-- The fields of a record that do not depend on its phase read back. -/
theorem readBytes_fwComplete (tag slotByte status errLba : Nat) (s : State) :
    (fwComplete tag slotByte status errLba s).readBytes s.fwRecordAt 12
      = leBytes 2 tag ++ [slotByte % 256, status % 256] ++ leBytes 8 errLba := by
  rw [readBytes_of_mem (mem_fwComplete tag slotByte status errLba s), readBytes_writeBytes_take _ _ _ _ (by rw [length_fwRecord]; decide)]
  simp [fwRecord, leBytes]

theorem readBytes_take (s : State) (a : Nat) {k n : Nat} (h : k ≤ n) : s.readBytes a k = (s.readBytes a n).take k := by
  induction k generalizing a n with
  | zero => rfl
  | succ k ih =>
    cases n with
    | zero => exact absurd h (by omega)
    | succ n => rw [State.readBytes, State.readBytes, List.take_succ_cons, ih (a + 1) (Nat.le_of_succ_le_succ h)]

theorem readByte_fwComplete_out {tag slotByte status errLba : Nat} {s : State} {x : Nat} (h : x < s.fwRecordAt ∨ s.fwRecordAt + 16 ≤ x) :
    (fwComplete tag slotByte status errLba s).readByte x = s.readByte x :=
  (readByte_of_mem x (mem_fwComplete ..)).trans (readByte_writeBytes_out _ _ _ _ (by rw [length_fwRecord]; exact h))

/-! A command of the firmware that ends -/

theorem memberEnd_firmware {c : MemCmd} {b : Nat} (ho : c.owner = .firmware b) (st : DriveStatus) (lba : Nat) (app : Bool) (d : List Block)
    (s : State) : memberEnd c st lba app d s = fwComplete c.tag b (driveCode st) lba
      (when (st == .good && !c.write) (putRx c d) (chargeEnd c st (countEnd c st app s))) := by
  rw [memberEnd, ho]

theorem fwRecordAt_congr {s t : State} (h : ∀ f ∈ [Reg.SAS_FW_CQ_BASE_LO_BASE, Reg.SAS_FW_CQ_BASE_HI_BASE, Reg.SAS_FW_CQ_TAIL_CQ_TAIL],
    t.get f = s.get f) : t.fwRecordAt = s.fwRecordAt := by
  rw [State.fwRecordAt, State.get64, h _ (by simp), h _ (by simp), h _ (by simp), State.fwRecordAt, State.get64]

/-- A good end's block count and the data of a read, before its record. -/
def goodBefore (c : MemCmd) (bs : List DriveBlock) (s : State) : State :=
  when (!c.write) (putRx c (goodData c bs)) (bumpBy (blkCnt c c.phys) c.nblk (dropCmd c s))

theorem get_goodBefore {c : MemCmd} {bs : List DriveBlock} {s : State} {f : Field} (hf : f.key < 0xA1000 * 32) :
    (goodBefore c bs s).get f = s.get f := by
  have hne : (blkCnt c c.phys).key ≠ f.key := (hf.trans_le (key_blkCnt_ge c c.phys)).ne'
  rw [goodBefore, get_of_regs f (when_of_eq _ State.regs rfl), bumpBy, get_setF_ne _ _ _ _ hne]
  rfl

theorem fwRecordAt_goodBefore (c : MemCmd) (bs : List DriveBlock) (s : State) : (goodBefore c bs s).fwRecordAt = s.fwRecordAt :=
  fwRecordAt_congr fun f hf => get_goodBefore ((by decide : ∀ f ∈ [Reg.SAS_FW_CQ_BASE_LO_BASE, Reg.SAS_FW_CQ_BASE_HI_BASE,
    Reg.SAS_FW_CQ_TAIL_CQ_TAIL], f.key < 0xA1000 * 32) f hf)

theorem mem_goodBefore (c : MemCmd) (bs : List DriveBlock) (s : State) : (goodBefore c bs s).mem = s.mem :=
  (when_of_eq _ State.mem rfl)

theorem cmds_goodBefore (c : MemCmd) (bs : List DriveBlock) (s : State) : (goodBefore c bs s).sas.cmds = (dropCmd c s).sas.cmds :=
  (when_of_eq _ (fun t => t.sas.cmds) rfl)

theorem rx_goodBefore {c : MemCmd} (hw : c.write = false) (bs : List DriveBlock) (s : State) :
    Assoc.find (goodBefore c bs s).sas.rx (rxKey c.phys c.tag) = some (goodData c bs) := by
  rw [goodBefore, hw]
  show Assoc.find (Assoc.set (dropCmd c s).sas.rx (rxKey c.phys c.tag) (goodData c bs)) (rxKey c.phys c.tag) = _
  rw [Assoc.find_set, if_pos rfl]

theorem memberEnd_firmware_good {c : MemCmd} {b : Nat} (ho : c.owner = .firmware b) (bs : List DriveBlock) (s : State) :
    memberEnd c .good 0 false (goodData c bs) (dropCmd c s) = fwComplete c.tag b 0 0 (goodBefore c bs s) :=
  memberEnd_firmware ho _ _ _ _ _

theorem firmwareEnd_fields {s : State} {slot tag b : Nat} {c : MemCmd} {bs : List DriveBlock} (h : s.openCmdOn slot tag = some c) :
    let t := fwComplete c.tag b 0 0 (goodBefore c bs s)
    t.openCmdOn slot tag = none
    ∧ (c.write = false → Assoc.find t.sas.rx (rxKey slot tag) = some ((List.range c.nblk).map (fun i => (bs.map (fun b => b.data)).getD i 0)))
    ∧ t.get Reg.SAS_FW_CQ_TAIL_CQ_TAIL
      = (s.get Reg.SAS_FW_CQ_TAIL_CQ_TAIL + 1) % (s.get Reg.SAS_FW_CFG_SIZE_M1 + 1) % 2 ^ Reg.SAS_FW_CQ_TAIL_CQ_TAIL.width
    ∧ t.readBytes s.fwRecordAt 4 = leBytes 2 tag ++ [b % 256, 0]
    ∧ (∀ x, x < s.fwRecordAt ∨ s.fwRecordAt + 16 ≤ x → t.readByte x = s.readByte x) := by
  obtain ⟨hp, ht⟩ := phys_of_openCmdOn h
  have hat := fwRecordAt_goodBefore c bs s
  refine ⟨?_, fun hw => ?_, ?_, ?_, fun x hx => ?_⟩
  · rw [openCmdOn_of_cmds ((congrArg SasPart.cmds (sas_fwComplete ..)).trans (cmds_goodBefore c bs s)), openCmdOn_dropCmd h]
  · rw [sas_fwComplete, ← hp, ← ht, rx_goodBefore hw, goodData, hw]
    rfl
  · rw [get_tail_fwComplete, get_goodBefore (by decide), get_goodBefore (by decide)]
  · rw [readBytes_take _ _ (by decide : 4 ≤ 12), ← hat, readBytes_fwComplete, ht]
    simp [leBytes]
  · rw [readByte_fwComplete_out (by rw [hat]; exact hx), readByte_of_mem x (mem_goodBefore c bs s)]

/-- A read whose protection information fails, before its record (R190). -/
def t10Before (c : MemCmd) (app : Bool) (s : State) : State := countEnd c .t10 app (dropCmd c s)

theorem get_t10Before {c : MemCmd} {app : Bool} {s : State} {f : Field} (hlow : 0xA0080 * 32 ≤ f.key) (hf : f.key < 0xA1000 * 32) :
    (t10Before c app s).get f = s.get f := by
  have hb : (Reg.SAS_SLOT_MEDIA_ERR_CNT c.phys).key ≠ f.key := by
    simp only [Field.key, Reg.SAS_SLOT_MEDIA_ERR_CNT] at hf ⊢
    omega
  have hne {g : Field} (hg : g.key < 0xA0080 * 32) : g.key ≠ f.key := (hg.trans_le hlow).ne
  unfold t10Before countEnd
  dsimp only
  split_ifs <;>
    simp only [get_event_ne (hne (by decide : Reg.SAS_EVENT_MEDIA_ERR.key < _)) (hne (by decide : Reg.SAS_MEDIA_ERR_CNT.key < _)),
      get_event_ne (hne (by decide : Reg.INT_EVENT_APP_TAG.key < _)) (hne (by decide : Reg.INT_APP_TAG_CNT.key < _)),
      get_event_ne (hne (by decide : Reg.INT_EVENT_T10_RX.key < _)) (hne (by decide : Reg.INT_T10_RX_CNT.key < _)), get_bump_ne hb] <;> rfl

theorem sas_t10Before (c : MemCmd) (app : Bool) (s : State) : (t10Before c app s).sas = (dropCmd c s).sas := by
  unfold t10Before countEnd
  dsimp only
  split_ifs <;> rfl

theorem flags_t10Before {c : MemCmd} (hw : c.write = false) (app : Bool) (s : State) :
    (t10Before c app s).get (if app then Reg.INT_EVENT_APP_TAG else Reg.INT_EVENT_T10_RX) = 1
    ∧ (t10Before c app s).get Reg.SAS_EVENT_MEDIA_ERR = 1 := by
  unfold t10Before countEnd
  cases app with
  | true =>
    simp only [hw, Bool.false_eq_true, if_false, if_true]
    exact ⟨get_event_flag _ _ _ (by decide) (by decide), (get_event_ne (by decide) (by decide)).trans (get_event_flag _ _ _ (by decide) (by decide))⟩
  | false =>
    simp only [hw, Bool.false_eq_true, if_false]
    exact ⟨get_event_flag _ _ _ (by decide) (by decide), (get_event_ne (by decide) (by decide)).trans (get_event_flag _ _ _ (by decide) (by decide))⟩

theorem memberEnd_firmware_t10 {c : MemCmd} {b : Nat} (ho : c.owner = .firmware b) (lba : Nat) (app : Bool) (s : State) :
    memberEnd c .t10 lba app [] (dropCmd c s) = fwComplete c.tag b 4 lba (t10Before c app s) :=
  memberEnd_firmware ho _ _ _ _ _

theorem t10End_fields {s : State} {slot tag b lba : Nat} {app : Bool} {c : MemCmd} (h : s.openCmdOn slot tag = some c) (hw : c.write = false) :
    let t := fwComplete c.tag b 4 lba (t10Before c app s)
    t.openCmdOn slot tag = none ∧ t.readBytes s.fwRecordAt 12 = leBytes 2 tag ++ [b % 256, 4] ++ leBytes 8 lba
    ∧ t.get (if app then Reg.INT_EVENT_APP_TAG else Reg.INT_EVENT_T10_RX) = 1 ∧ t.get Reg.SAS_EVENT_MEDIA_ERR = 1 := by
  obtain ⟨hflag, hmedia⟩ := flags_t10Before hw app s
  have hat : (t10Before c app s).fwRecordAt = s.fwRecordAt := fwRecordAt_congr fun f hf =>
    have hkeys := (by decide : ∀ f ∈ [Reg.SAS_FW_CQ_BASE_LO_BASE, Reg.SAS_FW_CQ_BASE_HI_BASE, Reg.SAS_FW_CQ_TAIL_CQ_TAIL],
      0xA0080 * 32 ≤ f.key ∧ f.key < 0xA1000 * 32) f hf
    get_t10Before hkeys.1 hkeys.2
  refine ⟨?_, ?_, ?_, ?_⟩
  · rw [openCmdOn_of_cmds (congrArg SasPart.cmds ((sas_fwComplete ..).trans (sas_t10Before c app s))), openCmdOn_dropCmd h]
  · rw [← hat, readBytes_fwComplete, (phys_of_openCmdOn h).2]
  · rw [get_fwComplete_of_ne _ _ _ _ _ (by cases app <;> decide), hflag]
  · rw [get_fwComplete_of_ne _ _ _ _ _ (by decide), hmedia]

/-! Timeouts -/

theorem endAllOn_of_none {phys : Nat} {s : State} (st : DriveStatus) (h : ∀ c ∈ s.sas.cmds, c.phys ≠ phys) : endAllOn phys st s = s := by
  rw [endAllOn, List.filter_eq_nil_iff.mpr fun c hc => by simpa using h c hc]
  rfl

/-- The state in which a command that timed out has left its port, and its drive is told to drop it. -/
def cmdTimedOut (c : MemCmd) (s : State) : State :=
  event Reg.SAS_EVENT_TIMEOUT Reg.SAS_TIMEOUT_CNT (bump (Reg.SAS_SLOT_TIMEOUT_CNT c.phys)
    (emit (.drive c.phys .linkReset 0 0 []) (emit (.drive c.phys .abort c.lba c.nblk []) (dropCmd c s))))

/-- The drive's record of it (R147). -/
def timeoutNoted (c : MemCmd) (s : State) : State :=
  onSlot c.phys (fun r => { r with timeouts := s.clock :: s.within (sec 600) (s.slot c.phys).timeouts }) (cmdTimedOut c s)

theorem memberEnd_own_timeout {c : MemCmd} {s : State} (ho : c.owner = .own) (h2 : (s.within (sec 600) (s.slot c.phys).timeouts).length < 2) :
    memberEnd c .timeout 0 false [] (emit (.drive c.phys .linkReset 0 0 []) (emit (.drive c.phys .abort c.lba c.nblk []) (dropCmd c s)))
      = timeoutNoted c s := by
  have h3 : ¬ 3 ≤ (s.clock :: s.within (sec 600) (s.slot c.phys).timeouts).length := by
    rw [List.length_cons]
    omega
  rw [memberEnd, ho]
  exact if_neg h3

theorem cmds_timeoutNoted {s : State} {c : MemCmd} (h1 : s.sas.cmds = [c]) :
    (timeoutNoted c s).sas.cmds = [] := by
  show s.sas.cmds.filter _ = []
  rw [h1]
  exact List.filter_cons_of_neg (by simp)

theorem exec_memberCommandTimeout_of_alone {s : State} {slot : Fin 108} {tag : Nat} {c : MemCmd} (h : s.openCmdOn slot.val tag = some c)
    (ho : c.owner = .own) (h2 : (s.within (sec 600) (s.slot slot.val).timeouts).length < 2) (h1 : s.sas.cmds = [c]) :
    exec (.memberCommandTimeout slot tag) s = .next (after (timeoutNoted c s)) := by
  rw [exec_memberCommandTimeout, execMemberCommandTimeout, h]
  dsimp only
  rw [memberEnd_own_timeout ho (by rw [(phys_of_openCmdOn h).1]; exact h2), endAllOn_of_none]
  rw [cmds_timeoutNoted h1]
  exact fun _ hc => absurd hc (List.not_mem_nil)

theorem timeoutNoted_fields {s : State} {slot tag : Nat} {c : MemCmd} (h : s.openCmdOn slot tag = some c) (h1 : s.sas.cmds = [c]) :
    (timeoutNoted c s).sas.cmds = []
    ∧ (timeoutNoted c s).out = .drive slot .linkReset 0 0 [] :: .drive slot .abort c.lba c.nblk [] :: s.out
    ∧ (timeoutNoted c s).get Reg.SAS_EVENT_TIMEOUT = 1
    ∧ (timeoutNoted c s).get Reg.SAS_TIMEOUT_CNT = (s.get Reg.SAS_TIMEOUT_CNT + 1) % 2 ^ 32
    ∧ ((timeoutNoted c s).slot slot).timeouts = s.clock :: s.within (sec 600) (s.slot slot).timeouts
    ∧ Keeps [Reg.SAS_EVENT_TIMEOUT, Reg.SAS_TIMEOUT_CNT, Reg.SAS_SLOT_TIMEOUT_CNT slot] s (timeoutNoted c s) := by
  have hp := (phys_of_openCmdOn h).1
  have hcnt : (Reg.SAS_SLOT_TIMEOUT_CNT c.phys).key ≠ Reg.SAS_TIMEOUT_CNT.key := by
    simp only [Field.key, Reg.SAS_SLOT_TIMEOUT_CNT, Reg.SAS_TIMEOUT_CNT]
    omega
  refine ⟨cmds_timeoutNoted h1, by rw [← hp]; rfl, get_event_flag _ _ _ (by decide) (by decide), ?_, ?_, ?_⟩
  · refine (get_event_cnt _ _ _ (by decide)).trans ?_
    rw [get_bump_ne hcnt]
    rfl
  · rw [timeoutNoted, hp, slot_onSlot_self]
  · rw [← hp]
    refine Keeps.of_eq (Keeps.event _ _ ?_ ?_ (Keeps.bump _ ?_ ((Keeps.refl _ s).of_eq rfl rfl))) rfl rfl <;> simp

/-! Links -/

/-- A slot's link down, with its counters (R144). -/
def linkNoted (n : Nat) (s : State) : State :=
  event Reg.SAS_EVENT_LINK_DOWN Reg.SAS_LINK_DOWN_CNT (bump (Reg.SAS_SLOT_LINK_DOWN_CNT n)
    (setF (Reg.SAS_SLOT_STATUS_RATE n) 0 (setF (Reg.SAS_SLOT_STATUS_LINK_UP n) 0 s)))

theorem linkFalls_of_none {n : Nat} {s : State} (h : ∀ c ∈ s.sas.cmds, c.phys ≠ n) : linkFalls n s = linkNoted n s := endAllOn_of_none _ h

theorem exec_slotLinkDown_of_none {s : State} {slot : Fin 108} (h : s.on (Reg.SAS_SLOT_STATUS_LINK_UP slot.val) = true)
    (hc : ∀ c ∈ s.sas.cmds, c.phys ≠ slot.val) : exec (.slotLinkDown slot) s = .next (after (linkNoted slot.val s)) := by
  rw [exec_slotLinkDown, execSlotLinkDown, if_pos h, linkFalls_of_none hc]

theorem linkNoted_fields (n : Nat) (s : State) :
    (linkNoted n s).get (Reg.SAS_SLOT_STATUS_LINK_UP n) = 0 ∧ (linkNoted n s).get (Reg.SAS_SLOT_STATUS_RATE n) = 0
    ∧ (linkNoted n s).get Reg.SAS_EVENT_LINK_DOWN = 1
    ∧ Keeps [Reg.SAS_SLOT_STATUS_LINK_UP n, Reg.SAS_SLOT_STATUS_RATE n, Reg.SAS_EVENT_LINK_DOWN,
        Reg.SAS_LINK_DOWN_CNT, Reg.SAS_SLOT_LINK_DOWN_CNT n] s (linkNoted n s) := by
  refine ⟨?_, ?_, get_event_flag _ _ _ (by decide) (by decide), ?_⟩
  · rw [linkNoted, get_event_ne, get_bump_ne, get_setF_ne, get_setF_zero] <;>
      simp only [Field.key, Reg.SAS_SLOT_STATUS_RATE, Reg.SAS_SLOT_STATUS_LINK_UP, Reg.SAS_SLOT_LINK_DOWN_CNT, Reg.SAS_LINK_DOWN_CNT,
        Reg.SAS_EVENT_LINK_DOWN] <;> omega
  · rw [linkNoted, get_event_ne, get_bump_ne, get_setF_zero] <;>
      simp only [Field.key, Reg.SAS_SLOT_STATUS_RATE, Reg.SAS_SLOT_LINK_DOWN_CNT, Reg.SAS_LINK_DOWN_CNT, Reg.SAS_EVENT_LINK_DOWN] <;> omega
  · exact Keeps.event _ _ (by simp) (by simp) (Keeps.bump _ (by simp) (Keeps.setF _ _ (by simp) (Keeps.setF _ _ (by simp) (Keeps.refl _ s))))

/-- A slot's link up at a rate (R309). -/
def linkCame (n rate : Nat) (s : State) : State := setF (Reg.SAS_SLOT_STATUS_RATE n) rate (setF (Reg.SAS_SLOT_STATUS_LINK_UP n) 1 s)

theorem exec_slotLinkUp_of_powered {s : State} {slot : Fin 108} {rate : Fin 4} (hp : s.on (Reg.SLT_STATUS_PRESENT slot.val) = true)
    (hon : s.slotOn slot.val = true) (hr : rate ≠ 0) : exec (.slotLinkUp slot rate) s = .next (after (linkCame slot.val rate.val s)) := by
  have hne : (rate.val != 0) = true := bne_iff_ne.mpr fun h => hr (Fin.ext h)
  rw [exec_slotLinkUp, execSlotLinkUp]
  simp only [hp, hon, hne, Bool.and_true, if_true]
  rw [linkCame]

theorem linkCame_fields (n : Nat) (rate : Fin 4) (s : State) :
    (linkCame n rate.val s).get (Reg.SAS_SLOT_STATUS_LINK_UP n) = 1 ∧ (linkCame n rate.val s).get (Reg.SAS_SLOT_STATUS_RATE n) = rate.val
    ∧ Keeps [Reg.SAS_SLOT_STATUS_LINK_UP n, Reg.SAS_SLOT_STATUS_RATE n] s (linkCame n rate.val s) := by
  refine ⟨?_, get_setF_of_lt rate.isLt _, Keeps.setF _ _ (by simp) (Keeps.setF _ _ (by simp) (Keeps.refl _ s))⟩
  rw [linkCame, get_setF_ne _ _ _ _ (by simp only [Field.key, Reg.SAS_SLOT_STATUS_RATE, Reg.SAS_SLOT_STATUS_LINK_UP]; omega),
    get_setF_one rfl]

/-! The firmware's command ring -/

/-- Where the next entry of the firmware's command ring stands. -/
def State.fwEntryAt (s : State) : Nat := s.get64 Reg.SAS_FW_BASE_LO_BASE Reg.SAS_FW_BASE_HI_BASE + 32 * s.get Reg.SAS_FW_HEAD_HEAD

/-- The command of an entry that names a physical slot. -/
def State.fwCmd (s : State) : MemCmd :=
  let flags := (s.readByte (s.fwEntryAt + 1)).toNat
  { phys := bits flags 0 7, logical := s.logicalOf (bits flags 0 7), fixed := bitOf flags 7 == 1,
    tag := leNat (s.readBytes (s.fwEntryAt + 2) 2), write := (s.readByte s.fwEntryAt).toNat == 2,
    lba := leNat (s.readBytes (s.fwEntryAt + 8) 8), nblk := leNat (s.readBytes (s.fwEntryAt + 16) 4) + 1, owner := .firmware flags, data := [] }

/-- The ring's head past an entry. -/
def fwFetched (s : State) : State :=
  setF Reg.SAS_FW_HEAD_HEAD ((s.get Reg.SAS_FW_HEAD_HEAD + 1) % (s.get Reg.SAS_FW_CFG_SIZE_M1 + 1)) s

theorem exec_fwCommandEntry_of_open {s : State} (he : s.on Reg.SAS_CTRL_ENABLE = true) (hf : s.on Reg.SAS_FW_CFG_ENABLE = true)
    (hne : s.get Reg.SAS_FW_HEAD_HEAD ≠ s.get Reg.SAS_FW_TAIL_TAIL) (hroom : s.fwOpen < s.fwRoom)
    (hop : (s.readByte s.fwEntryAt).toNat = 1 ∨ (s.readByte s.fwEntryAt).toNat = 2)
    (htag : 0x8000 ≤ s.fwCmd.tag) (hphys : bitOf (s.readByte (s.fwEntryAt + 1)).toNat 7 = 1)
    (hfree : s.openCmdOn s.fwCmd.phys s.fwCmd.tag = none) (hun : s.sas.unopened = [])
    (hlen : leNat (s.readBytes (s.fwEntryAt + 16) 4) ≤ 255) (haw : s.awake s.fwCmd.phys = true) :
    exec .fwCommandEntry s = .next (after (openCmd s.fwCmd (fwFetched s))) := by
  have hop' : ¬ ((s.readByte s.fwEntryAt).toNat ≠ 1 ∧ (s.readByte s.fwEntryAt).toNat ≠ 2) := by omega
  have hhead : (s.get Reg.SAS_FW_HEAD_HEAD != s.get Reg.SAS_FW_TAIL_TAIL) = true := bne_iff_ne.mpr hne
  have htag' : ¬ leNat (s.readBytes (s.fwEntryAt + 2) 2) < 0x8000 := htag.not_gt
  unfold State.fwCmd at hfree haw
  unfold State.fwCmd
  unfold State.fwEntryAt at *
  dsimp only at hfree haw
  rw [exec_fwCommandEntry, execFwCommandEntry]
  simp only [he, hf, hhead, hroom, hop', htag', hphys, hfree, hun, hlen.not_gt, haw, decide_true, Bool.and_true, Bool.not_true, Bool.false_and,
    Option.isSome_none, List.any_nil, Bool.or_self, Bool.false_eq_true, or_self, if_true, if_false, Nat.add_zero]
  rw [fwFetched]

/-- A command of the firmware opened: its drive command has gone out. -/
def fwOpened (c : MemCmd) (s : State) : State :=
  emit (.drive c.phys (if c.write then .writeFua else .read) c.lba c.nblk [])
    { s with
      sas := { s.sas with cmds := s.sas.cmds ++ [c] }
      sys := { s.sys with lastAccess := Assoc.set s.sys.lastAccess c.phys s.clock } }

theorem sendDrive_of_no_data {c : MemCmd} (h : c.data = []) (s : State) :
    sendDrive c s = emit (.drive c.phys (if c.write then .writeFua else .read) c.lba c.nblk []) s := by
  rw [sendDrive, sendData, State.tagged, h]
  rfl

theorem openCmd_of_firmware {c : MemCmd} {s : State} (hfix : c.fixed = true) (hby : c.byFirmware = true) (hd : c.data = [])
    (he : s.on Reg.SAS_CTRL_ENABLE = true) (ho : s.openOn c.phys < 32) (hp : s.on (Reg.SLT_STATUS_PRESENT c.phys) = true)
    (hl : s.on (Reg.SAS_SLOT_STATUS_LINK_UP c.phys) = true) : openCmd c s = fwOpened c s := by
  have h32 : decide (32 ≤ s.openOn c.phys) = false := decide_eq_false (by omega)
  unfold openCmd
  simp only [hfix, hby, he, h32, hp, hl, if_true, Bool.not_true, Bool.or_self, Bool.false_and, Bool.false_eq_true, if_false]
  rw [sendDrive_of_no_data hd, fwOpened]

theorem openCmdOn_fwOpened {c : MemCmd} {s : State} (h : s.openCmdOn c.phys c.tag = none) : (fwOpened c s).openCmdOn c.phys c.tag = some c := by
  show (s.sas.cmds ++ [c]).find? _ = some c
  rw [List.find?_append, show s.sas.cmds.find? _ = none from h, Option.none_or]
  exact List.find?_cons_of_pos (by simp)

/-! Awake -/

theorem exec_awakeWrite_of_lands {s : State} {slot : Fin 108} {b : Bool} (h : s.lands (0xA1000 + 0x40 * slot.val) = true) :
    exec (.awakeWrite slot b) s
      = .next (after (setF (Reg.SAS_SLOT_CTRL_AWAKE slot.val) (b2n b) (ungate (islandOf (0xA1000 + 0x40 * slot.val)) s))) := by
  rw [exec_awakeWrite, execAwakeWrite, land_eq h]

theorem fwFetched_fields (s : State) :
    (fwFetched s).get Reg.SAS_FW_HEAD_HEAD
      = (s.get Reg.SAS_FW_HEAD_HEAD + 1) % (s.get Reg.SAS_FW_CFG_SIZE_M1 + 1) % 2 ^ Reg.SAS_FW_HEAD_HEAD.width
    ∧ Keeps [Reg.SAS_FW_HEAD_HEAD] s (fwFetched s) := ⟨get_setF_self _ _ _, Keeps.setF _ _ (by simp) (Keeps.refl _ s)⟩

/-- The fields of a slot stand above the ring's head. -/
theorem on_fwFetched {f : Field} (hf : f.key ≠ Reg.SAS_FW_HEAD_HEAD.key) (s : State) : (fwFetched s).on f = s.on f :=
  on_setF_ne _ _ _ _ hf.symm

/-- Settles O12. -/
theorem memberCommandsComplete : Obligations.MemberCommandsComplete := by
  unfold Obligations.MemberCommandsComplete
  refine ⟨fun s slot tag c bs info cap h ho hg => ?own, fun s slot tag b c bs info cap h ho hg => ?firmware,
    fun s slot tag b lba app c bs info cap h ho hw ht => ?failsCheck, fun s slot tag c bs info cap h => ?busy,
    fun s slot tag c h ho h2 h1 => ?timeout, fun s slot hl hc => ?down, fun s slot rate hp hon hr => ?up,
    fun s he hf hne hroom hop htag hphys hfree hun hlen haw ho hp hl => ?entry, fun s slot b hl => ?awake⟩
  case own =>
    refine .of_next (g := after) (exec_memberCommandComplete_of_good h hg) ?_
    rw [memberEnd_own_good ho]
    exact ownEnd_fields h
  case firmware =>
    refine .of_next (g := after) (exec_memberCommandComplete_of_good h hg) ?_
    rw [memberEnd_firmware_good ho]
    exact firmwareEnd_fields h
  case failsCheck =>
    refine .of_next (g := after) (exec_memberCommandComplete_of_t10 h hw ht) ?_
    rw [memberEnd_firmware_t10 ho]
    exact t10End_fields h hw
  case busy => exact exec_memberCommandComplete_of_busy h
  case timeout => exact .of_next (g := after) (exec_memberCommandTimeout_of_alone h ho h2 h1) (timeoutNoted_fields h h1)
  case down => exact .of_next (g := after) (exec_slotLinkDown_of_none hl hc) (linkNoted_fields slot.val s)
  case up => exact .of_next (g := after) (exec_slotLinkUp_of_powered hp hon hr) (linkCame_fields slot.val rate s)
  case entry =>
    have hopen : openCmd s.fwCmd (fwFetched s) = fwOpened s.fwCmd (fwFetched s) := by
      refine openCmd_of_firmware (beq_iff_eq.mpr hphys) rfl rfl ((on_fwFetched (by decide) s).trans he) ho
        ((on_fwFetched ?_ s).trans hp) ((on_fwFetched ?_ s).trans hl) <;>
        simp only [Field.key, Reg.SLT_STATUS_PRESENT, Reg.SAS_SLOT_STATUS_LINK_UP, Reg.SAS_FW_HEAD_HEAD] <;> omega
    obtain ⟨hhead, hkeep⟩ := fwFetched_fields s
    refine .of_next (g := after) (exec_fwCommandEntry_of_open he hf hne hroom hop htag hphys hfree hun hlen haw) ?_
    rw [hopen]
    exact ⟨hhead, ⟨s.fwCmd, openCmdOn_fwOpened (c := s.fwCmd) (s := fwFetched s) hfree, rfl, rfl, rfl⟩, hkeep.of_eq rfl rfl⟩
  case awake =>
    exact .of_next (g := after) (exec_awakeWrite_of_lands hl)
      ⟨on_setF_b2n rfl b _, Keeps.setF _ _ (by simp) (Keeps.of_ungate (i := islandOf (0xA1000 + 0x40 * slot.val)) (Keeps.refl _ _))⟩

end Sys2Proof.Machine
end

section
/-! Held pieces, escalations, rebuild frontiers and grazing (R102, R150, R154, R163, R167, R168, R172, R174, R179): the obligation O14. -/

open Sys2Proof

namespace Sys2Proof.Machine

/-! Held pieces -/

/-- The firmware's answer for a slot stands in SAS_WAKE_RETRY. -/
def wakeAnswered (slot deny : Nat) (s : State) : State :=
  setF Reg.SAS_WAKE_RETRY_DENY deny (setF Reg.SAS_WAKE_RETRY_SLOT slot (ungate (islandOf 0xA0020) s))

/-- Held pieces of a slot whose drive has been woken are counted for the array (R180). -/
def wakeCounted (slot : Nat) (t : State) : State :=
  match t.arrayOf (t.logicalOf slot) with
  | some a => when (t.awake slot && !(t.heldOn slot).isEmpty) (stat a 10 1) t
  | none => t

theorem exec_wakeRetry_of_lands {s : State} {slot : Fin 108} (hl : s.lands 0xA0020 = true) : exec (.wakeRetry slot) s
    = .next (after (forEach ((wakeCounted slot.val (wakeAnswered slot.val 0 s)).heldOn slot.val) servePiece
        (wakeCounted slot.val (wakeAnswered slot.val 0 s)))) := by
  rw [exec_wakeRetry, execWakeRetry, land_eq hl]
  rfl

theorem wakeCounted_of_none {t : State} {slot : Nat} (h : t.heldOn slot = []) : wakeCounted slot t = t := by
  unfold wakeCounted
  rw [h]
  split
  · rw [List.isEmpty_nil, Bool.not_true, Bool.and_false]
    rfl
  · rfl

theorem wakeCounted_of_awake {t : State} {slot n : Nat} (haw : t.awake slot = true) (h : t.heldOn slot ≠ [])
    (hn : t.arrayOf (t.logicalOf slot) = some n) : wakeCounted slot t = stat n 10 1 t := by
  unfold wakeCounted
  rw [hn, haw, List.isEmpty_eq_false_iff.mpr h]
  rfl

theorem exec_wakeDeny_of_none {s : State} {slot : Fin 108} (hl : s.lands 0xA0020 = true) (h : s.heldOn slot.val = []) :
    exec (.wakeDeny slot) s = .next (after (wakeAnswered slot.val 1 s)) := by
  have hheld : (wakeAnswered slot.val 1 s).heldOn slot.val = [] := h
  unfold wakeAnswered at *
  rw [exec_wakeDeny, execWakeDeny, land_eq hl]
  dsimp only
  rw [hheld, forEach, List.foldl_nil]

theorem exec_wakeDeny_of_one {s : State} {slot : Fin 108} {p : Nat} {x : Piece} (hl : s.lands 0xA0020 = true) (h : s.heldOn slot.val = [p])
    (hx : s.piece? p = some x) : exec (.wakeDeny slot) s
      = .next (after (pieceEnds p St.budgetDenied (stat x.array 11 1 (wakeAnswered slot.val 1 s)))) := by
  have hheld : (wakeAnswered slot.val 1 s).heldOn slot.val = [p] := h
  have hpiece : (wakeAnswered slot.val 1 s).piece? p = some x := hx
  unfold wakeAnswered at *
  rw [exec_wakeDeny, execWakeDeny, land_eq hl]
  dsimp only
  rw [hheld, forEach, List.foldl_cons, List.foldl_nil, hpiece]

theorem wakeAnswered_fields (slot : Fin 108) (s : State) :
    (wakeAnswered slot.val 1 s).get Reg.SAS_WAKE_RETRY_DENY = 1 ∧ (wakeAnswered slot.val 1 s).get Reg.SAS_WAKE_RETRY_SLOT = slot.val
    ∧ Keeps [Reg.SAS_WAKE_RETRY_DENY, Reg.SAS_WAKE_RETRY_SLOT] s (wakeAnswered slot.val 1 s) := by
  refine ⟨get_setF_one rfl _, (get_setF_ne _ _ _ _ (by decide)).trans (get_setF_of_lt (slot.isLt.trans (by decide)) _), ?_⟩
  exact Keeps.setF _ _ (by simp) (Keeps.setF _ _ (by simp) (Keeps.of_ungate (i := islandOf 0xA0020) (Keeps.refl _ _)))

theorem exec_planRetry_of_lands {s : State} {n : Fin 4} (hl : s.lands (0x40100 + 0x20 * n.val) = true) :
    exec (.planRetry n) s = .next (after (retryHeld n.val (ungate (islandOf (0x40100 + 0x20 * n.val)) s))) := by
  rw [exec_planRetry, execPlanRetry, land_eq hl]

/-! Escalated pieces -/

/-- The firmware's answer for a piece stands in SAS_ESC_DONE. -/
def escAnswered (piece o : Nat) (s : State) : State :=
  setF Reg.SAS_ESC_DONE_OUTCOME o (setF Reg.SAS_ESC_DONE_PIECE piece (ungate (islandOf 0xA00D4) s))

section Escalated
variable {s : State} {piece p : Nat} {x : Piece} (reads : RowReads) (hl : s.lands 0xA00D4 = true)
  (h : s.sas.pieces.find? (fun p => p.2.state == 6 && p.1 % 2 ^ 24 == piece % 2 ^ 24) = some (p, x))
include hl h

theorem exec_escDone_of_found {o : Fin 4} {k : Nat} (ho : o.val = k) : exec (.escDone piece o reads) s = .next (
    let t := escAnswered piece k s
    let content (m : Nat) : Option (List Block) := (t.geo x.array).contentOf x.row reads (t.erasedIn x.array x.row) x.nblk m
    if k = 0 then
      let data := (content ((t.geo x.array).memberOf x.row (.data x.d))).getD ((List.range x.nblk).map (fun i => t.freeAt i 32768))
      after (pieceLanded p data content (useFrees x.nblk (onPiece p (fun y => { y with degraded := true }) t)))
    else if k = 2 then after (servePiece p (onPiece p (fun y => { y with failed := [], reason := 0, degraded := false }) t))
    else after (pieceLost p t)) := by
  subst ho
  have hfind : (escAnswered piece o.val s).sas.pieces.find? (fun p => p.2.state == 6 && p.1 % 2 ^ 24 == piece % 2 ^ 24) = some (p, x) := h
  rw [exec_escDone, execEscDone, land_eq hl]
  unfold escAnswered at *
  dsimp only
  rw [hfind]

end Escalated

/-! Frontiers -/

theorem frontierEnabled_fields (k : Nat) (s : State) :
    (enableFrontier k s).get (Reg.SAS_RBD_CFG_ENABLE k) = 1 ∧ (enableFrontier k s).get (Reg.SAS_RBD_CFG_DONE k) = 0
    ∧ (enableFrontier k s).win k = 0
    ∧ Keeps [Reg.SAS_RBD_CFG_ENABLE k, Reg.SAS_RBD_CFG_DONE k, Reg.SAS_RBD_WIN_LO_WIN k, Reg.SAS_RBD_WIN_HI_WIN k] s (enableFrontier k s) := by
  have he : (Reg.SAS_RBD_CFG_ENABLE k).key = (0xA0200 + 0x20 * k) * 32 := rfl
  have hd : (Reg.SAS_RBD_CFG_DONE k).key = (0xA0200 + 0x20 * k) * 32 + 30 := rfl
  have hlo : (Reg.SAS_RBD_WIN_LO_WIN k).key = (0xA020C + 0x20 * k) * 32 := rfl
  have hhi : (Reg.SAS_RBD_WIN_HI_WIN k).key = (0xA0210 + 0x20 * k) * 32 := rfl
  refine ⟨get_setF_one rfl _, ?_, ?_, ?_⟩
  · rw [enableFrontier, get_setF_ne _ _ _ _ (by omega), get_setF_zero]
  · rw [State.win, State.get64, enableFrontier, get_setF_ne _ _ _ _ (by omega), get_setF_ne _ _ _ _ (by omega),
      get_setF_ne _ _ _ _ (by omega), get_setF_ne _ _ _ _ (by omega)]
    unfold set64
    rw [get_setF_self, Nat.zero_div, Nat.zero_mod, get_setF_ne _ _ _ _ (by omega), get_setF_self]
    simp
  · exact Keeps.setF _ _ (by simp) (Keeps.setF _ _ (by simp) (Keeps.setF _ _ (by simp) (Keeps.setF _ _ (by simp) (Keeps.refl _ s))))

theorem exec_frontierEnable_true {s : State} {k : Fin 8} (hl : s.lands (0xA0200 + 0x20 * k.val) = true) :
    exec (.frontierEnable k true) s = .next (enableFrontier k.val (ungate (islandOf (0xA0200 + 0x20 * k.val)) s)) := by
  rw [exec_frontierEnable, execFrontierEnable, land_eq hl, if_pos rfl]

theorem exec_frontierEnable_false {s : State} {k : Fin 8} (hl : s.lands (0xA0200 + 0x20 * k.val) = true) :
    exec (.frontierEnable k false) s
      = .next (after (setF (Reg.SAS_RBD_CFG_ENABLE k.val) 0 (ungate (islandOf (0xA0200 + 0x20 * k.val)) s))) := by
  rw [exec_frontierEnable, execFrontierEnable, land_eq hl, if_neg Bool.false_ne_true]

section Row
variable {s : State} {k : Fin 8} {row : Nat} (reads : RowReads) (hr : s.nextRow k.val = some row) (hm : s.mayRebuild k.val row = true)
include hr hm

theorem exec_rebuildRow_of_awake (ha : (s.frontDrives k.val row).filter (fun p => !s.awake p) = []) :
    exec (.rebuildRow k reads) s = .next (after (rebuildRow k.val row reads s)) := by
  rw [exec_rebuildRow, execRebuildRow, hr, rebuildNext]
  simp only [hm, ha, Bool.not_true, Bool.false_eq_true, if_false, List.isEmpty_nil, if_true]

theorem exec_rebuildRow_of_asleep (ha : (s.frontDrives k.val row).filter (fun p => !s.awake p) ≠ []) :
    exec (.rebuildRow k reads) s = .next (after (forEach ((s.frontDrives k.val row).filter (fun p => !s.awake p)) wakeSlot s)) := by
  rw [exec_rebuildRow, execRebuildRow, hr, rebuildNext]
  simp only [hm, List.isEmpty_eq_false_iff.mpr ha, Bool.not_true, Bool.false_eq_true, if_false]

end Row

/-- The array of a frontier, and what its rebuild of a row computes for its member. -/
def State.frontArray (s : State) (k : Nat) : Nat := s.get (Reg.SAS_RBD_CFG_ARRAY k)
def State.frontUnit (s : State) (k row : Nat) (reads : RowReads) : List (Option Block × Block) :=
  (s.geo (s.frontArray k)).rebuilt row reads (s.erasedIn (s.frontArray k) row) (s.frontMember k)

/-- The repair by which a frontier's member takes its unit of a row. -/
def State.frontRepair (s : State) (k row : Nat) (reads : RowReads) : Repair :=
  { array := s.frontArray k, row := row, writes := [(s.frontMember k, 0, (s.frontUnit k row reads).map (fun x => x.2))], frontier := some k }

/-- A row that decodes in full, of which no block failed, becomes one repair. -/
theorem rebuildRow_of_whole {s : State} {k row : Nat} {reads : RowReads}
    (hloss : s.on (Reg.SAS_RBD_CFG_MODE k) = true ∨ s.inLoss (s.frontArray k) row (s.frontMember k) = false)
    (hall : ∀ x ∈ s.frontUnit k row reads, x.1.isSome = true)
    (hbad : (s.geo (s.frontArray k)).badBlocks reads (s.erasedIn (s.frontArray k) row) (s.geo (s.frontArray k)).unitBlocks = []) :
    rebuildRow k row reads s = startRepair (s.frontRepair k row reads) s := by
  have hgo : (!s.on (Reg.SAS_RBD_CFG_MODE k) && s.inLoss (s.frontArray k) row (s.frontMember k)) = false := by
    rcases hloss with h | h <;> simp [h]
  have hmissing : (s.frontUnit k row reads).zipIdx.filter (fun x => x.1.1.isNone) = [] := by
    refine List.filter_eq_nil_iff.mpr fun x hx => ?_
    simp [Option.isSome_iff_ne_none.mp (hall x.1 (List.fst_mem_of_mem_zipIdx hx))]
  have hlose (v n d : Nat) : loseBlocks v n row d [] s = s := rfl
  unfold State.frontRepair
  unfold State.frontUnit at *
  unfold State.frontArray at *
  unfold rebuildRow
  simp only [hgo, Bool.false_eq_true, if_false, hmissing, List.map_nil, hbad, List.filter_nil]
  split <;> rfl

theorem rebuildRow_of_loss {s : State} {k row : Nat} {reads : RowReads} (hmode : s.on (Reg.SAS_RBD_CFG_MODE k) = false)
    (hloss : s.inLoss (s.frontArray k) row (s.frontMember k) = true) :
    rebuildRow k row reads s = queueUpdates [s.lostRowUpdate (s.frontArray k) row (s.lostUnits (s.frontArray k) row)]
      (loseUnits (s.frontArray k) row (s.lostUnits (s.frontArray k) row) s) := by
  unfold State.frontArray at *
  unfold rebuildRow
  simp only [hmode, hloss, Bool.not_false, Bool.and_self, if_true]

/-! What a CONFIG message and records in header areas leave -/

theorem sas_sendConfig (what : List Nat) (s : State) : (sendConfig what s).sas = s.sas := by
  unfold sendConfig sendMir passStream
  split_ifs <;> rfl

theorem keeps_sendConfig {fs : List Field} {s t : State} (what : List Nat) (h : Keeps fs s t) (hf : Reg.FOV_MIR_TX_CNT.key ∈ fs.map Field.key) :
    Keeps fs s (sendConfig what t) := by
  unfold sendConfig
  split_ifs
  · exact keeps_sendMir h hf
  · exact h

/-- Records in header areas are only sent. -/
theorem writeRecords_sent (n : Nat) (slots : List Nat) (s : State) : ∃ o, writeRecords n slots s = { s with out := o } := by
  have hall (l : List Nat) (t : State) : ∃ o, forEach l (fun p t => emit (.headerRecord p (t.headerRecord n)) t) t = { t with out := o } := by
    unfold forEach
    induction l generalizing t with
    | nil => exact ⟨t.out, rfl⟩
    | cons p l ih =>
      obtain ⟨o, ho⟩ := ih (emit (.headerRecord p (t.headerRecord n)) t)
      exact ⟨o, by rw [List.foldl_cons, ho]; rfl⟩
  exact hall _ s

theorem keeps_writeRecords {fs : List Field} {s t : State} (n : Nat) (slots : List Nat) (h : Keeps fs s t) : Keeps fs s (writeRecords n slots t) := by
  obtain ⟨o, ho⟩ := writeRecords_sent n slots t
  rw [ho]
  exact h.of_eq rfl rfl

theorem sas_writeRecords (n : Nat) (slots : List Nat) (s : State) : (writeRecords n slots s).sas = s.sas := by
  obtain ⟨o, ho⟩ := writeRecords_sent n slots s
  rw [ho]

/-! Checkpoints -/

/-- A frontier's checkpoint in MRAM and in its target's header area (R168). -/
def checkpointKept (k : Nat) (s : State) : State :=
  when (s.awake (s.frontTarget k)) (fun u => emit (.headerRecord (s.frontTarget k) (u.headerRecord (s.get (Reg.SAS_RBD_CFG_ARRAY k)))) u)
    { s with sas := { s.sas with
        checkpoints := Assoc.set s.sas.checkpoints k (s.front k), lastCheckpoint := Assoc.set s.sas.lastCheckpoint k s.clock } }

theorem exec_rebuildCheckpoint_of_enabled {s : State} {k : Fin 8} (h : s.on (Reg.SAS_RBD_CFG_ENABLE k.val) = true) :
    exec (.rebuildCheckpoint k) s = .next (sendConfig [7, k.val, s.front k.val] (checkpointKept k.val s)) := by
  rw [exec_rebuildCheckpoint, execRebuildCheckpoint, if_pos h, checkpointKept]

theorem checkpointKept_fields (k : Nat) (what : List Nat) (s : State) :
    Assoc.find (sendConfig what (checkpointKept k s)).sas.checkpoints k = some (s.front k)
    ∧ Assoc.find (sendConfig what (checkpointKept k s)).sas.lastCheckpoint k = some s.clock
    ∧ Keeps [Reg.FOV_MIR_TX_CNT] s (sendConfig what (checkpointKept k s)) := by
  have hsas : (checkpointKept k s).sas = { s.sas with
      checkpoints := Assoc.set s.sas.checkpoints k (s.front k), lastCheckpoint := Assoc.set s.sas.lastCheckpoint k s.clock } :=
    when_of_eq _ State.sas rfl
  refine ⟨?_, ?_, keeps_sendConfig _ ((Keeps.refl _ s).of_eq (when_of_eq _ State.regs rfl) (when_of_eq _ State.mem rfl)) (by simp)⟩
  · rw [sas_sendConfig, hsas, Assoc.find_set, if_pos rfl]
  · rw [sas_sendConfig, hsas, Assoc.find_set, if_pos rfl]

/-! Grazing -/

theorem care_of_sas {s t : State} (h : t.sas = s.sas) (n : Nat) : t.care n = s.care n := by rw [State.care, h, State.care]

theorem care_onCare (n : Nat) (f : ArrayCare → ArrayCare) (s : State) : (onCare n f s).care n = f (s.care n) := by
  show Assoc.getD (Assoc.set s.sas.arrays n (f (s.care n))) n {} = f (s.care n)
  rw [Assoc.getD, Assoc.find_set, if_pos rfl]
  rfl

theorem keeps_onCare {fs : List Field} {s t : State} (n : Nat) (f : ArrayCare → ArrayCare) (h : Keeps fs s t) : Keeps fs s (onCare n f t) :=
  h.of_eq rfl rfl

/-- The next row of a graze after a step of 64 rows. -/
def State.grazeNext (s : State) (n key : Nat) : Nat :=
  if Assoc.getD (s.care n).next key 0 + 64 < (s.geo n).rows then Assoc.getD (s.care n).next key 0 + 64 else 0

theorem next_advanceGraze (n key : Nat) (s : State) : Assoc.getD ((advanceGraze n key s).care n).next key 0 = s.grazeNext n key := by
  unfold advanceGraze State.grazeNext
  dsimp only
  rw [care_of_sas ((sas_writeRecords _ _ _).trans (sas_sendConfig _ _))]
  by_cases h : Assoc.getD (s.care n).next key 0 + 64 < (s.geo n).rows
  · rw [if_pos h, if_pos h, care_onCare, Assoc.getD, Assoc.find_set, if_pos rfl]
    rfl
  · rw [if_neg h, if_neg h, care_onCare, Assoc.getD, Assoc.find_set, if_pos rfl]
    rfl

theorem keeps_advanceGraze (n key : Nat) (s : State) : Keeps [Reg.FOV_MIR_TX_CNT] s (advanceGraze n key s) := by
  unfold advanceGraze
  dsimp only
  refine keeps_writeRecords _ _ (keeps_sendConfig _ ?_ (by simp))
  by_cases h : Assoc.getD (s.care n).next key 0 + 64 < (s.geo n).rows
  · rw [if_pos h]
    exact keeps_onCare _ _ (Keeps.refl _ s)
  · rw [if_neg h]
    exact keeps_onCare _ _ (Keeps.refl _ s)

theorem grazeRows_of_no_reads (n : Nat) (grp : Option Nat) (rows : List Nat) (s : State) : grazeRows n grp rows [] s = s := by
  unfold grazeRows
  exact forEach_of_fixed fun _ _ => rfl

/-- A step of a group's graze that shows no mismatch: the pointer moves, and the rows that it skips and checks are noted. -/
theorem grazeStep_local (n k : Nat) (s : State) : ∃ (skipped : ArrayCare → List (Nat × Nat)) (count : Nat),
    grazeStep n (some k) (rowsTwice [] []) s = stat n 0 count (onCare n (fun c => { c with skipped := skipped c }) (advanceGraze n k s)) := by
  unfold grazeStep
  dsimp only
  rw [show rowsTwice [] [] = [] from rfl, grazeRows_of_no_reads]
  exact ⟨fun c => c.skipped.filter (fun p => p.1 != k) ++ _, _, rfl⟩

theorem exec_grazeStep_of_awake {s : State} {n : Fin 4} {k : Fin 8} (hg : s.mayGraze n.val (some k.val) = true)
    (ha : s.membersAwake n.val ((s.geo n.val).grazed (some k.val)) = true) :
    exec (.grazeStep n (some k) [] []) s = .next (after (grazeStep n.val (some k.val) (rowsTwice [] []) s)) := by
  rw [exec_grazeStep, execGrazeStep]
  simp only [Option.map_some, hg, ha, Bool.not_true, Bool.false_eq_true, if_false, if_true]

theorem grazeStep_fields (n k : Nat) (s : State) :
    Assoc.getD ((grazeStep n (some k) (rowsTwice [] []) s).care n).next k 0 = s.grazeNext n k
    ∧ Keeps [Reg.FOV_MIR_TX_CNT] s (grazeStep n (some k) (rowsTwice [] []) s) := by
  obtain ⟨skipped, count, h⟩ := grazeStep_local n k s
  rw [h]
  refine ⟨?_, keeps_onCare _ _ (keeps_onCare _ _ (keeps_advanceGraze n k s))⟩
  rw [stat, care_onCare, care_onCare]
  exact next_advanceGraze n k s

/-! Grazes resumed and overdue -/

theorem mem_remove {l : List Nat} {x y : Nat} : y ∈ remove l x ↔ y ∈ l ∧ y ≠ x := by simp [remove]

theorem exec_grazeResume_eq (n : Fin 4) (k : Fin 9) (s : State) :
    exec (.grazeResume n k) s = .next (onCare n.val (fun c => { c with yielded := remove c.yielded k.val }) s) := by
  rw [exec_grazeResume, execGrazeResume]

theorem grazeResumed_fields (n k : Nat) (s : State) {t : State} (ht : t = onCare n (fun c => { c with yielded := remove c.yielded k }) s) :
    k ∉ (t.care n).yielded ∧ (∀ j, j ≠ k → (j ∈ (t.care n).yielded ↔ j ∈ (s.care n).yielded)) ∧ Keeps [] s t := by
  rw [ht, care_onCare]
  exact ⟨fun h => (mem_remove.mp h).2 rfl, fun j hj => ⟨fun h => (mem_remove.mp h).1, fun h => mem_remove.mpr ⟨h, hj⟩⟩,
    keeps_onCare _ _ (Keeps.refl _ s)⟩

/-- The condition of a group's graze looked at (R179). -/
def overdueSeen (n k : Nat) (s : State) : State :=
  onCare n (fun c => { c with overdue := if s.on (Reg.STP_ARRAY_CFG_VALID n) && s.grazeOverdue n k then addOnce c.overdue k else remove c.overdue k }) s

theorem exec_grazeOverdue_local (n : Fin 4) (k : Fin 8) (s : State) : exec (.grazeOverdue n k false) s = .next (overdueSeen n.val k.val s) := by
  rw [exec_grazeOverdue, execGrazeOverdue, overdueSeen]
  rfl

theorem overdueSeen_fields (n k : Nat) (s : State) :
    (k ∈ ((overdueSeen n k s).care n).overdue ↔ s.on (Reg.STP_ARRAY_CFG_VALID n) = true ∧ s.grazeOverdue n k = true)
    ∧ Keeps [] s (overdueSeen n k s) := by
  refine ⟨?_, keeps_onCare _ _ (Keeps.refl _ s)⟩
  rw [overdueSeen, care_onCare, ← Bool.and_eq_true]
  dsimp only
  by_cases h : (s.on (Reg.STP_ARRAY_CFG_VALID n) && s.grazeOverdue n k) = true
  · rw [if_pos h]
    exact ⟨fun _ => h, fun _ => mem_addOnce _ _⟩
  · rw [if_neg h]
    exact ⟨fun hk => absurd rfl (mem_remove.mp hk).2, fun hk => absurd hk h⟩

/-! The cases of a wake and of an escalation together -/

theorem wakeRetry_cases {s : State} {slot : Fin 108} (hl : s.lands 0xA0020 = true) :
    ((wakeAnswered slot.val 0 s).heldOn slot.val = [] → exec (.wakeRetry slot) s = .next (after (wakeAnswered slot.val 0 s)))
    ∧ ∀ n, (wakeAnswered slot.val 0 s).awake slot.val = true → (wakeAnswered slot.val 0 s).heldOn slot.val ≠ [] →
        (wakeAnswered slot.val 0 s).arrayOf ((wakeAnswered slot.val 0 s).logicalOf slot.val) = some n →
        exec (.wakeRetry slot) s
          = .next (after (forEach ((wakeAnswered slot.val 0 s).heldOn slot.val) servePiece (stat n 10 1 (wakeAnswered slot.val 0 s)))) := by
  refine ⟨fun h => ?_, fun n haw h hn => ?_⟩
  · rw [exec_wakeRetry_of_lands hl, wakeCounted_of_none h, h, forEach, List.foldl_nil]
  · rw [exec_wakeRetry_of_lands hl, wakeCounted_of_awake haw h hn]
    rfl

theorem escDone_cases {s : State} {piece p : Nat} {x : Piece} (reads : RowReads) (hl : s.lands 0xA00D4 = true)
    (h : s.sas.pieces.find? (fun p => p.2.state == 6 && p.1 % 2 ^ 24 == piece % 2 ^ 24) = some (p, x)) :
    (∀ data, ((escAnswered piece 0 s).geo x.array).contentOf x.row reads ((escAnswered piece 0 s).erasedIn x.array x.row) x.nblk
        (((escAnswered piece 0 s).geo x.array).memberOf x.row (.data x.d)) = some data →
      exec (.escDone piece 0 reads) s = .next (after (pieceLanded p data
        (fun i => ((escAnswered piece 0 s).geo x.array).contentOf x.row reads ((escAnswered piece 0 s).erasedIn x.array x.row) x.nblk i)
        (useFrees x.nblk (onPiece p (fun y => { y with degraded := true }) (escAnswered piece 0 s))))))
    ∧ exec (.escDone piece 1 reads) s = .next (after (pieceLost p (escAnswered piece 1 s)))
    ∧ exec (.escDone piece 2 reads) s
        = .next (after (servePiece p (onPiece p (fun y => { y with failed := [], reason := 0, degraded := false }) (escAnswered piece 2 s)))) := by
  refine ⟨fun data hd => ?_, ?_, ?_⟩
  · rw [exec_escDone_of_found reads hl h (k := 0) rfl, if_pos rfl]
    dsimp only
    rw [hd, Option.getD_some]
  · rw [exec_escDone_of_found reads hl h (k := 1) rfl, if_neg (by decide), if_neg (by decide)]
  · rw [exec_escDone_of_found reads hl h (k := 2) rfl, if_neg (by decide), if_pos rfl]

/-- Settles O14. -/
theorem repairCommandsComplete : Obligations.RepairCommandsComplete := by
  unfold Obligations.RepairCommandsComplete
  refine ⟨fun s slot hl => wakeRetry_cases hl, fun s slot hl h => ?denyNone, fun s slot p x hl h hx => ?denyOne,
    fun s n hl => ?plan, fun s piece p x reads hl h => escDone_cases reads hl h, fun s k hl => ⟨?enable, ?disable⟩,
    fun s k row reads hr hm ha hloss hall hbad => ?whole, fun s k row reads hr hm ha hmode hloss => ?loss, fun s k row reads hr hm ha => ?asleep,
    fun s k he => ?checkpoint, fun s n k hg ha => ?step, fun s n k => ?resume, fun s n k => ?overdue⟩
  case denyNone => exact .of_next (g := after) (exec_wakeDeny_of_none hl h) (wakeAnswered_fields slot s)
  case denyOne => exact exec_wakeDeny_of_one hl h hx
  case plan => exact exec_planRetry_of_lands hl
  case enable =>
    obtain ⟨hon, hdone, hwin, hkeep⟩ := frontierEnabled_fields k.val (ungate (islandOf (0xA0200 + 0x20 * k.val)) s)
    exact .of_next (exec_frontierEnable_true hl) ⟨hon, hdone, hwin, hkeep.of_ungate⟩
  case disable =>
    exact .of_next (g := after) (exec_frontierEnable_false hl)
      ⟨get_setF_zero _ _, Keeps.setF _ _ (by simp) (Keeps.of_ungate (i := islandOf (0xA0200 + 0x20 * k.val)) (Keeps.refl _ _))⟩
  case whole =>
    exact .of_next (g := after) ((exec_rebuildRow_of_awake reads hr hm ha).trans
      (congrArg (fun t => Host.Outcome.next (after t)) (rebuildRow_of_whole hloss hall hbad))) rfl
  case loss =>
    exact .of_next (g := after) ((exec_rebuildRow_of_awake reads hr hm ha).trans
      (congrArg (fun t => Host.Outcome.next (after t)) (rebuildRow_of_loss hmode hloss))) rfl
  case asleep => exact exec_rebuildRow_of_asleep reads hr hm ha
  case checkpoint => exact .of_next (exec_rebuildCheckpoint_of_enabled he) (checkpointKept_fields k.val _ s)
  case step => exact .of_next (g := after) (exec_grazeStep_of_awake hg ha) (grazeStep_fields n.val k.val s)
  case resume => exact .of_next (exec_grazeResume_eq n k s) (grazeResumed_fields n.val k.val s rfl)
  case overdue => exact .of_next (exec_grazeOverdue_local n k s) (overdueSeen_fields n.val k.val s)

end Sys2Proof.Machine
end

section
/-! Writes on their way into the cache (R113, R115, R116, R183, R193): the obligation O15. -/

open Sys2Proof

namespace Sys2Proof.Machine

/-! Data taken in -/

/-- The lines that a write's data lands in, with their places in the command. -/
def landedBuf (blocks : List HostBlock) : List (Nat × Line) :=
  ((blocks.map (fun b => ({ data := b.data } : Line))).zipIdx).map (fun l => (l.2, l.1))

/-- A write whose data has come in. -/
def ingested (n : Nat) (c : Cmd) (blocks : List HostBlock) (s : State) : State :=
  onCmd n (fun x => { x with moved := true, buf := landedBuf blocks }) (fromHost c.e s)

theorem armed_of_regs {s t : State} (h : t.regs = s.regs) (k : Nat) : t.armed k = s.armed k := by
  rw [State.armed, on_of_regs _ h, get_of_regs _ h, State.armed]

theorem landBlocks_of_unarmed {s : State} (h : s.armed 3 = false) (bs : List Block) :
    landBlocks bs s = (bs.map (fun x => { data := x }), s) := by
  cases bs with
  | nil => rfl
  | cons b t => rw [landBlocks, h]; rfl

theorem exec_hostDataIngest_of_plain {s : State} {qid cid n : Nat} {c : Cmd} {blocks : List HostBlock} (hc : s.cmdOf qid cid = some (n, c))
    (hb : c.begun = true) (hh : c.held = false) (ho : c.e.opcode = 0x21) (hm : c.moved = false) (hbus : s.masters = true)
    (hstop : s.admitStop = false) (hlen : blocks.length = c.e.nlbM1 + 1) (hpi : bitOf c.e.flags 1 = 0) (ha : s.armed 3 = false) :
    exec (.hostDataIngest qid cid blocks) s = .next (ingested n c blocks s) := by
  have hland := landBlocks_of_unarmed (s := fromHost c.e s)
    ((armed_of_regs (view_fromHost State.regs (fun _ _ => rfl) c.e s) 3).trans ha) (blocks.map (fun b => b.data))
  rw [exec_hostDataIngest, execHostDataIngest, hc]
  simp only [hb, hh, ho, hm, hbus, hstop, hlen, hpi, Bool.not_false, Bool.and_true, beq_self_eq_true, if_true, zero_ne_one,
    if_false, hland, List.map_map]
  rfl

theorem ingested_fields {s : State} {n : Nat} {c : Cmd} (blocks : List HostBlock) (h : s.cmd? n = some c) :
    (∃ d, (ingested n c blocks s).cmd? n = some d ∧ d.moved = true ∧ d.buf.map (fun l => l.2.data) = blocks.map (fun b => b.data) ∧ d.e = c.e)
    ∧ Keeps [] s (ingested n c blocks s) := by
  have hfound : (fromHost c.e s).cmd? n = some c := (view_fromHost (State.cmd? · n) (fun _ _ => rfl) c.e s).trans h
  refine ⟨⟨_, cmd?_onCmd_self hfound _, rfl, ?_, rfl⟩, (Keeps.refl _ s).of_eq ?_ ?_⟩
  · simp only [landedBuf, List.map_map]
    rw [show ((fun l : Nat × Line => l.2.data) ∘ fun l : Line × Nat => (l.2, l.1)) = (fun l : Line => l.data) ∘ Prod.fst from rfl,
      ← List.map_map, List.zipIdx_map_fst, List.map_map]
    rfl
  · exact (onCmd_view State.regs (fun _ _ => rfl) _ _ _).trans (view_fromHost State.regs (fun _ _ => rfl) c.e s)
  · exact (onCmd_view State.mem (fun _ _ => rfl) _ _ _).trans (view_fromHost State.mem (fun _ _ => rfl) c.e s)

/-! The commit -/

theorem exec_writeCommit_of_ready {s : State} {qid cid fails n : Nat} {c : Cmd} (hc : s.cmdOf qid cid = some (n, c)) (ho : c.e.opcode = 0x21)
    (hm : c.moved = true) (hcom : c.committed = false) (hwt : s.jnl.toWt = false)
    (hfol : s.mustFollow n c.e.vol c.e.slba (c.e.nlbM1 + 1) = false) (href : s.writeRefused c.e.vol c.e.slba (c.e.nlbM1 + 1) = false)
    (hst : s.get Reg.JNL_STATUS_LEVEL = 1 → s.stagingFits ((c.e.nlbM1 + 2) * (fails + 1) - 1) = true ∧ ∀ l ∈ c.buf, l.2.bad = false) :
    exec (.writeCommit qid ⟨cid, fails⟩) s
      = .next (after (endWrite n (onCmd n (fun x => { x with buf := [] })
          (commitBlocks n c.e.vol c.e.slba (c.buf.map Prod.snd) (bitOf c.e.flags 2 == 1) fails s)))) := by
  have hfit : (s.get Reg.JNL_STATUS_LEVEL == 1 && !s.stagingFits ((c.e.nlbM1 + 2) * (fails + 1) - 1)) = false := by
    by_cases h : s.get Reg.JNL_STATUS_LEVEL = 1
    · simp [(hst h).1]
    · simp [h]
  have hgood : (s.get Reg.JNL_STATUS_LEVEL == 1 && c.buf.any (fun l => l.2.bad)) = false := by
    by_cases h : s.get Reg.JNL_STATUS_LEVEL = 1
    · rw [List.any_eq_false.mpr fun l hl => by simp [(hst h).2 l hl], Bool.and_false]
    · simp [h]
  rw [exec_writeCommit, execWriteCommit, hc]
  simp only [ho, hm, hcom, hwt, hfol, href, hfit, hgood, beq_self_eq_true, Bool.not_false, Bool.and_true, Bool.not_true, Bool.or_self,
    Bool.false_eq_true, if_false]

/-! The level -/

theorem exec_forceWtWrite_of_lands {s : State} {v : Bool} (h : s.lands 0x50000 = true) :
    exec (.forceWtWrite v) s = .next (reselect (setF Reg.JNL_CTRL_FORCE_WT (b2n v) (ungate (islandOf 0x50000) s))) :=
  exec_of_lands h (exec_forceWtWrite s)

/-- The level falls to WRITE_THROUGH (R113). -/
def wtReached (s : State) : State := setLevel 2 { s with jnl := { s.jnl with toWt := false } }

theorem exec_writeThroughReached_of_clean {s : State} (ht : s.jnl.toWt = true) (hc : s.allClean = true) :
    exec .writeThroughReached s = .next (finishAll (releaseHeld (wtReached s)).cmd.wtCmds St.success 0
      { releaseHeld (wtReached s) with cmd := { (releaseHeld (wtReached s)).cmd with wtCmds := [] } }) := by
  have hgo : (s.jnl.toWt && s.allClean) = true := by rw [ht, hc]; rfl
  rw [exec_writeThroughReached, execWriteThroughReached, reachWt, if_pos hgo, wtReached]

theorem wtReached_level (s : State) : (wtReached s).get Reg.JNL_STATUS_LEVEL = 2 := by
  rw [wtReached, setLevel, get_event_ne (by decide) (by decide), get_setF_of_lt (by decide)]

/-- A command leaves no piece and no copy of its own. -/
def workDropped (n : Nat) (s : State) : State :=
  { s with
    sas := { s.sas with pieces := s.sas.pieces.filter (fun p => p.2.cmd != n) }
    fab := { s.fab with copies := s.fab.copies.filter (fun x => x.cmd != n) } }

theorem exec_wtHoldTimeout_of_held {s : State} {qid cid n : Nat} {c : Cmd} (hc : s.cmdOf qid cid = some (n, c)) (hwt : s.jnl.toWt = true)
    (ho : c.e.opcode ∈ [0x21, 0x24, 0x25]) (hcom : c.committed = false) :
    exec (.wtHoldTimeout qid cid) s = .next (after (finish n St.budgetDenied 0 (workDropped n s))) := by
  have hin : [0x21, 0x24, 0x25].contains c.e.opcode = true := List.contains_iff_mem.mpr ho
  rw [exec_wtHoldTimeout, execWtHoldTimeout, hc]
  simp only [hwt, hin, hcom, Bool.not_false, Bool.and_self, if_true]
  rw [workDropped]

theorem workDropped_fields (n : Nat) (s : State) :
    (∀ p ∈ (workDropped n s).sas.pieces, p.2.cmd ≠ n) ∧ (∀ x ∈ (workDropped n s).fab.copies, x.cmd ≠ n) ∧ Keeps [] s (workDropped n s) :=
  ⟨fun _ hp => bne_iff_ne.mp (List.mem_filter.mp hp).2, fun _ hx => bne_iff_ne.mp (List.mem_filter.mp hx).2, (Keeps.refl _ s).of_eq rfl rfl⟩

theorem exec_packHealthyWrite_of_change {s : State} {v : Bool} (hl : s.lands 0x50000 = true) (hv : s.on Reg.JNL_CTRL_PACK_HEALTHY ≠ v) :
    exec (.packHealthyWrite v) s
      = .next (after (reselect (setF Reg.JNL_CTRL_PACK_HEALTHY (b2n v) (ungate (islandOf 0x50000) s)))) := by
  rw [exec_packHealthyWrite, execPackHealthyWrite, land_eq hl, setPackHealthy, if_neg]
  rwa [on_of_regs _ (ungate_regs _ _)]

theorem exec_partnerLiveWrite_of_change {s : State} {v : Bool} (hl : s.lands 0x50000 = true) (hv : s.partnerLive ≠ v) :
    exec (.partnerLiveWrite v) s
      = .next (after (loopAtOnce (if v then reselect (setF Reg.JNL_CTRL_PARTNER_LIVE (b2n v) (ungate (islandOf 0x50000) s))
          else settleWaiting (reselect (setF Reg.JNL_CTRL_PARTNER_LIVE (b2n v) (ungate (islandOf 0x50000) s)))))) := by
  rw [exec_partnerLiveWrite, execPartnerLiveWrite, land_eq hl, setPartnerLive, if_neg]
  rwa [State.partnerLive, on_of_regs _ (ungate_regs _ _)]

theorem exec_replayDoneWrite_of_lands {s : State} (hl : s.lands 0x50000 = true) :
    exec .replayDoneWrite s = .next (after (retryIntents (setF Reg.JNL_CTRL_REPLAY_DONE 1 (ungate (islandOf 0x50000) s)))) := by
  rw [exec_replayDoneWrite, execReplayDoneWrite, land_eq hl]

/-- A flag of JNL_CTRL written by an access that lands. -/
theorem flagWritten_fields {f : Field} (hw : f.width = 1) (v : Bool) (i : Island) (s : State) :
    (setF f (b2n v) (ungate i s)).on f = v ∧ Keeps [f] s (setF f (b2n v) (ungate i s)) :=
  ⟨on_setF_b2n hw v _, Keeps.setF _ _ (by simp) (Keeps.of_ungate (i := i) (Keeps.refl _ _))⟩

/-! Fault injection -/

/-- A fault of a kind armed; kinds 0 and 7 arm none (R186). -/
def injected (k : Nat) (s : State) : State := setF Reg.INT_INJECT_GO (b2n (k != 0 && k != 7)) (setF Reg.INT_INJECT_KIND k s)

theorem exec_intInject_of_lands {s : State} {k : Fin 8} (hl : s.lands 0x60004 = true) :
    exec (.intInject k) s = .next (injected k.val (ungate (islandOf 0x60004) s)) :=
  exec_of_lands hl (exec_intInject s)

theorem injected_fields (k : Fin 8) (i : Island) (s : State) :
    (injected k.val (ungate i s)).get Reg.INT_INJECT_KIND = k.val ∧ (injected k.val (ungate i s)).on Reg.INT_INJECT_GO = (k.val != 0 && k.val != 7)
    ∧ Keeps [Reg.INT_INJECT_KIND, Reg.INT_INJECT_GO] s (injected k.val (ungate i s)) := by
  refine ⟨(get_setF_ne _ _ _ _ (by decide)).trans (get_setF_of_lt k.isLt _), on_setF_b2n rfl _ _, ?_⟩
  exact Keeps.setF _ _ (by simp) (Keeps.setF _ _ (by simp) (Keeps.of_ungate (i := i) (Keeps.refl _ _)))

/-- Settles O15. -/
theorem writePathCompletes : Obligations.WritePathCompletes := by
  unfold Obligations.WritePathCompletes
  refine ⟨fun s qid cid n c blocks hc hb hh ho hm hbus hstop hlen hpi ha hn => ?ingest,
    fun s qid cid fails n c hc ho hm hcom hwt hfol href hst => exec_writeCommit_of_ready hc ho hm hcom hwt hfol href hst,
    fun s v hl => ?force, fun s ht hc => ?reached, fun s qid cid n c hc hwt ho hcom => ?holdEnds, fun s v hl hv => ?pack,
    fun s hl hv => ?live, fun s hl hv => ?gone, fun s hl => ?replayed, fun s k hl => ?inject⟩
  case ingest => exact .of_next (exec_hostDataIngest_of_plain hc hb hh ho hm hbus hstop hlen hpi ha) (ingested_fields blocks hn)
  case force => exact .of_next (g := reselect) (exec_forceWtWrite_of_lands hl) (flagWritten_fields rfl v _ s)
  case reached =>
    exact ⟨wtReached s, exec_writeThroughReached_of_clean ht hc, rfl, rfl, wtReached_level s⟩
  case holdEnds =>
    exact .of_next (g := fun t => after (finish n St.budgetDenied 0 t)) (exec_wtHoldTimeout_of_held hc hwt ho hcom) (workDropped_fields n s)
  case pack =>
    exact .of_next (g := fun t => after (reselect t)) (exec_packHealthyWrite_of_change hl hv) (flagWritten_fields rfl v _ s)
  case live =>
    exact .of_next (g := fun t => after (loopAtOnce (reselect t))) (exec_partnerLiveWrite_of_change (v := true) hl (by simp [hv]))
      (flagWritten_fields rfl true _ s)
  case gone =>
    exact .of_next (g := fun t => after (loopAtOnce (settleWaiting (reselect t)))) (exec_partnerLiveWrite_of_change (v := false) hl (by simp [hv]))
      (flagWritten_fields rfl false _ s)
  case replayed =>
    exact .of_next (g := fun t => after (retryIntents t)) (exec_replayDoneWrite_of_lands hl)
      ⟨get_setF_one rfl _, Keeps.setF _ _ (by simp) (Keeps.of_ungate (i := islandOf 0x50000) (Keeps.refl _ _))⟩
  case inject => exact .of_next (exec_intInject_of_lands hl) (injected_fields k _ s)

end Sys2Proof.Machine
end

section
/-! Write-back, row locks and intents (R120, R121, R124, R126, R129, R132): the obligation O16. -/

open Sys2Proof

namespace Sys2Proof.Machine

/-! Write-backs that are due -/

/-- A row marked as due. -/
def rowMarked (key : Nat) (s : State) : State := { s with jnl := { s.jnl with dueRows := addOnce s.jnl.dueRows key } }

theorem exec_writebackAgeExpiry_of_lines {s : State} {n : Fin 4} {row : Nat} (h : s.rowLines n.val row ≠ []) :
    exec (.writebackAgeExpiry n row) s = .next (rowMarked (rowKey n.val row) s) := by
  rw [exec_writebackAgeExpiry, execWritebackAgeExpiry, List.isEmpty_eq_false_iff.mpr h, if_neg Bool.false_ne_true, rowMarked]

theorem rowDue_of_mem {s : State} {n row : Nat} (h : rowKey n row ∈ s.jnl.dueRows) : s.rowDue n row = true := by
  unfold State.rowDue
  rw [List.contains_iff_mem.mpr h]
  simp only [Bool.true_or]

theorem rowMarked_fields (n row : Nat) (s : State) :
    rowKey n row ∈ (rowMarked (rowKey n row) s).jnl.dueRows ∧ (rowMarked (rowKey n row) s).rowDue n row = true
    ∧ Keeps [] s (rowMarked (rowKey n row) s) := by
  have hmem : rowKey n row ∈ (rowMarked (rowKey n row) s).jnl.dueRows := mem_addOnce _ _
  exact ⟨hmem, rowDue_of_mem hmem, (Keeps.refl _ s).of_eq rfl rfl⟩

theorem exec_writebackStart_of_due {s : State} {n : Fin 4} {row : Nat} (hd : s.rowDue n.val row = true) (hl : s.rowLines n.val row ≠ [])
    (hg : s.rowGated n.val row = false) (hs : s.serviceHolds = false) :
    exec (.writebackStart n row) s = .next (after (startRow n.val row s)) := by
  rw [exec_writebackStart, execWritebackStart]
  simp only [hd, hg, hs, List.isEmpty_eq_false_iff.mpr hl, Bool.not_false, Bool.and_self, if_true]

/-! Row locks -/

theorem lockOf_setLock (key : Nat) (l : Option LockUser × List LockUser) (s : State) : (setLock key l s).lockOf key = l := by
  show Assoc.getD (Assoc.put s.jnl.locks (none, []) key l) key (none, []) = l
  rw [Assoc.getD_put, if_pos rfl]

theorem takeLock_of_free {s : State} {key : Nat} {u : LockUser} {rest : List LockUser} (h : s.lockOf key = (none, u :: rest))
    (hn : s.locksHeld < 65536) : takeLock key s = (setLock key (some u, rest) s, some u) := by
  rw [takeLock, h]
  exact if_pos hn

theorem lockTaken_fields (key : Nat) (u : LockUser) (rest : List LockUser) (s : State) :
    (setLock key (some u, rest) s).lockOf key = (some u, rest) ∧ Keeps [] s (setLock key (some u, rest) s) :=
  ⟨lockOf_setLock _ _ _, (Keeps.refl _ s).of_eq rfl rfl⟩

theorem exec_rowLockGrant_update {s : State} {n : Fin 4} {row u : Nat} {x : Update} {rest : List LockUser}
    (h : s.lockOf (rowKey n.val row) = (none, .update u :: rest)) (hn : s.locksHeld < 65536) (hs : s.serviceHolds = false)
    (hu : s.update? u = some x) (ha : ∀ m ∈ s.updateNeeds x, s.liveMember n.val row m = true → s.awakeMember n.val m = true) :
    exec (.rowLockGrant n row) s = .next (after (grantUpdate u (setLock (rowKey n.val row) (some (.update u), rest) s))) := by
  have hawake : (s.updateNeeds x).filter (fun m => s.liveMember n.val row m && !s.awakeMember n.val m) = [] := by
    refine List.filter_eq_nil_iff.mpr fun m hm => ?_
    by_cases hl : s.liveMember n.val row m = true
    · simp [ha m hm hl]
    · simp [hl]
  rw [exec_rowLockGrant, execRowLockGrant, takeLock_of_free h hn, h]
  simp only [hs, hu, hawake, List.isEmpty_nil, Bool.not_true, Bool.false_eq_true, if_false]

theorem exec_rowLockGrant_repair {s : State} {n : Fin 4} {row r : Nat} {rest : List LockUser}
    (h : s.lockOf (rowKey n.val row) = (none, .repair r :: rest)) (hn : s.locksHeld < 65536) (hs : s.serviceHolds = false) :
    exec (.rowLockGrant n row) s = .next (after (beginRepair r (setLock (rowKey n.val row) (some (.repair r), rest) s))) := by
  rw [exec_rowLockGrant, execRowLockGrant, takeLock_of_free h hn, h]
  simp only [hs, List.isEmpty_nil, Bool.not_true, Bool.false_eq_true, if_false]

/-! Intents -/

theorem exec_intentLanded_of_found {s : State} {i u : Nat} {x : Update}
    (h : s.jnl.updates.find? (fun p => p.2.head == some i && p.2.step == 2) = some (u, x)) :
    exec (.intentLanded i) s = if s.partnerLive then .next (onUpdate u (fun x => { x with step := 3 }) s) else .next (issueJob u s) := by
  rw [exec_intentLanded, execIntentLanded, h]

theorem update?_onUpdate_self {s : State} {u : Nat} {y : Update} (h : s.update? u = some y) (f : Update → Update) :
    (onUpdate u f s).update? u = some (f y) := by
  rw [onUpdate, h]
  show Assoc.find (Assoc.set s.jnl.updates u (f y)) u = some (f y)
  rw [Assoc.find_set, if_pos rfl]

theorem keeps_onUpdate {fs : List Field} {s t : State} (u : Nat) (f : Update → Update) (h : Keeps fs s t) : Keeps fs s (onUpdate u f t) := by
  unfold onUpdate
  split
  · exact h
  · exact h.of_eq rfl rfl

theorem exec_intentRetire_of_retirable {s : State} {i : Nat} (h : s.retirable i = true) :
    exec (.intentRetire i) s = .next (after (retireIntent i s)) := by
  rw [exec_intentRetire, execIntentRetire, if_pos h]

/-- A request of JNL_ALLOC stands. -/
def allocAsked (k : Nat) (s : State) : State :=
  setF Reg.JNL_ALLOC_GO 1 (setF Reg.JNL_ALLOC_RES_VALID 0 (setF Reg.JNL_ALLOC_NEXT k s))

theorem exec_jnlAlloc_of_lands {s : State} {k : Fin 4} (hl : s.lands 0x50024 = true) :
    exec (.jnlAlloc k) s = .next (allocRun (allocAsked k.val (ungate (islandOf 0x50024) s))) := by
  rw [exec_jnlAlloc, execJnlAlloc, land_eq hl, allocAsked]

theorem allocAsked_fields (k : Fin 4) (i : Island) (s : State) :
    (allocAsked k.val (ungate i s)).get Reg.JNL_ALLOC_NEXT = k.val ∧ (allocAsked k.val (ungate i s)).get Reg.JNL_ALLOC_GO = 1
    ∧ (allocAsked k.val (ungate i s)).get Reg.JNL_ALLOC_RES_VALID = 0
    ∧ Keeps [Reg.JNL_ALLOC_NEXT, Reg.JNL_ALLOC_GO, Reg.JNL_ALLOC_RES_VALID] s (allocAsked k.val (ungate i s)) := by
  refine ⟨?_, get_setF_one rfl _, (get_setF_ne _ _ _ _ (by decide)).trans (get_setF_zero _ _), ?_⟩
  · rw [allocAsked, get_setF_ne _ _ _ _ (by decide), get_setF_ne _ _ _ _ (by decide), get_setF_of_lt (k.isLt.trans_eq (by rfl))]
  · exact Keeps.setF _ _ (by simp) (Keeps.setF _ _ (by simp) (Keeps.setF _ _ (by simp) (Keeps.of_ungate (i := i) (Keeps.refl _ _))))

/-! Replay with nothing to restore -/

/-- No image is found, and the mirrored lines become dirty. -/
def replayLoaded (s : State) : State :=
  takeLines (s.jnl.lines.filter (fun l => l.2.mirrored))
    (setF Reg.JNL_IMAGE_VALID 0 (setF Reg.JNL_IMAGE_SEALED 0 (setF Reg.JNL_IMAGE_PRESENT 0 s)))

theorem dirsFail_of_no_images {s : State} (h : s.jnl.images = []) : dirsFail [] s = s := by
  rw [dirsFail, h, List.map_nil, ← h]

theorem loadContent_of_no_images {s : State} (h : s.jnl.images = []) : loadContent none s = replayLoaded s := by
  have hbest : s.bestImage = none := by rw [State.bestImage, h]; rfl
  unfold loadContent replayLoaded showImage
  simp only [h, hbest, List.map_nil, List.find?_nil, List.any_nil]
  rfl

theorem keepImages_of_no_images {s : State} (h : s.jnl.images = []) : keepImages s = sendConfig [8] { s with jnl := { s.jnl with images := [] } } := by
  unfold keepImages
  simp only [h, List.filter_nil, List.map_nil, List.isEmpty_nil]
  rfl

theorem deltaGood_of_mem {s t : State} (h : t.mem = s.mem) (d : Delta) : t.deltaGood d = s.deltaGood d := by
  have hread (a n : Nat) : t.readBytes a n = s.readBytes a n := readBytes_of_mem h a n
  have hblock : t.deltaBlock d = s.deltaBlock d := funext fun b => hread _ _
  rw [State.deltaGood, State.deltaHead, hread, hblock, State.deltaGood, State.deltaHead]

theorem checkDeltas_of_good {s : State} (h : ∀ d ∈ s.fab.deltas, d.freed = true ∨ s.deltaGood d = true) : checkDeltas s = s := by
  rw [checkDeltas, List.filter_eq_nil_iff.mpr fun d hd => by rcases h d hd with hd | hd <;> simp [hd]]
  rfl

theorem restoreStaging_of_none {s : State} (h : s.jnl.staging = []) : restoreStaging s = s := by
  rw [restoreStaging, h]
  rfl

/-- SEQ past the highest one, and the images gone, of which the partner is told. -/
def imagesDropped (s : State) : State :=
  sendConfig [8] { setF Reg.JNL_SEQ_SEQ (s.highestSeq + 1) (replayLoaded s) with
    jnl := { (setF Reg.JNL_SEQ_SEQ (s.highestSeq + 1) (replayLoaded s)).jnl with images := [] } }

/-- The replay's end. -/
def replayEnded (s : State) : State :=
  { setF Reg.JNL_CTRL_REPLAY_DONE 1 (imagesDropped s) with fov := { (imagesDropped s).fov with
      replayed := true
      tReplay := if (imagesDropped s).mode = Mode.takeover then (s.clock - s.fov.detectedAt) / 1000 else (imagesDropped s).fov.tReplay } }

theorem exec_journalReplay_of_nothing {s : State} (hm : s.modeIn [Mode.waking, Mode.takeover] = true)
    (hr : s.on Reg.JNL_CTRL_REPLAY_DONE = false) (hh : s.on Reg.FOV_CTRL_HOLD = false) (hi : s.jnl.intents = []) (hst : s.jnl.staging = [])
    (him : s.jnl.images = []) (hd : ∀ d ∈ s.fab.deltas, d.freed = true ∨ s.deltaGood d = true) :
    exec (.journalReplay [] [] [] [] none) s = .next (after (retryIntents (unexpose (replayEnded s)))) := by
  have hload : checkDeltas (restoreStaging (loadContent none (dirsFail [] s))) = replayLoaded s := by
    rw [dirsFail_of_no_images him, loadContent_of_no_images him, restoreStaging_of_none (s := replayLoaded s) hst]
    exact checkDeltas_of_good fun d hmem => (hd d hmem).imp_right fun h => (deltaGood_of_mem (t := replayLoaded s) (s := s) rfl d).trans h
  have hnone : (replayLoaded s).jnl.intents = [] := hi
  rw [exec_journalReplay, execJournalReplay]
  simp only [hm, hr, hh, Bool.true_or, Bool.not_false, Bool.and_self, if_true, hload, hnone, List.map_nil, List.filter_nil, sortBy, forEach,
    List.foldl_nil]
  rw [keepImages_of_no_images (s := setF Reg.JNL_SEQ_SEQ (s.highestSeq + 1) (replayLoaded s)) him, replayEnded, imagesDropped]

theorem jnl_sendConfig (what : List Nat) (s : State) : (sendConfig what s).jnl = s.jnl := by
  unfold sendConfig sendMir passStream
  split_ifs <;> rfl

theorem mem_sendConfig (what : List Nat) (s : State) : (sendConfig what s).mem = s.mem := by
  unfold sendConfig
  split_ifs
  · exact mem_sendMir _ _ _
  · rfl

theorem replayEnded_fields {s : State} :
    (replayEnded s).get Reg.JNL_CTRL_REPLAY_DONE = 1 ∧ (replayEnded s).fov.replayed = true
    ∧ (replayEnded s).get Reg.JNL_SEQ_SEQ = (s.highestSeq + 1) % 2 ^ Reg.JNL_SEQ_SEQ.width
    ∧ (replayEnded s).jnl.images = [] ∧ (∀ a, (replayEnded s).readByte a = s.readByte a) := by
  refine ⟨get_setF_one (f := Reg.JNL_CTRL_REPLAY_DONE) rfl (imagesDropped s), rfl, ?_, ?_, fun a => readByte_of_mem a ?_⟩
  · refine (get_setF_ne Reg.JNL_CTRL_REPLAY_DONE Reg.JNL_SEQ_SEQ 1 (imagesDropped s) (by decide)).trans ?_
    rw [imagesDropped, get_sendConfig (by decide)]
    exact get_setF_self _ _ (replayLoaded s)
  · exact (congrArg JnlPart.images (jnl_sendConfig _ _)).trans rfl
  · exact (mem_sendConfig _ _).trans rfl

/-! Data on its way to the host -/

theorem view_scatter {α : Type} (v : State → α) (hv : ∀ (s : State) o, v { s with out := o } = v s) (parts : List (Nat × Nat)) (off : Nat)
    (bs : List Nat) (s : State) : v (scatter parts off bs s) = v s := by
  induction parts generalizing off bs s with
  | nil => rfl
  | cons p parts ih =>
    unfold scatter
    split_ifs
    · rfl
    · exact ih _ _ _
    · exact (ih _ _ _).trans (view_forEach v (fun _ t => hv t _) s)

/-- The blocks of a read written into the host buffer, each with its protection information where the command asks for it. -/
def readSent (c : Cmd) (s : State) : State :=
  forEach c.buf (fun b u => scatter (hostParts c.e) ((if bitOf c.e.flags 1 = 1 then 4112 else 4096) * b.1) (hostBytes c.e b.1 b.2.data) u)
    (bumpBy Reg.INT_BLOCKS_CHECKED_CNT c.buf.length s)

theorem exec_hostDataEgress_of_good {s : State} {qid cid n : Nat} {c : Cmd} (hc : s.cmdOf qid cid = some (n, c)) (hn : s.cmd? n = some c)
    (ho : c.e.opcode = 0x20) (hs : c.split = true) (hp : c.pieces = 0) (hm : s.masters = true) (hb : ∀ b ∈ c.buf, b.2.bad = false) :
    exec (.hostDataEgress qid cid [] []) s = .next (after (finish n c.status c.result (readSent c s))) := by
  have hgood : c.buf.filter (fun b => b.2.bad || ([] : List Nat).contains b.1) = [] := List.filter_eq_nil_iff.mpr fun b hmem => by simp [hb b hmem]
  have hfound : (bumpBy Reg.INT_BLOCKS_CHECKED_CNT c.buf.length s).cmd? n = some c := hn
  rw [exec_hostDataEgress, execHostDataEgress, hc]
  simp only [ho, hs, hp, hm, hgood, beq_self_eq_true, Bool.and_self, if_true, List.map_nil]
  rw [show forEach ([] : List Nat) _ (bumpBy Reg.INT_BLOCKS_CHECKED_CNT c.buf.length s) = bumpBy Reg.INT_BLOCKS_CHECKED_CNT c.buf.length s from rfl,
    hfound]
  simp only [hp, ne_eq, not_true_eq_false, if_false]
  rw [readSent]

theorem get_readSent (c : Cmd) (s : State) :
    (readSent c s).get Reg.INT_BLOCKS_CHECKED_CNT = (s.get Reg.INT_BLOCKS_CHECKED_CNT + c.buf.length) % 2 ^ 32 := by
  unfold readSent
  rw [view_forEach (fun t => t.get Reg.INT_BLOCKS_CHECKED_CNT) fun b t => view_scatter (fun t => t.get Reg.INT_BLOCKS_CHECKED_CNT) (fun _ _ => rfl) _ _ _ t]
  exact get_setF_self _ _ _

/-- Settles O16. -/
theorem writebackCompletes : Obligations.WritebackCompletes := by
  unfold Obligations.WritebackCompletes
  refine ⟨fun s n row h => ?age, fun s n row hd hl hg hs => exec_writebackStart_of_due hd hl hg hs,
    fun s n row u x rest h hn hs hu ha => ?update, fun s n row r rest h hn hs => ?repair, fun s i u x h hp => ?alone,
    fun s i u x y h hp hu => ?reported, fun s i h => exec_intentRetire_of_retirable h, fun s k hl => ?alloc,
    fun s hm hr hh hi hst him hd => ?replay, fun s qid cid n c hc hn ho hs hp hm hb => ?egress⟩
  case age => exact .of_next (exec_writebackAgeExpiry_of_lines h) (rowMarked_fields n.val row s)
  case update => exact .of_next (g := fun t => after (grantUpdate u t)) (exec_rowLockGrant_update h hn hs hu ha) (lockTaken_fields _ _ rest s)
  case repair => exact .of_next (g := fun t => after (beginRepair r t)) (exec_rowLockGrant_repair h hn hs) (lockTaken_fields _ _ rest s)
  case alone => rw [exec_intentLanded_of_found h, hp, if_neg Bool.false_ne_true]
  case reported =>
    exact .of_next ((exec_intentLanded_of_found h).trans (if_pos hp)) ⟨update?_onUpdate_self hu _, keeps_onUpdate _ _ (Keeps.refl _ s)⟩
  case alloc => exact .of_next (g := allocRun) (exec_jnlAlloc_of_lands hl) (allocAsked_fields k _ s)
  case replay =>
    exact .of_next (g := fun t => after (retryIntents (unexpose t))) (exec_journalReplay_of_nothing hm hr hh hi hst him hd) replayEnded_fields
  case egress =>
    exact .of_next (g := fun t => after (finish n c.status c.result t)) (exec_hostDataEgress_of_good hc hn ho hs hp hm hb)
      ⟨get_readSent c s, rfl⟩

end Sys2Proof.Machine
end

section
/-! What follows a change of the members (`after`) keeps what a register holds within a word: for each function that it runs, every branch is a
chain of changes that keep it, and the goals left are widths of the fields written. -/

open Sys2Proof

namespace Sys2Proof.Machine

/-- What a register map holds under a key is no wider than a word. -/
structure FitsIn (k : Nat) (r : List (Nat × Nat)) : Prop where
  lt : Assoc.getD r k 0 < 2 ^ 32

/-- What the registers of a state hold under a key is no wider than a word. -/
structure Fits (k : Nat) (s : State) : Prop where
  regs : FitsIn k s.regs

theorem fits_mk_iff {k r m a b c0 c1 c2 c3 c4 c5 c6 c7 c8 c9 d0 d1 d2 d3 d4 d5 d6 d7 d8} :
    Fits k ⟨r, m, a, b, c0, c1, c2, c3, c4, c5, c6, c7, c8, c9, d0, d1, d2, d3, d4, d5, d6, d7, d8⟩ ↔ FitsIn k r :=
  ⟨fun h => h.regs, fun h => ⟨h⟩⟩

section
variable {rk : Nat} {s : State} (h : Fits rk s)
include h

theorem fits_setF (f : Field) (v : Nat) (hf : f.width.ble 32 = true) : Fits rk (setF f v s) := by
  have hv : v % 2 ^ f.width < 2 ^ 32 :=
    (Nat.mod_lt _ (Nat.two_pow_pos _)).trans_le (Nat.pow_le_pow_right (by decide) (Nat.le_of_ble_eq_true hf))
  refine ⟨⟨?_⟩⟩
  rw [setF_regs, Assoc.getD, Assoc.put]
  split_ifs
  · rw [Assoc.find_erase]
    split_ifs
    · exact Nat.two_pow_pos 32
    · exact h.regs.lt
  · rw [Assoc.find_set]
    split_ifs
    · exact hv
    · exact h.regs.lt

theorem fits_forEach {α : Type} (l : List α) (f : α → State → State) (hf : ∀ x t, Fits rk t → Fits rk (f x t)) : Fits rk (forEach l f s) := by
  unfold forEach
  induction l generalizing s with
  | nil => exact h
  | cons x l ih => exact ih (hf x s h)

theorem fits_when (c : Bool) (f : State → State) (hf : Fits rk (f s)) : Fits rk (when c f s) := by
  unfold Machine.when
  split
  exacts [hf, h]

theorem fits_writeBytes (a : Nat) (l : List Nat) : Fits rk (writeBytes a l s) := by
  refine ⟨?_⟩
  rw [writeBytes_view State.regs fun _ _ => rfl]
  exact h.regs

theorem fits_writeStage (a : Nat) (l : List Nat) : Fits rk (writeStage a l s) := by
  induction l generalizing a s with
  | nil => exact h
  | cons b l ih => exact ih (s := writeByte _ _ s) ⟨h.regs⟩ _

omit h in
theorem small_slots (a b : Nat) : (Reg.STP_ARRAY_ERASED_SLOTS a b).width.ble 32 = true := by
  unfold Reg.STP_ARRAY_ERASED_SLOTS
  split <;> rfl

omit h in
theorem small_pending (a : Nat) : (Reg.SAS_WAKE_PEND_SLOTS a).width.ble 32 = true := by
  unfold Reg.SAS_WAKE_PEND_SLOTS
  dsimp only
  split <;> rfl

theorem fits_bump (f : Field) (hf : f.width.ble 32 = true) : Fits rk (bump f s) := by
  unfold bump
  repeat' with_reducible first | assumption | apply fits_setF

theorem fits_bumpBy (f : Field) (n : Nat) (hf : f.width.ble 32 = true) : Fits rk (bumpBy f n s) := by
  unfold bumpBy
  repeat' with_reducible first | assumption | apply fits_setF

theorem fits_event (flag cnt : Field) (hflag : flag.width.ble 32 = true) (hcnt : cnt.width.ble 32 = true) : Fits rk (event flag cnt s) := by
  unfold event
  repeat' with_reducible first | assumption | apply fits_bump | apply fits_setF

theorem fits_set64 (lo hi : Field) (v : Nat) (hlo : lo.width.ble 32 = true) (hhi : hi.width.ble 32 = true) : Fits rk (set64 lo hi v s) := by
  unfold set64
  repeat' with_reducible first | assumption | apply fits_setF

theorem fits_emit (o : Out) : Fits rk (emit o s) := ⟨h.regs⟩

theorem fits_passStream (kind : MirKind) : Fits rk (passStream kind s) := by
  unfold passStream
  repeat' with_reducible first | assumption | (simp only [↓fits_mk_iff]; apply Fits.regs) | split

theorem fits_sendMir (kind : MirKind) (args : List Nat) : Fits rk (sendMir kind args s) := by
  unfold sendMir
  repeat' with_reducible first | assumption | apply fits_passStream | apply fits_emit | apply fits_bump | split | intro _
  all_goals rfl

theorem fits_useFrees (n : Nat) : Fits rk (useFrees n s) := ⟨h.regs⟩

theorem fits_useFree : Fits rk (useFree s) := by
  unfold useFree
  repeat' with_reducible first | assumption | apply fits_useFrees

theorem fits_logEvent (code array row : Nat) (detail : List Nat) : Fits rk (logEvent code array row detail s) := ⟨h.regs⟩

theorem fits_logPlain (code : Nat) (detail : List Nat) : Fits rk (logPlain code detail s) := by
  unfold logPlain
  repeat' with_reducible first | assumption | apply fits_logEvent

theorem fits_enterMode (m : Nat) : Fits rk (enterMode m s) := by
  unfold enterMode
  repeat' with_reducible first
    | assumption | apply fits_logPlain | apply fits_emit | apply fits_setF | apply fits_when | (simp only [↓fits_mk_iff]; apply Fits.regs)
    | split | intro _
  all_goals rfl

theorem fits_loopAtOnce : Fits rk (loopAtOnce s) := ⟨h.regs⟩

theorem fits_onSlot (n : Nat) (f : SlotRec → SlotRec) : Fits rk (onSlot n f s) := ⟨h.regs⟩

theorem fits_landEntry (i : Nat) (b : List Nat) : Fits rk (landEntry i b s) := by
  unfold landEntry
  repeat' with_reducible first | assumption | apply fits_sendMir | apply fits_when | apply fits_writeBytes

theorem fits_noteSeq (q : Nat) : Fits rk (noteSeq q s) := ⟨h.regs⟩

theorem fits_putIntent (i : Nat) (t : Intent) : Fits rk (putIntent i t s) := by
  unfold putIntent
  repeat' with_reducible first
    | assumption | apply fits_noteSeq | apply fits_landEntry | apply fits_forEach | (simp only [↓fits_mk_iff]; apply Fits.regs) | split
    | intro _

theorem fits_putHead (i : Nat) (t : Intent) : Fits rk (putHead i t s) := by
  unfold putHead
  repeat' with_reducible first | assumption | apply fits_landEntry | (simp only [↓fits_mk_iff]; apply Fits.regs)

theorem fits_postHost (a : Nat) (bytes : List Nat) : Fits rk (postHost a bytes s) := by
  unfold postHost
  repeat' with_reducible first | assumption | apply fits_emit | apply fits_forEach | split | intro _

theorem fits_sendMsix (v : Nat) : Fits rk (sendMsix v s) := by
  unfold sendMsix
  repeat' with_reducible first
    | assumption | apply fits_emit | apply fits_setF | (simp only [↓fits_mk_iff]; apply Fits.regs) | split | intro _
  all_goals rfl

theorem fits_owe (q v : Nat) : Fits rk (owe q v s) := by
  unfold owe
  repeat' with_reducible first | assumption | (simp only [↓fits_mk_iff]; apply Fits.regs) | split

theorem fits_evalLine : Fits rk (evalLine s) := by
  unfold evalLine
  repeat' with_reducible first
    | assumption | apply fits_sendMsix | apply fits_postHost | apply fits_emit | apply fits_bump | apply fits_setF | apply fits_when
    | (simp only [↓fits_mk_iff]; apply Fits.regs) | split | intro _
  all_goals rfl

omit h in
theorem small_hostCause (v : Nat) : (hostCause v).1.width.ble 32 = true ∧ (hostCause v).2.2.width.ble 32 = true := by
  unfold hostCause
  split_ifs <;> exact ⟨rfl, rfl⟩

theorem fits_hostEvent (v : Nat) : Fits rk (hostEvent v s) := by
  obtain ⟨hflag, hcnt⟩ := small_hostCause v
  have hev := fits_event h _ _ hflag hcnt
  unfold hostEvent
  refine fits_evalLine (fits_when hev _ _ ?_)
  split
  exacts [fits_owe hev 0 0, fits_sendMsix hev v]

theorem fits_announce (q : Nat) (irq : Nat) : Fits rk (announce q irq s) := by
  unfold announce
  repeat' with_reducible first
    | assumption | apply fits_hostEvent | apply fits_evalLine | apply fits_owe | (simp only [↓fits_mk_iff]; apply Fits.regs) | split

theorem fits_writeEntry (p : Post) (pr : Pair) : Fits rk (writeEntry p pr s) := by
  unfold writeEntry
  repeat' with_reducible first
    | assumption | apply fits_announce | apply fits_emit | apply fits_bump | apply fits_when | (simp only [↓fits_mk_iff]; apply Fits.regs)
    | split | intro _
  all_goals rfl

theorem fits_deliver (p : Post) : Fits rk (deliver p s) := by
  unfold deliver
  repeat' with_reducible first
    | assumption | apply fits_writeEntry | apply fits_event | apply fits_setF | (simp only [↓fits_mk_iff]; apply Fits.regs) | split
    | intro _
  all_goals rfl

theorem fits_onCmd (n : Nat) (f : Cmd → Cmd) : Fits rk (onCmd n f s) := by
  unfold onCmd
  repeat' with_reducible first | assumption | (simp only [↓fits_mk_iff]; apply Fits.regs) | split

theorem fits_finish (n status result : Nat) : Fits rk (finish n status result s) := by
  unfold finish
  repeat' with_reducible first | assumption | apply fits_deliver | (simp only [↓fits_mk_iff]; apply Fits.regs) | split

theorem fits_finishAll (l : List Nat) (status result : Nat) : Fits rk (finishAll l status result s) := by
  unfold finishAll
  repeat' with_reducible first | assumption | apply fits_finish | apply fits_forEach | split | intro _

theorem fits_unexpose : Fits rk (unexpose s) := by
  unfold unexpose
  repeat' with_reducible first | assumption | apply fits_setF | split | intro _
  all_goals rfl

theorem fits_stagingStall : Fits rk (stagingStall s) := by
  unfold stagingStall
  repeat' with_reducible first | assumption | apply fits_event | apply fits_setF | split | intro _
  all_goals rfl

theorem fits_writeRecord (vol lba : Nat) (keys : List Nat) (blocks : List Block) : Fits rk (writeRecord vol lba keys blocks s) := by
  unfold writeRecord
  repeat' with_reducible first | assumption | apply fits_writeStage | (simp only [↓fits_mk_iff]; apply Fits.regs)

theorem fits_stage (vol lba : Nat) (blocks : List Block) (fails : Nat) : Fits rk (stage vol lba blocks fails s) := by
  unfold stage
  repeat' with_reducible first | assumption | apply fits_writeRecord | apply fits_event | apply fits_forEach | split | intro _
  all_goals rfl

theorem fits_acknowledge (f : Flight) : Fits rk (acknowledge f s) := by
  unfold acknowledge
  repeat' with_reducible first | assumption | apply fits_finish | (simp only [↓fits_mk_iff]; apply Fits.regs) | split | intro _ | dsimp only

theorem fits_stageFlight (f : Flight) : Fits rk (stageFlight f s) := by
  unfold stageFlight
  repeat' with_reducible first
    | assumption | apply fits_acknowledge | apply fits_stage | apply fits_stagingStall | apply fits_forEach | split | intro _ | dsimp only

theorem fits_stageWaiting : Fits rk (stageWaiting s) := by
  unfold stageWaiting
  repeat' with_reducible first | assumption | apply fits_stageFlight | apply fits_forEach | split | intro _

theorem fits_onFanChan (c : Nat) (f : FanChan → FanChan) : Fits rk (onFanChan c f s) := ⟨h.regs⟩

theorem fits_setFanState (c st : Nat) : Fits rk (setFanState c st s) := by
  unfold setFanState
  repeat' with_reducible first | assumption | apply fits_setF | split | intro _
  all_goals rfl

theorem fits_raiseDemand (c : Nat) : Fits rk (raiseDemand c s) := by
  unfold raiseDemand
  repeat' with_reducible first | assumption | apply fits_loopAtOnce | apply fits_setF | apply fits_when | split | intro _
  all_goals rfl

theorem fits_fanStart (c : Nat) : Fits rk (fanStart c s) := by
  unfold fanStart
  repeat' with_reducible first
    | assumption | apply fits_raiseDemand | apply fits_setFanState | apply fits_onFanChan | apply fits_setF | split | intro _
  all_goals rfl

theorem fits_fanSettle (c : Nat) : Fits rk (fanSettle c s) := by
  unfold fanSettle
  repeat' with_reducible first
    | assumption | apply fits_fanStart | apply fits_setFanState | apply fits_onFanChan | apply fits_setF | split | intro _ | dsimp only

theorem fits_fanSettleAll : Fits rk (fanSettleAll s) := by
  unfold fanSettleAll
  repeat' with_reducible first | assumption | apply fits_fanSettle | apply fits_forEach | split | intro _

theorem fits_fanRelease : Fits rk (fanRelease s) := by
  unfold fanRelease
  repeat' with_reducible first | assumption | apply fits_fanSettleAll | apply fits_event | apply fits_setF | split | intro _
  all_goals rfl

theorem fits_demandMoved (before : State) : Fits rk (demandMoved before s) := fits_when h _ _ ⟨h.regs⟩

theorem fits_onPort (p : Nat) (f : FabPort → FabPort) : Fits rk (onPort p f s) := ⟨h.regs⟩

theorem fits_dropFrame : Fits rk (dropFrame s) := by
  unfold dropFrame
  repeat' with_reducible first | assumption | apply fits_event | split | intro _
  all_goals rfl

theorem fits_sendOut (p : Nat) (f : Frame) : Fits rk (sendOut p f s) := by
  unfold sendOut
  repeat' with_reducible first | assumption | apply fits_emit | apply fits_bump | split | intro _
  all_goals rfl

theorem fits_putOut (p : Nat) (f : Frame) : Fits rk (putOut p f s) := by
  unfold putOut
  repeat' with_reducible first | assumption | apply fits_sendOut | apply fits_onPort | split | intro _ | dsimp only

theorem fits_routeFrame (f : Frame) : Fits rk (routeFrame f s) := by
  unfold routeFrame
  repeat' with_reducible first
    | assumption | apply fits_putOut | apply fits_dropFrame | apply fits_event | apply fits_when | split | intro _
  all_goals rfl

theorem fits_sendFrame (k : FabKind) (dst xseq : Nat) (payload : List Nat) : Fits rk (sendFrame k dst xseq payload s) := by
  unfold sendFrame
  repeat' with_reducible first | assumption | apply fits_routeFrame | apply fits_emit | split

theorem fits_floodFrame (k : FabKind) (but : Option Nat) (payload : List Nat) : Fits rk (floodFrame k but payload s) := by
  unfold floodFrame
  repeat' with_reducible first | assumption | apply fits_putOut | apply fits_forEach | split | intro _

theorem fits_askBellwether (k : FabKind) (payload : List Nat) : Fits rk (askBellwether k payload s) := by
  unfold askBellwether
  repeat' with_reducible first | assumption | apply fits_sendFrame | (simp only [↓fits_mk_iff]; apply Fits.regs) | split

theorem fits_askTokens (wantW minW cls : Nat) : Fits rk (askTokens wantW minW cls s) := by
  unfold askTokens
  repeat' with_reducible first | assumption | apply fits_askBellwether

theorem fits_writeRoutes : Fits rk (writeRoutes s) := by
  unfold writeRoutes
  repeat' with_reducible first | assumption | apply fits_setF | apply fits_forEach | split | intro _ | dsimp only
  all_goals rfl

theorem fits_floodLsa : Fits rk (floodLsa s) := by
  unfold floodLsa
  repeat' with_reducible first | assumption | apply fits_floodFrame | (simp only [↓fits_mk_iff]; apply Fits.regs)

theorem fits_parkPort (p : Nat) : Fits rk (parkPort p s) := by
  unfold parkPort
  repeat' with_reducible first
    | assumption | apply fits_routeFrame | apply fits_onPort | apply fits_setF | apply fits_when | apply fits_forEach | split | intro _
    | dsimp only
  all_goals rfl

theorem fits_parkPorts : Fits rk (parkPorts s) := by
  unfold parkPorts
  repeat' with_reducible first
    | assumption | apply fits_parkPort | apply fits_floodLsa | apply fits_writeRoutes | apply fits_forEach | split | intro _

theorem fits_onCare (n : Nat) (f : ArrayCare → ArrayCare) : Fits rk (onCare n f s) := ⟨h.regs⟩

theorem fits_stat (n i by' : Nat) : Fits rk (stat n i by' s) := by
  unfold stat
  repeat' with_reducible first | assumption | apply fits_onCare

theorem fits_onArrayMeta (n : Nat) (f : ArrayMeta → ArrayMeta) : Fits rk (onArrayMeta n f s) := ⟨h.regs⟩

theorem fits_writeHeader (phys hdr : Nat) (b : Block) : Fits rk (writeHeader phys hdr b s) := by
  unfold writeHeader
  repeat' with_reducible first | assumption | apply fits_emit

theorem fits_raiseGeneration (n : Nat) : Fits rk (raiseGeneration n s) := by
  unfold raiseGeneration
  repeat' with_reducible first | assumption | apply fits_writeHeader | apply fits_onArrayMeta | apply fits_forEach | split | intro _

theorem fits_newDrive (n slot phys : Nat) : Fits rk (newDrive n slot phys s) := by
  unfold newDrive
  repeat' with_reducible first | assumption | apply fits_raiseGeneration | apply fits_writeHeader | apply fits_onArrayMeta

theorem fits_writeErased (n slot : Nat) (v : Bool) : Fits rk (writeErased n slot v s) := by
  unfold writeErased
  repeat' with_reducible first | assumption | apply fits_setF | apply fits_when | apply small_slots | split | intro _
  all_goals rfl

theorem fits_startEval (n : Nat) : Fits rk (startEval n s) := by
  unfold startEval
  repeat' with_reducible first | assumption | apply fits_setF | (simp only [↓fits_mk_iff]; apply Fits.regs) | split | intro _
  all_goals rfl

theorem fits_sendSlotState : Fits rk (sendSlotState s) := by
  unfold sendSlotState
  repeat' with_reducible first | assumption | apply fits_sendMir | split

theorem fits_dropAwake (n : Nat) : Fits rk (dropAwake n s) := by
  unfold dropAwake
  repeat' with_reducible first | assumption | apply fits_setF | apply fits_when | split | intro _
  all_goals rfl

theorem fits_openRails (n rails : Nat) : Fits rk (openRails n rails s) := by
  unfold openRails
  repeat' with_reducible first | assumption | apply fits_dropAwake | apply fits_onSlot | apply fits_setF | apply fits_when | split | intro _
  all_goals rfl

theorem fits_powerOff (n rails : Nat) : Fits rk (powerOff n rails s) := by
  unfold powerOff
  repeat' with_reducible first | assumption | apply fits_openRails | apply fits_sendSlotState | apply fits_onSlot | split

theorem fits_writeEnables (n : Nat) (en12 en5 : Bool) : Fits rk (writeEnables n en12 en5 s) := by
  unfold writeEnables
  repeat' with_reducible first
    | assumption | apply fits_powerOff | apply fits_onSlot | apply fits_setF | (simp only [↓fits_mk_iff]; apply Fits.regs) | split
    | intro _ | dsimp only
  all_goals rfl

theorem fits_writeSpin (n : Nat) (v : Bool) : Fits rk (writeSpin n v s) := by
  unfold writeSpin
  repeat' with_reducible first
    | assumption | apply fits_onSlot | apply fits_setF | (simp only [↓fits_mk_iff]; apply Fits.regs) | split | intro _
  all_goals rfl

theorem fits_requestSlot (n : Nat) : Fits rk (requestSlot n s) := by
  unfold requestSlot
  repeat' with_reducible first | assumption | apply fits_writeSpin | apply fits_writeEnables

theorem fits_sendStop (n : Nat) : Fits rk (sendStop n s) := by
  unfold sendStop
  repeat' with_reducible first | assumption | apply fits_onSlot | apply fits_emit | split

theorem fits_spinDown (n : Nat) : Fits rk (spinDown n s) := by
  unfold spinDown
  repeat' with_reducible first
    | assumption | apply fits_sendStop | apply fits_writeSpin | apply fits_onSlot | apply fits_setF | split | intro _
  all_goals rfl

theorem fits_requestTokens (dw : Nat) : Fits rk (requestTokens dw s) := by
  unfold requestTokens
  repeat' with_reducible first | assumption | apply fits_askTokens | (simp only [↓fits_mk_iff]; apply Fits.regs)

theorem fits_requestAhead (n : Nat) (first : List Nat) : Fits rk (requestAhead n first s) := by
  unfold requestAhead
  repeat' with_reducible first
    | assumption | apply fits_requestSlot | apply fits_writeSpin | apply fits_writeEnables | apply fits_forEach | split | intro _

theorem fits_wakeSlot (n : Nat) : Fits rk (wakeSlot n s) := by
  unfold wakeSlot
  repeat' with_reducible first
    | assumption | apply fits_requestAhead | apply fits_requestTokens | apply fits_spinDown | apply fits_requestSlot | split | intro _
    | dsimp only

theorem fits_sendConfig (what : List Nat) : Fits rk (sendConfig what s) := by
  unfold sendConfig
  repeat' with_reducible first | assumption | apply fits_sendMir | split

theorem fits_enableFrontier (k : Nat) : Fits rk (enableFrontier k s) := by
  unfold enableFrontier
  repeat' with_reducible first | assumption | apply fits_set64 | apply fits_setF | split | intro _
  all_goals rfl

theorem fits_startFrontier (k mode n slot : Nat) : Fits rk (startFrontier k mode n slot s) := by
  unfold startFrontier
  repeat' with_reducible first
    | assumption | apply fits_enableFrontier | apply fits_sendConfig | apply fits_wakeSlot | apply fits_logEvent | apply fits_set64
    | apply fits_setF | (simp only [↓fits_mk_iff]; apply Fits.regs) | split | intro _
  all_goals rfl

theorem fits_startRebuild (n slot : Nat) : Fits rk (startRebuild n slot s) := by
  unfold startRebuild
  repeat' with_reducible first | assumption | apply fits_startFrontier | (simp only [↓fits_mk_iff]; apply Fits.regs) | split

theorem fits_startQueued : Fits rk (startQueued s) := by
  unfold startQueued
  repeat' with_reducible first | assumption | apply fits_startFrontier | (simp only [↓fits_mk_iff]; apply Fits.regs) | split

theorem fits_writeSub (j slot phys : Nat) : Fits rk (writeSub j slot phys s) := by
  unfold writeSub
  repeat' with_reducible first | assumption | apply fits_sendConfig | apply fits_setF | split | intro _
  all_goals rfl

theorem fits_takeSpare (n slot : Nat) : Fits rk (takeSpare n slot s) := by
  unfold takeSpare
  repeat' with_reducible first | assumption | apply fits_writeSub | apply fits_startRebuild | apply fits_newDrive | split

theorem fits_markErased (slot : Nat) : Fits rk (markErased slot s) := by
  unfold markErased
  repeat' with_reducible first
    | assumption | apply fits_takeSpare | apply fits_sendConfig | apply fits_startEval | apply fits_writeErased
    | apply fits_raiseGeneration | apply fits_stat | apply fits_onSlot | apply fits_logEvent | apply fits_setF | split | intro _
    | dsimp only
  all_goals rfl

theorem fits_copyBack : Fits rk (copyBack s) := by
  unfold copyBack
  repeat' with_reducible first | assumption | apply fits_startFrontier | split

theorem fits_roleChanged (old reason : Nat) : Fits rk (roleChanged old reason s) := by
  unfold roleChanged
  repeat' with_reducible first
    | assumption | apply fits_hostEvent | apply fits_logPlain | (simp only [↓fits_mk_iff]; apply Fits.regs) | split

theorem fits_setHold (b : Bool) : Fits rk (setHold b s) := by
  unfold setHold
  repeat' with_reducible first | assumption | apply fits_hostEvent | apply fits_setF | split | intro _
  all_goals rfl

theorem fits_releaseActive (reason : Nat) : Fits rk (releaseActive reason s) := by
  unfold releaseActive
  repeat' with_reducible first | assumption | apply fits_roleChanged | apply fits_setF | split | intro _
  all_goals rfl

theorem fits_relinquish (reason : Nat) : Fits rk (relinquish reason s) := by
  unfold relinquish
  repeat' with_reducible first
    | assumption | apply fits_releaseActive | apply fits_sendMir | apply fits_setF | (simp only [↓fits_mk_iff]; apply Fits.regs) | split
    | intro _
  all_goals rfl

theorem fits_fwComplete (tag slotByte status errLba : Nat) : Fits rk (fwComplete tag slotByte status errLba s) := by
  unfold fwComplete
  repeat' with_reducible first
    | assumption | apply fits_event | apply fits_setF | apply fits_when | apply fits_writeBytes
    | (simp only [↓fits_mk_iff]; apply Fits.regs) | split | intro _
  all_goals rfl

theorem fits_dropWork : Fits rk (dropWork s) := ⟨h.regs⟩

theorem fits_abortMembers : Fits rk (abortMembers s) := by
  unfold abortMembers
  repeat' with_reducible first
    | assumption | apply fits_dropWork | apply fits_fwComplete | apply fits_emit | apply fits_forEach
    | (simp only [↓fits_mk_iff]; apply Fits.regs) | split | intro _

theorem fits_refuseIo : Fits rk (refuseIo s) := by
  unfold refuseIo
  repeat' with_reducible first | assumption | apply fits_finishAll

theorem fits_endTest (result failStep : Nat) : Fits rk (endTest result failStep s) := by
  unfold endTest
  repeat' with_reducible first | assumption | apply fits_logPlain | (simp only [↓fits_mk_iff]; apply Fits.regs) | split

theorem fits_testOnMode (m : Nat) : Fits rk (testOnMode m s) := by
  unfold testOnMode
  repeat' with_reducible first | assumption | apply fits_endTest | split

theorem fits_tellParity (m : Nat) : Fits rk (tellParity m s) := by
  unfold tellParity
  repeat' with_reducible first | assumption | apply fits_floodFrame | split

theorem fits_toMode (m : Nat) : Fits rk (toMode m s) := by
  unfold toMode
  repeat' with_reducible first
    | assumption | apply fits_tellParity | apply fits_testOnMode | apply fits_parkPorts | apply fits_enterMode | apply fits_when

theorem fits_finishPark (status : Nat) : Fits rk (finishPark status s) := by
  unfold finishPark
  repeat' with_reducible first | assumption | apply fits_finishAll | (simp only [↓fits_mk_iff]; apply Fits.regs)

theorem fits_finishWake (status : Nat) : Fits rk (finishWake status s) := by
  unfold finishWake
  repeat' with_reducible first | assumption | apply fits_finishAll | (simp only [↓fits_mk_iff]; apply Fits.regs)

theorem fits_finishRole (action : Nat) : Fits rk (finishRole action s) := by
  unfold finishRole
  repeat' with_reducible first | assumption | apply fits_finishAll | (simp only [↓fits_mk_iff]; apply Fits.regs)

theorem fits_setOffset (v : Bool) : Fits rk (setOffset v s) := by
  unfold setOffset
  repeat' with_reducible first | assumption | apply fits_setF | (simp only [↓fits_mk_iff]; apply Fits.regs) | split | intro _
  all_goals rfl

theorem fits_claimFans : Fits rk (claimFans s) := by
  unfold claimFans
  repeat' with_reducible first | assumption | apply fits_setF | (simp only [↓fits_mk_iff]; apply Fits.regs) | split | intro _
  all_goals rfl

theorem fits_serviceFans (live : Bool) : Fits rk (serviceFans live s) := by
  unfold serviceFans
  repeat' with_reducible first | assumption | apply fits_claimFans | apply fits_fanRelease | split

theorem fits_enterService (reason : Nat) : Fits rk (enterService reason s) := by
  unfold enterService
  repeat' with_reducible first
    | assumption | apply fits_serviceFans | apply fits_finishRole | apply fits_finishWake | apply fits_finishPark | apply fits_toMode
    | apply fits_refuseIo | apply fits_abortMembers | apply fits_relinquish | apply fits_setHold | apply fits_roleChanged
    | apply fits_setF | apply fits_when | (simp only [↓fits_mk_iff]; apply Fits.regs) | split | intro _
  all_goals rfl

theorem fits_enterStandby : Fits rk (enterStandby s) := by
  unfold enterStandby
  repeat' with_reducible first
    | assumption | apply fits_setOffset | apply fits_finishWake | apply fits_finishPark | apply fits_toMode | apply fits_refuseIo
    | apply fits_abortMembers | apply fits_fanRelease

theorem fits_faultStandby (reason : Nat) : Fits rk (faultStandby reason s) := by
  unfold faultStandby
  repeat' with_reducible first | assumption | apply fits_enterStandby | apply fits_relinquish | (simp only [↓fits_mk_iff]; apply Fits.regs)

theorem fits_demand (rows : List Nat) : Fits rk (demand rows s) := ⟨h.regs⟩

theorem fits_enterDraining : Fits rk (enterDraining s) := by
  unfold enterDraining
  repeat' with_reducible first
    | assumption | apply fits_demand | apply fits_toMode | apply fits_endTest | (simp only [↓fits_mk_iff]; apply Fits.regs) | split

theorem fits_leaveParked : Fits rk (leaveParked s) := by
  unfold leaveParked
  repeat' with_reducible first
    | assumption | apply fits_toMode | apply fits_setF | apply fits_when | (simp only [↓fits_mk_iff]; apply Fits.regs) | split | intro _
  all_goals rfl

theorem fits_startWake : Fits rk (startWake s) := by
  unfold startWake
  repeat' with_reducible first
    | assumption | apply fits_leaveParked | apply fits_askTokens | (simp only [↓fits_mk_iff]; apply Fits.regs) | split | intro _
    | dsimp only

theorem fits_enterHold (cause : Nat) : Fits rk (enterHold cause s) := by
  unfold enterHold
  repeat' with_reducible first
    | assumption | apply fits_demandMoved | apply fits_refuseIo | apply fits_setHold | apply fits_demandMoved | apply fits_setF
    | (simp only [↓fits_mk_iff]; apply Fits.regs) | split | intro _
  all_goals rfl

theorem fits_claimLines : Fits rk (claimLines s) := by
  unfold claimLines
  repeat' with_reducible first | assumption | apply fits_claimFans | apply fits_setF | split | intro _
  all_goals rfl

theorem fits_restoreFronts : Fits rk (restoreFronts s) := by
  unfold restoreFronts
  repeat' with_reducible first | assumption | apply fits_set64 | apply fits_forEach | apply small_pending | split | intro _
  all_goals rfl

theorem fits_enterTakeover : Fits rk (enterTakeover s) := by
  unfold enterTakeover
  repeat' with_reducible first
    | assumption | apply fits_restoreFronts | apply fits_claimLines | apply fits_enterHold | apply fits_setOffset | apply fits_toMode
    | apply fits_askBellwether | apply fits_loopAtOnce | apply fits_emit | apply fits_setF | apply fits_when | apply fits_forEach
    | (simp only [↓fits_mk_iff]; apply Fits.regs) | split | intro _
  all_goals rfl

theorem fits_beginHandover : Fits rk (beginHandover s) := by
  unfold beginHandover
  repeat' with_reducible first | assumption | apply fits_sendMir | (simp only [↓fits_mk_iff]; apply Fits.regs)

theorem fits_abandonHandover (cause : Nat) : Fits rk (abandonHandover cause s) := by
  unfold abandonHandover
  repeat' with_reducible first
    | assumption | apply fits_setOffset | apply fits_finishRole | (simp only [↓fits_mk_iff]; apply Fits.regs) | split

theorem fits_takeFault (r : Nat) : Fits rk (takeFault r s) := by
  unfold takeFault
  repeat' with_reducible first
    | assumption | apply fits_abandonHandover | apply fits_enterHold | apply fits_faultStandby | apply fits_enterService | split | intro _
    | dsimp only

theorem fits_settleOnce : Fits rk (settleOnce s) := by
  unfold settleOnce
  repeat' with_reducible first
    | assumption | apply fits_takeFault | apply fits_beginHandover | apply fits_enterTakeover | apply fits_startWake
    | apply fits_enterDraining | apply fits_enterService | (simp only [↓fits_mk_iff]; apply Fits.regs) | split

theorem fits_settle : Fits rk (settle s) := by
  unfold settle
  repeat' with_reducible first | assumption | apply fits_settleOnce

theorem fits_dropFreed : Fits rk (dropFreed s) := ⟨h.regs⟩

theorem fits_voidRecords (which : Delta → Bool) : Fits rk (voidRecords which s) := by
  unfold voidRecords
  repeat' with_reducible first
    | assumption | apply fits_dropFreed | apply fits_forEach | apply fits_writeBytes | (simp only [↓fits_mk_iff]; apply Fits.regs) | split
    | intro _

theorem fits_onGroup (id : Nat) (f : FlockGroup → FlockGroup) : Fits rk (onGroup id f s) := ⟨h.regs⟩

theorem fits_writeDelta (d : Delta) (data : List Block) : Fits rk (writeDelta d data s) := by
  unfold writeDelta
  repeat' with_reducible first
    | assumption | apply fits_forEach | apply fits_writeBytes | (simp only [↓fits_mk_iff]; apply Fits.regs) | split | intro _

theorem fits_shipDelta (a : Nat) (d : Delta) : Fits rk (shipDelta a d s) := by
  unfold shipDelta
  repeat' with_reducible first | assumption | apply fits_sendFrame | apply fits_forEach | split | intro _

theorem fits_shipDeltas (again : Bool) : Fits rk (shipDeltas again s) := by
  unfold shipDeltas
  repeat' with_reducible first
    | assumption | apply fits_shipDelta | apply fits_forEach | (simp only [↓fits_mk_iff]; apply Fits.regs) | split | intro _

theorem fits_markStale (id : Nat) : Fits rk (markStale id s) := by
  unfold markStale
  repeat' with_reducible first | assumption | apply fits_onGroup | apply fits_voidRecords | apply fits_floodFrame | apply fits_hostEvent

theorem fits_wakeParity : Fits rk (wakeParity s) := by
  unfold wakeParity
  repeat' with_reducible first | assumption | apply fits_sendFrame | split

theorem fits_logDeltas (v intentSeq : Nat) (units : List (Nat × List Block)) : Fits rk (logDeltas v intentSeq units s) := by
  unfold logDeltas
  repeat' with_reducible first
    | assumption | apply fits_wakeParity | apply fits_shipDeltas | apply fits_writeDelta | apply fits_onGroup | apply fits_forEach | split
    | intro _

theorem fits_placeJob (j : Job) : Fits rk (placeJob j s) := by
  unfold placeJob
  repeat' with_reducible first
    | assumption | apply fits_useFree | apply fits_setF | apply fits_writeBytes | (simp only [↓fits_mk_iff]; apply Fits.regs) | split
    | intro _
  all_goals rfl

theorem fits_postJob (j : Job) : Fits rk (postJob j s) := by
  unfold postJob
  repeat' with_reducible first
    | assumption | apply fits_placeJob | (simp only [↓fits_mk_iff]; apply Fits.regs) | split | intro _ | dsimp only

theorem fits_writeCoef (k v : Nat) : Fits rk (writeCoef k v s) := ⟨h.regs⟩

theorem fits_disarm : Fits rk (disarm s) := by
  unfold disarm
  repeat' with_reducible first | assumption | apply fits_setF | split | intro _
  all_goals rfl

theorem fits_sendData (c : MemCmd) : Fits rk (sendData c s) := by
  unfold sendData
  repeat' with_reducible first
    | assumption | apply fits_disarm | apply fits_useFree | apply fits_emit | apply fits_when | split | intro _ | dsimp only

theorem fits_sendDrive (c : MemCmd) : Fits rk (sendDrive c s) := by
  unfold sendDrive
  repeat' with_reducible first | assumption | apply fits_sendData | apply fits_emit

theorem fits_failAtOnce (c : MemCmd) (st : DriveStatus) : Fits rk (failAtOnce c st s) := ⟨h.regs⟩

theorem fits_openCmd (c0 : MemCmd) : Fits rk (openCmd c0 s) := by
  unfold openCmd
  repeat' with_reducible first
    | assumption | apply fits_failAtOnce | apply fits_sendDrive | apply fits_wakeSlot | (simp only [↓fits_mk_iff]; apply Fits.regs)
    | split | intro _ | dsimp only

theorem fits_yieldGraze (logical : Nat) (owner : Owner) : Fits rk (yieldGraze logical owner s) := by
  unfold yieldGraze
  repeat' with_reducible first | assumption | apply fits_onCare | split | intro _ | dsimp only

theorem fits_openMember (phys logical : Nat) (write : Bool) (lba nblk : Nat) (owner : Owner) (data : List Block) :
    Fits rk (openMember phys logical write lba nblk owner data s) := by
  unfold openMember
  repeat' with_reducible first | assumption | apply fits_yieldGraze | apply fits_openCmd | (simp only [↓fits_mk_iff]; apply Fits.regs)

theorem fits_openWaiting : Fits rk (openWaiting s) := by
  unfold openWaiting
  repeat' with_reducible first
    | assumption | apply fits_openCmd | apply fits_forEach | (simp only [↓fits_mk_iff]; apply Fits.regs) | split | intro _

theorem fits_planMiss (n phase g : Nat) : Fits rk (planMiss n phase g s) := by
  unfold planMiss
  repeat' with_reducible first
    | assumption | apply fits_event | apply fits_setF | (simp only [↓fits_mk_iff]; apply Fits.regs) | split | intro _
  all_goals rfl

theorem fits_writePlan (n at' slot : Nat) (srcs outs : List Nat) : Fits rk (writePlan n at' slot srcs outs s) := by
  unfold writePlan
  repeat' with_reducible first | assumption | apply fits_writeBytes

theorem fits_buildPlan (n phase g : Nat) : Fits rk (buildPlan n phase g s) := by
  unfold buildPlan
  repeat' with_reducible first
    | assumption | apply fits_writePlan | apply fits_writeCoef | apply fits_forEach | apply fits_writeBytes
    | (simp only [↓fits_mk_iff]; apply Fits.regs) | split | intro _ | dsimp only

theorem fits_setLock (key : Nat) (l : Option LockUser × List LockUser) : Fits rk (setLock key l s) := ⟨h.regs⟩

theorem fits_requestLock (key : Nat) (u : LockUser) : Fits rk (requestLock key u s) := by
  unfold requestLock
  repeat' with_reducible first | assumption | apply fits_setLock

theorem fits_takeLock (key : Nat) : Fits rk (takeLock key s).1 := by
  unfold takeLock
  repeat' with_reducible first | assumption | apply fits_setLock | split

theorem fits_onIntent (i : Nat) (f : Intent → Intent) : Fits rk (onIntent i f s) := by
  unfold onIntent
  repeat' with_reducible first | assumption | apply fits_putHead | split

theorem fits_stall (who : Option LockUser) : Fits rk (stall who s) := by
  unfold stall
  repeat' with_reducible first | assumption | (simp only [↓fits_mk_iff]; apply Fits.regs) | split

theorem fits_takeRun (who : Option LockUser) (next : Nat) : Fits rk (takeRun who next s).1 := by
  unfold takeRun
  repeat' with_reducible first
    | assumption | apply fits_stall | apply fits_event | apply fits_setF | apply fits_when | (simp only [↓fits_mk_iff]; apply Fits.regs)
    | split | intro _ | dsimp only
  all_goals rfl

theorem fits_openIntent (who : Option LockUser) (t : Intent) : Fits rk (openIntent who t s).1 := by
  unfold openIntent
  repeat' with_reducible first | assumption | apply fits_takeRun | apply fits_putIntent | apply fits_bump | split | intro _ | dsimp only
  all_goals rfl

theorem fits_onRepair (r : Nat) (f : Repair → Repair) : Fits rk (onRepair r f s) := by
  unfold onRepair
  repeat' with_reducible first | assumption | (simp only [↓fits_mk_iff]; apply Fits.regs) | split

theorem fits_beginRepair (r : Nat) : Fits rk (beginRepair r s) := by
  unfold beginRepair
  repeat' with_reducible first
    | assumption | apply fits_onRepair | apply fits_openIntent | apply fits_openMember | apply fits_setF | apply fits_forEach | split
    | intro _ | dsimp only
  all_goals rfl

theorem fits_startRange (x : Repair) : Fits rk (startRange x s) := by
  have hreq : Fits rk (requestLock (rowKey x.array x.row) (.repair s.sas.nextRepair) { s with
      sas := { s.sas with repairs := Assoc.set s.sas.repairs s.sas.nextRepair x, nextRepair := s.sas.nextRepair + 1 } }) :=
    fits_requestLock (fits_mk_iff.mpr h.regs) _ _
  have htaken := fits_takeLock hreq (rowKey x.array x.row)
  unfold startRange
  dsimp only
  split
  next heq =>
    rw [heq] at htaken
    split
    exacts [fits_beginRepair htaken _, htaken]
  next => exact hreq

theorem fits_startRepair (x : Repair) : Fits rk (startRepair x s) := by
  unfold startRepair
  repeat' with_reducible first | assumption | apply fits_startRange | apply fits_forEach | split | intro _

theorem fits_closeEntry (i : Nat) (words : List Nat) : Fits rk (closeEntry i words s) := by
  unfold closeEntry
  repeat' with_reducible first | assumption | apply fits_putIntent | split

theorem fits_repairWritten (r m : Nat) (blocks : Nat) (ok : Bool) : Fits rk (repairWritten r m blocks ok s) := by
  unfold repairWritten
  repeat' with_reducible first | assumption | apply fits_closeEntry | apply fits_onRepair | apply fits_stat | apply fits_when | split

theorem fits_onPiece (p : Nat) (f : Piece → Piece) : Fits rk (onPiece p f s) := by
  unfold onPiece
  repeat' with_reducible first | assumption | (simp only [↓fits_mk_iff]; apply Fits.regs) | split

theorem fits_dropPiece (p : Nat) (x : Piece) : Fits rk (dropPiece p x s) := by
  unfold dropPiece
  repeat' with_reducible first | assumption | apply fits_onCmd | (simp only [↓fits_mk_iff]; apply Fits.regs)

theorem fits_endPieces (n : Nat) : Fits rk (endPieces n s) := by
  unfold endPieces
  repeat' with_reducible first | assumption | apply fits_finish | split

theorem fits_pieceData (p : Nat) (lines : List Line) (degraded : Bool) : Fits rk (pieceData p lines degraded s) := by
  unfold pieceData
  repeat' with_reducible first | assumption | apply fits_endPieces | apply fits_dropPiece | apply fits_onCmd | split

theorem fits_pieceEnds (p st : Nat) : Fits rk (pieceEnds p st s) := by
  unfold pieceEnds
  repeat' with_reducible first | assumption | apply fits_endPieces | apply fits_dropPiece | apply fits_onCmd | split

theorem fits_pieceLost (p : Nat) : Fits rk (pieceLost p s) := by
  unfold pieceLost
  repeat' with_reducible first | assumption | apply fits_pieceEnds | apply fits_bumpBy | split | intro _
  all_goals rfl

theorem fits_giveBuffer (p : Nat) : Fits rk (giveBuffer p s) := by
  unfold giveBuffer
  repeat' with_reducible first | assumption | apply fits_onPiece | apply fits_useFree | split

theorem fits_openPiece (p st : Nat) (members : List Nat) (slot outRow : Nat) (byPlan : Bool) :
    Fits rk (openPiece p st members slot outRow byPlan s) := by
  unfold openPiece
  repeat' with_reducible first
    | assumption | apply fits_giveBuffer | apply fits_onPiece | apply fits_openMember | apply fits_postJob | apply fits_onCmd
    | apply fits_forEach | split | intro _ | dsimp only

theorem fits_holdPiece (p : Nat) (slots : List Nat) : Fits rk (holdPiece p slots s) := by
  unfold holdPiece
  repeat' with_reducible first | assumption | apply fits_onPiece | apply fits_bump | apply fits_when | split | intro _
  all_goals rfl

theorem fits_holdForPlan (p : Nat) (x : Piece) (m : Nat) : Fits rk (holdForPlan p x m s) := by
  unfold holdForPlan
  repeat' with_reducible first | assumption | apply fits_onPiece | apply fits_planMiss

theorem fits_countRiw (phys nblk : Nat) : Fits rk (countRiw phys nblk s) := by
  unfold countRiw
  repeat' with_reducible first
    | assumption | apply fits_wakeSlot | apply fits_bumpBy | apply fits_bump | (simp only [↓fits_mk_iff]; apply Fits.regs) | split
    | intro _ | dsimp only
  all_goals rfl

theorem fits_readDegraded (p : Nat) : Fits rk (readDegraded p s) := by
  unfold readDegraded
  repeat' with_reducible first | assumption | apply fits_onPiece | apply fits_bump | apply fits_when | split | intro _
  all_goals rfl

theorem fits_servePiece (p : Nat) : Fits rk (servePiece p s) := by
  unfold servePiece
  repeat' with_reducible first
    | assumption | apply fits_readDegraded | apply fits_countRiw | apply fits_holdForPlan | apply fits_holdPiece | apply fits_openPiece
    | apply fits_pieceLost | apply fits_pieceData | apply fits_onPiece | split | intro _ | dsimp only

theorem fits_refreshWake : Fits rk (refreshWake s) := by
  unfold refreshWake
  repeat' with_reducible first
    | assumption | apply fits_wakeSlot | apply fits_event | apply fits_setF | apply fits_forEach | apply small_pending
    | (simp only [↓fits_mk_iff]; apply Fits.regs) | split | intro _
  all_goals rfl

theorem fits_refill : Fits rk (refill s) := by
  unfold refill
  repeat' with_reducible first | assumption | apply fits_servePiece | apply fits_forEach | split | intro _

theorem fits_pump : Fits rk (pump s) := by
  unfold pump
  repeat' with_reducible first | assumption | apply fits_refill | apply fits_refreshWake

theorem fits_rewriteRecovered (n row first : Nat) (ms : List Nat) (content : Nat → Option (List Block)) :
    Fits rk (rewriteRecovered n row first ms content s) := by
  unfold rewriteRecovered
  repeat' with_reducible first | assumption | apply fits_startRepair | split | intro _ | dsimp only

theorem fits_onUpdate (u : Nat) (f : Update → Update) : Fits rk (onUpdate u f s) := by
  unfold onUpdate
  repeat' with_reducible first | assumption | (simp only [↓fits_mk_iff]; apply Fits.regs) | split

theorem fits_writeIntent (u : Nat) : Fits rk (writeIntent u s) := by
  unfold writeIntent
  repeat' with_reducible first
    | assumption | apply fits_onUpdate | apply fits_openIntent | apply fits_logDeltas | apply fits_markStale | split | intro _
    | dsimp only

theorem fits_afterReads (u : Nat) : Fits rk (afterReads u s) := by
  unfold afterReads
  repeat' with_reducible first
    | assumption | apply fits_writeIntent | apply fits_onUpdate | apply fits_postJob | apply fits_useFree | apply fits_forEach | split
    | intro _

theorem fits_openReads (u : Nat) (x : Update) (ms : List Nat) : Fits rk (openReads u x ms s) := by
  unfold openReads
  repeat' with_reducible first | assumption | apply fits_onUpdate | apply fits_openMember | apply fits_forEach | split | intro _

theorem fits_beginReads (u : Nat) : Fits rk (beginReads u s) := by
  unfold beginReads
  repeat' with_reducible first
    | assumption | apply fits_openReads | apply fits_afterReads | apply fits_onUpdate | apply fits_planMiss | split | intro _ | dsimp only

theorem fits_retryPlans (n : Nat) : Fits rk (retryPlans n s) := by
  unfold retryPlans
  repeat' with_reducible first | assumption | apply fits_beginReads | apply fits_forEach | split | intro _

theorem fits_openWrite (u : Nat) (x : Update) (m tag : Nat) (data : List Block) : Fits rk (openWrite u x m tag data s) := by
  unfold openWrite
  repeat' with_reducible first
    | assumption | apply fits_onUpdate | apply fits_openMember | apply fits_yieldGraze | apply fits_openCmd | split | intro _ | dsimp only

theorem fits_openWrites (u : Nat) (x : Update) : Fits rk (openWrites u x s) := by
  unfold openWrites
  repeat' with_reducible first
    | assumption | apply fits_openWrite | apply fits_onUpdate | apply fits_when | apply fits_forEach
    | (simp only [↓fits_mk_iff]; apply Fits.regs) | split | intro _

theorem fits_issueJob (u : Nat) : Fits rk (issueJob u s) := by
  unfold issueJob
  repeat' with_reducible first
    | assumption | apply fits_openWrites | apply fits_onUpdate | apply fits_postJob | split | intro _ | dsimp only

theorem fits_closeIntent (u : Nat) : Fits rk (closeIntent u s) := by
  unfold closeIntent
  repeat' with_reducible first | assumption | apply fits_onUpdate | apply fits_closeEntry | split | intro _ | dsimp only

theorem fits_advanceWrites (u : Nat) : Fits rk (advanceWrites u s) := by
  unfold advanceWrites
  repeat' with_reducible first
    | assumption | apply fits_closeIntent | apply fits_openWrite | apply fits_onUpdate | apply fits_onIntent | apply fits_forEach | split
    | intro _

theorem fits_writeDone (u m : Nat) (good : Bool) : Fits rk (writeDone u m good s) := by
  unfold writeDone
  repeat' with_reducible first | assumption | apply fits_advanceWrites | apply fits_onUpdate

theorem fits_countEnd (c : MemCmd) (st : DriveStatus) (appTag : Bool) : Fits rk (countEnd c st appTag s) := by
  unfold countEnd
  repeat' with_reducible first | assumption | apply fits_event | apply fits_bumpBy | apply fits_bump | split | intro _
  all_goals rfl

theorem fits_chargeEnd (c : MemCmd) (st : DriveStatus) : Fits rk (chargeEnd c st s) := by
  unfold chargeEnd
  repeat' with_reducible first | assumption | apply fits_markErased | apply fits_onSlot | split | intro _ | dsimp only

theorem fits_writeFailed (c : MemCmd) (st : DriveStatus) : Fits rk (writeFailed c st s) := by
  unfold writeFailed
  repeat' with_reducible first
    | assumption | apply fits_markErased | apply fits_onSlot | apply fits_event | apply fits_setF | split | intro _
  all_goals rfl

theorem fits_putRx (c : MemCmd) (data : List Block) : Fits rk (putRx c data s) := ⟨h.regs⟩

theorem fits_readsIn (u : Nat) : Fits rk (readsIn u s) := by
  unfold readsIn
  repeat' with_reducible first | assumption | apply fits_afterReads | apply fits_rewriteRecovered | split

theorem fits_updateGot (u m : Nat) (data : List Block) : Fits rk (updateGot u m data s) := by
  unfold updateGot
  repeat' with_reducible first | assumption | apply fits_readsIn | apply fits_onUpdate

theorem fits_updateReadFailed (u m : Nat) (st : DriveStatus) : Fits rk (updateReadFailed u m st s) := by
  unfold updateReadFailed
  repeat' with_reducible first
    | assumption | apply fits_readsIn | apply fits_openReads | apply fits_onUpdate | apply fits_planMiss | split | intro _ | dsimp only

theorem fits_memberEnd (c : MemCmd) (st : DriveStatus) (errLba : Nat) (appTag : Bool) (data : List Block) :
    Fits rk (memberEnd c st errLba appTag data s) := by
  unfold memberEnd
  repeat' with_reducible first
    | assumption | apply fits_updateReadFailed | apply fits_updateGot | apply fits_putRx | apply fits_writeFailed | apply fits_chargeEnd
    | apply fits_countEnd | apply fits_writeDone | apply fits_onPiece | apply fits_repairWritten | apply fits_fwComplete | apply fits_when
    | split | intro _ | dsimp only

theorem fits_settleFailed : Fits rk (settleFailed s) := by
  unfold settleFailed
  repeat' with_reducible first
    | assumption | apply fits_memberEnd | apply fits_forEach | (simp only [↓fits_mk_iff]; apply Fits.regs) | split | intro _

theorem fits_retryHeld (n : Nat) : Fits rk (retryHeld n s) := by
  unfold retryHeld
  repeat' with_reducible first | assumption | apply fits_retryPlans | apply fits_servePiece | apply fits_forEach | split | intro _

theorem fits_answerPlans : Fits rk (answerPlans s) := by
  unfold answerPlans
  repeat' with_reducible first
    | assumption | apply fits_retryHeld | apply fits_buildPlan | apply fits_forEach | (simp only [↓fits_mk_iff]; apply Fits.regs) | split
    | intro _ | dsimp only

theorem fits_goOn : Fits rk (goOn s) := by
  unfold goOn
  repeat' with_reducible first
    | assumption | apply fits_issueJob | apply fits_sendStop | apply fits_stageWaiting | apply fits_unexpose | apply fits_forEach | split
    | intro _ | dsimp only

theorem fits_after : Fits rk (after s) := by
  unfold after
  repeat' with_reducible first
    | assumption | apply fits_goOn | apply fits_answerPlans | apply fits_settleFailed | apply fits_pump | apply fits_openWaiting
    | apply fits_settle | apply fits_copyBack | apply fits_startQueued

end

end Sys2Proof.Machine
end

section
/-! Drives put in and taken out, and links that stay down (R147, R299): the obligation O13. -/

open Sys2Proof

namespace Sys2Proof.Machine

/-- A member of array 0 whose drive is powered and whose link is down, in a state whose register map holds more than a word for BUSY of the
array's evaluation. -/
def wideBusy : State :=
  setF (Reg.STP_ARRAY_CFG_VALID 0) 1 (setF (Reg.STP_ARRAY_SLOTMAP_SLOTS 0 0) 1 (setF (Reg.SLT_STATUS_PRESENT 0) 1 (setF (Reg.SLT_STATUS_ON12 0) 1
    (setF (Reg.SLT_STATUS_ON5 0) 1 { State.reset with regs := [((Reg.STP_ARRAY_EVAL_BUSY 0).key, 2 ^ 40)] }))))

/-- BUSY is not 0, so no evaluation starts (R68), and nothing writes BUSY. -/
theorem exec_linkDownEraseTimer_wideBusy : ∃ t, exec (.linkDownEraseTimer 0) wideBusy = .next t ∧ t.get (Reg.STP_ARRAY_EVAL_BUSY 0) = 2 ^ 40 := by
  rw [exec_linkDownEraseTimer]
  exact ⟨_, rfl, by decide +kernel⟩

/-- Refutes O13: a member's erasure leaves BUSY of its array's evaluation as it is where an evaluation runs already, and a state may hold any
number for BUSY but 0 while one runs; the clause has it read 1. -/
theorem not_drivesComeAndGo : ¬ Obligations.DrivesComeAndGo := by
  unfold Obligations.DrivesComeAndGo
  rintro ⟨-, -, -, h⟩
  obtain ⟨t, ht, -, hbusy, -⟩ := h wideBusy 0 0 (by decide +kernel) (by decide +kernel) (by decide +kernel) (by decide +kernel) (by decide +kernel)
    (by decide +kernel) (by decide +kernel) (by decide +kernel)
  obtain ⟨u, hu, hwide⟩ := exec_linkDownEraseTimer_wideBusy
  have hsame : after t = u := Host.Outcome.next.inj (ht.symm.trans hu)
  have hfits : Fits (Reg.STP_ARRAY_EVAL_BUSY 0).key t := ⟨⟨(show t.get (Reg.STP_ARRAY_EVAL_BUSY 0) < 2 ^ 32 by rw [hbusy]; decide)⟩⟩
  have hless : (after t).get (Reg.STP_ARRAY_EVAL_BUSY 0) < 2 ^ 32 := (fits_after hfits).regs.lt
  rw [hsame, hwide] at hless
  exact absurd hless (by decide)

end Sys2Proof.Machine
end
